-- ==== Sys2Proof/Word.lean ====
section
/-!
DEFINITION. The words of the machine: 32-bit words and the 36-bit tagged words of R271 and R272.
-/

namespace Sys2Proof

/-- A 32-bit word: a register, a payload. -/
abbrev Word := BitVec 32

/-- A tag (R271): bits [35:32] of a tagged word. -/
abbrev Tag := BitVec 4

/-- A word of the cores, the near data stores, the Granary and the images: a tag and a payload (R271). -/
structure TWord where
  tag : Tag
  val : Word
deriving DecidableEq, Repr, Inhabited

namespace Tag

/-- No value (R272). -/
abbrev nil : Tag := 0
/-- Signed two's complement integer (R272). -/
abbrev int : Tag := 1
/-- Unsigned integer (R272). -/
abbrev nat : Tag := 2
/-- Signed Q16.16 (R272). -/
abbrev fix : Tag := 3
/-- IEEE 754 binary32 (R272). -/
abbrev flt : Tag := 4
/-- Boolean (R272). -/
abbrev bool : Tag := 5
/-- Frame.slot stamp (R272, R277). -/
abbrev time : Tag := 6
/-- Byte address (R272). -/
abbrev ptr : Tag := 7
/-- Channel handle (R272). -/
abbrev chan : Tag := 8
/-- Message-object handle (R272). -/
abbrev msg : Tag := 9
/-- Opaque key handle (R272). -/
abbrev key : Tag := 10
/-- Return address (R272). -/
abbrev code : Tag := 11
/-- 32 untyped bits (R272). -/
abbrev raw : Tag := 12
/-- Customer-defined (R272). -/
abbrev u1 : Tag := 13
/-- Customer-defined (R272). -/
abbrev u2 : Tag := 14
/-- Reserved (R272). -/
abbrev reserved : Tag := 15

end Tag

namespace TWord

/-- NIL with payload 0 (R272). -/
abbrev nil0 : TWord := ⟨Tag.nil, 0⟩
/-- NAT with payload 0. -/
abbrev nat0 : TWord := ⟨Tag.nat, 0⟩
/-- A NAT word of a number, taken modulo 2^32. -/
abbrev nat (n : Nat) : TWord := ⟨Tag.nat, BitVec.ofNat 32 n⟩
/-- An INT word of an integer, taken modulo 2^32. -/
abbrev int (z : Int) : TWord := ⟨Tag.int, BitVec.ofInt 32 z⟩
/-- The signed value of the payload. -/
abbrev sint (w : TWord) : Int := w.val.toInt

end TWord

end Sys2Proof
end

