-- ==== Sys2Proof/Syntax.lean ====
section
/-!
DEFINITION. The commands: one constructor per row of the opcode table, and what their operands are made of.
-/

namespace Sys2Proof

/-- A sensor or a land whose reading a command may carry. Readings are integers: mA, mV, 1/16 °C; a digital land reads
0 or 1. -/
inductive Sensor where
  /-- Current of a high-side channel's or a half-bridge's land, mA (R83); o as in `Outp`. -/
  | outI (o : Nat)
  /-- Voltage of that land, mV. -/
  | outV (o : Nat)
  /-- Its junction sensor, 1/16 °C. -/
  | outTj (o : Nat)
  /-- On-resistance of a channel, µΩ, and drift × 1024 of its segment `k`, corrected to 25 °C (R109). -/
  | ron (o : Nat)
  | segDrift (o k : Nat)
  /-- Die sensor of power die `d`, 1/16 °C (R105). -/
  | die (d : Nat)
  /-- Supply group `g`, mV (R420). -/
  | vbat (g : Nat)
  | vhold
  /-- Land of switch input `i`, mean over its latch window, mV (R216); of wake input `n`; of analog input `a`. -/
  | swLand (i : Nat)
  | wakeLand (n : Nat)
  | ain (a : Nat)
  /-- Voltage and current of sensor supply `v`, mV and mA (R238). -/
  | vsMv (v : Nat)
  | vsMa (v : Nat)
  /-- Logic junction, 1/16 °C (R446). -/
  | tlog
  /-- Coil channel `ch`: current in mA and land in mV (R146), low-side and clamp junctions in 1/16 °C, energy that its
  clamp took in the frame, µJ (R182). -/
  | plI (ch : Nat)
  | plV (ch : Nat)
  | plTj (ch : Nat)
  | plClp (ch : Nat)
  | plUj (ch : Nat)
  /-- Bank switch `b`: current in mA, junction in 1/16 °C (R188). -/
  | pbI (b : Nat)
  | pbTj (b : Nat)
  /-- PX channel `x`: current in mA, junction in 1/16 °C, clamp energy of the frame, µJ (R191). -/
  | pxI (x : Nat)
  | pxTj (x : Nat)
  | pxUj (x : Nat)
  /-- Junction of LED sink `n`, 1/16 °C (R211). -/
  | ledTj (n : Nat)
  /-- A frame of another node is in progress on the bus of CAN controller `n`; occasions of the frame on which its
  transceiver saw swapped lines (R468). -/
  | canBusy (n : Nat)
  | canSwap (n : Nat)
  /-- Signal quality of Ethernet port `p` (R538). -/
  | sqi (p : Nat)
  /-- Level of GPIO land `n` (R661). -/
  | gpio (n : Nat)
  /-- Peak current of aerial `a` at the end of the wake carrier, mA (R546). -/
  | lfPeak (a : Nat)
  /-- VPP, mV (R625); the deviation of the crystal from the RC, ppm (R635); current of regulator phase `p`, mA (R633). -/
  | vpp
  | xrc
  | phase (p : Nat)
  /-- Comparator lane `l` of core `c` fails its test: 1; comparator cycles of the frame in which the core retired no echoed
  instruction (R383, R384). -/
  | lane (c l : Nat)
  | laneIdle (c : Nat)
  /-- Byte that the UHF transceiver shifts in at a raw access (R548); pages of the recovery buffer programmed since the last write
  of RDATA (R613). -/
  | umiso
  | rpages
  /-- What the check bits, or in a near store and the custom region the parity, say of the stored word at a byte address until it is
  stored again or written back (R317, R357, R410): the codes of `Ecc`. -/
  | ecc (a : Nat)
  /-- A bank does not wake in time: 1 (R409). -/
  | bankFails (b : Nat)
deriving DecidableEq, Repr

/-- What a sensor reads before any command has carried a reading of it: supplies at 24 V, temperatures at 25 °C, drift
at its factory value, everything else 0. -/
def Sensor.initial : Sensor → Int
  | .vbat _ => 24000
  | .vhold => 16000
  | .outTj _ => 400
  | .die _ => 400
  | .tlog => 400
  | .plTj _ => 400
  | .plClp _ => 400
  | .pbTj _ => 400
  | .pxTj _ => 400
  | .ledTj _ => 400
  | .plV _ => 24000
  | .segDrift _ _ => 1024
  | .laneIdle _ => 64
  | _ => 0

/-- Readings that a command carries. -/
abbrev World := List (Sensor × Int)

/-- What the check bits of a word that is read say (R410): no error, one corrected bit, an uncorrectable word; or three or more wrong
bits, which are corrected wrongly or pass undetected. -/
inductive Ecc where
  | clean | single | double | wrong | unseen
deriving DecidableEq, Repr

/-- A reading of a word's check bits. -/
def Ecc.ofInt (z : Int) : Ecc := if z = 1 then .single else if z = 2 then .double else if z = 3 then .wrong else if z = 4 then .unseen else .clean

/-- How often a fault of the hardware meets an operation: never, once, so that a replay succeeds, or again at the replay. -/
inductive Hits where
  | never | once | twice
deriving DecidableEq, Repr

/-- A disturbance of one physical slice of a core's datapath (R367, R368): the item of the instruction's record that it meets, the
slice, the bits it flips there, and the passes in which it acts. -/
structure Slip where
  item : Nat
  slice : Fin 4
  bits : BitVec 9
  first : Bool := true
  second : Bool := true
deriving DecidableEq, Repr

/-- What the hardware itself does to an instruction of a core, beside its effect: datapath parity errors (R316), disturbed slices
(R367), and a parity error of the echo buffer's entry (R374). -/
structure Phys where
  parity : Hits := .never
  slips : List Slip := []
  bufPar : Bool := false
deriving DecidableEq, Repr

/-- Who makes an access: a core, the host port, the Aedus link. -/
inductive Master where
  | core (c : Fin 2)
  | host
  | link
deriving DecidableEq, Repr

/-- One access that waits at a lane of the Granary (R401): its requester (0 C0, 1 C1, 2 BAL, 3 HST, 4 SEC, 5 NET, 6 PLD,
7 link, 8 scrubber), the word's number in its bank, the word to store for a write, and whether it is a fetch. A paired access reads its
word and the next one, or stores a second word there (R399). -/
structure GAcc where
  who : Nat
  word : Nat
  data : Option TWord := none
  fetch : Bool := false
  pair : Bool := false
  data2 : TWord := TWord.nil0
deriving DecidableEq, Repr

/-- A CAN message (R455). `len` is its length in bytes, which a remote frame carries without data; `more` is by how much the DLC of a
classical frame of 8 bytes exceeds 8 (R472). -/
structure CanMsg where
  id : Nat := 0
  xtd : Bool := false
  rtr : Bool := false
  fdf : Bool := false
  brs : Bool := false
  esi : Bool := false
  len : Nat := 0
  data : List Nat := []
  more : Nat := 0
deriving DecidableEq, Repr

/-- Why a transmission of a CAN controller ends without success (R462): it loses arbitration; it is not acknowledged, and a
dominant bit is seen or not during the passive error flag; a stuff error at a recessive stuff bit during arbitration; any other
error of the standard. -/
inductive CanErr where
  | arbitration
  | ack (dominant : Bool)
  | stuffArb
  | other
deriving DecidableEq, Repr

/-- What a start of the device finds: what the check bits of Silo records say as they are read, whether a path of the safe image
does not follow, the cells that a Silo operation cut off by the reset had programmed, and readings, those of the comparator lanes
among them (R262, R381, R619, R627). -/
structure Startup where
  ecc : List (Nat × Ecc) := []
  pathBad : Bool := false
  cells : Nat := 0
  seen : World := []
deriving DecidableEq, Repr

/-- The commands, one constructor per row of the opcode table, each with its operands; a row's rule and meaning stand beside it. -/
inductive Instr where
  /-- REGISTER_WRITE: A store to a register field that has no row of its own takes effect at once, is held for the next edge, or clears
  W1C bits, according to its access code (R4). -/
  | registerWrite (m : Master) (job : Bool) (a : Nat) (v : TWord)
  /-- FRAME_EDGE: At the end of each frame period the edge latches inputs, applies staged writes, commits the output image and closes
  the input image (R22). -/
  | frameEdge (w : World)
  /-- SLOT_BOUNDARY: A slot of the frame begins, a counted number of peripheral cycles after the edge (R18). -/
  | slotBoundary (w : World)
  /-- SEAL_DEADLINE: At E_{k+1} - 5 µs the device judges whether every core named in SEALMASK has sealed (R28). -/
  | sealDeadline
  /-- FIRMWARE_CUTOFF: At E_{k+1} - 2 µs later firmware staged stores roll to the edge after next (R38). -/
  | firmwareCutoff
  /-- HOST_CUTOFF: At E_{k+1} - 20 µs later host transactions roll to the edge after next (R39). -/
  | hostCutoff
  /-- JOB_RELEASE: An enabled job whose phase matches the frame becomes ready at E + 2 µs or at the start of its release slot (R42). -/
  | jobRelease (j : Fin 64)
  /-- EVENT_RAISE: An enabled event sets its pending bit on its core, or merges with a pending one and sets EVMRG (R48). -/
  | eventRaise (n : Fin 128)
  /-- EVENT_DISPATCH: A pending event whose priority allows it enters its handler at EVTPC, pushing a context entry and clearing the
  pending bit (R49). -/
  | eventDispatch (c : Fin 2)
  /-- JOB_START: A ready job whose priority allows it issues its first instruction on its core (R688). -/
  | jobStart (c : Fin 2)
  /-- SEV: A write of 1 to bit b of FRM.SEV raises software event 96 + b (R52). -/
  | sev (w : Word)
  /-- FRAMELO_READ: A read of FRM.FRAMELO returns FRAME[31:0] and captures FRAME[47:32] into FRAMEHI for the reading master (R64). -/
  | frameloRead (m : Master)
  /-- INRUSH_WINDOW_CLOSE: At the first edge at or after MS milliseconds from its opening the inrush window closes and INR becomes ON
  (R76). -/
  | inrushWindowClose (c : Fin 48)
  /-- OVERCURRENT_SHUTOFF: A channel whose summed current exceeds its active threshold shuts off within 2 µs and enters WAIT or LOCK
  (R79). -/
  | overcurrentShutoff (c : Fin 48) (amps land : Int)
  /-- JUNCTION_SHUTOFF: A channel whose junction exceeds 165 °C shuts off within 2 µs, sets TLATCH and enters WAIT or LOCK (R79). -/
  | junctionShutoff (c : Fin 48) (deg : Int)
  /-- TLATCH_CLEAR: TLATCH clears by itself when the junction sensor falls to 150 °C or below (R98). -/
  | tlatchClear (o : Fin 56) (deg : Int)
  /-- CHANNEL_RESTART: At its due edge or later a channel in WAIT restarts into INR or ON with RETRIES + 1, or is deferred and sets
  DEFER (R99). -/
  | channelRestart (o : Fin 56)
  /-- RETRIES_HEAL: RETRIES returns to 0 after 16 × HEAL consecutive trip-free frames in ON or INR (R101). -/
  | retriesHeal (o : Fin 56)
  /-- PAIR_IMBALANCE: After 16 frames of imbalance a pair sets IMBAL and its even channel's Winnow source (R74). -/
  | pairImbalance (c : Fin 48)
  /-- SLOT_SAMPLE: At the midpoint of each slot every channel, half-bridge and PX current is sampled at the same instant (R83). -/
  | slotSample (w : World)
  /-- STREAM_SAMPLE_WRITE: Each selected slot sample is written to the Granary stream ring within 2 µs, or the frame's samples are
  dropped on a non-owner bank (R85). -/
  | streamSampleWrite
  /-- DIE_SHED: In a slot where a die sensor reads 170 °C or more the lowest-priority on channels of the die are shed within 2 µs
  (R106). -/
  | dieShed (d : Fin 7) (deg : Int)
  /-- SHED_ESCALATE: If the die still reads 170 °C eight slots later the next priority level is shed (R106). -/
  | shedEscalate (d : Fin 7) (deg : Int)
  /-- HB_SHUTOFF: A half-bridge over current or over temperature turns off both switches, or all four of a bridge, within 2 µs (R116). -/
  | hbShutoff (n : Fin 8) (amps deg land : Int)
  /-- HB_STALL: A half-bridge current at or above STTH for STN consecutive slots is a stall, reported and stopped when STACT is 1
  (R137). -/
  | hbStall (n : Fin 8)
  /-- OFF_STATE_PHASE_A: At the end of slot h - 1 the land voltage under the pull-up current is sampled and the pull-down is switched on
  (R125). -/
  | offStatePhaseA (o : Fin 56) (land odd : Int)
  /-- OFF_STATE_CHECK: At the end of slot S_eff - 3 the phase-B sample is taken and OL and STB are decided (R126). -/
  | offStateCheck (o : Fin 56) (land odd : Int)
  /-- REVERSE_ON: When a group's VBAT falls below -1.0 V every channel it feeds turns fully on within 50 µs (R132). -/
  | reverseOn (g : Fin 3) (mv : Int)
  /-- REVERSE_END: When VBAT rises above -0.5 V the reverse-on ends within 2 µs and the channel is off (R132). -/
  | reverseEnd (g : Fin 3) (mv : Int)
  /-- ENGINE_START: A write of RUN = 1 to PRS.ECTL puts both threads of the engine into IDLE (R158). -/
  | engineStart (e : Fin 6)
  /-- ENGINE_STOP: A write of RUN = 0 to PRS.ECTL puts both threads into STOP within 2 µs (R158). -/
  | engineStop (e : Fin 6)
  /-- HOLD_ENDED: The hold-ended flag sets when ON is 0 or HTIME frames have passed since the activation, moving HOLD to REL (R155). -/
  | holdEnded (t : Fin 12)
  /-- GRANTED_SLOT_START: At the start of its granted slot a thread in WAITG enters PEAK at CSTART (R160). -/
  | grantedSlotStart (t : Fin 12)
  /-- REGULATOR_SAMPLE: At each 0.5 µs coil sample the regulator switches the low side or enters the off phase by the hysteresis band
  (R165). -/
  | regulatorSample (w : World)
  /-- DETECTOR_WINDOW_CLOSE: The armature detector window expires without a confirmed seat and NARM holds (R170). -/
  | detectorWindowClose (t : Fin 12)
  /-- UC_NOP: Microcode NOP does nothing (R166). -/
  | ucNop (t : Fin 12)
  /-- UC_SET: Microcode SET sets the target current from VAL or a parameter (R166). -/
  | ucSet (t : Fin 12)
  /-- UC_RAMP: Microcode RAMP moves the target toward its value by RATE at each sample and retires on reaching it (R166). -/
  | ucRamp (t : Fin 12)
  /-- UC_WAITS: Microcode WAITS waits for the N-th slot boundary after issue (R166). -/
  | ucWaits (t : Fin 12)
  /-- UC_WAITU: Microcode WAITU waits N microseconds (R166). -/
  | ucWaitu (t : Fin 12)
  /-- UC_WAITU_EXPIRE: The WAITU delay expires and the thread continues (R166). -/
  | ucWaituExpire (t : Fin 12)
  /-- UC_WAITC: Microcode WAITC waits for a current crossing with an optional timeout (R166). -/
  | ucWaitc (t : Fin 12)
  /-- UC_WAITC_TIMEOUT: The WAITC timeout expires, setting T, and the thread continues (R167). -/
  | ucWaitcTimeout (t : Fin 12)
  /-- UC_DECAY: Microcode DECAY selects slow, fast or mixed decay, MODE 3 being a microcode fault (R166). -/
  | ucDecay (t : Fin 12)
  /-- UC_BR: Microcode BR branches when its condition holds (R168). -/
  | ucBr (t : Fin 12)
  /-- UC_LPS: Microcode LPS loads the loop count (R166). -/
  | ucLps (t : Fin 12)
  /-- UC_LPJ: Microcode LPJ decrements the loop count and jumps while it is not zero (R166). -/
  | ucLpj (t : Fin 12)
  /-- UC_ARMD: Microcode ARMD arms or disarms the armature detector (R166). -/
  | ucArmd (t : Fin 12)
  /-- UC_HOLD: Microcode HOLD enters HOLD, or falls through to REL when the hold has ended (R160). -/
  | ucHold (t : Fin 12)
  /-- UC_SIG: Microcode SIG writes CODE to the record and raises the engine's event (R166). -/
  | ucSig (t : Fin 12)
  /-- UC_END: Microcode END ends the profile, moving the thread to IDLE or to a pending restart (R160). -/
  | ucEnd (t : Fin 12)
  /-- MICROCODE_FAULT: An illegal opcode, condition, decay mode, advance past word 511 or double parity error moves the thread to FAULT
  (R169). -/
  | microcodeFault (t : Fin 12) (parity : Bool)
  /-- COIL_SHUTOFF: A PL channel over current or low-side over temperature shuts it off within 2 µs and moves its thread to FAULT
  (R178). -/
  | coilShutoff (ch : Fin 12) (amps deg : Int)
  /-- BANK_SHUTOFF: A bank switch over current or over temperature shuts off within 2 µs, locks and faults every channel on the bank
  (R177). -/
  | bankShutoff (b : Fin 3) (amps deg : Int)
  /-- CLAMP_OVERTEMP: A clamp junction reaching 165 °C while conducting switches the decay to slow within 2 µs (R150). -/
  | clampOvertemp (ch : Fin 12) (deg : Int)
  /-- LOADER_COPY_COMPLETE: The microcode copy completes within 4 µs and stalled fetches of the range proceed (R164). -/
  | loaderCopyComplete
  /-- PX_SHUTOFF: A PX channel above 9000 mA or 165 °C shuts off within 2 µs and locks (R184). -/
  | pxShutoff (x : Fin 4) (amps deg : Int)
  /-- LED_MEASUREMENT: A sink measures its current and headroom at a slot midpoint or 300 cycles into a pulse and updates its status
  counts (R207). -/
  | ledMeasurement (n : Fin 24) (amps head : Int)
  /-- LED_OVERTEMP: A sink junction above 165 °C turns the sink off within 2 µs and sets OT (R211). -/
  | ledOvertemp (n : Fin 24) (deg : Int)
  /-- WETTING_PULSE_START: At E_{k+1} - 50 µs each enabled switch input starts its wetting pulse (R216). -/
  | wettingPulseStart
  /-- WATCH_TRANSITION: A transition of a switch input's watch comparator raises its raw event when EVSEL selects it (R223). -/
  | watchTransition (n : Fin 48) (closed : Bool)
  /-- WATCH_FREEZE_END: At E + 5 µs the frozen watch output is released and a change over the freeze counts as one transition (R222). -/
  | watchFreezeEnd
  /-- WAKE_INPUT_TRANSITION: A raw transition of WAKE0 or WAKE1 raises event 48 + n when enabled (R225). -/
  | wakeInputTransition (n : Fin 2) (mv : Int)
  /-- AIN_SAMPLE: At the start of slot S_eff - 2 every enabled AIN is sampled together and converted for the next image (R226). -/
  | ainSample (w : World)
  /-- BIAS_CHECK_SAMPLE: At the start of slot S_eff - 1 a biased second sample gives ZB, REVS and ZERR, and the bias is removed (R229). -/
  | biasCheckSample (w : World)
  /-- VSENS_OVERCURRENT: A VSENS below 4.5 V for 8 consecutive slots turns off and latches OC (R231). -/
  | vsensOvercurrent (v : Fin 4)
  /-- VSENS_EXTERNAL_DRIVE: A VSENS land driven above 5.6 V or below -0.3 V turns the supply off within 10 µs and sets EXT (R231). -/
  | vsensExternalDrive (v : Fin 4) (mv : Int)
  /-- WARN_PULSE_END: The WARN_P pulse expires and the land returns to WARN.DRV (R246). -/
  | warnPulseEnd
  /-- STICKY_CLEAR: A write of 1s to WIN.STICKY clears non-F sticky bits, releasing ERR_S when no S or F bit remains (R257). -/
  | stickyClear (m : Fin 6) (w : Word) (job : Bool)
  /-- SOURCE_FORCE: A write to WIN.FORCE raises the named sources once, class F only under ARMF (R258). -/
  | sourceForce (m : Fin 6) (w : Word) (job : Bool)
  /-- SWSET: A write to WIN.SWSET raises software sources 180 + b (R260). -/
  | swset (w : Word)
  /-- CLASS_LOCK: A write of 1 to WIN.CTL.LOCK locks WIN.CLASS until power-on reset (R261). -/
  | classLock (job : Bool)
  /-- CLASS_F_END: All three groups below 3.0 V together for long enough end a class F halt (R264). -/
  | classFEnd (ms : Nat) (u : Startup)
  /-- NOP: The NOP instruction does nothing (R326). -/
  | nop (c : Fin 2) (p : Phys)
  /-- FENCE: FENCE waits until the store buffer is empty before any later access (R300). -/
  | fence (c : Fin 2) (p : Phys)
  /-- SEAL: SEAL marks the core's staging stores sealed for the next edge when it retires before the deadline (R28). -/
  | sealIns (c : Fin 2) (p : Phys)
  /-- WAITE: WAITE ends a job's run (R286). -/
  | waite (c : Fin 2) (p : Phys)
  /-- RETE: RETE ends a handler and returns through the event return path (R286). -/
  | rete (c : Fin 2) (p : Phys)
  /-- BRK: The BRK instruction raises the BRK trap or halts the core for debug under BRKHALT (R393). -/
  | brk (c : Fin 2) (p : Phys)
  /-- BCC: Bcc branches by an 8-bit displacement when its condition holds (R327). -/
  | bcc (c : Fin 2) (p : Phys)
  /-- INC: UNARY INC increments register d (R326). -/
  | inc (c : Fin 2) (p : Phys)
  /-- DEC: UNARY DEC decrements register d (R326). -/
  | dec (c : Fin 2) (p : Phys)
  /-- NEG: UNARY NEG negates register d (R310). -/
  | neg (c : Fin 2) (p : Phys)
  /-- ABS: UNARY ABS takes the absolute value of register d (R310). -/
  | abs (c : Fin 2) (p : Phys)
  /-- NOT: UNARY NOT inverts register d (R326). -/
  | not (c : Fin 2) (p : Phys)
  /-- CLRN: UNARY CLRN writes NIL 0 to register d (R326). -/
  | clrn (c : Fin 2) (p : Phys)
  /-- TST: UNARY TST sets flags from register d (R332). -/
  | tst (c : Fin 2) (p : Phys)
  /-- SWT: SWT raises the software trap with its number in TVAL (R292). -/
  | swt (c : Fin 2) (p : Phys)
  /-- RET: RET jumps to the CODE word in a register (R341). -/
  | ret (c : Fin 2) (p : Phys)
  /-- JMPR: JMPR jumps to the PTR or CODE payload in a register (R341). -/
  | jmpr (c : Fin 2) (p : Phys)
  /-- TSTAMP: TSTAMP returns the core's latest entry stamp (R344). -/
  | tstamp (c : Fin 2) (p : Phys)
  /-- NOW: NOW returns the stamp of the moment it retires (R345). -/
  | now (c : Fin 2) (p : Phys)
  /-- SETCNT: SETCNT writes CNT from its operand byte (R326). -/
  | setcnt (c : Fin 2) (p : Phys)
  /-- ADD: ADD writes a + b with flags (R309). -/
  | add (c : Fin 2) (p : Phys)
  /-- SUB: SUB writes a - b with flags (R309). -/
  | sub (c : Fin 2) (p : Phys)
  /-- MUL: MUL writes the low product with flags (R309). -/
  | mul (c : Fin 2) (p : Phys)
  /-- DIV: DIV writes a / b, or NIL 0 for a zero divisor (R311). -/
  | div (c : Fin 2) (p : Phys)
  /-- REM: REM writes the remainder of a by b (R310). -/
  | rem (c : Fin 2) (p : Phys)
  /-- AND: AND writes the bitwise or logical AND (R332). -/
  | and (c : Fin 2) (p : Phys)
  /-- OR: OR writes the bitwise or logical OR (R332). -/
  | or (c : Fin 2) (p : Phys)
  /-- XOR: XOR writes the bitwise or logical XOR (R332). -/
  | xor (c : Fin 2) (p : Phys)
  /-- SHL: SHL shifts a left by b (R312). -/
  | shl (c : Fin 2) (p : Phys)
  /-- SHR: SHR shifts a right by b with zero fill (R312). -/
  | shr (c : Fin 2) (p : Phys)
  /-- SAR: SAR shifts a right by b with sign fill (R312). -/
  | sar (c : Fin 2) (p : Phys)
  /-- ROL: ROL rotates a left by b (R312). -/
  | rol (c : Fin 2) (p : Phys)
  /-- ROR: ROR rotates a right by b (R312). -/
  | ror (c : Fin 2) (p : Phys)
  /-- CMP: CMP sets the flags of a - b and writes no register (R333). -/
  | cmp (c : Fin 2) (p : Phys)
  /-- MIN: MIN writes the smaller operand (R334). -/
  | min (c : Fin 2) (p : Phys)
  /-- MAX: MAX writes the larger operand (R334). -/
  | max (c : Fin 2) (p : Phys)
  /-- MOV: MOV copies a whole word (R328). -/
  | mov (c : Fin 2) (p : Phys)
  /-- CVT: CVT converts a word to another tag (R335). -/
  | cvt (c : Fin 2) (p : Phys)
  /-- TTEST: TTEST sets T when the tag of a equals the named tag (R328). -/
  | ttest (c : Fin 2) (p : Phys)
  /-- TAGOF: TAGOF writes the tag of a as NAT (R328). -/
  | tagof (c : Fin 2) (p : Phys)
  /-- LDX: LDX loads the word at a + b (R328). -/
  | ldx (c : Fin 2) (p : Phys)
  /-- STX: STX stores d at a + b (R328). -/
  | stx (c : Fin 2) (p : Phys)
  /-- XCHG: XCHG reads the word at a and writes b there (R340). -/
  | xchg (c : Fin 2) (p : Phys)
  /-- CAS: CAS compares the word at a with d and writes b on a match (R340). -/
  | cas (c : Fin 2) (p : Phys)
  /-- XADD: XADD reads the word at a and adds b to it (R340). -/
  | xadd (c : Fin 2) (p : Phys)
  /-- BMOV: BMOV copies CNT words from b to a one word at a time (R338). -/
  | bmov (c : Fin 2) (p : Phys)
  /-- BFILL: BFILL writes b to CNT words from a (R338). -/
  | bfill (c : Fin 2) (p : Phys)
  /-- TSUB: TSUB writes the frame difference of two TIME words (R346). -/
  | tsub (c : Fin 2) (p : Phys)
  /-- TFRM: TFRM writes the frame field of a TIME word (R346). -/
  | tfrm (c : Fin 2) (p : Phys)
  /-- TSLOT: TSLOT writes the slot field of a TIME word (R346). -/
  | tslot (c : Fin 2) (p : Phys)
  /-- MFS: MFS reads a special or control register (R342). -/
  | mfs (c : Fin 2) (p : Phys)
  /-- MTS: MTS writes a special or control register, checking mode and tag (R342). -/
  | mts (c : Fin 2) (p : Phys)
  /-- CADD: CADD adds a byte count to a CODE word (R341). -/
  | cadd (c : Fin 2) (p : Phys)
  /-- CALLR: CALLR saves the return CODE and jumps to a register target (R341). -/
  | callr (c : Fin 2) (p : Phys)
  /-- HCHAN: HCHAN makes a CHAN handle from a kind and index (R347). -/
  | hchan (c : Fin 2) (p : Phys)
  /-- HREC: HREC returns a pointer to a channel's input record (R348). -/
  | hrec (c : Fin 2) (p : Phys)
  /-- HCMD: HCMD returns a pointer to a channel's staging command word (R348). -/
  | hcmd (c : Fin 2) (p : Phys)
  /-- HMSG: HMSG makes an MSG handle from a CAN port and object (R349). -/
  | hmsg (c : Fin 2) (p : Phys)
  /-- HOBJ: HOBJ returns a pointer to a message object's port (R349). -/
  | hobj (c : Fin 2) (p : Phys)
  /-- HIDX: HIDX returns the name of a handle as NAT (R347). -/
  | hidx (c : Fin 2) (p : Phys)
  /-- KEYH: KEYH makes a KEY handle for a key slot (R350). -/
  | keyh (c : Fin 2) (p : Phys)
  /-- CJOB: CJOB reads a six-word descriptor into the crypto queue and returns the job number (R586). -/
  | cjob (c : Fin 2) (p : Phys)
  /-- MOVI: MOVI writes an immediate under a named tag (R331). -/
  | movi (c : Fin 2) (p : Phys)
  /-- ALUI_ADD: ALUI with X 0 adds an immediate (R329). -/
  | aluiAdd (c : Fin 2) (p : Phys)
  /-- ALUI_SUB: ALUI with X 1 subtracts an immediate (R329). -/
  | aluiSub (c : Fin 2) (p : Phys)
  /-- ALUI_MUL: ALUI with X 2 multiplies by an immediate (R329). -/
  | aluiMul (c : Fin 2) (p : Phys)
  /-- ALUI_DIV: ALUI with X 3 divides by an immediate (R329). -/
  | aluiDiv (c : Fin 2) (p : Phys)
  /-- ALUI_REM: ALUI with X 4 takes the remainder by an immediate (R329). -/
  | aluiRem (c : Fin 2) (p : Phys)
  /-- ALUI_AND: ALUI with X 5 ANDs an immediate (R329). -/
  | aluiAnd (c : Fin 2) (p : Phys)
  /-- ALUI_OR: ALUI with X 6 ORs an immediate (R329). -/
  | aluiOr (c : Fin 2) (p : Phys)
  /-- ALUI_XOR: ALUI with X 7 XORs an immediate (R329). -/
  | aluiXor (c : Fin 2) (p : Phys)
  /-- ALUI_SHL: ALUI with X 8 shifts left by an immediate count (R331). -/
  | aluiShl (c : Fin 2) (p : Phys)
  /-- ALUI_SHR: ALUI with X 9 shifts right with zero fill by an immediate count (R331). -/
  | aluiShr (c : Fin 2) (p : Phys)
  /-- ALUI_SAR: ALUI with X 10 shifts right with sign fill by an immediate count (R331). -/
  | aluiSar (c : Fin 2) (p : Phys)
  /-- ALUI_ROL: ALUI with X 11 rotates left by an immediate count (R331). -/
  | aluiRol (c : Fin 2) (p : Phys)
  /-- ALUI_ROR: ALUI with X 12 rotates right by an immediate count (R331). -/
  | aluiRor (c : Fin 2) (p : Phys)
  /-- ALUI_CMP: ALUI with X 13 compares against an immediate and writes no register (R330). -/
  | aluiCmp (c : Fin 2) (p : Phys)
  /-- ALUI_MIN: ALUI with X 14 takes the minimum with an immediate (R329). -/
  | aluiMin (c : Fin 2) (p : Phys)
  /-- ALUI_MAX: ALUI with X 15 takes the maximum with an immediate (R329). -/
  | aluiMax (c : Fin 2) (p : Phys)
  /-- LD: LD loads the word at a + displacement (R329). -/
  | ld (c : Fin 2) (p : Phys)
  /-- ST: ST stores b at a + displacement (R329). -/
  | st (c : Fin 2) (p : Phys)
  /-- BR: BR branches by a 16- or 32-bit displacement when its condition holds (R329). -/
  | br (c : Fin 2) (p : Phys)
  /-- CALL: CALL saves the return CODE and branches by a displacement (R341). -/
  | call (c : Fin 2) (p : Phys)
  /-- BTAG: BTAG branches when the tag of a equals or differs from X (R329). -/
  | btag (c : Fin 2) (p : Phys)
  /-- ADR: ADR writes a PTR relative to the next instruction (R329). -/
  | adr (c : Fin 2) (p : Phys)
  /-- ILLEGAL_INSTRUCTION: An undefined encoding, reserved prefix or bad length raises ILL (R290). -/
  | illegalInstruction (c : Fin 2) (p : Phys)
  /-- CUST: A custom instruction checks its operands and runs its decode entry's microcode (R356). -/
  | cust (c : Fin 2) (p : Phys)
  /-- CUSTOM_REGION_CLOSE: A write of 1 to CDCTL.CLOSED closes the custom decode region until power-on reset (R353). -/
  | customRegionClose (m : Master) (job : Bool)
  /-- STORE_DRAIN: The oldest buffered store leaves the store buffer when its target accepts it (R298). -/
  | storeDrain (c : Fin 2)
  /-- CORE_RESTART: A write to ECH.CRST restarts a core in echo halt at RSTPC (R380). -/
  | coreRestart (m : Master) (job : Bool) (w : Word)
  /-- MRD: The Aedus link reads a word through the address map with SUP rights (R388). -/
  | mrd (a : Nat) (e : Ecc) (par : Bool)
  /-- MWR: The Aedus link writes a word with its tag, checked by the echo lanes where safety pages exist (R391). -/
  | mwr (a : Nat) (v : TWord) (differs par dataPar : Bool)
  /-- RRD: The Aedus link reads a register of a halted core (R390). -/
  | rrd (c : Fin 2) (r : Nat) (par : Bool)
  /-- RWR: The Aedus link writes a register of a halted core into both register files (R390). -/
  | rwr (c : Fin 2) (r : Nat) (v : TWord) (par dataPar : Bool)
  /-- DRD: The Aedus link reads a DBG register (R388). -/
  | drd (o : BitVec 16) (par : Bool)
  /-- DWR: The Aedus link writes a DBG register (R388). -/
  | dwr (o : BitVec 16) (v : TWord) (par dataPar : Bool)
  /-- LINK_RESET: DRSTn low for 1 µs or more resets the link to idle (R387). -/
  | linkReset
  /-- DEBUG_HALT: A write of 1 to DBG.CTL.HALT stops the core at its next retirement boundary (R392). -/
  | debugHalt (c : Fin 2)
  /-- DEBUG_RESUME: A write of 0 to DBG.CTL.HALT resumes the core (R392). -/
  | debugResume (c : Fin 2)
  /-- STEP: A write of 1 to STEP retires one instruction of a halted core and halts again (R392). -/
  | step (c : Fin 2)
  /-- RESTART: A write of 1 to DBG.CTL.RESTART restarts a core in echo halt or double-trap halt (R394). -/
  | restart (c : Fin 2)
  /-- LANE_GRANT: A Granary lane grants one waiting access per lane cycle in round-robin order and checks ownership (R401). -/
  | laneGrant (b : Fin 16) (l : Fin 8) (arrived : List GAcc) (e : Ecc)
  /-- CORRECTED_WRITEBACK: The corrected word is written back in the lane's next idle cycle (R410). -/
  | correctedWriteback (b : Fin 16) (w : Fin 65536)
  /-- OWNER_WRITE: A write to GRN.OWN changes a bank's owner once it completes (R406). -/
  | ownerWrite (m : Master) (b : Fin 16) (w : Word)
  /-- BANK_STATE_WRITE: A write to GRN.BPWR requests ON, RET or OFF for a bank (R408). -/
  | bankStateWrite (b : Fin 16) (w : Word)
  /-- BANK_POWER_DOWN: A requested RET or OFF takes effect once no access to the bank waits or runs (R408). -/
  | bankPowerDown (b : Fin 16)
  /-- BANK_WAKE_COMPLETE: A bank woken by an owner access reaches ON and the stalled access proceeds (R409). -/
  | bankWakeComplete (b : Fin 16)
  /-- BANK_WAKE_TIMEOUT: A bank that has not reached ON in time completes the access as NIL and sets WAKEF and source 21 (R409). -/
  | bankWakeTimeout (b : Fin 16)
  /-- SCRUB_READ: Every INTV microseconds a bank's scrubber reads its next word and writes back a corrected one (R411). -/
  | scrubRead (b : Fin 16) (e : Ecc)
  /-- LANE_COPY_COMPLETE: The lane copy completes and the spare takes the lane's words at the next edge (R414). -/
  | laneCopyComplete (b : Fin 16)
  /-- GROUP_OVERVOLTAGE_OFF: A group above 62 V for the filter time turns its outputs off within 5 µs (R421). -/
  | groupOvervoltageOff (g : Fin 3) (mv : Int)
  /-- DIP_OFF: A group below 4.5 V for the filter time turns its outputs off within 5 µs (R421). -/
  | dipOff (g : Fin 3) (mv : Int)
  /-- REVERSE_LATCH: A reversal of 1 ms or more sets the group's reverse latch and PWR.REV (R424). -/
  | reverseLatch (g : Fin 3) (us : Nat) (powered : Bool)
  /-- LOGIC_DIP: VBAT_C below 4.5 V turns outputs off, stops cores, frame and PLL, and moves domains to RET (R425). -/
  | logicDip (mv : Int)
  /-- LOGIC_DIP_END: VBAT_C above 5.0 V within 500 ms ends the dip, restores the domains and resumes the cores (R426). -/
  | logicDipEnd (mv : Int) (us lock : Nat)
  /-- POWER_UP: VBAT_C rising from below 3.0 V with every AON cell empty resets the device (R428). -/
  | powerUp (u : Startup)
  /-- LOW_SUPPLY: VBAT_C below 3.0 V outside a logic dip resets the device (R428). -/
  | lowSupply (mv : Int) (u : Startup)
  /-- LONG_DIP: A logic dip that reaches 500 ms resets the device (R428). -/
  | longDip (u : Startup)
  /-- HOLD_UP_EMPTY: VHOLD below 5.0 V during a logic dip resets the device (R428). -/
  | holdUpEmpty (mv : Int) (u : Startup)
  /-- BROWN_OUT: A brown-out of the logic rail resets the device (R431). -/
  | brownOut (u : Startup)
  /-- RESET_LAND: RSTn low for 10 µs or more resets the device (R658). -/
  | resetLand (ns : Nat) (u : Startup)
  /-- CORE_DOMAIN_DOWN: A RET or OFF request for a core domain takes effect once the core is idle with an empty stack (R435). -/
  | coreDomainDown (c : Fin 2)
  /-- DOMAIN_WAKE_COMPLETE: A waking domain reaches ON and the stalled demand proceeds (R436). -/
  | domainWakeComplete (d : Fin 32)
  /-- RESUME_EDGE: The first edge after a dip or parking recommits the image, 60 µs after PLL lock (R439). -/
  | resumeEdge (w : World)
  /-- PARK_ENTRY: Four AON cycles after the parking edge the frame, clocks and buck stop and the LDO takes the load (R440). -/
  | parkEntry (us : Nat)
  /-- WAKE_REQUEST: A wake source is recognised at an AON cycle while parked, WCAUSE is recorded and the clocks restart (R443). -/
  | wakeRequest (wup fec : List (Fin 2)) (hcs : Bool)
  /-- PLL_LOCK: The PLL locks after the crystal is valid, leading to the resume edge (R443). -/
  | pllLock (us lock : Nat)
  /-- AON_TIMER_EXPIRE: PWR.AONT.COUNT reaches 0 from 1 and sets DONE (R441). -/
  | aonTimerExpire
  /-- CRYSTAL_STOP: A stopped crystal sets source 32 and the clocks run from the internal RC (R655). -/
  | crystalStop
  /-- CAN_RUN_START: A write of RUN = 1 starts a CAN controller integrating on the bus (R451). -/
  | canRunStart (n : Fin 6)
  /-- CAN_RUN_STOP: A write of RUN = 0 stops a CAN controller after the frame in progress (R451). -/
  | canRunStop (n : Fin 6) (busy : Bool)
  /-- CAN_INTEGRATED: After 11 recessive bits the controller takes part on the bus and clears its counters (R451). -/
  | canIntegrated (n : Fin 6)
  /-- OBJCFG_WRITE: A write to CANn.OBJCFG empties the object, cancels its pending transmission and releases its lock (R453). -/
  | objcfgWrite (n : Fin 6) (o : Fin 256) (w : Word)
  /-- CAN_FRAME_RECEIVED: A valid received frame goes to a matching RX object, to the queue or is discarded (R454). -/
  | canFrameReceived (n : Fin 6) (m : CanMsg) (res : Bool)
  /-- OBJECT_PORT_READ: A read of an object port takes the lock and steps through the object's words, a complete read releasing it
  (R456). -/
  | objectPortRead (m : Master) (n : Fin 6) (o : Fin 256)
  /-- OBJECT_PORT_WRITE: Writes to a TX object port fill the object and the last word commits it for transmission (R461). -/
  | objectPortWrite (m : Master) (n : Fin 6) (o : Fin 256) (w : Word)
  /-- LCKREL: A write of 1 to CANn.LCKREL abandons the writing master's lock (R459). -/
  | lckrel (m : Master) (n : Fin 6)
  /-- QACK: A write of 1 to CANn.QACK frees the head queue entry (R464). -/
  | qack (n : Fin 6)
  /-- CAN_TX_START: At a frame start opportunity the controller offers the pending frame that would win arbitration (R463). -/
  | canTxStart (n : Fin 6)
  /-- CAN_TX_SUCCESS: A transmitted frame succeeds and clears TXP unless newer content is pending (R462). -/
  | canTxSuccess (n : Fin 6)
  /-- CAN_TX_ERROR: A transmission meets an error or loses arbitration and its latest content stays pending (R462). -/
  | canTxError (n : Fin 6) (e : CanErr) (more : Nat)
  /-- RECOVER: A write of 1 to CTL.RECOVER in bus-off starts the recovery count (R467). -/
  | recover (n : Fin 6)
  /-- BUS_OFF_RECOVERY: After 128 occurrences of 11 recessive bits the controller is error active with cleared counters (R467). -/
  | busOffRecovery (n : Fin 6)
  /-- SELECTIVE_WAKE: While parked a wake-up pattern or matching wake frame on CAN0 or CAN1 wakes the device (R472). -/
  | selectiveWake (n : Fin 2) (m : CanMsg) (rate : Fin 4)
  /-- LIN_HEADER_SEND: A write to LINm.HDR on a commander sends break, sync and protected identifier, or is refused while busy (R477). -/
  | linHeaderSend (m : Fin 4) (id : Fin 64)
  /-- LIN_HEADER_RECEIVED: A received header within rate tolerance selects the response handling of its BCFG (R478). -/
  | linHeaderReceived (m : Fin 4) (id : Fin 64) (rate : Nat) (good : Bool)
  /-- LIN_RESPONSE_RECEIVED: A valid subscribed response replaces the buffer data and increments SEQ, a bad checksum setting CKERR
  (R480). -/
  | linResponseReceived (m : Fin 4) (data : List Nat) (cks : Nat) (framing : Bool)
  /-- LIN_RESPONSE_SENT: A published response is sent with its checksum, a bit error setting FRERR (R478). -/
  | linResponseSent (m : Fin 4) (bitError : Bool)
  /-- LIN_NO_RESPONSE: A subscribed response not ended within 1.4 times its time sets NORESP (R478). -/
  | linNoResponse (m : Fin 4)
  /-- LIN_BUS_DOMINANT: A dominant bus for 12 ms turns the transmitter off and sets BUSDOM (R481). -/
  | linBusDominant (m : Fin 4)
  /-- LIN_BUS_RELEASE: BUSDOM clears after 1 ms of recessive level (R481). -/
  | linBusRelease (m : Fin 4)
  /-- LIN_WAKE_SEND: A write of 1 to WAKE.SEND drives a 1 ms dominant wake pulse (R481). -/
  | linWakeSend (m : Fin 4)
  /-- LIN_WAKE_RECEIVED: A dominant pulse of 150 µs to 5 ms outside a frame sets WAKERX (R481). -/
  | linWakeReceived (m : Fin 4) (us : Nat)
  /-- LIN_IDLE: After 4 s without bus activity IDLE reads 1 (R481). -/
  | linIdle (m : Fin 4)
  /-- NM_FRAME_SEND: An NM frame is built and offered as a pending CAN frame at E + 2 µs (R488). -/
  | nmFrameSend
  /-- NCLR: A write of 1 to NM.NCLR.CLR clears every KEEP and WAKES (R498). -/
  | nclr
  /-- ETH_LINK_UP: A port links within 100 ms of both ends being enabled with opposite roles (R503). -/
  | ethLinkUp (p : Fin 2) (farMaster : Bool)
  /-- ETH_LINK_DOWN: A port's LINK falling sets source 160 + p and raises event 60 when enabled (R503). -/
  | ethLinkDown (p : Fin 2)
  /-- ETH_FRAME_RECEIVED: The switch forwards or takes a received frame and queues it by priority, dropping it on a full queue (R504). -/
  | ethFrameReceived (p : Fin 2) (bytes : List Nat) (fcs : Bool)
  /-- ETH_FRAME_EGRESS: An egress port sends the next frame of its highest non-empty queue (R505). -/
  | ethFrameEgress (p : Fin 2)
  /-- FOLLOW_UP_TIMEOUT: A held two-step residence without a matching Follow_Up within 1 s is dropped (R513). -/
  | followUpTimeout
  /-- DELAY_REQ_SEND: At a randomised interval the ordinary clock sends Delay_Req to the parent (R514). -/
  | delayReqSend
  /-- PTP_SOURCE_LOST: Missing Syncs, announce timeout or missing PPS_IN edges lose the time source (R516). -/
  | ptpSourceLost
  /-- TLO_READ: A read of TIM.TLO returns T[31:0] and captures T[63:32] (R511). -/
  | tloRead (m : Master)
  /-- CNTLO_READ: A read of TIM.CNTLO returns COUNT[31:0] and captures COUNT[63:32] (R511). -/
  | cntloRead (m : Master)
  /-- NRATELO_WRITE: A write of TIM.NRATELO stages a manual RATE (R515). -/
  | nrateloWrite (w : Word)
  /-- NOFFLO_WRITE: A write of TIM.NOFFLO stages a step of OFFSET (R515). -/
  | noffloWrite (w : Word)
  /-- PPS_OUT_PULSE: When T reaches a whole second PPS_OUT is driven active for WID ms (R523). -/
  | ppsOutPulse
  /-- PPS_IN_EDGE: A PPS_IN edge captures T and raises event 62 (R523). -/
  | ppsInEdge (rising : Bool)
  /-- ALMLO_WRITE: A write of TIM.ALMLO arms the alarm (R523). -/
  | almloWrite (w : Word)
  /-- ALARM: T reaching ALM raises event 63 and disarms the alarm (R523). -/
  | alarm
  /-- BALER_RECORD_BUILD: At E + 2 µs the Baler builds the frame record, writes it to the ring and queues its fragments (R532). -/
  | balerRecordBuild
  /-- RECORD_REQUEST_SERVE: A waiting record request is served, up to 16 per frame (R534). -/
  | recordRequestServe
  /-- SEARCH_START: At E + 2 µs of a matching edge a token search starts its LF telegram (R543). -/
  | searchStart
  /-- RETRY_SEARCH: After a window with collisions and no grant a retry search starts at the next edge (R555). -/
  | retrySearch
  /-- LF_TELEGRAM_END: The last field burst ends, capturing t_ref and opening the reply slots (R545). -/
  | lfTelegramEnd (w : World)
  /-- AERIAL_SHORT: An aerial above 1800 mA turns off within 2 µs and sets SHORT (R546). -/
  | aerialShort (a : Fin 6) (amps : Int)
  /-- TOKEN_REPLY: A UIRQ in a reply slot captures COUNT and the packet is read and relay-checked (R551). -/
  | tokenReply (after : Nat) (packet : List Nat)
  /-- REPLY_WINDOW_CLOSE: The reply window closes and authentication of the passed tokens begins in slot order (R553). -/
  | replyWindowClose
  /-- MEM_RECEIVED: A MEM packet is verified and decrypted, granting or refusing the token (R553). -/
  | memReceived (packet : List Nat)
  /-- MEM_TIMEOUT: No MEM within 20 ms of AUTH logs result 5 and moves on (R553). -/
  | memTimeout
  /-- RELEASE_END: After REL.DUR frames the door bridge returns to its committed command (R556). -/
  | releaseEnd
  /-- PERMIT_FRAME: Every PMT.PER ms a permit frame is built and offered on the permit CAN port (R557). -/
  | permitFrame
  /-- PERMIT_END: The permit ends at its end time or on ALLOW 0 with a final end frame (R557). -/
  | permitEnd
  /-- BUTTON_PACKET: A BUTTON packet is checked against its token's counter and accepted, held or rejected (R561). -/
  | buttonPacket (packet : List Nat)
  /-- URAW_ACCESS: An ACC.URAW access shifts a byte to or from the transceiver while the block is stopped (R548). -/
  | urawAccess (w : Option Word) (back : Nat)
  /-- PEPOCH_WRITE: A write of ACC.PEPOCH sets the permit sequence to 0 and marks the epoch set (R559). -/
  | pepochWrite (w : Word) (job : Bool)
  /-- READ: A host READ returns words of one input image with their tags (R570). -/
  | read (src : Option (Nat × Nat)) (b : List Nat)
  /-- WRITE: A host WRITE performs its entries at once in order, stopping at the first failure (R571). -/
  | write (src : Option (Nat × Nat)) (b : List Nat)
  /-- TXN: A host TXN closes a transaction that applies whole at its named or scheduled edge (R572). -/
  | txn (src : Option (Nat × Nat)) (b : List Nat)
  /-- HRESET: A host reset discards held transactions and pending responses and resets negotiation at the next edge (R580). -/
  | hreset (src : Option (Nat × Nat)) (b : List Nat)
  /-- HOST_NOP: A host NOP request is answered with an empty response (R568). -/
  | hostNop (src : Option (Nat × Nat)) (b : List Nat)
  /-- SPI_SHORT_FRAME: An SPI frame shorter than LEN or 16 bytes is discarded and sets SHORT (R575). -/
  | spiShortFrame (b : List Nat)
  /-- COMMIT: A host write of 1 to HST.COMMIT stages feature negotiation for the next edge (R578). -/
  | commit
  /-- AES_CTR: Crypto job AES-CTR encrypts or decrypts LEN bytes (R589). -/
  | aesCtr (j : Fin 16) (e : Ecc)
  /-- GCM_ENC: Crypto job GCM-ENC encrypts and tags (R589). -/
  | gcmEnc (j : Fin 16) (e : Ecc)
  /-- GCM_DEC: Crypto job GCM-DEC decrypts and checks the tag, zeroing output on failure (R590). -/
  | gcmDec (j : Fin 16) (e : Ecc)
  /-- CMAC: Crypto job CMAC computes a tag (R589). -/
  | cmac (j : Fin 16) (e : Ecc)
  /-- CMAC_VER: Crypto job CMAC-VER checks a tag (R589). -/
  | cmacVer (j : Fin 16) (e : Ecc)
  /-- SHA256: Crypto job SHA256 computes a digest (R589). -/
  | sha256 (j : Fin 16) (e : Ecc)
  /-- SLH_VER: Crypto job SLH-VER verifies an SLH-DSA-SHA2-128s signature (R589). -/
  | slhVer (j : Fin 16) (e : Ecc)
  /-- ATTEST: Crypto job ATTEST writes a signed attestation report (R593). -/
  | attest (j : Fin 16) (e : Ecc)
  /-- IDPK: Crypto job IDPK writes the identity public key (R589). -/
  | idpk (j : Fin 16)
  /-- RANDOM: Crypto job RANDOM writes DRBG bytes, or ends with ENTROPY on a health failure (R591). -/
  | random (j : Fin 16)
  /-- KLOAD: Crypto job KLOAD loads a key into a general slot (R589). -/
  | kload (j : Fin 16) (e : Ecc)
  /-- KERASE: Crypto job KERASE empties a general slot (R589). -/
  | kerase (j : Fin 16)
  /-- KWRAP: Crypto job KWRAP seals a key under the device storage key (R589). -/
  | kwrap (j : Fin 16)
  /-- KUNWRAP: Crypto job KUNWRAP loads a key from a sealed blob (R589). -/
  | kunwrap (j : Fin 16) (e : Ecc)
  /-- XREAD: Crypto job XREAD copies flash bytes to the Granary (R589). -/
  | xread (j : Fin 16)
  /-- XPROG: Crypto job XPROG programs one flash page (R595). -/
  | xprog (j : Fin 16) (e : Ecc)
  /-- XERASE: Crypto job XERASE erases one flash sector (R595). -/
  | xerase (j : Fin 16)
  /-- IVERIFY: Crypto job IVERIFY checks an image header and signature without loading (R589). -/
  | iverify (j : Fin 16)
  /-- HLOAD: Crypto job HLOAD verifies and loads an image's segments for a held core (R608). -/
  | hload (j : Fin 16)
  /-- CONFIRM: Crypto job CONFIRM programs a slot's CONF bit (R589). -/
  | confirm (j : Fin 16)
  /-- CRYPTO_JOB_COMPLETE: A crypto job completes, writing JST, setting JDONE and raising event 76 (R587). -/
  | cryptoJobComplete (j : Fin 16)
  /-- FLASH_TIMEOUT: A flash operation that does not finish within 5 s ends with status XSPI (R595). -/
  | flashTimeout (j : Fin 16)
  /-- JDONE_CLEAR: A write of 1 to a JDONE bit frees its queue entry (R587). -/
  | jdoneClear (w : Word) (job : Bool)
  /-- TRNG_HEALTH_FAIL: A failing SP 800-90B health test sets TRNGF and source 170 (R591). -/
  | trngHealthFail
  /-- BOOT: After the start-up tests C0 runs the ROM, verifies and loads a slot and hands off or enters recovery (R605). -/
  | boot (lands : Fin 4)
  /-- HCTL_START: A write to HCTL.START starts a core held by a completed HLOAD (R609). -/
  | hctlStart (w : Word) (job : Bool)
  /-- RECOVER_ENTRY: A write of 0x5EC0_0D1E to SEC.RECOVER stops both cores and enters recovery (R611). -/
  | recoverEntry (w : Word) (job : Bool)
  /-- RECOVERY_ERASE: RCTL.ERASE erases the selected slot in recovery (R613). -/
  | recoveryErase (slot : Fin 4) (job : Bool)
  /-- RDATA_WRITE: A write of RDATA appends a word at RADDR and advances it, or is dropped on a full buffer (R613). -/
  | rdataWrite (w : Word) (pages : Nat) (job : Bool)
  /-- RECOVERY_VERIFY: RCTL.VERIFY programs what remains and checks the slot's header, signature and digest (R613). -/
  | recoveryVerify (slot : Fin 4) (job : Bool)
  /-- RECOVERY_BOOT: RCTL.BOOT loads the verified slot and hands off without a reset (R613). -/
  | recoveryBoot (slot : Fin 4) (job : Bool)
  /-- DRESP_CHECK: A write of DRESP[3] checks the unlock response, opening the debug lock or drawing a new challenge (R614). -/
  | drespCheck (w : Word) (job : Bool)
  /-- PROG: Silo PROG writes PDHI and PDLO into the lowest blank generation of a record (R625). -/
  | prog (mv : Int) (job : Bool)
  /-- ARBSTEP: Silo ARBSTEP raises the anti-rollback count by one (R626). -/
  | arbstep (mv : Int) (job : Bool)
  /-- WEAR: Silo WEAR programs the present substitution map into the wear records (R638). -/
  | wear (mv : Int) (job : Bool)
  /-- SILO_OP_COMPLETE: A Silo operation completes and reports its status in PSTAT (R625). -/
  | siloOpComplete (fail1 fail2 : Bool)
  /-- SILO_ABORT: VPP or VBAT_C leaving range during an operation aborts it and sets source 177 (R627). -/
  | siloAbort (mv vbat : Int) (cells : Nat)
  /-- LANE_RETIRE: A lane whose corrected errors reach LTH in a window is retired (R632). -/
  | laneRetire (b : Fin 16) (l : Fin 9)
  /-- FRC: A write of GLN.FRC treats a named element as worn at the next edge (R637). -/
  | frc (w : Word) (job : Bool)
  /-- PLL_UNLOCK: The core PLL loses lock and source 34 sets (R243). -/
  | pllUnlock
  /-- ALL_CLOCKS_LOST: Crystal, internal RC and PLL reference all fail and the fixed class F source 33 sets (R243). -/
  | allClocksLost
  /-- AON_CLOCK_STOP: The 32.768 kHz AON clock stops and source 37 sets (R243). -/
  | aonClockStop
  /-- COUNTER_PARITY_ERROR: A parity error in the free-running local counter COUNT sets source 38 (R508). -/
  | counterParityError
  /-- CAN_BUS_ERROR: A bus error detected while receiving changes REC under the standard and may move the controller to error passive
  (R465). -/
  | canBusError (n : Fin 6) (heavy : Nat)
  /-- SPI_IDLE_FRAME: An SPI frame of only 0xFF bytes clocks out the pending response, which leaves the device and releases HIRQn
  (R575). -/
  | spiIdleFrame (n : Nat)
  /-- HOST_BAD_REQUEST: A host message with bad MAGIC, VER, LEN or TYPE is refused with BADHDR or BADTYPE (R569). -/
  | hostBadRequest (src : Option (Nat × Nat)) (b : List Nat)
  /-- TRNG_HEALTH_PASS: A TRNG health test passes again, which clears TRNGF and lets random output return (R591). -/
  | trngHealthPass
  /-- PPS_OUT_PULSE_END: After WID ms the PPS_OUT pulse ends and the land returns inactive (R523). -/
  | ppsOutPulseEnd
deriving DecidableEq, Repr

end Sys2Proof
end

