-- ==== Sys2Proof/Config.lean ====
section
/-!
DEFINITION. What an implementation fixes and the values the spec leaves open: opaque constants, of which nothing can be
proved. Each is named in a row of the assumption log.
-/

namespace Sys2Proof.Config

/-- A value the spec leaves open, fresh for each number (the state's counter of free values). -/
opaque freeWord : Nat → BitVec 32

/-- A number the spec leaves open, fresh for each number. -/
opaque freeNat : Nat → Nat

/-- Whether a quantity that falls between two steps of a fixed resolution, where the spec names the resolution and no
rounding, takes the upper one. The arguments are the exact quantity's numerator and denominator. -/
opaque roundsUp : Int → Nat → Bool

/-- The contents of the ROM, by word number (R305); the spec gives none. -/
opaque romWord : Nat → TWord

/-- The device storage key of slot 31, derived from the device seed by a derivation that the spec does not give (R584). -/
opaque storageKey : List Nat → List Nat

end Sys2Proof.Config
end

