-- ==== Sys2Proof/Machine/Maps.lean ====
section
/-!
DEFINITION. Sparse data by key in one canonical form (keys strictly rising, no entry equal to what an unlisted key
reads as), fixed tables by index, and the bit-field helpers that every block uses.
-/

namespace Sys2Proof.Machine

/-- What a sparse map reads at a key: the listed value, else the default of that key. -/
def AMap.get {α : Type} (d : Nat → α) : List (Nat × α) → Nat → α
  | [], k => d k
  | (k', v) :: t, k => if k = k' then v else AMap.get d t k

/-- Writes a key and keeps the canonical form: a value equal to the default of its key leaves no entry. -/
def AMap.put {α : Type} [DecidableEq α] (d : Nat → α) : List (Nat × α) → Nat → α → List (Nat × α)
  | [], k, v => if v = d k then [] else [(k, v)]
  | (k', v') :: t, k, v =>
    if k < k' then (if v = d k then (k', v') :: t else (k, v) :: (k', v') :: t)
    else if k = k' then (if v = d k then t else (k, v) :: t)
    else (k', v') :: AMap.put d t k v

/-- Every key of the map is above `b`. -/
def AMap.above {α : Type} (b : Nat) : List (Nat × α) → Bool
  | [] => true
  | (k, _) :: t => decide (b < k) && AMap.above b t

/-- The canonical form: keys strictly rising, no entry equal to its default. -/
def AMap.wf {α : Type} [DecidableEq α] (d : Nat → α) : List (Nat × α) → Bool
  | [] => true
  | (k, v) :: t => decide (v ≠ d k) && AMap.above k t && AMap.wf d t

/-- The numbers `0` to `n - 1`, in rising order. -/
def upto : Nat → List Nat
  | 0 => []
  | n + 1 => upto n ++ [n]

/-- The indices of a table of `n` entries, in rising order. -/
def allFin (n : Nat) : List (Fin n) := (upto n).filterMap (fun i => if h : i < n then some ⟨i, h⟩ else none)

/-- One entry of a table changed. -/
def upd {α : Type} {n : Nat} (v : Vector α n) (i : Fin n) (f : α → α) : Vector α n := v.set i (f v[i])

/-- An entry of a table by number; `d` where there is none. -/
def nth {α : Type} {n : Nat} (v : Vector α n) (i : Nat) (d : α) : α := if h : i < n then v[i] else d

/-- An entry of a table changed by number; nothing where there is none. -/
def updN {α : Type} {n : Nat} (v : Vector α n) (i : Nat) (f : α → α) : Vector α n :=
  if h : i < n then v.set i (f v[i]) else v

/-- Runs an operation on a state for every index of a table, in rising order. -/
def forEach {σ : Type} (n : Nat) (f : σ → Nat → σ) (s : σ) : σ := (upto n).foldl f s

/-- Bits `lo` to `lo + w - 1` of a number. -/
def bitsN (x lo w : Nat) : Nat := (x >>> lo) % 2 ^ w

/-- One bit of a number. -/
def bitN (x i : Nat) : Bool := x.testBit i

/-- A Bool as a bit. -/
def b2n (b : Bool) : Nat := if b then 1 else 0

/-- The value of `w` bits read as a two's complement number. -/
def signedN (x w : Nat) : Int := if x < 2 ^ (w - 1) then (x : Int) else (x : Int) - 2 ^ w

/-- A number clamped between two bounds. -/
def clampN (lo hi x : Nat) : Nat := max lo (min hi x)

/-- Adds one, stopping at a largest value. -/
def incTo (m x : Nat) : Nat := min m (x + 1)

/-- Bits of a word. -/
def getBits (w : Word) (lo width : Nat) : Nat := bitsN w.toNat lo width

/-- A word with some of its bits replaced by a number, taken modulo the field's size. -/
def setBits (w : Word) (lo width v : Nat) : Word :=
  BitVec.ofNat 32 (w.toNat - (bitsN w.toNat lo width) * 2 ^ lo + (v % 2 ^ width) * 2 ^ lo)

end Sys2Proof.Machine
end

