-- ==== Sys2Proof/Machine/Regs.lean ====
section
/-!
DEFINITION. The peripheral registers: every register of every block's field tables, with its offset, its fields,
their access codes (R4) and reset values (R13), and a named field for every field of the tables.
A field with no line in a register is reserved: it reads 0 and ignores writes (R9).
-/

namespace Sys2Proof.Machine

/-- The access code of a register field (R4), an RW field with its property (R7). -/
inductive Access where
  | ro | rw | rwStopped | st | rs | w1c | wo
deriving DecidableEq, Repr

/-- One field of a register: its bits, its access code, its reset value and, where the table states a range to which
the field is clamped, that range. -/
structure FldSpec where
  hi : Nat
  lo : Nat
  acc : Access
  reset : Nat
  clamp : Option (Nat × Nat) := none
deriving DecidableEq, Repr

/-- One line of a block's offset table: a register or an array of registers. `ptr`: a store requires the PTR tag;
`int`: a load returns an INT word (R11). -/
structure RegRow where
  off : Nat
  stride : Nat := 4
  count : Nat := 1
  fields : List FldSpec
  ptr : Bool := false
  int : Bool := false
deriving DecidableEq, Repr

/-- A named field of a register: the register's address, the field's lowest bit and its width. -/
structure Fld where
  addr : Nat
  lo : Nat
  width : Nat
deriving DecidableEq, Repr

namespace Regs

/-- Registers of block FRM, part 1. -/
def frmRows1 : List RegRow := [
  -- ID (R64)
  { off := 0x0000, fields := [⟨31, 16, .ro, 1, none⟩, ⟨15, 0, .ro, 1, none⟩] },
  -- CFG (R64)
  { off := 0x0004, fields := [⟨27, 27, .st, 0, none⟩, ⟨26, 26, .st, 1, none⟩, ⟨25, 24, .st, 0, none⟩, ⟨17, 16, .st, 2, none⟩, ⟨13, 0, .st, 0x3E8, none⟩] },
  -- SEALMASK (R64)
  { off := 0x0008, fields := [⟨1, 0, .st, 0, none⟩] },
  -- STAT (R64)
  { off := 0x000C, fields := [⟨16, 8, .ro, 0x100, none⟩, ⟨7, 7, .w1c, 0, none⟩, ⟨6, 6, .w1c, 0, none⟩, ⟨5, 5, .w1c, 0, none⟩, ⟨4, 4, .w1c, 0, none⟩, ⟨3, 3, .w1c, 0, none⟩, ⟨2, 1, .ro, 0, none⟩, ⟨0, 0, .ro, 0, none⟩] },
  -- FRAMELO (R64)
  { off := 0x0010, fields := [⟨31, 0, .ro, 0, none⟩] },
  -- FRAMEHI (R64)
  { off := 0x0014, fields := [⟨15, 0, .ro, 0, none⟩] },
  -- SLOT (R64)
  { off := 0x0018, fields := [⟨31, 16, .ro, 0, none⟩, ⟨8, 0, .ro, 0, none⟩] },
  -- SEALED (R64)
  { off := 0x001C, fields := [⟨1, 0, .ro, 0, none⟩] },
  -- OVRCNT (R64)
  { off := 0x0020, fields := [⟨31, 0, .ro, 0, none⟩] },
  -- SLACK (R64)
  { off := 0x0024, fields := [⟨31, 0, .ro, 0, none⟩] },
  -- SLACKMIN (R64)
  { off := 0x0028, fields := [⟨31, 0, .rw, 0xFFFFFFFF, none⟩] },
  -- SEV (R64)
  { off := 0x002C, fields := [⟨31, 0, .wo, 0, none⟩] },
  -- EVMRG (R64)
  { off := 0x0030, stride := 4, count := 4, fields := [⟨31, 0, .w1c, 0, none⟩] },
  -- JOBACT (R64)
  { off := 0x0040, stride := 4, count := 2, fields := [⟨31, 0, .ro, 0, none⟩] },
  -- JOBOVR (R64)
  { off := 0x0048, stride := 4, count := 2, fields := [⟨31, 0, .w1c, 0, none⟩] },
  -- EVT (R64)
  { off := 0x0400, stride := 4, count := 128, fields := [⟨5, 2, .st, 0, none⟩, ⟨1, 1, .st, 0, none⟩, ⟨0, 0, .st, 0, none⟩] }]

/-- Registers of block FRM, part 2. -/
def frmRows2 : List RegRow := [
  -- EVTPC (R64)
  { off := 0x0600, stride := 4, count := 128, fields := [⟨31, 0, .st, 0, none⟩], ptr := true },
  -- JOBPC (R64)
  { off := 0x0800, stride := 4, count := 64, fields := [⟨31, 0, .st, 0, none⟩], ptr := true },
  -- JOB (R64)
  { off := 0x0900, stride := 4, count := 64, fields := [⟨30, 30, .st, 0, none⟩, ⟨29, 22, .st, 0, none⟩, ⟨21, 14, .st, 0, none⟩, ⟨13, 6, .st, 0, none⟩, ⟨5, 2, .st, 0, none⟩, ⟨1, 1, .st, 0, none⟩, ⟨0, 0, .st, 0, none⟩] }]

/-- Every register of block FRM. -/
def frmRows : List RegRow :=
  frmRows1 ++ frmRows2

/-- Registers of block SW, part 1. -/
def swRows1 : List RegRow := [
  -- ID (R122)
  { off := 0x0000, fields := [⟨31, 16, .ro, 2, none⟩, ⟨15, 0, .ro, 1, none⟩] },
  -- STAT (R122)
  { off := 0x0004, fields := [⟨3, 3, .w1c, 0, none⟩, ⟨2, 2, .w1c, 0, none⟩, ⟨1, 1, .w1c, 0, none⟩, ⟨0, 0, .w1c, 0, none⟩] },
  -- PAIR (R122)
  { off := 0x0008, fields := [⟨27, 24, .st, 0, none⟩, ⟨23, 4, .st, 0, none⟩, ⟨3, 0, .st, 0, none⟩] },
  -- WAMB (R122)
  { off := 0x000C, fields := [⟨15, 0, .st, 0x280, none⟩] },
  -- WINIT (R122)
  { off := 0x0010, fields := [⟨15, 0, .st, 0x140, none⟩] },
  -- STRCFG (R122)
  { off := 0x0020, fields := [⟨0, 0, .rw, 0, none⟩] },
  -- STRBASE (R122)
  { off := 0x0024, fields := [⟨31, 0, .rwStopped, 0x10000000, none⟩], ptr := true },
  -- STRLEN (R122)
  { off := 0x0028, fields := [⟨8, 0, .rwStopped, 1, some (1, 256)⟩] },
  -- STRMASK (R122)
  { off := 0x002C, fields := [⟨31, 0, .rwStopped, 0, none⟩] },
  -- STRMASK (R122)
  { off := 0x0030, fields := [⟨23, 16, .rwStopped, 0, none⟩, ⟨15, 0, .rwStopped, 0, none⟩] },
  -- LIM (R122)
  { off := 0x0100, stride := 4, count := 48, fields := [⟨17, 0, .st, 0x7530, none⟩] },
  -- INR (R122)
  { off := 0x0200, stride := 4, count := 48, fields := [⟨30, 28, .st, 7, none⟩, ⟨27, 18, .st, 0, some (0, 500)⟩, ⟨17, 0, .st, 0xEA60, none⟩] },
  -- PROT (R122)
  { off := 0x0300, stride := 4, count := 48, fields := [⟨22, 20, .st, 3, none⟩, ⟨19, 12, .st, 0x10, none⟩, ⟨11, 4, .st, 0xA, some (1, 255)⟩, ⟨3, 0, .st, 3, none⟩] },
  -- WIRE (R122)
  { off := 0x0400, stride := 4, count := 48, fields := [⟨21, 17, .st, 0x1F, none⟩, ⟨16, 8, .st, 0x40, some (64, 256)⟩, ⟨7, 5, .st, 0, none⟩, ⟨4, 1, .st, 5, none⟩, ⟨0, 0, .st, 0, none⟩] },
  -- CLR (R122)
  { off := 0x0500, stride := 4, count := 48, fields := [⟨0, 0, .st, 0, none⟩] },
  -- HBCFG (R122)
  { off := 0x0600, stride := 4, count := 8, fields := [⟨16, 9, .st, 0x1E, some (15, 150)⟩, ⟨8, 0, .st, 0xC8, some (10, 400)⟩] }]

/-- Registers of block SW, part 2. -/
def swRows2 : List RegRow := [
  -- HBLIM (R122)
  { off := 0x0620, stride := 4, count := 8, fields := [⟨13, 0, .st, 0x2710, some (1000, 16000)⟩] },
  -- HBPROT (R122)
  { off := 0x0640, stride := 4, count := 8, fields := [⟨19, 12, .st, 0x10, none⟩, ⟨11, 4, .st, 0xA, some (1, 255)⟩, ⟨3, 0, .st, 3, none⟩] },
  -- HBCLR (R122)
  { off := 0x0660, stride := 4, count := 8, fields := [⟨0, 0, .st, 0, none⟩] },
  -- DCFG (R143)
  { off := 0x0700, stride := 4, count := 48, fields := [⟨31, 31, .st, 0, none⟩, ⟨30, 30, .st, 0, none⟩, ⟨29, 29, .st, 0, none⟩, ⟨28, 28, .st, 0, none⟩, ⟨27, 27, .st, 0, none⟩, ⟨26, 26, .st, 0, none⟩, ⟨25, 24, .st, 1, none⟩, ⟨23, 12, .st, 0, none⟩, ⟨11, 4, .st, 0xA, none⟩, ⟨2, 2, .st, 0, none⟩, ⟨1, 0, .st, 0, none⟩] },
  -- HBDCFG (R143)
  { off := 0x07C0, stride := 4, count := 8, fields := [⟨29, 29, .st, 0, none⟩, ⟨28, 28, .st, 0, none⟩, ⟨27, 27, .st, 0, none⟩, ⟨26, 26, .st, 0, none⟩, ⟨25, 24, .st, 1, none⟩, ⟨23, 12, .st, 0, none⟩, ⟨11, 4, .st, 0xA, none⟩, ⟨2, 2, .st, 0, none⟩, ⟨1, 0, .st, 0, none⟩] },
  -- HBSTALL (R143)
  { off := 0x07E0, stride := 4, count := 8, fields := [⟨31, 31, .st, 0, none⟩, ⟨30, 30, .st, 0, none⟩, ⟨29, 22, .st, 0xA, none⟩, ⟨21, 14, .st, 8, some (1, 255)⟩, ⟨13, 0, .st, 0, none⟩] }]

/-- Every register of block SW. -/
def swRows : List RegRow :=
  swRows1 ++ swRows2

/-- Registers of block PRS, part 1. -/
def prsRows1 : List RegRow := [
  -- ID (R192)
  { off := 0x0000, fields := [⟨31, 16, .ro, 3, none⟩, ⟨15, 0, .ro, 1, none⟩] },
  -- STAT (R192)
  { off := 0x0004, fields := [⟨2, 2, .w1c, 0, none⟩, ⟨1, 1, .w1c, 0, none⟩, ⟨0, 0, .w1c, 0, none⟩] },
  -- PAIR (R192)
  { off := 0x0008, fields := [⟨5, 0, .st, 0, none⟩] },
  -- LDSRC (R192)
  { off := 0x000C, fields := [⟨31, 0, .st, 0x10000000, none⟩], ptr := true },
  -- LDCTL (R192)
  { off := 0x0010, fields := [⟨22, 13, .st, 0, some (0, 512)⟩, ⟨12, 4, .st, 0, none⟩, ⟨3, 1, .st, 0, none⟩, ⟨0, 0, .st, 0, none⟩] },
  -- ECTL (R192)
  { off := 0x0040, stride := 4, count := 6, fields := [⟨0, 0, .rw, 0, none⟩] },
  -- BANK (R192)
  { off := 0x0080, stride := 4, count := 3, fields := [⟨16, 16, .st, 0, none⟩, ⟨15, 8, .st, 0xDC, some (25, 220)⟩, ⟨7, 0, .st, 0xC8, some (0, 200)⟩] },
  -- BCLR (R192)
  { off := 0x0090, stride := 4, count := 3, fields := [⟨0, 0, .st, 0, none⟩] },
  -- CHCFG (R192)
  { off := 0x0100, stride := 4, count := 12, fields := [⟨16, 16, .st, 0, none⟩, ⟨15, 15, .st, 0, none⟩, ⟨14, 7, .st, 0x8C, some (10, 140)⟩, ⟨6, 1, .st, 5, some (1, 63)⟩, ⟨0, 0, .st, 1, none⟩] },
  -- CSTART (R192)
  { off := 0x0140, stride := 4, count := 12, fields := [⟨8, 0, .st, 0, none⟩] },
  -- ARB (R192)
  { off := 0x0180, stride := 4, count := 12, fields := [⟨23, 8, .st, 1, some (1, 65535)⟩, ⟨7, 0, .st, 0, none⟩] },
  -- PARA (R192)
  { off := 0x01C0, stride := 4, count := 12, fields := [⟨27, 16, .st, 0, none⟩, ⟨11, 0, .st, 0, none⟩] },
  -- PARB (R192)
  { off := 0x0200, stride := 4, count := 12, fields := [⟨27, 16, .st, 0, none⟩, ⟨11, 0, .st, 0, none⟩] },
  -- CLR (R192)
  { off := 0x0240, stride := 4, count := 12, fields := [⟨0, 0, .st, 0, none⟩] },
  -- PXCFG (R192)
  { off := 0x0280, stride := 4, count := 4, fields := [⟨1, 1, .st, 0, none⟩, ⟨0, 0, .st, 1, none⟩] },
  -- PXCLR (R192)
  { off := 0x0290, stride := 4, count := 4, fields := [⟨0, 0, .st, 0, none⟩] }]

/-- Every register of block PRS. -/
def prsRows : List RegRow :=
  prsRows1

/-- Registers of block LED, part 1. -/
def ledRows1 : List RegRow := [
  -- ID (R215)
  { off := 0x0000, fields := [⟨31, 16, .ro, 4, none⟩, ⟨15, 0, .ro, 1, none⟩] },
  -- STAT (R215)
  { off := 0x0004, fields := [⟨2, 2, .w1c, 0, none⟩, ⟨1, 1, .w1c, 0, none⟩, ⟨0, 0, .w1c, 0, none⟩] },
  -- PAIR (R215)
  { off := 0x0008, fields := [⟨11, 0, .st, 0, none⟩] },
  -- CFG (R215)
  { off := 0x0100, stride := 4, count := 24, fields := [⟨25, 20, .st, 0, none⟩, ⟨19, 16, .st, 4, some (1, 15)⟩, ⟨15, 15, .st, 0, none⟩, ⟨14, 14, .st, 0, none⟩, ⟨13, 13, .st, 0, none⟩, ⟨12, 12, .st, 0, none⟩, ⟨11, 11, .st, 1, none⟩, ⟨10, 8, .st, 0, none⟩, ⟨7, 0, .st, 0x14, some (10, 150)⟩] },
  -- CLR (R215)
  { off := 0x0200, stride := 4, count := 24, fields := [⟨0, 0, .st, 0, none⟩] },
  -- CURVETAB (R215)
  { off := 0x1000, stride := 4, count := 512, fields := [⟨31, 16, .st, 0, none⟩, ⟨15, 0, .st, 0, none⟩] }]

/-- Every register of block LED. -/
def ledRows : List RegRow :=
  ledRows1

/-- Registers of block INP, part 1. -/
def inpRows1 : List RegRow := [
  -- ID (R239)
  { off := 0x0000, fields := [⟨31, 16, .ro, 5, none⟩, ⟨15, 0, .ro, 1, none⟩] },
  -- STAT (R239)
  { off := 0x0004, fields := [⟨0, 0, .w1c, 0, none⟩] },
  -- WAKECFG (R239)
  { off := 0x0008, fields := [⟨11, 10, .st, 3, none⟩, ⟨9, 8, .st, 0, none⟩, ⟨7, 4, .st, 2, some (1, 15)⟩, ⟨3, 2, .st, 0, none⟩, ⟨1, 0, .st, 3, none⟩] },
  -- BCHK (R239)
  { off := 0x000C, fields := [⟨7, 0, .st, 0x40, none⟩] },
  -- SWCFG (R239)
  { off := 0x0100, stride := 4, count := 48, fields := [⟨12, 12, .st, 0, none⟩, ⟨11, 11, .st, 0, none⟩, ⟨10, 10, .st, 0, none⟩, ⟨9, 8, .st, 0, none⟩, ⟨7, 4, .st, 2, some (1, 15)⟩, ⟨3, 3, .st, 0, none⟩, ⟨2, 2, .st, 0, none⟩, ⟨1, 0, .st, 0, none⟩] },
  -- SWTH (R239)
  { off := 0x0200, stride := 4, count := 48, fields := [⟨23, 16, .st, 0x78, none⟩, ⟨15, 8, .st, 0x3C, none⟩, ⟨7, 0, .st, 0xA, none⟩] },
  -- AINCFG (R240)
  { off := 0x0300, stride := 4, count := 24, fields := [⟨31, 24, .st, 0x64, none⟩, ⟨23, 16, .st, 0xA, none⟩, ⟨9, 9, .st, 0, none⟩, ⟨8, 8, .st, 0, none⟩, ⟨7, 7, .st, 0, none⟩, ⟨6, 5, .st, 0, none⟩, ⟨4, 2, .st, 0, none⟩, ⟨1, 0, .st, 0, none⟩] },
  -- VSCLR (R240)
  { off := 0x0400, stride := 4, count := 4, fields := [⟨0, 0, .st, 0, none⟩] },
  -- NTC (R240)
  { off := 0x0800, stride := 4, count := 128, fields := [⟨31, 16, .st, 0, none⟩, ⟨15, 0, .st, 0, none⟩] }]

/-- Every register of block INP. -/
def inpRows : List RegRow :=
  inpRows1

/-- Registers of block WIN, part 1. -/
def winRows1 : List RegRow := [
  -- ID (R267)
  { off := 0x0000, fields := [⟨31, 16, .ro, 6, none⟩, ⟨15, 0, .ro, 1, none⟩] },
  -- STAT (R267)
  { off := 0x0004, fields := [⟨5, 5, .ro, 0, none⟩, ⟨4, 4, .ro, 0, none⟩, ⟨2, 2, .w1c, 0, none⟩, ⟨1, 1, .w1c, 0, none⟩, ⟨0, 0, .w1c, 0, none⟩] },
  -- CTL (R267)
  { off := 0x0008, fields := [⟨3, 1, .rw, 7, none⟩, ⟨0, 0, .rw, 0, none⟩] },
  -- WARN (R267)
  { off := 0x000C, fields := [⟨1, 1, .ro, 0, none⟩, ⟨0, 0, .rw, 0, none⟩] },
  -- TEST (R267)
  { off := 0x0010, fields := [⟨0, 0, .rw, 0, none⟩] },
  -- SWSET (R267)
  { off := 0x0014, fields := [⟨11, 0, .wo, 0, none⟩] },
  -- SUMM (R267)
  { off := 0x0018, fields := [⟨3, 0, .ro, 0, none⟩] },
  -- STICKY (R267)
  { off := 0x0020, stride := 4, count := 6, fields := [⟨31, 0, .w1c, 0, none⟩] },
  -- FORCE (R267)
  { off := 0x0040, stride := 4, count := 6, fields := [⟨31, 0, .wo, 0, none⟩] },
  -- CLASS (R267)
  { off := 0x0060, stride := 4, count := 12, fields := [⟨31, 0, .st, 0, none⟩] },
  -- SAFE (R267)
  { off := 0x00A0, stride := 4, count := 7, fields := [⟨31, 0, .ro, 0, none⟩] }]

/-- Every register of block WIN. -/
def winRows : List RegRow :=
  winRows1

/-- Registers of block ECH, part 1. -/
def echRows1 : List RegRow := [
  -- ID (R395)
  { off := 0x0000, fields := [⟨31, 16, .ro, 7, none⟩, ⟨15, 0, .ro, 1, none⟩] },
  -- STAT (R395)
  { off := 0x0004, fields := [⟨7, 7, .w1c, 0, none⟩, ⟨6, 6, .w1c, 0, none⟩, ⟨5, 4, .ro, 0, none⟩, ⟨3, 2, .w1c, 0, none⟩, ⟨1, 0, .w1c, 0, none⟩] },
  -- CTL (R395)
  { off := 0x0008, fields := [⟨0, 0, .rw, 0, none⟩] },
  -- CRST (R395)
  { off := 0x000C, fields := [⟨1, 0, .wo, 0, none⟩] },
  -- RSTPC (R395)
  { off := 0x0010, stride := 4, count := 2, fields := [⟨31, 0, .rw, 0, none⟩], ptr := true },
  -- MISCNT (R395)
  { off := 0x0018, stride := 4, count := 2, fields := [⟨31, 0, .ro, 0, none⟩] },
  -- LASTPC (R395)
  { off := 0x0020, stride := 4, count := 2, fields := [⟨31, 0, .ro, 0, none⟩] },
  -- LANE (R395)
  { off := 0x0028, fields := [⟨15, 8, .ro, 0x3F, none⟩, ⟨6, 6, .ro, 0, none⟩, ⟨5, 3, .ro, 7, none⟩, ⟨2, 0, .ro, 7, none⟩] },
  -- SPG (R395)
  { off := 0x0100, stride := 4, count := 4, fields := [⟨31, 0, .st, 0, none⟩] },
  -- SGRN (R395)
  { off := 0x0110, fields := [⟨31, 16, .st, 0, none⟩, ⟨15, 0, .st, 0, none⟩] }]

/-- Every register of block ECH. -/
def echRows : List RegRow :=
  echRows1

/-- Registers of block DBG, part 1. -/
def dbgRows1 : List RegRow := [
  -- ID (R397)
  { off := 0x0000, fields := [⟨31, 16, .ro, 0x14, none⟩, ⟨15, 0, .ro, 1, none⟩] },
  -- STAT (R397)
  { off := 0x0004, fields := [⟨2, 2, .w1c, 0, none⟩, ⟨1, 1, .w1c, 0, none⟩, ⟨0, 0, .ro, 1, none⟩] },
  -- CTL (R397)
  { off := 0x0008, stride := 4, count := 2, fields := [⟨3, 3, .wo, 0, none⟩, ⟨2, 2, .rw, 0, none⟩, ⟨1, 1, .wo, 0, none⟩, ⟨0, 0, .rw, 0, none⟩] },
  -- HSTAT (R397)
  { off := 0x0010, stride := 4, count := 2, fields := [⟨8, 6, .ro, 0, none⟩, ⟨5, 3, .ro, 0, none⟩, ⟨2, 2, .ro, 0, none⟩, ⟨1, 1, .ro, 0, none⟩, ⟨0, 0, .ro, 0, none⟩] },
  -- HPC (R397)
  { off := 0x0018, stride := 4, count := 2, fields := [⟨31, 0, .ro, 0, none⟩] },
  -- BPCTL (R397)
  { off := 0x0020, fields := [⟨15, 8, .rw, 0, none⟩, ⟨7, 0, .rw, 0, none⟩] },
  -- WPCTL (R397)
  { off := 0x0024, fields := [⟨11, 8, .rw, 0, none⟩, ⟨7, 4, .rw, 0, none⟩, ⟨3, 0, .rw, 0, none⟩] },
  -- BP (R397)
  { off := 0x0040, stride := 4, count := 8, fields := [⟨31, 0, .rw, 0, none⟩] },
  -- WP (R397)
  { off := 0x0060, stride := 4, count := 4, fields := [⟨31, 2, .rw, 0, none⟩] }]

/-- Every register of block DBG. -/
def dbgRows : List RegRow :=
  dbgRows1

/-- Registers of block GRN, part 1. -/
def grnRows1 : List RegRow := [
  -- ID (R418)
  { off := 0x0000, fields := [⟨31, 16, .ro, 8, none⟩, ⟨15, 0, .ro, 1, none⟩] },
  -- STAT (R418)
  { off := 0x0004, fields := [⟨3, 3, .w1c, 0, none⟩, ⟨2, 2, .w1c, 0, none⟩, ⟨1, 1, .w1c, 0, none⟩, ⟨0, 0, .w1c, 0, none⟩] },
  -- PEND (R418)
  { off := 0x0008, fields := [⟨15, 0, .ro, 0, none⟩] },
  -- SCRUB (R418)
  { off := 0x000C, fields := [⟨7, 0, .rw, 0x10, none⟩] },
  -- NOWNA (R418)
  { off := 0x0010, fields := [⟨31, 0, .ro, 0, none⟩] },
  -- NOWNI (R418)
  { off := 0x0014, fields := [⟨4, 4, .ro, 0, none⟩, ⟨3, 3, .ro, 0, none⟩, ⟨2, 0, .ro, 0, none⟩] },
  -- OWN (R418)
  { off := 0x0100, stride := 4, count := 16, fields := [⟨2, 0, .rw, 0, none⟩] },
  -- BPWR (R418)
  { off := 0x0140, stride := 4, count := 16, fields := [⟨2, 2, .ro, 0, none⟩, ⟨1, 0, .rw, 0, none⟩] },
  -- LANE (R418)
  { off := 0x0180, stride := 4, count := 16, fields := [⟨11, 8, .ro, 0xF, none⟩, ⟨6, 6, .ro, 0, none⟩, ⟨5, 5, .ro, 0, none⟩, ⟨4, 4, .ro, 0, none⟩, ⟨3, 0, .ro, 0xF, none⟩] },
  -- UE (R418)
  { off := 0x01C0, stride := 4, count := 16, fields := [⟨31, 0, .ro, 0, none⟩] },
  -- LCE (R418)
  { off := 0x0400, stride := 4, count := 144, fields := [⟨31, 0, .ro, 0, none⟩] }]

/-- Every register of block GRN. -/
def grnRows : List RegRow :=
  grnRows1

/-- Registers of block PWR, part 1. -/
def pwrRows1 : List RegRow := [
  -- ID (R448)
  { off := 0x0000, fields := [⟨31, 16, .ro, 9, none⟩, ⟨15, 0, .ro, 1, none⟩] },
  -- STAT (R448)
  { off := 0x0004, fields := [⟨4, 4, .w1c, 0, none⟩, ⟨3, 3, .ro, 0, none⟩, ⟨2, 2, .w1c, 0, none⟩, ⟨1, 1, .w1c, 0, none⟩, ⟨0, 0, .w1c, 0, none⟩] },
  -- RCAUSE (R448)
  { off := 0x0008, fields := [⟨6, 0, .w1c, 0, none⟩] },
  -- PARK (R448)
  { off := 0x000C, fields := [⟨0, 0, .rw, 0, none⟩] },
  -- WSRC (R448)
  { off := 0x0010, fields := [⟨3, 0, .rw, 1, none⟩] },
  -- AONT (R448)
  { off := 0x0014, fields := [⟨31, 31, .ro, 0, none⟩, ⟨30, 0, .rw, 0, none⟩] },
  -- WCAUSE (R448)
  { off := 0x0018, fields := [⟨21, 16, .ro, 0x3F, none⟩, ⟨6, 0, .ro, 0, none⟩] },
  -- VBAT (R448)
  { off := 0x0020, stride := 4, count := 3, fields := [⟨31, 0, .ro, 0, none⟩], int := true },
  -- VHOLD (R448)
  { off := 0x002C, fields := [⟨31, 0, .ro, 0, none⟩] },
  -- TLOG (R448)
  { off := 0x0030, fields := [⟨31, 0, .ro, 0, none⟩], int := true },
  -- REG (R448)
  { off := 0x0034, fields := [⟨8, 8, .ro, 0, none⟩, ⟨7, 5, .ro, 7, none⟩, ⟨4, 0, .ro, 0xF, none⟩] },
  -- REV (R448)
  { off := 0x0038, fields := [⟨2, 0, .w1c, 0, none⟩] },
  -- DSTAT (R448)
  { off := 0x003C, fields := [⟨31, 0, .ro, 0xFFFF0001, none⟩] },
  -- DRSTAT (R448)
  { off := 0x0040, fields := [⟨31, 0, .ro, 0, none⟩] },
  -- LOCK (R448)
  { off := 0x0044, fields := [⟨31, 0, .st, 0, none⟩] },
  -- DCTL (R448)
  { off := 0x0100, stride := 4, count := 32, fields := [⟨2, 2, .ro, 0, none⟩, ⟨1, 0, .st, 2, none⟩] }]

/-- Every register of block PWR. -/
def pwrRows : List RegRow :=
  pwrRows1

/-- Registers of block CAN, part 1. -/
def canRows1 : List RegRow := [
  -- ID (R475)
  { off := 0x0000, fields := [⟨31, 16, .ro, 0xA, none⟩, ⟨15, 0, .ro, 1, none⟩] },
  -- CTL (R475)
  { off := 0x0004, fields := [⟨5, 5, .rwStopped, 1, none⟩, ⟨4, 4, .wo, 0, none⟩, ⟨3, 3, .rw, 1, none⟩, ⟨2, 1, .rwStopped, 0, none⟩, ⟨0, 0, .rw, 0, none⟩] },
  -- STAT (R475)
  { off := 0x0008, fields := [⟨9, 9, .w1c, 0, none⟩, ⟨8, 8, .w1c, 0, none⟩, ⟨7, 7, .w1c, 0, none⟩, ⟨6, 6, .w1c, 0, none⟩, ⟨5, 5, .ro, 0, none⟩, ⟨4, 4, .ro, 0, none⟩, ⟨3, 3, .ro, 0, none⟩, ⟨2, 1, .ro, 0, none⟩, ⟨0, 0, .ro, 0, none⟩] },
  -- NBT (R475)
  { off := 0x000C, fields := [⟨30, 23, .rwStopped, 0x20, some (1, 128)⟩, ⟨22, 15, .rwStopped, 0x20, some (2, 128)⟩, ⟨14, 6, .rwStopped, 0x7F, some (2, 256)⟩, ⟨5, 0, .rwStopped, 1, some (1, 32)⟩] },
  -- DBT (R475)
  { off := 0x0010, fields := [⟨21, 17, .rwStopped, 8, some (1, 16)⟩, ⟨16, 12, .rwStopped, 8, some (1, 16)⟩, ⟨11, 6, .rwStopped, 0x1F, some (1, 32)⟩, ⟨5, 0, .rwStopped, 1, some (1, 32)⟩] },
  -- TDC (R475)
  { off := 0x0014, fields := [⟨8, 8, .rwStopped, 1, none⟩, ⟨7, 0, .rwStopped, 0x20, some (0, 127)⟩] },
  -- ERR (R475)
  { off := 0x0018, fields := [⟨24, 16, .ro, 0, none⟩, ⟨8, 0, .ro, 0, none⟩] },
  -- EVEN (R475)
  { off := 0x001C, fields := [⟨5, 0, .rw, 0, none⟩] },
  -- EVC (R475)
  { off := 0x0020, fields := [⟨5, 0, .w1c, 0, none⟩] },
  -- WCFG (R475)
  { off := 0x0024, fields := [⟨2, 0, .st, 0, none⟩] },
  -- QSTAT (R475)
  { off := 0x0028, fields := [⟨31, 16, .ro, 0, none⟩, ⟨6, 0, .ro, 0, none⟩] },
  -- QACK (R475)
  { off := 0x002C, fields := [⟨0, 0, .wo, 0, none⟩] },
  -- LCKREL (R475)
  { off := 0x0030, fields := [⟨0, 0, .wo, 0, none⟩] },
  -- SWK (R475)
  { off := 0x0034, fields := [⟨6, 3, .rwStopped, 0, some (0, 8)⟩, ⟨2, 1, .rwStopped, 2, none⟩, ⟨0, 0, .rwStopped, 0, none⟩] },
  -- WUFID (R475)
  { off := 0x0038, fields := [⟨29, 29, .rwStopped, 0, none⟩, ⟨28, 0, .rwStopped, 0, none⟩] },
  -- WUFMSK (R475)
  { off := 0x003C, fields := [⟨28, 0, .rwStopped, 0x1FFFFFFF, none⟩] }]

/-- Registers of block CAN, part 2. -/
def canRows2 : List RegRow := [
  -- WUFDM (R475)
  { off := 0x0040, stride := 4, count := 2, fields := [⟨31, 0, .rwStopped, 0, none⟩] },
  -- NEW (R475)
  { off := 0x0060, stride := 4, count := 8, fields := [⟨31, 0, .ro, 0, none⟩] },
  -- TXP (R475)
  { off := 0x0080, stride := 4, count := 8, fields := [⟨31, 0, .ro, 0, none⟩] },
  -- AFID (R475)
  { off := 0x00A0, stride := 4, count := 8, fields := [⟨31, 31, .rwStopped, 0, none⟩, ⟨29, 29, .rwStopped, 0, none⟩, ⟨28, 0, .rwStopped, 0, none⟩] },
  -- AFMSK (R475)
  { off := 0x00C0, stride := 4, count := 8, fields := [⟨28, 0, .rwStopped, 0, none⟩] },
  -- EVO (R475)
  { off := 0x00E0, stride := 4, count := 8, fields := [⟨31, 0, .rw, 0, none⟩] },
  -- OBJCFG (R475)
  { off := 0x0400, stride := 4, count := 256, fields := [⟨31, 31, .rw, 0, none⟩, ⟨30, 30, .rw, 0, none⟩, ⟨29, 29, .rw, 0, none⟩, ⟨28, 0, .rw, 0, none⟩] }]

/-- Every register of block CAN. -/
def canRows : List RegRow :=
  canRows1 ++ canRows2

/-- Registers of block LIN, part 1. -/
def linRows1 : List RegRow := [
  -- ID (R484)
  { off := 0x0000, fields := [⟨31, 16, .ro, 0x15, none⟩, ⟨15, 0, .ro, 1, none⟩] },
  -- CFG (R484)
  { off := 0x0004, fields := [⟨21, 17, .rwStopped, 0xD, some (13, 26)⟩, ⟨16, 2, .rwStopped, 0x4B00, some (1000, 20000)⟩, ⟨1, 1, .rwStopped, 0, none⟩, ⟨0, 0, .rw, 0, none⟩] },
  -- STAT (R484)
  { off := 0x0008, fields := [⟨5, 5, .ro, 0, none⟩, ⟨4, 4, .w1c, 0, none⟩, ⟨3, 3, .w1c, 0, none⟩, ⟨2, 2, .ro, 0, none⟩, ⟨1, 1, .ro, 0, none⟩, ⟨0, 0, .ro, 0, none⟩] },
  -- HDR (R484)
  { off := 0x000C, fields := [⟨5, 0, .wo, 0, none⟩] },
  -- WAKE (R484)
  { off := 0x0010, fields := [⟨0, 0, .wo, 0, none⟩] },
  -- EVEN (R484)
  { off := 0x0014, fields := [⟨3, 0, .rw, 0, none⟩] },
  -- EVC (R484)
  { off := 0x0018, fields := [⟨3, 0, .w1c, 0, none⟩] },
  -- WCFG (R484)
  { off := 0x001C, fields := [⟨2, 0, .st, 0, none⟩] },
  -- LERR (R484)
  { off := 0x0020, fields := [⟨13, 8, .ro, 0, none⟩, ⟨2, 2, .w1c, 0, none⟩, ⟨1, 1, .w1c, 0, none⟩, ⟨0, 0, .w1c, 0, none⟩] },
  -- BCFG (R484)
  { off := 0x0100, stride := 4, count := 64, fields := [⟨7, 7, .rw, 0, none⟩, ⟨6, 6, .rw, 0, none⟩, ⟨5, 2, .rw, 8, none⟩, ⟨1, 0, .rw, 0, none⟩] },
  -- D0 (R484)
  { off := 0x0400, stride := 16, count := 64, fields := [⟨31, 0, .rw, 0, none⟩] },
  -- D1 (R484)
  { off := 0x0404, stride := 16, count := 64, fields := [⟨31, 0, .rw, 0, none⟩] },
  -- BSTAT (R484)
  { off := 0x0408, stride := 16, count := 64, fields := [⟨11, 8, .ro, 0, none⟩, ⟨7, 0, .ro, 0, none⟩] }]

/-- Every register of block LIN. -/
def linRows : List RegRow :=
  linRows1

/-- Registers of block NM, part 1. -/
def nmRows1 : List RegRow := [
  -- ID (R501)
  { off := 0x0000, fields := [⟨31, 16, .ro, 0xB, none⟩, ⟨15, 0, .ro, 1, none⟩] },
  -- STAT (R501)
  { off := 0x0004, fields := [⟨4, 4, .w1c, 0, none⟩, ⟨3, 3, .w1c, 0, none⟩, ⟨2, 2, .ro, 0, none⟩, ⟨1, 1, .w1c, 0, none⟩, ⟨0, 0, .w1c, 0, none⟩] },
  -- CFG (R501)
  { off := 0x0008, fields := [⟨24, 24, .rwStopped, 0, none⟩, ⟨23, 22, .rwStopped, 0, none⟩, ⟨21, 11, .rwStopped, 0x500, some (0, 1984)⟩, ⟨10, 5, .rwStopped, 0, none⟩, ⟨4, 4, .rwStopped, 0, none⟩, ⟨3, 1, .rwStopped, 0, some (0, 5)⟩, ⟨0, 0, .rw, 0, none⟩] },
  -- TIM (R501)
  { off := 0x000C, fields := [⟨31, 16, .st, 0x7D0, some (1, 65535)⟩, ⟨15, 8, .st, 0x14, some (1, 255)⟩, ⟨7, 0, .st, 0x64, some (1, 255)⟩] },
  -- TIM2 (R501)
  { off := 0x0010, fields := [⟨31, 16, .st, 0xC8, some (1, 65535)⟩, ⟨15, 0, .st, 0x1F4, some (1, 65535)⟩] },
  -- LREQ (R501)
  { off := 0x0014, fields := [⟨0, 0, .rw, 0, none⟩] },
  -- USR (R501)
  { off := 0x0018, fields := [⟨15, 0, .rw, 0, none⟩] },
  -- GTSLO (R501)
  { off := 0x001C, fields := [⟨31, 0, .ro, 0, none⟩] },
  -- GTSHI (R501)
  { off := 0x0020, fields := [⟨15, 0, .ro, 0, none⟩] },
  -- NCLR (R501)
  { off := 0x0024, fields := [⟨0, 0, .wo, 0, none⟩] },
  -- NODE (R501)
  { off := 0x0100, stride := 4, count := 64, fields := [⟨29, 29, .ro, 0, none⟩, ⟨28, 28, .ro, 0, none⟩, ⟨27, 24, .ro, 0, none⟩, ⟨23, 16, .ro, 0, none⟩, ⟨15, 0, .ro, 0, none⟩] }]

/-- Every register of block NM. -/
def nmRows : List RegRow :=
  nmRows1

/-- Registers of block ETH, part 1. -/
def ethRows1 : List RegRow := [
  -- ID (R538)
  { off := 0x0000, fields := [⟨31, 16, .ro, 0xC, none⟩, ⟨15, 0, .ro, 1, none⟩] },
  -- STAT (R538)
  { off := 0x0004, fields := [⟨3, 3, .w1c, 0, none⟩, ⟨2, 2, .w1c, 0, none⟩, ⟨1, 0, .w1c, 0, none⟩] },
  -- CFG (R538)
  { off := 0x0008, fields := [⟨1, 1, .rwStopped, 1, none⟩, ⟨0, 0, .rw, 0, none⟩] },
  -- MACLO (R538)
  { off := 0x000C, fields := [⟨31, 0, .ro, 0, none⟩] },
  -- MACHI (R538)
  { off := 0x0010, fields := [⟨15, 0, .ro, 0, none⟩] },
  -- IPADDR (R538)
  { off := 0x0014, fields := [⟨31, 0, .rwStopped, 0, none⟩] },
  -- IPMASK (R538)
  { off := 0x0018, fields := [⟨31, 0, .rwStopped, 0xFFFFFF00, none⟩] },
  -- IPGW (R538)
  { off := 0x001C, fields := [⟨31, 0, .rwStopped, 0, none⟩] },
  -- MCAST (R538)
  { off := 0x0020, fields := [⟨31, 0, .rwStopped, 0, none⟩] },
  -- VLAN (R538)
  { off := 0x0024, fields := [⟨28, 26, .rwStopped, 0, none⟩, ⟨25, 23, .rwStopped, 4, none⟩, ⟨22, 20, .rwStopped, 6, none⟩, ⟨19, 17, .rwStopped, 7, none⟩, ⟨12, 12, .rwStopped, 0, none⟩, ⟨11, 0, .rwStopped, 1, some (1, 4094)⟩] },
  -- UDP (R538)
  { off := 0x0028, fields := [⟨31, 16, .rwStopped, 0xB7FD, none⟩, ⟨15, 0, .rwStopped, 0xB7FC, none⟩] },
  -- EVEN (R538)
  { off := 0x002C, fields := [⟨1, 0, .rw, 0, none⟩] },
  -- EVC (R538)
  { off := 0x0030, fields := [⟨1, 0, .w1c, 0, none⟩] },
  -- PCFG (R538)
  { off := 0x0040, stride := 4, count := 2, fields := [⟨1, 1, .rw, 0, none⟩, ⟨0, 0, .rw, 1, none⟩] },
  -- PCAL (R538)
  { off := 0x0048, stride := 4, count := 2, fields := [⟨31, 16, .rwStopped, 0, none⟩, ⟨15, 8, .rwStopped, 0, none⟩, ⟨7, 0, .rwStopped, 0, none⟩] },
  -- PSTAT (R538)
  { off := 0x0050, stride := 4, count := 2, fields := [⟨4, 2, .ro, 0, none⟩, ⟨1, 1, .ro, 0, none⟩, ⟨0, 0, .ro, 0, none⟩] }]

/-- Every register of block ETH. -/
def ethRows : List RegRow :=
  ethRows1

/-- Registers of block TIM, part 1. -/
def timRows1 : List RegRow := [
  -- ID (R539)
  { off := 0x0000, fields := [⟨31, 16, .ro, 0xD, none⟩, ⟨15, 0, .ro, 1, none⟩] },
  -- STAT (R539)
  { off := 0x0004, fields := [⟨4, 4, .w1c, 0, none⟩, ⟨3, 3, .w1c, 0, none⟩, ⟨2, 0, .ro, 0, none⟩] },
  -- CFG (R539)
  { off := 0x0008, fields := [⟨31, 24, .st, 0, none⟩, ⟨23, 20, .st, 8, none⟩, ⟨19, 16, .st, 3, some (2, 15)⟩, ⟨3, 2, .st, 1, none⟩, ⟨1, 1, .st, 1, none⟩, ⟨0, 0, .st, 1, none⟩] },
  -- SERVO (R539)
  { off := 0x000C, fields := [⟨31, 28, .st, 2, none⟩, ⟨27, 24, .st, 6, none⟩, ⟨23, 12, .st, 0x14, none⟩, ⟨11, 0, .st, 0xA, some (1, 4095)⟩] },
  -- CNTLO (R539)
  { off := 0x0010, fields := [⟨31, 0, .ro, 0, none⟩] },
  -- CNTHI (R539)
  { off := 0x0014, fields := [⟨31, 0, .ro, 0, none⟩] },
  -- TLO (R539)
  { off := 0x0018, fields := [⟨31, 0, .ro, 0, none⟩] },
  -- THI (R539)
  { off := 0x001C, fields := [⟨31, 0, .ro, 0, none⟩] },
  -- RATELO (R539)
  { off := 0x0020, fields := [⟨31, 0, .ro, 0xAAAAAAAB, none⟩] },
  -- RATEHI (R539)
  { off := 0x0024, fields := [⟨8, 0, .ro, 0x1AA, none⟩] },
  -- OFFLO (R539)
  { off := 0x0028, fields := [⟨31, 0, .ro, 0, none⟩] },
  -- OFFHI (R539)
  { off := 0x002C, fields := [⟨31, 0, .ro, 0, none⟩], int := true },
  -- THETA (R539)
  { off := 0x0030, fields := [⟨31, 0, .ro, 0, none⟩], int := true },
  -- MPD (R539)
  { off := 0x0034, fields := [⟨31, 0, .ro, 0, none⟩] },
  -- NRATELO (R539)
  { off := 0x0038, fields := [⟨31, 0, .st, 0xAAAAAAAB, none⟩] },
  -- NRATEHI (R539)
  { off := 0x003C, fields := [⟨8, 0, .st, 0x1AA, none⟩] }]

/-- Registers of block TIM, part 2. -/
def timRows2 : List RegRow := [
  -- NOFFLO (R539)
  { off := 0x0040, fields := [⟨31, 0, .st, 0, none⟩] },
  -- NOFFHI (R539)
  { off := 0x0044, fields := [⟨31, 0, .st, 0, none⟩] },
  -- PPS (R539)
  { off := 0x0048, fields := [⟨11, 11, .rw, 0, none⟩, ⟨10, 10, .rw, 0, none⟩, ⟨9, 9, .rw, 0, none⟩, ⟨8, 0, .rw, 0x64, some (1, 500)⟩] },
  -- PPSCLO (R539)
  { off := 0x004C, fields := [⟨31, 0, .ro, 0, none⟩] },
  -- PPSCHI (R539)
  { off := 0x0050, fields := [⟨31, 0, .ro, 0, none⟩] },
  -- ALMLO (R539)
  { off := 0x0054, fields := [⟨31, 0, .rw, 0, none⟩] },
  -- ALMHI (R539)
  { off := 0x0058, fields := [⟨31, 0, .rw, 0, none⟩] },
  -- EVEN (R539)
  { off := 0x005C, fields := [⟨2, 0, .rw, 0, none⟩] },
  -- EVC (R539)
  { off := 0x0060, fields := [⟨2, 0, .w1c, 0, none⟩] },
  -- PARLO (R539)
  { off := 0x0064, fields := [⟨31, 0, .ro, 0, none⟩] },
  -- PARHI (R539)
  { off := 0x0068, fields := [⟨31, 0, .ro, 0, none⟩] },
  -- PARPORT (R539)
  { off := 0x006C, fields := [⟨23, 16, .ro, 0, none⟩, ⟨15, 0, .ro, 0, none⟩] }]

/-- Every register of block TIM. -/
def timRows : List RegRow :=
  timRows1 ++ timRows2

/-- Registers of block BAL, part 1. -/
def balRows1 : List RegRow := [
  -- ID (R540)
  { off := 0x0000, fields := [⟨31, 16, .ro, 0xE, none⟩, ⟨15, 0, .ro, 1, none⟩] },
  -- STAT (R540)
  { off := 0x0004, fields := [⟨3, 3, .w1c, 0, none⟩, ⟨2, 2, .w1c, 0, none⟩, ⟨1, 1, .w1c, 0, none⟩, ⟨0, 0, .w1c, 0, none⟩] },
  -- CFG (R540)
  { off := 0x0008, fields := [⟨2, 2, .rwStopped, 1, none⟩, ⟨1, 1, .rwStopped, 1, none⟩, ⟨0, 0, .rw, 0, none⟩] },
  -- NODE (R540)
  { off := 0x000C, fields := [⟨15, 0, .rwStopped, 0, none⟩] },
  -- DSTIP (R540)
  { off := 0x0010, fields := [⟨31, 0, .rwStopped, 0, none⟩] },
  -- PORTS (R540)
  { off := 0x0014, fields := [⟨31, 16, .rwStopped, 0xB7FE, none⟩, ⟨15, 0, .rwStopped, 0xB7FE, none⟩] },
  -- RING (R540)
  { off := 0x0018, fields := [⟨31, 0, .rwStopped, 0x10300000, none⟩], ptr := true },
  -- SEQ (R540)
  { off := 0x001C, fields := [⟨15, 0, .ro, 0, none⟩] },
  -- SEL (R540)
  { off := 0x0040, stride := 4, count := 16, fields := [⟨31, 31, .st, 0, none⟩, ⟨30, 30, .st, 0, none⟩, ⟨29, 16, .st, 0, none⟩, ⟨13, 0, .st, 0, none⟩] }]

/-- Every register of block BAL. -/
def balRows : List RegRow :=
  balRows1

/-- Registers of block ACC, part 1. -/
def accRows1 : List RegRow := [
  -- ID (R564)
  { off := 0x0000, fields := [⟨31, 16, .ro, 0xF, none⟩, ⟨15, 0, .ro, 1, none⟩] },
  -- STAT (R564)
  { off := 0x0004, fields := [⟨2, 2, .ro, 0, none⟩, ⟨1, 1, .w1c, 0, none⟩, ⟨0, 0, .w1c, 0, none⟩] },
  -- CFG (R564)
  { off := 0x0008, fields := [⟨0, 0, .rw, 0, none⟩] },
  -- LFCFG (R564)
  { off := 0x000C, fields := [⟨3, 0, .st, 0xA, some (1, 15)⟩] },
  -- SITE (R564)
  { off := 0x0010, fields := [⟨15, 0, .st, 0, none⟩] },
  -- SLOT (R564)
  { off := 0x0014, fields := [⟨31, 16, .st, 0x7D0, some (500, 20000)⟩, ⟨1, 0, .st, 2, none⟩] },
  -- RLY (R564)
  { off := 0x0018, fields := [⟨23, 16, .st, 8, some (1, 32)⟩, ⟨15, 0, .st, 0x4B0, some (200, 20000)⟩] },
  -- UCFG (R564)
  { off := 0x001C, fields := [⟨15, 13, .rwStopped, 1, some (0, 4)⟩, ⟨12, 10, .rwStopped, 1, some (0, 4)⟩, ⟨9, 9, .rw, 1, none⟩, ⟨8, 8, .rwStopped, 0, none⟩, ⟨7, 0, .rwStopped, 7, some (3, 255)⟩] },
  -- UTXP (R564)
  { off := 0x0020, fields := [⟨31, 0, .rwStopped, 0, none⟩] },
  -- URXP (R564)
  { off := 0x0024, fields := [⟨31, 0, .rwStopped, 0, none⟩] },
  -- URAW (R564)
  { off := 0x0028, fields := [⟨8, 8, .rwStopped, 1, none⟩, ⟨7, 0, .rwStopped, 0, none⟩] },
  -- KEYS (R564)
  { off := 0x002C, fields := [⟨12, 8, .rwStopped, 1, none⟩, ⟨4, 0, .rwStopped, 0, none⟩] },
  -- REL (R564)
  { off := 0x0030, fields := [⟨23, 8, .st, 0x12C, some (1, 65535)⟩, ⟨7, 7, .st, 0, none⟩, ⟨6, 4, .st, 2, none⟩, ⟨2, 0, .st, 0, none⟩] },
  -- PMT (R564)
  { off := 0x0034, fields := [⟨25, 16, .st, 0x64, some (10, 1000)⟩, ⟨15, 15, .st, 0, none⟩, ⟨14, 14, .st, 1, none⟩, ⟨13, 3, .st, 0x180, none⟩, ⟨2, 0, .st, 0, some (0, 5)⟩] },
  -- PDUR (R564)
  { off := 0x0038, fields := [⟨15, 0, .st, 0x708, some (1, 65535)⟩] },
  -- PEPOCH (R564)
  { off := 0x003C, fields := [⟨15, 0, .rw, 0, none⟩] }]

/-- Registers of block ACC, part 2. -/
def accRows2 : List RegRow := [
  -- PNONCE (R564)
  { off := 0x0040, fields := [⟨31, 0, .rwStopped, 0, none⟩] },
  -- POLICY (R564)
  { off := 0x0044, fields := [⟨7, 0, .st, 0xFF, none⟩] },
  -- EVEN (R564)
  { off := 0x0048, fields := [⟨3, 0, .rw, 0, none⟩] },
  -- EVC (R564)
  { off := 0x004C, fields := [⟨3, 0, .w1c, 0, none⟩] },
  -- LOGIDX (R564)
  { off := 0x0050, fields := [⟨3, 0, .ro, 0, none⟩] },
  -- TOK (R564)
  { off := 0x0100, stride := 4, count := 32, fields := [⟨31, 0, .st, 0, none⟩] },
  -- TCNT (R564)
  { off := 0x0180, stride := 4, count := 32, fields := [⟨31, 0, .rwStopped, 0, none⟩] },
  -- TCFG (R564)
  { off := 0x0200, stride := 4, count := 32, fields := [⟨1, 1, .ro, 0, none⟩, ⟨0, 0, .st, 0, none⟩] },
  -- LOG (R564)
  { off := 0x0300, stride := 4, count := 32, fields := [⟨31, 0, .ro, 0, none⟩] }]

/-- Every register of block ACC. -/
def accRows : List RegRow :=
  accRows1 ++ accRows2

/-- Registers of block HST, part 1. -/
def hstRows1 : List RegRow := [
  -- ID (R582)
  { off := 0x0000, fields := [⟨31, 16, .ro, 0x10, none⟩, ⟨15, 0, .ro, 1, none⟩] },
  -- STAT (R582)
  { off := 0x0004, fields := [⟨11, 8, .ro, 0, none⟩, ⟨6, 6, .w1c, 0, none⟩, ⟨5, 5, .w1c, 0, none⟩, ⟨4, 4, .w1c, 0, none⟩, ⟨3, 3, .w1c, 0, none⟩, ⟨2, 2, .w1c, 0, none⟩, ⟨1, 1, .w1c, 0, none⟩, ⟨0, 0, .ro, 0, none⟩] },
  -- CFG (R582)
  { off := 0x0008, fields := [⟨12, 8, .rw, 0, none⟩, ⟨1, 1, .rw, 0, none⟩, ⟨0, 0, .rw, 0, none⟩] },
  -- WMASK (R582)
  { off := 0x000C, fields := [⟨22, 0, .rw, 0x7FFFFF, none⟩] },
  -- ACTR (R582)
  { off := 0x0010, fields := [⟨31, 0, .ro, 0, none⟩] },
  -- EVEN (R582)
  { off := 0x0014, fields := [⟨3, 0, .rw, 0, none⟩] },
  -- EVC (R582)
  { off := 0x0018, fields := [⟨3, 0, .w1c, 0, none⟩] },
  -- FEAT (R582)
  { off := 0x0020, stride := 4, count := 4, fields := [⟨31, 0, .ro, 0, none⟩] },
  -- ACCEPT (R582)
  { off := 0x0030, stride := 4, count := 4, fields := [⟨31, 0, .rw, 0, none⟩] },
  -- COMMIT (R582)
  { off := 0x0040, fields := [⟨0, 0, .wo, 0, none⟩] }]

/-- Every register of block HST. -/
def hstRows : List RegRow :=
  hstRows1

/-- Registers of block SEC, part 1. -/
def secRows1 : List RegRow := [
  -- ID (R616)
  { off := 0x0000, fields := [⟨31, 16, .ro, 0x11, none⟩, ⟨15, 0, .ro, 1, none⟩] },
  -- STAT (R616)
  { off := 0x0004, fields := [⟨6, 6, .ro, 0, none⟩, ⟨5, 5, .ro, 0, none⟩, ⟨4, 4, .ro, 0, none⟩, ⟨3, 3, .ro, 0, none⟩, ⟨2, 2, .w1c, 0, none⟩, ⟨1, 1, .ro, 0, none⟩, ⟨0, 0, .w1c, 0, none⟩] },
  -- BOOT (R616)
  { off := 0x0008, fields := [⟨7, 7, .ro, 0, none⟩, ⟨6, 5, .ro, 0, none⟩, ⟨4, 4, .ro, 0, none⟩, ⟨3, 2, .ro, 0, none⟩, ⟨1, 0, .ro, 3, none⟩] },
  -- IMGVER (R616)
  { off := 0x000C, fields := [⟨31, 0, .ro, 0, none⟩] },
  -- SETINFO (R616)
  { off := 0x0010, fields := [⟨17, 17, .ro, 0, none⟩, ⟨16, 16, .ro, 0, none⟩, ⟨15, 0, .ro, 0xFFFF, none⟩] },
  -- ARB (R616)
  { off := 0x0014, fields := [⟨15, 8, .ro, 0, none⟩, ⟨7, 0, .ro, 0, none⟩] },
  -- JDONE (R616)
  { off := 0x0018, fields := [⟨15, 0, .w1c, 0, none⟩] },
  -- HCTL (R616)
  { off := 0x001C, fields := [⟨1, 0, .wo, 0, none⟩] },
  -- RECOVER (R616)
  { off := 0x0020, fields := [⟨31, 0, .wo, 0, none⟩] },
  -- RCTL (R616)
  { off := 0x0024, fields := [⟨4, 4, .wo, 0, none⟩, ⟨3, 3, .wo, 0, none⟩, ⟨2, 2, .wo, 0, none⟩, ⟨1, 0, .rw, 0, none⟩] },
  -- RADDR (R616)
  { off := 0x0028, fields := [⟨31, 0, .rw, 0, none⟩] },
  -- RDATA (R616)
  { off := 0x002C, fields := [⟨31, 0, .wo, 0, none⟩] },
  -- RSTAT (R616)
  { off := 0x0030, fields := [⟨5, 5, .w1c, 0, none⟩, ⟨4, 4, .ro, 0, none⟩, ⟨3, 0, .ro, 0, none⟩] },
  -- XERC (R616)
  { off := 0x0034, stride := 4, count := 2, fields := [⟨31, 0, .ro, 0, none⟩] },
  -- JST (R616)
  { off := 0x0040, stride := 4, count := 16, fields := [⟨15, 8, .ro, 0, none⟩, ⟨4, 4, .ro, 0, none⟩, ⟨3, 0, .ro, 0, none⟩] },
  -- KATTR (R616)
  { off := 0x0080, stride := 4, count := 32, fields := [⟨31, 16, .ro, 0, none⟩, ⟨7, 7, .ro, 0, none⟩, ⟨6, 3, .ro, 0, none⟩, ⟨2, 1, .ro, 0, none⟩, ⟨0, 0, .ro, 0, none⟩] }]

/-- Registers of block SEC, part 2. -/
def secRows2 : List RegRow := [
  -- DCHAL (R616)
  { off := 0x0100, stride := 4, count := 4, fields := [⟨31, 0, .ro, 0, none⟩] },
  -- DRESP (R616)
  { off := 0x0110, stride := 4, count := 4, fields := [⟨31, 0, .rw, 0, none⟩] }]

/-- Every register of block SEC. -/
def secRows : List RegRow :=
  secRows1 ++ secRows2

/-- Registers of block SIL, part 1. -/
def silRows1 : List RegRow := [
  -- ID (R641)
  { off := 0x0000, fields := [⟨31, 16, .ro, 0x12, none⟩, ⟨15, 0, .ro, 1, none⟩] },
  -- STAT (R641)
  { off := 0x0004, fields := [⟨6, 6, .w1c, 0, none⟩, ⟨5, 2, .ro, 0, none⟩, ⟨1, 1, .ro, 0, none⟩, ⟨0, 0, .ro, 0, none⟩] },
  -- PCTL (R641)
  { off := 0x0008, fields := [⟨2, 0, .wo, 0, none⟩] },
  -- PREC (R641)
  { off := 0x000C, fields := [⟨6, 0, .rw, 0x40, none⟩] },
  -- PDLO (R641)
  { off := 0x0010, fields := [⟨31, 0, .rw, 0, none⟩] },
  -- PDHI (R641)
  { off := 0x0014, fields := [⟨31, 0, .rw, 0, none⟩] },
  -- RINFO (R641)
  { off := 0x0800, stride := 4, count := 128, fields := [⟨8, 8, .ro, 0, none⟩, ⟨7, 4, .ro, 0, none⟩, ⟨3, 3, .ro, 0, none⟩, ⟨2, 2, .ro, 0, none⟩, ⟨1, 0, .ro, 0, none⟩] },
  -- REC (R641)
  { off := 0x1000, stride := 4, count := 256, fields := [⟨31, 0, .ro, 0, none⟩] }]

/-- Every register of block SIL. -/
def silRows : List RegRow :=
  silRows1

/-- Registers of block GLN, part 1. -/
def glnRows1 : List RegRow := [
  -- ID (R642)
  { off := 0x0000, fields := [⟨31, 16, .ro, 0x13, none⟩, ⟨15, 0, .ro, 1, none⟩] },
  -- STAT (R642)
  { off := 0x0004, fields := [⟨4, 4, .w1c, 0, none⟩, ⟨3, 2, .ro, 0, none⟩, ⟨1, 1, .w1c, 0, none⟩, ⟨0, 0, .w1c, 0, none⟩] },
  -- CTL (R642)
  { off := 0x0008, fields := [⟨2, 0, .st, 7, none⟩] },
  -- SEGCFG (R642)
  { off := 0x000C, fields := [⟨23, 16, .st, 0x40, some (1, 255)⟩, ⟨11, 0, .st, 0x4CD, some (1075, 2047)⟩] },
  -- LANECFG (R642)
  { off := 0x0010, fields := [⟨20, 16, .st, 0x10, some (10, 24)⟩, ⟨15, 8, .st, 0x40, some (1, 255)⟩, ⟨7, 0, .st, 0x10, some (1, 255)⟩] },
  -- PHCFG (R642)
  { off := 0x0014, fields := [⟨15, 8, .st, 0x40, some (1, 255)⟩, ⟨4, 0, .st, 0xA, some (5, 20)⟩] },
  -- XCFG (R642)
  { off := 0x0018, fields := [⟨31, 16, .st, 0x64, none⟩, ⟨15, 0, .st, 0x4E20, none⟩] },
  -- FTH (R642)
  { off := 0x001C, fields := [⟨19, 0, .st, 0x13880, none⟩] },
  -- FBASE (R642)
  { off := 0x0020, stride := 4, count := 2, fields := [⟨31, 0, .st, 0, none⟩] },
  -- FRC (R642)
  { off := 0x0028, fields := [⟨15, 12, .wo, 0, none⟩, ⟨11, 4, .wo, 0, none⟩, ⟨3, 0, .wo, 0, none⟩] },
  -- RES0 (R642)
  { off := 0x002C, fields := [⟨18, 16, .ro, 7, none⟩, ⟨15, 8, .ro, 0x10, none⟩, ⟨7, 0, .ro, 0x30, none⟩] },
  -- RES1 (R642)
  { off := 0x0030, fields := [⟨8, 0, .ro, 0, none⟩] },
  -- LASTSUB (R642)
  { off := 0x0034, fields := [⟨16, 16, .ro, 0, none⟩, ⟨15, 12, .ro, 0, none⟩, ⟨11, 4, .ro, 0, none⟩, ⟨3, 0, .ro, 0, none⟩] },
  -- XRC (R642)
  { off := 0x0038, fields := [⟨31, 0, .ro, 0, none⟩], int := true }]

/-- Every register of block GLN. -/
def glnRows : List RegRow :=
  glnRows1

/-- Registers of block GPIO, part 1. -/
def gpioRows1 : List RegRow := [
  -- GPDIR (R662)
  { off := 0x0200, fields := [⟨15, 0, .st, 0, none⟩] },
  -- GPOUT (R662)
  { off := 0x0204, fields := [⟨15, 0, .st, 0, none⟩] },
  -- GPIN (R662)
  { off := 0x0208, fields := [⟨15, 0, .rs, 0, none⟩] },
  -- GPPULL (R662)
  { off := 0x020C, fields := [⟨31, 16, .st, 0xFFFF, none⟩, ⟨15, 0, .st, 0, none⟩] }]

/-- Every register of block GPIO. -/
def gpioRows : List RegRow :=
  gpioRows1

end Regs

/-- A field of an instance of an array. -/
def Fld.shift (f : Fld) (d : Nat) : Fld := { f with addr := f.addr + d }

namespace F

/-- R64, RO. Block identifier -/
def frmIdBlock : Fld := ⟨0x40000000, 16, 16⟩
/-- R64, RO. Block version -/
def frmIdVer : Fld := ⟨0x40000000, 0, 16⟩
/-- R64, ST. 1: host writes to the output image are accepted (R41) -/
def frmCfgHostout : Fld := ⟨0x40000004, 27, 1⟩
/-- R64, ST. 1: firmware staged writes travel with the staging image (R33) -/
def frmCfgCfgseal : Fld := ⟨0x40000004, 26, 1⟩
/-- R64, ST. Edge source: 0b00 local time, 0b01 network-corrected time; 0b10 and 0b11 refused -/
def frmCfgSrc : Fld := ⟨0x40000004, 24, 2⟩
/-- R64, ST. Programmed slot count: 0b00 64, 0b01 128, 0b10 256; 0b11 refused -/
def frmCfgSlots : Fld := ⟨0x40000004, 16, 2⟩
/-- R64, ST. T_F in µs, 100–10000 -/
def frmCfgTfUs : Fld := ⟨0x40000004, 0, 14⟩
/-- R64, ST. Bit 0 C0, bit 1 C1: cores that must seal (R28) -/
def frmSealmaskMask : Fld := ⟨0x40000008, 0, 2⟩
/-- R64, RO. Effective slot count S_eff -/
def frmStatSeff : Fld := ⟨0x4000000C, 8, 9⟩
/-- R64, W1C. A host output-image write was dropped -/
def frmStatHostrej : Fld := ⟨0x4000000C, 7, 1⟩
/-- R64, W1C. A host transaction rolled to a later edge -/
def frmStatHostroll : Fld := ⟨0x4000000C, 6, 1⟩
/-- R64, W1C. A staging store was dropped (R31) -/
def frmStatSealwr : Fld := ⟨0x4000000C, 5, 1⟩
/-- R64, W1C. A SEAL retired after the deadline -/
def frmStatLateseal : Fld := ⟨0x4000000C, 4, 1⟩
/-- R64, W1C. A staged FRM.CFG write was refused -/
def frmStatCfgrej : Fld := ⟨0x4000000C, 3, 1⟩
/-- R64, RO. Consecutive non-committing edges, saturating at 3 -/
def frmStatOvrrun : Fld := ⟨0x4000000C, 1, 2⟩
/-- R64, RO. 1 while edges follow network time -/
def frmStatSync : Fld := ⟨0x4000000C, 0, 1⟩
/-- R64, RO. FRAME[31:0]. A read captures FRAME[47:32] for the reading master. -/
def frmFrameloFlo : Fld := ⟨0x40000010, 0, 32⟩
/-- R64, RO. FRAME[47:32] as captured by that master's last FRAMELO read -/
def frmFramehiFhi : Fld := ⟨0x40000014, 0, 16⟩
/-- R64, RO. Peripheral cycles elapsed in the current slot -/
def frmSlotCyc : Fld := ⟨0x40000018, 16, 16⟩
/-- R64, RO. Current slot number -/
def frmSlot : Fld := ⟨0x40000018, 0, 9⟩
/-- R64, RO. Cores that have sealed in the current frame; [31:2] reserved -/
def frmSealedCores : Fld := ⟨0x4000001C, 0, 2⟩
/-- R64, RO. Overrun edges since reset, saturating at 0xFFFF_FFFF -/
def frmOvrcntCount : Fld := ⟨0x40000020, 0, 32⟩
/-- R64, RO. At the last committing edge: time in ns from the last counting SEAL to the seal deadline -/
def frmSlackNs : Fld := ⟨0x40000024, 0, 32⟩
/-- R64, RW running-safe. Takes the smaller of itself and each new SLACK. A write sets the value. -/
def frmSlackminNs : Fld := ⟨0x40000028, 0, 32⟩
/-- R64, WO. Bit b raises event 96 + b -/
def frmSevRaise : Fld := ⟨0x4000002C, 0, 32⟩
/-- R64, W1C. Bit b: event 32·m + b merged with a pending one -/
def frmEvmrgMerged (i : Nat) : Fld := ⟨0x40000030 + 4 * i, 0, 32⟩
/-- R64, RO. Bit b: job 32·m + b is ready or running -/
def frmJobactActive (i : Nat) : Fld := ⟨0x40000040 + 4 * i, 0, 32⟩
/-- R64, W1C. Bit b: job 32·m + b missed a release (R45) -/
def frmJobovrMissed (i : Nat) : Fld := ⟨0x40000048 + 4 * i, 0, 32⟩
/-- R64, ST. Handler priority 0–15, 15 highest -/
def frmEvtPrio (i : Nat) : Fld := ⟨0x40000400 + 4 * i, 2, 4⟩
/-- R64, ST. 0 C0, 1 C1 -/
def frmEvtCore (i : Nat) : Fld := ⟨0x40000400 + 4 * i, 1, 1⟩
/-- R64, ST. 1: the event is dispatched -/
def frmEvtEn (i : Nat) : Fld := ⟨0x40000400 + 4 * i, 0, 1⟩
/-- R64, ST. Entry address in the core's instruction space; store tag PTR -/
def frmEvtpcPc (i : Nat) : Fld := ⟨0x40000600 + 4 * i, 0, 32⟩
/-- R64, ST. Entry address in the core's instruction space; store tag PTR -/
def frmJobpcPc (i : Nat) : Fld := ⟨0x40000800 + 4 * i, 0, 32⟩
/-- R64, ST. 1: the job is on the declared shed list for the hitless update -/
def frmJobShed (i : Nat) : Fld := ⟨0x40000900 + 4 * i, 30, 1⟩
/-- R64, ST. Release phase (R42) -/
def frmJobPhase (i : Nat) : Fld := ⟨0x40000900 + 4 * i, 22, 8⟩
/-- R64, ST. The job is released every PER + 1 frames -/
def frmJobPer (i : Nat) : Fld := ⟨0x40000900 + 4 * i, 14, 8⟩
/-- R64, ST. Release slot; 0 releases at E + 2 µs -/
def frmJobRslot (i : Nat) : Fld := ⟨0x40000900 + 4 * i, 6, 8⟩
/-- R64, ST. Job priority 0–15 -/
def frmJobPrio (i : Nat) : Fld := ⟨0x40000900 + 4 * i, 2, 4⟩
/-- R64, ST. 0 C0, 1 C1 -/
def frmJobCore (i : Nat) : Fld := ⟨0x40000900 + 4 * i, 1, 1⟩
/-- R64, ST. 1: the job is released -/
def frmJobEn (i : Nat) : Fld := ⟨0x40000900 + 4 * i, 0, 1⟩
/-- R122, RO. Block identifier -/
def swIdBlock : Fld := ⟨0x40010000, 16, 16⟩
/-- R122, RO. Block version -/
def swIdVer : Fld := ⟨0x40010000, 0, 16⟩
/-- R122, W1C. Stream samples dropped (R86) -/
def swStatStrdrop : Fld := ⟨0x40010004, 3, 1⟩
/-- R122, W1C. A clear was refused (R102) -/
def swStatClrrej : Fld := ⟨0x40010004, 2, 1⟩
/-- R122, W1C. A SW.WIRE write was refused (R91) -/
def swStatWirerej : Fld := ⟨0x40010004, 1, 1⟩
/-- R122, W1C. A pairing change was refused (R71, Half-bridges) -/
def swStatPairrej : Fld := ⟨0x40010004, 0, 1⟩
/-- R122, ST. Bit b: HB(2b) and HB(2b+1) form a full bridge -/
def swPairHbb : Fld := ⟨0x40010008, 24, 4⟩
/-- R122, ST. Bit 4 + q: channel indices 8 + 2q and 9 + 2q form a pair, q = 0–19 -/
def swPairSp : Fld := ⟨0x40010008, 4, 20⟩
/-- R122, ST. Bit p: channel indices 2p and 2p+1 form a pair -/
def swPairHp : Fld := ⟨0x40010008, 0, 4⟩
/-- R122, ST. Default ambient, signed, 1/16 °C (40 °C) -/
def swWambDeg : Fld := ⟨0x4001000C, 0, 16⟩
/-- R122, ST. Model start rise above ambient, unsigned, 1/16 K (20 K) -/
def swWinitRise : Fld := ⟨0x40010010, 0, 16⟩
/-- R122, RW running-safe. 1: the stream runs (R85, R87) -/
def swStrcfgEn : Fld := ⟨0x40010020, 0, 1⟩
/-- R122, RW stopped-only. Granary byte address of the ring, multiple of 4 -/
def swStrbaseAddr : Fld := ⟨0x40010024, 0, 32⟩
/-- R122, RW stopped-only. Ring length in frames, 1–256 -/
def swStrlenFrames : Fld := ⟨0x40010028, 0, 9⟩
/-- R122, RW stopped-only. Bit c: channel c streamed, c = 0–31 -/
def swStrmask0 : Fld := ⟨0x4001002C, 0, 32⟩
/-- R122, RW stopped-only. Bit 16 + n: HBn streamed -/
def swStrmask1Hb : Fld := ⟨0x40010030, 16, 8⟩
/-- R122, RW stopped-only. Bit c − 32: channel c streamed, c = 32–47 -/
def swStrmask1Ch : Fld := ⟨0x40010030, 0, 16⟩
/-- R122, ST. Current limit in mA (R75) -/
def swLimAmps (i : Nat) : Fld := ⟨0x40010100 + 4 * i, 0, 18⟩
/-- R122, ST. Shedding priority while the window is open -/
def swInrPri (i : Nat) : Fld := ⟨0x40010200 + 4 * i, 28, 3⟩
/-- R122, ST. Window length in ms, 0–500; 0 opens no window -/
def swInrMs (i : Nat) : Fld := ⟨0x40010200 + 4 * i, 18, 10⟩
/-- R122, ST. Window current limit in mA -/
def swInrAmps (i : Nat) : Fld := ⟨0x40010200 + 4 * i, 0, 18⟩
/-- R122, ST. Shedding priority outside the window -/
def swProtShpri (i : Nat) : Fld := ⟨0x40010300 + 4 * i, 20, 3⟩
/-- R122, ST. RETRIES returns to 0 after 16 × HEAL trip-free frames on; 0 never -/
def swProtHeal (i : Nat) : Fld := ⟨0x40010300 + 4 * i, 12, 8⟩
/-- R122, ST. Frames from trip to due edge, 1–255; 0 applies as 1 -/
def swProtBackoff (i : Nat) : Fld := ⟨0x40010300 + 4 * i, 4, 8⟩
/-- R122, ST. Automatic restarts allowed, 0–15 -/
def swProtRetry (i : Nat) : Fld := ⟨0x40010300 + 4 * i, 0, 4⟩
/-- R122, ST. 0–23: AIN index for T_a; 31: SW.WAMB; 24–30 refused -/
def swWireAmb (i : Nat) : Fld := ⟨0x40010400 + 4 * i, 17, 5⟩
/-- R122, ST. Bundle factor B × 64, 64–256 -/
def swWireBundle (i : Nat) : Fld := ⟨0x40010400 + 4 * i, 8, 9⟩
/-- R122, ST. Insulation class 0–4; 5–7 refused -/
def swWireIns (i : Nat) : Fld := ⟨0x40010400 + 4 * i, 5, 3⟩
/-- R122, ST. Cross-section code 0–10; 11–15 refused -/
def swWireXsec (i : Nat) : Fld := ⟨0x40010400 + 4 * i, 1, 4⟩
/-- R122, ST. 1: model runs and can trip -/
def swWireEn (i : Nat) : Fld := ⟨0x40010400 + 4 * i, 0, 1⟩
/-- R122, ST. Write 1: clear at the next edge (R102); reads 0 -/
def swClr (i : Nat) : Fld := ⟨0x40010500 + 4 * i, 0, 1⟩
/-- R122, ST. Dead time in peripheral cycles, 15–150 (100 ns–1 µs) -/
def swHbcfgDead (i : Nat) : Fld := ⟨0x40010600 + 4 * i, 9, 8⟩
/-- R122, ST. PWM frequency in 100 Hz units, 10–400 (1–40 kHz) -/
def swHbcfgFreq (i : Nat) : Fld := ⟨0x40010600 + 4 * i, 0, 9⟩
/-- R122, ST. Limit in mA, 1000–16000, threshold rounded down to 50 mA -/
def swHblimAmps (i : Nat) : Fld := ⟨0x40010620 + 4 * i, 0, 14⟩
/-- R122, ST. As SW.PROT -/
def swHbprotHeal (i : Nat) : Fld := ⟨0x40010640 + 4 * i, 12, 8⟩
/-- R122, ST. As SW.PROT -/
def swHbprotBackoff (i : Nat) : Fld := ⟨0x40010640 + 4 * i, 4, 8⟩
/-- R122, ST. As SW.PROT -/
def swHbprotRetry (i : Nat) : Fld := ⟨0x40010640 + 4 * i, 0, 4⟩
/-- R122, ST. Write 1: clear at the next edge (R102); reads 0 -/
def swHbclrClr (i : Nat) : Fld := ⟨0x40010660 + 4 * i, 0, 1⟩
/-- R143, ST. 1: REV sets the Winnow source (R141) -/
def swDcfgWrev (i : Nat) : Fld := ⟨0x40010700 + 4 * i, 31, 1⟩
/-- R143, ST. 1: INV sets the Winnow source -/
def swDcfgWinv (i : Nat) : Fld := ⟨0x40010700 + 4 * i, 30, 1⟩
/-- R143, ST. 1: ONOL sets the Winnow source -/
def swDcfgWonol (i : Nat) : Fld := ⟨0x40010700 + 4 * i, 29, 1⟩
/-- R143, ST. 1: SCG sets the Winnow source -/
def swDcfgWscg (i : Nat) : Fld := ⟨0x40010700 + 4 * i, 28, 1⟩
/-- R143, ST. 1: STB sets the Winnow source -/
def swDcfgWstb (i : Nat) : Fld := ⟨0x40010700 + 4 * i, 27, 1⟩
/-- R143, ST. 1: OL sets the Winnow source -/
def swDcfgWol (i : Nat) : Fld := ⟨0x40010700 + 4 * i, 26, 1⟩
/-- R143, ST. Frames for ONOL: 0b00 1, 0b01 4, 0b10 16, 0b11 64 -/
def swDcfgOnoln (i : Nat) : Fld := ⟨0x40010700 + 4 * i, 24, 2⟩
/-- R143, ST. On-state open-load threshold in mA, 0–4095; 0 disables -/
def swDcfgOnolth (i : Nat) : Fld := ⟨0x40010700 + 4 * i, 12, 12⟩
/-- R143, ST. Frames after turn-off before checks begin, 0–255 -/
def swDcfgBlank (i : Nat) : Fld := ⟨0x40010700 + 4 * i, 4, 8⟩
/-- R143, ST. 1: short-to-battery check in phase B -/
def swDcfgStben (i : Nat) : Fld := ⟨0x40010700 + 4 * i, 2, 1⟩
/-- R143, ST. Pull-up: 0b00 checks off, 0b01 20 µA, 0b10 100 µA, 0b11 500 µA -/
def swDcfgPu (i : Nat) : Fld := ⟨0x40010700 + 4 * i, 0, 2⟩
/-- R143, ST. As SW.DCFG -/
def swHbdcfgWonol (i : Nat) : Fld := ⟨0x400107C0 + 4 * i, 29, 1⟩
/-- R143, ST. As SW.DCFG -/
def swHbdcfgWscg (i : Nat) : Fld := ⟨0x400107C0 + 4 * i, 28, 1⟩
/-- R143, ST. As SW.DCFG -/
def swHbdcfgWstb (i : Nat) : Fld := ⟨0x400107C0 + 4 * i, 27, 1⟩
/-- R143, ST. As SW.DCFG -/
def swHbdcfgWol (i : Nat) : Fld := ⟨0x400107C0 + 4 * i, 26, 1⟩
/-- R143, ST. As SW.DCFG -/
def swHbdcfgOnoln (i : Nat) : Fld := ⟨0x400107C0 + 4 * i, 24, 2⟩
/-- R143, ST. As SW.DCFG, applied to !IMEAN! -/
def swHbdcfgOnolth (i : Nat) : Fld := ⟨0x400107C0 + 4 * i, 12, 12⟩
/-- R143, ST. As SW.DCFG -/
def swHbdcfgBlank (i : Nat) : Fld := ⟨0x400107C0 + 4 * i, 4, 8⟩
/-- R143, ST. As SW.DCFG -/
def swHbdcfgStben (i : Nat) : Fld := ⟨0x400107C0 + 4 * i, 2, 1⟩
/-- R143, ST. As SW.DCFG; a full bridge uses R136 -/
def swHbdcfgPu (i : Nat) : Fld := ⟨0x400107C0 + 4 * i, 0, 2⟩
/-- R143, ST. 1: STALL sets the Winnow source -/
def swHbstallWstall (i : Nat) : Fld := ⟨0x400107E0 + 4 * i, 31, 1⟩
/-- R143, ST. 0: report only; 1: stop on stall (R138) -/
def swHbstallStact (i : Nat) : Fld := ⟨0x400107E0 + 4 * i, 30, 1⟩
/-- R143, ST. Frames after a new drive mode before counting, 0–255 -/
def swHbstallStblank (i : Nat) : Fld := ⟨0x400107E0 + 4 * i, 22, 8⟩
/-- R143, ST. Consecutive slots at or above STTH, 1–255; 0 applies as 1 -/
def swHbstallStn (i : Nat) : Fld := ⟨0x400107E0 + 4 * i, 14, 8⟩
/-- R143, ST. Stall threshold in mA, 1000–16000; 0 disables -/
def swHbstallStth (i : Nat) : Fld := ⟨0x400107E0 + 4 * i, 0, 14⟩
/-- R192, RO. Block identifier -/
def prsIdBlock : Fld := ⟨0x40020000, 16, 16⟩
/-- R192, RO. Block version -/
def prsIdVer : Fld := ⟨0x40020000, 0, 16⟩
/-- R192, W1C. A loader copy was refused (R164) -/
def prsStatLderr : Fld := ⟨0x40020004, 2, 1⟩
/-- R192, W1C. A channel, bank or PX clear was refused -/
def prsStatClrrej : Fld := ⟨0x40020004, 1, 1⟩
/-- R192, W1C. A pairing change was refused (R161) -/
def prsStatPairrej : Fld := ⟨0x40020004, 0, 1⟩
/-- R192, ST. Bit e: PL(2e) and PL(2e+1) paralleled -/
def prsPairPl : Fld := ⟨0x40020008, 0, 6⟩
/-- R192, ST. Granary byte address of the first source word, multiple of 4 -/
def prsLdsrcAddr : Fld := ⟨0x4002000C, 0, 32⟩
/-- R192, ST. Words to copy, 1–512; 0 copies nothing -/
def prsLdctlCount : Fld := ⟨0x40020010, 13, 10⟩
/-- R192, ST. First store word -/
def prsLdctlDst : Fld := ⟨0x40020010, 4, 9⟩
/-- R192, ST. Engine 0–5; 6 and 7 copy nothing and set LDERR -/
def prsLdctlEng : Fld := ⟨0x40020010, 1, 3⟩
/-- R192, ST. Write 1: copy at the applying edge; reads 0 -/
def prsLdctlGo : Fld := ⟨0x40020010, 0, 1⟩
/-- R192, RW running-safe. 1: the engine runs (R158); returns to 0 when PRESS leaves OFF -/
def prsEctlRun (i : Nat) : Fld := ⟨0x40020040 + 4 * i, 0, 1⟩
/-- R192, ST. 1: OVER sets the bank's Winnow source (R175) -/
def prsBankWover (i : Nat) : Fld := ⟨0x40020080 + 4 * i, 16, 1⟩
/-- R192, ST. Over-current threshold in 200 mA units, 25–220 -/
def prsBankIlim (i : Nat) : Fld := ⟨0x40020080 + 4 * i, 8, 8⟩
/-- R192, ST. Arbiter peak budget in 200 mA units, 0–200 -/
def prsBankPkmax (i : Nat) : Fld := ⟨0x40020080 + 4 * i, 0, 8⟩
/-- R192, ST. Write 1: clear at the next edge (R177); reads 0 -/
def prsBclrClr (i : Nat) : Fld := ⟨0x40020090 + 4 * i, 0, 1⟩
/-- R192, ST. 1: CLPT and CLPLOW set the Winnow source -/
def prsChcfgWclp (i : Nat) : Fld := ⟨0x40020100 + 4 * i, 16, 1⟩
/-- R192, ST. 1: OPEN sets the Winnow source -/
def prsChcfgWopen (i : Nat) : Fld := ⟨0x40020100 + 4 * i, 15, 1⟩
/-- R192, ST. Over-current threshold in 100 mA units, 10–140; twice for a pair -/
def prsChcfgIlim (i : Nat) : Fld := ⟨0x40020100 + 4 * i, 7, 8⟩
/-- R192, ST. Regulator hysteresis in 10 mA units, 1–63 -/
def prsChcfgHyst (i : Nat) : Fld := ⟨0x40020100 + 4 * i, 1, 6⟩
/-- R192, ST. 0: 45 V clamp; 1: 72 V clamp -/
def prsChcfgClamp (i : Nat) : Fld := ⟨0x40020100 + 4 * i, 0, 1⟩
/-- R192, ST. Store word at which a granted start begins -/
def prsCstartAddr (i : Nat) : Fld := ⟨0x40020140 + 4 * i, 0, 9⟩
/-- R192, ST. Declared peak window in slots, 1–65535 -/
def prsArbPksl (i : Nat) : Fld := ⟨0x40020180 + 4 * i, 8, 16⟩
/-- R192, ST. Declared peak current in 100 mA units; 0 is never arbitrated -/
def prsArbPkma (i : Nat) : Fld := ⟨0x40020180 + 4 * i, 0, 8⟩
/-- R192, ST. Parameter 1 in 10 mA units -/
def prsParaP1 (i : Nat) : Fld := ⟨0x400201C0 + 4 * i, 16, 12⟩
/-- R192, ST. Parameter 0 in 10 mA units -/
def prsParaP0 (i : Nat) : Fld := ⟨0x400201C0 + 4 * i, 0, 12⟩
/-- R192, ST. Parameter 3 in 10 mA units -/
def prsParbP3 (i : Nat) : Fld := ⟨0x40020200 + 4 * i, 16, 12⟩
/-- R192, ST. Parameter 2 in 10 mA units -/
def prsParbP2 (i : Nat) : Fld := ⟨0x40020200 + 4 * i, 0, 12⟩
/-- R192, ST. Write 1: clear at the next edge (R179, R184); reads 0 -/
def prsClr (i : Nat) : Fld := ⟨0x40020240 + 4 * i, 0, 1⟩
/-- R192, ST. 1: OPEN sets the Winnow source -/
def prsPxcfgWopen (i : Nat) : Fld := ⟨0x40020280 + 4 * i, 1, 1⟩
/-- R192, ST. 0: 45 V clamp; 1: 72 V clamp -/
def prsPxcfgClamp (i : Nat) : Fld := ⟨0x40020280 + 4 * i, 0, 1⟩
/-- R192, ST. Write 1: clear at the next edge (R179, R184); reads 0 -/
def prsPxclrClr (i : Nat) : Fld := ⟨0x40020290 + 4 * i, 0, 1⟩
/-- R215, RO. Block identifier -/
def ledIdBlock : Fld := ⟨0x40030000, 16, 16⟩
/-- R215, RO. Block version -/
def ledIdVer : Fld := ⟨0x40030000, 0, 16⟩
/-- R215, W1C. An LED.CFG write was refused -/
def ledStatCfgrej : Fld := ⟨0x40030004, 2, 1⟩
/-- R215, W1C. A clear was refused (R210) -/
def ledStatClrrej : Fld := ⟨0x40030004, 1, 1⟩
/-- R215, W1C. A pairing change was refused (R196) -/
def ledStatPairrej : Fld := ⟨0x40030004, 0, 1⟩
/-- R215, ST. Bit p: LED(2p) and LED(2p+1) combined -/
def ledPairLp : Fld := ⟨0x40030008, 0, 12⟩
/-- R215, ST. Short threshold in 0.5 V units, 1–63; 0 disables -/
def ledCfgShth (i : Nat) : Fld := ⟨0x40030100 + 4 * i, 20, 6⟩
/-- R215, ST. Consecutive measurements for a status, 1–15; 0 applies as 1 -/
def ledCfgDcnt (i : Nat) : Fld := ⟨0x40030100 + 4 * i, 16, 4⟩
/-- R215, ST. 1: SHORT turns the sink off (R210) -/
def ledCfgShact (i : Nat) : Fld := ⟨0x40030100 + 4 * i, 15, 1⟩
/-- R215, ST. 1: HRLOW sets the Winnow source -/
def ledCfgWhrlow (i : Nat) : Fld := ⟨0x40030100 + 4 * i, 14, 1⟩
/-- R215, ST. 1: SHORT sets the Winnow source -/
def ledCfgWshort (i : Nat) : Fld := ⟨0x40030100 + 4 * i, 13, 1⟩
/-- R215, ST. 1: OPEN sets the Winnow source -/
def ledCfgWopen (i : Nat) : Fld := ⟨0x40030100 + 4 * i, 12, 1⟩
/-- R215, ST. 1: diagnostic pulses (R208) -/
def ledCfgDiagp (i : Nat) : Fld := ⟨0x40030100 + 4 * i, 11, 1⟩
/-- R215, ST. Curve 0–4; a write of 5–7 refuses the whole CFG write, and CFGREJ sets -/
def ledCfgCurve (i : Nat) : Fld := ⟨0x40030100 + 4 * i, 8, 3⟩
/-- R215, ST. Full-scale current in mA, 10–150 -/
def ledCfgIfs (i : Nat) : Fld := ⟨0x40030100 + 4 * i, 0, 8⟩
/-- R215, ST. Write 1: clear at the next edge (R210); reads 0 -/
def ledClr (i : Nat) : Fld := ⟨0x40030200 + 4 * i, 0, 1⟩
/-- R215, ST. T[2j + 1] -/
def ledCurvetabTh (i : Nat) : Fld := ⟨0x40031000 + 4 * i, 16, 16⟩
/-- R215, ST. T[2j] -/
def ledCurvetabTl (i : Nat) : Fld := ⟨0x40031000 + 4 * i, 0, 16⟩
/-- R239, RO. Block identifier -/
def inpIdBlock : Fld := ⟨0x40040000, 16, 16⟩
/-- R239, RO. Block version -/
def inpIdVer : Fld := ⟨0x40040000, 0, 16⟩
/-- R239, W1C. A write to SWTH or AINCFG was refused -/
def inpStatCfgrej : Fld := ⟨0x40040004, 0, 1⟩
/-- R239, ST. Bit n: WAKEn wakes the device while it is parked -/
def inpWakecfgPwake : Fld := ⟨0x40040008, 10, 2⟩
/-- R239, ST. Bit n: raw transitions raise event 48 + n -/
def inpWakecfgEv : Fld := ⟨0x40040008, 8, 2⟩
/-- R239, ST. Debounce in frames, 1–15; 0 applies as 1 -/
def inpWakecfgDeb : Fld := ⟨0x40040008, 4, 4⟩
/-- R239, ST. Bit n: 1 inverts WAKEn -/
def inpWakecfgPol : Fld := ⟨0x40040008, 2, 2⟩
/-- R239, ST. Bit n: WAKEn enabled -/
def inpWakecfgEn : Fld := ⟨0x40040008, 0, 2⟩
/-- R239, ST. Bias-check period in frames; 0 disables checks -/
def inpBchkPer : Fld := ⟨0x4004000C, 0, 8⟩
/-- R239, ST. 1: a coded fault sets the group source (R234) -/
def inpSwcfgWflt (i : Nat) : Fld := ⟨0x40040100 + 4 * i, 12, 1⟩
/-- R239, ST. 1: level wake source while parked -/
def inpSwcfgWake (i : Nat) : Fld := ⟨0x40040100 + 4 * i, 11, 1⟩
/-- R239, ST. 0: wake while the watch reads closed; 1: while it reads open -/
def inpSwcfgWpol (i : Nat) : Fld := ⟨0x40040100 + 4 * i, 10, 1⟩
/-- R239, ST. Event causes (R223) -/
def inpSwcfgEvsel (i : Nat) : Fld := ⟨0x40040100 + 4 * i, 8, 2⟩
/-- R239, ST. Debounce in frames, 1–15; 0 applies as 1 -/
def inpSwcfgDeb (i : Nat) : Fld := ⟨0x40040100 + 4 * i, 4, 4⟩
/-- R239, ST. 1: four-state coding -/
def inpSwcfgCoded (i : Nat) : Fld := ⟨0x40040100 + 4 * i, 3, 1⟩
/-- R239, ST. 0: ground-referenced; 1: battery-referenced -/
def inpSwcfgRef (i : Nat) : Fld := ⟨0x40040100 + 4 * i, 2, 1⟩
/-- R239, ST. 0b00 disabled; 0b01 2 mA; 0b10 10 mA; 0b11 20 mA -/
def inpSwcfgWet (i : Nat) : Fld := ⟨0x40040100 + 4 * i, 0, 2⟩
/-- R239, ST. Upper threshold in 50 mV units -/
def inpSwthThi (i : Nat) : Fld := ⟨0x40040200 + 4 * i, 16, 8⟩
/-- R239, ST. Middle threshold in 50 mV units -/
def inpSwthTmid (i : Nat) : Fld := ⟨0x40040200 + 4 * i, 8, 8⟩
/-- R239, ST. Lower threshold in 50 mV units; a write without TLO < TMID < THI is refused -/
def inpSwthTlo (i : Nat) : Fld := ⟨0x40040200 + 4 * i, 0, 8⟩
/-- R240, ST. Upper check impedance in 1 kΩ units -/
def inpAincfgZhi (i : Nat) : Fld := ⟨0x40040300 + 4 * i, 24, 8⟩
/-- R240, ST. Lower check impedance in 100 Ω units -/
def inpAincfgZlo (i : Nat) : Fld := ⟨0x40040300 + 4 * i, 16, 8⟩
/-- R240, ST. 1: RFAIL sets source 151 -/
def inpAincfgWrf (i : Nat) : Fld := ⟨0x40040300 + 4 * i, 9, 1⟩
/-- R240, ST. 1: REVS and ZERR set source 151 -/
def inpAincfgWmisw (i : Nat) : Fld := ⟨0x40040300 + 4 * i, 8, 1⟩
/-- R240, ST. 1: bias check (R229) -/
def inpAincfgBchk (i : Nat) : Fld := ⟨0x40040300 + 4 * i, 7, 1⟩
/-- R240, ST. NTC table 0–3 -/
def inpAincfgTab (i : Nat) : Fld := ⟨0x40040300 + 4 * i, 5, 2⟩
/-- R240, ST. 0 absolute; 1–4 VSENS0–3; 5–7 refused -/
def inpAincfgRatio (i : Nat) : Fld := ⟨0x40040300 + 4 * i, 2, 3⟩
/-- R240, ST. 0 off; 1 voltage; 2 NTC; 3 refused -/
def inpAincfgMode (i : Nat) : Fld := ⟨0x40040300 + 4 * i, 0, 2⟩
/-- R240, ST. Write 1: clear OC at the next edge (R231); reads 0 -/
def inpVsclrClr (i : Nat) : Fld := ⟨0x40040400 + 4 * i, 0, 1⟩
/-- R240, ST. E[2j + 1] of table m >> 5, where j = m & 31 -/
def inpNtcEh (i : Nat) : Fld := ⟨0x40040800 + 4 * i, 16, 16⟩
/-- R240, ST. E[2j] of that table -/
def inpNtcEl (i : Nat) : Fld := ⟨0x40040800 + 4 * i, 0, 16⟩
/-- R267, RO. Block identifier -/
def winIdBlock : Fld := ⟨0x40050000, 16, 16⟩
/-- R267, RO. Block version -/
def winIdVer : Fld := ⟨0x40050000, 0, 16⟩
/-- R267, RO. 1 while halted in class F -/
def winStatFhalt : Fld := ⟨0x40050004, 5, 1⟩
/-- R267, RO. 1 while the safe image is driven -/
def winStatSafe : Fld := ⟨0x40050004, 4, 1⟩
/-- R267, W1C. A CLASS write was refused (R261) -/
def winStatClsrej : Fld := ⟨0x40050004, 2, 1⟩
/-- R267, W1C. A force of a class F source was refused (R259) -/
def winStatFrcrej : Fld := ⟨0x40050004, 1, 1⟩
/-- R267, W1C. A JOB-mode store was ignored (R257) -/
def winStatPrivrej : Fld := ⟨0x40050004, 0, 1⟩
/-- R267, RW running-safe. Event 77 enable: bit 1 class N, bit 2 class W, bit 3 class S -/
def winCtlEven : Fld := ⟨0x40050008, 1, 3⟩
/-- R267, RW running-safe. Write 1 locks WIN.CLASS (R261); a write of 0 is ignored -/
def winCtlLock : Fld := ⟨0x40050008, 0, 1⟩
/-- R267, RO. 1 while a class W pulse runs -/
def winWarnPulse : Fld := ⟨0x4005000C, 1, 1⟩
/-- R267, RW running-safe. WARN_P level outside pulses (R246) -/
def winWarnDrv : Fld := ⟨0x4005000C, 0, 1⟩
/-- R267, RW running-safe. 1: class F sources may be forced; clears at each edge -/
def winTestArmf : Fld := ⟨0x40050010, 0, 1⟩
/-- R267, WO. Bit b raises source 180 + b -/
def winSwsetSet : Fld := ⟨0x40050014, 0, 12⟩
/-- R267, RO. Bit 0 F, 1 S, 2 W, 3 N: some sticky bit of that class is 1 -/
def winSummAny : Fld := ⟨0x40050018, 0, 4⟩
/-- R267, W1C. Bit b: sticky bit of source 32·m + b (R257) -/
def winStickyStk (i : Nat) : Fld := ⟨0x40050020 + 4 * i, 0, 32⟩
/-- R267, WO. Bit b: raise source 32·m + b once (R258) -/
def winForceFrc (i : Nat) : Fld := ⟨0x40050040 + 4 * i, 0, 32⟩
/-- R267, ST. Bits [2i+1:2i]: class of source 16·j + i; fixed sources read 0b11 -/
def winClassCls (i : Nat) : Fld := ⟨0x40050060 + 4 * i, 0, 32⟩
/-- R267, RO. Entries of outputs 16·j to 16·j + 15 (R252) -/
def winSafeEnt (i : Nat) : Fld := ⟨0x400500A0 + 4 * i, 0, 32⟩
/-- R395, RO. Block identifier -/
def echIdBlock : Fld := ⟨0x40060000, 16, 16⟩
/-- R395, RO. Block version -/
def echIdVer : Fld := ⟨0x40060000, 0, 16⟩
/-- R395, W1C. A JOB-mode store was ignored -/
def echStatPrivrej : Fld := ⟨0x40060004, 7, 1⟩
/-- R395, W1C. A write to SPG or SGRN was ignored under LOCK -/
def echStatSpgrej : Fld := ⟨0x40060004, 6, 1⟩
/-- R395, RO. Bit c: core c in echo halt -/
def echStatEhalt : Fld := ⟨0x40060004, 4, 2⟩
/-- R395, W1C. Bit 2 + c: echo buffer parity replay on core c -/
def echStatBpar : Fld := ⟨0x40060004, 2, 2⟩
/-- R395, W1C. Bit c: first mismatch replayed on core c -/
def echStatMis : Fld := ⟨0x40060004, 0, 2⟩
/-- R395, RW running-safe. Write 1 locks SPG and SGRN until power-on reset; 0 is ignored -/
def echCtlLock : Fld := ⟨0x40060008, 0, 1⟩
/-- R395, WO. Bit c: restart core c from echo halt (R380) -/
def echCrstRestart : Fld := ⟨0x4006000C, 0, 2⟩
/-- R395, RW running-safe. Restart address; store tag PTR -/
def echRstpcPc (i : Nat) : Fld := ⟨0x40060010 + 4 * i, 0, 32⟩
/-- R395, RO. First mismatches since power-on reset, saturating -/
def echMiscntCount (i : Nat) : Fld := ⟨0x40060018 + 4 * i, 0, 32⟩
/-- R395, RO. PC of the latest mismatched instruction -/
def echLastpcPc (i : Nat) : Fld := ⟨0x40060020 + 4 * i, 0, 32⟩
/-- R395, RO. As [7:0], for C1 -/
def echLaneC1 : Fld := ⟨0x40060028, 8, 8⟩
/-- R395, RO. C0 spare failed -/
def echLaneSpfail : Fld := ⟨0x40060028, 6, 1⟩
/-- R395, RO. C0 uncompared lane 0–3; 7 none -/
def echLaneDead : Fld := ⟨0x40060028, 3, 3⟩
/-- R395, RO. C0 lane that the spare stands for, 0–3; 7 none -/
def echLaneSpfor : Fld := ⟨0x40060028, 0, 3⟩
/-- R395, ST. Bit b: page 32·(n & 1) + b of core n >> 1 is safety -/
def echSpgPage (i : Nat) : Fld := ⟨0x40060100 + 4 * i, 0, 32⟩
/-- R395, ST. Bit b: code fetched by C1 from bank b is echoed -/
def echSgrnC1 : Fld := ⟨0x40060110, 16, 16⟩
/-- R395, ST. Bit b: code fetched by C0 from bank b is echoed -/
def echSgrnC0 : Fld := ⟨0x40060110, 0, 16⟩
/-- R397, RO. Block identifier -/
def dbgIdBlock : Fld := ⟨0x40130000, 16, 16⟩
/-- R397, RO. Block version -/
def dbgIdVer : Fld := ⟨0x40130000, 0, 16⟩
/-- R397, W1C. A write was dropped for bad data parity -/
def dbgStatLinkerr : Fld := ⟨0x40130004, 2, 1⟩
/-- R397, W1C. An MWR was refused by the echo lanes (R391) -/
def dbgStatEchorej : Fld := ⟨0x40130004, 1, 1⟩
/-- R397, RO. 1 while the debug lock is closed -/
def dbgStatLocked : Fld := ⟨0x40130004, 0, 1⟩
/-- R397, WO. Write 1: restart (R394) -/
def dbgCtlRestart (i : Nat) : Fld := ⟨0x40130008 + 4 * i, 3, 1⟩
/-- R397, RW running-safe. 1: the BRK instruction halts for debug -/
def dbgCtlBrkhalt (i : Nat) : Fld := ⟨0x40130008 + 4 * i, 2, 1⟩
/-- R397, WO. Write 1: one step (R392) -/
def dbgCtlStep (i : Nat) : Fld := ⟨0x40130008 + 4 * i, 1, 1⟩
/-- R397, RW running-safe. 1: halt requested or held; write 0 resumes -/
def dbgCtlHalt (i : Nat) : Fld := ⟨0x40130008 + 4 * i, 0, 1⟩
/-- R397, RO. Breakpoint or watchpoint number for WHY 2 or 3 -/
def dbgHstatWhich (i : Nat) : Fld := ⟨0x40130010 + 4 * i, 6, 3⟩
/-- R397, RO. 0 request, 1 step, 2 breakpoint, 3 watchpoint, 4 BRK instruction -/
def dbgHstatWhy (i : Nat) : Fld := ⟨0x40130010 + 4 * i, 3, 3⟩
/-- R397, RO. In echo halt -/
def dbgHstatEhalt (i : Nat) : Fld := ⟨0x40130010 + 4 * i, 2, 1⟩
/-- R397, RO. Halted by a double trap -/
def dbgHstatDhalt (i : Nat) : Fld := ⟨0x40130010 + 4 * i, 1, 1⟩
/-- R397, RO. Halted for debug -/
def dbgHstatHalted (i : Nat) : Fld := ⟨0x40130010 + 4 * i, 0, 1⟩
/-- R397, RO. PC of the next instruction to retire -/
def dbgHpcPc (i : Nat) : Fld := ⟨0x40130018 + 4 * i, 0, 32⟩
/-- R397, RW running-safe. Bit n: BP[n] raises BRK; 0 halts -/
def dbgBpctlTrap : Fld := ⟨0x40130020, 8, 8⟩
/-- R397, RW running-safe. Bit n: BP[n] enabled -/
def dbgBpctlEn : Fld := ⟨0x40130020, 0, 8⟩
/-- R397, RW running-safe. Bit n: WP[n] matches stores only -/
def dbgWpctlSto : Fld := ⟨0x40130024, 8, 4⟩
/-- R397, RW running-safe. Bit n: WP[n] raises BRK; 0 halts -/
def dbgWpctlTrap : Fld := ⟨0x40130024, 4, 4⟩
/-- R397, RW running-safe. Bit n: WP[n] enabled -/
def dbgWpctlEn : Fld := ⟨0x40130024, 0, 4⟩
/-- R397, RW running-safe. Instruction address -/
def dbgBpAddr (i : Nat) : Fld := ⟨0x40130040 + 4 * i, 0, 32⟩
/-- R397, RW running-safe. Word address; [1:0] read 0 -/
def dbgWpAddr (i : Nat) : Fld := ⟨0x40130060 + 4 * i, 2, 30⟩
/-- R418, RO. Block identifier -/
def grnIdBlock : Fld := ⟨0x40070000, 16, 16⟩
/-- R418, RO. Block version -/
def grnIdVer : Fld := ⟨0x40070000, 0, 16⟩
/-- R418, W1C. A spare lane was brought in (R414) -/
def grnStatLsub : Fld := ⟨0x40070004, 3, 1⟩
/-- R418, W1C. A bank failed to wake in time (R409) -/
def grnStatWakef : Fld := ⟨0x40070004, 2, 1⟩
/-- R418, W1C. An uncorrectable error was found -/
def grnStatUe : Fld := ⟨0x40070004, 1, 1⟩
/-- R418, W1C. A non-owner access was made (R404) -/
def grnStatNown : Fld := ⟨0x40070004, 0, 1⟩
/-- R418, RO. Bit b: an owner access to bank b is waiting or in progress (R406) -/
def grnPendBank : Fld := ⟨0x40070008, 0, 16⟩
/-- R418, RW running-safe. Microseconds between scrub reads, 1–255; 0 stops scrubbing -/
def grnScrubIntv : Fld := ⟨0x4007000C, 0, 8⟩
/-- R418, RO. Byte address of the latest non-owner access -/
def grnNownaAddr : Fld := ⟨0x40070010, 0, 32⟩
/-- R418, RO. 1: that access wrote -/
def grnNowniWr : Fld := ⟨0x40070014, 4, 1⟩
/-- R418, RO. 1: that access was a fetch (R405) -/
def grnNowniFetch : Fld := ⟨0x40070014, 3, 1⟩
/-- R418, RO. Master of that access, in the owner codes of R403 -/
def grnNowniMaster : Fld := ⟨0x40070014, 0, 3⟩
/-- R418, RW running-safe. Owner code (R403, R406, R407) -/
def grnOwnOwner (i : Nat) : Fld := ⟨0x40070100 + 4 * i, 0, 3⟩
/-- R418, RO. 1 while the bank wakes -/
def grnBpwrWaking (i : Nat) : Fld := ⟨0x40070140 + 4 * i, 2, 1⟩
/-- R418, RW running-safe. 0b00 ON, 0b01 RET, 0b10 OFF; a write of 0b11 is ignored (R408) -/
def grnBpwrState (i : Nat) : Fld := ⟨0x40070140 + 4 * i, 0, 2⟩
/-- R418, RO. Lane retired with no spare left; 15 none -/
def grnLaneWlane (i : Nat) : Fld := ⟨0x40070180 + 4 * i, 8, 4⟩
/-- R418, RO. 1 while a lane copy runs (R413) -/
def grnLaneCopy (i : Nat) : Fld := ⟨0x40070180 + 4 * i, 6, 1⟩
/-- R418, RO. A lane needed a spare and none was left (R415) -/
def grnLaneWorn (i : Nat) : Fld := ⟨0x40070180 + 4 * i, 5, 1⟩
/-- R418, RO. The spare lane has failed -/
def grnLaneSpfail (i : Nat) : Fld := ⟨0x40070180 + 4 * i, 4, 1⟩
/-- R418, RO. Lane that the spare stands for, 0–7; 15 none -/
def grnLaneSpfor (i : Nat) : Fld := ⟨0x40070180 + 4 * i, 0, 4⟩
/-- R418, RO. Uncorrectable errors found in bank b since power-on reset, saturating -/
def grnUeCount (i : Nat) : Fld := ⟨0x400701C0 + 4 * i, 0, 32⟩
/-- R418, RO. Corrected errors of lane l of bank b since power-on reset, saturating; l = 8 is the spare -/
def grnLceCount (i : Nat) : Fld := ⟨0x40070400 + 4 * i, 0, 32⟩
/-- R448, RO. Block identifier -/
def pwrIdBlock : Fld := ⟨0x40080000, 16, 16⟩
/-- R448, RO. Block version -/
def pwrIdVer : Fld := ⟨0x40080000, 0, 16⟩
/-- R448, W1C. A JOB-mode store was ignored -/
def pwrStatPrivrej : Fld := ⟨0x40080004, 4, 1⟩
/-- R448, RO. VHOLD at 15.0 V or more -/
def pwrStatHoldrdy : Fld := ⟨0x40080004, 3, 1⟩
/-- R448, W1C. A regulator phase was retired (R430) -/
def pwrStatPhret : Fld := ⟨0x40080004, 2, 1⟩
/-- R448, W1C. A locked domain was used (R437) -/
def pwrStatLockacc : Fld := ⟨0x40080004, 1, 1⟩
/-- R448, W1C. A domain request was refused (R435) -/
def pwrStatDrej : Fld := ⟨0x40080004, 0, 1⟩
/-- R448, W1C. Bits 0–6: POR, VLOW, DIPT, HOLD, BOR, PIN, FREL (R428); kept until cleared -/
def pwrRcauseCause : Fld := ⟨0x40080008, 0, 7⟩
/-- R448, RW running-safe. 1: the device may park (R440) -/
def pwrParkEn : Fld := ⟨0x4008000C, 0, 1⟩
/-- R448, RW running-safe. Bit 0 AON timer, 1 HST, 2 CAN0, 3 CAN1 -/
def pwrWsrcEn : Fld := ⟨0x40080010, 0, 4⟩
/-- R448, RO. 1 once COUNT has reached 0 from 1; a write clears it -/
def pwrAontDone : Fld := ⟨0x40080014, 31, 1⟩
/-- R448, RW running-safe. Counts down once per AON cycle while nonzero; 0 stops -/
def pwrAontCount : Fld := ⟨0x40080014, 0, 31⟩
/-- R448, RO. Lowest SW input requesting at the latest wake; 63 none -/
def pwrWcauseSwidx : Fld := ⟨0x40080018, 16, 6⟩
/-- R448, RO. Bits 0–6: WAKE0, WAKE1, SW, TMR, CAN0, CAN1, HST at the latest wake -/
def pwrWcauseSrc : Fld := ⟨0x40080018, 0, 7⟩
/-- R448, RO. Group g at the latest slot boundary, mV, signed -/
def pwrVbatMv (i : Nat) : Fld := ⟨0x40080020 + 4 * i, 0, 32⟩
/-- R448, RO. VHOLD, mV -/
def pwrVholdMv : Fld := ⟨0x4008002C, 0, 32⟩
/-- R448, RO. Logic junction, 1/16 °C, signed -/
def pwrTlogDeg : Fld := ⟨0x40080030, 0, 32⟩
/-- R448, RO. Spare phase failed -/
def pwrRegSpfail : Fld := ⟨0x40080034, 8, 1⟩
/-- R448, RO. Phase that the spare stands for, 0–3; 7 none -/
def pwrRegSpfor : Fld := ⟨0x40080034, 5, 3⟩
/-- R448, RO. Bit p: phase p carries current -/
def pwrRegPhon : Fld := ⟨0x40080034, 0, 5⟩
/-- R448, W1C. Bit g: group g was reversed (R424) -/
def pwrRevGrp : Fld := ⟨0x40080038, 0, 3⟩
/-- R448, RO. Bit d: domain d ON; AON and the Granary banks are ON after power-on reset -/
def pwrDstatOn : Fld := ⟨0x4008003C, 0, 32⟩
/-- R448, RO. Bit d: domain d RET -/
def pwrDrstatRet : Fld := ⟨0x40080040, 0, 32⟩
/-- R448, ST. Bit d: domain d locked off (R437); bit 0 ignored -/
def pwrLockLk : Fld := ⟨0x40080044, 0, 32⟩
/-- R448, RO. 1 while the domain wakes (R436) -/
def pwrDctlWaking (i : Nat) : Fld := ⟨0x40080100 + 4 * i, 2, 1⟩
/-- R448, ST. 0b00 ON, 0b01 RET, 0b10 OFF; 0b11 ignored (R435) -/
def pwrDctlReq (i : Nat) : Fld := ⟨0x40080100 + 4 * i, 0, 2⟩
/-- R475, RO. Block identifier -/
def canIdBlock (n : Nat) : Fld := ⟨0x40090000 + 0x2000 * n, 16, 16⟩
/-- R475, RO. Block version -/
def canIdVer (n : Nat) : Fld := ⟨0x40090000 + 0x2000 * n, 0, 16⟩
/-- R475, RW stopped-only. Protocol exception (R469) -/
def canCtlPex (n : Nat) : Fld := ⟨0x40090004 + 0x2000 * n, 5, 1⟩
/-- R475, WO. Write 1 starts the recovery count (R467) -/
def canCtlRecover (n : Nat) : Fld := ⟨0x40090004 + 0x2000 * n, 4, 1⟩
/-- R475, RW running-safe. 1: automatic recovery -/
def canCtlAutorec (n : Nat) : Fld := ⟨0x40090004 + 0x2000 * n, 3, 1⟩
/-- R475, RW stopped-only. Mode table of R452 -/
def canCtlMode (n : Nat) : Fld := ⟨0x40090004 + 0x2000 * n, 1, 2⟩
/-- R475, RW running-safe. 1: the controller runs (R451) -/
def canCtlRun (n : Nat) : Fld := ⟨0x40090004 + 0x2000 * n, 0, 1⟩
/-- R475, W1C. Protocol exception seen -/
def canStatPexc (n : Nat) : Fld := ⟨0x40090008 + 0x2000 * n, 9, 1⟩
/-- R475, W1C. Queue overflow (R464) -/
def canStatQovf (n : Nat) : Fld := ⟨0x40090008 + 0x2000 * n, 8, 1⟩
/-- R475, W1C. Port access refused (R460) -/
def canStatPorterr (n : Nat) : Fld := ⟨0x40090008 + 0x2000 * n, 7, 1⟩
/-- R475, W1C. Access to an object locked by another master -/
def canStatLockcol (n : Nat) : Fld := ⟨0x40090008 + 0x2000 * n, 6, 1⟩
/-- R475, RO. Lines swapped (R468) -/
def canStatSwap (n : Nat) : Fld := ⟨0x40090008 + 0x2000 * n, 5, 1⟩
/-- R475, RO. Alone on the bus (R466) -/
def canStatLone (n : Nat) : Fld := ⟨0x40090008 + 0x2000 * n, 4, 1⟩
/-- R475, RO. TEC or REC at 96 or more -/
def canStatWarn (n : Nat) : Fld := ⟨0x40090008 + 0x2000 * n, 3, 1⟩
/-- R475, RO. 0 error active, 1 error passive, 2 bus-off -/
def canStatEstate (n : Nat) : Fld := ⟨0x40090008 + 0x2000 * n, 1, 2⟩
/-- R475, RO. 1 while the controller takes part on the bus -/
def canStatRunning (n : Nat) : Fld := ⟨0x40090008 + 0x2000 * n, 0, 1⟩
/-- R475, RW stopped-only. 1–128, at most TSEG2 -/
def canNbtSjw (n : Nat) : Fld := ⟨0x4009000C + 0x2000 * n, 23, 8⟩
/-- R475, RW stopped-only. 2–128 -/
def canNbtTseg2 (n : Nat) : Fld := ⟨0x4009000C + 0x2000 * n, 15, 8⟩
/-- R475, RW stopped-only. 2–256 -/
def canNbtTseg1 (n : Nat) : Fld := ⟨0x4009000C + 0x2000 * n, 6, 9⟩
/-- R475, RW stopped-only. 1–32 -/
def canNbtBrp (n : Nat) : Fld := ⟨0x4009000C + 0x2000 * n, 0, 6⟩
/-- R475, RW stopped-only. 1–16, at most TSEG2 -/
def canDbtSjw (n : Nat) : Fld := ⟨0x40090010 + 0x2000 * n, 17, 5⟩
/-- R475, RW stopped-only. 1–16 -/
def canDbtTseg2 (n : Nat) : Fld := ⟨0x40090010 + 0x2000 * n, 12, 5⟩
/-- R475, RW stopped-only. 1–32 -/
def canDbtTseg1 (n : Nat) : Fld := ⟨0x40090010 + 0x2000 * n, 6, 6⟩
/-- R475, RW stopped-only. 1–32 -/
def canDbtBrp (n : Nat) : Fld := ⟨0x40090010 + 0x2000 * n, 0, 6⟩
/-- R475, RW stopped-only. 1: delay compensation (R450) -/
def canTdcTdcen (n : Nat) : Fld := ⟨0x40090014 + 0x2000 * n, 8, 1⟩
/-- R475, RW stopped-only. Offset in 12.5 ns periods, 0–127 -/
def canTdcTdco (n : Nat) : Fld := ⟨0x40090014 + 0x2000 * n, 0, 8⟩
/-- R475, RO. Receive error counter -/
def canErrRec (n : Nat) : Fld := ⟨0x40090018 + 0x2000 * n, 16, 9⟩
/-- R475, RO. Transmit error counter -/
def canErrTec (n : Nat) : Fld := ⟨0x40090018 + 0x2000 * n, 0, 9⟩
/-- R475, RW running-safe. Bit 0 RXO, 1 TXO, 2 QNE, 3 ERRS, 4 LONE, 5 SWAP (R470) -/
def canEvenCause (n : Nat) : Fld := ⟨0x4009001C + 0x2000 * n, 0, 6⟩
/-- R475, W1C. Causes raised, in EVEN's bit order -/
def canEvcCause (n : Nat) : Fld := ⟨0x40090020 + 0x2000 * n, 0, 6⟩
/-- R475, ST. Bit 0 WEPAS, 1 WLONE, 2 WSWAP (R473) -/
def canWcfgEn (n : Nat) : Fld := ⟨0x40090024 + 0x2000 * n, 0, 3⟩
/-- R475, RO. Frames dropped at a full queue since power-on reset, saturating -/
def canQstatDrop (n : Nat) : Fld := ⟨0x40090028 + 0x2000 * n, 16, 16⟩
/-- R475, RO. Entries held, 0–64 -/
def canQstatCount (n : Nat) : Fld := ⟨0x40090028 + 0x2000 * n, 0, 7⟩
/-- R475, WO. Write 1 frees the head entry -/
def canQackAck (n : Nat) : Fld := ⟨0x4009002C + 0x2000 * n, 0, 1⟩
/-- R475, WO. Write 1 abandons the writing master's lock (R459) -/
def canLckrelRel (n : Nat) : Fld := ⟨0x40090030 + 0x2000 * n, 0, 1⟩
/-- R475, RW stopped-only. DLC the wake frame must carry, 0–8 -/
def canSwkWdlc (n : Nat) : Fld := ⟨0x40090034 + 0x2000 * n, 3, 4⟩
/-- R475, RW stopped-only. 0b00 125, 0b01 250, 0b10 500, 0b11 1000 kbit/s -/
def canSwkWrate (n : Nat) : Fld := ⟨0x40090034 + 0x2000 * n, 1, 2⟩
/-- R475, RW stopped-only. 0 wake-up pattern, 1 selective wake frame (R472) -/
def canSwkWmode (n : Nat) : Fld := ⟨0x40090034 + 0x2000 * n, 0, 1⟩
/-- R475, RW stopped-only. Extended identifier -/
def canWufidXtd (n : Nat) : Fld := ⟨0x40090038 + 0x2000 * n, 29, 1⟩
/-- R475, RW stopped-only. Wake identifier -/
def canWufidId (n : Nat) : Fld := ⟨0x40090038 + 0x2000 * n, 0, 29⟩
/-- R475, RW stopped-only. 1: bit compared -/
def canWufmskMask (n : Nat) : Fld := ⟨0x4009003C + 0x2000 * n, 0, 29⟩
/-- R475, RW stopped-only. Data bytes 4m to 4m + 3; all 0 disables the data test -/
def canWufdmMask (n : Nat) (i : Nat) : Fld := ⟨0x40090040 + 0x2000 * n + 4 * i, 0, 32⟩
/-- R475, RO. Bit b: object 32·m + b has NEW -/
def canNew (n : Nat) (i : Nat) : Fld := ⟨0x40090060 + 0x2000 * n + 4 * i, 0, 32⟩
/-- R475, RO. Bit b: object 32·m + b is pending -/
def canTxpPend (n : Nat) (i : Nat) : Fld := ⟨0x40090080 + 0x2000 * n + 4 * i, 0, 32⟩
/-- R475, RW stopped-only. 1: the filter is used (R454) -/
def canAfidEn (n : Nat) (i : Nat) : Fld := ⟨0x400900A0 + 0x2000 * n + 4 * i, 31, 1⟩
/-- R475, RW stopped-only. Extended identifier -/
def canAfidXtd (n : Nat) (i : Nat) : Fld := ⟨0x400900A0 + 0x2000 * n + 4 * i, 29, 1⟩
/-- R475, RW stopped-only. Filter identifier -/
def canAfidId (n : Nat) (i : Nat) : Fld := ⟨0x400900A0 + 0x2000 * n + 4 * i, 0, 29⟩
/-- R475, RW stopped-only. 1: bit compared -/
def canAfmskMask (n : Nat) (i : Nat) : Fld := ⟨0x400900C0 + 0x2000 * n + 4 * i, 0, 29⟩
/-- R475, RW running-safe. Bit b: object 32·m + b raises RXO or TXO -/
def canEvoEv (n : Nat) (i : Nat) : Fld := ⟨0x400900E0 + 0x2000 * n + 4 * i, 0, 32⟩
/-- R475, RW running-safe. 1: the object is in use; every write empties it (R453) -/
def canObjcfgEn (n : Nat) (i : Nat) : Fld := ⟨0x40090400 + 0x2000 * n + 4 * i, 31, 1⟩
/-- R475, RW running-safe. 0 receive, 1 transmit -/
def canObjcfgDir (n : Nat) (i : Nat) : Fld := ⟨0x40090400 + 0x2000 * n + 4 * i, 30, 1⟩
/-- R475, RW running-safe. Extended identifier -/
def canObjcfgXtd (n : Nat) (i : Nat) : Fld := ⟨0x40090400 + 0x2000 * n + 4 * i, 29, 1⟩
/-- R475, RW running-safe. Identifier; a base identifier uses [10:0] with [28:11] at 0 -/
def canObjcfgId (n : Nat) (i : Nat) : Fld := ⟨0x40090400 + 0x2000 * n + 4 * i, 0, 29⟩
/-- R484, RO. Block identifier -/
def linIdBlock (m : Nat) : Fld := ⟨0x40140000 + 0x1000 * m, 16, 16⟩
/-- R484, RO. Block version -/
def linIdVer (m : Nat) : Fld := ⟨0x40140000 + 0x1000 * m, 0, 16⟩
/-- R484, RW stopped-only. Break length in bits, 13–26 -/
def linCfgBrk (m : Nat) : Fld := ⟨0x40140004 + 0x1000 * m, 17, 5⟩
/-- R484, RW stopped-only. Bit rate in bit/s, 1000–20000 -/
def linCfgRate (m : Nat) : Fld := ⟨0x40140004 + 0x1000 * m, 2, 15⟩
/-- R484, RW stopped-only. 0 responder, 1 commander -/
def linCfgRole (m : Nat) : Fld := ⟨0x40140004 + 0x1000 * m, 1, 1⟩
/-- R484, RW running-safe. 1: the channel runs -/
def linCfgEn (m : Nat) : Fld := ⟨0x40140004 + 0x1000 * m, 0, 1⟩
/-- R484, RO. No activity for 4 s (R481) -/
def linStatIdle (m : Nat) : Fld := ⟨0x40140008 + 0x1000 * m, 5, 1⟩
/-- R484, W1C. Wake pulse received -/
def linStatWakerx (m : Nat) : Fld := ⟨0x40140008 + 0x1000 * m, 4, 1⟩
/-- R484, W1C. Header write refused (R477) -/
def linStatHdrrej (m : Nat) : Fld := ⟨0x40140008 + 0x1000 * m, 3, 1⟩
/-- R484, RO. Bus held dominant -/
def linStatBusdom (m : Nat) : Fld := ⟨0x40140008 + 0x1000 * m, 2, 1⟩
/-- R484, RO. Frame in progress -/
def linStatBusy (m : Nat) : Fld := ⟨0x40140008 + 0x1000 * m, 1, 1⟩
/-- R484, RO. EN is 1 and the LIN domain is ON -/
def linStatActive (m : Nat) : Fld := ⟨0x40140008 + 0x1000 * m, 0, 1⟩
/-- R484, WO. Commander: send a header for this identifier -/
def linHdrId (m : Nat) : Fld := ⟨0x4014000C + 0x1000 * m, 0, 6⟩
/-- R484, WO. Write 1: send a wake pulse -/
def linWakeSend (m : Nat) : Fld := ⟨0x40140010 + 0x1000 * m, 0, 1⟩
/-- R484, RW running-safe. Bit 0 RXB, 1 TXB, 2 ERR, 3 WAKERX -/
def linEvenCause (m : Nat) : Fld := ⟨0x40140014 + 0x1000 * m, 0, 4⟩
/-- R484, W1C. Causes raised -/
def linEvcCause (m : Nat) : Fld := ⟨0x40140018 + 0x1000 * m, 0, 4⟩
/-- R484, ST. Bit 0 WCKS, 1 WFR, 2 WNR (R482) -/
def linWcfgEn (m : Nat) : Fld := ⟨0x4014001C + 0x1000 * m, 0, 3⟩
/-- R484, RO. Identifier of the latest error -/
def linLerrLid (m : Nat) : Fld := ⟨0x40140020 + 0x1000 * m, 8, 6⟩
/-- R484, W1C. Response missing -/
def linLerrNoresp (m : Nat) : Fld := ⟨0x40140020 + 0x1000 * m, 2, 1⟩
/-- R484, W1C. Framing, sync, parity or bit error -/
def linLerrFrerr (m : Nat) : Fld := ⟨0x40140020 + 0x1000 * m, 1, 1⟩
/-- R484, W1C. Checksum error -/
def linLerrCkerr (m : Nat) : Fld := ⟨0x40140020 + 0x1000 * m, 0, 1⟩
/-- R484, RW running-safe. 1: RXB and TXB for this identifier -/
def linBcfgEv (m : Nat) (i : Nat) : Fld := ⟨0x40140100 + 0x1000 * m + 4 * i, 7, 1⟩
/-- R484, RW running-safe. 0 classic, 1 enhanced (R479) -/
def linBcfgCks (m : Nat) (i : Nat) : Fld := ⟨0x40140100 + 0x1000 * m + 4 * i, 6, 1⟩
/-- R484, RW running-safe. Response length in bytes, 1–8; 0 applies as 1 -/
def linBcfgLen (m : Nat) (i : Nat) : Fld := ⟨0x40140100 + 0x1000 * m + 4 * i, 2, 4⟩
/-- R484, RW running-safe. 0 none, 1 subscribe, 2 publish; 3 acts as 0 -/
def linBcfgDir (m : Nat) (i : Nat) : Fld := ⟨0x40140100 + 0x1000 * m + 4 * i, 0, 2⟩
/-- R484, RW running-safe. Bytes 0–3; ignores writes while DIR is not 2 -/
def linD0Data (m : Nat) (i : Nat) : Fld := ⟨0x40140400 + 0x1000 * m + 16 * i, 0, 32⟩
/-- R484, RW running-safe. Bytes 4–7; as D0 -/
def linD1Data (m : Nat) (i : Nat) : Fld := ⟨0x40140404 + 0x1000 * m + 16 * i, 0, 32⟩
/-- R484, RO. Length of the latest stored response -/
def linBstatLen (m : Nat) (i : Nat) : Fld := ⟨0x40140408 + 0x1000 * m + 16 * i, 8, 4⟩
/-- R484, RO. Responses stored, modulo 256 -/
def linBstatSeq (m : Nat) (i : Nat) : Fld := ⟨0x40140408 + 0x1000 * m + 16 * i, 0, 8⟩
/-- R501, RO. Block identifier -/
def nmIdBlock : Fld := ⟨0x400A0000, 16, 16⟩
/-- R501, RO. Block version -/
def nmIdVer : Fld := ⟨0x400A0000, 0, 16⟩
/-- R501, W1C. A false wake ended in SLEEP -/
def nmStatFwto : Fld := ⟨0x400A0004, 4, 1⟩
/-- R501, W1C. A PREPARE was cancelled -/
def nmStatCancel : Fld := ⟨0x400A0004, 3, 1⟩
/-- R501, RO. An NM frame is pending (R488) -/
def nmStatTxpend : Fld := ⟨0x400A0004, 2, 1⟩
/-- R501, W1C. A coordinator received another node's GTS frame -/
def nmStatDupco : Fld := ⟨0x400A0004, 1, 1⟩
/-- R501, W1C. A malformed frame in the NM range (R487) -/
def nmStatBadfrm : Fld := ⟨0x400A0004, 0, 1⟩
/-- R501, RW stopped-only. 1: switch wake levels count toward LR (R489) -/
def nmCfgHolds : Fld := ⟨0x400A0008, 24, 1⟩
/-- R501, RW stopped-only. Bit n: WAKEn active counts toward LR -/
def nmCfgHoldw : Fld := ⟨0x400A0008, 22, 2⟩
/-- R501, RW stopped-only. Base identifier; BASE + 63 must stay within 0x7FF, else clamped to 0x7C0 -/
def nmCfgBase : Fld := ⟨0x400A0008, 11, 11⟩
/-- R501, RW stopped-only. Local node number -/
def nmCfgNode : Fld := ⟨0x400A0008, 5, 6⟩
/-- R501, RW stopped-only. 0 member, 1 coordinator -/
def nmCfgRole : Fld := ⟨0x400A0008, 4, 1⟩
/-- R501, RW stopped-only. CAN port 0–5; 6 and 7 clamp to 5 -/
def nmCfgPort : Fld := ⟨0x400A0008, 1, 3⟩
/-- R501, RW running-safe. 1: NM runs -/
def nmCfgEn : Fld := ⟨0x400A0008, 0, 1⟩
/-- R501, ST. False-wake and member silence timeout in frames, 1–65535 -/
def nmTimTfw : Fld := ⟨0x400A000C, 16, 16⟩
/-- R501, ST. REPEAT length in frames, 1–255 -/
def nmTimTrep : Fld := ⟨0x400A000C, 8, 8⟩
/-- R501, ST. Frame interval in frames, 1–255 -/
def nmTimTmsg : Fld := ⟨0x400A000C, 0, 8⟩
/-- R501, ST. Coordinator countdown in frames, 1–65535 -/
def nmTim2Tgts : Fld := ⟨0x400A0010, 16, 16⟩
/-- R501, ST. Coordinator quiet edges before GTS, 1–65535 -/
def nmTim2Trdy : Fld := ⟨0x400A0010, 0, 16⟩
/-- R501, RW running-safe. 1: firmware requests that the network stays awake -/
def nmLreqReq : Fld := ⟨0x400A0014, 0, 1⟩
/-- R501, RW running-safe. Bytes 6 and 7 of sent frames -/
def nmUsrData : Fld := ⟨0x400A0018, 0, 16⟩
/-- R501, RO. FRAME[31:0] of E_g -/
def nmGtsloFlo : Fld := ⟨0x400A001C, 0, 32⟩
/-- R501, RO. FRAME[47:32] of E_g -/
def nmGtshiFhi : Fld := ⟨0x400A0020, 0, 16⟩
/-- R501, WO. Write 1: clear every KEEP and WAKES (R498) -/
def nmNclrClr : Fld := ⟨0x400A0024, 0, 1⟩
/-- R501, RO. The latest frame of the node had REQ 1 -/
def nmNodeReq (i : Nat) : Fld := ⟨0x400A0100 + 4 * i, 29, 1⟩
/-- R501, RO. The node is present -/
def nmNodePres (i : Nat) : Fld := ⟨0x400A0100 + 4 * i, 28, 1⟩
/-- R501, RO. REASON of the latest wake attributed to the node -/
def nmNodeReason (i : Nat) : Fld := ⟨0x400A0100 + 4 * i, 24, 4⟩
/-- R501, RO. Wakes attributed, saturating at 255 -/
def nmNodeWakes (i : Nat) : Fld := ⟨0x400A0100 + 4 * i, 16, 8⟩
/-- R501, RO. Edges at which the node kept the network awake, saturating at 65535 -/
def nmNodeKeep (i : Nat) : Fld := ⟨0x400A0100 + 4 * i, 0, 16⟩
/-- R538, RO. Block identifier -/
def ethIdBlock : Fld := ⟨0x400B0000, 16, 16⟩
/-- R538, RO. Block version -/
def ethIdVer : Fld := ⟨0x400B0000, 0, 16⟩
/-- R538, W1C. A frame was dropped at a full queue (R505) -/
def ethStatDrop : Fld := ⟨0x400B0004, 3, 1⟩
/-- R538, W1C. A received packet was dropped (R526) -/
def ethStatBadip : Fld := ⟨0x400B0004, 2, 1⟩
/-- R538, W1C. Bit p: port p lost its link -/
def ethStatLdn : Fld := ⟨0x400B0004, 0, 2⟩
/-- R538, RW stopped-only. 1: answer ICMP echo -/
def ethCfgIcmp : Fld := ⟨0x400B0008, 1, 1⟩
/-- R538, RW running-safe. 1: the endpoint runs -/
def ethCfgEn : Fld := ⟨0x400B0008, 0, 1⟩
/-- R538, RO. MAC address bytes 2–5, byte 5 in [7:0] -/
def ethMacloMac : Fld := ⟨0x400B000C, 0, 32⟩
/-- R538, RO. MAC address bytes 0–1, byte 1 in [7:0] -/
def ethMachiMac : Fld := ⟨0x400B0010, 0, 16⟩
/-- R538, RW stopped-only. IPv4 address; 0 silences the endpoint -/
def ethIpaddrAddr : Fld := ⟨0x400B0014, 0, 32⟩
/-- R538, RW stopped-only. Subnet mask -/
def ethIpmaskMask : Fld := ⟨0x400B0018, 0, 32⟩
/-- R538, RW stopped-only. Gateway; 0 none -/
def ethIpgwAddr : Fld := ⟨0x400B001C, 0, 32⟩
/-- R538, RW stopped-only. Multicast group for the image protocol; a value outside 224.0.0.0 to 239.255.255.255 acts as 0 -/
def ethMcastAddr : Fld := ⟨0x400B0020, 0, 32⟩
/-- R538, RW stopped-only. PCP of other own frames -/
def ethVlanPcpo : Fld := ⟨0x400B0024, 26, 3⟩
/-- R538, RW stopped-only. PCP of Baler datagrams -/
def ethVlanPcpb : Fld := ⟨0x400B0024, 23, 3⟩
/-- R538, RW stopped-only. PCP of image-protocol datagrams -/
def ethVlanPcph : Fld := ⟨0x400B0024, 20, 3⟩
/-- R538, RW stopped-only. PCP of PTP frames -/
def ethVlanPcpp : Fld := ⟨0x400B0024, 17, 3⟩
/-- R538, RW stopped-only. 1: own frames are tagged -/
def ethVlanEn : Fld := ⟨0x400B0024, 12, 1⟩
/-- R538, RW stopped-only. VLAN identifier, 1–4094 -/
def ethVlanVid : Fld := ⟨0x400B0024, 0, 12⟩
/-- R538, RW stopped-only. Record-request port (R534) -/
def ethUdpRport : Fld := ⟨0x400B0028, 16, 16⟩
/-- R538, RW stopped-only. Image-protocol port (R527) -/
def ethUdpHport : Fld := ⟨0x400B0028, 0, 16⟩
/-- R538, RW running-safe. Bit p: a link change of port p raises event 60 -/
def ethEvenLink : Fld := ⟨0x400B002C, 0, 2⟩
/-- R538, W1C. Bit p: event 60 raised for port p -/
def ethEvcLink : Fld := ⟨0x400B0030, 0, 2⟩
/-- R538, RW running-safe. 0 SLAVE, 1 MASTER (R503) -/
def ethPcfgMs (i : Nat) : Fld := ⟨0x400B0040 + 4 * i, 1, 1⟩
/-- R538, RW running-safe. 1: the PHY runs -/
def ethPcfgEn (i : Nat) : Fld := ⟨0x400B0040 + 4 * i, 0, 1⟩
/-- R538, RW stopped-only. Signed link asymmetry in ns, delayAsymmetry of the standard -/
def ethPcalAsym (i : Nat) : Fld := ⟨0x400B0048 + 4 * i, 16, 16⟩
/-- R538, RW stopped-only. Egress latency in ns -/
def ethPcalElat (i : Nat) : Fld := ⟨0x400B0048 + 4 * i, 8, 8⟩
/-- R538, RW stopped-only. Ingress latency in ns -/
def ethPcalIlat (i : Nat) : Fld := ⟨0x400B0048 + 4 * i, 0, 8⟩
/-- R538, RO. Signal quality index 0–7, 7 best -/
def ethPstatSqi (i : Nat) : Fld := ⟨0x400B0050 + 4 * i, 2, 3⟩
/-- R538, RO. Role in use: 0 SLAVE, 1 MASTER -/
def ethPstatRole (i : Nat) : Fld := ⟨0x400B0050 + 4 * i, 1, 1⟩
/-- R538, RO. 1 while linked -/
def ethPstatLink (i : Nat) : Fld := ⟨0x400B0050 + 4 * i, 0, 1⟩
/-- R539, RO. Block identifier -/
def timIdBlock : Fld := ⟨0x400C0000, 16, 16⟩
/-- R539, RO. Block version -/
def timIdVer : Fld := ⟨0x400C0000, 0, 16⟩
/-- R539, W1C. A step was applied -/
def timStatStepd : Fld := ⟨0x400C0004, 4, 1⟩
/-- R539, W1C. An unmatched or malformed PTP message (R513) -/
def timStatBadmsg : Fld := ⟨0x400C0004, 3, 1⟩
/-- R539, RO. 0 FREE, 1 ACQ, 2 LOCK, 3 HOLD (R516) -/
def timStatState : Fld := ⟨0x400C0004, 0, 3⟩
/-- R539, ST. PTP domain of the ordinary clock -/
def timCfgDom : Fld := ⟨0x400C0008, 24, 8⟩
/-- R539, ST. Mean Delay_Req interval 2^(DRQ − 8) s -/
def timCfgDrq : Fld := ⟨0x400C0008, 20, 4⟩
/-- R539, ST. Source-loss count, 2–15 -/
def timCfgLoss : Fld := ⟨0x400C0008, 16, 4⟩
/-- R539, ST. 0b00 none, 0b01 PTP, 0b10 PPS_IN; 0b11 acts as 0b00 -/
def timCfgSrc : Fld := ⟨0x400C0008, 2, 2⟩
/-- R539, ST. 1: hardware servo; 0: manual (R515) -/
def timCfgServo : Fld := ⟨0x400C0008, 1, 1⟩
/-- R539, ST. 1: the transparent clock corrects (R513) -/
def timCfgTc : Fld := ⟨0x400C0008, 0, 1⟩
/-- R539, ST. Proportional shift -/
def timServoKp : Fld := ⟨0x400C000C, 28, 4⟩
/-- R539, ST. Integral shift -/
def timServoKi : Fld := ⟨0x400C000C, 24, 4⟩
/-- R539, ST. Lock threshold in 10 ns units -/
def timServoLockth : Fld := ⟨0x400C000C, 12, 12⟩
/-- R539, ST. Step threshold in µs, 1–4095 -/
def timServoStepth : Fld := ⟨0x400C000C, 0, 12⟩
/-- R539, RO. COUNT[31:0]; captures COUNT[63:32] (R511) -/
def timCntloCnt : Fld := ⟨0x400C0010, 0, 32⟩
/-- R539, RO. COUNT[63:32] as captured -/
def timCnthiCnt : Fld := ⟨0x400C0014, 0, 32⟩
/-- R539, RO. T[31:0]; captures T[63:32] -/
def timTloT : Fld := ⟨0x400C0018, 0, 32⟩
/-- R539, RO. T[63:32] as captured -/
def timThiT : Fld := ⟨0x400C001C, 0, 32⟩
/-- R539, RO. RATE[31:0] in use -/
def timRateloRate : Fld := ⟨0x400C0020, 0, 32⟩
/-- R539, RO. RATE[40:32] in use -/
def timRatehiRate : Fld := ⟨0x400C0024, 0, 9⟩
/-- R539, RO. OFFSET[31:0] in use -/
def timOffloOff : Fld := ⟨0x400C0028, 0, 32⟩
/-- R539, RO. OFFSET[63:32] in use, signed -/
def timOffhiOff : Fld := ⟨0x400C002C, 0, 32⟩
/-- R539, RO. Latest θ in ns, signed, saturating -/
def timThetaNs : Fld := ⟨0x400C0030, 0, 32⟩
/-- R539, RO. Mean path delay in ns -/
def timMpdNs : Fld := ⟨0x400C0034, 0, 32⟩
/-- R539, ST. Manual RATE[31:0]; a write stages the pair -/
def timNrateloRate : Fld := ⟨0x400C0038, 0, 32⟩
/-- R539, ST. Manual RATE[40:32]; [31:9] reserved -/
def timNratehiRate : Fld := ⟨0x400C003C, 0, 9⟩
/-- R539, ST. New OFFSET[31:0]; a write stages a step -/
def timNoffloOff : Fld := ⟨0x400C0040, 0, 32⟩
/-- R539, ST. New OFFSET[63:32], signed -/
def timNoffhiOff : Fld := ⟨0x400C0044, 0, 32⟩
/-- R539, RW running-safe. 0: PPS_IN captures rising edges; 1: falling edges -/
def timPpsInpol : Fld := ⟨0x400C0048, 11, 1⟩
/-- R539, RW running-safe. 0: PPS_OUT active high -/
def timPpsOutpol : Fld := ⟨0x400C0048, 10, 1⟩
/-- R539, RW running-safe. 1: PPS_OUT is driven (R523) -/
def timPpsOuten : Fld := ⟨0x400C0048, 9, 1⟩
/-- R539, RW running-safe. Pulse width in ms, 1–500 -/
def timPpsWid : Fld := ⟨0x400C0048, 0, 9⟩
/-- R539, RO. T[31:0] at the latest PPS_IN edge -/
def timPpscloT : Fld := ⟨0x400C004C, 0, 32⟩
/-- R539, RO. T[63:32] at that edge -/
def timPpschiT : Fld := ⟨0x400C0050, 0, 32⟩
/-- R539, RW running-safe. Alarm T[31:0]; a write arms the alarm -/
def timAlmloT : Fld := ⟨0x400C0054, 0, 32⟩
/-- R539, RW running-safe. Alarm T[63:32] -/
def timAlmhiT : Fld := ⟨0x400C0058, 0, 32⟩
/-- R539, RW running-safe. Event 61 causes: bit 0 state change, 1 step applied, 2 parent change -/
def timEvenCause : Fld := ⟨0x400C005C, 0, 3⟩
/-- R539, W1C. Causes raised -/
def timEvcCause : Fld := ⟨0x400C0060, 0, 3⟩
/-- R539, RO. Parent clockIdentity bytes 4–7 -/
def timParloId : Fld := ⟨0x400C0064, 0, 32⟩
/-- R539, RO. Parent clockIdentity bytes 0–3 -/
def timParhiId : Fld := ⟨0x400C0068, 0, 32⟩
/-- R539, RO. stepsRemoved of the parent's Announce -/
def timParportSteps : Fld := ⟨0x400C006C, 16, 8⟩
/-- R539, RO. Parent portNumber -/
def timParportPort : Fld := ⟨0x400C006C, 0, 16⟩
/-- R540, RO. Block identifier -/
def balIdBlock : Fld := ⟨0x400D0000, 16, 16⟩
/-- R540, RO. Block version -/
def balIdVer : Fld := ⟨0x400D0000, 0, 16⟩
/-- R540, W1C. A request found no record (R534) -/
def balStatReqrej : Fld := ⟨0x400D0004, 3, 1⟩
/-- R540, W1C. A ring write was dropped (R533) -/
def balStatRingerr : Fld := ⟨0x400D0004, 2, 1⟩
/-- R540, W1C. A record was truncated (R528) -/
def balStatTrunc : Fld := ⟨0x400D0004, 1, 1⟩
/-- R540, W1C. A record was dropped (R532) -/
def balStatDrop : Fld := ⟨0x400D0004, 0, 1⟩
/-- R540, RW stopped-only. 1: records are kept in the ring -/
def balCfgRingen : Fld := ⟨0x400D0008, 2, 1⟩
/-- R540, RW stopped-only. 1: records are streamed -/
def balCfgTx : Fld := ⟨0x400D0008, 1, 1⟩
/-- R540, RW running-safe. 1: the Baler runs -/
def balCfgEn : Fld := ⟨0x400D0008, 0, 1⟩
/-- R540, RW stopped-only. Node number carried in records -/
def balNode : Fld := ⟨0x400D000C, 0, 16⟩
/-- R540, RW stopped-only. Stream destination; 0 sends nothing -/
def balDstipAddr : Fld := ⟨0x400D0010, 0, 32⟩
/-- R540, RW stopped-only. Stream destination port -/
def balPortsDport : Fld := ⟨0x400D0014, 16, 16⟩
/-- R540, RW stopped-only. Stream source port -/
def balPortsSport : Fld := ⟨0x400D0014, 0, 16⟩
/-- R540, RW stopped-only. Ring base, a multiple of 4096; [11:0] ignored -/
def balRingAddr : Fld := ⟨0x400D0018, 0, 32⟩
/-- R540, RO. SEQ of the latest record -/
def balSeq : Fld := ⟨0x400D001C, 0, 16⟩
/-- R540, ST. 1: the selector is used -/
def balSelEn (i : Nat) : Fld := ⟨0x400D0040 + 4 * i, 31, 1⟩
/-- R540, ST. 0 input image, 1 committed output view -/
def balSelImg (i : Nat) : Fld := ⟨0x400D0040 + 4 * i, 30, 1⟩
/-- R540, ST. Words, 1–16383; 0 acts as EN 0 -/
def balSelLenw (i : Nat) : Fld := ⟨0x400D0040 + 4 * i, 16, 14⟩
/-- R540, ST. First word offset in the image -/
def balSelOffw (i : Nat) : Fld := ⟨0x400D0040 + 4 * i, 0, 14⟩
/-- R564, RO. Block identifier -/
def accIdBlock : Fld := ⟨0x400E0000, 16, 16⟩
/-- R564, RO. Block version -/
def accIdVer : Fld := ⟨0x400E0000, 0, 16⟩
/-- R564, RO. 1 once PEPOCH is set (R559) -/
def accStatEpoch : Fld := ⟨0x400E0004, 2, 1⟩
/-- R564, W1C. A JOB-mode store was ignored -/
def accStatPrivrej : Fld := ⟨0x400E0004, 1, 1⟩
/-- R564, W1C. A URAW access was ignored (R548) -/
def accStatUrawrej : Fld := ⟨0x400E0004, 0, 1⟩
/-- R564, RW running-safe. 1: the block runs (R541) -/
def accCfgEn : Fld := ⟨0x400E0008, 0, 1⟩
/-- R564, ST. Aerial peak current in 100 mA units, 1–15 -/
def accLfcfgIpk : Fld := ⟨0x400E000C, 0, 4⟩
/-- R564, ST. Site code sent in the telegram -/
def accSite : Fld := ⟨0x400E0010, 0, 16⟩
/-- R564, ST. Slot length in µs, 500–20000 -/
def accSlotSlotlen : Fld := ⟨0x400E0014, 16, 16⟩
/-- R564, ST. 0b00 2, 0b01 4, 0b10 8, 0b11 16 slots -/
def accSlotNslot : Fld := ⟨0x400E0014, 0, 2⟩
/-- R564, ST. Relay tolerance in 0.25 µs units, 1–32 -/
def accRlyRwin : Fld := ⟨0x400E0018, 16, 8⟩
/-- R564, ST. Nominal reply delay in µs, 200–20000 -/
def accRlyRdly : Fld := ⟨0x400E0018, 0, 16⟩
/-- R564, RW stopped-only. Read prefix bytes, 0–4 -/
def accUcfgUrxn : Fld := ⟨0x400E001C, 13, 3⟩
/-- R564, RW stopped-only. Send prefix bytes, 0–4 -/
def accUcfgUtxn : Fld := ⟨0x400E001C, 10, 3⟩
/-- R564, RW running-safe. 1: URSTn low -/
def accUcfgRst : Fld := ⟨0x400E001C, 9, 1⟩
/-- R564, RW stopped-only. 0: UIRQ active high -/
def accUcfgIrqpol : Fld := ⟨0x400E001C, 8, 1⟩
/-- R564, RW stopped-only. SPI clock divider, 3–255 -/
def accUcfgDiv : Fld := ⟨0x400E001C, 0, 8⟩
/-- R564, RW stopped-only. Prefix bytes, byte 0 in [7:0] -/
def accUtxpPfx : Fld := ⟨0x400E0020, 0, 32⟩
/-- R564, RW stopped-only. Prefix bytes, byte 0 in [7:0] -/
def accUrxpPfx : Fld := ⟨0x400E0024, 0, 32⟩
/-- R564, RW stopped-only. UCSn level -/
def accUrawCs : Fld := ⟨0x400E0028, 8, 1⟩
/-- R564, RW stopped-only. A write shifts a byte out; a read returns the byte shifted in -/
def accUrawData : Fld := ⟨0x400E0028, 0, 8⟩
/-- R564, RW stopped-only. Permit key slot -/
def accKeysPks : Fld := ⟨0x400E002C, 8, 5⟩
/-- R564, RW stopped-only. Token master key slot -/
def accKeysTks : Fld := ⟨0x400E002C, 0, 5⟩
/-- R564, ST. Release length in frames, 1–65535 -/
def accRelDur : Fld := ⟨0x400E0030, 8, 16⟩
/-- R564, ST. 1: the release drives the door bridge (R556) -/
def accRelEn : Fld := ⟨0x400E0030, 7, 1⟩
/-- R564, ST. Mode of the table of R112 -/
def accRelMode : Fld := ⟨0x400E0030, 4, 3⟩
/-- R564, ST. Half-bridge, or even half-bridge of a full bridge -/
def accRelHb : Fld := ⟨0x400E0030, 0, 3⟩
/-- R564, ST. Permit period in ms, 10–1000 -/
def accPmtPer : Fld := ⟨0x400E0034, 16, 10⟩
/-- R564, ST. 1: permits are sent -/
def accPmtEn : Fld := ⟨0x400E0034, 15, 1⟩
/-- R564, ST. Bit-rate switching -/
def accPmtBrs : Fld := ⟨0x400E0034, 14, 1⟩
/-- R564, ST. Base identifier -/
def accPmtId : Fld := ⟨0x400E0034, 3, 11⟩
/-- R564, ST. CAN port 0–5 -/
def accPmtPort : Fld := ⟨0x400E0034, 0, 3⟩
/-- R564, ST. Permit length in seconds, 1–65535 -/
def accPdurSec : Fld := ⟨0x400E0038, 0, 16⟩
/-- R564, RW running-safe. Counter epoch (R559) -/
def accPepochEpoch : Fld := ⟨0x400E003C, 0, 16⟩
/-- R564, RW stopped-only. Nonce prefix (R558) -/
def accPnonceNonce : Fld := ⟨0x400E0040, 0, 32⟩
/-- R564, ST. LEVEL bits that grant -/
def accPolicyMask : Fld := ⟨0x400E0044, 0, 8⟩
/-- R564, RW running-safe. Bit 0 GRANT, 1 BUTTON, 2 DONE: a search sequence ended, 3 DIAG: OPEN or SHORT rose -/
def accEvenCause : Fld := ⟨0x400E0048, 0, 4⟩
/-- R564, W1C. Causes raised -/
def accEvcCause : Fld := ⟨0x400E004C, 0, 4⟩
/-- R564, RO. Next log entry to be written -/
def accLogidxNext : Fld := ⟨0x400E0050, 0, 4⟩
/-- R564, ST. Token identity -/
def accTokTid (i : Nat) : Fld := ⟨0x400E0100 + 4 * i, 0, 32⟩
/-- R564, RW stopped-only. Latest accepted rolling code; updated by the device -/
def accTcntCnt (i : Nat) : Fld := ⟨0x400E0180 + 4 * i, 0, 32⟩
/-- R564, RO. A resynchronisation is pending (R561) -/
def accTcfgPend (i : Nat) : Fld := ⟨0x400E0200 + 4 * i, 1, 1⟩
/-- R564, ST. 1: the entry is in use -/
def accTcfgEn (i : Nat) : Fld := ⟨0x400E0200 + 4 * i, 0, 1⟩
/-- R564, RO. R562 -/
def accLogEntry (i : Nat) : Fld := ⟨0x400E0300 + 4 * i, 0, 32⟩
/-- R582, RO. Block identifier -/
def hstIdBlock : Fld := ⟨0x400F0000, 16, 16⟩
/-- R582, RO. Block version -/
def hstIdVer : Fld := ⟨0x400F0000, 0, 16⟩
/-- R582, RO. Transactions held, 0–8 -/
def hstStatPend : Fld := ⟨0x400F0004, 8, 4⟩
/-- R582, W1C. A JOB-mode store was ignored -/
def hstStatPrivrej : Fld := ⟨0x400F0004, 6, 1⟩
/-- R582, W1C. A host reset applied -/
def hstStatHrst : Fld := ⟨0x400F0004, 5, 1⟩
/-- R582, W1C. A TXN was refused -/
def hstStatTxrej : Fld := ⟨0x400F0004, 4, 1⟩
/-- R582, W1C. A request failed R574 -/
def hstStatAuthf : Fld := ⟨0x400F0004, 3, 1⟩
/-- R582, W1C. An SPI request was discarded with a response pending -/
def hstStatOvf : Fld := ⟨0x400F0004, 2, 1⟩
/-- R582, W1C. A short SPI frame was discarded -/
def hstStatShort : Fld := ⟨0x400F0004, 1, 1⟩
/-- R582, RO. Negotiation closed (R578) -/
def hstStatNegd : Fld := ⟨0x400F0004, 0, 1⟩
/-- R582, RW running-safe. Key slot for R574 -/
def hstCfgAkey : Fld := ⟨0x400F0008, 8, 5⟩
/-- R582, RW running-safe. 1: R574 applies to SPI as well -/
def hstCfgSpiauth : Fld := ⟨0x400F0008, 1, 1⟩
/-- R582, RW running-safe. 1: unauthenticated UDP requests refused -/
def hstCfgAuthreq : Fld := ⟨0x400F0008, 0, 1⟩
/-- R582, RW running-safe. Bits 0–20: blocks in the order of the peripheral base table; 21: output image; 22: Granary -/
def hstWmaskBlk : Fld := ⟨0x400F000C, 0, 23⟩
/-- R582, RO. Latest accepted CTR -/
def hstActrCtr : Fld := ⟨0x400F0010, 0, 32⟩
/-- R582, RW running-safe. Bit 0 commit applied, 1 host reset, 2 TXN refused, 3 authentication failure -/
def hstEvenCause : Fld := ⟨0x400F0014, 0, 4⟩
/-- R582, W1C. Causes raised -/
def hstEvcCause : Fld := ⟨0x400F0018, 0, 4⟩
/-- R582, RO. Features of the part -/
def hstFeatF (i : Nat) : Fld := ⟨0x400F0020 + 4 * i, 0, 32⟩
/-- R582, RW running-safe. Accepted features, written by the host only (R578) -/
def hstAcceptA (i : Nat) : Fld := ⟨0x400F0030 + 4 * i, 0, 32⟩
/-- R582, WO. Write 1: commit at the next edge -/
def hstCommitGo : Fld := ⟨0x400F0040, 0, 1⟩
/-- R616, RO. Block identifier -/
def secIdBlock : Fld := ⟨0x40100000, 16, 16⟩
/-- R616, RO. Block version -/
def secIdVer : Fld := ⟨0x40100000, 0, 16⟩
/-- R616, RO. All 16 queue entries held -/
def secStatQfull : Fld := ⟨0x40100004, 6, 1⟩
/-- R616, RO. A flash program or erase runs (R595) -/
def secStatXbusy : Fld := ⟨0x40100004, 5, 1⟩
/-- R616, RO. Recovery mode -/
def secStatRcvr : Fld := ⟨0x40100004, 4, 1⟩
/-- R616, RO. Eight unlock failures (R614) -/
def secStatDlockout : Fld := ⟨0x40100004, 3, 1⟩
/-- R616, W1C. An unlock response failed -/
def secStatDfail : Fld := ⟨0x40100004, 2, 1⟩
/-- R616, RO. A TRNG health test fails (R591) -/
def secStatTrngf : Fld := ⟨0x40100004, 1, 1⟩
/-- R616, W1C. A JOB-mode store was ignored -/
def secStatPrivrej : Fld := ⟨0x40100004, 0, 1⟩
/-- R616, RO. Recovery entered at boot -/
def secBootRcvrboot : Fld := ⟨0x40100008, 7, 1⟩
/-- R616, RO. Bit 0 slot A, bit 1 slot B refused at boot -/
def secBootFail : Fld := ⟨0x40100008, 5, 2⟩
/-- R616, RO. Booted slot was unconfirmed -/
def secBootFirst : Fld := ⟨0x40100008, 4, 1⟩
/-- R616, RO. BOOT1, BOOT0 (R604) -/
def secBootLands : Fld := ⟨0x40100008, 2, 2⟩
/-- R616, RO. 0 A, 1 B, 0b11 none -/
def secBootSlot : Fld := ⟨0x40100008, 0, 2⟩
/-- R616, RO. VERSION of the running image -/
def secImgverVersion : Fld := ⟨0x4010000C, 0, 32⟩
/-- R616, RO. A valid settings copy was found -/
def secSetinfoValid : Fld := ⟨0x40100010, 17, 1⟩
/-- R616, RO. Copy chosen -/
def secSetinfoCopy : Fld := ⟨0x40100010, 16, 1⟩
/-- R616, RO. SETVER of that copy; 0xFFFF none -/
def secSetinfoSetver : Fld := ⟨0x40100010, 0, 16⟩
/-- R616, RO. ARB of the running image -/
def secArbImgarb : Fld := ⟨0x40100014, 8, 8⟩
/-- R616, RO. Anti-rollback count, 0–128 -/
def secArbCount : Fld := ⟨0x40100014, 0, 8⟩
/-- R616, W1C. Bit j: job j completed; 1 frees the entry -/
def secJdoneDone : Fld := ⟨0x40100018, 0, 16⟩
/-- R616, WO. Bit c: start held core c (R609) -/
def secHctlStart : Fld := ⟨0x4010001C, 0, 2⟩
/-- R616, WO. 0x5EC0_0D1E enters recovery (R611) -/
def secRecoverKey : Fld := ⟨0x40100020, 0, 32⟩
/-- R616, WO. Load and start the slot (R613) -/
def secRctlBoot : Fld := ⟨0x40100024, 4, 1⟩
/-- R616, WO. Verify the slot -/
def secRctlVerify : Fld := ⟨0x40100024, 3, 1⟩
/-- R616, WO. Erase the slot -/
def secRctlErase : Fld := ⟨0x40100024, 2, 1⟩
/-- R616, RW running-safe. 0 A, 1 B; 2 and 3 act as 0 -/
def secRctlSlot : Fld := ⟨0x40100024, 0, 2⟩
/-- R616, RW running-safe. Slot offset of the next RDATA word -/
def secRaddrOff : Fld := ⟨0x40100028, 0, 32⟩
/-- R616, WO. Appends one word -/
def secRdataData : Fld := ⟨0x4010002C, 0, 32⟩
/-- R616, W1C. An RDATA write was dropped -/
def secRstatOvf : Fld := ⟨0x40100030, 5, 1⟩
/-- R616, RO. Erase, program, verify or load running -/
def secRstatBusy : Fld := ⟨0x40100030, 4, 1⟩
/-- R616, RO. Status of the latest command, in job status codes -/
def secRstatStatus : Fld := ⟨0x40100030, 0, 4⟩
/-- R616, RO. Sector erases in slot s since power-on reset, saturating -/
def secXercCount (i : Nat) : Fld := ⟨0x40100034 + 4 * i, 0, 32⟩
/-- R616, RO. Operation of job j -/
def secJstOp (i : Nat) : Fld := ⟨0x40100040 + 4 * i, 8, 8⟩
/-- R616, RO. Job j completed -/
def secJstDone (i : Nat) : Fld := ⟨0x40100040 + 4 * i, 4, 1⟩
/-- R616, RO. Job status (R589) -/
def secJstStatus (i : Nat) : Fld := ⟨0x40100040 + 4 * i, 0, 4⟩
/-- R616, RO. Slot generation (R585) -/
def secKattrGen (i : Nat) : Fld := ⟨0x40100080 + 4 * i, 16, 16⟩
/-- R616, RO. Device slot -/
def secKattrDev (i : Nat) : Fld := ⟨0x40100080 + 4 * i, 7, 1⟩
/-- R616, RO. Bit 3 ENC, 4 DEC, 5 MAC, 6 WRAP -/
def secKattrUse (i : Nat) : Fld := ⟨0x40100080 + 4 * i, 3, 4⟩
/-- R616, RO. 0 empty, 1 AES-128, 2 AES-256 -/
def secKattrType (i : Nat) : Fld := ⟨0x40100080 + 4 * i, 1, 2⟩
/-- R616, RO. A key is present -/
def secKattrLoaded (i : Nat) : Fld := ⟨0x40100080 + 4 * i, 0, 1⟩
/-- R616, RO. Challenge bytes 4n to 4n + 3 -/
def secDchalChal (i : Nat) : Fld := ⟨0x40100100 + 4 * i, 0, 32⟩
/-- R616, RW running-safe. Response bytes 4n to 4n + 3; a write of DRESP[3] checks (R614) -/
def secDrespResp (i : Nat) : Fld := ⟨0x40100110 + 4 * i, 0, 32⟩
/-- R641, RO. Block identifier -/
def silIdBlock : Fld := ⟨0x40110000, 16, 16⟩
/-- R641, RO. Block version -/
def silIdVer : Fld := ⟨0x40110000, 0, 16⟩
/-- R641, W1C. A JOB-mode store was ignored -/
def silStatPrivrej : Fld := ⟨0x40110004, 6, 1⟩
/-- R641, RO. Result of the latest operation (R625) -/
def silStatPstat : Fld := ⟨0x40110004, 2, 4⟩
/-- R641, RO. An operation runs -/
def silStatBusy : Fld := ⟨0x40110004, 1, 1⟩
/-- R641, RO. VPP within 6.8–7.2 V -/
def silStatVppok : Fld := ⟨0x40110004, 0, 1⟩
/-- R641, WO. 1 PROG, 2 ARBSTEP, 3 WEAR; other values ignored -/
def silPctlOp : Fld := ⟨0x40110008, 0, 3⟩
/-- R641, RW running-safe. Record for PROG -/
def silPrecRec : Fld := ⟨0x4011000C, 0, 7⟩
/-- R641, RW running-safe. Data bits [31:0] -/
def silPdloData : Fld := ⟨0x40110010, 0, 32⟩
/-- R641, RW running-safe. Data bits [63:32] -/
def silPdhiData : Fld := ⟨0x40110014, 0, 32⟩
/-- R641, RO. No blank generation -/
def silRinfoFull (i : Nat) : Fld := ⟨0x40110800 + 4 * i, 8, 1⟩
/-- R641, RO. Bit g: Gg is void -/
def silRinfoVoid (i : Nat) : Fld := ⟨0x40110800 + 4 * i, 4, 4⟩
/-- R641, RO. Protected record -/
def silRinfoProt (i : Nat) : Fld := ⟨0x40110800 + 4 * i, 3, 1⟩
/-- R641, RO. No programmed generation -/
def silRinfoUnprog (i : Nat) : Fld := ⟨0x40110800 + 4 * i, 2, 1⟩
/-- R641, RO. Live generation; 0 when UNPROG -/
def silRinfoLive (i : Nat) : Fld := ⟨0x40110800 + 4 * i, 0, 2⟩
/-- R641, RO. Shadow of the record (R619); protected records read 0 -/
def silRecData (i : Nat) : Fld := ⟨0x40111000 + 4 * i, 0, 32⟩
/-- R642, RO. Block identifier -/
def glnIdBlock : Fld := ⟨0x40120000, 16, 16⟩
/-- R642, RO. Block version -/
def glnIdVer : Fld := ⟨0x40120000, 0, 16⟩
/-- R642, W1C. A JOB-mode store was ignored -/
def glnStatPrivrej : Fld := ⟨0x40120004, 4, 1⟩
/-- R642, RO. Bit s: slot s at its erase threshold (R635) -/
def glnStatFlashw : Fld := ⟨0x40120004, 2, 2⟩
/-- R642, W1C. An instance needed a spare it no longer has -/
def glnStatWorn : Fld := ⟨0x40120004, 1, 1⟩
/-- R642, W1C. A substitution applied -/
def glnStatSub : Fld := ⟨0x40120004, 0, 1⟩
/-- R642, ST. Bit 0 segments, 1 lanes, 2 phases: wear is judged -/
def glnCtlEn : Fld := ⟨0x40120008, 0, 3⟩
/-- R642, ST. Frames above threshold, 1–255 -/
def glnSegcfgSegn : Fld := ⟨0x4012000C, 16, 8⟩
/-- R642, ST. Drift threshold × 1024, 1075–2047 -/
def glnSegcfgSegth : Fld := ⟨0x4012000C, 0, 12⟩
/-- R642, ST. Window 2^GWIN frames, 10–24 -/
def glnLanecfgGwin : Fld := ⟨0x40120010, 16, 5⟩
/-- R642, ST. Bank threshold, 1–255 -/
def glnLanecfgBth : Fld := ⟨0x40120010, 8, 8⟩
/-- R642, ST. Lane threshold, 1–255 -/
def glnLanecfgLth : Fld := ⟨0x40120010, 0, 8⟩
/-- R642, ST. Frames, 1–255 -/
def glnPhcfgPhn : Fld := ⟨0x40120014, 8, 8⟩
/-- R642, ST. Share tolerance in percentage points, 5–20 -/
def glnPhcfgPhth : Fld := ⟨0x40120014, 0, 5⟩
/-- R642, ST. Against network time, ppm -/
def glnXcfgXnth : Fld := ⟨0x40120018, 16, 16⟩
/-- R642, ST. Against the RC, ppm -/
def glnXcfgXrth : Fld := ⟨0x40120018, 0, 16⟩
/-- R642, ST. Mean erases per sector -/
def glnFthErases : Fld := ⟨0x4012001C, 0, 20⟩
/-- R642, ST. Lifetime sector erases of slot s before this start -/
def glnFbaseCount (i : Nat) : Fld := ⟨0x40120020 + 4 * i, 0, 32⟩
/-- R642, WO. Segment, lane or phase -/
def glnFrcElem : Fld := ⟨0x40120028, 12, 4⟩
/-- R642, WO. Channel index or bank -/
def glnFrcInst : Fld := ⟨0x40120028, 4, 8⟩
/-- R642, WO. Kind code (R637) -/
def glnFrcKind : Fld := ⟨0x40120028, 0, 4⟩
/-- R642, RO. Bit 0 C0 comparator, 1 C1 comparator, 2 phase: reserve 1 -/
def glnRes0One : Fld := ⟨0x4012002C, 16, 3⟩
/-- R642, RO. Granary lane reserve -/
def glnRes0Lanes : Fld := ⟨0x4012002C, 8, 8⟩
/-- R642, RO. Segment reserve -/
def glnRes0Segs : Fld := ⟨0x4012002C, 0, 8⟩
/-- R642, RO. Silo generation reserve (R634) -/
def glnRes1Silo : Fld := ⟨0x40120030, 0, 9⟩
/-- R642, RO. A substitution has been made -/
def glnLastsubValid : Fld := ⟨0x40120034, 16, 1⟩
/-- R642, RO. Element retired -/
def glnLastsubElem : Fld := ⟨0x40120034, 12, 4⟩
/-- R642, RO. Instance -/
def glnLastsubInst : Fld := ⟨0x40120034, 4, 8⟩
/-- R642, RO. Kind code -/
def glnLastsubKind : Fld := ⟨0x40120034, 0, 4⟩
/-- R642, RO. Latest crystal-against-RC deviation, signed, INT -/
def glnXrcPpm : Fld := ⟨0x40120038, 0, 32⟩
/-- R662, ST. Bit n: GPIOn is driven -/
def gpioGpdirOe : Fld := ⟨0x40080200, 0, 16⟩
/-- R662, ST. Bit n: level driven on GPIOn -/
def gpioGpoutOut : Fld := ⟨0x40080204, 0, 16⟩
/-- R662, RS. Bit n: level of GPIOn latched at E_k -/
def gpioGpinIn : Fld := ⟨0x40080208, 0, 16⟩
/-- R662, ST. Bit 16 + n: 50 kΩ pull-down on GPIOn -/
def gpioGppullPd : Fld := ⟨0x4008020C, 16, 16⟩
/-- R662, ST. Bit n: 50 kΩ pull-up on GPIOn -/
def gpioGppullPu : Fld := ⟨0x4008020C, 0, 16⟩

end F

end Sys2Proof.Machine
end

