-- ==== Sys2Proof/Machine/State.lean ====
section
/-!
DEFINITION. The state of the machine: every piece of state the spec gives it, as plain data, the faults and the
refusals, and the state after reset. A register field's home is `State.regs`, by address; everything that no register
shows has a field of its own here.
-/

namespace Sys2Proof.Machine

/-- Why the machine stops with a fault. Every fault is a use that the spec says the device does not check and whose
result it calls undefined (22_unchecked.md R685, R686). -/
inductive Fault where
  /-- An unchecked use: the rule that calls its result undefined. Raised by the operation that makes the use; safe: the
  hardware goes on in some way the spec does not give. -/
  | uncheckedUse (rule : Nat)
deriving DecidableEq, Repr

/-- Why the machine has no answer. -/
inductive Refusal where
  /-- A command whose meaning has not been written. Raised by the dispatcher only; safe. -/
  | notModelled (mnemonic : String)
deriving DecidableEq, Repr

/-- A staged write or a host transaction, held for an edge (R5, R33, R38 to R41). `late` says that a firmware store missed the
cut-off of the coming edge and waits for the one after it; a transaction has the FRAME of the edge at which it is scheduled,
says whether it writes the output image, and carries its TAG. -/
inductive Held where
  | fw (addr : Nat) (val : Word) (late : Bool)
  | txn (writes : List (Nat × Word)) (hasImage : Bool) (edge tag : Nat)
deriving DecidableEq, Repr

/-- Where a job of the table stands (R42 to R46): not released, waiting for its core's domain, ready on a core at a
priority, or running (its task runs or is preempted). -/
inductive JobRun where
  | idle
  | waking (core : Fin 2) (prio : Nat)
  | ready (core : Fin 2) (prio : Nat)
  | running
deriving DecidableEq, Repr

/-- The frame sequencer, the images and the dispatcher (01_frame.md). -/
structure Frm where
  /-- FRAME, the number of the current frame (R1, R21). -/
  frame : BitVec 48 := 0
  /-- COUNT at the edge that opened the current frame. -/
  edgeAt : Nat := 0
  /-- Corrected time just after that edge, in ns (R59, R519). -/
  edgeT : Int := 0
  /-- The current slot (R18). -/
  slot : Nat := 0
  /-- Staged writes and host transactions held, oldest first. -/
  held : List Held := []
  /-- Fields written in the output staging image since the last committing edge (R27): offset and word. -/
  staging : List (Nat × TWord) := []
  /-- The committed output view O_k (R30): offset and word, unlisted offsets NAT 0 (R63). The images hold
  whole words with their tags (R271). -/
  committed : List (Nat × TWord) := []
  /-- The input image I_k: offset and tagged word, unlisted offsets NAT 0. -/
  input : List (Nat × TWord) := []
  /-- COUNT at the last SEAL that counted (FRM.SLACK). -/
  sealAt : Nat := 0
  /-- FRAME[47:32] as captured by the last FRAMELO read of C0, C1, the host and the link (R64). -/
  hiCap : Vector (BitVec 16) 4 := Vector.replicate 4 0
  /-- The 64 jobs. -/
  jobs : Vector JobRun 64 := Vector.replicate 64 .idle
  /-- Jobs whose release of this frame has been judged. -/
  judged : BitVec 64 := 0
  /-- Pending bits of the 128 events on C0 and on C1 (R48). -/
  pend : Vector (BitVec 128) 2 := Vector.replicate 2 0
  /-- The last edge applied a staged write (FSTAT bit 5). -/
  applied : Bool := false
  /-- The last edge committed a sealed image (FSTAT bit 2). -/
  committing : Bool := false
  /-- The frame's edges are network-corrected (TIMING bit 25). -/
  synced : Bool := false
deriving DecidableEq, Repr

/-- The states of a channel or a half-bridge (R96). -/
inductive ChSt where
  | off | on | inr | wait | lock | shed
deriving DecidableEq, Repr

/-- What an output did in the frame. -/
structure OutFrame where
  /-- Slot samples in mA, latest first (R83); of a pair's member, of its own half. -/
  samples : List Int := []
  /-- An over-current, junction, any protection shut-off; a shut-off classed as a short to ground; inverse current; a
  reversal of the group (R82, R121, R128, R130, R133). -/
  oct : Bool := false
  tht : Bool := false
  trip : Bool := false
  scg : Bool := false
  inv : Bool := false
  rev : Bool := false
  /-- An off-state check completed (R127); a stall was detected (R139). -/
  chk : Bool := false
  stall : Bool := false
  /-- The output was a member of a formed pair or bridge in the frame, once the frame is reported (R71, R112). -/
  pair : Bool := false
deriving DecidableEq, Repr

/-- The load diagnostics of an output (03_wire_faults.md). -/
structure OutDiag where
  /-- Edges since, and including, the first edge at or after the moment at which the output last stopped conducting (R124); 0 until
  then. -/
  offEdges : Nat := 0
  /-- The output has been off since the edge that opened the frame. -/
  offAll : Bool := true
  /-- The other conditions of R124 held at that edge and since. -/
  chkOk : Bool := false
  /-- Phase-A sample of the check in progress, mV (R125). -/
  phaseA : Option Int := none
  /-- Result of the latest completed check (R126, R127). -/
  ol : Bool := false
  stb : Bool := false
  vpu : Nat := 0
  /-- Checks were enabled in the frame that closed, and R124 prevented one. -/
  pend : Bool := false
  /-- The output turned on: OL and STB read 0 from the next image on (R127). -/
  clrOl : Bool := false
  /-- Consecutive edges in state ON, with the latest one and before it; consecutive frames of low mean current; ONOL (R129). -/
  onRun : Nat := 0
  onWas : Nat := 0
  lowRun : Nat := 0
  onol : Bool := false
  /-- The DIAG words of the last image and of the one before it (R141). -/
  last : Nat := 0
  prev : Nat := 0
  /-- The segments are turned on by a reversed supply (R132). -/
  revOn : Bool := false
deriving DecidableEq, Repr

/-- What only a half-bridge has. -/
structure OutHb where
  /-- Effective mode and duty (R112, R117), and whether a reserved MODE is committed. -/
  mode : Nat := 0
  duty : Nat := 0
  cmdErr : Bool := false
  /-- COUNT at which the PWM carrier last restarted from 0 (R115). -/
  carrierAt : Nat := 0
  /-- What stood before the present mode, duty and carrier took effect: COUNT at that moment, the switch then commanded on (true
  the high side), and COUNT from which it conducted (R114, R115). -/
  sinceAt : Nat := 0
  sideWas : Option Bool := none
  readyWas : Nat := 0
  /-- Stall (R137, R138): consecutive slots at or above STTH, edges since the drive mode was committed, held stopped. -/
  stallRun : Nat := 0
  modeEdges : Nat := 0
  stopped : Bool := false
deriving DecidableEq, Repr

/-- The segments of a channel (R109 to R111, R631). -/
structure OutSeg where
  /-- The segment that the spare stands for. -/
  out : Option Nat := none
  /-- Consecutive measured frames for which each segment has been above the drift threshold. -/
  worn : Vector Nat 5 := Vector.replicate 5 0
  /-- A worn segment stays in use because the spare is used. -/
  wornOut : Bool := false
  /-- Drift and on-resistance of the frame. -/
  drift : Nat := 0
  ron : Nat := 0
deriving DecidableEq, Repr

/-- One protected output: high-side channel `o` for o 0 to 47 (R66), half-bridge `o - 48` for o 48 to 55. -/
structure Outp where
  st : ChSt := .off
  /-- RETRIES (R99, R101). -/
  retries : Nat := 0
  tlatch : Bool := false
  wire : Bool := false
  occnt : Nat := 0
  tshut : Word := 0
  /-- FRAME at the edge at which a channel in WAIT becomes due (R99). -/
  due : Nat := 0
  /-- COUNT at which the open inrush window opened, and has run its length (R76). -/
  window : Option (Nat × Nat) := none
  /-- Consecutive frames in ON or INR without a trip (R101). -/
  heal : Nat := 0
  /-- The wire model's T_c and T_b in 1/65536 °C (R88), and T_a of the frame in 1/16 °C (R92), which before the first edge is the
  reset value of SW.WAMB; the model starts at the edge whose staged writes apply (R93). -/
  tc : Int := 0
  tb : Int := 0
  ta : Int := 640
  modelStart : Bool := false
  /-- Priority at which the channel was shed (R106). -/
  shedPri : Nat := 0
  /-- Consecutive frames in which a pair was out of balance, and IMBAL (R74). -/
  imbalRun : Nat := 0
  imbal : Bool := false
  /-- DEFER and CMD of the last edge (R121). -/
  defer : Bool := false
  cmd : Bool := false
  /-- The frame that runs, and the frame that the image reports. -/
  fr : OutFrame := {}
  rep : OutFrame := {}
  dg : OutDiag := {}
  hb : OutHb := {}
  seg : OutSeg := {}
deriving DecidableEq, Repr

/-- One of the seven power dies (R106, R107). -/
structure Die where
  /-- Highest priority level shed, while any channel of the die is in SHED. -/
  shedLvl : Nat := 0
  /-- Slots since the last shedding step while the sensor stays hot. -/
  hotSlots : Nat := 0
  /-- A shedding episode runs: the next step is an escalation. -/
  hot : Bool := false
  /-- Highest reading of the frame, and whether one was 170 °C or more; the same of the frame that the image reports. -/
  tmax : Option Int := none
  ot : Bool := false
  tmaxRep : Option Int := none
  otRep : Bool := false
deriving DecidableEq, Repr

/-- The protected outputs (02_switch_channels.md, 03_wire_faults.md). -/
structure Sw where
  out : Vector Outp 56 := Vector.replicate 56 {}
  die : Vector Die 7 := Vector.replicate 7 {}
  /-- The sample stream runs in this frame (R87), has dropped samples in this frame (R86), and STRLAST. -/
  strOn : Bool := false
  strDrop : Bool := false
  strLast : Nat := 0
  /-- Slots of this frame whose samples have been written. -/
  strDone : Nat := 0
  /-- Slots of this frame that have been sampled. -/
  smpDone : Nat := 0
deriving DecidableEq, Repr

/-- Thread states (R159). -/
inductive TSt where
  | idle | waitg | peak | hold | rel | fault | stop
deriving DecidableEq, Repr

/-- What a thread waits for before its next instruction (R166). -/
inductive UWait where
  /-- The next instruction issues. -/
  | ready
  /-- Slot boundaries still to come (WAITS). -/
  | slots (n : Nat)
  /-- COUNT at which a WAITU ends. -/
  | until (t : Nat)
  /-- A sample at or above, or at or below, a level in mA; COUNT of the timeout, if there is one (WAITC). -/
  | cross (below : Bool) (level : Int) (timeout : Option Nat)
  /-- A ramp to a target in mA by a step per sample (RAMP). -/
  | ramp (goal step : Int)
  /-- HOLD, with its re-peak address. -/
  | hold (addr : Nat)
deriving DecidableEq, Repr

/-- The armature detector of a thread (R170, R171). -/
structure Det where
  /-- Armed: COUNT at which the window closes, and the dip threshold in mA. -/
  armed : Option (Nat × Int) := none
  /-- Running maximum M and the sample at which it was reached. -/
  m : Option (Int × Nat) := none
  /-- A qualified dip: its M, and the lowest sample L since with its index. -/
  dip : Option (Int × Int × Nat) := none
  arm : Bool := false
  narm : Bool := false
  tmove : Nat := 0
  tseat : Nat := 0
  dipma : Nat := 0
deriving DecidableEq, Repr

/-- Sums over the samples of the frame (R190): count, sum, sum of squares, largest and smallest. -/
structure Acc where
  n : Nat := 0
  sum : Int := 0
  sq : Nat := 0
  hi : Int := 0
  lo : Int := 0
deriving DecidableEq, Repr

/-- What a coil channel did in the frame. -/
structure CoilFrame where
  acc : Acc := {}
  holdx : Bool := false
  rpk : Bool := false
  armv : Bool := false
  nodip : Bool := false
  sig : Bool := false
  flt : Bool := false
  /-- OPEN, LSG and CLPT arose (R180, R150). -/
  opn : Bool := false
  lsg : Bool := false
  clpt : Bool := false
  /-- DELAY, whether a grant was made, and OVER (R176). -/
  delay : Nat := 0
  grant : Bool := false
  ovr : Bool := false
deriving DecidableEq, Repr

/-- Diagnostics of a coil channel that hold beyond a frame (R178, R190). -/
structure CoilDiag where
  oc : Bool := false
  ot : Bool := false
  bank : Bool := false
  ucode : Bool := false
  /-- Samples in a row with the low side on, a target of 200 mA or more and less than 50 mA; samples in a row with the land
  below 2.0 V, the low side off and the bank on (R180). -/
  openRun : Nat := 0
  lsgRun : Nat := 0
  /-- OPEN, LSG, CLPT or CLPLOW of the last image (R181). -/
  lastOpen : Bool := false
  lastLsg : Bool := false
  lastClpT : Bool := false
  lastClpLow : Bool := false
  /-- Fast decay acts as slow: by VBAT_C (R149), by the clamp's temperature (R150). -/
  clpLow : Bool := false
  clpT : Bool := false
  fpc : Nat := 0
  code : Nat := 0
  actcnt : Nat := 0
deriving DecidableEq, Repr

/-- One PL channel and its engine thread (04_press.md). -/
structure Coil where
  st : TSt := .stop
  pc : Nat := 0
  lc : Nat := 0
  /-- Target in mA. -/
  target : Int := 0
  /-- Decay mode 0 slow, 1 fast, 2 mixed, and FS. -/
  decay : Nat := 0
  fs : Nat := 1
  /-- T flag and hold-ended flag. -/
  t : Bool := false
  hend : Bool := false
  wait : UWait := .ready
  /-- Frames since the latest activation, and whether one is pending for END (R156). -/
  age : Nat := 0
  pendAct : Bool := false
  /-- A start or a re-peak asks the arbiter; the slot granted in this frame. -/
  request : Bool := false
  slot : Option Nat := none
  /-- Effective ON and TOKEN of the previous edge; RUN became 1 or a clear was accepted since (R154). -/
  lastOn : Bool := false
  lastTok : Nat := 0
  fresh : Bool := false
  /-- Low-side and freewheel switches, and samples of the present off phase. -/
  ls : Bool := false
  fw : Bool := false
  offN : Nat := 0
  /-- COUNT at the grant, from which samples are indexed (R170). -/
  grantAt : Nat := 0
  det : Det := {}
  fr : CoilFrame := {}
  /-- The frame that the image reports. -/
  last : CoilFrame := {}
  dg : CoilDiag := {}
deriving DecidableEq, Repr

/-- One bank (R173 to R177). -/
structure Bank where
  lock : Bool := false
  oc : Bool := false
  ot : Bool := false
  ovr : Bool := false
  stag : Bool := false
  /-- Reservations: peak in mA, first and last slot, counted from slot 0 of the current frame. -/
  resv : List (Nat × Int × Int) := []
  /-- Bits 2 to 5 of BSTATE for the frame that the image reports. -/
  rep : Nat := 0
  acc : Acc := {}
deriving DecidableEq, Repr

/-- One PX channel (R182 to R185). -/
structure Px where
  on : Bool := false
  lock : Bool := false
  oc : Bool := false
  ot : Bool := false
  onAll : Bool := false
  samples : List Int := []
  /-- Bits 3 to 5 of PXSTATE for the frame that the image reports. -/
  rep : Nat := 0
  lastOpen : Bool := false
deriving DecidableEq, Repr

/-- The Press (04_press.md); its microcode stores lie in `State.mem`. -/
structure Prs where
  coil : Vector Coil 12 := Vector.replicate 12 {}
  bank : Vector Bank 3 := Vector.replicate 3 {}
  px : Vector Px 4 := Vector.replicate 4 {}
  /-- Coil samples taken in this frame (R146). -/
  sampleJ : Nat := 0
  /-- A loader copy whose range fetches stall on until it completes: engine, first word, words (R164). -/
  loading : Option (Nat × Nat × Nat) := none
  /-- A loader copy completed at the last edge; a refusal to report at the next edge; the refusal reported
  at the last edge; with their engine. -/
  lddone : List Nat := []
  /-- A copy that waited for PRESS was stored in this frame, with its engine; words that wait: engine, word of its store, value. -/
  ldlate : List Nat := []
  copy : List (Nat × Nat × Word) := []
  lderr : Option Nat := none
  ldrep : Option Nat := none
deriving DecidableEq, Repr

/-- One LED sink (05_lighting.md). -/
structure Led where
  /-- R, and the fade: R0, G, F and j (R198). -/
  r : Nat := 0
  r0 : Nat := 0
  goal : Nat := 0
  len : Nat := 0
  j : Nat := 0
  /-- Effective LEVEL of the previous edge, and the level L (R201). -/
  lastLevel : Nat := 0
  lvl : Nat := 0
  /-- Consecutive measurements that met OPEN, HRLOW and SHORT (R209). -/
  nOpen : Nat := 0
  nHr : Nat := 0
  nShort : Nat := 0
  shoff : Bool := false
  ot : Bool := false
  /-- The junction shut the sink off in the frame. -/
  otF : Bool := false
  /-- Of the frame: measurements (µA, mV), the slot of the latest, the diagnostic pulse, cycles on up to a moment. -/
  meas : List (Int × Int) := []
  measSlot : Option Nat := none
  dpulse : Bool := false
  /-- Of the frame: its diagnostic pulse was given, and SHOFF latched. -/
  pulsed : Bool := false
  shF : Bool := false
  /-- OPEN, SHORT and HRLOW as they stood at the end of the frame (R209). -/
  status : Nat := 0
  onc : Nat := 0
  oncAt : Nat := 0
  /-- OPEN, SHORT, HRLOW and OT or SHOFF as the last image had them (R212). -/
  last : Nat := 0
deriving DecidableEq, Repr

/-- A debounced input (R219): raw state, debounced state, candidate, count, changed at the last edge, and whether the next
counted latch only sets the state (R220). -/
structure Deb where
  raw : Nat := 0
  d : Nat := 0
  p : Nat := 0
  c : Nat := 0
  chg : Bool := false
  first : Bool := true
deriving DecidableEq, Repr

/-- One switch input (R216 to R224). -/
structure SwIn where
  deb : Deb := {}
  /-- V_D of the last latch in mV, and LOWV (R217). -/
  vd : Nat := 0
  lowv : Bool := false
  /-- The watch comparator's reading, and the watch output, which is frozen around the wetting pulse (R221, R222). -/
  comp : Bool := false
  watch : Bool := false
  frozen : Bool := false
deriving DecidableEq, Repr

/-- One wake input (R225): its raw reading, the level of its land (above 4.0 V, or not yet below 2.0 V since), the land in mV. -/
structure WakeIn where
  deb : Deb := {}
  active : Bool := false
  high : Bool := false
  land : Int := 0
deriving DecidableEq, Repr

/-- One analog input (R226 to R229): the sample of the frame, and the results of the latest bias check. -/
structure AinIn where
  /-- MV, and CODE and VAL where they are not NIL. -/
  sample : Option (Int × Option Nat × Option Int) := none
  ovr : Bool := false
  rfail : Bool := false
  /-- The land's first sample of a check in progress, mV. -/
  revs : Bool := false
  zerr : Bool := false
  zb : Nat := 0
  chkd : Bool := false
  /-- RFAIL, REVS and ZERR as the last image had them (R234). -/
  lastFail : Bool := false
  lastRevs : Bool := false
  lastZerr : Bool := false
deriving DecidableEq, Repr

/-- One sensor supply (R230, R231). -/
structure VsIn where
  on : Bool := false
  oc : Bool := false
  ext : Bool := false
  /-- COUNT at turn-on, consecutive slots read below 4.5 V, in limit during the frame. -/
  onAt : Nat := 0
  low : Nat := 0
  lim : Bool := false
  mv : Int := 0
  ma : Int := 0
  /-- OC or EXT has risen since the last edge (R234). -/
  rose : Bool := false
  /-- EXT has risen since the last edge (R55). -/
  extF : Bool := false
deriving DecidableEq, Repr

/-- The input block (06_inputs.md). -/
structure Inp where
  sw : Vector SwIn 48 := Vector.replicate 48 {}
  wake : Vector WakeIn 2 := Vector.replicate 2 {}
  ain : Vector AinIn 24 := Vector.replicate 24 {}
  vs : Vector VsIn 4 := Vector.replicate 4 {}
  /-- INP was ON for the whole of the last two slots of the frame (R226). -/
  sampled : Bool := false
  /-- What the close of the frame found under its configuration and the edge then raises: the inputs whose D changed (R223), the groups
  that reached OPEN or SHORT, a fault of an analog input (R234). -/
  changed : Nat := 0
  reached : Nat := 0
  ainHit : Bool := false
deriving DecidableEq, Repr

/-- The Winnow (07_winnow.md); its sticky bits, classes and safe entries are registers. -/
structure Winnow where
  /-- The safe image is driven (R247). -/
  safe : Bool := false
  /-- The class F halt (R248, R264). -/
  fhalt : Bool := false
  /-- The committed view at the edge before the safe image was first driven in the present episode (R254). -/
  hold : List (Nat × TWord) := []
  /-- COUNT until which WARN_P is driven high (R246). -/
  warnEnd : Option Nat := none
  /-- The start-up checks have passed (R249, R262). -/
  startOk : Bool := true
  /-- The safe path failed its self-check: domains stay OFF and outputs are held off (R263). -/
  pathBad : Bool := false
deriving DecidableEq, Repr

/-- An entry of a core's context stack (R285). -/
structure Ctx where
  pc : Word
  flg : BitVec 5
  cnt : Word
  job : Bool
  prio : Nat
  task : Nat
  /-- The first instruction of the entry has not issued: its stamp is still to be taken (R344). -/
  due : Bool := false
deriving DecidableEq, Repr

/-- What a core waits for: a domain or a bank that an access of its next instruction woke (R409, R436), since when, and
whether the wake failed, so that the access completes without it. -/
structure Stall where
  dom : Nat
  since : Nat
  failed : Bool := false
  /-- The store buffer's oldest store waits, not the access itself (R406). -/
  drain : Bool := false
deriving DecidableEq, Repr

/-- Why a core does not execute: echo halt (R377), a double trap (R293), a halt for debug (R392), class F (R248); and one
instruction released from a debug halt. -/
structure Halts where
  echo : Bool := false
  trap : Bool := false
  dbg : Bool := false
  f : Bool := false
  stepping : Bool := false
deriving DecidableEq, Repr

/-- What the echo comparator of a core holds: its lane map, kept in AON (R382), and the counts of the frame and of the last
frame's lane test (R396). -/
structure EchoCore where
  spFor : Option Nat := none
  spFail : Bool := false
  /-- Lanes left uncompared, in the order in which they were removed. -/
  dead : List Nat := []
  /-- The instruction at the PC has mismatched once and awaits its replay (R376 to R378). -/
  miss : Bool := false
  mis : Nat := 0
  bpar : Nat := 0
  einst : Nat := 0
  sinst : Nat := 0
  tlane : Option Nat := none
  tfail : Bool := false
deriving DecidableEq, Repr

/-- A retired store that has not left its core (R298): the address, the word, and under WIDE the word after it, which leaves with it
(R339). -/
structure BufStore where
  a : Nat
  v : TWord
  v2 : Option TWord := none
deriving DecidableEq, Repr

/-- One Nolor core (08_nolor_core.md). -/
structure Core where
  /-- w0 to w31 (R280). -/
  w : Vector TWord 32 := Vector.replicate 32 TWord.nil0
  /-- The echo register file: the same words in rotated form (R373). -/
  ew : Vector (BitVec 36) 32 := Vector.replicate 32 0
  pc : Word := 0
  /-- FLG[4:0]: Z, N, C, V, T (R281); E follows the page of the current instruction. -/
  flg : BitVec 5 := 0
  cnt : Word := 0
  /-- The context stack, top first (R285). -/
  stack : List Ctx := []
  /-- MSTAT.TASK, PRIO and JOB (R282). -/
  task : Nat := 255
  prio : Nat := 0
  job : Bool := false
  /-- TVB.BASE << 9, TCAUSE and TVAL (R282). -/
  tvb : Word := 0x00017E00
  tcause : Nat := 0
  tval : Word := 0
  /-- The core executes instructions: a task or the boot code runs. -/
  busy : Bool := false
  /-- The boot sequence has started the core (R270). -/
  started : Bool := false
  /-- Retired stores that have not left the core, oldest first (R298). -/
  buf : List BufStore := []
  halt : Halts := {}
  stall : Option Stall := none
  /-- A store to the own near instruction store that no FENCE has followed (R304): its address. -/
  dirty : List Nat := []
  /-- A store to the custom region that no FENCE has followed (R354). -/
  dirtyCustom : Bool := false
  /-- The entry stamp: TIME payload and nanoseconds from the edge (R344). -/
  stampT : Word := 0
  stampNs : Nat := 0
  /-- The first instruction of an entry has not issued: the stamp is still to be taken. -/
  stampDue : Bool := false
  ech : EchoCore := {}
deriving DecidableEq, Repr

/-- State of a power domain (12_power.md). -/
inductive DomSt where
  | on | ret | off
deriving DecidableEq, Repr

/-- One power domain: its state, whether it wakes, a request of a core's domain that waits for the core to be idle
(R435), a demand held during a dip (R425), and the state to return to after a dip (R426). -/
structure Dom where
  st : DomSt := .off
  waking : Bool := false
  down : Option DomSt := none
  held : Bool := false
  before : DomSt := .off
deriving DecidableEq, Repr

/-- One supply group: its outputs in dip-off or over-voltage-off (R421, R422), its reversal (R132), its reverse latch
(R424), and what happened in the frame. -/
structure Grp where
  dipOff : Bool := false
  ovOff : Bool := false
  reversed : Bool := false
  /-- After a reversal the outputs wait for an edge at which the group reads 6 V or more (R132). -/
  revWait : Bool := false
  latch : Bool := false
  dipF : Bool := false
  ovF : Bool := false
  revF : Bool := false
deriving DecidableEq, Repr

/-- What the frame does (R425, R426, R439 to R443): it runs; a logic dip since a moment; an edge met the parking conditions at a
moment; parked since a moment; the resume edge is to come, with the moment at which the frame stopped, whether the cause was parking, and
COUNT at PLL lock once the PLL has locked. -/
inductive Pause where
  | run
  | dip (since : Nat)
  | parkWait (since : Nat)
  | parked (since : Nat)
  | resume (since : Int) (park : Bool) (pll : Option Nat)
deriving DecidableEq, Repr

/-- An access that a logic dip holds (R425): the command that made it, with its operands. -/
inductive DipAccess where
  | registerWrite (m : Master) (job : Bool) (a : Nat) (v : TWord)
  | sev (w : Word)
  | frameloRead (m : Master)
  | engineStart (e : Fin 6)
  | engineStop (e : Fin 6)
  | stickyClear (m : Fin 6) (w : Word) (job : Bool)
  | sourceForce (m : Fin 6) (w : Word) (job : Bool)
  | swset (w : Word)
  | classLock (job : Bool)
  | customRegionClose (m : Master) (job : Bool)
  | coreRestart (m : Master) (job : Bool) (w : Word)
  | ownerWrite (m : Master) (b : Fin 16) (w : Word)
  | bankStateWrite (b : Fin 16) (w : Word)
  | canRunStart (n : Fin 6)
  | canRunStop (n : Fin 6) (busy : Bool)
  | objcfgWrite (n : Fin 6) (o : Fin 256) (w : Word)
  | objectPortRead (m : Master) (n : Fin 6) (o : Fin 256)
  | objectPortWrite (m : Master) (n : Fin 6) (o : Fin 256) (w : Word)
  | lckrel (m : Master) (n : Fin 6)
  | qack (n : Fin 6)
  | recover (n : Fin 6)
  | linHeaderSend (m : Fin 4) (id : Fin 64)
  | linWakeSend (m : Fin 4)
  | nclr
  | tloRead (m : Master)
  | cntloRead (m : Master)
  | nrateloWrite (w : Word)
  | noffloWrite (w : Word)
  | almloWrite (w : Word)
  | urawAccess (w : Option Word) (back : Nat)
  | pepochWrite (w : Word) (job : Bool)
  | read (src : Option (Nat × Nat)) (b : List Nat)
  | write (src : Option (Nat × Nat)) (b : List Nat)
  | txn (src : Option (Nat × Nat)) (b : List Nat)
  | hreset (src : Option (Nat × Nat)) (b : List Nat)
  | hostNop (src : Option (Nat × Nat)) (b : List Nat)
  | spiShortFrame (b : List Nat)
  | commit
  | jdoneClear (w : Word) (job : Bool)
  | hctlStart (w : Word) (job : Bool)
  | recoverEntry (w : Word) (job : Bool)
  | recoveryErase (slot : Fin 4) (job : Bool)
  | rdataWrite (w : Word) (pages : Nat) (job : Bool)
  | recoveryVerify (slot : Fin 4) (job : Bool)
  | recoveryBoot (slot : Fin 4) (job : Bool)
  | drespCheck (w : Word) (job : Bool)
  | prog (mv : Int) (job : Bool)
  | arbstep (mv : Int) (job : Bool)
  | wear (mv : Int) (job : Bool)
  | frc (w : Word) (job : Bool)
  | spiIdleFrame (n : Nat)
  | hostBadRequest (src : Option (Nat × Nat)) (b : List Nat)
deriving DecidableEq, Repr

/-- The power block (12_power.md). -/
structure Pwr where
  dom : Vector Dom 32 := Vector.replicate 32 {}
  grp : Vector Grp 3 := Vector.replicate 3 {}
  pause : Pause := .run
  /-- The accesses that a logic dip holds, in the order in which they came (R425). -/
  stalled : List DipAccess := []
  /-- The last edge was a resume edge: after parking or after a dip, and the pause in µs. -/
  resumed : Option (Bool × Nat) := none
  /-- Frames for which each regulator phase has been out of share (R633), and retired phases. -/
  phaseOut : Vector Nat 5 := Vector.replicate 5 0
  phaseBad : BitVec 5 := 0
  /-- The crystal has stopped and clocks run from the internal RC (R655). -/
  onRc : Bool := false
  /-- The AON clock has stopped. -/
  aonStop : Bool := false
  /-- COUNT at which PWR.AONT.COUNT held its stored value (R448). -/
  aonAt : Nat := 0
deriving DecidableEq, Repr

/-- One bank of the Granary (11_granary.md); its state ON, RET or OFF is that of domain 16 + b. -/
structure GBank where
  /-- Accesses waiting, in the order in which they arrived. -/
  wait : List GAcc := []
  /-- The requester that each lane granted last (R401). -/
  last : Vector Nat 8 := Vector.replicate 8 8
  /-- A requested RET or OFF that waits until no access is waiting (R408). -/
  down : Option DomSt := none
  /-- COUNT at which the bank's wake began. -/
  wakeAt : Nat := 0
  /-- Next word that the scrubber reads (R411). -/
  scrub : Nat := 0
  /-- Words whose corrected value waits to be written back (R410). -/
  fix : List Nat := []
  /-- A copy into the spare: its lane, and whether it is complete and takes the lane at the next edge (R413, R414). -/
  copy : Option (Nat × Bool) := none
  /-- Of the frame (R417): a non-owner access, an uncorrectable error, corrected errors and the lane of the latest one, a
  failed wake. -/
  nown : Bool := false
  ue : Bool := false
  corr : Nat := 0
  corrLane : Nat := 0
  wakef : Bool := false
  /-- Corrected errors of each lane in the Gleaner's window (R632). -/
  rate : Vector Nat 9 := Vector.replicate 9 0
deriving DecidableEq, Repr

/-- The Granary: its banks, and the words last delivered to each requester, the second of a paired access (R399). -/
structure Grn where
  bank : Vector GBank 16 := Vector.replicate 16 {}
  got : Vector TWord 9 := Vector.replicate 9 TWord.nil0
  got2 : Vector TWord 9 := Vector.replicate 9 TWord.nil0
deriving DecidableEq, Repr

/-- One message object of a CAN controller (R455 to R458, R461): its content, NEW, LOST, its shadow (SHD), shadow-lost, and
whether it is pending for transmission (TXP). -/
structure CanObj where
  msg : Option CanMsg := none
  new : Bool := false
  lost : Bool := false
  shadow : Option CanMsg := none
  shLost : Bool := false
  pend : Bool := false
deriving DecidableEq, Repr

/-- A master's lock on an object (R456, R461): the object, the next word, W as taken at word 0, and for a write the words
supplied so far, latest first. -/
structure CanLock where
  obj : Nat
  pos : Nat
  size : Nat
  write : Bool
  words : List Word := []
deriving DecidableEq, Repr

/-- Where a controller stands (R451): stopped, integrating, taking part, or completing the frame in progress before it stops. -/
inductive CanRun where
  | stopped | integrating | on | stopping
deriving DecidableEq, Repr

/-- What a transmission comes from: an object, the network-management block, the permit (R488, R557). -/
inductive TxSrc where
  | obj (o : Nat) | nm | permit
deriving DecidableEq, Repr

/-- Counts and flags of the frame (R474). -/
structure CanFrameNote where
  rx : Nat := 0
  tx : Nat := 0
  lost : Nat := 0
  qdrop : Nat := 0
  qovf : Bool := false
  busOff : Bool := false
  valid : Bool := false
deriving DecidableEq, Repr

/-- One CAN controller (13_can_lin.md). -/
structure Can where
  run : CanRun := .stopped
  /-- Objects by number; unlisted ones are empty. -/
  objs : List (Nat × CanObj) := []
  /-- The locks of C0, C1, the host and the link. -/
  locks : Vector (Option CanLock) 4 := Vector.replicate 4 none
  queue : List CanMsg := []
  /-- Pending frames of the NM block and of the permit. -/
  nm : Option CanMsg := none
  permit : Option CanMsg := none
  /-- The transmission in progress, and whether newer content was committed since it started. -/
  tx : Option (TxSrc × CanMsg) := none
  newer : Bool := false
  /-- TEC, REC, ESTATE, whether the bus-off recovery counts, ACKERR, LONE, SWAP. -/
  tec : Nat := 0
  recv : Nat := 0
  estate : Nat := 0
  recovering : Bool := false
  ackerr : Nat := 0
  lone : Bool := false
  swap : Bool := false
  /-- SWK, WUFID, WUFMSK, WUFDM[0] and WUFDM[1] as the latest start took them (R8): what steers the wake receiver. -/
  wake : Vector Word 5 := #v[4, 0, 0x1FFFFFFF, 0, 0]
  fr : CanFrameNote := {}
deriving DecidableEq, Repr

/-- One LIN channel (13_can_lin.md); its buffers lie in the register words. -/
structure Lin where
  /-- The identifier of the frame in progress, while its response is awaited or sent; COUNT at which the latest header sent
  has ended. -/
  cur : Option Nat := none
  hdrEnd : Nat := 0
  /-- The identifier of the latest header sent, and the bytes that a published buffer held when its response began, once a store has
  changed them since (R480). -/
  hdrId : Nat := 0
  first : Option (List Nat) := none
  /-- BUSDOM, which also turns the transmitter off, and IDLE (R481). -/
  busDom : Bool := false
  idle : Bool := false
  /-- COUNT at which the wake pulse being driven ends. -/
  pulse : Option Nat := none
  /-- The bytes of the latest response sent, its checksum last. -/
  sent : List Nat := []
  /-- Of the frame (R483): responses stored and sent, errors, WAKERX, and identifiers stored. -/
  rx : Nat := 0
  tx : Nat := 0
  err : Nat := 0
  wakerx : Bool := false
  stored : BitVec 64 := 0
deriving DecidableEq, Repr

/-- What NM knows of a node (R490, R498). -/
structure NmNode where
  /-- Edges since the latest NM frame of the node; none if it has sent none. -/
  age : Option Nat := none
  req : Bool := false
  reason : Nat := 0
  wakes : Nat := 0
  keep : Nat := 0
deriving DecidableEq, Repr

/-- An NM frame received in the frame: node, REQ, WAKE, GTS, REASON, CD, COUNT when it became valid. -/
structure NmRx where
  node : Nat
  req : Bool
  wake : Bool
  gts : Bool
  reason : Nat
  cd : Nat
  at_ : Nat
deriving DecidableEq, Repr

/-- The network-management block (14_network_sleep.md). -/
structure Nm where
  /-- NM.CFG as the latest start took it (R8). -/
  cfg : Word := 0x280000
  /-- 0 OFF, 1 SLEEP, 2 REPEAT, 3 NORMAL, 4 READY, 5 PREPARE (R489). -/
  st : Nat := 0
  /-- Frames since entry to the state, and since the latest frame was called for. -/
  since : Nat := 0
  msgAge : Nat := 0
  lr : Bool := false
  reason : Nat := 0
  /-- FRAME of E_g, and edges since an E_g at which SLEEP was entered. -/
  eg : Option Nat := none
  /-- The false-wake count in frames, while it runs; quiet edges of the coordinator; frames without an NM frame. -/
  fwake : Option Nat := none
  quiet : Nat := 0
  silent : Nat := 0
  /-- Valid traffic in the frame, and the NM frames of the frame, oldest first. -/
  traffic : Bool := false
  rx : List NmRx := []
  /-- A frame is called for and has not been built; GTS of it. -/
  call : Bool := false
  callGts : Bool := false
  /-- Frames sent modulo 256 (SEQ), frames sent in this frame. -/
  seq : Nat := 0
  sent : Nat := 0
  keeper : Option Nat := none
  node : Vector NmNode 64 := Vector.replicate 64 {}
deriving DecidableEq, Repr

/-- A frame that waits at an egress port (R505): its bytes without the FCS, the port that it arrived on (2 the device itself),
COUNT at its ingress, and whether it is the ordinary clock's latest Delay_Req. -/
structure EthQ where
  bytes : List Nat
  inPort : Nat
  inAt : Nat
  delayReq : Bool := false
deriving DecidableEq, Repr

/-- One Ethernet port (R502 to R506): LINK, the role in use, its four queues, the frame that it sent last, and of the frame:
received, sent, link lost. -/
structure EthPort where
  link : Bool := false
  role : Bool := false
  q : Vector (List EthQ) 4 := Vector.replicate 4 []
  out : List Nat := []
  rx : Nat := 0
  tx : Nat := 0
  lost : Bool := false
deriving DecidableEq, Repr

/-- A packet that waits for the address of its next hop: the hop, the packet, the PCP of its class. -/
structure ArpWait where
  hop : Nat
  packet : List Nat
  pcp : Nat
deriving DecidableEq, Repr

/-- A datagram to the device: where it came from, its destination port, its payload. -/
structure Dgram where
  ip : Nat
  sport : Nat
  dport : Nat
  data : List Nat
deriving DecidableEq, Repr

/-- The switch and the endpoint (R502 to R506, R526, R527). -/
structure Eth where
  /-- MCAST, VLAN, UDP and PCAL as the latest start took them, where they differ from their reset values (R8). -/
  cfg : List (Nat × Word) := []
  port : Vector EthPort 2 := Vector.replicate 2 {}
  /-- Learned addresses: address, port, COUNT when it was last seen. -/
  macs : List (Nat × Nat × Nat) := []
  /-- Resolved addresses: IPv4 address and MAC address. -/
  arp : List (Nat × Nat) := []
  waiting : List ArpWait := []
  /-- Of the frame: drops at full queues, image-protocol datagrams accepted and sent. -/
  drop : Nat := 0
  hrx : Nat := 0
  htx : Nat := 0
deriving DecidableEq, Repr

/-- A residence of a two-step Sync (R513): egress port, sequenceId, sourcePortIdentity, the residence in 2^-16 ns, COUNT. -/
structure Residence where
  port : Nat
  seq : Nat
  src : Nat
  time : Int
  at_ : Nat
deriving DecidableEq, Repr

/-- A clock whose Announce messages are received (R512): its sourcePortIdentity, the dataset in the order of comparison,
grandmaster identity, stepsRemoved, the Announce interval as a power of 2, COUNT, and the port of arrival. -/
structure Foreign where
  src : Nat
  prio : List Nat
  steps : Nat
  log : Int
  at_ : Nat
  port : Nat
deriving DecidableEq, Repr

/-- A Sync of the parent (R514): sequenceId, origin time in ns, ingress time and corrections in 2^-16 ns. -/
structure SyncRx where
  seq : Nat
  t1 : Int
  t2 : Int
  corr : Int
deriving DecidableEq, Repr

/-- The ordinary clock (R512 to R518). -/
structure Ptp where
  foreign : List Foreign := []
  parent : Option Foreign := none
  /-- A two-step Sync that awaits its Follow_Up, and the latest Sync measured. -/
  held : Option SyncRx := none
  sync : Option SyncRx := none
  /-- COUNT of the latest Sync of the parent, and its interval as a power of 2. -/
  syncAt : Nat := 0
  syncLog : Int := 0
  /-- Sequence number of the latest Delay_Req, and its egress time in 2^-16 ns. -/
  reqSeq : Nat := 0
  t3 : Option Int := none
  /-- The latest 8 path delays in 2^-16 ns, latest first. -/
  delays : List Int := []
  residences : List Residence := []
deriving DecidableEq, Repr

/-- TIM (R508 to R523). -/
structure Tim where
  /-- 0 FREE, 1 ACQ, 2 LOCK, 3 HOLD (R516). -/
  st : Nat := 0
  /-- I of the servo in 2^-15 ppb, latest θ in 2^-16 ns, consecutive measurements within and beyond their thresholds. -/
  i : Int := 0
  theta : Int := 0
  good : Nat := 0
  bad : Nat := 0
  /-- Staged by the servo: OFFSET and RATE; staged by writes: NRATE, NOFF. -/
  newOff : Option Int := none
  newRate : Option Nat := none
  nrate : Bool := false
  noff : Bool := false
  /-- NRATEHI and NOFFHI as they stood at the latest write of the low word (R539). -/
  nrateHi : Word := 0
  noffHi : Word := 0
  /-- THI and CNTHI as captured for C0, C1, the host and the link. -/
  thi : Vector Word 4 := Vector.replicate 4 0
  cnthi : Vector Word 4 := Vector.replicate 4 0
  /-- The latest PPS_IN edge: T and COUNT; two edges 1 s ± 1 ms apart; a capture in the frame. -/
  pps : Option (Int × Nat) := none
  ppsGood : Bool := false
  ppsCap : Bool := false
  /-- COUNT at which the PPS_OUT pulse ends; the alarm's T, while it is armed. -/
  ppsEnd : Option Nat := none
  alarm : Option (BitVec 64) := none
  /-- A step was applied at the last edge. -/
  stepped : Bool := false
deriving DecidableEq, Repr

/-- The Baler (R528 to R534). -/
structure Bal where
  /-- DPORT as the latest start took it (R8). -/
  dport : Nat := 47102
  /-- Datagrams of the record that have not been handed to a port queue. -/
  frags : List (List Nat) := []
  /-- Record requests that wait: address, port, FRAME. -/
  reqs : List (Nat × Nat × Nat) := []
  /-- The next record's SEQ. -/
  next : Nat := 0
  /-- Of the frame: requests served, DROP, TRUNC, RINGERR, the record built with its length and SEQ. -/
  served : Nat := 0
  drop : Bool := false
  trunc : Bool := false
  ringErr : Bool := false
  len : Nat := 0
  built : Bool := false
deriving DecidableEq, Repr

/-- A token that the exchange deals with: its identity, its slot, the field readings of the aerials, its delay beyond RDLY in
ns, RT and RCHAL (R549, R551). -/
structure TokReply where
  tid : Nat := 0
  slot : Nat := 0
  rssi : List Nat := []
  delay : Int := 0
  rt : List Nat := []
  rchal : List Nat := []
deriving DecidableEq, Repr

/-- A result of the log with its token (R562, R563): the search within its sequence. -/
structure TokResult where
  tok : TokReply := {}
  res : Nat := 0
  search : Nat := 0
deriving DecidableEq, Repr

/-- The search sequence in progress (R543 to R555). -/
structure AccSearch where
  /-- 0 idle, 1 LF telegram, 2 reply window, 3 authentication (R563). -/
  phase : Nat := 0
  /-- The search within the sequence, and whether a retry starts after the next edge. -/
  tries : Nat := 0
  retry : Bool := false
  seed : Nat := 0
  chal : List Nat := []
  /-- COUNT at the start, whether the end of the wake carrier has been judged, the aerials driven; t_ref. -/
  startAt : Nat := 0
  woke : Bool := false
  lfen : Nat := 0
  tref : Nat := 0
  /-- A pending retry starts after the edge that just came (R543). -/
  due : Bool := false
  /-- Slots that hold a UIRQ, and slots that hold a collision. -/
  seen : Nat := 0
  coll : Nat := 0
  /-- Replies that arrived outside RWIN and whose slot has not ended: one that stays alone there fails the relay check (R551). -/
  far : List TokReply := []
  /-- Tokens that passed the relay check, in ascending slot order: the head is being authenticated, under this key from this
  COUNT on. -/
  cand : List TokReply := []
  key : List Nat := []
  authAt : Nat := 0
  /-- The last token that this search logged. -/
  latest : Option TokResult := none
  /-- A token that passed every check but PERMIT.ALLOW, and its LEVEL. -/
  grant : Option (TokReply × Nat) := none
deriving DecidableEq, Repr

/-- A permit (R556, R557): the granted token, its LEVEL, COUNT at its end and at its next frame. -/
structure Permit where
  tid : Nat
  level : Nat
  endAt : Nat
  next : Nat
deriving DecidableEq, Repr

/-- The access block (16_access.md); its token table, counters and log are registers. -/
structure AccBlk where
  srch : AccSearch := {}
  /-- OPEN and SHORT of the aerials, and those driven in the frame. -/
  opn : Nat := 0
  short : Nat := 0
  driven : Nat := 0
  /-- The result of the latest completed sequence; the latest accepted button. -/
  last : TokResult := {}
  btn : Nat := 0
  /-- The release: half-bridge, mode, FRAME of the edge at which it ends. -/
  rel : Option (Nat × Nat × Nat) := none
  permit : Option Permit := none
  /-- The next permit sequence value, that of the latest frame built, and whether the sequence is used up. -/
  seq : Nat := 0
  built : Nat := 0
  spent : Bool := false
  /-- Per entry, a packet that waits for its successor (R561): CNT, BTN, COUNT. -/
  pend : Vector (Option (Nat × Nat × Nat)) 32 := Vector.replicate 32 none
  /-- The bytes that the engine shifted out last: a packet with its prefix and its length byte, or the read prefix (R548). -/
  sent : List Nat := []
  /-- The LF telegram of the latest search, from its preamble to its CRC (R545). -/
  lf : List Nat := []
  /-- Of the frame: a grant, a button, a search stopped by the safe image. -/
  grantF : Bool := false
  btnF : Bool := false
  stopF : Bool := false
deriving DecidableEq, Repr

/-- The host port (17_host.md). -/
structure Hst where
  /-- The effective feature set, FEAT0 in bits 31 to 0 and FEAT1 in bits 63 to 32 (R577, R578). -/
  eff : BitVec 64 := 0x00007FFF07FFFFFF
  /-- The pending SPI response, and the response that the device gave last on either transport. -/
  resp : Option (List Nat) := none
  said : List Nat := []
  /-- FRAME of the edge for which a commit is staged; a host reset applies at the next edge. -/
  commit : Option Nat := none
  reset : Bool := false
  /-- TAG of the latest transaction applied at an edge, with FRAME's edge still current. -/
  tag : Option Nat := none
  /-- A transaction, a host reset applied at the last edge. -/
  applied : Bool := false
  hrst : Bool := false
  /-- Requests of the frame: accepted by SPI and by UDP, refused or discarded. -/
  rxSpi : Nat := 0
  rxUdp : Nat := 0
  rej : Nat := 0
deriving DecidableEq, Repr

/-- A crypto job (R586, R587): its descriptor, the slot of its KEY handle, whether its tags and fields fit, its place in the
order of submission, and its status once it has run. -/
structure CJob where
  op : Nat := 0
  flags : Nat := 0
  src : Nat := 0
  dst : Nat := 0
  len : Nat := 0
  aux : Nat := 0
  arg : Nat := 0
  slot : Nat := 0
  fits : Bool := true
  order : Nat := 0
  ran : Option Nat := none
deriving DecidableEq, Repr

/-- A core held by an HLOAD (R608, R609): whether its HLOAD is complete, and the slot, the entry, VERSION and ARB that a START
takes, with the header of the image. -/
structure CoreHold where
  done : Bool := false
  slot : Nat := 0
  entry : Nat := 0
  header : List Nat := []
deriving DecidableEq, Repr

/-- Security, boot and update (18_security_update.md). -/
structure Sec where
  /-- The keys of the 32 slots; their attributes are registers. -/
  keys : Vector (List Nat) 32 := Vector.replicate 32 []
  /-- The job queue by entry; the next place in the order of submission. -/
  job : Vector (Option CJob) 16 := Vector.replicate 16 none
  order : Nat := 0
  trngf : Bool := false
  /-- Bytes of the flash by offset; unlisted ones read 0xFF. -/
  flash : List (Nat × Nat) := []
  /-- C0 runs the ROM and has not booted; recovery runs. -/
  rom : Bool := true
  rcvr : Bool := false
  /-- The recovery buffer, oldest word first, each with its slot offset; the slot that VERIFY has passed. -/
  buf : List (Nat × Word) := []
  verified : Option Nat := none
  hold : Vector (Option CoreHold) 2 := Vector.replicate 2 none
  /-- The header of the running image. -/
  header : List Nat := []
  /-- Unlock failures since power-on reset. -/
  fails : Nat := 0
  /-- The challenge, DCHAL[0] to DCHAL[3] (R13, R614). -/
  dchal : Vector Word 4 := Vector.replicate 4 0
deriving DecidableEq, Repr

/-- One generation of a Silo record (R617, R618): the marker cells, the data cells, and whether all 72 code cells are 1. -/
structure SilGen where
  start : Bool := false
  done : Bool := false
  data : Nat := 0
  ones : Bool := false
deriving DecidableEq, Repr

/-- A Silo operation that runs (R625): PROG of a record with its data, ARBSTEP, WEAR with the map it records. -/
inductive SilOp where
  | prog (r data : Nat)
  | arbstep
  | wear (map : List Nat)
deriving DecidableEq, Repr

/-- The Silo (R617 to R629). -/
structure Sil where
  /-- Generations by 4 × record + generation; unlisted ones are blank. -/
  gens : List (Nat × SilGen) := []
  /-- The shadow by record; unlisted ones hold 0. -/
  shadow : List (Nat × Nat) := []
  op : Option SilOp := none
  /-- An operation completed in the frame. -/
  done : Bool := false
deriving DecidableEq, Repr

/-- The Gleaner (R630 to R639): elements to be treated as worn at the next edge (kind, instance, element), and whether a
substitution applied at the last edge. -/
structure Gln where
  forced : List (Nat × Nat × Nat) := []
  sub : Bool := false
deriving DecidableEq, Repr

/-- The state of the machine. -/
structure State where
  /-- Register words that differ from their reset value, by address (R4, R9, R13). -/
  regs : List (Nat × Word) := []
  /-- Words of the near stores, the Granary, the Press microcode stores and the custom region, by word number; unlisted
  words read NIL 0. -/
  mem : List (Nat × TWord) := []
  /-- COUNT, the free-running counter of 600 MHz (R507). -/
  count : Nat := 0
  /-- The latest readings of the sensors and lands. -/
  pins : List (Sensor × Int) := []
  frm : Frm := {}
  sw : Sw := {}
  win : Winnow := {}
  inp : Inp := {}
  prs : Prs := {}
  led : Vector Led 24 := Vector.replicate 24 {}
  grn : Grn := {}
  pwr : Pwr := {}
  can : Vector Can 6 := Vector.replicate 6 {}
  lin : Vector Lin 4 := Vector.replicate 4 {}
  nm : Nm := {}
  eth : Eth := {}
  ptp : Ptp := {}
  tim : Tim := {}
  bal : Bal := {}
  acc : AccBlk := {}
  hst : Hst := {}
  sec : Sec := {}
  sil : Sil := {}
  gln : Gln := {}
  /-- The word that the latest bus command of a master delivered to it: C0, C1, the host, the link. -/
  got : Vector TWord 4 := Vector.replicate 4 TWord.nil0
  /-- The model's own observer: the ACK that the link answered last (R387): 1 OK, 2 WAIT, 4 FAULT. -/
  ack : Nat := 0
  core : Vector Core 2 := Vector.replicate 2 {}
  /-- The model's own: how many free values have been drawn. -/
  free : Nat := 0
  /-- The model's own: the commands that wait, first in first out. -/
  pending : List Instr := []
deriving DecidableEq, Repr

/-- The domains right after power-on reset (R433, R448): AON and the Granary banks ON, every other one OFF. -/
def Dom.afterReset : Vector Dom 32 :=
  let on : Dom := { st := .on }
  ((Vector.replicate 16 ({} : Dom) ++ Vector.replicate 16 on : Vector Dom (16 + 16)).set 0 on)

/-- The machine right after power-on reset (R13, R270, R428): the start-up checks have passed, C0 starts in ROM in SUP mode at
address 0 as soon as BOOT wakes its domain, and C1 waits. PWR.RCAUSE names the power-up; the debug lock is open, as an unprogrammed Silo gives it. SEC.DCHAL, whose reset value is random, holds four free values. -/
def State.reset : State where
  regs := [(0x40080008, 1), (0x40130004, 0)]
  core := (Vector.replicate 2 ({} : Core)).set 0 { busy := true, started := true }
  pwr := { dom := Dom.afterReset }
  sec := { dchal := #v[Config.freeWord 0, Config.freeWord 1, Config.freeWord 2, Config.freeWord 3] }
  free := 4

end Sys2Proof.Machine
end

