-- ==== Sys2Proof/Machine/Ops.lean ====
section
/-!
DEFINITION. The named operations over registers, images, memory, time and free values that every block uses.
-/

namespace Sys2Proof.Machine

/-- The outcome of a command. -/
abbrev Out := Host.Outcome State Fault Refusal

/-- The registers of CAN2 to CAN5, which have no SWK, WUFID, WUFMSK and WUFDM (R475). -/
def Regs.canPlainRows : List RegRow := Regs.canRows.filter (fun r => decide (r.off < 0x34) || decide (0x48 ≤ r.off))

/-- The rows of the block that an address lies in, and the offset in that block (R308). -/
def Regs.locate (a : Nat) : List RegRow × Nat :=
  let o := a % 0x10000
  match a / 0x10000 with
  | 0x4000 => (Regs.frmRows, o)
  | 0x4001 => (Regs.swRows, o)
  | 0x4002 => (Regs.prsRows, o)
  | 0x4003 => (Regs.ledRows, o)
  | 0x4004 => (Regs.inpRows, o)
  | 0x4005 => (Regs.winRows, o)
  | 0x4006 => (Regs.echRows, o)
  | 0x4007 => (Regs.grnRows, o)
  | 0x4008 => (Regs.pwrRows ++ Regs.gpioRows, o)
  | 0x4009 => if o < 0x4000 then (Regs.canRows, o % 0x2000) else if o < 0xC000 then (Regs.canPlainRows, o % 0x2000) else ([], o)
  | 0x400A => (Regs.nmRows, o)
  | 0x400B => (Regs.ethRows, o)
  | 0x400C => (Regs.timRows, o)
  | 0x400D => (Regs.balRows, o)
  | 0x400E => (Regs.accRows, o)
  | 0x400F => (Regs.hstRows, o)
  | 0x4010 => (Regs.secRows, o)
  | 0x4011 => (Regs.silRows, o)
  | 0x4012 => (Regs.glnRows, o)
  | 0x4013 => (Regs.dbgRows, o)
  | 0x4014 => if o < 0x4000 then (Regs.linRows, o % 0x1000) else ([], o)
  | _ => ([], o)

/-- Whether an offset is a register of the row. -/
def RegRow.holds (r : RegRow) (o : Nat) : Bool :=
  decide (r.off ≤ o) && decide (o < r.off + r.stride * r.count) && decide ((o - r.off) % r.stride = 0)

/-- The row of a register by its address; none where no register is defined (R9). -/
def Regs.row? (a : Nat) : Option RegRow := (Regs.locate a).1.find? (fun r => r.holds (Regs.locate a).2)

/-- The word that a register's fields spell at reset. -/
def RegRow.resetWord (r : RegRow) : Nat := r.fields.foldl (fun n f => n + f.reset * 2 ^ f.lo) 0

/-- The default classes of the source table (R243), as the words of WIN.CLASS. -/
def defaultClass : List Nat :=
  [0x980A270A, 0x55551618, 0x5555256D, 0x55555555, 0x55555555, 0x55555555, 0x55555555, 0x55555555, 0x55555555,
   0x55555555, 0x19D74555, 0x00000094]

/-- The parts' feature words FEAT[0] to FEAT[3] (R577). -/
def featReset : List Nat := [0x07FFFFFF, 0x00007FFF, 0, 0]

/-- Reset values that differ between the entries of an array (R13): limits and windows of standard channels, the custom
curve, the class table, the domain requests, the port roles, the feature words and the device key slots. -/
def Regs.resetAt (a : Nat) : Option Nat :=
  if 0x40010120 ≤ a ∧ a < 0x400101C0 then some 9000
  else if 0x40010220 ≤ a ∧ a < 0x400102C0 then some (7 * 2 ^ 28 + 12000)
  else if 0x40031000 ≤ a ∧ a < 0x40031800 then
    let j := (a - 0x40031000) / 4
    some ((if j = 511 then 65535 else 64 * (2 * j + 1)) * 65536 + 128 * j)
  else if 0x40050060 ≤ a ∧ a < 0x40050090 then some (defaultClass.getD ((a - 0x40050060) / 4) 0)
  else if a = 0x40080100 then some 0
  else if 0x40080140 ≤ a ∧ a < 0x40080180 then some 0
  else if a = 0x400B0044 then some 3
  else if 0x400F0020 ≤ a ∧ a < 0x400F0040 then some (featReset.getD ((a / 4) % 4) 0)
  else if 0x401000F0 ≤ a ∧ a < 0x40100100 then some 0x80
  else none

/-- What a register reads at reset; 0 where no register is defined (R9, R13). -/
def Regs.reset (a : Nat) : Word :=
  BitVec.ofNat 32 (match Regs.resetAt a with
    | some v => v
    | none => match Regs.row? a with
      | some r => r.resetWord
      | none => 0)

/-- The stored word of a register. -/
def State.reg (s : State) (a : Nat) : Word := AMap.get Regs.reset s.regs a

/-- A register's stored word changed. -/
def State.setReg (s : State) (a : Nat) (w : Word) : State := { s with regs := AMap.put Regs.reset s.regs a w }

/-- A register field's value. -/
def State.fld (s : State) (f : Fld) : Nat := getBits (s.reg f.addr) f.lo f.width

/-- A one-bit field's value. -/
def State.bit (s : State) (f : Fld) : Bool := s.fld f != 0

/-- A signed field's value (R15). -/
def State.sfld (s : State) (f : Fld) : Int := signedN (s.fld f) f.width

/-- A register field changed. -/
def State.setFld (s : State) (f : Fld) (v : Nat) : State := s.setReg f.addr (setBits (s.reg f.addr) f.lo f.width v)

/-- A one-bit field set. -/
def State.setBit (s : State) (f : Fld) : State := s.setFld f 1

/-- A one-bit field given a value. -/
def State.putBit (s : State) (f : Fld) (b : Bool) : State := s.setFld f (b2n b)

/-- A counter field raised by one, stopping at its largest value. -/
def State.satInc (s : State) (f : Fld) : State := s.setFld f (incTo (2 ^ f.width - 1) (s.fld f))

/-- The value a field takes from a stored word: its bits, clamped where the field's table states a range. -/
def FldSpec.take (f : FldSpec) (w : Word) : Nat :=
  let v := getBits w f.lo (f.hi + 1 - f.lo)
  match f.clamp with
  | some (lo, hi) => clampN lo hi v
  | none => v

/-- A register's word with the fields that `p` selects taken from a stored word. -/
def RegRow.merge (r : RegRow) (p : FldSpec → Bool) (take : FldSpec → Word → Nat) (old w : Word) : Word :=
  r.fields.foldl (fun x f => if p f then setBits x f.lo (f.hi + 1 - f.lo) (take f w) else x) old

/-- The staged fields of a register take a held word, clamped to their ranges (R4, R122). -/
def State.applyPlain (s : State) (a : Nat) (w : Word) : State :=
  match Regs.row? a with
  | some r => s.setReg a (r.merge (fun f => f.acc == .st) FldSpec.take (s.reg a) w)
  | none => s

/-- A value the spec leaves open, and the state with its counter advanced. -/
def State.fresh (s : State) : Word × State := (Config.freeWord s.free, { s with free := s.free + 1 })

/-- An exact quantity `num / den` at a fixed resolution of one unit; where the spec names the resolution and no rounding,
the step below or the one above (Config.roundsUp). -/
def quant (num : Int) (den : Nat) : Int :=
  if num % (den : Int) = 0 then num / (den : Int)
  else num / (den : Int) + (if Config.roundsUp num den then 1 else 0)

/-- The nearest integer to `num / den`, ties away from zero. -/
def roundAway (num : Int) (den : Nat) : Int :=
  if 0 ≤ num then (2 * num + den) / (2 * (den : Int)) else -((2 * -num + den) / (2 * (den : Int)))

/-- The nearest integer to `num / den`; on a tie, which the spec leaves open, either neighbour (Config.roundsUp). -/
def roundOpen (num : Int) (den : Nat) : Int :=
  if (2 * num) % (2 * (den : Int)) = (den : Int) then num / (den : Int) + (if Config.roundsUp num den then 1 else 0)
  else (2 * num + den) / (2 * (den : Int))

/-- The largest integer whose square is at most `x`, found bit by bit from `2 ^ k` down. -/
def isqrtFrom (x : Nat) : Nat → Nat → Nat
  | 0, r => if (r + 1) * (r + 1) ≤ x then r + 1 else r
  | k + 1, r => isqrtFrom x k (if (r + 2 ^ (k + 1)) * (r + 2 ^ (k + 1)) ≤ x then r + 2 ^ (k + 1) else r)

/-- The integer square root of a number below 2^80. -/
def isqrt (x : Nat) : Nat := isqrtFrom x 40 0

/-- The latest reading of a sensor or a land. -/
def State.pin (s : State) (x : Sensor) : Int :=
  match s.pins.find? (fun p => p.1 = x) with
  | some p => p.2
  | none => x.initial

/-- A reading taken. -/
def State.setPin (s : State) (x : Sensor) (v : Int) : State :=
  { s with pins := (s.pins.filter (fun p => p.1 ≠ x)) ++ [(x, v)] }

/-- The readings that a command carries, taken. -/
def State.observe (s : State) (w : World) : State := w.foldl (fun s p => s.setPin p.1 p.2) s

/-- What an unlisted word of memory reads as: NIL 0. -/
def memDefault (_ : Nat) : TWord := TWord.nil0

/-- The tagged word at a byte address (a multiple of 4) of a store. -/
def State.mread (s : State) (a : Nat) : TWord := AMap.get memDefault s.mem (a / 4)

/-- A tagged word stored at a byte address. -/
def State.mwrite (s : State) (a : Nat) (w : TWord) : State := { s with mem := AMap.put memDefault s.mem (a / 4) w }

/-- Every word of a range of stores lost: it reads NIL 0 again, with correct check bits (R408). -/
def State.mclear (s : State) (lo hi : Nat) : State :=
  { s with
    mem := s.mem.filter (fun p => decide (p.1 * 4 < lo) || decide (hi ≤ p.1 * 4))
    pins := s.pins.filter (fun p => match p.1 with
      | .ecc a => decide (a < lo) || decide (hi ≤ a)
      | _ => true) }

/-! ### Time -/

/-- Ticks of COUNT in a microsecond (R507). -/
def ticksPerUs : Nat := 600

/-- T_F in µs (R17). -/
def State.tfUs (s : State) : Nat := s.fld F.frmCfgTfUs

/-- The programmed slot count S (R17). -/
def State.slots (s : State) : Nat := if s.fld F.frmCfgSlots = 0 then 64 else if s.fld F.frmCfgSlots = 1 then 128 else 256

/-- The effective slot count S_eff (R18). -/
def State.seff (s : State) : Nat := if s.slots * 2 ≤ s.tfUs then s.slots else s.tfUs / 2

/-- Cycles of 150 MHz from the edge to the start of slot `k` (R18). -/
def State.slotCycles (s : State) (k : Nat) : Nat :=
  if s.slots * 2 ≤ s.tfUs then k * (150 * s.tfUs) / s.slots else 300 * k

/-- Cycles of the slot `k`; the last slot runs to the next edge (R18). -/
def State.slotLen (s : State) (k : Nat) : Nat :=
  (if k + 1 < s.seff then s.slotCycles (k + 1) else 150 * s.tfUs) - s.slotCycles k

/-- RATE in use, in 2^-40 ns per count, and OFFSET in use, in ns (R509). -/
def State.rate (s : State) : Nat := s.fld F.timRateloRate + 2 ^ 32 * s.fld F.timRatehiRate
def State.offset (s : State) : Int := signedN (s.fld F.timOffloOff + 2 ^ 32 * s.fld F.timOffhiOff) 64

/-- Corrected time at a moment given in ticks since reset: COUNT is a 64-bit counter (R508, R509). -/
def State.timeAt (s : State) (c : Nat) : Int := ((c % 2 ^ 64 * s.rate / 2 ^ 40 : Nat) : Int) + s.offset

/-- Corrected time now. -/
def State.timeNow (s : State) : Int := s.timeAt s.count

/-- The first moment, in the present run of the 64-bit COUNT, at which corrected time has reached `t` (R508, R509). -/
def State.countFor (s : State) (t : Int) : Nat :=
  let n := ((t - s.offset) * 2 ^ 40).toNat
  s.count / 2 ^ 64 * 2 ^ 64 + (n + s.rate - 1) / s.rate

/-- Edges follow corrected time (R20). -/
def State.netTime (s : State) : Bool := s.fld F.frmCfgSrc == 1

/-- The corrected time at which the edge that closes the current frame falls (R519): the smallest multiple of T_F at least T_F
above the time at the edge that opened it. -/
def State.edgeTarget (s : State) : Int :=
  let p : Int := 1000 * s.tfUs
  (s.frm.edgeT + 2 * p - 1) / p * p

/-- COUNT at a number of 150 MHz cycles before the edge that closes the current frame (R18, R519, R520). -/
def State.beforeEdge (s : State) (cycles : Nat) : Nat :=
  if s.netTime then s.countFor (s.edgeTarget - (20 * cycles : Nat) / 3) else s.frm.edgeAt + 4 * (150 * s.tfUs - cycles)

/-- COUNT at the edge that closes the current frame (R18, R519). -/
def State.nextEdge (s : State) : Nat := s.beforeEdge 0

/-- The edge `n` edges after the one that opened the current frame, in COUNT, as T_F and corrected time place it now (R18, R20, R519). -/
def State.edgeIn (s : State) (n : Nat) : Nat :=
  if n = 0 then s.frm.edgeAt
  else if s.netTime then s.countFor (s.edgeTarget + ((n : Int) - 1) * (1000 * s.tfUs : Nat))
  else s.frm.edgeAt + n * (ticksPerUs * s.tfUs)

/-- How many edges after the current one the first edge at or after a moment in COUNT lies (R20, R519). -/
def State.edgesTo (s : State) (t : Nat) : Nat :=
  if t ≤ s.frm.edgeAt then 0
  else if s.netTime then 1 + ((s.timeAt (t - 1) - s.edgeTarget) / ((max 1 (1000 * s.tfUs) : Nat) : Int) + 1).toNat
  else (t - s.frm.edgeAt + ticksPerUs * s.tfUs - 1) / max 1 (ticksPerUs * s.tfUs)

/-- COUNT at the start of slot `k` of the current frame (R18); on corrected time, slots but the first are placed from the edge
that closes the frame (R520). -/
def State.slotAt (s : State) (k : Nat) : Nat :=
  if k = 0 then s.frm.edgeAt else s.beforeEdge (150 * s.tfUs - s.slotCycles k)

/-- COUNT moved forward to a moment, if it is not past it. -/
def State.advance (s : State) (t : Nat) : State := { s with count := max s.count t }

/-- The resume edge that comes 60 µs after PLL lock, or on corrected time the first multiple of T_F from there on (R439, R522), in COUNT. -/
def State.resumeAt (s : State) (lock : Nat) : Nat :=
  let e := lock + 60 * ticksPerUs
  let p : Int := 1000 * s.tfUs
  if s.netTime then max e (s.countFor ((s.timeAt e + p - 1) / p * p)) else e

/-- The moment in COUNT lies at or after `t` µs before the coming edge: the one that closes the current frame, or the resume edge once
the PLL has locked (R439). Where the frame stands still the coming edge is that far away. -/
def State.past (s : State) (t : Nat) : Bool :=
  match s.pwr.pause with
  | .run => decide (s.beforeEdge (150 * t) ≤ s.count)
  | .resume _ _ (some lock) => decide (s.resumeAt lock ≤ s.count + t * ticksPerUs)
  | _ => false

/-- The writes of a held item. -/
def Held.writes : Held → List (Nat × Word)
  | .fw a w _ => [(a, w)]
  | .txn l _ _ _ => l

/-- A register's word as last written: the last write that is held for an edge, else the word in use. -/
def State.lastWritten (s : State) (a : Nat) : Word :=
  match ((s.frm.held.flatMap Held.writes).filter (fun p => p.1 == a)).getLast? with
  | some p => p.2
  | none => s.reg a

/-- Writes that are about to be held: one of NRATELO or NOFFLO stages the pair with the high word as last written (R539). -/
def State.noteHigh (s : State) (l : List (Nat × Word)) : State :=
  let high := fun (a i : Nat) => (((l.take i).filter (fun p => p.1 == a)).getLast?.map (·.2)).getD (s.lastWritten a)
  l.zipIdx.foldl (fun t x =>
    if x.1.1 = F.timNrateloRate.addr then { t with tim := { t.tim with nrateHi := high F.timNratehiRate.addr x.2 } }
    else if x.1.1 = F.timNoffloOff.addr then { t with tim := { t.tim with noffHi := high F.timNoffhiOff.addr x.2 } }
    else t) s

/-- A firmware store to a staged field is held (R5, R38): of the stores to one register that are held for one edge, the last. -/
def State.holdFw (s : State) (a : Nat) (w : Word) : State :=
  let late := s.past 2
  let same := fun (h : Held) => match h with
    | .fw b _ l => b == a && l == late
    | .txn _ _ _ _ => false
  let t := s.noteHigh [(a, w)]
  { t with frm := { t.frm with held := t.frm.held.filter (fun h => !same h) ++ [.fw a w late] } }

/-- The TIME stamp of the present moment (R277). -/
def State.stamp (s : State) : Word :=
  BitVec.ofNat 32 ((s.frm.frame.toNat % 2 ^ 24) * 256 + s.frm.slot % 256)

/-- The command is given at the edge that opened the current frame. -/
def State.atEdge (s : State) : Bool := decide (s.count = s.frm.edgeAt)

/-- The logic is unpowered: VBAT_C, which feeds it, is reversed (R135). -/
def State.unpowered (s : State) : Bool := (nth s.pwr.grp 2 {}).reversed

/-- The frame runs: no dip, no parking, no resume edge awaited, the logic powered. -/
def State.frameRuns (s : State) : Bool :=
  !s.unpowered && (decide (s.pwr.pause = .run) || (match s.pwr.pause with | .parkWait _ => true | _ => false))

/-! ### Images -/

/-- What an unlisted word of an output image reads as: NAT 0 (R61, R63). -/
def imageDefault (_ : Nat) : TWord := TWord.nat0

/-- A word of the committed output view with its tag (R30, R271), at an offset of the output layout. -/
def State.committedT (s : State) (o : Nat) : TWord := AMap.get imageDefault s.frm.committed o

/-- The payload of a word of the committed output view, as a block takes its command from it. -/
def State.committed (s : State) (o : Nat) : Word := (s.committedT o).val

/-- The payload of a word committed at the edge before the safe image was driven, which HOLD keeps (R254). -/
def State.holdWord (s : State) (o : Nat) : Word := (AMap.get imageDefault s.win.hold o).val

/-- A word written in the output staging image since the last committing edge (R27). -/
def State.staged? (s : State) (o : Nat) : Option TWord := (s.frm.staging.find? (fun p => p.1 = o)).map (·.2)

/-- A word put into the input image under construction. -/
def State.putIn (s : State) (o : Nat) (w : TWord) : State :=
  { s with frm := { s.frm with input := AMap.put (fun _ => TWord.nat0) s.frm.input o w } }

/-- A word of the input image. -/
def State.inWord (s : State) (o : Nat) : TWord := AMap.get (fun _ => TWord.nat0) s.frm.input o

/-! ### Domains and supply groups -/

/-- A domain is ON. -/
def State.domOn (s : State) (d : Nat) : Bool := d = 0 || decide ((nth s.pwr.dom d {}).st = .on)

/-- A domain is locked off (R437). -/
def State.domLocked (s : State) (d : Nat) : Bool := d != 0 && (s.fld F.pwrLockLk).testBit d

/-- One domain changed. -/
def State.setDom (s : State) (d : Nat) (f : Dom → Dom) : State := { s with pwr := { s.pwr with dom := updN s.pwr.dom d f } }

/-- AON cycles of 32.768 kHz in a number of µs. -/
def aonCycles (us : Nat) : Nat := us * 32768 / 1000000

/-- PWR.AONT.COUNT: it counts down once per AON cycle while it is nonzero (R448), and reaches 0 with AON_TIMER_EXPIRE. -/
def State.aonCount (s : State) : Nat :=
  let n := s.fld F.pwrAontCount
  if n = 0 ∨ s.pwr.aonStop then n else max 1 (n - aonCycles ((s.count - s.pwr.aonAt) / ticksPerUs))

/-- One supply group changed. -/
def State.setGrp (s : State) (g : Nat) (f : Grp → Grp) : State := { s with pwr := { s.pwr with grp := updN s.pwr.grp g f } }

/-- A supply group. -/
def State.grp (s : State) (g : Nat) : Grp := nth s.pwr.grp g {}

end Sys2Proof.Machine
end

