-- ==== Sys2Proof/Machine/Domains.lean ====
section
/-!
DEFINITION. Demands on power domains (R436, R437) and which outputs a supply group and a domain carry.
-/

namespace Sys2Proof.Machine

/-- The frame's pause is a logic dip (R425). -/
def State.inDip (s : State) : Bool := match s.pwr.pause with | .dip _ => true | _ => false

/-- No store reaches a register: in a class F halt none leaves a core and the device does nothing else (R248), and a logic dip has
stopped everything that stores (R425), as an unpowered logic has (R135). -/
def State.storesOff (s : State) : Bool := s.inDip || s.win.fhalt || s.unpowered

/-- An access made in a logic dip stalls until the dip ends, behind those that came before it (R425). -/
def State.stall (s : State) (i : DipAccess) : State := { s with pwr := { s.pwr with stalled := s.pwr.stalled ++ [i] } }

/-- A store that an access makes: it stalls in a logic dip (R425), is lost where no store reaches a register, and else acts. -/
def State.store (s : State) (i : DipAccess) (f : State → State) : State :=
  if s.inDip then s.stall i else if s.storesOff then s else f s

/-- A load that an access makes: it stalls in a logic dip (R425). -/
def State.load (s : State) (i : DipAccess) (f : State → State) : State := if s.inDip then s.stall i else f s

/-- A bank's wake begins now (R409). -/
def State.setWake (s : State) (b : Nat) : State :=
  { s with grn := { s.grn with bank := updN s.grn.bank b (fun x => { x with wakeAt := s.count, down := none }) } }

/-- A demand on a domain that is OFF or RET starts its wake, with REQ set to ON (R436); during a dip it is held (R425).
A domain that is ON or locked off is left as it is. -/
def State.demand (s : State) (d : Nat) : State :=
  if s.domOn d || s.domLocked d || s.win.pathBad then s
  else if s.inDip then s.setDom d (fun x => { x with held := true })
  else
    let s1 := s.setDom d (fun x => { x with waking := true, down := none })
    if d < 16 then s1.setFld (F.pwrDctlReq d) 0
    else (s1.setFld (F.grnBpwrState (d - 16)) 0).setWake (d - 16)

/-- The supply group that feeds an output: VBAT_A the heavy channels, VBAT_B the standard ones, VBAT_C the
half-bridges (R419). -/
def groupOf (o : Nat) : Nat := if o < 8 then 0 else if o < 48 then 1 else 2

/-- The domain of an output: SWA, SWB or HB (R433). -/
def domOf (o : Nat) : Nat := if o < 8 then 3 else if o < 48 then 4 else 5

/-- A group's outputs are held off: dip-off, over-voltage-off, a reversal or the wait after one (R421, R422, R132). -/
def State.groupOff (s : State) (g : Nat) : Bool :=
  let x := s.grp g
  x.dipOff || x.ovOff || x.reversed || x.revWait

/-- Outputs can be driven at all: no dip runs and the safe path is sound (R425, R263). -/
def State.outputsLive (s : State) : Bool := !s.inDip && !s.win.pathBad

/-- The clocks of the logic run: it is powered, no dip, not parked, and the PLL has locked since (R135, R425, R440, R443). -/
def State.clocksRun (s : State) : Bool := !s.unpowered && match s.pwr.pause with
  | .dip _ => false
  | .parked _ => false
  | .resume _ _ pll => pll.isSome
  | _ => true

/-- A domain that wakes can reach ON: the clocks run, and the device is not between E_p and the entry into parking, where what is
demanded waits for the next wake (R442, R443). -/
def State.domainsWake (s : State) : Bool := s.clocksRun && (match s.pwr.pause with
  | .parkWait _ => false
  | _ => true)

/-- A core dispatches and executes: its domain is ON, the boot sequence has started it, no halt holds it and its clock
runs. -/
def State.coreRuns (s : State) (c : Fin 2) : Bool :=
  let k := s.core[c]
  s.domOn (1 + c) && k.started && !k.halt.echo && !k.halt.trap && !k.halt.f &&
    (!k.halt.dbg || k.halt.stepping) && s.clocksRun

/-- One core changed. -/
def State.setCore (s : State) (c : Fin 2) (f : Core → Core) : State := { s with core := upd s.core c f }

end Sys2Proof.Machine
end

