-- ==== Sys2Proof/Machine/Feature.lean ====
section
/-!
DEFINITION. The effective feature set and what an absent feature does (R577).
-/

namespace Sys2Proof.Machine

/-- A feature is present: bit `k` of FEAT0 for k below 32, bit `k - 32` of FEAT1 (R577). -/
def State.feat (s : State) (k : Nat) : Bool := s.hst.eff.getLsbD k

/-- The power die of a channel (R66). -/
def dieNo (c : Nat) : Nat := if c < 8 then c / 4 else c / 8 + 1

/-- The feature of a protected output: its power die, or the half-bridges. -/
def outFeat (o : Nat) : Nat := if o < 48 then 10 + dieNo o else 17

/-- The channel of a Winnow source from 40 to 87 (R66). -/
def sourceChan (n : Nat) : Nat := if n < 48 then n - 40 else if n < 56 then n - 8 else n - 48

/-- The feature that a Winnow source belongs to (R243, R577); 0, a mandatory one, where none does. -/
def sourceFeat (n : Nat) : Nat :=
  if n < 40 then 0
  else if n < 88 then outFeat (sourceChan n)
  else if n < 96 then 17
  else if n < 108 then 20
  else if n < 112 then 21
  else if n < 121 then 20
  else if n < 145 then 22
  else if n < 151 then 24
  else if n < 153 then 25
  else if n < 159 then 32 + (n - 153)
  else if n = 159 then 39
  else if n < 162 then 41
  else if n = 162 then 42
  else if n = 163 then 43
  else if n < 167 then 44
  else if n = 167 then 45
  else 0

/-- The feature that an event belongs to (R47, R577); events 70 to 73 belong to several and are raised only from outputs that
are present. -/
def eventFeat (n : Nat) : Nat :=
  if n < 50 then 24
  else if n < 56 then 32 + (n - 50)
  else if n < 60 then 39
  else if n = 60 then 41
  else if n < 64 then 42
  else if n < 70 then 20
  else if n = 74 then 44
  else 0

end Sys2Proof.Machine
end

