-- ==== Sys2Proof/Machine/InputOps.lean ====
section
/-!
DEFINITION. Shared operations of the input block: its records in the state, sensor supplies and their safe entries
(06_inputs.md).
-/

namespace Sys2Proof.Machine

/-- A switch input. -/
def State.swIn (s : State) (i : Nat) : SwIn := nth s.inp.sw i {}
/-- A switch input changed. -/
def State.setSwIn (s : State) (i : Nat) (f : SwIn → SwIn) : State := { s with inp := { s.inp with sw := updN s.inp.sw i f } }
/-- A wake input. -/
def State.wakeIn (s : State) (n : Nat) : WakeIn := nth s.inp.wake n {}
/-- A wake input changed. -/
def State.setWakeIn (s : State) (n : Nat) (f : WakeIn → WakeIn) : State := { s with inp := { s.inp with wake := updN s.inp.wake n f } }
/-- An analog input. -/
def State.ainIn (s : State) (a : Nat) : AinIn := nth s.inp.ain a {}
/-- An analog input changed. -/
def State.setAin (s : State) (a : Nat) (f : AinIn → AinIn) : State := { s with inp := { s.inp with ain := updN s.inp.ain a f } }
/-- A sensor supply. -/
def State.vsIn (s : State) (v : Nat) : VsIn := nth s.inp.vs v {}
/-- A sensor supply changed. -/
def State.setVs (s : State) (v : Nat) (f : VsIn → VsIn) : State := { s with inp := { s.inp with vs := updN s.inp.vs v f } }

/-- The domain INP (R433). -/
def domInp : Nat := 8

/-- The safe-image entry of an output (R252), 0b11 acting as OFF. -/
def State.safeEntryOf (s : State) (o : Nat) : Nat :=
  let e := bitsN (s.fld (F.winSafeEnt (o / 16))) (2 * (o % 16)) 2
  if e = 3 then 0 else e

/-- The effective command of a sensor supply (R230, R68). -/
def State.effVs (s : State) (v : Nat) : Bool :=
  if !s.feat 25 then false
  else if s.win.safe then
    match s.safeEntryOf (96 + v) with
    | 1 => true
    | 2 => (s.holdWord (0xE00 + 4 * v)).getLsbD 0
    | _ => false
  else (s.committed (0xE00 + 4 * v)).getLsbD 0

/-- A sensor supply turned on or off as its effective command says, where its faults and its domain allow (R230, R231,
R233). -/
def State.moveVs (s : State) (v : Nat) : State :=
  let x := s.vsIn v
  let want := s.effVs v && !x.oc && !x.ext && !s.groupOff 2 && s.outputsLive
  if want then
    if s.domOn domInp then
      (if x.on then s else s.setVs v (fun y => { y with on := true, onAt := s.count, low := 0 }))
    else (if s.effVs v then s.demand domInp else s).setVs v (fun y => { y with on := false })
  else s.setVs v (fun y => { y with on := false })

/-- The safe image acts on every sensor supply at once. -/
def State.safeInp (s : State) : State := forEach 4 State.moveVs s

/-- Every sensor supply turns off: its domain leaves ON (R233), or VBAT_C is held off (R55, R421). -/
def State.vsOff (s : State) : State := forEach 4 (fun t v => t.setVs v (fun x => { x with on := false, low := 0 })) s

end Sys2Proof.Machine
end

