-- ==== Sys2Proof/Machine/LedOps.lean ====
section
/-!
DEFINITION. Shared operations of the LED sinks: effective commands, curves, pulse pattern, on-time and the safe image's
immediate action (05_lighting.md).
-/

namespace Sys2Proof.Machine

/-- A sink. -/
def State.sink (s : State) (n : Nat) : Led := nth s.led n {}
/-- A sink changed. -/
def State.setSink (s : State) (n : Nat) (f : Led → Led) : State := { s with led := updN s.led n f }

/-- The domain LED (R433). -/
def domLed : Nat := 7

/-- The sink is combined with its partner (R196), and the sink that governs it. -/
def State.ledPaired (s : State) (n : Nat) : Bool := (s.fld F.ledPairLp).testBit (n / 2)
def State.ledGov (s : State) (n : Nat) : Nat := if s.ledPaired n then n - n % 2 else n

/-- The effective LEVEL and FADE of a sink (R197, R200). -/
def State.effLed (s : State) (n : Nat) : Nat × Nat :=
  let e := s.ledGov n
  let o := 0xC00 + 4 * e
  let dec := fun (w : Word) => (getBits w 0 16, getBits w 16 12)
  if !s.feat 22 then (0, 0)
  else if s.win.safe then
    match s.safeEntryOf (72 + e) with
    | 1 => (65535, 0)
    | 2 => dec (s.holdWord o)
    | _ => (0, 0)
  else dec (s.committed o)

/-- The safe image drives the sink's ON entry. -/
def State.ledSafeOn (s : State) (n : Nat) : Bool := s.win.safe && s.safeEntryOf (72 + s.ledGov n) == 1

/-! ### Curves -/

/-- The largest L below 2^16 for which `ok (2 L - 1)` holds, found bit by bit: the nearest integer, ties up, to the value
`x` with `ok y` iff `y ≤ 2 x`. -/
def nearestFrom (ok : Nat → Bool) : Nat → Nat → Nat
  | 0, l => l
  | k + 1, l => nearestFrom ok k (if ok (2 * (l + 2 ^ k) - 1) then l + 2 ^ k else l)

/-- Entry T[j] of the custom table; T[1024] is T[1023] (R201, R202). -/
def State.curveT (s : State) (j : Nat) : Int :=
  let k := min j 1023
  if k % 2 = 0 then s.fld (F.ledCurvetabTl (k / 2)) else s.fld (F.ledCurvetabTh (k / 2))

/-- The level of a request under a curve (R201). -/
def State.curve (s : State) (c r : Nat) : Nat :=
  if r = 0 then 0 else
  match c with
  | 0 => r
  | 1 => nearestFrom (fun y => decide (y ^ 4096 * 2 ^ (65535 - r) ≤ (2 * 65535) ^ 4096)) 16 0
  | 2 => nearestFrom (fun y => decide (y ^ 5 * 65535 ^ 6 ≤ 32 * r ^ 11)) 16 0
  | 3 => nearestFrom (fun y => decide (y ^ 5 * 65535 ^ 9 ≤ 32 * r ^ 14)) 16 0
  | _ =>
    let i := r / 64
    let a := s.curveT i
    (a + ((s.curveT (i + 1) - a) * ((r % 64 : Nat) : Int)).tdiv 64).toNat

/-! ### Current -/

/-- The crossover level X. -/
def ledX : Nat := 6554

/-- The DAC code of a level (R203, R204): the nearest to 4095 L / 65535 in analog mode, 410 in pulse mode. -/
def dacOf (l : Nat) : Nat := if l = 0 then 0 else if l < ledX then 410 else (2 * 4095 * l + 65535) / 131070

/-- The frame's on-time in cycles in pulse mode (R204). -/
def State.ledQ (s : State) (l : Nat) : Nat := l * (150 * s.tfUs) / ledX

/-- A pulse of slot `k` in cycles (R204), with the diagnostic pulse in slot 1 (R208). -/
def State.ledPulse (s : State) (n k : Nat) : Nat :=
  let x := s.sink n
  if x.dpulse ∧ k = 1 then 300
  else (k + 1) * s.ledQ x.lvl / s.seff - k * s.ledQ x.lvl / s.seff

/-- The sink can conduct: its domain is ON, VBAT_C carries its outputs, no dip runs and no shut-off holds it. -/
def State.ledLive (s : State) (n : Nat) : Bool :=
  s.domOn domLed && !s.groupOff 2 && s.outputsLive && !(s.sink n).shoff && !(s.sink n).ot

/-- Cycles for which a sink is on between two moments of the frame. -/
def State.ledOnTime (s : State) (n a b : Nat) : Nat :=
  let x := s.sink n
  if x.lvl = 0 ∨ s.ledLive n = false then 0
  else if ledX ≤ x.lvl then (b - a) / 4
  else (upto s.seff).foldl (fun t k =>
    let p := s.slotAt k
    t + (min b (p + 4 * s.ledPulse n k) - max a p) / 4) 0

/-- A sink's diagnostic pulse begins between two moments of the frame (R208). -/
def State.ledPulsed (s : State) (n a b : Nat) : Bool :=
  (s.sink n).dpulse && s.ledLive n && decide (a ≤ s.slotAt 1) && decide (s.slotAt 1 < b)

/-- The on-time up to a moment added to the frame's count, and a diagnostic pulse given before it noted; done before every change of the
current inside a frame. -/
def State.ledCount (s : State) (b n : Nat) : State :=
  let a := (s.sink n).oncAt
  let t := s.ledOnTime n a b
  let d := s.ledPulsed n a b
  s.setSink n (fun x => { x with onc := x.onc + t, oncAt := b, pulsed := x.pulsed || d })

/-- The on-time of every sink counted up to now. -/
def State.ledCountAll (s : State) : State := forEach 24 (State.ledCount · s.count ·) s

/-- The sinks turn off with their domain; they are off until the first edge with it ON (R194, R205). -/
def State.ledOff (s : State) : State :=
  forEach 24 (fun t n => t.setSink n (fun x => { x with lvl := 0, dpulse := false })) s.ledCountAll

/-- The safe image acts on a sink at once (R200); an absent one has no command (R577). -/
def State.safeLed (s : State) (n : Nat) : State :=
  if s.ledGov n ≠ n ∨ s.feat 22 = false then s else
  let put := fun (v : Nat) =>
    [n, n + 1].foldl (fun (t : State) m => if t.ledGov m = n then
      (t.ledCount s.count m).setSink m (fun x => { x with
        r := v, r0 := v, goal := v, len := 0, j := 0, lvl := v, lastLevel := v, dpulse := false }) else t) s
  match s.safeEntryOf (72 + n) with
  | 1 => if s.domOn domLed then put 65535 else s.demand domLed
  | 2 => s
  | _ => put 0

/-- The safe image acts on every sink. -/
def State.safeLeds (s : State) : State := forEach 24 State.safeLed s

end Sys2Proof.Machine
end

