-- ==== Sys2Proof/Machine/PressOps.lean ====
section
/-!
DEFINITION. Shared operations of the Press: its records in the state, effective commands, threads, banks, the arbiter and
the microcode store (04_press.md).
-/

namespace Sys2Proof.Machine

/-- A coil channel and its thread. -/
def State.coil (s : State) (ch : Nat) : Coil := nth s.prs.coil ch {}
/-- A coil channel changed. -/
def State.setCoil (s : State) (ch : Nat) (f : Coil → Coil) : State := { s with prs := { s.prs with coil := updN s.prs.coil ch f } }
/-- A bank. -/
def State.pbank (s : State) (b : Nat) : Bank := nth s.prs.bank b {}
/-- A bank changed. -/
def State.setPbank (s : State) (b : Nat) (f : Bank → Bank) : State := { s with prs := { s.prs with bank := updN s.prs.bank b f } }
/-- A PX channel. -/
def State.px (s : State) (x : Nat) : Px := nth s.prs.px x {}
/-- A PX channel changed. -/
def State.setPx (s : State) (x : Nat) (f : Px → Px) : State := { s with prs := { s.prs with px := updN s.prs.px x f } }

/-- The domain PRESS (R433). -/
def domPress : Nat := 6

/-- The coil channels of an engine are paralleled (R161). -/
def State.plPaired (s : State) (ch : Nat) : Bool := (s.fld F.prsPairPl).testBit (ch / 2)

/-- The channel whose registers and thread govern `ch` (R161). -/
def State.plGov (s : State) (ch : Nat) : Nat := if s.plPaired ch then ch - ch % 2 else ch

/-- A channel governs itself: single, or the even one of a pair. -/
def State.plGoverns (s : State) (ch : Nat) : Bool := s.plGov ch == ch

/-- The channels that a governing channel drives. -/
def State.plMembers (s : State) (ch : Nat) : List Nat := if s.plPaired ch then [ch, ch + 1] else [ch]

/-- A reading summed over the channels that a governing channel drives, of coded samples (R146, R161). -/
def State.plSample (s : State) (ch : Nat) : Int :=
  let q := fun c => max (-8192) (min 8191 (roundAway (s.pin (.plI c)) 3)) * 3
  (s.plMembers ch).foldl (fun a c => a + q c) 0

/-- A PL command (R153): ON, REPEAK, TOKEN, HTIME. -/
structure PlCmd where
  on : Bool
  repeak : Bool
  token : Nat
  htime : Nat
deriving DecidableEq, Repr

/-- The command that a word of the output image spells (R153). -/
def PlCmd.ofWord (w : Word) : PlCmd := ⟨w.getLsbD 0, w.getLsbD 1, getBits w 4 4, getBits w 16 16⟩

/-- The effective command of a PL channel (R157), judged on the governing member. -/
def State.effPl (s : State) (ch : Nat) : PlCmd :=
  let e := s.plGov ch
  let o := 0x800 + 4 * e
  if !s.feat 20 then ⟨false, false, (PlCmd.ofWord (s.committed o)).token, 0⟩
  else if s.win.safe then
    match s.safeEntryOf (56 + e) with
    | 1 => ⟨true, false, (PlCmd.ofWord (s.committed o)).token, 0⟩
    | 2 => PlCmd.ofWord (s.holdWord o)
    | _ => ⟨false, false, (PlCmd.ofWord (s.committed o)).token, 0⟩
  else PlCmd.ofWord (s.committed o)

/-- The effective command of a PX channel (R183). -/
def State.effPx (s : State) (x : Nat) : Bool :=
  let o := 0x840 + 4 * x
  if !s.feat 21 then false
  else if s.win.safe then
    match s.safeEntryOf (68 + x) with
    | 1 => true
    | 2 => (s.holdWord o).getLsbD 0
    | _ => false
  else (s.committed o).getLsbD 0

/-- A thread runs a profile: WAITG, PEAK, HOLD or REL. -/
def TSt.active : TSt → Bool
  | .waitg | .peak | .hold | .rel => true
  | _ => false

/-- A thread regulates: PEAK, HOLD or REL. -/
def TSt.regulates : TSt → Bool
  | .peak | .hold | .rel => true
  | _ => false

/-- The codes of R159. -/
def TSt.code : TSt → Nat
  | .idle => 0 | .waitg => 1 | .peak => 2 | .hold => 3 | .rel => 4 | .fault => 5 | .stop => 6

/-- The PRESS outputs can conduct: the domain is ON, VBAT_C carries its outputs and no dip runs (R147, R421, R425). -/
def State.pressLive (s : State) : Bool := s.domOn domPress && !s.groupOff 2 && s.outputsLive

/-- The threads of the engines run: the domain is ON and no dip freezes them (R147). -/
def State.pressRuns (s : State) : Bool := s.domOn domPress && s.outputsLive && !s.unpowered

/-- A bank switch is on (R173, R177). DESIGN CHOICE: it is on from the edge at which a thread enters WAITG; R173 names that state and also
the microsecond after the start of the earliest grant. -/
def State.pbankOn (s : State) (b : Nat) : Bool :=
  s.pressLive && !(s.pbank b).lock && (upto 4).any (fun i => let c := 4 * b + i; s.plGoverns c && (s.coil c).st.active)

/-- Fast decay of a channel acts as slow decay: a clamp guard of one of its halves holds (R149, R150). -/
def State.plSlow (s : State) (ch : Nat) : Bool := (s.plMembers ch).any (fun c => (s.coil c).dg.clpLow || (s.coil c).dg.clpT)

/-- The switches of a channel whose thread does not regulate (R152): low side off, freewheel on only where a clamp guard
holds and current still flows. -/
def State.plRest (s : State) (ch : Nat) : State :=
  s.setCoil ch (fun x => { x with ls := false, fw := s.plSlow ch && decide (50 ≤ s.plSample ch), offN := 0 })

/-- A substitution of slow for fast decay that begins turns the freewheel on while the low side is off and current flows (R149, R150,
R152). -/
def State.plGuard (s : State) (ch : Nat) : State :=
  s.setCoil ch (fun x => { x with fw := x.fw || (!x.ls && s.plSlow ch && decide (50 ≤ s.plSample ch)) })

/-- The switches of every PL channel off, as while PRESS is not ON and during a dip (R147); its detector's maximum restarts (R170). -/
def State.plOff (s : State) : State :=
  forEach 12 (fun t c => t.setCoil c (fun x => { x with ls := false, fw := false, det := { x.det with m := none } })) s

/-- A thread leaves PEAK, HOLD, REL or WAITG for a state that does not regulate: no request, no pending activation, the
detector disarmed (R171). -/
def State.plStop (s : State) (ch : Nat) (st : TSt) : State :=
  (s.setCoil ch (fun x => { x with
    st := st, request := false, slot := none, pendAct := false, wait := .ready
    det := { x.det with armed := none } })).plRest ch

/-- The safe image acts on a PL channel at once (R157): OFF stops a running profile, and a pending activation with it; ON makes an idle
thread count as activated at the next edge. -/
def State.safePl (s : State) (ch : Nat) : State :=
  if !s.plGoverns ch then s else
  let x := s.coil ch
  match s.safeEntryOf (56 + ch) with
  | 1 => if x.st = .idle then s.setCoil ch (fun y => { y with fresh := true }) else s
  | 2 => s
  | _ => if x.st.active then s.plStop ch .idle else s.setCoil ch (fun y => { y with pendAct := false })

/-- A PX channel turned on or off as its effective command says (R182): it is off while it is locked and during a dip. -/
def State.movePx (s : State) (x : Nat) : State :=
  let on := s.effPx x && !(s.px x).lock && s.outputsLive
  s.setPx x (fun y => { y with on := on, onAll := y.onAll && on })

/-- The safe image acts on every coil output. -/
def State.safePrs (s : State) : State := forEach 4 State.movePx (forEach 12 State.safePl s)

/-! ### Microcode stores -/

/-- The first byte address of an engine's store (R163). -/
def ucodeBase (e : Nat) : Nat := 0x50000000 + 0x800 * e

/-- A word of an engine's store. -/
def State.ucode (s : State) (e pc : Nat) : Nat := getBits (s.mread (ucodeBase e + 4 * (pc % 512))).val 0 24

/-- A word stored in an engine's store: its low 24 bits, as a NAT word. -/
def State.setUcode (s : State) (e pc : Nat) (w : Word) : State :=
  s.mwrite (ucodeBase e + 4 * (pc % 512)) (if getBits w 0 24 = 0 then TWord.nil0 else TWord.nat (getBits w 0 24))

/-! ### The arbiter -/

/-- The sum of a bank's reservations that cover a slot (R174). -/
def reserved (l : List (Nat × Int × Int)) (t : Int) : Nat :=
  (l.filter (fun r => decide (r.2.1 ≤ t) && decide (t ≤ r.2.2))).foldl (fun a r => a + r.1) 0

/-- Some slot of a window is over the budget with one more peak: the sum is constant between the first slots of
reservations, so the window's own first slot and the first slots inside it are tried. -/
def crowded (l : List (Nat × Int × Int)) (pk budget : Nat) (a b : Int) : Bool :=
  (a :: (l.map (fun r => r.2.1)).filter (fun t => decide (a < t) && decide (t ≤ b))).any
    (fun t => decide (budget < reserved l t + pk))

/-- The delay of R174: the first slot from `d` on at which the window fits, 33 where none up to slot 32 does. -/
def firstFit (l : List (Nat × Int × Int)) (pk budget len : Nat) : Nat → Nat → Nat
  | 0, d => d
  | n + 1, d => if crowded l pk budget d (d + len - 1) then firstFit l pk budget len n (d + 1) else d

/-- One request arbitrated at an edge (R174 to R176). -/
def State.arbitrate (s : State) (ch : Nat) : State :=
  let b := ch / 4
  let pk := 100 * s.fld (F.prsArbPkma ch)
  let len := max 1 (s.fld (F.prsArbPksl ch))
  let bank := s.pbank b
  let d0 := if pk = 0 then 0 else firstFit bank.resv pk (200 * s.fld (F.prsBankPkmax b)) len 33 0
  let d := min 32 d0
  let exc := decide (32 < d0)
  let s1 := s.setCoil ch (fun x => { x with
    request := false, slot := some d
    fr := { x.fr with delay := d, grant := true, ovr := exc } })
  s1.setPbank b (fun x => { x with
    ovr := x.ovr || exc, stag := x.stag || decide (0 < d)
    resv := if pk = 0 then x.resv else x.resv ++ [(pk, (d : Int), (d : Int) + len - 1)] })

end Sys2Proof.Machine
end

