-- ==== Sys2Proof/Machine/SwitchOps.lean ====
section
/-!
DEFINITION. The shared operations of the high-side channels and half-bridges: pairing, effective commands, thresholds,
turning on and off, and the safe image's immediate action (02_switch_channels.md).
-/

namespace Sys2Proof.Machine

/-- An output's record in the state. -/
def State.out (s : State) (o : Nat) : Outp := nth s.sw.out o {}

/-- One output changed. -/
def State.setOut (s : State) (o : Nat) (f : Outp → Outp) : State := { s with sw := { s.sw with out := updN s.sw.out o f } }

/-- A power die's record. -/
def State.dieOf (s : State) (d : Nat) : Die := nth s.sw.die d {}

/-- One die changed. -/
def State.setDie (s : State) (d : Nat) (f : Die → Die) : State := { s with sw := { s.sw with die := updN s.sw.die d f } }

/-- The channels of a die (R66). -/
def dieChans (d : Nat) : List Nat :=
  if d < 2 then (upto 4).map (· + 4 * d) else (upto 8).map (· + (8 * (d - 1)))

/-- The Winnow source of an output (R66, R141). -/
def outSource (o : Nat) : Nat := if o < 8 then 40 + o else if o < 40 then 48 + o else if o < 48 then 8 + o else 40 + o

/-- Whether the committed pairing joins an output to its partner: channel pairs (R71), full bridges (R112). -/
def State.paired (s : State) (o : Nat) : Bool :=
  if o < 8 then (s.fld F.swPairHp).testBit (o / 2)
  else if o < 48 then (s.fld F.swPairSp).testBit ((o - 8) / 2)
  else (s.fld F.swPairHbb).testBit ((o - 48) / 2)

/-- The output whose registers and state machine govern `o` (R72, R113). -/
def State.gov (s : State) (o : Nat) : Nat := if s.paired o then o - o % 2 else o

/-- The outputs governed by `o`: itself, and the odd member of its pair. -/
def State.members (s : State) (o : Nat) : List Nat := if s.paired o then [o, o + 1] else [o]

/-- `o` has a state machine of its own: it is single or the even member. -/
def State.governs (s : State) (o : Nat) : Bool := s.gov o == o

/-- The effective command of a channel (R68), judged on the governing member. -/
def State.effCh (s : State) (c : Nat) : Bool :=
  let e := s.gov c
  if !s.feat (outFeat c) then false
  else if s.win.safe then
    match s.safeEntryOf e with
    | 1 => true
    | 2 => (s.holdWord (0x100 + 4 * e)).getLsbD 0
    | _ => false
  else (s.committed (0x100 + 4 * e)).getLsbD 0

/-- The mode a command word names; reserved modes act as 0 (R112). -/
def modeOf (w : Word) : Nat := let m := getBits w 0 3; if m < 4 then m else 0

/-- The effective mode and duty of a half-bridge (R112, R117), judged on the governing member. ON gives LOW, and BRAKE
for a full bridge. A release of the door bridge gives its mode, but for the safe image (R556, R544). -/
def State.effHb (s : State) (n : Nat) : Nat × Nat :=
  let e := s.gov (48 + n) - 48
  let a := 0x1C0 + 8 * e
  if !s.feat 17 then (0, 0)
  else if s.win.safe then
    match s.safeEntryOf (48 + e) with
    | 1 => (if s.paired (48 + n) then 3 else 2, 0)
    | 2 => (modeOf (s.holdWord a), getBits (s.holdWord (a + 4)) 0 16)
    | _ => (0, 0)
  else
    match s.acc.rel with
    | some (b, mode, _) => (modeOf (if b = e ∧ s.bit F.accRelEn then BitVec.ofNat 32 mode else s.committed a), getBits (s.committed (a + 4)) 0 16)
    | none => (modeOf (s.committed a), getBits (s.committed (a + 4)) 0 16)

/-- The effective command of an output is on: a channel's ON, a half-bridge's mode other than OFF or COAST. -/
def State.effOn (s : State) (o : Nat) : Bool := if o < 48 then s.effCh o else (s.effHb (o - 48)).1 != 0

/-- The range and the step of a channel's limit (R65), single or paired. -/
def limRange (c : Nat) (pair : Bool) : Nat × Nat × Nat :=
  if c < 8 then (if pair then (20000, 240000, 500) else (10000, 120000, 250))
  else (if pair then (4000, 48000, 100) else (2000, 24000, 50))

/-- The value a write of a limit stores (R75): only the even member of a formed pair takes the pair's range. -/
def State.limStore (s : State) (c v : Nat) : Nat :=
  let r := limRange c (s.paired c && c % 2 == 0)
  clampN r.1 r.2.1 v

/-- A stored limit as the comparator uses it (R75). -/
def State.limUse (s : State) (c v : Nat) : Nat :=
  let r := limRange c (s.paired c)
  clampN r.1 r.2.1 v / r.2.2 * r.2.2

/-- The active threshold of a channel in mA (R76), judged on the governing member. -/
def State.threshold (s : State) (c : Nat) : Nat :=
  let e := s.gov c
  let lim := s.limUse e (s.fld (F.swLimAmps e))
  match (s.out e).window with
  | some _ => max (s.limUse e (s.fld (F.swInrAmps e))) lim
  | none => lim

/-- The threshold of a half-bridge in mA: its own HBLIM rounded down to 50 mA (R113). -/
def State.hbThreshold (s : State) (n : Nat) : Nat := s.fld (F.swHblimAmps n) / 50 * 50

/-- RETRY, BACKOFF and HEAL of an output's governing member (R97, R99, R101, R116). -/
def State.prot (s : State) (o : Nat) : Nat × Nat × Nat :=
  let e := s.gov o
  if o < 48 then (s.fld (F.swProtRetry e), s.fld (F.swProtBackoff e), s.fld (F.swProtHeal e))
  else (s.fld (F.swHbprotRetry (e - 48)), s.fld (F.swHbprotBackoff (e - 48)), s.fld (F.swHbprotHeal (e - 48)))

/-- The state code of a channel (R96). -/
def ChSt.code : ChSt → Nat
  | .off => 0 | .on => 1 | .inr => 2 | .wait => 3 | .lock => 4 | .shed => 5

/-- A channel or half-bridge is in ON or INR. -/
def Outp.isOn (x : Outp) : Bool := x.st == .on || x.st == .inr

/-- The output conducts by its own state: it is in ON or INR, its domain and its supply allow it, and no stall stop
holds it (R70, R138, R421). -/
def State.driven (s : State) (o : Nat) : Bool :=
  let x := s.out (s.gov o)
  x.isOn && !x.hb.stopped && s.domOn (domOf o) && !s.groupOff (groupOf o) && s.outputsLive

/-! ### The bridge switches (R112, R114, R115) -/

/-- The period of a half-bridge's PWM carrier in cycles of 150 MHz (R114); on a tie, which the spec leaves open, either
neighbour. -/
def hbPeriod (freq : Nat) : Nat := (roundOpen 1500000 freq).toNat

/-- The high-side on-time of a duty in cycles (R114): 0xFFFF is 100 %, and an on-time or an off-time below 30 cycles is output as 0 %
or 100 %. -/
def hbOnTime (duty period : Nat) : Nat :=
  let t := if duty = 0xFFFF then period else duty * period / 65536
  if t < 30 then 0 else if period < t + 30 then period else t

/-- The half-bridge `h` follows the carrier in its present mode: PWM of a single one, the even half in FWD and the odd half in REV of a
bridge (R112). -/
def State.hbPwm (s : State) (h : Nat) : Bool :=
  let m := (s.out (s.gov (48 + h))).hb.mode
  if s.paired (48 + h) then (m == 1 && h % 2 == 0) || (m == 2 && h % 2 == 1) else m == 3

/-- The carrier that half-bridge `h` follows, that of its governing member: cycles of the running period, its on-time, its dead
time (R113 to R115). -/
def State.hbCarrier (s : State) (h : Nat) : Nat × Nat × Nat :=
  let e := s.gov (48 + h) - 48
  let x := (s.out (48 + e)).hb
  let period := hbPeriod (s.fld (F.swHbcfgFreq e))
  ((s.count - x.carrierAt) / 4 % max 1 period, hbOnTime x.duty period, s.fld (F.swHbcfgDead e))

/-- The switch of half-bridge `h` that is commanded on, true the high side; none with both off (R112). -/
def State.hbSide (s : State) (h : Nat) : Option Bool :=
  let m := (s.out (s.gov (48 + h))).hb.mode
  let c := s.hbCarrier h
  if !s.driven (48 + h) || m == 0 then none
  else if s.hbPwm h then some (decide (c.1 < c.2.1))
  else some (!s.paired (48 + h) && m == 1)

/-- COUNT from which the switch commanded on conducts: a transition of the carrier, or of a new command, has its dead time with both
switches off; where the same switch goes on, there is no transition (R114). -/
def State.hbReady (s : State) (h : Nat) : Nat :=
  let x := (s.out (48 + h)).hb
  let c := s.hbCarrier h
  let side := s.hbSide h
  let start := s.count / 4 * 4 - 4 * (if c.1 < c.2.1 then c.1 else c.1 - c.2.1)
  if s.hbPwm h && c.2.1 != 0 && c.2.1 != hbPeriod (s.fld (F.swHbcfgFreq (s.gov (48 + h) - 48))) && decide (x.sinceAt < start) then
    start + 4 * c.2.2
  else if side = x.sideWas then x.readyWas
  else if x.sideWas = none then x.sinceAt
  else x.sinceAt + 4 * c.2.2

/-- The high-side and the low-side switch of half-bridge `h` at the present moment (R112, R114, R115). -/
def State.hbSwitches (s : State) (h : Nat) : Bool × Bool :=
  let live := decide (s.hbReady h ≤ s.count)
  (live && s.hbSide h == some true, live && s.hbSide h == some false)

/-- What half-bridge `h` does is noted before its mode, duty or carrier may change (R115). -/
def State.hbNote (s : State) (h : Nat) : State :=
  s.setOut (48 + h) (fun x => { x with hb := { x.hb with sideWas := s.hbSide h, readyWas := s.hbReady h, sinceAt := s.count } })

/-- A half-bridge takes an effective mode and duty: another mode ends a stall stop, and restarts STBLANK and the stall count (R137, R138).
DESIGN CHOICE: for a mode that the safe image brings inside a frame, which no edge commits, STBLANK counts from that moment, and the next
edge is one frame passed; R137 counts from the edge that committed the mode. -/
def Outp.takeMode (x : Outp) (m : Nat × Nat) : Outp :=
  if m.1 = x.hb.mode then { x with hb := { x.hb with duty := m.2 } }
  else { x with hb := { x.hb with mode := m.1, duty := m.2, stopped := false, modeEdges := 0, stallRun := 0 } }

/-! ### Turning on and off -/

/-- The diagnostics of an output that turns on, alone or with its pair: its time off ends, and OL and STB read 0 from the next image on
(R124, R127). -/
def Outp.dgOn (x : Outp) : Outp := { x with dg := { x.dg with offEdges := 0, offAll := false, clrOl := true } }

/-- Both halves of a pair turn on together (R72, R124, R127). -/
def State.dgOn (s : State) (o : Nat) : State := (s.members o).foldl (fun t k => t.setOut k Outp.dgOn) s

/-- A half-bridge or a bridge takes its effective mode; one that was stall-stopped turns on with it (R127, R138). -/
def State.takeMode (s : State) (o : Nat) (m : Nat × Nat) : State :=
  let x := s.out o
  let s1 := s.setOut o (·.takeMode m)
  if x.hb.stopped && x.isOn && m.1 != 0 && m.1 != x.hb.mode && s.governs o then s1.dgOn o else s1

/-- A channel turns on: it enters INR, or ON if MS is 0, and its window opens (R76). -/
def State.turnOn (s : State) (c : Nat) : State :=
  let ms := s.fld (F.swInrMs c)
  (s.setOut c (fun x => { x with
    st := if ms = 0 then .on else .inr
    window := if ms = 0 then none else some (s.count, s.count + 600000 * ms)
    heal := 0 })).dgOn c

/-- A half-bridge turns on (R103 without the INR row). -/
def State.turnOnHb (s : State) (o : Nat) : State := (s.setOut o (fun x => { x with st := .on, heal := 0 })).dgOn o

/-- An output leaves ON or INR; its window closes (R78). -/
def State.turnOff (s : State) (o : Nat) (q : ChSt) : State :=
  s.setOut o (fun x => { x with st := q, window := none, hb := { x.hb with stallRun := 0 } })

/-- An output can be turned on now: its domain is ON and its supply group carries it. -/
def State.canDrive (s : State) (o : Nat) : Bool :=
  s.domOn (domOf o) && !s.groupOff (groupOf o) && s.outputsLive

/-- The safe image acts on a channel at once (R68): OFF turns an on channel off, ON turns an off channel on; WAIT, LOCK
and SHED stay. A domain that is not ON is woken and the channel follows at an edge (R25, R254). -/
def State.safeCh (s : State) (c : Nat) : State :=
  if !s.governs c || !s.feat (outFeat c) then s else
  let x := s.out c
  match s.safeEntryOf c with
  | 1 =>
    if x.st = .off then
      if s.domOn (domOf c) then (if s.canDrive c then s.turnOn c else s) else s.demand (domOf c)
    else s
  | 2 => s
  | _ => if x.isOn && !s.groupOff (groupOf c) then s.turnOff c .off else s

/-- The safe image acts on a half-bridge at once (R117, R138, R254): under HOLD the mode committed before it, which differs from the
present one where a release drove the bridge (R544). -/
def State.safeHb (s : State) (n : Nat) : State :=
  let o := 48 + n
  if !s.governs o then s else
  let x := s.out o
  let m := s.effHb n
  if s.safeEntryOf o = 2 ∧ m.1 = x.hb.mode then s
  else
    let s1 := ((s.members o).foldl (fun t k => t.hbNote (k - 48)) s).takeMode o m
    if m.1 = 0 then (if x.isOn && !s.groupOff 2 then s1.turnOff o .off else s1)
    else if x.st = .off then
      if s.domOn 5 then (if s.canDrive o then s1.turnOnHb o else s1) else s1.demand 5
    else s1

/-- The safe image acts on every channel and half-bridge. -/
def State.safeSw (s : State) : State := forEach 8 State.safeHb (forEach 48 State.safeCh s)

end Sys2Proof.Machine
end

