-- ==== Sys2Proof/Machine/SafePath.lean ====
section
/-!
DEFINITION. The sticky bit of a source, pending an event (R48, R241 to R244), and the safe image's immediate action on every output (R247,
R254).
-/

namespace Sys2Proof.Machine

/-- A source is marked "fixed": its class is always F (R243). -/
def fixedSource (n : Nat) : Bool := n == 4 || n == 33 || n == 168 || n == 171

/-- The committed class of a source: 0 N, 1 W, 2 S, 3 F (R243, R244). -/
def State.classOf (s : State) (n : Nat) : Nat :=
  if fixedSource n then 3 else bitsN (s.fld (F.winClassCls (n / 16))) (2 * (n % 16)) 2

/-- The sticky bit of a source (R241). -/
def State.sticky (s : State) (n : Nat) : Bool := (s.fld (F.winStickyStk (n / 32))).testBit (n % 32)

/-- The sticky bit of a source given a value. -/
def State.putSticky (s : State) (n : Nat) (b : Bool) : State :=
  s.setFld (F.winStickyStk (n / 32)) (setBits (BitVec.ofNat 32 (s.fld (F.winStickyStk (n / 32)))) (n % 32) 1 (b2n b)).toNat

/-- The core that an event is bound to. -/
def State.evCore (s : State) (n : Nat) : Nat := s.fld (F.frmEvtCore n)

/-- The event is enabled and bound to a core whose domain is locked off: it is discarded (R437). -/
def State.evLocked (s : State) (n : Nat) : Bool := s.feat (eventFeat n) && s.bit (F.frmEvtEn n) && s.domLocked (1 + s.evCore n)

/-- An enabled event sets its pending bit, or merges with it (R48), and wakes its core's domain (R51, R436). A disabled
one is discarded, and so is one bound to a core whose domain is locked off. -/
def State.pendEvent (s : State) (n : Nat) : State :=
  if !s.bit (F.frmEvtEn n) || s.evLocked n || !s.feat (eventFeat n) then s
  else
    let c := s.evCore n
    let p := nth s.frm.pend c 0
    if p.getLsbD n then
      s.setFld (F.frmEvmrgMerged (n / 32))
        (setBits (BitVec.ofNat 32 (s.fld (F.frmEvmrgMerged (n / 32)))) (n % 32) 1 1).toNat
    else
      { s with frm := { s.frm with pend := updN s.frm.pend c (fun q => q ||| (1#128 <<< n)) } }.demand (1 + c)

/-- Both cores stop for class F; no store leaves a core (R248, R298). -/
def State.stopCores (s : State) : State :=
  let s1 := forEach 2 (fun t i => if h : i < 2 then t.setCore ⟨i, h⟩ (fun k => { k with halt := { k.halt with f := true }, buf := [] }) else t) s
  { s1 with win := { s1.win with fhalt := true } }

/-- WARN_P pulses for a class W reaction (R246). -/
def State.warnPulse (s : State) : State := { s with win := { s.win with warnEnd := some (s.count + 20 * ticksPerUs) } }

/-- Source 31 under the safe image, which is driven already: LOCKACC sets, and the source's class reacts, with event 77 (R244 to R250,
R437). -/
def State.lockUnderSafe (s : State) : State :=
  let s1 := s.setBit F.pwrStatLockacc
  if s1.sticky 31 || !s1.feat (sourceFeat 31) then s1
  else
    let s2 := s1.putSticky 31 true
    let c := s2.classOf 31
    let s3 := match c with
      | 1 => s2.warnPulse
      | 3 => s2.stopCores
      | _ => s2
    if c != 3 && (s3.fld F.winCtlEven).testBit c then s3.pendEvent 77 else s3

/-- The access block changed. -/
def State.setAcc (s : State) (f : AccBlk → AccBlk) : State := { s with acc := f s.acc }

/-- The safe image ends a running search at once with result 0, and with it the sequence: event 74 with cause DONE (R541, R544). -/
def State.safeAcc (s : State) : State :=
  let x := s.acc.srch
  if x.phase = 0 ∧ x.retry = false then s
  else
    let s1 := s.setAcc (fun a => { a with
      srch := {}, stopF := a.stopF || x.phase != 0
      last := { (x.latest.getD {}) with res := 0 } })
    if (s1.fld F.accEvenCause).testBit 2 then
      let s2 := s1.setFld F.accEvcCause (s1.fld F.accEvcCause ||| 4)
      if s2.evLocked 74 then s2.lockUnderSafe else s2.pendEvent 74
    else s1

/-- Every output takes its safe entry by the rule of its chapter. -/
def State.safeAct (s : State) : State := s.safeSw.safePrs.safeLeds.safeInp.safeAcc

/-- The safe image is driven (R247); while it is driven already nothing changes. HOLD keeps the command committed at
the edge before (R254). -/
def State.driveSafe (s : State) : State :=
  if s.win.safe then s
  else { s with win := { s.win with safe := true, hold := s.frm.committed } }.safeAct

end Sys2Proof.Machine
end

