-- ==== Sys2Proof/Machine/WinnowOps.lean ====
section
/-!
DEFINITION. Sources and events: a source's sticky bit and its class reaction (R241 to R250), raising an event (R48).
-/

namespace Sys2Proof.Machine

/-- Some sticky bit of a class is 1. -/
def State.anySticky (s : State) (c : Nat) : Bool := (upto 192).any (fun n => s.sticky n && s.classOf n == c)

/-- ERR_S is low (R249): the logic pulls it, or the depletion switch holds it while the logic is unpowered (R651). -/
def State.errLow (s : State) : Bool := s.unpowered || !s.win.startOk || s.anySticky 2 || s.anySticky 3

/-- The WINSUM and SUMM bits: 0 F, 1 S, 2 W, 3 N (R59, R267). -/
def State.winSum (s : State) : Nat :=
  b2n (s.anySticky 3) + 2 * b2n (s.anySticky 2) + 4 * b2n (s.anySticky 1) + 8 * b2n (s.anySticky 0)

/-- Class F: the safe image is driven and both cores stop; no store leaves a core (R248, R298). -/
def State.haltF (s : State) : State := s.driveSafe.stopCores

/-- The reaction of a class (R245 to R248). -/
def State.classReact (s : State) (c : Nat) : State :=
  match c with
  | 0 => s
  | 1 => s.warnPulse
  | 2 => s.driveSafe
  | _ => s.haltF

/-- A source occurs: its sticky bit sets, and if it was 0 the reaction of its class is taken once (R241, R244). Event 77
is not raised here. -/
def State.occur (s : State) (n : Nat) : State :=
  if s.sticky n || !s.feat (sourceFeat n) then s else (s.putSticky n true).classReact (s.classOf n)

/-- Event 77 for a bit of a class, other than F, that CTL.EVEN enables (R250). Bound to a core that is locked off it is discarded, which
sets LOCKACC and source 31 (R437). -/
def State.classEvent (s : State) (c : Nat) : State :=
  if c == 3 || !(s.fld F.winCtlEven).testBit c then s
  else if s.evLocked 77 then (s.setBit F.pwrStatLockacc).occur 31
  else s.pendEvent 77

/-- A source occurs with everything that follows from it: its class reaction, and event 77 when the bit newly sets (R250). -/
def State.raiseSource (s : State) (n : Nat) : State :=
  if s.sticky n || !s.feat (sourceFeat n) then s.occur n else (s.occur n).classEvent (s.classOf n)

/-- A use of a locked-off domain: LOCKACC and source 31 (R437). -/
def State.lockAccess (s : State) : State := (s.setBit F.pwrStatLockacc).raiseSource 31

/-- An event occurs (R48, R437). -/
def State.raiseEvent (s : State) (n : Nat) : State := if s.evLocked n then s.lockAccess else s.pendEvent n

/-- A demand on a domain that may be locked off (R436, R437). -/
def State.demandOrLock (s : State) (d : Nat) : State := if s.domLocked d then s.lockAccess else s.demand d

end Sys2Proof.Machine
end

