-- ==== Sys2Proof/Machine/CanOps.lean ====
section
/-!
DEFINITION. Shared operations of the CAN controllers: objects, locks, ports, acceptance, error confinement (13_can_lin.md).
-/

namespace Sys2Proof.Machine

/-- The domain CAN (R433). -/
def domCan : Nat := 9

/-- A controller. -/
def State.cn (s : State) (n : Nat) : Can := nth s.can n {}
/-- A controller changed. -/
def State.setCan (s : State) (n : Nat) (f : Can → Can) : State := { s with can := updN s.can n f }
/-- A controller's notes of the frame changed. -/
def State.setCanFr (s : State) (n : Nat) (f : CanFrameNote → CanFrameNote) : State := s.setCan n (fun c => { c with fr := f c.fr })
/-- A message object. -/
def Can.obj (c : Can) (o : Nat) : CanObj := AMap.get (fun _ => {}) c.objs o
/-- A message object changed. -/
def State.setObj (s : State) (n o : Nat) (f : CanObj → CanObj) : State :=
  s.setCan n (fun c => { c with objs := AMap.put (fun _ => {}) c.objs o (f (c.obj o)) })

/-- The number of a master among those that hold locks (R456). -/
def masterNum : Master → Nat
  | .core c => c.val
  | .host => 2
  | .link => 3

/-- A cause of controller `n` (R470): with its enable, it is recorded and event 50 + n is raised. -/
def State.canCause (s : State) (n cause : Nat) : State :=
  if (s.fld (F.canEvenCause n)).testBit cause then
    (s.setFld (F.canEvcCause n) (s.fld (F.canEvcCause n) ||| 2 ^ cause)).raiseEvent (50 + n)
  else s

/-- Source 153 + n under an enable of WCFG (R473). -/
def State.canSource (s : State) (n en : Nat) : State := if (s.fld (F.canWcfgEn n)).testBit en then s.raiseSource (153 + n) else s

/-- The object's EVO bit is set (R470). -/
def State.canEvo (s : State) (n o : Nat) : Bool := (s.fld (F.canEvoEv n (o / 32))).testBit (o % 32)

/-- The controller takes part on the bus (STAT.RUNNING): integrated, its domain ON, not bus-off. -/
def State.canRunning (s : State) (n : Nat) : Bool :=
  s.domOn domCan && ((s.cn n).run == .on || (s.cn n).run == .stopping) && (s.cn n).estate != 2

/-- A CAN data length for a count of bytes (R461): the next valid one, and at most 64. -/
def canLen (n : Nat) : Nat :=
  if n ≤ 8 then n else if n ≤ 12 then 12 else if n ≤ 16 then 16 else if n ≤ 20 then 20 else if n ≤ 24 then 24
  else if n ≤ 32 then 32 else if n ≤ 48 then 48 else 64

/-- W of a message (R455). -/
def msgWords (m : CanMsg) : Nat := if m.rtr then 2 else 2 + (m.len + 3) / 4

/-- Data word `j` of a message (R455). -/
def msgData (m : CanMsg) (j : Nat) : Word :=
  let b := fun i => if 4 * j + i < m.len then m.data.getD (4 * j + i) 0 % 256 else 0
  BitVec.ofNat 32 (b 0 + 256 * b 1 + 65536 * b 2 + 16777216 * b 3)

/-- Word 1 of an object or of a queue entry (R455). -/
def msgWord1 (m : CanMsg) (new lost shd : Bool) : Nat :=
  m.len % 128 + 128 * b2n m.fdf + 256 * b2n m.brs + 512 * b2n m.esi + 1024 * b2n m.rtr + 2048 * b2n new + 4096 * b2n lost
    + 8192 * b2n shd

/-- Word `p` of object `o` (R455); an object that has received nothing reads LEN 0. -/
def State.objWord (s : State) (n o p : Nat) : TWord :=
  let x := (s.cn n).obj o
  let m := x.msg.getD {}
  if p = 0 then TWord.nat (s.fld (F.canObjcfgId n o) + 2 ^ 29 * s.fld (F.canObjcfgXtd n o))
  else if p = 1 then TWord.nat (msgWord1 m x.new x.lost x.shadow.isSome)
  else ⟨Tag.raw, msgData m (p - 2)⟩

/-- Word `j` of the queue window (R464). -/
def State.queueWord (s : State) (n j : Nat) : TWord :=
  match (s.cn n).queue with
  | [] => TWord.nil0
  | m :: _ =>
    if j = 0 then TWord.nat (m.id + 2 ^ 29 * b2n m.xtd)
    else if j = 1 then TWord.nat (msgWord1 m true false false)
    else ⟨Tag.raw, if m.rtr then 0 else msgData m (j - 2)⟩

/-! ### Locks -/

/-- The content of an object takes its shadow frame; LOST takes `lost` (R458, R459). -/
def State.takeShadow (s : State) (n o : Nat) (lost : Bool) : State :=
  let x := (s.cn n).obj o
  match x.shadow with
  | none => s
  | some m =>
    let s1 := s.setObj n o (fun y => { y with msg := some m, new := true, lost := lost, shadow := none, shLost := false })
    if s.canEvo n o then s1.canCause n 0 else s1

/-- A frame of the controller was discarded unread (R460). -/
def State.canLost (s : State) (n : Nat) (b : Bool) : State := if b then s.setCanFr n (fun f => { f with lost := f.lost + 1 }) else s

/-- A master's lock on a controller is abandoned, if it holds one (R459). -/
def State.abandon (s : State) (n who : Nat) : State :=
  match nth (s.cn n).locks who none with
  | none => s
  | some l =>
    let s1 := s.setCan n (fun c => { c with locks := updN c.locks who (fun _ => none) })
    let x := (s.cn n).obj l.obj
    if l.write || x.shadow.isNone then s1
    else (s1.canLost n x.new).takeShadow n l.obj (x.lost || x.new || x.shLost)

/-- Every lock of a master is abandoned: its core halts or is restarted (R459). -/
def State.abandonAll (s : State) (who : Nat) : State := forEach 6 (fun t n => t.abandon n who) s

/-- The CAN domain leaves ON: every lock is abandoned (R459), and the lands go to high impedance, so that a transmission in progress ends
without success and its frame stays pending (R438, R452). -/
def State.canLeaves (s : State) : State :=
  forEach 6 (fun t n => t.setCan n (fun c => { c with
    run := if t.bit (F.canCtlRun n) then .integrating else .stopped, tx := none, newer := false })) (forEach 4 State.abandonAll s)

/-- A lock on another object than `o` is abandoned (R459). -/
def State.leaveOther (s : State) (n o who : Nat) : State :=
  match nth (s.cn n).locks who none with
  | some l => if l.obj = o then s else s.abandon n who
  | none => s

/-- Another master than `who` holds a lock on the object. -/
def Can.lockedBy (c : Can) (o who : Nat) : Bool :=
  (upto 4).any (fun m => m != who && (match nth c.locks m none with | some l => l.obj == o | none => false))

/-- Some master holds a lock on the object. -/
def Can.locked (c : Can) (o : Nat) : Bool := c.lockedBy o 4

/-- The lock of a master on the object. -/
def Can.lockOn (c : Can) (o who : Nat) : Option CanLock :=
  match nth c.locks who none with
  | some l => if l.obj = o then some l else none
  | none => none

/-- A read completes (R458). -/
def State.readDone (s : State) (n o who : Nat) : State :=
  let x := (s.cn n).obj o
  let s1 := (s.setCan n (fun c => { c with locks := updN c.locks who (fun _ => none) })).setObj n o
    (fun y => { y with new := false, lost := false })
  s1.takeShadow n o x.shLost

/-- A read of an object's port by a master, the domain ON (R456, R458 to R460): the word, and the state. -/
def State.portRead (s : State) (who n o : Nat) : TWord × State :=
  let s0 := s.leaveOther n o who
  if !(s0.bit (F.canObjcfgEn n o) && s0.fld (F.canObjcfgDir n o) == 0) then (TWord.nil0, s0.setBit (F.canStatPorterr n))
  else if (s0.cn n).lockedBy o who then (TWord.nil0, s0.setBit (F.canStatLockcol n))
  else
    match (s0.cn n).lockOn o who with
    | none =>
      (s0.objWord n o 0, s0.setCan n (fun c => { c with
        locks := updN c.locks who (fun _ => some ⟨o, 1, msgWords ((c.obj o).msg.getD {}), false, []⟩) }))
    | some l =>
      let v := s0.objWord n o l.pos
      if l.size ≤ l.pos + 1 then (v, s0.readDone n o who)
      else (v, s0.setCan n (fun c => { c with locks := updN c.locks who (fun _ => some { l with pos := l.pos + 1 }) }))

/-! ### Transmission -/

/-- The message that the words supplied to a port spell, oldest first (R461). -/
def canMsgOf (id : Nat) (xtd : Bool) (ws : List Word) : CanMsg :=
  let w := ws.getD 1 0
  let fdf := w.getLsbD 7
  let given := getBits w 0 7
  let len := if fdf then canLen given else min 8 given
  let bytes := (upto given).map (fun i => getBits (ws.getD (2 + i / 4) 0) (8 * (i % 4)) 8)
  { id := id, xtd := xtd, fdf := fdf, brs := fdf && w.getLsbD 8, rtr := !fdf && w.getLsbD 10, len := len
    data := (bytes ++ List.replicate 64 0).take len }

/-- W of a message being written, from its word 1: by the LEN as adjusted (R455, R461). -/
def canWriteSize (w : Word) : Nat := msgWords (canMsgOf 0 false [0, w])

/-- The object's transmission is in progress. -/
def Can.sending (c : Can) (o : Nat) : Bool := match c.tx with
  | some (.obj p, _) => p == o
  | _ => false

/-- A commit of an object (R461, R462). -/
def State.canCommit (s : State) (n o : Nat) (m : CanMsg) : State :=
  let c := s.cn n
  let x := c.obj o
  let live := c.sending o
  let replaced := x.pend && (!live || c.newer)
  let s1 := (s.setObj n o (fun y => { y with msg := some m, pend := true, lost := y.lost || replaced })).canLost n replaced
  if live then s1.setCan n (fun d => { d with newer := true }) else s1

/-- A write of an object's port by a master, the domain ON (R461, R456, R459, R460). -/
def State.portWrite (s : State) (who n o : Nat) (w : Word) : State :=
  let s0 := s.leaveOther n o who
  if !(s0.bit (F.canObjcfgEn n o) && s0.fld (F.canObjcfgDir n o) == 1) then s0.setBit (F.canStatPorterr n)
  else if (s0.cn n).lockedBy o who then s0.setBit (F.canStatLockcol n)
  else
    let put := fun (l : CanLock) => s0.setCan n (fun c => { c with locks := updN c.locks who (fun _ => some l) })
    match (s0.cn n).lockOn o who with
    | none => put { obj := o, pos := 1, size := 2, write := true, words := [w] }
    | some l =>
      let size := if l.pos = 1 then canWriteSize w else l.size
      let ws := w :: l.words
      if size ≤ l.pos + 1 then
        (s0.setCan n (fun c => { c with locks := updN c.locks who (fun _ => none) })).canCommit n o
          (canMsgOf (s0.fld (F.canObjcfgId n o)) (s0.bit (F.canObjcfgXtd n o)) ws.reverse)
      else put { l with pos := l.pos + 1, size := size, words := ws }

/-- A write to OBJCFG[o]: the object is empty, its locks are released, its pending transmission is cancelled (R453, R462). -/
def State.objCfg (s : State) (n o : Nat) (w : Word) : State :=
  let s1 := s.setReg (F.canObjcfgEn n o).addr w
  s1.setCan n (fun c => { c with
    objs := AMap.put (fun _ => {}) c.objs o {}
    newer := c.newer && !c.sending o
    locks := c.locks.map (fun l => match l with
      | some x => if x.obj = o then none else some x
      | none => none) })

/-- The order of arbitration: a smaller number wins (R463). -/
def msgRank (m : CanMsg) : Nat :=
  let base := if m.xtd then bitsN m.id 18 11 else m.id % 2048
  let kind := if m.xtd then 2 else b2n m.rtr
  ((base * 4 + kind) * 2 ^ 18 + (if m.xtd then m.id % 2 ^ 18 else 0)) * 2 + b2n m.rtr

/-- The pending frames of a controller. -/
def Can.pending (c : Can) : List (TxSrc × CanMsg) :=
  (match c.nm with | some m => [(TxSrc.nm, m)] | none => []) ++
  (match c.permit with | some m => [(TxSrc.permit, m)] | none => []) ++
  c.objs.filterMap (fun p => match p.2.pend, p.2.msg with
    | true, some m => some (TxSrc.obj p.1, m)
    | _, _ => none)

/-- The pending frame that wins (R463). -/
def Can.winner (c : Can) : Option (TxSrc × CanMsg) :=
  c.pending.foldl (fun best p => match best with
    | none => some p
    | some b => if msgRank p.2 < msgRank b.2 then some p else some b) none

/-! ### Error confinement -/

/-- Error counters of a controller changed; ESTATE follows them, with bus-off at a TEC above 255 (R465, R467, R470, R473). -/
def State.canCount (s : State) (n tec rec : Nat) : State :=
  let c := s.cn n
  let e := if 255 < tec then 2 else if 128 ≤ tec ∨ 128 ≤ rec then 1 else 0
  let s1 := s.setCan n (fun d => { d with tec := tec, recv := rec, estate := e })
  let s2 := if e = 2 ∧ c.estate ≠ 2 then
      ((s1.setCanFr n (fun f => { f with busOff := true })).setCan n (fun d => { d with
        tx := none, newer := false, recovering := s.bit (F.canCtlAutorec n) })).raiseSource (153 + n)
    else s1
  let s3 := if e = 1 ∧ c.estate = 0 then s2.canSource n 0 else s2
  if e = c.estate then s3 else s3.canCause n 3

/-- ACKERR given a value; LONE rises at 64 and falls at 0 (R466, R470, R473). -/
def State.setAckerr (s : State) (n v : Nat) : State :=
  let c := s.cn n
  let lone := decide (64 ≤ v) || (c.lone && v != 0)
  let s1 := s.setCan n (fun d => { d with ackerr := v, lone := lone })
  if lone && !c.lone then (s1.canSource n 1).canCause n 4 else s1

/-- The counters of a controller follow the standard: in the normal mode only (R452). -/
def State.canCounts (s : State) (n : Nat) : Bool := s.fld (F.canCtlMode n) == 0

/-! ### Reception -/

/-- The object that takes a frame: the lowest with EN 1, DIR 0, ID and XTD equal (R454). -/
def State.canObjectFor (s : State) (n : Nat) (m : CanMsg) : Option Nat :=
  (upto 256).find? (fun o => s.bit (F.canObjcfgEn n o) && s.fld (F.canObjcfgDir n o) == 0
    && s.fld (F.canObjcfgId n o) == m.id && s.bit (F.canObjcfgXtd n o) == m.xtd)

/-- A filter admits the frame to the queue (R454). -/
def State.canFilter (s : State) (n : Nat) (m : CanMsg) : Bool :=
  (upto 8).any (fun f => s.bit (F.canAfidEn n f) && s.bit (F.canAfidXtd n f) == m.xtd
    && (m.id ^^^ s.fld (F.canAfidId n f)) &&& s.fld (F.canAfmskMask n f) == 0)

/-- An object takes a frame (R457). -/
def State.objArrival (s : State) (n o : Nat) (m : CanMsg) : State :=
  let c := s.cn n
  let x := c.obj o
  if !c.locked o then
    let s1 := (s.setObj n o (fun y => { y with msg := some m, lost := y.lost || y.new, new := true })).canLost n x.new
    if s.canEvo n o then s1.canCause n 0 else s1
  else
    (s.setObj n o (fun y => { y with shadow := some m, shLost := y.shadow.isSome || y.shLost })).canLost n x.shadow.isSome

/-- The queue takes a frame, or drops it (R464). -/
def State.queueArrival (s : State) (n : Nat) (m : CanMsg) : State :=
  let q := (s.cn n).queue
  if 64 ≤ q.length then
    ((s.setBit (F.canStatQovf n)).satInc (F.canQstatDrop n)).setCanFr n (fun f => { f with qovf := true, qdrop := f.qdrop + 1 })
  else
    let s1 := s.setCan n (fun c => { c with queue := c.queue ++ [m] })
    if q.isEmpty then s1.canCause n 2 else s1

/-- Acceptance of a valid frame (R454). -/
def State.canAccept (s : State) (n : Nat) (m : CanMsg) : State :=
  let kept := fun (t : State) => t.setCanFr n (fun f => { f with rx := f.rx + 1 })
  match s.canObjectFor n m with
  | some o => kept (s.objArrival n o m)
  | none =>
    if s.canFilter n m then (if 64 ≤ (s.cn n).queue.length then s.queueArrival n m else kept (s.queueArrival n m)) else s

end Sys2Proof.Machine
end

