-- ==== Sys2Proof/Machine/Bytes.lean ====
section
/-!
DEFINITION. Strings of bytes: numbers in both byte orders, checksums of the network standards.
-/

namespace Sys2Proof.Machine

/-- A string of bytes. -/
abbrev Bytes := List Nat

/-- A number as `n` bytes, least significant first. -/
def leOf : Nat → Nat → Bytes
  | 0, _ => []
  | n + 1, x => x % 256 :: leOf n (x / 256)

/-- A number as `n` bytes, most significant first. -/
def beOf (n x : Nat) : Bytes := (leOf n x).reverse

/-- The number that bytes spell, least significant first. -/
def leNat : Bytes → Nat
  | [] => 0
  | b :: t => b % 256 + 256 * leNat t

/-- The number that bytes spell, most significant first. -/
def beNat (l : Bytes) : Nat := leNat l.reverse

/-- `n` bytes from an offset; bytes past the end read 0. -/
def sub (l : Bytes) (o n : Nat) : Bytes := ((l.drop o) ++ List.replicate n 0).take n

/-- The number at an offset, most significant byte first, and least significant byte first. -/
def beAt (l : Bytes) (o n : Nat) : Nat := beNat (sub l o n)
def leAt (l : Bytes) (o n : Nat) : Nat := leNat (sub l o n)

/-- The ones' complement sum of 16-bit words, most significant byte first, an odd last byte padded with 0. -/
def onesSum : Bytes → Nat → Nat
  | [], a => a
  | [x], a => let t := a + 256 * (x % 256); t % 65536 + t / 65536
  | x :: y :: r, a => let t := a + 256 * (x % 256) + y % 256; onesSum r (t % 65536 + t / 65536)

/-- The internet checksum. -/
def inetSum (l : Bytes) : Nat := 65535 - onesSum l 0

/-- One bit of CRC-32. -/
def crcBit (c : Nat) : Nat := if c % 2 = 1 then (c / 2) ^^^ 0xEDB88320 else c / 2

/-- One byte of CRC-32. -/
def crcByte (c b : Nat) : Nat := (upto 8).foldl (fun x _ => crcBit x) (c ^^^ (b % 256))

/-- CRC-32 of IEEE 802.3. -/
def crc32 (l : Bytes) : Nat := (l.foldl crcByte 0xFFFFFFFF) ^^^ 0xFFFFFFFF

/-- The 32-bit words of a string, byte A in the position of R318, the last one padded with 0. -/
def wordsOf (l : Bytes) : List Word :=
  (upto ((l.length + 3) / 4)).map (fun j => BitVec.ofNat 32 (leAt l (4 * j) 4))

end Sys2Proof.Machine
end

