-- ==== Sys2Proof/Machine/Crypto.lean ====
section
/-!
DEFINITION. The ciphers and digests that the spec names by their standards (R552, R574, R589): AES and its CTR, CMAC and GCM
modes, SHA-256. Every string is a list of bytes.
-/

namespace Sys2Proof.Machine

/-! ### AES (FIPS 197) -/

/-- Multiplication by x in GF(2^8). -/
def xtime (a : Nat) : Nat := if a < 128 then 2 * a else (2 * a) % 256 ^^^ 0x1B

/-- The rows of the S-box (FIPS 197, 5.1.1), the byte of column 0 the most significant of its row. -/
def sboxRows : List Nat := [
  0x637c777bf26b6fc53001672bfed7ab76, 0xca82c97dfa5947f0add4a2af9ca472c0,
  0xb7fd9326363ff7cc34a5e5f171d83115, 0x04c723c31896059a071280e2eb27b275,
  0x09832c1a1b6e5aa0523bd6b329e32f84, 0x53d100ed20fcb15b6acbbe394a4c58cf,
  0xd0efaafb434d338545f9027f503c9fa8, 0x51a3408f929d38f5bcb6da2110fff3d2,
  0xcd0c13ec5f974417c4a77e3d645d1973, 0x60814fdc222a908846eeb814de5e0bdb,
  0xe0323a0a4906245cc2d3ac629195e479, 0xe7c8376d8dd54ea96c56f4ea657aae08,
  0xba78252e1ca6b4c6e8dd741f4bbd8b8a, 0x703eb5664803f60e613557b986c11d9e,
  0xe1f8981169d98e949b1e87e9ce5528df, 0x8ca1890dbfe6426841992d0fb054bb16]

/-- The S-box. -/
def sbox (a : Nat) : Nat := sboxRows.getD (a / 16) 0 / 2 ^ (8 * (15 - a % 16)) % 256

/-- Two strings combined byte by byte. -/
def xorB (a b : Bytes) : Bytes := List.zipWith (· ^^^ ·) a b

/-- The next word of a key schedule of `nk` words, latest word first; `i` is its number, `rc` the round constant in use. -/
def nextKey (nk i rc : Nat) (ws : List Bytes) : Bytes :=
  let t := ws.headD []
  let t1 := if i % nk = 0 then xorB ((t.drop 1 ++ t.take 1).map sbox) [rc, 0, 0, 0]
    else if 6 < nk ∧ i % nk = 4 then t.map sbox else t
  xorB (ws.getD (nk - 1) []) t1

/-- The key schedule extended by `n` words. -/
def expandFrom (nk : Nat) : Nat → Nat → Nat → List Bytes → List Bytes
  | 0, _, _, ws => ws
  | n + 1, i, rc, ws => expandFrom nk n (i + 1) (if i % nk = 0 then xtime rc else rc) (nextKey nk i rc ws :: ws)

/-- The words of a key of 16 or 32 bytes. -/
def keyWords (key : Bytes) : List Bytes := (upto (key.length / 4)).map (fun j => sub key (4 * j) 4)

/-- The round keys of a key, in order. -/
def roundKeys (key : Bytes) : List Bytes :=
  let nk := key.length / 4
  let ws := (expandFrom nk (4 * (nk + 7) - nk) nk 1 (keyWords key).reverse).reverse
  (upto (nk + 7)).map (fun r => (upto 4).flatMap (fun j => ws.getD (4 * r + j) []))

/-- ShiftRows on 16 bytes in column order. -/
def shiftRows (s : Bytes) : Bytes := (upto 16).map (fun i => s.getD ((i + 4 * (i % 4)) % 16) 0)

/-- MixColumns on one column. -/
def mixColumn (c : Bytes) : Bytes :=
  (upto 4).map (fun i => xtime (c.getD i 0) ^^^ (xtime (c.getD ((i + 1) % 4) 0) ^^^ c.getD ((i + 1) % 4) 0)
    ^^^ c.getD ((i + 2) % 4) 0 ^^^ c.getD ((i + 3) % 4) 0)

/-- The rounds after the first key addition. -/
def aesRounds : List Bytes → Bytes → Bytes
  | [], s => s
  | [k], s => xorB (shiftRows (s.map sbox)) k
  | k :: ks, s => aesRounds ks (xorB ((upto 4).flatMap (fun j => mixColumn (sub (shiftRows (s.map sbox)) (4 * j) 4))) k)

/-- AES encryption of one block under a key of 16 or 32 bytes. -/
def aes (key block : Bytes) : Bytes :=
  match roundKeys key with
  | [] => block
  | k :: ks => aesRounds ks (xorB block k)

/-! ### Modes -/

/-- The blocks of a string, the last one short if its length is no multiple of 16. -/
def blocks (l : Bytes) : List Bytes := (upto ((l.length + 15) / 16)).map (fun j => (l.drop (16 * j)).take 16)

/-- AES-CTR with an initial counter block that counts modulo 2^`w` (SP 800-38A). -/
def aesCtr (key iv : Bytes) (w : Nat) (l : Bytes) : Bytes :=
  let c := beNat iv
  (blocks l).zipIdx.flatMap (fun p =>
    xorB p.1 (aes key (beOf 16 (c / 2 ^ w * 2 ^ w + (c + p.2) % 2 ^ w))))

/-- Doubling in GF(2^128) as CMAC has it. -/
def cmacDouble (k : Bytes) : Bytes :=
  let x := beNat k
  beOf 16 (if x.testBit 127 then (2 * x) % 2 ^ 128 ^^^ 0x87 else 2 * x)

/-- AES-CMAC (SP 800-38B). -/
def cmac (key l : Bytes) : Bytes :=
  let k1 := cmacDouble (aes key (List.replicate 16 0))
  let n := (l.length + 15) / 16 - 1
  let last := l.drop (16 * n)
  let m := if last.length = 16 then xorB last k1
    else xorB (sub (last ++ [0x80]) 0 16) (cmacDouble k1)
  aes key (xorB ((blocks (l.take (16 * n))).foldl (fun c b => aes key (xorB c b)) (List.replicate 16 0)) m)

/-- Multiplication in GF(2^128) as GCM has it: bit 0 of a block is its most significant bit. -/
def ghashMul (x y : Nat) : Nat :=
  ((upto 128).foldl (fun (p : Nat × Nat) i =>
    (if x.testBit (127 - i) then p.1 ^^^ p.2 else p.1,
     if p.2.testBit 0 then p.2 / 2 ^^^ (0xE1 * 2 ^ 120) else p.2 / 2)) (0, y)).1

/-- A string padded with zeros to whole blocks. -/
def padBlocks (l : Bytes) : Bytes := sub l 0 ((l.length + 15) / 16 * 16)

/-- The GCM tag of a ciphertext with its associated data, under a 12-byte IV (SP 800-38D). -/
def gcmTag (key iv aad ct : Bytes) : Bytes :=
  let h := beNat (aes key (List.replicate 16 0))
  let all := padBlocks aad ++ padBlocks ct ++ beOf 8 (8 * aad.length) ++ beOf 8 (8 * ct.length)
  let g := (blocks all).foldl (fun y b => ghashMul (y ^^^ beNat b) h) 0
  xorB (beOf 16 g) (aes key (iv ++ [0, 0, 0, 1]))

/-- GCM encryption and decryption of the text, under a 12-byte IV. -/
def gcmText (key iv l : Bytes) : Bytes := aesCtr key (iv ++ [0, 0, 0, 2]) 32 l

/-! ### SHA-256 (FIPS 180-4)

A block's 64 rounds are taken as two sequences of words, here called left and right, that each grow by one word a round; the working
variables a to d of the standard are the latest four words of the left one, e to h those of the right one. -/

/-- The primes below a bound. -/
def primesBelow (n : Nat) : List Nat := ((upto n).drop 2).filter (fun p => ((upto p).drop 2).all (fun d => p % d != 0))

/-- The greatest number of `b` bits, above those of `r`, whose power `e` is at most `n`. -/
def rootBelow (e n : Nat) : Nat → Nat → Nat
  | 0, r => r
  | b + 1, r => rootBelow e n b (if (r + 2 ^ b) ^ e ≤ n then r + 2 ^ b else r)

/-- The first 32 bits of the fraction of a prime's root of degree `e` (4.2.2, 5.3.3). -/
def rootFraction (e p : Nat) : Word := BitVec.ofNat 32 (rootBelow e (p * 2 ^ (32 * e)) 37 0)

/-- The words of the rounds, from cube roots, and of the start, from square roots. -/
def shaAdds : List Word := (primesBelow 312).map (rootFraction 3)
def shaStart : List Word := (primesBelow 20).map (rootFraction 2)

/-- The sum of three rotations of a word, as exclusive or. -/
def spin (x : Word) (i j k : Nat) : Word := x.rotateRight i ^^^ x.rotateRight j ^^^ x.rotateRight k

/-- The word at a place of a sequence. -/
def wordAt (l : List Word) (n : Nat) : Word := l.getD n 0

/-- One round: the sequences, latest word first, grow by what the round's own word `m`, constant and message together, gives. -/
def shaGrow (q : List Word × List Word) (m : Word) : List Word × List Word :=
  let e := wordAt q.2 0
  let choice := wordAt q.2 2 ^^^ (e &&& (wordAt q.2 1 ^^^ wordAt q.2 2))
  let t := wordAt q.2 3 + m + choice + spin e 6 11 25
  let a := wordAt q.1 0
  let most := (a &&& (wordAt q.1 1 ||| wordAt q.1 2)) ||| (wordAt q.1 1 &&& wordAt q.1 2)
  ((t + most + spin a 2 13 22) :: q.1.take 3, (wordAt q.1 3 + t) :: q.2.take 3)

/-- Message words of a block after its own sixteen: the sequence, latest word first, grown by `n` words (6.2.2). -/
def shaStretch (l : List Word) (n : Nat) : List Word :=
  (upto n).foldl (fun w _ =>
    (wordAt w 15 + wordAt w 6 + (((wordAt w 1).rotateRight 17 ^^^ (wordAt w 1).rotateRight 19) ^^^ (wordAt w 1 >>> 10))
      + (((wordAt w 14).rotateRight 7 ^^^ (wordAt w 14).rotateRight 18) ^^^ (wordAt w 14 >>> 3))) :: w) l

/-- The digest words after a block of 64 bytes. -/
def shaTake (h : List Word) (b : Bytes) : List Word :=
  let own := (upto 16).foldl (fun (w : List Word) j => BitVec.ofNat 32 (beAt b (4 * j) 4) :: w) []
  let r := (List.zipWith (· + ·) shaAdds (shaStretch own 48).reverse).foldl shaGrow (h.take 4, h.drop 4)
  List.zipWith (· + ·) h (r.1 ++ r.2)

/-- The bytes digested: the string, a bit 1, zeros, and its length in bits, in whole blocks (5.1.1). -/
def shaPadded (l : Bytes) : Bytes :=
  let n := (l.length + 8) / 64 * 64 + 56
  sub (l ++ [0x80]) 0 n ++ beOf 8 (8 * l.length)

/-- SHA-256. -/
def sha256 (l : Bytes) : Bytes :=
  let m := shaPadded l
  ((upto (m.length / 64)).foldl (fun h j => shaTake h (sub m (64 * j) 64)) shaStart).flatMap (fun w => beOf 4 w.toNat)

/-! ### CRCs of the access block (R545, R549) -/

/-- CRC-8 with polynomial 0x07 and initial value 0. -/
def crc8 (l : Bytes) : Nat :=
  l.foldl (fun c b => (upto 8).foldl (fun x _ => if x < 128 then 2 * x else (2 * x) % 256 ^^^ 0x07) (c ^^^ b % 256)) 0

/-- CRC-16 with polynomial 0x1021 and initial value 0xFFFF. -/
def crc16 (l : Bytes) : Nat :=
  l.foldl (fun c b => (upto 8).foldl (fun x _ => if x < 32768 then 2 * x else (2 * x) % 65536 ^^^ 0x1021) (c ^^^ (b % 256 * 256))) 0xFFFF

end Sys2Proof.Machine
end

