-- ==== Sys2Proof/Machine/AccOps.lean ====
section
/-!
DEFINITION. Shared operations of the access block: its keys, packets, log, searches and permits (16_access.md).
-/

namespace Sys2Proof.Machine

/-- The domain ACC (R433). -/
def domAcc : Nat := 13

/-- The search sequence changed. -/
def State.setSrch (s : State) (f : AccSearch → AccSearch) : State := s.setAcc (fun a => { a with srch := f a.srch })

/-- The block runs (R541): EN is 1, its domain is ON and its feature present. -/
def State.accRuns (s : State) : Bool := s.bit F.accCfgEn && s.domOn domAcc && s.feat 44

/-- A cause of event 74 (R541). -/
def State.accCause (s : State) (c : Nat) : State :=
  if (s.fld F.accEvenCause).testBit c then
    (s.setFld F.accEvcCause (s.fld F.accEvcCause ||| 2 ^ c)).raiseEvent 74
  else s

/-- The AES-128 key of a slot; none where the slot is empty or holds another type (R552, R558). -/
def State.key128 (s : State) (k : Nat) : Option Bytes :=
  if s.fld (F.secKattrType k) = 1 ∧ s.bit (F.secKattrLoaded k) then some (nth s.sec.keys k []) else none

/-- A TID as the packets have it. -/
def tidBytes (tid : Nat) : Bytes := leOf 4 tid

/-- K_T of a token (R552). -/
def State.tokenKey (s : State) (tid : Nat) : Option Bytes :=
  (s.key128 (s.fld F.accKeysTks)).map (fun k => aes k (tidBytes tid ++ List.replicate 12 0))

/-- The enabled entry of the token table that holds a TID. -/
def State.tokenEntry (s : State) (tid : Nat) : Option Nat :=
  (upto 32).find? (fun t => s.bit (F.accTcfgEn t) && s.fld (F.accTokTid t) == tid)

/-- The committed words of the block (R542): LFEN, SCAN.RUN, PER, PERMIT.ALLOW. -/
def State.lfen (s : State) : Nat := getBits (s.committed 0xF00) 0 6
def State.scanRun (s : State) : Bool := (s.committed 0xF04).getLsbD 0
def State.scanPer (s : State) : Nat := max 1 (getBits (s.committed 0xF04) 16 16)
def State.allow (s : State) : Bool := (s.committed 0xF08).getLsbD 0

/-- An entry of the log (R562). -/
def State.accLog (s : State) (tid res slot search : Nat) : State :=
  let i := s.fld F.accLogidxNext
  let s1 := s.setFld (F.accLogEntry (2 * i)) tid
  let s2 := s1.setFld (F.accLogEntry (2 * i + 1)) (res % 16 + 16 * (slot % 16) + 256 * (search % 8) + 4096 * (s.frm.frame.toNat % 2 ^ 20))
  s2.setFld F.accLogidxNext ((i + 1) % 16)

/-- A token of the search logged with its result (R553); result 5 sets source 166. -/
def State.accResult (s : State) (t : TokReply) (res : Nat) : State :=
  let n := s.acc.srch.tries
  let s1 := (s.accLog t.tid res t.slot n).setSrch (fun x => { x with latest := some { tok := t, res := res, search := n } })
  if res = 5 then s1.raiseSource 166 else s1

/-- The sequence is over with a result; event 74 with cause DONE (R555, R563). -/
def State.accDone (s : State) (r : TokResult) : State :=
  (s.setAcc (fun a => { a with srch := {}, last := r })).accCause 2

/-- The sequence is over without a grant: its result is that of the last token logged, or 8 after collisions only (R555, R563). -/
def State.accOver (s : State) : State :=
  let x := s.acc.srch
  s.accDone (match x.latest with
    | some r => r
    | none => { res := if x.coll = 0 then 0 else 8, search := x.tries })

/-- The search is over without a grant (R555): a retry follows a collision, up to the fourth; else the sequence ends. -/
def State.searchEnd (s : State) : State :=
  let x := s.acc.srch
  if x.coll ≠ 0 ∧ x.tries < 4 then
    s.setSrch (fun y => { y with phase := 0, retry := true, cand := [], grant := none })
  else s.accOver

/-- A packet of the engine with its TYPE, its CRC appended (R549). -/
def withCrc16 (l : Bytes) : Bytes := l ++ leOf 2 (crc16 l)

/-- A received packet is whole: its TYPE, its length and its CRC (R548, R549). -/
def packetOk (p : Bytes) (type len : Nat) : Bool :=
  p.length == len && p.headD 0 == type && leAt p (len - 2) 2 == crc16 (p.take (len - 2))

/-- A packet that matches a row of the packet table, its CRC sound (R549). -/
def packetKnown (p : Bytes) : Bool := packetOk p 0x21 30 || packetOk p 0x12 15 || packetOk p 0x23 31 || packetOk p 0x31 16

/-- URSTn is low while UCFG.RST is 1, and while ACC is not ON (R438, R547). -/
def State.urstLow (s : State) : Bool := s.bit F.accUcfgRst || !s.domOn domAcc

/-- UIRQ is asserted at a level of its land (R547); the commands that a UIRQ starts stand for its assertion, whatever the level. -/
def State.uirqAsserted (s : State) (level : Bool) : Bool := level != s.bit F.accUcfgIrqpol

/-- A packet is read from the transceiver: the first URXN bytes of URXP go out before it (R548). -/
def State.uhfRead (s : State) : State :=
  s.setAcc (fun a => { a with sent := (leOf 4 (s.fld F.accUrxpPfx)).take (s.fld F.accUcfgUrxn) })

/-- A packet sent through the transceiver: the prefix, a length byte, the packet (R548). -/
def State.uhfSend (s : State) (p : Bytes) : State :=
  s.setAcc (fun a => { a with sent := (leOf 4 (s.fld F.accUtxpPfx)).take (s.fld F.accUcfgUtxn) ++ p.length :: p })

/-- The next token is authenticated: unknown ones and those whose RT fails are logged and passed over; the first sound one is
sent AUTH (R552, R553). With none left the search is over. A failure's source may drive the safe image, which stops the engine (R544). -/
def State.authFrom (s : State) : List TokReply → State
  | [] => if s.acc.srch.phase = 0 then s else (s.setSrch (fun x => { x with cand := [] })).searchEnd
  | t :: rest =>
    if s.acc.srch.phase = 0 then s
    else if (s.tokenEntry t.tid).isNone then (s.accResult t 3).authFrom rest
    else
      let chal := s.acc.srch.chal
      match s.tokenKey t.tid with
      | none => (s.accResult t 5).authFrom rest
      | some k =>
        if (aes k (chal ++ tidBytes t.tid ++ List.replicate 4 0)).take 8 ≠ t.rt then (s.accResult t 5).authFrom rest
        else
          let rd := (aes k (t.rchal ++ chal)).take 8
          (s.uhfSend (withCrc16 (0x12 :: tidBytes t.tid ++ rd))).setSrch (fun x => { x with
            cand := t :: rest, key := k, authAt := s.count })

/-- The token being authenticated fails with result 5 and the engine moves on (R553). -/
def State.authFail (s : State) : State :=
  match s.acc.srch.cand with
  | [] => s
  | t :: rest => (s.accResult t 5).authFrom rest

/-- The aerials whose peak current at the end of the wake carrier was below a quarter of IPK set OPEN, those among them that SHORT has
turned off (R546). -/
def State.accWake (s : State) : State :=
  let x := s.acc.srch
  if x.phase = 1 ∧ x.woke = false ∧ x.startAt + 2048 * ticksPerUs ≤ s.count then
    let weak := (upto 6).foldl (fun a i =>
      if x.lfen.testBit i ∧ (s.acc.short.testBit i ∨ 4 * s.pin (.lfPeak i) < 100 * s.fld F.accLfcfgIpk) then a + 2 ^ i else a) 0
    let s1 := (s.setSrch (fun y => { y with woke := true })).setAcc (fun a => { a with opn := a.opn ||| weak })
    if weak = 0 then s1 else (s1.raiseSource 164).accCause 3
  else s

/-- The bytes of the LF telegram, each field's bits most significant first: preamble, SITE, CMD, SEED, CHAL and the CRC over SITE to CHAL
(R545). -/
def lfTelegram (site seed : Nat) (chal : Bytes) : Bytes :=
  let body := [site / 256 % 256, site % 256, 0x01, seed] ++ chal
  0xAA :: body ++ [crc8 body]

/-- A search begins (R543, R545, R546): SEED and CHAL are drawn, the results of its aerials are open again. -/
def State.searchBegin (s : State) (tries : Nat) : State :=
  let lf := s.lfen
  let f := s.free
  let keep := 63 - lf
  let seed := Config.freeNat f % 256
  let chal := (upto 8).map (fun i => Config.freeNat (f + 1 + i) % 256)
  { s with free := f + 9 }.setAcc (fun a => { a with
    opn := a.opn &&& keep, short := a.short &&& keep, driven := a.driven ||| lf, lf := lfTelegram (s.fld F.accSite) seed chal
    srch := { phase := 1, tries := tries, startAt := s.count, lfen := lf, latest := none, seed := seed, chal := chal } })

/-- Number of aerials in a mask. -/
def aerials (m : Nat) : Nat := ((upto 6).filter (fun i => m.testBit i)).length

/-- Ticks from t_ref to the close of the reply window (R550). -/
def State.replyWindow (s : State) : Nat :=
  ticksPerUs * (s.fld F.accRlyRdly + 2 ^ (1 + s.fld F.accSlotNslot) * s.fld F.accSlotSlotlen)

/-- NSLOT (R550). -/
def State.nslot (s : State) : Nat := 2 ^ (1 + s.fld F.accSlotNslot)

/-- The slot that a token answers in (R550). -/
def State.slotOf (s : State) (tid : Nat) : Nat := (tid / 2 ^ (s.acc.srch.seed % 29)) % s.nslot

/-- The slot in which a UIRQ falls, by its ticks after t_ref: slot s runs from RWIN before its nominal arrival. -/
def State.irqSlot (s : State) (after : Nat) : Nat :=
  let open_ : Int := (ticksPerUs * s.fld F.accRlyRdly : Nat) - (150 * s.fld F.accRlyRwin : Nat)
  min (s.nslot - 1) (((after : Int) - open_) / (ticksPerUs * s.fld F.accSlotSlotlen : Nat)).toNat

/-- A collision in a slot is logged once (R551, R562): the reply that lay there is no candidate. -/
def State.slotCollides (s : State) (slot : Nat) : State :=
  let x := s.acc.srch
  let s1 := s.setSrch (fun y => { y with
    coll := y.coll ||| 2 ^ slot, cand := y.cand.filter (fun t => t.slot ≠ slot), far := y.far.filter (fun t => t.slot ≠ slot) })
  if x.coll.testBit slot then s1 else s1.accLog 0 8 slot x.tries

/-- The slots before `slot` have ended: a reply that stayed alone in one of them and lay outside RWIN is logged with result 4 and sets
source 165 (R551). Where that drives the safe image the search has stopped (R544). -/
def State.slotsEnd (s : State) (slot : Nat) : State :=
  (s.acc.srch.far.filter (fun t => decide (t.slot < slot))).foldl
    (fun u t => if u.acc.srch.phase = 0 then u else (u.accResult t 4).raiseSource 165)
    (s.setSrch (fun y => { y with far := y.far.filter (fun t => decide (slot ≤ t.slot)) }))

/-- The slots that have ended by now, in the reply window (R551). -/
def State.accSlots (s : State) : State :=
  if s.acc.srch.phase = 2 then s.slotsEnd (s.irqSlot (s.count - s.acc.srch.tref)) else s

/-- A UIRQ falls in a slot: a second one in the same slot is a collision (R551). -/
def State.slotIrq (s : State) (slot : Nat) : State :=
  if s.acc.srch.seen.testBit slot then s.slotCollides slot
  else s.setSrch (fun y => { y with seen := y.seen ||| 2 ^ slot })

/-! ### Permits -/

/-- Seconds to a permit's end, a part of a second counted as one (R558, R563). -/
def State.secondsLeft (s : State) (p : Permit) : Nat := (p.endAt - s.count + 600000000 - 1) / 600000000

/-- The frame of a permit (R558): none where the key slot holds no AES-128 key. -/
def State.permitFrame (s : State) (p : Permit) (type : Nat) : Option CanMsg :=
  (s.key128 (s.fld F.accKeysPks)).map (fun k =>
    let head := [1, type] ++ leOf 4 s.acc.seq ++ leOf 2 (s.fld F.accPepochEpoch)
    let iv := leOf 4 (s.fld F.accPnonceNonce) ++ [0, 0] ++ head.drop 2
    let text := tidBytes p.tid ++ [p.level, 0] ++ leOf 2 (if type = 2 then 0 else s.secondsLeft p)
    let ct := gcmText k iv text
    { id := s.fld F.accPmtId, fdf := true, brs := s.bit F.accPmtBrs, len := 32, data := head ++ ct ++ gcmTag k iv head ct })

/-- A permit frame placed on its controller (R557): one still unsent is replaced, and source 167 sets. -/
def State.offerPermit (s : State) (m : CanMsg) : State :=
  let n := min 5 (s.fld F.accPmtPort)
  let s1 := if (s.cn n).permit.isSome then s.raiseSource 167 else s
  s1.setCan n (fun c => { c with
    permit := some m, newer := c.newer || (match c.tx with | some (.permit, _) => true | _ => false) })

/-- A sequence that is used up ends the permit, and source 167 sets (R559). -/
def State.permitSpent (s : State) : State :=
  if s.acc.spent then (s.setAcc (fun a => { a with permit := none })).raiseSource 167 else s

/-- A permit frame built and offered (R557 to R559). The frame that takes the sequence to its end ends the permit at once; a key slot
without a key sends nothing. Both set source 167. -/
def State.permitSend (s : State) (p : Permit) (type : Nat) : State :=
  if s.acc.spent then s.permitSpent
  else if s.bit F.accPmtEn = false then s
  else
    match s.permitFrame p type with
    | none => s.raiseSource 167
    | some m =>
      ((s.offerPermit m).setAcc (fun a => { a with
        built := a.seq, seq := a.seq + 1, spent := decide (0xFFFFFFFF ≤ a.seq + 1) })).permitSpent

/-- A search sequence that stops before its end, with cause DONE where one was in progress (R541). -/
def State.accCut (s : State) : State :=
  let s1 := s.setAcc (fun a => { a with srch := {} })
  if s.acc.srch.phase = 0 ∧ s.acc.srch.retry = false then s1 else s1.accCause 2

/-- ACC.CFG.EN is written 0: the block stops, a search ends and a permit ends at once (R541, R557). -/
def State.accStop (s : State) : State := s.accCut.setAcc (fun a => { a with permit := none })

/-- ACC.CFG.EN is written 1 while the block is stopped: its stopped-only fields take the nearest value of their ranges (R8, R564). -/
def State.accStart (s : State) : State :=
  ((s.setFld F.accUcfgDiv (max 3 (s.fld F.accUcfgDiv))).setFld F.accUcfgUrxn (min 4 (s.fld F.accUcfgUrxn))).setFld F.accUcfgUtxn
    (min 4 (s.fld F.accUcfgUtxn))

end Sys2Proof.Machine
end

