-- ==== Sys2Proof/Machine/Inputs.lean ====
section
/-!
DEFINITION. The switch, wake and analog inputs and the sensor supplies between edges, and what the edge does with them
(06_inputs.md).
-/

namespace Sys2Proof.Machine

/-! ### Switch inputs -/

/-- A latch gives a raw state from V_D in mV (R218). -/
def State.rawOf (s : State) (i vd : Nat) : Nat :=
  let t := fun x => decide (vd < 50 * x)
  if s.bit (F.inpSwcfgCoded i) then
    if t (s.fld (F.inpSwthTlo i)) then 3 else if t (s.fld (F.inpSwthTmid i)) then 2
    else if t (s.fld (F.inpSwthThi i)) then 1 else 0
  else if t (s.fld (F.inpSwthTmid i)) then 1 else 0

/-- One counted latch of a debounced input (R219, R220). -/
def Deb.latch (x : Deb) (raw deb : Nat) : Deb :=
  if x.first then { raw := raw, d := raw, p := raw, c := 0, chg := false, first := false }
  else
    let pc := if raw = x.d then (x.p, 0) else if raw = x.p then (x.p, x.c + 1) else (raw, 1)
    if max 1 deb ≤ pc.2 then { raw := raw, d := raw, p := pc.1, c := 0, chg := true, first := false }
    else { raw := raw, d := x.d, p := pc.1, c := pc.2, chg := false, first := false }

/-- V_D of a switch input from its land and VBAT_C in mV (R217): the nearest 40 mV step, ties up, 0 to 40000. -/
def State.contactDrop (s : State) (i : Nat) : Nat :=
  let land := s.pin (.swLand i)
  let v := if s.bit (F.inpSwcfgRef i) then s.pin (.vbat 2) - land else land
  (max 0 (min 40000 (((2 * v + 40) / 80) * 40))).toNat

/-- The latch of switch input `i` at an edge, under the configuration in force before it (R216 to R220, R233). An input with
WET 0b00 has no latch; CHG and LOWV read 0. -/
def State.latchSw (s : State) (i : Nat) : State :=
  if s.fld (F.inpSwcfgWet i) = 0 ∨ s.domOn domInp = false then
    s.setSwIn i (fun x => { x with lowv := false, deb := { x.deb with chg := false } })
  else if s.pin (.vbat 2) < 8000 then
    s.setSwIn i (fun x => { x with lowv := true, deb := { x.deb with chg := false } })
  else
    let vd := s.contactDrop i
    s.setSwIn i (fun x => { x with
      vd := vd, lowv := false, deb := x.deb.latch (s.rawOf i vd) (s.fld (F.inpSwcfgDeb i)) })

/-- A coded input in OPEN or SHORT (R236, R237). -/
def State.swFault (s : State) (i : Nat) : Bool :=
  s.bit (F.inpSwcfgCoded i) && ((s.swIn i).deb.d == 0 || (s.swIn i).deb.d == 3)

/-- The latch of a switch input with what follows from it, judged under the configuration that latched it: event i where D changed and
EVSEL bit 8 asks for it (R223), and the group's source where a coded input reaches OPEN or SHORT, at its first latch too (R220, R234). Both
are noted, and raised once the staged writes of the edge have applied. -/
def State.latchNote (s : State) (i : Nat) : State :=
  let x := (s.swIn i).deb
  let t := s.latchSw i
  let y := (t.swIn i).deb
  let reach := t.swFault i && s.bit (F.inpSwcfgWflt i) && (y.chg || (x.first && !y.first))
  { t with inp := { t.inp with
    changed := if y.chg && (s.fld (F.inpSwcfgEvsel i)).testBit 0 then t.inp.changed ||| 2 ^ i else t.inp.changed
    reached := if reach then t.inp.reached ||| 2 ^ (i / 8) else t.inp.reached } }

/-- WETTING_PULSE_START: 50 µs before the closing edge the enabled inputs' pulses start, and their watch outputs freeze
(R216, R222). -/
def execWettingPulseStart (s : State) : Out :=
  let s1 := s.advance (s.beforeEdge 7500)
  .next (if s.domOn domInp then
    forEach 48 (fun t i => if s.fld (F.inpSwcfgWet i) = 0 then t else t.setSwIn i (fun x => { x with frozen := true })) s1
  else s1)

/-- The watch comparator of a switch input runs (R221). -/
def State.watchRuns (s : State) (i : Nat) : Bool :=
  s.bit (F.inpSwcfgWake i) || (s.fld (F.inpSwcfgEvsel i)).testBit 1

/-- The watch output of an input takes its comparator's reading; a change is one transition, the cause of event i where
EVSEL bit 9 asks for it (R222, R223). -/
def State.watchTake (s : State) (i : Nat) : State :=
  let x := s.swIn i
  if x.comp == x.watch then s
  else
    let s1 := s.setSwIn i (fun y => { y with watch := y.comp })
    if (s.fld (F.inpSwcfgEvsel i)).testBit 1 then s1.raiseEvent i else s1

/-- WATCH_TRANSITION: the watch comparator of a switch input reads closed, or open (R221, R223). A frozen output waits for
the end of its freeze. -/
def execWatchTransition (i : Fin 48) (closed : Bool) (s : State) : Out :=
  .next (
    if s.watchRuns i then
      let s1 := s.setSwIn i (fun x => { x with comp := closed })
      if (s.swIn i).frozen then s1 else s1.watchTake i
    else s)

/-- WATCH_FREEZE_END: at E + 5 µs the frozen watch outputs follow again (R222). -/
def execWatchFreezeEnd (s : State) : Out :=
  .next (forEach 48 (fun t i =>
      if (t.swIn i).frozen then (t.setSwIn i (fun x => { x with frozen := false })).watchTake i else t)
    (s.advance (s.frm.edgeAt + 5 * ticksPerUs)))

/-! ### Wake inputs -/

/-- Whether a wake land reads high: above 4.0 V, not below 2.0 V, as before between the two (R225). -/
def WakeIn.reads (x : WakeIn) (mv : Int) : Bool := if 4000 < mv then true else if mv < 2000 then false else x.high

/-- An enabled wake input reads its land in mV, inverted by POL (R225). -/
def State.wakeRead (s : State) (n : Nat) (mv : Int) : State :=
  let h := (s.wakeIn n).reads mv
  s.setWakeIn n (fun x => { x with high := h, active := xor h ((s.fld F.inpWakecfgPol).testBit n), land := mv })

/-- A raw transition of a wake input raises event 48 + n where EVn asks for it (R225): `was` is the reading before. -/
def State.wakeEvent (s : State) (n : Nat) (was : Bool) : State :=
  if (s.wakeIn n).active != was && (s.fld F.inpWakecfgEv).testBit n then s.raiseEvent (48 + n) else s

/-- WAKE_INPUT_TRANSITION: the land of a wake input at a voltage (R225). -/
def execWakeInputTransition (n : Fin 2) (mv : Int) (s : State) : Out :=
  let s0 := s.setPin (.wakeLand n) mv
  .next (if (s.fld F.inpWakecfgEn).testBit n then (s0.wakeRead n mv).wakeEvent n (s.wakeIn n).active else s0)

/-- The latch of a wake input at an edge (R225). -/
def State.latchWake (s : State) (n : Nat) : State :=
  if (s.fld F.inpWakecfgEn).testBit n then
    let t := (s.wakeRead n (s.pin (.wakeLand n))).wakeEvent n (s.wakeIn n).active
    t.setWakeIn n (fun x => { x with deb := { x.deb with first := false }.latch (b2n x.active) (s.fld F.inpWakecfgDeb) })
  else s.setWakeIn n (fun x => { x with deb := { x.deb with chg := false } })

/-- A staged write of INP.WAKECFG (R225): an input that stays enabled reads its land under the new POL, and a raw reading that changes is a
transition. DESIGN CHOICE: one that is newly enabled reads its land and raises no event, because no transition of it has been seen. -/
def State.applyWakecfg (s : State) (w : Word) : State :=
  let on := fun (t : State) (n : Nat) => (t.fld F.inpWakecfgEn).testBit n
  let s1 := s.applyPlain F.inpWakecfgEn.addr w
  forEach 2 (fun t n =>
    if !on t n then t
    else
      let u := t.wakeRead n (t.pin (.wakeLand n))
      if on s n then u.wakeEvent n (t.wakeIn n).active else u) s1

/-! ### Analog inputs -/

/-- An entry of an NTC table; E[64] is taken as E[63] (R228). -/
def State.ntc (s : State) (tab i : Nat) : Int :=
  let k := min i 63
  let m := 32 * tab + k / 2
  signedN (if k % 2 = 0 then s.fld (F.inpNtcEl m) else s.fld (F.inpNtcEh m)) 16

/-- VAL of a code under a table (R228); the quotient is truncated toward zero. -/
def State.linearise (s : State) (tab code : Nat) : Int :=
  let i := code / 1024
  let f : Int := ((code % 1024 : Nat) : Int)
  s.ntc tab i + Int.tdiv ((s.ntc tab (i + 1) - s.ntc tab i) * f) 1024

/-- The sample of analog input `a` (R226, R227): MV, and CODE and VAL unless a ratiometric reference was off, or in limit, at the sample. -/
def State.sampleAin (s : State) (a : Nat) : State :=
  let mode := s.fld (F.inpAincfgMode a)
  if mode = 0 then s.setAin a (fun x => { x with sample := none, ovr := false, rfail := false })
  else
    let v := s.pin (.ain a)
    let ratio := s.fld (F.inpAincfgRatio a)
    let vs := s.vsIn (ratio - 1)
    let full : Int := if ratio = 0 then 5000 else s.pin (.vsMv (ratio - 1))
    if ratio ≠ 0 ∧ (vs.on = false ∨ 60 ≤ s.pin (.vsMa (ratio - 1)) ∨ full ≤ 0) then
      s.setAin a (fun x => { x with sample := some (v, none, none), ovr := false, rfail := true })
    else
      let code := (max 0 (min 65535 (roundOpen (65535 * v) full.toNat))).toNat
      let val := if mode = 2 then some (s.linearise (s.fld (F.inpAincfgTab a)) code) else none
      s.setAin a (fun x => { x with sample := some (v, some code, val), ovr := decide (full < v), rfail := false })

/-- AIN_SAMPLE: at the start of slot S_eff - 2 every analog input is sampled with the sensor supplies (R226, R227, R238). -/
def execAinSample (w : World) (s : State) : Out :=
  let s1 := (s.observe w).advance (s.slotAt (s.seff - 2))
  .next (if s.domOn domInp then
    let s2 := forEach 4 (fun t v => t.setVs v (fun x => { x with mv := t.pin (.vsMv v), ma := t.pin (.vsMa v) })) s1
    let s3 := forEach 24 State.sampleAin s2
    { s3 with inp := { s3.inp with sampled := true } }
  else s1)

/-- A bias check runs on an analog input in this frame (R229). -/
def State.biasDue (s : State) (a : Nat) : Bool :=
  let per := s.fld F.inpBchkPer
  per != 0 && s.bit (F.inpAincfgBchk a) && s.fld (F.inpAincfgMode a) != 0 && s.frm.frame.toNat % per == 0

/-- The results of a bias check from the two land voltages in mV (R229): ZB in Ω is 20 per mV, floored at 0. -/
def State.biasCheck (s : State) (a : Nat) : State :=
  match s.biasDue a, (s.ainIn a).sample with
  | true, some (v, _, _) =>
    let b := s.pin (.ain a)
    let dz := max 0 (b - v) * 20
    s.setAin a (fun x => { x with
      chkd := true
      revs := decide (v < -300) || decide (b < -300)
      zerr := decide (dz < 100 * (s.fld (F.inpAincfgZlo a) : Int)) || decide (1000 * (s.fld (F.inpAincfgZhi a) : Int) < dz)
      zb := min 0xFFFF (quant dz 100).toNat })
  | _, _ => s

/-- BIAS_CHECK_SAMPLE: at the start of slot S_eff - 1 the biased lands are sampled and the checks decided (R229). -/
def execBiasCheckSample (w : World) (s : State) : Out :=
  let s1 := (s.observe w).advance (s.slotAt (s.seff - 1))
  .next (if s.domOn domInp && s.inp.sampled then forEach 24 State.biasCheck s1 else s1)

/-! ### Sensor supplies -/

/-- What a slot boundary notes of a sensor supply (R231): slots read below 4.5 V in a row, from 250 µs after turn-on, and
the limit. -/
def State.vsSlot (s : State) (v : Nat) : State :=
  let x := s.vsIn v
  if x.on then
    s.setVs v (fun y => { y with
      low := if x.onAt + 250 * ticksPerUs ≤ s.count ∧ s.pin (.vsMv v) < 4500 then y.low + 1 else 0
      lim := y.lim || decide (60 ≤ s.pin (.vsMa v)) })
  else s

/-- VSENS_OVERCURRENT: a supply has read below 4.5 V at the end of 8 consecutive slots; it turns off and latches OC
(R231). -/
def execVsensOvercurrent (v : Fin 4) (s : State) : Out :=
  .next (if (s.vsIn v).on && decide (8 ≤ (s.vsIn v).low) then
    s.setVs v (fun x => { x with on := false, oc := true, low := 0, rose := x.rose || !x.oc }) else s)

/-- VSENS_EXTERNAL_DRIVE: a source outside drives the land, mV, above 5.6 V or below -0.3 V; the supply turns off and EXT
sets (R231). -/
def execVsensExternalDrive (v : Fin 4) (mv : Int) (s : State) : Out :=
  let s1 := s.setPin (.vsMv v) mv
  .next (if 5600 < mv ∨ mv < -300 then s1.setVs v (fun x => { x with on := false, ext := true, low := 0, rose := x.rose || !x.ext, extF := x.extF || !x.ext }) else s1)

/-- An edge: EXT ends where the command is on and the land reads between -0.3 and 5.6 V (R231); then the supply takes its
effective command. A command that is on with INP locked off is a use of a locked-off domain (R437). -/
def State.vsEdge (s : State) (v : Nat) : State :=
  let mv := s.pin (.vsMv v)
  let s1 := if s.effVs v ∧ -300 ≤ mv ∧ mv ≤ 5600 then s.setVs v (fun x => { x with ext := false }) else s
  let s2 := s1.moveVs v
  if s.effVs v && s.domLocked domInp && !s.domOn domInp then s2.lockAccess else s2

/-! ### Staged writes of the INP block -/

/-- A staged write of an INP register applied (R219, R220, R231, R239, R240); `none` where the register has no rule of its
own. -/
def State.applyInp (s : State) (a : Nat) (w : Word) : Option State :=
  if a = F.inpWakecfgEn.addr then some (s.applyWakecfg w)
  else if 0x40040100 ≤ a ∧ a < 0x400401C0 then
    let i := (a - 0x40040100) / 4
    let old := s.reg a
    let s1 := s.applyPlain a w
    let cfg := getBits old 0 4 != getBits w 0 4
    some (s1.setSwIn i (fun x => { x with
      watch := if s1.watchRuns i then x.watch else false
      comp := if s1.watchRuns i then x.comp else false
      deb := { x.deb with
        c := if cfg then 0 else x.deb.c
        first := x.deb.first || (getBits old 0 2 == 0 && getBits w 0 2 != 0) } }))
  else if 0x40040200 ≤ a ∧ a < 0x400402C0 then
    if getBits w 0 8 < getBits w 8 8 ∧ getBits w 8 8 < getBits w 16 8 then some (s.setReg a (w &&& 0x00FFFFFF#32))
    else some (s.setBit F.inpStatCfgrej)
  else if 0x40040300 ≤ a ∧ a < 0x40040360 then
    if getBits w 0 2 = 3 ∨ 5 ≤ getBits w 2 3 then some (s.setBit F.inpStatCfgrej)
    else some (s.setReg a (w &&& 0xFFFF03FF#32))
  else if 0x40040400 ≤ a ∧ a < 0x40040410 then
    some (if w.getLsbD 0 then s.setVs ((a - 0x40040400) / 4) (fun x => { x with oc := false }) else s)
  else none

/-! ### The record of the input image -/

/-- An input counts as closed (R236). -/
def State.swClosed (s : State) (i : Nat) : Bool :=
  (s.swIn i).deb.d == (if s.bit (F.inpSwcfgCoded i) then 2 else 1)

/-- Bits 0 to n - 1 of a number, by a test. -/
def packBits (n : Nat) (p : Nat → Bool) : Nat := (upto n).foldl (fun a i => a + b2n (p i) * 2 ^ i) 0

/-- A switch record (R237). -/
def State.swRecord (s : State) (i : Nat) : State :=
  let x := s.swIn i
  let w := x.deb.raw + 4 * x.deb.d + 16 * b2n x.deb.chg + 32 * b2n (x.watch && s.watchRuns i) + 64 * b2n x.lowv
    + 128 * b2n (s.swFault i) + 256 * x.deb.c + 4096 * b2n (s.bit (F.inpSwcfgCoded i))
  (s.putIn (0x2420 + 8 * i) (TWord.nat w)).putIn (0x2424 + 8 * i) (TWord.int x.vd)

/-- A wake record (R237). -/
def State.wakeRecord (s : State) (n : Nat) : State :=
  let x := s.wakeIn n
  let w := x.deb.raw + 2 * x.deb.d + 4 * b2n x.deb.chg + 8 * b2n ((s.fld F.inpWakecfgEn).testBit n)
  (s.putIn (0x25A0 + 8 * n) (TWord.nat w)).putIn (0x25A4 + 8 * n) (TWord.int (s.pin (.wakeLand n)))

/-- Some fault bit of an analog input is set (R236). -/
def State.ainFault (s : State) (a : Nat) : Bool := let x := s.ainIn a; x.ovr || x.rfail || (s.feat 26 && (x.revs || x.zerr))

/-- An AIN record (R238). -/
def State.ainRecord (s : State) (a : Nat) : State :=
  let x := s.ainIn a
  let w := s.fld (F.inpAincfgMode a) + 4 * s.fld (F.inpAincfgRatio a) + 32 * b2n x.ovr + 64 * b2n x.rfail
    + 128 * b2n x.revs + 256 * b2n x.zerr + 512 * b2n x.chkd + 65536 * x.zb
  let o := 0x2600 + 0x10 * a
  let s1 := s.putIn o (TWord.nat w)
  match x.sample with
  | none => ((s1.putIn (o + 4) TWord.nil0).putIn (o + 8) TWord.nil0).putIn (o + 12) TWord.nil0
  | some (mv, code, val) =>
    ((s1.putIn (o + 4) (TWord.int mv)).putIn (o + 8) (match code with | some c => TWord.nat c | none => TWord.nil0)).putIn
      (o + 12) (match val with | some v => TWord.int v | none => TWord.nil0)

/-- EXT of a sensor supply as I_k has it: it stands, or the supply was shut off in frame k-1 (R55). -/
def VsIn.extSeen (x : VsIn) : Bool := x.ext || x.extF

/-- A VSENS record (R238). -/
def State.vsRecord (s : State) (v : Nat) : State :=
  let x := s.vsIn v
  let o := 0x2780 + 0x10 * v
  let w := b2n x.on + 2 * b2n s.win.safe + 4 * b2n x.lim + 8 * b2n x.oc + 16 * b2n x.extSeen
  ((s.putIn o (TWord.nat w)).putIn (o + 4) (TWord.int x.mv)).putIn (o + 8) (TWord.int x.ma)

/-- The INP region of the image has its records: samples were taken and INP is ON (R60, R226). -/
def State.inpValid (s : State) : Bool := s.inp.sampled && s.domOn domInp

/-- The words of the INP region that report the inputs, closed under the configuration of the frame that ends (R22 step 4, R235 to
R238). -/
def State.inpClose (s : State) : State :=
  if !s.inpValid then s else
  let wk := fun (f : Deb → Bool) => b2n (f (s.wakeIn 0).deb) * 2 ^ 16 + b2n (f (s.wakeIn 1).deb) * 2 ^ 17
  let s1 := s.putIn 0x2400 (TWord.nat (packBits 32 s.swClosed))
  let s2 := s1.putIn 0x2404 (TWord.nat (packBits 16 (fun i => s.swClosed (32 + i)) + wk (fun d => d.d == 1)))
  let s3 := s2.putIn 0x2408 (TWord.nat (packBits 32 (fun i => (s.swIn i).deb.chg)))
  let s4 := s3.putIn 0x240C (TWord.nat (packBits 16 (fun i => (s.swIn (32 + i)).deb.chg) + wk (fun d => d.chg)))
  let s5 := s4.putIn 0x2410 (TWord.nat (packBits 32 s.swFault))
  let s6 := s5.putIn 0x2414 (TWord.nat (packBits 16 (fun i => s.swFault (32 + i))))
  let s7 := s6.putIn 0x2418 (TWord.nat (packBits 24 s.ainFault))
  forEach 24 State.ainRecord (forEach 2 State.wakeRecord (forEach 48 State.swRecord s7))

/-- The words of the INP region that report the sensor supplies at the edge (R236, R238). -/
def State.inpRecords (s : State) : State :=
  if !s.inpValid then s else
  let s1 := s.putIn 0x241C (TWord.nat (packBits 4 (fun v => (s.vsIn v).on) + 16 * packBits 4 (fun v => (s.vsIn v).oc)
    + 256 * packBits 4 (fun v => (s.vsIn v).extSeen)))
  forEach 4 State.vsRecord s1

/-- A rise of REVS, ZERR or RFAIL of an analog input under the enables of the frame that ends (R22 step 4, R234). -/
def State.ainJudge (s : State) (a : Nat) : State :=
  let x := s.ainIn a
  let mis := (x.revs && !x.lastRevs) || (x.zerr && !x.lastZerr)
  let hit := (mis && s.bit (F.inpAincfgWmisw a)) || (x.rfail && !x.lastFail && s.bit (F.inpAincfgWrf a))
  let t := s.setAin a (fun y => { y with lastRevs := y.revs, lastZerr := y.zerr, lastFail := y.rfail })
  { t with inp := { t.inp with ainHit := t.inp.ainHit || hit } }

/-- What the inputs raise at an edge (R223, R234): events of changed switch inputs, and the sources. -/
def State.inpSources (s : State) : State :=
  let s1 := forEach 48 (fun t i => if s.inp.changed.testBit i then t.raiseEvent i else t) s
  let s2 := forEach 6 (fun t g => if s.inp.reached.testBit g then t.raiseSource (145 + g) else t) s1
  let s3 := if s.inp.ainHit then s2.raiseSource 151 else s2
  if (upto 4).any (fun v => (s.vsIn v).rose) then s3.raiseSource 152 else s3

/-- The samples of the frame are gone. -/
def State.dropSamples (s : State) : State :=
  let s1 := forEach 24 (fun t a => t.setAin a (fun x => { x with chkd := false, sample := none, ovr := false, rfail := false })) s
  { s1 with inp := { s1.inp with sampled := false } }

/-- The frame's notes of the inputs cleared for the next frame. -/
def State.inpClear (s : State) : State :=
  let s1 := forEach 4 (fun t v => t.setVs v (fun x => { x with lim := false, rose := false, extF := false })) s.dropSamples
  { s1 with inp := { s1.inp with changed := 0, reached := 0, ainHit := false } }

/-- The linearised temperature of an analog input in I_k; none without a sample (R92, R228). -/
def State.ainTemp (s : State) (a : Nat) : Option Int := ((s.ainIn a).sample).bind (fun p => p.2.2)

/-- INP leaves OFF for ON: the next counted latch of every input only sets its state (R220); nothing else is held. -/
def State.inpLost (s : State) : State := forEach 48 (fun t i => t.setSwIn i (fun x => { x with deb := { x.deb with first := true } })) s

end Sys2Proof.Machine
end

