-- ==== Sys2Proof/Machine/Switch.lean ====
section
/-!
DEFINITION. The high-side channels and half-bridges between edges: protection, samples, the wire model, shedding,
off-state checks, reversal, and the steps that come at an edge as commands of their own (02_switch_channels.md,
03_wire_faults.md).
-/

namespace Sys2Proof.Machine

/-- Event of a protection shut-off: 70 heavy, 71 standard, 72 half-bridge (R82). -/
def outEvent (o : Nat) : Nat := if o < 8 then 70 else if o < 48 then 71 else 72

/-- A trip (R97): OCCNT, TSHUT, the frame's flags, then WAIT with its due edge, or LOCK with the source. `junction` is a
junction shut-off, which also sets TLATCH; `land` is the land voltage when the comparator fired (R128). -/
def State.trip (s : State) (o : Nat) (junction : Bool) (land : Int) : State :=
  let x := s.out o
  let p := s.prot o
  let again := decide (x.retries < p.1)
  let s1 := (s.turnOff o (if again then .wait else .lock)).setOut o (fun y => { y with
    occnt := incTo 0xFFFFFFFF y.occnt
    tshut := s.stamp
    due := s.frm.frame.toNat + max 1 p.2.1
    heal := 0
    tlatch := y.tlatch || junction
    fr := { y.fr with
      oct := y.fr.oct || !junction, tht := y.fr.tht || junction, trip := true
      scg := y.fr.scg || (!junction && decide (land < 2000)) } })
  let s2 := s1.raiseEvent (outEvent o)
  if again then s2 else s2.raiseSource (outSource o)

/-- OVERCURRENT_SHUTOFF: the summed current of a channel, mA, exceeds its active threshold (R79, R97). A channel that does
not conduct, or a current within the threshold, is no trip. -/
def execOvercurrentShutoff (c : Fin 48) (amps land : Int) (s : State) : Out :=
  let e := s.gov c
  .next (if s.driven e && decide ((s.threshold e : Int) < amps) then s.trip e false land else s)

/-- JUNCTION_SHUTOFF: the junction sensor of a channel exceeds 165 °C (R79, R97). -/
def execJunctionShutoff (c : Fin 48) (deg : Int) (s : State) : Out :=
  let e := s.gov c
  .next (if s.driven e && decide (165 * 16 < deg) then s.trip e true 0x7FFFFFFF else s)

/-- HB_SHUTOFF: the current of a half-bridge, mA, exceeds its threshold in either switch, or its junction exceeds 165 °C;
a bridge trips as a whole (R113, R116). -/
def execHbShutoff (n : Fin 8) (amps deg land : Int) (s : State) : Out :=
  let e := s.gov (48 + n)
  .next (
    if !s.driven e then s
    else if 165 * 16 < deg then s.trip e true 0x7FFFFFFF
    else if (s.hbThreshold n : Int) < amps then s.trip e false land
    else s)

/-- TLATCH_CLEAR: the junction sensor of output `o` falls to 150 °C or below (R98). DESIGN CHOICE: which half's sensor clears the latch
of a formed pair R98 does not say; a reading of either half does. -/
def execTlatchClear (o : Fin 56) (deg : Int) (s : State) : Out :=
  .next (if deg ≤ 150 * 16 then s.setOut (s.gov o) (fun x => { x with tlatch := false }) else s)

/-! ### Image words of an output -/

/-- Offset of an output's record in the input image (R118). -/
def outRec (o : Nat) : Nat := if o < 48 then 0x200 + 0x40 * o else 0xE00 + 0x40 * (o - 48)

/-- Trip, clear and warning temperatures of an insulation class, in °C (R90). -/
def insTemp (i : Nat) : Nat := [70, 90, 105, 125, 150].getD i 70

/-- The wire model of a channel runs: EN of its own register; the odd member of a pair has none (R93, R95). -/
def State.wireOn (s : State) (c : Nat) : Bool := s.governs c && s.bit (F.swWireEn c)

/-- What an output's record reports of the frame that closed: of a pair of that frame, what its even member did (R22, R73, R142). DESIGN
CHOICE: at an edge that changes SW.PAIR, TRIP, OCT, THT and DIAG of frame k-1 in both records go by the pairing of that frame; R119, R121
and R142 do not say which. -/
def State.outRep (s : State) (o : Nat) : OutFrame := if (s.out o).rep.pair then (s.out (o - o % 2)).rep else (s.out o).rep

/-- The STATE word of an output's record (R121). -/
def State.outState (s : State) (o : Nat) : Nat :=
  let e := s.gov o
  let x := s.out e
  let f := s.outRep o
  let warn := decide (o < 48) && s.wireOn e &&
    decide (((insTemp (s.fld (F.swWireIns e)) : Int) - 5) * 65536 ≤ x.tc)
  x.st.code + 8 * b2n f.oct + 16 * b2n f.tht + 32 * b2n x.tlatch + 64 * b2n x.wire + 128 * b2n warn
    + 256 * b2n x.defer + 512 * b2n (s.paired o) + 1024 * b2n x.imbal + 2048 * b2n s.win.safe + 4096 * b2n x.cmd
    + 8192 * b2n (decide (48 ≤ o) && x.hb.cmdErr) + 65536 * x.retries
    + (if o < 48 then 0 else 2 ^ 20 * x.hb.mode)

/-! ### Samples and the wire model -/

/-- Resolution of an output's samples in mA (R65, R112). -/
def lsbOf (o : Nat) : Nat := if o < 8 then 16 else if o < 48 then 3 else 2

/-- A current coded as its 14-bit sample and converted back to mA (R83). -/
def codeSample (lsb : Nat) (i : Int) : Int := max (-8192) (min 8191 (roundAway i lsb)) * lsb

/-- The conductor constants of a cross-section (R89): r20 in nΩ/m, C_c in mJ/(K·m), Rth_c in mK·m/W, C_b, Rth_b. -/
def wireConst (x : Nat) : Nat × Nat × Nat × Nat × Nat :=
  [(49260000, 1210, 900, 2000, 11000), (34480000, 1730, 850, 2400, 10000), (22990000, 2590, 800, 3000, 9000),
   (17240000, 3450, 750, 3600, 8300), (11490000, 5180, 700, 4600, 7400), (6896000, 8630, 600, 6400, 6300),
   (4310000, 13800, 550, 8800, 5400), (2873000, 20700, 500, 11500, 4700), (1724000, 34500, 450, 16500, 3800),
   (1078000, 55200, 400, 23000, 3100), (690000, 86300, 350, 31000, 2600)].getD x (6896000, 8630, 600, 6400, 6300)

/-- A temperature of the wire model as an exact number of °C. -/
def degOf (t : Int) : Rat := (t : Rat) / 65536

/-- An exact temperature at the model's resolution (R88). -/
def toModel (q : Rat) : Int := quant (q * 65536).num (q * 65536).den

/-- One update of the wire model (R88): from the sample in mA and the slot length in cycles of 150 MHz. Both nodes use the
values held before. -/
def wireStep (xsec bundle : Nat) (ta tc tb amps : Int) (cycles : Nat) : Int × Int :=
  let k := wireConst xsec
  let r20 : Rat := (k.1 : Rat) / 1000000000
  let cc : Rat := (k.2.1 : Rat) / 1000
  let rc : Rat := (k.2.2.1 : Rat) / 1000
  let cb : Rat := (k.2.2.2.1 : Rat) / 1000
  let rb : Rat := (k.2.2.2.2 : Rat) / 1000
  let b : Rat := (bundle : Rat) / 64
  let dt : Rat := (cycles : Rat) / 150000000
  let i : Rat := (amps : Rat) / 1000
  let c := degOf tc
  let s := degOf tb
  let a : Rat := (ta : Rat) / 16
  let p := i * i * r20 * (1 + (393 / 100000) * (c - 20))
  (toModel (c + dt * (p - (c - s) / rc) / cc), toModel (s + dt * ((c - s) / rc - (s - a) / (b * rb)) / cb))

/-- A wire trip (R94): a protection shut-off that latches WIRE and leads to LOCK; it counts no retry and no trip. Under a
reversed supply WIRE latches and the state becomes LOCK, and the output stays in reverse-on with its counters as they
are (R133). DESIGN CHOICE: R133 keeps trips, OCCNT and RETRIES and is silent on the rest of R94; the model then raises no event 70 or 71,
sets no TRIP bit and stamps no TSHUT, because nothing shuts off. -/
def State.wireTrip (s : State) (c : Nat) : State :=
  if (s.out c).dg.revOn then
    (s.setOut c (fun y => { y with wire := true, st := .lock, window := none })).raiseSource (outSource c)
  else
  let s1 := (s.turnOff c .lock).setOut c (fun y => { y with
    wire := true, occnt := incTo 0xFFFFFFFF y.occnt, tshut := s.stamp, heal := 0
    fr := { y.fr with trip := true } })
  (s1.raiseEvent (outEvent c)).raiseSource (outSource c)

/-- The latest sample of an output in the frame, mA. DESIGN CHOICE: an output without one (its domain is not ON) gives 0, also in the
stream, of which R85 does not say what it then holds. -/
def State.lastSample (s : State) (o : Nat) : Int := (s.out o).fr.samples.headD 0

/-- The latest sample on which an output's governing member acts: of a channel pair, the sum (R72). -/
def State.sumSample (s : State) (o : Nat) : Int :=
  if o < 48 && s.paired o then s.lastSample o + s.lastSample (o + 1) else s.lastSample o

/-- The wire model of channel `c` updated at a slot sample, and its trip (R88, R94). A model already latched does not trip
again, and no trip counts while the channel's group is held off (R422). -/
def State.wireUpdate (s : State) (c : Nat) : State :=
  if s.wireOn c && s.domOn (domOf c) then
    let x := s.out c
    let r := wireStep (s.fld (F.swWireXsec c)) (s.fld (F.swWireBundle c)) x.ta x.tc x.tb (s.sumSample c)
      (s.slotLen s.frm.slot)
    let s1 := s.setOut c (fun y => { y with tc := r.1, tb := r.2 })
    if decide ((insTemp (s.fld (F.swWireIns c)) : Int) * 65536 ≤ r.1) && (s.driven c || (x.dg.revOn && !x.wire)) then s1.wireTrip c
    else s1
  else s

/-- The sample of one output taken from its sensor (R83), inverse current noted (R130); none while its domain is not ON. -/
def State.takeSample (s : State) (o : Nat) : State :=
  if s.domOn (domOf o) then
    s.setOut o (fun x => { x with fr := { x.fr with
      samples := codeSample (lsbOf o) (s.pin (.outI o)) :: x.fr.samples } })
  else s

/-- Inverse current of a channel noted on the sample that governs it (R130). -/
def State.noteInverse (s : State) (c : Nat) : State :=
  if s.governs c && decide (s.sumSample c < (if c < 8 then -1250 else -300)) then
    s.setOut c (fun x => { x with fr := { x.fr with inv := true } })
  else s

/-- The stall count of a half-bridge after a slot sample (R137): it runs in a drive mode once STBLANK frames have passed; a slot in
which it does not run breaks the row of consecutive slots. -/
def State.stallCount (s : State) (n : Nat) : State :=
  let o := 48 + n
  if !s.governs o then s else
  let x := s.out o
  let th := s.fld (F.swHbstallStth n)
  let drive := if s.paired o then x.hb.mode = 1 ∨ x.hb.mode = 2 else x.hb.mode ≠ 0
  if th ≠ 0 ∧ drive ∧ s.driven o ∧ s.fld (F.swHbstallStblank n) ≤ x.hb.modeEdges then
    s.setOut o (fun y => { y with hb := { y.hb with
      stallRun := if (th : Int) ≤ |s.lastSample o| then y.hb.stallRun + 1 else 0 } })
  else s.setOut o (fun y => { y with hb := { y.hb with stallRun := 0 } })

/-- A reading of a die sensor enters TDMAX and OT of the frame (R120). -/
def State.dieReads (s : State) (d : Nat) : State :=
  let t := s.pin (.die d)
  s.setDie d (fun x => { x with
    tmax := some (match x.tmax with | some m => max m t | none => t)
    ot := x.ot || decide (170 * 16 ≤ t) })

/-- The reading of a die sensor at a slot (R106, R120). -/
def State.dieSample (s : State) (d : Nat) : State :=
  if s.domOn (if d < 2 then 3 else 4) then
    (s.dieReads d).setDie d (fun x => { x with hot := x.hot && decide (170 * 16 ≤ s.pin (.die d)), hotSlots := x.hotSlots + 1 })
  else s

/-- The continuous rating of a channel or pair in mA (R65). -/
def State.rating (s : State) (c : Nat) : Int :=
  (if c < 8 then 25000 else 6000) * (if s.paired c then 2 else 1)

/-- Inverse current beyond a channel's rating (R131), and a reversal beyond the limits of R134: uses that the device does
not check. The rule that calls the result undefined. -/
def State.inverseUnchecked (s : State) : Option Nat :=
  let beyond := (upto 48).any (fun c => s.governs c && decide (s.sumSample c < -s.rating c))
  let sum := fun g => ((upto 48).filter (fun c => groupOf c == g)).foldl (fun a c => a + min 0 (s.lastSample c)) (0 : Int)
  if (s.grp 0).reversed && (beyond || decide (sum 0 < -120000)) then some 134
  else if (s.grp 1).reversed && (beyond || decide (sum 1 < -100000)) then some 134
  else if beyond then some 131
  else none

/-- Every channel and half-bridge sampled at the midpoint of the slot, with what follows from the samples. -/
def State.swSample (s : State) : State :=
  let s1 := forEach 56 State.takeSample s
  let s2 := forEach 48 State.noteInverse s1
  let s3 := forEach 48 State.wireUpdate s2
  forEach 7 State.dieSample (forEach 8 State.stallCount s3)

/-! ### Shedding -/

/-- Some channel of a die is in SHED. -/
def State.shedding (s : State) (d : Nat) : Bool := (dieChans d).any (fun k => (s.out k).st == .shed)

/-- A channel's shedding priority (R105). -/
def State.shedPriOf (s : State) (c : Nat) : Nat :=
  if (s.out c).window.isSome then s.fld (F.swInrPri c) else s.fld (F.swProtShpri c)

/-- One shedding step of a die (R106): every channel in ON or INR at the lowest priority present is shed; its source
sets. The first step on any die after all were free of shedding raises event 73 (R82). DESIGN CHOICE: a step that finds no channel on counts
as a step, so that a channel that turns on later is shed eight slots after it; R106 does not say. -/
def State.shedStep (s : State) (d : Nat) : State :=
  let on := (dieChans d).filter (fun c => s.governs c && (s.out c).isOn)
  match on.map s.shedPriOf with
  | [] => s.setDie d (fun x => { x with hot := true, hotSlots := 0 })
  | p :: ps =>
    let lo := ps.foldl min p
    let first := !(upto 7).any s.shedding
    let victims := on.filter (fun c => s.shedPriOf c == lo)
    let s1 := victims.foldl (fun t c =>
      ((t.turnOff c .shed).setOut c (fun x => { x with shedPri := lo })).raiseSource (outSource c)) s
    let s2 := s1.setDie d (fun x => { x with
      hot := true, hotSlots := 0
      shedLvl := if s.shedding d then max x.shedLvl lo else lo })
    if first then s2.raiseEvent 73 else s2

/-- DIE_SHED: a die sensor reads 170 °C or more in a slot, and no shedding step of this rise has been made (R106). -/
def execDieShed (d : Fin 7) (deg : Int) (s : State) : Out :=
  let s1 := s.setPin (.die d) deg
  .next (if 170 * 16 ≤ deg ∧ (s.dieOf d).hot = false then (s1.dieReads d).shedStep d else s1)

/-- SHED_ESCALATE: eight slots after a shedding step the sensor still reads 170 °C or more (R106). -/
def execShedEscalate (d : Fin 7) (deg : Int) (s : State) : Out :=
  let s1 := s.setPin (.die d) deg
  .next (if 170 * 16 ≤ deg ∧ (s.dieOf d).hot = true ∧ 8 ≤ (s.dieOf d).hotSlots then (s1.dieReads d).shedStep d else s1)

/-! ### Stall -/

/-- HB_STALL: the slot count of a half-bridge or bridge has reached STN (R137). With STACT the output stops and event 72
is raised; RETRIES and OCCNT do not change (R138). DESIGN CHOICE: with STACT 0 a stall that goes on is detected again after another STN
slots; R137 does not say whether every further slot is a stall. -/
def execHbStall (n : Fin 8) (s : State) : Out :=
  let o := s.gov (48 + n)
  let i := o - 48
  let x := s.out o
  .next (
    if max 1 (s.fld (F.swHbstallStn i)) ≤ x.hb.stallRun then
      let s1 := s.setOut o (fun y => { y with hb := { y.hb with stallRun := 0 }, fr := { y.fr with stall := true } })
      if s.bit (F.swHbstallStact i) then
        (s1.setOut o (fun y => { y with hb := { y.hb with stopped := true } })).raiseEvent 72
      else s1
    else s)

/-! ### Off-state checks -/

/-- The pull-up selected for an output's check (R124, R142). -/
def State.checkPu (s : State) (o : Nat) : Nat :=
  let e := s.gov o
  if e < 48 then s.fld (F.swDcfgPu e) else s.fld (F.swHbdcfgPu (e - 48))

/-- BLANK of an output's check. -/
def State.checkBlank (s : State) (o : Nat) : Nat :=
  let e := s.gov o
  if e < 48 then s.fld (F.swDcfgBlank e) else s.fld (F.swHbdcfgBlank (e - 48))

/-- An output counts as off for its check: a channel in OFF, WAIT, LOCK or SHED; a half-bridge off, coasting or
stall-stopped (R124). -/
def State.checkOff (s : State) (o : Nat) : Bool := let x := s.out o; !x.isOn || x.hb.stopped

/-- The conditions of R124 at the edge that opens a frame. -/
def State.checkArm (s : State) (o : Nat) : Bool :=
  s.checkPu o != 0 && s.checkOff o && decide (s.checkBlank o < (s.out o).dg.offEdges) && s.domOn (domOf o)
    && decide (9000 ≤ s.pin (.vbat (groupOf o)))

/-- A check runs on the output in this frame (R124). -/
def State.checkRuns (s : State) (o : Nat) : Bool :=
  let d := (s.out o).dg
  s.governs o && d.chkOk && d.offAll && s.checkOff o && s.domOn (domOf o)

/-- OFF_STATE_PHASE_A: the land of an off output is sampled at the end of slot h - 1, h = floor(S_eff / 2) (R125); of a full
bridge, both lands (R136). -/
def execOffStatePhaseA (o : Fin 56) (land odd : Int) (s : State) : Out :=
  .next (
    if s.checkRuns o then
      let v := if 48 ≤ o.val ∧ s.paired o then max 0 (land - odd) else land
      (s.advance (s.slotAt (s.seff / 2))).setOut o (fun x => { x with dg := { x.dg with phaseA := some v } })
    else s)

/-- The 2.5 V threshold of OL with its tolerance of ±0.3 V (R126): an open value within the bounds. -/
def State.olThreshold (s : State) : Int := 2200 + ((Config.freeNat s.free % 601 : Nat) : Int)

/-- OFF_STATE_CHECK: the land is sampled at the end of slot S_eff - 3, and the check is decided (R125, R126, R136). DESIGN CHOICE: a
negative phase-A land voltage of a channel or a single half-bridge reads 0 in VPU, for which R140 gives a floor for the full bridge
alone. -/
def execOffStateCheck (o : Fin 56) (land odd : Int) (s : State) : Out :=
  .next (
    match s.checkRuns o, (s.out o).dg.phaseA with
    | true, some a =>
      let half := s.pin (.vbat (groupOf o))
      let full := decide (48 ≤ o.val) && s.paired o
      let en := if o.val < 48 then s.bit (F.swDcfgStben o) else s.bit (F.swHbdcfgStben (o - 48))
      let stb := en && (decide (half ≤ 2 * land) || (full && decide (half ≤ 2 * odd)))
      let ol := !stb && decide (s.olThreshold ≤ a)
      let s1 := s.advance (s.slotAt (s.seff - 2))
      { s1 with free := s.free + 1 }.setOut o (fun x => { x with
        fr := { x.fr with chk := true }
        dg := { x.dg with phaseA := none, ol := ol, stb := stb, vpu := min 0xFFFF a.toNat } })
    | _, _ => s)

end Sys2Proof.Machine
end

