-- ==== Sys2Proof/Machine/SwitchEdge.lean ====
section
/-!
DEFINITION. What an edge does with the high-side channels and half-bridges: statistics, staged writes, transitions and
the records of the input image (R22, R71 to R142).
-/

namespace Sys2Proof.Machine

/-! ### Staged writes of the SW block -/

/-- Ambient of a channel's wire model at an edge, 1/16 °C (R92). DESIGN CHOICE: an AIN in MODE 2 whose value is NIL because its
reference failed (RFAIL) gives SW.WAMB.DEG, as one without a sample does; R92 names the missing sample alone. -/
def State.ambient (s : State) (c : Nat) : Int :=
  let amb := s.fld (F.swWireAmb c)
  if amb < 24 then (s.ainTemp amb).getD (s.sfld F.swWambDeg) else s.sfld F.swWambDeg

/-- The model's temperature at a start from an ambient (R93). -/
def State.startTemp (s : State) (ta : Int) : Int := (ta + (s.fld F.swWinitRise : Int)) * 4096

/-- The wire model of a channel starts at the T_a of the frame (R92, R93). -/
def State.startModel (s : State) (c : Nat) : State :=
  s.setOut c (fun x => { x with tc := s.startTemp x.ta, tb := s.startTemp x.ta, modelStart := false })

/-- A change of SW.PAIR (R71): bit by bit, where both outputs are in OFF; else refused for that pair. A pair that is split
starts the odd channel's model if its EN is 1 (R93). -/
def State.applyPair (s : State) (w : Word) : State :=
  let change := fun (t : State) (bit : Nat) =>
    let o := if bit < 24 then 2 * bit else 48 + 2 * (bit - 24)
    let old := (t.reg 0x40010008).getLsbD bit
    let new := w.getLsbD bit
    if old == new then t
    else if (t.out o).st = .off ∧ (t.out (o + 1)).st = .off then
      let t1 := t.setReg 0x40010008 (setBits (t.reg 0x40010008) bit 1 (b2n new))
      let t2 := (t1.setOut o (fun x => { x with imbal := false, imbalRun := 0 }))
      if o < 48 ∧ new = false ∧ t2.bit (F.swWireEn (o + 1)) then t2.setOut (o + 1) (fun x => { x with modelStart := true }) else t2
    else t.setBit F.swStatPairrej
  forEach 28 change s

/-- A clear of an output (R102): accepted with TLATCH clear and T_c at or below the clear temperature; then RETRIES is 0,
WIRE clears and LOCK becomes OFF. A model that starts at this edge has its starting temperature. DESIGN CHOICE: while the channel's domain
is OFF, the T_c held before it is judged; R433 says that it is lost, and R102 does not say what a clear then asks for. -/
def State.applyClear (s : State) (o : Nat) : State :=
  let x := s.out o
  let tc := if x.modelStart then s.startTemp (s.ambient o) else x.tc
  let cool := decide (48 ≤ o) || !s.bit (F.swWireEn o) ||
    decide (tc ≤ ((insTemp (s.fld (F.swWireIns o)) : Int) - 10) * 65536)
  if !s.governs o then s
  else if !x.tlatch && cool then
    s.setOut o (fun y => { y with retries := 0, wire := false, st := if y.st = .lock then .off else y.st })
  else s.setBit F.swStatClrrej

/-- A staged write of SW.WIRE (R91, R93): refused whole when it holds a reserved code. -/
def State.applyWire (s : State) (c : Nat) (w : Word) : State :=
  let amb := getBits w 17 5
  if 11 ≤ getBits w 1 4 ∨ 5 ≤ getBits w 5 3 ∨ (24 ≤ amb ∧ amb ≤ 30) then s.setBit F.swStatWirerej
  else
    let was := s.bit (F.swWireEn c)
    let s1 := s.applyPlain (0x40010400 + 4 * c) w
    if !was && s1.bit (F.swWireEn c) then s1.setOut c (fun x => { x with modelStart := true }) else s1

/-- A staged write of an SW register that has a rule of its own. Limits wait for every other write of the edge (R75). -/
def State.applySw (s : State) (a : Nat) (w : Word) : Option State :=
  if a = 0x40010008 then some (s.applyPair w)
  else if 0x40010100 ≤ a ∧ a < 0x400102C0 then some s
  else if 0x40010400 ≤ a ∧ a < 0x400104C0 then some (s.applyWire ((a - 0x40010400) / 4) w)
  else if 0x40010500 ≤ a ∧ a < 0x400105C0 then some (if w.getLsbD 0 then s.applyClear ((a - 0x40010500) / 4) else s)
  else if 0x40010600 ≤ a ∧ a < 0x40010620 then
    let n := (a - 0x40010600) / 4
    let s1 := s.applyPlain a w
    some (if s.fld (F.swHbcfgFreq n) = s1.fld (F.swHbcfgFreq n) then s1
      else s1.setOut (48 + n) (fun x => { x with hb := { x.hb with carrierAt := s.frm.edgeAt } }))
  else if 0x40010660 ≤ a ∧ a < 0x40010680 then some (if w.getLsbD 0 then s.applyClear (48 + (a - 0x40010660) / 4) else s)
  else if 0x400107E0 ≤ a ∧ a < 0x40010800 then
    let th := getBits w 0 14
    some (s.setReg a (setBits (setBits w 14 8 (max 1 (getBits w 14 8))) 0 14 (if th = 0 then 0 else clampN 1000 16000 th)))
  else none

/-- A staged write of a limit or a window, after the pairing of the edge stands (R75). -/
def State.applyLimit (s : State) (a : Nat) (w : Word) : State :=
  if 0x40010100 ≤ a ∧ a < 0x400101C0 then
    let c := (a - 0x40010100) / 4
    s.setFld (F.swLimAmps c) (s.limStore c (getBits w 0 18))
  else if 0x40010200 ≤ a ∧ a < 0x400102C0 then
    let c := (a - 0x40010200) / 4
    (s.applyPlain a w).setFld (F.swInrAmps c) (s.limStore c (getBits w 0 18))
  else s

/-! ### Statistics of the closing frame -/

/-- The samples that an output's record reports: of the even member of a pair the sums, else its own (R73). -/
def State.recSamples (s : State) (o : Nat) : List Int :=
  let own := (s.out o).fr.samples
  if o < 48 then (if s.paired o && o % 2 == 0 then List.zipWith (· + ·) own (s.out (o + 1)).fr.samples else own)
  else (s.out (s.gov o)).fr.samples

/-- IMEAN of samples, mA (R84). -/
def meanOf (l : List Int) : Int := roundAway (l.foldl (· + ·) 0) l.length

/-- IRMS of samples, mA (R84): the root of the mean square, to the nearest. -/
def rmsOf (l : List Int) : Int :=
  (((isqrt (4 * (l.foldl (fun a x => a + x * x) 0).toNat / l.length) + 1) / 2 : Nat) : Int)

/-- IMEAN, IPEAK, IMIN and IRMS of a frame's samples (R84); a frame without a sample has none to report, and the four values
are open. -/
def State.stats (s : State) (l : List Int) : Int × Int × Int × Int :=
  match l with
  | [] => ((Config.freeWord s.free).toInt, (Config.freeWord (s.free + 1)).toInt, (Config.freeWord (s.free + 2)).toInt,
      (Config.freeWord (s.free + 3)).toInt)
  | x :: t => (meanOf l, t.foldl max x, t.foldl min x, rmsOf l)

/-- A record's statistics words at an offset. -/
def State.putStats (s : State) (o : Nat) (l : List Int) : State :=
  let q := s.stats l
  let s1 := (((s.putIn (o + 4) (TWord.int q.1)).putIn (o + 8) (TWord.int q.2.1)).putIn (o + 12) (TWord.int q.2.2.1)).putIn
    (o + 16) (TWord.int q.2.2.2)
  if l.isEmpty then { s1 with free := s1.free + 4 } else s1

/-- Segments of a channel: active and spare (R65). -/
def segCount (c : Nat) : Nat := if c < 8 then 4 else 3

/-- ACTIVE bits of a channel (R121): the spare is the highest segment. DESIGN CHOICE: the bits name the segments in service and keep
their value while the channel is off; the table says 1 if carrying current. -/
def OutSeg.active (x : OutSeg) (c : Nat) : Nat :=
  match x.out with
  | none => 2 ^ segCount c - 1
  | some k => 2 ^ (segCount c + 1) - 1 - 2 ^ k

/-- The on-resistance and drift of a channel measured for the frame that closes (R109): while it is on and its mean current
is at least 10 % of its rating. DESIGN CHOICE: R109 does not say how a frame counts in which that held in part; the model takes the
channel's state at the closing edge and the frame's mean current. Nor does it speak of a pair; both halves are measured while the pair's
mean current is at least 10 % of the pair's rating. -/
def State.measureSeg (s : State) (c : Nat) : State :=
  let e := s.gov c
  let l := s.recSamples e
  let on := (s.out e).isOn && s.domOn (domOf c) && decide (s.rating e ≤ 10 * meanOf l) && !l.isEmpty
  s.setOut c (fun x =>
    let act := x.seg.active c
    let worst := ((upto 5).filter (fun k => act.testBit k)).foldl (fun m k => max m (s.pin (.segDrift c k)).toNat) 0
    { x with seg := { x.seg with drift := if on then min 0xFFFF worst else 0, ron := if on then (s.pin (.ron c)).toNat else 0 } })

/-- A pair is out of balance in the closing frame (R74). -/
def State.imbalanced (s : State) (c : Nat) : Bool :=
  let sum := fun k => (s.out k).fr.samples.foldl (· + ·) (0 : Int)
  let n : Int := (s.out c).fr.samples.length
  let tot := sum c + sum (c + 1)
  decide (0 < n) && decide ((if c < 8 then 5000 else 1200) * n ≤ tot)
    && (decide (3 * tot < 5 * sum c) || decide (3 * tot < 5 * sum (c + 1)))

/-- The counts of an output over the frame that closes: healing frames (R101), which a reversed frame neither adds to nor ends (R133),
low mean frames (R129), imbalance (R74); what a turn-on of the last frame clears (R127). DESIGN CHOICE: a frame inside which the safe image
turned the output on counts as a healing frame; R101 does not say. -/
def State.countFrame (s : State) (o : Nat) : State :=
  let x := s.out o
  let l := s.recSamples o
  let th := if o < 48 then s.fld (F.swDcfgOnolth o) else s.fld (F.swHbdcfgOnolth (o - 48))
  let low := !l.isEmpty && decide (|meanOf l| < (th : Int))
  let imb := decide (o < 48) && s.paired o && o % 2 == 0 && s.imbalanced o
  s.setOut o (fun y => { y with
    heal := if y.fr.rev then y.heal else if x.isOn && !y.fr.trip then y.heal + 1 else 0
    imbalRun := if imb then y.imbalRun + 1 else 0
    imbal := y.imbal && imb
    dg := { y.dg with
      lowRun := if low then y.dg.lowRun + 1 else 0
      pend := s.checkPu o != 0 && !(x.dg.chkOk && x.dg.offAll)
      ol := y.dg.ol && !y.dg.clrOl, stb := y.dg.stb && !y.dg.clrOl, clrOl := false } })

/-- The SEG and RON words of a record: the segments as they stood before the edge, so that a substitution shows in the next image
(R110, R121). -/
def State.putSeg (s : State) (o : Nat) : State :=
  let x := (s.out o).seg
  let w := if o < 48 then x.active o + 32 * b2n x.out.isNone + 65536 * x.drift else 0
  (s.putIn (outRec o + 0x24) (TWord.nat w)).putIn (outRec o + 0x28) (TWord.nat (if o < 48 then x.ron else 0))

/-- IDIE of a die record (R120): a pair of the frame that closes counts once, by its even record. -/
def State.dieSum (s : State) (d : Nat) : State :=
  if s.domOn (if d < 2 then 3 else 4) then
    s.putIn (0x120 + 0x20 * d + 12)
      (TWord.int (((dieChans d).filter s.governs).foldl (fun a c => a + (s.inWord (outRec c + 4)).sint) (0 : Int)))
  else s

/-- The words of the SW region that report the frame that closes, under its configuration (R22 step 4, R118 to R121); its notes then
pass to the image, and the next frame's begin. -/
def State.swClose (s : State) : State :=
  let s1 := forEach 48 State.measureSeg s
  let s2 := forEach 56 State.countFrame s1
  let s3 := forEach 56 (fun t o =>
    if t.domOn (domOf o) then
      let r := outRec o
      ((t.putStats r (t.recSamples o)).putIn (r + 0x14) (TWord.int (t.pin (.outV o)))).putSeg o
    else t) s2
  let s4 := forEach 56 (fun t o => t.setOut o (fun x => { x with rep := { x.fr with pair := s.paired o }, fr := { rev := x.dg.revOn } }))
    (forEach 7 State.dieSum s3)
  let s5 := forEach 7 (fun t d => t.setDie d (fun x => { x with tmaxRep := x.tmax, otRep := x.ot, tmax := none, ot := false })) s4
  forEach 8 State.hbNote s5

/-! ### Transitions -/

/-- The transitions of a channel at an edge (R25, R103, R107, R422). `back` says that its group, or the whole device, returns
to its outputs at this edge. While the group is held off the state stays (R422), and a commit of off closes the window (R78). -/
def State.edgeCh (s : State) (back : Nat → Bool) (c : Nat) : State :=
  let on := s.effCh c
  let s0 := s.setOut c (fun x => { x with cmd := on })
  if !s.governs c then s0 else
  let x := s.out c
  let d := domOf c
  if on && s.domLocked d && x.st == .off then s0.lockAccess
  else if on && !s.domOn d then s0.demand d
  else if s.groupOff (groupOf c) then (if on then s0 else s0.setOut c (fun y => { y with window := none }))
  else if on then
    (if !s.canDrive c then s0
     else match x.st with
      | .off => s0.turnOn c
      | .on | .inr => if back (groupOf c) then (s0.turnOn c).setOut c (fun y => { y with heal := x.heal }) else s0
      | _ => s0)
  else
    (match x.st with
    | .on | .inr => s0.turnOff c .off
    | .wait | .shed => s0.setOut c (fun y => { y with st := .off, window := none })
    | _ => s0)

/-- The transitions of a half-bridge at an edge (R112, R116, R117, R138). CMDERR reports the committed word (R121). -/
def State.edgeHb (s : State) (n : Nat) : State :=
  let o := 48 + n
  let m := s.effHb n
  let e := s.gov o - 48
  let err := decide (4 ≤ getBits (s.committed (0x1C0 + 8 * e)) 0 3)
  let x := s.out o
  let s0 := (s.takeMode o m).setOut o (fun z => { z with
    cmd := m.1 != 0
    hb := { z.hb with cmdErr := err, modeEdges := if m.1 ≠ x.hb.mode then 0 else z.hb.modeEdges + 1 } })
  if !s.governs o then s0 else
  if m.1 != 0 && s.domLocked 5 && x.st == .off then s0.lockAccess
  else if m.1 != 0 && !s.domOn 5 then s0.demand 5
  else if s.groupOff 2 then s0
  else if m.1 != 0 then (if x.st = .off ∧ s.canDrive o then s0.turnOnHb o else s0)
  else
    (match x.st with
    | .on | .inr => s0.turnOff o .off
    | .wait | .shed => s0.setOut o (fun y => { y with st := .off })
    | _ => s0)

/-- A half-bridge takes its effective command once more at the edge, which has counted for STBLANK (R137). -/
def State.hbAgain (s : State) (n : Nat) : State :=
  let x := s.out (48 + n)
  ((s.hbNote n).edgeHb n).setOut (48 + n) (fun y =>
    { y with hb := { y.hb with modeEdges := if y.hb.mode = x.hb.mode then x.hb.modeEdges else y.hb.modeEdges } })

/-- Shed channels of a die restored at an edge: the highest priority level, while the sensor reads 155 °C or less (R107). DESIGN CHOICE: the
level is the priority that each channel had when it was shed; R107 does not say whether a later SHPRI orders the restoration. -/
def State.restoreDie (s : State) (d : Nat) : State :=
  let shed := (dieChans d).filter (fun c => (s.out c).st == .shed)
  if s.pin (.die d) ≤ 155 * 16 then
    let top := shed.foldl (fun m c => max m (s.out c).shedPri) 0
    let s1 := (shed.filter (fun c => (s.out c).shedPri == top && s.effCh c && s.canDrive c)).foldl State.turnOn s
    let left := (dieChans d).filter (fun c => (s1.out c).st == .shed)
    s1.setDie d (fun x => { x with shedLvl := left.foldl (fun m c => max m (s1.out c).shedPri) 0 })
  else s

/-- Some other channel of the die has a window that was open before the edge and does not close at it (R99). -/
def State.dieWindow (s : State) (c : Nat) : Bool :=
  (dieChans (dieNo c)).any (fun k => k != c && (match (s.out k).window with
    | some (o, e) => decide (o < s.frm.edgeAt) && decide (s.frm.edgeAt < e)
    | none => false))

/-- The priority a channel would take on restart (R99, R105). -/
def State.restartPri (s : State) (c : Nat) : Nat :=
  if s.fld (F.swInrMs c) = 0 then s.fld (F.swProtShpri c) else s.fld (F.swInrPri c)

/-- The restart conditions of R99 but for the neighbours' windows. -/
def State.restartDue (s : State) (o : Nat) : Bool :=
  let x := s.out o
  s.governs o && x.st == .wait && decide (x.due ≤ s.frm.frame.toNat) && s.effOn o && !x.tlatch && !x.wire
    && s.canDrive o
    && (decide (48 ≤ o) || !(s.shedding (dieNo o) && decide (s.restartPri o ≤ (s.dieOf (dieNo o)).shedLvl)))

/-- DEFER of a channel at an edge: its restart is due and only a neighbour's window holds it (R99). -/
def State.deferAt (s : State) (c : Nat) : State :=
  s.setOut c (fun x => { x with defer := s.restartDue c && s.dieWindow c })

/-- ONOLN of an output as a number of frames, and ONOLTH in mA (R129). -/
def State.onolCfg (s : State) (o : Nat) : Nat × Nat :=
  if o < 48 then ([1, 4, 16, 64].getD (s.fld (F.swDcfgOnoln o)) 4, s.fld (F.swDcfgOnolth o))
  else ([1, 4, 16, 64].getD (s.fld (F.swHbdcfgOnoln (o - 48))) 4, s.fld (F.swHbdcfgOnolth (o - 48)))

/-- ONOL of an output judged at an edge (R129): N edges in ON, N frames of low mean current. -/
def State.judgeOnol (s : State) (o : Nat) : State :=
  let n := s.onolCfg o
  s.setOut o (fun y => { y with dg := { y.dg with
    onol := decide (n.2 ≠ 0) && decide (n.1 ≤ y.dg.onRun) && decide (n.1 ≤ y.dg.lowRun) } })

/-- An output is in state ON for the count of R129: a half-bridge, in a mode other than OFF and COAST. -/
def Outp.countsOn (x : Outp) (o : Nat) : Bool := x.st == .on && (decide (o < 48) || x.hb.mode != 0)

/-- The diagnostics of an output as an edge leaves them (R124, R129): edges since it last conducted, edges in ON, arming of the next
frame's check, ONOL. -/
def State.diagEdge (s : State) (o : Nat) : State :=
  let conducts := s.driven o || (s.out o).dg.revOn
  let s1 := (s.setOut o (fun y => { y with dg := { y.dg with
    onRun := if y.countsOn o then y.dg.onRun + 1 else 0
    onWas := y.dg.onRun
    offEdges := if conducts then 0 else y.dg.offEdges + 1 } })).judgeOnol o
  s1.setOut o (fun y => { y with dg := { y.dg with chkOk := s1.checkArm o, offAll := s1.checkOff o, phaseA := none } })

/-- The DIAG word of an output's record (R140, R142): what it reports of the frame goes by the pairing of the frame, the rest by the
pairing at the edge. -/
def State.diagWord (s : State) (o : Nat) : Nat :=
  let f := s.outRep o
  let x := s.out (s.gov o)
  let d := x.dg
  b2n d.ol + 2 * b2n d.stb + 4 * b2n f.scg + 8 * b2n d.onol + 16 * b2n f.inv + 32 * b2n f.rev
    + 64 * b2n f.chk + 128 * b2n (d.pend && !f.chk) + 256 * b2n f.stall + 512 * b2n x.hb.stopped + 65536 * d.vpu

/-- The sources that a rising DIAG bit sets (R141): one that reads 1 in I_k, also where a step at the edge itself brings it, and read
0 in the image before. The record of a domain that is not ON reads 0. -/
def State.diagSource (s : State) (o : Nat) : State :=
  let w := if s.domOn (domOf o) then s.diagWord o else 0
  let d := (s.out o).dg
  let mask := if o < 48 then getBits (s.reg (0x40010700 + 4 * o)) 26 6 else getBits (s.reg (0x400107C0 + 4 * (o - 48))) 26 4
  let new := fun (i : Nat) => w.testBit i && !d.last.testBit i && !d.prev.testBit i
  let rise := (upto 6).any (fun i => new i && mask.testBit i)
  let stall := decide (48 ≤ o) && new 8 && s.bit (F.swHbstallWstall (o - 48))
  let s1 := s.setOut o (fun x => { x with dg := { x.dg with last := w } })
  if s.governs o && (rise || stall) then s1.raiseSource (outSource o) else s1

/-! ### Records -/

/-- A temperature of the wire model in 1/16 °C. -/
def modelDeg (t : Int) : Int := quant t 4096

/-- The words of an output's record that report the edge (R121). DESIGN CHOICE: OCCNT and TSHUT of the odd half-bridge of a full bridge
repeat the even record's, as those of a pair's odd channel do (R73); R113 is silent on them. -/
def State.outRecord (s : State) (o : Nat) : State :=
  let r := outRec o
  let e := s.gov o
  let x := s.out e
  let model := fun (t : Int) => if o < 48 then (if s.wireOn e then TWord.int (modelDeg t) else TWord.nil0) else TWord.nat0
  let s1 := s.putIn r (TWord.nat (s.outState o))
  let s2 := s1.putIn (r + 0x18) (TWord.int (s.pin (.outTj o)))
  let s3 := (s2.putIn (r + 0x1C) (model x.tc)).putIn (r + 0x20) (model x.tb)
  let s5 := (s3.putIn (r + 0x2C) (TWord.nat x.occnt)).putIn (r + 0x30) ⟨Tag.time, x.tshut⟩
  s5.putIn (r + 0x34) (TWord.nat (s.diagWord o))

/-- The words of a die record that report the edge (R120). -/
def State.dieRecord (s : State) (d : Nat) : State :=
  let r := 0x120 + 0x20 * d
  let x := s.dieOf d
  let win := (dieChans d).any (fun c => (s.out c).window.isSome)
  let t := s.pin (.die d)
  let w := b2n x.otRep + 2 * b2n (s.shedding d) + 4 * x.shedLvl + 32 * b2n win
  ((s.putIn r (TWord.int t)).putIn (r + 4) (TWord.int (x.tmaxRep.getD t))).putIn (r + 8) (TWord.nat w)

/-- The SW header (R119). -/
def State.swHeader (s : State) : State :=
  if !(s.domOn 3 || s.domOn 4 || s.domOn 5) then s else
  let trip := fun o => (s.outRep o).trip
  let lock := fun o => (s.out (s.gov o)).st == .lock
  let s1 := s.putIn 0x100 (TWord.nat (b2n (s.bit F.swStrcfgEn && s.sw.strOn) + 2 * b2n s.sw.strDrop))
  let s2 := (s1.putIn 0x104 (TWord.nat (packBits 32 trip))).putIn 0x108 (TWord.nat (packBits 24 (fun i => trip (32 + i))))
  let s3 := (s2.putIn 0x10C (TWord.nat (packBits 32 lock))).putIn 0x110 (TWord.nat (packBits 24 (fun i => lock (32 + i))))
  s3.putIn 0x114 (TWord.nat s.sw.strLast)

/-- The edge of the SW block after its staged writes: ambient, models that start, transitions, restoration, deferral, diagnostics. -/
def State.swEdge (s : State) (back : Nat → Bool) : State :=
  let s1 := forEach 48 (fun t c =>
    let u := t.setOut c (fun x => { x with ta := t.ambient c })
    if (u.out c).modelStart then u.startModel c else u) s
  let s2 := forEach 8 State.edgeHb (forEach 48 (fun t c => t.edgeCh back c) s1)
  let s3 := forEach 7 State.restoreDie s2
  let s4 := forEach 48 State.deferAt s3
  forEach 56 State.diagEdge s4

/-- The stream at an edge (R87, R122): it starts where EN is 1, with its ring length in range, and its notes of the frame begin. -/
def State.streamEdge (s : State) : State :=
  let on := s.bit F.swStrcfgEn && s.feat 19
  let s1 := if on && !s.sw.strOn then s.setFld F.swStrlenFrames (clampN 1 256 (s.fld F.swStrlenFrames)) else s
  { s1 with sw := { s1.sw with strOn := on } }

/-- The words of the SW region that report the edge, and what follows from them. -/
def State.swRecords (s : State) : State :=
  let s0 := (forEach 56 (fun t o => t.setOut o (fun x => { x with dg := { x.dg with prev := x.dg.last } })) s).streamEdge
  let s1 := forEach 56 State.diagSource s0
  let s2 := forEach 56 (fun t o => if t.domOn (domOf o) then t.outRecord o else t) s1
  let s3 := (forEach 7 (fun t d => if t.domOn (if d < 2 then 3 else 4) then t.dieRecord d else t) s2).swHeader
  let s4 := if s.sw.strDrop then s3.setBit F.swStatStrdrop else s3
  { s4 with sw := { s4.sw with strDrop := false, strDone := 0, smpDone := 0 } }

/-- The use of R92 that the device does not check: a channel's ambient taken from an analog input that is no temperature
input. -/
def State.ambientUnchecked (s : State) : Bool :=
  (upto 48).any (fun c => s.wireOn c && decide (s.fld (F.swWireAmb c) < 24) && s.fld (F.inpAincfgMode (s.fld (F.swWireAmb c))) != 2)

/-- A switch domain returns from OFF: its models start again (R93). -/
def State.swWake (s : State) (d : Nat) : State :=
  forEach 48 (fun t c => if domOf c = d ∧ t.wireOn c then t.startModel c else t) s

/-- A domain was ON at the edge that the current image reports (R60, R447). -/
def State.imageOn (s : State) (d : Nat) : Bool := (s.inWord 0x2F18).val.getLsbD d

/-- The diagnostics of an output after a step at the edge itself changed its state: this edge counts (R124, R129). -/
def State.diagOnce (s : State) (o : Nat) : State :=
  let conducts := s.driven o || (s.out o).dg.revOn
  let s1 := (s.setOut o (fun y => { y with dg := { y.dg with
    onRun := if y.countsOn o then y.dg.onWas + 1 else 0
    offEdges := if conducts then 0 else max 1 y.dg.offEdges } })).judgeOnol o
  s1.setOut o (fun y => { y with dg := { y.dg with chkOk := s1.checkArm o, offAll := s1.checkOff o } })

/-- The diagnostics of an output and of its pair after a step at the edge. -/
def State.diagAgain (s : State) (o : Nat) : State := (s.members o).foldl State.diagOnce s

/-- What a step at the edge itself changes of an output enters I_k: the records of the output, of its odd partner and of its die, and the
sources that their DIAG sets (R73, R120, R121, R141). -/
def State.refreshOut (s : State) (o : Nat) : State :=
  if s.imageOn (domOf o) && s.feat (outFeat o) then
    let s1 := (s.members o).foldl (fun t m => (t.diagSource m).outRecord m) s
    if o < 48 then s1.dieRecord (dieNo o) else s1
  else s

/-! ### Steps at an edge that are commands of their own -/

/-- INRUSH_WINDOW_CLOSE: at the first edge at or after its length has run, the window of a channel closes and INR becomes
ON (R76, R103). A channel whose group is held off keeps its state code (R422). -/
def execInrushWindowClose (c : Fin 48) (s : State) : Out :=
  let x := s.out c
  .next (match x.window with
    | some (_, e) =>
      if s.atEdge && decide (e ≤ s.frm.edgeAt) && !s.groupOff (groupOf c) then
        ((s.setOut c (fun y => { y with
          window := none
          st := if y.st = .inr then .on else y.st })).diagAgain c).refreshOut c
      else s
    | none => s)

/-- CHANNEL_RESTART: at its due edge or a later one an output in WAIT restarts (R99, R116); RETRIES counts it. -/
def execChannelRestart (o : Fin 56) (s : State) : Out :=
  .next (
    if s.atEdge && s.restartDue o && (decide (48 ≤ o.val) || !s.dieWindow o) then
      let s1 := s.setOut o (fun x => { x with retries := x.retries + 1 })
      (((if o.val < 48 then s1.turnOn o else s1.turnOnHb o)).diagAgain o).refreshOut o
    else s)

/-- RETRIES_HEAL: at the edge after 16 × HEAL consecutive frames in ON or INR without a trip RETRIES returns to 0 (R101), but for a
frame in which the group was reversed (R133). -/
def execRetriesHeal (o : Fin 56) (s : State) : Out :=
  let h := (s.prot o).2.2
  .next (
    if s.atEdge && s.governs o && !(s.out o).rep.rev && h != 0 && decide (16 * h ≤ (s.out o).heal) then
      (s.setOut o (fun x => { x with retries := 0 })).refreshOut o
    else s)

/-- PAIR_IMBALANCE: at an edge a pair has been out of balance for 16 consecutive frames (R74). -/
def execPairImbalance (c : Fin 48) (s : State) : Out :=
  let e := s.gov c
  .next (
    if s.atEdge && s.paired c && decide (16 ≤ (s.out e).imbalRun) && !(s.out e).imbal then
      ((s.setOut e (fun x => { x with imbal := true })).refreshOut e).raiseSource (outSource e)
    else s)

/-- STREAM_SAMPLE_WRITE: the latest slot samples of the selected channels and half-bridges are written to the Granary through
the Baler's master (R85): the outputs selected. -/
def streamSlots (s : State) : List Nat :=
  (upto 56).filter (fun o => if o < 32 then (s.fld F.swStrmask0).testBit o
    else if o < 48 then (s.fld F.swStrmask1Ch).testBit (o - 32) else (s.fld F.swStrmask1Hb).testBit (o - 48))

end Sys2Proof.Machine
end

