-- ==== Sys2Proof/Machine/Acc.lean ====
section
/-!
DEFINITION. Access tokens: searches, replies, authentication, release, permits, buttons, and what an edge does with them
(16_access.md).
-/

namespace Sys2Proof.Machine

/-! ### Searches -/

/-- SEARCH_START: at E + 2 µs of an edge a search starts (R543). Without random bytes there is no challenge (R591). -/
def execSearchStart (s : State) : Out :=
  .next (
    let x := s.acc.srch
    let at_ := s.frm.edgeAt + 2 * ticksPerUs
    if s.accRuns ∧ s.scanRun ∧ s.frm.frame.toNat % s.scanPer = 0 ∧ s.lfen ≠ 0 ∧ x.phase = 0 ∧ x.retry = false ∧ s.win.safe = false
        ∧ s.sec.trngf = false ∧ s.count ≤ at_ then
      (s.advance at_).searchBegin 0
    else s)

/-- RETRY_SEARCH: at E + 2 µs of the first edge after the window a retry search starts, whatever PER gives (R543, R555). -/
def execRetrySearch (s : State) : Out :=
  .next (
    let x := s.acc.srch
    let at_ := s.frm.edgeAt + 2 * ticksPerUs
    if s.accRuns ∧ x.retry ∧ x.due ∧ s.scanRun ∧ s.lfen ≠ 0 ∧ s.win.safe = false ∧ s.sec.trngf = false ∧ s.count ≤ at_ then
      (s.advance at_).searchBegin (x.tries + 1)
    else s)

/-- LF_TELEGRAM_END: the last field burst ends: t_ref, and the reply slots open (R545, R550). -/
def execLfTelegramEnd (w : World) (s : State) : Out :=
  let s0 := s.observe w
  .next (
    let x := s.acc.srch
    if x.phase = 1 then
      let t := x.startAt + ticksPerUs * (16384 + 640 * aerials x.lfen)
      let s1 := (s0.advance t).accWake
      if s1.acc.srch.phase = 0 then s1 else s1.setSrch (fun y => { y with phase := 2, tref := t })
    else s0)

/-- AERIAL_SHORT: the current of an aerial exceeds 1800 mA: it is off for the rest of the search, with SHORT (R546). -/
def execAerialShort (a : Fin 6) (amps : Int) (s : State) : Out :=
  .next (
    let x := s.acc.srch
    if x.phase = 1 ∧ x.lfen.testBit a ∧ s.acc.short.testBit a = false ∧ 1800 < amps then
      ((s.setAcc (fun y => { y with short := y.short ||| 2 ^ a.val })).raiseSource 164).accCause 3
    else s)

/-- d − RDLY of a UIRQ that falls in a slot `after` ticks after t_ref, in units of 2^-40 ns by RATE (R509, R551). -/
def State.replyDelay (s : State) (after slot : Nat) : Int :=
  ((after : Int) - (ticksPerUs * s.fld F.accSlotSlotlen * slot : Nat)) * s.rate - (s.fld F.accRlyRdly * 1000 : Nat) * 2 ^ 40

/-- A REPLY alone in its slot so far (R551): within RWIN it is a candidate; outside it the end of the slot decides. -/
def State.replyTaken (s : State) (after slot : Nat) (packet : Bytes) : State :=
  let d := s.replyDelay after slot
  let t : TokReply := {
    tid := leAt packet 1 4, slot := slot, rssi := sub packet 6 6, delay := quant d (2 ^ 40), rt := sub packet 12 8, rchal := sub packet 20 8 }
  if |d| ≤ (s.fld F.accRlyRwin * 250 : Nat) * 2 ^ 40 then
    s.setSrch (fun y => { y with
      cand := y.cand.filter (fun c => decide (c.slot < slot)) ++ [t] ++ y.cand.filter (fun c => decide (slot < c.slot)) })
  else s.setSrch (fun y => { y with far := y.far ++ [t] })

/-- TOKEN_REPLY: a UIRQ in a reply slot, `after` ticks of COUNT after t_ref, and the packet that is read (R548 to R551). A UIRQ past
the close of the window lies in no slot. A packet that the table has but that is no REPLY takes no part in the search. -/
def execTokenReply (after : Nat) (packet : List Nat) (s : State) : Out :=
  .next (
    let x := s.acc.srch
    if s.accRuns = false ∨ x.phase ≠ 2 then s
    else
      let s1 := (s.advance (x.tref + after)).uhfRead
      if s.replyWindow ≤ after then s1
      else
        let slot := s.irqSlot after
        let s0 := s1.slotsEnd slot
        let s2 := s0.slotIrq slot
        if s0.acc.srch.phase = 0 then s0
        else if x.seen.testBit slot then s2
        else if packetKnown packet = false then s2.slotCollides slot
        else if packetOk packet 0x21 30 = false then s2
        else if s.slotOf (leAt packet 1 4) ≠ slot then s2.slotCollides slot
        else s2.replyTaken after slot packet)

/-- REPLY_WINDOW_CLOSE: the window closes and the tokens that passed are authenticated in slot order (R550, R553). -/
def execReplyWindowClose (s : State) : Out :=
  .next (
    let x := s.acc.srch
    if x.phase = 2 then
      let t := x.tref + s.replyWindow
      let s1 := (s.advance t).slotsEnd s.nslot
      if s1.acc.srch.phase = 0 then s1 else (s1.setSrch (fun y => { y with phase := 3 })).authFrom x.cand
    else s)

/-- MEM_RECEIVED: the MEM packet of the token being authenticated (R553): a bad MAC or TID fails it; a LEVEL outside the policy is
refused and the engine stops; else the next edge judges PERMIT.ALLOW. A packet that is no MEM is discarded, and one later than 20 ms
after AUTH comes too late. -/
def execMemReceived (packet : List Nat) (s : State) : Out :=
  .next (
    let x := s.acc.srch
    match x.cand with
    | [] => if s.accRuns then s.uhfRead else s
    | t :: _ =>
      if s.accRuns = false then s
      else if x.phase ≠ 3 ∨ x.grant.isSome then s.uhfRead
      else if x.authAt + 20000 * ticksPerUs < s.count then s.uhfRead.authFail
      else if packetOk packet 0x23 31 = false then s.uhfRead
      else
        let ks := aes x.key (x.chal ++ t.rchal)
        let ct := sub packet 5 16
        let pt := aesCtr ks (List.replicate 16 0) 128 ct
        if leAt packet 1 4 ≠ t.tid ∨ (cmac ks (tidBytes t.tid ++ ct)).take 8 ≠ sub packet 21 8 ∨ leAt pt 0 4 ≠ t.tid then s.uhfRead.authFail
        else
          let level := pt.getD 4 0
          if level &&& s.fld F.accPolicyMask = 0 then (s.uhfRead.accResult t 6).searchEnd
          else s.uhfRead.setSrch (fun y => { y with grant := some (t, level) }))

/-- MEM_TIMEOUT: 20 ms after AUTH no MEM has arrived (R553). -/
def execMemTimeout (s : State) : Out :=
  .next (
    let x := s.acc.srch
    if x.phase = 3 ∧ x.grant.isNone ∧ x.cand.isEmpty = false then (s.advance (x.authAt + 20000 * ticksPerUs)).authFail else s)

/-! ### The edge -/

/-- A grant is judged at the first edge after the check (R553, R554, R556, R559): under ALLOW and with an epoch, the door bridge and
the permit start and every later token is logged with result 2. -/
def State.accGrant (s : State) : State :=
  match s.acc.srch.grant with
  | none => s
  | some (t, level) =>
    if !s.allow then (s.accResult t 6).searchEnd
    else if !s.bit F.accStatEpoch then (s.accResult t 7).searchEnd
    else
      let n := s.acc.srch.tries
      let later := s.acc.srch.cand.drop 1
      let s1 := later.foldl (fun u c => u.accLog c.tid 2 c.slot n) (s.accResult t 1)
      let rel := some (s.fld F.accRelHb, s.fld F.accRelMode, s.frm.frame.toNat + s.fld F.accRelDur)
      let p : Permit := {
        tid := t.tid, level := level, endAt := s.frm.edgeAt + 600000000 * s.fld F.accPdurSec
        next := s.frm.edgeAt + 2 * ticksPerUs }
      (((s1.accDone { tok := t, res := 1, search := n }).setAcc (fun a => { a with
        rel := rel, permit := if s.feat 45 then some p else none, grantF := true })).accCause 0).permitSpent

/-- A permit ends at the first edge at which PERMIT.ALLOW reads 0, after a final frame of TYPE 0x02 (R557). -/
def State.permitAllow (s : State) : State :=
  match s.acc.permit with
  | some p => if s.allow then s else (s.permitSend p 2).setAcc (fun a => { a with permit := none })
  | none => s

/-- A pending retry (R543, R555): the first edge after the search allows it, where a search may start at all; else, and when that edge's
chance has gone by, the sequence is over. -/
def State.retryEdge (s : State) : State :=
  let x := s.acc.srch
  if x.retry then
    if s.accRuns ∧ s.scanRun ∧ s.lfen ≠ 0 ∧ s.win.safe = false ∧ x.due = false then s.setSrch (fun y => { y with due := true })
    else s.accOver
  else s

/-- The block at an edge, after the commit: a release takes effect at this edge (R22 step 2, R556). -/
def State.accEdge (s : State) : State := s.accWake.retryEdge.accGrant.permitAllow

/-- A committed RUN of 1 wakes the ACC domain (R543, R25). -/
def State.accDemand (s : State) : State := if s.scanRun ∧ s.domOn domAcc = false ∧ s.feat 44 then s.demandOrLock domAcc else s

/-- The ACC region of the image (R563). -/
def State.accRecords (s : State) : State :=
  if !(s.domOn domAcc && s.feat 44) then s else
  let a := s.acc
  let r := a.last
  let w0 := a.srch.phase + 4 * b2n a.permit.isSome + 8 * b2n a.grantF + 16 * b2n a.btnF + 32 * b2n a.stopF
  let l := [w0, a.opn + 256 * a.short + 65536 * a.driven, r.tok.tid, r.res + 16 * r.tok.slot + 256 * r.search,
    leAt r.tok.rssi 0 4, leAt r.tok.rssi 4 2, (BitVec.ofInt 32 r.tok.delay).toNat, a.btn, a.built,
    match a.permit with | some p => s.secondsLeft p | none => 0]
  l.zipIdx.foldl (fun t p => t.putIn (0x4C00 + 4 * p.2) (TWord.nat p.1)) s

/-- The frame's notes cleared; aerials of a telegram in progress stay driven. -/
def State.accClear (s : State) : State :=
  s.setAcc (fun a => { a with
    grantF := false, btnF := false, stopF := false
    driven := if a.srch.phase = 1 then a.srch.lfen &&& (63 - a.short) else 0 })

/-- ACC returns from OFF: token sessions are lost (R433). -/
def State.accLost (s : State) : State := s.accCut

/-- RELEASE_END: REL.DUR frames after its start the release ends at an edge and the committed command applies again (R556). -/
def execReleaseEnd (s : State) : Out :=
  .next (match s.acc.rel with
    | some (b, _, e) =>
      if s.atEdge ∧ e ≤ s.frm.frame.toNat then
        let s1 := s.setAcc (fun a => { a with rel := none })
        (((s1.members (48 + b)).foldl (fun t o => t.hbAgain (o - 48)) s1).diagAgain (48 + b)).refreshOut (48 + b)
      else s
    | none => s)

/-! ### Permits -/

/-- PERMIT_FRAME: every PMT.PER ms a permit frame is built and offered (R557). -/
def execPermitFrame (s : State) : Out :=
  .next (match s.acc.permit with
    | some p =>
      if p.endAt ≤ p.next then s
      else
        let s1 := (s.advance p.next).setAcc (fun a => { a with
          permit := some { p with next := p.next + 600000 * s.fld F.accPmtPer } })
        s1.permitSend p 1
    | none => s)

/-- PERMIT_END: the permit ends at its end time, or at an edge at which PERMIT.ALLOW reads 0, after a final frame of TYPE 0x02
(R557). -/
def execPermitEnd (s : State) : Out :=
  .next (match s.acc.permit with
    | some p =>
      let s1 := if s.allow then s.advance p.endAt else s
      (s1.permitSend p 2).setAcc (fun a => { a with permit := none })
    | none => s)

/-! ### Buttons and accesses -/

/-- A button packet rejected (R561). -/
def State.buttonReject (s : State) (tid : Nat) (badMac : Bool) : State :=
  let s1 := s.accLog tid 10 0 0
  if badMac then s1.raiseSource 166 else s1

/-- A button packet accepted (R561, R563). -/
def State.buttonAccept (s : State) (t tid cnt btn : Nat) : State :=
  ((((s.setFld (F.accTcntCnt t) cnt).accLog tid 9 0 0).setFld (F.accTcfgPend t) 0).setAcc (fun a => { a with
    pend := updN a.pend t (fun _ => none), btnF := true, btn := btn % 256 + 256 * t })).accCause 1

/-- A button packet whose MAC is sound, judged by its counter (R561). -/
def State.buttonCount (s : State) (t tid cnt btn : Nat) : State :=
  let d := (cnt + 2 ^ 32 - s.fld (F.accTcntCnt t)) % 2 ^ 32
  let follows : Bool := match nth s.acc.pend t none with
    | some (c, b, at_) => cnt == (c + 1) % 2 ^ 32 && b == btn && decide (s.count ≤ at_ + 1200000000)
    | none => false
  if follows = true ∨ (1 ≤ d ∧ d ≤ 256) then s.buttonAccept t tid cnt btn
  else if 257 ≤ d ∧ d ≤ 65536 then
    (s.setFld (F.accTcfgPend t) 1).setAcc (fun a => { a with pend := updN a.pend t (fun _ => some (cnt, btn, s.count)) })
  else s.buttonReject tid false

/-- The UIRQ of a packet that arrives now falls in a slot of the reply window, if one is open; a packet that R549 discards collides
there (R549, R551). -/
def State.slotTaken (s : State) (packet : Bytes) : State :=
  let after := s.count - s.acc.srch.tref
  if s.acc.srch.phase ≠ 2 ∨ s.replyWindow ≤ after then s
  else
    let slot := s.irqSlot after
    let s0 := s.slotsEnd slot
    let s1 := s0.slotIrq slot
    if s0.acc.srch.phase = 0 then s0 else if packetKnown packet then s1 else s1.slotCollides slot

/-- BUTTON_PACKET: a packet received while the engine listens (R561); inside the reply window its UIRQ lies in a slot. One that R549
discards has no other effect. -/
def execButtonPacket (packet : List Nat) (s : State) : Out :=
  .next (
    if s.accRuns = false then s
    else if packetOk packet 0x31 16 = false then s.uhfRead.slotTaken packet
    else
      let s1 := s.uhfRead.slotTaken packet
      let tid := leAt packet 1 4
      match s.tokenEntry tid with
      | none => s1.buttonReject tid false
      | some t =>
        match s.tokenKey tid with
        | none => s1.buttonReject tid true
        | some k =>
          if (cmac k (sub packet 1 9)).take 4 ≠ sub packet 10 4 then s1.buttonReject tid true
          else s1.buttonCount t tid (leAt packet 5 4) (packet.getD 9 0))

/-- An access to ACC.URAW (R548): while the block is stopped a write shifts a byte out and `back` in; while it runs the access is
ignored. -/
def State.urawAccess (s : State) (w : Option Word) (back : Nat) : State :=
  if s.bit F.accCfgEn then s.setBit F.accStatUrawrej
  else
    match w with
    | some v => (s.setFld F.accUrawCs (getBits v 8 1)).setFld F.accUrawData (back % 256)
    | none => s

/-- URAW_ACCESS: a read, or a write of a word, by a master; `back` is the byte that the transceiver shifts in (R548). -/
def execUrawAccess (w : Option Word) (back : Nat) (s : State) : Out :=
  .next (s.store (.urawAccess w back) (·.urawAccess w back))

/-- A write of ACC.PEPOCH (R559, R564). -/
def State.pepochWrite (s : State) (w : Word) (job : Bool) : State :=
  if job then s.setBit F.accStatPrivrej
  else ((s.setFld F.accPepochEpoch (getBits w 0 16)).setBit F.accStatEpoch).setAcc (fun a => { a with seq := 0, spent := false })

/-- PEPOCH_WRITE (R559). -/
def execPepochWrite (w : Word) (job : Bool) (s : State) : Out :=
  .next (s.store (.pepochWrite w job) (·.pepochWrite w job))

end Sys2Proof.Machine
end

