-- ==== Sys2Proof/Machine/GranaryOps.lean ====
section
/-!
DEFINITION. Shared operations of the Granary: banks, lanes, ownership, access by a master, errors (11_granary.md).
-/

namespace Sys2Proof.Machine

/-- A byte address lies in the Granary (R398). -/
def inGranary (a : Nat) : Bool := decide (0x10000000 ≤ a) && decide (a < 0x10400000)

/-- The bank of a byte address, its word in the bank, and the lane of a word (R398). -/
def bankOf (a : Nat) : Nat := (a - 0x10000000) / 0x40000
def wordOf (a : Nat) : Nat := (a / 4) % 0x10000
def laneOf (w : Nat) : Nat := w % 8

/-- The byte address of a word of a bank. -/
def grnAddr (b w : Nat) : Nat := 0x10000000 + 0x40000 * b + 4 * w

/-- A bank's record. -/
def State.gbank (s : State) (b : Nat) : GBank := nth s.grn.bank b {}
/-- A bank changed. -/
def State.setGbank (s : State) (b : Nat) (f : GBank → GBank) : State := { s with grn := { s.grn with bank := updN s.grn.bank b f } }

/-- The owner of a bank (R403): 0 C0, 1 C1, 2 BAL, 3 HST, 4 SEC, 5 NET, 6 PLD, 7 NONE. -/
def State.owner (s : State) (b : Nat) : Nat := s.fld (F.grnOwnOwner b)

/-- A requester may use a bank: it is the owner, or the link, which acts as the owner (R403). -/
def State.mayUse (s : State) (who b : Nat) : Bool := who == 7 || (decide (who < 7) && s.owner b == who)

/-- A non-owner access is recorded and reported (R404). -/
def State.nonOwner (s : State) (a who : Nat) (write fetch : Bool) : State :=
  let s1 := (s.setBit F.grnStatNown).setFld F.grnNownaAddr a
  let s2 := ((s1.putBit F.grnNowniWr write).putBit F.grnNowniFetch fetch).setFld F.grnNowniMaster who
  (s2.setGbank (bankOf a) (fun x => { x with nown := true })).raiseSource 18

/-- The lane that stores a word, for the error counts: 8 where the spare stands for it (R412, R414). -/
def State.storeLane (s : State) (b w : Nat) : Nat :=
  if s.fld (F.grnLaneSpfor b) = laneOf w then 8 else laneOf w

/-- Source 22 while the bank's corrected errors of the window total BTH or more (R632). -/
def State.rateCheck (s : State) (b : Nat) : State :=
  if s.fld F.glnLanecfgBth ≤ (s.gbank b).rate.toList.foldl (· + ·) 0 then s.raiseSource 22 else s

/-- What the check bits of the word at a byte address say as it is read (R410). -/
def State.eccAt (s : State) (a : Nat) : Ecc := Ecc.ofInt (s.pin (.ecc (a / 4 * 4)))

/-- What a command says of the word it reads, else what the word's check bits say. -/
def State.eccOf (s : State) (e : Ecc) (a : Nat) : Ecc := if e = .clean then s.eccAt a else e

/-- A word is stored whole with new check bits, or written back corrected: it has no error left (R400, R410). -/
def State.heal (s : State) (a : Nat) : State := if s.eccAt a = .clean then s else s.setPin (.ecc (a / 4 * 4)) 0

/-- What the decoder finds in the word at a byte address, and the state in which the word is settled: a word with three or more wrong bits
decodes to some word, which is a free value, as one with a single error, or as one with none (R410). Until it is stored again it decodes
so at every read. -/
def State.resolved (s : State) (a : Nat) (e0 : Ecc) : Ecc × State :=
  let any := ({ s with free := s.free + 2 }).mwrite (a / 4 * 4) ⟨(Config.freeWord (s.free + 1)).setWidth 4, Config.freeWord s.free⟩
  match s.eccOf e0 a with
  | .wrong => (.single, any.setPin (.ecc (a / 4 * 4)) 1)
  | .unseen => (.clean, any.setPin (.ecc (a / 4 * 4)) 0)
  | e => (e, s)

/-- A corrected error is counted, and its write-back waits for a free lane cycle (R410, R412). -/
def State.correctedCount (s : State) (b w : Nat) : State :=
  let l := s.storeLane b w
  (s.satInc (F.grnLceCount (9 * b + l))).setGbank b (fun x => { x with
    corr := incTo 0xFFFF x.corr, corrLane := l, rate := updN x.rate l (· + 1)
    fix := if x.fix.contains w then x.fix else x.fix ++ [w] })

/-- A corrected error is counted and reported (R410, R412). -/
def State.corrected (s : State) (b w : Nat) : State := ((s.correctedCount b w).raiseSource 16).rateCheck b

/-- An uncorrectable error is counted (R410). -/
def State.uncorrectableCount (s : State) (b : Nat) : State :=
  ((s.setBit F.grnStatUe).satInc (F.grnUeCount b)).setGbank b (fun x => { x with ue := true })

/-- An uncorrectable error is counted and reported (R410). -/
def State.uncorrectable (s : State) (b : Nat) : State := (s.uncorrectableCount b).raiseSource 17

/-- What follows from the check of a read word, settled before. -/
def State.checked (s : State) (b w : Nat) (e : Ecc) : State :=
  match e with
  | .single => s.corrected b w
  | .double => s.uncorrectable b
  | _ => s

/-- What follows from the check of a word that a requester reads: the link raises no source (R388, R412). -/
def State.checkedFor (s : State) (who b w : Nat) (e : Ecc) : State :=
  if who = 7 then
    (match e with
    | .single => s.correctedCount b w
    | .double => s.uncorrectableCount b
    | _ => s)
  else s.checked b w e

/-- The word that a read of a settled word delivers: NIL 0 for an uncorrectable one (R410). -/
def State.delivered (s : State) (a : Nat) (e : Ecc) : TWord := if e = .double then TWord.nil0 else s.mread a

/-- A store into a word: a waiting write-back of that word is dropped (R410). -/
def State.grnStore (s : State) (b w : Nat) (v : TWord) : State :=
  ((s.heal (grnAddr b w)).mwrite (grnAddr b w) v).setGbank b (fun x => { x with fix := x.fix.filter (fun k => k ≠ w) })

/-! ### Lanes (R399 to R405) -/

/-- An access uses a lane; a paired one uses the next lane too (R399). -/
def gaccUses (g : GAcc) (l : Nat) : Bool := laneOf g.word == l || (g.pair && laneOf g.word + 1 == l)

/-- How far a requester stands behind the one that a lane granted last (R401). -/
def GBank.turnOf (x : GBank) (l who : Nat) : Nat := (who + 17 - nth x.last l 8) % 9

/-- The accesses that wait at a lane, one of each requester, in the order in which they would be granted (R401). -/
def GBank.order (x : GBank) (l : Nat) : List GAcc :=
  ((upto 9).map (fun i => (nth x.last l 8 + 1 + i) % 9)).filterMap (fun who => x.wait.find? (fun g => g.who == who && gaccUses g l))

/-- The access that lane `l` of a bank grants: the first in order; a paired one only where its other lane would grant it too (R399,
R401). DESIGN CHOICE: a paired access whose other lane grants another requester first lets the next one of this lane pass; R399 does not
say what the lane does in that cycle. -/
def GBank.next (x : GBank) (l : Nat) : Option GAcc :=
  (x.order l).find? (fun g => !g.pair || (x.order (if laneOf g.word = l then l + 1 else l - 1)).head? == some g)

/-- The words delivered to a requester. -/
def State.deliverGot (s : State) (who : Nat) (v v2 : TWord) : State :=
  { s with grn := { s.grn with got := updN s.grn.got who (fun _ => v), got2 := updN s.grn.got2 who (fun _ => v2) } }

/-- The second word of a paired access, as an access of its own. -/
def gaccSecond (g : GAcc) : GAcc := { g with
  word := g.word + 1, data := g.data.map (fun _ => g.data2), pair := false }

/-- A word of a bank read by a requester: what the check found, the word delivered, the state. -/
def State.readWord (s : State) (who b w : Nat) (e : Ecc) : Ecc × TWord × State :=
  let r := s.resolved (grnAddr b w) e
  let t := r.2.checkedFor who b w r.1
  (r.1, t.delivered (grnAddr b w) r.1, t)

/-- One word of a granted access by a requester that may use the bank: it is stored, or read with its check, and the word delivered. -/
def State.performed (s : State) (b : Nat) (g : GAcc) (e : Ecc) : Ecc × TWord × State :=
  match g.data with
  | some v => (.clean, TWord.nil0, s.grnStore b g.word v)
  | none => s.readWord g.who b g.word e

/-- An access granted at a lane: the owner is checked, the word is read with its check or stored. An uncorrectable word is not
delivered to a core and reads NIL 0 to any other master; the scrubber writes a corrected word back at once. -/
def State.granted (s : State) (b : Nat) (g : GAcc) (e : Ecc) : State :=
  if g.who = 8 then
    let r := s.resolved (grnAddr b g.word) e
    let s1 := r.2.checked b g.word r.1
    if r.1 = .single then (s1.heal (grnAddr b g.word)).setGbank b (fun x => { x with fix := x.fix.filter (fun k => k ≠ g.word) })
    else s1
  else if !s.mayUse g.who b then
    let s1 := s.nonOwner (grnAddr b g.word) g.who g.data.isSome g.fetch
    if g.data.isSome || g.fetch then s1 else s1.deliverGot g.who TWord.nil0 TWord.nil0
  else
    let r := s.performed b g e
    let q := if g.pair then r.2.2.performed b (gaccSecond g) .clean else (.clean, TWord.nil0, r.2.2)
    if g.data.isSome then q.2.2
    else if g.who < 2 ∧ (r.1 = .double ∨ q.1 = .double) then q.2.2
    else q.2.2.deliverGot g.who r.2.1 q.2.1

/-- A lane grants an access: it leaves the queue, and the lanes it uses go on after its requester (R401). -/
def State.laneGives (s : State) (b : Nat) (g : GAcc) : State :=
  let l := laneOf g.word
  s.setGbank b (fun x =>
    let y := { x with wait := x.wait.erase g, last := updN x.last l (fun _ => g.who) }
    if g.pair then { y with last := updN y.last (l + 1) (fun _ => g.who) } else y)

/-- The accesses that wait at the lane of a word and come before a requester are granted (R401), as many as the lane holds. -/
def State.laneServe (s : State) (who a : Nat) : State :=
  let b := bankOf a
  let l := laneOf (wordOf a)
  (upto 8).foldl (fun t _ => match (t.gbank b).next l with
    | some g => if (t.gbank b).turnOf l g.who < (t.gbank b).turnOf l who then (t.laneGives b g).granted b g .clean else t
    | none => t) s

/-- A requester's access takes its turn at the lane of its word (R401): those before it are granted, and the lane goes on after it. -/
def State.laneTurn (s : State) (who a : Nat) : State :=
  (s.laneServe who a).setGbank (bankOf a) (fun x => { x with last := updN x.last (laneOf (wordOf a)) (fun _ => who) })

/-! ### Accesses by masters -/

/-- The bank of a word sleeps and does not wake in time (R409). -/
def State.wakeFails (s : State) (a : Nat) : Bool :=
  !s.domOn (16 + bankOf a) && !s.domLocked (16 + bankOf a) && s.pin (.bankFails (bankOf a)) != 0

/-- A bank has failed to wake (R409): WAKEF and source 21. -/
def State.wakeFailed (s : State) (b : Nat) : State :=
  ((s.setGbank b (fun y => { y with wakef := true })).setBit F.grnStatWakef).raiseSource 21

/-- An access to a bank that is locked off (R409, R437); one of the link raises no source (R388). -/
def State.lockedBank (s : State) (who : Nat) : State := if who = 7 then s.setBit F.pwrStatLockacc else s.lockAccess

/-- A non-owner's access at a lane: it competes for the lane like any other, and is recorded and reported (R401, R404). A bank that is not
ON has no lane to take a turn at. -/
def State.strayAccess (s : State) (a who : Nat) (write fetch : Bool) : State :=
  (if s.domOn (16 + bankOf a) then s.laneTurn who a else s).nonOwner a who write fetch

/-- A word read by a master at the Granary, ownership and the bank's state judged (R404, R409, R410, R437): the word
delivered. A bank that sleeps wakes, and the access proceeds with what the bank then holds; where it does not wake, the word is NIL 0. -/
def State.grnRead (s : State) (who a : Nat) (e : Ecc) : TWord × State :=
  let b := bankOf a
  if !s.mayUse who b then (TWord.nil0, s.strayAccess a who false false)
  else if s.domLocked (16 + b) then (TWord.nil0, s.lockedBank who)
  else if s.wakeFails a then (TWord.nil0, s.wakeFailed b)
  else
    ((if s.domOn (16 + b) then s.laneTurn who a else s.demand (16 + b)).readWord who b (wordOf a) e).2

/-- A word written by a master at the Granary. -/
def State.grnWrite (s : State) (who a : Nat) (v : TWord) : State :=
  let b := bankOf a
  if !s.mayUse who b then s.strayAccess a who true false
  else if s.domLocked (16 + b) then s.lockedBank who
  else if s.wakeFails a then s.wakeFailed b
  else (if s.domOn (16 + b) then s.laneTurn who a else s.demand (16 + b)).grnStore b (wordOf a) v

/-- A core waits at a bank for an access of its own, and not for a store in its buffer (R406, R409). -/
def State.coreWaitsAt (s : State) (b : Nat) : Bool :=
  (allFin 2).any (fun c => s.owner b == c.val && (match s.core[c].stall with
    | some x => x.dom == 16 + b && !x.failed && !x.drain
    | none => false))

/-- GRN.PEND (R406): an access by the present owner waits at a lane of the bank, or at the bank while it wakes. -/
def State.grnPend (s : State) (b : Nat) : Bool := (s.gbank b).wait.any (fun r => s.mayUse r.who b && r.who != 8) || s.coreWaitsAt b

end Sys2Proof.Machine
end

