-- ==== Sys2Proof/Machine/Flt.lean ====
section
/-!
DEFINITION. IEEE 754 binary32 as R314 and R315 use it: exact operations on `± m · 2^e`, rounded once to nearest, ties to even.
-/

namespace Sys2Proof.Machine

/-- A binary32 value taken apart: a NaN (signalling or quiet), an infinity, or `± m · 2^e`. -/
inductive Flt where
  | nan (signalling : Bool)
  | inf (neg : Bool)
  | fin (neg : Bool) (m : Nat) (e : Int)
deriving DecidableEq, Repr

/-- The value that 32 bits spell. -/
def Flt.ofBits (w : Word) : Flt :=
  let neg := w.getLsbD 31
  let ex := getBits w 23 8
  let fr := getBits w 0 23
  if ex = 255 then (if fr = 0 then .inf neg else .nan (!w.getLsbD 22))
  else if ex = 0 then .fin neg fr (-149)
  else .fin neg (fr + 2 ^ 23) ((ex : Int) - 150)

/-- The bits of a signed infinity and of the quiet NaN of R314. -/
def fltInf (neg : Bool) : Word := BitVec.ofNat 32 (b2n neg * 2 ^ 31 + 0x7F800000)
def fltQNaN : Word := 0x7FC00000

/-- A magnitude `m · 2^e`, a little more where `sticky` says so, rounded to nearest with ties to even and packed; the second part
says that it overflowed. Where `sticky` holds, `m` has at least 26 bits. -/
def fltRound (neg : Bool) (m : Nat) (e : Int) (sticky : Bool) : Word × Bool :=
  if m = 0 then (BitVec.ofNat 32 (b2n neg * 2 ^ 31), false)
  else
    let n : Int := (Nat.log2 m : Int) + 1
    let er := max (e + n - 24) (-149)
    let q : Nat × Nat × Nat :=       -- kept bits, remainder, half of the dropped unit (0: exact)
      if er ≤ e then (m * 2 ^ (e - er).toNat, 0, 0)
      else
        let k := (er - e).toNat
        (m / 2 ^ k, m % 2 ^ k, 2 ^ (k - 1))
    let up := q.2.2 ≠ 0 ∧ (q.2.2 < q.2.1 ∨ (q.2.1 = q.2.2 ∧ (sticky ∨ q.1 % 2 = 1)))
    let r := if up then q.1 + 1 else q.1
    let r2 : Nat × Int := if r = 2 ^ 24 then (2 ^ 23, er + 1) else (r, er)
    if 105 ≤ r2.2 ∧ 2 ^ 23 ≤ r2.1 then (fltInf neg, true)
    else if r2.1 < 2 ^ 23 then (BitVec.ofNat 32 (b2n neg * 2 ^ 31 + r2.1), false)
    else (BitVec.ofNat 32 (b2n neg * 2 ^ 31 + (r2.2 + 150).toNat * 2 ^ 23 + (r2.1 - 2 ^ 23)), false)

/-- The result of an operation on binary32: its bits, or any quiet NaN (an operand was a quiet NaN, whose propagation the spec
leaves open), with V. -/
inductive FltRes where
  | bits (w : Word) (v : Bool)
  | anyNaN
deriving DecidableEq, Repr

/-- An invalid operation (R314). -/
def FltRes.invalid : FltRes := .bits fltQNaN true

/-- An operation whose operands are numbers; a NaN operand decides the result by itself. -/
def fltBin (a b : Word) (f : Flt → Flt → FltRes) : FltRes :=
  match Flt.ofBits a, Flt.ofBits b with
  | .nan s, .nan t => if s || t then .invalid else .anyNaN
  | .nan s, _ => if s then .invalid else .anyNaN
  | _, .nan t => if t then .invalid else .anyNaN
  | x, y => f x y

/-- A rounded result. -/
def fltOut (r : Word × Bool) : FltRes := .bits r.1 r.2

/-- An exact signed sum `z · 2^e`; an exact zero takes the sign `zneg`. -/
def fltOfInt (z : Int) (e : Int) (zneg : Bool) : FltRes :=
  if z = 0 then fltOut (fltRound zneg 0 0 false) else fltOut (fltRound (decide (z < 0)) z.natAbs e false)

/-- Addition. -/
def fltAdd (a b : Word) : FltRes :=
  fltBin a b (fun x y => match x, y with
    | .inf s, .inf t => if s = t then .bits (fltInf s) false else .invalid
    | .inf s, _ => .bits (fltInf s) false
    | _, .inf t => .bits (fltInf t) false
    | .fin s m e, .fin t n f =>
      let k := min e f
      let z : Int := (if s then -1 else 1) * (m * 2 ^ (e - k).toNat : Nat) + (if t then -1 else 1) * (n * 2 ^ (f - k).toNat : Nat)
      fltOfInt z k (s && t)
    | _, _ => .invalid)

/-- The sign bit flipped. -/
def fltNeg (a : Word) : Word := a ^^^ 0x80000000#32

/-- Subtraction; a NaN stays itself. -/
def fltSub (a b : Word) : FltRes := match Flt.ofBits b with
  | .nan _ => fltAdd a b
  | _ => fltAdd a (fltNeg b)

/-- Multiplication. -/
def fltMul (a b : Word) : FltRes :=
  fltBin a b (fun x y => match x, y with
    | .inf s, .inf t => .bits (fltInf (s != t)) false
    | .inf s, .fin t n _ => if n = 0 then .invalid else .bits (fltInf (s != t)) false
    | .fin s m _, .inf t => if m = 0 then .invalid else .bits (fltInf (s != t)) false
    | .fin s m e, .fin t n f => fltOut (fltRound (s != t) (m * n) (e + f) false)
    | _, _ => .invalid)

/-- Division; by zero it gives a signed infinity (R314). -/
def fltDiv (a b : Word) : FltRes :=
  fltBin a b (fun x y => match x, y with
    | .inf _, .inf _ => .invalid
    | .inf s, .fin t _ _ => .bits (fltInf (s != t)) false
    | .fin s _ _, .inf t => fltOut (fltRound (s != t) 0 0 false)
    | .fin s m e, .fin t n f =>
      if n = 0 then (if m = 0 then .invalid else .bits (fltInf (s != t)) false)
      else
        fltOut (fltRound (s != t) (m * 2 ^ 64 / n) (e - f - 64) (decide (m * 2 ^ 64 % n ≠ 0)))
    | _, _ => .invalid)

/-- The order of two numbers that are no NaN: less, equal, greater; -0 equals +0. -/
def fltCmp (a b : Word) : Option Ordering :=
  let key : Flt → Option (Int × Int) := fun x => match x with
    | .nan _ => none
    | .inf s => some (if s then -1 else 1, 0)
    | .fin s m e => some (0, (if s then -1 else 1) * (m * 2 ^ (e + 149).toNat : Nat))
  match key (Flt.ofBits a), key (Flt.ofBits b) with
  | some x, some y =>
    if x.1 < y.1 then some .lt else if y.1 < x.1 then some .gt
    else if x.2 < y.2 then some .lt else if y.2 < x.2 then some .gt else some .eq
  | _, _ => none

/-- A word of FLT is a NaN. -/
def fltIsNaN (a : Word) : Bool := match Flt.ofBits a with | .nan _ => true | _ => false

/-- A word of FLT is ±0. -/
def fltIsZero (a : Word) : Bool := decide (getBits a 0 31 = 0)

/-- MIN and MAX on FLT (R334): the value and V. -/
def fltMinMax (max : Bool) (a b : Word) : Word × Bool :=
  if fltIsNaN a then (if fltIsNaN b then (fltQNaN, true) else (b, false))
  else if fltIsNaN b then (a, false)
  else
    match fltCmp a b with
    | some .lt => (if max then b else a, false)
    | some .gt => (if max then a else b, false)
    | _ => if fltIsZero a then (if max then a &&& b else a ||| b, false) else (a, false)

/-- A number times 2^k, truncated toward zero, as an integer; an infinity gives none, with its sign. -/
def fltTrunc (a : Word) (k : Nat) : Option (Sum Int Bool) :=
  match Flt.ofBits a with
  | .nan _ => none
  | .inf s => some (.inr s)
  | .fin s m e =>
    let q : Nat := if 0 ≤ e + k then m * 2 ^ (e + k).toNat else m / 2 ^ (-(e + k)).toNat
    some (.inl (if s then -(q : Int) else q))

/-- A FLT converted to an integer of a range, scaled by 2^k: the value and V (R315). -/
def fltToInt (a : Word) (k : Nat) (lo hi : Int) : Int × Bool :=
  match fltTrunc a k with
  | none => (0, true)
  | some (.inr s) => (if s then lo else hi, true)
  | some (.inl z) => if z < lo then (lo, true) else if hi < z then (hi, true) else (z, false)

/-- An integer times 2^e as a FLT, rounded to nearest with ties to even. -/
def fltOfScaled (z e : Int) : Word := (fltRound (decide (z < 0)) z.natAbs e false).1

/-- An integer times 2^e is a FLT exactly. -/
def fltExact (z : Int) : Bool :=
  let m := z.natAbs
  decide (m = 0) || decide (m % 2 ^ (Nat.log2 m + 1 - 24) = 0)

end Sys2Proof.Machine
end

