-- ==== Sys2Proof/Machine/Flags.lean ====
section
/-!
DEFINITION. The results and the flags of the arithmetic, logical, shift, compare and conversion instructions
(R309 to R315, R332 to R335).
-/

namespace Sys2Proof.Machine

/-- The flags Z N C V as an instruction writes them. -/
structure Nzcv where
  z : Bool
  n : Bool
  c : Bool
  v : Bool
deriving DecidableEq, Repr

/-- FLG[4:0] with Z N C V replaced and T kept (R281). -/
def Nzcv.into (f : Nzcv) (flg : BitVec 5) : BitVec 5 :=
  BitVec.ofNat 5 (b2n f.z + 2 * b2n f.n + 4 * b2n f.c + 8 * b2n f.v + 16 * b2n (flg.getLsbD 4))

/-- The result of an operation: the word, the flags, and how much of them the spec leaves open: C is open, the payload is any
quiet NaN. -/
inductive AluOut where
  | val (w : TWord) (f : Nzcv)
  | openC (w : TWord) (f : Nzcv)
  | openNaN
deriving DecidableEq, Repr

/-- Z and N of a 32-bit result, with C and V. -/
def flagsOf (w : Word) (c v : Bool) : Nzcv := ⟨decide (w = 0), w.getLsbD 31, c, v⟩

/-- Flags of a FLT result (R314): N is the sign of a non-NaN. -/
def fltFlags (w : Word) (v : Bool) : Nzcv := ⟨fltIsZero w, w.getLsbD 31 && !fltIsNaN w, false, v⟩

/-- A FLT operation's outcome. -/
def AluOut.ofFlt : FltRes → AluOut
  | .bits w v => .val ⟨Tag.flt, w⟩ (fltFlags w v)
  | .anyNaN => .openNaN

/-- A FIX value saturated, with V (R313). -/
def fixSat (z : Int) : Word × Bool :=
  if z < -2 ^ 31 then (0x80000000, true) else if 2 ^ 31 - 1 < z then (0x7FFFFFFF, true) else (BitVec.ofInt 32 z, false)

/-- A FIX result. -/
def fixOut (z : Int) : AluOut := let r := fixSat z; .val ⟨Tag.fix, r.1⟩ (flagsOf r.1 false r.2)

/-- An exact INT or NAT result wrapped, with V (R309). -/
def wrapV (t : Tag) (z : Int) : Word × Bool :=
  (BitVec.ofInt 32 z, if t = Tag.int then decide (z < -2 ^ 31) || decide (2 ^ 31 - 1 < z)
    else decide (z < 0) || decide (2 ^ 32 - 1 < z))

/-- The value of a payload under a tag: NAT unsigned, else signed. -/
def valOf (t : Tag) (w : Word) : Int := if t = Tag.nat then (w.toNat : Int) else w.toInt

/-- `z / 2^16` rounded to nearest, ties to even (R313). -/
def fixRound (z : Int) : Int :=
  let q := z / 65536
  let r := z % 65536
  if 32768 < r ∨ (r = 32768 ∧ q % 2 = 1) then q + 1 else q

/-- ADD, SUB, MUL, DIV, REM on two words of one tag (R309 to R314). Division or remainder by zero writes NIL 0 (R311). -/
def arith (op : Nat) (t : Tag) (a b : Word) : AluOut :=
  let x := valOf t a
  let y := valOf t b
  if t = Tag.flt then
    match op with
    | 0 => .ofFlt (fltAdd a b)
    | 1 => .ofFlt (fltSub a b)
    | 2 => .ofFlt (fltMul a b)
    | _ => .ofFlt (fltDiv a b)
  else if (op = 3 ∨ op = 4) ∧ y = 0 then .val TWord.nil0 ⟨false, false, false, true⟩
  else if t = Tag.fix then
    match op with
    | 0 => fixOut (x + y)
    | 1 => fixOut (x - y)
    | 2 => fixOut (fixRound (x * y))
    | 3 => fixOut ((x * 65536).tdiv y)
    | _ => fixOut (x.tmod y)
  else
    match op with
    | 0 => let r := wrapV t (x + y)
           .val ⟨t, r.1⟩ (flagsOf r.1 (decide (2 ^ 32 ≤ a.toNat + b.toNat)) r.2)
    | 1 => let r := wrapV t (x - y)
           .val ⟨t, r.1⟩ (flagsOf r.1 (decide (a.toNat < b.toNat)) r.2)
    | 2 => let r := wrapV t (x * y)
           .val ⟨t, r.1⟩ (flagsOf r.1 r.2 r.2)
    | 3 => let r := wrapV t (x.tdiv y)
           .val ⟨t, r.1⟩ (flagsOf r.1 false r.2)
    | _ => let r := wrapV t (x.tmod y)
           .val ⟨t, r.1⟩ (flagsOf r.1 false false)

/-- AND, OR, XOR (R332): logical on BOOL, bitwise else. -/
def logic (op : Nat) (t : Tag) (a b : Word) : AluOut :=
  let f : Bool → Bool → Bool := match op with | 5 => (· && ·) | 6 => (· || ·) | _ => (· != ·)
  let w : Word :=
    if t = Tag.bool then (if f (a != 0) (b != 0) then 1 else 0)
    else match op with | 5 => a &&& b | 6 => a ||| b | _ => a ^^^ b
  .val ⟨t, w⟩ (flagsOf w false false)

/-- SHL, SHR, SAR, ROL, ROR by a count (R312). -/
def shift (op : Nat) (t : Tag) (a : Word) (n : Nat) : AluOut :=
  let top := a.getLsbD 31
  let r : Word × Bool := match op with
    | 8 => (if n < 32 then a <<< n else 0, if 1 ≤ n ∧ n ≤ 32 then a.getLsbD (32 - n) else false)
    | 9 => (if n < 32 then a >>> n else 0, if 1 ≤ n ∧ n ≤ 32 then a.getLsbD (n - 1) else false)
    | 10 => (a.sshiftRight (min n 32), if n = 0 then false else if n ≤ 32 then a.getLsbD (n - 1) else top)
    | 11 => let w := a.rotateLeft (n % 32)
            (w, n % 32 ≠ 0 && w.getLsbD 0)
    | _ => let w := a.rotateRight (n % 32)
           (w, n % 32 ≠ 0 && w.getLsbD 31)
  .val ⟨t, r.1⟩ (flagsOf r.1 r.2 false)

/-- The flags of CMP (R333): the wrapping subtraction's; FIX as INT; FLT by order. -/
def cmpFlags (t : Tag) (a b : Word) : Nzcv :=
  if t = Tag.flt then
    match fltCmp a b with
    | none => ⟨false, false, false, true⟩
    | some o => ⟨o == .eq, o == .lt, false, false⟩
  else
    let t' := if t = Tag.fix then Tag.int else t
    let r := wrapV t' (valOf t' a - valOf t' b)
    flagsOf r.1 (decide (a.toNat < b.toNat)) r.2

/-- MIN and MAX (R332, R334). -/
def minMax (max : Bool) (t : Tag) (a b : Word) : AluOut :=
  if t = Tag.flt then
    let r := fltMinMax max a b
    .val ⟨t, r.1⟩ (fltFlags r.1 r.2)
  else
    let w := if (valOf t a < valOf t b) = !max then a else b
    .val ⟨t, w⟩ (flagsOf w false false)

/-- NEG (R310, R313, R332). -/
def negate (t : Tag) (a : Word) : AluOut :=
  if t = Tag.flt then let w := fltNeg a
                      .val ⟨t, w⟩ { fltFlags w false with v := false }
  else if t = Tag.fix then fixOut (-a.toInt)
  else arith 1 Tag.int 0 a

/-- ABS (R310, R313, R332). The spec states no C for INT. -/
def absolute (t : Tag) (a : Word) : AluOut :=
  if t = Tag.flt then let w := a &&& 0x7FFFFFFF#32
                      .val ⟨t, w⟩ { fltFlags w false with v := false }
  else if t = Tag.fix then fixOut |a.toInt|
  else let r := wrapV Tag.int |a.toInt|
       .openC ⟨t, r.1⟩ (flagsOf r.1 false r.2)

/-- The 1 of INC and DEC under a tag (R332). -/
def oneOf (t : Tag) : Word := if t = Tag.fix then 0x00010000 else if t = Tag.flt then 0x3F800000 else 1

/-- The flags of TST (R332). -/
def tstFlags (t : Tag) (a : Word) : Nzcv := if t = Tag.flt then fltFlags a false else flagsOf a false false

/-! ### Conversion -/

/-- A converted word with its flags. -/
def cvtOut (t : Tag) (w : Word) (v : Bool) : AluOut := .val ⟨t, w⟩ (if t = Tag.flt then { fltFlags w v with v := v } else flagsOf w false v)

/-- A converted integer with V. -/
def cvtInt (t : Tag) (r : Int × Bool) : AluOut := cvtOut t (BitVec.ofInt 32 r.1) r.2

/-- An integer saturated to a range, with V. -/
def satTo (lo hi z : Int) : Int × Bool := if z < lo then (lo, true) else if hi < z then (hi, true) else (z, false)

/-- CVT (R315, R335): none where the pair is not in the conversion table. -/
def convert (src dst : Tag) (a : Word) : Option AluOut :=
  let i := a.toInt
  let n : Int := a.toNat
  let bool : Option AluOut := some (cvtOut dst (if a = 0 then 0 else 1) false)
  let same : Option AluOut := some (cvtOut dst a false)
  let num := fun (t : Tag) => t = Tag.int ∨ t = Tag.nat ∨ t = Tag.fix ∨ t = Tag.flt
  if src = dst then (if num src ∨ src = Tag.bool ∨ src = Tag.time ∨ src = Tag.ptr ∨ src = Tag.raw then same else none)
  else if src = Tag.raw then
    (if dst = Tag.bool then bool
     else if num dst ∨ dst = Tag.time ∨ dst = Tag.ptr ∨ dst = Tag.u1 ∨ dst = Tag.u2 then same else none)
  else if dst = Tag.raw then
    (if num src ∨ src = Tag.bool ∨ src = Tag.time ∨ src = Tag.ptr then same else none)
  else if src = Tag.int then
    (if dst = Tag.nat then some (cvtInt dst (satTo 0 (2 ^ 32 - 1) i))
     else if dst = Tag.fix then some (cvtInt dst (satTo (-2 ^ 31) (2 ^ 31 - 1) (i * 65536)))
     else if dst = Tag.flt then some (cvtOut dst (fltOfScaled i 0) false)
     else if dst = Tag.bool then bool else none)
  else if src = Tag.nat then
    (if dst = Tag.int then some (cvtInt dst (satTo (-2 ^ 31) (2 ^ 31 - 1) n))
     else if dst = Tag.fix then some (cvtInt dst (satTo (-2 ^ 31) (2 ^ 31 - 1) (n * 65536)))
     else if dst = Tag.flt then some (cvtOut dst (fltOfScaled n 0) false)
     else if dst = Tag.bool then bool
     else if dst = Tag.ptr ∨ dst = Tag.time then same else none)
  else if src = Tag.fix then
    (if dst = Tag.int then some (cvtInt dst (satTo (-2 ^ 31) (2 ^ 31 - 1) (i.tdiv 65536)))
     else if dst = Tag.nat then some (cvtInt dst (if i < 0 then (0, true) else (i.tdiv 65536, false)))
     else if dst = Tag.flt then some (cvtOut dst (fltOfScaled i (-16)) false)
     else none)
  else if src = Tag.flt then
    (if dst = Tag.int then some (cvtInt dst (fltToInt a 0 (-2 ^ 31) (2 ^ 31 - 1)))
     else if dst = Tag.nat then some (cvtInt dst (if a.getLsbD 31 && !fltIsZero a then (0, true) else fltToInt a 0 0 (2 ^ 32 - 1)))
     else if dst = Tag.fix then some (cvtInt dst (fltToInt a 16 (-2 ^ 31) (2 ^ 31 - 1)))
     else none)
  else if src = Tag.bool then (if dst = Tag.int ∨ dst = Tag.nat then bool else none)
  else if src = Tag.ptr ∨ src = Tag.time then (if dst = Tag.nat then same else none)
  else none

/-- A condition of Bcc and BR holds (R327). -/
def condHolds (flg : BitVec 5) (c : Nat) : Bool :=
  let z := flg.getLsbD 0
  let n := flg.getLsbD 1
  let cy := flg.getLsbD 2
  let v := flg.getLsbD 3
  let t := flg.getLsbD 4
  match c with
  | 0 => true | 1 => z | 2 => !z | 3 => n != v | 4 => n == v | 5 => z || n != v | 6 => !z && n == v
  | 7 => cy | 8 => !cy | 9 => !cy && !z | 10 => cy || z | 11 => n | 12 => !n | 13 => v | 14 => t | _ => !t

end Sys2Proof.Machine
end

