-- ==== Sys2Proof/Machine/Operands.lean ====
section
/-!
DEFINITION. The instruction stream of a core: prefixes, opcode, length class, operand fields and every reason for ILL that
stands in the bytes (R318 to R331, R335 to R339, R342, 09_nolor_encoding.md).
-/

namespace Sys2Proof.Machine

/-- The prefixes of an instruction (R323). -/
structure Prefixes where
  rep : Bool := false
  single : Bool := false
  atomic : Bool := false
  wide : Bool := false
  tagx : Bool := false
deriving DecidableEq, Repr

/-- A decoded instruction. `op` is its opcode byte (0x40 for every Bcc, 0x50 for every UNARY, 0xF7 for CUST); `x` its
condition, unary operation, X field or selector; `d`, `a`, `b`, `nf` the parts of F (R322) or the register of a two-byte
form; `imm` the `immLen` bytes of its immediate, displacement or operand byte, little-endian; `len` its whole length. -/
structure NIns where
  op : Nat
  x : Nat := 0
  d : Nat := 0
  a : Nat := 0
  b : Nat := 0
  nf : Bool := false
  imm : Nat := 0
  immLen : Nat := 0
  pre : Prefixes := {}
  len : Nat := 1
deriving DecidableEq, Repr

/-- What the bytes at a place spell: an instruction, or ILL, with the bytes that were read. -/
inductive Decoded where
  | ins (i : NIns)
  | ill (len : Nat)
deriving DecidableEq, Repr

/-- Bytes of the stream from an offset, little-endian. -/
def leBytes (get : Nat → Nat) (o : Nat) : Nat → Nat
  | 0 => 0
  | n + 1 => get o % 256 + 256 * leBytes get (o + 1) n

/-- The parts of F (R322). -/
def NIns.withF (i : NIns) (f : Nat) : NIns :=
  { i with d := bitsN f 0 5, a := bitsN f 5 5, b := bitsN f 10 5, nf := bitN f 15 }

/-- A tag that a register or a conversion may not be given by MOVI or CVT or a custom result: CHAN, MSG, KEY, CODE, 0xF
(R278). -/
def barredTag (t : Nat) : Bool := t == 8 || t == 9 || t == 10 || t == 11 || t == 15

/-- The lengths L that an extended opcode allows (R329). -/
def extLen (op l : Nat) : Bool :=
  match op with
  | 0xC0 | 0xC2 | 0xC3 => l == 3 || l == 4 || l == 6
  | 0xC1 | 0xC5 | 0xC6 => l == 4 || l == 6
  | 0xC4 => l == 2 || l == 4
  | 0xC7 => l == 6
  | _ => false

/-- The bytes after the prefixes, from offset `p`: the instruction without its prefixes' checks (R320, R321, R326, R328,
R329). -/
def decodeBody (get : Nat → Nat) (p : Nat) (pre : Prefixes) : Decoded :=
  let o := get p % 256
  if o < 0x40 then (if o ≤ 5 then .ins { op := o, pre := pre, len := p + 1 } else .ill (p + 1))
  else if o < 0x80 then
    let q := get (p + 1) % 256
    let i : NIns := { op := if o < 0x50 then 0x40 else o, x := if o < 0x50 then o - 0x40 else 0, imm := q, immLen := 1
                      pre := pre, len := p + 2, d := q % 32, a := q % 32 }
    if o < 0x50 then .ins i
    else if o = 0x50 then (if q / 32 = 7 then .ill (p + 2) else .ins { i with x := q / 32 })
    else if o ≤ 0x56 then .ins i
    else .ill (p + 2)
  else if o < 0xC0 then
    let f := leBytes get (p + 1) 2
    if o ≤ 0xA9 then .ins (NIns.withF { op := o, pre := pre, len := p + 3 } f) else .ill (p + 3)
  else
    let s := get (p + 1) % 256
    let l := s / 16
    let x := s % 16
    let n := p + 2 + (if 2 ≤ l ∧ l ≤ 12 then l else 0)
    if 15 < n ∨ extLen o l = false then .ill (min n 15)
    else if o = 0xC4 then .ins { op := o, x := x, imm := leBytes get (p + 2) l, immLen := l, pre := pre, len := n }
    else if (o = 0xC2 ∨ o = 0xC3 ∨ o = 0xC5 ∨ o = 0xC7) ∧ x ≠ 0 then .ill n
    else .ins (NIns.withF { op := o, x := x, imm := leBytes get (p + 4) (l - 2), immLen := l - 2, pre := pre, len := n }
      (leBytes get (p + 2) 2))

/-- The prefixes from offset `p` on, `n` of them read (R319, R323, R324). CUST is the last and is followed by its selector,
which the core's decode table gives its length. -/
def decodePrefixes (get : Nat → Nat) (custLen : Nat → Option Nat) : Nat → Nat → Prefixes → Decoded
  | 0, p, _ => .ill (p + 1)
  | k + 1, p, pre =>
    let o := get p % 256
    if o < 0xF0 then decodeBody get p pre
    else if k = 0 then .ill (p + 1)
    else
      let more := fun (twice : Bool) (q : Prefixes) => if twice then Decoded.ill (p + 1) else decodePrefixes get custLen k (p + 1) q
      match o with
      | 0xF0 => more pre.rep { pre with rep := true }
      | 0xF1 => more pre.single { pre with single := true }
      | 0xF2 => more pre.atomic { pre with atomic := true }
      | 0xF3 => more pre.wide { pre with wide := true }
      | 0xF4 => more pre.tagx { pre with tagx := true }
      | 0xF7 =>
        let s := get (p + 1) % 256
        match (if s < 16 then custLen s else none) with
        | none => .ill (p + 2)
        | some l =>
          let n := p + 2 + l
          if 15 < n then .ill 15
          else if l = 0 then .ins { op := 0xF7, x := s, pre := pre, len := n }
          else .ins (NIns.withF { op := 0xF7, x := s, imm := leBytes get (p + 4) (l - 2), immLen := l - 2, pre := pre, len := n }
            (leBytes get (p + 2) 2))
      | _ => .ill (p + 1)

/-- Instructions that take no REP (R337). -/
def noRep (op : Nat) : Bool :=
  op == 0x40 || op == 0xC4 || op == 0xC6 || op == 0xC5 || op == 0xA1 || op == 0x52 || op == 0x53 || op == 0x04 || op == 0x03
    || op == 0x02 || op == 0x05 || op == 0x51 || op == 0x99 || op == 0x9A || op == 0xA9

/-- The register that a WIDE form names as a pair is even, and the instruction takes WIDE (R339). -/
def wideOk (i : NIns) : Bool :=
  match i.op with
  | 0xC2 | 0x94 | 0x95 | 0x54 | 0x55 => i.d % 2 == 0
  | 0xC3 => i.b % 2 == 0
  | 0x90 => i.d % 2 == 0 && i.a % 2 == 0
  | 0x9E => i.a == 2 && i.d % 2 == 0
  | _ => false

/-- The special registers by number (R342), and those that MTS may write. -/
def specialKnown (n : Nat) : Bool := decide (n ≤ 8)
def specialWritable (n : Nat) : Bool := n == 0 || n == 1 || n == 5 || n == 8

/-- ILL for reasons that stand in the fields of a whole instruction (R303, R324, R329, R331, R335 to R342, R356). -/
def illFields (i : NIns) : Bool :=
  (i.pre.rep && noRep i.op)
  || (i.pre.atomic && (i.pre.rep || i.pre.wide || !(i.op == 0x96 || i.op == 0x97 || i.op == 0x98)))
  || (i.pre.wide && !wideOk i)
  || (i.op == 0x91 && (bitN i.b 4 || bitsN i.b 0 4 == 0 || barredTag (bitsN i.b 0 4)))
  || (i.op == 0x9E && !specialKnown i.a)
  || (i.op == 0x9F && !specialWritable i.d)
  || (i.op == 0xC0 && (barredTag i.x || (i.x == 4 && i.immLen != 4)))

/-- The instruction that the bytes from a place spell (R318 to R331). -/
def decodeAt (get : Nat → Nat) (custLen : Nat → Option Nat) : Decoded :=
  match decodePrefixes get custLen 4 0 {} with
  | .ins i => if illFields i then .ill i.len else .ins i
  | d => d

/-- A displacement or a signed immediate (R322). -/
def NIns.disp (i : NIns) : Int := signedN i.imm (8 * i.immLen)

/-- The immediate under a tag (R331): sign-extended for INT and FIX, else zero-extended. -/
def NIns.immFor (i : NIns) (t : Tag) : Word :=
  if t = Tag.int ∨ t = Tag.fix then BitVec.ofInt 32 i.disp else BitVec.ofNat 32 i.imm

end Sys2Proof.Machine
end

