-- ==== Sys2Proof/Machine/Press.lean ====
section
/-!
DEFINITION. The Press between edges: engines, regulation, the armature detector, microcode, protection
(04_press.md).
-/

namespace Sys2Proof.Machine

/-! ### Engines -/

/-- RUN of an engine written (R158, R160): 0 puts both threads in STOP, 1 puts stopped threads in IDLE, and the next edge
counts as the first after RUN became 1. -/
def State.setRun (s : State) (e : Nat) (run : Bool) : State :=
  let was := s.bit (F.prsEctlRun e)
  let s1 := s.putBit (F.prsEctlRun e) run
  [2 * e, 2 * e + 1].foldl (fun t ch =>
    if run then
      t.setCoil ch (fun x => { x with st := if x.st = .stop then .idle else x.st, fresh := x.fresh || !was })
    else t.plStop ch .stop) s1

/-- ENGINE_START: RUN of an engine is written to 1. -/
def execEngineStart (e : Fin 6) (s : State) : Out :=
  .next (s.store (.engineStart e) (·.setRun e true))

/-- ENGINE_STOP: RUN of an engine is written to 0. -/
def execEngineStop (e : Fin 6) (s : State) : Out :=
  .next (s.store (.engineStop e) (·.setRun e false))

/-- A thread moves to FAULT, or, in FAULT already, meets a further cause (R160, R178): its channel's source occurs, and an
entry raises the engine's event. A stopped thread stays in STOP. -/
def State.plFault (s : State) (ch : Nat) (cause : CoilDiag → CoilDiag) : State :=
  let x := s.coil ch
  match x.st with
  | .stop => s.raiseSource (96 + ch)
  | .fault => (s.setCoil ch (fun y => { y with dg := cause y.dg })).raiseSource (96 + ch)
  | _ =>
    let s1 := (s.plStop ch .fault).setCoil ch (fun y => { y with dg := cause y.dg, fr := { y.fr with flt := true } })
    (s1.raiseEvent (64 + ch / 2)).raiseSource (96 + ch)

/-- A microcode fault (R169): UCODE and FPC, and the engine's source beside the channel's. -/
def State.ucFault (s : State) (ch : Nat) : State :=
  (s.plFault ch (fun d => { d with ucode := true, fpc := (s.coil ch).pc % 512 })).raiseSource (115 + ch / 2)

/-- The thread goes on at the next word; past word 511 is a microcode fault (R167). -/
def State.ucNext (s : State) (t : Nat) (f : Coil → Coil) : State :=
  if 511 ≤ (s.coil t).pc then (s.setCoil t f).ucFault t
  else s.setCoil t (fun x => { (f x) with
    pc := x.pc + 1 })

/-- A thread's wait ends and it goes on at the next word: PC advances after the instruction, not at its issue (R167). -/
def State.ucDone (s : State) (t : Nat) : State := s.ucNext t (fun x => { x with wait := .ready })

/-! ### Records that a step at an edge changes -/

/-- Offset of a channel's record in the input image (R186). -/
def plRec (ch : Nat) : Nat := 0x1900 + 0x40 * ch

/-- The STATE word of a channel's record (R190): the odd record of a pair repeats the even one's, but for its own clamp. -/
def State.plState (s : State) (ch : Nat) : Nat :=
  let e := s.plGov ch
  let x := s.coil e
  let c := s.effPl e
  x.st.code + 8 * b2n c.on + 16 * b2n s.win.safe + 32 * b2n (s.plPaired ch) + 64 * b2n x.last.holdx + 128 * b2n x.last.rpk
    + 256 * b2n x.last.armv + 512 * b2n x.last.nodip + 1024 * b2n x.t + 2048 * x.decay
    + 8192 * s.fld (F.prsChcfgClamp e) + 16384 * b2n x.hend
    + 65536 * (PlCmd.ofWord (s.committed (0x800 + 4 * e))).token

/-! ### Starts -/

/-- GRANTED_SLOT_START: the granted slot of a request begins. A start enters PEAK at CSTART (R160); a re-peak leaves HOLD for
its re-peak address; a grant clears the detector and its results (R171). -/
def execGrantedSlotStart (t : Fin 12) (s : State) : Out :=
  let x := s.coil t
  .next (
    if x.slot = some s.frm.slot && s.plGoverns t && s.pressRuns then
      let s1 := s.advance (s.slotAt s.frm.slot)
      match x.st, x.wait with
      | .waitg, _ => s1.setCoil t (fun y => { y with
          st := .peak, slot := none, pc := s.fld (F.prsCstartAddr t), target := 0, decay := 0, fs := 1, t := false, lc := 0
          wait := .ready, det := {}, grantAt := s1.count, ls := false, fw := true, offN := 0 })
      | .hold, .hold a => s1.setCoil t (fun y => { y with
          st := .peak, slot := none, pc := a, t := false, wait := .ready, det := {}, grantAt := s1.count
          fr := { y.fr with rpk := true } })
      | _, _ => s
    else s)

/-! ### Regulation -/

/-- One sample added to the sums of a frame. -/
def Acc.add (a : Acc) (v : Int) : Acc :=
  { n := a.n + 1, sum := a.sum + v, sq := a.sq + (v * v).toNat
    hi := if a.n = 0 then v else max a.hi v, lo := if a.n = 0 then v else min a.lo v }

/-- The freewheel switch of an off phase (R148): slow on, fast off, mixed off for FS samples; a clamp guard makes fast act
as slow (R149, R150). -/
def freewheel (decay fs offN : Nat) (slow : Bool) : Bool :=
  slow || (match decay with | 0 => true | 1 => false | _ => decide (max 1 fs ≤ offN))

/-- The detector at a counted sample `v` with index `i` (R170): the running maximum, the dip, the seat. -/
def Det.sample (d : Det) (v : Int) (i : Nat) : Det :=
  match d.armed with
  | none => d
  | some (_, th) =>
    match d.dip with
    | some (m, l, li) =>
      if 4 * l + th ≤ 4 * v then
        { d with armed := none, arm := true, tseat := li, dipma := (m - l).toNat }
      else if v < l then { d with dip := some (m, v, i) } else d
    | none =>
      match d.m with
      | none => { d with m := some (v, i) }
      | some (m, mi) =>
        if m < v then { d with m := some (v, i) }
        else if v ≤ m - th then { d with dip := some (m, v, i), tmove := mi }
        else d

/-- The regulator's switches at a sample (R165): below the band on, if the bank is on; above it off, or with a target of
0; an off phase that goes on counts its samples. -/
def Coil.regulate (x : Coil) (h v : Int) (bank slow : Bool) : Coil :=
  if !bank then { x with ls := false, fw := false, det := { x.det with m := if x.ls then none else x.det.m } }
  else if v ≤ x.target - h ∧ x.target ≠ 0 then { x with ls := true, fw := false, offN := 0 }
  else if x.ls ∧ (x.target + h ≤ v ∨ x.target = 0) then
    { x with ls := false, fw := freewheel x.decay x.fs 0 slow, offN := 0, det := { x.det with m := none } }
  else if x.ls then x
  else { x with fw := freewheel x.decay x.fs (x.offN + 1) slow, offN := x.offN + 1 }

/-- What a thread's wait does at a sample: a crossing clears T and ends the wait; a ramp takes a step (R166, R167). -/
def Coil.waited (x : Coil) (v : Int) : Coil :=
  match x.wait with
  | .cross below lvl _ => if (if below then v ≤ lvl else lvl ≤ v) then { x with t := false, wait := .ready } else x
  | .ramp goal step =>
    let n := if x.target ≤ goal then min goal (x.target + step) else max goal (x.target - step)
    { x with target := n, wait := if n = goal then .ready else x.wait }
  | _ => x

/-- One coil channel at a sample: the regulator, the detector, the wait, the runs of R180. DESIGN CHOICE: LSG of a formed pair is judged
from the even channel's land; R180 does not say whether the odd land counts too. -/
def State.coilSample (s : State) (ch : Nat) : State :=
  let v := s.plSample ch
  let own := s.pin (.plI ch)
  let q := max (-8192) (min 8191 (roundAway own 3)) * 3
  let s0 := s.setCoil ch (fun x => { x with fr := { x.fr with acc := x.fr.acc.add (if s.plGoverns ch then v else q) } })
  if !s.plGoverns ch then s0 else
  let x := s0.coil ch
  let bank := s.pbankOn (ch / 4)
  let h : Int := 10 * s.fld (F.prsChcfgHyst ch)
  let wasOn := x.ls
  let x1 := if x.st.regulates then
      let y := x.regulate h v bank (s.plSlow ch)
      let d := if wasOn then x.det.sample v ((s.count - x.grantAt) / 300) else x.det
      let d' := if wasOn && !y.ls then { d with m := none } else d
      ({ y with det := d', fr := { y.fr with armv := y.fr.armv || (x.det.armed.isSome && d.armed.isNone) } }).waited v
    else { x with ls := false, fw := x.fw && decide (50 ≤ v) }
  let o := if wasOn && decide (200 ≤ x.target) && decide (v < 50) then x.dg.openRun + 1 else 0
  let l := if !wasOn && bank && decide (s.pin (.plV ch) < 2000) then x.dg.lsgRun + 1 else 0
  let s1 := s0.setCoil ch (fun _ => { x1 with
    wait := x.wait
    dg := { x1.dg with openRun := o, lsgRun := l }
    fr := { x1.fr with opn := x1.fr.opn || decide (2000 ≤ o), lsg := x1.fr.lsg || decide (2 ≤ l) } })
  if x.wait != .ready && x1.wait == .ready then s1.ucDone ch else s1.setCoil ch (fun y => { y with wait := x1.wait })

/-- REGULATOR_SAMPLE: the next coil sample of the frame, at E + 0.5·j µs (R146, R165), under the readings `w`. -/
def execRegulatorSample (w : World) (s : State) : Out :=
  let j := max s.prs.sampleJ ((s.count - s.frm.edgeAt + 299) / 300)
  let s1 := s.observe w
  .next (
    if s.domOn domPress && s.frameRuns && decide (j < 2 * s.tfUs) then
      let s2 := s1.advance (s.frm.edgeAt + 300 * j)
      let s3 := forEach 12 State.coilSample { s2 with prs := { s2.prs with sampleJ := j + 1 } }
      forEach 3 (fun t b => t.setPbank b (fun x => { x with
        acc := x.acc.add (max (-8192) (min 8191 (roundAway (t.pin (.pbI b)) 6)) * 6) })) s3
    else s1)

/-- DETECTOR_WINDOW_CLOSE: an armed window closes without a confirmed seat (R170, R171): NARM holds and the times are 0. -/
def execDetectorWindowClose (t : Fin 12) (s : State) : Out :=
  .next (match (s.coil t).det.armed with
    | some (e, _) =>
      if s.pressRuns then
        (s.advance e).setCoil t (fun x => { x with
          det := { x.det with armed := none, m := none, dip := none, narm := true, tmove := 0, tseat := 0, dipma := 0 }
          fr := { x.fr with nodip := true } })
      else s
    | none => s)

/-! ### Microcode -/

/-- The word that a thread issues next: the thread regulates and waits for nothing, the engine runs, and the word does not
lie in the range of a loader copy that runs (R162 to R164). -/
def State.ucReady (s : State) (t : Nat) : Option Nat :=
  let x := s.coil t
  let e := t / 2
  let held := match s.prs.loading with
    | some (g, a, n) => g == e && decide (a ≤ x.pc) && decide (x.pc < a + n)
    | none => false
  if s.plGoverns t && x.st.regulates && x.wait == .ready && s.pressRuns && !held then some (s.ucode e x.pc) else none

/-- Issues an instruction of opcode `op`, with its operand word. -/
def State.issue (s : State) (t op : Nat) (f : State → Nat → State) : Out :=
  .next (match s.ucReady t with
    | some w => if bitsN w 19 5 = op then f s w else s
    | none => s)

/-- The thread goes on at an address. -/
def State.ucJump (s : State) (t a : Nat) (f : Coil → Coil) : State := s.setCoil t (fun x => { (f x) with
    pc := a })

/-- A parameter P0 to P3 of a channel in mA (R167). -/
def State.param (s : State) (t k : Nat) : Int :=
  10 * (match k with
    | 0 => s.fld (F.prsParaP0 t) | 1 => s.fld (F.prsParaP1 t) | 2 => s.fld (F.prsParbP2 t) | _ => s.fld (F.prsParbP3 t))

/-- The target that SET gives, mA. -/
def State.setValue (s : State) (t w : Nat) : Int :=
  if bitN w 12 then s.param t (bitsN w 0 2) else 10 * bitsN w 0 12

/-- UC_NOP (R166). -/
def execUcNop (t : Fin 12) (s : State) : Out := s.issue t 0x00 (fun u _ => u.ucNext t id)

/-- UC_SET: T takes a value or a parameter (R166). -/
def execUcSet (t : Fin 12) (s : State) : Out :=
  s.issue t 0x01 (fun u w => u.ucNext t (fun x => { x with target := u.setValue t w }))

/-- UC_RAMP: T moves toward the value by 5 mA × RATE at each sample; RATE 0 acts as SET (R166). -/
def execUcRamp (t : Fin 12) (s : State) : Out :=
  s.issue t 0x02 (fun u w =>
    let g := u.setValue t w
    let r := bitsN w 13 6
    if r = 0 ∨ (u.coil t).target = g then u.ucNext t (fun x => { x with target := g })
    else u.setCoil t (fun x => { x with wait := .ramp g (5 * r) }))

/-- UC_WAITS: waits for the N-th slot boundary after issue (R166). -/
def execUcWaits (t : Fin 12) (s : State) : Out :=
  s.issue t 0x03 (fun u w =>
    let n := bitsN w 0 16
    if n = 0 then u.ucNext t id else u.setCoil t (fun x => { x with wait := .slots n }))

/-- UC_WAITU: waits N µs (R166). -/
def execUcWaitu (t : Fin 12) (s : State) : Out :=
  s.issue t 0x04 (fun u w =>
    let n := bitsN w 0 16
    if n = 0 then u.ucNext t id else u.setCoil t (fun x => { x with wait := .until (u.count + ticksPerUs * n) }))

/-- UC_WAITU_EXPIRE: the N µs of a WAITU have run and the thread continues (R166). -/
def execUcWaituExpire (t : Fin 12) (s : State) : Out :=
  .next (match (s.coil t).wait with
    | .until e => if s.pressRuns then (s.advance e).ucDone t else s
    | _ => s)

/-- UC_WAITC: waits for a sample that crosses the level, or for the timeout (R166, R167). -/
def execUcWaitc (t : Fin 12) (s : State) : Out :=
  s.issue t 0x05 (fun u w =>
    let n := bitsN w 12 5
    let us := n * (if bitN w 17 then 2000 else 100)
    u.setCoil t (fun x => { x with
      wait := .cross (bitN w 18) (10 * bitsN w 0 12) (if n = 0 then none else some (u.count + ticksPerUs * us)) }))

/-- UC_WAITC_TIMEOUT: the timeout of a WAITC runs out: T is set and the thread continues (R166). -/
def execUcWaitcTimeout (t : Fin 12) (s : State) : Out :=
  .next (match (s.coil t).wait with
    | .cross _ _ (some e) =>
      if s.pressRuns then (s.advance e).ucNext t (fun x => { x with t := true, wait := .ready }) else s
    | _ => s)

/-- UC_DECAY: the decay mode and FS; MODE 3 is a microcode fault (R166). -/
def execUcDecay (t : Fin 12) (s : State) : Out :=
  s.issue t 0x06 (fun u w =>
    if bitsN w 0 2 = 3 then u.ucFault t
    else u.ucNext t (fun x => { x with decay := bitsN w 0 2, fs := max 1 (bitsN w 2 8) }))

/-- A branch condition holds (R168); none for the codes 8 to 15. -/
def State.ucCond (s : State) (t c : Nat) : Option Bool :=
  let x := s.coil t
  match c with
  | 0 => some true
  | 1 => some (s.effPl t).on
  | 2 => some (!(s.effPl t).on)
  | 3 => some x.det.arm
  | 4 => some x.det.narm
  | 5 => some x.t
  | 6 => some (!x.t)
  | 7 => some x.hend
  | _ => none

/-- UC_BR: goes to ADDR if COND holds; COND 8 to 15 is a microcode fault (R166, R168). -/
def execUcBr (t : Fin 12) (s : State) : Out :=
  s.issue t 0x07 (fun u w =>
    match u.ucCond t (bitsN w 15 4) with
    | some true => u.ucJump t (bitsN w 0 9) id
    | some false => u.ucNext t id
    | none => u.ucFault t)

/-- UC_LPS: LC takes N (R166). -/
def execUcLps (t : Fin 12) (s : State) : Out :=
  s.issue t 0x08 (fun u w => u.ucNext t (fun x => { x with lc := bitsN w 0 16 }))

/-- UC_LPJ: a loop count above 0 counts down, and the thread jumps while it is not 0 (R166). -/
def execUcLpj (t : Fin 12) (s : State) : Out :=
  s.issue t 0x09 (fun u w =>
    let n := (u.coil t).lc - 1
    if n = 0 then u.ucNext t (fun x => { x with lc := n }) else u.ucJump t (bitsN w 0 9) (fun x => { x with lc := n }))

/-- UC_ARMD: arms the armature detector for WIN × 100 µs with a dip of DIP × 10 mA; WIN 0 disarms, DIP 0 acts as 1. -/
def execUcArmd (t : Fin 12) (s : State) : Out :=
  s.issue t 0x0A (fun u w =>
    let win := bitsN w 10 9
    u.ucNext t (fun x => { x with det := { x.det with
      armed := if win = 0 then none else some (u.count + ticksPerUs * 100 * win, 10 * (max 1 (bitsN w 0 10) : Nat))
      m := none, dip := none } }))

/-- UC_HOLD (R160, R166): a thread in PEAK holds, or passes on into REL where the hold-ended flag is set; in REL it falls
through. Leaving PEAK disarms the detector (R171). -/
def execUcHold (t : Fin 12) (s : State) : Out :=
  s.issue t 0x0B (fun u w =>
    let x := u.coil t
    if x.st = .peak then
      if x.hend then u.ucNext t (fun y => { y with st := .rel, det := { y.det with armed := none } })
      else u.setCoil t (fun y => { y with st := .hold, wait := .hold (bitsN w 0 9), det := { y.det with armed := none } })
    else if x.st = .rel then u.ucNext t id
    else u)

/-- UC_SIG: CODE goes to the record and the engine's event is raised (R166). -/
def execUcSig (t : Fin 12) (s : State) : Out :=
  s.issue t 0x0C (fun u w =>
    (u.ucNext t (fun x => { x with dg := { x.dg with code := bitsN w 0 8 }, fr := { x.fr with sig := true } })).raiseEvent
      (64 + t.val / 2))

/-- UC_END: the profile ends; an activation that is pending starts it again at the next edge (R160, R166). -/
def execUcEnd (t : Fin 12) (s : State) : Out :=
  s.issue t 0x0D (fun u _ =>
    let again := (u.coil t).pendAct
    (u.plStop t .idle).setCoil t (fun x => { x with pendAct := again }))

/-- MICROCODE_FAULT: the word that thread `t` would issue has no defined meaning, or its parity error recurs (R163, R166 to
R169). -/
def execMicrocodeFault (t : Fin 12) (parity : Bool) (s : State) : Out :=
  .next (match s.ucReady t with
    | some w =>
      let op := bitsN w 19 5
      if parity || decide (0x0E ≤ op) || (op == 6 && bitsN w 0 2 == 3) || (op == 7 && decide (8 ≤ bitsN w 15 4)) then s.ucFault t
      else s
    | none => s)

/-! ### Protection -/

/-- COIL_SHUTOFF: the current of a channel or pair, mA, exceeds its threshold, or its low-side junction 165 °C (R178). -/
def execCoilShutoff (ch : Fin 12) (amps deg : Int) (s : State) : Out :=
  let e := s.plGov ch
  let lim : Int := 100 * s.fld (F.prsChcfgIlim e) * (if s.plPaired e then 2 else 1)
  let oc := decide (lim < amps)
  let ot := decide (165 * 16 < deg)
  .next (if s.pressRuns && (oc || ot) then
    s.plFault e (fun d => { d with oc := d.oc || oc, ot := d.ot || ot }) else s)

/-- BANK_SHUTOFF: the current of a bank switch, mA, exceeds its threshold, or its junction 165 °C (R177): it locks, its
source sets, and every channel on the bank moves to FAULT. -/
def execBankShutoff (b : Fin 3) (amps deg : Int) (s : State) : Out :=
  let oc := decide ((200 * s.fld (F.prsBankIlim b) : Int) < amps)
  let ot := decide (165 * 16 < deg)
  .next (
    if s.pressRuns && !(s.pbank b).lock && (oc || ot) then
      let s1 := (s.setPbank b (fun x => { x with lock := true, oc := x.oc || oc, ot := x.ot || ot })).raiseSource (112 + b)
      forEach 4 (fun t i =>
        let ch := 4 * b.val + i
        if t.plGoverns ch then t.plFault ch (fun d => { d with bank := true }) else t) s1
    else s)

/-- CLAMP_OVERTEMP: a clamp's junction reaches 165 °C while it conducts: the freewheel turns on and the rest of the decay is
slow (R150). -/
def execClampOvertemp (ch : Fin 12) (deg : Int) (s : State) : Out :=
  let e := s.plGov ch
  let x := s.coil e
  .next (
    if s.pressRuns && decide (165 * 16 ≤ deg) && !x.ls && !x.fw then
      ((s.setPin (.plClp ch) deg).setCoil ch (fun y => { y with dg := { y.dg with clpT := true }, fr := { y.fr with clpt := true } })).setCoil
        e (fun y => { y with fw := true })
    else s)

/-- LOADER_COPY_COMPLETE: a loader copy is complete, and fetches from its range go on (R164); words that wait for PRESS keep it open. -/
def execLoaderCopyComplete (s : State) : Out :=
  .next (if s.prs.copy.isEmpty then { s with prs := { s.prs with loading := none } } else s)

/-- PX_SHUTOFF: the current of a PX channel exceeds 9000 mA or its junction 165 °C: it turns off and locks, and its source
sets (R184). -/
def execPxShutoff (x : Fin 4) (amps deg : Int) (s : State) : Out :=
  let oc := decide ((9000 : Int) < amps)
  let ot := decide (165 * 16 < deg)
  .next (
    if !(s.px x).lock && (oc || ot) && !s.unpowered then
      ((s.setPx x (fun y => { y with
        on := false, onAll := false, lock := true, oc := y.oc || oc, ot := y.ot || ot }))).raiseSource (108 + x)
    else s)

end Sys2Proof.Machine
end

