-- ==== Sys2Proof/Machine/PressEdge.lean ====
section
/-!
DEFINITION. What an edge does with the Press: statistics, staged writes, activations, arbitration, and the records of the
input image (R147 to R191).
-/

namespace Sys2Proof.Machine

/-! ### The closing frame -/

/-- IMEAN, IPEAK, IMIN and IRMS of a frame's sums (R190); a frame without a sample has none to report, and the values are
open. -/
def State.accStats (s : State) (a : Acc) : (Int × Int × Int × Int) × State :=
  if a.n = 0 then
    (((Config.freeWord s.free).toInt, (Config.freeWord (s.free + 1)).toInt, (Config.freeWord (s.free + 2)).toInt,
      (Config.freeWord (s.free + 3)).toInt), { s with free := s.free + 4 })
  else ((roundAway a.sum a.n, a.hi, a.lo, (((isqrt (4 * a.sq / a.n) + 1) / 2 : Nat) : Int)), s)

/-- The words of a coil channel's record that report the frame that closes. -/
def State.coilClose (s : State) (ch : Nat) : State :=
  let x := s.coil ch
  let q := s.accStats x.fr.acc
  let r := plRec ch
  let s1 := (((q.2.putIn (r + 4) (TWord.int q.1.1)).putIn (r + 8) (TWord.int q.1.2.1)).putIn (r + 12)
    (TWord.int q.1.2.2.1)).putIn (r + 16) (TWord.int q.1.2.2.2)
  (s1.putIn (r + 0x2C) (TWord.nat (max 0 (min 0xFFFFFFFF (s.pin (.plUj ch)))).toNat))

/-- The words of a bank's record that report the frame that closes. -/
def State.bankClose (s : State) (b : Nat) : State :=
  let q := s.accStats (s.pbank b).acc
  let r := 0x1820 + 0x20 * b
  (q.2.putIn (r + 4) (TWord.int q.1.1)).putIn (r + 8) (TWord.int q.1.2.1)

/-- The words of a PX record that report the frame that closes, and OPEN (R185, R191). -/
def State.pxClose (s : State) (x : Nat) : State :=
  let p := s.px x
  let r := 0x1C00 + 0x20 * x
  let q := s.stats p.samples
  let opn := p.onAll && !p.samples.isEmpty && p.samples.all (fun i => decide (i < 20))
  let s1 := if p.samples.isEmpty then { s with free := s.free + 4 } else s
  let s2 := ((s1.putIn (r + 4) (TWord.int q.1)).putIn (r + 8) (TWord.int q.2.1)).putIn (r + 16)
    (TWord.nat (max 0 (min 0xFFFFFFFF (s.pin (.pxUj x)))).toNat)
  s2.setPx x (fun y => { y with
    rep := 8 * b2n y.oc + 16 * b2n y.ot + 32 * b2n opn, oc := false, ot := false, samples := [] })

/-- The Press at the close of a frame, under its configuration: statistics, the frame's notes set aside for the records,
reservations counted from the new frame's slot 0 (R174), a refused loader copy reported (R164). -/
def State.prsClose (s : State) : State :=
  let s1 := if s.domOn domPress then forEach 3 State.bankClose (forEach 12 State.coilClose s) else s
  let s2 := forEach 4 State.pxClose s1
  let n : Int := s.seff
  let s3 := forEach 12 (fun t c => t.setCoil c (fun x => { x with last := x.fr, fr := {}, age := x.age + 1 })) s2
  let s4 := forEach 3 (fun t b => t.setPbank b (fun x => { x with
    rep := 4 * b2n x.oc + 8 * b2n x.ot + 16 * b2n x.ovr + 32 * b2n x.stag
    oc := false, ot := false, ovr := false, stag := false, acc := {}
    resv := (x.resv.map (fun r => (r.1, r.2.1 - n, r.2.2 - n))).filter (fun r => decide (0 ≤ r.2.2)) })) s3
  let s5 := match s.prs.lderr with
    | some e => let t := s4.setBit F.prsStatLderr
                if e < 6 then t.raiseSource (115 + e) else t
    | none => s4
  { s5 with prs := { s5.prs with sampleJ := 0, lddone := s.prs.ldlate, ldlate := [], lderr := none, ldrep := s.prs.lderr } }

/-! ### Staged writes -/

/-- A change of PRS.PAIR (R161): engine by engine, where both threads are IDLE or STOP; else refused for that engine. -/
def State.applyPlPair (s : State) (w : Word) : State :=
  forEach 6 (fun t e =>
    let old := (t.fld F.prsPairPl).testBit e
    let new := w.getLsbD e
    let rest := fun c => (t.coil c).st = .idle ∨ (t.coil c).st = .stop
    if old == new then t
    else if rest (2 * e) ∧ rest (2 * e + 1) then
      (t.setReg 0x40020008 (setBits (t.reg 0x40020008) e 1 (b2n new))).setCoil (2 * e + 1) (fun x => { x with
        st := if new then .idle else if t.bit (F.prsEctlRun e) then .idle else .stop, fresh := false })
    else t.setBit F.prsStatPairrej) s

/-- A clear of a channel (R179): accepted for a thread in FAULT whose junctions read 150 °C or less and whose bank is not
locked. -/
def State.applyPlClear (s : State) (ch : Nat) : State :=
  if !s.plGoverns ch then s
  else if (s.coil ch).st = .fault ∧ (s.plMembers ch).all (fun c => decide (s.pin (.plTj c) ≤ 150 * 16)) ∧
      (s.pbank (ch / 4)).lock = false then
    s.setCoil ch (fun x => { x with
      st := .idle, fresh := true, dg := { x.dg with oc := false, ot := false, bank := false, ucode := false } })
  else s.setBit F.prsStatClrrej

/-- A clear of a bank (R177): accepted with its junction at 150 °C or less; it also clears every channel whose FAULT has BANK
as its only cause. -/
def State.applyBankClear (s : State) (b : Nat) : State :=
  if s.pin (.pbTj b) ≤ 150 * 16 then
    forEach 4 (fun t i =>
      let ch := 4 * b + i
      let d := (t.coil ch).dg
      if t.plGoverns ch ∧ (t.coil ch).st = .fault ∧ d.bank = true ∧ d.oc = false ∧ d.ot = false ∧ d.ucode = false then
        t.setCoil ch (fun x => { x with st := .idle, fresh := true, dg := { x.dg with bank := false } })
      else t) (s.setPbank b (fun x => { x with lock := false }))
  else s.setBit F.prsStatClrrej

/-- A clear of a PX channel (R184). -/
def State.applyPxClear (s : State) (x : Nat) : State :=
  if (s.px x).lock = true ∧ s.pin (.pxTj x) ≤ 150 * 16 then s.setPx x (fun y => { y with lock := false })
  else s.setBit F.prsStatClrrej

/-- A staged write of a PRS register that has a rule of its own; a loader command waits for LDSRC. -/
def State.applyPrs (s : State) (a : Nat) (w : Word) : Option State :=
  if a = 0x40020008 then some (s.applyPlPair w)
  else if a = 0x40020010 then some ((s.applyPlain a w).setFld F.prsLdctlGo 0)
  else if 0x40020090 ≤ a ∧ a < 0x4002009C then some (if w.getLsbD 0 then s.applyBankClear ((a - 0x40020090) / 4) else s)
  else if 0x40020240 ≤ a ∧ a < 0x40020270 then some (if w.getLsbD 0 then s.applyPlClear ((a - 0x40020240) / 4) else s)
  else if 0x40020290 ≤ a ∧ a < 0x400202A0 then some (if w.getLsbD 0 then s.applyPxClear ((a - 0x40020290) / 4) else s)
  else none

/-- The words that a loader copy reads, and the state after their reads (R164, R404, R409, R410): each is checked, and a bank that sleeps
wakes; none where a word's bank fails to wake or the word is uncorrectable. -/
def State.loaderRead (s : State) : List Nat → Option (List Word) × State
  | [] => (some [], s)
  | a :: l =>
    if s.wakeFails a then (none, s.wakeFailed (bankOf a))
    else
      let e := s.eccAt a
      let r := s.grnRead 6 a e
      if e = .double then (none, r.2)
      else
        let q := r.2.loaderRead l
        (q.1.map (r.1.val :: ·), q.2)

/-- The words of the copies enter the microcode stores (R164). -/
def State.loaderWrite (s : State) : State :=
  let s1 := s.prs.copy.foldl (fun t p => t.setUcode p.1 p.2.1 p.2.2) s
  { s1 with prs := { s1.prs with copy := [] } }

/-- Words that wait for PRESS enter the microcode stores (R164, R436); the next image reports the copies (R189). -/
def State.loaderStore (s : State) : State :=
  let done := (upto 6).filter (fun e => s.prs.copy.any (fun p => p.1 == e))
  let s1 := s.loaderWrite
  { s1 with prs := { s1.prs with ldlate := s1.prs.ldlate ++ done } }

/-- A copy refused (R164, R192). -/
def State.loaderRefuse (s : State) : State := { s with prs := { s.prs with lderr := some (s.fld F.prsLdctlEng) } }

/-- The loader at step 2 of an edge that applies a GO (R164, R192): refused for an engine above 5, past word 511, from a bank that PLD does
not own, which is reported (R404), or with a word that it does not get; nothing for a COUNT of 0; else the words are copied, and fetches
from the range stall until the copy completes. A PRESS that is not ON wakes and takes the words once it is ON (R436); one that is locked
off drops them (R437). DESIGN CHOICE: the two low bits of LDSRC.ADDR are kept as written and ignored; the table says a multiple of 4 and
nothing of another value. -/
def State.loaderGo (s : State) : State :=
  let n := s.fld F.prsLdctlCount
  let e := s.fld F.prsLdctlEng
  let d := s.fld F.prsLdctlDst
  let a := s.fld F.prsLdsrcAddr / 4 * 4
  let words := (upto n).map (fun i => a + 4 * i)
  if 6 ≤ e then s.loaderRefuse
  else if n = 0 then s
  else if 512 < d + n then s.loaderRefuse
  else match words.find? (fun p => !(inGranary p && s.owner (bankOf p) == 6)) with
    | some p => (if inGranary p then s.nonOwner p 6 false false else s).loaderRefuse
    | none =>
      let r := s.loaderRead words
      match r.1 with
      | none => r.2.loaderRefuse
      | some l =>
        if s.domLocked domPress then r.2.lockAccess
        else
          let t := r.2
          let t1 : State := { t with prs := { t.prs with
            copy := t.prs.copy ++ (l.zipIdx.map (fun p => (e, d + p.2, p.1))), loading := some (e, d, n) } }
          if s.domOn domPress then
            let t2 := t1.loaderWrite
            { t2 with prs := { t2.prs with lddone := t2.prs.lddone ++ [e] } }
          else t1.demand domPress

/-! ### The edge -/

/-- The clamp guard of a channel at an edge (R149, R150). -/
def State.clampGuard (s : State) (ch : Nat) : State :=
  let v := s.pin (.vbat 2)
  let c45 := !s.bit (F.prsChcfgClamp ch)
  s.setCoil ch (fun x => { x with dg := { x.dg with
    clpLow := c45 && (decide (38000 ≤ v) || (x.dg.clpLow && decide (36000 < v)))
    clpT := x.dg.clpT && decide (150 * 16 < s.pin (.plClp ch)) } })

/-- The command of a channel at an edge: activation, and what it does in each state (R154 to R156); a pending activation
starts the profile again. While PRESS is not ON a start wakes it (R25). -/
def State.coilEdge (s : State) (ch : Nat) : State :=
  if !s.plGoverns ch then s else
  let c := s.effPl ch
  if !s.domOn domPress then (if c.on then s.demandOrLock domPress else s) else
  let x := s.coil ch
  let act := c.on && (!x.lastOn || c.token != x.lastTok || x.fresh)
  let s1 := s.setCoil ch (fun y => { y with lastOn := c.on, lastTok := c.token, fresh := false })
  let s2 := if act then s1.setCoil ch (fun y => { y with
      hend := false, age := 0, dg := { y.dg with actcnt := incTo 0xFFFFFFFF y.dg.actcnt } }) else s1
  match x.st with
  | .idle =>
    if act || x.pendAct then s2.setCoil ch (fun y => { y with st := .waitg, request := true, pendAct := false }) else s2
  | .hold =>
    if act then s2.setCoil ch (fun y => { y with
      request := y.request || c.repeak, fr := { y.fr with holdx := true } }) else s2
  | .rel => if act then s2.setCoil ch (fun y => { y with pendAct := true }) else s2
  | _ => s2

/-- The arbiter at an edge (R174): every request, in ascending channel index; OVER sets a bank's source where WOVER asks for
it (R175). -/
def State.stagger (s : State) : State :=
  let s1 := forEach 12 (fun t ch => if (t.coil ch).request then t.arbitrate ch else t) s
  forEach 3 (fun t b => if (t.pbank b).ovr && t.bit (F.prsBankWover b) then t.raiseSource (112 + b) else t) s1

/-- The Press at an edge after its staged writes and the commit. -/
def State.prsEdge (s : State) : State :=
  let s1 := forEach 12 State.coilEdge (forEach 12 (fun t ch => if t.plGoverns ch && t.domOn domPress then t.plGuard ch else t) (forEach 12 State.clampGuard s))
  let s2 := (if s1.domOn domPress then s1.stagger else s1)
  forEach 4 (fun t x => let u := t.movePx x; u.setPx x (fun y => { y with onAll := y.on })) s2

/-! ### Records -/

/-- The DIAG word of a channel's record (R190). -/
def State.plDiag (s : State) (ch : Nat) : Nat :=
  let e := s.plGov ch
  let x := s.coil e
  let any := fun (p : Coil → Bool) => (s.plMembers e).any (fun c => p (s.coil c))
  b2n x.dg.oc + 2 * b2n x.dg.ot + 4 * b2n x.dg.bank + 8 * b2n x.dg.ucode + 16 * b2n x.last.opn + 32 * b2n x.last.lsg
    + 64 * b2n (any (fun c => c.last.clpt)) + 128 * b2n (any (fun c => c.dg.clpLow))

/-- The words of a channel's record that report the edge (R190). -/
def State.coilRecord (s : State) (ch : Nat) : State :=
  let r := plRec ch
  let x := s.coil ch
  let g := s.coil (s.plGov ch)
  let s1 := (s.putIn r (TWord.nat (s.plState ch))).putIn (r + 0x14) (TWord.int x.target)
  let s2 := (s1.putIn (r + 0x18) (TWord.int (s.pin (.plTj ch)))).putIn (r + 0x1C) (TWord.int (s.pin (.plClp ch)))
  let s3 := ((s2.putIn (r + 0x20) (TWord.nat x.det.tmove)).putIn (r + 0x24) (TWord.nat x.det.tseat)).putIn (r + 0x28)
    (TWord.nat x.det.dipma)
  let s4 := s3.putIn (r + 0x30) (TWord.nat (g.last.delay + 64 * b2n g.last.grant + 128 * b2n g.last.ovr))
  let s5 := s4.putIn (r + 0x34) (TWord.nat (x.pc % 512 + 512 * x.dg.fpc + 2 ^ 18 * x.dg.code))
  (s5.putIn (r + 0x38) (TWord.nat x.dg.actcnt)).putIn (r + 0x3C) (TWord.nat (s.plDiag ch))

/-- The sources that rise with a channel's reported faults (R181). -/
def State.coilSource (s : State) (ch : Nat) : State :=
  if !s.plGoverns ch then s else
  let w := s.plDiag ch
  let d := (s.coil ch).dg
  let rise := (w.testBit 4 && !d.lastOpen && s.bit (F.prsChcfgWopen ch)) || (w.testBit 5 && !d.lastLsg)
    || (((w.testBit 6 && !d.lastClpT) || (w.testBit 7 && !d.lastClpLow)) && s.bit (F.prsChcfgWclp ch))
  let s1 := s.setCoil ch (fun x => { x with dg := { x.dg with
    lastOpen := w.testBit 4, lastLsg := w.testBit 5, lastClpT := w.testBit 6, lastClpLow := w.testBit 7 } })
  if rise then s1.raiseSource (96 + ch) else s1

/-- A bank record (R188). -/
def State.bankRecord (s : State) (b : Nat) : State :=
  let r := 0x1820 + 0x20 * b
  let x := s.pbank b
  ((s.putIn r (TWord.nat (b2n (s.pbankOn b) + 2 * b2n x.lock + x.rep))).putIn (r + 0xC) (TWord.int (s.pin (.pbTj b)))).putIn
    (r + 0x10) (TWord.nat (reserved x.resv 0))

/-- An engine record (R189). DESIGN CHOICE: LDERR is 1 in the one image of the edge at which STAT.LDERR sets, for the engine of the refused
GO; the list of R189 names the bit alone. -/
def State.engineRecord (s : State) (e : Nat) : State :=
  let a := (s.coil (2 * e)).last
  let b := (s.coil (2 * e + 1)).last
  s.putIn (0x1880 + 0x10 * e) (TWord.nat (b2n (s.bit (F.prsEctlRun e)) + 2 * b2n (s.prs.lddone.contains e)
    + 4 * b2n (s.prs.ldrep == some e) + 8 * b2n a.sig + 16 * b2n b.sig + 32 * b2n a.flt + 64 * b2n b.flt))

/-- A PX record, and the source that OPEN sets (R185, R191). -/
def State.pxRecord (s : State) (x : Nat) : State :=
  let r := 0x1C00 + 0x20 * x
  let p := s.px x
  let opn := p.rep.testBit 5
  let s1 := (s.putIn r (TWord.nat (b2n p.on + 2 * b2n s.win.safe + 4 * b2n p.lock + p.rep))).putIn (r + 0xC)
    (TWord.int (s.pin (.pxTj x)))
  let s2 := s1.setPx x (fun y => { y with lastOpen := opn })
  if opn && !p.lastOpen && s.bit (F.prsPxcfgWopen x) then s2.raiseSource (108 + x) else s2

/-- The PRS header (R187); `live` says that PRESS is ON. -/
def State.prsHeader (s : State) (live : Bool) : State :=
  let th := fun (p : TSt → Bool) => packBits 12 (fun c => live && s.plGoverns c && p (s.coil c).st)
  let hdr := th TSt.active + 2 ^ 12 * packBits 3 s.pbankOn + 2 ^ 15 * packBits 4 (fun x => (s.px x).on)
    + 2 ^ 19 * packBits 6 (fun e => live && s.bit (F.prsEctlRun e))
  let flt := th (fun q => q == .fault) + 2 ^ 12 * packBits 3 (fun b => (s.pbank b).lock)
    + 2 ^ 15 * packBits 4 (fun x => (s.px x).lock)
  if live then (s.putIn 0x1800 (TWord.nat hdr)).putIn 0x1804 (TWord.nat flt) else s

/-- The PRS region of the image (R186 to R191). -/
def State.prsRecords (s : State) : State :=
  let live := s.domOn domPress
  let s1 := if live then
      forEach 6 State.engineRecord (forEach 3 State.bankRecord (forEach 12 State.coilRecord (forEach 12 State.coilSource s)))
    else s
  (forEach 4 State.pxRecord s1).prsHeader live

/-- What a step at the edge itself changes of a thread enters I_k: the records of its channels, of its bank, and the header (R187, R188,
R190); where PRESS was not ON at the edge, or the feature is absent, the region reads 0 (R60, R577). -/
def State.refreshPl (s : State) (t : Nat) : State :=
  if s.imageOn domPress && s.feat 20 then
    ((((s.plMembers t).foldl State.coilRecord s).bankRecord (t / 4)).engineRecord (t / 2)).prsHeader true
  else s

/-! ### Hold -/

/-- HOLD_ENDED: at the first edge at which the effective ON is 0, or HTIME frames have passed since the latest activation,
the hold-ended flag sets (R155), and a thread in HOLD enters REL and goes on at the word after it (R160, R167). The image reports it. -/
def execHoldEnded (t : Fin 12) (s : State) : Out :=
  let x := s.coil t
  let c := s.effPl t
  .next (
    if s.atEdge && s.plGoverns t && s.pressRuns && !x.hend && (!c.on || (c.htime != 0 && decide (c.htime ≤ x.age))) then
      let s1 := s.setCoil t (fun y => { y with hend := true })
      (if x.st = .hold then
        s1.ucNext t (fun y => { y with st := .rel, wait := .ready, request := false, slot := none })
      else s1).refreshPl t
    else s)

/-! ### Power -/

/-- PRESS leaves OFF: RUN returns to 0, its threads are stopped with nothing of their program left (R158, R434). -/
def State.prsLost (s : State) : State :=
  let s1 := forEach 6 (fun t e => t.putBit (F.prsEctlRun e) false) s
  forEach 12 (fun t c => t.setCoil c (fun x => { st := .stop, fr := x.fr, last := x.last, dg := x.dg })) s1

/-- The waits and the detector windows of every thread moved by the length of a dip, in ticks (R147). -/
def State.prsThaw (s : State) (n : Nat) : State :=
  forEach 12 (fun t c => t.setCoil c (fun x => { x with
    wait := match x.wait with
      | .until e => .until (e + n)
      | .cross b l (some e) => .cross b l (some (e + n))
      | w => w
    grantAt := x.grantAt + n
    det := { x.det with armed := x.det.armed.map (fun p => (p.1 + n, p.2)) } })) s

/-- Slot boundaries awaited by the threads count down (R166); edges count as boundaries. -/
def State.prsSlot (s : State) : State :=
  forEach 12 (fun t c => match (t.coil c).wait with
    | .slots n => if n ≤ 1 then t.ucDone c else t.setCoil c (fun x => { x with wait := .slots (n - 1) })
    | _ => t) s

/-- The PX samples of a slot (R182). -/
def State.pxSample (s : State) : State :=
  forEach 4 (fun t x => t.setPx x (fun p => { p with samples := codeSample 3 (s.pin (.pxI x)) :: p.samples })) s

end Sys2Proof.Machine
end

