-- ==== Sys2Proof/Machine/Led.lean ====
section
/-!
DEFINITION. The LED sinks: measurements and shut-offs, and what an edge does with them (05_lighting.md).
-/

namespace Sys2Proof.Machine

/-! ### Between edges -/

/-- The configuration that governs a sink's current and diagnostics: IFS, DCNT, SHTH, of the even sink of a pair (R196). -/
def State.ledIfs (s : State) (n : Nat) : Nat := s.fld (F.ledCfgIfs (s.ledGov n))
def State.ledDcnt (s : State) (n : Nat) : Nat := max 1 (s.fld (F.ledCfgDcnt (s.ledGov n)))

/-- A measurement is due in the present slot (R207): the sink is on; in pulse mode its pulse lasts 300 cycles or more. -/
def State.ledDue (s : State) (n : Nat) : Bool :=
  let x := s.sink n
  s.ledLive n && s.frameRuns && x.lvl != 0 && x.measSlot != some s.frm.slot
    && (decide (ledX ≤ x.lvl) || decide (300 ≤ s.ledPulse n s.frm.slot))

/-- LED_MEASUREMENT: sink `n` measures its current in µA and its headroom in mV (R207); the conditions' counts are updated
(R209), and a SHORT reached with SHACT turns the sink off (R210). -/
def execLedMeasurement (n : Fin 24) (amps head : Int) (s : State) : Out :=
  .next (
    if s.ledDue n then
      let x := s.sink n
      let e := s.ledGov n
      let at_ := s.slotAt s.frm.slot + (if ledX ≤ x.lvl then 2 * s.slotLen s.frm.slot else 1200)
      let s1 := s.advance at_
      let opn := decide (2 * amps * 4095 < 1000 * (s.ledIfs n : Int) * dacOf x.lvl) && decide (head < 500)
      let hr := decide (head < 800) && !opn
      let th := s.fld (F.ledCfgShth e)
      let sh := th != 0 && decide ((500 * th : Int) ≤ head)
      let nSh := if sh then incTo 15 (x.nShort + 1) else 0
      let off := decide (s.ledDcnt n ≤ nSh) && s.bit (F.ledCfgShact e)
      let s2 := if off then s1.ledCount s1.count n else s1
      s2.setSink n (fun y => { y with
        nOpen := if opn then incTo 15 (y.nOpen + 1) else 0
        nHr := if hr then incTo 15 (y.nHr + 1) else 0
        nShort := nSh, shoff := off, shF := y.shF || off
        meas := (amps, head) :: y.meas, measSlot := some s.frm.slot })
    else s)

/-- LED_OVERTEMP: a sink's junction exceeds 165 °C and the sink turns off (R211). -/
def execLedOvertemp (n : Fin 24) (deg : Int) (s : State) : Out :=
  let s1 := s.setPin (.ledTj n) deg
  .next (if s.domOn domLed ∧ 165 * 16 < deg ∧ (s.sink n).ot = false then
    (s1.ledCount s.count n).setSink n (fun x => { x with ot := true, otF := true }) else s1)

/-! ### Staged writes -/

/-- A change of LED.PAIR (R196): pair by pair, where both sinks have level 0 in the image committed before this edge. -/
def State.applyLedPair (s : State) (w : Word) : State :=
  forEach 12 (fun t p =>
    let old := (t.fld F.ledPairLp).testBit p
    let new := w.getLsbD p
    let lev := fun n => getBits (t.committed (0xC00 + 4 * n)) 0 16
    if old == new then t
    else if lev (2 * p) = 0 ∧ lev (2 * p + 1) = 0 then t.setReg 0x40030008 (setBits (t.reg 0x40030008) p 1 (b2n new))
    else t.setBit F.ledStatPairrej) s

/-- A clear of a sink or a pair (R210): accepted with the junctions at 150 °C or less. -/
def State.applyLedClear (s : State) (n : Nat) : State :=
  if s.ledGov n ≠ n then s else
  let l := if s.ledPaired n then [n, n + 1] else [n]
  if l.all (fun m => decide (s.pin (.ledTj m) ≤ 150 * 16)) then
    l.foldl (fun t m => t.setSink m (fun x => { x with shoff := false, nOpen := 0, nHr := 0, nShort := 0 })) s
  else s.setBit F.ledStatClrrej

/-- A staged write of an LED register that has a rule of its own. -/
def State.applyLed (s : State) (a : Nat) (w : Word) : Option State :=
  if a = 0x40030008 then some (s.applyLedPair w)
  else if 0x40030100 ≤ a ∧ a < 0x40030160 then
    some (if 5 ≤ getBits w 8 3 then s.setBit F.ledStatCfgrej else s.applyPlain a w)
  else if 0x40030200 ≤ a ∧ a < 0x40030260 then some (if w.getLsbD 0 then s.applyLedClear ((a - 0x40030200) / 4) else s)
  else none

/-! ### The edge -/

/-- The mean of integers, as an integer; the spec names no rounding. -/
def meanInt (l : List Int) : Int := quant (l.foldl (· + ·) 0) l.length

/-- OPEN, SHORT and HRLOW of a sink by its counts (R209). -/
def State.ledCounts (s : State) (n : Nat) : Nat :=
  let x := s.sink n
  let d := s.ledDcnt n
  b2n (decide (d ≤ x.nOpen)) + 2 * b2n (decide (d ≤ x.nShort)) + 4 * b2n (decide (d ≤ x.nHr))

/-- The statuses as they stand at the end of the frame (R209). -/
def State.ledNote (s : State) (n : Nat) : State :=
  let v := s.ledCounts n
  s.setSink n (fun x => { x with status := v })

/-- The words of a sink's record that report the frame that closes (R214). -/
def State.ledClose (s : State) (n : Nat) : State :=
  let s1 := s.ledCount s.count n
  let x := s1.sink n
  let r := 0x2020 + 0x20 * n
  let m := fun (l : List Int) => if l.isEmpty then TWord.nil0 else TWord.int (meanInt l)
  ((s1.putIn (r + 0x10) (m (x.meas.map (·.1)))).putIn (r + 0x14) (m (x.meas.map (·.2)))).putIn (r + 0x1C) (TWord.nat x.onc)

/-- The fade, the level and the pulse pattern of a governing sink at an edge (R198, R201, R205, R208, R211). -/
def State.ledStep (s : State) (n : Nat) : State :=
  let c := s.effLed n
  let x := s.sink n
  let start := c.1 != x.lastLevel
  let y := if start then { x with r0 := x.r, goal := c.1, len := c.2, j := 0, lastLevel := c.1 }
    else { x with j := if x.j < x.len then x.j + 1 else x.j }
  let r := if y.len ≤ y.j then y.goal else ((y.r0 : Int) + (((y.goal : Int) - y.r0) * y.j).tdiv y.len).toNat
  let l := if s.ledSafeOn n then 65535 else s.curve (s.fld (F.ledCfgCurve n)) r
  let s1 := s.setSink n (fun _ => { y with r := r, lvl := l, dpulse := false, pulsed := false, onc := 0, oncAt := s.count })
  let short := l != 0 && decide (l < ledX) && (upto s.seff).all (fun k => decide (s1.ledPulse n k < 300))
  s1.setSink n (fun z => { z with
    dpulse := s.bit (F.ledCfgDiagp n) && short && decide (s.frm.frame.toNat % 256 = (10 * n) % 256) })

/-- Every sink at an edge; the odd sink of a pair follows the even one. A level wanted while the domain is not ON wakes it
(R194); an overheated sink returns with its junction at 150 °C or less. -/
def State.ledEdge (s : State) : State :=
  forEach 24 (fun t n =>
    let t0 := t.setSink n (fun x => { x with
      ot := x.ot && decide (150 * 16 < t.pin (.ledTj n)), meas := [], measSlot := none })
    let e := t.ledGov n
    if !t.domOn domLed then (if e = n ∧ (t.effLed n).1 ≠ 0 then t0.demandOrLock domLed else t0)
    else if e = n then t0.ledStep n
    else
      let g := t0.sink e
      t0.setSink n (fun x => { x with
        r := g.r, r0 := g.r0, goal := g.goal, len := g.len, j := g.j, lastLevel := g.lastLevel, lvl := g.lvl
        dpulse := g.dpulse, pulsed := false, onc := 0, oncAt := s.count })) s

/-! ### Records -/

/-- OPEN, SHORT and HRLOW of a sink as I_k has them (R209); they read 0 while the domain is not ON. -/
def State.ledStatus (s : State) (n : Nat) : Nat := if s.domOn domLed then (s.sink n).status else 0

/-- The set current of a sink's record, µA (R214): of a pair, the pair's. -/
def State.ledIset (s : State) (n : Nat) : Int :=
  let x := s.sink n
  if x.lvl = 0 ∨ s.ledLive n = false then 0
  else quant (1000 * s.ledIfs n * (if s.ledPaired n then 2 else 1) * dacOf x.lvl) 4095

/-- The words of a sink's record that report the edge. DPULSE and MEAS are those of the frame that closed. -/
def State.ledRecord (s : State) (n dp me : Nat) : State :=
  let r := 0x2020 + 0x20 * n
  let x := s.sink n
  let g := s.sink (s.ledGov n)
  let st := b2n (g.lvl != 0) + 2 * b2n (g.lvl != 0 && decide (g.lvl < ledX)) + 4 * b2n (s.ledPaired n) + 8 * b2n s.win.safe
    + 16 * b2n (decide (g.j < g.len)) + 32 * s.ledStatus n + 256 * b2n (x.ot || x.otF) + 512 * b2n x.shoff + 1024 * dp + 2048 * me
  let s1 := ((s.putIn r (TWord.nat st)).putIn (r + 4) (TWord.nat g.r)).putIn (r + 8) (TWord.nat g.lvl)
  (s1.putIn (r + 0xC) (TWord.int (s.ledIset (s.ledGov n)))).putIn (r + 0x18) (TWord.int (s.pin (.ledTj n)))

/-- The source that rising statuses set (R212): OPEN, SHORT and HRLOW from image to image, OT and SHOFF where they rose in the frame, be it
that a clear or a return of the edge has taken them back. -/
def State.ledSource (s : State) (n : Nat) : State :=
  let e := s.ledGov n
  let x := s.sink n
  let w := s.ledStatus n
  let rise := fun i => w.testBit i && !x.last.testBit i
  let s1 := s.setSink n (fun y => { y with last := w })
  if (rise 0 && s.bit (F.ledCfgWopen e)) || (rise 1 && s.bit (F.ledCfgWshort e)) || (rise 2 && s.bit (F.ledCfgWhrlow e))
      || x.otF || x.shF then s1.raiseSource (121 + n) else s1

/-- The LED region of the image (R213); `frame` gives DPULSE and MEAS of the frame that closed. -/
def State.ledRecords (s : State) (frame : Nat → Nat × Nat) : State :=
  let s1 := forEach 24 State.ledSource s
  if !s.domOn domLed then s1 else
  let s2 := forEach 24 (fun t n => t.ledRecord n (frame n).1 (frame n).2) s1
  let bits := fun (p : Nat → Bool) => TWord.nat (packBits 24 p)
  ((((s2.putIn 0x2000 (bits (fun n => (s2.sink (s2.ledGov n)).lvl != 0))).putIn 0x2004 (bits (fun n => (s2.ledStatus n).testBit 0))).putIn
    0x2008 (bits (fun n => (s2.ledStatus n).testBit 1))).putIn 0x200C (bits (fun n => (s2.sink n).ot || (s2.sink n).otF || (s2.sink n).shoff)))

/-- The frame's notes of the sinks cleared after the records. -/
def State.ledClear (s : State) : State := forEach 24 (fun t n => t.setSink n (fun x => { x with otF := false, shF := false })) s

/-- DPULSE and MEAS of the frame that closes, for each sink. -/
def State.ledFrame (s : State) (n : Nat) : Nat × Nat := let x := s.sink n; (b2n x.pulsed, b2n (!x.meas.isEmpty))

/-- LED leaves OFF: fades and counts are lost (R433). -/
def State.ledLost (s : State) : State :=
  forEach 24 (fun t n => t.setSink n (fun x => { shoff := x.shoff, ot := x.ot, last := x.last, shF := x.shF })) s

end Sys2Proof.Machine
end

