-- ==== Sys2Proof/Machine/Winnow.lean ====
section
/-!
DEFINITION. The Winnow: clearing, forcing, locking, class changes, the release of the safe image and the WIN record
(07_winnow.md).
-/

namespace Sys2Proof.Machine

/-- A store from JOB mode to a WIN register other than SWSET is ignored and noted (R257). In a class F halt no store leaves a core, and
neither the host nor the link may write (R248, R265). -/
def State.winStore (s : State) (job : Bool) (f : State → State) : State :=
  if s.storesOff then s else if job then s.setBit F.winStatPrivrej else f s

/-- A write to WIN.STICKY[m]: the named bits clear, but for bits of class F (R257). -/
def State.stickyClear (s : State) (m : Nat) (w : Word) : State :=
  forEach 32 (fun t b => if w.getLsbD b ∧ t.classOf (32 * m + b) ≠ 3 then t.putSticky (32 * m + b) false else t) s

/-- A write to WIN.FORCE[m]: each named source occurs once; one of class F only while ARMF is 1 (R258, R259). -/
def State.sourceForce (s : State) (m : Nat) (w : Word) : State :=
  forEach 32 (fun t b =>
    if !w.getLsbD b then t
    else if t.classOf (32 * m + b) = 3 ∧ s.bit F.winTestArmf = false then t.setBit F.winStatFrcrej
    else t.raiseSource (32 * m + b)) s

/-- A write to WIN.SWSET: the named software sources occur (R260). -/
def State.swset (s : State) (w : Word) : State :=
  forEach 12 (fun t b => if w.getLsbD b then t.raiseSource (180 + b) else t) s

/-- WARN_PULSE_END: 20 µs after the latest class W bit set, WARN_P follows DRV again (R246). -/
def execWarnPulseEnd (s : State) : Out :=
  .next (match s.win.warnEnd with
    | some t => let u := s.advance t
                { u with win := { u.win with warnEnd := none } }
    | none => s)

/-- STICKY_CLEAR: a write to WIN.STICKY[m], from JOB mode or not (R257). -/
def execStickyClear (m : Fin 6) (w : Word) (job : Bool) (s : State) : Out :=
  .next (s.load (.stickyClear m w job) (·.winStore job (·.stickyClear m w)))

/-- SOURCE_FORCE: a write to WIN.FORCE[m] (R258, R259). -/
def execSourceForce (m : Fin 6) (w : Word) (job : Bool) (s : State) : Out :=
  .next (s.load (.sourceForce m w job) (·.winStore job (·.sourceForce m w)))

/-- SWSET: a write to WIN.SWSET, from either mode (R260); no store is made in a class F halt (R248). -/
def execSwset (w : Word) (s : State) : Out := .next (s.store (.swset w) (·.swset w))

/-- CLASS_LOCK: WIN.CTL.LOCK is written to 1 (R261). -/
def execClassLock (job : Bool) (s : State) : Out := .next (s.load (.classLock job) (·.winStore job (·.setBit F.winCtlLock)))

/-- A staged write of WIN.CLASS[j] at its edge (R243, R244, R261): discarded under LOCK; a sticky bit whose class becomes S or F
takes the reaction of its new class as if it had just set, event 77 with it (R250). -/
def State.applyClass (s : State) (j : Nat) (w : Word) : State :=
  if s.bit F.winCtlLock then s.setBit F.winStatClsrej
  else
    let fixd := (upto 16).foldl (fun x i => if fixedSource (16 * j + i) then setBits x (2 * i) 2 3 else x) w
    let s1 := s.setReg (0x40050060 + 4 * j) fixd
    forEach 16 (fun t i =>
      let n := 16 * j + i
      let c := s1.classOf n
      if t.sticky n ∧ c ≠ s.classOf n ∧ 2 ≤ c then (t.classReact c).classEvent c else t) s1

/-- The safe image first driven in the steps of an edge itself keeps, for HOLD, the image committed at that edge: it is driven
within 5 µs from it (R244, R254). -/
def State.holdCommitted (s : State) (before : Bool) : State :=
  if s.win.safe && !before then { s with win := { s.win with hold := s.frm.committed } } else s

/-- The safe image released at an edge at which no sticky bit of class S or F is 1 (R255): a PL channel whose entry was OFF
counts as activated. A class F halt and recovery keep it driven (R612). -/
def State.safeRelease (s : State) : State :=
  if s.win.safe && !s.win.fhalt && !s.win.pathBad && !s.sec.rcvr && !s.anySticky 2 && !s.anySticky 3 then
    let s1 := forEach 12 (fun t ch =>
      if t.safeEntryOf (56 + ch) = 0 then t.setCoil ch (fun x => { x with fresh := true }) else t) s
    { s1 with win := { s1.win with safe := false, hold := [] } }
  else s

/-- WARN_P is high (R246). -/
def State.warnHigh (s : State) : Bool := s.win.warnEnd.isSome || s.bit F.winWarnDrv

/-- The WIN region of the image (R266). -/
def State.winRecord (s : State) : State :=
  let w := b2n s.win.safe + 2 * b2n s.win.fhalt + 4 * b2n s.errLow + 8 * b2n s.warnHigh + 16 * b2n (s.bit F.winCtlLock)
  forEach 6 (fun t m => t.putIn (0x2C04 + 4 * m) (TWord.nat (t.fld (F.winStickyStk m)))) (s.putIn 0x2C00 (TWord.nat w))

end Sys2Proof.Machine
end

