-- ==== Sys2Proof/Machine/CoreOps.lean ====
section
/-!
DEFINITION. Shared operations of the two cores: registers, fetch, traps, tasks, halts and stalls
(R43 to R53, R268 to R293, R364 to R366, R373, R378, R390, R392).
-/

namespace Sys2Proof.Machine

/-! ### Registers -/

/-- A core. -/
def State.cr (s : State) (c : Fin 2) : Core := s.core[c]

/-- A word register; w0 reads NIL 0 (R280). -/
def State.w (s : State) (c : Fin 2) (r : Nat) : TWord := if r = 0 then TWord.nil0 else nth (s.cr c).w r TWord.nil0

/-- The 36 bits of a word, the tag above the payload (R367), and the word of 36 bits. -/
def bitsOf (w : TWord) : BitVec 36 := w.tag ++ w.val
def wordOfBits (b : BitVec 36) : TWord := ⟨b.extractLsb' 32 4, b.extractLsb' 0 32⟩

/-- A word as the echo pass carries it, rotated left by 9 bits, and back (R367). -/
def echoBits (w : TWord) : BitVec 36 := (bitsOf w).rotateLeft 9
def echoWord (b : BitVec 36) : TWord := wordOfBits (b.rotateRight 9)

/-- A word register written, in both register files (R373); a write to w0 is discarded (R280). -/
def State.setW (s : State) (c : Fin 2) (r : Nat) (v : TWord) : State :=
  if r = 0 then s else s.setCore c (fun k => { k with
    w := updN k.w r (fun _ => v), ew := updN k.ew r (fun _ => echoBits v) })

/-- The words of the first-pass register file are replayed into the echo register file (R390). -/
def State.echoSync (s : State) (c : Fin 2) : State := s.setCore c (fun k => { k with ew := k.w.map echoBits })

/-- The core as the echo pass reads its registers: the echo register file, rotated back (R367, R373). -/
def State.echoView (s : State) (c : Fin 2) : State := s.setCore c (fun k => { k with w := k.ew.map echoWord })

/-- FLG[4:0] written. -/
def State.setFlg (s : State) (c : Fin 2) (f : BitVec 5) : State := s.setCore c (fun k => { k with flg := f })

/-- Nanoseconds of corrected time from the edge of the current frame (R277, R511). -/
def State.nsNow (s : State) : Nat := (s.timeNow - s.frm.edgeT).toNat

/-! ### Fetch -/

/-- The first byte address of a core's near instruction and near data store (R305). -/
def nearI (c : Nat) : Nat := 0x01000000 + 0x200000 * c
def nearD (c : Nat) : Nat := 0x01100000 + 0x200000 * c

/-- An address lies in a 64 KiB store at a base. -/
def inStore (base a : Nat) : Bool := decide (base ≤ a) && decide (a < base + 0x10000)

/-- The address map lets a core fetch a byte (R305, R306, R405). -/
def State.mayFetch (s : State) (c : Fin 2) (a : Nat) : Bool :=
  decide (a < 0x18000) || inStore (nearI c) a || (inGranary a && s.owner (bankOf a) == c.val)

/-- A byte address lies in a Granary bank that is locked off, where an access returns NIL 0 (R437). -/
def State.inLocked (s : State) (a : Nat) : Bool := inGranary a && s.domLocked (16 + bankOf a)

/-- A byte of the instruction stream (R318). -/
def State.codeByte (s : State) (a : Nat) : Nat :=
  getBits (if a < 0x18000 then (Config.romWord (a / 4)).val else if s.inLocked a then 0 else (s.mread (a / 4 * 4)).val) (8 * (a % 4)) 8

/-- The first byte address of the custom decode region (R352). -/
def customBase : Nat := 0x50100000

/-- Entry word `n` of custom instruction `k` (R352, R355). -/
def State.customWord (s : State) (k n : Nat) : Word := (s.mread (customBase + 16 * k + 4 * n)).val

/-- LEN of a valid decode entry; none where the entry is invalid (R355). -/
def State.customLen (s : State) (k : Nat) : Option Nat :=
  let w := s.customWord k 0
  let len := getBits w 4 4
  if w.getLsbD 0 = false ∨ len = 1 ∨ 11 ≤ len ∨ (w.getLsbD 1 = true ∧ w.getLsbD 3 = true) ∨ (len = 0 ∧ w.getLsbD 22 = true) ∨
      barredTag (getBits w 18 4) = true then none else some len

/-- The instruction at a core's PC (R318, R319). -/
def State.decodeHere (s : State) (c : Fin 2) : Decoded :=
  decodeAt (fun o => s.codeByte (((s.cr c).pc.toNat + o) % 2 ^ 32)) s.customLen

/-- SINGLE among the prefixes that `n` bytes of the stream from an offset begin with (R323, R324). -/
def singleSeen (get : Nat → Nat) (o : Nat) : Nat → Bool
  | 0 => false
  | n + 1 =>
    let b := get o % 256
    if b = 0xF1 then true else if 0xF0 ≤ b ∧ b ≤ 0xF4 then singleSeen get (o + 1) n else false

/-- The instruction at a core's PC carries SINGLE, as far as its first `n` bytes tell, at most three of them prefixes (R324, R366). -/
def State.singleHere (s : State) (c : Fin 2) (n : Nat) : Bool :=
  singleSeen (fun o => s.codeByte (((s.cr c).pc.toNat + o) % 2 ^ 32)) 0 (min n 3)

/-- Bytes that the decoder read. -/
def Decoded.size : Decoded → Nat
  | .ins i => i.len
  | .ill n => n

/-- The byte addresses of `n` bytes from a core's PC. -/
def State.fetchBytes (s : State) (c : Fin 2) (n : Nat) : List Nat := (upto n).map (fun o => ((s.cr c).pc.toNat + o) % 2 ^ 32)

/-- The first byte of an instruction that the core may not fetch. -/
def State.badByte (s : State) (c : Fin 2) (n : Nat) : Option Nat := (s.fetchBytes c n).find? (fun a => !s.mayFetch c a)

/-- A Granary bank of the instruction's bytes that is not ON (R409). -/
def State.sleepingByte (s : State) (c : Fin 2) (n : Nat) : Option Nat :=
  ((s.fetchBytes c n).find? (fun a => inGranary a && !s.domOn (16 + bankOf a) && !s.domLocked (16 + bankOf a))).map
    (fun a => 16 + bankOf a)

/-- The check of the word that a core fetches a byte from: whether it is delivered, and what is reported (R317, R410). In the Granary the
fetch takes its turn at the word's lane (R401). -/
def State.fetchCheck (s : State) (c : Fin 2) (a : Nat) : Bool × State :=
  if s.inLocked a then (true, s)
  else if inGranary a then
    let r := (s.laneTurn c.val a).readWord c.val (bankOf a) (wordOf a) .clean
    (decide (r.1 ≠ .double), r.2.2)
  else if inStore (nearI c) a && s.eccAt a != .clean then (false, s.raiseSource 15)
  else (true, s)

/-- The words that the bytes from a core's PC lie in, as far as they are the core's to fetch, with what their decoder finds settled
(R410). -/
def State.settledStream (s : State) (c : Fin 2) : State :=
  ((upto 15).map (fun o => ((s.cr c).pc.toNat + o) % 2 ^ 32)).foldl (fun t a =>
    if inGranary a && s.mayFetch c a then (t.resolved a .clean).2 else t) s

/-- The words of an instruction's bytes checked in order, each once: the byte at which a word is not delivered, if one is. -/
def State.fetchChecks (s : State) (c : Fin 2) : List Nat → Option Nat × State
  | [] => (none, s)
  | a :: l =>
    let r := s.fetchCheck c a
    if r.1 then r.2.fetchChecks c l else (some a, r.2)

/-- Of the instruction's bytes those that begin it or a word of it. -/
def State.fetchWords (s : State) (c : Fin 2) (n : Nat) : List Nat :=
  (s.fetchBytes c n).filter (fun a => a == (s.cr c).pc.toNat || a % 4 == 0)

/-- The safety mark of an instruction by its first byte (R364, R365). -/
def State.onSafety (s : State) (c : Fin 2) (a : Nat) : Bool :=
  if inStore (nearI c) a then
    let p := (a - nearI c) / 1024
    (s.fld (F.echSpgPage (2 * c + p / 32))).testBit (p % 32)
  else inGranary a && (s.fld (if c = 0 then F.echSgrnC0 else F.echSgrnC1)).testBit (bankOf a)

/-! ### Tasks and traps -/

/-- TVAL of TYPE and NILUSE (R291). -/
def tagVal (t : Tag) (pos : Nat) : Word := BitVec.ofNat 32 (t.toNat + 16 * pos)

/-- An entry for the context stack, with the PC at which to resume. -/
def State.ctxOf (s : State) (c : Fin 2) (pc : Word) : Ctx :=
  let k := s.cr c
  { pc := pc, flg := k.flg, cnt := k.cnt, job := k.job, prio := k.prio, task := k.task, due := k.stampDue }

/-- The entry stamp taken as the first instruction of an entry issues (R344). -/
def State.stampCore (s : State) (c : Fin 2) : State :=
  if (s.cr c).stampDue then s.setCore c (fun k => { k with stampT := s.stamp, stampNs := s.nsNow, stampDue := false }) else s

/-- A double trap: the core stops retiring (R293), and its object locks are abandoned (R459). -/
def State.doubleTrap (s : State) (c : Fin 2) : State :=
  ((s.setCore c (fun k => { k with halt := { k.halt with trap := true } })).abandonAll c).raiseSource (8 + c)

/-- The fetch from a trap vector (R292, R293, R317, R409): whether it raises FETCH or DATA, and what is reported. -/
def State.vectorFetch (s : State) (c : Fin 2) (a : Nat) : Bool × State :=
  if s.mayFetch c a = false then (true, if inGranary a then s.strayAccess a c.val false true else s)
  else if inGranary a && s.wakeFails a then (true, s.wakeFailed (bankOf a))
  else if inGranary a && !s.domOn (16 + bankOf a) then (false, s)
  else
    let r := s.fetchCheck c a
    (!r.1, r.2)

/-- Trap entry (R292, R293): pushes the context with the PC `pc`, sets TCAUSE and TVAL, enters SUP mode at TVB + 16 × cause, and fetches
there. A full stack, or a vector that cannot be fetched, is a double trap. An instruction that awaits its replay is as if it had not
run (R378). -/
def State.trapEnter (s : State) (c : Fin 2) (cause : Nat) (tval pc : Word) : State :=
  let k := s.cr c
  let v := k.tvb + BitVec.ofNat 32 (16 * cause)
  if 32 ≤ k.stack.length then s.doubleTrap c
  else
    let s1 := s.setCore c (fun x => { x with
      stack := s.ctxOf c pc :: x.stack, tcause := cause, tval := tval, job := false, pc := v, stall := none, stampDue := true
      ech := { x.ech with miss := false } })
    let r := s1.vectorFetch c v.toNat
    if r.1 then r.2.doubleTrap c else r.2.raiseSource (10 + c)

/-- The ready tasks of a core: priority, whether it is a job, number (R43, R48). -/
def State.readyTasks (s : State) (c : Fin 2) : List (Nat × Bool × Nat) :=
  ((upto 128).filter (fun n => (nth s.frm.pend c 0).getLsbD n)).map (fun n => (s.fld (F.frmEvtPrio n), false, n)) ++
  (upto 64).filterMap (fun j => match nth s.frm.jobs j .idle with
    | .ready k p => if k = c then some (p, true, j) else none
    | _ => none)

/-- The first of the highest ready tasks: handlers before jobs, each in ascending number (R43, R44). -/
def State.bestReady (s : State) (c : Fin 2) : Option (Nat × Bool × Nat) :=
  let l := s.readyTasks c
  let top := l.foldl (fun m t => max m t.1) 0
  l.find? (fun t => t.1 == top)

/-- A job's run changed. -/
def State.setJob (s : State) (j : Nat) (r : JobRun) : State := { s with frm := { s.frm with jobs := updN s.frm.jobs j (fun _ => r) } }

/-- A task starts on a core (R43, R49, R283, R285): an event handler in SUP mode at EVTPC with its pending bit cleared, a job
in JOB mode at JOBPC. An instruction that awaits its replay is as if it had not run (R378). -/
def State.startTask (s : State) (c : Fin 2) (t : Nat × Bool × Nat) : State :=
  let s1 := (s.setCore c (fun k => { k with
    pc := BitVec.ofNat 32 (s.fld (if t.2.1 then F.frmJobpcPc t.2.2 else F.frmEvtpcPc t.2.2))
    job := t.2.1, prio := t.1, task := if t.2.1 then t.2.2 else 64 + t.2.2, busy := true, stall := none, stampDue := true
    ech := { k.ech with miss := false } }))
  if t.2.1 then s1.setJob t.2.2 .running
  else { s1 with frm := { s1.frm with pend := updN s1.frm.pend c (fun q => q &&& ~~~(1#128 <<< t.2.2)) } }

/-- A core dispatches tasks: it runs, is not halted for debug nor held by an HLOAD (R608), and no recovery runs (R611). -/
def State.coreTakes (s : State) (c : Fin 2) : Bool :=
  s.coreRuns c && !(s.cr c).halt.dbg && s.sec.hold[c].isNone && !s.sec.rcvr

/-- The highest ready task of a core starts, if it is of the asked kind and its priority allows it (R43, R49, R287): a running
task is preempted only by a strictly higher priority, and pushed. -/
def State.dispatch (s : State) (c : Fin 2) (job : Bool) : State :=
  let k := s.cr c
  match s.bestReady c with
  | none => s
  | some t =>
    if t.2.1 ≠ job ∨ s.coreTakes c = false then s
    else if k.busy = false then (if k.stack.isEmpty then s.startTask c t else
      (match k.stack with
       | e :: _ => if e.prio < t.1 then s.startTask c t else s
       | [] => s))
    else if k.prio < t.1 ∧ k.stack.length < 32 then
      (s.setCore c (fun x => { x with stack := s.ctxOf c k.pc :: x.stack })).startTask c t
    else s

/-- A task has ended (R286): the highest ready task starts where it is strictly above the top context entry or the stack is
empty; else the top entry resumes. -/
def State.taskEnd (s : State) (c : Fin 2) : State :=
  let k := s.cr c
  match k.stack, s.bestReady c with
  | [], some t => s.startTask c t
  | [], none => s.setCore c (fun x => { x with busy := false, task := 255, prio := 0, job := false, stall := none })
  | e :: r, best =>
    let up := match best with
      | some t => decide (e.prio < t.1)
      | none => false
    match up, best with
    | true, some t => s.startTask c t
    | _, _ => s.setCore c (fun x => { x with
        stack := r, pc := e.pc, flg := e.flg, cnt := e.cnt, job := e.job, prio := e.prio, task := e.task, busy := true
        stall := none, stampDue := e.due })

/-! ### Halts and stalls -/

/-- A halt for debug with its cause (R392, R393). -/
def State.debugHalt (s : State) (c : Fin 2) (why which : Nat) : State :=
  (((s.setCore c (fun k => { k with halt := { k.halt with dbg := true, stepping := false } })).setBit (F.dbgCtlHalt c)).setFld
    (F.dbgHstatWhy c) why).setFld (F.dbgHstatWhich c) which

/-- The core is at an instruction that it can issue: it runs a task or the boot code, waits for no wake, and may fetch. -/
def State.atInstr (s : State) (c : Fin 2) : Bool := s.coreRuns c && (s.cr c).busy

/-- The core's present stall is over: none, or its wake failed. -/
def State.stalled (s : State) (c : Fin 2) : Bool := match (s.cr c).stall with
  | some t => !t.failed && !s.domOn t.dom
  | none => false

/-- A core waits for a domain, which wakes (R409, R436); `drain` says that the oldest store of its buffer does. -/
def State.stallFor (s : State) (c : Fin 2) (d : Nat) (drain : Bool) : State :=
  (s.demand d).setCore c (fun k => { k with stall := some { dom := d, since := s.count, drain := drain } })

/-- A core's access waits for a domain. -/
def State.stallOn (s : State) (c : Fin 2) (d : Nat) : State := s.stallFor c d false

/-- The wake for which a core waits has failed (R409). -/
def State.stallFailed (s : State) (c : Fin 2) (d : Nat) : Bool := match (s.cr c).stall with
  | some t => t.failed && t.dom == d
  | none => false

end Sys2Proof.Machine
end

