-- ==== Sys2Proof/Machine/NetSleep.lean ====
section
/-!
DEFINITION. The network-management block: its frames, states and record (14_network_sleep.md).
-/

namespace Sys2Proof.Machine

/-- The block changed. -/
def State.setNm (s : State) (f : Nm → Nm) : State := { s with nm := f s.nm }
/-- A node's record. -/
def Nm.nodeOf (x : Nm) (i : Nat) : NmNode := nth x.node i {}
/-- A node's record changed. -/
def State.setNode (s : State) (i : Nat) (f : NmNode → NmNode) : State := s.setNm (fun x => { x with node := updN x.node i f })

/-- A stopped-only field of NM.CFG as the latest start took it (R8, R485, R501). -/
def State.nmCfg (s : State) (f : Fld) : Nat := getBits s.nm.cfg f.lo f.width

/-- The controller that NM uses (R485). -/
def State.nmPort (s : State) : Nat := min 5 (s.nmCfg F.nmCfgPort)

/-- The local node is the coordinator. -/
def State.nmCoord (s : State) : Bool := s.nmCfg F.nmCfgRole != 0

/-- No NM frame is pending any more: in OFF and SLEEP none is sent (R489, R491). One in transmission completes (R488). -/
def State.nmDrop (s : State) : State := forEach 6 (fun t n => t.setCan n (fun c => { c with nm := none })) s

/-- NM demands the CAN domain (R497). -/
def State.nmDemands (s : State) : Bool := decide (2 ≤ s.nm.st)

/-- NM.NCLR written with 1: every KEEP and WAKES is 0 (R498). -/
def State.nmClear (s : State) : State := s.setNm (fun x => { x with node := x.node.map (fun d => { d with keep := 0, wakes := 0 }) })

/-- NCLR: a write of 1 to NM.NCLR.CLR (R498). -/
def execNclr (s : State) : Out :=
  .next (s.store .nclr (·.nmClear))

/-! ### Frames -/

/-- CD of a GTS frame offered now (R492, R493): 100 µs units to E_g, at most 65535. -/
def State.nmCd (s : State) : Nat :=
  match s.nm.eg with
  | none => 0
  | some g =>
    min 65535 ((s.edgeIn (g - s.frm.frame.toNat) - s.count) / (100 * ticksPerUs))

/-- The bytes of an NM frame (R486, R489). -/
def State.nmBytes (s : State) (gts : Bool) : List Nat :=
  let x := s.nm
  let req := x.st == 3 || (x.st == 2 && x.lr)
  let cd := if gts then s.nmCd else 0
  let u := s.fld F.nmUsrData
  [s.nmCfg F.nmCfgNode, b2n req + 2 * b2n (x.st == 2) + 4 * b2n gts + 8 * s.nmCfg F.nmCfgRole + 16, x.reason + 16 * x.st,
   cd % 256, cd / 256, x.seq % 256, u % 256, u / 256]

/-- An NM frame (R485, R486). -/
def State.nmFrame (s : State) (gts : Bool) : CanMsg :=
  { id := s.nmCfg F.nmCfgBase + s.nmCfg F.nmCfgNode, len := 8, data := s.nmBytes gts }

/-- A pending frame of the NM block placed on its controller; it replaces an older one that is not in transmission
(R488). -/
def State.offerNm (s : State) (m : CanMsg) : State :=
  s.setCan s.nmPort (fun c => { c with
    nm := some m, newer := c.newer || (match c.tx with | some (.nm, _) => true | _ => false) })

/-- NM_FRAME_SEND: at E + 2 µs the frame that the edge called for is built, while the block runs (R485, R488). It is pending from then
on; where the CAN domain wakes, the controller offers it once it is ON (R497). -/
def execNmFrameSend (s : State) : Out :=
  .next (if s.nm.call ∧ s.bit F.nmCfgEn then
    let s1 := s.advance (s.frm.edgeAt + 2 * ticksPerUs)
    (s1.offerNm (s1.nmFrame s.nm.callGts)).setNm (fun x => { x with call := false })
  else s)

/-- What NM does with a valid frame received on its controller (R485, R487, R491); `own` says that the controller sent it itself, in
loopback. DESIGN CHOICE: a remote frame and an FD frame with an identifier of the range set BADFRM, as a frame does that fails a check;
R485 says that an NM frame is a classical data frame, and R487 does not name those two. -/
def State.nmReceive (s : State) (m : CanMsg) (own : Bool) : State :=
  if !s.bit F.nmCfgEn then s else
  let s1 := s.setNm (fun x => { x with traffic := x.traffic || !own })
  let base := s.nmCfg F.nmCfgBase
  if m.xtd ∨ m.id < base ∨ base + 63 < m.id then s1
  else
    let b := fun i => m.data.getD i 0
    let node := b 0 % 64
    if m.rtr ∨ m.fdf ∨ m.len ≠ 8 ∨ bitsN (b 1) 4 4 ≠ 1 ∨ node ≠ m.id - base ∨ node = s.nmCfg F.nmCfgNode then s1.setBit F.nmStatBadfrm
    else s1.setNm (fun x => { x with
      rx := x.rx ++ [⟨node, (b 1).testBit 0, (b 1).testBit 1, (b 1).testBit 2, bitsN (b 2) 0 4, b 3 + 256 * b 4, s.count⟩] })

/-- A controller has received a valid frame: NM hears it on its own controller (R485). -/
def State.nmHear (s : State) (n : Nat) (m : CanMsg) (own : Bool) : State := if n = s.nmPort then s.nmReceive m own else s

/-! ### The edge -/

/-- A switch input of HOLDS whose watch output is at its wake level (R224, R489). -/
def State.watchWake (s : State) (i : Nat) : Bool :=
  s.bit (F.inpSwcfgWake i) && ((s.swIn i).watch == !s.bit (F.inpSwcfgWpol i))

/-- The local request's causes (R489): WAKE0, WAKE1, a switch input, LREQ. -/
def State.nmLr (s : State) : List Bool :=
  let wk := fun n => (s.nmCfg F.nmCfgHoldw).testBit n && (s.wakeIn n).deb.d != 0
  [wk 0, wk 1, (s.nmCfg F.nmCfgHolds != 0) && (upto 48).any s.watchWake, s.bit F.nmLreqReq]

/-- REASON of a local request (R486): the lowest code among its causes. -/
def lrReason (l : List Bool) : Nat :=
  if l.getD 0 false then 1 else if l.getD 1 false then 2 else if l.getD 2 false then 3 else 5

/-- REASON of a wake by PWR.WCAUSE (R486); several sources give the lowest code. -/
def State.wcauseReason (s : State) : Nat :=
  let w := s.fld F.pwrWcauseSrc
  if w.testBit 0 then 1 else if w.testBit 1 then 2 else if w.testBit 2 then 3 else if w.testBit 3 then 4
  else if w.testBit 4 || w.testBit 5 then 6 else if w.testBit 6 then 7 else 0

/-- A node is present (R490). -/
def State.nmPresent (s : State) (i : Nat) : Bool := match (s.nm.nodeOf i).age with
  | some a => decide (a < 2 * max 1 (s.fld F.nmTimTmsg))
  | none => false

/-- A present node whose latest frame has REQ 1. -/
def State.nmKeeps (s : State) (i : Nat) : Bool := s.nmPresent i && (s.nm.nodeOf i).req

/-- The NM frames of the frame that closes which NM uses: in SLEEP those that became valid before E_{g+1} are ignored (R495). -/
def State.nmHeard (s : State) : List NmRx :=
  if s.nm.st = 1 ∧ s.frm.frame.toNat < s.nm.eg.getD 0 + 2 then [] else s.nm.rx

/-- The nodes take the NM frames of the frame that closes, and every other node ages; a coordinator that received another node's GTS
frame sets DUPCO (R491, R501). -/
def State.nmTake (s : State) : State :=
  let heard := s.nmHeard
  let s1 := s.setNm (fun x => { x with
    node := x.node.map (fun d => { d with age := d.age.map (· + 1) })
    since := x.since + 1, msgAge := x.msgAge + 1, silent := if heard.isEmpty then x.silent + 1 else 0 })
  let s2 := heard.foldl (fun t r => t.setNode r.node (fun d => { d with age := some 0, req := r.req })) s1
  if s.bit F.nmCfgEn && s.nmCoord && heard.any (·.gts) then s2.setBit F.nmStatDupco else s2

/-- FRAME of the first edge at or after the go-to-sleep moment of a GTS frame (R492). -/
def State.nmEg (s : State) (r : NmRx) : Nat := s.frm.frame.toNat + s.edgesTo (r.at_ + r.cd * 100 * ticksPerUs)

/-- A transition with what every one does: a frame at entry where the new state sends one (R489, R490). -/
def State.nmGo (s : State) (st : Nat) : State :=
  s.setNm (fun x => { x with
    st := st, since := 0, msgAge := if 2 ≤ st then 0 else x.msgAge, eg := if st = 2 ∨ st = 3 ∨ st = 4 then none else x.eg
    call := decide (2 ≤ st) && (st != 5 || s.nmCoord), callGts := st == 5 })

/-- The latest GTS frame of another node that names an E_g (R493). -/
def State.nmGts (s : State) : Option NmRx := (s.nmHeard.filter (fun r => r.gts && decide (r.cd < 65535))).getLast?

/-- Entry to SLEEP at E_g, or at the edge after it (R491, R492): nothing more is sent. -/
def State.nmRest (s : State) : State := (s.nmGo 1).nmDrop.setNm (fun x => { x with fwake := none })

/-- Entry to SLEEP with E_g this edge (R491). -/
def State.nmSleep (s : State) : State := s.nmRest.setNm (fun x => { x with eg := some s.frm.frame.toNat })

/-- Entry to REPEAT from SLEEP: the false-wake count starts (R491). -/
def State.nmRepeat (s : State) (reason : Nat) : State :=
  (s.nmGo 2).setNm (fun x => { x with reason := reason, fwake := if x.lr then none else some 0, silent := 0 })

/-- The one transition of an edge (R491); `park` says that it is the resume edge after parking. -/
def State.nmStep (s : State) (lr net park : Bool) (reason : Nat) : State :=
  let x := s.nm
  let coord := s.nmCoord
  let tfw := max 1 (s.fld F.nmTimTfw)
  let late := match x.fwake with
    | some n => decide (tfw ≤ n)
    | none => false
  let heard := s.nmHeard
  let egOf := fun (t : State) => match s.nmGts with
    | some r => t.setNm (fun y => { y with eg := some (t.nmEg r) })
    | none => t
  if !s.bit F.nmCfgEn then (if x.st = 0 then s else (s.nmGo 0).nmDrop.setNm (fun y => { y with eg := none, fwake := none }))
  else match x.st with
  | 0 => (s.nmGo 2).setNm (fun y => { y with reason := 8, silent := 0 })
  | 1 =>
    if park || lr then s.nmRepeat (if park then s.wcauseReason else reason)
    else if heard.any (fun r => r.req || r.wake) then
      (heard.filter (·.wake)).foldl (fun t r => t.setNode r.node (fun d => { d with wakes := incTo 255 d.wakes, reason := r.reason }))
        (s.nmRepeat 6)
    else s
  | 2 =>
    if late then s.nmSleep.setBit F.nmStatFwto
    else if max 1 (s.fld F.nmTimTrep) ≤ x.since then s.nmGo (if lr then 3 else 4)
    else s
  | 3 => if lr then s else s.nmGo 4
  | 4 =>
    if late then s.nmSleep.setBit F.nmStatFwto
    else if lr then s.nmGo 3
    else if coord && !net && decide (max 1 (s.fld F.nmTim2Trdy) ≤ x.quiet) then
      (s.nmGo 5).setNm (fun y => { y with eg := some (s.frm.frame.toNat + max 1 (s.fld F.nmTim2Tgts)) })
    else if heard.any (·.gts) then egOf ((s.nmGo 5).setNm (fun y => { y with eg := none }))
    else if !coord && decide (tfw ≤ x.silent) then s.nmSleep
    else s
  | _ =>
    let s1 := if coord then s else egOf s
    if lr then (s1.nmGo 3).setBit F.nmStatCancel
    else if net then ((s1.nmGo 4).setNm (fun y => { y with quiet := 0 })).setBit F.nmStatCancel
    else match s1.nm.eg with
      | some g => if g ≤ s.frm.frame.toNat then s1.nmRest else s1
      | none => s1

/-- NM at an edge (R489 to R498). -/
def State.nmEdge (s : State) (park : Bool) : State :=
  let causes := s.nmLr
  let lr := causes.any id
  let s1 := s.nmTake
  let net := (upto 64).any s1.nmKeeps
  let s2 := s1.setNm (fun x => { x with
    lr := lr, quiet := if lr || net then 0 else x.quiet + 1
    fwake := if x.traffic || lr then none else x.fwake.map (· + 1) })
  let s3 := s2.nmStep lr net park (lrReason causes)
  let s4 := if 2 ≤ s3.nm.st ∧ s3.nm.call = false ∧ max 1 (s.fld F.nmTimTmsg) ≤ s3.nm.msgAge then
      s3.setNm (fun x => { x with
        msgAge := 0, call := x.st != 5 || s.nmCoord, callGts := x.st == 5 })
    else s3
  let s5 := if s4.nm.st = 4 then
      forEach 64 (fun t i => if t.nmKeeps i then t.setNode i (fun d => { d with keep := incTo 65535 d.keep }) else t)
        (s4.setNm (fun x => { x with keeper := (upto 64).find? s4.nmKeeps }))
    else s4.setNm (fun x => { x with keeper := none })
  if s5.nmDemands ∧ s5.domOn domCan = false then s5.demandOrLock domCan else s5

/-- The NM region of the image (R500). -/
def State.nmRecords (s : State) : State :=
  if !s.domOn domCan then s else
  let x := s.nm
  let g := x.eg.getD 0
  let st := x.st + 8 * b2n x.lr + 16 * x.reason + 256 * s.nmCfg F.nmCfgRole + 512 * s.fld F.nmStatFwto + 1024 * s.fld F.nmStatCancel
    + 2048 * x.keeper.getD 0 + 2 ^ 17 * b2n x.keeper.isSome
  let bits := fun (lo : Nat) (p : Nat → Bool) => TWord.nat (packBits 32 (fun i => p (lo + i)))
  let s1 := ((s.putIn 0x4800 (TWord.nat st)).putIn 0x4804 (TWord.nat g)).putIn 0x4808 (TWord.nat (g / 2 ^ 32))
  let s2 := (s1.putIn 0x480C (bits 0 s.nmKeeps)).putIn 0x4810 (bits 32 s.nmKeeps)
  let s3 := (s2.putIn 0x4814 (bits 0 s.nmPresent)).putIn 0x4818 (bits 32 s.nmPresent)
  s3.putIn 0x481C (TWord.nat (x.rx.length % 65536 + 65536 * (x.sent % 65536)))

/-- The frame's notes cleared. -/
def State.nmFrameClear (s : State) : State := s.setNm (fun x => { x with rx := [], traffic := false, sent := 0 })

/-- A write of NM.CFG: the block starts with its fields clamped, and takes them (R8, R501); a frame of an earlier run is pending no
more. -/
def State.nmStart (s : State) : State :=
  let t := ((s.setFld F.nmCfgPort (min 5 (s.fld F.nmCfgPort))).setFld F.nmCfgBase (min 0x7C0 (s.fld F.nmCfgBase))).nmDrop
  t.setNm (fun x => { x with cfg := t.reg F.nmCfgEn.addr, call := false })

end Sys2Proof.Machine
end

