-- ==== Sys2Proof/Machine/Can.lean ====
section
/-!
DEFINITION. The CAN controllers: runs, ports, transmission, reception, recovery, and what an edge does with them
(13_can_lin.md).
-/

namespace Sys2Proof.Machine

/-! ### Running -/

/-- Stopped-only fields out of range are clamped at the start (R475). -/
def State.canClamp (s : State) (n : Nat) : State :=
  let put := fun (t : State) (f : Fld) (lo hi : Nat) => t.setFld f (clampN lo hi (t.fld f))
  let s1 := put (put (put s (F.canNbtTseg2 n) 2 128) (F.canNbtTseg1 n) 2 256) (F.canNbtBrp n) 1 32
  let s2 := put s1 (F.canNbtSjw n) 1 (min 128 (s1.fld (F.canNbtTseg2 n)))
  let s3 := put (put (put s2 (F.canDbtTseg2 n) 1 16) (F.canDbtTseg1 n) 1 32) (F.canDbtBrp n) 1 32
  let s4 := put s3 (F.canDbtSjw n) 1 (min 16 (s3.fld (F.canDbtTseg2 n)))
  let s5 := put s4 (F.canTdcTdco n) 0 127
  if n < 2 then put s5 (F.canSwkWdlc n) 0 8 else s5

/-- The wake receiver's fields take effect at the start (R8, R472). -/
def State.canTakeWake (s : State) (n : Nat) : State :=
  let w := fun (k : Nat) => s.reg (0x40090034 + 0x2000 * n + 4 * k)
  s.setCan n (fun d => { d with wake := #v[w 0, w 1, w 2, w 3, w 4] })

/-- A write of RUN = 1 or 0 (R451). A stopped controller starts integrating, and one that still completes
its frame does so after it; the counters of either are 0 unless it is bus-off. A running one stops when the frame in progress on the bus
is complete; a bus-off one takes part in none. -/
def State.canRun (s : State) (n : Nat) (run : Bool) : State :=
  let c := s.cn n
  let s1 := s.putBit (F.canCtlRun n) run
  if run then
    let s2 := if c.run = .stopped then ((s1.canClamp n).canTakeWake n).setCan n (fun d => { d with run := .integrating }) else s1
    if (c.run = .stopped ∨ c.run = .stopping) ∧ c.estate ≠ 2 then s2.canCount n 0 0 else s2
  else
    let inFrame := (c.tx.isSome || s.pin (.canBusy n) != 0) && s.canRunning n
    if c.run = .stopped then s1 else s1.setCan n (fun d => { d with run := if inFrame then .stopping else .stopped })

/-- The frame in progress on the bus is complete: a controller whose RUN is 0 stops (R451). -/
def State.canFrameEnd (s : State) (n : Nat) : State :=
  let s1 := if s.pin (.canBusy n) = 0 then s else s.setPin (.canBusy n) 0
  if (s1.cn n).run = .stopping ∧ (s1.cn n).tx = none then
    s1.setCan n (fun d => { d with run := if s.bit (F.canCtlRun n) then .integrating else .stopped })
  else s1

/-- CAN_RUN_START: a write of RUN = 1 (R451). -/
def execCanRunStart (n : Fin 6) (s : State) : Out :=
  .next (s.store (.canRunStart n) (·.canRun n true))

/-- CAN_RUN_STOP: a write of RUN = 0; `busy` says that a frame of another node is in progress on the bus (R451). -/
def execCanRunStop (n : Fin 6) (busy : Bool) (s : State) : Out :=
  .next (s.store (.canRunStop n busy) (fun s => (s.setPin (.canBusy n) (b2n busy)).canRun n false))

/-- CAN_INTEGRATED: 11 consecutive recessive bits; the controller takes part (R451). -/
def execCanIntegrated (n : Fin 6) (s : State) : Out :=
  .next (if (s.cn n).run = .integrating ∧ s.domOn domCan then s.setCan n (fun c => { c with run := .on }) else s)

/-! ### Objects -/

/-- OBJCFG_WRITE (R453). -/
def execObjcfgWrite (n : Fin 6) (o : Fin 256) (w : Word) (s : State) : Out :=
  .next (s.store (.objcfgWrite n o w) (·.objCfg n o w))

/-- The word that a bus command delivers to its master. -/
def State.deliver (s : State) (m : Master) (v : TWord) : State := { s with got := updN s.got (masterNum m) (fun _ => v) }

/-- An access of a master to storage that a domain holds (R434, R436, R437): locked off it returns NIL 0 and drops its writes;
asleep the domain wakes and the access waits; else it is made. -/
def State.atDomain (s : State) (d : Nat) (f : State → TWord × State) : Option (TWord × State) × State :=
  if s.domLocked d then (some (TWord.nil0, s.lockAccess), s)
  else if s.domOn d then (some (f s), s)
  else (none, s.demand d)

/-- The answer of an access made for a master by a command of its own. -/
def State.answer (m : Master) (r : Option (TWord × State) × State) : State :=
  match r.1 with
  | some (v, t) => t.deliver m v
  | none => r.2

/-- A write of 1 to CANn.QACK (R464). -/
def State.queueAck (s : State) (n : Nat) : State := s.setCan n (fun c => { c with queue := c.queue.drop 1 })

/-- QACK (R464). -/
def execQack (n : Fin 6) (s : State) : Out :=
  .next (s.store (.qack n) (·.queueAck n))

/-! ### Transmission -/

/-- CAN_TX_START: an opportunity to start a frame (R462, R463): the pending frame that would win arbitration starts, where the
mode transmits (R452). A GTS frame takes its countdown at this offer (R492). An FD frame of an error-passive controller carries ESI 1, as
ISO 11898-1 requires (R449). -/
def execCanTxStart (n : Fin 6) (s : State) : Out :=
  .next (
    let mode := s.fld (F.canCtlMode n)
    if s.canRunning n ∧ (s.cn n).run = .on ∧ (s.cn n).tx = none ∧ (mode = 0 ∨ mode = 3) then
      match (s.cn n).winner with
      | none => s
      | some (src, m) =>
        let m1 := if src = .nm ∧ (m.data.getD 1 0).testBit 2 then
            { m with data := (m.data.take 3) ++ [s.nmCd % 256, s.nmCd / 256] ++ m.data.drop 5 }
          else m
        let m2 := { m1 with esi := m1.fdf && decide ((s.cn n).estate = 1) }
        s.setCan n (fun c => { c with tx := some (src, m2), newer := false })
    else s)

/-- The source of a successful transmission: TXP clears unless newer content is pending; TXO; SEQ (R462, R470, R486). -/
def State.txDone (s : State) (n : Nat) (src : TxSrc) : State :=
  let newer := (s.cn n).newer
  match src with
  | .obj o =>
    let s1 := if newer then s else s.setObj n o (fun x => { x with pend := false })
    if s.canEvo n o then s1.canCause n 1 else s1
  | .nm =>
    let s1 := s.setNm (fun x => { x with seq := (x.seq + 1) % 256, sent := x.sent + 1 })
    if newer then s1 else s1.setCan n (fun c => { c with nm := none })
  | .permit => if newer then s else s.setCan n (fun c => { c with permit := none })

/-- A controller has received a valid frame: SWAP looks at it (R468), and it is accepted (R454). -/
def State.canReceive (s : State) (n : Nat) (m : CanMsg) : State := (s.setCanFr n (fun f => { f with valid := true })).canAccept n m

/-- CAN_TX_SUCCESS: the transmission in progress succeeds (R462, R465, R466); in loopback its own controller receives it
(R452). -/
def execCanTxSuccess (n : Fin 6) (s : State) : Out :=
  .next (match (s.cn n).tx with
    | none => s
    | some (src, m) =>
      let s1 := ((s.txDone n src).setCan n (fun c => { c with tx := none, newer := false })).setCanFr n
        (fun f => { f with tx := f.tx + 1 })
      let s2 := (if s.canCounts n then s1.canCount n ((s1.cn n).tec - 1) (s1.cn n).recv else s1).setAckerr n 0
      let s3 := if s.fld (F.canCtlMode n) = 3 then (s2.canReceive n m).nmHear n m true else s2
      s3.canFrameEnd n)

/-- CAN_TX_ERROR: the transmission in progress loses arbitration or meets an error (R462, R465 to R467): its frame stays
pending. `more` counts the groups of 8 further dominant bits after an error flag, for each of which the standard adds 8. -/
def execCanTxError (n : Fin 6) (e : CanErr) (more : Nat) (s : State) : Out :=
  .next (if (s.cn n).tx = none then s else
    let s1 := s.setCan n (fun c => { c with tx := none, newer := false })
    let s2 := if s.canCounts n then
        let c := s.cn n
        let add := match e with
          | .arbitration => 0
          | .ack dom => if c.estate = 0 ∨ dom then 8 + 8 * more else 0
          | .stuffArb => 8 * more
          | .other => 8 + 8 * more
        let s3 := match e with
          | .ack _ => s1.setAckerr n (incTo 255 c.ackerr)
          | _ => s1
        s3.canCount n (min 511 (c.tec + add)) c.recv
      else s1
    s2.canFrameEnd n)

/-- A write of 1 to CTL.RECOVER (R467): outside bus-off it is ignored. -/
def State.canRecover (s : State) (n : Nat) : State :=
  if (s.cn n).estate = 2 then s.setCan n (fun c => { c with recovering := true }) else s

/-- RECOVER (R467). -/
def execRecover (n : Fin 6) (s : State) : Out :=
  .next (s.store (.recover n) (·.canRecover n))

/-- BUS_OFF_RECOVERY: 128 occurrences of 11 recessive bits have been counted (R467). -/
def execBusOffRecovery (n : Fin 6) (s : State) : Out :=
  .next (let c := s.cn n
    if c.estate = 2 ∧ c.recovering ∧ c.run ≠ .stopped ∧ s.domOn domCan then
      (s.canCount n 0 0).setCan n (fun d => { d with recovering := false })
    else s)

/-! ### Reception -/

/-- A message that the standard allows (R449). -/
def msgValid (m : CanMsg) : Bool :=
  decide (m.id < (if m.xtd then 2 ^ 29 else 2 ^ 11)) && m.len == canLen m.len && decide (m.len ≤ 64)
    && (m.fdf || (decide (m.len ≤ 8) && !m.brs && !m.esi)) && !(m.fdf && m.rtr)
    && (if m.rtr then m.data.isEmpty else m.data.length == m.len) && m.data.all (fun b => decide (b < 256))

/-- An error detected while receiving (R465): one, and 8 for each case in which the standard adds 8. -/
def State.canRxError (s : State) (n heavy : Nat) : State :=
  let c := s.cn n
  if s.canCounts n then s.canCount n c.tec (min 511 (c.recv + 1 + 8 * heavy)) else s

/-- CAN_FRAME_RECEIVED: a frame of another node becomes valid (R454, R465, R466, R487); `res` says that its res bit is
recessive, which is a protocol exception or a form error (R469). -/
def execCanFrameReceived (n : Fin 6) (m : CanMsg) (res : Bool) (s : State) : Out :=
  .next (
    if s.canRunning n = false ∨ msgValid m = false ∨ s.fld (F.canCtlMode n) = 3 then s
    else if res && m.fdf then
      (if s.bit (F.canCtlPex n) then
        (s.setBit (F.canStatPexc n)).setCan n (fun c => { c with
          run := if c.run = .stopping ∧ s.bit (F.canCtlRun n) = false then .stopped else .integrating })
      else (s.canRxError n 0).canFrameEnd n)
    else
      let c := s.cn n
      let s1 := if s.canCounts n then
          let r := if 127 < c.recv then 119 + Config.freeNat s.free % 9 else c.recv - 1
          ({ s with free := s.free + 1 } : State).canCount n c.tec r
        else s
      (((s1.setAckerr n 0).canReceive n m).nmHear n m false).canFrameEnd n)

/-- CAN_BUS_ERROR: a bus error is detected while receiving (R465, R470, R473). -/
def execCanBusError (n : Fin 6) (heavy : Nat) (s : State) : Out :=
  .next (if s.canRunning n ∧ (s.cn n).tx = none then (s.canRxError n heavy).canFrameEnd n else s)

/-! ### The edge -/

/-- SWAP at an edge, by the occasions of the frame that closes (R468, R470, R473). -/
def State.canSwapEdge (s : State) (n : Nat) : State :=
  let c := s.cn n
  let occ := s.pin (.canSwap n)
  let sw := decide (8 ≤ occ) || (c.swap && !(c.fr.valid && decide (occ = 0)))
  let s1 := (s.setPin (.canSwap n) 0).setCan n (fun d => { d with swap := sw })
  if sw && !c.swap then (s1.canSource n 2).canCause n 5 else s1

/-- The controllers at an edge. What a transceiver saw in a frame at whose end CAN is not ON is not looked at again. -/
def State.canEdge (s : State) : State :=
  if s.domOn domCan then forEach 6 State.canSwapEdge s else forEach 6 (fun t n => t.setPin (.canSwap n) 0) s

/-- NEW or TXP of 32 objects as a word. -/
def Can.bitmap (c : Can) (p : CanObj → Bool) (m : Nat) : Nat :=
  c.objs.foldl (fun a q => if q.1 / 32 = m ∧ p q.2 = true then a + 2 ^ (q.1 % 32) else a) 0

/-- STAT bits [5:0] of a controller. -/
def State.canStatus (s : State) (n : Nat) : Nat :=
  let c := s.cn n
  b2n (s.canRunning n) + 2 * c.estate + 8 * b2n (decide (96 ≤ c.tec) || decide (96 ≤ c.recv)) + 16 * b2n c.lone + 32 * b2n c.swap

/-- The record of a controller (R474). -/
def State.canRecord (s : State) (n : Nat) : State :=
  let r := 0x3000 + 0x400 * n
  let c := s.cn n
  let l := [s.canStatus n + 64 * b2n c.fr.qovf + 128 * b2n c.fr.busOff, c.tec + 65536 * c.recv, c.fr.rx, c.fr.tx, c.fr.lost,
    c.fr.qdrop, c.queue.length, c.ackerr] ++ (upto 8).map (c.bitmap (·.new)) ++ (upto 8).map (c.bitmap (·.pend))
  (l.zipIdx).foldl (fun t p => t.putIn (r + 4 * p.2) (TWord.nat p.1)) s

/-- The CAN region of the image. -/
def State.canRecords (s : State) : State := if s.domOn domCan then forEach 6 State.canRecord s else s

/-- The frame's notes cleared. -/
def State.canClear (s : State) : State := forEach 6 (fun t n => t.setCanFr n (fun _ => {})) s

/-- The CAN domain returns to ON, from OFF or from RET: controllers whose RUN is 1 integrate; from OFF objects, queue, counters,
LONE and SWAP are lost (R452), and an ESTATE that changes so is a cause of its controller (R470). -/
def State.canWake (s : State) (off : Bool) : State :=
  forEach 6 (fun t n =>
    let u := t.setCan n (fun c =>
      let run := if t.bit (F.canCtlRun n) then CanRun.integrating else .stopped
      if off then { run := run, nm := c.nm, permit := c.permit, ackerr := c.ackerr, fr := c.fr, wake := c.wake }
      else { c with run := run, tx := none, newer := false })
    if (u.cn n).estate = (t.cn n).estate then u else u.canCause n 3) s

end Sys2Proof.Machine
end

