-- ==== Sys2Proof/Machine/Net.lean ====
section
/-!
DEFINITION. The internal switch and the endpoint: queues, learning, forwarding, ARP, IPv4, ICMP and UDP (R502 to R506, R526,
R527).
-/

namespace Sys2Proof.Machine

/-- The domains ETH and TIME (R433). -/
def domEth : Nat := 11
def domTime : Nat := 12

/-- The block changed. -/
def State.setEth (s : State) (f : Eth → Eth) : State := { s with eth := f s.eth }
/-- A port. -/
def State.eport (s : State) (p : Nat) : EthPort := nth s.eth.port p {}
/-- A port changed. -/
def State.setEport (s : State) (p : Nat) (f : EthPort → EthPort) : State := s.setEth (fun e => { e with port := updN e.port p f })

/-- A stopped-only field of MCAST, VLAN, UDP or PCAL as the latest start took it (R8). -/
def State.ethCfg (s : State) (f : Fld) : Nat := getBits (AMap.get Regs.reset s.eth.cfg f.addr) f.lo f.width

/-- MCAST, VLAN, UDP and the two PCAL registers are taken as they stand (R8). -/
def State.ethTake (s : State) : State :=
  [F.ethMcastAddr.addr, F.ethVlanEn.addr, F.ethUdpHport.addr, (F.ethPcalIlat 0).addr, (F.ethPcalIlat 1).addr].foldl
    (fun t a => t.setEth (fun e => { e with cfg := AMap.put Regs.reset e.cfg a (s.reg a) })) s

/-- The endpoint starts: VLAN.VID is clamped, and the stopped-only fields are taken (R8, R538). -/
def State.ethStart (s : State) : State := (s.setFld F.ethVlanVid (clampN 1 4094 (s.fld F.ethVlanVid))).ethTake

/-- The device's MAC address. -/
def State.mac (s : State) : Nat := s.fld F.ethMachiMac * 2 ^ 32 + s.fld F.ethMacloMac

/-- A port is linked and can carry frames (R506). -/
def State.ethLive (s : State) (p : Nat) : Bool := s.domOn domEth && (s.eport p).link

/-! ### Links -/

/-- A link change of a port raises event 60 under its bit of ETH.EVEN (R503, R538). -/
def State.linkEvent (s : State) (p : Nat) : State :=
  if (s.fld F.ethEvenLink).testBit p then (s.setFld F.ethEvcLink (s.fld F.ethEvcLink ||| 2 ^ p)).raiseEvent 60 else s

/-- A port's link falls (R503). -/
def State.linkDown (s : State) (p : Nat) : State :=
  if !(s.eport p).link then s else
  let n := (upto 4).foldl (fun a c => a + (nth (s.eport p).q c []).length) 0
  let s1 := (s.setEport p (fun x => { x with link := false, lost := true, q := Vector.replicate 4 [] })).setEth
    (fun e => { e with drop := e.drop + n })
  let s2 := s1.setFld F.ethStatLdn (s.fld F.ethStatLdn ||| 2 ^ p)
  let s3 := if 0 < n then s2.setBit F.ethStatDrop else s2
  if s.bit (F.ethPcfgEn p) then (s3.raiseSource (160 + p)).linkEvent p else s3

/-- ETH leaves ON: the links are down (R506). -/
def State.ethLeaves (s : State) : State := (s.linkDown 0).linkDown 1

/-- A write of ETH.PCFG: a change of MS or EN retrains the link (R503). -/
def State.portCfg (s : State) (p : Nat) (w : Word) : State :=
  let a := (F.ethPcfgEn p).addr
  let new := setBits (setBits (s.reg a) 0 1 (getBits w 0 1)) 1 1 (getBits w 1 1)
  if new = s.reg a then s else (s.setReg a new).linkDown p

/-! ### Frames -/

/-- A frame is tagged, its EtherType and the offset of its payload. -/
def frTagged (f : Bytes) : Bool := beAt f 12 2 == 0x8100
def frType (f : Bytes) : Nat := beAt f (if frTagged f then 16 else 12) 2
def frPayload (f : Bytes) : Bytes := f.drop (if frTagged f then 18 else 14)

/-- The queue of a frame (R505). -/
def State.frQueue (s : State) (f : Bytes) : Nat :=
  if frTagged f then bitsN (f.getD 14 0) 5 3 / 2
  else if frType f = 0x88F7 then 3
  else if frType f = 0x0800 ∧ (frPayload f).getD 9 0 = 17 then
    let d := beAt (frPayload f) (4 * bitsN ((frPayload f).getD 0 0) 0 4 + 2) 2
    if d = s.ethCfg F.ethUdpHport then 2 else if d = s.bal.dport then 1 else 0
  else 0

/-- Bytes held in an egress queue. -/
def State.qBytes (s : State) (p c : Nat) : Nat := (nth (s.eport p).q c []).foldl (fun a f => a + f.bytes.length + 4) 0

/-- An egress queue has room for a frame (R505). -/
def State.qRoom (s : State) (p : Nat) (f : Bytes) : Bool := decide (s.qBytes p (s.frQueue f) + f.length + 4 ≤ 16384)

/-- A frame dropped (R505). -/
def State.ethDrop (s : State) : State := (s.setBit F.ethStatDrop).setEth (fun e => { e with drop := e.drop + 1 })

/-- A frame placed in the egress queue of a port (R505). -/
def State.enqueue (s : State) (p : Nat) (f : EthQ) : State :=
  if !s.ethLive p || !s.qRoom p f.bytes then s.ethDrop
  else
    let c := s.frQueue f.bytes
    s.setEport p (fun x => { x with q := updN x.q c (fun l => l ++ [f]) })

/-- A group address. -/
def macGroup (m : Nat) : Bool := m.testBit 40

/-- The port that an address was learned at, within 300 s (R502, R504). -/
def State.learned (s : State) (m : Nat) : Option Nat :=
  (s.eth.macs.find? (fun e => e.1 == m && decide (s.count ≤ e.2.2 + 300 * 600000000))).map (·.2.1)

/-- A source address learned; the table holds 1024, and the oldest gives way. -/
def State.learn (s : State) (m p : Nat) : State :=
  if macGroup m then s else
  s.setEth (fun e => { e with macs := ((m, p, s.count) :: e.macs.filter (fun x => x.1 != m)).take 1024 })

/-- The egress ports of a frame that came from `src` (0, 1, or 2 the device): that of a learned unicast address, else every
other port that is linked (R504). A frame to the device leaves by none. -/
def State.egressOf (s : State) (src : Nat) (dst : Nat) : List Nat :=
  if macGroup dst then [0, 1].filter (fun p => p != src && s.ethLive p)
  else if dst = s.mac then []
  else match s.learned dst with
    | some p => if p = src then [] else [p]
    | none => [0, 1].filter (fun p => p != src && s.ethLive p)

/-- A frame forwarded (R504). -/
def State.forward (s : State) (f : EthQ) : State := (s.egressOf f.inPort (beAt f.bytes 0 6)).foldl (fun t p => t.enqueue p f) s

/-- The multicast MAC address of an IPv4 multicast address. -/
def mcastMac (ip : Nat) : Nat := 0x01005E000000 + ip % 2 ^ 23

/-- ETH.MCAST in use; outside 224.0.0.0 to 239.255.255.255 it acts as 0 (R538). -/
def State.mcast (s : State) : Nat := let m := s.ethCfg F.ethMcastAddr; if bitsN m 28 4 = 14 then m else 0

/-- The internal port takes a frame (R504). -/
def State.internal (s : State) (dst : Nat) : Bool :=
  dst == s.mac || dst == 0xFFFFFFFFFFFF || dst == 0x011B19000000 || (s.mcast != 0 && dst == mcastMac s.mcast)

/-- The device's own frame: tagged while VLAN.EN is 1 (R505). -/
def State.ownFrame (s : State) (dst type pcp : Nat) (payload : Bytes) : Bytes :=
  let tag := if s.ethCfg F.ethVlanEn != 0 then beOf 2 0x8100 ++ beOf 2 (pcp * 8192 + clampN 1 4094 (s.ethCfg F.ethVlanVid)) else []
  let f := beOf 6 dst ++ beOf 6 s.mac ++ tag ++ beOf 2 type ++ payload
  f ++ List.replicate (60 - f.length) 0

/-- The device sends a frame of its own. -/
def State.sendOwn (s : State) (dst type pcp : Nat) (payload : Bytes) (delayReq : Bool := false) : State :=
  s.forward { bytes := s.ownFrame dst type pcp payload, inPort := 2, inAt := s.count, delayReq := delayReq }

/-! ### The endpoint -/

/-- The endpoint runs and has an address (R526). -/
def State.endpoint (s : State) : Bool := s.bit F.ethCfgEn && s.fld F.ethIpaddrAddr != 0 && s.domOn domEth

/-- The broadcast address of the subnet. -/
def State.subnetCast (s : State) : Nat :=
  let m := s.fld F.ethIpmaskMask
  (s.fld F.ethIpaddrAddr &&& m) ||| (m ^^^ 0xFFFFFFFF)

/-- The next hop of a destination in the subnet or by the gateway; none without one (R526). -/
def State.nextHop (s : State) (ip : Nat) : Option Nat :=
  let m := s.fld F.ethIpmaskMask
  if ip &&& m = s.fld F.ethIpaddrAddr &&& m then some ip
  else if s.fld F.ethIpgwAddr = 0 then none else some (s.fld F.ethIpgwAddr)

/-- The MAC address for a destination: a group address, or its next hop's, if that is resolved. -/
def State.macFor (s : State) (ip : Nat) : Option Nat :=
  if ip = 0xFFFFFFFF ∨ ip = s.subnetCast then some 0xFFFFFFFFFFFF
  else if bitsN ip 28 4 = 14 then some (mcastMac ip)
  else (s.nextHop ip).bind (fun h => (s.eth.arp.find? (fun e => e.1 == h)).map (·.2))

/-- An ARP packet of the device. -/
def State.arpPacket (s : State) (op mac ip : Nat) : Bytes :=
  beOf 2 1 ++ beOf 2 0x0800 ++ [6, 4] ++ beOf 2 op ++ beOf 6 s.mac ++ beOf 4 (s.fld F.ethIpaddrAddr) ++ beOf 6 mac ++ beOf 4 ip

/-- An ARP request for a next hop. -/
def State.arpAsk (s : State) (ip : Nat) : State :=
  match s.nextHop ip with
  | some h => s.sendOwn 0xFFFFFFFFFFFF 0x0806 (s.ethCfg F.ethVlanPcpo) (s.arpPacket 1 0 h)
  | none => s

/-- An IPv4 packet of the device, without options, TTL 64, DF set (R526); its identification is a value the spec leaves
open. -/
def State.ipPacket (s : State) (dst proto : Nat) (body : Bytes) : Bytes :=
  let h := fun (sum : Nat) => [0x45, 0] ++ beOf 2 (20 + body.length) ++ beOf 2 (Config.freeNat s.free % 65536) ++ [0x40, 0, 64, proto]
    ++ beOf 2 sum ++ beOf 4 (s.fld F.ethIpaddrAddr) ++ beOf 4 dst
  h (inetSum (h 0)) ++ body

/-- A packet of the device sent; where its next hop is not resolved it waits for the answer to an ARP request. -/
def State.ipSend (s : State) (dst pcp : Nat) (packet : Bytes) : State :=
  if !s.endpoint then s else
  match s.macFor dst with
  | some m => s.sendOwn m 0x0800 pcp packet
  | none =>
    match s.nextHop dst with
    | none => s
    | some h => (s.setEth (fun e => { e with waiting := e.waiting ++ [⟨h, packet, pcp⟩] })).arpAsk dst

/-- A UDP datagram of the device as an IPv4 packet, its checksum filled in (R526). -/
def State.udpPacket (s : State) (dst sport dport : Nat) (data : Bytes) : Bytes :=
  let len := 8 + data.length
  let pseudo := beOf 4 (s.fld F.ethIpaddrAddr) ++ beOf 4 dst ++ [0, 17] ++ beOf 2 len
  let u := fun (sum : Nat) => beOf 2 sport ++ beOf 2 dport ++ beOf 2 len ++ beOf 2 sum ++ data
  let c := inetSum (pseudo ++ u 0)
  s.ipPacket dst 17 (u (if c = 0 then 65535 else c))

/-- A UDP datagram sent. -/
def State.udpSend (s : State) (dst sport dport pcp : Nat) (data : Bytes) : State :=
  let p := s.udpPacket dst sport dport data
  ({ s with free := s.free + 1 } : State).ipSend dst pcp p

/-- An ARP packet received (R526): a request for the device's address is answered, and a sender that addresses the device is
kept; packets that waited for it are sent. -/
def State.arpTake (s : State) (b : Bytes) : State :=
  if !s.endpoint || beAt b 0 2 != 1 || beAt b 2 2 != 0x0800 || beAt b 24 4 != s.fld F.ethIpaddrAddr then s
  else
    let ip := beAt b 14 4
    let m := beAt b 8 6
    let s1 := s.setEth (fun e => { e with
      arp := (ip, m) :: e.arp.filter (fun x => x.1 != ip), waiting := e.waiting.filter (fun x => x.hop != ip) })
    let s2 := (s.eth.waiting.filter (fun x => x.hop == ip)).foldl (fun t x => t.sendOwn m 0x0800 x.pcp x.packet) s1
    if beAt b 6 2 = 1 then s2.sendOwn m 0x0806 (s.ethCfg F.ethVlanPcpo) (s.arpPacket 2 m ip) else s2

/-- A received packet dropped (R526). -/
def State.badIp (s : State) : State := s.setBit F.ethStatBadip

/-- An IPv4 packet received (R526, R527): a datagram for the device, or what the endpoint does with any other packet. -/
def State.ipTake (s : State) (p : Bytes) : State × Option Dgram :=
  if !s.endpoint then (s, none) else
  let len := beAt p 2 2
  let dst := beAt p 16 4
  let src := beAt p 12 4
  if p.getD 0 0 ≠ 0x45 ∨ len < 20 ∨ p.length < len ∨ beAt p 6 2 % 0x4000 ≠ 0 ∨ onesSum (p.take 20) 0 ≠ 65535 then (s.badIp, none)
  else
    let me := dst == s.fld F.ethIpaddrAddr
    if !(me || dst == s.subnetCast || (s.mcast != 0 && dst == s.mcast)) then (s, none)
    else
      let b := (p.take len).drop 20
      if p.getD 9 0 = 17 then
        let ul := beAt b 4 2
        let pseudo := beOf 4 src ++ beOf 4 dst ++ [0, 17] ++ beOf 2 ul
        if ul < 8 ∨ b.length < ul then (s.badIp, none)
        else if beAt b 6 2 ≠ 0 ∧ onesSum (pseudo ++ b.take ul) 0 ≠ 65535 then (s.badIp, none)
        else (s, some ⟨src, beAt b 0 2, beAt b 2 2, (b.take ul).drop 8⟩)
      else if p.getD 9 0 = 1 ∧ b.getD 0 0 = 8 ∧ s.bit F.ethCfgIcmp ∧ me then
        let body := fun (sum : Nat) => [0, 0] ++ beOf 2 sum ++ b.drop 4
        let r := s.ipPacket src 1 (body (inetSum (body 0)))
        (({ s with free := s.free + 1 } : State).ipSend src (s.ethCfg F.ethVlanPcpo) r, none)
      else (s, none)

/-! ### The record -/

/-- The ETH region of the image (R535). -/
def State.ethRecords (s : State) : State :=
  if !s.domOn domEth then s else
  let p := s.eport
  let q := fun i => (s.pin (.sqi i)).toNat % 8
  let st := b2n (p 0).link + 2 * b2n (p 1).link + 4 * q 0 + 32 * q 1 + 256 * b2n (p 0).lost + 512 * b2n (p 1).lost
  (([st, (p 0).rx, (p 0).tx, (p 1).rx, (p 1).tx, s.eth.drop, s.eth.hrx, s.eth.htx] : List Nat).zipIdx).foldl
    (fun t x => t.putIn (0x4900 + 4 * x.2) (TWord.nat x.1)) s

/-- The frame's notes cleared. -/
def State.ethClear (s : State) : State :=
  forEach 2 (fun t p => t.setEport p (fun x => { x with rx := 0, tx := 0, lost := false }))
    (s.setEth (fun e => { e with drop := 0, hrx := 0, htx := 0 }))

end Sys2Proof.Machine
end

