-- ==== Sys2Proof/Machine/TimeOps.lean ====
section
/-!
DEFINITION. Network time: the ordinary clock, the servo, the transparent clock, PPS and the alarm (R508 to R523).
-/

namespace Sys2Proof.Machine

/-- RATE_0 (R509). -/
def rate0 : Nat := 0x1AAAAAAAAAB

/-- TIM changed. -/
def State.setTim (s : State) (f : Tim → Tim) : State := { s with tim := f s.tim }
/-- The ordinary clock changed. -/
def State.setPtp (s : State) (f : Ptp → Ptp) : State := { s with ptp := f s.ptp }

/-- The time source: 0b11 acts as 0b00 (R539). -/
def State.timSrc (s : State) : Nat := let x := s.fld F.timCfgSrc; if x = 3 then 0 else x

/-- A cause of event 61 (R516). -/
def State.timCause (s : State) (c : Nat) : State :=
  if (s.fld F.timEvenCause).testBit c then (s.setFld F.timEvcCause (s.fld F.timEvcCause ||| 2 ^ c)).raiseEvent 61 else s

/-- A change of STATE (R516, R521). -/
def State.timGo (s : State) (st : Nat) : State :=
  if s.tim.st = st then s.setTim (fun x => { x with good := 0, bad := 0 })
  else
    let s1 := (s.setTim (fun x => { x with st := st, good := 0, bad := 0 })).timCause 0
    if s.tim.st = 2 ∧ st = 3 then s1.raiseSource 162 else s1

/-- An integer clamped between -500000 and 500000 ppb, in 2^-15 ppb. -/
def clampPpb (x : Int) : Int := max (-500000 * 2 ^ 15) (min (500000 * 2 ^ 15) x)

/-- What takes FREE to ACQ (R516): a parent with SRC 0b01, two PPS_IN edges 1 s ± 1 ms apart with SRC 0b10. -/
def State.hasSource (s : State) : Bool :=
  (s.timSrc == 1 && s.ptp.parent.isSome) || (s.timSrc == 2 && s.tim.ppsGood)

/-- A measurement of θ, in 2^-16 ns (R515, R516). -/
def State.measure (s : State) (th : Int) : State :=
  let a := th.natAbs
  let ns := 2 ^ 16
  let stepth := 1000 * ns * max 1 (s.fld F.timServoStepth)
  let lockth := 10 * ns * s.fld F.timServoLockth
  let far := decide (stepth < a)
  let s1 := s.setTim (fun x => { x with theta := th })
  let s2 := if !s.bit F.timCfgServo then s1
    else if far then s1.setTim (fun x => { x with newOff := some (s.offset - quant th ns), newRate := none, i := 0 })
    else
      let i := clampPpb (s.tim.i + quant th (2 * 2 ^ s.fld F.timServoKi))
      let y := clampPpb (quant th (2 * 2 ^ s.fld F.timServoKp) + i)
      let r := quant ((rate0 : Int) * (2 ^ 15 * 1000000000 - y)) (2 ^ 15 * 1000000000)
      s1.setTim (fun x => { x with newOff := none, newRate := some r.toNat, i := i })
  if s.tim.st ≠ 0 ∧ far then s2.timGo 1
  else match s.tim.st with
  | 1 =>
    if a ≤ lockth then (if 16 ≤ s.tim.good + 1 then s2.timGo 2 else s2.setTim (fun x => { x with good := x.good + 1 }))
    else s2.setTim (fun x => { x with good := 0 })
  | 2 =>
    if 4 * lockth < a then (if 4 ≤ s.tim.bad + 1 then s2.timGo 1 else s2.setTim (fun x => { x with bad := x.bad + 1 }))
    else s2.setTim (fun x => { x with bad := 0 })
  | 3 => s2.timGo 1
  | _ => if s.hasSource then s2.timGo 1 else s2

/-- The source is lost (R516). -/
def State.sourceLost (s : State) : State :=
  match s.tim.st with
  | 1 => s.timGo 0
  | 2 => s.timGo 3
  | _ => s

/-! ### PTP messages -/

/-- Type, domain, sequenceId, sourcePortIdentity, correction in 2^-16 ns, time stamp in ns and the two-step flag of a PTP message
of the IEEE 802.3 mapping. -/
def ptpType (m : Bytes) : Nat := m.getD 0 0 % 16
def ptpDomain (m : Bytes) : Nat := m.getD 4 0
def ptpSeq (m : Bytes) : Nat := beAt m 30 2
def ptpSrc (m : Bytes) : Nat := beAt m 20 10
def ptpCorr (m : Bytes) : Int := signedN (beAt m 8 8) 64
def ptpStamp (m : Bytes) : Int := beAt m 34 6 * 1000000000 + beAt m 40 4
def ptpTwoStep (m : Bytes) : Bool := (m.getD 6 0).testBit 1
def ptpLog (m : Bytes) : Int := signedN (m.getD 33 0) 8

/-- The device's clockIdentity: the EUI-64 of its MAC address. -/
def State.clockId (s : State) : Nat := s.mac / 2 ^ 24 * 2 ^ 40 + 0xFFFE * 2 ^ 24 + s.mac % 2 ^ 24

/-- Lexicographic order of two datasets: the first is better. -/
def lexLt : List Nat → List Nat → Bool
  | [], _ => false
  | _ :: _, [] => false
  | x :: a, y :: b => decide (x < y) || (x == y && lexLt a b)

/-- The first of two clocks is the better master, by the dataset comparison of the standard (R512): two that name one grandmaster by the
steps removed, then by the sender's identity; any two others by the dataset, whose last item is the grandmaster's identity. -/
def Foreign.better (a b : Foreign) : Bool :=
  if a.prio.getLast? == b.prio.getLast? then decide (a.steps < b.steps) || (a.steps == b.steps && decide (a.src < b.src))
  else lexLt a.prio b.prio

/-- The parent chosen again among the clocks heard (R512, R516). -/
def State.selectParent (s : State) : State :=
  let best := s.ptp.foreign.foldl (fun (b : Option Foreign) f => match b with
    | none => some f
    | some g => if f.better g then some f else b) none
  let changed := (best.map (·.src)) != (s.ptp.parent.map (·.src))
  let s1 := s.setPtp (fun x => { x with
    parent := best, held := if changed then none else x.held, syncAt := if changed then s.count else x.syncAt })
  let src := (best.map (·.src)).getD 0
  let s2 := ((s1.setFld F.timParloId (src / 2 ^ 16 % 2 ^ 32)).setFld F.timParhiId (src / 2 ^ 48)).setFld F.timParportPort src
  let s3 := s2.setFld F.timParportSteps ((best.map (·.steps)).getD 0)
  if changed then s3.timCause 2 else s3

/-- An Announce message. -/
def State.announce (s : State) (p : Nat) (m : Bytes) : State :=
  let f : Foreign := {
    src := ptpSrc m, prio := [m.getD 47 0, m.getD 48 0, m.getD 49 0, beAt m 50 2, m.getD 52 0, beAt m 53 8]
    steps := beAt m 61 2, log := ptpLog m, at_ := s.count, port := p }
  (s.setPtp (fun x => { x with foreign := f :: x.foreign.filter (fun g => g.src != f.src) })).selectParent

/-- ASYM of a port in 2^-16 ns. -/
def State.asym (s : State) (p : Nat) : Int := signedN (s.ethCfg (F.ethPcalAsym p)) 16 * 2 ^ 16

/-- The mean path delay in 2^-16 ns (R514). -/
def State.mpd (s : State) : Int :=
  let l := s.ptp.delays
  (if l.isEmpty then 0 else quant (l.foldl (· + ·) 0) l.length) + (match s.ptp.parent with
    | some f => s.asym f.port
    | none => 0)

/-- A Sync, or the Follow_Up of one, yields a measurement (R514). -/
def State.syncDone (s : State) (x : SyncRx) : State :=
  let s1 := s.setPtp (fun p => { p with held := none, sync := some x })
  if s.timSrc = 1 then s1.measure (x.t2 - x.t1 * 2 ^ 16 - s.mpd - x.corr) else s1

/-- A malformed PTP message (R539): shorter than its header, its messageLength or the fixed part of its type, or of another version
than 2. DESIGN CHOICE: the spec does not say what makes a message malformed. -/
def ptpMalformed (m : Bytes) : Bool :=
  decide (m.length < 34) || m.getD 1 0 % 16 != 2 || decide (m.length < beAt m 2 2)
    || decide (m.length < (match ptpType m with | 0 => 44 | 1 => 44 | 8 => 44 | 9 => 54 | 11 => 64 | _ => 34))

/-- A PTP message for the ordinary clock, with its ingress COUNT (R512, R514). -/
def State.ptpTake (s : State) (p : Nat) (m : Bytes) (at_ : Nat) : State :=
  if !s.domOn domTime then s
  else if ptpMalformed m then s.setBit F.timStatBadmsg
  else if ptpDomain m != s.fld F.timCfgDom then s
  else
  let mine := match s.ptp.parent with
    | some f => f.src == ptpSrc m
    | none => false
  let t2 : Int := (s.timeAt at_ - s.ethCfg (F.ethPcalIlat p)) * 2 ^ 16
  match ptpType m with
  | 11 => s.announce p m
  | 0 =>
    if !mine then s else
    let s1 := s.setPtp (fun x => { x with syncAt := s.count, syncLog := ptpLog m })
    if ptpTwoStep m then s1.setPtp (fun x => { x with held := some ⟨ptpSeq m, 0, t2, ptpCorr m⟩ })
    else s1.syncDone ⟨ptpSeq m, ptpStamp m, t2, ptpCorr m⟩
  | 8 =>
    match s.ptp.held with
    | some h => if mine && h.seq == ptpSeq m then s.syncDone { h with t1 := ptpStamp m, corr := h.corr + ptpCorr m } else s
    | none => s
  | 9 =>
    match s.ptp.t3, s.ptp.sync with
    | some t3, some y =>
      if mine && beAt m 44 8 == s.clockId && ptpSeq m == s.ptp.reqSeq then
        let d := quant ((y.t2 - t3) + (ptpStamp m - y.t1) * 2 ^ 16 - y.corr - ptpCorr m) 2
        s.setPtp (fun x => { x with delays := (d :: x.delays).take 8, t3 := none })
      else s
    | _, _ => s
  | _ => s

/-- A Delay_Req of the ordinary clock. -/
def State.delayReq (s : State) (p : Nat) : Bytes :=
  [1, 2] ++ beOf 2 44 ++ [s.fld F.timCfgDom, 0, 0, 0] ++ List.replicate 12 0 ++ beOf 8 s.clockId ++ beOf 2 (p + 1)
    ++ beOf 2 s.ptp.reqSeq ++ [1, 0x7F] ++ List.replicate 10 0

/-- The correction of a message raised by a residence, at most its range (R513). -/
def addCorr (f : Bytes) (o : Nat) (r : Int) : Bytes :=
  let c := signedN (beAt f (o + 8) 8) 64 + r
  let v : Int := if 2 ^ 63 ≤ c then 2 ^ 63 - 1 else c
  f.take (o + 8) ++ beOf 8 (v % 2 ^ 64).toNat ++ f.drop (o + 16)

/-- The residence of a forwarded message at its egress, in 2^-16 ns (R513). -/
def State.residence (s : State) (p : Nat) (f : EthQ) : Int :=
  quant (((s.count - f.inAt) * s.rate : Nat)) (2 ^ 24) + (s.ethCfg (F.ethPcalElat p) + s.ethCfg (F.ethPcalIlat f.inPort) : Nat) * 2 ^ 16

/-- What the transparent clock does with a frame that leaves port `p` (R513): its bytes as sent. -/
def State.transparent (s : State) (p : Nat) (f : EthQ) : Bytes × State :=
  let o := if frTagged f.bytes then 18 else 14
  let m := f.bytes.drop o
  if !s.bit F.timCfgTc || frType f.bytes != 0x88F7 || f.inPort == 2 then (f.bytes, s)
  else
    let key := fun (r : Residence) => r.port == p && r.seq == ptpSeq m && r.src == ptpSrc m
    match ptpType m with
    | 0 =>
      if ptpTwoStep m then
        (f.bytes, if s.ptp.residences.length < 16 then s.setPtp (fun x => { x with
          residences := x.residences ++ [⟨p, ptpSeq m, ptpSrc m, s.residence p f, s.count⟩] }) else s)
      else (addCorr f.bytes o (s.residence p f), s)
    | 1 => (addCorr f.bytes o (s.residence p f), s)
    | 8 =>
      match s.ptp.residences.find? (fun r => key r && decide (s.count ≤ r.at_ + 600000000)) with
      | some r => (addCorr f.bytes o r.time, s.setPtp (fun x => { x with residences := x.residences.filter (fun q => q != r) }))
      | none => (f.bytes, s.setBit F.timStatBadmsg)
    | _ => (f.bytes, s)

/-! ### The edge -/

/-- RATE and OFFSET in use changed. -/
def State.setRate (s : State) (r : Nat) : State := (s.setFld F.timRateloRate (r % 2 ^ 32)).setFld F.timRatehiRate (r / 2 ^ 32)
def State.setOffset (s : State) (o : Int) : State :=
  let w := (o % 2 ^ 64).toNat
  (s.setFld F.timOffloOff (w % 2 ^ 32)).setFld F.timOffhiOff (w / 2 ^ 32)

/-- RATE clamped to RATE_0 × (1 ± 500 ppm), in whole units inside the range (R510). -/
def clampRate (r : Nat) : Nat := clampN (rate0 - rate0 * 5 / 10000) (rate0 + rate0 * 5 / 10000) r

/-- A staged write of NRATELO or NOFFLO at its edge, beside its plain effect (R515, R539). -/
def State.applyTim (s : State) (a : Nat) (w : Word) : Option State :=
  if a = F.timNrateloRate.addr then some ((s.applyPlain a w).setTim (fun x => { x with nrate := true }))
  else if a = F.timNoffloOff.addr then some ((s.applyPlain a w).setTim (fun x => { x with noff := true }))
  else none

/-- RATE and OFFSET at step 2 of an edge (R510, R515), and the state's moves at an edge, while TIME is ON (R516, R518). -/
def State.timEdge (s : State) : State :=
  let now := s.timeNow
  let servo := s.bit F.timCfgServo
  let rate := if !servo && s.tim.nrate then some (s.fld F.timNrateloRate + 2 ^ 32 * getBits s.tim.nrateHi 0 9)
    else s.tim.newRate
  let step := if s.tim.noff then some (signedN (s.fld F.timNoffloOff + 2 ^ 32 * s.tim.noffHi.toNat) 64) else s.tim.newOff
  let s1 := match rate with
    | some r =>
      let t := s.setRate (clampRate r)
      t.setOffset (t.offset + (now - t.timeNow))
    | none => s
  let s2 := match step with
    | some o =>
      let t := ((s1.setOffset o).setBit F.timStatStepd).timCause 1
      if t.netTime then t.raiseSource 162 else t
    | none => s1
  let s3 := s2.setTim (fun x => { x with newOff := none, newRate := none, nrate := false, noff := false, stepped := step.isSome })
  if !s3.domOn domTime then s3
  else if s3.timSrc = 0 ∧ s3.tim.st ≠ 0 then s3.timGo 0
  else if s3.tim.st = 0 ∧ s3.hasSource then s3.timGo 1
  else s3

/-- SYNC (R521): edges follow corrected time and the state is LOCK. -/
def State.synced (s : State) : Bool := s.netTime && s.tim.st == 2

/-- A signed number of ns from 2^-16 ns, saturated to 32 bits. -/
def nsOf (x : Int) : Int := max (-(2 ^ 31)) (min (2 ^ 31 - 1) (quant x (2 ^ 16)))

/-- The TIM region of the image (R536); `edge` is the corrected time of the edge. -/
def State.timRecords (s : State) : State :=
  if !s.domOn domTime then s else
  let st := s.tim.st + 8 * b2n s.tim.stepped + 16 * b2n s.synced + 32 * b2n s.tim.ppsCap
  let e := s.frm.edgeT
  let n := (e.tdiv (1000 * s.tfUs : Nat) % 2 ^ 64).toNat
  let dev := quant (((s.rate : Int) - rate0) * 1000000000) rate0
  let s1 := ((s.putIn 0x4A00 (TWord.nat st)).putIn 0x4A04 (TWord.int (nsOf s.tim.theta))).putIn 0x4A08 (TWord.nat (nsOf s.mpd).toNat)
  ((s1.putIn 0x4A0C (TWord.int dev)).putIn 0x4A10 (TWord.nat n)).putIn 0x4A14 (TWord.nat (n / 2 ^ 32 % 65536))

/-- The frame's notes cleared. -/
def State.timClear (s : State) : State := s.setTim (fun x => { x with ppsCap := false, stepped := false })

/-- TIME returns from OFF: the servo's state is lost (R433). -/
def State.timLost (s : State) : State :=
  { s with ptp := { residences := s.ptp.residences }, tim := { s.tim with i := 0, theta := 0, good := 0, bad := 0, newOff := none, newRate := none } }

end Sys2Proof.Machine
end

