-- ==== Sys2Proof/Machine/Time.lean ====
section
/-!
DEFINITION. Commands of the switch and of network time (15_ethernet_time.md).
-/

namespace Sys2Proof.Machine

/-! ### Links and egress -/

/-- ETH_LINK_UP: the other end of a port is enabled in a role; the port links where the roles are opposite, a change that
ETH.EVEN makes an event (R503, R538). -/
def execEthLinkUp (p : Fin 2) (farMaster : Bool) (s : State) : Out :=
  .next (
    if s.bit (F.ethPcfgEn p) ∧ s.domOn domEth ∧ farMaster ≠ s.bit (F.ethPcfgMs p) then
      let t := s.setEport p (fun x => { x with link := true, role := s.bit (F.ethPcfgMs p) })
      if (s.eport p).link then t else t.linkEvent p
    else s)

/-- ETH_LINK_DOWN: a port's LINK falls (R503). -/
def execEthLinkDown (p : Fin 2) (s : State) : Out := .next (s.linkDown p)

/-- The next frame of a port's highest queue that holds one, and its queue (R505). -/
def EthPort.head (x : EthPort) : Option (EthQ × Nat) :=
  [3, 2, 1, 0].findSome? (fun c => (nth x.q c []).head?.map (fun f => (f, c)))

/-! ### PTP -/

/-- FOLLOW_UP_TIMEOUT: 1 s after its Sync the oldest residence held without a Follow_Up is dropped (R513). -/
def execFollowUpTimeout (s : State) : Out :=
  .next (match s.ptp.residences with
    | [] => s
    | r :: l => (s.advance (r.at_ + 600000000)).setPtp (fun x => { x with residences := l }))

/-- DELAY_REQ_SEND: the ordinary clock sends a Delay_Req toward its parent (R514). -/
def execDelayReqSend (s : State) : Out :=
  .next (match s.ptp.parent with
    | some f =>
      if s.domOn domTime ∧ s.timSrc = 1 then
        let s1 := s.setPtp (fun x => { x with reqSeq := (x.reqSeq + 1) % 65536, t3 := none })
        s1.enqueue f.port { bytes := s1.ownFrame 0x011B19000000 0x88F7 (s.ethCfg F.ethVlanPcpp) (s1.delayReq f.port), inPort := 2
                            inAt := s.count, delayReq := true }
      else s
    | none => s)

/-- Ticks of COUNT in 2^`k` s. -/
def ticksLog (k : Int) : Nat := if 0 ≤ k then 600000000 * 2 ^ k.toNat else 600000000 / 2 ^ (-k).toNat

/-- PTP_SOURCE_LOST: with SRC 0b01 no Sync of the parent for LOSS of its intervals, or no Announce for three of its intervals;
with SRC 0b10 no PPS_IN edge for LOSS seconds (R516); so is a source of which nothing was ever heard. A parent lost is chosen again from the next Announce on. -/
def execPtpSourceLost (s : State) : Out :=
  let loss := clampN 2 15 (s.fld F.timCfgLoss)
  .next (match s.timSrc, s.ptp.parent, s.tim.pps with
    | 1, some f, _ =>
      let t := min (s.ptp.syncAt + loss * ticksLog s.ptp.syncLog) (f.at_ + 3 * ticksLog f.log)
      ((s.advance t).setPtp (fun x => { x with
        parent := none, foreign := x.foreign.filter (fun g => g.src != f.src), held := none, delays := [] })).sourceLost
    | 2, _, some e => ((s.advance (e.2 + loss * 600000000)).setTim (fun x => { x with pps := none, ppsGood := false })).sourceLost
    | 1, none, _ => s.sourceLost
    | 2, _, none => s.sourceLost
    | _, _, _ => s)

/-! ### Reads and staged pairs -/

/-- A number's two halves. -/
def lo32 (t : Int) : Word := BitVec.ofInt 32 t
def hi32 (t : Int) : Word := BitVec.ofInt 32 (t / 2 ^ 32)

/-- A read of TIM.TLO by a master (R511): the word, and T[63:32] captured for it. -/
def State.readTlo (s : State) (m : Nat) : Word × State :=
  (lo32 s.timeNow, s.setTim (fun x => { x with thi := updN x.thi m (fun _ => hi32 s.timeNow) }))

/-- A read of TIM.CNTLO by a master (R511). -/
def State.readCntlo (s : State) (m : Nat) : Word × State :=
  (BitVec.ofNat 32 s.count, s.setTim (fun x => { x with cnthi := updN x.cnthi m (fun _ => BitVec.ofNat 32 (s.count / 2 ^ 32)) }))

/-- TLO_READ (R511). -/
def execTloRead (m : Master) (s : State) : Out :=
  .next (s.load (.tloRead m) (fun s => let r := s.readTlo (masterNum m); r.2.deliver m ⟨Tag.nat, r.1⟩))

/-- CNTLO_READ (R511). -/
def execCntloRead (m : Master) (s : State) : Out :=
  .next (s.load (.cntloRead m) (fun s => let r := s.readCntlo (masterNum m); r.2.deliver m ⟨Tag.nat, r.1⟩))

/-- NRATELO_WRITE: a firmware store to TIM.NRATELO, held for an edge (R515, R539). -/
def execNrateloWrite (w : Word) (s : State) : Out :=
  .next (s.store (.nrateloWrite w) (·.holdFw F.timNrateloRate.addr w))

/-- NOFFLO_WRITE: a firmware store to TIM.NOFFLO, held for an edge (R515, R539). -/
def execNoffloWrite (w : Word) (s : State) : Out :=
  .next (s.store (.noffloWrite w) (·.holdFw F.timNoffloOff.addr w))

/-! ### PPS and the alarm -/

/-- PPS_OUT_PULSE: T reaches the next whole second; while OUTEN is 1 PPS_OUT is driven active for WID ms (R523). -/
def execPpsOutPulse (s : State) : Out :=
  .next (if s.bit F.timPpsOuten ∧ s.domOn domTime then
    let sec := (s.timeNow + 999999999) / 1000000000 * 1000000000
    let s1 := s.advance (s.countFor sec)
    s1.setTim (fun x => { x with ppsEnd := some (s1.countFor (sec + 1000000 * clampN 1 500 (s.fld F.timPpsWid))) })
  else s)

/-- PPS_OUT_PULSE_END: after WID ms the land is inactive again (R523). -/
def execPpsOutPulseEnd (s : State) : Out :=
  .next (match s.tim.ppsEnd with
    | some t => (s.advance t).setTim (fun x => { x with ppsEnd := none })
    | none => s)

/-- The level of PPS_OUT: `none` while it is not driven, with OUTEN 0 or TIME not ON (R438, R523). -/
def State.ppsOut (s : State) : Option Bool :=
  if s.domOn domTime && s.bit F.timPpsOuten then some (xor s.tim.ppsEnd.isSome (s.bit F.timPpsOutpol)) else none

/-- PPS_IN_EDGE: a rising or falling edge of PPS_IN (R517, R523). -/
def execPpsInEdge (rising : Bool) (s : State) : Out :=
  .next (
    if rising = s.bit F.timPpsInpol ∨ s.domOn domTime = false then s
    else
      let t := s.timeNow
      let s1 := (s.setFld F.timPpscloT (lo32 t).toNat).setFld F.timPpschiT (hi32 t).toNat
      let near := match s.tim.pps with
        | some p => decide ((t - p.1 - 1000000000).natAbs ≤ 1000000)
        | none => false
      let s2 := (s1.setTim (fun x => { x with pps := some (t, s.count), ppsGood := near, ppsCap := true })).raiseEvent 62
      if s.timSrc = 2 then s2.measure ((t - (t + 500000000) / 1000000000 * 1000000000) * 2 ^ 16) else s2)

/-- A write of TIM.ALMLO (R523, R539). -/
def State.armAlarm (s : State) (w : Word) : State :=
  let s1 := s.setFld F.timAlmloT w.toNat
  s1.setTim (fun x => { x with alarm := some (BitVec.ofNat 64 (w.toNat + 2 ^ 32 * s1.fld F.timAlmhiT)) })

/-- ALMLO_WRITE (R523). -/
def execAlmloWrite (w : Word) (s : State) : Out :=
  .next (s.store (.almloWrite w) (·.armAlarm w))

/-- ALARM: T reaches ALM (R523). -/
def execAlarm (s : State) : Out :=
  .next (match s.tim.alarm with
    | some a =>
      if s.domOn domTime then ((s.advance (s.countFor a.toInt)).setTim (fun x => { x with alarm := none })).raiseEvent 63 else s
    | none => s)

end Sys2Proof.Machine
end

