-- ==== Sys2Proof/Machine/Baler.lean ====
section
/-!
DEFINITION. The Baler: records, fragments, the ring and record requests (R528 to R534, R537, R540).
-/

namespace Sys2Proof.Machine

/-- The Baler changed. -/
def State.setBal (s : State) (f : Bal → Bal) : State := { s with bal := f s.bal }

/-- A word of the committed output view as a load returns it (R61, R62). -/
def State.viewWord (s : State) (o : Nat) : TWord :=
  let f := s.frm.frame.toNat
  if o = 0 then TWord.nat 0x00030001
  else if o = 4 then TWord.nat f
  else if o = 8 then TWord.nat (f / 2 ^ 32)
  else ⟨Tag.nat, s.committed o⟩

/-- The Baler runs (R528). -/
def State.balRuns (s : State) : Bool := s.bit F.balCfgEn && s.domOn domEth

/-- A section (R530): the words of an image from an offset, with their tags. -/
def State.balSection (s : State) (j : Nat) : Bytes :=
  let img := s.fld (F.balSelImg j)
  let o := s.fld (F.balSelOffw j)
  let w := s.fld (F.balSelLenw j)
  let ws := (upto w).map (fun i => if img = 0 then s.inWord (4 * (o + i)) else s.viewWord (4 * (o + i)))
  let tag := fun i => ((ws.map (·.tag.toNat)).getD i 0)
  let b := [img, 0] ++ leOf 2 o ++ leOf 2 w ++ [0, 0] ++ ws.flatMap (fun x => leOf 4 x.val.toNat)
    ++ (upto ((w + 1) / 2)).map (fun i => tag (2 * i) + 16 * tag (2 * i + 1))
  b ++ List.replicate ((4 - b.length % 4) % 4) 0

/-- A selector is in use. -/
def State.balUsed (s : State) (j : Nat) : Bool := s.bit (F.balSelEn j) && s.fld (F.balSelLenw j) != 0

/-- The sections of a record, its SECT bits, and whether it was truncated (R528). -/
def State.balSections (s : State) : Bytes × Nat × Bool :=
  ((upto 16).filter s.balUsed).foldl (fun (a : Bytes × Nat × Bool) j =>
    let b := s.balSection j
    if a.2.2 || decide (4096 < 32 + a.1.length + b.length) then (a.1, a.2.1, true)
    else (a.1 ++ b, a.2.1 + 2 ^ j, false)) ([], 0, false)

/-- A record's CRC filled in (R529). -/
def withCrc (r : Bytes) : Bytes :=
  let z := r.take 28 ++ [0, 0, 0, 0] ++ r.drop 32
  r.take 28 ++ leOf 4 (crc32 z) ++ r.drop 32

/-- The record of the frame (R529). -/
def State.balRecord (s : State) : Bytes × Bool :=
  let x := s.balSections
  let flags := b2n s.win.safe + 2 * b2n (!s.frm.committing) + 4 * b2n s.frm.synced + 8 * b2n s.pwr.resumed.isSome + 16 * b2n x.2.2
  let hdr := leOf 2 0xBA1E ++ [1, flags] ++ leOf 2 (s.fld F.balNode) ++ leOf 2 (32 + x.1.length) ++ leOf 6 s.frm.frame.toNat
    ++ leOf 2 s.bal.next ++ leOf 4 (s.inWord 0x10).val.toNat ++ leOf 4 (s.inWord 0x14).val.toNat ++ leOf 4 x.2.1 ++ [0, 0, 0, 0]
  (withCrc (hdr ++ x.1), x.2.2)

/-- The fragments of a record, each behind its header (R531). -/
def fragments (node seq : Nat) (r : Bytes) : List Bytes :=
  let n := (r.length + 1455) / 1456
  (upto n).map (fun i =>
    let d := (r.drop (1456 * i)).take 1456
    leOf 2 0xBA1F ++ [1, i + 16 * n] ++ leOf 2 node ++ leOf 2 seq ++ leOf 4 (1456 * i) ++ leOf 2 d.length ++ [0, 0] ++ d)

/-- The ring slot of a frame (R533). -/
def State.ringSlot (s : State) (frame : Nat) : Nat := s.fld F.balRingAddr / 4096 * 4096 + 4096 * (frame % 256)

/-- The ring lies in the Granary. -/
def State.ringOk (s : State) : Bool := inGranary (s.ringSlot 0) && inGranary (s.ringSlot 255)

/-- A ring write is refused: BAL does not own the bank (R533). -/
def State.ringError (s : State) : State :=
  ((s.setBit F.balStatRingerr).setBal (fun b => { b with ringErr := true })).raiseSource 163

/-- A record written to the ring (R533). -/
def State.ringWrite (s : State) (r : Bytes) : State :=
  let a := s.ringSlot s.frm.frame.toNat
  if s.mayUse 2 (bankOf a) then
    ((wordsOf r).zipIdx).foldl (fun t x => t.grnWrite 2 (a + 4 * x.2) ⟨Tag.raw, x.1⟩) s
  else (s.nonOwner a 2 true false).ringError

/-- One fragment handed to the port queues, where its destination is resolved and the queues have room; else none (R532). -/
def State.handOver (s : State) (f : Bytes) : Option State :=
  if !s.endpoint then none else
  let dst := s.fld F.balDstipAddr
  match s.macFor dst with
  | none => none
  | some m =>
    let p := s.udpPacket dst (s.fld F.balPortsSport) s.bal.dport f
    let fr := s.ownFrame m 0x0800 (s.ethCfg F.ethVlanPcpb) p
    let out := s.egressOf 2 m
    let s1 : State := { s with free := s.free + 1 }
    if out.isEmpty then some s1.ethDrop
    else if out.all (fun q => s.qRoom q fr) then
      some (out.foldl (fun t q => t.enqueue q { bytes := fr, inPort := 2, inAt := s.count }) s1)
    else none

/-- The waiting fragments handed over in order, as far as they can be. -/
def State.balHandFrom (s : State) : List Bytes → State
  | [] => s.setBal (fun b => { b with frags := [] })
  | f :: l => match s.handOver f with
    | some t => t.balHandFrom l
    | none => s.setBal (fun b => { b with frags := f :: l })

/-- The waiting fragments handed over. -/
def State.balHand (s : State) : State := if s.bal.frags.isEmpty then s else s.balHandFrom s.bal.frags

/-- ETH_FRAME_EGRESS: a port sends the next frame of its highest queue; the transparent clock corrects it, and a Delay_Req takes
its egress time (R505, R513, R514). A record's fragments that found queue 1 full follow into the room (R532). -/
def execEthFrameEgress (p : Fin 2) (s : State) : Out :=
  .next (
    if s.ethLive p = false then s else
    match (s.eport p).head with
    | none => s
    | some (f, c) =>
      let r := s.transparent p f
      let s1 := r.2.setEport p (fun x => { x with q := updN x.q c (fun l => l.drop 1), out := r.1, tx := x.tx + 1 })
      let s2 := if f.delayReq then s1.setPtp (fun x => { x with t3 := some ((s.timeNow + s.ethCfg (F.ethPcalElat p)) * 2 ^ 16) }) else s1
      s2.balHand)

/-- BALER_RECORD_BUILD: at E + 2 µs the record of the frame is built, kept in the ring and sent (R528 to R533). A ring outside
the Granary is not checked. -/
def execBalerRecordBuild (s : State) : Out :=
  if s.balRuns = false ∨ s.bal.built then .next s
  else if s.bit F.balCfgRingen ∧ s.ringOk = false then .fault (.uncheckedUse 533)
  else
    let s1 := s.advance (s.frm.edgeAt + 2 * ticksPerUs)
    let r := s1.balRecord
    let s2 := (s1.setFld F.balSeq s.bal.next).setBal (fun b => { b with
      next := (b.next + 1) % 65536, built := true, len := r.1.length, trunc := b.trunc || r.2 })
    let s3 := if r.2 then s2.setBit F.balStatTrunc else s2
    let s4 := if s.bit F.balCfgRingen then s3.ringWrite r.1 else s3
    let dst := s.fld F.balDstipAddr
    .next (if s.bit F.balCfgTx ∧ dst ≠ 0 then
      let s5 := s4.setBal (fun b => { b with frags := fragments (s.fld F.balNode) s.bal.next r.1 })
      let s6 := if s5.endpoint ∧ (s5.macFor dst).isNone then s5.arpAsk dst else s5
      s6.balHand
    else s4)

/-- A record request received (R534). -/
def State.balRequest (s : State) (d : Dgram) : State :=
  let b := d.data
  if s.balRuns = false ∨ b.length ≠ 12 ∨ leAt b 0 2 ≠ 0xBA1D ∨ b.getD 2 0 ≠ 1 ∨ b.getD 3 0 ≠ 1 ∨ leAt b 10 2 ≠ 0 then s
  else if 64 ≤ s.bal.reqs.length then s
  else s.setBal (fun x => { x with reqs := x.reqs ++ [(d.ip, d.sport, leAt b 4 6)] })

/-- Bytes of the ring from an address, read as BAL. -/
def State.ringRead (s : State) (a n : Nat) : Bytes × State :=
  (upto n).foldl (fun (x : Bytes × State) i =>
    let r := x.2.grnRead 2 (a + 4 * i) .clean
    (x.1 ++ leOf 4 r.1.val.toNat, r.2)) ([], s)

/-- RECORD_REQUEST_SERVE: the oldest waiting request is served, at most 16 in a frame (R534). -/
def execRecordRequestServe (s : State) : Out :=
  match s.bal.reqs with
  | [] => .next s
  | (ip, port, frame) :: l =>
    if s.balRuns = false ∨ 16 ≤ s.bal.served then .next s
    else if s.ringOk = false then .fault (.uncheckedUse 533)
    else
      let s1 := s.setBal (fun b => { b with reqs := l, served := b.served + 1 })
      let a := s.ringSlot frame
      let h := s1.ringRead a 8
      let len := leAt h.1 6 2
      let send := fun (t : State) (f : Bytes) => t.udpSend ip (s.fld F.balPortsSport) port (s.ethCfg F.ethVlanPcpb) f
      if leAt h.1 0 2 = 0xBA1E ∧ leAt h.1 8 6 = frame ∧ 32 ≤ len ∧ len ≤ 4096 then
        let r := h.2.ringRead a ((len + 3) / 4)
        let b := r.1.take len
        let again := withCrc (b.take 3 ++ [b.getD 3 0 ||| 32] ++ b.drop 4)
        .next ((fragments (leAt b 4 2) (leAt b 14 2) again).foldl send r.2)
      else .next (send (h.2.setBit F.balStatReqrej) (List.replicate 16 0))

/-- A staged write of BAL.SEL at its edge, clamped to the image (R540). -/
def State.applyBal (s : State) (a : Nat) (w : Word) : Option State :=
  if (F.balSelEn 0).addr ≤ a ∧ a < (F.balSelEn 0).addr + 64 then
    let len := getBits w 16 14
    some (s.applyPlain a (setBits w 16 14 (min len (16384 - getBits w 0 14))))
  else none

/-- The edge that closes the frame: a record not wholly handed over is dropped (R532). -/
def State.balEdge (s : State) : State :=
  if s.bal.frags.isEmpty then s
  else ((s.setBit F.balStatDrop).setBal (fun b => { b with frags := [], drop := true })).raiseSource 163

/-- The BAL region of the image (R537). -/
def State.balRecords (s : State) : State :=
  if !s.domOn domEth then s else
  let b := s.bal
  let st := s.fld F.balCfgEn + 2 * b2n b.drop + 4 * b2n b.trunc + 8 * b2n b.ringErr
  ((s.putIn 0x4B00 (TWord.nat st)).putIn 0x4B04 (TWord.nat (if b.built then b.len else 0))).putIn 0x4B08
    (TWord.nat (if b.built then s.fld F.balSeq else 0)) |>.putIn 0x4B0C (TWord.nat b.served)

/-- The frame's notes cleared. -/
def State.balClear (s : State) : State :=
  s.setBal (fun b => { b with served := 0, drop := false, trunc := false, ringErr := false, len := 0, built := false })

end Sys2Proof.Machine
end

