-- ==== Sys2Proof/Machine/SilOps.lean ====
section
/-!
DEFINITION. Shared operations of the Silo: generations, shadows and the settings that the device reads from them
(19_silo_gleaner.md).
-/

namespace Sys2Proof.Machine

/-- The block changed. -/
def State.setSil (s : State) (f : Sil → Sil) : State := { s with sil := f s.sil }

/-- Generation `g` of record `r` (R617). -/
def State.siloGen (s : State) (r g : Nat) : SilGen := AMap.get (fun _ => {}) s.sil.gens (4 * r + g)
/-- A generation changed. -/
def State.setGen (s : State) (r g : Nat) (x : SilGen) : State :=
  s.setSil (fun y => { y with gens := AMap.put (fun _ => {}) y.gens (4 * r + g) x })

/-- A generation is programmed, void, blank (R618). -/
def SilGen.programmed (x : SilGen) : Bool := x.start && x.done && !x.ones
def SilGen.void (x : SilGen) : Bool := (x.start && !x.done) || x.ones
def SilGen.blank (x : SilGen) : Bool := !x.start && !x.ones

/-- The live generation of a record: its highest programmed one (R618). -/
def State.liveGen (s : State) (r : Nat) : Option Nat := [3, 2, 1, 0].find? (fun g => (s.siloGen r g).programmed)

/-- The lowest blank generation of a record. -/
def State.blankGen (s : State) (r : Nat) : Option Nat := [0, 1, 2, 3].find? (fun g => (s.siloGen r g).blank)

/-- Records 52 to 60 are raw (R620). -/
def rawRecord (r : Nat) : Bool := decide (52 ≤ r) && decide (r ≤ 60)

/-- A raw bit: at least two of its four cells read 1 (R620). -/
def State.rawBit (s : State) (r b : Nat) : Bool :=
  decide (2 ≤ ((upto 4).filter (fun g => (s.siloGen r g).data.testBit b)).length)

/-- The 64 bits of a record as its cells give them (R618, R620). -/
def State.siloData (s : State) (r : Nat) : Nat :=
  if rawRecord r then (upto 64).foldl (fun a b => if s.rawBit r b then a + 2 ^ b else a) 0
  else match s.liveGen r with
    | some g => (s.siloGen r g).data
    | none => 0

/-- The shadow of a record, from which every read is answered (R619). -/
def State.shadow (s : State) (r : Nat) : Nat := AMap.get (fun _ => 0) s.sil.shadow r
/-- The code of a record decodes only its live generation (R619); raw records have none (R620). -/
def State.siloCoded (s : State) (r : Nat) : Bool := !rawRecord r && (s.liveGen r).isSome
/-- A shadow taken from the cells, with what the check of the live generation says (R619). Three or more wrong bits give any data; the
spec states none. -/
def State.storeShadow (s : State) (r : Nat) (e : Ecc) : State :=
  let put := fun (t : State) (v : Nat) => t.setSil (fun y => { y with shadow := AMap.put (fun _ => 0) y.shadow r v })
  if s.siloCoded r then match e with
    | .clean | .single => put s (s.siloData r)
    | .double => put s 0
    | .wrong | .unseen => put s.fresh.2.fresh.2 (s.fresh.1.toNat + 2 ^ 32 * s.fresh.2.fresh.1.toNat)
  else put s (s.siloData r)
/-- The sources that the check of a record sets (R619). -/
def State.shadowSource (s : State) (r : Nat) (e : Ecc) : State :=
  if s.siloCoded r then match e with
    | .clean | .unseen => s
    | .single | .wrong => s.raiseSource 176
    | .double => s.raiseSource 168
  else s
/-- A shadow taken from the cells, with its sources. -/
def State.takeShadowOf (s : State) (r : Nat) (e : Ecc) : State := (s.storeShadow r e).shadowSource r e

/-- Bytes of a group of `n` records, from their shadows (R621). -/
def State.siloBytes (s : State) (r n : Nat) : Bytes := (upto n).flatMap (fun j => leOf 8 (s.shadow (r + j)))

/-- Every record of a group is programmed. -/
def State.siloProgrammed (s : State) (r n : Nat) : Bool := (upto n).all (fun j => (s.liveGen (r + j)).isSome)

/-- Protected records (R621). -/
def protectedRecord (r : Nat) : Bool := decide (r ≤ 3) || (decide (46 ≤ r) && decide (r ≤ 51))

/-- BOOTCFG (R623): debug mode, custom-decode lock, revocation of signing key `k`. -/
def State.dbgMode (s : State) : Nat := min 2 (bitsN (s.shadow 36) 0 2)
def State.cdLock (s : State) : Bool := (s.shadow 36).testBit 2
def State.revoked (s : State) (k : Nat) : Bool := (s.shadow 36).testBit (3 + k)

/-- The UID, 16 bytes (R621). -/
def State.uid (s : State) : Bytes := s.siloBytes 4 2

/-- The anti-rollback count of the thermometer (R626). -/
def State.thermometer (s : State) : Nat :=
  (upto 128).foldl (fun a j => if s.rawBit (52 + j / 64) (j % 64) then j + 1 else a) 0

/-- The records that PROG accepts (R625). -/
def progRecord (r : Nat) : Bool :=
  (decide (32 ≤ r) && decide (r ≤ 36)) || (decide (38 ≤ r) && decide (r ≤ 51)) || (decide (64 ≤ r) && decide (r ≤ 127))

/-- A record is full (R618): no generation is blank; a raw record never is. -/
def State.siloFull (s : State) (r : Nat) : Bool := !rawRecord r && (s.blankGen r).isNone

/-- The reserve count of the Silo kind (R634). -/
def State.siloReserve (s : State) : Nat :=
  ((upto 128).filter progRecord).foldl (fun a r => a + ([1, 2, 3].filter (fun g => (s.siloGen r g).blank)).length) 0

/-- RINFO of a record (R641). -/
def State.siloInfo (s : State) (r : Nat) : Nat :=
  let raw := rawRecord r
  let live := if raw then none else s.liveGen r
  live.getD 0 + 4 * b2n live.isNone + 8 * b2n (protectedRecord r)
    + 16 * (if raw then 0 else [0, 1, 2, 3].foldl (fun a g => a + b2n (s.siloGen r g).void * 2 ^ g) 0) + 256 * b2n (s.siloFull r)

/-- VPP reads between 6.8 and 7.2 V (R625). -/
def State.vppOk (s : State) : Bool := decide (6800 ≤ s.pin .vpp) && decide (s.pin .vpp ≤ 7200)

/-- VBAT_C lies in its range (R421, R625). -/
def State.vbatcOk (s : State) : Bool := decide (6000 ≤ s.pin (.vbat 2)) && decide (s.pin (.vbat 2) ≤ 58000)

end Sys2Proof.Machine
end

