-- ==== Sys2Proof/Machine/SlhDsa.lean ====
section
/-!
DEFINITION. SLH-DSA of FIPS 205 with the SHA-2 functions of security category 1, in its pure form with an empty context string, which the
spec names (R589, R592, R593, R600). Every string is a list of bytes; `n` of the standard is 16 and `w` is 16.
-/

namespace Sys2Proof.Machine

/-- A parameter set (FIPS 205, table 2): height of a tree, layers, FORS trees and their height. -/
structure SlhSet where
  hp : Nat
  d : Nat
  k : Nat
  a : Nat
deriving DecidableEq, Repr

/-- SLH-DSA-SHA2-128s and SLH-DSA-SHA2-128f. -/
def slh128s : SlhSet := { hp := 9, d := 7, k := 14, a := 12 }
def slh128f : SlhSet := { hp := 3, d := 22, k := 33, a := 6 }

/-- An address (FIPS 205, 4.2): layer, tree, type, and the three words that the type names. -/
structure SlhAdrs where
  layer : Nat
  tree : Nat
  type : Nat
  w1 : Nat
  w2 : Nat := 0
  w3 : Nat := 0
deriving DecidableEq, Repr

/-- An address compressed to 22 bytes (11.2). -/
def SlhAdrs.bytes (x : SlhAdrs) : Bytes := x.layer % 256 :: beOf 8 x.tree ++ [x.type] ++ beOf 4 x.w1 ++ beOf 4 x.w2 ++ beOf 4 x.w3

/-! ### Hash functions (11.2.1) -/

/-- F, H, T and PRF: the first 16 bytes of a digest under PK.seed and an address. -/
def slhHash (pk : Bytes) (x : SlhAdrs) (m : Bytes) : Bytes := (sha256 (pk ++ List.replicate 48 0 ++ x.bytes ++ m)).take 16

/-- `n` bytes of the mask generation function of a seed. -/
def mgf1 (seed : Bytes) (n : Nat) : Bytes := ((upto ((n + 31) / 32)).flatMap (fun i => sha256 (seed ++ beOf 4 i))).take n

/-- The digest of a message: H_msg. -/
def slhDigest (r pk root m : Bytes) (n : Nat) : Bytes := mgf1 (r ++ pk ++ sha256 (r ++ pk ++ root ++ m)) n

/-- HMAC with SHA-256 under a key of at most 64 bytes. -/
def hmacSha256 (key m : Bytes) : Bytes :=
  let k := sub key 0 64
  sha256 (k.map (· ^^^ 0x5C) ++ sha256 (k.map (· ^^^ 0x36) ++ m))

/-- Digits of `b` bits of a string, most significant first (algorithm 4). -/
def slhDigits (x : Bytes) (b n : Nat) : List Nat := (upto n).map (fun i => beNat x / 2 ^ (8 * x.length - b * (i + 1)) % 2 ^ b)

/-! ### WOTS+ (5) -/

/-- A chain from step `i` on, by `n` steps (algorithm 5). -/
def wotsChain (pk : Bytes) (x : SlhAdrs) : Nat → Nat → Bytes → Bytes
  | 0, _, v => v
  | n + 1, i, v => wotsChain pk x n (i + 1) (slhHash pk { x with w3 := i } v)

/-- The 35 digits that a string of 16 bytes is signed by, its checksum last. -/
def wotsDigits (m : Bytes) : List Nat :=
  let l := slhDigits m 4 32
  l ++ slhDigits (beOf 2 (16 * l.foldl (fun c v => c + (15 - v)) 0)) 4 3

/-- The secret value of chain `i` of a key pair. -/
def wotsSecret (sk pk : Bytes) (x : SlhAdrs) (i : Nat) : Bytes := slhHash pk { x with type := 5, w2 := i, w3 := 0 } sk

/-- The public key that the ends of 35 chains give. -/
def wotsCompress (pk : Bytes) (x : SlhAdrs) (ends : List Bytes) : Bytes := slhHash pk { x with type := 1, w2 := 0, w3 := 0 } ends.flatten

/-- The public key of a key pair (algorithm 6). -/
def wotsPublic (sk pk : Bytes) (x : SlhAdrs) : Bytes :=
  wotsCompress pk x ((upto 35).map (fun i => wotsChain pk { x with w2 := i } 15 0 (wotsSecret sk pk x i)))

/-- A signature (algorithm 7). -/
def wotsSign (sk pk : Bytes) (x : SlhAdrs) (m : Bytes) : Bytes :=
  (wotsDigits m).zipIdx.flatMap (fun v => wotsChain pk { x with w2 := v.2 } v.1 0 (wotsSecret sk pk x v.2))

/-- The public key that a signature gives (algorithm 8). -/
def wotsFromSig (pk : Bytes) (x : SlhAdrs) (sig m : Bytes) : Bytes :=
  wotsCompress pk x ((wotsDigits m).zipIdx.map (fun v => wotsChain pk { x with w2 := v.2 } (15 - v.1) v.1 (sub sig (16 * v.2) 16)))

/-! ### Trees (6, 8) -/

/-- A node of a tree whose leaves `leaf` gives, at height `z`; `x` is the address of its nodes (algorithms 9 and 15). -/
def treeNode (pk : Bytes) (x : SlhAdrs) (leaf : Nat → Bytes) : Nat → Nat → Bytes
  | 0, i => leaf i
  | z + 1, i => slhHash pk { x with w2 := z + 1, w3 := i } (treeNode pk x leaf z (2 * i) ++ treeNode pk x leaf z (2 * i + 1))

/-- The authentication path of a leaf in a tree of height `h`. -/
def treePath (pk : Bytes) (x : SlhAdrs) (leaf : Nat → Bytes) (h i : Nat) : Bytes :=
  (upto h).flatMap (fun j => treeNode pk x leaf j (i / 2 ^ j ^^^ 1))

/-- The root that a leaf and its authentication path give. -/
def treeRoot (pk : Bytes) (x : SlhAdrs) (h i : Nat) (v path : Bytes) : Bytes :=
  (upto h).foldl (fun u j =>
    let p := sub path (16 * j) 16
    slhHash pk { x with w2 := j + 1, w3 := i / 2 ^ (j + 1) } (if i / 2 ^ j % 2 = 0 then u ++ p else p ++ u)) v

/-- The addresses of the key pairs and of the nodes of a tree of the hypertree. -/
def pairAdrs (layer tree i : Nat) : SlhAdrs := { layer := layer, tree := tree, type := 0, w1 := i }
def nodeAdrs (layer tree : Nat) : SlhAdrs := { layer := layer, tree := tree, type := 2, w1 := 0 }

/-- A leaf of a tree of the hypertree. -/
def pairLeaf (sk pk : Bytes) (layer tree i : Nat) : Bytes := wotsPublic sk pk (pairAdrs layer tree i)

/-- A signature by a leaf of a tree, with its path (algorithm 10). -/
def xmssSign (p : SlhSet) (sk pk m : Bytes) (layer tree i : Nat) : Bytes :=
  wotsSign sk pk (pairAdrs layer tree i) m ++ treePath pk (nodeAdrs layer tree) (pairLeaf sk pk layer tree) p.hp i

/-- The root that such a signature gives (algorithm 11). -/
def xmssRoot (p : SlhSet) (pk sig m : Bytes) (layer tree i : Nat) : Bytes :=
  treeRoot pk (nodeAdrs layer tree) p.hp i (wotsFromSig pk (pairAdrs layer tree i) sig m) (sig.drop 560)

/-- The bytes of one layer's signature. -/
def SlhSet.layerLen (p : SlhSet) : Nat := 16 * (35 + p.hp)

/-- The root of the hypertree that a signature of a string gives, from layer `j` up, `n` layers (algorithm 13). -/
def hyperRoot (p : SlhSet) (pk sig : Bytes) : Nat → Nat → Nat → Nat → Bytes → Bytes
  | 0, _, _, _, m => m
  | n + 1, j, tree, i, m =>
    hyperRoot p pk sig n (j + 1) (tree / 2 ^ p.hp) (tree % 2 ^ p.hp) (xmssRoot p pk (sig.drop (p.layerLen * j)) m j tree i)

/-- A signature of a string by the hypertree, from layer `j` up, `n` layers (algorithm 12). -/
def hyperSign (p : SlhSet) (sk pk : Bytes) : Nat → Nat → Nat → Nat → Bytes → Bytes
  | 0, _, _, _, _ => []
  | n + 1, j, tree, i, m =>
    let sig := xmssSign p sk pk m j tree i
    sig ++ hyperSign p sk pk n (j + 1) (tree / 2 ^ p.hp) (tree % 2 ^ p.hp) (xmssRoot p pk sig m j tree i)

/-! ### FORS (8) -/

/-- The address of the FORS trees of a key pair. -/
def forsAdrs (tree i : Nat) : SlhAdrs := { layer := 0, tree := tree, type := 3, w1 := i }

/-- A secret value, and its leaf. -/
def forsSecret (sk pk : Bytes) (x : SlhAdrs) (i : Nat) : Bytes := slhHash pk { x with type := 6, w3 := i } sk
def forsLeaf (pk : Bytes) (x : SlhAdrs) (i : Nat) (v : Bytes) : Bytes := slhHash pk { x with w3 := i } v

/-- A signature (algorithm 16): in each tree the secret value that the digest names, and its path. -/
def forsSign (p : SlhSet) (sk pk : Bytes) (x : SlhAdrs) (md : Bytes) : Bytes :=
  (slhDigits md p.a p.k).zipIdx.flatMap (fun v =>
    let base := v.2 * 2 ^ p.a
    forsSecret sk pk x (base + v.1) ++ (upto p.a).flatMap (fun j =>
      treeNode pk x (fun i => forsLeaf pk x i (forsSecret sk pk x i)) j (base / 2 ^ j + (v.1 / 2 ^ j ^^^ 1))))

/-- The public key that a signature gives (algorithm 17). -/
def forsRoot (p : SlhSet) (pk : Bytes) (x : SlhAdrs) (sig md : Bytes) : Bytes :=
  slhHash pk { x with type := 4, w2 := 0, w3 := 0 } ((slhDigits md p.a p.k).zipIdx.flatMap (fun v =>
    let o := 16 * (1 + p.a) * v.2
    let i := v.2 * 2 ^ p.a + v.1
    treeRoot pk x p.a i (forsLeaf pk x i (sub sig o 16)) (sub sig (o + 16) (16 * p.a))))

/-! ### The signature scheme (9, 10.2) -/

/-- A message as the pure form with an empty context string signs it. -/
def slhPure (m : Bytes) : Bytes := 0 :: 0 :: m

/-- The bytes of a FORS signature, and of a digest's parts: for FORS, for the tree, for the leaf. -/
def SlhSet.forsLen (p : SlhSet) : Nat := 16 * p.k * (1 + p.a)
def SlhSet.mdLen (p : SlhSet) : Nat := (p.k * p.a + 7) / 8
def SlhSet.treeLen (p : SlhSet) : Nat := (p.hp * (p.d - 1) + 7) / 8
def SlhSet.leafLen (p : SlhSet) : Nat := (p.hp + 7) / 8
def SlhSet.digestLen (p : SlhSet) : Nat := p.mdLen + p.treeLen + p.leafLen

/-- The tree and the leaf that a digest names. -/
def SlhSet.tree (p : SlhSet) (digest : Bytes) : Nat := beAt digest p.mdLen p.treeLen % 2 ^ (p.hp * (p.d - 1))
def SlhSet.leaf (p : SlhSet) (digest : Bytes) : Nat := beAt digest (p.mdLen + p.treeLen) p.leafLen % 2 ^ p.hp

/-- The bytes of a signature. -/
def SlhSet.sigLen (p : SlhSet) : Nat := 16 + p.forsLen + p.layerLen * p.d

/-- PK.root of a key pair (algorithm 18). -/
def slhRoot (p : SlhSet) (sk pk : Bytes) : Bytes :=
  treeNode pk (nodeAdrs (p.d - 1) 0) (pairLeaf sk pk (p.d - 1) 0) p.hp 0

/-- The signature of a message under SK.seed, SK.prf, PK.seed and PK.root, with the string `rand` for opt_rand (algorithm 19). -/
def slhSign (p : SlhSet) (sk prf pk root m rand : Bytes) : Bytes :=
  let msg := slhPure m
  let r := (hmacSha256 prf (rand ++ msg)).take 16
  let dg := slhDigest r pk root msg p.digestLen
  let x := forsAdrs (p.tree dg) (p.leaf dg)
  let fors := forsSign p sk pk x (dg.take p.mdLen)
  r ++ fors ++ hyperSign p sk pk p.d 0 (p.tree dg) (p.leaf dg) (forsRoot p pk x fors (dg.take p.mdLen))

/-- A signature verifies under PK.seed and PK.root (algorithm 20). -/
def slhVerify (p : SlhSet) (pk root m sig : Bytes) : Bool :=
  let r := sub sig 0 16
  let dg := slhDigest r pk root (slhPure m) p.digestLen
  let x := forsAdrs (p.tree dg) (p.leaf dg)
  let fors := forsRoot p pk x (sub sig 16 p.forsLen) (dg.take p.mdLen)
  sig.length == p.sigLen && hyperRoot p pk (sig.drop (16 + p.forsLen)) p.d 0 (p.tree dg) (p.leaf dg) fors == root

/-- The public key of a key pair: PK.seed and PK.root (algorithm 18). -/
def slhPublic (p : SlhSet) (sk pk : Bytes) : Bytes := pk ++ slhRoot p sk pk

end Sys2Proof.Machine
end

