-- ==== Sys2Proof/Machine/SecOps.lean ====
section
/-!
DEFINITION. Shared operations of security: key slots, the job queue, the flash, images and their checks, loading and hand-off
(18_security_update.md).
-/

namespace Sys2Proof.Machine

/-- The domains SEC and XSPI (R433). -/
def domSec : Nat := 14
def domXspi : Nat := 15

/-- The block changed. -/
def State.setSec (s : State) (f : Sec → Sec) : State := { s with sec := f s.sec }

/-! ### Key slots -/

/-- The key of a slot. -/
def State.slotKey (s : State) (k : Nat) : Bytes := nth s.sec.keys k []

/-- The generation of a slot goes up (R585). -/
def State.nextGen (s : State) (k : Nat) : State := s.setFld (F.secKattrGen k) (s.fld (F.secKattrGen k) + 1)

/-- A slot is emptied (R584, R585). -/
def State.eraseKey (s : State) (k : Nat) : State :=
  ((((s.nextGen k).setFld (F.secKattrLoaded k) 0).setFld (F.secKattrType k) 0).setFld (F.secKattrUse k) 0).setSec
    (fun x => { x with keys := updN x.keys k (fun _ => []) })

/-- A key is loaded: type 1 AES-128, 2 AES-256, with its use mask (R584, R585). -/
def State.loadKey (s : State) (k type use : Nat) (key : Bytes) : State :=
  ((((s.nextGen k).setFld (F.secKattrLoaded k) 1).setFld (F.secKattrType k) type).setFld (F.secKattrUse k) use).setSec
    (fun x => { x with keys := updN x.keys k (fun _ => key) })

/-- The device loads its own slots from the Silo (R584, R585). -/
def State.loadDeviceKeys (s : State) : State :=
  let put := fun (t : State) (k r n type use : Nat) (key : Bytes) => if s.siloProgrammed r n then t.loadKey k type use key else t
  let s1 := put s 28 46 2 1 7 (s.siloBytes 46 2)
  let s2 := put s1 29 48 2 1 7 (s.siloBytes 48 2)
  let s3 := put s2 30 50 2 1 4 (s.siloBytes 50 2)
  put s3 31 0 4 2 8 (Config.storageKey (s.siloBytes 0 4))

/-- Every slot is emptied and the device slots are loaded again: SEC returns from OFF (R585). -/
def State.secLost (s : State) : State :=
  (forEach 32 State.eraseKey s).loadDeviceKeys.setSec (fun x => { x with job := Vector.replicate 16 none })

/-- A use bit of a slot: 0 ENC, 1 DEC, 2 MAC, 3 WRAP. -/
def State.keyUse (s : State) (k u : Nat) : Bool := (s.fld (F.secKattrUse k)).testBit u

/-- The status of a use of a key by a job (R589): 2 for an empty slot, 3 for a use that its mask does not allow. -/
def State.keyStatus (s : State) (k u : Nat) : Nat :=
  if !s.bit (F.secKattrLoaded k) then 2 else if !s.keyUse k u then 3 else 0

/-! ### Accesses to the Granary as SEC (R588) -/

/-- SEC owns the bank of a word (R588). -/
def State.secOwns (s : State) (w : Nat) : Bool := inGranary w && s.mayUse 4 (bankOf w)

/-- The words of a range of `n` bytes. -/
def secWords (a n : Nat) : List Nat := (upto ((n + 3) / 4)).map (fun j => a + 4 * j)

/-- A word that SEC does not own is met: a non-owner access, where it lies in the Granary (R404, R588). -/
def State.secStray (s : State) (w : Nat) (write : Bool) : State := if inGranary w then s.strayAccess w 4 write false else s

/-- Words read one after the other, each judged as its access is granted (R588): their bytes, or none from the first on that SEC does not
own. `e` is what the check of the first word says. -/
def State.secReadWords (s : State) (e : Ecc) : List Nat → Option Bytes × State
  | [] => (some [], s)
  | w :: l =>
    if s.secOwns w then
      let q := s.grnRead 4 w e
      let r := q.2.secReadWords .clean l
      (r.1.map (leOf 4 q.1.val.toNat ++ ·), r.2)
    else (none, s.secStray w false)

/-- Bytes read; none where SEC does not own a word. -/
def State.secRead (s : State) (a n : Nat) (e : Ecc) : Option Bytes × State :=
  let r := s.secReadWords e (secWords a n)
  (r.1.map (List.take n), r.2)

/-- Words written one after the other, each judged as its access is granted (R588), up to the first that SEC does not own; whether all
are. -/
def State.secWriteWords (s : State) : List (Nat × Word) → Bool × State
  | [] => (true, s)
  | p :: l => if s.secOwns p.1 then (s.grnWrite 4 p.1 ⟨Tag.raw, p.2⟩).secWriteWords l else (false, s.secStray p.1 true)

/-- Bytes written as RAW words, whole words alone (R400, R588); whether SEC owns every one. The bytes of a last word that lie past the
string are a free value: the spec does not state them. -/
def State.secWrite (s : State) (a : Nat) (b : Bytes) : Bool × State :=
  let pad := leOf 4 (Config.freeWord s.free).toNat
  let t : State := { s with free := s.free + 1 }
  t.secWriteWords ((secWords a b.length).zipIdx.map (fun (p : Nat × Nat) =>
    let own := (b.drop (4 * p.2)).take 4
    (p.1, (BitVec.ofNat 32 (leNat (own ++ pad.drop own.length)) : Word))))

/-! ### The flash -/

/-- A byte of the flash. -/
def State.flashByte (s : State) (o : Nat) : Nat := AMap.get (fun _ => 0xFF) s.sec.flash o
/-- Bytes of the flash. -/
def State.flashBytes (s : State) (o n : Nat) : Bytes := (upto n).map (fun i => s.flashByte (o + i))
/-- Bytes programmed: a bit goes from 1 to 0 and not back. -/
def State.flashProgram (s : State) (o : Nat) (b : Bytes) : State :=
  s.setSec (fun x => { x with
    flash := b.zipIdx.foldl (fun m p => AMap.put (fun _ => 0xFF) m (o + p.2) (AMap.get (fun _ => 0xFF) m (o + p.2) &&& p.1 % 256)) x.flash })

/-- One 64 KiB sector erased, counted for its slot (R594 to R596). -/
def State.flashErase (s : State) (o : Nat) : State :=
  let lo := o / 65536 * 65536
  let s1 := s.setSec (fun x => { x with flash := x.flash.filter (fun p => decide (p.1 < lo) || decide (lo + 65536 ≤ p.1)) })
  if lo < 0x2000000 then s1.satInc (F.secXercCount (lo / 0x1000000)) else s1

/-- The first byte of a slot (R596), and its status word (R603). -/
def slotBase (i : Nat) : Nat := 0x1000000 * i
def State.slotStatus (s : State) (i : Nat) : Nat := leNat (s.flashBytes (slotBase i + 0xFF0000) 4)

/-! ### Images -/

/-- A segment of an image (R598). -/
structure Segment where
  src : Nat
  dst : Nat
  len : Nat
  kind : Nat
deriving DecidableEq, Repr

/-- The used segments of a header. -/
def segments (h : Bytes) : List Segment :=
  ((upto 8).map (fun i =>
    let o := 0x60 + 16 * i
    ⟨leAt h o 4, leAt h (o + 4) 4, leAt h (o + 8) 4, leAt h (o + 12) 4⟩)).filter (fun g => g.len ≠ 0)

/-- Bytes of the payload for a word of a kind (R598). -/
def kindBytes (k : Nat) : Nat := if k = 1 ∨ k = 3 ∨ k = 4 then 5 else 4

/-- The region of the address map that a kind loads (R305, R598), first and last byte + 1. -/
def kindRegion (k : Nat) : Option (Nat × Nat) :=
  match k with
  | 0 => some (nearI 0, nearI 0 + 0x10000)
  | 1 => some (nearD 0, nearD 0 + 0x10000)
  | 2 => some (nearI 1, nearI 1 + 0x10000)
  | 3 => some (nearD 1, nearD 1 + 0x10000)
  | 4 => some (0x10000000, 0x10400000)
  | 5 => some (0x50000000, 0x50003000)
  | 6 => some (0x50100000, 0x50102000)
  | _ => none

/-- A segment keeps R598 by itself, within a payload. -/
def Segment.ok (g : Segment) (payload : Nat) : Bool :=
  match kindRegion g.kind with
  | some (lo, hi) =>
    g.len % kindBytes g.kind == 0 && decide (g.src + g.len ≤ payload) && g.dst % 4 == 0 && decide (lo ≤ g.dst)
      && decide (g.dst + g.len / kindBytes g.kind * 4 ≤ hi)
  | none => false

/-- Segments in ascending order without overlap. -/
def segmentsRise : List Segment → Bool
  | a :: b :: r => decide (a.src + a.len ≤ b.src) && segmentsRise (b :: r)
  | _ => true

/-- Header fields (R597). -/
def imgLen (h : Bytes) : Nat := leAt h 0x0C 4
def imgSeq (h : Bytes) : Nat := leAt h 0x14 4
def imgVersion (h : Bytes) : Nat := leAt h 0x10 4
def imgArb (h : Bytes) : Nat := h.getD 0x0B 0
def imgKeysel (h : Bytes) : Nat := h.getD 0x0A 0
def imgHitless (h : Bytes) : Bool := (h.getD 0x08 0).testBit 0
def imgEntry (h : Bytes) (c : Nat) : Nat := leAt h (0xE0 + 4 * c) 4

/-- The header of the image in a slot. -/
def State.slotHeader (s : State) (i : Nat) : Bytes := s.flashBytes (slotBase i) 256

/-- The header check of R599 in job status codes: 0, 9 where the anti-rollback count refuses it, 7 otherwise. -/
def State.headerCheck (s : State) (h : Bytes) : Nat :=
  let z := fun (o n : Nat) => (sub h o n).all (· == 0)
  let k := imgKeysel h
  let segs := segments h
  if leAt h 0 4 ≠ 0xB0A71640 ∨ leAt h 4 2 ≠ 1 ∨ leAt h 6 2 ≠ 0x9640 ∨ leAt h 0xFC 4 ≠ crc32 (h.take 0xFC) then 7
  else if z 0x1A 6 = false ∨ z 0x40 32 = false ∨ z 0xE8 20 = false ∨ 1 < leAt h 8 2 then 7
  else if 1 < k ∨ s.siloProgrammed (38 + 4 * k) 4 = false ∨ s.revoked k = true then 7
  else if imgArb h < s.fld F.secArbCount then 9
  else if 0xFEE050 < imgLen h ∨ segmentsRise segs = false ∨ segs.any (fun g => !g.ok (imgLen h)) = true then 7
  else if s.cdLock = true ∧ segs.any (fun g => g.kind == 6) = true then 7
  else 0

/-- The signature of a slot's image verifies (R600). -/
def State.signatureOk (s : State) (i : Nat) : Bool :=
  let h := s.slotHeader i
  let key := s.siloBytes (38 + 4 * imgKeysel h) 4
  slhVerify slh128s (key.take 16) (key.drop 16) (h.take 0xFC) (s.flashBytes (slotBase i + 0x100 + imgLen h) 7856)

/-- The payload of a slot's image, and whether its digest is that of the header (R601). -/
def State.payload (s : State) (i : Nat) : Bytes := s.flashBytes (slotBase i + 0x100) (imgLen (s.slotHeader i))
def State.digestOk (s : State) (i : Nat) : Bool := sha256 (s.payload i) == sub (s.slotHeader i) 0x20 32

/-- A refused image: source 169 (R601). -/
def State.imageRefused (s : State) (status : Nat) : Nat × State := (status, if status = 0 then s else s.raiseSource 169)

/-- Header and signature of a slot checked (R599, R600). -/
def State.imageCheck (s : State) (i : Nat) : Nat :=
  let c := s.headerCheck (s.slotHeader i)
  if c ≠ 0 then c else if s.signatureOk i then 0 else 6

/-- The words of a segment: destination and word. -/
def Segment.words (g : Segment) (payload : Bytes) : List (Nat × TWord) :=
  let n := kindBytes g.kind
  (upto (g.len / n)).map (fun j =>
    let o := g.src + n * j
    let v := leAt payload o 4
    (g.dst + 4 * j,
      if n = 5 then ⟨BitVec.ofNat 4 (payload.getD (o + 4) 0), BitVec.ofNat 32 v⟩
      else if g.kind = 5 then (if v % 2 ^ 24 = 0 then TWord.nil0 else TWord.nat (v % 2 ^ 24))
      else if g.kind = 6 then (if v = 0 then TWord.nil0 else TWord.nat v)
      else ⟨Tag.raw, BitVec.ofNat 32 v⟩))

/-- The domain that holds the words of a kind of segment; none for the Granary and the custom decode region (R433, R598). -/
def kindDomain (k : Nat) : Option Nat := if k < 2 then some 1 else if k < 4 then some 2 else if k = 5 then some 6 else none

/-- The domains that the words of segments lie in. -/
def segDomains (segs : List Segment) : List Nat := segs.filterMap (fun g => kindDomain g.kind)

/-- A word of a segment written whole, with new check bits (R400); one into a domain that is locked off is dropped (R437). -/
def State.loadSegWord (s : State) (kind a : Nat) (w : TWord) : State :=
  match kindDomain kind with
  | some d => if s.domLocked d then s.lockAccess else (s.heal a).mwrite a w
  | none => (s.heal a).mwrite a w

/-- Segments written to their destinations; with a wrong digest every word of them is NIL 0 in the end (R601). -/
def State.loadSegments (s : State) (segs : List Segment) (payload : Bytes) (good : Bool) : State :=
  segs.foldl (fun t g => (g.words payload).foldl (fun u p => u.loadSegWord g.kind p.1 (if good then p.2 else TWord.nil0)) t) s

/-! ### Starting cores -/

/-- The start-up test of a core's comparator lanes (R381): a lane that fails sets source 4. -/
def State.laneTest (s : State) (c : Nat) : State :=
  if (upto 5).any (fun l => s.pin (.lane c l) != 0) then s.raiseSource 4 else s

/-- The start-up test after a power-on reset, which rebuilds the lane map (R382, R639): a sound spare stands for the first lane that
fails; the others that fail are left uncompared. -/
def State.laneRebuild (s : State) (c : Fin 2) : State :=
  let spFail := s.pin (.lane c 4) != 0
  let bad := (upto 4).filter (fun l => s.pin (.lane c l) != 0)
  (s.setCore c (fun k => { k with ech := { k.ech with
    spFail := spFail
    spFor := if spFail then none else bad.head?
    dead := if spFail then bad else bad.drop 1 } })).laneTest c

/-- A core as it starts (R270): at an address in SUP mode, or with no task. What R270 does not name is kept. -/
def State.startCore (s : State) (c : Fin 2) (entry : Option Nat) : State :=
  s.setCore c (fun k => { k with
    w := Vector.replicate 32 TWord.nil0, ew := Vector.replicate 32 (echoBits TWord.nil0), flg := 0, cnt := 0, stack := []
    pc := BitVec.ofNat 32 (entry.getD 0), task := 255, prio := 0, job := false, busy := entry.isSome, started := true
    stall := none, stampDue := true, halt := { f := k.halt.f }
    ech := { k.ech with miss := false } })

/-- The entry of a core in an image: C1 starts with no task where ENTRY1 is 0 (R597, R606). -/
def coreEntry (h : Bytes) (c : Nat) : Option Nat := if c = 1 ∧ imgEntry h 1 = 0 then none else some (imgEntry h c)

/-- What a core's domain has lost in OFF returns to its reset value (R433), and its comparator lanes are tested (R381). -/
def State.coreLost (s : State) (c : Fin 2) : State :=
  (((s.mclear (nearI c) (nearI c + 0x10000)).mclear (nearD c) (nearD c + 0x10000)).setCore c (fun k => { k with
    w := Vector.replicate 32 TWord.nil0, ew := Vector.replicate 32 (echoBits TWord.nil0), flg := 0, cnt := 0, dirty := [] })).laneTest c

/-- A domain is ON at once. -/
def State.bringOn (s : State) (d : Nat) : State := (s.setDom d (fun x => { x with st := .on, waking := false })).setFld (F.pwrDctlReq d) 0

/-- A domain that the ROM uses is ON at once; what it lost in OFF returns to its reset value, and a core's comparator lanes are tested
(R381, R433). -/
def State.romWakes (s : State) (d : Nat) : State :=
  let off := decide ((nth s.pwr.dom d {}).st = .off)
  let s1 := s.bringOn d
  if off = false then (if d = 6 then s1.loaderStore else s1)
  else if d = 1 then s1.coreLost 0
  else if d = 2 then s1.coreLost 1
  else if d = 6 then ((s1.prsLost).mclear (ucodeBase 0) (ucodeBase 6)).loaderStore
  else if d = domSec then s1.secLost
  else s1

/-- The domains of the segments of a boot that are not ON wake, and the load waits for them (R163, R436); one that is locked off does
not. -/
def State.wakeSegments (s : State) (segs : List Segment) : State :=
  (segDomains segs).foldl (fun t d => if t.domOn d || t.domLocked d then t else t.romWakes d) s

/-- A valid settings copy (R607): SETVER and SEQ. -/
def State.settingsCopy (s : State) (i : Nat) : Option (Nat × Nat) :=
  let o := 0x2000000 + 0x10000 * i
  let h := s.flashBytes o 16
  let len := leAt h 8 4
  if leAt h 0 2 = 0x5E77 ∧ len ≤ 65520 ∧ leAt h 12 4 = crc32 (h.take 12 ++ s.flashBytes (o + 16) len) then
    some (leAt h 2 2, leAt h 4 4)
  else none

/-- SETINFO of the copy that the ROM picks: the higher SEQ, copy 0 on a tie; with no valid copy it names none (R606, R607). -/
def State.pickSettings (s : State) : State :=
  let put := fun (i v : Nat) => ((s.setFld F.secSetinfoValid 1).setFld F.secSetinfoCopy i).setFld F.secSetinfoSetver v
  match s.settingsCopy 0, s.settingsCopy 1 with
  | some a, some b => if a.2 < b.2 then put 1 b.1 else put 0 a.1
  | some a, none => put 0 a.1
  | none, some b => put 1 b.1
  | none, none => s.setReg F.secSetinfoValid.addr (Regs.reset F.secSetinfoValid.addr)

/-- The registers that name the running image (R606, R609). -/
def State.runningImage (s : State) (i : Nat) (h : Bytes) : State :=
  (((s.setFld F.secBootSlot i).setFld F.secImgverVersion (imgVersion h)).setFld F.secArbImgarb (imgArb h)).setSec
    (fun x => { x with header := h.take 0xFC })

/-- Hand-off of a loaded slot (R606): both cores start, and no hold of an HLOAD is left. -/
def State.handOff (s : State) (i : Nat) : State :=
  let h := s.slotHeader i
  let first := (s.slotStatus i).testBit 8
  let s1 := (s.setReg 0x50100100 (s.reg 0x50100100 ||| 1)).runningImage i h
  let s2 := (s1.putBit F.secBootFirst first).pickSettings
  ((s2.startCore 1 (coreEntry h 1)).startCore 0 (coreEntry h 0)).setSec (fun x => { x with
    rom := false, rcvr := false, verified := none, hold := Vector.replicate 2 none })

/-- The jobs that a core runs or has preempted. -/
def Core.jobs (k : Core) : List Nat :=
  (if k.busy && k.job then [k.task] else []) ++ (k.stack.filter (·.job)).map (·.task)

/-- The runs of a core's jobs are over. -/
def State.endJobs (s : State) (c : Fin 2) : State := (s.cr c).jobs.foldl (fun t j => t.setJob j .idle) s

/-- A core stops for recovery (R611): the runs of its jobs are over, its locks are abandoned, the stores that it has retired still drain
(R298). C0 goes on in the recovery ROM, at address 0 in the state of R270; C1 is idle. -/
def State.stopForRecovery (s : State) (c : Fin 2) : State :=
  (((s.endJobs c).abandonAll c).startCore c (if c = 0 then some 0 else none)).setCore c (fun k => { k with started := c == 0 })

/-- Recovery is entered (R611, R612): C0 runs the recovery ROM, C1 is idle, every output takes its safe-image entry. -/
def State.enterRecovery (s : State) (atBoot : Bool) : State :=
  let s1 := (s.stopForRecovery 0).stopForRecovery 1
  let s2 := s1.driveSafe.setSec (fun x => { x with rcvr := true, rom := false, buf := [], verified := none })
  if atBoot then s2.setBit F.secBootRcvrboot else s2

end Sys2Proof.Machine
end

