-- ==== Sys2Proof/Machine/CoreCtl.lean ====
section
/-!
DEFINITION. Restarts and debug halts of a core, and the reset of the Aedus link (R380, R387, R392, R394).
-/

namespace Sys2Proof.Machine

/-- A restart of a core (R380): it starts in SUP mode at ECH.RSTPC in the state of R270. Its object locks are abandoned, the runs of
its jobs are over, its buffered stores of retired instructions still drain, and a requested debug halt
holds. -/
def State.coreRestart (s : State) (c : Fin 2) : State :=
  let s2 := ((s.endJobs c).abandonAll c).startCore c (some (s.fld (F.echRstpcPc c)))
  if s.bit (F.dbgCtlHalt c) then s2.debugHalt c 0 0 else s2

/-- A write of ECH.CRST (R380): each bit restarts its core from echo halt, written by the other core in SUP mode. -/
def State.crstWrite (s : State) (m : Master) (w : Word) : State :=
  (allFin 2).foldl (fun t (c : Fin 2) =>
    let other := match m with
      | .core k => k != c
      | _ => false
    if w.getLsbD c && other && (t.cr c).halt.echo then t.coreRestart c else t) s

/-- A write of DBG.CTL[c] through the link (R392, R394). Before the core resumes or steps, what RWR wrote is replayed into the echo
register file (R390). -/
def State.dbgCtl (s : State) (c : Fin 2) (w : Word) : State :=
  let h := (s.cr c).halt
  let s1 := s.putBit (F.dbgCtlBrkhalt c) (w.getLsbD 2)
  let s2 :=
    if w.getLsbD 0 then (if h.dbg then s1 else s1.debugHalt c 0 0)
    else
      let t := s1.putBit (F.dbgCtlHalt c) false
      if h.dbg then (t.echoSync c).setCore c (fun k => { k with halt := { k.halt with dbg := false, stepping := false } }) else t
  let s3 := if w.getLsbD 1 ∧ w.getLsbD 0 ∧ h.dbg then
      (s2.echoSync c).setCore c (fun k => { k with halt := { k.halt with stepping := true } }) else s2
  if w.getLsbD 3 ∧ (h.echo || h.trap) = true then s3.coreRestart c else s3

/-- The link may write: no class F halt, the debug lock open, no dip (R389, R425). -/
def State.linkWrites (s : State) : Bool := !s.win.fhalt && !s.bit F.dbgStatLocked && !s.inDip

/-- The word that leaves BRKHALT as it is and sets the given bits of DBG.CTL[c]. -/
def State.ctlBits (s : State) (c : Fin 2) (bits : Nat) : Word := BitVec.ofNat 32 (bits + 4 * s.fld (F.dbgCtlBrkhalt c))

/-- DEBUG_HALT: HALT written 1 (R392). -/
def execDebugHalt (c : Fin 2) (s : State) : Out := .next (if s.linkWrites then s.dbgCtl c (s.ctlBits c 1) else s)

/-- DEBUG_RESUME: HALT written 0 (R392). -/
def execDebugResume (c : Fin 2) (s : State) : Out := .next (if s.linkWrites then s.dbgCtl c (s.ctlBits c 0) else s)

/-- STEP: STEP written 1 on a core halted for debug: its next instruction retires and it halts again; on another core it does nothing
(R392). -/
def execStep (c : Fin 2) (s : State) : Out := .next (if s.linkWrites && (s.cr c).halt.dbg then s.dbgCtl c (s.ctlBits c 3) else s)

/-- RESTART: RESTART written 1; HALT keeps its value (R394). -/
def execRestart (c : Fin 2) (s : State) : Out :=
  .next (if s.linkWrites then s.dbgCtl c (s.ctlBits c (8 + s.fld (F.dbgCtlHalt c))) else s)

/-- LINK_RESET: DRSTn low for 1 µs or more resets the link to idle, and nothing else (R387). A transaction of the link is one command,
so that no state of the link lies between two commands. -/
def execLinkReset (s : State) : Out := .next s

end Sys2Proof.Machine
end

