-- ==== Sys2Proof/Machine/Gleaner.lean ====
section
/-!
DEFINITION. The Gleaner: reserve counts, wear of segments, lanes and regulator phases, comparator lane tests, clock checks, and
the GLN and ECH records (R381 to R385, R396, R413 to R415, R430 to R433, R630 to R640).
-/

namespace Sys2Proof.Machine

/-- The Gleaner changed. -/
def State.setGln (s : State) (f : Gln → Gln) : State := { s with gln := f s.gln }

/-- A kind of spare is judged for wear: bit 0 segments, 1 lanes, 2 phases (R642). -/
def State.glnEn (s : State) (k : Nat) : Bool := (s.fld F.glnCtlEn).testBit k

/-! ### Reserve counts (R630) -/

/-- A bank's spare lane is unused and sound. -/
def State.laneSpare (s : State) (b : Nat) : Bool := s.fld (F.grnLaneSpfor b) == 15 && !s.bit (F.grnLaneSpfail b)

/-- A core's comparator spare is unused and sound. -/
def State.echSpare (s : State) (c : Fin 2) : Bool := s.core[c].ech.spFor.isNone && !s.core[c].ech.spFail

/-- The spare phase is unused and sound. -/
def State.phaseSpare (s : State) : Bool := s.fld F.pwrRegSpfor == 7 && !s.bit F.pwrRegSpfail

/-- The reserve count of a kind by its code (R630). -/
def State.reserve (s : State) (kind : Nat) : Nat :=
  match kind with
  | 0 => ((upto 48).filter (fun c => (s.out c).seg.out.isNone)).length
  | 1 => ((upto 16).filter s.laneSpare).length
  | 2 => b2n (s.echSpare 0)
  | 3 => b2n (s.echSpare 1)
  | 4 => b2n s.phaseSpare
  | _ => s.siloReserve

/-- RES0 and RES1 as they read (R642). -/
def State.res0 (s : State) : Nat :=
  s.reserve 0 + 256 * s.reserve 1 + 65536 * (s.reserve 2 + 2 * s.reserve 3 + 4 * s.reserve 4)
def State.res1 (s : State) : Nat := s.siloReserve

/-- A spare has gone: source 178 when its kind's reserve count falls to 0 (R630). `before` is the count before. -/
def State.reserveFell (s : State) (kind before : Nat) : State :=
  if before ≠ 0 ∧ s.reserve kind = 0 then s.raiseSource 178 else s

/-- A substitution applied at the edge is reported (R54, R642). -/
def State.substituted (s : State) (kind inst elem : Nat) : State :=
  (((((s.setFld F.glnLastsubValid 1).setFld F.glnLastsubKind kind).setFld F.glnLastsubInst inst).setFld F.glnLastsubElem
    elem).setBit F.glnStatSub).setGln (fun g => { g with sub := true })

/-- An instance needs a spare that it no longer has (R630): WORN, and source 179 where its kind has no reserve left. -/
def State.needsSpare (s : State) (kind : Nat) : State :=
  let s1 := s.setBit F.glnStatWorn
  if s.reserve kind = 0 then s1.raiseSource 179 else s1

/-! ### Segments (R110, R111, R631) -/

/-- A segment of a channel is retired: the spare takes its place at the edge; with the spare in use it stays. -/
def State.retireSegment (s : State) (c k : Nat) : State :=
  let x := (s.out c).seg
  let n := s.reserve 0
  if x.out.isNone then
    let s1 := s.setOut c (fun y => { y with seg := { y.seg with out := some k, worn := updN y.seg.worn k (fun _ => 0) } })
    (s1.reserveFell 0 n).substituted 0 c k
  else if x.wornOut then s
  else (s.setOut c (fun y => { y with seg := { y.seg with wornOut := true } })).needsSpare 0

/-- The segments of a channel judged at an edge: those above SEGTH for SEGN measured frames, the one with the larger drift
first. -/
def State.judgeSegments (s : State) (c : Nat) : State :=
  let x := (s.out c).seg
  if x.drift = 0 then s
  else
    let act := (upto 5).filter (fun k => (x.active c).testBit k)
    let high := fun k => decide ((s.fld F.glnSegcfgSegth : Int) < s.pin (.segDrift c k))
    let s1 := act.foldl (fun t k => t.setOut c (fun y => { y with seg := { y.seg with
      worn := updN y.seg.worn k (fun n => if high k then n + 1 else 0) } })) s
    let due := act.filter (fun k => decide (s.fld F.glnSegcfgSegn ≤ nth (s1.out c).seg.worn k 0))
    match due with
    | [] => s1
    | k :: rest => s1.retireSegment c (rest.foldl (fun m j => if s.pin (.segDrift c m) < s.pin (.segDrift c j) then j else m) k)

/-! ### Granary lanes (R413 to R415, R632) -/

/-- A lane of a bank is retired: its copy into a sound, unused spare starts; else it stays in service, WORN (R413, R415). DESIGN CHOICE:
SPFAIL sets where the lane is the spare itself; the table says that the spare has failed, and no rule says when. -/
def State.retireLane (s : State) (b l : Nat) : State :=
  let s1 := s.setGbank b (fun x => { x with rate := updN x.rate l (fun _ => 0) })
  if s.laneSpare b ∧ (s.gbank b).copy.isNone ∧ l < 8 then
    (s1.setGbank b (fun x => { x with copy := some (l, false) })).setFld (F.grnLaneCopy b) 1
  else if (s.gbank b).copy = some (l, false) ∨ (s.gbank b).copy = some (l, true) then s1
  else
    let served := if l = 8 then s.fld (F.grnLaneSpfor b) else l
    let s2 := if l = 8 then s1.setFld (F.grnLaneSpfail b) 1 else s1
    (((s2.setFld (F.grnLaneWorn b) 1).setFld (F.grnLaneWlane b) served).raiseSource 20).needsSpare 1

/-- LANE_RETIRE: the corrected errors of a lane reach LTH within a window (R632). -/
def execLaneRetire (b : Fin 16) (l : Fin 9) (s : State) : Out :=
  .next (if s.glnEn 1 ∧ s.fld F.glnLanecfgLth ≤ nth (s.gbank b).rate l 0 then s.retireLane b l else s)

/-- The words of a lane of a bank whose check bits say something, with what they say. -/
def State.laneErrors (s : State) (b l : Nat) : List (Nat × Ecc) :=
  s.pins.filterMap (fun p => match p.1 with
    | .ecc a => if inGranary a && bankOf a == b && laneOf (wordOf a) == l && s.eccAt a != .clean then some (wordOf a, s.eccAt a) else none
    | _ => none)

/-- The spare's words after a copy: what the copy corrected is correct there, and no write-back of it is due; an uncorrectable word stands
as it stood (R413, R414). -/
def State.copiedWords (s : State) (b l : Nat) : State :=
  ((s.laneErrors b l).foldl (fun t p => if p.2 = .single then t.heal (grnAddr b p.1) else t) s).setGbank b (fun x => { x with
    fix := x.fix.filter (fun w => laneOf w ≠ l) })

/-- A completed copy takes its lane at the edge (R414). -/
def State.laneSwap (s : State) (b : Nat) : State :=
  match (s.gbank b).copy with
  | some (l, true) =>
    let n := s.reserve 1
    let s1 := ((s.copiedWords b l).setGbank b (fun x => { x with copy := none })).setFld (F.grnLaneSpfor b) l
    (((s1.setBit F.grnStatLsub).raiseSource 19).reserveFell 1 n).substituted 1 b l
  | _ => s

/-- The windows of the lane counts restart at FRAME multiples of 2^GWIN (R632). -/
def State.laneWindow (s : State) : State :=
  if s.frm.frame.toNat % 2 ^ (s.fld F.glnLanecfgGwin) = 0 then
    forEach 16 (fun t b => t.setGbank b (fun x => { x with rate := Vector.replicate 9 0 })) s
  else s

/-! ### Regulator phases (R430, R431, R633) -/

/-- A phase carries current. -/
def State.phaseOn (s : State) (p : Nat) : Bool := (s.fld F.pwrRegPhon).testBit p

/-- A phase is retired at an edge: the spare takes its place, or it is removed; source 29 (R430, R431, R633). -/
def State.retirePhase (s : State) (p : Nat) : State :=
  if !s.phaseOn p then s
  else
    let n := s.reserve 4
    let mask := s.fld F.pwrRegPhon
    let s1 := ((s.setBit F.pwrStatPhret).raiseSource 29)
    let clr := fun (t : State) (m : Nat) => { t.setFld F.pwrRegPhon m with pwr := { t.pwr with phaseBad := t.pwr.phaseBad ||| (1#5 <<< p), phaseOut := updN t.pwr.phaseOut p (fun _ => 0) } }
    if s.phaseSpare ∧ p < 4 then
      (((clr s1 (mask - 2 ^ p + 16)).setFld F.pwrRegSpfor p).reserveFell 4 n).substituted 4 0 p
    else if p = 4 then ((clr s1 (mask - 16)).setBit F.pwrRegSpfail).needsSpare 4
    else (clr s1 (mask - 2 ^ p)).needsSpare 4

/-- The phases judged at an edge: with 0.5 A or more on the rail, a share that is off an equal share by more than PHTH points for
PHN frames. -/
def State.judgePhases (s : State) : State :=
  let on := (upto 5).filter s.phaseOn
  let rail := on.foldl (fun a p => a + s.pin (.phase p)) 0
  if s.glnEn 2 = false ∨ rail < 500 then s
  else
    let n : Int := on.length
    let off := fun p => decide ((s.fld F.glnPhcfgPhth : Int) * rail * n < 100 * |s.pin (.phase p) * n - rail|)
    let s1 := on.foldl (fun t p => { t with pwr := { t.pwr with phaseOut := updN t.pwr.phaseOut p (fun k => if off p then k + 1 else 0) } }) s
    on.foldl (fun t p => if s.fld F.glnPhcfgPhn ≤ nth t.pwr.phaseOut p 0 then t.retirePhase p else t) s1

/-! ### Comparator lanes (R383 to R385) -/

/-- The comparator test of the frame that closes, and what a failed one does at the edge. `k` is FRAME of that frame. -/
def State.echTest (s : State) (c : Fin 2) (k : Nat) : State :=
  let x := s.core[c].ech
  let l := k % 5
  let kind := 2 + c.val
  let spare := s.echSpare c
  let skip := l == 4 || x.spFor == some l || x.dead.contains l
  let runs := s.domOn (1 + c) && (spare || (!skip && decide (64 ≤ s.pin (.laneIdle c))))
  let fails := runs && s.pin (.lane c l) != 0
  let put := fun (t : State) (f : EchoCore → EchoCore) => t.setCore c (fun y => { y with ech := f y.ech })
  let s1 := put s (fun y => { y with tlane := if runs then some l else none, tfail := fails })
  if !fails then s1
  else if spare && l != 4 then
    (((put s1 (fun y => { y with spFor := some l })).raiseSource 5).raiseSource 178).substituted kind 0 l
  else if spare then (put s1 (fun y => { y with spFail := true })).raiseSource 178
  else ((put s1 (fun y => { y with dead := y.dead ++ [l] })).raiseSource 6).needsSpare kind

/-! ### Clock and flash checks (R635) -/

/-- Every 1024 frames the crystal is compared with the RC: GLN.XRC and source 35; under LOCK source 36 by DEV. -/
def State.clockCheck (s : State) (dev : Int) : State :=
  let s1 := if s.frm.frame.toNat % 1024 = 0 then
      let x := s.pin .xrc
      let t := s.setFld F.glnXrcPpm (BitVec.ofInt 32 x).toNat
      if (s.fld F.glnXcfgXrth : Int) < |x| then t.raiseSource 35 else t
    else s
  if s.tim.st = 2 ∧ (s.fld F.glnXcfgXnth : Int) * 1000 < |dev| then s1.raiseSource 36 else s1

/-- GLN.STAT.FLASHW (R635). -/
def State.flashWear (s : State) : State :=
  forEach 2 (fun t i =>
    if t.fld F.glnFthErases ≤ (t.fld (F.secXercCount i) + t.fld (F.glnFbaseCount i)) / 256 then
      t.setFld F.glnStatFlashw (t.fld F.glnStatFlashw ||| 2 ^ i)
    else t) s

/-! ### Forced wear (R637) -/

/-- A write of GLN.FRC: the element is treated as worn at the next edge. -/
def State.frcWrite (s : State) (w : Word) (job : Bool) : State :=
  let kind := getBits w 0 4
  if job then s.setBit F.glnStatPrivrej
  else if kind = 0 ∨ kind = 1 ∨ kind = 4 then
    s.setGln (fun g => { g with forced := g.forced ++ [(kind, getBits w 4 8, getBits w 12 4)] })
  else s

/-- FRC (R637). -/
def execFrc (w : Word) (job : Bool) (s : State) : Out := .next (s.store (.frc w job) (·.frcWrite w job))

/-- An element treated as worn at the edge, where it exists and is in service. -/
def State.forceWear (s : State) (f : Nat × Nat × Nat) : State :=
  match f with
  | (0, c, k) => if c < 48 ∧ ((s.out c).seg.active c).testBit k then s.retireSegment c k else s
  | (1, b, l) => if b < 16 ∧ l < 8 then s.retireLane b l else s
  | (4, _, p) => if p < 5 then s.retirePhase p else s
  | _ => s

/-! ### The edge -/

/-- The Gleaner at an edge: completed copies, forced wear, segments, phases, comparator lanes, windows, clocks, flash (R636). `k` is
FRAME of the frame that closes, `dev` DEV of R536 in ppb. -/
def State.glnEdge (s : State) (k : Nat) (dev : Int) : State :=
  let s0 := s.setGln (fun g => { g with forced := [], sub := false })
  let s1 := forEach 16 State.laneSwap s0
  let s2 := s.gln.forced.foldl State.forceWear s1
  let s3 := if s.glnEn 0 then forEach 48 State.judgeSegments s2 else s2
  (((((s3.judgePhases.echTest 0 k).echTest 1 k).laneWindow).clockCheck dev).flashWear)

/-- The GLN region of the image (R640). -/
def State.glnRecords (s : State) : State :=
  let w0 := b2n s.gln.sub + 2 * s.fld F.glnStatWorn + 4 * s.fld F.glnStatFlashw
    + 16 * b2n ((upto 6).any (fun k => s.reserve k == 0))
  let l := [w0, s.res0, s.res1, (s.reg F.glnLastsubKind.addr).toNat]
  (l.zipIdx.foldl (fun t p => t.putIn (0x5100 + 4 * p.2) (TWord.nat p.1)) s).putIn 0x5110 ⟨Tag.int, s.reg F.glnXrcPpm.addr⟩

/-- The ECH record of a core (R396). -/
def State.echRecord (s : State) (c : Fin 2) : State :=
  let k := s.core[c]
  let x := k.ech
  let w := b2n k.halt.echo + 2 * b2n x.spFor.isSome + 4 * b2n x.spFail + 8 * b2n (!x.dead.isEmpty) + 16 * x.spFor.getD 7
    + 128 * x.dead.head?.getD 7 + 1024 * x.tlane.getD 7 + 8192 * b2n x.tfail
  [w, x.mis, x.bpar, x.einst, x.sinst].zipIdx.foldl (fun t p => t.putIn (0x2D00 + 0x20 * c.val + 4 * p.2) (TWord.nat p.1)) s

/-- The ECH region of the image. -/
def State.echRecords (s : State) : State := (s.echRecord 0).echRecord 1

/-- The frame's counts of the echo pass cleared. -/
def State.echClear (s : State) : State :=
  forEach 2 (fun t i => if h : i < 2 then t.setCore ⟨i, h⟩ (fun k => { k with ech := { k.ech with mis := 0, bpar := 0, einst := 0, sinst := 0 } }) else t) s

end Sys2Proof.Machine
end

