-- ==== Sys2Proof/Machine/Granary.lean ====
section
/-!
DEFINITION. The Granary's steps: grants, write-backs, ownership, bank states, scrubbing, lane copies; and the store buffers of the
cores, which feed it (R298, R398 to R417).
-/

namespace Sys2Proof.Machine

/-! ### Store buffers (R298 to R304) -/

/-- The core whose near instruction or near data store holds a byte address. -/
def nearOwner (a : Nat) : Option Nat :=
  if inStore (nearI 0) a || inStore (nearD 0) a then some 0
  else if inStore (nearI 1) a || inStore (nearD 1) a then some 1 else none

/-- A store into a near store or the Granary is performed (R305, R403): a near instruction store drops the tag; a store of a core that
is locked off drops the write (R437). -/
def State.storeMem (s : State) (who a : Nat) (v : TWord) : State :=
  match nearOwner a with
  | some k =>
    if s.domLocked (1 + k) then s.lockAccess
    else (s.heal a).mwrite a (if inStore (nearI k) a then ⟨Tag.raw, v.val⟩ else v)
  | none => if inGranary a then s.grnWrite who a v else s

/-- The bank that an access of a requester would wake: it may use it, the bank is not ON and not locked off (R409). -/
def State.sleepingBank (s : State) (who a : Nat) : Option Nat :=
  let b := bankOf a
  if inGranary a && s.mayUse who b && !s.domOn (16 + b) && !s.domLocked (16 + b) then some b else none

/-- The domain that a store of a requester into a near store or the Granary waits for (R409, R436). -/
def State.storeWaits (s : State) (who a : Nat) : Option Nat :=
  match nearOwner a with
  | some k => if s.domOn (1 + k) || s.domLocked (1 + k) then none else some (1 + k)
  | none => (s.sleepingBank who a).map (16 + ·)

/-- The store of an ATOMIC sequence, whose lane has been held since its read: nothing else is granted there (R303, R402). A bank that is
locked off, or did not wake, takes nothing (R409). -/
def State.storeHeld (s : State) (who a : Nat) (v : TWord) : State :=
  match nearOwner a with
  | some _ => s.storeMem who a v
  | none => if s.domOn (16 + bankOf a) && !s.domLocked (16 + bankOf a) then s.grnStore (bankOf a) (wordOf a) v else s

/-- A buffered store is performed, a paired one as one access: what comes before it at its second lane goes first (R339, R399). -/
def State.storeBuffered (s : State) (who : Nat) (x : BufStore) : State :=
  match x.v2 with
  | none => s.storeMem who x.a x.v
  | some v =>
    let s1 := if inGranary x.a && s.mayUse who (bankOf x.a) && s.domOn (16 + bankOf x.a) then s.laneServe who (x.a + 4) else s
    (s1.storeMem who x.a x.v).storeMem who (x.a + 4) v

/-- The oldest buffered store of a core leaves the buffer if its target accepts it (R298); a sleeping target wakes and accepts it
once it is ON (R409, R436). -/
def State.drainOne (s : State) (c : Fin 2) : State :=
  match (s.cr c).buf with
  | [] => s
  | x :: r =>
    match s.storeWaits c.val x.a with
    | some d => s.demand d
    | none => (s.storeBuffered c.val x).setCore c (fun k => { k with buf := r })

/-- A core's store buffer empties, as far as its targets accept (R301). -/
def State.drainAll (s : State) (c : Fin 2) : State := (upto 8).foldl (fun t _ => t.drainOne c) s

/-- The domain for which a core's oldest buffered store waits. -/
def State.drainWaits (s : State) (c : Fin 2) : Option Nat :=
  match (s.cr c).buf with
  | [] => none
  | x :: _ => s.storeWaits c.val x.a

/-- STORE_DRAIN: the oldest buffered store of a core leaves its buffer (R298). A class F halt has emptied the buffer; nothing
leaves one during a dip. -/
def execStoreDrain (c : Fin 2) (s : State) : Out := .next (if s.inDip then s else s.drainOne c)

/-! ### Grants (R399 to R405, R410) -/

/-- LANE_GRANT: the accesses that have arrived at a lane of a bank wait in it, and the lane grants one (R401). An owner's access
wakes a bank that sleeps and stays; one to a bank that is locked off returns NIL 0 and sets source 31 (R409, R437). A paired access holds both its lanes (R399). -/
def execLaneGrant (b : Fin 16) (l : Fin 8) (arrived : List GAcc) (e : Ecc) (s : State) : Out :=
  let fits := fun (g : GAcc) => decide (g.who < 9) && decide (g.word < 65536) && laneOf g.word == l
  let s1 := s.setGbank b (fun x => { x with wait := x.wait ++ arrived.filter fits })
  match (s1.gbank b).next l with
  | none => .next s1
  | some g =>
    let s2 := s1.laneGives b g
    if g.who = 8 then .next (if s1.domOn (16 + b) then s2.granted b g e else s1)
    else if s1.mayUse g.who b = false ∨ s1.domOn (16 + b) = true then .next (s2.granted b g e)
    else if s1.domLocked (16 + b) then
      let s3 := s2.lockedBank g.who
      .next (if g.data.isSome then s3 else s3.deliverGot g.who TWord.nil0 TWord.nil0)
    else .next (s1.demand (16 + b))

/-- CORRECTED_WRITEBACK: a corrected word is written back in a lane cycle in which no requester waits at its lane, a paired one
at either of its lanes (R399, R410). -/
def execCorrectedWriteback (b : Fin 16) (w : Fin 65536) (s : State) : Out :=
  let x := s.gbank b
  .next (if s.domOn (16 + b) && x.wait.all (fun g => !gaccUses g (laneOf w)) then
    (if (s.gbank b).fix.contains w.val then s.heal (grnAddr b w) else s).setGbank b (fun y => { y with fix := y.fix.filter (fun k => k ≠ w) })
  else s)

/-! ### Ownership (R403, R406, R407) -/

/-- A store of a core to a bank lies in its buffer. -/
def State.bufferedTo (s : State) (c : Fin 2) (b : Nat) : Bool :=
  (s.cr c).buf.any (fun p => inGranary p.a && bankOf p.a == b)

/-- GRN.OWN[b] written by a requester, whose own stores are complete (R302): the new owner holds from now on. A write by a master
that is not the owner, while the owner's accesses wait or its buffer holds stores to the bank, is not checked (R407). -/
def State.ownWrite (s : State) (who b : Nat) (w : Word) : Except Nat State :=
  let o := s.owner b
  let buffered := (allFin 2).any (fun c => c.val == o && s.bufferedTo c b)
  if who ≠ 7 ∧ who ≠ o ∧ (s.grnPend b || buffered) = true then .error 407
  else .ok (s.setFld (F.grnOwnOwner b) (getBits w 0 3))

/-- The requester code of a master (R403). -/
def Master.who : Master → Nat
  | .core c => c.val
  | .host => 3
  | .link => 7

/-- OWNER_WRITE: a write to GRN.OWN[b] completes (R406). A core's store buffer empties before it;
no store is made in a class F halt (R248). -/
def execOwnerWrite (m : Master) (b : Fin 16) (w : Word) (s : State) : Out :=
  let s1 := match m with
    | .core c => s.drainAll c
    | _ => s
  let waits := match m with
    | .core c => (s1.drainWaits c).isSome
    | _ => false
  if s.inDip then .next (s.stall (.ownerWrite m b w))
  else if s.storesOff then .next s
  else if waits then .next s1
  else match s1.ownWrite (Master.who m) b w with
    | .ok t => .next t
    | .error r => .fault (.uncheckedUse r)

/-! ### Bank states (R408, R409, R437) -/

/-- GRN.BPWR[b].STATE written. A bank that is locked off takes no request. -/
def State.bankWrite (s : State) (b : Nat) (w : Word) : State :=
  let v := getBits w 0 2
  let d := 16 + b
  if v = 3 then s
  else if v = 0 then
    if s.domLocked d then s.lockAccess
    else ((s.setFld (F.grnBpwrState b) 0).setGbank b (fun x => { x with down := none })).demand d
  else if s.domLocked d then s
  else (s.setFld (F.grnBpwrState b) v).setGbank b (fun x => { x with down := some (if v = 1 then .ret else .off) })

/-- BANK_STATE_WRITE: a write to GRN.BPWR[b] (R408); no store is made in a class F halt (R248). -/
def execBankStateWrite (b : Fin 16) (w : Word) (s : State) : Out := .next (s.store (.bankStateWrite b w) (·.bankWrite b w))

/-- A bank takes a state; OFF loses its contents and its scrub position (R408, R411). A copy that runs starts again at row 0 (R413); one that
is complete stays complete, and takes its lane at the next edge (R414). A request that is still waiting goes on waiting. -/
def State.setBankState (s : State) (b : Nat) (q : DomSt) : State :=
  let s1 := s.setDom (16 + b) (fun x => { x with st := q, waking := false })
  if q = .off then
    (s1.mclear (grnAddr b 0) (grnAddr b 0 + 0x40000)).setGbank b (fun x => { x with
      scrub := 0, fix := [] })
  else s1

/-- Some core waits for a domain. -/
def State.someStall (s : State) (d : Nat) : Bool :=
  (allFin 2).any (fun c => match (s.cr c).stall with
    | some t => t.dom == d && !t.failed
    | none => false)

/-- BANK_POWER_DOWN: a requested RET or OFF takes effect once no access to the bank waits (R408). -/
def execBankPowerDown (b : Fin 16) (s : State) : Out :=
  .next (match (s.gbank b).down with
    | some q =>
      if (s.gbank b).wait.isEmpty && !s.someStall (16 + b) && !(nth s.pwr.dom (16 + b) {}).waking && !s.inDip then
        (s.setBankState b q).setGbank b (fun x => { x with down := none })
      else s
    | none => s)

/-- BANK_WAKE_COMPLETE: a bank that wakes reaches ON (R409). -/
def execBankWakeComplete (b : Fin 16) (s : State) : Out :=
  .next (if (nth s.pwr.dom (16 + b) {}).waking ∧ s.inDip = false then
    s.setDom (16 + b) (fun x => { x with st := .on, waking := false }) else s)

/-- A core's wait for a domain has failed: the access completes without it. -/
def State.stallFails (s : State) (d : Nat) : State :=
  (allFin 2).foldl (fun t c => t.setCore c (fun k => { k with
    stall := k.stall.map (fun x => if x.dom = d then { x with failed := true } else x) })) s

/-- BANK_WAKE_TIMEOUT: a bank has not reached ON 10 µs from RET or 60 µs from OFF; the accesses of its owner that wait complete as non-owner
ones without the report, WAKEF and source 21 set (R409). Accesses that wait in its lanes and are no owner's complete with their report
(R404); a buffered store that is no owner's goes on in its buffer. -/
def execBankWakeTimeout (b : Fin 16) (s : State) : Out :=
  let x := nth s.pwr.dom (16 + b) {}
  if x.waking = false ∨ s.inDip = true then .next s
  else
    let s1 := s.advance ((s.gbank b).wakeAt + (if x.st = .ret then 10 else 60) * ticksPerUs)
    let ends := fun (t : State) (g : GAcc) =>
      let u := if t.mayUse g.who b then t else t.nonOwner (grnAddr b g.word) g.who g.data.isSome g.fetch
      if g.data.isSome || g.fetch then u else u.deliverGot g.who TWord.nil0 TWord.nil0
    let s2 := (s1.gbank b).wait.foldl ends s1
    let s3 := (s2.setGbank b (fun y => { y with wait := [] })).setDom (16 + b) (fun y => { y with waking := false })
    let s4 := (allFin 2).foldl (fun t c => t.setCore c (fun k => { k with
      buf := match k.buf with
        | x :: r => if inGranary x.a && bankOf x.a == b.val && s1.mayUse c.val b then r else x :: r
        | [] => [] })) s3
    .next ((s4.stallFails (16 + b)).wakeFailed b)

/-! ### Scrubbing and copies (R411, R413, R414) -/

/-- SCRUB_READ: the scrubber of a bank that is ON reads its next word and writes a corrected one back (R411). -/
def execScrubRead (b : Fin 16) (e : Ecc) (s : State) : Out :=
  .next (if s.domOn (16 + b) && s.fld F.grnScrubIntv != 0 then
    ((s.laneTurn 8 (grnAddr b (s.gbank b).scrub)).granted b { who := 8, word := (s.gbank b).scrub } e).setGbank b (fun x => { x with
      scrub := (x.scrub + 1) % 65536 })
  else s)

/-- LANE_COPY_COMPLETE: a copy into the spare is complete, in a bank that is ON; it has read and checked each row of the lane (R410,
R413), and the spare takes the lane at the next edge (R414). -/
def execLaneCopyComplete (b : Fin 16) (s : State) : Out :=
  .next (if s.domOn (16 + b) then
    (match (s.gbank b).copy with
    | some (l, false) => (((s.laneErrors b l).foldl (fun t p =>
        let r := t.resolved (grnAddr b p.1) p.2
        r.2.checked b p.1 r.1) s).setGbank b (fun x => { x with copy := some (l, true) })).setFld (F.grnLaneCopy b) 0
    | _ => s)
  else s)

/-! ### The record (R417) -/

/-- The GRN region of the image. -/
def State.grnRecords (s : State) : State :=
  let bits := fun (p : Nat → Bool) => packBits 16 p
  let own := fun (lo : Nat) => (upto 8).foldl (fun a i => a + s.owner (lo + i) * 16 ^ i) 0
  let s1 := s.putIn 0x2E00 (TWord.nat (bits (fun b => s.domOn (16 + b)) + 65536 * bits (fun b => decide ((nth s.pwr.dom (16 + b) {}).st = .ret))))
  let s2 := s1.putIn 0x2E04 (TWord.nat (bits (fun b => (s.gbank b).nown)))
  let s3 := s2.putIn 0x2E08 (TWord.nat (bits (fun b => (s.gbank b).ue)))
  let s4 := s3.putIn 0x2E0C (TWord.nat (bits (fun b => s.fld (F.grnLaneSpfor b) != 15) + 65536 * bits (fun b => s.bit (F.grnLaneWorn b))))
  let s5 := s4.putIn 0x2E10 (TWord.nat (bits (fun b => s.bit (F.grnLaneCopy b))))
  let s6 := (s5.putIn 0x2E14 (TWord.nat (own 0))).putIn 0x2E18 (TWord.nat (own 8))
  forEach 16 (fun t b => let x := t.gbank b
    t.putIn (0x2E20 + 4 * b) (TWord.nat (x.corr + 65536 * x.corrLane + 2 ^ 20 * b2n x.wakef))) s6

/-- What the record reports of a frame is cleared for the next one. -/
def State.grnClear (s : State) : State :=
  forEach 16 (fun t b => t.setGbank b (fun x => { x with nown := false, ue := false, corr := 0, corrLane := 0, wakef := false })) s

end Sys2Proof.Machine
end

