-- ==== Sys2Proof/Machine/Silo.lean ====
section
/-!
DEFINITION. Silo operations: PROG, ARBSTEP and WEAR, their completion and abort, the SIL record (R625 to R629, R638, R640).
-/

namespace Sys2Proof.Machine

/-- PSTAT of the latest operation. -/
def State.pstat (s : State) (v : Nat) : State := s.setFld F.silStatPstat v

/-- The wear bits of the present maps: record and bit of each substitution (R638). -/
def State.wearBits (s : State) : List (Nat × Nat) :=
  ((upto 16).filterMap (fun b =>
    let l := s.fld (F.grnLaneSpfor b)
    if l < 8 then some (54 + (8 * b + l) / 64, (8 * b + l) % 64) else none)) ++
  ((upto 48).filterMap (fun c => (s.out c).seg.out.map (fun k =>
    let m := if c < 8 then 5 * c + k else 40 + 4 * (c - 8) + k
    (56 + m / 64, m % 64)))) ++
  ((upto 4).filterMap (fun p => if s.fld F.pwrRegSpfor = p then some (60, p) else none))

/-- A PROG of BOOTCFG that R625 refuses by RULE. -/
def State.bootcfgBars (s : State) (d : Nat) : Bool :=
  let old := s.shadow 36
  let k := imgKeyOf s
  decide (bitsN d 0 2 < bitsN old 0 2) || (old.testBit 2 && !d.testBit 2) || (old.testBit 3 && !d.testBit 3)
    || (old.testBit 4 && !d.testBit 4) || (!s.sec.header.isEmpty && d.testBit (3 + k))
where
  /-- KEYSEL of the running image. -/
  imgKeyOf (s : State) : Nat := s.sec.header.getD 0x0A 0

/-- A write of SIL.PCTL.OP (R625, R628): refused with its code, or the operation starts. VPP above 7.5 V is not checked. -/
def State.siloStart (s : State) (op : Nat) (job : Bool) : State :=
  let r := s.fld F.silPrecRec
  let d := s.fld F.silPdloData + 2 ^ 32 * s.fld F.silPdhiData
  let go := fun (o : SilOp) => s.setSil (fun x => { x with op := some o })
  if job then s.setBit F.silStatPrivrej
  else if op = 0 ∨ 3 < op then s
  else if s.sil.op.isSome then s.pstat 7
  else if !s.vppOk then s.pstat 1
  else if op = 1 then
    (if !progRecord r then s.pstat 2
     else if s.siloFull r then
       -- a PROG of a full record is the need of R630 (R634)
       (if s.siloReserve = 0 then (s.setBit F.glnStatWorn).raiseSource 179 else s.setBit F.glnStatWorn).pstat 3
     else if r = 36 ∧ s.bootcfgBars d = true then s.pstat 4
     else go (.prog r d))
  else if op = 2 then
    (if 128 ≤ s.fld F.secArbCount ∨ s.fld F.secArbImgarb ≤ s.fld F.secArbCount then s.pstat 8 else go .arbstep)
  else go (.wear (s.wearBits.map (fun p => 64 * p.1 + p.2)))

/-- VPP above 7.5 V has an undefined result (R629); a store from JOB mode is ignored whatever VPP reads. -/
def State.siloWrite (s : State) (op : Nat) (job : Bool) : Out :=
  if 7500 < s.pin .vpp ∧ job = false then .fault (.uncheckedUse 629) else .next (s.siloStart op job)

/-- PROG, ARBSTEP and WEAR: writes of SIL.PCTL with VPP at `mv`. -/
def execProg (mv : Int) (job : Bool) (s : State) : Out :=
  if s.inDip then .next (s.stall (.prog mv job)) else if s.storesOff then .next s else (s.setPin .vpp mv).siloWrite 1 job
def execArbstep (mv : Int) (job : Bool) (s : State) : Out :=
  if s.inDip then .next (s.stall (.arbstep mv job)) else if s.storesOff then .next s else (s.setPin .vpp mv).siloWrite 2 job
def execWear (mv : Int) (job : Bool) (s : State) : Out :=
  if s.inDip then .next (s.stall (.wear mv job)) else if s.storesOff then .next s else (s.setPin .vpp mv).siloWrite 3 job

/-- One generation programmed (R625): START, the code cells, a verify, DONE; a failed verify makes it void, with source 177. -/
def State.progGen (s : State) (r g d : Nat) (fail : Bool) : State :=
  if fail then (s.setGen r g { start := true, done := false, data := d, ones := true }).raiseSource 177
  else s.setGen r g { start := true, done := true, data := d }

/-- A raw bit programmed in its four cells (R626, R638). -/
def State.setRaw (s : State) (r b : Nat) : State :=
  forEach 4 (fun t g =>
    let x := t.siloGen r g
    t.setGen r g { x with data := x.data ||| 2 ^ b }) s

/-- The reserve of the Silo kind after a PROG (R630). -/
def State.siloReserveFell (s : State) (before : Nat) : State :=
  if before ≠ 0 ∧ s.siloReserve = 0 then s.raiseSource 178 else s

/-- An operation completes with a code. -/
def State.siloDone (s : State) (code : Nat) : State := (s.setSil (fun x => { x with op := none, done := true })).pstat code

/-- SILO_OP_COMPLETE: the operation in progress completes; `fail1` and `fail2` say that the verify of the first generation, and of
the retry, fails (R625, R626, R638). -/
def execSiloOpComplete (fail1 fail2 : Bool) (s : State) : Out :=
  .next (match s.sil.op with
    | none => s
    | some (.prog r d) =>
      let n := s.siloReserve
      match s.blankGen r with
      | none => s.siloDone 5
      | some g =>
        let s1 := s.progGen r g d fail1
        if fail1 = false then ((s1.siloReserveFell n).takeShadowOf r .clean).siloDone 0
        else
          match s1.blankGen r with
          | none => (s1.siloReserveFell n).siloDone 5
          | some g2 =>
            let s2 := s1.progGen r g2 d fail2
            if fail2 then (s2.siloReserveFell n).siloDone 5 else ((s2.siloReserveFell n).takeShadowOf r .clean).siloDone 0
    | some .arbstep =>
      let n := s.fld F.secArbCount
      let r := 52 + n / 64
      let s1 := (s.setRaw r (n % 64)).takeShadowOf r .clean
      (s1.setFld F.secArbCount s1.thermometer).siloDone 0
    | some (.wear m) =>
      let s1 := m.foldl (fun t x => if (t.shadow (x / 64)).testBit (x % 64) then t else t.setRaw (x / 64) (x % 64)) s
      ([54, 55, 56, 57, 58, 59, 60].foldl (fun t r => t.takeShadowOf r .clean) s1).siloDone 0)

/-- An operation is interrupted (R627): the generation of a PROG is void; raw bits read by their vote; source 177. `cells` are the
cells of the raw bit that had been programmed. -/
def State.siloAbort (s : State) (cells : Nat) : State :=
  match s.sil.op with
  | none => s
  | some o =>
    let s1 := match o with
      | .prog r d => match s.blankGen r with
        | some g => (s.setGen r g { start := true, done := false, data := d }).siloReserveFell s.siloReserve
        | none => s
      | .arbstep =>
        let n := s.fld F.secArbCount
        forEach 4 (fun t g => if g < cells then
            let x := t.siloGen (52 + n / 64) g
            t.setGen (52 + n / 64) g { x with data := x.data ||| 2 ^ (n % 64) }
          else t) s
      | .wear m => (m.take cells).foldl (fun t x => t.setRaw (x / 64) (x % 64)) s
    (s1.siloDone 6).raiseSource 177

/-- SILO_ABORT: VPP, or VBAT_C, leaves its range during an operation (R625, R627). -/
def execSiloAbort (mv vbat : Int) (cells : Nat) (s : State) : Out :=
  let s1 := (s.setPin .vpp mv).setPin (.vbat 2) vbat
  .next (if s1.vppOk && s1.vbatcOk then s1 else s1.siloAbort cells)

/-- The SIL region of the image (R640). -/
def State.silRecords (s : State) : State :=
  s.putIn 0x5000 (TWord.nat (b2n s.vppOk + 2 * b2n s.sil.op.isSome + 4 * s.fld F.silStatPstat + 64 * b2n s.sil.done))

/-- The frame's note cleared. -/
def State.silClear (s : State) : State := s.setSil (fun x => { x with done := false })

/-- The wear bits of the Silo applied as completed substitutions, in ascending order (R639); a second spare for one instance is
ignored and sets WORN. -/
def State.applyWear (s : State) : State :=
  let bit := fun (r b : Nat) => s.rawBit (r + b / 64) (b % 64)
  let worn := fun (t : State) => t.setBit F.glnStatWorn
  let s1 := forEach 128 (fun t i => if bit 54 i then
      (if t.fld (F.grnLaneSpfor (i / 8)) = i % 8 then t
       else if t.laneSpare (i / 8) then t.setFld (F.grnLaneSpfor (i / 8)) (i % 8) else worn t) else t) s
  let s2 := forEach 200 (fun t m => if bit 56 m then
      let p := if m < 40 then (m / 5, m % 5) else (8 + (m - 40) / 4, (m - 40) % 4)
      (if (t.out p.1).seg.out.isNone then t.setOut p.1 (fun x => { x with seg := { x.seg with out := some p.2 } }) else worn t) else t) s1
  forEach 4 (fun t p => if bit 60 p then
      (if t.phaseSpare then
        { (t.setFld F.pwrRegSpfor p).setFld F.pwrRegPhon (t.fld F.pwrRegPhon - 2 ^ p + 16) with
          pwr := { t.pwr with phaseBad := t.pwr.phaseBad ||| (1#5 <<< p) } }
       else worn t) else t) s2

end Sys2Proof.Machine
end

