-- ==== Sys2Proof/Machine/Slots.lean ====
section
/-!
DEFINITION. What a slot brings: its boundary, its samples, the sample stream (R18, R83 to R87, R420).
-/

namespace Sys2Proof.Machine

/-- A reading in mV as a signed register word. -/
def mvWord (z : Int) : Nat := (BitVec.ofInt 32 z).toNat

/-- The supply readings of a slot boundary (R420). -/
def State.readSupplies (s : State) : State :=
  let s1 := forEach 3 (fun t g => t.setFld (F.pwrVbatMv g) (mvWord (t.pin (.vbat g)))) s
  (s1.setFld F.pwrVholdMv (mvWord (s1.pin .vhold))).setFld F.pwrTlogDeg (mvWord (s1.pin .tlog))

/-- SLOT_BOUNDARY: the next slot of the frame begins (R18), with the readings that the command carries; the threads count it, and
the sensor supplies are judged (R166, R231, R420). -/
def execSlotBoundary (w : World) (s : State) : Out :=
  .next (if s.frameRuns && decide (s.frm.slot + 1 < s.seff) then
    let k := s.frm.slot + 1
    let s1 := (s.observe w).advance (s.slotAt k)
    let s2 := { s1 with frm := { s1.frm with slot := k } }
    forEach 4 State.vsSlot s2.readSupplies.prsSlot
  else s)

/-- SLOT_SAMPLE: at the midpoint of the slot every channel, half-bridge and PX channel is sampled, with the readings that the command
carries (R83); the wire models and the counts follow. Inverse currents beyond the ratings, and an ambient from an input that is no
temperature input, are not checked (R92, R131, R134). -/
def execSlotSample (w : World) (s : State) : Out :=
  if !s.frameRuns || decide (s.frm.slot < s.sw.smpDone) then .next s
  else
    let s1 := (s.observe w).advance (s.slotAt s.frm.slot + 2 * s.slotLen s.frm.slot)
    let s2 := { s1 with sw := { s1.sw with smpDone := s1.frm.slot + 1 } }
    let s3 := s2.swSample.pxSample
    match s3.inverseUnchecked with
    | some r => .fault (.uncheckedUse r)
    | none => if s3.ambientUnchecked then .fault (.uncheckedUse 92) else .next s3

/-- STREAM_SAMPLE_WRITE: the samples of the slot are written to the stream's ring through the Baler's master (R85); those of a frame
that meet a bank which the Baler does not own are dropped from there on (R86). A ring beyond the Granary is not checked. -/
def execStreamSampleWrite (s : State) : Out :=
  let k := s.frm.slot
  let sel := streamSlots s
  if !s.sw.strOn || s.sw.strDrop || !s.bit F.swStrcfgEn || decide (k < s.sw.strDone) || decide (s.sw.smpDone ≤ k) then .next s
  else
    let n := sel.length
    let base := s.fld F.swStrbaseAddr + 4 * (n * s.slots * (s.frm.frame.toNat % max 1 (s.fld F.swStrlenFrames)))
    let items := sel.zipIdx.map (fun p => (base + 4 * (p.2 * s.slots + k), TWord.int (s.lastSample p.1)))
    if items.any (fun p => !inGranary p.1) then .fault (.uncheckedUse 86)
    else
      let s1 := { s with sw := { s.sw with strDone := k + 1 } }
      let s2 := items.foldl (fun t p =>
        if t.sw.strDrop then t
        else
          let u := t.grnWrite 2 p.1 p.2
          if t.mayUse 2 (bankOf p.1) then u else { u with sw := { u.sw with strDrop := true } }) s1
      .next (if k + 1 = s.seff ∧ s2.sw.strDrop = false then
        { s2 with sw := { s2.sw with strLast := s.frm.frame.toNat % 2 ^ 32 } } else s2)

end Sys2Proof.Machine
end

