-- ==== Sys2Proof/Machine/Lin.lean ====
section
/-!
DEFINITION. The LIN channels (13_can_lin.md).
-/

namespace Sys2Proof.Machine

/-- The domain LIN (R433). -/
def domLin : Nat := 10

/-- A channel. -/
def State.ln (s : State) (m : Nat) : Lin := nth s.lin m {}
/-- A channel changed. -/
def State.setLin (s : State) (m : Nat) (f : Lin → Lin) : State := { s with lin := updN s.lin m f }

/-- STAT.ACTIVE: the channel runs and its domain is ON (R484). -/
def State.linActive (s : State) (m : Nat) : Bool := s.bit (F.linCfgEn m) && s.domOn domLin

/-- A frame is in progress: a header is being sent, or a response is awaited or sent. -/
def State.linBusy (s : State) (m : Nat) : Bool := (s.ln m).cur.isSome || decide (s.count < (s.ln m).hdrEnd)

/-- A cause of a channel (R482): with its enable, it is recorded and event 56 + m is raised. -/
def State.linCause (s : State) (m cause : Nat) : State :=
  if (s.fld (F.linEvenCause m)).testBit cause then
    (s.setFld (F.linEvcCause m) (s.fld (F.linEvcCause m) ||| 2 ^ cause)).raiseEvent (56 + m)
  else s

/-- An error of a frame (R478, R479, R482): `f` is its bit of LERR and `en` its bit of WCFG. It ends the frame for this
channel. -/
def State.linError (s : State) (m id en : Nat) (f : Fld) : State :=
  let s1 := ((s.setBit f).setFld (F.linLerrLid m) id).setLin m (fun x => { x with cur := none, err := x.err + 1 })
  let s2 := if (s.fld (F.linWcfgEn m)).testBit en then s1.raiseSource 159 else s1
  s2.linCause m 2

/-- DIR and LEN of an identifier (R478, R484): DIR 3 acts as 0; LEN is 1 to 8. -/
def State.linDir (s : State) (m id : Nat) : Nat := let d := s.fld (F.linBcfgDir m id); if d = 3 then 0 else d
def State.linLen (s : State) (m id : Nat) : Nat := clampN 1 8 (s.fld (F.linBcfgLen m id))

/-- The protected identifier: the identifier with its two parity bits of ISO 17987-3. -/
def linPid (id : Nat) : Nat :=
  let b := fun i => id.testBit i
  id % 64 + 64 * b2n (xor (xor (b 0) (b 1)) (xor (b 2) (b 4))) + 128 * b2n (!(xor (xor (b 1) (b 3)) (xor (b 4) (b 5))))

/-- The sum with carry of ISO 17987-3. -/
def linSum (l : List Nat) : Nat := l.foldl (fun a b => let t := a + b % 256; if 256 ≤ t then t - 255 else t) 0

/-- The checksum of a response (R479): enhanced over the protected identifier too where CKS is 1, but never for identifiers
0x3C and 0x3D. -/
def State.linCks (s : State) (m id : Nat) (data : List Nat) : Nat :=
  255 - linSum (if s.bit (F.linBcfgCks m id) ∧ id ≠ 0x3C ∧ id ≠ 0x3D then linPid id :: data else data)

/-- The bytes of a buffer. -/
def State.linData (s : State) (m id : Nat) : List Nat :=
  (upto 8).map (fun i => getBits (s.reg (0x40140400 + 0x1000 * m + 16 * id + 4 * (i / 4))) (8 * (i % 4)) 8)

/-- The response to an identifier follows its BCFG (R478). -/
def State.linFollow (s : State) (m id : Nat) : State :=
  s.setLin m (fun x => { x with cur := if s.linDir m id = 0 then none else some id, first := none, idle := false })

/-- Ticks of COUNT that a number of bits take at the channel's rate. -/
def State.linBits (s : State) (m n : Nat) : Nat := n * 600000000 / max 1 (s.fld (F.linCfgRate m))

/-- A write of an identifier to LINm.HDR (R477). -/
def State.linHeader (s : State) (m id : Nat) : State :=
  if s.linActive m = false ∨ s.fld (F.linCfgRole m) ≠ 1 then s
  else if s.linBusy m then s.setBit (F.linStatHdrrej m)
  else if (s.ln m).busDom then s
  else (s.linFollow m id).setLin m (fun x => { x with
    hdrEnd := s.count + s.linBits m (s.fld (F.linCfgBrk m) + 21), hdrId := id })

/-- LIN_HEADER_SEND: a write to LINm.HDR (R477). -/
def execLinHeaderSend (m : Fin 4) (id : Fin 64) (s : State) : Out :=
  .next (s.store (.linHeaderSend m id) (·.linHeader m id))

/-- LIN_HEADER_RECEIVED: a responder receives a header at a measured rate, with its framing, sync and parity good or not
(R478). -/
def execLinHeaderReceived (m : Fin 4) (id : Fin 64) (rate : Nat) (good : Bool) (s : State) : Out :=
  .next (
    if s.linActive m = false ∨ s.fld (F.linCfgRole m) ≠ 0 then s
    else
      let r := s.fld (F.linCfgRate m)
      let near := decide (100 * rate ≤ 114 * r) && decide (86 * r ≤ 100 * rate)
      if good && near then s.linFollow m id
      else (s.linError m id 1 (F.linLerrFrerr m)).setLin m (fun x => { x with idle := false }))

/-- LIN_RESPONSE_RECEIVED: the bytes of a subscribed response and its checksum, or a framing error (R478 to R480). -/
def execLinResponseReceived (m : Fin 4) (data : List Nat) (cks : Nat) (framing : Bool) (s : State) : Out :=
  .next (match (s.ln m).cur with
    | none => s
    | some id =>
      let d := data.map (· % 256)
      if s.linActive m = false ∨ s.linDir m id ≠ 1 ∨ d.length ≠ s.linLen m id then s
      else if framing then s.linError m id 1 (F.linLerrFrerr m)
      else if cks ≠ s.linCks m id d then s.linError m id 0 (F.linLerrCkerr m)
      else
        let w := fun j => BitVec.ofNat 32 ((upto 4).foldl (fun a i => a + d.getD (4 * j + i) 0 * 2 ^ (8 * i)) 0)
        let b := 0x40140400 + 0x1000 * m.val + 16 * id
        let s1 := (s.setReg b (w 0)).setReg (b + 4) (w 1)
        let s2 := (s1.setFld (F.linBstatLen m id) d.length).setFld (F.linBstatSeq m id) (s.fld (F.linBstatSeq m id) + 1)
        let s3 := s2.setLin m (fun x => { x with
          cur := none, rx := x.rx + 1, stored := x.stored ||| (1#64 <<< id), idle := false })
        if s.bit (F.linBcfgEv m id) then s3.linCause m 0 else s3)

/-- A store to a data word of a buffer (R480). A published response that has begun goes on with what the buffer held. DESIGN CHOICE: a
response begins as its header ends; the spec gives the response space no length. -/
def State.linStore (s : State) (m a : Nat) (w : Word) : State :=
  let x := s.ln m
  let begun := match x.cur with
    | some id => s.linDir m id = 2 && x.first.isNone && decide (x.hdrEnd ≤ s.count)
    | none => false
  (if begun then s.setLin m (fun y => { y with first := x.cur.map (s.linData m) }) else s).setReg a w

/-- A commander's header is still being sent (R477). -/
def State.linHeading (s : State) (m : Nat) : Bool := s.fld (F.linCfgRole m) == 1 && decide (s.count < (s.ln m).hdrEnd)

/-- LIN_RESPONSE_SENT: a published response has been sent, or a bit error in it, or in the header that a commander sends, ends the frame
for this channel (R478, R479, R482). -/
def execLinResponseSent (m : Fin 4) (bitError : Bool) (s : State) : Out :=
  .next (if bitError ∧ s.linActive m = true ∧ (s.ln m).busDom = false ∧ s.linHeading m then
    (s.linError m (s.ln m).hdrId 1 (F.linLerrFrerr m)).setLin m (fun x => { x with hdrEnd := 0 })
  else match (s.ln m).cur with
    | none => s
    | some id =>
      if s.linActive m = false ∨ s.linDir m id ≠ 2 ∨ (s.ln m).busDom then s
      else if bitError then s.linError m id 1 (F.linLerrFrerr m)
      else
        let d := ((s.ln m).first.getD (s.linData m id)).take (s.linLen m id)
        let s1 := s.setLin m (fun x => { x with cur := none, tx := x.tx + 1, sent := d ++ [s.linCks m id d], idle := false })
        if s.bit (F.linBcfgEv m id) then s1.linCause m 1 else s1)

/-- LIN_NO_RESPONSE: a subscribed response has not ended within 1.4 times its nominal time (R478). -/
def execLinNoResponse (m : Fin 4) (s : State) : Out :=
  .next (match (s.ln m).cur with
    | none => s
    | some id => if s.linActive m ∧ s.linDir m id = 1 then s.linError m id 2 (F.linLerrNoresp m) else s)

/-- LIN_BUS_DOMINANT: a dominant level for 12 ms (R481, R482). -/
def execLinBusDominant (m : Fin 4) (s : State) : Out :=
  .next (if s.linActive m ∧ (s.ln m).busDom = false then
    (s.setLin m (fun x => { x with busDom := true, idle := false, pulse := none })).raiseSource 159 else s)

/-- LIN_BUS_RELEASE: a recessive level for 1 ms (R481). -/
def execLinBusRelease (m : Fin 4) (s : State) : Out :=
  .next (if s.domOn domLin then s.setLin m (fun x => { x with busDom := false }) else s)

/-- A write of 1 to WAKE.SEND (R481). -/
def State.linWake (s : State) (m : Nat) : State :=
  if s.linActive m ∧ (s.ln m).busDom = false then
    s.setLin m (fun x => { x with pulse := some (s.count + 1000 * ticksPerUs), idle := false }) else s

/-- LIN_WAKE_SEND (R481). -/
def execLinWakeSend (m : Fin 4) (s : State) : Out :=
  .next (s.store (.linWakeSend m) (·.linWake m))

/-- LIN_WAKE_RECEIVED: a dominant pulse of a length in µs (R481, R482). Any pulse is activity on the bus; one of 150 µs to 5 ms outside
a frame is a wake pulse. -/
def execLinWakeReceived (m : Fin 4) (us : Nat) (s : State) : Out :=
  .next (if s.linActive m ∧ 0 < us then
    let t := s.setLin m (fun x => { x with idle := false })
    if 150 ≤ us ∧ us ≤ 5000 ∧ s.linBusy m = false then
      ((t.setBit (F.linStatWakerx m)).setLin m (fun x => { x with wakerx := true })).linCause m 3
    else t
  else s)

/-- LIN_IDLE: 4 s with no bus activity (R481). -/
def execLinIdle (m : Fin 4) (s : State) : Out :=
  .next (if s.linActive m ∧ s.linBusy m = false then s.setLin m (fun x => { x with idle := true, pulse := none }) else s)

/-- A write of CFG.EN: the channel starts with its fields clamped, or stops. -/
def State.linEnable (s : State) (m : Nat) (en : Bool) : State :=
  let s1 := s.putBit (F.linCfgEn m) en
  if en then (s1.setFld (F.linCfgBrk m) (clampN 13 26 (s.fld (F.linCfgBrk m)))).setFld (F.linCfgRate m)
    (clampN 1000 20000 (s.fld (F.linCfgRate m)))
  else s1.setLin m (fun x => { x with cur := none, hdrEnd := 0, pulse := none })

/-- STAT bits of a channel that no write changes. -/
def State.linStatus (s : State) (m : Nat) : Nat :=
  b2n (s.linActive m) + 2 * b2n (s.linActive m && s.linBusy m) + 4 * b2n (s.ln m).busDom + 32 * b2n (s.ln m).idle

/-- The LIN region of the image (R483). -/
def State.linRecords (s : State) : State :=
  if !s.domOn domLin then s else
  forEach 4 (fun t m =>
    let x := s.ln m
    let st := s.fld (F.linCfgEn m) + 2 * s.fld (F.linCfgRole m) + 4 * b2n x.busDom + 8 * b2n x.idle + 16 * b2n x.wakerx
    let l := [st, x.rx, x.tx, x.err, x.stored.toNat % 2 ^ 32, x.stored.toNat / 2 ^ 32]
    (l.zipIdx).foldl (fun t p => t.putIn (0x5300 + 0x40 * m + 4 * p.2) (TWord.nat p.1)) t) s

/-- The frame's notes cleared. -/
def State.linClear (s : State) : State :=
  forEach 4 (fun t m => t.setLin m (fun x => { x with rx := 0, tx := 0, err := 0, wakerx := false, stored := 0 })) s

/-- LIN returns from OFF: the buffers read 0 (R433, R480). -/
def State.linLost (s : State) : State :=
  { s with regs := s.regs.filter (fun p => !(decide (0x40140000 ≤ p.1) && decide (p.1 < 0x40144000) && decide (0x400 ≤ p.1 % 0x1000))) }

end Sys2Proof.Machine
end

