-- ==== Sys2Proof/Machine/Sec.lean ====
section
/-!
DEFINITION. Security: the crypto jobs, their completion, key and flash operations, boot, hitless update, recovery, the debug
lock and the SEC record (18_security_update.md).
-/

namespace Sys2Proof.Machine

/-! ### The job queue -/

/-- A job of the queue. -/
def State.cjob (s : State) (j : Nat) : Option CJob := nth s.sec.job j none

/-- The engine of an operation (R587): 0 AES, 1 SHA-256, 2 SLH-DSA, 3 TRNG, 4 xSPI. -/
def engineOf (op : Nat) : Nat :=
  if op = 6 then 1 else if op = 7 ∨ op = 8 ∨ op = 9 then 2 else if op = 10 then 3 else if 0x20 ≤ op then 4 else 0

/-- A job may start: jobs start in submission order on their engine, one at a time, four on the SHA-256 pipes (R587). -/
def State.mayStart (s : State) (x : CJob) : Bool :=
  let open_ := ((upto 16).zip s.sec.job.toList).filter (fun p => match p.2 with
    | some z => decide (z.order < x.order) && engineOf z.op == engineOf x.op && !s.bit (F.secJstDone p.1)
    | none => false)
  decide (open_.length < (if engineOf x.op = 1 then 4 else 1))

/-- Operation tags of the descriptor words that an operation uses: SRC, DST, AUX (R586, R589). -/
def opUses (op : Nat) : Option (Bool × Bool × Bool) :=
  match op with
  | 0x01 | 0x02 | 0x03 => some (true, true, true)
  | 0x04 | 0x06 | 0x08 => some (true, true, false)
  | 0x05 | 0x07 => some (true, false, true)
  | 0x09 | 0x0A | 0x12 | 0x20 => some (false, true, false)
  | 0x10 | 0x13 | 0x21 => some (true, false, false)
  | 0x11 | 0x22 | 0x30 | 0x31 | 0x32 => some (false, false, false)
  | _ => none

/-- An operation of the table is marked SUP (R586, R589). -/
def opSup (op : Nat) : Bool := (opUses op).isSome && decide (0x10 ≤ op)

/-- The tags and the fields of a descriptor fit its operation (R586, R587, R589). -/
def descriptorFits (d : List TWord) (slot : Nat) : Bool :=
  let w := fun i => d.getD i TWord.nil0
  let n := fun i => (w i).val.toNat
  let op := n 0 % 256
  match opUses op with
  | none => false
  | some (src, dst, aux) =>
    let okp := fun (use : Bool) (i : Nat) => if use then (w i).tag == Tag.ptr && n i % 4 == 0 else (w i).tag == Tag.nil
    let arg := n 5
    n 0 / 65536 == 0 && (n 0 / 256 % 256 == 0 || (op == 2 && n 0 / 256 % 256 == 1))
      && okp src 1 && okp dst 2 && okp aux 4 && (w 3).tag == Tag.nat && (w 5).tag == Tag.nat
      && (match op with
        | 0x02 | 0x03 => decide (arg < 65536)
        | 0x05 => decide (4 ≤ arg) && decide (arg ≤ 16)
        | 0x10 => decide (slot < 28) && (arg % 4 == 1 || arg % 4 == 2) && decide (arg < 64)
        | 0x11 | 0x12 | 0x13 => decide (slot < 28)
        | 0x21 => arg % 256 == 0
        | 0x22 => arg % 65536 == 0
        | 0x30 | 0x32 => decide (arg < 2)
        | 0x31 => decide (arg < 1024)
        | _ => true)

/-- CJOB hands a descriptor to the lowest free queue entry (R586, R587): its number, or none where the queue is full. -/
def State.submit (s : State) (d : List TWord) (slot : Nat) : Option Nat × State :=
  let n := fun i => (d.getD i TWord.nil0).val.toNat
  match (upto 16).find? (fun j => (s.cjob j).isNone) with
  | none => (none, s)
  | some j =>
    let x : CJob := {
      op := n 0 % 256, flags := n 0 / 256 % 256, src := n 1, dst := n 2, len := n 3, aux := n 4, arg := n 5, slot := slot
      fits := descriptorFits d slot, order := s.sec.order }
    let s1 := s.setSec (fun y => { y with job := updN y.job j (fun _ => some x), order := y.order + 1 })
    (some j, ((s1.setFld (F.secJstOp j) x.op).setFld (F.secJstDone j) 0).setFld (F.secJstStatus j) 0)

/-- Job `j` has run with a status. -/
def State.jobRan (s : State) (j status : Nat) : State :=
  s.setSec (fun y => { y with job := updN y.job j (Option.map (fun x => { x with ran := some status })) })

/-- A job of an operation runs: its domains are ON, its turn has come, its descriptor fits. -/
def State.runJob (s : State) (j op : Nat) (f : CJob → State → Nat × State) : Out :=
  .next (match s.cjob j with
    | none => s
    | some x =>
      if x.op ≠ op ∨ x.ran.isSome ∨ s.mayStart x = false then s
      else if s.domOn domSec = false then s.demand domSec
      else if engineOf op = 4 ∧ s.domOn domXspi = false then s.demandOrLock domXspi
      else if x.fits = false then s.jobRan j 1
      else
        let r := f x s
        r.2.jobRan j r.1)

/-- What a job does with bytes that it reads; status OWN where SEC does not own them (R588). -/
def State.withBytes (s : State) (a n : Nat) (e : Ecc) (f : Bytes → State → Nat × State) : Nat × State :=
  match s.secRead a n e with
  | (some b, t) => f b t
  | (none, t) => (4, t)

/-- A job's result written. -/
def State.putBytes (s : State) (a : Nat) (b : Bytes) : Nat × State :=
  let r := s.secWrite a b
  (if r.1 then 0 else 4, r.2)

/-- A job under a key: its status where the slot or its use does not allow it. -/
def State.withKey (s : State) (k u : Nat) (f : State → Nat × State) : Nat × State :=
  if s.keyStatus k u ≠ 0 then (s.keyStatus k u, s) else f s

/-! ### Operations without SUP (R589) -/

/-- AES_CTR: the counter block counts over its whole width. -/
def execAesCtr (j : Fin 16) (e : Ecc) (s : State) : Out :=
  s.runJob j 0x01 (fun x t => t.withKey x.slot 0 (fun t => t.withBytes x.aux 16 .clean (fun iv t => t.withBytes x.src x.len e (fun b t =>
    t.putBytes x.dst (aesCtr (t.slotKey x.slot) iv 128 b)))))

/-- Bytes drawn from the DRBG: open values (R591). -/
def State.drawBytes (s : State) (n : Nat) : Bytes × State :=
  ((upto n).map (fun i => Config.freeNat (s.free + i) % 256), { s with free := s.free + n })

/-- GCM_ENC: with FLAGS bit 0 the device draws the IV, which AUX receives; while a TRNG test fails it ends with ENTROPY
(R589, R591). -/
def execGcmEnc (j : Fin 16) (e : Ecc) (s : State) : Out :=
  s.runJob j 0x02 (fun x t => t.withKey x.slot 0 (fun t =>
    if x.flags = 1 ∧ t.sec.trngf then (10, t)
    else t.withBytes x.aux (12 + x.arg) .clean (fun aux t => t.withBytes x.src x.len e (fun b t =>
      let draw := t.drawBytes 12
      let iv := if x.flags = 1 then draw.1 else aux.take 12
      let r := if x.flags = 1 then draw.2.putBytes x.aux iv else (0, t)
      if r.1 ≠ 0 then r
      else
        let k := t.slotKey x.slot
        let ct := gcmText k iv b
        r.2.putBytes x.dst (ct ++ gcmTag k iv (aux.drop 12) ct)))))

/-- GCM_DEC: a wrong tag leaves LEN zero bytes at DST and AUTHF (R590). -/
def execGcmDec (j : Fin 16) (e : Ecc) (s : State) : Out :=
  s.runJob j 0x03 (fun x t => t.withKey x.slot 1 (fun t => t.withBytes x.aux (12 + x.arg) .clean (fun aux t =>
    t.withBytes x.src (x.len + 16) e (fun b t =>
      let k := t.slotKey x.slot
      let iv := aux.take 12
      let ct := b.take x.len
      let good := gcmTag k iv (aux.drop 12) ct == b.drop x.len
      let r := t.putBytes x.dst (if good then gcmText k iv ct else List.replicate x.len 0)
      if r.1 = 0 ∧ good = false then (5, r.2) else r))))

/-- CMAC; slot 30 verifies only (R584). -/
def execCmac (j : Fin 16) (e : Ecc) (s : State) : Out :=
  s.runJob j 0x04 (fun x t => t.withKey x.slot 2 (fun t =>
    if x.slot = 30 then (3, t)
    else t.withBytes x.src x.len e (fun b t => t.putBytes x.dst (cmac (t.slotKey x.slot) b))))

/-- CMAC_VER: ARG bytes of the tag at AUX are compared. -/
def execCmacVer (j : Fin 16) (e : Ecc) (s : State) : Out :=
  s.runJob j 0x05 (fun x t => t.withKey x.slot 2 (fun t => t.withBytes x.aux 16 .clean (fun tag t => t.withBytes x.src x.len e (fun b t =>
    (if (cmac (t.slotKey x.slot) b).take x.arg = tag.take x.arg then 0 else 5, t)))))

/-- SHA256. -/
def execSha256 (j : Fin 16) (e : Ecc) (s : State) : Out :=
  s.runJob j 0x06 (fun x t => t.withBytes x.src x.len e (fun b t => t.putBytes x.dst (sha256 b)))

/-- SLH_VER: the public key and the signature lie at AUX; OK or SIGF. -/
def execSlhVer (j : Fin 16) (e : Ecc) (s : State) : Out :=
  s.runJob j 0x07 (fun x t => t.withBytes x.aux (32 + 7856) .clean (fun a t => t.withBytes x.src x.len e (fun b t =>
    (if slhVerify slh128s (a.take 16) (sub a 16 16) b (a.drop 32) then 0 else 6, t))))

/-- The ASCII string "MIRXEL-ID". -/
def mirxelId : Bytes := [0x4D, 0x49, 0x52, 0x58, 0x45, 0x4C, 0x2D, 0x49, 0x44]

/-- SK.seed, SK.prf and PK.seed (R592). -/
def State.idSeed (s : State) (i : Nat) : Bytes := (sha256 (mirxelId ++ s.siloBytes 0 4 ++ [i])).take 16

/-- The live records of the customer area, in record order. -/
def State.liveRecords (s : State) : Bytes :=
  (((upto 96).map (· + 32)).filter (fun r => !rawRecord r && (s.liveGen r).isSome)).flatMap (fun r => leOf 8 (s.shadow r))

/-- The attestation report (R593). -/
def State.report (s : State) (nonce : Bytes) : Bytes :=
  let fl := s.dbgMode + 4 * b2n s.cdLock + 8 * b2n s.sec.rcvr
  nonce ++ sha256 (sub s.sec.header 0 0xFC) ++ leOf 4 (s.fld F.secImgverVersion)
    ++ [s.fld F.secArbCount, s.fld F.secBootSlot, fl, 0] ++ leOf 6 s.frm.frame.toNat ++ [0, 0] ++ sha256 s.liveRecords ++ s.uid

/-- ATTEST (R593): the report and its signature of 17088 bytes. The string opt_rand of FIPS 205, which the spec leaves open, is a free
value. -/
def execAttest (j : Fin 16) (e : Ecc) (s : State) : Out :=
  s.runJob j 0x08 (fun x t => t.withBytes x.src 32 e (fun nonce t =>
    let r := t.report nonce
    let rand := t.drawBytes 16
    let root := slhRoot slh128f (t.idSeed 0) (t.idSeed 2)
    rand.2.putBytes x.dst (r ++ slhSign slh128f (t.idSeed 0) (t.idSeed 1) (t.idSeed 2) root r rand.1)))

/-- IDPK: the identity public key (R592). -/
def execIdpk (j : Fin 16) (s : State) : Out :=
  s.runJob j 0x09 (fun x t => t.putBytes x.dst (slhPublic slh128f (t.idSeed 0) (t.idSeed 2)))

/-- RANDOM: LEN 1 to 4096; ENTROPY while a TRNG test fails (R591). -/
def execRandom (j : Fin 16) (s : State) : Out :=
  s.runJob j 0x0A (fun x t =>
    if x.len = 0 ∨ 4096 < x.len then (14, t)
    else if t.sec.trngf then (10, t)
    else let r := t.drawBytes x.len
         r.2.putBytes x.dst r.1)

/-! ### Key operations (R584, R585, R589) -/

/-- KLOAD: ARG names the type and the use mask. -/
def execKload (j : Fin 16) (e : Ecc) (s : State) : Out :=
  s.runJob j 0x10 (fun x t => t.withBytes x.src (if x.arg % 4 = 1 then 16 else 32) e (fun b t =>
    (0, t.loadKey x.slot (x.arg % 4) (x.arg / 4 % 16) b)))

/-- KERASE. -/
def execKerase (j : Fin 16) (s : State) : Out := s.runJob j 0x11 (fun x t => (0, t.eraseKey x.slot))

/-- The attribute byte of a blob: the type and the use mask. -/
def State.keyAttr (s : State) (k : Nat) : Nat := s.fld (F.secKattrType k) + 4 * s.fld (F.secKattrUse k)

/-- KWRAP: the 60-byte blob of a key under slot 31. -/
def execKwrap (j : Fin 16) (s : State) : Out :=
  s.runJob j 0x12 (fun x t =>
    if !t.bit (F.secKattrLoaded x.slot) || !t.bit (F.secKattrLoaded 31) then (2, t)
    else if t.sec.trngf then (10, t)
    else
      let r := t.drawBytes 12
      let kek := t.slotKey 31
      let ct := gcmText kek r.1 (sub (t.slotKey x.slot) 0 32)
      r.2.putBytes x.dst (r.1 ++ ct ++ gcmTag kek r.1 [t.keyAttr x.slot] ct))

/-- KUNWRAP: the key and the attributes of a blob; AUTHF if its tag fails for every attribute. -/
def execKunwrap (j : Fin 16) (e : Ecc) (s : State) : Out :=
  s.runJob j 0x13 (fun x t =>
    if !t.bit (F.secKattrLoaded 31) then (2, t)
    else t.withBytes x.src 60 e (fun b t =>
      let kek := t.slotKey 31
      let iv := b.take 12
      let ct := sub b 12 32
      match ((upto 64).filter (fun a => a % 4 == 1 || a % 4 == 2)).find? (fun a => gcmTag kek iv [a] ct == b.drop 44) with
      | some a => (0, t.loadKey x.slot (a % 4) (a / 4) (sub (gcmText kek iv ct) 0 (if a % 4 = 1 then 16 else 32)))
      | none => (5, t)))

/-! ### Flash operations (R594 to R596) -/

/-- XREAD: LEN bytes of the flash from ARG. -/
def execXread (j : Fin 16) (s : State) : Out := s.runJob j 0x20 (fun x t => t.putBytes x.dst (t.flashBytes x.arg x.len))

/-- XPROG: one page. -/
def execXprog (j : Fin 16) (e : Ecc) (s : State) : Out :=
  s.runJob j 0x21 (fun x t => if x.len ≠ 256 then (14, t) else t.withBytes x.src 256 e (fun b t => (0, t.flashProgram x.arg b)))

/-- XERASE: one sector. -/
def execXerase (j : Fin 16) (s : State) : Out := s.runJob j 0x22 (fun x t => (0, t.flashErase x.arg))

/-- IVERIFY: the header and the signature of a slot, nothing loaded (R599, R600). -/
def execIverify (j : Fin 16) (s : State) : Out := s.runJob j 0x30 (fun x t => t.imageRefused (t.imageCheck x.arg))

/-- A core has a task running or ready, or a context to resume (R608). -/
def State.coreHasWork (s : State) (c : Fin 2) : Bool := (s.cr c).busy || !(s.cr c).stack.isEmpty || (s.bestReady c).isSome

/-- The segments that an HLOAD of core `c` takes: those of the kind mask, but for the other core's near stores (R608). -/
def hloadSegments (h : Bytes) (c mask : Nat) : List Segment :=
  (segments h).filter (fun g => mask.testBit g.kind && !(g.kind < 4 && g.kind / 2 != c))

/-- A core is held by an HLOAD (R608, R609). -/
def State.holdCore (s : State) (c : Fin 2) : State := s.setSec (fun x => { x with hold := upd x.hold c (fun y => some (y.getD {})) })

/-- HLOAD (R608): refused while the target core has work or the image is not hitless; else the core is held, and the image is
checked and its segments are loaded. -/
def State.hload (s : State) (c : Fin 2) (i mask : Nat) : Nat × State :=
  let h := s.slotHeader i
  if s.coreHasWork c || !imgHitless h then (12, s)
  else
    let s1 := s.holdCore c
    let segs := hloadSegments h c mask
    let check := s1.imageCheck i
    let away := segs.any (fun g => g.kind == 4 && (upto (g.len / 5)).any (fun k => !s1.mayUse 4 (bankOf (g.dst + 4 * k))))
    let p := s1.payload i
    let differs := segs.any (fun g => g.kind == 6 && (g.words p).any (fun w => s1.mread w.1 != w.2))
    if check ≠ 0 then s1.imageRefused check
    else if away then (4, s1)
    else if differs then (13, s1)
    else
      let good := s1.digestOk i
      let s2 := s1.loadSegments (segs.filter (fun g => g.kind != 6)) p good
      if good then
        (0, s2.setSec (fun x => { x with hold := upd x.hold c (fun _ => some {
          done := true, slot := i, entry := imgEntry h c, header := h }) }))
      else s2.imageRefused 8

/-- The domain for which the words of an HLOAD wait: one of its target core's stores, or PRESS for microcode, that is neither ON nor locked
off (R163, R436). -/
def State.hloadWaits (s : State) (c : Fin 2) (i mask : Nat) : Option Nat :=
  ((1 + c.val) :: segDomains (hloadSegments (s.slotHeader i) c mask)).find? (fun d => !s.domOn d && !s.domLocked d)

/-- The core, the slot and the kind mask of an HLOAD's ARG. -/
def CJob.core (x : CJob) : Fin 2 := if x.arg.testBit 1 then 1 else 0

/-- HLOAD: ARG [0] slot, [1] core, [9:2] kind mask. The domains that its words lie in wake first; one that is locked off takes none of
them (R436, R437). -/
def execHload (j : Fin 16) (s : State) : Out :=
  match s.cjob j with
  | some x =>
    match (if x.op = 0x31 ∧ x.ran.isNone ∧ s.domOn domXspi = true then s.hloadWaits x.core (x.arg % 2) (x.arg / 4) else none) with
    | some d => .next (s.demand d)
    | none => s.runJob j 0x31 (fun x t => t.hload x.core (x.arg % 2) (x.arg / 4))
  | none => .next s

/-- CONFIRM: CONF of a slot programmed to 0 (R603). -/
def execConfirm (j : Fin 16) (s : State) : Out :=
  s.runJob j 0x32 (fun x t => (0, t.flashProgram (slotBase x.arg + 0xFF0000) [0xFF, 0xFE, 0xFF, 0xFF]))

/-! ### Completion -/

/-- A job completes (R587): JST, JDONE, event 76. A job whose descriptor does not fit completes with BADOP. -/
def execCryptoJobComplete (j : Fin 16) (s : State) : Out :=
  .next (match s.cjob j with
    | none => s
    | some x =>
      let status := match x.ran with
        | some r => some r
        | none => if x.fits || !s.domOn domSec then none else some 1
      match status with
      | none => s
      | some r =>
        if s.bit (F.secJstDone j) then s
        else ((((s.setFld (F.secJstStatus j) r).setFld (F.secJstDone j) 1).setFld F.secJdoneDone
          (s.fld F.secJdoneDone ||| 2 ^ j.val))).raiseEvent 76)

/-- An operation that reads, programs or erases the flash (R589, R595). -/
def usesFlash (op : Nat) : Bool := op == 0x20 || op == 0x21 || op == 0x22 || op == 0x30 || op == 0x31 || op == 0x32

/-- FLASH_TIMEOUT: a flash operation that has not finished within 5 s ends with status XSPI (R595). An HLOAD that times out has not been
refused at its start, and holds its core. In recovery, where no job of that number is held, it is the command of RCTL that ends so: its
status shows in RSTAT, and no image counts as verified. -/
def execFlashTimeout (j : Fin 16) (s : State) : Out :=
  .next (match s.cjob j with
    | none => if s.sec.rcvr then (s.setSec (fun x => { x with verified := none })).setFld F.secRstatStatus 11 else s
    | some x =>
      if usesFlash x.op && x.ran.isNone && x.fits && s.mayStart x then
        (if x.op = 0x31 then (if s.coreHasWork x.core || !imgHitless (s.slotHeader (x.arg % 2)) then s.jobRan j 12
          else (s.holdCore x.core).jobRan j 11)
        else s.jobRan j 11)
      else s)

/-- A write of SEC.JDONE (R587): each bit that names a completed job frees its entry. -/
def State.jdoneClear (s : State) (w : Word) (job : Bool) : State :=
  if job then s.setBit F.secStatPrivrej
  else forEach 16 (fun t j => if w.getLsbD j ∧ (t.fld F.secJdoneDone).testBit j then
      (t.setFld F.secJdoneDone (t.fld F.secJdoneDone - 2 ^ j)).setSec (fun x => { x with job := updN x.job j (fun _ => none) })
    else t) s

/-- JDONE_CLEAR (R587). -/
def execJdoneClear (w : Word) (job : Bool) (s : State) : Out :=
  .next (s.store (.jdoneClear w job) (·.jdoneClear w job))

/-- A flash program or erase runs: STAT.XBUSY (R595). It runs from the moment its turn has come until it completes or times out. -/
def State.xBusy (s : State) : Bool :=
  (upto 16).any (fun j => match s.cjob j with
    | some x => ((x.op == 0x21 && x.len == 256) || x.op == 0x22) && x.fits && !s.bit (F.secJstDone j) && (match x.ran with
      | some v => v == 0
      | none => s.mayStart x && s.domOn domSec && s.domOn domXspi)
    | none => false)

/-! ### The TRNG (R591) -/

/-- TRNG_HEALTH_FAIL. -/
def execTrngHealthFail (s : State) : Out :=
  .next (if s.domOn domSec then ((s.setSec (fun x => { x with trngf := true })).setFld F.secStatTrngf 1).raiseSource 170 else s)

/-- TRNG_HEALTH_PASS. -/
def execTrngHealthPass (s : State) : Out :=
  .next (if s.domOn domSec then (s.setSec (fun x => { x with trngf := false })).setFld F.secStatTrngf 0 else s)

/-! ### Boot (R604 to R607) -/

/-- The slots that BOOT1 and BOOT0 allow, whose status word makes them candidates (R604, R605). -/
def State.candidates (s : State) (lands : Nat) : List Nat :=
  [0, 1].filter (fun i =>
    let w := s.slotStatus i
    (lands == 0 || lands == 1 + i) && w.testBit 16 && (!w.testBit 8 || w % 16 != 0))

/-- A slot failed at boot. -/
def State.bootFail (s : State) (i : Nat) : State := s.setFld F.secBootFail (s.fld F.secBootFail ||| 2 ^ i)

/-- The lowest TRY bit that is 1 programmed to 0, while the slot is unconfirmed (R603, R605). -/
def State.useTry (s : State) (i : Nat) : State :=
  let w := s.slotStatus i
  match [0, 1, 2, 3].find? (fun b => w.testBit b) with
  | some b => if w.testBit 8 then s.flashProgram (slotBase i + 0xFF0000) [255 - 2 ^ b] else s
  | none => s

/-- The candidates tried in order; with none left the device enters recovery (R605). -/
def State.bootFrom (s : State) : List Nat → State
  | [] => s.enterRecovery true
  | i :: rest =>
    let s1 := s.useTry i
    if s1.signatureOk i = false then ((s1.raiseSource 169).bootFail i).bootFrom rest
    else
      let good := s1.digestOk i
      let segs := segments (s1.slotHeader i)
      let s2 := (s1.wakeSegments segs).loadSegments segs (s1.payload i) good
      if good then s2.handOff i else ((s2.raiseSource 169).bootFail i).bootFrom rest

/-- Candidates whose header fails are dropped, with source 169 (R605). -/
def State.dropBad (s : State) : List Nat → List Nat × State
  | [] => ([], s)
  | i :: rest =>
    if s.headerCheck (s.slotHeader i) = 0 then let r := s.dropBad rest
                                               (i :: r.1, r.2)
    else ((s.raiseSource 169).bootFail i).dropBad rest

/-- BOOT: C0 runs the ROM, with BOOT1 and BOOT0 as sampled (R604, R605). The domains that the ROM uses come ON. -/
def execBoot (lands : Fin 4) (s : State) : Out :=
  .next (
    if s.sec.rom = false ∨ s.win.startOk = false ∨ s.win.fhalt ∨ s.inDip ∨ s.win.pathBad then s
    else
      let s1 := ([1, 2, domSec, domXspi].foldl State.romWakes s).setFld F.secBootLands lands
      if lands = 3 then s1.enterRecovery true
      else
        let r := s1.dropBad (s1.candidates lands)
        r.2.bootFrom (match r.1 with
          | [a, b] => if imgSeq (r.2.slotHeader a) < imgSeq (r.2.slotHeader b) then [b, a] else [a, b]
          | l => l))

/-! ### Hitless update (R609) -/

/-- A write of SEC.HCTL: each START bit starts the core that a completed HLOAD holds; else it does nothing. -/
def State.hctl (s : State) (w : Word) (job : Bool) : State :=
  if job then s.setBit F.secStatPrivrej
  else forEach 2 (fun t i => if h : i < 2 then
      (match w.getLsbD i, t.sec.hold[i] with
      | true, some x =>
        if x.done then
          ((t.runningImage x.slot x.header).startCore ⟨i, h⟩ (coreEntry x.header i)).setSec (fun y => { y with
            hold := y.hold.set i none })
        else t
      | _, _ => t)
    else t) s

/-- HCTL_START. -/
def execHctlStart (w : Word) (job : Bool) (s : State) : Out :=
  .next (s.store (.hctlStart w job) (·.hctl w job))

/-! ### Recovery (R611 to R613) -/

/-- A write of SEC.RECOVER (R611). -/
def State.recoverWrite (s : State) (w : Word) (job : Bool) : State :=
  if job then s.setBit F.secStatPrivrej
  else if w = 0x5EC00D1E#32 ∧ s.sec.rcvr = false ∧ s.win.fhalt = false then s.enterRecovery false else s

/-- RECOVER_ENTRY. -/
def execRecoverEntry (w : Word) (job : Bool) (s : State) : Out :=
  .next (s.store (.recoverEntry w job) (·.recoverWrite w job))

/-- RCTL.SLOT in use: 2 and 3 act as 0. -/
def State.rctlSlot (s : State) : Nat := if s.fld F.secRctlSlot = 1 then 1 else 0

/-- The status of the latest recovery command. -/
def State.rstat (s : State) (v : Nat) : State := s.setFld F.secRstatStatus v

/-- Words of the recovery buffer programmed into the slot, the oldest first. -/
def State.flushWords (s : State) (n : Nat) : State :=
  let b := slotBase s.rctlSlot
  ((s.sec.buf.take n).foldl (fun t p => t.flashProgram (b + p.1) (leOf 4 p.2.toNat)) s).setSec (fun x => { x with
    buf := x.buf.drop n })

/-- RCTL.ERASE: the slot is erased, sector by sector. -/
def State.recoveryErase (s : State) : State :=
  let b := slotBase s.rctlSlot
  ((forEach 256 (fun t k => t.flashErase (b + 65536 * k)) s).setSec (fun x => { x with buf := [], verified := none })).rstat 0

/-- RCTL.VERIFY: what remains is programmed, and the image is checked without loading. -/
def State.recoveryVerify (s : State) : State :=
  let s1 := s.flushWords s.sec.buf.length
  let i := s1.rctlSlot
  let c := s1.imageCheck i
  let c1 := if c = 0 ∧ s1.digestOk i = false then 8 else c
  let r := s1.imageRefused c1
  (r.2.setSec (fun x => { x with verified := if c1 = 0 then some i else none })).rstat c1

/-- RCTL.BOOT: the verified slot is loaded and handed off without a reset. -/
def State.recoveryBoot (s : State) : State :=
  let i := s.rctlSlot
  if s.sec.verified ≠ some i then s.rstat 7
  else
    let good := s.digestOk i
    let segs := segments (s.slotHeader i)
    let s1 := (([1, 2].foldl State.romWakes s).wakeSegments segs).loadSegments segs (s.payload i) good
    if good then (s1.rstat 0).handOff i
    else ((s1.imageRefused 8).2.setSec (fun x => { x with verified := none })).rstat 8

/-- A write of SEC.RCTL: outside recovery it is ignored; a flash command wakes the XSPI domain. -/
def State.rctlWrite (s : State) (w : Word) (job : Bool) : State :=
  if job then s.setBit F.secStatPrivrej
  else if s.sec.rcvr = false then s
  else
    let s1 := (s.setFld F.secRctlSlot (getBits w 0 2))
    let s2 := if getBits w 2 3 = 0 then s1 else s1.bringOn domXspi
    let s3 := if w.getLsbD 2 then s2.recoveryErase else s2
    let s4 := if w.getLsbD 3 then s3.recoveryVerify else s3
    if w.getLsbD 4 then s4.recoveryBoot else s4

/-- RECOVERY_ERASE, RECOVERY_VERIFY, RECOVERY_BOOT: writes of SEC.RCTL with their bit, naming a slot. -/
def execRecoveryErase (slot : Fin 4) (job : Bool) (s : State) : Out :=
  .next (s.store (.recoveryErase slot job) (·.rctlWrite (BitVec.ofNat 32 (slot.val + 4)) job))
def execRecoveryVerify (slot : Fin 4) (job : Bool) (s : State) : Out :=
  .next (s.store (.recoveryVerify slot job) (·.rctlWrite (BitVec.ofNat 32 (slot.val + 8)) job))
def execRecoveryBoot (slot : Fin 4) (job : Bool) (s : State) : Out :=
  .next (s.store (.recoveryBoot slot job) (·.rctlWrite (BitVec.ofNat 32 (slot.val + 16)) job))

/-- A write of SEC.RDATA, before which `pages` pages of the buffer have been programmed (R613). -/
def State.rdataWrite (s : State) (w : Word) (pages : Nat) (job : Bool) : State :=
  if job then s.setBit F.secStatPrivrej
  else if s.sec.rcvr = false then s
  else
    let s1 := s.flushWords (64 * pages)
    if 1024 ≤ s1.sec.buf.length then s1.setBit F.secRstatOvf
    else
      let a := s1.fld F.secRaddrOff
      (s1.setFld F.secRaddrOff (a + 4)).setSec (fun x => { x with buf := x.buf ++ [(a, w)] })

/-- RDATA_WRITE. -/
def execRdataWrite (w : Word) (pages : Nat) (job : Bool) (s : State) : Out :=
  .next (s.store (.rdataWrite w pages job) (·.rdataWrite w pages job))

/-! ### The debug lock (R614) -/

/-- A new challenge is drawn. -/
def State.newChallenge (s : State) : State :=
  let w := fun (n : Nat) => Config.freeWord (s.free + n)
  let t : State := { s with free := s.free + 4 }
  t.setSec (fun x => { x with dchal := #v[w 0, w 1, w 2, w 3] })

/-- A write of DRESP[n]: that of DRESP[3] checks the response. -/
def State.drespWrite (s : State) (n : Nat) (w : Word) (job : Bool) : State :=
  if job then s.setBit F.secStatPrivrej
  else if 8 ≤ s.sec.fails then s
  else
    let s1 := s.setFld (F.secDrespResp n) w.toNat
    if n ≠ 3 ∨ s.dbgMode ≠ 1 then s1
    else
      let chal := (upto 4).flatMap (fun k => leOf 4 (nth s.sec.dchal k 0).toNat)
      let resp := (upto 4).flatMap (fun k => leOf 4 (s1.fld (F.secDrespResp k)))
      if s.bit (F.secKattrLoaded 30) ∧ cmac (s.slotKey 30) (chal ++ s.uid) = resp then
        s1.setFld F.dbgStatLocked 0
      else
        let s2 := (s1.setBit F.secStatDfail).newChallenge.setSec (fun x => { x with fails := x.fails + 1 })
        if 8 ≤ s2.sec.fails then s2.setBit F.secStatDlockout else s2

/-- DRESP_CHECK: a write of DRESP[3]. -/
def execDrespCheck (w : Word) (job : Bool) (s : State) : Out :=
  .next (s.store (.drespCheck w job) (·.drespWrite 3 w job))

/-! ### The record -/

/-- Queue entries held. -/
def State.jobsHeld (s : State) : Nat := (upto 16).foldl (fun a j => if (s.cjob j).isSome then a + 2 ^ j else a) 0

/-- RSTAT as it reads, in recovery and after it: R613 names RCTL, RADDR and RDATA alone as reading 0 outside recovery. -/
def State.rstatView (s : State) : Nat := (s.reg F.secRstatStatus.addr).toNat

/-- The SEC region of the image (R615). -/
def State.secRecords (s : State) : State :=
  let w0 := s.fld F.secBootSlot + 4 * b2n s.sec.rcvr + 8 * b2n s.sec.trngf + 16 * s.fld F.dbgStatLocked + 32 * s.fld F.secBootFirst
    + 256 * s.fld F.secArbCount
  let l := [w0, s.fld F.secJdoneDone + 65536 * s.jobsHeld, s.fld F.secImgverVersion, s.rstatView]
  l.zipIdx.foldl (fun t p => t.putIn (0x4F00 + 4 * p.2) (TWord.nat p.1)) s

end Sys2Proof.Machine
end

