-- ==== Sys2Proof/Machine/Views.lean ====
section
/-!
DEFINITION. What a register reads: the stored word with the read-only fields that report other state, the values held while a
domain is not ON (R434), and the fields and command words of absent features (R577).
-/

namespace Sys2Proof.Machine

/-! ### Absent features (R577) -/

/-- The features of which a block consists, by the high half of its address; none for a block of mandatory features. -/
def blockFeats (a : Nat) : List Nat :=
  match a / 0x10000 with
  | 0x4001 => [10, 11, 12, 13, 14, 15, 16, 17]
  | 0x4002 => [20, 21]
  | 0x4003 => [22]
  | 0x4004 => [24, 25]
  | 0x4009 => [32 + a % 0x10000 / 0x2000]
  | 0x400A => [40]
  | 0x400B => [41]
  | 0x400C => [42]
  | 0x400D => [43]
  | 0x400E => [44]
  | 0x4014 => [39]
  | _ => []

/-- The bits of SW.PAIR by feature: pairs of channels on their die, full bridges (R71, R110). -/
def pairBits : List (Nat × Nat) := (upto 24).map (fun p => (10 + dieNo (2 * p), 2 ^ p)) ++ [(17, 0x0F000000)]

/-- The features that a register belongs to, each with its bits of the register. -/
def regFeats (a : Nat) : List (Nat × Nat) :=
  let o := a % 0x10000
  let all := 0xFFFFFFFF
  match a / 0x10000 with
  | 0x4001 =>
    if o = 8 then pairBits
    else if o = 0xC ∨ o = 0x10 then [(18, all)]
    else if 0x20 ≤ o ∧ o < 0x34 then [(19, all)]
    else if 0x100 ≤ o ∧ o < 0x600 then
      (10 + dieNo (o % 0x100 / 4), all) :: (if o / 0x100 = 4 then [(18, all)] else [])
    else if 0x600 ≤ o ∧ o < 0x700 then [(17, all)]
    else if 0x700 ≤ o ∧ o < 0x7C0 then [(10 + dieNo ((o - 0x700) / 4), all)]
    else if 0x7C0 ≤ o ∧ o < 0x800 then [(17, all)]
    else []
  | 0x4002 => if 0x280 ≤ o ∧ o < 0x2A0 then [(21, all)] else if 8 ≤ o then [(20, all)] else []
  | 0x4003 => if 0x1000 ≤ o ∧ o < 0x1800 then [(23, all)] else []
  | 0x4004 =>
    if o = 8 ∨ (0x100 ≤ o ∧ o < 0x2C0) then [(24, all)]
    else if o = 0xC then [(26, all)]
    else if 0x300 ≤ o ∧ o < 0x360 then [(25, all), (26, 0xFFFF0180)]
    else if 0x300 ≤ o ∧ o < 0xA00 then [(25, all)] else []
  | 0x4009 => if 0x34 ≤ o % 0x2000 ∧ o % 0x2000 < 0x48 then [(38, all)] else []
  | 0x400E =>
    if o = 0x34 ∨ o = 0x38 ∨ o = 0x3C ∨ o = 0x40 then [(45, all)] else if o = 0x2C then [(45, 0x1F00)] else []
  | 0x400F => if o = 8 then [(46, 0x1F03)] else if o = 0x10 then [(46, all)] else []
  | _ => []

/-- The bits of a register that read 0 and ignore writes under a feature set. -/
def absentMask (has : Nat → Bool) (a : Nat) : Nat :=
  let fs := blockFeats a
  if !fs.isEmpty && fs.all (fun k => !has k) then 0xFFFFFFFF
  else (regFeats a).foldl (fun m p => if has p.1 then m else m ||| p.2) 0

/-- Clears the bits of a mask. -/
def dropBits (w : Word) (mask : Nat) : Word := w &&& ~~~(BitVec.ofNat 32 mask)

/-- An offset of the output image is a command word (R61, R67, R112, R153, R197, R230, R542). -/
def cmdWord (o : Nat) : Bool :=
  o % 4 == 0 && ((decide (0x100 ≤ o) && decide (o < 0x200)) || (decide (0x800 ≤ o) && decide (o < 0x830))
    || (decide (0x840 ≤ o) && decide (o < 0x850)) || (decide (0xC00 ≤ o) && decide (o < 0xC60))
    || (decide (0xE00 ≤ o) && decide (o < 0xE10)) || (decide (0xF00 ≤ o) && decide (o < 0xF0C)))

/-- The feature of a command word. -/
def cmdFeat (o : Nat) : Nat :=
  if o < 0x1C0 then 10 + dieNo ((o - 0x100) / 4) else if o < 0x200 then 17 else if o < 0x840 then 20 else if o < 0x850 then 21
  else if o < 0xC60 then 22 else if o < 0xE10 then 25 else 44

/-! ### Read-only fields that report state -/

/-- A field of a word replaced. -/
def ov (w : Word) (f : Fld) (v : Nat) : Word := setBits w f.lo f.width v

/-- Peripheral cycles elapsed in the current slot. -/
def State.slotCyc (s : State) : Nat := (s.count - s.slotAt s.frm.slot) / 4

/-- One core's byte of ECH.LANE. -/
def EchoCore.laneByte (x : EchoCore) : Nat := x.spFor.getD 7 + 8 * x.dead.head?.getD 7 + 64 * b2n x.spFail

/-- Host transactions held. -/
def State.txnHeld (s : State) : Nat := (s.frm.held.filter (fun h => match h with
  | .txn _ _ _ _ => true
  | .fw _ _ _ => false)).length

/-- FRM, WIN, ECH, GRN and PWR. -/
def State.liveCore (s : State) (a : Nat) : Word :=
  let w := s.reg a
  let o := a % 0x10000
  let core := fun (i : Nat) => s.core.toList.getD i {}
  match a / 0x10000 with
  | 0x4000 =>
    if o = 0xC then ov (ov w F.frmStatSeff s.seff) F.frmStatSync (b2n s.synced)
    else if o = 0x10 then BitVec.ofNat 32 s.frm.frame.toNat
    else if o = 0x18 then ov (ov w F.frmSlot s.frm.slot) F.frmSlotCyc s.slotCyc
    else if o = 0x40 ∨ o = 0x44 then
      BitVec.ofNat 32 (packBits 32 (fun j => match nth s.frm.jobs (32 * ((o - 0x40) / 4) + j) .idle with
        | .ready _ _ => true
        | .running => true
        | _ => false))
    else w
  | 0x4005 =>
    if o = 4 then ov (ov w F.winStatFhalt (b2n s.win.fhalt)) F.winStatSafe (b2n s.win.safe)
    else if o = 0xC then ov w F.winWarnPulse (b2n s.win.warnEnd.isSome)
    else if o = 0x18 then ov w F.winSummAny s.winSum else w
  | 0x4006 =>
    if o = 4 then ov w F.echStatEhalt (b2n (core 0).halt.echo + 2 * b2n (core 1).halt.echo)
    else if o = 0x28 then BitVec.ofNat 32 ((core 0).ech.laneByte + 256 * (core 1).ech.laneByte)
    else w
  | 0x4007 =>
    if o = 8 then BitVec.ofNat 32 (packBits 16 s.grnPend)
    else if 0x140 ≤ o ∧ o < 0x180 then setBits w 2 1 (b2n (nth s.pwr.dom (16 + (o - 0x140) / 4) {}).waking) else w
  | 0x4008 =>
    if o = 4 then ov w F.pwrStatHoldrdy (b2n (decide (15000 ≤ s.pin .vhold)))
    else if o = 0x14 then ov w F.pwrAontCount s.aonCount
    else if o = 0x3C then BitVec.ofNat 32 (packBits 32 s.domOn)
    else if o = 0x40 then BitVec.ofNat 32 (packBits 32 (fun d => d != 0 && decide ((nth s.pwr.dom d {}).st = .ret)))
    else if 0x100 ≤ o ∧ o < 0x180 then
      let d := (o - 0x100) / 4
      let w1 := if 16 ≤ d then setBits w 0 2 (s.fld (F.grnBpwrState (d - 16))) else w
      setBits w1 2 1 (b2n (nth s.pwr.dom d {}).waking)
    else w
  | 0x4013 =>
    if 0x10 ≤ o ∧ o < 0x18 then
      let h := (core ((o - 0x10) / 4)).halt
      setBits w 0 3 (b2n h.dbg + 2 * b2n h.trap + 4 * b2n h.echo)
    else if 0x18 ≤ o ∧ o < 0x20 then (core ((o - 0x18) / 4)).pc
    else w
  | _ => w

/-- CAN, LIN, NM, ETH and TIM. -/
def State.liveNet (s : State) (a : Nat) : Word :=
  let w := s.reg a
  let o := a % 0x10000
  match a / 0x10000 with
  | 0x4009 =>
    let n := o / 0x2000
    let p := o % 0x2000
    let c := s.cn n
    if p = 8 then setBits w 0 6 (s.canStatus n)
    else if p = 0x18 then ov (ov w (F.canErrRec n) c.recv) (F.canErrTec n) c.tec
    else if p = 0x28 then ov w (F.canQstatCount n) c.queue.length
    else if 0x60 ≤ p ∧ p < 0x80 then BitVec.ofNat 32 (c.bitmap (·.new) ((p - 0x60) / 4))
    else if 0x80 ≤ p ∧ p < 0xA0 then BitVec.ofNat 32 (c.bitmap (·.pend) ((p - 0x80) / 4))
    else w
  | 0x4014 =>
    let m := o / 0x1000
    let st := s.linStatus m
    if o % 0x1000 = 8 then setBits (setBits w 0 3 (st % 8)) 5 1 (st / 32) else w
  | 0x400A =>
    if o = 4 then ov w F.nmStatTxpend (b2n (s.cn s.nmPort).nm.isSome)
    else if o = 0x1C then BitVec.ofNat 32 (s.nm.eg.getD 0)
    else if o = 0x20 then BitVec.ofNat 32 (s.nm.eg.getD 0 / 2 ^ 32 % 65536)
    else if 0x100 ≤ o ∧ o < 0x200 then
      let i := (o - 0x100) / 4
      let d := s.nm.nodeOf i
      BitVec.ofNat 32 (d.keep + 2 ^ 16 * d.wakes + 2 ^ 24 * d.reason + 2 ^ 28 * b2n (s.nmPresent i) + 2 ^ 29 * b2n d.req)
    else w
  | 0x400B =>
    if 0x50 ≤ o ∧ o < 0x58 then
      let p := (o - 0x50) / 4
      BitVec.ofNat 32 (b2n (s.eport p).link + 2 * b2n (s.eport p).role + 4 * ((s.pin (.sqi p)).toNat % 8))
    else w
  | 0x400C =>
    if o = 4 then ov w F.timStatState s.tim.st
    else if o = 0x10 then BitVec.ofNat 32 s.count
    else if o = 0x18 then lo32 s.timeNow
    else if o = 0x30 then BitVec.ofInt 32 (nsOf s.tim.theta)
    else if o = 0x34 then BitVec.ofInt 32 (nsOf s.mpd)
    else w
  | _ => w

/-- HST, SEC, SIL and GLN. -/
def State.liveSys (s : State) (a : Nat) : Word :=
  let w := s.reg a
  let o := a % 0x10000
  match a / 0x10000 with
  | 0x400F => if o = 4 then ov w F.hstStatPend s.txnHeld else w
  | 0x4010 =>
    if o = 4 then
      ov (ov (ov w F.secStatQfull (b2n (s.jobsHeld == 0xFFFF))) F.secStatXbusy (b2n s.xBusy)) F.secStatRcvr (b2n s.sec.rcvr)
    else if o = 0x30 then BitVec.ofNat 32 s.rstatView
    else if o = 0x24 ∨ o = 0x28 then (if s.sec.rcvr then w else 0)
    else if 0x100 ≤ o ∧ o < 0x110 then nth s.sec.dchal ((o - 0x100) / 4) 0
    else w
  | 0x4011 =>
    if o = 4 then ov (ov w F.silStatBusy (b2n s.sil.op.isSome)) F.silStatVppok (b2n s.vppOk)
    else if 0x800 ≤ o ∧ o < 0xA00 then BitVec.ofNat 32 (s.siloInfo ((o - 0x800) / 4))
    else if 0x1000 ≤ o ∧ o < 0x1400 then
      let r := (o - 0x1000) / 8
      if protectedRecord r then 0 else BitVec.ofNat 32 (if o % 8 = 0 then s.shadow r % 2 ^ 32 else s.shadow r / 2 ^ 32)
    else w
  | 0x4012 => if o = 0x2C then BitVec.ofNat 32 s.res0 else if o = 0x30 then BitVec.ofNat 32 s.res1 else w
  | _ => w

/-- A register with its fields as they report the present state. -/
def State.live (s : State) (a : Nat) : Word :=
  let b := a / 0x10000
  if b ≤ 0x4008 ∨ b = 0x4013 then s.liveCore a
  else if b ≤ 0x400C ∨ b = 0x4014 then s.liveNet a
  else s.liveSys a

/-- The registers of a domain whose read-only fields hold their values while it is not ON (R434), each with the bits that hold.
LINm.STAT.ACTIVE is not among them: its row says that it reads 1 only while the domain is ON. SEC holds QFULL and XBUSY. -/
def frozenRegs (d : Nat) : List (Nat × Nat) :=
  let whole := fun (a : Nat) => (a, 0xFFFFFFFF)
  if d = domCan then
    (upto 6).flatMap (fun n => ([8, 0x18, 0x28] ++ (upto 16).map (fun k => 0x60 + 4 * k)).map (fun o => whole (0x40090000 + 0x2000 * n + o)))
  else if d = domLin then (upto 4).map (fun m => (0x40140008 + 0x1000 * m, 0x26))
  else if d = domEth then [whole 0x400B0050, whole 0x400B0054]
  else if d = domTime then [whole 0x400C0004, whole 0x400C0030, whole 0x400C0034]
  else if d = domSec then [(0x40100004, 0x60)]
  else []

/-- The domain whose state decides whether bits of a register hold, and the bits (R434). -/
def frozenBy (a : Nat) : Option (Nat × Nat) :=
  [domCan, domLin, domEth, domTime, domSec].findSome? (fun d => ((frozenRegs d).find? (fun p => p.1 == a)).map (fun p => (d, p.2)))

/-- The word that a load of a register gives, with no effect of the load (R4, R9). FRAMEHI, THI and CNTHI depend on the master.
SW.WAMB.DEG, the one signed field with no other field above it, is sign-extended into the word (R15). DEDUCED. -/
def State.view (s : State) (a : Nat) : Word :=
  let w := match frozenBy a with
    | some (d, held) => if s.domOn d then s.live a else dropBits (s.live a) held ||| (s.reg a &&& BitVec.ofNat 32 held)
    | none => s.live a
  let v := dropBits w (absentMask s.feat a)
  if a = F.swWambDeg.addr then BitVec.ofInt 32 (signedN (getBits v 0 16) 16) else v

/-- The values that a domain's registers hold while it is not ON are taken as it leaves ON (R434). -/
def State.freeze (s : State) (d : Nat) : State :=
  (frozenRegs d).foldl (fun t p => t.setReg p.1 (dropBits (t.reg p.1) p.2 ||| (s.view p.1 &&& BitVec.ofNat 32 p.2))) s

end Sys2Proof.Machine
end

