-- ==== Sys2Proof/Machine/PowerOps.lean ====
section
/-!
DEFINITION. What a power domain loses and regains, the requests and locks of domains, the supply groups at an edge, the PWR record
(R419 to R447, R661).
-/

namespace Sys2Proof.Machine

/-! ### Leaving and reaching ON (R381, R433, R434) -/

/-- A domain leaves ON: the registers that report its function hold (R434); CAN abandons its locks, LIN the frames in progress, ETH
its links (R459, R480, R503); the sensor supplies turn off and the samples of the frame are lost with INP (R226, R233); no off-state check
of the frame goes on (R124); the PL switches turn off (R147). -/
def State.leaveOn (s : State) (d : Nat) (q : DomSt) : State :=
  let s1 := s.freeze d
  let s2 :=
    if d = domCan then s1.canLeaves
    else if d = domLin then forEach 4 (fun t m => t.setLin m (fun x => { x with cur := none, hdrEnd := 0, pulse := none })) s1
    else if d = domEth then s1.ethLeaves
    else if d = domLed then s1.ledOff
    else if d = domInp then (s1.vsOff).dropSamples
    else if d = domPress then s1.plOff
    else if d = 3 ∨ d = 4 ∨ d = 5 then
      forEach 56 (fun t o => if domOf o = d then t.setOut o (fun x => { x with dg := { x.dg with chkOk := false } }) else t) s1
    else s1
  if 16 ≤ d then s2.setBankState (d - 16) q
  else s2.setDom d (fun x => { x with st := q, waking := false, down := none })

/-- What a domain has lost in OFF returns to its reset value (R433). -/
def State.lost (s : State) (d : Nat) : State :=
  match d with
  | 1 => s.coreLost 0
  | 2 => s.coreLost 1
  | 3 | 4 | 5 => s.swWake d
  | 6 => s.prsLost.mclear (ucodeBase 0) (ucodeBase 6)
  | 7 => s.ledLost
  | 8 => s.inpLost
  | 9 => s.canWake true
  | 10 => s.linLost
  | 12 => s.timLost
  | 13 => s.accLost
  | 14 => s.secLost
  | _ => s

/-- Jobs that wait for a core's domain become ready (R46). -/
def State.jobsWake (s : State) (c : Nat) : State :=
  { s with frm := { s.frm with jobs := s.frm.jobs.map (fun r => match r with
    | .waking k p => if k.val = c then .ready k p else .waking k p
    | r => r) } }

/-- A domain reaches ON (R436). -/
def State.wakeDone (s : State) (d : Nat) : State :=
  let was := (nth s.pwr.dom d {}).st
  let s0 := if d = domLed then s.ledCountAll else s
  let s1 := s0.setDom d (fun x => { x with st := .on, waking := false })
  let s2 := if was = .off then s1.lost d else if d = domCan ∧ was = .ret then s1.canWake false else s1
  if d = 1 ∨ d = 2 then s2.jobsWake (d - 1) else if d = domPress then s2.loaderStore else s2

/-- DOMAIN_WAKE_COMPLETE: a domain that wakes reaches ON (R436, R442). -/
def execDomainWakeComplete (d : Fin 32) (s : State) : Out :=
  .next (if (nth s.pwr.dom d {}).waking && s.domainsWake then s.wakeDone d else s)

/-- A domain takes RET or OFF. From OFF to RET its contents stay lost. -/
def State.goTo (s : State) (d : Nat) (q : DomSt) : State :=
  match (nth s.pwr.dom d {}).st, q with
  | .on, _ => s.leaveOn d q
  | .off, .ret => (s.lost d).setDom d (fun x => { x with st := .ret, waking := false, down := none })
  | _, _ => s.setDom d (fun x => { x with st := q, waking := false, down := none })

/-! ### Requests and locks (R435, R437) -/

/-- A request of RET or OFF for a domain is refused (R435, R497): an output of it has an effective command that is on, a thread runs a
profile, or the NM block demands CAN. -/
def State.domRefused (s : State) (d : Nat) : Bool :=
  match d with
  | 3 | 4 | 5 => (upto 56).any (fun o => domOf o == d && s.effOn o)
  | 6 => (upto 12).any (fun ch => (s.effPl ch).on || (s.coil ch).st.active)
  | 7 => (upto 24).any (fun n => (s.effLed n).1 != 0)
  | 8 => (upto 4).any s.effVs
  | 9 => s.nmDemands
  | 13 => s.acc.srch.phase != 0 || s.acc.srch.retry || s.acc.permit.isSome || s.scanRun
  | _ => false

/-- A refusal. -/
def State.domReject (s : State) : State := s.setBit F.pwrStatDrej

/-- PWR.DCTL[d].REQ applied (R435): 0 ON, 1 RET, 2 OFF; AON, the Granary banks and code 3 ignore it. -/
def State.applyDctl (s : State) (d : Nat) (w : Word) : State :=
  let v := getBits w 0 2
  if d = 0 ∨ 16 ≤ d ∨ v = 3 then s
  else if v = 0 then
    if s.domLocked d then s.lockAccess
    else ((s.setFld (F.pwrDctlReq d) 0).setDom d (fun x => { x with down := none })).demand d
  else
    let q : DomSt := if v = 1 then .ret else .off
    if s.domLocked d ∧ q = .ret then s
    else if s.domRefused d then s.domReject
    else
      let s1 := s.setFld (F.pwrDctlReq d) v
      if d = 1 ∨ d = 2 then s1.setDom d (fun x => { x with down := some q }) else s1.goTo d q

/-- One bit of PWR.LOCK newly set (R437). -/
def State.lockDomain (s : State) (d : Nat) : State :=
  if s.domRefused d then s.domReject
  else
    let s1 := s.setFld F.pwrLockLk (s.fld F.pwrLockLk ||| 2 ^ d)
    if d = 1 ∨ d = 2 then (s1.setFld (F.pwrDctlReq d) 2).setDom d (fun x => { x with down := some .off })
    else if 16 ≤ d then
      (s1.setFld (F.grnBpwrState (d - 16)) 2).setGbank (d - 16) (fun x => { x with down := some .off })
    else (s1.setFld (F.pwrDctlReq d) 2).goTo d .off

/-- PWR.LOCK applied (R437): bits that clear unlock; bits that newly set are judged one by one. -/
def State.applyLock (s : State) (w : Word) : State :=
  let old := s.fld F.pwrLockLk
  let new := w.toNat / 2 * 2
  let s1 := s.setFld F.pwrLockLk (old &&& new)
  forEach 32 (fun t d => if new.testBit d && !old.testBit d then t.lockDomain d else t) s1

/-- The staged requests of domains, which act after the commit of their edge (R435, R437); `none` for any other register. -/
def State.applyPwr (s : State) (a : Nat) (w : Word) : Option State :=
  if a = 0x40080044 then some (s.applyLock w)
  else if 0x40080100 ≤ a ∧ a < 0x40080180 then some (s.applyDctl ((a - 0x40080100) / 4) w)
  else none

/-- A core has nothing to do: no task runs or is ready, and its context stack is empty (R435). -/
def State.coreIdle (s : State) (c : Fin 2) : Bool :=
  let k := s.cr c
  !k.busy && k.stack.isEmpty && (s.bestReady c).isNone

/-- A requested RET or OFF of a core's domain takes effect once the core is idle and no halt holds it (R435); the stores in its buffer
complete first. -/
def State.coreDown (s : State) (c : Fin 2) : State :=
  let h := (s.cr c).halt
  match (nth s.pwr.dom (1 + c) {}).down with
  | some q =>
    if s.coreIdle c && !h.dbg && !h.echo && !h.trap && s.clocksRun then
      let s1 := s.drainAll c
      if (s1.drainWaits c).isSome then s1 else s1.goTo (1 + c) q
    else s
  | none => s

/-- The end of an edge: the domain of a core that is idle at it goes down there (R435, R440). -/
def State.coresDown (s : State) : State := (s.coreDown 0).coreDown 1

/-- CORE_DOMAIN_DOWN: a request that waited for its core to be idle takes effect (R435). -/
def execCoreDomainDown (c : Fin 2) (s : State) : Out := .next (s.coreDown c)

/-! ### Supply groups at an edge (R421, R422, R424, R446) -/

/-- A group's flags for the frame that opens: what holds at the edge holds in it. -/
def Grp.open_ (x : Grp) : Grp := { x with
  dipF := x.dipOff
  ovF := x.ovOff
  revF := x.reversed }

/-- The outputs of a group return at this edge: from dip-off at 5.0 V or more, from over-voltage-off at 58 V or less, after a
reversal at 6 V or more (R132, R422). -/
def State.groupBack (s : State) (g : Nat) : Bool :=
  let x := s.grp g
  let mv := s.pin (.vbat g)
  !x.reversed && (x.dipOff || x.ovOff || x.revWait) && (!x.dipOff || decide (5000 ≤ mv)) && (!x.ovOff || decide (mv ≤ 58000))
    && (!x.revWait || decide (6000 ≤ mv))

/-- A group at an edge: its holds end as its voltage allows, and its sources set. -/
def State.groupEdge (s : State) (g : Nat) : State :=
  let mv := s.pin (.vbat g)
  let x := s.grp g
  let dipEnds := x.dipOff && decide (5000 ≤ mv)
  let s1 := s.setGrp g (fun y => { y with
    dipOff := y.dipOff && !dipEnds
    ovOff := y.ovOff && decide (58000 < mv)
    revWait := y.revWait && (y.reversed || decide (mv < 6000)) })
  let s2 := if dipEnds then s1.raiseSource 28 else s1
  let s3 := if mv < 6000 ∨ 58000 < mv then s2.raiseSource (24 + g) else s2
  if mv < -1000 then s3.raiseSource 27 else s3

/-- The supplies at an edge: readings, groups, source 30, and source 28 at the resume edge after a dip (R426). -/
def State.pwrEdge (s : State) : State :=
  let s1 := forEach 3 State.groupEdge s.readSupplies
  let s2 := if 140 * 16 ≤ s.pin .tlog then s1.raiseSource 30 else s1
  match s.pwr.resumed with
  | some (false, _) => s2.raiseSource 28
  | _ => s2

/-- The level that GPIOn is driven to: none while OE is 0, in a logic dip, and while the logic is unpowered (R650, R661). -/
def State.gpioDrive (s : State) (n : Nat) : Option Bool :=
  if s.inDip || s.unpowered || !(s.fld F.gpioGpdirOe).testBit n then none else some ((s.fld F.gpioGpoutOut).testBit n)

/-- The pull on GPIOn: up or down; with both bits set the pull-up alone (R662). -/
def State.gpioPull (s : State) (n : Nat) : Option Bool :=
  if (s.fld F.gpioGppullPu).testBit n then some true else if (s.fld F.gpioGppullPd).testBit n then some false else none

/-- GPIN at an edge: a driven land reads the level driven, any other the level on it (R661). -/
def State.gpioLatch (s : State) : State :=
  s.setReg 0x40080208 (BitVec.ofNat 32 (packBits 16 (fun n => (s.gpioDrive n).getD (s.pin (.gpio n) != 0))))

/-! ### The record (R447) -/

/-- The PWR region of the image. -/
def State.pwrRecords (s : State) : State :=
  let r := s.pwr.resumed
  let dip := match r with
    | some (p, _) => !p
    | none => false
  let park := match r with
    | some (p, _) => p
    | none => false
  let per := fun (p : Grp → Bool) => packBits 3 (fun g => p (s.grp g))
  let w := b2n dip + 2 * b2n park + 4 * b2n (decide (15000 ≤ s.pin .vhold)) + 8 * per (·.dipF) + 64 * per (·.ovF) + 512 * per (·.revF)
    + 4096 * b2n (s.fld F.pwrRegSpfor != 7)
  let s1 := forEach 3 (fun t g => t.putIn (0x2F04 + 4 * g) (TWord.int (t.pin (.vbat g)))) (s.putIn 0x2F00 (TWord.nat w))
  let s2 := (s1.putIn 0x2F10 (TWord.int (s.pin .vhold))).putIn 0x2F14 (TWord.int (s.pin .tlog))
  let s3 := s2.putIn 0x2F18 (TWord.nat (packBits 32 s.domOn))
  let s4 := s3.putIn 0x2F1C (TWord.nat (packBits 32 (fun d => d != 0 && decide ((nth s.pwr.dom d {}).st = .ret))))
  s4.putIn 0x2F20 (TWord.nat (match r with
    | some (_, us) => min (2 ^ 32 - 1) us
    | none => 0))

/-- What the record reports of a frame is cleared for the next one. -/
def State.pwrClear (s : State) : State := { s with pwr := { s.pwr with grp := s.pwr.grp.map Grp.open_ } }

end Sys2Proof.Machine
end

