-- ==== Sys2Proof/Machine/Bus.lean ====
section
/-!
DEFINITION. Accesses to the address map: peripheral registers, images, stores (R4 to R11, R26 to R32, R58 to R64, R305 to R308).
-/

namespace Sys2Proof.Machine

/-- What an access does: it completes, a load with its word; it waits for a domain to be ON; it is a trap to a core and a FAULT on
the link (ALIGN, BUS, PRIV, TYPE of the stored value, DATA); or it is a use that the device does not check. -/
inductive BusRes where
  | ok (v : TWord) (s : State)
  | wait (d : Nat)
  | align
  | bus
  | priv
  | type
  | data (s : State)
  | unchecked (rule : Nat)

/-- A completed store. -/
abbrev BusRes.stored (s : State) : BusRes := .ok TWord.nil0 s

/-- An access to storage that a domain holds (R434, R436, R437): locked off it gives NIL 0 and drops a store; asleep it waits. -/
def State.inDomain (s : State) (d : Nat) (f : State → TWord × State) : BusRes :=
  if s.domLocked d then .ok TWord.nil0 s.lockAccess
  else if s.domOn d then .ok (f s).1 (f s).2
  else .wait d

/-! ### Peripheral registers -/

/-- Every bit of a register is absent (R577). -/
def State.absent (s : State) (a : Nat) : Bool := absentMask s.feat a == 0xFFFFFFFF

/-- A CAN register's offset in its controller, and the controller. -/
def canOff (a : Nat) : Nat × Nat := ((a % 0x10000) / 0x2000, a % 0x2000)

/-- A load of a peripheral register by a master, with what the load does (R11, R64, R434, R456, R464, R511, R548). -/
def State.loadPeriph (s : State) (m : Master) (a : Nat) : BusRes :=
  let k := masterNum m
  let nat := fun (w : Word) => (⟨Tag.nat, w⟩ : TWord)
  if a % 4 ≠ 0 then .unchecked 10
  else if s.absent a then .ok TWord.nat0 s
  else if a = 0x40000010 then
    .ok (nat (s.view a)) { s with frm := { s.frm with hiCap := updN s.frm.hiCap k (fun _ => BitVec.ofNat 16 (s.frm.frame.toNat / 2 ^ 32)) } }
  else if a = 0x40000014 then .ok (TWord.nat (nth s.frm.hiCap k 0).toNat) s
  else if a = 0x400C0010 then .ok (nat (s.readCntlo k).1) (s.readCntlo k).2
  else if a = 0x400C0014 then .ok (nat (nth s.tim.cnthi k 0)) s
  else if a = 0x400C0018 then .ok (nat (s.readTlo k).1) (s.readTlo k).2
  else if a = 0x400C001C then .ok (nat (nth s.tim.thi k 0)) s
  else if a = 0x400E0028 then .ok (nat (s.view a)) (s.urawAccess none 0)
  else if 0x40090000 ≤ a ∧ a < 0x4009C000 ∧ 0x800 ≤ (canOff a).2 ∧ (canOff a).2 < 0xC00 then
    s.inDomain domCan (fun t => t.portRead k (canOff a).1 (((canOff a).2 - 0x800) / 4))
  else if 0x40090000 ≤ a ∧ a < 0x4009C000 ∧ 0xC00 ≤ (canOff a).2 ∧ (canOff a).2 < 0xC48 then
    s.inDomain domCan (fun t => (t.queueWord (canOff a).1 (((canOff a).2 - 0xC00) / 4), t))
  else if 0x40140000 ≤ a ∧ a < 0x40144000 ∧ 0x400 ≤ a % 0x1000 ∧ a % 0x1000 < 0x800 then
    s.inDomain domLin (fun t => (nat (t.view a), t))
  else .ok (⟨if ((Regs.row? a).map (·.int)).getD false then Tag.int else Tag.nat, s.view a⟩) s

/-- The block of a register runs, so that its stopped-only fields may not change (R7, R8). -/
def State.blockRuns (s : State) (a : Nat) : Bool :=
  match a / 0x10000 with
  | 0x4001 => s.bit F.swStrcfgEn
  | 0x4009 => decide ((s.cn (canOff a).1).run ≠ .stopped) || s.bit (F.canCtlRun (canOff a).1)
  | 0x400A => s.bit F.nmCfgEn
  | 0x400B => s.bit F.ethCfgEn
  | 0x400D => s.bit F.balCfgEn
  | 0x400E => s.bit F.accCfgEn
  | 0x4014 => s.bit (F.linCfgEn ((a % 0x10000) / 0x1000))
  | _ => false

/-- Some stopped-only field of a row would change. -/
def RegRow.changesStopped (r : RegRow) (old w : Word) : Bool :=
  r.fields.any (fun f => f.acc == .rwStopped && getBits w f.lo (f.hi + 1 - f.lo) != getBits old f.lo (f.hi + 1 - f.lo))

/-- The word after a store of `w`: RW fields taken, W1C bits cleared, anything else kept (R4, R7). -/
def RegRow.stored (r : RegRow) (old w : Word) : Word :=
  let raw := fun (f : FldSpec) (w : Word) => getBits w f.lo (f.hi + 1 - f.lo)
  let s1 := r.merge (·.acc == .rw) FldSpec.take old w
  let s2 := r.merge (·.acc == .rwStopped) raw s1 w
  r.merge (·.acc == .w1c) (fun f w => raw f (old &&& ~~~w)) s2 w

/-- A word stored to a register, its bits of absent features as the register holds them (R577). -/
def State.keepAbsent (s : State) (a : Nat) (w : Word) : Word :=
  let mask := BitVec.ofNat 32 (absentMask s.feat a)
  (w &&& ~~~mask) ||| (s.reg a &&& mask)

/-- A store writes a stopped-only field of a block that runs (R7, R8): ACC.URAW, whose access is then ignored (R548), is no such
field. -/
def State.writesStopped (s : State) (r : RegRow) (a : Nat) (w : Word) : Bool :=
  r.changesStopped (s.reg a) (s.keepAbsent a w) && s.blockRuns a && a != 0x400E0028

/-- A store to a register by its fields alone (R4): staged fields are held, the others act at once; the bits of absent features keep
what they hold (R577). -/
def State.plainStore (s : State) (r : RegRow) (a : Nat) (w : Word) : State :=
  let s1 := s.setReg a (s.keepAbsent a (r.stored (s.reg a) w))
  if r.fields.any (·.acc == .st) then s1.holdFw a (s.keepAbsent a w) else s1

/-- A block ignores a store from JOB mode and sets its PRIVREJ (R257, R395, R448, R564, R582, R583, R628): the field; none where the
block takes it. -/
def jobIgnored (a : Nat) : Option Fld :=
  match a / 0x10000 with
  | 0x4005 => if a = 0x40050014 then none else some F.winStatPrivrej
  | 0x4006 => some F.echStatPrivrej
  | 0x4008 => some F.pwrStatPrivrej
  | 0x400E => if a = 0x400E002C ∨ a = 0x400E003C ∨ a = 0x400E0040 then some F.accStatPrivrej else none
  | 0x400F => some F.hstStatPrivrej
  | 0x4010 => some F.secStatPrivrej
  | 0x4011 => some F.silStatPrivrej
  | 0x4012 => some F.glnStatPrivrej
  | _ => none

/-- A write of FRM.SEV (R52). -/
def State.sev (s : State) (w : Word) : State := forEach 32 (fun t b => if w.getLsbD b then t.raiseEvent (96 + b) else t) s

/-- Stores of the FRM, PRS, WIN, ECH, GRN and PWR blocks that do more than their fields say; none for the others. -/
def State.storeCoreSide (s : State) (m : Master) (r : RegRow) (a : Nat) (w : Word) : Option BusRes :=
  let done := fun (t : State) => some (BusRes.stored t)
  if a = 0x4000002C then done (s.sev w)
  else if a = 0x40010020 then
    let t := s.plainStore r a w
    done { t with sw := { t.sw with strOn := t.sw.strOn && w.getLsbD 0 } }
  else if 0x40020040 ≤ a ∧ a < 0x40020058 then done (s.setRun ((a - 0x40020040) / 4) (w.getLsbD 0))
  else if a = 0x40050008 then done (s.setReg a ((r.stored (s.reg a) w) ||| (s.reg a &&& 1#32)))
  else if a = 0x40050014 then done (s.swset w)
  else if 0x40050020 ≤ a ∧ a < 0x40050038 then done (s.stickyClear ((a - 0x40050020) / 4) w)
  else if 0x40050040 ≤ a ∧ a < 0x40050058 then done (s.sourceForce ((a - 0x40050040) / 4) w)
  else if a = 0x40060008 then done (s.setReg a (s.reg a ||| (w &&& 1#32)))
  else if a = 0x4006000C then done (s.crstWrite m w)
  else if 0x40060100 ≤ a ∧ a ≤ 0x40060110 ∧ s.bit F.echCtlLock then done (s.setBit F.echStatSpgrej)
  else if 0x40070100 ≤ a ∧ a < 0x40070140 then
    some (match s.ownWrite (Master.who m) ((a - 0x40070100) / 4) w with
      | .ok t => .stored t
      | .error n => .unchecked n)
  else if 0x40070140 ≤ a ∧ a < 0x40070180 then done (s.bankWrite ((a - 0x40070140) / 4) w)
  else if a = 0x40080014 then
    let t := s.setReg a (w &&& 0x7FFFFFFF#32)
    done { t with pwr := { t.pwr with aonAt := t.count } }
  else if a = 0x40080038 then
    done (forEach 3 (fun t g => if w.getLsbD g then t.setGrp g (fun x => { x with latch := false }) else t) (s.setReg a (s.reg a &&& ~~~w)))
  else none

/-- A write of CANn.CTL (R451, R467). -/
def State.canCtl (s : State) (n : Nat) (r : RegRow) (a : Nat) (w : Word) : State :=
  let run := w.getLsbD 0
  let s1 := s.setReg a (setBits (r.stored (s.reg a) w) 0 1 (s.fld (F.canCtlRun n)))
  let s2 := if run != s.bit (F.canCtlRun n) then s1.canRun n run else s1
  if w.getLsbD 4 then s2.canRecover n else s2

/-- Stores of the CAN controllers. -/
def State.storeCan (s : State) (m : Master) (r : Option RegRow) (a : Nat) (w : Word) : Option BusRes :=
  let n := (canOff a).1
  let o := (canOff a).2
  let done := fun (t : State) => some (BusRes.stored t)
  if o = 4 then done (match r with
    | some x => s.canCtl n x a w
    | none => s)
  else if o = 0x2C then done (if w.getLsbD 0 then s.queueAck n else s)
  else if o = 0x30 then done (if w.getLsbD 0 then s.abandon n (masterNum m) else s)
  else if 0x34 ≤ o ∧ o < 0x48 ∧ 2 ≤ n then done s
  else if 0x400 ≤ o ∧ o < 0x800 then done (s.objCfg n ((o - 0x400) / 4) w)
  else if 0x800 ≤ o ∧ o < 0xC00 then
    some (s.inDomain domCan (fun t => (TWord.nil0, t.portWrite (masterNum m) n ((o - 0x800) / 4) w)))
  else none

/-- Stores of the LIN, NM, ETH, TIM and ACC blocks that do more than their fields say. -/
def State.storeNet (s : State) (job : Bool) (r : RegRow) (a : Nat) (w : Word) : Option BusRes :=
  let o := a % 0x10000
  let lin := o / 0x1000
  let p := o % 0x1000
  let done := fun (t : State) => some (BusRes.stored t)
  match a / 0x10000 with
  | 0x4014 =>
    if p = 4 then
      let s1 := s.setReg a (setBits (r.stored (s.reg a) w) 0 1 (s.fld (F.linCfgEn lin)))
      done (if w.getLsbD 0 != s.bit (F.linCfgEn lin) then s1.linEnable lin (w.getLsbD 0) else s1)
    else if p = 0xC then done (s.linHeader lin (getBits w 0 6))
    else if p = 0x10 then done (if w.getLsbD 0 then s.linWake lin else s)
    else if 0x400 ≤ p ∧ p < 0x800 then
      some (s.inDomain domLin (fun t => (TWord.nil0, if t.linDir lin ((p - 0x400) / 16) = 2 ∧ p % 16 < 8 then t.linStore lin a w else t)))
    else none
  | 0x400A =>
    if o = 8 then
      let s1 := s.setReg a (r.stored (s.reg a) w)
      done (if w.getLsbD 0 && !s.bit F.nmCfgEn then s1.nmStart else s1)
    else if o = 0x24 then done (if w.getLsbD 0 then s.nmClear else s)
    else none
  | 0x400B =>
    if o = 8 then
      let s1 := s.setReg a (r.stored (s.reg a) w)
      done (if w.getLsbD 0 && !s.bit F.ethCfgEn then s1.ethStart else s1)
    else if 0x40 ≤ o ∧ o < 0x48 then done (s.portCfg ((o - 0x40) / 4) w) else none
  | 0x400D =>
    if o = 8 then
      let s1 := s.setReg a (r.stored (s.reg a) w)
      done (if w.getLsbD 0 && !s.bit F.balCfgEn then s1.setBal (fun b => { b with dport := s.fld F.balPortsDport }) else s1)
    else none
  | 0x400C => if o = 0x54 then done (s.armAlarm w) else none
  | 0x400E =>
    if o = 8 then
      let s1 := s.setReg a (r.stored (s.reg a) w)
      done (if !w.getLsbD 0 then s1.accStop else if s.bit F.accCfgEn then s1 else s1.accStart)
    else if o = 0x28 then done (s.urawAccess (some w) (s.pin .umiso).toNat)
    else if o = 0x3C then done (s.pepochWrite w job)
    else none
  | _ => none

/-- COMMIT.GO written by the host (R39, R578): the commit is staged for the coming edge; within 20 µs of it for the one after it, and
HOSTROLL sets. -/
def State.hostCommit (s : State) : State :=
  let s1 := { s with hst := { s.hst with commit := some (s.frm.frame.toNat + (if s.past 20 then 2 else 1)) } }
  if s.past 20 then s1.setBit F.frmStatHostroll else s1

/-- Stores of the HST, SEC, SIL, GLN and DBG blocks that do more than their fields say. -/
def State.storeSys (s : State) (m : Master) (job : Bool) (a : Nat) (w : Word) : Option BusRes :=
  let o := a % 0x10000
  let host := decide (m = .host)
  let done := fun (t : State) => some (BusRes.stored t)
  match a / 0x10000 with
  | 0x400F =>
    if 0x30 ≤ o ∧ o < 0x40 then done (if host && !s.bit F.hstStatNegd then s.setReg a w else s)
    else if o = 0x40 then done (if host && !s.bit F.hstStatNegd && w.getLsbD 0 then s.hostCommit else s)
    else if host && (o = 8 || o = 0xC || o = 0x14) then done s
    else none
  | 0x4010 =>
    if o = 0x18 then done (s.jdoneClear w job)
    else if o = 0x1C then done (s.hctl w job)
    else if o = 0x20 then done (s.recoverWrite w job)
    else if o = 0x24 then done (s.rctlWrite w job)
    else if o = 0x28 ∧ s.sec.rcvr = false then done s
    else if o = 0x2C then done (s.rdataWrite w (s.pin .rpages).toNat job)
    else if 0x110 ≤ o ∧ o < 0x120 then done (s.drespWrite ((o - 0x110) / 4) w job)
    else none
  | 0x4011 =>
    if o = 8 then
      some (match s.siloWrite (getBits w 0 3) job with
        | .next t => .stored t
        | .fault (.uncheckedUse n) => .unchecked n
        | .refused _ => .stored s)
    else none
  | 0x4012 => if o = 0x28 then done (s.frcWrite w job) else none
  | 0x4013 =>
    if m ≠ .link then done s
    else if o = 8 then done (s.dbgCtl 0 w)
    else if o = 0xC then done (s.dbgCtl 1 w)
    else none
  | _ => none

/-- A store to a peripheral register by a master; `job` says that a core makes it in JOB mode (R4 to R11). -/
def State.storePeriph (s : State) (m : Master) (job : Bool) (a : Nat) (v : TWord) : BusRes :=
  let row := Regs.row? a
  if a % 4 ≠ 0 then .unchecked 10
  else if s.absent a then .stored s
  else match job, jobIgnored a with
  | true, some f => .stored (s.setBit f)
  | _, _ =>
    match (if 0x40090000 ≤ a ∧ a < 0x4009C000 ∧ (row.map (fun r => s.writesStopped r a v.val)).getD false = false then
        s.storeCan m row a v.val else none), row with
    | some b, _ => b
    | none, none => .stored s
    | none, some r =>
      if r.ptr && m != .host && v.tag != Tag.ptr then .type
      else if s.writesStopped r a v.val then .unchecked 7
      else
        match s.storeCoreSide m r a v.val with
        | some b => b
        | none =>
          match s.storeNet job r a v.val with
          | some b => b
          | none =>
            match s.storeSys m job a v.val with
            | some b => b
            | none => .stored (s.plainStore r a v.val)

/-! ### Images -/

/-- The cores that have sealed in the frame, as bits (FRM.SEALED). -/
def State.sealedCores (s : State) : Nat := s.fld F.frmSealedCores

/-- The staging image is sealed (R28, R29). -/
def State.imageSealed (s : State) : Bool := s.fld F.frmSealmaskMask &&& s.sealedCores == s.fld F.frmSealmaskMask

/-- The seal deadline has passed (R28). -/
def State.pastDeadline (s : State) : Bool := s.past 5

/-- A word written in the staging image. -/
def stagePut (l : List (Nat × TWord)) (o : Nat) (w : TWord) : List (Nat × TWord) := l.filter (fun p => p.1 ≠ o) ++ [(o, w)]

/-- A store to the staging image by a core, or by the link, at an offset (R27, R31, R32, R61, R577): the whole word with its tag (R271). -/
def State.stageStore (s : State) (m : Master) (o : Nat) (w : TWord) : State :=
  let hasSealed := match m with
    | .core c => s.sealedCores.testBit c
    | _ => false
  if !cmdWord o || !s.feat (cmdFeat o) then s
  else if hasSealed || (s.pastDeadline && s.imageSealed) then s.setBit F.frmStatSealwr
  else { s with frm := { s.frm with staging := stagePut s.frm.staging o w } }

/-- A word of the committed output view (R62). -/
def State.viewOut (s : State) (o : Nat) : TWord :=
  if o = 0 then TWord.nat 0x00030001
  else if o = 4 then TWord.nat s.frm.frame.toNat
  else if o = 8 then TWord.nat (s.frm.frame.toNat / 2 ^ 32)
  else if cmdWord o && s.feat (cmdFeat o) then s.committedT o
  else TWord.nat0

/-- A word of the staging image (R27, R62). -/
def State.viewStaging (s : State) (o : Nat) : TWord :=
  let next := (s.frm.frame.toNat + 1) % 2 ^ 48
  if o = 0 then TWord.nat 0x00020001
  else if o = 4 then TWord.nat next
  else if o = 8 then TWord.nat (next / 2 ^ 32)
  else if o = 0xC then TWord.nat s.sealedCores
  else match s.staged? o with
    | some w => if s.feat (cmdFeat o) then w else TWord.nat0
    | none => s.viewOut o

/-- A load from the input image waits until I_k is ready (R26): COUNT stands at E_k + 2 µs or later. -/
def State.imageReady (s : State) : State := s.advance (s.frm.edgeAt + 2 * ticksPerUs)

/-! ### The address map (R305) -/

/-- The ranges of the address map. -/
inductive Region where
  | rom | nearI (c : Nat) | nearD (c : Nat) | granary | xspi | input | staging | committed | periph | ucode | custom | unmapped
deriving DecidableEq, Repr

/-- The range that an address lies in. -/
def regionOf (a : Nat) : Region :=
  if a < 0x18000 then .rom
  else if inStore (nearI 0) a then .nearI 0
  else if inStore (nearI 1) a then .nearI 1
  else if inStore (nearD 0) a then .nearD 0
  else if inStore (nearD 1) a then .nearD 1
  else if inGranary a then .granary
  else if 0x20000000 ≤ a ∧ a < 0x24000000 then .xspi
  else if 0x30000000 ≤ a ∧ a < 0x30010000 then .input
  else if 0x30010000 ≤ a ∧ a < 0x30020000 then .staging
  else if 0x30020000 ≤ a ∧ a < 0x30030000 then .committed
  else if 0x40000000 ≤ a ∧ a < 0x40150000 then .periph
  else if 0x50000000 ≤ a ∧ a < 0x50003000 then .ucode
  else if 0x50100000 ≤ a ∧ a < 0x50102000 then .custom
  else .unmapped

/-- A region that only SUP mode reaches: the other core's near stores and the custom region (R284, R305, R352). -/
def Region.supOnly (r : Region) (m : Master) : Bool :=
  match r, m with
  | .nearI c, .core k => c != k.val
  | .nearD c, .core k => c != k.val
  | .custom, _ => true
  | _, _ => false

/-- A load of a near store word, whose parity may be wrong (R317). -/
def State.nearLoad (s : State) (c a : Nat) (v : TWord) (e : Ecc) : BusRes :=
  if s.domOn (1 + c) ∧ s.domLocked (1 + c) = false ∧ s.eccOf e a ≠ .clean then .data (s.raiseSource 15)
  else s.inDomain (1 + c) (fun t => (v, t))

/-- A load of the Granary: an asleep bank of the requester waits; an uncorrectable word is a DATA trap to a core (R409, R410). -/
def State.grnLoad (s : State) (m : Master) (a : Nat) (e : Ecc) : BusRes :=
  let who := Master.who m
  match s.sleepingBank who a with
  | some b => .wait (16 + b)
  | none =>
    let r := s.grnRead who a e
    let core := match m with
      | .core _ => true
      | _ => false
    if core && decide (s.eccOf e a = .double) && s.mayUse who (bankOf a) && !s.domLocked (16 + bankOf a) then .data r.2 else .ok r.1 r.2

/-- A load through the address map by a master, in SUP mode or not, with what the check bits of a loaded word say (R305, R306). -/
def State.loadAddr (s : State) (m : Master) (sup : Bool) (a : Nat) (e : Ecc) : BusRes :=
  let r := regionOf a
  if r.supOnly m && !sup then .priv
  else if r = .unmapped then .bus
  else if r ≠ .periph ∧ a % 4 ≠ 0 then .align
  else match r with
  | .rom => .ok (Config.romWord (a / 4)) s
  | .nearI c => s.nearLoad c a ⟨Tag.raw, (s.mread a).val⟩ e
  | .nearD c => s.nearLoad c a (s.mread a) e
  | .granary => s.grnLoad m a e
  | .xspi => s.inDomain domXspi (fun t =>
      (if t.xBusy then TWord.nil0 else ⟨Tag.raw, BitVec.ofNat 32 (leNat (t.flashBytes (a - 0x20000000) 4))⟩, t))
  | .input => .ok (s.inWord (a - 0x30000000)) s.imageReady
  | .staging => .ok (s.viewStaging (a - 0x30010000)) s
  | .committed => .ok (s.viewOut (a - 0x30020000)) s
  | .periph => s.loadPeriph m a
  | .ucode => s.inDomain domPress (fun t => (⟨Tag.nat, (t.mread a).val &&& 0xFFFFFF#32⟩, t))
  | .custom =>
    if a = 0x50100100 then .ok ⟨Tag.nat, s.reg a⟩ s
    else if a < 0x50100100 ∨ 0x50101000 ≤ a then .ok ⟨Tag.nat, (s.mread a).val⟩ s
    else .ok TWord.nat0 s
  | .unmapped => .bus

/-- A word of the custom region stored; a word of 0 is as an empty one. -/
def State.customStore (s : State) (a : Nat) (w : Word) : State :=
  if a = 0x50100100 then s.setReg a (s.reg a ||| (w &&& 1#32))
  else if a < 0x50100100 ∨ 0x50101000 ≤ a then (s.heal a).mwrite a (if w = 0 then TWord.nil0 else ⟨Tag.nat, w⟩)
  else s

/-- A store through the address map by a master, in SUP mode or not (R305, R306). -/
def State.storeAddr (s : State) (m : Master) (sup : Bool) (a : Nat) (v : TWord) : BusRes :=
  let r := regionOf a
  let who := Master.who m
  if r.supOnly m && !sup then .priv
  else if r = .unmapped then .bus
  else if r ≠ .periph ∧ a % 4 ≠ 0 then .align
  else match r with
  | .rom | .xspi | .input | .committed => .stored s
  | .nearI c => s.inDomain (1 + c) (fun t => (TWord.nil0, t.storeMem who a v))
  | .nearD c => s.inDomain (1 + c) (fun t => (TWord.nil0, t.storeMem who a v))
  | .granary => match s.sleepingBank who a with
    | some b => .wait (16 + b)
    | none => .stored (s.grnWrite who a v)
  | .staging => .stored (s.stageStore m (a - 0x30010000) v)
  | .periph => s.storePeriph m (!sup) a v
  | .ucode => s.inDomain domPress (fun t =>
      (TWord.nil0, t.setUcode ((a - 0x50000000) / 0x800) ((a % 0x800) / 4) v.val))
  | .custom => if (s.reg 0x50100100).getLsbD 0 then .bus else .stored (s.customStore a v.val)
  | .unmapped => .bus

/-! ### Commands -/

/-- A core's buffered stores leave before its peripheral or image access (R301); whether they all have. -/
def State.drained (s : State) (m : Master) : Bool × State :=
  match m with
  | .core c => let t := s.drainAll c; ((t.drainWaits c).isNone, t)
  | _ => (true, s)

/-- REGISTER_WRITE: a master stores a word to a peripheral register (R4 to R11). Where its tag is not the one that the table requires,
the register keeps its value, and a core takes the TYPE trap (R11, R291). -/
def execRegisterWrite (m : Master) (job : Bool) (a : Nat) (v : TWord) (s : State) : Out :=
  let d := s.drained m
  if s.inDip then .next (s.stall (.registerWrite m job a v))
  else if s.storesOff ∨ (m = .link ∧ s.linkWrites = false) ∨ regionOf a ≠ .periph then .next s
  else if d.1 = false then .next d.2
  else match d.2.storePeriph m job a v with
    | .ok _ t => .next t
    | .wait k => .next (d.2.demand k)
    | .data t => .next t
    | .unchecked n => .fault (.uncheckedUse n)
    | .type => .next (match m with
      | .core c => if d.2.atInstr c then d.2.trapEnter c 1 (tagVal v.tag 3) (d.2.cr c).pc else d.2
      | _ => d.2)
    | .align | .bus | .priv => .next d.2

/-- FRAMELO_READ: a master reads FRM.FRAMELO, which captures FRAME[47:32] for it (R64); a core's buffered stores leave before (R301). -/
def execFrameloRead (m : Master) (s : State) : Out :=
  .next (s.load (.frameloRead m) (fun s =>
    let d := s.drained m
    if d.1 = false then d.2
    else match d.2.loadPeriph m 0x40000010 with
      | .ok v t => t.deliver m v
      | _ => d.2))

/-- CORE_RESTART: a write of ECH.CRST; a store from JOB mode is ignored (R395); a core's buffered stores leave before (R301). -/
def execCoreRestart (m : Master) (job : Bool) (w : Word) (s : State) : Out :=
  .next (s.store (.coreRestart m job w) (fun s =>
    let d := s.drained m
    if d.1 = false then d.2
    else if job then d.2.setBit F.echStatPrivrej else d.2.crstWrite m w))

/-- OBJECT_PORT_READ: a master reads the port of an object (R456); a core's buffered stores leave before (R301). -/
def execObjectPortRead (m : Master) (n : Fin 6) (o : Fin 256) (s : State) : Out :=
  .next (s.load (.objectPortRead m n o) (fun s =>
    let d := s.drained m
    if d.1 = false then d.2 else State.answer m (d.2.atDomain domCan (·.portRead (masterNum m) n o))))

/-- OBJECT_PORT_WRITE: a master writes the port of an object (R461); a core's buffered stores leave before (R301). -/
def execObjectPortWrite (m : Master) (n : Fin 6) (o : Fin 256) (w : Word) (s : State) : Out :=
  .next (s.store (.objectPortWrite m n o w) (fun s =>
    let d := s.drained m
    if d.1 = false then d.2
    else State.answer m (d.2.atDomain domCan (fun t => ((t.got)[masterNum m]?.getD TWord.nil0, t.portWrite (masterNum m) n o w)))))

/-- LCKREL: a master writes 1 to CANn.LCKREL (R459); a core's buffered stores leave before (R301). -/
def execLckrel (m : Master) (n : Fin 6) (s : State) : Out :=
  .next (s.store (.lckrel m n) (fun s =>
    let d := s.drained m
    if d.1 = false then d.2 else d.2.abandon n (masterNum m)))

/-- SEV: a write of FRM.SEV raises the software events of its bits (R52); no store is made in a class F halt (R248). -/
def execSev (w : Word) (s : State) : Out := .next (s.store (.sev w) (·.sev w))

end Sys2Proof.Machine
end

