-- ==== Sys2Proof/Machine/Host.lean ====
section
/-!
DEFINITION. The host port: messages, transactions, authentication, the Host SPI and the UDP image protocol, feature negotiation
(17_host.md), and the frames that the Ethernet switch receives (R504, R526, R527).
-/

namespace Sys2Proof.Machine

/-- The host block changed. -/
def State.setHst (s : State) (f : Hst → Hst) : State := { s with hst := f s.hst }

/-- A cause of event 75 (R582): 0 commit applied, 1 host reset, 2 TXN refused, 3 authentication failure. -/
def State.hstCause (s : State) (c : Nat) : State :=
  if (s.fld F.hstEvenCause).testBit c then (s.setFld F.hstEvcCause (s.fld F.hstEvcCause ||| 2 ^ c)).raiseEvent 75 else s

/-! ### Messages (R567 to R569, R574) -/

/-- A request as its header and body spell it. -/
structure HostReq where
  type : Nat
  tag : Nat
  auth : Bool
  ctr : Nat
  body : Bytes
deriving DecidableEq, Repr

/-- A message's LEN. -/
def msgLen (b : Bytes) : Nat := leAt b 4 2

/-- The header is wrong (R569): MAGIC, VER, LEN, or a byte that is 0 in requests. -/
def badHeader (b : Bytes) : Bool :=
  let f := b.getD 9 0
  leAt b 0 2 != 0x4D48 || b.getD 2 0 != 1 || msgLen b != b.length || decide (msgLen b < 16 + 8 * (f % 2)) || b.getD 8 0 != 0
    || decide (2 ≤ f) || leAt b 10 2 != 0

/-- The request that a message with a sound header spells. -/
def requestOf (b : Bytes) : HostReq :=
  let auth := (b.getD 9 0) % 2 == 1
  { type := b.getD 3 0, tag := leAt b 6 2, auth := auth, ctr := leAt b 12 4, body := (b.drop 16).take (b.length - 16 - (if auth then 8 else 0)) }

/-- TYPE is a request type and the body's length fits it (R568, R569). -/
def HostReq.fits (r : HostReq) : Bool :=
  let n := r.body.length
  match r.type with
  | 1 => n == 8 && decide (1 ≤ leAt r.body 4 2) && decide (leAt r.body 4 2 ≤ 320) && leAt r.body 6 2 == 0
  | 2 => n % 8 == 0
  | 3 => decide (8 ≤ n) && n % 8 == 0 && r.body.getD 7 0 == 0
  | 4 => n == 0
  | 5 => n == 0
  | _ => false

/-- The MAC of a message under the key of HST.CFG.AKEY (R574). -/
def State.hostMac (s : State) (b : Bytes) : Option Bytes := (s.key128 (s.fld F.hstCfgAkey)).map (fun k => (cmac k b).take 8)

/-- A response: TYPE + 0x80, the request's TAG, its status and body; with the request's CTR and a MAC where it is authenticated
(R567, R568). -/
def State.response (s : State) (r : HostReq) (sealed : Bool) (status : Nat) (body : Bytes) : Bytes :=
  let len := 16 + body.length + (if sealed then 8 else 0)
  let m := leOf 2 0x4D48 ++ [1, (r.type + 0x80) % 256] ++ leOf 2 len ++ leOf 2 r.tag ++ [status, b2n sealed, 0, 0]
    ++ leOf 4 (if sealed then r.ctr else 0) ++ body
  if sealed then m ++ (s.hostMac m).getD (List.replicate 8 0) else m

/-- A READ of HST.ID or HST.ACTR alone, which needs no MAC (R574). -/
def HostReq.exempt (r : HostReq) : Bool :=
  r.type == 1 && leAt r.body 4 2 == 1 && (leAt r.body 0 4 == 0x400F0000 || leAt r.body 0 4 == 0x400F0010)

/-- The authentication of a request (R574): whether it may be performed, and the state with ACTR moved on. -/
def State.authCheck (s : State) (udp : Bool) (b : Bytes) (r : HostReq) : Bool × State :=
  if r.auth then
    let n := b.length - 8
    if s.feat 46 ∧ s.hostMac (b.take n) = some (b.drop n) ∧ s.fld F.hstActrCtr < r.ctr then (true, s.setFld F.hstActrCtr r.ctr)
    else (false, s)
  else (r.exempt || !(s.feat 46 && s.bit F.hstCfgAuthreq) || (!udp && !s.bit F.hstCfgSpiauth), s)

/-! ### Accesses (R565, R566, R570, R571) -/

/-- The host may reach an address (R565). -/
def State.hostReach (s : State) (a : Nat) : Bool :=
  a % 4 == 0 && (match regionOf a with
    | .periph => true
    | .input => true
    | .staging => true
    | .committed => true
    | .granary => s.owner (bankOf a) == 3
    | _ => false)

/-- A field of a register has one of the given access codes; the object ports are written as RW. -/
def hasAccess (a : Nat) (l : List Access) : Bool :=
  (((Regs.row? a).map (fun r => r.fields.any (fun f => l.contains f.acc))).getD false) ||
  (l.contains .rw && decide (0x40090000 ≤ a) && decide (a < 0x4009C000) && decide (0x800 ≤ (canOff a).2) && decide ((canOff a).2 < 0xC00))

/-- The bit of HST.WMASK for an address: its block in the order of the peripheral base table, 21 the output image, 22 the Granary. -/
def wmaskBit (a : Nat) : Nat := match regionOf a with
  | .periph => a / 0x10000 - 0x4000
  | .staging => 21
  | _ => 22

/-- The status of an entry before it is performed: 3 ADDR, 4 RIGHTS, 0 sound. `rule` is the field rule of the request type. -/
def State.entryStatus (s : State) (rule : Nat → Bool) (a : Nat) : Nat :=
  if !s.hostReach a || !rule a then 3 else if (s.fld F.hstWmaskBlk).testBit (wmaskBit a) then 0 else 4

/-- A WRITE may name a field of access RW, W1C or WO, or a Granary word (R571). -/
def writable (a : Nat) : Bool := match regionOf a with
  | .periph => hasAccess a [.rw, .rwStopped, .w1c, .wo]
  | .granary => true
  | _ => false

/-- A TXN may name an ST field or a command word of the staging image (R572). -/
def stageable (a : Nat) : Bool := match regionOf a with
  | .periph => hasAccess a [.st]
  | .staging => cmdWord (a - 0x30010000)
  | _ => false

/-- A domain that a host access waits for is ON when the access is made. -/
def State.hostWake (s : State) (d : Nat) : State :=
  let t := s.demand d
  if (nth t.pwr.dom d {}).waking then t.wakeDone d else t

/-- A bank that a host access waits for does not wake (R409). -/
def State.hostWakeFails (s : State) (d : Nat) : Bool := decide (16 ≤ d) && s.pin (.bankFails (d - 16)) != 0

/-- A word read by the host; NIL 0 where its bank does not wake (R409). -/
def State.hostLoad (s : State) (a : Nat) : Except Nat (TWord × State) :=
  match s.loadAddr .host true a .clean with
  | .ok v t => .ok (v, t)
  | .wait d =>
    if s.hostWakeFails d then .ok (TWord.nil0, s.wakeFailed (d - 16))
    else match (s.hostWake d).loadAddr .host true a .clean with
      | .ok v t => .ok (v, t)
      | _ => .ok (TWord.nil0, s.hostWake d)
  | .unchecked n => .error n
  | .data t => .ok (TWord.nil0, t)
  | .align | .bus | .priv | .type => .ok (TWord.nil0, s)

/-- A word written by the host; its tag is the one that the table requires (R566), NAT in the Granary. It is dropped where its bank does
not wake (R409). -/
def State.hostStore (s : State) (a : Nat) (w : Word) : Except Nat State :=
  match s.storeAddr .host true a ⟨Tag.nat, w⟩ with
  | .ok _ t => .ok t
  | .wait d =>
    if s.hostWakeFails d then .ok (s.wakeFailed (d - 16))
    else match (s.hostWake d).storeAddr .host true a ⟨Tag.nat, w⟩ with
      | .ok _ t => .ok t
      | _ => .ok (s.hostWake d)
  | .unchecked n => .error n
  | .data t => .ok t
  | .align | .bus | .priv | .type => .ok s

/-- Words read in order. -/
def State.hostLoads (s : State) : List Nat → Except Nat (List TWord × State)
  | [] => .ok ([], s)
  | a :: l => match s.hostLoad a with
    | .error n => .error n
    | .ok (v, t) => match t.hostLoads l with
      | .error n => .error n
      | .ok (vs, u) => .ok (v :: vs, u)

/-- What a request answers: status and body, and the state after it; or the rule of an unchecked use. -/
abbrev HostRes := Except Nat ((Nat × Bytes) × State)

/-- Tags, two to a byte (R530, R568). -/
def tagBytes : List TWord → Bytes
  | [] => []
  | [x] => [x.tag.toNat]
  | x :: y :: l => (x.tag.toNat + 16 * y.tag.toNat) :: tagBytes l

/-- A READ (R570). -/
def State.hostRead (s : State) (b : Bytes) : HostRes :=
  let as := (upto (leAt b 4 2)).map (fun i => leAt b 0 4 + 4 * i)
  if as.any (fun a => !s.hostReach a) then .ok ((3, []), s)
  else match s.hostLoads as with
    | .error n => .error n
    | .ok (ws, t) =>
      let tags := tagBytes ws
      let pad := List.replicate ((4 - tags.length % 4) % 4) 0
      .ok ((0, ws.flatMap (fun w => leOf 4 w.val.toNat) ++ tags ++ pad), t)

/-- Entries of ADDR and DATA. -/
def entriesOf : Nat → Bytes → List (Nat × Word)
  | 0, _ => []
  | n + 1, b => (leAt b 0 4, BitVec.ofNat 32 (leAt b 4 4)) :: entriesOf n (b.drop 8)

/-- The entries of a WRITE in order (R571): the status and the number performed. -/
def State.hostWrites (s : State) : List (Nat × Word) → Nat → Except Nat (Nat × Nat × State)
  | [], n => .ok (0, n, s)
  | (a, w) :: l, n =>
    let e := s.entryStatus writable a
    if e ≠ 0 then .ok (e, n, s)
    else if (0x400F0030 ≤ a ∧ a ≤ 0x400F0040) ∧ s.bit F.hstStatNegd then .ok (9, n, s)
    else match s.hostStore a w with
      | .error k => .error k
      | .ok t => t.hostWrites l (n + 1)

/-- A WRITE; during a class F halt the host may not write (R265). -/
def State.hostWrite (s : State) (b : Bytes) : HostRes :=
  if s.win.fhalt then .ok ((4, []), s)
  else match s.hostWrites (entriesOf (b.length / 8) b) 0 with
    | .error n => .error n
    | .ok (e, n, t) => .ok ((e, leOf 2 n), t)

/-! ### Transactions (R39 to R41, R572, R573) -/

/-- The edge that R39 gives a transaction or a commit that closes now. -/
def State.schedule (s : State) : Nat := s.frm.frame.toNat + (if s.past 20 then 2 else 1)

/-- A TXN is refused: TXREJ and cause 2 (R582). -/
def State.txnRej (s : State) : State := (s.setBit F.hstStatTxrej).hstCause 2

/-- A refused TXN. -/
def State.txnRefused (s : State) (status : Nat) : HostRes := .ok ((status, []), s.txnRej)

/-- A transaction held for its edge; without HOSTOUT its writes of the output image are dropped (R41). -/
def State.holdTxn (s : State) (l : List (Nat × Word)) (edge tag : Nat) : State :=
  let image := fun (p : Nat × Word) => regionOf p.1 == .staging
  let out := s.bit F.frmCfgHostout
  let kept := if out then l else l.filter (fun p => !image p)
  let s1 := if !out && l.any image then s.setBit F.frmStatHostrej else s
  let s2 := s1.noteHigh kept
  { s2 with frm := { s2.frm with held := s2.frm.held ++ [.txn kept (kept.any image) edge tag] } }

/-- A TXN. -/
def State.hostTxn (s : State) (b : Bytes) (tag : Nat) : HostRes :=
  let edge := leAt b 0 6
  let strict := (b.getD 6 0) % 2 == 1
  let l := entriesOf ((b.length - 8) / 8) (b.drop 8)
  let bad := (l.map (fun p => s.entryStatus stageable p.1)).find? (· != 0)
  let next := s.frm.frame.toNat + 1
  if s.win.fhalt then s.txnRefused 4
  else match bad with
  | some e => s.txnRefused e
  | none =>
    if 8 ≤ s.txnHeld then s.txnRefused 7
    else if next + 65535 < edge then s.txnRefused 8
    else if edge ≠ 0 ∧ s.schedule ≤ edge then .ok ((0, leOf 6 edge), s.holdTxn l edge tag)
    else if edge ≠ 0 ∧ strict then s.txnRefused 6
    else
      let t := if edge ≠ 0 ∨ s.schedule ≠ next then s.setBit F.frmStatHostroll else s
      .ok ((0, leOf 6 s.schedule), t.holdTxn l s.schedule tag)

/-- A HRESET at its acceptance: held transactions, a staged commit and a pending SPI response are discarded (R580). -/
def State.hostReset (s : State) : State :=
  let keep := s.frm.held.filter (fun h => match h with
    | .fw _ _ _ => true
    | .txn _ _ _ _ => false)
  { s with frm := { s.frm with held := keep }, hst := { s.hst with resp := none, commit := none, reset := true } }

/-! ### A request on a transport -/

/-- A request that is sound in header and type is performed. -/
def State.perform (s : State) (r : HostReq) : HostRes :=
  match r.type with
  | 1 => s.hostRead r.body
  | 2 => s.hostWrite r.body
  | 3 => s.hostTxn r.body r.tag
  | 4 => if s.win.fhalt then .ok ((4, []), s) else .ok ((0, []), s.hostReset)
  | _ => .ok ((0, []), s)

/-- A request is counted as accepted, or as refused or discarded (R581). -/
def State.countReq (s : State) (udp ok : Bool) : State := s.setHst (fun x =>
  if !ok then { x with rej := x.rej + 1 } else if udp then { x with rxUdp := x.rxUdp + 1 } else { x with rxSpi := x.rxSpi + 1 })

/-- A message is taken (R567 to R574): its response and the state after it. A WRITE that performed some of its entries counts as accepted
(R581). -/
def State.hostMessage (s : State) (udp : Bool) (b : Bytes) : Except Nat (Bytes × State) :=
  let r := requestOf b
  if badHeader b then .ok (s.response { r with auth := false } false 1 [], s.countReq udp false)
  else
    let a := s.authCheck udp b r
    if !a.1 then
      let t := (s.setBit F.hstStatAuthf).hstCause 3
      .ok (s.response r false 5 [], (if r.type = 3 then t.txnRej else t).countReq udp false)
    else if !r.fits then
      .ok (a.2.response r r.auth 2 [], (if r.type = 3 then a.2.txnRej else a.2).countReq udp false)
    else match a.2.perform r with
      | .error n => .error n
      | .ok ((e, body), t) => .ok (t.response r r.auth e body, t.countReq udp (e == 0 || (r.type == 2 && leAt body 0 2 != 0)))

/-- The kind of a message: 1 to 5 a sound request of that type, 0 one that is refused for its header or type. -/
def messageKind (b : Bytes) : Nat := if badHeader b || !(requestOf b).fits then 0 else (requestOf b).type

/-! ### The Host SPI (R575, R576) -/

/-- One frame of the Host SPI: `n` bytes are clocked. A pending response leaves if all of it is clocked out. -/
def State.spiOut (s : State) (n : Nat) : State :=
  match s.hst.resp with
  | some r => if r.length ≤ n then s.setHst (fun x => { x with resp := none, said := r }) else s
  | none => s

/-- A frame of the Host SPI is discarded: shorter than its LEN or than a header. -/
def spiShort (b : Bytes) : Bool := decide (b.length < 16) || decide (b.length < msgLen b)

/-- A frame of the Host SPI that carries only 0xFF bytes. -/
def spiIdle (b : Bytes) : Bool := b.all (· == 0xFF)

/-- HIRQn is pulled low: a response is pending (R575). -/
def State.hirqLow (s : State) : Bool := s.hst.resp.isSome

/-- The port works: the logic is powered, no dip holds its accesses (R425), and the device is neither parked nor before the resume edge
after parking (R576). -/
def State.spiLive (s : State) : Bool := !s.unpowered && (match s.pwr.pause with
  | .dip _ => false
  | .parked _ => false
  | .resume _ park _ => !park
  | _ => true)

/-- A request on the Host SPI. -/
def State.spiRequest (s : State) (b : Bytes) : Out :=
  let s1 := s.spiOut b.length
  if s1.hst.resp.isSome then .next ((s1.setBit F.hstStatOvf).countReq false false)
  else match s1.hostMessage false (b.take (msgLen b)) with
    | .error n => .fault (.uncheckedUse n)
    | .ok (r, t) => .next (t.setHst (fun x => { x with resp := some r }))

/-! ### UDP (R527) -/

/-- A message in a datagram to HPORT; the reply goes from HPORT to its source. -/
def State.udpRequest (s : State) (d : Dgram) : Out :=
  match s.hostMessage true d.data with
  | .error n => .fault (.uncheckedUse n)
  | .ok (r, t) =>
    let t1 := t.setEth (fun e => { e with hrx := e.hrx + 1, htx := e.htx + 1 })
    .next ((t1.setHst (fun x => { x with said := r })).udpSend d.ip (s.ethCfg F.ethUdpHport) d.sport (s.ethCfg F.ethVlanPcph) r)

/-- A datagram is accepted: the endpoint runs, its payload fits (R526, R527). -/
def State.udpLive (s : State) (d : Dgram) : Bool := s.endpoint && s.spiLive && decide (d.data.length ≤ 1472)

/-! ### Commands -/

/-- A request of a kind on a transport: nothing where the bytes spell another kind. A source of none is the Host SPI. -/
def State.request (s : State) (kind : Nat) (src : Option (Nat × Nat)) (b : Bytes) : Out :=
  match src with
  | none =>
    if !s.spiLive || spiShort b || spiIdle b || messageKind (b.take (msgLen b)) != kind then .next s else s.spiRequest b
  | some (ip, port) =>
    let d : Dgram := { ip := ip, sport := port, dport := s.ethCfg F.ethUdpHport, data := b }
    if !s.udpLive d || messageKind b != kind then .next s else s.udpRequest d

/-- What arrives at the Host SPI in a logic dip stalls (R425); a datagram does not arrive, because ETH is in RET (R438). -/
def State.onPort (s : State) (src : Option (Nat × Nat)) (i : DipAccess) (f : State → Out) : Out :=
  if src.isNone && s.inDip then .next (s.stall i) else f s

/-- READ (R570): the bytes of a message, by the Host SPI or in a datagram of a source address and port. -/
def execRead (src : Option (Nat × Nat)) (b : List Nat) (s : State) : Out := s.onPort src (.read src b) (·.request 1 src b)

/-- WRITE (R571). -/
def execWrite (src : Option (Nat × Nat)) (b : List Nat) (s : State) : Out := s.onPort src (.write src b) (·.request 2 src b)

/-- TXN (R572). -/
def execTxn (src : Option (Nat × Nat)) (b : List Nat) (s : State) : Out := s.onPort src (.txn src b) (·.request 3 src b)

/-- HRESET (R580). -/
def execHreset (src : Option (Nat × Nat)) (b : List Nat) (s : State) : Out := s.onPort src (.hreset src b) (·.request 4 src b)

/-- NOP of the host (R568). -/
def execHostNop (src : Option (Nat × Nat)) (b : List Nat) (s : State) : Out := s.onPort src (.hostNop src b) (·.request 5 src b)

/-- HOST_BAD_REQUEST: a message whose header is wrong, whose TYPE is no request type or whose body does not fit it (R569). -/
def execHostBadRequest (src : Option (Nat × Nat)) (b : List Nat) (s : State) : Out := s.onPort src (.hostBadRequest src b) (·.request 0 src b)

/-- SPI_SHORT_FRAME: a frame with fewer bytes than its LEN, or than 16, is discarded (R575). -/
def execSpiShortFrame (b : List Nat) (s : State) : Out :=
  .next (s.load (.spiShortFrame b) (fun s =>
    if s.spiLive && spiShort b && !spiIdle b then ((s.spiOut b.length).setBit F.hstStatShort).countReq false false else s))

/-- SPI_IDLE_FRAME: a frame of 0xFF bytes, in which a pending response is clocked out (R575). -/
def execSpiIdleFrame (n : Nat) (s : State) : Out :=
  .next (s.load (.spiIdleFrame n) (fun s => if s.spiLive then s.spiOut n else s))

/-- COMMIT: the host writes 1 to HST.COMMIT (R578). -/
def execCommit (s : State) : Out :=
  .next (s.load .commit (fun s => if s.spiLive && !s.win.fhalt && !s.bit F.hstStatNegd then s.hostCommit else s))

/-! ### Feature sets at an edge (R577, R578, R580) -/

/-- The blocks' first addresses and rows. -/
def Regs.blocks : List (Nat × List RegRow) :=
  [(0x40000000, Regs.frmRows), (0x40010000, Regs.swRows), (0x40020000, Regs.prsRows), (0x40030000, Regs.ledRows), (0x40040000, Regs.inpRows),
   (0x400A0000, Regs.nmRows), (0x400B0000, Regs.ethRows), (0x400C0000, Regs.timRows), (0x400D0000, Regs.balRows), (0x400E0000, Regs.accRows),
   (0x400F0000, Regs.hstRows)] ++
  (upto 6).map (fun n => (0x40090000 + 0x2000 * n, Regs.canRows)) ++ (upto 4).map (fun n => (0x40140000 + 0x1000 * n, Regs.linRows))

/-- The addresses of the registers of blocks that features own. -/
def Regs.addresses : List Nat :=
  Regs.blocks.flatMap (fun p => p.2.flatMap (fun r => (upto r.count).map (fun i => p.1 + r.off + r.stride * i)))

/-- A feature's needs are met within a set (R577); the CAN bit of network management is that of NM.CFG.PORT. -/
def State.needsMet (s : State) (has : Nat → Bool) (k : Nat) : Bool :=
  let can := (upto 6).any (fun n => has (32 + n))
  match k with
  | 18 => (upto 7).any (fun d => has (10 + d))
  | 19 => (upto 8).any (fun d => has (10 + d))
  | 23 => has 22
  | 26 => has 25
  | 38 => has 32 || has 33
  | 40 => has (32 + min 5 (s.fld F.nmCfgPort))
  | 42 => has 41
  | 43 => has 41
  | 45 => has 44 && can
  | 46 => has 41
  | _ => true

/-- The effective set of ACCEPT (R578). -/
def State.effectiveSet (s : State) : BitVec 64 :=
  let asked := s.fld (F.hstAcceptA 0) + 2 ^ 32 * s.fld (F.hstAcceptA 1)
  let feat := s.fld (F.hstFeatF 0) + 2 ^ 32 * s.fld (F.hstFeatF 1)
  let base := (asked &&& feat) ||| 0x3FF
  BitVec.ofNat 64 (packBits 64 (fun k => base.testBit k && s.needsMet (fun j => base.testBit j) k))

/-- What runs in a block that becomes absent stops. -/
def State.stopAbsent (s : State) : State :=
  let off := fun (k : Nat) => !s.feat k
  let s1 := if off 20 then forEach 6 (fun t e => t.setRun e false) s else s
  let s2 := forEach 6 (fun t n => if off (32 + n) then t.canRun n false else t) s1
  let s3 := if off 39 then forEach 4 (fun t m => t.linEnable m false) s2 else s2
  let s4 := if off 41 then (s3.linkDown 0).linkDown 1 else s3
  let s5 := if off 26 then forEach 24 (fun t a => t.setAin a (fun y => { y with revs := false, zerr := false, zb := 0 })) s4 else s4
  let s6 := if off 45 then s5.setAcc (fun a => { a with permit := none }) else s5
  if off 44 then s6.accStop else s6

/-- A feature set takes effect: what becomes absent reads 0 and stops, what becomes present starts at its reset values. HST.CFG and ACTR
keep what they hold while they read 0: ACTR is kept until power-on reset, and HRESET, the one way back, touches neither (R574, R580). -/
def State.applyFeatures (s : State) (new : BitVec 64) : State :=
  let old := s.hst.eff
  let s1 := Regs.addresses.foldl (fun t a =>
    let mo := absentMask (fun k => old.getLsbD k) a
    let mn := absentMask (fun k => new.getLsbD k) a
    if mo = mn ∨ a / 0x10000 = 0x400F then t
    else t.setReg a ((dropBits (t.reg a) (mo ||| mn)) ||| (Regs.reset a &&& BitVec.ofNat 32 (mo &&& (mo ^^^ mn))))) s
  let s2 := s1.setHst (fun x => { x with eff := new })
  let keep := fun (l : List (Nat × TWord)) => l.filter (fun p => new.getLsbD (cmdFeat p.1))
  let s3 : State := { s2 with frm := { s2.frm with staging := keep s2.frm.staging, committed := keep s2.frm.committed } }
  let lo := new.toNat % 2 ^ 32
  let hi := new.toNat / 2 ^ 32
  (((((s3.setFld (F.hstAcceptA 0) lo).setFld (F.hstAcceptA 1) hi).setFld (F.hstAcceptA 2) 0).setFld (F.hstAcceptA 3) 0)).stopAbsent

/-- A host reset, then a commit, that apply at the edge that has just opened (R578, R580). -/
def State.hostEdge (s : State) : State :=
  let s1 := if s.hst.reset then
      let t := (forEach 4 (fun u i => u.setFld (F.hstAcceptA i) (u.fld (F.hstFeatF i))) s)
      let all := BitVec.ofNat 64 (s.fld (F.hstFeatF 0) + 2 ^ 32 * s.fld (F.hstFeatF 1))
      (((t.applyFeatures all).setFld F.hstStatNegd 0).setBit F.hstStatHrst).setHst (fun x => { x with reset := false, hrst := true })
    else s
  let s2 := if s.hst.reset then s1.hstCause 1 else s1
  match s2.hst.commit with
  | some e =>
    if e ≤ s2.frm.frame.toNat then
      (((s2.applyFeatures s2.effectiveSet).setBit F.hstStatNegd).setHst (fun x => { x with commit := none })).hstCause 0
    else s2
  | none => s2

/-! ### The record (R581) -/

/-- The HST region of the image. -/
def State.hstRecords (s : State) : State :=
  let x := s.hst
  let w := s.fld F.hstStatNegd + 2 * b2n x.applied + 4 * s.fld F.hstCfgAuthreq + 8 * b2n x.hrst + 16 * s.txnHeld
  let tag := match x.tag with
    | some t => t + 65536
    | none => 0
  let l := [w, tag, min 65535 x.rxSpi + 65536 * min 65535 x.rxUdp, x.rej]
  l.zipIdx.foldl (fun t p => t.putIn (0x4E00 + 4 * p.2) (TWord.nat p.1)) s

/-- What the record reports of a frame is cleared for the next one. -/
def State.hstClear (s : State) : State := s.setHst (fun x => { x with tag := none, applied := false, hrst := false, rxSpi := 0, rxUdp := 0, rej := 0 })

/-! ### Frames from a port (R504, R526, R527) -/

/-- What the internal port does with a frame: PTP, ARP, IPv4 with its datagrams. -/
def State.internalTake (s : State) (p : Nat) (f : Bytes) : Out :=
  if frType f = 0x88F7 then .next (s.ptpTake p (frPayload f) s.count)
  else if frType f = 0x0806 then .next (s.arpTake (frPayload f))
  else if frType f = 0x0800 then
    match s.ipTake (frPayload f) with
    | (t, none) => .next t
    | (t, some d) =>
      if d.dport = t.ethCfg F.ethUdpHport then (if t.udpLive d then t.udpRequest d else .next t)
      else if d.dport = t.ethCfg F.ethUdpRport then .next (t.balRequest d)
      else .next t
  else .next s

/-- ETH_FRAME_RECEIVED: a port receives a frame, whose bytes are given without the FCS, and whether its FCS is good (R502, R504). Waiting
record fragments move on once an address is resolved. -/
def execEthFrameReceived (p : Fin 2) (bytes : List Nat) (fcs : Bool) (s : State) : Out :=
  if !s.ethLive p || !fcs || decide (1522 < bytes.length + 4) || decide (bytes.length < 14) then .next s
  else
    let s1 := s.setEport p (fun x => { x with rx := x.rx + 1 })
    let s2 := (s1.learn (beAt bytes 6 6) p).forward { bytes := bytes, inPort := p, inAt := s.count }
    if s.internal (beAt bytes 0 6) then
      match s2.internalTake p bytes with
      | .next t => .next t.balHand
      | o => o
    else .next s2

end Sys2Proof.Machine
end

