-- ==== Sys2Proof/Machine/Power.lean ====
section
/-!
DEFINITION. The supplies, dips, resets, clocks, parking and the AON timer: their commands (R262, R421 to R443, R508, R655, R658).
-/

namespace Sys2Proof.Machine

/-! ### Supply groups (R421 to R424) -/

/-- A group's outputs are turned off or held off at once; of VBAT_C, the sensor supplies with them (R55, R421). -/
def State.holdOff (s : State) (g : Nat) (f : Grp → Grp) : State :=
  let s1 := s.ledCountAll.setGrp g f
  if g = 2 then s1.vsOff else s1

/-- GROUP_OVERVOLTAGE_OFF: a group above 62 V turns its outputs off (R421); they keep their states (R422). A
group above 80 V is an unchecked use (R423). -/
def execGroupOvervoltageOff (g : Fin 3) (mv : Int) (s : State) : Out :=
  let s1 := s.setPin (.vbat g) mv
  if 80000 < mv then .fault (.uncheckedUse 423)
  else .next (if 62000 < mv then s1.holdOff g (fun x => { x with ovOff := true, ovF := true }) else s1)

/-- DIP_OFF: a group below 4.5 V turns its outputs off (R421). -/
def execDipOff (g : Fin 3) (mv : Int) (s : State) : Out :=
  let s1 := s.setPin (.vbat g) mv
  .next (if mv < 4500 then s1.holdOff g (fun x => { x with dipOff := true, dipF := true }) else s1)

/-- The report of a set reverse latch: PWR.REV and source 27 (R424). -/
def State.reverseReport (s : State) (g : Nat) : State :=
  if (s.grp g).latch then (s.setFld F.pwrRevGrp (s.fld F.pwrRevGrp ||| 2 ^ g)).raiseSource 27 else s

/-- REVERSE_LATCH: a reversal of a group has lasted `us` µs; one of 1 ms or more sets its latch, and it is reported at once while the
logic is powered, else at the next start (R424). One longer than 60 s is an unchecked use. -/
def execReverseLatch (g : Fin 3) (us : Nat) (powered : Bool) (s : State) : Out :=
  if 60000000 < us then .fault (.uncheckedUse 424)
  else .next (if 1000 ≤ us then
    let s1 := s.setGrp g (fun x => { x with latch := true })
    if powered then s1.reverseReport g else s1
  else s)

/-! ### Reversed supply -/

/-- REVERSE_ON: a group's VBAT is below -1.0 V: every channel it feeds is turned on in reverse (R132, R133). The
half-bridges of VBAT_C float (R135). A reversal beyond -58 V is an unchecked use (R424). -/
def execReverseOn (g : Fin 3) (mv : Int) (s : State) : Out :=
  let s1 := s.setPin (.vbat g) mv
  if mv < -58000 then .fault (.uncheckedUse 424)
  else .next (
    if mv < -1000 then
      forEach 48 (fun t c => if groupOf c = g then
          t.setOut c (fun x => { x with dg := { x.dg with revOn := true, offEdges := 0 }, fr := { x.fr with rev := true } })
        else t)
        (s1.holdOff g (fun x => { x with reversed := true, revF := true, revWait := true }))
    else s1)

/-- REVERSE_END: the group rises above -0.5 V: its channels are off and wait for an edge at which it reads 6 V or more
(R132). DESIGN CHOICE: until then a channel that was ON or INR keeps that state code; R132 says that it is off and names no code, and R422
keeps the code of a dip-off. -/
def execReverseEnd (g : Fin 3) (mv : Int) (s : State) : Out :=
  let s1 := s.setPin (.vbat g) mv
  .next (
    if (s.grp g).reversed ∧ -500 < mv then
      forEach 48 (fun t c => if groupOf c = g then t.setOut c (fun x => { x with dg := { x.dg with revOn := false, offEdges := 0 } }) else t)
        (s1.setGrp g (fun x => { x with reversed := false }))
    else s1)

/-! ### Logic dips (R425, R426) -/

/-- A domain as a logic dip begins: ON and waking ones enter RET, and a demand that was waking one is held. -/
def State.dipDomain (s : State) (d : Nat) : State :=
  let x := nth s.pwr.dom d {}
  if d = 0 then s
  else if x.waking then
    (s.goTo d .ret).setDom d (fun y => { y with before := .ret, held := true, down := x.down })
  else if x.st = .on then (s.leaveOn d .ret).setDom d (fun y => { y with before := .on, held := false, down := x.down })
  else s.setDom d (fun y => { y with before := x.st, held := false })

/-- LOGIC_DIP: VBAT_C has stayed below 4.5 V for 10 µs: outputs turn off, domains that are ON or waking enter RET, the frame and the
cores stop (R425). -/
def execLogicDip (mv : Int) (s : State) : Out :=
  let s1 := s.setPin (.vbat 2) mv
  .next (if mv < 4500 ∧ s.inDip = false then
    let s2 := s1.holdOff 2 (fun x => { x with dipOff := true, dipF := true })
    let s3 : State := { s2 with pwr := { s2.pwr with pause := .dip s.count } }
    forEach 4 State.movePx (forEach 32 State.dipDomain s3)
  else s1)

/-! ### Resets (R262, R428, R429, R619, R639) -/

/-- The start-up reads: every Silo record into its shadow, and the settings taken from them, the safe image among them; then what the
check of the records found, to which the safe image answers (R248, R252, R353, R619, R623, R626). -/
def State.readSilo (s : State) (u : Startup) : State :=
  let ecc := fun (r : Nat) => ((u.ecc.find? (fun p => p.1 == r)).map (·.2)).getD .clean
  let s1 := forEach 128 (fun t r => t.storeShadow r (ecc r)) s
  let s2 := forEach 7 (fun t i => t.setFld (F.winSafeEnt i) (s1.shadow (32 + i / 2) / 2 ^ (32 * (i % 2)) % 2 ^ 32)) s1
  let s3 := if (s2.liveGen 10).isSome then
      (s2.setFld F.ethMacloMac (s2.shadow 10 % 2 ^ 32)).setFld F.ethMachiMac (s2.shadow 10 / 2 ^ 32 % 65536) else s2
  let s4 := if (s3.liveGen 11).isSome then
      forEach 2 (fun t p => (t.setFld (F.ethPcalIlat p) (bitsN (s3.shadow 11) (16 * p) 8)).setFld (F.ethPcalElat p)
        (bitsN (s3.shadow 11) (16 * p + 8) 8)) s3 else s3
  let s5 := if s4.cdLock then s4.setReg 0x50100100 3 else s4
  forEach 128 (fun t r => t.shadowSource r (ecc r)) (s5.ethTake.setFld F.secArbCount s5.thermometer)

/-- The debug lock after power-on reset (R614); the challenge is drawn, whose reset value is random in every mode (R13). -/
def State.lockDebug (s : State) : State := (if 1 ≤ s.dbgMode then s.setFld F.dbgStatLocked 1 else s).newChallenge

/-- The safe-path self-check (R262, R263): a path that does not follow sets source 171 and every domain but AON is OFF, with every PX
channel held off, one that an earlier source had turned on too. -/
def State.pathCheck (s : State) (bad : Bool) : State :=
  if bad then
    let s1 := forEach 4 State.movePx (({ s with win := { s.win with pathBad := true } }).raiseSource 171)
    { s1 with
      pwr := { s1.pwr with dom := (Vector.replicate 32 ({} : Dom)).set 0 { st := .on } } }
  else s

/-- What a power-on reset leaves before the start-up steps: every field at its reset value (R13, R428), with the flash and the Silo,
and the reversals that last. With `keep`, AON cells kept their contents: RCAUSE, the lane maps of the banks and of the comparators (R382, R416, R428). A reset
by RSTn (RCAUSE bit 5) leaves every sticky bit as it is (R257). -/
def State.afterReset (s : State) (bit : Nat) (keep : Bool) (cells : Nat) : State :=
  let base : State := { State.reset with
    pins := s.pins
    free := s.free
    pending := s.pending
    sec := { State.reset.sec with flash := s.sec.flash }
    sil := { gens := (s.siloAbort cells).sil.gens }
    pwr := { State.reset.pwr with grp := s.pwr.grp.map (fun x => { reversed := x.reversed, revF := x.reversed, revWait := x.reversed, latch := x.latch }) } }
  let s1 := base.setFld F.pwrRcauseCause ((if keep then s.fld F.pwrRcauseCause else 0) ||| 2 ^ bit)
  let s2 := if keep then (allFin 2).foldl (fun t c => t.setCore c (fun k => { k with ech := {
      spFor := s.core[c].ech.spFor, spFail := s.core[c].ech.spFail, dead := s.core[c].ech.dead } }))
    (forEach 16 (fun t b => t.setReg (F.grnLaneSpfor b).addr (s.reg (F.grnLaneSpfor b).addr &&& 0xFFFFFFBF#32)) s1) else s1
  let s3 := forEach 48 (fun t c => if (t.grp (groupOf c)).reversed then
    t.setOut c (fun x => { x with dg := { x.dg with revOn := true }, fr := { x.fr with rev := true } }) else t) s2
  if bit = 5 then forEach 6 (fun t m => t.setFld (F.winStickyStk m) (s.fld (F.winStickyStk m))) s3 else s3

/-- A power-on reset with the RCAUSE bit of its cause, and the start-up steps in order (R262, R381, R428, R639); a class F halt
resumes before the cores start (R429). Sticky bits that a reset by RSTn left at 1 keep the safe image driven while their class is S
or F (R255, R257). -/
def State.powerOn (s : State) (bit : Nat) (keep : Bool) (u : Startup) : State :=
  let s1 := ((s.observe u.seen).afterReset bit keep u.cells).readSilo u
  let s2 := (s1.applyWear.loadDeviceKeys.lockDebug).pathCheck u.pathBad
  let s3 := forEach 3 State.reverseReport ((s2.laneRebuild 0).laneRebuild 1)
  let s4 := if s.win.fhalt then s3.haltF else s3
  if bit = 5 ∧ (s4.anySticky 2 || s4.anySticky 3) = true then s4.driveSafe else s4

/-- POWER_UP: VBAT_C rises from below 3.0 V with every AON cell empty. -/
def execPowerUp (u : Startup) (s : State) : Out := .next (s.powerOn 0 false u)

/-- LOW_SUPPLY: VBAT_C below 3.0 V while no logic dip runs. -/
def execLowSupply (mv : Int) (u : Startup) (s : State) : Out :=
  let s1 := s.setPin (.vbat 2) mv
  .next (if mv < 3000 ∧ s.inDip = false then s1.powerOn 1 true u else s1)

/-- LONG_DIP: a logic dip reaches 500 ms. -/
def execLongDip (u : Startup) (s : State) : Out := .next (if s.inDip then s.powerOn 2 true u else s)

/-- HOLD_UP_EMPTY: VHOLD below 5.0 V during a logic dip. -/
def execHoldUpEmpty (mv : Int) (u : Startup) (s : State) : Out :=
  let s1 := s.setPin .vhold mv
  .next (if mv < 5000 ∧ s.inDip then s1.powerOn 3 true u else s1)

/-- BROWN_OUT: the logic rail browns out (R431, R444). -/
def execBrownOut (u : Startup) (s : State) : Out := .next (s.powerOn 4 true u)

/-- RESET_LAND: RSTn low for `ns` ns: 10 µs or more resets, less than 1 µs does not, and between them the spec leaves it open (R658). -/
def execResetLand (ns : Nat) (u : Startup) (s : State) : Out :=
  .next (if 10000 ≤ ns then s.powerOn 5 true u
  else if ns < 1000 then s
  else
    let t : State := { s with free := s.free + 1 }
    if Config.freeNat s.free % 2 = 1 then t.powerOn 5 true u else t)

/-- CLASS_F_END: VBAT_A, VBAT_B and VBAT_C have all stayed below 3.0 V together for `ms` ms: a class F halt ends above 130 ms, stays
below 100 ms, and between them the spec leaves it open (R264). -/
def execClassFEnd (ms : Nat) (u : Startup) (s : State) : Out :=
  .next (if s.win.fhalt = false ∨ ms < 100 then s
  else
    let t : State := { s with free := s.free + 1 }
    if 130 < ms ∨ Config.freeNat s.free % 2 = 1 then
      { t with win := { t.win with fhalt := false } }.powerOn 6 true u
    else t)

/-! ### Clocks (R243, R508, R655) -/

/-- PLL_UNLOCK: the core PLL loses lock. -/
def execPllUnlock (s : State) : Out := .next (s.raiseSource 34)

/-- ALL_CLOCKS_LOST: crystal, internal RC and PLL reference fail. -/
def execAllClocksLost (s : State) : Out := .next (s.raiseSource 33)

/-- AON_CLOCK_STOP: the 32.768 kHz clock stops. -/
def execAonClockStop (s : State) : Out :=
  let t := s.setFld F.pwrAontCount s.aonCount
  .next ({ t with pwr := { t.pwr with aonStop := true } }.raiseSource 37)

/-- CRYSTAL_STOP: the crystal stops and the clocks run from the internal RC (R655). -/
def execCrystalStop (s : State) : Out := .next ({ s with pwr := { s.pwr with onRc := true } }.raiseSource 32)

/-- COUNTER_PARITY_ERROR: a parity error in COUNT (R508). -/
def execCounterParityError (s : State) : Out := .next (s.raiseSource 38)

/-! ### Parking (R440 to R443, R472, R522) -/

/-- PARK_ENTRY: the end of the fourth complete AON clock cycle after E_p, `us` µs after it, from 122 to 153: the frame and the clocks
stop (R440). -/
def execParkEntry (us : Nat) (s : State) : Out :=
  .next (match s.pwr.pause with
    | .parkWait t =>
      let s1 := s.advance (t + clampN 122 153 us * ticksPerUs)
      { s1 with pwr := { s1.pwr with pause := .parked s1.count } }
    | _ => s)

/-- The level wake sources that request (R224, R225, R441), as bits of WCAUSE.SRC: WAKE0, WAKE1, SW, TMR. -/
def State.levelWakes (s : State) : Nat :=
  let wk := fun n => (s.fld F.inpWakecfgPwake).testBit n && (s.fld F.inpWakecfgEn).testBit n && (s.wakeIn n).active
  b2n (wk 0) + 2 * b2n (wk 1) + 4 * b2n ((upto 48).any s.watchWake) + 8 * b2n ((s.fld F.pwrWsrcEn).testBit 0 && s.bit F.pwrAontDone)

/-- A wake of the parked device by its level sources and by edge sources given as bits of WCAUSE.SRC (R443): the cause is recorded. -/
def State.wakeBy (s : State) (edges : Nat) : State :=
  match s.pwr.pause with
  | .parked t =>
    let src := s.levelWakes + edges
    if src = 0 then s
    else
      let s1 := (s.setFld F.pwrWcauseSrc src).setFld F.pwrWcauseSwidx (((upto 48).find? s.watchWake).getD 63)
      { s1 with pwr := { s1.pwr with pause := .resume t true none } }
  | _ => s

/-- The edge source of a CAN wake receiver (R438, R441, R472). -/
def State.canWakeBit (s : State) (n : Nat) : Nat := if (s.fld F.pwrWsrcEn).testBit (2 + n) then 2 ^ (4 + n) else 0

/-- A wake receiver's word: SWK 0, WUFID 1, WUFMSK 2, WUFDM[m] 3 + m, as the latest start of its controller took it (R8). -/
def State.wakeWord (s : State) (n k : Nat) : Word := nth (s.cn n).wake k 0

/-- WMODE of a wake receiver: a selective wake frame wakes (R472). -/
def State.wakeMode (s : State) (n : Nat) : Bool := (s.wakeWord n 0).getLsbD 0

/-- WAKE_REQUEST: the parked device looks at its wake sources: the level sources, the wake-up patterns and the frame error counters
above 31 that the CAN receivers have seen, a falling edge of HCSn (R441, R442, R472, R576). -/
def execWakeRequest (wup fec : List (Fin 2)) (hcs : Bool) (s : State) : Out :=
  let can := fun (n : Fin 2) =>
    let mode := s.wakeMode n
    if (wup.contains n && !mode) || (fec.contains n && mode) then s.canWakeBit n else 0
  .next (s.wakeBy (can 0 + can 1 + (if hcs && (s.fld F.pwrWsrcEn).testBit 1 then 64 else 0)))

/-- A frame is the wake frame of a controller (R472). -/
def State.isWakeFrame (s : State) (n : Nat) (m : CanMsg) : Bool :=
  let masks := (upto 2).map (fun j => (s.wakeWord n (3 + j)).toNat)
  let data := (upto 2).map (fun j => if m.rtr then 0 else (msgData m j).toNat)
  !m.fdf && m.xtd == (s.wakeWord n 1).getLsbD 29
    && decide ((m.id ^^^ getBits (s.wakeWord n 1) 0 29) &&& getBits (s.wakeWord n 2) 0 29 = 0)
    && decide (m.len + m.more = getBits (s.wakeWord n 0) 3 4)
    && (masks.all (· == 0) || (masks.zip data).any (fun p => p.1 &&& p.2 != 0))

/-- SELECTIVE_WAKE: a frame at a rate (0 125, 1 250, 2 500, 3 1000 kbit/s) reaches the wake receiver of CAN0 or CAN1 (R472). -/
def execSelectiveWake (n : Fin 2) (m : CanMsg) (rate : Fin 4) (s : State) : Out :=
  .next (if s.wakeMode n ∧ getBits (s.wakeWord n 0) 1 2 = rate.val ∧ s.isWakeFrame n m ∧ s.canWakeBit n ≠ 0 then
    s.wakeBy (s.canWakeBit n) else s)

/-- PLL_LOCK: the crystal became valid `us` µs after the device parked, as the AON clock measured it, and the PLL locks `lock` µs
later: the pause is added to OFFSET and a state of LOCK becomes HOLD (R427, R443, R522). The AON timer has counted while COUNT held. -/
def execPllLock (us lock : Nat) (s : State) : Out :=
  .next (match s.pwr.pause with
    | .resume t true none =>
      let s1 := (s.advance (s.count + lock * ticksPerUs)).setOffset (s.offset + 1000 * us)
      let n := s.fld F.pwrAontCount
      let s2 := (if s.tim.st = 2 then s1.timGo 3 else s1).setFld F.pwrAontCount
        (if n = 0 ∨ s.pwr.aonStop then n else max 1 (n - aonCycles us))
      { s2 with pwr := { s2.pwr with pause := .resume (t - us * ticksPerUs) true (some s2.count) } }
    | _ => s)

/-- AON_TIMER_EXPIRE: COUNT of the AON timer reaches 0 from 1 (R441, R448). -/
def execAonTimerExpire (s : State) : Out :=
  .next (if s.fld F.pwrAontCount = 0 ∨ s.pwr.aonStop then s else (s.setFld F.pwrAontCount 0).setBit F.pwrAontDone)

/-! ### Time between commands -/

/-- With no command waiting, COUNT advances by one, but for the time in which it holds: parked, until the PLL has locked (R427, R508). -/
def State.tick (s : State) : State :=
  match s.pwr.pause with
  | .parked _ => s
  | .resume _ true none => s
  | _ => { s with count := s.count + 1 }

end Sys2Proof.Machine
end

