-- ==== Sys2Proof/Machine/Edge.lean ====
section
/-!
DEFINITION. The edge: what is held for it, its commit and its input image (R5, R19 to R41, R58 to R63, R435 to R443, R577, R689).
-/

namespace Sys2Proof.Machine

/-! ### Held writes (R5, R33, R37 to R41) -/

/-- A register of the FRM block. -/
def isFrm (a : Nat) : Bool := decide (0x40000000 ≤ a) && decide (a < 0x40010000)

/-- What is held applies at the edge that opens frame `frame`: a firmware write unless it came after the cut-off, or waits for a
committing edge under CFGSEAL; a transaction scheduled for the edge, with writes of the output image only at a committing edge. -/
def Held.due (frame : Nat) (cfgseal committing : Bool) : Held → Bool
  | .fw a _ late => !late && (isFrm a || !cfgseal || committing)
  | .txn _ img e _ => decide (e ≤ frame) && (!img || committing)

/-- A page mark, which ECH.CTL.LOCK protects (R395). -/
def isPageMark (a : Nat) : Bool := decide (0x40060100 ≤ a) && decide (a ≤ 0x40060110)

/-- The writes of a held item that may apply: a transaction's page marks do not under LOCK (R395). -/
def State.heldWrites (s : State) (h : Held) : List (Nat × Word) := match h with
  | .fw a w _ => [(a, w)]
  | .txn l _ _ _ => if s.bit F.echCtlLock then l.filter (fun p => !isPageMark p.1) else l

/-- A word of the output staging image. -/
def isStaging (a : Nat) : Bool := decide (0x30010000 ≤ a) && decide (a < 0x30020000)

/-- Only the last write to an address is left (R5). -/
def lastOnly : List (Nat × Word) → List (Nat × Word)
  | [] => []
  | p :: l => if l.any (fun q => q.1 == p.1) then lastOnly l else p :: lastOnly l

/-- What stays held after an edge: a late firmware write waits for the next one, and of two to one register the later is left. -/
def stillHeld : List Held → List Held
  | [] => []
  | .fw a w _ :: l =>
    if l.any (fun h => match h with
      | .fw b _ _ => b == a
      | .txn _ _ _ _ => false) then stillHeld l else .fw a w false :: stillHeld l
  | h :: l => h :: stillHeld l

/-- A staged write of FRM.CFG, refused whole for a period, a slot count or a source out of range (R19). -/
def State.applyFrm (s : State) (a : Nat) (w : Word) : Option State :=
  if a = F.frmCfgTfUs.addr then
    let t := getBits w F.frmCfgTfUs.lo F.frmCfgTfUs.width
    let ok := decide (100 ≤ t) && decide (t ≤ 10000) && getBits w F.frmCfgSlots.lo F.frmCfgSlots.width != 3
      && decide (getBits w F.frmCfgSrc.lo F.frmCfgSrc.width < 2)
    some (if ok then s.applyPlain a w else (s.setBit F.frmStatCfgrej).raiseSource 175)
  else none

/-- A request of a domain or a lock, which acts after the commit of its edge (R435, R437). -/
def isPwrRequest (a : Nat) : Bool := a == 0x40080044 || (decide (0x40080100 ≤ a) && decide (a < 0x40080180))

/-- One staged write applied at step 2 of an edge, by the rule of its register (R22, R23, R577). -/
def State.applyOne (s : State) (p : Nat × Word) : State :=
  let a := p.1
  let w := dropBits p.2 (absentMask s.feat a)
  if s.absent a || isPwrRequest a then s
  else
    let r := match a / 0x10000 with
      | 0x4000 => s.applyFrm a w
      | 0x4001 => s.applySw a w
      | 0x4002 => s.applyPrs a w
      | 0x4003 => s.applyLed a w
      | 0x4004 => s.applyInp a w
      | 0x4005 => if 0x40050060 ≤ a ∧ a < 0x40050090 then some (s.applyClass ((a - 0x40050060) / 4) w) else none
      | 0x400C => s.applyTim a w
      | 0x400D => s.applyBal a w
      | _ => none
    r.getD (s.applyPlain a w)

/-- Step 2 of an edge: the staged writes in their held order, the limits after the pairing (R75), and the loader (R164). -/
def State.applyStaged (s : State) (l : List (Nat × Word)) : State :=
  let s1 := l.foldl State.applyOne s
  let s2 := l.foldl (fun t p => if t.absent p.1 then t else t.applyLimit p.1 (dropBits p.2 (absentMask t.feat p.1))) s1
  let go := l.any (fun p => p.1 == F.prsLdctlGo.addr && p.2.getLsbD F.prsLdctlGo.lo && !s.absent p.1)
  if go then s2.loaderGo else s2

/-- The held writes due at the edge that opens frame `frame` apply (R5, R33, R37, R41); the answer holds, with the state, what was
applied. FSTAT bit 5 says whether any write was (R59). A transaction scheduled for this edge or before it that does not apply rolls to a
later one, and HOSTROLL sets (R41). Page marks that a transaction may not write set SPGREJ (R395). -/
def State.takeHeld (s : State) (frame : Nat) (cfgseal committing : Bool) : State × List (Nat × Word) :=
  let due := s.frm.held.filter (Held.due frame cfgseal committing)
  let all := due.flatMap s.heldWrites
  let marks := due.any (fun h => (s.heldWrites h).length != h.writes.length)
  let rest := stillHeld (s.frm.held.filter (fun h => !h.due frame cfgseal committing))
  let tags := due.filterMap (fun h => match h with
    | .txn _ _ _ t => some t
    | .fw _ _ _ => none)
  let any := !all.isEmpty || (match s.hst.commit with | some e => decide (e ≤ frame) | none => false)
  let rolled := rest.any (fun h => match h with
    | .txn _ _ e _ => decide (e ≤ frame)
    | .fw _ _ _ => false)
  let s1 : State := { s with
    frm := { s.frm with held := rest, applied := any }
    hst := { s.hst with tag := tags.getLast?, applied := !tags.isEmpty } }
  let s2 := s1.applyStaged (lastOnly (all.filter (fun p => !isStaging p.1)))
  let s3 := if marks then s2.setBit F.echStatSpgrej else s2
  (if rolled then s3.setBit F.frmStatHostroll else s3, all)

/-- The domain requests among the writes applied, which act after the commit (R435, R437). -/
def State.applyRequests (s : State) (l : List (Nat × Word)) : State :=
  (lastOnly (l.filter (fun p => isPwrRequest p.1))).foldl (fun t p => (t.applyPwr p.1 p.2).getD t) s

/-! ### The commit (R28 to R35, R41, R255) -/

/-- A committing edge: the staging image replaces the fields it holds, and the host's words go over it (R30, R41); SLACK. -/
def State.commitImage (s : State) (host : List (Nat × Word)) (deadline mask : Nat) : State :=
  let put := fun (m : List (Nat × TWord)) (p : Nat × TWord) =>
    if cmdWord p.1 && s.feat (cmdFeat p.1) then AMap.put imageDefault m p.1 p.2 else m
  let words := s.frm.staging ++ host.filterMap (fun p => if isStaging p.1 then some (p.1 - 0x30010000, ⟨Tag.nat, p.2⟩) else none)
  let s1 : State := { s with frm := { s.frm with committed := words.foldl put s.frm.committed, staging := [] } }
  let s2 := s1.setFld F.frmStatOvrrun 0
  if mask = 0 then s2
  else
    let ns := min (2 ^ 32 - 1) (quant (5 * ((deadline : Int) - s.frm.sealAt)) 3).toNat
    (s2.setFld F.frmSlackNs ns).setFld F.frmSlackminNs (min ns (s2.fld F.frmSlackminNs))

/-- An overrun edge: the committed image is repeated, and the miss is counted (R34, R35). -/
def State.overrun (s : State) : State :=
  let n := s.fld F.frmStatOvrrun
  let s1 := (s.satInc F.frmOvrcntCount).setFld F.frmStatOvrrun (incTo 3 n)
  let s2 := s1.raiseSource 172
  if n = 2 then s2.raiseSource 173 else s2

/-! ### The input image (R58 to R60, R577, R689) -/

/-- The features that a word of the input image belongs to; none for the regions of mandatory features. -/
def imageFeats (o : Nat) : List Nat :=
  if o < 0x100 then []
  else if o < 0x120 then [10, 11, 12, 13, 14, 15, 16, 17]
  else if o < 0x200 then [10 + (o - 0x120) / 0x20]
  else if o < 0xE00 then [10 + dieNo ((o - 0x200) / 0x40)]
  else if o < 0x1800 then [17]
  else if o < 0x1820 then [20, 21]
  else if o < 0x1C00 then [20]
  else if o < 0x2000 then [21]
  else if o < 0x2400 then [22]
  else if o < 0x2418 then [24]
  else if o < 0x2420 then [25]
  else if o < 0x2600 then [24]
  else if o < 0x2C00 then [25]
  else if o < 0x3000 then []
  else if o < 0x4800 then [32 + (o - 0x3000) / 0x400]
  else if o < 0x4900 then [40]
  else if o < 0x4A00 then [41]
  else if o < 0x4B00 then [42]
  else if o < 0x4C00 then [43]
  else if o < 0x4E00 then [44]
  else if 0x5300 ≤ o ∧ o < 0x5400 then [39]
  else []

/-- The parts of a word of the input image that belong to a feature of their own, each with its bits (R577): the stream in the SW header,
the outputs in its TRIP and LOCK words, the wire model in a channel record, the bias check in an AIN record, permits, and AUTHREQ. -/
def imageParts (o : Nat) : List (Nat × Nat) :=
  let all := 0xFFFFFFFF
  if o = 0x100 then [(19, 3)]
  else if o = 0x114 then [(19, all)]
  else if o = 0x104 ∨ o = 0x10C then (upto 32).map (fun c => (10 + dieNo c, 2 ^ c))
  else if o = 0x108 ∨ o = 0x110 then (17, 0xFF0000) :: (upto 16).map (fun c => (10 + dieNo (32 + c), 2 ^ c))
  else if 0x200 ≤ o ∧ o < 0xE00 then
    (if o % 0x40 = 0 then [(18, 0xC0)] else if o % 0x40 = 0x1C ∨ o % 0x40 = 0x20 then [(18, all)] else [])
  else if 0x2600 ≤ o ∧ o < 0x2780 ∧ o % 0x10 = 0 then [(26, 0xFFFF0380)]
  else if o = 0x4C00 then [(45, 4)]
  else if o = 0x4C20 ∨ o = 0x4C24 then [(45, all)]
  else if o = 0x4E00 then [(46, 4)]
  else []

/-- The bits of a word of the input image that read 0 under a feature set. -/
def imageMask (has : Nat → Bool) (o : Nat) : Nat := (imageParts o).foldl (fun m p => if has p.1 then m else m ||| p.2) 0

/-- The records of absent features read NAT 0, and their parts of the other words read 0 (R577). -/
def State.dropAbsent (s : State) : State :=
  let own := s.frm.input.filter (fun p =>
    ((imageFeats p.1).isEmpty || (imageFeats p.1).any s.feat) && imageMask s.feat p.1 != 0xFFFFFFFF)
  { s with frm := { s.frm with input := own.map (fun p =>
    if imageMask s.feat p.1 = 0 then p else (p.1, { p.2 with val := dropBits p.2.val (imageMask s.feat p.1) })) } }

/-- VALID (R59, R226, R577, R689): bit i for region i. -/
def State.valid (s : State) : Nat :=
  let on := fun (ds fs : List Nat) => ds.any s.domOn && fs.any s.feat
  packBits 21 (fun i => match i with
    | 0 => true
    | 1 => on [3, 4, 5] [10, 11, 12, 13, 14, 15, 16, 17]
    | 2 => on [0, domPress] [20, 21]
    | 3 => on [domLed] [22]
    | 4 => s.inp.sampled && on [domInp] [24, 25]
    | 5 => true
    | 6 => true
    | 7 => true
    | 8 => true
    | 9 => on [domCan] [32, 33, 34, 35, 36, 37]
    | 10 => on [domCan] [40]
    | 11 => on [domEth] [41]
    | 12 => on [domTime] [42]
    | 13 => on [domEth] [43]
    | 14 => on [domAcc] [44]
    | 15 => true
    | 16 => true
    | 17 => true
    | 18 => true
    | 20 => on [domLin] [39]
    | _ => false)

/-- The header of the input image (R59). DESIGN CHOICE: after a CFG change applied at E_k, T_F, S_eff and the source bit of TIMING are those
of the frame that opens; R59 does not say which frame's they are. -/
def State.imageHeader (s : State) : State :=
  let f := s.frm.frame.toNat
  let t := (BitVec.ofInt 64 s.frm.edgeT).toNat
  let fstat := s.fld F.frmStatOvrrun + 4 * b2n s.frm.committing + 8 * b2n s.win.safe + 16 * b2n s.sec.rcvr + 32 * b2n s.frm.applied
  let l := [0x00010001, f % 2 ^ 32, f / 2 ^ 32, s.tfUs + 2 ^ 16 * s.seff + 2 ^ 25 * b2n s.frm.synced, t % 2 ^ 32, t / 2 ^ 32,
    fstat, s.winSum, s.valid]
  l.zipIdx.foldl (fun u p => u.putIn (4 * p.2) (TWord.nat p.1)) s

/-- The records of I_k that report the edge, over the statistics closed before step 2 (R22 step 4); what rises in them sets its
sources first. -/
def State.closeImage (s : State) (led : Nat → Nat × Nat) : State :=
  let s1 := (s.swRecords.prsRecords.ledRecords led).inpRecords
  let s2 := s1.echRecords.grnRecords.pwrRecords.canRecords.nmRecords
  let s3 := s2.ethRecords.timRecords.balRecords.accRecords.hstRecords
  let s4 := s3.secRecords.silRecords.glnRecords.linRecords
  s4.winRecord.imageHeader.dropAbsent

/-- What the records report of a frame is cleared for the next one, with the seal flags and the arming of class F forces (R28, R259). -/
def State.clearNotes (s : State) : State :=
  let s1 := s.ledClear.canClear.linClear.nmFrameClear.ethClear
  let s2 := s1.timClear.balClear.inpClear.accClear.silClear
  let s3 := s2.echClear.grnClear.pwrClear.hstClear
  (s3.setFld F.winTestArmf 0).setFld F.frmSealedCores 0

/-! ### The edge as a whole (R22) -/

/-- Step 1, and the close of the frame that ends, under its configuration: the latches, and the statistics into the new image. -/
def State.closeFrame (s : State) : State :=
  let s1 := (forEach 2 State.latchWake (forEach 48 State.latchNote s)).gpioLatch
  let s2 : State := { s1 with frm := { s1.frm with input := [] } }
  let s3 := (forEach 24 State.ainJudge s2).inpClose
  let s4 := s3.swClose.prsClose
  (forEach 24 State.ledNote (if s4.domOn domLed then forEach 24 State.ledClose s4 else s4)).balEdge

/-- The outputs and the blocks move under the new configuration and the new image (R22 step 3); `back` names the supply groups
whose outputs return at this edge, `ended` the number of the frame that closed. -/
def State.moveBlocks (s : State) (back : Nat → Bool) (ended : Nat) : State :=
  let park := match s.pwr.resumed with
    | some (p, _) => p
    | none => false
  let dev := quant (((s.rate : Int) - rate0) * 1000000000) rate0
  let s1 := ((s.pwrEdge.glnEdge ended dev).accEdge.swEdge back).prsEdge.ledEdge
  let s2 := forEach 4 State.vsSlot (forEach 4 State.vsEdge s1).prsSlot
  ((s2.canEdge.nmEdge park).accDemand).inpSources

/-- T just after the edge (R519): the multiple of T_F at which the edge fell, or after a step or on the device's own time what corrected
time says. -/
def State.stampEdge (s : State) (due : Option Int) : State :=
  { s with frm := { s.frm with edgeT := if s.tim.stepped then s.timeAt s.frm.edgeAt else due.getD (s.timeAt s.frm.edgeAt) } }

/-- The edge E_k at the moment `at_` in COUNT. A resume edge commits the committed image again (R439), as do the edges of a class F
halt and of recovery (R265, R612). -/
def State.edge (s : State) (at_ : Nat) : State :=
  let resume := s.pwr.resumed.isSome
  let deadline := s.beforeEdge 750
  let cfgseal := s.bit F.frmCfgCfgseal
  let mask := s.fld F.frmSealmaskMask
  let repeated := s.win.fhalt || s.sec.rcvr || resume
  let committing := s.imageSealed && !repeated
  let ended := s.frm.frame.toNat
  let due : Option Int := if s.netTime then some (if resume then s.timeAt at_ / (1000 * s.tfUs) * (1000 * s.tfUs) else s.edgeTarget) else none
  let s1 := (s.advance at_).accSlots.closeFrame
  let led := (upto 24).map s1.ledFrame
  let s2 : State := { s1 with frm := { s1.frm with
    frame := s1.frm.frame + 1, edgeAt := at_, slot := 0, judged := 0, committing := committing } }
  let back := fun (g : Nat) => s2.groupBack g || (match s2.pwr.resumed with
    | some (p, _) => !p
    | none => false)
  let r := s2.takeHeld s2.frm.frame.toNat cfgseal committing
  let s3 := (r.1.timEdge.stampEdge due).hostEdge
  let s4 := if committing then s3.commitImage r.2 deadline mask else if repeated then s3 else s3.overrun
  let s5 := (s4.holdCommitted s.win.safe).safeRelease.moveBlocks back ended
  let s6 : State := { s5 with frm := { s5.frm with synced := s5.synced } }
  (s6.closeImage (fun n => led.getD n (0, 0))).clearNotes.applyRequests r.2

/-- Parking begins at an edge that leaves every domain but AON down, no job enabled and no wake source requesting (R440). -/
def State.parkEdge (s : State) : State :=
  let down := (upto 31).all (fun d => !s.domOn (d + 1) && !(nth s.pwr.dom (d + 1) {}).waking)
  if s.bit F.pwrParkEn && down && (upto 64).all (fun j => !s.bit (F.frmJobEn j)) && s.levelWakes == 0 then
    { s with pwr := { s.pwr with pause := .parkWait s.frm.edgeAt } }
  else s

/-- A use that the device does not check: a clamp took more in the frame than the rating of a single event (R144, R151, R182). -/
def State.clampUnchecked (s : State) : Bool :=
  (upto 12).any (fun c => decide (400000 < s.pin (.plUj c))) || (upto 4).any (fun x => decide (400000 < s.pin (.pxUj x)))

end Sys2Proof.Machine
end

