-- ==== Sys2Proof/Machine/Frame.lean ====
section
/-!
DEFINITION. The frame's commands: the edge, the deadlines, job releases, events and their dispatch (01_frame.md, R439).
-/

namespace Sys2Proof.Machine

/-- FRAME_EDGE: the frame ends, with the readings that the command carries, and its edge opens the next one (R22). A pause of the
frame has its own edge, and an unpowered frame has none (R135). -/
def execFrameEdge (w : World) (s : State) : Out :=
  if s.pwr.pause = .run ∧ s.unpowered = false then
    let s1 : State := { s with pwr := { s.pwr with resumed := none } }
    let s2 := s1.observe w
    if s2.clampUnchecked then .fault (.uncheckedUse 151) else .next (s2.edge s.nextEdge).coresDown.parkEdge
  else .next s

/-- RESUME_EDGE: the first edge after a dip or after parking, 60 µs after PLL lock, or on corrected time at the first multiple of T_F
from there on (R439, R522); an unpowered frame has none (R135). -/
def execResumeEdge (w : World) (s : State) : Out :=
  match s.pwr.pause with
  | .resume since park (some lock) =>
    if s.unpowered then .next s else
    let at_ := s.resumeAt lock
    let us := (((at_ : Int) - since) / 600).toNat
    let s1 : State := { s with pwr := { s.pwr with pause := .run, resumed := some (park, us) } }
    let s2 := s1.observe w
    if s2.clampUnchecked then .fault (.uncheckedUse 151) else .next (s2.edge at_).coresDown.parkEdge
  | _ => .next s

/-- SEAL_DEADLINE: 5 µs before the closing edge (R28). What a SEAL and a staging store do from there on follows from the time. -/
def execSealDeadline (s : State) : Out := .next (if s.frameRuns then s.advance (s.beforeEdge 750) else s)

/-- FIRMWARE_CUTOFF: 2 µs before the closing edge; later firmware stores to staged fields wait for the edge after it (R38). -/
def execFirmwareCutoff (s : State) : Out := .next (if s.frameRuns then s.advance (s.beforeEdge 300) else s)

/-- HOST_CUTOFF: 20 µs before the closing edge; later host transactions roll to the edge after it (R39). -/
def execHostCutoff (s : State) : Out := .next (if s.frameRuns then s.advance (s.beforeEdge 3000) else s)

/-- The job's release falls in the current frame and has not been judged (R42). -/
def State.releaseDue (s : State) (j : Nat) : Bool :=
  let n := s.fld (F.frmJobPer j) + 1
  s.frameRuns && s.bit (F.frmJobEn j) && decide (s.frm.frame.toNat % n = s.fld (F.frmJobPhase j) % n) && !s.frm.judged.getLsbD j

/-- A missed release (R45). -/
def State.missRelease (s : State) (j : Nat) : State :=
  let f := F.frmJobovrMissed (j / 32)
  (s.setFld f (s.fld f ||| 2 ^ (j % 32))).raiseSource 174

/-- A core takes no release: not started, held by HLOAD, or halted in echo halt, by a double trap or for debug (R270, R293, R379, R392,
R608). -/
def State.refusesJobs (s : State) (c : Fin 2) : Bool :=
  let k := s.cr c
  !k.started || s.sec.hold[c].isSome || k.halt.echo || k.halt.trap || k.halt.dbg

/-- JOB_RELEASE: job `j` is released at E + 2 µs or at the start of its slot (R42): it becomes ready, or waits for its core's domain
(R46); one that has not ended misses the release (R45), except at a resume edge (R439), and so does one of a core that takes none; one
for a core that is locked off is dropped (R437). -/
def execJobRelease (j : Fin 64) (s : State) : Out :=
  .next (if s.releaseDue j then
    let c : Fin 2 := if s.bit (F.frmJobCore j) then 1 else 0
    let slot := min (s.fld (F.frmJobRslot j)) (s.seff - 1)
    let s1 := s.advance (if slot = 0 then s.frm.edgeAt + 2 * ticksPerUs else s.slotAt slot)
    let s2 : State := { s1 with frm := { s1.frm with judged := s1.frm.judged ||| (1#64 <<< j.val) } }
    if s2.domLocked (1 + c) then s2.lockAccess
    else if nth s2.frm.jobs j .idle ≠ .idle then (if s2.pwr.resumed.isSome then s2 else s2.missRelease j)
    else if s2.refusesJobs c then s2.missRelease j
    else if s2.domOn (1 + c) then s2.setJob j (.ready c (s2.fld (F.frmJobPrio j)))
    else (s2.setJob j (.waking c (s2.fld (F.frmJobPrio j)))).demand (1 + c)
  else s)

/-- EVENT_RAISE: the condition of event `n` occurs (R48); events 78 to 95 are never raised. -/
def execEventRaise (n : Fin 128) (s : State) : Out := .next (if 78 ≤ n.val ∧ n.val ≤ 95 then s else s.raiseEvent n)

/-- EVENT_DISPATCH: the first of a core's highest ready tasks, a pending event, enters its handler (R43, R44, R49). -/
def execEventDispatch (c : Fin 2) (s : State) : Out := .next (s.dispatch c false)

/-- JOB_START: the first of a core's highest ready tasks, a job, issues its first instruction (R43, R44, R688). -/
def execJobStart (c : Fin 2) (s : State) : Out := .next (s.dispatch c true)

end Sys2Proof.Machine
end

