-- ==== Sys2Proof/Machine/Course.lean ====
section
/-!
DEFINITION. The course of one instruction of a core from issue to retirement: fetch, breakpoints, its record in the two passes and their
comparison, replay and echo halt, repetition, traps (R292, R304, R316, R317, R336, R364 to R379, R393).
-/

namespace Sys2Proof.Machine

/-- What an instruction does: it retires, with the next PC where that is not the next instruction's and the words it accessed (address,
and the word stored by a store); it traps; it waits; or it is a use that the device does not check. A trap's state holds only what is
reported beside it. -/
inductive Eff where
  | done (s : State) (next : Option Word) (acc : List (Nat × Option TWord))
  | trap (cause : Nat) (tval : Word) (s : State)
  | wait (s : State)
  | unchecked (rule : Nat)

/-- It retires with nothing but a new state. -/
abbrev Eff.ok (s : State) : Eff := .done s none []

/-! ### The record of a pass (R367 to R369) -/

/-- The word registers that an instruction writes (R326 to R329, R338 to R342, R361). -/
def NIns.writes (i : NIns) (wrd : Bool) : List Nat :=
  let pair := if i.pre.wide then [i.d, i.d + 1] else [i.d]
  match i.op with
  | 0x50 => if i.x = 6 then [] else [i.d]
  | 0x54 | 0x55 | 0x90 | 0x94 | 0x9E | 0xC2 => pair
  | 0x91 | 0x93 | 0x96 | 0x97 | 0x98 | 0x9B | 0x9C | 0x9D | 0xA0 | 0xA1 | 0xC0 | 0xC5 | 0xC7 => [i.d]
  | 0x99 => [i.a, i.b]
  | 0x9A => [i.a]
  | 0xC1 => if i.x = 13 then [] else [i.d]
  | 0xF7 => if wrd then [i.d] else []
  | o => if (0x80 ≤ o ∧ o ≤ 0x8F ∧ o ≠ 0x8D) ∨ (0xA2 ≤ o ∧ o ≤ 0xA9) then [i.d] else []

/-- An instruction writes or decreases CNT (R368). -/
def NIns.countsDown (i : NIns) : Bool :=
  i.pre.rep || i.op == 0x56 || i.op == 0x99 || i.op == 0x9A || (i.op == 0x9F && i.d == 1)

/-- The registers that the instruction at a core's PC writes. -/
def State.writesOf (s : State) (i : NIns) : List Nat := i.writes ((s.customWord i.x 0).getLsbD 22)

/-- A number as an item of a record, padded with zeros to 36 bits (R368). -/
def item (n : Nat) : BitVec 36 := BitVec.ofNat 36 n

/-- The compared record of a pass (R368): each register write, FLG, CNT, the accesses with what stores store, the next PC, a trap. -/
def State.record (s : State) (c : Fin 2) (i : NIns) (e : Eff) : List (BitVec 36) :=
  let pc := (s.cr c).pc
  let nextPc := pc + BitVec.ofNat 32 i.len
  match e with
  | .done t nx acc =>
    (s.writesOf i).flatMap (fun r => [item r, bitsOf (t.w c r)]) ++ [item (t.cr c).flg.toNat]
      ++ (if i.countsDown then [item (if i.pre.rep then (s.cr c).cnt - 1 else (t.cr c).cnt).toNat] else [])
      ++ acc.flatMap (fun a => item a.1 :: (match a.2 with
        | some v => [bitsOf v]
        | none => []))
      ++ [item (nx.getD (if i.pre.rep ∧ (s.cr c).cnt ≠ 1 then pc else nextPc)).toNat]
  | .trap cause v _ => [item (s.cr c).flg.toNat, item pc.toNat, item cause, item v.toNat]
  | .wait _ => []
  | .unchecked _ => []

/-- The logical group that a physical slice carries: its own in the first pass, in the echo pass the one below (R367). -/
def groupOn (slice : Fin 4) (second : Bool) : Nat := if second then (slice.val + 3) % 4 else slice.val

/-- The logical bits of item `n` that disturbed slices flip in a pass (R367). -/
def slipMask (l : List Slip) (second : Bool) (n : Nat) : BitVec 36 :=
  (l.filter (fun x => x.item == n && (if second then x.second else x.first))).foldl
    (fun m x => m ^^^ ((x.bits.setWidth 36 : BitVec 36) <<< (9 * groupOn x.slice second : Nat))) (0 : BitVec 36)

/-- A record as a pass with disturbed slices forms it. -/
def slipped (l : List Slip) (second : Bool) (r : List (BitVec 36)) : List (BitVec 36) :=
  r.zipIdx.map (fun p => p.1 ^^^ slipMask l second p.2)

/-- Two items differ in a logical group that some lane compares (R368, R385). -/
def groupsDiffer (dead : List Nat) (a b : BitVec 36) : Bool :=
  (upto 4).any (fun g => !dead.contains g && a.extractLsb' (9 * g) 9 != b.extractLsb' (9 * g) 9)

/-- The comparator finds two records different (R368, R369, R385). -/
def recordsDiffer (dead : List Nat) (a b : List (BitVec 36)) : Bool :=
  a.length != b.length || (a.zip b).any (fun p => groupsDiffer dead p.1 p.2)

/-- What a first pass with disturbed slices writes to its registers, where no comparison has found it. DESIGN CHOICE: the model carries
such a defect into the register words alone; what it does to an address is not followed. -/
def State.slipWrites (s : State) (c : Fin 2) (i : NIns) (l : List Slip) (e : Eff) : Eff :=
  match e with
  | .done t nx acc => .done ((s.writesOf i).zipIdx.foldl (fun u q => if slipMask l false (2 * q.2 + 1) = 0 then u
      else u.setW c q.1 (wordOfBits (bitsOf (u.w c q.1) ^^^ slipMask l false (2 * q.2 + 1)))) t) nx acc
  | x => x

/-- An instruction completes in its pass: it retires or traps. -/
def Eff.completes : Eff → Bool
  | .done _ _ _ => true
  | .trap _ _ _ => true
  | .wait _ => false
  | .unchecked _ => false

/-! ### Mismatch, replay, echo halt (R374 to R379) -/

/-- A first echo mismatch (R374, R376): nothing retires, and the instruction is to be replayed. -/
def State.echoMiss (s : State) (c : Fin 2) (par : Bool) : State :=
  let s1 := (s.satInc (F.echMiscntCount c)).setFld (F.echLastpcPc c) (s.cr c).pc.toNat
  let s2 := s1.setFld F.echStatMis (s1.fld F.echStatMis ||| 2 ^ c.val)
  let s3 := s2.setCore c (fun k => { k with ech := { k.ech with
    mis := k.ech.mis + 1, bpar := k.ech.bpar + b2n par, miss := true } })
  if par then (s3.setFld F.echStatBpar (s3.fld F.echStatBpar ||| 2 ^ c.val)).raiseSource 7 else s3.raiseSource (2 + c)

/-- A mismatch: the first brings the replay, the second the echo halt (R376, R377, R379). -/
def State.mismatched (s : State) (c : Fin 2) (par : Bool) : State :=
  if (s.cr c).ech.miss then
    ((s.setCore c (fun k => { k with
      halt := { k.halt with echo := true }
      ech := { k.ech with miss := false } })).abandonAll c).raiseSource c
  else s.echoMiss c par

/-! ### Breakpoints and retirement -/

/-- The enabled breakpoint that an instruction's first byte meets (R393). -/
def State.breakpoint (s : State) (c : Fin 2) : Option Nat :=
  ((upto 4).map (· + 4 * c.val)).find? (fun n => (s.fld F.dbgBpctlEn).testBit n && s.fld (F.dbgBpAddr n) == (s.cr c).pc.toNat)

/-- The enabled watchpoint that one of an instruction's accesses meets (R393). -/
def State.watchpoint (s : State) (c : Fin 2) (acc : List (Nat × Option TWord)) : Option Nat :=
  ((upto 2).map (· + 2 * c.val)).find? (fun n => (s.fld F.dbgWpctlEn).testBit n && acc.any (fun a =>
    s.fld (F.dbgWpAddr n) == a.1 / 4 && (a.2.isSome || !(s.fld F.dbgWpctlSto).testBit n)))

/-- An instruction retires and is counted (R396). -/
def State.counted (s : State) (c : Fin 2) (echoed : Bool) : State :=
  s.setCore c (fun k => { k with
    stall := none
    ech := if echoed then { k.ech with einst := incTo 0xFFFFFFFF k.ech.einst, miss := false }
      else { k.ech with sinst := incTo 0xFFFFFFFF k.ech.sinst, miss := false } })

/-- What retirement does beside the effect: counts (R396), watchpoints, the end of a step (R392). -/
def State.retired (s : State) (c : Fin 2) (echoed : Bool) (acc : List (Nat × Option TWord)) : State :=
  let step := (s.cr c).halt.stepping
  let s1 := s.counted c echoed
  let s2 := match s1.watchpoint c acc with
    | some n => if (s.fld F.dbgWpctlTrap).testBit n then s1.trapEnter c 11 0 (s1.cr c).pc else s1.debugHalt c 3 n
    | none => s1
  if step then s2.debugHalt c 1 0 else s2

/-- The end of an instruction whose passes agree, or that has one pass: it retires with its repetition, traps or waits. One that enters
recovery retires, and its core is where the entry has put it (R611). -/
def State.settle (s : State) (c : Fin 2) (i : NIns) (echoed : Bool) (e : Eff) : Out :=
  let pc := (s.cr c).pc
  let nextPc := pc + BitVec.ofNat 32 i.len
  match e with
  | .wait t => .next t
  | .unchecked r => .fault (.uncheckedUse r)
  | .trap cause v t => .next (t.trapEnter c cause v (if cause = 10 then nextPc else pc))
  | .done t nx acc =>
    let t1 := if i.pre.rep then
        t.setCore c (fun k => { k with
          cnt := (s.cr c).cnt - 1, pc := if (s.cr c).cnt = 1 then nextPc else pc })
      else t.setCore c (fun k => { k with pc := nx.getD nextPc })
    .next (if t.sec.rcvr && !s.sec.rcvr then t.counted c echoed else t1.retired c echoed acc)

/-- What a path's parity errors set as an instruction runs (R316): source 12 at a replay, source 13 where the replay meets the error
again. -/
def parityState (p : Phys) (s : State) : State :=
  match p.parity with
  | .never => s
  | .once => s.raiseSource 12
  | .twice => ((s.raiseSource 12).raiseSource 13).fresh.2

/-- The effect of an instruction under a path's parity: where the replay meets the error again it raises DATA, in both passes, but for a
cause that R290 puts before DATA. TVAL of such a DATA, which has no address, is the free value `v`. -/
def parityEff (p : Phys) (v : Word) (f : State → Eff) (s : State) : Eff :=
  if p.parity = .twice then (match f s with
    | .trap cause w t => if cause = 10 ∨ cause = 11 then .trap 9 v s else .trap cause w t
    | _ => .trap 9 v s)
  else f s

/-- One instruction of a core from issue to retirement: parity replays, both passes and their comparison, the effect, the repetition, the
trap. The echo pass computes from the echo register file; what comes from outside the datapath is delivered to both passes (R370, R371). -/
def State.course (s : State) (c : Fin 2) (p : Phys) (i : NIns) (f : State → Eff) : Out :=
  let pc := (s.cr c).pc
  let echoed := s.onSafety c pc.toNat && !i.pre.single
  if i.pre.rep ∧ (s.cr c).cnt = 0 then
    .next ((s.setCore c (fun k => { k with pc := pc + BitVec.ofNat 32 i.len })).retired c echoed [])
  else
    let s1 := parityState p s
    let g := parityEff p s.fresh.1 f
    let e := g s1
    let differs := echoed && e.completes && (p.bufPar || recordsDiffer (s.cr c).ech.dead (slipped p.slips false (s1.record c i e))
      (slipped p.slips true (s1.record c i (g (s1.echoView c)))))
    if differs then .next (s1.mismatched c p.bufPar)
    else s1.settle c i echoed (if p.slips.isEmpty then e else s1.slipWrites c i p.slips e)

/-! ### Issue -/

/-- The trap that the fetch of an instruction's bytes takes (R290, R317, R318, R405): FETCH with the address of the first byte that the
core may not fetch, or whose bank did not wake; else DATA with that of the first byte of a word that is not delivered. -/
def State.fetchTrap (s : State) (c : Fin 2) (n : Nat) : Option (Nat × Word × State) :=
  let pc := (s.cr c).pc
  match s.badByte c n with
  | some a => some (5, BitVec.ofNat 32 a, if inGranary a then s.strayAccess a c.val false true else s)
  | none =>
    match s.sleepingByte c n with
    | some d => if s.stallFailed c d then some (5, pc, s) else none
    | none => match s.fetchChecks c (s.fetchWords c n) with
      | (some a, t) => some (9, BitVec.ofNat 32 a, t)
      | (none, _) => none

/-- An instruction of `n` bytes that can be fetched issues: its bank wakes first, a bank that is locked off is reported (R437), it may
not lie in a word that was stored since the last FENCE (R304), a breakpoint stops before it (R393), and the first of an entry takes the
stamp (R344). -/
def State.issueAt (s : State) (c : Fin 2) (n : Nat) (run : State → Out) : Out :=
  let pc := (s.cr c).pc
  match s.sleepingByte c n with
  | some d => .next (s.stallOn c d)
  | none =>
    let s0 := if (s.fetchBytes c n).any s.inLocked then s.lockAccess else s
    let s1 := (s0.fetchChecks c (s.fetchWords c n)).2
    if ((upto n).map (fun o => (pc.toNat + o) / 4 * 4)).any (fun a => (s.cr c).dirty.contains a) then .fault (.uncheckedUse 304)
    else match s.breakpoint c with
    | some k =>
      if (s.cr c).halt.stepping then run (s1.stampCore c)
      else if (s.fld F.dbgBpctlTrap).testBit k then .next (s1.trapEnter c 11 0 pc)
      else .next (s1.debugHalt c 2 k)
    | none => run (s1.stampCore c)

/-- A core issues what stands at its PC, its words settled (R410), with the SINGLE that its bytes are seen to carry (R366): a fetch that
traps, in both passes on a page marked safety; bytes that spell no instruction (`ill`), or the instruction, where the command names it;
else nothing happens. -/
def State.issueHere (s0 : State) (c : Fin 2) (p : Phys) (ill : Nat → Option (State → Eff)) (ins : NIns → Option (State → Eff)) : Out :=
  if !s0.atInstr c || s0.stalled c then .next s0
  else
    let s := s0.settledStream c
    let d := s.decodeHere c
    match s.fetchTrap c d.size with
    | some q => q.2.2.course c p { op := 0xFF, len := 0, pre := { single := s.singleHere c (q.2.1 - (s.cr c).pc).toNat } }
        (fun t => .trap q.1 q.2.1 t)
    | none =>
      match d with
      | .ill n => match ill n with
        | some f => s.issueAt c n (fun t => t.course c p { op := 0xFF, len := 0, pre := { single := s.singleHere c n } } f)
        | none => .next s0
      | .ins i => match ins i with
        | some f => s.issueAt c i.len (fun t => t.course c p i f)
        | none => .next s0

/-- A command that is an instruction of a core: the core issues the instruction at its PC, if that is the one the command names; a
fetch that traps does so whatever the command names; else nothing happens. -/
def State.instr (s : State) (c : Fin 2) (p : Phys) (is : NIns → Bool) (f : NIns → State → Eff) : Out :=
  s.issueHere c p (fun _ => none) (fun i => if is i then some (f i) else none)

end Sys2Proof.Machine
end

