-- ==== Sys2Proof/Machine/NolorOps.lean ====
section
/-!
DEFINITION. Shared operations of the core instructions: operand checks (R273 to R279, R290, R325), results and flags (R309 to R315,
R332), memory accesses through the store buffer (R295 to R308, R339, R340).
-/

namespace Sys2Proof.Machine

/-! ### Operands -/

/-- A word that an instruction reads: the tags it accepts there, its operand position (R291), whether NIL raises NILUSE (R274), and
whether TAGX leaves one reading of a word with another tag (R325). -/
structure Src where
  w : TWord
  ok : Tag → Bool
  pos : Nat
  nilUse : Bool := false
  uniq : Bool := true

/-- What stops an instruction for the tags of its operands: NILUSE of any before TYPE of any (R290); under TAGX a TYPE mismatch is read
under the tag the instruction expects, and where it expects none in particular the use is unchecked (R278, R325). -/
def operandStop (tagx : Bool) (s : State) (l : List Src) : Option Eff :=
  match l.find? (fun x => x.nilUse && x.w.tag == Tag.nil) with
  | some x => some (.trap 2 (tagVal x.w.tag x.pos) s)
  | none =>
    match l.find? (fun x => !x.ok x.w.tag && !(tagx && x.uniq)) with
    | some x => some (if tagx then .unchecked 278 else .trap 1 (tagVal x.w.tag x.pos) s)
    | none => none

/-- An instruction goes on after the check of its operands. -/
def withOperands (tagx : Bool) (s : State) (l : List Src) (k : Eff) : Eff := (operandStop tagx s l).getD k

/-- An access of an instruction: the operands that form its address, and the address. -/
structure MemAcc where
  srcs : List Src
  addr : Nat

/-- A region that only SUP mode reaches is named by an access of a core in JOB mode (R284). -/
def State.barred (s : State) (c : Fin 2) (a : Nat) : Bool := (regionOf a).supOnly (.core c) && (s.cr c).job

/-- PRIV of an access whose own operands give it an address (R284, R291); it comes before NILUSE, TYPE and HANDLE of the instruction's
other operands (R290). -/
def State.privStop (s : State) (c : Fin 2) (tagx : Bool) (l : List MemAcc) : Option Eff :=
  (l.find? (fun x => (operandStop tagx s x.srcs).isNone && s.barred c x.addr)).map (fun x => .trap 6 (BitVec.ofNat 32 x.addr) s)

/-- An instruction that accesses memory goes on after PRIV of its accesses and the check of its operands (R290). -/
def withAccess (c : Fin 2) (tagx : Bool) (s : State) (acc : List MemAcc) (l : List Src) (k : Eff) : Eff :=
  (s.privStop c tagx acc).getD (withOperands tagx s l k)

/-- Goes on with a value, or ends as the operation before it did. -/
def andThen {α : Type} (r : Except Eff α) (f : α → Eff) : Eff :=
  match r with
  | .error e => e
  | .ok x => f x

/-- The address of the instruction that follows. -/
def State.nextPc (s : State) (c : Fin 2) (i : NIns) : Word := (s.cr c).pc + BitVec.ofNat 32 i.len

/-- A tag other than 0xF. -/
def anyTag (t : Tag) : Bool := t != Tag.reserved

/-- A register as an operand that accepts one tag. -/
def one (w : TWord) (t : Tag) (pos : Nat) (nilUse : Bool := false) : Src := { w := w, ok := (· == t), pos := pos, nilUse := nilUse }

/-- A register as an operand that accepts every tag but 0xF. -/
def whole (w : TWord) (pos : Nat) : Src := { w := w, ok := anyTag, pos := pos, uniq := false }

/-- A register as the address base of a memory access (R274, R276). -/
def base (w : TWord) : Src := one w Tag.ptr 2 true

/-! ### Results -/

/-- A result written to a register, with its flags unless NF is 1 (R322, R332). What the spec leaves open of it is a free value. -/
def State.writeOut (s : State) (c : Fin 2) (d : Nat) (nf : Bool) (o : AluOut) : State :=
  let put := fun (s : State) (w : TWord) (f : Nzcv) =>
    let s1 := s.setW c d w
    if nf then s1 else s1.setFlg c (f.into (s.cr c).flg)
  match o with
  | .val w f => put s w f
  | .openC w f => put s.fresh.2 w { f with c := s.fresh.1.getLsbD 0 }
  | .openNaN => put s.fresh.2 ⟨Tag.flt, (s.fresh.1 &&& 0x803FFFFF#32) ||| 0x7FC00000#32⟩ ⟨false, false, false, false⟩

/-- The numeric tags. -/
def numTag (t : Tag) : Bool := t == Tag.int || t == Tag.nat || t == Tag.fix || t == Tag.flt

/-- The tags that operation `k` of the arithmetic and logical instructions accepts (R332): 0 ADD to 4 REM, 5 AND to 7 XOR,
8 SHL to 12 ROR, 13 CMP, 14 MIN, 15 MAX. -/
def aluAccepts (k : Nat) (t : Tag) : Bool :=
  if k = 4 then t == Tag.int || t == Tag.nat || t == Tag.fix
  else if 5 ≤ k ∧ k ≤ 7 then t == Tag.int || t == Tag.nat || t == Tag.raw || t == Tag.bool
  else if 8 ≤ k ∧ k ≤ 12 then t == Tag.int || t == Tag.nat || t == Tag.raw
  else numTag t

/-- Operation `k` on words of tag `t`. -/
def aluResult (k : Nat) (t : Tag) (a b : Word) : AluOut :=
  if k ≤ 4 then arith k t a b
  else if k ≤ 7 then logic k t a b
  else if k ≤ 12 then shift k t a b.toNat
  else minMax (k = 15) t a b

/-- Operation `k` on two words, its result written to `d`; CMP writes flags alone, whatever NF is (R328, R332). -/
def State.alu (s : State) (c : Fin 2) (i : NIns) (k : Nat) (a b : TWord) : Eff :=
  let shiftOp := decide (8 ≤ k) && decide (k ≤ 12)
  let sa : Src := { w := a, ok := aluAccepts k, pos := 0, nilUse := true, uniq := false }
  withOperands i.pre.tagx s [sa, one b (if shiftOp then Tag.nat else a.tag) 1 true]
    (if k = 13 then .ok (s.setFlg c ((cmpFlags a.tag a.val b.val).into (s.cr c).flg))
     else .ok (s.writeOut c i.d i.nf (aluResult k a.tag a.val b.val)))

/-- Operation `k` between registers. -/
def aluReg (k : Nat) (c : Fin 2) (i : NIns) (s : State) : Eff := s.alu c i k (s.w c i.a) (s.w c i.b)

/-- Operation `k` with an immediate, which takes the tag of `a`, or is a NAT count; a 16-bit immediate to a FLT is a TYPE trap
(R331). -/
def aluImm (k : Nat) (c : Fin 2) (i : NIns) (s : State) : Eff :=
  let a := s.w c i.a
  if 8 ≤ k ∧ k ≤ 12 then s.alu c i k a (TWord.nat i.imm)
  else if a.tag = Tag.flt ∧ aluAccepts k a.tag = true ∧ i.immLen ≠ 4 then .trap 1 (tagVal a.tag 1) s
  else s.alu c i k a ⟨a.tag, i.immFor a.tag⟩

/-- A UNARY operation on `d` (R326, R332). -/
def unary (ok : Tag → Bool) (f : Tag → Word → AluOut) (c : Fin 2) (i : NIns) (s : State) : Eff :=
  let a := s.w c i.d
  withOperands i.pre.tagx s [{ w := a, ok := ok, pos := 0, nilUse := true, uniq := false }] (.ok (s.writeOut c i.d false (f a.tag a.val)))

/-! ### Memory -/

/-- The word that a buffered store holds for an address. -/
def BufStore.at_ (x : BufStore) (a : Nat) : Option TWord := if x.a = a then some x.v else if x.a + 4 = a then x.v2 else none

/-- The youngest buffered store of a core to an address (R298). -/
def State.buffered (s : State) (c : Fin 2) (a : Nat) : Option TWord := (s.cr c).buf.reverse.findSome? (fun x => x.at_ a)

/-- A core's instruction waits for the oldest store of its buffer, or only for its turn. -/
def State.drainStall (s : State) (c : Fin 2) : State :=
  match s.drainWaits c with
  | some d => s.stallFor c d true
  | none => s

/-- The core's store buffer is empty, or its instruction waits (R301). -/
def State.emptied (s : State) (c : Fin 2) : Except Eff State :=
  let t := s.drainAll c
  match t.drainWaits c with
  | some _ => .error (.wait (t.drainStall c))
  | none => .ok t

/-- The store buffer has room for a store, its oldest store leaving it where it is full; else the instruction waits (R298). -/
def State.room (s : State) (c : Fin 2) : Except Eff State :=
  let t := if (s.cr c).buf.length < 8 then s else s.drainOne c
  if (t.cr c).buf.length < 8 then .ok t else .error (.wait (t.drainStall c))

/-- Loads and stores of a range go through the store buffer; every other access waits until the buffer is empty (R298, R301). -/
def Region.buffers (r : Region) : Bool :=
  match r with
  | .rom | .nearI _ | .nearD _ | .granary => true
  | _ => false

/-- What an access that did not complete makes of its instruction; `w` is the word a store carries. -/
def State.accessStop (s : State) (c : Fin 2) (a : Nat) (w : TWord) (r : BusRes) : Eff :=
  let at_ := BitVec.ofNat 32 a
  match r with
  | .ok _ t => .ok t
  | .wait d => .wait (s.stallOn c d)
  | .align => .trap 3 at_ s
  | .bus => .trap 4 at_ s
  | .priv => .trap 6 at_ s
  | .type => .trap 1 (tagVal w.tag 3) s
  | .data t => .trap 9 at_ t
  | .unchecked n => .unchecked n

/-- A load of one word by a core (R295 to R301, R305, R306, R409): a load whose target failed to wake returns NIL 0; one that would
deliver tag 0xF is a TYPE trap (R279). -/
def State.loadWord (s : State) (c : Fin 2) (tagx : Bool) (a : Nat) : Except Eff (TWord × State) :=
  let r := regionOf a
  let sup := !(s.cr c).job
  let ready := if r.buffers || a % 4 ≠ 0 then .ok s else s.emptied c
  match ready with
  | .error x => .error x
  | .ok s1 =>
    let own := match s1.buffered c a with
      | some v => if r.buffers && a % 4 == 0 && !(r.supOnly (.core c) && !sup) && (!inGranary a || s1.mayUse c.val (bankOf a)) then some v else none
      | none => none
    match own, s1.loadAddr (.core c) sup a .clean with
    | some v, _ => .ok ((match r with | .nearI _ => ⟨Tag.raw, v.val⟩ | _ => v), s1)
    | none, .ok v t =>
      if v.tag = Tag.reserved then .error (if tagx then .unchecked 278 else .trap 1 (tagVal v.tag 3) t) else .ok (v, t)
    | none, .wait d => if s1.stallFailed c d then .ok (TWord.nil0, s1) else .error (.wait (s1.stallOn c d))
    | none, x => .error (s1.accessStop c a TWord.nil0 x)

/-- A store of a core enters its buffer (R298); a store to the own near instruction store needs a FENCE (R304). -/
def State.pushStore (s : State) (c : Fin 2) (x : BufStore) : Except Eff State :=
  match s.room c with
  | .error e => .error e
  | .ok t => .ok (t.setCore c (fun k => { k with
      buf := k.buf ++ [x]
      dirty := (x.a :: (match x.v2 with
        | some _ => [x.a + 4]
        | none => [])).foldl (fun l a => if inStore (nearI c) a && !l.contains a then l ++ [a] else l) k.dirty }))

/-- A store of one word by a core (R298 to R306). A store to the custom region needs a FENCE (R354). -/
def State.storeWord (s : State) (c : Fin 2) (a : Nat) (v : TWord) : Except Eff State :=
  let r := regionOf a
  let sup := !(s.cr c).job
  if r.buffers then
    if r.supOnly (.core c) && !sup then .error (s.accessStop c a v .priv)
    else if a % 4 ≠ 0 then .error (s.accessStop c a v .align)
    else if r = .rom then .ok s
    else s.pushStore c { a := a, v := v }
  else
    match (if a % 4 ≠ 0 then .ok s else s.emptied c) with
    | .error x => .error x
    | .ok s1 =>
      match s1.storeAddr (.core c) sup a v with
      | .ok _ t => .ok (if r = .custom then t.setCore c (fun k => { k with dirtyCustom := true }) else t)
      | .wait d => if s1.stallFailed c d then .ok s1 else .error (.wait (s1.stallOn c d))
      | x => .error (s1.accessStop c a v x)

/-- The load of `a` after one that went from `s` to `t`; where it stops, nothing of the first is left (R289, R294). -/
def State.loadAfter (s t : State) (c : Fin 2) (tagx : Bool) (a : Nat) : Except Eff (TWord × State) :=
  match s.loadWord c tagx a with
  | .error e => .error e
  | .ok _ => t.loadWord c tagx a

/-- The store at `a` after a load that went from `s` to `t`; where it stops, nothing of the load is left (R289, R294). -/
def State.storeAfter (s t : State) (c : Fin 2) (a : Nat) (v : TWord) : Except Eff State :=
  match s.storeWord c a v with
  | .error e => .error e
  | .ok _ => t.storeWord c a v

/-- A paired access lies at a multiple of 8, but for the peripheral blocks (R306, R339). -/
def State.pairStop (s : State) (c : Fin 2) (a : Nat) : Option Eff :=
  let r := regionOf a
  if r.supOnly (.core c) && (s.cr c).job then some (s.accessStop c a TWord.nil0 .priv)
  else if r = .unmapped then some (s.accessStop c a TWord.nil0 .bus)
  else if r ≠ .periph ∧ a % 8 ≠ 0 then some (s.accessStop c a TWord.nil0 .align)
  else none

/-- A paired access to a bank takes its turn at both lanes before its first word (R339, R399). -/
def State.pairTurn (s : State) (c : Fin 2) (a : Nat) : State :=
  if inGranary a && s.mayUse c.val (bankOf a) && s.domOn (16 + bankOf a) then s.laneServe c.val (a + 4) else s

/-- A load into `d`, or into the pair from `d` on (R339). -/
def State.loadTo (s : State) (c : Fin 2) (i : NIns) (d a : Nat) : Eff :=
  if i.pre.wide then
    match s.pairStop c a with
    | some x => x
    | none =>
      let s0 := s.pairTurn c a
      andThen (s0.loadWord c i.pre.tagx a) (fun r =>
        andThen (s0.loadAfter r.2 c i.pre.tagx (a + 4)) (fun q =>
          .done ((q.2.setW c d r.1).setW c (d + 1) q.1) none [(a, none), (a + 4, none)]))
  else andThen (s.loadWord c i.pre.tagx a) (fun r => .done (r.2.setW c d r.1) none [(a, none)])

/-- A store of register `b`, or of the pair from `b` on, which enters the buffer as one store (R339). A paired store to the custom region
is one access, allowed or not as a whole: one that closes the region is performed in full (R289, R353). -/
def State.storeFrom (s : State) (c : Fin 2) (i : NIns) (b a : Nat) : Eff :=
  let v := s.w c b
  let v2 := s.w c (b + 1)
  if i.pre.wide then
    match s.pairStop c a with
    | some x => x
    | none =>
      andThen (if regionOf a = .rom then .ok s
        else if (regionOf a).buffers then s.pushStore c { a := a, v := v, v2 := some v2 }
        else if regionOf a = .custom then (match s.storeWord c (a + 4) v2 with
          | .error e => .error e
          | .ok t => t.storeWord c a v)
        else match s.storeWord c (a + 4) v2 with
          | .error e => .error e
          | .ok _ => match s.storeWord c a v with
            | .error e => .error e
            | .ok t => t.storeWord c (a + 4) v2)
        (fun u => .done u none [(a, some v), (a + 4, some v2)])
  else andThen (s.storeWord c a v) (fun t => .done t none [(a, some v)])

/-- The words that a store form stores, as operands. -/
def State.storeSrcs (s : State) (c : Fin 2) (i : NIns) (b : Nat) : List Src :=
  whole (s.w c b) 3 :: (if i.pre.wide then [whole (s.w c (b + 1)) 3] else [])

/-- An address: a PTR payload plus a byte offset, modulo 2^32 (R276). -/
def addrOf (p : Word) (off : Int) : Nat := (p + BitVec.ofInt 32 off).toNat

/-- A range that the ATOMIC prefix reaches for a core: the near data stores and Granary banks that it owns (R303). -/
def State.atomicTarget (s : State) (c : Fin 2) (a : Nat) : Bool :=
  match regionOf a with
  | .nearD _ => true
  | .granary => s.owner (bankOf a) == c.val
  | _ => false

/-- A read-modify-write in the Granary that stores nothing: by a core that does not own the bank (R404), to a bank that did not wake (R409)
or that is locked off (R437). -/
def State.storesNothing (s : State) (c : Fin 2) (a : Nat) : Bool :=
  inGranary a && (!s.mayUse c.val (bankOf a) || s.domLocked (16 + bankOf a) || s.stallFailed c (16 + bankOf a))

/-- A read-modify-write at the PTR in `a` (R303, R340): `f` gives from the word read, and the state that a trap leaves, what is stored, if
anything, and what becomes of the registers and flags once it is. Under ATOMIC the buffer is empty before, and the store is performed at once, its lane held from the read (R402); else it finds room before
the read. -/
def readModify (f : TWord → State → Except Eff (Option TWord × (State → State))) (extra : State → NIns → List Src)
    (c : Fin 2) (i : NIns) (s : State) : Eff :=
  let a := (s.w c i.a).val.toNat
  let r := regionOf a
  withAccess c i.pre.tagx s [⟨[base (s.w c i.a)], a⟩] ([base (s.w c i.a), whole (s.w c i.b) 3] ++ extra s i)
    (if i.pre.atomic ∧ (r.supOnly (.core c) && (s.cr c).job) = false ∧ s.atomicTarget c a = false then
      s.accessStop c a TWord.nil0 (if a % 4 ≠ 0 ∧ r ≠ .periph ∧ r ≠ .unmapped then .align else .bus)
    else
      andThen (if i.pre.atomic then s.emptied c else if r.buffers then s.room c else .ok s) (fun s1 =>
        andThen (s1.loadWord c i.pre.tagx a) (fun v =>
          andThen (f v.1 s1) (fun q =>
            match q.1 with
            | none => .done (q.2 v.2) none [(a, none)]
            | some w =>
              if s1.storesNothing c a then .done (q.2 v.2) none [(a, none)]
              else andThen (if i.pre.atomic then .ok (v.2.storeHeld c.val a w) else s1.storeAfter v.2 c a w) (fun t =>
                .done (q.2 t) none [(a, none), (a, some w)])))))

/-! ### Control transfer -/

/-- A branch taken to a displacement from the next instruction, or not (R327). -/
def branch (take : Bool) (c : Fin 2) (i : NIns) (s : State) : Eff :=
  .done s (if take then some (s.nextPc c i + BitVec.ofInt 32 i.disp) else none) []

end Sys2Proof.Machine
end

