-- ==== Sys2Proof/Machine/NolorCustom.lean ====
section
/-!
DEFINITION. Custom instructions: their operands, their microcode, and the close of the custom decode region (R352 to R363).
-/

namespace Sys2Proof.Machine

/-- The fields of a microcode word (R359). -/
structure MWord where
  op : Nat
  dst : Nat
  sa : Nat
  sb : Nat
  k : Nat
deriving DecidableEq, Repr

/-- A microcode word decoded (R359). -/
def MWord.of (w : Word) : MWord :=
  { op := getBits w 27 5, dst := getBits w 24 3, sa := getBits w 20 4, sb := getBits w 16 4, k := getBits w 0 16 }

/-- What a custom execution reads: payloads of a and b, the immediate, MEM of its entry, the microcode, the core's near data store, and
which words of its microcode and of the store have a parity error. -/
structure MEnv where
  a : Word
  b : Word
  imm : Nat
  mem : Bool
  code : Nat → Word
  load : Nat → Word
  own : Nat → Bool
  codeBad : Nat → Bool
  loadBad : Nat → Bool

/-- The temporaries, the word to run, the held stores and the accesses, both oldest first. -/
structure MRun where
  t : Vector Word 8 := Vector.replicate 8 0
  pc : Nat
  held : List (Nat × Word) := []
  acc : List (Nat × Option TWord) := []

/-- How a custom execution ends: END with what SA and SB select; a trap; DATA for a parity error, with the source that it sets. -/
inductive MEnd where
  | fin (sa sb : Word) (r : MRun)
  | trap (cause : Nat) (tval : Word)
  | parity (source : Nat) (tval : Word)

/-- A source (R359). -/
def MEnv.src (e : MEnv) (r : MRun) (w : MWord) (n : Nat) : Word :=
  if n < 8 then nth r.t n 0
  else match n with
  | 8 => e.a
  | 9 => e.b
  | 10 => BitVec.ofNat 32 e.imm
  | 11 => BitVec.ofNat 32 (e.imm / 2 ^ 32)
  | 12 => BitVec.ofNat 32 w.k
  | 13 => BitVec.ofInt 32 (signedN w.k 16)
  | _ => 0

/-- The number of leading zeros of a word, and of its set bits (R360). -/
def clz (w : Word) : Nat := match (upto 32).find? (fun i => w.getLsbD (31 - i)) with
  | some i => i
  | none => 32
def popc (w : Word) : Nat := ((upto 32).filter (fun i => w.getLsbD i)).length

/-- The result of a micro-operation with two sources, OP 0x00 to 0x11 (R360). -/
def microAlu (op : Nat) (a b : Word) : Word :=
  match op with
  | 0x00 => a + b
  | 0x01 => a - b
  | 0x02 => a &&& b
  | 0x03 => a ||| b
  | 0x04 => a ^^^ b
  | 0x05 => if b.toNat < 32 then a <<< b.toNat else 0
  | 0x06 => if b.toNat < 32 then a >>> b.toNat else 0
  | 0x07 => a.sshiftRight (min b.toNat 32)
  | 0x08 => a.rotateLeft (b.toNat % 32)
  | 0x09 => a * b
  | 0x0A => BitVec.ofNat 32 (a.toNat * b.toNat / 2 ^ 32)
  | 0x0B => BitVec.ofInt 32 (a.toInt * b.toInt / 2 ^ 32)
  | 0x0C => if b.toInt < a.toInt then b else a
  | 0x0D => if a.toInt < b.toInt then b else a
  | 0x0E => if b.toNat < a.toNat then b else a
  | 0x0F => if a.toNat < b.toNat then b else a
  | 0x10 => BitVec.ofNat 32 (clz a)
  | _ => BitVec.ofNat 32 (popc a)

/-- An access of LDM or STM: ALIGN, then BUS outside the own near data store (R362). -/
def MEnv.access (e : MEnv) (w : Word) : Option MEnd :=
  if w.toNat % 4 ≠ 0 then some (.trap 3 w) else if e.own w.toNat then none else some (.trap 4 w)

/-- The byte address of a microcode word (R352). -/
def microAddr (m : Nat) : Nat := customBase + 0x1000 + 4 * m

/-- One micro-operation (R359 to R363): the run after it, or the end of the execution. A microcode fault is ILL; source 14 is one in any
word. -/
def MEnv.step (e : MEnv) (r : MRun) : MRun ⊕ MEnd :=
  let w := MWord.of (e.code r.pc)
  let a := e.src r w w.sa
  let b := e.src r w w.sb
  let ill : MRun ⊕ MEnd := .inr (.trap 0 0)
  let goto := fun (take : Bool) => Sum.inl { r with pc := if take then w.k % 1024 else r.pc + 1 }
  let setT := fun (v : Word) => { r with
    t := updN r.t w.dst (fun _ => v)
    pc := r.pc + 1 }
  if 1024 ≤ r.pc then ill
  else if e.codeBad r.pc then .inr (.parity 14 (BitVec.ofNat 32 (microAddr r.pc)))
  else if w.sa = 14 ∨ w.sb = 14 then ill
  else if w.op ≤ 0x11 then .inl (setT (microAlu w.op a b))
  else match w.op with
  | 0x12 => goto (a = 0)
  | 0x13 => goto (a ≠ 0)
  | 0x14 => goto (a.getLsbD 31)
  | 0x15 => goto true
  | 0x16 =>
    if e.mem = false then ill
    else match e.access a with
      | some f => .inr f
      | none => if e.loadBad a.toNat then .inr (.parity 15 a)
        else let q := setT (e.load a.toNat)
             .inl { q with acc := r.acc ++ [(a.toNat, none)] }
  | 0x17 =>
    if e.mem = false ∨ 8 ≤ r.held.length then ill
    else match e.access a with
      | some f => .inr f
      | none => .inl { r with
          held := r.held ++ [(a.toNat, b)]
          pc := r.pc + 1 }
  | 0x18 => .inr (.fin a b r)
  | _ => ill

/-- A custom execution of at most `n` micro-operations; more is ILL (R363). -/
def MEnv.run (e : MEnv) : Nat → MRun → MEnd
  | 0, _ => .trap 0 0
  | n + 1, r => match e.step r with
    | .inl q => e.run n q
    | .inr f => f

/-- The operand check of a custom instruction (R357): a tag 0xF is a TYPE trap whatever the mask and TAGX; an operand whose mask is 0,
or of an instruction without F, is not read and has no check. -/
def customSrc (read : Bool) (mask : Nat) (w : TWord) (pos : Nat) : List Src :=
  if read = false then []
  else [{ w := w, ok := fun t => t != Tag.reserved && mask.testBit t.toNat, pos := pos, nilUse := !mask.testBit 0
          uniq := w.tag != Tag.reserved }]

/-- The check of a custom instruction's operands (R357). Tag 0xF is a TYPE trap under TAGX too. -/
def customOperands (tagx : Bool) (s : State) (l : List Src) (k : Eff) : Eff :=
  match (if tagx then l.find? (fun x => x.w.tag == Tag.reserved) else none) with
  | some x => if l.any (fun y => y.nilUse && y.w.tag == Tag.nil) then withOperands tagx s l k else .trap 1 (tagVal x.w.tag x.pos) s
  | none => withOperands tagx s l k

/-- The first word of a custom instruction's entry that has a parity error (R357). -/
def State.entryBad (s : State) (x : Nat) : Option Nat := ((upto 4).map (fun j => customBase + 16 * x + 4 * j)).find? (fun a => s.eccAt a != .clean)

/-- What a custom execution reads (R357 to R362). The payload of an operand that is not read is a free value. -/
def State.microEnv (s : State) (c : Fin 2) (i : NIns) (readA readB mem : Bool) : MEnv :=
  { a := if readA then (s.w c i.a).val else Config.freeWord s.free
    b := if readB then (s.w c i.b).val else Config.freeWord (s.free + 1)
    imm := i.imm, mem := mem
    code := fun m => (s.mread (microAddr m)).val
    load := fun a => (s.mread a).val
    own := fun a => inStore (nearD c) a
    codeBad := fun m => s.eccAt (microAddr m) != .clean
    loadBad := fun a => s.eccAt a != .clean }

/-- END of a custom execution (R361). -/
def State.microEnd (s : State) (c : Fin 2) (i : NIns) (ctl : Word) (sa sb : Word) (r : MRun) : Eff :=
  let s1 := { s with free := s.free + 2 }
  let s2 := if ctl.getLsbD 22 then s1.setW c i.d ⟨BitVec.ofNat 4 (getBits ctl 18 4), sa⟩ else s1
  let s3 := if ctl.getLsbD 2 then s2.setFlg c (BitVec.ofNat 5 (sb.toNat % 16 + 16 * b2n ((s.cr c).flg.getLsbD 4))) else s2
  .done (s3.setCore c (fun k => { k with buf := k.buf ++ r.held.map (fun h => { a := h.1, v := ⟨Tag.raw, h.2⟩ }) })) none
    (r.acc ++ r.held.map (fun h => (h.1, some ⟨Tag.raw, h.2⟩)))

/-- The effect of a custom instruction (R356 to R363): its operands, then the parity of its entry (R290), then the microcode. -/
def customEff (c : Fin 2) (i : NIns) (s0 : State) : Eff :=
  let ctl := s0.customWord i.x 0
  let tags := s0.customWord i.x 1
  let maskA := getBits tags 0 16
  let maskB := getBits tags 16 16
  let hasF := decide ((s0.customLen i.x).getD 0 ≠ 0)
  let readA := hasF && maskA != 0
  let readB := hasF && maskB != 0
  if (s0.cr c).dirtyCustom then .unchecked 354
  else andThen (if ctl.getLsbD 1 then .ok s0 else s0.emptied c) (fun s =>
    customOperands i.pre.tagx s (customSrc readA maskA (s.w c i.a) 0 ++ customSrc readB maskB (s.w c i.b) 1)
      (match s.entryBad i.x with
      | some w => .trap 9 (BitVec.ofNat 32 w) (s.raiseSource 14)
      | none =>
        match (s.microEnv c i readA readB (ctl.getLsbD 3)).run 1024 { pc := getBits ctl 8 10 } with
        | .trap cause v => .trap cause v s
        | .parity n v => .trap 9 v (s.raiseSource n)
        | .fin sa sb r => s.microEnd c i ctl sa sb r))

/-- CUST (R355 to R363). -/
def execCust (c : Fin 2) (p : Phys) (s : State) : Out := s.instr c p (fun i => i.op == 0xF7) (customEff c)

/-- The trap that a store by a core to the custom region raises, where it is at an instruction: PRIV from JOB mode, BUS while the region is
closed, with the address (R284, R290, R306, R353). -/
def State.closeTrap (s : State) (m : Master) (cause : Nat) : State :=
  match m with
  | .core c => if s.atInstr c then s.trapEnter c cause 0x50100100 (s.cr c).pc else s
  | _ => s

/-- CUSTOM_REGION_CLOSE: a write of 1 to CDCTL.CLOSED closes the custom region until power-on reset (R353); from JOB mode the store is a
PRIV trap of the core and closes nothing (R284). -/
def execCustomRegionClose (m : Master) (job : Bool) (s : State) : Out :=
  let d := s.drained m
  if s.inDip then .next (s.stall (.customRegionClose m job))
  else if s.storesOff ∨ m = .host ∨ (m = .link ∧ s.linkWrites = false) then .next s
  else if d.1 = false then .next d.2
  else
    match d.2.storeAddr m (!job) 0x50100100 (TWord.nat 1) with
    | .ok _ t => .next (match m with
      | .core c => t.setCore c (fun k => { k with dirtyCustom := true })
      | _ => t)
    | .priv => .next (d.2.closeTrap m 6)
    | .bus => .next (d.2.closeTrap m 4)
    | _ => .next d.2

end Sys2Proof.Machine
end

