-- ==== Sys2Proof/Machine/Dip.lean ====
section
/-!
DEFINITION. The end of a logic dip, and the accesses that it held (R425, R426).
-/

namespace Sys2Proof.Machine

/-- An access that a logic dip held is made (R425, R426). -/
def State.replay (s : State) (i : DipAccess) : Out :=
  match i with
  | .registerWrite m job a v => execRegisterWrite m job a v s
  | .sev w => execSev w s
  | .frameloRead m => execFrameloRead m s
  | .engineStart e => execEngineStart e s
  | .engineStop e => execEngineStop e s
  | .stickyClear m w job => execStickyClear m w job s
  | .sourceForce m w job => execSourceForce m w job s
  | .swset w => execSwset w s
  | .classLock job => execClassLock job s
  | .customRegionClose m job => execCustomRegionClose m job s
  | .coreRestart m job w => execCoreRestart m job w s
  | .ownerWrite m b w => execOwnerWrite m b w s
  | .bankStateWrite b w => execBankStateWrite b w s
  | .canRunStart n => execCanRunStart n s
  | .canRunStop n busy => execCanRunStop n busy s
  | .objcfgWrite n o w => execObjcfgWrite n o w s
  | .objectPortRead m n o => execObjectPortRead m n o s
  | .objectPortWrite m n o w => execObjectPortWrite m n o w s
  | .lckrel m n => execLckrel m n s
  | .qack n => execQack n s
  | .recover n => execRecover n s
  | .linHeaderSend m id => execLinHeaderSend m id s
  | .linWakeSend m => execLinWakeSend m s
  | .nclr => execNclr s
  | .tloRead m => execTloRead m s
  | .cntloRead m => execCntloRead m s
  | .nrateloWrite w => execNrateloWrite w s
  | .noffloWrite w => execNoffloWrite w s
  | .almloWrite w => execAlmloWrite w s
  | .urawAccess w back => execUrawAccess w back s
  | .pepochWrite w job => execPepochWrite w job s
  | .read src b => execRead src b s
  | .write src b => execWrite src b s
  | .txn src b => execTxn src b s
  | .hreset src b => execHreset src b s
  | .hostNop src b => execHostNop src b s
  | .spiShortFrame b => execSpiShortFrame b s
  | .commit => execCommit s
  | .jdoneClear w job => execJdoneClear w job s
  | .hctlStart w job => execHctlStart w job s
  | .recoverEntry w job => execRecoverEntry w job s
  | .recoveryErase slot job => execRecoveryErase slot job s
  | .rdataWrite w pages job => execRdataWrite w pages job s
  | .recoveryVerify slot job => execRecoveryVerify slot job s
  | .recoveryBoot slot job => execRecoveryBoot slot job s
  | .drespCheck w job => execDrespCheck w job s
  | .prog mv job => execProg mv job s
  | .arbstep mv job => execArbstep mv job s
  | .wear mv job => execWear mv job s
  | .frc w job => execFrc w job s
  | .spiIdleFrame n => execSpiIdleFrame n s
  | .hostBadRequest src b => execHostBadRequest src b s

/-- The held accesses are made in the order in which they came. -/
def State.replayAll : List DipAccess → State → Out
  | [], s => .next s
  | i :: l, s => match s.replay i with
    | .next t => State.replayAll l t
    | o => o

/-- A domain as a logic dip ends: it returns to the state it held before; then a demand held in the dip acts (R426). -/
def State.undipDomain (s : State) (d : Nat) : State :=
  let x := nth s.pwr.dom d {}
  if d = 0 then s
  else
    let s1 := if x.before = .on then s.wakeDone d else s
    let s2 := s1.setDom d (fun y => { y with held := false })
    if x.held then s2.demand d else s2

/-- LOGIC_DIP_END: VBAT_C rises above 5.0 V `us` µs after the dip began, within 500 ms, and the PLL locks `lock` µs later; the frame
waits for its resume edge; the held accesses are made (R425 to R427, R439). -/
def execLogicDipEnd (mv : Int) (us lock : Nat) (s : State) : Out :=
  let s1 := s.setPin (.vbat 2) mv
  match s.pwr.pause with
  | .dip t =>
    if 5000 < mv ∧ us < 500000 then
      let s2 := s1.advance (t + (us + lock) * ticksPerUs)
      let s3 : State := { s2 with pwr := { s2.pwr with pause := .resume t false (some s2.count) } }
      let s4 := (forEach 32 State.undipDomain s3).prsThaw (s2.count - t)
      State.replayAll s4.pwr.stalled { s4 with pwr := { s4.pwr with stalled := [] } }
    else .next s1
  | _ => .next s1

end Sys2Proof.Machine
end

