-- ==== Sys2Proof/Machine/NolorFlow.lean ====
section
/-!
DEFINITION. Control transfer, tasks, stamps, special registers, moves and tag tests of the cores (R326 to R329, R336 to R345).
-/

namespace Sys2Proof.Machine

/-- NOP (R326). -/
def execNop (c : Fin 2) (p : Phys) (s : State) : Out := s.instr c p (fun i => i.op == 0x00) (fun _ s => .ok s)

/-- FENCE waits until the store buffer is empty (R300); later fetches see the stores to the near instruction store, and later custom
instructions the custom region (R304, R354). -/
def execFence (c : Fin 2) (p : Phys) (s : State) : Out :=
  s.instr c p (fun i => i.op == 0x01) (fun _ s =>
    andThen (s.emptied c) (fun t => .ok (t.setCore c (fun k => { k with dirty := [], dirtyCustom := false }))))

/-- A SEAL of a core retires (R28, R343): before the deadline it seals the core's staging stores, where FRM.SEALMASK names the core; after
it, LATESEAL sets; a core that has sealed in the frame seals no more. -/
def State.sealBy (s : State) (c : Fin 2) : State :=
  if s.sealedCores.testBit c then s
  else if s.pastDeadline then s.setBit F.frmStatLateseal
  else if (s.fld F.frmSealmaskMask).testBit c then
    let s1 := s.setFld F.frmSealedCores (s.sealedCores ||| 2 ^ c.val)
    { s1 with frm := { s1.frm with sealAt := s1.count } }
  else s

/-- SEAL, ordered as a peripheral access (R28, R301, R343). -/
def execSeal (c : Fin 2) (p : Phys) (s : State) : Out :=
  s.instr c p (fun i => i.op == 0x02) (fun _ s => andThen (s.emptied c) (fun t => .ok (t.sealBy c)))

/-- WAITE ends a job's run (R45, R286, R343); in SUP mode it is a CTX trap. -/
def execWaite (c : Fin 2) (p : Phys) (s : State) : Out :=
  s.instr c p (fun i => i.op == 0x03) (fun _ s =>
    if (s.cr c).job = false then .trap 7 0 s
    else andThen (s.emptied c) (fun t =>
      let u := (t.setJob (t.cr c).task .idle).taskEnd c
      .done u (some (u.cr c).pc) []))

/-- RETE ends a handler (R286); in JOB mode it is a CTX trap. -/
def execRete (c : Fin 2) (p : Phys) (s : State) : Out :=
  s.instr c p (fun i => i.op == 0x04) (fun _ s =>
    if (s.cr c).job then .trap 7 0 s else let u := s.taskEnd c
                                          .done u (some (u.cr c).pc) [])

/-- BRK: the BRK trap, or a halt for debug in its place under BRKHALT (R393). -/
def execBrk (c : Fin 2) (p : Phys) (s : State) : Out :=
  s.instr c p (fun i => i.op == 0x05) (fun _ s =>
    if s.bit (F.dbgCtlBrkhalt c) then .wait (s.debugHalt c 4 0) else .trap 11 0 s)

/-- Bcc: branch by disp8 if its condition holds (R327). -/
def execBcc (c : Fin 2) (p : Phys) (s : State) : Out :=
  s.instr c p (fun i => i.op == 0x40) (fun i s => branch (condHolds (s.cr c).flg i.x) c i s)

/-- BR: branch by disp16 or disp32 if its condition holds (R327, R329). -/
def execBr (c : Fin 2) (p : Phys) (s : State) : Out :=
  s.instr c p (fun i => i.op == 0xC4) (fun i s => branch (condHolds (s.cr c).flg i.x) c i s)

/-- BTAG: T ← the tag of a equals X; branches where that agrees with F[15] (R329, R332). -/
def execBtag (c : Fin 2) (p : Phys) (s : State) : Out :=
  s.instr c p (fun i => i.op == 0xC6) (fun i s =>
    let a := s.w c i.a
    let hit := a.tag.toNat == i.x
    withOperands i.pre.tagx s [whole a 0]
      (branch (hit == i.nf) c i (s.setFlg c (BitVec.ofNat 5 ((s.cr c).flg.toNat % 16 + 16 * b2n hit)))))

/-- SWT: the software trap with its number in TVAL (R291, R292, R343). -/
def execSwt (c : Fin 2) (p : Phys) (s : State) : Out :=
  s.instr c p (fun i => i.op == 0x51) (fun i s => .trap 10 (BitVec.ofNat 32 i.imm) s)

/-- RET: PC ← the CODE word of a register (R341): another tag is TYPE, NIL is NILUSE. -/
def execRet (c : Fin 2) (p : Phys) (s : State) : Out :=
  s.instr c p (fun i => i.op == 0x52) (fun i s =>
    withOperands i.pre.tagx s [one (s.w c i.d) Tag.code 0 true] (.done s (some (s.w c i.d).val) []))

/-- A jump target: PTR or CODE (R341). -/
def target (w : TWord) : Src := { w := w, ok := fun t => t == Tag.ptr || t == Tag.code, pos := 0 }

/-- JMPR: PC ← the PTR or CODE payload of a register (R341). -/
def execJmpr (c : Fin 2) (p : Phys) (s : State) : Out :=
  s.instr c p (fun i => i.op == 0x53) (fun i s =>
    withOperands i.pre.tagx s [target (s.w c i.d)] (.done s (some (s.w c i.d).val) []))

/-- CALL: d ← CODE of the next instruction; branch by displacement (R329, R341). -/
def execCall (c : Fin 2) (p : Phys) (s : State) : Out :=
  s.instr c p (fun i => i.op == 0xC5) (fun i s =>
    .done (s.setW c i.d ⟨Tag.code, s.nextPc c i⟩) (some (s.nextPc c i + BitVec.ofInt 32 i.disp)) [])

/-- CALLR: d ← CODE of the next instruction; PC ← the PTR or CODE payload of a (R328, R341). -/
def execCallr (c : Fin 2) (p : Phys) (s : State) : Out :=
  s.instr c p (fun i => i.op == 0xA1) (fun i s =>
    withOperands i.pre.tagx s [target (s.w c i.a)]
      (.done (s.setW c i.d ⟨Tag.code, s.nextPc c i⟩) (some (s.w c i.a).val) []))

/-- A word written to d, and a second one to the odd register under WIDE (R339). -/
def State.writePair (s : State) (c : Fin 2) (i : NIns) (v v2 : TWord) : State :=
  let s1 := s.setW c i.d v
  if i.pre.wide then s1.setW c (i.d + 1) v2 else s1

/-- TSTAMP: d ← the entry stamp (R344). -/
def execTstamp (c : Fin 2) (p : Phys) (s : State) : Out :=
  s.instr c p (fun i => i.op == 0x54) (fun i s => .ok (s.writePair c i ⟨Tag.time, (s.cr c).stampT⟩ (TWord.nat (s.cr c).stampNs)))

/-- NOW: d ← the stamp of the present moment (R345). -/
def execNow (c : Fin 2) (p : Phys) (s : State) : Out :=
  s.instr c p (fun i => i.op == 0x55) (fun i s => .ok (s.writePair c i ⟨Tag.time, s.stamp⟩ (TWord.nat s.nsNow)))

/-- SETCNT: CNT ← NAT P; discarded inside REP (R326, R336). -/
def execSetcnt (c : Fin 2) (p : Phys) (s : State) : Out :=
  s.instr c p (fun i => i.op == 0x56) (fun i s => .ok (s.setCore c (fun k => { k with cnt := BitVec.ofNat 32 i.imm })))

/-- MOV: d ← a, whole word or pair, of any tag but 0xF (R274, R279, R328, R339). -/
def execMov (c : Fin 2) (p : Phys) (s : State) : Out :=
  s.instr c p (fun i => i.op == 0x90) (fun i s =>
    let a := s.w c i.a
    let a2 := s.w c (i.a + 1)
    withOperands i.pre.tagx s (whole a 0 :: (if i.pre.wide then [whole a2 0] else [])) (.ok (s.writePair c i a a2)))

/-- TTEST: T ← the tag of a equals F[13:10], unless NF is 1 (R322, R328). -/
def execTtest (c : Fin 2) (p : Phys) (s : State) : Out :=
  s.instr c p (fun i => i.op == 0x92) (fun i s =>
    let a := s.w c i.a
    let hit := a.tag.toNat == bitsN i.b 0 4
    withOperands i.pre.tagx s [whole a 0]
      (.ok (if i.nf then s else s.setFlg c (BitVec.ofNat 5 ((s.cr c).flg.toNat % 16 + 16 * b2n hit)))))

/-- TAGOF: d ← NAT tag of a (R328). -/
def execTagof (c : Fin 2) (p : Phys) (s : State) : Out :=
  s.instr c p (fun i => i.op == 0x93) (fun i s =>
    withOperands i.pre.tagx s [whole (s.w c i.a) 0] (.ok (s.setW c i.d (TWord.nat (s.w c i.a).tag.toNat))))

/-- MOVI: d ← an immediate under the tag X; NIL gives NIL 0, BOOL 1 for any nonzero immediate (R331). -/
def execMovi (c : Fin 2) (p : Phys) (s : State) : Out :=
  s.instr c p (fun i => i.op == 0xC0) (fun i s =>
    let t : Tag := BitVec.ofNat 4 i.x
    let v : Word := if t = Tag.nil then 0 else if t = Tag.bool then (if i.imm = 0 then 0 else 1) else i.immFor t
    .ok (s.setW c i.d ⟨t, v⟩))

/-- ADR: d ← PTR of the next instruction's address plus disp32 (R329). -/
def execAdr (c : Fin 2) (p : Phys) (s : State) : Out :=
  s.instr c p (fun i => i.op == 0xC7) (fun i s => .ok (s.setW c i.d ⟨Tag.ptr, s.nextPc c i + BitVec.ofInt 32 i.disp⟩))

/-- MSTAT (R282); ATOM reads 0, for an MFS is never inside an ATOMIC sequence. -/
def State.mstat (s : State) (c : Fin 2) : Nat :=
  let k := s.cr c
  b2n k.job + 4 * k.prio + 64 * k.task + 2 ^ 14 * k.stack.length

/-- A special or control register (R281, R282, R342), and its second word under WIDE. -/
def State.special (s : State) (c : Fin 2) (n : Nat) : TWord × TWord :=
  let k := s.cr c
  (match n with
    | 0 => TWord.nat (k.flg.toNat + 32 * b2n (s.onSafety c k.pc.toNat))
    | 1 => ⟨Tag.nat, k.cnt⟩
    | 2 => TWord.nat s.frm.frame.toNat
    | 3 => TWord.nat c.val
    | 4 => TWord.nat (s.mstat c)
    | 5 => ⟨Tag.ptr, k.tvb⟩
    | 6 => TWord.nat k.tcause
    | 7 => ⟨Tag.nat, k.tval⟩
    | _ => match k.stack with
      | e :: _ => ⟨Tag.code, e.pc⟩
      | [] => TWord.nil0,
   TWord.nat (s.frm.frame.toNat / 2 ^ 32))

/-- MFS: d ← a special or control register (R342). -/
def execMfs (c : Fin 2) (p : Phys) (s : State) : Out :=
  s.instr c p (fun i => i.op == 0x9E) (fun i s => .ok (s.writePair c i (s.special c i.a).1 (s.special c i.a).2))

/-- A special or control register written (R281, R282, R342). TVB[8:0] read 0; a write of TPC on an empty stack is ignored. -/
def State.setSpecial (s : State) (c : Fin 2) (n : Nat) (w : Word) : State :=
  s.setCore c (fun k => match n with
    | 0 => { k with flg := w.setWidth 5 }
    | 1 => { k with cnt := w }
    | 5 => { k with tvb := w &&& 0xFFFFFE00#32 }
    | 8 => match k.stack with
      | e :: r => { k with stack := { e with pc := w } :: r }
      | [] => k
    | _ => k)

/-- MTS: a special or control register ← a, with its mode and its tag checked (R282, R284, R342); with NF 1 FLG keeps its
value (R322). -/
def execMts (c : Fin 2) (p : Phys) (s : State) : Out :=
  s.instr c p (fun i => i.op == 0x9F) (fun i s =>
    let t := if i.d = 5 then Tag.ptr else if i.d = 8 then Tag.code else Tag.nat
    if (i.d = 5 ∨ i.d = 8) ∧ (s.cr c).job = true then .trap 6 0 s
    else withOperands i.pre.tagx s [one (s.w c i.a) t 0] (.ok (if i.d = 0 ∧ i.nf = true then s else s.setSpecial c i.d (s.w c i.a).val)))

/-- ILLEGAL_INSTRUCTION: bytes at the PC that spell no instruction raise ILL (R290, R319 to R331). -/
def execIllegalInstruction (c : Fin 2) (p : Phys) (s : State) : Out :=
  s.issueHere c p (fun _ => some (fun t => .trap 0 0 t)) (fun _ => none)

end Sys2Proof.Machine
end

