-- ==== Sys2Proof/Machine/Link.lean ====
section
/-!
DEFINITION. The operations of the Aedus link (R387 to R391). A transaction is one command; its operands say whether the parity of the
request, and of the data of a write, is good.
-/

namespace Sys2Proof.Machine

/-- The link answers with an ACK (R387). -/
def State.acked (s : State) (a : Nat) : State := { s with ack := a }

/-- The answers (R387). -/
def ackOk : Nat := 1
def ackWait : Nat := 2
def ackFault : Nat := 4

/-- The course of a transaction: bad parity and a closed debug lock answer FAULT, but for DRD of DBG.ID and DBG.STAT (R387, R389); while
the logic is without its clock the access cannot complete (R425). -/
def State.link (s : State) (par always : Bool) (f : State → Out) : Out :=
  if !par || (s.bit F.dbgStatLocked && !always) then .next (s.acked ackFault)
  else if s.clocksRun then f s
  else .next (s.acked ackWait)

/-- A read through the link ends: its word is delivered, or the access waits for its domain, or it answers FAULT. -/
def State.linkRead (s : State) : BusRes → Out
  | .ok v t => .next ((t.deliver .link v).acked ackOk)
  | .wait d => .next ((s.demand d).acked ackWait)
  | .data t => .next (t.acked ackFault)
  | .unchecked n => .fault (.uncheckedUse n)
  | .align | .bus | .priv | .type => .next (s.acked ackFault)

/-- A write whose data parity is bad is dropped (R387). -/
def State.linkDrops (s : State) : State := (s.setBit F.dbgStatLinkerr).acked ackOk

/-- A write through the link ends as an access does; with bad data parity it is dropped, whatever the data would have done (R387). -/
def State.linkWrite (s : State) (dataPar : Bool) (r : BusRes) : Out :=
  match r with
  | .ok _ t => .next (if dataPar then t.acked ackOk else s.linkDrops)
  | .wait d => .next ((s.demand d).acked ackWait)
  | .data t => .next (t.acked ackFault)
  | .unchecked n => if dataPar then .fault (.uncheckedUse n) else .next s.linkDrops
  | .type => .next (if dataPar then s.acked ackFault else s.linkDrops)
  | .align | .bus | .priv => .next (s.acked ackFault)

/-- A register in which every field only reads (R389). -/
def readOnly (a : Nat) : Bool := match Regs.row? a with
  | some r => r.fields.all (fun f => f.acc == .ro)
  | none => false

/-- A core with a safety page marked (R365, R391). -/
def State.marked (s : State) (c : Nat) : Bool :=
  s.fld (F.echSpgPage (2 * c)) != 0 || s.fld (F.echSpgPage (2 * c + 1)) != 0
    || s.fld (if c = 0 then F.echSgrnC0 else F.echSgrnC1) != 0

/-- A write goes through the echo path of a core (R391). -/
def State.echoWrite (s : State) (a : Nat) : Bool := match regionOf a with
  | .nearI c => s.marked c
  | .nearD c => s.marked c
  | _ => false

/-- MRD: a word is read through the address map with SUP rights (R388); `e` is what its check bits say. -/
def execMrd (a : Nat) (e : Ecc) (par : Bool) (s : State) : Out :=
  s.link par false (fun s => s.linkRead (s.loadAddr .link true a e))

/-- MWR: a word is written with its tag (R388, R389, R391); `differs` says that the echo path of a near store found a difference. -/
def execMwr (a : Nat) (v : TWord) (differs par dataPar : Bool) (s : State) : Out :=
  s.link par false (fun s =>
    if s.win.fhalt || readOnly a then .next (s.acked ackFault)
    else if differs && dataPar && s.echoWrite a then .next ((s.setBit F.dbgStatEchorej).acked ackFault)
    else s.linkWrite dataPar (s.storeAddr .link true a v))

/-- A core is halted: for debug, in echo halt, by a double trap or by class F (R248, R293, R379, R392). -/
def State.halted (s : State) (c : Fin 2) : Bool :=
  let h := (s.cr c).halt
  h.dbg || h.echo || h.trap || h.f

/-- A core's register by its number on the link (R388). -/
def State.linkReg (s : State) (c : Fin 2) (r : Nat) : Option TWord :=
  if r < 32 then some (s.w c r)
  else if r < 41 then some (s.special c (r - 32)).1
  else if r = 48 then some ⟨Tag.code, (s.cr c).pc⟩
  else none

/-- RRD: a register of a halted core is read (R388 to R390); a number that names none answers FAULT. -/
def execRrd (c : Fin 2) (r : Nat) (par : Bool) (s : State) : Out :=
  s.link par false (fun s => .next (match s.linkReg c r with
    | some v => if s.halted c then (s.deliver .link v).acked ackOk else s.acked ackFault
    | none => s.acked ackFault))

/-- A register of a core written through the link (R388, R390): a word goes into the first-pass register file alone, and w0 discards it (R280); `none` for a read-only one and for a number that names none. -/
def State.linkPut (s : State) (c : Fin 2) (r : Nat) (v : TWord) : Option State :=
  if r = 0 then some s
  else if r < 32 then some (s.setCore c (fun k => { k with w := updN k.w r (fun _ => v) }))
  else if r = 32 ∨ r = 33 ∨ r = 37 ∨ r = 40 then some (s.setSpecial c (r - 32) v.val)
  else if r = 48 then some (s.setCore c (fun k => { k with pc := v.val }))
  else none

/-- RWR: a register of a halted core is written (R388 to R390). -/
def execRwr (c : Fin 2) (r : Nat) (v : TWord) (par dataPar : Bool) (s : State) : Out :=
  s.link par false (fun s => .next (match s.linkPut c r v with
    | some t => if s.halted c && !s.win.fhalt then (if dataPar then t else s.setBit F.dbgStatLinkerr).acked ackOk
                else s.acked ackFault
    | none => s.acked ackFault))

/-- DRD: a register of the DBG block is read (R388, R389). -/
def execDrd (o : BitVec 16) (par : Bool) (s : State) : Out :=
  s.link par (o == 0 || o == 4) (fun s => s.linkRead (s.loadPeriph .link (0x40130000 + o.toNat)))

/-- DWR: a register of the DBG block is written (R388, R389). -/
def execDwr (o : BitVec 16) (v : TWord) (par dataPar : Bool) (s : State) : Out :=
  s.link par false (fun s =>
    if s.win.fhalt || readOnly (0x40130000 + o.toNat) then .next (s.acked ackFault)
    else s.linkWrite dataPar (s.storePeriph .link false (0x40130000 + o.toNat) v))

end Sys2Proof.Machine
end

