-- ==== Sys2Proof/Machine/NolorAlu.lean ====
section
/-!
DEFINITION. The arithmetic, logical, shift, compare and conversion instructions (R326, R328 to R335).
-/

namespace Sys2Proof.Machine

/-- ADD: d ← a + b (R309, R313, R314). -/
def execAdd (c : Fin 2) (p : Phys) (s : State) : Out := s.instr c p (fun i => i.op == 0x80) (aluReg 0 c)

/-- SUB: d ← a − b (R309). -/
def execSub (c : Fin 2) (p : Phys) (s : State) : Out := s.instr c p (fun i => i.op == 0x81) (aluReg 1 c)

/-- MUL: d ← a × b (R309). -/
def execMul (c : Fin 2) (p : Phys) (s : State) : Out := s.instr c p (fun i => i.op == 0x82) (aluReg 2 c)

/-- DIV: d ← a / b; a zero divisor of INT, NAT or FIX writes NIL 0 (R310, R311). -/
def execDiv (c : Fin 2) (p : Phys) (s : State) : Out := s.instr c p (fun i => i.op == 0x83) (aluReg 3 c)

/-- REM: d ← a rem b (R310, R311). -/
def execRem (c : Fin 2) (p : Phys) (s : State) : Out := s.instr c p (fun i => i.op == 0x84) (aluReg 4 c)

/-- AND (R332). -/
def execAnd (c : Fin 2) (p : Phys) (s : State) : Out := s.instr c p (fun i => i.op == 0x85) (aluReg 5 c)

/-- OR (R332). -/
def execOr (c : Fin 2) (p : Phys) (s : State) : Out := s.instr c p (fun i => i.op == 0x86) (aluReg 6 c)

/-- XOR (R332). -/
def execXor (c : Fin 2) (p : Phys) (s : State) : Out := s.instr c p (fun i => i.op == 0x87) (aluReg 7 c)

/-- SHL (R312). -/
def execShl (c : Fin 2) (p : Phys) (s : State) : Out := s.instr c p (fun i => i.op == 0x88) (aluReg 8 c)

/-- SHR (R312). -/
def execShr (c : Fin 2) (p : Phys) (s : State) : Out := s.instr c p (fun i => i.op == 0x89) (aluReg 9 c)

/-- SAR (R312). -/
def execSar (c : Fin 2) (p : Phys) (s : State) : Out := s.instr c p (fun i => i.op == 0x8a) (aluReg 10 c)

/-- ROL (R312). -/
def execRol (c : Fin 2) (p : Phys) (s : State) : Out := s.instr c p (fun i => i.op == 0x8b) (aluReg 11 c)

/-- ROR (R312). -/
def execRor (c : Fin 2) (p : Phys) (s : State) : Out := s.instr c p (fun i => i.op == 0x8c) (aluReg 12 c)

/-- CMP: the flags of a − b (R333). -/
def execCmp (c : Fin 2) (p : Phys) (s : State) : Out := s.instr c p (fun i => i.op == 0x8d) (aluReg 13 c)

/-- MIN (R334). -/
def execMin (c : Fin 2) (p : Phys) (s : State) : Out := s.instr c p (fun i => i.op == 0x8e) (aluReg 14 c)

/-- MAX (R334). -/
def execMax (c : Fin 2) (p : Phys) (s : State) : Out := s.instr c p (fun i => i.op == 0x8f) (aluReg 15 c)

/-- ALUI with X 0: ADD with an immediate (R329 to R331). -/
def execAluiAdd (c : Fin 2) (p : Phys) (s : State) : Out :=
  s.instr c p (fun i => i.op == 0xC1 && i.x == 0) (aluImm 0 c)

/-- ALUI with X 1: SUB with an immediate (R329 to R331). -/
def execAluiSub (c : Fin 2) (p : Phys) (s : State) : Out :=
  s.instr c p (fun i => i.op == 0xC1 && i.x == 1) (aluImm 1 c)

/-- ALUI with X 2: MUL with an immediate (R329 to R331). -/
def execAluiMul (c : Fin 2) (p : Phys) (s : State) : Out :=
  s.instr c p (fun i => i.op == 0xC1 && i.x == 2) (aluImm 2 c)

/-- ALUI with X 3: DIV with an immediate (R329 to R331). -/
def execAluiDiv (c : Fin 2) (p : Phys) (s : State) : Out :=
  s.instr c p (fun i => i.op == 0xC1 && i.x == 3) (aluImm 3 c)

/-- ALUI with X 4: REM with an immediate (R329 to R331). -/
def execAluiRem (c : Fin 2) (p : Phys) (s : State) : Out :=
  s.instr c p (fun i => i.op == 0xC1 && i.x == 4) (aluImm 4 c)

/-- ALUI with X 5: AND with an immediate (R329 to R331). -/
def execAluiAnd (c : Fin 2) (p : Phys) (s : State) : Out :=
  s.instr c p (fun i => i.op == 0xC1 && i.x == 5) (aluImm 5 c)

/-- ALUI with X 6: OR with an immediate (R329 to R331). -/
def execAluiOr (c : Fin 2) (p : Phys) (s : State) : Out :=
  s.instr c p (fun i => i.op == 0xC1 && i.x == 6) (aluImm 6 c)

/-- ALUI with X 7: XOR with an immediate (R329 to R331). -/
def execAluiXor (c : Fin 2) (p : Phys) (s : State) : Out :=
  s.instr c p (fun i => i.op == 0xC1 && i.x == 7) (aluImm 7 c)

/-- ALUI with X 8: SHL with an immediate (R329 to R331). -/
def execAluiShl (c : Fin 2) (p : Phys) (s : State) : Out :=
  s.instr c p (fun i => i.op == 0xC1 && i.x == 8) (aluImm 8 c)

/-- ALUI with X 9: SHR with an immediate (R329 to R331). -/
def execAluiShr (c : Fin 2) (p : Phys) (s : State) : Out :=
  s.instr c p (fun i => i.op == 0xC1 && i.x == 9) (aluImm 9 c)

/-- ALUI with X 10: SAR with an immediate (R329 to R331). -/
def execAluiSar (c : Fin 2) (p : Phys) (s : State) : Out :=
  s.instr c p (fun i => i.op == 0xC1 && i.x == 10) (aluImm 10 c)

/-- ALUI with X 11: ROL with an immediate (R329 to R331). -/
def execAluiRol (c : Fin 2) (p : Phys) (s : State) : Out :=
  s.instr c p (fun i => i.op == 0xC1 && i.x == 11) (aluImm 11 c)

/-- ALUI with X 12: ROR with an immediate (R329 to R331). -/
def execAluiRor (c : Fin 2) (p : Phys) (s : State) : Out :=
  s.instr c p (fun i => i.op == 0xC1 && i.x == 12) (aluImm 12 c)

/-- ALUI with X 13: CMP with an immediate (R329 to R331). -/
def execAluiCmp (c : Fin 2) (p : Phys) (s : State) : Out :=
  s.instr c p (fun i => i.op == 0xC1 && i.x == 13) (aluImm 13 c)

/-- ALUI with X 14: MIN with an immediate (R329 to R331). -/
def execAluiMin (c : Fin 2) (p : Phys) (s : State) : Out :=
  s.instr c p (fun i => i.op == 0xC1 && i.x == 14) (aluImm 14 c)

/-- ALUI with X 15: MAX with an immediate (R329 to R331). -/
def execAluiMax (c : Fin 2) (p : Phys) (s : State) : Out :=
  s.instr c p (fun i => i.op == 0xC1 && i.x == 15) (aluImm 15 c)

/-- The tags that NOT accepts (R332). -/
def notTag (t : Tag) : Bool := t == Tag.int || t == Tag.nat || t == Tag.raw || t == Tag.bool

/-- The tags that NEG and ABS accept (R332). -/
def negTag (t : Tag) : Bool := t == Tag.int || t == Tag.fix || t == Tag.flt

/-- NOT of a word: logical on BOOL (R332). -/
def notResult (t : Tag) (a : Word) : AluOut :=
  let w : Word := if t = Tag.bool then (if a = 0 then 1 else 0) else ~~~a
  .val ⟨t, w⟩ (flagsOf w false false)

/-- UNARY INC: d ← d + 1, with the 1 of its tag (R332). -/
def execInc (c : Fin 2) (p : Phys) (s : State) : Out :=
  s.instr c p (fun i => i.op == 0x50 && i.x == 0) (unary numTag (fun t a => arith 0 t a (oneOf t)) c)

/-- UNARY DEC: d ← d − 1 (R332). -/
def execDec (c : Fin 2) (p : Phys) (s : State) : Out :=
  s.instr c p (fun i => i.op == 0x50 && i.x == 1) (unary numTag (fun t a => arith 1 t a (oneOf t)) c)

/-- UNARY NEG (R310, R313, R332). -/
def execNeg (c : Fin 2) (p : Phys) (s : State) : Out :=
  s.instr c p (fun i => i.op == 0x50 && i.x == 2) (unary negTag (negate) c)

/-- UNARY ABS (R310, R313, R332). -/
def execAbs (c : Fin 2) (p : Phys) (s : State) : Out :=
  s.instr c p (fun i => i.op == 0x50 && i.x == 3) (unary negTag (absolute) c)

/-- UNARY NOT (R332). -/
def execNot (c : Fin 2) (p : Phys) (s : State) : Out :=
  s.instr c p (fun i => i.op == 0x50 && i.x == 4) (unary notTag (notResult) c)

/-- UNARY CLRN: d ← NIL 0 (R326). -/
def execClrn (c : Fin 2) (p : Phys) (s : State) : Out :=
  s.instr c p (fun i => i.op == 0x50 && i.x == 5) (fun i s => .ok (s.setW c i.d TWord.nil0))

/-- UNARY TST: flags of d (R332). -/
def execTst (c : Fin 2) (p : Phys) (s : State) : Out :=
  s.instr c p (fun i => i.op == 0x50 && i.x == 6) (fun i s =>
    let a := s.w c i.d
    withOperands i.pre.tagx s
      [{ w := a, ok := fun t => numTag t || t == Tag.raw || t == Tag.bool, pos := 0, nilUse := true, uniq := false }]
      (.ok (s.setFlg c ((tstFlags a.tag a.val).into (s.cr c).flg))))

/-- CVT: d ← a converted to the tag F[13:10]; a pair outside the table is a TYPE trap (R335). -/
def execCvt (c : Fin 2) (p : Phys) (s : State) : Out :=
  s.instr c p (fun i => i.op == 0x91) (fun i s =>
    let a := s.w c i.a
    let dst : Tag := BitVec.ofNat 4 i.b
    withOperands i.pre.tagx s
      [{ w := a, ok := fun t => (convert t dst a.val).isSome, pos := 0, nilUse := true, uniq := false }]
      (match convert a.tag dst a.val with
        | some o => .ok (s.writeOut c i.d i.nf o)
        | none => .ok s))

/-- The frame difference of two TIME payloads (R346). -/
def frameDiff (a b : Word) : Word := ((a >>> 8).extractLsb' 0 24 - (b >>> 8).extractLsb' 0 24 : BitVec 24).signExtend 32

/-- TSUB: d ← INT frame difference of two TIME words (R332, R346). -/
def execTsub (c : Fin 2) (p : Phys) (s : State) : Out :=
  s.instr c p (fun i => i.op == 0x9B) (fun i s =>
    let a := s.w c i.a
    let b := s.w c i.b
    let r := frameDiff a.val b.val
    withOperands i.pre.tagx s [one a Tag.time 0 true, one b Tag.time 1 true]
      (.ok (s.writeOut c i.d i.nf (.val ⟨Tag.int, r⟩ (flagsOf r false false)))))

/-- TFRM: d ← NAT frame field of a TIME word (R346). -/
def execTfrm (c : Fin 2) (p : Phys) (s : State) : Out :=
  s.instr c p (fun i => i.op == 0x9C) (fun i s =>
    withOperands i.pre.tagx s [one (s.w c i.a) Tag.time 0] (.ok (s.setW c i.d ⟨Tag.nat, (s.w c i.a).val >>> 8⟩)))

/-- TSLOT: d ← NAT slot field of a TIME word (R346). -/
def execTslot (c : Fin 2) (p : Phys) (s : State) : Out :=
  s.instr c p (fun i => i.op == 0x9D) (fun i s =>
    withOperands i.pre.tagx s [one (s.w c i.a) Tag.time 0] (.ok (s.setW c i.d ⟨Tag.nat, (s.w c i.a).val &&& 0xFF#32⟩)))

/-- CADD: d ← CODE a + INT b bytes (R341). -/
def execCadd (c : Fin 2) (p : Phys) (s : State) : Out :=
  s.instr c p (fun i => i.op == 0xA0) (fun i s =>
    withOperands i.pre.tagx s [one (s.w c i.a) Tag.code 0 true, one (s.w c i.b) Tag.int 1 true]
      (.ok (s.setW c i.d ⟨Tag.code, (s.w c i.a).val + (s.w c i.b).val⟩)))

end Sys2Proof.Machine
end

