-- ==== Sys2Proof/Machine/NolorMem.lean ====
section
/-!
DEFINITION. The loads, stores, block moves, read-modify-writes and handle instructions of the cores (R328, R329, R338 to R350).
-/

namespace Sys2Proof.Machine

/-- LD: d ← the word at a + displacement (R276, R329, R339). -/
def execLd (c : Fin 2) (p : Phys) (s : State) : Out :=
  s.instr c p (fun i => i.op == 0xC2) (fun i s =>
    let a := addrOf (s.w c i.a).val i.disp
    withAccess c i.pre.tagx s [⟨[base (s.w c i.a)], a⟩] [base (s.w c i.a)] (s.loadTo c i i.d a))

/-- The byte offset of LDX and STX: INT or NAT (R328). -/
def offset (w : TWord) : Src := { w := w, ok := fun t => t == Tag.int || t == Tag.nat, pos := 1 }

/-- LDX: d ← the word at a + b (R328, R339). -/
def execLdx (c : Fin 2) (p : Phys) (s : State) : Out :=
  s.instr c p (fun i => i.op == 0x94) (fun i s =>
    let l := [offset (s.w c i.b), base (s.w c i.a)]
    let a := addrOf (s.w c i.a).val (s.w c i.b).val.toInt
    withAccess c i.pre.tagx s [⟨l, a⟩] l (s.loadTo c i i.d a))

/-- ST: the word at a + displacement ← b (R329, R339). -/
def execSt (c : Fin 2) (p : Phys) (s : State) : Out :=
  s.instr c p (fun i => i.op == 0xC3) (fun i s =>
    let a := addrOf (s.w c i.a).val i.disp
    withAccess c i.pre.tagx s [⟨[base (s.w c i.a)], a⟩] (base (s.w c i.a) :: s.storeSrcs c i i.b) (s.storeFrom c i i.b a))

/-- STX: the word at a + b ← d (R328, R339). -/
def execStx (c : Fin 2) (p : Phys) (s : State) : Out :=
  s.instr c p (fun i => i.op == 0x95) (fun i s =>
    let l := [offset (s.w c i.b), base (s.w c i.a)]
    let a := addrOf (s.w c i.a).val (s.w c i.b).val.toInt
    withAccess c i.pre.tagx s [⟨l, a⟩] (l ++ s.storeSrcs c i i.d) (s.storeFrom c i i.d a))

/-- XCHG: d ← the word at a, which takes b (R340). -/
def execXchg (c : Fin 2) (p : Phys) (s : State) : Out :=
  s.instr c p (fun i => i.op == 0x96) (fun i s =>
    readModify (fun v _ => .ok (some (s.w c i.b), fun u => u.setW c i.d v)) (fun _ _ => []) c i s)

/-- CAS: the word at a, compared whole with d, takes b where they are equal; Z says whether, unless NF is 1; d receives the word read
(R322, R340). -/
def execCas (c : Fin 2) (p : Phys) (s : State) : Out :=
  s.instr c p (fun i => i.op == 0x97) (fun i s =>
    readModify (fun v _ =>
        let same := decide (v = s.w c i.d)
        .ok (if same then some (s.w c i.b) else none, fun u =>
          let u1 := u.setW c i.d v
          if i.nf then u1 else u1.setFlg c (BitVec.ofNat 5 ((s.cr c).flg.toNat / 2 * 2 + b2n same))))
      (fun s i => [whole (s.w c i.d) 0]) c i s)

/-- XADD: d ← the word at a, which takes its sum with b; INT or NAT, of one tag; b is checked before the access (R290, R340). -/
def execXadd (c : Fin 2) (p : Phys) (s : State) : Out :=
  s.instr c p (fun i => i.op == 0x98) (fun i s =>
    let b := s.w c i.b
    readModify (fun v t =>
        if v.tag = Tag.nil then .error (.trap 2 (tagVal Tag.nil 3) t)
        else if v.tag ≠ Tag.int ∧ v.tag ≠ Tag.nat then .error (if i.pre.tagx then .unchecked 278 else .trap 1 (tagVal v.tag 3) t)
        else if b.tag ≠ v.tag ∧ i.pre.tagx = false then .error (.trap 1 (tagVal b.tag 3) t)
        else .ok (match arith 0 v.tag v.val b.val with
          | .val w f => (some w, fun u =>
            let u1 := u.setW c i.d v
            if i.nf then u1 else u1.setFlg c (f.into (s.cr c).flg))
          | _ => (none, id)))
      (fun s i => [{ w := s.w c i.b, ok := fun t => t == Tag.int || t == Tag.nat, pos := 3, nilUse := true }]) c i s)

/-- One word of a block move is done: CNT decreases, and the instruction goes on with the next one or ends (R338). -/
def State.blockNext (s : State) (c : Fin 2) (i : NIns) (acc : List (Nat × Option TWord)) : Eff :=
  let n := (s.cr c).cnt
  .done (s.setCore c (fun k => { k with cnt := n - 1 })) (some (if n = 1 then s.nextPc c i else (s.cr c).pc)) acc

/-- A pointer register advances by a word (R338). -/
def State.advancePtr (s : State) (c : Fin 2) (r : Nat) (v : Word) : State := s.setW c r ⟨Tag.ptr, v + 4⟩

/-- BMOV: one of the CNT words is copied from b to a, and both advance (R338). -/
def execBmov (c : Fin 2) (p : Phys) (s : State) : Out :=
  s.instr c p (fun i => i.op == 0x99) (fun i s =>
    let a := (s.w c i.a).val
    let b := (s.w c i.b).val
    withAccess c i.pre.tagx s (if (s.cr c).cnt = 0 then [] else [⟨[base (s.w c i.b)], b.toNat⟩, ⟨[base (s.w c i.a)], a.toNat⟩])
      [base (s.w c i.a), base (s.w c i.b)]
      (if (s.cr c).cnt = 0 then .ok s
       else
        andThen (if (regionOf a.toNat).buffers then s.room c else .ok s) (fun s1 =>
          andThen (s1.loadWord c i.pre.tagx b.toNat) (fun v =>
            andThen (s1.storeAfter v.2 c a.toNat v.1) (fun t =>
              ((t.advancePtr c i.a a).advancePtr c i.b b).blockNext c i [(b.toNat, none), (a.toNat, some v.1)])))))

/-- BFILL: one of the CNT words from a takes the word in b, and a advances (R338). -/
def execBfill (c : Fin 2) (p : Phys) (s : State) : Out :=
  s.instr c p (fun i => i.op == 0x9A) (fun i s =>
    let a := (s.w c i.a).val
    withAccess c i.pre.tagx s (if (s.cr c).cnt = 0 then [] else [⟨[base (s.w c i.a)], a.toNat⟩]) [base (s.w c i.a), whole (s.w c i.b) 3]
      (if (s.cr c).cnt = 0 then .ok s
       else andThen (s.storeWord c a.toNat (s.w c i.b)) (fun t =>
          (t.advancePtr c i.a a).blockNext c i [(a.toNat, some (s.w c i.b))])))

/-! ### Handles (R347 to R350) -/

/-- Indices, input record base and stride, and command word base and stride of a channel kind (R347); a base of 0 is no command
word. -/
def channelKind (k : Nat) : Option (Nat × (Nat × Nat) × (Nat × Nat)) :=
  match k with
  | 0 => some (48, (0x30000200, 0x40), (0x30010100, 4))
  | 1 => some (8, (0x30000E00, 0x40), (0x300101C0, 8))
  | 2 => some (12, (0x30001900, 0x40), (0x30010800, 4))
  | 3 => some (4, (0x30001C00, 0x20), (0x30010840, 4))
  | 4 => some (24, (0x30002020, 0x20), (0x30010C00, 4))
  | 5 => some (48, (0x30002420, 8), (0, 0))
  | 6 => some (2, (0x300025A0, 8), (0, 0))
  | 7 => some (24, (0x30002600, 0x10), (0, 0))
  | 8 => some (4, (0x30002780, 0x10), (0x30010E00, 4))
  | 9 => some (3, (0x30001820, 0x20), (0, 0))
  | _ => none

/-- The input record and the command word that a CHAN payload names; none where it names no object (R347). -/
def chanObject (w : Word) : Option (Nat × Option Nat) :=
  let n := getBits w 0 16
  if getBits w 16 8 ≠ 0 then none
  else match channelKind (getBits w 24 8) with
    | none => none
    | some (m, r, q) => if n < m then some (r.1 + r.2 * n, if q.1 = 0 then none else some (q.1 + q.2 * n)) else none

/-- An MSG payload names a CAN port and a message object (R349). -/
def msgOk (w : Word) : Bool := decide (w.toNat < 2048) && decide (getBits w 8 3 < 6)

/-- A KEY payload names the present load of its slot (R350). -/
def State.keyOk (s : State) (w : Word) : Bool := getBits w 5 11 == 0 && s.fld (F.secKattrGen (getBits w 0 5)) == getBits w 16 16

/-- A result, or HANDLE where there is none (R290). -/
def handleOut (c : Fin 2) (i : NIns) (s : State) (v : Option TWord) : Eff :=
  match v with
  | some x => .ok (s.setW c i.d x)
  | none => .trap 8 0 s

/-- HCHAN: d ← the CHAN handle that a NAT names (R347). -/
def execHchan (c : Fin 2) (p : Phys) (s : State) : Out :=
  s.instr c p (fun i => i.op == 0xA2) (fun i s =>
    let a := s.w c i.a
    withOperands i.pre.tagx s [one a Tag.nat 0] (handleOut c i s (if (chanObject a.val).isSome then some ⟨Tag.chan, a.val⟩ else none)))

/-- HREC: d ← PTR to the input record of a CHAN (R348). -/
def execHrec (c : Fin 2) (p : Phys) (s : State) : Out :=
  s.instr c p (fun i => i.op == 0xA3) (fun i s =>
    let a := s.w c i.a
    withOperands i.pre.tagx s [one a Tag.chan 0]
      (handleOut c i s ((chanObject a.val).map (fun o => ⟨Tag.ptr, BitVec.ofNat 32 o.1⟩))))

/-- HCMD: d ← PTR to the staging command word of a CHAN; HANDLE for a kind without one (R348). -/
def execHcmd (c : Fin 2) (p : Phys) (s : State) : Out :=
  s.instr c p (fun i => i.op == 0xA4) (fun i s =>
    let a := s.w c i.a
    withOperands i.pre.tagx s [one a Tag.chan 0]
      (handleOut c i s ((chanObject a.val).bind (fun o => o.2.map (fun q => ⟨Tag.ptr, BitVec.ofNat 32 q⟩)))))

/-- HMSG: d ← the MSG handle that a NAT names (R349). -/
def execHmsg (c : Fin 2) (p : Phys) (s : State) : Out :=
  s.instr c p (fun i => i.op == 0xA5) (fun i s =>
    let a := s.w c i.a
    withOperands i.pre.tagx s [one a Tag.nat 0] (handleOut c i s (if msgOk a.val then some ⟨Tag.msg, a.val⟩ else none)))

/-- HOBJ: d ← PTR to the first word of an MSG's object, its port (R349, R456). -/
def execHobj (c : Fin 2) (p : Phys) (s : State) : Out :=
  s.instr c p (fun i => i.op == 0xA6) (fun i s =>
    let a := s.w c i.a
    withOperands i.pre.tagx s [one a Tag.msg 0] (handleOut c i s (if msgOk a.val then
      some ⟨Tag.ptr, BitVec.ofNat 32 (0x40090800 + 0x2000 * getBits a.val 8 3 + 4 * getBits a.val 0 8)⟩ else none)))

/-- HIDX: d ← NAT name of a handle: the payload of a CHAN or an MSG, the slot of a KEY (R347, R349, R350). -/
def execHidx (c : Fin 2) (p : Phys) (s : State) : Out :=
  s.instr c p (fun i => i.op == 0xA7) (fun i s =>
    let a := s.w c i.a
    withOperands i.pre.tagx s
      [{ w := a, ok := fun t => t == Tag.chan || t == Tag.msg || t == Tag.key, pos := 0, uniq := false }]
      (.ok (s.setW c i.d (if a.tag = Tag.key then TWord.nat (getBits a.val 0 5) else ⟨Tag.nat, a.val⟩))))

/-- KEYH: d ← the KEY handle of a slot, with its load generation; SUP only (R350). -/
def execKeyh (c : Fin 2) (p : Phys) (s : State) : Out :=
  s.instr c p (fun i => i.op == 0xA8) (fun i s =>
    let a := s.w c i.a
    let n := a.val.toNat
    if (s.cr c).job then .trap 6 0 s
    else withOperands i.pre.tagx s [one a Tag.nat 0]
      (handleOut c i s (if n < 32 then some ⟨Tag.key, BitVec.ofNat 32 (n + 65536 * s.fld (F.secKattrGen n))⟩ else none)))

/-- The six words of a descriptor (R586). -/
def State.descriptor (s : State) (c : Fin 2) (tagx : Bool) (a : Nat) : Except Eff (List TWord × State) :=
  (upto 6).foldl (fun r j =>
    match r with
    | .error x => .error x
    | .ok (l, t) =>
      match s.loadAfter t c tagx ((a + 4 * j) % 2 ^ 32) with
      | .error x => .error x
      | .ok (v, u) => .ok (l ++ [v], u)) (.ok ([], s))

/-- CJOB: the descriptor at b is copied into the job queue under the slot of the KEY a; d ← its job number, or NIL 0 where the queue is
full (R350, R586, R587). It is ordered as a peripheral access; from JOB mode an operation marked SUP is a PRIV trap; SEC wakes for it, and
while SEC is locked off nothing is submitted (R436, R437). -/
def execCjob (c : Fin 2) (p : Phys) (s : State) : Out :=
  s.instr c p (fun i => i.op == 0xA9) (fun i s =>
    let a := s.w c i.a
    let b := s.w c i.b
    let addr := b.val.toNat
    let opAt := if b.tag = Tag.ptr ∨ i.pre.tagx = true then (match s.loadWord c i.pre.tagx addr with
      | .ok r => some (getBits r.1.val 0 8)
      | .error _ => none) else none
    if (s.cr c).job && (opAt.map opSup).getD false then .trap 6 0 s
    else withAccess c i.pre.tagx s ((upto 6).map (fun j => ⟨[one b Tag.ptr 1 true], (addr + 4 * j) % 2 ^ 32⟩))
      [one a Tag.key 0, one b Tag.ptr 1 true]
      (if s.keyOk a.val = false then .trap 8 0 s
       else andThen (s.emptied c) (fun s1 =>
        andThen (s1.descriptor c i.pre.tagx addr) (fun d =>
          if d.2.domLocked domSec then .ok (d.2.lockAccess.setW c i.d TWord.nil0)
          else if d.2.domOn domSec = false then .wait (s1.stallOn c domSec)
          else
            let r := d.2.submit d.1 (getBits a.val 0 5)
            .done (r.2.setW c i.d (match r.1 with
              | some j => TWord.nat j
              | none => TWord.nil0)) none ((upto 6).map (fun j => (addr + 4 * j, none)))))))

end Sys2Proof.Machine
end

