-- ==== Sys2Proof/Machine/Dispatch.lean ====
section
/-!
DEFINITION. One arm per command: each is one call of the command's meaning.
-/

namespace Sys2Proof.Machine

/-- The effect of a command on everything but the queue. -/
def exec (i : Instr) (s : State) : Host.Outcome State Fault Refusal :=
  match i with
  | .registerWrite m job a v => Sys2Proof.Machine.execRegisterWrite m job a v s
  | .frameEdge w => Sys2Proof.Machine.execFrameEdge w s
  | .slotBoundary w => Sys2Proof.Machine.execSlotBoundary w s
  | .sealDeadline => Sys2Proof.Machine.execSealDeadline s
  | .firmwareCutoff => Sys2Proof.Machine.execFirmwareCutoff s
  | .hostCutoff => Sys2Proof.Machine.execHostCutoff s
  | .jobRelease j => Sys2Proof.Machine.execJobRelease j s
  | .eventRaise n => Sys2Proof.Machine.execEventRaise n s
  | .eventDispatch c => Sys2Proof.Machine.execEventDispatch c s
  | .jobStart c => Sys2Proof.Machine.execJobStart c s
  | .sev w => Sys2Proof.Machine.execSev w s
  | .frameloRead m => Sys2Proof.Machine.execFrameloRead m s
  | .inrushWindowClose c => Sys2Proof.Machine.execInrushWindowClose c s
  | .overcurrentShutoff c amps land => Sys2Proof.Machine.execOvercurrentShutoff c amps land s
  | .junctionShutoff c deg => Sys2Proof.Machine.execJunctionShutoff c deg s
  | .tlatchClear o deg => Sys2Proof.Machine.execTlatchClear o deg s
  | .channelRestart o => Sys2Proof.Machine.execChannelRestart o s
  | .retriesHeal o => Sys2Proof.Machine.execRetriesHeal o s
  | .pairImbalance c => Sys2Proof.Machine.execPairImbalance c s
  | .slotSample w => Sys2Proof.Machine.execSlotSample w s
  | .streamSampleWrite => Sys2Proof.Machine.execStreamSampleWrite s
  | .dieShed d deg => Sys2Proof.Machine.execDieShed d deg s
  | .shedEscalate d deg => Sys2Proof.Machine.execShedEscalate d deg s
  | .hbShutoff n amps deg land => Sys2Proof.Machine.execHbShutoff n amps deg land s
  | .hbStall n => Sys2Proof.Machine.execHbStall n s
  | .offStatePhaseA o land odd => Sys2Proof.Machine.execOffStatePhaseA o land odd s
  | .offStateCheck o land odd => Sys2Proof.Machine.execOffStateCheck o land odd s
  | .reverseOn g mv => Sys2Proof.Machine.execReverseOn g mv s
  | .reverseEnd g mv => Sys2Proof.Machine.execReverseEnd g mv s
  | .engineStart e => Sys2Proof.Machine.execEngineStart e s
  | .engineStop e => Sys2Proof.Machine.execEngineStop e s
  | .holdEnded t => Sys2Proof.Machine.execHoldEnded t s
  | .grantedSlotStart t => Sys2Proof.Machine.execGrantedSlotStart t s
  | .regulatorSample w => Sys2Proof.Machine.execRegulatorSample w s
  | .detectorWindowClose t => Sys2Proof.Machine.execDetectorWindowClose t s
  | .ucNop t => Sys2Proof.Machine.execUcNop t s
  | .ucSet t => Sys2Proof.Machine.execUcSet t s
  | .ucRamp t => Sys2Proof.Machine.execUcRamp t s
  | .ucWaits t => Sys2Proof.Machine.execUcWaits t s
  | .ucWaitu t => Sys2Proof.Machine.execUcWaitu t s
  | .ucWaituExpire t => Sys2Proof.Machine.execUcWaituExpire t s
  | .ucWaitc t => Sys2Proof.Machine.execUcWaitc t s
  | .ucWaitcTimeout t => Sys2Proof.Machine.execUcWaitcTimeout t s
  | .ucDecay t => Sys2Proof.Machine.execUcDecay t s
  | .ucBr t => Sys2Proof.Machine.execUcBr t s
  | .ucLps t => Sys2Proof.Machine.execUcLps t s
  | .ucLpj t => Sys2Proof.Machine.execUcLpj t s
  | .ucArmd t => Sys2Proof.Machine.execUcArmd t s
  | .ucHold t => Sys2Proof.Machine.execUcHold t s
  | .ucSig t => Sys2Proof.Machine.execUcSig t s
  | .ucEnd t => Sys2Proof.Machine.execUcEnd t s
  | .microcodeFault t parity => Sys2Proof.Machine.execMicrocodeFault t parity s
  | .coilShutoff ch amps deg => Sys2Proof.Machine.execCoilShutoff ch amps deg s
  | .bankShutoff b amps deg => Sys2Proof.Machine.execBankShutoff b amps deg s
  | .clampOvertemp ch deg => Sys2Proof.Machine.execClampOvertemp ch deg s
  | .loaderCopyComplete => Sys2Proof.Machine.execLoaderCopyComplete s
  | .pxShutoff x amps deg => Sys2Proof.Machine.execPxShutoff x amps deg s
  | .ledMeasurement n amps head => Sys2Proof.Machine.execLedMeasurement n amps head s
  | .ledOvertemp n deg => Sys2Proof.Machine.execLedOvertemp n deg s
  | .wettingPulseStart => Sys2Proof.Machine.execWettingPulseStart s
  | .watchTransition n closed => Sys2Proof.Machine.execWatchTransition n closed s
  | .watchFreezeEnd => Sys2Proof.Machine.execWatchFreezeEnd s
  | .wakeInputTransition n mv => Sys2Proof.Machine.execWakeInputTransition n mv s
  | .ainSample w => Sys2Proof.Machine.execAinSample w s
  | .biasCheckSample w => Sys2Proof.Machine.execBiasCheckSample w s
  | .vsensOvercurrent v => Sys2Proof.Machine.execVsensOvercurrent v s
  | .vsensExternalDrive v mv => Sys2Proof.Machine.execVsensExternalDrive v mv s
  | .warnPulseEnd => Sys2Proof.Machine.execWarnPulseEnd s
  | .stickyClear m w job => Sys2Proof.Machine.execStickyClear m w job s
  | .sourceForce m w job => Sys2Proof.Machine.execSourceForce m w job s
  | .swset w => Sys2Proof.Machine.execSwset w s
  | .classLock job => Sys2Proof.Machine.execClassLock job s
  | .classFEnd ms u => Sys2Proof.Machine.execClassFEnd ms u s
  | .nop c p => Sys2Proof.Machine.execNop c p s
  | .fence c p => Sys2Proof.Machine.execFence c p s
  | .sealIns c p => Sys2Proof.Machine.execSeal c p s
  | .waite c p => Sys2Proof.Machine.execWaite c p s
  | .rete c p => Sys2Proof.Machine.execRete c p s
  | .brk c p => Sys2Proof.Machine.execBrk c p s
  | .bcc c p => Sys2Proof.Machine.execBcc c p s
  | .inc c p => Sys2Proof.Machine.execInc c p s
  | .dec c p => Sys2Proof.Machine.execDec c p s
  | .neg c p => Sys2Proof.Machine.execNeg c p s
  | .abs c p => Sys2Proof.Machine.execAbs c p s
  | .not c p => Sys2Proof.Machine.execNot c p s
  | .clrn c p => Sys2Proof.Machine.execClrn c p s
  | .tst c p => Sys2Proof.Machine.execTst c p s
  | .swt c p => Sys2Proof.Machine.execSwt c p s
  | .ret c p => Sys2Proof.Machine.execRet c p s
  | .jmpr c p => Sys2Proof.Machine.execJmpr c p s
  | .tstamp c p => Sys2Proof.Machine.execTstamp c p s
  | .now c p => Sys2Proof.Machine.execNow c p s
  | .setcnt c p => Sys2Proof.Machine.execSetcnt c p s
  | .add c p => Sys2Proof.Machine.execAdd c p s
  | .sub c p => Sys2Proof.Machine.execSub c p s
  | .mul c p => Sys2Proof.Machine.execMul c p s
  | .div c p => Sys2Proof.Machine.execDiv c p s
  | .rem c p => Sys2Proof.Machine.execRem c p s
  | .and c p => Sys2Proof.Machine.execAnd c p s
  | .or c p => Sys2Proof.Machine.execOr c p s
  | .xor c p => Sys2Proof.Machine.execXor c p s
  | .shl c p => Sys2Proof.Machine.execShl c p s
  | .shr c p => Sys2Proof.Machine.execShr c p s
  | .sar c p => Sys2Proof.Machine.execSar c p s
  | .rol c p => Sys2Proof.Machine.execRol c p s
  | .ror c p => Sys2Proof.Machine.execRor c p s
  | .cmp c p => Sys2Proof.Machine.execCmp c p s
  | .min c p => Sys2Proof.Machine.execMin c p s
  | .max c p => Sys2Proof.Machine.execMax c p s
  | .mov c p => Sys2Proof.Machine.execMov c p s
  | .cvt c p => Sys2Proof.Machine.execCvt c p s
  | .ttest c p => Sys2Proof.Machine.execTtest c p s
  | .tagof c p => Sys2Proof.Machine.execTagof c p s
  | .ldx c p => Sys2Proof.Machine.execLdx c p s
  | .stx c p => Sys2Proof.Machine.execStx c p s
  | .xchg c p => Sys2Proof.Machine.execXchg c p s
  | .cas c p => Sys2Proof.Machine.execCas c p s
  | .xadd c p => Sys2Proof.Machine.execXadd c p s
  | .bmov c p => Sys2Proof.Machine.execBmov c p s
  | .bfill c p => Sys2Proof.Machine.execBfill c p s
  | .tsub c p => Sys2Proof.Machine.execTsub c p s
  | .tfrm c p => Sys2Proof.Machine.execTfrm c p s
  | .tslot c p => Sys2Proof.Machine.execTslot c p s
  | .mfs c p => Sys2Proof.Machine.execMfs c p s
  | .mts c p => Sys2Proof.Machine.execMts c p s
  | .cadd c p => Sys2Proof.Machine.execCadd c p s
  | .callr c p => Sys2Proof.Machine.execCallr c p s
  | .hchan c p => Sys2Proof.Machine.execHchan c p s
  | .hrec c p => Sys2Proof.Machine.execHrec c p s
  | .hcmd c p => Sys2Proof.Machine.execHcmd c p s
  | .hmsg c p => Sys2Proof.Machine.execHmsg c p s
  | .hobj c p => Sys2Proof.Machine.execHobj c p s
  | .hidx c p => Sys2Proof.Machine.execHidx c p s
  | .keyh c p => Sys2Proof.Machine.execKeyh c p s
  | .cjob c p => Sys2Proof.Machine.execCjob c p s
  | .movi c p => Sys2Proof.Machine.execMovi c p s
  | .aluiAdd c p => Sys2Proof.Machine.execAluiAdd c p s
  | .aluiSub c p => Sys2Proof.Machine.execAluiSub c p s
  | .aluiMul c p => Sys2Proof.Machine.execAluiMul c p s
  | .aluiDiv c p => Sys2Proof.Machine.execAluiDiv c p s
  | .aluiRem c p => Sys2Proof.Machine.execAluiRem c p s
  | .aluiAnd c p => Sys2Proof.Machine.execAluiAnd c p s
  | .aluiOr c p => Sys2Proof.Machine.execAluiOr c p s
  | .aluiXor c p => Sys2Proof.Machine.execAluiXor c p s
  | .aluiShl c p => Sys2Proof.Machine.execAluiShl c p s
  | .aluiShr c p => Sys2Proof.Machine.execAluiShr c p s
  | .aluiSar c p => Sys2Proof.Machine.execAluiSar c p s
  | .aluiRol c p => Sys2Proof.Machine.execAluiRol c p s
  | .aluiRor c p => Sys2Proof.Machine.execAluiRor c p s
  | .aluiCmp c p => Sys2Proof.Machine.execAluiCmp c p s
  | .aluiMin c p => Sys2Proof.Machine.execAluiMin c p s
  | .aluiMax c p => Sys2Proof.Machine.execAluiMax c p s
  | .ld c p => Sys2Proof.Machine.execLd c p s
  | .st c p => Sys2Proof.Machine.execSt c p s
  | .br c p => Sys2Proof.Machine.execBr c p s
  | .call c p => Sys2Proof.Machine.execCall c p s
  | .btag c p => Sys2Proof.Machine.execBtag c p s
  | .adr c p => Sys2Proof.Machine.execAdr c p s
  | .illegalInstruction c p => Sys2Proof.Machine.execIllegalInstruction c p s
  | .cust c p => Sys2Proof.Machine.execCust c p s
  | .customRegionClose m job => Sys2Proof.Machine.execCustomRegionClose m job s
  | .storeDrain c => Sys2Proof.Machine.execStoreDrain c s
  | .coreRestart m job w => Sys2Proof.Machine.execCoreRestart m job w s
  | .mrd a e par => Sys2Proof.Machine.execMrd a e par s
  | .mwr a v differs par dataPar => Sys2Proof.Machine.execMwr a v differs par dataPar s
  | .rrd c r par => Sys2Proof.Machine.execRrd c r par s
  | .rwr c r v par dataPar => Sys2Proof.Machine.execRwr c r v par dataPar s
  | .drd o par => Sys2Proof.Machine.execDrd o par s
  | .dwr o v par dataPar => Sys2Proof.Machine.execDwr o v par dataPar s
  | .linkReset => Sys2Proof.Machine.execLinkReset s
  | .debugHalt c => Sys2Proof.Machine.execDebugHalt c s
  | .debugResume c => Sys2Proof.Machine.execDebugResume c s
  | .step c => Sys2Proof.Machine.execStep c s
  | .restart c => Sys2Proof.Machine.execRestart c s
  | .laneGrant b l arrived e => Sys2Proof.Machine.execLaneGrant b l arrived e s
  | .correctedWriteback b w => Sys2Proof.Machine.execCorrectedWriteback b w s
  | .ownerWrite m b w => Sys2Proof.Machine.execOwnerWrite m b w s
  | .bankStateWrite b w => Sys2Proof.Machine.execBankStateWrite b w s
  | .bankPowerDown b => Sys2Proof.Machine.execBankPowerDown b s
  | .bankWakeComplete b => Sys2Proof.Machine.execBankWakeComplete b s
  | .bankWakeTimeout b => Sys2Proof.Machine.execBankWakeTimeout b s
  | .scrubRead b e => Sys2Proof.Machine.execScrubRead b e s
  | .laneCopyComplete b => Sys2Proof.Machine.execLaneCopyComplete b s
  | .groupOvervoltageOff g mv => Sys2Proof.Machine.execGroupOvervoltageOff g mv s
  | .dipOff g mv => Sys2Proof.Machine.execDipOff g mv s
  | .reverseLatch g us powered => Sys2Proof.Machine.execReverseLatch g us powered s
  | .logicDip mv => Sys2Proof.Machine.execLogicDip mv s
  | .logicDipEnd mv us lock => Sys2Proof.Machine.execLogicDipEnd mv us lock s
  | .powerUp u => Sys2Proof.Machine.execPowerUp u s
  | .lowSupply mv u => Sys2Proof.Machine.execLowSupply mv u s
  | .longDip u => Sys2Proof.Machine.execLongDip u s
  | .holdUpEmpty mv u => Sys2Proof.Machine.execHoldUpEmpty mv u s
  | .brownOut u => Sys2Proof.Machine.execBrownOut u s
  | .resetLand ns u => Sys2Proof.Machine.execResetLand ns u s
  | .coreDomainDown c => Sys2Proof.Machine.execCoreDomainDown c s
  | .domainWakeComplete d => Sys2Proof.Machine.execDomainWakeComplete d s
  | .resumeEdge w => Sys2Proof.Machine.execResumeEdge w s
  | .parkEntry us => Sys2Proof.Machine.execParkEntry us s
  | .wakeRequest wup fec hcs => Sys2Proof.Machine.execWakeRequest wup fec hcs s
  | .pllLock us lock => Sys2Proof.Machine.execPllLock us lock s
  | .aonTimerExpire => Sys2Proof.Machine.execAonTimerExpire s
  | .crystalStop => Sys2Proof.Machine.execCrystalStop s
  | .canRunStart n => Sys2Proof.Machine.execCanRunStart n s
  | .canRunStop n busy => Sys2Proof.Machine.execCanRunStop n busy s
  | .canIntegrated n => Sys2Proof.Machine.execCanIntegrated n s
  | .objcfgWrite n o w => Sys2Proof.Machine.execObjcfgWrite n o w s
  | .canFrameReceived n m res => Sys2Proof.Machine.execCanFrameReceived n m res s
  | .objectPortRead m n o => Sys2Proof.Machine.execObjectPortRead m n o s
  | .objectPortWrite m n o w => Sys2Proof.Machine.execObjectPortWrite m n o w s
  | .lckrel m n => Sys2Proof.Machine.execLckrel m n s
  | .qack n => Sys2Proof.Machine.execQack n s
  | .canTxStart n => Sys2Proof.Machine.execCanTxStart n s
  | .canTxSuccess n => Sys2Proof.Machine.execCanTxSuccess n s
  | .canTxError n e more => Sys2Proof.Machine.execCanTxError n e more s
  | .recover n => Sys2Proof.Machine.execRecover n s
  | .busOffRecovery n => Sys2Proof.Machine.execBusOffRecovery n s
  | .selectiveWake n m rate => Sys2Proof.Machine.execSelectiveWake n m rate s
  | .linHeaderSend m id => Sys2Proof.Machine.execLinHeaderSend m id s
  | .linHeaderReceived m id rate good => Sys2Proof.Machine.execLinHeaderReceived m id rate good s
  | .linResponseReceived m data cks framing => Sys2Proof.Machine.execLinResponseReceived m data cks framing s
  | .linResponseSent m bitError => Sys2Proof.Machine.execLinResponseSent m bitError s
  | .linNoResponse m => Sys2Proof.Machine.execLinNoResponse m s
  | .linBusDominant m => Sys2Proof.Machine.execLinBusDominant m s
  | .linBusRelease m => Sys2Proof.Machine.execLinBusRelease m s
  | .linWakeSend m => Sys2Proof.Machine.execLinWakeSend m s
  | .linWakeReceived m us => Sys2Proof.Machine.execLinWakeReceived m us s
  | .linIdle m => Sys2Proof.Machine.execLinIdle m s
  | .nmFrameSend => Sys2Proof.Machine.execNmFrameSend s
  | .nclr => Sys2Proof.Machine.execNclr s
  | .ethLinkUp p farMaster => Sys2Proof.Machine.execEthLinkUp p farMaster s
  | .ethLinkDown p => Sys2Proof.Machine.execEthLinkDown p s
  | .ethFrameReceived p bytes fcs => Sys2Proof.Machine.execEthFrameReceived p bytes fcs s
  | .ethFrameEgress p => Sys2Proof.Machine.execEthFrameEgress p s
  | .followUpTimeout => Sys2Proof.Machine.execFollowUpTimeout s
  | .delayReqSend => Sys2Proof.Machine.execDelayReqSend s
  | .ptpSourceLost => Sys2Proof.Machine.execPtpSourceLost s
  | .tloRead m => Sys2Proof.Machine.execTloRead m s
  | .cntloRead m => Sys2Proof.Machine.execCntloRead m s
  | .nrateloWrite w => Sys2Proof.Machine.execNrateloWrite w s
  | .noffloWrite w => Sys2Proof.Machine.execNoffloWrite w s
  | .ppsOutPulse => Sys2Proof.Machine.execPpsOutPulse s
  | .ppsInEdge rising => Sys2Proof.Machine.execPpsInEdge rising s
  | .almloWrite w => Sys2Proof.Machine.execAlmloWrite w s
  | .alarm => Sys2Proof.Machine.execAlarm s
  | .balerRecordBuild => Sys2Proof.Machine.execBalerRecordBuild s
  | .recordRequestServe => Sys2Proof.Machine.execRecordRequestServe s
  | .searchStart => Sys2Proof.Machine.execSearchStart s
  | .retrySearch => Sys2Proof.Machine.execRetrySearch s
  | .lfTelegramEnd w => Sys2Proof.Machine.execLfTelegramEnd w s
  | .aerialShort a amps => Sys2Proof.Machine.execAerialShort a amps s
  | .tokenReply after packet => Sys2Proof.Machine.execTokenReply after packet s
  | .replyWindowClose => Sys2Proof.Machine.execReplyWindowClose s
  | .memReceived packet => Sys2Proof.Machine.execMemReceived packet s
  | .memTimeout => Sys2Proof.Machine.execMemTimeout s
  | .releaseEnd => Sys2Proof.Machine.execReleaseEnd s
  | .permitFrame => Sys2Proof.Machine.execPermitFrame s
  | .permitEnd => Sys2Proof.Machine.execPermitEnd s
  | .buttonPacket packet => Sys2Proof.Machine.execButtonPacket packet s
  | .urawAccess w back => Sys2Proof.Machine.execUrawAccess w back s
  | .pepochWrite w job => Sys2Proof.Machine.execPepochWrite w job s
  | .read src b => Sys2Proof.Machine.execRead src b s
  | .write src b => Sys2Proof.Machine.execWrite src b s
  | .txn src b => Sys2Proof.Machine.execTxn src b s
  | .hreset src b => Sys2Proof.Machine.execHreset src b s
  | .hostNop src b => Sys2Proof.Machine.execHostNop src b s
  | .spiShortFrame b => Sys2Proof.Machine.execSpiShortFrame b s
  | .commit => Sys2Proof.Machine.execCommit s
  | .aesCtr j e => Sys2Proof.Machine.execAesCtr j e s
  | .gcmEnc j e => Sys2Proof.Machine.execGcmEnc j e s
  | .gcmDec j e => Sys2Proof.Machine.execGcmDec j e s
  | .cmac j e => Sys2Proof.Machine.execCmac j e s
  | .cmacVer j e => Sys2Proof.Machine.execCmacVer j e s
  | .sha256 j e => Sys2Proof.Machine.execSha256 j e s
  | .slhVer j e => Sys2Proof.Machine.execSlhVer j e s
  | .attest j e => Sys2Proof.Machine.execAttest j e s
  | .idpk j => Sys2Proof.Machine.execIdpk j s
  | .random j => Sys2Proof.Machine.execRandom j s
  | .kload j e => Sys2Proof.Machine.execKload j e s
  | .kerase j => Sys2Proof.Machine.execKerase j s
  | .kwrap j => Sys2Proof.Machine.execKwrap j s
  | .kunwrap j e => Sys2Proof.Machine.execKunwrap j e s
  | .xread j => Sys2Proof.Machine.execXread j s
  | .xprog j e => Sys2Proof.Machine.execXprog j e s
  | .xerase j => Sys2Proof.Machine.execXerase j s
  | .iverify j => Sys2Proof.Machine.execIverify j s
  | .hload j => Sys2Proof.Machine.execHload j s
  | .confirm j => Sys2Proof.Machine.execConfirm j s
  | .cryptoJobComplete j => Sys2Proof.Machine.execCryptoJobComplete j s
  | .flashTimeout j => Sys2Proof.Machine.execFlashTimeout j s
  | .jdoneClear w job => Sys2Proof.Machine.execJdoneClear w job s
  | .trngHealthFail => Sys2Proof.Machine.execTrngHealthFail s
  | .boot lands => Sys2Proof.Machine.execBoot lands s
  | .hctlStart w job => Sys2Proof.Machine.execHctlStart w job s
  | .recoverEntry w job => Sys2Proof.Machine.execRecoverEntry w job s
  | .recoveryErase slot job => Sys2Proof.Machine.execRecoveryErase slot job s
  | .rdataWrite w pages job => Sys2Proof.Machine.execRdataWrite w pages job s
  | .recoveryVerify slot job => Sys2Proof.Machine.execRecoveryVerify slot job s
  | .recoveryBoot slot job => Sys2Proof.Machine.execRecoveryBoot slot job s
  | .drespCheck w job => Sys2Proof.Machine.execDrespCheck w job s
  | .prog mv job => Sys2Proof.Machine.execProg mv job s
  | .arbstep mv job => Sys2Proof.Machine.execArbstep mv job s
  | .wear mv job => Sys2Proof.Machine.execWear mv job s
  | .siloOpComplete fail1 fail2 => Sys2Proof.Machine.execSiloOpComplete fail1 fail2 s
  | .siloAbort mv vbat cells => Sys2Proof.Machine.execSiloAbort mv vbat cells s
  | .laneRetire b l => Sys2Proof.Machine.execLaneRetire b l s
  | .frc w job => Sys2Proof.Machine.execFrc w job s
  | .pllUnlock => Sys2Proof.Machine.execPllUnlock s
  | .allClocksLost => Sys2Proof.Machine.execAllClocksLost s
  | .aonClockStop => Sys2Proof.Machine.execAonClockStop s
  | .counterParityError => Sys2Proof.Machine.execCounterParityError s
  | .canBusError n heavy => Sys2Proof.Machine.execCanBusError n heavy s
  | .spiIdleFrame n => Sys2Proof.Machine.execSpiIdleFrame n s
  | .hostBadRequest src b => Sys2Proof.Machine.execHostBadRequest src b s
  | .trngHealthPass => Sys2Proof.Machine.execTrngHealthPass s
  | .ppsOutPulseEnd => Sys2Proof.Machine.execPpsOutPulseEnd s

end Sys2Proof.Machine
end

