-- ==== Sys2Proof/Safety.lean ====
section
/-!
DEFINITION. The terms that claims use: the canonical form of the registers and the memory, and what a command leaves unchanged, part by
part of the machine.
-/

namespace Sys2Proof.Machine

/-- The memory is in its canonical form: word numbers strictly rising, no entry that reads as an unlisted word reads. -/
def Memory.wf (m : List (Nat × TWord)) : Bool := AMap.wf memDefault m

/-- The register words are in their canonical form: addresses strictly rising, no entry at its reset value. -/
def Registers.wf (r : List (Nat × Word)) : Bool := AMap.wf Regs.reset r

/-- The invariant of the two sparse stores. -/
def State.canonical (s : State) : Prop := Memory.wf s.mem = true ∧ Registers.wf s.regs = true

/-- The parts of the machine that a command may change: one register word by its address, one word of memory by its number (its
byte address over 4), one reading, one output, one core, and so on down to the blocks that are kept whole. -/
inductive Part where
  | reg (a : Nat)
  | word (n : Nat)
  | pin (x : Sensor)
  | count | frame | held | images | jobs | events | frmRest
  | out (o : Nat)
  | die (d : Nat)
  | stream | win
  | swIn (i : Nat)
  | wakeIn (n : Nat)
  | ainIn (a : Nat)
  | vsIn (v : Nat)
  | inpRest
  | coil (t : Nat)
  | bank (b : Nat)
  | px (x : Nat)
  | prsRest
  | led (n : Nat)
  | gbank (b : Nat)
  | grants
  | dom (d : Nat)
  | grp (g : Nat)
  | pause | stalled
  | can (n : Nat)
  | lin (m : Nat)
  | nm | eth | ptp | tim | bal | acc | hst | sec | sil | gln
  | got (m : Nat)
  | ack
  | core (c : Fin 2)
  | free
deriving DecidableEq, Repr

/-- A part is the same in two states. -/
def State.same (s t : State) : Part → Prop
  | .reg a => t.reg a = s.reg a
  | .word n => t.mread (4 * n) = s.mread (4 * n)
  | .pin x => t.pin x = s.pin x
  | .count => t.count = s.count
  | .frame => t.frm.frame = s.frm.frame ∧ t.frm.edgeAt = s.frm.edgeAt ∧ t.frm.edgeT = s.frm.edgeT ∧ t.frm.slot = s.frm.slot
  | .held => t.frm.held = s.frm.held
  | .images => t.frm.staging = s.frm.staging ∧ t.frm.committed = s.frm.committed ∧ t.frm.input = s.frm.input
  | .jobs => t.frm.jobs = s.frm.jobs ∧ t.frm.judged = s.frm.judged
  | .events => t.frm.pend = s.frm.pend
  | .frmRest => t.frm.sealAt = s.frm.sealAt ∧ t.frm.hiCap = s.frm.hiCap ∧ t.frm.applied = s.frm.applied ∧
      t.frm.committing = s.frm.committing ∧ t.frm.synced = s.frm.synced
  | .out o => t.out o = s.out o
  | .die d => t.dieOf d = s.dieOf d
  | .stream => t.sw.strOn = s.sw.strOn ∧ t.sw.strDrop = s.sw.strDrop ∧ t.sw.strLast = s.sw.strLast ∧ t.sw.strDone = s.sw.strDone ∧
      t.sw.smpDone = s.sw.smpDone
  | .win => t.win = s.win
  | .swIn i => t.swIn i = s.swIn i
  | .wakeIn n => t.wakeIn n = s.wakeIn n
  | .ainIn a => t.ainIn a = s.ainIn a
  | .vsIn v => t.vsIn v = s.vsIn v
  | .inpRest => t.inp.sampled = s.inp.sampled ∧ t.inp.changed = s.inp.changed ∧ t.inp.reached = s.inp.reached ∧
      t.inp.ainHit = s.inp.ainHit
  | .coil n => t.coil n = s.coil n
  | .bank b => t.pbank b = s.pbank b
  | .px x => t.px x = s.px x
  | .prsRest => t.prs.sampleJ = s.prs.sampleJ ∧ t.prs.loading = s.prs.loading ∧ t.prs.lddone = s.prs.lddone ∧
      t.prs.ldlate = s.prs.ldlate ∧ t.prs.copy = s.prs.copy ∧ t.prs.lderr = s.prs.lderr ∧ t.prs.ldrep = s.prs.ldrep
  | .led n => t.sink n = s.sink n
  | .gbank b => t.gbank b = s.gbank b
  | .grants => t.grn.got = s.grn.got ∧ t.grn.got2 = s.grn.got2
  | .dom d => nth t.pwr.dom d {} = nth s.pwr.dom d {}
  | .grp g => t.grp g = s.grp g
  | .pause => t.pwr.pause = s.pwr.pause ∧ t.pwr.resumed = s.pwr.resumed ∧ t.pwr.phaseOut = s.pwr.phaseOut ∧
      t.pwr.phaseBad = s.pwr.phaseBad ∧ t.pwr.onRc = s.pwr.onRc ∧ t.pwr.aonStop = s.pwr.aonStop ∧ t.pwr.aonAt = s.pwr.aonAt
  | .stalled => t.pwr.stalled = s.pwr.stalled
  | .can n => t.cn n = s.cn n
  | .lin m => t.ln m = s.ln m
  | .nm => t.nm = s.nm
  | .eth => t.eth = s.eth
  | .ptp => t.ptp = s.ptp
  | .tim => t.tim = s.tim
  | .bal => t.bal = s.bal
  | .acc => t.acc = s.acc
  | .hst => t.hst = s.hst
  | .sec => t.sec = s.sec
  | .sil => t.sil = s.sil
  | .gln => t.gln = s.gln
  | .got m => nth t.got m TWord.nil0 = nth s.got m TWord.nil0
  | .ack => t.ack = s.ack
  | .core c => t.cr c = s.cr c
  | .free => t.free = s.free

/-- Nothing but the named parts changes from one state to the other; the queue does not change either. -/
def State.keeps (s t : State) (but : List Part) : Prop := t.pending = s.pending ∧ ∀ p, p ∉ but → s.same t p

/-- The commands that move FRAME, reset the machine or end a class F halt. -/
def movesFrame : Instr → Bool
  | .frameEdge _ | .resumeEdge _ | .classFEnd _ _ | .powerUp _ | .lowSupply _ _ | .longDip _ | .holdUpEmpty _ _ | .brownOut _
  | .resetLand _ _ => true
  | _ => false

/-! ### Outputs (02_switch_channels.md) -/

/-- Output `e` has tripped between the two states and nothing else has changed (R97): WAIT while RETRIES is below RETRY, else LOCK; OCCNT
and TSHUT written; the due edge BACKOFF edges ahead, at least one; RETRIES kept; TLATCH set by a junction trip. -/
def State.tripped (s u : State) (e : Nat) (junction : Bool) : Prop :=
  (u.out e).st = (if (s.out e).retries < (s.prot e).1 then .wait else .lock) ∧
  (u.out e).occnt = min 0xFFFFFFFF ((s.out e).occnt + 1) ∧ (u.out e).tshut = s.stamp ∧
  (u.out e).due = s.frm.frame.toNat + max 1 (s.prot e).2.1 ∧ (u.out e).retries = (s.out e).retries ∧
  (u.out e).tlatch = ((s.out e).tlatch || junction) ∧ (u.out e).window = none ∧ s.keeps u [.out e]

/-- What follows a trip of output `e` of `s` (R82, R97): its event, and its source where it locks. -/
def State.afterTrip (u s : State) (e : Nat) : State :=
  if (s.out e).retries < (s.prot e).1 then u.raiseEvent (outEvent e) else (u.raiseEvent (outEvent e)).raiseSource (outSource e)

/-- No source has a reaction beside its sticky bit: every source that is not fixed has class N, and CTL.EVEN asks for no event of it. -/
def State.quiet (s : State) : Prop :=
  (∀ n, n < 192 → fixedSource n = false → s.classOf n = 0) ∧ (s.fld F.winCtlEven).testBit 0 = false

/-- Channel `c` is on, governs, and has the lowest shedding priority of the on channels of die `d` (R106). -/
def State.victim (s : State) (d c : Nat) : Bool :=
  let on := (dieChans d).filter (fun k => s.governs k && (s.out k).isOn)
  on.contains c && on.all (fun k => decide (s.shedPriOf c ≤ s.shedPriOf k))

/-- Where the stream puts the sample of the current slot of the `k`-th selected output (R85). -/
def streamAddr (s : State) (k : Nat) : Nat :=
  s.fld F.swStrbaseAddr + 4 * ((streamSlots s).length * s.slots * (s.frm.frame.toNat % max 1 (s.fld F.swStrlenFrames))) +
    4 * (k * s.slots + s.frm.slot)

/-- The state after the readings of a slot have been sampled (R83). -/
def State.slotSampled (s : State) (w : World) : State :=
  let s1 := (s.observe w).advance (s.slotAt s.frm.slot + 2 * s.slotLen s.frm.slot)
  { s1 with sw := { s1.sw with smpDone := s1.frm.slot + 1 } }.swSample.pxSample

/-- The readings of a slot meet none of the uses that the device does not check: inverse currents beyond the ratings, an ambient from an
input that is no temperature input (R92, R131, R134). -/
def State.sampleChecked (s : State) (w : World) : Prop :=
  (s.slotSampled w).inverseUnchecked = none ∧ (s.slotSampled w).ambientUnchecked = false

/-! ### The Press (04_press.md) -/

/-- Thread `t` becomes `x` and nothing else changes. -/
def State.coilBecomes (s u : State) (t : Nat) (x : Coil) : Prop := u.coil t = x ∧ s.keeps u [.coil t]

/-! ### Core instructions (08_nolor_core.md, 09_nolor_encoding.md) -/

/-- The bytes of an instruction of `n` bytes at a core's PC may be fetched and stand there: of a bank that sleeps or is locked off none,
their words are delivered, and no store to them awaits a FENCE. -/
def State.fetchable (s : State) (c : Fin 2) (n : Nat) : Prop :=
  s.badByte c n = none ∧ s.sleepingByte c n = none ∧ (s.fetchBytes c n).any s.inLocked = false ∧
  (s.fetchChecks c (s.fetchWords c n)).1 = none ∧
  ((upto n).map (fun o => ((s.cr c).pc.toNat + o) / 4 * 4)).any (fun a => (s.cr c).dirty.contains a) = false

/-- The state in which core `c` runs the `n` bytes that it fetches: they have taken their turns at the lanes and had their checks, and the
entry stamp is taken where it is due (R344, R401, R410). Outside the Granary, the stamp apart, it is the state of the fetch. -/
def State.fetched (s : State) (c : Fin 2) (n : Nat) : State :=
  let r := s.settledStream c
  (r.fetchChecks c (r.fetchWords c n)).2.stampCore c

/-- Nothing of the hardware disturbs an instruction: no datapath parity error, no disturbed slice, no parity error of the echo buffer. -/
def soundPhys (p : Phys) : Prop := p.parity = .never ∧ p.slips = [] ∧ p.bufPar = false

/-- The echo register file holds the words of the first-pass one (R373). -/
def State.inStep (s : State) (c : Fin 2) : Prop := (s.cr c).ew = (s.cr c).w.map echoBits

/-- The bytes at the PC of core `c` reach its datapath undisturbed, as the decoding `d`, in the state `t`: it runs and waits for nothing,
the bytes spell `d` and can be fetched, no breakpoint is met, and the register files are in step. -/
def State.reaches (s : State) (c : Fin 2) (p : Phys) (d : Decoded) (t : State) : Prop :=
  s.atInstr c = true ∧ s.stalled c = false ∧ (s.settledStream c).decodeHere c = d ∧ (s.settledStream c).fetchable c d.size ∧
  (s.settledStream c).breakpoint c = none ∧ soundPhys p ∧ t = s.fetched c d.size ∧ t.inStep c

/-- Core `c` issues the instruction `i` at its PC with nothing that disturbs it, and runs it in the state `t`: no watchpoint is enabled, no
step is made, and a REP has repetitions left. -/
def State.issues (s : State) (c : Fin 2) (p : Phys) (i : NIns) (t : State) : Prop :=
  s.reaches c p (.ins i) t ∧ t.fld F.dbgWpctlEn = 0 ∧ (t.cr c).halt.stepping = false ∧ (i.pre.rep = true → (t.cr c).cnt ≠ 0)

/-- The word registers of a core with `v` written to `d`; w0 takes nothing (R280). -/
def Core.put (k : Core) (d : Nat) (v : TWord) : Vector TWord 32 := if d = 0 then k.w else updN k.w d (fun _ => v)

/-- Core `c` of `t` is that of `s` after the instruction `i` has retired with these word registers and flags and this next PC; a REP has
counted one repetition and stands at the instruction while more are left (R336). The echo register file has followed (R373). Only its
echo counts may have moved beside that. -/
def State.ranTo (s t : State) (c : Fin 2) (i : NIns) (w : Vector TWord 32) (flg : BitVec 5) (pc : Word) : Prop :=
  t.cr c = { s.cr c with
    w := w, ew := w.map echoBits, flg := flg
    cnt := if i.pre.rep then (s.cr c).cnt - 1 else (s.cr c).cnt
    pc := if i.pre.rep = true ∧ (s.cr c).cnt ≠ 1 then (s.cr c).pc else pc
    stall := none, ech := (t.cr c).ech }

/-- A word and flags that an operation's outcome allows: those it names, and any value of what the spec leaves open in it. -/
def AluOut.allows (o : AluOut) (w : TWord) (f : Nzcv) : Prop :=
  match o with
  | .val w' f' => w = w' ∧ f = f'
  | .openC w' f' => w = w' ∧ f = { f' with c := f.c }
  | .openNaN => w.tag = Tag.flt ∧ fltIsNaN w.val = true ∧ f = ⟨false, false, false, false⟩

/-- The instruction has written a result that the outcome allows to its destination, and its flags unless `nf`; nothing else changed. -/
def State.resultIn (s t : State) (c : Fin 2) (i : NIns) (nf : Bool) (o : AluOut) : Prop :=
  ∃ w f, o.allows w f ∧
    s.ranTo t c i ((s.cr c).put i.d w) (if nf then (s.cr c).flg else f.into (s.cr c).flg) (s.nextPc c i) ∧ s.keeps t [.core c, .free]

/-- The instruction has changed the flags alone. -/
def State.flagsIn (s t : State) (c : Fin 2) (i : NIns) (f : Nzcv) : Prop :=
  s.ranTo t c i (s.cr c).w (f.into (s.cr c).flg) (s.nextPc c i) ∧ s.keeps t [.core c]

/-- The instruction has written one word register and nothing else. -/
def State.wroteReg (s t : State) (c : Fin 2) (i : NIns) (v : TWord) : Prop :=
  s.ranTo t c i ((s.cr c).put i.d v) (s.cr c).flg (s.nextPc c i) ∧ s.keeps t [.core c]

/-- The register forms of the two-operand instructions by operation: opcode 0x80 + k (R328). -/
def aluForms : List (Nat × (Fin 2 → Phys → Instr)) :=
  [(0, .add), (1, .sub), (2, .mul), (3, .div), (4, .rem), (5, .and), (6, .or), (7, .xor), (8, .shl), (9, .shr), (10, .sar), (11, .rol),
   (12, .ror), (13, .cmp), (14, .min), (15, .max)]

/-- The immediate forms by operation: opcode 0xC1 with X = k (R329). -/
def aluiForms : List (Nat × (Fin 2 → Phys → Instr)) :=
  [(0, .aluiAdd), (1, .aluiSub), (2, .aluiMul), (3, .aluiDiv), (4, .aluiRem), (5, .aluiAnd), (6, .aluiOr), (7, .aluiXor), (8, .aluiShl),
   (9, .aluiShr), (10, .aluiSar), (11, .aluiRol), (12, .aluiRor), (13, .aluiCmp), (14, .aluiMin), (15, .aluiMax)]

/-- The word registers with `v` written to `d` and, in a WIDE form, `v2` to the register after it (R339). -/
def Core.putPair (k : Core) (i : NIns) (v v2 : TWord) : Vector TWord 32 :=
  if i.pre.wide then updN (k.put i.d v) (i.d + 1) (fun _ => v2) else k.put i.d v

/-- The instruction has written one word register, or a pair of them, and nothing else. -/
def State.wrotePair (s t : State) (c : Fin 2) (i : NIns) (v v2 : TWord) : Prop :=
  s.ranTo t c i ((s.cr c).putPair i v v2) (s.cr c).flg (s.nextPc c i) ∧ s.keeps t [.core c]

/-- The instruction has transferred control, writing `w` and `flg`, and nothing else. -/
def State.wentTo (s t : State) (c : Fin 2) (i : NIns) (w : Vector TWord 32) (flg : BitVec 5) (pc : Word) : Prop :=
  s.ranTo t c i w flg pc ∧ s.keeps t [.core c]

/-- FLG with T given a value (R281). -/
def flgT (flg : BitVec 5) (t : Bool) : BitVec 5 := BitVec.ofNat 5 (flg.toNat % 16 + 16 * b2n t)

/-- A word of the near data store as its core reads it: the youngest buffered store to it, else the word stored (R298). -/
def State.nearWord (s : State) (c : Fin 2) (a : Nat) : TWord := (s.buffered c a).getD (s.mread a)

/-- An address is a word of the core's own near data store, which is ON. -/
def State.nearHome (s : State) (c : Fin 2) (a : Nat) : Prop :=
  inStore (nearD c) a = true ∧ a % 4 = 0 ∧ s.domLocked (1 + c) = false ∧ s.domOn (1 + c) = true

/-- The state with a store entered into the core's buffer. -/
def State.pushed (s : State) (c : Fin 2) (l : List BufStore) : State := s.setCore c (fun k => { k with buf := k.buf ++ l })

/-- A read-modify-write at address `x` has completed, storing `v` if anything (R303, R340): into the core's buffer, or under ATOMIC
into the memory at once; the word registers and flags are `w` and `flg`. -/
def State.exchanged (s t : State) (c : Fin 2) (i : NIns) (x : Nat) (v : Option TWord) (w : Vector TWord 32) (flg : BitVec 5) : Prop :=
  if i.pre.atomic = true then
    s.ranTo t c i w flg (s.nextPc c i) ∧ t.mread x = v.getD (s.mread x) ∧ s.keeps t [.core c, .word (x / 4)]
  else
    (s.pushed c (v.toList.map (fun y => { a := x, v := y }))).ranTo t c i w flg (s.nextPc c i) ∧ s.keeps t [.core c]

/-- A shift or rotate, whose count is a NAT whatever the tag of `a` (R312). -/
def isShift (k : Nat) : Bool := decide (8 ≤ k) && decide (k ≤ 12)

/-! ### Security (18_security_update.md) -/

/-- The words of `n` bytes from `a` on lie in banks that requester `who` may use, ON and not locked off, at which no other access
waits. -/
def State.holds (s : State) (who a n : Nat) : Prop :=
  a % 4 = 0 ∧ ∀ j, j < (n + 3) / 4 → inGranary (a + 4 * j) = true ∧ s.mayUse who (bankOf (a + 4 * j)) = true ∧
    s.domOn (16 + bankOf (a + 4 * j)) = true ∧ s.domLocked (16 + bankOf (a + 4 * j)) = false ∧ (s.gbank (bankOf (a + 4 * j))).wait = []

/-- The requester holds these words, and their check bits say that they have no error. -/
def State.offers (s : State) (who a n : Nat) : Prop :=
  s.holds who a n ∧ ∀ j, j < (n + 3) / 4 → s.eccAt (a + 4 * j) = .clean

/-- The banks, whose lanes go on after a requester's turn (R401). -/
def bankParts : List Part := (upto 16).map .gbank

/-- The bytes of memory from a word on. -/
def State.bytesAt (s : State) (a n : Nat) : Bytes :=
  ((upto ((n + 3) / 4)).flatMap (fun j => leOf 4 (s.mread (a + 4 * j)).val.toNat)).take n

/-- The bytes `b` stand from `a` on as RAW words, and no other word of memory has changed. -/
def State.wroteBytes (s t : State) (a : Nat) (b : Bytes) : Prop :=
  t.bytesAt a b.length = b.map (· % 256) ∧ (∀ j, j < (b.length + 3) / 4 → (t.mread (a + 4 * j)).tag = Tag.raw) ∧
    ∀ x, x / 4 < a / 4 ∨ a / 4 + (b.length + 3) / 4 ≤ x / 4 → t.mread x = s.mread x

/-- Job `j` of the queue waits for its turn no longer: an operation `op` that has not run, whose descriptor fits, and whose engines are ON. -/
def State.jobReady (s : State) (j op : Nat) (x : CJob) : Prop :=
  s.cjob j = some x ∧ x.op = op ∧ x.ran = none ∧ s.mayStart x = true ∧ s.domOn domSec = true ∧ (engineOf op = 4 → s.domOn domXspi = true) ∧
    x.fits = true

/-- Job `j` has run with a status. -/
def State.ranWith (t : State) (j status : Nat) (x : CJob) : Prop := t.cjob j = some { x with ran := some status }

/-- The slot holds the key with its type and use, one load later (R585). -/
def State.keyLoaded (s t : State) (k type use : Nat) (key : Bytes) : Prop :=
  t.slotKey k = key ∧ t.fld (F.secKattrType k) = type ∧ t.fld (F.secKattrUse k) = use ∧ t.bit (F.secKattrLoaded k) = true ∧
    t.fld (F.secKattrGen k) = (s.fld (F.secKattrGen k) + 1) % 2 ^ 16

end Sys2Proof.Machine
end

