-- ==== Sys2Proof/Certificates/Slice0/Obligations.lean ====
section
/-!
DEFINITION. The statements for the provers: one proposition each, with the rules of the spec that it rests on.
-/

open Sys2Proof Sys2Proof.Machine

/-- The step of the block: the front command with the queue's rest; with nothing waiting, time passes (the model's own choice, see the
log entry 3).
Where the spec leaves a choice it speaks of the model's own: log entry 3. -/
def Obligations.FrontCommandSteps : Prop :=
  (∀ (c : Instr) (l : List Instr) (s : State), s.pending = c :: l → step s = exec c { s with pending := l }) ∧
  (∀ (s : State), s.pending = [] → s.pwr.pause = .run → step s = .next { s with count := s.count + 1 }) ∧
  (∀ (s : State), s.pending = [] → ∃ t, step s = .next t ∧ s.keeps t [.count])

/-- R13, R270, R433: what reset leaves. The reading of RCAUSE and the state of the debug lock rest on the model's choice that the
start-up checks have passed and the Silo is blank (log entries 10 and 11).
Where the spec leaves a choice it speaks of the model's own: log entries 9, 10, 11. -/
def Obligations.ResetLeaves : Prop :=
  State.reset.canonical ∧ State.reset.pending = [] ∧ State.reset.frm.frame = 0 ∧ State.reset.count = 0 ∧
  (∀ a, a ≠ 0x40080008 → a ≠ 0x40130004 → State.reset.reg a = Regs.reset a) ∧
  (State.reset.cr 0).pc = 0 ∧ (State.reset.cr 0).job = false ∧ State.reset.coreRuns 0 = false ∧ State.reset.coreRuns 1 = false ∧
  (∀ d, d < 32 → (State.reset.domOn d = true ↔ d = 0 ∨ 16 ≤ d)) ∧ State.reset.win.fhalt = false ∧
  (∀ a, State.reset.mread a = TWord.nil0)

/-- The invariant of the two sparse stores: every command of the table, an edge and a reset among them, keeps it.
Where the spec leaves a choice it speaks of the model's own: log entry 13. -/
def Obligations.StepKeepsCanonical : Prop := ∀ s t : State, s.canonical → step s = .next t → t.canonical

/-- No effect of a command reaches the queue.
Where the spec leaves a choice it speaks of the model's own: log entry 8. -/
def Obligations.CommandsKeepTheQueue : Prop := ∀ (c : Instr) (s t : State), exec c s = .next t → t.pending = s.pending

/-- R21, R248, R264, R507 over the whole table: every command but nine move neither FRAME nor the moment of its edge, never turn COUNT
back, and never end a class F halt.
Where the spec leaves a choice it speaks of the model's own: log entry 23. -/
def Obligations.EdgesAloneMoveFrame : Prop :=
  ∀ (c : Instr) (s t : State), movesFrame c = false → exec c s = .next t →
    t.frm.frame = s.frm.frame ∧ t.frm.edgeAt = s.frm.edgeAt ∧ s.count ≤ t.count ∧ (s.win.fhalt = true → t.win.fhalt = true)

/-- R18, R21, R22, R28, R38, R39, R135, R439: the two edges and the three deadlines complete. The ratings of a clamp event are a use that
the device does not check (R151).
Where the spec leaves a choice it speaks of the model's own: log entries 2, 7, 23, 25, 27, 51. -/
def Obligations.EdgesAndDeadlines : Prop :=
  (∀ (w : World) (s : State), s.pwr.pause = .run → s.unpowered = false → (s.observe w).clampUnchecked = false →
    ∃ t, exec (.frameEdge w) s = .next t ∧ t.frm.frame = s.frm.frame + 1 ∧ t.frm.edgeAt = s.nextEdge ∧ s.nextEdge ≤ t.count ∧
      (s.netTime = false → s.nextEdge = s.frm.edgeAt + 600 * s.tfUs)) ∧
  (∀ (w : World) (s : State) (since : Int) (park : Bool) (lock : Nat), s.pwr.pause = .resume since park (some lock) →
    s.unpowered = false → (s.observe w).clampUnchecked = false →
    ∃ t, exec (.resumeEdge w) s = .next t ∧ t.frm.frame = s.frm.frame + 1 ∧ t.frm.edgeAt = s.resumeAt lock ∧ s.resumeAt lock ≤ t.count ∧
      lock + 36000 ≤ s.resumeAt lock ∧ (s.netTime = false → s.resumeAt lock = lock + 36000)) ∧
  (∀ (s : State), s.frameRuns = true →
    (∃ t, exec .sealDeadline s = .next t ∧ t.count = max s.count (s.beforeEdge 750) ∧ s.keeps t [.count]) ∧
    (∃ t, exec .firmwareCutoff s = .next t ∧ t.count = max s.count (s.beforeEdge 300) ∧ s.keeps t [.count]) ∧
    (∃ t, exec .hostCutoff s = .next t ∧ t.count = max s.count (s.beforeEdge 3000) ∧ s.keeps t [.count]) ∧
    (∀ n, s.netTime = false → s.beforeEdge n = s.frm.edgeAt + 4 * (150 * s.tfUs - n))) ∧
  (∀ (s : State), s.frameRuns = false →
    exec .sealDeadline s = .next s ∧ exec .firmwareCutoff s = .next s ∧ exec .hostCutoff s = .next s ∧
    ∀ w, exec (.frameEdge w) s = .next s) ∧
  (∀ (w : World) (s : State), s.unpowered = true ∨ s.pwr.pause = .run → exec (.resumeEdge w) s = .next s)

/-- R42 to R49, R283, R285, R287, R437: the four commands of the frame's tasks complete.
Where the spec leaves a choice it speaks of the model's own: log entries 2, 26. -/
def Obligations.JobsAndEvents : Prop :=
  (∀ (j : Fin 64) (s : State), s.releaseDue j = false → exec (.jobRelease j) s = .next s) ∧
  (∀ (j : Fin 64) (s : State), s.releaseDue j = true →
    let c : Fin 2 := if s.bit (F.frmJobCore j) then 1 else 0
    let slot := min (s.fld (F.frmJobRslot j)) (s.seff - 1)
    ∃ u, u.frm.judged = s.frm.judged ||| (1#64 <<< j.val) ∧ u.frm.jobs = s.frm.jobs ∧
      u.count = max s.count (if slot = 0 then s.frm.edgeAt + 1200 else s.slotAt slot) ∧ s.keeps u [.count, .jobs] ∧
      (s.domLocked (1 + c) = true → exec (.jobRelease j) s = .next u.lockAccess) ∧
      (s.domLocked (1 + c) = false → nth s.frm.jobs j .idle ≠ .idle →
        exec (.jobRelease j) s = .next (if s.pwr.resumed.isSome then u else u.missRelease j)) ∧
      (s.domLocked (1 + c) = false → nth s.frm.jobs j .idle = .idle → s.refusesJobs c = true →
        exec (.jobRelease j) s = .next (u.missRelease j)) ∧
      (s.domLocked (1 + c) = false → nth s.frm.jobs j .idle = .idle → s.refusesJobs c = false →
        ∃ t, nth t.frm.jobs j .idle = (if s.domOn (1 + c) then .ready c (s.fld (F.frmJobPrio j)) else .waking c (s.fld (F.frmJobPrio j))) ∧
          (∀ k, k ≠ j.val → nth t.frm.jobs k .idle = nth s.frm.jobs k .idle) ∧ t.frm.judged = u.frm.judged ∧ u.keeps t [.jobs] ∧
          exec (.jobRelease j) s = .next (if s.domOn (1 + c) then t else t.demand (1 + c)))) ∧
  (∀ (n : Fin 128) (s : State),
    ((78 ≤ n.val ∧ n.val ≤ 95) ∨ s.bit (F.frmEvtEn n) = false ∨ s.feat (eventFeat n) = false → exec (.eventRaise n) s = .next s) ∧
    (n.val < 78 ∨ 95 < n.val → s.evLocked n = true → exec (.eventRaise n) s = .next s.lockAccess) ∧
    (n.val < 78 ∨ 95 < n.val → s.bit (F.frmEvtEn n) = true → s.evLocked n = false → s.feat (eventFeat n) = true →
      ((nth s.frm.pend (s.evCore n) 0).getLsbD n = false →
        ∃ u, exec (.eventRaise n) s = .next (u.demand (1 + s.evCore n)) ∧
          nth u.frm.pend (s.evCore n) 0 = nth s.frm.pend (s.evCore n) 0 ||| (1#128 <<< n.val) ∧
          (∀ k, k ≠ s.evCore n → nth u.frm.pend k 0 = nth s.frm.pend k 0) ∧ s.keeps u [.events]) ∧
      ((nth s.frm.pend (s.evCore n) 0).getLsbD n = true → s.canonical →
        ∃ t, exec (.eventRaise n) s = .next t ∧
          (∀ b, b < 32 → (t.fld (F.frmEvmrgMerged (n / 32))).testBit b =
            (decide (b = n.val % 32) || (s.fld (F.frmEvmrgMerged (n / 32))).testBit b)) ∧
          s.keeps t [.reg (F.frmEvmrgMerged (n / 32)).addr]))) ∧
  (∀ (c : Fin 2) (s : State),
    (s.bestReady c = none ∨ s.coreTakes c = false → exec (.jobStart c) s = .next s ∧ exec (.eventDispatch c) s = .next s) ∧
    (∀ (p n : Nat) (job : Bool), s.bestReady c = some (p, job, n) → s.coreTakes c = true →
      let cmd : Instr := if job then .jobStart c else .eventDispatch c
      (exec (if job then .eventDispatch c else .jobStart c) s = .next s) ∧
      ((s.cr c).busy = true → p ≤ (s.cr c).prio ∨ 32 ≤ (s.cr c).stack.length → exec cmd s = .next s) ∧
      (∀ e r, (s.cr c).busy = false → (s.cr c).stack = e :: r → p ≤ e.prio → exec cmd s = .next s) ∧
      (((s.cr c).busy = false ∧ (s.cr c).stack = []) ∨ ((s.cr c).busy = false ∧ ∃ e r, (s.cr c).stack = e :: r ∧ e.prio < p) ∨
          ((s.cr c).busy = true ∧ (s.cr c).prio < p ∧ (s.cr c).stack.length < 32) →
        ∃ t, exec cmd s = .next t ∧ (t.cr c).busy = true ∧ (t.cr c).prio = p ∧
          (t.cr c).job = job ∧ (t.cr c).task = (if job then n else 64 + n) ∧
          (t.cr c).pc = BitVec.ofNat 32 (s.fld (if job then F.frmJobpcPc n else F.frmEvtpcPc n)) ∧
          (t.cr c).stack = (if (s.cr c).busy then [s.ctxOf c (s.cr c).pc] else []) ++ (s.cr c).stack ∧ (t.cr c).w = (s.cr c).w ∧
          (job = true → n < 64 → nth t.frm.jobs n .idle = .running ∧ t.frm.pend = s.frm.pend) ∧
          (job = false → n < 128 → nth t.frm.pend c 0 = nth s.frm.pend c 0 &&& ~~~(1#128 <<< n) ∧ t.frm.jobs = s.frm.jobs) ∧
          s.keeps t [.core c, .jobs, .events])))

/-- R4, R5, R11, R37, R52, R64, R248, R301, R425: register stores, SEV and the read of FRAMELO complete; `drained` is what the store buffer
has become.
Where the spec leaves a choice it speaks of the model's own: log entries 21, 117, 121. -/
def Obligations.RegisterAccesses : Prop :=
  (∀ (c : Fin 2) (job : Bool) (a : Nat) (v : TWord) (r : RegRow) (s u : State), u.canonical → s.storesOff = false →
    s.drained (.core c) = (true, u) →
    Regs.row? a = some r → a / 0x10000 = 0x4001 → a % 4 = 0 → (∀ f, f ∈ r.fields → f.acc = .st) → r.ptr = false → absentMask u.feat a = 0 →
    r.fields ≠ [] →
    ∃ t, exec (.registerWrite (.core c) job a v) s = .next t ∧ .fw a v.val (u.past 2) ∈ t.frm.held ∧ t.reg a = u.reg a ∧
      u.keeps t [.held, .reg a]) ∧
  (∀ (c : Fin 2) (a : Nat) (v : TWord) (f : Fld) (s u : State), s.storesOff = false → s.drained (.core c) = (true, u) →
    regionOf a = .periph → a % 4 = 0 → u.absent a = false → jobIgnored a = some f →
    exec (.registerWrite (.core c) true a v) s = .next (u.setBit f)) ∧
  (∀ (c : Fin 2) (s : State), (s.cr c).buf = [] → s.drained (.core c) = (true, s)) ∧
  (∀ (m : Master) (job : Bool) (a : Nat) (v : TWord) (s : State),
    (s.inDip = true → exec (.registerWrite m job a v) s = .next (s.stall (.registerWrite m job a v))) ∧
    (s.inDip = false → s.storesOff = true → exec (.registerWrite m job a v) s = .next s)) ∧
  (∀ (w : Word) (s : State),
    (s.storesOff = false → exec (.sev w) s = .next (forEach 32 (fun t b => if w.getLsbD b then t.raiseEvent (96 + b) else t) s)) ∧
    (s.inDip = true → exec (.sev w) s = .next (s.stall (.sev w))) ∧
    (s.inDip = false → s.storesOff = true → exec (.sev w) s = .next s)) ∧
  (∀ (m : Master) (s u : State),
    (s.inDip = true → exec (.frameloRead m) s = .next (s.stall (.frameloRead m))) ∧
    (s.inDip = false → s.drained m = (true, u) → ∃ t, exec (.frameloRead m) s = .next t ∧
      nth t.got (masterNum m) TWord.nil0 = ⟨Tag.nat, BitVec.ofNat 32 u.frm.frame.toNat⟩ ∧
      nth t.frm.hiCap (masterNum m) 0 = BitVec.ofNat 16 (u.frm.frame.toNat / 2 ^ 32) ∧
      (∀ k, k ≠ masterNum m → nth t.frm.hiCap k 0 = nth u.frm.hiCap k 0) ∧ u.keeps t [.frmRest, .got (masterNum m)]))

/-- R79, R97, R112, R113, R116: the three shut-off commands complete as a trip of the governing output, followed by the output's event
(R82) and, when it locks, its source.
Where the spec leaves a choice it speaks of the model's own: log entries 5, 41. -/
def Obligations.OutputShutoffTrips : Prop :=
  (∀ (c : Fin 48) (amps land : Int) (s : State),
    (s.driven (s.gov c) = true → (s.threshold (s.gov c) : Int) < amps →
      ∃ u, exec (.overcurrentShutoff c amps land) s = .next (u.afterTrip s (s.gov c)) ∧ s.tripped u (s.gov c) false) ∧
    (s.driven (s.gov c) = false ∨ amps ≤ (s.threshold (s.gov c) : Int) → exec (.overcurrentShutoff c amps land) s = .next s)) ∧
  (∀ (c : Fin 48) (deg : Int) (s : State),
    (s.driven (s.gov c) = true → 165 * 16 < deg →
      ∃ u, exec (.junctionShutoff c deg) s = .next (u.afterTrip s (s.gov c)) ∧ s.tripped u (s.gov c) true) ∧
    (s.driven (s.gov c) = false ∨ deg ≤ 165 * 16 → exec (.junctionShutoff c deg) s = .next s)) ∧
  (∀ (n : Fin 8) (amps deg land : Int) (s : State),
    (s.driven (s.gov (48 + n)) = true → 165 * 16 < deg ∨ (s.hbThreshold n : Int) < amps →
      ∃ u, exec (.hbShutoff n amps deg land) s = .next (u.afterTrip s (s.gov (48 + n))) ∧
        s.tripped u (s.gov (48 + n)) (decide (165 * 16 < deg)) ∧ u.hbSwitches n = (false, false)) ∧
    (s.driven (s.gov (48 + n)) = false ∨ (deg ≤ 165 * 16 ∧ amps ≤ (s.hbThreshold n : Int)) →
      exec (.hbShutoff n amps deg land) s = .next s))

/-- R74, R76, R98, R99, R101, R422: the five steps complete with their effect on the governing output alone; `diagAgain` counts this edge
for the diagnostics of an output that changed its state, and `refreshOut` puts the record of the output into the image of this edge.
Where the spec leaves a choice it speaks of the model's own: log entries 2, 5, 34, 42, 47, 48. -/
def Obligations.ChannelStepsComplete : Prop :=
  (∀ (c : Fin 48) (s : State),
    (∀ opened ends, (s.out c).window = some (opened, ends) → s.atEdge = true → ends ≤ s.frm.edgeAt → s.groupOff (groupOf c) = false →
      ∃ u, exec (.inrushWindowClose c) s = .next ((u.diagAgain c).refreshOut c) ∧ (u.out c).window = none ∧
        (u.out c).st = (if (s.out c).st = .inr then .on else (s.out c).st) ∧ (u.out c).retries = (s.out c).retries ∧ s.keeps u [.out c]) ∧
    ((s.out c).window = none ∨ s.atEdge = false ∨ s.groupOff (groupOf c) = true ∨
        (∃ opened ends, (s.out c).window = some (opened, ends) ∧ s.frm.edgeAt < ends) →
      exec (.inrushWindowClose c) s = .next s)) ∧
  (∀ (o : Fin 56) (s : State),
    (s.atEdge = true → s.restartDue o = true → (o.val < 48 → s.dieWindow o = false) →
      ∃ u, exec (.channelRestart o) s = .next ((u.diagAgain o).refreshOut o) ∧ (u.out o).retries = (s.out o).retries + 1 ∧
        (u.out o).st = (if o.val < 48 ∧ s.fld (F.swInrMs o) ≠ 0 then .inr else .on) ∧
        (o.val < 48 → s.fld (F.swInrMs o) ≠ 0 → (u.out o).window = some (s.count, s.count + 600000 * s.fld (F.swInrMs o))) ∧
        s.keeps u ((s.members o).map .out)) ∧
    (s.atEdge = false ∨ s.restartDue o = false ∨ (o.val < 48 ∧ s.dieWindow o = true) → exec (.channelRestart o) s = .next s)) ∧
  (∀ (o : Fin 56) (s : State),
    (s.atEdge = true → s.governs o = true → (s.out o).rep.rev = false → (s.prot o).2.2 ≠ 0 → 16 * (s.prot o).2.2 ≤ (s.out o).heal →
      ∃ u, exec (.retriesHeal o) s = .next (u.refreshOut o) ∧ (u.out o).retries = 0 ∧ (u.out o).st = (s.out o).st ∧ s.keeps u [.out o]) ∧
    (s.atEdge = false ∨ s.governs o = false ∨ (s.out o).rep.rev = true ∨ (s.prot o).2.2 = 0 ∨ (s.out o).heal < 16 * (s.prot o).2.2 →
      exec (.retriesHeal o) s = .next s)) ∧
  (∀ (c : Fin 48) (s : State),
    (s.atEdge = true → s.paired c = true → 16 ≤ (s.out (s.gov c)).imbalRun → (s.out (s.gov c)).imbal = false →
      ∃ u, exec (.pairImbalance c) s = .next ((u.refreshOut (s.gov c)).raiseSource (outSource (s.gov c))) ∧
        (u.out (s.gov c)).imbal = true ∧ s.keeps u [.out (s.gov c)]) ∧
    (s.atEdge = false ∨ s.paired c = false ∨ (s.out (s.gov c)).imbalRun < 16 ∨ (s.out (s.gov c)).imbal = true →
      exec (.pairImbalance c) s = .next s)) ∧
  (∀ (o : Fin 56) (deg : Int) (s : State),
    (deg ≤ 150 * 16 → ∃ u, exec (.tlatchClear o deg) s = .next u ∧ (u.out (s.gov o)).tlatch = false ∧
      (u.out (s.gov o)).st = (s.out (s.gov o)).st ∧ s.keeps u [.out (s.gov o)]) ∧
    (150 * 16 < deg → exec (.tlatchClear o deg) s = .next s))

/-- R105, R106, R120: both commands complete with one shedding step; where no class reaction follows the sources, the victims are exactly
the on channels of the die at its lowest priority.
Where the spec leaves a choice it speaks of the model's own: log entries 32, 37, 49. -/
def Obligations.DieShedding : Prop :=
  (∀ (d : Fin 7) (deg : Int) (s : State),
    let read := fun (u : State) => u.pin (.die d) = deg ∧ (u.dieOf d).ot = true ∧
      (u.dieOf d).tmax = some (match (s.dieOf d).tmax with | some m => max m deg | none => deg) ∧ s.keeps u [.pin (.die d), .die d]
    let noted := fun (cmd : Instr) => ∃ t, exec cmd s = .next t ∧ t.pin (.die d) = deg ∧ s.keeps t [.pin (.die d)]
    (170 * 16 ≤ deg → (s.dieOf d).hot = false → ∃ u, exec (.dieShed d deg) s = .next (u.shedStep d) ∧ read u) ∧
    (deg < 170 * 16 ∨ (s.dieOf d).hot = true → noted (.dieShed d deg)) ∧
    (170 * 16 ≤ deg → (s.dieOf d).hot = true → 8 ≤ (s.dieOf d).hotSlots →
      ∃ u, exec (.shedEscalate d deg) s = .next (u.shedStep d) ∧ read u) ∧
    (deg < 170 * 16 ∨ (s.dieOf d).hot = false ∨ (s.dieOf d).hotSlots < 8 → noted (.shedEscalate d deg))) ∧
  (∀ (d : Fin 7) (s : State) (c : Nat), s.quiet → c < 48 →
    ((s.shedStep d).out c).st = (if s.victim d c then .shed else (s.out c).st) ∧ ((s.shedStep d).out c).retries = (s.out c).retries)

/-- R125, R126, R132, R135, R136, R137, R138, R424: the commands of the wire-fault chapter complete, in every case. The threshold of OL is
the model's free value within 2.5 V ± 0.3 V, and the statement holds for every such value.
Where the spec leaves a choice it speaks of the model's own: log entries 18, 31, 43, 44, 53, 54. -/
def Obligations.WireFaultSteps : Prop :=
  (∀ (n : Fin 8) (s : State),
    let e := s.gov (48 + n)
    let act := s.bit (F.swHbstallStact (e - 48))
    let due := decide (max 1 (s.fld (F.swHbstallStn (e - 48))) ≤ (s.out e).hb.stallRun)
    (due = false → exec (.hbStall n) s = .next s) ∧
    (due = true → ∃ u, exec (.hbStall n) s = .next (if act then u.raiseEvent 72 else u) ∧
      u.out e = { s.out e with
        fr := { (s.out e).fr with stall := true }
        hb := { (s.out e).hb with stallRun := 0, stopped := act || (s.out e).hb.stopped } } ∧
      (act = true → u.driven (48 + n) = false ∧ u.hbSwitches n = (false, false)) ∧ s.keeps u [.out e])) ∧
  (∀ (o : Fin 56) (land odd : Int) (s : State),
    (s.checkRuns o = false → exec (.offStatePhaseA o land odd) s = .next s ∧ exec (.offStateCheck o land odd) s = .next s) ∧
    (s.checkRuns o = true → ∃ u, exec (.offStatePhaseA o land odd) s = .next u ∧
      u.out o = { s.out o with dg := { (s.out o).dg with
        phaseA := some (if 48 ≤ o.val ∧ s.paired o = true then max 0 (land - odd) else land) } } ∧
      u.count = max s.count (s.slotAt (s.seff / 2)) ∧ s.keeps u [.out o, .count]) ∧
    ((s.out o).dg.phaseA = none → exec (.offStateCheck o land odd) s = .next s) ∧
    (∀ a, s.checkRuns o = true → (s.out o).dg.phaseA = some a →
      let full := decide (48 ≤ o.val) && s.paired o
      let half := fun (v : Int) => decide (s.pin (.vbat (groupOf o)) ≤ 2 * v)
      let stb := (if o.val < 48 then s.bit (F.swDcfgStben o) else s.bit (F.swHbdcfgStben (o - 48))) && (half land || (full && half odd))
      ∃ u, ∃ th : Int, exec (.offStateCheck o land odd) s = .next u ∧ 2200 ≤ th ∧ th ≤ 2800 ∧
        u.out o = { s.out o with
          fr := { (s.out o).fr with chk := true }
          dg := { (s.out o).dg with phaseA := none, stb := stb, ol := !stb && decide (th ≤ a), vpu := min 0xFFFF a.toNat } } ∧
        u.count = max s.count (s.slotAt (s.seff - 2)) ∧ s.keeps u [.out o, .count, .free])) ∧
  (∀ (g : Fin 3) (mv : Int) (s : State),
    let noted := fun (cmd : Instr) => ∃ t, exec cmd s = .next t ∧ t.pin (.vbat g) = mv ∧ s.keeps t [.pin (.vbat g)]
    (mv < -58000 → exec (.reverseOn g mv) s = .fault (.uncheckedUse 424)) ∧
    (-1000 ≤ mv → noted (.reverseOn g mv)) ∧
    (-58000 ≤ mv → mv < -1000 → ∃ u, exec (.reverseOn g mv) s = .next u ∧ u.pin (.vbat g) = mv ∧
      u.grp g = { s.grp g with reversed := true, revF := true, revWait := true } ∧
      (∀ c, c < 48 → u.out c = if groupOf c = g.val then { s.out c with
        dg := { (s.out c).dg with revOn := true, offEdges := 0 }, fr := { (s.out c).fr with rev := true } } else s.out c) ∧
      (g = 2 → ∀ n, n < 8 → u.driven (48 + n) = false) ∧
      (g = 2 → ∀ v, v < 4 → u.vsIn v = { s.vsIn v with on := false, low := 0 }) ∧
      (∀ n, n < 24 → u.sink n = (s.setPin (.vbat g) mv).ledCountAll.sink n) ∧
      s.keeps u (.pin (.vbat g) :: .grp g :: (upto 48).map .out ++ (upto 24).map .led ++ (if g = 2 then (upto 4).map .vsIn else []))) ∧
    ((s.grp g).reversed = false ∨ mv ≤ -500 → noted (.reverseEnd g mv)) ∧
    ((s.grp g).reversed = true → -500 < mv → ∃ u, exec (.reverseEnd g mv) s = .next u ∧ u.pin (.vbat g) = mv ∧
      u.grp g = { s.grp g with reversed := false } ∧
      (∀ c, c < 48 → u.out c = if groupOf c = g.val then { s.out c with
        dg := { (s.out c).dg with revOn := false, offEdges := 0 } } else s.out c) ∧
      ((s.grp g).revWait = true → ∀ c, c < 48 → groupOf c = g.val → u.driven c = false) ∧
      s.keeps u (.pin (.vbat g) :: .grp g :: (upto 48).map .out)))

/-- R18, R83, R85, R86, R92, R131, R134, R420: the three commands of a slot complete.
Where the spec leaves a choice it speaks of the model's own: log entries 33, 35, 50, 52, 269. -/
def Obligations.SlotSteps : Prop :=
  (∀ (w : World) (s : State), s.canonical → s.frameRuns = true → s.frm.slot + 1 < s.seff →
    ∃ t, exec (.slotBoundary w) s = .next t ∧ t.frm.slot = s.frm.slot + 1 ∧ t.frm.frame = s.frm.frame ∧
      t.count = max s.count (s.slotAt (s.frm.slot + 1)) ∧
      (∀ g, g < 3 → t.fld (F.pwrVbatMv g) = (BitVec.ofInt 32 (t.pin (.vbat g))).toNat) ∧
      ((∀ ch, ch < 12 → (s.coil ch).pc < 511) → ∀ o, t.out o = s.out o)) ∧
  (∀ (w : World) (s : State), s.frameRuns = false ∨ s.seff ≤ s.frm.slot + 1 → exec (.slotBoundary w) s = .next s) ∧
  (∀ (w : World) (s : State), s.frameRuns = true → s.sw.smpDone ≤ s.frm.slot →
    (∀ r, (s.slotSampled w).inverseUnchecked = some r → exec (.slotSample w) s = .fault (.uncheckedUse r)) ∧
    ((s.slotSampled w).inverseUnchecked = none → (s.slotSampled w).ambientUnchecked = true →
      exec (.slotSample w) s = .fault (.uncheckedUse 92)) ∧
    (s.sampleChecked w →
      ∃ t, exec (.slotSample w) s = .next t ∧ t.sw.smpDone = s.frm.slot + 1 ∧ t.frm.slot = s.frm.slot ∧
        (∀ o, o < 56 → (t.out o).fr.samples = if s.domOn (domOf o) then
          codeSample (lsbOf o) ((s.observe w).pin (.outI o)) :: (s.out o).fr.samples else (s.out o).fr.samples))) ∧
  (∀ (w : World) (s : State), s.frameRuns = false ∨ s.frm.slot < s.sw.smpDone → exec (.slotSample w) s = .next s) ∧
  (∀ (s : State),
    let writes := s.sw.strOn && !s.sw.strDrop && s.bit F.swStrcfgEn && decide (s.sw.strDone ≤ s.frm.slot) && decide (s.frm.slot < s.sw.smpDone)
    let n := (streamSlots s).length
    (writes = false → exec .streamSampleWrite s = .next s) ∧
    (writes = true → (∃ k, k < n ∧ inGranary (streamAddr s k) = false) → exec .streamSampleWrite s = .fault (.uncheckedUse 86)) ∧
    (writes = true → (∀ k, k < n → inGranary (streamAddr s k) = true) →
      ∃ t, exec .streamSampleWrite s = .next t ∧ t.sw.strDone = s.frm.slot + 1 ∧
        (t.sw.strDrop = true ↔ ∃ k, k < n ∧ s.mayUse 2 (bankOf (streamAddr s k)) = false) ∧
        (s.canonical → (∀ k, k < n → s.mayUse 2 (bankOf (streamAddr s k)) = true ∧ s.domLocked (16 + bankOf (streamAddr s k)) = false ∧
            s.wakeFails (streamAddr s k) = false ∧ (s.gbank (bankOf (streamAddr s k))).wait = []) →
          (∀ k, k < n → t.mread (streamAddr s k) = TWord.int (s.lastSample ((streamSlots s).getD k 0))) ∧ (∀ o, t.out o = s.out o))))

/-- R155, R158, R160, R164, R170, R425: each command completes, touching the threads it names.
Where the spec leaves a choice it speaks of the model's own: log entries 2, 58, 60, 66, 70. -/
def Obligations.PressThreadSteps : Prop :=
  (∀ (e : Fin 6) (s : State), s.canonical → s.storesOff = false → ∃ u, exec (.engineStart e) s = .next u ∧ u.bit (F.prsEctlRun e) = true ∧
    (∀ t, t < 12 → t / 2 = e.val → u.coil t = { s.coil t with
      st := if (s.coil t).st = .stop then .idle else (s.coil t).st, fresh := (s.coil t).fresh || !s.bit (F.prsEctlRun e) }) ∧
    s.keeps u [.reg (F.prsEctlRun e).addr, .coil (2 * e), .coil (2 * e + 1)]) ∧
  (∀ (e : Fin 6) (s : State), s.canonical → s.storesOff = false → ∃ u, exec (.engineStop e) s = .next u ∧ u.bit (F.prsEctlRun e) = false ∧
    (∀ t, t < 12 → t / 2 = e.val → (u.coil t).st = .stop ∧ (u.coil t).ls = false ∧ (u.coil t).request = false ∧ (u.coil t).slot = none ∧
      (u.coil t).pendAct = false ∧ (u.coil t).det.armed = none) ∧
    s.keeps u [.reg (F.prsEctlRun e).addr, .coil (2 * e), .coil (2 * e + 1)]) ∧
  (∀ (e : Fin 6) (s : State),
    (s.inDip = true → exec (.engineStart e) s = .next (s.stall (.engineStart e)) ∧ exec (.engineStop e) s = .next (s.stall (.engineStop e))) ∧
    (s.inDip = false → s.storesOff = true → exec (.engineStart e) s = .next s ∧ exec (.engineStop e) s = .next s)) ∧
  (∀ (t : Fin 12) (s : State),
    let starts := decide ((s.coil t).slot = some s.frm.slot) && s.plGoverns t && s.pressRuns
    (starts = true → (s.coil t).st = .waitg →
      ∃ u, exec (.grantedSlotStart t) s = .next u ∧ (u.coil t).st = .peak ∧ (u.coil t).pc = s.fld (F.prsCstartAddr t) ∧
        (u.coil t).target = 0 ∧ (u.coil t).slot = none ∧ (u.coil t).det = {} ∧ u.count = max s.count (s.slotAt s.frm.slot) ∧
        s.keeps u [.coil t, .count]) ∧
    (∀ a, starts = true → (s.coil t).st = .hold → (s.coil t).wait = .hold a →
      ∃ u, exec (.grantedSlotStart t) s = .next u ∧ (u.coil t).st = .peak ∧ (u.coil t).pc = a ∧ (u.coil t).target = (s.coil t).target ∧
        (u.coil t).slot = none ∧ (u.coil t).det = {} ∧ u.count = max s.count (s.slotAt s.frm.slot) ∧ s.keeps u [.coil t, .count]) ∧
    (starts = false ∨ ((s.coil t).st ≠ .waitg ∧ ((s.coil t).st ≠ .hold ∨ ∀ a, (s.coil t).wait ≠ .hold a)) →
      exec (.grantedSlotStart t) s = .next s)) ∧
  (∀ (t : Fin 12) (s : State),
    let ends := s.atEdge && s.plGoverns t && s.pressRuns && !(s.coil t).hend &&
      (!(s.effPl t).on || (decide ((s.effPl t).htime ≠ 0) && decide ((s.effPl t).htime ≤ (s.coil t).age)))
    (ends = false → exec (.holdEnded t) s = .next s) ∧
    (ends = true → (s.coil t).st = .hold → 511 ≤ (s.coil t).pc →
      ∃ u, exec (.holdEnded t) s = .next ((u.ucFault t).refreshPl t) ∧ (u.coil t).hend = true ∧ (u.coil t).st = .rel ∧ s.keeps u [.coil t]) ∧
    (ends = true → (s.coil t).st ≠ .hold ∨ (s.coil t).pc < 511 →
      ∃ u, exec (.holdEnded t) s = .next u ∧ (u.coil t).hend = true ∧
        ((s.coil t).st = .hold → (u.coil t).st = .rel ∧ (u.coil t).pc = (s.coil t).pc + 1 ∧ (u.coil t).wait = .ready) ∧
        ((s.coil t).st ≠ .hold → u.coil t = { s.coil t with hend := true }) ∧ s.keeps u [.coil t, .images])) ∧
  (∀ (t : Fin 12) (s : State),
    ((s.coil t).det.armed = none ∨ s.pressRuns = false → exec (.detectorWindowClose t) s = .next s) ∧
    (∀ (closes : Nat) (dip : Int), (s.coil t).det.armed = some (closes, dip) → s.pressRuns = true →
      ∃ u, exec (.detectorWindowClose t) s = .next u ∧ u.count = max s.count closes ∧ (u.coil t).det.armed = none ∧
        (u.coil t).det.narm = true ∧ (u.coil t).det.tmove = 0 ∧ (u.coil t).det.tseat = 0 ∧ (u.coil t).det.dipma = 0 ∧
        (u.coil t).st = (s.coil t).st ∧ s.keeps u [.coil t, .count])) ∧
  (∀ s : State, s.prs.copy = [] → ∃ u, exec .loaderCopyComplete s = .next u ∧ u.prs = { s.prs with loading := none } ∧ s.keeps u [.prsRest]) ∧
  (∀ s : State, s.prs.copy ≠ [] → exec .loaderCopyComplete s = .next s)

/-- R166, R167, R169: the instructions that go on at the next word, at once or after their wait. `w` is the word at the thread's address.
Where the spec leaves a choice it speaks of the model's own: log entries 2, 66. -/
def Obligations.MicrocodeStraightLine : Prop :=
  (∀ (t : Fin 12) (s : State) (w : Nat), s.ucReady t = some w →
    let x := s.coil t
    let n := bitsN w 0 16
    let goal := if bitN w 12 then s.param t (bitsN w 0 2) else 10 * (bitsN w 0 12 : Int)
    let becomes := fun (u : State) (y : Coil) => s.coilBecomes u t (if x.pc < 511 then { y with pc := x.pc + 1 } else y)
    let goes := fun (cmd : Instr) (y : Coil) => ∃ u, becomes u y ∧ exec cmd s = .next (if x.pc < 511 then u else u.ucFault t)
    let waits := fun (cmd : Instr) (y : Coil) => ∃ u, exec cmd s = .next u ∧ s.coilBecomes u t y
    (bitsN w 19 5 = 0x00 → goes (.ucNop t) x) ∧
    (bitsN w 19 5 = 0x01 → goes (.ucSet t) { x with target := goal }) ∧
    (bitsN w 19 5 = 0x02 → (bitsN w 13 6 = 0 ∨ x.target = goal → goes (.ucRamp t) { x with target := goal }) ∧
      (bitsN w 13 6 ≠ 0 → x.target ≠ goal → waits (.ucRamp t) { x with wait := .ramp goal (5 * bitsN w 13 6) })) ∧
    (bitsN w 19 5 = 0x03 → (n = 0 → goes (.ucWaits t) x) ∧ (n ≠ 0 → waits (.ucWaits t) { x with wait := .slots n })) ∧
    (bitsN w 19 5 = 0x04 → (n = 0 → goes (.ucWaitu t) x) ∧ (n ≠ 0 → waits (.ucWaitu t) { x with wait := .until (s.count + 600 * n) })) ∧
    (bitsN w 19 5 = 0x05 → waits (.ucWaitc t) { x with
      wait := .cross (bitN w 18) (10 * (bitsN w 0 12 : Int))
        (if bitsN w 12 5 = 0 then none else some (s.count + 600 * (bitsN w 12 5 * (if bitN w 17 then 2000 else 100)))) }) ∧
    (bitsN w 19 5 = 0x06 → (bitsN w 0 2 ≠ 3 → goes (.ucDecay t) { x with decay := bitsN w 0 2, fs := max 1 (bitsN w 2 8) }) ∧
      (bitsN w 0 2 = 3 → exec (.ucDecay t) s = .next (s.ucFault t))) ∧
    (bitsN w 19 5 = 0x08 → goes (.ucLps t) { x with lc := n }) ∧
    (bitsN w 19 5 = 0x0A → goes (.ucArmd t) { x with
      det := { x.det with
        armed := if bitsN w 10 9 = 0 then none else some (s.count + 60000 * bitsN w 10 9, 10 * (max 1 (bitsN w 0 10) : Nat))
        m := none, dip := none } }) ∧
    (bitsN w 19 5 = 0x0C → ∃ u, becomes u { x with dg := { x.dg with code := bitsN w 0 8 }, fr := { x.fr with sig := true } } ∧
      exec (.ucSig t) s = .next ((if x.pc < 511 then u else u.ucFault t).raiseEvent (64 + t.val / 2)))) ∧
  (∀ (t : Fin 12) (s : State) (op : Nat) (cmd : Instr), (op, cmd) ∈ [(0, Instr.ucNop t), (1, .ucSet t), (2, .ucRamp t), (3, .ucWaits t),
      (4, .ucWaitu t), (5, .ucWaitc t), (6, .ucDecay t), (7, .ucBr t), (8, .ucLps t), (9, .ucLpj t), (10, .ucArmd t), (11, .ucHold t),
      (12, .ucSig t), (13, .ucEnd t)] →
    (∀ w, s.ucReady t = some w → bitsN w 19 5 ≠ op) → exec cmd s = .next s)

/-- R160, R166 to R169, R171: the instructions that choose where a thread goes on, and the faults.
Where the spec leaves a choice it speaks of the model's own: log entries 63, 70, 71. -/
def Obligations.MicrocodeControl : Prop :=
  (∀ (t : Fin 12) (s : State) (w : Nat), s.ucReady t = some w →
    let x := s.coil t
    let goes := fun (cmd : Instr) (y : Coil) => ∃ u, s.coilBecomes u t (if x.pc < 511 then { y with pc := x.pc + 1 } else y) ∧
      exec cmd s = .next (if x.pc < 511 then u else u.ucFault t)
    let jumps := fun (cmd : Instr) (y : Coil) => ∃ u, exec cmd s = .next u ∧ s.coilBecomes u t y
    let a := bitsN w 0 9
    (bitsN w 19 5 = 0x07 → (s.ucCond t (bitsN w 15 4) = some true → jumps (.ucBr t) { x with pc := a }) ∧
      (s.ucCond t (bitsN w 15 4) = some false → goes (.ucBr t) x) ∧
      (8 ≤ bitsN w 15 4 → exec (.ucBr t) s = .next (s.ucFault t))) ∧
    (bitsN w 19 5 = 0x09 → (x.lc - 1 = 0 → goes (.ucLpj t) { x with lc := 0 }) ∧
      (x.lc - 1 ≠ 0 → jumps (.ucLpj t) { x with lc := x.lc - 1, pc := a })) ∧
    (bitsN w 19 5 = 0x0B →
      (x.st = .peak → x.hend = false → jumps (.ucHold t) { x with st := .hold, wait := .hold a, det := { x.det with armed := none } }) ∧
      (x.st = .peak → x.hend = true → goes (.ucHold t) { x with st := .rel, det := { x.det with armed := none } }) ∧
      (x.st = .rel → goes (.ucHold t) x) ∧ (x.st = .hold → exec (.ucHold t) s = .next s)) ∧
    (bitsN w 19 5 = 0x0D → jumps (.ucEnd t) { x with
      st := .idle, request := false, slot := none, wait := .ready, det := { x.det with armed := none }
      ls := false, fw := s.plSlow t && decide (50 ≤ s.plSample t), offN := 0 }) ∧
    (∀ parity : Bool, parity = true ∨ 0x0E ≤ bitsN w 19 5 ∨ (bitsN w 19 5 = 6 ∧ bitsN w 0 2 = 3) ∨ (bitsN w 19 5 = 7 ∧ 8 ≤ bitsN w 15 4) →
      exec (.microcodeFault t parity) s = .next (s.ucFault t)) ∧
    (bitsN w 19 5 < 0x0E → (bitsN w 19 5 = 6 → bitsN w 0 2 ≠ 3) → (bitsN w 19 5 = 7 → bitsN w 15 4 < 8) →
      exec (.microcodeFault t false) s = .next s)) ∧
  (∀ (t : Fin 12) (parity : Bool) (s : State), s.ucReady t = none → exec (.microcodeFault t parity) s = .next s) ∧
  (∀ (t : Fin 12) (s : State),
    let x := s.coil t
    let ends := fun (cmd : Instr) (e : Nat) (y : Coil) => ∃ u, u.coil t = (if x.pc < 511 then { y with pc := x.pc + 1 } else y) ∧
      u.count = max s.count e ∧ s.keeps u [.coil t, .count] ∧ exec cmd s = .next (if x.pc < 511 then u else u.ucFault t)
    (∀ e, x.wait = .until e → s.pressRuns = true → ends (.ucWaituExpire t) e { x with wait := .ready }) ∧
    (∀ b l e, x.wait = .cross b l (some e) → s.pressRuns = true → ends (.ucWaitcTimeout t) e { x with t := true, wait := .ready }) ∧
    (s.pressRuns = false ∨ (∀ e, x.wait ≠ .until e) → exec (.ucWaituExpire t) s = .next s) ∧
    (s.pressRuns = false ∨ (∀ b l e, x.wait ≠ .cross b l (some e)) → exec (.ucWaitcTimeout t) s = .next s))

/-- R147, R150, R177, R178, R184: the protective steps of the Press. `u` is the state before the events and sources follow.
Where the spec leaves a choice it speaks of the model's own: log entries 25, 55, 61, 69. -/
def Obligations.PressProtection : Prop :=
  (∀ (ch : Fin 12) (amps deg : Int) (s : State),
    let e := s.plGov ch
    let x := s.coil e
    let oc := decide (100 * (s.fld (F.prsChcfgIlim e) : Int) * (if s.plPaired e then 2 else 1) < amps)
    let ot := decide (165 * 16 < deg)
    let dg := { x.dg with oc := x.dg.oc || oc, ot := x.dg.ot || ot }
    (s.pressRuns = false ∨ (oc = false ∧ ot = false) → exec (.coilShutoff ch amps deg) s = .next s) ∧
    (s.pressRuns = true → oc = true ∨ ot = true →
      (x.st = .stop → exec (.coilShutoff ch amps deg) s = .next (s.raiseSource (96 + e))) ∧
      (x.st = .fault → ∃ u, exec (.coilShutoff ch amps deg) s = .next (u.raiseSource (96 + e)) ∧ s.coilBecomes u e { x with dg := dg }) ∧
      (x.st ≠ .stop → x.st ≠ .fault → ∃ u,
        exec (.coilShutoff ch amps deg) s = .next ((u.raiseEvent (64 + e / 2)).raiseSource (96 + e)) ∧
        s.coilBecomes u e { x with
          st := .fault, request := false, slot := none, pendAct := false, wait := .ready, det := { x.det with armed := none }
          ls := false, fw := s.plSlow e && decide (50 ≤ s.plSample e), offN := 0, dg := dg, fr := { x.fr with flt := true } }))) ∧
  (∀ (b : Fin 3) (amps deg : Int) (s : State),
    let beyond := decide (((200 * s.fld (F.prsBankIlim b) : Nat) : Int) < amps) || decide (165 * 16 < deg)
    (s.pressRuns = false ∨ (s.pbank b).lock = true ∨ beyond = false → exec (.bankShutoff b amps deg) s = .next s) ∧
    (s.pressRuns = true → (s.pbank b).lock = false → beyond = true →
      ∃ t, exec (.bankShutoff b amps deg) s = .next t ∧ (t.pbank b).lock = true ∧ t.pbankOn b = false ∧
        (s.canonical → s.quiet → t.sticky (112 + b) = (s.sticky (112 + b) || s.feat (sourceFeat (112 + b))) ∧
          ∀ i, i < 4 → s.plGoverns (4 * b + i) = true → (s.coil (4 * b + i)).st ≠ .stop →
            (t.coil (4 * b + i)).st = .fault ∧ (t.coil (4 * b + i)).dg.bank = true))) ∧
  (∀ (ch : Fin 12) (deg : Int) (s : State),
    let e := s.plGov ch
    (s.pressRuns = false ∨ deg < 165 * 16 ∨ (s.coil e).ls = true ∨ (s.coil e).fw = true → exec (.clampOvertemp ch deg) s = .next s) ∧
    (s.pressRuns = true → 165 * 16 ≤ deg → (s.coil e).ls = false → (s.coil e).fw = false →
      ∃ u, exec (.clampOvertemp ch deg) s = .next u ∧ u.pin (.plClp ch) = deg ∧ (u.coil ch).dg.clpT = true ∧ (u.coil ch).fr.clpt = true ∧
        (u.coil e).fw = true ∧ (u.coil e).st = (s.coil e).st ∧ u.plSlow e = true ∧
        s.keeps u [.pin (.plClp ch), .coil ch, .coil e])) ∧
  (∀ (x : Fin 4) (amps deg : Int) (s : State),
    let oc := decide (9000 < amps)
    let ot := decide (165 * 16 < deg)
    (s.unpowered = true ∨ (s.px x).lock = true ∨ (oc = false ∧ ot = false) → exec (.pxShutoff x amps deg) s = .next s) ∧
    (s.unpowered = false → (s.px x).lock = false → oc = true ∨ ot = true →
      ∃ u, exec (.pxShutoff x amps deg) s = .next (u.raiseSource (108 + x)) ∧
        u.px x = { s.px x with on := false, onAll := false, lock := true, oc := (s.px x).oc || oc, ot := (s.px x).ot || ot } ∧
        s.keeps u [.px x]))

/-- R146, R165, R167: the low-side switch of a governing channel after the sample, for every sample of the frame.
Where the spec leaves a choice it speaks of the model's own: log entries 56, 57, 65, 69. -/
def Obligations.RegulatorSampleSwitches : Prop :=
  (∀ (w : World) (s : State),
    s.domOn domPress = false ∨ s.frameRuns = false ∨ 2 * s.tfUs ≤ max s.prs.sampleJ ((s.count - s.frm.edgeAt + 299) / 300) →
      exec (.regulatorSample w) s = .next (s.observe w)) ∧
  ∀ (w : World) (s : State), s.domOn domPress = true → s.frameRuns = true →
    max s.prs.sampleJ ((s.count - s.frm.edgeAt + 299) / 300) < 2 * s.tfUs →
    ∃ t, exec (.regulatorSample w) s = .next t ∧ t.prs.sampleJ = max s.prs.sampleJ ((s.count - s.frm.edgeAt + 299) / 300) + 1 ∧
      ((∀ ch, ch < 12 → (s.coil ch).pc < 511) → ∀ ch : Fin 12, s.plGoverns ch = true →
        let v := (s.observe w).plSample ch
        let h : Int := 10 * s.fld (F.prsChcfgHyst ch)
        let goal := (s.coil ch).target
        (t.coil ch).st = (s.coil ch).st ∧
        ((s.coil ch).st.regulates = false → (t.coil ch).ls = false) ∧
        ((s.coil ch).st.regulates = true → s.pbankOn (ch / 4) = true →
          (t.coil ch).ls = (if v ≤ goal - h ∧ goal ≠ 0 then true else if goal + h ≤ v ∨ goal = 0 then false else (s.coil ch).ls)) ∧
        ((s.coil ch).st.regulates = true → s.pbankOn (ch / 4) = false → (t.coil ch).ls = false))

/-- R207, R209 to R211: both commands complete, touching the one sink.
Where the spec leaves a choice it speaks of the model's own: log entries 73, 74, 75. -/
def Obligations.LedSinkSteps : Prop :=
  (∀ (n : Fin 24) (amps head : Int) (s : State), s.ledDue n = true →
    let x := s.sink n
    let th := s.fld (F.ledCfgShth (s.ledGov n))
    let isOpen := 2 * amps * 4095 < 1000 * (s.ledIfs n : Int) * dacOf x.lvl ∧ head < 500
    let isShort := th ≠ 0 ∧ 500 * (th : Int) ≤ head
    ∃ u, exec (.ledMeasurement n amps head) s = .next u ∧
      (u.sink n).nOpen = (if isOpen then min 15 (x.nOpen + 1) else 0) ∧
      (u.sink n).nHr = (if head < 800 ∧ ¬isOpen then min 15 (x.nHr + 1) else 0) ∧
      (u.sink n).nShort = (if isShort then min 15 (x.nShort + 1) else 0) ∧
      ((u.sink n).shoff = true ↔ s.ledDcnt n ≤ (u.sink n).nShort ∧ s.bit (F.ledCfgShact (s.ledGov n)) = true) ∧
      ((u.sink n).shoff = true → u.ledLive n = false) ∧
      (u.sink n).meas = (amps, head) :: x.meas ∧ (u.sink n).measSlot = some s.frm.slot ∧ (u.sink n).lvl = x.lvl ∧
      (u.sink n).shF = (x.shF || (u.sink n).shoff) ∧ (u.sink n).ot = x.ot ∧ (u.sink n).r = x.r ∧ s.keeps u [.led n, .count]) ∧
  (∀ (n : Fin 24) (amps head : Int) (s : State), s.ledDue n = false → exec (.ledMeasurement n amps head) s = .next s) ∧
  (∀ (n : Fin 24) (deg : Int) (s : State), s.domOn domLed = true → 165 * 16 < deg → (s.sink n).ot = false →
    ∃ u, exec (.ledOvertemp n deg) s = .next u ∧ u.pin (.ledTj n) = deg ∧ (u.sink n).ot = true ∧ (u.sink n).otF = true ∧ u.ledLive n = false ∧
      (u.sink n).lvl = (s.sink n).lvl ∧ (u.sink n).meas = (s.sink n).meas ∧ (u.sink n).shoff = (s.sink n).shoff ∧ s.keeps u [.pin (.ledTj n), .led n]) ∧
  (∀ (n : Fin 24) (deg : Int) (s : State), s.domOn domLed = false ∨ deg ≤ 165 * 16 ∨ (s.sink n).ot = true →
    exec (.ledOvertemp n deg) s = .next (s.setPin (.ledTj n) deg))

/-- R216, R221 to R223, R225.
Where the spec leaves a choice it speaks of the model's own: log entries 77, 79, 80. -/
def Obligations.SwitchAndWakeInputSteps : Prop :=
  (∀ (s : State), s.domOn domInp = true →
    ∃ u, exec .wettingPulseStart s = .next u ∧ u.count = max s.count (s.beforeEdge 7500) ∧
      (∀ i, i < 48 → u.swIn i = { s.swIn i with frozen := (s.swIn i).frozen || s.fld (F.inpSwcfgWet i) != 0 }) ∧
      s.keeps u (.count :: (upto 48).map .swIn)) ∧
  (∀ (s : State), s.domOn domInp = false → exec .wettingPulseStart s = .next (s.advance (s.beforeEdge 7500))) ∧
  (∀ (i : Fin 48) (b : Bool) (s : State), s.watchRuns i = false → exec (.watchTransition i b) s = .next s) ∧
  (∀ (i : Fin 48) (b : Bool) (s : State), s.watchRuns i = true → (s.swIn i).frozen = false → (s.swIn i).watch = b →
    ∃ u, exec (.watchTransition i b) s = .next u ∧ u.swIn i = { s.swIn i with comp := b } ∧ s.keeps u [.swIn i]) ∧
  (∀ (i : Fin 48) (b : Bool) (s : State), s.watchRuns i = true → (s.swIn i).frozen = false → (s.swIn i).watch ≠ b →
    ∃ u, exec (.watchTransition i b) s = .next (if (s.fld (F.inpSwcfgEvsel i)).testBit 1 then u.raiseEvent i else u) ∧
      u.swIn i = { s.swIn i with comp := b, watch := b } ∧ s.keeps u [.swIn i]) ∧
  (∀ (i : Fin 48) (b : Bool) (s : State), s.watchRuns i = true → (s.swIn i).frozen = true →
    ∃ u, exec (.watchTransition i b) s = .next u ∧ u.swIn i = { s.swIn i with comp := b } ∧ s.keeps u [.swIn i]) ∧
  (∀ (s : State), ∃ t, exec .watchFreezeEnd s = .next t ∧ t.count = max s.count (s.frm.edgeAt + 3000) ∧
      (∀ i, i < 48 → t.swIn i = { s.swIn i with
        frozen := false, watch := if (s.swIn i).frozen then (s.swIn i).comp else (s.swIn i).watch })) ∧
  (∀ (n : Fin 2) (mv : Int) (s : State), (s.fld F.inpWakecfgEn).testBit n = false →
    exec (.wakeInputTransition n mv) s = .next (s.setPin (.wakeLand n) mv)) ∧
  (∀ (n : Fin 2) (mv : Int) (s : State), (s.fld F.inpWakecfgEn).testBit n = true →
    let inv := (s.fld F.inpWakecfgPol).testBit n
    let was := (s.wakeIn n).active
    ∃ u, exec (.wakeInputTransition n mv) s = .next
        (if ((u.wakeIn n).active != was && (s.fld F.inpWakecfgEv).testBit n) = true then u.raiseEvent (48 + n) else u) ∧
      (u.wakeIn n).high = (if 4000 < mv then true else if mv < 2000 then false else (s.wakeIn n).high) ∧
      (u.wakeIn n).active = xor (u.wakeIn n).high inv ∧ u.pin (.wakeLand n) = mv ∧
      s.keeps u [.pin (.wakeLand n), .wakeIn n])

/-- R226, R227, R229, R231.
Where the spec leaves a choice it speaks of the model's own: log entries 36, 78. -/
def Obligations.AnalogInputSteps : Prop :=
  (∀ (w : World) (s : State), s.domOn domInp = true →
    ∃ t, exec (.ainSample w) s = .next t ∧ t.inp.sampled = true ∧ t.count = max s.count (s.slotAt (s.seff - 2)) ∧
      (∀ v, v < 4 → (t.vsIn v).mv = t.pin (.vsMv v) ∧ (t.vsIn v).ma = t.pin (.vsMa v) ∧ (t.vsIn v).on = (s.vsIn v).on) ∧
      (∀ a, a < 24 → s.fld (F.inpAincfgMode a) = 0 → (t.ainIn a).sample = none) ∧
      (∀ a, a < 24 → s.fld (F.inpAincfgMode a) ≠ 0 →
        let ratio := s.fld (F.inpAincfgRatio a)
        let v := t.pin (.ain a)
        let full : Int := if ratio = 0 then 5000 else t.pin (.vsMv (ratio - 1))
        if ratio ≠ 0 ∧ ((s.vsIn (ratio - 1)).on = false ∨ 60 ≤ t.pin (.vsMa (ratio - 1)) ∨ full ≤ 0) then
          (t.ainIn a).sample = some (v, none, none) ∧ (t.ainIn a).rfail = true
        else
          let code := (max 0 (min 65535 (roundOpen (65535 * v) full.toNat))).toNat
          (t.ainIn a).sample = some (v, some code, if s.fld (F.inpAincfgMode a) = 2 then some (s.linearise (s.fld (F.inpAincfgTab a)) code) else none) ∧
          (t.ainIn a).rfail = false ∧ (t.ainIn a).ovr = decide (full < v))) ∧
  (∀ (w : World) (s : State), s.domOn domInp = false →
    exec (.ainSample w) s = .next ((s.observe w).advance (s.slotAt (s.seff - 2)))) ∧
  (∀ (w : World) (s : State), s.domOn domInp = true → s.inp.sampled = true →
    ∃ t, exec (.biasCheckSample w) s = .next t ∧ t.count = max s.count (s.slotAt (s.seff - 1)) ∧
      (∀ a v c l, a < 24 → s.biasDue a = true → (s.ainIn a).sample = some (v, c, l) →
        let dz := max 0 (t.pin (.ain a) - v) * 20
        (t.ainIn a).chkd = true ∧ (t.ainIn a).revs = (decide (v < -300) || decide (t.pin (.ain a) < -300)) ∧
        (t.ainIn a).zerr = (decide (dz < 100 * (s.fld (F.inpAincfgZlo a) : Int)) || decide (1000 * (s.fld (F.inpAincfgZhi a) : Int) < dz)) ∧
        (t.ainIn a).zb = min 0xFFFF (quant dz 100).toNat) ∧
      (∀ a, a < 24 → s.biasDue a = false ∨ (s.ainIn a).sample = none → t.ainIn a = s.ainIn a)) ∧
  (∀ (w : World) (s : State), s.domOn domInp = false ∨ s.inp.sampled = false →
    exec (.biasCheckSample w) s = .next ((s.observe w).advance (s.slotAt (s.seff - 1)))) ∧
  (∀ (v : Fin 4) (s : State),
    ((s.vsIn v).on = true → 8 ≤ (s.vsIn v).low →
      ∃ u, exec (.vsensOvercurrent v) s = .next u ∧
        u.vsIn v = { s.vsIn v with on := false, oc := true, low := 0, rose := (s.vsIn v).rose || !(s.vsIn v).oc } ∧ s.keeps u [.vsIn v]) ∧
    ((s.vsIn v).on = false ∨ (s.vsIn v).low < 8 → exec (.vsensOvercurrent v) s = .next s)) ∧
  (∀ (v : Fin 4) (mv : Int) (s : State),
    (5600 < mv ∨ mv < -300 →
      ∃ u, exec (.vsensExternalDrive v mv) s = .next u ∧
        u.vsIn v = { s.vsIn v with on := false, ext := true, low := 0, rose := (s.vsIn v).rose || !(s.vsIn v).ext, extF := (s.vsIn v).extF || !(s.vsIn v).ext } ∧
        u.pin (.vsMv v) = mv ∧ s.keeps u [.vsIn v, .pin (.vsMv v)]) ∧
    (-300 ≤ mv → mv ≤ 5600 → exec (.vsensExternalDrive v mv) s = .next (s.setPin (.vsMv v) mv)))

/-- R246, R248, R257 to R261, R425.
Where the spec leaves a choice it speaks of the model's own: log entries 5, 81. -/
def Obligations.WinnowCommands : Prop :=
  (∀ (m : Fin 6) (w : Word) (s : State), s.canonical → s.storesOff = false → ∃ t, exec (.stickyClear m w false) s = .next t ∧
    (∀ b, b < 32 → t.sticky (32 * m + b) = (s.sticky (32 * m + b) && (!w.getLsbD b || s.classOf (32 * m + b) == 3))) ∧
    s.keeps t [.reg (F.winStickyStk m).addr]) ∧
  (∀ (m : Fin 6) (w : Word) (s : State), s.storesOff = false →
    exec (.sourceForce m w false) s = .next (forEach 32 (fun t b =>
      if !w.getLsbD b then t
      else if t.classOf (32 * m + b) = 3 ∧ s.bit F.winTestArmf = false then t.setBit F.winStatFrcrej
      else t.raiseSource (32 * m + b)) s) ∧
    (s.canonical → s.quiet → (∀ b, b < 32 → w.getLsbD b = true → fixedSource (32 * m + b) = false) →
      ∃ t, exec (.sourceForce m w false) s = .next t ∧
        (∀ b, b < 32 → t.sticky (32 * m + b) = (s.sticky (32 * m + b) || (w.getLsbD b && s.feat (sourceFeat (32 * m + b))))) ∧
        s.keeps t [.reg (F.winStickyStk m).addr])) ∧
  (∀ (w : Word) (s : State), s.storesOff = false →
    exec (.swset w) s = .next (forEach 12 (fun t b => if w.getLsbD b then t.raiseSource (180 + b) else t) s) ∧
    (s.canonical → s.quiet → s.feat 0 = true → ∃ t, exec (.swset w) s = .next t ∧
      (∀ b, b < 12 → t.sticky (180 + b) = (s.sticky (180 + b) || w.getLsbD b)) ∧ s.keeps t [.reg (F.winStickyStk 5).addr])) ∧
  (∀ (s : State), s.canonical → s.storesOff = false →
    ∃ t, exec (.classLock false) s = .next t ∧ t.bit F.winCtlLock = true ∧ s.keeps t [.reg F.winCtlLock.addr]) ∧
  (∀ (m : Fin 6) (w : Word) (job : Bool) (s : State),
    (s.inDip = false → s.storesOff = true → exec (.stickyClear m w job) s = .next s ∧
      exec (.sourceForce m w job) s = .next s ∧ exec (.swset w) s = .next s ∧ exec (.classLock job) s = .next s) ∧
    (s.inDip = true → exec (.stickyClear m w job) s = .next (s.stall (.stickyClear m w job)) ∧
      exec (.sourceForce m w job) s = .next (s.stall (.sourceForce m w job)) ∧ exec (.swset w) s = .next (s.stall (.swset w)) ∧
      exec (.classLock job) s = .next (s.stall (.classLock job))) ∧
    (s.storesOff = false →
      exec (.stickyClear m w true) s = .next (s.setBit F.winStatPrivrej) ∧
      exec (.sourceForce m w true) s = .next (s.setBit F.winStatPrivrej) ∧
      exec (.classLock true) s = .next (s.setBit F.winStatPrivrej))) ∧
  (∀ (s : State), (∀ e, s.win.warnEnd = some e →
      ∃ t, exec .warnPulseEnd s = .next t ∧ t.win = { s.win with warnEnd := none } ∧ t.count = max s.count e ∧ s.keeps t [.win, .count]) ∧
    (s.win.warnEnd = none → exec .warnPulseEnd s = .next s))

/-- R241, R245 to R248: `occur` is the one operation by which every source occurs.
Where the spec leaves a choice it speaks of the model's own: log entry 5. -/
def Obligations.SourceReactsByClass : Prop :=
  ∀ (n : Nat) (s : State), n < 192 → s.canonical →
    (s.feat (sourceFeat n) = false → s.occur n = s) ∧
    (s.sticky n = true → s.occur n = s) ∧
    (s.feat (sourceFeat n) = true → s.sticky n = false →
      (s.occur n).sticky n = true ∧
      (s.classOf n = 1 → (s.occur n).win.warnEnd = some (s.count + 12000)) ∧
      (2 ≤ s.classOf n → (s.occur n).win.safe = true) ∧
      (s.classOf n = 3 → (s.occur n).win.fhalt = true ∧ ∀ c : Fin 2, ((s.occur n).cr c).halt.f = true ∧ ((s.occur n).cr c).buf = []) ∧
      (s.classOf n = 0 → s.keeps (s.occur n) [.reg (F.winStickyStk (n / 32)).addr]))

/-- R328, R332: ADD, SUB, MUL, DIV, REM, AND, OR, XOR, SHL, SHR, SAR, ROL, ROR, CMP, MIN and MAX between registers complete on every
operand that the operand-tag table accepts. The statements on `aluResult` say what the results are.
Where the spec leaves a choice it speaks of the model's own: log entries 85, 90, 93, 97, 112. -/
def Obligations.AluRegisterFormsComplete : Prop :=
  ∀ (c : Fin 2) (p : Phys) (s0 s : State) (i : NIns) (k : Nat) (cmd : Fin 2 → Phys → Instr), s0.issues c p i s → (k, cmd) ∈ aluForms →
    i.op = 0x80 + k → aluAccepts k (s.w c i.a).tag = true →
    (s.w c i.b).tag = (if isShift k then Tag.nat else (s.w c i.a).tag) →
    let a := s.w c i.a
    let b := s.w c i.b
    ∃ t, exec (cmd c p) s0 = .next t ∧
      (k = 13 → s.flagsIn t c i (cmpFlags a.tag a.val b.val)) ∧
      (k ≠ 13 → s.resultIn t c i i.nf (aluResult k a.tag a.val b.val))

/-- R329 to R332: the sixteen ALUI operations complete; the one form that traps whatever the values says so.
Where the spec leaves a choice it speaks of the model's own: log entries 85, 93, 97, 112. -/
def Obligations.AluImmediateFormsComplete : Prop :=
  ∀ (c : Fin 2) (p : Phys) (s0 s : State) (i : NIns) (k : Nat) (cmd : Fin 2 → Phys → Instr), s0.issues c p i s → (k, cmd) ∈ aluiForms →
    i.op = 0xC1 → i.x = k → aluAccepts k (s.w c i.a).tag = true →
    let a := s.w c i.a
    let b : TWord := if isShift k then TWord.nat i.imm else ⟨a.tag, i.immFor a.tag⟩
    (a.tag = Tag.flt → i.immLen ≠ 4 → exec (cmd c p) s0 = .next (s.trapEnter c 1 (tagVal a.tag 1) (s.cr c).pc)) ∧
    ((a.tag = Tag.flt → i.immLen = 4) → ∃ t, exec (cmd c p) s0 = .next t ∧
      (k = 13 → s.flagsIn t c i (cmpFlags a.tag a.val b.val)) ∧
      (k ≠ 13 → s.resultIn t c i i.nf (aluResult k a.tag a.val b.val)))

/-- R310, R326, R332, R335, R341, R346: the twelve one-operand and TIME instructions complete.
Where the spec leaves a choice it speaks of the model's own: log entries 85, 91, 92, 95. -/
def Obligations.UnaryAndTimeInstructionsComplete : Prop :=
  ∀ (c : Fin 2) (p : Phys) (s0 s : State) (i : NIns), s0.issues c p i s →
    let x := s.w c i.d
    let a := s.w c i.a
    let b := s.w c i.b
    (i.op = 0x50 →
      (i.x = 0 → numTag x.tag = true → ∃ t, exec (.inc c p) s0 = .next t ∧ s.resultIn t c i false (arith 0 x.tag x.val (oneOf x.tag))) ∧
      (i.x = 1 → numTag x.tag = true → ∃ t, exec (.dec c p) s0 = .next t ∧ s.resultIn t c i false (arith 1 x.tag x.val (oneOf x.tag))) ∧
      (i.x = 2 → negTag x.tag = true → ∃ t, exec (.neg c p) s0 = .next t ∧ s.resultIn t c i false (negate x.tag x.val)) ∧
      (i.x = 3 → negTag x.tag = true → ∃ t, exec (.abs c p) s0 = .next t ∧ s.resultIn t c i false (absolute x.tag x.val)) ∧
      (i.x = 4 → notTag x.tag = true → ∃ t, exec (.not c p) s0 = .next t ∧ s.resultIn t c i false (notResult x.tag x.val)) ∧
      (i.x = 5 → ∃ t, exec (.clrn c p) s0 = .next t ∧ s.wroteReg t c i TWord.nil0) ∧
      (i.x = 6 → (numTag x.tag || x.tag == Tag.raw || x.tag == Tag.bool) = true →
        ∃ t, exec (.tst c p) s0 = .next t ∧ s.flagsIn t c i (tstFlags x.tag x.val))) ∧
    (∀ o, i.op = 0x91 → a.tag ≠ Tag.nil → convert a.tag (BitVec.ofNat 4 i.b) a.val = some o →
      ∃ t, exec (.cvt c p) s0 = .next t ∧ s.resultIn t c i i.nf o) ∧
    (i.op = 0x9B → a.tag = Tag.time → b.tag = Tag.time →
      ∃ t, exec (.tsub c p) s0 = .next t ∧ s.resultIn t c i i.nf (.val ⟨Tag.int, frameDiff a.val b.val⟩ (flagsOf (frameDiff a.val b.val) false false))) ∧
    (i.op = 0x9C → a.tag = Tag.time → ∃ t, exec (.tfrm c p) s0 = .next t ∧ s.wroteReg t c i ⟨Tag.nat, a.val >>> 8⟩) ∧
    (i.op = 0x9D → a.tag = Tag.time → ∃ t, exec (.tslot c p) s0 = .next t ∧ s.wroteReg t c i ⟨Tag.nat, a.val &&& 0xFF#32⟩) ∧
    (i.op = 0xA0 → a.tag = Tag.code → b.tag = Tag.int → ∃ t, exec (.cadd c p) s0 = .next t ∧ s.wroteReg t c i ⟨Tag.code, a.val + b.val⟩)

/-- R309 and R310, on the pure operations that the instructions write (R309, R310), and on UNARY NEG of a NAT. -/
def Obligations.IntegerArithmetic : Prop :=
  (∀ (t : Tag) (a b : Word), t = Tag.int ∨ t = Tag.nat →
    let out := fun (z : Int) => if t = Tag.int then decide (z < -2 ^ 31 ∨ 2 ^ 31 ≤ z) else decide (z < 0 ∨ 2 ^ 32 ≤ z)
    let v := fun (w : Word) => if t = Tag.int then w.toInt else (w.toNat : Int)
    aluResult 0 t a b = .val ⟨t, a + b⟩ ⟨decide (a + b = 0), (a + b).getLsbD 31, decide (2 ^ 32 ≤ a.toNat + b.toNat), out (v a + v b)⟩ ∧
    aluResult 1 t a b = .val ⟨t, a - b⟩ ⟨decide (a - b = 0), (a - b).getLsbD 31, decide (a.toNat < b.toNat), out (v a - v b)⟩ ∧
    aluResult 2 t a b = .val ⟨t, a * b⟩ ⟨decide (a * b = 0), (a * b).getLsbD 31, out (v a * v b), out (v a * v b)⟩ ∧
    cmpFlags t a b = ⟨decide (a - b = 0), (a - b).getLsbD 31, decide (a.toNat < b.toNat), out (v a - v b)⟩ ∧
    (b ≠ 0 → ∃ q, ∃ cf : Bool, aluResult 3 t a b = .val ⟨t, q⟩ ⟨decide (q = 0), q.getLsbD 31, cf, out ((v a).tdiv (v b))⟩ ∧
      (out ((v a).tdiv (v b)) = false → v q = (v a).tdiv (v b))) ∧
    (b ≠ 0 → ∃ r, ∃ cf : Bool, aluResult 4 t a b = .val ⟨t, r⟩ ⟨decide (r = 0), r.getLsbD 31, cf, false⟩ ∧ v r = (v a).tmod (v b))) ∧
  (∃ cf : Bool, aluResult 3 Tag.int 0x80000000 0xFFFFFFFF = .val ⟨Tag.int, 0x80000000⟩ ⟨false, true, cf, true⟩) ∧
  (∃ cf : Bool, aluResult 4 Tag.int 0x80000000 0xFFFFFFFF = .val ⟨Tag.int, 0⟩ ⟨true, false, cf, false⟩) ∧
  (∃ cf : Bool, negate Tag.int 0x80000000 = .val ⟨Tag.int, 0x80000000⟩ ⟨false, true, cf, true⟩) ∧
  (∃ f, absolute Tag.int 0x80000000 = .openC ⟨Tag.int, 0x80000000⟩ f ∧ f.v = true) ∧
  (∀ (c : Fin 2) (p : Phys) (s0 s : State) (i : NIns), s0.issues c p i s → i.op = 0x50 → i.x = 2 → i.pre.tagx = false → (s.w c i.d).tag = Tag.nat →
    exec (.neg c p) s0 = .next (s.trapEnter c 1 (tagVal Tag.nat 0) (s.cr c).pc)) ∧
  (∀ (c : Fin 2) (p : Phys) (s0 s t : State) (i : NIns), s0.issues c p i s → i.op = 0x8D → (s.w c i.a).tag = Tag.int ∨ (s.w c i.a).tag = Tag.nat →
    (s.w c i.b).tag = (s.w c i.a).tag → exec (.cmp c p) s0 = .next t → (t.cr c).w = (s.cr c).w)

/-- R311 with R274: the quotient and remainder by zero, and what use of the result does. -/
def Obligations.DivisionByZeroWritesNil : Prop :=
  (∀ (c : Fin 2) (p : Phys) (s0 s : State) (i : NIns), s0.issues c p i s →
    (s.w c i.a).tag = Tag.int ∨ (s.w c i.a).tag = Tag.nat ∨ (s.w c i.a).tag = Tag.fix → (s.w c i.b).tag = (s.w c i.a).tag → (s.w c i.b).val = 0 →
    (i.op = 0x83 → ∃ t, exec (.div c p) s0 = .next t ∧ s.resultIn t c i i.nf (.val TWord.nil0 ⟨false, false, false, true⟩)) ∧
    (i.op = 0x84 → ∃ t, exec (.rem c p) s0 = .next t ∧ s.resultIn t c i i.nf (.val TWord.nil0 ⟨false, false, false, true⟩))) ∧
  (∀ (c : Fin 2) (p : Phys) (s0 s : State) (i : NIns) (k : Nat) (cmd : Fin 2 → Phys → Instr), s0.issues c p i s → (k, cmd) ∈ aluForms →
    i.op = 0x80 + k →
    ((s.w c i.a).tag = Tag.nil → exec (cmd c p) s0 = .next (s.trapEnter c 2 (tagVal Tag.nil 0) (s.cr c).pc)) ∧
    ((s.w c i.a).tag ≠ Tag.nil → (s.w c i.b).tag = Tag.nil →
      exec (cmd c p) s0 = .next (s.trapEnter c 2 (tagVal Tag.nil 1) (s.cr c).pc)))

/-- R312: the results and C of the shifts and rotates for every count. -/
def Obligations.ShiftsAndRotates : Prop :=
  ∀ (t : Tag) (a n : Word), ∃ l r x y z, ∃ cl cr cx cy cz : Bool,
    aluResult 8 t a n = .val ⟨t, l⟩ (flagsOf l cl false) ∧ aluResult 9 t a n = .val ⟨t, r⟩ (flagsOf r cr false) ∧
    aluResult 10 t a n = .val ⟨t, x⟩ (flagsOf x cx false) ∧ aluResult 11 t a n = .val ⟨t, y⟩ (flagsOf y cy false) ∧
    aluResult 12 t a n = .val ⟨t, z⟩ (flagsOf z cz false) ∧
    (∀ j, j < 32 →
      l.getLsbD j = (decide (n.toNat ≤ j) && a.getLsbD (j - n.toNat)) ∧ r.getLsbD j = a.getLsbD (j + n.toNat) ∧
      x.getLsbD j = (if j + n.toNat < 32 then a.getLsbD (j + n.toNat) else a.getLsbD 31) ∧
      y.getLsbD j = a.getLsbD ((j + 32 - n.toNat % 32) % 32) ∧ z.getLsbD j = a.getLsbD ((j + n.toNat) % 32)) ∧
    (n.toNat = 0 → cl = false ∧ cr = false ∧ cx = false) ∧
    (1 ≤ n.toNat → n.toNat ≤ 32 → cl = a.getLsbD (32 - n.toNat) ∧ cr = a.getLsbD (n.toNat - 1) ∧ cx = a.getLsbD (n.toNat - 1)) ∧
    (32 < n.toNat → cl = false ∧ cr = false ∧ cx = a.getLsbD 31) ∧
    (n.toNat % 32 = 0 → cy = false ∧ cz = false) ∧ (n.toNat % 32 ≠ 0 → cy = y.getLsbD 0 ∧ cz = z.getLsbD 31)

/-- R313, on the pure operations that the instructions write. -/
def Obligations.FixArithmetic : Prop :=
  (∀ (a b : Word),
    let sat := fun (z : Int) => max (-2 ^ 31) (min (2 ^ 31 - 1) z)
    let is := fun (o : AluOut) (z : Int) => ∃ w, w.toInt = sat z ∧ o = .val ⟨Tag.fix, w⟩ ⟨decide (w = 0), w.getLsbD 31, false, decide (sat z ≠ z)⟩
    is (aluResult 0 Tag.fix a b) (a.toInt + b.toInt) ∧ is (aluResult 1 Tag.fix a b) (a.toInt - b.toInt) ∧
    (∃ z, is (aluResult 2 Tag.fix a b) z ∧ |2 * (65536 * z - a.toInt * b.toInt)| ≤ 65536 ∧
      (|2 * (65536 * z - a.toInt * b.toInt)| = 65536 → z % 2 = 0)) ∧
    (b ≠ 0 → is (aluResult 3 Tag.fix a b) ((a.toInt * 65536).tdiv b.toInt)) ∧
    is (negate Tag.fix a) (-a.toInt)) ∧
  negate Tag.fix 0x80000000 = .val ⟨Tag.fix, 0x7FFFFFFF⟩ ⟨false, false, false, true⟩

/-- R334. -/
def Obligations.FltMinMax : Prop :=
  ∀ (m : Bool) (a b : Word),
    (fltIsNaN a = true → fltIsNaN b = false → aluResult (if m then 15 else 14) Tag.flt a b = .val ⟨Tag.flt, b⟩ (fltFlags b false)) ∧
    (fltIsNaN a = false → fltIsNaN b = true → aluResult (if m then 15 else 14) Tag.flt a b = .val ⟨Tag.flt, a⟩ (fltFlags a false)) ∧
    (fltIsNaN a = true → fltIsNaN b = true →
      aluResult (if m then 15 else 14) Tag.flt a b = .val ⟨Tag.flt, 0x7FC00000⟩ (fltFlags 0x7FC00000 true)) ∧
    (fltIsNaN a = false → fltIsNaN b = false →
      ∃ w, (w = a ∨ w = b) ∧ aluResult (if m then 15 else 14) Tag.flt a b = .val ⟨Tag.flt, w⟩ (fltFlags w false) ∧
        (a = 0x80000000 → b = 0 → w = if m then 0 else 0x80000000) ∧ (a = 0 → b = 0x80000000 → w = if m then 0 else 0x80000000))

/-- R326, R327, R329, R341, R343: the control transfers that take no trap complete. They take no REP (R337).
Where the spec leaves a choice it speaks of the model's own: log entries 85, 97. -/
def Obligations.ControlTransfersComplete : Prop :=
  ∀ (c : Fin 2) (p : Phys) (s0 s : State) (i : NIns), s0.issues c p i s → i.pre.rep = false →
    let k := s.cr c
    let next := s.nextPc c i
    let goto := next + BitVec.ofInt 32 i.disp
    let z := k.flg.getLsbD 0
    let n := k.flg.getLsbD 1
    let cy := k.flg.getLsbD 2
    let v := k.flg.getLsbD 3
    let tb := k.flg.getLsbD 4
    let cond := [true, z, !z, n != v, n == v, z || n != v, !z && n == v, cy, !cy, !cy && !z, cy || z, n, !n, v, tb, !tb].getD i.x true
    (i.op = 0x00 → ∃ t, exec (.nop c p) s0 = .next t ∧ s.wentTo t c i k.w k.flg next) ∧
    (i.op = 0x40 → i.x < 16 → ∃ t, exec (.bcc c p) s0 = .next t ∧ s.wentTo t c i k.w k.flg (if cond then goto else next)) ∧
    (i.op = 0xC4 → i.x < 16 → ∃ t, exec (.br c p) s0 = .next t ∧ s.wentTo t c i k.w k.flg (if cond then goto else next)) ∧
    (i.op = 0xC6 → (s.w c i.a).tag ≠ Tag.reserved → ∃ t, exec (.btag c p) s0 = .next t ∧
      s.wentTo t c i k.w (flgT k.flg ((s.w c i.a).tag.toNat == i.x)) (if ((s.w c i.a).tag.toNat == i.x) = i.nf then goto else next)) ∧
    (i.op = 0x52 → (s.w c i.d).tag = Tag.code → ∃ t, exec (.ret c p) s0 = .next t ∧ s.wentTo t c i k.w k.flg (s.w c i.d).val) ∧
    (i.op = 0x53 → (s.w c i.d).tag = Tag.ptr ∨ (s.w c i.d).tag = Tag.code →
      ∃ t, exec (.jmpr c p) s0 = .next t ∧ s.wentTo t c i k.w k.flg (s.w c i.d).val) ∧
    (i.op = 0xC5 → ∃ t, exec (.call c p) s0 = .next t ∧ s.wentTo t c i (k.put i.d ⟨Tag.code, next⟩) k.flg goto) ∧
    (i.op = 0xA1 → (s.w c i.a).tag = Tag.ptr ∨ (s.w c i.a).tag = Tag.code →
      ∃ t, exec (.callr c p) s0 = .next t ∧ s.wentTo t c i (k.put i.d ⟨Tag.code, next⟩) k.flg (s.w c i.a).val)

/-- R28, R45, R286, R300, R304, R343: the four instructions complete; their CTX traps say so.
Where the spec leaves a choice it speaks of the model's own: log entries 85, 101. -/
def Obligations.TaskInstructionsComplete : Prop :=
  ∀ (c : Fin 2) (p : Phys) (s0 s : State) (i : NIns), s0.issues c p i s → i.pre.rep = false → (s.cr c).buf = [] →
    let k := s.cr c
    let next := s.nextPc c i
    let ended := fun (ready : Option (Nat × Bool × Nat)) (t : State) =>
      (t.cr c).w = k.w ∧
      (ready = none → k.stack = [] → (t.cr c).busy = false ∧ (t.cr c).task = 255) ∧
      (∀ e r, k.stack = e :: r → (∀ b, ready = some b → b.1 ≤ e.prio) →
        (t.cr c).stack = r ∧ t.ctxOf c (t.cr c).pc = e ∧ (t.cr c).busy = true ∧ t.frm.pend = s.frm.pend) ∧
      (∀ prio job n, ready = some (prio, job, n) → (∀ e r, k.stack = e :: r → e.prio < prio) →
        (t.cr c).pc = BitVec.ofNat 32 (s.fld (if job then F.frmJobpcPc n else F.frmEvtpcPc n)) ∧ (t.cr c).job = job ∧ (t.cr c).prio = prio ∧
        (t.cr c).task = (if job then n else 64 + n) ∧ (t.cr c).busy = true ∧ (t.cr c).stampDue = true ∧ (t.cr c).stack = k.stack ∧
        (if job then nth t.frm.jobs n .idle = .running else nth t.frm.pend c 0 = nth s.frm.pend c 0 &&& ~~~(1#128 <<< n)))
    (i.op = 0x01 → ∃ t, exec (.fence c p) s0 = .next t ∧
      (s.setCore c (fun x => { x with dirty := [], dirtyCustom := false })).ranTo t c i k.w k.flg next ∧ s.keeps t [.core c]) ∧
    (i.op = 0x02 → s.canonical → s.sealedCores.testBit c = false → s.pastDeadline = false → (s.fld F.frmSealmaskMask).testBit c = true →
      ∃ t, exec (.sealIns c p) s0 = .next t ∧ t.sealedCores = s.sealedCores ||| 2 ^ c.val ∧ t.frm.sealAt = s.count ∧
        s.ranTo t c i k.w k.flg next ∧ s.keeps t [.core c, .reg F.frmSealedCores.addr, .frmRest]) ∧
    (i.op = 0x02 → s.sealedCores.testBit c = false → s.pastDeadline = true →
      ∃ t, exec (.sealIns c p) s0 = .next t ∧ t.sealedCores = s.sealedCores ∧ s.ranTo t c i k.w k.flg next ∧
        s.keeps t [.core c, .reg F.frmStatLateseal.addr]) ∧
    (i.op = 0x03 → k.job = true → k.task < 64 →
      ∃ t, exec (.waite c p) s0 = .next t ∧ ended ((s.setJob k.task .idle).bestReady c) t ∧ nth t.frm.jobs k.task .idle = .idle ∧
        (∀ j, j ≠ k.task → (∀ b, (s.setJob k.task .idle).bestReady c = some b → b.2 ≠ (true, j)) →
          nth t.frm.jobs j .idle = nth s.frm.jobs j .idle) ∧ s.keeps t [.core c, .jobs, .events]) ∧
    (i.op = 0x04 → k.job = false →
      ∃ t, exec (.rete c p) s0 = .next t ∧ ended (s.bestReady c) t ∧
        (∀ j, (∀ b, s.bestReady c = some b → b.2 ≠ (true, j)) → nth t.frm.jobs j .idle = nth s.frm.jobs j .idle) ∧
        s.keeps t [.core c, .jobs, .events]) ∧
    (i.op = 0x03 → k.job = false → exec (.waite c p) s0 = .next (s.trapEnter c 7 0 k.pc)) ∧
    (i.op = 0x04 → k.job = true → exec (.rete c p) s0 = .next (s.trapEnter c 7 0 k.pc))

/-- R290 to R293, R343, R344, R393: the three commands whose effect is a trap, and trap entry itself.
Where the spec leaves a choice it speaks of the model's own: log entries 85, 102. -/
def Obligations.TrapsEnter : Prop :=
  (∀ (c : Fin 2) (p : Phys) (s0 s : State) (i : NIns), s0.issues c p i s → i.pre.rep = false →
    (i.op = 0x51 → exec (.swt c p) s0 = .next (s.trapEnter c 10 (BitVec.ofNat 32 i.imm) (s.nextPc c i))) ∧
    (i.op = 0x05 → s.bit (F.dbgCtlBrkhalt c) = false → exec (.brk c p) s0 = .next (s.trapEnter c 11 0 (s.cr c).pc)) ∧
    (i.op = 0x05 → s.bit (F.dbgCtlBrkhalt c) = true → exec (.brk c p) s0 = .next (s.debugHalt c 4 0))) ∧
  (∀ (c : Fin 2) (p : Phys) (s0 s : State) (n : Nat), s0.reaches c p (.ill n) s →
    exec (.illegalInstruction c p) s0 = .next (s.trapEnter c 0 0 (s.cr c).pc)) ∧
  (∀ (c : Fin 2) (cause : Nat) (tval pc : Word) (s : State), (s.cr c).stack.length < 32 →
    let v := ((s.cr c).tvb + BitVec.ofNat 32 (16 * cause)).toNat
    let entered : Core := { s.cr c with
      stack := s.ctxOf c pc :: (s.cr c).stack, tcause := cause, tval := tval, job := false
      pc := (s.cr c).tvb + BitVec.ofNat 32 (16 * cause), stall := none, stampDue := true
      ech := { (s.cr c).ech with miss := false } }
    let stopped : Core := { entered with halt := { (s.cr c).halt with trap := true } }
    (s.mayFetch c v = true → inGranary v = false → s.eccAt v = .clean →
      ∃ u, s.trapEnter c cause tval pc = u.raiseSource (10 + c) ∧ u.cr c = entered ∧ s.keeps u [.core c]) ∧
    (s.mayFetch c v = true → inGranary v = true → s.domOn (16 + bankOf v) = true → (s.gbank (bankOf v)).wait = [] → s.eccAt v = .clean →
      ∃ u, s.trapEnter c cause tval pc = u.raiseSource (10 + c) ∧ u.cr c = entered ∧ s.keeps u [.core c, .gbank (bankOf v)]) ∧
    (s.mayFetch c v = true → inGranary v = true → s.domOn (16 + bankOf v) = false → s.wakeFails v = false →
      ∃ u, s.trapEnter c cause tval pc = u.raiseSource (10 + c) ∧ u.cr c = entered ∧ s.keeps u [.core c]) ∧
    (s.mayFetch c v = true → inGranary v = true → s.wakeFails v = true →
      ∃ u, s.trapEnter c cause tval pc = ((u.wakeFailed (bankOf v)).doubleTrap c) ∧ u.cr c = entered ∧ s.keeps u [.core c]) ∧
    (s.mayFetch c v = true → inStore (nearI c) v = true → s.eccAt v ≠ .clean →
      ∃ u, s.trapEnter c cause tval pc = ((u.raiseSource 15).doubleTrap c) ∧ u.cr c = entered ∧ s.keeps u [.core c]) ∧
    (s.mayFetch c v = false → inGranary v = false →
      ∃ u, s.trapEnter c cause tval pc = (u.abandonAll c).raiseSource (8 + c) ∧ u.cr c = stopped ∧ s.keeps u [.core c])) ∧
  (∀ (c : Fin 2) (cause : Nat) (tval pc : Word) (s : State), 32 ≤ (s.cr c).stack.length →
    ∃ u, s.trapEnter c cause tval pc = (u.abandonAll c).raiseSource (8 + c) ∧
      u.cr c = { s.cr c with halt := { (s.cr c).halt with trap := true } } ∧ s.keeps u [.core c])

/-- R281, R282, R326, R328, R329, R331, R339, R342, R344, R345: these ten instructions complete; the state they run in differs from the one
they find, outside the Granary, by the entry stamp alone.
Where the spec leaves a choice it speaks of the model's own: log entries 85, 97. -/
def Obligations.MovesAndSpecialRegistersComplete : Prop :=
  (∀ (c : Fin 2) (p : Phys) (s0 s : State) (i : NIns), (s0.fetchBytes c 15).any inGranary = false → s0.issues c p i s →
    (s.cr c).stampDue = false ∧ s0.keeps s [.core c] ∧
    ((s0.cr c).stampDue = false → s = s0) ∧
    ((s0.cr c).stampDue = true → (s.cr c).stampT = s0.stamp ∧ (s.cr c).stampNs = s0.nsNow)) ∧
  ∀ (c : Fin 2) (p : Phys) (s0 s : State) (i : NIns), s0.issues c p i s →
    let k := s.cr c
    let next := s.nextPc c i
    let a := s.w c i.a
    let a2 := s.w c (i.a + 1)
    let tag : Tag := BitVec.ofNat 4 i.x
    (i.op = 0x90 → a.tag ≠ Tag.reserved → (i.pre.wide = true → a2.tag ≠ Tag.reserved) →
      ∃ t, exec (.mov c p) s0 = .next t ∧ s.wrotePair t c i a a2) ∧
    (i.op = 0xC0 → ∃ t, exec (.movi c p) s0 = .next t ∧ s.wroteReg t c i ⟨tag,
      if tag = Tag.nil then 0 else if tag = Tag.bool then (if i.imm = 0 then 0 else 1)
      else if tag = Tag.int ∨ tag = Tag.fix then BitVec.ofInt 32 i.disp else BitVec.ofNat 32 i.imm⟩) ∧
    (i.op = 0xC7 → ∃ t, exec (.adr c p) s0 = .next t ∧ s.wroteReg t c i ⟨Tag.ptr, next + BitVec.ofInt 32 i.disp⟩) ∧
    (i.op = 0x54 → ∃ t, exec (.tstamp c p) s0 = .next t ∧ s.wrotePair t c i ⟨Tag.time, k.stampT⟩ (TWord.nat k.stampNs)) ∧
    (i.op = 0x55 → ∃ t, exec (.now c p) s0 = .next t ∧ s.wrotePair t c i ⟨Tag.time, s.stamp⟩ (TWord.nat s.nsNow)) ∧
    (i.op = 0x93 → a.tag ≠ Tag.reserved → ∃ t, exec (.tagof c p) s0 = .next t ∧ s.wroteReg t c i (TWord.nat a.tag.toNat)) ∧
    (i.op = 0x92 → a.tag ≠ Tag.reserved → ∃ t, exec (.ttest c p) s0 = .next t ∧
      s.wentTo t c i k.w (if i.nf then k.flg else flgT k.flg (a.tag.toNat == i.b % 16)) next) ∧
    (i.op = 0x56 → ∃ t, exec (.setcnt c p) s0 = .next t ∧ s.keeps t [.core c] ∧
      (if i.pre.rep then s else s.setCore c (fun x => { x with cnt := BitVec.ofNat 32 i.imm })).ranTo t c i k.w k.flg next) ∧
    (i.op = 0x9E → i.a ≤ 8 → ∃ t, exec (.mfs c p) s0 = .next t ∧ s.wrotePair t c i
      (match i.a with
        | 0 => TWord.nat (k.flg.toNat + 32 * b2n (s.onSafety c k.pc.toNat))
        | 1 => ⟨Tag.nat, k.cnt⟩
        | 2 => TWord.nat s.frm.frame.toNat
        | 3 => TWord.nat c.val
        | 4 => TWord.nat (b2n k.job + 4 * k.prio + 64 * k.task + 2 ^ 14 * k.stack.length)
        | 5 => ⟨Tag.ptr, k.tvb⟩
        | 6 => TWord.nat k.tcause
        | 7 => ⟨Tag.nat, k.tval⟩
        | _ => match k.stack with
          | e :: _ => ⟨Tag.code, e.pc⟩
          | [] => TWord.nil0)
      (TWord.nat (s.frm.frame.toNat / 2 ^ 32))) ∧
    (i.op = 0x9F →
      (i.d = 0 → a.tag = Tag.nat → ∃ t, exec (.mts c p) s0 = .next t ∧
        s.wentTo t c i k.w (if i.nf then k.flg else a.val.setWidth 5) next) ∧
      (i.d = 1 → a.tag = Tag.nat → i.pre.rep = false → ∃ t, exec (.mts c p) s0 = .next t ∧ s.keeps t [.core c] ∧
        (s.setCore c (fun x => { x with cnt := a.val })).ranTo t c i k.w k.flg next) ∧
      (i.d = 5 → a.tag = Tag.ptr → k.job = false → ∃ t, exec (.mts c p) s0 = .next t ∧ s.keeps t [.core c] ∧
        (s.setCore c (fun x => { x with tvb := a.val &&& 0xFFFFFE00#32 })).ranTo t c i k.w k.flg next) ∧
      (∀ e r, i.d = 8 → a.tag = Tag.code → k.job = false → k.stack = e :: r → ∃ t, exec (.mts c p) s0 = .next t ∧ s.keeps t [.core c] ∧
        (s.setCore c (fun x => { x with stack := { e with pc := a.val } :: r })).ranTo t c i k.w k.flg next) ∧
      (i.d = 5 ∨ i.d = 8 → k.job = true → exec (.mts c p) s0 = .next (s.trapEnter c 6 0 k.pc)))

/-- R276, R298, R301, R306, R328, R329, R339: loads and stores complete, for single words and WIDE pairs of the own near data store and
for single words of every other region; and their traps. The access that enters recovery is no completion
of its instruction (R611).
Where the spec leaves a choice it speaks of the model's own: log entries 85, 99, 100, 116, 117, 122. -/
def Obligations.LoadsAndStoresComplete : Prop :=
  ∀ (c : Fin 2) (p : Phys) (s0 s : State) (i : NIns), s0.issues c p i s →
    let k := s.cr c
    let next := s.nextPc c i
    let trap := fun cause (v : Word) => Host.Outcome.next (s.trapEnter c cause v k.pc)
    let disp := addrOf (s.w c i.a).val i.disp
    let idx := addrOf (s.w c i.a).val (s.w c i.b).val.toInt
    let loads := fun (cmd : Instr) (x : Nat) =>
      (s.nearHome c x → s.eccAt x = .clean → (s.nearWord c x).tag ≠ Tag.reserved →
        (i.pre.wide = true → x % 8 = 0 ∧ s.eccAt (x + 4) = .clean ∧ (s.nearWord c (x + 4)).tag ≠ Tag.reserved) →
        ∃ t, exec cmd s0 = .next t ∧ s.wrotePair t c i (s.nearWord c x) (s.nearWord c (x + 4))) ∧
      (i.pre.wide = false → k.buf = [] →
        (∀ v u, s.loadAddr (.core c) (!k.job) x .clean = .ok v u → v.tag ≠ Tag.reserved → u.cr c = k → u.fld F.dbgWpctlEn = 0 →
          u.sec.rcvr = s.sec.rcvr → ∃ t, exec cmd s0 = .next t ∧ u.wroteReg t c i v) ∧
        (regionOf x = .unmapped → exec cmd s0 = trap 4 (BitVec.ofNat 32 x)) ∧
        ((regionOf x).supOnly (.core c) = true → k.job = true → exec cmd s0 = trap 6 (BitVec.ofNat 32 x)) ∧
        (((regionOf x).supOnly (.core c) && k.job) = false → regionOf x ≠ .unmapped → regionOf x ≠ .periph → x % 4 ≠ 0 →
          exec cmd s0 = trap 3 (BitVec.ofNat 32 x)))
    let stores := fun (cmd : Instr) (x r : Nat) =>
      (s.w c r).tag ≠ Tag.reserved →
      (s.nearHome c x → k.buf.length < 8 →
        (i.pre.wide = true → x % 8 = 0 ∧ (s.w c (r + 1)).tag ≠ Tag.reserved) →
        ∃ t, exec cmd s0 = .next t ∧ s.keeps t [.core c] ∧
          (s.pushed c [{ a := x, v := s.w c r, v2 := if i.pre.wide then some (s.w c (r + 1)) else none }]).ranTo t c i k.w k.flg next) ∧
      (i.pre.wide = false → k.buf = [] → (regionOf x).buffers = false → regionOf x ≠ .custom → x % 4 = 0 →
        ∀ v u, s.storeAddr (.core c) (!k.job) x (s.w c r) = .ok v u → u.cr c = k → u.fld F.dbgWpctlEn = 0 →
          u.sec.rcvr = s.sec.rcvr → ∃ t, exec cmd s0 = .next t ∧ u.wentTo t c i k.w k.flg next) ∧
      ((i.pre.wide = true → (s.w c (r + 1)).tag ≠ Tag.reserved) →
        (regionOf x = .unmapped → k.buf = [] → exec cmd s0 = trap 4 (BitVec.ofNat 32 x)) ∧
        ((regionOf x).supOnly (.core c) = true → k.job = true → exec cmd s0 = trap 6 (BitVec.ofNat 32 x)) ∧
        (((regionOf x).supOnly (.core c) && k.job) = false → (regionOf x).buffers = true → x % 4 ≠ 0 →
          exec cmd s0 = trap 3 (BitVec.ofNat 32 x)))
    (i.op = 0xC2 → (s.w c i.a).tag = Tag.ptr → loads (.ld c p) disp) ∧
    (i.op = 0x94 → (s.w c i.a).tag = Tag.ptr → (s.w c i.b).tag = Tag.int ∨ (s.w c i.b).tag = Tag.nat → loads (.ldx c p) idx) ∧
    (i.op = 0xC3 → (s.w c i.a).tag = Tag.ptr → stores (.st c p) disp i.b) ∧
    (i.op = 0x95 → (s.w c i.a).tag = Tag.ptr → (s.w c i.b).tag = Tag.int ∨ (s.w c i.b).tag = Tag.nat → stores (.stx c p) idx i.d) ∧
    (i.op = 0xC2 → (s.w c i.a).tag = Tag.nil → exec (.ld c p) s0 = trap 2 (tagVal Tag.nil 2)) ∧
    (i.op = 0xC3 → (s.w c i.a).tag = Tag.nil → exec (.st c p) s0 = trap 2 (tagVal Tag.nil 2)) ∧
    (i.op = 0x94 → (s.w c i.a).tag = Tag.nil → exec (.ldx c p) s0 = trap 2 (tagVal Tag.nil 2)) ∧
    (i.op = 0x95 → (s.w c i.a).tag = Tag.nil → exec (.stx c p) s0 = trap 2 (tagVal Tag.nil 2))

/-- R303, R338, R340: the read-modify-writes complete, plain and under ATOMIC (which takes an empty buffer here); the block instructions
complete one word per command.
Where the spec leaves a choice it speaks of the model's own: log entries 86, 106, 108, 116. -/
def Obligations.ReadModifyWritesAndBlockMovesComplete : Prop :=
  ∀ (c : Fin 2) (p : Phys) (s0 s : State) (i : NIns), s0.issues c p i s → s.canonical →
    let k := s.cr c
    let next := s.nextPc c i
    let a := s.w c i.a
    let b := s.w c i.b
    let d := s.w c i.d
    let x := a.val.toNat
    let y := b.val.toNat
    let old := s.nearWord c x
    let rmw := i.pre.rep = false ∧ a.tag = Tag.ptr ∧ s.nearHome c x ∧ s.eccAt x = .clean ∧ (if i.pre.atomic = true then k.buf = [] else k.buf.length < 8) ∧
      old.tag ≠ Tag.reserved ∧ b.tag ≠ Tag.reserved
    (i.op = 0x96 → rmw → ∃ t, exec (.xchg c p) s0 = .next t ∧ s.exchanged t c i x (some b) (k.put i.d old) k.flg) ∧
    (i.op = 0x97 → rmw → d.tag ≠ Tag.reserved → ∃ t, exec (.cas c p) s0 = .next t ∧
      s.exchanged t c i x (if old = d then some b else none) (k.put i.d old)
        (if i.nf then k.flg else BitVec.ofNat 5 (k.flg.toNat / 2 * 2 + b2n (decide (old = d))))) ∧
    (i.op = 0x98 → rmw → old.tag = Tag.int ∨ old.tag = Tag.nat → b.tag = old.tag →
      ∃ t f, exec (.xadd c p) s0 = .next t ∧ arith 0 old.tag old.val b.val = .val ⟨old.tag, old.val + b.val⟩ f ∧
        s.exchanged t c i x (some ⟨old.tag, old.val + b.val⟩) (k.put i.d old) (if i.nf then k.flg else f.into k.flg)) ∧
    (i.op = 0x99 → i.pre.rep = false → a.tag = Tag.ptr → b.tag = Tag.ptr →
      (k.cnt = 0 → ∃ t, exec (.bmov c p) s0 = .next t ∧ s.wentTo t c i k.w k.flg next) ∧
      (k.cnt ≠ 0 → s.nearHome c x → s.nearHome c y → s.eccAt y = .clean → (s.nearWord c y).tag ≠ Tag.reserved → k.buf.length < 8 →
        ∃ t, exec (.bmov c p) s0 = .next t ∧ s.keeps t [.core c] ∧
          ((s.pushed c [{ a := x, v := s.nearWord c y }]).setCore c (fun q => { q with cnt := q.cnt - 1 })).ranTo t c i
            (updN (updN k.w i.a (fun _ => ⟨Tag.ptr, a.val + 4⟩)) i.b (fun _ => ⟨Tag.ptr, b.val + 4⟩)) k.flg (if k.cnt = 1 then next else k.pc))) ∧
    (i.op = 0x9A → i.pre.rep = false → a.tag = Tag.ptr → b.tag ≠ Tag.reserved →
      (k.cnt = 0 → ∃ t, exec (.bfill c p) s0 = .next t ∧ s.wentTo t c i k.w k.flg next) ∧
      (k.cnt ≠ 0 → s.nearHome c x → k.buf.length < 8 →
        ∃ t, exec (.bfill c p) s0 = .next t ∧ s.keeps t [.core c] ∧
          ((s.pushed c [{ a := x, v := b }]).setCore c (fun q => { q with cnt := q.cnt - 1 })).ranTo t c i
            (updN k.w i.a (fun _ => ⟨Tag.ptr, a.val + 4⟩)) k.flg (if k.cnt = 1 then next else k.pc)))

/-- R347 to R350, R587: the eight handle instructions complete on operands of their tags; a bad name traps.
Where the spec leaves a choice it speaks of the model's own: log entries 97, 107. -/
def Obligations.HandleInstructionsComplete : Prop :=
  ∀ (c : Fin 2) (p : Phys) (s0 s : State) (i : NIns), s0.issues c p i s →
    let k := s.cr c
    let a := s.w c i.a
    let trap := fun cause => Host.Outcome.next (s.trapEnter c cause 0 k.pc)
    let gives := fun (cmd : Instr) (v : Option TWord) =>
      (∀ w, v = some w → ∃ t, exec cmd s0 = .next t ∧ s.wroteReg t c i w) ∧ (v = none → exec cmd s0 = trap 8)
    let chans : List (Nat × Nat × Nat × Nat) := [(48, 0x30000200, 0x40, 0x30010100), (8, 0x30000E00, 0x40, 0x300101C0), (12, 0x30001900, 0x40, 0x30010800),
      (4, 0x30001C00, 0x20, 0x30010840), (24, 0x30002020, 0x20, 0x30010C00), (48, 0x30002420, 8, 0), (2, 0x300025A0, 8, 0),
      (24, 0x30002600, 0x10, 0), (4, 0x30002780, 0x10, 0x30010E00), (3, 0x30001820, 0x20, 0)]
    let kind := chans[getBits a.val 24 8]?
    let n := getBits a.val 0 16
    let named := kind.filter (fun q => decide (n < q.1) && decide (getBits a.val 16 8 = 0))
    let step := if getBits a.val 24 8 = 1 then 8 else 4
    let at_ := (s.w c i.b).val.toNat
    let words := (upto 6).map (fun j => s.nearWord c (at_ + 4 * j))
    let op := getBits (s.nearWord c at_).val 0 8
    let inHome := s.nearHome c at_ ∧ s.nearHome c (at_ + 20) ∧ (∀ j, j < 6 → s.eccAt (at_ + 4 * j) = .clean) ∧ ∀ w ∈ words, w.tag ≠ Tag.reserved
    let r := s.submit words (a.val.toNat % 32)
    let submits := inHome → r.2.cr c = k → r.2.fld F.dbgWpctlEn = 0 →
      ∃ t, exec (.cjob c p) s0 = .next t ∧ r.2.wroteReg t c i (match r.1 with
        | some j => TWord.nat j
        | none => TWord.nil0)
    (i.op = 0xA2 → a.tag = Tag.nat → gives (.hchan c p) (named.map (fun _ => ⟨Tag.chan, a.val⟩))) ∧
    (i.op = 0xA3 → a.tag = Tag.chan → gives (.hrec c p) (named.map (fun q => ⟨Tag.ptr, BitVec.ofNat 32 (q.2.1 + q.2.2.1 * n)⟩))) ∧
    (i.op = 0xA4 → a.tag = Tag.chan → gives (.hcmd c p)
      ((named.filter (fun q => q.2.2.2 != 0)).map (fun q => ⟨Tag.ptr, BitVec.ofNat 32 (q.2.2.2 + step * n)⟩))) ∧
    (i.op = 0xA5 → a.tag = Tag.nat → gives (.hmsg c p) (if a.val.toNat < 1536 then some ⟨Tag.msg, a.val⟩ else none)) ∧
    (i.op = 0xA6 → a.tag = Tag.msg → gives (.hobj c p) (if a.val.toNat < 1536 then
      some ⟨Tag.ptr, BitVec.ofNat 32 (0x40090800 + 0x2000 * (a.val.toNat / 256) + 4 * (a.val.toNat % 256))⟩ else none)) ∧
    (i.op = 0xA7 → a.tag = Tag.chan ∨ a.tag = Tag.msg → gives (.hidx c p) (some ⟨Tag.nat, a.val⟩)) ∧
    (i.op = 0xA7 → a.tag = Tag.key → gives (.hidx c p) (some (TWord.nat (a.val.toNat % 32)))) ∧
    (i.op = 0xA8 → k.job = false → a.tag = Tag.nat → gives (.keyh c p)
      (if a.val.toNat < 32 then some ⟨Tag.key, BitVec.ofNat 32 (a.val.toNat + 65536 * s.fld (F.secKattrGen a.val.toNat))⟩ else none)) ∧
    (i.op = 0xA8 → k.job = true → exec (.keyh c p) s0 = trap 6) ∧
    (i.op = 0xA9 → i.pre.rep = false → k.job = false → a.tag = Tag.key → (s.w c i.b).tag = Tag.ptr →
      (s.keyOk a.val = false → exec (.cjob c p) s0 = trap 8) ∧
      (s.keyOk a.val = true → k.buf = [] → s.domLocked domSec = false → s.domOn domSec = true → submits)) ∧
    (i.op = 0xA9 → i.pre.rep = false → a.tag = Tag.key → (s.w c i.b).tag = Tag.ptr → inHome →
      (k.job = true → opSup op = true → exec (.cjob c p) s0 = trap 6) ∧
      (k.job = false ∨ opSup op = false →
        (s.keyOk a.val = false → exec (.cjob c p) s0 = trap 8) ∧
        (s.keyOk a.val = true → k.buf = [] →
          (s.domLocked domSec = false → s.domOn domSec = true → submits) ∧
          (s.domLocked domSec = false → s.domOn domSec = false → exec (.cjob c p) s0 = .next (s.stallOn c domSec)) ∧
          (s.domLocked domSec = true → s.lockAccess.cr c = k → s.lockAccess.fld F.dbgWpctlEn = 0 → s.lockAccess.sec.rcvr = s.sec.rcvr →
            ∃ t, exec (.cjob c p) s0 = .next t ∧ s.lockAccess.wroteReg t c i TWord.nil0))))

/-- R353, R357, R359 to R363: CUST completes; the custom region closes.
Where the spec leaves a choice it speaks of the model's own: log entries 14, 103, 104. -/
def Obligations.CustomInstructionsComplete : Prop :=
  (∀ (c : Fin 2) (p : Phys) (s0 s : State) (i : NIns), s0.issues c p i s → i.op = 0xF7 → i.pre.rep = false → (s.cr c).dirtyCustom = false →
    (s.cr c).buf = [] → s.entryBad i.x = none →
    let ctl := s.customWord i.x 0
    let tags := s.customWord i.x 1
    let ra := decide ((s.customLen i.x).getD 0 ≠ 0) && decide (getBits tags 0 16 ≠ 0)
    let rb := decide ((s.customLen i.x).getD 0 ≠ 0) && decide (getBits tags 16 16 ≠ 0)
    (ra = true → (s.w c i.a).tag ≠ Tag.reserved ∧ tags.getLsbD (s.w c i.a).tag.toNat = true) →
    (rb = true → (s.w c i.b).tag ≠ Tag.reserved ∧ tags.getLsbD (16 + (s.w c i.b).tag.toNat) = true) →
    ∃ fa fb, ∀ sa sb r, ({
        a := if ra then (s.w c i.a).val else fa, b := if rb then (s.w c i.b).val else fb, imm := i.imm, mem := ctl.getLsbD 3
        code := fun m => (s.mread (customBase + 0x1000 + 4 * m)).val
        load := fun x => (s.mread x).val, own := fun x => inStore (nearD c) x
        codeBad := fun m => s.eccAt (customBase + 0x1000 + 4 * m) != .clean, loadBad := fun x => s.eccAt x != .clean } : MEnv).run 1024
        { pc := getBits ctl 8 10 } = .fin sa sb r →
      ∃ t, exec (.cust c p) s0 = .next t ∧ s.keeps t [.core c, .free] ∧
        (s.pushed c (r.held.map (fun h => { a := h.1, v := ⟨Tag.raw, h.2⟩ }))).ranTo t c i
          (if ctl.getLsbD 22 then (s.cr c).put i.d ⟨BitVec.ofNat 4 (getBits ctl 18 4), sa⟩ else (s.cr c).w)
          (if ctl.getLsbD 2 then BitVec.ofNat 5 (sb.toNat % 16 + 16 * b2n ((s.cr c).flg.getLsbD 4)) else (s.cr c).flg)
          (s.nextPc c i)) ∧
  (∀ (e : MEnv) (n : Nat), n < 1023 → e.code n = 0x00890000#32 → e.code (n + 1) = 0xC00F0000#32 → e.codeBad n = false →
    e.codeBad (n + 1) = false → ∃ r, e.run 1024 { pc := n } = .fin (e.a + e.b) 0 r ∧ r.held = [] ∧ r.acc = []) ∧
  (∀ (e : MEnv) (n k : Nat), e.code n = 0xA8000000#32 + BitVec.ofNat 32 n → n < 1024 → e.codeBad n = false → e.run k { pc := n } = .trap 0 0) ∧
  (∀ (m : Master) (job : Bool) (s : State), s.inDip = true →
    exec (.customRegionClose m job) s = .next (s.stall (.customRegionClose m job))) ∧
  (∀ (m : Master) (job : Bool) (s : State), s.inDip = false → s.storesOff = true ∨ m = .host →
    exec (.customRegionClose m job) s = .next s) ∧
  (∀ (s : State) (c : Fin 2), s.canonical → s.storesOff = false → (s.cr c).buf = [] →
    let trap := fun cause => Host.Outcome.next (if s.atInstr c = true then s.trapEnter c cause 0x50100100 (s.cr c).pc else s)
    exec (.customRegionClose (.core c) true) s = trap 6 ∧
    ((s.reg 0x50100100).getLsbD 0 = true → exec (.customRegionClose (.core c) false) s = trap 4) ∧
    ((s.reg 0x50100100).getLsbD 0 = false →
      ∃ t, exec (.customRegionClose (.core c) false) s = .next t ∧ (t.reg 0x50100100).getLsbD 0 = true ∧
        t.cr c = { s.cr c with dirtyCustom := true } ∧ t.storeAddr (.core c) true 0x50100000 (TWord.nat 1) = .bus ∧
        s.keeps t [.reg 0x50100100, .core c]))

/-- R380, R387, R390, R392, R394, R395, R435, R436: the commands on a core from outside it complete.
Where the spec leaves a choice it speaks of the model's own: log entries 115, 137, 138, 139, 144. -/
def Obligations.CoreControlSteps : Prop :=
  let restarted := fun (k : Core) (e : Nat) => ({ k with
    w := Vector.replicate 32 TWord.nil0, ew := Vector.replicate 32 (echoBits TWord.nil0), flg := 0, cnt := 0, stack := []
    pc := BitVec.ofNat 32 e, task := 255, prio := 0, job := false, busy := true, started := true, stall := none, stampDue := true
    halt := { f := k.halt.f }, ech := { k.ech with miss := false } } : Core)
  (∀ (c k : Fin 2) (w : Word) (s : State), c ≠ k → s.storesOff = false → (s.cr k).buf = [] → w.getLsbD c = true → w.getLsbD k = false →
    (s.cr c).halt.echo = true → s.bit (F.dbgCtlHalt c) = false → (∀ n, n < 6 → nth (s.cn n).locks c.val none = none) →
    ∃ t, exec (.coreRestart (.core k) false w) s = .next t ∧ t.cr c = restarted (s.cr c) (s.fld (F.echRstpcPc c)) ∧
      (∀ j, j ∈ (s.cr c).jobs → j < 64 → nth t.frm.jobs j .idle = .idle) ∧ s.keeps t [.core c, .jobs]) ∧
  (∀ (k : Fin 2) (w : Word) (s : State), s.storesOff = false → (s.cr k).buf = [] →
    (∀ j : Fin 2, (s.cr j).halt.echo = false ∨ w.getLsbD j = false ∨ j = k) → exec (.coreRestart (.core k) false w) s = .next s) ∧
  (∀ (m : Master) (job : Bool) (w : Word) (s : State),
    (s.inDip = true → exec (.coreRestart m job w) s = .next (s.stall (.coreRestart m job w))) ∧
    (s.inDip = false → s.storesOff = true → exec (.coreRestart m job w) s = .next s)) ∧
  (∀ (c : Fin 2) (w : Word) (s : State), s.canonical → s.storesOff = false → (s.cr c).buf = [] →
    ∃ t, exec (.coreRestart (.core c) true w) s = .next t ∧ t.bit F.echStatPrivrej = true ∧ s.keeps t [.reg F.echStatPrivrej.addr]) ∧
  (∀ (s : State), exec .linkReset s = .next s) ∧
  (∀ (c : Fin 2) (s : State), s.canonical → s.linkWrites = true →
    ((s.cr c).halt.dbg = false → ∃ t, exec (.debugHalt c) s = .next t ∧ t.bit (F.dbgCtlHalt c) = true ∧ t.fld (F.dbgHstatWhy c) = 0 ∧
      t.cr c = { s.cr c with halt := { (s.cr c).halt with dbg := true, stepping := false } } ∧
      s.keeps t [.core c, .reg (F.dbgCtlHalt c).addr, .reg (F.dbgHstatWhy c).addr]) ∧
    ((s.cr c).halt.dbg = true → s.bit (F.dbgCtlHalt c) = true → exec (.debugHalt c) s = .next s) ∧
    ((s.cr c).halt.dbg = false → exec (.step c) s = .next s) ∧
    ((s.cr c).halt.echo = false → (s.cr c).halt.trap = false → (s.cr c).halt.dbg = s.bit (F.dbgCtlHalt c) → exec (.restart c) s = .next s) ∧
    ((s.cr c).halt.dbg = false → s.bit (F.dbgCtlHalt c) = false → exec (.debugResume c) s = .next s) ∧
    ((s.cr c).halt.dbg = true → ∃ t, exec (.debugResume c) s = .next t ∧ t.bit (F.dbgCtlHalt c) = false ∧
      t.cr c = { s.cr c with ew := (s.cr c).w.map echoBits, halt := { (s.cr c).halt with dbg := false, stepping := false } } ∧
      s.keeps t [.core c, .reg (F.dbgCtlHalt c).addr]) ∧
    ((s.cr c).halt.dbg = true → ∃ t, exec (.step c) s = .next t ∧
      t.cr c = { s.cr c with ew := (s.cr c).w.map echoBits, halt := { (s.cr c).halt with stepping := true } } ∧ s.keeps t [.core c, .reg (F.dbgCtlHalt c).addr]) ∧
    (((s.cr c).halt.echo || (s.cr c).halt.trap) = true → s.bit (F.dbgCtlHalt c) = false →
      (∀ n, n < 6 → nth (s.cn n).locks c.val none = none) →
      ∃ t, exec (.restart c) s = .next t ∧ t.cr c = restarted (s.cr c) (s.fld (F.echRstpcPc c)) ∧
        s.keeps t [.core c, .jobs, .reg (F.dbgCtlHalt c).addr])) ∧
  (∀ (c : Fin 2) (s : State), s.linkWrites = false →
    exec (.debugHalt c) s = .next s ∧ exec (.debugResume c) s = .next s ∧ exec (.step c) s = .next s ∧ exec (.restart c) s = .next s) ∧
  (∀ (c : Fin 2) (s : State), (nth s.pwr.dom (1 + c) {}).down = none ∨ s.coreIdle c = false ∨ s.clocksRun = false ∨
      ((s.cr c).halt.dbg || (s.cr c).halt.echo || (s.cr c).halt.trap) = true → exec (.coreDomainDown c) s = .next s) ∧
  (∀ (c : Fin 2) (q : DomSt) (s : State), (nth s.pwr.dom (1 + c) {}).down = some q → s.coreIdle c = true → s.clocksRun = true →
    (s.cr c).halt.dbg = false → (s.cr c).halt.echo = false → (s.cr c).halt.trap = false → (s.cr c).buf = [] → (nth s.pwr.dom (1 + c) {}).st = .on →
    ∃ t, exec (.coreDomainDown c) s = .next t ∧ s.keeps t [.dom (1 + c)] ∧
      nth t.pwr.dom (1 + c) {} = { nth s.pwr.dom (1 + c) {} with st := q, waking := false, down := none }) ∧
  (∀ (d : Fin 32) (s : State), (nth s.pwr.dom d {}).waking = false ∨ s.domainsWake = false → exec (.domainWakeComplete d) s = .next s) ∧
  (∀ (d : Fin 32) (s : State), (nth s.pwr.dom d {}).waking = true → s.domainsWake = true → (nth s.pwr.dom d {}).st = .ret →
    ∃ t, exec (.domainWakeComplete d) s = .next t ∧ nth t.pwr.dom d {} = { nth s.pwr.dom d {} with st := .on, waking := false }) ∧
  (∀ (d : Fin 32) (s : State), (nth s.pwr.dom d {}).waking = true → s.domainsWake = true → (nth s.pwr.dom d {}).st = .ret →
    d.val ≠ 7 → d.val ≠ 9 → (d.val = 6 → s.prs.copy = []) →
    ∃ t, exec (.domainWakeComplete d) s = .next t ∧ nth t.pwr.dom d {} = { nth s.pwr.dom d {} with st := .on, waking := false } ∧
      (∀ (c : Fin 2) (j p : Nat), d.val = 1 + c.val → j < 64 → nth s.frm.jobs j .idle = .waking c p → nth t.frm.jobs j .idle = .ready c p) ∧
      s.keeps t [.dom d, .jobs]) ∧
  (∀ (c : Fin 2) (s : State), (nth s.pwr.dom (1 + c) {}).waking = true → s.domainsWake = true → (nth s.pwr.dom (1 + c) {}).st = .off →
    (∀ l, l < 5 → s.pin (.lane c l) = 0) →
    ∃ t, exec (.domainWakeComplete ⟨1 + c, by omega⟩) s = .next t ∧ (nth t.pwr.dom (1 + c) {}).st = .on ∧
      (∀ a, inStore (nearI c) a || inStore (nearD c) a → t.mread a = TWord.nil0) ∧
      (∀ a, (inStore (nearI c) a || inStore (nearD c) a) = false → t.mread a = s.mread a) ∧
      (∀ r, t.w c r = TWord.nil0) ∧ (t.cr c).flg = 0 ∧ (t.cr c).cnt = 0)

/-- R387 to R391, R436: the six operations of the link.
Where the spec leaves a choice it speaks of the model's own: log entries 212, 218, 220, 221, 222, 223. -/
def Obligations.LinkOperationsComplete : Prop :=
  (∀ (s : State), s.bit F.dbgStatLocked = false → s.clocksRun = true →
    (∀ (a : Nat) (e : Ecc) (v : TWord) (u : State), s.loadAddr .link true a e = .ok v u →
      ∃ t, exec (.mrd a e true) s = .next t ∧ nth t.got 3 TWord.nil0 = v ∧ t.ack = 1 ∧ u.keeps t [.got 3, .ack]) ∧
    (∀ (a : Nat) (c : Fin 2), inStore (nearD c) a = true → a % 4 = 0 → s.domLocked (1 + c) = false → s.domOn (1 + c) = true →
      s.eccAt a = .clean → s.loadAddr .link true a .clean = .ok (s.mread a) s) ∧
    (∀ (a : Nat) (c : Fin 2), inStore (nearD c) a = true → a % 4 = 0 → s.domLocked (1 + c) = false → s.domOn (1 + c) = false →
      exec (.mrd a .clean true) s = .next ((s.demand (1 + c)).acked 2)) ∧
    (∀ (a : Nat) (e : Ecc), regionOf a = .unmapped ∨ (regionOf a ≠ .periph ∧ a % 4 ≠ 0) → exec (.mrd a e true) s = .next (s.acked 4)) ∧
    (∀ (a : Nat) (v : TWord) (c : Fin 2) (differs dataPar : Bool), s.canonical → s.win.fhalt = false → readOnly a = false →
      inStore (nearD c) a = true → a % 4 = 0 → s.domLocked (1 + c) = false → s.domOn (1 + c) = true → s.eccAt a = .clean →
      ((differs && dataPar && s.marked c) = false → ∃ t, exec (.mwr a v differs true dataPar) s = .next t ∧ t.ack = 1 ∧
        (dataPar = true → t.mread a = v ∧ s.keeps t [.word (a / 4), .ack]) ∧
        (dataPar = false → t.bit F.dbgStatLinkerr = true ∧ s.keeps t [.reg F.dbgStatLinkerr.addr, .ack])) ∧
      ((differs && dataPar && s.marked c) = true → ∃ t, exec (.mwr a v differs true dataPar) s = .next t ∧ t.ack = 4 ∧
        t.bit F.dbgStatEchorej = true ∧ s.keeps t [.reg F.dbgStatEchorej.addr, .ack])) ∧
    (∀ (a : Nat) (v : TWord) (differs dataPar : Bool), s.win.fhalt = true ∨ readOnly a = true →
      exec (.mwr a v differs true dataPar) s = .next (s.acked 4)) ∧
    (∀ (c : Fin 2) (r : Nat), s.halted c = true →
      (r < 32 → ∃ t, exec (.rrd c r true) s = .next t ∧ nth t.got 3 TWord.nil0 = s.w c r ∧ t.ack = 1 ∧ s.keeps t [.got 3, .ack]) ∧
      (32 ≤ r → r < 41 → ∃ t, exec (.rrd c r true) s = .next t ∧ nth t.got 3 TWord.nil0 = (s.special c (r - 32)).1 ∧ t.ack = 1 ∧
        s.keeps t [.got 3, .ack]) ∧
      (r = 48 → ∃ t, exec (.rrd c r true) s = .next t ∧ nth t.got 3 TWord.nil0 = ⟨Tag.code, (s.cr c).pc⟩ ∧ t.ack = 1 ∧
        s.keeps t [.got 3, .ack])) ∧
    (∀ (c : Fin 2) (r : Nat) (v : TWord), s.halted c = true → s.win.fhalt = false →
      (r < 32 → ∃ t, exec (.rwr c r v true true) s = .next t ∧ t.cr c = { s.cr c with w := (s.cr c).put r v } ∧ t.ack = 1 ∧
        s.keeps t [.core c, .ack]) ∧
      (r = 33 → ∃ t, exec (.rwr c r v true true) s = .next t ∧ t.cr c = { s.cr c with cnt := v.val } ∧ t.ack = 1 ∧
        s.keeps t [.core c, .ack]) ∧
      (r = 32 → ∃ t, exec (.rwr c r v true true) s = .next t ∧ t.cr c = { s.cr c with flg := v.val.setWidth 5 } ∧ t.ack = 1 ∧
        s.keeps t [.core c, .ack]) ∧
      (r = 37 → ∃ t, exec (.rwr c r v true true) s = .next t ∧ t.cr c = { s.cr c with tvb := v.val &&& 0xFFFFFE00#32 } ∧ t.ack = 1 ∧
        s.keeps t [.core c, .ack]) ∧
      (r = 48 → ∃ t, exec (.rwr c r v true true) s = .next t ∧ t.cr c = { s.cr c with pc := v.val } ∧ t.ack = 1 ∧
        s.keeps t [.core c, .ack]) ∧
      (34 ≤ r → r ≠ 37 → r ≠ 40 → r ≠ 48 → exec (.rwr c r v true true) s = .next (s.acked 4)) ∧
      (s.canonical → r < 34 → ∃ t, exec (.rwr c r v true false) s = .next t ∧ t.bit F.dbgStatLinkerr = true ∧ t.ack = 1 ∧
        s.keeps t [.reg F.dbgStatLinkerr.addr, .ack])) ∧
    (∀ (c : Fin 2) (r : Nat), 41 ≤ r → r ≠ 48 → exec (.rrd c r true) s = .next (s.acked 4)) ∧
    (∀ (c : Fin 2) (r : Nat) (v : TWord) (dataPar : Bool), s.halted c = false →
      exec (.rrd c r true) s = .next (s.acked 4) ∧ exec (.rwr c r v true dataPar) s = .next (s.acked 4)) ∧
    (∀ (o : BitVec 16) (v : TWord) (u : State), s.loadPeriph .link (0x40130000 + o.toNat) = .ok v u →
      ∃ t, exec (.drd o true) s = .next t ∧ nth t.got 3 TWord.nil0 = v ∧ t.ack = 1 ∧ u.keeps t [.got 3, .ack]) ∧
    (∀ (o : BitVec 16) (v r : TWord) (u : State), s.win.fhalt = false → readOnly (0x40130000 + o.toNat) = false →
      s.storePeriph .link false (0x40130000 + o.toNat) v = .ok r u → exec (.dwr o v true true) s = .next (u.acked 1))) ∧
  (∀ (s : State) (a r : Nat) (e : Ecc) (c : Fin 2) (o : BitVec 16) (v : TWord) (differs dataPar : Bool),
    s.bit F.dbgStatLocked = false → s.clocksRun = false →
    exec (.mrd a e true) s = .next (s.acked 2) ∧ exec (.mwr a v differs true dataPar) s = .next (s.acked 2) ∧
    exec (.rrd c r true) s = .next (s.acked 2) ∧ exec (.rwr c r v true dataPar) s = .next (s.acked 2) ∧
    exec (.dwr o v true dataPar) s = .next (s.acked 2) ∧ exec (.drd o true) s = .next (s.acked 2)) ∧
  (∀ (s : State) (a r : Nat) (e : Ecc) (c : Fin 2) (o : BitVec 16) (v : TWord) (differs par dataPar : Bool),
    par = false ∨ s.bit F.dbgStatLocked = true →
    exec (.mrd a e par) s = .next (s.acked 4) ∧ exec (.mwr a v differs par dataPar) s = .next (s.acked 4) ∧
    exec (.rrd c r par) s = .next (s.acked 4) ∧ exec (.rwr c r v par dataPar) s = .next (s.acked 4) ∧
    exec (.dwr o v par dataPar) s = .next (s.acked 4) ∧
    (par = false ∨ o ≠ 0 ∧ o ≠ 4 → exec (.drd o par) s = .next (s.acked 4)))

/-- R298, R401, R403, R404, R406, R407, R410: stores, grants and owners.
Where the spec leaves a choice it speaks of the model's own: log entries 122, 123, 125, 126. -/
def Obligations.GranaryAccesses : Prop :=
  let recorded := fun (s u : State) (a who : Nat) (wr fetch : Bool) =>
    u.fld F.grnNownaAddr = a % 2 ^ F.grnNownaAddr.width ∧ u.fld F.grnNowniMaster = who ∧ u.bit F.grnNowniWr = wr ∧
    u.bit F.grnNowniFetch = fetch ∧ u.bit F.grnStatNown = true ∧ (u.gbank (bankOf a)).nown = true ∧
    s.keeps u [.gbank (bankOf a), .reg F.grnNownaAddr.addr, .reg F.grnNowniWr.addr, .reg F.grnStatNown.addr]
  (∀ (c : Fin 2) (a : Nat) (v : TWord) (r : List BufStore) (s : State), s.canonical → s.inDip = false → (s.cr c).buf = { a := a, v := v } :: r →
    (s.nearHome c a → ∃ t, exec (.storeDrain c) s = .next t ∧ t.mread a = v ∧ t.cr c = { s.cr c with buf := r } ∧
      t.eccAt a = .clean ∧ s.keeps t [.core c, .word (a / 4), .pin (.ecc a)]) ∧
    (inGranary a = true → s.domOn (16 + bankOf a) = true → s.domLocked (16 + bankOf a) = false → s.mayUse c (bankOf a) = true →
      (s.gbank (bankOf a)).wait = [] →
      ∃ t, exec (.storeDrain c) s = .next t ∧ t.mread a = v ∧ t.cr c = { s.cr c with buf := r } ∧
        (∀ w, w ∈ (t.gbank (bankOf a)).fix ↔ w ∈ (s.gbank (bankOf a)).fix ∧ w ≠ wordOf a) ∧ t.eccAt a = .clean ∧
        s.keeps t [.core c, .word (a / 4), .gbank (bankOf a), .pin (.ecc (a / 4 * 4))]) ∧
    (inGranary a = true → s.mayUse c (bankOf a) = true → s.domLocked (16 + bankOf a) = false → s.domOn (16 + bankOf a) = false →
      exec (.storeDrain c) s = .next (s.demand (16 + bankOf a))) ∧
    (inGranary a = true → s.mayUse c (bankOf a) = false → (s.gbank (bankOf a)).wait = [] →
      ∃ u, exec (.storeDrain c) s = .next ((u.raiseSource 18).setCore c (fun k => { k with buf := r })) ∧ recorded s u a c true false)) ∧
  (∀ (c : Fin 2) (s : State), s.inDip = true ∨ (s.cr c).buf = [] → exec (.storeDrain c) s = .next s) ∧
  (∀ (b : Fin 16) (l : Fin 8) (g : GAcc) (e : Ecc) (s : State), g.who < 9 → g.word < 65536 → laneOf g.word = l.val →
    g.pair = false → (s.gbank b).wait.all (fun q => !gaccUses q l) = true → s.domOn (16 + b) = true →
    (g.who ≠ 8 → s.mayUse g.who b = true → s.canonical → ∀ v, g.data = some v →
      ∃ t, exec (.laneGrant b l [g] e) s = .next t ∧ t.mread (grnAddr b g.word) = v ∧ (t.gbank b).wait = (s.gbank b).wait ∧
        nth (t.gbank b).last l 8 = g.who ∧ t.eccAt (grnAddr b g.word) = .clean ∧
        s.keeps t [.gbank b, .word (grnAddr b g.word / 4), .pin (.ecc (grnAddr b g.word))]) ∧
    (g.who ≠ 8 → s.mayUse g.who b = true → g.data = none → s.eccOf e (grnAddr b g.word) = .clean →
      ∃ t, exec (.laneGrant b l [g] e) s = .next t ∧ nth t.grn.got g.who TWord.nil0 = s.mread (grnAddr b g.word) ∧
        (t.gbank b).wait = (s.gbank b).wait ∧ s.keeps t [.gbank b, .grants]) ∧
    (g.who ≠ 8 → s.mayUse g.who b = true → g.data = none → s.eccOf e (grnAddr b g.word) = .single →
      ∃ u, exec (.laneGrant b l [g] e) s = .next u ∧ nth u.grn.got g.who TWord.nil0 = s.mread (grnAddr b g.word) ∧
        g.word ∈ (u.gbank b).fix ∧ (∀ a, u.mread a = s.mread a)) ∧
    (g.who ≠ 8 → s.mayUse g.who b = true → g.data = none → s.eccOf e (grnAddr b g.word) = .double → s.canonical →
      ∃ u, exec (.laneGrant b l [g] e) s = .next (
          let v := if g.who = 7 then u else u.raiseSource 17
          if g.who < 2 then v else v.deliverGot g.who TWord.nil0 TWord.nil0) ∧
        u.bit F.grnStatUe = true ∧ u.fld (F.grnUeCount b) = (s.satInc (F.grnUeCount b)).fld (F.grnUeCount b) ∧ (u.gbank b).ue = true ∧
        (u.gbank b).wait = (s.gbank b).wait ∧ s.keeps u [.gbank b, .reg F.grnStatUe.addr, .reg (F.grnUeCount b).addr]) ∧
    (g.who ≠ 8 → s.mayUse g.who b = false → s.canonical →
      ∃ u, exec (.laneGrant b l [g] e) s = .next (if g.data.isSome || g.fetch then u.raiseSource 18
          else (u.raiseSource 18).deliverGot g.who TWord.nil0 TWord.nil0) ∧
        (u.gbank b).wait = (s.gbank b).wait ∧ recorded s u (grnAddr b g.word) g.who g.data.isSome g.fetch)) ∧
  (∀ (b : Fin 16) (l : Fin 8) (g : GAcc) (e : Ecc) (s : State), g.who < 8 → g.word < 65536 → laneOf g.word = l.val →
    g.pair = false → (s.gbank b).wait.all (fun q => !gaccUses q l) = true → s.domOn (16 + b) = false → s.mayUse g.who b = true →
    (s.domLocked (16 + b) = false →
      ∃ u, exec (.laneGrant b l [g] e) s = .next (u.demand (16 + b)) ∧ (u.gbank b).wait = (s.gbank b).wait ++ [g] ∧ s.keeps u [.gbank b]) ∧
    (s.domLocked (16 + b) = true →
      ∃ u, exec (.laneGrant b l [g] e) s = .next (if g.data.isSome then u.lockedBank g.who
          else (u.lockedBank g.who).deliverGot g.who TWord.nil0 TWord.nil0) ∧ (u.gbank b).wait = (s.gbank b).wait ∧ s.keeps u [.gbank b])) ∧
  (∀ (b : Fin 16) (l : Fin 8) (e : Ecc) (s : State), (s.gbank b).wait.all (fun q => !gaccUses q l) = true →
    exec (.laneGrant b l [] e) s = .next s) ∧
  (∀ (x : GBank) (l : Nat) (g : GAcc), (∀ q ∈ x.wait, q.who < 9) → (∀ k, nth x.last k 8 < 9) → x.next l = some g →
    g ∈ x.wait ∧ gaccUses g l = true ∧
      (∀ q ∈ x.wait, gaccUses q l = true → (g.who + 8 - nth x.last l 8) % 9 ≤ (q.who + 8 - nth x.last l 8) % 9 ∨ q.pair = true) ∧
      (g.pair = true → ∀ q ∈ x.wait, ∀ k, gaccUses g k = true → k ≠ l → gaccUses q k = true →
        (g.who + 8 - nth x.last k 8) % 9 ≤ (q.who + 8 - nth x.last k 8) % 9)) ∧
  (∀ (b : Fin 16) (w : Fin 65536) (s : State), s.domOn (16 + b) = false ∨ (s.gbank b).wait.any (fun g => gaccUses g (laneOf w)) = true →
    exec (.correctedWriteback b w) s = .next s) ∧
  (∀ (b : Fin 16) (w : Fin 65536) (s : State), s.domOn (16 + b) = true → (s.gbank b).wait.all (fun g => !gaccUses g (laneOf w)) = true →
    ∃ t, exec (.correctedWriteback b w) s = .next t ∧ (∀ k, k ∈ (t.gbank b).fix ↔ k ∈ (s.gbank b).fix ∧ k ≠ w.val) ∧
      (w.val ∈ (s.gbank b).fix → t.eccAt (grnAddr b w) = .clean) ∧ s.keeps t [.gbank b, .pin (.ecc (grnAddr b w))]) ∧
  (∀ (m : Master) (b : Fin 16) (w : Word) (s : State), s.inDip = true → exec (.ownerWrite m b w) s = .next (s.stall (.ownerWrite m b w))) ∧
  (∀ (m : Master) (b : Fin 16) (w : Word) (s : State), s.inDip = false → s.storesOff = true → exec (.ownerWrite m b w) s = .next s) ∧
  (∀ (m : Master) (b : Fin 16) (w : Word) (s : State), s.canonical → s.storesOff = false → (∀ c, m = .core c → (s.cr c).buf = []) →
    (m = .link ∨ s.owner b = Master.who m ∨
        (s.grnPend b = false ∧ ∀ c : Fin 2, c.val = s.owner b → s.bufferedTo c b = false) →
      ∃ t, exec (.ownerWrite m b w) s = .next t ∧ t.owner b = w.toNat % 8 ∧ s.keeps t [.reg (F.grnOwnOwner b).addr]) ∧
    (m ≠ .link → s.owner b ≠ Master.who m → (s.grnPend b = true ∨ ∃ c : Fin 2, c.val = s.owner b ∧ s.bufferedTo c b = true) → exec (.ownerWrite m b w) s = .fault (.uncheckedUse 407)))

/-- R408, R409, R411, R413: the steps of the banks' states and of their upkeep.
Where the spec leaves a choice it speaks of the model's own: log entries 123, 126. -/
def Obligations.GranaryBankSteps : Prop :=
  ∀ (b : Fin 16) (s : State), s.canonical →
    (∀ (w : Word), s.inDip = true → exec (.bankStateWrite b w) s = .next (s.stall (.bankStateWrite b w))) ∧
    (∀ (w : Word), s.inDip = false → s.storesOff = true → exec (.bankStateWrite b w) s = .next s) ∧
    (∀ (w : Word), s.storesOff = false → s.domLocked (16 + b) = true →
      exec (.bankStateWrite b w) s = .next (if w.toNat % 4 = 0 then s.lockAccess else s)) ∧
    (∀ (w : Word), s.storesOff = false → s.domLocked (16 + b) = false → w.toNat % 4 = 1 ∨ w.toNat % 4 = 2 →
      ∃ t, exec (.bankStateWrite b w) s = .next t ∧ t.fld (F.grnBpwrState b) = w.toNat % 4 ∧
        (t.gbank b).down = some (if w.toNat % 4 = 1 then .ret else .off) ∧ s.keeps t [.reg (F.grnBpwrState b).addr, .gbank b]) ∧
    (∀ (w : Word), s.storesOff = false → s.domLocked (16 + b) = false → s.domOn (16 + b) = false → s.win.pathBad = false → w.toNat % 4 = 0 →
      ∃ t, exec (.bankStateWrite b w) s = .next t ∧ t.fld (F.grnBpwrState b) = 0 ∧ (nth t.pwr.dom (16 + b) {}).waking = true ∧
        (t.gbank b).wakeAt = s.count ∧ (t.gbank b).down = none ∧ s.keeps t [.reg (F.grnBpwrState b).addr, .gbank b, .dom (16 + b)]) ∧
    (∀ (w : Word), s.storesOff = false → w.toNat % 4 = 3 → exec (.bankStateWrite b w) s = .next s) ∧
    ((s.gbank b).down = none ∨ (s.gbank b).wait ≠ [] ∨ s.someStall (16 + b) = true ∨ (nth s.pwr.dom (16 + b) {}).waking = true ∨ s.inDip = true →
      exec (.bankPowerDown b) s = .next s) ∧
    ((nth s.pwr.dom (16 + b) {}).waking = false ∨ s.inDip = true →
      exec (.bankWakeComplete b) s = .next s ∧ exec (.bankWakeTimeout b) s = .next s) ∧
    (s.domOn (16 + b) = false ∨ s.fld F.grnScrubIntv = 0 → ∀ e, exec (.scrubRead b e) s = .next s) ∧
    (s.domOn (16 + b) = false ∨ (s.gbank b).copy = none ∨ (∃ l, (s.gbank b).copy = some (l, true)) → exec (.laneCopyComplete b) s = .next s) ∧
    (∀ q, (s.gbank b).down = some q → (s.gbank b).wait = [] → s.someStall (16 + b) = false → (nth s.pwr.dom (16 + b) {}).waking = false →
      s.inDip = false →
      ∃ t, exec (.bankPowerDown b) s = .next t ∧ (nth t.pwr.dom (16 + b) {}).st = q ∧ (t.gbank b).down = none ∧
        (q = .off → ∀ w, w < 65536 → t.mread (grnAddr b w) = TWord.nil0) ∧
        (∀ a, a / 4 < grnAddr b 0 / 4 ∨ grnAddr b 0 / 4 + 65536 ≤ a / 4 ∨ q ≠ .off → t.mread a = s.mread a) ∧
        (q = .off → ∀ w, w < 65536 → t.eccAt (grnAddr b w) = .clean) ∧
        (∀ a, a < grnAddr b 0 ∨ grnAddr b 0 + 0x40000 ≤ a ∨ q ≠ .off → t.pin (.ecc a) = s.pin (.ecc a)) ∧
        (∀ p, p ≠ .dom (16 + b) → p ≠ .gbank b → (∀ a, p ≠ .word a) → (∀ a, p ≠ .pin (.ecc a)) → s.same t p)) ∧
    ((nth s.pwr.dom (16 + b) {}).waking = true → s.inDip = false →
      ∃ t, exec (.bankWakeComplete b) s = .next t ∧ s.keeps t [.dom (16 + b)] ∧
        nth t.pwr.dom (16 + b) {} = { nth s.pwr.dom (16 + b) {} with st := .on, waking := false }) ∧
    ((nth s.pwr.dom (16 + b) {}).waking = true → s.inDip = false → (∀ g ∈ (s.gbank b).wait, s.mayUse g.who b = true) →
      ∃ u, exec (.bankWakeTimeout b) s = .next (u.raiseSource 21) ∧ u.bit F.grnStatWakef = true ∧ (u.gbank b).wakef = true ∧
        (u.gbank b).wait = [] ∧ (nth u.pwr.dom (16 + b) {}).waking = false ∧
        (∀ g ∈ (s.gbank b).wait, g.data = none → g.who < 9 → nth u.grn.got g.who TWord.nil0 = TWord.nil0) ∧
        u.count = max s.count ((s.gbank b).wakeAt + (if (nth s.pwr.dom (16 + b) {}).st = .ret then 10 else 60) * ticksPerUs) ∧
        (∀ c : Fin 2, (u.cr c).w = (s.cr c).w ∧ (u.cr c).pc = (s.cr c).pc) ∧
        s.keeps u [.count, .gbank b, .dom (16 + b), .grants, .core 0, .core 1, .reg F.grnStatWakef.addr]) ∧
    (∀ w, w = (s.gbank b).scrub → w < 65536 → s.domOn (16 + b) = true → s.fld F.grnScrubIntv ≠ 0 → (s.gbank b).wait = [] →
      s.eccAt (grnAddr b w) = .clean → ∃ t, exec (.scrubRead b .clean) s = .next t ∧
      t.gbank b = { s.gbank b with scrub := (w + 1) % 65536, last := updN (s.gbank b).last (laneOf w) (fun _ => 8) } ∧ s.keeps t [.gbank b]) ∧
    (∀ l, s.domOn (16 + b) = true → (s.gbank b).copy = some (l, false) → s.laneErrors b l = [] → ∃ t, exec (.laneCopyComplete b) s = .next t ∧
      t.gbank b = { s.gbank b with copy := some (l, true) } ∧ t.fld (F.grnLaneCopy b) = 0 ∧ s.keeps t [.gbank b, .reg (F.grnLaneCopy b).addr])

/-- R421, R422, R424 to R427: the five commands of the supplies complete.
Where the spec leaves a choice it speaks of the model's own: log entries 18, 130, 131, 132. -/
def Obligations.SupplyAndDipSteps : Prop :=
  (∀ (g : Fin 3) (mv : Int) (s : State),
    (62000 < mv → mv ≤ 80000 → ∃ u, exec (.groupOvervoltageOff g mv) s = .next u ∧ u.pin (.vbat g) = mv ∧
      u.grp g = { s.grp g with ovOff := true, ovF := true } ∧ u.groupOff g = true ∧ s.keeps u (.pin (.vbat g) :: .grp g :: (upto 24).map .led ++ (if g = 2 then (upto 4).map .vsIn else []))) ∧
    (80000 < mv → exec (.groupOvervoltageOff g mv) s = .fault (.uncheckedUse 423)) ∧
    (mv ≤ 62000 → exec (.groupOvervoltageOff g mv) s = .next (s.setPin (.vbat g) mv)) ∧
    (mv < 4500 → ∃ u, exec (.dipOff g mv) s = .next u ∧ u.pin (.vbat g) = mv ∧
      u.grp g = { s.grp g with dipOff := true, dipF := true } ∧ u.groupOff g = true ∧ s.keeps u (.pin (.vbat g) :: .grp g :: (upto 24).map .led ++ (if g = 2 then (upto 4).map .vsIn else []))) ∧
    (4500 ≤ mv → exec (.dipOff g mv) s = .next (s.setPin (.vbat g) mv))) ∧
  (∀ (g : Fin 3) (us : Nat) (powered : Bool) (s : State),
    (us < 1000 → exec (.reverseLatch g us powered) s = .next s) ∧
    (60000000 < us → exec (.reverseLatch g us powered) s = .fault (.uncheckedUse 424)) ∧
    (1000 ≤ us → us ≤ 60000000 → s.canonical → powered = true → ∃ u, exec (.reverseLatch g us true) s = .next (u.raiseSource 27) ∧
      u.grp g = { s.grp g with latch := true } ∧ (u.fld F.pwrRevGrp).testBit g = true ∧ s.keeps u [.grp g, .reg F.pwrRevGrp.addr]) ∧
    (1000 ≤ us → us ≤ 60000000 → powered = false → ∃ u, exec (.reverseLatch g us false) s = .next u ∧ u.grp g = { s.grp g with latch := true } ∧
      s.keeps u [.grp g])) ∧
  (∀ (mv : Int) (s : State),
    (mv < 4500 → s.inDip = false → ∃ u, exec (.logicDip mv) s = .next u ∧ u.pwr.pause = .dip s.count ∧ u.clocksRun = false ∧
      (u.grp 2).dipOff = true ∧ u.frm.frame = s.frm.frame ∧ u.frm.slot = s.frm.slot ∧ u.pending = s.pending ∧
      ((∀ d, d < 32 → (nth s.pwr.dom d {}).waking = false) → ∀ d, d ≠ 0 → d < 32 → (nth u.pwr.dom d {}).st =
        (if (nth s.pwr.dom d {}).st = .on then .ret else (nth s.pwr.dom d {}).st))) ∧
    (4500 ≤ mv ∨ s.inDip = true → exec (.logicDip mv) s = .next (s.setPin (.vbat 2) mv))) ∧
  (∀ (mv : Int) (us lock t : Nat) (s : State), s.pwr.pause = .dip t →
    (5000 < mv → us < 500000 → ∃ u, exec (.logicDipEnd mv us lock) s = State.replayAll s.pwr.stalled u ∧ u.pwr.stalled = [] ∧
      u.pwr.pause = .resume t false (some u.count) ∧ u.count = max s.count (t + (us + lock) * ticksPerUs) ∧
      u.clocksRun = !s.unpowered ∧ u.frm.frame = s.frm.frame ∧
      (∀ d, d ≠ 0 → d < 32 → (nth s.pwr.dom d {}).before = .on → (nth u.pwr.dom d {}).st = .on)) ∧
    (5000 < mv → us < 500000 → s.pwr.stalled = [] → ∃ u, exec (.logicDipEnd mv us lock) s = .next u ∧ u.pwr.pause = .resume t false (some u.count)) ∧
    (mv ≤ 5000 ∨ 500000 ≤ us → exec (.logicDipEnd mv us lock) s = .next (s.setPin (.vbat 2) mv))) ∧
  (∀ (mv : Int) (us lock : Nat) (s : State), s.inDip = false → exec (.logicDipEnd mv us lock) s = .next (s.setPin (.vbat 2) mv))

/-- R13, R264, R428, R429, R658: the seven commands that may reset complete. The words of the memory after it are the model's choice
of what a word that nothing has written reads as (log entry 13).
Where the spec leaves a choice it speaks of the model's own: log entries 13, 82, 133, 134. -/
def Obligations.PowerOnResets : Prop :=
  let resets := fun (s t : State) (bit : Nat) (keep : Bool) => t.frm.frame = 0 ∧ t.pending = s.pending ∧ t.sec.flash = s.sec.flash ∧
    t.fld F.pwrRcauseCause = ((if keep then s.fld F.pwrRcauseCause else 0) ||| 2 ^ bit) ∧ (∀ a, t.mread a = TWord.nil0) ∧
    (s.win.fhalt = true → t.win.fhalt = true)
  ∀ (u : Startup) (s : State),
    (∃ t, exec (.powerUp u) s = .next t ∧ resets s t 0 false) ∧
    (∀ mv : Int, mv < 3000 → s.inDip = false → ∃ t, exec (.lowSupply mv u) s = .next t ∧ resets s t 1 true) ∧
    (∀ mv : Int, 3000 ≤ mv ∨ s.inDip = true → exec (.lowSupply mv u) s = .next (s.setPin (.vbat 2) mv)) ∧
    (s.inDip = false → exec (.longDip u) s = .next s) ∧
    (∀ mv : Int, 5000 ≤ mv ∨ s.inDip = false → exec (.holdUpEmpty mv u) s = .next (s.setPin .vhold mv)) ∧
    (s.inDip = true → ∃ t, exec (.longDip u) s = .next t ∧ resets s t 2 true) ∧
    (∀ mv : Int, mv < 5000 → s.inDip = true → ∃ t, exec (.holdUpEmpty mv u) s = .next t ∧ resets s t 3 true) ∧
    (∃ t, exec (.brownOut u) s = .next t ∧ resets s t 4 true) ∧
    (∀ ns, 10000 ≤ ns → ∃ t, exec (.resetLand ns u) s = .next t ∧ resets s t 5 true) ∧
    (∀ ns, ns < 1000 → exec (.resetLand ns u) s = .next s) ∧
    (∀ ns, ∃ t, exec (.resetLand ns u) s = .next t ∧ (resets s t 5 true ∨ s.keeps t [.free])) ∧
    (∀ ms, s.win.fhalt = true → 130 < ms → ∃ t, exec (.classFEnd ms u) s = .next t ∧ resets { s with win := { s.win with fhalt := false } } t 6 true) ∧
    (∀ ms, s.win.fhalt = true → ∃ t, exec (.classFEnd ms u) s = .next t ∧
      (resets { s with win := { s.win with fhalt := false } } t 6 true ∨ s.keeps t [.free])) ∧
    (∀ ms, s.win.fhalt = false ∨ ms < 100 → exec (.classFEnd ms u) s = .next s)

/-- R243, R440 to R443, R472, R508, R522: the ten commands of the clocks and of parking complete.
Where the spec leaves a choice it speaks of the model's own: log entries 128, 140, 143. -/
def Obligations.ClockAndWakeSteps : Prop :=
  (∀ (us t : Nat) (s : State), s.pwr.pause = .parkWait t → ∃ u, exec (.parkEntry us) s = .next u ∧ u.pwr.pause = .parked u.count ∧
    u.count = max s.count (t + max 122 (min 153 us) * ticksPerUs) ∧ u.clocksRun = false ∧ s.keeps u [.count, .pause]) ∧
  (∀ (us : Nat) (s : State), (∀ t, s.pwr.pause ≠ .parkWait t) → exec (.parkEntry us) s = .next s) ∧
  (∀ (wup fec : List (Fin 2)) (hcs : Bool) (n : Fin 2) (m : CanMsg) (rate : Fin 4) (s : State), (∀ t, s.pwr.pause ≠ .parked t) →
    exec (.wakeRequest wup fec hcs) s = .next s ∧ exec (.selectiveWake n m rate) s = .next s) ∧
  (∀ (us lock : Nat) (s : State), (∀ t, s.pwr.pause ≠ .resume t true none) → exec (.pllLock us lock) s = .next s) ∧
  (∀ (wup fec : List (Fin 2)) (hcs : Bool) (t : Nat) (s : State), s.canonical → s.pwr.pause = .parked t →
    let can := fun (n : Fin 2) => decide ((s.fld F.pwrWsrcEn).testBit (2 + n) = true) &&
      (if s.wakeMode n then fec.contains n else wup.contains n)
    let src := s.levelWakes + (if can 0 then 16 else 0) + (if can 1 then 32 else 0) + (if hcs && (s.fld F.pwrWsrcEn).testBit 1 then 64 else 0)
    (src = 0 → exec (.wakeRequest wup fec hcs) s = .next s) ∧
    (src ≠ 0 → ∃ u, exec (.wakeRequest wup fec hcs) s = .next u ∧ u.pwr.pause = .resume t true none ∧ u.fld F.pwrWcauseSrc = src ∧
      s.keeps u [.pause, .reg F.pwrWcauseSrc.addr])) ∧
  (∀ (n : Fin 2) (m : CanMsg) (rate : Fin 4) (t : Nat) (s : State), s.canonical → s.pwr.pause = .parked t →
    let wakes := s.wakeMode n = true ∧ getBits (s.wakeWord n 0) 1 2 = rate.val ∧ (s.fld F.pwrWsrcEn).testBit (2 + n) = true ∧
      s.isWakeFrame n m = true
    (wakes → ∃ u, exec (.selectiveWake n m rate) s = .next u ∧ u.pwr.pause = .resume t true none ∧
      u.fld F.pwrWcauseSrc = s.levelWakes + 2 ^ (4 + n.val) ∧ s.keeps u [.pause, .reg F.pwrWcauseSrc.addr]) ∧
    (¬ wakes → exec (.selectiveWake n m rate) s = .next s)) ∧
  (∀ (us lock : Nat) (t : Int) (s : State), s.canonical → s.pwr.pause = .resume t true none → s.unpowered = false → s.tim.st ≠ 2 →
    -2 ^ 63 ≤ s.offset + 1000 * us → s.offset + 1000 * us < 2 ^ 63 →
    ∃ u, exec (.pllLock us lock) s = .next u ∧ u.count = s.count + lock * ticksPerUs ∧ u.offset = s.offset + 1000 * us ∧ u.clocksRun = true ∧
      u.pwr.pause = .resume (t - us * ticksPerUs) true (some u.count) ∧
      u.fld F.pwrAontCount = (if s.fld F.pwrAontCount = 0 ∨ s.pwr.aonStop = true then s.fld F.pwrAontCount
        else max 1 (s.fld F.pwrAontCount - aonCycles us)) ∧
      s.keeps u [.count, .pause, .reg F.timOffloOff.addr, .reg F.timOffhiOff.addr, .reg F.pwrAontCount.addr]) ∧
  (∀ (us lock : Nat) (t : Int) (s : State), s.pwr.pause = .resume t true none → s.unpowered = false → s.tim.st = 2 →
    ∃ u, exec (.pllLock us lock) s = .next u ∧ u.tim.st = 3 ∧ u.clocksRun = true) ∧
  (∀ (s : State), s.canonical →
    (s.fld F.pwrAontCount ≠ 0 → s.pwr.aonStop = false → ∃ u, exec .aonTimerExpire s = .next u ∧ u.fld F.pwrAontCount = 0 ∧
      u.bit F.pwrAontDone = true ∧ s.keeps u [.reg F.pwrAontDone.addr]) ∧
    (s.fld F.pwrAontCount = 0 ∨ s.pwr.aonStop = true → exec .aonTimerExpire s = .next s) ∧
    exec .pllUnlock s = .next (s.raiseSource 34) ∧ exec .allClocksLost s = .next (s.raiseSource 33) ∧
    exec .counterParityError s = .next (s.raiseSource 38) ∧
    (∃ u, exec .crystalStop s = .next (u.raiseSource 32) ∧ u.pwr.onRc = true ∧ s.keeps u [.pause]) ∧
    (∃ u, exec .aonClockStop s = .next (u.raiseSource 37) ∧ u.pwr.aonStop = true ∧ u.fld F.pwrAontCount = s.aonCount ∧
      s.keeps u [.pause, .reg F.pwrAontCount.addr]))

/-- R451, R453, R456, R458 to R461, R464: the eight commands complete. The objects' canonical order is a premise where an object's new
content is stated.
Where the spec leaves a choice it speaks of the model's own: log entries 145, 147, 150, 152, 154. -/
def Obligations.CanObjectSteps : Prop :=
  ∀ (n : Fin 6) (s : State), s.canonical → AMap.wf (fun _ => ({} : CanObj)) (s.cn n).objs = true →
    let empty := fun (m : Master) => ∀ c, m = .core c → (s.cr c).buf = []
    (s.storesOff = false → (s.cn n).run = .stopped → (s.cn n).estate = 0 → ∃ t, exec (.canRunStart n) s = .next t ∧ (t.cn n).run = .integrating ∧
      (t.cn n).tec = 0 ∧ (t.cn n).recv = 0 ∧ t.bit (F.canCtlRun n) = true ∧
      s.keeps t [.can n, .reg (F.canCtlRun n).addr, .reg (F.canNbtTseg2 n).addr, .reg (F.canDbtTseg2 n).addr, .reg (F.canTdcTdco n).addr,
        .reg (F.canSwkWdlc n).addr]) ∧
    (s.storesOff = false → (s.cn n).run = .stopping → (s.cn n).estate = 0 → ∃ t, exec (.canRunStart n) s = .next t ∧
      t.cn n = { s.cn n with tec := 0, recv := 0 } ∧ t.bit (F.canCtlRun n) = true ∧ s.keeps t [.can n, .reg (F.canCtlRun n).addr]) ∧
    (s.storesOff = false → (s.cn n).run = .integrating ∨ (s.cn n).run = .on ∨ ((s.cn n).run = .stopping ∧ (s.cn n).estate = 2) →
      ∃ t, exec (.canRunStart n) s = .next t ∧ t.cn n = s.cn n ∧ t.bit (F.canCtlRun n) = true ∧ s.keeps t [.reg (F.canCtlRun n).addr]) ∧
    (∀ busy, s.storesOff = false → ∃ t, exec (.canRunStop n busy) s = .next t ∧ t.bit (F.canCtlRun n) = false ∧
      t.cn n = { s.cn n with run := if (s.cn n).run = .stopped then .stopped
        else if ((s.cn n).tx.isSome || busy) && s.canRunning n then .stopping else .stopped } ∧
      s.keeps t [.can n, .pin (.canBusy n), .reg (F.canCtlRun n).addr]) ∧
    ((s.cn n).run ≠ .integrating ∨ s.domOn 9 = false → exec (.canIntegrated n) s = .next s) ∧
    ((s.cn n).run = .integrating → s.domOn 9 = true → ∃ t, exec (.canIntegrated n) s = .next t ∧ t.cn n = { s.cn n with run := .on } ∧
      s.keeps t [.can n]) ∧
    (∀ (o : Fin 256) (w : Word), s.storesOff = false → ∃ t, exec (.objcfgWrite n o w) s = .next t ∧ t.reg (F.canObjcfgEn n o).addr = w ∧ (t.cn n).obj o = {} ∧
      (∀ k, (t.cn n).locked o = false ∧ (k ≠ o.val → (t.cn n).obj k = (s.cn n).obj k)) ∧
      s.keeps t [.can n, .reg (F.canObjcfgEn n o).addr]) ∧
    (∀ (m : Master) (o : Fin 256), s.inDip = false → empty m →
      (s.domLocked 9 = false → s.domOn 9 = false → exec (.objectPortRead m n o) s = .next (s.demand 9) ∧
        ∀ w, s.storesOff = false → exec (.objectPortWrite m n o w) s = .next (s.demand 9)) ∧
      (s.domLocked 9 = true → exec (.objectPortRead m n o) s = .next (s.lockAccess.deliver m TWord.nil0))) ∧
    (∀ (m : Master) (o : Fin 256), s.inDip = false → empty m → s.domLocked 9 = false → s.domOn 9 = true →
      (∀ l, nth (s.cn n).locks (masterNum m) none = some l → l.obj = o.val) →
      let en := s.bit (F.canObjcfgEn n o)
      let dir := s.fld (F.canObjcfgDir n o)
      let who := masterNum m
      (en = true → dir = 0 → (s.cn n).lockedBy o who = false → nth (s.cn n).locks who none = none →
        ∃ t, exec (.objectPortRead m n o) s = .next t ∧
          nth t.got who TWord.nil0 = TWord.nat (s.fld (F.canObjcfgId n o) + 2 ^ 29 * s.fld (F.canObjcfgXtd n o)) ∧
          nth (t.cn n).locks who none = some ⟨o, 1, msgWords (((s.cn n).obj o).msg.getD {}), false, []⟩ ∧ s.keeps t [.can n, .got who]) ∧
      (∀ l, en = true → dir = 0 → (s.cn n).lockedBy o who = false → nth (s.cn n).locks who none = some l →
        (l.pos + 1 < l.size → ∃ t, exec (.objectPortRead m n o) s = .next t ∧ nth t.got who TWord.nil0 = s.objWord n o l.pos ∧
          nth (t.cn n).locks who none = some { l with pos := l.pos + 1 } ∧ s.keeps t [.can n, .got who]) ∧
        (l.size ≤ l.pos + 1 → ((s.cn n).obj o).shadow = none → ∃ t, exec (.objectPortRead m n o) s = .next t ∧
          nth t.got who TWord.nil0 = s.objWord n o l.pos ∧ nth (t.cn n).locks who none = none ∧
          (t.cn n).obj o = { (s.cn n).obj o with new := false, lost := false } ∧ s.keeps t [.can n, .got who])) ∧
      (en = true → dir = 0 → (s.cn n).lockedBy o who = true → ∃ t, exec (.objectPortRead m n o) s = .next t ∧
        nth t.got who TWord.nil0 = TWord.nil0 ∧ t.bit (F.canStatLockcol n) = true ∧ s.keeps t [.got who, .reg (F.canStatLockcol n).addr]) ∧
      (en = false ∨ dir ≠ 0 → ∃ t, exec (.objectPortRead m n o) s = .next t ∧ nth t.got who TWord.nil0 = TWord.nil0 ∧
        t.bit (F.canStatPorterr n) = true ∧ s.keeps t [.got who, .reg (F.canStatPorterr n).addr]) ∧
      (∀ w : Word, s.storesOff = false → en = true → dir = 1 → (s.cn n).lockedBy o who = false → nth (s.cn n).locks who none = none →
        ∃ t, exec (.objectPortWrite m n o w) s = .next t ∧ nth (t.cn n).locks who none = some ⟨o, 1, 2, true, [w]⟩ ∧
          (t.cn n).obj o = (s.cn n).obj o ∧ s.keeps t [.can n]) ∧
      (∀ (w : Word) (l : CanLock), s.storesOff = false → en = true → dir = 1 → (s.cn n).lockedBy o who = false → nth (s.cn n).locks who none = some l → 1 < l.pos →
        l.size ≤ l.pos + 1 → ∃ t, exec (.objectPortWrite m n o w) s = .next t ∧ nth (t.cn n).locks who none = none ∧
          ((t.cn n).obj o).pend = true ∧ ((t.cn n).obj o).msg =
            some (canMsgOf (s.fld (F.canObjcfgId n o)) (s.bit (F.canObjcfgXtd n o)) (w :: l.words).reverse) ∧ s.keeps t [.can n])) ∧
    (∀ (m : Master) (l : CanLock), s.storesOff = false → empty m → nth (s.cn n).locks (masterNum m) none = some l → l.write = true ∨ ((s.cn n).obj l.obj).shadow = none →
      ∃ t, exec (.lckrel m n) s = .next t ∧ nth (t.cn n).locks (masterNum m) none = none ∧ (t.cn n).objs = (s.cn n).objs ∧ s.keeps t [.can n]) ∧
    (∀ m : Master, s.storesOff = false → empty m → nth (s.cn n).locks (masterNum m) none = none → exec (.lckrel m n) s = .next s) ∧
    (s.storesOff = false → ∃ t, exec (.qack n) s = .next t ∧ t.cn n = { s.cn n with queue := (s.cn n).queue.drop 1 } ∧ s.keeps t [.can n]) ∧
    (s.inDip = false → s.storesOff = true → exec (.canRunStart n) s = .next s ∧ exec (.qack n) s = .next s ∧ (∀ busy, exec (.canRunStop n busy) s = .next s) ∧
      ∀ (m : Master) (o : Fin 256) (w : Word), exec (.objectPortWrite m n o w) s = .next s ∧ exec (.objcfgWrite n o w) s = .next s ∧
        exec (.lckrel m n) s = .next s) ∧
    (s.inDip = true → exec (.canRunStart n) s = .next (s.stall (.canRunStart n)) ∧ exec (.qack n) s = .next (s.stall (.qack n)) ∧
      (∀ busy, exec (.canRunStop n busy) s = .next (s.stall (.canRunStop n busy))) ∧
      ∀ (m : Master) (o : Fin 256) (w : Word), exec (.objectPortWrite m n o w) s = .next (s.stall (.objectPortWrite m n o w)) ∧
        exec (.objcfgWrite n o w) s = .next (s.stall (.objcfgWrite n o w)) ∧ exec (.lckrel m n) s = .next (s.stall (.lckrel m n)) ∧
        exec (.objectPortRead m n o) s = .next (s.stall (.objectPortRead m n o)))

/-- R454, R457, R462 to R467, R469: the seven commands complete.
Where the spec leaves a choice it speaks of the model's own: log entries 148, 149, 151, 156, 169, 170. -/
def Obligations.CanTrafficSteps : Prop :=
  ∀ (n : Fin 6) (s : State), s.canonical → AMap.wf (fun _ => ({} : CanObj)) (s.cn n).objs = true →
    let c := s.cn n
    let mode := s.fld (F.canCtlMode n)
    let calm := c.estate = 0 ∧ c.tec < 128 ∧ c.recv < 128
    (s.canRunning n = true → c.run = .on → c.tx = none → mode = 0 ∨ mode = 3 → ∀ src m, c.winner = some (src, m) → src ≠ .nm →
      ∃ t, exec (.canTxStart n) s = .next t ∧ s.keeps t [.can n] ∧
        t.cn n = { c with tx := some (src, { m with esi := m.fdf && decide (c.estate = 1) }), newer := false }) ∧
    (s.canRunning n = true → c.run = .on → c.tx = none → mode = 0 ∨ mode = 3 → ∀ m, c.winner = some (.nm, m) →
      ∃ t m1, exec (.canTxStart n) s = .next t ∧ t.cn n = { c with tx := some (.nm, m1), newer := false } ∧ m1.id = m.id ∧ s.keeps t [.can n]) ∧
    (s.canRunning n = false ∨ c.run ≠ .on ∨ c.tx ≠ none ∨ (mode ≠ 0 ∧ mode ≠ 3) ∨ c.winner = none → exec (.canTxStart n) s = .next s) ∧
    (∀ src m, c.winner = some (src, m) → (src, m) ∈ c.pending ∧ ∀ q ∈ c.pending, msgRank m ≤ msgRank q.2) ∧
    (c.tx = none → exec (.canTxSuccess n) s = .next s ∧ ∀ e more, exec (.canTxError n e more) s = .next s) ∧
    (∀ src m, c.tx = some (src, m) → src = .permit ∨ src = .nm → mode = 0 → calm → c.run = .on → ∃ t, exec (.canTxSuccess n) s = .next t ∧
      (t.cn n).tx = none ∧ (t.cn n).fr.tx = c.fr.tx + 1 ∧ (t.cn n).objs = c.objs ∧ (t.cn n).tec = c.tec - 1 ∧
      (t.cn n).permit = (if src = .permit ∧ c.newer = false then none else c.permit) ∧
      (t.cn n).nm = (if src = .nm ∧ c.newer = false then none else c.nm) ∧
      (src = .nm → t.nm.seq = (s.nm.seq + 1) % 256 ∧ t.nm.sent = s.nm.sent + 1) ∧ (src = .permit → t.nm = s.nm) ∧
      s.keeps t [.can n, .nm, .pin (.canBusy n)]) ∧
    (∀ o m, c.tx = some (.obj o, m) → s.canEvo n o = false → mode = 0 → calm → c.run = .on →
      ∃ t, exec (.canTxSuccess n) s = .next t ∧ (t.cn n).tx = none ∧ ((t.cn n).obj o).pend = (if c.newer then (c.obj o).pend else false) ∧ ((t.cn n).obj o).msg = (c.obj o).msg ∧
        (t.cn n).tec = c.tec - 1 ∧ (t.cn n).recv = c.recv ∧ (t.cn n).ackerr = 0 ∧ (t.cn n).lone = false ∧ (t.cn n).fr.tx = c.fr.tx + 1 ∧
        s.keeps t [.can n, .pin (.canBusy n)]) ∧
    (∀ src m, c.tx = some (src, m) → mode = 0 → c.run = .on →
      (calm → ∃ t, exec (.canTxError n .arbitration 0) s = .next t ∧ (t.cn n).tx = none ∧ (t.cn n).objs = c.objs ∧ (t.cn n).tec = c.tec ∧
        s.keeps t [.can n, .pin (.canBusy n)]) ∧
      (calm → ∀ more, c.tec + 8 + 8 * more < 128 → ∃ t, exec (.canTxError n .other more) s = .next t ∧ (t.cn n).tx = none ∧
        (t.cn n).objs = c.objs ∧ (t.cn n).tec = c.tec + 8 + 8 * more ∧ (t.cn n).estate = 0 ∧ s.keeps t [.can n, .pin (.canBusy n)]) ∧
      (calm → ∀ dom more, c.tec + 8 + 8 * more < 128 → c.ackerr < 63 → ∃ t, exec (.canTxError n (.ack dom) more) s = .next t ∧ (t.cn n).tx = none ∧
        (t.cn n).objs = c.objs ∧ (t.cn n).tec = c.tec + 8 + 8 * more ∧ (t.cn n).ackerr = c.ackerr + 1 ∧ s.keeps t [.can n, .pin (.canBusy n)]) ∧
      (c.tec ≤ 255 → 255 < c.tec + 8 → ∃ t, exec (.canTxError n .other 0) s = .next t ∧ (t.cn n).estate = 2 ∧ (t.cn n).tx = none ∧
        ((t.cn n).recovering = s.bit (F.canCtlAutorec n) ∨ c.estate = 2))) ∧
    (s.storesOff = false → c.estate = 2 → ∃ t, exec (.recover n) s = .next t ∧ t.cn n = { c with recovering := true } ∧ s.keeps t [.can n]) ∧
    (s.inDip = false → s.storesOff = true ∨ c.estate ≠ 2 → exec (.recover n) s = .next s) ∧
    (s.inDip = true → exec (.recover n) s = .next (s.stall (.recover n))) ∧
    (c.estate ≠ 2 ∨ c.recovering = false ∨ c.run = .stopped ∨ s.domOn 9 = false → exec (.busOffRecovery n) s = .next s) ∧
    (∀ m res, s.canRunning n = false ∨ msgValid m = false ∨ mode = 3 → exec (.canFrameReceived n m res) s = .next s) ∧
    (∀ heavy, s.canRunning n = false ∨ c.tx ≠ none → exec (.canBusError n heavy) s = .next s) ∧
    (c.estate = 2 → c.recovering = true → c.run ≠ .stopped → s.domOn 9 = true → ∃ t, exec (.busOffRecovery n) s = .next t ∧
      (t.cn n).estate = 0 ∧ (t.cn n).tec = 0 ∧ (t.cn n).recv = 0 ∧ (t.cn n).recovering = false ∧ (t.cn n).objs = c.objs) ∧
    (∀ m, s.canRunning n = true → msgValid m = true → mode ≠ 3 → n.val ≠ s.nmPort → mode = 0 → calm → c.run = .on →
      (∀ o, s.canObjectFor n m = some o → c.locked o = false → s.canEvo n o = false →
        ∃ t, exec (.canFrameReceived n m false) s = .next t ∧
          (t.cn n).obj o = { c.obj o with msg := some m, lost := (c.obj o).lost || (c.obj o).new, new := true } ∧
          (t.cn n).recv = c.recv - 1 ∧ (t.cn n).ackerr = 0 ∧ (t.cn n).fr.rx = c.fr.rx + 1 ∧ (t.cn n).fr.lost = c.fr.lost + b2n (c.obj o).new ∧
          s.keeps t [.can n, .pin (.canBusy n), .free]) ∧
      (s.canObjectFor n m = none → s.canFilter n m = true → c.queue ≠ [] → c.queue.length < 64 →
        ∃ t, exec (.canFrameReceived n m false) s = .next t ∧ (t.cn n).queue = c.queue ++ [m] ∧ (t.cn n).objs = c.objs ∧
          (t.cn n).fr.rx = c.fr.rx + 1 ∧ s.keeps t [.can n, .pin (.canBusy n), .free]) ∧
      (s.canObjectFor n m = none → s.canFilter n m = true → 64 ≤ c.queue.length →
        ∃ t, exec (.canFrameReceived n m false) s = .next t ∧ (t.cn n).queue = c.queue ∧ (t.cn n).fr.qdrop = c.fr.qdrop + 1 ∧
          t.bit (F.canStatQovf n) = true) ∧
      (s.canObjectFor n m = none → s.canFilter n m = false →
        ∃ t, exec (.canFrameReceived n m false) s = .next t ∧ (t.cn n).queue = c.queue ∧ (t.cn n).objs = c.objs ∧
          s.keeps t [.can n, .pin (.canBusy n), .free])) ∧
    (∀ m, s.canRunning n = true → msgValid m = true → mode ≠ 3 → m.fdf = true → s.bit (F.canCtlPex n) = true → c.run = .on →
      ∃ t, exec (.canFrameReceived n m true) s = .next t ∧ t.cn n = { c with run := .integrating } ∧ t.bit (F.canStatPexc n) = true ∧
        s.keeps t [.can n, .reg (F.canStatPexc n).addr]) ∧
    (∀ m, s.canRunning n = true → msgValid m = true → n.val = s.nmPort → mode = 0 → calm → c.run = .on → s.bit F.nmCfgEn = true →
      s.canObjectFor n m = none → s.canFilter n m = false →
      let base := s.nmCfg F.nmCfgBase
      let node := m.data.getD 0 0 % 64
      let ctl := m.data.getD 1 0
      let named := m.xtd = false ∧ base ≤ m.id ∧ m.id ≤ base + 63
      let right := m.rtr = false ∧ m.fdf = false ∧ m.len = 8 ∧ ctl / 16 % 16 = 1 ∧ node = m.id - base ∧ node ≠ s.nmCfg F.nmCfgNode
      (named → right → ∃ t r, exec (.canFrameReceived n m false) s = .next t ∧ t.nm = { s.nm with traffic := true, rx := s.nm.rx ++ [r] } ∧
        r.node = node ∧ r.req = ctl.testBit 0 ∧ r.wake = ctl.testBit 1 ∧ r.gts = ctl.testBit 2 ∧ s.keeps t [.can n, .nm, .pin (.canBusy n), .free]) ∧
      (named → ¬ right → ∃ t, exec (.canFrameReceived n m false) s = .next t ∧ t.nm = { s.nm with traffic := true } ∧ t.bit F.nmStatBadfrm = true ∧
        s.keeps t [.can n, .nm, .reg F.nmStatBadfrm.addr, .pin (.canBusy n), .free]) ∧
      (¬ named → ∃ t, exec (.canFrameReceived n m false) s = .next t ∧ t.nm = { s.nm with traffic := true } ∧
        s.keeps t [.can n, .nm, .pin (.canBusy n), .free])) ∧
    (∀ heavy, s.canRunning n = true → c.tx = none → mode = 0 → calm → c.run = .on → c.recv + 1 + 8 * heavy < 128 →
      ∃ t, exec (.canBusError n heavy) s = .next t ∧ (t.cn n).recv = c.recv + 1 + 8 * heavy ∧ (t.cn n).tec = c.tec ∧
        s.keeps t [.can n, .pin (.canBusy n)])

/-- R477 to R482, R488, R498: the ten LIN commands and the two of NM complete.
Where the spec leaves a choice it speaks of the model's own: log entries 157, 158, 159, 160, 161, 163, 171. -/
def Obligations.LinAndNmSteps : Prop :=
  (∀ (m : Fin 4) (s : State), s.canonical → s.linActive m = true →
    let x := s.ln m
    let still := (s.fld (F.linEvenCause m)) = 0 ∧ (s.fld (F.linWcfgEn m)) = 0
    (∀ id : Fin 64, s.storesOff = false → s.fld (F.linCfgRole m) = 1 →
      (s.linBusy m = true → ∃ t, exec (.linHeaderSend m id) s = .next t ∧ t.bit (F.linStatHdrrej m) = true ∧
        s.keeps t [.reg (F.linStatHdrrej m).addr]) ∧
      (s.linBusy m = false → x.busDom = true → exec (.linHeaderSend m id) s = .next s) ∧
      (s.linBusy m = false → x.busDom = false → ∃ t, exec (.linHeaderSend m id) s = .next t ∧ s.keeps t [.lin m] ∧
        t.ln m = { x with cur := if s.linDir m id = 0 then none else some id.val, first := none, idle := false, hdrId := id
                          hdrEnd := s.count + s.linBits m (s.fld (F.linCfgBrk m) + 21) })) ∧
    (∀ (id : Fin 64) (rate : Nat), s.fld (F.linCfgRole m) = 0 →
      let near := 86 * s.fld (F.linCfgRate m) ≤ 100 * rate ∧ 100 * rate ≤ 114 * s.fld (F.linCfgRate m)
      (near → ∃ t, exec (.linHeaderReceived m id rate true) s = .next t ∧ s.keeps t [.lin m] ∧
        t.ln m = { x with cur := if s.linDir m id = 0 then none else some id.val, first := none, idle := false }) ∧
      (∀ good, ¬ near ∨ good = false → still → ∃ t, exec (.linHeaderReceived m id rate good) s = .next t ∧
        t.bit (F.linLerrFrerr m) = true ∧ t.fld (F.linLerrLid m) = id.val ∧
        t.ln m = { x with cur := none, err := x.err + 1, idle := false } ∧ s.keeps t [.lin m, .reg (F.linLerrFrerr m).addr])) ∧
    (∀ (id : Nat) (data : List Nat) (cks : Nat), x.cur = some id → id < 64 → s.linDir m id = 1 → data.length = s.linLen m id →
      (∀ b ∈ data, b < 256) → still →
      (cks = s.linCks m id data → ∃ t, exec (.linResponseReceived m data cks false) s = .next t ∧
        (∀ i, i < data.length → (t.linData m id).getD i 0 = data.getD i 0) ∧ t.fld (F.linBstatLen m id) = data.length ∧
        t.ln m = { x with cur := none, rx := x.rx + 1, stored := x.stored ||| (1#64 <<< id), idle := false } ∧
        s.keeps t [.lin m, .reg (0x40140400 + 0x1000 * m.val + 16 * id), .reg (0x40140400 + 0x1000 * m.val + 16 * id + 4),
          .reg (F.linBstatLen m id).addr]) ∧
      (cks ≠ s.linCks m id data → ∃ t, exec (.linResponseReceived m data cks false) s = .next t ∧ t.bit (F.linLerrCkerr m) = true ∧
        t.fld (F.linLerrLid m) = id ∧ t.ln m = { x with cur := none, err := x.err + 1 } ∧ s.keeps t [.lin m, .reg (F.linLerrCkerr m).addr]) ∧
      (∃ t, exec (.linResponseReceived m data cks true) s = .next t ∧ t.bit (F.linLerrFrerr m) = true ∧
        t.ln m = { x with cur := none, err := x.err + 1 } ∧ s.keeps t [.lin m, .reg (F.linLerrFrerr m).addr]) ∧
      (∃ t, exec (.linNoResponse m) s = .next t ∧ t.bit (F.linLerrNoresp m) = true ∧ t.ln m = { x with cur := none, err := x.err + 1 } ∧
        s.keeps t [.lin m, .reg (F.linLerrNoresp m).addr])) ∧
    (∀ data cks framing, (∀ id, x.cur = some id → s.linDir m id ≠ 1 ∨ data.length ≠ s.linLen m id) →
      exec (.linResponseReceived m data cks framing) s = .next s) ∧
    (∀ id : Nat, x.cur = some id → s.linDir m id = 2 → x.busDom = false → still →
      let d := (x.first.getD (s.linData m id)).take (s.linLen m id)
      (∃ t, exec (.linResponseSent m false) s = .next t ∧ s.keeps t [.lin m] ∧
        t.ln m = { x with cur := none, tx := x.tx + 1, sent := d ++ [s.linCks m id d], idle := false }) ∧
      (s.linHeading m = false → ∃ t, exec (.linResponseSent m true) s = .next t ∧ t.bit (F.linLerrFrerr m) = true ∧
        t.ln m = { x with cur := none, err := x.err + 1 } ∧ s.keeps t [.lin m, .reg (F.linLerrFrerr m).addr])) ∧
    (x.busDom = false → s.linHeading m = true → still → ∃ t, exec (.linResponseSent m true) s = .next t ∧ t.bit (F.linLerrFrerr m) = true ∧
      t.fld (F.linLerrLid m) = x.hdrId % 2 ^ (F.linLerrLid m).width ∧
      t.ln m = { x with cur := none, err := x.err + 1, hdrEnd := 0 } ∧ s.keeps t [.lin m, .reg (F.linLerrFrerr m).addr]) ∧
    (∀ e, s.linHeading m = false → (∀ id, x.cur = some id → s.linDir m id ≠ 2) ∨ x.busDom = true → exec (.linResponseSent m e) s = .next s) ∧
    ((∀ id, x.cur = some id → s.linDir m id ≠ 1) → exec (.linNoResponse m) s = .next s) ∧
    (x.busDom = true → exec (.linBusDominant m) s = .next s) ∧
    (s.linBusy m = true → exec (.linIdle m) s = .next s) ∧
    (x.busDom = false → ∃ u, exec (.linBusDominant m) s = .next (u.raiseSource 159) ∧ s.keeps u [.lin m] ∧
      u.ln m = { x with busDom := true, idle := false, pulse := none }) ∧
    (∃ t, exec (.linBusRelease m) s = .next t ∧ t.ln m = { x with busDom := false } ∧ s.keeps t [.lin m]) ∧
    (s.storesOff = false → x.busDom = false → ∃ t, exec (.linWakeSend m) s = .next t ∧ s.keeps t [.lin m] ∧
      t.ln m = { x with pulse := some (s.count + 1000 * ticksPerUs), idle := false }) ∧
    (∀ us, s.linBusy m = false → 150 ≤ us → us ≤ 5000 → still → ∃ t, exec (.linWakeReceived m us) s = .next t ∧
      t.bit (F.linStatWakerx m) = true ∧ t.ln m = { x with wakerx := true, idle := false } ∧ s.keeps t [.lin m, .reg (F.linStatWakerx m).addr]) ∧
    (∀ us, 0 < us → us < 150 ∨ 5000 < us ∨ s.linBusy m = true → ∃ t, exec (.linWakeReceived m us) s = .next t ∧
      t.ln m = { x with idle := false } ∧ s.keeps t [.lin m]) ∧
    (s.linBusy m = false → ∃ t, exec (.linIdle m) s = .next t ∧ t.ln m = { x with idle := true, pulse := none } ∧ s.keeps t [.lin m])) ∧
  (∀ (m : Fin 4) (id : Fin 64) (rate us : Nat) (good e framing : Bool) (data : List Nat) (cks : Nat) (s : State), s.linActive m = false →
    exec (.linHeaderReceived m id rate good) s = .next s ∧ exec (.linResponseReceived m data cks framing) s = .next s ∧
    exec (.linResponseSent m e) s = .next s ∧ exec (.linNoResponse m) s = .next s ∧ exec (.linBusDominant m) s = .next s ∧
    exec (.linWakeReceived m us) s = .next s ∧ exec (.linIdle m) s = .next s ∧
    (s.inDip = false → exec (.linHeaderSend m id) s = .next s ∧ exec (.linWakeSend m) s = .next s)) ∧
  (∀ (m : Fin 4) (id : Fin 64) (s : State),
    (s.inDip = true → exec (.linHeaderSend m id) s = .next (s.stall (.linHeaderSend m id)) ∧
      exec (.linWakeSend m) s = .next (s.stall (.linWakeSend m)) ∧ exec .nclr s = .next (s.stall .nclr)) ∧
    (s.inDip = false → s.storesOff = true → exec (.linHeaderSend m id) s = .next s ∧ exec (.linWakeSend m) s = .next s ∧ exec .nclr s = .next s)) ∧
  (∀ s : State, s.nm.call = true → s.bit F.nmCfgEn = true →
    let at_ := s.advance (s.frm.edgeAt + 2 * ticksPerUs)
    let c := s.cn s.nmPort
    ∃ t, exec .nmFrameSend s = .next t ∧ t.nm = { s.nm with call := false } ∧ t.count = max s.count (s.frm.edgeAt + 2 * ticksPerUs) ∧
      t.cn s.nmPort = { c with
        nm := some { id := s.nmCfg F.nmCfgBase + s.nmCfg F.nmCfgNode, len := 8, data := at_.nmBytes s.nm.callGts }
        newer := c.newer || (match c.tx with | some (.nm, _) => true | _ => false) } ∧
      s.keeps t [.nm, .count, .can s.nmPort]) ∧
  (∀ s : State, s.nm.call = false ∨ s.bit F.nmCfgEn = false → exec .nmFrameSend s = .next s) ∧
  (∀ s : State, s.storesOff = false → ∃ t, exec .nclr s = .next t ∧ s.keeps t [.nm] ∧ ∀ i, i < 64 →
    t.nm.nodeOf i = { s.nm.nodeOf i with keep := 0, wakes := 0 })

/-- R503, R505, R511, R513 to R517, R523: the fifteen commands of the links and of network time complete.
Where the spec leaves a choice it speaks of the model's own: log entries 174, 177, 178, 181, 182, 183, 185. -/
def Obligations.EthernetAndTimeSteps : Prop :=
  (∀ (p : Fin 2) (s : State),
    (∀ far, s.bit (F.ethPcfgEn p) = true → s.domOn 11 = true → far ≠ s.bit (F.ethPcfgMs p) →
      ∃ u, exec (.ethLinkUp p far) s = .next (if (s.eport p).link then u else u.linkEvent p) ∧
        u.eport p = { s.eport p with link := true, role := s.bit (F.ethPcfgMs p) } ∧ s.keeps u [.eth]) ∧
    (∀ far, s.bit (F.ethPcfgEn p) = false ∨ s.domOn 11 = false ∨ far = s.bit (F.ethPcfgMs p) → exec (.ethLinkUp p far) s = .next s) ∧
    ((s.eport p).link = false → exec (.ethLinkDown p) s = .next s ∧ exec (.ethFrameEgress p) s = .next s) ∧
    (s.domOn 11 = false ∨ (∀ c, nth (s.eport p).q c [] = []) → exec (.ethFrameEgress p) s = .next s) ∧
    (s.canonical → (s.eport p).link = true →
      ∃ u, exec (.ethLinkDown p) s = .next (if s.bit (F.ethPcfgEn p) then (u.raiseSource (160 + p)).linkEvent p else u) ∧
        (u.eport p).link = false ∧ (u.eport p).lost = true ∧
        (∀ c, nth (u.eport p).q c [] = []) ∧ (u.fld F.ethStatLdn).testBit p = true ∧ s.keeps u [.eth, .reg F.ethStatLdn.addr]) ∧
    (∀ (f : EthQ) (l : List EthQ) (c : Nat), s.domOn 11 = true → (s.eport p).link = true → c < 4 → nth (s.eport p).q c [] = f :: l →
      (∀ k, c < k → nth (s.eport p).q k [] = []) → frType f.bytes ≠ 0x88F7 → f.delayReq = false →
      ∃ t, exec (.ethFrameEgress p) s = .next t ∧ (t.eport p).out = f.bytes ∧ (t.eport p).tx = (s.eport p).tx + 1 ∧
        (s.bal.frags = [] → nth (t.eport p).q c [] = l ∧ (∀ k, k ≠ c → nth (t.eport p).q k [] = nth (s.eport p).q k []) ∧
          s.keeps t [.eth]))) ∧
  (∀ (r : Residence) (l : List Residence) (s : State), s.ptp.residences = r :: l → ∃ t, exec .followUpTimeout s = .next t ∧
    t.ptp = { s.ptp with residences := l } ∧ t.count = max s.count (r.at_ + 600000000) ∧ s.keeps t [.ptp, .count]) ∧
  (∀ (s : State), s.ptp.residences = [] → exec .followUpTimeout s = .next s) ∧
  (∀ (s : State), s.ptp.parent = none ∨ s.domOn 12 = false ∨ s.timSrc ≠ 1 → exec .delayReqSend s = .next s) ∧
  (∀ (f : Foreign) (s : State), s.ptp.parent = some f → s.domOn 12 = true → s.timSrc = 1 → s.ethLive f.port = true →
    (∀ c, nth (s.eport f.port).q c [] = []) → ∃ t c q, exec .delayReqSend s = .next t ∧ nth (t.eport f.port).q c [] = [q] ∧
      q.delayReq = true ∧ q.inPort = 2 ∧ q.inAt = s.count ∧ t.ptp = { s.ptp with reqSeq := (s.ptp.reqSeq + 1) % 65536, t3 := none } ∧
      s.keeps t [.ptp, .eth]) ∧
  (∀ (s : State),
    (s.timSrc = 1 → s.ptp.parent.isSome = true → ∃ t, exec .ptpSourceLost s = .next t ∧ t.ptp.parent = none ∧
      t.tim.st = (match s.tim.st with | 1 => 0 | 2 => 3 | x => x)) ∧
    (s.timSrc = 2 → s.tim.pps.isSome = true → ∃ t, exec .ptpSourceLost s = .next t ∧ t.tim.pps = none ∧
      t.tim.st = (match s.tim.st with | 1 => 0 | 2 => 3 | x => x)) ∧
    ((s.timSrc = 1 ∧ s.ptp.parent = none) ∨ (s.timSrc = 2 ∧ s.tim.pps = none) → ∃ t, exec .ptpSourceLost s = .next t ∧
      t.tim.st = (match s.tim.st with | 1 => 0 | 2 => 3 | x => x) ∧ t.ptp = s.ptp ∧ t.count = s.count) ∧
    (s.timSrc = 0 → exec .ptpSourceLost s = .next s)) ∧
  (∀ (m : Master) (w : Word) (s : State),
    (s.inDip = true → exec (.tloRead m) s = .next (s.stall (.tloRead m)) ∧ exec (.cntloRead m) s = .next (s.stall (.cntloRead m)) ∧
      exec (.nrateloWrite w) s = .next (s.stall (.nrateloWrite w)) ∧ exec (.noffloWrite w) s = .next (s.stall (.noffloWrite w)) ∧
      exec (.almloWrite w) s = .next (s.stall (.almloWrite w))) ∧
    (s.inDip = false → s.storesOff = true → exec (.nrateloWrite w) s = .next s ∧ exec (.noffloWrite w) s = .next s ∧
      exec (.almloWrite w) s = .next s)) ∧
  (∀ (m : Master) (s : State), s.inDip = false →
    (∃ t, exec (.tloRead m) s = .next t ∧ nth t.got (masterNum m) TWord.nil0 = ⟨Tag.nat, BitVec.ofInt 32 s.timeNow⟩ ∧
      nth t.tim.thi (masterNum m) 0 = BitVec.ofInt 32 (s.timeNow / 2 ^ 32) ∧
      (∀ k, k ≠ masterNum m → nth t.tim.thi k 0 = nth s.tim.thi k 0) ∧ s.keeps t [.tim, .got (masterNum m)]) ∧
    (∃ t, exec (.cntloRead m) s = .next t ∧ nth t.got (masterNum m) TWord.nil0 = ⟨Tag.nat, BitVec.ofNat 32 s.count⟩ ∧
      nth t.tim.cnthi (masterNum m) 0 = BitVec.ofNat 32 (s.count / 2 ^ 32) ∧ s.keeps t [.tim, .got (masterNum m)])) ∧
  (∀ (w : Word) (s : State), s.storesOff = false →
    (∃ t, exec (.nrateloWrite w) s = .next t ∧ .fw F.timNrateloRate.addr w (s.past 2) ∈ t.frm.held ∧ s.keeps t [.held, .tim] ∧
      t.tim = { s.tim with nrateHi := s.lastWritten F.timNratehiRate.addr } ∧ ∀ v, v ≠ w → .fw F.timNrateloRate.addr v (s.past 2) ∉ t.frm.held) ∧
    (∃ t, exec (.noffloWrite w) s = .next t ∧ .fw F.timNoffloOff.addr w (s.past 2) ∈ t.frm.held ∧ s.keeps t [.held, .tim] ∧
      t.tim = { s.tim with noffHi := s.lastWritten F.timNoffhiOff.addr } ∧ ∀ v, v ≠ w → .fw F.timNoffloOff.addr v (s.past 2) ∉ t.frm.held) ∧
    (s.canonical → ∃ t, exec (.almloWrite w) s = .next t ∧ t.fld F.timAlmloT = w.toNat ∧
      t.tim.alarm = some (BitVec.ofNat 64 (w.toNat + 2 ^ 32 * s.fld F.timAlmhiT)) ∧ s.keeps t [.tim, .reg F.timAlmloT.addr])) ∧
  (∀ (s : State),
    (s.bit F.timPpsOuten = true → s.domOn 12 = true →
      let sec := (s.timeNow + 999999999) / 1000000000 * 1000000000
      ∃ t, exec .ppsOutPulse s = .next t ∧ t.count = max s.count (s.countFor sec) ∧
        t.tim.ppsEnd = some (s.countFor (sec + 1000000 * (max 1 (min 500 (s.fld F.timPpsWid)) : Nat))) ∧ s.keeps t [.tim, .count]) ∧
    (s.bit F.timPpsOuten = false ∨ s.domOn 12 = false → exec .ppsOutPulse s = .next s) ∧
    (∀ e, s.tim.ppsEnd = some e → ∃ t, exec .ppsOutPulseEnd s = .next t ∧ t.tim.ppsEnd = none ∧ t.count = max s.count e ∧
      s.keeps t [.tim, .count]) ∧
    (s.tim.ppsEnd = none → exec .ppsOutPulseEnd s = .next s) ∧
    (∀ rising, rising ≠ s.bit F.timPpsInpol → s.domOn 12 = true → s.timSrc ≠ 2 → s.canonical →
      ∃ u, exec (.ppsInEdge rising) s = .next (u.raiseEvent 62) ∧ u.tim.pps = some (s.timeNow, s.count) ∧
        u.fld F.timPpscloT = (BitVec.ofInt 32 s.timeNow).toNat ∧ u.fld F.timPpschiT = (BitVec.ofInt 32 (s.timeNow / 2 ^ 32)).toNat ∧
        s.keeps u [.tim, .reg F.timPpscloT.addr, .reg F.timPpschiT.addr]) ∧
    (s.tim.alarm = none ∨ s.domOn 12 = false → exec .alarm s = .next s) ∧
    (∀ rising, rising = s.bit F.timPpsInpol ∨ s.domOn 12 = false → exec (.ppsInEdge rising) s = .next s) ∧
    (∀ a : BitVec 64, s.tim.alarm = some a → s.domOn 12 = true → ∃ u, exec .alarm s = .next (u.raiseEvent 63) ∧ u.tim.alarm = none ∧
      u.count = max s.count (s.countFor a.toInt) ∧ s.keeps u [.tim, .count]))

/-- R528, R529, R533, R534: the two commands of the Baler complete.
Where the spec leaves a choice it speaks of the model's own: log entries 186, 187. -/
def Obligations.BalerSteps : Prop :=
  (∀ (s : State), s.balRuns = false → exec .balerRecordBuild s = .next s ∧ exec .recordRequestServe s = .next s) ∧
  ∀ (s : State), s.canonical → s.balRuns = true →
    let s1 := s.advance (s.frm.edgeAt + 2 * ticksPerUs)
    let r := s1.balRecord.1
    let slot := s.ringSlot s.frm.frame.toNat
    (s.bal.built = true → exec .balerRecordBuild s = .next s) ∧
    (leAt r 0 2 = 0xBA1E ∧ leAt r 6 2 = r.length ∧ leAt r 8 6 = s.frm.frame.toNat ∧ r.length ≤ 4096) ∧
    (s.bal.built = false → s.bit F.balCfgRingen = false → s.bit F.balCfgTx = false → ∃ t, exec .balerRecordBuild s = .next t ∧
      t.fld F.balSeq = s.bal.next % 65536 ∧ t.bal.next = (s.bal.next + 1) % 65536 ∧ t.bal.built = true ∧ t.bal.len = r.length ∧
      t.count = s1.count ∧ s.keeps t [.bal, .count, .reg F.balSeq.addr, .reg F.balStatTrunc.addr]) ∧
    (s.bal.built = false → s.bit F.balCfgRingen = true → s.ringOk = true → s.bit F.balCfgTx = false → s.mayUse 2 (bankOf slot) = true →
      s.domLocked (16 + bankOf slot) = false → s.wakeFails slot = false → (s.gbank (bankOf slot)).wait = [] →
      ∃ t, exec .balerRecordBuild s = .next t ∧ t.bal.built = true ∧ t.bal.len = r.length ∧
        (∀ j, j < (wordsOf r).length → t.mread (slot + 4 * j) = ⟨Tag.raw, (wordsOf r).getD j 0⟩) ∧
        (∀ a, a / 4 < slot / 4 ∨ slot / 4 + (wordsOf r).length ≤ a / 4 → t.mread a = s.mread a)) ∧
    (s.bal.built = false → s.bit F.balCfgRingen = false ∨ s.ringOk = true → ∃ t, exec .balerRecordBuild s = .next t ∧
      t.bal.next = (s.bal.next + 1) % 65536 ∧ t.bal.built = true ∧ t.bal.len = r.length ∧ t.count = s1.count) ∧
    (s.bal.built = false → s.bit F.balCfgRingen = true → s.ringOk = false → exec .balerRecordBuild s = .fault (.uncheckedUse 533)) ∧
    (s.bal.reqs = [] ∨ 16 ≤ s.bal.served → exec .recordRequestServe s = .next s) ∧
    (∀ ip port frame l, s.bal.reqs = (ip, port, frame) :: l → s.bal.served < 16 →
      (s.ringOk = false → exec .recordRequestServe s = .fault (.uncheckedUse 533)) ∧
      (s.ringOk = true → (s.gbank (bankOf (s.ringSlot frame))).wait = [] → (∀ j, j < 1024 → s.eccAt (s.ringSlot frame + 4 * j) = .clean) →
        ∃ t, exec .recordRequestServe s = .next t ∧ t.bal = { s.bal with reqs := l, served := s.bal.served + 1 } ∧
        (∀ a, t.mread a = s.mread a) ∧
        (s.mayUse 2 (bankOf (s.ringSlot frame)) = true → s.domLocked (16 + bankOf (s.ringSlot frame)) = false →
          s.wakeFails (s.ringSlot frame) = false → (s.mread (s.ringSlot frame)).val.toNat % 65536 ≠ 0xBA1E →
          t.bit F.balStatReqrej = true ∧ ∃ u : State, t = u.udpSend ip (s.fld F.balPortsSport) port (s.ethCfg F.ethVlanPcpb) (List.replicate 16 0))))

/-- R543, R545, R546, R550 to R553, R555: the eight commands of a search complete.
Where the spec leaves a choice it speaks of the model's own: log entries 190, 192, 193, 194, 198, 199, 205, 206, 207, 208, 209. -/
def Obligations.TokenSearchSteps : Prop :=
  ∀ (s : State),
    let x := s.acc.srch
    let at_ := s.frm.edgeAt + 2 * ticksPerUs
    let pre := (leOf 4 (s.fld F.accUrxpPfx)).take (s.fld F.accUcfgUrxn)
    (s.accRuns = true → s.scanRun = true → s.lfen ≠ 0 → s.win.safe = false → s.sec.trngf = false → s.count ≤ at_ →
      (s.frm.frame.toNat % s.scanPer = 0 → x.phase = 0 → x.retry = false → ∃ t, exec .searchStart s = .next t ∧ t.count = at_ ∧
        t.acc.opn = s.acc.opn &&& (63 - s.lfen) ∧ t.acc.short = s.acc.short &&& (63 - s.lfen) ∧
        t.acc.srch.phase = 1 ∧ t.acc.srch.tries = 0 ∧ t.acc.srch.startAt = at_ ∧ t.acc.srch.lfen = s.lfen ∧ t.acc.srch.seed < 256 ∧
        t.acc.srch.chal.length = 8 ∧ t.acc.lf = lfTelegram (s.fld F.accSite) t.acc.srch.seed t.acc.srch.chal ∧ s.keeps t [.acc, .count, .free]) ∧
      (x.retry = true → x.due = true → ∃ t, exec .retrySearch s = .next t ∧ t.count = at_ ∧ t.acc.srch.phase = 1 ∧
        t.acc.srch.tries = x.tries + 1 ∧ t.acc.srch.startAt = at_ ∧ t.acc.srch.retry = false ∧
        t.acc.lf = lfTelegram (s.fld F.accSite) t.acc.srch.seed t.acc.srch.chal ∧ s.keeps t [.acc, .count, .free])) ∧
    (s.accRuns = false ∨ s.scanRun = false ∨ s.lfen = 0 ∨ s.win.safe = true ∨ s.sec.trngf = true ∨ at_ < s.count →
      exec .searchStart s = .next s ∧ exec .retrySearch s = .next s) ∧
    (s.frm.frame.toNat % s.scanPer ≠ 0 ∨ x.phase ≠ 0 ∨ x.retry = true → exec .searchStart s = .next s) ∧
    (x.retry = false ∨ x.due = false → exec .retrySearch s = .next s) ∧
    (∀ (w : World),
      let u := s.observe w
      let t0 := x.startAt + ticksPerUs * (16384 + 640 * aerials x.lfen)
      (x.phase ≠ 1 → exec (.lfTelegramEnd w) s = .next u) ∧
      (x.phase = 1 → x.woke = true → ∃ t, exec (.lfTelegramEnd w) s = .next t ∧
        t.acc.srch = { x with phase := 2, tref := t0 } ∧ t.count = max s.count t0 ∧ u.keeps t [.acc, .count]) ∧
      (x.phase = 1 → x.woke = false → s.canonical → s.quiet →
        let weak := fun i => x.lfen.testBit i && (s.acc.short.testBit i || decide (4 * u.pin (.lfPeak i) < 100 * s.fld F.accLfcfgIpk))
        ∃ t, exec (.lfTelegramEnd w) s = .next t ∧ t.acc.srch = { x with phase := 2, woke := true, tref := t0 } ∧
          (∀ i, i < 6 → t.acc.opn.testBit i = (s.acc.opn.testBit i || weak i)) ∧
          (s.feat (sourceFeat 164) = true → (∃ i, i < 6 ∧ weak i = true) → t.sticky 164 = true))) ∧
    (∀ (a : Fin 6) (amps : Int),
      (x.phase = 1 → x.lfen.testBit a = true → s.acc.short.testBit a = false → 1800 < amps →
        ∃ u, exec (.aerialShort a amps) s = .next ((u.raiseSource 164).accCause 3) ∧
          u.acc = { s.acc with short := s.acc.short ||| 2 ^ a.val } ∧ s.keeps u [.acc]) ∧
      (x.phase ≠ 1 ∨ x.lfen.testBit a = false ∨ s.acc.short.testBit a = true ∨ amps ≤ 1800 → exec (.aerialShort a amps) s = .next s)) ∧
    (∀ (after : Nat) (packet : List Nat),
      let slot := s.irqSlot after
      let tid := leAt packet 1 4
      let d := s.replyDelay after slot
      let k : TokReply := { tid := tid, slot := slot, rssi := sub packet 6 6, delay := quant d (2 ^ 40), rt := sub packet 12 8, rchal := sub packet 20 8 }
      let near := |d| ≤ (s.fld F.accRlyRwin * 250 : Nat) * 2 ^ 40
      let now := max s.count (x.tref + after)
      (s.accRuns = false ∨ x.phase ≠ 2 → exec (.tokenReply after packet) s = .next s) ∧
      (s.accRuns = true → x.phase = 2 → s.replyWindow ≤ after → ∃ t, exec (.tokenReply after packet) s = .next t ∧
        t.acc = { s.acc with sent := pre } ∧ t.count = now ∧ s.keeps t [.acc, .count]) ∧
      (s.accRuns = true → x.phase = 2 → after < s.replyWindow → x.far = [] →
        (x.seen.testBit slot = false → packetKnown packet = true → packetOk packet 0x21 30 = false →
          ∃ t, exec (.tokenReply after packet) s = .next t ∧
            t.acc = { s.acc with sent := pre, srch := { x with seen := x.seen ||| 2 ^ slot } } ∧ t.count = now ∧ s.keeps t [.acc, .count]) ∧
        (x.seen.testBit slot = false → packetOk packet 0x21 30 = true → s.slotOf tid = slot → near →
          ∃ t, exec (.tokenReply after packet) s = .next t ∧ t.count = now ∧ s.keeps t [.acc, .count] ∧
            t.acc = { s.acc with sent := pre, srch := { x with
              seen := x.seen ||| 2 ^ slot
              cand := x.cand.filter (fun c => decide (c.slot < slot)) ++ [k] ++ x.cand.filter (fun c => decide (slot < c.slot)) } }) ∧
        (x.seen.testBit slot = false → packetOk packet 0x21 30 = true → s.slotOf tid = slot → ¬ near →
          ∃ t, exec (.tokenReply after packet) s = .next t ∧ t.count = now ∧ s.keeps t [.acc, .count] ∧
            t.acc = { s.acc with sent := pre, srch := { x with seen := x.seen ||| 2 ^ slot, far := [k] } }) ∧
        (x.seen.testBit slot = true ∨ packetKnown packet = false ∨ packetOk packet 0x21 30 = true ∧ s.slotOf tid ≠ slot →
          ∃ t, exec (.tokenReply after packet) s = .next t ∧ t.count = now ∧
            t.acc = { s.acc with sent := pre, srch := { x with
              seen := x.seen ||| 2 ^ slot, coll := x.coll ||| 2 ^ slot, cand := x.cand.filter (fun c => c.slot ≠ slot) } } ∧
            (x.coll.testBit slot = true → s.keeps t [.acc, .count]) ∧
            (x.coll.testBit slot = false →
              let i := s.fld F.accLogidxNext
              s.keeps t [.acc, .count, .reg F.accLogidxNext.addr, .reg (F.accLogEntry (2 * i)).addr, .reg (F.accLogEntry (2 * i + 1)).addr] ∧
              (s.canonical → t.fld F.accLogidxNext = (i + 1) % 16 ∧ t.fld (F.accLogEntry (2 * i)) = 0 ∧
                t.fld (F.accLogEntry (2 * i + 1)) = 8 + 16 * (slot % 16) + 256 * (x.tries % 8) + 4096 * (s.frm.frame.toNat % 2 ^ 20)))))) ∧
    (x.phase ≠ 2 → exec .replyWindowClose s = .next s) ∧
    (x.phase = 2 →
      let now := max s.count (x.tref + s.replyWindow)
      (x.far = [] → x.cand = [] → x.coll = 0 ∨ 4 ≤ x.tries → ∃ t, exec .replyWindowClose s = .next t ∧ t.acc.srch = {} ∧ t.count = now ∧
        t.acc.last = (match x.latest with | some r => r | none => { res := if x.coll = 0 then 0 else 8, search := x.tries }) ∧
        (s.fld F.accEvenCause = 0 → s.keeps t [.acc, .count])) ∧
      (x.far = [] → x.cand = [] → x.coll ≠ 0 → x.tries < 4 → ∃ t, exec .replyWindowClose s = .next t ∧ t.count = now ∧
        t.acc = { s.acc with srch := { x with phase := 0, retry := true, grant := none } } ∧ s.keeps t [.acc, .count]) ∧
      (∀ c l e k, x.far = [] → x.cand = c :: l → s.tokenEntry c.tid = some e → s.tokenKey c.tid = some k →
        (aes k (x.chal ++ tidBytes c.tid ++ List.replicate 4 0)).take 8 = c.rt →
        ∃ t, exec .replyWindowClose s = .next t ∧ t.count = now ∧ s.keeps t [.acc, .count] ∧
          let q := withCrc16 (0x12 :: tidBytes c.tid ++ (aes k (c.rchal ++ x.chal)).take 8)
          t.acc = { s.acc with
            sent := (leOf 4 (s.fld F.accUtxpPfx)).take (s.fld F.accUcfgUtxn) ++ q.length :: q
            srch := { x with phase := 3, key := k, authAt := now } }) ∧
      (∀ c, x.far = [] → x.cand = [c] → x.coll = 0 → s.tokenEntry c.tid = none → ∃ t, exec .replyWindowClose s = .next t ∧
        t.acc.srch = {} ∧ t.acc.last = { tok := c, res := 3, search := x.tries }) ∧
      (∀ c e, x.far = [] → x.cand = [c] → x.coll = 0 → s.tokenEntry c.tid = some e → s.canonical → s.quiet →
        (∀ k, s.tokenKey c.tid = some k → (aes k (x.chal ++ tidBytes c.tid ++ List.replicate 4 0)).take 8 ≠ c.rt) →
        ∃ t, exec .replyWindowClose s = .next t ∧ t.acc.srch = {} ∧ t.acc.last = { tok := c, res := 5, search := x.tries } ∧
          (s.feat (sourceFeat 166) = true → t.sticky 166 = true)) ∧
      (∀ c, x.far = [c] → c.slot < s.nslot → x.cand = [] → x.coll = 0 → s.canonical → s.quiet →
        ∃ t, exec .replyWindowClose s = .next t ∧ t.acc.srch = {} ∧ t.acc.last = { tok := c, res := 4, search := x.tries } ∧
          (s.feat (sourceFeat 165) = true → t.sticky 165 = true))) ∧
    (∀ (packet : List Nat),
      (s.accRuns = false → exec (.memReceived packet) s = .next s) ∧
      (s.accRuns = true → x.phase ≠ 3 ∨ x.grant.isSome = true ∨ x.cand = [] ∨
          packetOk packet 0x23 31 = false ∧ s.count ≤ x.authAt + 20000 * ticksPerUs →
        ∃ t, exec (.memReceived packet) s = .next t ∧ t.acc = { s.acc with sent := pre } ∧ s.keeps t [.acc]) ∧
      (∀ (c : TokReply) (l : List TokReply), s.accRuns = true → x.phase = 3 → x.grant = none → x.cand = c :: l →
        let ks := aes x.key (x.chal ++ c.rchal)
        let pt := aesCtr ks (List.replicate 16 0) 128 (sub packet 5 16)
        let level := pt.getD 4 0
        let sound := leAt packet 1 4 = c.tid ∧ (cmac ks (tidBytes c.tid ++ sub packet 5 16)).take 8 = sub packet 21 8 ∧ leAt pt 0 4 = c.tid
        (s.count ≤ x.authAt + 20000 * ticksPerUs → packetOk packet 0x23 31 = true → sound → level &&& s.fld F.accPolicyMask ≠ 0 →
          ∃ t, exec (.memReceived packet) s = .next t ∧ t.acc = { s.acc with sent := pre, srch := { x with grant := some (c, level) } } ∧
            s.keeps t [.acc]) ∧
        (s.count ≤ x.authAt + 20000 * ticksPerUs → packetOk packet 0x23 31 = true → sound → level &&& s.fld F.accPolicyMask = 0 → x.coll = 0 →
          ∃ t, exec (.memReceived packet) s = .next t ∧ t.acc.srch = {} ∧ t.acc.last = { tok := c, res := 6, search := x.tries }) ∧
        (x.authAt + 20000 * ticksPerUs < s.count ∨ packetOk packet 0x23 31 = true ∧ ¬ sound → l = [] → x.coll = 0 → s.canonical → s.quiet →
          ∃ t, exec (.memReceived packet) s = .next t ∧ t.acc.srch = {} ∧ t.acc.last = { tok := c, res := 5, search := x.tries } ∧
            (s.feat (sourceFeat 166) = true → t.sticky 166 = true)))) ∧
    (x.phase ≠ 3 ∨ x.grant.isSome = true ∨ x.cand = [] → exec .memTimeout s = .next s) ∧
    (∀ c, x.phase = 3 → x.grant = none → x.cand = [c] → x.coll = 0 → s.canonical → s.quiet → ∃ t, exec .memTimeout s = .next t ∧
      t.acc.srch = {} ∧ t.acc.last = { tok := c, res := 5, search := x.tries } ∧ t.count = max s.count (x.authAt + 20000 * ticksPerUs) ∧
      (s.feat (sourceFeat 166) = true → t.sticky 166 = true))

/-- R548, R556, R557, R559, R561, R562, R564: the six other commands of the access block complete.
Where the spec leaves a choice it speaks of the model's own: log entries 196, 202, 203, 204, 210. -/
def Obligations.ReleaseAndPermitSteps : Prop :=
  (∀ (s : State),
    (s.acc.rel = none → exec .releaseEnd s = .next s) ∧
    ∀ (b h e : Nat), s.acc.rel = some (b, h, e) →
      (s.atEdge = true → e ≤ s.frm.frame.toNat → ∃ t, exec .releaseEnd s = .next t ∧ t.acc.rel = none ∧ t.frm.frame = s.frm.frame ∧ t.count = s.count) ∧
      (s.atEdge = false ∨ s.frm.frame.toNat < e → exec .releaseEnd s = .next s)) ∧
  (∀ (s : State), s.acc.permit = none → exec .permitFrame s = .next s ∧ exec .permitEnd s = .next s) ∧
  (∀ (p : Permit) (s : State), s.acc.permit = some p →
    let n := min 5 (s.fld F.accPmtPort)
    let p1 := { p with next := p.next + 600000 * s.fld F.accPmtPer }
    let endAt := if s.allow then max s.count p.endAt else s.count
    (p.endAt ≤ p.next → exec .permitFrame s = .next s) ∧
    (s.acc.spent = false → s.bit F.accPmtEn = false →
      (p.next < p.endAt → ∃ t, exec .permitFrame s = .next t ∧ t.acc = { s.acc with permit := some p1 } ∧ t.count = max s.count p.next ∧
        s.keeps t [.acc, .count]) ∧
      (∃ t, exec .permitEnd s = .next t ∧ t.acc = { s.acc with permit := none } ∧ t.count = endAt ∧ s.keeps t [.acc, .count])) ∧
    (s.acc.spent = true → s.canonical → s.quiet →
      (p.next < p.endAt → ∃ t, exec .permitFrame s = .next t ∧ t.acc = { s.acc with permit := none } ∧
        (s.feat (sourceFeat 167) = true → t.sticky 167 = true)) ∧
      (∃ t, exec .permitEnd s = .next t ∧ t.acc = { s.acc with permit := none } ∧ (s.feat (sourceFeat 167) = true → t.sticky 167 = true))) ∧
    (∀ (m : CanMsg), s.acc.spent = false → s.bit F.accPmtEn = true → s.acc.seq + 1 < 0xFFFFFFFF → (s.cn n).permit = none →
      (p.next < p.endAt → (s.advance p.next).permitFrame p 1 = some m → ∃ t, exec .permitFrame s = .next t ∧ (t.cn n).permit = some m ∧
        t.acc = { s.acc with permit := some p1, built := s.acc.seq, seq := s.acc.seq + 1 } ∧ t.count = max s.count p.next ∧
        s.keeps t [.acc, .count, .can n]) ∧
      (s.permitFrame p 2 = some m → ∃ t, exec .permitEnd s = .next t ∧ (t.cn n).permit = some m ∧
        t.acc = { s.acc with permit := none, built := s.acc.seq, seq := s.acc.seq + 1 } ∧ t.count = endAt ∧ s.keeps t [.acc, .count, .can n])) ∧
    (∀ (m : CanMsg), s.acc.spent = false → s.bit F.accPmtEn = true → s.canonical → s.quiet → p.next < p.endAt →
      (s.advance p.next).permitFrame p 1 = some m →
      ((s.cn n).permit.isSome = true ∨ 0xFFFFFFFF ≤ s.acc.seq + 1 → ∃ t, exec .permitFrame s = .next t ∧ (t.cn n).permit = some m ∧
        t.acc = { s.acc with
          permit := if 0xFFFFFFFF ≤ s.acc.seq + 1 then none else some p1
          built := s.acc.seq, seq := s.acc.seq + 1, spent := decide (0xFFFFFFFF ≤ s.acc.seq + 1) } ∧
        (s.feat (sourceFeat 167) = true → t.sticky 167 = true))) ∧
    (s.acc.spent = false → s.bit F.accPmtEn = true → s.canonical → s.quiet → s.key128 (s.fld F.accKeysPks) = none → p.next < p.endAt →
      ∃ t, exec .permitFrame s = .next t ∧ t.acc = { s.acc with permit := some p1 } ∧ (t.cn n).permit = (s.cn n).permit ∧
        (s.feat (sourceFeat 167) = true → t.sticky 167 = true))) ∧
  (∀ (packet : List Nat) (s : State),
    let pre := (leOf 4 (s.fld F.accUrxpPfx)).take (s.fld F.accUcfgUrxn)
    let tid := leAt packet 1 4
    let cnt := leAt packet 5 4
    let btn := packet.getD 9 0
    let i := s.fld F.accLogidxNext
    (s.accRuns = false → exec (.buttonPacket packet) s = .next s) ∧
    (s.accRuns = true → s.acc.srch.phase ≠ 2 → packetOk packet 0x31 16 = false →
      ∃ u, exec (.buttonPacket packet) s = .next u ∧ u.acc = { s.acc with sent := pre } ∧ s.keeps u [.acc]) ∧
    (s.canonical → s.accRuns = true → s.acc.srch.phase ≠ 2 → packetOk packet 0x31 16 = true →
      (∀ t k, s.tokenEntry tid = some t → s.tokenKey tid = some k → (cmac k (sub packet 1 9)).take 4 = sub packet 10 4 →
        let d := (cnt + 2 ^ 32 - s.fld (F.accTcntCnt t)) % 2 ^ 32
        (1 ≤ d → d ≤ 256 → s.fld F.accEvenCause = 0 →
          ∃ u, exec (.buttonPacket packet) s = .next u ∧ u.fld (F.accTcntCnt t) = cnt % 2 ^ 32 ∧ u.fld (F.accTcfgPend t) = 0 ∧
            u.acc = { s.acc with sent := pre, pend := updN s.acc.pend t (fun _ => none), btnF := true, btn := btn % 256 + 256 * t } ∧
            u.fld F.accLogidxNext = (i + 1) % 16 ∧ (∀ a, u.mread a = s.mread a) ∧ u.frm.pend = s.frm.pend) ∧
        (257 ≤ d → d ≤ 65536 → nth s.acc.pend t none = none →
          ∃ u, exec (.buttonPacket packet) s = .next u ∧ u.fld (F.accTcntCnt t) = s.fld (F.accTcntCnt t) ∧ u.fld (F.accTcfgPend t) = 1 ∧
            u.acc = { s.acc with sent := pre, pend := updN s.acc.pend t (fun _ => some (cnt, btn, s.count)) } ∧
            s.keeps u [.acc, .reg (F.accTcfgPend t).addr]) ∧
        (∀ c at_, 257 ≤ d → nth s.acc.pend t none = some (c, btn, at_) → cnt = (c + 1) % 2 ^ 32 → s.count ≤ at_ + 1200000000 →
          s.fld F.accEvenCause = 0 → ∃ u, exec (.buttonPacket packet) s = .next u ∧ u.fld (F.accTcntCnt t) = cnt % 2 ^ 32 ∧
            u.fld (F.accTcfgPend t) = 0 ∧ u.acc.btnF = true ∧ u.acc.btn = btn % 256 + 256 * t) ∧
        (d = 0 ∨ 65536 < d → nth s.acc.pend t none = none → ∃ u, exec (.buttonPacket packet) s = .next u ∧ u.acc = { s.acc with sent := pre } ∧
          u.fld F.accLogidxNext = (i + 1) % 16 ∧ u.fld (F.accLogEntry (2 * i)) = tid % 2 ^ 32 ∧
          u.fld (F.accLogEntry (2 * i + 1)) = 10 + 4096 * (s.frm.frame.toNat % 2 ^ 20) ∧
          s.keeps u [.acc, .reg F.accLogidxNext.addr, .reg (F.accLogEntry (2 * i)).addr, .reg (F.accLogEntry (2 * i + 1)).addr])) ∧
      (∀ t, s.tokenEntry tid = some t → (∀ k, s.tokenKey tid = some k → (cmac k (sub packet 1 9)).take 4 ≠ sub packet 10 4) → s.quiet →
        ∃ u, exec (.buttonPacket packet) s = .next u ∧ u.acc = { s.acc with sent := pre } ∧ u.fld F.accLogidxNext = (i + 1) % 16 ∧
          u.fld (F.accLogEntry (2 * i)) = tid % 2 ^ 32 ∧ (s.feat (sourceFeat 166) = true → u.sticky 166 = true) ∧
          (∀ t, t < 32 → u.fld (F.accTcntCnt t) = s.fld (F.accTcntCnt t))) ∧
      (s.tokenEntry tid = none → ∃ u, exec (.buttonPacket packet) s = .next u ∧ u.fld (F.accLogEntry (2 * i)) = tid % 2 ^ 32 ∧
        u.fld (F.accLogEntry (2 * i + 1)) = 10 + 4096 * (s.frm.frame.toNat % 2 ^ 20) ∧ u.fld F.accLogidxNext = (i + 1) % 16 ∧
        u.acc = { s.acc with sent := pre } ∧
        s.keeps u [.acc, .reg F.accLogidxNext.addr, .reg (F.accLogEntry (2 * i)).addr, .reg (F.accLogEntry (2 * i + 1)).addr]))) ∧
  (∀ (o : Option Word) (v : Word) (back : Nat) (w : Word) (job : Bool) (s : State),
    (s.inDip = true → exec (.urawAccess o back) s = .next (s.stall (.urawAccess o back)) ∧
      exec (.pepochWrite w job) s = .next (s.stall (.pepochWrite w job))) ∧
    (s.inDip = false → s.storesOff = true → exec (.urawAccess o back) s = .next s ∧ exec (.pepochWrite w job) s = .next s) ∧
    (s.canonical → s.storesOff = false →
      (s.bit F.accCfgEn = false → ∃ t, exec (.urawAccess (some v) back) s = .next t ∧ t.fld F.accUrawData = back % 256 ∧
        t.fld F.accUrawCs = v.toNat / 256 % 2 ∧ s.keeps t [.reg F.accUrawData.addr]) ∧
      (s.bit F.accCfgEn = false → exec (.urawAccess none back) s = .next s) ∧
      (s.bit F.accCfgEn = true → ∃ t, exec (.urawAccess o back) s = .next t ∧ t.bit F.accStatUrawrej = true ∧
        s.keeps t [.reg F.accStatUrawrej.addr]) ∧
      (job = false → ∃ t, exec (.pepochWrite w job) s = .next t ∧ t.fld F.accPepochEpoch = w.toNat % 65536 ∧ t.bit F.accStatEpoch = true ∧
        t.acc = { s.acc with seq := 0, spent := false } ∧ s.keeps t [.acc, .reg F.accPepochEpoch.addr, .reg F.accStatEpoch.addr]) ∧
      (job = true → ∃ t, exec (.pepochWrite w job) s = .next t ∧ t.bit F.accStatPrivrej = true ∧ s.keeps t [.reg F.accStatPrivrej.addr])))

/-- R39, R567 to R572, R574, R575, R580: the six kinds of request complete on both transports. `m` is the message; on the Host SPI the
bytes of the frame beyond its LEN are ignored, and the response pending before has left in the frame.
Where the spec leaves a choice it speaks of the model's own: log entries 212, 213, 214, 215, 216, 219. -/
def Obligations.HostRequestsComplete : Prop :=
  let kinds : List (Nat × (Option (Nat × Nat) → List Nat → Instr)) :=
    [(1, .read), (2, .write), (3, .txn), (4, .hreset), (5, .hostNop), (0, .hostBadRequest)]
  ∀ (s : State) (b : List Nat) (src : Option (Nat × Nat)),
    let udp := src.isSome
    let m := if udp then b else b.take (msgLen b)
    let r := requestOf m
    let s0 := if udp then s else s.spiOut b.length
    let heard := s.spiLive = true ∧ (if udp then s.endpoint = true ∧ b.length ≤ 1472 else
      16 ≤ b.length ∧ msgLen b ≤ b.length ∧ spiIdle b = false)
    let taken := s.canonical ∧ heard ∧ s0.hst.resp = none ∨ s.canonical ∧ heard ∧ udp = true
    let answers := fun (t u : State) (sealed : Bool) (status : Nat) (body : List Nat) (ok : Bool) =>
      let q := t.response r sealed status body
      let x := if !ok then { t.hst with rej := t.hst.rej + 1 }
        else if udp then { t.hst with rxUdp := t.hst.rxUdp + 1 } else { t.hst with rxSpi := t.hst.rxSpi + 1 }
      u.hst = (if udp then { x with said := q } else { x with resp := some q }) ∧
      t.keeps u (if udp then [.hst, .eth, .free, .reg F.ethStatDrop.addr] else [.hst])
    let macOk := s.feat 46 = true ∧ s.hostMac (m.take (m.length - 8)) = some (m.drop (m.length - 8)) ∧ s.fld F.hstActrCtr < r.ctr
    let plainOk := s.feat 46 = false ∨ s.bit F.hstCfgAuthreq = false ∨ udp = false ∧ s.bit F.hstCfgSpiauth = false ∨ r.exempt = true
    let may := badHeader m = false ∧ (if r.auth then macOk else plainOk)
    let s1 := if r.auth then s0.setFld F.hstActrCtr r.ctr else s0
    let as := (upto (leAt r.body 4 2)).map (fun i => leAt r.body 0 4 + 4 * i)
    let entries := entriesOf (r.body.length / 8) r.body
    let moves := entriesOf ((r.body.length - 8) / 8) (r.body.drop 8)
    let edge := leAt r.body 0 6
    let refused := fun (i : Instr) (e : Nat) => s.fld F.hstEvenCause = 0 → ∃ t u, exec i s = .next u ∧ answers t u r.auth e [] false ∧
      t.bit F.hstStatTxrej = true ∧ s1.keeps t [.reg F.hstStatTxrej.addr]
    (src = none → s.inDip = true → exec (.read none b) s = .next (s.stall (.read none b)) ∧ exec (.write none b) s = .next (s.stall (.write none b)) ∧
      exec (.txn none b) s = .next (s.stall (.txn none b)) ∧ exec (.hreset none b) s = .next (s.stall (.hreset none b)) ∧
      exec (.hostNop none b) s = .next (s.stall (.hostNop none b)) ∧ exec (.hostBadRequest none b) s = .next (s.stall (.hostBadRequest none b))) ∧
    (∀ k cmd, (k, cmd) ∈ kinds → udp = true ∨ s.inDip = false → ¬ heard ∨ messageKind m ≠ k → exec (cmd src b) s = .next s) ∧
    (∀ k cmd q, (k, cmd) ∈ kinds → udp = false → heard → messageKind m = k → s.hst.resp = some q → b.length < q.length → s.canonical →
      ∃ u, exec (cmd src b) s = .next u ∧ u.bit F.hstStatOvf = true ∧ u.hst = { s.hst with rej := s.hst.rej + 1 } ∧
        s.keeps u [.hst, .reg F.hstStatOvf.addr]) ∧
    (taken →
      (badHeader m = true → ∃ u, exec (.hostBadRequest src b) s = .next u ∧ answers s0 u false 1 [] false) ∧
      (∀ k cmd, (k, cmd) ∈ kinds → messageKind m = k → badHeader m = false → ¬ (if r.auth then macOk else plainOk) → s.fld F.hstEvenCause = 0 →
        ∃ t u, exec (cmd src b) s = .next u ∧ answers t u false 5 [] false ∧ t.bit F.hstStatAuthf = true ∧
          (r.type = 3 → t.bit F.hstStatTxrej = true) ∧ s0.keeps t [.reg F.hstStatAuthf.addr]) ∧
      (may → r.fits = false → r.type ≠ 3 → ∃ u, exec (.hostBadRequest src b) s = .next u ∧ answers s1 u r.auth 2 [] false) ∧
      (may → r.fits = false → r.type = 3 → refused (.hostBadRequest src b) 2) ∧
      (may → r.fits = true →
        (r.type = 5 → ∃ u, exec (.hostNop src b) s = .next u ∧ answers s1 u r.auth 0 [] true) ∧
        (r.type = 4 → s.win.fhalt = false → ∃ t u, exec (.hreset src b) s = .next u ∧ answers t u r.auth 0 [] true ∧
          t.hst = { s1.hst with resp := none, commit := none, reset := true } ∧ (∀ w h e g, .txn w h e g ∉ t.frm.held) ∧
          (∀ a w l, .fw a w l ∈ t.frm.held ↔ .fw a w l ∈ s.frm.held) ∧ s1.keeps t [.hst, .held]) ∧
        (r.type = 4 → s.win.fhalt = true → ∃ u, exec (.hreset src b) s = .next u ∧ answers s1 u r.auth 4 [] false) ∧
        (r.type = 1 → (∃ a, a ∈ as ∧ s.hostReach a = false) → ∃ u, exec (.read src b) s = .next u ∧ answers s1 u r.auth 3 [] false) ∧
        (∀ ws t, r.type = 1 → (∀ a, a ∈ as → s.hostReach a = true) → s1.hostLoads as = .ok (ws, t) →
          ∃ u, exec (.read src b) s = .next u ∧ answers t u r.auth 0
            (ws.flatMap (fun w => leOf 4 w.val.toNat) ++ tagBytes ws ++ List.replicate ((4 - (tagBytes ws).length % 4) % 4) 0) true) ∧
        (r.type = 2 → s.win.fhalt = true → ∃ u, exec (.write src b) s = .next u ∧ answers s1 u r.auth 4 [] false) ∧
        (∀ e n t, r.type = 2 → s.win.fhalt = false → s1.hostWrites entries 0 = .ok (e, n, t) → n < 65536 →
          ∃ u, exec (.write src b) s = .next u ∧ answers t u r.auth e (leOf 2 n) (e == 0 || n != 0)) ∧
        (r.type = 3 →
          (s.win.fhalt = true → refused (.txn src b) 4) ∧
          (s.win.fhalt = false →
            (∀ p, p ∈ moves.head? → s.entryStatus stageable p.1 ≠ 0 → refused (.txn src b) (s.entryStatus stageable p.1)) ∧
            ((∀ p, p ∈ moves → s.entryStatus stageable p.1 = 0) →
              (8 ≤ s.txnHeld → refused (.txn src b) 7) ∧
              (s.txnHeld < 8 → s.frm.frame.toNat + 65536 < edge → refused (.txn src b) 8) ∧
              (s.txnHeld < 8 → edge ≠ 0 → edge < s.schedule → r.body.getD 6 0 % 2 = 1 → refused (.txn src b) 6) ∧
              (s.txnHeld < 8 → edge ≤ s.frm.frame.toNat + 65536 → edge = 0 ∨ s.schedule ≤ edge ∨ r.body.getD 6 0 % 2 ≠ 1 →
                let at_ := if s.schedule ≤ edge then edge else s.schedule
                let kept := if s.bit F.frmCfgHostout then moves else moves.filter (fun p => regionOf p.1 != .staging)
                ∃ t u, exec (.txn src b) s = .next u ∧ answers t u r.auth 0 (leOf 6 at_) true ∧
                  t.frm.held = s.frm.held ++ [.txn kept (kept.any (fun p => regionOf p.1 == .staging)) at_ r.tag] ∧
                  (t.bit F.frmStatHostroll = (s.bit F.frmStatHostroll ||
                    decide (edge < s.schedule ∧ (edge ≠ 0 ∨ s.schedule ≠ s.frm.frame.toNat + 1)))) ∧
                  (t.bit F.frmStatHostrej = (s.bit F.frmStatHostrej || decide (kept.length < moves.length))) ∧
                  s1.keeps t [.hst, .held, .tim, .reg F.frmStatHostroll.addr])))))) ∧
    (∀ (a n : Nat) (w : Word) (l : List (Nat × Word)),
      let own := decide (0x400F0030 ≤ a ∧ a ≤ 0x400F0040) && s.bit F.hstStatNegd
      (s.hostReach a = false ∨ writable a = false → s.hostWrites ((a, w) :: l) n = .ok (3, n, s)) ∧
      (s.hostReach a = true → writable a = true → (s.fld F.hstWmaskBlk).testBit (wmaskBit a) = false → s.hostWrites ((a, w) :: l) n = .ok (4, n, s)) ∧
      (s.hostReach a = true → writable a = true → (s.fld F.hstWmaskBlk).testBit (wmaskBit a) = true →
        (own = true → s.hostWrites ((a, w) :: l) n = .ok (9, n, s)) ∧
        (∀ t, own = false → s.hostStore a w = .ok t → s.hostWrites ((a, w) :: l) n = t.hostWrites l (n + 1))))

/-- R502, R504, R575, R576, R578: the four commands complete.
Where the spec leaves a choice it speaks of the model's own: log entries 173, 174, 217. -/
def Obligations.SwitchAndHostPortSteps : Prop :=
  (∀ (p q : Fin 2) (bytes : List Nat) (s : State), p ≠ q → s.ethLive p = true → 14 ≤ bytes.length → bytes.length ≤ 1518 →
    let dst := beAt bytes 0 6
    let src := beAt bytes 6 6
    s.internal dst = false → macGroup dst = false → macGroup src = false → dst ≠ src → s.ethLive q = true → s.qRoom q bytes = true → s.eth.macs.length < 1024 →
    (s.learned dst = some q.val ∨ s.learned dst = none →
      ∃ t, exec (.ethFrameReceived p bytes true) s = .next t ∧ t.learned src = some p.val ∧ (t.eport p).rx = (s.eport p).rx + 1 ∧
        nth (t.eport q).q (s.frQueue bytes) [] = nth (s.eport q).q (s.frQueue bytes) [] ++ [{ bytes := bytes, inPort := p, inAt := s.count }] ∧
        (∀ c, nth (t.eport p).q c [] = nth (s.eport p).q c []) ∧ s.keeps t [.eth]) ∧
    (s.learned dst = some p.val →
      ∃ t, exec (.ethFrameReceived p bytes true) s = .next t ∧ t.learned src = some p.val ∧ (t.eport p).rx = (s.eport p).rx + 1 ∧
        (∀ k c, nth (t.eport k).q c [] = nth (s.eport k).q c []) ∧ s.keeps t [.eth])) ∧
  (∀ (p : Fin 2) (bytes : List Nat) (fcs : Bool) (s : State), s.ethLive p = false ∨ fcs = false ∨ bytes.length < 14 ∨ 1518 < bytes.length →
    exec (.ethFrameReceived p bytes fcs) s = .next s) ∧
  (∀ (p : Fin 2) (bytes : List Nat) (s : State), s.ethLive p = true → 14 ≤ bytes.length → bytes.length ≤ 1518 → s.internal (beAt bytes 0 6) = true →
    frType bytes ≠ 0x88F7 → frType bytes ≠ 0x0800 → frType bytes ≠ 0x0806 →
    ∃ t, exec (.ethFrameReceived p bytes true) s = .next t ∧ (t.eport p).rx = (s.eport p).rx + 1 ∧ t.acc = s.acc ∧ t.hst = s.hst) ∧
  (∀ (b : List Nat) (n : Nat) (s : State), s.inDip = true → exec (.spiShortFrame b) s = .next (s.stall (.spiShortFrame b)) ∧
    exec (.spiIdleFrame n) s = .next (s.stall (.spiIdleFrame n)) ∧ exec .commit s = .next (s.stall .commit)) ∧
  (∀ (b : List Nat) (n : Nat) (s : State), s.inDip = false → s.spiLive = false → exec (.spiShortFrame b) s = .next s ∧
    exec (.spiIdleFrame n) s = .next s ∧ exec .commit s = .next s) ∧
  (∀ (b : List Nat) (s : State), s.canonical → s.spiLive = true → b.length < 16 ∨ b.length < msgLen b → spiIdle b = false →
    ∃ t, exec (.spiShortFrame b) s = .next t ∧ t.bit F.hstStatShort = true ∧
      t.hst = { (s.spiOut b.length).hst with rej := s.hst.rej + 1 } ∧ s.keeps t [.hst, .reg F.hstStatShort.addr]) ∧
  (∀ (b : List Nat) (s : State), s.spiLive = true → 16 ≤ b.length ∧ msgLen b ≤ b.length ∨ spiIdle b = true → exec (.spiShortFrame b) s = .next s) ∧
  (∀ (n : Nat) (s : State), s.spiLive = true →
    (∀ r, s.hst.resp = some r → r.length ≤ n → ∃ t, exec (.spiIdleFrame n) s = .next t ∧ t.hst = { s.hst with resp := none, said := r } ∧
      s.keeps t [.hst]) ∧
    (∀ r, s.hst.resp = some r → n < r.length → exec (.spiIdleFrame n) s = .next s) ∧
    (s.hst.resp = none → exec (.spiIdleFrame n) s = .next s)) ∧
  (∀ (s : State), s.spiLive = true →
    (s.win.fhalt = true ∨ s.bit F.hstStatNegd = true → exec .commit s = .next s) ∧
    (s.win.fhalt = false → s.bit F.hstStatNegd = false → s.canonical →
      ∃ t, exec .commit s = .next t ∧ t.hst = { s.hst with commit := some (s.frm.frame.toNat + (if s.past 20 then 2 else 1)) } ∧
        t.bit F.frmStatHostroll = (s.bit F.frmStatHostroll || s.past 20) ∧ s.keeps t [.hst, .reg F.frmStatHostroll.addr]))

/-- R587 to R593: the ten jobs without SUP complete; the results of the standards' functions are those of the functions the model names.
Where the spec leaves a choice it speaks of the model's own: log entries 224, 225, 227, 228, 229, 230, 231, 233. -/
def Obligations.CryptoJobsComplete : Prop :=
  ∀ (j : Fin 16) (x : CJob) (s : State), s.canonical →
    let key := s.slotKey x.slot
    let src := s.bytesAt x.src x.len
    let aux := fun n => s.bytesAt x.aux n
    let puts := fun (cmd : Instr) (b : Bytes) => s.holds 4 x.dst b.length →
      ∃ t, exec cmd s = .next t ∧ t.ranWith j 0 x ∧ s.wroteBytes t x.dst b ∧ (∀ a, t.reg a = s.reg a) ∧ t.frm = s.frm
    let ends := fun (cmd : Instr) (st : Nat) => ∃ t, exec cmd s = .next t ∧ t.ranWith j st x ∧ s.keeps t [.sec]
    let judges := fun (cmd : Instr) (st : Nat) => ∃ t, exec cmd s = .next t ∧ t.ranWith j st x ∧ s.keeps t (.sec :: bankParts)
    (s.jobReady j 0x01 x → s.keyStatus x.slot 0 = 0 → s.offers 4 x.aux 16 → s.offers 4 x.src x.len →
      puts (.aesCtr j .clean) (aesCtr key (aux 16) 128 src)) ∧
    (∀ op u e cmd, (op, u, cmd) ∈ ([(1, 0, .aesCtr j e), (2, 0, .gcmEnc j e), (3, 1, .gcmDec j e), (4, 2, .cmac j e), (5, 2, .cmacVer j e)] :
        List (Nat × Nat × Instr)) → s.jobReady j op x → s.keyStatus x.slot u ≠ 0 →
      ends cmd (if s.bit (F.secKattrLoaded x.slot) then 3 else 2)) ∧
    (∀ op e cmd, (op, cmd) ∈ ([(1, .aesCtr j e), (2, .gcmEnc j e), (3, .gcmDec j e), (4, .cmac j e), (5, .cmacVer j e), (6, .sha256 j e),
        (7, .slhVer j e), (8, .attest j e), (9, .idpk j), (10, .random j)] : List (Nat × Instr)) →
      (s.cjob j = none → exec cmd s = .next s) ∧
      (s.cjob j = some x → x.op ≠ op ∨ x.ran.isSome = true ∨ s.mayStart x = false → exec cmd s = .next s) ∧
      (s.cjob j = some x → x.op = op → x.ran = none → s.mayStart x = true →
        (s.domOn domSec = false → exec cmd s = .next (s.demand domSec)) ∧
        (s.domOn domSec = true → x.fits = false → ends cmd 1))) ∧
    (s.jobReady j 0x02 x → s.keyStatus x.slot 0 = 0 → x.flags = 0 → s.offers 4 x.aux (12 + x.arg) → s.offers 4 x.src x.len →
      let iv := (aux (12 + x.arg)).take 12
      puts (.gcmEnc j .clean) (gcmText key iv src ++ gcmTag key iv ((aux (12 + x.arg)).drop 12) (gcmText key iv src))) ∧
    (s.jobReady j 0x02 x → s.keyStatus x.slot 0 = 0 → x.flags = 1 → s.sec.trngf = true → ends (.gcmEnc j .clean) 10) ∧
    (s.jobReady j 0x02 x → s.keyStatus x.slot 0 = 0 → x.flags = 1 → s.sec.trngf = false → s.offers 4 x.aux (12 + x.arg) → s.offers 4 x.src x.len →
      s.holds 4 x.dst (x.len + 16) → ∃ t iv, exec (.gcmEnc j .clean) s = .next t ∧ t.ranWith j 0 x ∧ iv.length = 12 ∧
        t.bytesAt x.dst (x.len + 16) = (gcmText key iv src ++ gcmTag key iv ((aux (12 + x.arg)).drop 12) (gcmText key iv src)).map (· % 256) ∧
        (x.aux + 12 ≤ x.dst ∨ x.dst + (x.len + 19) / 4 * 4 ≤ x.aux → t.bytesAt x.aux 12 = iv)) ∧
    (s.jobReady j 0x03 x → s.keyStatus x.slot 1 = 0 → s.offers 4 x.aux (12 + x.arg) → s.offers 4 x.src (x.len + 16) →
      let a := aux (12 + x.arg)
      let b := s.bytesAt x.src (x.len + 16)
      (gcmTag key (a.take 12) (a.drop 12) (b.take x.len) = b.drop x.len → puts (.gcmDec j .clean) (gcmText key (a.take 12) (b.take x.len))) ∧
      (gcmTag key (a.take 12) (a.drop 12) (b.take x.len) ≠ b.drop x.len → s.holds 4 x.dst x.len →
        ∃ t, exec (.gcmDec j .clean) s = .next t ∧ t.ranWith j 5 x ∧ s.wroteBytes t x.dst (List.replicate x.len 0))) ∧
    (s.jobReady j 0x04 x → s.keyStatus x.slot 2 = 0 → s.offers 4 x.src x.len →
      (x.slot ≠ 30 → puts (.cmac j .clean) (cmac key src)) ∧ (x.slot = 30 → ends (.cmac j .clean) 3)) ∧
    (s.jobReady j 0x05 x → s.keyStatus x.slot 2 = 0 → s.offers 4 x.aux 16 → s.offers 4 x.src x.len →
      judges (.cmacVer j .clean) (if (cmac key src).take x.arg = (aux 16).take x.arg then 0 else 5)) ∧
    (s.jobReady j 0x06 x → s.offers 4 x.src x.len → puts (.sha256 j .clean) (sha256 src)) ∧
    (s.jobReady j 0x06 x → 0 < x.len → inGranary x.src = false → ends (.sha256 j .clean) 4) ∧
    (s.jobReady j 0x06 x → 0 < x.len → inGranary x.src = true → s.mayUse 4 (bankOf x.src) = false → (s.gbank (bankOf x.src)).wait = [] →
      ∃ u, exec (.sha256 j .clean) s = .next ((u.raiseSource 18).jobRan j 4) ∧ u.bit F.grnStatNown = true ∧ u.fld F.grnNowniMaster = 4 ∧
        s.keeps u [.gbank (bankOf x.src), .reg F.grnNownaAddr.addr, .reg F.grnNowniWr.addr, .reg F.grnStatNown.addr]) ∧
    (s.jobReady j 0x07 x → s.offers 4 x.aux 7888 → s.offers 4 x.src x.len →
      judges (.slhVer j .clean) (if slhVerify slh128s ((aux 7888).take 16) (sub (aux 7888) 16 16) src ((aux 7888).drop 32) then 0 else 6)) ∧
    (s.jobReady j 0x08 x → s.offers 4 x.src 32 → s.holds 4 x.dst ((s.report (s.bytesAt x.src 32)).length + 17088) →
      let rep := s.report (s.bytesAt x.src 32)
      ∃ t rand, exec (.attest j .clean) s = .next t ∧ t.ranWith j 0 x ∧ rand.length = 16 ∧
        s.wroteBytes t x.dst (rep ++ slhSign slh128f (s.idSeed 0) (s.idSeed 1) (s.idSeed 2) (slhRoot slh128f (s.idSeed 0) (s.idSeed 2)) rep rand)) ∧
    (s.jobReady j 0x09 x → puts (.idpk j) (slhPublic slh128f (s.idSeed 0) (s.idSeed 2))) ∧
    (s.jobReady j 0x0A x →
      (x.len = 0 ∨ 4096 < x.len → ends (.random j) 14) ∧
      (0 < x.len → x.len ≤ 4096 → s.sec.trngf = true → ends (.random j) 10) ∧
      (0 < x.len → x.len ≤ 4096 → s.sec.trngf = false → s.holds 4 x.dst x.len →
        ∃ t b, exec (.random j) s = .next t ∧ t.ranWith j 0 x ∧ b.length = x.len ∧ s.wroteBytes t x.dst b))

/-- R584, R585, R587, R589, R591, R594, R595, R599, R600, R603, R608: the fifteen other commands of the job queue complete. The flash's
canonical order is a premise where its new bytes are stated.
Where the spec leaves a choice it speaks of the model's own: log entries 234, 236, 247, 248. -/
def Obligations.KeyFlashAndQueueSteps : Prop :=
  ∀ (j : Fin 16) (x : CJob) (s : State), s.canonical →
    let ends := fun (cmd : Instr) (st : Nat) => ∃ t, exec cmd s = .next t ∧ t.ranWith j st x ∧ s.keeps t [.sec]
    let judges := fun (cmd : Instr) (st : Nat) => ∃ t, exec cmd s = .next t ∧ t.ranWith j st x ∧ s.keeps t (.sec :: bankParts)
    let attr := [Part.sec, .reg (F.secKattrGen x.slot).addr]
    (∀ op e cmd, (op, cmd) ∈ ([(0x10, .kload j e), (0x11, .kerase j), (0x12, .kwrap j), (0x13, .kunwrap j e), (0x20, .xread j), (0x21, .xprog j e),
        (0x22, .xerase j), (0x30, .iverify j), (0x32, .confirm j)] : List (Nat × Instr)) →
      (s.cjob j = none → exec cmd s = .next s) ∧
      (s.cjob j = some x → x.op ≠ op ∨ x.ran.isSome = true ∨ s.mayStart x = false → exec cmd s = .next s) ∧
      (s.cjob j = some x → x.op = op → x.ran = none → s.mayStart x = true →
        (s.domOn domSec = false → exec cmd s = .next (s.demand domSec)) ∧
        (s.domOn domSec = true → 0x20 ≤ op → s.domOn domXspi = false → exec cmd s = .next (s.demandOrLock domXspi)) ∧
        (s.domOn domSec = true → op < 0x20 ∨ s.domOn domXspi = true → x.fits = false → ends cmd 1))) ∧
    (s.jobReady j 0x10 x → x.slot < 32 → x.arg % 4 = 1 ∨ x.arg % 4 = 2 → s.offers 4 x.src (if x.arg % 4 = 1 then 16 else 32) →
      ∃ t, exec (.kload j .clean) s = .next t ∧ t.ranWith j 0 x ∧ s.keeps t (attr ++ bankParts) ∧
        s.keyLoaded t x.slot (x.arg % 4) (x.arg / 4 % 16) (s.bytesAt x.src (if x.arg % 4 = 1 then 16 else 32))) ∧
    (s.jobReady j 0x11 x → x.slot < 32 → ∃ t, exec (.kerase j) s = .next t ∧ t.ranWith j 0 x ∧ t.slotKey x.slot = [] ∧
      t.bit (F.secKattrLoaded x.slot) = false ∧ t.fld (F.secKattrGen x.slot) = (s.fld (F.secKattrGen x.slot) + 1) % 2 ^ 16 ∧ s.keeps t attr) ∧
    (s.jobReady j 0x12 x → s.bit (F.secKattrLoaded x.slot) = true → s.bit (F.secKattrLoaded 31) = true → s.sec.trngf = false →
      ∃ iv, iv.length = 12 ∧
        let ct := gcmText (s.slotKey 31) iv (sub (s.slotKey x.slot) 0 32)
        let blob := iv ++ ct ++ gcmTag (s.slotKey 31) iv [s.keyAttr x.slot] ct
        s.holds 4 x.dst blob.length → ∃ t, exec (.kwrap j) s = .next t ∧ t.ranWith j 0 x ∧ s.wroteBytes t x.dst blob) ∧
    (s.jobReady j 0x12 x → s.bit (F.secKattrLoaded x.slot) = false ∨ s.bit (F.secKattrLoaded 31) = false → ends (.kwrap j) 2) ∧
    (s.jobReady j 0x12 x → s.bit (F.secKattrLoaded x.slot) = true → s.bit (F.secKattrLoaded 31) = true → s.sec.trngf = true → ends (.kwrap j) 10) ∧
    (s.jobReady j 0x13 x → s.bit (F.secKattrLoaded 31) = false → ends (.kunwrap j .clean) 2) ∧
    (s.jobReady j 0x13 x → s.bit (F.secKattrLoaded 31) = true → s.offers 4 x.src 60 → x.slot < 32 →
      let b := s.bytesAt x.src 60
      let good := fun a => decide (gcmTag (s.slotKey 31) (b.take 12) [a] (sub b 12 32) = b.drop 44)
      ((∀ a, a < 64 → good a = false) → judges (.kunwrap j .clean) 5) ∧
      (∀ a, a < 64 → a % 4 = 1 ∨ a % 4 = 2 → good a = true → (∀ k, k < 64 → good k = true → k = a) →
        ∃ t, exec (.kunwrap j .clean) s = .next t ∧ t.ranWith j 0 x ∧ s.keeps t (attr ++ bankParts) ∧
          s.keyLoaded t x.slot (a % 4) (a / 4) (sub (gcmText (s.slotKey 31) (b.take 12) (sub b 12 32)) 0 (if a % 4 = 1 then 16 else 32)))) ∧
    (s.jobReady j 0x20 x → s.holds 4 x.dst x.len → ∃ t, exec (.xread j) s = .next t ∧ t.ranWith j 0 x ∧
      s.wroteBytes t x.dst (s.flashBytes x.arg x.len)) ∧
    (s.jobReady j 0x21 x → x.len = 256 → s.offers 4 x.src 256 → AMap.wf (fun _ => 0xFF) s.sec.flash = true →
      ∃ t, exec (.xprog j .clean) s = .next t ∧ t.ranWith j 0 x ∧ s.keeps t (.sec :: bankParts) ∧
        (∀ i, i < 256 → t.flashByte (x.arg + i) = s.flashByte (x.arg + i) &&& (s.bytesAt x.src 256).getD i 0) ∧
        (∀ o, o < x.arg ∨ x.arg + 256 ≤ o → t.flashByte o = s.flashByte o)) ∧
    (s.jobReady j 0x21 x → x.len ≠ 256 → ends (.xprog j .clean) 14) ∧
    (s.jobReady j 0x22 x → ∃ t, exec (.xerase j) s = .next t ∧ t.ranWith j 0 x ∧
      (∀ o, t.flashByte o = if o / 65536 = x.arg / 65536 then 0xFF else s.flashByte o) ∧
      (x.arg < 0x2000000 → t.fld (F.secXercCount (x.arg / 0x1000000)) = min (2 ^ (F.secXercCount (x.arg / 0x1000000)).width - 1)
        (s.fld (F.secXercCount (x.arg / 0x1000000)) + 1)) ∧ s.keeps t [.sec, .reg (F.secXercCount (x.arg / 0x1000000)).addr]) ∧
    (s.jobReady j 0x30 x → (s.imageCheck x.arg = 0 → ends (.iverify j) 0) ∧
      (s.imageCheck x.arg ≠ 0 → exec (.iverify j) s = .next ((s.raiseSource 169).jobRan j (s.imageCheck x.arg)))) ∧
    (s.jobReady j 0x31 x →
      let c : Fin 2 := if x.arg.testBit 1 then 1 else 0
      let i := x.arg % 2
      let h := s.slotHeader i
      let segs := hloadSegments h c (x.arg / 4)
      (∀ d, s.hloadWaits c i (x.arg / 4) = some d → exec (.hload j) s = .next (s.demand d)) ∧
      (s.hloadWaits c i (x.arg / 4) = none →
        (s.coreHasWork c = true ∨ imgHitless h = false → ends (.hload j) 12) ∧
        (s.coreHasWork c = false → imgHitless h = true →
          (s.imageCheck i ≠ 0 → ∃ u, exec (.hload j) s = .next ((u.raiseSource 169).jobRan j (s.imageCheck i)) ∧
            u.sec.hold[c] = some (s.sec.hold[c].getD {}) ∧ s.keeps u [.sec]) ∧
          (s.imageCheck i = 0 →
            (∀ g k, g ∈ segs → g.kind = 4 → k < g.len / 5 → s.mayUse 4 (bankOf (g.dst + 4 * k)) = false → ends (.hload j) 4) ∧
            ((∀ g ∈ segs, g.kind ≠ 4) → (∃ g ∈ segs, g.kind = 6 ∧ ∃ w ∈ g.words (s.payload i), s.mread w.1 ≠ w.2) → ends (.hload j) 13) ∧
            ((∀ g ∈ segs, g.kind ≠ 4 ∧ g.kind ≠ 6) → s.digestOk i = false →
              ∃ t, exec (.hload j) s = .next t ∧ t.ranWith j 8 x ∧ t.sec.hold[c] = some (s.sec.hold[c].getD {}) ∧
                ∀ a, t.mread a = (s.loadSegments segs (s.payload i) false).mread a) ∧
            ((∀ g ∈ segs, g.kind ≠ 4 ∧ g.kind ≠ 6) → s.digestOk i = true →
              ∃ t, exec (.hload j) s = .next t ∧ t.ranWith j 0 x ∧ t.sec.hold[c] = some { done := true, slot := i, entry := imgEntry h c, header := h } ∧
                ∀ a, t.mread a = (s.loadSegments segs (s.payload i) true).mread a))))) ∧
    (s.jobReady j 0x32 x → AMap.wf (fun _ => 0xFF) s.sec.flash = true → ∃ t, exec (.confirm j) s = .next t ∧ t.ranWith j 0 x ∧
      t.flashByte (slotBase x.arg + 0xFF0001) = s.flashByte (slotBase x.arg + 0xFF0001) &&& 0xFE ∧
      (∀ o, o < slotBase x.arg + 0xFF0000 ∨ slotBase x.arg + 0xFF0004 ≤ o → t.flashByte o = s.flashByte o) ∧ s.keeps t [.sec]) ∧
    (∀ r, s.cjob j = some x → x.ran = some r → s.bit (F.secJstDone j) = false →
      ∃ u, exec (.cryptoJobComplete j) s = .next (u.raiseEvent 76) ∧ u.fld (F.secJstStatus j) = r % 2 ^ (F.secJstStatus j).width ∧
        u.bit (F.secJstDone j) = true ∧ (u.fld F.secJdoneDone).testBit j = true ∧
        s.keeps u [.reg (F.secJstDone j).addr, .reg F.secJdoneDone.addr]) ∧
    (s.cjob j = some x → x.ran = none → x.fits = false → s.domOn domSec = true → s.bit (F.secJstDone j) = false →
      ∃ u, exec (.cryptoJobComplete j) s = .next (u.raiseEvent 76) ∧ u.fld (F.secJstStatus j) = 1 ∧ u.bit (F.secJstDone j) = true ∧
        (u.fld F.secJdoneDone).testBit j = true ∧ s.keeps u [.reg (F.secJstDone j).addr, .reg F.secJdoneDone.addr]) ∧
    (s.cjob j = none ∨ (s.cjob j = some x ∧ (s.bit (F.secJstDone j) = true ∨ x.ran = none ∧ (x.fits = true ∨ s.domOn domSec = false))) →
      exec (.cryptoJobComplete j) s = .next s) ∧
    (s.cjob j = some x →
      (usesFlash x.op = true → x.ran = none → x.fits = true → s.mayStart x = true →
        let c := x.core
        let h := s.slotHeader (x.arg % 2)
        (x.op ≠ 0x31 → ends (.flashTimeout j) 11) ∧
        (x.op = 0x31 → s.coreHasWork c = true ∨ imgHitless h = false → ends (.flashTimeout j) 12) ∧
        (x.op = 0x31 → s.coreHasWork c = false → imgHitless h = true → ∃ t, exec (.flashTimeout j) s = .next t ∧ t.ranWith j 11 x ∧
          t.sec.hold[c] = some (s.sec.hold[c].getD {}) ∧ s.keeps t [.sec])) ∧
      (usesFlash x.op = false ∨ x.ran.isSome = true ∨ x.fits = false ∨ s.mayStart x = false → exec (.flashTimeout j) s = .next s)) ∧
    (s.cjob j = none → (s.sec.rcvr = false → exec (.flashTimeout j) s = .next s) ∧
      (s.sec.rcvr = true → ∃ t, exec (.flashTimeout j) s = .next t ∧ t.fld F.secRstatStatus = 11 ∧ t.sec = { s.sec with verified := none } ∧
        s.keeps t [.sec, .reg F.secRstatStatus.addr])) ∧
    (∀ (w : Word) (b : Bool), (s.inDip = true → exec (.jdoneClear w b) s = .next (s.stall (.jdoneClear w b))) ∧
      (s.inDip = false → s.storesOff = true → exec (.jdoneClear w b) s = .next s)) ∧
    (∀ w : Word, s.storesOff = false → (∃ t, exec (.jdoneClear w true) s = .next t ∧ t.bit F.secStatPrivrej = true ∧ s.keeps t [.reg F.secStatPrivrej.addr]) ∧
      (∃ t, exec (.jdoneClear w false) s = .next t ∧ s.keeps t [.sec, .reg F.secJdoneDone.addr] ∧ ∀ k, k < 16 →
        (t.fld F.secJdoneDone).testBit k = ((s.fld F.secJdoneDone).testBit k && !w.getLsbD k) ∧
        t.cjob k = if w.getLsbD k && (s.fld F.secJdoneDone).testBit k then none else s.cjob k)) ∧
    (s.domOn domSec = false → exec .trngHealthFail s = .next s ∧ exec .trngHealthPass s = .next s) ∧
    (s.domOn domSec = true → (∃ u, exec .trngHealthFail s = .next (u.raiseSource 170) ∧ u.sec.trngf = true ∧ u.fld F.secStatTrngf = 1 ∧
        s.keeps u [.sec, .reg F.secStatTrngf.addr]) ∧
      (∃ t, exec .trngHealthPass s = .next t ∧ t.sec.trngf = false ∧ t.fld F.secStatTrngf = 0 ∧ s.keeps t [.sec, .reg F.secStatTrngf.addr]))

/-- R604 to R606, R609, R611 to R614: the eight commands of boot, update, recovery and the lock complete.
Where the spec leaves a choice it speaks of the model's own: log entries 144, 237, 241, 242, 244, 246. -/
def Obligations.BootAndRecoverySteps : Prop :=
  ∀ (s : State), s.canonical →
    let privrej := fun (cmd : Instr) => ∃ t, exec cmd s = .next t ∧ t.bit F.secStatPrivrej = true ∧ s.keeps t [.reg F.secStatPrivrej.addr]
    (s.sec.rom = true → s.win.startOk = true → s.win.fhalt = false → s.inDip = false → s.win.pathBad = false →
      (∃ t, exec (.boot 3) s = .next t ∧ t.sec.rcvr = true ∧ t.sec.rom = false ∧ t.bit F.secBootRcvrboot = true ∧
        (t.cr 0).busy = true ∧ (t.cr 0).job = false ∧ (t.cr 1).busy = false ∧ (t.cr 1).started = false) ∧
      (∀ (lands : Fin 4) (i : Nat), lands ≠ 3 → i < 2 → s.candidates lands = [i] → (s.slotStatus i).testBit 8 = false →
        s.headerCheck (s.slotHeader i) = 0 → s.signatureOk i = true → s.digestOk i = true →
        ∃ t, exec (.boot lands) s = .next t ∧ t.sec.rom = false ∧ t.sec.rcvr = false ∧ t.fld F.secBootSlot = i ∧
          t.fld F.secImgverVersion = imgVersion (s.slotHeader i) ∧ (t.reg 0x50100100).getLsbD 0 = true ∧
          (t.cr 0).pc = BitVec.ofNat 32 (imgEntry (s.slotHeader i) 0) ∧ (t.cr 0).busy = true ∧ (t.cr 0).job = false ∧
          (t.cr 0).w = Vector.replicate 32 TWord.nil0 ∧ (t.cr 1).busy = decide (imgEntry (s.slotHeader i) 1 ≠ 0) ∧
          t.sec.hold = Vector.replicate 2 none ∧
          (∀ a, t.mread a = ((([1, 2, domSec, domXspi].foldl State.romWakes s).wakeSegments (segments (s.slotHeader i))).loadSegments
            (segments (s.slotHeader i)) (s.payload i) true).mread a))) ∧
    (s.win.startOk = false ∨ s.win.fhalt = true ∨ s.inDip = true ∨ s.win.pathBad = true → ∀ lands, exec (.boot lands) s = .next s) ∧
    (s.sec.rom = false → ∀ lands, exec (.boot lands) s = .next s) ∧
    (∀ (c : Fin 2) (x : CoreHold) (w : Word), s.storesOff = false → s.sec.hold[c] = some x → x.done = true → w = BitVec.ofNat 32 (2 ^ c.val) →
      ∃ t, exec (.hctlStart w false) s = .next t ∧ t.sec.hold[c] = none ∧ t.fld F.secBootSlot = x.slot % 2 ^ F.secBootSlot.width ∧
        (t.cr c).pc = BitVec.ofNat 32 ((coreEntry x.header c).getD 0) ∧ (t.cr c).busy = (coreEntry x.header c).isSome ∧
        (t.cr c).started = true ∧ (t.cr c).stack = [] ∧
        s.keeps t [.core c, .sec, .reg F.secBootSlot.addr, .reg F.secImgverVersion.addr, .reg F.secArbImgarb.addr]) ∧
    (∀ w : Word, s.inDip = false → w ≠ 0x5EC00D1E#32 → exec (.recoverEntry w false) s = .next s) ∧
    (s.sec.rcvr = false → s.storesOff = false → ∃ t, exec (.recoverEntry 0x5EC00D1E#32 false) s = .next t ∧ t.sec.rcvr = true ∧
      t.sec.buf = [] ∧ (t.cr 0).busy = true ∧ (t.cr 0).pc = 0 ∧ (t.cr 0).job = false ∧ (t.cr 0).stack = [] ∧ (t.cr 1).busy = false ∧
      (t.cr 1).started = false ∧ (∀ c : Fin 2, (t.cr c).buf = (s.cr c).buf) ∧ t.frm.frame = s.frm.frame) ∧
    (s.sec.rcvr = true → exec (.recoverEntry 0x5EC00D1E#32 false) s = .next (if s.inDip then s.stall (.recoverEntry 0x5EC00D1E#32 false) else s)) ∧
    (∀ (w : Word) (b : Bool) (n : Nat) (slot : Fin 4) (i : Instr) (d : DipAccess),
      (i, d) ∈ ([(.recoverEntry w b, .recoverEntry w b), (.hctlStart w b, .hctlStart w b), (.rdataWrite w n b, .rdataWrite w n b),
        (.recoveryErase slot b, .recoveryErase slot b), (.recoveryVerify slot b, .recoveryVerify slot b),
        (.recoveryBoot slot b, .recoveryBoot slot b), (.drespCheck w b, .drespCheck w b)] : List (Instr × DipAccess)) →
      (s.inDip = true → exec i s = .next (s.stall d)) ∧ (s.inDip = false → s.storesOff = true → exec i s = .next s)) ∧
    (s.storesOff = false → ∀ (w : Word) (slot : Fin 4), privrej (.recoverEntry w true) ∧ privrej (.hctlStart w true) ∧ privrej (.rdataWrite w 0 true) ∧
      privrej (.recoveryErase slot true) ∧ privrej (.recoveryVerify slot true) ∧ privrej (.recoveryBoot slot true) ∧ privrej (.drespCheck w true)) ∧
    (s.sec.rcvr = false → s.inDip = false → ∀ (w : Word) (slot : Fin 4) (n : Nat), exec (.recoveryErase slot false) s = .next s ∧
      exec (.recoveryVerify slot false) s = .next s ∧ exec (.recoveryBoot slot false) s = .next s ∧ exec (.rdataWrite w n false) s = .next s) ∧
    (s.sec.rcvr = true → s.storesOff = false → ∀ slot : Fin 4,
      let i := if slot.val = 1 then 1 else 0
      (∃ t, exec (.recoveryErase slot false) s = .next t ∧ t.sec.buf = [] ∧ t.sec.verified = none ∧ t.fld F.secRstatStatus = 0 ∧
        ∀ o, t.flashByte o = if slotBase i ≤ o ∧ o < slotBase i + 0x1000000 then 0xFF else s.flashByte o) ∧
      (s.sec.buf = [] → s.imageCheck i = 0 → s.digestOk i = true → ∃ t, exec (.recoveryVerify slot false) s = .next t ∧
        t.sec.verified = some i ∧ t.fld F.secRstatStatus = 0 ∧ ∀ o, t.flashByte o = s.flashByte o) ∧
      (s.sec.verified = some i → s.digestOk i = true → ∃ t, exec (.recoveryBoot slot false) s = .next t ∧ t.sec.rcvr = false ∧
        (t.cr 0).pc = BitVec.ofNat 32 (imgEntry (s.slotHeader i) 0) ∧ (t.cr 0).busy = true ∧ t.fld F.secBootSlot = i) ∧
      (s.sec.verified ≠ some i → ∃ t, exec (.recoveryBoot slot false) s = .next t ∧ t.sec.rcvr = true ∧ t.fld F.secRstatStatus = 7) ∧
      (s.sec.verified = some i → s.digestOk i = false → ∃ t, exec (.recoveryBoot slot false) s = .next t ∧ t.fld F.secRstatStatus = 8 ∧
        t.sec.verified = none ∧ t.sec.rcvr = true) ∧
      (∀ (w : Word) (n : Nat), s.sec.buf.length < 1024 + 64 * n → ∃ t, exec (.rdataWrite w n false) s = .next t ∧
        t.sec.buf = s.sec.buf.drop (64 * n) ++ [(s.fld F.secRaddrOff, w)] ∧
        t.fld F.secRaddrOff = (s.fld F.secRaddrOff + 4) % 2 ^ F.secRaddrOff.width ∧ s.keeps t [.sec, .reg F.secRaddrOff.addr]) ∧
      (∀ w : Word, (s.sec.buf.length < 1024 → ∃ t, exec (.rdataWrite w 0 false) s = .next t ∧
          t.sec = { s.sec with buf := s.sec.buf ++ [(s.fld F.secRaddrOff, w)] } ∧
          t.fld F.secRaddrOff = (s.fld F.secRaddrOff + 4) % 2 ^ F.secRaddrOff.width ∧ s.keeps t [.sec, .reg F.secRaddrOff.addr]) ∧
        (1024 ≤ s.sec.buf.length → ∃ t, exec (.rdataWrite w 0 false) s = .next t ∧ t.bit F.secRstatOvf = true ∧
          t.sec.buf = s.sec.buf))) ∧
    (∀ w : Word, s.storesOff = false → (∀ k : Fin 2, w.getLsbD k = false ∨ s.sec.hold[k] = none ∨ ∃ x, s.sec.hold[k] = some x ∧ x.done = false) →
      exec (.hctlStart w false) s = .next s) ∧
    (∀ w : Word, s.storesOff = false → 8 ≤ s.sec.fails → exec (.drespCheck w false) s = .next s) ∧
    (∀ w : Word, s.storesOff = false → s.sec.fails < 8 →
      let chal := (upto 4).flatMap (fun k => leOf 4 (nth s.sec.dchal k 0).toNat)
      let resp := (upto 3).flatMap (fun k => leOf 4 (s.fld (F.secDrespResp k))) ++ leOf 4 w.toNat
      (s.dbgMode ≠ 1 → ∃ t, exec (.drespCheck w false) s = .next t ∧ s.keeps t [.reg (F.secDrespResp 3).addr]) ∧
      (s.dbgMode = 1 → s.bit (F.secKattrLoaded 30) = true → cmac (s.slotKey 30) (chal ++ s.uid) = resp →
        ∃ t, exec (.drespCheck w false) s = .next t ∧ t.bit F.dbgStatLocked = false ∧
          s.keeps t [.reg (F.secDrespResp 3).addr, .reg F.dbgStatLocked.addr]) ∧
      (s.dbgMode = 1 → cmac (s.slotKey 30) (chal ++ s.uid) ≠ resp → ∃ t, exec (.drespCheck w false) s = .next t ∧
        t.sec.fails = s.sec.fails + 1 ∧ t.bit F.secStatDfail = true ∧ t.bit F.dbgStatLocked = s.bit F.dbgStatLocked ∧
        (s.sec.fails = 7 → t.bit F.secStatDlockout = true)))

/-- R618 to R620, R625 to R629, R634, R638: the five commands of the Silo.
Where the spec leaves a choice it speaks of the model's own: log entries 252, 253, 254, 255, 256, 258. -/
def Obligations.SiloOperations : Prop :=
  ∀ (mv : Int) (s : State), s.canonical →
    let r := s.fld F.silPrecRec
    let d := s.fld F.silPdloData + 2 ^ 32 * s.fld F.silPdhiData
    let sound := 6800 ≤ mv ∧ mv ≤ 7200
    let cmds := [Instr.prog mv false, Instr.arbstep mv false, Instr.wear mv false]
    let refuses := fun (cmd : Instr) (code : Nat) => ∃ t, exec cmd s = .next t ∧ t.fld F.silStatPstat = code ∧
      s.keeps t [.pin .vpp, .reg F.silStatPstat.addr]
    let starts := fun (cmd : Instr) (o : SilOp) => ∃ t, exec cmd s = .next t ∧ t.sil = { s.sil with op := some o } ∧ s.keeps t [.pin .vpp, .sil]
    (s.storesOff = false → ∀ cmd ∈ [Instr.prog mv true, Instr.arbstep mv true, Instr.wear mv true], ∃ t, exec cmd s = .next t ∧ t.bit F.silStatPrivrej = true ∧
      s.keeps t [.pin .vpp, .reg F.silStatPrivrej.addr]) ∧
    (s.storesOff = false → 7500 < mv → ∀ cmd ∈ cmds, exec cmd s = .fault (.uncheckedUse 629)) ∧
    (s.storesOff = false → mv ≤ 7500 → s.sil.op.isSome = true → ∀ cmd ∈ cmds, refuses cmd 7) ∧
    (s.storesOff = false → mv ≤ 7500 → ¬sound → s.sil.op = none → ∀ cmd ∈ cmds, refuses cmd 1) ∧
    (s.storesOff = false → sound → s.sil.op = none →
      (¬((32 ≤ r ∧ r ≤ 36) ∨ (38 ≤ r ∧ r ≤ 51) ∨ (64 ≤ r ∧ r ≤ 127)) → refuses (.prog mv false) 2) ∧
      ((32 ≤ r ∧ r ≤ 36) ∨ (38 ≤ r ∧ r ≤ 51) ∨ (64 ≤ r ∧ r ≤ 127) →
        ((∀ g, g < 4 → (s.siloGen r g).blank = false) → ∃ t, exec (.prog mv false) s = .next t ∧ t.fld F.silStatPstat = 3 ∧
          t.bit F.glnStatWorn = true ∧ t.sil = s.sil) ∧
        (∀ g, g < 4 → (s.siloGen r g).blank = true →
          (r = 36 → bitsN d 0 2 < bitsN (s.shadow 36) 0 2 ∨ (∃ k, 2 ≤ k ∧ k ≤ 4 ∧ (s.shadow 36).testBit k = true ∧ d.testBit k = false) ∨
            (s.sec.header ≠ [] ∧ d.testBit (3 + s.sec.header.getD 0x0A 0) = true) → refuses (.prog mv false) 4) ∧
          (r ≠ 36 ∨ s.bootcfgBars d = false → starts (.prog mv false) (.prog r d)))) ∧
      (128 ≤ s.fld F.secArbCount ∨ s.fld F.secArbImgarb ≤ s.fld F.secArbCount → refuses (.arbstep mv false) 8) ∧
      (s.fld F.secArbCount < 128 → s.fld F.secArbCount < s.fld F.secArbImgarb → starts (.arbstep mv false) .arbstep) ∧
      (∃ m, starts (.wear mv false) (.wear m) ∧
        (∀ b l, b < 16 → l < 8 → s.fld (F.grnLaneSpfor b) = l → 64 * (54 + (8 * b + l) / 64) + (8 * b + l) % 64 ∈ m) ∧
        (∀ c k, c < 48 → (s.out c).seg.out = some k → let n := if c < 8 then 5 * c + k else 40 + 4 * (c - 8) + k
          64 * (56 + n / 64) + n % 64 ∈ m) ∧
        (∀ p, p < 4 → s.fld F.pwrRegSpfor = p → 64 * 60 + p ∈ m))) ∧
    (∀ b, s.inDip = true → exec (.prog mv b) s = .next (s.stall (.prog mv b)) ∧ exec (.arbstep mv b) s = .next (s.stall (.arbstep mv b)) ∧
      exec (.wear mv b) s = .next (s.stall (.wear mv b))) ∧
    (s.inDip = false → s.storesOff = true → ∀ cmd ∈ cmds, exec cmd s = .next s) ∧
    (s.sil.op = none → (∀ a b, exec (.siloOpComplete a b) s = .next s)) ∧
    (∀ k x a b, s.sil.op = some (.prog k x) → s.blankGen k = none → ∃ t, exec (.siloOpComplete a b) s = .next t ∧ t.fld F.silStatPstat = 5 ∧
      t.sil = { s.sil with op := none, done := true } ∧ s.keeps t [.sil, .reg F.silStatPstat.addr]) ∧
    (∀ k x g g2, s.sil.op = some (.prog k x) → s.blankGen k = some g → g < g2 → g2 < 4 → (s.siloGen k g2).blank = true →
      (∀ h, g < h → h < g2 → (s.siloGen k h).blank = false) → AMap.wf (fun _ => {}) s.sil.gens = true → AMap.wf (fun _ => 0) s.sil.shadow = true →
      ∃ t, exec (.siloOpComplete true false) s = .next t ∧ (t.siloGen k g).void = true ∧
        t.siloGen k g2 = { start := true, done := true, data := x } ∧ t.shadow k = t.siloData k ∧ (∀ j, j ≠ k → t.shadow j = s.shadow j) ∧
        t.sil.op = none ∧ t.sil.done = true ∧ t.fld F.silStatPstat = 0 ∧ (s.quiet → s.feat (sourceFeat 177) = true → t.sticky 177 = true)) ∧
    (∀ k x g, s.sil.op = some (.prog k x) → s.blankGen k = some g → AMap.wf (fun _ => {}) s.sil.gens = true →
        AMap.wf (fun _ => 0) s.sil.shadow = true →
      (∀ b, ∃ t, exec (.siloOpComplete false b) s = .next t ∧ t.siloGen k g = { start := true, done := true, data := x } ∧
        t.shadow k = t.siloData k ∧ (∀ j, j ≠ k → t.shadow j = s.shadow j) ∧
        (∀ q h, 4 * q + h ≠ 4 * k + g → t.siloGen q h = s.siloGen q h) ∧
        t.sil.op = none ∧ t.sil.done = true ∧ t.fld F.silStatPstat = 0) ∧
      (∃ t, exec (.siloOpComplete true true) s = .next t ∧ (t.siloGen k g).void = true ∧ (∀ j, t.shadow j = s.shadow j) ∧
        t.sil.op = none ∧ t.fld F.silStatPstat = 5) ∧
      (∀ v vb cells, v < 6800 ∨ 7200 < v ∨ vb < 6000 ∨ 58000 < vb →
        ∃ u : State, exec (.siloAbort v vb cells) s = .next (u.raiseSource 177) ∧ (u.siloGen k g).void = true ∧ u.sil.op = none ∧
          u.fld F.silStatPstat = 6 ∧ ∀ j, u.shadow j = s.shadow j)) ∧
    (s.sil.op = some .arbstep → AMap.wf (fun _ => {}) s.sil.gens = true → ∀ a b,
      ∃ t, exec (.siloOpComplete a b) s = .next t ∧
        (let n := s.fld F.secArbCount
         t.rawBit (52 + n / 64) (n % 64) = true ∧ t.fld F.secArbCount = t.thermometer % 2 ^ F.secArbCount.width) ∧
        t.sil.op = none ∧ t.fld F.silStatPstat = 0 ∧ ∀ k x, t.mread k = s.mread k ∧ t.out x = s.out x) ∧
    (∀ m, s.sil.op = some (.wear m) → AMap.wf (fun _ => {}) s.sil.gens = true → (∀ k, 54 ≤ k → k ≤ 60 → s.shadow k = s.siloData k) →
      ∀ a b, ∃ t, exec (.siloOpComplete a b) s = .next t ∧ (∀ x ∈ m, 54 ≤ x / 64 → x / 64 ≤ 60 → t.rawBit (x / 64) (x % 64) = true) ∧
        t.sil.op = none ∧ t.fld F.silStatPstat = 0) ∧
    (∀ v vb cells, v < 6800 ∨ 7200 < v ∨ vb < 6000 ∨ 58000 < vb → s.sil.op = some .arbstep ∨ (∃ m, s.sil.op = some (.wear m)) →
      ∃ u : State, exec (.siloAbort v vb cells) s = .next (u.raiseSource 177) ∧ u.sil.op = none ∧ u.fld F.silStatPstat = 6 ∧
        (∀ j, u.shadow j = s.shadow j) ∧ s.keeps u [.pin .vpp, .pin (.vbat 2), .sil, .reg F.silStatPstat.addr]) ∧
    (∀ v vb cells, s.sil.op = none ∨ 6800 ≤ v ∧ v ≤ 7200 ∧ 6000 ≤ vb ∧ vb ≤ 58000 →
      ∃ t, exec (.siloAbort v vb cells) s = .next t ∧ s.keeps t [.pin .vpp, .pin (.vbat 2)])

/-- R413 to R415, R630, R632, R637: the two commands of the Gleaner.
Where the spec leaves a choice it speaks of the model's own: log entries 127, 258, 260. -/
def Obligations.GleanerCommands : Prop :=
  ∀ (s : State), s.canonical →
    (∀ w : Word, s.storesOff = false →
      (∃ t, exec (.frc w true) s = .next t ∧ t.bit F.glnStatPrivrej = true ∧ s.keeps t [.reg F.glnStatPrivrej.addr]) ∧
      (w.toNat % 16 = 0 ∨ w.toNat % 16 = 1 ∨ w.toNat % 16 = 4 → ∃ t, exec (.frc w false) s = .next t ∧ s.keeps t [.gln] ∧
        t.gln = { s.gln with forced := s.gln.forced ++ [(w.toNat % 16, w.toNat / 16 % 256, w.toNat / 4096 % 16)] }) ∧
      (w.toNat % 16 ≠ 0 → w.toNat % 16 ≠ 1 → w.toNat % 16 ≠ 4 → exec (.frc w false) s = .next s)) ∧
    (∀ (w : Word) (j : Bool), (s.inDip = true → exec (.frc w j) s = .next (s.stall (.frc w j))) ∧
      (s.inDip = false → s.storesOff = true → exec (.frc w j) s = .next s)) ∧
    (∀ (b : Fin 16) (l : Fin 9),
      let n := nth (s.gbank b).rate l 0
      (n < s.fld F.glnLanecfgLth ∨ (s.fld F.glnCtlEn).testBit 1 = false → exec (.laneRetire b l) s = .next s) ∧
      (s.fld F.glnLanecfgLth ≤ n → (s.fld F.glnCtlEn).testBit 1 = true →
        (l.val < 8 → s.fld (F.grnLaneSpfor b) = 15 → s.bit (F.grnLaneSpfail b) = false → (s.gbank b).copy = none →
          ∃ t, exec (.laneRetire b l) s = .next t ∧ (t.gbank b).copy = some (l.val, false) ∧ t.fld (F.grnLaneCopy b) = 1 ∧
            s.keeps t [.gbank b, .reg (F.grnLaneCopy b).addr]) ∧
        ((∃ q, (s.gbank b).copy = some (l.val, q)) → ∃ t, exec (.laneRetire b l) s = .next t ∧
          t.gbank b = { s.gbank b with rate := updN (s.gbank b).rate l (fun _ => 0) } ∧ s.keeps t [.gbank b]) ∧
        (l.val = 8 ∨ s.fld (F.grnLaneSpfor b) ≠ 15 ∨ s.bit (F.grnLaneSpfail b) = true ∨ (s.gbank b).copy ≠ none →
          (∀ q, (s.gbank b).copy ≠ some (l.val, q)) →
          ∃ t, exec (.laneRetire b l) s = .next t ∧ t.bit (F.grnLaneWorn b) = true ∧
            t.fld (F.grnLaneWlane b) = (if l.val = 8 then s.fld (F.grnLaneSpfor b) else l.val) ∧
            t.bit (F.grnLaneSpfail b) = (s.bit (F.grnLaneSpfail b) || decide (l.val = 8)) ∧
            t.bit F.glnStatWorn = true ∧ (t.gbank b).copy = (s.gbank b).copy ∧
            (s.quiet → s.feat (sourceFeat 20) = true → t.sticky 20 = true))))
end

