-- ==== Sys2Proof/Laws/Stable.lean ====
section
/-!
SUPPORT. What an ordinary operation can do, said once: a property that survives register stores, memory stores and any change of the
rest survives every operation (`Stable`), and every command with what edges and resets do besides (`Lasting`). The lemmas below take a
goal about an operation apart; StableOps1 to StableOps4 hold one lemma per operation and per meaning, StableExec the one about `exec`.
-/

namespace Sys2Proof.Machine

/-- What an ordinary operation may do to the state: store registers and memory words through the named operations, move COUNT forward, and
change anything else but the queue, FRAME, the moment of its edge and a class F halt that holds. A property that those changes keep is kept by every such operation. -/
structure Stable (P : State → Prop) : Prop where
  reg : ∀ s a w, P s → P (s.setReg a w)
  mem : ∀ s a w, P s → P (s.mwrite a w)
  lose : ∀ s lo hi, P s → P (s.mclear lo hi)
  clear : ∀ s f, P s → P { s with regs := s.regs.filter f }
  rest : ∀ s t : State, t.regs = s.regs → t.mem = s.mem → t.pending = s.pending → t.frm.frame = s.frm.frame →
    t.frm.edgeAt = s.frm.edgeAt → s.count ≤ t.count → (s.win.fhalt = true → t.win.fhalt = true) → P s → P t

/-- What the edges and the resets may do besides: begin from the registers and the memory of reset, move FRAME, end a class F halt. -/
structure Lasting (P : State → Prop) : Prop extends Stable P where
  any : ∀ s t : State, t.regs = s.regs → t.mem = s.mem → t.pending = s.pending → P s → P t
  reset : ∀ s t : State, t.regs = State.reset.regs → t.mem = [] → t.pending = s.pending → P s → P t

variable {P : State → Prop}

/-- The property holds of the state that an outcome goes on from. -/
structure OfOut (P : State → Prop) (o : Out) : Prop where
  get : match o with
    | .next t => P t
    | _ => True
/-- The property holds of the state that an instruction leaves. -/
structure OfEff (P : State → Prop) (o : Eff) : Prop where
  get : match o with
    | .done t _ _ => P t
    | .trap _ _ t => P t
    | .wait t => P t
    | .unchecked _ => True
/-- The property holds of the state that an access leaves. -/
structure OfBus (P : State → Prop) (o : BusRes) : Prop where
  get : match o with
    | .ok _ t => P t
    | .data t => P t
    | _ => True
/-- The property holds of the state, where there is one. -/
structure OfOpt (P : State → Prop) (o : Option State) : Prop where
  get : match o with
    | some t => P t
    | none => True
/-- The same of an access, where there is one. -/
structure OfOptBus (P : State → Prop) (o : Option BusRes) : Prop where
  get : match o with
    | some t => OfBus P t
    | none => True
/-- The same of an effect, where there is one. -/
structure OfOptEff (P : State → Prop) (o : Option Eff) : Prop where
  get : match o with
    | some t => OfEff P t
    | none => True
/-- The same of a state or an error number. -/
structure OfExcS (P : State → Prop) (o : Except Nat State) : Prop where
  get : match o with
    | .ok t => P t
    | .error _ => True
/-- The same of a value with a state, or an error number. -/
structure OfExc {α}  (P : State → Prop) (o : Except Nat (α × State)) : Prop where
  get : match o with
    | .ok t => P t.2
    | .error _ => True
/-- The same of two numbers with a state, or an error number. -/
structure OfExc2 (P : State → Prop) (o : Except Nat (Nat × Nat × State)) : Prop where
  get : match o with
    | .ok t => P t.2.2
    | .error _ => True
/-- The same of a state, or of the effect that takes its place. -/
structure OfExcEff (P : State → Prop) (o : Except Eff State) : Prop where
  get : match o with
    | .ok t => P t
    | .error e => OfEff P e
/-- The same of a value with a state, or of the effect that takes its place. -/
structure OfExcEffP {α}  (P : State → Prop) (o : Except Eff (α × State)) : Prop where
  get : match o with
    | .ok t => P t.2
    | .error e => OfEff P e

/-- The state with every part but the registers, the memory and the queue given anew. -/
def State.upd (s : State) (x2 : Nat) (x3 : List (Sensor × Int)) (x4 : Frm) (x5 : Sw) (x6 : Winnow) (x7 : Inp) (x8 : Prs) (x9 : Vector Led 24) (x10 : Grn) (x11 : Pwr) (x12 : Vector Can 6) (x13 : Vector Lin 4) (x14 : Nm) (x15 : Eth) (x16 : Ptp) (x17 : Tim) (x18 : Bal) (x19 : AccBlk) (x20 : Hst) (x21 : Sec) (x22 : Sil) (x23 : Gln) (x24 : Vector TWord 4) (x25 : Nat) (x26 : Vector Core 2) (x27 : Nat) : State :=
  State.mk s.regs s.mem x2 x3 x4 x5 x6 x7 x8 x9 x10 x11 x12 x13 x14 x15 x16 x17 x18 x19 x20 x21 x22 x23 x24 x25 x26 x27 s.pending
theorem mk_upd (s : State) x2 x3 x4 x5 x6 x7 x8 x9 x10 x11 x12 x13 x14 x15 x16 x17 x18 x19 x20 x21 x22 x23 x24 x25 x26 x27 : State.mk s.regs s.mem x2 x3 x4 x5 x6 x7 x8 x9 x10 x11 x12 x13 x14 x15 x16 x17 x18 x19 x20 x21 x22 x23 x24 x25 x26 x27 s.pending = s.upd x2 x3 x4 x5 x6 x7 x8 x9 x10 x11 x12 x13 x14 x15 x16 x17 x18 x19 x20 x21 x22 x23 x24 x25 x26 x27 := rfl
theorem st_upd (hP : Stable P) (s : State) {x2 x3 x4 x5 x6 x7 x8 x9 x10 x11 x12 x13 x14 x15 x16 x17 x18 x19 x20 x21 x22 x23 x24 x25 x26 x27}
    (h4 : x4.frame = s.frm.frame) (h6 : x4.edgeAt = s.frm.edgeAt) (h7 : s.count ≤ x2) (h5 : s.win.fhalt = true → x6.fhalt = true) (h : P s) : P (s.upd x2 x3 x4 x5 x6 x7 x8 x9 x10 x11 x12 x13 x14 x15 x16 x17 x18 x19 x20 x21 x22 x23 x24 x25 x26 x27) :=
  hP.rest s _ rfl rfl rfl h4 h6 h7 h5 h
theorem st_ite {p : Prop} {_ : Decidable p} {a b : State} (h : P a) (k : P b) : P (if p then a else b) := by split <;> assumption
theorem st_getD {o : Option State} {s : State} (h : OfOpt P o) (k : P s) : P (o.getD s) := by
  cases o with
  | none => exact k
  | some t => exact h.get
theorem of_getD {o : Option Eff} {k : Eff} (h : OfOptEff P o) (g : OfEff P k) : OfEff P (o.getD k) := by
  cases o with
  | none => exact g
  | some t => exact h.get
theorem st_foldl2 {α β : Type} {f : β × State → α → β × State} {l : List α} {p : β × State} (h : ∀ q x, P q.2 → P (f q x).2) (k : P p.2) :
    P (l.foldl f p).2 := by
  induction l generalizing p with
  | nil => exact k
  | cons a l ih => exact ih (h _ _ k)
theorem of_oite {p : Prop} {_ : Decidable p} {a b : Out} (h : OfOut P a) (k : OfOut P b) : OfOut P (if p then a else b) := by split <;> assumption
theorem of_eite {p : Prop} {_ : Decidable p} {a b : Eff} (h : OfEff P a) (k : OfEff P b) : OfEff P (if p then a else b) := by split <;> assumption
theorem of_bite {p : Prop} {_ : Decidable p} {a b : BusRes} (h : OfBus P a) (k : OfBus P b) : OfBus P (if p then a else b) := by split <;> assumption
theorem of_boite {p : Prop} {_ : Decidable p} {a b : Option BusRes} (h : OfOptBus P a) (k : OfOptBus P b) : OfOptBus P (if p then a else b) := by
  split <;> assumption
theorem of_xeite {p : Prop} {_ : Decidable p} {a b : Except Eff State} (h : OfExcEff P a) (k : OfExcEff P b) : OfExcEff P (if p then a else b) := by
  split <;> assumption
theorem st_pite {α : Type} {p : Prop} {_ : Decidable p} {a b : α × State} (h : P a.2) (k : P b.2) : P (if p then a else b).2 := by split <;> assumption
theorem st_foldl {α : Type} {f : State → α → State} {l : List α} {s : State} (h : ∀ t x, P t → P (f t x)) (k : P s) : P (l.foldl f s) := by
  induction l generalizing s with
  | nil => exact k
  | cons a l ih => exact ih (h _ _ k)
theorem st_forEach {n : Nat} {f : State → Nat → State} {s : State} (h : ∀ t x, P t → P (f t x)) (k : P s) : P (forEach n f s) := st_foldl h k
theorem st_opt {o : Option State} {t : State} (e : o = some t) (h : OfOpt P o) : P t := by rw [e] at h; exact h.get
theorem st_snd {α} {o : α × State} {a} {t : State} (e : o = (a, t)) (h : P o.2) : P t := by rw [e] at h; exact h
theorem st_snd2 {α β} {o : α × β × State} {a b} {t : State} (e : o = (a, b, t)) (h : P o.2.2) : P t := by rw [e] at h; exact h
theorem st_pite2 {α β : Type} {p : Prop} {_ : Decidable p} {a b : α × β × State} (h : P a.2.2) (k : P b.2.2) : P (if p then a else b).2.2 := by
  split <;> assumption
theorem st_fst {α} {o : State × α} {a} {t : State} (e : o = (t, a)) (h : P o.1) : P t := by rw [e] at h; exact h
theorem st_optbus {o : Option BusRes} {t} (e : o = some t) (h : OfOptBus P o) : OfBus P t := by rw [e] at h; exact h.get
theorem st_opteff {o : Option Eff} {t} (e : o = some t) (h : OfOptEff P o) : OfEff P t := by rw [e] at h; exact h.get
theorem st_done {o : Eff} {t n l} (e : o = .done t n l) (h : OfEff P o) : P t := by rw [e] at h; exact h.get
theorem st_trap {o : Eff} {t n l} (e : o = .trap n l t) (h : OfEff P o) : P t := by rw [e] at h; exact h.get
theorem st_wait {o : Eff} {t} (e : o = .wait t) (h : OfEff P o) : P t := by rw [e] at h; exact h.get
theorem st_bok {o : BusRes} {v t} (e : o = .ok v t) (h : OfBus P o) : P t := by rw [e] at h; exact h.get
theorem st_bdata {o : BusRes} {t} (e : o = .data t) (h : OfBus P o) : P t := by rw [e] at h; exact h.get
theorem st_next {o : Out} {t} (e : o = .next t) (h : OfOut P o) : P t := by rw [e] at h; exact h.get
theorem st_exs {o : Except Nat State} {t} (e : o = .ok t) (h : OfExcS P o) : P t := by rw [e] at h; exact h.get
theorem st_exp {α} {o : Except Nat (α × State)} {a t} (e : o = .ok (a, t)) (h : OfExc P o) : P t := by rw [e] at h; exact h.get
theorem st_exp2 {o : Except Nat (Nat × Nat × State)} {a b t} (e : o = .ok (a, b, t)) (h : OfExc2 P o) : P t := by rw [e] at h; exact h.get
theorem of_x2err {n} : OfExc2 P (.error n) := ⟨trivial⟩
theorem of_x2ok {t : Nat × Nat × State} (h : P t.2.2) : OfExc2 P (.ok t) := ⟨h⟩
theorem st_exe {o : Except Eff State} {t} (e : o = .ok t) (h : OfExcEff P o) : P t := by rw [e] at h; exact h.get
theorem st_exee {o : Except Eff State} {t} (e : o = .error t) (h : OfExcEff P o) : OfEff P t := by rw [e] at h; exact h.get
theorem st_exep {α} {o : Except Eff (α × State)} {a t} (e : o = .ok (a, t)) (h : OfExcEffP P o) : P t := by rw [e] at h; exact h.get
theorem st_exepe {α} {o : Except Eff (α × State)} {t} (e : o = .error t) (h : OfExcEffP P o) : OfEff P t := by rw [e] at h; exact h.get
theorem st_andThen (_ : Stable P) {r : Except Eff State} {f : State → Eff} (h : OfExcEff P r) (k : ∀ t, P t → OfEff P (f t)) : OfEff P (andThen r f) := by
  cases r with
  | error e => exact h.get
  | ok t => exact k t h.get
theorem st_andThenP (_ : Stable P) {α : Type} {r : Except Eff (α × State)} {f : α × State → Eff} (h : OfExcEffP P r) (k : ∀ p, P p.2 → OfEff P (f p)) :
    OfEff P (andThen r f) := by
  cases r with
  | error e => exact h.get
  | ok t => exact k t h.get
theorem of_next {t : State} (h : P t) : OfOut P (.next t) := ⟨h⟩
theorem of_fault {t} : OfOut P (.fault t) := ⟨trivial⟩
theorem of_done {t : State} {n l} (h : P t) : OfEff P (.done t n l) := ⟨h⟩
theorem of_trap {t : State} {n l} (h : P t) : OfEff P (.trap n l t) := ⟨h⟩
theorem of_wait {t : State} (h : P t) : OfEff P (.wait t) := ⟨h⟩
theorem of_unchecked {t} : OfEff P (.unchecked t) := ⟨trivial⟩
theorem of_bok {v} {t : State} (h : P t) : OfBus P (.ok v t) := ⟨h⟩
theorem of_bdata {t : State} (h : P t) : OfBus P (.data t) := ⟨h⟩
theorem of_bwait {d} : OfBus P (.wait d) := ⟨trivial⟩
theorem of_balign : OfBus P .align := ⟨trivial⟩
theorem of_bbus : OfBus P .bus := ⟨trivial⟩
theorem of_bpriv : OfBus P .priv := ⟨trivial⟩
theorem of_btype : OfBus P .type := ⟨trivial⟩
theorem of_bunchecked {n} : OfBus P (.unchecked n) := ⟨trivial⟩
theorem of_none : OfOpt P none := ⟨trivial⟩
theorem of_some {t : State} (h : P t) : OfOpt P (some t) := ⟨h⟩
theorem of_bnone : OfOptBus P none := ⟨trivial⟩
theorem of_bsome {t} (h : OfBus P t) : OfOptBus P (some t) := ⟨h⟩
theorem of_enone : OfOptEff P none := ⟨trivial⟩
theorem of_esome {t} (h : OfEff P t) : OfOptEff P (some t) := ⟨h⟩
theorem of_xserr {n} : OfExcS P (.error n) := ⟨trivial⟩
theorem of_xsok {t} (h : P t) : OfExcS P (.ok t) := ⟨h⟩
theorem of_xerr {α} {n} : OfExc (α := α) P (.error n) := ⟨trivial⟩
theorem of_xok {α} {t : α × State} (h : P t.2) : OfExc P (.ok t) := ⟨h⟩
theorem of_xeerr {e} (h : OfEff P e) : OfExcEff P (.error e) := ⟨h⟩
theorem of_xeok {t} (h : P t) : OfExcEff P (.ok t) := ⟨h⟩
theorem of_xeperr {α} {e} (h : OfEff P e) : OfExcEffP (α := α) P (.error e) := ⟨h⟩
theorem of_xepok {α} {t : α × State} (h : P t.2) : OfExcEffP P (.ok t) := ⟨h⟩

end Sys2Proof.Machine
end

