-- ==== Sys2Proof/Laws/StableOps1.lean ====
section
/-!
SUPPORT. Every operation keeps a stable property: Ops, Domains, InputOps, SwitchOps, PressOps, LedOps, SafePath, WinnowOps, Switch, Inputs, SwitchEdge, GranaryOps, Press, PressEdge, Led, Winnow, CanOps.
-/

set_option linter.all false
set_option maxHeartbeats 400000

namespace Sys2Proof.Machine

variable {P : State → Prop}

theorem State.setFld_stable (hP : Stable P) (f : Fld) (v : Nat) {s : State} (h_s : P s) : P (State.setFld s f v) := by
  unfold State.setFld; (try dsimp only)
  repeat' first | intro _ | with_reducible (first | assumption | apply hP.reg | apply st_ite (P := P)) | split

theorem State.setBit_stable (hP : Stable P) (f : Fld) {s : State} (h_s : P s) : P (State.setBit s f) := by
  unfold State.setBit; (try dsimp only)
  repeat' first | intro _ | with_reducible (first | assumption | apply State.setFld_stable hP | apply st_ite (P := P)) | split

theorem State.putBit_stable (hP : Stable P) (f : Fld) (b : Bool) {s : State} (h_s : P s) : P (State.putBit s f b) := by
  unfold State.putBit; (try dsimp only)
  repeat' first | intro _ | with_reducible (first | assumption | apply State.setFld_stable hP | apply st_ite (P := P)) | split

theorem State.satInc_stable (hP : Stable P) (f : Fld) {s : State} (h_s : P s) : P (State.satInc s f) := by
  unfold State.satInc; (try dsimp only)
  repeat' first | intro _ | with_reducible (first | assumption | apply State.setFld_stable hP | apply st_ite (P := P)) | split

theorem State.applyPlain_stable (hP : Stable P) (a : Nat) (w : Word) {s : State} (h_s : P s) : P (State.applyPlain s a w) := by
  unfold State.applyPlain; (try dsimp only); (try simp only [mk_upd])
  repeat' first | intro _ | with_reducible (first | assumption | apply st_upd hP | apply hP.reg | apply st_ite (P := P) | rfl) | split

theorem State.fresh_stable (hP : Stable P)  {s : State} (h_s : P s) : P ((State.fresh s)).2 := by
  unfold State.fresh; (try dsimp only); (try simp only [mk_upd])
  repeat' first | intro _ | with_reducible (first | assumption | apply st_upd hP | apply st_ite (P := P) | apply st_pite (P := P) | rfl) | split

theorem State.setPin_stable (hP : Stable P) (x : Sensor) (v : Int) {s : State} (h_s : P s) : P (State.setPin s x v) := by
  unfold State.setPin; (try dsimp only); (try simp only [mk_upd])
  repeat' first | intro _ | with_reducible (first | assumption | apply st_upd hP | apply st_ite (P := P) | rfl) | split

theorem State.observe_stable (hP : Stable P) (w : World) {s : State} (h_s : P s) : P (State.observe s w) := by
  unfold State.observe; (try dsimp only)
  repeat' first | intro _ | with_reducible (first | assumption | apply State.setPin_stable hP | apply st_ite (P := P) | apply st_foldl (P := P)) | split

theorem State.advance_stable (hP : Stable P) (t : Nat) {s : State} (h_s : P s) : P (State.advance s t) := by
  unfold State.advance
  exact hP.rest s _ rfl rfl rfl rfl rfl (Nat.le_max_left _ _) id h_s

theorem State.noteHigh_stable (hP : Stable P) (l : List (Nat × Word)) {s : State} (h_s : P s) : P (State.noteHigh s l) := by
  unfold State.noteHigh; (try dsimp only); (try simp only [mk_upd])
  repeat' first | intro _ | with_reducible (first | assumption | apply st_upd hP | apply st_ite (P := P) | apply st_foldl (P := P) | rfl) | split

theorem State.holdFw_stable (hP : Stable P) (a : Nat) (w : Word) {s : State} (h_s : P s) : P (State.holdFw s a w) := by
  unfold State.holdFw; (try dsimp only); (try simp only [mk_upd])
  repeat' first | intro _ | with_reducible (first | assumption | apply st_upd hP | apply State.noteHigh_stable hP | apply st_ite (P := P) | rfl) | split

theorem State.putIn_stable (hP : Stable P) (o : Nat) (w : TWord) {s : State} (h_s : P s) : P (State.putIn s o w) := by
  unfold State.putIn; (try dsimp only); (try simp only [mk_upd])
  repeat' first | intro _ | with_reducible (first | assumption | apply st_upd hP | apply st_ite (P := P) | rfl) | split

theorem State.setDom_stable (hP : Stable P) (d : Nat) (f : Dom → Dom) {s : State} (h_s : P s) : P (State.setDom s d f) := by
  unfold State.setDom; (try dsimp only); (try simp only [mk_upd])
  repeat' first | intro _ | with_reducible (first | assumption | apply st_upd hP | apply st_ite (P := P) | rfl) | split

theorem State.setGrp_stable (hP : Stable P) (g : Nat) (f : Grp → Grp) {s : State} (h_s : P s) : P (State.setGrp s g f) := by
  unfold State.setGrp; (try dsimp only); (try simp only [mk_upd])
  repeat' first | intro _ | with_reducible (first | assumption | apply st_upd hP | apply st_ite (P := P) | rfl) | split

theorem State.stall_stable (hP : Stable P) (i : DipAccess) {s : State} (h_s : P s) : P (State.stall s i) := by
  unfold State.stall; (try dsimp only); (try simp only [mk_upd])
  repeat' first | intro _ | with_reducible (first | assumption | apply st_upd hP | apply st_ite (P := P) | rfl) | split

theorem State.store_stable (hP : Stable P) (i : DipAccess) (f : State → State) {s : State} (h_s : P s) (h_f : ∀ x0, P x0 → P (f x0)) : P (State.store s i f) := by
  unfold State.store; (try dsimp only)
  repeat' first | intro _ | with_reducible (first | assumption | apply State.stall_stable hP | apply h_f | apply st_ite (P := P)) | split

theorem State.load_stable (hP : Stable P) (i : DipAccess) (f : State → State) {s : State} (h_s : P s) (h_f : ∀ x0, P x0 → P (f x0)) : P (State.load s i f) := by
  unfold State.load; (try dsimp only)
  repeat' first | intro _ | with_reducible (first | assumption | apply State.stall_stable hP | apply h_f | apply st_ite (P := P)) | split

theorem State.setWake_stable (hP : Stable P) (b : Nat) {s : State} (h_s : P s) : P (State.setWake s b) := by
  unfold State.setWake; (try dsimp only); (try simp only [mk_upd])
  repeat' first | intro _ | with_reducible (first | assumption | apply st_upd hP | apply st_ite (P := P) | rfl) | split

theorem State.demand_stable (hP : Stable P) (d : Nat) {s : State} (h_s : P s) : P (State.demand s d) := by
  unfold State.demand; (try dsimp only); (try simp only [mk_upd])
  repeat' first | intro _ | with_reducible (first | assumption | apply st_upd hP | apply State.setDom_stable hP | apply State.setFld_stable hP | apply State.setWake_stable hP | apply st_ite (P := P) | rfl) | split

theorem State.setCore_stable (hP : Stable P) (c : Fin 2) (f : Core → Core) {s : State} (h_s : P s) : P (State.setCore s c f) := by
  unfold State.setCore; (try dsimp only); (try simp only [mk_upd])
  repeat' first | intro _ | with_reducible (first | assumption | apply st_upd hP | apply st_ite (P := P) | rfl) | split

theorem State.setSwIn_stable (hP : Stable P) (i : Nat) (f : SwIn → SwIn) {s : State} (h_s : P s) : P (State.setSwIn s i f) := by
  unfold State.setSwIn; (try dsimp only); (try simp only [mk_upd])
  repeat' first | intro _ | with_reducible (first | assumption | apply st_upd hP | apply st_ite (P := P) | rfl) | split

theorem State.setWakeIn_stable (hP : Stable P) (n : Nat) (f : WakeIn → WakeIn) {s : State} (h_s : P s) : P (State.setWakeIn s n f) := by
  unfold State.setWakeIn; (try dsimp only); (try simp only [mk_upd])
  repeat' first | intro _ | with_reducible (first | assumption | apply st_upd hP | apply st_ite (P := P) | rfl) | split

theorem State.setAin_stable (hP : Stable P) (a : Nat) (f : AinIn → AinIn) {s : State} (h_s : P s) : P (State.setAin s a f) := by
  unfold State.setAin; (try dsimp only); (try simp only [mk_upd])
  repeat' first | intro _ | with_reducible (first | assumption | apply st_upd hP | apply st_ite (P := P) | rfl) | split

theorem State.setVs_stable (hP : Stable P) (v : Nat) (f : VsIn → VsIn) {s : State} (h_s : P s) : P (State.setVs s v f) := by
  unfold State.setVs; (try dsimp only); (try simp only [mk_upd])
  repeat' first | intro _ | with_reducible (first | assumption | apply st_upd hP | apply st_ite (P := P) | rfl) | split

theorem State.moveVs_stable (hP : Stable P) (v : Nat) {s : State} (h_s : P s) : P (State.moveVs s v) := by
  unfold State.moveVs; (try dsimp only); (try simp only [mk_upd])
  repeat' first | intro _ | with_reducible (first | assumption | apply st_upd hP | apply State.demand_stable hP | apply State.setVs_stable hP | apply st_ite (P := P) | rfl) | split

theorem State.safeInp_stable (hP : Stable P)  {s : State} (h_s : P s) : P (State.safeInp s) := by
  unfold State.safeInp; (try dsimp only)
  repeat' first | intro _ | with_reducible (first | assumption | apply State.moveVs_stable hP | apply st_ite (P := P) | apply st_forEach (P := P)) | split

theorem State.vsOff_stable (hP : Stable P)  {s : State} (h_s : P s) : P (State.vsOff s) := by
  unfold State.vsOff; (try dsimp only); (try simp only [mk_upd])
  repeat' first | intro _ | with_reducible (first | assumption | apply st_upd hP | apply State.setVs_stable hP | apply st_ite (P := P) | apply st_forEach (P := P) | rfl) | split

theorem State.setOut_stable (hP : Stable P) (o : Nat) (f : Outp → Outp) {s : State} (h_s : P s) : P (State.setOut s o f) := by
  unfold State.setOut; (try dsimp only); (try simp only [mk_upd])
  repeat' first | intro _ | with_reducible (first | assumption | apply st_upd hP | apply st_ite (P := P) | rfl) | split

theorem State.setDie_stable (hP : Stable P) (d : Nat) (f : Die → Die) {s : State} (h_s : P s) : P (State.setDie s d f) := by
  unfold State.setDie; (try dsimp only); (try simp only [mk_upd])
  repeat' first | intro _ | with_reducible (first | assumption | apply st_upd hP | apply st_ite (P := P) | rfl) | split

theorem State.hbNote_stable (hP : Stable P) (h : Nat) {s : State} (h_s : P s) : P (State.hbNote s h) := by
  unfold State.hbNote; (try dsimp only); (try simp only [mk_upd])
  repeat' first | intro _ | with_reducible (first | assumption | apply st_upd hP | apply State.setOut_stable hP | apply st_ite (P := P) | rfl) | split

theorem State.dgOn_stable (hP : Stable P) (o : Nat) {s : State} (h_s : P s) : P (State.dgOn s o) := by
  unfold State.dgOn; (try dsimp only)
  repeat' first | intro _ | with_reducible (first | assumption | apply State.setOut_stable hP | apply st_ite (P := P) | apply st_foldl (P := P)) | split

theorem State.takeMode_stable (hP : Stable P) (o : Nat) (m : Nat × Nat) {s : State} (h_s : P s) : P (State.takeMode s o m) := by
  unfold State.takeMode; (try dsimp only)
  repeat' first | intro _ | with_reducible (first | assumption | apply State.dgOn_stable hP | apply State.setOut_stable hP | apply st_ite (P := P)) | split

theorem State.turnOn_stable (hP : Stable P) (c : Nat) {s : State} (h_s : P s) : P (State.turnOn s c) := by
  unfold State.turnOn; (try dsimp only); (try simp only [mk_upd])
  repeat' first | intro _ | with_reducible (first | assumption | apply st_upd hP | apply State.dgOn_stable hP | apply State.setOut_stable hP | apply st_ite (P := P) | rfl) | split

theorem State.turnOnHb_stable (hP : Stable P) (o : Nat) {s : State} (h_s : P s) : P (State.turnOnHb s o) := by
  unfold State.turnOnHb; (try dsimp only); (try simp only [mk_upd])
  repeat' first | intro _ | with_reducible (first | assumption | apply st_upd hP | apply State.dgOn_stable hP | apply State.setOut_stable hP | apply st_ite (P := P) | rfl) | split

theorem State.turnOff_stable (hP : Stable P) (o : Nat) (q : ChSt) {s : State} (h_s : P s) : P (State.turnOff s o q) := by
  unfold State.turnOff; (try dsimp only); (try simp only [mk_upd])
  repeat' first | intro _ | with_reducible (first | assumption | apply st_upd hP | apply State.setOut_stable hP | apply st_ite (P := P) | rfl) | split

theorem State.safeCh_stable (hP : Stable P) (c : Nat) {s : State} (h_s : P s) : P (State.safeCh s c) := by
  unfold State.safeCh; (try dsimp only); (try simp only [mk_upd])
  repeat' first | intro _ | with_reducible (first | assumption | apply st_upd hP | apply State.demand_stable hP | apply State.turnOff_stable hP | apply State.turnOn_stable hP | apply st_ite (P := P) | rfl) | split

theorem State.safeHb_stable (hP : Stable P) (n : Nat) {s : State} (h_s : P s) : P (State.safeHb s n) := by
  unfold State.safeHb; (try dsimp only)
  repeat' first | intro _ | with_reducible (first | assumption | apply State.demand_stable hP | apply State.hbNote_stable hP | apply State.takeMode_stable hP | apply State.turnOff_stable hP | apply State.turnOnHb_stable hP | apply st_ite (P := P) | apply st_foldl (P := P)) | split

theorem State.safeSw_stable (hP : Stable P)  {s : State} (h_s : P s) : P (State.safeSw s) := by
  unfold State.safeSw; (try dsimp only)
  repeat' first | intro _ | with_reducible (first | assumption | apply State.safeCh_stable hP | apply State.safeHb_stable hP | apply st_ite (P := P) | apply st_forEach (P := P)) | split

theorem State.setCoil_stable (hP : Stable P) (ch : Nat) (f : Coil → Coil) {s : State} (h_s : P s) : P (State.setCoil s ch f) := by
  unfold State.setCoil; (try dsimp only); (try simp only [mk_upd])
  repeat' first | intro _ | with_reducible (first | assumption | apply st_upd hP | apply st_ite (P := P) | rfl) | split

theorem State.setPbank_stable (hP : Stable P) (b : Nat) (f : Bank → Bank) {s : State} (h_s : P s) : P (State.setPbank s b f) := by
  unfold State.setPbank; (try dsimp only); (try simp only [mk_upd])
  repeat' first | intro _ | with_reducible (first | assumption | apply st_upd hP | apply st_ite (P := P) | rfl) | split

theorem State.setPx_stable (hP : Stable P) (x : Nat) (f : Px → Px) {s : State} (h_s : P s) : P (State.setPx s x f) := by
  unfold State.setPx; (try dsimp only); (try simp only [mk_upd])
  repeat' first | intro _ | with_reducible (first | assumption | apply st_upd hP | apply st_ite (P := P) | rfl) | split

theorem State.plRest_stable (hP : Stable P) (ch : Nat) {s : State} (h_s : P s) : P (State.plRest s ch) := by
  unfold State.plRest; (try dsimp only); (try simp only [mk_upd])
  repeat' first | intro _ | with_reducible (first | assumption | apply st_upd hP | apply State.setCoil_stable hP | apply st_ite (P := P) | rfl) | split

theorem State.plGuard_stable (hP : Stable P) (ch : Nat) {s : State} (h_s : P s) : P (State.plGuard s ch) := by
  unfold State.plGuard; (try dsimp only); (try simp only [mk_upd])
  repeat' first | intro _ | with_reducible (first | assumption | apply st_upd hP | apply State.setCoil_stable hP | apply st_ite (P := P) | rfl) | split

theorem State.plOff_stable (hP : Stable P)  {s : State} (h_s : P s) : P (State.plOff s) := by
  unfold State.plOff; (try dsimp only); (try simp only [mk_upd])
  repeat' first | intro _ | with_reducible (first | assumption | apply st_upd hP | apply State.setCoil_stable hP | apply st_ite (P := P) | apply st_forEach (P := P) | rfl) | split

theorem State.plStop_stable (hP : Stable P) (ch : Nat) (st : TSt) {s : State} (h_s : P s) : P (State.plStop s ch st) := by
  unfold State.plStop; (try dsimp only); (try simp only [mk_upd])
  repeat' first | intro _ | with_reducible (first | assumption | apply st_upd hP | apply State.plRest_stable hP | apply State.setCoil_stable hP | apply st_ite (P := P) | rfl) | split

theorem State.safePl_stable (hP : Stable P) (ch : Nat) {s : State} (h_s : P s) : P (State.safePl s ch) := by
  unfold State.safePl; (try dsimp only); (try simp only [mk_upd])
  repeat' first | intro _ | with_reducible (first | assumption | apply st_upd hP | apply State.fresh_stable hP | apply State.plStop_stable hP | apply State.setCoil_stable hP | apply st_ite (P := P) | refine st_snd (P := P) (by assumption) ?_ | rfl) | split

theorem State.movePx_stable (hP : Stable P) (x : Nat) {s : State} (h_s : P s) : P (State.movePx s x) := by
  unfold State.movePx; (try dsimp only); (try simp only [mk_upd])
  repeat' first | intro _ | with_reducible (first | assumption | apply st_upd hP | apply State.setPx_stable hP | apply st_ite (P := P) | rfl) | split

theorem State.safePrs_stable (hP : Stable P)  {s : State} (h_s : P s) : P (State.safePrs s) := by
  unfold State.safePrs; (try dsimp only)
  repeat' first | intro _ | with_reducible (first | assumption | apply State.movePx_stable hP | apply State.safePl_stable hP | apply st_ite (P := P) | apply st_forEach (P := P)) | split

theorem State.setUcode_stable (hP : Stable P) (e : Nat) (pc : Nat) (w : Word) {s : State} (h_s : P s) : P (State.setUcode s e pc w) := by
  unfold State.setUcode; (try dsimp only)
  repeat' first | intro _ | with_reducible (first | assumption | apply hP.mem | apply st_ite (P := P)) | split

theorem State.arbitrate_stable (hP : Stable P) (ch : Nat) {s : State} (h_s : P s) : P (State.arbitrate s ch) := by
  unfold State.arbitrate; (try dsimp only); (try simp only [mk_upd])
  repeat' first | intro _ | with_reducible (first | assumption | apply st_upd hP | apply State.setCoil_stable hP | apply State.setPbank_stable hP | apply st_ite (P := P) | rfl) | split

theorem State.setSink_stable (hP : Stable P) (n : Nat) (f : Led → Led) {s : State} (h_s : P s) : P (State.setSink s n f) := by
  unfold State.setSink; (try dsimp only); (try simp only [mk_upd])
  repeat' first | intro _ | with_reducible (first | assumption | apply st_upd hP | apply st_ite (P := P) | rfl) | split

theorem State.ledCount_stable (hP : Stable P) (b : Nat) (n : Nat) {s : State} (h_s : P s) : P (State.ledCount s b n) := by
  unfold State.ledCount; (try dsimp only); (try simp only [mk_upd])
  repeat' first | intro _ | with_reducible (first | assumption | apply st_upd hP | apply State.setSink_stable hP | apply st_ite (P := P) | rfl) | split

theorem State.ledCountAll_stable (hP : Stable P)  {s : State} (h_s : P s) : P (State.ledCountAll s) := by
  unfold State.ledCountAll; (try dsimp only)
  repeat' first | intro _ | with_reducible (first | assumption | apply State.ledCount_stable hP | apply st_ite (P := P) | apply st_forEach (P := P)) | split

theorem State.ledOff_stable (hP : Stable P)  {s : State} (h_s : P s) : P (State.ledOff s) := by
  unfold State.ledOff; (try dsimp only); (try simp only [mk_upd])
  repeat' first | intro _ | with_reducible (first | assumption | apply st_upd hP | apply State.ledCountAll_stable hP | apply State.setSink_stable hP | apply st_ite (P := P) | apply st_forEach (P := P) | rfl) | split

theorem State.safeLed_stable (hP : Stable P) (n : Nat) {s : State} (h_s : P s) : P (State.safeLed s n) := by
  unfold State.safeLed; (try dsimp only); (try simp only [mk_upd])
  repeat' first | intro _ | with_reducible (first | assumption | apply st_upd hP | apply State.demand_stable hP | apply State.ledCount_stable hP | apply State.setSink_stable hP | apply st_ite (P := P) | apply st_foldl (P := P) | rfl) | split

theorem State.safeLeds_stable (hP : Stable P)  {s : State} (h_s : P s) : P (State.safeLeds s) := by
  unfold State.safeLeds; (try dsimp only)
  repeat' first | intro _ | with_reducible (first | assumption | apply State.safeLed_stable hP | apply st_ite (P := P) | apply st_forEach (P := P)) | split

theorem State.putSticky_stable (hP : Stable P) (n : Nat) (b : Bool) {s : State} (h_s : P s) : P (State.putSticky s n b) := by
  unfold State.putSticky; (try dsimp only)
  repeat' first | intro _ | with_reducible (first | assumption | apply State.setFld_stable hP | apply st_ite (P := P)) | split

theorem State.pendEvent_stable (hP : Stable P) (n : Nat) {s : State} (h_s : P s) : P (State.pendEvent s n) := by
  unfold State.pendEvent; (try dsimp only); (try simp only [mk_upd])
  repeat' first | intro _ | with_reducible (first | assumption | apply st_upd hP | apply State.demand_stable hP | apply State.setFld_stable hP | apply st_ite (P := P) | rfl) | split

theorem State.stopCores_stable (hP : Stable P)  {s : State} (h_s : P s) : P (State.stopCores s) := by
  unfold State.stopCores; (try dsimp only); (try simp only [mk_upd])
  repeat' first | intro _ | with_reducible (first | assumption | apply st_upd hP | apply State.setCore_stable hP | apply st_ite (P := P) | apply st_forEach (P := P) | rfl) | split

theorem State.warnPulse_stable (hP : Stable P)  {s : State} (h_s : P s) : P (State.warnPulse s) := by
  unfold State.warnPulse; (try dsimp only); (try simp only [mk_upd])
  repeat' first | intro _ | with_reducible (first | assumption | apply st_upd hP | apply st_ite (P := P) | rfl) | split

theorem State.lockUnderSafe_stable (hP : Stable P)  {s : State} (h_s : P s) : P (State.lockUnderSafe s) := by
  unfold State.lockUnderSafe; (try dsimp only); (try simp only [mk_upd])
  repeat' first | intro _ | with_reducible (first | assumption | apply st_upd hP | apply State.pendEvent_stable hP | apply State.putSticky_stable hP | apply State.setBit_stable hP | apply State.stopCores_stable hP | apply State.warnPulse_stable hP | apply st_ite (P := P) | rfl) | split

theorem State.setAcc_stable (hP : Stable P) (f : AccBlk → AccBlk) {s : State} (h_s : P s) : P (State.setAcc s f) := by
  unfold State.setAcc; (try dsimp only); (try simp only [mk_upd])
  repeat' first | intro _ | with_reducible (first | assumption | apply st_upd hP | apply st_ite (P := P) | rfl) | split

theorem State.safeAcc_stable (hP : Stable P)  {s : State} (h_s : P s) : P (State.safeAcc s) := by
  unfold State.safeAcc; (try dsimp only); (try simp only [mk_upd])
  repeat' first | intro _ | with_reducible (first | assumption | apply st_upd hP | apply State.lockUnderSafe_stable hP | apply State.pendEvent_stable hP | apply State.setAcc_stable hP | apply State.setFld_stable hP | apply st_ite (P := P) | rfl) | split

theorem State.safeAct_stable (hP : Stable P)  {s : State} (h_s : P s) : P (State.safeAct s) := by
  unfold State.safeAct; (try dsimp only)
  repeat' first | intro _ | with_reducible (first | assumption | apply State.safeAcc_stable hP | apply State.safeInp_stable hP | apply State.safeLeds_stable hP | apply State.safePrs_stable hP | apply State.safeSw_stable hP | apply st_ite (P := P)) | split

theorem State.driveSafe_stable (hP : Stable P)  {s : State} (h_s : P s) : P (State.driveSafe s) := by
  unfold State.driveSafe; (try dsimp only); (try simp only [mk_upd])
  repeat' first | intro _ | with_reducible (first | assumption | apply st_upd hP | apply State.safeAct_stable hP | apply st_ite (P := P) | rfl) | split

theorem State.haltF_stable (hP : Stable P)  {s : State} (h_s : P s) : P (State.haltF s) := by
  unfold State.haltF; (try dsimp only)
  repeat' first | intro _ | with_reducible (first | assumption | apply State.driveSafe_stable hP | apply State.stopCores_stable hP | apply st_ite (P := P)) | split

theorem State.classReact_stable (hP : Stable P) (c : Nat) {s : State} (h_s : P s) : P (State.classReact s c) := by
  unfold State.classReact; (try dsimp only); (try simp only [mk_upd])
  repeat' first | intro _ | with_reducible (first | assumption | apply st_upd hP | apply State.driveSafe_stable hP | apply State.haltF_stable hP | apply State.warnPulse_stable hP | apply st_ite (P := P) | rfl) | split

theorem State.occur_stable (hP : Stable P) (n : Nat) {s : State} (h_s : P s) : P (State.occur s n) := by
  unfold State.occur; (try dsimp only)
  repeat' first | intro _ | with_reducible (first | assumption | apply State.classReact_stable hP | apply State.putSticky_stable hP | apply st_ite (P := P)) | split

theorem State.classEvent_stable (hP : Stable P) (c : Nat) {s : State} (h_s : P s) : P (State.classEvent s c) := by
  unfold State.classEvent; (try dsimp only)
  repeat' first | intro _ | with_reducible (first | assumption | apply State.occur_stable hP | apply State.pendEvent_stable hP | apply State.setBit_stable hP | apply st_ite (P := P)) | split

theorem State.raiseSource_stable (hP : Stable P) (n : Nat) {s : State} (h_s : P s) : P (State.raiseSource s n) := by
  unfold State.raiseSource; (try dsimp only)
  repeat' first | intro _ | with_reducible (first | assumption | apply State.classEvent_stable hP | apply State.occur_stable hP | apply st_ite (P := P)) | split

theorem State.lockAccess_stable (hP : Stable P)  {s : State} (h_s : P s) : P (State.lockAccess s) := by
  unfold State.lockAccess; (try dsimp only)
  repeat' first | intro _ | with_reducible (first | assumption | apply State.raiseSource_stable hP | apply State.setBit_stable hP | apply st_ite (P := P)) | split

theorem State.raiseEvent_stable (hP : Stable P) (n : Nat) {s : State} (h_s : P s) : P (State.raiseEvent s n) := by
  unfold State.raiseEvent; (try dsimp only)
  repeat' first | intro _ | with_reducible (first | assumption | apply State.lockAccess_stable hP | apply State.pendEvent_stable hP | apply st_ite (P := P)) | split

theorem State.demandOrLock_stable (hP : Stable P) (d : Nat) {s : State} (h_s : P s) : P (State.demandOrLock s d) := by
  unfold State.demandOrLock; (try dsimp only)
  repeat' first | intro _ | with_reducible (first | assumption | apply State.demand_stable hP | apply State.lockAccess_stable hP | apply st_ite (P := P)) | split

theorem State.trip_stable (hP : Stable P) (o : Nat) (junction : Bool) (land : Int) {s : State} (h_s : P s) : P (State.trip s o junction land) := by
  unfold State.trip; (try dsimp only); (try simp only [mk_upd])
  repeat' first | intro _ | with_reducible (first | assumption | apply st_upd hP | apply State.raiseEvent_stable hP | apply State.raiseSource_stable hP | apply State.setOut_stable hP | apply State.turnOff_stable hP | apply st_ite (P := P) | rfl) | split

theorem execOvercurrentShutoff_stable (hP : Stable P) (c : Fin 48) (amps : Int) (land : Int) {s : State} (h_s : P s) : OfOut P (execOvercurrentShutoff c amps land s) := by
  unfold execOvercurrentShutoff; (try dsimp only)
  repeat' first | intro _ | with_reducible (first | assumption | apply State.trip_stable hP | apply of_oite (P := P) | apply of_next (P := P) | apply of_fault (P := P)) | split

theorem execJunctionShutoff_stable (hP : Stable P) (c : Fin 48) (deg : Int) {s : State} (h_s : P s) : OfOut P (execJunctionShutoff c deg s) := by
  unfold execJunctionShutoff; (try dsimp only)
  repeat' first | intro _ | with_reducible (first | assumption | apply State.trip_stable hP | apply of_oite (P := P) | apply of_next (P := P) | apply of_fault (P := P)) | split

theorem execHbShutoff_stable (hP : Stable P) (n : Fin 8) (amps : Int) (deg : Int) (land : Int) {s : State} (h_s : P s) : OfOut P (execHbShutoff n amps deg land s) := by
  unfold execHbShutoff; (try dsimp only)
  repeat' first | intro _ | with_reducible (first | assumption | apply State.trip_stable hP | apply of_oite (P := P) | apply of_next (P := P) | apply of_fault (P := P)) | split

theorem execTlatchClear_stable (hP : Stable P) (o : Fin 56) (deg : Int) {s : State} (h_s : P s) : OfOut P (execTlatchClear o deg s) := by
  unfold execTlatchClear; (try dsimp only); (try simp only [mk_upd])
  repeat' first | intro _ | with_reducible (first | assumption | apply st_upd hP | apply State.setOut_stable hP | apply of_oite (P := P) | apply of_next (P := P) | apply of_fault (P := P) | rfl) | split

theorem State.wireTrip_stable (hP : Stable P) (c : Nat) {s : State} (h_s : P s) : P (State.wireTrip s c) := by
  unfold State.wireTrip; (try dsimp only); (try simp only [mk_upd])
  repeat' first | intro _ | with_reducible (first | assumption | apply st_upd hP | apply State.raiseEvent_stable hP | apply State.raiseSource_stable hP | apply State.setOut_stable hP | apply State.trip_stable hP | apply State.turnOff_stable hP | apply st_ite (P := P) | rfl) | split

theorem State.wireUpdate_stable (hP : Stable P) (c : Nat) {s : State} (h_s : P s) : P (State.wireUpdate s c) := by
  unfold State.wireUpdate; (try dsimp only); (try simp only [mk_upd])
  repeat' first | intro _ | with_reducible (first | assumption | apply st_upd hP | apply State.setOut_stable hP | apply State.wireTrip_stable hP | apply st_ite (P := P) | rfl) | split

theorem State.takeSample_stable (hP : Stable P) (o : Nat) {s : State} (h_s : P s) : P (State.takeSample s o) := by
  unfold State.takeSample; (try dsimp only); (try simp only [mk_upd])
  repeat' first | intro _ | with_reducible (first | assumption | apply st_upd hP | apply State.setOut_stable hP | apply st_ite (P := P) | rfl) | split

theorem State.noteInverse_stable (hP : Stable P) (c : Nat) {s : State} (h_s : P s) : P (State.noteInverse s c) := by
  unfold State.noteInverse; (try dsimp only); (try simp only [mk_upd])
  repeat' first | intro _ | with_reducible (first | assumption | apply st_upd hP | apply State.setOut_stable hP | apply st_ite (P := P) | rfl) | split

theorem State.stallCount_stable (hP : Stable P) (n : Nat) {s : State} (h_s : P s) : P (State.stallCount s n) := by
  unfold State.stallCount; (try dsimp only); (try simp only [mk_upd])
  repeat' first | intro _ | with_reducible (first | assumption | apply st_upd hP | apply State.setOut_stable hP | apply st_ite (P := P) | rfl) | split

theorem State.dieReads_stable (hP : Stable P) (d : Nat) {s : State} (h_s : P s) : P (State.dieReads s d) := by
  unfold State.dieReads; (try dsimp only); (try simp only [mk_upd])
  repeat' first | intro _ | with_reducible (first | assumption | apply st_upd hP | apply State.setDie_stable hP | apply st_ite (P := P) | rfl) | split

theorem State.dieSample_stable (hP : Stable P) (d : Nat) {s : State} (h_s : P s) : P (State.dieSample s d) := by
  unfold State.dieSample; (try dsimp only); (try simp only [mk_upd])
  repeat' first | intro _ | with_reducible (first | assumption | apply st_upd hP | apply State.dieReads_stable hP | apply State.setDie_stable hP | apply st_ite (P := P) | rfl) | split

theorem State.swSample_stable (hP : Stable P)  {s : State} (h_s : P s) : P (State.swSample s) := by
  unfold State.swSample; (try dsimp only)
  repeat' first | intro _ | with_reducible (first | assumption | apply State.dieSample_stable hP | apply State.noteInverse_stable hP | apply State.stallCount_stable hP | apply State.takeSample_stable hP | apply State.wireUpdate_stable hP | apply st_ite (P := P) | apply st_forEach (P := P)) | split

theorem State.shedStep_stable (hP : Stable P) (d : Nat) {s : State} (h_s : P s) : P (State.shedStep s d) := by
  unfold State.shedStep; (try dsimp only); (try simp only [mk_upd])
  repeat' first | intro _ | with_reducible (first | assumption | apply st_upd hP | apply State.raiseEvent_stable hP | apply State.raiseSource_stable hP | apply State.setDie_stable hP | apply State.setOut_stable hP | apply State.turnOff_stable hP | apply st_ite (P := P) | apply st_foldl (P := P) | rfl) | split

theorem execDieShed_stable (hP : Stable P) (d : Fin 7) (deg : Int) {s : State} (h_s : P s) : OfOut P (execDieShed d deg s) := by
  unfold execDieShed; (try dsimp only)
  repeat' first | intro _ | with_reducible (first | assumption | apply State.dieReads_stable hP | apply State.setPin_stable hP | apply State.shedStep_stable hP | apply of_oite (P := P) | apply of_next (P := P) | apply of_fault (P := P)) | split

theorem execShedEscalate_stable (hP : Stable P) (d : Fin 7) (deg : Int) {s : State} (h_s : P s) : OfOut P (execShedEscalate d deg s) := by
  unfold execShedEscalate; (try dsimp only)
  repeat' first | intro _ | with_reducible (first | assumption | apply State.dieReads_stable hP | apply State.setPin_stable hP | apply State.shedStep_stable hP | apply of_oite (P := P) | apply of_next (P := P) | apply of_fault (P := P)) | split

theorem execHbStall_stable (hP : Stable P) (n : Fin 8) {s : State} (h_s : P s) : OfOut P (execHbStall n s) := by
  unfold execHbStall; (try dsimp only); (try simp only [mk_upd])
  repeat' first | intro _ | with_reducible (first | assumption | apply st_upd hP | apply State.raiseEvent_stable hP | apply State.setOut_stable hP | apply State.stall_stable hP | apply of_oite (P := P) | apply of_next (P := P) | apply of_fault (P := P) | rfl) | split

theorem execOffStatePhaseA_stable (hP : Stable P) (o : Fin 56) (land : Int) (odd : Int) {s : State} (h_s : P s) : OfOut P (execOffStatePhaseA o land odd s) := by
  unfold execOffStatePhaseA; (try dsimp only); (try simp only [mk_upd])
  repeat' first | intro _ | with_reducible (first | assumption | apply st_upd hP | apply State.advance_stable hP | apply State.setOut_stable hP | apply of_oite (P := P) | apply of_next (P := P) | apply of_fault (P := P) | rfl) | split

theorem execOffStateCheck_stable (hP : Stable P) (o : Fin 56) (land : Int) (odd : Int) {s : State} (h_s : P s) : OfOut P (execOffStateCheck o land odd s) := by
  unfold execOffStateCheck; (try dsimp only); (try simp only [mk_upd])
  repeat' first | intro _ | with_reducible (first | assumption | apply st_upd hP | apply State.advance_stable hP | apply State.setOut_stable hP | apply of_oite (P := P) | apply of_next (P := P) | apply of_fault (P := P) | rfl) | split

theorem State.latchSw_stable (hP : Stable P) (i : Nat) {s : State} (h_s : P s) : P (State.latchSw s i) := by
  unfold State.latchSw; (try dsimp only); (try simp only [mk_upd])
  repeat' first | intro _ | with_reducible (first | assumption | apply st_upd hP | apply State.setSwIn_stable hP | apply st_ite (P := P) | rfl) | split

theorem State.latchNote_stable (hP : Stable P) (i : Nat) {s : State} (h_s : P s) : P (State.latchNote s i) := by
  unfold State.latchNote; (try dsimp only); (try simp only [mk_upd])
  repeat' first | intro _ | with_reducible (first | assumption | apply st_upd hP | apply State.latchSw_stable hP | apply st_ite (P := P) | rfl) | split

theorem execWettingPulseStart_stable (hP : Stable P)  {s : State} (h_s : P s) : OfOut P (execWettingPulseStart s) := by
  unfold execWettingPulseStart; (try dsimp only); (try simp only [mk_upd])
  repeat' first | intro _ | with_reducible (first | assumption | apply st_upd hP | apply State.advance_stable hP | apply State.setSwIn_stable hP | apply of_oite (P := P) | apply of_next (P := P) | apply of_fault (P := P) | apply st_forEach (P := P) | rfl) | split

theorem State.watchTake_stable (hP : Stable P) (i : Nat) {s : State} (h_s : P s) : P (State.watchTake s i) := by
  unfold State.watchTake; (try dsimp only); (try simp only [mk_upd])
  repeat' first | intro _ | with_reducible (first | assumption | apply st_upd hP | apply State.raiseEvent_stable hP | apply State.setSwIn_stable hP | apply st_ite (P := P) | rfl) | split

theorem execWatchTransition_stable (hP : Stable P) (i : Fin 48) (closed : Bool) {s : State} (h_s : P s) : OfOut P (execWatchTransition i closed s) := by
  unfold execWatchTransition; (try dsimp only); (try simp only [mk_upd])
  repeat' first | intro _ | with_reducible (first | assumption | apply st_upd hP | apply State.setSwIn_stable hP | apply State.watchTake_stable hP | apply of_oite (P := P) | apply of_next (P := P) | apply of_fault (P := P) | rfl) | split

theorem execWatchFreezeEnd_stable (hP : Stable P)  {s : State} (h_s : P s) : OfOut P (execWatchFreezeEnd s) := by
  unfold execWatchFreezeEnd; (try dsimp only); (try simp only [mk_upd])
  repeat' first | intro _ | with_reducible (first | assumption | apply st_upd hP | apply State.advance_stable hP | apply State.setSwIn_stable hP | apply State.watchTake_stable hP | apply of_oite (P := P) | apply of_next (P := P) | apply of_fault (P := P) | apply st_forEach (P := P) | rfl) | split

theorem State.wakeRead_stable (hP : Stable P) (n : Nat) (mv : Int) {s : State} (h_s : P s) : P (State.wakeRead s n mv) := by
  unfold State.wakeRead; (try dsimp only); (try simp only [mk_upd])
  repeat' first | intro _ | with_reducible (first | assumption | apply st_upd hP | apply State.setWakeIn_stable hP | apply st_ite (P := P) | rfl) | split

theorem State.wakeEvent_stable (hP : Stable P) (n : Nat) (was : Bool) {s : State} (h_s : P s) : P (State.wakeEvent s n was) := by
  unfold State.wakeEvent; (try dsimp only)
  repeat' first | intro _ | with_reducible (first | assumption | apply State.raiseEvent_stable hP | apply st_ite (P := P)) | split

theorem execWakeInputTransition_stable (hP : Stable P) (n : Fin 2) (mv : Int) {s : State} (h_s : P s) : OfOut P (execWakeInputTransition n mv s) := by
  unfold execWakeInputTransition; (try dsimp only)
  repeat' first | intro _ | with_reducible (first | assumption | apply State.setPin_stable hP | apply State.wakeEvent_stable hP | apply State.wakeRead_stable hP | apply of_oite (P := P) | apply of_next (P := P) | apply of_fault (P := P)) | split

theorem State.latchWake_stable (hP : Stable P) (n : Nat) {s : State} (h_s : P s) : P (State.latchWake s n) := by
  unfold State.latchWake; (try dsimp only); (try simp only [mk_upd])
  repeat' first | intro _ | with_reducible (first | assumption | apply st_upd hP | apply State.setWakeIn_stable hP | apply State.wakeEvent_stable hP | apply State.wakeRead_stable hP | apply st_ite (P := P) | rfl) | split

theorem State.applyWakecfg_stable (hP : Stable P) (w : Word) {s : State} (h_s : P s) : P (State.applyWakecfg s w) := by
  unfold State.applyWakecfg; (try dsimp only)
  repeat' first | intro _ | with_reducible (first | assumption | apply State.applyPlain_stable hP | apply State.wakeEvent_stable hP | apply State.wakeRead_stable hP | apply st_ite (P := P) | apply st_forEach (P := P)) | split

theorem State.sampleAin_stable (hP : Stable P) (a : Nat) {s : State} (h_s : P s) : P (State.sampleAin s a) := by
  unfold State.sampleAin; (try dsimp only); (try simp only [mk_upd])
  repeat' first | intro _ | with_reducible (first | assumption | apply st_upd hP | apply State.setAin_stable hP | apply st_ite (P := P) | rfl) | split

theorem execAinSample_stable (hP : Stable P) (w : World) {s : State} (h_s : P s) : OfOut P (execAinSample w s) := by
  unfold execAinSample; (try dsimp only); (try simp only [mk_upd])
  repeat' first | intro _ | with_reducible (first | assumption | apply st_upd hP | apply State.advance_stable hP | apply State.observe_stable hP | apply State.sampleAin_stable hP | apply State.setVs_stable hP | apply of_oite (P := P) | apply of_next (P := P) | apply of_fault (P := P) | apply st_forEach (P := P) | rfl) | split

theorem State.biasCheck_stable (hP : Stable P) (a : Nat) {s : State} (h_s : P s) : P (State.biasCheck s a) := by
  unfold State.biasCheck; (try dsimp only); (try simp only [mk_upd])
  repeat' first | intro _ | with_reducible (first | assumption | apply st_upd hP | apply State.setAin_stable hP | apply st_ite (P := P) | rfl) | split

theorem execBiasCheckSample_stable (hP : Stable P) (w : World) {s : State} (h_s : P s) : OfOut P (execBiasCheckSample w s) := by
  unfold execBiasCheckSample; (try dsimp only)
  repeat' first | intro _ | with_reducible (first | assumption | apply State.advance_stable hP | apply State.biasCheck_stable hP | apply State.observe_stable hP | apply of_oite (P := P) | apply of_next (P := P) | apply of_fault (P := P) | apply st_forEach (P := P)) | split

theorem State.vsSlot_stable (hP : Stable P) (v : Nat) {s : State} (h_s : P s) : P (State.vsSlot s v) := by
  unfold State.vsSlot; (try dsimp only); (try simp only [mk_upd])
  repeat' first | intro _ | with_reducible (first | assumption | apply st_upd hP | apply State.setVs_stable hP | apply st_ite (P := P) | rfl) | split

theorem execVsensOvercurrent_stable (hP : Stable P) (v : Fin 4) {s : State} (h_s : P s) : OfOut P (execVsensOvercurrent v s) := by
  unfold execVsensOvercurrent; (try dsimp only); (try simp only [mk_upd])
  repeat' first | intro _ | with_reducible (first | assumption | apply st_upd hP | apply State.setVs_stable hP | apply of_oite (P := P) | apply of_next (P := P) | apply of_fault (P := P) | rfl) | split

theorem execVsensExternalDrive_stable (hP : Stable P) (v : Fin 4) (mv : Int) {s : State} (h_s : P s) : OfOut P (execVsensExternalDrive v mv s) := by
  unfold execVsensExternalDrive; (try dsimp only); (try simp only [mk_upd])
  repeat' first | intro _ | with_reducible (first | assumption | apply st_upd hP | apply State.setPin_stable hP | apply State.setVs_stable hP | apply of_oite (P := P) | apply of_next (P := P) | apply of_fault (P := P) | rfl) | split

theorem State.vsEdge_stable (hP : Stable P) (v : Nat) {s : State} (h_s : P s) : P (State.vsEdge s v) := by
  unfold State.vsEdge; (try dsimp only); (try simp only [mk_upd])
  repeat' first | intro _ | with_reducible (first | assumption | apply st_upd hP | apply State.lockAccess_stable hP | apply State.moveVs_stable hP | apply State.setVs_stable hP | apply st_ite (P := P) | rfl) | split

theorem State.applyInp_stable (hP : Stable P) (a : Nat) (w : Word) {s : State} (h_s : P s) : OfOpt P (State.applyInp s a w) := by
  unfold State.applyInp; (try dsimp only); (try simp only [mk_upd])
  repeat' first | intro _ | with_reducible (first | assumption | apply st_upd hP | apply hP.reg | apply State.applyPlain_stable hP | apply State.applyWakecfg_stable hP | apply State.setBit_stable hP | apply State.setSwIn_stable hP | apply State.setVs_stable hP | apply of_none (P := P) | apply of_some (P := P) | apply st_ite (P := P) | rfl) | split

theorem State.swRecord_stable (hP : Stable P) (i : Nat) {s : State} (h_s : P s) : P (State.swRecord s i) := by
  unfold State.swRecord; (try dsimp only)
  repeat' first | intro _ | with_reducible (first | assumption | apply State.putIn_stable hP | apply st_ite (P := P)) | split

theorem State.wakeRecord_stable (hP : Stable P) (n : Nat) {s : State} (h_s : P s) : P (State.wakeRecord s n) := by
  unfold State.wakeRecord; (try dsimp only)
  repeat' first | intro _ | with_reducible (first | assumption | apply State.putIn_stable hP | apply st_ite (P := P)) | split

theorem State.ainRecord_stable (hP : Stable P) (a : Nat) {s : State} (h_s : P s) : P (State.ainRecord s a) := by
  unfold State.ainRecord; (try dsimp only); (try simp only [mk_upd])
  repeat' first | intro _ | with_reducible (first | assumption | apply st_upd hP | apply State.putIn_stable hP | apply st_ite (P := P) | rfl) | split

theorem State.vsRecord_stable (hP : Stable P) (v : Nat) {s : State} (h_s : P s) : P (State.vsRecord s v) := by
  unfold State.vsRecord; (try dsimp only)
  repeat' first | intro _ | with_reducible (first | assumption | apply State.putIn_stable hP | apply st_ite (P := P)) | split

theorem State.inpClose_stable (hP : Stable P)  {s : State} (h_s : P s) : P (State.inpClose s) := by
  unfold State.inpClose; (try dsimp only)
  repeat' first | intro _ | with_reducible (first | assumption | apply State.ainRecord_stable hP | apply State.putIn_stable hP | apply State.swRecord_stable hP | apply State.wakeRecord_stable hP | apply st_ite (P := P) | apply st_forEach (P := P)) | split

theorem State.inpRecords_stable (hP : Stable P)  {s : State} (h_s : P s) : P (State.inpRecords s) := by
  unfold State.inpRecords; (try dsimp only)
  repeat' first | intro _ | with_reducible (first | assumption | apply State.putIn_stable hP | apply State.vsRecord_stable hP | apply st_ite (P := P) | apply st_forEach (P := P)) | split

theorem State.ainJudge_stable (hP : Stable P) (a : Nat) {s : State} (h_s : P s) : P (State.ainJudge s a) := by
  unfold State.ainJudge; (try dsimp only); (try simp only [mk_upd])
  repeat' first | intro _ | with_reducible (first | assumption | apply st_upd hP | apply State.setAin_stable hP | apply st_ite (P := P) | rfl) | split

theorem State.inpSources_stable (hP : Stable P)  {s : State} (h_s : P s) : P (State.inpSources s) := by
  unfold State.inpSources; (try dsimp only)
  repeat' first | intro _ | with_reducible (first | assumption | apply State.raiseEvent_stable hP | apply State.raiseSource_stable hP | apply st_ite (P := P) | apply st_forEach (P := P)) | split

theorem State.dropSamples_stable (hP : Stable P)  {s : State} (h_s : P s) : P (State.dropSamples s) := by
  unfold State.dropSamples; (try dsimp only); (try simp only [mk_upd])
  repeat' first | intro _ | with_reducible (first | assumption | apply st_upd hP | apply State.setAin_stable hP | apply st_ite (P := P) | apply st_forEach (P := P) | rfl) | split

theorem State.inpClear_stable (hP : Stable P)  {s : State} (h_s : P s) : P (State.inpClear s) := by
  unfold State.inpClear; (try dsimp only); (try simp only [mk_upd])
  repeat' first | intro _ | with_reducible (first | assumption | apply st_upd hP | apply State.dropSamples_stable hP | apply State.setVs_stable hP | apply st_ite (P := P) | apply st_forEach (P := P) | rfl) | split

theorem State.inpLost_stable (hP : Stable P)  {s : State} (h_s : P s) : P (State.inpLost s) := by
  unfold State.inpLost; (try dsimp only); (try simp only [mk_upd])
  repeat' first | intro _ | with_reducible (first | assumption | apply st_upd hP | apply State.setSwIn_stable hP | apply st_ite (P := P) | apply st_forEach (P := P) | rfl) | split

theorem State.startModel_stable (hP : Stable P) (c : Nat) {s : State} (h_s : P s) : P (State.startModel s c) := by
  unfold State.startModel; (try dsimp only); (try simp only [mk_upd])
  repeat' first | intro _ | with_reducible (first | assumption | apply st_upd hP | apply State.setOut_stable hP | apply st_ite (P := P) | rfl) | split

theorem State.applyPair_stable (hP : Stable P) (w : Word) {s : State} (h_s : P s) : P (State.applyPair s w) := by
  unfold State.applyPair; (try dsimp only); (try simp only [mk_upd])
  repeat' first | intro _ | with_reducible (first | assumption | apply st_upd hP | apply hP.reg | apply State.setBit_stable hP | apply State.setOut_stable hP | apply st_ite (P := P) | apply st_forEach (P := P) | rfl) | split

theorem State.applyClear_stable (hP : Stable P) (o : Nat) {s : State} (h_s : P s) : P (State.applyClear s o) := by
  unfold State.applyClear; (try dsimp only); (try simp only [mk_upd])
  repeat' first | intro _ | with_reducible (first | assumption | apply st_upd hP | apply State.setBit_stable hP | apply State.setOut_stable hP | apply st_ite (P := P) | rfl) | split

theorem State.applyWire_stable (hP : Stable P) (c : Nat) (w : Word) {s : State} (h_s : P s) : P (State.applyWire s c w) := by
  unfold State.applyWire; (try dsimp only); (try simp only [mk_upd])
  repeat' first | intro _ | with_reducible (first | assumption | apply st_upd hP | apply State.applyPlain_stable hP | apply State.setBit_stable hP | apply State.setOut_stable hP | apply st_ite (P := P) | rfl) | split

theorem State.applySw_stable (hP : Stable P) (a : Nat) (w : Word) {s : State} (h_s : P s) : OfOpt P (State.applySw s a w) := by
  unfold State.applySw; (try dsimp only); (try simp only [mk_upd])
  repeat' first | intro _ | with_reducible (first | assumption | apply st_upd hP | apply hP.reg | apply State.applyClear_stable hP | apply State.applyPair_stable hP | apply State.applyPlain_stable hP | apply State.applyWire_stable hP | apply State.setOut_stable hP | apply of_none (P := P) | apply of_some (P := P) | apply st_ite (P := P) | rfl) | split

theorem State.applyLimit_stable (hP : Stable P) (a : Nat) (w : Word) {s : State} (h_s : P s) : P (State.applyLimit s a w) := by
  unfold State.applyLimit; (try dsimp only)
  repeat' first | intro _ | with_reducible (first | assumption | apply State.applyPlain_stable hP | apply State.setFld_stable hP | apply st_ite (P := P)) | split

theorem State.putStats_stable (hP : Stable P) (o : Nat) (l : List Int) {s : State} (h_s : P s) : P (State.putStats s o l) := by
  unfold State.putStats; (try dsimp only); (try simp only [mk_upd])
  repeat' first | intro _ | with_reducible (first | assumption | apply st_upd hP | apply State.putIn_stable hP | apply st_ite (P := P) | rfl) | split

theorem State.measureSeg_stable (hP : Stable P) (c : Nat) {s : State} (h_s : P s) : P (State.measureSeg s c) := by
  unfold State.measureSeg; (try dsimp only); (try simp only [mk_upd])
  repeat' first | intro _ | with_reducible (first | assumption | apply st_upd hP | apply State.setOut_stable hP | apply st_ite (P := P) | apply st_foldl (P := P) | rfl) | split

theorem State.countFrame_stable (hP : Stable P) (o : Nat) {s : State} (h_s : P s) : P (State.countFrame s o) := by
  unfold State.countFrame; (try dsimp only); (try simp only [mk_upd])
  repeat' first | intro _ | with_reducible (first | assumption | apply st_upd hP | apply State.setOut_stable hP | apply State.trip_stable hP | apply st_ite (P := P) | rfl) | split

theorem State.putSeg_stable (hP : Stable P) (o : Nat) {s : State} (h_s : P s) : P (State.putSeg s o) := by
  unfold State.putSeg; (try dsimp only)
  repeat' first | intro _ | with_reducible (first | assumption | apply State.putIn_stable hP | apply st_ite (P := P)) | split

theorem State.dieSum_stable (hP : Stable P) (d : Nat) {s : State} (h_s : P s) : P (State.dieSum s d) := by
  unfold State.dieSum; (try dsimp only)
  repeat' first | intro _ | with_reducible (first | assumption | apply State.putIn_stable hP | apply st_ite (P := P) | apply st_foldl (P := P)) | split

theorem State.swClose_stable (hP : Stable P)  {s : State} (h_s : P s) : P (State.swClose s) := by
  unfold State.swClose; (try dsimp only); (try simp only [mk_upd])
  repeat' first | intro _ | with_reducible (first | assumption | apply st_upd hP | apply State.countFrame_stable hP | apply State.dieSum_stable hP | apply State.hbNote_stable hP | apply State.measureSeg_stable hP | apply State.putIn_stable hP | apply State.putSeg_stable hP | apply State.putStats_stable hP | apply State.setDie_stable hP | apply State.setOut_stable hP | apply st_ite (P := P) | apply st_forEach (P := P) | rfl) | split

theorem State.edgeCh_stable (hP : Stable P) (back : Nat → Bool) (c : Nat) {s : State} (h_s : P s) : P (State.edgeCh s back c) := by
  unfold State.edgeCh; (try dsimp only); (try simp only [mk_upd])
  repeat' first | intro _ | with_reducible (first | assumption | apply st_upd hP | apply State.demand_stable hP | apply State.lockAccess_stable hP | apply State.setOut_stable hP | apply State.turnOff_stable hP | apply State.turnOn_stable hP | apply st_ite (P := P) | rfl) | split

theorem State.edgeHb_stable (hP : Stable P) (n : Nat) {s : State} (h_s : P s) : P (State.edgeHb s n) := by
  unfold State.edgeHb; (try dsimp only); (try simp only [mk_upd])
  repeat' first | intro _ | with_reducible (first | assumption | apply st_upd hP | apply State.demand_stable hP | apply State.lockAccess_stable hP | apply State.setOut_stable hP | apply State.takeMode_stable hP | apply State.turnOff_stable hP | apply State.turnOnHb_stable hP | apply st_ite (P := P) | rfl) | split

theorem State.hbAgain_stable (hP : Stable P) (n : Nat) {s : State} (h_s : P s) : P (State.hbAgain s n) := by
  unfold State.hbAgain; (try dsimp only); (try simp only [mk_upd])
  repeat' first | intro _ | with_reducible (first | assumption | apply st_upd hP | apply State.edgeHb_stable hP | apply State.hbNote_stable hP | apply State.setOut_stable hP | apply st_ite (P := P) | rfl) | split

theorem State.restoreDie_stable (hP : Stable P) (d : Nat) {s : State} (h_s : P s) : P (State.restoreDie s d) := by
  unfold State.restoreDie; (try dsimp only); (try simp only [mk_upd])
  repeat' first | intro _ | with_reducible (first | assumption | apply st_upd hP | apply State.setDie_stable hP | apply State.turnOn_stable hP | apply st_ite (P := P) | apply st_foldl (P := P) | rfl) | split

theorem State.deferAt_stable (hP : Stable P) (c : Nat) {s : State} (h_s : P s) : P (State.deferAt s c) := by
  unfold State.deferAt; (try dsimp only); (try simp only [mk_upd])
  repeat' first | intro _ | with_reducible (first | assumption | apply st_upd hP | apply State.setOut_stable hP | apply st_ite (P := P) | rfl) | split

theorem State.judgeOnol_stable (hP : Stable P) (o : Nat) {s : State} (h_s : P s) : P (State.judgeOnol s o) := by
  unfold State.judgeOnol; (try dsimp only); (try simp only [mk_upd])
  repeat' first | intro _ | with_reducible (first | assumption | apply st_upd hP | apply State.setOut_stable hP | apply st_ite (P := P) | rfl) | split

theorem State.diagEdge_stable (hP : Stable P) (o : Nat) {s : State} (h_s : P s) : P (State.diagEdge s o) := by
  unfold State.diagEdge; (try dsimp only); (try simp only [mk_upd])
  repeat' first | intro _ | with_reducible (first | assumption | apply st_upd hP | apply State.judgeOnol_stable hP | apply State.setOut_stable hP | apply st_ite (P := P) | rfl) | split

theorem State.diagSource_stable (hP : Stable P) (o : Nat) {s : State} (h_s : P s) : P (State.diagSource s o) := by
  unfold State.diagSource; (try dsimp only); (try simp only [mk_upd])
  repeat' first | intro _ | with_reducible (first | assumption | apply st_upd hP | apply State.raiseSource_stable hP | apply State.setOut_stable hP | apply State.stall_stable hP | apply st_ite (P := P) | rfl) | split

theorem State.outRecord_stable (hP : Stable P) (o : Nat) {s : State} (h_s : P s) : P (State.outRecord s o) := by
  unfold State.outRecord; (try dsimp only)
  repeat' first | intro _ | with_reducible (first | assumption | apply State.putIn_stable hP | apply st_ite (P := P)) | split

theorem State.dieRecord_stable (hP : Stable P) (d : Nat) {s : State} (h_s : P s) : P (State.dieRecord s d) := by
  unfold State.dieRecord; (try dsimp only)
  repeat' first | intro _ | with_reducible (first | assumption | apply State.putIn_stable hP | apply st_ite (P := P)) | split

theorem State.swHeader_stable (hP : Stable P)  {s : State} (h_s : P s) : P (State.swHeader s) := by
  unfold State.swHeader; (try dsimp only)
  repeat' first | intro _ | with_reducible (first | assumption | apply State.putIn_stable hP | apply State.trip_stable hP | apply st_ite (P := P)) | split

theorem State.swEdge_stable (hP : Stable P) (back : Nat → Bool) {s : State} (h_s : P s) : P (State.swEdge s back) := by
  unfold State.swEdge; (try dsimp only); (try simp only [mk_upd])
  repeat' first | intro _ | with_reducible (first | assumption | apply st_upd hP | apply State.deferAt_stable hP | apply State.diagEdge_stable hP | apply State.edgeCh_stable hP | apply State.edgeHb_stable hP | apply State.restoreDie_stable hP | apply State.setOut_stable hP | apply State.startModel_stable hP | apply st_ite (P := P) | apply st_forEach (P := P) | rfl) | split

theorem State.streamEdge_stable (hP : Stable P)  {s : State} (h_s : P s) : P (State.streamEdge s) := by
  unfold State.streamEdge; (try dsimp only); (try simp only [mk_upd])
  repeat' first | intro _ | with_reducible (first | assumption | apply st_upd hP | apply State.setFld_stable hP | apply st_ite (P := P) | rfl) | split

theorem State.swRecords_stable (hP : Stable P)  {s : State} (h_s : P s) : P (State.swRecords s) := by
  unfold State.swRecords; (try dsimp only); (try simp only [mk_upd])
  repeat' first | intro _ | with_reducible (first | assumption | apply st_upd hP | apply State.diagSource_stable hP | apply State.dieRecord_stable hP | apply State.outRecord_stable hP | apply State.setBit_stable hP | apply State.setOut_stable hP | apply State.streamEdge_stable hP | apply State.swHeader_stable hP | apply st_ite (P := P) | apply st_forEach (P := P) | rfl) | split

theorem State.swWake_stable (hP : Stable P) (d : Nat) {s : State} (h_s : P s) : P (State.swWake s d) := by
  unfold State.swWake; (try dsimp only)
  repeat' first | intro _ | with_reducible (first | assumption | apply State.startModel_stable hP | apply st_ite (P := P) | apply st_forEach (P := P)) | split

theorem State.diagOnce_stable (hP : Stable P) (o : Nat) {s : State} (h_s : P s) : P (State.diagOnce s o) := by
  unfold State.diagOnce; (try dsimp only); (try simp only [mk_upd])
  repeat' first | intro _ | with_reducible (first | assumption | apply st_upd hP | apply State.judgeOnol_stable hP | apply State.setOut_stable hP | apply st_ite (P := P) | rfl) | split

theorem State.diagAgain_stable (hP : Stable P) (o : Nat) {s : State} (h_s : P s) : P (State.diagAgain s o) := by
  unfold State.diagAgain; (try dsimp only)
  repeat' first | intro _ | with_reducible (first | assumption | apply State.diagOnce_stable hP | apply st_ite (P := P) | apply st_foldl (P := P)) | split

theorem State.refreshOut_stable (hP : Stable P) (o : Nat) {s : State} (h_s : P s) : P (State.refreshOut s o) := by
  unfold State.refreshOut; (try dsimp only)
  repeat' first | intro _ | with_reducible (first | assumption | apply State.diagSource_stable hP | apply State.dieRecord_stable hP | apply State.outRecord_stable hP | apply st_ite (P := P) | apply st_foldl (P := P)) | split

theorem execInrushWindowClose_stable (hP : Stable P) (c : Fin 48) {s : State} (h_s : P s) : OfOut P (execInrushWindowClose c s) := by
  unfold execInrushWindowClose; (try dsimp only); (try simp only [mk_upd])
  repeat' first | intro _ | with_reducible (first | assumption | apply st_upd hP | apply State.diagAgain_stable hP | apply State.refreshOut_stable hP | apply State.setOut_stable hP | apply of_oite (P := P) | apply of_next (P := P) | apply of_fault (P := P) | rfl) | split

theorem execChannelRestart_stable (hP : Stable P) (o : Fin 56) {s : State} (h_s : P s) : OfOut P (execChannelRestart o s) := by
  unfold execChannelRestart; (try dsimp only); (try simp only [mk_upd])
  repeat' first | intro _ | with_reducible (first | assumption | apply st_upd hP | apply State.diagAgain_stable hP | apply State.refreshOut_stable hP | apply State.setOut_stable hP | apply State.turnOn_stable hP | apply State.turnOnHb_stable hP | apply of_oite (P := P) | apply of_next (P := P) | apply of_fault (P := P) | rfl) | split

theorem execRetriesHeal_stable (hP : Stable P) (o : Fin 56) {s : State} (h_s : P s) : OfOut P (execRetriesHeal o s) := by
  unfold execRetriesHeal; (try dsimp only); (try simp only [mk_upd])
  repeat' first | intro _ | with_reducible (first | assumption | apply st_upd hP | apply State.refreshOut_stable hP | apply State.setOut_stable hP | apply of_oite (P := P) | apply of_next (P := P) | apply of_fault (P := P) | rfl) | split

theorem execPairImbalance_stable (hP : Stable P) (c : Fin 48) {s : State} (h_s : P s) : OfOut P (execPairImbalance c s) := by
  unfold execPairImbalance; (try dsimp only); (try simp only [mk_upd])
  repeat' first | intro _ | with_reducible (first | assumption | apply st_upd hP | apply State.raiseSource_stable hP | apply State.refreshOut_stable hP | apply State.setOut_stable hP | apply of_oite (P := P) | apply of_next (P := P) | apply of_fault (P := P) | rfl) | split

theorem State.setGbank_stable (hP : Stable P) (b : Nat) (f : GBank → GBank) {s : State} (h_s : P s) : P (State.setGbank s b f) := by
  unfold State.setGbank; (try dsimp only); (try simp only [mk_upd])
  repeat' first | intro _ | with_reducible (first | assumption | apply st_upd hP | apply st_ite (P := P) | rfl) | split

theorem State.nonOwner_stable (hP : Stable P) (a : Nat) (who : Nat) (write : Bool) (fetch : Bool) {s : State} (h_s : P s) : P (State.nonOwner s a who write fetch) := by
  unfold State.nonOwner; (try dsimp only); (try simp only [mk_upd])
  repeat' first | intro _ | with_reducible (first | assumption | apply st_upd hP | apply State.putBit_stable hP | apply State.raiseSource_stable hP | apply State.setBit_stable hP | apply State.setFld_stable hP | apply State.setGbank_stable hP | apply st_ite (P := P) | rfl) | split

theorem State.rateCheck_stable (hP : Stable P) (b : Nat) {s : State} (h_s : P s) : P (State.rateCheck s b) := by
  unfold State.rateCheck; (try dsimp only)
  repeat' first | intro _ | with_reducible (first | assumption | apply State.raiseSource_stable hP | apply st_ite (P := P) | apply st_foldl (P := P)) | split

theorem State.heal_stable (hP : Stable P) (a : Nat) {s : State} (h_s : P s) : P (State.heal s a) := by
  unfold State.heal; (try dsimp only)
  repeat' first | intro _ | with_reducible (first | assumption | apply State.setPin_stable hP | apply st_ite (P := P)) | split

theorem State.resolved_stable (hP : Stable P) (a : Nat) (e0 : Ecc) {s : State} (h_s : P s) : P ((State.resolved s a e0)).2 := by
  unfold State.resolved; (try dsimp only); (try simp only [mk_upd])
  repeat' first | intro _ | with_reducible (first | assumption | apply st_upd hP | apply hP.mem | apply State.setPin_stable hP | apply st_ite (P := P) | apply st_pite (P := P) | rfl) | split

theorem State.correctedCount_stable (hP : Stable P) (b : Nat) (w : Nat) {s : State} (h_s : P s) : P (State.correctedCount s b w) := by
  unfold State.correctedCount; (try dsimp only); (try simp only [mk_upd])
  repeat' first | intro _ | with_reducible (first | assumption | apply st_upd hP | apply State.satInc_stable hP | apply State.setGbank_stable hP | apply st_ite (P := P) | rfl) | split

theorem State.corrected_stable (hP : Stable P) (b : Nat) (w : Nat) {s : State} (h_s : P s) : P (State.corrected s b w) := by
  unfold State.corrected; (try dsimp only)
  repeat' first | intro _ | with_reducible (first | assumption | apply State.correctedCount_stable hP | apply State.raiseSource_stable hP | apply State.rateCheck_stable hP | apply st_ite (P := P)) | split

theorem State.uncorrectableCount_stable (hP : Stable P) (b : Nat) {s : State} (h_s : P s) : P (State.uncorrectableCount s b) := by
  unfold State.uncorrectableCount; (try dsimp only); (try simp only [mk_upd])
  repeat' first | intro _ | with_reducible (first | assumption | apply st_upd hP | apply State.satInc_stable hP | apply State.setBit_stable hP | apply State.setGbank_stable hP | apply st_ite (P := P) | rfl) | split

theorem State.uncorrectable_stable (hP : Stable P) (b : Nat) {s : State} (h_s : P s) : P (State.uncorrectable s b) := by
  unfold State.uncorrectable; (try dsimp only)
  repeat' first | intro _ | with_reducible (first | assumption | apply State.raiseSource_stable hP | apply State.uncorrectableCount_stable hP | apply st_ite (P := P)) | split

theorem State.checked_stable (hP : Stable P) (b : Nat) (w : Nat) (e : Ecc) {s : State} (h_s : P s) : P (State.checked s b w e) := by
  unfold State.checked; (try dsimp only); (try simp only [mk_upd])
  repeat' first | intro _ | with_reducible (first | assumption | apply st_upd hP | apply State.corrected_stable hP | apply State.uncorrectable_stable hP | apply st_ite (P := P) | rfl) | split

theorem State.checkedFor_stable (hP : Stable P) (who : Nat) (b : Nat) (w : Nat) (e : Ecc) {s : State} (h_s : P s) : P (State.checkedFor s who b w e) := by
  unfold State.checkedFor; (try dsimp only); (try simp only [mk_upd])
  repeat' first | intro _ | with_reducible (first | assumption | apply st_upd hP | apply State.checked_stable hP | apply State.correctedCount_stable hP | apply State.uncorrectableCount_stable hP | apply st_ite (P := P) | rfl) | split

theorem State.grnStore_stable (hP : Stable P) (b : Nat) (w : Nat) (v : TWord) {s : State} (h_s : P s) : P (State.grnStore s b w v) := by
  unfold State.grnStore; (try dsimp only); (try simp only [mk_upd])
  repeat' first | intro _ | with_reducible (first | assumption | apply st_upd hP | apply hP.mem | apply State.heal_stable hP | apply State.setGbank_stable hP | apply st_ite (P := P) | rfl) | split

theorem State.deliverGot_stable (hP : Stable P) (who : Nat) (v : TWord) (v2 : TWord) {s : State} (h_s : P s) : P (State.deliverGot s who v v2) := by
  unfold State.deliverGot; (try dsimp only); (try simp only [mk_upd])
  repeat' first | intro _ | with_reducible (first | assumption | apply st_upd hP | apply st_ite (P := P) | rfl) | split

theorem State.readWord_stable (hP : Stable P) (who : Nat) (b : Nat) (w : Nat) (e : Ecc) {s : State} (h_s : P s) : P ((State.readWord s who b w e)).2.2 := by
  unfold State.readWord; (try dsimp only)
  repeat' first | intro _ | with_reducible (first | assumption | apply State.checkedFor_stable hP | apply State.resolved_stable hP | apply st_ite (P := P) | apply st_pite (P := P) | apply st_pite2 (P := P) | refine st_snd (P := P) (by assumption) ?_) | split

theorem State.performed_stable (hP : Stable P) (b : Nat) (g : GAcc) (e : Ecc) {s : State} (h_s : P s) : P ((State.performed s b g e)).2.2 := by
  unfold State.performed; (try dsimp only); (try simp only [mk_upd])
  repeat' first | intro _ | with_reducible (first | assumption | apply st_upd hP | apply State.grnStore_stable hP | apply State.readWord_stable hP | apply st_ite (P := P) | apply st_pite (P := P) | apply st_pite2 (P := P) | refine st_snd2 (P := P) (by assumption) ?_ | rfl) | split

theorem State.granted_stable (hP : Stable P) (b : Nat) (g : GAcc) (e : Ecc) {s : State} (h_s : P s) : P (State.granted s b g e) := by
  unfold State.granted; (try dsimp only); (try simp only [mk_upd])
  repeat' first | intro _ | with_reducible (first | assumption | apply st_upd hP | apply State.checked_stable hP | apply State.deliverGot_stable hP | apply State.heal_stable hP | apply State.nonOwner_stable hP | apply State.performed_stable hP | apply State.resolved_stable hP | apply State.setGbank_stable hP | apply st_ite (P := P) | refine st_snd2 (P := P) (by assumption) ?_ | refine st_snd (P := P) (by assumption) ?_ | rfl) | split

theorem State.laneGives_stable (hP : Stable P) (b : Nat) (g : GAcc) {s : State} (h_s : P s) : P (State.laneGives s b g) := by
  unfold State.laneGives; (try dsimp only); (try simp only [mk_upd])
  repeat' first | intro _ | with_reducible (first | assumption | apply st_upd hP | apply State.setGbank_stable hP | apply st_ite (P := P) | rfl) | split

theorem State.laneServe_stable (hP : Stable P) (who : Nat) (a : Nat) {s : State} (h_s : P s) : P (State.laneServe s who a) := by
  unfold State.laneServe; (try dsimp only); (try simp only [mk_upd])
  repeat' first | intro _ | with_reducible (first | assumption | apply st_upd hP | apply State.granted_stable hP | apply State.laneGives_stable hP | apply st_ite (P := P) | apply st_foldl (P := P) | rfl) | split

theorem State.laneTurn_stable (hP : Stable P) (who : Nat) (a : Nat) {s : State} (h_s : P s) : P (State.laneTurn s who a) := by
  unfold State.laneTurn; (try dsimp only); (try simp only [mk_upd])
  repeat' first | intro _ | with_reducible (first | assumption | apply st_upd hP | apply State.laneServe_stable hP | apply State.setGbank_stable hP | apply st_ite (P := P) | rfl) | split

theorem State.wakeFailed_stable (hP : Stable P) (b : Nat) {s : State} (h_s : P s) : P (State.wakeFailed s b) := by
  unfold State.wakeFailed; (try dsimp only); (try simp only [mk_upd])
  repeat' first | intro _ | with_reducible (first | assumption | apply st_upd hP | apply State.raiseSource_stable hP | apply State.setBit_stable hP | apply State.setGbank_stable hP | apply st_ite (P := P) | rfl) | split

theorem State.lockedBank_stable (hP : Stable P) (who : Nat) {s : State} (h_s : P s) : P (State.lockedBank s who) := by
  unfold State.lockedBank; (try dsimp only)
  repeat' first | intro _ | with_reducible (first | assumption | apply State.lockAccess_stable hP | apply State.setBit_stable hP | apply st_ite (P := P)) | split

theorem State.strayAccess_stable (hP : Stable P) (a : Nat) (who : Nat) (write : Bool) (fetch : Bool) {s : State} (h_s : P s) : P (State.strayAccess s a who write fetch) := by
  unfold State.strayAccess; (try dsimp only)
  repeat' first | intro _ | with_reducible (first | assumption | apply State.laneTurn_stable hP | apply State.nonOwner_stable hP | apply st_ite (P := P)) | split

theorem State.grnRead_stable (hP : Stable P) (who : Nat) (a : Nat) (e : Ecc) {s : State} (h_s : P s) : P ((State.grnRead s who a e)).2 := by
  unfold State.grnRead; (try dsimp only)
  repeat' first | intro _ | with_reducible (first | assumption | apply State.demand_stable hP | apply State.laneTurn_stable hP | apply State.lockedBank_stable hP | apply State.readWord_stable hP | apply State.strayAccess_stable hP | apply State.wakeFailed_stable hP | apply st_ite (P := P) | apply st_pite (P := P) | refine st_snd2 (P := P) (by assumption) ?_) | split

theorem State.grnWrite_stable (hP : Stable P) (who : Nat) (a : Nat) (v : TWord) {s : State} (h_s : P s) : P (State.grnWrite s who a v) := by
  unfold State.grnWrite; (try dsimp only)
  repeat' first | intro _ | with_reducible (first | assumption | apply State.demand_stable hP | apply State.grnStore_stable hP | apply State.laneTurn_stable hP | apply State.lockedBank_stable hP | apply State.strayAccess_stable hP | apply State.wakeFailed_stable hP | apply st_ite (P := P)) | split

theorem State.setRun_stable (hP : Stable P) (e : Nat) (run : Bool) {s : State} (h_s : P s) : P (State.setRun s e run) := by
  unfold State.setRun; (try dsimp only); (try simp only [mk_upd])
  repeat' first | intro _ | with_reducible (first | assumption | apply st_upd hP | apply State.fresh_stable hP | apply State.plStop_stable hP | apply State.putBit_stable hP | apply State.setCoil_stable hP | apply st_ite (P := P) | apply st_foldl (P := P) | refine st_snd (P := P) (by assumption) ?_ | rfl) | split

theorem execEngineStart_stable (hP : Stable P) (e : Fin 6) {s : State} (h_s : P s) : OfOut P (execEngineStart e s) := by
  unfold execEngineStart; (try dsimp only)
  repeat' first | intro _ | with_reducible (first | assumption | apply State.setRun_stable hP | apply State.store_stable hP | apply of_oite (P := P) | apply of_next (P := P) | apply of_fault (P := P) | apply st_ite (P := P)) | split

theorem execEngineStop_stable (hP : Stable P) (e : Fin 6) {s : State} (h_s : P s) : OfOut P (execEngineStop e s) := by
  unfold execEngineStop; (try dsimp only)
  repeat' first | intro _ | with_reducible (first | assumption | apply State.setRun_stable hP | apply State.store_stable hP | apply of_oite (P := P) | apply of_next (P := P) | apply of_fault (P := P) | apply st_ite (P := P)) | split

theorem State.plFault_stable (hP : Stable P) (ch : Nat) (cause : CoilDiag → CoilDiag) {s : State} (h_s : P s) : P (State.plFault s ch cause) := by
  unfold State.plFault; (try dsimp only); (try simp only [mk_upd])
  repeat' first | intro _ | with_reducible (first | assumption | apply st_upd hP | apply State.plStop_stable hP | apply State.raiseEvent_stable hP | apply State.raiseSource_stable hP | apply State.setCoil_stable hP | apply st_ite (P := P) | rfl) | split

theorem State.ucFault_stable (hP : Stable P) (ch : Nat) {s : State} (h_s : P s) : P (State.ucFault s ch) := by
  unfold State.ucFault; (try dsimp only); (try simp only [mk_upd])
  repeat' first | intro _ | with_reducible (first | assumption | apply st_upd hP | apply State.plFault_stable hP | apply State.raiseSource_stable hP | apply st_ite (P := P) | rfl) | split

theorem State.ucNext_stable (hP : Stable P) (t : Nat) (f : Coil → Coil) {s : State} (h_s : P s) : P (State.ucNext s t f) := by
  unfold State.ucNext; (try dsimp only); (try simp only [mk_upd])
  repeat' first | intro _ | with_reducible (first | assumption | apply st_upd hP | apply State.setCoil_stable hP | apply State.ucFault_stable hP | apply st_ite (P := P) | rfl) | split

theorem State.ucDone_stable (hP : Stable P) (t : Nat) {s : State} (h_s : P s) : P (State.ucDone s t) := by
  unfold State.ucDone; (try dsimp only); (try simp only [mk_upd])
  repeat' first | intro _ | with_reducible (first | assumption | apply st_upd hP | apply State.ucNext_stable hP | apply st_ite (P := P) | rfl) | split

theorem execGrantedSlotStart_stable (hP : Stable P) (t : Fin 12) {s : State} (h_s : P s) : OfOut P (execGrantedSlotStart t s) := by
  unfold execGrantedSlotStart; (try dsimp only); (try simp only [mk_upd])
  repeat' first | intro _ | with_reducible (first | assumption | apply st_upd hP | apply State.advance_stable hP | apply State.setCoil_stable hP | apply of_oite (P := P) | apply of_next (P := P) | apply of_fault (P := P) | rfl) | split

theorem State.coilSample_stable (hP : Stable P) (ch : Nat) {s : State} (h_s : P s) : P (State.coilSample s ch) := by
  unfold State.coilSample; (try dsimp only); (try simp only [mk_upd])
  repeat' first | intro _ | with_reducible (first | assumption | apply st_upd hP | apply State.setCoil_stable hP | apply State.ucDone_stable hP | apply st_ite (P := P) | rfl) | split

theorem execRegulatorSample_stable (hP : Stable P) (w : World) {s : State} (h_s : P s) : OfOut P (execRegulatorSample w s) := by
  unfold execRegulatorSample; (try dsimp only); (try simp only [mk_upd])
  repeat' first | intro _ | with_reducible (first | assumption | apply st_upd hP | apply State.advance_stable hP | apply State.coilSample_stable hP | apply State.observe_stable hP | apply State.setPbank_stable hP | apply of_oite (P := P) | apply of_next (P := P) | apply of_fault (P := P) | apply st_forEach (P := P) | rfl) | split

theorem execDetectorWindowClose_stable (hP : Stable P) (t : Fin 12) {s : State} (h_s : P s) : OfOut P (execDetectorWindowClose t s) := by
  unfold execDetectorWindowClose; (try dsimp only); (try simp only [mk_upd])
  repeat' first | intro _ | with_reducible (first | assumption | apply st_upd hP | apply State.advance_stable hP | apply State.setCoil_stable hP | apply of_oite (P := P) | apply of_next (P := P) | apply of_fault (P := P) | rfl) | split

theorem State.issue_stable (hP : Stable P) (t : Nat) (op : Nat) (f : State → Nat → State) {s : State} (h_s : P s) (h_f : ∀ x0 x1, P x0 → P (f x0 x1)) : OfOut P (State.issue s t op f) := by
  unfold State.issue; (try dsimp only); (try simp only [mk_upd])
  repeat' first | intro _ | with_reducible (first | assumption | apply st_upd hP | apply h_f | apply of_oite (P := P) | apply of_next (P := P) | apply of_fault (P := P) | rfl) | split

theorem State.ucJump_stable (hP : Stable P) (t : Nat) (a : Nat) (f : Coil → Coil) {s : State} (h_s : P s) : P (State.ucJump s t a f) := by
  unfold State.ucJump; (try dsimp only); (try simp only [mk_upd])
  repeat' first | intro _ | with_reducible (first | assumption | apply st_upd hP | apply State.setCoil_stable hP | apply st_ite (P := P) | rfl) | split

theorem execUcNop_stable (hP : Stable P) (t : Fin 12) {s : State} (h_s : P s) : OfOut P (execUcNop t s) := by
  unfold execUcNop; (try dsimp only)
  repeat' first | intro _ | with_reducible (first | assumption | apply State.issue_stable hP | apply State.ucNext_stable hP | apply of_oite (P := P) | apply of_next (P := P) | apply of_fault (P := P) | apply st_ite (P := P) | refine st_next (P := P) (by assumption) ?_) | split

theorem execUcSet_stable (hP : Stable P) (t : Fin 12) {s : State} (h_s : P s) : OfOut P (execUcSet t s) := by
  unfold execUcSet; (try dsimp only); (try simp only [mk_upd])
  repeat' first | intro _ | with_reducible (first | assumption | apply st_upd hP | apply State.issue_stable hP | apply State.ucNext_stable hP | apply of_oite (P := P) | apply of_next (P := P) | apply of_fault (P := P) | apply st_ite (P := P) | refine st_next (P := P) (by assumption) ?_ | rfl) | split

theorem execUcRamp_stable (hP : Stable P) (t : Fin 12) {s : State} (h_s : P s) : OfOut P (execUcRamp t s) := by
  unfold execUcRamp; (try dsimp only); (try simp only [mk_upd])
  repeat' first | intro _ | with_reducible (first | assumption | apply st_upd hP | apply State.issue_stable hP | apply State.setCoil_stable hP | apply State.ucNext_stable hP | apply of_oite (P := P) | apply of_next (P := P) | apply of_fault (P := P) | apply st_ite (P := P) | refine st_next (P := P) (by assumption) ?_ | rfl) | split

theorem execUcWaits_stable (hP : Stable P) (t : Fin 12) {s : State} (h_s : P s) : OfOut P (execUcWaits t s) := by
  unfold execUcWaits; (try dsimp only); (try simp only [mk_upd])
  repeat' first | intro _ | with_reducible (first | assumption | apply st_upd hP | apply State.issue_stable hP | apply State.setCoil_stable hP | apply State.ucNext_stable hP | apply of_oite (P := P) | apply of_next (P := P) | apply of_fault (P := P) | apply st_ite (P := P) | refine st_next (P := P) (by assumption) ?_ | rfl) | split

theorem execUcWaitu_stable (hP : Stable P) (t : Fin 12) {s : State} (h_s : P s) : OfOut P (execUcWaitu t s) := by
  unfold execUcWaitu; (try dsimp only); (try simp only [mk_upd])
  repeat' first | intro _ | with_reducible (first | assumption | apply st_upd hP | apply State.issue_stable hP | apply State.setCoil_stable hP | apply State.ucNext_stable hP | apply of_oite (P := P) | apply of_next (P := P) | apply of_fault (P := P) | apply st_ite (P := P) | refine st_next (P := P) (by assumption) ?_ | rfl) | split

theorem execUcWaituExpire_stable (hP : Stable P) (t : Fin 12) {s : State} (h_s : P s) : OfOut P (execUcWaituExpire t s) := by
  unfold execUcWaituExpire; (try dsimp only); (try simp only [mk_upd])
  repeat' first | intro _ | with_reducible (first | assumption | apply st_upd hP | apply State.advance_stable hP | apply State.ucDone_stable hP | apply of_oite (P := P) | apply of_next (P := P) | apply of_fault (P := P) | rfl) | split

theorem execUcWaitc_stable (hP : Stable P) (t : Fin 12) {s : State} (h_s : P s) : OfOut P (execUcWaitc t s) := by
  unfold execUcWaitc; (try dsimp only); (try simp only [mk_upd])
  repeat' first | intro _ | with_reducible (first | assumption | apply st_upd hP | apply State.issue_stable hP | apply State.setCoil_stable hP | apply of_oite (P := P) | apply of_next (P := P) | apply of_fault (P := P) | apply st_ite (P := P) | refine st_next (P := P) (by assumption) ?_ | rfl) | split

theorem execUcWaitcTimeout_stable (hP : Stable P) (t : Fin 12) {s : State} (h_s : P s) : OfOut P (execUcWaitcTimeout t s) := by
  unfold execUcWaitcTimeout; (try dsimp only); (try simp only [mk_upd])
  repeat' first | intro _ | with_reducible (first | assumption | apply st_upd hP | apply State.advance_stable hP | apply State.ucNext_stable hP | apply of_oite (P := P) | apply of_next (P := P) | apply of_fault (P := P) | rfl) | split

theorem execUcDecay_stable (hP : Stable P) (t : Fin 12) {s : State} (h_s : P s) : OfOut P (execUcDecay t s) := by
  unfold execUcDecay; (try dsimp only); (try simp only [mk_upd])
  repeat' first | intro _ | with_reducible (first | assumption | apply st_upd hP | apply State.issue_stable hP | apply State.ucFault_stable hP | apply State.ucNext_stable hP | apply of_oite (P := P) | apply of_next (P := P) | apply of_fault (P := P) | apply st_ite (P := P) | refine st_next (P := P) (by assumption) ?_ | rfl) | split

theorem execUcBr_stable (hP : Stable P) (t : Fin 12) {s : State} (h_s : P s) : OfOut P (execUcBr t s) := by
  unfold execUcBr; (try dsimp only); (try simp only [mk_upd])
  repeat' first | intro _ | with_reducible (first | assumption | apply st_upd hP | apply State.issue_stable hP | apply State.ucFault_stable hP | apply State.ucJump_stable hP | apply State.ucNext_stable hP | apply of_oite (P := P) | apply of_next (P := P) | apply of_fault (P := P) | apply st_ite (P := P) | refine st_next (P := P) (by assumption) ?_ | rfl) | split

theorem execUcLps_stable (hP : Stable P) (t : Fin 12) {s : State} (h_s : P s) : OfOut P (execUcLps t s) := by
  unfold execUcLps; (try dsimp only); (try simp only [mk_upd])
  repeat' first | intro _ | with_reducible (first | assumption | apply st_upd hP | apply State.issue_stable hP | apply State.ucNext_stable hP | apply of_oite (P := P) | apply of_next (P := P) | apply of_fault (P := P) | apply st_ite (P := P) | refine st_next (P := P) (by assumption) ?_ | rfl) | split

theorem execUcLpj_stable (hP : Stable P) (t : Fin 12) {s : State} (h_s : P s) : OfOut P (execUcLpj t s) := by
  unfold execUcLpj; (try dsimp only); (try simp only [mk_upd])
  repeat' first | intro _ | with_reducible (first | assumption | apply st_upd hP | apply State.issue_stable hP | apply State.ucJump_stable hP | apply State.ucNext_stable hP | apply of_oite (P := P) | apply of_next (P := P) | apply of_fault (P := P) | apply st_ite (P := P) | refine st_next (P := P) (by assumption) ?_ | rfl) | split

theorem execUcArmd_stable (hP : Stable P) (t : Fin 12) {s : State} (h_s : P s) : OfOut P (execUcArmd t s) := by
  unfold execUcArmd; (try dsimp only); (try simp only [mk_upd])
  repeat' first | intro _ | with_reducible (first | assumption | apply st_upd hP | apply State.issue_stable hP | apply State.ucNext_stable hP | apply of_oite (P := P) | apply of_next (P := P) | apply of_fault (P := P) | apply st_ite (P := P) | refine st_next (P := P) (by assumption) ?_ | rfl) | split

theorem execUcHold_stable (hP : Stable P) (t : Fin 12) {s : State} (h_s : P s) : OfOut P (execUcHold t s) := by
  unfold execUcHold; (try dsimp only); (try simp only [mk_upd])
  repeat' first | intro _ | with_reducible (first | assumption | apply st_upd hP | apply State.issue_stable hP | apply State.setCoil_stable hP | apply State.ucNext_stable hP | apply of_oite (P := P) | apply of_next (P := P) | apply of_fault (P := P) | apply st_ite (P := P) | refine st_next (P := P) (by assumption) ?_ | rfl) | split

theorem execUcSig_stable (hP : Stable P) (t : Fin 12) {s : State} (h_s : P s) : OfOut P (execUcSig t s) := by
  unfold execUcSig; (try dsimp only); (try simp only [mk_upd])
  repeat' first | intro _ | with_reducible (first | assumption | apply st_upd hP | apply State.issue_stable hP | apply State.raiseEvent_stable hP | apply State.ucNext_stable hP | apply of_oite (P := P) | apply of_next (P := P) | apply of_fault (P := P) | apply st_ite (P := P) | refine st_next (P := P) (by assumption) ?_ | rfl) | split

theorem execUcEnd_stable (hP : Stable P) (t : Fin 12) {s : State} (h_s : P s) : OfOut P (execUcEnd t s) := by
  unfold execUcEnd; (try dsimp only); (try simp only [mk_upd])
  repeat' first | intro _ | with_reducible (first | assumption | apply st_upd hP | apply State.issue_stable hP | apply State.plStop_stable hP | apply State.setCoil_stable hP | apply of_oite (P := P) | apply of_next (P := P) | apply of_fault (P := P) | apply st_ite (P := P) | refine st_next (P := P) (by assumption) ?_ | rfl) | split

theorem execMicrocodeFault_stable (hP : Stable P) (t : Fin 12) (parity : Bool) {s : State} (h_s : P s) : OfOut P (execMicrocodeFault t parity s) := by
  unfold execMicrocodeFault; (try dsimp only); (try simp only [mk_upd])
  repeat' first | intro _ | with_reducible (first | assumption | apply st_upd hP | apply State.ucFault_stable hP | apply of_oite (P := P) | apply of_next (P := P) | apply of_fault (P := P) | rfl) | split

theorem execCoilShutoff_stable (hP : Stable P) (ch : Fin 12) (amps : Int) (deg : Int) {s : State} (h_s : P s) : OfOut P (execCoilShutoff ch amps deg s) := by
  unfold execCoilShutoff; (try dsimp only); (try simp only [mk_upd])
  repeat' first | intro _ | with_reducible (first | assumption | apply st_upd hP | apply State.plFault_stable hP | apply of_oite (P := P) | apply of_next (P := P) | apply of_fault (P := P) | rfl) | split

theorem execBankShutoff_stable (hP : Stable P) (b : Fin 3) (amps : Int) (deg : Int) {s : State} (h_s : P s) : OfOut P (execBankShutoff b amps deg s) := by
  unfold execBankShutoff; (try dsimp only); (try simp only [mk_upd])
  repeat' first | intro _ | with_reducible (first | assumption | apply st_upd hP | apply State.plFault_stable hP | apply State.raiseSource_stable hP | apply State.setPbank_stable hP | apply of_oite (P := P) | apply of_next (P := P) | apply of_fault (P := P) | apply st_forEach (P := P) | rfl) | split

theorem execClampOvertemp_stable (hP : Stable P) (ch : Fin 12) (deg : Int) {s : State} (h_s : P s) : OfOut P (execClampOvertemp ch deg s) := by
  unfold execClampOvertemp; (try dsimp only); (try simp only [mk_upd])
  repeat' first | intro _ | with_reducible (first | assumption | apply st_upd hP | apply State.setCoil_stable hP | apply State.setPin_stable hP | apply of_oite (P := P) | apply of_next (P := P) | apply of_fault (P := P) | rfl) | split

theorem execLoaderCopyComplete_stable (hP : Stable P)  {s : State} (h_s : P s) : OfOut P (execLoaderCopyComplete s) := by
  unfold execLoaderCopyComplete; (try dsimp only); (try simp only [mk_upd])
  repeat' first | intro _ | with_reducible (first | assumption | apply st_upd hP | apply of_oite (P := P) | apply of_next (P := P) | apply of_fault (P := P) | rfl) | split

theorem execPxShutoff_stable (hP : Stable P) (x : Fin 4) (amps : Int) (deg : Int) {s : State} (h_s : P s) : OfOut P (execPxShutoff x amps deg s) := by
  unfold execPxShutoff; (try dsimp only); (try simp only [mk_upd])
  repeat' first | intro _ | with_reducible (first | assumption | apply st_upd hP | apply State.raiseSource_stable hP | apply State.setPx_stable hP | apply of_oite (P := P) | apply of_next (P := P) | apply of_fault (P := P) | rfl) | split

theorem State.accStats_stable (hP : Stable P) (a : Acc) {s : State} (h_s : P s) : P ((State.accStats s a)).2 := by
  unfold State.accStats; (try dsimp only); (try simp only [mk_upd])
  repeat' first | intro _ | with_reducible (first | assumption | apply st_upd hP | apply st_ite (P := P) | apply st_pite (P := P) | rfl) | split

theorem State.coilClose_stable (hP : Stable P) (ch : Nat) {s : State} (h_s : P s) : P (State.coilClose s ch) := by
  unfold State.coilClose; (try dsimp only)
  repeat' first | intro _ | with_reducible (first | assumption | apply State.accStats_stable hP | apply State.putIn_stable hP | apply st_ite (P := P) | refine st_snd (P := P) (by assumption) ?_) | split

theorem State.bankClose_stable (hP : Stable P) (b : Nat) {s : State} (h_s : P s) : P (State.bankClose s b) := by
  unfold State.bankClose; (try dsimp only)
  repeat' first | intro _ | with_reducible (first | assumption | apply State.accStats_stable hP | apply State.putIn_stable hP | apply st_ite (P := P) | refine st_snd (P := P) (by assumption) ?_) | split

theorem State.pxClose_stable (hP : Stable P) (x : Nat) {s : State} (h_s : P s) : P (State.pxClose s x) := by
  unfold State.pxClose; (try dsimp only); (try simp only [mk_upd])
  repeat' first | intro _ | with_reducible (first | assumption | apply st_upd hP | apply State.putIn_stable hP | apply State.setPx_stable hP | apply st_ite (P := P) | rfl) | split

theorem State.prsClose_stable (hP : Stable P)  {s : State} (h_s : P s) : P (State.prsClose s) := by
  unfold State.prsClose; (try dsimp only); (try simp only [mk_upd])
  repeat' first | intro _ | with_reducible (first | assumption | apply st_upd hP | apply State.bankClose_stable hP | apply State.coilClose_stable hP | apply State.pxClose_stable hP | apply State.raiseSource_stable hP | apply State.setBit_stable hP | apply State.setCoil_stable hP | apply State.setPbank_stable hP | apply st_ite (P := P) | apply st_forEach (P := P) | rfl) | split

theorem State.applyPlPair_stable (hP : Stable P) (w : Word) {s : State} (h_s : P s) : P (State.applyPlPair s w) := by
  unfold State.applyPlPair; (try dsimp only); (try simp only [mk_upd])
  repeat' first | intro _ | with_reducible (first | assumption | apply st_upd hP | apply hP.reg | apply State.fresh_stable hP | apply State.setBit_stable hP | apply State.setCoil_stable hP | apply st_ite (P := P) | apply st_forEach (P := P) | refine st_snd (P := P) (by assumption) ?_ | rfl) | split

theorem State.applyPlClear_stable (hP : Stable P) (ch : Nat) {s : State} (h_s : P s) : P (State.applyPlClear s ch) := by
  unfold State.applyPlClear; (try dsimp only); (try simp only [mk_upd])
  repeat' first | intro _ | with_reducible (first | assumption | apply st_upd hP | apply State.fresh_stable hP | apply State.setBit_stable hP | apply State.setCoil_stable hP | apply st_ite (P := P) | refine st_snd (P := P) (by assumption) ?_ | rfl) | split

theorem State.applyBankClear_stable (hP : Stable P) (b : Nat) {s : State} (h_s : P s) : P (State.applyBankClear s b) := by
  unfold State.applyBankClear; (try dsimp only); (try simp only [mk_upd])
  repeat' first | intro _ | with_reducible (first | assumption | apply st_upd hP | apply State.fresh_stable hP | apply State.setBit_stable hP | apply State.setCoil_stable hP | apply State.setPbank_stable hP | apply st_ite (P := P) | apply st_forEach (P := P) | refine st_snd (P := P) (by assumption) ?_ | rfl) | split

theorem State.applyPxClear_stable (hP : Stable P) (x : Nat) {s : State} (h_s : P s) : P (State.applyPxClear s x) := by
  unfold State.applyPxClear; (try dsimp only); (try simp only [mk_upd])
  repeat' first | intro _ | with_reducible (first | assumption | apply st_upd hP | apply State.setBit_stable hP | apply State.setPx_stable hP | apply st_ite (P := P) | rfl) | split

theorem State.applyPrs_stable (hP : Stable P) (a : Nat) (w : Word) {s : State} (h_s : P s) : OfOpt P (State.applyPrs s a w) := by
  unfold State.applyPrs; (try dsimp only)
  repeat' first | intro _ | with_reducible (first | assumption | apply State.applyBankClear_stable hP | apply State.applyPlClear_stable hP | apply State.applyPlPair_stable hP | apply State.applyPlain_stable hP | apply State.applyPxClear_stable hP | apply State.setFld_stable hP | apply of_none (P := P) | apply of_some (P := P) | apply st_ite (P := P)) | split

theorem State.loaderRead_stable (hP : Stable P) (y0 : List Nat) {s : State} (h_s : P s) : P ((State.loaderRead s y0)).2 := by
  induction y0 generalizing s with
  | nil => exact h_s
  | cons a l ih =>
    unfold State.loaderRead
    repeat' first | intro _ | with_reducible (first | assumption | apply ih | apply State.grnRead_stable hP | apply State.wakeFailed_stable hP | apply st_ite (P := P) | apply st_pite (P := P) | refine st_snd (P := P) (by assumption) ?_) | (dsimp only) | split

theorem State.loaderWrite_stable (hP : Stable P)  {s : State} (h_s : P s) : P (State.loaderWrite s) := by
  unfold State.loaderWrite; (try dsimp only); (try simp only [mk_upd])
  repeat' first | intro _ | with_reducible (first | assumption | apply st_upd hP | apply State.setUcode_stable hP | apply st_ite (P := P) | apply st_foldl (P := P) | apply st_foldl2 (P := P) | rfl) | split

theorem State.loaderStore_stable (hP : Stable P)  {s : State} (h_s : P s) : P (State.loaderStore s) := by
  unfold State.loaderStore; (try dsimp only); (try simp only [mk_upd])
  repeat' first | intro _ | with_reducible (first | assumption | apply st_upd hP | apply State.loaderWrite_stable hP | apply st_ite (P := P) | rfl) | split

theorem State.loaderRefuse_stable (hP : Stable P)  {s : State} (h_s : P s) : P (State.loaderRefuse s) := by
  unfold State.loaderRefuse; (try dsimp only); (try simp only [mk_upd])
  repeat' first | intro _ | with_reducible (first | assumption | apply st_upd hP | apply st_ite (P := P) | rfl) | split

theorem State.loaderGo_stable (hP : Stable P)  {s : State} (h_s : P s) : P (State.loaderGo s) := by
  unfold State.loaderGo; (try dsimp only); (try simp only [mk_upd])
  repeat' first | intro _ | with_reducible (first | assumption | apply st_upd hP | apply State.demand_stable hP | apply State.loaderRead_stable hP | apply State.loaderRefuse_stable hP | apply State.loaderWrite_stable hP | apply State.lockAccess_stable hP | apply State.nonOwner_stable hP | apply st_ite (P := P) | refine st_snd (P := P) (by assumption) ?_ | rfl) | split

theorem State.clampGuard_stable (hP : Stable P) (ch : Nat) {s : State} (h_s : P s) : P (State.clampGuard s ch) := by
  unfold State.clampGuard; (try dsimp only); (try simp only [mk_upd])
  repeat' first | intro _ | with_reducible (first | assumption | apply st_upd hP | apply State.setCoil_stable hP | apply st_ite (P := P) | rfl) | split

theorem State.coilEdge_stable (hP : Stable P) (ch : Nat) {s : State} (h_s : P s) : P (State.coilEdge s ch) := by
  unfold State.coilEdge; (try dsimp only); (try simp only [mk_upd])
  repeat' first | intro _ | with_reducible (first | assumption | apply st_upd hP | apply State.demandOrLock_stable hP | apply State.fresh_stable hP | apply State.setCoil_stable hP | apply st_ite (P := P) | refine st_snd (P := P) (by assumption) ?_ | rfl) | split

theorem State.stagger_stable (hP : Stable P)  {s : State} (h_s : P s) : P (State.stagger s) := by
  unfold State.stagger; (try dsimp only)
  repeat' first | intro _ | with_reducible (first | assumption | apply State.arbitrate_stable hP | apply State.raiseSource_stable hP | apply st_ite (P := P) | apply st_forEach (P := P)) | split

theorem State.prsEdge_stable (hP : Stable P)  {s : State} (h_s : P s) : P (State.prsEdge s) := by
  unfold State.prsEdge; (try dsimp only); (try simp only [mk_upd])
  repeat' first | intro _ | with_reducible (first | assumption | apply st_upd hP | apply State.clampGuard_stable hP | apply State.coilEdge_stable hP | apply State.movePx_stable hP | apply State.plGuard_stable hP | apply State.setPx_stable hP | apply State.stagger_stable hP | apply st_ite (P := P) | apply st_forEach (P := P) | rfl) | split

theorem State.coilRecord_stable (hP : Stable P) (ch : Nat) {s : State} (h_s : P s) : P (State.coilRecord s ch) := by
  unfold State.coilRecord; (try dsimp only)
  repeat' first | intro _ | with_reducible (first | assumption | apply State.putIn_stable hP | apply st_ite (P := P)) | split

theorem State.coilSource_stable (hP : Stable P) (ch : Nat) {s : State} (h_s : P s) : P (State.coilSource s ch) := by
  unfold State.coilSource; (try dsimp only); (try simp only [mk_upd])
  repeat' first | intro _ | with_reducible (first | assumption | apply st_upd hP | apply State.raiseSource_stable hP | apply State.setCoil_stable hP | apply st_ite (P := P) | rfl) | split

theorem State.bankRecord_stable (hP : Stable P) (b : Nat) {s : State} (h_s : P s) : P (State.bankRecord s b) := by
  unfold State.bankRecord; (try dsimp only)
  repeat' first | intro _ | with_reducible (first | assumption | apply State.putIn_stable hP | apply st_ite (P := P)) | split

theorem State.engineRecord_stable (hP : Stable P) (e : Nat) {s : State} (h_s : P s) : P (State.engineRecord s e) := by
  unfold State.engineRecord; (try dsimp only)
  repeat' first | intro _ | with_reducible (first | assumption | apply State.putIn_stable hP | apply st_ite (P := P)) | split

theorem State.pxRecord_stable (hP : Stable P) (x : Nat) {s : State} (h_s : P s) : P (State.pxRecord s x) := by
  unfold State.pxRecord; (try dsimp only); (try simp only [mk_upd])
  repeat' first | intro _ | with_reducible (first | assumption | apply st_upd hP | apply State.putIn_stable hP | apply State.raiseSource_stable hP | apply State.setPx_stable hP | apply st_ite (P := P) | rfl) | split

theorem State.prsHeader_stable (hP : Stable P) (live : Bool) {s : State} (h_s : P s) : P (State.prsHeader s live) := by
  unfold State.prsHeader; (try dsimp only)
  repeat' first | intro _ | with_reducible (first | assumption | apply State.putIn_stable hP | apply st_ite (P := P)) | split

theorem State.prsRecords_stable (hP : Stable P)  {s : State} (h_s : P s) : P (State.prsRecords s) := by
  unfold State.prsRecords; (try dsimp only)
  repeat' first | intro _ | with_reducible (first | assumption | apply State.bankRecord_stable hP | apply State.coilRecord_stable hP | apply State.coilSource_stable hP | apply State.engineRecord_stable hP | apply State.prsHeader_stable hP | apply State.pxRecord_stable hP | apply st_ite (P := P) | apply st_forEach (P := P)) | split

theorem State.refreshPl_stable (hP : Stable P) (t : Nat) {s : State} (h_s : P s) : P (State.refreshPl s t) := by
  unfold State.refreshPl; (try dsimp only)
  repeat' first | intro _ | with_reducible (first | assumption | apply State.bankRecord_stable hP | apply State.coilRecord_stable hP | apply State.engineRecord_stable hP | apply State.prsHeader_stable hP | apply st_ite (P := P) | apply st_foldl (P := P)) | split

theorem execHoldEnded_stable (hP : Stable P) (t : Fin 12) {s : State} (h_s : P s) : OfOut P (execHoldEnded t s) := by
  unfold execHoldEnded; (try dsimp only); (try simp only [mk_upd])
  repeat' first | intro _ | with_reducible (first | assumption | apply st_upd hP | apply State.refreshPl_stable hP | apply State.setCoil_stable hP | apply State.ucNext_stable hP | apply of_oite (P := P) | apply of_next (P := P) | apply of_fault (P := P) | rfl) | split

theorem State.prsLost_stable (hP : Stable P)  {s : State} (h_s : P s) : P (State.prsLost s) := by
  unfold State.prsLost; (try dsimp only)
  repeat' first | intro _ | with_reducible (first | assumption | apply State.putBit_stable hP | apply State.setCoil_stable hP | apply st_ite (P := P) | apply st_forEach (P := P)) | split

theorem State.prsThaw_stable (hP : Stable P) (n : Nat) {s : State} (h_s : P s) : P (State.prsThaw s n) := by
  unfold State.prsThaw; (try dsimp only); (try simp only [mk_upd])
  repeat' first | intro _ | with_reducible (first | assumption | apply st_upd hP | apply State.setCoil_stable hP | apply st_ite (P := P) | apply st_forEach (P := P) | rfl) | split

theorem State.prsSlot_stable (hP : Stable P)  {s : State} (h_s : P s) : P (State.prsSlot s) := by
  unfold State.prsSlot; (try dsimp only); (try simp only [mk_upd])
  repeat' first | intro _ | with_reducible (first | assumption | apply st_upd hP | apply State.setCoil_stable hP | apply State.ucDone_stable hP | apply st_ite (P := P) | apply st_forEach (P := P) | rfl) | split

theorem State.pxSample_stable (hP : Stable P)  {s : State} (h_s : P s) : P (State.pxSample s) := by
  unfold State.pxSample; (try dsimp only); (try simp only [mk_upd])
  repeat' first | intro _ | with_reducible (first | assumption | apply st_upd hP | apply State.setPx_stable hP | apply st_ite (P := P) | apply st_forEach (P := P) | rfl) | split

theorem execLedMeasurement_stable (hP : Stable P) (n : Fin 24) (amps : Int) (head : Int) {s : State} (h_s : P s) : OfOut P (execLedMeasurement n amps head s) := by
  unfold execLedMeasurement; (try dsimp only); (try simp only [mk_upd])
  repeat' first | intro _ | with_reducible (first | assumption | apply st_upd hP | apply State.advance_stable hP | apply State.ledCount_stable hP | apply State.setSink_stable hP | apply of_oite (P := P) | apply of_next (P := P) | apply of_fault (P := P) | rfl) | split

theorem execLedOvertemp_stable (hP : Stable P) (n : Fin 24) (deg : Int) {s : State} (h_s : P s) : OfOut P (execLedOvertemp n deg s) := by
  unfold execLedOvertemp; (try dsimp only); (try simp only [mk_upd])
  repeat' first | intro _ | with_reducible (first | assumption | apply st_upd hP | apply State.ledCount_stable hP | apply State.setPin_stable hP | apply State.setSink_stable hP | apply of_oite (P := P) | apply of_next (P := P) | apply of_fault (P := P) | rfl) | split

theorem State.applyLedPair_stable (hP : Stable P) (w : Word) {s : State} (h_s : P s) : P (State.applyLedPair s w) := by
  unfold State.applyLedPair; (try dsimp only)
  repeat' first | intro _ | with_reducible (first | assumption | apply hP.reg | apply State.setBit_stable hP | apply st_ite (P := P) | apply st_forEach (P := P)) | split

theorem State.applyLedClear_stable (hP : Stable P) (n : Nat) {s : State} (h_s : P s) : P (State.applyLedClear s n) := by
  unfold State.applyLedClear; (try dsimp only); (try simp only [mk_upd])
  repeat' first | intro _ | with_reducible (first | assumption | apply st_upd hP | apply State.setBit_stable hP | apply State.setSink_stable hP | apply st_ite (P := P) | apply st_foldl (P := P) | rfl) | split

theorem State.applyLed_stable (hP : Stable P) (a : Nat) (w : Word) {s : State} (h_s : P s) : OfOpt P (State.applyLed s a w) := by
  unfold State.applyLed; (try dsimp only)
  repeat' first | intro _ | with_reducible (first | assumption | apply State.applyLedClear_stable hP | apply State.applyLedPair_stable hP | apply State.applyPlain_stable hP | apply State.setBit_stable hP | apply of_none (P := P) | apply of_some (P := P) | apply st_ite (P := P)) | split

theorem State.ledNote_stable (hP : Stable P) (n : Nat) {s : State} (h_s : P s) : P (State.ledNote s n) := by
  unfold State.ledNote; (try dsimp only); (try simp only [mk_upd])
  repeat' first | intro _ | with_reducible (first | assumption | apply st_upd hP | apply State.setSink_stable hP | apply st_ite (P := P) | rfl) | split

theorem State.ledClose_stable (hP : Stable P) (n : Nat) {s : State} (h_s : P s) : P (State.ledClose s n) := by
  unfold State.ledClose; (try dsimp only)
  repeat' first | intro _ | with_reducible (first | assumption | apply State.ledCount_stable hP | apply State.putIn_stable hP | apply st_ite (P := P)) | split

theorem State.ledStep_stable (hP : Stable P) (n : Nat) {s : State} (h_s : P s) : P (State.ledStep s n) := by
  unfold State.ledStep; (try dsimp only); (try simp only [mk_upd])
  repeat' first | intro _ | with_reducible (first | assumption | apply st_upd hP | apply State.setSink_stable hP | apply st_ite (P := P) | rfl) | split

theorem State.ledEdge_stable (hP : Stable P)  {s : State} (h_s : P s) : P (State.ledEdge s) := by
  unfold State.ledEdge; (try dsimp only); (try simp only [mk_upd])
  repeat' first | intro _ | with_reducible (first | assumption | apply st_upd hP | apply State.demandOrLock_stable hP | apply State.ledStep_stable hP | apply State.setSink_stable hP | apply st_ite (P := P) | apply st_forEach (P := P) | rfl) | split

theorem State.ledRecord_stable (hP : Stable P) (n : Nat) (dp : Nat) (me : Nat) {s : State} (h_s : P s) : P (State.ledRecord s n dp me) := by
  unfold State.ledRecord; (try dsimp only)
  repeat' first | intro _ | with_reducible (first | assumption | apply State.putIn_stable hP | apply st_ite (P := P)) | split

theorem State.ledSource_stable (hP : Stable P) (n : Nat) {s : State} (h_s : P s) : P (State.ledSource s n) := by
  unfold State.ledSource; (try dsimp only); (try simp only [mk_upd])
  repeat' first | intro _ | with_reducible (first | assumption | apply st_upd hP | apply State.raiseSource_stable hP | apply State.setSink_stable hP | apply st_ite (P := P) | rfl) | split

theorem State.ledRecords_stable (hP : Stable P) (frame : Nat → Nat × Nat) {s : State} (h_s : P s) : P (State.ledRecords s frame) := by
  unfold State.ledRecords; (try dsimp only)
  repeat' first | intro _ | with_reducible (first | assumption | apply State.ledRecord_stable hP | apply State.ledSource_stable hP | apply State.putIn_stable hP | apply st_ite (P := P) | apply st_forEach (P := P)) | split

theorem State.ledClear_stable (hP : Stable P)  {s : State} (h_s : P s) : P (State.ledClear s) := by
  unfold State.ledClear; (try dsimp only); (try simp only [mk_upd])
  repeat' first | intro _ | with_reducible (first | assumption | apply st_upd hP | apply State.setSink_stable hP | apply st_ite (P := P) | apply st_forEach (P := P) | rfl) | split

theorem State.ledLost_stable (hP : Stable P)  {s : State} (h_s : P s) : P (State.ledLost s) := by
  unfold State.ledLost; (try dsimp only)
  repeat' first | intro _ | with_reducible (first | assumption | apply State.setSink_stable hP | apply st_ite (P := P) | apply st_forEach (P := P)) | split

theorem State.winStore_stable (hP : Stable P) (job : Bool) (f : State → State) {s : State} (h_s : P s) (h_f : ∀ x0, P x0 → P (f x0)) : P (State.winStore s job f) := by
  unfold State.winStore; (try dsimp only)
  repeat' first | intro _ | with_reducible (first | assumption | apply State.setBit_stable hP | apply h_f | apply st_ite (P := P)) | split

theorem State.stickyClear_stable (hP : Stable P) (m : Nat) (w : Word) {s : State} (h_s : P s) : P (State.stickyClear s m w) := by
  unfold State.stickyClear; (try dsimp only)
  repeat' first | intro _ | with_reducible (first | assumption | apply State.putSticky_stable hP | apply st_ite (P := P) | apply st_forEach (P := P)) | split

theorem State.sourceForce_stable (hP : Stable P) (m : Nat) (w : Word) {s : State} (h_s : P s) : P (State.sourceForce s m w) := by
  unfold State.sourceForce; (try dsimp only)
  repeat' first | intro _ | with_reducible (first | assumption | apply State.raiseSource_stable hP | apply State.setBit_stable hP | apply st_ite (P := P) | apply st_forEach (P := P)) | split

theorem State.swset_stable (hP : Stable P) (w : Word) {s : State} (h_s : P s) : P (State.swset s w) := by
  unfold State.swset; (try dsimp only)
  repeat' first | intro _ | with_reducible (first | assumption | apply State.raiseSource_stable hP | apply st_ite (P := P) | apply st_forEach (P := P)) | split

theorem execWarnPulseEnd_stable (hP : Stable P)  {s : State} (h_s : P s) : OfOut P (execWarnPulseEnd s) := by
  unfold execWarnPulseEnd; (try dsimp only); (try simp only [mk_upd])
  repeat' first | intro _ | with_reducible (first | assumption | apply st_upd hP | apply State.advance_stable hP | apply of_oite (P := P) | apply of_next (P := P) | apply of_fault (P := P) | rfl) | split

theorem execStickyClear_stable (hP : Stable P) (m : Fin 6) (w : Word) (job : Bool) {s : State} (h_s : P s) : OfOut P (execStickyClear m w job s) := by
  unfold execStickyClear; (try dsimp only)
  repeat' first | intro _ | with_reducible (first | assumption | apply State.load_stable hP | apply State.stickyClear_stable hP | apply State.winStore_stable hP | apply of_oite (P := P) | apply of_next (P := P) | apply of_fault (P := P) | apply st_ite (P := P)) | split

theorem execSourceForce_stable (hP : Stable P) (m : Fin 6) (w : Word) (job : Bool) {s : State} (h_s : P s) : OfOut P (execSourceForce m w job s) := by
  unfold execSourceForce; (try dsimp only)
  repeat' first | intro _ | with_reducible (first | assumption | apply State.load_stable hP | apply State.sourceForce_stable hP | apply State.winStore_stable hP | apply of_oite (P := P) | apply of_next (P := P) | apply of_fault (P := P) | apply st_ite (P := P)) | split

theorem execSwset_stable (hP : Stable P) (w : Word) {s : State} (h_s : P s) : OfOut P (execSwset w s) := by
  unfold execSwset; (try dsimp only)
  repeat' first | intro _ | with_reducible (first | assumption | apply State.store_stable hP | apply State.swset_stable hP | apply of_oite (P := P) | apply of_next (P := P) | apply of_fault (P := P) | apply st_ite (P := P)) | split

theorem execClassLock_stable (hP : Stable P) (job : Bool) {s : State} (h_s : P s) : OfOut P (execClassLock job s) := by
  unfold execClassLock; (try dsimp only)
  repeat' first | intro _ | with_reducible (first | assumption | apply State.load_stable hP | apply State.setBit_stable hP | apply State.winStore_stable hP | apply of_oite (P := P) | apply of_next (P := P) | apply of_fault (P := P) | apply st_ite (P := P)) | split

theorem State.applyClass_stable (hP : Stable P) (j : Nat) (w : Word) {s : State} (h_s : P s) : P (State.applyClass s j w) := by
  unfold State.applyClass; (try dsimp only)
  repeat' first | intro _ | with_reducible (first | assumption | apply hP.reg | apply State.classEvent_stable hP | apply State.classReact_stable hP | apply State.setBit_stable hP | apply st_ite (P := P) | apply st_foldl (P := P) | apply st_foldl2 (P := P) | apply st_forEach (P := P)) | split

theorem State.holdCommitted_stable (hP : Stable P) (before : Bool) {s : State} (h_s : P s) : P (State.holdCommitted s before) := by
  unfold State.holdCommitted; (try dsimp only); (try simp only [mk_upd])
  repeat' first | intro _ | with_reducible (first | assumption | apply st_upd hP | apply st_ite (P := P) | rfl) | split

theorem State.safeRelease_stable (hP : Stable P)  {s : State} (h_s : P s) : P (State.safeRelease s) := by
  unfold State.safeRelease; (try dsimp only); (try simp only [mk_upd])
  repeat' first | intro _ | with_reducible (first | assumption | apply st_upd hP | apply State.fresh_stable hP | apply State.setCoil_stable hP | apply st_ite (P := P) | apply st_forEach (P := P) | refine st_snd (P := P) (by assumption) ?_ | rfl) | split

theorem State.winRecord_stable (hP : Stable P)  {s : State} (h_s : P s) : P (State.winRecord s) := by
  unfold State.winRecord; (try dsimp only)
  repeat' first | intro _ | with_reducible (first | assumption | apply State.putIn_stable hP | apply st_ite (P := P) | apply st_forEach (P := P)) | split

theorem State.setCan_stable (hP : Stable P) (n : Nat) (f : Can → Can) {s : State} (h_s : P s) : P (State.setCan s n f) := by
  unfold State.setCan; (try dsimp only); (try simp only [mk_upd])
  repeat' first | intro _ | with_reducible (first | assumption | apply st_upd hP | apply st_ite (P := P) | rfl) | split

theorem State.setCanFr_stable (hP : Stable P) (n : Nat) (f : CanFrameNote → CanFrameNote) {s : State} (h_s : P s) : P (State.setCanFr s n f) := by
  unfold State.setCanFr; (try dsimp only); (try simp only [mk_upd])
  repeat' first | intro _ | with_reducible (first | assumption | apply st_upd hP | apply State.setCan_stable hP | apply st_ite (P := P) | rfl) | split

theorem State.setObj_stable (hP : Stable P) (n : Nat) (o : Nat) (f : CanObj → CanObj) {s : State} (h_s : P s) : P (State.setObj s n o f) := by
  unfold State.setObj; (try dsimp only); (try simp only [mk_upd])
  repeat' first | intro _ | with_reducible (first | assumption | apply st_upd hP | apply State.setCan_stable hP | apply st_ite (P := P) | rfl) | split

theorem State.canCause_stable (hP : Stable P) (n : Nat) (cause : Nat) {s : State} (h_s : P s) : P (State.canCause s n cause) := by
  unfold State.canCause; (try dsimp only)
  repeat' first | intro _ | with_reducible (first | assumption | apply State.raiseEvent_stable hP | apply State.setFld_stable hP | apply st_ite (P := P)) | split

theorem State.canSource_stable (hP : Stable P) (n : Nat) (en : Nat) {s : State} (h_s : P s) : P (State.canSource s n en) := by
  unfold State.canSource; (try dsimp only)
  repeat' first | intro _ | with_reducible (first | assumption | apply State.raiseSource_stable hP | apply st_ite (P := P)) | split

theorem State.takeShadow_stable (hP : Stable P) (n : Nat) (o : Nat) (lost : Bool) {s : State} (h_s : P s) : P (State.takeShadow s n o lost) := by
  unfold State.takeShadow; (try dsimp only); (try simp only [mk_upd])
  repeat' first | intro _ | with_reducible (first | assumption | apply st_upd hP | apply State.canCause_stable hP | apply State.setObj_stable hP | apply st_ite (P := P) | rfl) | split

theorem State.canLost_stable (hP : Stable P) (n : Nat) (b : Bool) {s : State} (h_s : P s) : P (State.canLost s n b) := by
  unfold State.canLost; (try dsimp only); (try simp only [mk_upd])
  repeat' first | intro _ | with_reducible (first | assumption | apply st_upd hP | apply State.setCanFr_stable hP | apply st_ite (P := P) | rfl) | split

theorem State.abandon_stable (hP : Stable P) (n : Nat) (who : Nat) {s : State} (h_s : P s) : P (State.abandon s n who) := by
  unfold State.abandon; (try dsimp only); (try simp only [mk_upd])
  repeat' first | intro _ | with_reducible (first | assumption | apply st_upd hP | apply State.canLost_stable hP | apply State.setCan_stable hP | apply State.takeShadow_stable hP | apply st_ite (P := P) | rfl) | split

theorem State.abandonAll_stable (hP : Stable P) (who : Nat) {s : State} (h_s : P s) : P (State.abandonAll s who) := by
  unfold State.abandonAll; (try dsimp only)
  repeat' first | intro _ | with_reducible (first | assumption | apply State.abandon_stable hP | apply st_ite (P := P) | apply st_forEach (P := P)) | split

theorem State.canLeaves_stable (hP : Stable P)  {s : State} (h_s : P s) : P (State.canLeaves s) := by
  unfold State.canLeaves; (try dsimp only); (try simp only [mk_upd])
  repeat' first | intro _ | with_reducible (first | assumption | apply st_upd hP | apply State.abandonAll_stable hP | apply State.setCan_stable hP | apply st_ite (P := P) | apply st_forEach (P := P) | rfl) | split

theorem State.leaveOther_stable (hP : Stable P) (n : Nat) (o : Nat) (who : Nat) {s : State} (h_s : P s) : P (State.leaveOther s n o who) := by
  unfold State.leaveOther; (try dsimp only); (try simp only [mk_upd])
  repeat' first | intro _ | with_reducible (first | assumption | apply st_upd hP | apply State.abandon_stable hP | apply st_ite (P := P) | rfl) | split

theorem State.readDone_stable (hP : Stable P) (n : Nat) (o : Nat) (who : Nat) {s : State} (h_s : P s) : P (State.readDone s n o who) := by
  unfold State.readDone; (try dsimp only); (try simp only [mk_upd])
  repeat' first | intro _ | with_reducible (first | assumption | apply st_upd hP | apply State.setCan_stable hP | apply State.setObj_stable hP | apply State.takeShadow_stable hP | apply st_ite (P := P) | rfl) | split

theorem State.portRead_stable (hP : Stable P) (who : Nat) (n : Nat) (o : Nat) {s : State} (h_s : P s) : P ((State.portRead s who n o)).2 := by
  unfold State.portRead; (try dsimp only); (try simp only [mk_upd])
  repeat' first | intro _ | with_reducible (first | assumption | apply st_upd hP | apply State.leaveOther_stable hP | apply State.readDone_stable hP | apply State.setBit_stable hP | apply State.setCan_stable hP | apply st_ite (P := P) | apply st_pite (P := P) | rfl) | split

theorem State.canCommit_stable (hP : Stable P) (n : Nat) (o : Nat) (m : CanMsg) {s : State} (h_s : P s) : P (State.canCommit s n o m) := by
  unfold State.canCommit; (try dsimp only); (try simp only [mk_upd])
  repeat' first | intro _ | with_reducible (first | assumption | apply st_upd hP | apply State.canLost_stable hP | apply State.setCan_stable hP | apply State.setObj_stable hP | apply st_ite (P := P) | rfl) | split

theorem State.portWrite_stable (hP : Stable P) (who : Nat) (n : Nat) (o : Nat) (w : Word) {s : State} (h_s : P s) : P (State.portWrite s who n o w) := by
  unfold State.portWrite; (try dsimp only); (try simp only [mk_upd])
  repeat' first | intro _ | with_reducible (first | assumption | apply st_upd hP | apply State.canCommit_stable hP | apply State.leaveOther_stable hP | apply State.setBit_stable hP | apply State.setCan_stable hP | apply st_ite (P := P) | rfl) | split

theorem State.objCfg_stable (hP : Stable P) (n : Nat) (o : Nat) (w : Word) {s : State} (h_s : P s) : P (State.objCfg s n o w) := by
  unfold State.objCfg; (try dsimp only); (try simp only [mk_upd])
  repeat' first | intro _ | with_reducible (first | assumption | apply st_upd hP | apply hP.reg | apply State.setCan_stable hP | apply st_ite (P := P) | rfl) | split

theorem State.canCount_stable (hP : Stable P) (n : Nat) (tec : Nat) (rec : Nat) {s : State} (h_s : P s) : P (State.canCount s n tec rec) := by
  unfold State.canCount; (try dsimp only); (try simp only [mk_upd])
  repeat' first | intro _ | with_reducible (first | assumption | apply st_upd hP | apply State.canCause_stable hP | apply State.canSource_stable hP | apply State.raiseSource_stable hP | apply State.setCan_stable hP | apply State.setCanFr_stable hP | apply st_ite (P := P) | rfl) | split

theorem State.setAckerr_stable (hP : Stable P) (n : Nat) (v : Nat) {s : State} (h_s : P s) : P (State.setAckerr s n v) := by
  unfold State.setAckerr; (try dsimp only); (try simp only [mk_upd])
  repeat' first | intro _ | with_reducible (first | assumption | apply st_upd hP | apply State.canCause_stable hP | apply State.canSource_stable hP | apply State.setCan_stable hP | apply st_ite (P := P) | rfl) | split

theorem State.objArrival_stable (hP : Stable P) (n : Nat) (o : Nat) (m : CanMsg) {s : State} (h_s : P s) : P (State.objArrival s n o m) := by
  unfold State.objArrival; (try dsimp only); (try simp only [mk_upd])
  repeat' first | intro _ | with_reducible (first | assumption | apply st_upd hP | apply State.canCause_stable hP | apply State.canLost_stable hP | apply State.setObj_stable hP | apply st_ite (P := P) | rfl) | split

theorem State.queueArrival_stable (hP : Stable P) (n : Nat) (m : CanMsg) {s : State} (h_s : P s) : P (State.queueArrival s n m) := by
  unfold State.queueArrival; (try dsimp only); (try simp only [mk_upd])
  repeat' first | intro _ | with_reducible (first | assumption | apply st_upd hP | apply State.canCause_stable hP | apply State.satInc_stable hP | apply State.setBit_stable hP | apply State.setCan_stable hP | apply State.setCanFr_stable hP | apply st_ite (P := P) | rfl) | split

theorem State.canAccept_stable (hP : Stable P) (n : Nat) (m : CanMsg) {s : State} (h_s : P s) : P (State.canAccept s n m) := by
  unfold State.canAccept; (try dsimp only); (try simp only [mk_upd])
  repeat' first | intro _ | with_reducible (first | assumption | apply st_upd hP | apply State.objArrival_stable hP | apply State.queueArrival_stable hP | apply State.setCanFr_stable hP | apply st_ite (P := P) | rfl) | split

end Sys2Proof.Machine
end

