-- ==== Sys2Proof/Laws/StableOps2.lean ====
section
/-!
SUPPORT. Every operation keeps a stable property: CoreOps, Course, NetSleep, Can, Lin, Net, TimeOps, Time, Baler, AccOps, Acc, SilOps.
-/

set_option linter.all false
set_option maxHeartbeats 400000

namespace Sys2Proof.Machine

variable {P : State → Prop}

theorem State.setW_stable (hP : Stable P) (c : Fin 2) (r : Nat) (v : TWord) {s : State} (h_s : P s) : P (State.setW s c r v) := by
  unfold State.setW; (try dsimp only); (try simp only [mk_upd])
  repeat' first | intro _ | with_reducible (first | assumption | apply st_upd hP | apply State.setCore_stable hP | apply st_ite (P := P) | rfl) | split

theorem State.echoSync_stable (hP : Stable P) (c : Fin 2) {s : State} (h_s : P s) : P (State.echoSync s c) := by
  unfold State.echoSync; (try dsimp only); (try simp only [mk_upd])
  repeat' first | intro _ | with_reducible (first | assumption | apply st_upd hP | apply State.setCore_stable hP | apply st_ite (P := P) | rfl) | split

theorem State.echoView_stable (hP : Stable P) (c : Fin 2) {s : State} (h_s : P s) : P (State.echoView s c) := by
  unfold State.echoView; (try dsimp only); (try simp only [mk_upd])
  repeat' first | intro _ | with_reducible (first | assumption | apply st_upd hP | apply State.setCore_stable hP | apply st_ite (P := P) | rfl) | split

theorem State.setFlg_stable (hP : Stable P) (c : Fin 2) (f : BitVec 5) {s : State} (h_s : P s) : P (State.setFlg s c f) := by
  unfold State.setFlg; (try dsimp only); (try simp only [mk_upd])
  repeat' first | intro _ | with_reducible (first | assumption | apply st_upd hP | apply State.setCore_stable hP | apply st_ite (P := P) | rfl) | split

theorem State.fetchCheck_stable (hP : Stable P) (c : Fin 2) (a : Nat) {s : State} (h_s : P s) : P ((State.fetchCheck s c a)).2 := by
  unfold State.fetchCheck; (try dsimp only)
  repeat' first | intro _ | with_reducible (first | assumption | apply State.laneTurn_stable hP | apply State.raiseSource_stable hP | apply State.readWord_stable hP | apply st_ite (P := P) | apply st_pite (P := P) | refine st_snd2 (P := P) (by assumption) ?_) | split

theorem State.settledStream_stable (hP : Stable P) (c : Fin 2) {s : State} (h_s : P s) : P (State.settledStream s c) := by
  unfold State.settledStream; (try dsimp only)
  repeat' first | intro _ | with_reducible (first | assumption | apply State.resolved_stable hP | apply st_ite (P := P) | apply st_foldl (P := P) | refine st_snd (P := P) (by assumption) ?_) | split

theorem State.fetchChecks_stable (hP : Stable P) (c : Fin 2) (y0 : List Nat) {s : State} (h_s : P s) : P ((State.fetchChecks s c y0)).2 := by
  induction y0 generalizing s with
  | nil => exact h_s
  | cons a l ih =>
    unfold State.fetchChecks
    have h := State.fetchCheck_stable hP c a h_s
    dsimp only
    split
    · exact ih h
    · exact h

theorem State.stampCore_stable (hP : Stable P) (c : Fin 2) {s : State} (h_s : P s) : P (State.stampCore s c) := by
  unfold State.stampCore; (try dsimp only); (try simp only [mk_upd])
  repeat' first | intro _ | with_reducible (first | assumption | apply st_upd hP | apply State.setCore_stable hP | apply st_ite (P := P) | rfl) | split

theorem State.doubleTrap_stable (hP : Stable P) (c : Fin 2) {s : State} (h_s : P s) : P (State.doubleTrap s c) := by
  unfold State.doubleTrap; (try dsimp only); (try simp only [mk_upd])
  repeat' first | intro _ | with_reducible (first | assumption | apply st_upd hP | apply State.abandonAll_stable hP | apply State.raiseSource_stable hP | apply State.setCore_stable hP | apply st_ite (P := P) | rfl) | split

theorem State.vectorFetch_stable (hP : Stable P) (c : Fin 2) (a : Nat) {s : State} (h_s : P s) : P ((State.vectorFetch s c a)).2 := by
  unfold State.vectorFetch; (try dsimp only)
  repeat' first | intro _ | with_reducible (first | assumption | apply State.fetchCheck_stable hP | apply State.strayAccess_stable hP | apply State.wakeFailed_stable hP | apply st_ite (P := P) | apply st_pite (P := P) | refine st_snd (P := P) (by assumption) ?_) | split

theorem State.trapEnter_stable (hP : Stable P) (c : Fin 2) (cause : Nat) (tval : Word) (pc : Word) {s : State} (h_s : P s) : P (State.trapEnter s c cause tval pc) := by
  unfold State.trapEnter; (try dsimp only); (try simp only [mk_upd])
  repeat' first | intro _ | with_reducible (first | assumption | apply st_upd hP | apply State.doubleTrap_stable hP | apply State.raiseSource_stable hP | apply State.setCore_stable hP | apply State.stall_stable hP | apply State.vectorFetch_stable hP | apply st_ite (P := P) | refine st_snd (P := P) (by assumption) ?_ | rfl) | split

theorem State.setJob_stable (hP : Stable P) (j : Nat) (r : JobRun) {s : State} (h_s : P s) : P (State.setJob s j r) := by
  unfold State.setJob; (try dsimp only); (try simp only [mk_upd])
  repeat' first | intro _ | with_reducible (first | assumption | apply st_upd hP | apply st_ite (P := P) | rfl) | split

theorem State.startTask_stable (hP : Stable P) (c : Fin 2) (t : Nat × Bool × Nat) {s : State} (h_s : P s) : P (State.startTask s c t) := by
  unfold State.startTask; (try dsimp only); (try simp only [mk_upd])
  repeat' first | intro _ | with_reducible (first | assumption | apply st_upd hP | apply State.setCore_stable hP | apply State.setJob_stable hP | apply State.stall_stable hP | apply st_ite (P := P) | rfl) | split

theorem State.dispatch_stable (hP : Stable P) (c : Fin 2) (job : Bool) {s : State} (h_s : P s) : P (State.dispatch s c job) := by
  unfold State.dispatch; (try dsimp only); (try simp only [mk_upd])
  repeat' first | intro _ | with_reducible (first | assumption | apply st_upd hP | apply State.setCore_stable hP | apply State.startTask_stable hP | apply st_ite (P := P) | rfl) | split

theorem State.taskEnd_stable (hP : Stable P) (c : Fin 2) {s : State} (h_s : P s) : P (State.taskEnd s c) := by
  unfold State.taskEnd; (try dsimp only); (try simp only [mk_upd])
  repeat' first | intro _ | with_reducible (first | assumption | apply st_upd hP | apply State.setCore_stable hP | apply State.stall_stable hP | apply State.startTask_stable hP | apply st_ite (P := P) | rfl) | split

theorem State.debugHalt_stable (hP : Stable P) (c : Fin 2) (why : Nat) (which : Nat) {s : State} (h_s : P s) : P (State.debugHalt s c why which) := by
  unfold State.debugHalt; (try dsimp only); (try simp only [mk_upd])
  repeat' first | intro _ | with_reducible (first | assumption | apply st_upd hP | apply State.setBit_stable hP | apply State.setCore_stable hP | apply State.setFld_stable hP | apply st_ite (P := P) | rfl) | split

theorem State.stallFor_stable (hP : Stable P) (c : Fin 2) (d : Nat) (drain : Bool) {s : State} (h_s : P s) : P (State.stallFor s c d drain) := by
  unfold State.stallFor; (try dsimp only); (try simp only [mk_upd])
  repeat' first | intro _ | with_reducible (first | assumption | apply st_upd hP | apply State.demand_stable hP | apply State.setCore_stable hP | apply State.stall_stable hP | apply st_ite (P := P) | rfl) | split

theorem State.stallOn_stable (hP : Stable P) (c : Fin 2) (d : Nat) {s : State} (h_s : P s) : P (State.stallOn s c d) := by
  unfold State.stallOn; (try dsimp only)
  repeat' first | intro _ | with_reducible (first | assumption | apply State.stallFor_stable hP | apply st_ite (P := P)) | split

theorem Eff_ok_stable (hP : Stable P)  {s : State} (h_s : P s) : OfEff P (Eff.ok s) := by
  unfold Eff.ok; (try dsimp only)
  repeat' first | intro _ | with_reducible (first | assumption | apply of_eite (P := P) | apply of_done (P := P) | apply of_trap (P := P) | apply of_wait (P := P) | apply of_unchecked (P := P) | apply st_ite (P := P)) | split

theorem State.slipWrites_stable (hP : Stable P) (c : Fin 2) (i : NIns) (l : List Slip) (e : Eff) {s : State} (h_s : P s) (h_e : OfEff P e) : OfEff P (State.slipWrites s c i l e) := by
  unfold State.slipWrites
  split
  · exact of_done (st_foldl (fun t q h => st_ite h (State.setW_stable hP _ _ _ h)) h_e.get)
  · exact h_e

theorem State.echoMiss_stable (hP : Stable P) (c : Fin 2) (par : Bool) {s : State} (h_s : P s) : P (State.echoMiss s c par) := by
  unfold State.echoMiss; (try dsimp only); (try simp only [mk_upd])
  repeat' first | intro _ | with_reducible (first | assumption | apply st_upd hP | apply State.raiseSource_stable hP | apply State.satInc_stable hP | apply State.setCore_stable hP | apply State.setFld_stable hP | apply st_ite (P := P) | rfl) | split

theorem State.mismatched_stable (hP : Stable P) (c : Fin 2) (par : Bool) {s : State} (h_s : P s) : P (State.mismatched s c par) := by
  unfold State.mismatched; (try dsimp only); (try simp only [mk_upd])
  repeat' first | intro _ | with_reducible (first | assumption | apply st_upd hP | apply State.abandonAll_stable hP | apply State.echoMiss_stable hP | apply State.raiseSource_stable hP | apply State.setCore_stable hP | apply st_ite (P := P) | rfl) | split

theorem State.counted_stable (hP : Stable P) (c : Fin 2) (echoed : Bool) {s : State} (h_s : P s) : P (State.counted s c echoed) := by
  unfold State.counted; (try dsimp only); (try simp only [mk_upd])
  repeat' first | intro _ | with_reducible (first | assumption | apply st_upd hP | apply State.setCore_stable hP | apply State.stall_stable hP | apply st_ite (P := P) | rfl) | split

theorem State.retired_stable (hP : Stable P) (c : Fin 2) (echoed : Bool) (acc : List (Nat × Option TWord)) {s : State} (h_s : P s) : P (State.retired s c echoed acc) := by
  unfold State.retired; (try dsimp only); (try simp only [mk_upd])
  repeat' first | intro _ | with_reducible (first | assumption | apply st_upd hP | apply State.counted_stable hP | apply State.debugHalt_stable hP | apply State.trapEnter_stable hP | apply st_ite (P := P) | rfl) | split

theorem State.settle_stable (hP : Stable P) (c : Fin 2) (i : NIns) (echoed : Bool) (e : Eff) {s : State} (h_s : P s) (h_e : OfEff P e) : OfOut P (State.settle s c i echoed e) := by
  unfold State.settle
  dsimp only
  split
  · exact of_next h_e.get
  · exact of_fault
  · exact of_next (State.trapEnter_stable hP _ _ _ _ h_e.get)
  · exact of_next (st_ite (State.counted_stable hP _ _ h_e.get)
      (State.retired_stable hP _ _ _ (st_ite (State.setCore_stable hP _ _ h_e.get) (State.setCore_stable hP _ _ h_e.get))))

theorem parityState_stable (hP : Stable P) (p : Phys) {s : State} (h_s : P s) : P (parityState p s) := by
  unfold parityState
  split
  · exact h_s
  · exact State.raiseSource_stable hP _ h_s
  · exact State.fresh_stable hP (State.raiseSource_stable hP _ (State.raiseSource_stable hP _ h_s))

theorem parityEff_stable (hP : Stable P) (p : Phys) (v : Word) (f : State → Eff) {s : State} (h_f : ∀ x0, P x0 → OfEff P (f x0)) (h_s : P s) : OfEff P (parityEff p v f s) := by
  have h := h_f s h_s
  unfold parityEff
  split
  · split
    · rename_i e
      rw [e] at h
      split
      · exact of_trap h_s
      · exact h
    · exact of_trap h_s
  · exact h

theorem State.course_stable (hP : Stable P) (c : Fin 2) (p : Phys) (i : NIns) (f : State → Eff) {s : State} (h_s : P s) (h_f : ∀ x0, P x0 → OfEff P (f x0)) : OfOut P (State.course s c p i f) := by
  unfold State.course
  extract_lets pc echoed s1 g e differs
  have h1 : P s1 := parityState_stable hP p h_s
  have he : OfEff P e := parityEff_stable hP p _ f h_f h1
  refine of_oite (of_next (State.retired_stable hP _ _ _ (State.setCore_stable hP _ _ h_s))) ?_
  refine of_oite (of_next (State.mismatched_stable hP _ _ h1)) ?_
  exact State.settle_stable hP _ _ _ _ h1 (of_eite he (State.slipWrites_stable hP _ _ _ _ h1 he))

theorem State.issueAt_stable (hP : Stable P) (c : Fin 2) (n : Nat) (run : State → Out) {s : State} (h_s : P s) (h_run : ∀ x0, P x0 → OfOut P (run x0)) : OfOut P (State.issueAt s c n run) := by
  unfold State.issueAt; (try dsimp only); (try simp only [mk_upd])
  repeat' first | intro _ | with_reducible (first | assumption | apply st_upd hP | apply State.debugHalt_stable hP | apply State.fetchChecks_stable hP | apply State.lockAccess_stable hP | apply State.stallOn_stable hP | apply State.stampCore_stable hP | apply State.trapEnter_stable hP | apply h_run | apply of_oite (P := P) | apply of_next (P := P) | apply of_fault (P := P) | refine st_snd (P := P) (by assumption) ?_ | rfl) | split

theorem State.fetchTrap_stable (hP : Stable P) (c : Fin 2) (n : Nat) {s : State} (h_s : P s) (q : Nat × Word × State) (e : State.fetchTrap s c n = some q) :
    P q.2.2 := by
  revert e
  unfold State.fetchTrap
  have h := State.fetchChecks_stable hP c (s.fetchWords c n) h_s
  dsimp only
  split
  · intro e; cases e; exact st_ite (State.strayAccess_stable hP _ _ _ _ h_s) h_s
  · split
    · split
      · intro e; cases e; exact h_s
      · exact nofun
    · split
      · rename_i e1
        intro e; cases e; rw [e1] at h; exact h
      · exact nofun

theorem State.issueHere_stable (hP : Stable P) (c : Fin 2) (p : Phys) (ill : Nat → Option (State → Eff)) (ins : NIns → Option (State → Eff)) {s0 : State} (h_s : P s0)
    (h_ill : ∀ n f, ill n = some f → ∀ t, P t → OfEff P (f t)) (h_ins : ∀ i f, ins i = some f → ∀ t, P t → OfEff P (f t)) :
    OfOut P (State.issueHere s0 c p ill ins) := by
  unfold State.issueHere
  refine of_oite (of_next h_s) ?_
  extract_lets s d
  have h1 : P s := State.settledStream_stable hP c h_s
  clear_value d
  split
  · rename_i q e
    exact State.course_stable hP _ _ _ _ (State.fetchTrap_stable hP c _ h1 q e) (fun _ h => of_trap h)
  · split
    · split
      · rename_i e
        exact State.issueAt_stable hP _ _ _ h1 (fun t h => State.course_stable hP _ _ _ _ h (h_ill _ _ e))
      · exact of_next h_s
    · split
      · rename_i e
        exact State.issueAt_stable hP _ _ _ h1 (fun t h => State.course_stable hP _ _ _ _ h (h_ins _ _ e))
      · exact of_next h_s

theorem State.instr_stable (hP : Stable P) (c : Fin 2) (p : Phys) (is : NIns → Bool) (f : NIns → State → Eff) {s : State} (h_s : P s) (h_f : ∀ x0 x1, P x1 → OfEff P (f x0 x1)) : OfOut P (State.instr s c p is f) := by
  unfold State.instr
  refine State.issueHere_stable hP _ _ _ _ h_s (fun _ _ e => by cases e) (fun i g e => ?_)
  split at e
  · cases e; exact fun t h => h_f i t h
  · cases e

theorem State.setNm_stable (hP : Stable P) (f : Nm → Nm) {s : State} (h_s : P s) : P (State.setNm s f) := by
  unfold State.setNm; (try dsimp only); (try simp only [mk_upd])
  repeat' first | intro _ | with_reducible (first | assumption | apply st_upd hP | apply st_ite (P := P) | rfl) | split

theorem State.setNode_stable (hP : Stable P) (i : Nat) (f : NmNode → NmNode) {s : State} (h_s : P s) : P (State.setNode s i f) := by
  unfold State.setNode; (try dsimp only); (try simp only [mk_upd])
  repeat' first | intro _ | with_reducible (first | assumption | apply st_upd hP | apply State.setNm_stable hP | apply st_ite (P := P) | rfl) | split

theorem State.nmDrop_stable (hP : Stable P)  {s : State} (h_s : P s) : P (State.nmDrop s) := by
  unfold State.nmDrop; (try dsimp only); (try simp only [mk_upd])
  repeat' first | intro _ | with_reducible (first | assumption | apply st_upd hP | apply State.setCan_stable hP | apply st_ite (P := P) | apply st_forEach (P := P) | rfl) | split

theorem State.nmClear_stable (hP : Stable P)  {s : State} (h_s : P s) : P (State.nmClear s) := by
  unfold State.nmClear; (try dsimp only); (try simp only [mk_upd])
  repeat' first | intro _ | with_reducible (first | assumption | apply st_upd hP | apply State.setNm_stable hP | apply st_ite (P := P) | rfl) | split

theorem execNclr_stable (hP : Stable P)  {s : State} (h_s : P s) : OfOut P (execNclr s) := by
  unfold execNclr; (try dsimp only)
  repeat' first | intro _ | with_reducible (first | assumption | apply State.nmClear_stable hP | apply State.store_stable hP | apply of_oite (P := P) | apply of_next (P := P) | apply of_fault (P := P) | apply st_ite (P := P)) | split

theorem State.offerNm_stable (hP : Stable P) (m : CanMsg) {s : State} (h_s : P s) : P (State.offerNm s m) := by
  unfold State.offerNm; (try dsimp only); (try simp only [mk_upd])
  repeat' first | intro _ | with_reducible (first | assumption | apply st_upd hP | apply State.setCan_stable hP | apply st_ite (P := P) | rfl) | split

theorem execNmFrameSend_stable (hP : Stable P)  {s : State} (h_s : P s) : OfOut P (execNmFrameSend s) := by
  unfold execNmFrameSend; (try dsimp only); (try simp only [mk_upd])
  repeat' first | intro _ | with_reducible (first | assumption | apply st_upd hP | apply State.advance_stable hP | apply State.offerNm_stable hP | apply State.setNm_stable hP | apply of_oite (P := P) | apply of_next (P := P) | apply of_fault (P := P) | rfl) | split

theorem State.nmReceive_stable (hP : Stable P) (m : CanMsg) (own : Bool) {s : State} (h_s : P s) : P (State.nmReceive s m own) := by
  unfold State.nmReceive; (try dsimp only); (try simp only [mk_upd])
  repeat' first | intro _ | with_reducible (first | assumption | apply st_upd hP | apply State.setBit_stable hP | apply State.setNm_stable hP | apply st_ite (P := P) | rfl) | split

theorem State.nmHear_stable (hP : Stable P) (n : Nat) (m : CanMsg) (own : Bool) {s : State} (h_s : P s) : P (State.nmHear s n m own) := by
  unfold State.nmHear; (try dsimp only)
  repeat' first | intro _ | with_reducible (first | assumption | apply State.nmReceive_stable hP | apply st_ite (P := P)) | split

theorem State.nmTake_stable (hP : Stable P)  {s : State} (h_s : P s) : P (State.nmTake s) := by
  unfold State.nmTake; (try dsimp only); (try simp only [mk_upd])
  repeat' first | intro _ | with_reducible (first | assumption | apply st_upd hP | apply State.setBit_stable hP | apply State.setNm_stable hP | apply State.setNode_stable hP | apply st_ite (P := P) | apply st_foldl (P := P) | rfl) | split

theorem State.nmGo_stable (hP : Stable P) (st : Nat) {s : State} (h_s : P s) : P (State.nmGo s st) := by
  unfold State.nmGo; (try dsimp only); (try simp only [mk_upd])
  repeat' first | intro _ | with_reducible (first | assumption | apply st_upd hP | apply State.setNm_stable hP | apply st_ite (P := P) | rfl) | split

theorem State.nmRest_stable (hP : Stable P)  {s : State} (h_s : P s) : P (State.nmRest s) := by
  unfold State.nmRest; (try dsimp only); (try simp only [mk_upd])
  repeat' first | intro _ | with_reducible (first | assumption | apply st_upd hP | apply State.nmDrop_stable hP | apply State.nmGo_stable hP | apply State.setNm_stable hP | apply st_ite (P := P) | rfl) | split

theorem State.nmSleep_stable (hP : Stable P)  {s : State} (h_s : P s) : P (State.nmSleep s) := by
  unfold State.nmSleep; (try dsimp only); (try simp only [mk_upd])
  repeat' first | intro _ | with_reducible (first | assumption | apply st_upd hP | apply State.nmRest_stable hP | apply State.setNm_stable hP | apply st_ite (P := P) | rfl) | split

theorem State.nmRepeat_stable (hP : Stable P) (reason : Nat) {s : State} (h_s : P s) : P (State.nmRepeat s reason) := by
  unfold State.nmRepeat; (try dsimp only); (try simp only [mk_upd])
  repeat' first | intro _ | with_reducible (first | assumption | apply st_upd hP | apply State.nmGo_stable hP | apply State.setNm_stable hP | apply st_ite (P := P) | rfl) | split

theorem State.nmStep_stable (hP : Stable P) (lr : Bool) (net : Bool) (park : Bool) (reason : Nat) {s : State} (h_s : P s) : P (State.nmStep s lr net park reason) := by
  unfold State.nmStep; (try dsimp only); (try simp only [mk_upd])
  repeat' first | intro _ | with_reducible (first | assumption | apply st_upd hP | apply State.nmDrop_stable hP | apply State.nmGo_stable hP | apply State.nmRepeat_stable hP | apply State.nmRest_stable hP | apply State.nmSleep_stable hP | apply State.setBit_stable hP | apply State.setNm_stable hP | apply State.setNode_stable hP | apply st_ite (P := P) | apply st_foldl (P := P) | rfl) | split

theorem State.nmEdge_stable (hP : Stable P) (park : Bool) {s : State} (h_s : P s) : P (State.nmEdge s park) := by
  unfold State.nmEdge; (try dsimp only); (try simp only [mk_upd])
  repeat' first | intro _ | with_reducible (first | assumption | apply st_upd hP | apply State.demandOrLock_stable hP | apply State.nmStep_stable hP | apply State.nmTake_stable hP | apply State.setNm_stable hP | apply State.setNode_stable hP | apply st_ite (P := P) | apply st_forEach (P := P) | rfl) | split

theorem State.nmRecords_stable (hP : Stable P)  {s : State} (h_s : P s) : P (State.nmRecords s) := by
  unfold State.nmRecords; (try dsimp only)
  repeat' first | intro _ | with_reducible (first | assumption | apply State.putIn_stable hP | apply st_ite (P := P)) | split

theorem State.nmFrameClear_stable (hP : Stable P)  {s : State} (h_s : P s) : P (State.nmFrameClear s) := by
  unfold State.nmFrameClear; (try dsimp only); (try simp only [mk_upd])
  repeat' first | intro _ | with_reducible (first | assumption | apply st_upd hP | apply State.setNm_stable hP | apply st_ite (P := P) | rfl) | split

theorem State.nmStart_stable (hP : Stable P)  {s : State} (h_s : P s) : P (State.nmStart s) := by
  unfold State.nmStart; (try dsimp only); (try simp only [mk_upd])
  repeat' first | intro _ | with_reducible (first | assumption | apply st_upd hP | apply State.nmDrop_stable hP | apply State.setFld_stable hP | apply State.setNm_stable hP | apply st_ite (P := P) | rfl) | split

theorem State.canClamp_stable (hP : Stable P) (n : Nat) {s : State} (h_s : P s) : P (State.canClamp s n) := by
  unfold State.canClamp; (try dsimp only)
  repeat' first | intro _ | with_reducible (first | assumption | apply State.setFld_stable hP | apply st_ite (P := P)) | split

theorem State.canTakeWake_stable (hP : Stable P) (n : Nat) {s : State} (h_s : P s) : P (State.canTakeWake s n) := by
  unfold State.canTakeWake; (try dsimp only); (try simp only [mk_upd])
  repeat' first | intro _ | with_reducible (first | assumption | apply st_upd hP | apply State.setCan_stable hP | apply st_ite (P := P) | rfl) | split

theorem State.canRun_stable (hP : Stable P) (n : Nat) (run : Bool) {s : State} (h_s : P s) : P (State.canRun s n run) := by
  unfold State.canRun; (try dsimp only); (try simp only [mk_upd])
  repeat' first | intro _ | with_reducible (first | assumption | apply st_upd hP | apply State.canClamp_stable hP | apply State.canCount_stable hP | apply State.canTakeWake_stable hP | apply State.putBit_stable hP | apply State.setCan_stable hP | apply st_ite (P := P) | rfl) | split

theorem State.canFrameEnd_stable (hP : Stable P) (n : Nat) {s : State} (h_s : P s) : P (State.canFrameEnd s n) := by
  unfold State.canFrameEnd; (try dsimp only); (try simp only [mk_upd])
  repeat' first | intro _ | with_reducible (first | assumption | apply st_upd hP | apply State.setCan_stable hP | apply State.setPin_stable hP | apply st_ite (P := P) | rfl) | split

theorem execCanRunStart_stable (hP : Stable P) (n : Fin 6) {s : State} (h_s : P s) : OfOut P (execCanRunStart n s) := by
  unfold execCanRunStart; (try dsimp only)
  repeat' first | intro _ | with_reducible (first | assumption | apply State.canRun_stable hP | apply State.store_stable hP | apply of_oite (P := P) | apply of_next (P := P) | apply of_fault (P := P) | apply st_ite (P := P)) | split

theorem execCanRunStop_stable (hP : Stable P) (n : Fin 6) (busy : Bool) {s : State} (h_s : P s) : OfOut P (execCanRunStop n busy s) := by
  unfold execCanRunStop; (try dsimp only)
  repeat' first | intro _ | with_reducible (first | assumption | apply State.canRun_stable hP | apply State.setPin_stable hP | apply State.store_stable hP | apply of_oite (P := P) | apply of_next (P := P) | apply of_fault (P := P) | apply st_ite (P := P)) | split

theorem execCanIntegrated_stable (hP : Stable P) (n : Fin 6) {s : State} (h_s : P s) : OfOut P (execCanIntegrated n s) := by
  unfold execCanIntegrated; (try dsimp only); (try simp only [mk_upd])
  repeat' first | intro _ | with_reducible (first | assumption | apply st_upd hP | apply State.setCan_stable hP | apply of_oite (P := P) | apply of_next (P := P) | apply of_fault (P := P) | rfl) | split

theorem execObjcfgWrite_stable (hP : Stable P) (n : Fin 6) (o : Fin 256) (w : Word) {s : State} (h_s : P s) : OfOut P (execObjcfgWrite n o w s) := by
  unfold execObjcfgWrite; (try dsimp only)
  repeat' first | intro _ | with_reducible (first | assumption | apply State.objCfg_stable hP | apply State.store_stable hP | apply of_oite (P := P) | apply of_next (P := P) | apply of_fault (P := P) | apply st_ite (P := P)) | split

theorem State.deliver_stable (hP : Stable P) (m : Master) (v : TWord) {s : State} (h_s : P s) : P (State.deliver s m v) := by
  unfold State.deliver; (try dsimp only); (try simp only [mk_upd])
  repeat' first | intro _ | with_reducible (first | assumption | apply st_upd hP | apply st_ite (P := P) | rfl) | split

theorem State.atDomain_stable (hP : Stable P) (d : Nat) (f : State → TWord × State) {s : State} (h_s : P s) (h_f : ∀ x0, P x0 → P ((f x0)).2) : P ((State.atDomain s d f)).2 := by
  unfold State.atDomain; (try dsimp only)
  repeat' first | intro _ | with_reducible (first | assumption | apply State.demand_stable hP | apply State.lockAccess_stable hP | apply h_f | apply st_ite (P := P) | apply st_pite (P := P)) | split

theorem atDomain_some_stable (hP : Stable P) (d : Nat) (f : State → TWord × State) (hf : ∀ t, P t → P (f t).2) {s : State} (h : P s) :
    ∀ v, (s.atDomain d f).1 = some v → P v.2 := by
  intro v
  unfold State.atDomain
  split
  · intro e; cases e; exact State.lockAccess_stable hP h
  · split
    · intro e; cases e; exact hf _ h
    · exact nofun

theorem State.answer_stable (hP : Stable P) (m : Master) (r : Option (TWord × State) × State) (h_r : P (r).2 ∧ (∀ v, (r).1 = some v → P v.2)) : P (State.answer m r) := by
  unfold State.answer
  split
  · exact State.deliver_stable hP _ _ (h_r.2 _ (by assumption))
  · exact h_r.1

theorem State.queueAck_stable (hP : Stable P) (n : Nat) {s : State} (h_s : P s) : P (State.queueAck s n) := by
  unfold State.queueAck; (try dsimp only); (try simp only [mk_upd])
  repeat' first | intro _ | with_reducible (first | assumption | apply st_upd hP | apply State.setCan_stable hP | apply st_ite (P := P) | rfl) | split

theorem execQack_stable (hP : Stable P) (n : Fin 6) {s : State} (h_s : P s) : OfOut P (execQack n s) := by
  unfold execQack; (try dsimp only)
  repeat' first | intro _ | with_reducible (first | assumption | apply State.queueAck_stable hP | apply State.store_stable hP | apply of_oite (P := P) | apply of_next (P := P) | apply of_fault (P := P) | apply st_ite (P := P)) | split

theorem execCanTxStart_stable (hP : Stable P) (n : Fin 6) {s : State} (h_s : P s) : OfOut P (execCanTxStart n s) := by
  unfold execCanTxStart; (try dsimp only); (try simp only [mk_upd])
  repeat' first | intro _ | with_reducible (first | assumption | apply st_upd hP | apply State.setCan_stable hP | apply of_oite (P := P) | apply of_next (P := P) | apply of_fault (P := P) | rfl) | split

theorem State.txDone_stable (hP : Stable P) (n : Nat) (src : TxSrc) {s : State} (h_s : P s) : P (State.txDone s n src) := by
  unfold State.txDone; (try dsimp only); (try simp only [mk_upd])
  repeat' first | intro _ | with_reducible (first | assumption | apply st_upd hP | apply State.canCause_stable hP | apply State.setCan_stable hP | apply State.setNm_stable hP | apply State.setObj_stable hP | apply st_ite (P := P) | rfl) | split

theorem State.canReceive_stable (hP : Stable P) (n : Nat) (m : CanMsg) {s : State} (h_s : P s) : P (State.canReceive s n m) := by
  unfold State.canReceive; (try dsimp only); (try simp only [mk_upd])
  repeat' first | intro _ | with_reducible (first | assumption | apply st_upd hP | apply State.canAccept_stable hP | apply State.setCanFr_stable hP | apply st_ite (P := P) | rfl) | split

theorem execCanTxSuccess_stable (hP : Stable P) (n : Fin 6) {s : State} (h_s : P s) : OfOut P (execCanTxSuccess n s) := by
  unfold execCanTxSuccess; (try dsimp only); (try simp only [mk_upd])
  repeat' first | intro _ | with_reducible (first | assumption | apply st_upd hP | apply State.canCount_stable hP | apply State.canFrameEnd_stable hP | apply State.canReceive_stable hP | apply State.nmHear_stable hP | apply State.setAckerr_stable hP | apply State.setCan_stable hP | apply State.setCanFr_stable hP | apply State.txDone_stable hP | apply of_oite (P := P) | apply of_next (P := P) | apply of_fault (P := P) | rfl) | split

theorem execCanTxError_stable (hP : Stable P) (n : Fin 6) (e : CanErr) (more : Nat) {s : State} (h_s : P s) : OfOut P (execCanTxError n e more s) := by
  unfold execCanTxError; (try dsimp only); (try simp only [mk_upd])
  repeat' first | intro _ | with_reducible (first | assumption | apply st_upd hP | apply State.canCount_stable hP | apply State.canFrameEnd_stable hP | apply State.setAckerr_stable hP | apply State.setCan_stable hP | apply of_oite (P := P) | apply of_next (P := P) | apply of_fault (P := P) | rfl) | split

theorem State.canRecover_stable (hP : Stable P) (n : Nat) {s : State} (h_s : P s) : P (State.canRecover s n) := by
  unfold State.canRecover; (try dsimp only); (try simp only [mk_upd])
  repeat' first | intro _ | with_reducible (first | assumption | apply st_upd hP | apply State.setCan_stable hP | apply st_ite (P := P) | rfl) | split

theorem execRecover_stable (hP : Stable P) (n : Fin 6) {s : State} (h_s : P s) : OfOut P (execRecover n s) := by
  unfold execRecover; (try dsimp only)
  repeat' first | intro _ | with_reducible (first | assumption | apply State.canRecover_stable hP | apply State.store_stable hP | apply of_oite (P := P) | apply of_next (P := P) | apply of_fault (P := P) | apply st_ite (P := P)) | split

theorem execBusOffRecovery_stable (hP : Stable P) (n : Fin 6) {s : State} (h_s : P s) : OfOut P (execBusOffRecovery n s) := by
  unfold execBusOffRecovery; (try dsimp only); (try simp only [mk_upd])
  repeat' first | intro _ | with_reducible (first | assumption | apply st_upd hP | apply State.canCount_stable hP | apply State.setCan_stable hP | apply of_oite (P := P) | apply of_next (P := P) | apply of_fault (P := P) | rfl) | split

theorem State.canRxError_stable (hP : Stable P) (n : Nat) (heavy : Nat) {s : State} (h_s : P s) : P (State.canRxError s n heavy) := by
  unfold State.canRxError; (try dsimp only)
  repeat' first | intro _ | with_reducible (first | assumption | apply State.canCount_stable hP | apply st_ite (P := P)) | split

theorem execCanFrameReceived_stable (hP : Stable P) (n : Fin 6) (m : CanMsg) (res : Bool) {s : State} (h_s : P s) : OfOut P (execCanFrameReceived n m res s) := by
  unfold execCanFrameReceived; (try dsimp only); (try simp only [mk_upd])
  repeat' first | intro _ | with_reducible (first | assumption | apply st_upd hP | apply State.canCount_stable hP | apply State.canFrameEnd_stable hP | apply State.canReceive_stable hP | apply State.canRxError_stable hP | apply State.nmHear_stable hP | apply State.setAckerr_stable hP | apply State.setBit_stable hP | apply State.setCan_stable hP | apply of_oite (P := P) | apply of_next (P := P) | apply of_fault (P := P) | rfl) | split

theorem execCanBusError_stable (hP : Stable P) (n : Fin 6) (heavy : Nat) {s : State} (h_s : P s) : OfOut P (execCanBusError n heavy s) := by
  unfold execCanBusError; (try dsimp only)
  repeat' first | intro _ | with_reducible (first | assumption | apply State.canFrameEnd_stable hP | apply State.canRxError_stable hP | apply of_oite (P := P) | apply of_next (P := P) | apply of_fault (P := P)) | split

theorem State.canSwapEdge_stable (hP : Stable P) (n : Nat) {s : State} (h_s : P s) : P (State.canSwapEdge s n) := by
  unfold State.canSwapEdge; (try dsimp only); (try simp only [mk_upd])
  repeat' first | intro _ | with_reducible (first | assumption | apply st_upd hP | apply State.canCause_stable hP | apply State.canSource_stable hP | apply State.setCan_stable hP | apply State.setPin_stable hP | apply st_ite (P := P) | rfl) | split

theorem State.canEdge_stable (hP : Stable P)  {s : State} (h_s : P s) : P (State.canEdge s) := by
  unfold State.canEdge; (try dsimp only)
  repeat' first | intro _ | with_reducible (first | assumption | apply State.canSwapEdge_stable hP | apply State.setPin_stable hP | apply st_ite (P := P) | apply st_forEach (P := P)) | split

theorem State.canRecord_stable (hP : Stable P) (n : Nat) {s : State} (h_s : P s) : P (State.canRecord s n) := by
  unfold State.canRecord; (try dsimp only)
  repeat' first | intro _ | with_reducible (first | assumption | apply State.putIn_stable hP | apply st_ite (P := P) | apply st_foldl (P := P)) | split

theorem State.canRecords_stable (hP : Stable P)  {s : State} (h_s : P s) : P (State.canRecords s) := by
  unfold State.canRecords; (try dsimp only)
  repeat' first | intro _ | with_reducible (first | assumption | apply State.canRecord_stable hP | apply st_ite (P := P) | apply st_forEach (P := P)) | split

theorem State.canClear_stable (hP : Stable P)  {s : State} (h_s : P s) : P (State.canClear s) := by
  unfold State.canClear; (try dsimp only)
  repeat' first | intro _ | with_reducible (first | assumption | apply State.setCanFr_stable hP | apply st_ite (P := P) | apply st_forEach (P := P)) | split

theorem State.canWake_stable (hP : Stable P) (off : Bool) {s : State} (h_s : P s) : P (State.canWake s off) := by
  unfold State.canWake; (try dsimp only); (try simp only [mk_upd])
  repeat' first | intro _ | with_reducible (first | assumption | apply st_upd hP | apply State.canCause_stable hP | apply State.setCan_stable hP | apply st_ite (P := P) | apply st_forEach (P := P) | rfl) | split

theorem State.setLin_stable (hP : Stable P) (m : Nat) (f : Lin → Lin) {s : State} (h_s : P s) : P (State.setLin s m f) := by
  unfold State.setLin; (try dsimp only); (try simp only [mk_upd])
  repeat' first | intro _ | with_reducible (first | assumption | apply st_upd hP | apply st_ite (P := P) | rfl) | split

theorem State.linCause_stable (hP : Stable P) (m : Nat) (cause : Nat) {s : State} (h_s : P s) : P (State.linCause s m cause) := by
  unfold State.linCause; (try dsimp only)
  repeat' first | intro _ | with_reducible (first | assumption | apply State.raiseEvent_stable hP | apply State.setFld_stable hP | apply st_ite (P := P)) | split

theorem State.linError_stable (hP : Stable P) (m : Nat) (id : Nat) (en : Nat) (f : Fld) {s : State} (h_s : P s) : P (State.linError s m id en f) := by
  unfold State.linError; (try dsimp only); (try simp only [mk_upd])
  repeat' first | intro _ | with_reducible (first | assumption | apply st_upd hP | apply State.linCause_stable hP | apply State.raiseSource_stable hP | apply State.setBit_stable hP | apply State.setFld_stable hP | apply State.setLin_stable hP | apply st_ite (P := P) | rfl) | split

theorem State.linFollow_stable (hP : Stable P) (m : Nat) (id : Nat) {s : State} (h_s : P s) : P (State.linFollow s m id) := by
  unfold State.linFollow; (try dsimp only); (try simp only [mk_upd])
  repeat' first | intro _ | with_reducible (first | assumption | apply st_upd hP | apply State.setLin_stable hP | apply st_ite (P := P) | rfl) | split

theorem State.linHeader_stable (hP : Stable P) (m : Nat) (id : Nat) {s : State} (h_s : P s) : P (State.linHeader s m id) := by
  unfold State.linHeader; (try dsimp only); (try simp only [mk_upd])
  repeat' first | intro _ | with_reducible (first | assumption | apply st_upd hP | apply State.linFollow_stable hP | apply State.setBit_stable hP | apply State.setLin_stable hP | apply st_ite (P := P) | rfl) | split

theorem execLinHeaderSend_stable (hP : Stable P) (m : Fin 4) (id : Fin 64) {s : State} (h_s : P s) : OfOut P (execLinHeaderSend m id s) := by
  unfold execLinHeaderSend; (try dsimp only)
  repeat' first | intro _ | with_reducible (first | assumption | apply State.linHeader_stable hP | apply State.store_stable hP | apply of_oite (P := P) | apply of_next (P := P) | apply of_fault (P := P) | apply st_ite (P := P)) | split

theorem execLinHeaderReceived_stable (hP : Stable P) (m : Fin 4) (id : Fin 64) (rate : Nat) (good : Bool) {s : State} (h_s : P s) : OfOut P (execLinHeaderReceived m id rate good s) := by
  unfold execLinHeaderReceived; (try dsimp only); (try simp only [mk_upd])
  repeat' first | intro _ | with_reducible (first | assumption | apply st_upd hP | apply State.linError_stable hP | apply State.linFollow_stable hP | apply State.setLin_stable hP | apply of_oite (P := P) | apply of_next (P := P) | apply of_fault (P := P) | rfl) | split

theorem execLinResponseReceived_stable (hP : Stable P) (m : Fin 4) (data : List Nat) (cks : Nat) (framing : Bool) {s : State} (h_s : P s) : OfOut P (execLinResponseReceived m data cks framing s) := by
  unfold execLinResponseReceived; (try dsimp only); (try simp only [mk_upd])
  repeat' first | intro _ | with_reducible (first | assumption | apply st_upd hP | apply hP.reg | apply State.linCause_stable hP | apply State.linError_stable hP | apply State.setFld_stable hP | apply State.setLin_stable hP | apply of_oite (P := P) | apply of_next (P := P) | apply of_fault (P := P) | apply st_foldl (P := P) | rfl) | split

theorem State.linStore_stable (hP : Stable P) (m : Nat) (a : Nat) (w : Word) {s : State} (h_s : P s) : P (State.linStore s m a w) := by
  unfold State.linStore; (try dsimp only); (try simp only [mk_upd])
  repeat' first | intro _ | with_reducible (first | assumption | apply st_upd hP | apply hP.reg | apply State.setLin_stable hP | apply st_ite (P := P) | rfl) | split

theorem execLinResponseSent_stable (hP : Stable P) (m : Fin 4) (bitError : Bool) {s : State} (h_s : P s) : OfOut P (execLinResponseSent m bitError s) := by
  unfold execLinResponseSent; (try dsimp only); (try simp only [mk_upd])
  repeat' first | intro _ | with_reducible (first | assumption | apply st_upd hP | apply State.linCause_stable hP | apply State.linError_stable hP | apply State.setLin_stable hP | apply of_oite (P := P) | apply of_next (P := P) | apply of_fault (P := P) | rfl) | split

theorem execLinNoResponse_stable (hP : Stable P) (m : Fin 4) {s : State} (h_s : P s) : OfOut P (execLinNoResponse m s) := by
  unfold execLinNoResponse; (try dsimp only); (try simp only [mk_upd])
  repeat' first | intro _ | with_reducible (first | assumption | apply st_upd hP | apply State.linError_stable hP | apply of_oite (P := P) | apply of_next (P := P) | apply of_fault (P := P) | rfl) | split

theorem execLinBusDominant_stable (hP : Stable P) (m : Fin 4) {s : State} (h_s : P s) : OfOut P (execLinBusDominant m s) := by
  unfold execLinBusDominant; (try dsimp only); (try simp only [mk_upd])
  repeat' first | intro _ | with_reducible (first | assumption | apply st_upd hP | apply State.raiseSource_stable hP | apply State.setLin_stable hP | apply of_oite (P := P) | apply of_next (P := P) | apply of_fault (P := P) | rfl) | split

theorem execLinBusRelease_stable (hP : Stable P) (m : Fin 4) {s : State} (h_s : P s) : OfOut P (execLinBusRelease m s) := by
  unfold execLinBusRelease; (try dsimp only); (try simp only [mk_upd])
  repeat' first | intro _ | with_reducible (first | assumption | apply st_upd hP | apply State.setLin_stable hP | apply of_oite (P := P) | apply of_next (P := P) | apply of_fault (P := P) | rfl) | split

theorem State.linWake_stable (hP : Stable P) (m : Nat) {s : State} (h_s : P s) : P (State.linWake s m) := by
  unfold State.linWake; (try dsimp only); (try simp only [mk_upd])
  repeat' first | intro _ | with_reducible (first | assumption | apply st_upd hP | apply State.setLin_stable hP | apply st_ite (P := P) | rfl) | split

theorem execLinWakeSend_stable (hP : Stable P) (m : Fin 4) {s : State} (h_s : P s) : OfOut P (execLinWakeSend m s) := by
  unfold execLinWakeSend; (try dsimp only)
  repeat' first | intro _ | with_reducible (first | assumption | apply State.linWake_stable hP | apply State.store_stable hP | apply of_oite (P := P) | apply of_next (P := P) | apply of_fault (P := P) | apply st_ite (P := P)) | split

theorem execLinWakeReceived_stable (hP : Stable P) (m : Fin 4) (us : Nat) {s : State} (h_s : P s) : OfOut P (execLinWakeReceived m us s) := by
  unfold execLinWakeReceived; (try dsimp only); (try simp only [mk_upd])
  repeat' first | intro _ | with_reducible (first | assumption | apply st_upd hP | apply State.linCause_stable hP | apply State.setBit_stable hP | apply State.setLin_stable hP | apply of_oite (P := P) | apply of_next (P := P) | apply of_fault (P := P) | rfl) | split

theorem execLinIdle_stable (hP : Stable P) (m : Fin 4) {s : State} (h_s : P s) : OfOut P (execLinIdle m s) := by
  unfold execLinIdle; (try dsimp only); (try simp only [mk_upd])
  repeat' first | intro _ | with_reducible (first | assumption | apply st_upd hP | apply State.setLin_stable hP | apply of_oite (P := P) | apply of_next (P := P) | apply of_fault (P := P) | rfl) | split

theorem State.linEnable_stable (hP : Stable P) (m : Nat) (en : Bool) {s : State} (h_s : P s) : P (State.linEnable s m en) := by
  unfold State.linEnable; (try dsimp only); (try simp only [mk_upd])
  repeat' first | intro _ | with_reducible (first | assumption | apply st_upd hP | apply State.putBit_stable hP | apply State.setFld_stable hP | apply State.setLin_stable hP | apply st_ite (P := P) | rfl) | split

theorem State.linRecords_stable (hP : Stable P)  {s : State} (h_s : P s) : P (State.linRecords s) := by
  unfold State.linRecords; (try dsimp only)
  repeat' first | intro _ | with_reducible (first | assumption | apply State.putIn_stable hP | apply st_ite (P := P) | apply st_foldl (P := P) | apply st_forEach (P := P)) | split

theorem State.linClear_stable (hP : Stable P)  {s : State} (h_s : P s) : P (State.linClear s) := by
  unfold State.linClear; (try dsimp only); (try simp only [mk_upd])
  repeat' first | intro _ | with_reducible (first | assumption | apply st_upd hP | apply State.setLin_stable hP | apply st_ite (P := P) | apply st_forEach (P := P) | rfl) | split

theorem State.linLost_stable (hP : Stable P)  {s : State} (h_s : P s) : P (State.linLost s) := by
  exact hP.clear s _ h_s

theorem State.setEth_stable (hP : Stable P) (f : Eth → Eth) {s : State} (h_s : P s) : P (State.setEth s f) := by
  unfold State.setEth; (try dsimp only); (try simp only [mk_upd])
  repeat' first | intro _ | with_reducible (first | assumption | apply st_upd hP | apply st_ite (P := P) | rfl) | split

theorem State.setEport_stable (hP : Stable P) (p : Nat) (f : EthPort → EthPort) {s : State} (h_s : P s) : P (State.setEport s p f) := by
  unfold State.setEport; (try dsimp only); (try simp only [mk_upd])
  repeat' first | intro _ | with_reducible (first | assumption | apply st_upd hP | apply State.setEth_stable hP | apply st_ite (P := P) | rfl) | split

theorem State.ethTake_stable (hP : Stable P)  {s : State} (h_s : P s) : P (State.ethTake s) := by
  unfold State.ethTake; (try dsimp only); (try simp only [mk_upd])
  repeat' first | intro _ | with_reducible (first | assumption | apply st_upd hP | apply State.setEth_stable hP | apply st_ite (P := P) | apply st_foldl (P := P) | rfl) | split

theorem State.ethStart_stable (hP : Stable P)  {s : State} (h_s : P s) : P (State.ethStart s) := by
  unfold State.ethStart; (try dsimp only)
  repeat' first | intro _ | with_reducible (first | assumption | apply State.ethTake_stable hP | apply State.setFld_stable hP | apply st_ite (P := P)) | split

theorem State.linkEvent_stable (hP : Stable P) (p : Nat) {s : State} (h_s : P s) : P (State.linkEvent s p) := by
  unfold State.linkEvent; (try dsimp only)
  repeat' first | intro _ | with_reducible (first | assumption | apply State.raiseEvent_stable hP | apply State.setFld_stable hP | apply st_ite (P := P)) | split

theorem State.linkDown_stable (hP : Stable P) (p : Nat) {s : State} (h_s : P s) : P (State.linkDown s p) := by
  unfold State.linkDown; (try dsimp only); (try simp only [mk_upd])
  repeat' first | intro _ | with_reducible (first | assumption | apply st_upd hP | apply State.linkEvent_stable hP | apply State.raiseSource_stable hP | apply State.setBit_stable hP | apply State.setEport_stable hP | apply State.setEth_stable hP | apply State.setFld_stable hP | apply st_ite (P := P) | apply st_foldl (P := P) | rfl) | split

theorem State.ethLeaves_stable (hP : Stable P)  {s : State} (h_s : P s) : P (State.ethLeaves s) := by
  unfold State.ethLeaves; (try dsimp only)
  repeat' first | intro _ | with_reducible (first | assumption | apply State.linkDown_stable hP | apply st_ite (P := P)) | split

theorem State.portCfg_stable (hP : Stable P) (p : Nat) (w : Word) {s : State} (h_s : P s) : P (State.portCfg s p w) := by
  unfold State.portCfg; (try dsimp only)
  repeat' first | intro _ | with_reducible (first | assumption | apply hP.reg | apply State.linkDown_stable hP | apply st_ite (P := P)) | split

theorem State.ethDrop_stable (hP : Stable P)  {s : State} (h_s : P s) : P (State.ethDrop s) := by
  unfold State.ethDrop; (try dsimp only); (try simp only [mk_upd])
  repeat' first | intro _ | with_reducible (first | assumption | apply st_upd hP | apply State.setBit_stable hP | apply State.setEth_stable hP | apply st_ite (P := P) | rfl) | split

theorem State.enqueue_stable (hP : Stable P) (p : Nat) (f : EthQ) {s : State} (h_s : P s) : P (State.enqueue s p f) := by
  unfold State.enqueue; (try dsimp only); (try simp only [mk_upd])
  repeat' first | intro _ | with_reducible (first | assumption | apply st_upd hP | apply State.ethDrop_stable hP | apply State.setEport_stable hP | apply st_ite (P := P) | rfl) | split

theorem State.learn_stable (hP : Stable P) (m : Nat) (p : Nat) {s : State} (h_s : P s) : P (State.learn s m p) := by
  unfold State.learn; (try dsimp only); (try simp only [mk_upd])
  repeat' first | intro _ | with_reducible (first | assumption | apply st_upd hP | apply State.setEth_stable hP | apply st_ite (P := P) | rfl) | split

theorem State.forward_stable (hP : Stable P) (f : EthQ) {s : State} (h_s : P s) : P (State.forward s f) := by
  unfold State.forward; (try dsimp only)
  repeat' first | intro _ | with_reducible (first | assumption | apply State.enqueue_stable hP | apply st_ite (P := P) | apply st_foldl (P := P)) | split

theorem State.sendOwn_stable (hP : Stable P) (dst : Nat) (type : Nat) (pcp : Nat) (payload : Bytes) (delayReq : Bool) {s : State} (h_s : P s) : P (State.sendOwn s dst type pcp payload delayReq) := by
  unfold State.sendOwn; (try dsimp only)
  repeat' first | intro _ | with_reducible (first | assumption | apply State.forward_stable hP | apply st_ite (P := P)) | split

theorem State.arpAsk_stable (hP : Stable P) (ip : Nat) {s : State} (h_s : P s) : P (State.arpAsk s ip) := by
  unfold State.arpAsk; (try dsimp only); (try simp only [mk_upd])
  repeat' first | intro _ | with_reducible (first | assumption | apply st_upd hP | apply State.sendOwn_stable hP | apply st_ite (P := P) | rfl) | split

theorem State.ipSend_stable (hP : Stable P) (dst : Nat) (pcp : Nat) (packet : Bytes) {s : State} (h_s : P s) : P (State.ipSend s dst pcp packet) := by
  unfold State.ipSend; (try dsimp only); (try simp only [mk_upd])
  repeat' first | intro _ | with_reducible (first | assumption | apply st_upd hP | apply State.arpAsk_stable hP | apply State.sendOwn_stable hP | apply State.setEth_stable hP | apply st_ite (P := P) | rfl) | split

theorem State.udpSend_stable (hP : Stable P) (dst : Nat) (sport : Nat) (dport : Nat) (pcp : Nat) (data : Bytes) {s : State} (h_s : P s) : P (State.udpSend s dst sport dport pcp data) := by
  unfold State.udpSend; (try dsimp only); (try simp only [mk_upd])
  repeat' first | intro _ | with_reducible (first | assumption | apply st_upd hP | apply State.ipSend_stable hP | apply st_ite (P := P) | rfl) | split

theorem State.arpTake_stable (hP : Stable P) (b : Bytes) {s : State} (h_s : P s) : P (State.arpTake s b) := by
  unfold State.arpTake; (try dsimp only); (try simp only [mk_upd])
  repeat' first | intro _ | with_reducible (first | assumption | apply st_upd hP | apply State.sendOwn_stable hP | apply State.setEth_stable hP | apply st_ite (P := P) | apply st_foldl (P := P) | rfl) | split

theorem State.badIp_stable (hP : Stable P)  {s : State} (h_s : P s) : P (State.badIp s) := by
  unfold State.badIp; (try dsimp only)
  repeat' first | intro _ | with_reducible (first | assumption | apply State.setBit_stable hP | apply st_ite (P := P)) | split

theorem State.ipTake_stable (hP : Stable P) (p : Bytes) {s : State} (h_s : P s) : P ((State.ipTake s p)).1 := by
  unfold State.ipTake; (try dsimp only); (try simp only [mk_upd])
  repeat' first | intro _ | with_reducible (first | assumption | apply st_upd hP | apply State.badIp_stable hP | apply State.ipSend_stable hP | apply st_ite (P := P) | apply st_pite (P := P) | rfl) | split

theorem State.ethRecords_stable (hP : Stable P)  {s : State} (h_s : P s) : P (State.ethRecords s) := by
  unfold State.ethRecords; (try dsimp only)
  repeat' first | intro _ | with_reducible (first | assumption | apply State.putIn_stable hP | apply st_ite (P := P) | apply st_foldl (P := P)) | split

theorem State.ethClear_stable (hP : Stable P)  {s : State} (h_s : P s) : P (State.ethClear s) := by
  unfold State.ethClear; (try dsimp only); (try simp only [mk_upd])
  repeat' first | intro _ | with_reducible (first | assumption | apply st_upd hP | apply State.setEport_stable hP | apply State.setEth_stable hP | apply st_ite (P := P) | apply st_forEach (P := P) | rfl) | split

theorem State.setTim_stable (hP : Stable P) (f : Tim → Tim) {s : State} (h_s : P s) : P (State.setTim s f) := by
  unfold State.setTim; (try dsimp only); (try simp only [mk_upd])
  repeat' first | intro _ | with_reducible (first | assumption | apply st_upd hP | apply st_ite (P := P) | rfl) | split

theorem State.setPtp_stable (hP : Stable P) (f : Ptp → Ptp) {s : State} (h_s : P s) : P (State.setPtp s f) := by
  unfold State.setPtp; (try dsimp only); (try simp only [mk_upd])
  repeat' first | intro _ | with_reducible (first | assumption | apply st_upd hP | apply st_ite (P := P) | rfl) | split

theorem State.timCause_stable (hP : Stable P) (c : Nat) {s : State} (h_s : P s) : P (State.timCause s c) := by
  unfold State.timCause; (try dsimp only)
  repeat' first | intro _ | with_reducible (first | assumption | apply State.raiseEvent_stable hP | apply State.setFld_stable hP | apply st_ite (P := P)) | split

theorem State.timGo_stable (hP : Stable P) (st : Nat) {s : State} (h_s : P s) : P (State.timGo s st) := by
  unfold State.timGo; (try dsimp only); (try simp only [mk_upd])
  repeat' first | intro _ | with_reducible (first | assumption | apply st_upd hP | apply State.raiseSource_stable hP | apply State.setTim_stable hP | apply State.timCause_stable hP | apply st_ite (P := P) | rfl) | split

theorem State.measure_stable (hP : Stable P) (th : Int) {s : State} (h_s : P s) : P (State.measure s th) := by
  unfold State.measure; (try dsimp only); (try simp only [mk_upd])
  repeat' first | intro _ | with_reducible (first | assumption | apply st_upd hP | apply State.setTim_stable hP | apply State.timGo_stable hP | apply st_ite (P := P) | rfl) | split

theorem State.sourceLost_stable (hP : Stable P)  {s : State} (h_s : P s) : P (State.sourceLost s) := by
  unfold State.sourceLost; (try dsimp only); (try simp only [mk_upd])
  repeat' first | intro _ | with_reducible (first | assumption | apply st_upd hP | apply State.timGo_stable hP | apply st_ite (P := P) | rfl) | split

theorem State.selectParent_stable (hP : Stable P)  {s : State} (h_s : P s) : P (State.selectParent s) := by
  unfold State.selectParent; (try dsimp only); (try simp only [mk_upd])
  repeat' first | intro _ | with_reducible (first | assumption | apply st_upd hP | apply State.setFld_stable hP | apply State.setPtp_stable hP | apply State.timCause_stable hP | apply st_ite (P := P) | apply st_foldl (P := P) | rfl) | split

theorem State.announce_stable (hP : Stable P) (p : Nat) (m : Bytes) {s : State} (h_s : P s) : P (State.announce s p m) := by
  unfold State.announce; (try dsimp only); (try simp only [mk_upd])
  repeat' first | intro _ | with_reducible (first | assumption | apply st_upd hP | apply State.selectParent_stable hP | apply State.setPtp_stable hP | apply st_ite (P := P) | rfl) | split

theorem State.syncDone_stable (hP : Stable P) (x : SyncRx) {s : State} (h_s : P s) : P (State.syncDone s x) := by
  unfold State.syncDone; (try dsimp only); (try simp only [mk_upd])
  repeat' first | intro _ | with_reducible (first | assumption | apply st_upd hP | apply State.measure_stable hP | apply State.setPtp_stable hP | apply st_ite (P := P) | rfl) | split

theorem State.ptpTake_stable (hP : Stable P) (p : Nat) (m : Bytes) (at_ : Nat) {s : State} (h_s : P s) : P (State.ptpTake s p m at_) := by
  unfold State.ptpTake; (try dsimp only); (try simp only [mk_upd])
  repeat' first | intro _ | with_reducible (first | assumption | apply st_upd hP | apply State.announce_stable hP | apply State.setBit_stable hP | apply State.setPtp_stable hP | apply State.syncDone_stable hP | apply st_ite (P := P) | rfl) | split

theorem State.transparent_stable (hP : Stable P) (p : Nat) (f : EthQ) {s : State} (h_s : P s) : P ((State.transparent s p f)).2 := by
  unfold State.transparent; (try dsimp only); (try simp only [mk_upd])
  repeat' first | intro _ | with_reducible (first | assumption | apply st_upd hP | apply State.setBit_stable hP | apply State.setPtp_stable hP | apply st_ite (P := P) | apply st_pite (P := P) | rfl) | split

theorem State.setRate_stable (hP : Stable P) (r : Nat) {s : State} (h_s : P s) : P (State.setRate s r) := by
  unfold State.setRate; (try dsimp only)
  repeat' first | intro _ | with_reducible (first | assumption | apply State.setFld_stable hP | apply st_ite (P := P)) | split

theorem State.setOffset_stable (hP : Stable P) (o : Int) {s : State} (h_s : P s) : P (State.setOffset s o) := by
  unfold State.setOffset; (try dsimp only)
  repeat' first | intro _ | with_reducible (first | assumption | apply State.setFld_stable hP | apply st_ite (P := P)) | split

theorem State.applyTim_stable (hP : Stable P) (a : Nat) (w : Word) {s : State} (h_s : P s) : OfOpt P (State.applyTim s a w) := by
  unfold State.applyTim; (try dsimp only); (try simp only [mk_upd])
  repeat' first | intro _ | with_reducible (first | assumption | apply st_upd hP | apply State.applyPlain_stable hP | apply State.setTim_stable hP | apply of_none (P := P) | apply of_some (P := P) | apply st_ite (P := P) | rfl) | split

theorem State.timEdge_stable (hP : Stable P)  {s : State} (h_s : P s) : P (State.timEdge s) := by
  unfold State.timEdge; (try dsimp only); (try simp only [mk_upd])
  repeat' first | intro _ | with_reducible (first | assumption | apply st_upd hP | apply State.raiseSource_stable hP | apply State.setBit_stable hP | apply State.setOffset_stable hP | apply State.setRate_stable hP | apply State.setTim_stable hP | apply State.timCause_stable hP | apply State.timGo_stable hP | apply st_ite (P := P) | rfl) | split

theorem State.timRecords_stable (hP : Stable P)  {s : State} (h_s : P s) : P (State.timRecords s) := by
  unfold State.timRecords; (try dsimp only)
  repeat' first | intro _ | with_reducible (first | assumption | apply State.putIn_stable hP | apply st_ite (P := P)) | split

theorem State.timClear_stable (hP : Stable P)  {s : State} (h_s : P s) : P (State.timClear s) := by
  unfold State.timClear; (try dsimp only); (try simp only [mk_upd])
  repeat' first | intro _ | with_reducible (first | assumption | apply st_upd hP | apply State.setTim_stable hP | apply st_ite (P := P) | rfl) | split

theorem State.timLost_stable (hP : Stable P)  {s : State} (h_s : P s) : P (State.timLost s) := by
  unfold State.timLost; (try dsimp only); (try simp only [mk_upd])
  repeat' first | intro _ | with_reducible (first | assumption | apply st_upd hP | apply st_ite (P := P) | rfl) | split

theorem execEthLinkUp_stable (hP : Stable P) (p : Fin 2) (farMaster : Bool) {s : State} (h_s : P s) : OfOut P (execEthLinkUp p farMaster s) := by
  unfold execEthLinkUp; (try dsimp only); (try simp only [mk_upd])
  repeat' first | intro _ | with_reducible (first | assumption | apply st_upd hP | apply State.linkEvent_stable hP | apply State.setEport_stable hP | apply of_oite (P := P) | apply of_next (P := P) | apply of_fault (P := P) | rfl) | split

theorem execEthLinkDown_stable (hP : Stable P) (p : Fin 2) {s : State} (h_s : P s) : OfOut P (execEthLinkDown p s) := by
  unfold execEthLinkDown; (try dsimp only)
  repeat' first | intro _ | with_reducible (first | assumption | apply State.linkDown_stable hP | apply of_oite (P := P) | apply of_next (P := P) | apply of_fault (P := P)) | split

theorem execFollowUpTimeout_stable (hP : Stable P)  {s : State} (h_s : P s) : OfOut P (execFollowUpTimeout s) := by
  unfold execFollowUpTimeout; (try dsimp only); (try simp only [mk_upd])
  repeat' first | intro _ | with_reducible (first | assumption | apply st_upd hP | apply State.advance_stable hP | apply State.setPtp_stable hP | apply of_oite (P := P) | apply of_next (P := P) | apply of_fault (P := P) | rfl) | split

theorem execDelayReqSend_stable (hP : Stable P)  {s : State} (h_s : P s) : OfOut P (execDelayReqSend s) := by
  unfold execDelayReqSend; (try dsimp only); (try simp only [mk_upd])
  repeat' first | intro _ | with_reducible (first | assumption | apply st_upd hP | apply State.enqueue_stable hP | apply State.setPtp_stable hP | apply of_oite (P := P) | apply of_next (P := P) | apply of_fault (P := P) | rfl) | split

theorem execPtpSourceLost_stable (hP : Stable P)  {s : State} (h_s : P s) : OfOut P (execPtpSourceLost s) := by
  unfold execPtpSourceLost; (try dsimp only); (try simp only [mk_upd])
  repeat' first | intro _ | with_reducible (first | assumption | apply st_upd hP | apply State.advance_stable hP | apply State.setPtp_stable hP | apply State.setTim_stable hP | apply State.sourceLost_stable hP | apply of_oite (P := P) | apply of_next (P := P) | apply of_fault (P := P) | rfl) | split

theorem State.readTlo_stable (hP : Stable P) (m : Nat) {s : State} (h_s : P s) : P ((State.readTlo s m)).2 := by
  unfold State.readTlo; (try dsimp only); (try simp only [mk_upd])
  repeat' first | intro _ | with_reducible (first | assumption | apply st_upd hP | apply State.setTim_stable hP | apply st_ite (P := P) | apply st_pite (P := P) | rfl) | split

theorem State.readCntlo_stable (hP : Stable P) (m : Nat) {s : State} (h_s : P s) : P ((State.readCntlo s m)).2 := by
  unfold State.readCntlo; (try dsimp only); (try simp only [mk_upd])
  repeat' first | intro _ | with_reducible (first | assumption | apply st_upd hP | apply State.setTim_stable hP | apply st_ite (P := P) | apply st_pite (P := P) | rfl) | split

theorem execTloRead_stable (hP : Stable P) (m : Master) {s : State} (h_s : P s) : OfOut P (execTloRead m s) := by
  unfold execTloRead; (try dsimp only)
  repeat' first | intro _ | with_reducible (first | assumption | apply State.deliver_stable hP | apply State.load_stable hP | apply State.readTlo_stable hP | apply of_oite (P := P) | apply of_next (P := P) | apply of_fault (P := P) | apply st_ite (P := P) | refine st_snd (P := P) (by assumption) ?_) | split

theorem execCntloRead_stable (hP : Stable P) (m : Master) {s : State} (h_s : P s) : OfOut P (execCntloRead m s) := by
  unfold execCntloRead; (try dsimp only)
  repeat' first | intro _ | with_reducible (first | assumption | apply State.deliver_stable hP | apply State.load_stable hP | apply State.readCntlo_stable hP | apply of_oite (P := P) | apply of_next (P := P) | apply of_fault (P := P) | apply st_ite (P := P) | refine st_snd (P := P) (by assumption) ?_) | split

theorem execNrateloWrite_stable (hP : Stable P) (w : Word) {s : State} (h_s : P s) : OfOut P (execNrateloWrite w s) := by
  unfold execNrateloWrite; (try dsimp only)
  repeat' first | intro _ | with_reducible (first | assumption | apply State.holdFw_stable hP | apply State.store_stable hP | apply of_oite (P := P) | apply of_next (P := P) | apply of_fault (P := P) | apply st_ite (P := P)) | split

theorem execNoffloWrite_stable (hP : Stable P) (w : Word) {s : State} (h_s : P s) : OfOut P (execNoffloWrite w s) := by
  unfold execNoffloWrite; (try dsimp only)
  repeat' first | intro _ | with_reducible (first | assumption | apply State.holdFw_stable hP | apply State.store_stable hP | apply of_oite (P := P) | apply of_next (P := P) | apply of_fault (P := P) | apply st_ite (P := P)) | split

theorem execPpsOutPulse_stable (hP : Stable P)  {s : State} (h_s : P s) : OfOut P (execPpsOutPulse s) := by
  unfold execPpsOutPulse; (try dsimp only); (try simp only [mk_upd])
  repeat' first | intro _ | with_reducible (first | assumption | apply st_upd hP | apply State.advance_stable hP | apply State.setTim_stable hP | apply of_oite (P := P) | apply of_next (P := P) | apply of_fault (P := P) | rfl) | split

theorem execPpsOutPulseEnd_stable (hP : Stable P)  {s : State} (h_s : P s) : OfOut P (execPpsOutPulseEnd s) := by
  unfold execPpsOutPulseEnd; (try dsimp only); (try simp only [mk_upd])
  repeat' first | intro _ | with_reducible (first | assumption | apply st_upd hP | apply State.advance_stable hP | apply State.setTim_stable hP | apply of_oite (P := P) | apply of_next (P := P) | apply of_fault (P := P) | rfl) | split

theorem execPpsInEdge_stable (hP : Stable P) (rising : Bool) {s : State} (h_s : P s) : OfOut P (execPpsInEdge rising s) := by
  unfold execPpsInEdge; (try dsimp only); (try simp only [mk_upd])
  repeat' first | intro _ | with_reducible (first | assumption | apply st_upd hP | apply State.measure_stable hP | apply State.raiseEvent_stable hP | apply State.setFld_stable hP | apply State.setTim_stable hP | apply of_oite (P := P) | apply of_next (P := P) | apply of_fault (P := P) | rfl) | split

theorem State.armAlarm_stable (hP : Stable P) (w : Word) {s : State} (h_s : P s) : P (State.armAlarm s w) := by
  unfold State.armAlarm; (try dsimp only); (try simp only [mk_upd])
  repeat' first | intro _ | with_reducible (first | assumption | apply st_upd hP | apply State.setFld_stable hP | apply State.setTim_stable hP | apply st_ite (P := P) | rfl) | split

theorem execAlmloWrite_stable (hP : Stable P) (w : Word) {s : State} (h_s : P s) : OfOut P (execAlmloWrite w s) := by
  unfold execAlmloWrite; (try dsimp only)
  repeat' first | intro _ | with_reducible (first | assumption | apply State.armAlarm_stable hP | apply State.store_stable hP | apply of_oite (P := P) | apply of_next (P := P) | apply of_fault (P := P) | apply st_ite (P := P)) | split

theorem execAlarm_stable (hP : Stable P)  {s : State} (h_s : P s) : OfOut P (execAlarm s) := by
  unfold execAlarm; (try dsimp only); (try simp only [mk_upd])
  repeat' first | intro _ | with_reducible (first | assumption | apply st_upd hP | apply State.advance_stable hP | apply State.raiseEvent_stable hP | apply State.setTim_stable hP | apply of_oite (P := P) | apply of_next (P := P) | apply of_fault (P := P) | rfl) | split

theorem State.setBal_stable (hP : Stable P) (f : Bal → Bal) {s : State} (h_s : P s) : P (State.setBal s f) := by
  unfold State.setBal; (try dsimp only); (try simp only [mk_upd])
  repeat' first | intro _ | with_reducible (first | assumption | apply st_upd hP | apply st_ite (P := P) | rfl) | split

theorem State.ringError_stable (hP : Stable P)  {s : State} (h_s : P s) : P (State.ringError s) := by
  unfold State.ringError; (try dsimp only); (try simp only [mk_upd])
  repeat' first | intro _ | with_reducible (first | assumption | apply st_upd hP | apply State.raiseSource_stable hP | apply State.setBal_stable hP | apply State.setBit_stable hP | apply st_ite (P := P) | rfl) | split

theorem State.ringWrite_stable (hP : Stable P) (r : Bytes) {s : State} (h_s : P s) : P (State.ringWrite s r) := by
  unfold State.ringWrite; (try dsimp only)
  repeat' first | intro _ | with_reducible (first | assumption | apply State.grnWrite_stable hP | apply State.nonOwner_stable hP | apply State.ringError_stable hP | apply st_ite (P := P) | apply st_foldl (P := P)) | split

theorem State.handOver_stable (hP : Stable P) (f : Bytes) {s : State} (h_s : P s) : OfOpt P (State.handOver s f) := by
  unfold State.handOver; (try dsimp only); (try simp only [mk_upd])
  repeat' first | intro _ | with_reducible (first | assumption | apply st_upd hP | apply State.enqueue_stable hP | apply State.ethDrop_stable hP | apply of_none (P := P) | apply of_some (P := P) | apply st_ite (P := P) | apply st_foldl (P := P) | rfl) | split

theorem State.balHandFrom_stable (hP : Stable P) (y0 : List Bytes) {s : State} (h_s : P s) : P (State.balHandFrom s y0) := by
  induction y0 generalizing s <;> unfold State.balHandFrom
  all_goals try dsimp only
  all_goals try simp only [mk_upd]
  repeat' first | intro _ | with_reducible (first | assumption | apply_assumption | apply st_upd hP | apply State.handOver_stable hP | apply State.setBal_stable hP | apply st_ite (P := P) | apply st_getD (P := P) | refine st_opt (P := P) (by assumption) ?_ | rfl) | split

theorem State.balHand_stable (hP : Stable P)  {s : State} (h_s : P s) : P (State.balHand s) := by
  unfold State.balHand; (try dsimp only)
  repeat' first | intro _ | with_reducible (first | assumption | apply State.balHandFrom_stable hP | apply st_ite (P := P)) | split

theorem execEthFrameEgress_stable (hP : Stable P) (p : Fin 2) {s : State} (h_s : P s) : OfOut P (execEthFrameEgress p s) := by
  unfold execEthFrameEgress; (try dsimp only); (try simp only [mk_upd])
  repeat' first | intro _ | with_reducible (first | assumption | apply st_upd hP | apply State.balHand_stable hP | apply State.setEport_stable hP | apply State.setPtp_stable hP | apply State.transparent_stable hP | apply of_oite (P := P) | apply of_next (P := P) | apply of_fault (P := P) | refine st_snd (P := P) (by assumption) ?_ | rfl) | split

theorem execBalerRecordBuild_stable (hP : Stable P)  {s : State} (h_s : P s) : OfOut P (execBalerRecordBuild s) := by
  unfold execBalerRecordBuild; (try dsimp only); (try simp only [mk_upd])
  repeat' first | intro _ | with_reducible (first | assumption | apply st_upd hP | apply State.advance_stable hP | apply State.arpAsk_stable hP | apply State.balHand_stable hP | apply State.ringWrite_stable hP | apply State.setBal_stable hP | apply State.setBit_stable hP | apply State.setFld_stable hP | apply of_oite (P := P) | apply of_next (P := P) | apply of_fault (P := P) | rfl) | split

theorem State.balRequest_stable (hP : Stable P) (d : Dgram) {s : State} (h_s : P s) : P (State.balRequest s d) := by
  unfold State.balRequest; (try dsimp only); (try simp only [mk_upd])
  repeat' first | intro _ | with_reducible (first | assumption | apply st_upd hP | apply State.setBal_stable hP | apply st_ite (P := P) | rfl) | split

theorem State.ringRead_stable (hP : Stable P) (a : Nat) (n : Nat) {s : State} (h_s : P s) : P ((State.ringRead s a n)).2 := by
  unfold State.ringRead; (try dsimp only)
  repeat' first | intro _ | with_reducible (first | assumption | apply State.grnRead_stable hP | apply st_ite (P := P) | apply st_pite (P := P) | apply st_foldl (P := P) | apply st_foldl2 (P := P) | refine st_snd (P := P) (by assumption) ?_) | split

theorem execRecordRequestServe_stable (hP : Stable P)  {s : State} (h_s : P s) : OfOut P (execRecordRequestServe s) := by
  unfold execRecordRequestServe; (try dsimp only); (try simp only [mk_upd])
  repeat' first | intro _ | with_reducible (first | assumption | apply st_upd hP | apply State.ringRead_stable hP | apply State.setBal_stable hP | apply State.setBit_stable hP | apply State.udpSend_stable hP | apply of_oite (P := P) | apply of_next (P := P) | apply of_fault (P := P) | apply st_foldl (P := P) | apply st_foldl2 (P := P) | refine st_snd (P := P) (by assumption) ?_ | rfl) | split

theorem State.applyBal_stable (hP : Stable P) (a : Nat) (w : Word) {s : State} (h_s : P s) : OfOpt P (State.applyBal s a w) := by
  unfold State.applyBal; (try dsimp only)
  repeat' first | intro _ | with_reducible (first | assumption | apply State.applyPlain_stable hP | apply of_none (P := P) | apply of_some (P := P) | apply st_ite (P := P)) | split

theorem State.balEdge_stable (hP : Stable P)  {s : State} (h_s : P s) : P (State.balEdge s) := by
  unfold State.balEdge; (try dsimp only); (try simp only [mk_upd])
  repeat' first | intro _ | with_reducible (first | assumption | apply st_upd hP | apply State.raiseSource_stable hP | apply State.setBal_stable hP | apply State.setBit_stable hP | apply st_ite (P := P) | rfl) | split

theorem State.balRecords_stable (hP : Stable P)  {s : State} (h_s : P s) : P (State.balRecords s) := by
  unfold State.balRecords; (try dsimp only)
  repeat' first | intro _ | with_reducible (first | assumption | apply State.putIn_stable hP | apply st_ite (P := P)) | split

theorem State.balClear_stable (hP : Stable P)  {s : State} (h_s : P s) : P (State.balClear s) := by
  unfold State.balClear; (try dsimp only); (try simp only [mk_upd])
  repeat' first | intro _ | with_reducible (first | assumption | apply st_upd hP | apply State.setBal_stable hP | apply st_ite (P := P) | rfl) | split

theorem State.setSrch_stable (hP : Stable P) (f : AccSearch → AccSearch) {s : State} (h_s : P s) : P (State.setSrch s f) := by
  unfold State.setSrch; (try dsimp only); (try simp only [mk_upd])
  repeat' first | intro _ | with_reducible (first | assumption | apply st_upd hP | apply State.setAcc_stable hP | apply st_ite (P := P) | rfl) | split

theorem State.accCause_stable (hP : Stable P) (c : Nat) {s : State} (h_s : P s) : P (State.accCause s c) := by
  unfold State.accCause; (try dsimp only)
  repeat' first | intro _ | with_reducible (first | assumption | apply State.raiseEvent_stable hP | apply State.setFld_stable hP | apply st_ite (P := P)) | split

theorem State.accLog_stable (hP : Stable P) (tid : Nat) (res : Nat) (slot : Nat) (search : Nat) {s : State} (h_s : P s) : P (State.accLog s tid res slot search) := by
  unfold State.accLog; (try dsimp only)
  repeat' first | intro _ | with_reducible (first | assumption | apply State.setFld_stable hP | apply st_ite (P := P)) | split

theorem State.accResult_stable (hP : Stable P) (t : TokReply) (res : Nat) {s : State} (h_s : P s) : P (State.accResult s t res) := by
  unfold State.accResult; (try dsimp only); (try simp only [mk_upd])
  repeat' first | intro _ | with_reducible (first | assumption | apply st_upd hP | apply State.accLog_stable hP | apply State.raiseSource_stable hP | apply State.setSrch_stable hP | apply st_ite (P := P) | rfl) | split

theorem State.accDone_stable (hP : Stable P) (r : TokResult) {s : State} (h_s : P s) : P (State.accDone s r) := by
  unfold State.accDone; (try dsimp only); (try simp only [mk_upd])
  repeat' first | intro _ | with_reducible (first | assumption | apply st_upd hP | apply State.accCause_stable hP | apply State.setAcc_stable hP | apply st_ite (P := P) | rfl) | split

theorem State.accOver_stable (hP : Stable P)  {s : State} (h_s : P s) : P (State.accOver s) := by
  unfold State.accOver; (try dsimp only); (try simp only [mk_upd])
  repeat' first | intro _ | with_reducible (first | assumption | apply st_upd hP | apply State.accDone_stable hP | apply st_ite (P := P) | rfl) | split

theorem State.searchEnd_stable (hP : Stable P)  {s : State} (h_s : P s) : P (State.searchEnd s) := by
  unfold State.searchEnd; (try dsimp only); (try simp only [mk_upd])
  repeat' first | intro _ | with_reducible (first | assumption | apply st_upd hP | apply State.accOver_stable hP | apply State.setSrch_stable hP | apply st_ite (P := P) | rfl) | split

theorem State.uhfRead_stable (hP : Stable P)  {s : State} (h_s : P s) : P (State.uhfRead s) := by
  unfold State.uhfRead; (try dsimp only); (try simp only [mk_upd])
  repeat' first | intro _ | with_reducible (first | assumption | apply st_upd hP | apply State.setAcc_stable hP | apply st_ite (P := P) | rfl) | split

theorem State.uhfSend_stable (hP : Stable P) (p : Bytes) {s : State} (h_s : P s) : P (State.uhfSend s p) := by
  unfold State.uhfSend; (try dsimp only); (try simp only [mk_upd])
  repeat' first | intro _ | with_reducible (first | assumption | apply st_upd hP | apply State.setAcc_stable hP | apply st_ite (P := P) | rfl) | split

theorem State.authFrom_stable (hP : Stable P) (y0 : List TokReply) {s : State} (h_s : P s) : P (State.authFrom s y0) := by
  induction y0 generalizing s <;> unfold State.authFrom
  all_goals try dsimp only
  all_goals try simp only [mk_upd]
  repeat' first | intro _ | with_reducible (first | assumption | apply_assumption | apply st_upd hP | apply State.accResult_stable hP | apply State.searchEnd_stable hP | apply State.setSrch_stable hP | apply State.uhfSend_stable hP | apply st_ite (P := P) | rfl) | split

theorem State.authFail_stable (hP : Stable P)  {s : State} (h_s : P s) : P (State.authFail s) := by
  unfold State.authFail; (try dsimp only); (try simp only [mk_upd])
  repeat' first | intro _ | with_reducible (first | assumption | apply st_upd hP | apply State.accResult_stable hP | apply State.authFrom_stable hP | apply st_ite (P := P) | rfl) | split

theorem State.accWake_stable (hP : Stable P)  {s : State} (h_s : P s) : P (State.accWake s) := by
  unfold State.accWake; (try dsimp only); (try simp only [mk_upd])
  repeat' first | intro _ | with_reducible (first | assumption | apply st_upd hP | apply State.accCause_stable hP | apply State.raiseSource_stable hP | apply State.setAcc_stable hP | apply State.setSrch_stable hP | apply st_ite (P := P) | apply st_foldl (P := P) | rfl) | split

theorem State.searchBegin_stable (hP : Stable P) (tries : Nat) {s : State} (h_s : P s) : P (State.searchBegin s tries) := by
  unfold State.searchBegin; (try dsimp only); (try simp only [mk_upd])
  repeat' first | intro _ | with_reducible (first | assumption | apply st_upd hP | apply State.setAcc_stable hP | apply st_ite (P := P) | rfl) | split

theorem State.slotCollides_stable (hP : Stable P) (slot : Nat) {s : State} (h_s : P s) : P (State.slotCollides s slot) := by
  unfold State.slotCollides; (try dsimp only); (try simp only [mk_upd])
  repeat' first | intro _ | with_reducible (first | assumption | apply st_upd hP | apply State.accLog_stable hP | apply State.setSrch_stable hP | apply st_ite (P := P) | rfl) | split

theorem State.slotsEnd_stable (hP : Stable P) (slot : Nat) {s : State} (h_s : P s) : P (State.slotsEnd s slot) := by
  unfold State.slotsEnd; (try dsimp only); (try simp only [mk_upd])
  repeat' first | intro _ | with_reducible (first | assumption | apply st_upd hP | apply State.accResult_stable hP | apply State.raiseSource_stable hP | apply State.setSrch_stable hP | apply st_ite (P := P) | apply st_foldl (P := P) | rfl) | split

theorem State.accSlots_stable (hP : Stable P)  {s : State} (h_s : P s) : P (State.accSlots s) := by
  unfold State.accSlots; (try dsimp only)
  repeat' first | intro _ | with_reducible (first | assumption | apply State.slotsEnd_stable hP | apply st_ite (P := P)) | split

theorem State.slotIrq_stable (hP : Stable P) (slot : Nat) {s : State} (h_s : P s) : P (State.slotIrq s slot) := by
  unfold State.slotIrq; (try dsimp only); (try simp only [mk_upd])
  repeat' first | intro _ | with_reducible (first | assumption | apply st_upd hP | apply State.setSrch_stable hP | apply State.slotCollides_stable hP | apply st_ite (P := P) | rfl) | split

theorem State.offerPermit_stable (hP : Stable P) (m : CanMsg) {s : State} (h_s : P s) : P (State.offerPermit s m) := by
  unfold State.offerPermit; (try dsimp only); (try simp only [mk_upd])
  repeat' first | intro _ | with_reducible (first | assumption | apply st_upd hP | apply State.raiseSource_stable hP | apply State.setCan_stable hP | apply st_ite (P := P) | rfl) | split

theorem State.permitSpent_stable (hP : Stable P)  {s : State} (h_s : P s) : P (State.permitSpent s) := by
  unfold State.permitSpent; (try dsimp only); (try simp only [mk_upd])
  repeat' first | intro _ | with_reducible (first | assumption | apply st_upd hP | apply State.raiseSource_stable hP | apply State.setAcc_stable hP | apply st_ite (P := P) | rfl) | split

theorem State.permitSend_stable (hP : Stable P) (p : Permit) (type : Nat) {s : State} (h_s : P s) : P (State.permitSend s p type) := by
  unfold State.permitSend; (try dsimp only); (try simp only [mk_upd])
  repeat' first | intro _ | with_reducible (first | assumption | apply st_upd hP | apply State.offerPermit_stable hP | apply State.permitSpent_stable hP | apply State.raiseSource_stable hP | apply State.setAcc_stable hP | apply st_ite (P := P) | rfl) | split

theorem State.accCut_stable (hP : Stable P)  {s : State} (h_s : P s) : P (State.accCut s) := by
  unfold State.accCut; (try dsimp only); (try simp only [mk_upd])
  repeat' first | intro _ | with_reducible (first | assumption | apply st_upd hP | apply State.accCause_stable hP | apply State.setAcc_stable hP | apply st_ite (P := P) | rfl) | split

theorem State.accStop_stable (hP : Stable P)  {s : State} (h_s : P s) : P (State.accStop s) := by
  unfold State.accStop; (try dsimp only); (try simp only [mk_upd])
  repeat' first | intro _ | with_reducible (first | assumption | apply st_upd hP | apply State.accCut_stable hP | apply State.setAcc_stable hP | apply st_ite (P := P) | rfl) | split

theorem State.accStart_stable (hP : Stable P)  {s : State} (h_s : P s) : P (State.accStart s) := by
  unfold State.accStart; (try dsimp only)
  repeat' first | intro _ | with_reducible (first | assumption | apply State.setFld_stable hP | apply st_ite (P := P)) | split

theorem execSearchStart_stable (hP : Stable P)  {s : State} (h_s : P s) : OfOut P (execSearchStart s) := by
  unfold execSearchStart; (try dsimp only)
  repeat' first | intro _ | with_reducible (first | assumption | apply State.advance_stable hP | apply State.searchBegin_stable hP | apply of_oite (P := P) | apply of_next (P := P) | apply of_fault (P := P)) | split

theorem execRetrySearch_stable (hP : Stable P)  {s : State} (h_s : P s) : OfOut P (execRetrySearch s) := by
  unfold execRetrySearch; (try dsimp only)
  repeat' first | intro _ | with_reducible (first | assumption | apply State.advance_stable hP | apply State.searchBegin_stable hP | apply of_oite (P := P) | apply of_next (P := P) | apply of_fault (P := P)) | split

theorem execLfTelegramEnd_stable (hP : Stable P) (w : World) {s : State} (h_s : P s) : OfOut P (execLfTelegramEnd w s) := by
  unfold execLfTelegramEnd; (try dsimp only); (try simp only [mk_upd])
  repeat' first | intro _ | with_reducible (first | assumption | apply st_upd hP | apply State.accWake_stable hP | apply State.advance_stable hP | apply State.observe_stable hP | apply State.setSrch_stable hP | apply of_oite (P := P) | apply of_next (P := P) | apply of_fault (P := P) | rfl) | split

theorem execAerialShort_stable (hP : Stable P) (a : Fin 6) (amps : Int) {s : State} (h_s : P s) : OfOut P (execAerialShort a amps s) := by
  unfold execAerialShort; (try dsimp only); (try simp only [mk_upd])
  repeat' first | intro _ | with_reducible (first | assumption | apply st_upd hP | apply State.accCause_stable hP | apply State.raiseSource_stable hP | apply State.setAcc_stable hP | apply of_oite (P := P) | apply of_next (P := P) | apply of_fault (P := P) | rfl) | split

theorem State.replyTaken_stable (hP : Stable P) (after : Nat) (slot : Nat) (packet : Bytes) {s : State} (h_s : P s) : P (State.replyTaken s after slot packet) := by
  unfold State.replyTaken; (try dsimp only); (try simp only [mk_upd])
  repeat' first | intro _ | with_reducible (first | assumption | apply st_upd hP | apply State.setSrch_stable hP | apply st_ite (P := P) | rfl) | split

theorem execTokenReply_stable (hP : Stable P) (after : Nat) (packet : List Nat) {s : State} (h_s : P s) : OfOut P (execTokenReply after packet s) := by
  unfold execTokenReply; (try dsimp only)
  repeat' first | intro _ | with_reducible (first | assumption | apply State.advance_stable hP | apply State.replyTaken_stable hP | apply State.slotCollides_stable hP | apply State.slotIrq_stable hP | apply State.slotsEnd_stable hP | apply State.uhfRead_stable hP | apply of_oite (P := P) | apply of_next (P := P) | apply of_fault (P := P)) | split

theorem execReplyWindowClose_stable (hP : Stable P)  {s : State} (h_s : P s) : OfOut P (execReplyWindowClose s) := by
  unfold execReplyWindowClose; (try dsimp only); (try simp only [mk_upd])
  repeat' first | intro _ | with_reducible (first | assumption | apply st_upd hP | apply State.advance_stable hP | apply State.authFrom_stable hP | apply State.setSrch_stable hP | apply State.slotsEnd_stable hP | apply of_oite (P := P) | apply of_next (P := P) | apply of_fault (P := P) | rfl) | split

theorem execMemReceived_stable (hP : Stable P) (packet : List Nat) {s : State} (h_s : P s) : OfOut P (execMemReceived packet s) := by
  unfold execMemReceived; (try dsimp only); (try simp only [mk_upd])
  repeat' first | intro _ | with_reducible (first | assumption | apply st_upd hP | apply State.accResult_stable hP | apply State.authFail_stable hP | apply State.searchEnd_stable hP | apply State.setSrch_stable hP | apply State.uhfRead_stable hP | apply of_oite (P := P) | apply of_next (P := P) | apply of_fault (P := P) | rfl) | split

theorem execMemTimeout_stable (hP : Stable P)  {s : State} (h_s : P s) : OfOut P (execMemTimeout s) := by
  unfold execMemTimeout; (try dsimp only)
  repeat' first | intro _ | with_reducible (first | assumption | apply State.advance_stable hP | apply State.authFail_stable hP | apply of_oite (P := P) | apply of_next (P := P) | apply of_fault (P := P)) | split

theorem State.accGrant_stable (hP : Stable P)  {s : State} (h_s : P s) : P (State.accGrant s) := by
  unfold State.accGrant; (try dsimp only); (try simp only [mk_upd])
  repeat' first | intro _ | with_reducible (first | assumption | apply st_upd hP | apply State.accCause_stable hP | apply State.accDone_stable hP | apply State.accLog_stable hP | apply State.accResult_stable hP | apply State.permitSpent_stable hP | apply State.searchEnd_stable hP | apply State.setAcc_stable hP | apply st_ite (P := P) | apply st_foldl (P := P) | rfl) | split

theorem State.permitAllow_stable (hP : Stable P)  {s : State} (h_s : P s) : P (State.permitAllow s) := by
  unfold State.permitAllow; (try dsimp only); (try simp only [mk_upd])
  repeat' first | intro _ | with_reducible (first | assumption | apply st_upd hP | apply State.permitSend_stable hP | apply State.setAcc_stable hP | apply st_ite (P := P) | rfl) | split

theorem State.retryEdge_stable (hP : Stable P)  {s : State} (h_s : P s) : P (State.retryEdge s) := by
  unfold State.retryEdge; (try dsimp only); (try simp only [mk_upd])
  repeat' first | intro _ | with_reducible (first | assumption | apply st_upd hP | apply State.accOver_stable hP | apply State.setSrch_stable hP | apply st_ite (P := P) | rfl) | split

theorem State.accEdge_stable (hP : Stable P)  {s : State} (h_s : P s) : P (State.accEdge s) := by
  unfold State.accEdge; (try dsimp only)
  repeat' first | intro _ | with_reducible (first | assumption | apply State.accGrant_stable hP | apply State.accWake_stable hP | apply State.permitAllow_stable hP | apply State.retryEdge_stable hP | apply st_ite (P := P)) | split

theorem State.accDemand_stable (hP : Stable P)  {s : State} (h_s : P s) : P (State.accDemand s) := by
  unfold State.accDemand; (try dsimp only)
  repeat' first | intro _ | with_reducible (first | assumption | apply State.demandOrLock_stable hP | apply st_ite (P := P)) | split

theorem State.accRecords_stable (hP : Stable P)  {s : State} (h_s : P s) : P (State.accRecords s) := by
  unfold State.accRecords; (try dsimp only); (try simp only [mk_upd])
  repeat' first | intro _ | with_reducible (first | assumption | apply st_upd hP | apply State.putIn_stable hP | apply st_ite (P := P) | apply st_foldl (P := P) | rfl) | split

theorem State.accClear_stable (hP : Stable P)  {s : State} (h_s : P s) : P (State.accClear s) := by
  unfold State.accClear; (try dsimp only); (try simp only [mk_upd])
  repeat' first | intro _ | with_reducible (first | assumption | apply st_upd hP | apply State.setAcc_stable hP | apply st_ite (P := P) | rfl) | split

theorem State.accLost_stable (hP : Stable P)  {s : State} (h_s : P s) : P (State.accLost s) := by
  unfold State.accLost; (try dsimp only)
  repeat' first | intro _ | with_reducible (first | assumption | apply State.accCut_stable hP | apply st_ite (P := P)) | split

theorem execReleaseEnd_stable (hP : Stable P)  {s : State} (h_s : P s) : OfOut P (execReleaseEnd s) := by
  unfold execReleaseEnd; (try dsimp only); (try simp only [mk_upd])
  repeat' first | intro _ | with_reducible (first | assumption | apply st_upd hP | apply State.diagAgain_stable hP | apply State.hbAgain_stable hP | apply State.refreshOut_stable hP | apply State.setAcc_stable hP | apply of_oite (P := P) | apply of_next (P := P) | apply of_fault (P := P) | apply st_foldl (P := P) | rfl) | split

theorem execPermitFrame_stable (hP : Stable P)  {s : State} (h_s : P s) : OfOut P (execPermitFrame s) := by
  unfold execPermitFrame; (try dsimp only); (try simp only [mk_upd])
  repeat' first | intro _ | with_reducible (first | assumption | apply st_upd hP | apply State.advance_stable hP | apply State.permitSend_stable hP | apply State.setAcc_stable hP | apply of_oite (P := P) | apply of_next (P := P) | apply of_fault (P := P) | rfl) | split

theorem execPermitEnd_stable (hP : Stable P)  {s : State} (h_s : P s) : OfOut P (execPermitEnd s) := by
  unfold execPermitEnd; (try dsimp only); (try simp only [mk_upd])
  repeat' first | intro _ | with_reducible (first | assumption | apply st_upd hP | apply State.advance_stable hP | apply State.permitSend_stable hP | apply State.setAcc_stable hP | apply of_oite (P := P) | apply of_next (P := P) | apply of_fault (P := P) | rfl) | split

theorem State.buttonReject_stable (hP : Stable P) (tid : Nat) (badMac : Bool) {s : State} (h_s : P s) : P (State.buttonReject s tid badMac) := by
  unfold State.buttonReject; (try dsimp only)
  repeat' first | intro _ | with_reducible (first | assumption | apply State.accLog_stable hP | apply State.raiseSource_stable hP | apply st_ite (P := P)) | split

theorem State.buttonAccept_stable (hP : Stable P) (t : Nat) (tid : Nat) (cnt : Nat) (btn : Nat) {s : State} (h_s : P s) : P (State.buttonAccept s t tid cnt btn) := by
  unfold State.buttonAccept; (try dsimp only); (try simp only [mk_upd])
  repeat' first | intro _ | with_reducible (first | assumption | apply st_upd hP | apply State.accCause_stable hP | apply State.accLog_stable hP | apply State.setAcc_stable hP | apply State.setFld_stable hP | apply st_ite (P := P) | rfl) | split

theorem State.buttonCount_stable (hP : Stable P) (t : Nat) (tid : Nat) (cnt : Nat) (btn : Nat) {s : State} (h_s : P s) : P (State.buttonCount s t tid cnt btn) := by
  unfold State.buttonCount; (try dsimp only); (try simp only [mk_upd])
  repeat' first | intro _ | with_reducible (first | assumption | apply st_upd hP | apply State.buttonAccept_stable hP | apply State.buttonReject_stable hP | apply State.setAcc_stable hP | apply State.setFld_stable hP | apply st_ite (P := P) | rfl) | split

theorem State.slotTaken_stable (hP : Stable P) (packet : Bytes) {s : State} (h_s : P s) : P (State.slotTaken s packet) := by
  unfold State.slotTaken; (try dsimp only)
  repeat' first | intro _ | with_reducible (first | assumption | apply State.slotCollides_stable hP | apply State.slotIrq_stable hP | apply State.slotsEnd_stable hP | apply st_ite (P := P)) | split

theorem execButtonPacket_stable (hP : Stable P) (packet : List Nat) {s : State} (h_s : P s) : OfOut P (execButtonPacket packet s) := by
  unfold execButtonPacket; (try dsimp only); (try simp only [mk_upd])
  repeat' first | intro _ | with_reducible (first | assumption | apply st_upd hP | apply State.buttonCount_stable hP | apply State.buttonReject_stable hP | apply State.slotTaken_stable hP | apply State.uhfRead_stable hP | apply of_oite (P := P) | apply of_next (P := P) | apply of_fault (P := P) | rfl) | split

theorem State.urawAccess_stable (hP : Stable P) (w : Option Word) (back : Nat) {s : State} (h_s : P s) : P (State.urawAccess s w back) := by
  unfold State.urawAccess; (try dsimp only); (try simp only [mk_upd])
  repeat' first | intro _ | with_reducible (first | assumption | apply st_upd hP | apply State.setBit_stable hP | apply State.setFld_stable hP | apply st_ite (P := P) | rfl) | split

theorem execUrawAccess_stable (hP : Stable P) (w : Option Word) (back : Nat) {s : State} (h_s : P s) : OfOut P (execUrawAccess w back s) := by
  unfold execUrawAccess; (try dsimp only)
  repeat' first | intro _ | with_reducible (first | assumption | apply State.store_stable hP | apply State.urawAccess_stable hP | apply of_oite (P := P) | apply of_next (P := P) | apply of_fault (P := P) | apply st_ite (P := P)) | split

theorem State.pepochWrite_stable (hP : Stable P) (w : Word) (job : Bool) {s : State} (h_s : P s) : P (State.pepochWrite s w job) := by
  unfold State.pepochWrite; (try dsimp only); (try simp only [mk_upd])
  repeat' first | intro _ | with_reducible (first | assumption | apply st_upd hP | apply State.setAcc_stable hP | apply State.setBit_stable hP | apply State.setFld_stable hP | apply st_ite (P := P) | rfl) | split

theorem execPepochWrite_stable (hP : Stable P) (w : Word) (job : Bool) {s : State} (h_s : P s) : OfOut P (execPepochWrite w job s) := by
  unfold execPepochWrite; (try dsimp only)
  repeat' first | intro _ | with_reducible (first | assumption | apply State.pepochWrite_stable hP | apply State.store_stable hP | apply of_oite (P := P) | apply of_next (P := P) | apply of_fault (P := P) | apply st_ite (P := P)) | split

theorem State.setSil_stable (hP : Stable P) (f : Sil → Sil) {s : State} (h_s : P s) : P (State.setSil s f) := by
  unfold State.setSil; (try dsimp only); (try simp only [mk_upd])
  repeat' first | intro _ | with_reducible (first | assumption | apply st_upd hP | apply st_ite (P := P) | rfl) | split

theorem State.setGen_stable (hP : Stable P) (r : Nat) (g : Nat) (x : SilGen) {s : State} (h_s : P s) : P (State.setGen s r g x) := by
  unfold State.setGen; (try dsimp only); (try simp only [mk_upd])
  repeat' first | intro _ | with_reducible (first | assumption | apply st_upd hP | apply State.setSil_stable hP | apply st_ite (P := P) | rfl) | split

theorem State.storeShadow_stable (hP : Stable P) (r : Nat) (e : Ecc) {s : State} (h_s : P s) : P (State.storeShadow s r e) := by
  unfold State.storeShadow; (try dsimp only); (try simp only [mk_upd])
  repeat' first | intro _ | with_reducible (first | assumption | apply st_upd hP | apply State.fresh_stable hP | apply State.setSil_stable hP | apply st_ite (P := P) | refine st_snd (P := P) (by assumption) ?_ | rfl) | split

theorem State.shadowSource_stable (hP : Stable P) (r : Nat) (e : Ecc) {s : State} (h_s : P s) : P (State.shadowSource s r e) := by
  unfold State.shadowSource; (try dsimp only); (try simp only [mk_upd])
  repeat' first | intro _ | with_reducible (first | assumption | apply st_upd hP | apply State.raiseSource_stable hP | apply st_ite (P := P) | rfl) | split

theorem State.takeShadowOf_stable (hP : Stable P) (r : Nat) (e : Ecc) {s : State} (h_s : P s) : P (State.takeShadowOf s r e) := by
  unfold State.takeShadowOf; (try dsimp only)
  repeat' first | intro _ | with_reducible (first | assumption | apply State.shadowSource_stable hP | apply State.storeShadow_stable hP | apply st_ite (P := P)) | split

end Sys2Proof.Machine
end

