-- ==== Sys2Proof/Laws/StableOps3.lean ====
section
/-!
SUPPORT. Every operation keeps a stable property: SecOps, Sec, Gleaner, Silo, Granary, Slots, Views, PowerOps, Power, CoreCtl, Bus, Host.
-/

set_option linter.all false
set_option maxHeartbeats 400000

namespace Sys2Proof.Machine

variable {P : State → Prop}

theorem State.setSec_stable (hP : Stable P) (f : Sec → Sec) {s : State} (h_s : P s) : P (State.setSec s f) := by
  unfold State.setSec; (try dsimp only); (try simp only [mk_upd])
  repeat' first | intro _ | with_reducible (first | assumption | apply st_upd hP | apply st_ite (P := P) | rfl) | split

theorem State.nextGen_stable (hP : Stable P) (k : Nat) {s : State} (h_s : P s) : P (State.nextGen s k) := by
  unfold State.nextGen; (try dsimp only)
  repeat' first | intro _ | with_reducible (first | assumption | apply State.setFld_stable hP | apply st_ite (P := P)) | split

theorem State.eraseKey_stable (hP : Stable P) (k : Nat) {s : State} (h_s : P s) : P (State.eraseKey s k) := by
  unfold State.eraseKey; (try dsimp only); (try simp only [mk_upd])
  repeat' first | intro _ | with_reducible (first | assumption | apply st_upd hP | apply State.nextGen_stable hP | apply State.setFld_stable hP | apply State.setSec_stable hP | apply st_ite (P := P) | rfl) | split

theorem State.loadKey_stable (hP : Stable P) (k : Nat) (type : Nat) (use : Nat) (key : Bytes) {s : State} (h_s : P s) : P (State.loadKey s k type use key) := by
  unfold State.loadKey; (try dsimp only); (try simp only [mk_upd])
  repeat' first | intro _ | with_reducible (first | assumption | apply st_upd hP | apply State.nextGen_stable hP | apply State.setFld_stable hP | apply State.setSec_stable hP | apply st_ite (P := P) | rfl) | split

theorem State.loadDeviceKeys_stable (hP : Stable P)  {s : State} (h_s : P s) : P (State.loadDeviceKeys s) := by
  unfold State.loadDeviceKeys; (try dsimp only)
  repeat' first | intro _ | with_reducible (first | assumption | apply State.loadKey_stable hP | apply st_ite (P := P)) | split

theorem State.secLost_stable (hP : Stable P)  {s : State} (h_s : P s) : P (State.secLost s) := by
  unfold State.secLost; (try dsimp only); (try simp only [mk_upd])
  repeat' first | intro _ | with_reducible (first | assumption | apply st_upd hP | apply State.eraseKey_stable hP | apply State.loadDeviceKeys_stable hP | apply State.setSec_stable hP | apply st_ite (P := P) | apply st_forEach (P := P) | rfl) | split

theorem State.secStray_stable (hP : Stable P) (w : Nat) (write : Bool) {s : State} (h_s : P s) : P (State.secStray s w write) := by
  unfold State.secStray; (try dsimp only)
  repeat' first | intro _ | with_reducible (first | assumption | apply State.strayAccess_stable hP | apply st_ite (P := P)) | split

theorem State.secReadWords_stable (hP : Stable P) (e : Ecc) (y0 : List Nat) {s : State} (h_s : P s) : P ((State.secReadWords s e y0)).2 := by
  induction y0 generalizing s e with
  | nil => exact h_s
  | cons w l ih =>
    unfold State.secReadWords
    dsimp only
    split
    · exact ih _ (State.grnRead_stable hP _ _ _ h_s)
    · exact State.secStray_stable hP _ _ h_s

theorem State.secRead_stable (hP : Stable P) (a : Nat) (n : Nat) (e : Ecc) {s : State} (h_s : P s) : P ((State.secRead s a n e)).2 := by
  unfold State.secRead; (try dsimp only)
  repeat' first | intro _ | with_reducible (first | assumption | apply State.secReadWords_stable hP | apply st_ite (P := P) | apply st_pite (P := P) | refine st_snd (P := P) (by assumption) ?_) | split

theorem State.secWriteWords_stable (hP : Stable P) (y0 : List (Nat × Word)) {s : State} (h_s : P s) : P ((State.secWriteWords s y0)).2 := by
  induction y0 generalizing s with
  | nil => exact h_s
  | cons w l ih =>
    unfold State.secWriteWords
    split
    · exact ih (State.grnWrite_stable hP _ _ _ h_s)
    · exact State.secStray_stable hP _ _ h_s

theorem State.secWrite_stable (hP : Stable P) (a : Nat) (b : Bytes) {s : State} (h_s : P s) : P ((State.secWrite s a b)).2 := by
  unfold State.secWrite; (try dsimp only); (try simp only [mk_upd])
  repeat' first | intro _ | with_reducible (first | assumption | apply st_upd hP | apply State.secWriteWords_stable hP | apply st_ite (P := P) | apply st_pite (P := P) | refine st_snd (P := P) (by assumption) ?_ | rfl) | split

theorem State.flashProgram_stable (hP : Stable P) (o : Nat) (b : Bytes) {s : State} (h_s : P s) : P (State.flashProgram s o b) := by
  unfold State.flashProgram; (try dsimp only); (try simp only [mk_upd])
  repeat' first | intro _ | with_reducible (first | assumption | apply st_upd hP | apply State.setSec_stable hP | apply st_ite (P := P) | apply st_foldl (P := P) | rfl) | split

theorem State.flashErase_stable (hP : Stable P) (o : Nat) {s : State} (h_s : P s) : P (State.flashErase s o) := by
  unfold State.flashErase; (try dsimp only); (try simp only [mk_upd])
  repeat' first | intro _ | with_reducible (first | assumption | apply st_upd hP | apply State.satInc_stable hP | apply State.setSec_stable hP | apply st_ite (P := P) | rfl) | split

theorem State.imageRefused_stable (hP : Stable P) (status : Nat) {s : State} (h_s : P s) : P ((State.imageRefused s status)).2 := by
  unfold State.imageRefused; (try dsimp only)
  repeat' first | intro _ | with_reducible (first | assumption | apply State.raiseSource_stable hP | apply st_ite (P := P) | apply st_pite (P := P)) | split

theorem State.loadSegWord_stable (hP : Stable P) (kind : Nat) (a : Nat) (w : TWord) {s : State} (h_s : P s) : P (State.loadSegWord s kind a w) := by
  unfold State.loadSegWord; (try dsimp only); (try simp only [mk_upd])
  repeat' first | intro _ | with_reducible (first | assumption | apply st_upd hP | apply hP.mem | apply State.heal_stable hP | apply State.lockAccess_stable hP | apply st_ite (P := P) | rfl) | split

theorem State.loadSegments_stable (hP : Stable P) (segs : List Segment) (payload : Bytes) (good : Bool) {s : State} (h_s : P s) : P (State.loadSegments s segs payload good) := by
  unfold State.loadSegments; (try dsimp only)
  repeat' first | intro _ | with_reducible (first | assumption | apply State.loadSegWord_stable hP | apply st_ite (P := P) | apply st_foldl (P := P)) | split

theorem State.laneTest_stable (hP : Stable P) (c : Nat) {s : State} (h_s : P s) : P (State.laneTest s c) := by
  unfold State.laneTest; (try dsimp only)
  repeat' first | intro _ | with_reducible (first | assumption | apply State.raiseSource_stable hP | apply st_ite (P := P)) | split

theorem State.laneRebuild_stable (hP : Stable P) (c : Fin 2) {s : State} (h_s : P s) : P (State.laneRebuild s c) := by
  unfold State.laneRebuild; (try dsimp only); (try simp only [mk_upd])
  repeat' first | intro _ | with_reducible (first | assumption | apply st_upd hP | apply State.laneTest_stable hP | apply State.setCore_stable hP | apply st_ite (P := P) | rfl) | split

theorem State.startCore_stable (hP : Stable P) (c : Fin 2) (entry : Option Nat) {s : State} (h_s : P s) : P (State.startCore s c entry) := by
  unfold State.startCore; (try dsimp only); (try simp only [mk_upd])
  repeat' first | intro _ | with_reducible (first | assumption | apply st_upd hP | apply State.setCore_stable hP | apply State.stall_stable hP | apply st_ite (P := P) | rfl) | split

theorem State.coreLost_stable (hP : Stable P) (c : Fin 2) {s : State} (h_s : P s) : P (State.coreLost s c) := by
  unfold State.coreLost; (try dsimp only); (try simp only [mk_upd])
  repeat' first | intro _ | with_reducible (first | assumption | apply st_upd hP | apply hP.lose | apply State.laneTest_stable hP | apply State.setCore_stable hP | apply st_ite (P := P) | rfl) | split

theorem State.bringOn_stable (hP : Stable P) (d : Nat) {s : State} (h_s : P s) : P (State.bringOn s d) := by
  unfold State.bringOn; (try dsimp only); (try simp only [mk_upd])
  repeat' first | intro _ | with_reducible (first | assumption | apply st_upd hP | apply State.setDom_stable hP | apply State.setFld_stable hP | apply st_ite (P := P) | rfl) | split

theorem State.romWakes_stable (hP : Stable P) (d : Nat) {s : State} (h_s : P s) : P (State.romWakes s d) := by
  unfold State.romWakes; (try dsimp only)
  repeat' first | intro _ | with_reducible (first | assumption | apply hP.lose | apply State.bringOn_stable hP | apply State.coreLost_stable hP | apply State.loaderStore_stable hP | apply State.prsLost_stable hP | apply State.secLost_stable hP | apply st_ite (P := P)) | split

theorem State.wakeSegments_stable (hP : Stable P) (segs : List Segment) {s : State} (h_s : P s) : P (State.wakeSegments s segs) := by
  unfold State.wakeSegments; (try dsimp only)
  repeat' first | intro _ | with_reducible (first | assumption | apply State.romWakes_stable hP | apply st_ite (P := P) | apply st_foldl (P := P)) | split

theorem State.pickSettings_stable (hP : Stable P)  {s : State} (h_s : P s) : P (State.pickSettings s) := by
  unfold State.pickSettings; (try dsimp only); (try simp only [mk_upd])
  repeat' first | intro _ | with_reducible (first | assumption | apply st_upd hP | apply hP.reg | apply State.setFld_stable hP | apply st_ite (P := P) | rfl) | split

theorem State.runningImage_stable (hP : Stable P) (i : Nat) (h : Bytes) {s : State} (h_s : P s) : P (State.runningImage s i h) := by
  unfold State.runningImage; (try dsimp only); (try simp only [mk_upd])
  repeat' first | intro _ | with_reducible (first | assumption | apply st_upd hP | apply State.setFld_stable hP | apply State.setSec_stable hP | apply st_ite (P := P) | rfl) | split

theorem State.handOff_stable (hP : Stable P) (i : Nat) {s : State} (h_s : P s) : P (State.handOff s i) := by
  unfold State.handOff; (try dsimp only); (try simp only [mk_upd])
  repeat' first | intro _ | with_reducible (first | assumption | apply st_upd hP | apply hP.reg | apply State.pickSettings_stable hP | apply State.putBit_stable hP | apply State.runningImage_stable hP | apply State.setSec_stable hP | apply State.startCore_stable hP | apply st_ite (P := P) | rfl) | split

theorem State.endJobs_stable (hP : Stable P) (c : Fin 2) {s : State} (h_s : P s) : P (State.endJobs s c) := by
  unfold State.endJobs; (try dsimp only)
  repeat' first | intro _ | with_reducible (first | assumption | apply State.setJob_stable hP | apply st_ite (P := P) | apply st_foldl (P := P)) | split

theorem State.stopForRecovery_stable (hP : Stable P) (c : Fin 2) {s : State} (h_s : P s) : P (State.stopForRecovery s c) := by
  unfold State.stopForRecovery; (try dsimp only); (try simp only [mk_upd])
  repeat' first | intro _ | with_reducible (first | assumption | apply st_upd hP | apply State.abandonAll_stable hP | apply State.endJobs_stable hP | apply State.setCore_stable hP | apply State.startCore_stable hP | apply st_ite (P := P) | rfl) | split

theorem State.enterRecovery_stable (hP : Stable P) (atBoot : Bool) {s : State} (h_s : P s) : P (State.enterRecovery s atBoot) := by
  unfold State.enterRecovery; (try dsimp only); (try simp only [mk_upd])
  repeat' first | intro _ | with_reducible (first | assumption | apply st_upd hP | apply State.driveSafe_stable hP | apply State.setBit_stable hP | apply State.setSec_stable hP | apply State.stopForRecovery_stable hP | apply st_ite (P := P) | rfl) | split

theorem State.submit_stable (hP : Stable P) (d : List TWord) (slot : Nat) {s : State} (h_s : P s) : P ((State.submit s d slot)).2 := by
  unfold State.submit; (try dsimp only); (try simp only [mk_upd])
  repeat' first | intro _ | with_reducible (first | assumption | apply st_upd hP | apply State.setFld_stable hP | apply State.setSec_stable hP | apply st_ite (P := P) | apply st_pite (P := P) | rfl) | split

theorem State.jobRan_stable (hP : Stable P) (j : Nat) (status : Nat) {s : State} (h_s : P s) : P (State.jobRan s j status) := by
  unfold State.jobRan; (try dsimp only); (try simp only [mk_upd])
  repeat' first | intro _ | with_reducible (first | assumption | apply st_upd hP | apply State.setSec_stable hP | apply st_ite (P := P) | rfl) | split

theorem State.runJob_stable (hP : Stable P) (j : Nat) (op : Nat) (f : CJob → State → Nat × State) {s : State} (h_s : P s) (h_f : ∀ x0 x1, P x1 → P ((f x0 x1)).2) : OfOut P (State.runJob s j op f) := by
  unfold State.runJob; (try dsimp only); (try simp only [mk_upd])
  repeat' first | intro _ | with_reducible (first | assumption | apply st_upd hP | apply State.demand_stable hP | apply State.demandOrLock_stable hP | apply State.jobRan_stable hP | apply h_f | apply of_oite (P := P) | apply of_next (P := P) | apply of_fault (P := P) | rfl) | split

theorem State.withBytes_stable (hP : Stable P) (a : Nat) (n : Nat) (e : Ecc) (f : Bytes → State → Nat × State) {s : State} (h_s : P s) (h_f : ∀ x0 x1, P x1 → P ((f x0 x1)).2) : P ((State.withBytes s a n e f)).2 := by
  unfold State.withBytes; (try dsimp only); (try simp only [mk_upd])
  repeat' first | intro _ | with_reducible (first | assumption | apply st_upd hP | apply State.secRead_stable hP | apply h_f | apply st_ite (P := P) | apply st_pite (P := P) | refine st_snd (P := P) (by assumption) ?_ | rfl) | split

theorem State.putBytes_stable (hP : Stable P) (a : Nat) (b : Bytes) {s : State} (h_s : P s) : P ((State.putBytes s a b)).2 := by
  unfold State.putBytes; (try dsimp only)
  repeat' first | intro _ | with_reducible (first | assumption | apply State.secWrite_stable hP | apply st_ite (P := P) | apply st_pite (P := P) | refine st_snd (P := P) (by assumption) ?_) | split

theorem State.withKey_stable (hP : Stable P) (k : Nat) (u : Nat) (f : State → Nat × State) {s : State} (h_s : P s) (h_f : ∀ x0, P x0 → P ((f x0)).2) : P ((State.withKey s k u f)).2 := by
  unfold State.withKey; (try dsimp only)
  repeat' first | intro _ | with_reducible (first | assumption | apply h_f | apply st_ite (P := P) | apply st_pite (P := P)) | split

theorem execAesCtr_stable (hP : Stable P) (j : Fin 16) (e : Ecc) {s : State} (h_s : P s) : OfOut P (execAesCtr j e s) := by
  unfold execAesCtr; (try dsimp only)
  repeat' first | intro _ | with_reducible (first | assumption | apply State.putBytes_stable hP | apply State.runJob_stable hP | apply State.withBytes_stable hP | apply State.withKey_stable hP | apply of_oite (P := P) | apply of_next (P := P) | apply of_fault (P := P) | apply st_ite (P := P) | refine st_snd (P := P) (by assumption) ?_ | refine st_next (P := P) (by assumption) ?_) | split

theorem State.drawBytes_stable (hP : Stable P) (n : Nat) {s : State} (h_s : P s) : P ((State.drawBytes s n)).2 := by
  unfold State.drawBytes; (try dsimp only); (try simp only [mk_upd])
  repeat' first | intro _ | with_reducible (first | assumption | apply st_upd hP | apply st_ite (P := P) | apply st_pite (P := P) | rfl) | split

theorem execGcmEnc_stable (hP : Stable P) (j : Fin 16) (e : Ecc) {s : State} (h_s : P s) : OfOut P (execGcmEnc j e s) := by
  unfold execGcmEnc; (try dsimp only)
  repeat' first | intro _ | with_reducible (first | assumption | apply State.drawBytes_stable hP | apply State.putBytes_stable hP | apply State.runJob_stable hP | apply State.withBytes_stable hP | apply State.withKey_stable hP | apply of_oite (P := P) | apply of_next (P := P) | apply of_fault (P := P) | apply st_ite (P := P) | refine st_snd (P := P) (by assumption) ?_ | refine st_next (P := P) (by assumption) ?_) | split

theorem execGcmDec_stable (hP : Stable P) (j : Fin 16) (e : Ecc) {s : State} (h_s : P s) : OfOut P (execGcmDec j e s) := by
  unfold execGcmDec; (try dsimp only)
  repeat' first | intro _ | with_reducible (first | assumption | apply State.putBytes_stable hP | apply State.runJob_stable hP | apply State.withBytes_stable hP | apply State.withKey_stable hP | apply of_oite (P := P) | apply of_next (P := P) | apply of_fault (P := P) | apply st_ite (P := P) | refine st_snd (P := P) (by assumption) ?_ | refine st_next (P := P) (by assumption) ?_) | split

theorem execCmac_stable (hP : Stable P) (j : Fin 16) (e : Ecc) {s : State} (h_s : P s) : OfOut P (execCmac j e s) := by
  unfold execCmac; (try dsimp only)
  repeat' first | intro _ | with_reducible (first | assumption | apply State.putBytes_stable hP | apply State.runJob_stable hP | apply State.withBytes_stable hP | apply State.withKey_stable hP | apply of_oite (P := P) | apply of_next (P := P) | apply of_fault (P := P) | apply st_ite (P := P) | refine st_snd (P := P) (by assumption) ?_ | refine st_next (P := P) (by assumption) ?_) | split

theorem execCmacVer_stable (hP : Stable P) (j : Fin 16) (e : Ecc) {s : State} (h_s : P s) : OfOut P (execCmacVer j e s) := by
  unfold execCmacVer; (try dsimp only)
  repeat' first | intro _ | with_reducible (first | assumption | apply State.runJob_stable hP | apply State.withBytes_stable hP | apply State.withKey_stable hP | apply of_oite (P := P) | apply of_next (P := P) | apply of_fault (P := P) | apply st_ite (P := P) | refine st_next (P := P) (by assumption) ?_ | refine st_snd (P := P) (by assumption) ?_) | split

theorem execSha256_stable (hP : Stable P) (j : Fin 16) (e : Ecc) {s : State} (h_s : P s) : OfOut P (execSha256 j e s) := by
  unfold execSha256; (try dsimp only)
  repeat' first | intro _ | with_reducible (first | assumption | apply State.putBytes_stable hP | apply State.runJob_stable hP | apply State.withBytes_stable hP | apply of_oite (P := P) | apply of_next (P := P) | apply of_fault (P := P) | apply st_ite (P := P) | refine st_snd (P := P) (by assumption) ?_ | refine st_next (P := P) (by assumption) ?_) | split

theorem slhVerFrom_stable (hP : Stable P) (n : Nat) (g : Bytes → Bytes → Nat) (j : Fin 16) (e : Ecc) {s : State} (h_s : P s) :
    OfOut P (s.runJob j 0x07 (fun x t => t.withBytes x.aux n .clean (fun a t => t.withBytes x.src x.len e (fun b t => (g a b, t))))) :=
  State.runJob_stable hP _ _ _ h_s (fun x t h => State.withBytes_stable hP _ n _ _ h (fun _ u hu =>
    State.withBytes_stable hP _ _ _ _ hu (fun _ v hv => hv)))

theorem execSlhVer_stable (hP : Stable P) (j : Fin 16) (e : Ecc) {s : State} (h_s : P s) : OfOut P (execSlhVer j e s) :=
  slhVerFrom_stable hP (32 + 7856) (fun a b => if slhVerify slh128s (a.take 16) (sub a 16 16) b (a.drop 32) then 0 else 6) j e h_s

theorem execAttest_stable (hP : Stable P) (j : Fin 16) (e : Ecc) {s : State} (h_s : P s) : OfOut P (execAttest j e s) := by
  unfold execAttest; (try dsimp only)
  repeat' first | intro _ | with_reducible (first | assumption | apply State.drawBytes_stable hP | apply State.putBytes_stable hP | apply State.runJob_stable hP | apply State.withBytes_stable hP | apply of_oite (P := P) | apply of_next (P := P) | apply of_fault (P := P) | apply st_ite (P := P) | refine st_snd (P := P) (by assumption) ?_ | refine st_next (P := P) (by assumption) ?_) | split

theorem execIdpk_stable (hP : Stable P) (j : Fin 16) {s : State} (h_s : P s) : OfOut P (execIdpk j s) := by
  unfold execIdpk; (try dsimp only)
  repeat' first | intro _ | with_reducible (first | assumption | apply State.putBytes_stable hP | apply State.runJob_stable hP | apply of_oite (P := P) | apply of_next (P := P) | apply of_fault (P := P) | apply st_ite (P := P) | refine st_snd (P := P) (by assumption) ?_ | refine st_next (P := P) (by assumption) ?_) | split

theorem execRandom_stable (hP : Stable P) (j : Fin 16) {s : State} (h_s : P s) : OfOut P (execRandom j s) := by
  unfold execRandom; (try dsimp only)
  repeat' first | intro _ | with_reducible (first | assumption | apply State.drawBytes_stable hP | apply State.putBytes_stable hP | apply State.runJob_stable hP | apply of_oite (P := P) | apply of_next (P := P) | apply of_fault (P := P) | apply st_ite (P := P) | refine st_snd (P := P) (by assumption) ?_ | refine st_next (P := P) (by assumption) ?_) | split

theorem execKload_stable (hP : Stable P) (j : Fin 16) (e : Ecc) {s : State} (h_s : P s) : OfOut P (execKload j e s) := by
  unfold execKload; (try dsimp only)
  repeat' first | intro _ | with_reducible (first | assumption | apply State.loadKey_stable hP | apply State.runJob_stable hP | apply State.withBytes_stable hP | apply of_oite (P := P) | apply of_next (P := P) | apply of_fault (P := P) | apply st_ite (P := P) | refine st_next (P := P) (by assumption) ?_ | refine st_snd (P := P) (by assumption) ?_) | split

theorem execKerase_stable (hP : Stable P) (j : Fin 16) {s : State} (h_s : P s) : OfOut P (execKerase j s) := by
  unfold execKerase; (try dsimp only)
  repeat' first | intro _ | with_reducible (first | assumption | apply State.eraseKey_stable hP | apply State.runJob_stable hP | apply of_oite (P := P) | apply of_next (P := P) | apply of_fault (P := P) | apply st_ite (P := P) | refine st_next (P := P) (by assumption) ?_) | split

theorem execKwrap_stable (hP : Stable P) (j : Fin 16) {s : State} (h_s : P s) : OfOut P (execKwrap j s) := by
  unfold execKwrap; (try dsimp only)
  repeat' first | intro _ | with_reducible (first | assumption | apply State.drawBytes_stable hP | apply State.putBytes_stable hP | apply State.runJob_stable hP | apply of_oite (P := P) | apply of_next (P := P) | apply of_fault (P := P) | apply st_ite (P := P) | refine st_snd (P := P) (by assumption) ?_ | refine st_next (P := P) (by assumption) ?_) | split

theorem execKunwrap_stable (hP : Stable P) (j : Fin 16) (e : Ecc) {s : State} (h_s : P s) : OfOut P (execKunwrap j e s) := by
  unfold execKunwrap; (try dsimp only); (try simp only [mk_upd])
  repeat' first | intro _ | with_reducible (first | assumption | apply st_upd hP | apply State.loadKey_stable hP | apply State.runJob_stable hP | apply State.withBytes_stable hP | apply of_oite (P := P) | apply of_next (P := P) | apply of_fault (P := P) | apply st_ite (P := P) | refine st_next (P := P) (by assumption) ?_ | refine st_snd (P := P) (by assumption) ?_ | rfl) | split

theorem execXread_stable (hP : Stable P) (j : Fin 16) {s : State} (h_s : P s) : OfOut P (execXread j s) := by
  unfold execXread; (try dsimp only)
  repeat' first | intro _ | with_reducible (first | assumption | apply State.putBytes_stable hP | apply State.runJob_stable hP | apply of_oite (P := P) | apply of_next (P := P) | apply of_fault (P := P) | apply st_ite (P := P) | refine st_snd (P := P) (by assumption) ?_ | refine st_next (P := P) (by assumption) ?_) | split

theorem execXprog_stable (hP : Stable P) (j : Fin 16) (e : Ecc) {s : State} (h_s : P s) : OfOut P (execXprog j e s) := by
  unfold execXprog; (try dsimp only)
  repeat' first | intro _ | with_reducible (first | assumption | apply State.flashProgram_stable hP | apply State.runJob_stable hP | apply State.withBytes_stable hP | apply of_oite (P := P) | apply of_next (P := P) | apply of_fault (P := P) | apply st_ite (P := P) | refine st_next (P := P) (by assumption) ?_ | refine st_snd (P := P) (by assumption) ?_) | split

theorem execXerase_stable (hP : Stable P) (j : Fin 16) {s : State} (h_s : P s) : OfOut P (execXerase j s) := by
  unfold execXerase; (try dsimp only)
  repeat' first | intro _ | with_reducible (first | assumption | apply State.flashErase_stable hP | apply State.runJob_stable hP | apply of_oite (P := P) | apply of_next (P := P) | apply of_fault (P := P) | apply st_ite (P := P) | refine st_next (P := P) (by assumption) ?_) | split

theorem execIverify_stable (hP : Stable P) (j : Fin 16) {s : State} (h_s : P s) : OfOut P (execIverify j s) := by
  unfold execIverify; (try dsimp only)
  repeat' first | intro _ | with_reducible (first | assumption | apply State.imageRefused_stable hP | apply State.runJob_stable hP | apply of_oite (P := P) | apply of_next (P := P) | apply of_fault (P := P) | apply st_ite (P := P) | refine st_snd (P := P) (by assumption) ?_ | refine st_next (P := P) (by assumption) ?_) | split

theorem State.holdCore_stable (hP : Stable P) (c : Fin 2) {s : State} (h_s : P s) : P (State.holdCore s c) := by
  unfold State.holdCore; (try dsimp only); (try simp only [mk_upd])
  repeat' first | intro _ | with_reducible (first | assumption | apply st_upd hP | apply State.setSec_stable hP | apply st_ite (P := P) | rfl) | split

theorem State.hload_stable (hP : Stable P) (c : Fin 2) (i : Nat) (mask : Nat) {s : State} (h_s : P s) : P ((State.hload s c i mask)).2 := by
  unfold State.hload; (try dsimp only); (try simp only [mk_upd])
  repeat' first | intro _ | with_reducible (first | assumption | apply st_upd hP | apply State.holdCore_stable hP | apply State.imageRefused_stable hP | apply State.loadSegments_stable hP | apply State.setSec_stable hP | apply st_ite (P := P) | apply st_pite (P := P) | refine st_snd (P := P) (by assumption) ?_ | rfl) | split

theorem execHload_stable (hP : Stable P) (j : Fin 16) {s : State} (h_s : P s) : OfOut P (execHload j s) := by
  unfold execHload; (try dsimp only); (try simp only [mk_upd])
  repeat' first | intro _ | with_reducible (first | assumption | apply st_upd hP | apply State.demand_stable hP | apply State.hload_stable hP | apply State.runJob_stable hP | apply of_oite (P := P) | apply of_next (P := P) | apply of_fault (P := P) | apply st_ite (P := P) | refine st_snd (P := P) (by assumption) ?_ | refine st_next (P := P) (by assumption) ?_ | rfl) | split

theorem execConfirm_stable (hP : Stable P) (j : Fin 16) {s : State} (h_s : P s) : OfOut P (execConfirm j s) := by
  unfold execConfirm; (try dsimp only)
  repeat' first | intro _ | with_reducible (first | assumption | apply State.flashProgram_stable hP | apply State.runJob_stable hP | apply of_oite (P := P) | apply of_next (P := P) | apply of_fault (P := P) | apply st_ite (P := P) | refine st_next (P := P) (by assumption) ?_) | split

theorem execCryptoJobComplete_stable (hP : Stable P) (j : Fin 16) {s : State} (h_s : P s) : OfOut P (execCryptoJobComplete j s) := by
  unfold execCryptoJobComplete; (try dsimp only); (try simp only [mk_upd])
  repeat' first | intro _ | with_reducible (first | assumption | apply st_upd hP | apply State.raiseEvent_stable hP | apply State.setFld_stable hP | apply of_oite (P := P) | apply of_next (P := P) | apply of_fault (P := P) | rfl) | split

theorem execFlashTimeout_stable (hP : Stable P) (j : Fin 16) {s : State} (h_s : P s) : OfOut P (execFlashTimeout j s) := by
  unfold execFlashTimeout; (try dsimp only); (try simp only [mk_upd])
  repeat' first | intro _ | with_reducible (first | assumption | apply st_upd hP | apply State.holdCore_stable hP | apply State.jobRan_stable hP | apply State.setFld_stable hP | apply State.setSec_stable hP | apply of_oite (P := P) | apply of_next (P := P) | apply of_fault (P := P) | rfl) | split

theorem State.jdoneClear_stable (hP : Stable P) (w : Word) (job : Bool) {s : State} (h_s : P s) : P (State.jdoneClear s w job) := by
  unfold State.jdoneClear; (try dsimp only); (try simp only [mk_upd])
  repeat' first | intro _ | with_reducible (first | assumption | apply st_upd hP | apply State.setBit_stable hP | apply State.setFld_stable hP | apply State.setSec_stable hP | apply st_ite (P := P) | apply st_forEach (P := P) | rfl) | split

theorem execJdoneClear_stable (hP : Stable P) (w : Word) (job : Bool) {s : State} (h_s : P s) : OfOut P (execJdoneClear w job s) := by
  unfold execJdoneClear; (try dsimp only)
  repeat' first | intro _ | with_reducible (first | assumption | apply State.jdoneClear_stable hP | apply State.store_stable hP | apply of_oite (P := P) | apply of_next (P := P) | apply of_fault (P := P) | apply st_ite (P := P)) | split

theorem execTrngHealthFail_stable (hP : Stable P)  {s : State} (h_s : P s) : OfOut P (execTrngHealthFail s) := by
  unfold execTrngHealthFail; (try dsimp only); (try simp only [mk_upd])
  repeat' first | intro _ | with_reducible (first | assumption | apply st_upd hP | apply State.raiseSource_stable hP | apply State.setFld_stable hP | apply State.setSec_stable hP | apply of_oite (P := P) | apply of_next (P := P) | apply of_fault (P := P) | rfl) | split

theorem execTrngHealthPass_stable (hP : Stable P)  {s : State} (h_s : P s) : OfOut P (execTrngHealthPass s) := by
  unfold execTrngHealthPass; (try dsimp only); (try simp only [mk_upd])
  repeat' first | intro _ | with_reducible (first | assumption | apply st_upd hP | apply State.setFld_stable hP | apply State.setSec_stable hP | apply of_oite (P := P) | apply of_next (P := P) | apply of_fault (P := P) | rfl) | split

theorem State.bootFail_stable (hP : Stable P) (i : Nat) {s : State} (h_s : P s) : P (State.bootFail s i) := by
  unfold State.bootFail; (try dsimp only)
  repeat' first | intro _ | with_reducible (first | assumption | apply State.setFld_stable hP | apply st_ite (P := P)) | split

theorem State.useTry_stable (hP : Stable P) (i : Nat) {s : State} (h_s : P s) : P (State.useTry s i) := by
  unfold State.useTry; (try dsimp only); (try simp only [mk_upd])
  repeat' first | intro _ | with_reducible (first | assumption | apply st_upd hP | apply State.flashProgram_stable hP | apply st_ite (P := P) | rfl) | split

theorem State.bootFrom_stable (hP : Stable P) (y0 : List Nat) {s : State} (h_s : P s) : P (State.bootFrom s y0) := by
  induction y0 generalizing s with
  | nil => exact State.enterRecovery_stable hP _ h_s
  | cons i l ih =>
    unfold State.bootFrom
    extract_lets s1 good segs s2
    have h1 : P s1 := State.useTry_stable hP _ h_s
    have h2 : P s2 := State.loadSegments_stable hP _ _ _ (State.wakeSegments_stable hP _ h1)
    refine st_ite (ih (State.bootFail_stable hP _ (State.raiseSource_stable hP _ h1))) (st_ite (State.handOff_stable hP _ h2)
      (ih (State.bootFail_stable hP _ (State.raiseSource_stable hP _ h2))))

set_option maxRecDepth 8000 in
theorem State.dropBad_stable (hP : Stable P) (y0 : List Nat) {s : State} (h_s : P s) : P ((State.dropBad s y0)).2 := by
  induction y0 generalizing s with
  | nil => exact h_s
  | cons i l ih =>
    unfold State.dropBad
    split
    · exact ih h_s
    · exact ih (State.bootFail_stable hP _ (State.raiseSource_stable hP _ h_s))

theorem execBoot_stable (hP : Stable P) (lands : Fin 4) {s : State} (h_s : P s) : OfOut P (execBoot lands s) := by
  unfold execBoot; (try dsimp only); (try simp only [mk_upd])
  repeat' first | intro _ | with_reducible (first | assumption | apply st_upd hP | apply State.bootFrom_stable hP | apply State.dropBad_stable hP | apply State.enterRecovery_stable hP | apply State.romWakes_stable hP | apply State.setFld_stable hP | apply of_oite (P := P) | apply of_next (P := P) | apply of_fault (P := P) | apply st_foldl (P := P) | apply st_foldl2 (P := P) | refine st_snd (P := P) (by assumption) ?_ | rfl) | split

theorem State.hctl_stable (hP : Stable P) (w : Word) (job : Bool) {s : State} (h_s : P s) : P (State.hctl s w job) := by
  unfold State.hctl; (try dsimp only); (try simp only [mk_upd])
  repeat' first | intro _ | with_reducible (first | assumption | apply st_upd hP | apply State.runningImage_stable hP | apply State.setBit_stable hP | apply State.setSec_stable hP | apply State.startCore_stable hP | apply st_ite (P := P) | apply st_forEach (P := P) | rfl) | split

theorem execHctlStart_stable (hP : Stable P) (w : Word) (job : Bool) {s : State} (h_s : P s) : OfOut P (execHctlStart w job s) := by
  unfold execHctlStart; (try dsimp only)
  repeat' first | intro _ | with_reducible (first | assumption | apply State.hctl_stable hP | apply State.store_stable hP | apply of_oite (P := P) | apply of_next (P := P) | apply of_fault (P := P) | apply st_ite (P := P)) | split

theorem State.recoverWrite_stable (hP : Stable P) (w : Word) (job : Bool) {s : State} (h_s : P s) : P (State.recoverWrite s w job) := by
  unfold State.recoverWrite; (try dsimp only)
  repeat' first | intro _ | with_reducible (first | assumption | apply State.enterRecovery_stable hP | apply State.setBit_stable hP | apply st_ite (P := P)) | split

theorem execRecoverEntry_stable (hP : Stable P) (w : Word) (job : Bool) {s : State} (h_s : P s) : OfOut P (execRecoverEntry w job s) := by
  unfold execRecoverEntry; (try dsimp only)
  repeat' first | intro _ | with_reducible (first | assumption | apply State.recoverWrite_stable hP | apply State.store_stable hP | apply of_oite (P := P) | apply of_next (P := P) | apply of_fault (P := P) | apply st_ite (P := P)) | split

theorem State.rstat_stable (hP : Stable P) (v : Nat) {s : State} (h_s : P s) : P (State.rstat s v) := by
  unfold State.rstat; (try dsimp only)
  repeat' first | intro _ | with_reducible (first | assumption | apply State.setFld_stable hP | apply st_ite (P := P)) | split

theorem State.flushWords_stable (hP : Stable P) (n : Nat) {s : State} (h_s : P s) : P (State.flushWords s n) := by
  unfold State.flushWords; (try dsimp only); (try simp only [mk_upd])
  repeat' first | intro _ | with_reducible (first | assumption | apply st_upd hP | apply State.flashProgram_stable hP | apply State.setSec_stable hP | apply st_ite (P := P) | apply st_foldl (P := P) | apply st_foldl2 (P := P) | rfl) | split

theorem State.recoveryErase_stable (hP : Stable P)  {s : State} (h_s : P s) : P (State.recoveryErase s) := by
  unfold State.recoveryErase; (try dsimp only); (try simp only [mk_upd])
  repeat' first | intro _ | with_reducible (first | assumption | apply st_upd hP | apply State.flashErase_stable hP | apply State.rstat_stable hP | apply State.setSec_stable hP | apply st_ite (P := P) | apply st_forEach (P := P) | rfl) | split

theorem State.recoveryVerify_stable (hP : Stable P)  {s : State} (h_s : P s) : P (State.recoveryVerify s) := by
  unfold State.recoveryVerify; (try dsimp only); (try simp only [mk_upd])
  repeat' first | intro _ | with_reducible (first | assumption | apply st_upd hP | apply State.flushWords_stable hP | apply State.imageRefused_stable hP | apply State.rstat_stable hP | apply State.setSec_stable hP | apply st_ite (P := P) | refine st_snd (P := P) (by assumption) ?_ | rfl) | split

theorem State.recoveryBoot_stable (hP : Stable P)  {s : State} (h_s : P s) : P (State.recoveryBoot s) := by
  unfold State.recoveryBoot; (try dsimp only); (try simp only [mk_upd])
  repeat' first | intro _ | with_reducible (first | assumption | apply st_upd hP | apply State.handOff_stable hP | apply State.imageRefused_stable hP | apply State.loadSegments_stable hP | apply State.romWakes_stable hP | apply State.rstat_stable hP | apply State.setSec_stable hP | apply State.wakeSegments_stable hP | apply st_ite (P := P) | apply st_foldl (P := P) | apply st_foldl2 (P := P) | refine st_snd (P := P) (by assumption) ?_ | rfl) | split

theorem State.rctlWrite_stable (hP : Stable P) (w : Word) (job : Bool) {s : State} (h_s : P s) : P (State.rctlWrite s w job) := by
  unfold State.rctlWrite; (try dsimp only)
  repeat' first | intro _ | with_reducible (first | assumption | apply State.bringOn_stable hP | apply State.recoveryBoot_stable hP | apply State.recoveryErase_stable hP | apply State.recoveryVerify_stable hP | apply State.setBit_stable hP | apply State.setFld_stable hP | apply st_ite (P := P)) | split

theorem execRecoveryErase_stable (hP : Stable P) (slot : Fin 4) (job : Bool) {s : State} (h_s : P s) : OfOut P (execRecoveryErase slot job s) := by
  unfold execRecoveryErase; (try dsimp only)
  repeat' first | intro _ | with_reducible (first | assumption | apply State.rctlWrite_stable hP | apply State.recoveryBoot_stable hP | apply State.recoveryErase_stable hP | apply State.recoveryVerify_stable hP | apply State.store_stable hP | apply of_oite (P := P) | apply of_next (P := P) | apply of_fault (P := P) | apply st_ite (P := P)) | split

theorem execRecoveryVerify_stable (hP : Stable P) (slot : Fin 4) (job : Bool) {s : State} (h_s : P s) : OfOut P (execRecoveryVerify slot job s) := by
  unfold execRecoveryVerify; (try dsimp only)
  repeat' first | intro _ | with_reducible (first | assumption | apply State.rctlWrite_stable hP | apply State.recoveryBoot_stable hP | apply State.recoveryVerify_stable hP | apply State.store_stable hP | apply of_oite (P := P) | apply of_next (P := P) | apply of_fault (P := P) | apply st_ite (P := P)) | split

theorem execRecoveryBoot_stable (hP : Stable P) (slot : Fin 4) (job : Bool) {s : State} (h_s : P s) : OfOut P (execRecoveryBoot slot job s) := by
  unfold execRecoveryBoot; (try dsimp only)
  repeat' first | intro _ | with_reducible (first | assumption | apply State.rctlWrite_stable hP | apply State.recoveryBoot_stable hP | apply State.store_stable hP | apply of_oite (P := P) | apply of_next (P := P) | apply of_fault (P := P) | apply st_ite (P := P)) | split

theorem State.rdataWrite_stable (hP : Stable P) (w : Word) (pages : Nat) (job : Bool) {s : State} (h_s : P s) : P (State.rdataWrite s w pages job) := by
  unfold State.rdataWrite; (try dsimp only); (try simp only [mk_upd])
  repeat' first | intro _ | with_reducible (first | assumption | apply st_upd hP | apply State.flushWords_stable hP | apply State.setBit_stable hP | apply State.setFld_stable hP | apply State.setSec_stable hP | apply st_ite (P := P) | rfl) | split

theorem execRdataWrite_stable (hP : Stable P) (w : Word) (pages : Nat) (job : Bool) {s : State} (h_s : P s) : OfOut P (execRdataWrite w pages job s) := by
  unfold execRdataWrite; (try dsimp only)
  repeat' first | intro _ | with_reducible (first | assumption | apply State.rdataWrite_stable hP | apply State.store_stable hP | apply of_oite (P := P) | apply of_next (P := P) | apply of_fault (P := P) | apply st_ite (P := P)) | split

theorem State.newChallenge_stable (hP : Stable P)  {s : State} (h_s : P s) : P (State.newChallenge s) := by
  unfold State.newChallenge; (try dsimp only); (try simp only [mk_upd])
  repeat' first | intro _ | with_reducible (first | assumption | apply st_upd hP | apply State.setSec_stable hP | apply st_ite (P := P) | rfl) | split

theorem State.drespWrite_stable (hP : Stable P) (n : Nat) (w : Word) (job : Bool) {s : State} (h_s : P s) : P (State.drespWrite s n w job) := by
  unfold State.drespWrite; (try dsimp only); (try simp only [mk_upd])
  repeat' first | intro _ | with_reducible (first | assumption | apply st_upd hP | apply State.newChallenge_stable hP | apply State.setBit_stable hP | apply State.setFld_stable hP | apply State.setSec_stable hP | apply st_ite (P := P) | rfl) | split

theorem execDrespCheck_stable (hP : Stable P) (w : Word) (job : Bool) {s : State} (h_s : P s) : OfOut P (execDrespCheck w job s) := by
  unfold execDrespCheck; (try dsimp only)
  repeat' first | intro _ | with_reducible (first | assumption | apply State.drespWrite_stable hP | apply State.store_stable hP | apply of_oite (P := P) | apply of_next (P := P) | apply of_fault (P := P) | apply st_ite (P := P)) | split

theorem State.secRecords_stable (hP : Stable P)  {s : State} (h_s : P s) : P (State.secRecords s) := by
  unfold State.secRecords; (try dsimp only)
  repeat' first | intro _ | with_reducible (first | assumption | apply State.putIn_stable hP | apply st_ite (P := P) | apply st_foldl (P := P)) | split

theorem State.setGln_stable (hP : Stable P) (f : Gln → Gln) {s : State} (h_s : P s) : P (State.setGln s f) := by
  unfold State.setGln; (try dsimp only); (try simp only [mk_upd])
  repeat' first | intro _ | with_reducible (first | assumption | apply st_upd hP | apply st_ite (P := P) | rfl) | split

theorem State.reserveFell_stable (hP : Stable P) (kind : Nat) (before : Nat) {s : State} (h_s : P s) : P (State.reserveFell s kind before) := by
  unfold State.reserveFell; (try dsimp only)
  repeat' first | intro _ | with_reducible (first | assumption | apply State.raiseSource_stable hP | apply st_ite (P := P)) | split

theorem State.substituted_stable (hP : Stable P) (kind : Nat) (inst : Nat) (elem : Nat) {s : State} (h_s : P s) : P (State.substituted s kind inst elem) := by
  unfold State.substituted; (try dsimp only); (try simp only [mk_upd])
  repeat' first | intro _ | with_reducible (first | assumption | apply st_upd hP | apply State.setBit_stable hP | apply State.setFld_stable hP | apply State.setGln_stable hP | apply st_ite (P := P) | rfl) | split

theorem State.needsSpare_stable (hP : Stable P) (kind : Nat) {s : State} (h_s : P s) : P (State.needsSpare s kind) := by
  unfold State.needsSpare; (try dsimp only)
  repeat' first | intro _ | with_reducible (first | assumption | apply State.raiseSource_stable hP | apply State.setBit_stable hP | apply st_ite (P := P)) | split

theorem State.retireSegment_stable (hP : Stable P) (c : Nat) (k : Nat) {s : State} (h_s : P s) : P (State.retireSegment s c k) := by
  unfold State.retireSegment; (try dsimp only); (try simp only [mk_upd])
  repeat' first | intro _ | with_reducible (first | assumption | apply st_upd hP | apply State.needsSpare_stable hP | apply State.reserveFell_stable hP | apply State.setOut_stable hP | apply State.substituted_stable hP | apply st_ite (P := P) | rfl) | split

theorem State.judgeSegments_stable (hP : Stable P) (c : Nat) {s : State} (h_s : P s) : P (State.judgeSegments s c) := by
  unfold State.judgeSegments; (try dsimp only); (try simp only [mk_upd])
  repeat' first | intro _ | with_reducible (first | assumption | apply st_upd hP | apply State.retireSegment_stable hP | apply State.setOut_stable hP | apply st_ite (P := P) | apply st_foldl (P := P) | rfl) | split

theorem State.retireLane_stable (hP : Stable P) (b : Nat) (l : Nat) {s : State} (h_s : P s) : P (State.retireLane s b l) := by
  unfold State.retireLane; (try dsimp only); (try simp only [mk_upd])
  repeat' first | intro _ | with_reducible (first | assumption | apply st_upd hP | apply State.needsSpare_stable hP | apply State.raiseSource_stable hP | apply State.setFld_stable hP | apply State.setGbank_stable hP | apply st_ite (P := P) | rfl) | split

theorem execLaneRetire_stable (hP : Stable P) (b : Fin 16) (l : Fin 9) {s : State} (h_s : P s) : OfOut P (execLaneRetire b l s) := by
  unfold execLaneRetire; (try dsimp only)
  repeat' first | intro _ | with_reducible (first | assumption | apply State.retireLane_stable hP | apply of_oite (P := P) | apply of_next (P := P) | apply of_fault (P := P)) | split

theorem State.copiedWords_stable (hP : Stable P) (b : Nat) (l : Nat) {s : State} (h_s : P s) : P (State.copiedWords s b l) := by
  unfold State.copiedWords; (try dsimp only); (try simp only [mk_upd])
  repeat' first | intro _ | with_reducible (first | assumption | apply st_upd hP | apply State.heal_stable hP | apply State.setGbank_stable hP | apply st_ite (P := P) | apply st_foldl (P := P) | rfl) | split

theorem State.laneSwap_stable (hP : Stable P) (b : Nat) {s : State} (h_s : P s) : P (State.laneSwap s b) := by
  unfold State.laneSwap; (try dsimp only); (try simp only [mk_upd])
  repeat' first | intro _ | with_reducible (first | assumption | apply st_upd hP | apply State.copiedWords_stable hP | apply State.raiseSource_stable hP | apply State.reserveFell_stable hP | apply State.setBit_stable hP | apply State.setFld_stable hP | apply State.setGbank_stable hP | apply State.substituted_stable hP | apply st_ite (P := P) | rfl) | split

theorem State.laneWindow_stable (hP : Stable P)  {s : State} (h_s : P s) : P (State.laneWindow s) := by
  unfold State.laneWindow; (try dsimp only); (try simp only [mk_upd])
  repeat' first | intro _ | with_reducible (first | assumption | apply st_upd hP | apply State.setGbank_stable hP | apply st_ite (P := P) | apply st_forEach (P := P) | rfl) | split

theorem State.retirePhase_stable (hP : Stable P) (p : Nat) {s : State} (h_s : P s) : P (State.retirePhase s p) := by
  unfold State.retirePhase; (try dsimp only); (try simp only [mk_upd])
  repeat' first | intro _ | with_reducible (first | assumption | apply st_upd hP | apply State.needsSpare_stable hP | apply State.raiseSource_stable hP | apply State.reserveFell_stable hP | apply State.setBit_stable hP | apply State.setFld_stable hP | apply State.substituted_stable hP | apply st_ite (P := P) | rfl) | split

theorem State.judgePhases_stable (hP : Stable P)  {s : State} (h_s : P s) : P (State.judgePhases s) := by
  unfold State.judgePhases; (try dsimp only); (try simp only [mk_upd])
  repeat' first | intro _ | with_reducible (first | assumption | apply st_upd hP | apply State.retirePhase_stable hP | apply st_ite (P := P) | apply st_foldl (P := P) | rfl) | split

theorem State.echTest_stable (hP : Stable P) (c : Fin 2) (k : Nat) {s : State} (h_s : P s) : P (State.echTest s c k) := by
  unfold State.echTest; (try dsimp only); (try simp only [mk_upd])
  repeat' first | intro _ | with_reducible (first | assumption | apply st_upd hP | apply State.needsSpare_stable hP | apply State.raiseSource_stable hP | apply State.setCore_stable hP | apply State.substituted_stable hP | apply st_ite (P := P) | rfl) | split

theorem State.clockCheck_stable (hP : Stable P) (dev : Int) {s : State} (h_s : P s) : P (State.clockCheck s dev) := by
  unfold State.clockCheck; (try dsimp only)
  repeat' first | intro _ | with_reducible (first | assumption | apply State.raiseSource_stable hP | apply State.setFld_stable hP | apply st_ite (P := P)) | split

theorem State.flashWear_stable (hP : Stable P)  {s : State} (h_s : P s) : P (State.flashWear s) := by
  unfold State.flashWear; (try dsimp only)
  repeat' first | intro _ | with_reducible (first | assumption | apply State.setFld_stable hP | apply st_ite (P := P) | apply st_forEach (P := P)) | split

theorem State.frcWrite_stable (hP : Stable P) (w : Word) (job : Bool) {s : State} (h_s : P s) : P (State.frcWrite s w job) := by
  unfold State.frcWrite; (try dsimp only); (try simp only [mk_upd])
  repeat' first | intro _ | with_reducible (first | assumption | apply st_upd hP | apply State.setBit_stable hP | apply State.setGln_stable hP | apply st_ite (P := P) | rfl) | split

theorem execFrc_stable (hP : Stable P) (w : Word) (job : Bool) {s : State} (h_s : P s) : OfOut P (execFrc w job s) := by
  unfold execFrc; (try dsimp only)
  repeat' first | intro _ | with_reducible (first | assumption | apply State.frcWrite_stable hP | apply State.store_stable hP | apply of_oite (P := P) | apply of_next (P := P) | apply of_fault (P := P) | apply st_ite (P := P)) | split

theorem State.forceWear_stable (hP : Stable P) (f : Nat × Nat × Nat) {s : State} (h_s : P s) : P (State.forceWear s f) := by
  unfold State.forceWear; (try dsimp only); (try simp only [mk_upd])
  repeat' first | intro _ | with_reducible (first | assumption | apply st_upd hP | apply State.retireLane_stable hP | apply State.retirePhase_stable hP | apply State.retireSegment_stable hP | apply st_ite (P := P) | rfl) | split

theorem State.glnEdge_stable (hP : Stable P) (k : Nat) (dev : Int) {s : State} (h_s : P s) : P (State.glnEdge s k dev) := by
  unfold State.glnEdge; (try dsimp only); (try simp only [mk_upd])
  repeat' first | intro _ | with_reducible (first | assumption | apply st_upd hP | apply State.clockCheck_stable hP | apply State.echTest_stable hP | apply State.flashWear_stable hP | apply State.forceWear_stable hP | apply State.judgePhases_stable hP | apply State.judgeSegments_stable hP | apply State.laneSwap_stable hP | apply State.laneWindow_stable hP | apply State.setGln_stable hP | apply st_ite (P := P) | apply st_foldl (P := P) | apply st_forEach (P := P) | rfl) | split

theorem State.glnRecords_stable (hP : Stable P)  {s : State} (h_s : P s) : P (State.glnRecords s) := by
  unfold State.glnRecords; (try dsimp only)
  repeat' first | intro _ | with_reducible (first | assumption | apply State.putIn_stable hP | apply st_ite (P := P) | apply st_foldl (P := P)) | split

theorem State.echRecord_stable (hP : Stable P) (c : Fin 2) {s : State} (h_s : P s) : P (State.echRecord s c) := by
  unfold State.echRecord; (try dsimp only)
  repeat' first | intro _ | with_reducible (first | assumption | apply State.putIn_stable hP | apply st_ite (P := P) | apply st_foldl (P := P)) | split

theorem State.echRecords_stable (hP : Stable P)  {s : State} (h_s : P s) : P (State.echRecords s) := by
  unfold State.echRecords; (try dsimp only)
  repeat' first | intro _ | with_reducible (first | assumption | apply State.echRecord_stable hP | apply st_ite (P := P)) | split

theorem State.echClear_stable (hP : Stable P)  {s : State} (h_s : P s) : P (State.echClear s) := by
  unfold State.echClear; (try dsimp only); (try simp only [mk_upd])
  repeat' first | intro _ | with_reducible (first | assumption | apply st_upd hP | apply State.setCore_stable hP | apply st_ite (P := P) | apply st_forEach (P := P) | rfl) | split

theorem State.pstat_stable (hP : Stable P) (v : Nat) {s : State} (h_s : P s) : P (State.pstat s v) := by
  unfold State.pstat; (try dsimp only)
  repeat' first | intro _ | with_reducible (first | assumption | apply State.setFld_stable hP | apply st_ite (P := P)) | split

theorem State.siloStart_stable (hP : Stable P) (op : Nat) (job : Bool) {s : State} (h_s : P s) : P (State.siloStart s op job) := by
  unfold State.siloStart; (try dsimp only); (try simp only [mk_upd])
  repeat' first | intro _ | with_reducible (first | assumption | apply st_upd hP | apply State.pstat_stable hP | apply State.raiseSource_stable hP | apply State.setBit_stable hP | apply State.setSil_stable hP | apply st_ite (P := P) | rfl) | split

theorem State.siloWrite_stable (hP : Stable P) (op : Nat) (job : Bool) {s : State} (h_s : P s) : OfOut P (State.siloWrite s op job) := by
  unfold State.siloWrite; (try dsimp only)
  repeat' first | intro _ | with_reducible (first | assumption | apply State.siloStart_stable hP | apply of_oite (P := P) | apply of_next (P := P) | apply of_fault (P := P)) | split

theorem execProg_stable (hP : Stable P) (mv : Int) (job : Bool) {s : State} (h_s : P s) : OfOut P (execProg mv job s) := by
  unfold execProg; (try dsimp only)
  repeat' first | intro _ | with_reducible (first | assumption | apply State.setPin_stable hP | apply State.siloWrite_stable hP | apply State.stall_stable hP | apply of_oite (P := P) | apply of_next (P := P) | apply of_fault (P := P) | refine st_next (P := P) (by assumption) ?_) | split

theorem execArbstep_stable (hP : Stable P) (mv : Int) (job : Bool) {s : State} (h_s : P s) : OfOut P (execArbstep mv job s) := by
  unfold execArbstep; (try dsimp only)
  repeat' first | intro _ | with_reducible (first | assumption | apply State.setPin_stable hP | apply State.siloWrite_stable hP | apply State.stall_stable hP | apply of_oite (P := P) | apply of_next (P := P) | apply of_fault (P := P) | refine st_next (P := P) (by assumption) ?_) | split

theorem execWear_stable (hP : Stable P) (mv : Int) (job : Bool) {s : State} (h_s : P s) : OfOut P (execWear mv job s) := by
  unfold execWear; (try dsimp only)
  repeat' first | intro _ | with_reducible (first | assumption | apply State.setPin_stable hP | apply State.siloWrite_stable hP | apply State.stall_stable hP | apply of_oite (P := P) | apply of_next (P := P) | apply of_fault (P := P) | refine st_next (P := P) (by assumption) ?_) | split

theorem State.progGen_stable (hP : Stable P) (r : Nat) (g : Nat) (d : Nat) (fail : Bool) {s : State} (h_s : P s) : P (State.progGen s r g d fail) := by
  unfold State.progGen; (try dsimp only)
  repeat' first | intro _ | with_reducible (first | assumption | apply State.raiseSource_stable hP | apply State.setGen_stable hP | apply st_ite (P := P)) | split

theorem State.setRaw_stable (hP : Stable P) (r : Nat) (b : Nat) {s : State} (h_s : P s) : P (State.setRaw s r b) := by
  unfold State.setRaw; (try dsimp only); (try simp only [mk_upd])
  repeat' first | intro _ | with_reducible (first | assumption | apply st_upd hP | apply State.setGen_stable hP | apply st_ite (P := P) | apply st_forEach (P := P) | rfl) | split

theorem State.siloReserveFell_stable (hP : Stable P) (before : Nat) {s : State} (h_s : P s) : P (State.siloReserveFell s before) := by
  unfold State.siloReserveFell; (try dsimp only)
  repeat' first | intro _ | with_reducible (first | assumption | apply State.raiseSource_stable hP | apply st_ite (P := P)) | split

theorem State.siloDone_stable (hP : Stable P) (code : Nat) {s : State} (h_s : P s) : P (State.siloDone s code) := by
  unfold State.siloDone; (try dsimp only); (try simp only [mk_upd])
  repeat' first | intro _ | with_reducible (first | assumption | apply st_upd hP | apply State.pstat_stable hP | apply State.setSil_stable hP | apply st_ite (P := P) | rfl) | split

theorem execSiloOpComplete_stable (hP : Stable P) (fail1 : Bool) (fail2 : Bool) {s : State} (h_s : P s) : OfOut P (execSiloOpComplete fail1 fail2 s) := by
  unfold execSiloOpComplete; (try dsimp only); (try simp only [mk_upd])
  repeat' first | intro _ | with_reducible (first | assumption | apply st_upd hP | apply State.progGen_stable hP | apply State.setFld_stable hP | apply State.setRaw_stable hP | apply State.siloDone_stable hP | apply State.siloReserveFell_stable hP | apply State.takeShadowOf_stable hP | apply of_oite (P := P) | apply of_next (P := P) | apply of_fault (P := P) | apply st_foldl (P := P) | rfl) | split

theorem State.siloAbort_stable (hP : Stable P) (cells : Nat) {s : State} (h_s : P s) : P (State.siloAbort s cells) := by
  unfold State.siloAbort; (try dsimp only); (try simp only [mk_upd])
  repeat' first | intro _ | with_reducible (first | assumption | apply st_upd hP | apply State.raiseSource_stable hP | apply State.setGen_stable hP | apply State.setRaw_stable hP | apply State.siloDone_stable hP | apply State.siloReserveFell_stable hP | apply st_ite (P := P) | apply st_foldl (P := P) | apply st_forEach (P := P) | rfl) | split

theorem execSiloAbort_stable (hP : Stable P) (mv : Int) (vbat : Int) (cells : Nat) {s : State} (h_s : P s) : OfOut P (execSiloAbort mv vbat cells s) := by
  unfold execSiloAbort; (try dsimp only)
  repeat' first | intro _ | with_reducible (first | assumption | apply State.setPin_stable hP | apply State.siloAbort_stable hP | apply of_oite (P := P) | apply of_next (P := P) | apply of_fault (P := P)) | split

theorem State.silRecords_stable (hP : Stable P)  {s : State} (h_s : P s) : P (State.silRecords s) := by
  unfold State.silRecords; (try dsimp only)
  repeat' first | intro _ | with_reducible (first | assumption | apply State.putIn_stable hP | apply st_ite (P := P)) | split

theorem State.silClear_stable (hP : Stable P)  {s : State} (h_s : P s) : P (State.silClear s) := by
  unfold State.silClear; (try dsimp only); (try simp only [mk_upd])
  repeat' first | intro _ | with_reducible (first | assumption | apply st_upd hP | apply State.setSil_stable hP | apply st_ite (P := P) | rfl) | split

theorem State.applyWear_stable (hP : Stable P)  {s : State} (h_s : P s) : P (State.applyWear s) := by
  unfold State.applyWear; (try dsimp only); (try simp only [mk_upd])
  repeat' first | intro _ | with_reducible (first | assumption | apply st_upd hP | apply State.setBit_stable hP | apply State.setFld_stable hP | apply State.setOut_stable hP | apply st_ite (P := P) | apply st_forEach (P := P) | rfl) | split

theorem State.storeMem_stable (hP : Stable P) (who : Nat) (a : Nat) (v : TWord) {s : State} (h_s : P s) : P (State.storeMem s who a v) := by
  unfold State.storeMem; (try dsimp only); (try simp only [mk_upd])
  repeat' first | intro _ | with_reducible (first | assumption | apply st_upd hP | apply hP.mem | apply State.grnWrite_stable hP | apply State.heal_stable hP | apply State.lockAccess_stable hP | apply st_ite (P := P) | rfl) | split

theorem State.storeHeld_stable (hP : Stable P) (who : Nat) (a : Nat) (v : TWord) {s : State} (h_s : P s) : P (State.storeHeld s who a v) := by
  unfold State.storeHeld; (try dsimp only); (try simp only [mk_upd])
  repeat' first | intro _ | with_reducible (first | assumption | apply st_upd hP | apply State.grnStore_stable hP | apply State.storeMem_stable hP | apply st_ite (P := P) | rfl) | split

theorem State.storeBuffered_stable (hP : Stable P) (who : Nat) (x : BufStore) {s : State} (h_s : P s) : P (State.storeBuffered s who x) := by
  unfold State.storeBuffered; (try dsimp only); (try simp only [mk_upd])
  repeat' first | intro _ | with_reducible (first | assumption | apply st_upd hP | apply State.laneServe_stable hP | apply State.storeMem_stable hP | apply st_ite (P := P) | rfl) | split

theorem State.drainOne_stable (hP : Stable P) (c : Fin 2) {s : State} (h_s : P s) : P (State.drainOne s c) := by
  unfold State.drainOne; (try dsimp only); (try simp only [mk_upd])
  repeat' first | intro _ | with_reducible (first | assumption | apply st_upd hP | apply State.demand_stable hP | apply State.setCore_stable hP | apply State.storeBuffered_stable hP | apply st_ite (P := P) | rfl) | split

theorem State.drainAll_stable (hP : Stable P) (c : Fin 2) {s : State} (h_s : P s) : P (State.drainAll s c) := by
  unfold State.drainAll; (try dsimp only)
  repeat' first | intro _ | with_reducible (first | assumption | apply State.drainOne_stable hP | apply st_ite (P := P) | apply st_foldl (P := P)) | split

theorem execStoreDrain_stable (hP : Stable P) (c : Fin 2) {s : State} (h_s : P s) : OfOut P (execStoreDrain c s) := by
  unfold execStoreDrain; (try dsimp only)
  repeat' first | intro _ | with_reducible (first | assumption | apply State.drainOne_stable hP | apply of_oite (P := P) | apply of_next (P := P) | apply of_fault (P := P)) | split

theorem execLaneGrant_stable (hP : Stable P) (b : Fin 16) (l : Fin 8) (arrived : List GAcc) (e : Ecc) {s : State} (h_s : P s) : OfOut P (execLaneGrant b l arrived e s) := by
  unfold execLaneGrant; (try dsimp only); (try simp only [mk_upd])
  repeat' first | intro _ | with_reducible (first | assumption | apply st_upd hP | apply State.deliverGot_stable hP | apply State.demand_stable hP | apply State.granted_stable hP | apply State.laneGives_stable hP | apply State.lockedBank_stable hP | apply State.setGbank_stable hP | apply of_oite (P := P) | apply of_next (P := P) | apply of_fault (P := P) | rfl) | split

theorem execCorrectedWriteback_stable (hP : Stable P) (b : Fin 16) (w : Fin 65536) {s : State} (h_s : P s) : OfOut P (execCorrectedWriteback b w s) := by
  unfold execCorrectedWriteback; (try dsimp only); (try simp only [mk_upd])
  repeat' first | intro _ | with_reducible (first | assumption | apply st_upd hP | apply State.heal_stable hP | apply State.setGbank_stable hP | apply of_oite (P := P) | apply of_next (P := P) | apply of_fault (P := P) | rfl) | split

theorem State.ownWrite_stable (hP : Stable P) (who : Nat) (b : Nat) (w : Word) {s : State} (h_s : P s) : OfExcS P (State.ownWrite s who b w) := by
  unfold State.ownWrite; (try dsimp only)
  repeat' first | intro _ | with_reducible (first | assumption | apply Eff_ok_stable hP | apply State.setFld_stable hP | apply of_xserr (P := P) | apply of_xsok (P := P) | refine st_done (P := P) (by assumption) ?_ | refine st_trap (P := P) (by assumption) ?_ | refine st_wait (P := P) (by assumption) ?_) | split

theorem execOwnerWrite_stable (hP : Stable P) (m : Master) (b : Fin 16) (w : Word) {s : State} (h_s : P s) : OfOut P (execOwnerWrite m b w s) := by
  unfold execOwnerWrite; (try dsimp only); (try simp only [mk_upd])
  repeat' first | intro _ | with_reducible (first | assumption | apply st_upd hP | apply Eff_ok_stable hP | apply State.drainAll_stable hP | apply State.ownWrite_stable hP | apply State.stall_stable hP | apply of_oite (P := P) | apply of_next (P := P) | apply of_fault (P := P) | refine st_done (P := P) (by assumption) ?_ | refine st_trap (P := P) (by assumption) ?_ | refine st_wait (P := P) (by assumption) ?_ | refine st_exs (P := P) (by assumption) ?_ | rfl) | split

theorem State.bankWrite_stable (hP : Stable P) (b : Nat) (w : Word) {s : State} (h_s : P s) : P (State.bankWrite s b w) := by
  unfold State.bankWrite; (try dsimp only); (try simp only [mk_upd])
  repeat' first | intro _ | with_reducible (first | assumption | apply st_upd hP | apply State.demand_stable hP | apply State.lockAccess_stable hP | apply State.setFld_stable hP | apply State.setGbank_stable hP | apply st_ite (P := P) | rfl) | split

theorem execBankStateWrite_stable (hP : Stable P) (b : Fin 16) (w : Word) {s : State} (h_s : P s) : OfOut P (execBankStateWrite b w s) := by
  unfold execBankStateWrite; (try dsimp only)
  repeat' first | intro _ | with_reducible (first | assumption | apply State.bankWrite_stable hP | apply State.store_stable hP | apply of_oite (P := P) | apply of_next (P := P) | apply of_fault (P := P) | apply st_ite (P := P)) | split

theorem State.setBankState_stable (hP : Stable P) (b : Nat) (q : DomSt) {s : State} (h_s : P s) : P (State.setBankState s b q) := by
  unfold State.setBankState; (try dsimp only); (try simp only [mk_upd])
  repeat' first | intro _ | with_reducible (first | assumption | apply st_upd hP | apply hP.lose | apply State.setDom_stable hP | apply State.setGbank_stable hP | apply st_ite (P := P) | rfl) | split

theorem execBankPowerDown_stable (hP : Stable P) (b : Fin 16) {s : State} (h_s : P s) : OfOut P (execBankPowerDown b s) := by
  unfold execBankPowerDown; (try dsimp only); (try simp only [mk_upd])
  repeat' first | intro _ | with_reducible (first | assumption | apply st_upd hP | apply State.setBankState_stable hP | apply State.setGbank_stable hP | apply of_oite (P := P) | apply of_next (P := P) | apply of_fault (P := P) | rfl) | split

theorem execBankWakeComplete_stable (hP : Stable P) (b : Fin 16) {s : State} (h_s : P s) : OfOut P (execBankWakeComplete b s) := by
  unfold execBankWakeComplete; (try dsimp only); (try simp only [mk_upd])
  repeat' first | intro _ | with_reducible (first | assumption | apply st_upd hP | apply State.setDom_stable hP | apply of_oite (P := P) | apply of_next (P := P) | apply of_fault (P := P) | rfl) | split

theorem State.stallFails_stable (hP : Stable P) (d : Nat) {s : State} (h_s : P s) : P (State.stallFails s d) := by
  unfold State.stallFails; (try dsimp only); (try simp only [mk_upd])
  repeat' first | intro _ | with_reducible (first | assumption | apply st_upd hP | apply State.setCore_stable hP | apply State.stall_stable hP | apply st_ite (P := P) | apply st_foldl (P := P) | rfl) | split

theorem execBankWakeTimeout_stable (hP : Stable P) (b : Fin 16) {s : State} (h_s : P s) : OfOut P (execBankWakeTimeout b s) := by
  unfold execBankWakeTimeout; (try dsimp only); (try simp only [mk_upd])
  repeat' first | intro _ | with_reducible (first | assumption | apply st_upd hP | apply State.advance_stable hP | apply State.deliverGot_stable hP | apply State.nonOwner_stable hP | apply State.setCore_stable hP | apply State.setDom_stable hP | apply State.setGbank_stable hP | apply State.stallFails_stable hP | apply State.wakeFailed_stable hP | apply of_oite (P := P) | apply of_next (P := P) | apply of_fault (P := P) | apply st_foldl (P := P) | rfl) | split

theorem execScrubRead_stable (hP : Stable P) (b : Fin 16) (e : Ecc) {s : State} (h_s : P s) : OfOut P (execScrubRead b e s) := by
  unfold execScrubRead; (try dsimp only); (try simp only [mk_upd])
  repeat' first | intro _ | with_reducible (first | assumption | apply st_upd hP | apply State.granted_stable hP | apply State.laneTurn_stable hP | apply State.setGbank_stable hP | apply of_oite (P := P) | apply of_next (P := P) | apply of_fault (P := P) | rfl) | split

theorem execLaneCopyComplete_stable (hP : Stable P) (b : Fin 16) {s : State} (h_s : P s) : OfOut P (execLaneCopyComplete b s) := by
  unfold execLaneCopyComplete; (try dsimp only); (try simp only [mk_upd])
  repeat' first | intro _ | with_reducible (first | assumption | apply st_upd hP | apply State.checked_stable hP | apply State.resolved_stable hP | apply State.setFld_stable hP | apply State.setGbank_stable hP | apply of_oite (P := P) | apply of_next (P := P) | apply of_fault (P := P) | apply st_foldl (P := P) | apply st_foldl2 (P := P) | refine st_snd (P := P) (by assumption) ?_ | rfl) | split

theorem State.grnRecords_stable (hP : Stable P)  {s : State} (h_s : P s) : P (State.grnRecords s) := by
  unfold State.grnRecords; (try dsimp only)
  repeat' first | intro _ | with_reducible (first | assumption | apply State.putIn_stable hP | apply st_ite (P := P) | apply st_foldl (P := P) | apply st_forEach (P := P)) | split

theorem State.grnClear_stable (hP : Stable P)  {s : State} (h_s : P s) : P (State.grnClear s) := by
  unfold State.grnClear; (try dsimp only); (try simp only [mk_upd])
  repeat' first | intro _ | with_reducible (first | assumption | apply st_upd hP | apply State.setGbank_stable hP | apply st_ite (P := P) | apply st_forEach (P := P) | rfl) | split

theorem State.readSupplies_stable (hP : Stable P)  {s : State} (h_s : P s) : P (State.readSupplies s) := by
  unfold State.readSupplies; (try dsimp only)
  repeat' first | intro _ | with_reducible (first | assumption | apply State.setFld_stable hP | apply st_ite (P := P) | apply st_forEach (P := P)) | split

theorem execSlotBoundary_stable (hP : Stable P) (w : World) {s : State} (h_s : P s) : OfOut P (execSlotBoundary w s) := by
  unfold execSlotBoundary; (try dsimp only); (try simp only [mk_upd])
  repeat' first | intro _ | with_reducible (first | assumption | apply st_upd hP | apply State.advance_stable hP | apply State.observe_stable hP | apply State.prsSlot_stable hP | apply State.readSupplies_stable hP | apply State.vsSlot_stable hP | apply of_oite (P := P) | apply of_next (P := P) | apply of_fault (P := P) | apply st_forEach (P := P) | rfl) | split

theorem execSlotSample_stable (hP : Stable P) (w : World) {s : State} (h_s : P s) : OfOut P (execSlotSample w s) := by
  unfold execSlotSample
  refine of_oite (of_next h_s) ?_
  extract_lets s1 f2 s2 s3
  have h1 : P s1 := State.advance_stable hP _ (State.observe_stable hP _ h_s)
  have h2 : P s2 := hP.rest s1 _ rfl rfl rfl rfl rfl (Nat.le_refl _) id h1
  have h3 : P s3 := State.pxSample_stable hP (State.swSample_stable hP h2)
  split
  · exact of_fault
  · exact of_oite of_fault (of_next h3)

theorem execStreamSampleWrite_stable (hP : Stable P)  {s : State} (h_s : P s) : OfOut P (execStreamSampleWrite s) := by
  unfold execStreamSampleWrite
  extract_lets k sel n base items f1 s1 s2
  have h1 : P s1 := hP.rest s _ rfl rfl rfl rfl rfl (Nat.le_refl _) id h_s
  have h2 : P s2 := st_foldl (fun t p h => st_ite h (st_ite (State.grnWrite_stable hP _ _ _ h)
    (hP.rest (t.grnWrite 2 p.1 p.2) _ rfl rfl rfl rfl rfl (Nat.le_refl _) id (State.grnWrite_stable hP 2 p.1 p.2 h)))) h1
  clear_value s2
  exact of_oite (of_next h_s) (of_oite of_fault (of_next (st_ite (hP.rest s2 _ rfl rfl rfl rfl rfl (Nat.le_refl _) id h2) h2)))

theorem State.freeze_stable (hP : Stable P) (d : Nat) {s : State} (h_s : P s) : P (State.freeze s d) := by
  unfold State.freeze; (try dsimp only)
  repeat' first | intro _ | with_reducible (first | assumption | apply hP.reg | apply st_ite (P := P) | apply st_foldl (P := P)) | split

theorem State.leaveOn_stable (hP : Stable P) (d : Nat) (q : DomSt) {s : State} (h_s : P s) : P (State.leaveOn s d q) := by
  unfold State.leaveOn; (try dsimp only); (try simp only [mk_upd])
  repeat' first | intro _ | with_reducible (first | assumption | apply st_upd hP | apply State.canLeaves_stable hP | apply State.dropSamples_stable hP | apply State.ethLeaves_stable hP | apply State.freeze_stable hP | apply State.ledOff_stable hP | apply State.plOff_stable hP | apply State.setBankState_stable hP | apply State.setDom_stable hP | apply State.setLin_stable hP | apply State.setOut_stable hP | apply State.vsOff_stable hP | apply st_ite (P := P) | apply st_forEach (P := P) | rfl) | split

theorem State.lost_stable (hP : Stable P) (d : Nat) {s : State} (h_s : P s) : P (State.lost s d) := by
  unfold State.lost; (try dsimp only); (try simp only [mk_upd])
  repeat' first | intro _ | with_reducible (first | assumption | apply st_upd hP | apply hP.lose | apply State.accLost_stable hP | apply State.canWake_stable hP | apply State.coreLost_stable hP | apply State.inpLost_stable hP | apply State.ledLost_stable hP | apply State.linLost_stable hP | apply State.prsLost_stable hP | apply State.secLost_stable hP | apply State.swWake_stable hP | apply State.timLost_stable hP | apply st_ite (P := P) | rfl) | split

theorem State.jobsWake_stable (hP : Stable P) (c : Nat) {s : State} (h_s : P s) : P (State.jobsWake s c) := by
  unfold State.jobsWake; (try dsimp only); (try simp only [mk_upd])
  repeat' first | intro _ | with_reducible (first | assumption | apply st_upd hP | apply st_ite (P := P) | rfl) | split

theorem State.wakeDone_stable (hP : Stable P) (d : Nat) {s : State} (h_s : P s) : P (State.wakeDone s d) := by
  unfold State.wakeDone; (try dsimp only); (try simp only [mk_upd])
  repeat' first | intro _ | with_reducible (first | assumption | apply st_upd hP | apply State.canWake_stable hP | apply State.jobsWake_stable hP | apply State.ledCountAll_stable hP | apply State.loaderStore_stable hP | apply State.lost_stable hP | apply State.setDom_stable hP | apply st_ite (P := P) | rfl) | split

theorem execDomainWakeComplete_stable (hP : Stable P) (d : Fin 32) {s : State} (h_s : P s) : OfOut P (execDomainWakeComplete d s) := by
  unfold execDomainWakeComplete; (try dsimp only)
  repeat' first | intro _ | with_reducible (first | assumption | apply State.wakeDone_stable hP | apply of_oite (P := P) | apply of_next (P := P) | apply of_fault (P := P)) | split

theorem State.goTo_stable (hP : Stable P) (d : Nat) (q : DomSt) {s : State} (h_s : P s) : P (State.goTo s d q) := by
  unfold State.goTo; (try dsimp only); (try simp only [mk_upd])
  repeat' first | intro _ | with_reducible (first | assumption | apply st_upd hP | apply State.leaveOn_stable hP | apply State.lost_stable hP | apply State.setDom_stable hP | apply st_ite (P := P) | rfl) | split

theorem State.domReject_stable (hP : Stable P)  {s : State} (h_s : P s) : P (State.domReject s) := by
  unfold State.domReject; (try dsimp only)
  repeat' first | intro _ | with_reducible (first | assumption | apply State.setBit_stable hP | apply st_ite (P := P)) | split

theorem State.applyDctl_stable (hP : Stable P) (d : Nat) (w : Word) {s : State} (h_s : P s) : P (State.applyDctl s d w) := by
  unfold State.applyDctl; (try dsimp only); (try simp only [mk_upd])
  repeat' first | intro _ | with_reducible (first | assumption | apply st_upd hP | apply State.demand_stable hP | apply State.domReject_stable hP | apply State.goTo_stable hP | apply State.lockAccess_stable hP | apply State.setDom_stable hP | apply State.setFld_stable hP | apply st_ite (P := P) | rfl) | split

theorem State.lockDomain_stable (hP : Stable P) (d : Nat) {s : State} (h_s : P s) : P (State.lockDomain s d) := by
  unfold State.lockDomain; (try dsimp only); (try simp only [mk_upd])
  repeat' first | intro _ | with_reducible (first | assumption | apply st_upd hP | apply State.domReject_stable hP | apply State.goTo_stable hP | apply State.setDom_stable hP | apply State.setFld_stable hP | apply State.setGbank_stable hP | apply st_ite (P := P) | rfl) | split

theorem State.applyLock_stable (hP : Stable P) (w : Word) {s : State} (h_s : P s) : P (State.applyLock s w) := by
  unfold State.applyLock; (try dsimp only)
  repeat' first | intro _ | with_reducible (first | assumption | apply State.lockDomain_stable hP | apply State.setFld_stable hP | apply st_ite (P := P) | apply st_forEach (P := P)) | split

theorem State.applyPwr_stable (hP : Stable P) (a : Nat) (w : Word) {s : State} (h_s : P s) : OfOpt P (State.applyPwr s a w) := by
  unfold State.applyPwr; (try dsimp only)
  repeat' first | intro _ | with_reducible (first | assumption | apply State.applyDctl_stable hP | apply State.applyLock_stable hP | apply of_none (P := P) | apply of_some (P := P) | apply st_ite (P := P)) | split

theorem State.coreDown_stable (hP : Stable P) (c : Fin 2) {s : State} (h_s : P s) : P (State.coreDown s c) := by
  unfold State.coreDown; (try dsimp only); (try simp only [mk_upd])
  repeat' first | intro _ | with_reducible (first | assumption | apply st_upd hP | apply State.drainAll_stable hP | apply State.goTo_stable hP | apply st_ite (P := P) | rfl) | split

theorem State.coresDown_stable (hP : Stable P)  {s : State} (h_s : P s) : P (State.coresDown s) := by
  unfold State.coresDown; (try dsimp only)
  repeat' first | intro _ | with_reducible (first | assumption | apply State.coreDown_stable hP | apply st_ite (P := P)) | split

theorem execCoreDomainDown_stable (hP : Stable P) (c : Fin 2) {s : State} (h_s : P s) : OfOut P (execCoreDomainDown c s) := by
  unfold execCoreDomainDown; (try dsimp only)
  repeat' first | intro _ | with_reducible (first | assumption | apply State.coreDown_stable hP | apply of_oite (P := P) | apply of_next (P := P) | apply of_fault (P := P)) | split

theorem State.groupEdge_stable (hP : Stable P) (g : Nat) {s : State} (h_s : P s) : P (State.groupEdge s g) := by
  unfold State.groupEdge; (try dsimp only); (try simp only [mk_upd])
  repeat' first | intro _ | with_reducible (first | assumption | apply st_upd hP | apply State.raiseSource_stable hP | apply State.setGrp_stable hP | apply st_ite (P := P) | rfl) | split

theorem State.pwrEdge_stable (hP : Stable P)  {s : State} (h_s : P s) : P (State.pwrEdge s) := by
  unfold State.pwrEdge; (try dsimp only); (try simp only [mk_upd])
  repeat' first | intro _ | with_reducible (first | assumption | apply st_upd hP | apply State.groupEdge_stable hP | apply State.raiseSource_stable hP | apply State.readSupplies_stable hP | apply st_ite (P := P) | apply st_forEach (P := P) | rfl) | split

theorem State.gpioLatch_stable (hP : Stable P)  {s : State} (h_s : P s) : P (State.gpioLatch s) := by
  unfold State.gpioLatch; (try dsimp only)
  repeat' first | intro _ | with_reducible (first | assumption | apply hP.reg | apply st_ite (P := P)) | split

theorem State.pwrRecords_stable (hP : Stable P)  {s : State} (h_s : P s) : P (State.pwrRecords s) := by
  unfold State.pwrRecords; (try dsimp only); (try simp only [mk_upd])
  repeat' first | intro _ | with_reducible (first | assumption | apply st_upd hP | apply State.putIn_stable hP | apply st_ite (P := P) | apply st_forEach (P := P) | rfl) | split

theorem State.pwrClear_stable (hP : Stable P)  {s : State} (h_s : P s) : P (State.pwrClear s) := by
  unfold State.pwrClear; (try dsimp only); (try simp only [mk_upd])
  repeat' first | intro _ | with_reducible (first | assumption | apply st_upd hP | apply st_ite (P := P) | rfl) | split

theorem State.holdOff_stable (hP : Stable P) (g : Nat) (f : Grp → Grp) {s : State} (h_s : P s) : P (State.holdOff s g f) := by
  unfold State.holdOff; (try dsimp only)
  repeat' first | intro _ | with_reducible (first | assumption | apply State.ledCountAll_stable hP | apply State.setGrp_stable hP | apply State.vsOff_stable hP | apply st_ite (P := P)) | split

theorem execGroupOvervoltageOff_stable (hP : Stable P) (g : Fin 3) (mv : Int) {s : State} (h_s : P s) : OfOut P (execGroupOvervoltageOff g mv s) := by
  unfold execGroupOvervoltageOff; (try dsimp only); (try simp only [mk_upd])
  repeat' first | intro _ | with_reducible (first | assumption | apply st_upd hP | apply State.holdOff_stable hP | apply State.setPin_stable hP | apply of_oite (P := P) | apply of_next (P := P) | apply of_fault (P := P) | rfl) | split

theorem execDipOff_stable (hP : Stable P) (g : Fin 3) (mv : Int) {s : State} (h_s : P s) : OfOut P (execDipOff g mv s) := by
  unfold execDipOff; (try dsimp only); (try simp only [mk_upd])
  repeat' first | intro _ | with_reducible (first | assumption | apply st_upd hP | apply State.holdOff_stable hP | apply State.setPin_stable hP | apply of_oite (P := P) | apply of_next (P := P) | apply of_fault (P := P) | rfl) | split

theorem State.reverseReport_stable (hP : Stable P) (g : Nat) {s : State} (h_s : P s) : P (State.reverseReport s g) := by
  unfold State.reverseReport; (try dsimp only)
  repeat' first | intro _ | with_reducible (first | assumption | apply State.raiseSource_stable hP | apply State.setFld_stable hP | apply st_ite (P := P)) | split

theorem execReverseLatch_stable (hP : Stable P) (g : Fin 3) (us : Nat) (powered : Bool) {s : State} (h_s : P s) : OfOut P (execReverseLatch g us powered s) := by
  unfold execReverseLatch; (try dsimp only); (try simp only [mk_upd])
  repeat' first | intro _ | with_reducible (first | assumption | apply st_upd hP | apply State.reverseReport_stable hP | apply State.setGrp_stable hP | apply of_oite (P := P) | apply of_next (P := P) | apply of_fault (P := P) | rfl) | split

theorem execReverseOn_stable (hP : Stable P) (g : Fin 3) (mv : Int) {s : State} (h_s : P s) : OfOut P (execReverseOn g mv s) := by
  unfold execReverseOn; (try dsimp only); (try simp only [mk_upd])
  repeat' first | intro _ | with_reducible (first | assumption | apply st_upd hP | apply State.holdOff_stable hP | apply State.setOut_stable hP | apply State.setPin_stable hP | apply of_oite (P := P) | apply of_next (P := P) | apply of_fault (P := P) | apply st_forEach (P := P) | rfl) | split

theorem execReverseEnd_stable (hP : Stable P) (g : Fin 3) (mv : Int) {s : State} (h_s : P s) : OfOut P (execReverseEnd g mv s) := by
  unfold execReverseEnd; (try dsimp only); (try simp only [mk_upd])
  repeat' first | intro _ | with_reducible (first | assumption | apply st_upd hP | apply State.setGrp_stable hP | apply State.setOut_stable hP | apply State.setPin_stable hP | apply of_oite (P := P) | apply of_next (P := P) | apply of_fault (P := P) | apply st_forEach (P := P) | rfl) | split

theorem State.dipDomain_stable (hP : Stable P) (d : Nat) {s : State} (h_s : P s) : P (State.dipDomain s d) := by
  unfold State.dipDomain; (try dsimp only); (try simp only [mk_upd])
  repeat' first | intro _ | with_reducible (first | assumption | apply st_upd hP | apply State.goTo_stable hP | apply State.leaveOn_stable hP | apply State.setDom_stable hP | apply st_ite (P := P) | rfl) | split

theorem execLogicDip_stable (hP : Stable P) (mv : Int) {s : State} (h_s : P s) : OfOut P (execLogicDip mv s) := by
  unfold execLogicDip; (try dsimp only); (try simp only [mk_upd])
  repeat' first | intro _ | with_reducible (first | assumption | apply st_upd hP | apply State.dipDomain_stable hP | apply State.holdOff_stable hP | apply State.movePx_stable hP | apply State.setPin_stable hP | apply of_oite (P := P) | apply of_next (P := P) | apply of_fault (P := P) | apply st_forEach (P := P) | rfl) | split

theorem State.readSilo_stable (hP : Stable P) (u : Startup) {s : State} (h_s : P s) : P (State.readSilo s u) := by
  unfold State.readSilo; (try dsimp only)
  repeat' first | intro _ | with_reducible (first | assumption | apply hP.reg | apply State.ethTake_stable hP | apply State.setFld_stable hP | apply State.shadowSource_stable hP | apply State.storeShadow_stable hP | apply st_ite (P := P) | apply st_forEach (P := P)) | split

theorem State.lockDebug_stable (hP : Stable P)  {s : State} (h_s : P s) : P (State.lockDebug s) := by
  unfold State.lockDebug; (try dsimp only)
  repeat' first | intro _ | with_reducible (first | assumption | apply State.newChallenge_stable hP | apply State.setFld_stable hP | apply st_ite (P := P)) | split

theorem State.pathCheck_stable (hP : Stable P) (bad : Bool) {s : State} (h_s : P s) : P (State.pathCheck s bad) := by
  unfold State.pathCheck; (try dsimp only); (try simp only [mk_upd])
  repeat' first | intro _ | with_reducible (first | assumption | apply st_upd hP | apply State.movePx_stable hP | apply State.raiseSource_stable hP | apply st_ite (P := P) | apply st_forEach (P := P) | rfl) | split

theorem State.afterReset_stable (hP : Lasting P) (bit : Nat) (keep : Bool) (cells : Nat) {s : State} (h_s : P s) : P (State.afterReset s bit keep cells) := by
  unfold State.afterReset
  extract_lets b0 b1 b2 base s1 s2 s3
  have h0 : P base := hP.reset s base rfl rfl rfl h_s
  clear_value base
  have h1 : P s1 := State.setFld_stable hP.toStable _ _ h0
  clear_value s1
  have h2 : P s2 := st_ite (st_foldl (fun t c h => State.setCore_stable hP.toStable _ _ h) (st_forEach (fun t b h => hP.toStable.reg _ _ _ h) h1)) h1
  clear_value s2
  have h3 : P s3 := st_forEach (fun t c h => st_ite (State.setOut_stable hP.toStable _ _ h) h) h2
  exact st_ite (st_forEach (fun t m h => State.setFld_stable hP.toStable _ _ h) h3) h3

theorem State.powerOn_stable (hP : Lasting P) (bit : Nat) (keep : Bool) (u : Startup) {s : State} (h_s : P s) : P (State.powerOn s bit keep u) := by
  unfold State.powerOn; (try dsimp only)
  repeat' first | intro _ | with_reducible (first | assumption | apply State.afterReset_stable hP | apply State.applyWear_stable hP.toStable | apply State.driveSafe_stable hP.toStable | apply State.haltF_stable hP.toStable | apply State.laneRebuild_stable hP.toStable | apply State.loadDeviceKeys_stable hP.toStable | apply State.lockDebug_stable hP.toStable | apply State.observe_stable hP.toStable | apply State.pathCheck_stable hP.toStable | apply State.readSilo_stable hP.toStable | apply State.reverseReport_stable hP.toStable | apply st_ite (P := P) | apply st_forEach (P := P)) | split

theorem execPowerUp_stable (hP : Lasting P) (u : Startup) {s : State} (h_s : P s) : OfOut P (execPowerUp u s) := by
  unfold execPowerUp; (try dsimp only)
  repeat' first | intro _ | with_reducible (first | assumption | apply State.powerOn_stable hP | apply of_oite (P := P) | apply of_next (P := P) | apply of_fault (P := P)) | split

theorem execLowSupply_stable (hP : Lasting P) (mv : Int) (u : Startup) {s : State} (h_s : P s) : OfOut P (execLowSupply mv u s) := by
  unfold execLowSupply; (try dsimp only)
  repeat' first | intro _ | with_reducible (first | assumption | apply State.powerOn_stable hP | apply State.setPin_stable hP.toStable | apply of_oite (P := P) | apply of_next (P := P) | apply of_fault (P := P)) | split

theorem execLongDip_stable (hP : Lasting P) (u : Startup) {s : State} (h_s : P s) : OfOut P (execLongDip u s) := by
  unfold execLongDip; (try dsimp only)
  repeat' first | intro _ | with_reducible (first | assumption | apply State.powerOn_stable hP | apply of_oite (P := P) | apply of_next (P := P) | apply of_fault (P := P)) | split

theorem execHoldUpEmpty_stable (hP : Lasting P) (mv : Int) (u : Startup) {s : State} (h_s : P s) : OfOut P (execHoldUpEmpty mv u s) := by
  unfold execHoldUpEmpty; (try dsimp only)
  repeat' first | intro _ | with_reducible (first | assumption | apply State.powerOn_stable hP | apply State.setPin_stable hP.toStable | apply of_oite (P := P) | apply of_next (P := P) | apply of_fault (P := P)) | split

theorem execBrownOut_stable (hP : Lasting P) (u : Startup) {s : State} (h_s : P s) : OfOut P (execBrownOut u s) := by
  unfold execBrownOut; (try dsimp only)
  repeat' first | intro _ | with_reducible (first | assumption | apply State.powerOn_stable hP | apply of_oite (P := P) | apply of_next (P := P) | apply of_fault (P := P)) | split

theorem execResetLand_stable (hP : Lasting P) (ns : Nat) (u : Startup) {s : State} (h_s : P s) : OfOut P (execResetLand ns u s) := by
  unfold execResetLand; (try dsimp only); (try simp only [mk_upd])
  repeat' first | intro _ | with_reducible (first | assumption | apply st_upd hP.toStable | apply State.powerOn_stable hP | apply of_oite (P := P) | apply of_next (P := P) | apply of_fault (P := P) | rfl) | split

theorem execClassFEnd_stable (hP : Lasting P) (ms : Nat) (u : Startup) {s : State} (h_s : P s) : OfOut P (execClassFEnd ms u s) := by
  unfold execClassFEnd; dsimp only
  refine of_next ?_
  split
  · exact h_s
  · split
    · exact State.powerOn_stable hP _ _ _ (hP.any s _ rfl rfl rfl h_s)
    · exact hP.any s _ rfl rfl rfl h_s

theorem execPllUnlock_stable (hP : Stable P)  {s : State} (h_s : P s) : OfOut P (execPllUnlock s) := by
  unfold execPllUnlock; (try dsimp only)
  repeat' first | intro _ | with_reducible (first | assumption | apply State.raiseSource_stable hP | apply of_oite (P := P) | apply of_next (P := P) | apply of_fault (P := P)) | split

theorem execAllClocksLost_stable (hP : Stable P)  {s : State} (h_s : P s) : OfOut P (execAllClocksLost s) := by
  unfold execAllClocksLost; (try dsimp only)
  repeat' first | intro _ | with_reducible (first | assumption | apply State.raiseSource_stable hP | apply of_oite (P := P) | apply of_next (P := P) | apply of_fault (P := P)) | split

theorem execAonClockStop_stable (hP : Stable P)  {s : State} (h_s : P s) : OfOut P (execAonClockStop s) := by
  unfold execAonClockStop; (try dsimp only); (try simp only [mk_upd])
  repeat' first | intro _ | with_reducible (first | assumption | apply st_upd hP | apply State.raiseSource_stable hP | apply State.setFld_stable hP | apply of_oite (P := P) | apply of_next (P := P) | apply of_fault (P := P) | rfl) | split

theorem execCrystalStop_stable (hP : Stable P)  {s : State} (h_s : P s) : OfOut P (execCrystalStop s) := by
  unfold execCrystalStop; (try dsimp only); (try simp only [mk_upd])
  repeat' first | intro _ | with_reducible (first | assumption | apply st_upd hP | apply State.raiseSource_stable hP | apply of_oite (P := P) | apply of_next (P := P) | apply of_fault (P := P) | rfl) | split

theorem execCounterParityError_stable (hP : Stable P)  {s : State} (h_s : P s) : OfOut P (execCounterParityError s) := by
  unfold execCounterParityError; (try dsimp only)
  repeat' first | intro _ | with_reducible (first | assumption | apply State.raiseSource_stable hP | apply of_oite (P := P) | apply of_next (P := P) | apply of_fault (P := P)) | split

theorem execParkEntry_stable (hP : Stable P) (us : Nat) {s : State} (h_s : P s) : OfOut P (execParkEntry us s) := by
  unfold execParkEntry; (try dsimp only); (try simp only [mk_upd])
  repeat' first | intro _ | with_reducible (first | assumption | apply st_upd hP | apply State.advance_stable hP | apply of_oite (P := P) | apply of_next (P := P) | apply of_fault (P := P) | rfl) | split

theorem State.wakeBy_stable (hP : Stable P) (edges : Nat) {s : State} (h_s : P s) : P (State.wakeBy s edges) := by
  unfold State.wakeBy; (try dsimp only); (try simp only [mk_upd])
  repeat' first | intro _ | with_reducible (first | assumption | apply st_upd hP | apply State.setFld_stable hP | apply st_ite (P := P) | rfl) | split

theorem execWakeRequest_stable (hP : Stable P) (wup : List (Fin 2)) (fec : List (Fin 2)) (hcs : Bool) {s : State} (h_s : P s) : OfOut P (execWakeRequest wup fec hcs s) := by
  unfold execWakeRequest; (try dsimp only)
  repeat' first | intro _ | with_reducible (first | assumption | apply State.wakeBy_stable hP | apply of_oite (P := P) | apply of_next (P := P) | apply of_fault (P := P)) | split

theorem execSelectiveWake_stable (hP : Stable P) (n : Fin 2) (m : CanMsg) (rate : Fin 4) {s : State} (h_s : P s) : OfOut P (execSelectiveWake n m rate s) := by
  unfold execSelectiveWake; (try dsimp only)
  repeat' first | intro _ | with_reducible (first | assumption | apply State.wakeBy_stable hP | apply of_oite (P := P) | apply of_next (P := P) | apply of_fault (P := P)) | split

theorem execPllLock_stable (hP : Stable P) (us : Nat) (lock : Nat) {s : State} (h_s : P s) : OfOut P (execPllLock us lock s) := by
  unfold execPllLock; (try dsimp only); (try simp only [mk_upd])
  repeat' first | intro _ | with_reducible (first | assumption | apply st_upd hP | apply State.advance_stable hP | apply State.setFld_stable hP | apply State.setOffset_stable hP | apply State.timGo_stable hP | apply of_oite (P := P) | apply of_next (P := P) | apply of_fault (P := P) | rfl) | split

theorem execAonTimerExpire_stable (hP : Stable P)  {s : State} (h_s : P s) : OfOut P (execAonTimerExpire s) := by
  unfold execAonTimerExpire; (try dsimp only)
  repeat' first | intro _ | with_reducible (first | assumption | apply State.setBit_stable hP | apply State.setFld_stable hP | apply of_oite (P := P) | apply of_next (P := P) | apply of_fault (P := P)) | split

theorem State.tick_stable (hP : Stable P)  {s : State} (h_s : P s) : P (State.tick s) := by
  unfold State.tick
  split
  · exact h_s
  · exact h_s
  · exact hP.rest s _ rfl rfl rfl rfl rfl (Nat.le_succ _) id h_s

theorem State.coreRestart_stable (hP : Stable P) (c : Fin 2) {s : State} (h_s : P s) : P (State.coreRestart s c) := by
  unfold State.coreRestart; (try dsimp only)
  repeat' first | intro _ | with_reducible (first | assumption | apply State.abandonAll_stable hP | apply State.debugHalt_stable hP | apply State.endJobs_stable hP | apply State.startCore_stable hP | apply st_ite (P := P)) | split

theorem State.crstWrite_stable (hP : Stable P) (m : Master) (w : Word) {s : State} (h_s : P s) : P (State.crstWrite s m w) := by
  unfold State.crstWrite; (try dsimp only); (try simp only [mk_upd])
  repeat' first | intro _ | with_reducible (first | assumption | apply st_upd hP | apply State.coreRestart_stable hP | apply st_ite (P := P) | apply st_foldl (P := P) | rfl) | split

theorem State.dbgCtl_stable (hP : Stable P) (c : Fin 2) (w : Word) {s : State} (h_s : P s) : P (State.dbgCtl s c w) := by
  unfold State.dbgCtl; (try dsimp only); (try simp only [mk_upd])
  repeat' first | intro _ | with_reducible (first | assumption | apply st_upd hP | apply State.coreRestart_stable hP | apply State.debugHalt_stable hP | apply State.echoSync_stable hP | apply State.putBit_stable hP | apply State.setCore_stable hP | apply st_ite (P := P) | rfl) | split

theorem execDebugHalt_stable (hP : Stable P) (c : Fin 2) {s : State} (h_s : P s) : OfOut P (execDebugHalt c s) := by
  unfold execDebugHalt; (try dsimp only)
  repeat' first | intro _ | with_reducible (first | assumption | apply State.dbgCtl_stable hP | apply of_oite (P := P) | apply of_next (P := P) | apply of_fault (P := P)) | split

theorem execDebugResume_stable (hP : Stable P) (c : Fin 2) {s : State} (h_s : P s) : OfOut P (execDebugResume c s) := by
  unfold execDebugResume; (try dsimp only)
  repeat' first | intro _ | with_reducible (first | assumption | apply State.dbgCtl_stable hP | apply of_oite (P := P) | apply of_next (P := P) | apply of_fault (P := P)) | split

theorem execStep_stable (hP : Stable P) (c : Fin 2) {s : State} (h_s : P s) : OfOut P (execStep c s) := by
  unfold execStep; (try dsimp only)
  repeat' first | intro _ | with_reducible (first | assumption | apply State.dbgCtl_stable hP | apply of_oite (P := P) | apply of_next (P := P) | apply of_fault (P := P)) | split

theorem execRestart_stable (hP : Stable P) (c : Fin 2) {s : State} (h_s : P s) : OfOut P (execRestart c s) := by
  unfold execRestart; (try dsimp only)
  repeat' first | intro _ | with_reducible (first | assumption | apply State.dbgCtl_stable hP | apply of_oite (P := P) | apply of_next (P := P) | apply of_fault (P := P)) | split

theorem execLinkReset_stable (hP : Stable P)  {s : State} (h_s : P s) : OfOut P (execLinkReset s) := by
  unfold execLinkReset; (try dsimp only)
  repeat' first | intro _ | with_reducible (first | assumption | apply of_oite (P := P) | apply of_next (P := P) | apply of_fault (P := P)) | split

theorem BusRes_stored_stable (hP : Stable P)  {s : State} (h_s : P s) : OfBus P (BusRes.stored s) := by
  unfold BusRes.stored; (try dsimp only)
  repeat' first | intro _ | with_reducible (first | assumption | apply Eff_ok_stable hP | apply of_bite (P := P) | apply of_bok (P := P) | apply of_bdata (P := P) | apply of_bwait (P := P) | apply of_balign (P := P) | apply of_bbus (P := P) | apply of_bpriv (P := P) | apply of_btype (P := P) | apply of_bunchecked (P := P) | apply st_ite (P := P) | refine st_done (P := P) (by assumption) ?_ | refine st_trap (P := P) (by assumption) ?_ | refine st_wait (P := P) (by assumption) ?_) | split

theorem State.inDomain_stable (hP : Stable P) (d : Nat) (f : State → TWord × State) {s : State} (h_s : P s) (h_f : ∀ x0, P x0 → P ((f x0)).2) : OfBus P (State.inDomain s d f) := by
  unfold State.inDomain; (try dsimp only)
  repeat' first | intro _ | with_reducible (first | assumption | apply Eff_ok_stable hP | apply State.lockAccess_stable hP | apply h_f | apply of_bite (P := P) | apply of_bok (P := P) | apply of_bdata (P := P) | apply of_bwait (P := P) | apply of_balign (P := P) | apply of_bbus (P := P) | apply of_bpriv (P := P) | apply of_btype (P := P) | apply of_bunchecked (P := P) | apply st_ite (P := P) | refine st_done (P := P) (by assumption) ?_ | refine st_trap (P := P) (by assumption) ?_ | refine st_wait (P := P) (by assumption) ?_) | split

theorem State.loadPeriph_stable (hP : Stable P) (m : Master) (a : Nat) {s : State} (h_s : P s) : OfBus P (State.loadPeriph s m a) := by
  unfold State.loadPeriph; (try dsimp only); (try simp only [mk_upd])
  repeat' first | intro _ | with_reducible (first | assumption | apply st_upd hP | apply Eff_ok_stable hP | apply State.inDomain_stable hP | apply State.portRead_stable hP | apply State.readCntlo_stable hP | apply State.readTlo_stable hP | apply State.urawAccess_stable hP | apply of_bite (P := P) | apply of_bok (P := P) | apply of_bdata (P := P) | apply of_bwait (P := P) | apply of_balign (P := P) | apply of_bbus (P := P) | apply of_bpriv (P := P) | apply of_btype (P := P) | apply of_bunchecked (P := P) | apply st_ite (P := P) | refine st_done (P := P) (by assumption) ?_ | refine st_trap (P := P) (by assumption) ?_ | refine st_wait (P := P) (by assumption) ?_ | refine st_bok (P := P) (by assumption) ?_ | refine st_bdata (P := P) (by assumption) ?_ | refine st_snd (P := P) (by assumption) ?_ | rfl) | split

theorem State.plainStore_stable (hP : Stable P) (r : RegRow) (a : Nat) (w : Word) {s : State} (h_s : P s) : P (State.plainStore s r a w) := by
  unfold State.plainStore; (try dsimp only)
  repeat' first | intro _ | with_reducible (first | assumption | apply hP.reg | apply BusRes_stored_stable hP | apply State.holdFw_stable hP | apply st_ite (P := P) | refine st_bok (P := P) (by assumption) ?_ | refine st_bdata (P := P) (by assumption) ?_) | split

theorem State.sev_stable (hP : Stable P) (w : Word) {s : State} (h_s : P s) : P (State.sev s w) := by
  unfold State.sev; (try dsimp only)
  repeat' first | intro _ | with_reducible (first | assumption | apply State.raiseEvent_stable hP | apply st_ite (P := P) | apply st_forEach (P := P)) | split

theorem State.storeCoreSide_stable (hP : Stable P) (m : Master) (r : RegRow) (a : Nat) (w : Word) {s : State} (h_s : P s) : OfOptBus P (State.storeCoreSide s m r a w) := by
  unfold State.storeCoreSide; (try dsimp only); (try simp only [mk_upd])
  repeat' first | intro _ | with_reducible (first | assumption | apply st_upd hP | apply hP.reg | apply BusRes_stored_stable hP | apply Eff_ok_stable hP | apply State.bankWrite_stable hP | apply State.crstWrite_stable hP | apply State.ownWrite_stable hP | apply State.plainStore_stable hP | apply State.setBit_stable hP | apply State.setGrp_stable hP | apply State.setRun_stable hP | apply State.sev_stable hP | apply State.sourceForce_stable hP | apply State.stickyClear_stable hP | apply State.swset_stable hP | apply of_boite (P := P) | apply of_bnone (P := P) | apply of_bsome (P := P) | apply of_bite (P := P) | apply of_bok (P := P) | apply of_bdata (P := P) | apply of_bwait (P := P) | apply of_balign (P := P) | apply of_bbus (P := P) | apply of_bpriv (P := P) | apply of_btype (P := P) | apply of_bunchecked (P := P) | apply st_ite (P := P) | apply st_forEach (P := P) | refine st_bok (P := P) (by assumption) ?_ | refine st_bdata (P := P) (by assumption) ?_ | refine st_done (P := P) (by assumption) ?_ | refine st_trap (P := P) (by assumption) ?_ | refine st_wait (P := P) (by assumption) ?_ | refine st_exs (P := P) (by assumption) ?_ | rfl) | split

theorem State.canCtl_stable (hP : Stable P) (n : Nat) (r : RegRow) (a : Nat) (w : Word) {s : State} (h_s : P s) : P (State.canCtl s n r a w) := by
  unfold State.canCtl; (try dsimp only)
  repeat' first | intro _ | with_reducible (first | assumption | apply hP.reg | apply BusRes_stored_stable hP | apply State.canRecover_stable hP | apply State.canRun_stable hP | apply st_ite (P := P) | refine st_bok (P := P) (by assumption) ?_ | refine st_bdata (P := P) (by assumption) ?_) | split

theorem State.storeCan_stable (hP : Stable P) (m : Master) (r : Option RegRow) (a : Nat) (w : Word) {s : State} (h_s : P s) : OfOptBus P (State.storeCan s m r a w) := by
  unfold State.storeCan; (try dsimp only); (try simp only [mk_upd])
  repeat' first | intro _ | with_reducible (first | assumption | apply st_upd hP | apply BusRes_stored_stable hP | apply State.abandon_stable hP | apply State.canCtl_stable hP | apply State.inDomain_stable hP | apply State.objCfg_stable hP | apply State.portWrite_stable hP | apply State.queueAck_stable hP | apply of_boite (P := P) | apply of_bnone (P := P) | apply of_bsome (P := P) | apply of_bite (P := P) | apply of_bok (P := P) | apply of_bdata (P := P) | apply of_bwait (P := P) | apply of_balign (P := P) | apply of_bbus (P := P) | apply of_bpriv (P := P) | apply of_btype (P := P) | apply of_bunchecked (P := P) | apply st_ite (P := P) | refine st_bok (P := P) (by assumption) ?_ | refine st_bdata (P := P) (by assumption) ?_ | rfl) | split

theorem State.storeNet_stable (hP : Stable P) (job : Bool) (r : RegRow) (a : Nat) (w : Word) {s : State} (h_s : P s) : OfOptBus P (State.storeNet s job r a w) := by
  unfold State.storeNet; (try dsimp only); (try simp only [mk_upd])
  repeat' first | intro _ | with_reducible (first | assumption | apply st_upd hP | apply hP.reg | apply BusRes_stored_stable hP | apply State.accStart_stable hP | apply State.accStop_stable hP | apply State.armAlarm_stable hP | apply State.ethStart_stable hP | apply State.inDomain_stable hP | apply State.linEnable_stable hP | apply State.linHeader_stable hP | apply State.linStore_stable hP | apply State.linWake_stable hP | apply State.nmClear_stable hP | apply State.nmStart_stable hP | apply State.pepochWrite_stable hP | apply State.portCfg_stable hP | apply State.setBal_stable hP | apply State.urawAccess_stable hP | apply of_boite (P := P) | apply of_bnone (P := P) | apply of_bsome (P := P) | apply of_bite (P := P) | apply of_bok (P := P) | apply of_bdata (P := P) | apply of_bwait (P := P) | apply of_balign (P := P) | apply of_bbus (P := P) | apply of_bpriv (P := P) | apply of_btype (P := P) | apply of_bunchecked (P := P) | apply st_ite (P := P) | refine st_bok (P := P) (by assumption) ?_ | refine st_bdata (P := P) (by assumption) ?_ | rfl) | split

theorem State.hostCommit_stable (hP : Stable P)  {s : State} (h_s : P s) : P (State.hostCommit s) := by
  unfold State.hostCommit; (try dsimp only); (try simp only [mk_upd])
  repeat' first | intro _ | with_reducible (first | assumption | apply st_upd hP | apply State.setBit_stable hP | apply st_ite (P := P) | rfl) | split

theorem State.storeSys_stable (hP : Stable P) (m : Master) (job : Bool) (a : Nat) (w : Word) {s : State} (h_s : P s) : OfOptBus P (State.storeSys s m job a w) := by
  unfold State.storeSys; (try dsimp only); (try simp only [mk_upd])
  repeat' first | intro _ | with_reducible (first | assumption | apply st_upd hP | apply hP.reg | apply BusRes_stored_stable hP | apply State.dbgCtl_stable hP | apply State.drespWrite_stable hP | apply State.frcWrite_stable hP | apply State.hctl_stable hP | apply State.hostCommit_stable hP | apply State.jdoneClear_stable hP | apply State.rctlWrite_stable hP | apply State.rdataWrite_stable hP | apply State.recoverWrite_stable hP | apply State.siloWrite_stable hP | apply of_boite (P := P) | apply of_bnone (P := P) | apply of_bsome (P := P) | apply of_bite (P := P) | apply of_bok (P := P) | apply of_bdata (P := P) | apply of_bwait (P := P) | apply of_balign (P := P) | apply of_bbus (P := P) | apply of_bpriv (P := P) | apply of_btype (P := P) | apply of_bunchecked (P := P) | apply st_ite (P := P) | refine st_bok (P := P) (by assumption) ?_ | refine st_bdata (P := P) (by assumption) ?_ | refine st_next (P := P) (by assumption) ?_ | rfl) | split

theorem State.storePeriph_stable (hP : Stable P) (m : Master) (job : Bool) (a : Nat) (v : TWord) {s : State} (h_s : P s) : OfBus P (State.storePeriph s m job a v) := by
  unfold State.storePeriph; (try dsimp only); (try simp only [mk_upd])
  repeat' first | intro _ | with_reducible (first | assumption | apply st_upd hP | apply BusRes_stored_stable hP | apply State.plainStore_stable hP | apply State.setBit_stable hP | apply State.storeCan_stable hP | apply State.storeCoreSide_stable hP | apply State.storeNet_stable hP | apply State.storeSys_stable hP | apply of_bite (P := P) | apply of_bok (P := P) | apply of_bdata (P := P) | apply of_bwait (P := P) | apply of_balign (P := P) | apply of_bbus (P := P) | apply of_bpriv (P := P) | apply of_btype (P := P) | apply of_bunchecked (P := P) | apply st_ite (P := P) | apply st_getD (P := P) | apply of_getD (P := P) | apply st_foldl2 (P := P) | apply st_pite (P := P) | apply of_oite (P := P) | apply of_eite (P := P) | apply of_boite (P := P) | apply of_x2err (P := P) | apply of_x2ok (P := P) | apply of_next (P := P) | apply of_fault (P := P) | apply of_done (P := P) | apply of_trap (P := P) | apply of_wait (P := P) | apply of_unchecked (P := P) | apply of_none (P := P) | apply of_some (P := P) | apply of_bnone (P := P) | apply of_bsome (P := P) | apply of_enone (P := P) | apply of_esome (P := P) | apply of_xserr (P := P) | apply of_xsok (P := P) | apply of_xerr (P := P) | apply of_xok (P := P) | apply of_xeerr (P := P) | apply of_xeok (P := P) | apply of_xeperr (P := P) | apply of_xepok (P := P) | refine st_bok (P := P) (by assumption) ?_ | refine st_bdata (P := P) (by assumption) ?_ | refine st_optbus (P := P) (by assumption) ?_ | exact (OfBus.get (o := .ok _ _) (by assumption)) | exact (OfBus.get (o := .data _) (by assumption)) | refine st_exp2 (P := P) (by assumption) ?_ | refine st_opt (P := P) (by assumption) ?_ | refine st_snd (P := P) (by assumption) ?_ | refine st_fst (P := P) (by assumption) ?_ | refine st_opteff (P := P) (by assumption) ?_ | refine st_done (P := P) (by assumption) ?_ | refine st_trap (P := P) (by assumption) ?_ | refine st_wait (P := P) (by assumption) ?_ | refine st_next (P := P) (by assumption) ?_ | refine st_exs (P := P) (by assumption) ?_ | refine st_exp (P := P) (by assumption) ?_ | refine st_exe (P := P) (by assumption) ?_ | refine st_exee (P := P) (by assumption) ?_ | refine st_exep (P := P) (by assumption) ?_ | refine st_exepe (P := P) (by assumption) ?_ | rfl) | split

theorem State.stageStore_stable (hP : Stable P) (m : Master) (o : Nat) (w : TWord) {s : State} (h_s : P s) : P (State.stageStore s m o w) := by
  unfold State.stageStore; (try dsimp only); (try simp only [mk_upd])
  repeat' first | intro _ | with_reducible (first | assumption | apply st_upd hP | apply State.setBit_stable hP | apply st_ite (P := P) | rfl) | split

theorem State.imageReady_stable (hP : Stable P)  {s : State} (h_s : P s) : P (State.imageReady s) := by
  unfold State.imageReady; (try dsimp only)
  repeat' first | intro _ | with_reducible (first | assumption | apply State.advance_stable hP | apply st_ite (P := P)) | split

theorem State.nearLoad_stable (hP : Stable P) (c : Nat) (a : Nat) (v : TWord) (e : Ecc) {s : State} (h_s : P s) : OfBus P (State.nearLoad s c a v e) := by
  unfold State.nearLoad; (try dsimp only)
  repeat' first | intro _ | with_reducible (first | assumption | apply State.inDomain_stable hP | apply State.raiseSource_stable hP | apply of_bite (P := P) | apply of_bok (P := P) | apply of_bdata (P := P) | apply of_bwait (P := P) | apply of_balign (P := P) | apply of_bbus (P := P) | apply of_bpriv (P := P) | apply of_btype (P := P) | apply of_bunchecked (P := P) | apply st_ite (P := P) | refine st_bok (P := P) (by assumption) ?_ | refine st_bdata (P := P) (by assumption) ?_) | split

theorem State.grnLoad_stable (hP : Stable P) (m : Master) (a : Nat) (e : Ecc) {s : State} (h_s : P s) : OfBus P (State.grnLoad s m a e) := by
  unfold State.grnLoad; (try dsimp only); (try simp only [mk_upd])
  repeat' first | intro _ | with_reducible (first | assumption | apply st_upd hP | apply Eff_ok_stable hP | apply State.grnRead_stable hP | apply of_bite (P := P) | apply of_bok (P := P) | apply of_bdata (P := P) | apply of_bwait (P := P) | apply of_balign (P := P) | apply of_bbus (P := P) | apply of_bpriv (P := P) | apply of_btype (P := P) | apply of_bunchecked (P := P) | apply st_ite (P := P) | refine st_done (P := P) (by assumption) ?_ | refine st_trap (P := P) (by assumption) ?_ | refine st_wait (P := P) (by assumption) ?_ | refine st_snd (P := P) (by assumption) ?_ | rfl) | split

theorem State.loadAddr_stable (hP : Stable P) (m : Master) (sup : Bool) (a : Nat) (e : Ecc) {s : State} (h_s : P s) : OfBus P (State.loadAddr s m sup a e) := by
  unfold State.loadAddr; (try dsimp only); (try simp only [mk_upd])
  repeat' first | intro _ | with_reducible (first | assumption | apply st_upd hP | apply Eff_ok_stable hP | apply State.grnLoad_stable hP | apply State.imageReady_stable hP | apply State.inDomain_stable hP | apply State.loadPeriph_stable hP | apply State.nearLoad_stable hP | apply of_bite (P := P) | apply of_bok (P := P) | apply of_bdata (P := P) | apply of_bwait (P := P) | apply of_balign (P := P) | apply of_bbus (P := P) | apply of_bpriv (P := P) | apply of_btype (P := P) | apply of_bunchecked (P := P) | apply st_ite (P := P) | refine st_done (P := P) (by assumption) ?_ | refine st_trap (P := P) (by assumption) ?_ | refine st_wait (P := P) (by assumption) ?_ | refine st_bok (P := P) (by assumption) ?_ | refine st_bdata (P := P) (by assumption) ?_ | rfl) | split

theorem State.customStore_stable (hP : Stable P) (a : Nat) (w : Word) {s : State} (h_s : P s) : P (State.customStore s a w) := by
  unfold State.customStore; (try dsimp only)
  repeat' first | intro _ | with_reducible (first | assumption | apply hP.mem | apply hP.reg | apply State.heal_stable hP | apply st_ite (P := P)) | split

theorem State.storeAddr_stable (hP : Stable P) (m : Master) (sup : Bool) (a : Nat) (v : TWord) {s : State} (h_s : P s) : OfBus P (State.storeAddr s m sup a v) := by
  unfold State.storeAddr; (try dsimp only); (try simp only [mk_upd])
  repeat' first | intro _ | with_reducible (first | assumption | apply st_upd hP | apply BusRes_stored_stable hP | apply State.customStore_stable hP | apply State.grnWrite_stable hP | apply State.inDomain_stable hP | apply State.setUcode_stable hP | apply State.stageStore_stable hP | apply State.storeMem_stable hP | apply State.storePeriph_stable hP | apply of_bite (P := P) | apply of_bok (P := P) | apply of_bdata (P := P) | apply of_bwait (P := P) | apply of_balign (P := P) | apply of_bbus (P := P) | apply of_bpriv (P := P) | apply of_btype (P := P) | apply of_bunchecked (P := P) | apply st_ite (P := P) | refine st_bok (P := P) (by assumption) ?_ | refine st_bdata (P := P) (by assumption) ?_ | rfl) | split

theorem State.drained_stable (hP : Stable P) (m : Master) {s : State} (h_s : P s) : P ((State.drained s m)).2 := by
  unfold State.drained; (try dsimp only); (try simp only [mk_upd])
  repeat' first | intro _ | with_reducible (first | assumption | apply st_upd hP | apply State.drainAll_stable hP | apply st_ite (P := P) | apply st_pite (P := P) | rfl) | split

theorem execRegisterWrite_stable (hP : Stable P) (m : Master) (job : Bool) (a : Nat) (v : TWord) {s : State} (h_s : P s) : OfOut P (execRegisterWrite m job a v s) := by
  unfold execRegisterWrite; (try dsimp only); (try simp only [mk_upd])
  repeat' first | intro _ | with_reducible (first | assumption | apply st_upd hP | apply Eff_ok_stable hP | apply State.demand_stable hP | apply State.drained_stable hP | apply State.stall_stable hP | apply State.storePeriph_stable hP | apply State.trapEnter_stable hP | apply of_oite (P := P) | apply of_next (P := P) | apply of_fault (P := P) | refine st_done (P := P) (by assumption) ?_ | refine st_trap (P := P) (by assumption) ?_ | refine st_wait (P := P) (by assumption) ?_ | refine st_snd (P := P) (by assumption) ?_ | refine st_bok (P := P) (by assumption) ?_ | refine st_bdata (P := P) (by assumption) ?_ | rfl) | split

theorem execFrameloRead_stable (hP : Stable P) (m : Master) {s : State} (h_s : P s) : OfOut P (execFrameloRead m s) := by
  unfold execFrameloRead; (try dsimp only); (try simp only [mk_upd])
  repeat' first | intro _ | with_reducible (first | assumption | apply st_upd hP | apply Eff_ok_stable hP | apply State.deliver_stable hP | apply State.drained_stable hP | apply State.load_stable hP | apply State.loadPeriph_stable hP | apply of_oite (P := P) | apply of_next (P := P) | apply of_fault (P := P) | apply st_ite (P := P) | refine st_done (P := P) (by assumption) ?_ | refine st_trap (P := P) (by assumption) ?_ | refine st_wait (P := P) (by assumption) ?_ | refine st_snd (P := P) (by assumption) ?_ | refine st_bok (P := P) (by assumption) ?_ | refine st_bdata (P := P) (by assumption) ?_ | rfl) | split

theorem execCoreRestart_stable (hP : Stable P) (m : Master) (job : Bool) (w : Word) {s : State} (h_s : P s) : OfOut P (execCoreRestart m job w s) := by
  unfold execCoreRestart; (try dsimp only)
  repeat' first | intro _ | with_reducible (first | assumption | apply State.coreRestart_stable hP | apply State.crstWrite_stable hP | apply State.drained_stable hP | apply State.setBit_stable hP | apply State.store_stable hP | apply of_oite (P := P) | apply of_next (P := P) | apply of_fault (P := P) | apply st_ite (P := P) | refine st_snd (P := P) (by assumption) ?_) | split

theorem execObjectPortRead_stable (hP : Stable P) (m : Master) (n : Fin 6) (o : Fin 256) {s : State} (h_s : P s) : OfOut P (execObjectPortRead m n o s) := by
  refine of_next (State.load_stable hP _ _ h_s (fun t h => st_ite (State.drained_stable hP m h) ?_))
  have hd := State.drained_stable hP m h
  exact State.answer_stable hP _ _ ⟨State.atDomain_stable hP _ _ hd (fun t h => State.portRead_stable hP _ _ _ h),
    atDomain_some_stable hP _ _ (fun t h => State.portRead_stable hP _ _ _ h) hd⟩

theorem execObjectPortWrite_stable (hP : Stable P) (m : Master) (n : Fin 6) (o : Fin 256) (w : Word) {s : State} (h_s : P s) : OfOut P (execObjectPortWrite m n o w s) := by
  refine of_next (State.store_stable hP _ _ h_s (fun t h => st_ite (State.drained_stable hP m h) ?_))
  have hd := State.drained_stable hP m h
  exact State.answer_stable hP _ _ ⟨State.atDomain_stable hP _ _ hd (fun t h => State.portWrite_stable hP _ _ _ _ h),
    atDomain_some_stable hP _ _ (fun t h => State.portWrite_stable hP _ _ _ _ h) hd⟩

theorem execLckrel_stable (hP : Stable P) (m : Master) (n : Fin 6) {s : State} (h_s : P s) : OfOut P (execLckrel m n s) := by
  unfold execLckrel; (try dsimp only)
  repeat' first | intro _ | with_reducible (first | assumption | apply State.abandon_stable hP | apply State.drained_stable hP | apply State.store_stable hP | apply of_oite (P := P) | apply of_next (P := P) | apply of_fault (P := P) | apply st_ite (P := P) | refine st_snd (P := P) (by assumption) ?_) | split

theorem execSev_stable (hP : Stable P) (w : Word) {s : State} (h_s : P s) : OfOut P (execSev w s) := by
  unfold execSev; (try dsimp only)
  repeat' first | intro _ | with_reducible (first | assumption | apply State.sev_stable hP | apply State.store_stable hP | apply of_oite (P := P) | apply of_next (P := P) | apply of_fault (P := P) | apply st_ite (P := P)) | split

theorem State.setHst_stable (hP : Stable P) (f : Hst → Hst) {s : State} (h_s : P s) : P (State.setHst s f) := by
  unfold State.setHst; (try dsimp only); (try simp only [mk_upd])
  repeat' first | intro _ | with_reducible (first | assumption | apply st_upd hP | apply st_ite (P := P) | rfl) | split

theorem State.hstCause_stable (hP : Stable P) (c : Nat) {s : State} (h_s : P s) : P (State.hstCause s c) := by
  unfold State.hstCause; (try dsimp only)
  repeat' first | intro _ | with_reducible (first | assumption | apply State.raiseEvent_stable hP | apply State.setFld_stable hP | apply st_ite (P := P)) | split

theorem State.authCheck_stable (hP : Stable P) (udp : Bool) (b : Bytes) (r : HostReq) {s : State} (h_s : P s) : P ((State.authCheck s udp b r)).2 := by
  unfold State.authCheck; (try dsimp only)
  repeat' first | intro _ | with_reducible (first | assumption | apply State.setFld_stable hP | apply st_ite (P := P) | apply st_pite (P := P)) | split

theorem State.hostWake_stable (hP : Stable P) (d : Nat) {s : State} (h_s : P s) : P (State.hostWake s d) := by
  unfold State.hostWake; (try dsimp only)
  repeat' first | intro _ | with_reducible (first | assumption | apply State.demand_stable hP | apply State.wakeDone_stable hP | apply st_ite (P := P)) | split

theorem State.hostLoad_stable (hP : Stable P) (a : Nat) {s : State} (h_s : P s) : OfExc P (State.hostLoad s a) := by
  unfold State.hostLoad; (try dsimp only); (try simp only [mk_upd])
  repeat' first | intro _ | with_reducible (first | assumption | apply st_upd hP | apply Eff_ok_stable hP | apply State.hostWake_stable hP | apply State.loadAddr_stable hP | apply State.wakeFailed_stable hP | apply of_xerr (P := P) | apply of_xok (P := P) | refine st_done (P := P) (by assumption) ?_ | refine st_trap (P := P) (by assumption) ?_ | refine st_wait (P := P) (by assumption) ?_ | refine st_bok (P := P) (by assumption) ?_ | refine st_bdata (P := P) (by assumption) ?_ | rfl) | split

theorem State.hostStore_stable (hP : Stable P) (a : Nat) (w : Word) {s : State} (h_s : P s) : OfExcS P (State.hostStore s a w) := by
  unfold State.hostStore; (try dsimp only); (try simp only [mk_upd])
  repeat' first | intro _ | with_reducible (first | assumption | apply st_upd hP | apply Eff_ok_stable hP | apply State.hostWake_stable hP | apply State.storeAddr_stable hP | apply State.wakeFailed_stable hP | apply of_xserr (P := P) | apply of_xsok (P := P) | refine st_done (P := P) (by assumption) ?_ | refine st_trap (P := P) (by assumption) ?_ | refine st_wait (P := P) (by assumption) ?_ | refine st_bok (P := P) (by assumption) ?_ | refine st_bdata (P := P) (by assumption) ?_ | rfl) | split

theorem State.hostLoads_stable (hP : Stable P) (y0 : List Nat) {s : State} (h_s : P s) : OfExc P (State.hostLoads s y0) := by
  induction y0 generalizing s <;> unfold State.hostLoads
  all_goals try dsimp only
  all_goals try simp only [mk_upd]
  repeat' first | intro _ | with_reducible (first | assumption | apply_assumption | apply st_upd hP | apply Eff_ok_stable hP | apply State.hostLoad_stable hP | apply of_xerr (P := P) | apply of_xok (P := P) | refine st_done (P := P) (by assumption) ?_ | refine st_trap (P := P) (by assumption) ?_ | refine st_wait (P := P) (by assumption) ?_ | refine st_exp (P := P) (by assumption) ?_ | rfl) | split

theorem State.hostRead_stable (hP : Stable P) (b : Bytes) {s : State} (h_s : P s) : OfExc P (State.hostRead s b) := by
  unfold State.hostRead; (try dsimp only); (try simp only [mk_upd])
  repeat' first | intro _ | with_reducible (first | assumption | apply st_upd hP | apply Eff_ok_stable hP | apply State.hostLoads_stable hP | apply of_xerr (P := P) | apply of_xok (P := P) | refine st_done (P := P) (by assumption) ?_ | refine st_trap (P := P) (by assumption) ?_ | refine st_wait (P := P) (by assumption) ?_ | refine st_exp (P := P) (by assumption) ?_ | rfl) | split

theorem State.hostWrites_stable (hP : Stable P) (y0 : List (Nat × Word)) (y1 : Nat) {s : State} (h_s : P s) : OfExc2 P (State.hostWrites s y0 y1) := by
  induction y0 generalizing s y1 with
  | nil => exact of_x2ok h_s
  | cons p l ih =>
    unfold State.hostWrites
    extract_lets e
    split
    · exact of_x2ok h_s
    · split
      · exact of_x2ok h_s
      · have h1 := State.hostStore_stable hP p.1 p.2 h_s
        revert h1
        cases s.hostStore p.1 p.2 with
        | error k => exact fun _ => of_x2err
        | ok t => exact fun h => ih _ h.get

theorem State.hostWrite_stable (hP : Stable P) (b : Bytes) {s : State} (h_s : P s) : OfExc P (State.hostWrite s b) := by
  unfold State.hostWrite; (try dsimp only); (try simp only [mk_upd])
  repeat' first | intro _ | with_reducible (first | assumption | apply st_upd hP | apply Eff_ok_stable hP | apply State.hostWrites_stable hP | apply of_xerr (P := P) | apply of_xok (P := P) | refine st_done (P := P) (by assumption) ?_ | refine st_trap (P := P) (by assumption) ?_ | refine st_wait (P := P) (by assumption) ?_ | refine st_exp2 (P := P) (by assumption) ?_ | rfl) | split

theorem State.txnRej_stable (hP : Stable P)  {s : State} (h_s : P s) : P (State.txnRej s) := by
  unfold State.txnRej; (try dsimp only)
  repeat' first | intro _ | with_reducible (first | assumption | apply State.hstCause_stable hP | apply State.setBit_stable hP | apply st_ite (P := P)) | split

theorem State.txnRefused_stable (hP : Stable P) (status : Nat) {s : State} (h_s : P s) : OfExc P (State.txnRefused s status) := by
  unfold State.txnRefused; (try dsimp only)
  repeat' first | intro _ | with_reducible (first | assumption | apply Eff_ok_stable hP | apply State.txnRej_stable hP | apply of_xerr (P := P) | apply of_xok (P := P) | refine st_done (P := P) (by assumption) ?_ | refine st_trap (P := P) (by assumption) ?_ | refine st_wait (P := P) (by assumption) ?_) | split

theorem State.holdTxn_stable (hP : Stable P) (l : List (Nat × Word)) (edge : Nat) (tag : Nat) {s : State} (h_s : P s) : P (State.holdTxn s l edge tag) := by
  unfold State.holdTxn; (try dsimp only); (try simp only [mk_upd])
  repeat' first | intro _ | with_reducible (first | assumption | apply st_upd hP | apply State.noteHigh_stable hP | apply State.setBit_stable hP | apply st_ite (P := P) | rfl) | split

theorem State.hostTxn_stable (hP : Stable P) (b : Bytes) (tag : Nat) {s : State} (h_s : P s) : OfExc P (State.hostTxn s b tag) := by
  unfold State.hostTxn; (try dsimp only); (try simp only [mk_upd])
  repeat' first | intro _ | with_reducible (first | assumption | apply st_upd hP | apply Eff_ok_stable hP | apply State.holdTxn_stable hP | apply State.setBit_stable hP | apply State.txnRefused_stable hP | apply of_xerr (P := P) | apply of_xok (P := P) | refine st_done (P := P) (by assumption) ?_ | refine st_trap (P := P) (by assumption) ?_ | refine st_wait (P := P) (by assumption) ?_ | refine st_exp (P := P) (by assumption) ?_ | rfl) | split

theorem State.hostReset_stable (hP : Stable P)  {s : State} (h_s : P s) : P (State.hostReset s) := by
  unfold State.hostReset; (try dsimp only); (try simp only [mk_upd])
  repeat' first | intro _ | with_reducible (first | assumption | apply st_upd hP | apply st_ite (P := P) | rfl) | split

theorem State.perform_stable (hP : Stable P) (r : HostReq) {s : State} (h_s : P s) : OfExc P (State.perform s r) := by
  unfold State.perform; (try dsimp only); (try simp only [mk_upd])
  repeat' first | intro _ | with_reducible (first | assumption | apply st_upd hP | apply Eff_ok_stable hP | apply State.hostRead_stable hP | apply State.hostReset_stable hP | apply State.hostTxn_stable hP | apply State.hostWrite_stable hP | apply of_xerr (P := P) | apply of_xok (P := P) | refine st_done (P := P) (by assumption) ?_ | refine st_trap (P := P) (by assumption) ?_ | refine st_wait (P := P) (by assumption) ?_ | refine st_exp (P := P) (by assumption) ?_ | rfl) | split

theorem State.countReq_stable (hP : Stable P) (udp : Bool) (ok : Bool) {s : State} (h_s : P s) : P (State.countReq s udp ok) := by
  unfold State.countReq; (try dsimp only); (try simp only [mk_upd])
  repeat' first | intro _ | with_reducible (first | assumption | apply st_upd hP | apply Eff_ok_stable hP | apply State.setHst_stable hP | apply st_ite (P := P) | refine st_done (P := P) (by assumption) ?_ | refine st_trap (P := P) (by assumption) ?_ | refine st_wait (P := P) (by assumption) ?_ | rfl) | split

theorem State.hostMessage_stable (hP : Stable P) (udp : Bool) (b : Bytes) {s : State} (h_s : P s) : OfExc P (State.hostMessage s udp b) := by
  unfold State.hostMessage; (try dsimp only); (try simp only [mk_upd])
  repeat' first | intro _ | with_reducible (first | assumption | apply st_upd hP | apply Eff_ok_stable hP | apply State.authCheck_stable hP | apply State.countReq_stable hP | apply State.hstCause_stable hP | apply State.perform_stable hP | apply State.setBit_stable hP | apply State.txnRej_stable hP | apply of_xerr (P := P) | apply of_xok (P := P) | refine st_done (P := P) (by assumption) ?_ | refine st_trap (P := P) (by assumption) ?_ | refine st_wait (P := P) (by assumption) ?_ | refine st_snd (P := P) (by assumption) ?_ | refine st_exp (P := P) (by assumption) ?_ | rfl) | split

theorem State.spiOut_stable (hP : Stable P) (n : Nat) {s : State} (h_s : P s) : P (State.spiOut s n) := by
  unfold State.spiOut; (try dsimp only); (try simp only [mk_upd])
  repeat' first | intro _ | with_reducible (first | assumption | apply st_upd hP | apply State.setHst_stable hP | apply st_ite (P := P) | rfl) | split

theorem State.spiRequest_stable (hP : Stable P) (b : Bytes) {s : State} (h_s : P s) : OfOut P (State.spiRequest s b) := by
  unfold State.spiRequest; (try dsimp only); (try simp only [mk_upd])
  repeat' first | intro _ | with_reducible (first | assumption | apply st_upd hP | apply Eff_ok_stable hP | apply State.countReq_stable hP | apply State.hostMessage_stable hP | apply State.setBit_stable hP | apply State.setHst_stable hP | apply State.spiOut_stable hP | apply of_oite (P := P) | apply of_next (P := P) | apply of_fault (P := P) | refine st_done (P := P) (by assumption) ?_ | refine st_trap (P := P) (by assumption) ?_ | refine st_wait (P := P) (by assumption) ?_ | refine st_exp (P := P) (by assumption) ?_ | rfl) | split

theorem State.udpRequest_stable (hP : Stable P) (d : Dgram) {s : State} (h_s : P s) : OfOut P (State.udpRequest s d) := by
  unfold State.udpRequest; (try dsimp only); (try simp only [mk_upd])
  repeat' first | intro _ | with_reducible (first | assumption | apply st_upd hP | apply Eff_ok_stable hP | apply State.hostMessage_stable hP | apply State.setEth_stable hP | apply State.setHst_stable hP | apply State.udpSend_stable hP | apply of_oite (P := P) | apply of_next (P := P) | apply of_fault (P := P) | refine st_done (P := P) (by assumption) ?_ | refine st_trap (P := P) (by assumption) ?_ | refine st_wait (P := P) (by assumption) ?_ | refine st_exp (P := P) (by assumption) ?_ | rfl) | split

theorem State.request_stable (hP : Stable P) (kind : Nat) (src : Option (Nat × Nat)) (b : Bytes) {s : State} (h_s : P s) : OfOut P (State.request s kind src b) := by
  unfold State.request; (try dsimp only); (try simp only [mk_upd])
  repeat' first | intro _ | with_reducible (first | assumption | apply st_upd hP | apply State.spiRequest_stable hP | apply State.udpRequest_stable hP | apply of_oite (P := P) | apply of_next (P := P) | apply of_fault (P := P) | refine st_next (P := P) (by assumption) ?_ | rfl) | split

theorem State.onPort_stable (hP : Stable P) (src : Option (Nat × Nat)) (i : DipAccess) (f : State → Out) {s : State} (h_s : P s) (h_f : ∀ x0, P x0 → OfOut P (f x0)) : OfOut P (State.onPort s src i f) := by
  unfold State.onPort; (try dsimp only)
  repeat' first | intro _ | with_reducible (first | assumption | apply State.stall_stable hP | apply h_f | apply of_oite (P := P) | apply of_next (P := P) | apply of_fault (P := P)) | split

theorem execRead_stable (hP : Stable P) (src : Option (Nat × Nat)) (b : List Nat) {s : State} (h_s : P s) : OfOut P (execRead src b s) := by
  unfold execRead; (try dsimp only)
  repeat' first | intro _ | with_reducible (first | assumption | apply State.onPort_stable hP | apply State.request_stable hP | apply of_oite (P := P) | apply of_next (P := P) | apply of_fault (P := P) | refine st_next (P := P) (by assumption) ?_) | split

theorem execWrite_stable (hP : Stable P) (src : Option (Nat × Nat)) (b : List Nat) {s : State} (h_s : P s) : OfOut P (execWrite src b s) := by
  unfold execWrite; (try dsimp only)
  repeat' first | intro _ | with_reducible (first | assumption | apply State.onPort_stable hP | apply State.request_stable hP | apply of_oite (P := P) | apply of_next (P := P) | apply of_fault (P := P) | refine st_next (P := P) (by assumption) ?_) | split

theorem execTxn_stable (hP : Stable P) (src : Option (Nat × Nat)) (b : List Nat) {s : State} (h_s : P s) : OfOut P (execTxn src b s) := by
  unfold execTxn; (try dsimp only)
  repeat' first | intro _ | with_reducible (first | assumption | apply State.onPort_stable hP | apply State.request_stable hP | apply of_oite (P := P) | apply of_next (P := P) | apply of_fault (P := P) | refine st_next (P := P) (by assumption) ?_) | split

theorem execHreset_stable (hP : Stable P) (src : Option (Nat × Nat)) (b : List Nat) {s : State} (h_s : P s) : OfOut P (execHreset src b s) := by
  unfold execHreset; (try dsimp only)
  repeat' first | intro _ | with_reducible (first | assumption | apply State.onPort_stable hP | apply State.request_stable hP | apply of_oite (P := P) | apply of_next (P := P) | apply of_fault (P := P) | refine st_next (P := P) (by assumption) ?_) | split

theorem execHostNop_stable (hP : Stable P) (src : Option (Nat × Nat)) (b : List Nat) {s : State} (h_s : P s) : OfOut P (execHostNop src b s) := by
  unfold execHostNop; (try dsimp only)
  repeat' first | intro _ | with_reducible (first | assumption | apply State.onPort_stable hP | apply State.request_stable hP | apply of_oite (P := P) | apply of_next (P := P) | apply of_fault (P := P) | refine st_next (P := P) (by assumption) ?_) | split

theorem execHostBadRequest_stable (hP : Stable P) (src : Option (Nat × Nat)) (b : List Nat) {s : State} (h_s : P s) : OfOut P (execHostBadRequest src b s) := by
  unfold execHostBadRequest; (try dsimp only)
  repeat' first | intro _ | with_reducible (first | assumption | apply State.onPort_stable hP | apply State.request_stable hP | apply of_oite (P := P) | apply of_next (P := P) | apply of_fault (P := P) | refine st_next (P := P) (by assumption) ?_) | split

theorem execSpiShortFrame_stable (hP : Stable P) (b : List Nat) {s : State} (h_s : P s) : OfOut P (execSpiShortFrame b s) := by
  unfold execSpiShortFrame; (try dsimp only)
  repeat' first | intro _ | with_reducible (first | assumption | apply State.countReq_stable hP | apply State.load_stable hP | apply State.setBit_stable hP | apply State.spiOut_stable hP | apply of_oite (P := P) | apply of_next (P := P) | apply of_fault (P := P) | apply st_ite (P := P)) | split

theorem execSpiIdleFrame_stable (hP : Stable P) (n : Nat) {s : State} (h_s : P s) : OfOut P (execSpiIdleFrame n s) := by
  unfold execSpiIdleFrame; (try dsimp only)
  repeat' first | intro _ | with_reducible (first | assumption | apply State.load_stable hP | apply State.spiOut_stable hP | apply of_oite (P := P) | apply of_next (P := P) | apply of_fault (P := P) | apply st_ite (P := P)) | split

theorem execCommit_stable (hP : Stable P)  {s : State} (h_s : P s) : OfOut P (execCommit s) := by
  unfold execCommit; (try dsimp only)
  repeat' first | intro _ | with_reducible (first | assumption | apply State.hostCommit_stable hP | apply State.load_stable hP | apply of_oite (P := P) | apply of_next (P := P) | apply of_fault (P := P) | apply st_ite (P := P)) | split

theorem State.stopAbsent_stable (hP : Stable P)  {s : State} (h_s : P s) : P (State.stopAbsent s) := by
  unfold State.stopAbsent; (try dsimp only); (try simp only [mk_upd])
  repeat' first | intro _ | with_reducible (first | assumption | apply st_upd hP | apply State.accStop_stable hP | apply State.canRun_stable hP | apply State.linEnable_stable hP | apply State.linkDown_stable hP | apply State.setAcc_stable hP | apply State.setAin_stable hP | apply State.setRun_stable hP | apply st_ite (P := P) | apply st_forEach (P := P) | rfl) | split

set_option maxRecDepth 8000 in
theorem State.applyFeatures_stable (hP : Stable P) (new : BitVec 64) {s : State} (h_s : P s) : P (State.applyFeatures s new) := by
  unfold State.applyFeatures; (try dsimp only); (try simp only [mk_upd])
  repeat' first | intro _ | with_reducible (first | assumption | apply st_upd hP | apply hP.reg | apply State.setFld_stable hP | apply State.setHst_stable hP | apply State.stopAbsent_stable hP | apply st_ite (P := P) | apply st_foldl (P := P) | rfl) | split

theorem State.hostEdge_stable (hP : Stable P)  {s : State} (h_s : P s) : P (State.hostEdge s) := by
  unfold State.hostEdge; (try dsimp only); (try simp only [mk_upd])
  repeat' first | intro _ | with_reducible (first | assumption | apply st_upd hP | apply State.applyFeatures_stable hP | apply State.hstCause_stable hP | apply State.setBit_stable hP | apply State.setFld_stable hP | apply State.setHst_stable hP | apply st_ite (P := P) | apply st_forEach (P := P) | rfl) | split

theorem State.hstRecords_stable (hP : Stable P)  {s : State} (h_s : P s) : P (State.hstRecords s) := by
  unfold State.hstRecords; (try dsimp only); (try simp only [mk_upd])
  repeat' first | intro _ | with_reducible (first | assumption | apply st_upd hP | apply State.putIn_stable hP | apply st_ite (P := P) | apply st_foldl (P := P) | rfl) | split

theorem State.hstClear_stable (hP : Stable P)  {s : State} (h_s : P s) : P (State.hstClear s) := by
  unfold State.hstClear; (try dsimp only); (try simp only [mk_upd])
  repeat' first | intro _ | with_reducible (first | assumption | apply st_upd hP | apply State.setHst_stable hP | apply st_ite (P := P) | rfl) | split

theorem State.internalTake_stable (hP : Stable P) (p : Nat) (f : Bytes) {s : State} (h_s : P s) : OfOut P (State.internalTake s p f) := by
  unfold State.internalTake; (try dsimp only); (try simp only [mk_upd])
  repeat' first | intro _ | with_reducible (first | assumption | apply st_upd hP | apply State.arpTake_stable hP | apply State.balRequest_stable hP | apply State.ipTake_stable hP | apply State.ptpTake_stable hP | apply State.udpRequest_stable hP | apply of_oite (P := P) | apply of_next (P := P) | apply of_fault (P := P) | refine st_fst (P := P) (by assumption) ?_ | refine st_next (P := P) (by assumption) ?_ | rfl) | split

theorem execEthFrameReceived_stable (hP : Stable P) (p : Fin 2) (bytes : List Nat) (fcs : Bool) {s : State} (h_s : P s) : OfOut P (execEthFrameReceived p bytes fcs s) := by
  unfold execEthFrameReceived; (try dsimp only); (try simp only [mk_upd])
  repeat' first | intro _ | with_reducible (first | assumption | apply st_upd hP | apply State.balHand_stable hP | apply State.forward_stable hP | apply State.internalTake_stable hP | apply State.learn_stable hP | apply State.setEport_stable hP | apply of_oite (P := P) | apply of_next (P := P) | apply of_fault (P := P) | refine st_next (P := P) (by assumption) ?_ | rfl) | split

end Sys2Proof.Machine
end

