-- ==== Sys2Proof/Laws/StableOps4.lean ====
section
/-!
SUPPORT. Every operation keeps a stable property: NolorOps, NolorAlu, NolorFlow, NolorMem, NolorCustom, Edge, Frame, Dip, Link.
-/

set_option linter.all false
set_option maxHeartbeats 400000

namespace Sys2Proof.Machine

variable {P : State → Prop}

theorem operandStop_stable (hP : Stable P) (tagx : Bool) (l : List Src) {s : State} (h_s : P s) : OfOptEff P (operandStop tagx s l) := by
  unfold operandStop; (try dsimp only); (try simp only [mk_upd])
  repeat' first | intro _ | with_reducible (first | assumption | apply st_upd hP | apply Eff_ok_stable hP | apply of_enone (P := P) | apply of_esome (P := P) | apply of_eite (P := P) | apply of_done (P := P) | apply of_trap (P := P) | apply of_wait (P := P) | apply of_unchecked (P := P) | apply st_ite (P := P) | refine st_done (P := P) (by assumption) ?_ | refine st_trap (P := P) (by assumption) ?_ | refine st_wait (P := P) (by assumption) ?_ | rfl) | split

theorem withOperands_stable (hP : Stable P) (tagx : Bool) (l : List Src) (k : Eff) {s : State} (h_s : P s) (h_k : OfEff P k) : OfEff P (withOperands tagx s l k) := by
  unfold withOperands; (try dsimp only); (try simp only [mk_upd])
  repeat' first | intro _ | with_reducible (first | assumption | apply st_upd hP | apply operandStop_stable hP | apply of_eite (P := P) | apply of_done (P := P) | apply of_trap (P := P) | apply of_wait (P := P) | apply of_unchecked (P := P) | apply st_ite (P := P) | apply of_getD (P := P) | refine st_opteff (P := P) (by assumption) ?_ | rfl) | split

theorem State.privStop_stable (hP : Stable P) (c : Fin 2) (tagx : Bool) (l : List MemAcc) {s : State} (h_s : P s) : OfOptEff P (State.privStop s c tagx l) := by
  unfold State.privStop
  cases l.find? (fun x => (operandStop tagx s x.srcs).isNone && s.barred c x.addr) with
  | none => exact of_enone
  | some x => exact of_esome (of_trap h_s)

theorem withAccess_stable (hP : Stable P) (c : Fin 2) (tagx : Bool) (acc : List MemAcc) (l : List Src) (k : Eff) {s : State} (h_s : P s) (h_k : OfEff P k) : OfEff P (withAccess c tagx s acc l k) :=
  of_getD (State.privStop_stable hP c tagx acc h_s) (withOperands_stable hP _ _ _ h_s h_k)

theorem State.writeOut_stable (hP : Stable P) (c : Fin 2) (d : Nat) (nf : Bool) (o : AluOut) {s : State} (h_s : P s) : P (State.writeOut s c d nf o) := by
  unfold State.writeOut; (try dsimp only); (try simp only [mk_upd])
  repeat' first | intro _ | with_reducible (first | assumption | apply st_upd hP | apply State.fresh_stable hP | apply State.setFlg_stable hP | apply State.setW_stable hP | apply st_ite (P := P) | refine st_snd (P := P) (by assumption) ?_ | rfl) | split

theorem State.alu_stable (hP : Stable P) (c : Fin 2) (i : NIns) (k : Nat) (a : TWord) (b : TWord) {s : State} (h_s : P s) : OfEff P (State.alu s c i k a b) := by
  unfold State.alu; (try dsimp only); (try simp only [mk_upd])
  repeat' first | intro _ | with_reducible (first | assumption | apply st_upd hP | apply Eff_ok_stable hP | apply State.setFlg_stable hP | apply State.writeOut_stable hP | apply withOperands_stable hP | apply of_eite (P := P) | apply of_done (P := P) | apply of_trap (P := P) | apply of_wait (P := P) | apply of_unchecked (P := P) | apply st_ite (P := P) | refine st_done (P := P) (by assumption) ?_ | refine st_trap (P := P) (by assumption) ?_ | refine st_wait (P := P) (by assumption) ?_ | rfl) | split

theorem aluReg_stable (hP : Stable P) (k : Nat) (c : Fin 2) (i : NIns) {s : State} (h_s : P s) : OfEff P (aluReg k c i s) := by
  unfold aluReg; (try dsimp only)
  repeat' first | intro _ | with_reducible (first | assumption | apply State.alu_stable hP | apply of_eite (P := P) | apply of_done (P := P) | apply of_trap (P := P) | apply of_wait (P := P) | apply of_unchecked (P := P) | apply st_ite (P := P) | refine st_done (P := P) (by assumption) ?_ | refine st_trap (P := P) (by assumption) ?_ | refine st_wait (P := P) (by assumption) ?_) | split

theorem aluImm_stable (hP : Stable P) (k : Nat) (c : Fin 2) (i : NIns) {s : State} (h_s : P s) : OfEff P (aluImm k c i s) := by
  unfold aluImm; (try dsimp only)
  repeat' first | intro _ | with_reducible (first | assumption | apply State.alu_stable hP | apply of_eite (P := P) | apply of_done (P := P) | apply of_trap (P := P) | apply of_wait (P := P) | apply of_unchecked (P := P) | apply st_ite (P := P) | refine st_done (P := P) (by assumption) ?_ | refine st_trap (P := P) (by assumption) ?_ | refine st_wait (P := P) (by assumption) ?_) | split

theorem unary_stable (hP : Stable P) (ok : Tag → Bool) (f : Tag → Word → AluOut) (c : Fin 2) (i : NIns) {s : State} (h_s : P s) : OfEff P (unary ok f c i s) := by
  unfold unary; (try dsimp only); (try simp only [mk_upd])
  repeat' first | intro _ | with_reducible (first | assumption | apply st_upd hP | apply Eff_ok_stable hP | apply State.writeOut_stable hP | apply withOperands_stable hP | apply of_eite (P := P) | apply of_done (P := P) | apply of_trap (P := P) | apply of_wait (P := P) | apply of_unchecked (P := P) | apply st_ite (P := P) | refine st_done (P := P) (by assumption) ?_ | refine st_trap (P := P) (by assumption) ?_ | refine st_wait (P := P) (by assumption) ?_ | rfl) | split

theorem State.drainStall_stable (hP : Stable P) (c : Fin 2) {s : State} (h_s : P s) : P (State.drainStall s c) := by
  unfold State.drainStall; (try dsimp only); (try simp only [mk_upd])
  repeat' first | intro _ | with_reducible (first | assumption | apply st_upd hP | apply State.stallFor_stable hP | apply st_ite (P := P) | rfl) | split

theorem State.emptied_stable (hP : Stable P) (c : Fin 2) {s : State} (h_s : P s) : OfExcEff P (State.emptied s c) := by
  unfold State.emptied; (try dsimp only); (try simp only [mk_upd])
  repeat' first | intro _ | with_reducible (first | assumption | apply st_upd hP | apply Eff_ok_stable hP | apply State.drainAll_stable hP | apply State.drainStall_stable hP | apply of_xeerr (P := P) | apply of_xeok (P := P) | apply of_eite (P := P) | apply of_done (P := P) | apply of_trap (P := P) | apply of_wait (P := P) | apply of_unchecked (P := P) | apply st_ite (P := P) | apply st_getD (P := P) | apply of_getD (P := P) | apply st_foldl2 (P := P) | apply st_pite (P := P) | apply of_oite (P := P) | apply of_bite (P := P) | apply of_boite (P := P) | apply of_x2err (P := P) | apply of_x2ok (P := P) | apply of_next (P := P) | apply of_fault (P := P) | apply of_bok (P := P) | apply of_bdata (P := P) | apply of_bwait (P := P) | apply of_balign (P := P) | apply of_bbus (P := P) | apply of_bpriv (P := P) | apply of_btype (P := P) | apply of_bunchecked (P := P) | apply of_none (P := P) | apply of_some (P := P) | apply of_bnone (P := P) | apply of_bsome (P := P) | apply of_enone (P := P) | apply of_esome (P := P) | apply of_xserr (P := P) | apply of_xsok (P := P) | apply of_xerr (P := P) | apply of_xok (P := P) | apply of_xeperr (P := P) | apply of_xepok (P := P) | refine st_done (P := P) (by assumption) ?_ | refine st_trap (P := P) (by assumption) ?_ | refine st_wait (P := P) (by assumption) ?_ | exact (OfBus.get (o := .ok _ _) (by assumption)) | exact (OfBus.get (o := .data _) (by assumption)) | refine st_exp2 (P := P) (by assumption) ?_ | refine st_opt (P := P) (by assumption) ?_ | refine st_snd (P := P) (by assumption) ?_ | refine st_fst (P := P) (by assumption) ?_ | refine st_optbus (P := P) (by assumption) ?_ | refine st_opteff (P := P) (by assumption) ?_ | refine st_bok (P := P) (by assumption) ?_ | refine st_bdata (P := P) (by assumption) ?_ | refine st_next (P := P) (by assumption) ?_ | refine st_exs (P := P) (by assumption) ?_ | refine st_exp (P := P) (by assumption) ?_ | refine st_exe (P := P) (by assumption) ?_ | refine st_exee (P := P) (by assumption) ?_ | refine st_exep (P := P) (by assumption) ?_ | refine st_exepe (P := P) (by assumption) ?_ | rfl) | split

theorem State.room_stable (hP : Stable P) (c : Fin 2) {s : State} (h_s : P s) : OfExcEff P (State.room s c) := by
  unfold State.room; (try dsimp only)
  repeat' first | intro _ | with_reducible (first | assumption | apply Eff_ok_stable hP | apply State.drainOne_stable hP | apply State.drainStall_stable hP | apply of_xeerr (P := P) | apply of_xeok (P := P) | apply of_eite (P := P) | apply of_done (P := P) | apply of_trap (P := P) | apply of_wait (P := P) | apply of_unchecked (P := P) | apply st_ite (P := P) | apply st_getD (P := P) | apply of_getD (P := P) | apply st_foldl2 (P := P) | apply st_pite (P := P) | apply of_oite (P := P) | apply of_bite (P := P) | apply of_boite (P := P) | apply of_x2err (P := P) | apply of_x2ok (P := P) | apply of_next (P := P) | apply of_fault (P := P) | apply of_bok (P := P) | apply of_bdata (P := P) | apply of_bwait (P := P) | apply of_balign (P := P) | apply of_bbus (P := P) | apply of_bpriv (P := P) | apply of_btype (P := P) | apply of_bunchecked (P := P) | apply of_none (P := P) | apply of_some (P := P) | apply of_bnone (P := P) | apply of_bsome (P := P) | apply of_enone (P := P) | apply of_esome (P := P) | apply of_xserr (P := P) | apply of_xsok (P := P) | apply of_xerr (P := P) | apply of_xok (P := P) | apply of_xeperr (P := P) | apply of_xepok (P := P) | refine st_done (P := P) (by assumption) ?_ | refine st_trap (P := P) (by assumption) ?_ | refine st_wait (P := P) (by assumption) ?_ | exact (OfBus.get (o := .ok _ _) (by assumption)) | exact (OfBus.get (o := .data _) (by assumption)) | refine st_exp2 (P := P) (by assumption) ?_ | refine st_opt (P := P) (by assumption) ?_ | refine st_snd (P := P) (by assumption) ?_ | refine st_fst (P := P) (by assumption) ?_ | refine st_optbus (P := P) (by assumption) ?_ | refine st_opteff (P := P) (by assumption) ?_ | refine st_bok (P := P) (by assumption) ?_ | refine st_bdata (P := P) (by assumption) ?_ | refine st_next (P := P) (by assumption) ?_ | refine st_exs (P := P) (by assumption) ?_ | refine st_exp (P := P) (by assumption) ?_ | refine st_exe (P := P) (by assumption) ?_ | refine st_exee (P := P) (by assumption) ?_ | refine st_exep (P := P) (by assumption) ?_ | refine st_exepe (P := P) (by assumption) ?_) | split

theorem State.accessStop_stable (hP : Stable P) (c : Fin 2) (a : Nat) (w : TWord) (r : BusRes) {s : State} (h_s : P s) (h_r : OfBus P r) : OfEff P (State.accessStop s c a w r) := by
  unfold State.accessStop; (try dsimp only); (try simp only [mk_upd])
  repeat' first | intro _ | with_reducible (first | assumption | apply st_upd hP | apply Eff_ok_stable hP | apply State.stallOn_stable hP | apply of_eite (P := P) | apply of_done (P := P) | apply of_trap (P := P) | apply of_wait (P := P) | apply of_unchecked (P := P) | apply st_ite (P := P) | refine st_done (P := P) (by assumption) ?_ | refine st_trap (P := P) (by assumption) ?_ | refine st_wait (P := P) (by assumption) ?_ | exact (OfBus.get (o := .ok _ _) (by assumption)) | exact (OfBus.get (o := .data _) (by assumption)) | rfl) | split

theorem State.loadWord_stable (hP : Stable P) (c : Fin 2) (tagx : Bool) (a : Nat) {s : State} (h_s : P s) : OfExcEffP P (State.loadWord s c tagx a) := by
  unfold State.loadWord; (try dsimp only); (try simp only [mk_upd])
  repeat' first | intro _ | with_reducible (first | assumption | apply st_upd hP | apply Eff_ok_stable hP | apply State.accessStop_stable hP | apply State.emptied_stable hP | apply State.loadAddr_stable hP | apply State.stallOn_stable hP | apply of_xeperr (P := P) | apply of_xepok (P := P) | apply of_eite (P := P) | apply of_done (P := P) | apply of_trap (P := P) | apply of_wait (P := P) | apply of_unchecked (P := P) | apply st_ite (P := P) | apply st_getD (P := P) | apply of_getD (P := P) | apply st_foldl2 (P := P) | apply st_pite (P := P) | apply of_oite (P := P) | apply of_bite (P := P) | apply of_boite (P := P) | apply of_x2err (P := P) | apply of_x2ok (P := P) | apply of_next (P := P) | apply of_fault (P := P) | apply of_bok (P := P) | apply of_bdata (P := P) | apply of_bwait (P := P) | apply of_balign (P := P) | apply of_bbus (P := P) | apply of_bpriv (P := P) | apply of_btype (P := P) | apply of_bunchecked (P := P) | apply of_none (P := P) | apply of_some (P := P) | apply of_bnone (P := P) | apply of_bsome (P := P) | apply of_enone (P := P) | apply of_esome (P := P) | apply of_xserr (P := P) | apply of_xsok (P := P) | apply of_xerr (P := P) | apply of_xok (P := P) | apply of_xeerr (P := P) | apply of_xeok (P := P) | refine st_done (P := P) (by assumption) ?_ | refine st_trap (P := P) (by assumption) ?_ | refine st_wait (P := P) (by assumption) ?_ | refine st_exe (P := P) (by assumption) ?_ | refine st_exee (P := P) (by assumption) ?_ | refine st_bok (P := P) (by assumption) ?_ | refine st_bdata (P := P) (by assumption) ?_ | exact (OfBus.get (o := .ok _ _) (by assumption)) | exact (OfBus.get (o := .data _) (by assumption)) | refine st_exp2 (P := P) (by assumption) ?_ | refine st_opt (P := P) (by assumption) ?_ | refine st_snd (P := P) (by assumption) ?_ | refine st_fst (P := P) (by assumption) ?_ | refine st_optbus (P := P) (by assumption) ?_ | refine st_opteff (P := P) (by assumption) ?_ | refine st_next (P := P) (by assumption) ?_ | refine st_exs (P := P) (by assumption) ?_ | refine st_exp (P := P) (by assumption) ?_ | refine st_exep (P := P) (by assumption) ?_ | refine st_exepe (P := P) (by assumption) ?_ | rfl) | split

theorem State.pushStore_stable (hP : Stable P) (c : Fin 2) (x : BufStore) {s : State} (h_s : P s) : OfExcEff P (State.pushStore s c x) := by
  unfold State.pushStore; (try dsimp only); (try simp only [mk_upd])
  repeat' first | intro _ | with_reducible (first | assumption | apply st_upd hP | apply Eff_ok_stable hP | apply State.room_stable hP | apply State.setCore_stable hP | apply of_xeerr (P := P) | apply of_xeok (P := P) | apply of_eite (P := P) | apply of_done (P := P) | apply of_trap (P := P) | apply of_wait (P := P) | apply of_unchecked (P := P) | apply st_ite (P := P) | apply st_foldl (P := P) | refine st_done (P := P) (by assumption) ?_ | refine st_trap (P := P) (by assumption) ?_ | refine st_wait (P := P) (by assumption) ?_ | refine st_exe (P := P) (by assumption) ?_ | refine st_exee (P := P) (by assumption) ?_ | rfl) | split

theorem State.storeWord_stable (hP : Stable P) (c : Fin 2) (a : Nat) (v : TWord) {s : State} (h_s : P s) : OfExcEff P (State.storeWord s c a v) := by
  unfold State.storeWord; (try dsimp only); (try simp only [mk_upd])
  repeat' first | intro _ | with_reducible (first | assumption | apply st_upd hP | apply Eff_ok_stable hP | apply State.accessStop_stable hP | apply State.emptied_stable hP | apply State.pushStore_stable hP | apply State.setCore_stable hP | apply State.stallOn_stable hP | apply State.storeAddr_stable hP | apply of_xeerr (P := P) | apply of_xeok (P := P) | apply of_eite (P := P) | apply of_done (P := P) | apply of_trap (P := P) | apply of_wait (P := P) | apply of_unchecked (P := P) | apply st_ite (P := P) | apply st_getD (P := P) | apply of_getD (P := P) | apply st_foldl2 (P := P) | apply st_pite (P := P) | apply of_oite (P := P) | apply of_bite (P := P) | apply of_boite (P := P) | apply of_x2err (P := P) | apply of_x2ok (P := P) | apply of_next (P := P) | apply of_fault (P := P) | apply of_bok (P := P) | apply of_bdata (P := P) | apply of_bwait (P := P) | apply of_balign (P := P) | apply of_bbus (P := P) | apply of_bpriv (P := P) | apply of_btype (P := P) | apply of_bunchecked (P := P) | apply of_none (P := P) | apply of_some (P := P) | apply of_bnone (P := P) | apply of_bsome (P := P) | apply of_enone (P := P) | apply of_esome (P := P) | apply of_xserr (P := P) | apply of_xsok (P := P) | apply of_xerr (P := P) | apply of_xok (P := P) | apply of_xeperr (P := P) | apply of_xepok (P := P) | refine st_done (P := P) (by assumption) ?_ | refine st_trap (P := P) (by assumption) ?_ | refine st_wait (P := P) (by assumption) ?_ | refine st_exe (P := P) (by assumption) ?_ | refine st_exee (P := P) (by assumption) ?_ | refine st_bok (P := P) (by assumption) ?_ | refine st_bdata (P := P) (by assumption) ?_ | exact (OfBus.get (o := .ok _ _) (by assumption)) | exact (OfBus.get (o := .data _) (by assumption)) | refine st_exp2 (P := P) (by assumption) ?_ | refine st_opt (P := P) (by assumption) ?_ | refine st_snd (P := P) (by assumption) ?_ | refine st_fst (P := P) (by assumption) ?_ | refine st_optbus (P := P) (by assumption) ?_ | refine st_opteff (P := P) (by assumption) ?_ | refine st_next (P := P) (by assumption) ?_ | refine st_exs (P := P) (by assumption) ?_ | refine st_exp (P := P) (by assumption) ?_ | refine st_exep (P := P) (by assumption) ?_ | refine st_exepe (P := P) (by assumption) ?_ | rfl) | split

theorem State.loadAfter_stable (hP : Stable P) (c : Fin 2) (tagx : Bool) (a : Nat) {s : State} (h_s : P s) {t : State} (h_t : P t) : OfExcEffP P (State.loadAfter s t c tagx a) := by
  unfold State.loadAfter; (try dsimp only); (try simp only [mk_upd])
  repeat' first | intro _ | with_reducible (first | assumption | apply st_upd hP | apply Eff_ok_stable hP | apply State.loadWord_stable hP | apply of_xeperr (P := P) | apply of_xepok (P := P) | apply of_eite (P := P) | apply of_done (P := P) | apply of_trap (P := P) | apply of_wait (P := P) | apply of_unchecked (P := P) | apply st_ite (P := P) | refine st_done (P := P) (by assumption) ?_ | refine st_trap (P := P) (by assumption) ?_ | refine st_wait (P := P) (by assumption) ?_ | refine st_exep (P := P) (by assumption) ?_ | refine st_exepe (P := P) (by assumption) ?_ | rfl) | split

theorem State.storeAfter_stable (hP : Stable P) (c : Fin 2) (a : Nat) (v : TWord) {s : State} (h_s : P s) {t : State} (h_t : P t) : OfExcEff P (State.storeAfter s t c a v) := by
  unfold State.storeAfter; (try dsimp only); (try simp only [mk_upd])
  repeat' first | intro _ | with_reducible (first | assumption | apply st_upd hP | apply Eff_ok_stable hP | apply State.storeWord_stable hP | apply of_xeerr (P := P) | apply of_xeok (P := P) | apply of_eite (P := P) | apply of_done (P := P) | apply of_trap (P := P) | apply of_wait (P := P) | apply of_unchecked (P := P) | apply st_ite (P := P) | refine st_done (P := P) (by assumption) ?_ | refine st_trap (P := P) (by assumption) ?_ | refine st_wait (P := P) (by assumption) ?_ | refine st_exe (P := P) (by assumption) ?_ | refine st_exee (P := P) (by assumption) ?_ | rfl) | split

theorem State.pairStop_stable (hP : Stable P) (c : Fin 2) (a : Nat) {s : State} (h_s : P s) : OfOptEff P (State.pairStop s c a) := by
  unfold State.pairStop; (try dsimp only)
  repeat' first | intro _ | with_reducible (first | assumption | apply State.accessStop_stable hP | apply of_enone (P := P) | apply of_esome (P := P) | apply of_eite (P := P) | apply of_done (P := P) | apply of_trap (P := P) | apply of_wait (P := P) | apply of_unchecked (P := P) | apply st_ite (P := P) | apply st_getD (P := P) | apply of_getD (P := P) | apply st_foldl2 (P := P) | apply st_pite (P := P) | apply of_oite (P := P) | apply of_bite (P := P) | apply of_boite (P := P) | apply of_x2err (P := P) | apply of_x2ok (P := P) | apply of_next (P := P) | apply of_fault (P := P) | apply of_bok (P := P) | apply of_bdata (P := P) | apply of_bwait (P := P) | apply of_balign (P := P) | apply of_bbus (P := P) | apply of_bpriv (P := P) | apply of_btype (P := P) | apply of_bunchecked (P := P) | apply of_none (P := P) | apply of_some (P := P) | apply of_bnone (P := P) | apply of_bsome (P := P) | apply of_xserr (P := P) | apply of_xsok (P := P) | apply of_xerr (P := P) | apply of_xok (P := P) | apply of_xeerr (P := P) | apply of_xeok (P := P) | apply of_xeperr (P := P) | apply of_xepok (P := P) | refine st_done (P := P) (by assumption) ?_ | refine st_trap (P := P) (by assumption) ?_ | refine st_wait (P := P) (by assumption) ?_ | exact (OfBus.get (o := .ok _ _) (by assumption)) | exact (OfBus.get (o := .data _) (by assumption)) | refine st_exp2 (P := P) (by assumption) ?_ | refine st_opt (P := P) (by assumption) ?_ | refine st_snd (P := P) (by assumption) ?_ | refine st_fst (P := P) (by assumption) ?_ | refine st_optbus (P := P) (by assumption) ?_ | refine st_opteff (P := P) (by assumption) ?_ | refine st_bok (P := P) (by assumption) ?_ | refine st_bdata (P := P) (by assumption) ?_ | refine st_next (P := P) (by assumption) ?_ | refine st_exs (P := P) (by assumption) ?_ | refine st_exp (P := P) (by assumption) ?_ | refine st_exe (P := P) (by assumption) ?_ | refine st_exee (P := P) (by assumption) ?_ | refine st_exep (P := P) (by assumption) ?_ | refine st_exepe (P := P) (by assumption) ?_) | split

theorem State.pairTurn_stable (hP : Stable P) (c : Fin 2) (a : Nat) {s : State} (h_s : P s) : P (State.pairTurn s c a) := by
  unfold State.pairTurn; (try dsimp only)
  repeat' first | intro _ | with_reducible (first | assumption | apply State.laneServe_stable hP | apply st_ite (P := P)) | split

theorem State.loadTo_stable (hP : Stable P) (c : Fin 2) (i : NIns) (d : Nat) (a : Nat) {s : State} (h_s : P s) : OfEff P (State.loadTo s c i d a) := by
  unfold State.loadTo; (try dsimp only); (try simp only [mk_upd])
  repeat' first | intro _ | with_reducible (first | assumption | apply st_upd hP | apply State.loadAfter_stable hP | apply State.loadWord_stable hP | apply State.pairStop_stable hP | apply State.pairTurn_stable hP | apply State.setW_stable hP | apply st_andThen hP | apply st_andThenP hP | apply of_eite (P := P) | apply of_done (P := P) | apply of_trap (P := P) | apply of_wait (P := P) | apply of_unchecked (P := P) | apply st_ite (P := P) | apply of_getD (P := P) | refine st_exep (P := P) (by assumption) ?_ | refine st_exepe (P := P) (by assumption) ?_ | refine st_opteff (P := P) (by assumption) ?_ | rfl) | split

theorem State.storeFrom_stable (hP : Stable P) (c : Fin 2) (i : NIns) (b : Nat) (a : Nat) {s : State} (h_s : P s) : OfEff P (State.storeFrom s c i b a) := by
  unfold State.storeFrom; (try dsimp only); (try simp only [mk_upd])
  repeat' first | intro _ | with_reducible (first | assumption | apply st_upd hP | apply Eff_ok_stable hP | apply State.pairStop_stable hP | apply State.pushStore_stable hP | apply State.storeWord_stable hP | apply st_andThen hP | apply st_andThenP hP | apply of_eite (P := P) | apply of_done (P := P) | apply of_trap (P := P) | apply of_wait (P := P) | apply of_unchecked (P := P) | apply st_ite (P := P) | apply of_getD (P := P) | apply st_getD (P := P) | apply st_foldl2 (P := P) | apply st_pite (P := P) | apply of_oite (P := P) | apply of_bite (P := P) | apply of_boite (P := P) | apply of_x2err (P := P) | apply of_x2ok (P := P) | apply of_next (P := P) | apply of_fault (P := P) | apply of_bok (P := P) | apply of_bdata (P := P) | apply of_bwait (P := P) | apply of_balign (P := P) | apply of_bbus (P := P) | apply of_bpriv (P := P) | apply of_btype (P := P) | apply of_bunchecked (P := P) | apply of_none (P := P) | apply of_some (P := P) | apply of_bnone (P := P) | apply of_bsome (P := P) | apply of_enone (P := P) | apply of_esome (P := P) | apply of_xserr (P := P) | apply of_xsok (P := P) | apply of_xerr (P := P) | apply of_xok (P := P) | apply of_xeerr (P := P) | apply of_xeok (P := P) | apply of_xeperr (P := P) | apply of_xepok (P := P) | refine st_done (P := P) (by assumption) ?_ | refine st_trap (P := P) (by assumption) ?_ | refine st_wait (P := P) (by assumption) ?_ | refine st_opteff (P := P) (by assumption) ?_ | refine st_exe (P := P) (by assumption) ?_ | refine st_exee (P := P) (by assumption) ?_ | exact (OfBus.get (o := .ok _ _) (by assumption)) | exact (OfBus.get (o := .data _) (by assumption)) | refine st_exp2 (P := P) (by assumption) ?_ | refine st_opt (P := P) (by assumption) ?_ | refine st_snd (P := P) (by assumption) ?_ | refine st_fst (P := P) (by assumption) ?_ | refine st_optbus (P := P) (by assumption) ?_ | refine st_bok (P := P) (by assumption) ?_ | refine st_bdata (P := P) (by assumption) ?_ | refine st_next (P := P) (by assumption) ?_ | refine st_exs (P := P) (by assumption) ?_ | refine st_exp (P := P) (by assumption) ?_ | refine st_exep (P := P) (by assumption) ?_ | refine st_exepe (P := P) (by assumption) ?_ | rfl) | split

theorem readModify_stable (hP : Stable P) (f : TWord → State → Except Eff (Option TWord × (State → State))) (extra : State → NIns → List Src) (c : Fin 2) (i : NIns)
    (h_e : ∀ v t e, P t → f v t = .error e → OfEff P e) (h_f : ∀ v t q, f v t = .ok q → ∀ u, P u → P (q.2 u)) {s : State} (h_s : P s) :
    OfEff P (readModify f extra c i s) := by
  unfold readModify
  dsimp only
  refine withAccess_stable hP _ _ _ _ _ h_s ?_
  refine of_eite (State.accessStop_stable hP _ _ _ _ h_s (by split; exact of_balign; exact of_bbus)) ?_
  refine st_andThen hP (by split; exact State.emptied_stable hP _ h_s; split; exact State.room_stable hP _ h_s; exact of_xeok h_s) (fun s1 h1 => ?_)
  refine st_andThenP hP (State.loadWord_stable hP _ _ _ h1) (fun v hv => ?_)
  cases e : f v.1 s1 with
  | error x => exact h_e _ _ _ h1 e
  | ok q =>
    show OfEff P (match q.1 with | none => _ | some w => _)
    split
    · exact of_done (h_f _ _ _ e _ hv)
    · refine of_eite (of_done (h_f _ _ _ e _ hv)) ?_
      refine st_andThen hP (of_xeite (of_xeok (State.storeHeld_stable hP _ _ _ hv)) (State.storeAfter_stable hP _ _ _ h1 hv)) (fun t ht => of_done (h_f _ _ _ e _ ht))

theorem branch_stable (hP : Stable P) (take : Bool) (c : Fin 2) (i : NIns) {s : State} (h_s : P s) : OfEff P (branch take c i s) := by
  unfold branch; (try dsimp only)
  repeat' first | intro _ | with_reducible (first | assumption | apply of_eite (P := P) | apply of_done (P := P) | apply of_trap (P := P) | apply of_wait (P := P) | apply of_unchecked (P := P) | apply st_ite (P := P)) | split

theorem execAdd_stable (hP : Stable P) (c : Fin 2) (p : Phys) {s : State} (h_s : P s) : OfOut P (execAdd c p s) := by
  unfold execAdd; (try dsimp only)
  repeat' first | intro _ | with_reducible (first | assumption | apply State.instr_stable hP | apply aluReg_stable hP | apply of_oite (P := P) | apply of_next (P := P) | apply of_fault (P := P) | apply of_eite (P := P) | apply of_done (P := P) | apply of_trap (P := P) | apply of_wait (P := P) | apply of_unchecked (P := P) | apply st_ite (P := P) | refine st_next (P := P) (by assumption) ?_ | refine st_done (P := P) (by assumption) ?_ | refine st_trap (P := P) (by assumption) ?_ | refine st_wait (P := P) (by assumption) ?_) | split

theorem execSub_stable (hP : Stable P) (c : Fin 2) (p : Phys) {s : State} (h_s : P s) : OfOut P (execSub c p s) := by
  unfold execSub; (try dsimp only)
  repeat' first | intro _ | with_reducible (first | assumption | apply State.instr_stable hP | apply aluReg_stable hP | apply of_oite (P := P) | apply of_next (P := P) | apply of_fault (P := P) | apply of_eite (P := P) | apply of_done (P := P) | apply of_trap (P := P) | apply of_wait (P := P) | apply of_unchecked (P := P) | apply st_ite (P := P) | refine st_next (P := P) (by assumption) ?_ | refine st_done (P := P) (by assumption) ?_ | refine st_trap (P := P) (by assumption) ?_ | refine st_wait (P := P) (by assumption) ?_) | split

theorem execMul_stable (hP : Stable P) (c : Fin 2) (p : Phys) {s : State} (h_s : P s) : OfOut P (execMul c p s) := by
  unfold execMul; (try dsimp only)
  repeat' first | intro _ | with_reducible (first | assumption | apply State.instr_stable hP | apply aluReg_stable hP | apply of_oite (P := P) | apply of_next (P := P) | apply of_fault (P := P) | apply of_eite (P := P) | apply of_done (P := P) | apply of_trap (P := P) | apply of_wait (P := P) | apply of_unchecked (P := P) | apply st_ite (P := P) | refine st_next (P := P) (by assumption) ?_ | refine st_done (P := P) (by assumption) ?_ | refine st_trap (P := P) (by assumption) ?_ | refine st_wait (P := P) (by assumption) ?_) | split

theorem execDiv_stable (hP : Stable P) (c : Fin 2) (p : Phys) {s : State} (h_s : P s) : OfOut P (execDiv c p s) := by
  unfold execDiv; (try dsimp only)
  repeat' first | intro _ | with_reducible (first | assumption | apply State.instr_stable hP | apply aluReg_stable hP | apply of_oite (P := P) | apply of_next (P := P) | apply of_fault (P := P) | apply of_eite (P := P) | apply of_done (P := P) | apply of_trap (P := P) | apply of_wait (P := P) | apply of_unchecked (P := P) | apply st_ite (P := P) | refine st_next (P := P) (by assumption) ?_ | refine st_done (P := P) (by assumption) ?_ | refine st_trap (P := P) (by assumption) ?_ | refine st_wait (P := P) (by assumption) ?_) | split

theorem execRem_stable (hP : Stable P) (c : Fin 2) (p : Phys) {s : State} (h_s : P s) : OfOut P (execRem c p s) := by
  unfold execRem; (try dsimp only)
  repeat' first | intro _ | with_reducible (first | assumption | apply State.instr_stable hP | apply aluReg_stable hP | apply of_oite (P := P) | apply of_next (P := P) | apply of_fault (P := P) | apply of_eite (P := P) | apply of_done (P := P) | apply of_trap (P := P) | apply of_wait (P := P) | apply of_unchecked (P := P) | apply st_ite (P := P) | refine st_next (P := P) (by assumption) ?_ | refine st_done (P := P) (by assumption) ?_ | refine st_trap (P := P) (by assumption) ?_ | refine st_wait (P := P) (by assumption) ?_) | split

theorem execAnd_stable (hP : Stable P) (c : Fin 2) (p : Phys) {s : State} (h_s : P s) : OfOut P (execAnd c p s) := by
  unfold execAnd; (try dsimp only)
  repeat' first | intro _ | with_reducible (first | assumption | apply State.instr_stable hP | apply aluReg_stable hP | apply of_oite (P := P) | apply of_next (P := P) | apply of_fault (P := P) | apply of_eite (P := P) | apply of_done (P := P) | apply of_trap (P := P) | apply of_wait (P := P) | apply of_unchecked (P := P) | apply st_ite (P := P) | refine st_next (P := P) (by assumption) ?_ | refine st_done (P := P) (by assumption) ?_ | refine st_trap (P := P) (by assumption) ?_ | refine st_wait (P := P) (by assumption) ?_) | split

theorem execOr_stable (hP : Stable P) (c : Fin 2) (p : Phys) {s : State} (h_s : P s) : OfOut P (execOr c p s) := by
  unfold execOr; (try dsimp only)
  repeat' first | intro _ | with_reducible (first | assumption | apply State.instr_stable hP | apply aluReg_stable hP | apply of_oite (P := P) | apply of_next (P := P) | apply of_fault (P := P) | apply of_eite (P := P) | apply of_done (P := P) | apply of_trap (P := P) | apply of_wait (P := P) | apply of_unchecked (P := P) | apply st_ite (P := P) | refine st_next (P := P) (by assumption) ?_ | refine st_done (P := P) (by assumption) ?_ | refine st_trap (P := P) (by assumption) ?_ | refine st_wait (P := P) (by assumption) ?_) | split

theorem execXor_stable (hP : Stable P) (c : Fin 2) (p : Phys) {s : State} (h_s : P s) : OfOut P (execXor c p s) := by
  unfold execXor; (try dsimp only)
  repeat' first | intro _ | with_reducible (first | assumption | apply State.instr_stable hP | apply aluReg_stable hP | apply of_oite (P := P) | apply of_next (P := P) | apply of_fault (P := P) | apply of_eite (P := P) | apply of_done (P := P) | apply of_trap (P := P) | apply of_wait (P := P) | apply of_unchecked (P := P) | apply st_ite (P := P) | refine st_next (P := P) (by assumption) ?_ | refine st_done (P := P) (by assumption) ?_ | refine st_trap (P := P) (by assumption) ?_ | refine st_wait (P := P) (by assumption) ?_) | split

theorem execShl_stable (hP : Stable P) (c : Fin 2) (p : Phys) {s : State} (h_s : P s) : OfOut P (execShl c p s) := by
  unfold execShl; (try dsimp only)
  repeat' first | intro _ | with_reducible (first | assumption | apply State.instr_stable hP | apply aluReg_stable hP | apply of_oite (P := P) | apply of_next (P := P) | apply of_fault (P := P) | apply of_eite (P := P) | apply of_done (P := P) | apply of_trap (P := P) | apply of_wait (P := P) | apply of_unchecked (P := P) | apply st_ite (P := P) | refine st_next (P := P) (by assumption) ?_ | refine st_done (P := P) (by assumption) ?_ | refine st_trap (P := P) (by assumption) ?_ | refine st_wait (P := P) (by assumption) ?_) | split

theorem execShr_stable (hP : Stable P) (c : Fin 2) (p : Phys) {s : State} (h_s : P s) : OfOut P (execShr c p s) := by
  unfold execShr; (try dsimp only)
  repeat' first | intro _ | with_reducible (first | assumption | apply State.instr_stable hP | apply aluReg_stable hP | apply of_oite (P := P) | apply of_next (P := P) | apply of_fault (P := P) | apply of_eite (P := P) | apply of_done (P := P) | apply of_trap (P := P) | apply of_wait (P := P) | apply of_unchecked (P := P) | apply st_ite (P := P) | refine st_next (P := P) (by assumption) ?_ | refine st_done (P := P) (by assumption) ?_ | refine st_trap (P := P) (by assumption) ?_ | refine st_wait (P := P) (by assumption) ?_) | split

theorem execSar_stable (hP : Stable P) (c : Fin 2) (p : Phys) {s : State} (h_s : P s) : OfOut P (execSar c p s) := by
  unfold execSar; (try dsimp only)
  repeat' first | intro _ | with_reducible (first | assumption | apply State.instr_stable hP | apply aluReg_stable hP | apply of_oite (P := P) | apply of_next (P := P) | apply of_fault (P := P) | apply of_eite (P := P) | apply of_done (P := P) | apply of_trap (P := P) | apply of_wait (P := P) | apply of_unchecked (P := P) | apply st_ite (P := P) | refine st_next (P := P) (by assumption) ?_ | refine st_done (P := P) (by assumption) ?_ | refine st_trap (P := P) (by assumption) ?_ | refine st_wait (P := P) (by assumption) ?_) | split

theorem execRol_stable (hP : Stable P) (c : Fin 2) (p : Phys) {s : State} (h_s : P s) : OfOut P (execRol c p s) := by
  unfold execRol; (try dsimp only)
  repeat' first | intro _ | with_reducible (first | assumption | apply State.instr_stable hP | apply aluReg_stable hP | apply of_oite (P := P) | apply of_next (P := P) | apply of_fault (P := P) | apply of_eite (P := P) | apply of_done (P := P) | apply of_trap (P := P) | apply of_wait (P := P) | apply of_unchecked (P := P) | apply st_ite (P := P) | refine st_next (P := P) (by assumption) ?_ | refine st_done (P := P) (by assumption) ?_ | refine st_trap (P := P) (by assumption) ?_ | refine st_wait (P := P) (by assumption) ?_) | split

theorem execRor_stable (hP : Stable P) (c : Fin 2) (p : Phys) {s : State} (h_s : P s) : OfOut P (execRor c p s) := by
  unfold execRor; (try dsimp only)
  repeat' first | intro _ | with_reducible (first | assumption | apply State.instr_stable hP | apply aluReg_stable hP | apply of_oite (P := P) | apply of_next (P := P) | apply of_fault (P := P) | apply of_eite (P := P) | apply of_done (P := P) | apply of_trap (P := P) | apply of_wait (P := P) | apply of_unchecked (P := P) | apply st_ite (P := P) | refine st_next (P := P) (by assumption) ?_ | refine st_done (P := P) (by assumption) ?_ | refine st_trap (P := P) (by assumption) ?_ | refine st_wait (P := P) (by assumption) ?_) | split

theorem execCmp_stable (hP : Stable P) (c : Fin 2) (p : Phys) {s : State} (h_s : P s) : OfOut P (execCmp c p s) := by
  unfold execCmp; (try dsimp only)
  repeat' first | intro _ | with_reducible (first | assumption | apply State.instr_stable hP | apply aluReg_stable hP | apply of_oite (P := P) | apply of_next (P := P) | apply of_fault (P := P) | apply of_eite (P := P) | apply of_done (P := P) | apply of_trap (P := P) | apply of_wait (P := P) | apply of_unchecked (P := P) | apply st_ite (P := P) | refine st_next (P := P) (by assumption) ?_ | refine st_done (P := P) (by assumption) ?_ | refine st_trap (P := P) (by assumption) ?_ | refine st_wait (P := P) (by assumption) ?_) | split

theorem execMin_stable (hP : Stable P) (c : Fin 2) (p : Phys) {s : State} (h_s : P s) : OfOut P (execMin c p s) := by
  unfold execMin; (try dsimp only)
  repeat' first | intro _ | with_reducible (first | assumption | apply State.instr_stable hP | apply aluReg_stable hP | apply of_oite (P := P) | apply of_next (P := P) | apply of_fault (P := P) | apply of_eite (P := P) | apply of_done (P := P) | apply of_trap (P := P) | apply of_wait (P := P) | apply of_unchecked (P := P) | apply st_ite (P := P) | refine st_next (P := P) (by assumption) ?_ | refine st_done (P := P) (by assumption) ?_ | refine st_trap (P := P) (by assumption) ?_ | refine st_wait (P := P) (by assumption) ?_) | split

theorem execMax_stable (hP : Stable P) (c : Fin 2) (p : Phys) {s : State} (h_s : P s) : OfOut P (execMax c p s) := by
  unfold execMax; (try dsimp only)
  repeat' first | intro _ | with_reducible (first | assumption | apply State.instr_stable hP | apply aluReg_stable hP | apply of_oite (P := P) | apply of_next (P := P) | apply of_fault (P := P) | apply of_eite (P := P) | apply of_done (P := P) | apply of_trap (P := P) | apply of_wait (P := P) | apply of_unchecked (P := P) | apply st_ite (P := P) | refine st_next (P := P) (by assumption) ?_ | refine st_done (P := P) (by assumption) ?_ | refine st_trap (P := P) (by assumption) ?_ | refine st_wait (P := P) (by assumption) ?_) | split

theorem execAluiAdd_stable (hP : Stable P) (c : Fin 2) (p : Phys) {s : State} (h_s : P s) : OfOut P (execAluiAdd c p s) := by
  unfold execAluiAdd; (try dsimp only)
  repeat' first | intro _ | with_reducible (first | assumption | apply State.instr_stable hP | apply aluImm_stable hP | apply of_oite (P := P) | apply of_next (P := P) | apply of_fault (P := P) | apply of_eite (P := P) | apply of_done (P := P) | apply of_trap (P := P) | apply of_wait (P := P) | apply of_unchecked (P := P) | apply st_ite (P := P) | refine st_next (P := P) (by assumption) ?_ | refine st_done (P := P) (by assumption) ?_ | refine st_trap (P := P) (by assumption) ?_ | refine st_wait (P := P) (by assumption) ?_) | split

theorem execAluiSub_stable (hP : Stable P) (c : Fin 2) (p : Phys) {s : State} (h_s : P s) : OfOut P (execAluiSub c p s) := by
  unfold execAluiSub; (try dsimp only)
  repeat' first | intro _ | with_reducible (first | assumption | apply State.instr_stable hP | apply aluImm_stable hP | apply of_oite (P := P) | apply of_next (P := P) | apply of_fault (P := P) | apply of_eite (P := P) | apply of_done (P := P) | apply of_trap (P := P) | apply of_wait (P := P) | apply of_unchecked (P := P) | apply st_ite (P := P) | refine st_next (P := P) (by assumption) ?_ | refine st_done (P := P) (by assumption) ?_ | refine st_trap (P := P) (by assumption) ?_ | refine st_wait (P := P) (by assumption) ?_) | split

theorem execAluiMul_stable (hP : Stable P) (c : Fin 2) (p : Phys) {s : State} (h_s : P s) : OfOut P (execAluiMul c p s) := by
  unfold execAluiMul; (try dsimp only)
  repeat' first | intro _ | with_reducible (first | assumption | apply State.instr_stable hP | apply aluImm_stable hP | apply of_oite (P := P) | apply of_next (P := P) | apply of_fault (P := P) | apply of_eite (P := P) | apply of_done (P := P) | apply of_trap (P := P) | apply of_wait (P := P) | apply of_unchecked (P := P) | apply st_ite (P := P) | refine st_next (P := P) (by assumption) ?_ | refine st_done (P := P) (by assumption) ?_ | refine st_trap (P := P) (by assumption) ?_ | refine st_wait (P := P) (by assumption) ?_) | split

theorem execAluiDiv_stable (hP : Stable P) (c : Fin 2) (p : Phys) {s : State} (h_s : P s) : OfOut P (execAluiDiv c p s) := by
  unfold execAluiDiv; (try dsimp only)
  repeat' first | intro _ | with_reducible (first | assumption | apply State.instr_stable hP | apply aluImm_stable hP | apply of_oite (P := P) | apply of_next (P := P) | apply of_fault (P := P) | apply of_eite (P := P) | apply of_done (P := P) | apply of_trap (P := P) | apply of_wait (P := P) | apply of_unchecked (P := P) | apply st_ite (P := P) | refine st_next (P := P) (by assumption) ?_ | refine st_done (P := P) (by assumption) ?_ | refine st_trap (P := P) (by assumption) ?_ | refine st_wait (P := P) (by assumption) ?_) | split

theorem execAluiRem_stable (hP : Stable P) (c : Fin 2) (p : Phys) {s : State} (h_s : P s) : OfOut P (execAluiRem c p s) := by
  unfold execAluiRem; (try dsimp only)
  repeat' first | intro _ | with_reducible (first | assumption | apply State.instr_stable hP | apply aluImm_stable hP | apply of_oite (P := P) | apply of_next (P := P) | apply of_fault (P := P) | apply of_eite (P := P) | apply of_done (P := P) | apply of_trap (P := P) | apply of_wait (P := P) | apply of_unchecked (P := P) | apply st_ite (P := P) | refine st_next (P := P) (by assumption) ?_ | refine st_done (P := P) (by assumption) ?_ | refine st_trap (P := P) (by assumption) ?_ | refine st_wait (P := P) (by assumption) ?_) | split

theorem execAluiAnd_stable (hP : Stable P) (c : Fin 2) (p : Phys) {s : State} (h_s : P s) : OfOut P (execAluiAnd c p s) := by
  unfold execAluiAnd; (try dsimp only)
  repeat' first | intro _ | with_reducible (first | assumption | apply State.instr_stable hP | apply aluImm_stable hP | apply of_oite (P := P) | apply of_next (P := P) | apply of_fault (P := P) | apply of_eite (P := P) | apply of_done (P := P) | apply of_trap (P := P) | apply of_wait (P := P) | apply of_unchecked (P := P) | apply st_ite (P := P) | refine st_next (P := P) (by assumption) ?_ | refine st_done (P := P) (by assumption) ?_ | refine st_trap (P := P) (by assumption) ?_ | refine st_wait (P := P) (by assumption) ?_) | split

theorem execAluiOr_stable (hP : Stable P) (c : Fin 2) (p : Phys) {s : State} (h_s : P s) : OfOut P (execAluiOr c p s) := by
  unfold execAluiOr; (try dsimp only)
  repeat' first | intro _ | with_reducible (first | assumption | apply State.instr_stable hP | apply aluImm_stable hP | apply of_oite (P := P) | apply of_next (P := P) | apply of_fault (P := P) | apply of_eite (P := P) | apply of_done (P := P) | apply of_trap (P := P) | apply of_wait (P := P) | apply of_unchecked (P := P) | apply st_ite (P := P) | refine st_next (P := P) (by assumption) ?_ | refine st_done (P := P) (by assumption) ?_ | refine st_trap (P := P) (by assumption) ?_ | refine st_wait (P := P) (by assumption) ?_) | split

theorem execAluiXor_stable (hP : Stable P) (c : Fin 2) (p : Phys) {s : State} (h_s : P s) : OfOut P (execAluiXor c p s) := by
  unfold execAluiXor; (try dsimp only)
  repeat' first | intro _ | with_reducible (first | assumption | apply State.instr_stable hP | apply aluImm_stable hP | apply of_oite (P := P) | apply of_next (P := P) | apply of_fault (P := P) | apply of_eite (P := P) | apply of_done (P := P) | apply of_trap (P := P) | apply of_wait (P := P) | apply of_unchecked (P := P) | apply st_ite (P := P) | refine st_next (P := P) (by assumption) ?_ | refine st_done (P := P) (by assumption) ?_ | refine st_trap (P := P) (by assumption) ?_ | refine st_wait (P := P) (by assumption) ?_) | split

theorem execAluiShl_stable (hP : Stable P) (c : Fin 2) (p : Phys) {s : State} (h_s : P s) : OfOut P (execAluiShl c p s) := by
  unfold execAluiShl; (try dsimp only)
  repeat' first | intro _ | with_reducible (first | assumption | apply State.instr_stable hP | apply aluImm_stable hP | apply of_oite (P := P) | apply of_next (P := P) | apply of_fault (P := P) | apply of_eite (P := P) | apply of_done (P := P) | apply of_trap (P := P) | apply of_wait (P := P) | apply of_unchecked (P := P) | apply st_ite (P := P) | refine st_next (P := P) (by assumption) ?_ | refine st_done (P := P) (by assumption) ?_ | refine st_trap (P := P) (by assumption) ?_ | refine st_wait (P := P) (by assumption) ?_) | split

theorem execAluiShr_stable (hP : Stable P) (c : Fin 2) (p : Phys) {s : State} (h_s : P s) : OfOut P (execAluiShr c p s) := by
  unfold execAluiShr; (try dsimp only)
  repeat' first | intro _ | with_reducible (first | assumption | apply State.instr_stable hP | apply aluImm_stable hP | apply of_oite (P := P) | apply of_next (P := P) | apply of_fault (P := P) | apply of_eite (P := P) | apply of_done (P := P) | apply of_trap (P := P) | apply of_wait (P := P) | apply of_unchecked (P := P) | apply st_ite (P := P) | refine st_next (P := P) (by assumption) ?_ | refine st_done (P := P) (by assumption) ?_ | refine st_trap (P := P) (by assumption) ?_ | refine st_wait (P := P) (by assumption) ?_) | split

theorem execAluiSar_stable (hP : Stable P) (c : Fin 2) (p : Phys) {s : State} (h_s : P s) : OfOut P (execAluiSar c p s) := by
  unfold execAluiSar; (try dsimp only)
  repeat' first | intro _ | with_reducible (first | assumption | apply State.instr_stable hP | apply aluImm_stable hP | apply of_oite (P := P) | apply of_next (P := P) | apply of_fault (P := P) | apply of_eite (P := P) | apply of_done (P := P) | apply of_trap (P := P) | apply of_wait (P := P) | apply of_unchecked (P := P) | apply st_ite (P := P) | refine st_next (P := P) (by assumption) ?_ | refine st_done (P := P) (by assumption) ?_ | refine st_trap (P := P) (by assumption) ?_ | refine st_wait (P := P) (by assumption) ?_) | split

theorem execAluiRol_stable (hP : Stable P) (c : Fin 2) (p : Phys) {s : State} (h_s : P s) : OfOut P (execAluiRol c p s) := by
  unfold execAluiRol; (try dsimp only)
  repeat' first | intro _ | with_reducible (first | assumption | apply State.instr_stable hP | apply aluImm_stable hP | apply of_oite (P := P) | apply of_next (P := P) | apply of_fault (P := P) | apply of_eite (P := P) | apply of_done (P := P) | apply of_trap (P := P) | apply of_wait (P := P) | apply of_unchecked (P := P) | apply st_ite (P := P) | refine st_next (P := P) (by assumption) ?_ | refine st_done (P := P) (by assumption) ?_ | refine st_trap (P := P) (by assumption) ?_ | refine st_wait (P := P) (by assumption) ?_) | split

theorem execAluiRor_stable (hP : Stable P) (c : Fin 2) (p : Phys) {s : State} (h_s : P s) : OfOut P (execAluiRor c p s) := by
  unfold execAluiRor; (try dsimp only)
  repeat' first | intro _ | with_reducible (first | assumption | apply State.instr_stable hP | apply aluImm_stable hP | apply of_oite (P := P) | apply of_next (P := P) | apply of_fault (P := P) | apply of_eite (P := P) | apply of_done (P := P) | apply of_trap (P := P) | apply of_wait (P := P) | apply of_unchecked (P := P) | apply st_ite (P := P) | refine st_next (P := P) (by assumption) ?_ | refine st_done (P := P) (by assumption) ?_ | refine st_trap (P := P) (by assumption) ?_ | refine st_wait (P := P) (by assumption) ?_) | split

theorem execAluiCmp_stable (hP : Stable P) (c : Fin 2) (p : Phys) {s : State} (h_s : P s) : OfOut P (execAluiCmp c p s) := by
  unfold execAluiCmp; (try dsimp only)
  repeat' first | intro _ | with_reducible (first | assumption | apply State.instr_stable hP | apply aluImm_stable hP | apply of_oite (P := P) | apply of_next (P := P) | apply of_fault (P := P) | apply of_eite (P := P) | apply of_done (P := P) | apply of_trap (P := P) | apply of_wait (P := P) | apply of_unchecked (P := P) | apply st_ite (P := P) | refine st_next (P := P) (by assumption) ?_ | refine st_done (P := P) (by assumption) ?_ | refine st_trap (P := P) (by assumption) ?_ | refine st_wait (P := P) (by assumption) ?_) | split

theorem execAluiMin_stable (hP : Stable P) (c : Fin 2) (p : Phys) {s : State} (h_s : P s) : OfOut P (execAluiMin c p s) := by
  unfold execAluiMin; (try dsimp only)
  repeat' first | intro _ | with_reducible (first | assumption | apply State.instr_stable hP | apply aluImm_stable hP | apply of_oite (P := P) | apply of_next (P := P) | apply of_fault (P := P) | apply of_eite (P := P) | apply of_done (P := P) | apply of_trap (P := P) | apply of_wait (P := P) | apply of_unchecked (P := P) | apply st_ite (P := P) | refine st_next (P := P) (by assumption) ?_ | refine st_done (P := P) (by assumption) ?_ | refine st_trap (P := P) (by assumption) ?_ | refine st_wait (P := P) (by assumption) ?_) | split

theorem execAluiMax_stable (hP : Stable P) (c : Fin 2) (p : Phys) {s : State} (h_s : P s) : OfOut P (execAluiMax c p s) := by
  unfold execAluiMax; (try dsimp only)
  repeat' first | intro _ | with_reducible (first | assumption | apply State.instr_stable hP | apply aluImm_stable hP | apply of_oite (P := P) | apply of_next (P := P) | apply of_fault (P := P) | apply of_eite (P := P) | apply of_done (P := P) | apply of_trap (P := P) | apply of_wait (P := P) | apply of_unchecked (P := P) | apply st_ite (P := P) | refine st_next (P := P) (by assumption) ?_ | refine st_done (P := P) (by assumption) ?_ | refine st_trap (P := P) (by assumption) ?_ | refine st_wait (P := P) (by assumption) ?_) | split

theorem execInc_stable (hP : Stable P) (c : Fin 2) (p : Phys) {s : State} (h_s : P s) : OfOut P (execInc c p s) := by
  unfold execInc; (try dsimp only)
  repeat' first | intro _ | with_reducible (first | assumption | apply State.instr_stable hP | apply unary_stable hP | apply of_oite (P := P) | apply of_next (P := P) | apply of_fault (P := P) | apply of_eite (P := P) | apply of_done (P := P) | apply of_trap (P := P) | apply of_wait (P := P) | apply of_unchecked (P := P) | apply st_ite (P := P) | refine st_next (P := P) (by assumption) ?_ | refine st_done (P := P) (by assumption) ?_ | refine st_trap (P := P) (by assumption) ?_ | refine st_wait (P := P) (by assumption) ?_) | split

theorem execDec_stable (hP : Stable P) (c : Fin 2) (p : Phys) {s : State} (h_s : P s) : OfOut P (execDec c p s) := by
  unfold execDec; (try dsimp only)
  repeat' first | intro _ | with_reducible (first | assumption | apply State.instr_stable hP | apply unary_stable hP | apply of_oite (P := P) | apply of_next (P := P) | apply of_fault (P := P) | apply of_eite (P := P) | apply of_done (P := P) | apply of_trap (P := P) | apply of_wait (P := P) | apply of_unchecked (P := P) | apply st_ite (P := P) | refine st_next (P := P) (by assumption) ?_ | refine st_done (P := P) (by assumption) ?_ | refine st_trap (P := P) (by assumption) ?_ | refine st_wait (P := P) (by assumption) ?_) | split

theorem execNeg_stable (hP : Stable P) (c : Fin 2) (p : Phys) {s : State} (h_s : P s) : OfOut P (execNeg c p s) := by
  unfold execNeg; (try dsimp only)
  repeat' first | intro _ | with_reducible (first | assumption | apply State.instr_stable hP | apply unary_stable hP | apply of_oite (P := P) | apply of_next (P := P) | apply of_fault (P := P) | apply of_eite (P := P) | apply of_done (P := P) | apply of_trap (P := P) | apply of_wait (P := P) | apply of_unchecked (P := P) | apply st_ite (P := P) | refine st_next (P := P) (by assumption) ?_ | refine st_done (P := P) (by assumption) ?_ | refine st_trap (P := P) (by assumption) ?_ | refine st_wait (P := P) (by assumption) ?_) | split

theorem execAbs_stable (hP : Stable P) (c : Fin 2) (p : Phys) {s : State} (h_s : P s) : OfOut P (execAbs c p s) := by
  unfold execAbs; (try dsimp only)
  repeat' first | intro _ | with_reducible (first | assumption | apply State.instr_stable hP | apply unary_stable hP | apply of_oite (P := P) | apply of_next (P := P) | apply of_fault (P := P) | apply of_eite (P := P) | apply of_done (P := P) | apply of_trap (P := P) | apply of_wait (P := P) | apply of_unchecked (P := P) | apply st_ite (P := P) | refine st_next (P := P) (by assumption) ?_ | refine st_done (P := P) (by assumption) ?_ | refine st_trap (P := P) (by assumption) ?_ | refine st_wait (P := P) (by assumption) ?_) | split

theorem execNot_stable (hP : Stable P) (c : Fin 2) (p : Phys) {s : State} (h_s : P s) : OfOut P (execNot c p s) := by
  unfold execNot; (try dsimp only)
  repeat' first | intro _ | with_reducible (first | assumption | apply State.instr_stable hP | apply unary_stable hP | apply of_oite (P := P) | apply of_next (P := P) | apply of_fault (P := P) | apply of_eite (P := P) | apply of_done (P := P) | apply of_trap (P := P) | apply of_wait (P := P) | apply of_unchecked (P := P) | apply st_ite (P := P) | refine st_next (P := P) (by assumption) ?_ | refine st_done (P := P) (by assumption) ?_ | refine st_trap (P := P) (by assumption) ?_ | refine st_wait (P := P) (by assumption) ?_) | split

theorem execClrn_stable (hP : Stable P) (c : Fin 2) (p : Phys) {s : State} (h_s : P s) : OfOut P (execClrn c p s) := by
  unfold execClrn; (try dsimp only)
  repeat' first | intro _ | with_reducible (first | assumption | apply Eff_ok_stable hP | apply State.instr_stable hP | apply State.setW_stable hP | apply of_oite (P := P) | apply of_next (P := P) | apply of_fault (P := P) | apply of_eite (P := P) | apply of_done (P := P) | apply of_trap (P := P) | apply of_wait (P := P) | apply of_unchecked (P := P) | apply st_ite (P := P) | refine st_done (P := P) (by assumption) ?_ | refine st_trap (P := P) (by assumption) ?_ | refine st_wait (P := P) (by assumption) ?_ | refine st_next (P := P) (by assumption) ?_) | split

theorem execTst_stable (hP : Stable P) (c : Fin 2) (p : Phys) {s : State} (h_s : P s) : OfOut P (execTst c p s) := by
  unfold execTst; (try dsimp only); (try simp only [mk_upd])
  repeat' first | intro _ | with_reducible (first | assumption | apply st_upd hP | apply Eff_ok_stable hP | apply State.instr_stable hP | apply State.setFlg_stable hP | apply withOperands_stable hP | apply of_oite (P := P) | apply of_next (P := P) | apply of_fault (P := P) | apply of_eite (P := P) | apply of_done (P := P) | apply of_trap (P := P) | apply of_wait (P := P) | apply of_unchecked (P := P) | apply st_ite (P := P) | refine st_done (P := P) (by assumption) ?_ | refine st_trap (P := P) (by assumption) ?_ | refine st_wait (P := P) (by assumption) ?_ | refine st_next (P := P) (by assumption) ?_ | rfl) | split

theorem execCvt_stable (hP : Stable P) (c : Fin 2) (p : Phys) {s : State} (h_s : P s) : OfOut P (execCvt c p s) := by
  unfold execCvt; (try dsimp only); (try simp only [mk_upd])
  repeat' first | intro _ | with_reducible (first | assumption | apply st_upd hP | apply Eff_ok_stable hP | apply State.instr_stable hP | apply State.writeOut_stable hP | apply withOperands_stable hP | apply of_oite (P := P) | apply of_next (P := P) | apply of_fault (P := P) | apply of_eite (P := P) | apply of_done (P := P) | apply of_trap (P := P) | apply of_wait (P := P) | apply of_unchecked (P := P) | apply st_ite (P := P) | refine st_done (P := P) (by assumption) ?_ | refine st_trap (P := P) (by assumption) ?_ | refine st_wait (P := P) (by assumption) ?_ | refine st_next (P := P) (by assumption) ?_ | rfl) | split

theorem execTsub_stable (hP : Stable P) (c : Fin 2) (p : Phys) {s : State} (h_s : P s) : OfOut P (execTsub c p s) := by
  unfold execTsub; (try dsimp only); (try simp only [mk_upd])
  repeat' first | intro _ | with_reducible (first | assumption | apply st_upd hP | apply Eff_ok_stable hP | apply State.instr_stable hP | apply State.writeOut_stable hP | apply withOperands_stable hP | apply of_oite (P := P) | apply of_next (P := P) | apply of_fault (P := P) | apply of_eite (P := P) | apply of_done (P := P) | apply of_trap (P := P) | apply of_wait (P := P) | apply of_unchecked (P := P) | apply st_ite (P := P) | refine st_done (P := P) (by assumption) ?_ | refine st_trap (P := P) (by assumption) ?_ | refine st_wait (P := P) (by assumption) ?_ | refine st_next (P := P) (by assumption) ?_ | rfl) | split

theorem execTfrm_stable (hP : Stable P) (c : Fin 2) (p : Phys) {s : State} (h_s : P s) : OfOut P (execTfrm c p s) := by
  unfold execTfrm; (try dsimp only); (try simp only [mk_upd])
  repeat' first | intro _ | with_reducible (first | assumption | apply st_upd hP | apply Eff_ok_stable hP | apply State.instr_stable hP | apply State.setW_stable hP | apply withOperands_stable hP | apply of_oite (P := P) | apply of_next (P := P) | apply of_fault (P := P) | apply of_eite (P := P) | apply of_done (P := P) | apply of_trap (P := P) | apply of_wait (P := P) | apply of_unchecked (P := P) | apply st_ite (P := P) | refine st_done (P := P) (by assumption) ?_ | refine st_trap (P := P) (by assumption) ?_ | refine st_wait (P := P) (by assumption) ?_ | refine st_next (P := P) (by assumption) ?_ | rfl) | split

theorem execTslot_stable (hP : Stable P) (c : Fin 2) (p : Phys) {s : State} (h_s : P s) : OfOut P (execTslot c p s) := by
  unfold execTslot; (try dsimp only); (try simp only [mk_upd])
  repeat' first | intro _ | with_reducible (first | assumption | apply st_upd hP | apply Eff_ok_stable hP | apply State.instr_stable hP | apply State.setW_stable hP | apply withOperands_stable hP | apply of_oite (P := P) | apply of_next (P := P) | apply of_fault (P := P) | apply of_eite (P := P) | apply of_done (P := P) | apply of_trap (P := P) | apply of_wait (P := P) | apply of_unchecked (P := P) | apply st_ite (P := P) | refine st_done (P := P) (by assumption) ?_ | refine st_trap (P := P) (by assumption) ?_ | refine st_wait (P := P) (by assumption) ?_ | refine st_next (P := P) (by assumption) ?_ | rfl) | split

theorem execCadd_stable (hP : Stable P) (c : Fin 2) (p : Phys) {s : State} (h_s : P s) : OfOut P (execCadd c p s) := by
  unfold execCadd; (try dsimp only); (try simp only [mk_upd])
  repeat' first | intro _ | with_reducible (first | assumption | apply st_upd hP | apply Eff_ok_stable hP | apply State.instr_stable hP | apply State.setW_stable hP | apply withOperands_stable hP | apply of_oite (P := P) | apply of_next (P := P) | apply of_fault (P := P) | apply of_eite (P := P) | apply of_done (P := P) | apply of_trap (P := P) | apply of_wait (P := P) | apply of_unchecked (P := P) | apply st_ite (P := P) | refine st_done (P := P) (by assumption) ?_ | refine st_trap (P := P) (by assumption) ?_ | refine st_wait (P := P) (by assumption) ?_ | refine st_next (P := P) (by assumption) ?_ | rfl) | split

theorem execNop_stable (hP : Stable P) (c : Fin 2) (p : Phys) {s : State} (h_s : P s) : OfOut P (execNop c p s) := by
  unfold execNop; (try dsimp only)
  repeat' first | intro _ | with_reducible (first | assumption | apply Eff_ok_stable hP | apply State.instr_stable hP | apply of_oite (P := P) | apply of_next (P := P) | apply of_fault (P := P) | apply of_eite (P := P) | apply of_done (P := P) | apply of_trap (P := P) | apply of_wait (P := P) | apply of_unchecked (P := P) | apply st_ite (P := P) | refine st_done (P := P) (by assumption) ?_ | refine st_trap (P := P) (by assumption) ?_ | refine st_wait (P := P) (by assumption) ?_ | refine st_next (P := P) (by assumption) ?_) | split

theorem execFence_stable (hP : Stable P) (c : Fin 2) (p : Phys) {s : State} (h_s : P s) : OfOut P (execFence c p s) := by
  unfold execFence; (try dsimp only); (try simp only [mk_upd])
  repeat' first | intro _ | with_reducible (first | assumption | apply st_upd hP | apply Eff_ok_stable hP | apply State.emptied_stable hP | apply State.instr_stable hP | apply State.setCore_stable hP | apply st_andThen hP | apply st_andThenP hP | apply of_oite (P := P) | apply of_next (P := P) | apply of_fault (P := P) | apply of_eite (P := P) | apply of_done (P := P) | apply of_trap (P := P) | apply of_wait (P := P) | apply of_unchecked (P := P) | apply st_ite (P := P) | refine st_done (P := P) (by assumption) ?_ | refine st_trap (P := P) (by assumption) ?_ | refine st_wait (P := P) (by assumption) ?_ | refine st_exe (P := P) (by assumption) ?_ | refine st_exee (P := P) (by assumption) ?_ | refine st_next (P := P) (by assumption) ?_ | rfl) | split

theorem State.sealBy_stable (hP : Stable P) (c : Fin 2) {s : State} (h_s : P s) : P (State.sealBy s c) := by
  unfold State.sealBy; (try dsimp only); (try simp only [mk_upd])
  repeat' first | intro _ | with_reducible (first | assumption | apply st_upd hP | apply State.setBit_stable hP | apply State.setFld_stable hP | apply st_ite (P := P) | rfl) | split

theorem execSeal_stable (hP : Stable P) (c : Fin 2) (p : Phys) {s : State} (h_s : P s) : OfOut P (execSeal c p s) := by
  unfold execSeal; (try dsimp only)
  repeat' first | intro _ | with_reducible (first | assumption | apply Eff_ok_stable hP | apply State.emptied_stable hP | apply State.instr_stable hP | apply State.sealBy_stable hP | apply st_andThen hP | apply st_andThenP hP | apply of_oite (P := P) | apply of_next (P := P) | apply of_fault (P := P) | apply of_eite (P := P) | apply of_done (P := P) | apply of_trap (P := P) | apply of_wait (P := P) | apply of_unchecked (P := P) | apply st_ite (P := P) | refine st_done (P := P) (by assumption) ?_ | refine st_trap (P := P) (by assumption) ?_ | refine st_wait (P := P) (by assumption) ?_ | refine st_exe (P := P) (by assumption) ?_ | refine st_exee (P := P) (by assumption) ?_ | refine st_next (P := P) (by assumption) ?_) | split

theorem execWaite_stable (hP : Stable P) (c : Fin 2) (p : Phys) {s : State} (h_s : P s) : OfOut P (execWaite c p s) := by
  unfold execWaite; (try dsimp only)
  repeat' first | intro _ | with_reducible (first | assumption | apply State.emptied_stable hP | apply State.instr_stable hP | apply State.setJob_stable hP | apply State.taskEnd_stable hP | apply st_andThen hP | apply st_andThenP hP | apply of_oite (P := P) | apply of_next (P := P) | apply of_fault (P := P) | apply of_eite (P := P) | apply of_done (P := P) | apply of_trap (P := P) | apply of_wait (P := P) | apply of_unchecked (P := P) | apply st_ite (P := P) | refine st_exe (P := P) (by assumption) ?_ | refine st_exee (P := P) (by assumption) ?_ | refine st_next (P := P) (by assumption) ?_) | split

theorem execRete_stable (hP : Stable P) (c : Fin 2) (p : Phys) {s : State} (h_s : P s) : OfOut P (execRete c p s) := by
  unfold execRete; (try dsimp only)
  repeat' first | intro _ | with_reducible (first | assumption | apply State.instr_stable hP | apply State.taskEnd_stable hP | apply of_oite (P := P) | apply of_next (P := P) | apply of_fault (P := P) | apply of_eite (P := P) | apply of_done (P := P) | apply of_trap (P := P) | apply of_wait (P := P) | apply of_unchecked (P := P) | apply st_ite (P := P) | refine st_next (P := P) (by assumption) ?_) | split

theorem execBrk_stable (hP : Stable P) (c : Fin 2) (p : Phys) {s : State} (h_s : P s) : OfOut P (execBrk c p s) := by
  unfold execBrk; (try dsimp only)
  repeat' first | intro _ | with_reducible (first | assumption | apply State.debugHalt_stable hP | apply State.instr_stable hP | apply of_oite (P := P) | apply of_next (P := P) | apply of_fault (P := P) | apply of_eite (P := P) | apply of_done (P := P) | apply of_trap (P := P) | apply of_wait (P := P) | apply of_unchecked (P := P) | apply st_ite (P := P) | refine st_next (P := P) (by assumption) ?_) | split

theorem execBcc_stable (hP : Stable P) (c : Fin 2) (p : Phys) {s : State} (h_s : P s) : OfOut P (execBcc c p s) := by
  unfold execBcc; (try dsimp only)
  repeat' first | intro _ | with_reducible (first | assumption | apply State.instr_stable hP | apply branch_stable hP | apply of_oite (P := P) | apply of_next (P := P) | apply of_fault (P := P) | apply of_eite (P := P) | apply of_done (P := P) | apply of_trap (P := P) | apply of_wait (P := P) | apply of_unchecked (P := P) | apply st_ite (P := P) | refine st_next (P := P) (by assumption) ?_ | refine st_done (P := P) (by assumption) ?_ | refine st_trap (P := P) (by assumption) ?_ | refine st_wait (P := P) (by assumption) ?_) | split

theorem execBr_stable (hP : Stable P) (c : Fin 2) (p : Phys) {s : State} (h_s : P s) : OfOut P (execBr c p s) := by
  unfold execBr; (try dsimp only)
  repeat' first | intro _ | with_reducible (first | assumption | apply State.instr_stable hP | apply branch_stable hP | apply of_oite (P := P) | apply of_next (P := P) | apply of_fault (P := P) | apply of_eite (P := P) | apply of_done (P := P) | apply of_trap (P := P) | apply of_wait (P := P) | apply of_unchecked (P := P) | apply st_ite (P := P) | refine st_next (P := P) (by assumption) ?_ | refine st_done (P := P) (by assumption) ?_ | refine st_trap (P := P) (by assumption) ?_ | refine st_wait (P := P) (by assumption) ?_) | split

theorem execBtag_stable (hP : Stable P) (c : Fin 2) (p : Phys) {s : State} (h_s : P s) : OfOut P (execBtag c p s) := by
  unfold execBtag; (try dsimp only); (try simp only [mk_upd])
  repeat' first | intro _ | with_reducible (first | assumption | apply st_upd hP | apply State.instr_stable hP | apply State.setFlg_stable hP | apply branch_stable hP | apply withOperands_stable hP | apply of_oite (P := P) | apply of_next (P := P) | apply of_fault (P := P) | apply of_eite (P := P) | apply of_done (P := P) | apply of_trap (P := P) | apply of_wait (P := P) | apply of_unchecked (P := P) | apply st_ite (P := P) | refine st_next (P := P) (by assumption) ?_ | refine st_done (P := P) (by assumption) ?_ | refine st_trap (P := P) (by assumption) ?_ | refine st_wait (P := P) (by assumption) ?_ | rfl) | split

theorem execSwt_stable (hP : Stable P) (c : Fin 2) (p : Phys) {s : State} (h_s : P s) : OfOut P (execSwt c p s) := by
  unfold execSwt; (try dsimp only)
  repeat' first | intro _ | with_reducible (first | assumption | apply State.instr_stable hP | apply of_oite (P := P) | apply of_next (P := P) | apply of_fault (P := P) | apply of_eite (P := P) | apply of_done (P := P) | apply of_trap (P := P) | apply of_wait (P := P) | apply of_unchecked (P := P) | apply st_ite (P := P) | refine st_next (P := P) (by assumption) ?_) | split

theorem execRet_stable (hP : Stable P) (c : Fin 2) (p : Phys) {s : State} (h_s : P s) : OfOut P (execRet c p s) := by
  unfold execRet; (try dsimp only); (try simp only [mk_upd])
  repeat' first | intro _ | with_reducible (first | assumption | apply st_upd hP | apply State.instr_stable hP | apply withOperands_stable hP | apply of_oite (P := P) | apply of_next (P := P) | apply of_fault (P := P) | apply of_eite (P := P) | apply of_done (P := P) | apply of_trap (P := P) | apply of_wait (P := P) | apply of_unchecked (P := P) | apply st_ite (P := P) | refine st_next (P := P) (by assumption) ?_ | refine st_done (P := P) (by assumption) ?_ | refine st_trap (P := P) (by assumption) ?_ | refine st_wait (P := P) (by assumption) ?_ | rfl) | split

theorem execJmpr_stable (hP : Stable P) (c : Fin 2) (p : Phys) {s : State} (h_s : P s) : OfOut P (execJmpr c p s) := by
  unfold execJmpr; (try dsimp only); (try simp only [mk_upd])
  repeat' first | intro _ | with_reducible (first | assumption | apply st_upd hP | apply State.instr_stable hP | apply withOperands_stable hP | apply of_oite (P := P) | apply of_next (P := P) | apply of_fault (P := P) | apply of_eite (P := P) | apply of_done (P := P) | apply of_trap (P := P) | apply of_wait (P := P) | apply of_unchecked (P := P) | apply st_ite (P := P) | refine st_next (P := P) (by assumption) ?_ | refine st_done (P := P) (by assumption) ?_ | refine st_trap (P := P) (by assumption) ?_ | refine st_wait (P := P) (by assumption) ?_ | rfl) | split

theorem execCall_stable (hP : Stable P) (c : Fin 2) (p : Phys) {s : State} (h_s : P s) : OfOut P (execCall c p s) := by
  unfold execCall; (try dsimp only)
  repeat' first | intro _ | with_reducible (first | assumption | apply State.instr_stable hP | apply State.setW_stable hP | apply of_oite (P := P) | apply of_next (P := P) | apply of_fault (P := P) | apply of_eite (P := P) | apply of_done (P := P) | apply of_trap (P := P) | apply of_wait (P := P) | apply of_unchecked (P := P) | apply st_ite (P := P) | refine st_next (P := P) (by assumption) ?_) | split

theorem execCallr_stable (hP : Stable P) (c : Fin 2) (p : Phys) {s : State} (h_s : P s) : OfOut P (execCallr c p s) := by
  unfold execCallr; (try dsimp only); (try simp only [mk_upd])
  repeat' first | intro _ | with_reducible (first | assumption | apply st_upd hP | apply State.instr_stable hP | apply State.setW_stable hP | apply withOperands_stable hP | apply of_oite (P := P) | apply of_next (P := P) | apply of_fault (P := P) | apply of_eite (P := P) | apply of_done (P := P) | apply of_trap (P := P) | apply of_wait (P := P) | apply of_unchecked (P := P) | apply st_ite (P := P) | refine st_next (P := P) (by assumption) ?_ | refine st_done (P := P) (by assumption) ?_ | refine st_trap (P := P) (by assumption) ?_ | refine st_wait (P := P) (by assumption) ?_ | rfl) | split

theorem State.writePair_stable (hP : Stable P) (c : Fin 2) (i : NIns) (v : TWord) (v2 : TWord) {s : State} (h_s : P s) : P (State.writePair s c i v v2) := by
  unfold State.writePair; (try dsimp only)
  repeat' first | intro _ | with_reducible (first | assumption | apply State.setW_stable hP | apply st_ite (P := P)) | split

theorem execTstamp_stable (hP : Stable P) (c : Fin 2) (p : Phys) {s : State} (h_s : P s) : OfOut P (execTstamp c p s) := by
  unfold execTstamp; (try dsimp only)
  repeat' first | intro _ | with_reducible (first | assumption | apply Eff_ok_stable hP | apply State.instr_stable hP | apply State.writePair_stable hP | apply of_oite (P := P) | apply of_next (P := P) | apply of_fault (P := P) | apply of_eite (P := P) | apply of_done (P := P) | apply of_trap (P := P) | apply of_wait (P := P) | apply of_unchecked (P := P) | apply st_ite (P := P) | refine st_done (P := P) (by assumption) ?_ | refine st_trap (P := P) (by assumption) ?_ | refine st_wait (P := P) (by assumption) ?_ | refine st_next (P := P) (by assumption) ?_) | split

theorem execNow_stable (hP : Stable P) (c : Fin 2) (p : Phys) {s : State} (h_s : P s) : OfOut P (execNow c p s) := by
  unfold execNow; (try dsimp only)
  repeat' first | intro _ | with_reducible (first | assumption | apply Eff_ok_stable hP | apply State.instr_stable hP | apply State.writePair_stable hP | apply of_oite (P := P) | apply of_next (P := P) | apply of_fault (P := P) | apply of_eite (P := P) | apply of_done (P := P) | apply of_trap (P := P) | apply of_wait (P := P) | apply of_unchecked (P := P) | apply st_ite (P := P) | refine st_done (P := P) (by assumption) ?_ | refine st_trap (P := P) (by assumption) ?_ | refine st_wait (P := P) (by assumption) ?_ | refine st_next (P := P) (by assumption) ?_) | split

theorem execSetcnt_stable (hP : Stable P) (c : Fin 2) (p : Phys) {s : State} (h_s : P s) : OfOut P (execSetcnt c p s) := by
  unfold execSetcnt; (try dsimp only); (try simp only [mk_upd])
  repeat' first | intro _ | with_reducible (first | assumption | apply st_upd hP | apply Eff_ok_stable hP | apply State.instr_stable hP | apply State.setCore_stable hP | apply of_oite (P := P) | apply of_next (P := P) | apply of_fault (P := P) | apply of_eite (P := P) | apply of_done (P := P) | apply of_trap (P := P) | apply of_wait (P := P) | apply of_unchecked (P := P) | apply st_ite (P := P) | refine st_done (P := P) (by assumption) ?_ | refine st_trap (P := P) (by assumption) ?_ | refine st_wait (P := P) (by assumption) ?_ | refine st_next (P := P) (by assumption) ?_ | rfl) | split

theorem execMov_stable (hP : Stable P) (c : Fin 2) (p : Phys) {s : State} (h_s : P s) : OfOut P (execMov c p s) := by
  unfold execMov; (try dsimp only); (try simp only [mk_upd])
  repeat' first | intro _ | with_reducible (first | assumption | apply st_upd hP | apply Eff_ok_stable hP | apply State.instr_stable hP | apply State.writePair_stable hP | apply withOperands_stable hP | apply of_oite (P := P) | apply of_next (P := P) | apply of_fault (P := P) | apply of_eite (P := P) | apply of_done (P := P) | apply of_trap (P := P) | apply of_wait (P := P) | apply of_unchecked (P := P) | apply st_ite (P := P) | refine st_done (P := P) (by assumption) ?_ | refine st_trap (P := P) (by assumption) ?_ | refine st_wait (P := P) (by assumption) ?_ | refine st_next (P := P) (by assumption) ?_ | rfl) | split

theorem execTtest_stable (hP : Stable P) (c : Fin 2) (p : Phys) {s : State} (h_s : P s) : OfOut P (execTtest c p s) := by
  unfold execTtest; (try dsimp only); (try simp only [mk_upd])
  repeat' first | intro _ | with_reducible (first | assumption | apply st_upd hP | apply Eff_ok_stable hP | apply State.instr_stable hP | apply State.setFlg_stable hP | apply withOperands_stable hP | apply of_oite (P := P) | apply of_next (P := P) | apply of_fault (P := P) | apply of_eite (P := P) | apply of_done (P := P) | apply of_trap (P := P) | apply of_wait (P := P) | apply of_unchecked (P := P) | apply st_ite (P := P) | refine st_done (P := P) (by assumption) ?_ | refine st_trap (P := P) (by assumption) ?_ | refine st_wait (P := P) (by assumption) ?_ | refine st_next (P := P) (by assumption) ?_ | rfl) | split

theorem execTagof_stable (hP : Stable P) (c : Fin 2) (p : Phys) {s : State} (h_s : P s) : OfOut P (execTagof c p s) := by
  unfold execTagof; (try dsimp only); (try simp only [mk_upd])
  repeat' first | intro _ | with_reducible (first | assumption | apply st_upd hP | apply Eff_ok_stable hP | apply State.instr_stable hP | apply State.setW_stable hP | apply withOperands_stable hP | apply of_oite (P := P) | apply of_next (P := P) | apply of_fault (P := P) | apply of_eite (P := P) | apply of_done (P := P) | apply of_trap (P := P) | apply of_wait (P := P) | apply of_unchecked (P := P) | apply st_ite (P := P) | refine st_done (P := P) (by assumption) ?_ | refine st_trap (P := P) (by assumption) ?_ | refine st_wait (P := P) (by assumption) ?_ | refine st_next (P := P) (by assumption) ?_ | rfl) | split

theorem execMovi_stable (hP : Stable P) (c : Fin 2) (p : Phys) {s : State} (h_s : P s) : OfOut P (execMovi c p s) := by
  unfold execMovi; (try dsimp only)
  repeat' first | intro _ | with_reducible (first | assumption | apply Eff_ok_stable hP | apply State.instr_stable hP | apply State.setW_stable hP | apply of_oite (P := P) | apply of_next (P := P) | apply of_fault (P := P) | apply of_eite (P := P) | apply of_done (P := P) | apply of_trap (P := P) | apply of_wait (P := P) | apply of_unchecked (P := P) | apply st_ite (P := P) | refine st_done (P := P) (by assumption) ?_ | refine st_trap (P := P) (by assumption) ?_ | refine st_wait (P := P) (by assumption) ?_ | refine st_next (P := P) (by assumption) ?_) | split

theorem execAdr_stable (hP : Stable P) (c : Fin 2) (p : Phys) {s : State} (h_s : P s) : OfOut P (execAdr c p s) := by
  unfold execAdr; (try dsimp only)
  repeat' first | intro _ | with_reducible (first | assumption | apply Eff_ok_stable hP | apply State.instr_stable hP | apply State.setW_stable hP | apply of_oite (P := P) | apply of_next (P := P) | apply of_fault (P := P) | apply of_eite (P := P) | apply of_done (P := P) | apply of_trap (P := P) | apply of_wait (P := P) | apply of_unchecked (P := P) | apply st_ite (P := P) | refine st_done (P := P) (by assumption) ?_ | refine st_trap (P := P) (by assumption) ?_ | refine st_wait (P := P) (by assumption) ?_ | refine st_next (P := P) (by assumption) ?_) | split

theorem execMfs_stable (hP : Stable P) (c : Fin 2) (p : Phys) {s : State} (h_s : P s) : OfOut P (execMfs c p s) := by
  unfold execMfs; (try dsimp only)
  repeat' first | intro _ | with_reducible (first | assumption | apply Eff_ok_stable hP | apply State.instr_stable hP | apply State.writePair_stable hP | apply of_oite (P := P) | apply of_next (P := P) | apply of_fault (P := P) | apply of_eite (P := P) | apply of_done (P := P) | apply of_trap (P := P) | apply of_wait (P := P) | apply of_unchecked (P := P) | apply st_ite (P := P) | refine st_done (P := P) (by assumption) ?_ | refine st_trap (P := P) (by assumption) ?_ | refine st_wait (P := P) (by assumption) ?_ | refine st_next (P := P) (by assumption) ?_) | split

theorem State.setSpecial_stable (hP : Stable P) (c : Fin 2) (n : Nat) (w : Word) {s : State} (h_s : P s) : P (State.setSpecial s c n w) := by
  unfold State.setSpecial; (try dsimp only); (try simp only [mk_upd])
  repeat' first | intro _ | with_reducible (first | assumption | apply st_upd hP | apply State.setCore_stable hP | apply st_ite (P := P) | rfl) | split

theorem execMts_stable (hP : Stable P) (c : Fin 2) (p : Phys) {s : State} (h_s : P s) : OfOut P (execMts c p s) := by
  unfold execMts; (try dsimp only); (try simp only [mk_upd])
  repeat' first | intro _ | with_reducible (first | assumption | apply st_upd hP | apply Eff_ok_stable hP | apply State.instr_stable hP | apply State.setSpecial_stable hP | apply withOperands_stable hP | apply of_oite (P := P) | apply of_next (P := P) | apply of_fault (P := P) | apply of_eite (P := P) | apply of_done (P := P) | apply of_trap (P := P) | apply of_wait (P := P) | apply of_unchecked (P := P) | apply st_ite (P := P) | refine st_done (P := P) (by assumption) ?_ | refine st_trap (P := P) (by assumption) ?_ | refine st_wait (P := P) (by assumption) ?_ | refine st_next (P := P) (by assumption) ?_ | rfl) | split

theorem execIllegalInstruction_stable (hP : Stable P) (c : Fin 2) (p : Phys) {s : State} (h_s : P s) : OfOut P (execIllegalInstruction c p s) := by
  unfold execIllegalInstruction
  refine State.issueHere_stable hP _ _ _ _ h_s (fun _ g e t h => ?_) (fun _ _ e => by cases e)
  cases e; exact of_trap h

theorem execLd_stable (hP : Stable P) (c : Fin 2) (p : Phys) {s : State} (h_s : P s) : OfOut P (execLd c p s) := by
  unfold execLd; (try dsimp only); (try simp only [mk_upd])
  repeat' first | intro _ | with_reducible (first | assumption | apply st_upd hP | apply State.instr_stable hP | apply State.loadTo_stable hP | apply withAccess_stable hP | apply of_oite (P := P) | apply of_next (P := P) | apply of_fault (P := P) | apply of_eite (P := P) | apply of_done (P := P) | apply of_trap (P := P) | apply of_wait (P := P) | apply of_unchecked (P := P) | apply st_ite (P := P) | refine st_next (P := P) (by assumption) ?_ | refine st_done (P := P) (by assumption) ?_ | refine st_trap (P := P) (by assumption) ?_ | refine st_wait (P := P) (by assumption) ?_ | rfl) | split

theorem execLdx_stable (hP : Stable P) (c : Fin 2) (p : Phys) {s : State} (h_s : P s) : OfOut P (execLdx c p s) := by
  unfold execLdx; (try dsimp only); (try simp only [mk_upd])
  repeat' first | intro _ | with_reducible (first | assumption | apply st_upd hP | apply State.instr_stable hP | apply State.loadTo_stable hP | apply withAccess_stable hP | apply of_oite (P := P) | apply of_next (P := P) | apply of_fault (P := P) | apply of_eite (P := P) | apply of_done (P := P) | apply of_trap (P := P) | apply of_wait (P := P) | apply of_unchecked (P := P) | apply st_ite (P := P) | refine st_next (P := P) (by assumption) ?_ | refine st_done (P := P) (by assumption) ?_ | refine st_trap (P := P) (by assumption) ?_ | refine st_wait (P := P) (by assumption) ?_ | rfl) | split

theorem execSt_stable (hP : Stable P) (c : Fin 2) (p : Phys) {s : State} (h_s : P s) : OfOut P (execSt c p s) := by
  unfold execSt; (try dsimp only); (try simp only [mk_upd])
  repeat' first | intro _ | with_reducible (first | assumption | apply st_upd hP | apply State.instr_stable hP | apply State.storeFrom_stable hP | apply withAccess_stable hP | apply of_oite (P := P) | apply of_next (P := P) | apply of_fault (P := P) | apply of_eite (P := P) | apply of_done (P := P) | apply of_trap (P := P) | apply of_wait (P := P) | apply of_unchecked (P := P) | apply st_ite (P := P) | refine st_next (P := P) (by assumption) ?_ | refine st_done (P := P) (by assumption) ?_ | refine st_trap (P := P) (by assumption) ?_ | refine st_wait (P := P) (by assumption) ?_ | rfl) | split

theorem execStx_stable (hP : Stable P) (c : Fin 2) (p : Phys) {s : State} (h_s : P s) : OfOut P (execStx c p s) := by
  unfold execStx; (try dsimp only); (try simp only [mk_upd])
  repeat' first | intro _ | with_reducible (first | assumption | apply st_upd hP | apply State.instr_stable hP | apply State.storeFrom_stable hP | apply withAccess_stable hP | apply of_oite (P := P) | apply of_next (P := P) | apply of_fault (P := P) | apply of_eite (P := P) | apply of_done (P := P) | apply of_trap (P := P) | apply of_wait (P := P) | apply of_unchecked (P := P) | apply st_ite (P := P) | refine st_next (P := P) (by assumption) ?_ | refine st_done (P := P) (by assumption) ?_ | refine st_trap (P := P) (by assumption) ?_ | refine st_wait (P := P) (by assumption) ?_ | rfl) | split

theorem execXchg_stable (hP : Stable P) (c : Fin 2) (p : Phys) {s : State} (h_s : P s) : OfOut P (execXchg c p s) := by
  unfold execXchg
  refine State.instr_stable hP _ _ _ _ h_s (fun i t h => readModify_stable hP _ _ _ _ (fun v u e hu he => ?_) (fun v u q hq w hw => ?_) h)
  · cases he
  · cases hq; exact State.setW_stable hP _ _ _ hw

theorem execCas_stable (hP : Stable P) (c : Fin 2) (p : Phys) {s : State} (h_s : P s) : OfOut P (execCas c p s) := by
  unfold execCas
  refine State.instr_stable hP _ _ _ _ h_s (fun i t h => readModify_stable hP _ _ _ _ (fun v u e hu he => ?_) (fun v u q hq w hw => ?_) h)
  · cases he
  · cases hq
    exact st_ite (State.setW_stable hP _ _ _ hw) (State.setFlg_stable hP _ _ (State.setW_stable hP _ _ _ hw))

theorem execXadd_stable (hP : Stable P) (c : Fin 2) (p : Phys) {s : State} (h_s : P s) : OfOut P (execXadd c p s) := by
  unfold execXadd
  refine State.instr_stable hP _ _ _ _ h_s (fun i t h => readModify_stable hP _ _ _ _ (fun v u e hu he => ?_) (fun v u q hq w hw => ?_) h)
  · repeat' split at he
    all_goals (cases he; try first | exact of_trap hu | exact of_unchecked)
  · repeat' split at hq
    all_goals (cases hq; try first | exact hw | exact State.setW_stable hP _ _ _ hw | exact State.setFlg_stable hP _ _ (State.setW_stable hP _ _ _ hw))

theorem State.blockNext_stable (hP : Stable P) (c : Fin 2) (i : NIns) (acc : List (Nat × Option TWord)) {s : State} (h_s : P s) : OfEff P (State.blockNext s c i acc) := by
  unfold State.blockNext; (try dsimp only); (try simp only [mk_upd])
  repeat' first | intro _ | with_reducible (first | assumption | apply st_upd hP | apply State.setCore_stable hP | apply of_eite (P := P) | apply of_done (P := P) | apply of_trap (P := P) | apply of_wait (P := P) | apply of_unchecked (P := P) | apply st_ite (P := P) | rfl) | split

theorem State.advancePtr_stable (hP : Stable P) (c : Fin 2) (r : Nat) (v : Word) {s : State} (h_s : P s) : P (State.advancePtr s c r v) := by
  unfold State.advancePtr; (try dsimp only)
  repeat' first | intro _ | with_reducible (first | assumption | apply State.setW_stable hP | apply st_ite (P := P)) | split

theorem execBmov_stable (hP : Stable P) (c : Fin 2) (p : Phys) {s : State} (h_s : P s) : OfOut P (execBmov c p s) := by
  unfold execBmov; (try dsimp only); (try simp only [mk_upd])
  repeat' first | intro _ | with_reducible (first | assumption | apply st_upd hP | apply Eff_ok_stable hP | apply State.advancePtr_stable hP | apply State.blockNext_stable hP | apply State.instr_stable hP | apply State.loadWord_stable hP | apply State.room_stable hP | apply State.storeAfter_stable hP | apply st_andThen hP | apply st_andThenP hP | apply withAccess_stable hP | apply of_oite (P := P) | apply of_next (P := P) | apply of_fault (P := P) | apply of_eite (P := P) | apply of_done (P := P) | apply of_trap (P := P) | apply of_wait (P := P) | apply of_unchecked (P := P) | apply st_ite (P := P) | apply st_getD (P := P) | apply of_getD (P := P) | apply st_foldl2 (P := P) | apply st_pite (P := P) | apply of_bite (P := P) | apply of_boite (P := P) | apply of_x2err (P := P) | apply of_x2ok (P := P) | apply of_bok (P := P) | apply of_bdata (P := P) | apply of_bwait (P := P) | apply of_balign (P := P) | apply of_bbus (P := P) | apply of_bpriv (P := P) | apply of_btype (P := P) | apply of_bunchecked (P := P) | apply of_none (P := P) | apply of_some (P := P) | apply of_bnone (P := P) | apply of_bsome (P := P) | apply of_enone (P := P) | apply of_esome (P := P) | apply of_xserr (P := P) | apply of_xsok (P := P) | apply of_xerr (P := P) | apply of_xok (P := P) | apply of_xeerr (P := P) | apply of_xeok (P := P) | apply of_xeperr (P := P) | apply of_xepok (P := P) | refine st_done (P := P) (by assumption) ?_ | refine st_trap (P := P) (by assumption) ?_ | refine st_wait (P := P) (by assumption) ?_ | refine st_next (P := P) (by assumption) ?_ | refine st_exep (P := P) (by assumption) ?_ | refine st_exepe (P := P) (by assumption) ?_ | refine st_exe (P := P) (by assumption) ?_ | refine st_exee (P := P) (by assumption) ?_ | exact (OfBus.get (o := .ok _ _) (by assumption)) | exact (OfBus.get (o := .data _) (by assumption)) | refine st_exp2 (P := P) (by assumption) ?_ | refine st_opt (P := P) (by assumption) ?_ | refine st_snd (P := P) (by assumption) ?_ | refine st_fst (P := P) (by assumption) ?_ | refine st_optbus (P := P) (by assumption) ?_ | refine st_opteff (P := P) (by assumption) ?_ | refine st_bok (P := P) (by assumption) ?_ | refine st_bdata (P := P) (by assumption) ?_ | refine st_exs (P := P) (by assumption) ?_ | refine st_exp (P := P) (by assumption) ?_ | rfl) | split

theorem execBfill_stable (hP : Stable P) (c : Fin 2) (p : Phys) {s : State} (h_s : P s) : OfOut P (execBfill c p s) := by
  unfold execBfill; (try dsimp only); (try simp only [mk_upd])
  repeat' first | intro _ | with_reducible (first | assumption | apply st_upd hP | apply Eff_ok_stable hP | apply State.advancePtr_stable hP | apply State.blockNext_stable hP | apply State.instr_stable hP | apply State.storeWord_stable hP | apply st_andThen hP | apply st_andThenP hP | apply withAccess_stable hP | apply of_oite (P := P) | apply of_next (P := P) | apply of_fault (P := P) | apply of_eite (P := P) | apply of_done (P := P) | apply of_trap (P := P) | apply of_wait (P := P) | apply of_unchecked (P := P) | apply st_ite (P := P) | apply st_getD (P := P) | apply of_getD (P := P) | apply st_foldl2 (P := P) | apply st_pite (P := P) | apply of_bite (P := P) | apply of_boite (P := P) | apply of_x2err (P := P) | apply of_x2ok (P := P) | apply of_bok (P := P) | apply of_bdata (P := P) | apply of_bwait (P := P) | apply of_balign (P := P) | apply of_bbus (P := P) | apply of_bpriv (P := P) | apply of_btype (P := P) | apply of_bunchecked (P := P) | apply of_none (P := P) | apply of_some (P := P) | apply of_bnone (P := P) | apply of_bsome (P := P) | apply of_enone (P := P) | apply of_esome (P := P) | apply of_xserr (P := P) | apply of_xsok (P := P) | apply of_xerr (P := P) | apply of_xok (P := P) | apply of_xeerr (P := P) | apply of_xeok (P := P) | apply of_xeperr (P := P) | apply of_xepok (P := P) | refine st_done (P := P) (by assumption) ?_ | refine st_trap (P := P) (by assumption) ?_ | refine st_wait (P := P) (by assumption) ?_ | refine st_next (P := P) (by assumption) ?_ | refine st_exe (P := P) (by assumption) ?_ | refine st_exee (P := P) (by assumption) ?_ | exact (OfBus.get (o := .ok _ _) (by assumption)) | exact (OfBus.get (o := .data _) (by assumption)) | refine st_exp2 (P := P) (by assumption) ?_ | refine st_opt (P := P) (by assumption) ?_ | refine st_snd (P := P) (by assumption) ?_ | refine st_fst (P := P) (by assumption) ?_ | refine st_optbus (P := P) (by assumption) ?_ | refine st_opteff (P := P) (by assumption) ?_ | refine st_bok (P := P) (by assumption) ?_ | refine st_bdata (P := P) (by assumption) ?_ | refine st_exs (P := P) (by assumption) ?_ | refine st_exp (P := P) (by assumption) ?_ | refine st_exep (P := P) (by assumption) ?_ | refine st_exepe (P := P) (by assumption) ?_ | rfl) | split

theorem handleOut_stable (hP : Stable P) (c : Fin 2) (i : NIns) (v : Option TWord) {s : State} (h_s : P s) : OfEff P (handleOut c i s v) := by
  unfold handleOut; (try dsimp only); (try simp only [mk_upd])
  repeat' first | intro _ | with_reducible (first | assumption | apply st_upd hP | apply Eff_ok_stable hP | apply State.setW_stable hP | apply of_eite (P := P) | apply of_done (P := P) | apply of_trap (P := P) | apply of_wait (P := P) | apply of_unchecked (P := P) | apply st_ite (P := P) | refine st_done (P := P) (by assumption) ?_ | refine st_trap (P := P) (by assumption) ?_ | refine st_wait (P := P) (by assumption) ?_ | rfl) | split

theorem execHchan_stable (hP : Stable P) (c : Fin 2) (p : Phys) {s : State} (h_s : P s) : OfOut P (execHchan c p s) := by
  unfold execHchan; (try dsimp only); (try simp only [mk_upd])
  repeat' first | intro _ | with_reducible (first | assumption | apply st_upd hP | apply State.instr_stable hP | apply handleOut_stable hP | apply withOperands_stable hP | apply of_oite (P := P) | apply of_next (P := P) | apply of_fault (P := P) | apply of_eite (P := P) | apply of_done (P := P) | apply of_trap (P := P) | apply of_wait (P := P) | apply of_unchecked (P := P) | apply st_ite (P := P) | refine st_next (P := P) (by assumption) ?_ | refine st_done (P := P) (by assumption) ?_ | refine st_trap (P := P) (by assumption) ?_ | refine st_wait (P := P) (by assumption) ?_ | rfl) | split

theorem execHrec_stable (hP : Stable P) (c : Fin 2) (p : Phys) {s : State} (h_s : P s) : OfOut P (execHrec c p s) := by
  unfold execHrec; (try dsimp only); (try simp only [mk_upd])
  repeat' first | intro _ | with_reducible (first | assumption | apply st_upd hP | apply State.instr_stable hP | apply handleOut_stable hP | apply withOperands_stable hP | apply of_oite (P := P) | apply of_next (P := P) | apply of_fault (P := P) | apply of_eite (P := P) | apply of_done (P := P) | apply of_trap (P := P) | apply of_wait (P := P) | apply of_unchecked (P := P) | apply st_ite (P := P) | refine st_next (P := P) (by assumption) ?_ | refine st_done (P := P) (by assumption) ?_ | refine st_trap (P := P) (by assumption) ?_ | refine st_wait (P := P) (by assumption) ?_ | rfl) | split

theorem execHcmd_stable (hP : Stable P) (c : Fin 2) (p : Phys) {s : State} (h_s : P s) : OfOut P (execHcmd c p s) := by
  unfold execHcmd; (try dsimp only); (try simp only [mk_upd])
  repeat' first | intro _ | with_reducible (first | assumption | apply st_upd hP | apply State.instr_stable hP | apply handleOut_stable hP | apply withOperands_stable hP | apply of_oite (P := P) | apply of_next (P := P) | apply of_fault (P := P) | apply of_eite (P := P) | apply of_done (P := P) | apply of_trap (P := P) | apply of_wait (P := P) | apply of_unchecked (P := P) | apply st_ite (P := P) | refine st_next (P := P) (by assumption) ?_ | refine st_done (P := P) (by assumption) ?_ | refine st_trap (P := P) (by assumption) ?_ | refine st_wait (P := P) (by assumption) ?_ | rfl) | split

theorem execHmsg_stable (hP : Stable P) (c : Fin 2) (p : Phys) {s : State} (h_s : P s) : OfOut P (execHmsg c p s) := by
  unfold execHmsg; (try dsimp only); (try simp only [mk_upd])
  repeat' first | intro _ | with_reducible (first | assumption | apply st_upd hP | apply State.instr_stable hP | apply handleOut_stable hP | apply withOperands_stable hP | apply of_oite (P := P) | apply of_next (P := P) | apply of_fault (P := P) | apply of_eite (P := P) | apply of_done (P := P) | apply of_trap (P := P) | apply of_wait (P := P) | apply of_unchecked (P := P) | apply st_ite (P := P) | refine st_next (P := P) (by assumption) ?_ | refine st_done (P := P) (by assumption) ?_ | refine st_trap (P := P) (by assumption) ?_ | refine st_wait (P := P) (by assumption) ?_ | rfl) | split

theorem execHobj_stable (hP : Stable P) (c : Fin 2) (p : Phys) {s : State} (h_s : P s) : OfOut P (execHobj c p s) := by
  unfold execHobj; (try dsimp only); (try simp only [mk_upd])
  repeat' first | intro _ | with_reducible (first | assumption | apply st_upd hP | apply State.instr_stable hP | apply handleOut_stable hP | apply withOperands_stable hP | apply of_oite (P := P) | apply of_next (P := P) | apply of_fault (P := P) | apply of_eite (P := P) | apply of_done (P := P) | apply of_trap (P := P) | apply of_wait (P := P) | apply of_unchecked (P := P) | apply st_ite (P := P) | refine st_next (P := P) (by assumption) ?_ | refine st_done (P := P) (by assumption) ?_ | refine st_trap (P := P) (by assumption) ?_ | refine st_wait (P := P) (by assumption) ?_ | rfl) | split

theorem execHidx_stable (hP : Stable P) (c : Fin 2) (p : Phys) {s : State} (h_s : P s) : OfOut P (execHidx c p s) := by
  unfold execHidx; (try dsimp only); (try simp only [mk_upd])
  repeat' first | intro _ | with_reducible (first | assumption | apply st_upd hP | apply Eff_ok_stable hP | apply State.instr_stable hP | apply State.setW_stable hP | apply withOperands_stable hP | apply of_oite (P := P) | apply of_next (P := P) | apply of_fault (P := P) | apply of_eite (P := P) | apply of_done (P := P) | apply of_trap (P := P) | apply of_wait (P := P) | apply of_unchecked (P := P) | apply st_ite (P := P) | refine st_done (P := P) (by assumption) ?_ | refine st_trap (P := P) (by assumption) ?_ | refine st_wait (P := P) (by assumption) ?_ | refine st_next (P := P) (by assumption) ?_ | rfl) | split

theorem execKeyh_stable (hP : Stable P) (c : Fin 2) (p : Phys) {s : State} (h_s : P s) : OfOut P (execKeyh c p s) := by
  unfold execKeyh; (try dsimp only); (try simp only [mk_upd])
  repeat' first | intro _ | with_reducible (first | assumption | apply st_upd hP | apply State.instr_stable hP | apply handleOut_stable hP | apply withOperands_stable hP | apply of_oite (P := P) | apply of_next (P := P) | apply of_fault (P := P) | apply of_eite (P := P) | apply of_done (P := P) | apply of_trap (P := P) | apply of_wait (P := P) | apply of_unchecked (P := P) | apply st_ite (P := P) | refine st_next (P := P) (by assumption) ?_ | refine st_done (P := P) (by assumption) ?_ | refine st_trap (P := P) (by assumption) ?_ | refine st_wait (P := P) (by assumption) ?_ | rfl) | split

theorem State.descriptor_stable (hP : Stable P) (c : Fin 2) (tagx : Bool) (a : Nat) {s : State} (h_s : P s) : OfExcEffP P (State.descriptor s c tagx a) := by
  unfold State.descriptor
  have key : ∀ (l : List Nat) (r : Except Eff (List TWord × State)), OfExcEffP P r → OfExcEffP P (l.foldl (fun r j =>
      match r with
      | .error x => .error x
      | .ok (l, t) =>
        match s.loadAfter t c tagx ((a + 4 * j) % 2 ^ 32) with
        | .error x => .error x
        | .ok (v, u) => .ok (l ++ [v], u)) r) := by
    intro l
    induction l with
    | nil => exact fun r h => h
    | cons j l ih =>
      intro r h
      refine ih _ ?_
      match r, h with
      | .error x, h => exact of_xeperr h.get
      | .ok (v, t), h =>
        have h1 := State.loadAfter_stable hP c tagx ((a + 4 * j) % 2 ^ 32) (t := t) h_s h.get
        dsimp only
        split
        · exact of_xeperr (st_exepe (by assumption) h1)
        · exact of_xepok (st_exep (by assumption) h1)
  exact key _ _ (of_xepok h_s)

theorem execCjob_stable (hP : Stable P) (c : Fin 2) (p : Phys) {s : State} (h_s : P s) : OfOut P (execCjob c p s) := by
  unfold execCjob; (try dsimp only); (try simp only [mk_upd])
  repeat' first | intro _ | with_reducible (first | assumption | apply st_upd hP | apply Eff_ok_stable hP | apply State.descriptor_stable hP | apply State.emptied_stable hP | apply State.instr_stable hP | apply State.loadWord_stable hP | apply State.lockAccess_stable hP | apply State.setW_stable hP | apply State.stallOn_stable hP | apply State.submit_stable hP | apply st_andThen hP | apply st_andThenP hP | apply withAccess_stable hP | apply of_oite (P := P) | apply of_next (P := P) | apply of_fault (P := P) | apply of_eite (P := P) | apply of_done (P := P) | apply of_trap (P := P) | apply of_wait (P := P) | apply of_unchecked (P := P) | apply st_ite (P := P) | refine st_done (P := P) (by assumption) ?_ | refine st_trap (P := P) (by assumption) ?_ | refine st_wait (P := P) (by assumption) ?_ | refine st_exep (P := P) (by assumption) ?_ | refine st_exepe (P := P) (by assumption) ?_ | refine st_exe (P := P) (by assumption) ?_ | refine st_exee (P := P) (by assumption) ?_ | refine st_next (P := P) (by assumption) ?_ | refine st_snd (P := P) (by assumption) ?_ | rfl) | split

theorem customOperands_stable (hP : Stable P) (tagx : Bool) (l : List Src) (k : Eff) {s : State} (h_s : P s) (h_k : OfEff P k) : OfEff P (customOperands tagx s l k) := by
  unfold customOperands; (try dsimp only); (try simp only [mk_upd])
  repeat' first | intro _ | with_reducible (first | assumption | apply st_upd hP | apply withOperands_stable hP | apply of_eite (P := P) | apply of_done (P := P) | apply of_trap (P := P) | apply of_wait (P := P) | apply of_unchecked (P := P) | apply st_ite (P := P) | refine st_done (P := P) (by assumption) ?_ | refine st_trap (P := P) (by assumption) ?_ | refine st_wait (P := P) (by assumption) ?_ | rfl) | split

theorem State.microEnd_stable (hP : Stable P) (c : Fin 2) (i : NIns) (ctl : Word) (sa : Word) (sb : Word) (r : MRun) {s : State} (h_s : P s) : OfEff P (State.microEnd s c i ctl sa sb r) := by
  unfold State.microEnd; (try dsimp only); (try simp only [mk_upd])
  repeat' first | intro _ | with_reducible (first | assumption | apply st_upd hP | apply State.setCore_stable hP | apply State.setFlg_stable hP | apply State.setW_stable hP | apply of_eite (P := P) | apply of_done (P := P) | apply of_trap (P := P) | apply of_wait (P := P) | apply of_unchecked (P := P) | apply st_ite (P := P) | rfl) | split

theorem customEff_stable (hP : Stable P) (c : Fin 2) (i : NIns) {s0 : State} (h_s0 : P s0) : OfEff P (customEff c i s0) := by
  unfold customEff; (try dsimp only); (try simp only [mk_upd])
  repeat' first | intro _ | with_reducible (first | assumption | apply st_upd hP | apply Eff_ok_stable hP | apply State.emptied_stable hP | apply State.microEnd_stable hP | apply State.raiseSource_stable hP | apply st_andThen hP | apply st_andThenP hP | apply customOperands_stable hP | apply of_eite (P := P) | apply of_done (P := P) | apply of_trap (P := P) | apply of_wait (P := P) | apply of_unchecked (P := P) | apply st_ite (P := P) | apply st_getD (P := P) | apply of_getD (P := P) | apply st_foldl2 (P := P) | apply st_pite (P := P) | apply of_oite (P := P) | apply of_bite (P := P) | apply of_boite (P := P) | apply of_x2err (P := P) | apply of_x2ok (P := P) | apply of_next (P := P) | apply of_fault (P := P) | apply of_bok (P := P) | apply of_bdata (P := P) | apply of_bwait (P := P) | apply of_balign (P := P) | apply of_bbus (P := P) | apply of_bpriv (P := P) | apply of_btype (P := P) | apply of_bunchecked (P := P) | apply of_none (P := P) | apply of_some (P := P) | apply of_bnone (P := P) | apply of_bsome (P := P) | apply of_enone (P := P) | apply of_esome (P := P) | apply of_xserr (P := P) | apply of_xsok (P := P) | apply of_xerr (P := P) | apply of_xok (P := P) | apply of_xeerr (P := P) | apply of_xeok (P := P) | apply of_xeperr (P := P) | apply of_xepok (P := P) | refine st_done (P := P) (by assumption) ?_ | refine st_trap (P := P) (by assumption) ?_ | refine st_wait (P := P) (by assumption) ?_ | refine st_exe (P := P) (by assumption) ?_ | refine st_exee (P := P) (by assumption) ?_ | exact (OfBus.get (o := .ok _ _) (by assumption)) | exact (OfBus.get (o := .data _) (by assumption)) | refine st_exp2 (P := P) (by assumption) ?_ | refine st_opt (P := P) (by assumption) ?_ | refine st_snd (P := P) (by assumption) ?_ | refine st_fst (P := P) (by assumption) ?_ | refine st_optbus (P := P) (by assumption) ?_ | refine st_opteff (P := P) (by assumption) ?_ | refine st_bok (P := P) (by assumption) ?_ | refine st_bdata (P := P) (by assumption) ?_ | refine st_next (P := P) (by assumption) ?_ | refine st_exs (P := P) (by assumption) ?_ | refine st_exp (P := P) (by assumption) ?_ | refine st_exep (P := P) (by assumption) ?_ | refine st_exepe (P := P) (by assumption) ?_ | rfl) | split

theorem execCust_stable (hP : Stable P) (c : Fin 2) (p : Phys) {s : State} (h_s : P s) : OfOut P (execCust c p s) := by
  unfold execCust; (try dsimp only)
  repeat' first | intro _ | with_reducible (first | assumption | apply State.instr_stable hP | apply customEff_stable hP | apply of_oite (P := P) | apply of_next (P := P) | apply of_fault (P := P) | apply of_eite (P := P) | apply of_done (P := P) | apply of_trap (P := P) | apply of_wait (P := P) | apply of_unchecked (P := P) | apply st_ite (P := P) | refine st_next (P := P) (by assumption) ?_ | refine st_done (P := P) (by assumption) ?_ | refine st_trap (P := P) (by assumption) ?_ | refine st_wait (P := P) (by assumption) ?_) | split

theorem State.closeTrap_stable (hP : Stable P) (m : Master) (cause : Nat) {s : State} (h_s : P s) : P (State.closeTrap s m cause) := by
  unfold State.closeTrap; (try dsimp only); (try simp only [mk_upd])
  repeat' first | intro _ | with_reducible (first | assumption | apply st_upd hP | apply State.trapEnter_stable hP | apply st_ite (P := P) | rfl) | split

theorem execCustomRegionClose_stable (hP : Stable P) (m : Master) (job : Bool) {s : State} (h_s : P s) : OfOut P (execCustomRegionClose m job s) := by
  unfold execCustomRegionClose; (try dsimp only); (try simp only [mk_upd])
  repeat' first | intro _ | with_reducible (first | assumption | apply st_upd hP | apply Eff_ok_stable hP | apply State.closeTrap_stable hP | apply State.drained_stable hP | apply State.setCore_stable hP | apply State.stall_stable hP | apply State.storeAddr_stable hP | apply of_oite (P := P) | apply of_next (P := P) | apply of_fault (P := P) | refine st_done (P := P) (by assumption) ?_ | refine st_trap (P := P) (by assumption) ?_ | refine st_wait (P := P) (by assumption) ?_ | refine st_snd (P := P) (by assumption) ?_ | refine st_bok (P := P) (by assumption) ?_ | refine st_bdata (P := P) (by assumption) ?_ | rfl) | split

theorem State.applyFrm_stable (hP : Stable P) (a : Nat) (w : Word) {s : State} (h_s : P s) : OfOpt P (State.applyFrm s a w) := by
  unfold State.applyFrm; (try dsimp only)
  repeat' first | intro _ | with_reducible (first | assumption | apply Eff_ok_stable hP | apply State.applyPlain_stable hP | apply State.raiseSource_stable hP | apply State.setBit_stable hP | apply of_none (P := P) | apply of_some (P := P) | apply st_ite (P := P) | refine st_done (P := P) (by assumption) ?_ | refine st_trap (P := P) (by assumption) ?_ | refine st_wait (P := P) (by assumption) ?_) | split

theorem State.applyOne_stable (hP : Stable P) (p : Nat × Word) {s : State} (h_s : P s) : P (State.applyOne s p) := by
  unfold State.applyOne; (try dsimp only); (try simp only [mk_upd])
  repeat' first | intro _ | with_reducible (first | assumption | apply st_upd hP | apply State.applyBal_stable hP | apply State.applyClass_stable hP | apply State.applyFrm_stable hP | apply State.applyInp_stable hP | apply State.applyLed_stable hP | apply State.applyPlain_stable hP | apply State.applyPrs_stable hP | apply State.applySw_stable hP | apply State.applyTim_stable hP | apply st_ite (P := P) | apply st_getD (P := P) | apply of_getD (P := P) | apply st_foldl2 (P := P) | apply st_pite (P := P) | apply of_oite (P := P) | apply of_eite (P := P) | apply of_bite (P := P) | apply of_boite (P := P) | apply of_x2err (P := P) | apply of_x2ok (P := P) | apply of_next (P := P) | apply of_fault (P := P) | apply of_done (P := P) | apply of_trap (P := P) | apply of_wait (P := P) | apply of_unchecked (P := P) | apply of_bok (P := P) | apply of_bdata (P := P) | apply of_bwait (P := P) | apply of_balign (P := P) | apply of_bbus (P := P) | apply of_bpriv (P := P) | apply of_btype (P := P) | apply of_bunchecked (P := P) | apply of_none (P := P) | apply of_some (P := P) | apply of_bnone (P := P) | apply of_bsome (P := P) | apply of_enone (P := P) | apply of_esome (P := P) | apply of_xserr (P := P) | apply of_xsok (P := P) | apply of_xerr (P := P) | apply of_xok (P := P) | apply of_xeerr (P := P) | apply of_xeok (P := P) | apply of_xeperr (P := P) | apply of_xepok (P := P) | refine st_opt (P := P) (by assumption) ?_ | exact (OfBus.get (o := .ok _ _) (by assumption)) | exact (OfBus.get (o := .data _) (by assumption)) | refine st_exp2 (P := P) (by assumption) ?_ | refine st_snd (P := P) (by assumption) ?_ | refine st_fst (P := P) (by assumption) ?_ | refine st_optbus (P := P) (by assumption) ?_ | refine st_opteff (P := P) (by assumption) ?_ | refine st_done (P := P) (by assumption) ?_ | refine st_trap (P := P) (by assumption) ?_ | refine st_wait (P := P) (by assumption) ?_ | refine st_bok (P := P) (by assumption) ?_ | refine st_bdata (P := P) (by assumption) ?_ | refine st_next (P := P) (by assumption) ?_ | refine st_exs (P := P) (by assumption) ?_ | refine st_exp (P := P) (by assumption) ?_ | refine st_exe (P := P) (by assumption) ?_ | refine st_exee (P := P) (by assumption) ?_ | refine st_exep (P := P) (by assumption) ?_ | refine st_exepe (P := P) (by assumption) ?_ | rfl) | split

theorem State.applyStaged_stable (hP : Stable P) (l : List (Nat × Word)) {s : State} (h_s : P s) : P (State.applyStaged s l) := by
  unfold State.applyStaged; (try dsimp only)
  repeat' first | intro _ | with_reducible (first | assumption | apply State.applyLimit_stable hP | apply State.applyOne_stable hP | apply State.loaderGo_stable hP | apply st_ite (P := P) | apply st_foldl (P := P) | apply st_foldl2 (P := P)) | split

theorem State.takeHeld_stable (hP : Stable P) (frame : Nat) (cfgseal : Bool) (committing : Bool) {s : State} (h_s : P s) : P ((State.takeHeld s frame cfgseal committing)).1 := by
  unfold State.takeHeld; (try dsimp only); (try simp only [mk_upd])
  repeat' first | intro _ | with_reducible (first | assumption | apply st_upd hP | apply State.applyStaged_stable hP | apply State.setBit_stable hP | apply st_ite (P := P) | apply st_pite (P := P) | rfl) | split

theorem State.applyRequests_stable (hP : Stable P) (l : List (Nat × Word)) {s : State} (h_s : P s) : P (State.applyRequests s l) := by
  unfold State.applyRequests; (try dsimp only)
  repeat' first | intro _ | with_reducible (first | assumption | apply State.applyPwr_stable hP | apply st_ite (P := P) | apply st_getD (P := P) | apply st_foldl (P := P) | refine st_opt (P := P) (by assumption) ?_) | split

theorem State.commitImage_stable (hP : Stable P) (host : List (Nat × Word)) (deadline : Nat) (mask : Nat) {s : State} (h_s : P s) : P (State.commitImage s host deadline mask) := by
  unfold State.commitImage; (try dsimp only); (try simp only [mk_upd])
  repeat' first | intro _ | with_reducible (first | assumption | apply st_upd hP | apply State.setFld_stable hP | apply st_ite (P := P) | apply st_foldl (P := P) | rfl) | split

theorem State.overrun_stable (hP : Stable P)  {s : State} (h_s : P s) : P (State.overrun s) := by
  unfold State.overrun; (try dsimp only)
  repeat' first | intro _ | with_reducible (first | assumption | apply State.raiseSource_stable hP | apply State.satInc_stable hP | apply State.setFld_stable hP | apply st_ite (P := P)) | split

theorem State.dropAbsent_stable (hP : Stable P)  {s : State} (h_s : P s) : P (State.dropAbsent s) := by
  unfold State.dropAbsent; (try dsimp only); (try simp only [mk_upd])
  repeat' first | intro _ | with_reducible (first | assumption | apply st_upd hP | apply st_ite (P := P) | rfl) | split

theorem State.imageHeader_stable (hP : Stable P)  {s : State} (h_s : P s) : P (State.imageHeader s) := by
  unfold State.imageHeader; (try dsimp only)
  repeat' first | intro _ | with_reducible (first | assumption | apply State.putIn_stable hP | apply st_ite (P := P) | apply st_foldl (P := P)) | split

theorem State.closeImage_stable (hP : Stable P) (led : Nat → Nat × Nat) {s : State} (h_s : P s) : P (State.closeImage s led) := by
  unfold State.closeImage; (try dsimp only)
  repeat' first | intro _ | with_reducible (first | assumption | apply State.accRecords_stable hP | apply State.balRecords_stable hP | apply State.canRecords_stable hP | apply State.dropAbsent_stable hP | apply State.echRecords_stable hP | apply State.ethRecords_stable hP | apply State.glnRecords_stable hP | apply State.grnRecords_stable hP | apply State.hstRecords_stable hP | apply State.imageHeader_stable hP | apply State.inpRecords_stable hP | apply State.ledRecords_stable hP | apply State.linRecords_stable hP | apply State.nmRecords_stable hP | apply State.prsRecords_stable hP | apply State.pwrRecords_stable hP | apply State.secRecords_stable hP | apply State.silRecords_stable hP | apply State.swRecords_stable hP | apply State.timRecords_stable hP | apply State.winRecord_stable hP | apply st_ite (P := P)) | split

theorem State.clearNotes_stable (hP : Stable P)  {s : State} (h_s : P s) : P (State.clearNotes s) := by
  unfold State.clearNotes; (try dsimp only)
  repeat' first | intro _ | with_reducible (first | assumption | apply State.accClear_stable hP | apply State.balClear_stable hP | apply State.canClear_stable hP | apply State.echClear_stable hP | apply State.ethClear_stable hP | apply State.grnClear_stable hP | apply State.hstClear_stable hP | apply State.inpClear_stable hP | apply State.ledClear_stable hP | apply State.linClear_stable hP | apply State.nmFrameClear_stable hP | apply State.pwrClear_stable hP | apply State.setFld_stable hP | apply State.silClear_stable hP | apply State.timClear_stable hP | apply st_ite (P := P)) | split

set_option maxRecDepth 8000 in
theorem State.closeFrame_stable (hP : Stable P)  {s : State} (h_s : P s) : P (State.closeFrame s) := by
  unfold State.closeFrame
  extract_lets s1 f2 s2 s3 s4
  have h1 : P s1 := State.gpioLatch_stable hP (st_forEach (fun t x h => State.latchWake_stable hP x h) (st_forEach (fun t x h => State.latchNote_stable hP x h) h_s))
  have h2 : P s2 := hP.rest s1 _ rfl rfl rfl rfl rfl (Nat.le_refl _) id h1
  clear_value s2
  have h3 : P s3 := State.inpClose_stable hP (st_forEach (fun t x h => State.ainJudge_stable hP x h) h2)
  clear_value s3
  have h4 : P s4 := State.prsClose_stable hP (State.swClose_stable hP h3)
  exact State.balEdge_stable hP (st_forEach (fun t x h => State.ledNote_stable hP x h) (st_ite (st_forEach (fun t x h => State.ledClose_stable hP x h) h4) h4))

theorem State.moveBlocks_stable (hP : Stable P) (back : Nat → Bool) (ended : Nat) {s : State} (h_s : P s) : P (State.moveBlocks s back ended) := by
  unfold State.moveBlocks; (try dsimp only); (try simp only [mk_upd])
  repeat' first | intro _ | with_reducible (first | assumption | apply st_upd hP | apply State.accDemand_stable hP | apply State.accEdge_stable hP | apply State.canEdge_stable hP | apply State.glnEdge_stable hP | apply State.inpSources_stable hP | apply State.ledEdge_stable hP | apply State.nmEdge_stable hP | apply State.prsEdge_stable hP | apply State.prsSlot_stable hP | apply State.pwrEdge_stable hP | apply State.swEdge_stable hP | apply State.vsEdge_stable hP | apply State.vsSlot_stable hP | apply st_ite (P := P) | apply st_forEach (P := P) | rfl) | split

theorem State.stampEdge_stable (hP : Stable P) (due : Option Int) {s : State} (h_s : P s) : P (State.stampEdge s due) := by
  unfold State.stampEdge; (try dsimp only); (try simp only [mk_upd])
  repeat' first | intro _ | with_reducible (first | assumption | apply st_upd hP | apply st_ite (P := P) | rfl) | split

theorem State.edge_stable (hP : Lasting P) (at_ : Nat) {s : State} (h_s : P s) : P (State.edge s at_) := by
  unfold State.edge
  extract_lets resume deadline cfgseal mask repeated committing ended due s1 led f2 s2 back r s3 s4 s5 f6 s6
  have h1 : P s1 := State.closeFrame_stable hP.toStable (State.accSlots_stable hP.toStable (State.advance_stable hP.toStable _ h_s))
  clear_value s1
  have h2 : P s2 := hP.any s1 _ rfl rfl rfl h1
  clear_value s2
  have h3 : P s3 := State.hostEdge_stable hP.toStable (State.stampEdge_stable hP.toStable _ (State.timEdge_stable hP.toStable (State.takeHeld_stable hP.toStable _ _ _ h2)))
  clear_value s3
  have h4 : P s4 := st_ite (State.commitImage_stable hP.toStable _ _ _ h3) (st_ite h3 (State.overrun_stable hP.toStable h3))
  clear_value s4
  have h5 : P s5 := State.moveBlocks_stable hP.toStable _ _ (State.safeRelease_stable hP.toStable (State.holdCommitted_stable hP.toStable _ h4))
  clear_value s5
  have h6 : P s6 := hP.any s5 _ rfl rfl rfl h5
  exact State.applyRequests_stable hP.toStable _ (State.clearNotes_stable hP.toStable (State.closeImage_stable hP.toStable _ h6))

theorem State.parkEdge_stable (hP : Stable P)  {s : State} (h_s : P s) : P (State.parkEdge s) := by
  unfold State.parkEdge; (try dsimp only); (try simp only [mk_upd])
  repeat' first | intro _ | with_reducible (first | assumption | apply st_upd hP | apply st_ite (P := P) | rfl) | split

theorem execFrameEdge_stable (hP : Lasting P) (w : World) {s : State} (h_s : P s) : OfOut P (execFrameEdge w s) := by
  unfold execFrameEdge
  refine of_oite ?_ (of_next h_s)
  extract_lets f1 s1 s2
  have h1 : P s1 := hP.any s _ rfl rfl rfl h_s
  have h2 : P s2 := State.observe_stable hP.toStable _ h1
  exact of_oite of_fault (of_next (State.parkEdge_stable hP.toStable (State.coresDown_stable hP.toStable (State.edge_stable hP _ h2))))

theorem execResumeEdge_stable (hP : Lasting P) (w : World) {s : State} (h_s : P s) : OfOut P (execResumeEdge w s) := by
  unfold execResumeEdge
  split
  · refine of_oite (of_next h_s) ?_
    extract_lets at_ us f1 s1 s2
    have h1 : P s1 := hP.any s _ rfl rfl rfl h_s
    have h2 : P s2 := State.observe_stable hP.toStable _ h1
    exact of_oite of_fault (of_next (State.parkEdge_stable hP.toStable (State.coresDown_stable hP.toStable (State.edge_stable hP _ h2))))
  · exact of_next h_s

theorem execSealDeadline_stable (hP : Stable P)  {s : State} (h_s : P s) : OfOut P (execSealDeadline s) := by
  unfold execSealDeadline; (try dsimp only)
  repeat' first | intro _ | with_reducible (first | assumption | apply State.advance_stable hP | apply of_oite (P := P) | apply of_next (P := P) | apply of_fault (P := P)) | split

theorem execFirmwareCutoff_stable (hP : Stable P)  {s : State} (h_s : P s) : OfOut P (execFirmwareCutoff s) := by
  unfold execFirmwareCutoff; (try dsimp only)
  repeat' first | intro _ | with_reducible (first | assumption | apply State.advance_stable hP | apply of_oite (P := P) | apply of_next (P := P) | apply of_fault (P := P)) | split

theorem execHostCutoff_stable (hP : Stable P)  {s : State} (h_s : P s) : OfOut P (execHostCutoff s) := by
  unfold execHostCutoff; (try dsimp only)
  repeat' first | intro _ | with_reducible (first | assumption | apply State.advance_stable hP | apply of_oite (P := P) | apply of_next (P := P) | apply of_fault (P := P)) | split

theorem State.missRelease_stable (hP : Stable P) (j : Nat) {s : State} (h_s : P s) : P (State.missRelease s j) := by
  unfold State.missRelease; (try dsimp only)
  repeat' first | intro _ | with_reducible (first | assumption | apply State.raiseSource_stable hP | apply State.setFld_stable hP | apply st_ite (P := P)) | split

theorem execJobRelease_stable (hP : Stable P) (j : Fin 64) {s : State} (h_s : P s) : OfOut P (execJobRelease j s) := by
  unfold execJobRelease; (try dsimp only); (try simp only [mk_upd])
  repeat' first | intro _ | with_reducible (first | assumption | apply st_upd hP | apply State.advance_stable hP | apply State.demand_stable hP | apply State.lockAccess_stable hP | apply State.missRelease_stable hP | apply State.setJob_stable hP | apply of_oite (P := P) | apply of_next (P := P) | apply of_fault (P := P) | rfl) | split

theorem execEventRaise_stable (hP : Stable P) (n : Fin 128) {s : State} (h_s : P s) : OfOut P (execEventRaise n s) := by
  unfold execEventRaise; (try dsimp only)
  repeat' first | intro _ | with_reducible (first | assumption | apply State.raiseEvent_stable hP | apply of_oite (P := P) | apply of_next (P := P) | apply of_fault (P := P)) | split

theorem execEventDispatch_stable (hP : Stable P) (c : Fin 2) {s : State} (h_s : P s) : OfOut P (execEventDispatch c s) := by
  unfold execEventDispatch; (try dsimp only)
  repeat' first | intro _ | with_reducible (first | assumption | apply State.dispatch_stable hP | apply of_oite (P := P) | apply of_next (P := P) | apply of_fault (P := P)) | split

theorem execJobStart_stable (hP : Stable P) (c : Fin 2) {s : State} (h_s : P s) : OfOut P (execJobStart c s) := by
  unfold execJobStart; (try dsimp only)
  repeat' first | intro _ | with_reducible (first | assumption | apply State.dispatch_stable hP | apply of_oite (P := P) | apply of_next (P := P) | apply of_fault (P := P)) | split

theorem State.replay_stable (hP : Stable P) (i : DipAccess) {s : State} (h_s : P s) : OfOut P (State.replay s i) := by
  unfold State.replay; (try dsimp only); (try simp only [mk_upd])
  repeat' first | intro _ | with_reducible (first | assumption | apply st_upd hP | apply State.coreRestart_stable hP | apply State.jdoneClear_stable hP | apply State.pepochWrite_stable hP | apply State.rdataWrite_stable hP | apply State.recoveryBoot_stable hP | apply State.recoveryErase_stable hP | apply State.recoveryVerify_stable hP | apply State.sev_stable hP | apply State.sourceForce_stable hP | apply State.stickyClear_stable hP | apply State.swset_stable hP | apply State.urawAccess_stable hP | apply execAlmloWrite_stable hP | apply execArbstep_stable hP | apply execBankStateWrite_stable hP | apply execCanRunStart_stable hP | apply execCanRunStop_stable hP | apply execClassLock_stable hP | apply execCntloRead_stable hP | apply execCommit_stable hP | apply execCoreRestart_stable hP | apply execCustomRegionClose_stable hP | apply execDrespCheck_stable hP | apply execEngineStart_stable hP | apply execEngineStop_stable hP | apply execFrameloRead_stable hP | apply execFrc_stable hP | apply execHctlStart_stable hP | apply execHostBadRequest_stable hP | apply execHostNop_stable hP | apply execHreset_stable hP | apply execJdoneClear_stable hP | apply execLckrel_stable hP | apply execLinHeaderSend_stable hP | apply execLinWakeSend_stable hP | apply execNclr_stable hP | apply execNoffloWrite_stable hP | apply execNrateloWrite_stable hP | apply execObjcfgWrite_stable hP | apply execObjectPortRead_stable hP | apply execObjectPortWrite_stable hP | apply execOwnerWrite_stable hP | apply execPepochWrite_stable hP | apply execProg_stable hP | apply execQack_stable hP | apply execRdataWrite_stable hP | apply execRead_stable hP | apply execRecover_stable hP | apply execRecoverEntry_stable hP | apply execRecoveryBoot_stable hP | apply execRecoveryErase_stable hP | apply execRecoveryVerify_stable hP | apply execRegisterWrite_stable hP | apply execSev_stable hP | apply execSourceForce_stable hP | apply execSpiIdleFrame_stable hP | apply execSpiShortFrame_stable hP | apply execStickyClear_stable hP | apply execSwset_stable hP | apply execTloRead_stable hP | apply execTxn_stable hP | apply execUrawAccess_stable hP | apply execWear_stable hP | apply execWrite_stable hP | apply of_oite (P := P) | apply of_next (P := P) | apply of_fault (P := P) | refine st_next (P := P) (by assumption) ?_ | rfl) | split

theorem State.replayAll_stable (hP : Stable P) (y0 : List DipAccess) {y1 : State} (h_y1 : P y1) : OfOut P (State.replayAll y0 y1) := by
  induction y0 generalizing y1 with
  | nil => exact of_next h_y1
  | cons i l ih =>
    have h := State.replay_stable hP i h_y1
    unfold State.replayAll
    split
    · rename_i e
      rw [e] at h
      exact ih h.get
    · exact h

theorem State.undipDomain_stable (hP : Stable P) (d : Nat) {s : State} (h_s : P s) : P (State.undipDomain s d) := by
  unfold State.undipDomain; (try dsimp only); (try simp only [mk_upd])
  repeat' first | intro _ | with_reducible (first | assumption | apply st_upd hP | apply State.demand_stable hP | apply State.setDom_stable hP | apply State.wakeDone_stable hP | apply st_ite (P := P) | rfl) | split

theorem execLogicDipEnd_stable (hP : Stable P) (mv : Int) (us : Nat) (lock : Nat) {s : State} (h_s : P s) : OfOut P (execLogicDipEnd mv us lock s) := by
  unfold execLogicDipEnd; (try dsimp only); (try simp only [mk_upd])
  repeat' first | intro _ | with_reducible (first | assumption | apply st_upd hP | apply State.advance_stable hP | apply State.prsThaw_stable hP | apply State.replayAll_stable hP | apply State.setPin_stable hP | apply State.undipDomain_stable hP | apply of_oite (P := P) | apply of_next (P := P) | apply of_fault (P := P) | apply st_forEach (P := P) | refine st_next (P := P) (by assumption) ?_ | rfl) | split

theorem State.acked_stable (hP : Stable P) (a : Nat) {s : State} (h_s : P s) : P (State.acked s a) := by
  unfold State.acked; (try dsimp only); (try simp only [mk_upd])
  repeat' first | intro _ | with_reducible (first | assumption | apply st_upd hP | apply st_ite (P := P) | rfl) | split

theorem State.link_stable (hP : Stable P) (par : Bool) (always : Bool) (f : State → Out) {s : State} (h_s : P s) (h_f : ∀ x0, P x0 → OfOut P (f x0)) : OfOut P (State.link s par always f) := by
  unfold State.link; (try dsimp only)
  repeat' first | intro _ | with_reducible (first | assumption | apply State.acked_stable hP | apply h_f | apply of_oite (P := P) | apply of_next (P := P) | apply of_fault (P := P)) | split

theorem State.linkRead_stable (hP : Stable P) (y0 : BusRes) {s : State} (h_s : P s) (h_y0 : OfBus P y0) : OfOut P (State.linkRead s y0) := by
  cases y0 <;> unfold State.linkRead <;> dsimp only
  all_goals repeat' first | with_reducible (first | assumption | apply of_next (P := P) | apply of_fault (P := P) | apply State.acked_stable hP | apply State.deliver_stable hP | apply State.demand_stable hP) | exact h_y0.get

theorem State.linkDrops_stable (hP : Stable P)  {s : State} (h_s : P s) : P (State.linkDrops s) := by
  unfold State.linkDrops; (try dsimp only)
  repeat' first | intro _ | with_reducible (first | assumption | apply State.acked_stable hP | apply State.setBit_stable hP | apply st_ite (P := P)) | split

theorem State.linkWrite_stable (hP : Stable P) (dataPar : Bool) (r : BusRes) {s : State} (h_s : P s) (h_r : OfBus P r) : OfOut P (State.linkWrite s dataPar r) := by
  unfold State.linkWrite; (try dsimp only); (try simp only [mk_upd])
  repeat' first | intro _ | with_reducible (first | assumption | apply st_upd hP | apply Eff_ok_stable hP | apply State.acked_stable hP | apply State.demand_stable hP | apply State.linkDrops_stable hP | apply of_oite (P := P) | apply of_next (P := P) | apply of_fault (P := P) | refine st_done (P := P) (by assumption) ?_ | refine st_trap (P := P) (by assumption) ?_ | refine st_wait (P := P) (by assumption) ?_ | exact (OfBus.get (o := .ok _ _) (by assumption)) | exact (OfBus.get (o := .data _) (by assumption)) | rfl) | split

theorem execMrd_stable (hP : Stable P) (a : Nat) (e : Ecc) (par : Bool) {s : State} (h_s : P s) : OfOut P (execMrd a e par s) := by
  unfold execMrd; (try dsimp only)
  repeat' first | intro _ | with_reducible (first | assumption | apply State.link_stable hP | apply State.linkRead_stable hP | apply State.loadAddr_stable hP | apply of_oite (P := P) | apply of_next (P := P) | apply of_fault (P := P) | refine st_next (P := P) (by assumption) ?_ | refine st_bok (P := P) (by assumption) ?_ | refine st_bdata (P := P) (by assumption) ?_) | split

theorem execMwr_stable (hP : Stable P) (a : Nat) (v : TWord) (differs : Bool) (par : Bool) (dataPar : Bool) {s : State} (h_s : P s) : OfOut P (execMwr a v differs par dataPar s) := by
  unfold execMwr; (try dsimp only)
  repeat' first | intro _ | with_reducible (first | assumption | apply State.acked_stable hP | apply State.link_stable hP | apply State.linkWrite_stable hP | apply State.setBit_stable hP | apply State.storeAddr_stable hP | apply of_oite (P := P) | apply of_next (P := P) | apply of_fault (P := P) | refine st_next (P := P) (by assumption) ?_ | refine st_bok (P := P) (by assumption) ?_ | refine st_bdata (P := P) (by assumption) ?_) | split

theorem execRrd_stable (hP : Stable P) (c : Fin 2) (r : Nat) (par : Bool) {s : State} (h_s : P s) : OfOut P (execRrd c r par s) := by
  unfold execRrd; (try dsimp only); (try simp only [mk_upd])
  repeat' first | intro _ | with_reducible (first | assumption | apply st_upd hP | apply State.acked_stable hP | apply State.deliver_stable hP | apply State.link_stable hP | apply of_oite (P := P) | apply of_next (P := P) | apply of_fault (P := P) | refine st_next (P := P) (by assumption) ?_ | rfl) | split

theorem State.linkPut_stable (hP : Stable P) (c : Fin 2) (r : Nat) (v : TWord) {s : State} (h_s : P s) : OfOpt P (State.linkPut s c r v) := by
  unfold State.linkPut; (try dsimp only); (try simp only [mk_upd])
  repeat' first | intro _ | with_reducible (first | assumption | apply st_upd hP | apply State.setCore_stable hP | apply State.setSpecial_stable hP | apply of_none (P := P) | apply of_some (P := P) | apply st_ite (P := P) | rfl) | split

theorem execRwr_stable (hP : Stable P) (c : Fin 2) (r : Nat) (v : TWord) (par : Bool) (dataPar : Bool) {s : State} (h_s : P s) : OfOut P (execRwr c r v par dataPar s) := by
  unfold execRwr; (try dsimp only); (try simp only [mk_upd])
  repeat' first | intro _ | with_reducible (first | assumption | apply st_upd hP | apply State.acked_stable hP | apply State.link_stable hP | apply State.linkPut_stable hP | apply State.setBit_stable hP | apply of_oite (P := P) | apply of_next (P := P) | apply of_fault (P := P) | apply st_getD (P := P) | refine st_next (P := P) (by assumption) ?_ | refine st_opt (P := P) (by assumption) ?_ | rfl) | split

theorem execDrd_stable (hP : Stable P) (o : BitVec 16) (par : Bool) {s : State} (h_s : P s) : OfOut P (execDrd o par s) := by
  unfold execDrd; (try dsimp only)
  repeat' first | intro _ | with_reducible (first | assumption | apply State.link_stable hP | apply State.linkRead_stable hP | apply State.loadPeriph_stable hP | apply of_oite (P := P) | apply of_next (P := P) | apply of_fault (P := P) | refine st_next (P := P) (by assumption) ?_ | refine st_bok (P := P) (by assumption) ?_ | refine st_bdata (P := P) (by assumption) ?_) | split

theorem execDwr_stable (hP : Stable P) (o : BitVec 16) (v : TWord) (par : Bool) (dataPar : Bool) {s : State} (h_s : P s) : OfOut P (execDwr o v par dataPar s) := by
  unfold execDwr; (try dsimp only)
  repeat' first | intro _ | with_reducible (first | assumption | apply State.acked_stable hP | apply State.link_stable hP | apply State.linkWrite_stable hP | apply State.storePeriph_stable hP | apply of_oite (P := P) | apply of_next (P := P) | apply of_fault (P := P) | refine st_next (P := P) (by assumption) ?_ | refine st_bok (P := P) (by assumption) ?_ | refine st_bdata (P := P) (by assumption) ?_) | split

end Sys2Proof.Machine
end

