-- ==== Sys2Proof/Laws/StableExec.lean ====
section
/-!
SUPPORT. Every command keeps a lasting property, and every command but edges and resets keeps a stable one.
-/

set_option maxRecDepth 4000
set_option maxHeartbeats 4000000

namespace Sys2Proof.Machine

variable {P : State → Prop}

/-- Every command keeps a lasting property. -/
theorem exec_lasting (hP : Lasting P) (i : Instr) {s : State} (h : P s) : OfOut P (exec i s) := by
  cases i with
  | registerWrite m job a v => exact execRegisterWrite_stable hP.toStable m job a v h
  | frameEdge w => exact execFrameEdge_stable hP w h
  | slotBoundary w => exact execSlotBoundary_stable hP.toStable w h
  | sealDeadline => exact execSealDeadline_stable hP.toStable h
  | firmwareCutoff => exact execFirmwareCutoff_stable hP.toStable h
  | hostCutoff => exact execHostCutoff_stable hP.toStable h
  | jobRelease j => exact execJobRelease_stable hP.toStable j h
  | eventRaise n => exact execEventRaise_stable hP.toStable n h
  | eventDispatch c => exact execEventDispatch_stable hP.toStable c h
  | jobStart c => exact execJobStart_stable hP.toStable c h
  | sev w => exact execSev_stable hP.toStable w h
  | frameloRead m => exact execFrameloRead_stable hP.toStable m h
  | inrushWindowClose c => exact execInrushWindowClose_stable hP.toStable c h
  | overcurrentShutoff c amps land => exact execOvercurrentShutoff_stable hP.toStable c amps land h
  | junctionShutoff c deg => exact execJunctionShutoff_stable hP.toStable c deg h
  | tlatchClear o deg => exact execTlatchClear_stable hP.toStable o deg h
  | channelRestart o => exact execChannelRestart_stable hP.toStable o h
  | retriesHeal o => exact execRetriesHeal_stable hP.toStable o h
  | pairImbalance c => exact execPairImbalance_stable hP.toStable c h
  | slotSample w => rw [show exec (.slotSample w) s = execSlotSample w s from rfl]; exact execSlotSample_stable hP.toStable w h
  | streamSampleWrite => exact execStreamSampleWrite_stable hP.toStable h
  | dieShed d deg => exact execDieShed_stable hP.toStable d deg h
  | shedEscalate d deg => exact execShedEscalate_stable hP.toStable d deg h
  | hbShutoff n amps deg land => exact execHbShutoff_stable hP.toStable n amps deg land h
  | hbStall n => exact execHbStall_stable hP.toStable n h
  | offStatePhaseA o land odd => exact execOffStatePhaseA_stable hP.toStable o land odd h
  | offStateCheck o land odd => exact execOffStateCheck_stable hP.toStable o land odd h
  | reverseOn g mv => exact execReverseOn_stable hP.toStable g mv h
  | reverseEnd g mv => exact execReverseEnd_stable hP.toStable g mv h
  | engineStart e => exact execEngineStart_stable hP.toStable e h
  | engineStop e => exact execEngineStop_stable hP.toStable e h
  | holdEnded t => exact execHoldEnded_stable hP.toStable t h
  | grantedSlotStart t => exact execGrantedSlotStart_stable hP.toStable t h
  | regulatorSample w => exact execRegulatorSample_stable hP.toStable w h
  | detectorWindowClose t => exact execDetectorWindowClose_stable hP.toStable t h
  | ucNop t => exact execUcNop_stable hP.toStable t h
  | ucSet t => exact execUcSet_stable hP.toStable t h
  | ucRamp t => exact execUcRamp_stable hP.toStable t h
  | ucWaits t => exact execUcWaits_stable hP.toStable t h
  | ucWaitu t => exact execUcWaitu_stable hP.toStable t h
  | ucWaituExpire t => exact execUcWaituExpire_stable hP.toStable t h
  | ucWaitc t => exact execUcWaitc_stable hP.toStable t h
  | ucWaitcTimeout t => exact execUcWaitcTimeout_stable hP.toStable t h
  | ucDecay t => exact execUcDecay_stable hP.toStable t h
  | ucBr t => exact execUcBr_stable hP.toStable t h
  | ucLps t => exact execUcLps_stable hP.toStable t h
  | ucLpj t => exact execUcLpj_stable hP.toStable t h
  | ucArmd t => exact execUcArmd_stable hP.toStable t h
  | ucHold t => exact execUcHold_stable hP.toStable t h
  | ucSig t => exact execUcSig_stable hP.toStable t h
  | ucEnd t => exact execUcEnd_stable hP.toStable t h
  | microcodeFault t parity => exact execMicrocodeFault_stable hP.toStable t parity h
  | coilShutoff ch amps deg => exact execCoilShutoff_stable hP.toStable ch amps deg h
  | bankShutoff b amps deg => exact execBankShutoff_stable hP.toStable b amps deg h
  | clampOvertemp ch deg => exact execClampOvertemp_stable hP.toStable ch deg h
  | loaderCopyComplete => exact execLoaderCopyComplete_stable hP.toStable h
  | pxShutoff x amps deg => exact execPxShutoff_stable hP.toStable x amps deg h
  | ledMeasurement n amps head => exact execLedMeasurement_stable hP.toStable n amps head h
  | ledOvertemp n deg => exact execLedOvertemp_stable hP.toStable n deg h
  | wettingPulseStart => exact execWettingPulseStart_stable hP.toStable h
  | watchTransition n closed => exact execWatchTransition_stable hP.toStable n closed h
  | watchFreezeEnd => exact execWatchFreezeEnd_stable hP.toStable h
  | wakeInputTransition n mv => exact execWakeInputTransition_stable hP.toStable n mv h
  | ainSample w => exact execAinSample_stable hP.toStable w h
  | biasCheckSample w => exact execBiasCheckSample_stable hP.toStable w h
  | vsensOvercurrent v => exact execVsensOvercurrent_stable hP.toStable v h
  | vsensExternalDrive v mv => exact execVsensExternalDrive_stable hP.toStable v mv h
  | warnPulseEnd => exact execWarnPulseEnd_stable hP.toStable h
  | stickyClear m w job => exact execStickyClear_stable hP.toStable m w job h
  | sourceForce m w job => exact execSourceForce_stable hP.toStable m w job h
  | swset w => exact execSwset_stable hP.toStable w h
  | classLock job => exact execClassLock_stable hP.toStable job h
  | classFEnd ms u => exact execClassFEnd_stable hP ms u h
  | nop c p => exact execNop_stable hP.toStable c p h
  | fence c p => exact execFence_stable hP.toStable c p h
  | sealIns c p => exact execSeal_stable hP.toStable c p h
  | waite c p => exact execWaite_stable hP.toStable c p h
  | rete c p => exact execRete_stable hP.toStable c p h
  | brk c p => exact execBrk_stable hP.toStable c p h
  | bcc c p => exact execBcc_stable hP.toStable c p h
  | inc c p => exact execInc_stable hP.toStable c p h
  | dec c p => exact execDec_stable hP.toStable c p h
  | neg c p => exact execNeg_stable hP.toStable c p h
  | abs c p => exact execAbs_stable hP.toStable c p h
  | not c p => exact execNot_stable hP.toStable c p h
  | clrn c p => exact execClrn_stable hP.toStable c p h
  | tst c p => exact execTst_stable hP.toStable c p h
  | swt c p => exact execSwt_stable hP.toStable c p h
  | ret c p => exact execRet_stable hP.toStable c p h
  | jmpr c p => exact execJmpr_stable hP.toStable c p h
  | tstamp c p => exact execTstamp_stable hP.toStable c p h
  | now c p => exact execNow_stable hP.toStable c p h
  | setcnt c p => exact execSetcnt_stable hP.toStable c p h
  | add c p => exact execAdd_stable hP.toStable c p h
  | sub c p => exact execSub_stable hP.toStable c p h
  | mul c p => exact execMul_stable hP.toStable c p h
  | div c p => exact execDiv_stable hP.toStable c p h
  | rem c p => exact execRem_stable hP.toStable c p h
  | and c p => exact execAnd_stable hP.toStable c p h
  | or c p => exact execOr_stable hP.toStable c p h
  | xor c p => exact execXor_stable hP.toStable c p h
  | shl c p => exact execShl_stable hP.toStable c p h
  | shr c p => exact execShr_stable hP.toStable c p h
  | sar c p => exact execSar_stable hP.toStable c p h
  | rol c p => exact execRol_stable hP.toStable c p h
  | ror c p => exact execRor_stable hP.toStable c p h
  | cmp c p => exact execCmp_stable hP.toStable c p h
  | min c p => exact execMin_stable hP.toStable c p h
  | max c p => exact execMax_stable hP.toStable c p h
  | mov c p => exact execMov_stable hP.toStable c p h
  | cvt c p => exact execCvt_stable hP.toStable c p h
  | ttest c p => exact execTtest_stable hP.toStable c p h
  | tagof c p => exact execTagof_stable hP.toStable c p h
  | ldx c p => exact execLdx_stable hP.toStable c p h
  | stx c p => exact execStx_stable hP.toStable c p h
  | xchg c p => exact execXchg_stable hP.toStable c p h
  | cas c p => exact execCas_stable hP.toStable c p h
  | xadd c p => exact execXadd_stable hP.toStable c p h
  | bmov c p => exact execBmov_stable hP.toStable c p h
  | bfill c p => exact execBfill_stable hP.toStable c p h
  | tsub c p => exact execTsub_stable hP.toStable c p h
  | tfrm c p => exact execTfrm_stable hP.toStable c p h
  | tslot c p => exact execTslot_stable hP.toStable c p h
  | mfs c p => exact execMfs_stable hP.toStable c p h
  | mts c p => exact execMts_stable hP.toStable c p h
  | cadd c p => exact execCadd_stable hP.toStable c p h
  | callr c p => exact execCallr_stable hP.toStable c p h
  | hchan c p => exact execHchan_stable hP.toStable c p h
  | hrec c p => exact execHrec_stable hP.toStable c p h
  | hcmd c p => exact execHcmd_stable hP.toStable c p h
  | hmsg c p => exact execHmsg_stable hP.toStable c p h
  | hobj c p => exact execHobj_stable hP.toStable c p h
  | hidx c p => exact execHidx_stable hP.toStable c p h
  | keyh c p => exact execKeyh_stable hP.toStable c p h
  | cjob c p => exact execCjob_stable hP.toStable c p h
  | movi c p => exact execMovi_stable hP.toStable c p h
  | aluiAdd c p => exact execAluiAdd_stable hP.toStable c p h
  | aluiSub c p => exact execAluiSub_stable hP.toStable c p h
  | aluiMul c p => exact execAluiMul_stable hP.toStable c p h
  | aluiDiv c p => exact execAluiDiv_stable hP.toStable c p h
  | aluiRem c p => exact execAluiRem_stable hP.toStable c p h
  | aluiAnd c p => exact execAluiAnd_stable hP.toStable c p h
  | aluiOr c p => exact execAluiOr_stable hP.toStable c p h
  | aluiXor c p => exact execAluiXor_stable hP.toStable c p h
  | aluiShl c p => exact execAluiShl_stable hP.toStable c p h
  | aluiShr c p => exact execAluiShr_stable hP.toStable c p h
  | aluiSar c p => exact execAluiSar_stable hP.toStable c p h
  | aluiRol c p => exact execAluiRol_stable hP.toStable c p h
  | aluiRor c p => exact execAluiRor_stable hP.toStable c p h
  | aluiCmp c p => exact execAluiCmp_stable hP.toStable c p h
  | aluiMin c p => exact execAluiMin_stable hP.toStable c p h
  | aluiMax c p => exact execAluiMax_stable hP.toStable c p h
  | ld c p => exact execLd_stable hP.toStable c p h
  | st c p => exact execSt_stable hP.toStable c p h
  | br c p => exact execBr_stable hP.toStable c p h
  | call c p => exact execCall_stable hP.toStable c p h
  | btag c p => exact execBtag_stable hP.toStable c p h
  | adr c p => exact execAdr_stable hP.toStable c p h
  | illegalInstruction c p => exact execIllegalInstruction_stable hP.toStable c p h
  | cust c p => exact execCust_stable hP.toStable c p h
  | customRegionClose m job => exact execCustomRegionClose_stable hP.toStable m job h
  | storeDrain c => exact execStoreDrain_stable hP.toStable c h
  | coreRestart m job w => exact execCoreRestart_stable hP.toStable m job w h
  | mrd a e par => exact execMrd_stable hP.toStable a e par h
  | mwr a v differs par dataPar => exact execMwr_stable hP.toStable a v differs par dataPar h
  | rrd c r par => exact execRrd_stable hP.toStable c r par h
  | rwr c r v par dataPar => exact execRwr_stable hP.toStable c r v par dataPar h
  | drd o par => exact execDrd_stable hP.toStable o par h
  | dwr o v par dataPar => exact execDwr_stable hP.toStable o v par dataPar h
  | linkReset => exact execLinkReset_stable hP.toStable h
  | debugHalt c => exact execDebugHalt_stable hP.toStable c h
  | debugResume c => exact execDebugResume_stable hP.toStable c h
  | step c => exact execStep_stable hP.toStable c h
  | restart c => exact execRestart_stable hP.toStable c h
  | laneGrant b l arrived e => exact execLaneGrant_stable hP.toStable b l arrived e h
  | correctedWriteback b w => exact execCorrectedWriteback_stable hP.toStable b w h
  | ownerWrite m b w => exact execOwnerWrite_stable hP.toStable m b w h
  | bankStateWrite b w => exact execBankStateWrite_stable hP.toStable b w h
  | bankPowerDown b => exact execBankPowerDown_stable hP.toStable b h
  | bankWakeComplete b => exact execBankWakeComplete_stable hP.toStable b h
  | bankWakeTimeout b => exact execBankWakeTimeout_stable hP.toStable b h
  | scrubRead b e => exact execScrubRead_stable hP.toStable b e h
  | laneCopyComplete b => exact execLaneCopyComplete_stable hP.toStable b h
  | groupOvervoltageOff g mv => exact execGroupOvervoltageOff_stable hP.toStable g mv h
  | dipOff g mv => exact execDipOff_stable hP.toStable g mv h
  | reverseLatch g us powered => exact execReverseLatch_stable hP.toStable g us powered h
  | logicDip mv => exact execLogicDip_stable hP.toStable mv h
  | logicDipEnd mv us lock => exact execLogicDipEnd_stable hP.toStable mv us lock h
  | powerUp u => exact execPowerUp_stable hP u h
  | lowSupply mv u => exact execLowSupply_stable hP mv u h
  | longDip u => exact execLongDip_stable hP u h
  | holdUpEmpty mv u => exact execHoldUpEmpty_stable hP mv u h
  | brownOut u => exact execBrownOut_stable hP u h
  | resetLand ns u => exact execResetLand_stable hP ns u h
  | coreDomainDown c => exact execCoreDomainDown_stable hP.toStable c h
  | domainWakeComplete d => exact execDomainWakeComplete_stable hP.toStable d h
  | resumeEdge w => exact execResumeEdge_stable hP w h
  | parkEntry us => exact execParkEntry_stable hP.toStable us h
  | wakeRequest wup fec hcs => exact execWakeRequest_stable hP.toStable wup fec hcs h
  | pllLock us lock => exact execPllLock_stable hP.toStable us lock h
  | aonTimerExpire => exact execAonTimerExpire_stable hP.toStable h
  | crystalStop => exact execCrystalStop_stable hP.toStable h
  | canRunStart n => exact execCanRunStart_stable hP.toStable n h
  | canRunStop n busy => exact execCanRunStop_stable hP.toStable n busy h
  | canIntegrated n => exact execCanIntegrated_stable hP.toStable n h
  | objcfgWrite n o w => exact execObjcfgWrite_stable hP.toStable n o w h
  | canFrameReceived n m res => exact execCanFrameReceived_stable hP.toStable n m res h
  | objectPortRead m n o => exact execObjectPortRead_stable hP.toStable m n o h
  | objectPortWrite m n o w => exact execObjectPortWrite_stable hP.toStable m n o w h
  | lckrel m n => exact execLckrel_stable hP.toStable m n h
  | qack n => exact execQack_stable hP.toStable n h
  | canTxStart n => exact execCanTxStart_stable hP.toStable n h
  | canTxSuccess n => exact execCanTxSuccess_stable hP.toStable n h
  | canTxError n e more => exact execCanTxError_stable hP.toStable n e more h
  | recover n => exact execRecover_stable hP.toStable n h
  | busOffRecovery n => exact execBusOffRecovery_stable hP.toStable n h
  | selectiveWake n m rate => exact execSelectiveWake_stable hP.toStable n m rate h
  | linHeaderSend m id => exact execLinHeaderSend_stable hP.toStable m id h
  | linHeaderReceived m id rate good => exact execLinHeaderReceived_stable hP.toStable m id rate good h
  | linResponseReceived m data cks framing => exact execLinResponseReceived_stable hP.toStable m data cks framing h
  | linResponseSent m bitError => exact execLinResponseSent_stable hP.toStable m bitError h
  | linNoResponse m => exact execLinNoResponse_stable hP.toStable m h
  | linBusDominant m => exact execLinBusDominant_stable hP.toStable m h
  | linBusRelease m => exact execLinBusRelease_stable hP.toStable m h
  | linWakeSend m => exact execLinWakeSend_stable hP.toStable m h
  | linWakeReceived m us => exact execLinWakeReceived_stable hP.toStable m us h
  | linIdle m => exact execLinIdle_stable hP.toStable m h
  | nmFrameSend => exact execNmFrameSend_stable hP.toStable h
  | nclr => exact execNclr_stable hP.toStable h
  | ethLinkUp p farMaster => exact execEthLinkUp_stable hP.toStable p farMaster h
  | ethLinkDown p => exact execEthLinkDown_stable hP.toStable p h
  | ethFrameReceived p bytes fcs => exact execEthFrameReceived_stable hP.toStable p bytes fcs h
  | ethFrameEgress p => exact execEthFrameEgress_stable hP.toStable p h
  | followUpTimeout => exact execFollowUpTimeout_stable hP.toStable h
  | delayReqSend => exact execDelayReqSend_stable hP.toStable h
  | ptpSourceLost => exact execPtpSourceLost_stable hP.toStable h
  | tloRead m => exact execTloRead_stable hP.toStable m h
  | cntloRead m => exact execCntloRead_stable hP.toStable m h
  | nrateloWrite w => exact execNrateloWrite_stable hP.toStable w h
  | noffloWrite w => exact execNoffloWrite_stable hP.toStable w h
  | ppsOutPulse => exact execPpsOutPulse_stable hP.toStable h
  | ppsInEdge rising => exact execPpsInEdge_stable hP.toStable rising h
  | almloWrite w => exact execAlmloWrite_stable hP.toStable w h
  | alarm => exact execAlarm_stable hP.toStable h
  | balerRecordBuild => exact execBalerRecordBuild_stable hP.toStable h
  | recordRequestServe => exact execRecordRequestServe_stable hP.toStable h
  | searchStart => exact execSearchStart_stable hP.toStable h
  | retrySearch => exact execRetrySearch_stable hP.toStable h
  | lfTelegramEnd w => exact execLfTelegramEnd_stable hP.toStable w h
  | aerialShort a amps => exact execAerialShort_stable hP.toStable a amps h
  | tokenReply after packet => exact execTokenReply_stable hP.toStable after packet h
  | replyWindowClose => exact execReplyWindowClose_stable hP.toStable h
  | memReceived packet => exact execMemReceived_stable hP.toStable packet h
  | memTimeout => exact execMemTimeout_stable hP.toStable h
  | releaseEnd => exact execReleaseEnd_stable hP.toStable h
  | permitFrame => exact execPermitFrame_stable hP.toStable h
  | permitEnd => exact execPermitEnd_stable hP.toStable h
  | buttonPacket packet => exact execButtonPacket_stable hP.toStable packet h
  | urawAccess w back => exact execUrawAccess_stable hP.toStable w back h
  | pepochWrite w job => exact execPepochWrite_stable hP.toStable w job h
  | read src b => exact execRead_stable hP.toStable src b h
  | write src b => exact execWrite_stable hP.toStable src b h
  | txn src b => exact execTxn_stable hP.toStable src b h
  | hreset src b => exact execHreset_stable hP.toStable src b h
  | hostNop src b => exact execHostNop_stable hP.toStable src b h
  | spiShortFrame b => exact execSpiShortFrame_stable hP.toStable b h
  | commit => exact execCommit_stable hP.toStable h
  | aesCtr j e => exact execAesCtr_stable hP.toStable j e h
  | gcmEnc j e => exact execGcmEnc_stable hP.toStable j e h
  | gcmDec j e => exact execGcmDec_stable hP.toStable j e h
  | cmac j e => exact execCmac_stable hP.toStable j e h
  | cmacVer j e => exact execCmacVer_stable hP.toStable j e h
  | sha256 j e => exact execSha256_stable hP.toStable j e h
  | slhVer j e => exact execSlhVer_stable hP.toStable j e h
  | attest j e => exact execAttest_stable hP.toStable j e h
  | idpk j => exact execIdpk_stable hP.toStable j h
  | random j => exact execRandom_stable hP.toStable j h
  | kload j e => exact execKload_stable hP.toStable j e h
  | kerase j => exact execKerase_stable hP.toStable j h
  | kwrap j => exact execKwrap_stable hP.toStable j h
  | kunwrap j e => exact execKunwrap_stable hP.toStable j e h
  | xread j => exact execXread_stable hP.toStable j h
  | xprog j e => exact execXprog_stable hP.toStable j e h
  | xerase j => exact execXerase_stable hP.toStable j h
  | iverify j => exact execIverify_stable hP.toStable j h
  | hload j => exact execHload_stable hP.toStable j h
  | confirm j => exact execConfirm_stable hP.toStable j h
  | cryptoJobComplete j => exact execCryptoJobComplete_stable hP.toStable j h
  | flashTimeout j => exact execFlashTimeout_stable hP.toStable j h
  | jdoneClear w job => exact execJdoneClear_stable hP.toStable w job h
  | trngHealthFail => exact execTrngHealthFail_stable hP.toStable h
  | boot lands => exact execBoot_stable hP.toStable lands h
  | hctlStart w job => exact execHctlStart_stable hP.toStable w job h
  | recoverEntry w job => exact execRecoverEntry_stable hP.toStable w job h
  | recoveryErase slot job => exact execRecoveryErase_stable hP.toStable slot job h
  | rdataWrite w pages job => exact execRdataWrite_stable hP.toStable w pages job h
  | recoveryVerify slot job => exact execRecoveryVerify_stable hP.toStable slot job h
  | recoveryBoot slot job => exact execRecoveryBoot_stable hP.toStable slot job h
  | drespCheck w job => exact execDrespCheck_stable hP.toStable w job h
  | prog mv job => exact execProg_stable hP.toStable mv job h
  | arbstep mv job => exact execArbstep_stable hP.toStable mv job h
  | wear mv job => exact execWear_stable hP.toStable mv job h
  | siloOpComplete fail1 fail2 => exact execSiloOpComplete_stable hP.toStable fail1 fail2 h
  | siloAbort mv vbat cells => exact execSiloAbort_stable hP.toStable mv vbat cells h
  | laneRetire b l => exact execLaneRetire_stable hP.toStable b l h
  | frc w job => exact execFrc_stable hP.toStable w job h
  | pllUnlock => exact execPllUnlock_stable hP.toStable h
  | allClocksLost => exact execAllClocksLost_stable hP.toStable h
  | aonClockStop => exact execAonClockStop_stable hP.toStable h
  | counterParityError => exact execCounterParityError_stable hP.toStable h
  | canBusError n heavy => exact execCanBusError_stable hP.toStable n heavy h
  | spiIdleFrame n => exact execSpiIdleFrame_stable hP.toStable n h
  | hostBadRequest src b => exact execHostBadRequest_stable hP.toStable src b h
  | trngHealthPass => exact execTrngHealthPass_stable hP.toStable h
  | ppsOutPulseEnd => exact execPpsOutPulseEnd_stable hP.toStable h

/-- Every command but edges and resets keeps a stable property. -/
theorem exec_stable (hP : Stable P) (i : Instr) (hi : movesFrame i = false) {s : State} (h : P s) : OfOut P (exec i s) := by
  cases i with
  | registerWrite m job a v => exact execRegisterWrite_stable hP m job a v h
  | frameEdge w => cases hi
  | slotBoundary w => exact execSlotBoundary_stable hP w h
  | sealDeadline => exact execSealDeadline_stable hP h
  | firmwareCutoff => exact execFirmwareCutoff_stable hP h
  | hostCutoff => exact execHostCutoff_stable hP h
  | jobRelease j => exact execJobRelease_stable hP j h
  | eventRaise n => exact execEventRaise_stable hP n h
  | eventDispatch c => exact execEventDispatch_stable hP c h
  | jobStart c => exact execJobStart_stable hP c h
  | sev w => exact execSev_stable hP w h
  | frameloRead m => exact execFrameloRead_stable hP m h
  | inrushWindowClose c => exact execInrushWindowClose_stable hP c h
  | overcurrentShutoff c amps land => exact execOvercurrentShutoff_stable hP c amps land h
  | junctionShutoff c deg => exact execJunctionShutoff_stable hP c deg h
  | tlatchClear o deg => exact execTlatchClear_stable hP o deg h
  | channelRestart o => exact execChannelRestart_stable hP o h
  | retriesHeal o => exact execRetriesHeal_stable hP o h
  | pairImbalance c => exact execPairImbalance_stable hP c h
  | slotSample w => rw [show exec (.slotSample w) s = execSlotSample w s from rfl]; exact execSlotSample_stable hP w h
  | streamSampleWrite => exact execStreamSampleWrite_stable hP h
  | dieShed d deg => exact execDieShed_stable hP d deg h
  | shedEscalate d deg => exact execShedEscalate_stable hP d deg h
  | hbShutoff n amps deg land => exact execHbShutoff_stable hP n amps deg land h
  | hbStall n => exact execHbStall_stable hP n h
  | offStatePhaseA o land odd => exact execOffStatePhaseA_stable hP o land odd h
  | offStateCheck o land odd => exact execOffStateCheck_stable hP o land odd h
  | reverseOn g mv => exact execReverseOn_stable hP g mv h
  | reverseEnd g mv => exact execReverseEnd_stable hP g mv h
  | engineStart e => exact execEngineStart_stable hP e h
  | engineStop e => exact execEngineStop_stable hP e h
  | holdEnded t => exact execHoldEnded_stable hP t h
  | grantedSlotStart t => exact execGrantedSlotStart_stable hP t h
  | regulatorSample w => exact execRegulatorSample_stable hP w h
  | detectorWindowClose t => exact execDetectorWindowClose_stable hP t h
  | ucNop t => exact execUcNop_stable hP t h
  | ucSet t => exact execUcSet_stable hP t h
  | ucRamp t => exact execUcRamp_stable hP t h
  | ucWaits t => exact execUcWaits_stable hP t h
  | ucWaitu t => exact execUcWaitu_stable hP t h
  | ucWaituExpire t => exact execUcWaituExpire_stable hP t h
  | ucWaitc t => exact execUcWaitc_stable hP t h
  | ucWaitcTimeout t => exact execUcWaitcTimeout_stable hP t h
  | ucDecay t => exact execUcDecay_stable hP t h
  | ucBr t => exact execUcBr_stable hP t h
  | ucLps t => exact execUcLps_stable hP t h
  | ucLpj t => exact execUcLpj_stable hP t h
  | ucArmd t => exact execUcArmd_stable hP t h
  | ucHold t => exact execUcHold_stable hP t h
  | ucSig t => exact execUcSig_stable hP t h
  | ucEnd t => exact execUcEnd_stable hP t h
  | microcodeFault t parity => exact execMicrocodeFault_stable hP t parity h
  | coilShutoff ch amps deg => exact execCoilShutoff_stable hP ch amps deg h
  | bankShutoff b amps deg => exact execBankShutoff_stable hP b amps deg h
  | clampOvertemp ch deg => exact execClampOvertemp_stable hP ch deg h
  | loaderCopyComplete => exact execLoaderCopyComplete_stable hP h
  | pxShutoff x amps deg => exact execPxShutoff_stable hP x amps deg h
  | ledMeasurement n amps head => exact execLedMeasurement_stable hP n amps head h
  | ledOvertemp n deg => exact execLedOvertemp_stable hP n deg h
  | wettingPulseStart => exact execWettingPulseStart_stable hP h
  | watchTransition n closed => exact execWatchTransition_stable hP n closed h
  | watchFreezeEnd => exact execWatchFreezeEnd_stable hP h
  | wakeInputTransition n mv => exact execWakeInputTransition_stable hP n mv h
  | ainSample w => exact execAinSample_stable hP w h
  | biasCheckSample w => exact execBiasCheckSample_stable hP w h
  | vsensOvercurrent v => exact execVsensOvercurrent_stable hP v h
  | vsensExternalDrive v mv => exact execVsensExternalDrive_stable hP v mv h
  | warnPulseEnd => exact execWarnPulseEnd_stable hP h
  | stickyClear m w job => exact execStickyClear_stable hP m w job h
  | sourceForce m w job => exact execSourceForce_stable hP m w job h
  | swset w => exact execSwset_stable hP w h
  | classLock job => exact execClassLock_stable hP job h
  | classFEnd ms u => cases hi
  | nop c p => exact execNop_stable hP c p h
  | fence c p => exact execFence_stable hP c p h
  | sealIns c p => exact execSeal_stable hP c p h
  | waite c p => exact execWaite_stable hP c p h
  | rete c p => exact execRete_stable hP c p h
  | brk c p => exact execBrk_stable hP c p h
  | bcc c p => exact execBcc_stable hP c p h
  | inc c p => exact execInc_stable hP c p h
  | dec c p => exact execDec_stable hP c p h
  | neg c p => exact execNeg_stable hP c p h
  | abs c p => exact execAbs_stable hP c p h
  | not c p => exact execNot_stable hP c p h
  | clrn c p => exact execClrn_stable hP c p h
  | tst c p => exact execTst_stable hP c p h
  | swt c p => exact execSwt_stable hP c p h
  | ret c p => exact execRet_stable hP c p h
  | jmpr c p => exact execJmpr_stable hP c p h
  | tstamp c p => exact execTstamp_stable hP c p h
  | now c p => exact execNow_stable hP c p h
  | setcnt c p => exact execSetcnt_stable hP c p h
  | add c p => exact execAdd_stable hP c p h
  | sub c p => exact execSub_stable hP c p h
  | mul c p => exact execMul_stable hP c p h
  | div c p => exact execDiv_stable hP c p h
  | rem c p => exact execRem_stable hP c p h
  | and c p => exact execAnd_stable hP c p h
  | or c p => exact execOr_stable hP c p h
  | xor c p => exact execXor_stable hP c p h
  | shl c p => exact execShl_stable hP c p h
  | shr c p => exact execShr_stable hP c p h
  | sar c p => exact execSar_stable hP c p h
  | rol c p => exact execRol_stable hP c p h
  | ror c p => exact execRor_stable hP c p h
  | cmp c p => exact execCmp_stable hP c p h
  | min c p => exact execMin_stable hP c p h
  | max c p => exact execMax_stable hP c p h
  | mov c p => exact execMov_stable hP c p h
  | cvt c p => exact execCvt_stable hP c p h
  | ttest c p => exact execTtest_stable hP c p h
  | tagof c p => exact execTagof_stable hP c p h
  | ldx c p => exact execLdx_stable hP c p h
  | stx c p => exact execStx_stable hP c p h
  | xchg c p => exact execXchg_stable hP c p h
  | cas c p => exact execCas_stable hP c p h
  | xadd c p => exact execXadd_stable hP c p h
  | bmov c p => exact execBmov_stable hP c p h
  | bfill c p => exact execBfill_stable hP c p h
  | tsub c p => exact execTsub_stable hP c p h
  | tfrm c p => exact execTfrm_stable hP c p h
  | tslot c p => exact execTslot_stable hP c p h
  | mfs c p => exact execMfs_stable hP c p h
  | mts c p => exact execMts_stable hP c p h
  | cadd c p => exact execCadd_stable hP c p h
  | callr c p => exact execCallr_stable hP c p h
  | hchan c p => exact execHchan_stable hP c p h
  | hrec c p => exact execHrec_stable hP c p h
  | hcmd c p => exact execHcmd_stable hP c p h
  | hmsg c p => exact execHmsg_stable hP c p h
  | hobj c p => exact execHobj_stable hP c p h
  | hidx c p => exact execHidx_stable hP c p h
  | keyh c p => exact execKeyh_stable hP c p h
  | cjob c p => exact execCjob_stable hP c p h
  | movi c p => exact execMovi_stable hP c p h
  | aluiAdd c p => exact execAluiAdd_stable hP c p h
  | aluiSub c p => exact execAluiSub_stable hP c p h
  | aluiMul c p => exact execAluiMul_stable hP c p h
  | aluiDiv c p => exact execAluiDiv_stable hP c p h
  | aluiRem c p => exact execAluiRem_stable hP c p h
  | aluiAnd c p => exact execAluiAnd_stable hP c p h
  | aluiOr c p => exact execAluiOr_stable hP c p h
  | aluiXor c p => exact execAluiXor_stable hP c p h
  | aluiShl c p => exact execAluiShl_stable hP c p h
  | aluiShr c p => exact execAluiShr_stable hP c p h
  | aluiSar c p => exact execAluiSar_stable hP c p h
  | aluiRol c p => exact execAluiRol_stable hP c p h
  | aluiRor c p => exact execAluiRor_stable hP c p h
  | aluiCmp c p => exact execAluiCmp_stable hP c p h
  | aluiMin c p => exact execAluiMin_stable hP c p h
  | aluiMax c p => exact execAluiMax_stable hP c p h
  | ld c p => exact execLd_stable hP c p h
  | st c p => exact execSt_stable hP c p h
  | br c p => exact execBr_stable hP c p h
  | call c p => exact execCall_stable hP c p h
  | btag c p => exact execBtag_stable hP c p h
  | adr c p => exact execAdr_stable hP c p h
  | illegalInstruction c p => exact execIllegalInstruction_stable hP c p h
  | cust c p => exact execCust_stable hP c p h
  | customRegionClose m job => exact execCustomRegionClose_stable hP m job h
  | storeDrain c => exact execStoreDrain_stable hP c h
  | coreRestart m job w => exact execCoreRestart_stable hP m job w h
  | mrd a e par => exact execMrd_stable hP a e par h
  | mwr a v differs par dataPar => exact execMwr_stable hP a v differs par dataPar h
  | rrd c r par => exact execRrd_stable hP c r par h
  | rwr c r v par dataPar => exact execRwr_stable hP c r v par dataPar h
  | drd o par => exact execDrd_stable hP o par h
  | dwr o v par dataPar => exact execDwr_stable hP o v par dataPar h
  | linkReset => exact execLinkReset_stable hP h
  | debugHalt c => exact execDebugHalt_stable hP c h
  | debugResume c => exact execDebugResume_stable hP c h
  | step c => exact execStep_stable hP c h
  | restart c => exact execRestart_stable hP c h
  | laneGrant b l arrived e => exact execLaneGrant_stable hP b l arrived e h
  | correctedWriteback b w => exact execCorrectedWriteback_stable hP b w h
  | ownerWrite m b w => exact execOwnerWrite_stable hP m b w h
  | bankStateWrite b w => exact execBankStateWrite_stable hP b w h
  | bankPowerDown b => exact execBankPowerDown_stable hP b h
  | bankWakeComplete b => exact execBankWakeComplete_stable hP b h
  | bankWakeTimeout b => exact execBankWakeTimeout_stable hP b h
  | scrubRead b e => exact execScrubRead_stable hP b e h
  | laneCopyComplete b => exact execLaneCopyComplete_stable hP b h
  | groupOvervoltageOff g mv => exact execGroupOvervoltageOff_stable hP g mv h
  | dipOff g mv => exact execDipOff_stable hP g mv h
  | reverseLatch g us powered => exact execReverseLatch_stable hP g us powered h
  | logicDip mv => exact execLogicDip_stable hP mv h
  | logicDipEnd mv us lock => exact execLogicDipEnd_stable hP mv us lock h
  | powerUp u => cases hi
  | lowSupply mv u => cases hi
  | longDip u => cases hi
  | holdUpEmpty mv u => cases hi
  | brownOut u => cases hi
  | resetLand ns u => cases hi
  | coreDomainDown c => exact execCoreDomainDown_stable hP c h
  | domainWakeComplete d => exact execDomainWakeComplete_stable hP d h
  | resumeEdge w => cases hi
  | parkEntry us => exact execParkEntry_stable hP us h
  | wakeRequest wup fec hcs => exact execWakeRequest_stable hP wup fec hcs h
  | pllLock us lock => exact execPllLock_stable hP us lock h
  | aonTimerExpire => exact execAonTimerExpire_stable hP h
  | crystalStop => exact execCrystalStop_stable hP h
  | canRunStart n => exact execCanRunStart_stable hP n h
  | canRunStop n busy => exact execCanRunStop_stable hP n busy h
  | canIntegrated n => exact execCanIntegrated_stable hP n h
  | objcfgWrite n o w => exact execObjcfgWrite_stable hP n o w h
  | canFrameReceived n m res => exact execCanFrameReceived_stable hP n m res h
  | objectPortRead m n o => exact execObjectPortRead_stable hP m n o h
  | objectPortWrite m n o w => exact execObjectPortWrite_stable hP m n o w h
  | lckrel m n => exact execLckrel_stable hP m n h
  | qack n => exact execQack_stable hP n h
  | canTxStart n => exact execCanTxStart_stable hP n h
  | canTxSuccess n => exact execCanTxSuccess_stable hP n h
  | canTxError n e more => exact execCanTxError_stable hP n e more h
  | recover n => exact execRecover_stable hP n h
  | busOffRecovery n => exact execBusOffRecovery_stable hP n h
  | selectiveWake n m rate => exact execSelectiveWake_stable hP n m rate h
  | linHeaderSend m id => exact execLinHeaderSend_stable hP m id h
  | linHeaderReceived m id rate good => exact execLinHeaderReceived_stable hP m id rate good h
  | linResponseReceived m data cks framing => exact execLinResponseReceived_stable hP m data cks framing h
  | linResponseSent m bitError => exact execLinResponseSent_stable hP m bitError h
  | linNoResponse m => exact execLinNoResponse_stable hP m h
  | linBusDominant m => exact execLinBusDominant_stable hP m h
  | linBusRelease m => exact execLinBusRelease_stable hP m h
  | linWakeSend m => exact execLinWakeSend_stable hP m h
  | linWakeReceived m us => exact execLinWakeReceived_stable hP m us h
  | linIdle m => exact execLinIdle_stable hP m h
  | nmFrameSend => exact execNmFrameSend_stable hP h
  | nclr => exact execNclr_stable hP h
  | ethLinkUp p farMaster => exact execEthLinkUp_stable hP p farMaster h
  | ethLinkDown p => exact execEthLinkDown_stable hP p h
  | ethFrameReceived p bytes fcs => exact execEthFrameReceived_stable hP p bytes fcs h
  | ethFrameEgress p => exact execEthFrameEgress_stable hP p h
  | followUpTimeout => exact execFollowUpTimeout_stable hP h
  | delayReqSend => exact execDelayReqSend_stable hP h
  | ptpSourceLost => exact execPtpSourceLost_stable hP h
  | tloRead m => exact execTloRead_stable hP m h
  | cntloRead m => exact execCntloRead_stable hP m h
  | nrateloWrite w => exact execNrateloWrite_stable hP w h
  | noffloWrite w => exact execNoffloWrite_stable hP w h
  | ppsOutPulse => exact execPpsOutPulse_stable hP h
  | ppsInEdge rising => exact execPpsInEdge_stable hP rising h
  | almloWrite w => exact execAlmloWrite_stable hP w h
  | alarm => exact execAlarm_stable hP h
  | balerRecordBuild => exact execBalerRecordBuild_stable hP h
  | recordRequestServe => exact execRecordRequestServe_stable hP h
  | searchStart => exact execSearchStart_stable hP h
  | retrySearch => exact execRetrySearch_stable hP h
  | lfTelegramEnd w => exact execLfTelegramEnd_stable hP w h
  | aerialShort a amps => exact execAerialShort_stable hP a amps h
  | tokenReply after packet => exact execTokenReply_stable hP after packet h
  | replyWindowClose => exact execReplyWindowClose_stable hP h
  | memReceived packet => exact execMemReceived_stable hP packet h
  | memTimeout => exact execMemTimeout_stable hP h
  | releaseEnd => exact execReleaseEnd_stable hP h
  | permitFrame => exact execPermitFrame_stable hP h
  | permitEnd => exact execPermitEnd_stable hP h
  | buttonPacket packet => exact execButtonPacket_stable hP packet h
  | urawAccess w back => exact execUrawAccess_stable hP w back h
  | pepochWrite w job => exact execPepochWrite_stable hP w job h
  | read src b => exact execRead_stable hP src b h
  | write src b => exact execWrite_stable hP src b h
  | txn src b => exact execTxn_stable hP src b h
  | hreset src b => exact execHreset_stable hP src b h
  | hostNop src b => exact execHostNop_stable hP src b h
  | spiShortFrame b => exact execSpiShortFrame_stable hP b h
  | commit => exact execCommit_stable hP h
  | aesCtr j e => exact execAesCtr_stable hP j e h
  | gcmEnc j e => exact execGcmEnc_stable hP j e h
  | gcmDec j e => exact execGcmDec_stable hP j e h
  | cmac j e => exact execCmac_stable hP j e h
  | cmacVer j e => exact execCmacVer_stable hP j e h
  | sha256 j e => exact execSha256_stable hP j e h
  | slhVer j e => exact execSlhVer_stable hP j e h
  | attest j e => exact execAttest_stable hP j e h
  | idpk j => exact execIdpk_stable hP j h
  | random j => exact execRandom_stable hP j h
  | kload j e => exact execKload_stable hP j e h
  | kerase j => exact execKerase_stable hP j h
  | kwrap j => exact execKwrap_stable hP j h
  | kunwrap j e => exact execKunwrap_stable hP j e h
  | xread j => exact execXread_stable hP j h
  | xprog j e => exact execXprog_stable hP j e h
  | xerase j => exact execXerase_stable hP j h
  | iverify j => exact execIverify_stable hP j h
  | hload j => exact execHload_stable hP j h
  | confirm j => exact execConfirm_stable hP j h
  | cryptoJobComplete j => exact execCryptoJobComplete_stable hP j h
  | flashTimeout j => exact execFlashTimeout_stable hP j h
  | jdoneClear w job => exact execJdoneClear_stable hP w job h
  | trngHealthFail => exact execTrngHealthFail_stable hP h
  | boot lands => exact execBoot_stable hP lands h
  | hctlStart w job => exact execHctlStart_stable hP w job h
  | recoverEntry w job => exact execRecoverEntry_stable hP w job h
  | recoveryErase slot job => exact execRecoveryErase_stable hP slot job h
  | rdataWrite w pages job => exact execRdataWrite_stable hP w pages job h
  | recoveryVerify slot job => exact execRecoveryVerify_stable hP slot job h
  | recoveryBoot slot job => exact execRecoveryBoot_stable hP slot job h
  | drespCheck w job => exact execDrespCheck_stable hP w job h
  | prog mv job => exact execProg_stable hP mv job h
  | arbstep mv job => exact execArbstep_stable hP mv job h
  | wear mv job => exact execWear_stable hP mv job h
  | siloOpComplete fail1 fail2 => exact execSiloOpComplete_stable hP fail1 fail2 h
  | siloAbort mv vbat cells => exact execSiloAbort_stable hP mv vbat cells h
  | laneRetire b l => exact execLaneRetire_stable hP b l h
  | frc w job => exact execFrc_stable hP w job h
  | pllUnlock => exact execPllUnlock_stable hP h
  | allClocksLost => exact execAllClocksLost_stable hP h
  | aonClockStop => exact execAonClockStop_stable hP h
  | counterParityError => exact execCounterParityError_stable hP h
  | canBusError n heavy => exact execCanBusError_stable hP n heavy h
  | spiIdleFrame n => exact execSpiIdleFrame_stable hP n h
  | hostBadRequest src b => exact execHostBadRequest_stable hP src b h
  | trngHealthPass => exact execTrngHealthPass_stable hP h
  | ppsOutPulseEnd => exact execPpsOutPulseEnd_stable hP h

end Sys2Proof.Machine
end

