-- ==== Sys2Proof/Laws/Canonical.lean ====
section
/-!
SUPPORT. The canonical form of sparse data: a write keeps it, a read after a write; and what follows for the registers, the memory and
whole steps.
-/

namespace Sys2Proof.Machine
variable {α : Type} [DecidableEq α] {d : Nat → α}

/-- A read after a write to the same key gives the value written. -/
theorem AMap.get_put_same (m : List (Nat × α)) (k : Nat) (v : α) (h : AMap.wf d m = true) : AMap.get d (AMap.put d m k v) k = v := by
  induction m with
  | nil => by_cases e : v = d k <;> simp [AMap.put, AMap.get, e]
  | cons p t ih =>
    obtain ⟨k', v'⟩ := p
    simp only [AMap.wf, Bool.and_eq_true, decide_eq_true_eq] at h
    have habove : ∀ (l : List (Nat × α)) (b : Nat), AMap.above b l = true → ∀ x, x ≤ b → AMap.get d l x = d x := by
      intro l
      induction l with
      | nil => intros; rfl
      | cons q r ih2 =>
        intro b hb x hx
        obtain ⟨k2, v2⟩ := q
        simp only [AMap.above, Bool.and_eq_true, decide_eq_true_eq] at hb
        simp only [AMap.get]
        rw [if_neg (by omega)]
        exact ih2 b hb.2 x hx
    simp only [AMap.put]
    split
    · split
      · rename_i e; simp only [AMap.get]; rw [if_neg (by omega), habove t k' h.1.2 k (by omega), e]
      · simp [AMap.get]
    · split
      · rename_i e; subst e
        split
        · rename_i e; rw [habove t k h.1.2 k (Nat.le_refl k), e]
        · simp [AMap.get]
      · rename_i hne; simp only [AMap.get]; rw [if_neg hne]; exact ih h.2

/-- A write leaves every other key as it was. -/
theorem AMap.get_put_other (m : List (Nat × α)) (k j : Nat) (v : α) (h : j ≠ k) : AMap.get d (AMap.put d m k v) j = AMap.get d m j := by
  induction m with
  | nil => by_cases e : v = d k <;> simp [AMap.put, AMap.get, e, h]
  | cons p t ih =>
    obtain ⟨k', v'⟩ := p
    simp only [AMap.put]
    split
    · split <;> simp [AMap.get, h]
    · split
      · rename_i e; subst e
        split <;> simp [AMap.get, h]
      · simp only [AMap.get, ih]

/-- A write above a bound keeps the keys above it. -/
theorem AMap.above_put (m : List (Nat × α)) (b k : Nat) (v : α) (h : AMap.above b m = true) (hk : b < k) : AMap.above b (AMap.put d m k v) = true := by
  induction m with
  | nil => by_cases e : v = d k <;> simp [AMap.put, AMap.above, e, hk]
  | cons p t ih =>
    obtain ⟨k', v'⟩ := p
    simp only [AMap.above, Bool.and_eq_true, decide_eq_true_eq] at h
    simp only [AMap.put]
    split
    · split <;> simp [AMap.above, h, hk]
    · split
      · split <;> simp [AMap.above, h, hk]
      · simp [AMap.above, h.1, ih h.2]

omit [DecidableEq α] in
theorem AMap.above_mono (m : List (Nat × α)) (b c : Nat) (h : AMap.above b m = true) (hc : c ≤ b) : AMap.above c m = true := by
  induction m with
  | nil => rfl
  | cons p t ih =>
    simp only [AMap.above, Bool.and_eq_true, decide_eq_true_eq] at h ⊢
    exact ⟨by omega, ih h.2⟩

/-- A write keeps the canonical form. -/
theorem AMap.put_wf (m : List (Nat × α)) (k : Nat) (v : α) (h : AMap.wf d m = true) : AMap.wf d (AMap.put d m k v) = true := by
  induction m with
  | nil => by_cases e : v = d k <;> simp [AMap.put, AMap.wf, AMap.above, e]
  | cons p t ih =>
    obtain ⟨k', v'⟩ := p
    have h0 := h
    simp only [AMap.wf, Bool.and_eq_true, decide_eq_true_eq] at h
    simp only [AMap.put]
    split
    · rename_i hk
      split
      · exact h0
      · rename_i e
        simp only [AMap.wf, AMap.above, Bool.and_eq_true, decide_eq_true_eq]
        exact ⟨⟨e, hk, AMap.above_mono t k' k h.1.2 (by omega)⟩, h⟩
    · split
      · rename_i hk; subst hk
        split
        · exact h.2
        · rename_i e; simp only [AMap.wf, Bool.and_eq_true, decide_eq_true_eq]; exact ⟨⟨e, h.1.2⟩, h.2⟩
      · simp only [AMap.wf, Bool.and_eq_true, decide_eq_true_eq]
        exact ⟨⟨h.1.1, AMap.above_put t k' k v h.1.2 (by omega)⟩, ih h.2⟩

omit [DecidableEq α] in
theorem AMap.above_filter (m : List (Nat × α)) (b : Nat) (f : Nat × α → Bool) (h : AMap.above b m = true) : AMap.above b (m.filter f) = true := by
  induction m with
  | nil => rfl
  | cons p t ih =>
    simp only [AMap.above, Bool.and_eq_true, decide_eq_true_eq] at h
    cases e : f p <;> simp [e, AMap.above, h.1, ih h.2]

/-- Dropping entries keeps the canonical form. -/
theorem AMap.filter_wf (m : List (Nat × α)) (f : Nat × α → Bool) (h : AMap.wf d m = true) : AMap.wf d (m.filter f) = true := by
  induction m with
  | nil => rfl
  | cons p t ih =>
    simp only [AMap.wf, Bool.and_eq_true, decide_eq_true_eq] at h
    cases e : f p
    · simp [e, ih h.2]
    · simp [e, AMap.wf, h.1.1, ih h.2, AMap.above_filter t p.1 f h.1.2]

omit [DecidableEq α] in
/-- Dropping entries leaves a key that is not dropped as it was. -/
theorem AMap.get_filter (m : List (Nat × α)) (f : Nat × α → Bool) (k : Nat) (h : ∀ v, f (k, v) = true) : AMap.get d (m.filter f) k = AMap.get d m k := by
  induction m with
  | nil => rfl
  | cons p t ih =>
    obtain ⟨k', v'⟩ := p
    cases e : f (k', v')
    · have hk : k ≠ k' := fun hk => by subst hk; simp [h v'] at e
      simp [e, AMap.get, hk, ih]
    · simp [e, AMap.get, ih]

/-- The memory a write leaves is in canonical form, and so are the registers. -/
theorem State.mwrite_wf (s : State) (a : Nat) (w : TWord) (h : Memory.wf s.mem = true) : Memory.wf (s.mwrite a w).mem = true :=
  AMap.put_wf _ _ _ h

theorem State.mclear_wf (s : State) (lo hi : Nat) (h : Memory.wf s.mem = true) : Memory.wf (s.mclear lo hi).mem = true :=
  AMap.filter_wf _ _ h

theorem State.setReg_wf (s : State) (a : Nat) (w : Word) (h : Registers.wf s.regs = true) : Registers.wf (s.setReg a w).regs = true :=
  AMap.put_wf _ _ _ h

/-- The state after reset has both stores in canonical form. -/
theorem State.reset_canonical : State.reset.canonical := ⟨by decide, by decide⟩

/-- The canonical form lasts: every operation and every command keeps it. -/
theorem canonical_lasting : Lasting State.canonical where
  reg := fun s a w h => ⟨h.1, s.setReg_wf a w h.2⟩
  mem := fun s a w h => ⟨s.mwrite_wf a w h.1, h.2⟩
  lose := fun s lo hi h => ⟨s.mclear_wf lo hi h.1, h.2⟩
  clear := fun s f h => ⟨h.1, AMap.filter_wf _ _ h.2⟩
  rest := fun s t hr hm _ _ _ _ _ h => by unfold State.canonical; rw [hr, hm]; exact h
  any := fun s t hr hm _ h => by unfold State.canonical; rw [hr, hm]; exact h
  reset := fun s t hr hm _ _ => by unfold State.canonical; rw [hr, hm]; exact ⟨rfl, State.reset_canonical.2⟩

/-- The queue lasts: no command changes the commands that wait behind it. -/
theorem pending_lasting (l : List Instr) : Lasting (fun s => s.pending = l) where
  reg := fun _ _ _ h => h
  mem := fun _ _ _ h => h
  lose := fun _ _ _ h => h
  clear := fun _ _ h => h
  rest := fun _ _ _ _ hp _ _ _ _ h => hp.trans h
  any := fun _ _ _ _ hp h => hp.trans h
  reset := fun _ _ _ _ hp h => hp.trans h

/-- FRAME stays where no edge and no reset moves it. -/
theorem frame_stable (n : BitVec 48) : Stable (fun s => s.frm.frame = n) where
  reg := fun _ _ _ h => h
  mem := fun _ _ _ h => h
  lose := fun _ _ _ h => h
  clear := fun _ _ h => h
  rest := fun _ _ _ _ _ hf _ _ _ h => hf.trans h

/-- A class F halt stays. -/
theorem fhalt_stable : Stable (fun s => s.win.fhalt = true) where
  reg := fun _ _ _ h => h
  mem := fun _ _ _ h => h
  lose := fun _ _ _ h => h
  clear := fun _ _ h => h
  rest := fun _ _ _ _ _ _ _ _ hw h => hw h

/-- The moment of the last edge stays where no edge and no reset moves it. -/
theorem edgeAt_stable (n : Nat) : Stable (fun s => s.frm.edgeAt = n) where
  reg := fun _ _ _ h => h
  mem := fun _ _ _ h => h
  lose := fun _ _ _ h => h
  clear := fun _ _ h => h
  rest := fun _ _ _ _ _ _ he _ _ h => he.trans h

/-- COUNT never falls where no reset comes between. -/
theorem count_stable (n : Nat) : Stable (fun s => n ≤ s.count) where
  reg := fun _ _ _ h => h
  mem := fun _ _ _ h => h
  lose := fun _ _ _ h => h
  clear := fun _ _ h => h
  rest := fun _ _ _ _ _ _ _ hc _ h => Nat.le_trans h hc

end Sys2Proof.Machine
end

