-- ==== Sys2Proof/Laws/Lookup.lean ====
section
/-!
SUPPORT. What a read gives after an update: tables by index, bit fields, registers, and the accessors of the state.
-/

namespace Sys2Proof.Machine

/-! ### Tables -/

@[simp] theorem nth_updN_same {α : Type} {n : Nat} (v : Vector α n) (i : Nat) (f : α → α) (d : α) (h : i < n) :
    nth (updN v i f) i d = f (nth v i d) := by simp [nth, updN, h]

theorem nth_updN_other {α : Type} {n : Nat} (v : Vector α n) (i j : Nat) (f : α → α) (d : α) (h : i ≠ j) :
    nth (updN v i f) j d = nth v j d := by
  unfold nth updN
  by_cases hj : j < n <;> by_cases hi : i < n <;> simp [hj, hi, h]

theorem nth_updN {α : Type} {n : Nat} (v : Vector α n) (i j : Nat) (f : α → α) (d : α) :
    nth (updN v i f) j d = if i = j ∧ j < n then f (nth v j d) else nth v j d := by
  by_cases e : i = j
  · subst e
    by_cases h : i < n
    · simp [h]
    · simp [nth, h]
  · rw [nth_updN_other v i j f d e, if_neg (by simp [e])]

theorem mem_upto (n i : Nat) : i ∈ upto n ↔ i < n := by
  induction n with
  | zero => simp [upto]
  | succ n ih => simp [upto, ih]; omega

theorem forEach_succ {σ : Type} (n : Nat) (f : σ → Nat → σ) (s : σ) : forEach (n + 1) f s = f (forEach n f s) n := by
  simp [forEach, upto, List.foldl_append]

theorem forEach_zero {σ : Type} (f : σ → Nat → σ) (s : σ) : forEach 0 f s = s := rfl

/-! ### Bits of words -/

theorem getBits_lt (w : Word) (lo k : Nat) : getBits w lo k < 2 ^ k := Nat.mod_lt _ (Nat.two_pow_pos k)

/-- Taking bits of a word with a field replaced. -/
theorem testBit_setBits (w : Word) (lo k v i : Nat) (h : lo + k ≤ 32) :
    (setBits w lo k v).toNat.testBit i = if lo ≤ i ∧ i < lo + k then v.testBit (i - lo) else w.toNat.testBit i := by
  have hw : w.toNat < 2 ^ 32 := w.isLt
  have e : w.toNat = w.toNat % 2 ^ lo + 2 ^ lo * (bitsN w.toNat lo k) + 2 ^ (lo + k) * (w.toNat / 2 ^ (lo + k)) := by
    unfold bitsN
    rw [Nat.shiftRight_eq_div_pow, pow_add, mul_assoc]
    have h1 := Nat.mod_add_div w.toNat (2 ^ lo)
    have h2 := Nat.mod_add_div (w.toNat / 2 ^ lo) (2 ^ k)
    rw [Nat.div_div_eq_div_mul] at h2
    have h3 : 2 ^ lo * (w.toNat / 2 ^ lo) = 2 ^ lo * (w.toNat / 2 ^ lo % 2 ^ k) + 2 ^ lo * (2 ^ k * (w.toNat / (2 ^ lo * 2 ^ k))) := by
      rw [← Nat.mul_add, h2]
    linarith
  have hb : bitsN w.toNat lo k * 2 ^ lo ≤ w.toNat := by nlinarith [e, Nat.zero_le (w.toNat % 2 ^ lo), Nat.zero_le (2 ^ (lo + k) * (w.toNat / 2 ^ (lo + k)))]
  have e2 : w.toNat - bitsN w.toNat lo k * 2 ^ lo + v % 2 ^ k * 2 ^ lo =
      2 ^ (lo + k) * (w.toNat / 2 ^ (lo + k)) + (2 ^ lo * (v % 2 ^ k) + w.toNat % 2 ^ lo) := by
    have : w.toNat - bitsN w.toNat lo k * 2 ^ lo = w.toNat % 2 ^ lo + 2 ^ (lo + k) * (w.toNat / 2 ^ (lo + k)) := by
      rw [Nat.sub_eq_iff_eq_add hb]; nlinarith [e]
    rw [this]; ring
  have hl : 2 ^ lo * (v % 2 ^ k) + w.toNat % 2 ^ lo < 2 ^ (lo + k) := by
    have h1 : v % 2 ^ k < 2 ^ k := Nat.mod_lt _ (Nat.two_pow_pos k)
    have h2 : w.toNat % 2 ^ lo < 2 ^ lo := Nat.mod_lt _ (Nat.two_pow_pos lo)
    have h3 : 2 ^ lo * (v % 2 ^ k + 1) ≤ 2 ^ lo * 2 ^ k := Nat.mul_le_mul_left _ h1
    rw [pow_add]; linarith
  unfold setBits
  rw [BitVec.toNat_ofNat, e2, Nat.testBit_mod_two_pow]
  rw [Nat.testBit_two_pow_mul_add _ hl, Nat.testBit_two_pow_mul_add _ (Nat.mod_lt _ (Nat.two_pow_pos lo))]
  simp only [Nat.testBit_mod_two_pow, Nat.testBit_div_two_pow]
  by_cases hi : i < 32
  · by_cases h1 : i < lo + k
    · by_cases h2 : i < lo
      · have : ¬ lo ≤ i := by omega
        simp [hi, h1, h2, this]
      · have : lo ≤ i := by omega
        have h3 : i - lo < k := by omega
        simp [hi, h1, h2, this, h3]
    · have : ¬ (lo ≤ i ∧ i < lo + k) := by omega
      simp [hi, h1]
      congr 1; omega
  · have : ¬ (lo ≤ i ∧ i < lo + k) := by omega
    have h0 : w.toNat.testBit i = false := Nat.testBit_lt_two_pow (lt_of_lt_of_le hw (Nat.pow_le_pow_right (by omega) (by omega)))
    simp [hi, this, h0]

theorem testBit_getBits (w : Word) (lo k i : Nat) : (getBits w lo k).testBit i = (decide (i < k) && w.toNat.testBit (lo + i)) := by
  unfold getBits bitsN
  rw [Nat.testBit_mod_two_pow, Nat.testBit_shiftRight]

@[simp] theorem getBits_setBits_same (w : Word) (lo k v : Nat) (h : lo + k ≤ 32) : getBits (setBits w lo k v) lo k = v % 2 ^ k := by
  apply Nat.eq_of_testBit_eq
  intro i
  rw [testBit_getBits, testBit_setBits _ _ _ _ _ h, Nat.testBit_mod_two_pow]
  by_cases hi : i < k
  · simp [hi]
  · simp [hi]

theorem getBits_setBits_other (w : Word) (lo k v lo' k' : Nat) (h : lo + k ≤ 32) (hd : lo + k ≤ lo' ∨ lo' + k' ≤ lo) :
    getBits (setBits w lo k v) lo' k' = getBits w lo' k' := by
  apply Nat.eq_of_testBit_eq
  intro i
  rw [testBit_getBits, testBit_getBits, testBit_setBits _ _ _ _ _ h]
  by_cases hi : i < k'
  · have : ¬ (lo ≤ lo' + i ∧ lo' + i < lo + k) := by omega
    simp [hi, this]
  · simp [hi]

end Sys2Proof.Machine
end

