-- ==== Sys2Proof/Laws/Keeps.lean ====
section
/-!
SUPPORT. What each update of the state leaves unchanged (`State.keeps`), and how that composes.
-/

set_option linter.all false

namespace Sys2Proof.Machine

theorem State.same_refl (s : State) (p : Part) : s.same s p := by cases p <;> simp [State.same]

theorem State.same_trans {s t u : State} {p : Part} (h : s.same t p) (k : t.same u p) : s.same u p := by
  cases p <;> simp only [State.same] at * <;> simp_all

/-- Nothing changes from a state to itself. -/
theorem State.keeps_refl (s : State) (l : List Part) : s.keeps s l := ⟨rfl, fun p _ => s.same_refl p⟩

/-- Two changes in a row change what either names. -/
theorem State.keeps_trans {s t u : State} {l m n : List Part} (h : s.keeps t l) (k : t.keeps u m) (hl : l ⊆ n := by simp) (hm : m ⊆ n := by simp) :
    s.keeps u n :=
  ⟨k.1.trans h.1, fun p hp => State.same_trans (h.2 p (fun x => hp (hl x))) (k.2 p (fun x => hp (hm x)))⟩

/-- A change of fewer parts is one of more. -/
theorem State.keeps_mono {s t : State} {l m : List Part} (h : s.keeps t l) (hl : l ⊆ m) : s.keeps t m :=
  ⟨h.1, fun p hp => h.2 p (fun x => hp (hl x))⟩

theorem State.reg_setReg_other (s : State) (a b : Nat) (w : Word) (h : b ≠ a) : (s.setReg a w).reg b = s.reg b :=
  AMap.get_put_other _ _ _ _ h

theorem State.reg_setReg_same (s : State) (a : Nat) (w : Word) (h : s.canonical) : (s.setReg a w).reg a = w :=
  AMap.get_put_same _ _ _ h.2

theorem State.mread_mwrite_other (s : State) (a b : Nat) (w : TWord) (h : b / 4 ≠ a / 4) : (s.mwrite a w).mread b = s.mread b :=
  AMap.get_put_other _ _ _ _ h

theorem State.mread_mwrite_same (s : State) (a b : Nat) (w : TWord) (h : s.canonical) (e : b / 4 = a / 4) : (s.mwrite a w).mread b = w := by
  unfold State.mread; rw [e]; exact AMap.get_put_same _ _ _ h.1

/-- `setReg` changes what it names alone. -/
theorem State.setReg_keeps (s : State) (a : Nat) (w : Word) : s.keeps (s.setReg a w) [.reg a] := by
  refine ⟨rfl, fun p hp => ?_⟩
  cases p <;> first | rfl | exact ⟨rfl, rfl⟩ | exact ⟨rfl, rfl, rfl⟩ | exact ⟨rfl, rfl, rfl, rfl, rfl⟩ | exact ⟨rfl, rfl, rfl, rfl, rfl, rfl⟩ | exact ⟨rfl, rfl, rfl, rfl⟩ | exact ⟨rfl, rfl, rfl, rfl, rfl, rfl, rfl⟩ | exact s.reg_setReg_other _ _ _ (fun e => hp (by simp [e])) | exact absurd (by simp) hp

/-- `advance` changes what it names alone. -/
theorem State.advance_keeps (s : State) (t : Nat) : s.keeps (s.advance t) [.count] := by
  refine ⟨rfl, fun p hp => ?_⟩
  cases p <;> first | rfl | exact ⟨rfl, rfl⟩ | exact ⟨rfl, rfl, rfl⟩ | exact ⟨rfl, rfl, rfl, rfl, rfl⟩ | exact ⟨rfl, rfl, rfl, rfl, rfl, rfl⟩ | exact ⟨rfl, rfl, rfl, rfl⟩ | exact ⟨rfl, rfl, rfl, rfl, rfl, rfl, rfl⟩ | exact absurd (by simp) hp

/-- `putIn` changes what it names alone. -/
theorem State.putIn_keeps (s : State) (o : Nat) (w : TWord) : s.keeps (s.putIn o w) [.images] := by
  refine ⟨rfl, fun p hp => ?_⟩
  cases p <;> first | rfl | exact ⟨rfl, rfl⟩ | exact ⟨rfl, rfl, rfl⟩ | exact ⟨rfl, rfl, rfl, rfl, rfl⟩ | exact ⟨rfl, rfl, rfl, rfl, rfl, rfl⟩ | exact ⟨rfl, rfl, rfl, rfl⟩ | exact ⟨rfl, rfl, rfl, rfl, rfl, rfl, rfl⟩ | exact absurd (by simp) hp

/-- `setDom` changes what it names alone. -/
theorem State.setDom_keeps (s : State) (d : Nat) (f : Dom → Dom) : s.keeps (s.setDom d f) [.dom d] := by
  refine ⟨rfl, fun p hp => ?_⟩
  cases p <;> first | rfl | exact ⟨rfl, rfl⟩ | exact ⟨rfl, rfl, rfl⟩ | exact ⟨rfl, rfl, rfl, rfl, rfl⟩ | exact ⟨rfl, rfl, rfl, rfl, rfl, rfl⟩ | exact ⟨rfl, rfl, rfl, rfl⟩ | exact ⟨rfl, rfl, rfl, rfl, rfl, rfl, rfl⟩ | exact nth_updN_other _ _ _ _ _ (fun e => hp (by simp [e])) | exact absurd (by simp) hp

/-- `setGrp` changes what it names alone. -/
theorem State.setGrp_keeps (s : State) (g : Nat) (f : Grp → Grp) : s.keeps (s.setGrp g f) [.grp g] := by
  refine ⟨rfl, fun p hp => ?_⟩
  cases p <;> first | rfl | exact ⟨rfl, rfl⟩ | exact ⟨rfl, rfl, rfl⟩ | exact ⟨rfl, rfl, rfl, rfl, rfl⟩ | exact ⟨rfl, rfl, rfl, rfl, rfl, rfl⟩ | exact ⟨rfl, rfl, rfl, rfl⟩ | exact ⟨rfl, rfl, rfl, rfl, rfl, rfl, rfl⟩ | exact nth_updN_other _ _ _ _ _ (fun e => hp (by simp [e])) | exact absurd (by simp) hp

/-- `setOut` changes what it names alone. -/
theorem State.setOut_keeps (s : State) (o : Nat) (f : Outp → Outp) : s.keeps (s.setOut o f) [.out o] := by
  refine ⟨rfl, fun p hp => ?_⟩
  cases p <;> first | rfl | exact ⟨rfl, rfl⟩ | exact ⟨rfl, rfl, rfl⟩ | exact ⟨rfl, rfl, rfl, rfl, rfl⟩ | exact ⟨rfl, rfl, rfl, rfl, rfl, rfl⟩ | exact ⟨rfl, rfl, rfl, rfl⟩ | exact ⟨rfl, rfl, rfl, rfl, rfl, rfl, rfl⟩ | exact nth_updN_other _ _ _ _ _ (fun e => hp (by simp [e])) | exact absurd (by simp) hp

/-- `setDie` changes what it names alone. -/
theorem State.setDie_keeps (s : State) (d : Nat) (f : Die → Die) : s.keeps (s.setDie d f) [.die d] := by
  refine ⟨rfl, fun p hp => ?_⟩
  cases p <;> first | rfl | exact ⟨rfl, rfl⟩ | exact ⟨rfl, rfl, rfl⟩ | exact ⟨rfl, rfl, rfl, rfl, rfl⟩ | exact ⟨rfl, rfl, rfl, rfl, rfl, rfl⟩ | exact ⟨rfl, rfl, rfl, rfl⟩ | exact ⟨rfl, rfl, rfl, rfl, rfl, rfl, rfl⟩ | exact nth_updN_other _ _ _ _ _ (fun e => hp (by simp [e])) | exact absurd (by simp) hp

/-- `setCoil` changes what it names alone. -/
theorem State.setCoil_keeps (s : State) (n : Nat) (f : Coil → Coil) : s.keeps (s.setCoil n f) [.coil n] := by
  refine ⟨rfl, fun p hp => ?_⟩
  cases p <;> first | rfl | exact ⟨rfl, rfl⟩ | exact ⟨rfl, rfl, rfl⟩ | exact ⟨rfl, rfl, rfl, rfl, rfl⟩ | exact ⟨rfl, rfl, rfl, rfl, rfl, rfl⟩ | exact ⟨rfl, rfl, rfl, rfl⟩ | exact ⟨rfl, rfl, rfl, rfl, rfl, rfl, rfl⟩ | exact nth_updN_other _ _ _ _ _ (fun e => hp (by simp [e])) | exact absurd (by simp) hp

/-- `setPbank` changes what it names alone. -/
theorem State.setPbank_keeps (s : State) (b : Nat) (f : Bank → Bank) : s.keeps (s.setPbank b f) [.bank b] := by
  refine ⟨rfl, fun p hp => ?_⟩
  cases p <;> first | rfl | exact ⟨rfl, rfl⟩ | exact ⟨rfl, rfl, rfl⟩ | exact ⟨rfl, rfl, rfl, rfl, rfl⟩ | exact ⟨rfl, rfl, rfl, rfl, rfl, rfl⟩ | exact ⟨rfl, rfl, rfl, rfl⟩ | exact ⟨rfl, rfl, rfl, rfl, rfl, rfl, rfl⟩ | exact nth_updN_other _ _ _ _ _ (fun e => hp (by simp [e])) | exact absurd (by simp) hp

/-- `setPx` changes what it names alone. -/
theorem State.setPx_keeps (s : State) (x : Nat) (f : Px → Px) : s.keeps (s.setPx x f) [.px x] := by
  refine ⟨rfl, fun p hp => ?_⟩
  cases p <;> first | rfl | exact ⟨rfl, rfl⟩ | exact ⟨rfl, rfl, rfl⟩ | exact ⟨rfl, rfl, rfl, rfl, rfl⟩ | exact ⟨rfl, rfl, rfl, rfl, rfl, rfl⟩ | exact ⟨rfl, rfl, rfl, rfl⟩ | exact ⟨rfl, rfl, rfl, rfl, rfl, rfl, rfl⟩ | exact nth_updN_other _ _ _ _ _ (fun e => hp (by simp [e])) | exact absurd (by simp) hp

/-- `setSink` changes what it names alone. -/
theorem State.setSink_keeps (s : State) (n : Nat) (f : Led → Led) : s.keeps (s.setSink n f) [.led n] := by
  refine ⟨rfl, fun p hp => ?_⟩
  cases p <;> first | rfl | exact ⟨rfl, rfl⟩ | exact ⟨rfl, rfl, rfl⟩ | exact ⟨rfl, rfl, rfl, rfl, rfl⟩ | exact ⟨rfl, rfl, rfl, rfl, rfl, rfl⟩ | exact ⟨rfl, rfl, rfl, rfl⟩ | exact ⟨rfl, rfl, rfl, rfl, rfl, rfl, rfl⟩ | exact nth_updN_other _ _ _ _ _ (fun e => hp (by simp [e])) | exact absurd (by simp) hp

/-- `setSwIn` changes what it names alone. -/
theorem State.setSwIn_keeps (s : State) (i : Nat) (f : SwIn → SwIn) : s.keeps (s.setSwIn i f) [.swIn i] := by
  refine ⟨rfl, fun p hp => ?_⟩
  cases p <;> first | rfl | exact ⟨rfl, rfl⟩ | exact ⟨rfl, rfl, rfl⟩ | exact ⟨rfl, rfl, rfl, rfl, rfl⟩ | exact ⟨rfl, rfl, rfl, rfl, rfl, rfl⟩ | exact ⟨rfl, rfl, rfl, rfl⟩ | exact ⟨rfl, rfl, rfl, rfl, rfl, rfl, rfl⟩ | exact nth_updN_other _ _ _ _ _ (fun e => hp (by simp [e])) | exact absurd (by simp) hp

/-- `setWakeIn` changes what it names alone. -/
theorem State.setWakeIn_keeps (s : State) (n : Nat) (f : WakeIn → WakeIn) : s.keeps (s.setWakeIn n f) [.wakeIn n] := by
  refine ⟨rfl, fun p hp => ?_⟩
  cases p <;> first | rfl | exact ⟨rfl, rfl⟩ | exact ⟨rfl, rfl, rfl⟩ | exact ⟨rfl, rfl, rfl, rfl, rfl⟩ | exact ⟨rfl, rfl, rfl, rfl, rfl, rfl⟩ | exact ⟨rfl, rfl, rfl, rfl⟩ | exact ⟨rfl, rfl, rfl, rfl, rfl, rfl, rfl⟩ | exact nth_updN_other _ _ _ _ _ (fun e => hp (by simp [e])) | exact absurd (by simp) hp

/-- `setAin` changes what it names alone. -/
theorem State.setAin_keeps (s : State) (a : Nat) (f : AinIn → AinIn) : s.keeps (s.setAin a f) [.ainIn a] := by
  refine ⟨rfl, fun p hp => ?_⟩
  cases p <;> first | rfl | exact ⟨rfl, rfl⟩ | exact ⟨rfl, rfl, rfl⟩ | exact ⟨rfl, rfl, rfl, rfl, rfl⟩ | exact ⟨rfl, rfl, rfl, rfl, rfl, rfl⟩ | exact ⟨rfl, rfl, rfl, rfl⟩ | exact ⟨rfl, rfl, rfl, rfl, rfl, rfl, rfl⟩ | exact nth_updN_other _ _ _ _ _ (fun e => hp (by simp [e])) | exact absurd (by simp) hp

/-- `setVs` changes what it names alone. -/
theorem State.setVs_keeps (s : State) (v : Nat) (f : VsIn → VsIn) : s.keeps (s.setVs v f) [.vsIn v] := by
  refine ⟨rfl, fun p hp => ?_⟩
  cases p <;> first | rfl | exact ⟨rfl, rfl⟩ | exact ⟨rfl, rfl, rfl⟩ | exact ⟨rfl, rfl, rfl, rfl, rfl⟩ | exact ⟨rfl, rfl, rfl, rfl, rfl, rfl⟩ | exact ⟨rfl, rfl, rfl, rfl⟩ | exact ⟨rfl, rfl, rfl, rfl, rfl, rfl, rfl⟩ | exact nth_updN_other _ _ _ _ _ (fun e => hp (by simp [e])) | exact absurd (by simp) hp

/-- `setGbank` changes what it names alone. -/
theorem State.setGbank_keeps (s : State) (b : Nat) (f : GBank → GBank) : s.keeps (s.setGbank b f) [.gbank b] := by
  refine ⟨rfl, fun p hp => ?_⟩
  cases p <;> first | rfl | exact ⟨rfl, rfl⟩ | exact ⟨rfl, rfl, rfl⟩ | exact ⟨rfl, rfl, rfl, rfl, rfl⟩ | exact ⟨rfl, rfl, rfl, rfl, rfl, rfl⟩ | exact ⟨rfl, rfl, rfl, rfl⟩ | exact ⟨rfl, rfl, rfl, rfl, rfl, rfl, rfl⟩ | exact nth_updN_other _ _ _ _ _ (fun e => hp (by simp [e])) | exact absurd (by simp) hp

/-- `setCan` changes what it names alone. -/
theorem State.setCan_keeps (s : State) (n : Nat) (f : Can → Can) : s.keeps (s.setCan n f) [.can n] := by
  refine ⟨rfl, fun p hp => ?_⟩
  cases p <;> first | rfl | exact ⟨rfl, rfl⟩ | exact ⟨rfl, rfl, rfl⟩ | exact ⟨rfl, rfl, rfl, rfl, rfl⟩ | exact ⟨rfl, rfl, rfl, rfl, rfl, rfl⟩ | exact ⟨rfl, rfl, rfl, rfl⟩ | exact ⟨rfl, rfl, rfl, rfl, rfl, rfl, rfl⟩ | exact nth_updN_other _ _ _ _ _ (fun e => hp (by simp [e])) | exact absurd (by simp) hp

/-- `setLin` changes what it names alone. -/
theorem State.setLin_keeps (s : State) (m : Nat) (f : Lin → Lin) : s.keeps (s.setLin m f) [.lin m] := by
  refine ⟨rfl, fun p hp => ?_⟩
  cases p <;> first | rfl | exact ⟨rfl, rfl⟩ | exact ⟨rfl, rfl, rfl⟩ | exact ⟨rfl, rfl, rfl, rfl, rfl⟩ | exact ⟨rfl, rfl, rfl, rfl, rfl, rfl⟩ | exact ⟨rfl, rfl, rfl, rfl⟩ | exact ⟨rfl, rfl, rfl, rfl, rfl, rfl, rfl⟩ | exact nth_updN_other _ _ _ _ _ (fun e => hp (by simp [e])) | exact absurd (by simp) hp

theorem State.cr_setCore_other (s : State) (c k : Fin 2) (f : Core → Core) (h : k ≠ c) : (s.setCore c f).cr k = s.cr k := by
  have : c.val ≠ k.val := fun e => h (Fin.ext e.symm)
  simp [State.setCore, State.cr, Machine.upd, this]

@[simp] theorem State.cr_setCore_same (s : State) (c : Fin 2) (f : Core → Core) : (s.setCore c f).cr c = f (s.cr c) := by
  simp [State.setCore, State.cr, Machine.upd]

/-- `setCore` changes what it names alone. -/
theorem State.setCore_keeps (s : State) (c : Fin 2) (f : Core → Core) : s.keeps (s.setCore c f) [.core c] := by
  refine ⟨rfl, fun p hp => ?_⟩
  cases p <;> first | rfl | exact ⟨rfl, rfl⟩ | exact ⟨rfl, rfl, rfl⟩ | exact ⟨rfl, rfl, rfl, rfl, rfl⟩ | exact ⟨rfl, rfl, rfl, rfl, rfl, rfl⟩ | exact ⟨rfl, rfl, rfl, rfl⟩ | exact ⟨rfl, rfl, rfl, rfl, rfl, rfl, rfl⟩ | (refine State.cr_setCore_other s _ _ _ (fun e => hp (by simp [e]))) | exact absurd (by simp) hp

/-- `setBal` changes what it names alone. -/
theorem State.setBal_keeps (s : State) (f : Bal → Bal) : s.keeps (s.setBal f) [.bal] := by
  refine ⟨rfl, fun p hp => ?_⟩
  cases p <;> first | rfl | exact ⟨rfl, rfl⟩ | exact ⟨rfl, rfl, rfl⟩ | exact ⟨rfl, rfl, rfl, rfl, rfl⟩ | exact ⟨rfl, rfl, rfl, rfl, rfl, rfl⟩ | exact ⟨rfl, rfl, rfl, rfl⟩ | exact ⟨rfl, rfl, rfl, rfl, rfl, rfl, rfl⟩ | exact absurd (by simp) hp

/-- `setGln` changes what it names alone. -/
theorem State.setGln_keeps (s : State) (f : Gln → Gln) : s.keeps (s.setGln f) [.gln] := by
  refine ⟨rfl, fun p hp => ?_⟩
  cases p <;> first | rfl | exact ⟨rfl, rfl⟩ | exact ⟨rfl, rfl, rfl⟩ | exact ⟨rfl, rfl, rfl, rfl, rfl⟩ | exact ⟨rfl, rfl, rfl, rfl, rfl, rfl⟩ | exact ⟨rfl, rfl, rfl, rfl⟩ | exact ⟨rfl, rfl, rfl, rfl, rfl, rfl, rfl⟩ | exact absurd (by simp) hp

/-- `setHst` changes what it names alone. -/
theorem State.setHst_keeps (s : State) (f : Hst → Hst) : s.keeps (s.setHst f) [.hst] := by
  refine ⟨rfl, fun p hp => ?_⟩
  cases p <;> first | rfl | exact ⟨rfl, rfl⟩ | exact ⟨rfl, rfl, rfl⟩ | exact ⟨rfl, rfl, rfl, rfl, rfl⟩ | exact ⟨rfl, rfl, rfl, rfl, rfl, rfl⟩ | exact ⟨rfl, rfl, rfl, rfl⟩ | exact ⟨rfl, rfl, rfl, rfl, rfl, rfl, rfl⟩ | exact absurd (by simp) hp

/-- `setEth` changes what it names alone. -/
theorem State.setEth_keeps (s : State) (f : Eth → Eth) : s.keeps (s.setEth f) [.eth] := by
  refine ⟨rfl, fun p hp => ?_⟩
  cases p <;> first | rfl | exact ⟨rfl, rfl⟩ | exact ⟨rfl, rfl, rfl⟩ | exact ⟨rfl, rfl, rfl, rfl, rfl⟩ | exact ⟨rfl, rfl, rfl, rfl, rfl, rfl⟩ | exact ⟨rfl, rfl, rfl, rfl⟩ | exact ⟨rfl, rfl, rfl, rfl, rfl, rfl, rfl⟩ | exact absurd (by simp) hp

/-- `setNm` changes what it names alone. -/
theorem State.setNm_keeps (s : State) (f : Nm → Nm) : s.keeps (s.setNm f) [.nm] := by
  refine ⟨rfl, fun p hp => ?_⟩
  cases p <;> first | rfl | exact ⟨rfl, rfl⟩ | exact ⟨rfl, rfl, rfl⟩ | exact ⟨rfl, rfl, rfl, rfl, rfl⟩ | exact ⟨rfl, rfl, rfl, rfl, rfl, rfl⟩ | exact ⟨rfl, rfl, rfl, rfl⟩ | exact ⟨rfl, rfl, rfl, rfl, rfl, rfl, rfl⟩ | exact absurd (by simp) hp

/-- `setAcc` changes what it names alone. -/
theorem State.setAcc_keeps (s : State) (f : AccBlk → AccBlk) : s.keeps (s.setAcc f) [.acc] := by
  refine ⟨rfl, fun p hp => ?_⟩
  cases p <;> first | rfl | exact ⟨rfl, rfl⟩ | exact ⟨rfl, rfl, rfl⟩ | exact ⟨rfl, rfl, rfl, rfl, rfl⟩ | exact ⟨rfl, rfl, rfl, rfl, rfl, rfl⟩ | exact ⟨rfl, rfl, rfl, rfl⟩ | exact ⟨rfl, rfl, rfl, rfl, rfl, rfl, rfl⟩ | exact absurd (by simp) hp

/-- `setSec` changes what it names alone. -/
theorem State.setSec_keeps (s : State) (f : Sec → Sec) : s.keeps (s.setSec f) [.sec] := by
  refine ⟨rfl, fun p hp => ?_⟩
  cases p <;> first | rfl | exact ⟨rfl, rfl⟩ | exact ⟨rfl, rfl, rfl⟩ | exact ⟨rfl, rfl, rfl, rfl, rfl⟩ | exact ⟨rfl, rfl, rfl, rfl, rfl, rfl⟩ | exact ⟨rfl, rfl, rfl, rfl⟩ | exact ⟨rfl, rfl, rfl, rfl, rfl, rfl, rfl⟩ | exact absurd (by simp) hp

/-- `setSil` changes what it names alone. -/
theorem State.setSil_keeps (s : State) (f : Sil → Sil) : s.keeps (s.setSil f) [.sil] := by
  refine ⟨rfl, fun p hp => ?_⟩
  cases p <;> first | rfl | exact ⟨rfl, rfl⟩ | exact ⟨rfl, rfl, rfl⟩ | exact ⟨rfl, rfl, rfl, rfl, rfl⟩ | exact ⟨rfl, rfl, rfl, rfl, rfl, rfl⟩ | exact ⟨rfl, rfl, rfl, rfl⟩ | exact ⟨rfl, rfl, rfl, rfl, rfl, rfl, rfl⟩ | exact absurd (by simp) hp

/-- `setTim` changes what it names alone. -/
theorem State.setTim_keeps (s : State) (f : Tim → Tim) : s.keeps (s.setTim f) [.tim] := by
  refine ⟨rfl, fun p hp => ?_⟩
  cases p <;> first | rfl | exact ⟨rfl, rfl⟩ | exact ⟨rfl, rfl, rfl⟩ | exact ⟨rfl, rfl, rfl, rfl, rfl⟩ | exact ⟨rfl, rfl, rfl, rfl, rfl, rfl⟩ | exact ⟨rfl, rfl, rfl, rfl⟩ | exact ⟨rfl, rfl, rfl, rfl, rfl, rfl, rfl⟩ | exact absurd (by simp) hp

/-- `setPtp` changes what it names alone. -/
theorem State.setPtp_keeps (s : State) (f : Ptp → Ptp) : s.keeps (s.setPtp f) [.ptp] := by
  refine ⟨rfl, fun p hp => ?_⟩
  cases p <;> first | rfl | exact ⟨rfl, rfl⟩ | exact ⟨rfl, rfl, rfl⟩ | exact ⟨rfl, rfl, rfl, rfl, rfl⟩ | exact ⟨rfl, rfl, rfl, rfl, rfl, rfl⟩ | exact ⟨rfl, rfl, rfl, rfl⟩ | exact ⟨rfl, rfl, rfl, rfl, rfl, rfl, rfl⟩ | exact absurd (by simp) hp

/-- `setJob` changes what it names alone. -/
theorem State.setJob_keeps (s : State) (j : Nat) (r : JobRun) : s.keeps (s.setJob j r) [.jobs] := by
  refine ⟨rfl, fun p hp => ?_⟩
  cases p <;> first | rfl | exact ⟨rfl, rfl⟩ | exact ⟨rfl, rfl, rfl⟩ | exact ⟨rfl, rfl, rfl, rfl, rfl⟩ | exact ⟨rfl, rfl, rfl, rfl, rfl, rfl⟩ | exact ⟨rfl, rfl, rfl, rfl⟩ | exact ⟨rfl, rfl, rfl, rfl, rfl, rfl, rfl⟩ | exact absurd (by simp) hp

/-- `setFld` changes its register alone. -/
theorem State.setFld_keeps (s : State) (f : Fld) (v : Nat) : s.keeps (s.setFld f v) [.reg f.addr] := s.setReg_keeps _ _

/-- A reading taken changes that reading alone. -/
theorem State.setPin_keeps (s : State) (x : Sensor) (v : Int) : s.keeps (s.setPin x v) [.pin x] := by
  refine ⟨rfl, fun p hp => ?_⟩
  cases p with
  | pin y =>
    have hy : y ≠ x := fun e => hp (by simp [e])
    unfold State.same State.pin State.setPin
    have h : ∀ l : List (Sensor × Int), (l.filter (fun p => p.1 ≠ x) ++ [(x, v)]).find? (fun p => decide (p.1 = y)) = l.find? (fun p => decide (p.1 = y)) := by
      intro l
      induction l with
      | nil => simp [Ne.symm hy]
      | cons q t ih =>
        by_cases e1 : q.1 = x
        · have e2 : ¬ q.1 = y := fun e => hy (e ▸ e1)
          simp only [ne_eq, decide_not, e1, decide_true, Bool.not_true, Bool.false_eq_true, not_false_eq_true, List.filter_cons_of_neg,
            List.find?_cons, Ne.symm hy, decide_false] at ih ⊢
          exact ih
        · simp only [ne_eq, decide_not, e1, decide_false, Bool.not_false, List.filter_cons_of_pos, List.cons_append, List.find?_cons] at ih ⊢
          rw [ih]
    simp only [h]
  | _ => first | rfl | exact ⟨rfl, rfl⟩ | exact ⟨rfl, rfl, rfl⟩ | exact ⟨rfl, rfl, rfl, rfl, rfl⟩ | exact ⟨rfl, rfl, rfl, rfl, rfl, rfl⟩ | exact ⟨rfl, rfl, rfl, rfl⟩ | exact ⟨rfl, rfl, rfl, rfl, rfl, rfl, rfl⟩

@[simp] theorem State.pin_setPin_same (s : State) (x : Sensor) (v : Int) : (s.setPin x v).pin x = v := by
  have h : ∀ l : List (Sensor × Int), (l.filter (fun p => p.1 ≠ x) ++ [(x, v)]).find? (fun p => decide (p.1 = x)) = some (x, v) := by
    intro l
    rw [List.find?_append]
    have : (l.filter (fun p => p.1 ≠ x)).find? (fun p => decide (p.1 = x)) = none := by
      rw [List.find?_eq_none]; intro a ha; simp at ha; simp [ha.2]
    rw [this]; simp
  unfold State.pin State.setPin
  simp only [h]

/-- A loop of changes that all name parts of one list changes those alone. -/
theorem State.forEach_keeps {l : List Part} (n : Nat) (f : State → Nat → State) (s : State) (h : ∀ (t : State) (i : Nat), i < n → t.keeps (f t i) l) :
    s.keeps (forEach n f s) l := by
  induction n with
  | zero => exact s.keeps_refl l
  | succ n ih =>
    rw [forEach_succ]
    exact State.keeps_trans (ih (fun t i hi => h t i (by omega))) (h _ _ (by omega)) (List.Subset.refl l) (List.Subset.refl l)

theorem State.foldl_keeps {α : Type} {l : List Part} (xs : List α) (f : State → α → State) (s : State) (h : ∀ (t : State) (x : α), x ∈ xs → t.keeps (f t x) l) :
    s.keeps (xs.foldl f s) l := by
  induction xs generalizing s with
  | nil => exact s.keeps_refl l
  | cons a t ih =>
    exact State.keeps_trans (h s a (by simp)) (ih _ (fun t x hx => h t x (by simp [hx]))) (List.Subset.refl l) (List.Subset.refl l)

end Sys2Proof.Machine
end

