-- ==== Sys2Proof/Laws/State.lean ====
section
/-!
SUPPORT. One lemma per field of the state and update of it, each true by definition: the update changes the field it is named after, and
the other fields stay. The fields of the blocks that hold many parts are given one by one.
-/

namespace Sys2Proof.Machine

@[simp] theorem State.setReg_mem (s : State) (a : Nat) (w : Word) : (s.setReg a w).mem = s.mem := rfl
@[simp] theorem State.setReg_count (s : State) (a : Nat) (w : Word) : (s.setReg a w).count = s.count := rfl
@[simp] theorem State.setReg_pins (s : State) (a : Nat) (w : Word) : (s.setReg a w).pins = s.pins := rfl
@[simp] theorem State.setReg_frm (s : State) (a : Nat) (w : Word) : (s.setReg a w).frm = s.frm := rfl
@[simp] theorem State.setReg_sw (s : State) (a : Nat) (w : Word) : (s.setReg a w).sw = s.sw := rfl
@[simp] theorem State.setReg_win (s : State) (a : Nat) (w : Word) : (s.setReg a w).win = s.win := rfl
@[simp] theorem State.setReg_inp (s : State) (a : Nat) (w : Word) : (s.setReg a w).inp = s.inp := rfl
@[simp] theorem State.setReg_prs (s : State) (a : Nat) (w : Word) : (s.setReg a w).prs = s.prs := rfl
@[simp] theorem State.setReg_led (s : State) (a : Nat) (w : Word) : (s.setReg a w).led = s.led := rfl
@[simp] theorem State.setReg_grn (s : State) (a : Nat) (w : Word) : (s.setReg a w).grn = s.grn := rfl
@[simp] theorem State.setReg_pwr (s : State) (a : Nat) (w : Word) : (s.setReg a w).pwr = s.pwr := rfl
@[simp] theorem State.setReg_can (s : State) (a : Nat) (w : Word) : (s.setReg a w).can = s.can := rfl
@[simp] theorem State.setReg_lin (s : State) (a : Nat) (w : Word) : (s.setReg a w).lin = s.lin := rfl
@[simp] theorem State.setReg_nm (s : State) (a : Nat) (w : Word) : (s.setReg a w).nm = s.nm := rfl
@[simp] theorem State.setReg_eth (s : State) (a : Nat) (w : Word) : (s.setReg a w).eth = s.eth := rfl
@[simp] theorem State.setReg_ptp (s : State) (a : Nat) (w : Word) : (s.setReg a w).ptp = s.ptp := rfl
@[simp] theorem State.setReg_tim (s : State) (a : Nat) (w : Word) : (s.setReg a w).tim = s.tim := rfl
@[simp] theorem State.setReg_bal (s : State) (a : Nat) (w : Word) : (s.setReg a w).bal = s.bal := rfl
@[simp] theorem State.setReg_acc (s : State) (a : Nat) (w : Word) : (s.setReg a w).acc = s.acc := rfl
@[simp] theorem State.setReg_hst (s : State) (a : Nat) (w : Word) : (s.setReg a w).hst = s.hst := rfl
@[simp] theorem State.setReg_sec (s : State) (a : Nat) (w : Word) : (s.setReg a w).sec = s.sec := rfl
@[simp] theorem State.setReg_sil (s : State) (a : Nat) (w : Word) : (s.setReg a w).sil = s.sil := rfl
@[simp] theorem State.setReg_gln (s : State) (a : Nat) (w : Word) : (s.setReg a w).gln = s.gln := rfl
@[simp] theorem State.setReg_got (s : State) (a : Nat) (w : Word) : (s.setReg a w).got = s.got := rfl
@[simp] theorem State.setReg_ack (s : State) (a : Nat) (w : Word) : (s.setReg a w).ack = s.ack := rfl
@[simp] theorem State.setReg_core (s : State) (a : Nat) (w : Word) : (s.setReg a w).core = s.core := rfl
@[simp] theorem State.setReg_free (s : State) (a : Nat) (w : Word) : (s.setReg a w).free = s.free := rfl
@[simp] theorem State.setReg_pending (s : State) (a : Nat) (w : Word) : (s.setReg a w).pending = s.pending := rfl

@[simp] theorem State.setFld_mem (s : State) (f : Fld) (v : Nat) : (s.setFld f v).mem = s.mem := rfl
@[simp] theorem State.setFld_count (s : State) (f : Fld) (v : Nat) : (s.setFld f v).count = s.count := rfl
@[simp] theorem State.setFld_pins (s : State) (f : Fld) (v : Nat) : (s.setFld f v).pins = s.pins := rfl
@[simp] theorem State.setFld_frm (s : State) (f : Fld) (v : Nat) : (s.setFld f v).frm = s.frm := rfl
@[simp] theorem State.setFld_sw (s : State) (f : Fld) (v : Nat) : (s.setFld f v).sw = s.sw := rfl
@[simp] theorem State.setFld_win (s : State) (f : Fld) (v : Nat) : (s.setFld f v).win = s.win := rfl
@[simp] theorem State.setFld_inp (s : State) (f : Fld) (v : Nat) : (s.setFld f v).inp = s.inp := rfl
@[simp] theorem State.setFld_prs (s : State) (f : Fld) (v : Nat) : (s.setFld f v).prs = s.prs := rfl
@[simp] theorem State.setFld_led (s : State) (f : Fld) (v : Nat) : (s.setFld f v).led = s.led := rfl
@[simp] theorem State.setFld_grn (s : State) (f : Fld) (v : Nat) : (s.setFld f v).grn = s.grn := rfl
@[simp] theorem State.setFld_pwr (s : State) (f : Fld) (v : Nat) : (s.setFld f v).pwr = s.pwr := rfl
@[simp] theorem State.setFld_can (s : State) (f : Fld) (v : Nat) : (s.setFld f v).can = s.can := rfl
@[simp] theorem State.setFld_lin (s : State) (f : Fld) (v : Nat) : (s.setFld f v).lin = s.lin := rfl
@[simp] theorem State.setFld_nm (s : State) (f : Fld) (v : Nat) : (s.setFld f v).nm = s.nm := rfl
@[simp] theorem State.setFld_eth (s : State) (f : Fld) (v : Nat) : (s.setFld f v).eth = s.eth := rfl
@[simp] theorem State.setFld_ptp (s : State) (f : Fld) (v : Nat) : (s.setFld f v).ptp = s.ptp := rfl
@[simp] theorem State.setFld_tim (s : State) (f : Fld) (v : Nat) : (s.setFld f v).tim = s.tim := rfl
@[simp] theorem State.setFld_bal (s : State) (f : Fld) (v : Nat) : (s.setFld f v).bal = s.bal := rfl
@[simp] theorem State.setFld_acc (s : State) (f : Fld) (v : Nat) : (s.setFld f v).acc = s.acc := rfl
@[simp] theorem State.setFld_hst (s : State) (f : Fld) (v : Nat) : (s.setFld f v).hst = s.hst := rfl
@[simp] theorem State.setFld_sec (s : State) (f : Fld) (v : Nat) : (s.setFld f v).sec = s.sec := rfl
@[simp] theorem State.setFld_sil (s : State) (f : Fld) (v : Nat) : (s.setFld f v).sil = s.sil := rfl
@[simp] theorem State.setFld_gln (s : State) (f : Fld) (v : Nat) : (s.setFld f v).gln = s.gln := rfl
@[simp] theorem State.setFld_got (s : State) (f : Fld) (v : Nat) : (s.setFld f v).got = s.got := rfl
@[simp] theorem State.setFld_ack (s : State) (f : Fld) (v : Nat) : (s.setFld f v).ack = s.ack := rfl
@[simp] theorem State.setFld_core (s : State) (f : Fld) (v : Nat) : (s.setFld f v).core = s.core := rfl
@[simp] theorem State.setFld_free (s : State) (f : Fld) (v : Nat) : (s.setFld f v).free = s.free := rfl
@[simp] theorem State.setFld_pending (s : State) (f : Fld) (v : Nat) : (s.setFld f v).pending = s.pending := rfl

@[simp] theorem State.mwrite_regs (s : State) (a : Nat) (w : TWord) : (s.mwrite a w).regs = s.regs := rfl
@[simp] theorem State.mwrite_count (s : State) (a : Nat) (w : TWord) : (s.mwrite a w).count = s.count := rfl
@[simp] theorem State.mwrite_pins (s : State) (a : Nat) (w : TWord) : (s.mwrite a w).pins = s.pins := rfl
@[simp] theorem State.mwrite_frm (s : State) (a : Nat) (w : TWord) : (s.mwrite a w).frm = s.frm := rfl
@[simp] theorem State.mwrite_sw (s : State) (a : Nat) (w : TWord) : (s.mwrite a w).sw = s.sw := rfl
@[simp] theorem State.mwrite_win (s : State) (a : Nat) (w : TWord) : (s.mwrite a w).win = s.win := rfl
@[simp] theorem State.mwrite_inp (s : State) (a : Nat) (w : TWord) : (s.mwrite a w).inp = s.inp := rfl
@[simp] theorem State.mwrite_prs (s : State) (a : Nat) (w : TWord) : (s.mwrite a w).prs = s.prs := rfl
@[simp] theorem State.mwrite_led (s : State) (a : Nat) (w : TWord) : (s.mwrite a w).led = s.led := rfl
@[simp] theorem State.mwrite_grn (s : State) (a : Nat) (w : TWord) : (s.mwrite a w).grn = s.grn := rfl
@[simp] theorem State.mwrite_pwr (s : State) (a : Nat) (w : TWord) : (s.mwrite a w).pwr = s.pwr := rfl
@[simp] theorem State.mwrite_can (s : State) (a : Nat) (w : TWord) : (s.mwrite a w).can = s.can := rfl
@[simp] theorem State.mwrite_lin (s : State) (a : Nat) (w : TWord) : (s.mwrite a w).lin = s.lin := rfl
@[simp] theorem State.mwrite_nm (s : State) (a : Nat) (w : TWord) : (s.mwrite a w).nm = s.nm := rfl
@[simp] theorem State.mwrite_eth (s : State) (a : Nat) (w : TWord) : (s.mwrite a w).eth = s.eth := rfl
@[simp] theorem State.mwrite_ptp (s : State) (a : Nat) (w : TWord) : (s.mwrite a w).ptp = s.ptp := rfl
@[simp] theorem State.mwrite_tim (s : State) (a : Nat) (w : TWord) : (s.mwrite a w).tim = s.tim := rfl
@[simp] theorem State.mwrite_bal (s : State) (a : Nat) (w : TWord) : (s.mwrite a w).bal = s.bal := rfl
@[simp] theorem State.mwrite_acc (s : State) (a : Nat) (w : TWord) : (s.mwrite a w).acc = s.acc := rfl
@[simp] theorem State.mwrite_hst (s : State) (a : Nat) (w : TWord) : (s.mwrite a w).hst = s.hst := rfl
@[simp] theorem State.mwrite_sec (s : State) (a : Nat) (w : TWord) : (s.mwrite a w).sec = s.sec := rfl
@[simp] theorem State.mwrite_sil (s : State) (a : Nat) (w : TWord) : (s.mwrite a w).sil = s.sil := rfl
@[simp] theorem State.mwrite_gln (s : State) (a : Nat) (w : TWord) : (s.mwrite a w).gln = s.gln := rfl
@[simp] theorem State.mwrite_got (s : State) (a : Nat) (w : TWord) : (s.mwrite a w).got = s.got := rfl
@[simp] theorem State.mwrite_ack (s : State) (a : Nat) (w : TWord) : (s.mwrite a w).ack = s.ack := rfl
@[simp] theorem State.mwrite_core (s : State) (a : Nat) (w : TWord) : (s.mwrite a w).core = s.core := rfl
@[simp] theorem State.mwrite_free (s : State) (a : Nat) (w : TWord) : (s.mwrite a w).free = s.free := rfl
@[simp] theorem State.mwrite_pending (s : State) (a : Nat) (w : TWord) : (s.mwrite a w).pending = s.pending := rfl

@[simp] theorem State.advance_regs (s : State) (n : Nat) : (s.advance n).regs = s.regs := rfl
@[simp] theorem State.advance_mem (s : State) (n : Nat) : (s.advance n).mem = s.mem := rfl
@[simp] theorem State.advance_pins (s : State) (n : Nat) : (s.advance n).pins = s.pins := rfl
@[simp] theorem State.advance_frm (s : State) (n : Nat) : (s.advance n).frm = s.frm := rfl
@[simp] theorem State.advance_sw (s : State) (n : Nat) : (s.advance n).sw = s.sw := rfl
@[simp] theorem State.advance_win (s : State) (n : Nat) : (s.advance n).win = s.win := rfl
@[simp] theorem State.advance_inp (s : State) (n : Nat) : (s.advance n).inp = s.inp := rfl
@[simp] theorem State.advance_prs (s : State) (n : Nat) : (s.advance n).prs = s.prs := rfl
@[simp] theorem State.advance_led (s : State) (n : Nat) : (s.advance n).led = s.led := rfl
@[simp] theorem State.advance_grn (s : State) (n : Nat) : (s.advance n).grn = s.grn := rfl
@[simp] theorem State.advance_pwr (s : State) (n : Nat) : (s.advance n).pwr = s.pwr := rfl
@[simp] theorem State.advance_can (s : State) (n : Nat) : (s.advance n).can = s.can := rfl
@[simp] theorem State.advance_lin (s : State) (n : Nat) : (s.advance n).lin = s.lin := rfl
@[simp] theorem State.advance_nm (s : State) (n : Nat) : (s.advance n).nm = s.nm := rfl
@[simp] theorem State.advance_eth (s : State) (n : Nat) : (s.advance n).eth = s.eth := rfl
@[simp] theorem State.advance_ptp (s : State) (n : Nat) : (s.advance n).ptp = s.ptp := rfl
@[simp] theorem State.advance_tim (s : State) (n : Nat) : (s.advance n).tim = s.tim := rfl
@[simp] theorem State.advance_bal (s : State) (n : Nat) : (s.advance n).bal = s.bal := rfl
@[simp] theorem State.advance_acc (s : State) (n : Nat) : (s.advance n).acc = s.acc := rfl
@[simp] theorem State.advance_hst (s : State) (n : Nat) : (s.advance n).hst = s.hst := rfl
@[simp] theorem State.advance_sec (s : State) (n : Nat) : (s.advance n).sec = s.sec := rfl
@[simp] theorem State.advance_sil (s : State) (n : Nat) : (s.advance n).sil = s.sil := rfl
@[simp] theorem State.advance_gln (s : State) (n : Nat) : (s.advance n).gln = s.gln := rfl
@[simp] theorem State.advance_got (s : State) (n : Nat) : (s.advance n).got = s.got := rfl
@[simp] theorem State.advance_ack (s : State) (n : Nat) : (s.advance n).ack = s.ack := rfl
@[simp] theorem State.advance_core (s : State) (n : Nat) : (s.advance n).core = s.core := rfl
@[simp] theorem State.advance_free (s : State) (n : Nat) : (s.advance n).free = s.free := rfl
@[simp] theorem State.advance_pending (s : State) (n : Nat) : (s.advance n).pending = s.pending := rfl

@[simp] theorem State.setPin_regs (s : State) (x : Sensor) (v : Int) : (s.setPin x v).regs = s.regs := rfl
@[simp] theorem State.setPin_mem (s : State) (x : Sensor) (v : Int) : (s.setPin x v).mem = s.mem := rfl
@[simp] theorem State.setPin_count (s : State) (x : Sensor) (v : Int) : (s.setPin x v).count = s.count := rfl
@[simp] theorem State.setPin_frm (s : State) (x : Sensor) (v : Int) : (s.setPin x v).frm = s.frm := rfl
@[simp] theorem State.setPin_sw (s : State) (x : Sensor) (v : Int) : (s.setPin x v).sw = s.sw := rfl
@[simp] theorem State.setPin_win (s : State) (x : Sensor) (v : Int) : (s.setPin x v).win = s.win := rfl
@[simp] theorem State.setPin_inp (s : State) (x : Sensor) (v : Int) : (s.setPin x v).inp = s.inp := rfl
@[simp] theorem State.setPin_prs (s : State) (x : Sensor) (v : Int) : (s.setPin x v).prs = s.prs := rfl
@[simp] theorem State.setPin_led (s : State) (x : Sensor) (v : Int) : (s.setPin x v).led = s.led := rfl
@[simp] theorem State.setPin_grn (s : State) (x : Sensor) (v : Int) : (s.setPin x v).grn = s.grn := rfl
@[simp] theorem State.setPin_pwr (s : State) (x : Sensor) (v : Int) : (s.setPin x v).pwr = s.pwr := rfl
@[simp] theorem State.setPin_can (s : State) (x : Sensor) (v : Int) : (s.setPin x v).can = s.can := rfl
@[simp] theorem State.setPin_lin (s : State) (x : Sensor) (v : Int) : (s.setPin x v).lin = s.lin := rfl
@[simp] theorem State.setPin_nm (s : State) (x : Sensor) (v : Int) : (s.setPin x v).nm = s.nm := rfl
@[simp] theorem State.setPin_eth (s : State) (x : Sensor) (v : Int) : (s.setPin x v).eth = s.eth := rfl
@[simp] theorem State.setPin_ptp (s : State) (x : Sensor) (v : Int) : (s.setPin x v).ptp = s.ptp := rfl
@[simp] theorem State.setPin_tim (s : State) (x : Sensor) (v : Int) : (s.setPin x v).tim = s.tim := rfl
@[simp] theorem State.setPin_bal (s : State) (x : Sensor) (v : Int) : (s.setPin x v).bal = s.bal := rfl
@[simp] theorem State.setPin_acc (s : State) (x : Sensor) (v : Int) : (s.setPin x v).acc = s.acc := rfl
@[simp] theorem State.setPin_hst (s : State) (x : Sensor) (v : Int) : (s.setPin x v).hst = s.hst := rfl
@[simp] theorem State.setPin_sec (s : State) (x : Sensor) (v : Int) : (s.setPin x v).sec = s.sec := rfl
@[simp] theorem State.setPin_sil (s : State) (x : Sensor) (v : Int) : (s.setPin x v).sil = s.sil := rfl
@[simp] theorem State.setPin_gln (s : State) (x : Sensor) (v : Int) : (s.setPin x v).gln = s.gln := rfl
@[simp] theorem State.setPin_got (s : State) (x : Sensor) (v : Int) : (s.setPin x v).got = s.got := rfl
@[simp] theorem State.setPin_ack (s : State) (x : Sensor) (v : Int) : (s.setPin x v).ack = s.ack := rfl
@[simp] theorem State.setPin_core (s : State) (x : Sensor) (v : Int) : (s.setPin x v).core = s.core := rfl
@[simp] theorem State.setPin_free (s : State) (x : Sensor) (v : Int) : (s.setPin x v).free = s.free := rfl
@[simp] theorem State.setPin_pending (s : State) (x : Sensor) (v : Int) : (s.setPin x v).pending = s.pending := rfl

@[simp] theorem State.putIn_regs (s : State) (o : Nat) (w : TWord) : (s.putIn o w).regs = s.regs := rfl
@[simp] theorem State.putIn_mem (s : State) (o : Nat) (w : TWord) : (s.putIn o w).mem = s.mem := rfl
@[simp] theorem State.putIn_count (s : State) (o : Nat) (w : TWord) : (s.putIn o w).count = s.count := rfl
@[simp] theorem State.putIn_pins (s : State) (o : Nat) (w : TWord) : (s.putIn o w).pins = s.pins := rfl
@[simp] theorem State.putIn_frm_frame (s : State) (o : Nat) (w : TWord) : (s.putIn o w).frm.frame = s.frm.frame := rfl
@[simp] theorem State.putIn_frm_edgeAt (s : State) (o : Nat) (w : TWord) : (s.putIn o w).frm.edgeAt = s.frm.edgeAt := rfl
@[simp] theorem State.putIn_frm_slot (s : State) (o : Nat) (w : TWord) : (s.putIn o w).frm.slot = s.frm.slot := rfl
@[simp] theorem State.putIn_frm_held (s : State) (o : Nat) (w : TWord) : (s.putIn o w).frm.held = s.frm.held := rfl
@[simp] theorem State.putIn_frm_staging (s : State) (o : Nat) (w : TWord) : (s.putIn o w).frm.staging = s.frm.staging := rfl
@[simp] theorem State.putIn_frm_committed (s : State) (o : Nat) (w : TWord) : (s.putIn o w).frm.committed = s.frm.committed := rfl
@[simp] theorem State.putIn_frm_sealAt (s : State) (o : Nat) (w : TWord) : (s.putIn o w).frm.sealAt = s.frm.sealAt := rfl
@[simp] theorem State.putIn_frm_hiCap (s : State) (o : Nat) (w : TWord) : (s.putIn o w).frm.hiCap = s.frm.hiCap := rfl
@[simp] theorem State.putIn_frm_jobs (s : State) (o : Nat) (w : TWord) : (s.putIn o w).frm.jobs = s.frm.jobs := rfl
@[simp] theorem State.putIn_frm_judged (s : State) (o : Nat) (w : TWord) : (s.putIn o w).frm.judged = s.frm.judged := rfl
@[simp] theorem State.putIn_frm_pend (s : State) (o : Nat) (w : TWord) : (s.putIn o w).frm.pend = s.frm.pend := rfl
@[simp] theorem State.putIn_frm_applied (s : State) (o : Nat) (w : TWord) : (s.putIn o w).frm.applied = s.frm.applied := rfl
@[simp] theorem State.putIn_frm_committing (s : State) (o : Nat) (w : TWord) : (s.putIn o w).frm.committing = s.frm.committing := rfl
@[simp] theorem State.putIn_frm_synced (s : State) (o : Nat) (w : TWord) : (s.putIn o w).frm.synced = s.frm.synced := rfl
@[simp] theorem State.putIn_sw (s : State) (o : Nat) (w : TWord) : (s.putIn o w).sw = s.sw := rfl
@[simp] theorem State.putIn_win (s : State) (o : Nat) (w : TWord) : (s.putIn o w).win = s.win := rfl
@[simp] theorem State.putIn_inp (s : State) (o : Nat) (w : TWord) : (s.putIn o w).inp = s.inp := rfl
@[simp] theorem State.putIn_prs (s : State) (o : Nat) (w : TWord) : (s.putIn o w).prs = s.prs := rfl
@[simp] theorem State.putIn_led (s : State) (o : Nat) (w : TWord) : (s.putIn o w).led = s.led := rfl
@[simp] theorem State.putIn_grn (s : State) (o : Nat) (w : TWord) : (s.putIn o w).grn = s.grn := rfl
@[simp] theorem State.putIn_pwr (s : State) (o : Nat) (w : TWord) : (s.putIn o w).pwr = s.pwr := rfl
@[simp] theorem State.putIn_can (s : State) (o : Nat) (w : TWord) : (s.putIn o w).can = s.can := rfl
@[simp] theorem State.putIn_lin (s : State) (o : Nat) (w : TWord) : (s.putIn o w).lin = s.lin := rfl
@[simp] theorem State.putIn_nm (s : State) (o : Nat) (w : TWord) : (s.putIn o w).nm = s.nm := rfl
@[simp] theorem State.putIn_eth (s : State) (o : Nat) (w : TWord) : (s.putIn o w).eth = s.eth := rfl
@[simp] theorem State.putIn_ptp (s : State) (o : Nat) (w : TWord) : (s.putIn o w).ptp = s.ptp := rfl
@[simp] theorem State.putIn_tim (s : State) (o : Nat) (w : TWord) : (s.putIn o w).tim = s.tim := rfl
@[simp] theorem State.putIn_bal (s : State) (o : Nat) (w : TWord) : (s.putIn o w).bal = s.bal := rfl
@[simp] theorem State.putIn_acc (s : State) (o : Nat) (w : TWord) : (s.putIn o w).acc = s.acc := rfl
@[simp] theorem State.putIn_hst (s : State) (o : Nat) (w : TWord) : (s.putIn o w).hst = s.hst := rfl
@[simp] theorem State.putIn_sec (s : State) (o : Nat) (w : TWord) : (s.putIn o w).sec = s.sec := rfl
@[simp] theorem State.putIn_sil (s : State) (o : Nat) (w : TWord) : (s.putIn o w).sil = s.sil := rfl
@[simp] theorem State.putIn_gln (s : State) (o : Nat) (w : TWord) : (s.putIn o w).gln = s.gln := rfl
@[simp] theorem State.putIn_got (s : State) (o : Nat) (w : TWord) : (s.putIn o w).got = s.got := rfl
@[simp] theorem State.putIn_ack (s : State) (o : Nat) (w : TWord) : (s.putIn o w).ack = s.ack := rfl
@[simp] theorem State.putIn_core (s : State) (o : Nat) (w : TWord) : (s.putIn o w).core = s.core := rfl
@[simp] theorem State.putIn_free (s : State) (o : Nat) (w : TWord) : (s.putIn o w).free = s.free := rfl
@[simp] theorem State.putIn_pending (s : State) (o : Nat) (w : TWord) : (s.putIn o w).pending = s.pending := rfl

@[simp] theorem State.setJob_regs (s : State) (j : Nat) (r : JobRun) : (s.setJob j r).regs = s.regs := rfl
@[simp] theorem State.setJob_mem (s : State) (j : Nat) (r : JobRun) : (s.setJob j r).mem = s.mem := rfl
@[simp] theorem State.setJob_count (s : State) (j : Nat) (r : JobRun) : (s.setJob j r).count = s.count := rfl
@[simp] theorem State.setJob_pins (s : State) (j : Nat) (r : JobRun) : (s.setJob j r).pins = s.pins := rfl
@[simp] theorem State.setJob_frm_frame (s : State) (j : Nat) (r : JobRun) : (s.setJob j r).frm.frame = s.frm.frame := rfl
@[simp] theorem State.setJob_frm_edgeAt (s : State) (j : Nat) (r : JobRun) : (s.setJob j r).frm.edgeAt = s.frm.edgeAt := rfl
@[simp] theorem State.setJob_frm_slot (s : State) (j : Nat) (r : JobRun) : (s.setJob j r).frm.slot = s.frm.slot := rfl
@[simp] theorem State.setJob_frm_held (s : State) (j : Nat) (r : JobRun) : (s.setJob j r).frm.held = s.frm.held := rfl
@[simp] theorem State.setJob_frm_staging (s : State) (j : Nat) (r : JobRun) : (s.setJob j r).frm.staging = s.frm.staging := rfl
@[simp] theorem State.setJob_frm_committed (s : State) (j : Nat) (r : JobRun) : (s.setJob j r).frm.committed = s.frm.committed := rfl
@[simp] theorem State.setJob_frm_input (s : State) (j : Nat) (r : JobRun) : (s.setJob j r).frm.input = s.frm.input := rfl
@[simp] theorem State.setJob_frm_sealAt (s : State) (j : Nat) (r : JobRun) : (s.setJob j r).frm.sealAt = s.frm.sealAt := rfl
@[simp] theorem State.setJob_frm_hiCap (s : State) (j : Nat) (r : JobRun) : (s.setJob j r).frm.hiCap = s.frm.hiCap := rfl
@[simp] theorem State.setJob_frm_judged (s : State) (j : Nat) (r : JobRun) : (s.setJob j r).frm.judged = s.frm.judged := rfl
@[simp] theorem State.setJob_frm_pend (s : State) (j : Nat) (r : JobRun) : (s.setJob j r).frm.pend = s.frm.pend := rfl
@[simp] theorem State.setJob_frm_applied (s : State) (j : Nat) (r : JobRun) : (s.setJob j r).frm.applied = s.frm.applied := rfl
@[simp] theorem State.setJob_frm_committing (s : State) (j : Nat) (r : JobRun) : (s.setJob j r).frm.committing = s.frm.committing := rfl
@[simp] theorem State.setJob_frm_synced (s : State) (j : Nat) (r : JobRun) : (s.setJob j r).frm.synced = s.frm.synced := rfl
@[simp] theorem State.setJob_sw (s : State) (j : Nat) (r : JobRun) : (s.setJob j r).sw = s.sw := rfl
@[simp] theorem State.setJob_win (s : State) (j : Nat) (r : JobRun) : (s.setJob j r).win = s.win := rfl
@[simp] theorem State.setJob_inp (s : State) (j : Nat) (r : JobRun) : (s.setJob j r).inp = s.inp := rfl
@[simp] theorem State.setJob_prs (s : State) (j : Nat) (r : JobRun) : (s.setJob j r).prs = s.prs := rfl
@[simp] theorem State.setJob_led (s : State) (j : Nat) (r : JobRun) : (s.setJob j r).led = s.led := rfl
@[simp] theorem State.setJob_grn (s : State) (j : Nat) (r : JobRun) : (s.setJob j r).grn = s.grn := rfl
@[simp] theorem State.setJob_pwr (s : State) (j : Nat) (r : JobRun) : (s.setJob j r).pwr = s.pwr := rfl
@[simp] theorem State.setJob_can (s : State) (j : Nat) (r : JobRun) : (s.setJob j r).can = s.can := rfl
@[simp] theorem State.setJob_lin (s : State) (j : Nat) (r : JobRun) : (s.setJob j r).lin = s.lin := rfl
@[simp] theorem State.setJob_nm (s : State) (j : Nat) (r : JobRun) : (s.setJob j r).nm = s.nm := rfl
@[simp] theorem State.setJob_eth (s : State) (j : Nat) (r : JobRun) : (s.setJob j r).eth = s.eth := rfl
@[simp] theorem State.setJob_ptp (s : State) (j : Nat) (r : JobRun) : (s.setJob j r).ptp = s.ptp := rfl
@[simp] theorem State.setJob_tim (s : State) (j : Nat) (r : JobRun) : (s.setJob j r).tim = s.tim := rfl
@[simp] theorem State.setJob_bal (s : State) (j : Nat) (r : JobRun) : (s.setJob j r).bal = s.bal := rfl
@[simp] theorem State.setJob_acc (s : State) (j : Nat) (r : JobRun) : (s.setJob j r).acc = s.acc := rfl
@[simp] theorem State.setJob_hst (s : State) (j : Nat) (r : JobRun) : (s.setJob j r).hst = s.hst := rfl
@[simp] theorem State.setJob_sec (s : State) (j : Nat) (r : JobRun) : (s.setJob j r).sec = s.sec := rfl
@[simp] theorem State.setJob_sil (s : State) (j : Nat) (r : JobRun) : (s.setJob j r).sil = s.sil := rfl
@[simp] theorem State.setJob_gln (s : State) (j : Nat) (r : JobRun) : (s.setJob j r).gln = s.gln := rfl
@[simp] theorem State.setJob_got (s : State) (j : Nat) (r : JobRun) : (s.setJob j r).got = s.got := rfl
@[simp] theorem State.setJob_ack (s : State) (j : Nat) (r : JobRun) : (s.setJob j r).ack = s.ack := rfl
@[simp] theorem State.setJob_core (s : State) (j : Nat) (r : JobRun) : (s.setJob j r).core = s.core := rfl
@[simp] theorem State.setJob_free (s : State) (j : Nat) (r : JobRun) : (s.setJob j r).free = s.free := rfl
@[simp] theorem State.setJob_pending (s : State) (j : Nat) (r : JobRun) : (s.setJob j r).pending = s.pending := rfl

@[simp] theorem State.setOut_regs (s : State) (o : Nat) (f : Outp → Outp) : (s.setOut o f).regs = s.regs := rfl
@[simp] theorem State.setOut_mem (s : State) (o : Nat) (f : Outp → Outp) : (s.setOut o f).mem = s.mem := rfl
@[simp] theorem State.setOut_count (s : State) (o : Nat) (f : Outp → Outp) : (s.setOut o f).count = s.count := rfl
@[simp] theorem State.setOut_pins (s : State) (o : Nat) (f : Outp → Outp) : (s.setOut o f).pins = s.pins := rfl
@[simp] theorem State.setOut_frm (s : State) (o : Nat) (f : Outp → Outp) : (s.setOut o f).frm = s.frm := rfl
@[simp] theorem State.setOut_sw_die (s : State) (o : Nat) (f : Outp → Outp) : (s.setOut o f).sw.die = s.sw.die := rfl
@[simp] theorem State.setOut_sw_strOn (s : State) (o : Nat) (f : Outp → Outp) : (s.setOut o f).sw.strOn = s.sw.strOn := rfl
@[simp] theorem State.setOut_sw_strDrop (s : State) (o : Nat) (f : Outp → Outp) : (s.setOut o f).sw.strDrop = s.sw.strDrop := rfl
@[simp] theorem State.setOut_sw_strLast (s : State) (o : Nat) (f : Outp → Outp) : (s.setOut o f).sw.strLast = s.sw.strLast := rfl
@[simp] theorem State.setOut_sw_strDone (s : State) (o : Nat) (f : Outp → Outp) : (s.setOut o f).sw.strDone = s.sw.strDone := rfl
@[simp] theorem State.setOut_sw_smpDone (s : State) (o : Nat) (f : Outp → Outp) : (s.setOut o f).sw.smpDone = s.sw.smpDone := rfl
@[simp] theorem State.setOut_win (s : State) (o : Nat) (f : Outp → Outp) : (s.setOut o f).win = s.win := rfl
@[simp] theorem State.setOut_inp (s : State) (o : Nat) (f : Outp → Outp) : (s.setOut o f).inp = s.inp := rfl
@[simp] theorem State.setOut_prs (s : State) (o : Nat) (f : Outp → Outp) : (s.setOut o f).prs = s.prs := rfl
@[simp] theorem State.setOut_led (s : State) (o : Nat) (f : Outp → Outp) : (s.setOut o f).led = s.led := rfl
@[simp] theorem State.setOut_grn (s : State) (o : Nat) (f : Outp → Outp) : (s.setOut o f).grn = s.grn := rfl
@[simp] theorem State.setOut_pwr (s : State) (o : Nat) (f : Outp → Outp) : (s.setOut o f).pwr = s.pwr := rfl
@[simp] theorem State.setOut_can (s : State) (o : Nat) (f : Outp → Outp) : (s.setOut o f).can = s.can := rfl
@[simp] theorem State.setOut_lin (s : State) (o : Nat) (f : Outp → Outp) : (s.setOut o f).lin = s.lin := rfl
@[simp] theorem State.setOut_nm (s : State) (o : Nat) (f : Outp → Outp) : (s.setOut o f).nm = s.nm := rfl
@[simp] theorem State.setOut_eth (s : State) (o : Nat) (f : Outp → Outp) : (s.setOut o f).eth = s.eth := rfl
@[simp] theorem State.setOut_ptp (s : State) (o : Nat) (f : Outp → Outp) : (s.setOut o f).ptp = s.ptp := rfl
@[simp] theorem State.setOut_tim (s : State) (o : Nat) (f : Outp → Outp) : (s.setOut o f).tim = s.tim := rfl
@[simp] theorem State.setOut_bal (s : State) (o : Nat) (f : Outp → Outp) : (s.setOut o f).bal = s.bal := rfl
@[simp] theorem State.setOut_acc (s : State) (o : Nat) (f : Outp → Outp) : (s.setOut o f).acc = s.acc := rfl
@[simp] theorem State.setOut_hst (s : State) (o : Nat) (f : Outp → Outp) : (s.setOut o f).hst = s.hst := rfl
@[simp] theorem State.setOut_sec (s : State) (o : Nat) (f : Outp → Outp) : (s.setOut o f).sec = s.sec := rfl
@[simp] theorem State.setOut_sil (s : State) (o : Nat) (f : Outp → Outp) : (s.setOut o f).sil = s.sil := rfl
@[simp] theorem State.setOut_gln (s : State) (o : Nat) (f : Outp → Outp) : (s.setOut o f).gln = s.gln := rfl
@[simp] theorem State.setOut_got (s : State) (o : Nat) (f : Outp → Outp) : (s.setOut o f).got = s.got := rfl
@[simp] theorem State.setOut_ack (s : State) (o : Nat) (f : Outp → Outp) : (s.setOut o f).ack = s.ack := rfl
@[simp] theorem State.setOut_core (s : State) (o : Nat) (f : Outp → Outp) : (s.setOut o f).core = s.core := rfl
@[simp] theorem State.setOut_free (s : State) (o : Nat) (f : Outp → Outp) : (s.setOut o f).free = s.free := rfl
@[simp] theorem State.setOut_pending (s : State) (o : Nat) (f : Outp → Outp) : (s.setOut o f).pending = s.pending := rfl

@[simp] theorem State.setDie_regs (s : State) (d : Nat) (f : Die → Die) : (s.setDie d f).regs = s.regs := rfl
@[simp] theorem State.setDie_mem (s : State) (d : Nat) (f : Die → Die) : (s.setDie d f).mem = s.mem := rfl
@[simp] theorem State.setDie_count (s : State) (d : Nat) (f : Die → Die) : (s.setDie d f).count = s.count := rfl
@[simp] theorem State.setDie_pins (s : State) (d : Nat) (f : Die → Die) : (s.setDie d f).pins = s.pins := rfl
@[simp] theorem State.setDie_frm (s : State) (d : Nat) (f : Die → Die) : (s.setDie d f).frm = s.frm := rfl
@[simp] theorem State.setDie_sw_out (s : State) (d : Nat) (f : Die → Die) : (s.setDie d f).sw.out = s.sw.out := rfl
@[simp] theorem State.setDie_sw_strOn (s : State) (d : Nat) (f : Die → Die) : (s.setDie d f).sw.strOn = s.sw.strOn := rfl
@[simp] theorem State.setDie_sw_strDrop (s : State) (d : Nat) (f : Die → Die) : (s.setDie d f).sw.strDrop = s.sw.strDrop := rfl
@[simp] theorem State.setDie_sw_strLast (s : State) (d : Nat) (f : Die → Die) : (s.setDie d f).sw.strLast = s.sw.strLast := rfl
@[simp] theorem State.setDie_sw_strDone (s : State) (d : Nat) (f : Die → Die) : (s.setDie d f).sw.strDone = s.sw.strDone := rfl
@[simp] theorem State.setDie_sw_smpDone (s : State) (d : Nat) (f : Die → Die) : (s.setDie d f).sw.smpDone = s.sw.smpDone := rfl
@[simp] theorem State.setDie_win (s : State) (d : Nat) (f : Die → Die) : (s.setDie d f).win = s.win := rfl
@[simp] theorem State.setDie_inp (s : State) (d : Nat) (f : Die → Die) : (s.setDie d f).inp = s.inp := rfl
@[simp] theorem State.setDie_prs (s : State) (d : Nat) (f : Die → Die) : (s.setDie d f).prs = s.prs := rfl
@[simp] theorem State.setDie_led (s : State) (d : Nat) (f : Die → Die) : (s.setDie d f).led = s.led := rfl
@[simp] theorem State.setDie_grn (s : State) (d : Nat) (f : Die → Die) : (s.setDie d f).grn = s.grn := rfl
@[simp] theorem State.setDie_pwr (s : State) (d : Nat) (f : Die → Die) : (s.setDie d f).pwr = s.pwr := rfl
@[simp] theorem State.setDie_can (s : State) (d : Nat) (f : Die → Die) : (s.setDie d f).can = s.can := rfl
@[simp] theorem State.setDie_lin (s : State) (d : Nat) (f : Die → Die) : (s.setDie d f).lin = s.lin := rfl
@[simp] theorem State.setDie_nm (s : State) (d : Nat) (f : Die → Die) : (s.setDie d f).nm = s.nm := rfl
@[simp] theorem State.setDie_eth (s : State) (d : Nat) (f : Die → Die) : (s.setDie d f).eth = s.eth := rfl
@[simp] theorem State.setDie_ptp (s : State) (d : Nat) (f : Die → Die) : (s.setDie d f).ptp = s.ptp := rfl
@[simp] theorem State.setDie_tim (s : State) (d : Nat) (f : Die → Die) : (s.setDie d f).tim = s.tim := rfl
@[simp] theorem State.setDie_bal (s : State) (d : Nat) (f : Die → Die) : (s.setDie d f).bal = s.bal := rfl
@[simp] theorem State.setDie_acc (s : State) (d : Nat) (f : Die → Die) : (s.setDie d f).acc = s.acc := rfl
@[simp] theorem State.setDie_hst (s : State) (d : Nat) (f : Die → Die) : (s.setDie d f).hst = s.hst := rfl
@[simp] theorem State.setDie_sec (s : State) (d : Nat) (f : Die → Die) : (s.setDie d f).sec = s.sec := rfl
@[simp] theorem State.setDie_sil (s : State) (d : Nat) (f : Die → Die) : (s.setDie d f).sil = s.sil := rfl
@[simp] theorem State.setDie_gln (s : State) (d : Nat) (f : Die → Die) : (s.setDie d f).gln = s.gln := rfl
@[simp] theorem State.setDie_got (s : State) (d : Nat) (f : Die → Die) : (s.setDie d f).got = s.got := rfl
@[simp] theorem State.setDie_ack (s : State) (d : Nat) (f : Die → Die) : (s.setDie d f).ack = s.ack := rfl
@[simp] theorem State.setDie_core (s : State) (d : Nat) (f : Die → Die) : (s.setDie d f).core = s.core := rfl
@[simp] theorem State.setDie_free (s : State) (d : Nat) (f : Die → Die) : (s.setDie d f).free = s.free := rfl
@[simp] theorem State.setDie_pending (s : State) (d : Nat) (f : Die → Die) : (s.setDie d f).pending = s.pending := rfl

@[simp] theorem State.setSwIn_regs (s : State) (i : Nat) (f : SwIn → SwIn) : (s.setSwIn i f).regs = s.regs := rfl
@[simp] theorem State.setSwIn_mem (s : State) (i : Nat) (f : SwIn → SwIn) : (s.setSwIn i f).mem = s.mem := rfl
@[simp] theorem State.setSwIn_count (s : State) (i : Nat) (f : SwIn → SwIn) : (s.setSwIn i f).count = s.count := rfl
@[simp] theorem State.setSwIn_pins (s : State) (i : Nat) (f : SwIn → SwIn) : (s.setSwIn i f).pins = s.pins := rfl
@[simp] theorem State.setSwIn_frm (s : State) (i : Nat) (f : SwIn → SwIn) : (s.setSwIn i f).frm = s.frm := rfl
@[simp] theorem State.setSwIn_sw (s : State) (i : Nat) (f : SwIn → SwIn) : (s.setSwIn i f).sw = s.sw := rfl
@[simp] theorem State.setSwIn_win (s : State) (i : Nat) (f : SwIn → SwIn) : (s.setSwIn i f).win = s.win := rfl
@[simp] theorem State.setSwIn_inp_wake (s : State) (i : Nat) (f : SwIn → SwIn) : (s.setSwIn i f).inp.wake = s.inp.wake := rfl
@[simp] theorem State.setSwIn_inp_ain (s : State) (i : Nat) (f : SwIn → SwIn) : (s.setSwIn i f).inp.ain = s.inp.ain := rfl
@[simp] theorem State.setSwIn_inp_vs (s : State) (i : Nat) (f : SwIn → SwIn) : (s.setSwIn i f).inp.vs = s.inp.vs := rfl
@[simp] theorem State.setSwIn_inp_sampled (s : State) (i : Nat) (f : SwIn → SwIn) : (s.setSwIn i f).inp.sampled = s.inp.sampled := rfl
@[simp] theorem State.setSwIn_inp_changed (s : State) (i : Nat) (f : SwIn → SwIn) : (s.setSwIn i f).inp.changed = s.inp.changed := rfl
@[simp] theorem State.setSwIn_inp_reached (s : State) (i : Nat) (f : SwIn → SwIn) : (s.setSwIn i f).inp.reached = s.inp.reached := rfl
@[simp] theorem State.setSwIn_inp_ainHit (s : State) (i : Nat) (f : SwIn → SwIn) : (s.setSwIn i f).inp.ainHit = s.inp.ainHit := rfl
@[simp] theorem State.setSwIn_prs (s : State) (i : Nat) (f : SwIn → SwIn) : (s.setSwIn i f).prs = s.prs := rfl
@[simp] theorem State.setSwIn_led (s : State) (i : Nat) (f : SwIn → SwIn) : (s.setSwIn i f).led = s.led := rfl
@[simp] theorem State.setSwIn_grn (s : State) (i : Nat) (f : SwIn → SwIn) : (s.setSwIn i f).grn = s.grn := rfl
@[simp] theorem State.setSwIn_pwr (s : State) (i : Nat) (f : SwIn → SwIn) : (s.setSwIn i f).pwr = s.pwr := rfl
@[simp] theorem State.setSwIn_can (s : State) (i : Nat) (f : SwIn → SwIn) : (s.setSwIn i f).can = s.can := rfl
@[simp] theorem State.setSwIn_lin (s : State) (i : Nat) (f : SwIn → SwIn) : (s.setSwIn i f).lin = s.lin := rfl
@[simp] theorem State.setSwIn_nm (s : State) (i : Nat) (f : SwIn → SwIn) : (s.setSwIn i f).nm = s.nm := rfl
@[simp] theorem State.setSwIn_eth (s : State) (i : Nat) (f : SwIn → SwIn) : (s.setSwIn i f).eth = s.eth := rfl
@[simp] theorem State.setSwIn_ptp (s : State) (i : Nat) (f : SwIn → SwIn) : (s.setSwIn i f).ptp = s.ptp := rfl
@[simp] theorem State.setSwIn_tim (s : State) (i : Nat) (f : SwIn → SwIn) : (s.setSwIn i f).tim = s.tim := rfl
@[simp] theorem State.setSwIn_bal (s : State) (i : Nat) (f : SwIn → SwIn) : (s.setSwIn i f).bal = s.bal := rfl
@[simp] theorem State.setSwIn_acc (s : State) (i : Nat) (f : SwIn → SwIn) : (s.setSwIn i f).acc = s.acc := rfl
@[simp] theorem State.setSwIn_hst (s : State) (i : Nat) (f : SwIn → SwIn) : (s.setSwIn i f).hst = s.hst := rfl
@[simp] theorem State.setSwIn_sec (s : State) (i : Nat) (f : SwIn → SwIn) : (s.setSwIn i f).sec = s.sec := rfl
@[simp] theorem State.setSwIn_sil (s : State) (i : Nat) (f : SwIn → SwIn) : (s.setSwIn i f).sil = s.sil := rfl
@[simp] theorem State.setSwIn_gln (s : State) (i : Nat) (f : SwIn → SwIn) : (s.setSwIn i f).gln = s.gln := rfl
@[simp] theorem State.setSwIn_got (s : State) (i : Nat) (f : SwIn → SwIn) : (s.setSwIn i f).got = s.got := rfl
@[simp] theorem State.setSwIn_ack (s : State) (i : Nat) (f : SwIn → SwIn) : (s.setSwIn i f).ack = s.ack := rfl
@[simp] theorem State.setSwIn_core (s : State) (i : Nat) (f : SwIn → SwIn) : (s.setSwIn i f).core = s.core := rfl
@[simp] theorem State.setSwIn_free (s : State) (i : Nat) (f : SwIn → SwIn) : (s.setSwIn i f).free = s.free := rfl
@[simp] theorem State.setSwIn_pending (s : State) (i : Nat) (f : SwIn → SwIn) : (s.setSwIn i f).pending = s.pending := rfl

@[simp] theorem State.setWakeIn_regs (s : State) (n : Nat) (f : WakeIn → WakeIn) : (s.setWakeIn n f).regs = s.regs := rfl
@[simp] theorem State.setWakeIn_mem (s : State) (n : Nat) (f : WakeIn → WakeIn) : (s.setWakeIn n f).mem = s.mem := rfl
@[simp] theorem State.setWakeIn_count (s : State) (n : Nat) (f : WakeIn → WakeIn) : (s.setWakeIn n f).count = s.count := rfl
@[simp] theorem State.setWakeIn_pins (s : State) (n : Nat) (f : WakeIn → WakeIn) : (s.setWakeIn n f).pins = s.pins := rfl
@[simp] theorem State.setWakeIn_frm (s : State) (n : Nat) (f : WakeIn → WakeIn) : (s.setWakeIn n f).frm = s.frm := rfl
@[simp] theorem State.setWakeIn_sw (s : State) (n : Nat) (f : WakeIn → WakeIn) : (s.setWakeIn n f).sw = s.sw := rfl
@[simp] theorem State.setWakeIn_win (s : State) (n : Nat) (f : WakeIn → WakeIn) : (s.setWakeIn n f).win = s.win := rfl
@[simp] theorem State.setWakeIn_inp_sw (s : State) (n : Nat) (f : WakeIn → WakeIn) : (s.setWakeIn n f).inp.sw = s.inp.sw := rfl
@[simp] theorem State.setWakeIn_inp_ain (s : State) (n : Nat) (f : WakeIn → WakeIn) : (s.setWakeIn n f).inp.ain = s.inp.ain := rfl
@[simp] theorem State.setWakeIn_inp_vs (s : State) (n : Nat) (f : WakeIn → WakeIn) : (s.setWakeIn n f).inp.vs = s.inp.vs := rfl
@[simp] theorem State.setWakeIn_inp_sampled (s : State) (n : Nat) (f : WakeIn → WakeIn) : (s.setWakeIn n f).inp.sampled = s.inp.sampled := rfl
@[simp] theorem State.setWakeIn_inp_changed (s : State) (n : Nat) (f : WakeIn → WakeIn) : (s.setWakeIn n f).inp.changed = s.inp.changed := rfl
@[simp] theorem State.setWakeIn_inp_reached (s : State) (n : Nat) (f : WakeIn → WakeIn) : (s.setWakeIn n f).inp.reached = s.inp.reached := rfl
@[simp] theorem State.setWakeIn_inp_ainHit (s : State) (n : Nat) (f : WakeIn → WakeIn) : (s.setWakeIn n f).inp.ainHit = s.inp.ainHit := rfl
@[simp] theorem State.setWakeIn_prs (s : State) (n : Nat) (f : WakeIn → WakeIn) : (s.setWakeIn n f).prs = s.prs := rfl
@[simp] theorem State.setWakeIn_led (s : State) (n : Nat) (f : WakeIn → WakeIn) : (s.setWakeIn n f).led = s.led := rfl
@[simp] theorem State.setWakeIn_grn (s : State) (n : Nat) (f : WakeIn → WakeIn) : (s.setWakeIn n f).grn = s.grn := rfl
@[simp] theorem State.setWakeIn_pwr (s : State) (n : Nat) (f : WakeIn → WakeIn) : (s.setWakeIn n f).pwr = s.pwr := rfl
@[simp] theorem State.setWakeIn_can (s : State) (n : Nat) (f : WakeIn → WakeIn) : (s.setWakeIn n f).can = s.can := rfl
@[simp] theorem State.setWakeIn_lin (s : State) (n : Nat) (f : WakeIn → WakeIn) : (s.setWakeIn n f).lin = s.lin := rfl
@[simp] theorem State.setWakeIn_nm (s : State) (n : Nat) (f : WakeIn → WakeIn) : (s.setWakeIn n f).nm = s.nm := rfl
@[simp] theorem State.setWakeIn_eth (s : State) (n : Nat) (f : WakeIn → WakeIn) : (s.setWakeIn n f).eth = s.eth := rfl
@[simp] theorem State.setWakeIn_ptp (s : State) (n : Nat) (f : WakeIn → WakeIn) : (s.setWakeIn n f).ptp = s.ptp := rfl
@[simp] theorem State.setWakeIn_tim (s : State) (n : Nat) (f : WakeIn → WakeIn) : (s.setWakeIn n f).tim = s.tim := rfl
@[simp] theorem State.setWakeIn_bal (s : State) (n : Nat) (f : WakeIn → WakeIn) : (s.setWakeIn n f).bal = s.bal := rfl
@[simp] theorem State.setWakeIn_acc (s : State) (n : Nat) (f : WakeIn → WakeIn) : (s.setWakeIn n f).acc = s.acc := rfl
@[simp] theorem State.setWakeIn_hst (s : State) (n : Nat) (f : WakeIn → WakeIn) : (s.setWakeIn n f).hst = s.hst := rfl
@[simp] theorem State.setWakeIn_sec (s : State) (n : Nat) (f : WakeIn → WakeIn) : (s.setWakeIn n f).sec = s.sec := rfl
@[simp] theorem State.setWakeIn_sil (s : State) (n : Nat) (f : WakeIn → WakeIn) : (s.setWakeIn n f).sil = s.sil := rfl
@[simp] theorem State.setWakeIn_gln (s : State) (n : Nat) (f : WakeIn → WakeIn) : (s.setWakeIn n f).gln = s.gln := rfl
@[simp] theorem State.setWakeIn_got (s : State) (n : Nat) (f : WakeIn → WakeIn) : (s.setWakeIn n f).got = s.got := rfl
@[simp] theorem State.setWakeIn_ack (s : State) (n : Nat) (f : WakeIn → WakeIn) : (s.setWakeIn n f).ack = s.ack := rfl
@[simp] theorem State.setWakeIn_core (s : State) (n : Nat) (f : WakeIn → WakeIn) : (s.setWakeIn n f).core = s.core := rfl
@[simp] theorem State.setWakeIn_free (s : State) (n : Nat) (f : WakeIn → WakeIn) : (s.setWakeIn n f).free = s.free := rfl
@[simp] theorem State.setWakeIn_pending (s : State) (n : Nat) (f : WakeIn → WakeIn) : (s.setWakeIn n f).pending = s.pending := rfl

@[simp] theorem State.setAin_regs (s : State) (n : Nat) (f : AinIn → AinIn) : (s.setAin n f).regs = s.regs := rfl
@[simp] theorem State.setAin_mem (s : State) (n : Nat) (f : AinIn → AinIn) : (s.setAin n f).mem = s.mem := rfl
@[simp] theorem State.setAin_count (s : State) (n : Nat) (f : AinIn → AinIn) : (s.setAin n f).count = s.count := rfl
@[simp] theorem State.setAin_pins (s : State) (n : Nat) (f : AinIn → AinIn) : (s.setAin n f).pins = s.pins := rfl
@[simp] theorem State.setAin_frm (s : State) (n : Nat) (f : AinIn → AinIn) : (s.setAin n f).frm = s.frm := rfl
@[simp] theorem State.setAin_sw (s : State) (n : Nat) (f : AinIn → AinIn) : (s.setAin n f).sw = s.sw := rfl
@[simp] theorem State.setAin_win (s : State) (n : Nat) (f : AinIn → AinIn) : (s.setAin n f).win = s.win := rfl
@[simp] theorem State.setAin_inp_sw (s : State) (n : Nat) (f : AinIn → AinIn) : (s.setAin n f).inp.sw = s.inp.sw := rfl
@[simp] theorem State.setAin_inp_wake (s : State) (n : Nat) (f : AinIn → AinIn) : (s.setAin n f).inp.wake = s.inp.wake := rfl
@[simp] theorem State.setAin_inp_vs (s : State) (n : Nat) (f : AinIn → AinIn) : (s.setAin n f).inp.vs = s.inp.vs := rfl
@[simp] theorem State.setAin_inp_sampled (s : State) (n : Nat) (f : AinIn → AinIn) : (s.setAin n f).inp.sampled = s.inp.sampled := rfl
@[simp] theorem State.setAin_inp_changed (s : State) (n : Nat) (f : AinIn → AinIn) : (s.setAin n f).inp.changed = s.inp.changed := rfl
@[simp] theorem State.setAin_inp_reached (s : State) (n : Nat) (f : AinIn → AinIn) : (s.setAin n f).inp.reached = s.inp.reached := rfl
@[simp] theorem State.setAin_inp_ainHit (s : State) (n : Nat) (f : AinIn → AinIn) : (s.setAin n f).inp.ainHit = s.inp.ainHit := rfl
@[simp] theorem State.setAin_prs (s : State) (n : Nat) (f : AinIn → AinIn) : (s.setAin n f).prs = s.prs := rfl
@[simp] theorem State.setAin_led (s : State) (n : Nat) (f : AinIn → AinIn) : (s.setAin n f).led = s.led := rfl
@[simp] theorem State.setAin_grn (s : State) (n : Nat) (f : AinIn → AinIn) : (s.setAin n f).grn = s.grn := rfl
@[simp] theorem State.setAin_pwr (s : State) (n : Nat) (f : AinIn → AinIn) : (s.setAin n f).pwr = s.pwr := rfl
@[simp] theorem State.setAin_can (s : State) (n : Nat) (f : AinIn → AinIn) : (s.setAin n f).can = s.can := rfl
@[simp] theorem State.setAin_lin (s : State) (n : Nat) (f : AinIn → AinIn) : (s.setAin n f).lin = s.lin := rfl
@[simp] theorem State.setAin_nm (s : State) (n : Nat) (f : AinIn → AinIn) : (s.setAin n f).nm = s.nm := rfl
@[simp] theorem State.setAin_eth (s : State) (n : Nat) (f : AinIn → AinIn) : (s.setAin n f).eth = s.eth := rfl
@[simp] theorem State.setAin_ptp (s : State) (n : Nat) (f : AinIn → AinIn) : (s.setAin n f).ptp = s.ptp := rfl
@[simp] theorem State.setAin_tim (s : State) (n : Nat) (f : AinIn → AinIn) : (s.setAin n f).tim = s.tim := rfl
@[simp] theorem State.setAin_bal (s : State) (n : Nat) (f : AinIn → AinIn) : (s.setAin n f).bal = s.bal := rfl
@[simp] theorem State.setAin_acc (s : State) (n : Nat) (f : AinIn → AinIn) : (s.setAin n f).acc = s.acc := rfl
@[simp] theorem State.setAin_hst (s : State) (n : Nat) (f : AinIn → AinIn) : (s.setAin n f).hst = s.hst := rfl
@[simp] theorem State.setAin_sec (s : State) (n : Nat) (f : AinIn → AinIn) : (s.setAin n f).sec = s.sec := rfl
@[simp] theorem State.setAin_sil (s : State) (n : Nat) (f : AinIn → AinIn) : (s.setAin n f).sil = s.sil := rfl
@[simp] theorem State.setAin_gln (s : State) (n : Nat) (f : AinIn → AinIn) : (s.setAin n f).gln = s.gln := rfl
@[simp] theorem State.setAin_got (s : State) (n : Nat) (f : AinIn → AinIn) : (s.setAin n f).got = s.got := rfl
@[simp] theorem State.setAin_ack (s : State) (n : Nat) (f : AinIn → AinIn) : (s.setAin n f).ack = s.ack := rfl
@[simp] theorem State.setAin_core (s : State) (n : Nat) (f : AinIn → AinIn) : (s.setAin n f).core = s.core := rfl
@[simp] theorem State.setAin_free (s : State) (n : Nat) (f : AinIn → AinIn) : (s.setAin n f).free = s.free := rfl
@[simp] theorem State.setAin_pending (s : State) (n : Nat) (f : AinIn → AinIn) : (s.setAin n f).pending = s.pending := rfl

@[simp] theorem State.setVs_regs (s : State) (v : Nat) (f : VsIn → VsIn) : (s.setVs v f).regs = s.regs := rfl
@[simp] theorem State.setVs_mem (s : State) (v : Nat) (f : VsIn → VsIn) : (s.setVs v f).mem = s.mem := rfl
@[simp] theorem State.setVs_count (s : State) (v : Nat) (f : VsIn → VsIn) : (s.setVs v f).count = s.count := rfl
@[simp] theorem State.setVs_pins (s : State) (v : Nat) (f : VsIn → VsIn) : (s.setVs v f).pins = s.pins := rfl
@[simp] theorem State.setVs_frm (s : State) (v : Nat) (f : VsIn → VsIn) : (s.setVs v f).frm = s.frm := rfl
@[simp] theorem State.setVs_sw (s : State) (v : Nat) (f : VsIn → VsIn) : (s.setVs v f).sw = s.sw := rfl
@[simp] theorem State.setVs_win (s : State) (v : Nat) (f : VsIn → VsIn) : (s.setVs v f).win = s.win := rfl
@[simp] theorem State.setVs_inp_sw (s : State) (v : Nat) (f : VsIn → VsIn) : (s.setVs v f).inp.sw = s.inp.sw := rfl
@[simp] theorem State.setVs_inp_wake (s : State) (v : Nat) (f : VsIn → VsIn) : (s.setVs v f).inp.wake = s.inp.wake := rfl
@[simp] theorem State.setVs_inp_ain (s : State) (v : Nat) (f : VsIn → VsIn) : (s.setVs v f).inp.ain = s.inp.ain := rfl
@[simp] theorem State.setVs_inp_sampled (s : State) (v : Nat) (f : VsIn → VsIn) : (s.setVs v f).inp.sampled = s.inp.sampled := rfl
@[simp] theorem State.setVs_inp_changed (s : State) (v : Nat) (f : VsIn → VsIn) : (s.setVs v f).inp.changed = s.inp.changed := rfl
@[simp] theorem State.setVs_inp_reached (s : State) (v : Nat) (f : VsIn → VsIn) : (s.setVs v f).inp.reached = s.inp.reached := rfl
@[simp] theorem State.setVs_inp_ainHit (s : State) (v : Nat) (f : VsIn → VsIn) : (s.setVs v f).inp.ainHit = s.inp.ainHit := rfl
@[simp] theorem State.setVs_prs (s : State) (v : Nat) (f : VsIn → VsIn) : (s.setVs v f).prs = s.prs := rfl
@[simp] theorem State.setVs_led (s : State) (v : Nat) (f : VsIn → VsIn) : (s.setVs v f).led = s.led := rfl
@[simp] theorem State.setVs_grn (s : State) (v : Nat) (f : VsIn → VsIn) : (s.setVs v f).grn = s.grn := rfl
@[simp] theorem State.setVs_pwr (s : State) (v : Nat) (f : VsIn → VsIn) : (s.setVs v f).pwr = s.pwr := rfl
@[simp] theorem State.setVs_can (s : State) (v : Nat) (f : VsIn → VsIn) : (s.setVs v f).can = s.can := rfl
@[simp] theorem State.setVs_lin (s : State) (v : Nat) (f : VsIn → VsIn) : (s.setVs v f).lin = s.lin := rfl
@[simp] theorem State.setVs_nm (s : State) (v : Nat) (f : VsIn → VsIn) : (s.setVs v f).nm = s.nm := rfl
@[simp] theorem State.setVs_eth (s : State) (v : Nat) (f : VsIn → VsIn) : (s.setVs v f).eth = s.eth := rfl
@[simp] theorem State.setVs_ptp (s : State) (v : Nat) (f : VsIn → VsIn) : (s.setVs v f).ptp = s.ptp := rfl
@[simp] theorem State.setVs_tim (s : State) (v : Nat) (f : VsIn → VsIn) : (s.setVs v f).tim = s.tim := rfl
@[simp] theorem State.setVs_bal (s : State) (v : Nat) (f : VsIn → VsIn) : (s.setVs v f).bal = s.bal := rfl
@[simp] theorem State.setVs_acc (s : State) (v : Nat) (f : VsIn → VsIn) : (s.setVs v f).acc = s.acc := rfl
@[simp] theorem State.setVs_hst (s : State) (v : Nat) (f : VsIn → VsIn) : (s.setVs v f).hst = s.hst := rfl
@[simp] theorem State.setVs_sec (s : State) (v : Nat) (f : VsIn → VsIn) : (s.setVs v f).sec = s.sec := rfl
@[simp] theorem State.setVs_sil (s : State) (v : Nat) (f : VsIn → VsIn) : (s.setVs v f).sil = s.sil := rfl
@[simp] theorem State.setVs_gln (s : State) (v : Nat) (f : VsIn → VsIn) : (s.setVs v f).gln = s.gln := rfl
@[simp] theorem State.setVs_got (s : State) (v : Nat) (f : VsIn → VsIn) : (s.setVs v f).got = s.got := rfl
@[simp] theorem State.setVs_ack (s : State) (v : Nat) (f : VsIn → VsIn) : (s.setVs v f).ack = s.ack := rfl
@[simp] theorem State.setVs_core (s : State) (v : Nat) (f : VsIn → VsIn) : (s.setVs v f).core = s.core := rfl
@[simp] theorem State.setVs_free (s : State) (v : Nat) (f : VsIn → VsIn) : (s.setVs v f).free = s.free := rfl
@[simp] theorem State.setVs_pending (s : State) (v : Nat) (f : VsIn → VsIn) : (s.setVs v f).pending = s.pending := rfl

@[simp] theorem State.setCoil_regs (s : State) (n : Nat) (f : Coil → Coil) : (s.setCoil n f).regs = s.regs := rfl
@[simp] theorem State.setCoil_mem (s : State) (n : Nat) (f : Coil → Coil) : (s.setCoil n f).mem = s.mem := rfl
@[simp] theorem State.setCoil_count (s : State) (n : Nat) (f : Coil → Coil) : (s.setCoil n f).count = s.count := rfl
@[simp] theorem State.setCoil_pins (s : State) (n : Nat) (f : Coil → Coil) : (s.setCoil n f).pins = s.pins := rfl
@[simp] theorem State.setCoil_frm (s : State) (n : Nat) (f : Coil → Coil) : (s.setCoil n f).frm = s.frm := rfl
@[simp] theorem State.setCoil_sw (s : State) (n : Nat) (f : Coil → Coil) : (s.setCoil n f).sw = s.sw := rfl
@[simp] theorem State.setCoil_win (s : State) (n : Nat) (f : Coil → Coil) : (s.setCoil n f).win = s.win := rfl
@[simp] theorem State.setCoil_inp (s : State) (n : Nat) (f : Coil → Coil) : (s.setCoil n f).inp = s.inp := rfl
@[simp] theorem State.setCoil_prs_bank (s : State) (n : Nat) (f : Coil → Coil) : (s.setCoil n f).prs.bank = s.prs.bank := rfl
@[simp] theorem State.setCoil_prs_px (s : State) (n : Nat) (f : Coil → Coil) : (s.setCoil n f).prs.px = s.prs.px := rfl
@[simp] theorem State.setCoil_prs_sampleJ (s : State) (n : Nat) (f : Coil → Coil) : (s.setCoil n f).prs.sampleJ = s.prs.sampleJ := rfl
@[simp] theorem State.setCoil_prs_loading (s : State) (n : Nat) (f : Coil → Coil) : (s.setCoil n f).prs.loading = s.prs.loading := rfl
@[simp] theorem State.setCoil_prs_lddone (s : State) (n : Nat) (f : Coil → Coil) : (s.setCoil n f).prs.lddone = s.prs.lddone := rfl
@[simp] theorem State.setCoil_prs_ldlate (s : State) (n : Nat) (f : Coil → Coil) : (s.setCoil n f).prs.ldlate = s.prs.ldlate := rfl
@[simp] theorem State.setCoil_prs_copy (s : State) (n : Nat) (f : Coil → Coil) : (s.setCoil n f).prs.copy = s.prs.copy := rfl
@[simp] theorem State.setCoil_prs_lderr (s : State) (n : Nat) (f : Coil → Coil) : (s.setCoil n f).prs.lderr = s.prs.lderr := rfl
@[simp] theorem State.setCoil_prs_ldrep (s : State) (n : Nat) (f : Coil → Coil) : (s.setCoil n f).prs.ldrep = s.prs.ldrep := rfl
@[simp] theorem State.setCoil_led (s : State) (n : Nat) (f : Coil → Coil) : (s.setCoil n f).led = s.led := rfl
@[simp] theorem State.setCoil_grn (s : State) (n : Nat) (f : Coil → Coil) : (s.setCoil n f).grn = s.grn := rfl
@[simp] theorem State.setCoil_pwr (s : State) (n : Nat) (f : Coil → Coil) : (s.setCoil n f).pwr = s.pwr := rfl
@[simp] theorem State.setCoil_can (s : State) (n : Nat) (f : Coil → Coil) : (s.setCoil n f).can = s.can := rfl
@[simp] theorem State.setCoil_lin (s : State) (n : Nat) (f : Coil → Coil) : (s.setCoil n f).lin = s.lin := rfl
@[simp] theorem State.setCoil_nm (s : State) (n : Nat) (f : Coil → Coil) : (s.setCoil n f).nm = s.nm := rfl
@[simp] theorem State.setCoil_eth (s : State) (n : Nat) (f : Coil → Coil) : (s.setCoil n f).eth = s.eth := rfl
@[simp] theorem State.setCoil_ptp (s : State) (n : Nat) (f : Coil → Coil) : (s.setCoil n f).ptp = s.ptp := rfl
@[simp] theorem State.setCoil_tim (s : State) (n : Nat) (f : Coil → Coil) : (s.setCoil n f).tim = s.tim := rfl
@[simp] theorem State.setCoil_bal (s : State) (n : Nat) (f : Coil → Coil) : (s.setCoil n f).bal = s.bal := rfl
@[simp] theorem State.setCoil_acc (s : State) (n : Nat) (f : Coil → Coil) : (s.setCoil n f).acc = s.acc := rfl
@[simp] theorem State.setCoil_hst (s : State) (n : Nat) (f : Coil → Coil) : (s.setCoil n f).hst = s.hst := rfl
@[simp] theorem State.setCoil_sec (s : State) (n : Nat) (f : Coil → Coil) : (s.setCoil n f).sec = s.sec := rfl
@[simp] theorem State.setCoil_sil (s : State) (n : Nat) (f : Coil → Coil) : (s.setCoil n f).sil = s.sil := rfl
@[simp] theorem State.setCoil_gln (s : State) (n : Nat) (f : Coil → Coil) : (s.setCoil n f).gln = s.gln := rfl
@[simp] theorem State.setCoil_got (s : State) (n : Nat) (f : Coil → Coil) : (s.setCoil n f).got = s.got := rfl
@[simp] theorem State.setCoil_ack (s : State) (n : Nat) (f : Coil → Coil) : (s.setCoil n f).ack = s.ack := rfl
@[simp] theorem State.setCoil_core (s : State) (n : Nat) (f : Coil → Coil) : (s.setCoil n f).core = s.core := rfl
@[simp] theorem State.setCoil_free (s : State) (n : Nat) (f : Coil → Coil) : (s.setCoil n f).free = s.free := rfl
@[simp] theorem State.setCoil_pending (s : State) (n : Nat) (f : Coil → Coil) : (s.setCoil n f).pending = s.pending := rfl

@[simp] theorem State.setPbank_regs (s : State) (b : Nat) (f : Bank → Bank) : (s.setPbank b f).regs = s.regs := rfl
@[simp] theorem State.setPbank_mem (s : State) (b : Nat) (f : Bank → Bank) : (s.setPbank b f).mem = s.mem := rfl
@[simp] theorem State.setPbank_count (s : State) (b : Nat) (f : Bank → Bank) : (s.setPbank b f).count = s.count := rfl
@[simp] theorem State.setPbank_pins (s : State) (b : Nat) (f : Bank → Bank) : (s.setPbank b f).pins = s.pins := rfl
@[simp] theorem State.setPbank_frm (s : State) (b : Nat) (f : Bank → Bank) : (s.setPbank b f).frm = s.frm := rfl
@[simp] theorem State.setPbank_sw (s : State) (b : Nat) (f : Bank → Bank) : (s.setPbank b f).sw = s.sw := rfl
@[simp] theorem State.setPbank_win (s : State) (b : Nat) (f : Bank → Bank) : (s.setPbank b f).win = s.win := rfl
@[simp] theorem State.setPbank_inp (s : State) (b : Nat) (f : Bank → Bank) : (s.setPbank b f).inp = s.inp := rfl
@[simp] theorem State.setPbank_prs_coil (s : State) (b : Nat) (f : Bank → Bank) : (s.setPbank b f).prs.coil = s.prs.coil := rfl
@[simp] theorem State.setPbank_prs_px (s : State) (b : Nat) (f : Bank → Bank) : (s.setPbank b f).prs.px = s.prs.px := rfl
@[simp] theorem State.setPbank_prs_sampleJ (s : State) (b : Nat) (f : Bank → Bank) : (s.setPbank b f).prs.sampleJ = s.prs.sampleJ := rfl
@[simp] theorem State.setPbank_prs_loading (s : State) (b : Nat) (f : Bank → Bank) : (s.setPbank b f).prs.loading = s.prs.loading := rfl
@[simp] theorem State.setPbank_prs_lddone (s : State) (b : Nat) (f : Bank → Bank) : (s.setPbank b f).prs.lddone = s.prs.lddone := rfl
@[simp] theorem State.setPbank_prs_ldlate (s : State) (b : Nat) (f : Bank → Bank) : (s.setPbank b f).prs.ldlate = s.prs.ldlate := rfl
@[simp] theorem State.setPbank_prs_copy (s : State) (b : Nat) (f : Bank → Bank) : (s.setPbank b f).prs.copy = s.prs.copy := rfl
@[simp] theorem State.setPbank_prs_lderr (s : State) (b : Nat) (f : Bank → Bank) : (s.setPbank b f).prs.lderr = s.prs.lderr := rfl
@[simp] theorem State.setPbank_prs_ldrep (s : State) (b : Nat) (f : Bank → Bank) : (s.setPbank b f).prs.ldrep = s.prs.ldrep := rfl
@[simp] theorem State.setPbank_led (s : State) (b : Nat) (f : Bank → Bank) : (s.setPbank b f).led = s.led := rfl
@[simp] theorem State.setPbank_grn (s : State) (b : Nat) (f : Bank → Bank) : (s.setPbank b f).grn = s.grn := rfl
@[simp] theorem State.setPbank_pwr (s : State) (b : Nat) (f : Bank → Bank) : (s.setPbank b f).pwr = s.pwr := rfl
@[simp] theorem State.setPbank_can (s : State) (b : Nat) (f : Bank → Bank) : (s.setPbank b f).can = s.can := rfl
@[simp] theorem State.setPbank_lin (s : State) (b : Nat) (f : Bank → Bank) : (s.setPbank b f).lin = s.lin := rfl
@[simp] theorem State.setPbank_nm (s : State) (b : Nat) (f : Bank → Bank) : (s.setPbank b f).nm = s.nm := rfl
@[simp] theorem State.setPbank_eth (s : State) (b : Nat) (f : Bank → Bank) : (s.setPbank b f).eth = s.eth := rfl
@[simp] theorem State.setPbank_ptp (s : State) (b : Nat) (f : Bank → Bank) : (s.setPbank b f).ptp = s.ptp := rfl
@[simp] theorem State.setPbank_tim (s : State) (b : Nat) (f : Bank → Bank) : (s.setPbank b f).tim = s.tim := rfl
@[simp] theorem State.setPbank_bal (s : State) (b : Nat) (f : Bank → Bank) : (s.setPbank b f).bal = s.bal := rfl
@[simp] theorem State.setPbank_acc (s : State) (b : Nat) (f : Bank → Bank) : (s.setPbank b f).acc = s.acc := rfl
@[simp] theorem State.setPbank_hst (s : State) (b : Nat) (f : Bank → Bank) : (s.setPbank b f).hst = s.hst := rfl
@[simp] theorem State.setPbank_sec (s : State) (b : Nat) (f : Bank → Bank) : (s.setPbank b f).sec = s.sec := rfl
@[simp] theorem State.setPbank_sil (s : State) (b : Nat) (f : Bank → Bank) : (s.setPbank b f).sil = s.sil := rfl
@[simp] theorem State.setPbank_gln (s : State) (b : Nat) (f : Bank → Bank) : (s.setPbank b f).gln = s.gln := rfl
@[simp] theorem State.setPbank_got (s : State) (b : Nat) (f : Bank → Bank) : (s.setPbank b f).got = s.got := rfl
@[simp] theorem State.setPbank_ack (s : State) (b : Nat) (f : Bank → Bank) : (s.setPbank b f).ack = s.ack := rfl
@[simp] theorem State.setPbank_core (s : State) (b : Nat) (f : Bank → Bank) : (s.setPbank b f).core = s.core := rfl
@[simp] theorem State.setPbank_free (s : State) (b : Nat) (f : Bank → Bank) : (s.setPbank b f).free = s.free := rfl
@[simp] theorem State.setPbank_pending (s : State) (b : Nat) (f : Bank → Bank) : (s.setPbank b f).pending = s.pending := rfl

@[simp] theorem State.setPx_regs (s : State) (x : Nat) (f : Px → Px) : (s.setPx x f).regs = s.regs := rfl
@[simp] theorem State.setPx_mem (s : State) (x : Nat) (f : Px → Px) : (s.setPx x f).mem = s.mem := rfl
@[simp] theorem State.setPx_count (s : State) (x : Nat) (f : Px → Px) : (s.setPx x f).count = s.count := rfl
@[simp] theorem State.setPx_pins (s : State) (x : Nat) (f : Px → Px) : (s.setPx x f).pins = s.pins := rfl
@[simp] theorem State.setPx_frm (s : State) (x : Nat) (f : Px → Px) : (s.setPx x f).frm = s.frm := rfl
@[simp] theorem State.setPx_sw (s : State) (x : Nat) (f : Px → Px) : (s.setPx x f).sw = s.sw := rfl
@[simp] theorem State.setPx_win (s : State) (x : Nat) (f : Px → Px) : (s.setPx x f).win = s.win := rfl
@[simp] theorem State.setPx_inp (s : State) (x : Nat) (f : Px → Px) : (s.setPx x f).inp = s.inp := rfl
@[simp] theorem State.setPx_prs_coil (s : State) (x : Nat) (f : Px → Px) : (s.setPx x f).prs.coil = s.prs.coil := rfl
@[simp] theorem State.setPx_prs_bank (s : State) (x : Nat) (f : Px → Px) : (s.setPx x f).prs.bank = s.prs.bank := rfl
@[simp] theorem State.setPx_prs_sampleJ (s : State) (x : Nat) (f : Px → Px) : (s.setPx x f).prs.sampleJ = s.prs.sampleJ := rfl
@[simp] theorem State.setPx_prs_loading (s : State) (x : Nat) (f : Px → Px) : (s.setPx x f).prs.loading = s.prs.loading := rfl
@[simp] theorem State.setPx_prs_lddone (s : State) (x : Nat) (f : Px → Px) : (s.setPx x f).prs.lddone = s.prs.lddone := rfl
@[simp] theorem State.setPx_prs_ldlate (s : State) (x : Nat) (f : Px → Px) : (s.setPx x f).prs.ldlate = s.prs.ldlate := rfl
@[simp] theorem State.setPx_prs_copy (s : State) (x : Nat) (f : Px → Px) : (s.setPx x f).prs.copy = s.prs.copy := rfl
@[simp] theorem State.setPx_prs_lderr (s : State) (x : Nat) (f : Px → Px) : (s.setPx x f).prs.lderr = s.prs.lderr := rfl
@[simp] theorem State.setPx_prs_ldrep (s : State) (x : Nat) (f : Px → Px) : (s.setPx x f).prs.ldrep = s.prs.ldrep := rfl
@[simp] theorem State.setPx_led (s : State) (x : Nat) (f : Px → Px) : (s.setPx x f).led = s.led := rfl
@[simp] theorem State.setPx_grn (s : State) (x : Nat) (f : Px → Px) : (s.setPx x f).grn = s.grn := rfl
@[simp] theorem State.setPx_pwr (s : State) (x : Nat) (f : Px → Px) : (s.setPx x f).pwr = s.pwr := rfl
@[simp] theorem State.setPx_can (s : State) (x : Nat) (f : Px → Px) : (s.setPx x f).can = s.can := rfl
@[simp] theorem State.setPx_lin (s : State) (x : Nat) (f : Px → Px) : (s.setPx x f).lin = s.lin := rfl
@[simp] theorem State.setPx_nm (s : State) (x : Nat) (f : Px → Px) : (s.setPx x f).nm = s.nm := rfl
@[simp] theorem State.setPx_eth (s : State) (x : Nat) (f : Px → Px) : (s.setPx x f).eth = s.eth := rfl
@[simp] theorem State.setPx_ptp (s : State) (x : Nat) (f : Px → Px) : (s.setPx x f).ptp = s.ptp := rfl
@[simp] theorem State.setPx_tim (s : State) (x : Nat) (f : Px → Px) : (s.setPx x f).tim = s.tim := rfl
@[simp] theorem State.setPx_bal (s : State) (x : Nat) (f : Px → Px) : (s.setPx x f).bal = s.bal := rfl
@[simp] theorem State.setPx_acc (s : State) (x : Nat) (f : Px → Px) : (s.setPx x f).acc = s.acc := rfl
@[simp] theorem State.setPx_hst (s : State) (x : Nat) (f : Px → Px) : (s.setPx x f).hst = s.hst := rfl
@[simp] theorem State.setPx_sec (s : State) (x : Nat) (f : Px → Px) : (s.setPx x f).sec = s.sec := rfl
@[simp] theorem State.setPx_sil (s : State) (x : Nat) (f : Px → Px) : (s.setPx x f).sil = s.sil := rfl
@[simp] theorem State.setPx_gln (s : State) (x : Nat) (f : Px → Px) : (s.setPx x f).gln = s.gln := rfl
@[simp] theorem State.setPx_got (s : State) (x : Nat) (f : Px → Px) : (s.setPx x f).got = s.got := rfl
@[simp] theorem State.setPx_ack (s : State) (x : Nat) (f : Px → Px) : (s.setPx x f).ack = s.ack := rfl
@[simp] theorem State.setPx_core (s : State) (x : Nat) (f : Px → Px) : (s.setPx x f).core = s.core := rfl
@[simp] theorem State.setPx_free (s : State) (x : Nat) (f : Px → Px) : (s.setPx x f).free = s.free := rfl
@[simp] theorem State.setPx_pending (s : State) (x : Nat) (f : Px → Px) : (s.setPx x f).pending = s.pending := rfl

@[simp] theorem State.setSink_regs (s : State) (n : Nat) (f : Led → Led) : (s.setSink n f).regs = s.regs := rfl
@[simp] theorem State.setSink_mem (s : State) (n : Nat) (f : Led → Led) : (s.setSink n f).mem = s.mem := rfl
@[simp] theorem State.setSink_count (s : State) (n : Nat) (f : Led → Led) : (s.setSink n f).count = s.count := rfl
@[simp] theorem State.setSink_pins (s : State) (n : Nat) (f : Led → Led) : (s.setSink n f).pins = s.pins := rfl
@[simp] theorem State.setSink_frm (s : State) (n : Nat) (f : Led → Led) : (s.setSink n f).frm = s.frm := rfl
@[simp] theorem State.setSink_sw (s : State) (n : Nat) (f : Led → Led) : (s.setSink n f).sw = s.sw := rfl
@[simp] theorem State.setSink_win (s : State) (n : Nat) (f : Led → Led) : (s.setSink n f).win = s.win := rfl
@[simp] theorem State.setSink_inp (s : State) (n : Nat) (f : Led → Led) : (s.setSink n f).inp = s.inp := rfl
@[simp] theorem State.setSink_prs (s : State) (n : Nat) (f : Led → Led) : (s.setSink n f).prs = s.prs := rfl
@[simp] theorem State.setSink_grn (s : State) (n : Nat) (f : Led → Led) : (s.setSink n f).grn = s.grn := rfl
@[simp] theorem State.setSink_pwr (s : State) (n : Nat) (f : Led → Led) : (s.setSink n f).pwr = s.pwr := rfl
@[simp] theorem State.setSink_can (s : State) (n : Nat) (f : Led → Led) : (s.setSink n f).can = s.can := rfl
@[simp] theorem State.setSink_lin (s : State) (n : Nat) (f : Led → Led) : (s.setSink n f).lin = s.lin := rfl
@[simp] theorem State.setSink_nm (s : State) (n : Nat) (f : Led → Led) : (s.setSink n f).nm = s.nm := rfl
@[simp] theorem State.setSink_eth (s : State) (n : Nat) (f : Led → Led) : (s.setSink n f).eth = s.eth := rfl
@[simp] theorem State.setSink_ptp (s : State) (n : Nat) (f : Led → Led) : (s.setSink n f).ptp = s.ptp := rfl
@[simp] theorem State.setSink_tim (s : State) (n : Nat) (f : Led → Led) : (s.setSink n f).tim = s.tim := rfl
@[simp] theorem State.setSink_bal (s : State) (n : Nat) (f : Led → Led) : (s.setSink n f).bal = s.bal := rfl
@[simp] theorem State.setSink_acc (s : State) (n : Nat) (f : Led → Led) : (s.setSink n f).acc = s.acc := rfl
@[simp] theorem State.setSink_hst (s : State) (n : Nat) (f : Led → Led) : (s.setSink n f).hst = s.hst := rfl
@[simp] theorem State.setSink_sec (s : State) (n : Nat) (f : Led → Led) : (s.setSink n f).sec = s.sec := rfl
@[simp] theorem State.setSink_sil (s : State) (n : Nat) (f : Led → Led) : (s.setSink n f).sil = s.sil := rfl
@[simp] theorem State.setSink_gln (s : State) (n : Nat) (f : Led → Led) : (s.setSink n f).gln = s.gln := rfl
@[simp] theorem State.setSink_got (s : State) (n : Nat) (f : Led → Led) : (s.setSink n f).got = s.got := rfl
@[simp] theorem State.setSink_ack (s : State) (n : Nat) (f : Led → Led) : (s.setSink n f).ack = s.ack := rfl
@[simp] theorem State.setSink_core (s : State) (n : Nat) (f : Led → Led) : (s.setSink n f).core = s.core := rfl
@[simp] theorem State.setSink_free (s : State) (n : Nat) (f : Led → Led) : (s.setSink n f).free = s.free := rfl
@[simp] theorem State.setSink_pending (s : State) (n : Nat) (f : Led → Led) : (s.setSink n f).pending = s.pending := rfl

@[simp] theorem State.setGbank_regs (s : State) (b : Nat) (f : GBank → GBank) : (s.setGbank b f).regs = s.regs := rfl
@[simp] theorem State.setGbank_mem (s : State) (b : Nat) (f : GBank → GBank) : (s.setGbank b f).mem = s.mem := rfl
@[simp] theorem State.setGbank_count (s : State) (b : Nat) (f : GBank → GBank) : (s.setGbank b f).count = s.count := rfl
@[simp] theorem State.setGbank_pins (s : State) (b : Nat) (f : GBank → GBank) : (s.setGbank b f).pins = s.pins := rfl
@[simp] theorem State.setGbank_frm (s : State) (b : Nat) (f : GBank → GBank) : (s.setGbank b f).frm = s.frm := rfl
@[simp] theorem State.setGbank_sw (s : State) (b : Nat) (f : GBank → GBank) : (s.setGbank b f).sw = s.sw := rfl
@[simp] theorem State.setGbank_win (s : State) (b : Nat) (f : GBank → GBank) : (s.setGbank b f).win = s.win := rfl
@[simp] theorem State.setGbank_inp (s : State) (b : Nat) (f : GBank → GBank) : (s.setGbank b f).inp = s.inp := rfl
@[simp] theorem State.setGbank_prs (s : State) (b : Nat) (f : GBank → GBank) : (s.setGbank b f).prs = s.prs := rfl
@[simp] theorem State.setGbank_led (s : State) (b : Nat) (f : GBank → GBank) : (s.setGbank b f).led = s.led := rfl
@[simp] theorem State.setGbank_grn_got (s : State) (b : Nat) (f : GBank → GBank) : (s.setGbank b f).grn.got = s.grn.got := rfl
@[simp] theorem State.setGbank_grn_got2 (s : State) (b : Nat) (f : GBank → GBank) : (s.setGbank b f).grn.got2 = s.grn.got2 := rfl
@[simp] theorem State.setGbank_pwr (s : State) (b : Nat) (f : GBank → GBank) : (s.setGbank b f).pwr = s.pwr := rfl
@[simp] theorem State.setGbank_can (s : State) (b : Nat) (f : GBank → GBank) : (s.setGbank b f).can = s.can := rfl
@[simp] theorem State.setGbank_lin (s : State) (b : Nat) (f : GBank → GBank) : (s.setGbank b f).lin = s.lin := rfl
@[simp] theorem State.setGbank_nm (s : State) (b : Nat) (f : GBank → GBank) : (s.setGbank b f).nm = s.nm := rfl
@[simp] theorem State.setGbank_eth (s : State) (b : Nat) (f : GBank → GBank) : (s.setGbank b f).eth = s.eth := rfl
@[simp] theorem State.setGbank_ptp (s : State) (b : Nat) (f : GBank → GBank) : (s.setGbank b f).ptp = s.ptp := rfl
@[simp] theorem State.setGbank_tim (s : State) (b : Nat) (f : GBank → GBank) : (s.setGbank b f).tim = s.tim := rfl
@[simp] theorem State.setGbank_bal (s : State) (b : Nat) (f : GBank → GBank) : (s.setGbank b f).bal = s.bal := rfl
@[simp] theorem State.setGbank_acc (s : State) (b : Nat) (f : GBank → GBank) : (s.setGbank b f).acc = s.acc := rfl
@[simp] theorem State.setGbank_hst (s : State) (b : Nat) (f : GBank → GBank) : (s.setGbank b f).hst = s.hst := rfl
@[simp] theorem State.setGbank_sec (s : State) (b : Nat) (f : GBank → GBank) : (s.setGbank b f).sec = s.sec := rfl
@[simp] theorem State.setGbank_sil (s : State) (b : Nat) (f : GBank → GBank) : (s.setGbank b f).sil = s.sil := rfl
@[simp] theorem State.setGbank_gln (s : State) (b : Nat) (f : GBank → GBank) : (s.setGbank b f).gln = s.gln := rfl
@[simp] theorem State.setGbank_got (s : State) (b : Nat) (f : GBank → GBank) : (s.setGbank b f).got = s.got := rfl
@[simp] theorem State.setGbank_ack (s : State) (b : Nat) (f : GBank → GBank) : (s.setGbank b f).ack = s.ack := rfl
@[simp] theorem State.setGbank_core (s : State) (b : Nat) (f : GBank → GBank) : (s.setGbank b f).core = s.core := rfl
@[simp] theorem State.setGbank_free (s : State) (b : Nat) (f : GBank → GBank) : (s.setGbank b f).free = s.free := rfl
@[simp] theorem State.setGbank_pending (s : State) (b : Nat) (f : GBank → GBank) : (s.setGbank b f).pending = s.pending := rfl

@[simp] theorem State.setDom_regs (s : State) (d : Nat) (f : Dom → Dom) : (s.setDom d f).regs = s.regs := rfl
@[simp] theorem State.setDom_mem (s : State) (d : Nat) (f : Dom → Dom) : (s.setDom d f).mem = s.mem := rfl
@[simp] theorem State.setDom_count (s : State) (d : Nat) (f : Dom → Dom) : (s.setDom d f).count = s.count := rfl
@[simp] theorem State.setDom_pins (s : State) (d : Nat) (f : Dom → Dom) : (s.setDom d f).pins = s.pins := rfl
@[simp] theorem State.setDom_frm (s : State) (d : Nat) (f : Dom → Dom) : (s.setDom d f).frm = s.frm := rfl
@[simp] theorem State.setDom_sw (s : State) (d : Nat) (f : Dom → Dom) : (s.setDom d f).sw = s.sw := rfl
@[simp] theorem State.setDom_win (s : State) (d : Nat) (f : Dom → Dom) : (s.setDom d f).win = s.win := rfl
@[simp] theorem State.setDom_inp (s : State) (d : Nat) (f : Dom → Dom) : (s.setDom d f).inp = s.inp := rfl
@[simp] theorem State.setDom_prs (s : State) (d : Nat) (f : Dom → Dom) : (s.setDom d f).prs = s.prs := rfl
@[simp] theorem State.setDom_led (s : State) (d : Nat) (f : Dom → Dom) : (s.setDom d f).led = s.led := rfl
@[simp] theorem State.setDom_grn (s : State) (d : Nat) (f : Dom → Dom) : (s.setDom d f).grn = s.grn := rfl
@[simp] theorem State.setDom_pwr_grp (s : State) (d : Nat) (f : Dom → Dom) : (s.setDom d f).pwr.grp = s.pwr.grp := rfl
@[simp] theorem State.setDom_pwr_pause (s : State) (d : Nat) (f : Dom → Dom) : (s.setDom d f).pwr.pause = s.pwr.pause := rfl
@[simp] theorem State.setDom_pwr_resumed (s : State) (d : Nat) (f : Dom → Dom) : (s.setDom d f).pwr.resumed = s.pwr.resumed := rfl
@[simp] theorem State.setDom_pwr_phaseOut (s : State) (d : Nat) (f : Dom → Dom) : (s.setDom d f).pwr.phaseOut = s.pwr.phaseOut := rfl
@[simp] theorem State.setDom_pwr_phaseBad (s : State) (d : Nat) (f : Dom → Dom) : (s.setDom d f).pwr.phaseBad = s.pwr.phaseBad := rfl
@[simp] theorem State.setDom_pwr_onRc (s : State) (d : Nat) (f : Dom → Dom) : (s.setDom d f).pwr.onRc = s.pwr.onRc := rfl
@[simp] theorem State.setDom_pwr_aonStop (s : State) (d : Nat) (f : Dom → Dom) : (s.setDom d f).pwr.aonStop = s.pwr.aonStop := rfl
@[simp] theorem State.setDom_can (s : State) (d : Nat) (f : Dom → Dom) : (s.setDom d f).can = s.can := rfl
@[simp] theorem State.setDom_lin (s : State) (d : Nat) (f : Dom → Dom) : (s.setDom d f).lin = s.lin := rfl
@[simp] theorem State.setDom_nm (s : State) (d : Nat) (f : Dom → Dom) : (s.setDom d f).nm = s.nm := rfl
@[simp] theorem State.setDom_eth (s : State) (d : Nat) (f : Dom → Dom) : (s.setDom d f).eth = s.eth := rfl
@[simp] theorem State.setDom_ptp (s : State) (d : Nat) (f : Dom → Dom) : (s.setDom d f).ptp = s.ptp := rfl
@[simp] theorem State.setDom_tim (s : State) (d : Nat) (f : Dom → Dom) : (s.setDom d f).tim = s.tim := rfl
@[simp] theorem State.setDom_bal (s : State) (d : Nat) (f : Dom → Dom) : (s.setDom d f).bal = s.bal := rfl
@[simp] theorem State.setDom_acc (s : State) (d : Nat) (f : Dom → Dom) : (s.setDom d f).acc = s.acc := rfl
@[simp] theorem State.setDom_hst (s : State) (d : Nat) (f : Dom → Dom) : (s.setDom d f).hst = s.hst := rfl
@[simp] theorem State.setDom_sec (s : State) (d : Nat) (f : Dom → Dom) : (s.setDom d f).sec = s.sec := rfl
@[simp] theorem State.setDom_sil (s : State) (d : Nat) (f : Dom → Dom) : (s.setDom d f).sil = s.sil := rfl
@[simp] theorem State.setDom_gln (s : State) (d : Nat) (f : Dom → Dom) : (s.setDom d f).gln = s.gln := rfl
@[simp] theorem State.setDom_got (s : State) (d : Nat) (f : Dom → Dom) : (s.setDom d f).got = s.got := rfl
@[simp] theorem State.setDom_ack (s : State) (d : Nat) (f : Dom → Dom) : (s.setDom d f).ack = s.ack := rfl
@[simp] theorem State.setDom_core (s : State) (d : Nat) (f : Dom → Dom) : (s.setDom d f).core = s.core := rfl
@[simp] theorem State.setDom_free (s : State) (d : Nat) (f : Dom → Dom) : (s.setDom d f).free = s.free := rfl
@[simp] theorem State.setDom_pending (s : State) (d : Nat) (f : Dom → Dom) : (s.setDom d f).pending = s.pending := rfl

@[simp] theorem State.setGrp_regs (s : State) (g : Nat) (f : Grp → Grp) : (s.setGrp g f).regs = s.regs := rfl
@[simp] theorem State.setGrp_mem (s : State) (g : Nat) (f : Grp → Grp) : (s.setGrp g f).mem = s.mem := rfl
@[simp] theorem State.setGrp_count (s : State) (g : Nat) (f : Grp → Grp) : (s.setGrp g f).count = s.count := rfl
@[simp] theorem State.setGrp_pins (s : State) (g : Nat) (f : Grp → Grp) : (s.setGrp g f).pins = s.pins := rfl
@[simp] theorem State.setGrp_frm (s : State) (g : Nat) (f : Grp → Grp) : (s.setGrp g f).frm = s.frm := rfl
@[simp] theorem State.setGrp_sw (s : State) (g : Nat) (f : Grp → Grp) : (s.setGrp g f).sw = s.sw := rfl
@[simp] theorem State.setGrp_win (s : State) (g : Nat) (f : Grp → Grp) : (s.setGrp g f).win = s.win := rfl
@[simp] theorem State.setGrp_inp (s : State) (g : Nat) (f : Grp → Grp) : (s.setGrp g f).inp = s.inp := rfl
@[simp] theorem State.setGrp_prs (s : State) (g : Nat) (f : Grp → Grp) : (s.setGrp g f).prs = s.prs := rfl
@[simp] theorem State.setGrp_led (s : State) (g : Nat) (f : Grp → Grp) : (s.setGrp g f).led = s.led := rfl
@[simp] theorem State.setGrp_grn (s : State) (g : Nat) (f : Grp → Grp) : (s.setGrp g f).grn = s.grn := rfl
@[simp] theorem State.setGrp_pwr_dom (s : State) (g : Nat) (f : Grp → Grp) : (s.setGrp g f).pwr.dom = s.pwr.dom := rfl
@[simp] theorem State.setGrp_pwr_pause (s : State) (g : Nat) (f : Grp → Grp) : (s.setGrp g f).pwr.pause = s.pwr.pause := rfl
@[simp] theorem State.setGrp_pwr_resumed (s : State) (g : Nat) (f : Grp → Grp) : (s.setGrp g f).pwr.resumed = s.pwr.resumed := rfl
@[simp] theorem State.setGrp_pwr_phaseOut (s : State) (g : Nat) (f : Grp → Grp) : (s.setGrp g f).pwr.phaseOut = s.pwr.phaseOut := rfl
@[simp] theorem State.setGrp_pwr_phaseBad (s : State) (g : Nat) (f : Grp → Grp) : (s.setGrp g f).pwr.phaseBad = s.pwr.phaseBad := rfl
@[simp] theorem State.setGrp_pwr_onRc (s : State) (g : Nat) (f : Grp → Grp) : (s.setGrp g f).pwr.onRc = s.pwr.onRc := rfl
@[simp] theorem State.setGrp_pwr_aonStop (s : State) (g : Nat) (f : Grp → Grp) : (s.setGrp g f).pwr.aonStop = s.pwr.aonStop := rfl
@[simp] theorem State.setGrp_can (s : State) (g : Nat) (f : Grp → Grp) : (s.setGrp g f).can = s.can := rfl
@[simp] theorem State.setGrp_lin (s : State) (g : Nat) (f : Grp → Grp) : (s.setGrp g f).lin = s.lin := rfl
@[simp] theorem State.setGrp_nm (s : State) (g : Nat) (f : Grp → Grp) : (s.setGrp g f).nm = s.nm := rfl
@[simp] theorem State.setGrp_eth (s : State) (g : Nat) (f : Grp → Grp) : (s.setGrp g f).eth = s.eth := rfl
@[simp] theorem State.setGrp_ptp (s : State) (g : Nat) (f : Grp → Grp) : (s.setGrp g f).ptp = s.ptp := rfl
@[simp] theorem State.setGrp_tim (s : State) (g : Nat) (f : Grp → Grp) : (s.setGrp g f).tim = s.tim := rfl
@[simp] theorem State.setGrp_bal (s : State) (g : Nat) (f : Grp → Grp) : (s.setGrp g f).bal = s.bal := rfl
@[simp] theorem State.setGrp_acc (s : State) (g : Nat) (f : Grp → Grp) : (s.setGrp g f).acc = s.acc := rfl
@[simp] theorem State.setGrp_hst (s : State) (g : Nat) (f : Grp → Grp) : (s.setGrp g f).hst = s.hst := rfl
@[simp] theorem State.setGrp_sec (s : State) (g : Nat) (f : Grp → Grp) : (s.setGrp g f).sec = s.sec := rfl
@[simp] theorem State.setGrp_sil (s : State) (g : Nat) (f : Grp → Grp) : (s.setGrp g f).sil = s.sil := rfl
@[simp] theorem State.setGrp_gln (s : State) (g : Nat) (f : Grp → Grp) : (s.setGrp g f).gln = s.gln := rfl
@[simp] theorem State.setGrp_got (s : State) (g : Nat) (f : Grp → Grp) : (s.setGrp g f).got = s.got := rfl
@[simp] theorem State.setGrp_ack (s : State) (g : Nat) (f : Grp → Grp) : (s.setGrp g f).ack = s.ack := rfl
@[simp] theorem State.setGrp_core (s : State) (g : Nat) (f : Grp → Grp) : (s.setGrp g f).core = s.core := rfl
@[simp] theorem State.setGrp_free (s : State) (g : Nat) (f : Grp → Grp) : (s.setGrp g f).free = s.free := rfl
@[simp] theorem State.setGrp_pending (s : State) (g : Nat) (f : Grp → Grp) : (s.setGrp g f).pending = s.pending := rfl

@[simp] theorem State.setCan_regs (s : State) (n : Nat) (f : Can → Can) : (s.setCan n f).regs = s.regs := rfl
@[simp] theorem State.setCan_mem (s : State) (n : Nat) (f : Can → Can) : (s.setCan n f).mem = s.mem := rfl
@[simp] theorem State.setCan_count (s : State) (n : Nat) (f : Can → Can) : (s.setCan n f).count = s.count := rfl
@[simp] theorem State.setCan_pins (s : State) (n : Nat) (f : Can → Can) : (s.setCan n f).pins = s.pins := rfl
@[simp] theorem State.setCan_frm (s : State) (n : Nat) (f : Can → Can) : (s.setCan n f).frm = s.frm := rfl
@[simp] theorem State.setCan_sw (s : State) (n : Nat) (f : Can → Can) : (s.setCan n f).sw = s.sw := rfl
@[simp] theorem State.setCan_win (s : State) (n : Nat) (f : Can → Can) : (s.setCan n f).win = s.win := rfl
@[simp] theorem State.setCan_inp (s : State) (n : Nat) (f : Can → Can) : (s.setCan n f).inp = s.inp := rfl
@[simp] theorem State.setCan_prs (s : State) (n : Nat) (f : Can → Can) : (s.setCan n f).prs = s.prs := rfl
@[simp] theorem State.setCan_led (s : State) (n : Nat) (f : Can → Can) : (s.setCan n f).led = s.led := rfl
@[simp] theorem State.setCan_grn (s : State) (n : Nat) (f : Can → Can) : (s.setCan n f).grn = s.grn := rfl
@[simp] theorem State.setCan_pwr (s : State) (n : Nat) (f : Can → Can) : (s.setCan n f).pwr = s.pwr := rfl
@[simp] theorem State.setCan_lin (s : State) (n : Nat) (f : Can → Can) : (s.setCan n f).lin = s.lin := rfl
@[simp] theorem State.setCan_nm (s : State) (n : Nat) (f : Can → Can) : (s.setCan n f).nm = s.nm := rfl
@[simp] theorem State.setCan_eth (s : State) (n : Nat) (f : Can → Can) : (s.setCan n f).eth = s.eth := rfl
@[simp] theorem State.setCan_ptp (s : State) (n : Nat) (f : Can → Can) : (s.setCan n f).ptp = s.ptp := rfl
@[simp] theorem State.setCan_tim (s : State) (n : Nat) (f : Can → Can) : (s.setCan n f).tim = s.tim := rfl
@[simp] theorem State.setCan_bal (s : State) (n : Nat) (f : Can → Can) : (s.setCan n f).bal = s.bal := rfl
@[simp] theorem State.setCan_acc (s : State) (n : Nat) (f : Can → Can) : (s.setCan n f).acc = s.acc := rfl
@[simp] theorem State.setCan_hst (s : State) (n : Nat) (f : Can → Can) : (s.setCan n f).hst = s.hst := rfl
@[simp] theorem State.setCan_sec (s : State) (n : Nat) (f : Can → Can) : (s.setCan n f).sec = s.sec := rfl
@[simp] theorem State.setCan_sil (s : State) (n : Nat) (f : Can → Can) : (s.setCan n f).sil = s.sil := rfl
@[simp] theorem State.setCan_gln (s : State) (n : Nat) (f : Can → Can) : (s.setCan n f).gln = s.gln := rfl
@[simp] theorem State.setCan_got (s : State) (n : Nat) (f : Can → Can) : (s.setCan n f).got = s.got := rfl
@[simp] theorem State.setCan_ack (s : State) (n : Nat) (f : Can → Can) : (s.setCan n f).ack = s.ack := rfl
@[simp] theorem State.setCan_core (s : State) (n : Nat) (f : Can → Can) : (s.setCan n f).core = s.core := rfl
@[simp] theorem State.setCan_free (s : State) (n : Nat) (f : Can → Can) : (s.setCan n f).free = s.free := rfl
@[simp] theorem State.setCan_pending (s : State) (n : Nat) (f : Can → Can) : (s.setCan n f).pending = s.pending := rfl

@[simp] theorem State.setLin_regs (s : State) (n : Nat) (f : Lin → Lin) : (s.setLin n f).regs = s.regs := rfl
@[simp] theorem State.setLin_mem (s : State) (n : Nat) (f : Lin → Lin) : (s.setLin n f).mem = s.mem := rfl
@[simp] theorem State.setLin_count (s : State) (n : Nat) (f : Lin → Lin) : (s.setLin n f).count = s.count := rfl
@[simp] theorem State.setLin_pins (s : State) (n : Nat) (f : Lin → Lin) : (s.setLin n f).pins = s.pins := rfl
@[simp] theorem State.setLin_frm (s : State) (n : Nat) (f : Lin → Lin) : (s.setLin n f).frm = s.frm := rfl
@[simp] theorem State.setLin_sw (s : State) (n : Nat) (f : Lin → Lin) : (s.setLin n f).sw = s.sw := rfl
@[simp] theorem State.setLin_win (s : State) (n : Nat) (f : Lin → Lin) : (s.setLin n f).win = s.win := rfl
@[simp] theorem State.setLin_inp (s : State) (n : Nat) (f : Lin → Lin) : (s.setLin n f).inp = s.inp := rfl
@[simp] theorem State.setLin_prs (s : State) (n : Nat) (f : Lin → Lin) : (s.setLin n f).prs = s.prs := rfl
@[simp] theorem State.setLin_led (s : State) (n : Nat) (f : Lin → Lin) : (s.setLin n f).led = s.led := rfl
@[simp] theorem State.setLin_grn (s : State) (n : Nat) (f : Lin → Lin) : (s.setLin n f).grn = s.grn := rfl
@[simp] theorem State.setLin_pwr (s : State) (n : Nat) (f : Lin → Lin) : (s.setLin n f).pwr = s.pwr := rfl
@[simp] theorem State.setLin_can (s : State) (n : Nat) (f : Lin → Lin) : (s.setLin n f).can = s.can := rfl
@[simp] theorem State.setLin_nm (s : State) (n : Nat) (f : Lin → Lin) : (s.setLin n f).nm = s.nm := rfl
@[simp] theorem State.setLin_eth (s : State) (n : Nat) (f : Lin → Lin) : (s.setLin n f).eth = s.eth := rfl
@[simp] theorem State.setLin_ptp (s : State) (n : Nat) (f : Lin → Lin) : (s.setLin n f).ptp = s.ptp := rfl
@[simp] theorem State.setLin_tim (s : State) (n : Nat) (f : Lin → Lin) : (s.setLin n f).tim = s.tim := rfl
@[simp] theorem State.setLin_bal (s : State) (n : Nat) (f : Lin → Lin) : (s.setLin n f).bal = s.bal := rfl
@[simp] theorem State.setLin_acc (s : State) (n : Nat) (f : Lin → Lin) : (s.setLin n f).acc = s.acc := rfl
@[simp] theorem State.setLin_hst (s : State) (n : Nat) (f : Lin → Lin) : (s.setLin n f).hst = s.hst := rfl
@[simp] theorem State.setLin_sec (s : State) (n : Nat) (f : Lin → Lin) : (s.setLin n f).sec = s.sec := rfl
@[simp] theorem State.setLin_sil (s : State) (n : Nat) (f : Lin → Lin) : (s.setLin n f).sil = s.sil := rfl
@[simp] theorem State.setLin_gln (s : State) (n : Nat) (f : Lin → Lin) : (s.setLin n f).gln = s.gln := rfl
@[simp] theorem State.setLin_got (s : State) (n : Nat) (f : Lin → Lin) : (s.setLin n f).got = s.got := rfl
@[simp] theorem State.setLin_ack (s : State) (n : Nat) (f : Lin → Lin) : (s.setLin n f).ack = s.ack := rfl
@[simp] theorem State.setLin_core (s : State) (n : Nat) (f : Lin → Lin) : (s.setLin n f).core = s.core := rfl
@[simp] theorem State.setLin_free (s : State) (n : Nat) (f : Lin → Lin) : (s.setLin n f).free = s.free := rfl
@[simp] theorem State.setLin_pending (s : State) (n : Nat) (f : Lin → Lin) : (s.setLin n f).pending = s.pending := rfl

@[simp] theorem State.setNm_regs (s : State) (f : Nm → Nm) : (s.setNm f).regs = s.regs := rfl
@[simp] theorem State.setNm_mem (s : State) (f : Nm → Nm) : (s.setNm f).mem = s.mem := rfl
@[simp] theorem State.setNm_count (s : State) (f : Nm → Nm) : (s.setNm f).count = s.count := rfl
@[simp] theorem State.setNm_pins (s : State) (f : Nm → Nm) : (s.setNm f).pins = s.pins := rfl
@[simp] theorem State.setNm_frm (s : State) (f : Nm → Nm) : (s.setNm f).frm = s.frm := rfl
@[simp] theorem State.setNm_sw (s : State) (f : Nm → Nm) : (s.setNm f).sw = s.sw := rfl
@[simp] theorem State.setNm_win (s : State) (f : Nm → Nm) : (s.setNm f).win = s.win := rfl
@[simp] theorem State.setNm_inp (s : State) (f : Nm → Nm) : (s.setNm f).inp = s.inp := rfl
@[simp] theorem State.setNm_prs (s : State) (f : Nm → Nm) : (s.setNm f).prs = s.prs := rfl
@[simp] theorem State.setNm_led (s : State) (f : Nm → Nm) : (s.setNm f).led = s.led := rfl
@[simp] theorem State.setNm_grn (s : State) (f : Nm → Nm) : (s.setNm f).grn = s.grn := rfl
@[simp] theorem State.setNm_pwr (s : State) (f : Nm → Nm) : (s.setNm f).pwr = s.pwr := rfl
@[simp] theorem State.setNm_can (s : State) (f : Nm → Nm) : (s.setNm f).can = s.can := rfl
@[simp] theorem State.setNm_lin (s : State) (f : Nm → Nm) : (s.setNm f).lin = s.lin := rfl
@[simp] theorem State.setNm_eth (s : State) (f : Nm → Nm) : (s.setNm f).eth = s.eth := rfl
@[simp] theorem State.setNm_ptp (s : State) (f : Nm → Nm) : (s.setNm f).ptp = s.ptp := rfl
@[simp] theorem State.setNm_tim (s : State) (f : Nm → Nm) : (s.setNm f).tim = s.tim := rfl
@[simp] theorem State.setNm_bal (s : State) (f : Nm → Nm) : (s.setNm f).bal = s.bal := rfl
@[simp] theorem State.setNm_acc (s : State) (f : Nm → Nm) : (s.setNm f).acc = s.acc := rfl
@[simp] theorem State.setNm_hst (s : State) (f : Nm → Nm) : (s.setNm f).hst = s.hst := rfl
@[simp] theorem State.setNm_sec (s : State) (f : Nm → Nm) : (s.setNm f).sec = s.sec := rfl
@[simp] theorem State.setNm_sil (s : State) (f : Nm → Nm) : (s.setNm f).sil = s.sil := rfl
@[simp] theorem State.setNm_gln (s : State) (f : Nm → Nm) : (s.setNm f).gln = s.gln := rfl
@[simp] theorem State.setNm_got (s : State) (f : Nm → Nm) : (s.setNm f).got = s.got := rfl
@[simp] theorem State.setNm_ack (s : State) (f : Nm → Nm) : (s.setNm f).ack = s.ack := rfl
@[simp] theorem State.setNm_core (s : State) (f : Nm → Nm) : (s.setNm f).core = s.core := rfl
@[simp] theorem State.setNm_free (s : State) (f : Nm → Nm) : (s.setNm f).free = s.free := rfl
@[simp] theorem State.setNm_pending (s : State) (f : Nm → Nm) : (s.setNm f).pending = s.pending := rfl

@[simp] theorem State.setEth_regs (s : State) (f : Eth → Eth) : (s.setEth f).regs = s.regs := rfl
@[simp] theorem State.setEth_mem (s : State) (f : Eth → Eth) : (s.setEth f).mem = s.mem := rfl
@[simp] theorem State.setEth_count (s : State) (f : Eth → Eth) : (s.setEth f).count = s.count := rfl
@[simp] theorem State.setEth_pins (s : State) (f : Eth → Eth) : (s.setEth f).pins = s.pins := rfl
@[simp] theorem State.setEth_frm (s : State) (f : Eth → Eth) : (s.setEth f).frm = s.frm := rfl
@[simp] theorem State.setEth_sw (s : State) (f : Eth → Eth) : (s.setEth f).sw = s.sw := rfl
@[simp] theorem State.setEth_win (s : State) (f : Eth → Eth) : (s.setEth f).win = s.win := rfl
@[simp] theorem State.setEth_inp (s : State) (f : Eth → Eth) : (s.setEth f).inp = s.inp := rfl
@[simp] theorem State.setEth_prs (s : State) (f : Eth → Eth) : (s.setEth f).prs = s.prs := rfl
@[simp] theorem State.setEth_led (s : State) (f : Eth → Eth) : (s.setEth f).led = s.led := rfl
@[simp] theorem State.setEth_grn (s : State) (f : Eth → Eth) : (s.setEth f).grn = s.grn := rfl
@[simp] theorem State.setEth_pwr (s : State) (f : Eth → Eth) : (s.setEth f).pwr = s.pwr := rfl
@[simp] theorem State.setEth_can (s : State) (f : Eth → Eth) : (s.setEth f).can = s.can := rfl
@[simp] theorem State.setEth_lin (s : State) (f : Eth → Eth) : (s.setEth f).lin = s.lin := rfl
@[simp] theorem State.setEth_nm (s : State) (f : Eth → Eth) : (s.setEth f).nm = s.nm := rfl
@[simp] theorem State.setEth_ptp (s : State) (f : Eth → Eth) : (s.setEth f).ptp = s.ptp := rfl
@[simp] theorem State.setEth_tim (s : State) (f : Eth → Eth) : (s.setEth f).tim = s.tim := rfl
@[simp] theorem State.setEth_bal (s : State) (f : Eth → Eth) : (s.setEth f).bal = s.bal := rfl
@[simp] theorem State.setEth_acc (s : State) (f : Eth → Eth) : (s.setEth f).acc = s.acc := rfl
@[simp] theorem State.setEth_hst (s : State) (f : Eth → Eth) : (s.setEth f).hst = s.hst := rfl
@[simp] theorem State.setEth_sec (s : State) (f : Eth → Eth) : (s.setEth f).sec = s.sec := rfl
@[simp] theorem State.setEth_sil (s : State) (f : Eth → Eth) : (s.setEth f).sil = s.sil := rfl
@[simp] theorem State.setEth_gln (s : State) (f : Eth → Eth) : (s.setEth f).gln = s.gln := rfl
@[simp] theorem State.setEth_got (s : State) (f : Eth → Eth) : (s.setEth f).got = s.got := rfl
@[simp] theorem State.setEth_ack (s : State) (f : Eth → Eth) : (s.setEth f).ack = s.ack := rfl
@[simp] theorem State.setEth_core (s : State) (f : Eth → Eth) : (s.setEth f).core = s.core := rfl
@[simp] theorem State.setEth_free (s : State) (f : Eth → Eth) : (s.setEth f).free = s.free := rfl
@[simp] theorem State.setEth_pending (s : State) (f : Eth → Eth) : (s.setEth f).pending = s.pending := rfl

@[simp] theorem State.setPtp_regs (s : State) (f : Ptp → Ptp) : (s.setPtp f).regs = s.regs := rfl
@[simp] theorem State.setPtp_mem (s : State) (f : Ptp → Ptp) : (s.setPtp f).mem = s.mem := rfl
@[simp] theorem State.setPtp_count (s : State) (f : Ptp → Ptp) : (s.setPtp f).count = s.count := rfl
@[simp] theorem State.setPtp_pins (s : State) (f : Ptp → Ptp) : (s.setPtp f).pins = s.pins := rfl
@[simp] theorem State.setPtp_frm (s : State) (f : Ptp → Ptp) : (s.setPtp f).frm = s.frm := rfl
@[simp] theorem State.setPtp_sw (s : State) (f : Ptp → Ptp) : (s.setPtp f).sw = s.sw := rfl
@[simp] theorem State.setPtp_win (s : State) (f : Ptp → Ptp) : (s.setPtp f).win = s.win := rfl
@[simp] theorem State.setPtp_inp (s : State) (f : Ptp → Ptp) : (s.setPtp f).inp = s.inp := rfl
@[simp] theorem State.setPtp_prs (s : State) (f : Ptp → Ptp) : (s.setPtp f).prs = s.prs := rfl
@[simp] theorem State.setPtp_led (s : State) (f : Ptp → Ptp) : (s.setPtp f).led = s.led := rfl
@[simp] theorem State.setPtp_grn (s : State) (f : Ptp → Ptp) : (s.setPtp f).grn = s.grn := rfl
@[simp] theorem State.setPtp_pwr (s : State) (f : Ptp → Ptp) : (s.setPtp f).pwr = s.pwr := rfl
@[simp] theorem State.setPtp_can (s : State) (f : Ptp → Ptp) : (s.setPtp f).can = s.can := rfl
@[simp] theorem State.setPtp_lin (s : State) (f : Ptp → Ptp) : (s.setPtp f).lin = s.lin := rfl
@[simp] theorem State.setPtp_nm (s : State) (f : Ptp → Ptp) : (s.setPtp f).nm = s.nm := rfl
@[simp] theorem State.setPtp_eth (s : State) (f : Ptp → Ptp) : (s.setPtp f).eth = s.eth := rfl
@[simp] theorem State.setPtp_tim (s : State) (f : Ptp → Ptp) : (s.setPtp f).tim = s.tim := rfl
@[simp] theorem State.setPtp_bal (s : State) (f : Ptp → Ptp) : (s.setPtp f).bal = s.bal := rfl
@[simp] theorem State.setPtp_acc (s : State) (f : Ptp → Ptp) : (s.setPtp f).acc = s.acc := rfl
@[simp] theorem State.setPtp_hst (s : State) (f : Ptp → Ptp) : (s.setPtp f).hst = s.hst := rfl
@[simp] theorem State.setPtp_sec (s : State) (f : Ptp → Ptp) : (s.setPtp f).sec = s.sec := rfl
@[simp] theorem State.setPtp_sil (s : State) (f : Ptp → Ptp) : (s.setPtp f).sil = s.sil := rfl
@[simp] theorem State.setPtp_gln (s : State) (f : Ptp → Ptp) : (s.setPtp f).gln = s.gln := rfl
@[simp] theorem State.setPtp_got (s : State) (f : Ptp → Ptp) : (s.setPtp f).got = s.got := rfl
@[simp] theorem State.setPtp_ack (s : State) (f : Ptp → Ptp) : (s.setPtp f).ack = s.ack := rfl
@[simp] theorem State.setPtp_core (s : State) (f : Ptp → Ptp) : (s.setPtp f).core = s.core := rfl
@[simp] theorem State.setPtp_free (s : State) (f : Ptp → Ptp) : (s.setPtp f).free = s.free := rfl
@[simp] theorem State.setPtp_pending (s : State) (f : Ptp → Ptp) : (s.setPtp f).pending = s.pending := rfl

@[simp] theorem State.setTim_regs (s : State) (f : Tim → Tim) : (s.setTim f).regs = s.regs := rfl
@[simp] theorem State.setTim_mem (s : State) (f : Tim → Tim) : (s.setTim f).mem = s.mem := rfl
@[simp] theorem State.setTim_count (s : State) (f : Tim → Tim) : (s.setTim f).count = s.count := rfl
@[simp] theorem State.setTim_pins (s : State) (f : Tim → Tim) : (s.setTim f).pins = s.pins := rfl
@[simp] theorem State.setTim_frm (s : State) (f : Tim → Tim) : (s.setTim f).frm = s.frm := rfl
@[simp] theorem State.setTim_sw (s : State) (f : Tim → Tim) : (s.setTim f).sw = s.sw := rfl
@[simp] theorem State.setTim_win (s : State) (f : Tim → Tim) : (s.setTim f).win = s.win := rfl
@[simp] theorem State.setTim_inp (s : State) (f : Tim → Tim) : (s.setTim f).inp = s.inp := rfl
@[simp] theorem State.setTim_prs (s : State) (f : Tim → Tim) : (s.setTim f).prs = s.prs := rfl
@[simp] theorem State.setTim_led (s : State) (f : Tim → Tim) : (s.setTim f).led = s.led := rfl
@[simp] theorem State.setTim_grn (s : State) (f : Tim → Tim) : (s.setTim f).grn = s.grn := rfl
@[simp] theorem State.setTim_pwr (s : State) (f : Tim → Tim) : (s.setTim f).pwr = s.pwr := rfl
@[simp] theorem State.setTim_can (s : State) (f : Tim → Tim) : (s.setTim f).can = s.can := rfl
@[simp] theorem State.setTim_lin (s : State) (f : Tim → Tim) : (s.setTim f).lin = s.lin := rfl
@[simp] theorem State.setTim_nm (s : State) (f : Tim → Tim) : (s.setTim f).nm = s.nm := rfl
@[simp] theorem State.setTim_eth (s : State) (f : Tim → Tim) : (s.setTim f).eth = s.eth := rfl
@[simp] theorem State.setTim_ptp (s : State) (f : Tim → Tim) : (s.setTim f).ptp = s.ptp := rfl
@[simp] theorem State.setTim_bal (s : State) (f : Tim → Tim) : (s.setTim f).bal = s.bal := rfl
@[simp] theorem State.setTim_acc (s : State) (f : Tim → Tim) : (s.setTim f).acc = s.acc := rfl
@[simp] theorem State.setTim_hst (s : State) (f : Tim → Tim) : (s.setTim f).hst = s.hst := rfl
@[simp] theorem State.setTim_sec (s : State) (f : Tim → Tim) : (s.setTim f).sec = s.sec := rfl
@[simp] theorem State.setTim_sil (s : State) (f : Tim → Tim) : (s.setTim f).sil = s.sil := rfl
@[simp] theorem State.setTim_gln (s : State) (f : Tim → Tim) : (s.setTim f).gln = s.gln := rfl
@[simp] theorem State.setTim_got (s : State) (f : Tim → Tim) : (s.setTim f).got = s.got := rfl
@[simp] theorem State.setTim_ack (s : State) (f : Tim → Tim) : (s.setTim f).ack = s.ack := rfl
@[simp] theorem State.setTim_core (s : State) (f : Tim → Tim) : (s.setTim f).core = s.core := rfl
@[simp] theorem State.setTim_free (s : State) (f : Tim → Tim) : (s.setTim f).free = s.free := rfl
@[simp] theorem State.setTim_pending (s : State) (f : Tim → Tim) : (s.setTim f).pending = s.pending := rfl

@[simp] theorem State.setBal_regs (s : State) (f : Bal → Bal) : (s.setBal f).regs = s.regs := rfl
@[simp] theorem State.setBal_mem (s : State) (f : Bal → Bal) : (s.setBal f).mem = s.mem := rfl
@[simp] theorem State.setBal_count (s : State) (f : Bal → Bal) : (s.setBal f).count = s.count := rfl
@[simp] theorem State.setBal_pins (s : State) (f : Bal → Bal) : (s.setBal f).pins = s.pins := rfl
@[simp] theorem State.setBal_frm (s : State) (f : Bal → Bal) : (s.setBal f).frm = s.frm := rfl
@[simp] theorem State.setBal_sw (s : State) (f : Bal → Bal) : (s.setBal f).sw = s.sw := rfl
@[simp] theorem State.setBal_win (s : State) (f : Bal → Bal) : (s.setBal f).win = s.win := rfl
@[simp] theorem State.setBal_inp (s : State) (f : Bal → Bal) : (s.setBal f).inp = s.inp := rfl
@[simp] theorem State.setBal_prs (s : State) (f : Bal → Bal) : (s.setBal f).prs = s.prs := rfl
@[simp] theorem State.setBal_led (s : State) (f : Bal → Bal) : (s.setBal f).led = s.led := rfl
@[simp] theorem State.setBal_grn (s : State) (f : Bal → Bal) : (s.setBal f).grn = s.grn := rfl
@[simp] theorem State.setBal_pwr (s : State) (f : Bal → Bal) : (s.setBal f).pwr = s.pwr := rfl
@[simp] theorem State.setBal_can (s : State) (f : Bal → Bal) : (s.setBal f).can = s.can := rfl
@[simp] theorem State.setBal_lin (s : State) (f : Bal → Bal) : (s.setBal f).lin = s.lin := rfl
@[simp] theorem State.setBal_nm (s : State) (f : Bal → Bal) : (s.setBal f).nm = s.nm := rfl
@[simp] theorem State.setBal_eth (s : State) (f : Bal → Bal) : (s.setBal f).eth = s.eth := rfl
@[simp] theorem State.setBal_ptp (s : State) (f : Bal → Bal) : (s.setBal f).ptp = s.ptp := rfl
@[simp] theorem State.setBal_tim (s : State) (f : Bal → Bal) : (s.setBal f).tim = s.tim := rfl
@[simp] theorem State.setBal_acc (s : State) (f : Bal → Bal) : (s.setBal f).acc = s.acc := rfl
@[simp] theorem State.setBal_hst (s : State) (f : Bal → Bal) : (s.setBal f).hst = s.hst := rfl
@[simp] theorem State.setBal_sec (s : State) (f : Bal → Bal) : (s.setBal f).sec = s.sec := rfl
@[simp] theorem State.setBal_sil (s : State) (f : Bal → Bal) : (s.setBal f).sil = s.sil := rfl
@[simp] theorem State.setBal_gln (s : State) (f : Bal → Bal) : (s.setBal f).gln = s.gln := rfl
@[simp] theorem State.setBal_got (s : State) (f : Bal → Bal) : (s.setBal f).got = s.got := rfl
@[simp] theorem State.setBal_ack (s : State) (f : Bal → Bal) : (s.setBal f).ack = s.ack := rfl
@[simp] theorem State.setBal_core (s : State) (f : Bal → Bal) : (s.setBal f).core = s.core := rfl
@[simp] theorem State.setBal_free (s : State) (f : Bal → Bal) : (s.setBal f).free = s.free := rfl
@[simp] theorem State.setBal_pending (s : State) (f : Bal → Bal) : (s.setBal f).pending = s.pending := rfl

@[simp] theorem State.setAcc_regs (s : State) (f : AccBlk → AccBlk) : (s.setAcc f).regs = s.regs := rfl
@[simp] theorem State.setAcc_mem (s : State) (f : AccBlk → AccBlk) : (s.setAcc f).mem = s.mem := rfl
@[simp] theorem State.setAcc_count (s : State) (f : AccBlk → AccBlk) : (s.setAcc f).count = s.count := rfl
@[simp] theorem State.setAcc_pins (s : State) (f : AccBlk → AccBlk) : (s.setAcc f).pins = s.pins := rfl
@[simp] theorem State.setAcc_frm (s : State) (f : AccBlk → AccBlk) : (s.setAcc f).frm = s.frm := rfl
@[simp] theorem State.setAcc_sw (s : State) (f : AccBlk → AccBlk) : (s.setAcc f).sw = s.sw := rfl
@[simp] theorem State.setAcc_win (s : State) (f : AccBlk → AccBlk) : (s.setAcc f).win = s.win := rfl
@[simp] theorem State.setAcc_inp (s : State) (f : AccBlk → AccBlk) : (s.setAcc f).inp = s.inp := rfl
@[simp] theorem State.setAcc_prs (s : State) (f : AccBlk → AccBlk) : (s.setAcc f).prs = s.prs := rfl
@[simp] theorem State.setAcc_led (s : State) (f : AccBlk → AccBlk) : (s.setAcc f).led = s.led := rfl
@[simp] theorem State.setAcc_grn (s : State) (f : AccBlk → AccBlk) : (s.setAcc f).grn = s.grn := rfl
@[simp] theorem State.setAcc_pwr (s : State) (f : AccBlk → AccBlk) : (s.setAcc f).pwr = s.pwr := rfl
@[simp] theorem State.setAcc_can (s : State) (f : AccBlk → AccBlk) : (s.setAcc f).can = s.can := rfl
@[simp] theorem State.setAcc_lin (s : State) (f : AccBlk → AccBlk) : (s.setAcc f).lin = s.lin := rfl
@[simp] theorem State.setAcc_nm (s : State) (f : AccBlk → AccBlk) : (s.setAcc f).nm = s.nm := rfl
@[simp] theorem State.setAcc_eth (s : State) (f : AccBlk → AccBlk) : (s.setAcc f).eth = s.eth := rfl
@[simp] theorem State.setAcc_ptp (s : State) (f : AccBlk → AccBlk) : (s.setAcc f).ptp = s.ptp := rfl
@[simp] theorem State.setAcc_tim (s : State) (f : AccBlk → AccBlk) : (s.setAcc f).tim = s.tim := rfl
@[simp] theorem State.setAcc_bal (s : State) (f : AccBlk → AccBlk) : (s.setAcc f).bal = s.bal := rfl
@[simp] theorem State.setAcc_hst (s : State) (f : AccBlk → AccBlk) : (s.setAcc f).hst = s.hst := rfl
@[simp] theorem State.setAcc_sec (s : State) (f : AccBlk → AccBlk) : (s.setAcc f).sec = s.sec := rfl
@[simp] theorem State.setAcc_sil (s : State) (f : AccBlk → AccBlk) : (s.setAcc f).sil = s.sil := rfl
@[simp] theorem State.setAcc_gln (s : State) (f : AccBlk → AccBlk) : (s.setAcc f).gln = s.gln := rfl
@[simp] theorem State.setAcc_got (s : State) (f : AccBlk → AccBlk) : (s.setAcc f).got = s.got := rfl
@[simp] theorem State.setAcc_ack (s : State) (f : AccBlk → AccBlk) : (s.setAcc f).ack = s.ack := rfl
@[simp] theorem State.setAcc_core (s : State) (f : AccBlk → AccBlk) : (s.setAcc f).core = s.core := rfl
@[simp] theorem State.setAcc_free (s : State) (f : AccBlk → AccBlk) : (s.setAcc f).free = s.free := rfl
@[simp] theorem State.setAcc_pending (s : State) (f : AccBlk → AccBlk) : (s.setAcc f).pending = s.pending := rfl

@[simp] theorem State.setHst_regs (s : State) (f : Hst → Hst) : (s.setHst f).regs = s.regs := rfl
@[simp] theorem State.setHst_mem (s : State) (f : Hst → Hst) : (s.setHst f).mem = s.mem := rfl
@[simp] theorem State.setHst_count (s : State) (f : Hst → Hst) : (s.setHst f).count = s.count := rfl
@[simp] theorem State.setHst_pins (s : State) (f : Hst → Hst) : (s.setHst f).pins = s.pins := rfl
@[simp] theorem State.setHst_frm (s : State) (f : Hst → Hst) : (s.setHst f).frm = s.frm := rfl
@[simp] theorem State.setHst_sw (s : State) (f : Hst → Hst) : (s.setHst f).sw = s.sw := rfl
@[simp] theorem State.setHst_win (s : State) (f : Hst → Hst) : (s.setHst f).win = s.win := rfl
@[simp] theorem State.setHst_inp (s : State) (f : Hst → Hst) : (s.setHst f).inp = s.inp := rfl
@[simp] theorem State.setHst_prs (s : State) (f : Hst → Hst) : (s.setHst f).prs = s.prs := rfl
@[simp] theorem State.setHst_led (s : State) (f : Hst → Hst) : (s.setHst f).led = s.led := rfl
@[simp] theorem State.setHst_grn (s : State) (f : Hst → Hst) : (s.setHst f).grn = s.grn := rfl
@[simp] theorem State.setHst_pwr (s : State) (f : Hst → Hst) : (s.setHst f).pwr = s.pwr := rfl
@[simp] theorem State.setHst_can (s : State) (f : Hst → Hst) : (s.setHst f).can = s.can := rfl
@[simp] theorem State.setHst_lin (s : State) (f : Hst → Hst) : (s.setHst f).lin = s.lin := rfl
@[simp] theorem State.setHst_nm (s : State) (f : Hst → Hst) : (s.setHst f).nm = s.nm := rfl
@[simp] theorem State.setHst_eth (s : State) (f : Hst → Hst) : (s.setHst f).eth = s.eth := rfl
@[simp] theorem State.setHst_ptp (s : State) (f : Hst → Hst) : (s.setHst f).ptp = s.ptp := rfl
@[simp] theorem State.setHst_tim (s : State) (f : Hst → Hst) : (s.setHst f).tim = s.tim := rfl
@[simp] theorem State.setHst_bal (s : State) (f : Hst → Hst) : (s.setHst f).bal = s.bal := rfl
@[simp] theorem State.setHst_acc (s : State) (f : Hst → Hst) : (s.setHst f).acc = s.acc := rfl
@[simp] theorem State.setHst_sec (s : State) (f : Hst → Hst) : (s.setHst f).sec = s.sec := rfl
@[simp] theorem State.setHst_sil (s : State) (f : Hst → Hst) : (s.setHst f).sil = s.sil := rfl
@[simp] theorem State.setHst_gln (s : State) (f : Hst → Hst) : (s.setHst f).gln = s.gln := rfl
@[simp] theorem State.setHst_got (s : State) (f : Hst → Hst) : (s.setHst f).got = s.got := rfl
@[simp] theorem State.setHst_ack (s : State) (f : Hst → Hst) : (s.setHst f).ack = s.ack := rfl
@[simp] theorem State.setHst_core (s : State) (f : Hst → Hst) : (s.setHst f).core = s.core := rfl
@[simp] theorem State.setHst_free (s : State) (f : Hst → Hst) : (s.setHst f).free = s.free := rfl
@[simp] theorem State.setHst_pending (s : State) (f : Hst → Hst) : (s.setHst f).pending = s.pending := rfl

@[simp] theorem State.setSec_regs (s : State) (f : Sec → Sec) : (s.setSec f).regs = s.regs := rfl
@[simp] theorem State.setSec_mem (s : State) (f : Sec → Sec) : (s.setSec f).mem = s.mem := rfl
@[simp] theorem State.setSec_count (s : State) (f : Sec → Sec) : (s.setSec f).count = s.count := rfl
@[simp] theorem State.setSec_pins (s : State) (f : Sec → Sec) : (s.setSec f).pins = s.pins := rfl
@[simp] theorem State.setSec_frm (s : State) (f : Sec → Sec) : (s.setSec f).frm = s.frm := rfl
@[simp] theorem State.setSec_sw (s : State) (f : Sec → Sec) : (s.setSec f).sw = s.sw := rfl
@[simp] theorem State.setSec_win (s : State) (f : Sec → Sec) : (s.setSec f).win = s.win := rfl
@[simp] theorem State.setSec_inp (s : State) (f : Sec → Sec) : (s.setSec f).inp = s.inp := rfl
@[simp] theorem State.setSec_prs (s : State) (f : Sec → Sec) : (s.setSec f).prs = s.prs := rfl
@[simp] theorem State.setSec_led (s : State) (f : Sec → Sec) : (s.setSec f).led = s.led := rfl
@[simp] theorem State.setSec_grn (s : State) (f : Sec → Sec) : (s.setSec f).grn = s.grn := rfl
@[simp] theorem State.setSec_pwr (s : State) (f : Sec → Sec) : (s.setSec f).pwr = s.pwr := rfl
@[simp] theorem State.setSec_can (s : State) (f : Sec → Sec) : (s.setSec f).can = s.can := rfl
@[simp] theorem State.setSec_lin (s : State) (f : Sec → Sec) : (s.setSec f).lin = s.lin := rfl
@[simp] theorem State.setSec_nm (s : State) (f : Sec → Sec) : (s.setSec f).nm = s.nm := rfl
@[simp] theorem State.setSec_eth (s : State) (f : Sec → Sec) : (s.setSec f).eth = s.eth := rfl
@[simp] theorem State.setSec_ptp (s : State) (f : Sec → Sec) : (s.setSec f).ptp = s.ptp := rfl
@[simp] theorem State.setSec_tim (s : State) (f : Sec → Sec) : (s.setSec f).tim = s.tim := rfl
@[simp] theorem State.setSec_bal (s : State) (f : Sec → Sec) : (s.setSec f).bal = s.bal := rfl
@[simp] theorem State.setSec_acc (s : State) (f : Sec → Sec) : (s.setSec f).acc = s.acc := rfl
@[simp] theorem State.setSec_hst (s : State) (f : Sec → Sec) : (s.setSec f).hst = s.hst := rfl
@[simp] theorem State.setSec_sil (s : State) (f : Sec → Sec) : (s.setSec f).sil = s.sil := rfl
@[simp] theorem State.setSec_gln (s : State) (f : Sec → Sec) : (s.setSec f).gln = s.gln := rfl
@[simp] theorem State.setSec_got (s : State) (f : Sec → Sec) : (s.setSec f).got = s.got := rfl
@[simp] theorem State.setSec_ack (s : State) (f : Sec → Sec) : (s.setSec f).ack = s.ack := rfl
@[simp] theorem State.setSec_core (s : State) (f : Sec → Sec) : (s.setSec f).core = s.core := rfl
@[simp] theorem State.setSec_free (s : State) (f : Sec → Sec) : (s.setSec f).free = s.free := rfl
@[simp] theorem State.setSec_pending (s : State) (f : Sec → Sec) : (s.setSec f).pending = s.pending := rfl

@[simp] theorem State.setSil_regs (s : State) (f : Sil → Sil) : (s.setSil f).regs = s.regs := rfl
@[simp] theorem State.setSil_mem (s : State) (f : Sil → Sil) : (s.setSil f).mem = s.mem := rfl
@[simp] theorem State.setSil_count (s : State) (f : Sil → Sil) : (s.setSil f).count = s.count := rfl
@[simp] theorem State.setSil_pins (s : State) (f : Sil → Sil) : (s.setSil f).pins = s.pins := rfl
@[simp] theorem State.setSil_frm (s : State) (f : Sil → Sil) : (s.setSil f).frm = s.frm := rfl
@[simp] theorem State.setSil_sw (s : State) (f : Sil → Sil) : (s.setSil f).sw = s.sw := rfl
@[simp] theorem State.setSil_win (s : State) (f : Sil → Sil) : (s.setSil f).win = s.win := rfl
@[simp] theorem State.setSil_inp (s : State) (f : Sil → Sil) : (s.setSil f).inp = s.inp := rfl
@[simp] theorem State.setSil_prs (s : State) (f : Sil → Sil) : (s.setSil f).prs = s.prs := rfl
@[simp] theorem State.setSil_led (s : State) (f : Sil → Sil) : (s.setSil f).led = s.led := rfl
@[simp] theorem State.setSil_grn (s : State) (f : Sil → Sil) : (s.setSil f).grn = s.grn := rfl
@[simp] theorem State.setSil_pwr (s : State) (f : Sil → Sil) : (s.setSil f).pwr = s.pwr := rfl
@[simp] theorem State.setSil_can (s : State) (f : Sil → Sil) : (s.setSil f).can = s.can := rfl
@[simp] theorem State.setSil_lin (s : State) (f : Sil → Sil) : (s.setSil f).lin = s.lin := rfl
@[simp] theorem State.setSil_nm (s : State) (f : Sil → Sil) : (s.setSil f).nm = s.nm := rfl
@[simp] theorem State.setSil_eth (s : State) (f : Sil → Sil) : (s.setSil f).eth = s.eth := rfl
@[simp] theorem State.setSil_ptp (s : State) (f : Sil → Sil) : (s.setSil f).ptp = s.ptp := rfl
@[simp] theorem State.setSil_tim (s : State) (f : Sil → Sil) : (s.setSil f).tim = s.tim := rfl
@[simp] theorem State.setSil_bal (s : State) (f : Sil → Sil) : (s.setSil f).bal = s.bal := rfl
@[simp] theorem State.setSil_acc (s : State) (f : Sil → Sil) : (s.setSil f).acc = s.acc := rfl
@[simp] theorem State.setSil_hst (s : State) (f : Sil → Sil) : (s.setSil f).hst = s.hst := rfl
@[simp] theorem State.setSil_sec (s : State) (f : Sil → Sil) : (s.setSil f).sec = s.sec := rfl
@[simp] theorem State.setSil_gln (s : State) (f : Sil → Sil) : (s.setSil f).gln = s.gln := rfl
@[simp] theorem State.setSil_got (s : State) (f : Sil → Sil) : (s.setSil f).got = s.got := rfl
@[simp] theorem State.setSil_ack (s : State) (f : Sil → Sil) : (s.setSil f).ack = s.ack := rfl
@[simp] theorem State.setSil_core (s : State) (f : Sil → Sil) : (s.setSil f).core = s.core := rfl
@[simp] theorem State.setSil_free (s : State) (f : Sil → Sil) : (s.setSil f).free = s.free := rfl
@[simp] theorem State.setSil_pending (s : State) (f : Sil → Sil) : (s.setSil f).pending = s.pending := rfl

@[simp] theorem State.setGln_regs (s : State) (f : Gln → Gln) : (s.setGln f).regs = s.regs := rfl
@[simp] theorem State.setGln_mem (s : State) (f : Gln → Gln) : (s.setGln f).mem = s.mem := rfl
@[simp] theorem State.setGln_count (s : State) (f : Gln → Gln) : (s.setGln f).count = s.count := rfl
@[simp] theorem State.setGln_pins (s : State) (f : Gln → Gln) : (s.setGln f).pins = s.pins := rfl
@[simp] theorem State.setGln_frm (s : State) (f : Gln → Gln) : (s.setGln f).frm = s.frm := rfl
@[simp] theorem State.setGln_sw (s : State) (f : Gln → Gln) : (s.setGln f).sw = s.sw := rfl
@[simp] theorem State.setGln_win (s : State) (f : Gln → Gln) : (s.setGln f).win = s.win := rfl
@[simp] theorem State.setGln_inp (s : State) (f : Gln → Gln) : (s.setGln f).inp = s.inp := rfl
@[simp] theorem State.setGln_prs (s : State) (f : Gln → Gln) : (s.setGln f).prs = s.prs := rfl
@[simp] theorem State.setGln_led (s : State) (f : Gln → Gln) : (s.setGln f).led = s.led := rfl
@[simp] theorem State.setGln_grn (s : State) (f : Gln → Gln) : (s.setGln f).grn = s.grn := rfl
@[simp] theorem State.setGln_pwr (s : State) (f : Gln → Gln) : (s.setGln f).pwr = s.pwr := rfl
@[simp] theorem State.setGln_can (s : State) (f : Gln → Gln) : (s.setGln f).can = s.can := rfl
@[simp] theorem State.setGln_lin (s : State) (f : Gln → Gln) : (s.setGln f).lin = s.lin := rfl
@[simp] theorem State.setGln_nm (s : State) (f : Gln → Gln) : (s.setGln f).nm = s.nm := rfl
@[simp] theorem State.setGln_eth (s : State) (f : Gln → Gln) : (s.setGln f).eth = s.eth := rfl
@[simp] theorem State.setGln_ptp (s : State) (f : Gln → Gln) : (s.setGln f).ptp = s.ptp := rfl
@[simp] theorem State.setGln_tim (s : State) (f : Gln → Gln) : (s.setGln f).tim = s.tim := rfl
@[simp] theorem State.setGln_bal (s : State) (f : Gln → Gln) : (s.setGln f).bal = s.bal := rfl
@[simp] theorem State.setGln_acc (s : State) (f : Gln → Gln) : (s.setGln f).acc = s.acc := rfl
@[simp] theorem State.setGln_hst (s : State) (f : Gln → Gln) : (s.setGln f).hst = s.hst := rfl
@[simp] theorem State.setGln_sec (s : State) (f : Gln → Gln) : (s.setGln f).sec = s.sec := rfl
@[simp] theorem State.setGln_sil (s : State) (f : Gln → Gln) : (s.setGln f).sil = s.sil := rfl
@[simp] theorem State.setGln_got (s : State) (f : Gln → Gln) : (s.setGln f).got = s.got := rfl
@[simp] theorem State.setGln_ack (s : State) (f : Gln → Gln) : (s.setGln f).ack = s.ack := rfl
@[simp] theorem State.setGln_core (s : State) (f : Gln → Gln) : (s.setGln f).core = s.core := rfl
@[simp] theorem State.setGln_free (s : State) (f : Gln → Gln) : (s.setGln f).free = s.free := rfl
@[simp] theorem State.setGln_pending (s : State) (f : Gln → Gln) : (s.setGln f).pending = s.pending := rfl

@[simp] theorem State.setCore_regs (s : State) (c : Fin 2) (f : Core → Core) : (s.setCore c f).regs = s.regs := rfl
@[simp] theorem State.setCore_mem (s : State) (c : Fin 2) (f : Core → Core) : (s.setCore c f).mem = s.mem := rfl
@[simp] theorem State.setCore_count (s : State) (c : Fin 2) (f : Core → Core) : (s.setCore c f).count = s.count := rfl
@[simp] theorem State.setCore_pins (s : State) (c : Fin 2) (f : Core → Core) : (s.setCore c f).pins = s.pins := rfl
@[simp] theorem State.setCore_frm (s : State) (c : Fin 2) (f : Core → Core) : (s.setCore c f).frm = s.frm := rfl
@[simp] theorem State.setCore_sw (s : State) (c : Fin 2) (f : Core → Core) : (s.setCore c f).sw = s.sw := rfl
@[simp] theorem State.setCore_win (s : State) (c : Fin 2) (f : Core → Core) : (s.setCore c f).win = s.win := rfl
@[simp] theorem State.setCore_inp (s : State) (c : Fin 2) (f : Core → Core) : (s.setCore c f).inp = s.inp := rfl
@[simp] theorem State.setCore_prs (s : State) (c : Fin 2) (f : Core → Core) : (s.setCore c f).prs = s.prs := rfl
@[simp] theorem State.setCore_led (s : State) (c : Fin 2) (f : Core → Core) : (s.setCore c f).led = s.led := rfl
@[simp] theorem State.setCore_grn (s : State) (c : Fin 2) (f : Core → Core) : (s.setCore c f).grn = s.grn := rfl
@[simp] theorem State.setCore_pwr (s : State) (c : Fin 2) (f : Core → Core) : (s.setCore c f).pwr = s.pwr := rfl
@[simp] theorem State.setCore_can (s : State) (c : Fin 2) (f : Core → Core) : (s.setCore c f).can = s.can := rfl
@[simp] theorem State.setCore_lin (s : State) (c : Fin 2) (f : Core → Core) : (s.setCore c f).lin = s.lin := rfl
@[simp] theorem State.setCore_nm (s : State) (c : Fin 2) (f : Core → Core) : (s.setCore c f).nm = s.nm := rfl
@[simp] theorem State.setCore_eth (s : State) (c : Fin 2) (f : Core → Core) : (s.setCore c f).eth = s.eth := rfl
@[simp] theorem State.setCore_ptp (s : State) (c : Fin 2) (f : Core → Core) : (s.setCore c f).ptp = s.ptp := rfl
@[simp] theorem State.setCore_tim (s : State) (c : Fin 2) (f : Core → Core) : (s.setCore c f).tim = s.tim := rfl
@[simp] theorem State.setCore_bal (s : State) (c : Fin 2) (f : Core → Core) : (s.setCore c f).bal = s.bal := rfl
@[simp] theorem State.setCore_acc (s : State) (c : Fin 2) (f : Core → Core) : (s.setCore c f).acc = s.acc := rfl
@[simp] theorem State.setCore_hst (s : State) (c : Fin 2) (f : Core → Core) : (s.setCore c f).hst = s.hst := rfl
@[simp] theorem State.setCore_sec (s : State) (c : Fin 2) (f : Core → Core) : (s.setCore c f).sec = s.sec := rfl
@[simp] theorem State.setCore_sil (s : State) (c : Fin 2) (f : Core → Core) : (s.setCore c f).sil = s.sil := rfl
@[simp] theorem State.setCore_gln (s : State) (c : Fin 2) (f : Core → Core) : (s.setCore c f).gln = s.gln := rfl
@[simp] theorem State.setCore_got (s : State) (c : Fin 2) (f : Core → Core) : (s.setCore c f).got = s.got := rfl
@[simp] theorem State.setCore_ack (s : State) (c : Fin 2) (f : Core → Core) : (s.setCore c f).ack = s.ack := rfl
@[simp] theorem State.setCore_free (s : State) (c : Fin 2) (f : Core → Core) : (s.setCore c f).free = s.free := rfl
@[simp] theorem State.setCore_pending (s : State) (c : Fin 2) (f : Core → Core) : (s.setCore c f).pending = s.pending := rfl

/-! ### The same through the accessors -/

@[simp] theorem State.mread_setReg (s : State) (a : Nat) (w : Word) (k : Nat) : (s.setReg a w).mread k = s.mread k := rfl
@[simp] theorem State.pin_setReg (s : State) (a : Nat) (w : Word) (y : Sensor) : (s.setReg a w).pin y = s.pin y := rfl
@[simp] theorem State.out_setReg (s : State) (a : Nat) (w : Word) (k : Nat) : (s.setReg a w).out k = s.out k := rfl
@[simp] theorem State.dieOf_setReg (s : State) (a : Nat) (w : Word) (k : Nat) : (s.setReg a w).dieOf k = s.dieOf k := rfl
@[simp] theorem State.coil_setReg (s : State) (a : Nat) (w : Word) (k : Nat) : (s.setReg a w).coil k = s.coil k := rfl
@[simp] theorem State.pbank_setReg (s : State) (a : Nat) (w : Word) (k : Nat) : (s.setReg a w).pbank k = s.pbank k := rfl
@[simp] theorem State.px_setReg (s : State) (a : Nat) (w : Word) (k : Nat) : (s.setReg a w).px k = s.px k := rfl
@[simp] theorem State.sink_setReg (s : State) (a : Nat) (w : Word) (k : Nat) : (s.setReg a w).sink k = s.sink k := rfl
@[simp] theorem State.swIn_setReg (s : State) (a : Nat) (w : Word) (k : Nat) : (s.setReg a w).swIn k = s.swIn k := rfl
@[simp] theorem State.wakeIn_setReg (s : State) (a : Nat) (w : Word) (k : Nat) : (s.setReg a w).wakeIn k = s.wakeIn k := rfl
@[simp] theorem State.ainIn_setReg (s : State) (a : Nat) (w : Word) (k : Nat) : (s.setReg a w).ainIn k = s.ainIn k := rfl
@[simp] theorem State.vsIn_setReg (s : State) (a : Nat) (w : Word) (k : Nat) : (s.setReg a w).vsIn k = s.vsIn k := rfl
@[simp] theorem State.gbank_setReg (s : State) (a : Nat) (w : Word) (k : Nat) : (s.setReg a w).gbank k = s.gbank k := rfl
@[simp] theorem State.grp_setReg (s : State) (a : Nat) (w : Word) (k : Nat) : (s.setReg a w).grp k = s.grp k := rfl
@[simp] theorem State.domOn_setReg (s : State) (a : Nat) (w : Word) (k : Nat) : (s.setReg a w).domOn k = s.domOn k := rfl
@[simp] theorem State.cn_setReg (s : State) (a : Nat) (w : Word) (k : Nat) : (s.setReg a w).cn k = s.cn k := rfl
@[simp] theorem State.ln_setReg (s : State) (a : Nat) (w : Word) (k : Nat) : (s.setReg a w).ln k = s.ln k := rfl
@[simp] theorem State.cr_setReg (s : State) (a : Nat) (w : Word) (k : Fin 2) : (s.setReg a w).cr k = s.cr k := rfl

@[simp] theorem State.mread_setFld (s : State) (f : Fld) (v : Nat) (k : Nat) : (s.setFld f v).mread k = s.mread k := rfl
@[simp] theorem State.pin_setFld (s : State) (f : Fld) (v : Nat) (y : Sensor) : (s.setFld f v).pin y = s.pin y := rfl
@[simp] theorem State.out_setFld (s : State) (f : Fld) (v : Nat) (k : Nat) : (s.setFld f v).out k = s.out k := rfl
@[simp] theorem State.dieOf_setFld (s : State) (f : Fld) (v : Nat) (k : Nat) : (s.setFld f v).dieOf k = s.dieOf k := rfl
@[simp] theorem State.coil_setFld (s : State) (f : Fld) (v : Nat) (k : Nat) : (s.setFld f v).coil k = s.coil k := rfl
@[simp] theorem State.pbank_setFld (s : State) (f : Fld) (v : Nat) (k : Nat) : (s.setFld f v).pbank k = s.pbank k := rfl
@[simp] theorem State.px_setFld (s : State) (f : Fld) (v : Nat) (k : Nat) : (s.setFld f v).px k = s.px k := rfl
@[simp] theorem State.sink_setFld (s : State) (f : Fld) (v : Nat) (k : Nat) : (s.setFld f v).sink k = s.sink k := rfl
@[simp] theorem State.swIn_setFld (s : State) (f : Fld) (v : Nat) (k : Nat) : (s.setFld f v).swIn k = s.swIn k := rfl
@[simp] theorem State.wakeIn_setFld (s : State) (f : Fld) (v : Nat) (k : Nat) : (s.setFld f v).wakeIn k = s.wakeIn k := rfl
@[simp] theorem State.ainIn_setFld (s : State) (f : Fld) (v : Nat) (k : Nat) : (s.setFld f v).ainIn k = s.ainIn k := rfl
@[simp] theorem State.vsIn_setFld (s : State) (f : Fld) (v : Nat) (k : Nat) : (s.setFld f v).vsIn k = s.vsIn k := rfl
@[simp] theorem State.gbank_setFld (s : State) (f : Fld) (v : Nat) (k : Nat) : (s.setFld f v).gbank k = s.gbank k := rfl
@[simp] theorem State.grp_setFld (s : State) (f : Fld) (v : Nat) (k : Nat) : (s.setFld f v).grp k = s.grp k := rfl
@[simp] theorem State.domOn_setFld (s : State) (f : Fld) (v : Nat) (k : Nat) : (s.setFld f v).domOn k = s.domOn k := rfl
@[simp] theorem State.cn_setFld (s : State) (f : Fld) (v : Nat) (k : Nat) : (s.setFld f v).cn k = s.cn k := rfl
@[simp] theorem State.ln_setFld (s : State) (f : Fld) (v : Nat) (k : Nat) : (s.setFld f v).ln k = s.ln k := rfl
@[simp] theorem State.cr_setFld (s : State) (f : Fld) (v : Nat) (k : Fin 2) : (s.setFld f v).cr k = s.cr k := rfl

@[simp] theorem State.reg_mwrite (s : State) (a : Nat) (w : TWord) (k : Nat) : (s.mwrite a w).reg k = s.reg k := rfl
@[simp] theorem State.fld_mwrite (s : State) (a : Nat) (w : TWord) (fd : Fld) : (s.mwrite a w).fld fd = s.fld fd := rfl
@[simp] theorem State.bit_mwrite (s : State) (a : Nat) (w : TWord) (fd : Fld) : (s.mwrite a w).bit fd = s.bit fd := rfl
@[simp] theorem State.feat_mwrite (s : State) (a : Nat) (w : TWord) (k : Nat) : (s.mwrite a w).feat k = s.feat k := rfl
@[simp] theorem State.pin_mwrite (s : State) (a : Nat) (w : TWord) (y : Sensor) : (s.mwrite a w).pin y = s.pin y := rfl
@[simp] theorem State.out_mwrite (s : State) (a : Nat) (w : TWord) (k : Nat) : (s.mwrite a w).out k = s.out k := rfl
@[simp] theorem State.dieOf_mwrite (s : State) (a : Nat) (w : TWord) (k : Nat) : (s.mwrite a w).dieOf k = s.dieOf k := rfl
@[simp] theorem State.coil_mwrite (s : State) (a : Nat) (w : TWord) (k : Nat) : (s.mwrite a w).coil k = s.coil k := rfl
@[simp] theorem State.pbank_mwrite (s : State) (a : Nat) (w : TWord) (k : Nat) : (s.mwrite a w).pbank k = s.pbank k := rfl
@[simp] theorem State.px_mwrite (s : State) (a : Nat) (w : TWord) (k : Nat) : (s.mwrite a w).px k = s.px k := rfl
@[simp] theorem State.sink_mwrite (s : State) (a : Nat) (w : TWord) (k : Nat) : (s.mwrite a w).sink k = s.sink k := rfl
@[simp] theorem State.swIn_mwrite (s : State) (a : Nat) (w : TWord) (k : Nat) : (s.mwrite a w).swIn k = s.swIn k := rfl
@[simp] theorem State.wakeIn_mwrite (s : State) (a : Nat) (w : TWord) (k : Nat) : (s.mwrite a w).wakeIn k = s.wakeIn k := rfl
@[simp] theorem State.ainIn_mwrite (s : State) (a : Nat) (w : TWord) (k : Nat) : (s.mwrite a w).ainIn k = s.ainIn k := rfl
@[simp] theorem State.vsIn_mwrite (s : State) (a : Nat) (w : TWord) (k : Nat) : (s.mwrite a w).vsIn k = s.vsIn k := rfl
@[simp] theorem State.gbank_mwrite (s : State) (a : Nat) (w : TWord) (k : Nat) : (s.mwrite a w).gbank k = s.gbank k := rfl
@[simp] theorem State.grp_mwrite (s : State) (a : Nat) (w : TWord) (k : Nat) : (s.mwrite a w).grp k = s.grp k := rfl
@[simp] theorem State.domOn_mwrite (s : State) (a : Nat) (w : TWord) (k : Nat) : (s.mwrite a w).domOn k = s.domOn k := rfl
@[simp] theorem State.cn_mwrite (s : State) (a : Nat) (w : TWord) (k : Nat) : (s.mwrite a w).cn k = s.cn k := rfl
@[simp] theorem State.ln_mwrite (s : State) (a : Nat) (w : TWord) (k : Nat) : (s.mwrite a w).ln k = s.ln k := rfl
@[simp] theorem State.cr_mwrite (s : State) (a : Nat) (w : TWord) (k : Fin 2) : (s.mwrite a w).cr k = s.cr k := rfl

@[simp] theorem State.reg_advance (s : State) (n : Nat) (k : Nat) : (s.advance n).reg k = s.reg k := rfl
@[simp] theorem State.fld_advance (s : State) (n : Nat) (fd : Fld) : (s.advance n).fld fd = s.fld fd := rfl
@[simp] theorem State.bit_advance (s : State) (n : Nat) (fd : Fld) : (s.advance n).bit fd = s.bit fd := rfl
@[simp] theorem State.feat_advance (s : State) (n : Nat) (k : Nat) : (s.advance n).feat k = s.feat k := rfl
@[simp] theorem State.mread_advance (s : State) (n : Nat) (k : Nat) : (s.advance n).mread k = s.mread k := rfl
@[simp] theorem State.pin_advance (s : State) (n : Nat) (y : Sensor) : (s.advance n).pin y = s.pin y := rfl
@[simp] theorem State.out_advance (s : State) (n : Nat) (k : Nat) : (s.advance n).out k = s.out k := rfl
@[simp] theorem State.dieOf_advance (s : State) (n : Nat) (k : Nat) : (s.advance n).dieOf k = s.dieOf k := rfl
@[simp] theorem State.coil_advance (s : State) (n : Nat) (k : Nat) : (s.advance n).coil k = s.coil k := rfl
@[simp] theorem State.pbank_advance (s : State) (n : Nat) (k : Nat) : (s.advance n).pbank k = s.pbank k := rfl
@[simp] theorem State.px_advance (s : State) (n : Nat) (k : Nat) : (s.advance n).px k = s.px k := rfl
@[simp] theorem State.sink_advance (s : State) (n : Nat) (k : Nat) : (s.advance n).sink k = s.sink k := rfl
@[simp] theorem State.swIn_advance (s : State) (n : Nat) (k : Nat) : (s.advance n).swIn k = s.swIn k := rfl
@[simp] theorem State.wakeIn_advance (s : State) (n : Nat) (k : Nat) : (s.advance n).wakeIn k = s.wakeIn k := rfl
@[simp] theorem State.ainIn_advance (s : State) (n : Nat) (k : Nat) : (s.advance n).ainIn k = s.ainIn k := rfl
@[simp] theorem State.vsIn_advance (s : State) (n : Nat) (k : Nat) : (s.advance n).vsIn k = s.vsIn k := rfl
@[simp] theorem State.gbank_advance (s : State) (n : Nat) (k : Nat) : (s.advance n).gbank k = s.gbank k := rfl
@[simp] theorem State.grp_advance (s : State) (n : Nat) (k : Nat) : (s.advance n).grp k = s.grp k := rfl
@[simp] theorem State.domOn_advance (s : State) (n : Nat) (k : Nat) : (s.advance n).domOn k = s.domOn k := rfl
@[simp] theorem State.cn_advance (s : State) (n : Nat) (k : Nat) : (s.advance n).cn k = s.cn k := rfl
@[simp] theorem State.ln_advance (s : State) (n : Nat) (k : Nat) : (s.advance n).ln k = s.ln k := rfl
@[simp] theorem State.cr_advance (s : State) (n : Nat) (k : Fin 2) : (s.advance n).cr k = s.cr k := rfl

@[simp] theorem State.reg_setPin (s : State) (x : Sensor) (v : Int) (k : Nat) : (s.setPin x v).reg k = s.reg k := rfl
@[simp] theorem State.fld_setPin (s : State) (x : Sensor) (v : Int) (fd : Fld) : (s.setPin x v).fld fd = s.fld fd := rfl
@[simp] theorem State.bit_setPin (s : State) (x : Sensor) (v : Int) (fd : Fld) : (s.setPin x v).bit fd = s.bit fd := rfl
@[simp] theorem State.feat_setPin (s : State) (x : Sensor) (v : Int) (k : Nat) : (s.setPin x v).feat k = s.feat k := rfl
@[simp] theorem State.mread_setPin (s : State) (x : Sensor) (v : Int) (k : Nat) : (s.setPin x v).mread k = s.mread k := rfl
@[simp] theorem State.out_setPin (s : State) (x : Sensor) (v : Int) (k : Nat) : (s.setPin x v).out k = s.out k := rfl
@[simp] theorem State.dieOf_setPin (s : State) (x : Sensor) (v : Int) (k : Nat) : (s.setPin x v).dieOf k = s.dieOf k := rfl
@[simp] theorem State.coil_setPin (s : State) (x : Sensor) (v : Int) (k : Nat) : (s.setPin x v).coil k = s.coil k := rfl
@[simp] theorem State.pbank_setPin (s : State) (x : Sensor) (v : Int) (k : Nat) : (s.setPin x v).pbank k = s.pbank k := rfl
@[simp] theorem State.px_setPin (s : State) (x : Sensor) (v : Int) (k : Nat) : (s.setPin x v).px k = s.px k := rfl
@[simp] theorem State.sink_setPin (s : State) (x : Sensor) (v : Int) (k : Nat) : (s.setPin x v).sink k = s.sink k := rfl
@[simp] theorem State.swIn_setPin (s : State) (x : Sensor) (v : Int) (k : Nat) : (s.setPin x v).swIn k = s.swIn k := rfl
@[simp] theorem State.wakeIn_setPin (s : State) (x : Sensor) (v : Int) (k : Nat) : (s.setPin x v).wakeIn k = s.wakeIn k := rfl
@[simp] theorem State.ainIn_setPin (s : State) (x : Sensor) (v : Int) (k : Nat) : (s.setPin x v).ainIn k = s.ainIn k := rfl
@[simp] theorem State.vsIn_setPin (s : State) (x : Sensor) (v : Int) (k : Nat) : (s.setPin x v).vsIn k = s.vsIn k := rfl
@[simp] theorem State.gbank_setPin (s : State) (x : Sensor) (v : Int) (k : Nat) : (s.setPin x v).gbank k = s.gbank k := rfl
@[simp] theorem State.grp_setPin (s : State) (x : Sensor) (v : Int) (k : Nat) : (s.setPin x v).grp k = s.grp k := rfl
@[simp] theorem State.domOn_setPin (s : State) (x : Sensor) (v : Int) (k : Nat) : (s.setPin x v).domOn k = s.domOn k := rfl
@[simp] theorem State.cn_setPin (s : State) (x : Sensor) (v : Int) (k : Nat) : (s.setPin x v).cn k = s.cn k := rfl
@[simp] theorem State.ln_setPin (s : State) (x : Sensor) (v : Int) (k : Nat) : (s.setPin x v).ln k = s.ln k := rfl
@[simp] theorem State.cr_setPin (s : State) (x : Sensor) (v : Int) (k : Fin 2) : (s.setPin x v).cr k = s.cr k := rfl

@[simp] theorem State.reg_putIn (s : State) (o : Nat) (w : TWord) (k : Nat) : (s.putIn o w).reg k = s.reg k := rfl
@[simp] theorem State.fld_putIn (s : State) (o : Nat) (w : TWord) (fd : Fld) : (s.putIn o w).fld fd = s.fld fd := rfl
@[simp] theorem State.bit_putIn (s : State) (o : Nat) (w : TWord) (fd : Fld) : (s.putIn o w).bit fd = s.bit fd := rfl
@[simp] theorem State.feat_putIn (s : State) (o : Nat) (w : TWord) (k : Nat) : (s.putIn o w).feat k = s.feat k := rfl
@[simp] theorem State.mread_putIn (s : State) (o : Nat) (w : TWord) (k : Nat) : (s.putIn o w).mread k = s.mread k := rfl
@[simp] theorem State.pin_putIn (s : State) (o : Nat) (w : TWord) (y : Sensor) : (s.putIn o w).pin y = s.pin y := rfl
@[simp] theorem State.out_putIn (s : State) (o : Nat) (w : TWord) (k : Nat) : (s.putIn o w).out k = s.out k := rfl
@[simp] theorem State.dieOf_putIn (s : State) (o : Nat) (w : TWord) (k : Nat) : (s.putIn o w).dieOf k = s.dieOf k := rfl
@[simp] theorem State.coil_putIn (s : State) (o : Nat) (w : TWord) (k : Nat) : (s.putIn o w).coil k = s.coil k := rfl
@[simp] theorem State.pbank_putIn (s : State) (o : Nat) (w : TWord) (k : Nat) : (s.putIn o w).pbank k = s.pbank k := rfl
@[simp] theorem State.px_putIn (s : State) (o : Nat) (w : TWord) (k : Nat) : (s.putIn o w).px k = s.px k := rfl
@[simp] theorem State.sink_putIn (s : State) (o : Nat) (w : TWord) (k : Nat) : (s.putIn o w).sink k = s.sink k := rfl
@[simp] theorem State.swIn_putIn (s : State) (o : Nat) (w : TWord) (k : Nat) : (s.putIn o w).swIn k = s.swIn k := rfl
@[simp] theorem State.wakeIn_putIn (s : State) (o : Nat) (w : TWord) (k : Nat) : (s.putIn o w).wakeIn k = s.wakeIn k := rfl
@[simp] theorem State.ainIn_putIn (s : State) (o : Nat) (w : TWord) (k : Nat) : (s.putIn o w).ainIn k = s.ainIn k := rfl
@[simp] theorem State.vsIn_putIn (s : State) (o : Nat) (w : TWord) (k : Nat) : (s.putIn o w).vsIn k = s.vsIn k := rfl
@[simp] theorem State.gbank_putIn (s : State) (o : Nat) (w : TWord) (k : Nat) : (s.putIn o w).gbank k = s.gbank k := rfl
@[simp] theorem State.grp_putIn (s : State) (o : Nat) (w : TWord) (k : Nat) : (s.putIn o w).grp k = s.grp k := rfl
@[simp] theorem State.domOn_putIn (s : State) (o : Nat) (w : TWord) (k : Nat) : (s.putIn o w).domOn k = s.domOn k := rfl
@[simp] theorem State.cn_putIn (s : State) (o : Nat) (w : TWord) (k : Nat) : (s.putIn o w).cn k = s.cn k := rfl
@[simp] theorem State.ln_putIn (s : State) (o : Nat) (w : TWord) (k : Nat) : (s.putIn o w).ln k = s.ln k := rfl
@[simp] theorem State.cr_putIn (s : State) (o : Nat) (w : TWord) (k : Fin 2) : (s.putIn o w).cr k = s.cr k := rfl

@[simp] theorem State.reg_setJob (s : State) (j : Nat) (r : JobRun) (k : Nat) : (s.setJob j r).reg k = s.reg k := rfl
@[simp] theorem State.fld_setJob (s : State) (j : Nat) (r : JobRun) (fd : Fld) : (s.setJob j r).fld fd = s.fld fd := rfl
@[simp] theorem State.bit_setJob (s : State) (j : Nat) (r : JobRun) (fd : Fld) : (s.setJob j r).bit fd = s.bit fd := rfl
@[simp] theorem State.feat_setJob (s : State) (j : Nat) (r : JobRun) (k : Nat) : (s.setJob j r).feat k = s.feat k := rfl
@[simp] theorem State.mread_setJob (s : State) (j : Nat) (r : JobRun) (k : Nat) : (s.setJob j r).mread k = s.mread k := rfl
@[simp] theorem State.pin_setJob (s : State) (j : Nat) (r : JobRun) (y : Sensor) : (s.setJob j r).pin y = s.pin y := rfl
@[simp] theorem State.out_setJob (s : State) (j : Nat) (r : JobRun) (k : Nat) : (s.setJob j r).out k = s.out k := rfl
@[simp] theorem State.dieOf_setJob (s : State) (j : Nat) (r : JobRun) (k : Nat) : (s.setJob j r).dieOf k = s.dieOf k := rfl
@[simp] theorem State.coil_setJob (s : State) (j : Nat) (r : JobRun) (k : Nat) : (s.setJob j r).coil k = s.coil k := rfl
@[simp] theorem State.pbank_setJob (s : State) (j : Nat) (r : JobRun) (k : Nat) : (s.setJob j r).pbank k = s.pbank k := rfl
@[simp] theorem State.px_setJob (s : State) (j : Nat) (r : JobRun) (k : Nat) : (s.setJob j r).px k = s.px k := rfl
@[simp] theorem State.sink_setJob (s : State) (j : Nat) (r : JobRun) (k : Nat) : (s.setJob j r).sink k = s.sink k := rfl
@[simp] theorem State.swIn_setJob (s : State) (j : Nat) (r : JobRun) (k : Nat) : (s.setJob j r).swIn k = s.swIn k := rfl
@[simp] theorem State.wakeIn_setJob (s : State) (j : Nat) (r : JobRun) (k : Nat) : (s.setJob j r).wakeIn k = s.wakeIn k := rfl
@[simp] theorem State.ainIn_setJob (s : State) (j : Nat) (r : JobRun) (k : Nat) : (s.setJob j r).ainIn k = s.ainIn k := rfl
@[simp] theorem State.vsIn_setJob (s : State) (j : Nat) (r : JobRun) (k : Nat) : (s.setJob j r).vsIn k = s.vsIn k := rfl
@[simp] theorem State.gbank_setJob (s : State) (j : Nat) (r : JobRun) (k : Nat) : (s.setJob j r).gbank k = s.gbank k := rfl
@[simp] theorem State.grp_setJob (s : State) (j : Nat) (r : JobRun) (k : Nat) : (s.setJob j r).grp k = s.grp k := rfl
@[simp] theorem State.domOn_setJob (s : State) (j : Nat) (r : JobRun) (k : Nat) : (s.setJob j r).domOn k = s.domOn k := rfl
@[simp] theorem State.cn_setJob (s : State) (j : Nat) (r : JobRun) (k : Nat) : (s.setJob j r).cn k = s.cn k := rfl
@[simp] theorem State.ln_setJob (s : State) (j : Nat) (r : JobRun) (k : Nat) : (s.setJob j r).ln k = s.ln k := rfl
@[simp] theorem State.cr_setJob (s : State) (j : Nat) (r : JobRun) (k : Fin 2) : (s.setJob j r).cr k = s.cr k := rfl

@[simp] theorem State.reg_setOut (s : State) (o : Nat) (f : Outp → Outp) (k : Nat) : (s.setOut o f).reg k = s.reg k := rfl
@[simp] theorem State.fld_setOut (s : State) (o : Nat) (f : Outp → Outp) (fd : Fld) : (s.setOut o f).fld fd = s.fld fd := rfl
@[simp] theorem State.bit_setOut (s : State) (o : Nat) (f : Outp → Outp) (fd : Fld) : (s.setOut o f).bit fd = s.bit fd := rfl
@[simp] theorem State.feat_setOut (s : State) (o : Nat) (f : Outp → Outp) (k : Nat) : (s.setOut o f).feat k = s.feat k := rfl
@[simp] theorem State.mread_setOut (s : State) (o : Nat) (f : Outp → Outp) (k : Nat) : (s.setOut o f).mread k = s.mread k := rfl
@[simp] theorem State.pin_setOut (s : State) (o : Nat) (f : Outp → Outp) (y : Sensor) : (s.setOut o f).pin y = s.pin y := rfl
@[simp] theorem State.dieOf_setOut (s : State) (o : Nat) (f : Outp → Outp) (k : Nat) : (s.setOut o f).dieOf k = s.dieOf k := rfl
@[simp] theorem State.coil_setOut (s : State) (o : Nat) (f : Outp → Outp) (k : Nat) : (s.setOut o f).coil k = s.coil k := rfl
@[simp] theorem State.pbank_setOut (s : State) (o : Nat) (f : Outp → Outp) (k : Nat) : (s.setOut o f).pbank k = s.pbank k := rfl
@[simp] theorem State.px_setOut (s : State) (o : Nat) (f : Outp → Outp) (k : Nat) : (s.setOut o f).px k = s.px k := rfl
@[simp] theorem State.sink_setOut (s : State) (o : Nat) (f : Outp → Outp) (k : Nat) : (s.setOut o f).sink k = s.sink k := rfl
@[simp] theorem State.swIn_setOut (s : State) (o : Nat) (f : Outp → Outp) (k : Nat) : (s.setOut o f).swIn k = s.swIn k := rfl
@[simp] theorem State.wakeIn_setOut (s : State) (o : Nat) (f : Outp → Outp) (k : Nat) : (s.setOut o f).wakeIn k = s.wakeIn k := rfl
@[simp] theorem State.ainIn_setOut (s : State) (o : Nat) (f : Outp → Outp) (k : Nat) : (s.setOut o f).ainIn k = s.ainIn k := rfl
@[simp] theorem State.vsIn_setOut (s : State) (o : Nat) (f : Outp → Outp) (k : Nat) : (s.setOut o f).vsIn k = s.vsIn k := rfl
@[simp] theorem State.gbank_setOut (s : State) (o : Nat) (f : Outp → Outp) (k : Nat) : (s.setOut o f).gbank k = s.gbank k := rfl
@[simp] theorem State.grp_setOut (s : State) (o : Nat) (f : Outp → Outp) (k : Nat) : (s.setOut o f).grp k = s.grp k := rfl
@[simp] theorem State.domOn_setOut (s : State) (o : Nat) (f : Outp → Outp) (k : Nat) : (s.setOut o f).domOn k = s.domOn k := rfl
@[simp] theorem State.cn_setOut (s : State) (o : Nat) (f : Outp → Outp) (k : Nat) : (s.setOut o f).cn k = s.cn k := rfl
@[simp] theorem State.ln_setOut (s : State) (o : Nat) (f : Outp → Outp) (k : Nat) : (s.setOut o f).ln k = s.ln k := rfl
@[simp] theorem State.cr_setOut (s : State) (o : Nat) (f : Outp → Outp) (k : Fin 2) : (s.setOut o f).cr k = s.cr k := rfl

@[simp] theorem State.reg_setDie (s : State) (d : Nat) (f : Die → Die) (k : Nat) : (s.setDie d f).reg k = s.reg k := rfl
@[simp] theorem State.fld_setDie (s : State) (d : Nat) (f : Die → Die) (fd : Fld) : (s.setDie d f).fld fd = s.fld fd := rfl
@[simp] theorem State.bit_setDie (s : State) (d : Nat) (f : Die → Die) (fd : Fld) : (s.setDie d f).bit fd = s.bit fd := rfl
@[simp] theorem State.feat_setDie (s : State) (d : Nat) (f : Die → Die) (k : Nat) : (s.setDie d f).feat k = s.feat k := rfl
@[simp] theorem State.mread_setDie (s : State) (d : Nat) (f : Die → Die) (k : Nat) : (s.setDie d f).mread k = s.mread k := rfl
@[simp] theorem State.pin_setDie (s : State) (d : Nat) (f : Die → Die) (y : Sensor) : (s.setDie d f).pin y = s.pin y := rfl
@[simp] theorem State.out_setDie (s : State) (d : Nat) (f : Die → Die) (k : Nat) : (s.setDie d f).out k = s.out k := rfl
@[simp] theorem State.coil_setDie (s : State) (d : Nat) (f : Die → Die) (k : Nat) : (s.setDie d f).coil k = s.coil k := rfl
@[simp] theorem State.pbank_setDie (s : State) (d : Nat) (f : Die → Die) (k : Nat) : (s.setDie d f).pbank k = s.pbank k := rfl
@[simp] theorem State.px_setDie (s : State) (d : Nat) (f : Die → Die) (k : Nat) : (s.setDie d f).px k = s.px k := rfl
@[simp] theorem State.sink_setDie (s : State) (d : Nat) (f : Die → Die) (k : Nat) : (s.setDie d f).sink k = s.sink k := rfl
@[simp] theorem State.swIn_setDie (s : State) (d : Nat) (f : Die → Die) (k : Nat) : (s.setDie d f).swIn k = s.swIn k := rfl
@[simp] theorem State.wakeIn_setDie (s : State) (d : Nat) (f : Die → Die) (k : Nat) : (s.setDie d f).wakeIn k = s.wakeIn k := rfl
@[simp] theorem State.ainIn_setDie (s : State) (d : Nat) (f : Die → Die) (k : Nat) : (s.setDie d f).ainIn k = s.ainIn k := rfl
@[simp] theorem State.vsIn_setDie (s : State) (d : Nat) (f : Die → Die) (k : Nat) : (s.setDie d f).vsIn k = s.vsIn k := rfl
@[simp] theorem State.gbank_setDie (s : State) (d : Nat) (f : Die → Die) (k : Nat) : (s.setDie d f).gbank k = s.gbank k := rfl
@[simp] theorem State.grp_setDie (s : State) (d : Nat) (f : Die → Die) (k : Nat) : (s.setDie d f).grp k = s.grp k := rfl
@[simp] theorem State.domOn_setDie (s : State) (d : Nat) (f : Die → Die) (k : Nat) : (s.setDie d f).domOn k = s.domOn k := rfl
@[simp] theorem State.cn_setDie (s : State) (d : Nat) (f : Die → Die) (k : Nat) : (s.setDie d f).cn k = s.cn k := rfl
@[simp] theorem State.ln_setDie (s : State) (d : Nat) (f : Die → Die) (k : Nat) : (s.setDie d f).ln k = s.ln k := rfl
@[simp] theorem State.cr_setDie (s : State) (d : Nat) (f : Die → Die) (k : Fin 2) : (s.setDie d f).cr k = s.cr k := rfl

@[simp] theorem State.reg_setSwIn (s : State) (i : Nat) (f : SwIn → SwIn) (k : Nat) : (s.setSwIn i f).reg k = s.reg k := rfl
@[simp] theorem State.fld_setSwIn (s : State) (i : Nat) (f : SwIn → SwIn) (fd : Fld) : (s.setSwIn i f).fld fd = s.fld fd := rfl
@[simp] theorem State.bit_setSwIn (s : State) (i : Nat) (f : SwIn → SwIn) (fd : Fld) : (s.setSwIn i f).bit fd = s.bit fd := rfl
@[simp] theorem State.feat_setSwIn (s : State) (i : Nat) (f : SwIn → SwIn) (k : Nat) : (s.setSwIn i f).feat k = s.feat k := rfl
@[simp] theorem State.mread_setSwIn (s : State) (i : Nat) (f : SwIn → SwIn) (k : Nat) : (s.setSwIn i f).mread k = s.mread k := rfl
@[simp] theorem State.pin_setSwIn (s : State) (i : Nat) (f : SwIn → SwIn) (y : Sensor) : (s.setSwIn i f).pin y = s.pin y := rfl
@[simp] theorem State.out_setSwIn (s : State) (i : Nat) (f : SwIn → SwIn) (k : Nat) : (s.setSwIn i f).out k = s.out k := rfl
@[simp] theorem State.dieOf_setSwIn (s : State) (i : Nat) (f : SwIn → SwIn) (k : Nat) : (s.setSwIn i f).dieOf k = s.dieOf k := rfl
@[simp] theorem State.coil_setSwIn (s : State) (i : Nat) (f : SwIn → SwIn) (k : Nat) : (s.setSwIn i f).coil k = s.coil k := rfl
@[simp] theorem State.pbank_setSwIn (s : State) (i : Nat) (f : SwIn → SwIn) (k : Nat) : (s.setSwIn i f).pbank k = s.pbank k := rfl
@[simp] theorem State.px_setSwIn (s : State) (i : Nat) (f : SwIn → SwIn) (k : Nat) : (s.setSwIn i f).px k = s.px k := rfl
@[simp] theorem State.sink_setSwIn (s : State) (i : Nat) (f : SwIn → SwIn) (k : Nat) : (s.setSwIn i f).sink k = s.sink k := rfl
@[simp] theorem State.wakeIn_setSwIn (s : State) (i : Nat) (f : SwIn → SwIn) (k : Nat) : (s.setSwIn i f).wakeIn k = s.wakeIn k := rfl
@[simp] theorem State.ainIn_setSwIn (s : State) (i : Nat) (f : SwIn → SwIn) (k : Nat) : (s.setSwIn i f).ainIn k = s.ainIn k := rfl
@[simp] theorem State.vsIn_setSwIn (s : State) (i : Nat) (f : SwIn → SwIn) (k : Nat) : (s.setSwIn i f).vsIn k = s.vsIn k := rfl
@[simp] theorem State.gbank_setSwIn (s : State) (i : Nat) (f : SwIn → SwIn) (k : Nat) : (s.setSwIn i f).gbank k = s.gbank k := rfl
@[simp] theorem State.grp_setSwIn (s : State) (i : Nat) (f : SwIn → SwIn) (k : Nat) : (s.setSwIn i f).grp k = s.grp k := rfl
@[simp] theorem State.domOn_setSwIn (s : State) (i : Nat) (f : SwIn → SwIn) (k : Nat) : (s.setSwIn i f).domOn k = s.domOn k := rfl
@[simp] theorem State.cn_setSwIn (s : State) (i : Nat) (f : SwIn → SwIn) (k : Nat) : (s.setSwIn i f).cn k = s.cn k := rfl
@[simp] theorem State.ln_setSwIn (s : State) (i : Nat) (f : SwIn → SwIn) (k : Nat) : (s.setSwIn i f).ln k = s.ln k := rfl
@[simp] theorem State.cr_setSwIn (s : State) (i : Nat) (f : SwIn → SwIn) (k : Fin 2) : (s.setSwIn i f).cr k = s.cr k := rfl

@[simp] theorem State.reg_setWakeIn (s : State) (n : Nat) (f : WakeIn → WakeIn) (k : Nat) : (s.setWakeIn n f).reg k = s.reg k := rfl
@[simp] theorem State.fld_setWakeIn (s : State) (n : Nat) (f : WakeIn → WakeIn) (fd : Fld) : (s.setWakeIn n f).fld fd = s.fld fd := rfl
@[simp] theorem State.bit_setWakeIn (s : State) (n : Nat) (f : WakeIn → WakeIn) (fd : Fld) : (s.setWakeIn n f).bit fd = s.bit fd := rfl
@[simp] theorem State.feat_setWakeIn (s : State) (n : Nat) (f : WakeIn → WakeIn) (k : Nat) : (s.setWakeIn n f).feat k = s.feat k := rfl
@[simp] theorem State.mread_setWakeIn (s : State) (n : Nat) (f : WakeIn → WakeIn) (k : Nat) : (s.setWakeIn n f).mread k = s.mread k := rfl
@[simp] theorem State.pin_setWakeIn (s : State) (n : Nat) (f : WakeIn → WakeIn) (y : Sensor) : (s.setWakeIn n f).pin y = s.pin y := rfl
@[simp] theorem State.out_setWakeIn (s : State) (n : Nat) (f : WakeIn → WakeIn) (k : Nat) : (s.setWakeIn n f).out k = s.out k := rfl
@[simp] theorem State.dieOf_setWakeIn (s : State) (n : Nat) (f : WakeIn → WakeIn) (k : Nat) : (s.setWakeIn n f).dieOf k = s.dieOf k := rfl
@[simp] theorem State.coil_setWakeIn (s : State) (n : Nat) (f : WakeIn → WakeIn) (k : Nat) : (s.setWakeIn n f).coil k = s.coil k := rfl
@[simp] theorem State.pbank_setWakeIn (s : State) (n : Nat) (f : WakeIn → WakeIn) (k : Nat) : (s.setWakeIn n f).pbank k = s.pbank k := rfl
@[simp] theorem State.px_setWakeIn (s : State) (n : Nat) (f : WakeIn → WakeIn) (k : Nat) : (s.setWakeIn n f).px k = s.px k := rfl
@[simp] theorem State.sink_setWakeIn (s : State) (n : Nat) (f : WakeIn → WakeIn) (k : Nat) : (s.setWakeIn n f).sink k = s.sink k := rfl
@[simp] theorem State.swIn_setWakeIn (s : State) (n : Nat) (f : WakeIn → WakeIn) (k : Nat) : (s.setWakeIn n f).swIn k = s.swIn k := rfl
@[simp] theorem State.ainIn_setWakeIn (s : State) (n : Nat) (f : WakeIn → WakeIn) (k : Nat) : (s.setWakeIn n f).ainIn k = s.ainIn k := rfl
@[simp] theorem State.vsIn_setWakeIn (s : State) (n : Nat) (f : WakeIn → WakeIn) (k : Nat) : (s.setWakeIn n f).vsIn k = s.vsIn k := rfl
@[simp] theorem State.gbank_setWakeIn (s : State) (n : Nat) (f : WakeIn → WakeIn) (k : Nat) : (s.setWakeIn n f).gbank k = s.gbank k := rfl
@[simp] theorem State.grp_setWakeIn (s : State) (n : Nat) (f : WakeIn → WakeIn) (k : Nat) : (s.setWakeIn n f).grp k = s.grp k := rfl
@[simp] theorem State.domOn_setWakeIn (s : State) (n : Nat) (f : WakeIn → WakeIn) (k : Nat) : (s.setWakeIn n f).domOn k = s.domOn k := rfl
@[simp] theorem State.cn_setWakeIn (s : State) (n : Nat) (f : WakeIn → WakeIn) (k : Nat) : (s.setWakeIn n f).cn k = s.cn k := rfl
@[simp] theorem State.ln_setWakeIn (s : State) (n : Nat) (f : WakeIn → WakeIn) (k : Nat) : (s.setWakeIn n f).ln k = s.ln k := rfl
@[simp] theorem State.cr_setWakeIn (s : State) (n : Nat) (f : WakeIn → WakeIn) (k : Fin 2) : (s.setWakeIn n f).cr k = s.cr k := rfl

@[simp] theorem State.reg_setAin (s : State) (n : Nat) (f : AinIn → AinIn) (k : Nat) : (s.setAin n f).reg k = s.reg k := rfl
@[simp] theorem State.fld_setAin (s : State) (n : Nat) (f : AinIn → AinIn) (fd : Fld) : (s.setAin n f).fld fd = s.fld fd := rfl
@[simp] theorem State.bit_setAin (s : State) (n : Nat) (f : AinIn → AinIn) (fd : Fld) : (s.setAin n f).bit fd = s.bit fd := rfl
@[simp] theorem State.feat_setAin (s : State) (n : Nat) (f : AinIn → AinIn) (k : Nat) : (s.setAin n f).feat k = s.feat k := rfl
@[simp] theorem State.mread_setAin (s : State) (n : Nat) (f : AinIn → AinIn) (k : Nat) : (s.setAin n f).mread k = s.mread k := rfl
@[simp] theorem State.pin_setAin (s : State) (n : Nat) (f : AinIn → AinIn) (y : Sensor) : (s.setAin n f).pin y = s.pin y := rfl
@[simp] theorem State.out_setAin (s : State) (n : Nat) (f : AinIn → AinIn) (k : Nat) : (s.setAin n f).out k = s.out k := rfl
@[simp] theorem State.dieOf_setAin (s : State) (n : Nat) (f : AinIn → AinIn) (k : Nat) : (s.setAin n f).dieOf k = s.dieOf k := rfl
@[simp] theorem State.coil_setAin (s : State) (n : Nat) (f : AinIn → AinIn) (k : Nat) : (s.setAin n f).coil k = s.coil k := rfl
@[simp] theorem State.pbank_setAin (s : State) (n : Nat) (f : AinIn → AinIn) (k : Nat) : (s.setAin n f).pbank k = s.pbank k := rfl
@[simp] theorem State.px_setAin (s : State) (n : Nat) (f : AinIn → AinIn) (k : Nat) : (s.setAin n f).px k = s.px k := rfl
@[simp] theorem State.sink_setAin (s : State) (n : Nat) (f : AinIn → AinIn) (k : Nat) : (s.setAin n f).sink k = s.sink k := rfl
@[simp] theorem State.swIn_setAin (s : State) (n : Nat) (f : AinIn → AinIn) (k : Nat) : (s.setAin n f).swIn k = s.swIn k := rfl
@[simp] theorem State.wakeIn_setAin (s : State) (n : Nat) (f : AinIn → AinIn) (k : Nat) : (s.setAin n f).wakeIn k = s.wakeIn k := rfl
@[simp] theorem State.vsIn_setAin (s : State) (n : Nat) (f : AinIn → AinIn) (k : Nat) : (s.setAin n f).vsIn k = s.vsIn k := rfl
@[simp] theorem State.gbank_setAin (s : State) (n : Nat) (f : AinIn → AinIn) (k : Nat) : (s.setAin n f).gbank k = s.gbank k := rfl
@[simp] theorem State.grp_setAin (s : State) (n : Nat) (f : AinIn → AinIn) (k : Nat) : (s.setAin n f).grp k = s.grp k := rfl
@[simp] theorem State.domOn_setAin (s : State) (n : Nat) (f : AinIn → AinIn) (k : Nat) : (s.setAin n f).domOn k = s.domOn k := rfl
@[simp] theorem State.cn_setAin (s : State) (n : Nat) (f : AinIn → AinIn) (k : Nat) : (s.setAin n f).cn k = s.cn k := rfl
@[simp] theorem State.ln_setAin (s : State) (n : Nat) (f : AinIn → AinIn) (k : Nat) : (s.setAin n f).ln k = s.ln k := rfl
@[simp] theorem State.cr_setAin (s : State) (n : Nat) (f : AinIn → AinIn) (k : Fin 2) : (s.setAin n f).cr k = s.cr k := rfl

@[simp] theorem State.reg_setVs (s : State) (v : Nat) (f : VsIn → VsIn) (k : Nat) : (s.setVs v f).reg k = s.reg k := rfl
@[simp] theorem State.fld_setVs (s : State) (v : Nat) (f : VsIn → VsIn) (fd : Fld) : (s.setVs v f).fld fd = s.fld fd := rfl
@[simp] theorem State.bit_setVs (s : State) (v : Nat) (f : VsIn → VsIn) (fd : Fld) : (s.setVs v f).bit fd = s.bit fd := rfl
@[simp] theorem State.feat_setVs (s : State) (v : Nat) (f : VsIn → VsIn) (k : Nat) : (s.setVs v f).feat k = s.feat k := rfl
@[simp] theorem State.mread_setVs (s : State) (v : Nat) (f : VsIn → VsIn) (k : Nat) : (s.setVs v f).mread k = s.mread k := rfl
@[simp] theorem State.pin_setVs (s : State) (v : Nat) (f : VsIn → VsIn) (y : Sensor) : (s.setVs v f).pin y = s.pin y := rfl
@[simp] theorem State.out_setVs (s : State) (v : Nat) (f : VsIn → VsIn) (k : Nat) : (s.setVs v f).out k = s.out k := rfl
@[simp] theorem State.dieOf_setVs (s : State) (v : Nat) (f : VsIn → VsIn) (k : Nat) : (s.setVs v f).dieOf k = s.dieOf k := rfl
@[simp] theorem State.coil_setVs (s : State) (v : Nat) (f : VsIn → VsIn) (k : Nat) : (s.setVs v f).coil k = s.coil k := rfl
@[simp] theorem State.pbank_setVs (s : State) (v : Nat) (f : VsIn → VsIn) (k : Nat) : (s.setVs v f).pbank k = s.pbank k := rfl
@[simp] theorem State.px_setVs (s : State) (v : Nat) (f : VsIn → VsIn) (k : Nat) : (s.setVs v f).px k = s.px k := rfl
@[simp] theorem State.sink_setVs (s : State) (v : Nat) (f : VsIn → VsIn) (k : Nat) : (s.setVs v f).sink k = s.sink k := rfl
@[simp] theorem State.swIn_setVs (s : State) (v : Nat) (f : VsIn → VsIn) (k : Nat) : (s.setVs v f).swIn k = s.swIn k := rfl
@[simp] theorem State.wakeIn_setVs (s : State) (v : Nat) (f : VsIn → VsIn) (k : Nat) : (s.setVs v f).wakeIn k = s.wakeIn k := rfl
@[simp] theorem State.ainIn_setVs (s : State) (v : Nat) (f : VsIn → VsIn) (k : Nat) : (s.setVs v f).ainIn k = s.ainIn k := rfl
@[simp] theorem State.gbank_setVs (s : State) (v : Nat) (f : VsIn → VsIn) (k : Nat) : (s.setVs v f).gbank k = s.gbank k := rfl
@[simp] theorem State.grp_setVs (s : State) (v : Nat) (f : VsIn → VsIn) (k : Nat) : (s.setVs v f).grp k = s.grp k := rfl
@[simp] theorem State.domOn_setVs (s : State) (v : Nat) (f : VsIn → VsIn) (k : Nat) : (s.setVs v f).domOn k = s.domOn k := rfl
@[simp] theorem State.cn_setVs (s : State) (v : Nat) (f : VsIn → VsIn) (k : Nat) : (s.setVs v f).cn k = s.cn k := rfl
@[simp] theorem State.ln_setVs (s : State) (v : Nat) (f : VsIn → VsIn) (k : Nat) : (s.setVs v f).ln k = s.ln k := rfl
@[simp] theorem State.cr_setVs (s : State) (v : Nat) (f : VsIn → VsIn) (k : Fin 2) : (s.setVs v f).cr k = s.cr k := rfl

@[simp] theorem State.reg_setCoil (s : State) (n : Nat) (f : Coil → Coil) (k : Nat) : (s.setCoil n f).reg k = s.reg k := rfl
@[simp] theorem State.fld_setCoil (s : State) (n : Nat) (f : Coil → Coil) (fd : Fld) : (s.setCoil n f).fld fd = s.fld fd := rfl
@[simp] theorem State.bit_setCoil (s : State) (n : Nat) (f : Coil → Coil) (fd : Fld) : (s.setCoil n f).bit fd = s.bit fd := rfl
@[simp] theorem State.feat_setCoil (s : State) (n : Nat) (f : Coil → Coil) (k : Nat) : (s.setCoil n f).feat k = s.feat k := rfl
@[simp] theorem State.mread_setCoil (s : State) (n : Nat) (f : Coil → Coil) (k : Nat) : (s.setCoil n f).mread k = s.mread k := rfl
@[simp] theorem State.pin_setCoil (s : State) (n : Nat) (f : Coil → Coil) (y : Sensor) : (s.setCoil n f).pin y = s.pin y := rfl
@[simp] theorem State.out_setCoil (s : State) (n : Nat) (f : Coil → Coil) (k : Nat) : (s.setCoil n f).out k = s.out k := rfl
@[simp] theorem State.dieOf_setCoil (s : State) (n : Nat) (f : Coil → Coil) (k : Nat) : (s.setCoil n f).dieOf k = s.dieOf k := rfl
@[simp] theorem State.pbank_setCoil (s : State) (n : Nat) (f : Coil → Coil) (k : Nat) : (s.setCoil n f).pbank k = s.pbank k := rfl
@[simp] theorem State.px_setCoil (s : State) (n : Nat) (f : Coil → Coil) (k : Nat) : (s.setCoil n f).px k = s.px k := rfl
@[simp] theorem State.sink_setCoil (s : State) (n : Nat) (f : Coil → Coil) (k : Nat) : (s.setCoil n f).sink k = s.sink k := rfl
@[simp] theorem State.swIn_setCoil (s : State) (n : Nat) (f : Coil → Coil) (k : Nat) : (s.setCoil n f).swIn k = s.swIn k := rfl
@[simp] theorem State.wakeIn_setCoil (s : State) (n : Nat) (f : Coil → Coil) (k : Nat) : (s.setCoil n f).wakeIn k = s.wakeIn k := rfl
@[simp] theorem State.ainIn_setCoil (s : State) (n : Nat) (f : Coil → Coil) (k : Nat) : (s.setCoil n f).ainIn k = s.ainIn k := rfl
@[simp] theorem State.vsIn_setCoil (s : State) (n : Nat) (f : Coil → Coil) (k : Nat) : (s.setCoil n f).vsIn k = s.vsIn k := rfl
@[simp] theorem State.gbank_setCoil (s : State) (n : Nat) (f : Coil → Coil) (k : Nat) : (s.setCoil n f).gbank k = s.gbank k := rfl
@[simp] theorem State.grp_setCoil (s : State) (n : Nat) (f : Coil → Coil) (k : Nat) : (s.setCoil n f).grp k = s.grp k := rfl
@[simp] theorem State.domOn_setCoil (s : State) (n : Nat) (f : Coil → Coil) (k : Nat) : (s.setCoil n f).domOn k = s.domOn k := rfl
@[simp] theorem State.cn_setCoil (s : State) (n : Nat) (f : Coil → Coil) (k : Nat) : (s.setCoil n f).cn k = s.cn k := rfl
@[simp] theorem State.ln_setCoil (s : State) (n : Nat) (f : Coil → Coil) (k : Nat) : (s.setCoil n f).ln k = s.ln k := rfl
@[simp] theorem State.cr_setCoil (s : State) (n : Nat) (f : Coil → Coil) (k : Fin 2) : (s.setCoil n f).cr k = s.cr k := rfl

@[simp] theorem State.reg_setPbank (s : State) (b : Nat) (f : Bank → Bank) (k : Nat) : (s.setPbank b f).reg k = s.reg k := rfl
@[simp] theorem State.fld_setPbank (s : State) (b : Nat) (f : Bank → Bank) (fd : Fld) : (s.setPbank b f).fld fd = s.fld fd := rfl
@[simp] theorem State.bit_setPbank (s : State) (b : Nat) (f : Bank → Bank) (fd : Fld) : (s.setPbank b f).bit fd = s.bit fd := rfl
@[simp] theorem State.feat_setPbank (s : State) (b : Nat) (f : Bank → Bank) (k : Nat) : (s.setPbank b f).feat k = s.feat k := rfl
@[simp] theorem State.mread_setPbank (s : State) (b : Nat) (f : Bank → Bank) (k : Nat) : (s.setPbank b f).mread k = s.mread k := rfl
@[simp] theorem State.pin_setPbank (s : State) (b : Nat) (f : Bank → Bank) (y : Sensor) : (s.setPbank b f).pin y = s.pin y := rfl
@[simp] theorem State.out_setPbank (s : State) (b : Nat) (f : Bank → Bank) (k : Nat) : (s.setPbank b f).out k = s.out k := rfl
@[simp] theorem State.dieOf_setPbank (s : State) (b : Nat) (f : Bank → Bank) (k : Nat) : (s.setPbank b f).dieOf k = s.dieOf k := rfl
@[simp] theorem State.coil_setPbank (s : State) (b : Nat) (f : Bank → Bank) (k : Nat) : (s.setPbank b f).coil k = s.coil k := rfl
@[simp] theorem State.px_setPbank (s : State) (b : Nat) (f : Bank → Bank) (k : Nat) : (s.setPbank b f).px k = s.px k := rfl
@[simp] theorem State.sink_setPbank (s : State) (b : Nat) (f : Bank → Bank) (k : Nat) : (s.setPbank b f).sink k = s.sink k := rfl
@[simp] theorem State.swIn_setPbank (s : State) (b : Nat) (f : Bank → Bank) (k : Nat) : (s.setPbank b f).swIn k = s.swIn k := rfl
@[simp] theorem State.wakeIn_setPbank (s : State) (b : Nat) (f : Bank → Bank) (k : Nat) : (s.setPbank b f).wakeIn k = s.wakeIn k := rfl
@[simp] theorem State.ainIn_setPbank (s : State) (b : Nat) (f : Bank → Bank) (k : Nat) : (s.setPbank b f).ainIn k = s.ainIn k := rfl
@[simp] theorem State.vsIn_setPbank (s : State) (b : Nat) (f : Bank → Bank) (k : Nat) : (s.setPbank b f).vsIn k = s.vsIn k := rfl
@[simp] theorem State.gbank_setPbank (s : State) (b : Nat) (f : Bank → Bank) (k : Nat) : (s.setPbank b f).gbank k = s.gbank k := rfl
@[simp] theorem State.grp_setPbank (s : State) (b : Nat) (f : Bank → Bank) (k : Nat) : (s.setPbank b f).grp k = s.grp k := rfl
@[simp] theorem State.domOn_setPbank (s : State) (b : Nat) (f : Bank → Bank) (k : Nat) : (s.setPbank b f).domOn k = s.domOn k := rfl
@[simp] theorem State.cn_setPbank (s : State) (b : Nat) (f : Bank → Bank) (k : Nat) : (s.setPbank b f).cn k = s.cn k := rfl
@[simp] theorem State.ln_setPbank (s : State) (b : Nat) (f : Bank → Bank) (k : Nat) : (s.setPbank b f).ln k = s.ln k := rfl
@[simp] theorem State.cr_setPbank (s : State) (b : Nat) (f : Bank → Bank) (k : Fin 2) : (s.setPbank b f).cr k = s.cr k := rfl

@[simp] theorem State.reg_setPx (s : State) (x : Nat) (f : Px → Px) (k : Nat) : (s.setPx x f).reg k = s.reg k := rfl
@[simp] theorem State.fld_setPx (s : State) (x : Nat) (f : Px → Px) (fd : Fld) : (s.setPx x f).fld fd = s.fld fd := rfl
@[simp] theorem State.bit_setPx (s : State) (x : Nat) (f : Px → Px) (fd : Fld) : (s.setPx x f).bit fd = s.bit fd := rfl
@[simp] theorem State.feat_setPx (s : State) (x : Nat) (f : Px → Px) (k : Nat) : (s.setPx x f).feat k = s.feat k := rfl
@[simp] theorem State.mread_setPx (s : State) (x : Nat) (f : Px → Px) (k : Nat) : (s.setPx x f).mread k = s.mread k := rfl
@[simp] theorem State.pin_setPx (s : State) (x : Nat) (f : Px → Px) (y : Sensor) : (s.setPx x f).pin y = s.pin y := rfl
@[simp] theorem State.out_setPx (s : State) (x : Nat) (f : Px → Px) (k : Nat) : (s.setPx x f).out k = s.out k := rfl
@[simp] theorem State.dieOf_setPx (s : State) (x : Nat) (f : Px → Px) (k : Nat) : (s.setPx x f).dieOf k = s.dieOf k := rfl
@[simp] theorem State.coil_setPx (s : State) (x : Nat) (f : Px → Px) (k : Nat) : (s.setPx x f).coil k = s.coil k := rfl
@[simp] theorem State.pbank_setPx (s : State) (x : Nat) (f : Px → Px) (k : Nat) : (s.setPx x f).pbank k = s.pbank k := rfl
@[simp] theorem State.sink_setPx (s : State) (x : Nat) (f : Px → Px) (k : Nat) : (s.setPx x f).sink k = s.sink k := rfl
@[simp] theorem State.swIn_setPx (s : State) (x : Nat) (f : Px → Px) (k : Nat) : (s.setPx x f).swIn k = s.swIn k := rfl
@[simp] theorem State.wakeIn_setPx (s : State) (x : Nat) (f : Px → Px) (k : Nat) : (s.setPx x f).wakeIn k = s.wakeIn k := rfl
@[simp] theorem State.ainIn_setPx (s : State) (x : Nat) (f : Px → Px) (k : Nat) : (s.setPx x f).ainIn k = s.ainIn k := rfl
@[simp] theorem State.vsIn_setPx (s : State) (x : Nat) (f : Px → Px) (k : Nat) : (s.setPx x f).vsIn k = s.vsIn k := rfl
@[simp] theorem State.gbank_setPx (s : State) (x : Nat) (f : Px → Px) (k : Nat) : (s.setPx x f).gbank k = s.gbank k := rfl
@[simp] theorem State.grp_setPx (s : State) (x : Nat) (f : Px → Px) (k : Nat) : (s.setPx x f).grp k = s.grp k := rfl
@[simp] theorem State.domOn_setPx (s : State) (x : Nat) (f : Px → Px) (k : Nat) : (s.setPx x f).domOn k = s.domOn k := rfl
@[simp] theorem State.cn_setPx (s : State) (x : Nat) (f : Px → Px) (k : Nat) : (s.setPx x f).cn k = s.cn k := rfl
@[simp] theorem State.ln_setPx (s : State) (x : Nat) (f : Px → Px) (k : Nat) : (s.setPx x f).ln k = s.ln k := rfl
@[simp] theorem State.cr_setPx (s : State) (x : Nat) (f : Px → Px) (k : Fin 2) : (s.setPx x f).cr k = s.cr k := rfl

@[simp] theorem State.reg_setSink (s : State) (n : Nat) (f : Led → Led) (k : Nat) : (s.setSink n f).reg k = s.reg k := rfl
@[simp] theorem State.fld_setSink (s : State) (n : Nat) (f : Led → Led) (fd : Fld) : (s.setSink n f).fld fd = s.fld fd := rfl
@[simp] theorem State.bit_setSink (s : State) (n : Nat) (f : Led → Led) (fd : Fld) : (s.setSink n f).bit fd = s.bit fd := rfl
@[simp] theorem State.feat_setSink (s : State) (n : Nat) (f : Led → Led) (k : Nat) : (s.setSink n f).feat k = s.feat k := rfl
@[simp] theorem State.mread_setSink (s : State) (n : Nat) (f : Led → Led) (k : Nat) : (s.setSink n f).mread k = s.mread k := rfl
@[simp] theorem State.pin_setSink (s : State) (n : Nat) (f : Led → Led) (y : Sensor) : (s.setSink n f).pin y = s.pin y := rfl
@[simp] theorem State.out_setSink (s : State) (n : Nat) (f : Led → Led) (k : Nat) : (s.setSink n f).out k = s.out k := rfl
@[simp] theorem State.dieOf_setSink (s : State) (n : Nat) (f : Led → Led) (k : Nat) : (s.setSink n f).dieOf k = s.dieOf k := rfl
@[simp] theorem State.coil_setSink (s : State) (n : Nat) (f : Led → Led) (k : Nat) : (s.setSink n f).coil k = s.coil k := rfl
@[simp] theorem State.pbank_setSink (s : State) (n : Nat) (f : Led → Led) (k : Nat) : (s.setSink n f).pbank k = s.pbank k := rfl
@[simp] theorem State.px_setSink (s : State) (n : Nat) (f : Led → Led) (k : Nat) : (s.setSink n f).px k = s.px k := rfl
@[simp] theorem State.swIn_setSink (s : State) (n : Nat) (f : Led → Led) (k : Nat) : (s.setSink n f).swIn k = s.swIn k := rfl
@[simp] theorem State.wakeIn_setSink (s : State) (n : Nat) (f : Led → Led) (k : Nat) : (s.setSink n f).wakeIn k = s.wakeIn k := rfl
@[simp] theorem State.ainIn_setSink (s : State) (n : Nat) (f : Led → Led) (k : Nat) : (s.setSink n f).ainIn k = s.ainIn k := rfl
@[simp] theorem State.vsIn_setSink (s : State) (n : Nat) (f : Led → Led) (k : Nat) : (s.setSink n f).vsIn k = s.vsIn k := rfl
@[simp] theorem State.gbank_setSink (s : State) (n : Nat) (f : Led → Led) (k : Nat) : (s.setSink n f).gbank k = s.gbank k := rfl
@[simp] theorem State.grp_setSink (s : State) (n : Nat) (f : Led → Led) (k : Nat) : (s.setSink n f).grp k = s.grp k := rfl
@[simp] theorem State.domOn_setSink (s : State) (n : Nat) (f : Led → Led) (k : Nat) : (s.setSink n f).domOn k = s.domOn k := rfl
@[simp] theorem State.cn_setSink (s : State) (n : Nat) (f : Led → Led) (k : Nat) : (s.setSink n f).cn k = s.cn k := rfl
@[simp] theorem State.ln_setSink (s : State) (n : Nat) (f : Led → Led) (k : Nat) : (s.setSink n f).ln k = s.ln k := rfl
@[simp] theorem State.cr_setSink (s : State) (n : Nat) (f : Led → Led) (k : Fin 2) : (s.setSink n f).cr k = s.cr k := rfl

@[simp] theorem State.reg_setGbank (s : State) (b : Nat) (f : GBank → GBank) (k : Nat) : (s.setGbank b f).reg k = s.reg k := rfl
@[simp] theorem State.fld_setGbank (s : State) (b : Nat) (f : GBank → GBank) (fd : Fld) : (s.setGbank b f).fld fd = s.fld fd := rfl
@[simp] theorem State.bit_setGbank (s : State) (b : Nat) (f : GBank → GBank) (fd : Fld) : (s.setGbank b f).bit fd = s.bit fd := rfl
@[simp] theorem State.feat_setGbank (s : State) (b : Nat) (f : GBank → GBank) (k : Nat) : (s.setGbank b f).feat k = s.feat k := rfl
@[simp] theorem State.mread_setGbank (s : State) (b : Nat) (f : GBank → GBank) (k : Nat) : (s.setGbank b f).mread k = s.mread k := rfl
@[simp] theorem State.pin_setGbank (s : State) (b : Nat) (f : GBank → GBank) (y : Sensor) : (s.setGbank b f).pin y = s.pin y := rfl
@[simp] theorem State.out_setGbank (s : State) (b : Nat) (f : GBank → GBank) (k : Nat) : (s.setGbank b f).out k = s.out k := rfl
@[simp] theorem State.dieOf_setGbank (s : State) (b : Nat) (f : GBank → GBank) (k : Nat) : (s.setGbank b f).dieOf k = s.dieOf k := rfl
@[simp] theorem State.coil_setGbank (s : State) (b : Nat) (f : GBank → GBank) (k : Nat) : (s.setGbank b f).coil k = s.coil k := rfl
@[simp] theorem State.pbank_setGbank (s : State) (b : Nat) (f : GBank → GBank) (k : Nat) : (s.setGbank b f).pbank k = s.pbank k := rfl
@[simp] theorem State.px_setGbank (s : State) (b : Nat) (f : GBank → GBank) (k : Nat) : (s.setGbank b f).px k = s.px k := rfl
@[simp] theorem State.sink_setGbank (s : State) (b : Nat) (f : GBank → GBank) (k : Nat) : (s.setGbank b f).sink k = s.sink k := rfl
@[simp] theorem State.swIn_setGbank (s : State) (b : Nat) (f : GBank → GBank) (k : Nat) : (s.setGbank b f).swIn k = s.swIn k := rfl
@[simp] theorem State.wakeIn_setGbank (s : State) (b : Nat) (f : GBank → GBank) (k : Nat) : (s.setGbank b f).wakeIn k = s.wakeIn k := rfl
@[simp] theorem State.ainIn_setGbank (s : State) (b : Nat) (f : GBank → GBank) (k : Nat) : (s.setGbank b f).ainIn k = s.ainIn k := rfl
@[simp] theorem State.vsIn_setGbank (s : State) (b : Nat) (f : GBank → GBank) (k : Nat) : (s.setGbank b f).vsIn k = s.vsIn k := rfl
@[simp] theorem State.grp_setGbank (s : State) (b : Nat) (f : GBank → GBank) (k : Nat) : (s.setGbank b f).grp k = s.grp k := rfl
@[simp] theorem State.domOn_setGbank (s : State) (b : Nat) (f : GBank → GBank) (k : Nat) : (s.setGbank b f).domOn k = s.domOn k := rfl
@[simp] theorem State.cn_setGbank (s : State) (b : Nat) (f : GBank → GBank) (k : Nat) : (s.setGbank b f).cn k = s.cn k := rfl
@[simp] theorem State.ln_setGbank (s : State) (b : Nat) (f : GBank → GBank) (k : Nat) : (s.setGbank b f).ln k = s.ln k := rfl
@[simp] theorem State.cr_setGbank (s : State) (b : Nat) (f : GBank → GBank) (k : Fin 2) : (s.setGbank b f).cr k = s.cr k := rfl

@[simp] theorem State.reg_setDom (s : State) (d : Nat) (f : Dom → Dom) (k : Nat) : (s.setDom d f).reg k = s.reg k := rfl
@[simp] theorem State.fld_setDom (s : State) (d : Nat) (f : Dom → Dom) (fd : Fld) : (s.setDom d f).fld fd = s.fld fd := rfl
@[simp] theorem State.bit_setDom (s : State) (d : Nat) (f : Dom → Dom) (fd : Fld) : (s.setDom d f).bit fd = s.bit fd := rfl
@[simp] theorem State.feat_setDom (s : State) (d : Nat) (f : Dom → Dom) (k : Nat) : (s.setDom d f).feat k = s.feat k := rfl
@[simp] theorem State.mread_setDom (s : State) (d : Nat) (f : Dom → Dom) (k : Nat) : (s.setDom d f).mread k = s.mread k := rfl
@[simp] theorem State.pin_setDom (s : State) (d : Nat) (f : Dom → Dom) (y : Sensor) : (s.setDom d f).pin y = s.pin y := rfl
@[simp] theorem State.out_setDom (s : State) (d : Nat) (f : Dom → Dom) (k : Nat) : (s.setDom d f).out k = s.out k := rfl
@[simp] theorem State.dieOf_setDom (s : State) (d : Nat) (f : Dom → Dom) (k : Nat) : (s.setDom d f).dieOf k = s.dieOf k := rfl
@[simp] theorem State.coil_setDom (s : State) (d : Nat) (f : Dom → Dom) (k : Nat) : (s.setDom d f).coil k = s.coil k := rfl
@[simp] theorem State.pbank_setDom (s : State) (d : Nat) (f : Dom → Dom) (k : Nat) : (s.setDom d f).pbank k = s.pbank k := rfl
@[simp] theorem State.px_setDom (s : State) (d : Nat) (f : Dom → Dom) (k : Nat) : (s.setDom d f).px k = s.px k := rfl
@[simp] theorem State.sink_setDom (s : State) (d : Nat) (f : Dom → Dom) (k : Nat) : (s.setDom d f).sink k = s.sink k := rfl
@[simp] theorem State.swIn_setDom (s : State) (d : Nat) (f : Dom → Dom) (k : Nat) : (s.setDom d f).swIn k = s.swIn k := rfl
@[simp] theorem State.wakeIn_setDom (s : State) (d : Nat) (f : Dom → Dom) (k : Nat) : (s.setDom d f).wakeIn k = s.wakeIn k := rfl
@[simp] theorem State.ainIn_setDom (s : State) (d : Nat) (f : Dom → Dom) (k : Nat) : (s.setDom d f).ainIn k = s.ainIn k := rfl
@[simp] theorem State.vsIn_setDom (s : State) (d : Nat) (f : Dom → Dom) (k : Nat) : (s.setDom d f).vsIn k = s.vsIn k := rfl
@[simp] theorem State.gbank_setDom (s : State) (d : Nat) (f : Dom → Dom) (k : Nat) : (s.setDom d f).gbank k = s.gbank k := rfl
@[simp] theorem State.grp_setDom (s : State) (d : Nat) (f : Dom → Dom) (k : Nat) : (s.setDom d f).grp k = s.grp k := rfl
@[simp] theorem State.cn_setDom (s : State) (d : Nat) (f : Dom → Dom) (k : Nat) : (s.setDom d f).cn k = s.cn k := rfl
@[simp] theorem State.ln_setDom (s : State) (d : Nat) (f : Dom → Dom) (k : Nat) : (s.setDom d f).ln k = s.ln k := rfl
@[simp] theorem State.cr_setDom (s : State) (d : Nat) (f : Dom → Dom) (k : Fin 2) : (s.setDom d f).cr k = s.cr k := rfl

@[simp] theorem State.reg_setGrp (s : State) (g : Nat) (f : Grp → Grp) (k : Nat) : (s.setGrp g f).reg k = s.reg k := rfl
@[simp] theorem State.fld_setGrp (s : State) (g : Nat) (f : Grp → Grp) (fd : Fld) : (s.setGrp g f).fld fd = s.fld fd := rfl
@[simp] theorem State.bit_setGrp (s : State) (g : Nat) (f : Grp → Grp) (fd : Fld) : (s.setGrp g f).bit fd = s.bit fd := rfl
@[simp] theorem State.feat_setGrp (s : State) (g : Nat) (f : Grp → Grp) (k : Nat) : (s.setGrp g f).feat k = s.feat k := rfl
@[simp] theorem State.mread_setGrp (s : State) (g : Nat) (f : Grp → Grp) (k : Nat) : (s.setGrp g f).mread k = s.mread k := rfl
@[simp] theorem State.pin_setGrp (s : State) (g : Nat) (f : Grp → Grp) (y : Sensor) : (s.setGrp g f).pin y = s.pin y := rfl
@[simp] theorem State.out_setGrp (s : State) (g : Nat) (f : Grp → Grp) (k : Nat) : (s.setGrp g f).out k = s.out k := rfl
@[simp] theorem State.dieOf_setGrp (s : State) (g : Nat) (f : Grp → Grp) (k : Nat) : (s.setGrp g f).dieOf k = s.dieOf k := rfl
@[simp] theorem State.coil_setGrp (s : State) (g : Nat) (f : Grp → Grp) (k : Nat) : (s.setGrp g f).coil k = s.coil k := rfl
@[simp] theorem State.pbank_setGrp (s : State) (g : Nat) (f : Grp → Grp) (k : Nat) : (s.setGrp g f).pbank k = s.pbank k := rfl
@[simp] theorem State.px_setGrp (s : State) (g : Nat) (f : Grp → Grp) (k : Nat) : (s.setGrp g f).px k = s.px k := rfl
@[simp] theorem State.sink_setGrp (s : State) (g : Nat) (f : Grp → Grp) (k : Nat) : (s.setGrp g f).sink k = s.sink k := rfl
@[simp] theorem State.swIn_setGrp (s : State) (g : Nat) (f : Grp → Grp) (k : Nat) : (s.setGrp g f).swIn k = s.swIn k := rfl
@[simp] theorem State.wakeIn_setGrp (s : State) (g : Nat) (f : Grp → Grp) (k : Nat) : (s.setGrp g f).wakeIn k = s.wakeIn k := rfl
@[simp] theorem State.ainIn_setGrp (s : State) (g : Nat) (f : Grp → Grp) (k : Nat) : (s.setGrp g f).ainIn k = s.ainIn k := rfl
@[simp] theorem State.vsIn_setGrp (s : State) (g : Nat) (f : Grp → Grp) (k : Nat) : (s.setGrp g f).vsIn k = s.vsIn k := rfl
@[simp] theorem State.gbank_setGrp (s : State) (g : Nat) (f : Grp → Grp) (k : Nat) : (s.setGrp g f).gbank k = s.gbank k := rfl
@[simp] theorem State.domOn_setGrp (s : State) (g : Nat) (f : Grp → Grp) (k : Nat) : (s.setGrp g f).domOn k = s.domOn k := rfl
@[simp] theorem State.cn_setGrp (s : State) (g : Nat) (f : Grp → Grp) (k : Nat) : (s.setGrp g f).cn k = s.cn k := rfl
@[simp] theorem State.ln_setGrp (s : State) (g : Nat) (f : Grp → Grp) (k : Nat) : (s.setGrp g f).ln k = s.ln k := rfl
@[simp] theorem State.cr_setGrp (s : State) (g : Nat) (f : Grp → Grp) (k : Fin 2) : (s.setGrp g f).cr k = s.cr k := rfl

@[simp] theorem State.reg_setCan (s : State) (n : Nat) (f : Can → Can) (k : Nat) : (s.setCan n f).reg k = s.reg k := rfl
@[simp] theorem State.fld_setCan (s : State) (n : Nat) (f : Can → Can) (fd : Fld) : (s.setCan n f).fld fd = s.fld fd := rfl
@[simp] theorem State.bit_setCan (s : State) (n : Nat) (f : Can → Can) (fd : Fld) : (s.setCan n f).bit fd = s.bit fd := rfl
@[simp] theorem State.feat_setCan (s : State) (n : Nat) (f : Can → Can) (k : Nat) : (s.setCan n f).feat k = s.feat k := rfl
@[simp] theorem State.mread_setCan (s : State) (n : Nat) (f : Can → Can) (k : Nat) : (s.setCan n f).mread k = s.mread k := rfl
@[simp] theorem State.pin_setCan (s : State) (n : Nat) (f : Can → Can) (y : Sensor) : (s.setCan n f).pin y = s.pin y := rfl
@[simp] theorem State.out_setCan (s : State) (n : Nat) (f : Can → Can) (k : Nat) : (s.setCan n f).out k = s.out k := rfl
@[simp] theorem State.dieOf_setCan (s : State) (n : Nat) (f : Can → Can) (k : Nat) : (s.setCan n f).dieOf k = s.dieOf k := rfl
@[simp] theorem State.coil_setCan (s : State) (n : Nat) (f : Can → Can) (k : Nat) : (s.setCan n f).coil k = s.coil k := rfl
@[simp] theorem State.pbank_setCan (s : State) (n : Nat) (f : Can → Can) (k : Nat) : (s.setCan n f).pbank k = s.pbank k := rfl
@[simp] theorem State.px_setCan (s : State) (n : Nat) (f : Can → Can) (k : Nat) : (s.setCan n f).px k = s.px k := rfl
@[simp] theorem State.sink_setCan (s : State) (n : Nat) (f : Can → Can) (k : Nat) : (s.setCan n f).sink k = s.sink k := rfl
@[simp] theorem State.swIn_setCan (s : State) (n : Nat) (f : Can → Can) (k : Nat) : (s.setCan n f).swIn k = s.swIn k := rfl
@[simp] theorem State.wakeIn_setCan (s : State) (n : Nat) (f : Can → Can) (k : Nat) : (s.setCan n f).wakeIn k = s.wakeIn k := rfl
@[simp] theorem State.ainIn_setCan (s : State) (n : Nat) (f : Can → Can) (k : Nat) : (s.setCan n f).ainIn k = s.ainIn k := rfl
@[simp] theorem State.vsIn_setCan (s : State) (n : Nat) (f : Can → Can) (k : Nat) : (s.setCan n f).vsIn k = s.vsIn k := rfl
@[simp] theorem State.gbank_setCan (s : State) (n : Nat) (f : Can → Can) (k : Nat) : (s.setCan n f).gbank k = s.gbank k := rfl
@[simp] theorem State.grp_setCan (s : State) (n : Nat) (f : Can → Can) (k : Nat) : (s.setCan n f).grp k = s.grp k := rfl
@[simp] theorem State.domOn_setCan (s : State) (n : Nat) (f : Can → Can) (k : Nat) : (s.setCan n f).domOn k = s.domOn k := rfl
@[simp] theorem State.ln_setCan (s : State) (n : Nat) (f : Can → Can) (k : Nat) : (s.setCan n f).ln k = s.ln k := rfl
@[simp] theorem State.cr_setCan (s : State) (n : Nat) (f : Can → Can) (k : Fin 2) : (s.setCan n f).cr k = s.cr k := rfl

@[simp] theorem State.reg_setLin (s : State) (n : Nat) (f : Lin → Lin) (k : Nat) : (s.setLin n f).reg k = s.reg k := rfl
@[simp] theorem State.fld_setLin (s : State) (n : Nat) (f : Lin → Lin) (fd : Fld) : (s.setLin n f).fld fd = s.fld fd := rfl
@[simp] theorem State.bit_setLin (s : State) (n : Nat) (f : Lin → Lin) (fd : Fld) : (s.setLin n f).bit fd = s.bit fd := rfl
@[simp] theorem State.feat_setLin (s : State) (n : Nat) (f : Lin → Lin) (k : Nat) : (s.setLin n f).feat k = s.feat k := rfl
@[simp] theorem State.mread_setLin (s : State) (n : Nat) (f : Lin → Lin) (k : Nat) : (s.setLin n f).mread k = s.mread k := rfl
@[simp] theorem State.pin_setLin (s : State) (n : Nat) (f : Lin → Lin) (y : Sensor) : (s.setLin n f).pin y = s.pin y := rfl
@[simp] theorem State.out_setLin (s : State) (n : Nat) (f : Lin → Lin) (k : Nat) : (s.setLin n f).out k = s.out k := rfl
@[simp] theorem State.dieOf_setLin (s : State) (n : Nat) (f : Lin → Lin) (k : Nat) : (s.setLin n f).dieOf k = s.dieOf k := rfl
@[simp] theorem State.coil_setLin (s : State) (n : Nat) (f : Lin → Lin) (k : Nat) : (s.setLin n f).coil k = s.coil k := rfl
@[simp] theorem State.pbank_setLin (s : State) (n : Nat) (f : Lin → Lin) (k : Nat) : (s.setLin n f).pbank k = s.pbank k := rfl
@[simp] theorem State.px_setLin (s : State) (n : Nat) (f : Lin → Lin) (k : Nat) : (s.setLin n f).px k = s.px k := rfl
@[simp] theorem State.sink_setLin (s : State) (n : Nat) (f : Lin → Lin) (k : Nat) : (s.setLin n f).sink k = s.sink k := rfl
@[simp] theorem State.swIn_setLin (s : State) (n : Nat) (f : Lin → Lin) (k : Nat) : (s.setLin n f).swIn k = s.swIn k := rfl
@[simp] theorem State.wakeIn_setLin (s : State) (n : Nat) (f : Lin → Lin) (k : Nat) : (s.setLin n f).wakeIn k = s.wakeIn k := rfl
@[simp] theorem State.ainIn_setLin (s : State) (n : Nat) (f : Lin → Lin) (k : Nat) : (s.setLin n f).ainIn k = s.ainIn k := rfl
@[simp] theorem State.vsIn_setLin (s : State) (n : Nat) (f : Lin → Lin) (k : Nat) : (s.setLin n f).vsIn k = s.vsIn k := rfl
@[simp] theorem State.gbank_setLin (s : State) (n : Nat) (f : Lin → Lin) (k : Nat) : (s.setLin n f).gbank k = s.gbank k := rfl
@[simp] theorem State.grp_setLin (s : State) (n : Nat) (f : Lin → Lin) (k : Nat) : (s.setLin n f).grp k = s.grp k := rfl
@[simp] theorem State.domOn_setLin (s : State) (n : Nat) (f : Lin → Lin) (k : Nat) : (s.setLin n f).domOn k = s.domOn k := rfl
@[simp] theorem State.cn_setLin (s : State) (n : Nat) (f : Lin → Lin) (k : Nat) : (s.setLin n f).cn k = s.cn k := rfl
@[simp] theorem State.cr_setLin (s : State) (n : Nat) (f : Lin → Lin) (k : Fin 2) : (s.setLin n f).cr k = s.cr k := rfl

@[simp] theorem State.reg_setNm (s : State) (f : Nm → Nm) (k : Nat) : (s.setNm f).reg k = s.reg k := rfl
@[simp] theorem State.fld_setNm (s : State) (f : Nm → Nm) (fd : Fld) : (s.setNm f).fld fd = s.fld fd := rfl
@[simp] theorem State.bit_setNm (s : State) (f : Nm → Nm) (fd : Fld) : (s.setNm f).bit fd = s.bit fd := rfl
@[simp] theorem State.feat_setNm (s : State) (f : Nm → Nm) (k : Nat) : (s.setNm f).feat k = s.feat k := rfl
@[simp] theorem State.mread_setNm (s : State) (f : Nm → Nm) (k : Nat) : (s.setNm f).mread k = s.mread k := rfl
@[simp] theorem State.pin_setNm (s : State) (f : Nm → Nm) (y : Sensor) : (s.setNm f).pin y = s.pin y := rfl
@[simp] theorem State.out_setNm (s : State) (f : Nm → Nm) (k : Nat) : (s.setNm f).out k = s.out k := rfl
@[simp] theorem State.dieOf_setNm (s : State) (f : Nm → Nm) (k : Nat) : (s.setNm f).dieOf k = s.dieOf k := rfl
@[simp] theorem State.coil_setNm (s : State) (f : Nm → Nm) (k : Nat) : (s.setNm f).coil k = s.coil k := rfl
@[simp] theorem State.pbank_setNm (s : State) (f : Nm → Nm) (k : Nat) : (s.setNm f).pbank k = s.pbank k := rfl
@[simp] theorem State.px_setNm (s : State) (f : Nm → Nm) (k : Nat) : (s.setNm f).px k = s.px k := rfl
@[simp] theorem State.sink_setNm (s : State) (f : Nm → Nm) (k : Nat) : (s.setNm f).sink k = s.sink k := rfl
@[simp] theorem State.swIn_setNm (s : State) (f : Nm → Nm) (k : Nat) : (s.setNm f).swIn k = s.swIn k := rfl
@[simp] theorem State.wakeIn_setNm (s : State) (f : Nm → Nm) (k : Nat) : (s.setNm f).wakeIn k = s.wakeIn k := rfl
@[simp] theorem State.ainIn_setNm (s : State) (f : Nm → Nm) (k : Nat) : (s.setNm f).ainIn k = s.ainIn k := rfl
@[simp] theorem State.vsIn_setNm (s : State) (f : Nm → Nm) (k : Nat) : (s.setNm f).vsIn k = s.vsIn k := rfl
@[simp] theorem State.gbank_setNm (s : State) (f : Nm → Nm) (k : Nat) : (s.setNm f).gbank k = s.gbank k := rfl
@[simp] theorem State.grp_setNm (s : State) (f : Nm → Nm) (k : Nat) : (s.setNm f).grp k = s.grp k := rfl
@[simp] theorem State.domOn_setNm (s : State) (f : Nm → Nm) (k : Nat) : (s.setNm f).domOn k = s.domOn k := rfl
@[simp] theorem State.cn_setNm (s : State) (f : Nm → Nm) (k : Nat) : (s.setNm f).cn k = s.cn k := rfl
@[simp] theorem State.ln_setNm (s : State) (f : Nm → Nm) (k : Nat) : (s.setNm f).ln k = s.ln k := rfl
@[simp] theorem State.cr_setNm (s : State) (f : Nm → Nm) (k : Fin 2) : (s.setNm f).cr k = s.cr k := rfl

@[simp] theorem State.reg_setEth (s : State) (f : Eth → Eth) (k : Nat) : (s.setEth f).reg k = s.reg k := rfl
@[simp] theorem State.fld_setEth (s : State) (f : Eth → Eth) (fd : Fld) : (s.setEth f).fld fd = s.fld fd := rfl
@[simp] theorem State.bit_setEth (s : State) (f : Eth → Eth) (fd : Fld) : (s.setEth f).bit fd = s.bit fd := rfl
@[simp] theorem State.feat_setEth (s : State) (f : Eth → Eth) (k : Nat) : (s.setEth f).feat k = s.feat k := rfl
@[simp] theorem State.mread_setEth (s : State) (f : Eth → Eth) (k : Nat) : (s.setEth f).mread k = s.mread k := rfl
@[simp] theorem State.pin_setEth (s : State) (f : Eth → Eth) (y : Sensor) : (s.setEth f).pin y = s.pin y := rfl
@[simp] theorem State.out_setEth (s : State) (f : Eth → Eth) (k : Nat) : (s.setEth f).out k = s.out k := rfl
@[simp] theorem State.dieOf_setEth (s : State) (f : Eth → Eth) (k : Nat) : (s.setEth f).dieOf k = s.dieOf k := rfl
@[simp] theorem State.coil_setEth (s : State) (f : Eth → Eth) (k : Nat) : (s.setEth f).coil k = s.coil k := rfl
@[simp] theorem State.pbank_setEth (s : State) (f : Eth → Eth) (k : Nat) : (s.setEth f).pbank k = s.pbank k := rfl
@[simp] theorem State.px_setEth (s : State) (f : Eth → Eth) (k : Nat) : (s.setEth f).px k = s.px k := rfl
@[simp] theorem State.sink_setEth (s : State) (f : Eth → Eth) (k : Nat) : (s.setEth f).sink k = s.sink k := rfl
@[simp] theorem State.swIn_setEth (s : State) (f : Eth → Eth) (k : Nat) : (s.setEth f).swIn k = s.swIn k := rfl
@[simp] theorem State.wakeIn_setEth (s : State) (f : Eth → Eth) (k : Nat) : (s.setEth f).wakeIn k = s.wakeIn k := rfl
@[simp] theorem State.ainIn_setEth (s : State) (f : Eth → Eth) (k : Nat) : (s.setEth f).ainIn k = s.ainIn k := rfl
@[simp] theorem State.vsIn_setEth (s : State) (f : Eth → Eth) (k : Nat) : (s.setEth f).vsIn k = s.vsIn k := rfl
@[simp] theorem State.gbank_setEth (s : State) (f : Eth → Eth) (k : Nat) : (s.setEth f).gbank k = s.gbank k := rfl
@[simp] theorem State.grp_setEth (s : State) (f : Eth → Eth) (k : Nat) : (s.setEth f).grp k = s.grp k := rfl
@[simp] theorem State.domOn_setEth (s : State) (f : Eth → Eth) (k : Nat) : (s.setEth f).domOn k = s.domOn k := rfl
@[simp] theorem State.cn_setEth (s : State) (f : Eth → Eth) (k : Nat) : (s.setEth f).cn k = s.cn k := rfl
@[simp] theorem State.ln_setEth (s : State) (f : Eth → Eth) (k : Nat) : (s.setEth f).ln k = s.ln k := rfl
@[simp] theorem State.cr_setEth (s : State) (f : Eth → Eth) (k : Fin 2) : (s.setEth f).cr k = s.cr k := rfl

@[simp] theorem State.reg_setPtp (s : State) (f : Ptp → Ptp) (k : Nat) : (s.setPtp f).reg k = s.reg k := rfl
@[simp] theorem State.fld_setPtp (s : State) (f : Ptp → Ptp) (fd : Fld) : (s.setPtp f).fld fd = s.fld fd := rfl
@[simp] theorem State.bit_setPtp (s : State) (f : Ptp → Ptp) (fd : Fld) : (s.setPtp f).bit fd = s.bit fd := rfl
@[simp] theorem State.feat_setPtp (s : State) (f : Ptp → Ptp) (k : Nat) : (s.setPtp f).feat k = s.feat k := rfl
@[simp] theorem State.mread_setPtp (s : State) (f : Ptp → Ptp) (k : Nat) : (s.setPtp f).mread k = s.mread k := rfl
@[simp] theorem State.pin_setPtp (s : State) (f : Ptp → Ptp) (y : Sensor) : (s.setPtp f).pin y = s.pin y := rfl
@[simp] theorem State.out_setPtp (s : State) (f : Ptp → Ptp) (k : Nat) : (s.setPtp f).out k = s.out k := rfl
@[simp] theorem State.dieOf_setPtp (s : State) (f : Ptp → Ptp) (k : Nat) : (s.setPtp f).dieOf k = s.dieOf k := rfl
@[simp] theorem State.coil_setPtp (s : State) (f : Ptp → Ptp) (k : Nat) : (s.setPtp f).coil k = s.coil k := rfl
@[simp] theorem State.pbank_setPtp (s : State) (f : Ptp → Ptp) (k : Nat) : (s.setPtp f).pbank k = s.pbank k := rfl
@[simp] theorem State.px_setPtp (s : State) (f : Ptp → Ptp) (k : Nat) : (s.setPtp f).px k = s.px k := rfl
@[simp] theorem State.sink_setPtp (s : State) (f : Ptp → Ptp) (k : Nat) : (s.setPtp f).sink k = s.sink k := rfl
@[simp] theorem State.swIn_setPtp (s : State) (f : Ptp → Ptp) (k : Nat) : (s.setPtp f).swIn k = s.swIn k := rfl
@[simp] theorem State.wakeIn_setPtp (s : State) (f : Ptp → Ptp) (k : Nat) : (s.setPtp f).wakeIn k = s.wakeIn k := rfl
@[simp] theorem State.ainIn_setPtp (s : State) (f : Ptp → Ptp) (k : Nat) : (s.setPtp f).ainIn k = s.ainIn k := rfl
@[simp] theorem State.vsIn_setPtp (s : State) (f : Ptp → Ptp) (k : Nat) : (s.setPtp f).vsIn k = s.vsIn k := rfl
@[simp] theorem State.gbank_setPtp (s : State) (f : Ptp → Ptp) (k : Nat) : (s.setPtp f).gbank k = s.gbank k := rfl
@[simp] theorem State.grp_setPtp (s : State) (f : Ptp → Ptp) (k : Nat) : (s.setPtp f).grp k = s.grp k := rfl
@[simp] theorem State.domOn_setPtp (s : State) (f : Ptp → Ptp) (k : Nat) : (s.setPtp f).domOn k = s.domOn k := rfl
@[simp] theorem State.cn_setPtp (s : State) (f : Ptp → Ptp) (k : Nat) : (s.setPtp f).cn k = s.cn k := rfl
@[simp] theorem State.ln_setPtp (s : State) (f : Ptp → Ptp) (k : Nat) : (s.setPtp f).ln k = s.ln k := rfl
@[simp] theorem State.cr_setPtp (s : State) (f : Ptp → Ptp) (k : Fin 2) : (s.setPtp f).cr k = s.cr k := rfl

@[simp] theorem State.reg_setTim (s : State) (f : Tim → Tim) (k : Nat) : (s.setTim f).reg k = s.reg k := rfl
@[simp] theorem State.fld_setTim (s : State) (f : Tim → Tim) (fd : Fld) : (s.setTim f).fld fd = s.fld fd := rfl
@[simp] theorem State.bit_setTim (s : State) (f : Tim → Tim) (fd : Fld) : (s.setTim f).bit fd = s.bit fd := rfl
@[simp] theorem State.feat_setTim (s : State) (f : Tim → Tim) (k : Nat) : (s.setTim f).feat k = s.feat k := rfl
@[simp] theorem State.mread_setTim (s : State) (f : Tim → Tim) (k : Nat) : (s.setTim f).mread k = s.mread k := rfl
@[simp] theorem State.pin_setTim (s : State) (f : Tim → Tim) (y : Sensor) : (s.setTim f).pin y = s.pin y := rfl
@[simp] theorem State.out_setTim (s : State) (f : Tim → Tim) (k : Nat) : (s.setTim f).out k = s.out k := rfl
@[simp] theorem State.dieOf_setTim (s : State) (f : Tim → Tim) (k : Nat) : (s.setTim f).dieOf k = s.dieOf k := rfl
@[simp] theorem State.coil_setTim (s : State) (f : Tim → Tim) (k : Nat) : (s.setTim f).coil k = s.coil k := rfl
@[simp] theorem State.pbank_setTim (s : State) (f : Tim → Tim) (k : Nat) : (s.setTim f).pbank k = s.pbank k := rfl
@[simp] theorem State.px_setTim (s : State) (f : Tim → Tim) (k : Nat) : (s.setTim f).px k = s.px k := rfl
@[simp] theorem State.sink_setTim (s : State) (f : Tim → Tim) (k : Nat) : (s.setTim f).sink k = s.sink k := rfl
@[simp] theorem State.swIn_setTim (s : State) (f : Tim → Tim) (k : Nat) : (s.setTim f).swIn k = s.swIn k := rfl
@[simp] theorem State.wakeIn_setTim (s : State) (f : Tim → Tim) (k : Nat) : (s.setTim f).wakeIn k = s.wakeIn k := rfl
@[simp] theorem State.ainIn_setTim (s : State) (f : Tim → Tim) (k : Nat) : (s.setTim f).ainIn k = s.ainIn k := rfl
@[simp] theorem State.vsIn_setTim (s : State) (f : Tim → Tim) (k : Nat) : (s.setTim f).vsIn k = s.vsIn k := rfl
@[simp] theorem State.gbank_setTim (s : State) (f : Tim → Tim) (k : Nat) : (s.setTim f).gbank k = s.gbank k := rfl
@[simp] theorem State.grp_setTim (s : State) (f : Tim → Tim) (k : Nat) : (s.setTim f).grp k = s.grp k := rfl
@[simp] theorem State.domOn_setTim (s : State) (f : Tim → Tim) (k : Nat) : (s.setTim f).domOn k = s.domOn k := rfl
@[simp] theorem State.cn_setTim (s : State) (f : Tim → Tim) (k : Nat) : (s.setTim f).cn k = s.cn k := rfl
@[simp] theorem State.ln_setTim (s : State) (f : Tim → Tim) (k : Nat) : (s.setTim f).ln k = s.ln k := rfl
@[simp] theorem State.cr_setTim (s : State) (f : Tim → Tim) (k : Fin 2) : (s.setTim f).cr k = s.cr k := rfl

@[simp] theorem State.reg_setBal (s : State) (f : Bal → Bal) (k : Nat) : (s.setBal f).reg k = s.reg k := rfl
@[simp] theorem State.fld_setBal (s : State) (f : Bal → Bal) (fd : Fld) : (s.setBal f).fld fd = s.fld fd := rfl
@[simp] theorem State.bit_setBal (s : State) (f : Bal → Bal) (fd : Fld) : (s.setBal f).bit fd = s.bit fd := rfl
@[simp] theorem State.feat_setBal (s : State) (f : Bal → Bal) (k : Nat) : (s.setBal f).feat k = s.feat k := rfl
@[simp] theorem State.mread_setBal (s : State) (f : Bal → Bal) (k : Nat) : (s.setBal f).mread k = s.mread k := rfl
@[simp] theorem State.pin_setBal (s : State) (f : Bal → Bal) (y : Sensor) : (s.setBal f).pin y = s.pin y := rfl
@[simp] theorem State.out_setBal (s : State) (f : Bal → Bal) (k : Nat) : (s.setBal f).out k = s.out k := rfl
@[simp] theorem State.dieOf_setBal (s : State) (f : Bal → Bal) (k : Nat) : (s.setBal f).dieOf k = s.dieOf k := rfl
@[simp] theorem State.coil_setBal (s : State) (f : Bal → Bal) (k : Nat) : (s.setBal f).coil k = s.coil k := rfl
@[simp] theorem State.pbank_setBal (s : State) (f : Bal → Bal) (k : Nat) : (s.setBal f).pbank k = s.pbank k := rfl
@[simp] theorem State.px_setBal (s : State) (f : Bal → Bal) (k : Nat) : (s.setBal f).px k = s.px k := rfl
@[simp] theorem State.sink_setBal (s : State) (f : Bal → Bal) (k : Nat) : (s.setBal f).sink k = s.sink k := rfl
@[simp] theorem State.swIn_setBal (s : State) (f : Bal → Bal) (k : Nat) : (s.setBal f).swIn k = s.swIn k := rfl
@[simp] theorem State.wakeIn_setBal (s : State) (f : Bal → Bal) (k : Nat) : (s.setBal f).wakeIn k = s.wakeIn k := rfl
@[simp] theorem State.ainIn_setBal (s : State) (f : Bal → Bal) (k : Nat) : (s.setBal f).ainIn k = s.ainIn k := rfl
@[simp] theorem State.vsIn_setBal (s : State) (f : Bal → Bal) (k : Nat) : (s.setBal f).vsIn k = s.vsIn k := rfl
@[simp] theorem State.gbank_setBal (s : State) (f : Bal → Bal) (k : Nat) : (s.setBal f).gbank k = s.gbank k := rfl
@[simp] theorem State.grp_setBal (s : State) (f : Bal → Bal) (k : Nat) : (s.setBal f).grp k = s.grp k := rfl
@[simp] theorem State.domOn_setBal (s : State) (f : Bal → Bal) (k : Nat) : (s.setBal f).domOn k = s.domOn k := rfl
@[simp] theorem State.cn_setBal (s : State) (f : Bal → Bal) (k : Nat) : (s.setBal f).cn k = s.cn k := rfl
@[simp] theorem State.ln_setBal (s : State) (f : Bal → Bal) (k : Nat) : (s.setBal f).ln k = s.ln k := rfl
@[simp] theorem State.cr_setBal (s : State) (f : Bal → Bal) (k : Fin 2) : (s.setBal f).cr k = s.cr k := rfl

@[simp] theorem State.reg_setAcc (s : State) (f : AccBlk → AccBlk) (k : Nat) : (s.setAcc f).reg k = s.reg k := rfl
@[simp] theorem State.fld_setAcc (s : State) (f : AccBlk → AccBlk) (fd : Fld) : (s.setAcc f).fld fd = s.fld fd := rfl
@[simp] theorem State.bit_setAcc (s : State) (f : AccBlk → AccBlk) (fd : Fld) : (s.setAcc f).bit fd = s.bit fd := rfl
@[simp] theorem State.feat_setAcc (s : State) (f : AccBlk → AccBlk) (k : Nat) : (s.setAcc f).feat k = s.feat k := rfl
@[simp] theorem State.mread_setAcc (s : State) (f : AccBlk → AccBlk) (k : Nat) : (s.setAcc f).mread k = s.mread k := rfl
@[simp] theorem State.pin_setAcc (s : State) (f : AccBlk → AccBlk) (y : Sensor) : (s.setAcc f).pin y = s.pin y := rfl
@[simp] theorem State.out_setAcc (s : State) (f : AccBlk → AccBlk) (k : Nat) : (s.setAcc f).out k = s.out k := rfl
@[simp] theorem State.dieOf_setAcc (s : State) (f : AccBlk → AccBlk) (k : Nat) : (s.setAcc f).dieOf k = s.dieOf k := rfl
@[simp] theorem State.coil_setAcc (s : State) (f : AccBlk → AccBlk) (k : Nat) : (s.setAcc f).coil k = s.coil k := rfl
@[simp] theorem State.pbank_setAcc (s : State) (f : AccBlk → AccBlk) (k : Nat) : (s.setAcc f).pbank k = s.pbank k := rfl
@[simp] theorem State.px_setAcc (s : State) (f : AccBlk → AccBlk) (k : Nat) : (s.setAcc f).px k = s.px k := rfl
@[simp] theorem State.sink_setAcc (s : State) (f : AccBlk → AccBlk) (k : Nat) : (s.setAcc f).sink k = s.sink k := rfl
@[simp] theorem State.swIn_setAcc (s : State) (f : AccBlk → AccBlk) (k : Nat) : (s.setAcc f).swIn k = s.swIn k := rfl
@[simp] theorem State.wakeIn_setAcc (s : State) (f : AccBlk → AccBlk) (k : Nat) : (s.setAcc f).wakeIn k = s.wakeIn k := rfl
@[simp] theorem State.ainIn_setAcc (s : State) (f : AccBlk → AccBlk) (k : Nat) : (s.setAcc f).ainIn k = s.ainIn k := rfl
@[simp] theorem State.vsIn_setAcc (s : State) (f : AccBlk → AccBlk) (k : Nat) : (s.setAcc f).vsIn k = s.vsIn k := rfl
@[simp] theorem State.gbank_setAcc (s : State) (f : AccBlk → AccBlk) (k : Nat) : (s.setAcc f).gbank k = s.gbank k := rfl
@[simp] theorem State.grp_setAcc (s : State) (f : AccBlk → AccBlk) (k : Nat) : (s.setAcc f).grp k = s.grp k := rfl
@[simp] theorem State.domOn_setAcc (s : State) (f : AccBlk → AccBlk) (k : Nat) : (s.setAcc f).domOn k = s.domOn k := rfl
@[simp] theorem State.cn_setAcc (s : State) (f : AccBlk → AccBlk) (k : Nat) : (s.setAcc f).cn k = s.cn k := rfl
@[simp] theorem State.ln_setAcc (s : State) (f : AccBlk → AccBlk) (k : Nat) : (s.setAcc f).ln k = s.ln k := rfl
@[simp] theorem State.cr_setAcc (s : State) (f : AccBlk → AccBlk) (k : Fin 2) : (s.setAcc f).cr k = s.cr k := rfl

@[simp] theorem State.reg_setHst (s : State) (f : Hst → Hst) (k : Nat) : (s.setHst f).reg k = s.reg k := rfl
@[simp] theorem State.fld_setHst (s : State) (f : Hst → Hst) (fd : Fld) : (s.setHst f).fld fd = s.fld fd := rfl
@[simp] theorem State.bit_setHst (s : State) (f : Hst → Hst) (fd : Fld) : (s.setHst f).bit fd = s.bit fd := rfl
@[simp] theorem State.mread_setHst (s : State) (f : Hst → Hst) (k : Nat) : (s.setHst f).mread k = s.mread k := rfl
@[simp] theorem State.pin_setHst (s : State) (f : Hst → Hst) (y : Sensor) : (s.setHst f).pin y = s.pin y := rfl
@[simp] theorem State.out_setHst (s : State) (f : Hst → Hst) (k : Nat) : (s.setHst f).out k = s.out k := rfl
@[simp] theorem State.dieOf_setHst (s : State) (f : Hst → Hst) (k : Nat) : (s.setHst f).dieOf k = s.dieOf k := rfl
@[simp] theorem State.coil_setHst (s : State) (f : Hst → Hst) (k : Nat) : (s.setHst f).coil k = s.coil k := rfl
@[simp] theorem State.pbank_setHst (s : State) (f : Hst → Hst) (k : Nat) : (s.setHst f).pbank k = s.pbank k := rfl
@[simp] theorem State.px_setHst (s : State) (f : Hst → Hst) (k : Nat) : (s.setHst f).px k = s.px k := rfl
@[simp] theorem State.sink_setHst (s : State) (f : Hst → Hst) (k : Nat) : (s.setHst f).sink k = s.sink k := rfl
@[simp] theorem State.swIn_setHst (s : State) (f : Hst → Hst) (k : Nat) : (s.setHst f).swIn k = s.swIn k := rfl
@[simp] theorem State.wakeIn_setHst (s : State) (f : Hst → Hst) (k : Nat) : (s.setHst f).wakeIn k = s.wakeIn k := rfl
@[simp] theorem State.ainIn_setHst (s : State) (f : Hst → Hst) (k : Nat) : (s.setHst f).ainIn k = s.ainIn k := rfl
@[simp] theorem State.vsIn_setHst (s : State) (f : Hst → Hst) (k : Nat) : (s.setHst f).vsIn k = s.vsIn k := rfl
@[simp] theorem State.gbank_setHst (s : State) (f : Hst → Hst) (k : Nat) : (s.setHst f).gbank k = s.gbank k := rfl
@[simp] theorem State.grp_setHst (s : State) (f : Hst → Hst) (k : Nat) : (s.setHst f).grp k = s.grp k := rfl
@[simp] theorem State.domOn_setHst (s : State) (f : Hst → Hst) (k : Nat) : (s.setHst f).domOn k = s.domOn k := rfl
@[simp] theorem State.cn_setHst (s : State) (f : Hst → Hst) (k : Nat) : (s.setHst f).cn k = s.cn k := rfl
@[simp] theorem State.ln_setHst (s : State) (f : Hst → Hst) (k : Nat) : (s.setHst f).ln k = s.ln k := rfl
@[simp] theorem State.cr_setHst (s : State) (f : Hst → Hst) (k : Fin 2) : (s.setHst f).cr k = s.cr k := rfl

@[simp] theorem State.reg_setSec (s : State) (f : Sec → Sec) (k : Nat) : (s.setSec f).reg k = s.reg k := rfl
@[simp] theorem State.fld_setSec (s : State) (f : Sec → Sec) (fd : Fld) : (s.setSec f).fld fd = s.fld fd := rfl
@[simp] theorem State.bit_setSec (s : State) (f : Sec → Sec) (fd : Fld) : (s.setSec f).bit fd = s.bit fd := rfl
@[simp] theorem State.mread_setSec (s : State) (f : Sec → Sec) (k : Nat) : (s.setSec f).mread k = s.mread k := rfl
@[simp] theorem State.pin_setSec (s : State) (f : Sec → Sec) (y : Sensor) : (s.setSec f).pin y = s.pin y := rfl
@[simp] theorem State.out_setSec (s : State) (f : Sec → Sec) (k : Nat) : (s.setSec f).out k = s.out k := rfl
@[simp] theorem State.dieOf_setSec (s : State) (f : Sec → Sec) (k : Nat) : (s.setSec f).dieOf k = s.dieOf k := rfl
@[simp] theorem State.coil_setSec (s : State) (f : Sec → Sec) (k : Nat) : (s.setSec f).coil k = s.coil k := rfl
@[simp] theorem State.pbank_setSec (s : State) (f : Sec → Sec) (k : Nat) : (s.setSec f).pbank k = s.pbank k := rfl
@[simp] theorem State.px_setSec (s : State) (f : Sec → Sec) (k : Nat) : (s.setSec f).px k = s.px k := rfl
@[simp] theorem State.sink_setSec (s : State) (f : Sec → Sec) (k : Nat) : (s.setSec f).sink k = s.sink k := rfl
@[simp] theorem State.swIn_setSec (s : State) (f : Sec → Sec) (k : Nat) : (s.setSec f).swIn k = s.swIn k := rfl
@[simp] theorem State.wakeIn_setSec (s : State) (f : Sec → Sec) (k : Nat) : (s.setSec f).wakeIn k = s.wakeIn k := rfl
@[simp] theorem State.ainIn_setSec (s : State) (f : Sec → Sec) (k : Nat) : (s.setSec f).ainIn k = s.ainIn k := rfl
@[simp] theorem State.vsIn_setSec (s : State) (f : Sec → Sec) (k : Nat) : (s.setSec f).vsIn k = s.vsIn k := rfl
@[simp] theorem State.gbank_setSec (s : State) (f : Sec → Sec) (k : Nat) : (s.setSec f).gbank k = s.gbank k := rfl
@[simp] theorem State.grp_setSec (s : State) (f : Sec → Sec) (k : Nat) : (s.setSec f).grp k = s.grp k := rfl
@[simp] theorem State.domOn_setSec (s : State) (f : Sec → Sec) (k : Nat) : (s.setSec f).domOn k = s.domOn k := rfl
@[simp] theorem State.cn_setSec (s : State) (f : Sec → Sec) (k : Nat) : (s.setSec f).cn k = s.cn k := rfl
@[simp] theorem State.ln_setSec (s : State) (f : Sec → Sec) (k : Nat) : (s.setSec f).ln k = s.ln k := rfl
@[simp] theorem State.cr_setSec (s : State) (f : Sec → Sec) (k : Fin 2) : (s.setSec f).cr k = s.cr k := rfl

@[simp] theorem State.reg_setSil (s : State) (f : Sil → Sil) (k : Nat) : (s.setSil f).reg k = s.reg k := rfl
@[simp] theorem State.fld_setSil (s : State) (f : Sil → Sil) (fd : Fld) : (s.setSil f).fld fd = s.fld fd := rfl
@[simp] theorem State.bit_setSil (s : State) (f : Sil → Sil) (fd : Fld) : (s.setSil f).bit fd = s.bit fd := rfl
@[simp] theorem State.mread_setSil (s : State) (f : Sil → Sil) (k : Nat) : (s.setSil f).mread k = s.mread k := rfl
@[simp] theorem State.pin_setSil (s : State) (f : Sil → Sil) (y : Sensor) : (s.setSil f).pin y = s.pin y := rfl
@[simp] theorem State.out_setSil (s : State) (f : Sil → Sil) (k : Nat) : (s.setSil f).out k = s.out k := rfl
@[simp] theorem State.dieOf_setSil (s : State) (f : Sil → Sil) (k : Nat) : (s.setSil f).dieOf k = s.dieOf k := rfl
@[simp] theorem State.coil_setSil (s : State) (f : Sil → Sil) (k : Nat) : (s.setSil f).coil k = s.coil k := rfl
@[simp] theorem State.pbank_setSil (s : State) (f : Sil → Sil) (k : Nat) : (s.setSil f).pbank k = s.pbank k := rfl
@[simp] theorem State.px_setSil (s : State) (f : Sil → Sil) (k : Nat) : (s.setSil f).px k = s.px k := rfl
@[simp] theorem State.sink_setSil (s : State) (f : Sil → Sil) (k : Nat) : (s.setSil f).sink k = s.sink k := rfl
@[simp] theorem State.swIn_setSil (s : State) (f : Sil → Sil) (k : Nat) : (s.setSil f).swIn k = s.swIn k := rfl
@[simp] theorem State.wakeIn_setSil (s : State) (f : Sil → Sil) (k : Nat) : (s.setSil f).wakeIn k = s.wakeIn k := rfl
@[simp] theorem State.ainIn_setSil (s : State) (f : Sil → Sil) (k : Nat) : (s.setSil f).ainIn k = s.ainIn k := rfl
@[simp] theorem State.vsIn_setSil (s : State) (f : Sil → Sil) (k : Nat) : (s.setSil f).vsIn k = s.vsIn k := rfl
@[simp] theorem State.gbank_setSil (s : State) (f : Sil → Sil) (k : Nat) : (s.setSil f).gbank k = s.gbank k := rfl
@[simp] theorem State.grp_setSil (s : State) (f : Sil → Sil) (k : Nat) : (s.setSil f).grp k = s.grp k := rfl
@[simp] theorem State.domOn_setSil (s : State) (f : Sil → Sil) (k : Nat) : (s.setSil f).domOn k = s.domOn k := rfl
@[simp] theorem State.cn_setSil (s : State) (f : Sil → Sil) (k : Nat) : (s.setSil f).cn k = s.cn k := rfl
@[simp] theorem State.ln_setSil (s : State) (f : Sil → Sil) (k : Nat) : (s.setSil f).ln k = s.ln k := rfl
@[simp] theorem State.cr_setSil (s : State) (f : Sil → Sil) (k : Fin 2) : (s.setSil f).cr k = s.cr k := rfl

@[simp] theorem State.reg_setGln (s : State) (f : Gln → Gln) (k : Nat) : (s.setGln f).reg k = s.reg k := rfl
@[simp] theorem State.fld_setGln (s : State) (f : Gln → Gln) (fd : Fld) : (s.setGln f).fld fd = s.fld fd := rfl
@[simp] theorem State.bit_setGln (s : State) (f : Gln → Gln) (fd : Fld) : (s.setGln f).bit fd = s.bit fd := rfl
@[simp] theorem State.feat_setGln (s : State) (f : Gln → Gln) (k : Nat) : (s.setGln f).feat k = s.feat k := rfl
@[simp] theorem State.mread_setGln (s : State) (f : Gln → Gln) (k : Nat) : (s.setGln f).mread k = s.mread k := rfl
@[simp] theorem State.pin_setGln (s : State) (f : Gln → Gln) (y : Sensor) : (s.setGln f).pin y = s.pin y := rfl
@[simp] theorem State.out_setGln (s : State) (f : Gln → Gln) (k : Nat) : (s.setGln f).out k = s.out k := rfl
@[simp] theorem State.dieOf_setGln (s : State) (f : Gln → Gln) (k : Nat) : (s.setGln f).dieOf k = s.dieOf k := rfl
@[simp] theorem State.coil_setGln (s : State) (f : Gln → Gln) (k : Nat) : (s.setGln f).coil k = s.coil k := rfl
@[simp] theorem State.pbank_setGln (s : State) (f : Gln → Gln) (k : Nat) : (s.setGln f).pbank k = s.pbank k := rfl
@[simp] theorem State.px_setGln (s : State) (f : Gln → Gln) (k : Nat) : (s.setGln f).px k = s.px k := rfl
@[simp] theorem State.sink_setGln (s : State) (f : Gln → Gln) (k : Nat) : (s.setGln f).sink k = s.sink k := rfl
@[simp] theorem State.swIn_setGln (s : State) (f : Gln → Gln) (k : Nat) : (s.setGln f).swIn k = s.swIn k := rfl
@[simp] theorem State.wakeIn_setGln (s : State) (f : Gln → Gln) (k : Nat) : (s.setGln f).wakeIn k = s.wakeIn k := rfl
@[simp] theorem State.ainIn_setGln (s : State) (f : Gln → Gln) (k : Nat) : (s.setGln f).ainIn k = s.ainIn k := rfl
@[simp] theorem State.vsIn_setGln (s : State) (f : Gln → Gln) (k : Nat) : (s.setGln f).vsIn k = s.vsIn k := rfl
@[simp] theorem State.gbank_setGln (s : State) (f : Gln → Gln) (k : Nat) : (s.setGln f).gbank k = s.gbank k := rfl
@[simp] theorem State.grp_setGln (s : State) (f : Gln → Gln) (k : Nat) : (s.setGln f).grp k = s.grp k := rfl
@[simp] theorem State.domOn_setGln (s : State) (f : Gln → Gln) (k : Nat) : (s.setGln f).domOn k = s.domOn k := rfl
@[simp] theorem State.cn_setGln (s : State) (f : Gln → Gln) (k : Nat) : (s.setGln f).cn k = s.cn k := rfl
@[simp] theorem State.ln_setGln (s : State) (f : Gln → Gln) (k : Nat) : (s.setGln f).ln k = s.ln k := rfl
@[simp] theorem State.cr_setGln (s : State) (f : Gln → Gln) (k : Fin 2) : (s.setGln f).cr k = s.cr k := rfl

@[simp] theorem State.reg_setCore (s : State) (c : Fin 2) (f : Core → Core) (k : Nat) : (s.setCore c f).reg k = s.reg k := rfl
@[simp] theorem State.fld_setCore (s : State) (c : Fin 2) (f : Core → Core) (fd : Fld) : (s.setCore c f).fld fd = s.fld fd := rfl
@[simp] theorem State.bit_setCore (s : State) (c : Fin 2) (f : Core → Core) (fd : Fld) : (s.setCore c f).bit fd = s.bit fd := rfl
@[simp] theorem State.feat_setCore (s : State) (c : Fin 2) (f : Core → Core) (k : Nat) : (s.setCore c f).feat k = s.feat k := rfl
@[simp] theorem State.mread_setCore (s : State) (c : Fin 2) (f : Core → Core) (k : Nat) : (s.setCore c f).mread k = s.mread k := rfl
@[simp] theorem State.pin_setCore (s : State) (c : Fin 2) (f : Core → Core) (y : Sensor) : (s.setCore c f).pin y = s.pin y := rfl
@[simp] theorem State.out_setCore (s : State) (c : Fin 2) (f : Core → Core) (k : Nat) : (s.setCore c f).out k = s.out k := rfl
@[simp] theorem State.dieOf_setCore (s : State) (c : Fin 2) (f : Core → Core) (k : Nat) : (s.setCore c f).dieOf k = s.dieOf k := rfl
@[simp] theorem State.coil_setCore (s : State) (c : Fin 2) (f : Core → Core) (k : Nat) : (s.setCore c f).coil k = s.coil k := rfl
@[simp] theorem State.pbank_setCore (s : State) (c : Fin 2) (f : Core → Core) (k : Nat) : (s.setCore c f).pbank k = s.pbank k := rfl
@[simp] theorem State.px_setCore (s : State) (c : Fin 2) (f : Core → Core) (k : Nat) : (s.setCore c f).px k = s.px k := rfl
@[simp] theorem State.sink_setCore (s : State) (c : Fin 2) (f : Core → Core) (k : Nat) : (s.setCore c f).sink k = s.sink k := rfl
@[simp] theorem State.swIn_setCore (s : State) (c : Fin 2) (f : Core → Core) (k : Nat) : (s.setCore c f).swIn k = s.swIn k := rfl
@[simp] theorem State.wakeIn_setCore (s : State) (c : Fin 2) (f : Core → Core) (k : Nat) : (s.setCore c f).wakeIn k = s.wakeIn k := rfl
@[simp] theorem State.ainIn_setCore (s : State) (c : Fin 2) (f : Core → Core) (k : Nat) : (s.setCore c f).ainIn k = s.ainIn k := rfl
@[simp] theorem State.vsIn_setCore (s : State) (c : Fin 2) (f : Core → Core) (k : Nat) : (s.setCore c f).vsIn k = s.vsIn k := rfl
@[simp] theorem State.gbank_setCore (s : State) (c : Fin 2) (f : Core → Core) (k : Nat) : (s.setCore c f).gbank k = s.gbank k := rfl
@[simp] theorem State.grp_setCore (s : State) (c : Fin 2) (f : Core → Core) (k : Nat) : (s.setCore c f).grp k = s.grp k := rfl
@[simp] theorem State.domOn_setCore (s : State) (c : Fin 2) (f : Core → Core) (k : Nat) : (s.setCore c f).domOn k = s.domOn k := rfl
@[simp] theorem State.cn_setCore (s : State) (c : Fin 2) (f : Core → Core) (k : Nat) : (s.setCore c f).cn k = s.cn k := rfl
@[simp] theorem State.ln_setCore (s : State) (c : Fin 2) (f : Core → Core) (k : Nat) : (s.setCore c f).ln k = s.ln k := rfl

/-! ### What an update writes -/

@[simp] theorem State.out_setOut_same (s : State) (o : Nat) (f : Outp → Outp) (h : o < 56) : (s.setOut o f).out o = f (s.out o) :=
  nth_updN_same _ _ _ _ h
theorem State.out_setOut_other (s : State) (o k : Nat) (f : Outp → Outp) (h : o ≠ k) : (s.setOut o f).out k = s.out k :=
  nth_updN_other _ _ _ _ _ h
@[simp] theorem State.dieOf_setDie_same (s : State) (o : Nat) (f : Die → Die) (h : o < 7) : (s.setDie o f).dieOf o = f (s.dieOf o) :=
  nth_updN_same _ _ _ _ h
theorem State.dieOf_setDie_other (s : State) (o k : Nat) (f : Die → Die) (h : o ≠ k) : (s.setDie o f).dieOf k = s.dieOf k :=
  nth_updN_other _ _ _ _ _ h
@[simp] theorem State.coil_setCoil_same (s : State) (o : Nat) (f : Coil → Coil) (h : o < 12) : (s.setCoil o f).coil o = f (s.coil o) :=
  nth_updN_same _ _ _ _ h
theorem State.coil_setCoil_other (s : State) (o k : Nat) (f : Coil → Coil) (h : o ≠ k) : (s.setCoil o f).coil k = s.coil k :=
  nth_updN_other _ _ _ _ _ h
@[simp] theorem State.pbank_setPbank_same (s : State) (o : Nat) (f : Bank → Bank) (h : o < 3) : (s.setPbank o f).pbank o = f (s.pbank o) :=
  nth_updN_same _ _ _ _ h
theorem State.pbank_setPbank_other (s : State) (o k : Nat) (f : Bank → Bank) (h : o ≠ k) : (s.setPbank o f).pbank k = s.pbank k :=
  nth_updN_other _ _ _ _ _ h
@[simp] theorem State.px_setPx_same (s : State) (o : Nat) (f : Px → Px) (h : o < 4) : (s.setPx o f).px o = f (s.px o) :=
  nth_updN_same _ _ _ _ h
theorem State.px_setPx_other (s : State) (o k : Nat) (f : Px → Px) (h : o ≠ k) : (s.setPx o f).px k = s.px k :=
  nth_updN_other _ _ _ _ _ h
@[simp] theorem State.sink_setSink_same (s : State) (o : Nat) (f : Led → Led) (h : o < 24) : (s.setSink o f).sink o = f (s.sink o) :=
  nth_updN_same _ _ _ _ h
theorem State.sink_setSink_other (s : State) (o k : Nat) (f : Led → Led) (h : o ≠ k) : (s.setSink o f).sink k = s.sink k :=
  nth_updN_other _ _ _ _ _ h
@[simp] theorem State.swIn_setSwIn_same (s : State) (o : Nat) (f : SwIn → SwIn) (h : o < 48) : (s.setSwIn o f).swIn o = f (s.swIn o) :=
  nth_updN_same _ _ _ _ h
theorem State.swIn_setSwIn_other (s : State) (o k : Nat) (f : SwIn → SwIn) (h : o ≠ k) : (s.setSwIn o f).swIn k = s.swIn k :=
  nth_updN_other _ _ _ _ _ h
@[simp] theorem State.wakeIn_setWakeIn_same (s : State) (o : Nat) (f : WakeIn → WakeIn) (h : o < 2) : (s.setWakeIn o f).wakeIn o = f (s.wakeIn o) :=
  nth_updN_same _ _ _ _ h
theorem State.wakeIn_setWakeIn_other (s : State) (o k : Nat) (f : WakeIn → WakeIn) (h : o ≠ k) : (s.setWakeIn o f).wakeIn k = s.wakeIn k :=
  nth_updN_other _ _ _ _ _ h
@[simp] theorem State.ainIn_setAin_same (s : State) (o : Nat) (f : AinIn → AinIn) (h : o < 24) : (s.setAin o f).ainIn o = f (s.ainIn o) :=
  nth_updN_same _ _ _ _ h
theorem State.ainIn_setAin_other (s : State) (o k : Nat) (f : AinIn → AinIn) (h : o ≠ k) : (s.setAin o f).ainIn k = s.ainIn k :=
  nth_updN_other _ _ _ _ _ h
@[simp] theorem State.vsIn_setVs_same (s : State) (o : Nat) (f : VsIn → VsIn) (h : o < 4) : (s.setVs o f).vsIn o = f (s.vsIn o) :=
  nth_updN_same _ _ _ _ h
theorem State.vsIn_setVs_other (s : State) (o k : Nat) (f : VsIn → VsIn) (h : o ≠ k) : (s.setVs o f).vsIn k = s.vsIn k :=
  nth_updN_other _ _ _ _ _ h
@[simp] theorem State.gbank_setGbank_same (s : State) (o : Nat) (f : GBank → GBank) (h : o < 16) : (s.setGbank o f).gbank o = f (s.gbank o) :=
  nth_updN_same _ _ _ _ h
theorem State.gbank_setGbank_other (s : State) (o k : Nat) (f : GBank → GBank) (h : o ≠ k) : (s.setGbank o f).gbank k = s.gbank k :=
  nth_updN_other _ _ _ _ _ h
@[simp] theorem State.grp_setGrp_same (s : State) (o : Nat) (f : Grp → Grp) (h : o < 3) : (s.setGrp o f).grp o = f (s.grp o) :=
  nth_updN_same _ _ _ _ h
theorem State.grp_setGrp_other (s : State) (o k : Nat) (f : Grp → Grp) (h : o ≠ k) : (s.setGrp o f).grp k = s.grp k :=
  nth_updN_other _ _ _ _ _ h
@[simp] theorem State.cn_setCan_same (s : State) (o : Nat) (f : Can → Can) (h : o < 6) : (s.setCan o f).cn o = f (s.cn o) :=
  nth_updN_same _ _ _ _ h
theorem State.cn_setCan_other (s : State) (o k : Nat) (f : Can → Can) (h : o ≠ k) : (s.setCan o f).cn k = s.cn k :=
  nth_updN_other _ _ _ _ _ h
@[simp] theorem State.ln_setLin_same (s : State) (o : Nat) (f : Lin → Lin) (h : o < 4) : (s.setLin o f).ln o = f (s.ln o) :=
  nth_updN_same _ _ _ _ h
theorem State.ln_setLin_other (s : State) (o k : Nat) (f : Lin → Lin) (h : o ≠ k) : (s.setLin o f).ln k = s.ln k :=
  nth_updN_other _ _ _ _ _ h

end Sys2Proof.Machine
end

