-- ==== Sys2Proof/Laws/React.lean ====
section
/-!
SUPPORT. What a reaction can change: raising an event or a source, the safe image's immediate action, a demand on a domain. The blocks
that take no part in it stay, and so does the history of every output.
-/

namespace Sys2Proof.Machine

/-- What every reaction leaves unchanged. -/
structure Reacted (s t : State) : Prop where
  pending : t.pending = s.pending
  mem : t.mem = s.mem
  count : t.count = s.count
  pins : t.pins = s.pins
  frame : t.frm.frame = s.frm.frame
  edgeAt : t.frm.edgeAt = s.frm.edgeAt
  slot : t.frm.slot = s.frm.slot
  held : t.frm.held = s.frm.held
  images : t.frm.staging = s.frm.staging ∧ t.frm.committed = s.frm.committed ∧ t.frm.input = s.frm.input
  jobs : t.frm.jobs = s.frm.jobs ∧ t.frm.judged = s.frm.judged
  frmRest : t.frm.sealAt = s.frm.sealAt ∧ t.frm.hiCap = s.frm.hiCap ∧ t.frm.applied = s.frm.applied ∧
      t.frm.committing = s.frm.committing ∧ t.frm.synced = s.frm.synced
  stream : t.sw.strOn = s.sw.strOn ∧ t.sw.strDrop = s.sw.strDrop ∧ t.sw.strLast = s.sw.strLast ∧ t.sw.strDone = s.sw.strDone ∧
      t.sw.smpDone = s.sw.smpDone
  die : t.sw.die = s.sw.die
  switches : t.inp.sw = s.inp.sw ∧ t.inp.wake = s.inp.wake ∧ t.inp.ain = s.inp.ain ∧ t.inp.sampled = s.inp.sampled ∧
      t.inp.changed = s.inp.changed ∧ t.inp.reached = s.inp.reached ∧ t.inp.ainHit = s.inp.ainHit
  links : t.can = s.can ∧ t.lin = s.lin ∧ t.nm = s.nm ∧ t.eth = s.eth
  clocks : t.ptp = s.ptp ∧ t.tim = s.tim
  services : t.bal = s.bal ∧ t.hst = s.hst ∧ t.sec = s.sec ∧ t.sil = s.sil ∧ t.gln = s.gln
  own : t.got = s.got ∧ t.ack = s.ack ∧ t.free = s.free ∧ t.grn.got = s.grn.got ∧ t.grn.got2 = s.grn.got2
  grp : t.pwr.grp = s.pwr.grp
  pause : t.pwr.pause = s.pwr.pause ∧ t.pwr.resumed = s.pwr.resumed ∧ t.pwr.onRc = s.pwr.onRc ∧ t.pwr.aonStop = s.pwr.aonStop
  bank : t.prs.bank = s.prs.bank
  history : ∀ o, (t.out o).retries = (s.out o).retries ∧ (t.out o).occnt = (s.out o).occnt ∧ (t.out o).tshut = (s.out o).tshut ∧
      (t.out o).due = (s.out o).due ∧ (t.out o).tlatch = (s.out o).tlatch ∧ (t.out o).wire = (s.out o).wire ∧ (t.out o).tc = (s.out o).tc ∧
      (t.out o).tb = (s.out o).tb ∧ (t.out o).fr = (s.out o).fr ∧ (t.out o).imbal = (s.out o).imbal
  program : ∀ c : Fin 2, (t.cr c).w = (s.cr c).w ∧ (t.cr c).ew = (s.cr c).ew ∧ (t.cr c).pc = (s.cr c).pc ∧ (t.cr c).flg = (s.cr c).flg
  onlyRegs : ∀ a, (∀ k, k < 6 → a ≠ (F.winStickyStk k).addr) → (∀ k, k < 4 → a ≠ (F.frmEvmrgMerged k).addr) →
      (∀ d, d < 16 → a ≠ (F.pwrDctlReq d).addr) → (∀ b, b < 16 → a ≠ (F.grnBpwrState b).addr) → a ≠ F.pwrStatLockacc.addr → a ≠ F.accEvcCause.addr → t.reg a = s.reg a

theorem Reacted.refl (s : State) : Reacted s s := by constructor <;> simp

theorem Reacted.trans {s t u : State} (h : Reacted s t) (k : Reacted t u) : Reacted s u := by
  have e := @Reacted.history
  refine ⟨k.pending.trans h.pending, k.mem.trans h.mem, k.count.trans h.count, k.pins.trans h.pins, k.frame.trans h.frame,
    k.edgeAt.trans h.edgeAt, k.slot.trans h.slot, k.held.trans h.held, ?_, ?_, ?_, ?_, k.die.trans h.die, ?_, ?_, ?_, ?_, ?_, k.grp.trans h.grp, ?_,
    k.bank.trans h.bank, ?_, ?_, fun a h1 h2 h3 h4 h5 h6 => (k.onlyRegs a h1 h2 h3 h4 h5 h6).trans (h.onlyRegs a h1 h2 h3 h4 h5 h6)⟩
  · have := h.images; have := k.images; simp_all
  · have := h.jobs; have := k.jobs; simp_all
  · have := h.frmRest; have := k.frmRest; simp_all
  · have := h.stream; have := k.stream; simp_all
  · have := h.switches; have := k.switches; simp_all
  · have := h.links; have := k.links; simp_all
  · have := h.clocks; have := k.clocks; simp_all
  · have := h.services; have := k.services; simp_all
  · have := h.own; have := k.own; simp_all
  · have := h.pause; have := k.pause; simp_all
  · intro o; have := h.history o; have := k.history o; simp_all
  · intro c; have := h.program c; have := k.program c; simp_all

theorem Reacted.forEach {s t : State} (n : Nat) (f : State → Nat → State) (h : Reacted s t) (hf : ∀ t i, i < n → Reacted t (f t i)) :
    Reacted s (forEach n f t) := by
  induction n with
  | zero => exact h
  | succ n ih => rw [forEach_succ]; exact (ih (fun t i hi => hf t i (by omega))).trans (hf _ _ (by omega))

/-- A change of an output that leaves its history. -/
theorem Reacted.setOut {s t : State} (o : Nat) (f : Outp → Outp) (h : Reacted s t)
    (hf : ∀ x : Outp, (f x).retries = x.retries ∧ (f x).occnt = x.occnt ∧ (f x).tshut = x.tshut ∧ (f x).due = x.due ∧
      (f x).tlatch = x.tlatch ∧ (f x).wire = x.wire ∧ (f x).tc = x.tc ∧ (f x).tb = x.tb ∧ (f x).fr = x.fr ∧ (f x).imbal = x.imbal) :
    Reacted s (t.setOut o f) := by
  refine h.trans ⟨rfl, rfl, rfl, rfl, rfl, rfl, rfl, rfl, ⟨rfl, rfl, rfl⟩, ⟨rfl, rfl⟩, ⟨rfl, rfl, rfl, rfl, rfl⟩,
    ⟨rfl, rfl, rfl, rfl, rfl⟩, rfl, ⟨rfl, rfl, rfl, rfl, rfl, rfl, rfl⟩, ⟨rfl, rfl, rfl, rfl⟩, ⟨rfl, rfl⟩, ⟨rfl, rfl, rfl, rfl, rfl⟩, ⟨rfl, rfl, rfl, rfl, rfl⟩, rfl,
    ⟨rfl, rfl, rfl, rfl⟩, rfl, fun k => ?_, fun _ => ⟨rfl, rfl, rfl, rfl⟩, fun _ _ _ _ _ _ _ => rfl⟩
  by_cases e : o = k
  · subst e
    by_cases ho : o < 56
    · rw [State.out_setOut_same _ _ _ ho]; exact hf _
    · unfold State.out State.setOut updN nth; simp [ho]
  · rw [State.out_setOut_other _ _ _ _ e]; simp

theorem Reacted.setReg {s t : State} (a : Nat) (w : Word) (h : Reacted s t)
    (ha : (∃ k, k < 6 ∧ a = (F.winStickyStk k).addr) ∨ (∃ k, k < 4 ∧ a = (F.frmEvmrgMerged k).addr) ∨ (∃ d, d < 16 ∧ a = (F.pwrDctlReq d).addr) ∨
      (∃ b, b < 16 ∧ a = (F.grnBpwrState b).addr) ∨ a = F.pwrStatLockacc.addr ∨ a = F.accEvcCause.addr) : Reacted s (t.setReg a w) := by
  refine h.trans ⟨rfl, rfl, rfl, rfl, rfl, rfl, rfl, rfl, ⟨rfl, rfl, rfl⟩, ⟨rfl, rfl⟩, ⟨rfl, rfl, rfl, rfl, rfl⟩,
    ⟨rfl, rfl, rfl, rfl, rfl⟩, rfl, ⟨rfl, rfl, rfl, rfl, rfl, rfl, rfl⟩, ⟨rfl, rfl, rfl, rfl⟩, ⟨rfl, rfl⟩, ⟨rfl, rfl, rfl, rfl, rfl⟩, ⟨rfl, rfl, rfl, rfl, rfl⟩, rfl,
    ⟨rfl, rfl, rfl, rfl⟩, rfl, fun _ => ⟨rfl, rfl, rfl, rfl, rfl, rfl, rfl, rfl, rfl, rfl⟩, fun _ => ⟨rfl, rfl, rfl, rfl⟩, fun b h1 h2 h3 h4 h5 h6 => ?_⟩
  refine State.reg_setReg_other _ _ _ _ (fun e => ?_)
  subst e
  rcases ha with ⟨k, hk, e⟩ | ⟨k, hk, e⟩ | ⟨k, hk, e⟩ | ⟨k, hk, e⟩ | e | e
  · exact h1 k hk e
  · exact h2 k hk e
  · exact h3 k hk e
  · exact h4 k hk e
  · exact h5 e
  · exact h6 e

/-- A change of the blocks that take part in reactions, beside outputs, registers and cores. -/
theorem Reacted.change {s t : State} (h : Reacted s t) (win : Winnow := t.win) (led : Vector Led 24 := t.led)
    (coil : Vector Coil 12 := t.prs.coil) (px : Vector Px 4 := t.prs.px) (vs : Vector VsIn 4 := t.inp.vs) (dom : Vector Dom 32 := t.pwr.dom)
    (bank : Vector GBank 16 := t.grn.bank) (acc : AccBlk := t.acc) (pend : Vector (BitVec 128) 2 := t.frm.pend) :
    Reacted s { t with
      win := win, led := led, prs := { t.prs with coil := coil, px := px }, inp := { t.inp with vs := vs }
      pwr := { t.pwr with dom := dom }, grn := { t.grn with bank := bank }, acc := acc, frm := { t.frm with pend := pend } } :=
  h.trans ⟨rfl, rfl, rfl, rfl, rfl, rfl, rfl, rfl, ⟨rfl, rfl, rfl⟩, ⟨rfl, rfl⟩, ⟨rfl, rfl, rfl, rfl, rfl⟩,
    ⟨rfl, rfl, rfl, rfl, rfl⟩, rfl, ⟨rfl, rfl, rfl, rfl, rfl, rfl, rfl⟩, ⟨rfl, rfl, rfl, rfl⟩, ⟨rfl, rfl⟩, ⟨rfl, rfl, rfl, rfl, rfl⟩, ⟨rfl, rfl, rfl, rfl, rfl⟩, rfl,
    ⟨rfl, rfl, rfl, rfl⟩, rfl, fun _ => ⟨rfl, rfl, rfl, rfl, rfl, rfl, rfl, rfl, rfl, rfl⟩, fun _ => ⟨rfl, rfl, rfl, rfl⟩, fun _ _ _ _ _ _ _ => rfl⟩

/-- A change of a core that leaves its registers, its program counter and its flags. -/
theorem Reacted.setCore {s t : State} (c : Fin 2) (f : Core → Core) (h : Reacted s t)
    (hf : ∀ k : Core, (f k).w = k.w ∧ (f k).ew = k.ew ∧ (f k).pc = k.pc ∧ (f k).flg = k.flg) : Reacted s (t.setCore c f) := by
  refine h.trans ⟨rfl, rfl, rfl, rfl, rfl, rfl, rfl, rfl, ⟨rfl, rfl, rfl⟩, ⟨rfl, rfl⟩, ⟨rfl, rfl, rfl, rfl, rfl⟩,
    ⟨rfl, rfl, rfl, rfl, rfl⟩, rfl, ⟨rfl, rfl, rfl, rfl, rfl, rfl, rfl⟩, ⟨rfl, rfl, rfl, rfl⟩, ⟨rfl, rfl⟩, ⟨rfl, rfl, rfl, rfl, rfl⟩, ⟨rfl, rfl, rfl, rfl, rfl⟩, rfl,
    ⟨rfl, rfl, rfl, rfl⟩, rfl, fun _ => ⟨rfl, rfl, rfl, rfl, rfl, rfl, rfl, rfl, rfl, rfl⟩, fun k => ?_, fun _ _ _ _ _ _ _ => rfl⟩
  by_cases e : k = c
  · subst e; rw [State.cr_setCore_same]; exact hf _
  · rw [State.cr_setCore_other _ _ _ _ e]; simp

variable {s t : State}

theorem Reacted.setCoil (n : Nat) (f : Coil → Coil) (h : Reacted s t) : Reacted s (t.setCoil n f) := h.change (coil := updN t.prs.coil n f)
theorem Reacted.setPx (n : Nat) (f : Px → Px) (h : Reacted s t) : Reacted s (t.setPx n f) := h.change (px := updN t.prs.px n f)
theorem Reacted.setSink (n : Nat) (f : Led → Led) (h : Reacted s t) : Reacted s (t.setSink n f) := h.change (led := updN t.led n f)
theorem Reacted.setVs (n : Nat) (f : VsIn → VsIn) (h : Reacted s t) : Reacted s (t.setVs n f) := h.change (vs := updN t.inp.vs n f)
theorem Reacted.setDom (n : Nat) (f : Dom → Dom) (h : Reacted s t) : Reacted s (t.setDom n f) := h.change (dom := updN t.pwr.dom n f)
theorem Reacted.setAcc (f : AccBlk → AccBlk) (h : Reacted s t) : Reacted s (t.setAcc f) := h.change (acc := f t.acc)
theorem Reacted.setWake (b : Nat) (h : Reacted s t) : Reacted s (t.setWake b) := h.change (bank := updN t.grn.bank b _)

theorem Reacted.ite {p : Prop} [Decidable p] {u v : State} (h : Reacted s u) (k : Reacted s v) : Reacted s (if p then u else v) := by
  split
  · exact h
  · exact k

theorem Reacted.demand (d : Nat) (hd : d < 32) (h : Reacted s t) : Reacted s (t.demand d) := by
  unfold State.demand
  dsimp only
  refine .ite h (.ite (h.setDom _ _) ?_)
  split
  · exact (h.setDom _ _).setReg _ _ (.inr (.inr (.inl ⟨d, by omega, rfl⟩)))
  · exact ((h.setDom _ _).setReg _ _ (.inr (.inr (.inr (.inl ⟨d - 16, by omega, rfl⟩))))).setWake _

theorem Reacted.foldl {α : Type} (l : List α) (f : State → α → State) (h : Reacted s t) (hf : ∀ t x, Reacted t (f t x)) : Reacted s (l.foldl f t) := by
  induction l generalizing t with
  | nil => exact h
  | cons x l ih => exact ih (h.trans (hf _ _))

theorem Reacted.dgOn (o : Nat) (h : Reacted s t) : Reacted s (t.dgOn o) :=
  h.foldl _ _ (fun u _ => (Reacted.refl u).setOut _ _ (fun _ => by simp [Outp.dgOn]))
theorem Reacted.turnOn (c : Nat) (h : Reacted s t) : Reacted s (t.turnOn c) := (h.setOut _ _ (fun _ => by simp)).dgOn _
theorem Reacted.turnOnHb (c : Nat) (h : Reacted s t) : Reacted s (t.turnOnHb c) := (h.setOut _ _ (fun _ => by simp)).dgOn _
theorem Reacted.turnOff (c : Nat) (q : ChSt) (h : Reacted s t) : Reacted s (t.turnOff c q) := h.setOut _ _ (fun _ => by simp)

theorem domOf_lt (o : Nat) : domOf o < 32 := by unfold domOf; split <;> (try split) <;> omega

theorem Reacted.safeCh (c : Nat) (h : Reacted s t) : Reacted s (t.safeCh c) := by
  unfold State.safeCh
  dsimp only
  refine .ite h ?_
  split
  · exact .ite (.ite (.ite (h.turnOn _) h) (h.demand _ (domOf_lt _))) h
  · exact h
  · exact .ite (h.turnOff _ _) h

theorem Reacted.takeMode (o : Nat) (m : Nat × Nat) (h : Reacted s t) : Reacted s (t.takeMode o m) :=
  have k := h.setOut o (·.takeMode m) (fun x => by unfold Outp.takeMode; split <;> simp)
  .ite (k.dgOn _) k

theorem Reacted.safeHb (n : Nat) (h : Reacted s t) : Reacted s (t.safeHb n) := by
  unfold State.safeHb
  dsimp only
  refine .ite h (.ite h ?_)
  have k := (h.foldl (t.members (48 + n)) (fun t k => t.hbNote (k - 48)) (fun t k => (Reacted.refl t).setOut _ _ (fun _ => by simp))).takeMode
    (48 + n) (t.effHb n)
  exact .ite (.ite (k.turnOff _ _) k) (.ite (.ite (.ite (k.turnOnHb _) k) (k.demand _ (by decide))) k)

theorem Reacted.safePl (c : Nat) (h : Reacted s t) : Reacted s (t.safePl c) := by
  unfold State.safePl State.plStop State.plRest
  dsimp only
  refine .ite h ?_
  split
  · exact .ite (h.setCoil _ _) h
  · exact h
  · exact .ite ((h.setCoil _ _).setCoil _ _) (h.setCoil _ _)

theorem Reacted.moveVs (v : Nat) (h : Reacted s t) : Reacted s (t.moveVs v) := by
  unfold State.moveVs
  dsimp only
  exact .ite (.ite (.ite h (h.setVs _ _)) ((Reacted.ite (h.demand _ (by decide)) h).setVs _ _)) (h.setVs _ _)

theorem Reacted.safeLed (n : Nat) (h : Reacted s t) : Reacted s (t.safeLed n) := by
  have step : ∀ (v m : Nat) {u : State}, Reacted s u → Reacted s (if u.ledGov m = n then
      (u.ledCount t.count m).setSink m (fun x => { x with
        r := v, r0 := v, goal := v, len := 0, j := 0, lvl := v, lastLevel := v, dpulse := false }) else u) :=
    fun v m u k => .ite ((k.setSink _ _).setSink _ _) k
  unfold State.safeLed
  dsimp only [List.foldl]
  refine .ite h ?_
  split
  · exact .ite (step _ _ (step _ _ h)) (h.demand _ (by decide))
  · exact h
  · exact step _ _ (step _ _ h)

theorem State.evCore_lt (s : State) (n : Nat) : s.evCore n < 2 := getBits_lt _ 1 1

theorem Reacted.pendEvent (n : Nat) (hn : n < 128) (h : Reacted s t) : Reacted s (t.pendEvent n) := by
  unfold State.pendEvent
  dsimp only
  refine .ite h (.ite (h.setReg _ _ (.inr (.inl ⟨n / 32, by omega, rfl⟩))) ?_)
  exact Reacted.demand _ (by have := t.evCore_lt n; omega) (h.change (pend := _))

theorem Reacted.stopCores (h : Reacted s t) : Reacted s t.stopCores := by
  unfold State.stopCores
  refine Reacted.change (t := Machine.forEach 2 _ _) ?_ (win := _)
  exact .forEach 2 _ h (fun t i hi => by simp only [hi, dite_true]; exact (Reacted.refl t).setCore _ _ (fun _ => ⟨rfl, rfl, rfl, rfl⟩))

theorem Reacted.putSticky (n : Nat) (b : Bool) (hn : n < 192) (h : Reacted s t) : Reacted s (t.putSticky n b) :=
  h.setReg _ _ (.inl ⟨n / 32, by omega, rfl⟩)

theorem Reacted.warnPulse (h : Reacted s t) : Reacted s t.warnPulse := h.change (win := _)

theorem Reacted.lockUnderSafe (h : Reacted s t) : Reacted s t.lockUnderSafe := by
  unfold State.lockUnderSafe
  have k : Reacted s (t.setBit F.pwrStatLockacc) := h.setReg _ _ (.inr (.inr (.inr (.inr (.inl rfl)))))
  refine .ite k ?_
  have q := k.putSticky 31 true (by decide)
  dsimp only
  split
  · exact .ite (q.warnPulse.pendEvent 77 (by decide)) q.warnPulse
  · exact .ite (q.stopCores.pendEvent 77 (by decide)) q.stopCores
  · exact .ite (q.pendEvent 77 (by decide)) q

theorem Reacted.safeAcc (h : Reacted s t) : Reacted s t.safeAcc := by
  unfold State.safeAcc State.setFld
  have k := h.setAcc (fun a => { a with
      srch := {}, stopF := a.stopF || t.acc.srch.phase != 0
      last := { (t.acc.srch.latest.getD {}) with res := 0 } })
  dsimp only
  have q := fun w => k.setReg F.accEvcCause.addr w (.inr (.inr (.inr (.inr (.inr rfl)))))
  exact .ite h (.ite (.ite (q _).lockUnderSafe ((q _).pendEvent 74 (by decide))) k)

/-- The safe image changes what takes part in reactions alone. -/
theorem Reacted.driveSafe (h : Reacted s t) : Reacted s t.driveSafe := by
  unfold State.driveSafe
  refine .ite h ?_
  have k := h.change (win := { t.win with safe := true, hold := t.frm.committed })
  unfold State.safeAct State.safeInp State.safeLeds State.safePrs State.safeSw State.movePx
  dsimp only
  have m := Reacted.forEach 4 State.moveVs (.forEach 24 State.safeLed (.forEach 4 State.movePx (.forEach 12 State.safePl (.forEach 8 State.safeHb
    (.forEach 48 State.safeCh k (fun t i _ => (Reacted.refl t).safeCh i)) (fun t i _ => (Reacted.refl t).safeHb i))
    (fun t i _ => (Reacted.refl t).safePl i)) (fun t i _ => (Reacted.refl t).setPx i _)) (fun t i _ => (Reacted.refl t).safeLed i))
    (fun t i _ => (Reacted.refl t).moveVs i)
  exact m.safeAcc

theorem Reacted.classReact (c : Nat) (h : Reacted s t) : Reacted s (t.classReact c) := by
  unfold State.classReact State.haltF
  split
  · exact h
  · exact h.warnPulse
  · exact h.driveSafe
  · exact h.driveSafe.stopCores

theorem Reacted.occur (n : Nat) (hn : n < 192) (h : Reacted s t) : Reacted s (t.occur n) := by
  unfold State.occur State.putSticky
  exact .ite h ((h.setReg _ _ (.inl ⟨n / 32, by omega, rfl⟩)).classReact _)

theorem Reacted.classEvent (c : Nat) (h : Reacted s t) : Reacted s (t.classEvent c) := by
  unfold State.classEvent State.setBit State.setFld
  exact .ite h (.ite ((h.setReg _ _ (.inr (.inr (.inr (.inr (.inl rfl)))))).occur 31 (by decide)) (h.pendEvent 77 (by decide)))

/-- A source that occurs changes what takes part in reactions alone. -/
theorem Reacted.raiseSource (n : Nat) (hn : n < 192) (h : Reacted s t) : Reacted s (t.raiseSource n) := by
  unfold State.raiseSource
  exact .ite (h.occur n hn) ((h.occur n hn).classEvent _)

theorem Reacted.lockAccess (h : Reacted s t) : Reacted s t.lockAccess :=
  (h.setReg _ _ (.inr (.inr (.inr (.inr (.inl rfl)))))).raiseSource 31 (by decide)

/-- An event that occurs changes what takes part in reactions alone. -/
theorem Reacted.raiseEvent (n : Nat) (hn : n < 128) (h : Reacted s t) : Reacted s (t.raiseEvent n) := .ite h.lockAccess (h.pendEvent n hn)

theorem Reacted.demandOrLock (d : Nat) (hd : d < 32) (h : Reacted s t) : Reacted s (t.demandOrLock d) := .ite h.lockAccess (h.demand d hd)

end Sys2Proof.Machine
end

