-- ==== Sys2Proof/Laws/Course.lean ====
section
/-!
SUPPORT. The course of a core instruction that is issued undisturbed (`State.issues`): the command is its effect, and what retirement adds.
-/

namespace Sys2Proof.Machine

/-! ### The two passes -/

/-- The 36 bits of a word spell it. -/
theorem wordOfBits_bitsOf (w : TWord) : wordOfBits (bitsOf w) = w := by
  unfold wordOfBits bitsOf
  cases w with
  | mk t v =>
    congr 1
    · exact BitVec.extractLsb'_append_eq_left
    · exact BitVec.extractLsb'_append_eq_right

/-- A word carried rotated is the word (R367). -/
theorem echoWord_echoBits (w : TWord) : echoWord (echoBits w) = w := by
  unfold echoWord echoBits
  have h : ((bitsOf w).rotateLeft 9).rotateRight 9 = bitsOf w := by
    apply BitVec.eq_of_getLsbD_eq
    intro i hi
    rw [BitVec.getLsbD_rotateRight]
    by_cases h1 : i < 36 - 9 % 36
    · rw [decide_eq_true h1, cond_true, BitVec.getLsbD_rotateLeft, decide_eq_false (by omega), cond_false, decide_eq_true (by omega),
        Bool.true_and]
      congr 1
      omega
    · rw [decide_eq_false h1, cond_false, decide_eq_true hi, Bool.true_and, BitVec.getLsbD_rotateLeft, decide_eq_true (by omega), cond_true]
      congr 1
      omega
  rw [h, wordOfBits_bitsOf]

theorem Core.echo_eq (k : Core) (h : k.ew = k.w.map echoBits) : { k with w := k.ew.map echoWord } = k := by
  have : k.ew.map echoWord = k.w := by
    rw [h]
    apply Vector.ext
    intro j hj
    simp [echoWord_echoBits]
  rw [this]

theorem State.setCore_self {s : State} {c : Fin 2} {f : Core → Core} (h : f (s.cr c) = s.cr c) : s.setCore c f = s := by
  unfold State.setCore Machine.upd
  have : s.core.set c (f s.core[c]) = s.core := by
    apply Vector.ext
    intro j hj
    by_cases e : (c : Nat) = j
    · subst e; simpa [State.cr] using h
    · simp [e]
  cases s
  simpa using this

/-- With the register files in step the echo pass sees the core as it is (R373). -/
theorem State.echoView_of_inStep {s : State} {c : Fin 2} (h : s.inStep c) : s.echoView c = s := State.setCore_self (Core.echo_eq _ h)

/-- A pass without a disturbed slice forms the record that it computes. -/
theorem slipped_nil (second : Bool) (r : List (BitVec 36)) : slipped [] second r = r := by
  unfold slipped slipMask
  simp

/-- A record does not differ from itself. -/
theorem recordsDiffer_self (dead : List Nat) (r : List (BitVec 36)) : recordsDiffer dead r r = false := by
  unfold recordsDiffer
  have : (r.zip r).any (fun p => groupsDiffer dead p.1 p.2) = false := by
    rw [List.any_eq_false]
    intro p hp
    have e : p.1 = p.2 := by
      obtain ⟨k, hk, rfl⟩ := List.getElem_of_mem hp
      simp
    rw [e]
    simp [groupsDiffer]
  simp [this]

/-! ### Issue -/

/-- The words of code outside the Granary, without an error, are fetched with no effect. -/
theorem State.fetchChecks_clean {s : State} {c : Fin 2} (l : List Nat) (h : ∀ a ∈ l, inGranary a = false ∧ s.eccAt a = .clean) :
    s.fetchChecks c l = (none, s) := by
  induction l with
  | nil => rfl
  | cons a l ih =>
    have h1 := h a (by simp)
    have h2 : s.fetchCheck c a = (true, s) := by
      unfold State.fetchCheck State.inLocked
      simp [h1.1, h1.2]
    unfold State.fetchChecks
    simp only [h2, if_true]
    exact ih (fun b hb => h b (by simp [hb]))

/-- A stream outside the Granary is settled. -/
theorem State.settledStream_outside {s : State} {c : Fin 2}
    (h : (s.fetchBytes c 15).any inGranary = false) : s.settledStream c = s := by
  unfold State.settledStream
  unfold State.fetchBytes at h
  generalize (upto 15).map (fun o => ((s.cr c).pc.toNat + o) % 2 ^ 32) = l at h ⊢
  generalize s = t
  induction l generalizing t with
  | nil => rfl
  | cons a l ih =>
    simp only [List.any_cons, Bool.or_eq_false_iff] at h
    simp only [List.foldl_cons, h.1, Bool.false_and, Bool.false_eq_true, if_false]
    exact ih h.2 t

/-- Bytes that can be fetched trap nothing. -/
theorem State.fetchTrap_none {s : State} {c : Fin 2} {n : Nat} (h : s.fetchable c n) : s.fetchTrap c n = none := by
  obtain ⟨h1, h2, _, h4, _⟩ := h
  unfold State.fetchTrap
  simp only [h1, h2]
  split
  · rename_i e; rw [e] at h4; cases h4
  · rfl

/-- Bytes that reach the datapath are issued in the state in which they do. -/
theorem State.issueAt_of_reaches {s t : State} {c : Fin 2} {p : Phys} {d : Decoded} (h : s.reaches c p d t) (run : State → Out) :
    (s.settledStream c).issueAt c d.size run = run t := by
  obtain ⟨_, _, _, ⟨_, k2, k3, _, k5⟩, h5, _, h7, _⟩ := h
  unfold State.issueAt
  simp only [k2, k3, k5, h5, Bool.false_eq_true, if_false]
  rw [h7]; rfl

/-- An effect in a state where nothing disturbs it is the course of its instruction. -/
theorem State.course_of_sound {s : State} {c : Fin 2} {p : Phys} {i : NIns} (hp : soundPhys p) (hi : s.inStep c)
    (hr : i.pre.rep = true → (s.cr c).cnt ≠ 0) (f : State → Eff) :
    s.course c p i f = s.settle c i (s.onSafety c (s.cr c).pc.toNat && !i.pre.single) (f s) := by
  obtain ⟨h5, h6, h7⟩ := hp
  have hn : ¬ (i.pre.rep = true ∧ (s.cr c).cnt = 0) := fun e => hr e.1 e.2
  have hg : parityEff p s.fresh.1 f = f := by funext t; simp [parityEff, h5]
  unfold State.course
  simp only [hn, if_false, hg, show parityState p s = s by unfold parityState; rw [h5], h6, h7, State.echoView_of_inStep hi, slipped_nil,
    recordsDiffer_self, Bool.or_self, Bool.and_false, Bool.false_eq_true, List.isEmpty_nil, if_true]

/-- A command whose instruction is issued undisturbed is that instruction's effect. -/
theorem State.instr_of_issues {s t : State} {c : Fin 2} {p : Phys} {i : NIns} (h : s.issues c p i t) (is : NIns → Bool) (hi : is i = true)
    (f : NIns → State → Eff) : s.instr c p is f = t.settle c i (t.onSafety c (t.cr c).pc.toNat && !i.pre.single) (f i t) := by
  obtain ⟨h0, _, _, h13⟩ := h
  have ha := State.issueAt_of_reaches h0 (fun u => u.course c p i (f i))
  obtain ⟨h1, h2, h3, h4, _, h6, _, h8⟩ := h0
  have hf := State.fetchTrap_none h4
  unfold State.instr State.issueHere
  simp only [h1, h2, h3, hf, hi, Bool.not_true, Bool.or_self, Bool.false_eq_true, if_false, if_true]
  exact ha.trans (State.course_of_sound h6 h8 h13 _)

/-- Retirement with no watchpoint enabled and no step made ends the stall and counts. -/
theorem State.retired_plain {s : State} {c : Fin 2} (hw : s.fld F.dbgWpctlEn = 0) (hs : (s.cr c).halt.stepping = false) (e : Bool)
    (acc : List (Nat × Option TWord)) : s.retired c e acc = s.counted c e := by
  unfold State.retired
  have hn : ∀ t : State, t.fld F.dbgWpctlEn = 0 → t.watchpoint c acc = none := by
    intro t ht
    unfold State.watchpoint
    rw [List.find?_eq_none]
    intro x _
    simp [ht]
  have hk : (s.counted c e).fld F.dbgWpctlEn = 0 := hw
  simp only [hn _ hk, hs, Bool.false_eq_true, if_false]

/-- An effect that writes one core's registers, in both register files, and flags, perhaps draws a free value, and enters no recovery. -/
theorem State.settle_done {s0 s t : State} {c : Fin 2} {p : Phys} {i : NIns} {nx : Option Word} {acc : List (Nat × Option TWord)} {l : List Part}
    (h : s0.issues c p i s) (ht : t.fld F.dbgWpctlEn = 0) (w : Vector TWord 32) (flg : BitVec 5) (e : Bool)
    (hc : t.cr c = { s.cr c with w := w, ew := w.map echoBits, flg := flg }) (hv : t.sec.rcvr = s.sec.rcvr)
    (hk : s.keeps t l) (hl : Part.core c ∈ l) :
    ∃ u, s.settle c i e (.done t nx acc) = .next u ∧ s.ranTo u c i w flg (if i.pre.rep then s.nextPc c i else nx.getD (s.nextPc c i)) ∧
      s.keeps u l := by
  obtain ⟨_, _, h12, h13⟩ := h
  unfold State.settle
  simp only [hv, Bool.and_not_self, Bool.false_eq_true, if_false]
  refine ⟨_, rfl, ?_, ?_⟩
  · unfold State.ranTo State.nextPc
    by_cases hr : i.pre.rep = true
    · simp only [hr, if_true]
      rw [State.retired_plain (by simpa using ht) (by rw [State.cr_setCore_same, hc]; exact h12)]
      simp only [State.counted, State.cr_setCore_same, hc]
      by_cases e : (s.cr c).cnt = 1 <;> simp [e]
    · simp only [hr, Bool.false_eq_true, if_false]
      rw [State.retired_plain (by simpa using ht) (by rw [State.cr_setCore_same, hc]; exact h12)]
      simp only [State.counted, State.cr_setCore_same, hc]
      simp
  · have two : ∀ f g : Core → Core, s.keeps ((t.setCore c f).setCore c g) l := fun f g =>
      State.keeps_trans (State.keeps_trans hk (State.setCore_keeps _ _ _) (List.Subset.refl _) (by simpa using hl))
        (State.setCore_keeps _ _ _) (List.Subset.refl _) (by simpa using hl)
    by_cases hr : i.pre.rep = true
    · simp only [hr, if_true]
      rw [State.retired_plain (by simpa using ht) (by rw [State.cr_setCore_same, hc]; exact h12)]
      exact two _ _
    · simp only [hr, Bool.false_eq_true, if_false]
      rw [State.retired_plain (by simpa using ht) (by rw [State.cr_setCore_same, hc]; exact h12)]
      exact two _ _

/-- Operands that carry accepted tags and are no NIL stop nothing. -/
theorem withOperands_ok (tagx : Bool) (s : State) (l : List Src) (h : ∀ x ∈ l, x.ok x.w.tag = true ∧ x.w.tag ≠ Tag.nil) (k : Eff) :
    withOperands tagx s l k = k := by
  unfold withOperands operandStop
  have h1 : l.find? (fun x => x.nilUse && x.w.tag == Tag.nil) = none := by
    rw [List.find?_eq_none]; intro x hx
    have := (h x hx).2
    rw [beq_eq_false_iff_ne.2 this, Bool.and_false]; exact Bool.false_ne_true
  have h2 : l.find? (fun x => !x.ok x.w.tag && !(tagx && x.uniq)) = none := by
    rw [List.find?_eq_none]; intro x hx; simp [(h x hx).1]
  rw [h1, h2]; rfl

theorem updN_map {α β : Type} {n : Nat} (v : Vector α n) (d : Nat) (x : α) (f : α → β) :
    updN (v.map f) d (fun _ => f x) = (updN v d (fun _ => x)).map f := by
  unfold updN
  split
  · apply Vector.ext
    intro j hj
    by_cases e : d = j <;> simp [e]
  · rfl

/-- A word register written with the register files in step, which stay so. -/
theorem State.cr_setW {s : State} {c : Fin 2} (h : s.inStep c) (d : Nat) (v : TWord) :
    (s.setW c d v).cr c = { s.cr c with w := (s.cr c).put d v, ew := ((s.cr c).put d v).map echoBits } := by
  have h' : (s.cr c).ew = (s.cr c).w.map echoBits := h
  unfold State.setW Core.put
  by_cases e : d = 0
  · simp only [e, if_true, ← h']
  · simp only [e, if_false, State.cr_setCore_same, h', updN_map]

theorem State.setW_inStep {s : State} {c : Fin 2} (h : s.inStep c) (d : Nat) (v : TWord) : (s.setW c d v).inStep c := by
  unfold State.inStep
  rw [State.cr_setW h]

theorem State.setW_keeps (s : State) (c : Fin 2) (d : Nat) (v : TWord) : s.keeps (s.setW c d v) [.core c] := by
  unfold State.setW
  by_cases h : d = 0
  · simp only [h, if_true]; exact State.keeps_mono (s.keeps_refl []) (by simp)
  · simp only [h, if_false]; exact State.setCore_keeps _ _ _

@[simp] theorem State.fld_setW (s : State) (c : Fin 2) (d : Nat) (v : TWord) (fd : Fld) : (s.setW c d v).fld fd = s.fld fd := by
  unfold State.setW; split <;> rfl

theorem State.fresh_keeps (s : State) : s.keeps s.fresh.2 [.free] := by
  refine ⟨rfl, fun p hp => ?_⟩
  cases p <;> first | rfl | exact ⟨rfl, rfl⟩ | exact ⟨rfl, rfl, rfl⟩ | exact ⟨rfl, rfl, rfl, rfl, rfl⟩ | exact ⟨rfl, rfl, rfl, rfl, rfl, rfl⟩ | exact ⟨rfl, rfl, rfl, rfl⟩ | exact ⟨rfl, rfl, rfl, rfl, rfl, rfl, rfl⟩ | exact absurd (by simp) hp

/-- A quiet NaN made from any word is a NaN. -/
theorem fltIsNaN_quiet (w : Word) : fltIsNaN ((w &&& 0x803FFFFF#32) ||| 0x7FC00000#32) = true := by
  have bit : ∀ k, 22 ≤ k → k < 31 → ((w &&& 0x803FFFFF#32) ||| 0x7FC00000#32).toNat.testBit k = true := by
    intro k h1 h2
    have hc : (0x7FC00000#32).getLsbD k = true := by interval_cases k <;> decide
    rw [BitVec.testBit_toNat, BitVec.getLsbD_or, hc, Bool.or_true]
  have h1 : getBits ((w &&& 0x803FFFFF#32) ||| 0x7FC00000#32) 23 8 = 255 := by
    apply Nat.eq_of_testBit_eq
    intro j
    rw [testBit_getBits, show (255 : Nat) = 2 ^ 8 - 1 from rfl, Nat.testBit_two_pow_sub_one]
    by_cases hj : j < 8
    · rw [bit (23 + j) (by omega) (by omega)]; simp [hj]
    · simp [hj]
  have h2 : getBits ((w &&& 0x803FFFFF#32) ||| 0x7FC00000#32) 0 23 ≠ 0 := by
    intro e
    have h := congrArg (fun n => n.testBit 22) e
    simp only [testBit_getBits, Nat.zero_add, bit 22 (by omega) (by omega)] at h
    simp at h
  unfold fltIsNaN Flt.ofBits
  simp only [h1, h2, if_true, if_false]

/-- What writing a result does: an allowed word in its destination, allowed flags unless `nf`; the register files stay in step. -/
theorem State.writeOut_spec {s : State} {c : Fin 2} (hi : s.inStep c) (d : Nat) (nf : Bool) (o : AluOut) :
    ∃ w f, o.allows w f ∧
      (s.writeOut c d nf o).cr c = { s.cr c with
        w := (s.cr c).put d w, ew := ((s.cr c).put d w).map echoBits, flg := if nf then (s.cr c).flg else f.into (s.cr c).flg } ∧
      s.keeps (s.writeOut c d nf o) [.core c, .free] ∧ (s.writeOut c d nf o).fld F.dbgWpctlEn = s.fld F.dbgWpctlEn := by
  have put : ∀ (u : State) (w : TWord) (f : Nzcv), s.keeps u [.core c, .free] → u.cr c = s.cr c → u.fld F.dbgWpctlEn = s.fld F.dbgWpctlEn →
      let v := if nf then u.setW c d w else (u.setW c d w).setFlg c (f.into (u.cr c).flg)
      v.cr c = { s.cr c with
        w := (s.cr c).put d w, ew := ((s.cr c).put d w).map echoBits, flg := if nf then (s.cr c).flg else f.into (s.cr c).flg } ∧
      s.keeps v [.core c, .free] ∧ v.fld F.dbgWpctlEn = s.fld F.dbgWpctlEn := by
    intro u w f hu he hf
    have hk := State.keeps_trans hu (u.setW_keeps c d w) (List.Subset.refl _) (by simp)
    have hu' : u.inStep c := by unfold State.inStep; rw [he]; exact hi
    cases nf
    · simp only [Bool.false_eq_true, if_false]
      refine ⟨?_, ?_, ?_⟩
      · unfold State.setFlg; rw [State.cr_setCore_same, State.cr_setW hu', he]
      · exact State.keeps_trans hk (State.setCore_keeps _ _ _) (List.Subset.refl _) (by simp)
      · unfold State.setFlg; rw [State.fld_setCore, State.fld_setW, hf]
    · simp only [if_true]
      exact ⟨by rw [State.cr_setW hu', he], hk, by rw [State.fld_setW, hf]⟩
  have hr := State.keeps_mono (s.keeps_refl []) (show ([] : List Part) ⊆ [.core c, .free] by simp)
  have hf := State.keeps_mono s.fresh_keeps (show [Part.free] ⊆ [.core c, .free] by simp)
  unfold State.writeOut
  cases o with
  | val w f => exact ⟨w, f, ⟨rfl, rfl⟩, put s w f hr rfl rfl⟩
  | openC w f => exact ⟨w, { f with c := s.fresh.1.getLsbD 0 }, ⟨rfl, rfl⟩, put s.fresh.2 w _ hf rfl rfl⟩
  | openNaN =>
    exact ⟨⟨Tag.flt, (s.fresh.1 &&& 0x803FFFFF#32) ||| 0x7FC00000#32⟩, ⟨false, false, false, false⟩, ⟨rfl, fltIsNaN_quiet _, rfl⟩,
      put s.fresh.2 _ _ hf rfl rfl⟩

end Sys2Proof.Machine
end

