-- ==== Sys2Proof/Laws/SlhDsa.lean ====
section
/-!
SUPPORT. Every signature that `slhSign` makes verifies: lengths of the parts, chains, trees, the layers of the hypertree.
-/

namespace Sys2Proof.Machine

theorem upto_eq_range (n : Nat) : upto n = List.range n := by
  induction n with
  | zero => rfl
  | succ n ih => simp [upto, ih, List.range_succ]

theorem length_leOf (n x : Nat) : (leOf n x).length = n := by
  induction n generalizing x with
  | zero => rfl
  | succ n ih => simp [leOf, ih]

theorem length_beOf (n x : Nat) : (beOf n x).length = n := by simp [beOf, length_leOf]

/-- Every byte that a number spells is below 256. -/
theorem leOf_lt {n x b : Nat} (h : b ∈ leOf n x) : b < 256 := by
  induction n generalizing x with
  | zero => simp [leOf] at h
  | succ n ih =>
    rcases List.mem_cons.mp (by simpa [leOf] using h) with h | h
    · omega
    · exact ih h

/-- Pieces of one length lie one after the other. -/
theorem sub_flatten {n : Nat} {l : List Bytes} (hl : ∀ b ∈ l, b.length = n) (rest : Bytes) {i : Nat} (hi : i < l.length) :
    sub (l.flatten ++ rest) (n * i) n = l[i] := by
  induction l generalizing i with
  | nil => simp at hi
  | cons b l ih =>
    have hb := hl b (by simp)
    cases i with
    | zero => simp [sub, ← hb]
    | succ i =>
      have h := ih (fun c hc => hl c (by simp [hc])) (i := i) (by simpa using hi)
      have hd : (b ++ (l.flatten ++ rest)).drop (n * (i + 1)) = (l.flatten ++ rest).drop (n * i) := by
        rw [Nat.mul_succ, Nat.add_comm, ← List.drop_drop, ← hb, List.drop_left]
      rw [sub, List.flatten_cons, List.append_assoc, hd]
      exact h

theorem length_flatten {n : Nat} {l : List Bytes} (hl : ∀ b ∈ l, b.length = n) : l.flatten.length = n * l.length := by
  induction l with
  | nil => simp
  | cons b l ih => simp [ih (fun c hc => hl c (by simp [hc])), hl b (by simp), Nat.mul_succ, Nat.add_comm]

/-! ### SHA-256 -/

theorem length_shaGrow (l : List Word) (q : List Word × List Word) (h : q.1.length = 4 ∧ q.2.length = 4) :
    (l.foldl shaGrow q).1.length = 4 ∧ (l.foldl shaGrow q).2.length = 4 := by
  induction l generalizing q with
  | nil => exact h
  | cons m l ih => exact ih _ (by simp [shaGrow, h.1, h.2])

theorem length_shaTake (h : List Word) (b : Bytes) (hl : h.length = 8) : (shaTake h b).length = 8 := by
  unfold shaTake
  have := length_shaGrow (List.zipWith (· + ·) shaAdds (shaStretch ((upto 16).foldl
    (fun (w : List Word) j => BitVec.ofNat 32 (beAt b (4 * j) 4) :: w) []) 48).reverse) (h.take 4, h.drop 4) (by simp [hl])
  simp only [List.length_zipWith, List.length_append, this.1, this.2, hl]; rfl

theorem shaDigest_length (l : List Nat) (f : Nat → Bytes) (h : List Word) (hl : h.length = 8) :
    (l.foldl (fun h j => shaTake h (f j)) h).length = 8 := by
  induction l generalizing h with
  | nil => exact hl
  | cons a l ih => exact ih _ (length_shaTake _ _ hl)

theorem length_sha256 (l : Bytes) : (sha256 l).length = 32 := by
  unfold sha256
  have h := shaDigest_length (upto ((shaPadded l).length / 64)) (fun j => sub (shaPadded l) (64 * j) 64) shaStart (by decide +kernel)
  rw [List.flatMap, length_flatten (n := 4) (by simp only [List.mem_map]; rintro b ⟨w, -, rfl⟩; exact length_beOf _ _), List.length_map, h]

theorem sha256_lt {l : Bytes} {b : Nat} (h : b ∈ sha256 l) : b < 256 := by
  simp only [sha256, List.mem_flatMap] at h
  obtain ⟨w, -, h⟩ := h
  exact leOf_lt (List.mem_reverse.mp h)

theorem length_slhHash (pk : Bytes) (x : SlhAdrs) (m : Bytes) : (slhHash pk x m).length = 16 := by simp [slhHash, length_sha256]

theorem slhHash_lt {pk : Bytes} {x : SlhAdrs} {m : Bytes} {b : Nat} (h : b ∈ slhHash pk x m) : b < 256 := sha256_lt (List.mem_of_mem_take h)

/-! ### WOTS+ -/

theorem length_wotsChain (pk : Bytes) (x : SlhAdrs) (n i : Nat) (v : Bytes) (h : v.length = 16) : (wotsChain pk x n i v).length = 16 := by
  induction n generalizing i v with
  | zero => exact h
  | succ n ih => exact ih _ _ (length_slhHash _ _ _)

/-- A chain goes on where it has come to. -/
theorem wotsChain_add (pk : Bytes) (x : SlhAdrs) (a b i : Nat) (v : Bytes) :
    wotsChain pk x b (i + a) (wotsChain pk x a i v) = wotsChain pk x (a + b) i v := by
  induction a generalizing i v with
  | zero => simp [wotsChain]
  | succ a ih => rw [Nat.succ_add a b, wotsChain, wotsChain, ← ih, Nat.add_assoc, Nat.add_comm 1 a]

theorem length_slhDigits (x : Bytes) (b n : Nat) : (slhDigits x b n).length = n := by simp [slhDigits, upto_eq_range]

theorem slhDigits_lt {x : Bytes} {b n d : Nat} (h : d ∈ slhDigits x b n) : d < 2 ^ b := by
  simp only [slhDigits, List.mem_map] at h
  obtain ⟨i, -, rfl⟩ := h
  exact Nat.mod_lt _ (by positivity)

theorem length_wotsDigits (m : Bytes) : (wotsDigits m).length = 35 := by simp [wotsDigits, length_slhDigits]

theorem wotsDigits_lt {m : Bytes} {d : Nat} (h : d ∈ wotsDigits m) : d < 16 := by
  rcases List.mem_append.mp h with h | h <;> exact slhDigits_lt h

theorem length_wotsPieces (sk pk : Bytes) (x : SlhAdrs) (l : List (Nat × Nat)) :
    ∀ b ∈ l.map (fun v => wotsChain pk { x with w2 := v.2 } v.1 0 (wotsSecret sk pk x v.2)), b.length = 16 := by
  simp only [List.mem_map]; rintro b ⟨v, -, rfl⟩
  exact length_wotsChain _ _ _ _ _ (length_slhHash _ _ _)

theorem length_wotsSign (sk pk : Bytes) (x : SlhAdrs) (m : Bytes) : (wotsSign sk pk x m).length = 560 := by
  rw [wotsSign, List.flatMap, length_flatten (length_wotsPieces sk pk x _)]; simp [length_wotsDigits]

/-- A one-time signature gives the public key of its key pair. -/
theorem wotsFromSig_wotsSign (sk pk : Bytes) (x : SlhAdrs) (m rest : Bytes) :
    wotsFromSig pk x (wotsSign sk pk x m ++ rest) m = wotsPublic sk pk x := by
  unfold wotsFromSig wotsPublic
  congr 1
  apply List.ext_getElem (by simp [length_wotsDigits, upto_eq_range])
  intro i h1 h2
  have hw : i < (wotsDigits m).length := by simpa only [List.length_map, List.length_zipIdx] using h1
  have hs := sub_flatten (length_wotsPieces sk pk x (wotsDigits m).zipIdx) rest (i := i)
    (by simpa only [List.length_map, List.length_zipIdx] using hw)
  have hd := wotsDigits_lt (List.getElem_mem hw)
  simp only [List.getElem_map, List.getElem_zipIdx, Nat.zero_add] at hs
  simp only [List.getElem_map, List.getElem_zipIdx, Nat.zero_add, upto_eq_range, List.getElem_range]
  generalize (wotsDigits m)[i] = d at hs hd ⊢
  have hc := wotsChain_add pk { x with w2 := i } d (15 - d) 0 (wotsSecret sk pk x i)
  rw [Nat.zero_add, show d + (15 - d) = 15 by omega, ← hs] at hc
  exact hc

/-! ### Trees -/

theorem length_treeNode (pk : Bytes) (x : SlhAdrs) (leaf : Nat → Bytes) (hl : ∀ i, (leaf i).length = 16) (z i : Nat) :
    (treeNode pk x leaf z i).length = 16 := by
  cases z with
  | zero => exact hl i
  | succ z => exact length_slhHash _ _ _

theorem xor_one (n : Nat) : n ^^^ 1 = if n % 2 = 0 then n + 1 else n - 1 := by
  have h1 : (n ^^^ 1) / 2 = n / 2 := by simpa using Nat.xor_div_two (a := n) (b := 1)
  have h2 : (n ^^^ 1) % 2 = (n % 2 ^^^ 1) := by simpa using Nat.xor_mod_two_pow (a := n) (b := 1) (n := 1)
  rcases Nat.mod_two_eq_zero_or_one n with h | h
  · rw [h] at h2; rw [if_pos h]; have : (n ^^^ 1) % 2 = 1 := h2; omega
  · rw [h] at h2; rw [if_neg (by omega)]; have : (n ^^^ 1) % 2 = 0 := h2; omega

theorem length_treePath (pk : Bytes) (x : SlhAdrs) (leaf : Nat → Bytes) (hl : ∀ i, (leaf i).length = 16) (h i : Nat) :
    (treePath pk x leaf h i).length = 16 * h := by
  rw [treePath, List.flatMap, length_flatten (n := 16)]
  · simp [upto_eq_range]
  · simp only [List.mem_map]; rintro b ⟨j, -, rfl⟩; exact length_treeNode _ _ _ hl _ _

/-- A leaf and its authentication path give the root. -/
theorem treeRoot_treePath (pk : Bytes) (x : SlhAdrs) (leaf : Nat → Bytes) (hl : ∀ i, (leaf i).length = 16) (h i : Nat) (rest : Bytes) :
    treeRoot pk x h i (leaf i) (treePath pk x leaf h i ++ rest) = treeNode pk x leaf h (i / 2 ^ h) := by
  have hp : ∀ j, j < h → sub (treePath pk x leaf h i ++ rest) (16 * j) 16 = treeNode pk x leaf j (i / 2 ^ j ^^^ 1) := by
    intro j hj
    rw [treePath, List.flatMap, sub_flatten (n := 16) _ rest (i := j) (by simpa [upto_eq_range] using hj)]
    · simp [upto_eq_range]
    · simp only [List.mem_map]; rintro b ⟨j, -, rfl⟩; exact length_treeNode _ _ _ hl _ _
  have key : ∀ n, n ≤ h → (upto n).foldl (fun u j =>
      let p := sub (treePath pk x leaf h i ++ rest) (16 * j) 16
      slhHash pk { x with w2 := j + 1, w3 := i / 2 ^ (j + 1) } (if i / 2 ^ j % 2 = 0 then u ++ p else p ++ u)) (leaf i)
      = treeNode pk x leaf n (i / 2 ^ n) := by
    intro n
    induction n with
    | zero => intro _; simp [upto, treeNode]
    | succ n ih =>
      intro hn
      rw [upto, List.foldl_append, ih (by omega)]
      simp only [List.foldl_cons, List.foldl_nil, hp n (by omega), treeNode]
      have hd : i / 2 ^ (n + 1) = i / 2 ^ n / 2 := by rw [Nat.pow_succ, Nat.div_div_eq_div_mul]
      rw [hd, xor_one]
      congr 1
      split
      · congr 2 <;> omega
      · congr 2 <;> omega
  exact key h (Nat.le_refl h)

/-! ### The hypertree -/

theorem length_pairLeaf (sk pk : Bytes) (layer tree i : Nat) : (pairLeaf sk pk layer tree i).length = 16 := length_slhHash _ _ _

theorem length_xmssSign (p : SlhSet) (sk pk m : Bytes) (layer tree i : Nat) : (xmssSign p sk pk m layer tree i).length = p.layerLen := by
  simp [xmssSign, length_wotsSign, length_treePath _ _ _ (length_pairLeaf sk pk layer tree), SlhSet.layerLen]; omega

/-- A signature by a leaf gives the root of its tree. -/
theorem xmssRoot_xmssSign (p : SlhSet) (sk pk m rest : Bytes) (layer tree i : Nat) (hi : i < 2 ^ p.hp) :
    xmssRoot p pk (xmssSign p sk pk m layer tree i ++ rest) m layer tree i =
      treeNode pk (nodeAdrs layer tree) (pairLeaf sk pk layer tree) p.hp 0 := by
  unfold xmssRoot xmssSign
  rw [List.append_assoc, wotsFromSig_wotsSign, List.drop_append, List.drop_of_length_le (by rw [length_wotsSign]), length_wotsSign]
  have := treeRoot_treePath pk (nodeAdrs layer tree) (pairLeaf sk pk layer tree) (length_pairLeaf sk pk layer tree) p.hp i rest
  rw [Nat.div_eq_of_lt hi] at this
  exact this

theorem length_hyperSign (p : SlhSet) (sk pk : Bytes) (n j tree i : Nat) (m : Bytes) :
    (hyperSign p sk pk n j tree i m).length = p.layerLen * n := by
  induction n generalizing j tree i m with
  | zero => rfl
  | succ n ih => simp [hyperSign, ih, length_xmssSign, Nat.mul_succ, Nat.add_comm]

/-- A signature by the hypertree gives the root of its last layer. -/
theorem hyperRoot_hyperSign (p : SlhSet) (sk pk : Bytes) (n j tree i : Nat) (m sig : Bytes) (hi : i < 2 ^ p.hp)
    (hs : sig.drop (p.layerLen * j) = hyperSign p sk pk (n + 1) j tree i m) :
    hyperRoot p pk sig (n + 1) j tree i m =
      treeNode pk (nodeAdrs (j + n) (tree / 2 ^ (p.hp * n))) (pairLeaf sk pk (j + n) (tree / 2 ^ (p.hp * n))) p.hp 0 := by
  induction n generalizing j tree i m with
  | zero =>
    rw [hyperRoot, hyperRoot, hs, hyperSign]
    simpa [hyperSign] using xmssRoot_xmssSign p sk pk m [] j tree i hi
  | succ n ih =>
    have h0 := hs
    rw [hyperSign] at h0
    have e0 := xmssRoot_xmssSign p sk pk m [] j tree i hi
    rw [List.append_nil] at e0
    rw [hyperRoot, h0, xmssRoot_xmssSign p sk pk m _ j tree i hi]
    rw [ih (j + 1) (tree / 2 ^ p.hp) (tree % 2 ^ p.hp) _ (Nat.mod_lt _ (by positivity))]
    · rw [Nat.div_div_eq_div_mul, ← Nat.pow_add, show p.hp + p.hp * n = p.hp * (n + 1) by ring, show j + 1 + n = j + (n + 1) by omega]
    · rw [Nat.mul_succ, ← List.drop_drop, h0, e0]
      simp [length_xmssSign]

/-! ### The scheme -/

theorem length_forsSign (p : SlhSet) (sk pk : Bytes) (x : SlhAdrs) (md : Bytes) : (forsSign p sk pk x md).length = p.forsLen := by
  have leaf : ∀ i, (forsLeaf pk x i (forsSecret sk pk x i)).length = 16 := fun i => length_slhHash _ _ _
  rw [forsSign, List.flatMap, length_flatten (n := 16 + 16 * p.a)]
  · simp only [List.length_map, List.length_zipIdx, length_slhDigits, SlhSet.forsLen]; ring
  · simp only [List.mem_map]; rintro b ⟨v, -, rfl⟩
    rw [List.length_append, List.flatMap, length_flatten (n := 16)]
    · simp [forsSecret, length_slhHash, upto_eq_range]
    · simp only [List.mem_map]; rintro b ⟨j, -, rfl⟩; exact length_treeNode _ _ _ leaf _ _

theorem length_slhSign (p : SlhSet) (sk prf pk root m rand : Bytes) : (slhSign p sk prf pk root m rand).length = p.sigLen := by
  simp [slhSign, hmacSha256, length_sha256, length_forsSign, length_hyperSign, SlhSet.sigLen]; omega

/-- The parts of a signature, as a verifier takes them. -/
theorem slhSign_parts (r fors hyper : Bytes) (hr : r.length = 16) :
    sub (r ++ fors ++ hyper) 0 16 = r ∧ sub (r ++ fors ++ hyper) 16 fors.length = fors ∧ (r ++ fors ++ hyper).drop (16 + fors.length) = hyper := by
  refine ⟨?_, ?_, ?_⟩
  · simp [sub, ← hr]
  · simp [sub, ← hr]
  · simp [← hr, List.drop_append]

theorem length_slhRoot (p : SlhSet) (sk pk : Bytes) : (slhRoot p sk pk).length = 16 :=
  length_treeNode _ _ _ (length_pairLeaf sk pk _ _) _ _

theorem slhRoot_lt {p : SlhSet} {sk pk : Bytes} {b : Nat} (h : b ∈ slhRoot p sk pk) : b < 256 := by
  have lt : ∀ z, b ∈ treeNode pk (nodeAdrs (p.d - 1) 0) (pairLeaf sk pk (p.d - 1) 0) z 0 → b < 256 := by
    intro z hz
    cases z with
    | zero => exact slhHash_lt hz
    | succ z => exact slhHash_lt hz
  exact lt p.hp h

/-- Every signature verifies under the public key of its key pair. -/
theorem slhVerify_slhSign (p : SlhSet) (hd : p.d ≠ 0) (sk prf pk m rand : Bytes) :
    slhVerify p pk (slhRoot p sk pk) m (slhSign p sk prf pk (slhRoot p sk pk) m rand) = true := by
  obtain ⟨d, hd⟩ := Nat.exists_eq_succ_of_ne_zero hd
  unfold slhVerify
  rw [length_slhSign, beq_self_eq_true, Bool.true_and, beq_iff_eq]
  unfold slhSign
  dsimp only
  generalize hr : (hmacSha256 prf (rand ++ slhPure m)).take 16 = r
  have lr : r.length = 16 := by rw [← hr]; simp [hmacSha256, length_sha256]
  generalize hg : slhDigest r pk (slhRoot p sk pk) (slhPure m) p.digestLen = dg
  generalize hf : forsSign p sk pk (forsAdrs (p.tree dg) (p.leaf dg)) (dg.take p.mdLen) = fors
  have lf : fors.length = p.forsLen := by rw [← hf, length_forsSign]
  generalize hh : hyperSign p sk pk p.d 0 (p.tree dg) (p.leaf dg) (forsRoot p pk (forsAdrs (p.tree dg) (p.leaf dg)) fors (dg.take p.mdLen)) = hyper
  obtain ⟨e1, e2, e3⟩ := slhSign_parts r fors hyper lr
  rw [lf] at e2 e3
  rw [e1, hg, e2, e3, hd]
  rw [hyperRoot_hyperSign p sk pk d 0 (p.tree dg) (p.leaf dg) _ _ (by unfold SlhSet.leaf; exact Nat.mod_lt _ (by positivity))
    (by rw [← hh, hd]; simp)]
  have ht : p.tree dg / 2 ^ (p.hp * d) = 0 := by
    rw [Nat.div_eq_of_lt]
    have : p.d - 1 = d := by omega
    unfold SlhSet.tree; rw [this]; exact Nat.mod_lt _ (by positivity)
  rw [ht, slhRoot, hd, Nat.zero_add]; rfl

/-- Every message has a signature under the public key of a key pair. -/
theorem slh_exists (p : SlhSet) (hd : p.d ≠ 0) (sk prf pk m : Bytes) :
    ∃ root sig, root.length = 16 ∧ (∀ b ∈ root, b < 256) ∧ sig.length = p.sigLen ∧ slhVerify p pk root m sig = true :=
  ⟨slhRoot p sk pk, slhSign p sk prf pk (slhRoot p sk pk) m [], length_slhRoot _ _ _, fun _ h => slhRoot_lt h, length_slhSign _ _ _ _ _ _ _,
    slhVerify_slhSign p hd _ _ _ _ _⟩

end Sys2Proof.Machine
end

