-- ==== Sys2Proof/WellFormed.lean ====
section
/-!
DEFINITION. Which commands are well formed: their operands name things that the block and its surroundings have. Numbers of channels,
cores, registers and the like are bounded by their types; what is checked here is what a type does not bound.
-/

namespace Sys2Proof

/-- Bytes of a message, a frame or a packet. -/
def bytesWf (l : List Nat) : Bool := l.all (fun b => decide (b < 256))

/-- An address of the 32-bit address space (R305). -/
def addrWf (a : Nat) : Bool := decide (a < 2 ^ 32)

/-- The lengths that a CAN message can have, in bytes (R449, R461). -/
def canLenWf (m : CanMsg) : Bool :=
  decide (m.len ≤ 8) || (m.fdf && [12, 16, 20, 24, 32, 48, 64].contains m.len)

/-- A CAN message as the standard allows it (R449): its identifier fits its format, its length is one that the format has, a remote
frame is of the classical format and carries no data, and the bit rate switch and the error state stand in FD frames alone. -/
def CanMsg.wf (m : CanMsg) : Bool :=
  decide (m.id < (if m.xtd then 2 ^ 29 else 2 ^ 11)) && canLenWf m && (m.fdf || (!m.brs && !m.esi)) && !(m.fdf && m.rtr)
    && decide (m.data.length = (if m.rtr then 0 else m.len)) && bytesWf m.data
    && (m.more == 0 || (!m.fdf && m.len == 8 && decide (m.more ≤ 7)))

/-- A sensor that the device has. -/
def Sensor.wf : Sensor → Bool
  | .outI o => decide (o < 56)
  | .outV o => decide (o < 56)
  | .outTj o => decide (o < 56)
  | .ron o => decide (o < 48)
  | .segDrift o k => decide (o < 48) && decide (k < (if o < 8 then 5 else 4))
  | .die d => decide (d < 7)
  | .vbat g => decide (g < 3)
  | .swLand i => decide (i < 48)
  | .wakeLand n => decide (n < 2)
  | .ain a => decide (a < 24)
  | .vsMv v => decide (v < 4)
  | .vsMa v => decide (v < 4)
  | .plI ch => decide (ch < 12)
  | .plV ch => decide (ch < 12)
  | .plTj ch => decide (ch < 12)
  | .plClp ch => decide (ch < 12)
  | .plUj ch => decide (ch < 12)
  | .pbI b => decide (b < 3)
  | .pbTj b => decide (b < 3)
  | .pxI x => decide (x < 4)
  | .pxTj x => decide (x < 4)
  | .pxUj x => decide (x < 4)
  | .ledTj n => decide (n < 24)
  | .canBusy n => decide (n < 6)
  | .canSwap n => decide (n < 6)
  | .sqi p => decide (p < 2)
  | .gpio n => decide (n < 16)
  | .lfPeak a => decide (a < 6)
  | .phase p => decide (p < 5)
  | .lane c l => decide (c < 2) && decide (l < 5)
  | .laneIdle c => decide (c < 2)
  | .vhold => true
  | .tlog => true
  | .vpp => true
  | .xrc => true
  | .umiso => true
  | .rpages => true
  | .ecc a => decide (a < 2 ^ 32) && decide (a % 4 = 0)
  | .bankFails b => decide (b < 16)

/-- Readings of sensors that the device has. -/
def worldWf (w : World) : Bool := w.all (fun p => p.1.wf)

/-- An access to a lane by a requester of R401, to a word of the bank. -/
def GAcc.wf (g : GAcc) : Bool := decide (g.who ≤ 8) && decide (g.word < 65536) && (!g.pair || decide (g.word % 2 = 0))

/-- What a start finds names records of the Silo and sensors that there are. -/
def Startup.wf (u : Startup) : Bool := u.ecc.all (fun p => decide (p.1 < 128)) && worldWf u.seen

/-- The source of a datagram: an IPv4 address and a UDP port. -/
def sourceWf : Option (Nat × Nat) → Bool
  | some (ip, port) => decide (ip < 2 ^ 32) && decide (port < 65536)
  | none => true

/-- A register number of a link transaction (R388). -/
def linkRegWf (r : Nat) : Bool := decide (r < 256)

/-- A command is well formed. -/
def Instr.wf : Instr → Bool
  | .registerWrite _ _ a _ => addrWf a
  | .frameEdge w => worldWf w
  | .slotBoundary w => worldWf w
  | .sealDeadline => true
  | .firmwareCutoff => true
  | .hostCutoff => true
  | .jobRelease _ => true
  | .eventRaise _ => true
  | .eventDispatch _ => true
  | .jobStart _ => true
  | .sev _ => true
  | .frameloRead _ => true
  | .inrushWindowClose _ => true
  | .overcurrentShutoff _ _ _ => true
  | .junctionShutoff _ _ => true
  | .tlatchClear _ _ => true
  | .channelRestart _ => true
  | .retriesHeal _ => true
  | .pairImbalance _ => true
  | .slotSample w => worldWf w
  | .streamSampleWrite => true
  | .dieShed _ _ => true
  | .shedEscalate _ _ => true
  | .hbShutoff _ _ _ _ => true
  | .hbStall _ => true
  | .offStatePhaseA _ _ _ => true
  | .offStateCheck _ _ _ => true
  | .reverseOn _ _ => true
  | .reverseEnd _ _ => true
  | .engineStart _ => true
  | .engineStop _ => true
  | .holdEnded _ => true
  | .grantedSlotStart _ => true
  | .regulatorSample w => worldWf w
  | .detectorWindowClose _ => true
  | .ucNop _ => true
  | .ucSet _ => true
  | .ucRamp _ => true
  | .ucWaits _ => true
  | .ucWaitu _ => true
  | .ucWaituExpire _ => true
  | .ucWaitc _ => true
  | .ucWaitcTimeout _ => true
  | .ucDecay _ => true
  | .ucBr _ => true
  | .ucLps _ => true
  | .ucLpj _ => true
  | .ucArmd _ => true
  | .ucHold _ => true
  | .ucSig _ => true
  | .ucEnd _ => true
  | .microcodeFault _ _ => true
  | .coilShutoff _ _ _ => true
  | .bankShutoff _ _ _ => true
  | .clampOvertemp _ _ => true
  | .loaderCopyComplete => true
  | .pxShutoff _ _ _ => true
  | .ledMeasurement _ _ _ => true
  | .ledOvertemp _ _ => true
  | .wettingPulseStart => true
  | .watchTransition _ _ => true
  | .watchFreezeEnd => true
  | .wakeInputTransition _ _ => true
  | .ainSample w => worldWf w
  | .biasCheckSample w => worldWf w
  | .vsensOvercurrent _ => true
  | .vsensExternalDrive _ _ => true
  | .warnPulseEnd => true
  | .stickyClear _ _ _ => true
  | .sourceForce _ _ _ => true
  | .swset _ => true
  | .classLock _ => true
  | .classFEnd _ u => u.wf
  | .nop _ _ => true
  | .fence _ _ => true
  | .sealIns _ _ => true
  | .waite _ _ => true
  | .rete _ _ => true
  | .brk _ _ => true
  | .bcc _ _ => true
  | .inc _ _ => true
  | .dec _ _ => true
  | .neg _ _ => true
  | .abs _ _ => true
  | .not _ _ => true
  | .clrn _ _ => true
  | .tst _ _ => true
  | .swt _ _ => true
  | .ret _ _ => true
  | .jmpr _ _ => true
  | .tstamp _ _ => true
  | .now _ _ => true
  | .setcnt _ _ => true
  | .add _ _ => true
  | .sub _ _ => true
  | .mul _ _ => true
  | .div _ _ => true
  | .rem _ _ => true
  | .and _ _ => true
  | .or _ _ => true
  | .xor _ _ => true
  | .shl _ _ => true
  | .shr _ _ => true
  | .sar _ _ => true
  | .rol _ _ => true
  | .ror _ _ => true
  | .cmp _ _ => true
  | .min _ _ => true
  | .max _ _ => true
  | .mov _ _ => true
  | .cvt _ _ => true
  | .ttest _ _ => true
  | .tagof _ _ => true
  | .ldx _ _ => true
  | .stx _ _ => true
  | .xchg _ _ => true
  | .cas _ _ => true
  | .xadd _ _ => true
  | .bmov _ _ => true
  | .bfill _ _ => true
  | .tsub _ _ => true
  | .tfrm _ _ => true
  | .tslot _ _ => true
  | .mfs _ _ => true
  | .mts _ _ => true
  | .cadd _ _ => true
  | .callr _ _ => true
  | .hchan _ _ => true
  | .hrec _ _ => true
  | .hcmd _ _ => true
  | .hmsg _ _ => true
  | .hobj _ _ => true
  | .hidx _ _ => true
  | .keyh _ _ => true
  | .cjob _ _ => true
  | .movi _ _ => true
  | .aluiAdd _ _ => true
  | .aluiSub _ _ => true
  | .aluiMul _ _ => true
  | .aluiDiv _ _ => true
  | .aluiRem _ _ => true
  | .aluiAnd _ _ => true
  | .aluiOr _ _ => true
  | .aluiXor _ _ => true
  | .aluiShl _ _ => true
  | .aluiShr _ _ => true
  | .aluiSar _ _ => true
  | .aluiRol _ _ => true
  | .aluiRor _ _ => true
  | .aluiCmp _ _ => true
  | .aluiMin _ _ => true
  | .aluiMax _ _ => true
  | .ld _ _ => true
  | .st _ _ => true
  | .br _ _ => true
  | .call _ _ => true
  | .btag _ _ => true
  | .adr _ _ => true
  | .illegalInstruction _ _ => true
  | .cust _ _ => true
  | .customRegionClose _ _ => true
  | .storeDrain _ => true
  | .coreRestart _ _ _ => true
  | .mrd a _ _ => addrWf a
  | .mwr a _ _ _ _ => addrWf a
  | .rrd _ r _ => linkRegWf r
  | .rwr _ r _ _ _ => linkRegWf r
  | .drd _ _ => true
  | .dwr _ _ _ _ => true
  | .linkReset => true
  | .debugHalt _ => true
  | .debugResume _ => true
  | .step _ => true
  | .restart _ => true
  | .laneGrant _ _ arrived _ => arrived.all GAcc.wf
  | .correctedWriteback _ _ => true
  | .ownerWrite _ _ _ => true
  | .bankStateWrite _ _ => true
  | .bankPowerDown _ => true
  | .bankWakeComplete _ => true
  | .bankWakeTimeout _ => true
  | .scrubRead _ _ => true
  | .laneCopyComplete _ => true
  | .groupOvervoltageOff _ _ => true
  | .dipOff _ _ => true
  | .reverseLatch _ _ _ => true
  | .logicDip _ => true
  | .logicDipEnd _ _ _ => true
  | .powerUp u => u.wf
  | .lowSupply _ u => u.wf
  | .longDip u => u.wf
  | .holdUpEmpty _ u => u.wf
  | .brownOut u => u.wf
  | .resetLand _ u => u.wf
  | .coreDomainDown _ => true
  | .domainWakeComplete _ => true
  | .resumeEdge w => worldWf w
  | .parkEntry _ => true
  | .wakeRequest _ _ _ => true
  | .pllLock _ _ => true
  | .aonTimerExpire => true
  | .crystalStop => true
  | .canRunStart _ => true
  | .canRunStop _ _ => true
  | .canIntegrated _ => true
  | .objcfgWrite _ _ _ => true
  | .canFrameReceived _ m _ => m.wf
  | .objectPortRead _ _ _ => true
  | .objectPortWrite _ _ _ _ => true
  | .lckrel _ _ => true
  | .qack _ => true
  | .canTxStart _ => true
  | .canTxSuccess _ => true
  | .canTxError _ _ _ => true
  | .recover _ => true
  | .busOffRecovery _ => true
  | .selectiveWake _ m _ => m.wf
  | .linHeaderSend _ _ => true
  | .linHeaderReceived _ _ _ _ => true
  | .linResponseReceived _ data cks _ => bytesWf data && decide (cks < 256)
  | .linResponseSent _ _ => true
  | .linNoResponse _ => true
  | .linBusDominant _ => true
  | .linBusRelease _ => true
  | .linWakeSend _ => true
  | .linWakeReceived _ _ => true
  | .linIdle _ => true
  | .nmFrameSend => true
  | .nclr => true
  | .ethLinkUp _ _ => true
  | .ethLinkDown _ => true
  | .ethFrameReceived _ bytes _ => bytesWf bytes
  | .ethFrameEgress _ => true
  | .followUpTimeout => true
  | .delayReqSend => true
  | .ptpSourceLost => true
  | .tloRead _ => true
  | .cntloRead _ => true
  | .nrateloWrite _ => true
  | .noffloWrite _ => true
  | .ppsOutPulse => true
  | .ppsInEdge _ => true
  | .almloWrite _ => true
  | .alarm => true
  | .balerRecordBuild => true
  | .recordRequestServe => true
  | .searchStart => true
  | .retrySearch => true
  | .lfTelegramEnd w => worldWf w
  | .aerialShort _ _ => true
  | .tokenReply _ packet => bytesWf packet
  | .replyWindowClose => true
  | .memReceived packet => bytesWf packet
  | .memTimeout => true
  | .releaseEnd => true
  | .permitFrame => true
  | .permitEnd => true
  | .buttonPacket packet => bytesWf packet
  | .urawAccess _ back => decide (back < 256)
  | .pepochWrite _ _ => true
  | .read src b => sourceWf src && bytesWf b
  | .write src b => sourceWf src && bytesWf b
  | .txn src b => sourceWf src && bytesWf b
  | .hreset src b => sourceWf src && bytesWf b
  | .hostNop src b => sourceWf src && bytesWf b
  | .spiShortFrame b => bytesWf b
  | .commit => true
  | .aesCtr _ _ => true
  | .gcmEnc _ _ => true
  | .gcmDec _ _ => true
  | .cmac _ _ => true
  | .cmacVer _ _ => true
  | .sha256 _ _ => true
  | .slhVer _ _ => true
  | .attest _ _ => true
  | .idpk _ => true
  | .random _ => true
  | .kload _ _ => true
  | .kerase _ => true
  | .kwrap _ => true
  | .kunwrap _ _ => true
  | .xread _ => true
  | .xprog _ _ => true
  | .xerase _ => true
  | .iverify _ => true
  | .hload _ => true
  | .confirm _ => true
  | .cryptoJobComplete _ => true
  | .flashTimeout _ => true
  | .jdoneClear _ _ => true
  | .trngHealthFail => true
  | .boot _ => true
  | .hctlStart _ _ => true
  | .recoverEntry _ _ => true
  | .recoveryErase _ _ => true
  | .rdataWrite _ _ _ => true
  | .recoveryVerify _ _ => true
  | .recoveryBoot _ _ => true
  | .drespCheck _ _ => true
  | .prog _ _ => true
  | .arbstep _ _ => true
  | .wear _ _ => true
  | .siloOpComplete _ _ => true
  | .siloAbort _ _ _ => true
  | .laneRetire _ _ => true
  | .frc _ _ => true
  | .pllUnlock => true
  | .allClocksLost => true
  | .aonClockStop => true
  | .counterParityError => true
  | .canBusError _ _ => true
  | .spiIdleFrame _ => true
  | .hostBadRequest src b => sourceWf src && bytesWf b
  | .trngHealthPass => true
  | .ppsOutPulseEnd => true

end Sys2Proof
end

