-- ==== Sys2Proof/Tests/Slice0.lean ====
section
/-!
SUPPORT. Tests of the model: ill-formed commands that the check refuses, single steps whose results the spec or a standard gives, and for
every obligation with hypotheses states and operands that meet them.
-/

namespace Sys2Proof.Tests

open Sys2Proof.Machine

set_option maxRecDepth 100000

/-! ### Small states -/

/-- Bytes as words of memory from a word address on. -/
def putCode (a : Nat) (b : List Nat) (s : State) : State :=
  forEach ((b.length + 3) / 4) (fun t j => t.mwrite (a + 4 * j) ⟨Tag.raw, BitVec.ofNat 32 (leNat ((b.drop (4 * j)).take 4))⟩) s

/-- The machine after reset with every domain ON. -/
def live : State := forEach 32 (fun t d => t.setDom d (fun x => { x with st := .on })) State.reset

/-- A state with fields set. -/
def fields (l : List (Fld × Nat)) (s : State) : State := l.foldl (fun t p => t.setFld p.1 p.2) s

/-- The machine after reset with C0's domain ON, as BOOT leaves it. -/
def coreOn : State := State.reset.setDom 1 (fun x => { x with st := .on })

/-- C0 in a task at the start of its near instruction store, which holds the bytes; its W registers from w0 on. -/
def coreWith (bytes : List Nat) (w : List TWord) : State :=
  (putCode 0x01000000 bytes coreOn).setCore 0 (fun k =>
    let v := forEach w.length (fun v i => updN v i (fun _ => w.getD i TWord.nil0)) k.w
    { k with
      pc := 0x01000000, task := 3, prio := 1, stampDue := false
      w := v, ew := forEach 32 (fun e i => updN e i (fun _ => echoBits (nth v i TWord.nil0))) k.ew })

/-- A word for tests. -/
def nat (n : Nat) : TWord := TWord.nat n
def int (z : Int) : TWord := TWord.int z
def ptr (n : Nat) : TWord := ⟨Tag.ptr, BitVec.ofNat 32 n⟩

/-- Something of the next state, none where there is none. -/
def after {α : Type} (o : Out) (f : State → α) : Option α :=
  match o with
  | .next t => some (f t)
  | .fault _ => none
  | .refused _ => none

/-- The pause, a job, an output, a channel's diagnosis of a state changed. -/
def paused (p : Pause) (s : State) : State := { s with pwr := { s.pwr with pause := p } }

/-- A dip; a class F halt; the logic unpowered: the three states in which stores stop. -/
def dipped : State := paused (.dip 0) live
def haltedF : State := { live with win := { live.win with fhalt := true } }
def unpow : State := live.setGrp 2 (fun x => { x with reversed := true })

/-! ### Frames, tasks and stores -/

theorem witness_FrontCommandSteps : State.reset.pending = [] ∧ State.reset.pwr.pause = .run ∧ ({ State.reset with pending := [.sealDeadline] }).pending = [.sealDeadline] := by
  decide

/-- A state whose queue is empty is canonical, and its step a next state. -/
theorem witness_StepKeepsCanonical : State.reset.canonical ∧ ∃ t, step State.reset = .next t := ⟨by constructor <;> decide, _, rfl⟩

theorem witness_CommandsKeepTheQueue : ∃ t, exec .linkReset live = .next t := ⟨_, rfl⟩

theorem witness_EdgesAloneMoveFrame : movesFrame .linkReset = false ∧ (∃ t, exec .linkReset haltedF = .next t) ∧ haltedF.win.fhalt = true :=
  ⟨rfl, ⟨_, rfl⟩, rfl⟩

theorem witness_EdgesAndDeadlines :
    live.pwr.pause = .run ∧ live.unpowered = false ∧ (live.observe [(.plUj 0, 400000)]).clampUnchecked = false ∧ live.netTime = false ∧
    live.frameRuns = true ∧ (paused (.resume 0 true (some 5)) live).pwr.pause = .resume 0 true (some 5) ∧
    (paused (.resume 0 true (some 5)) live).unpowered = false ∧ unpow.frameRuns = false ∧ dipped.frameRuns = false ∧ unpow.unpowered = true := by decide

/-- Job 0 is enabled and due; `busyJob` runs already; CORE0 is locked off, or its firmware has asked for OFF. -/
def dueJob : State := fields [(F.frmJobEn 0, 1), (F.frmJobPrio 0, 2)] live
def busyJob : State := dueJob.setJob 0 .running
def readyJob : State := (dueJob.setJob 0 (.ready 0 2)).setCore 0 (fun k => { k with busy := false })
def lockedJob : State := fields [(F.pwrLockLk, 2)] dueJob
def refusedJob : State := dueJob.setCore 0 (fun k => { k with halt := { k.halt with trap := true } })
/-- C0 is idle over a preempted task of priority 1. -/
def underJob : State := readyJob.setCore 0 (fun k => { k with stack := [{ live.ctxOf 0 0 with prio := 1 }] })

theorem witness_JobsAndEvents :
    live.releaseDue 63 = false ∧ dueJob.releaseDue 0 = true ∧ dueJob.domLocked 1 = false ∧ nth dueJob.frm.jobs 0 .idle = .idle ∧ dueJob.refusesJobs 0 = false ∧
    busyJob.releaseDue 0 = true ∧ nth busyJob.frm.jobs 0 .idle ≠ .idle ∧ busyJob.domLocked 1 = false ∧ busyJob.pwr.resumed = none ∧
    lockedJob.releaseDue 0 = true ∧ lockedJob.domLocked 1 = true ∧ refusedJob.releaseDue 0 = true ∧ refusedJob.refusesJobs 0 = true ∧
    refusedJob.domLocked 1 = false ∧
    (∀ n ∈ [0, 77, 96, 127], let s := fields [(F.frmEvtEn n, 1)] live
      s.bit (F.frmEvtEn n) = true ∧ s.evLocked n = false ∧ s.feat (eventFeat n) = true ∧ (nth s.frm.pend (s.evCore n) 0).getLsbD n = false) ∧
    (let s := fields [(F.frmEvtEn 127, 1)] live
     let t := { s with frm := { s.frm with pend := s.frm.pend.set 0 (1#128 <<< 127) } }
     (nth t.frm.pend (t.evCore 127) 0).getLsbD 127 = true ∧ t.canonical) ∧
    (fields [(F.frmEvtEn 0, 1), (F.pwrLockLk, 2)] live).evLocked 0 = true := by
  (repeat' apply And.intro) <;> decide

theorem witness_JobsAndEvents_start :
    live.bestReady 0 = none ∧ readyJob.bestReady 0 = some (2, true, 0) ∧ readyJob.coreTakes 0 = true ∧ (readyJob.cr 0).busy = false ∧ (readyJob.cr 0).stack = [] ∧
    (dueJob.setJob 0 (.ready 0 2)).bestReady 0 = some (2, true, 0) ∧ ((dueJob.setJob 0 (.ready 0 2)).cr 0).prio < 2 ∧
    ((dueJob.setJob 0 (.ready 0 2)).cr 0).busy = true ∧ (underJob.cr 0).stack.map (·.prio) = [1] ∧ underJob.bestReady 0 = some (2, true, 0) ∧
    (let s := fields [(F.frmEvtEn 0, 1), (F.frmEvtPrio 0, 3)] live
     let t := ({ s with frm := { s.frm with pend := s.frm.pend.set 0 1 } }).setCore 0 (fun k => { k with busy := false })
     t.bestReady 0 = some (3, false, 0) ∧ t.coreTakes 0 = true) := by
  (repeat' apply And.intro) <;> decide

theorem witness_RegisterAccesses :
    live.canonical ∧ live.storesOff = false ∧ (live.cr 0).buf = [] ∧ dipped.inDip = true ∧ haltedF.inDip = false ∧ haltedF.storesOff = true ∧
    unpow.inDip = false ∧ unpow.storesOff = true ∧
    (Regs.row? 0x40010100).any (fun r => r.fields.all (fun f => f.acc == .st) && !r.ptr && !r.fields.isEmpty) = true ∧
    0x40010100 / 0x10000 = 0x4001 ∧ absentMask live.feat 0x40010100 = 0 ∧
    regionOf 0x40060010 = .periph ∧ live.absent 0x40060010 = false ∧ jobIgnored 0x40060010 = some F.echStatPrivrej := by
  (repeat' apply And.intro) <;> decide

theorem witness_RegisterAccesses_drained : live.drained (.core 0) = (true, live) ∧ live.drained .host = (true, live) := ⟨rfl, rfl⟩

/-! ### Outputs, Press, lighting, inputs, Winnow -/

/-- Output 0 and half-bridge 0 (output 48) are on; `quietState` gives every source class N. -/
def onState : State := (live.setOut 0 (fun x => { x with st := .on })).setOut 48 (fun x => { x with st := .on })
def quietState : State := fields ((F.winCtlEven, 0) :: (upto 12).map (fun i => (F.winClassCls i, 0))) onState
/-- The committed view of the outputs. -/
def commits (l : List (Nat × Word)) (s : State) : State := { s with frm := { s.frm with committed := l.map (fun p => (p.1, ⟨Tag.nat, p.2⟩)) } }

theorem witness_OutputShutoffTrips :
    onState.driven (onState.gov 0) = true ∧ ((onState.threshold (onState.gov 0) : Nat) : Int) < 30001 ∧ (165 * 16 : Int) < 2641 ∧
    onState.driven (onState.gov 48) = true ∧ ((onState.hbThreshold 0 : Nat) : Int) < 10001 ∧
    live.driven (live.gov 47) = false ∧ live.driven (live.gov 55) = false := by
  (repeat' apply And.intro) <;> decide

/-- An edge at which a window of channel 0 ends, channel 1 may restart, channel 2 heals and the pair of channels 4 and 5 is out of balance. -/
def edgeState : State :=
  commits [(0x104, 1)] (fields [(F.swPairHp, 4), (F.swProtHeal 2, 1)]
    ((((live.setOut 0 (fun x => { x with st := .inr, window := some (0, 0) })).setOut 1 (fun x => { x with st := .wait })).setOut 2
      (fun x => { x with st := .on, heal := 16 })).setOut 4 (fun x => { x with imbalRun := 16 })))

theorem witness_ChannelStepsComplete :
    (edgeState.out 0).window = some (0, 0) ∧ edgeState.atEdge = true ∧ 0 ≤ edgeState.frm.edgeAt ∧ edgeState.groupOff (groupOf 0) = false ∧
    edgeState.restartDue 1 = true ∧ edgeState.dieWindow 1 = false ∧
    edgeState.governs 2 = true ∧ (edgeState.out 2).rep.rev = false ∧ (edgeState.prot 2).2.2 ≠ 0 ∧ 16 * (edgeState.prot 2).2.2 ≤ (edgeState.out 2).heal ∧
    edgeState.paired 5 = true ∧ 16 ≤ (edgeState.out (edgeState.gov 5)).imbalRun ∧ (edgeState.out (edgeState.gov 5)).imbal = false ∧
    (150 * 16 : Int) ≤ 150 * 16 := by
  (repeat' apply And.intro) <;> decide

/-- Where the five steps do nothing: off the edge, in dip-off, in a die window, with the edge still to come. -/
theorem witness_ChannelStepsComplete_none :
    ({ edgeState with count := 1000000 }).atEdge = false ∧ ((edgeState.setGrp 0 (fun x => { x with dipOff := true })).groupOff (groupOf 0)) = true ∧
    ((live.setOut 0 (fun x => { x with window := some (0, 5) })).out 0).window = some (0, 5) ∧ live.frm.edgeAt < 5 ∧ live.restartDue 55 = false ∧
    (live.prot 0).2.2 ≠ 0 ∧ (live.out 47).imbalRun < 16 ∧ live.paired 47 = false ∧
    ({ live with frm := { live.frm with edgeAt := 1 } }.setOut 0 (fun x => { x with window := some (0, 5) })).dieWindow 1 = true := by
  (repeat' apply And.intro) <;> decide

theorem witness_DieShedding :
    (live.dieOf 0).hot = false ∧ ((live.setDie 0 (fun x => { x with hot := true, hotSlots := 8 })).dieOf 0).hot = true ∧
    ((live.setDie 6 (fun x => { x with hot := true, hotSlots := 7 })).dieOf 6).hotSlots < 8 ∧ (170 * 16 : Int) ≤ 2720 ∧
    quietState.quiet ∧ quietState.victim 0 0 = true ∧ quietState.victim 0 1 = false := by
  (repeat' apply And.intro) <;> decide

/-- A stall run at its limit on half-bridge 0, with STACT on half-bridge 7; a check that runs on outputs 0 and 49; a reversed group. -/
def faultState : State :=
  fields [(F.swHbstallStact 7, 1)]
  ((((live.setOut 48 (fun x => { x with hb := { x.hb with stallRun := 300 } })).setOut 0 (fun x => { x with
    dg := { x.dg with chkOk := true, phaseA := some 2800 } })).setOut 49 (fun x => { x with dg := { x.dg with chkOk := true, phaseA := some 0 } })).setOut 55
    (fun x => { x with hb := { x.hb with stallRun := 300 } }))
def reversedState (g : Nat) : State := live.setGrp g (fun x => { x with reversed := true, revWait := true })

theorem witness_WireFaultSteps :
    (∀ n ∈ [0, 7], decide (max 1 (faultState.fld (F.swHbstallStn (faultState.gov (48 + n) - 48))) ≤ (faultState.out (faultState.gov (48 + n))).hb.stallRun) = true) ∧
    faultState.bit (F.swHbstallStact 0) = false ∧ faultState.bit (F.swHbstallStact 7) = true ∧ (live.out 48).hb.stallRun < 1 ∧
    (∀ o ∈ [0, 49], faultState.checkRuns o = true ∧ faultState.paired o = false) ∧ live.checkRuns 55 = false ∧
    (faultState.out 0).dg.phaseA = some 2800 ∧ (faultState.out 49).dg.phaseA = some 0 ∧ (live.out 55).dg.phaseA = none ∧
    (-1001 : Int) < -1000 ∧ (-58001 : Int) < -58000 ∧ (∀ g ∈ [0, 2], ((reversedState g).grp g).reversed = true ∧ ((reversedState g).grp g).revWait = true) ∧
    (live.grp 1).reversed = false := by
  (repeat' apply And.intro) <;> decide

/-- The stream runs on channel 0 into bank 0, which PRS, SW and the Baler's requester owns. -/
def streamState : State :=
  let s := fields [(F.swStrcfgEn, 1), (F.swStrbaseAddr, 0x10000000), (F.swStrmask0, 1), (F.grnOwnOwner 0, 2)] live
  { s with sw := { s.sw with strOn := true, smpDone := 1 } }

theorem witness_SlotSteps :
    live.canonical ∧ live.frameRuns = true ∧ live.frm.slot + 1 < live.seff ∧ live.sw.smpDone ≤ live.frm.slot ∧ live.sampleChecked [] ∧ unpow.frameRuns = false ∧
    (∀ ch, ch < 12 → (live.coil ch).pc < 511) ∧
    ({ live with frm := { live.frm with slot := live.seff - 1 } }).seff ≤ live.seff - 1 + 1 ∧ ({ live with sw := { live.sw with smpDone := 1 } }).frm.slot < 1 ∧
    streamState.canonical ∧ streamState.sw.strOn = true ∧ streamState.sw.strDrop = false ∧ streamState.bit F.swStrcfgEn = true ∧
    streamState.sw.strDone ≤ streamState.frm.slot ∧ streamState.frm.slot < streamState.sw.smpDone ∧ streamSlots streamState = [0] ∧
    inGranary (streamAddr streamState 0) = true ∧ streamState.mayUse 2 (bankOf (streamAddr streamState 0)) = true ∧
    streamState.domLocked (16 + bankOf (streamAddr streamState 0)) = false ∧ streamState.wakeFails (streamAddr streamState 0) = false ∧
    (streamState.gbank (bankOf (streamAddr streamState 0))).wait = [] ∧
    inGranary (streamAddr (fields [(F.swStrbaseAddr, 0x10400000)] streamState) 0) = false ∧
    (fields [(F.grnOwnOwner 0, 0)] streamState).mayUse 2 0 = false := by
  (repeat' apply And.intro) <;> decide

/-- Readings that the device does not check. -/
theorem witness_SlotSteps_unchecked : ((live.slotSampled [(.outI 0, -1000000)]).inverseUnchecked).isSome = true := by decide

/-- A thread of engine 0 in the given state, with the microcode word at its place. -/
def threadWith (w : Nat) (f : Coil → Coil) : State :=
  (live.mwrite (ucodeBase 0) (TWord.nat w)).setCoil 0 (fun x => f { x with st := .peak })

theorem witness_PressThreadSteps :
    (∀ st ∈ [TSt.waitg, .hold], let s := threadWith 0 (fun x => { x with st := st, slot := some 0, wait := .hold 7 })
      decide ((s.coil 0).slot = some s.frm.slot) && s.plGoverns 0 && s.pressRuns && decide ((s.coil 0).st = st) && decide ((s.coil 0).wait = .hold 7)) ∧
    (live.coil 11).slot = none ∧ live.canonical ∧ live.storesOff = false ∧ dipped.inDip = true ∧ unpow.storesOff = true ∧ unpow.inDip = false ∧
    live.atEdge = true ∧ live.plGoverns 0 = true ∧ live.pressRuns = true ∧ (live.coil 0).hend = false ∧ (live.effPl 0).on = false ∧
    (live.coil 0).pc < 511 ∧ unpow.pressRuns = false ∧
    (let s := threadWith 0 (fun x => { x with st := .hold, pc := 511 })
     (s.coil 0).st = .hold ∧ 511 ≤ (s.coil 0).pc ∧ (s.coil 0).hend = false) ∧
    live.prs.copy = [] ∧ ({ live with prs := { live.prs with copy := [(0, 0, 5)] } } : State).prs.copy ≠ [] ∧
    ((threadWith 0 (fun x => { x with det := { x.det with armed := some (60000, 10) } })).coil 0).det.armed = some (60000, 10) ∧
    (live.coil 0).det.armed = none := by
  (repeat' apply And.intro) <;> decide

theorem witness_MicrocodeStraightLine : (∀ op ∈ [0x00, 0x01, 0x02, 0x03, 0x04, 0x05, 0x06, 0x08, 0x0A, 0x0C],
    (threadWith (op * 2 ^ 19) id).ucReady 0 = some (op * 2 ^ 19) ∧ bitsN (op * 2 ^ 19) 19 5 = op ∧ bitsN (op * 2 ^ 19) 0 2 ≠ 3 ∧
    ((threadWith (op * 2 ^ 19) id).coil 0).pc < 511) ∧
    (∀ w ∈ [2 * 2 ^ 19 + 2 ^ 13 + 5, 3 * 2 ^ 19 + 1, 4 * 2 ^ 19 + 65535, 6 * 2 ^ 19 + 3], (threadWith w id).ucReady 0 = some w) ∧
    live.ucReady 11 = none := by
  (repeat' apply And.intro) <;> decide

theorem witness_MicrocodeControl :
    (∀ op ∈ [0x07, 0x09, 0x0B, 0x0D, 0x0E, 0x1F], (threadWith (op * 2 ^ 19) id).ucReady 0 = some (op * 2 ^ 19) ∧ bitsN (op * 2 ^ 19) 19 5 = op) ∧
    (threadWith (7 * 2 ^ 19) id).ucCond 0 0 ≠ none ∧ (∀ lc ∈ [1, 2], ((threadWith (9 * 2 ^ 19) (fun x => { x with lc := lc })).coil 0).lc = lc) ∧
    (∀ hend : Bool, let s := threadWith (11 * 2 ^ 19) (fun x => { x with hend := hend })
      s.ucReady 0 = some (11 * 2 ^ 19) ∧ (s.coil 0).st = .peak ∧ (s.coil 0).hend = hend) ∧
    (threadWith (11 * 2 ^ 19) (fun x => { x with st := .rel })).ucReady 0 = some (11 * 2 ^ 19) ∧
    (∀ w ∈ [UWait.until 9, .cross true 5 (some 9)],
      ((threadWith 0 (fun x => { x with wait := w })).coil 0).wait = w ∧ ((threadWith 0 (fun x => { x with wait := w })).coil 0).pc < 511) ∧
    (threadWith (6 * 2 ^ 19 + 3) id).ucReady 0 = some (6 * 2 ^ 19 + 3) ∧ bitsN (6 * 2 ^ 19 + 3) 0 2 = 3 ∧
    (threadWith (7 * 2 ^ 19 + 8 * 2 ^ 15) id).ucReady 0 = some (7 * 2 ^ 19 + 8 * 2 ^ 15) ∧ 8 ≤ bitsN (7 * 2 ^ 19 + 8 * 2 ^ 15) 15 4 ∧
    ((live.mwrite (ucodeBase 0 + 4 * 511) (TWord.nat 0)).setCoil 0 (fun x => { x with st := .peak, pc := 511 })).ucReady 0 = some 0 ∧
    live.pressRuns = true ∧ unpow.pressRuns = false ∧ live.ucReady 11 = none := by
  (repeat' apply And.intro) <;> decide

theorem witness_PressProtection :
    live.pressRuns = true ∧ unpow.pressRuns = false ∧ ((100 * live.fld (F.prsChcfgIlim (live.plGov 0)) * 2 : Nat) : Int) < 100000 ∧
    ((threadWith 0 id).coil 0).st ≠ .stop ∧ ((threadWith 0 id).coil 0).st ≠ .fault ∧ (live.coil 0).st = .stop ∧
    ((threadWith 0 (fun x => { x with st := .fault })).coil 0).st = .fault ∧
    quietState.canonical ∧ quietState.pressRuns = true ∧ (quietState.pbank 0).lock = false ∧
    ((200 * quietState.fld (F.prsBankIlim 0) : Nat) : Int) < 1000000 ∧ quietState.quiet ∧ (165 * 16 : Int) ≤ 2640 ∧
    ((quietState.setCoil 1 (fun x => { x with st := .idle })).coil 1).st ≠ .stop ∧ quietState.plGoverns 1 = true ∧
    ((live.setPbank 2 (fun x => { x with lock := true })).pbank 2).lock = true ∧
    (live.coil (live.plGov 0)).ls = false ∧ (live.coil (live.plGov 0)).fw = false ∧ (live.px 0).lock = false ∧ live.unpowered = false ∧ (9000 : Int) < 9001 := by
  (repeat' apply And.intro) <;> decide

theorem witness_RegulatorSampleSwitches :
    let s := threadWith 0 id
    s.domOn domPress = true ∧ s.frameRuns = true ∧ max s.prs.sampleJ ((s.count - s.frm.edgeAt + 299) / 300) < 2 * s.tfUs ∧
    s.plGoverns 0 = true ∧ (s.coil 0).st.regulates = true ∧ s.pbankOn 0 = true ∧ live.pbankOn 0 = false ∧ (live.coil 0).ls = false ∧
    (live.coil 0).st.regulates = false ∧ (∀ ch, ch < 12 → (s.coil ch).pc < 511) ∧ unpow.frameRuns = false ∧ State.reset.domOn domPress = false ∧
    2 * live.tfUs ≤ ({ live with prs := { live.prs with sampleJ := 2 * live.tfUs } }).prs.sampleJ := by
  (repeat' apply And.intro) <;> decide

theorem witness_LedSinkSteps :
    (live.setSink 0 (fun x => { x with lvl := 4095 })).ledDue 0 = true ∧ live.ledDue 23 = false ∧ live.domOn domLed = true ∧ (live.sink 0).ot = false ∧
    State.reset.domOn domLed = false ∧ ((live.setSink 23 (fun x => { x with ot := true })).sink 23).ot = true := by
  (repeat' apply And.intro) <;> decide

theorem witness_SwitchAndWakeInputSteps :
    let s := fields [(F.inpSwcfgWake 0, 1), (F.inpWakecfgEn, 2)] live
    s.domOn domInp = true ∧ State.reset.domOn domInp = false ∧ s.watchRuns 0 = true ∧ s.watchRuns 47 = false ∧ (s.swIn 0).frozen = false ∧ (s.swIn 0).watch ≠ true ∧
    (s.swIn 0).watch = false ∧ ((s.setSwIn 0 (fun x => { x with frozen := true })).swIn 0).frozen = true ∧
    ((s.setSwIn 0 (fun x => { x with frozen := true })).watchRuns 0) = true ∧
    (s.fld F.inpWakecfgEn).testBit 1 = true ∧ (s.fld F.inpWakecfgEn).testBit 0 = false := by
  (repeat' apply And.intro) <;> decide

theorem witness_AnalogInputSteps :
    live.domOn domInp = true ∧ State.reset.domOn domInp = false ∧ live.inp.sampled = false ∧
    ((live.setVs 0 (fun x => { x with on := true, low := 8 })).vsIn 0).on = true ∧ ((live.setVs 0 (fun x => { x with on := true, low := 8 })).vsIn 0).low = 8 ∧
    (live.vsIn 3).on = false ∧
    (let s := fields [(F.inpBchkPer, 1), (F.inpAincfgBchk 0, 1), (F.inpAincfgMode 0, 1), (F.inpAincfgMode 23, 2), (F.inpAincfgRatio 23, 4)] live
     let t := { s with inp := { s.inp with sampled := true } }.setAin 0 (fun x => { x with sample := some (-300, none, none) })
     s.fld (F.inpAincfgMode 1) = 0 ∧ s.fld (F.inpAincfgMode 23) ≠ 0 ∧ s.fld (F.inpAincfgRatio 23) ≠ 0 ∧ s.fld (F.inpAincfgRatio 0) = 0 ∧
     t.inp.sampled = true ∧ t.biasDue 0 = true ∧ t.biasDue 1 = false ∧ (t.ainIn 0).sample.isSome = true) := by
  (repeat' apply And.intro) <;> decide

theorem witness_WinnowCommands :
    live.canonical ∧ live.storesOff = false ∧ dipped.inDip = true ∧ haltedF.storesOff = true ∧ haltedF.inDip = false ∧
    quietState.canonical ∧ quietState.quiet ∧ quietState.feat 0 = true ∧ quietState.storesOff = false ∧
    (∀ b, b < 32 → (1#32).getLsbD b = true → fixedSource b = false) ∧ live.win.warnEnd = none ∧
    ({ live with win := { live.win with warnEnd := some 12000 } }).win.warnEnd = some 12000 := by
  (repeat' apply And.intro) <;> decide

theorem witness_SourceReactsByClass :
    live.canonical ∧ (∀ n ∈ [0, 191], live.feat (sourceFeat n) = true) ∧ live.sticky 0 = false ∧ (live.putSticky 0 true).sticky 0 = true ∧
    (∀ c : Fin 4, (fields [(F.winClassCls 1, c.val)] live).classOf 16 = c) ∧ ({ live with hst := { live.hst with eff := 0x3FF } }).feat (sourceFeat 64) = false := by
  (repeat' apply And.intro) <;> decide

/-! ### Core instructions -/

/-- Bytes that C0 can fetch stand at its PC, outside the Granary and reaching its datapath undisturbed. -/
def reachesSome (s : State) : Bool :=
  let n := (s.decodeHere 0).size
  s.atInstr 0 && !s.stalled 0 && (s.badByte 0 n).isNone && (s.sleepingByte 0 n).isNone
    && !(s.fetchBytes 0 n).any s.inLocked && (s.fetchWords 0 n).all (fun a => !inGranary a && s.eccAt a == .clean)
    && !((upto n).map (fun o => ((s.cr 0).pc.toNat + o) / 4 * 4)).any (fun a => (s.cr 0).dirty.contains a)
    && decide (∀ j, (h : j < 32) → (s.cr 0).ew[j] = echoBits (s.cr 0).w[j]) && (s.breakpoint 0).isNone && !(s.fetchBytes 0 15).any inGranary

/-- They spell an instruction that C0 issues, and it is as `f` says. -/
def issuesSome (f : State → NIns → Bool) (s : State) : Bool :=
  reachesSome s && s.fld F.dbgWpctlEn == 0 && !(s.cr 0).halt.stepping &&
  match s.decodeHere 0 with
  | .ins i => (!i.pre.rep || (s.cr 0).cnt != 0) && f s i
  | .ill _ => false

theorem inStep_of {s : State} (h : ∀ j, (hj : j < 32) → (s.cr 0).ew[j] = echoBits (s.cr 0).w[j]) : s.inStep 0 :=
  Vector.ext (fun j hj => by rw [Vector.getElem_map]; exact h j hj)

/-- The entry stamp changes nothing but its own fields. -/
theorem stampCore_plain (s : State) : ((s.stampCore 0).cr 0).w = (s.cr 0).w ∧ ((s.stampCore 0).cr 0).ew = (s.cr 0).ew ∧
    ((s.stampCore 0).cr 0).halt = (s.cr 0).halt ∧ ((s.stampCore 0).cr 0).cnt = (s.cr 0).cnt ∧ (s.stampCore 0).regs = s.regs := by
  unfold State.stampCore
  split
  · simp [State.cr, State.setCore, Machine.upd]
  · simp

/-- An instruction whose entry stamp is not due issues in the state it is fetched in. -/
def Runs (s : State) (i : NIns) : Prop := s.issues 0 {} i s

theorem reaches_stamped {s : State} (h : reachesSome s = true) : s.reaches 0 {} (s.decodeHere 0) (s.stampCore 0) := by
  unfold reachesSome at h
  simp only [Bool.and_eq_true, Bool.not_eq_true', Option.isNone_iff_eq_none, beq_iff_eq, List.all_eq_true, decide_eq_true_eq] at h
  obtain ⟨⟨⟨⟨⟨⟨⟨⟨⟨h1, h2⟩, h3⟩, h4⟩, h5⟩, h6⟩, h7⟩, h8⟩, h9⟩, h10⟩ := h
  have e := State.settledStream_outside h10
  have q := State.fetchChecks_clean (c := 0) _ h6
  obtain ⟨k1, k2, -, -, -⟩ := stampCore_plain s
  refine ⟨h1, h2, by rw [e], ?_, by rw [e]; exact h9, ⟨rfl, rfl, rfl⟩, ?_, ?_⟩
  · rw [e]; exact ⟨h3, h4, h5, by rw [q], h7⟩
  · unfold State.fetched; simp only [e, q]
  · unfold State.inStep; rw [k1, k2]; exact inStep_of h8

theorem issues_stamped {f : State → NIns → Bool} {s : State} (h : issuesSome f s = true) :
    ∃ i, s.issues 0 {} i (s.stampCore 0) ∧ f s i = true := by
  unfold issuesSome at h
  simp only [Bool.and_eq_true, Bool.not_eq_true', beq_iff_eq] at h
  obtain ⟨⟨⟨h1, h2⟩, h3⟩, h4⟩ := h
  have r := reaches_stamped h1
  obtain ⟨-, -, k3, k4, k5⟩ := stampCore_plain s
  split at h4
  · rename_i i hd
    rw [hd] at r
    simp only [Bool.and_eq_true, Bool.or_eq_true, Bool.not_eq_true', bne_iff_ne] at h4
    exact ⟨i, ⟨r, by unfold State.fld State.reg at *; rw [k5]; exact h2, by rw [k3]; exact h3, fun hr => by rw [k4]; simpa [hr] using h4.1⟩, h4.2⟩
  · cases h4

theorem issues_of_some {f : State → NIns → Bool} {s : State} (h : (issuesSome f s && !(s.cr 0).stampDue) = true) : ∃ i, Runs s i ∧ f s i = true := by
  simp only [Bool.and_eq_true, Bool.not_eq_true'] at h
  obtain ⟨i, h1, h2⟩ := issues_stamped h.1
  refine ⟨i, ?_, h2⟩
  unfold State.stampCore at h1
  simpa [h.2, Runs] using h1

/-- W registers of the tests: w1 NAT 5, w2 NAT 3, w3 INT −5, w4 INT 3, w5 and w6 PTR into C0's near data store, w7 CODE, w8 TIME,
w9 FLT 1.0, w10 FIX 1.0, w11 CHAN HSH0, w12 MSG 0, w13 KEY slot 0, w14 RAW, w15 NAT 0, w16 BOOL, w17 a reserved tag, w18 PTR to an unmapped word,
w19 NAT 1536. -/
def regsW : List TWord := [TWord.nil0, nat 5, nat 3, int (-5), int 3, ptr 0x01100010, ptr 0x01100020, ⟨Tag.code, 0x01000100⟩, ⟨Tag.time, 0x100⟩,
  ⟨Tag.flt, 0x3F800000⟩, ⟨Tag.fix, 0x10000⟩, ⟨Tag.chan, 0⟩, ⟨Tag.msg, 0⟩, ⟨Tag.key, 0⟩, ⟨Tag.raw, 9⟩, nat 0, ⟨Tag.bool, 1⟩, ⟨Tag.reserved, 0⟩,
  ptr 0x02000000, nat 1536]

/-- The tag of a register. -/
def tg (s : State) (r : Nat) : Tag := (s.w 0 r).tag

theorem witness_AluRegisterFormsComplete : ∀ k, k < 16 → ∃ i, Runs (coreWith [0x80 + k, 0x34, 0x08] regsW) i ∧
    (i.op == 0x80 + k && aluAccepts k Tag.nat && tg (coreWith [0x80 + k, 0x34, 0x08] regsW) i.a == Tag.nat &&
      tg (coreWith [0x80 + k, 0x34, 0x08] regsW) i.b == Tag.nat) = true :=
  fun k h => issues_of_some (f := fun _ i => i.op == 0x80 + k && aluAccepts k Tag.nat && tg (coreWith [0x80 + k, 0x34, 0x08] regsW) i.a == Tag.nat &&
    tg (coreWith [0x80 + k, 0x34, 0x08] regsW) i.b == Tag.nat) (by revert k; decide)

/-- Bytes with what their instruction is. -/
def on (b : List Nat) (f : State → NIns → Bool) : List Nat × (State → NIns → Bool) := (b, f)

/-- Bytes whose instruction issues undisturbed on these W registers and is as stated. -/
def IssueOn (w : List TWord) (l : List (List Nat × (State → NIns → Bool))) : Prop := ∀ q ∈ l, ∃ i, Runs (coreWith q.1 w) i ∧ q.2 (coreWith q.1 w) i = true

/-- On `regsW`. -/
abbrev Issue (l : List (List Nat × (State → NIns → Bool))) : Prop := IssueOn regsW l

theorem issue_of {w : List TWord} {l : List (List Nat × (State → NIns → Bool))}
    (h : (l.all fun q => issuesSome q.2 (coreWith q.1 w) && !((coreWith q.1 w).cr 0).stampDue) = true) : IssueOn w l :=
  fun q hq => issues_of_some (List.all_eq_true.mp h q hq)

theorem witness_AluImmediateFormsComplete : Issue (
    (upto 16).map (fun k => on [0xC1, 0x40 + k, 0x34, 0x00, 7, 0] (fun s i => i.op == 0xC1 && i.x == k && aluAccepts k (tg s i.a))) ++
    [on [0xC1, 0x40, 0x34, 0x01, 7, 0] (fun s i => tg s i.a == Tag.flt && i.immLen == 2),
     on [0xC1, 0x60, 0x34, 0x01, 0, 0, 0x80, 0x3F] (fun s i => tg s i.a == Tag.flt && i.immLen == 4)]) := by
  apply issue_of; decide

theorem witness_UnaryAndTimeInstructionsComplete : Issue (
    [0, 1, 4, 5, 6].map (fun k => on [0x50, 32 * k + 1] (fun s i => i.op == 0x50 && i.x == k && tg s i.d == Tag.nat)) ++
    [2, 3].map (fun k => on [0x50, 32 * k + 3] (fun s i => i.op == 0x50 && i.x == k && negTag (tg s i.d))) ++
    [on [0x91, 0x34, 0x04] (fun s i => i.op == 0x91 && tg s i.a == Tag.nat && (convert Tag.nat (BitVec.ofNat 4 i.b) 5).isSome),
     on [0x9B, 0x14, 0x21] (fun s i => i.op == 0x9B && tg s i.a == Tag.time && tg s i.b == Tag.time),
     on [0x9C, 0x14, 0x01] (fun s i => i.op == 0x9C && tg s i.a == Tag.time), on [0x9D, 0x14, 0x01] (fun s i => i.op == 0x9D && tg s i.a == Tag.time),
     on [0xA0, 0xF4, 0x0C] (fun s i => i.op == 0xA0 && tg s i.a == Tag.code && tg s i.b == Tag.int)]) := by
  apply issue_of; decide

theorem witness_IntegerArithmetic : Issue [on [0x50, 0x41] (fun s i => i.op == 0x50 && i.x == 2 && !i.pre.tagx && tg s i.d == Tag.nat),
    on [0x8D, 0x34, 0x08] (fun s i => i.op == 0x8D && tg s i.a == Tag.nat && tg s i.b == Tag.nat)] := by
  apply issue_of; decide

theorem witness_DivisionByZeroWritesNil : Issue (
    [0x83, 0x84].map (fun o => on [o, 0x34, 0x3C] (fun s i => i.op == o && tg s i.a == Tag.nat && s.w 0 i.b == nat 0)) ++
    [on [0x80, 0x14, 0x08] (fun s i => i.op == 0x80 && tg s i.a == Tag.nil), on [0x80, 0x34, 0x00] (fun s i => i.op == 0x80 && tg s i.a != Tag.nil && tg s i.b == Tag.nil)]) := by
  apply issue_of; decide

theorem witness_FltMinMax : fltIsNaN 0x7FC00001 = true ∧ fltIsNaN 0x80000000 = false ∧ fltIsNaN 0 = false := by decide

theorem witness_ControlTransfersComplete : Issue (
    [on [0x00] (fun _ i => i.op == 0x00), on [0x52, 7] (fun s i => i.op == 0x52 && tg s i.d == Tag.code), on [0x53, 5] (fun s i => i.op == 0x53 && tg s i.d == Tag.ptr),
     on [0xC5, 0x40, 0x14, 0, 8, 0] (fun _ i => i.op == 0xC5), on [0xA1, 0xF4, 0x00] (fun s i => i.op == 0xA1 && tg s i.a == Tag.code),
     on [0xC6, 0x42, 0x34, 0x80, 8, 0] (fun s i => i.op == 0xC6 && i.nf && tg s i.a != Tag.reserved)] ++
    (upto 16).map (fun k => on [0x40 + k, 4] (fun _ i => i.op == 0x40 && i.x == k && !i.pre.rep)) ++
    (upto 16).map (fun k => on [0xC4, 0x20 + k, 4, 0] (fun _ i => i.op == 0xC4 && i.x == k && !i.pre.rep))) := by
  apply issue_of; decide

/-- The state of `coreWith` in a job, with C0 in the seal mask. -/
def jobOf (s : State) (j : Bool) : State := (fields [(F.frmSealmaskMask, 1)] s).setCore 0 (fun k => { k with job := j })

theorem witness_TaskInstructionsComplete : ∀ q ∈ [(1, false), (2, false), (3, true), (3, false), (4, false), (4, true)],
    ∃ i, Runs (jobOf (coreWith [q.1] []) q.2) i ∧ (i.op == q.1 && !i.pre.rep && ((jobOf (coreWith [q.1] []) q.2).cr 0).buf.isEmpty &&
      ((jobOf (coreWith [q.1] []) q.2).cr 0).job == q.2 && decide (((jobOf (coreWith [q.1] []) q.2).cr 0).task < 64) &&
      ((jobOf (coreWith [q.1] []) q.2).bestReady 0).isNone && (((jobOf (coreWith [q.1] []) q.2).setJob 3 .idle).bestReady 0).isNone &&
      !(jobOf (coreWith [q.1] []) q.2).sealedCores.testBit 0 && ((jobOf (coreWith [q.1] []) q.2).fld F.frmSealmaskMask).testBit 0) = true :=
  fun q h => issues_of_some (f := fun s i => i.op == q.1 && !i.pre.rep && (s.cr 0).buf.isEmpty && (s.cr 0).job == q.2 && decide ((s.cr 0).task < 64) &&
    (s.bestReady 0).isNone && ((s.setJob 3 .idle).bestReady 0).isNone && !s.sealedCores.testBit 0 && (s.fld F.frmSealmaskMask).testBit 0)
    (by revert q; decide)

/-- A seal before, and at, the deadline. -/
theorem witness_TaskInstructionsComplete_seal : (coreWith [2] []).canonical ∧ (coreWith [2] []).pastDeadline = false ∧
    ((coreWith [2] []).advance (4 * (150 * 1000 - 750))).pastDeadline = true := by
  (repeat' apply And.intro) <;> decide

/-- A ready task of C0's, whose priority is above that of the context stacked under it, and one whose is not. -/
def readyOver (prio : Nat) : State :=
  ((jobOf (coreWith [4] []) false).setJob 9 (.ready 0 prio)).setCore 0 (fun k => { k with stack := [live.ctxOf 0 0x01000020] })

theorem witness_TaskInstructionsComplete_ready :
    ∀ p ∈ [0, 5], ∃ i, Runs (readyOver p) i ∧ (i.op == 4 && !i.pre.rep && ((readyOver p).cr 0).buf.isEmpty && !((readyOver p).cr 0).job &&
      (readyOver p).bestReady 0 == some (p, true, 9) && ((readyOver p).cr 0).stack.map (·.prio) == [0]) = true :=
  fun q h => issues_of_some (f := fun s i => i.op == 4 && !i.pre.rep && (s.cr 0).buf.isEmpty && !(s.cr 0).job && s.bestReady 0 == some (q, true, 9) &&
    (s.cr 0).stack.map (·.prio) == [0]) (by revert q; decide)

/-- A seal after the deadline. -/
theorem witness_TaskInstructionsComplete_late :
    ∃ i, Runs ((coreWith [2] []).advance (4 * (150 * 1000 - 750))) i ∧ (i.op == 2 && ((coreWith [2] []).advance (4 * (150 * 1000 - 750))).pastDeadline &&
      !((coreWith [2] []).advance (4 * (150 * 1000 - 750))).sealedCores.testBit 0) = true :=
  issues_of_some (f := fun s i => i.op == 2 && s.pastDeadline && !s.sealedCores.testBit 0) (by decide)

/-- C0 halts at a BRK where DBG.CTL.BRKHALT asks for it. -/
def brkHalts : State := fields [(F.dbgCtlBrkhalt 0, 1)] (coreWith [0x05] [])

theorem witness_TrapsEnter :
    Issue [on [0x51, 9] (fun _ i => i.op == 0x51 && !i.pre.rep), on [0x05] (fun s i => i.op == 0x05 && !i.pre.rep && !s.bit (F.dbgCtlBrkhalt 0))] ∧
    (∃ i, Runs brkHalts i ∧ (i.op == 0x05 && !i.pre.rep && brkHalts.bit (F.dbgCtlBrkhalt 0)) = true) ∧
    (∃ t, (coreWith [0x3F] []).reaches 0 {} (.ill 1) t) :=
  ⟨by apply issue_of; decide, issues_of_some (f := fun s i => i.op == 0x05 && !i.pre.rep && s.bit (F.dbgCtlBrkhalt 0)) (by decide),
    ⟨_, by have r := reaches_stamped (s := coreWith [0x3F] []) (by decide); rwa [show (coreWith [0x3F] []).decodeHere 0 = .ill 1 from by decide] at r⟩⟩

/-- Bank 0 is put to sleep. -/
def bankAsleep : State := live.setDom 16 (fun x => { x with st := .ret })

/-- The vectors of trap entry: in the near store, sound and with an error; in a bank of the core's that is ON, that sleeps, and that does not
wake; and at an address that is no instruction's. The stack has room, and is full. -/
theorem witness_TrapsEnter_vectors :
    (live.cr 0).stack.length < 32 ∧ ((live.setCore 0 (fun k => { k with stack := List.replicate 32 (live.ctxOf 0 0) })).cr 0).stack.length = 32 ∧
    (live.mayFetch 0 0x01000000 = true ∧ inGranary 0x01000000 = false ∧ live.eccAt 0x01000000 = .clean) ∧
    (inStore (nearI 0) 0x01000000 = true ∧ (live.setPin (.ecc 0x01000000) 3).eccAt 0x01000000 ≠ .clean) ∧
    (live.mayFetch 0 0x10000000 = true ∧ inGranary 0x10000000 = true ∧ live.domOn (16 + bankOf 0x10000000) = true ∧ (live.gbank (bankOf 0x10000000)).wait = [] ∧
      live.eccAt 0x10000000 = .clean) ∧
    (bankAsleep.mayFetch 0 0x10000000 = true ∧ bankAsleep.domOn (16 + bankOf 0x10000000) = false ∧ bankAsleep.wakeFails 0x10000000 = false) ∧
    (bankAsleep.setPin (.bankFails (bankOf 0x10000000)) 1).wakeFails 0x10000000 = true ∧
    (live.mayFetch 0 0x40000000 = false ∧ inGranary 0x40000000 = false) := by
  (repeat' apply And.intro) <;> decide

theorem witness_MovesAndSpecialRegistersComplete : Issue (
    [on [0x90, 0x34, 0x00] (fun s i => i.op == 0x90 && tg s i.a != Tag.reserved), on [0xF3, 0x90, 0x54, 0x00] (fun s i => i.pre.wide && tg s (i.a + 1) != Tag.reserved),
     on [0xC0, 0x31, 0x14, 0, 0xFF] (fun _ i => i.op == 0xC0 && i.x == 1), on [0xC0, 0x30, 0x14, 0, 9] (fun _ i => i.op == 0xC0 && i.x == 0),
     on [0xC0, 0x35, 0x14, 0, 9] (fun _ i => i.op == 0xC0 && i.x == 5), on [0xC0, 0x32, 0x14, 0, 9] (fun _ i => i.op == 0xC0 && i.x == 2),
     on [0xC7, 0x60, 0x14, 0, 4, 0, 0, 0] (fun _ i => i.op == 0xC7), on [0x54, 20] (fun _ i => i.op == 0x54), on [0x55, 20] (fun _ i => i.op == 0x55),
     on [0x93, 0x34, 0] (fun s i => i.op == 0x93 && tg s i.a != Tag.reserved), on [0x92, 0x34, 0x08] (fun s i => i.op == 0x92 && tg s i.a != Tag.reserved),
     on [0x56, 9] (fun _ i => i.op == 0x56), on [0x9F, 0x20, 0] (fun s i => i.op == 0x9F && i.d == 0 && tg s i.a == Tag.nat),
     on [0x9F, 0x21, 0] (fun s i => i.d == 1 && tg s i.a == Tag.nat && !i.pre.rep), on [0x9F, 0xA5, 0] (fun s i => i.d == 5 && tg s i.a == Tag.ptr && !(s.cr 0).job),
     on [0x9F, 0xE8, 0] (fun s i => i.d == 8 && tg s i.a == Tag.code && !(s.cr 0).job)] ++
    (upto 9).map (fun r => on [0x9E, 20 + 32 * (r % 8), r / 8] (fun _ i => i.op == 0x9E && i.a == r))) := by
  apply issue_of; decide

/-- A privileged MTS in a job, and one with a saved context. -/
theorem witness_MovesAndSpecialRegistersComplete_mts :
    (∃ i, Runs (jobOf (coreWith [0x9F, 0xA5, 0] regsW) true) i ∧ (i.d == 5 && ((jobOf (coreWith [0x9F, 0xA5, 0] regsW) true).cr 0).job) = true) ∧
    (((coreWith [0x9F, 0xE8, 0] regsW).setCore 0 (fun k => { k with stack := [live.ctxOf 0 0] })).cr 0).stack = [live.ctxOf 0 0] :=
  ⟨issues_of_some (f := fun s i => i.d == 5 && (s.cr 0).job) (by decide), by decide⟩

/-- C0 at the first instruction of an entry, whose stamp is not taken yet. -/
def dueStamp : State := (coreWith [0x54, 20] regsW).setCore 0 (fun k => { k with stampDue := true })

theorem witness_MovesAndSpecialRegistersComplete_stamp :
    (∃ i, dueStamp.issues 0 {} i (dueStamp.stampCore 0) ∧ (i.op == 0x54) = true) ∧ (dueStamp.cr 0).stampDue = true ∧
    (dueStamp.fetchBytes 0 15).any inGranary = false :=
  ⟨issues_stamped (f := fun _ i => i.op == 0x54) (by decide), by decide, by decide⟩

/-- A word lies in C0's near data store, which is ON and not locked off, and the ways to it are as `nearHome` says. -/
theorem witness_LoadsAndStoresComplete :
    Issue [on [0xC2, 0x30, 0xB4, 0, 4] (fun s i => i.op == 0xC2 && tg s i.a == Tag.ptr), on [0x94, 0xB4, 0x10] (fun s i => i.op == 0x94 && tg s i.a == Tag.ptr && tg s i.b == Tag.int),
      on [0xC3, 0x30, 0xA0, 0x08, 0] (fun s i => i.op == 0xC3 && tg s i.a == Tag.ptr && tg s i.b != Tag.reserved),
      on [0x95, 0xA1, 0x10] (fun s i => i.op == 0x95 && tg s i.a == Tag.ptr && tg s i.b == Tag.int && tg s i.d != Tag.reserved),
      on [0xF3, 0xC2, 0x30, 0xB4, 0, 0] (fun s i => i.pre.wide && i.op == 0xC2 && tg s i.a == Tag.ptr),
      on [0xC2, 0x30, 0x14, 0, 4] (fun s i => i.op == 0xC2 && tg s i.a == Tag.nil), on [0xC3, 0x30, 0x00, 0x08, 4] (fun s i => i.op == 0xC3 && tg s i.a == Tag.nil),
      on [0xC2, 0x30, 0x54, 0x02, 0] (fun s i => i.op == 0xC2 && regionOf (s.w 0 i.a).val.toNat == .unmapped),
      on [0xC2, 0x30, 0xB4, 0, 1] (fun s i => i.op == 0xC2 && tg s i.a == Tag.ptr)] ∧
    coreOn.nearHome 0 0x01100010 ∧ coreOn.eccAt 0x01100010 = .clean ∧ coreOn.eccAt 0x01100014 = .clean ∧ (coreOn.nearWord 0 0x01100010).tag ≠ Tag.reserved ∧ (coreOn.cr 0).buf.length + 2 ≤ 8 ∧
    0x01100010 % 8 = 0 ∧ regionOf 0x01100011 ≠ .unmapped ∧ regionOf 0x01100011 ≠ .periph ∧ 0x01100011 % 4 ≠ 0 ∧
    (regionOf 0x50100000).supOnly (.core 0) = true ∧ (regionOf 0x40010000).buffers = false ∧ regionOf 0x40010000 ≠ .custom :=
  ⟨by apply issue_of; decide, by (repeat' apply And.intro) <;> decide⟩

/-- W registers that name the other regions: w1 the custom region, w2 and w3 peripheral registers, w4 an offset, w5 C1's near data store. -/
def regsX : List TWord := [TWord.nil0, ptr 0x50100000, ptr 0x40000000, ptr 0x40010000, nat 4, ptr 0x01300000, ptr 0x02000000, ptr 0x01100011]

/-- The load and the store are answered, with nothing of C0's, of its watchpoints and of the recovery changed. -/
def answersLoad (s : State) (x : Nat) : Bool :=
  match s.loadAddr (.core 0) (!(s.cr 0).job) x .clean with
  | .ok v u => v.tag != Tag.reserved && decide (u.cr 0 = s.cr 0) && u.fld F.dbgWpctlEn == 0 && u.sec.rcvr == s.sec.rcvr
  | _ => false

def answersStore (s : State) (x : Nat) (v : TWord) : Bool :=
  match s.storeAddr (.core 0) (!(s.cr 0).job) x v with
  | .ok _ u => decide (u.cr 0 = s.cr 0) && u.fld F.dbgWpctlEn == 0 && u.sec.rcvr == s.sec.rcvr
  | _ => false

/-- Other regions, the traps of LDX, ST and STX, and their NIL bases. -/
theorem witness_LoadsAndStoresComplete_elsewhere :
    IssueOn regsX [on [0xC2, 0x30, 0x74, 0, 0] (fun s i => i.op == 0xC2 && answersLoad s (s.w 0 i.a).val.toNat && (s.cr 0).buf.isEmpty),
        on [0xC3, 0x30, 0x60, 0x08, 0] (fun s i => i.op == 0xC3 && !(regionOf (s.w 0 i.a).val.toNat).buffers && answersStore s (s.w 0 i.a).val.toNat (s.w 0 i.b)),
        on [0x94, 0xD4, 0x10] (fun s i => i.op == 0x94 && regionOf (addrOf (s.w 0 i.a).val (s.w 0 i.b).val.toInt) == .unmapped),
        on [0x95, 0xD4, 0x10] (fun s i => i.op == 0x95 && regionOf (addrOf (s.w 0 i.a).val (s.w 0 i.b).val.toInt) == .unmapped),
        on [0xC3, 0x30, 0xE0, 0x08, 0] (fun s i => i.op == 0xC3 && (regionOf (s.w 0 i.a).val.toNat).buffers && (s.w 0 i.a).val.toNat % 4 != 0),
        on [0x94, 0x14, 0x10] (fun s i => i.op == 0x94 && tg s i.a == Tag.nil), on [0x95, 0x14, 0x10] (fun s i => i.op == 0x95 && tg s i.a == Tag.nil)] := by
  apply issue_of; decide

theorem witness_LoadsAndStoresComplete_priv :
    ∀ q ∈ [[0xC2, 0x30, 0x34, 0, 0], [0xC3, 0x30, 0x20, 0x08, 0]], ∃ i, Runs (jobOf (coreWith q regsX) true) i ∧
      ((i.op == 0xC2 || i.op == 0xC3) && (regionOf ((jobOf (coreWith q regsX) true).w 0 i.a).val.toNat).supOnly (.core 0) && ((jobOf (coreWith q regsX) true).cr 0).job) = true :=
  fun q h => issues_of_some (f := fun s i => (i.op == 0xC2 || i.op == 0xC3) && (regionOf (s.w 0 i.a).val.toNat).supOnly (.core 0) && (s.cr 0).job) (by revert q; decide)

theorem witness_ReadModifyWritesAndBlockMovesComplete :
    Issue ([0x96, 0x97, 0x98, 0x99, 0x9A].map (fun o => on [o, 0xB4, if o = 0x99 then 0x18 else 0x08] (fun s i => i.op == o && !i.pre.rep && tg s i.a == Tag.ptr &&
      tg s i.b == (if o = 0x99 then Tag.ptr else Tag.nat) && tg s i.d != Tag.reserved && (s.cr 0).cnt == 0)) ++
      [on [0xF2, 0x96, 0xB4, 0x08] (fun s i => i.pre.atomic && (s.cr 0).buf.isEmpty)]) ∧
    ((coreOn.mwrite 0x01100010 (nat 8)).nearWord 0 0x01100010).tag = Tag.nat ∧ coreOn.eccAt 0x01100010 = .clean ∧ coreOn.canonical ∧
    ((coreOn.setCore 0 (fun k => { k with cnt := 1 })).cr 0).cnt = 1 :=
  ⟨by apply issue_of; decide, by (repeat' apply And.intro) <;> decide⟩

theorem witness_HandleInstructionsComplete :
    Issue [on [0xA2, 0xF4, 0x01] (fun s i => i.op == 0xA2 && tg s i.a == Tag.nat), on [0xA2, 0x74, 0x02] (fun s i => i.op == 0xA2 && tg s i.a == Tag.nat),
      on [0xA3, 0x74, 0x01] (fun s i => i.op == 0xA3 && tg s i.a == Tag.chan), on [0xA4, 0x74, 0x01] (fun s i => i.op == 0xA4 && tg s i.a == Tag.chan),
      on [0xA5, 0xF4, 0x01] (fun s i => i.op == 0xA5 && tg s i.a == Tag.nat), on [0xA5, 0x74, 0x02] (fun s i => i.op == 0xA5 && (s.w 0 i.a).val == 1536),
      on [0xA6, 0x94, 0x01] (fun s i => i.op == 0xA6 && tg s i.a == Tag.msg), on [0xA7, 0x74, 0x01] (fun s i => i.op == 0xA7 && tg s i.a == Tag.chan),
      on [0xA7, 0xB4, 0x01] (fun s i => i.op == 0xA7 && tg s i.a == Tag.key), on [0xA8, 0xF4, 0x01] (fun s i => i.op == 0xA8 && !(s.cr 0).job && tg s i.a == Tag.nat),
      on [0xA9, 0xB4, 0x15] (fun s i => i.op == 0xA9 && !i.pre.rep && !(s.cr 0).job && tg s i.a == Tag.key && tg s i.b == Tag.ptr && s.keyOk (s.w 0 i.a).val &&
        (s.cr 0).buf.isEmpty && !s.domLocked domSec)] ∧
    live.domOn domSec = true ∧ live.keyOk 1 = true ∧ live.keyOk 0x10000 = false ∧ live.nearHome 0 0x01100010 ∧ live.nearHome 0 0x01100024 ∧ (∀ j, j < 6 → live.eccAt (0x01100010 + 4 * j) = .clean) ∧
    (live.submit ((upto 6).map (fun j => live.mread (0x01100010 + 4 * j))) 0).2.cr 0 = live.cr 0 :=
  ⟨by apply issue_of; decide, by (repeat' apply And.intro) <;> decide⟩

/-- W registers for the handles: w1 names no channel, w2 a channel without a command word, w3 a key of an old load, w4 the key of slot 1, w5 a descriptor. -/
def regsH : List TWord := [TWord.nil0, nat 0x0A000000, ⟨Tag.chan, 0x05000000⟩, ⟨Tag.key, 0x10001⟩, ⟨Tag.key, 1⟩, ptr 0x01100010, ⟨Tag.chan, 0x0A000000⟩, nat 32,
  ⟨Tag.msg, 1536⟩]

/-- C0 at a CJOB with the key of slot 1, whose descriptor's first word is `op`, in JOB mode or not. -/
def cjobAt (op : Nat) (j : Bool) : State := (jobOf (coreWith [0xA9, 0x94, 0x14] regsH) j).mwrite 0x01100010 (nat op)

/-- What the CJOB clauses ask beside the mode: a queueable descriptor in the own store. -/
def cjobFits (s : State) (i : NIns) : Bool :=
  i.op == 0xA9 && !i.pre.rep && tg s i.a == Tag.key && tg s i.b == Tag.ptr && (s.cr 0).buf.isEmpty &&
    (upto 6).all (fun j => s.eccAt (0x01100010 + 4 * j) == .clean && (s.nearWord 0 (0x01100010 + 4 * j)).tag != Tag.reserved)

theorem witness_HandleInstructionsComplete_names : IssueOn regsH [
    on [0xA2, 0x34, 0x00] (fun s i => i.op == 0xA2 && tg s i.a == Tag.nat), on [0xA3, 0xD4, 0x00] (fun s i => i.op == 0xA3 && tg s i.a == Tag.chan),
    on [0xA4, 0x54, 0x00] (fun s i => i.op == 0xA4 && tg s i.a == Tag.chan && getBits (s.w 0 i.a).val 24 8 == 5),
    on [0xA6, 0x14, 0x01] (fun s i => i.op == 0xA6 && tg s i.a == Tag.msg && (s.w 0 i.a).val == 1536),
    on [0xA8, 0xF4, 0x00] (fun s i => i.op == 0xA8 && !(s.cr 0).job && tg s i.a == Tag.nat && (s.w 0 i.a).val == 32),
    on [0xA9, 0x74, 0x14] (fun s i => cjobFits s i && !(s.cr 0).job && !s.keyOk (s.w 0 i.a).val)] := by
  apply issue_of; decide

theorem witness_HandleInstructionsComplete_job :
    (∃ i, Runs (jobOf (coreWith [0xA8, 0xF4, 0x00] regsH) true) i ∧ (i.op == 0xA8 && ((jobOf (coreWith [0xA8, 0xF4, 0x00] regsH) true).cr 0).job) = true) ∧
    (∃ i, Runs (cjobAt 0x10 true) i ∧ (cjobFits (cjobAt 0x10 true) i && opSup 0x10 && ((cjobAt 0x10 true).cr 0).job) = true) ∧
    (∃ i, Runs (cjobAt 1 true) i ∧ (cjobFits (cjobAt 1 true) i && !opSup 1 && (cjobAt 1 true).keyOk 1) = true) ∧
    (State.reset.domOn domSec = false ∧ State.reset.domLocked domSec = false) ∧
    (let s := fields [(F.pwrLockLk, 2 ^ domSec)] live
     s.domLocked domSec = true ∧ s.lockAccess.cr 0 = s.cr 0 ∧ s.lockAccess.fld F.dbgWpctlEn = 0 ∧ s.lockAccess.sec.rcvr = s.sec.rcvr) :=
  ⟨issues_of_some (f := fun s i => i.op == 0xA8 && (s.cr 0).job) (by decide),
    issues_of_some (f := fun s i => cjobFits s i && opSup 0x10 && (s.cr 0).job) (by decide),
    issues_of_some (f := fun s i => cjobFits s i && !opSup 1 && s.keyOk 1) (by decide), by (repeat' apply And.intro) <;> decide⟩

/-- Selector 0 holds the entry of the spec's LZC example (R361): d ← leading zeros of a. -/
def lzcState : State :=
  (((coreWith [0xF7, 0x00, 0x64, 0x00] regsW).mwrite 0x50100000 (nat 0x00480023)).mwrite 0x50100004 (nat 0x1006)).mwrite 0x50101000 (nat 0x808F0000)
    |>.mwrite 0x50101004 (nat 0xC00F0000)

theorem witness_CustomInstructionsComplete :
    (∃ i, Runs lzcState i ∧ (i.op == 0xF7 && i.x == 0 && !i.pre.rep && (lzcState.cr 0).buf.isEmpty && !(lzcState.cr 0).dirtyCustom &&
      tg lzcState i.a == Tag.int && (lzcState.customWord 0 1).getLsbD (tg lzcState i.a).toNat) = true) ∧
    ({ a := 1, b := 2, imm := 0, mem := false, code := fun n => if n = 0 then 0x00890000 else 0xC00F0000, load := fun _ => 0, own := fun _ => false,
       codeBad := fun _ => false, loadBad := fun _ => false } : MEnv).code 0 = 0x00890000 ∧
    lzcState.entryBad 0 = none ∧
    live.canonical ∧ live.inDip = false ∧ live.storesOff = false ∧ (live.cr 0).buf = [] ∧ live.atInstr 0 = true ∧ State.reset.atInstr 0 = false ∧
    (live.reg 0x50100100).getLsbD 0 = false ∧ ((live.setReg 0x50100100 1).reg 0x50100100).getLsbD 0 = true ∧
    dipped.inDip = true ∧ (haltedF.inDip = false ∧ haltedF.storesOff = true) := by
  refine ⟨issues_of_some (f := fun s i => i.op == 0xF7 && i.x == 0 && !i.pre.rep && (s.cr 0).buf.isEmpty && !(s.cr 0).dirtyCustom &&
    tg s i.a == Tag.int && (s.customWord 0 1).getLsbD (tg s i.a).toNat) (by decide), ?_⟩
  (repeat' apply And.intro) <;> decide

/-! ### Debug, Granary, power, CAN, LIN -/

/-- A core changed; the queue of buffered stores of C0; a domain changed. -/
def coreOf (c : Fin 2) (f : Core → Core) : State := live.setCore c f
def domOf' (d : Nat) (x : Dom) : State := live.setDom d (fun _ => x)

theorem witness_CoreControlSteps :
    live.inDip = false ∧ live.canonical ∧ live.linkWrites = true ∧ live.domainsWake = true ∧
    ((coreOf 1 (fun k => { k with halt := { k.halt with echo := true } })).cr 1).halt.echo = true ∧ live.bit (F.dbgCtlHalt 1) = false ∧
    (∀ n, n < 6 → nth (live.cn n).locks 1 none = none) ∧ (∀ j : Fin 2, (live.cr j).halt.echo = false) ∧
    (live.cr 0).halt.dbg = false ∧ ((coreOf 0 (fun k => { k with halt := { k.halt with dbg := true } })).cr 0).halt.dbg = true ∧
    (let s := (coreOf 0 (fun k => { k with busy := false })).setDom 1 (fun x => { x with down := some .off })
     (nth s.pwr.dom 1 {}).down = some .off ∧ s.coreIdle 0 = true ∧ s.coreRuns 0 = true ∧ (s.cr 0).buf = [] ∧ (nth s.pwr.dom 1 {}).st = .on) ∧
    (nth (domOf' 3 { st := .ret, waking := true }).pwr.dom 3 {}).waking = true ∧ live.win.fhalt = false ∧ live.prs.copy = [] ∧
    ((coreOf 0 (fun k => { k with halt := { k.halt with trap := true } })).cr 0).halt.trap = true ∧
    (nth (domOf' 2 { st := .off, waking := true }).pwr.dom 2 {}).st = .off ∧ (∀ l, l < 5 → live.pin (.lane 1 l) = 0) ∧
    (1#32).getLsbD 0 = true ∧ (1#32).getLsbD 1 = false ∧ live.storesOff = false ∧ (live.cr 1).buf = [] ∧ dipped.inDip = true ∧
    (haltedF.inDip = false ∧ haltedF.storesOff = true) ∧ haltedF.linkWrites = false ∧ dipped.domainsWake = false ∧ live.clocksRun = true ∧
    dipped.clocksRun = false ∧ (nth live.pwr.dom 1 {}).down = none ∧ (live.cr 0).halt.trap = false ∧
    (fields [(F.dbgCtlHalt 1, 1)] (coreOf 1 (fun k => { k with halt := { k.halt with dbg := true } }))).bit (F.dbgCtlHalt 1) = true ∧
    nth (live.setJob 9 (.waking 1 5)).frm.jobs 9 .idle = .waking 1 5 := by
  (repeat' apply And.intro) <;> decide

theorem witness_LinkOperationsComplete :
    live.bit F.dbgStatLocked = false ∧ live.clocksRun = true ∧ inStore (nearD 0) 0x01100000 = true ∧ live.domLocked 1 = false ∧ live.domOn 1 = true ∧
    (domOf' 1 { st := .off }).domOn 1 = false ∧ regionOf 0x02000000 = .unmapped ∧ regionOf 0x01100001 ≠ .periph ∧ 0x01100001 % 4 ≠ 0 ∧
    live.win.fhalt = false ∧ live.eccAt 0x01100000 = .clean ∧ readOnly 0x01100000 = false ∧ readOnly 0x400800B4 = false ∧ live.marked 0 = false ∧ live.halted 0 = false ∧
    (coreOf 0 (fun k => { k with halt := { k.halt with dbg := true } })).halted 0 = true ∧
    (fields [(F.dbgStatLocked, 1)] live).bit F.dbgStatLocked = true ∧ dipped.bit F.dbgStatLocked = false ∧ dipped.clocksRun = false ∧ live.canonical ∧
    readOnly 0x40080020 = true ∧ haltedF.win.fhalt = true ∧ (live.setPin (.ecc 0x01100000) 3).eccAt 0x01100000 ≠ .clean ∧
    (fields [(F.echSgrnC0, 1)] live).marked 0 = true ∧ (4#16 : BitVec 16) ≠ 0 := by
  (repeat' apply And.intro) <;> decide

/-- Loads of other regions; a corrected word of the Granary is delivered. -/
theorem witness_LinkOperationsComplete_loads : (∃ v u, live.loadAddr .link true 0x01200000 .clean = .ok v u) ∧ (∃ v u, live.loadAddr .link true 0x10000000 .single = .ok v u) :=
  ⟨⟨_, _, rfl⟩, ⟨_, _, rfl⟩⟩

theorem witness_LinkOperationsComplete_debug : (∃ v u, live.loadPeriph .link 0x40130000 = .ok v u) ∧ (∃ r u, live.storePeriph .link false 0x40130008 (nat 0) = .ok r u) ∧
    readOnly 0x40130008 = false := ⟨⟨_, _, rfl⟩, ⟨_, _, rfl⟩, by decide⟩

theorem witness_GranaryAccesses :
    dipped.inDip = true ∧ (live.cr 0).buf = [] ∧ (haltedF.inDip = false ∧ haltedF.storesOff = true) ∧ live.storesOff = false ∧
    (domOf' 31 { st := .off }).domOn 31 = false ∧ (fields [(F.pwrLockLk, 2 ^ 31)] live).domLocked 31 = true ∧ live.mayUse 3 15 = false ∧
    live.eccOf .single (grnAddr 15 65535) = .single ∧ live.eccOf .double (grnAddr 15 65535) = .double ∧
    ((live.setGbank 15 (fun x => { x with fix := [7] })).gbank 15).fix = [7] ∧
    ((live.setGbank 15 (fun x => { x with wait := [{ who := 0, word := 7 }] })).gbank 15).wait.any (fun g => gaccUses g (laneOf 7)) = true ∧
    (coreOf 0 (fun k => { k with buf := [{ a := 0x103FFFFC, v := nat 1 }] })).bufferedTo 0 15 = true ∧ live.owner 15 ≠ Master.who (.core 1) ∧
    live.canonical ∧ live.inDip = false ∧ ((coreOf 0 (fun k => { k with buf := [{ a := 0x01100000, v := nat 1 }] })).cr 0).buf = [{ a := 0x01100000, v := nat 1 }] ∧
    (coreOf 0 (fun k => { k with buf := [{ a := 0x01100000, v := nat 1 }] })).nearHome 0 0x01100000 ∧ inGranary 0x10000000 = true ∧ inGranary 0x103FFFFC = true ∧
    live.domOn (16 + bankOf 0x103FFFFC) = true ∧ live.domLocked (16 + bankOf 0x103FFFFC) = false ∧
    (∀ o, o < 8 → (fields [(F.grnOwnOwner 15, o)] live).mayUse 0 15 = decide (o = 0)) ∧
    laneOf 65535 = 7 ∧ (live.gbank 15).wait = [] ∧ (live.cr 0).buf = [] ∧ live.grnPend 15 = false ∧ live.win.fhalt = false ∧
    live.eccOf .clean (grnAddr 15 65535) = .clean ∧ live.bufferedTo 0 15 = false ∧ live.owner 15 = 0 ∧
    (let x := { live.gbank 15 with wait := [{ who := 3, word := 7 }, { who := 2, word := 7, pair := true }] }
     (∀ q ∈ x.wait, q.who < 9) ∧ (∀ k, k < 9 → nth x.last k 8 < 9) ∧ (x.next 7).isSome = true) ∧
    ((fields [(F.grnOwnOwner 15, 2)] (live.setGbank 15 (fun x => { x with wait := [{ who := 2, word := 0 }] }))).grnPend 15) = true := by
  (repeat' apply And.intro) <;> decide

theorem witness_GranaryBankSteps :
    live.canonical ∧ live.domLocked 31 = false ∧ (domOf' 31 { st := .off }).domOn 31 = false ∧ live.inDip = false ∧ live.win.pathBad = false ∧
    live.domOn 31 = true ∧ live.fld F.grnScrubIntv ≠ 0 ∧ (nth (domOf' 31 { st := .ret, waking := true }).pwr.dom 31 {}).waking = true ∧
    live.someStall 31 = false ∧ (nth live.pwr.dom 31 {}).waking = false ∧ live.win.fhalt = false ∧
    (live.gbank 15).scrub < 65536 ∧ (live.gbank 15).wait = [] ∧ live.eccAt (grnAddr 15 0) = .clean ∧ live.laneErrors 15 7 = [] ∧
    ((live.setGbank 15 (fun x => { x with down := some .off, copy := some (7, false) })).gbank 15).down = some .off ∧
    ((live.setGbank 15 (fun x => { x with copy := some (7, false) })).gbank 15).copy = some (7, false) ∧
    dipped.inDip = true ∧ (haltedF.inDip = false ∧ haltedF.storesOff = true) ∧ live.storesOff = false ∧ (1#32).toNat % 4 = 1 ∧ (2#32).toNat % 4 = 2 ∧
    (fields [(F.pwrLockLk, 2 ^ 31)] live).domLocked 31 = true ∧ (live.gbank 15).down = none ∧ (live.gbank 15).copy = none ∧
    ((live.setGbank 15 (fun x => { x with copy := some (7, true) })).gbank 15).copy = some (7, true) ∧ (fields [(F.grnScrubIntv, 0)] live).fld F.grnScrubIntv = 0 ∧
    ((live.setGbank 15 (fun x => { x with wait := [{ who := 0, word := 7 }] })).gbank 15).wait ≠ [] ∧ live.mayUse 0 15 = true := by
  (repeat' apply And.intro) <;> decide

theorem witness_SupplyAndDipSteps :
    live.canonical ∧ live.inDip = false ∧ (paused (.dip 0) live).pwr.pause = .dip 0 ∧ (paused (.dip 0) live).inDip = true ∧ (paused (.dip 0) live).unpowered = false ∧
    (nth (domOf' 3 { st := .ret, before := .on }).pwr.dom 3 {}).before = .on ∧
    (∀ d, d < 32 → (nth live.pwr.dom d {}).waking = false) ∧
    (62000 < (62001 : Int) ∧ (62001 : Int) ≤ 80000 ∧ 80000 < (80001 : Int) ∧ (4499 : Int) < 4500) ∧ dipped.pwr.stalled = [] ∧
    (dipped.stall .nclr).pwr.stalled ≠ [] ∧ unpow.unpowered = true := by
  (repeat' apply And.intro) <;> decide

theorem witness_PowerOnResets :
    live.inDip = false ∧ dipped.inDip = true ∧ haltedF.win.fhalt = true ∧ live.win.fhalt = false ∧ (2999 : Int) < 3000 ∧ (4999 : Int) < 5000 := by decide

theorem witness_ClockAndWakeSteps :
    live.canonical ∧ (paused (.parkWait 0) live).pwr.pause = .parkWait 0 ∧
    (let s := paused (.parked 0) ((fields [(F.pwrWsrcEn, 0x7F)] live).setCan 0 (fun x => { x with wake := #v[9, 0, 0x1FFFFFFF, 0, 0] }))
     s.pwr.pause = .parked 0 ∧ s.levelWakes = 0 ∧ (s.fld F.pwrWsrcEn).testBit 2 = true ∧ s.wakeMode 0 = true ∧ getBits (s.wakeWord 0 0) 1 2 = 0 ∧
     s.isWakeFrame 0 { len := 1, data := [0] } = true ∧ s.isWakeFrame 0 { len := 2, data := [0, 0] } = false) ∧
    (let s := paused (.resume 0 true none) live
     s.pwr.pause = .resume 0 true none ∧ s.unpowered = false ∧ s.tim.st ≠ 2 ∧ -2 ^ 63 ≤ s.offset + 1000 * 0 ∧ s.offset + 1000 * 0 < 2 ^ 63) ∧
    ({ paused (.resume 0 true none) live with tim := { live.tim with st := 2 } }).tim.st = 2 ∧
    (fields [(F.pwrAontCount, 1)] live).fld F.pwrAontCount ≠ 0 ∧ live.pwr.aonStop = false ∧ live.fld F.pwrAontCount = 0 ∧
    ({ live with pwr := { live.pwr with aonStop := true } }).pwr.aonStop = true ∧ live.pwr.pause = .run := by
  (repeat' apply And.intro) <;> decide

/-- CAN 5 in a run state; object 255 of it is enabled to receive identifier 1, object 254 to send identifier 2. -/
def canState (f : Can → Can) : State :=
  (fields [(F.canObjcfgEn 5 255, 1), (F.canObjcfgId 5 255, 1), (F.canObjcfgEn 5 254, 1), (F.canObjcfgDir 5 254, 1), (F.canObjcfgId 5 254, 2),
    (F.canAfidEn 5 7, 1), (F.canAfidId 5 7, 3), (F.canAfmskMask 5 7, 0x1FFFFFFF)] live).setCan 5 f

theorem witness_CanObjectSteps :
    (canState id).canonical ∧ AMap.wf (fun _ => ({} : CanObj)) ((canState id).cn 5).objs = true ∧ ((canState id).cn 5).run = .stopped ∧ live.storesOff = false ∧ (paused (.dip 0) live).storesOff = true ∧
    ((canState id).cn 5).estate = 0 ∧ ((canState (fun x => { x with run := .on })).cn 5).run ≠ .stopped ∧
    ((canState (fun x => { x with run := .integrating })).cn 5).run = .integrating ∧ live.domOn 9 = true ∧ live.domLocked 9 = false ∧
    (domOf' 9 { st := .off }).domOn 9 = false ∧ (canState id).bit (F.canObjcfgEn 5 255) = true ∧ (canState id).fld (F.canObjcfgDir 5 255) = 0 ∧
    ((canState id).cn 5).lockedBy 255 0 = false ∧ nth ((canState id).cn 5).locks 0 none = none ∧
    (canState id).fld (F.canObjcfgDir 5 254) = 1 ∧
    (∀ l ∈ [(⟨255, 1, 3, false, []⟩ : CanLock), ⟨255, 2, 3, false, []⟩, ⟨254, 2, 3, true, [0]⟩],
      let s := canState (fun x => { x with locks := x.locks.set 0 (some l) })
      nth (s.cn 5).locks (masterNum (.core 0)) none = some l ∧ (s.cn 5).lockedBy l.obj 0 = false) ∧
    ((canState (fun x => { x with locks := x.locks.set 1 (some ⟨255, 1, 3, false, []⟩) })).cn 5).lockedBy 255 0 = true ∧
    (((canState id).cn 5).obj 255).shadow = none ∧ (canState id).bit (F.canObjcfgEn 5 0) = false ∧
    ((canState (fun x => { x with run := .stopping })).cn 5).run = .stopping ∧ ((canState (fun x => { x with run := .stopping, estate := 2 })).cn 5).estate = 2 ∧
    (fields [(F.pwrLockLk, 2 ^ 9)] live).domLocked 9 = true ∧ dipped.inDip = true ∧ (haltedF.inDip = false ∧ haltedF.storesOff = true) := by
  (repeat' apply And.intro) <;> decide

/-- A frame to send. -/
def sending : Can → Can := fun x => { x with run := .on, tx := some (.obj 254, { id := 2, len := 0 }) }
/-- Object 254 is pending. -/
def waiting : Can → Can := fun x => { x with run := .on, objs := [(254, { msg := some { id := 2, len := 0 }, pend := true })] }

theorem witness_CanTrafficSteps :
    (canState waiting).canonical ∧ AMap.wf (fun _ => ({} : CanObj)) ((canState waiting).cn 5).objs = true ∧ (canState waiting).canRunning 5 = true ∧
    (canState waiting).fld (F.canCtlMode 5) = 0 ∧ ((canState waiting).cn 5).winner = some (.obj 254, { id := 2, len := 0 }) ∧
    ((canState sending).cn 5).newer = false ∧ (canState sending).canEvo 5 254 = false ∧ ((canState sending).cn 5).tec + 8 + 8 * 14 < 128 ∧
    ((canState (fun x => { sending x with tec := 248 })).cn 5).tec = 248 ∧
    ((canState (fun x => { x with run := .on, estate := 2, recovering := true })).cn 5).estate = 2 ∧
    msgValid { id := 1, len := 0 } = true ∧ 5 ≠ (canState (fun x => { x with run := .on })).nmPort ∧ live.domOn 9 = true ∧
    msgValid { id := 1, len := 0, fdf := true } = true ∧ (fields [(F.canCtlPex 5, 1)] live).bit (F.canCtlPex 5) = true ∧
    ((canState (fun x => { x with run := .on, nm := some { id := 1 } })).cn 5).winner = some (.nm, { id := 1 }) ∧
    (((canState id).cn 5).run ≠ .on ∧ ((canState id).cn 5).winner = none) ∧ (domOf' 9 { st := .off }).canRunning 5 = false ∧
    ((canState (fun x => { x with run := .on, tx := some (.nm, { id := 1 }), newer := true })).cn 5).newer = true ∧
    ((canState (fun x => { x with run := .on, tx := some (.permit, { id := 1 }) })).cn 5).tx = some (.permit, { id := 1 }) ∧
    (fields [(F.canCtlMode 5, 3)] live).fld (F.canCtlMode 5) = 3 ∧ dipped.inDip = true ∧ (haltedF.inDip = false ∧ haltedF.storesOff = true) ∧
    (∀ g ∈ [(248 : Nat), 255], g ≤ 255 ∧ 255 < g + 8) := by
  (repeat' apply And.intro) <;> decide

/-- NM runs on controller 0, which receives: the ends of its range, and a frame that passes its checks. -/
def nmState : State := (fields [(F.nmCfgEn, 1)] live).setCan 0 (fun x => { x with run := .on })

theorem witness_CanTrafficSteps_nm :
    let s := nmState
    let base := s.nmCfg F.nmCfgBase
    s.canonical ∧ AMap.wf (fun _ => ({} : CanObj)) (s.cn 0).objs = true ∧ s.nmPort = 0 ∧ s.canRunning 0 = true ∧ s.fld (F.canCtlMode 0) = 0 ∧ s.bit F.nmCfgEn = true ∧
    (∀ q ∈ [base, base + 63, base + 64], s.canObjectFor 0 { id := q } = none ∧ s.canFilter 0 { id := q } = false) ∧
    (∃ i, i < 2 ∧ i ≠ s.nmCfg F.nmCfgNode ∧ msgValid { id := base + i, len := 8, data := [i, 16, 0, 0, 0, 0, 0, 0] } = true ∧
      ([i, 16, 0, 0, 0, 0, 0, 0].getD 1 0) / 16 % 16 = 1) := by
  (repeat' apply And.intro) <;> decide

/-- The three ways of a frame that CAN 5 receives: an object, the queue, nowhere. -/
theorem witness_CanTrafficSteps_received :
    let s := canState (fun x => { x with run := .on })
    s.canObjectFor 5 { id := 1 } = some 255 ∧ s.storesOff = false ∧ (s.cn 5).locked 255 = false ∧ s.canEvo 5 255 = false ∧
    s.canObjectFor 5 { id := 3 } = none ∧ s.canFilter 5 { id := 3 } = true ∧ s.canObjectFor 5 { id := 4 } = none ∧ s.canFilter 5 { id := 4 } = false ∧
    ((canState (fun x => { x with queue := [{}] })).cn 5).queue ≠ [] ∧ ((canState (fun x => { x with queue := List.replicate 64 {} })).cn 5).queue.length = 64 := by
  decide

/-- LIN 3 is enabled as a responder; identifier 63 receives and identifier 1 sends. -/
def linState (f : Lin → Lin) : State :=
  (fields [(F.linCfgEn 3, 1), (F.linBcfgDir 3 63, 1), (F.linBcfgLen 3 63, 1), (F.linBcfgDir 3 1, 2), (F.linEvenCause 3, 0), (F.linWcfgEn 3, 0)] live).setLin 3 f

theorem witness_LinAndNmSteps :
    (linState id).canonical ∧ (linState id).linActive 3 = true ∧ (linState id).fld (F.linEvenCause 3) = 0 ∧ (linState id).fld (F.linWcfgEn 3) = 0 ∧
    (fields [(F.linCfgRole 3, 1)] (linState id)).fld (F.linCfgRole 3) = 1 ∧ (linState id).linBusy 3 = false ∧ ((linState id).ln 3).busDom = false ∧ (linState id).storesOff = false ∧
    (fields [(F.linCfgRole 3, 0)] (linState id)).fld (F.linCfgRole 3) = 0 ∧ 86 * live.fld (F.linCfgRate 3) ≤ 100 * live.fld (F.linCfgRate 3) ∧
    (linState (fun x => { x with cur := some 63 })).linDir 3 63 = 1 ∧ (linState id).linLen 3 63 = 1 ∧ (linState id).linDir 3 1 = 2 ∧
    (linState (fun x => { x with cur := some 63 })).linBusy 3 = true ∧ 150 ≤ 5000 ∧
    ((linState (fun x => { x with busDom := true })).ln 3).busDom = true ∧
    (let s := fields [(F.linCfgRole 3, 1)] (linState (fun x => { x with hdrEnd := 10 ^ 6, hdrId := 5 }))
     s.linHeading 3 = true ∧ s.linBusy 3 = true ∧ (s.ln 3).busDom = false) ∧ (linState id).linHeading 3 = false ∧
    (linState (fun x => { x with cur := some 1, first := some [7] })).linDir 3 1 = 2 ∧ live.linActive 3 = false ∧
    (dipped.inDip = true ∧ dipped.linActive 3 = false) ∧ (haltedF.inDip = false ∧ haltedF.storesOff = true) ∧
    (let s := { nmState with nm := { nmState.nm with call := true } }
     s.nm.call = true ∧ s.nm.callGts = false ∧ s.bit F.nmCfgEn = true) ∧ live.nm.call = false ∧ live.bit F.nmCfgEn = false := by
  (repeat' apply And.intro) <;> decide

/-! ### Links and time, the Baler, access, the host port, security, Silo and Gleaner -/

/-- Both links are up; frame `f` waits in class 0 of port 0. -/
def ethState (f : List EthQ) : State :=
  let s := fields [(F.ethPcfgEn 0, 1), (F.ethPcfgEn 1, 1), (F.ethEvenLink, 0)] live
  { s with eth := { s.eth with port := (s.eth.port.set 0 { link := true, q := (Vector.replicate 4 []).set 0 f }).set 1 { link := true } } }

/-- A frame of 14 bytes from MAC 2 to MAC 4. -/
def frame14 : List Nat := [0, 0, 0, 0, 0, 4, 0, 0, 0, 0, 0, 2, 0x12, 0x34]

theorem witness_EthernetAndTimeSteps :
    live.canonical ∧ (ethState []).bit (F.ethPcfgEn 0) = true ∧ live.domOn 11 = true ∧ ((ethState []).eport 0).link = true ∧
    (fields [(F.ethPcfgEn 0, 0)] live).bit (F.ethPcfgEn 0) = false ∧ (ethState []).fld F.ethEvenLink = 0 ∧
    (let s := ethState [{ bytes := frame14, inPort := 2, inAt := 0 }]
     nth (s.eport 0).q 0 [] = [{ bytes := frame14, inPort := 2, inAt := 0 }] ∧ (∀ k ∈ [1, 2, 3], nth (s.eport 0).q k [] = []) ∧ frType frame14 ≠ 0x88F7) ∧
    (let f : Foreign := ⟨1, [], 0, 0, 0, 0⟩
     let s := { fields [(F.timCfgSrc, 1)] (ethState []) with ptp := { live.ptp with parent := some f, residences := [⟨0, 0, 0, 0, 0⟩] } }
     s.ptp.parent = some f ∧ s.timSrc = 1 ∧ s.ethLive f.port = true ∧ s.domOn 12 = true ∧ s.ptp.residences = [⟨0, 0, 0, 0, 0⟩]) ∧
    (fields [(F.timCfgSrc, 2)] live).timSrc = 2 ∧ (fields [(F.timCfgSrc, 0)] live).timSrc = 0 ∧ live.domOn 12 = true ∧ (fields [(F.timPpsOuten, 1)] live).bit F.timPpsOuten = true ∧
    ({ live with tim := { live.tim with ppsEnd := some 5, alarm := some 7, pps := some (0, 0) } }).tim.alarm = some 7 ∧
    (live.eport 0).link = false ∧ (domOf' 11 { st := .off }).domOn 11 = false ∧ (∀ c ∈ [0, 1, 2, 3], nth ((ethState []).eport 0).q c [] = []) ∧ live.bal.frags = [] ∧
    live.ptp.residences = [] ∧ live.ptp.parent = none ∧ live.tim.pps = none ∧ live.tim.ppsEnd = none ∧ live.tim.alarm = none ∧ (domOf' 12 { st := .off }).domOn 12 = false ∧
    (dipped.inDip = true ∧ dipped.storesOff = true) ∧ (haltedF.inDip = false ∧ haltedF.storesOff = true) ∧ live.storesOff = false ∧ live.bit F.timPpsInpol = false := by
  (repeat' apply And.intro) <;> decide

/-- The Baler runs with its ring in bank 0, which its requester owns. -/
def balState : State := fields [(F.balCfgEn, 1), (F.balCfgRingen, 1), (F.balCfgTx, 0), (F.balRingAddr, 0x10000000)] ((upto 4).foldl (fun s b => fields [(F.grnOwnOwner b, 2)] s) live)

theorem witness_BalerSteps :
    balState.canonical ∧ balState.balRuns = true ∧ balState.bal.built = false ∧ balState.bit F.balCfgRingen = true ∧ balState.ringOk = true ∧
    balState.bit F.balCfgTx = false ∧ balState.mayUse 2 (bankOf (balState.ringSlot 0)) = true ∧ balState.domLocked (16 + bankOf (balState.ringSlot 0)) = false ∧
    balState.wakeFails (balState.ringSlot 0) = false ∧ (balState.gbank (bankOf (balState.ringSlot 0))).wait = [] ∧ balState.eccAt (balState.ringSlot 0) = .clean ∧
    (balState.mread (balState.ringSlot 0)).val.toNat % 65536 ≠ 0xBA1E ∧
    (fields [(F.balCfgRingen, 0)] balState).bit F.balCfgRingen = false ∧ (fields [(F.balRingAddr, 0)] balState).ringOk = false ∧
    ({ balState with bal := { balState.bal with reqs := [(1, 2, 3)] } }).bal.reqs = [(1, 2, 3)] ∧ balState.bal.served < 16 ∧ live.balRuns = false ∧ live.bal.reqs = [] ∧
    ({ balState with bal := { balState.bal with built := true } }).bal.built = true ∧ (balState.gbank (bankOf (balState.ringSlot 3))).wait = [] ∧
    (∀ j, j < 1024 → balState.eccAt (balState.ringSlot 3 + 4 * j) = .clean) := by
  (repeat' apply And.intro) <;> decide

/-- The access block runs and scans with one aerial; key slot 0 holds a key of zeros that the token list and the permits name; token 7 is entry 31. -/
def accState (f : AccSearch → AccSearch) : State :=
  let s := fields [(F.accCfgEn, 1), (F.accEvenCause, 0), (F.accTcfgEn 31, 1), (F.accTokTid 31, 7), (F.accKeysTks, 0), (F.accKeysPks, 0), (F.accPolicyMask, 1)]
    ((commits [(0xF00, 1), (0xF04, 0x10001)] live).loadKey 0 1 15 (List.replicate 16 0))
  s.setAcc (fun x => { x with srch := f x.srch })

theorem witness_TokenSearchSteps :
    (let s := accState id
     s.accRuns = true ∧ s.scanRun = true ∧ s.lfen ≠ 0 ∧ s.win.safe = false ∧ s.sec.trngf = false ∧ s.count ≤ s.frm.edgeAt + 2 * ticksPerUs ∧
     s.frm.frame.toNat % s.scanPer = 0 ∧ s.acc.srch.phase = 0 ∧ s.acc.srch.retry = false ∧ s.tokenEntry 7 = some 31 ∧ (s.tokenKey 7).isSome = true ∧
     s.fld F.accEvenCause = 0) ∧
    live.accRuns = false ∧ (accState (fun x => { x with phase := 1, woke := true, lfen := 1 })).acc.srch.phase = 1 ∧
    (accState (fun x => { x with phase := 1, lfen := 1 })).acc.srch.lfen.testBit 0 = true ∧ live.acc.short.testBit 0 = false ∧
    (let s := accState (fun x => { x with phase := 2 })
     s.acc.srch.phase = 2 ∧ s.acc.srch.seen.testBit (s.irqSlot 0) = false ∧ s.acc.srch.cand = [] ∧ s.acc.srch.coll = 0) ∧
    (accState (fun x => { x with phase := 2, coll := 1 })).acc.srch.coll ≠ 0 ∧
    (accState (fun x => { x with phase := 3, cand := [{}] })).acc.srch.cand = [{}] ∧ packetOk [] 0x23 31 = false := by
  (repeat' apply And.intro) <;> decide

/-- The access block in a state in which no source has a reaction beside its sticky bit. -/
def accQuiet (f : AccSearch → AccSearch) : State := fields ((F.winCtlEven, 0) :: (upto 12).map (fun i => (F.winClassCls i, 0))) (accState f)

theorem witness_TokenSearchSteps_stops :
    (let s := accState (fun x => { x with retry := true, due := true, coll := 1 })
     s.acc.srch.retry = true ∧ s.acc.srch.due = true ∧ s.scanRun = true ∧ s.lfen ≠ 0 ∧ s.win.safe = false ∧ s.sec.trngf = false ∧ s.count ≤ s.frm.edgeAt + 2 * ticksPerUs) ∧
    (accState id).acc.srch.retry = false ∧ ((accState id).advance 2000).frm.edgeAt + 2 * ticksPerUs < ((accState id).advance 2000).count ∧
    ((accQuiet (fun x => { x with phase := 1, lfen := 1 })).canonical ∧ (accQuiet (fun x => { x with phase := 1, lfen := 1 })).quiet) ∧
    (let s := accQuiet (fun x => { x with phase := 2, far := [{ tid := 7 }] })
     s.canonical ∧ s.quiet ∧ s.acc.srch.far = [{ tid := 7 }] ∧ 0 < s.nslot) ∧
    (let s := accQuiet (fun x => { x with phase := 3, cand := [{ tid := 7 }] })
     s.canonical ∧ s.quiet ∧ s.accRuns = true ∧ s.acc.srch.grant = none) ∧
    (accState id).acc.short.testBit 0 = false ∧ ({ live with acc := { live.acc with short := 1 } }).acc.short.testBit 0 = true ∧
    ((1 : Nat).testBit 0 = true ∧ 4 * live.pin (.lfPeak 0) < 100 * live.fld F.accLfcfgIpk) ∧
    (0 < live.nslot) ∧ (accState (fun x => { x with phase := 2, tries := 4, coll := 1 })).acc.srch.tries = 4 ∧
    (accState (fun x => { x with phase := 3, cand := [{}], grant := some ({}, 1) })).acc.srch.grant.isSome = true ∧
    (let s := (accState (fun x => { x with phase := 3, cand := [{}] })).advance (20001 * ticksPerUs)
     s.acc.srch.authAt + 20000 * ticksPerUs < s.count) := by
  (repeat' apply And.intro) <;> decide

/-- A reply of token 0 that is sound and comes where it is due; one that comes outside RWIN, and one after the window; a packet of another kind; a
reply in a slot that is not its token's. -/
theorem witness_TokenSearchSteps_reply :
    let s := accState (fun x => { x with phase := 2 })
    let late := ticksPerUs * s.fld F.accRlyRdly
    let most : Int := (s.fld F.accRlyRwin * 250 : Nat) * 2 ^ 40
    let reply := withCrc16 (0x21 :: List.replicate 27 0)
    packetOk reply 0x21 30 = true ∧ s.irqSlot late = 0 ∧ s.slotOf 0 = 0 ∧ |s.replyDelay late 0| ≤ most ∧ late < s.replyWindow ∧ s.acc.srch.far = [] ∧
    (¬ |s.replyDelay (late + 600 * 100) 0| ≤ most ∧ s.irqSlot (late + 600 * 100) = 0 ∧ late + 600 * 100 < s.replyWindow) ∧ s.replyWindow ≤ s.replyWindow ∧
    (packetKnown (withCrc16 (0x12 :: List.replicate 12 0)) = true ∧ packetOk (withCrc16 (0x12 :: List.replicate 12 0)) 0x21 30 = false) ∧ packetKnown [] = false ∧
    s.slotOf 1 ≠ 0 ∧ (accState (fun x => { x with phase := 2, seen := 1 })).acc.srch.seen.testBit 0 = true ∧
    (accState (fun x => { x with phase := 2, seen := 1, coll := 1 })).acc.srch.coll.testBit 0 = true := by
  (repeat' apply And.intro) <;> decide

/-- A candidate that proves its key, and a memory packet of it whose MAC is right and which grants policy bit 0. -/
theorem witness_TokenSearchSteps_authentication :
    let zeros := List.replicate 8 0
    let k := aes (List.replicate 16 0) (tidBytes 7 ++ List.replicate 12 0)
    let ks := aes k (zeros ++ zeros)
    let ct := aesCtr ks (List.replicate 16 0) 128 (7 :: 0 :: 0 :: 0 :: 1 :: List.replicate 11 0)
    let packet := withCrc16 (0x23 :: tidBytes 7 ++ ct ++ (cmac ks (tidBytes 7 ++ ct)).take 8)
    (accState id).tokenKey 7 = some k ∧ ((aes k (zeros ++ tidBytes 7 ++ List.replicate 4 0)).take 8).length = 8 ∧
    packetOk packet 0x23 31 = true ∧ leAt packet 1 4 = 7 ∧ (cmac ks (tidBytes 7 ++ sub packet 5 16)).take 8 = sub packet 21 8 ∧
    leAt (aesCtr ks (List.replicate 16 0) 128 (sub packet 5 16)) 0 4 = 7 ∧
    (aesCtr ks (List.replicate 16 0) 128 (sub packet 5 16)).getD 4 0 &&& (accState id).fld F.accPolicyMask ≠ 0 := by decide +kernel

theorem witness_ReleaseAndPermitSteps :
    (let k := aes (List.replicate 16 0) (tidBytes 7 ++ List.replicate 12 0)
     let head := [0x31, 7, 0, 0, 0, 1, 0, 0, 0, 1]
     let packet := withCrc16 (head ++ (cmac k (head.drop 1)).take 4)
     packetOk packet 0x31 16 = true ∧ leAt packet 1 4 = 7 ∧ (accState id).tokenKey 7 = some k ∧ (cmac k (sub packet 1 9)).take 4 = sub packet 10 4 ∧
     1 ≤ (leAt packet 5 4 + 2 ^ 32 - (accState id).fld (F.accTcntCnt 31)) % 2 ^ 32) ∧
    (let s := { fields [(F.accPmtEn, 1)] (accState id) with acc := { (accState id).acc with permit := some ⟨7, 1, 600000, 0⟩, rel := some (0, 1, 0) } }
     s.acc.permit = some ⟨7, 1, 600000, 0⟩ ∧ s.bit F.accPmtEn = true ∧ s.acc.spent = false ∧ (s.cn (min 5 (s.fld F.accPmtPort))).permit = none ∧
     ((s.advance 0).permitFrame ⟨7, 1, 600000, 0⟩ 1).isSome = true ∧ (s.permitFrame ⟨7, 1, 600000, 0⟩ 2).isSome = true ∧ s.allow = false ∧
     s.acc.rel = some (0, 1, 0) ∧ s.atEdge = true ∧ 0 ≤ s.frm.frame.toNat) ∧
    (accState id).canonical ∧ (accState id).accRuns = true ∧ (accState id).acc.srch.phase ≠ 2 ∧ (accState id).tokenEntry 8 = none ∧
    live.bit F.accCfgEn = false ∧ (accState id).bit F.accCfgEn = true ∧ dipped.inDip = true ∧ (haltedF.inDip = false ∧ haltedF.storesOff = true) ∧
    live.storesOff = false ∧ live.acc.rel = none ∧ live.acc.permit = none ∧
    (let s := { fields [(F.accPmtEn, 1)] (accQuiet id) with acc := { (accQuiet id).acc with permit := some ⟨7, 1, 600000, 0⟩, spent := true } }
     s.canonical ∧ s.quiet ∧ s.acc.spent = true) ∧
    (let s := { fields [(F.accPmtEn, 1)] (accQuiet id) with acc := { (accQuiet id).acc with permit := some ⟨7, 1, 600000, 0⟩, seq := 0xFFFFFFFE } }
     s.canonical ∧ s.quiet ∧ 0xFFFFFFFF ≤ s.acc.seq + 1 ∧ ((s.advance 0).permitFrame ⟨7, 1, 600000, 0⟩ 1).isSome = true) ∧
    (let s := fields [(F.accPmtEn, 1), (F.accKeysPks, 5)] (accQuiet id)
     s.key128 (s.fld F.accKeysPks) = none ∧ s.canonical ∧ s.quiet) ∧
    (fields [(F.accPmtEn, 0)] live).bit F.accPmtEn = false ∧ (600000 : Nat) ≤ 600000 :=
  ⟨by decide +kernel, by (repeat' apply And.intro) <;> decide⟩

/-- The counter of a button: far ahead, and behind; one that waits for its successor. -/
theorem witness_ReleaseAndPermitSteps_buttons :
    let s := accState id
    (∀ c ∈ [257, 65536], 257 ≤ (c + 2 ^ 32 - s.fld (F.accTcntCnt 31)) % 2 ^ 32 ∧ (c + 2 ^ 32 - s.fld (F.accTcntCnt 31)) % 2 ^ 32 ≤ 65536) ∧
    (∀ c ∈ [0, 65537], (c + 2 ^ 32 - s.fld (F.accTcntCnt 31)) % 2 ^ 32 = 0 ∨ 65536 < (c + 2 ^ 32 - s.fld (F.accTcntCnt 31)) % 2 ^ 32) ∧ nth s.acc.pend 31 none = none ∧
    nth (s.setAcc (fun x => { x with pend := updN x.pend 31 (fun _ => some (400, 1, 0)) })).acc.pend 31 none = some (400, 1, 0) ∧ s.count ≤ 0 + 1200000000 ∧
    s.fld F.accEvenCause = 0 ∧ (accQuiet id).quiet := by
  (repeat' apply And.intro) <;> decide

/-- A request of the image protocol: type and body. -/
def request (type : Nat) (body : List Nat) : List Nat := [0x48, 0x4D, 1, type] ++ leOf 2 (16 + body.length) ++ leOf 2 9 ++ List.replicate 8 0 ++ body

theorem witness_HostRequestsComplete :
    live.canonical ∧ live.spiLive = true ∧ (∀ k, k < 6 → ∃ b, b.length = msgLen b ∧ 16 ≤ b.length ∧ messageKind b = k) ∧ live.hst.resp = none ∧
    (∃ r t, live.hostMessage false (request 5 []) = .ok (r, t)) ∧ live.bit F.hstCfgAuthreq = false ∧ badHeader (request 5 []) = false ∧
    badHeader (request 5 [] ++ [0]) = true ∧ (requestOf (request 7 [])).fits = false ∧ (requestOf (request 5 [])).auth = false ∧
    (fields [(F.ethCfgEn, 1), (F.ethIpaddrAddr, 1)] live).endpoint = true ∧ live.win.fhalt = false ∧ live.hostReach 0x40010100 = true ∧
    writable 0x4011000C = true ∧ live.hostReach 0x4011000C = true ∧ ((fields [(F.hstWmaskBlk, 0x20000)] live).fld F.hstWmaskBlk).testBit (wmaskBit 0x4011000C) = true ∧ stageable 0x40010100 = true ∧ regionOf 0x40010100 = .periph ∧ live.past 20 = false ∧ live.txnHeld < 8 ∧
    (∃ v u, live.hostLoad 0x40010100 = .ok (v, u)) ∧ (∃ u, live.hostStore 0x4011000C 0 = .ok u) := by
  refine ⟨by (repeat' apply And.intro) <;> decide, by decide, ?_, by decide, ⟨_, _, rfl⟩, by decide, by decide, by decide, by decide, by decide, by decide, by decide,
    by decide, by decide, by decide, by decide, by decide, by decide, by decide, by decide, ⟨_, _, rfl⟩, ⟨_, rfl⟩⟩
  intro k hk
  have h : k = 0 ∨ k = 1 ∨ k = 2 ∨ k = 3 ∨ k = 4 ∨ k = 5 := by omega
  rcases h with rfl | rfl | rfl | rfl | rfl | rfl
  · exact ⟨request 7 [], by decide⟩
  · exact ⟨request 1 [0, 1, 1, 0x40, 1, 0, 0, 0], by decide⟩
  · exact ⟨request 2 [], by decide⟩
  · exact ⟨request 3 (List.replicate 8 0), by decide⟩
  · exact ⟨request 4 [], by decide⟩
  · exact ⟨request 5 [], by decide⟩

/-- The body of a READ, and of a TXN for an edge with one write. -/
def readBody (a n : Nat) : List Nat := leOf 4 a ++ leOf 2 n ++ [0, 0]
def txnBody (edge flags : Nat) (l : List (Nat × Nat)) : List Nat := leOf 6 edge ++ [flags, 0] ++ l.flatMap (fun p => leOf 4 p.1 ++ leOf 4 p.2)

/-- Eight held transactions; authentication demanded of the Host SPI. -/
def heldEight : State := { live with frm := { live.frm with held := List.replicate 8 (.txn [] false 5 0) } }
def authState : State := (fields [(F.hstCfgAuthreq, 1), (F.hstCfgSpiauth, 1), (F.hstCfgAkey, 0)] live).loadKey 0 1 15 (List.replicate 16 0)

theorem witness_HostRequestsComplete_cases :
    dipped.inDip = true ∧ haltedF.spiLive = true ∧ live.hst.resp = none ∧ (live.setHst (fun x => { x with resp := some (List.replicate 99 0) })).hst.resp = some (List.replicate 99 0) ∧
    (live.fld F.hstEvenCause = 0 ∨ (fields [(F.hstEvenCause, 0)] live).fld F.hstEvenCause = 0) ∧
    (∀ q ∈ [request 1 (readBody 0x40110100 1), request 2 (leOf 4 0x40110100 ++ [0, 0, 0, 0]), request 3 (txnBody 0 0 [(0x40010100, 0)]), request 4 []],
      badHeader q = false ∧ (requestOf q).fits = true ∧ messageKind q = (requestOf q).type) ∧
    ((requestOf (request 3 [0])).fits = false ∧ (requestOf (request 3 [0])).type = 3) ∧
    live.hostReach 0x02000000 = false ∧ ((fields [(F.hstWmaskBlk, 0)] live).fld F.hstWmaskBlk).testBit (wmaskBit 0x4011000C) = false ∧ (fields [(F.hstWmaskBlk, 0)] live).entryStatus stageable 0x40010100 = 4 ∧
    (fields [(F.hstWmaskBlk, 2 ^ 32 - 1)] live).entryStatus stageable 0x40010100 = 0 ∧ heldEight.txnHeld = 8 ∧ live.txnHeld = 0 ∧ live.schedule = 1 ∧
    (∃ e, e ≠ 0 ∧ e < { live with frm := { live.frm with frame := 9 } }.schedule) ∧ live.frm.frame.toNat + 65536 < 70000 ∧
    (∃ ws t, live.hostLoads [0x40110100, 0x40110104] = .ok (ws, t)) ∧
    (∃ n t, (fields [(F.hstWmaskBlk, 0x20000)] live).hostWrites [(0x4011000C, 0)] 0 = .ok (0, n, t) ∧ n < 65536) ∧
    (fields [(F.hstStatNegd, 1)] live).bit F.hstStatNegd = true ∧ live.bit F.frmCfgHostout = false := by
  refine ⟨by decide, by decide, rfl, rfl, by decide, by decide, by decide, by decide, by decide, by decide, by decide, by decide, by decide, by decide,
    ⟨8, by decide, by decide⟩, by decide, ⟨_, _, rfl⟩, ⟨_, _, rfl, by decide⟩, by decide, by decide⟩

/-- A sound MAC, and one that is not; a request that needs one and has none. -/
theorem witness_HostRequestsComplete_authentication :
    let head := [0x48, 0x4D, 1, 5, 24, 0, 9, 0, 0, 1, 0, 0, 7, 0, 0, 0]
    let m := head ++ (cmac (List.replicate 16 0) head).take 8
    badHeader m = false ∧ (requestOf m).auth = true ∧ (requestOf m).fits = true ∧ authState.feat 46 = true ∧
    authState.hostMac (m.take (m.length - 8)) = some (m.drop (m.length - 8)) ∧ authState.fld F.hstActrCtr < (requestOf m).ctr ∧
    authState.hostMac head ≠ some (List.replicate 8 0) ∧ authState.bit F.hstCfgAuthreq = true ∧ authState.bit F.hstCfgSpiauth = true ∧ (requestOf (request 5 [])).exempt = false ∧
    Memory.wf authState.mem = true ∧ Registers.wf authState.regs = true := by decide +kernel

theorem witness_SwitchAndHostPortSteps :
    (let s := ethState []
     s.ethLive 0 = true ∧ s.ethLive 1 = true ∧ frame14.length = 14 ∧ s.internal (beAt frame14 0 6) = false ∧ macGroup (beAt frame14 0 6) = false ∧
     macGroup (beAt frame14 6 6) = false ∧ beAt frame14 0 6 ≠ beAt frame14 6 6 ∧ s.qRoom 1 frame14 = true ∧ s.eth.macs.length < 1024 ∧
     s.learned (beAt frame14 0 6) = none ∧ ({ s with eth := { s.eth with macs := [(4, 1, 0)] } }).learned (beAt frame14 0 6) = some 1) ∧
    live.ethLive 0 = false ∧ live.canonical ∧ live.spiLive = true ∧ spiIdle [0x48] = false ∧ live.hst.resp = none ∧
    ({ live with hst := { live.hst with resp := some [1, 2] } }).hst.resp = some [1, 2] ∧ live.frameRuns = true ∧ live.win.fhalt = false ∧
    live.bit F.hstStatNegd = false ∧ dipped.inDip = true ∧ ((domOf' 13 { st := .off }).spiLive = false ∨ unpow.spiLive = false) ∧ unpow.inDip = false ∧ spiIdle [0xFF] = true ∧
    (fields [(F.hstStatNegd, 1)] live).bit F.hstStatNegd = true ∧ live.past 20 = false ∧ (live.advance (4 * (150 * 1000 - 3000))).past 20 = true ∧
    (let f := List.replicate 6 0xFF ++ [0, 0, 0, 0, 0, 2, 0x12, 0x34]
     f.length = 14 ∧ live.internal (beAt f 0 6) = true ∧ frType f ≠ 0x88F7 ∧ frType f ≠ 0x0800 ∧ frType f ≠ 0x0806) ∧
    macGroup (beAt frame14 0 6) = false := by
  (repeat' apply And.intro) <;> decide

/-- A job of the queue on bank 0, which SEC owns; slot 0 holds a key for every use. -/
def jobState (x : CJob) : State :=
  let s := (fields [(F.grnOwnOwner 0, 4)] live).loadKey 0 1 15 (List.replicate 16 0)
  { s with sec := { s.sec with job := s.sec.job.set 15 (some x) } }

theorem witness_CryptoJobsComplete :
    (∀ op ∈ [0x01, 0x02, 0x03, 0x04, 0x05, 0x06, 0x07, 0x08, 0x09, 0x0A], let x : CJob := { op := op, src := 0x10000000, dst := 0x10000100, len := 16, aux := 0x10000200, arg := 4 }
      (jobState x).cjob 15 = some x ∧ x.ran = none ∧ (jobState x).mayStart x = true ∧ (jobState x).domOn domSec = true) ∧
    (∀ u ∈ [0, 1, 2], (jobState {}).keyStatus 0 u = 0) ∧ (jobState {}).keyStatus 1 0 = 2 ∧ (jobState {}).canonical ∧ (jobState {}).sec.trngf = false ∧
    (∀ j, j < 4 → inGranary (0x10000000 + 4 * j) = true ∧ (jobState {}).mayUse 4 (bankOf (0x10000000 + 4 * j)) = true ∧
      (jobState {}).domOn (16 + bankOf (0x10000000 + 4 * j)) = true ∧ (jobState {}).domLocked (16 + bankOf (0x10000000 + 4 * j)) = false ∧
      ((jobState {}).gbank (bankOf (0x10000000 + 4 * j))).wait = [] ∧ (jobState {}).eccAt (0x10000000 + 4 * j) = .clean) ∧
    inGranary 0 = false := by
  (repeat' apply And.intro) <;> decide

/-- Jobs that do not run, and why. -/
theorem witness_CryptoJobsComplete_stops :
    (jobState {}).cjob 0 = none ∧ (jobState { ran := some 0 }).cjob 15 = some { ran := some 0 } ∧ (jobState { fits := false }).cjob 15 = some { fits := false } ∧
    ((jobState {}).setDom domSec (fun x => { x with st := .off })).domOn domSec = false ∧ ((jobState {}).mayStart {} = true) ∧
    ({ jobState {} with sec := { (jobState {}).sec with trngf := true } }).sec.trngf = true ∧
    (let a : CJob := { op := 6, order := 1 }
     let s := jobState { op := 6, order := 0 }
     let t : State := { s with sec := { s.sec with job := s.sec.job.set 0 (some a) } }
     (upto 4).all (fun k => ({ t with sec := { t.sec with job := (upto k).foldl (fun l i => l.set! (1 + i) (some { op := 6, order := 0 })) t.sec.job } }).mayStart a == decide (k < 3)) = true) ∧
    (jobState {}).mayUse 4 (bankOf 0x10040000) = false ∧ ((jobState {}).gbank (bankOf 0x10040000)).wait = [] ∧ (jobState {}).bit (F.secKattrLoaded 0) = true ∧
    (jobState {}).bit (F.secKattrLoaded 1) = false ∧ (jobState {}).slotKey 0 = List.replicate 16 0 ∧ (0x10000200 + 12 ≤ 0x10000300) := by
  (repeat' apply And.intro) <;> decide

/-- A text of GCM with its tag lies where the job reads it. -/
theorem witness_CryptoJobsComplete_gcm :
    let key := List.replicate 16 0
    let text := [0x03, 0x88, 0xDA, 0xCE]
    let b := text ++ gcmTag key (List.replicate 12 0) [] text
    let s := putCode 0x10000000 b (jobState { op := 3, src := 0x10000000, dst := 0x10000100, len := 4, aux := 0x10000200 })
    s.bytesAt 0x10000000 20 = b ∧ (s.bytesAt 0x10000200 12).take 12 = List.replicate 12 0 ∧
    gcmTag key ((s.bytesAt 0x10000200 12).take 12) ((s.bytesAt 0x10000200 12).drop 12) ((s.bytesAt 0x10000000 20).take 4) = (s.bytesAt 0x10000000 20).drop 4 := by
  decide +kernel

theorem witness_KeyFlashAndQueueSteps_more :
    ((jobState { op := 0x31, arg := 2 }).setDom 2 (fun x => { x with st := .off })).hloadWaits 1 0 0 = some 2 ∧ (jobState {}).hloadWaits 1 0 0 = none ∧
    usesFlash 0x20 = true ∧ usesFlash 0x10 = false ∧ (jobState {}).cjob 0 = none ∧ ({ live with sec := { live.sec with rcvr := true } }).sec.rcvr = true ∧
    ((jobState {}).setDom domXspi (fun x => { x with st := .off })).domOn domXspi = false ∧ dipped.inDip = true ∧ (haltedF.inDip = false ∧ haltedF.storesOff = true) ∧
    (live.setDom domSec (fun x => { x with st := .off })).domOn domSec = false ∧ (fields [(F.secJstDone 15, 1)] live).bit (F.secJstDone 15) = true ∧
    (jobState { fits := false }).bit (F.secJstDone 15) = false ∧ (255 : Nat) ≠ 256 := by
  (repeat' apply And.intro) <;> decide

/-- A blob of KWRAP under slot 31 that unwraps with its attributes alone. -/
theorem witness_KeyFlashAndQueueSteps_unwrap :
    let key := List.replicate 32 0
    let iv := List.replicate 12 0
    let ct := gcmText key iv (List.replicate 32 5)
    let b := iv ++ ct ++ gcmTag key iv [9] ct
    gcmTag key (b.take 12) [9] (sub b 12 32) = b.drop 44 ∧ gcmTag key (b.take 12) [8] (sub b 12 32) ≠ b.drop 44 := by decide +kernel

theorem witness_KeyFlashAndQueueSteps :
    (∀ op ∈ [0x10, 0x11, 0x12, 0x13, 0x20, 0x21, 0x22, 0x30, 0x31, 0x32], let x : CJob := { op := op, src := 0x10000000, dst := 0x10000100, len := 256, arg := if op = 0x10 then 1 else 0 }
      (jobState x).cjob 15 = some x ∧ (jobState x).mayStart x = true ∧ (jobState x).domOn domSec = true ∧ (jobState x).domOn domXspi = true) ∧
    AMap.wf (fun _ => 0xFF) (jobState {}).sec.flash = true ∧ (jobState {}).bit (F.secKattrLoaded 31) = false ∧
    ((jobState {}).loadKey 31 2 8 []).bit (F.secKattrLoaded 31) = true ∧ (jobState {}).imageCheck 0 ≠ 0 ∧ live.coreHasWork 0 = true ∧
    (coreOf 0 (fun k => { k with busy := false })).coreHasWork 0 = false ∧ imgHitless ((jobState {}).slotHeader 0) = true ∧
    (jobState { ran := some 0 }).cjob 15 = some { ran := some 0 } ∧ (jobState {}).bit (F.secJstDone 15) = false ∧ live.domOn domSec = true ∧ live.storesOff = false := by
  (repeat' apply And.intro) <;> decide

/-- A slot with the fields of an image of no payload: LEN 0 and a digest. -/
def digestIn (digest : List Nat) : State :=
  let at_ := slotBase 1
  { live with sec := { live.sec with flash := (upto 4).map (fun k => (at_ + 0x0C + k, 0)) ++ (upto 32).map (fun k => (at_ + 0x20 + k, digest.getD k 0)) } }

/-- The digest of an empty payload is sound, and another one is not. -/
theorem witness_BootAndRecoverySteps_digest : (digestIn (sha256 [])).digestOk 1 = true ∧ (digestIn []).digestOk 1 = false := by decide +kernel

/-- A header without segments passes its checks where its key is programmed. -/
theorem witness_BootAndRecoverySteps_header :
    let s := [38, 39, 40, 41].foldl (fun t r => t.setGen r 0 { start := true, done := true }) live
    let h := leOf 4 0xB0A71640 ++ leOf 2 1 ++ leOf 2 0x9640 ++ List.replicate 0xF4 0
    s.headerCheck (h ++ leOf 4 (crc32 h)) = 0 := by decide +kernel

theorem witness_BootAndRecoverySteps :
    live.canonical ∧ live.sec.rom = true ∧ live.win.startOk = true ∧ live.win.fhalt = false ∧ live.inDip = false ∧ live.win.pathBad = false ∧
    live.sec.rcvr = false ∧ ({ live with sec := { live.sec with rom := false } }).sec.rom = false ∧ dipped.inDip = true ∧ (haltedF.inDip = false ∧ haltedF.storesOff = true) ∧
    ({ live with win := { live.win with startOk := false } }).win.startOk = false ∧ live.sec.hold[0] = none ∧ (2#32).getLsbD 0 = false ∧ (2#32).getLsbD 1 = true ∧
    (let s : State := { live with sec := { live.sec with rcvr := true, verified := some 1, buf := List.replicate 3 (0, 0) } }
     s.sec.rcvr = true ∧ s.sec.verified = some 1 ∧ s.sec.buf.length < 1024 ∧ s.storesOff = false) ∧
    ({ live with sec := { live.sec with fails := 8 } }).sec.fails = 8 ∧ ({ live with sec := { live.sec with fails := 7 } }).sec.fails = 7 ∧
    ({ live with sec := { live.sec with hold := live.sec.hold.set 1 (some { done := true }) } }).sec.hold[1] = some { done := true } ∧
    ({ live with sec := { live.sec with rcvr := true } }).sec.buf = [] ∧ live.sec.fails < 8 ∧ live.storesOff = false ∧ live.dbgMode = 0 ∧
    ({ live with sil := { live.sil with shadow := [(36, 1)] } }).dbgMode = 1 := by
  (repeat' apply And.intro) <;> decide

/-- PREC names record 32 of the blank Silo, and an operation runs. -/
theorem witness_SiloOperations :
    live.canonical ∧ dipped.inDip = true ∧ (haltedF.inDip = false ∧ haltedF.storesOff = true) ∧ quietState.quiet ∧ quietState.feat (sourceFeat 177) = true ∧
    (live.setGen 64 0 { start := true }).blankGen 64 = some 1 ∧ (live.setGen 64 0 { start := true }).blankGen 65 = some 0 ∧ ((upto 4).foldl (fun s g => s.setGen 64 g { start := true, done := true }) live).blankGen 64 = none ∧
    live.storesOff = false ∧ live.sil.op = none ∧ live.fld F.silPrecRec = 64 ∧ (live.siloGen 64 3).blank = true ∧
    (∀ r ∈ [31, 37, 52, 63], (fields [(F.silPrecRec, r)] live).fld F.silPrecRec = r) ∧
    (let full := (upto 4).foldl (fun s g => s.setGen 64 g { start := true, done := true }) live
     ∀ g, g < 4 → (full.siloGen 64 g).blank = false) ∧
    (fields [(F.secArbCount, 128)] live).fld F.secArbCount = 128 ∧ (fields [(F.secArbImgarb, 1)] live).fld F.secArbCount < 1 ∧
    live.blankGen 64 = some 0 ∧ AMap.wf (fun _ => ({} : SilGen)) live.sil.gens = true ∧ AMap.wf (fun _ => 0) live.sil.shadow = true ∧
    (∀ o ∈ [SilOp.prog 64 9, .arbstep, .wear [64 * 54]], ({ live with sil := { live.sil with op := some o } }).sil.op = some o) ∧
    (∀ k, 54 ≤ k → k ≤ 60 → live.shadow k = live.siloData k) := by
  refine ⟨by (repeat' apply And.intro) <;> decide, by decide, by (repeat' apply And.intro) <;> decide, by (repeat' apply And.intro) <;> decide, by decide, by decide, by decide, by decide, by decide, by decide, by decide, by decide, by decide, by decide, by decide, by decide, by decide, by decide, by decide, by decide, ?_⟩
  intro k h1 h2
  have h : k = 54 ∨ k = 55 ∨ k = 56 ∨ k = 57 ∨ k = 58 ∨ k = 59 ∨ k = 60 := by omega
  rcases h with rfl | rfl | rfl | rfl | rfl | rfl | rfl <;> decide

theorem witness_GleanerCommands :
    live.canonical ∧ live.win.fhalt = false ∧ (live.fld F.glnCtlEn).testBit 1 = true ∧ nth (live.gbank 15).rate 8 0 < live.fld F.glnLanecfgLth ∧
    live.fld F.glnLanecfgLth ≤ nth ((live.setGbank 15 (fun x => { x with rate := updN x.rate 7 (fun _ => 16) })).gbank 15).rate 7 0 ∧
    live.fld (F.grnLaneSpfor 15) = 15 ∧ live.bit (F.grnLaneSpfail 15) = false ∧ (live.gbank 15).copy = none ∧
    (fields [(F.grnLaneSpfor 15, 0)] live).fld (F.grnLaneSpfor 15) ≠ 15 ∧ dipped.inDip = true ∧ (haltedF.inDip = false ∧ haltedF.storesOff = true) ∧
    (fields [(F.glnCtlEn, 0)] live).fld F.glnCtlEn = 0 ∧ (fields [(F.grnLaneSpfail 15, 1)] live).bit (F.grnLaneSpfail 15) = true ∧
    live.fld F.glnLanecfgLth ≤ nth ((live.setGbank 15 (fun x => { x with rate := updN x.rate 8 (fun _ => 16) })).gbank 15).rate 8 0 ∧
    ((live.setGbank 15 (fun x => { x with copy := some (7, false) })).gbank 15).copy = some (7, false) ∧ quietState.quiet ∧ quietState.feat (sourceFeat 20) = true := by
  (repeat' apply And.intro) <;> decide

-- R257: RSTn leaves a sticky bit as it is; any other cause of a power-on reset clears it (R262).
theorem test_rstn_keeps_sticky : ((live.putSticky 180 true).afterReset 5 true 0).sticky 180 = true ∧
    ((live.putSticky 180 true).afterReset 4 true 0).sticky 180 = false := by decide +kernel

/-! ### Well-formedness -/

/-- Sensors that the device does not have, one for each bound. -/
def noSensors : List Sensor := [.outI 56, .outV 56, .outTj 56, .ron 48, .segDrift 48 0, .segDrift 0 5, .segDrift 8 4, .die 7, .vbat 3, .swLand 48, .wakeLand 2,
  .ain 24, .vsMv 4, .vsMa 4, .plI 12, .plV 12, .plTj 12, .plClp 12, .plUj 12, .pbI 3, .pbTj 3, .pxI 4, .pxTj 4, .pxUj 4, .ledTj 24, .canBusy 6, .canSwap 6, .sqi 2,
  .gpio 16, .lfPeak 6, .phase 5, .lane 2 0, .lane 0 5, .laneIdle 2]

/-- Messages that CAN does not allow, one for each check. -/
def noMessages : List CanMsg := [{ id := 2 ^ 11 }, { id := 2 ^ 29, xtd := true }, { len := 9, data := List.replicate 9 0 }, { fdf := true, len := 13, data := List.replicate 13 0 },
  { brs := true }, { esi := true }, { fdf := true, rtr := true }, { len := 2, data := [0] }, { len := 1, rtr := true, data := [0] }, { len := 1, data := [256] }, { more := 1 }]

/-- Every check of `Instr.wf` refuses a command: one for each check, with the sensors and messages above. -/
theorem test_wf_refuses : (([.registerWrite .host false (2 ^ 32) TWord.nil0, .mrd (2 ^ 32) .clean true, .mwr (2 ^ 32) TWord.nil0 false true true,
    .rrd 0 256 true, .rwr 0 256 TWord.nil0 true true, .laneGrant 0 0 [{ who := 9, word := 0 }] .clean, .laneGrant 0 0 [{ who := 0, word := 65536 }] .clean,
    .linResponseReceived 0 [256] 0 false, .linResponseReceived 0 [] 256 false, .ethFrameReceived 0 [256] true, .tokenReply 0 [256], .memReceived [256],
    .buttonPacket [256], .urawAccess none 256, .spiShortFrame [256], .classFEnd 130 { ecc := [(128, .clean)] }, .powerUp { seen := [(.die 7, 0)] },
    .lowSupply 0 { ecc := [(128, .clean)] }, .longDip { ecc := [(128, .clean)] }, .holdUpEmpty 0 { ecc := [(128, .clean)] }, .brownOut { ecc := [(128, .clean)] },
    .resetLand 0 { ecc := [(128, .clean)] }] ++
    (noSensors.map (fun x => Instr.frameEdge [(x, 0)])) ++ (noMessages.map (fun m => Instr.canFrameReceived 0 m false)) ++
    [.slotBoundary [(.die 7, 0)], .slotSample [(.die 7, 0)], .regulatorSample [(.die 7, 0)], .ainSample [(.die 7, 0)], .biasCheckSample [(.die 7, 0)],
     .resumeEdge [(.die 7, 0)], .lfTelegramEnd [(.die 7, 0)], .selectiveWake 0 { id := 2 ^ 11 } 0] ++
    ([.read, .write, .txn, .hreset, .hostNop, .hostBadRequest] : List (Option (Nat × Nat) → List Nat → Instr)).flatMap (fun c =>
      [c (some (2 ^ 32, 0)) [], c (some (0, 65536)) [], c none [256]]) : List Instr)).all (fun i => !i.wf) = true := by decide

theorem test_wf_accepts : ([.registerWrite .host false 0xFFFFFFFF TWord.nil0, .frameEdge [(.outI 55, 0), (.segDrift 7 4, 0), (.lane 1 4, 0)],
    .canFrameReceived 5 { id := 2 ^ 29 - 1, xtd := true, fdf := true, brs := true, len := 64, data := List.replicate 64 255 } false,
    .laneGrant 15 7 [{ who := 8, word := 65535 }] .double, .rrd 1 255 true, .read (some (2 ^ 32 - 1, 65535)) [255]] : List Instr).all Instr.wf = true := by decide

/-! ### Decoding: the bytes of the spec's pump job (example after R363) and encodings that R319 to R324 and R328 refuse -/

/-- What a byte string spells. -/
def spells (b : List Nat) : Decoded := decodeAt (fun o => b.getD o 0) (fun _ => none)

theorem test_decode_pump_job :
    spells [0xC0, 0x32, 0x01, 0x00, 0x00] = .ins { op := 0xC0, x := 2, d := 1, imm := 0, immLen := 1, len := 5 } ∧
    spells [0xA2, 0x22, 0x00] = .ins { op := 0xA2, d := 2, a := 1, len := 3 } ∧ spells [0xA3, 0x43, 0x00] = .ins { op := 0xA3, d := 3, a := 2, len := 3 } ∧
    spells [0xC2, 0x30, 0x64, 0x00, 0x04] = .ins { op := 0xC2, d := 4, a := 3, imm := 4, immLen := 1, len := 5 } ∧
    spells [0xC1, 0x4D, 0x80, 0x00, 0x20, 0x4E] = .ins { op := 0xC1, x := 13, a := 4, imm := 20000, immLen := 2, len := 6 } ∧
    spells [0xA4, 0x45, 0x00] = .ins { op := 0xA4, d := 5, a := 2, len := 3 } ∧
    spells [0xC3, 0x30, 0xA0, 0x18, 0x00] = .ins { op := 0xC3, a := 5, b := 6, immLen := 1, len := 5 } ∧
    spells [0x02] = .ins { op := 2, len := 1 } ∧ spells [0x03] = .ins { op := 3, len := 1 } := by decide

theorem test_decode_branch : (match spells [0x44, 0x0D] with
    | .ins i => i.op = 0x40 ∧ i.x = 4 ∧ i.disp = 13 ∧ i.len = 2
    | .ill _ => False) := ⟨rfl, rfl, rfl, rfl⟩

theorem test_decode_refuses :
    ([[0xF0, 0xF1, 0xF3, 0xF4, 0x90, 0x54, 0], [0xF1, 0xF1, 0], [0xF5, 0], [0xF8, 0], [0xAA, 0, 0], [0xC8, 0x20, 0, 0], [0xC0, 0x12, 0, 0], [0xC0, 0xD2], [0xC2, 0x50, 0, 0],
      [0x91, 0, 0x40], [0xF0, 0x02], [0xF2, 0xF3, 0x96, 0, 0], [0xC2, 0x31, 0, 0, 0], [0x50, 0xE0], [0xC0, 0x38, 1, 0, 0], [0xF2, 0x80, 0, 0]].all (fun b => match spells b with
      | .ill _ => true
      | .ins _ => false)) = true := by decide

/-! ### Core instructions: the spec's own examples -/

/-- CMP of IMEAN 14020 with INT 20000 sets N and leaves V 0 (example after R363). -/
theorem test_cmp_pump : after (exec (.aluiCmp 0 {}) (coreWith [0xC1, 0x4D, 0x80, 0x00, 0x20, 0x4E] [TWord.nil0, nat 0, nat 0, nat 0, int 14020]))
    (fun t => ((t.cr 0).flg.getLsbD 1, (t.cr 0).flg.getLsbD 3, (t.cr 0).pc)) = some (true, false, 0x01000006) := by decide

/-- BGE does not branch while N ≠ V, and branches 13 bytes on while N = V (example after R363). -/
theorem test_bge : after (exec (.bcc 0 {}) ((coreWith [0x44, 0x0D] []).setCore 0 (fun k => { k with flg := 2 }))) (fun t => (t.cr 0).pc) = some 0x01000002 ∧
    after (exec (.bcc 0 {}) (coreWith [0x44, 0x0D] [])) (fun t => (t.cr 0).pc) = some 0x0100000F := by decide

/-- The handles of the pump job: the record and the command word of HSH0 (example after R363). -/
theorem test_handles_pump : after (exec (.hrec 0 {}) (coreWith [0xA3, 0x43, 0x00] [TWord.nil0, nat 0, ⟨Tag.chan, 0⟩])) (fun t => t.w 0 3) = some (ptr 0x30000200) ∧
    after (exec (.hcmd 0 {}) (coreWith [0xA4, 0x45, 0x00] [TWord.nil0, nat 0, ⟨Tag.chan, 0⟩])) (fun t => t.w 0 5) = some (ptr 0x30010100) := by decide

/-- 14020 / 0 writes NIL 0 with V alone; a NIL second source then traps with TVAL 0x10 (example after R317). -/
theorem test_div_zero : after (exec (.div 0 {}) (coreWith [0x82 + 1, 0x65, 0x10] [TWord.nil0, nat 0, nat 0, int 14020, int 0])) (fun t => (t.w 0 5, (t.cr 0).flg)) =
    some (TWord.nil0, 8#5) := by decide

theorem test_nil_use : after (exec (.add 0 {}) (coreWith [0x80, 0xE6, 0x14] [TWord.nil0, nat 0, nat 0, nat 0, nat 0, TWord.nil0, nat 0, int 1]))
    (fun t => ((t.cr 0).tcause, (t.cr 0).tval, (t.cr 0).job, ((t.cr 0).stack.map (·.pc)))) = some (2, 0x10, false, [0x01000000]) := by decide

/-- LZC of 1 is NAT 31 (the entry and the microcode of the example after R363). -/
theorem test_cust_lzc : after (exec (.cust 0 {}) (lzcState.setCore 0 (fun k => { k with w := k.w.set 3 (nat 1) }))) (fun t => t.w 0 4) = some (nat 31) := by decide

/-- A source that is also the destination, and the flags of a carry (R309). -/
theorem test_add_wraps : after (exec (.add 0 {}) (coreWith [0x80, 0x21, 0x08] [TWord.nil0, nat 0xFFFFFFFF, nat 2])) (fun t => (t.w 0 1, (t.cr 0).flg)) =
    some (nat 1, 0b1100#5) := by decide

/-! ### Algorithms that the spec names by their standards -/

/-- FIPS 197, C.1. -/
theorem test_aes128 : aes (upto 16) ((upto 16).map (fun i => 17 * i)) =
    [0x69, 0xC4, 0xE0, 0xD8, 0x6A, 0x7B, 0x04, 0x30, 0xD8, 0xCD, 0xB7, 0x80, 0x70, 0xB4, 0xC5, 0x5A] := by decide +kernel

/-- FIPS 197, C.3. -/
theorem test_aes256 : aes (upto 32) ((upto 16).map (fun i => 17 * i)) =
    [0x8E, 0xA2, 0xB7, 0xCA, 0x51, 0x67, 0x45, 0xBF, 0xEA, 0xFC, 0x49, 0x90, 0x4B, 0x49, 0x60, 0x89] := by decide +kernel

/-- SP 800-38B, D.1, example 1: the empty message. -/
theorem test_cmac : cmac [0x2B, 0x7E, 0x15, 0x16, 0x28, 0xAE, 0xD2, 0xA6, 0xAB, 0xF7, 0x15, 0x88, 0x09, 0xCF, 0x4F, 0x3C] [] =
    [0xBB, 0x1D, 0x69, 0x29, 0xE9, 0x59, 0x37, 0x28, 0x7F, 0xA3, 0x7D, 0x12, 0x9B, 0x75, 0x67, 0x46] := by decide +kernel

/-- The GCM specification, test case 2: zero key, IV and block. -/
theorem test_gcm : gcmText (List.replicate 16 0) (List.replicate 12 0) (List.replicate 16 0) =
    [0x03, 0x88, 0xDA, 0xCE, 0x60, 0xB6, 0xA3, 0x92, 0xF3, 0x28, 0xC2, 0xB9, 0x71, 0xB2, 0xFE, 0x78] ∧
    gcmTag (List.replicate 16 0) (List.replicate 12 0) [] [0x03, 0x88, 0xDA, 0xCE, 0x60, 0xB6, 0xA3, 0x92, 0xF3, 0x28, 0xC2, 0xB9, 0x71, 0xB2, 0xFE, 0x78] =
    [0xAB, 0x6E, 0x47, 0xD4, 0x2C, 0xEC, 0x13, 0xBD, 0xF5, 0x3A, 0x67, 0xB2, 0x12, 0x57, 0xBD, 0xDF] := by decide +kernel

/-- FIPS 180-4, "abc". -/
theorem test_sha256 : sha256 [0x61, 0x62, 0x63] = [0xBA, 0x78, 0x16, 0xBF, 0x8F, 0x01, 0xCF, 0xEA, 0x41, 0x41, 0x40, 0xDE, 0x5D, 0xAE, 0x22, 0x23,
    0xB0, 0x03, 0x61, 0xA3, 0x96, 0x17, 0x7A, 0x9C, 0xB4, 0x10, 0xFF, 0x61, 0xF2, 0x00, 0x15, 0xAD] := by decide +kernel

/-- The check values of the CRCs: the string "123456789". -/
theorem test_crcs : crc32 ((upto 9).map (· + 0x31)) = 0xCBF43926 ∧ crc16 ((upto 9).map (· + 0x31)) = 0x29B1 ∧ crc8 ((upto 9).map (· + 0x31)) = 0xF4 := by decide

/-! ### Block examples of the spec -/

/-- The worn pump segment (example after R642): segment 2 of HSH0 goes, the spare comes, RES0.SEGS reads 47, LASTSUB 0x0001_2000. -/
theorem test_worn_segment : let t := live.retireSegment 0 2
    (t.out 0).seg.active 0 = 0b11011 ∧ t.reserve 0 = 47 ∧ t.reg F.glnLastsubKind.addr = 0x00012000 ∧ t.bit F.glnStatSub = true := by decide

/-- WEAR then names raw bit 2 of record 56 (same example). -/
theorem test_wear_bits : (live.retireSegment 0 2).wearBits = [(56, 2)] := by decide

/-- The carrier of 20 kHz has 7500 cycles (R114): half of the duty is 3750, 0xFFFF all of them, 29 cycles on count as none and 29 off as 100 %. -/
theorem test_pwm_carrier : hbPeriod 200 = 7500 ∧ hbOnTime 0x8000 7500 = 3750 ∧ hbOnTime 0xFFFF 7500 = 7500 ∧ hbOnTime 262 7500 = 0 ∧
    hbOnTime 263 7500 = 30 ∧ hbOnTime 65282 7500 = 7470 ∧ hbOnTime 65283 7500 = 7500 := by decide

/-- Half-bridge 0 in PWM at half duty: 3000 cycles after its carrier restarted its high side conducts, at 3760 cycles neither switch does
within the dead time of 30 cycles, at 3800 its low side (R112, R114, R115). -/
def pwmState (cycles : Nat) : State :=
  { (fields [(F.swHbcfgFreq 0, 200), (F.swHbcfgDead 0, 30)] live).setOut 48 (fun x => { x with st := .on, hb := { x.hb with mode := 3, duty := 0x8000 } }) with
    count := 4 * cycles }
theorem test_pwm_switches : (pwmState 3000).hbSwitches 0 = (true, false) ∧ (pwmState 3760).hbSwitches 0 = (false, false) ∧
    (pwmState 3800).hbSwitches 0 = (false, true) := by decide

/-- A defect of slice 0 meets different logical bits in the two passes of an echoed ADD (R367): the first mismatch replays with nothing
retired, the second halts the core with source 0 (R376, R377). -/
def echoState : State := fields [(F.echSpgPage 0, 1)] (coreWith [0x80, 0x21, 0x08] [TWord.nil0, nat 1, nat 2])
theorem test_echo_slip : let p : Phys := { slips := [{ item := 1, slice := 0, bits := 1 }] }
    after (exec (.add 0 p) echoState) (fun t => ((t.cr 0).ech.miss, t.w 0 1, (t.cr 0).pc, t.sticky 2)) = some (true, nat 1, 0x01000000, true) ∧
    after (exec (.add 0 p) (echoState.setCore 0 (fun k => { k with ech := { k.ech with miss := true } })))
      (fun t => ((t.cr 0).halt.echo, t.w 0 1, t.sticky 0)) = some (true, nat 1, true) := by decide +kernel

/-- The same passes without a defect agree, and the echo register file follows (R373). -/
theorem test_echo_agrees : after (exec (.add 0 {}) echoState) (fun t => ((t.cr 0).ech.einst, t.w 0 1, nth (t.cr 0).ew 1 0)) =
    some (1, nat 3, echoBits (nat 3)) := by decide +kernel

/-- TTEST with NF 1 leaves T as it is (R322). -/
theorem test_ttest_nf : after (exec (.ttest 0 {}) (coreWith [0x92, 0x34, 0x08] [TWord.nil0, nat 5])) (fun t => (t.cr 0).flg) = some 16 ∧
    after (exec (.ttest 0 {}) (coreWith [0x92, 0x34, 0x88] [TWord.nil0, nat 5])) (fun t => (t.cr 0).flg) = some 0 := by decide

/-! ### An image that verifies

A signature by a key pair of the tests, laid in slot 0 behind its image; `slhVerify_slhSign` says that it verifies. -/

/-- The cells of the flash that a string fills from an offset on. -/
def cells : Nat → List Nat → List (Nat × Nat)
  | _, [] => []
  | o, b :: t => (o, b) :: cells (o + 1) t

theorem cells_get (d : Nat → Nat) (b : List Nat) (o i : Nat) (h : i < b.length) : AMap.get d (cells o b) (o + i) = b[i] := by
  induction b generalizing o i with
  | nil => simp at h
  | cons x t ih =>
    cases i with
    | zero => simp [cells, AMap.get]
    | succ i =>
      have := ih (o + 1) i (by simpa using h)
      rw [show o + (i + 1) = o + 1 + i by omega]
      simpa [cells, AMap.get, show o + 1 + i ≠ o by omega] using this

/-- Slot 0 holds a confirmed image with a signature, and signing key 0 is programmed. -/
def imageIn (key sig h b : List Nat) (s : State) : State :=
  { s with
    sec := { s.sec with flash := (0xFF0001, 0xFE) :: cells 0 (h ++ b ++ sig) }
    sil := { s.sil with
      gens := [(152, { start := true, done := true }), (156, { start := true, done := true }), (160, { start := true, done := true }),
        (164, { start := true, done := true })]
      shadow := (upto 4).map (fun j => (38 + j, leNat ((key.drop (8 * j)).take 8))) } }

/-- What the checks see of such an image. -/
structure Sound (key sig h b : List Nat) : Prop where
  keyOk : key.length = 32 ∧ ∀ x ∈ key, x < 256
  sigOk : sig.length = 7856
  good : slhVerify slh128s (key.take 16) (key.drop 16) (h.take 0xFC) sig = true
  head : h.length = 256
  len : imgLen h = b.length
  short : b.length < 65536
  sel : imgKeysel h = 0

/-- Every image has a key and a signature that are sound. -/
theorem exists_sound (h b : List Nat) (head : h.length = 256) (len : imgLen h = b.length) (short : b.length < 65536) (sel : imgKeysel h = 0) :
    ∃ key sig, Sound key sig h b := by
  obtain ⟨root, sig, lr, lt, l, v⟩ := slh_exists slh128s (by decide) (List.replicate 16 1) (List.replicate 16 3) (List.replicate 16 2) (h.take 0xFC)
  rw [show slh128s.sigLen = 7856 by decide] at l
  refine ⟨List.replicate 16 2 ++ root, sig, ⟨by simp [lr], ?_⟩, l, ?_, head, len, short, sel⟩
  · intro x hx
    rcases List.mem_append.mp hx with hx | hx
    · rw [List.eq_of_mem_replicate hx]; decide
    · exact lt x hx
  · have e1 : (List.replicate 16 2 ++ root).take 16 = List.replicate 16 2 := List.take_left' rfl
    have e2 : (List.replicate 16 2 ++ root).drop 16 = root := List.drop_left' rfl
    rw [e1, e2]; exact v

theorem leOf_leNat (l : List Nat) (h : ∀ b ∈ l, b < 256) : leOf l.length (leNat l) = l := by
  induction l with
  | nil => rfl
  | cons b l ih =>
    have hb := h b (by simp)
    have e1 : (b % 256 + 256 * leNat l) % 256 = b := by omega
    have e2 : (b % 256 + 256 * leNat l) / 256 = leNat l := by omega
    rw [leNat, List.length_cons, leOf, e1, e2, ih (fun c hc => h c (by simp [hc]))]

variable {key sig h b : List Nat}

theorem length_image (q : Sound key sig h b) : (h ++ b ++ sig).length = 256 + b.length + 7856 := by
  rw [List.length_append, List.length_append, q.head, q.sigOk]

theorem flashBytes_imageIn (q : Sound key sig h b) (s : State) (o n : Nat) (hn : o + n ≤ 256 + b.length + 7856) :
    (imageIn key sig h b s).flashBytes o n = ((h ++ b ++ sig).drop o).take n := by
  have l := length_image q
  have s1 := q.short
  apply List.ext_getElem
  · simp only [State.flashBytes, upto_eq_range, List.length_map, List.length_range, List.length_take, List.length_drop]; omega
  · intro i h1 h2
    have hi : i < n := by simpa [State.flashBytes, upto_eq_range] using h1
    have := cells_get (fun _ => 0xFF) (h ++ b ++ sig) 0 (o + i) (by omega)
    rw [Nat.zero_add] at this
    rw [List.getElem_take, List.getElem_drop, ← this]
    have hne : o + i ≠ 0xFF0001 := by omega
    simp only [State.flashBytes, upto_eq_range, List.getElem_map, List.getElem_range, State.flashByte, imageIn, AMap.get, if_neg hne]

theorem siloBytes_imageIn (q : Sound key sig h b) (s : State) : (imageIn key sig h b s).siloBytes 38 4 = key := by
  obtain ⟨len, lt⟩ := q.keyOk
  have sh : ∀ j, j < 4 → leOf 8 ((imageIn key sig h b s).shadow (38 + j)) = (key.drop (8 * j)).take 8 := by
    intro j hj
    have e : (imageIn key sig h b s).shadow (38 + j) = leNat ((key.drop (8 * j)).take 8) := by
      rcases (by omega : j = 0 ∨ j = 1 ∨ j = 2 ∨ j = 3) with rfl | rfl | rfl | rfl <;> rfl
    have := leOf_leNat ((key.drop (8 * j)).take 8) (fun x hx => lt x (List.mem_of_mem_drop (List.mem_of_mem_take hx)))
    rwa [List.length_take, List.length_drop, len, Nat.min_eq_left (by omega), ← e] at this
  have e : ∀ f : Nat → List Nat, (upto 4).flatMap f = f 0 ++ (f 1 ++ (f 2 ++ f 3)) := by intro f; simp [upto]
  rw [State.siloBytes, e, sh 0 (by omega), sh 1 (by omega), sh 2 (by omega), sh 3 (by omega)]
  rw [show (key.drop (8 * 3)).take 8 = key.drop (8 * 3) from List.take_of_length_le (by rw [List.length_drop, len])]
  have step : ∀ k, (key.drop (8 * k)).take 8 ++ key.drop (8 * (k + 1)) = key.drop (8 * k) := by
    intro k; rw [Nat.mul_succ, ← List.drop_drop, List.take_append_drop]
  rw [step 2, step 1, step 0]; rfl

theorem slotHeader_imageIn (q : Sound key sig h b) (s : State) : (imageIn key sig h b s).slotHeader 0 = h := by
  rw [State.slotHeader, show slotBase 0 = 0 from rfl, flashBytes_imageIn q s 0 256 (by omega), List.drop_zero, List.append_assoc,
    List.take_append_of_le_length (by rw [q.head]), List.take_of_length_le (by rw [q.head])]

theorem payload_imageIn (q : Sound key sig h b) (s : State) : (imageIn key sig h b s).payload 0 = b := by
  rw [State.payload, slotHeader_imageIn q, q.len, show slotBase 0 + 0x100 = 256 from rfl, flashBytes_imageIn q s 256 _ (by omega),
    List.append_assoc, List.drop_append, List.drop_of_length_le (by rw [q.head]), q.head, List.nil_append, Nat.sub_self, List.drop_zero,
    List.take_append_of_le_length (by omega), List.take_of_length_le (by omega)]

theorem signatureOk_imageIn (q : Sound key sig h b) (s : State) : (imageIn key sig h b s).signatureOk 0 = true := by
  rw [State.signatureOk, slotHeader_imageIn q, q.sel, q.len]
  have e : (imageIn key sig h b s).flashBytes (slotBase 0 + 0x100 + b.length) 7856 = sig := by
    rw [show slotBase 0 + 0x100 + b.length = 256 + b.length by simp [slotBase], flashBytes_imageIn q s _ 7856 (by omega),
      List.drop_append, List.drop_of_length_le (by rw [List.length_append, q.head]), List.length_append, q.head, Nat.sub_self, List.nil_append,
      List.drop_zero, List.take_of_length_le (by rw [q.sigOk])]
  have k := siloBytes_imageIn q s
  simp only [e, Nat.mul_zero, Nat.add_zero, k]
  exact q.good

/-- The header check asks of the state for the key's records, its revocation, the count and the lock of the custom region alone. -/
theorem headerCheck_congr {s t : State} (h : List Nat) (h1 : ∀ r n, s.siloProgrammed r n = t.siloProgrammed r n) (h2 : ∀ k, s.revoked k = t.revoked k)
    (h3 : s.fld F.secArbCount = t.fld F.secArbCount) (h4 : s.cdLock = t.cdLock) : s.headerCheck h = t.headerCheck h := by
  unfold State.headerCheck; simp only [h1, h2, h3, h4]

/-- The state for the header check: the key's records without their contents. -/
def keyIn (s : State) : State := { s with sil := { s.sil with gens := (imageIn [] [] [] [] s).sil.gens, shadow := [] } }

theorem imageCheck_imageIn (q : Sound key sig h b) (s : State) (c : (keyIn s).headerCheck h = 0) :
    (imageIn key sig h b s).headerCheck h = 0 ∧ (imageIn key sig h b s).imageCheck 0 = 0 := by
  have e : (imageIn key sig h b s).headerCheck h = 0 := by
    rw [← c]
    refine headerCheck_congr h (fun r n => rfl) (fun k => ?_) rfl ?_ <;>
      simp [State.revoked, State.cdLock, State.shadow, imageIn, keyIn, upto, AMap.get]
  refine ⟨e, ?_⟩
  rw [State.imageCheck, slotHeader_imageIn q, e, signatureOk_imageIn q]; rfl

theorem digestOk_imageIn (q : Sound key sig h b) (s : State) : (imageIn key sig h b s).digestOk 0 = (sha256 b == sub h 0x20 32) := by
  rw [State.digestOk, payload_imageIn q, slotHeader_imageIn q]

theorem hloadWaits_imageIn (q : Sound key sig h b) (s : State) (c : Fin 2) (mask : Nat) : (imageIn key sig h b s).hloadWaits c 0 mask =
    ((1 + c.val) :: segDomains (hloadSegments h c mask)).find? (fun d => !s.domOn d && !s.domLocked d) := by
  rw [State.hloadWaits, slotHeader_imageIn q]; rfl

/-- The status word of the slot is that of a confirmed image. -/
theorem slotStatus_imageIn (q : Sound key sig h b) (s : State) : (imageIn key sig h b s).slotStatus 0 = 0xFFFFFEFF := by
  have l := length_image q
  have s1 := q.short
  have past : ∀ (b : List Nat) (k o : Nat), k + b.length ≤ o → AMap.get (fun _ => 0xFF) (cells k b) o = 0xFF := by
    intro b
    induction b with
    | nil => intro k o _; rfl
    | cons x t ih =>
      intro k o hk
      rw [List.length_cons] at hk
      rw [cells, AMap.get, if_neg (by omega)]; exact ih (k + 1) o (by omega)
  have f : ∀ o, 0xFF0000 ≤ o → o ≠ 0xFF0001 → (imageIn key sig h b s).flashByte o = 0xFF := by
    intro o ho hne
    simp only [State.flashByte, imageIn, AMap.get, if_neg hne]; exact past _ 0 o (by omega)
  have g : (imageIn key sig h b s).flashByte (0xFF0000 + 1) = 0xFE := by simp only [State.flashByte, imageIn, AMap.get, if_true]
  rw [State.slotStatus, State.flashBytes, show upto 4 = [0, 1, 2, 3] from rfl, show slotBase 0 + 0xFF0000 = 0xFF0000 from rfl]
  simp only [List.map_cons, List.map_nil, f (0xFF0000 + 0) (by decide) (by decide), g, f (0xFF0000 + 2) (by decide) (by decide),
    f (0xFF0000 + 3) (by decide) (by decide)]
  rfl

/-- A hitless header with segments (offset, destination, length, kind), for a payload, with a digest. -/
def headerOf (segs : List (Nat × Nat × Nat × Nat)) (b digest : List Nat) : List Nat :=
  let seg := segs.flatMap (fun g => leOf 4 g.1 ++ leOf 4 g.2.1 ++ leOf 4 g.2.2.1 ++ leOf 4 g.2.2.2)
  let h := leOf 4 0xB0A71640 ++ leOf 2 1 ++ leOf 2 0x9640 ++ [1, 0, 0, 0] ++ leOf 4 b.length ++ List.replicate 16 0 ++ digest ++ List.replicate 32 0
    ++ sub seg 0 128 ++ List.replicate 28 0
  h ++ leOf 4 (crc32 h)

/-- The digest of the empty string (FIPS 180-4). -/
def emptyDigest : List Nat :=
  [0xE3, 0xB0, 0xC4, 0x42, 0x98, 0xFC, 0x1C, 0x14, 0x9A, 0xFB, 0xF4, 0xC8, 0x99, 0x6F, 0xB9, 0x24,
    0x27, 0xAE, 0x41, 0xE4, 0x64, 0x9B, 0x93, 0x4C, 0xA4, 0x95, 0x99, 0x1B, 0x78, 0x52, 0xB8, 0x55]

theorem test_sha256_empty : sha256 [] = emptyDigest := by decide +kernel

/-- Images: no segment and a right digest; no segment and a wrong one; a word for a bank of C0; a word for the custom region. -/
def images : List (List Nat × List Nat) :=
  [(headerOf [] [] emptyDigest, []), (headerOf [] [] (List.replicate 32 0), []),
   (headerOf [(0, 0x10040000, 5, 4)] [1, 2, 3, 4, 5] (List.replicate 32 0), [1, 2, 3, 4, 5]),
   (headerOf [(0, 0x50100000, 4, 6)] [1, 2, 3, 4] (List.replicate 32 0), [1, 2, 3, 4])]

theorem images_sound : ∀ x ∈ images, ∃ key sig, Sound key sig x.1 x.2 := by
  have : images.all (fun x => x.1.length == 256 && imgLen x.1 == x.2.length && decide (x.2.length < 65536) && imgKeysel x.1 == 0) = true := by
    decide +kernel
  intro x hx
  have := List.all_eq_true.mp this x hx
  simp only [Bool.and_eq_true, beq_iff_eq, decide_eq_true_eq] at this
  exact exists_sound _ _ this.1.1.1 this.1.1.2 this.1.2 this.2

/-- The job of an HLOAD of slot 0 by C1 with every kind of segment. -/
def loadJob : CJob := { op := 0x31, arg := 2 + 4 * 255 }

/-- The image leaves the rest of the machine as it is. -/
theorem imageIn_rest (key sig h b : List Nat) (s : State) :
    ((imageIn key sig h b s).canonical ↔ s.canonical) ∧ (∀ j op x, (imageIn key sig h b s).jobReady j op x ↔ s.jobReady j op x) ∧
    (∀ c, (imageIn key sig h b s).coreHasWork c = s.coreHasWork c) ∧ (∀ m k, (imageIn key sig h b s).mayUse m k = s.mayUse m k) ∧
    (∀ a, (imageIn key sig h b s).mread a = s.mread a) ∧
    ((imageIn key sig h b s).inDip = s.inDip ∧ (imageIn key sig h b s).storesOff = s.storesOff) :=
  ⟨Iff.rfl, fun _ _ _ => Iff.rfl, fun _ => rfl, fun _ _ => rfl, fun _ => rfl, rfl, rfl⟩

theorem images_header : images.all (fun x => (keyIn (jobState loadJob)).headerCheck x.1 == 0 && imgHitless x.1 &&
    (((1 + (1 : Fin 2).val) :: segDomains (hloadSegments x.1 (1 : Fin 2) 255)).find? (fun d => !(jobState loadJob).domOn d && !(jobState loadJob).domLocked d)) == none) = true := by
  decide +kernel

theorem loadJob_ready : (jobState loadJob).canonical ∧ (jobState loadJob).jobReady 15 0x31 loadJob ∧ (jobState loadJob).coreHasWork 1 = false := by
  refine ⟨by (repeat' apply And.intro) <;> decide, ?_, by decide⟩
  exact ⟨by decide, by decide, by decide, by decide, by decide, fun _ => by decide, by decide⟩

theorem loadJob_words : (jobState loadJob).mayUse 4 (bankOf 0x10040000) = false ∧ (jobState loadJob).mread 0x50100000 = TWord.nil0 := by
  constructor <;> decide

/-- Each of the images verifies and can be loaded; by its segments and digest the load ends as one clause says. -/
theorem witness_KeyFlashAndQueueSteps_image :
    (∀ x ∈ images, ∃ s : State, s.canonical ∧ s.jobReady 15 0x31 loadJob ∧ s.imageCheck 0 = 0 ∧ s.slotHeader 0 = x.1 ∧ s.payload 0 = x.2 ∧
      s.coreHasWork 1 = false ∧ imgHitless x.1 = true ∧ s.hloadWaits 1 0 255 = none ∧ s.digestOk 0 = (sha256 x.2 == sub x.1 0x20 32) ∧
      s.mayUse 4 (bankOf 0x10040000) = false ∧ s.mread 0x50100000 = TWord.nil0) ∧
    images.map (fun x => hloadSegments x.1 1 255) = [[], [], [⟨0, 0x10040000, 5, 4⟩], [⟨0, 0x50100000, 4, 6⟩]] ∧
    images.map (fun x => sha256 x.2 == sub x.1 0x20 32) = [true, false, false, false] ∧
    Segment.words ⟨0, 0x50100000, 4, 6⟩ [1, 2, 3, 4] = [(0x50100000, TWord.nat 0x04030201)] := by
  refine ⟨?_, by decide +kernel, by decide +kernel, by decide⟩
  intro x hx
  have c := List.all_eq_true.mp images_header x hx
  simp only [Bool.and_eq_true, beq_iff_eq] at c
  obtain ⟨key, sig, q⟩ := images_sound x hx
  obtain ⟨r1, r2, r3, r4, r5, -⟩ := imageIn_rest key sig x.1 x.2 (jobState loadJob)
  refine ⟨imageIn key sig x.1 x.2 (jobState loadJob), r1.mpr loadJob_ready.1, (r2 _ _ _).mpr loadJob_ready.2.1, (imageCheck_imageIn q _ c.1.1).2,
    slotHeader_imageIn q _, payload_imageIn q _, (r3 _).trans loadJob_ready.2.2, c.1.2, ?_, digestOk_imageIn q _, (r4 _ _).trans loadJob_words.1,
    (r5 _).trans loadJob_words.2⟩
  exact (hloadWaits_imageIn q _ 1 255).trans c.2

theorem live_starts : live.canonical ∧ live.sec.rom = true ∧ live.win.startOk = true ∧ live.win.fhalt = false ∧ live.inDip = false ∧
    live.win.pathBad = false := by
  (repeat' apply And.intro) <;> decide

/-- IVERIFY of an image that verifies, its boot, and its check in recovery. -/
theorem witness_BootAndRecoverySteps_image :
    (∃ s : State, s.canonical ∧ s.sec.rom = true ∧ s.win.startOk = true ∧ s.win.fhalt = false ∧ s.inDip = false ∧ s.win.pathBad = false ∧
      s.candidates 1 = [0] ∧ (s.slotStatus 0).testBit 8 = false ∧ s.headerCheck (s.slotHeader 0) = 0 ∧ s.signatureOk 0 = true ∧ s.digestOk 0 = true) ∧
    (∃ s : State, s.canonical ∧ s.sec.rcvr = true ∧ s.storesOff = false ∧ s.sec.buf = [] ∧ s.imageCheck 0 = 0 ∧ s.digestOk 0 = true) ∧
    (∃ s : State, s.canonical ∧ s.jobReady 15 0x30 { op := 0x30 } ∧ s.imageCheck 0 = 0) := by
  obtain ⟨key, sig, q⟩ := images_sound (headerOf [] [] emptyDigest, []) (by simp [images])
  have d : (sha256 [] == sub (headerOf [] [] emptyDigest) 0x20 32) = true := by rw [test_sha256_empty]; decide
  have c : ∀ s, (keyIn s).headerCheck (headerOf [] [] emptyDigest) = 0 →
      (imageIn key sig (headerOf [] [] emptyDigest) [] s).headerCheck (headerOf [] [] emptyDigest) = 0 ∧
      (imageIn key sig (headerOf [] [] emptyDigest) [] s).imageCheck 0 = 0 := fun s hs => imageCheck_imageIn q s hs
  have hh := fun s => slotHeader_imageIn q s
  have hs := fun s => slotStatus_imageIn q s
  have ho := fun s => signatureOk_imageIn q s
  have hd := fun s => (digestOk_imageIn q s).trans d
  have l4 : (jobState { op := 0x30 }).jobReady 15 0x30 { op := 0x30 } :=
    ⟨by decide, by decide, by decide, by decide, by decide, fun _ => by decide, by decide⟩
  have l3 : (keyIn live).headerCheck (headerOf [] [] emptyDigest) = 0 := by decide +kernel
  have l5 : (keyIn (jobState { op := 0x30 })).headerCheck (headerOf [] [] emptyDigest) = 0 := by decide +kernel
  have rest := fun s => imageIn_rest key sig (headerOf [] [] emptyDigest) [] s
  refine ⟨⟨imageIn key sig _ [] live, (rest _).1.mpr live_starts.1, live_starts.2.1, live_starts.2.2.1, live_starts.2.2.2.1,
      (rest _).2.2.2.2.2.1.trans live_starts.2.2.2.2.1, live_starts.2.2.2.2.2, ?_, ?_, ?_, ho _, hd _⟩,
    ⟨imageIn key sig _ [] { live with sec := { live.sec with rcvr := true } }, (rest _).1.mpr live_starts.1, rfl, (rest _).2.2.2.2.2.2.trans (by decide), rfl,
      (c _ l3).2, hd _⟩,
    ⟨imageIn key sig _ [] (jobState { op := 0x30 }), (rest _).1.mpr (by (repeat' apply And.intro) <;> decide), ((rest _).2.1 _ _ _).mpr l4, (c _ l5).2⟩⟩
  · simp only [State.candidates, List.filter, hs]; rfl
  · rw [hs]; decide
  · rw [hh]; exact (c live l3).1

end Sys2Proof.Tests
end

section
/-!
PROOFS. The step and its queue (O1, O3, O4) and the machine after reset (O2).
-/

namespace Sys2Proof.Machine

theorem step_of_pending_nil {s : State} (h : s.pending = []) : step s = .next s.tick := by
  unfold step; rw [h]

theorem step_of_pending_cons {s : State} {c : Instr} {l : List Instr} (h : s.pending = c :: l) :
    step s = exec c { s with pending := l } := by
  unfold step; rw [h]

theorem State.tick_of_run {s : State} (h : s.pwr.pause = .run) : s.tick = { s with count := s.count + 1 } := by
  unfold State.tick; rw [h]

/-- A tick holds COUNT or takes it one further (R21, R427). -/
theorem State.tick_eq (s : State) : s.tick = s ∨ s.tick = s.advance (s.count + 1) := by
  unfold State.tick State.advance
  split
  · exact .inl rfl
  · exact .inl rfl
  · exact .inr (by rw [Nat.max_eq_right (Nat.le_succ _)])

theorem State.tick_keeps (s : State) : s.keeps s.tick [.count] := by
  rcases s.tick_eq with h | h <;> rw [h]
  · exact s.keeps_refl _
  · exact s.advance_keeps _

/-- Settles O1: the two equations of `step`, and what a tick keeps. -/
theorem frontCommandSteps : Obligations.FrontCommandSteps :=
  ⟨fun _ _ _ h => step_of_pending_cons h,
   fun s h hr => by rw [step_of_pending_nil h, s.tick_of_run hr],
   fun s h => ⟨s.tick, step_of_pending_nil h, s.tick_keeps⟩⟩

/-- Settles O3: a step is a tick or one command, and both keep a lasting property, of which the canonical form is one. -/
theorem stepKeepsCanonical : Obligations.StepKeepsCanonical := by
  intro s t hs ht
  cases hq : s.pending with
  | nil =>
    rw [step_of_pending_nil hq] at ht
    exact st_next ht (of_next (State.tick_stable canonical_lasting.toStable hs))
  | cons c l =>
    rw [step_of_pending_cons hq] at ht
    exact st_next ht (exec_lasting canonical_lasting c (s := { s with pending := l }) hs)

/-- Settles O4: "the queue is what it was" is a lasting property. -/
theorem commandsKeepTheQueue : Obligations.CommandsKeepTheQueue :=
  fun c s _ h => st_next h (exec_lasting (pending_lasting s.pending) c rfl)

/-! ### The machine after reset -/

/-- After reset every register but two reads its reset value (R13). -/
theorem State.reg_reset {a : Nat} (h : a ≠ 0x40080008) (k : a ≠ 0x40130004) : State.reset.reg a = Regs.reset a := by
  show AMap.get Regs.reset [(0x40080008, 1), (0x40130004, 0)] a = Regs.reset a
  simp only [AMap.get, if_neg h, if_neg k]

/-- After reset AON and the Granary banks alone are ON (R433, R448). -/
theorem State.domOn_reset : ∀ d, d < 32 → (State.reset.domOn d = true ↔ d = 0 ∨ 16 ≤ d) := by decide

/-- Settles O2: `State.reset` written out; every register and every domain by the two lemmas above. -/
theorem resetLeaves : Obligations.ResetLeaves :=
  ⟨State.reset_canonical, rfl, rfl, rfl, fun _ h k => State.reg_reset h k, rfl, rfl, rfl, rfl, State.domOn_reset, rfl, fun _ => rfl⟩

end Sys2Proof.Machine
end
section
/-!
PROOFS. The causes of power-on reset, and what the reset and its start-up steps leave and keep (O45).
-/

namespace Sys2Proof.Machine

/-- What the start-up steps of a reset leave alone: FRAME at 0, the memory lost, the flash, and the cause in RCAUSE. -/
structure State.BootsWith (flash : List (Nat × Nat)) (cause : Nat) (t : State) : Prop where
  frame : t.frm.frame = 0
  mem : t.mem = []
  flash : t.sec.flash = flash
  cause : t.fld F.pwrRcauseCause = cause

/-- A loop keeps what each of its turns keeps, by the turn's number. -/
theorem st_forEach_lt {P : State → Prop} {n : Nat} {f : State → Nat → State} {s : State} (h : ∀ t i, i < n → P t → P (f t i)) (k : P s) :
    P (forEach n f s) := by
  induction n with
  | zero => exact k
  | succ n ih => rw [forEach_succ]; exact h _ _ (by omega) (ih (fun t i hi => h t i (by omega)))

section
variable {fl : List (Nat × Nat)} {x : Nat} {s t : State}

/-- A change that touches neither the four parts nor any register. -/
theorem State.BootsWith.of_eq (h : s.BootsWith fl x) (hr : t.regs = s.regs := by rfl) (hm : t.mem = s.mem := by rfl)
    (hf : t.frm.frame = s.frm.frame := by rfl) (hs : t.sec.flash = s.sec.flash := by rfl) : t.BootsWith fl x :=
  ⟨hf.trans h.frame, hm.trans h.mem, hs.trans h.flash, by
    have e : t.fld F.pwrRcauseCause = s.fld F.pwrRcauseCause := by unfold State.fld State.reg; rw [hr]
    exact e.trans h.cause⟩

theorem State.BootsWith.setReg (h : s.BootsWith fl x) (a : Nat) (w : Word) (ha : F.pwrRcauseCause.addr ≠ a) : (s.setReg a w).BootsWith fl x :=
  ⟨h.frame, h.mem, h.flash, by
    have e : (s.setReg a w).fld F.pwrRcauseCause = s.fld F.pwrRcauseCause := by unfold State.fld; rw [State.reg_setReg_other _ _ _ _ ha]
    exact e.trans h.cause⟩

theorem State.BootsWith.setFld (h : s.BootsWith fl x) (f : Fld) (v : Nat) (ha : F.pwrRcauseCause.addr ≠ f.addr) : (s.setFld f v).BootsWith fl x :=
  h.setReg _ _ ha

theorem State.BootsWith.reacted (h : s.BootsWith fl x) (k : Reacted s t) : t.BootsWith fl x := by
  obtain ⟨-, -, hsec, -, -⟩ := k.services
  refine ⟨k.frame.trans h.frame, k.mem.trans h.mem, (congrArg Sec.flash hsec).trans h.flash, Eq.trans ?_ h.cause⟩
  unfold State.fld
  rw [k.onlyRegs]
  all_goals intros; simp only [F.pwrRcauseCause, F.winStickyStk, F.frmEvmrgMerged, F.pwrDctlReq, F.grnBpwrState, F.pwrStatLockacc, F.accEvcCause]; omega

theorem State.BootsWith.raiseSource (h : s.BootsWith fl x) (n : Nat) (hn : n < 192) : (s.raiseSource n).BootsWith fl x :=
  h.reacted ((Reacted.refl s).raiseSource n hn)

theorem State.BootsWith.driveSafe (h : s.BootsWith fl x) : s.driveSafe.BootsWith fl x :=
  h.reacted (Reacted.refl s).driveSafe

theorem State.BootsWith.haltF (h : s.BootsWith fl x) : s.haltF.BootsWith fl x :=
  h.reacted (Reacted.refl s).driveSafe.stopCores

/-! No register of an array that lies above RCAUSE, or that ends below it, is RCAUSE. -/

theorem rcause_ne_above (b i : Nat) (h : 0x40080008 < b) : F.pwrRcauseCause.addr ≠ b + 4 * i := by
  simp only [F.pwrRcauseCause]; omega

theorem rcause_ne_below (b i n : Nat) (h : b + 4 * n ≤ 0x40080008) (hi : i < n) : F.pwrRcauseCause.addr ≠ b + 4 * i := by
  simp only [F.pwrRcauseCause]; omega

/-- The shadows and what the check of their records raises (R619). -/
theorem State.BootsWith.storeShadow (h : s.BootsWith fl x) (r : Nat) (e : Ecc) : (s.storeShadow r e).BootsWith fl x := by
  unfold State.storeShadow
  split
  · cases e <;> exact h.of_eq
  · exact h.of_eq

theorem State.BootsWith.shadowSource (h : s.BootsWith fl x) (r : Nat) (e : Ecc) : (s.shadowSource r e).BootsWith fl x := by
  unfold State.shadowSource
  split
  · cases e
    case clean | unseen => exact h
    case single | wrong => exact h.raiseSource 176 (by decide)
    case double => exact h.raiseSource 168 (by decide)
  · exact h

theorem State.BootsWith.ethTake (h : s.BootsWith fl x) : s.ethTake.BootsWith fl x :=
  st_foldl (fun _ _ k => k.of_eq) h

theorem State.BootsWith.readSilo (h : s.BootsWith fl x) (u : Startup) : (s.readSilo u).BootsWith fl x := by
  unfold State.readSilo
  extract_lets ecc s1 s2 s3 s4 s5
  have h1 : s1.BootsWith fl x := st_forEach (fun _ r k => k.storeShadow r _) h
  have h2 : s2.BootsWith fl x := st_forEach_lt (fun t i hi k => k.setFld (F.winSafeEnt i) _ (rcause_ne_below _ i 7 (by decide) hi)) h1
  have h3 : s3.BootsWith fl x := st_ite ((h2.setFld _ _ (by decide)).setFld _ _ (by decide)) h2
  have h4 : s4.BootsWith fl x := st_ite (st_forEach (fun t p k =>
    (k.setFld (F.ethPcalIlat p) _ (rcause_ne_above _ _ (by decide))).setFld (F.ethPcalElat p) _ (rcause_ne_above _ _ (by decide))) h3) h3
  have h5 : s5.BootsWith fl x := st_ite (h4.setReg _ _ (by decide)) h4
  exact st_forEach (fun _ r k => k.shadowSource r _) (h5.ethTake.setFld _ _ (by decide))

theorem State.BootsWith.setWorn (h : s.BootsWith fl x) : (s.setBit F.glnStatWorn).BootsWith fl x := h.setFld _ _ (by decide)

/-- The wear bits applied (R639): the lanes of the banks, the segments of the outputs, the phases of the regulator. -/
theorem State.BootsWith.applyWear (h : s.BootsWith fl x) : s.applyWear.BootsWith fl x := by
  unfold State.applyWear
  extract_lets bit worn s1 s2
  have hl : s1.BootsWith fl x := st_forEach_lt (fun t i hi k => st_ite (st_ite k (st_ite
    (k.setFld (F.grnLaneSpfor (i / 8)) _ (rcause_ne_below _ _ 16 (by decide) (by omega))) k.setWorn)) k) h
  have ho : s2.BootsWith fl x := st_forEach (fun t m k => st_ite (st_ite k.of_eq k.setWorn) k) hl
  refine st_forEach (fun t p k => st_ite (st_ite ?_ k.setWorn) k) ho
  exact ((k.setFld F.pwrRegSpfor p (by decide)).setFld F.pwrRegPhon _ (by decide)).of_eq

theorem State.BootsWith.loadKey (h : s.BootsWith fl x) (k type use : Nat) (key : Bytes) : (s.loadKey k type use key).BootsWith fl x := by
  have ha : F.pwrRcauseCause.addr ≠ 0x40100080 + 4 * k := rcause_ne_above _ _ (by decide)
  exact ((((h.setFld _ _ ha).setFld _ _ ha).setFld _ _ ha).setFld _ _ ha).of_eq

theorem State.BootsWith.loadDeviceKeys (h : s.BootsWith fl x) : s.loadDeviceKeys.BootsWith fl x := by
  unfold State.loadDeviceKeys
  extract_lets put s1 s2 s3
  have hp : ∀ (t : State) (k r n type use : Nat) (key : Bytes), t.BootsWith fl x → (put t k r n type use key).BootsWith fl x :=
    fun _ _ _ _ _ _ _ ht => st_ite (ht.loadKey _ _ _ _) ht
  exact hp _ _ _ _ _ _ _ (hp _ _ _ _ _ _ _ (hp _ _ _ _ _ _ _ (hp _ _ _ _ _ _ _ h)))

theorem State.BootsWith.lockDebug (h : s.BootsWith fl x) : s.lockDebug.BootsWith fl x :=
  (st_ite (h.setFld _ _ (by decide)) h : (if 1 ≤ s.dbgMode then s.setFld F.dbgStatLocked 1 else s).BootsWith fl x).of_eq

theorem State.BootsWith.pathCheck (h : s.BootsWith fl x) (bad : Bool) : (s.pathCheck bad).BootsWith fl x := by
  unfold State.pathCheck
  extract_lets w s1
  have hw : State.BootsWith fl x { s with win := { s.win with pathBad := true } } := h.of_eq
  have h1 : s1.BootsWith fl x := st_forEach (f := State.movePx) (fun t i k => k.of_eq) (hw.raiseSource 171 (by decide))
  exact st_ite h1.of_eq h

theorem State.BootsWith.reverseReport (h : s.BootsWith fl x) (g : Nat) : (s.reverseReport g).BootsWith fl x :=
  st_ite ((h.setFld F.pwrRevGrp _ (by decide)).raiseSource 27 (by decide)) h

theorem State.BootsWith.laneTest (h : s.BootsWith fl x) (c : Nat) : (s.laneTest c).BootsWith fl x := st_ite (h.raiseSource 4 (by decide)) h

theorem State.BootsWith.laneRebuild (h : s.BootsWith fl x) (c : Fin 2) : (s.laneRebuild c).BootsWith fl x :=
  State.BootsWith.laneTest h.of_eq c

end

/-- RCAUSE after a reset: its cause, beside those before it where the cells kept them. -/
def State.causeAfter (s : State) (bit : Nat) (keep : Bool) : Nat := (if keep then s.fld F.pwrRcauseCause else 0) ||| 2 ^ bit

/-- RCAUSE has room for the seven causes. -/
theorem State.causeAfter_lt (s : State) {bit : Nat} (hb : bit < 7) (keep : Bool) : s.causeAfter bit keep < 2 ^ 7 := by
  refine Nat.or_lt_two_pow ?_ (Nat.pow_lt_pow_right (by decide) hb)
  split
  · exact getBits_lt _ _ _
  · decide

/-- A reset leaves FRAME 0, no word of memory, the flash, and its cause in RCAUSE (R13, R428). -/
theorem State.afterReset_bootsWith (s : State) {bit : Nat} (hb : bit < 7) (keep : Bool) (cells : Nat) :
    (s.afterReset bit keep cells).BootsWith s.sec.flash (s.causeAfter bit keep) := by
  unfold State.afterReset
  extract_lets b0 b1 b2 base s1 s2 s3
  have h1 : s1.BootsWith s.sec.flash (s.causeAfter bit keep) := by
    refine ⟨rfl, rfl, rfl, ?_⟩
    have hc : base.canonical := State.reset_canonical
    show getBits ((base.setReg _ _).reg _) _ _ = _
    rw [State.reg_setReg_same _ _ _ hc, getBits_setBits_same _ _ _ _ (by decide)]
    exact Nat.mod_eq_of_lt (s.causeAfter_lt hb keep)
  clear_value s1
  have h2 : s2.BootsWith s.sec.flash (s.causeAfter bit keep) := st_ite (st_foldl (fun t c h => h.of_eq)
    (st_forEach_lt (fun t b hb h => h.setReg _ _ (rcause_ne_below _ b 16 (by decide) hb)) h1)) h1
  clear_value s2
  have h3 : s3.BootsWith s.sec.flash (s.causeAfter bit keep) := st_forEach (fun t c h => st_ite h.of_eq h) h2
  exact st_ite (st_forEach_lt (fun t m hm h => h.setFld _ _ (rcause_ne_below _ m 6 (by decide) hm)) h3) h3

/-- The start-up steps in their order (R262, R381, R428, R639). -/
theorem State.powerOn_bootsWith (s : State) {bit : Nat} (hb : bit < 7) (keep : Bool) (u : Startup) :
    (s.powerOn bit keep u).BootsWith (s.observe u.seen).sec.flash ((s.observe u.seen).causeAfter bit keep) := by
  unfold State.powerOn
  extract_lets s1 s2 s3 s4
  generalize hf : (s.observe u.seen).sec.flash = fl
  generalize hc : (s.observe u.seen).causeAfter bit keep = x
  have h1 : s1.BootsWith fl x := hf ▸ hc ▸ ((s.observe u.seen).afterReset_bootsWith hb keep u.cells).readSilo u
  have h2 : s2.BootsWith fl x := h1.applyWear.loadDeviceKeys.lockDebug.pathCheck u.pathBad
  have h3 : s3.BootsWith fl x := st_forEach (fun t g h => h.reverseReport g) ((h2.laneRebuild 0).laneRebuild 1)
  have h4 : s4.BootsWith fl x := st_ite h3.haltF h3
  exact st_ite h4.driveSafe h4

/-- Readings taken leave the rest of the machine. -/
theorem State.observe_eq (s : State) (w : World) : ∃ pins, s.observe w = { s with pins := pins } := by
  unfold State.observe
  induction w generalizing s with
  | nil => exact ⟨s.pins, rfl⟩
  | cons p w ih => exact ih (s.setPin p.1 p.2)

/-- A class F halt resumes before the cores start (R429). -/
theorem State.fhalt_powerOn {s : State} (h : s.win.fhalt = true) (bit : Nat) (keep : Bool) (u : Startup) :
    (s.powerOn bit keep u).win.fhalt = true := by
  unfold State.powerOn
  extract_lets s1 s2 s3 s4
  have h4 : s4.win.fhalt = true := by
    show (if s.win.fhalt then s3.haltF else s3).win.fhalt = true
    rw [if_pos h]; rfl
  exact st_ite (P := fun t => t.win.fhalt = true) (State.driveSafe_stable fhalt_stable h4) h4

/-- What a reset with the RCAUSE bit of its cause leaves and keeps. -/
def State.resetBy (s t : State) (bit : Nat) (keep : Bool) : Prop :=
  t.frm.frame = 0 ∧ t.pending = s.pending ∧ t.sec.flash = s.sec.flash ∧ t.fld F.pwrRcauseCause = s.causeAfter bit keep ∧
    (∀ a, t.mread a = TWord.nil0) ∧ (s.win.fhalt = true → t.win.fhalt = true)

theorem State.powerOn_resetBy (s : State) {bit : Nat} (hb : bit < 7) (keep : Bool) (u : Startup) : s.resetBy (s.powerOn bit keep u) bit keep := by
  have hp := State.powerOn_stable (pending_lasting s.pending) bit keep u rfl
  obtain ⟨hframe, hmem, hflash, hcause⟩ := s.powerOn_bootsWith hb keep u
  obtain ⟨pins, e⟩ := s.observe_eq u.seen
  rw [e] at hflash hcause
  refine ⟨hframe, hp, hflash, hcause, fun a => ?_, fun h => State.fhalt_powerOn h _ _ _⟩
  unfold State.mread
  rw [hmem]; rfl

/-- RSTn low between 1 us and 10 us: the spec leaves open whether it resets (R658). -/
theorem resetLand_cases (ns : Nat) (u : Startup) (s : State) :
    ∃ t, exec (.resetLand ns u) s = .next t ∧ (s.resetBy t 5 true ∨ s.keeps t [.free]) := by
  refine ⟨_, rfl, ?_⟩
  split
  · exact .inl (s.powerOn_resetBy (by decide) _ _)
  · split
    · exact .inr (s.keeps_refl _)
    · dsimp only
      split
      · exact .inl (State.powerOn_resetBy { s with free := s.free + 1 } (by decide) _ _)
      · exact .inr s.fresh_keeps

/-- The state that the reset at the end of a class F halt starts from (R264). -/
def State.haltEnded (s : State) : State := { s with win := { s.win with fhalt := false } }

/-- Every supply below 3.0 V for 100 ms to 130 ms in a class F halt: the spec leaves open whether the halt ends (R264). -/
theorem classFEnd_cases (ms : Nat) (u : Startup) (s : State) :
    ∃ t, exec (.classFEnd ms u) s = .next t ∧ (s.haltEnded.resetBy t 6 true ∨ s.keeps t [.free]) := by
  refine ⟨_, rfl, ?_⟩
  split
  · exact .inr (s.keeps_refl _)
  · dsimp only
    split
    · exact .inl (State.powerOn_resetBy { s.haltEnded with free := s.free + 1 } (by decide) _ _)
    · exact .inr s.fresh_keeps

/-! What each cause does, as its condition holds or not. -/

theorem execLowSupply_of_low {s : State} {mv : Int} (hm : mv < 3000) (hd : s.inDip = false) (u : Startup) :
    execLowSupply mv u s = .next ((s.setPin (.vbat 2) mv).powerOn 1 true u) :=
  congrArg Host.Outcome.next (if_pos ⟨hm, hd⟩)

theorem execLowSupply_of_not {s : State} {mv : Int} (h : 3000 ≤ mv ∨ s.inDip = true) (u : Startup) :
    execLowSupply mv u s = .next (s.setPin (.vbat 2) mv) :=
  congrArg Host.Outcome.next (if_neg fun ⟨hm, hd⟩ => h.elim (fun k => absurd hm (by omega)) (fun k => by simp [k] at hd))

theorem execHoldUpEmpty_of_low {s : State} {mv : Int} (hm : mv < 5000) (hd : s.inDip = true) (u : Startup) :
    execHoldUpEmpty mv u s = .next ((s.setPin .vhold mv).powerOn 3 true u) :=
  congrArg Host.Outcome.next (if_pos ⟨hm, hd⟩)

theorem execHoldUpEmpty_of_not {s : State} {mv : Int} (h : 5000 ≤ mv ∨ s.inDip = false) (u : Startup) :
    execHoldUpEmpty mv u s = .next (s.setPin .vhold mv) :=
  congrArg Host.Outcome.next (if_neg fun ⟨hm, hd⟩ => h.elim (fun k => absurd hm (by omega)) (fun k => by simp [k] at hd))

theorem execLongDip_of_dip {s : State} (h : s.inDip = true) (u : Startup) : execLongDip u s = .next (s.powerOn 2 true u) :=
  congrArg Host.Outcome.next (if_pos h)

theorem execLongDip_of_not {s : State} (h : s.inDip = false) (u : Startup) : execLongDip u s = .next s :=
  congrArg Host.Outcome.next (if_neg (by simp [h]))

theorem execResetLand_of_long (s : State) {ns : Nat} (h : 10000 ≤ ns) (u : Startup) : execResetLand ns u s = .next (s.powerOn 5 true u) :=
  congrArg Host.Outcome.next (if_pos h)

theorem execResetLand_of_short (s : State) {ns : Nat} (h : ns < 1000) (u : Startup) : execResetLand ns u s = .next s :=
  congrArg Host.Outcome.next ((if_neg (by omega)).trans (if_pos h))

theorem execClassFEnd_of_long {s : State} (h : s.win.fhalt = true) {ms : Nat} (hm : 130 < ms) (u : Startup) :
    execClassFEnd ms u s = .next ({ s.haltEnded with free := s.free + 1 }.powerOn 6 true u) :=
  congrArg Host.Outcome.next ((if_neg (by simp [h]; omega)).trans (if_pos (.inl hm)))

theorem execClassFEnd_of_short {s : State} {ms : Nat} (h : s.win.fhalt = false ∨ ms < 100) (u : Startup) : execClassFEnd ms u s = .next s :=
  congrArg Host.Outcome.next (if_pos h)

/-- Settles O45: each cause runs `State.powerOn` with its bit, and `State.powerOn_resetBy` says what that leaves. -/
theorem powerOnResets : Obligations.PowerOnResets := by
  intro u s
  have reset (s : State) (bit : Nat) (hb : bit < 7) (keep : Bool) : s.resetBy (s.powerOn bit keep u) bit keep := s.powerOn_resetBy hb keep u
  refine ⟨⟨_, rfl, reset s 0 (by decide) false⟩, fun mv hm hd => ?_, fun mv h => execLowSupply_of_not h u,
    fun h => execLongDip_of_not h u, fun mv h => execHoldUpEmpty_of_not h u, fun h => ?_, fun mv hm hd => ?_,
    ⟨_, rfl, reset s 4 (by decide) true⟩, fun ns h => ?_, fun ns h => execResetLand_of_short s h u, fun ns => resetLand_cases ns u s,
    fun ms h hm => ?_, fun ms _ => classFEnd_cases ms u s, fun ms h => execClassFEnd_of_short h u⟩
  · exact ⟨_, execLowSupply_of_low hm hd u, reset (s.setPin (.vbat 2) mv) 1 (by decide) true⟩
  · exact ⟨_, execLongDip_of_dip h u, reset s 2 (by decide) true⟩
  · exact ⟨_, execHoldUpEmpty_of_low hm hd u, reset (s.setPin .vhold mv) 3 (by decide) true⟩
  · exact ⟨_, execResetLand_of_long s h u, reset s 5 (by decide) true⟩
  · exact ⟨_, execClassFEnd_of_long h hm u, reset { s.haltEnded with free := s.free + 1 } 6 (by decide) true⟩

end Sys2Proof.Machine
end

section
/-!
PROOFS. Register accesses: stores that are held for an edge, stores that a block refuses, SEV, and the read of FRAMELO (O8).
-/

namespace Sys2Proof.Machine

/-! ### A register that takes the word it has -/

/-- A map whose keys all lie above a bound reads as its default up to it. -/
theorem AMap.get_of_above {α : Type} {d : Nat → α} {m : List (Nat × α)} {b k : Nat} (h : AMap.above b m = true) (hk : k ≤ b) :
    AMap.get d m k = d k := by
  induction m with
  | nil => rfl
  | cons p t ih =>
    simp only [AMap.above, Bool.and_eq_true, decide_eq_true_eq] at h
    obtain ⟨hp, ht⟩ := h
    simp only [AMap.get, if_neg (show k ≠ p.1 by omega), ih ht]

/-- Writing what a key reads changes nothing in the canonical form. -/
theorem AMap.put_get_self {α : Type} [DecidableEq α] {d : Nat → α} {m : List (Nat × α)} (h : AMap.wf d m = true) (k : Nat) :
    AMap.put d m k (AMap.get d m k) = m := by
  induction m with
  | nil => simp [AMap.get, AMap.put]
  | cons p t ih =>
    simp only [AMap.wf, Bool.and_eq_true, decide_eq_true_eq] at h
    obtain ⟨⟨hp, habove⟩, ht⟩ := h
    rcases Nat.lt_trichotomy k p.1 with hk | rfl | hk
    · have e : AMap.get d t k = d k := AMap.get_of_above habove (by omega)
      simp [AMap.get, AMap.put, hk, Nat.ne_of_lt hk, e]
    · simp [AMap.get, AMap.put, hp]
    · simp [AMap.get, AMap.put, Nat.ne_of_gt hk, Nat.lt_asymm hk, ih ht]

theorem State.setReg_self {s : State} (h : s.canonical) (a : Nat) : s.setReg a (s.reg a) = s := by
  unfold State.setReg State.reg
  rw [AMap.put_get_self h.2]

/-! ### Stores to staged registers (R4, R5) -/

theorem RegRow.merge_of_none {r : RegRow} {p : FldSpec → Bool} (h : ∀ f, f ∈ r.fields → p f = false) (take : FldSpec → Word → Nat)
    (old w : Word) : r.merge p take old w = old := by
  unfold RegRow.merge
  generalize r.fields = l at h
  induction l with
  | nil => rfl
  | cons f l ih =>
    rw [List.foldl_cons, h f List.mem_cons_self, if_neg Bool.false_ne_true]
    exact ih (fun g hg => h g (List.mem_cons_of_mem _ hg))

section
variable {r : RegRow} (hst : ∀ f, f ∈ r.fields → f.acc = .st)
include hst

/-- A register of staged fields alone keeps its word at a store. -/
theorem RegRow.stored_of_staged (old w : Word) : r.stored old w = old := by
  unfold RegRow.stored
  dsimp only
  rw [RegRow.merge_of_none, RegRow.merge_of_none, RegRow.merge_of_none]
  all_goals intro f hf; simp [hst f hf]

theorem State.writesStopped_of_staged (s : State) (a : Nat) (w : Word) : s.writesStopped r a w = false := by
  have h : ∀ old new, r.changesStopped old new = false := fun old new => by
    unfold RegRow.changesStopped
    exact List.any_eq_false.mpr (fun f hf => by simp [hst f hf])
  simp [State.writesStopped, h]

end

theorem State.keepAbsent_of_present {s : State} {a : Nat} (h : absentMask s.feat a = 0) (w : Word) : s.keepAbsent a w = w := by
  unfold State.keepAbsent
  dsimp only
  rw [h, show ~~~(BitVec.ofNat 32 0) = BitVec.allOnes 32 by decide, BitVec.and_allOnes]
  simp

theorem State.absent_of_present {s : State} {a : Nat} (h : absentMask s.feat a = 0) : s.absent a = false := by
  unfold State.absent
  rw [h]; rfl

theorem State.plainStore_of_staged {s : State} (hs : s.canonical) {r : RegRow} (hst : ∀ f, f ∈ r.fields → f.acc = .st) (hne : r.fields ≠ [])
    {a : Nat} (ha : absentMask s.feat a = 0) (w : Word) : s.plainStore r a w = s.holdFw a w := by
  have hany : r.fields.any (·.acc == .st) = true := by
    obtain ⟨f, hf⟩ := List.exists_mem_of_ne_nil _ hne
    exact List.any_eq_true.mpr ⟨f, hf, by simp [hst f hf]⟩
  unfold State.plainStore
  dsimp only
  rw [if_pos hany, RegRow.stored_of_staged hst, s.keepAbsent_of_present ha, s.setReg_self hs, s.keepAbsent_of_present ha]

/-- A word held for a register beside NRATELO and NOFFLO joins the held writes, and nothing else changes. -/
theorem State.holdFw_eq (s : State) {a : Nat} (hr : a ≠ F.timNrateloRate.addr) (ho : a ≠ F.timNoffloOff.addr) (w : Word) :
    ∃ l, s.holdFw a w = { s with frm := { s.frm with held := l ++ [.fw a w (s.past 2)] } } := by
  have e : s.noteHigh [(a, w)] = s := by
    simp only [State.noteHigh, List.zipIdx_cons, List.zipIdx_nil, List.foldl_cons, List.foldl_nil, if_neg hr, if_neg ho]
  unfold State.holdFw
  rw [e]
  exact ⟨_, rfl⟩

theorem State.held_keeps (s : State) (l : List Held) : s.keeps { s with frm := { s.frm with held := l } } [.held] := by
  refine ⟨rfl, fun p hp => ?_⟩
  have h := s.same_refl p
  cases p with
  | held => exact absurd (by simp) hp
  | _ => exact h

/-! ### The switching block -/

section
variable {a : Nat} (ha : a / 0x10000 = 0x4001)
include ha

theorem regionOf_sw : regionOf a = .periph := by
  have hstore : ∀ base, base ≤ 0x3FFF0000 → ¬inStore base a = true := fun base h => by simp [inStore]; omega
  have hgrn : ¬inGranary a = true := by simp [inGranary]; omega
  unfold regionOf
  rw [if_neg (by omega), if_neg (hstore _ (by decide)), if_neg (hstore _ (by decide)), if_neg (hstore _ (by decide)),
    if_neg (hstore _ (by decide)), if_neg hgrn]
  repeat rw [if_neg (by omega)]
  rw [if_pos (by omega)]

theorem jobIgnored_sw : jobIgnored a = none := by
  unfold jobIgnored
  rw [ha]; rfl

/-- Of the switching block only STRCFG does more at a store than its fields say. -/
theorem State.storeCoreSide_sw (s : State) (m : Master) (r : RegRow) (hs : a ≠ 0x40010020) (w : Word) : s.storeCoreSide m r a w = none := by
  unfold State.storeCoreSide
  dsimp only
  repeat rw [if_neg (by omega)]

theorem State.storeNet_sw (s : State) (job : Bool) (r : RegRow) (w : Word) : s.storeNet job r a w = none := by
  unfold State.storeNet
  rw [ha]; rfl

theorem State.storeSys_sw (s : State) (m : Master) (job : Bool) (w : Word) : s.storeSys m job a w = none := by
  unfold State.storeSys
  rw [ha]; rfl

end

/-- STRCFG has a field that is not staged. -/
theorem strcfg_not_staged : (Regs.row? 0x40010020).all (fun r => r.fields.any (fun f => decide (f.acc ≠ .st))) = true := by decide

/-- A store to a staged register of the switching block is its plain store. -/
theorem State.storePeriph_sw_staged {s : State} {a : Nat} {r : RegRow} (hr : Regs.row? a = some r) (ha : a / 0x10000 = 0x4001) (h4 : a % 4 = 0)
    (hst : ∀ f, f ∈ r.fields → f.acc = .st) (hp : r.ptr = false) (hab : absentMask s.feat a = 0) (m : Master) (job : Bool) (v : TWord) :
    s.storePeriph m job a v = .stored (s.plainStore r a v.val) := by
  have hne : a ≠ 0x40010020 := by
    rintro rfl
    have h := strcfg_not_staged
    rw [hr] at h
    obtain ⟨f, hf, hacc⟩ := List.any_eq_true.mp h
    exact of_decide_eq_true hacc (hst f hf)
  simp [State.storePeriph, h4, s.absent_of_present hab, jobIgnored_sw ha, hr, hp, s.writesStopped_of_staged hst, s.storeCoreSide_sw ha m r hne,
    s.storeNet_sw ha, s.storeSys_sw ha, show ¬0x40090000 ≤ a by omega]

/-! ### Accesses by commands -/

theorem State.inDip_of_stores {s : State} (h : s.storesOff = false) : s.inDip = false := by
  simp only [State.storesOff, Bool.or_eq_false_iff] at h
  exact h.1.1

theorem State.store_of_dip {s : State} (h : s.inDip = true) (i : DipAccess) (f : State → State) : s.store i f = s.stall i := if_pos h

theorem State.store_of_off {s : State} (hd : s.inDip = false) (h : s.storesOff = true) (i : DipAccess) (f : State → State) : s.store i f = s :=
  (if_neg (by simp [hd])).trans (if_pos h)

theorem State.store_of_on {s : State} (h : s.storesOff = false) (i : DipAccess) (f : State → State) : s.store i f = f s :=
  (if_neg (by simp [s.inDip_of_stores h])).trans (if_neg (by simp [h]))

/-- An empty store buffer has drained (R301). -/
theorem State.drained_of_empty {s : State} {c : Fin 2} (h : (s.cr c).buf = []) : s.drained (.core c) = (true, s) := by
  have h1 : s.drainOne c = s := by unfold State.drainOne; rw [h]
  have h8 : s.drainAll c = s := by
    unfold State.drainAll
    induction upto 8 with
    | nil => rfl
    | cons _ l ih => rw [List.foldl_cons, h1, ih]
  have hw : s.drainWaits c = none := by unfold State.drainWaits; rw [h]
  simp [State.drained, h8, hw]

theorem execRegisterWrite_of_dip {s : State} (h : s.inDip = true) (m : Master) (job : Bool) (a : Nat) (v : TWord) :
    execRegisterWrite m job a v s = .next (s.stall (.registerWrite m job a v)) := if_pos h

theorem execRegisterWrite_of_off {s : State} (hd : s.inDip = false) (h : s.storesOff = true) (m : Master) (job : Bool) (a : Nat) (v : TWord) :
    execRegisterWrite m job a v s = .next s :=
  (if_neg (by simp [hd])).trans (if_pos (.inl h))

/-- A core whose buffer has drained stores to a peripheral register as the register takes it. -/
theorem execRegisterWrite_of_stored {c : Fin 2} {job : Bool} {a : Nat} {v : TWord} {s u t : State} (hs : s.storesOff = false)
    (hd : s.drained (.core c) = (true, u)) (hr : regionOf a = .periph) (h : u.storePeriph (.core c) job a v = .stored t) :
    execRegisterWrite (.core c) job a v s = .next t := by
  simp [execRegisterWrite, s.inDip_of_stores hs, hs, hd, hr, h]

/-- A store from JOB mode to a block that refuses it sets PRIVREJ alone (R257). -/
theorem State.storePeriph_of_refused {s : State} {a : Nat} {f : Fld} (h4 : a % 4 = 0) (hab : s.absent a = false) (hf : jobIgnored a = some f)
    (m : Master) (v : TWord) : s.storePeriph m true a v = .stored (s.setBit f) := by
  simp [State.storePeriph, h4, hab, hf]

/-! ### The read of FRAMELO (R64) -/

theorem State.view_framelo (s : State) : s.view 0x40000010 = BitVec.ofNat 32 s.frm.frame.toNat := by
  have hf : frozenBy 0x40000010 = none := by decide
  have hm : absentMask s.feat 0x40000010 = 0 := rfl
  have hl : s.live 0x40000010 = BitVec.ofNat 32 s.frm.frame.toNat := rfl
  unfold State.view dropBits
  rw [hf, hm, hl, if_neg (by decide), show ~~~(BitVec.ofNat 32 0) = BitVec.allOnes 32 by decide]
  exact BitVec.and_allOnes

/-- FRAME[47:32] captured for a master. -/
def State.captureHi (s : State) (m : Master) : State :=
  { s with frm := { s.frm with hiCap := updN s.frm.hiCap (masterNum m) (fun _ => BitVec.ofNat 16 (s.frm.frame.toNat / 2 ^ 32)) } }

theorem State.loadPeriph_framelo (s : State) (m : Master) :
    s.loadPeriph m 0x40000010 = .ok ⟨Tag.nat, BitVec.ofNat 32 s.frm.frame.toNat⟩ (s.captureHi m) := by
  have hab : s.absent 0x40000010 = false := rfl
  unfold State.loadPeriph
  dsimp only
  rw [if_neg (by decide), hab, if_neg (by decide), if_pos rfl, s.view_framelo]
  rfl

theorem State.captureHi_keeps (s : State) (m : Master) : s.keeps (s.captureHi m) [.frmRest] := by
  refine ⟨rfl, fun p hp => ?_⟩
  have h := s.same_refl p
  cases p with
  | frmRest => exact absurd (by simp) hp
  | _ => exact h

theorem State.deliver_keeps (s : State) (m : Master) (v : TWord) : s.keeps (s.deliver m v) [.got (masterNum m)] := by
  refine ⟨rfl, fun p hp => ?_⟩
  have h := s.same_refl p
  cases p with
  | got k => exact nth_updN_other _ _ _ _ _ (fun e => hp (by simp [e]))
  | _ => exact h

theorem masterNum_lt (m : Master) : masterNum m < 4 := by
  cases m with
  | core c => simp only [masterNum]; omega
  | host => decide
  | link => decide

/-- A master whose stores have drained reads FRAMELO and has FRAME[47:32] captured. -/
theorem execFrameloRead_of_drained {m : Master} {s u : State} (hd : s.inDip = false) (h : s.drained m = (true, u)) :
    execFrameloRead m s = .next ((u.captureHi m).deliver m ⟨Tag.nat, BitVec.ofNat 32 u.frm.frame.toNat⟩) := by
  simp [execFrameloRead, State.load, hd, h, u.loadPeriph_framelo m]

theorem execFrameloRead_of_dip {s : State} (h : s.inDip = true) (m : Master) : execFrameloRead m s = .next (s.stall (.frameloRead m)) :=
  congrArg Host.Outcome.next (if_pos h)

/-! ### The statement -/

/-- A drained core's store to a staged register of the switching block is held for an edge (R4, R5, R37). -/
theorem registerWrite_staged {c : Fin 2} {a : Nat} {r : RegRow} {s u : State} (hu : u.canonical) (hs : s.storesOff = false)
    (hd : s.drained (.core c) = (true, u)) (hr : Regs.row? a = some r) (ha : a / 0x10000 = 0x4001) (h4 : a % 4 = 0)
    (hst : ∀ f, f ∈ r.fields → f.acc = .st) (hp : r.ptr = false) (hab : absentMask u.feat a = 0) (hne : r.fields ≠ []) (job : Bool) (v : TWord) :
    ∃ t, exec (.registerWrite (.core c) job a v) s = .next t ∧ .fw a v.val (u.past 2) ∈ t.frm.held ∧ t.reg a = u.reg a ∧
      u.keeps t [.held, .reg a] := by
  have hstore := (u.storePeriph_sw_staged hr ha h4 hst hp hab (.core c) job v).trans
    (congrArg BusRes.stored (u.plainStore_of_staged hu hst hne hab v.val))
  obtain ⟨l, hl⟩ := u.holdFw_eq (a := a) (by simp only [F.timNrateloRate]; omega) (by simp only [F.timNoffloOff]; omega) v.val
  rw [hl] at hstore
  exact ⟨_, execRegisterWrite_of_stored hs hd (regionOf_sw ha) hstore, List.mem_append_right _ List.mem_cons_self, rfl,
    State.keeps_mono (u.held_keeps _) (by simp)⟩

theorem frameloRead_spec {m : Master} {s u : State} (hd : s.inDip = false) (h : s.drained m = (true, u)) :
    ∃ t, exec (.frameloRead m) s = .next t ∧ nth t.got (masterNum m) TWord.nil0 = ⟨Tag.nat, BitVec.ofNat 32 u.frm.frame.toNat⟩ ∧
      nth t.frm.hiCap (masterNum m) 0 = BitVec.ofNat 16 (u.frm.frame.toNat / 2 ^ 32) ∧
      (∀ k, k ≠ masterNum m → nth t.frm.hiCap k 0 = nth u.frm.hiCap k 0) ∧ u.keeps t [.frmRest, .got (masterNum m)] :=
  ⟨_, execFrameloRead_of_drained hd h, nth_updN_same _ _ _ _ (masterNum_lt m), nth_updN_same _ _ _ _ (masterNum_lt m),
    fun _ hk => nth_updN_other _ _ _ _ _ hk.symm, State.keeps_trans (u.captureHi_keeps m) (State.deliver_keeps _ m _)⟩

/-- Settles O8: a staged store by `registerWrite_staged`, a refused one by `State.storePeriph_of_refused`, the read by `frameloRead_spec`; in a
dip and where stores are off the accesses do not reach a block. -/
theorem registerAccesses : Obligations.RegisterAccesses := by
  refine ⟨fun c job a v r s u hu hs hd hr ha h4 hst hp hab hne => registerWrite_staged hu hs hd hr ha h4 hst hp hab hne job v,
    fun c a v f s u hs hd hr h4 hab hf => execRegisterWrite_of_stored hs hd hr (u.storePeriph_of_refused h4 hab hf _ v),
    fun c s h => s.drained_of_empty h, fun m job a v s => ⟨fun h => ?_, fun hd h => ?_⟩, fun w s => ⟨fun h => ?_, fun h => ?_, fun hd h => ?_⟩,
    fun m s u => ⟨fun h => execFrameloRead_of_dip h m, fun hd h => frameloRead_spec hd h⟩⟩
  · exact execRegisterWrite_of_dip h m job a v
  · exact execRegisterWrite_of_off hd h m job a v
  · exact congrArg Host.Outcome.next (s.store_of_on h _ _)
  · exact congrArg Host.Outcome.next (s.store_of_dip h _ _)
  · exact congrArg Host.Outcome.next (s.store_of_off hd h _ _)

end Sys2Proof.Machine
end

section
/-!
PROOFS. FRAME, its edges and the deadlines of a frame (O5, O6).
-/

namespace Sys2Proof.Machine

/-- Settles O5: FRAME, the moment of its edge, "COUNT has reached `n`" and "the class F halt holds" are stable properties. -/
theorem edgesAloneMoveFrame : Obligations.EdgesAloneMoveFrame := by
  intro c s t hc ht
  have stays : ∀ {P : State → Prop}, Stable P → P s → P t := fun hP h => st_next ht (exec_stable hP c hc h)
  exact ⟨stays (frame_stable _) rfl, stays (edgeAt_stable _) rfl, stays (count_stable s.count) (Nat.le_refl _), stays fhalt_stable⟩

/-! ### The edge (R21, R22) -/

/-- FRAME, the moment of its edge, and a moment that COUNT has reached: what an ordinary operation leaves. -/
structure State.InFrame (frame : BitVec 48) (edgeAt reached : Nat) (t : State) : Prop where
  frame : t.frm.frame = frame
  edgeAt : t.frm.edgeAt = edgeAt
  reached : reached ≤ t.count

theorem State.inFrame_stable (n : BitVec 48) (e m : Nat) : Stable (State.InFrame n e m) where
  reg := fun _ _ _ h => ⟨h.frame, h.edgeAt, h.reached⟩
  mem := fun _ _ _ h => ⟨h.frame, h.edgeAt, h.reached⟩
  lose := fun _ _ _ h => ⟨h.frame, h.edgeAt, h.reached⟩
  clear := fun _ _ h => ⟨h.frame, h.edgeAt, h.reached⟩
  rest := fun _ _ _ _ _ hf he hc _ h => ⟨hf.trans h.frame, he.trans h.edgeAt, Nat.le_trans h.reached hc⟩

/-- The edge opens the next frame at its moment: the frame that ends is closed under its own number, and what follows the opening moves
neither (R22). -/
theorem State.edge_inFrame (s : State) (at_ : Nat) : (s.edge at_).InFrame (s.frm.frame + 1) at_ at_ := by
  have hold := State.inFrame_stable s.frm.frame s.frm.edgeAt at_
  have hnew := State.inFrame_stable (s.frm.frame + 1) at_ at_
  unfold State.edge
  extract_lets resume deadline cfgseal mask repeated committing ended due s1 led f2 s2 back r s3 s4 s5 f6 s6
  have h0 : (s.advance at_).InFrame s.frm.frame s.frm.edgeAt at_ := ⟨rfl, rfl, Nat.le_max_right _ _⟩
  have h1 : s1.InFrame s.frm.frame s.frm.edgeAt at_ := State.closeFrame_stable hold (State.accSlots_stable hold h0)
  clear_value s1
  have h2 : s2.InFrame (s.frm.frame + 1) at_ at_ := ⟨congrArg (· + 1) h1.frame, rfl, h1.reached⟩
  clear_value s2
  have h3 : s3.InFrame (s.frm.frame + 1) at_ at_ :=
    State.hostEdge_stable hnew (State.stampEdge_stable hnew _ (State.timEdge_stable hnew (State.takeHeld_stable hnew _ _ _ h2)))
  clear_value s3
  have h4 : s4.InFrame (s.frm.frame + 1) at_ at_ := st_ite (State.commitImage_stable hnew _ _ _ h3) (st_ite h3 (State.overrun_stable hnew h3))
  clear_value s4
  have h5 : s5.InFrame (s.frm.frame + 1) at_ at_ :=
    State.moveBlocks_stable hnew _ _ (State.safeRelease_stable hnew (State.holdCommitted_stable hnew _ h4))
  clear_value s5
  have h6 : s6.InFrame (s.frm.frame + 1) at_ at_ := ⟨h5.frame, h5.edgeAt, h5.reached⟩
  exact State.applyRequests_stable hnew _ (State.clearNotes_stable hnew (State.closeImage_stable hnew _ h6))

/-- So it stands after what ends an edge: the cores that go down, and parking (R437, R440). -/
theorem State.edgeEnd_inFrame (s : State) (at_ : Nat) : (s.edge at_).coresDown.parkEdge.InFrame (s.frm.frame + 1) at_ at_ :=
  have hP := State.inFrame_stable (s.frm.frame + 1) at_ at_
  State.parkEdge_stable hP (State.coresDown_stable hP (s.edge_inFrame at_))

theorem State.frame_observe (s : State) (w : World) : (s.observe w).frm.frame = s.frm.frame :=
  State.observe_stable (frame_stable _) w rfl

/-- Readings are taken whatever the state of the supplies. -/
theorem State.observe_withPwr (s : State) (p : Pwr) (w : World) :
    State.observe { s with pwr := p } w = { s.observe w with pwr := p } := by
  unfold State.observe
  induction w generalizing s with
  | nil => rfl
  | cons x w ih => exact ih (s.setPin x.1 x.2)

/-- An edge whose readings stay within the ratings of a clamp event opens the next frame, whatever becomes of the pause before it. -/
theorem State.edgeObserved_inFrame (s : State) (p : Pwr) (w : World) (at_ : Nat) :
    ((State.observe { s with pwr := p } w).edge at_).coresDown.parkEdge.InFrame (s.frm.frame + 1) at_ at_ := by
  have h := State.edgeEnd_inFrame (State.observe { s with pwr := p } w) at_
  rwa [State.frame_observe] at h

theorem State.clampUnchecked_observe (s : State) (p : Pwr) (w : World) :
    (State.observe { s with pwr := p } w).clampUnchecked = (s.observe w).clampUnchecked := by
  rw [s.observe_withPwr]; rfl

/-- A frame on the device's own time lasts T_F (R18, R20). -/
theorem State.nextEdge_of_own {s : State} (h : s.netTime = false) : s.nextEdge = s.frm.edgeAt + 600 * s.tfUs := by
  simp only [State.nextEdge, State.beforeEdge, h, Bool.false_eq_true, if_false]
  omega

theorem State.beforeEdge_of_own {s : State} (h : s.netTime = false) (n : Nat) : s.beforeEdge n = s.frm.edgeAt + 4 * (150 * s.tfUs - n) := by
  simp only [State.beforeEdge, h, Bool.false_eq_true, if_false]

theorem execFrameEdge_of_run {s : State} {w : World} (hr : s.pwr.pause = .run) (hu : s.unpowered = false)
    (hc : (s.observe w).clampUnchecked = false) :
    ∃ p, execFrameEdge w s = .next ((State.observe { s with pwr := p } w).edge s.nextEdge).coresDown.parkEdge := by
  unfold execFrameEdge
  rw [if_pos ⟨hr, hu⟩]
  dsimp only
  rw [s.clampUnchecked_observe, hc, if_neg Bool.false_ne_true]
  exact ⟨_, rfl⟩

/-- A pause of the frame and an unpowered frame have no edge of this kind (R135). -/
theorem execFrameEdge_of_not_runs {s : State} (h : s.frameRuns = false) (w : World) : execFrameEdge w s = .next s := by
  refine if_neg fun ⟨hr, hu⟩ => ?_
  simp [State.frameRuns, hr, hu] at h

theorem execResumeEdge_of_lock {s : State} {w : World} {since : Int} {park : Bool} {lock : Nat}
    (hp : s.pwr.pause = .resume since park (some lock)) (hu : s.unpowered = false) (hc : (s.observe w).clampUnchecked = false) :
    ∃ p, execResumeEdge w s = .next ((State.observe { s with pwr := p } w).edge (s.resumeAt lock)).coresDown.parkEdge := by
  unfold execResumeEdge
  rw [hp]
  dsimp only
  rw [hu, if_neg Bool.false_ne_true, s.clampUnchecked_observe, hc, if_neg Bool.false_ne_true]
  exact ⟨_, rfl⟩

theorem execResumeEdge_of_idle {s : State} (h : s.unpowered = true ∨ s.pwr.pause = .run) (w : World) : execResumeEdge w s = .next s := by
  unfold execResumeEdge
  split
  · next hp =>
    have hu : s.unpowered = true := h.resolve_right (by simp [hp])
    exact if_pos hu
  · rfl

/-- The resume edge stands 60 µs after PLL lock, or later on corrected time (R439, R522). -/
theorem State.le_resumeAt (s : State) (lock : Nat) : lock + 36000 ≤ s.resumeAt lock := by
  unfold State.resumeAt ticksPerUs
  dsimp only
  split
  · exact Nat.le_max_left _ _
  · exact Nat.le_refl _

theorem State.resumeAt_of_own {s : State} (h : s.netTime = false) (lock : Nat) : s.resumeAt lock = lock + 36000 := by
  simp only [State.resumeAt, ticksPerUs, h, Bool.false_eq_true, if_false]

/-- Settles O6: each edge opens its frame by `State.edgeObserved_inFrame`; a deadline moves COUNT alone, where the frame runs. -/
theorem edgesAndDeadlines : Obligations.EdgesAndDeadlines := by
  refine ⟨fun w s hr hu hc => ?_, fun w s since park lock hp hu hc => ?_, fun s h => ?_, fun s h => ?_, fun w s h => execResumeEdge_of_idle h w⟩
  · obtain ⟨p, h⟩ := execFrameEdge_of_run hr hu hc
    obtain ⟨hf, he, hn⟩ := s.edgeObserved_inFrame p w s.nextEdge
    exact ⟨_, h, hf, he, hn, State.nextEdge_of_own⟩
  · obtain ⟨p, h⟩ := execResumeEdge_of_lock hp hu hc
    obtain ⟨hf, he, hn⟩ := s.edgeObserved_inFrame p w (s.resumeAt lock)
    exact ⟨_, h, hf, he, hn, s.le_resumeAt lock, fun h => State.resumeAt_of_own h lock⟩
  · have passes : ∀ n, ∃ t, Host.Outcome.next (if s.frameRuns then s.advance (s.beforeEdge n) else s) = (.next t : Out) ∧
        t.count = max s.count (s.beforeEdge n) ∧ s.keeps t [.count] := fun n =>
      ⟨_, congrArg Host.Outcome.next (if_pos h), rfl, s.advance_keeps _⟩
    exact ⟨passes 750, passes 300, passes 3000, fun n hn => State.beforeEdge_of_own hn n⟩
  · have stays : ∀ n, (Host.Outcome.next (if s.frameRuns then s.advance (s.beforeEdge n) else s) : Out) = .next s := fun n =>
      congrArg Host.Outcome.next (if_neg (by simp [h]))
    exact ⟨stays 750, stays 300, stays 3000, fun w => execFrameEdge_of_not_runs h w⟩

end Sys2Proof.Machine
end

section
/-!
PROOFS. The releases of jobs, the events, and the start of a task (O7).
-/

namespace Sys2Proof.Machine

/-! ### Job releases (R42, R45, R46, R437) -/

/-- The core that a job is bound to. -/
def State.jobCore (s : State) (j : Nat) : Fin 2 := if s.bit (F.frmJobCore j) then 1 else 0

/-- The moment of a job's release: 2 µs after the edge, or the start of its slot (R42). -/
def State.releaseAt (s : State) (j : Nat) : Nat :=
  if min (s.fld (F.frmJobRslot j)) (s.seff - 1) = 0 then s.frm.edgeAt + 1200 else s.slotAt (min (s.fld (F.frmJobRslot j)) (s.seff - 1))

/-- The release of job `j` judged at its moment. -/
def State.judge (s : State) (j : Nat) : State :=
  { s with count := max s.count (s.releaseAt j), frm := { s.frm with judged := s.frm.judged ||| (1#64 <<< j) } }

/-- A judged release by where the job and its core stand. -/
theorem execJobRelease_of_due {j : Fin 64} {s : State} (h : s.releaseDue j = true) :
    execJobRelease j s = .next (
      if s.domLocked (1 + s.jobCore j) then (s.judge j).lockAccess
      else if nth s.frm.jobs j .idle ≠ .idle then (if s.pwr.resumed.isSome then s.judge j else (s.judge j).missRelease j)
      else if s.refusesJobs (s.jobCore j) then (s.judge j).missRelease j
      else if s.domOn (1 + s.jobCore j) then (s.judge j).setJob j (.ready (s.jobCore j) (s.fld (F.frmJobPrio j)))
      else ((s.judge j).setJob j (.waking (s.jobCore j) (s.fld (F.frmJobPrio j)))).demand (1 + s.jobCore j)) :=
  congrArg Host.Outcome.next (if_pos h)

theorem execJobRelease_of_not_due {j : Fin 64} {s : State} (h : s.releaseDue j = false) : execJobRelease j s = .next s :=
  congrArg Host.Outcome.next (if_neg (by simp [h]))

theorem State.judge_keeps (s : State) (j : Nat) : s.keeps (s.judge j) [.count, .jobs] := by
  refine ⟨rfl, fun p hp => ?_⟩
  have h := s.same_refl p
  cases p with
  | count => exact absurd (by simp) hp
  | jobs => exact absurd (by simp) hp
  | _ => exact h

/-- Where a released job stands: ready, or waiting for its core's domain (R42, R46). -/
def State.releasedTo (s : State) (j : Nat) : JobRun :=
  if s.domOn (1 + s.jobCore j) then .ready (s.jobCore j) (s.fld (F.frmJobPrio j)) else .waking (s.jobCore j) (s.fld (F.frmJobPrio j))

section
variable {j : Fin 64} {s : State} (due : s.releaseDue j = true)
include due

theorem execJobRelease_of_locked (h : s.domLocked (1 + s.jobCore j) = true) : execJobRelease j s = .next (s.judge j).lockAccess :=
  (execJobRelease_of_due due).trans (congrArg _ (if_pos h))

variable (open_ : s.domLocked (1 + s.jobCore j) = false)
include open_

theorem execJobRelease_of_running (h : nth s.frm.jobs j .idle ≠ .idle) :
    execJobRelease j s = .next (if s.pwr.resumed.isSome then s.judge j else (s.judge j).missRelease j) := by
  rw [execJobRelease_of_due due, if_neg (by simp [open_]), if_pos h]

theorem execJobRelease_of_refused (h : nth s.frm.jobs j .idle = .idle) (hr : s.refusesJobs (s.jobCore j) = true) :
    execJobRelease j s = .next ((s.judge j).missRelease j) := by
  rw [execJobRelease_of_due due, if_neg (by simp [open_]), if_neg (not_not.mpr h), if_pos hr]

theorem execJobRelease_of_taken (h : nth s.frm.jobs j .idle = .idle) (hr : s.refusesJobs (s.jobCore j) = false) :
    execJobRelease j s = .next (
      if s.domOn (1 + s.jobCore j) then (s.judge j).setJob j (s.releasedTo j)
      else ((s.judge j).setJob j (s.releasedTo j)).demand (1 + s.jobCore j)) := by
  rw [execJobRelease_of_due due, if_neg (by simp [open_]), if_neg (not_not.mpr h), if_neg (by simp [hr])]
  unfold State.releasedTo
  split <;> rfl

end

/-! ### Events (R48, R436, R437) -/

theorem execEventRaise_of_reserved {n : Fin 128} (h : 78 ≤ n.val ∧ n.val ≤ 95) (s : State) : execEventRaise n s = .next s :=
  congrArg Host.Outcome.next (if_pos h)

theorem execEventRaise_of_number {n : Fin 128} (h : n.val < 78 ∨ 95 < n.val) (s : State) : execEventRaise n s = .next (s.raiseEvent n) :=
  congrArg Host.Outcome.next (if_neg (by omega))

theorem State.raiseEvent_of_locked {s : State} {n : Nat} (h : s.evLocked n = true) : s.raiseEvent n = s.lockAccess := if_pos h

theorem State.raiseEvent_of_open {s : State} {n : Nat} (h : s.evLocked n = false) : s.raiseEvent n = s.pendEvent n := if_neg (by simp [h])

/-- A disabled event, and one of an absent feature, is discarded. -/
theorem State.raiseEvent_of_discarded {s : State} {n : Nat} (h : s.bit (F.frmEvtEn n) = false ∨ s.feat (eventFeat n) = false) :
    s.raiseEvent n = s := by
  have hl : s.evLocked n = false := by rcases h with h | h <;> simp [State.evLocked, h]
  rw [State.raiseEvent_of_open hl]
  exact if_pos (by rcases h with h | h <;> simp [h])

/-- The pending bit of an event set for its core. -/
def State.setPend (s : State) (n : Nat) : State :=
  { s with frm := { s.frm with pend := updN s.frm.pend (s.evCore n) (fun q => q ||| (1#128 <<< n)) } }

theorem State.pend_keeps (s : State) (v : Vector (BitVec 128) 2) : s.keeps { s with frm := { s.frm with pend := v } } [.events] := by
  refine ⟨rfl, fun p hp => ?_⟩
  have h := s.same_refl p
  cases p with
  | events => exact absurd (by simp) hp
  | _ => exact h

/-- A merged event noted (R48). -/
def State.noteMerged (s : State) (n : Nat) : State :=
  s.setFld (F.frmEvmrgMerged (n / 32)) (setBits (BitVec.ofNat 32 (s.fld (F.frmEvmrgMerged (n / 32)))) (n % 32) 1 1).toNat

section
variable {s : State} {n : Nat} (he : s.bit (F.frmEvtEn n) = true) (hl : s.evLocked n = false) (hf : s.feat (eventFeat n) = true)
include he hl hf

/-- An enabled event becomes pending, or merges with the one that is. -/
theorem State.pendEvent_of_enabled :
    s.pendEvent n = if (nth s.frm.pend (s.evCore n) 0).getLsbD n then s.noteMerged n else (s.setPend n).demand (1 + s.evCore n) :=
  if_neg (by simp [he, hl, hf])

theorem State.raiseEvent_of_new (h : (nth s.frm.pend (s.evCore n) 0).getLsbD n = false) :
    s.raiseEvent n = (s.setPend n).demand (1 + s.evCore n) := by
  rw [State.raiseEvent_of_open hl, State.pendEvent_of_enabled he hl hf, if_neg (ne_true_of_eq_false h)]

theorem State.raiseEvent_of_pending (h : (nth s.frm.pend (s.evCore n) 0).getLsbD n = true) : s.raiseEvent n = s.noteMerged n := by
  rw [State.raiseEvent_of_open hl, State.pendEvent_of_enabled he hl hf, if_pos h]

end

/-- A field of a whole word reads the value it was given. -/
theorem State.fld_setFld_word {s : State} (hs : s.canonical) {a v : Nat} (hv : v < 2 ^ 32) : (s.setFld ⟨a, 0, 32⟩ v).fld ⟨a, 0, 32⟩ = v := by
  show getBits ((s.setReg _ _).reg _) _ _ = v
  rw [State.reg_setReg_same _ _ _ hs, getBits_setBits_same _ 0 32 _ (Nat.le_refl _), Nat.mod_eq_of_lt hv]

/-- The merge note has the event's bit beside those it had. -/
theorem State.merged_noteMerged {s : State} (hs : s.canonical) (n b : Nat) :
    ((s.noteMerged n).fld (F.frmEvmrgMerged (n / 32))).testBit b =
      (decide (b = n % 32) || (s.fld (F.frmEvmrgMerged (n / 32))).testBit b) := by
  have hold : s.fld (F.frmEvmrgMerged (n / 32)) < 2 ^ 32 := getBits_lt _ _ _
  unfold State.noteMerged
  rw [show (State.setFld s (F.frmEvmrgMerged (n / 32)) _).fld (F.frmEvmrgMerged (n / 32)) = _ from State.fld_setFld_word hs (BitVec.isLt _),
    testBit_setBits _ _ _ _ _ (by omega), BitVec.toNat_ofNat, Nat.mod_eq_of_lt hold]
  by_cases hb : b = n % 32
  · simp [hb]
  · rw [if_neg (by omega), decide_eq_false hb, Bool.false_or]

/-! ### The start of a task (R43, R44, R49, R283, R285, R287) -/

/-- The running task of a core pushed, to resume where it stands. -/
def State.pushTask (s : State) (c : Fin 2) : State := s.setCore c (fun x => { x with stack := s.ctxOf c (s.cr c).pc :: x.stack })

/-- A task of priority `p` may start: the core is idle, its stack empty or below `p` on top, or runs a task below `p` that can be pushed. -/
def State.CanStart (s : State) (c : Fin 2) (p : Nat) : Prop :=
  ((s.cr c).busy = false ∧ (s.cr c).stack = []) ∨ ((s.cr c).busy = false ∧ ∃ e r, (s.cr c).stack = e :: r ∧ e.prio < p) ∨
    ((s.cr c).busy = true ∧ (s.cr c).prio < p ∧ (s.cr c).stack.length < 32)

section
variable {s : State} {c : Fin 2}

theorem State.dispatch_of_idle (h : s.bestReady c = none ∨ s.coreTakes c = false) (job : Bool) : s.dispatch c job = s := by
  unfold State.dispatch
  cases hb : s.bestReady c with
  | none => rfl
  | some t => exact if_pos (.inr (h.resolve_left (by simp [hb])))

variable {p n : Nat} {kind : Bool} (hb : s.bestReady c = some (p, kind, n))
include hb

theorem State.dispatch_of_other {job : Bool} (h : kind ≠ job) : s.dispatch c job = s := by
  unfold State.dispatch
  rw [hb]
  exact if_pos (.inl h)

variable (ht : s.coreTakes c = true)
include ht

/-- The highest ready task of its kind against the task that runs and the one on top of the stack. -/
theorem State.dispatch_of_best :
    s.dispatch c kind =
      if (s.cr c).busy = false then
        (match (s.cr c).stack with
         | e :: _ => if e.prio < p then s.startTask c (p, kind, n) else s
         | [] => s.startTask c (p, kind, n))
      else if (s.cr c).prio < p ∧ (s.cr c).stack.length < 32 then (s.pushTask c).startTask c (p, kind, n)
      else s := by
  unfold State.dispatch
  rw [hb]
  dsimp only
  rw [if_neg (by simp [ht])]
  cases (s.cr c).stack <;> rfl

theorem State.dispatch_of_not_above (hbusy : (s.cr c).busy = true) (h : p ≤ (s.cr c).prio ∨ 32 ≤ (s.cr c).stack.length) :
    s.dispatch c kind = s := by
  rw [State.dispatch_of_best hb ht, if_neg (by simp [hbusy]), if_neg (by omega)]

theorem State.dispatch_of_not_above_top {e : Ctx} {r : List Ctx} (hbusy : (s.cr c).busy = false) (hs : (s.cr c).stack = e :: r)
    (h : p ≤ e.prio) : s.dispatch c kind = s := by
  rw [State.dispatch_of_best hb ht, if_pos hbusy, hs]
  exact if_neg (by omega)

/-- A task starts on a core that has none, or above what it has; a task that runs is pushed. -/
theorem State.dispatch_starts (h : s.CanStart c p) :
    s.dispatch c kind = (if (s.cr c).busy then s.pushTask c else s).startTask c (p, kind, n) := by
  rw [State.dispatch_of_best hb ht]
  rcases h with ⟨hbusy, hs⟩ | ⟨hbusy, e, r, hs, he⟩ | ⟨hbusy, h⟩
  · rw [if_pos hbusy, hs, if_neg (by simp [hbusy])]
  · rw [if_pos hbusy, hs, if_neg (by simp [hbusy])]
    exact if_pos he
  · rw [if_neg (by simp [hbusy]), if_pos h, if_pos hbusy]

end

/-- The core as a task enters it (R43, R49, R283, R285). -/
def Core.enter (k : Core) (pc : Word) (p : Nat) (job : Bool) (n : Nat) : Core :=
  { k with pc := pc, job := job, prio := p, task := if job then n else 64 + n, busy := true, stall := none, stampDue := true
           ech := { k.ech with miss := false } }

theorem State.cr_startTask (s : State) (c : Fin 2) (p : Nat) (job : Bool) (n : Nat) :
    (s.startTask c (p, job, n)).cr c =
      (s.cr c).enter (BitVec.ofNat 32 (s.fld (if job then F.frmJobpcPc n else F.frmEvtpcPc n))) p job n := by
  cases job <;> exact s.cr_setCore_same c _

/-- A job becomes running. -/
theorem State.jobs_startTask_job (s : State) (c : Fin 2) (p : Nat) {n : Nat} (hn : n < 64) :
    nth (s.startTask c (p, true, n)).frm.jobs n .idle = .running ∧ (s.startTask c (p, true, n)).frm.pend = s.frm.pend :=
  ⟨nth_updN_same _ _ _ _ hn, rfl⟩

/-- A handler clears its pending bit. -/
theorem State.pend_startTask_event (s : State) (c : Fin 2) (p n : Nat) :
    nth (s.startTask c (p, false, n)).frm.pend c 0 = nth s.frm.pend c 0 &&& ~~~(1#128 <<< n) ∧
      (s.startTask c (p, false, n)).frm.jobs = s.frm.jobs :=
  ⟨nth_updN_same _ _ _ _ c.isLt, rfl⟩

theorem State.startTask_keeps (s : State) (c : Fin 2) (t : Nat × Bool × Nat) : s.keeps (s.startTask c t) [.core c, .jobs, .events] := by
  obtain ⟨p, job, n⟩ := t
  cases job
  · exact State.keeps_trans (s.setCore_keeps c _) (State.pend_keeps _ _)
  · exact State.keeps_trans (s.setCore_keeps c _) (State.setJob_keeps _ n .running)

/-- What a core that starts task `n` of priority `p` becomes, its stack being `stack`. -/
structure State.StartedTask (s t : State) (c : Fin 2) (p : Nat) (job : Bool) (n : Nat) (stack : List Ctx) : Prop where
  busy : (t.cr c).busy = true
  prio : (t.cr c).prio = p
  mode : (t.cr c).job = job
  task : (t.cr c).task = if job then n else 64 + n
  pc : (t.cr c).pc = BitVec.ofNat 32 (s.fld (if job then F.frmJobpcPc n else F.frmEvtpcPc n))
  stack : (t.cr c).stack = stack
  words : (t.cr c).w = (s.cr c).w
  running : job = true → n < 64 → nth t.frm.jobs n .idle = .running ∧ t.frm.pend = s.frm.pend
  handled : job = false → n < 128 → nth t.frm.pend c 0 = nth s.frm.pend c 0 &&& ~~~(1#128 <<< n) ∧ t.frm.jobs = s.frm.jobs
  rest : s.keeps t [.core c, .jobs, .events]

theorem State.startTask_started (s : State) (c : Fin 2) (p : Nat) (job : Bool) (n : Nat) :
    s.StartedTask (s.startTask c (p, job, n)) c p job n (s.cr c).stack := by
  have hk := s.cr_startTask c p job n
  constructor
  case running => rintro rfl hn; exact s.jobs_startTask_job c p hn
  case handled => rintro rfl hn; exact s.pend_startTask_event c p n
  case rest => exact s.startTask_keeps c _
  all_goals rw [hk]; rfl

/-- The running task pushed first. -/
theorem State.pushTask_started (s : State) (c : Fin 2) (p : Nat) (job : Bool) (n : Nat) :
    s.StartedTask ((s.pushTask c).startTask c (p, job, n)) c p job n (s.ctxOf c (s.cr c).pc :: (s.cr c).stack) := by
  have hcore : (s.pushTask c).cr c = { s.cr c with stack := s.ctxOf c (s.cr c).pc :: (s.cr c).stack } := s.cr_setCore_same c _
  have h := (s.pushTask c).startTask_started c p job n
  exact ⟨h.busy, h.prio, h.mode, h.task, h.pc, h.stack.trans (by rw [hcore]), h.words.trans (by rw [hcore]), h.running, h.handled,
    State.keeps_trans (s.setCore_keeps c _) h.rest⟩

/-- The command that starts a task of a kind. -/
theorem exec_dispatch (c : Fin 2) (job : Bool) (s : State) :
    exec (if job then .jobStart c else .eventDispatch c) s = .next (s.dispatch c job) := by
  cases job <;> rfl

/-! ### The statement -/

/-- The start of a task, by what the core does (R43, R44, R49, R283, R285, R287). -/
theorem State.dispatch_started {s : State} {c : Fin 2} {p n : Nat} {job : Bool} (hb : s.bestReady c = some (p, job, n))
    (ht : s.coreTakes c = true) (h : s.CanStart c p) :
    s.StartedTask (s.dispatch c job) c p job n ((if (s.cr c).busy then [s.ctxOf c (s.cr c).pc] else []) ++ (s.cr c).stack) := by
  rw [State.dispatch_starts hb ht h]
  cases (s.cr c).busy
  · exact s.startTask_started c p job n
  · exact s.pushTask_started c p job n

/-- Settles O7: a due release by `State.judge`, an event by `State.pendEvent_of_enabled`, the start of a task by `State.dispatch_of_best`. -/
theorem jobsAndEvents : Obligations.JobsAndEvents := by
  refine ⟨fun j s h => execJobRelease_of_not_due h, fun j s due => ?_,
    fun n s => ⟨fun h => ?_, fun hn hl => ?_, fun hn he hl hf => ⟨fun h => ?_, fun h hs => ?_⟩⟩,
    fun c s => ⟨fun h => ?_, fun p n job hb ht => ⟨?_, fun hbusy h => ?_, fun e r hbusy hs h => ?_, fun h => ?_⟩⟩⟩
  · refine ⟨s.judge j, rfl, rfl, rfl, s.judge_keeps j, execJobRelease_of_locked due, execJobRelease_of_running due,
      execJobRelease_of_refused due,
      fun ho h hr => ⟨(s.judge j).setJob j (s.releasedTo j), ?_, fun k hk => ?_, rfl, State.setJob_keeps _ j _, ?_⟩⟩
    · exact nth_updN_same _ _ _ _ j.isLt
    · exact nth_updN_other _ _ _ _ _ hk.symm
    · exact execJobRelease_of_taken due ho h hr
  · rcases h with h | h
    · exact execEventRaise_of_reserved h s
    · by_cases hn : 78 ≤ n.val ∧ n.val ≤ 95
      · exact execEventRaise_of_reserved hn s
      · exact (execEventRaise_of_number (by omega) s).trans (congrArg _ (State.raiseEvent_of_discarded h))
  · exact (execEventRaise_of_number hn s).trans (congrArg _ (State.raiseEvent_of_locked hl))
  · refine ⟨s.setPend n, (execEventRaise_of_number hn s).trans (congrArg _ (State.raiseEvent_of_new he hl hf h)), ?_, fun k hk => ?_,
      s.pend_keeps _⟩
    · exact nth_updN_same _ _ _ _ (s.evCore_lt n)
    · exact nth_updN_other _ _ _ _ _ hk.symm
  · exact ⟨s.noteMerged n, (execEventRaise_of_number hn s).trans (congrArg _ (State.raiseEvent_of_pending he hl hf h)),
      fun b _ => State.merged_noteMerged hs n b, s.setFld_keeps _ _⟩
  · exact ⟨(exec_dispatch c true s).trans (congrArg _ (State.dispatch_of_idle h true)),
      (exec_dispatch c false s).trans (congrArg _ (State.dispatch_of_idle h false))⟩
  · cases job
    · exact (exec_dispatch c true s).trans (congrArg _ (State.dispatch_of_other hb (by decide)))
    · exact (exec_dispatch c false s).trans (congrArg _ (State.dispatch_of_other hb (by decide)))
  · exact (exec_dispatch c job s).trans (congrArg _ (State.dispatch_of_not_above hb ht hbusy h))
  · exact (exec_dispatch c job s).trans (congrArg _ (State.dispatch_of_not_above_top hb ht hbusy hs h))
  · obtain ⟨hbusy, hprio, hmode, htask, hpc, hstack, hwords, hrun, hhandled, hrest⟩ := State.dispatch_started hb ht h
    exact ⟨_, exec_dispatch c job s, hbusy, hprio, hmode, htask, hpc, hstack, hwords, hrun, hhandled, hrest⟩

end Sys2Proof.Machine
end

section
/-!
PROOFS. The stream of a slot's samples (O13): what a store by a master at the Granary leaves of the stream and of the owners, and what
the Baler's store does at banks that are its own.
-/

namespace Sys2Proof.Machine

theorem bankOf_lt {a : Nat} (h : inGranary a = true) : bankOf a < 16 := by
  simp only [inGranary, bankOf, Bool.and_eq_true, decide_eq_true_eq] at h ⊢; omega

/-! ### What a store at the Granary leaves (R403, R404, R409, R410) -/

/-- The stream and the owners of the banks stay. -/
structure StreamKept (s t : State) : Prop where
  drop : t.sw.strDrop = s.sw.strDrop
  done : t.sw.strDone = s.sw.strDone
  owner : ∀ b, b < 16 → t.owner b = s.owner b

section
variable {s t : State}

theorem StreamKept.refl (s : State) : StreamKept s s := ⟨rfl, rfl, fun _ _ => rfl⟩

theorem StreamKept.trans {u : State} (h : StreamKept s t) (k : StreamKept t u) : StreamKept s u :=
  ⟨k.drop.trans h.drop, k.done.trans h.done, fun b hb => (k.owner b hb).trans (h.owner b hb)⟩

theorem StreamKept.mayUse (h : StreamKept s t) {b : Nat} (hb : b < 16) (who : Nat) : t.mayUse who b = s.mayUse who b := by
  unfold State.mayUse
  rw [h.owner b hb]

/-- A change of neither the registers nor the switching block. -/
theorem StreamKept.of_eq {u : State} (h : StreamKept s t) (hr : u.regs = t.regs := by rfl) (hw : u.sw = t.sw := by rfl) : StreamKept s u :=
  h.trans ⟨by rw [hw], by rw [hw], fun b _ => by unfold State.owner State.fld State.reg; rw [hr]⟩

/-- A register that is no bank's owner. -/
theorem StreamKept.setReg (h : StreamKept s t) (a : Nat) (w : Word) (ha : a < 0x40070100 ∨ 0x40070140 ≤ a) : StreamKept s (t.setReg a w) :=
  h.trans ⟨rfl, rfl, fun b hb => by
    unfold State.owner State.fld
    rw [State.reg_setReg_other _ _ _ _ (by simp only [F.grnOwnOwner]; omega)]⟩

theorem StreamKept.setFld (h : StreamKept s t) (f : Fld) (v : Nat) (ha : f.addr < 0x40070100 ∨ 0x40070140 ≤ f.addr) :
    StreamKept s (t.setFld f v) := h.setReg _ _ ha

theorem StreamKept.reacted {u : State} (h : StreamKept s t) (k : Reacted t u) : StreamKept s u := by
  obtain ⟨-, hdrop, -, hdone, -⟩ := k.stream
  refine h.trans ⟨hdrop, hdone, fun b hb => ?_⟩
  unfold State.owner State.fld
  rw [k.onlyRegs]
  all_goals intros; simp only [F.grnOwnOwner, F.winStickyStk, F.frmEvmrgMerged, F.pwrDctlReq, F.grnBpwrState, F.pwrStatLockacc, F.accEvcCause]; omega

theorem StreamKept.raiseSource (h : StreamKept s t) (n : Nat) (hn : n < 192 := by decide) : StreamKept s (t.raiseSource n) :=
  h.reacted ((Reacted.refl t).raiseSource n hn)

theorem StreamKept.ite {p : Prop} [Decidable p] {u v : State} (h : StreamKept s u) (k : StreamKept s v) : StreamKept s (if p then u else v) := by
  split
  · exact h
  · exact k

theorem StreamKept.setGbank (h : StreamKept s t) (b : Nat) (f : GBank → GBank) : StreamKept s (t.setGbank b f) := h.of_eq

theorem StreamKept.deliverGot (h : StreamKept s t) (who : Nat) (v v2 : TWord) : StreamKept s (t.deliverGot who v v2) := h.of_eq

theorem StreamKept.nonOwner (h : StreamKept s t) (a who : Nat) (write fetch : Bool) : StreamKept s (t.nonOwner a who write fetch) := by
  have hn := (h.setFld F.grnStatNown 1 (by decide)).setFld F.grnNownaAddr a (by decide)
  have hi := ((hn.setFld F.grnNowniWr (b2n write) (by decide)).setFld F.grnNowniFetch (b2n fetch) (by decide)).setFld F.grnNowniMaster who (by decide)
  exact (hi.setGbank (bankOf a) _).raiseSource 18

theorem StreamKept.heal (h : StreamKept s t) (a : Nat) : StreamKept s (t.heal a) := .ite h h.of_eq

theorem StreamKept.grnStore (h : StreamKept s t) (b w : Nat) (v : TWord) : StreamKept s (t.grnStore b w v) :=
  (h.heal (grnAddr b w)).of_eq

theorem StreamKept.resolved (h : StreamKept s t) (a : Nat) (e : Ecc) : StreamKept s (t.resolved a e).2 := by
  unfold State.resolved
  dsimp only
  split
  · exact h.of_eq
  · exact h.of_eq
  · exact h

theorem StreamKept.correctedCount (h : StreamKept s t) (b w : Nat) : StreamKept s (t.correctedCount b w) :=
  (h.setFld _ _ (by simp only [F.grnLceCount]; omega)).setGbank _ _

theorem StreamKept.uncorrectableCount (h : StreamKept s t) (b : Nat) : StreamKept s (t.uncorrectableCount b) :=
  ((h.setFld F.grnStatUe 1 (by decide)).setFld _ _ (by simp only [F.grnUeCount]; omega)).setGbank _ _

theorem StreamKept.corrected (h : StreamKept s t) (b w : Nat) : StreamKept s (t.corrected b w) :=
  have k := (h.correctedCount b w).raiseSource 16
  .ite (k.raiseSource 22) k

theorem StreamKept.checked (h : StreamKept s t) (b w : Nat) (e : Ecc) : StreamKept s (t.checked b w e) := by
  cases e
  case single => exact h.corrected b w
  case double => exact (h.uncorrectableCount b).raiseSource 17
  all_goals exact h

theorem StreamKept.checkedFor (h : StreamKept s t) (who b w : Nat) (e : Ecc) : StreamKept s (t.checkedFor who b w e) := by
  refine .ite ?_ (h.checked b w e)
  cases e
  case single => exact h.correctedCount b w
  case double => exact h.uncorrectableCount b
  all_goals exact h

theorem StreamKept.readWord (h : StreamKept s t) (who b w : Nat) (e : Ecc) : StreamKept s (t.readWord who b w e).2.2 :=
  (h.resolved _ e).checkedFor who b w _

theorem StreamKept.performed (h : StreamKept s t) (b : Nat) (g : GAcc) (e : Ecc) : StreamKept s (t.performed b g e).2.2 := by
  unfold State.performed
  split
  · exact h.grnStore b g.word _
  · exact h.readWord g.who b g.word e

theorem StreamKept.granted (h : StreamKept s t) (b : Nat) (g : GAcc) (e : Ecc) : StreamKept s (t.granted b g e) := by
  unfold State.granted
  extract_lets r s1 n r' q
  have hr : StreamKept s s1 := (h.resolved _ e).checked b g.word _
  have hn : StreamKept s n := h.nonOwner _ _ _ _
  have hq : StreamKept s q.2.2 := st_pite2 (P := StreamKept s) ((h.performed b g e).performed b (gaccSecond g) .clean) (h.performed b g e)
  exact .ite (.ite ((hr.heal _).setGbank _ _) hr)
    (.ite (.ite hn (hn.deliverGot _ _ _)) (.ite hq (.ite hq (hq.deliverGot _ _ _))))

theorem StreamKept.laneTurn (h : StreamKept s t) (who a : Nat) : StreamKept s (t.laneTurn who a) := by
  refine StreamKept.setGbank (t := t.laneServe who a) ?_ _ _
  refine st_foldl (P := StreamKept s) (fun u _ k => ?_) h
  split
  · exact .ite (StreamKept.granted (k.setGbank _ _) _ _ _) k
  · exact k

/-- No store by the Baler at the Granary changes the stream or an owner. -/
theorem StreamKept.grnWrite (h : StreamKept s t) {a : Nat} (ha : inGranary a = true) (v : TWord) : StreamKept s (t.grnWrite 2 a v) := by
  have hb := bankOf_lt ha
  have hserved := h.laneTurn 2 a
  refine .ite ?_ (.ite ?_ (.ite ?_ ?_))
  · exact StreamKept.nonOwner (.ite hserved h) _ _ _ _
  · exact h.reacted (Reacted.refl t).lockAccess
  · exact ((h.setGbank _ _).setFld F.grnStatWakef 1 (by decide)).raiseSource 21
  · exact StreamKept.grnStore (.ite hserved (h.reacted ((Reacted.refl t).demand _ (by omega)))) _ _ _

end

/-! ### A store by the Baler at a bank of its own (R401, R409, R410) -/

/-- A store by the Baler at an address goes through: the bank is its own, not locked off, ON or able to wake, and no other access waits there. -/
structure State.Serves (s : State) (a : Nat) : Prop where
  home : inGranary a = true
  own : s.mayUse 2 (bankOf a) = true
  unlocked : s.domLocked (16 + bankOf a) = false
  wakes : s.wakeFails a = false
  idle : (s.gbank (bankOf a)).wait = []

/-- A change that leaves the outputs and every bank's readiness. -/
structure Quiet (s t : State) : Prop where
  out : ∀ o, t.out o = s.out o
  serves : ∀ a, s.Serves a → t.Serves a

section
variable {s t : State}

theorem Quiet.refl (s : State) : Quiet s s := ⟨fun _ => rfl, fun _ h => h⟩

theorem Quiet.trans {u : State} (h : Quiet s t) (k : Quiet t u) : Quiet s u :=
  ⟨fun o => (k.out o).trans (h.out o), fun a ha => k.serves a (h.serves a ha)⟩

/-- A change of a bank that adds no access to its queue. -/
theorem Quiet.setGbank (s : State) (b : Nat) (f : GBank → GBank) (hf : ∀ x : GBank, (f x).wait = x.wait) : Quiet s (s.setGbank b f) := by
  refine ⟨fun _ => rfl, fun a h => ⟨h.home, h.own, h.unlocked, h.wakes, Eq.trans ?_ h.idle⟩⟩
  show (nth (updN s.grn.bank b f) (bankOf a) {}).wait = (nth s.grn.bank (bankOf a) {}).wait
  rw [nth_updN]
  split
  · exact hf _
  · rfl

theorem Quiet.mwrite (s : State) (a : Nat) (v : TWord) : Quiet s (s.mwrite a v) :=
  ⟨fun _ => rfl, fun _ h => ⟨h.home, h.own, h.unlocked, h.wakes, h.idle⟩⟩

/-- What a reading says of a word's check bits is no matter of a bank's wake. -/
theorem Quiet.heal (s : State) (a : Nat) : Quiet s (s.heal a) := by
  unfold State.heal
  split
  · exact Quiet.refl s
  · refine ⟨fun _ => rfl, fun x h => ⟨h.home, h.own, h.unlocked, Eq.trans ?_ h.wakes, h.idle⟩⟩
    have hpin := (s.setPin_keeps (.ecc (a / 4 * 4)) 0).2 (.pin (.bankFails (bankOf x))) (by simp)
    exact congrArg (fun v => !s.domOn (16 + bankOf x) && !s.domLocked (16 + bankOf x) && v != 0) hpin

theorem Quiet.grnStore (s : State) (b w : Nat) (v : TWord) : Quiet s (s.grnStore b w v) :=
  ((Quiet.heal s _).trans (Quiet.mwrite _ _ _)).trans (Quiet.setGbank _ _ _ (fun _ => rfl))

/-- A register that is neither a bank's owner nor the lock. -/
theorem Quiet.setReg (s : State) (a : Nat) (w : Word) (ha : a < 0x40070100 ∨ 0x40070140 ≤ a) (hl : a ≠ F.pwrLockLk.addr) :
    Quiet s (s.setReg a w) := by
  have hlock : ∀ d, (s.setReg a w).domLocked d = s.domLocked d := fun d => by
    unfold State.domLocked State.fld
    rw [State.reg_setReg_other _ _ _ _ hl.symm]
  refine ⟨fun _ => rfl, fun x h => ⟨h.home, ?_, ?_, ?_, h.idle⟩⟩
  · exact (((StreamKept.refl s).setReg a w ha).mayUse (bankOf_lt h.home) 2).trans h.own
  · exact (hlock _).trans h.unlocked
  · refine Eq.trans ?_ h.wakes
    unfold State.wakeFails
    rw [hlock]; rfl

/-- A bank's request. -/
theorem Quiet.bpwrReq (s : State) {b : Nat} (hb : b < 16) : Quiet s (s.setFld (F.grnBpwrState b) 0) :=
  Quiet.setReg s _ _ (.inr (Nat.le_add_right 0x40070140 (4 * b))) (by simp only [F.grnBpwrState, F.pwrLockLk]; omega)

theorem Quiet.setWake (s : State) (b : Nat) : Quiet s (s.setWake b) := Quiet.setGbank s b _ (fun _ => rfl)

/-- A domain that goes on in the state it is in. -/
theorem Quiet.setDom (s : State) (d : Nat) (f : Dom → Dom) (hf : ∀ x : Dom, (f x).st = x.st) : Quiet s (s.setDom d f) := by
  have hon : ∀ e, (s.setDom d f).domOn e = s.domOn e := fun e => by
    show (e = 0 || decide ((nth (updN s.pwr.dom d f) e {}).st = .on)) = (e = 0 || decide ((nth s.pwr.dom e {}).st = .on))
    rw [nth_updN]
    split
    · rw [hf]
    · rfl
  refine ⟨fun _ => rfl, fun x h => ⟨h.home, h.own, h.unlocked, Eq.trans ?_ h.wakes, h.idle⟩⟩
  unfold State.wakeFails
  rw [hon]; rfl

/-- The demand on a bank begins its wake, or holds it (R409, R425, R436). -/
theorem Quiet.demandBank (s : State) {b : Nat} (hb : b < 16) : Quiet s (s.demand (16 + b)) := by
  unfold State.demand
  split
  · exact Quiet.refl s
  split
  · exact Quiet.setDom s _ _ (fun _ => rfl)
  dsimp only
  rw [if_neg (by omega)]
  refine ((Quiet.setDom s _ _ ?_).trans (Quiet.bpwrReq _ (by omega))).trans (Quiet.setWake _ _)
  exact fun _ => rfl

/-- An idle bank grants no access. -/
theorem GBank.next_of_idle {x : GBank} (h : x.wait = []) (l : Nat) : x.next l = none := by
  unfold GBank.next GBank.order
  rw [h]
  simp

theorem State.laneServe_of_idle {s : State} {a : Nat} (h : (s.gbank (bankOf a)).wait = []) (who : Nat) : s.laneServe who a = s := by
  unfold State.laneServe
  dsimp only
  induction upto 8 with
  | nil => rfl
  | cons _ l ih => rw [List.foldl_cons, GBank.next_of_idle h]; exact ih

theorem Quiet.laneTurn {s : State} {a : Nat} (h : (s.gbank (bankOf a)).wait = []) (who : Nat) : Quiet s (s.laneTurn who a) := by
  unfold State.laneTurn
  rw [State.laneServe_of_idle h]
  exact Quiet.setGbank _ _ _ (fun _ => rfl)

/-- A word of the Granary by its bank and its number in the bank. -/
theorem grnAddr_word {a : Nat} (h : inGranary a = true) : grnAddr (bankOf a) (wordOf a) / 4 = a / 4 := by
  simp only [inGranary, Bool.and_eq_true, decide_eq_true_eq] at h
  unfold grnAddr bankOf wordOf
  omega

/-- A word read after a store to a word. -/
theorem State.mread_grnStore {s : State} (hs : s.canonical) (b w : Nat) (v : TWord) (x : Nat) :
    (s.grnStore b w v).mread x = if x / 4 = grnAddr b w / 4 then v else s.mread x := by
  have hmem : (s.heal (grnAddr b w)).mem = s.mem := by unfold State.heal; split <;> rfl
  have hc : (s.heal (grnAddr b w)).canonical := State.heal_stable canonical_lasting.toStable _ hs
  show ((s.heal (grnAddr b w)).mwrite (grnAddr b w) v).mread x = _
  split
  · next h => exact State.mread_mwrite_same _ _ _ _ hc h
  · next h => exact (State.mread_mwrite_other _ _ _ _ h).trans (by unfold State.mread; rw [hmem])

/-- A store by the Baler that goes through. -/
theorem State.grnWrite_of_serves {s : State} {a : Nat} (h : s.Serves a) (v : TWord) :
    s.grnWrite 2 a v = (if s.domOn (16 + bankOf a) then s.laneTurn 2 a else s.demand (16 + bankOf a)).grnStore (bankOf a) (wordOf a) v := by
  unfold State.grnWrite
  dsimp only
  rw [if_neg (by simp [h.own]), if_neg (by simp [h.unlocked]), if_neg (by simp [h.wakes])]

/-- What such a store leaves: every bank as ready as it was, every output, and every other word. -/
theorem State.grnWrite_quiet {s : State} {a : Nat} (h : s.Serves a) (v : TWord) : Quiet s (s.grnWrite 2 a v) := by
  rw [State.grnWrite_of_serves h]
  refine Quiet.trans ?_ (Quiet.grnStore _ _ _ _)
  split
  · exact Quiet.laneTurn h.idle 2
  · exact Quiet.demandBank s (bankOf_lt h.home)

theorem State.mread_grnWrite {s : State} {a : Nat} (hs : s.canonical) (h : s.Serves a) (v : TWord) (x : Nat) :
    (s.grnWrite 2 a v).mread x = if x / 4 = a / 4 then v else s.mread x := by
  have hc := canonical_lasting.toStable
  have hb := bankOf_lt h.home
  rw [State.grnWrite_of_serves h]
  split
  · rw [State.mread_grnStore (State.laneTurn_stable hc _ _ hs), grnAddr_word h.home]
    unfold State.laneTurn
    rw [State.laneServe_of_idle h.idle, State.mread_setGbank]
  · rw [State.mread_grnStore (State.demand_stable hc _ hs), grnAddr_word h.home]
    unfold State.mread
    rw [((Reacted.refl s).demand (16 + bankOf a) (by omega)).mem]

end

/-! ### The stream's stores of a slot (R85, R86) -/

/-- The stores of the current slot: each selected output's place in the ring and its latest sample. -/
def streamItems (s : State) : List (Nat × TWord) :=
  (streamSlots s).zipIdx.map (fun p => (streamAddr s p.2, TWord.int (s.lastSample p.1)))

/-- One store of the stream; one that meets a bank which the Baler does not own drops the rest of the frame. -/
def State.streamStore (t : State) (p : Nat × TWord) : State :=
  if t.sw.strDrop then t
  else if t.mayUse 2 (bankOf p.1) then t.grnWrite 2 p.1 p.2
  else { t.grnWrite 2 p.1 p.2 with sw := { (t.grnWrite 2 p.1 p.2).sw with strDrop := true } }

/-- The stream has a slot to write. -/
def State.streamWrites (s : State) : Bool :=
  s.sw.strOn && !s.sw.strDrop && s.bit F.swStrcfgEn && decide (s.sw.strDone ≤ s.frm.slot) && decide (s.frm.slot < s.sw.smpDone)

/-- The slot taken as written, before its stores. -/
def State.streamBegun (s : State) : State := { s with sw := { s.sw with strDone := s.frm.slot + 1 } }

theorem execStreamSampleWrite_eq (s : State) :
    execStreamSampleWrite s =
      if s.streamWrites = false then .next s
      else if (streamItems s).any (fun p => !inGranary p.1) then .fault (.uncheckedUse 86)
      else
        let u := (streamItems s).foldl State.streamStore s.streamBegun
        .next (if s.frm.slot + 1 = s.seff ∧ u.sw.strDrop = false then
          { u with sw := { u.sw with strLast := s.frm.frame.toNat % 2 ^ 32 } } else u) := by
  have hw : (!s.sw.strOn || s.sw.strDrop || !s.bit F.swStrcfgEn || decide (s.frm.slot < s.sw.strDone) || decide (s.sw.smpDone ≤ s.frm.slot)) =
      !s.streamWrites := by
    simp only [State.streamWrites, Bool.not_and, Bool.not_not, ← decide_not, Nat.not_le, Nat.not_lt]
  unfold execStreamSampleWrite
  dsimp only
  rw [hw]
  cases s.streamWrites <;> rfl

theorem streamItems_length (s : State) : (streamItems s).length = (streamSlots s).length := by simp [streamItems]

theorem streamItems_getElem (s : State) {k : Nat} (h : k < (streamItems s).length) :
    (streamItems s)[k] = (streamAddr s k, TWord.int (s.lastSample ((streamSlots s).getD k 0))) := by
  have hk : k < (streamSlots s).length := streamItems_length s ▸ h
  simp [streamItems, hk]

theorem mem_streamItems {s : State} {p : Nat × TWord} :
    p ∈ streamItems s ↔ ∃ k, k < (streamSlots s).length ∧ p = (streamAddr s k, TWord.int (s.lastSample ((streamSlots s).getD k 0))) := by
  rw [List.mem_iff_getElem]
  constructor
  · rintro ⟨k, hk, rfl⟩
    exact ⟨k, streamItems_length s ▸ hk, streamItems_getElem s hk⟩
  · rintro ⟨k, hk, rfl⟩
    exact ⟨k, (streamItems_length s).symm ▸ hk, streamItems_getElem s _⟩

theorem State.slots_pos (s : State) : 0 < s.slots := by
  unfold State.slots
  split
  · decide
  · split <;> decide

/-- The places of a slot in the ring are words apart. -/
theorem streamAddr_word_ne (s : State) {j k : Nat} (h : j < k) : streamAddr s j / 4 ≠ streamAddr s k / 4 := by
  have hlt : j * s.slots < k * s.slots := Nat.mul_lt_mul_of_pos_right h s.slots_pos
  unfold streamAddr
  generalize s.fld F.swStrbaseAddr = base
  generalize (streamSlots s).length * s.slots * (s.frm.frame.toNat % max 1 (s.fld F.swStrlenFrames)) = ring
  omega

theorem streamItems_apart (s : State) : (streamItems s).Pairwise (fun p q => p.1 / 4 ≠ q.1 / 4) := by
  rw [List.pairwise_iff_getElem]
  intro j k hj hk hjk
  rw [streamItems_getElem s hj, streamItems_getElem s hk]
  exact streamAddr_word_ne s hjk

/-- The stream is dropped by the first store that meets a bank which the Baler does not own; nothing else of it changes. -/
theorem streamStores_drop {l : List (Nat × TWord)} (hl : ∀ p ∈ l, inGranary p.1 = true) (t : State) :
    (l.foldl State.streamStore t).sw.strDone = t.sw.strDone ∧
      (l.foldl State.streamStore t).sw.strDrop = (t.sw.strDrop || l.any (fun p => !t.mayUse 2 (bankOf p.1))) := by
  induction l generalizing t with
  | nil => simp
  | cons p l ih =>
    have hp : inGranary p.1 = true := hl p List.mem_cons_self
    have hrest : ∀ q ∈ l, inGranary q.1 = true := fun q hq => hl q (List.mem_cons_of_mem _ hq)
    have hk : StreamKept t (t.grnWrite 2 p.1 p.2) := (StreamKept.refl t).grnWrite hp p.2
    obtain ⟨hdone, hdrop⟩ := ih hrest (t.streamStore p)
    rw [List.foldl_cons, hdone, hdrop, List.any_cons]
    by_cases hd : t.sw.strDrop = true
    · have e : t.streamStore p = t := if_pos hd
      simp [e, hd]
    · by_cases hu : t.mayUse 2 (bankOf p.1) = true
      · have e : t.streamStore p = t.grnWrite 2 p.1 p.2 := (if_neg hd).trans (if_pos hu)
        have hown : l.any (fun q => !(t.grnWrite 2 p.1 p.2).mayUse 2 (bankOf q.1)) = l.any (fun q => !t.mayUse 2 (bankOf q.1)) := by
          rw [Bool.eq_iff_iff, List.any_eq_true, List.any_eq_true]
          exact exists_congr fun q => and_congr_right fun hq => by rw [hk.mayUse (bankOf_lt (hrest q hq))]
        rw [e, hk.done, hk.drop, hown, hu]
        simp
      · have e : t.streamStore p = { t.grnWrite 2 p.1 p.2 with sw := { (t.grnWrite 2 p.1 p.2).sw with strDrop := true } } :=
          (if_neg hd).trans (if_neg hu)
        rw [e]
        simp [hk.done, hu]

/-- Stores that all go through put each word at its place and change no output. -/
theorem streamStores_through {l : List (Nat × TWord)} (hl : l.Pairwise (fun p q => p.1 / 4 ≠ q.1 / 4)) {t : State} (ht : t.canonical)
    (hd : t.sw.strDrop = false) (hs : ∀ p ∈ l, t.Serves p.1) :
    (∀ p ∈ l, (l.foldl State.streamStore t).mread p.1 = p.2) ∧
      (∀ x, (∀ p ∈ l, x / 4 ≠ p.1 / 4) → (l.foldl State.streamStore t).mread x = t.mread x) ∧
      ∀ o, (l.foldl State.streamStore t).out o = t.out o := by
  induction l generalizing t with
  | nil => simp
  | cons p l ih =>
    have hp : t.Serves p.1 := hs p List.mem_cons_self
    have hq := State.grnWrite_quiet hp p.2
    have hm := State.mread_grnWrite ht hp p.2
    obtain ⟨hapart, hl⟩ := List.pairwise_cons.mp hl
    have hdrop : (t.grnWrite 2 p.1 p.2).sw.strDrop = false := (((StreamKept.refl t).grnWrite hp.home p.2).drop).trans hd
    obtain ⟨hread, hother, hout⟩ := ih hl (State.grnWrite_stable canonical_lasting.toStable 2 p.1 p.2 ht) hdrop
      (fun q hq' => hq.serves _ (hs q (List.mem_cons_of_mem _ hq')))
    have e : t.streamStore p = t.grnWrite 2 p.1 p.2 := (if_neg (by simp [hd])).trans (if_pos hp.own)
    rw [List.foldl_cons, e]
    refine ⟨?_, fun x hx => ?_, fun o => (hout o).trans (hq.out o)⟩
    · intro q hq'
      rcases List.mem_cons.mp hq' with rfl | hq'
      · rw [hother _ hapart, hm, if_pos rfl]
      · exact hread q hq'
    · rw [hother x (fun q hq' => hx q (List.mem_cons_of_mem _ hq')), hm, if_neg (hx p List.mem_cons_self)]

theorem execStreamSampleWrite_of_idle {s : State} (h : s.streamWrites = false) : execStreamSampleWrite s = .next s :=
  (execStreamSampleWrite_eq s).trans (if_pos h)

/-- A ring beyond the Granary is not checked (R85). -/
theorem execStreamSampleWrite_of_beyond {s : State} (h : s.streamWrites = true)
    (hk : ∃ k, k < (streamSlots s).length ∧ inGranary (streamAddr s k) = false) : execStreamSampleWrite s = .fault (.uncheckedUse 86) := by
  obtain ⟨k, hlt, hout⟩ := hk
  have hany : (streamItems s).any (fun p => !inGranary p.1) = true :=
    List.any_eq_true.mpr ⟨_, mem_streamItems.mpr ⟨k, hlt, rfl⟩, by simp [hout]⟩
  rw [execStreamSampleWrite_eq, if_neg (by simp [h]), if_pos hany]

/-- The stores of a slot in a ring that lies in the Granary; the frame of the last full write may be noted after them. -/
theorem execStreamSampleWrite_of_within {s : State} (h : s.streamWrites = true)
    (hk : ∀ k, k < (streamSlots s).length → inGranary (streamAddr s k) = true) :
    ∃ last, execStreamSampleWrite s = .next { (streamItems s).foldl State.streamStore s.streamBegun with
      sw := { ((streamItems s).foldl State.streamStore s.streamBegun).sw with strLast := last } } := by
  have hany : ¬(streamItems s).any (fun p => !inGranary p.1) = true := by
    rw [List.any_eq_true]
    rintro ⟨p, hp, hout⟩
    obtain ⟨k, hlt, rfl⟩ := mem_streamItems.mp hp
    simp [hk k hlt] at hout
  rw [execStreamSampleWrite_eq, if_neg (by simp [h]), if_neg hany]
  dsimp only
  split
  · exact ⟨_, rfl⟩
  · exact ⟨_, rfl⟩

/-- The stream write of a sampled slot (R85, R86). -/
theorem streamSampleWrite_spec {s : State} (h : s.streamWrites = true)
    (hk : ∀ k, k < (streamSlots s).length → inGranary (streamAddr s k) = true) :
    ∃ t, execStreamSampleWrite s = .next t ∧ t.sw.strDone = s.frm.slot + 1 ∧
      (t.sw.strDrop = true ↔ ∃ k, k < (streamSlots s).length ∧ s.mayUse 2 (bankOf (streamAddr s k)) = false) ∧
      (s.canonical → (∀ k, k < (streamSlots s).length → s.Serves (streamAddr s k)) →
        (∀ k, k < (streamSlots s).length → t.mread (streamAddr s k) = TWord.int (s.lastSample ((streamSlots s).getD k 0))) ∧
          ∀ o, t.out o = s.out o) := by
  have hbegun : s.sw.strDrop = false := by
    simp only [State.streamWrites, Bool.and_eq_true, Bool.not_eq_true'] at h
    obtain ⟨⟨⟨⟨-, hd⟩, -⟩, -⟩, -⟩ := h
    exact hd
  have hin : ∀ p ∈ streamItems s, inGranary p.1 = true := fun p hp => by
    obtain ⟨k, hlt, rfl⟩ := mem_streamItems.mp hp
    exact hk k hlt
  obtain ⟨last, he⟩ := execStreamSampleWrite_of_within h hk
  obtain ⟨hdone, hdrop⟩ := streamStores_drop hin s.streamBegun
  refine ⟨_, he, hdone, ?_, fun hs hready => ?_⟩
  · show ((streamItems s).foldl State.streamStore s.streamBegun).sw.strDrop = true ↔ _
    rw [hdrop, show s.streamBegun.sw.strDrop = false from hbegun, Bool.false_or, List.any_eq_true]
    constructor
    · rintro ⟨p, hp, hu⟩
      obtain ⟨k, hlt, rfl⟩ := mem_streamItems.mp hp
      exact ⟨k, hlt, (Bool.not_eq_true' _).mp hu⟩
    · rintro ⟨k, hlt, hu⟩
      exact ⟨_, mem_streamItems.mpr ⟨k, hlt, rfl⟩, (Bool.not_eq_true' _).mpr hu⟩
  · have hserves : ∀ p ∈ streamItems s, s.streamBegun.Serves p.1 := fun p hp => by
      obtain ⟨k, hlt, rfl⟩ := mem_streamItems.mp hp
      obtain ⟨hhome, hown, hunlocked, hwakes, hidle⟩ := hready k hlt
      exact ⟨hhome, hown, hunlocked, hwakes, hidle⟩
    obtain ⟨hread, -, hout⟩ := streamStores_through (streamItems_apart s) (t := s.streamBegun) hs hbegun hserves
    exact ⟨fun k hlt => hread _ (mem_streamItems.mpr ⟨k, hlt, rfl⟩), hout⟩

end Sys2Proof.Machine
end

section
/-!
PROOFS. The boundary of a slot and its samples (O13).
-/

namespace Sys2Proof.Machine

/-- A loop keeps what each of its turns keeps of the turns to come. -/
theorem forEach_induct {σ : Type} {Q : Nat → σ → Prop} {n : Nat} {f : σ → Nat → σ} {s : σ} (h0 : Q 0 s)
    (h : ∀ i t, i < n → Q i t → Q (i + 1) (f t i)) : Q n (forEach n f s) := by
  induction n with
  | zero => exact h0
  | succ n ih => rw [forEach_succ]; exact h n _ (Nat.lt_succ_self n) (ih fun i t hi => h i t (Nat.lt_succ_of_lt hi))

/-! ### A slot's boundary (R18, R166, R231, R420) -/

section
variable {s t : State}

theorem Reacted.plStop (ch : Nat) (st : TSt) (h : Reacted s t) : Reacted s (t.plStop ch st) :=
  (h.setCoil ch _).setCoil ch _

theorem Reacted.plFault {ch : Nat} (hc : ch < 12) (cause : CoilDiag → CoilDiag) (h : Reacted s t) : Reacted s (t.plFault ch cause) := by
  unfold State.plFault
  dsimp only
  split
  · exact h.raiseSource _ (by omega)
  · exact (h.setCoil _ _).raiseSource _ (by omega)
  · exact (((h.plStop _ _).setCoil _ _).raiseEvent _ (by omega)).raiseSource _ (by omega)

theorem Reacted.ucFault {ch : Nat} (hc : ch < 12) (h : Reacted s t) : Reacted s (t.ucFault ch) :=
  (h.plFault hc _).raiseSource _ (by omega)

theorem Reacted.ucDone {ch : Nat} (hc : ch < 12) (h : Reacted s t) : Reacted s (t.ucDone ch) :=
  .ite ((h.setCoil _ _).ucFault hc) (h.setCoil _ _)

theorem Reacted.prsSlot (h : Reacted s t) : Reacted s t.prsSlot := by
  refine .forEach 12 _ h (fun u c hc => ?_)
  split
  · exact .ite ((Reacted.refl u).ucDone hc) ((Reacted.refl u).setCoil _ _)
  · exact Reacted.refl u

theorem Reacted.vsSlot (v : Nat) (h : Reacted s t) : Reacted s (t.vsSlot v) := .ite (h.setVs _ _) h

end

/-- What the threads and the sensor supplies do at a slot boundary is a reaction. -/
theorem Reacted.slotBlocks (s : State) : Reacted s (Machine.forEach 4 State.vsSlot s.prsSlot) :=
  .forEach 4 _ (Reacted.refl s).prsSlot (fun u v _ => (Reacted.refl u).vsSlot v)

theorem State.coil_setCoil_above (s : State) {c k : Nat} (h : c < k) (f : Coil → Coil) : (s.setCoil c f).coil k = s.coil k :=
  State.coil_setCoil_other _ _ _ _ (Nat.ne_of_lt h)

/-- Where no thread stands at word 511 the threads change no output. -/
theorem State.out_prsSlot {s : State} (h : ∀ ch, ch < 12 → (s.coil ch).pc < 511) (o : Nat) : s.prsSlot.out o = s.out o := by
  have hQ : (∀ k, 12 ≤ k → s.prsSlot.coil k = s.coil k) ∧ s.prsSlot.sw = s.sw := by
    refine forEach_induct (Q := fun i (t : State) => (∀ k, i ≤ k → t.coil k = s.coil k) ∧ t.sw = s.sw) ⟨fun _ _ => rfl, rfl⟩
      fun i t hi ⟨hcoil, hsw⟩ => ?_
    have hset : ∀ f, (∀ k, i + 1 ≤ k → (t.setCoil i f).coil k = s.coil k) ∧ (t.setCoil i f).sw = s.sw := fun f =>
      ⟨fun k hk => (t.coil_setCoil_above hk f).trans (hcoil k (by omega)), hsw⟩
    have hpc : (t.coil i).pc < 511 := by rw [hcoil i (Nat.le_refl i)]; exact h i hi
    have hdone : t.ucDone i = t.setCoil i (fun x => { x with wait := .ready, pc := x.pc + 1 }) := if_neg (by omega)
    split
    · split
      · rw [hdone]; exact hset _
      · exact hset _
    · exact ⟨fun k hk => hcoil k (by omega), hsw⟩
  unfold State.out
  rw [hQ.2]

theorem State.out_vsSlot (s : State) (v o : Nat) : (s.vsSlot v).out o = s.out o := by
  unfold State.vsSlot
  dsimp only
  split <;> rfl

/-- A field of another register stays. -/
theorem State.fld_setFld_other (s : State) (f g : Fld) (v : Nat) (h : g.addr ≠ f.addr) : (s.setFld f v).fld g = s.fld g := by
  unfold State.fld State.setFld
  rw [State.reg_setReg_other _ _ _ _ h]

theorem mvWord_lt (z : Int) : mvWord z < 2 ^ 32 := BitVec.isLt _

/-- The supplies are read into their registers (R420). -/
theorem State.vbat_readSupplies {s : State} (hs : s.canonical) {g : Nat} (hg : g < 3) :
    s.readSupplies.fld (F.pwrVbatMv g) = mvWord (s.pin (.vbat g)) := by
  obtain ⟨-, -, hread⟩ := forEach_induct (n := 3) (f := fun (t : State) g => t.setFld (F.pwrVbatMv g) (mvWord (t.pin (.vbat g))))
    (Q := fun i t => t.canonical ∧ t.pins = s.pins ∧ ∀ g, g < i → t.fld (F.pwrVbatMv g) = mvWord (s.pin (.vbat g)))
    ⟨hs, rfl, fun _ h => absurd h (Nat.not_lt_zero _)⟩ fun i t hi ⟨hc, hp, hr⟩ => by
      refine ⟨State.setFld_stable canonical_lasting.toStable _ _ hc, hp, fun g hg => ?_⟩
      by_cases e : g = i
      · subst e
        have hpin : t.pin (.vbat g) = s.pin (.vbat g) := by unfold State.pin; rw [hp]
        rw [hpin]
        exact State.fld_setFld_word hc (mvWord_lt _)
      · refine (State.fld_setFld_other _ _ _ _ ?_).trans (hr g (by omega))
        simp only [F.pwrVbatMv]; omega
  refine (State.fld_setFld_other _ _ _ _ ?_).trans ((State.fld_setFld_other _ _ _ _ ?_).trans (hread g hg))
  · simp only [F.pwrVbatMv, F.pwrTlogDeg]; omega
  · simp only [F.pwrVbatMv, F.pwrVholdMv]; omega

/-- The state in which the next slot has begun, with the readings at its boundary. -/
def State.slotBegun (s : State) (w : World) : State :=
  let u := (s.observe w).advance (s.slotAt (s.frm.slot + 1))
  { u with frm := { u.frm with slot := s.frm.slot + 1 } }

theorem execSlotBoundary_of_next {s : State} (hr : s.frameRuns = true) (hk : s.frm.slot + 1 < s.seff) (w : World) :
    execSlotBoundary w s = .next (forEach 4 State.vsSlot (s.slotBegun w).readSupplies.prsSlot) :=
  congrArg Host.Outcome.next (if_pos (by simp [hr, hk]))

theorem execSlotBoundary_of_none {s : State} (h : s.frameRuns = false ∨ s.seff ≤ s.frm.slot + 1) (w : World) :
    execSlotBoundary w s = .next s :=
  congrArg Host.Outcome.next (if_neg (by rcases h with h | h <;> simp [h]))

/-- The readings of the supplies change registers alone. -/
theorem State.readSupplies_eq (s : State) : ∃ r, s.readSupplies = { s with regs := r } := by
  have step : ∀ {t : State} (f : Fld) (v : Nat), (∃ r, t = { s with regs := r }) → ∃ r, t.setFld f v = { s with regs := r } := by
    rintro _ f v ⟨r, rfl⟩
    exact ⟨_, rfl⟩
  exact step _ _ (step _ _ (st_forEach (P := fun t => ∃ r, t = { s with regs := r }) (fun t g h => step _ _ h) ⟨s.regs, rfl⟩))

/-- A supply's register is touched by no reaction. -/
theorem Reacted.vbat {s t : State} (h : Reacted s t) {g : Nat} (hg : g < 3) : t.fld (F.pwrVbatMv g) = s.fld (F.pwrVbatMv g) := by
  unfold State.fld
  rw [h.onlyRegs]
  all_goals intros; simp only [F.pwrVbatMv, F.winStickyStk, F.frmEvmrgMerged, F.pwrDctlReq, F.grnBpwrState, F.pwrStatLockacc, F.accEvcCause]; omega

theorem Reacted.pin {s t : State} (h : Reacted s t) (x : Sensor) : t.pin x = s.pin x := by
  unfold State.pin
  rw [h.pins]

/-- The boundary of the next slot (R18, R420). -/
theorem slotBoundary_next {s : State} (hs : s.canonical) (hr : s.frameRuns = true) (hk : s.frm.slot + 1 < s.seff) (w : World) :
    ∃ t, execSlotBoundary w s = .next t ∧ t.frm.slot = s.frm.slot + 1 ∧ t.frm.frame = s.frm.frame ∧
      t.count = max s.count (s.slotAt (s.frm.slot + 1)) ∧
      (∀ g, g < 3 → t.fld (F.pwrVbatMv g) = mvWord (t.pin (.vbat g))) ∧
      ((∀ ch, ch < 12 → (s.coil ch).pc < 511) → ∀ o, t.out o = s.out o) := by
  obtain ⟨pins, hobs⟩ := s.observe_eq w
  have hbegun : s.slotBegun w = { s with
      pins := pins, count := max s.count (s.slotAt (s.frm.slot + 1)), frm := { s.frm with slot := s.frm.slot + 1 } } := by
    unfold State.slotBegun
    rw [hobs]; rfl
  have hc : (s.slotBegun w).canonical := by rw [hbegun]; exact hs
  obtain ⟨r, hread⟩ := (s.slotBegun w).readSupplies_eq
  have h := Reacted.slotBlocks (s.slotBegun w).readSupplies
  refine ⟨_, execSlotBoundary_of_next hr hk w, ?_, ?_, ?_, fun g hg => ?_, fun hpc o => ?_⟩
  · rw [h.slot, hread, hbegun]
  · rw [h.frame, hread, hbegun]
  · rw [h.count, hread, hbegun]
  · rw [h.vbat hg, h.pin, State.vbat_readSupplies hc hg, hread]; rfl
  · have hcoil : ∀ ch, ch < 12 → ((s.slotBegun w).readSupplies.coil ch).pc < 511 := by rw [hread, hbegun]; exact hpc
    have hvs := st_forEach (n := 4) (P := fun t => t.out o = (s.slotBegun w).readSupplies.prsSlot.out o)
      (fun t v k => (t.out_vsSlot v o).trans k) rfl
    rw [hvs, State.out_prsSlot hcoil, hread, hbegun]; rfl

/-! ### A slot's samples (R83, R88, R92, R94, R106, R130, R137, R182) -/

/-- The slot, the samples taken so far of every output, and how far the slots have been sampled stay. -/
structure SamplesKept (s t : State) : Prop where
  slot : t.frm.slot = s.frm.slot
  done : t.sw.smpDone = s.sw.smpDone
  samples : ∀ o, (t.out o).fr.samples = (s.out o).fr.samples

section
variable {s t : State}

theorem SamplesKept.refl (s : State) : SamplesKept s s := ⟨rfl, rfl, fun _ => rfl⟩

theorem SamplesKept.trans {u : State} (h : SamplesKept s t) (k : SamplesKept t u) : SamplesKept s u :=
  ⟨k.slot.trans h.slot, k.done.trans h.done, fun o => (k.samples o).trans (h.samples o)⟩

theorem SamplesKept.reacted {u : State} (h : SamplesKept s t) (k : Reacted t u) : SamplesKept s u := by
  obtain ⟨-, -, -, -, hdone⟩ := k.stream
  refine h.trans ⟨k.slot, hdone, fun o => ?_⟩
  obtain ⟨-, -, -, -, -, -, -, -, hfr, -⟩ := k.history o
  rw [hfr]

/-- A change of an output that leaves its samples. -/
theorem SamplesKept.setOut (h : SamplesKept s t) (o : Nat) (f : Outp → Outp) (hf : ∀ x : Outp, (f x).fr.samples = x.fr.samples := by intro; rfl) :
    SamplesKept s (t.setOut o f) := by
  refine h.trans ⟨rfl, rfl, fun k => ?_⟩
  unfold State.out State.setOut
  rw [nth_updN]
  split
  · exact hf _
  · rfl

theorem SamplesKept.setDie (h : SamplesKept s t) (d : Nat) (f : Die → Die) : SamplesKept s (t.setDie d f) := h.trans ⟨rfl, rfl, fun _ => rfl⟩

theorem SamplesKept.setPx (h : SamplesKept s t) (x : Nat) (f : Px → Px) : SamplesKept s (t.setPx x f) := h.trans ⟨rfl, rfl, fun _ => rfl⟩

theorem SamplesKept.ite {p : Prop} [Decidable p] {u v : State} (h : SamplesKept s u) (k : SamplesKept s v) :
    SamplesKept s (if p then u else v) := by
  split
  · exact h
  · exact k

theorem SamplesKept.noteInverse (h : SamplesKept s t) (c : Nat) : SamplesKept s (t.noteInverse c) := .ite (h.setOut _ _) h

theorem outSource_lt {o : Nat} (h : o < 56) : outSource o < 192 := by unfold outSource; split_ifs <;> omega

theorem outEvent_lt (o : Nat) : outEvent o < 128 := by unfold outEvent; split_ifs <;> omega

theorem SamplesKept.wireTrip (h : SamplesKept s t) {c : Nat} (hc : c < 56) : SamplesKept s (t.wireTrip c) := by
  refine .ite ?_ ?_
  · exact (h.setOut c _).reacted ((Reacted.refl _).raiseSource _ (outSource_lt hc))
  · exact ((h.setOut c _).setOut c _).reacted (((Reacted.refl _).raiseEvent _ (outEvent_lt c)).raiseSource _ (outSource_lt hc))

theorem SamplesKept.wireUpdate (h : SamplesKept s t) {c : Nat} (hc : c < 56) : SamplesKept s (t.wireUpdate c) := by
  refine .ite (.ite (SamplesKept.wireTrip ?_ hc) ?_) h
  · exact h.setOut c _
  · exact h.setOut c _

theorem SamplesKept.stallCount (h : SamplesKept s t) (n : Nat) : SamplesKept s (t.stallCount n) := .ite h (.ite (h.setOut _ _) (h.setOut _ _))

theorem SamplesKept.dieSample (h : SamplesKept s t) (d : Nat) : SamplesKept s (t.dieSample d) := .ite ((h.setDie d _).setDie d _) h

end

/-- The samples of an output once a slot has been sampled (R83). -/
def State.samplesWith (s : State) (o : Nat) : List Int :=
  if s.domOn (domOf o) then codeSample (lsbOf o) (s.pin (.outI o)) :: (s.out o).fr.samples else (s.out o).fr.samples

/-- Every output is sampled once, from its sensor, where its domain is ON. -/
theorem State.takeSamples_spec (s : State) : (forEach 56 State.takeSample s).frm.slot = s.frm.slot ∧
    (forEach 56 State.takeSample s).sw.smpDone = s.sw.smpDone ∧
    ∀ o, o < 56 → ((forEach 56 State.takeSample s).out o).fr.samples = s.samplesWith o := by
  obtain ⟨v, hv, htaken⟩ := forEach_induct (n := 56) (f := State.takeSample) (s := s)
    (Q := fun i t => ∃ v, t = { s with sw := { s.sw with out := v } } ∧
      ∀ o, o < 56 → (nth v o {}).fr.samples = if o < i then s.samplesWith o else (s.out o).fr.samples)
    ⟨s.sw.out, rfl, fun _ _ => rfl⟩ fun i t hi ⟨v, hv, hout⟩ => by
      subst hv
      have hlater : ∀ o, o ≠ i → (o < i + 1 ↔ o < i) := fun o ho => by omega
      unfold State.takeSample
      split
      · next hd =>
        refine ⟨_, rfl, fun o ho => ?_⟩
        rw [nth_updN]
        by_cases e : i = o
        · subst e
          have hold := (hout i ho).trans (if_neg (Nat.lt_irrefl i))
          rw [if_pos ⟨rfl, ho⟩, if_pos (Nat.lt_succ_self i)]
          exact (congrArg (List.cons _) hold).trans (if_pos hd).symm
        · rw [if_neg (fun h => e h.1), hout o ho]
          simp only [hlater o (Ne.symm e)]
      · next hd =>
        refine ⟨v, rfl, fun o ho => (hout o ho).trans ?_⟩
        by_cases e : o = i
        · subst e
          rw [if_neg (Nat.lt_irrefl o), if_pos (Nat.lt_succ_self o)]
          exact (if_neg hd).symm
        · simp only [hlater o e]
  rw [hv]
  exact ⟨rfl, rfl, fun o ho => (htaken o ho).trans (if_pos ho)⟩

/-- What follows from the samples of a slot leaves them. -/
theorem SamplesKept.swSample (s : State) : SamplesKept (forEach 56 State.takeSample s) s.swSample := by
  have hinv := st_forEach (n := 48) (P := SamplesKept (forEach 56 State.takeSample s)) (fun _ c h => h.noteInverse c) (SamplesKept.refl _)
  have hwire := st_forEach_lt (n := 48) (f := State.wireUpdate) (fun _ c hc h => h.wireUpdate (c := c) (by omega)) hinv
  exact st_forEach (fun _ d h => h.dieSample d) (st_forEach (fun _ n h => h.stallCount n) hwire)

/-- The state in which a slot's samples are taken. -/
def State.sampleBegun (s : State) (w : World) : State :=
  let u := (s.observe w).advance (s.slotAt s.frm.slot + 2 * s.slotLen s.frm.slot)
  { u with sw := { u.sw with smpDone := u.frm.slot + 1 } }

theorem SamplesKept.pxSample {s t : State} (h : SamplesKept s t) : SamplesKept s t.pxSample :=
  st_forEach (P := SamplesKept s) (fun _ x k => k.setPx x _) h

theorem State.slotSampled_eq (s : State) (w : World) : s.slotSampled w = (s.sampleBegun w).swSample.pxSample := by
  unfold State.slotSampled State.sampleBegun
  rfl

theorem State.slotSampled_kept (s : State) (w : World) :
    SamplesKept (forEach 56 State.takeSample (s.sampleBegun w)) (s.slotSampled w) := by
  rw [s.slotSampled_eq]
  exact (SamplesKept.swSample _).pxSample

/-- The samples of a slot: each output's, once, and the slot noted as sampled. -/
theorem State.slotSampled_spec (s : State) (w : World) :
    (s.slotSampled w).sw.smpDone = s.frm.slot + 1 ∧ (s.slotSampled w).frm.slot = s.frm.slot ∧
      ∀ o, o < 56 → ((s.slotSampled w).out o).fr.samples = if s.domOn (domOf o) then
        codeSample (lsbOf o) ((s.observe w).pin (.outI o)) :: (s.out o).fr.samples else (s.out o).fr.samples := by
  obtain ⟨hslot, hdone, hsamples⟩ := s.slotSampled_kept w
  obtain ⟨hslot', hdone', htaken⟩ := (s.sampleBegun w).takeSamples_spec
  obtain ⟨pins, hobs⟩ := s.observe_eq w
  have hbegun : s.sampleBegun w = { s with
      pins := pins, count := max s.count (s.slotAt s.frm.slot + 2 * s.slotLen s.frm.slot), sw := { s.sw with smpDone := s.frm.slot + 1 } } := by
    unfold State.sampleBegun
    rw [hobs]; rfl
  refine ⟨(hdone.trans hdone').trans (by rw [hbegun]), (hslot.trans hslot').trans (by rw [hbegun]), fun o ho => ?_⟩
  rw [hsamples, htaken o ho, hbegun, hobs]; rfl

theorem execSlotSample_of_none {s : State} (h : s.frameRuns = false ∨ s.frm.slot < s.sw.smpDone) (w : World) : execSlotSample w s = .next s :=
  if_pos (by rcases h with h | h <;> simp [h])

theorem exec_slotSample (w : World) (s : State) : exec (.slotSample w) s = execSlotSample w s := rfl

/-- A slot that is not sampled yet takes its samples, and goes on where they meet no unchecked use (R92, R131, R134). -/
theorem execSlotSample_of_due {s u : State} {w : World} (hr : s.frameRuns = true) (hk : s.sw.smpDone ≤ s.frm.slot) (hu : s.slotSampled w = u) :
    (∀ r, u.inverseUnchecked = some r → execSlotSample w s = .fault (.uncheckedUse r)) ∧
      (u.inverseUnchecked = none → u.ambientUnchecked = true → execSlotSample w s = .fault (.uncheckedUse 92)) ∧
      (u.inverseUnchecked = none → u.ambientUnchecked = false → execSlotSample w s = .next u) := by
  unfold State.slotSampled at hu
  unfold execSlotSample
  rw [if_neg (by simp [hr, hk])]
  dsimp only at hu ⊢
  rw [hu]
  refine ⟨fun r h => by rw [h], fun hi ha => ?_, fun hi ha => ?_⟩
  · rw [hi]; exact if_pos ha
  · rw [hi]; exact if_neg (by simp [ha])

/-! ### The statement -/

/-- Settles O13: a boundary by `slotBoundary_next`, the samples by `State.slotSampled_spec`, the stream by `streamSampleWrite_spec`. -/
theorem slotSteps : Obligations.SlotSteps := by
  refine ⟨fun w s hs hr hk => slotBoundary_next hs hr hk w, fun w s h => execSlotBoundary_of_none h w, fun w s hr hk => ?_,
    fun w s h => (exec_slotSample w s).trans (execSlotSample_of_none h w),
    fun s => ⟨fun h => execStreamSampleWrite_of_idle h, fun h hk => execStreamSampleWrite_of_beyond h hk, fun h hk => ?_⟩⟩
  · rw [exec_slotSample]
    obtain ⟨hinverse, hambient, hchecked⟩ := execSlotSample_of_due hr hk (rfl : s.slotSampled w = _)
    exact ⟨hinverse, hambient, fun ⟨hi, ha⟩ => ⟨_, hchecked hi ha, s.slotSampled_spec w⟩⟩
  obtain ⟨t, he, hdone, hdrop, hthrough⟩ := streamSampleWrite_spec h hk
  refine ⟨t, he, hdone, hdrop, fun hs hready => hthrough hs fun k hlt => ?_⟩
  obtain ⟨hown, hunlocked, hwakes, hidle⟩ := hready k hlt
  exact ⟨hk k hlt, hown, hunlocked, hwakes, hidle⟩

end Sys2Proof.Machine
end
section
/-!
PROOFS. The shut-off of an output (O9), and its steps at an edge (O10).
-/

namespace Sys2Proof.Machine

/-! ### A shut-off (R79, R97, R113, R116) -/

theorem State.gov_le (s : State) (o : Nat) : s.gov o ≤ o := by
  unfold State.gov
  split
  · exact Nat.sub_le _ _
  · exact Nat.le_refl _

theorem State.turnOff_out_same (s : State) {o : Nat} (ho : o < 56) (q : ChSt) :
    (s.turnOff o q).out o = { s.out o with st := q, window := none, hb := { (s.out o).hb with stallRun := 0 } } :=
  State.out_setOut_same s o _ ho

/-- The state in which output `o` has tripped, before what follows the trip. -/
def State.tripOut (s : State) (o : Nat) (junction : Bool) (land : Int) : State :=
  (s.turnOff o (if (s.out o).retries < (s.prot o).1 then .wait else .lock)).setOut o (fun y => { y with
    occnt := incTo 0xFFFFFFFF y.occnt
    tshut := s.stamp
    due := s.frm.frame.toNat + max 1 (s.prot o).2.1
    heal := 0
    tlatch := y.tlatch || junction
    fr := { y.fr with
      oct := y.fr.oct || !junction, tht := y.fr.tht || junction, trip := true
      scg := y.fr.scg || (!junction && decide (land < 2000)) } })

theorem State.trip_eq (s : State) (o : Nat) (junction : Bool) (land : Int) :
    s.trip o junction land = (s.tripOut o junction land).afterTrip s o := by
  unfold State.trip State.afterTrip State.tripOut
  simp only [decide_eq_true_eq]

theorem State.tripOut_tripped (s : State) {o : Nat} (ho : o < 56) (junction : Bool) (land : Int) :
    s.tripped (s.tripOut o junction land) o junction := by
  have hkeeps : s.keeps (s.tripOut o junction land) [.out o] := State.keeps_trans (s.setOut_keeps o _) (State.setOut_keeps _ o _)
  refine ⟨?_, ?_, ?_, ?_, ?_, ?_, ?_, hkeeps⟩
  all_goals simp only [State.tripOut, State.out_setOut_same _ _ _ ho, s.turnOff_out_same ho, incTo]

/-- An output in WAIT or LOCK is not on. -/
theorem State.tripped.not_on {s u : State} {e : Nat} {junction : Bool} (h : s.tripped u e junction) : (u.out e).isOn = false := by
  obtain ⟨hst, -⟩ := h
  unfold Outp.isOn
  rw [hst]
  split <;> rfl

/-- A change of outputs leaves the pairing, and with it the governing members. -/
theorem State.gov_of_keeps {s u : State} {e : Nat} (h : s.keeps u [.out e]) (o : Nat) : u.gov o = s.gov o := by
  have hreg : ∀ a, u.reg a = s.reg a := fun a => h.2 (.reg a) (by simp)
  have hpaired : u.paired o = s.paired o := by
    unfold State.paired State.fld
    simp only [hreg]
  unfold State.gov
  rw [hpaired]

theorem State.not_driven_of_not_on {s : State} {o : Nat} (h : (s.out (s.gov o)).isOn = false) : s.driven o = false := by
  simp [State.driven, h]

/-- A half-bridge that does not conduct has both switches off (R112). -/
theorem State.hbSwitches_of_not_driven {s : State} {h : Nat} (hd : s.driven (48 + h) = false) : s.hbSwitches h = (false, false) := by
  have hside : s.hbSide h = none := by simp [State.hbSide, hd]
  simp [State.hbSwitches, hside]

theorem State.tripped.switches_off {s u : State} {n : Nat} {junction : Bool} (h : s.tripped u (s.gov (48 + n)) junction) :
    u.hbSwitches n = (false, false) := by
  have hoff := h.not_on
  obtain ⟨-, -, -, -, -, -, -, hkeeps⟩ := h
  refine State.hbSwitches_of_not_driven (State.not_driven_of_not_on ?_)
  rw [State.gov_of_keeps hkeeps]
  exact hoff

section
variable {c : Fin 48} {amps deg land : Int} {s : State}

theorem execOvercurrentShutoff_of_above (hd : s.driven (s.gov c) = true) (ha : (s.threshold (s.gov c) : Int) < amps) :
    execOvercurrentShutoff c amps land s = .next (s.trip (s.gov c) false land) :=
  congrArg Host.Outcome.next (if_pos (by simp [hd, ha]))

theorem execOvercurrentShutoff_of_within (h : s.driven (s.gov c) = false ∨ amps ≤ (s.threshold (s.gov c) : Int)) :
    execOvercurrentShutoff c amps land s = .next s :=
  congrArg Host.Outcome.next (if_neg (by rcases h with h | h <;> simp [h]))

theorem execJunctionShutoff_of_above (hd : s.driven (s.gov c) = true) (ht : 165 * 16 < deg) :
    execJunctionShutoff c deg s = .next (s.trip (s.gov c) true 0x7FFFFFFF) :=
  congrArg Host.Outcome.next (if_pos (by simp only [hd, ht, decide_true, Bool.and_self]))

theorem execJunctionShutoff_of_within (h : s.driven (s.gov c) = false ∨ deg ≤ 165 * 16) : execJunctionShutoff c deg s = .next s := by
  refine congrArg Host.Outcome.next (if_neg ?_)
  rcases h with h | h
  · simp [h]
  · simp only [Int.not_lt.mpr h, decide_false, Bool.and_false, Bool.false_eq_true, not_false_eq_true]

/-- A half-bridge above 165 °C takes a junction trip, one above its threshold alone a trip of its comparator. -/
theorem execHbShutoff_of_above {n : Fin 8} (hd : s.driven (s.gov (48 + n)) = true) (h : 165 * 16 < deg ∨ (s.hbThreshold n : Int) < amps) :
    execHbShutoff n amps deg land s =
      .next (s.trip (s.gov (48 + n)) (decide (165 * 16 < deg)) (if 165 * 16 < deg then 0x7FFFFFFF else land)) := by
  refine congrArg Host.Outcome.next ((if_neg (by simp [hd])).trans ?_)
  by_cases ht : 165 * 16 < deg
  · rw [if_pos ht, if_pos ht, decide_eq_true ht]
  · rw [if_neg ht, if_neg ht, decide_eq_false ht]
    exact if_pos (h.resolve_left ht)

theorem execHbShutoff_of_within {n : Fin 8} (h : s.driven (s.gov (48 + n)) = false ∨ (deg ≤ 165 * 16 ∧ amps ≤ (s.hbThreshold n : Int))) :
    execHbShutoff n amps deg land s = .next s := by
  refine congrArg Host.Outcome.next ?_
  rcases h with h | ⟨ht, ha⟩
  · exact if_pos (by simp [h])
  · rw [if_neg (Int.not_lt.mpr ht), if_neg (Int.not_lt.mpr ha)]
    exact ite_self s

end

/-- Settles O9: each shut-off is `State.trip`, which is the trip of `State.tripOut_tripped` and what follows it. -/
theorem outputShutoffTrips : Obligations.OutputShutoffTrips := by
  refine ⟨fun c amps land s => ⟨fun hd ha => ?_, fun h => execOvercurrentShutoff_of_within h⟩,
    fun c deg s => ⟨fun hd ht => ?_, fun h => execJunctionShutoff_of_within h⟩,
    fun n amps deg land s => ⟨fun hd h => ?_, fun h => execHbShutoff_of_within h⟩⟩
  · have hc : s.gov c < 56 := by have := s.gov_le c; omega
    exact ⟨_, (execOvercurrentShutoff_of_above hd ha).trans (congrArg _ (s.trip_eq _ _ _)), s.tripOut_tripped hc false land⟩
  · have hc : s.gov c < 56 := by have := s.gov_le c; omega
    exact ⟨_, (execJunctionShutoff_of_above hd ht).trans (congrArg _ (s.trip_eq _ _ _)), s.tripOut_tripped hc true _⟩
  · have hn : s.gov (48 + n) < 56 := by have := s.gov_le (48 + n); omega
    have htrip := s.tripOut_tripped hn (decide (165 * 16 < deg)) (if 165 * 16 < deg then 0x7FFFFFFF else land)
    exact ⟨_, (execHbShutoff_of_above hd h).trans (congrArg _ (s.trip_eq _ _ _)), htrip, htrip.switches_off⟩

/-! ### The steps of an output at an edge (R74, R76, R98, R99, R101) -/

theorem State.mem_members_self (s : State) (o : Nat) : o ∈ s.members o := by
  unfold State.members
  split <;> simp

theorem State.dgOn_keeps (s : State) (o : Nat) : s.keeps (s.dgOn o) ((s.members o).map .out) :=
  State.foldl_keeps _ _ _ fun t _ hk => State.keeps_mono (t.setOut_keeps _ _) (by simpa using hk)

/-- The end of an output's time off changes its diagnostics alone. -/
theorem State.out_dgOn (s : State) (o k : Nat) : ∃ d, (s.dgOn o).out k = { s.out k with dg := d } := by
  refine st_foldl (P := fun t => ∃ d, t.out k = { s.out k with dg := d }) (fun t j ⟨d, hd⟩ => ?_) ⟨_, rfl⟩
  unfold State.out State.setOut at *
  rw [nth_updN, hd]
  split
  · exact ⟨_, rfl⟩
  · exact ⟨d, rfl⟩

theorem State.turnOn_keeps (s : State) (o : Nat) : s.keeps (s.turnOn o) ((s.members o).map .out) :=
  State.keeps_trans (s.setOut_keeps o _) (State.dgOn_keeps _ o) (by simpa using s.mem_members_self o) (List.Subset.refl _)

theorem State.turnOnHb_keeps (s : State) (o : Nat) : s.keeps (s.turnOnHb o) ((s.members o).map .out) :=
  State.keeps_trans (s.setOut_keeps o _) (State.dgOn_keeps _ o) (by simpa using s.mem_members_self o) (List.Subset.refl _)

/-- What a channel that turns on becomes (R76). -/
theorem State.turnOn_out (s : State) {c : Nat} (hc : c < 56) :
    ((s.turnOn c).out c).retries = (s.out c).retries ∧
      ((s.turnOn c).out c).st = (if s.fld (F.swInrMs c) = 0 then .on else .inr) ∧
      ((s.turnOn c).out c).window =
        (if s.fld (F.swInrMs c) = 0 then none else some (s.count, s.count + 600000 * s.fld (F.swInrMs c))) := by
  unfold State.turnOn
  dsimp only
  obtain ⟨d, hd⟩ := State.out_dgOn (s.setOut c (fun x => { x with
    st := if s.fld (F.swInrMs c) = 0 then .on else .inr
    window := if s.fld (F.swInrMs c) = 0 then none else some (s.count, s.count + 600000 * s.fld (F.swInrMs c))
    heal := 0 })) c c
  rw [hd, State.out_setOut_same _ _ _ hc]
  exact ⟨rfl, rfl, rfl⟩

theorem State.turnOnHb_out (s : State) {o : Nat} (ho : o < 56) :
    ((s.turnOnHb o).out o).retries = (s.out o).retries ∧ ((s.turnOnHb o).out o).st = .on := by
  unfold State.turnOnHb
  obtain ⟨d, hd⟩ := State.out_dgOn (s.setOut o (fun x => { x with st := .on, heal := 0 })) o o
  rw [hd, State.out_setOut_same _ _ _ ho]
  exact ⟨rfl, rfl⟩

/-- The window of a channel closes, and INR becomes ON (R76, R103). -/
def Outp.closeWindow (x : Outp) : Outp := { x with window := none, st := if x.st = .inr then .on else x.st }

/-- A restart is counted (R99). -/
def State.countRetry (s : State) (o : Nat) : State := s.setOut o (fun x => { x with retries := x.retries + 1 })

/-- The state in which an output has restarted (R99, R116). -/
def State.restarted (s : State) (o : Nat) : State := if o < 48 then (s.countRetry o).turnOn o else (s.countRetry o).turnOnHb o

theorem State.restarted_keeps (s : State) (o : Nat) : s.keeps (s.restarted o) ((s.members o).map .out) := by
  have hcount : s.keeps (s.countRetry o) [.out o] := s.setOut_keeps o _
  have hsub : [Part.out o] ⊆ (s.members o).map .out := by simpa using s.mem_members_self o
  unfold State.restarted
  split
  · exact State.keeps_trans hcount (State.turnOn_keeps _ o) hsub (List.Subset.refl _)
  · exact State.keeps_trans hcount (State.turnOnHb_keeps _ o) hsub (List.Subset.refl _)

theorem State.restarted_out (s : State) {o : Nat} (ho : o < 56) :
    ((s.restarted o).out o).retries = (s.out o).retries + 1 ∧
      ((s.restarted o).out o).st = (if o < 48 ∧ s.fld (F.swInrMs o) ≠ 0 then .inr else .on) ∧
      (o < 48 → s.fld (F.swInrMs o) ≠ 0 →
        ((s.restarted o).out o).window = some (s.count, s.count + 600000 * s.fld (F.swInrMs o))) := by
  have hcount : ((s.countRetry o).out o).retries = (s.out o).retries + 1 := by rw [State.countRetry, State.out_setOut_same _ _ _ ho]
  by_cases hc : o < 48
  · obtain ⟨hretries, hst, hwindow⟩ := (s.countRetry o).turnOn_out ho
    rw [State.restarted, if_pos hc]
    refine ⟨hretries.trans hcount, hst.trans ?_, fun _ hms => hwindow.trans (if_neg hms)⟩
    by_cases hms : s.fld (F.swInrMs o) = 0
    · exact (if_pos hms).trans (if_neg (by simp [hms])).symm
    · exact (if_neg hms).trans (if_pos ⟨hc, hms⟩).symm
  · obtain ⟨hretries, hst⟩ := (s.countRetry o).turnOnHb_out ho
    rw [State.restarted, if_neg hc]
    exact ⟨hretries.trans hcount, hst.trans (if_neg (fun h => hc h.1)).symm, fun h => absurd h hc⟩

section
variable {c : Fin 48} {o : Fin 56} {s : State}

theorem execInrushWindowClose_of_end {opened ends : Nat} (hw : (s.out c).window = some (opened, ends)) (he : s.atEdge = true)
    (ht : ends ≤ s.frm.edgeAt) (hg : s.groupOff (groupOf c) = false) :
    execInrushWindowClose c s = .next (((s.setOut c Outp.closeWindow).diagAgain c).refreshOut c) := by
  unfold execInrushWindowClose
  simp only [hw]
  exact congrArg Host.Outcome.next (if_pos (by simp [he, ht, hg]))

theorem execInrushWindowClose_of_none (h : (s.out c).window = none ∨ s.atEdge = false ∨ s.groupOff (groupOf c) = true ∨
    (∃ opened ends, (s.out c).window = some (opened, ends) ∧ s.frm.edgeAt < ends)) : execInrushWindowClose c s = .next s := by
  unfold execInrushWindowClose
  dsimp only
  split
  · next opened ends hw =>
    refine congrArg Host.Outcome.next (if_neg ?_)
    rcases h with h | h | h | ⟨_, _, hw', hlt⟩
    · rw [hw] at h; cases h
    · simp [h]
    · simp [h]
    · cases hw.symm.trans hw'
      simp [Nat.not_le.mpr hlt]
  · rfl

theorem execChannelRestart_of_due (he : s.atEdge = true) (hd : s.restartDue o = true) (hw : o.val < 48 → s.dieWindow o = false) :
    execChannelRestart o s = .next (((s.restarted o).diagAgain o).refreshOut o) := by
  refine congrArg Host.Outcome.next (if_pos ?_)
  by_cases ho : o.val < 48
  · simp [he, hd, hw ho]
  · simp [he, hd, Nat.not_lt.mp ho]

theorem execChannelRestart_of_none (h : s.atEdge = false ∨ s.restartDue o = false ∨ (o.val < 48 ∧ s.dieWindow o = true)) :
    execChannelRestart o s = .next s := by
  refine congrArg Host.Outcome.next (if_neg ?_)
  rcases h with h | h | ⟨ho, h⟩
  · simp [h]
  · simp [h]
  · simp [h, ho]

theorem execRetriesHeal_of_clean (he : s.atEdge = true) (hg : s.governs o = true) (hr : (s.out o).rep.rev = false) (hh : (s.prot o).2.2 ≠ 0)
    (hn : 16 * (s.prot o).2.2 ≤ (s.out o).heal) :
    execRetriesHeal o s = .next ((s.setOut o (fun x => { x with retries := 0 })).refreshOut o) :=
  congrArg Host.Outcome.next (if_pos (by simp [he, hg, hr, hh, hn]))

theorem execRetriesHeal_of_none (h : s.atEdge = false ∨ s.governs o = false ∨ (s.out o).rep.rev = true ∨ (s.prot o).2.2 = 0 ∨
    (s.out o).heal < 16 * (s.prot o).2.2) : execRetriesHeal o s = .next s := by
  refine congrArg Host.Outcome.next (if_neg ?_)
  rcases h with h | h | h | h | h <;> simp [h]

theorem execPairImbalance_of_run (he : s.atEdge = true) (hp : s.paired c = true) (hn : 16 ≤ (s.out (s.gov c)).imbalRun)
    (hi : (s.out (s.gov c)).imbal = false) :
    execPairImbalance c s =
      .next (((s.setOut (s.gov c) (fun x => { x with imbal := true })).refreshOut (s.gov c)).raiseSource (outSource (s.gov c))) :=
  congrArg Host.Outcome.next (if_pos (by simp [he, hp, hn, hi]))

theorem execPairImbalance_of_none (h : s.atEdge = false ∨ s.paired c = false ∨ (s.out (s.gov c)).imbalRun < 16 ∨
    (s.out (s.gov c)).imbal = true) : execPairImbalance c s = .next s := by
  refine congrArg Host.Outcome.next (if_neg ?_)
  rcases h with h | h | h | h <;> simp [h]

theorem execTlatchClear_of_cool {deg : Int} (h : deg ≤ 150 * 16) :
    execTlatchClear o deg s = .next (s.setOut (s.gov o) (fun x => { x with tlatch := false })) :=
  congrArg Host.Outcome.next (if_pos h)

theorem execTlatchClear_of_hot {deg : Int} (h : 150 * 16 < deg) : execTlatchClear o deg s = .next s :=
  congrArg Host.Outcome.next (if_neg (Int.not_le.mpr h))

end

/-- Settles O10: what each step does by its `exec` lemma, what it leaves by `State.setOut_keeps`, of a restart by `State.restarted_keeps`. -/
theorem channelStepsComplete : Obligations.ChannelStepsComplete := by
  refine ⟨fun c s => ⟨fun opened ends hw he ht hg => ?_, fun h => execInrushWindowClose_of_none h⟩,
    fun o s => ⟨fun he hd hw => ?_, fun h => execChannelRestart_of_none h⟩,
    fun o s => ⟨fun he hg hr hh hn => ?_, fun h => execRetriesHeal_of_none h⟩,
    fun c s => ⟨fun he hp hn hi => ?_, fun h => execPairImbalance_of_none h⟩,
    fun o deg s => ⟨fun h => ?_, fun h => execTlatchClear_of_hot h⟩⟩
  · refine ⟨_, execInrushWindowClose_of_end hw he ht hg, ?_, ?_, ?_, s.setOut_keeps c _⟩
    all_goals rw [State.out_setOut_same _ _ _ (by omega)]; rfl
  · obtain ⟨hretries, hst, hwindow⟩ := s.restarted_out o.isLt
    exact ⟨_, execChannelRestart_of_due he hd hw, hretries, hst, hwindow, s.restarted_keeps o⟩
  · refine ⟨_, execRetriesHeal_of_clean he hg hr hh hn, ?_, ?_, s.setOut_keeps o _⟩
    all_goals rw [State.out_setOut_same _ _ _ o.isLt]
  · have hc : s.gov c < 56 := by have := s.gov_le c; omega
    exact ⟨_, execPairImbalance_of_run he hp hn hi, by rw [State.out_setOut_same _ _ _ hc], s.setOut_keeps _ _⟩
  · have ho : s.gov o < 56 := by have := s.gov_le o; omega
    refine ⟨_, execTlatchClear_of_cool h, ?_, ?_, s.setOut_keeps _ _⟩
    all_goals rw [State.out_setOut_same _ _ _ ho]

end Sys2Proof.Machine
end
section
/-!
PROOFS. Sources and events where no class reaction is enabled (`State.quiet`), and the shedding of a die (O11).
-/

namespace Sys2Proof.Machine

/-! ### Sources and events without a class reaction (R241, R245, R250) -/

/-- No reaction changes the class of a source, or the classes whose sources raise event 77. -/
theorem Reacted.quiet {s t : State} (h : Reacted s t) (q : s.quiet) : t.quiet := by
  obtain ⟨hclass, heven⟩ := q
  have hfld : ∀ f : Fld, f.addr = 0x40050008 ∨ (0x40050060 ≤ f.addr ∧ f.addr < 0x40050090) → t.fld f = s.fld f := by
    intro f hf
    unfold State.fld
    rw [h.onlyRegs]
    all_goals intros; simp only [F.winStickyStk, F.frmEvmrgMerged, F.pwrDctlReq, F.grnBpwrState, F.pwrStatLockacc, F.accEvcCause]; omega
  refine ⟨fun n hn hfixed => (Eq.trans ?_ (hclass n hn hfixed)), by rw [hfld _ (.inl rfl)]; exact heven⟩
  unfold State.classOf
  rw [hfld (F.winClassCls (n / 16)) (.inr (by simp only [F.winClassCls]; omega))]

/-- A source of class N whose class raises no event sets its sticky bit, and nothing follows (R241, R245, R250). -/
theorem State.raiseSource_of_quiet {s : State} (q : s.quiet) {n : Nat} (hn : n < 192) (hfixed : fixedSource n = false) :
    s.raiseSource n = if s.sticky n || !s.feat (sourceFeat n) then s else s.putSticky n true := by
  have hclass : s.classOf n = 0 := q.1 n hn hfixed
  have hoccur : s.occur n = if s.sticky n || !s.feat (sourceFeat n) then s else s.putSticky n true := by
    unfold State.occur
    rw [hclass]
    rfl
  obtain ⟨-, heven⟩ := ((Reacted.refl s).occur n hn).quiet q
  have hevent : (s.occur n).classEvent 0 = s.occur n := if_pos (by simp [heven])
  unfold State.raiseSource
  rw [hclass, hevent, ite_self, hoccur]

theorem State.sw_raiseSource {s : State} (q : s.quiet) {n : Nat} (hn : n < 192) (hfixed : fixedSource n = false) :
    (s.raiseSource n).sw = s.sw := by
  rw [State.raiseSource_of_quiet q hn hfixed]
  split <;> rfl

theorem State.sw_demand (s : State) (d : Nat) : (s.demand d).sw = s.sw := by
  unfold State.demand
  dsimp only
  split_ifs <;> rfl

theorem State.sw_pendEvent (s : State) (n : Nat) : (s.pendEvent n).sw = s.sw := by
  unfold State.pendEvent
  dsimp only
  split_ifs
  · rfl
  · rfl
  · exact State.sw_demand _ _

/-- An event whose core is locked off sets source 31, which has no reaction either. -/
theorem State.sw_raiseEvent {s : State} (q : s.quiet) (n : Nat) : (s.raiseEvent n).sw = s.sw := by
  have hlockacc : Reacted s (s.setBit F.pwrStatLockacc) := (Reacted.refl s).setReg _ _ (.inr (.inr (.inr (.inr (.inl rfl)))))
  unfold State.raiseEvent
  split
  · exact State.sw_raiseSource (hlockacc.quiet q) (n := 31) (by decide) (by decide)
  · exact s.sw_pendEvent n

theorem fixedSource_outSource {o : Nat} (h : o < 56) : fixedSource (outSource o) = false := by
  have hrange : 40 ≤ outSource o ∧ outSource o < 96 := by unfold outSource; split_ifs <;> omega
  simp only [fixedSource, Bool.or_eq_false_iff, beq_eq_false_iff_ne]
  omega

/-! ### A shedding step (R105, R106) -/

/-- The channels of a die that a shedding step can take: on, and governing. -/
def State.onChans (s : State) (d : Nat) : List Nat := (dieChans d).filter (fun c => s.governs c && (s.out c).isOn)

/-- Channel `c` is shed at priority `lo`. -/
def State.shedOne (lo : Nat) (s : State) (c : Nat) : State :=
  ((s.turnOff c .shed).setOut c (fun x => { x with shedPri := lo })).raiseSource (outSource c)

theorem dieChans_lt {d c : Nat} (hd : d < 7) (h : c ∈ dieChans d) : c < 48 := by
  unfold dieChans at h
  split at h
  all_goals
    simp only [List.mem_map, mem_upto] at h
    omega

theorem State.victim_iff (s : State) (d c : Nat) :
    s.victim d c = true ↔ c ∈ s.onChans d ∧ ∀ k ∈ s.onChans d, s.shedPriOf c ≤ s.shedPriOf k := by
  simp only [State.victim, State.onChans, Bool.and_eq_true, List.contains_iff_mem, List.all_eq_true, decide_eq_true_eq]

/-- The lowest of a list of priorities is that of its members that no other is below. -/
theorem eq_foldl_min_iff {l : List Nat} {f : Nat → Nat} {p : Nat} {ps : List Nat} (h : l.map f = p :: ps) {c : Nat} (hc : c ∈ l) :
    f c = ps.foldl min p ↔ ∀ k ∈ l, f c ≤ f k := by
  have hmin : (l.map f).min? = some (ps.foldl min p) := by rw [h]; rfl
  obtain ⟨hmem, hle⟩ := List.min?_eq_some_iff.mp hmin
  constructor
  · intro e k hk
    rw [e]
    exact hle _ (List.mem_map_of_mem hk)
  · intro hlow
    obtain ⟨k, hk, e⟩ := List.mem_map.mp hmem
    exact Nat.le_antisymm (e ▸ hlow k hk) (hle _ (List.mem_map_of_mem hc))

/-- A step sheds the victims one after another and notes itself in the die, which may raise event 73 (R82); without an on channel
there is none. -/
theorem State.shedStep_eq (s : State) (d : Nat) :
    ∃ lo f, let u := (((s.onChans d).filter (s.victim d)).foldl (State.shedOne lo) s).setDie d f
      s.shedStep d = u ∨ s.shedStep d = u.raiseEvent 73 := by
  unfold State.shedStep
  dsimp only
  split
  · next h =>
    have hnone : s.onChans d = [] := List.map_eq_nil_iff.mp h
    rw [hnone]
    exact ⟨0, _, .inl rfl⟩
  · next p ps h =>
    have hvictims : (s.onChans d).filter (fun c => s.shedPriOf c == ps.foldl min p) = (s.onChans d).filter (s.victim d) := by
      refine List.filter_congr fun c hc => ?_
      rw [Bool.eq_iff_iff, beq_iff_eq, State.victim_iff]
      exact (eq_foldl_min_iff h hc).trans (and_iff_right hc).symm
    rw [← hvictims]
    split
    · exact ⟨ps.foldl min p, _, .inr rfl⟩
    · exact ⟨ps.foldl min p, _, .inl rfl⟩

/-- Shedding one channel without a class reaction changes its state and keeps its retries. -/
theorem State.shedOne_out {s : State} (q : s.quiet) (lo : Nat) {c : Nat} (hc : c < 56) :
    (State.shedOne lo s c).quiet ∧ ∀ k, ((State.shedOne lo s c).out k).st = (if k = c then .shed else (s.out k).st) ∧
      ((State.shedOne lo s c).out k).retries = (s.out k).retries := by
  have hset : Reacted s ((s.turnOff c .shed).setOut c (fun x => { x with shedPri := lo })) :=
    ((Reacted.refl s).turnOff c .shed).setOut c _ (fun _ => by simp)
  have hraise := hset.raiseSource (outSource c) (outSource_lt hc)
  refine ⟨hraise.quiet q, fun k => ⟨?_, (hraise.history k).1⟩⟩
  unfold State.shedOne State.out
  rw [State.sw_raiseSource (hset.quiet q) (outSource_lt hc) (fixedSource_outSource hc)]
  by_cases e : k = c
  · subst e
    rw [if_pos rfl]
    refine (congrArg Outp.st (State.out_setOut_same _ _ _ hc)).trans ?_
    rw [State.turnOff_out_same _ hc]
  · rw [if_neg e]
    exact congrArg Outp.st ((State.out_setOut_other _ _ _ _ (Ne.symm e)).trans (State.out_setOut_other _ _ _ _ (Ne.symm e)))

theorem State.shedAll_out {l : List Nat} (hl : ∀ c ∈ l, c < 56) {s : State} (q : s.quiet) (lo : Nat) :
    (l.foldl (State.shedOne lo) s).quiet ∧ ∀ k, ((l.foldl (State.shedOne lo) s).out k).st = (if k ∈ l then .shed else (s.out k).st) ∧
      ((l.foldl (State.shedOne lo) s).out k).retries = (s.out k).retries := by
  induction l generalizing s with
  | nil => exact ⟨q, fun _ => ⟨rfl, rfl⟩⟩
  | cons c l ih =>
    obtain ⟨hq, hone⟩ := State.shedOne_out q lo (hl c List.mem_cons_self)
    obtain ⟨hquiet, hrest⟩ := ih (fun x hx => hl x (List.mem_cons_of_mem c hx)) hq
    refine ⟨hquiet, fun k => ?_⟩
    obtain ⟨hst, hretries⟩ := hone k
    obtain ⟨hst', hretries'⟩ := hrest k
    refine ⟨hst'.trans ?_, hretries'.trans hretries⟩
    rw [hst]
    by_cases e : k = c
    · simp [e]
    · simp [e]

/-- A shedding step without a class reaction puts the victims into SHED and leaves every other output. -/
theorem State.shedStep_out {s : State} (q : s.quiet) {d : Nat} (hd : d < 7) (c : Nat) :
    ((s.shedStep d).out c).st = (if s.victim d c then .shed else (s.out c).st) ∧ ((s.shedStep d).out c).retries = (s.out c).retries := by
  obtain ⟨lo, f, hstep⟩ := s.shedStep_eq d
  obtain ⟨hquiet, hall⟩ := State.shedAll_out (l := (s.onChans d).filter (s.victim d))
    (fun c hc => by have := dieChans_lt hd (List.mem_of_mem_filter (List.mem_of_mem_filter hc)); omega) q lo
  have hdie : ((((s.onChans d).filter (s.victim d)).foldl (State.shedOne lo) s).setDie d f).quiet := hquiet
  have hsw : (s.shedStep d).sw.out = (((s.onChans d).filter (s.victim d)).foldl (State.shedOne lo) s).sw.out := by
    rcases hstep with h | h <;> rw [h]
    · rfl
    · rw [State.sw_raiseEvent hdie]; rfl
  have hmem : c ∈ (s.onChans d).filter (s.victim d) ↔ s.victim d c = true := by
    rw [List.mem_filter, State.victim_iff]
    exact and_iff_right_of_imp And.left
  have hout : (s.shedStep d).out c = (((s.onChans d).filter (s.victim d)).foldl (State.shedOne lo) s).out c := by
    unfold State.out
    rw [hsw]
  rw [hout]
  simpa only [hmem] using hall c

/-! ### A die's reading (R106, R120) -/

section
variable (d : Fin 7) (deg : Int) (s : State)

/-- The state in which a reading of a die has entered OT and TDMAX of the frame. -/
def State.dieRead : State := (s.setPin (.die d) deg).dieReads d

theorem State.dieRead_of_hot (h : 170 * 16 ≤ deg) :
    (s.dieRead d deg).pin (.die d) = deg ∧ ((s.dieRead d deg).dieOf d).ot = true ∧
      ((s.dieRead d deg).dieOf d).tmax = some (match (s.dieOf d).tmax with | some m => max m deg | none => deg) ∧
      s.keeps (s.dieRead d deg) [.pin (.die d), .die d] := by
  have hpin : (s.dieRead d deg).pin (.die d) = deg := s.pin_setPin_same (.die d) deg
  have hdie : (s.dieRead d deg).dieOf d = { s.dieOf d with
      tmax := some (match (s.dieOf d).tmax with | some m => max m deg | none => deg)
      ot := (s.dieOf d).ot || decide (170 * 16 ≤ deg) } := by
    unfold State.dieRead State.dieReads
    rewrite [State.dieOf_setDie_same _ _ _ d.isLt, State.dieOf_setPin, State.pin_setPin_same]
    rfl
  refine ⟨hpin, ?_, by rw [hdie], State.keeps_trans (s.setPin_keeps (.die d) deg) (State.setDie_keeps _ d _)⟩
  rw [hdie, decide_eq_true h]
  exact Bool.or_true _

theorem execDieShed_of_rise (h : 170 * 16 ≤ deg) (hh : (s.dieOf d).hot = false) :
    execDieShed d deg s = .next ((s.dieRead d deg).shedStep d) := congrArg Host.Outcome.next (if_pos ⟨h, hh⟩)

theorem execDieShed_of_noted (h : deg < 170 * 16 ∨ (s.dieOf d).hot = true) : execDieShed d deg s = .next (s.setPin (.die d) deg) := by
  refine congrArg Host.Outcome.next (if_neg fun ⟨hdeg, hhot⟩ => ?_)
  rcases h with h | h
  · exact absurd hdeg (Int.not_le.mpr h)
  · simp [h] at hhot

theorem execShedEscalate_of_due (h : 170 * 16 ≤ deg) (hh : (s.dieOf d).hot = true) (hs : 8 ≤ (s.dieOf d).hotSlots) :
    execShedEscalate d deg s = .next ((s.dieRead d deg).shedStep d) := congrArg Host.Outcome.next (if_pos ⟨h, hh, hs⟩)

theorem execShedEscalate_of_noted (h : deg < 170 * 16 ∨ (s.dieOf d).hot = false ∨ (s.dieOf d).hotSlots < 8) :
    execShedEscalate d deg s = .next (s.setPin (.die d) deg) := by
  refine congrArg Host.Outcome.next (if_neg fun ⟨hdeg, hhot, hslots⟩ => ?_)
  rcases h with h | h | h
  · exact absurd hdeg (Int.not_le.mpr h)
  · simp [h] at hhot
  · omega

end

/-- Settles O11: a reading by `State.dieRead_of_hot`, the victims of a step by `State.shedStep_out`. -/
theorem dieShedding : Obligations.DieShedding := by
  refine ⟨fun d deg s => ?_, fun d s c q _ => State.shedStep_out q d.isLt c⟩
  have hnoted := s.setPin_keeps (.die d) deg
  exact ⟨fun h hh => ⟨_, execDieShed_of_rise d deg s h hh, s.dieRead_of_hot d deg h⟩,
    fun h => ⟨_, execDieShed_of_noted d deg s h, s.pin_setPin_same _ _, hnoted⟩,
    fun h hh hs => ⟨_, execShedEscalate_of_due d deg s h hh hs, s.dieRead_of_hot d deg h⟩,
    fun h => ⟨_, execShedEscalate_of_noted d deg s h, s.pin_setPin_same _ _, hnoted⟩⟩

end Sys2Proof.Machine
end
section
/-!
PROOFS. The stall of a half-bridge, the off-state checks, and the reversed supply of a group (O12).
-/

namespace Sys2Proof.Machine

/-! ### Stall (R137, R138) -/

theorem updN_updN {α : Type} {n : Nat} (v : Vector α n) (i : Nat) (f g : α → α) : updN (updN v i f) i g = updN v i (fun x => g (f x)) := by
  unfold updN
  by_cases h : i < n <;> simp [h]

theorem State.setOut_setOut (s : State) (o : Nat) (f g : Outp → Outp) : (s.setOut o f).setOut o g = s.setOut o (fun x => g (f x)) := by
  unfold State.setOut
  simp only [updN_updN]

/-- A stall is reported and its count restarts; where it acts, it stops the output. -/
def Outp.stall (acts : Bool) (x : Outp) : Outp :=
  { x with
    fr := { x.fr with stall := true }
    hb := { x.hb with stallRun := 0, stopped := acts || x.hb.stopped } }

/-- The state in which the stall of output `e` has been taken, before the event that follows one that acts. -/
def State.stallTaken (s : State) (e : Nat) : State := s.setOut e (Outp.stall (s.bit (F.swHbstallStact (e - 48))))

/-- The stall count of the output that governs half-bridge `n` has reached STN. -/
def State.stallDue (s : State) (n : Nat) : Bool :=
  decide (max 1 (s.fld (F.swHbstallStn (s.gov (48 + n) - 48))) ≤ (s.out (s.gov (48 + n))).hb.stallRun)

section
variable {n : Fin 8} {s : State}

theorem execHbStall_of_due (h : s.stallDue n = true) :
    execHbStall n s = .next (if s.bit (F.swHbstallStact (s.gov (48 + n) - 48)) then (s.stallTaken (s.gov (48 + n))).raiseEvent 72
      else s.stallTaken (s.gov (48 + n))) := by
  unfold execHbStall State.stallTaken
  dsimp only
  rw [if_pos (of_decide_eq_true h)]
  generalize s.bit (F.swHbstallStact (s.gov (48 + n) - 48)) = acts
  cases acts with
  | false =>
    simp only [Bool.false_eq_true, if_false]
    rfl
  | true =>
    simp only [State.setOut_setOut, if_true]
    exact congrArg (fun t : State => Host.Outcome.next (t.raiseEvent 72)) rfl

theorem execHbStall_of_below (h : s.stallDue n = false) : execHbStall n s = .next s :=
  congrArg Host.Outcome.next (if_neg (of_decide_eq_false h))

end

/-- An output that a stall stops does not conduct (R138). -/
theorem State.not_driven_of_stopped {s : State} {o : Nat} (h : (s.out (s.gov o)).hb.stopped = true) : s.driven o = false := by
  simp [State.driven, h]

theorem State.not_driven_stallTaken {s : State} {o : Nat} (ho : o < 56) (hact : s.bit (F.swHbstallStact (s.gov o - 48)) = true) :
    (s.stallTaken (s.gov o)).driven o = false := by
  refine State.not_driven_of_stopped ?_
  unfold State.stallTaken
  rw [State.gov_of_keeps (s.setOut_keeps (s.gov o) _), State.out_setOut_same _ _ _ (Nat.lt_of_le_of_lt (s.gov_le o) ho), hact]
  rfl

/-! ### Off-state checks (R125, R126, R136) -/

/-- The phase-A voltage of a check: of a full bridge the difference of its lands, not below 0. -/
def State.phaseA (s : State) (o : Nat) (land odd : Int) : Int := if 48 ≤ o ∧ s.paired o = true then max 0 (land - odd) else land

/-- The state in which the phase-A sample of a check has been stored. -/
def State.sampledA (s : State) (o : Nat) (land odd : Int) : State :=
  (s.advance (s.slotAt (s.seff / 2))).setOut o (fun x => { x with dg := { x.dg with phaseA := some (s.phaseA o land odd) } })

/-- STB of a check whose phase-B sample is `land`, of a full bridge `land` and `odd`. -/
def State.checkStb (s : State) (o : Nat) (land odd : Int) : Bool :=
  (if o < 48 then s.bit (F.swDcfgStben o) else s.bit (F.swHbdcfgStben (o - 48))) &&
    (decide (s.pin (.vbat (groupOf o)) ≤ 2 * land) || (decide (48 ≤ o) && s.paired o && decide (s.pin (.vbat (groupOf o)) ≤ 2 * odd)))

/-- What a check with phase-A voltage `a` and OL threshold `th` leaves in its output. -/
def Outp.checked (stb : Bool) (th a : Int) (x : Outp) : Outp :=
  { x with
    fr := { x.fr with chk := true }
    dg := { x.dg with phaseA := none, stb := stb, ol := !stb && decide (th ≤ a), vpu := min 0xFFFF a.toNat } }

/-- The state in which a check has been decided. -/
def State.checkDecided (s : State) (o : Nat) (land odd a : Int) : State :=
  (s.advance (s.slotAt (s.seff - 2))).fresh.2.setOut o (Outp.checked (s.checkStb o land odd) s.olThreshold a)

theorem State.olThreshold_range (s : State) : 2200 ≤ s.olThreshold ∧ s.olThreshold ≤ 2800 := by
  unfold State.olThreshold
  omega

theorem State.sampledA_keeps (s : State) (o : Nat) (land odd : Int) : s.keeps (s.sampledA o land odd) [.out o, .count] :=
  State.keeps_trans (s.advance_keeps _) (State.setOut_keeps _ o _)

theorem State.checkDecided_keeps (s : State) (o : Nat) (land odd a : Int) : s.keeps (s.checkDecided o land odd a) [.out o, .count, .free] :=
  State.keeps_trans (n := [.out o, .count, .free]) (State.keeps_trans (n := [.count, .free]) (s.advance_keeps _) (State.fresh_keeps _))
    (State.setOut_keeps _ o _)

section
variable {o : Fin 56} {s : State} {land odd a : Int}

theorem execOffStatePhaseA_of_runs (h : s.checkRuns o = true) : execOffStatePhaseA o land odd s = .next (s.sampledA o land odd) :=
  congrArg Host.Outcome.next (if_pos h)

theorem execOffStatePhaseA_of_idle (h : s.checkRuns o = false) : execOffStatePhaseA o land odd s = .next s :=
  congrArg Host.Outcome.next (if_neg (by simp [h]))

theorem execOffStateCheck_of_sampled (h : s.checkRuns o = true) (ha : (s.out o).dg.phaseA = some a) :
    execOffStateCheck o land odd s = .next (s.checkDecided o land odd a) := by
  unfold execOffStateCheck
  rw [h, ha]
  rfl

theorem execOffStateCheck_of_idle (h : s.checkRuns o = false) : execOffStateCheck o land odd s = .next s := by
  unfold execOffStateCheck
  rw [h]

theorem execOffStateCheck_of_unsampled (h : (s.out o).dg.phaseA = none) : execOffStateCheck o land odd s = .next s := by
  unfold execOffStateCheck
  rw [h]
  cases s.checkRuns o <;> rfl

end

/-! ### A group held off (R55, R421) -/

/-- A loop whose turn `i` changes entry `i` of a table alone changes each entry once. -/
theorem forEach_entry {α : Type} {n : Nat} {entry : State → Nat → α} {turn : State → Nat → State} {f : Nat → α → α}
    (hsame : ∀ t i, i < n → entry (turn t i) i = f i (entry t i)) (hother : ∀ t i j, i ≠ j → entry (turn t i) j = entry t j)
    (s : State) {j : Nat} (hj : j < n) : entry (forEach n turn s) j = f j (entry s j) := by
  have hloop : entry (forEach n turn s) j = if j < n then f j (entry s j) else entry s j := by
    refine forEach_induct (Q := fun i t => entry t j = if j < i then f j (entry s j) else entry s j) rfl fun i t hi ht => ?_
    by_cases e : i = j
    · subst e
      rw [hsame t i hi, ht, if_neg (Nat.lt_irrefl i), if_pos (Nat.lt_succ_self i)]
    · rw [hother t i j e, ht]
      exact if_congr (by omega) rfl rfl
  rw [hloop, if_pos hj]

theorem State.ledCountAll_keeps (s : State) : s.keeps s.ledCountAll ((upto 24).map .led) :=
  State.forEach_keeps _ _ _ fun t i hi => State.keeps_mono (t.setSink_keeps i _) (by simpa [mem_upto] using hi)

theorem State.vsOff_keeps (s : State) : s.keeps s.vsOff ((upto 4).map .vsIn) :=
  State.forEach_keeps _ _ _ fun t i hi => State.keeps_mono (t.setVs_keeps i _) (by simpa [mem_upto] using hi)

theorem State.vsIn_vsOff (s : State) {v : Nat} (hv : v < 4) : s.vsOff.vsIn v = { s.vsIn v with on := false, low := 0 } :=
  forEach_entry (entry := State.vsIn) (f := fun _ x => { x with on := false, low := 0 })
    (fun t i hi => t.vsIn_setVs_same i _ hi) (fun t i j h => t.vsIn_setVs_other i j _ h) s hv

/-- The parts that change when the outputs of group `g` are held off. -/
def heldOffParts (g : Nat) : List Part := .grp g :: (upto 24).map .led ++ (if g = 2 then (upto 4).map .vsIn else [])

section
variable (s : State) (g : Nat) (f : Grp → Grp)

/-- The sinks counted and the group changed, before the sensor supplies turn off. -/
theorem State.countedGrp_keeps : s.keeps (s.ledCountAll.setGrp g f) (.grp g :: (upto 24).map .led) :=
  State.keeps_trans s.ledCountAll_keeps (State.setGrp_keeps _ g f)

theorem State.holdOff_of_vbatC : s.holdOff 2 f = (s.ledCountAll.setGrp 2 f).vsOff := rfl

theorem State.holdOff_of_other {g : Nat} (h : g ≠ 2) : s.holdOff g f = s.ledCountAll.setGrp g f := if_neg h

theorem State.holdOff_keeps : s.keeps (s.holdOff g f) (heldOffParts g) := by
  unfold heldOffParts
  by_cases h : g = 2
  · subst h
    rw [if_pos rfl, s.holdOff_of_vbatC f]
    exact State.keeps_trans (s.countedGrp_keeps 2 f) (State.vsOff_keeps _) (List.subset_append_left _ _) (List.subset_append_right _ _)
  · rw [if_neg h, s.holdOff_of_other f h, List.append_nil]
    exact s.countedGrp_keeps g f

/-- What follows the change of the group leaves the group and the sinks. -/
theorem State.counted_holdOff : (s.ledCountAll.setGrp g f).keeps (s.holdOff g f) ((upto 4).map .vsIn) := by
  by_cases h : g = 2
  · subst h
    exact State.vsOff_keeps _
  · rw [s.holdOff_of_other f h]
    exact State.keeps_refl _ _

theorem State.grp_holdOff {g : Nat} (hg : g < 3) : (s.holdOff g f).grp g = f (s.grp g) := by
  have hcount : s.ledCountAll.grp g = s.grp g := s.ledCountAll_keeps.2 (.grp g) (by simp)
  have hrest : (s.holdOff g f).grp g = (s.ledCountAll.setGrp g f).grp g := (s.counted_holdOff g f).2 (.grp g) (by simp)
  rw [hrest, State.grp_setGrp_same _ _ _ hg, hcount]

theorem State.sink_holdOff (n : Nat) : (s.holdOff g f).sink n = s.ledCountAll.sink n :=
  ((s.counted_holdOff g f).2 (.led n) (by simp)).trans (State.sink_setGrp _ g f n)

theorem State.vsIn_holdOff {v : Nat} (hv : v < 4) : (s.holdOff 2 f).vsIn v = { s.vsIn v with on := false, low := 0 } := by
  have hcount : (s.ledCountAll.setGrp 2 f).vsIn v = s.vsIn v := (s.countedGrp_keeps 2 f).2 (.vsIn v) (by simp)
  rw [s.holdOff_of_vbatC f, State.vsIn_vsOff _ hv, hcount]

end

/-! ### Reversed supply (R132, R135) -/

/-- Every channel that group `g` feeds changed. -/
def State.setChans (s : State) (g : Nat) (f : Outp → Outp) : State := forEach 48 (fun t c => if groupOf c = g then t.setOut c f else t) s

theorem State.setChans_keeps (s : State) (g : Nat) (f : Outp → Outp) : s.keeps (s.setChans g f) ((upto 48).map .out) := by
  refine State.forEach_keeps _ _ _ fun t c hc => ?_
  split
  · exact State.keeps_mono (t.setOut_keeps c f) (by simpa [mem_upto] using hc)
  · exact State.keeps_refl _ _

theorem State.out_setChans (s : State) (g : Nat) (f : Outp → Outp) {c : Nat} (hc : c < 48) :
    (s.setChans g f).out c = if groupOf c = g then f (s.out c) else s.out c := by
  refine forEach_entry (entry := State.out) (f := fun i x => if groupOf i = g then f x else x) (fun t i hi => ?_) (fun t i j h => ?_) s hc
  · split
    · exact t.out_setOut_same i f (by omega)
    · rfl
  · split
    · exact t.out_setOut_other i j f h
    · rfl

/-- A channel turned on in reverse, which RV of the frame reports. -/
def Outp.reverse (x : Outp) : Outp := { x with dg := { x.dg with revOn := true, offEdges := 0 }, fr := { x.fr with rev := true } }

/-- A channel whose reversal has ended. -/
def Outp.endReverse (x : Outp) : Outp := { x with dg := { x.dg with revOn := false, offEdges := 0 } }

/-- A group as its reversal begins. -/
def Grp.reverse (x : Grp) : Grp := { x with reversed := true, revF := true, revWait := true }

/-- The state in which a reversal of group `g` has begun. -/
def State.reverseBegun (s : State) (g : Nat) : State := (s.holdOff g Grp.reverse).setChans g Outp.reverse

/-- The state in which the reversal of group `g` has ended. -/
def State.reverseEnded (s : State) (g : Nat) : State := (s.setGrp g (fun x => { x with reversed := false })).setChans g Outp.endReverse

/-- An output whose group is held off does not conduct. -/
theorem State.not_driven_of_groupOff {s : State} {o : Nat} (h : s.groupOff (groupOf o) = true) : s.driven o = false := by
  simp [State.driven, h]

theorem State.groupOff_of_reversed {s : State} {g : Nat} (h : (s.grp g).reversed = true) : s.groupOff g = true := by
  simp [State.groupOff, h]

theorem State.groupOff_of_revWait {s : State} {g : Nat} (h : (s.grp g).revWait = true) : s.groupOff g = true := by
  simp [State.groupOff, h]

theorem groupOf_half_bridge (n : Nat) : groupOf (48 + n) = 2 := by
  unfold groupOf
  rw [if_neg (by omega), if_neg (by omega)]

section
variable (s : State) {g : Nat}

theorem State.reverseBegun_keeps (g : Nat) : s.keeps (s.reverseBegun g) (heldOffParts g ++ (upto 48).map .out) :=
  State.keeps_trans (s.holdOff_keeps g _) (State.setChans_keeps _ g _) (List.subset_append_left _ _) (List.subset_append_right _ _)

theorem State.grp_reverseBegun (hg : g < 3) : (s.reverseBegun g).grp g = (s.grp g).reverse :=
  ((State.setChans_keeps _ g _).2 (.grp g) (by simp)).trans (s.grp_holdOff _ hg)

theorem State.out_reverseBegun (g : Nat) {c : Nat} (hc : c < 48) :
    (s.reverseBegun g).out c = if groupOf c = g then (s.out c).reverse else s.out c := by
  have hheld : (s.holdOff g Grp.reverse).out c = s.out c := (s.holdOff_keeps g _).2 (.out c) (by unfold heldOffParts; split <;> simp)
  rw [State.reverseBegun, State.out_setChans _ _ _ hc, hheld]

theorem State.sink_reverseBegun (g n : Nat) : (s.reverseBegun g).sink n = s.ledCountAll.sink n :=
  ((State.setChans_keeps _ g _).2 (.led n) (by simp)).trans (s.sink_holdOff g _ n)

theorem State.vsIn_reverseBegun {v : Nat} (hv : v < 4) : (s.reverseBegun 2).vsIn v = { s.vsIn v with on := false, low := 0 } :=
  ((State.setChans_keeps _ 2 _).2 (.vsIn v) (by simp)).trans (s.vsIn_holdOff _ hv)

theorem State.reverseEnded_keeps (g : Nat) : s.keeps (s.reverseEnded g) (.grp g :: (upto 48).map .out) :=
  State.keeps_trans (s.setGrp_keeps g _) (State.setChans_keeps _ g _)

theorem State.grp_reverseEnded (hg : g < 3) : (s.reverseEnded g).grp g = { s.grp g with reversed := false } :=
  ((State.setChans_keeps _ g _).2 (.grp g) (by simp)).trans (s.grp_setGrp_same g _ hg)

theorem State.out_reverseEnded (g : Nat) {c : Nat} (hc : c < 48) :
    (s.reverseEnded g).out c = if groupOf c = g then (s.out c).endReverse else s.out c := State.out_setChans _ g _ hc

end

section
variable {g : Fin 3} {mv : Int} {s : State}

theorem execReverseOn_of_beyond (h : mv < -58000) : execReverseOn g mv s = .fault (.uncheckedUse 424) := if_pos h

theorem execReverseOn_of_reversed (hlow : -58000 ≤ mv) (h : mv < -1000) :
    execReverseOn g mv s = .next ((s.setPin (.vbat g) mv).reverseBegun g) :=
  (if_neg (Int.not_lt.mpr hlow)).trans (congrArg Host.Outcome.next (if_pos h))

theorem execReverseOn_of_above (h : -1000 ≤ mv) : execReverseOn g mv s = .next (s.setPin (.vbat g) mv) :=
  (if_neg (by omega)).trans (congrArg Host.Outcome.next (if_neg (Int.not_lt.mpr h)))

theorem execReverseEnd_of_risen (hr : (s.grp g).reversed = true) (h : -500 < mv) :
    execReverseEnd g mv s = .next ((s.setPin (.vbat g) mv).reverseEnded g) := congrArg Host.Outcome.next (if_pos ⟨hr, h⟩)

theorem execReverseEnd_of_none (h : (s.grp g).reversed = false ∨ mv ≤ -500) : execReverseEnd g mv s = .next (s.setPin (.vbat g) mv) := by
  refine congrArg Host.Outcome.next (if_neg fun ⟨hr, hmv⟩ => ?_)
  rcases h with h | h
  · simp [h] at hr
  · omega

end

/-- What a reversal changes is among the parts that the statement names. -/
theorem reversedParts_subset (g : Fin 3) : heldOffParts g ++ (upto 48).map Part.out ⊆
    (.pin (.vbat g) :: .grp g :: (upto 48).map .out ++ (upto 24).map .led ++ (if g = 2 then (upto 4).map .vsIn else []) : List Part) := by
  have hg : (g.val = 2) = (g = 2) := propext (Fin.ext_iff (b := 2)).symm
  unfold heldOffParts
  simp only [hg]
  intro p hp
  simp only [List.mem_append, List.mem_cons] at hp ⊢
  tauto

/-! ### The statement -/

/-- A due stall completes with its report, and stops the half-bridge where it acts. -/
theorem hbStall_due {n : Fin 8} {s : State} (h : s.stallDue n = true) :
    let e := s.gov (48 + n)
    let act := s.bit (F.swHbstallStact (e - 48))
    ∃ u, exec (.hbStall n) s = .next (if act then u.raiseEvent 72 else u) ∧ u.out e = (s.out e).stall act ∧
      (act = true → u.driven (48 + n) = false ∧ u.hbSwitches n = (false, false)) ∧ s.keeps u [.out e] := by
  intro e act
  have he : e < 56 := Nat.lt_of_le_of_lt (s.gov_le (48 + n)) (by omega)
  refine ⟨s.stallTaken e, execHbStall_of_due h, s.out_setOut_same e _ he, fun hact => ?_, s.setOut_keeps e _⟩
  have hoff : (s.stallTaken e).driven (48 + n) = false := State.not_driven_stallTaken (by omega) hact
  exact ⟨hoff, State.hbSwitches_of_not_driven hoff⟩

/-- A check that runs stores its phase-A sample at the end of slot h - 1. -/
theorem offStatePhaseA_runs {o : Fin 56} {s : State} (h : s.checkRuns o = true) (land odd : Int) :
    ∃ u, exec (.offStatePhaseA o land odd) s = .next u ∧
      u.out o = { s.out o with dg := { (s.out o).dg with phaseA := some (s.phaseA o land odd) } } ∧
      u.count = max s.count (s.slotAt (s.seff / 2)) ∧ s.keeps u [.out o, .count] :=
  ⟨_, execOffStatePhaseA_of_runs h, State.out_setOut_same _ _ _ o.isLt, rfl, s.sampledA_keeps o land odd⟩

/-- A check that has its phase-A sample is decided at the end of slot S_eff - 3. -/
theorem offStateCheck_sampled {o : Fin 56} {s : State} {a : Int} (h : s.checkRuns o = true) (ha : (s.out o).dg.phaseA = some a)
    (land odd : Int) : ∃ u, ∃ th : Int, exec (.offStateCheck o land odd) s = .next u ∧ 2200 ≤ th ∧ th ≤ 2800 ∧
      u.out o = (s.out o).checked (s.checkStb o land odd) th a ∧ u.count = max s.count (s.slotAt (s.seff - 2)) ∧
      s.keeps u [.out o, .count, .free] := by
  obtain ⟨hlow, hhigh⟩ := s.olThreshold_range
  exact ⟨_, s.olThreshold, execOffStateCheck_of_sampled h ha, hlow, hhigh, State.out_setOut_same _ _ _ o.isLt, rfl,
    s.checkDecided_keeps o land odd a⟩

/-- Settles O12: what each command does by its `exec` lemma, what a stall leaves by `hbStall_due`, a check by `offStatePhaseA_runs` and
`offStateCheck_sampled`, a reversal by the lemmas of `State.reverseBegun` and `State.reverseEnded`. -/
theorem wireFaultSteps : Obligations.WireFaultSteps := by
  refine ⟨fun n s => ⟨fun h => execHbStall_of_below h, fun h => hbStall_due h⟩,
    fun o land odd s => ⟨fun h => ⟨execOffStatePhaseA_of_idle h, execOffStateCheck_of_idle h⟩, fun h => offStatePhaseA_runs h land odd,
      fun h => execOffStateCheck_of_unsampled h, fun a h ha => offStateCheck_sampled h ha land odd⟩,
    fun g mv s => ?_⟩
  have hpin : (s.setPin (.vbat g) mv).pin (.vbat g) = mv := s.pin_setPin_same _ _
  have hread : s.keeps (s.setPin (.vbat g) mv) [.pin (.vbat g)] := s.setPin_keeps _ _
  refine ⟨fun h => execReverseOn_of_beyond h, fun h => ⟨_, execReverseOn_of_above h, hpin, hread⟩, fun hlow h => ?_,
    fun h => ⟨_, execReverseEnd_of_none h, hpin, hread⟩, fun hr h => ?_⟩
  · have hbegun := (s.setPin (.vbat g) mv).reverseBegun_keeps g
    have hgrp := (s.setPin (.vbat g) mv).grp_reverseBegun g.isLt
    refine ⟨_, execReverseOn_of_reversed hlow h, ?_, hgrp, fun c hc => State.out_reverseBegun _ g hc, fun hg n _ => ?_, fun hg v hv => ?_,
      fun n _ => State.sink_reverseBegun _ g n, State.keeps_trans hread hbegun (by simp) (reversedParts_subset g)⟩
    · exact (hbegun.2 (.pin (.vbat g)) (by unfold heldOffParts; split <;> simp)).trans hpin
    · subst hg
      refine State.not_driven_of_groupOff ?_
      rw [groupOf_half_bridge]
      exact State.groupOff_of_reversed (congrArg Grp.reversed hgrp)
    · subst hg
      exact State.vsIn_reverseBegun _ hv
  · have hended := (s.setPin (.vbat g) mv).reverseEnded_keeps g
    have hgrp := (s.setPin (.vbat g) mv).grp_reverseEnded g.isLt
    refine ⟨_, execReverseEnd_of_risen hr h, ?_, hgrp, fun c hc => State.out_reverseEnded _ g hc, fun hw c _ hcg => ?_,
      State.keeps_trans hread hended (by simp) (List.subset_cons_self _ _)⟩
    · exact (hended.2 (.pin (.vbat g)) (by simp)).trans hpin
    · refine State.not_driven_of_groupOff ?_
      rw [hcg]
      exact State.groupOff_of_revWait ((congrArg Grp.revWait hgrp).trans hw)

end Sys2Proof.Machine
end
section
/-!
PROOFS. The threads of the Press: engines, granted slots, the end of a hold, the detector's window, the loader's copy (O14).
-/

namespace Sys2Proof.Machine

/-! ### A coil channel changed -/

theorem State.setCoil_setCoil (s : State) (t : Nat) (f g : Coil → Coil) : (s.setCoil t f).setCoil t g = s.setCoil t (fun x => g (f x)) := by
  unfold State.setCoil
  simp only [updN_updN]

/-- A channel that is changed alone becomes what the change makes of it. -/
theorem State.setCoil_becomes (s : State) {t : Nat} (ht : t < 12) (f : Coil → Coil) : s.coilBecomes (s.setCoil t f) t (f (s.coil t)) :=
  ⟨s.coil_setCoil_same t f ht, s.setCoil_keeps t f⟩

/-- A change of one channel leaves what no change of it touches, of every channel. -/
theorem State.setCoil_view {α : Type} (p : Coil → α) (s : State) (t k : Nat) {f : Coil → Coil} (hf : ∀ x, p (f x) = p x) :
    p ((s.setCoil t f).coil k) = p (s.coil k) := by
  unfold State.coil State.setCoil
  rw [nth_updN]
  split
  · exact hf _
  · rfl

/-- Whether fast decay acts as slow decay rests on the clamp guards alone (R149, R150). -/
theorem State.plSlow_setCoil (s : State) (t k : Nat) {f : Coil → Coil} (hf : ∀ x, (f x).dg = x.dg) : (s.setCoil t f).plSlow k = s.plSlow k := by
  have hdg : ∀ c, ((s.setCoil t f).coil c).dg = (s.coil c).dg := fun c => State.setCoil_view Coil.dg s t c hf
  unfold State.plSlow
  simp only [hdg]
  rfl

/-- The freewheel switch of a channel whose thread does not regulate is on (R152). -/
def State.restFw (s : State) (t : Nat) : Bool := s.plSlow t && decide (50 ≤ s.plSample t)

/-- A channel whose thread goes to the state `st`, in which it does not regulate, with its freewheel switch at `fw` (R152, R171). -/
def Coil.stopped (x : Coil) (st : TSt) (fw : Bool) : Coil :=
  { x with
    st := st, request := false, slot := none, pendAct := false, wait := .ready, det := { x.det with armed := none }
    ls := false, fw := fw, offN := 0 }

theorem State.plStop_eq (s : State) (t : Nat) (st : TSt) : s.plStop t st = s.setCoil t (fun x => x.stopped st (s.restFw t)) := by
  have hslow := s.plSlow_setCoil t t (fun _ => rfl) (f := fun x => { x with
    st := st, request := false, slot := none, pendAct := false, wait := .ready, det := { x.det with armed := none } })
  exact (s.setCoil_setCoil t _ _).trans (congrArg (fun slow => s.setCoil t (Coil.stopped · st (slow && _))) hslow)

/-! ### Engines (R158) -/

/-- A one-bit field reads what it was given. -/
theorem State.bit_putBit_same {s : State} (hs : s.canonical) {f : Fld} (hw : f.width = 1) (hlo : f.lo < 32) (b : Bool) :
    (s.putBit f b).bit f = b := by
  unfold State.bit State.putBit State.setFld State.fld
  rw [State.reg_setReg_same _ _ _ hs, getBits_setBits_same _ _ _ _ (by omega), hw]
  cases b <;> rfl

/-- Both channels of an engine changed. -/
theorem State.coil_setEngine (s : State) (e : Fin 6) (f g : Coil → Coil) {t : Nat} (ht : t / 2 = e.val) :
    ((s.setCoil (2 * e) f).setCoil (2 * e + 1) g).coil t = if t = 2 * e then f (s.coil t) else g (s.coil t) := by
  by_cases h : t = 2 * e
  · subst h
    rw [if_pos rfl, State.coil_setCoil_other _ _ _ _ (by omega), State.coil_setCoil_same _ _ _ (by omega)]
  · have hodd : t = 2 * e + 1 := by omega
    subst hodd
    rw [if_neg h, State.coil_setCoil_same _ _ _ (by omega), State.coil_setCoil_other _ _ _ _ (by omega)]

theorem State.setEngine_keeps (s : State) (e : Fin 6) (b : Bool) (f g : Coil → Coil) :
    s.keeps (((s.putBit (F.prsEctlRun e) b).setCoil (2 * e) f).setCoil (2 * e + 1) g)
      [.reg (F.prsEctlRun e).addr, .coil (2 * e), .coil (2 * e + 1)] := by
  have hrun : s.keeps (s.putBit (F.prsEctlRun e) b) [.reg (F.prsEctlRun e).addr] := s.setFld_keeps _ _
  have hfirst := State.keeps_trans hrun (State.setCoil_keeps _ (2 * e) f) (n := [.reg (F.prsEctlRun e).addr, .coil (2 * e), .coil (2 * e + 1)])
  exact State.keeps_trans hfirst (State.setCoil_keeps _ (2 * e + 1) g)

/-- A thread whose engine starts: it leaves STOP, and the next edge is the first after RUN became 1, unless it was 1. -/
def Coil.started (was : Bool) (x : Coil) : Coil := { x with st := if x.st = .stop then .idle else x.st, fresh := x.fresh || !was }

theorem State.setRun_start (s : State) (e : Nat) : s.setRun e true =
    ((s.putBit (F.prsEctlRun e) true).setCoil (2 * e) (Coil.started (s.bit (F.prsEctlRun e)))).setCoil (2 * e + 1)
      (Coil.started (s.bit (F.prsEctlRun e))) := rfl

theorem State.setRun_stop (s : State) (e : Nat) : ∃ fw fw', s.setRun e false =
    ((s.putBit (F.prsEctlRun e) false).setCoil (2 * e) (Coil.stopped · .stop fw)).setCoil (2 * e + 1) (Coil.stopped · .stop fw') :=
  ⟨_, _, (State.plStop_eq _ (2 * e + 1) .stop).trans (congrArg (State.setCoil · _ _) (State.plStop_eq _ (2 * e) .stop))⟩

theorem engineStart_of_on {e : Fin 6} {s : State} (hs : s.canonical) (h : s.storesOff = false) :
    ∃ u, execEngineStart e s = .next u ∧ u.bit (F.prsEctlRun e) = true ∧
      (∀ t, t < 12 → t / 2 = e.val → u.coil t = (s.coil t).started (s.bit (F.prsEctlRun e))) ∧
      s.keeps u [.reg (F.prsEctlRun e).addr, .coil (2 * e), .coil (2 * e + 1)] := by
  refine ⟨_, congrArg Host.Outcome.next ((s.store_of_on h _ _).trans (s.setRun_start e)), ?_, fun t _ hte => ?_, s.setEngine_keeps e true _ _⟩
  · exact State.bit_putBit_same hs rfl (Nat.zero_lt_succ 31) true
  · rw [State.coil_setEngine _ e _ _ hte, ite_self]; rfl

theorem engineStop_of_on {e : Fin 6} {s : State} (hs : s.canonical) (h : s.storesOff = false) :
    ∃ u, execEngineStop e s = .next u ∧ u.bit (F.prsEctlRun e) = false ∧
      (∀ t, t < 12 → t / 2 = e.val → ∃ fw, u.coil t = (s.coil t).stopped .stop fw) ∧
      s.keeps u [.reg (F.prsEctlRun e).addr, .coil (2 * e), .coil (2 * e + 1)] := by
  obtain ⟨fw, fw', hstop⟩ := s.setRun_stop e
  refine ⟨_, congrArg Host.Outcome.next ((s.store_of_on h _ _).trans hstop), ?_, fun t _ hte => ?_, s.setEngine_keeps e false _ _⟩
  · exact State.bit_putBit_same hs rfl (Nat.zero_lt_succ 31) false
  · rw [State.coil_setEngine _ e _ _ hte]
    split
    · exact ⟨fw, rfl⟩
    · exact ⟨fw', rfl⟩

/-! ### Granted slots (R160, R171) -/

/-- The granted slot of a thread begins. -/
def State.slotStarts (s : State) (t : Nat) : Bool := decide ((s.coil t).slot = some s.frm.slot) && s.plGoverns t && s.pressRuns

/-- A thread whose start is granted, at the moment `at_`, enters PEAK at the address `pc`. -/
def Coil.start (x : Coil) (pc at_ : Nat) : Coil :=
  { x with
    st := .peak, slot := none, pc := pc, target := 0, decay := 0, fs := 1, t := false, lc := 0
    wait := .ready, det := {}, grantAt := at_, ls := false, fw := true, offN := 0 }

/-- A thread in HOLD whose re-peak is granted, at the moment `at_`, returns to PEAK at the address `a`. -/
def Coil.repeak (x : Coil) (a at_ : Nat) : Coil :=
  { x with st := .peak, slot := none, pc := a, t := false, wait := .ready, det := {}, grantAt := at_, fr := { x.fr with rpk := true } }

/-- The state in which the granted slot of thread `t` has changed its channel. -/
def State.slotStarted (s : State) (t : Nat) (f : Coil → Coil) : State := (s.advance (s.slotAt s.frm.slot)).setCoil t f

theorem State.slotStarted_keeps (s : State) (t : Nat) (f : Coil → Coil) : s.keeps (s.slotStarted t f) [.coil t, .count] :=
  State.keeps_trans (s.advance_keeps _) (State.setCoil_keeps _ t f)

section
variable {t : Fin 12} {s : State}

theorem State.coil_slotStarted (f : Coil → Coil) : (s.slotStarted t f).coil t = f (s.coil t) := State.coil_setCoil_same _ _ f t.isLt

theorem execGrantedSlotStart_of_waitg (h : s.slotStarts t = true) (hst : (s.coil t).st = .waitg) :
    execGrantedSlotStart t s =
      .next (s.slotStarted t (Coil.start · (s.fld (F.prsCstartAddr t)) (max s.count (s.slotAt s.frm.slot)))) := by
  refine congrArg Host.Outcome.next ((if_pos h).trans ?_)
  rw [hst]
  rfl

theorem execGrantedSlotStart_of_hold {a : Nat} (h : s.slotStarts t = true) (hst : (s.coil t).st = .hold) (hw : (s.coil t).wait = .hold a) :
    execGrantedSlotStart t s = .next (s.slotStarted t (Coil.repeak · a (max s.count (s.slotAt s.frm.slot)))) := by
  refine congrArg Host.Outcome.next ((if_pos h).trans ?_)
  rw [hst, hw]
  rfl

theorem execGrantedSlotStart_of_none
    (h : s.slotStarts t = false ∨ ((s.coil t).st ≠ .waitg ∧ ((s.coil t).st ≠ .hold ∨ ∀ a, (s.coil t).wait ≠ .hold a))) :
    execGrantedSlotStart t s = .next s := by
  refine congrArg Host.Outcome.next ?_
  rcases h with h | ⟨hwaitg, hhold⟩
  · exact if_neg (by simp [State.slotStarts] at h ⊢; exact h)
  · refine (congrArg (ite _ · _) ?_).trans (ite_self s)
    dsimp only
    split
    · next _ _ hst => exact absurd hst hwaitg
    · next _ _ a hst hw => exact hhold.elim (absurd hst) (fun h => absurd hw (h a))
    · rfl

end

/-! ### The end of a hold (R155, R160) -/

theorem State.keeps_putIn {s t : State} (h : s.keeps t [.images]) (o : Nat) (w : TWord) : s.keeps (t.putIn o w) [.images] :=
  State.keeps_trans h (t.putIn_keeps o w)

theorem State.keeps_coilRecord {s t : State} (h : s.keeps t [.images]) (c : Nat) : s.keeps (t.coilRecord c) [.images] := by
  unfold State.coilRecord
  dsimp only
  iterate 11 apply State.keeps_putIn
  exact h

/-- The records that an edge's own steps change again lie in the image (R190). -/
theorem State.refreshPl_keeps (s : State) (t : Nat) : s.keeps (s.refreshPl t) [.images] := by
  unfold State.refreshPl
  split
  · have hcoils := State.foldl_keeps (s.plMembers t) State.coilRecord s fun u c _ => State.keeps_coilRecord (u.keeps_refl _) c
    unfold State.prsHeader State.engineRecord State.bankRecord
    dsimp only
    rw [if_pos rfl]
    iterate 6 apply State.keeps_putIn
    exact hcoils
  · exact s.keeps_refl _

/-- The hold of a thread ends at this edge (R155). -/
def State.holdEnds (s : State) (t : Nat) : Bool :=
  s.atEdge && s.plGoverns t && s.pressRuns && !(s.coil t).hend &&
    (!(s.effPl t).on || (decide ((s.effPl t).htime ≠ 0) && decide ((s.effPl t).htime ≤ (s.coil t).age)))

/-- The thread's hold-ended flag is set. -/
def Coil.endHold (x : Coil) : Coil := { x with hend := true }

/-- A thread in HOLD leaves it for REL (R160). -/
def Coil.release (x : Coil) : Coil := { x with st := .rel, wait := .ready, request := false, slot := none }

section
variable {t : Fin 12} {s : State}

theorem execHoldEnded_of_none (h : s.holdEnds t = false) : execHoldEnded t s = .next s :=
  congrArg Host.Outcome.next (if_neg (by unfold State.holdEnds at h; simpa using h))

theorem execHoldEnded_of_ends (h : s.holdEnds t = true) : execHoldEnded t s = .next
    ((if (s.coil t).st = .hold then (s.setCoil t Coil.endHold).ucNext t Coil.release else s.setCoil t Coil.endHold).refreshPl t) :=
  congrArg Host.Outcome.next (if_pos (by unfold State.holdEnds at h; simpa using h))

/-- A hold that ends at word 511 ends in a microcode fault. -/
theorem holdEnded_of_last (h : s.holdEnds t = true) (hst : (s.coil t).st = .hold) (hpc : 511 ≤ (s.coil t).pc) :
    ∃ u, execHoldEnded t s = .next ((u.ucFault t).refreshPl t) ∧ (u.coil t).hend = true ∧ (u.coil t).st = .rel ∧ s.keeps u [.coil t] := by
  have hcoil := State.setCoil_becomes s t.isLt (fun x => x.endHold.release)
  have hpc' : 511 ≤ ((s.setCoil t Coil.endHold).coil t).pc := by rwa [State.coil_setCoil_same _ _ _ t.isLt]
  obtain ⟨hc, hk⟩ := hcoil
  refine ⟨_, ?_, congrArg Coil.hend hc, congrArg Coil.st hc, hk⟩
  rw [execHoldEnded_of_ends h, if_pos hst, State.ucNext, if_pos hpc', State.setCoil_setCoil]

theorem holdEnded_of_within (h : s.holdEnds t = true) (hpc : (s.coil t).st ≠ .hold ∨ (s.coil t).pc < 511) :
    ∃ u, execHoldEnded t s = .next u ∧ (u.coil t).hend = true ∧
      ((s.coil t).st = .hold → (u.coil t).st = .rel ∧ (u.coil t).pc = (s.coil t).pc + 1 ∧ (u.coil t).wait = .ready) ∧
      ((s.coil t).st ≠ .hold → u.coil t = { s.coil t with hend := true }) ∧ s.keeps u [.coil t, .images] := by
  have himage : ∀ u : State, (u.refreshPl t).coil t = u.coil t := fun u => (u.refreshPl_keeps t).2 (.coil t) (by simp)
  by_cases hst : (s.coil t).st = .hold
  · have hpc' : ¬511 ≤ ((s.setCoil t Coil.endHold).coil t).pc := by
      rw [State.coil_setCoil_same _ _ _ t.isLt]
      exact Nat.not_le.mpr (hpc.resolve_left (not_not_intro hst))
    have hexec := execHoldEnded_of_ends h
    rw [if_pos hst, State.ucNext, if_neg hpc', State.setCoil_setCoil] at hexec
    refine ⟨_, hexec, ?_, fun _ => ?_, fun hne => absurd hst hne, State.keeps_trans (s.setCoil_keeps t _) (State.refreshPl_keeps _ t)⟩
    all_goals rw [himage, State.coil_setCoil_same _ _ _ t.isLt]
    · rfl
    · exact ⟨rfl, rfl, rfl⟩
  · have hexec := execHoldEnded_of_ends h
    rw [if_neg hst] at hexec
    refine ⟨_, hexec, ?_, fun hst' => absurd hst' hst, fun _ => ?_, State.keeps_trans (s.setCoil_keeps t _) (State.refreshPl_keeps _ t)⟩
    all_goals rw [himage, State.coil_setCoil_same _ _ _ t.isLt]; rfl

end

/-! ### The detector's window (R170, R171) -/

/-- The window of a thread's detector has closed without a confirmed seat. -/
def Coil.missSeat (x : Coil) : Coil :=
  { x with
    det := { x.det with armed := none, m := none, dip := none, narm := true, tmove := 0, tseat := 0, dipma := 0 }
    fr := { x.fr with nodip := true } }

section
variable {t : Fin 12} {s : State}

theorem execDetectorWindowClose_of_none (h : (s.coil t).det.armed = none ∨ s.pressRuns = false) : execDetectorWindowClose t s = .next s := by
  refine congrArg Host.Outcome.next ?_
  split
  · next _ _ ha =>
    refine if_neg ?_
    rcases h with h | h
    · rw [h] at ha; cases ha
    · simp [h]
  · rfl

theorem execDetectorWindowClose_of_armed {closes : Nat} {dip : Int} (ha : (s.coil t).det.armed = some (closes, dip)) (hr : s.pressRuns = true) :
    execDetectorWindowClose t s = .next ((s.advance closes).setCoil t Coil.missSeat) := by
  unfold execDetectorWindowClose
  rw [ha]
  exact congrArg Host.Outcome.next (if_pos hr)

theorem detectorWindowClose_of_armed {closes : Nat} {dip : Int} (ha : (s.coil t).det.armed = some (closes, dip)) (hr : s.pressRuns = true) :
    ∃ u, execDetectorWindowClose t s = .next u ∧ u.count = max s.count closes ∧ (u.coil t).det.armed = none ∧
      (u.coil t).det.narm = true ∧ (u.coil t).det.tmove = 0 ∧ (u.coil t).det.tseat = 0 ∧ (u.coil t).det.dipma = 0 ∧
      (u.coil t).st = (s.coil t).st ∧ s.keeps u [.coil t, .count] := by
  refine ⟨_, execDetectorWindowClose_of_armed ha hr, rfl, ?_, ?_, ?_, ?_, ?_, ?_,
    State.keeps_trans (s.advance_keeps _) (State.setCoil_keeps _ _ _)⟩
  all_goals rw [State.coil_setCoil_same _ _ _ t.isLt]; rfl

end

/-! ### The loader (R164) -/

theorem State.loaded_keeps (s : State) (l : Option (Nat × Nat × Nat)) : s.keeps { s with prs := { s.prs with loading := l } } [.prsRest] :=
  ⟨rfl, fun p hp => by cases p <;> simp_all [State.same] <;> rfl⟩

theorem execLoaderCopyComplete_of_copied {s : State} (h : s.prs.copy = []) :
    execLoaderCopyComplete s = .next { s with prs := { s.prs with loading := none } } := congrArg Host.Outcome.next (if_pos (by simp [h]))

theorem execLoaderCopyComplete_of_waiting {s : State} (h : s.prs.copy ≠ []) : execLoaderCopyComplete s = .next s :=
  congrArg Host.Outcome.next (if_neg (by simpa using h))

/-- Settles O14: each clause is the lemma of its command above. -/
theorem pressThreadSteps : Obligations.PressThreadSteps := by
  refine ⟨fun e s hs h => engineStart_of_on hs h, fun e s hs h => ?_, fun e s => ⟨fun h => ?_, fun hd h => ?_⟩, fun t s => ?_, fun t s => ?_,
    fun t s => ⟨fun h => execDetectorWindowClose_of_none h, fun _ _ ha hr => detectorWindowClose_of_armed ha hr⟩,
    fun s h => ⟨_, execLoaderCopyComplete_of_copied h, rfl, s.loaded_keeps none⟩, fun s h => execLoaderCopyComplete_of_waiting h⟩
  · obtain ⟨u, hexec, hbit, hcoil, hk⟩ := engineStop_of_on (e := e) hs h
    refine ⟨u, hexec, hbit, fun t ht hte => ?_, hk⟩
    obtain ⟨fw, hc⟩ := hcoil t ht hte
    rw [hc]
    exact ⟨rfl, rfl, rfl, rfl, rfl, rfl⟩
  · exact ⟨congrArg _ (State.store_of_dip h _ _), congrArg _ (State.store_of_dip h _ _)⟩
  · exact ⟨congrArg _ (State.store_of_off hd h _ _), congrArg _ (State.store_of_off hd h _ _)⟩
  · refine ⟨fun h hst => ⟨_, execGrantedSlotStart_of_waitg h hst, ?_⟩, fun a h hst hw => ⟨_, execGrantedSlotStart_of_hold h hst hw, ?_⟩,
      fun h => execGrantedSlotStart_of_none h⟩
    all_goals
      rw [State.coil_slotStarted]
      exact ⟨rfl, rfl, rfl, rfl, rfl, rfl, s.slotStarted_keeps t _⟩
  · exact ⟨fun h => execHoldEnded_of_none h, fun h hst hpc => holdEnded_of_last h hst hpc, fun h hpc => holdEnded_of_within h hpc⟩

end Sys2Proof.Machine
end
section
/-!
PROOFS. The microcode of the Press: the instructions that go on at the next word (O15), those that choose where a thread goes on, the
time-outs and the faults (O16).
-/

namespace Sys2Proof.Machine

/-! ### Where a thread goes on (R167) -/

/-- The outcome `o` leaves thread `t` as `y` and changes nothing else. -/
def State.leaves (s : State) (t : Nat) (y : Coil) (o : Out) : Prop := ∃ u, o = .next u ∧ s.coilBecomes u t y

/-- The outcome `o` leaves thread `t` as `y` at the next word; past word 511 a microcode fault follows. -/
def State.goesOn (s : State) (t : Nat) (y : Coil) (o : Out) : Prop :=
  ∃ u, s.coilBecomes u t (if (s.coil t).pc < 511 then { y with pc := (s.coil t).pc + 1 } else y) ∧
    o = .next (if (s.coil t).pc < 511 then u else u.ucFault t)

theorem State.ucNext_spec (s : State) {t : Nat} (ht : t < 12) (f : Coil → Coil) :
    ∃ u, s.coilBecomes u t (if (s.coil t).pc < 511 then { f (s.coil t) with pc := (s.coil t).pc + 1 } else f (s.coil t)) ∧
      s.ucNext t f = if (s.coil t).pc < 511 then u else u.ucFault t := by
  by_cases h : (s.coil t).pc < 511
  · exact ⟨_, by rw [if_pos h]; exact s.setCoil_becomes ht _, (if_neg (Nat.not_le.mpr h)).trans (if_pos h).symm⟩
  · exact ⟨_, by rw [if_neg h]; exact s.setCoil_becomes ht f, (if_pos (Nat.not_lt.mp h)).trans (if_neg h).symm⟩

theorem State.ucNext_goesOn (s : State) (t : Fin 12) {f : Coil → Coil} {y : Coil} (hy : f (s.coil t) = y) :
    s.goesOn t y (.next (s.ucNext t f)) := by
  obtain ⟨u, hu, hnext⟩ := s.ucNext_spec t.isLt f
  subst hy
  exact ⟨u, hu, congrArg _ hnext⟩

theorem State.setCoil_leaves (s : State) (t : Fin 12) {f : Coil → Coil} {y : Coil} (hy : f (s.coil t) = y) :
    s.leaves t y (.next (s.setCoil t f)) := by
  subst hy
  exact ⟨_, rfl, s.setCoil_becomes t.isLt f⟩

theorem State.issue_of_op {s : State} {t w op : Nat} (h : s.ucReady t = some w) (hop : bitsN w 19 5 = op) (f : State → Nat → State) :
    s.issue t op f = .next (f s w) := by
  unfold State.issue
  simp only [h, hop, if_true]

theorem State.issue_of_other {s : State} {t op : Nat} (h : ∀ w, s.ucReady t = some w → bitsN w 19 5 ≠ op) (f : State → Nat → State) :
    s.issue t op f = .next s := by
  unfold State.issue
  split
  · next w hw => rw [if_neg (h w hw)]
  · rfl

/-! ### The instructions that go on at the next word (R166) -/

section
variable {t : Fin 12} {s : State} {w : Nat} (h : s.ucReady t = some w)
include h

theorem ucNop_goesOn (hop : bitsN w 19 5 = 0x00) : s.goesOn t (s.coil t) (execUcNop t s) := by
  rw [execUcNop, State.issue_of_op h hop]
  exact s.ucNext_goesOn t rfl

theorem ucSet_goesOn (hop : bitsN w 19 5 = 0x01) : s.goesOn t { s.coil t with target := s.setValue t w } (execUcSet t s) := by
  rw [execUcSet, State.issue_of_op h hop]
  exact s.ucNext_goesOn t rfl

/-- RATE 0 acts as SET, and so does a ramp that is at its goal. -/
theorem ucRamp_goesOn (hop : bitsN w 19 5 = 0x02) (hr : bitsN w 13 6 = 0 ∨ (s.coil t).target = s.setValue t w) :
    s.goesOn t { s.coil t with target := s.setValue t w } (execUcRamp t s) := by
  rw [execUcRamp, State.issue_of_op h hop]
  dsimp only
  rw [if_pos hr]
  exact s.ucNext_goesOn t rfl

theorem ucRamp_waits (hop : bitsN w 19 5 = 0x02) (hr : bitsN w 13 6 ≠ 0) (hg : (s.coil t).target ≠ s.setValue t w) :
    s.leaves t { s.coil t with wait := .ramp (s.setValue t w) (5 * bitsN w 13 6) } (execUcRamp t s) := by
  rw [execUcRamp, State.issue_of_op h hop]
  dsimp only
  rw [if_neg (not_or.mpr ⟨hr, hg⟩)]
  exact s.setCoil_leaves t rfl

theorem ucWaits_goesOn (hop : bitsN w 19 5 = 0x03) (hn : bitsN w 0 16 = 0) : s.goesOn t (s.coil t) (execUcWaits t s) := by
  rw [execUcWaits, State.issue_of_op h hop]
  dsimp only
  rw [if_pos hn]
  exact s.ucNext_goesOn t rfl

theorem ucWaits_waits (hop : bitsN w 19 5 = 0x03) (hn : bitsN w 0 16 ≠ 0) :
    s.leaves t { s.coil t with wait := .slots (bitsN w 0 16) } (execUcWaits t s) := by
  rw [execUcWaits, State.issue_of_op h hop]
  dsimp only
  rw [if_neg hn]
  exact s.setCoil_leaves t rfl

theorem ucWaitu_goesOn (hop : bitsN w 19 5 = 0x04) (hn : bitsN w 0 16 = 0) : s.goesOn t (s.coil t) (execUcWaitu t s) := by
  rw [execUcWaitu, State.issue_of_op h hop]
  dsimp only
  rw [if_pos hn]
  exact s.ucNext_goesOn t rfl

theorem ucWaitu_waits (hop : bitsN w 19 5 = 0x04) (hn : bitsN w 0 16 ≠ 0) :
    s.leaves t { s.coil t with wait := .until (s.count + 600 * bitsN w 0 16) } (execUcWaitu t s) := by
  rw [execUcWaitu, State.issue_of_op h hop]
  dsimp only
  rw [if_neg hn]
  exact s.setCoil_leaves t rfl

theorem ucWaitc_waits (hop : bitsN w 19 5 = 0x05) :
    s.leaves t { s.coil t with
      wait := .cross (bitN w 18) (10 * (bitsN w 0 12 : Int))
        (if bitsN w 12 5 = 0 then none else some (s.count + 600 * (bitsN w 12 5 * (if bitN w 17 then 2000 else 100)))) }
      (execUcWaitc t s) := by
  rw [execUcWaitc, State.issue_of_op h hop]
  exact s.setCoil_leaves t rfl

theorem ucDecay_goesOn (hop : bitsN w 19 5 = 0x06) (hm : bitsN w 0 2 ≠ 3) :
    s.goesOn t { s.coil t with decay := bitsN w 0 2, fs := max 1 (bitsN w 2 8) } (execUcDecay t s) := by
  rw [execUcDecay, State.issue_of_op h hop]
  dsimp only
  rw [if_neg hm]
  exact s.ucNext_goesOn t rfl

theorem execUcDecay_of_undefined (hop : bitsN w 19 5 = 0x06) (hm : bitsN w 0 2 = 3) : execUcDecay t s = .next (s.ucFault t) := by
  rw [execUcDecay, State.issue_of_op h hop]
  exact congrArg _ (if_pos hm)

theorem ucLps_goesOn (hop : bitsN w 19 5 = 0x08) : s.goesOn t { s.coil t with lc := bitsN w 0 16 } (execUcLps t s) := by
  rw [execUcLps, State.issue_of_op h hop]
  exact s.ucNext_goesOn t rfl

theorem ucArmd_goesOn (hop : bitsN w 19 5 = 0x0A) :
    s.goesOn t { s.coil t with
      det := { (s.coil t).det with
        armed := if bitsN w 10 9 = 0 then none else some (s.count + 60000 * bitsN w 10 9, 10 * (max 1 (bitsN w 0 10) : Nat))
        m := none, dip := none } } (execUcArmd t s) := by
  rw [execUcArmd, State.issue_of_op h hop]
  exact s.ucNext_goesOn t rfl

/-- SIG raises the engine's event after it has gone on. -/
theorem ucSig_signals (hop : bitsN w 19 5 = 0x0C) :
    ∃ u, s.coilBecomes u t (if (s.coil t).pc < 511 then
        { s.coil t with dg := { (s.coil t).dg with code := bitsN w 0 8 }, fr := { (s.coil t).fr with sig := true }, pc := (s.coil t).pc + 1 }
        else { s.coil t with dg := { (s.coil t).dg with code := bitsN w 0 8 }, fr := { (s.coil t).fr with sig := true } }) ∧
      execUcSig t s = .next ((if (s.coil t).pc < 511 then u else u.ucFault t).raiseEvent (64 + t.val / 2)) := by
  obtain ⟨u, hu, hnext⟩ := s.ucNext_spec t.isLt
    (fun x => { x with dg := { x.dg with code := bitsN w 0 8 }, fr := { x.fr with sig := true } })
  refine ⟨u, hu, ?_⟩
  rw [execUcSig, State.issue_of_op h hop, ← hnext]

end

/-- Settles O15: each instruction by its lemma above, a thread that is not ready for it by `State.issue_of_other`. -/
theorem microcodeStraightLine : Obligations.MicrocodeStraightLine := by
  refine ⟨fun t s w h => ?_, fun t s op cmd hmem h => ?_⟩
  · exact ⟨fun hop => ucNop_goesOn h hop, fun hop => ucSet_goesOn h hop,
      fun hop => ⟨fun hr => ucRamp_goesOn h hop hr, fun hr hg => ucRamp_waits h hop hr hg⟩,
      fun hop => ⟨fun hn => ucWaits_goesOn h hop hn, fun hn => ucWaits_waits h hop hn⟩,
      fun hop => ⟨fun hn => ucWaitu_goesOn h hop hn, fun hn => ucWaitu_waits h hop hn⟩,
      fun hop => ucWaitc_waits h hop,
      fun hop => ⟨fun hm => ucDecay_goesOn h hop hm, fun hm => execUcDecay_of_undefined h hop hm⟩,
      fun hop => ucLps_goesOn h hop, fun hop => ucArmd_goesOn h hop, fun hop => ucSig_signals h hop⟩
  · simp only [List.mem_cons, List.not_mem_nil, or_false, Prod.mk.injEq] at hmem
    rcases hmem with ⟨rfl, rfl⟩ | ⟨rfl, rfl⟩ | ⟨rfl, rfl⟩ | ⟨rfl, rfl⟩ | ⟨rfl, rfl⟩ | ⟨rfl, rfl⟩ | ⟨rfl, rfl⟩ | ⟨rfl, rfl⟩ | ⟨rfl, rfl⟩ |
      ⟨rfl, rfl⟩ | ⟨rfl, rfl⟩ | ⟨rfl, rfl⟩ | ⟨rfl, rfl⟩ | ⟨rfl, rfl⟩
    all_goals
      unfold exec
      exact State.issue_of_other h _

/-! ### The instructions that choose where a thread goes on (R160, R166, R168) -/

/-- The conditions 8 to 15 are undefined (R168). -/
theorem State.ucCond_of_undefined (s : State) (t : Nat) {c : Nat} (h : 8 ≤ c) : s.ucCond t c = none := by
  unfold State.ucCond
  dsimp only
  split
  all_goals first | omega | rfl

section
variable {t : Fin 12} {s : State} {w : Nat} (h : s.ucReady t = some w)
include h

theorem ucBr_jumps (hop : bitsN w 19 5 = 0x07) (hc : s.ucCond t (bitsN w 15 4) = some true) :
    s.leaves t { s.coil t with pc := bitsN w 0 9 } (execUcBr t s) := by
  rw [execUcBr, State.issue_of_op h hop]
  rw [hc]
  exact s.setCoil_leaves t rfl

theorem ucBr_goesOn (hop : bitsN w 19 5 = 0x07) (hc : s.ucCond t (bitsN w 15 4) = some false) : s.goesOn t (s.coil t) (execUcBr t s) := by
  rw [execUcBr, State.issue_of_op h hop]
  rw [hc]
  exact s.ucNext_goesOn t rfl

theorem execUcBr_of_undefined (hop : bitsN w 19 5 = 0x07) (hc : 8 ≤ bitsN w 15 4) : execUcBr t s = .next (s.ucFault t) := by
  rw [execUcBr, State.issue_of_op h hop]
  rw [s.ucCond_of_undefined t hc]

theorem ucLpj_goesOn (hop : bitsN w 19 5 = 0x09) (hn : (s.coil t).lc - 1 = 0) : s.goesOn t { s.coil t with lc := 0 } (execUcLpj t s) := by
  rw [execUcLpj, State.issue_of_op h hop]
  dsimp only
  rw [if_pos hn, hn]
  exact s.ucNext_goesOn t rfl

theorem ucLpj_jumps (hop : bitsN w 19 5 = 0x09) (hn : (s.coil t).lc - 1 ≠ 0) :
    s.leaves t { s.coil t with lc := (s.coil t).lc - 1, pc := bitsN w 0 9 } (execUcLpj t s) := by
  rw [execUcLpj, State.issue_of_op h hop]
  dsimp only
  rw [if_neg hn]
  exact s.setCoil_leaves t rfl

theorem ucHold_holds (hop : bitsN w 19 5 = 0x0B) (hst : (s.coil t).st = .peak) (he : (s.coil t).hend = false) :
    s.leaves t { s.coil t with st := .hold, wait := .hold (bitsN w 0 9), det := { (s.coil t).det with armed := none } } (execUcHold t s) := by
  rw [execUcHold, State.issue_of_op h hop]
  dsimp only
  rw [if_pos hst, if_neg (by simp [he])]
  exact s.setCoil_leaves t rfl

theorem ucHold_releases (hop : bitsN w 19 5 = 0x0B) (hst : (s.coil t).st = .peak) (he : (s.coil t).hend = true) :
    s.goesOn t { s.coil t with st := .rel, det := { (s.coil t).det with armed := none } } (execUcHold t s) := by
  rw [execUcHold, State.issue_of_op h hop]
  dsimp only
  rw [if_pos hst, if_pos he]
  exact s.ucNext_goesOn t rfl

theorem ucHold_fallsThrough (hop : bitsN w 19 5 = 0x0B) (hst : (s.coil t).st = .rel) : s.goesOn t (s.coil t) (execUcHold t s) := by
  rw [execUcHold, State.issue_of_op h hop]
  dsimp only
  rw [if_neg (by simp [hst]), if_pos hst]
  exact s.ucNext_goesOn t rfl

theorem execUcHold_of_hold (hop : bitsN w 19 5 = 0x0B) (hst : (s.coil t).st = .hold) : execUcHold t s = .next s := by
  rw [execUcHold, State.issue_of_op h hop]
  dsimp only
  rw [if_neg (by simp [hst]), if_neg (by simp [hst])]

/-- END keeps an activation that is pending (R160). -/
theorem ucEnd_leaves (hop : bitsN w 19 5 = 0x0D) :
    s.leaves t { (s.coil t).stopped .idle (s.restFw t) with pendAct := (s.coil t).pendAct } (execUcEnd t s) := by
  rw [execUcEnd, State.issue_of_op h hop]
  dsimp only
  rw [State.plStop_eq, State.setCoil_setCoil]
  exact s.setCoil_leaves t rfl

/-! ### Faults and time-outs (R166, R169) -/

theorem execMicrocodeFault_of_fault {parity : Bool}
    (hf : parity = true ∨ 0x0E ≤ bitsN w 19 5 ∨ (bitsN w 19 5 = 6 ∧ bitsN w 0 2 = 3) ∨ (bitsN w 19 5 = 7 ∧ 8 ≤ bitsN w 15 4)) :
    execMicrocodeFault t parity s = .next (s.ucFault t) := by
  unfold execMicrocodeFault
  rw [h]
  exact congrArg Host.Outcome.next (if_pos (by simpa [or_assoc] using hf))

theorem execMicrocodeFault_of_defined (hop : bitsN w 19 5 < 0x0E) (hdecay : bitsN w 19 5 = 6 → bitsN w 0 2 ≠ 3)
    (hcond : bitsN w 19 5 = 7 → bitsN w 15 4 < 8) : execMicrocodeFault t false s = .next s := by
  unfold execMicrocodeFault
  rw [h]
  exact congrArg Host.Outcome.next (if_neg (by simp only [Bool.false_or, Bool.or_eq_true, Bool.and_eq_true, decide_eq_true_eq, beq_iff_eq]; omega))

end

theorem execMicrocodeFault_of_idle {t : Fin 12} {s : State} (h : s.ucReady t = none) (parity : Bool) :
    execMicrocodeFault t parity s = .next s := by
  unfold execMicrocodeFault
  rw [h]

section
variable {t : Fin 12} {s : State}

/-- A wait that ends at the moment `e` lets its thread go on from there. -/
theorem State.ucNext_advance (s : State) (t : Fin 12) (e : Nat) (f : Coil → Coil) :
    ∃ u, u.coil t = (if (s.coil t).pc < 511 then { f (s.coil t) with pc := (s.coil t).pc + 1 } else f (s.coil t)) ∧
      u.count = max s.count e ∧ s.keeps u [.coil t, .count] ∧
      (s.advance e).ucNext t f = if (s.coil t).pc < 511 then u else u.ucFault t := by
  obtain ⟨u, ⟨hcoil, hk⟩, hnext⟩ := (s.advance e).ucNext_spec t.isLt f
  exact ⟨u, hcoil, hk.2 .count (by simp), State.keeps_trans (s.advance_keeps e) hk, hnext⟩

theorem execUcWaituExpire_of_until {e : Nat} (hw : (s.coil t).wait = .until e) (hr : s.pressRuns = true) :
    execUcWaituExpire t s = .next ((s.advance e).ucNext t (fun x => { x with wait := .ready })) := by
  unfold execUcWaituExpire
  rw [hw]
  exact congrArg Host.Outcome.next (if_pos hr)

theorem execUcWaituExpire_of_none (h : s.pressRuns = false ∨ ∀ e, (s.coil t).wait ≠ .until e) : execUcWaituExpire t s = .next s := by
  refine congrArg Host.Outcome.next ?_
  split
  · next e hw => exact if_neg (by rw [h.resolve_right (fun hne => hne e hw)]; decide)
  · rfl

theorem execUcWaitcTimeout_of_cross {b : Bool} {l : Int} {e : Nat} (hw : (s.coil t).wait = .cross b l (some e)) (hr : s.pressRuns = true) :
    execUcWaitcTimeout t s = .next ((s.advance e).ucNext t (fun x => { x with t := true, wait := .ready })) := by
  unfold execUcWaitcTimeout
  rw [hw]
  exact congrArg Host.Outcome.next (if_pos hr)

theorem execUcWaitcTimeout_of_none (h : s.pressRuns = false ∨ ∀ b l e, (s.coil t).wait ≠ .cross b l (some e)) :
    execUcWaitcTimeout t s = .next s := by
  refine congrArg Host.Outcome.next ?_
  split
  · next b l e hw => exact if_neg (by rw [h.resolve_right (fun hne => hne b l e hw)]; decide)
  · rfl

end

/-- Settles O16: each instruction, time-out and fault by its lemma above. -/
theorem microcodeControl : Obligations.MicrocodeControl := by
  refine ⟨fun t s w h => ?_, fun t parity s h => execMicrocodeFault_of_idle h parity, fun t s => ⟨fun e hw hr => ?_, fun b l e hw hr => ?_,
    fun h => execUcWaituExpire_of_none h, fun h => execUcWaitcTimeout_of_none h⟩⟩
  · exact ⟨fun hop => ⟨fun hc => ucBr_jumps h hop hc, fun hc => ucBr_goesOn h hop hc, fun hc => execUcBr_of_undefined h hop hc⟩,
      fun hop => ⟨fun hn => ucLpj_goesOn h hop hn, fun hn => ucLpj_jumps h hop hn⟩,
      fun hop => ⟨fun hst he => ucHold_holds h hop hst he, fun hst he => ucHold_releases h hop hst he,
        fun hst => ucHold_fallsThrough h hop hst, fun hst => execUcHold_of_hold h hop hst⟩,
      fun hop => ucEnd_leaves h hop, fun parity hf => execMicrocodeFault_of_fault h hf,
      fun hop hdecay hcond => execMicrocodeFault_of_defined h hop hdecay hcond⟩
  · obtain ⟨u, hcoil, hcount, hk, hnext⟩ := s.ucNext_advance t e (fun x => { x with wait := .ready })
    exact ⟨u, hcoil, hcount, hk, (execUcWaituExpire_of_until hw hr).trans (congrArg _ hnext)⟩
  · obtain ⟨u, hcoil, hcount, hk, hnext⟩ := s.ucNext_advance t e (fun x => { x with t := true, wait := .ready })
    exact ⟨u, hcoil, hcount, hk, (execUcWaitcTimeout_of_cross hw hr).trans (congrArg _ hnext)⟩

end Sys2Proof.Machine
end
section
/-!
PROOFS. The protection of the Press: coils, banks, clamps and PX channels (O17).
-/

namespace Sys2Proof.Machine

/-! ### Sticky bits where no class reaction is enabled (R241) -/

/-- A sticky bit rests on its word of STICKY alone. -/
theorem State.sticky_of_reg {s t : State} {k : Nat} (h : t.reg (F.winStickyStk (k / 32)).addr = s.reg (F.winStickyStk (k / 32)).addr) :
    t.sticky k = s.sticky k := by
  unfold State.sticky State.fld
  rw [h]

theorem State.sticky_putSticky {s : State} (hs : s.canonical) (n k : Nat) :
    (s.putSticky n true).sticky k = (decide (k = n) || s.sticky k) := by
  by_cases hw : k / 32 = n / 32
  · have hold : s.fld (F.winStickyStk (n / 32)) < 2 ^ 32 := getBits_lt _ _ _
    unfold State.sticky State.putSticky
    rw [hw, show (State.setFld s (F.winStickyStk (n / 32)) _).fld (F.winStickyStk (n / 32)) = _ from State.fld_setFld_word hs (BitVec.isLt _),
      testBit_setBits _ _ _ _ _ (by omega), BitVec.toNat_ofNat, Nat.mod_eq_of_lt hold]
    by_cases hb : k = n
    · subst hb
      simp [b2n]
    · rw [if_neg (by omega), decide_eq_false hb, Bool.false_or]
  · rw [decide_eq_false (fun e => hw (by rw [e])), Bool.false_or]
    exact State.sticky_of_reg (State.reg_setReg_other _ _ _ _ (by simp only [F.winStickyStk]; omega))

/-- A demand writes no register of the Winnow. -/
theorem State.reg_demand (s : State) (d : Nat) {a : Nat} (ha : 0x40050000 ≤ a ∧ a < 0x40060000) : (s.demand d).reg a = s.reg a := by
  unfold State.demand
  dsimp only
  split_ifs
  · rfl
  · rfl
  · exact State.reg_setReg_other _ _ _ _ (by simp only [F.pwrDctlReq]; omega)
  · exact State.reg_setReg_other _ _ _ _ (by simp only [F.grnBpwrState]; omega)

/-- An event that is pended writes no register of the Winnow. -/
theorem State.reg_pendEvent (s : State) {n : Nat} (hn : n < 128) {a : Nat} (ha : 0x40050000 ≤ a ∧ a < 0x40060000) :
    (s.pendEvent n).reg a = s.reg a := by
  unfold State.pendEvent
  dsimp only
  split_ifs
  · rfl
  · exact State.reg_setReg_other _ _ _ _ (by simp only [F.frmEvmrgMerged]; omega)
  · exact State.reg_demand _ _ ha

section
variable {s : State} (hs : s.canonical) (q : s.quiet)
include hs q

theorem State.sticky_raiseSource_same {n : Nat} (hn : n < 192) (hfixed : fixedSource n = false) :
    (s.raiseSource n).sticky n = (s.sticky n || s.feat (sourceFeat n)) := by
  rw [State.raiseSource_of_quiet q hn hfixed]
  cases hst : s.sticky n <;> cases hf : s.feat (sourceFeat n) <;> simp [State.sticky_putSticky hs, hst]

theorem State.sticky_raiseSource_other {n k : Nat} (hn : n < 192) (hfixed : fixedSource n = false) (hk : k ≠ n) :
    (s.raiseSource n).sticky k = s.sticky k := by
  rw [State.raiseSource_of_quiet q hn hfixed]
  split
  · rfl
  · rw [State.sticky_putSticky hs, decide_eq_false hk, Bool.false_or]

/-- An event sets no sticky bit, unless its core is locked off: then that of source 31 (R437). -/
theorem State.sticky_raiseEvent {n k : Nat} (hn : n < 128) (hlt : k < 192) (hk : k ≠ 31) : (s.raiseEvent n).sticky k = s.sticky k := by
  have hlockacc : Reacted s (s.setBit F.pwrStatLockacc) := (Reacted.refl s).setReg _ _ (.inr (.inr (.inr (.inr (.inl rfl)))))
  unfold State.raiseEvent
  split
  · refine (State.sticky_raiseSource_other (State.setFld_stable canonical_lasting.toStable _ _ hs) (hlockacc.quiet q) (n := 31) (by decide)
      (by decide) hk).trans (State.sticky_of_reg (State.reg_setReg_other _ _ _ _ ?_))
    simp only [F.winStickyStk, F.pwrStatLockacc]; omega
  · exact State.sticky_of_reg (s.reg_pendEvent hn (by simp only [F.winStickyStk]; omega))

end

/-! ### The Press where no class reaction is enabled -/

theorem State.prs_demand (s : State) (d : Nat) : (s.demand d).prs = s.prs := by
  unfold State.demand
  dsimp only
  split_ifs <;> rfl

theorem State.prs_pendEvent (s : State) (n : Nat) : (s.pendEvent n).prs = s.prs := by
  unfold State.pendEvent
  dsimp only
  split_ifs
  · rfl
  · rfl
  · exact State.prs_demand _ _

theorem State.prs_raiseSource {s : State} (q : s.quiet) {n : Nat} (hn : n < 192) (hfixed : fixedSource n = false) :
    (s.raiseSource n).prs = s.prs := by
  rw [State.raiseSource_of_quiet q hn hfixed]
  split <;> rfl

theorem State.prs_raiseEvent {s : State} (q : s.quiet) (n : Nat) : (s.raiseEvent n).prs = s.prs := by
  have hlockacc : Reacted s (s.setBit F.pwrStatLockacc) := (Reacted.refl s).setReg _ _ (.inr (.inr (.inr (.inr (.inl rfl)))))
  unfold State.raiseEvent
  split
  · exact State.prs_raiseSource (hlockacc.quiet q) (n := 31) (by decide) (by decide)
  · exact s.prs_pendEvent n

/-- The sources of the Press have no fixed class. -/
theorem fixedSource_press {n : Nat} (h : 96 ≤ n ∧ n ≤ 120) : fixedSource n = false := by
  simp only [fixedSource, Bool.or_eq_false_iff, beq_eq_false_iff_ne]
  omega

/-! ### A thread moves to FAULT (R160, R178) -/

/-- The state in which thread `ch` has moved to FAULT, before its event and its source. -/
def State.faulted (s : State) (ch : Nat) (cause : CoilDiag → CoilDiag) : State :=
  s.setCoil ch (fun x => { x.stopped .fault (s.restFw ch) with dg := cause x.dg, fr := { x.fr with flt := true } })

/-- The state in which channel `ch` has taken a further cause. -/
def State.caused (s : State) (ch : Nat) (cause : CoilDiag → CoilDiag) : State := s.setCoil ch (fun x => { x with dg := cause x.dg })

section
variable {s : State} {ch : Nat} (cause : CoilDiag → CoilDiag)

theorem State.plFault_of_stop (h : (s.coil ch).st = .stop) : s.plFault ch cause = s.raiseSource (96 + ch) := by
  unfold State.plFault
  simp only [h]

theorem State.plFault_of_fault (h : (s.coil ch).st = .fault) : s.plFault ch cause = (s.caused ch cause).raiseSource (96 + ch) := by
  unfold State.plFault
  simp only [h]
  rfl

theorem State.plFault_of_running (hstop : (s.coil ch).st ≠ .stop) (hfault : (s.coil ch).st ≠ .fault) :
    s.plFault ch cause = ((s.faulted ch cause).raiseEvent (64 + ch / 2)).raiseSource (96 + ch) := by
  unfold State.plFault
  dsimp only
  split
  · next h => exact absurd h hstop
  · next h => exact absurd h hfault
  · rw [State.plStop_eq, State.setCoil_setCoil]; rfl

variable (q : s.quiet) (hc : ch < 12)
include q hc

/-- Of the channels, a fault without a class reaction changes the one of its thread. -/
theorem State.coil_plFault_other {k : Nat} (hk : k ≠ ch) : (s.plFault ch cause).coil k = s.coil k := by
  have hsource : ∀ f : Coil → Coil, ((s.setCoil ch f).raiseSource (96 + ch)).coil k = s.coil k := fun f => by
    unfold State.coil
    rw [State.prs_raiseSource (((Reacted.refl s).setCoil ch f).quiet q) (by omega) (fixedSource_press (by omega))]
    exact s.coil_setCoil_other ch k f hk.symm
  by_cases hstop : (s.coil ch).st = .stop
  · rw [State.plFault_of_stop cause hstop]
    unfold State.coil
    rw [State.prs_raiseSource q (by omega) (fixedSource_press (by omega))]
  by_cases hfault : (s.coil ch).st = .fault
  · rw [State.plFault_of_fault cause hfault]
    exact hsource _
  · have hset : (s.faulted ch cause).quiet := ((Reacted.refl s).setCoil ch _).quiet q
    have hevent : ((s.faulted ch cause).raiseEvent (64 + ch / 2)).quiet := ((Reacted.refl _).raiseEvent _ (by omega)).quiet hset
    rw [State.plFault_of_running cause hstop hfault]
    unfold State.coil
    rw [State.prs_raiseSource hevent (by omega) (fixedSource_press (by omega)), State.prs_raiseEvent hset]
    exact s.coil_setCoil_other ch k _ hk.symm

/-- A thread that is not stopped is in FAULT with its cause. -/
theorem State.coil_plFault_same (hstop : (s.coil ch).st ≠ .stop) :
    ((s.plFault ch cause).coil ch).st = .fault ∧ ((s.plFault ch cause).coil ch).dg = cause (s.coil ch).dg := by
  by_cases hfault : (s.coil ch).st = .fault
  · have hset : (s.caused ch cause).quiet := ((Reacted.refl s).setCoil ch _).quiet q
    rw [State.plFault_of_fault cause hfault]
    unfold State.coil
    rw [State.prs_raiseSource hset (by omega) (fixedSource_press (by omega))]
    have hcoil := s.coil_setCoil_same ch (fun x => { x with dg := cause x.dg }) hc
    exact ⟨(congrArg Coil.st hcoil).trans hfault, congrArg Coil.dg hcoil⟩
  · have hset : (s.faulted ch cause).quiet := ((Reacted.refl s).setCoil ch _).quiet q
    have hevent : ((s.faulted ch cause).raiseEvent (64 + ch / 2)).quiet := ((Reacted.refl _).raiseEvent _ (by omega)).quiet hset
    rw [State.plFault_of_running cause hstop hfault]
    unfold State.coil
    rw [State.prs_raiseSource hevent (by omega) (fixedSource_press (by omega)), State.prs_raiseEvent hset]
    have hcoil := s.coil_setCoil_same ch (fun x => { x.stopped .fault (s.restFw ch) with dg := cause x.dg, fr := { x.fr with flt := true } }) hc
    exact ⟨congrArg Coil.st hcoil, congrArg Coil.dg hcoil⟩

/-- A fault sets no sticky bit but that of its channel's source. -/
theorem State.sticky_plFault (hs : s.canonical) {k : Nat} (hlt : k < 192) (hk : k ≠ 31) (hkc : k ≠ 96 + ch) :
    (s.plFault ch cause).sticky k = s.sticky k := by
  have hset : ∀ f : Coil → Coil, (s.setCoil ch f).quiet := fun f => ((Reacted.refl s).setCoil ch f).quiet q
  have hsource : ∀ u : State, u.canonical → u.quiet → (u.raiseSource (96 + ch)).sticky k = u.sticky k := fun u hu qu =>
    State.sticky_raiseSource_other hu qu (by omega) (fixedSource_press (by omega)) hkc
  by_cases hstop : (s.coil ch).st = .stop
  · rw [State.plFault_of_stop cause hstop]
    exact hsource s hs q
  by_cases hfault : (s.coil ch).st = .fault
  · rw [State.plFault_of_fault cause hfault]
    exact hsource _ hs (hset _)
  · have hevent : ((s.faulted ch cause).raiseEvent (64 + ch / 2)).quiet := ((Reacted.refl _).raiseEvent _ (by omega)).quiet (hset _)
    have hcanon : ((s.faulted ch cause).raiseEvent (64 + ch / 2)).canonical :=
      State.raiseEvent_stable canonical_lasting.toStable _ (s := s.faulted ch cause) hs
    rw [State.plFault_of_running cause hstop hfault]
    exact (hsource _ hcanon hevent).trans (State.sticky_raiseEvent (s := s.faulted ch cause) hs (hset _) (by omega) hlt hk)

end

/-! ### The shut-off of a coil (R178) -/

theorem State.plGov_le (s : State) (ch : Nat) : s.plGov ch ≤ ch := by
  unfold State.plGov
  split
  · exact Nat.sub_le _ _
  · exact Nat.le_refl _

/-- The over-current threshold of a governing channel, mA (R178). -/
def State.coilLimit (s : State) (e : Nat) : Int := 100 * (s.fld (F.prsChcfgIlim e) : Int) * (if s.plPaired e then 2 else 1)

section
variable {ch : Fin 12} {amps deg : Int} {s : State}

theorem execCoilShutoff_of_within
    (h : s.pressRuns = false ∨ (decide (s.coilLimit (s.plGov ch) < amps) = false ∧ decide (165 * 16 < deg) = false)) :
    execCoilShutoff ch amps deg s = .next s := by
  have hcond : ¬(s.pressRuns && (decide (s.coilLimit (s.plGov ch) < amps) || decide (165 * 16 < deg))) = true := by
    rcases h with h | ⟨hoc, hot⟩
    · rw [h, Bool.false_and]; decide
    · rw [hoc, hot, Bool.or_false, Bool.and_false]; decide
  exact congrArg Host.Outcome.next (if_neg hcond)

theorem execCoilShutoff_of_beyond (hr : s.pressRuns = true)
    (h : decide (s.coilLimit (s.plGov ch) < amps) = true ∨ decide (165 * 16 < deg) = true) :
    execCoilShutoff ch amps deg s = .next (s.plFault (s.plGov ch) (fun d => { d with
      oc := d.oc || decide (s.coilLimit (s.plGov ch) < amps), ot := d.ot || decide (165 * 16 < deg) })) :=
  congrArg Host.Outcome.next (if_pos (by rw [hr, Bool.true_and, Bool.or_eq_true]; exact h))

end

/-! ### The shut-off of a bank (R177) -/

/-- The state in which a bank switch has locked. -/
def State.bankLocked (s : State) (b : Nat) (oc ot : Bool) : State :=
  s.setPbank b (fun x => { x with lock := true, oc := x.oc || oc, ot := x.ot || ot })

/-- The channel at place `i` of a bank that has locked, where it governs, moves to FAULT. -/
def State.bankFault (b : Nat) (t : State) (i : Nat) : State :=
  if t.plGoverns (4 * b + i) then t.plFault (4 * b + i) (fun d => { d with bank := true }) else t

/-- The state in which a bank has locked, with its source and its channels' faults. -/
def State.bankTripped (s : State) (b : Nat) (oc ot : Bool) : State :=
  forEach 4 (State.bankFault b) ((s.bankLocked b oc ot).raiseSource (112 + b))

theorem Reacted.plGoverns {s t : State} (h : Reacted s t) (c : Nat) : t.plGoverns c = s.plGoverns c := by
  unfold State.plGoverns State.plGov State.plPaired State.fld
  rw [h.onlyRegs]
  all_goals intros; simp only [F.prsPairPl, F.winStickyStk, F.frmEvmrgMerged, F.pwrDctlReq, F.grnBpwrState, F.pwrStatLockacc, F.accEvcCause]; omega

theorem Reacted.bankFault {s t : State} {b i : Nat} (hb : b < 3) (hi : i < 4) (h : Reacted s t) : Reacted s (t.bankFault b i) :=
  .ite (h.plFault (by omega) _) h

section
variable {t : State} {b i : Nat} (q : t.quiet) (hb : b < 3) (hi : i < 4)
include q hb hi

theorem State.coil_bankFault_other {k : Nat} (hk : k ≠ 4 * b + i) : (t.bankFault b i).coil k = t.coil k := by
  unfold State.bankFault
  split
  · exact State.coil_plFault_other _ q (by omega) hk
  · rfl

theorem State.coil_bankFault_same (hg : t.plGoverns (4 * b + i) = true) (hstop : (t.coil (4 * b + i)).st ≠ .stop) :
    ((t.bankFault b i).coil (4 * b + i)).st = .fault ∧ ((t.bankFault b i).coil (4 * b + i)).dg.bank = true := by
  obtain ⟨hst, hdg⟩ := State.coil_plFault_same (fun d => { d with bank := true }) q (ch := 4 * b + i) (by omega) hstop
  rw [State.bankFault, if_pos hg]
  exact ⟨hst, by rw [hdg]⟩

theorem State.sticky_bankFault (ht : t.canonical) : (t.bankFault b i).sticky (112 + b) = t.sticky (112 + b) := by
  unfold State.bankFault
  split
  · exact State.sticky_plFault _ q (by omega) ht (by omega) (by omega) (by omega)
  · rfl

end

section
variable (s : State) {b : Nat} (hb : b < 3) (oc ot : Bool)
include hb

theorem State.bankTripped_reacted : Reacted (s.bankLocked b oc ot) (s.bankTripped b oc ot) :=
  .forEach 4 _ ((Reacted.refl _).raiseSource _ (by omega)) fun t i hi => (Reacted.refl t).bankFault hb hi

theorem State.lock_bankTripped : ((s.bankTripped b oc ot).pbank b).lock = true := by
  have hbank : (s.bankTripped b oc ot).pbank b = (s.bankLocked b oc ot).pbank b := by
    unfold State.pbank
    rw [(s.bankTripped_reacted hb oc ot).bank]
  rw [hbank, State.bankLocked, State.pbank_setPbank_same _ _ _ hb]

/-- The source and the channels of a bank that has locked, where no class reaction is enabled. -/
theorem State.bankTripped_quiet {s : State} (hs : s.canonical) (q : s.quiet) :
    (s.bankTripped b oc ot).sticky (112 + b) = (s.sticky (112 + b) || s.feat (sourceFeat (112 + b))) ∧
      ∀ i, i < 4 → s.plGoverns (4 * b + i) = true → (s.coil (4 * b + i)).st ≠ .stop →
        ((s.bankTripped b oc ot).coil (4 * b + i)).st = .fault ∧ ((s.bankTripped b oc ot).coil (4 * b + i)).dg.bank = true := by
  have ql : (s.bankLocked b oc ot).quiet := q
  have hfixed : fixedSource (112 + b) = false := fixedSource_press (by omega)
  have hraised : Reacted (s.bankLocked b oc ot) ((s.bankLocked b oc ot).raiseSource (112 + b)) := (Reacted.refl _).raiseSource _ (by omega)
  obtain ⟨-, -, hsticky, -, hfaults⟩ := forEach_induct (n := 4) (f := State.bankFault b) (s := (s.bankLocked b oc ot).raiseSource (112 + b))
    (Q := fun n t => t.canonical ∧ Reacted (s.bankLocked b oc ot) t ∧
      t.sticky (112 + b) = (s.sticky (112 + b) || s.feat (sourceFeat (112 + b))) ∧ (∀ c, 4 * b + n ≤ c → t.coil c = s.coil c) ∧
      ∀ i, i < n → s.plGoverns (4 * b + i) = true → (s.coil (4 * b + i)).st ≠ .stop →
        (t.coil (4 * b + i)).st = .fault ∧ (t.coil (4 * b + i)).dg.bank = true)
    ⟨State.raiseSource_stable canonical_lasting.toStable _ (s := s.bankLocked b oc ot) hs, hraised,
      State.sticky_raiseSource_same (s := s.bankLocked b oc ot) hs ql (by omega) hfixed, fun c _ => by
        unfold State.coil
        rw [State.prs_raiseSource ql (by omega) hfixed]; rfl, fun i hi => absurd hi (Nat.not_lt_zero i)⟩
    fun n t hn ⟨ht, hreact, hst, hlater, hdone⟩ => by
      have qt := hreact.quiet ql
      have hother : ∀ c, c ≠ 4 * b + n → (t.bankFault b n).coil c = t.coil c := fun c hc => State.coil_bankFault_other qt hb hn hc
      refine ⟨st_ite (State.plFault_stable canonical_lasting.toStable _ _ ht) ht, hreact.bankFault hb hn,
        (State.sticky_bankFault qt hb hn ht).trans hst, fun c hc => (hother c (by omega)).trans (hlater c (by omega)), fun i hi hg hrun => ?_⟩
      by_cases e : i = n
      · subst e
        exact State.coil_bankFault_same qt hb hn ((hreact.plGoverns _).trans hg) (by rwa [hlater _ (Nat.le_refl _)])
      · rw [hother _ (by omega)]
        exact hdone i (by omega) hg hrun
  exact ⟨hsticky, hfaults⟩

end

/-- A bank switch that has locked is off. -/
theorem State.pbankOn_of_lock {s : State} {b : Nat} (h : (s.pbank b).lock = true) : s.pbankOn b = false := by
  simp [State.pbankOn, h]

/-- The current or the junction of a bank switch is beyond its limit (R177). -/
def State.bankBeyond (s : State) (b : Nat) (amps deg : Int) : Bool :=
  decide (((200 * s.fld (F.prsBankIlim b) : Nat) : Int) < amps) || decide (165 * 16 < deg)

theorem State.bankBeyond_eq (s : State) (b : Nat) (amps deg : Int) :
    s.bankBeyond b amps deg = (decide ((200 * s.fld (F.prsBankIlim b) : Int) < amps) || decide (165 * 16 < deg)) := by
  unfold State.bankBeyond
  push_cast
  rfl

section
variable {b : Fin 3} {amps deg : Int} {s : State}

theorem execBankShutoff_of_within (h : s.pressRuns = false ∨ (s.pbank b).lock = true ∨ s.bankBeyond b amps deg = false) :
    execBankShutoff b amps deg s = .next s := by
  refine congrArg Host.Outcome.next (if_neg ?_)
  rw [s.bankBeyond_eq] at h
  rcases h with h | h | h
  · rw [h, Bool.false_and, Bool.false_and]; decide
  · rw [h, Bool.not_true, Bool.and_false, Bool.false_and]; decide
  · rw [h, Bool.and_false]; decide

theorem execBankShutoff_of_beyond (hr : s.pressRuns = true) (hl : (s.pbank b).lock = false) (h : s.bankBeyond b amps deg = true) :
    execBankShutoff b amps deg s =
      .next (s.bankTripped b (decide ((200 * s.fld (F.prsBankIlim b) : Int) < amps)) (decide (165 * 16 < deg))) := by
  refine congrArg Host.Outcome.next (if_pos ?_)
  rw [s.bankBeyond_eq] at h
  rw [hr, hl, h]
  decide

end

/-! ### A clamp's junction (R150) -/

theorem State.mem_plMembers_plGov (s : State) (ch : Nat) : ch ∈ s.plMembers (s.plGov ch) := by
  have hpaired : s.plPaired (ch - ch % 2) = s.plPaired ch := by
    unfold State.plPaired
    rw [show (ch - ch % 2) / 2 = ch / 2 by omega]
  unfold State.plMembers State.plGov
  cases h : s.plPaired ch
  · simp [h]
  · rw [if_pos rfl, hpaired, h, if_pos rfl]
    simp only [List.mem_cons, List.not_mem_nil, or_false]
    omega

/-- A channel whose clamp has reached 165 °C. -/
def Coil.clampHot (x : Coil) : Coil := { x with dg := { x.dg with clpT := true }, fr := { x.fr with clpt := true } }

/-- A channel whose freewheel switch is on. -/
def Coil.freewheels (x : Coil) : Coil := { x with fw := true }

/-- The state in which the clamp of `ch` has reached 165 °C and its governing channel's freewheel has turned on. -/
def State.clampTripped (s : State) (ch : Nat) (deg : Int) : State :=
  ((s.setPin (.plClp ch) deg).setCoil ch Coil.clampHot).setCoil (s.plGov ch) Coil.freewheels

section
variable (s : State) {ch : Nat} (hc : ch < 12) (deg : Int)

theorem State.clampTripped_keeps : s.keeps (s.clampTripped ch deg) [.pin (.plClp ch), .coil ch, .coil (s.plGov ch)] := by
  have hclamp := State.keeps_trans (s.setPin_keeps (.plClp ch) deg) (State.setCoil_keeps _ ch Coil.clampHot)
    (n := [.pin (.plClp ch), .coil ch, .coil (s.plGov ch)])
  exact State.keeps_trans hclamp (State.setCoil_keeps _ _ _)

theorem State.st_clampTripped (k : Nat) : ((s.clampTripped ch deg).coil k).st = (s.coil k).st :=
  (State.setCoil_view Coil.st _ _ k (f := Coil.freewheels) (fun _ => rfl)).trans
    (State.setCoil_view Coil.st _ ch k (f := Coil.clampHot) (fun _ => rfl))

include hc

theorem State.clamp_clampTripped : ((s.clampTripped ch deg).coil ch).dg.clpT = true ∧ ((s.clampTripped ch deg).coil ch).fr.clpt = true := by
  have hcoil := State.coil_setCoil_same (s.setPin (.plClp ch) deg) ch Coil.clampHot hc
  exact ⟨(State.setCoil_view (fun x => x.dg.clpT) _ _ ch (f := Coil.freewheels) (fun _ => rfl)).trans (congrArg (fun x => x.dg.clpT) hcoil),
    (State.setCoil_view (fun x => x.fr.clpt) _ _ ch (f := Coil.freewheels) (fun _ => rfl)).trans (congrArg (fun x => x.fr.clpt) hcoil)⟩

theorem State.fw_clampTripped : ((s.clampTripped ch deg).coil (s.plGov ch)).fw = true :=
  congrArg Coil.fw (State.coil_setCoil_same _ _ Coil.freewheels (Nat.lt_of_le_of_lt (s.plGov_le ch) hc))

theorem State.plSlow_clampTripped : (s.clampTripped ch deg).plSlow (s.plGov ch) = true := by
  obtain ⟨hclamp, -⟩ := s.clamp_clampTripped hc deg
  exact List.any_eq_true.mpr ⟨ch, s.mem_plMembers_plGov ch, by simp [hclamp]⟩

end

section
variable {ch : Fin 12} {deg : Int} {s : State}

theorem execClampOvertemp_of_none
    (h : s.pressRuns = false ∨ deg < 165 * 16 ∨ (s.coil (s.plGov ch)).ls = true ∨ (s.coil (s.plGov ch)).fw = true) :
    execClampOvertemp ch deg s = .next s := by
  refine congrArg Host.Outcome.next (if_neg ?_)
  simp only [Bool.and_eq_true, Bool.not_eq_true', decide_eq_true_eq]
  rintro ⟨⟨⟨hr, hdeg⟩, hls⟩, hfw⟩
  rcases h with h | h | h | h
  · simp [h] at hr
  · omega
  · simp [h] at hls
  · simp [h] at hfw

theorem execClampOvertemp_of_conducting (hr : s.pressRuns = true) (hdeg : 165 * 16 ≤ deg) (hls : (s.coil (s.plGov ch)).ls = false)
    (hfw : (s.coil (s.plGov ch)).fw = false) : execClampOvertemp ch deg s = .next (s.clampTripped ch deg) :=
  congrArg Host.Outcome.next (if_pos (by rw [hr, hls, hfw, decide_eq_true hdeg]; decide))

end

/-! ### The shut-off of a PX channel (R184) -/

/-- The state in which a PX channel has turned off and locked. -/
def State.pxLocked (s : State) (x : Nat) (oc ot : Bool) : State :=
  s.setPx x (fun y => { y with on := false, onAll := false, lock := true, oc := y.oc || oc, ot := y.ot || ot })

section
variable {x : Fin 4} {amps deg : Int} {s : State}

theorem execPxShutoff_of_within
    (h : s.unpowered = true ∨ (s.px x).lock = true ∨ (decide (9000 < amps) = false ∧ decide (165 * 16 < deg) = false)) :
    execPxShutoff x amps deg s = .next s := by
  refine congrArg Host.Outcome.next (if_neg ?_)
  rcases h with h | h | ⟨hoc, hot⟩
  · rw [h, Bool.not_true, Bool.and_false]; decide
  · rw [h, Bool.not_true, Bool.false_and, Bool.false_and]; decide
  · rw [hoc, hot, Bool.or_false, Bool.and_false, Bool.false_and]; decide

theorem execPxShutoff_of_beyond (hp : s.unpowered = false) (hl : (s.px x).lock = false)
    (h : decide (9000 < amps) = true ∨ decide (165 * 16 < deg) = true) :
    execPxShutoff x amps deg s = .next ((s.pxLocked x (decide (9000 < amps)) (decide (165 * 16 < deg))).raiseSource (108 + x)) := by
  refine congrArg Host.Outcome.next (if_pos ?_)
  rw [hp, hl, (Bool.or_eq_true _ _).mpr h]
  decide

end

/-- Settles O17: each shut-off by its `exec` lemma; a thread's fault by the lemmas of `State.plFault`, a bank's by those of
`State.bankTripped`, a clamp by those of `State.clampTripped`. -/
theorem pressProtection : Obligations.PressProtection := by
  refine ⟨fun ch amps deg s => ⟨fun h => execCoilShutoff_of_within h, fun hr h => ?_⟩,
    fun b amps deg s => ⟨fun h => execBankShutoff_of_within h, fun hr hl h => ?_⟩,
    fun ch deg s => ⟨fun h => execClampOvertemp_of_none h, fun hr hdeg hls hfw => ?_⟩,
    fun x amps deg s => ⟨fun h => execPxShutoff_of_within h, fun hp hl h => ?_⟩⟩
  · have he : s.plGov ch < 12 := Nat.lt_of_le_of_lt (s.plGov_le ch) ch.isLt
    have hexec := execCoilShutoff_of_beyond hr h
    exact ⟨fun hst => hexec.trans (congrArg _ (State.plFault_of_stop _ hst)),
      fun hst => ⟨_, hexec.trans (congrArg _ (State.plFault_of_fault _ hst)), s.setCoil_becomes he _⟩,
      fun hstop hfault => ⟨_, hexec.trans (congrArg _ (State.plFault_of_running _ hstop hfault)), s.setCoil_becomes he _⟩⟩
  · have hlock := s.lock_bankTripped b.isLt (decide ((200 * s.fld (F.prsBankIlim b) : Int) < amps)) (decide (165 * 16 < deg))
    exact ⟨_, execBankShutoff_of_beyond hr hl h, hlock, State.pbankOn_of_lock hlock, fun hs q => State.bankTripped_quiet b.isLt _ _ hs q⟩
  · obtain ⟨hclamp, hframe⟩ := s.clamp_clampTripped ch.isLt deg
    exact ⟨_, execClampOvertemp_of_conducting hr hdeg hls hfw, State.pin_setPin_same _ _ _, hclamp, hframe, s.fw_clampTripped ch.isLt deg,
      s.st_clampTripped deg _, s.plSlow_clampTripped ch.isLt deg, s.clampTripped_keeps deg⟩
  · exact ⟨_, execPxShutoff_of_beyond hp hl h, s.px_setPx_same x _ x.isLt, s.setPx_keeps x _⟩

end Sys2Proof.Machine
end
section
/-!
PROOFS. What a reaction leaves of the Press; the regulator at a coil sample (O18).
-/

namespace Sys2Proof.Machine

/-! ### What a reaction leaves of the Press -/

/-- Of the Press, which was `p`, the coil channels and the PX channels alone have changed. -/
def PressKept (p : Prs) (t : State) : Prop := ∃ coil px, t.prs = { p with coil := coil, px := px }

theorem PressKept.refl (s : State) : PressKept s.prs s := ⟨s.prs.coil, s.prs.px, rfl⟩

section
variable {p : Prs} {t : State}

theorem PressKept.of_eq {u : State} (h : PressKept p t) (hu : u.prs = t.prs) : PressKept p u := by
  obtain ⟨coil, px, e⟩ := h
  exact ⟨coil, px, hu.trans e⟩

theorem PressKept.ite {q : Prop} [Decidable q] {u v : State} (h : PressKept p u) (k : PressKept p v) : PressKept p (if q then u else v) := by
  split
  · exact h
  · exact k

theorem PressKept.setCoil (h : PressKept p t) (c : Nat) (f : Coil → Coil) : PressKept p (t.setCoil c f) := by
  obtain ⟨_, _, e⟩ := h
  exact ⟨_, _, congrArg (fun q : Prs => { q with coil := updN q.coil c f }) e⟩

theorem PressKept.setPx (h : PressKept p t) (x : Nat) (f : Px → Px) : PressKept p (t.setPx x f) := by
  obtain ⟨_, _, e⟩ := h
  exact ⟨_, _, congrArg (fun q : Prs => { q with px := updN q.px x f }) e⟩

theorem PressKept.demand (h : PressKept p t) (d : Nat) : PressKept p (t.demand d) := h.of_eq (t.prs_demand d)

theorem PressKept.pendEvent (h : PressKept p t) (n : Nat) : PressKept p (t.pendEvent n) := h.of_eq (t.prs_pendEvent n)

theorem State.prs_dgOn (s : State) (o : Nat) : (s.dgOn o).prs = s.prs :=
  st_foldl (P := fun t => t.prs = s.prs) (fun _ _ h => h) rfl

theorem PressKept.takeMode (h : PressKept p t) (o : Nat) (m : Nat × Nat) : PressKept p (t.takeMode o m) :=
  .ite (h.of_eq (State.prs_dgOn _ _)) (h.of_eq rfl)

theorem PressKept.safeCh (h : PressKept p t) (c : Nat) : PressKept p (t.safeCh c) := by
  unfold State.safeCh
  dsimp only
  refine .ite h ?_
  split
  · exact .ite (.ite (.ite (h.of_eq (State.prs_dgOn _ _)) h) (h.demand _)) h
  · exact h
  · exact .ite (h.of_eq rfl) h

theorem PressKept.safeHb (h : PressKept p t) (n : Nat) : PressKept p (t.safeHb n) := by
  have hnoted : PressKept p ((t.members (48 + n)).foldl (fun u k => u.hbNote (k - 48)) t) := st_foldl (fun _ _ k => k.of_eq rfl) h
  have hmode := hnoted.takeMode (48 + n) (t.effHb n)
  exact .ite h (.ite h (.ite (.ite (hmode.of_eq rfl) hmode) (.ite (.ite (.ite (hmode.of_eq (State.prs_dgOn _ _)) hmode) (hmode.demand _)) hmode)))

theorem PressKept.plStop (h : PressKept p t) (c : Nat) (st : TSt) : PressKept p (t.plStop c st) := (h.setCoil c _).setCoil c _

theorem PressKept.safePl (h : PressKept p t) (c : Nat) : PressKept p (t.safePl c) := by
  unfold State.safePl
  dsimp only
  refine .ite h ?_
  split
  · exact .ite (h.setCoil _ _) h
  · exact h
  · exact .ite (h.plStop _ _) (h.setCoil _ _)

theorem PressKept.safeLed (h : PressKept p t) (n : Nat) : PressKept p (t.safeLed n) := by
  unfold State.safeLed
  dsimp only
  refine .ite h ?_
  split
  · exact .ite (st_foldl (P := PressKept p) (fun _ _ k => .ite (k.of_eq rfl) k) h) (h.demand _)
  · exact h
  · exact st_foldl (P := PressKept p) (fun _ _ k => .ite (k.of_eq rfl) k) h

theorem PressKept.moveVs (h : PressKept p t) (v : Nat) : PressKept p (t.moveVs v) :=
  .ite (.ite (.ite h (h.of_eq rfl)) (PressKept.of_eq (.ite (h.demand _) h) rfl)) (h.of_eq rfl)

theorem PressKept.stopCores (h : PressKept p t) : PressKept p t.stopCores := by
  unfold State.stopCores
  refine PressKept.of_eq (t := forEach 2 _ t) (st_forEach (fun u i k => ?_) h) rfl
  split
  · exact k.of_eq rfl
  · exact k

theorem PressKept.lockUnderSafe (h : PressKept p t) : PressKept p t.lockUnderSafe := by
  have hset : PressKept p ((t.setBit F.pwrStatLockacc).putSticky 31 true) := h.of_eq rfl
  have hend : ∀ {u : State}, PressKept p u → ∀ q : Bool, PressKept p (if q then u.pendEvent 77 else u) := fun k _ => .ite (k.pendEvent 77) k
  unfold State.lockUnderSafe
  dsimp only
  refine .ite (h.of_eq rfl) (hend ?_ _)
  split
  · exact hset.of_eq rfl
  · exact hset.stopCores
  · exact hset

theorem PressKept.safeAcc (h : PressKept p t) : PressKept p t.safeAcc :=
  .ite h (.ite (.ite (PressKept.lockUnderSafe (h.of_eq (by rfl))) (PressKept.pendEvent (h.of_eq (by rfl)) _)) (h.of_eq rfl))

/-- The safe image changes of the Press its channels alone. -/
theorem PressKept.driveSafe (h : PressKept p t) : PressKept p t.driveSafe := by
  have hdriven : PressKept p { t with win := { t.win with safe := true, hold := t.frm.committed } } := h.of_eq rfl
  have each : ∀ {u : State} (n : Nat) (f : State → Nat → State), (∀ v i, PressKept p v → PressKept p (f v i)) → PressKept p u →
      PressKept p (forEach n f u) := fun _ _ hf k => st_forEach hf k
  have hsw := each 8 State.safeHb (fun _ n k => k.safeHb n) (each 48 State.safeCh (fun _ c k => k.safeCh c) hdriven)
  have hprs := each 4 State.movePx (fun _ x k => k.setPx x _) (each 12 State.safePl (fun _ c k => k.safePl c) hsw)
  have hled := each 24 State.safeLed (fun _ n k => k.safeLed n) hprs
  exact .ite h (each 4 State.moveVs (fun _ v k => k.moveVs v) hled).safeAcc

theorem PressKept.occur (h : PressKept p t) (n : Nat) : PressKept p (t.occur n) := by
  have hset : PressKept p (t.putSticky n true) := h.of_eq rfl
  refine .ite h ?_
  unfold State.classReact
  split
  · exact hset
  · exact hset.of_eq rfl
  · exact hset.driveSafe
  · exact hset.driveSafe.stopCores

theorem PressKept.classEvent (h : PressKept p t) (c : Nat) : PressKept p (t.classEvent c) :=
  .ite h (.ite (PressKept.occur (h.of_eq (by rfl)) _) (h.pendEvent _))

theorem PressKept.raiseSource (h : PressKept p t) (n : Nat) : PressKept p (t.raiseSource n) :=
  .ite (h.occur n) ((h.occur n).classEvent _)

theorem PressKept.raiseEvent (h : PressKept p t) (n : Nat) : PressKept p (t.raiseEvent n) :=
  .ite (PressKept.raiseSource (h.of_eq (by rfl)) _) (h.pendEvent n)

theorem PressKept.ucFault (h : PressKept p t) (c : Nat) : PressKept p (t.ucFault c) := by
  refine PressKept.raiseSource ?_ _
  unfold State.plFault
  dsimp only
  split
  · exact h.raiseSource _
  · exact (h.setCoil _ _).raiseSource _
  · exact (((h.plStop _ _).setCoil _ _).raiseEvent _).raiseSource _

theorem PressKept.ucDone (h : PressKept p t) (c : Nat) : PressKept p (t.ucDone c) := .ite ((h.setCoil c _).ucFault c) (h.setCoil c _)

end

/-! ### One channel at a sample (R165, R167) -/

/-- The low side after a sample `v` of a thread that regulates with hysteresis `h` (R165). -/
def Coil.regulatedLs (x : Coil) (h v : Int) (bank : Bool) : Bool :=
  bank && (if v ≤ x.target - h ∧ x.target ≠ 0 then true else if x.target + h ≤ v ∨ x.target = 0 then false else x.ls)

theorem Coil.ls_regulate (x : Coil) (h v : Int) (bank slow : Bool) : (x.regulate h v bank slow).ls = x.regulatedLs h v bank := by
  unfold Coil.regulate Coil.regulatedLs
  cases bank
  · rfl
  · simp only [Bool.not_true, Bool.false_eq_true, if_false, Bool.true_and]
    split
    · rfl
    · by_cases hoff : x.target + h ≤ v ∨ x.target = 0
      · cases x.ls <;> simp [hoff]
      · cases hls : x.ls <;> simp [hls, hoff]

theorem Coil.st_regulate (x : Coil) (h v : Int) (bank slow : Bool) :
    (x.regulate h v bank slow).st = x.st ∧ (x.regulate h v bank slow).pc = x.pc := by
  unfold Coil.regulate
  split_ifs <;> exact ⟨rfl, rfl⟩

/-- What a wait does at a sample leaves the state, the program counter and the switches. -/
theorem Coil.waited_view (x : Coil) (v : Int) : (x.waited v).st = x.st ∧ (x.waited v).pc = x.pc ∧ (x.waited v).ls = x.ls := by
  unfold Coil.waited
  split
  · split_ifs <;> exact ⟨rfl, rfl, rfl⟩
  · exact ⟨rfl, rfl, rfl⟩
  · exact ⟨rfl, rfl, rfl⟩

/-- A sample of `v` mA enters the sums of the frame. -/
def Coil.sums (x : Coil) (v : Int) : Coil := { x with fr := { x.fr with acc := x.fr.acc.add v } }

/-- The channel `x` after its regulator, its detector and its wait have met a sample. -/
def State.regulated (s : State) (ch : Nat) (x : Coil) : Coil :=
  let v := s.plSample ch
  if x.st.regulates then
    let y := x.regulate (10 * s.fld (F.prsChcfgHyst ch)) v (s.pbankOn (ch / 4)) (s.plSlow ch)
    let d := if x.ls then x.det.sample v ((s.count - x.grantAt) / 300) else x.det
    let d' := if x.ls && !y.ls then { d with m := none } else d
    ({ y with det := d', fr := { y.fr with armv := y.fr.armv || (x.det.armed.isSome && d.armed.isNone) } }).waited v
  else { x with ls := false, fw := x.fw && decide (50 ≤ v) }

/-- The regulated channel `y` of `x` with the runs of R180 counted, its wait not ended yet. -/
def State.runsCounted (s : State) (ch : Nat) (x y : Coil) : Coil :=
  let o := if x.ls && decide (200 ≤ x.target) && decide (s.plSample ch < 50) then x.dg.openRun + 1 else 0
  let l := if !x.ls && s.pbankOn (ch / 4) && decide (s.pin (.plV ch) < 2000) then x.dg.lsgRun + 1 else 0
  { y with
    wait := x.wait
    dg := { y.dg with openRun := o, lsgRun := l }
    fr := { y.fr with opn := y.fr.opn || decide (2000 ≤ o), lsg := y.fr.lsg || decide (2 ≤ l) } }

/-- The reading that the sums of a channel take: a half of a pair takes its own. -/
def State.sumsReading (s : State) (ch : Nat) : Int :=
  if s.plGoverns ch then s.plSample ch else max (-8192) (min 8191 (roundAway (s.pin (.plI ch)) 3)) * 3

theorem State.coilSample_of_half {s : State} {ch : Nat} (h : s.plGoverns ch = false) :
    s.coilSample ch = s.setCoil ch (Coil.sums · (s.sumsReading ch)) :=
  if_pos (by rw [h]; rfl)

/-- The state in which the governing channel `x` has met its sample of `s`, once the sums in `u` have taken it. -/
def State.sampleMet (s u : State) (ch : Nat) (x : Coil) : State :=
  let y := s.regulated ch x
  let v := u.setCoil ch (fun _ => s.runsCounted ch x y)
  if x.wait != .ready && y.wait == .ready then v.ucDone ch else v.setCoil ch (fun z => { z with wait := y.wait })

theorem State.coilSample_of_governs {s : State} {ch : Nat} (h : s.plGoverns ch = true) (hc : ch < 12) :
    s.coilSample ch = s.sampleMet (s.setCoil ch (Coil.sums · (s.sumsReading ch))) ch ((s.coil ch).sums (s.sumsReading ch)) := by
  have hx : (s.setCoil ch (Coil.sums · (s.sumsReading ch))).coil ch = (s.coil ch).sums (s.sumsReading ch) := s.coil_setCoil_same ch _ hc
  rw [← hx]
  exact if_neg (by rw [h]; decide)

/-- The low side of a governing channel after its sample. -/
def State.sampledLs (s : State) (ch : Nat) : Bool :=
  (s.coil ch).st.regulates && (s.coil ch).regulatedLs (10 * s.fld (F.prsChcfgHyst ch)) (s.plSample ch) (s.pbankOn (ch / 4))

theorem State.regulated_view (s : State) (ch : Nat) (x : Coil) :
    (s.regulated ch x).st = x.st ∧ (s.regulated ch x).pc = x.pc ∧
      (s.regulated ch x).ls = (x.st.regulates &&
        x.regulatedLs (10 * s.fld (F.prsChcfgHyst ch)) (s.plSample ch) (s.pbankOn (ch / 4))) := by
  unfold State.regulated
  dsimp only
  cases hr : x.st.regulates
  · exact ⟨rfl, rfl, rfl⟩
  · rw [if_pos rfl]
    obtain ⟨hst, hpc⟩ := x.st_regulate (10 * s.fld (F.prsChcfgHyst ch)) (s.plSample ch) (s.pbankOn (ch / 4)) (s.plSlow ch)
    obtain ⟨hst', hpc', hls'⟩ := Coil.waited_view _ (s.plSample ch)
    exact ⟨hst'.trans hst, hpc'.trans hpc, hls'.trans (x.ls_regulate _ _ _ _)⟩

/-- A change of a channel is the value that it gives the channel. -/
theorem State.setCoil_value (s : State) (ch : Nat) (f : Coil → Coil) : s.setCoil ch f = s.setCoil ch (fun _ => f (s.coil ch)) := by
  unfold State.setCoil State.coil updN nth
  by_cases h : ch < 12 <;> simp [h]

/-- Before word 511 a sample changes its channel alone, and leaves its thread's state. -/
theorem State.coilSample_value {s : State} {ch : Nat} (hc : ch < 12) (hpc : (s.coil ch).pc < 511) :
    ∃ y : Coil, s.coilSample ch = s.setCoil ch (fun _ => y) ∧ y.st = (s.coil ch).st ∧ (s.plGoverns ch = true → y.ls = s.sampledLs ch) := by
  cases hg : s.plGoverns ch
  · exact ⟨_, (State.coilSample_of_half hg).trans (s.setCoil_value ch _), rfl, fun h => by cases h⟩
  · obtain ⟨hst, hpc', hls⟩ := s.regulated_view ch ((s.coil ch).sums (s.sumsReading ch))
    rw [State.coilSample_of_governs hg hc, State.sampleMet, State.setCoil_setCoil]
    split
    · rw [State.ucDone, State.ucNext, if_neg, State.setCoil_setCoil]
      · exact ⟨_, rfl, hst, fun _ => hls⟩
      · rw [State.coil_setCoil_same _ _ _ hc]
        exact Nat.not_le.mpr (hpc'.trans_lt hpc)
    · rw [State.setCoil_setCoil]
      exact ⟨_, rfl, hst, fun _ => hls⟩

theorem PressKept.coilSample {p : Prs} {t : State} (h : PressKept p t) {ch : Nat} (hc : ch < 12) : PressKept p (t.coilSample ch) := by
  cases hg : t.plGoverns ch
  · rw [State.coilSample_of_half hg]
    exact h.setCoil _ _
  · rw [State.coilSample_of_governs hg hc]
    have hcounted := (h.setCoil ch (Coil.sums · (t.sumsReading ch))).setCoil ch
    exact .ite ((hcounted _).ucDone ch) ((hcounted _).setCoil ch _)

/-! ### The samples of a moment (R146) -/

/-- The state with other coil channels. -/
def State.withCoils (s : State) (v : Vector Coil 12) : State := { s with prs := { s.prs with coil := v } }

/-- Whether a bank switch is on rests, of its channels, on the states of their threads. -/
theorem State.pbankOn_withCoils {s : State} {v : Vector Coil 12} (h : ∀ k, (nth v k {}).st = (s.coil k).st) (b : Nat) :
    (s.withCoils v).pbankOn b = s.pbankOn b := by
  have hst : ∀ k, ((s.withCoils v).coil k).st = (s.coil k).st := h
  unfold State.pbankOn
  simp only [hst]
  rfl

/-- Where no thread stands at word 511, the samples of all channels leave the threads' states and switch each governing low side. -/
theorem State.coilSamples_spec {s : State} (hpc : ∀ ch, ch < 12 → (s.coil ch).pc < 511) :
    ∃ v, forEach 12 State.coilSample s = s.withCoils v ∧ ∀ ch, (nth v ch {}).st = (s.coil ch).st ∧
      (ch < 12 → s.plGoverns ch = true → (nth v ch {}).ls = s.sampledLs ch) := by
  obtain ⟨v, hv, hst, -, hls⟩ := forEach_induct (n := 12) (f := State.coilSample) (s := s)
    (Q := fun i t => ∃ v, t = s.withCoils v ∧ (∀ k, (nth v k {}).st = (s.coil k).st) ∧ (∀ k, i ≤ k → nth v k {} = s.coil k) ∧
      ∀ k, k < i → s.plGoverns k = true → (nth v k {}).ls = s.sampledLs k)
    ⟨s.prs.coil, rfl, fun _ => rfl, fun _ _ => rfl, fun _ h => absurd h (Nat.not_lt_zero _)⟩ fun i t hi ⟨v, ht, hst, hlater, hdone⟩ => by
      subst ht
      have hi' : (s.withCoils v).coil i = s.coil i := hlater i (Nat.le_refl i)
      obtain ⟨y, hy, hyst, hyls⟩ := State.coilSample_value hi (by rw [hi']; exact hpc i hi)
      have hls : (s.withCoils v).sampledLs i = s.sampledLs i := by
        unfold State.sampledLs
        rw [hi', State.pbankOn_withCoils hst]
        rfl
      have hval : ∀ k, nth (updN v i (fun _ => y)) k {} = if i = k ∧ k < 12 then y else nth v k {} := fun k => nth_updN v i k _ _
      refine ⟨updN v i (fun _ => y), hy, fun k => ?_, fun k hk => ?_, fun k hk hg => ?_⟩
      · rw [hval]
        split
        · next e => rw [hyst, hi', e.1]
        · exact hst k
      · rw [hval, if_neg (by omega)]
        exact hlater k (by omega)
      · rw [hval]
        split
        · next e =>
          obtain ⟨rfl, -⟩ := e
          exact (hyls hg).trans hls
        · next e => exact hdone k (by omega) hg
  exact ⟨v, hv, fun ch => ⟨hst ch, hls ch⟩⟩

/-- The number of the coil sample that comes next in the frame (R146). -/
def State.sampleIndex (s : State) : Nat := max s.prs.sampleJ ((s.count - s.frm.edgeAt + 299) / 300)

/-- The state in which the coil sample that comes next is taken. -/
def State.coilsBegun (s : State) (w : World) : State :=
  let u := (s.observe w).advance (s.frm.edgeAt + 300 * s.sampleIndex)
  { u with prs := { u.prs with sampleJ := s.sampleIndex + 1 } }

/-- The banks' sums take their readings. -/
def State.bankSamples (s : State) : State :=
  forEach 3 (fun t b => t.setPbank b (fun x => { x with
    acc := x.acc.add (max (-8192) (min 8191 (roundAway (t.pin (.pbI b)) 6)) * 6) })) s

theorem State.bankSamples_kept (s : State) : s.bankSamples.prs.coil = s.prs.coil ∧ s.bankSamples.prs.sampleJ = s.prs.sampleJ :=
  st_forEach (P := fun t => t.prs.coil = s.prs.coil ∧ t.prs.sampleJ = s.prs.sampleJ) (fun _ _ h => h) ⟨rfl, rfl⟩

section
variable {w : World} {s : State}

theorem execRegulatorSample_of_none (h : s.domOn domPress = false ∨ s.frameRuns = false ∨ 2 * s.tfUs ≤ s.sampleIndex) :
    execRegulatorSample w s = .next (s.observe w) := by
  refine congrArg Host.Outcome.next (if_neg ?_)
  simp only [Bool.and_eq_true, decide_eq_true_eq]
  rintro ⟨⟨hd, hr⟩, hj⟩
  rcases h with h | h | h
  · simp [h] at hd
  · simp [h] at hr
  · exact absurd hj (Nat.not_lt.mpr h)

theorem execRegulatorSample_of_due (hd : s.domOn domPress = true) (hr : s.frameRuns = true) (hj : s.sampleIndex < 2 * s.tfUs) :
    execRegulatorSample w s = .next (forEach 12 State.coilSample (s.coilsBegun w)).bankSamples :=
  congrArg Host.Outcome.next (if_pos (by rw [hd, hr]; exact decide_eq_true hj))

end

/-- The samples of a moment are counted, whatever the threads do (R146). -/
theorem State.sampleJ_coilSamples (s : State) (w : World) :
    (forEach 12 State.coilSample (s.coilsBegun w)).bankSamples.prs.sampleJ = s.sampleIndex + 1 := by
  obtain ⟨-, hcount⟩ := (forEach 12 State.coilSample (s.coilsBegun w)).bankSamples_kept
  obtain ⟨coil, px, hprs⟩ := st_forEach_lt (P := PressKept (s.coilsBegun w).prs) (n := 12) (f := State.coilSample)
    (fun _ ch hc h => h.coilSample hc) (PressKept.refl (s.coilsBegun w))
  rw [hcount, hprs]
  rfl

/-- Settles O18: a sample that is due by `State.coilSamples_spec`, its count by `State.sampleJ_coilSamples`. -/
theorem regulatorSampleSwitches : Obligations.RegulatorSampleSwitches := by
  refine ⟨fun w s h => execRegulatorSample_of_none h, fun w s hd hr hj => ⟨_, execRegulatorSample_of_due hd hr hj,
    s.sampleJ_coilSamples w, fun hpc ch hg => ?_⟩⟩
  obtain ⟨pins, hobs⟩ := s.observe_eq w
  have hbegun : s.coilsBegun w = { s with
      pins := pins, count := max s.count (s.frm.edgeAt + 300 * s.sampleIndex), prs := { s.prs with sampleJ := s.sampleIndex + 1 } } := by
    unfold State.coilsBegun
    rw [hobs]; rfl
  obtain ⟨v, hv, hch⟩ := State.coilSamples_spec (s := s.coilsBegun w) (by rw [hbegun]; exact hpc)
  obtain ⟨hst, hls⟩ := hch ch
  obtain ⟨hcoil, -⟩ := (forEach 12 State.coilSample (s.coilsBegun w)).bankSamples_kept
  have hend : (forEach 12 State.coilSample (s.coilsBegun w)).bankSamples.coil ch = nth v ch {} := by
    unfold State.coil
    rw [hcoil, hv]; rfl
  have hsampled : (nth v ch {}).ls = ((s.coil ch).st.regulates && (s.coil ch).regulatedLs (10 * s.fld (F.prsChcfgHyst ch))
      ((s.observe w).plSample ch) (s.pbankOn (ch / 4))) := by
    rw [hls ch.isLt (by rw [hbegun]; exact hg), hbegun, hobs]; rfl
  rw [hend, hsampled]
  refine ⟨hst.trans (by rw [hbegun]; rfl), fun hr => ?_, fun hr hb => ?_, fun hr hb => ?_⟩
  · rw [hr, Bool.false_and]
  · rw [hr, hb, Bool.true_and]; rfl
  · rw [hr, hb]; rfl

end Sys2Proof.Machine
end
section
/-!
PROOFS. A measurement that meets a condition of R209 counts twice in the model, so the LED statement fails (O19).
-/

namespace Sys2Proof.Machine

/-- A measurement meets OPEN: current below half the set current, headroom below 0.5 V (R209). -/
def State.ledMeetsOpen (s : State) (n : Nat) (amps head : Int) : Prop :=
  2 * amps * 4095 < 1000 * (s.ledIfs n : Int) * dacOf (s.sink n).lvl ∧ head < 500

/-- Counting a sink's on-time, where a shut-off asks for it, leaves the sink's OPEN count. -/
theorem State.nOpen_ledCount_ite (s : State) (off : Prop) [Decidable off] (b : Nat) {n : Nat} (hn : n < 24) :
    ((if off then s.ledCount b n else s).sink n).nOpen = (s.sink n).nOpen := by
  split
  · simp only [State.ledCount, State.sink_setSink_same _ _ _ hn]
  · rfl

/-- A due measurement that meets OPEN takes the sink's OPEN count two further: `incTo` adds one to the count that
`execLedMeasurement` has already advanced. R209 counts such a measurement once. -/
theorem execLedMeasurement_of_open {n : Fin 24} {amps head : Int} {s : State} (hdue : s.ledDue n = true)
    (hopen : s.ledMeetsOpen n amps head) :
    ∃ u, execLedMeasurement n amps head s = .next u ∧ (u.sink n).nOpen = min 15 ((s.sink n).nOpen + 2) := by
  obtain ⟨hamps, hhead⟩ := hopen
  refine ⟨_, congrArg Host.Outcome.next (if_pos hdue), ?_⟩
  simp only [State.sink_setSink_same, State.nOpen_ledCount_ite, State.sink_advance, n.isLt, hamps, hhead, decide_true, Bool.and_self, if_true]
  rfl

/-- The machine after reset with the domain LED ON and sink 0 at level 6554, the lowest of analog mode. -/
def State.sinkLit : State := (State.reset.setDom domLed (fun x => { x with st := .on })).setSink 0 (fun x => { x with lvl := ledX })

theorem State.sinkLit_due : State.sinkLit.ledDue 0 = true := by decide

/-- A sink that is lit and carries no current, its land pulled to ground, meets OPEN. -/
theorem State.sinkLit_open : State.sinkLit.ledMeetsOpen 0 0 0 := by
  unfold State.ledMeetsOpen
  decide

/-- Refutes O19: sink 0 of `State.sinkLit` is due, and its first measurement, of 0 µA at 0 mV, meets OPEN. The statement has its OPEN
count at 1 then, as R209 does, and the model has it at 2. -/
theorem not_ledSinkSteps : ¬ Obligations.LedSinkSteps := by
  unfold Obligations.LedSinkSteps
  rintro ⟨hmeasure, -⟩
  obtain ⟨u, hu, hone, -⟩ := hmeasure 0 0 0 State.sinkLit State.sinkLit_due
  obtain ⟨v, hv, htwo⟩ := execLedMeasurement_of_open (n := 0) State.sinkLit_due State.sinkLit_open
  obtain rfl : u = v := Host.Outcome.next.inj (hu.symm.trans hv)
  have hzero : (State.sinkLit.sink (0 : Fin 24)).nOpen = 0 := rfl
  have hcount := htwo.symm.trans (hone.trans (if_pos State.sinkLit_open))
  rw [hzero] at hcount
  exact absurd hcount (by decide)

end Sys2Proof.Machine
end
section
/-!
PROOFS. The switch inputs' watch outputs and the wake inputs (O20).
-/

namespace Sys2Proof.Machine

/-- A loop whose turn `i` changes entry `i` of a table alone changes each entry once, and keeps what each of its turns keeps: the turns
may rely on it. -/
theorem forEach_entry_of {α : Type} {n : Nat} {entry : State → Nat → α} {turn : State → Nat → State} {f : Nat → α → α} {P : State → Prop}
    (hP : ∀ t i, i < n → P t → P (turn t i)) (hsame : ∀ t i, i < n → P t → entry (turn t i) i = f i (entry t i))
    (hother : ∀ t i j, i < n → i ≠ j → entry (turn t i) j = entry t j) {s : State} (hs : P s) :
    P (forEach n turn s) ∧ ∀ j, j < n → entry (forEach n turn s) j = f j (entry s j) := by
  obtain ⟨hend, hloop⟩ := forEach_induct (n := n) (f := turn) (s := s)
    (Q := fun i t => P t ∧ ∀ j, entry t j = if j < i then f j (entry s j) else entry s j)
    ⟨hs, fun _ => rfl⟩ fun i t hi ⟨hp, ht⟩ => by
      refine ⟨hP t i hi hp, fun j => ?_⟩
      by_cases e : i = j
      · subst e
        rw [hsame t i hi hp, ht, if_neg (Nat.lt_irrefl i), if_pos (Nat.lt_succ_self i)]
      · rw [hother t i j hi e, ht]
        exact if_congr (by omega) rfl rfl
  exact ⟨hend, fun j hj => (hloop j).trans (if_pos hj)⟩

/-! ### The wetting pulse (R216, R222) -/

/-- The watch outputs of the inputs that `s` enables freeze in `t`. -/
def State.freezeWet (s t : State) : State :=
  forEach 48 (fun t i => if s.fld (F.inpSwcfgWet i) = 0 then t else t.setSwIn i (fun x => { x with frozen := true })) t

theorem execWettingPulseStart_of_on {s : State} (h : s.domOn domInp = true) :
    execWettingPulseStart s = .next (s.freezeWet (s.advance (s.beforeEdge 7500))) :=
  congrArg Host.Outcome.next (if_pos h)

theorem execWettingPulseStart_of_not_on {s : State} (h : s.domOn domInp = false) :
    execWettingPulseStart s = .next (s.advance (s.beforeEdge 7500)) :=
  congrArg Host.Outcome.next (if_neg (by simp [h]))

theorem State.freezeWet_keeps (s t : State) : t.keeps (s.freezeWet t) ((upto 48).map .swIn) :=
  State.forEach_keeps _ _ _ fun u i hi => by
    split
    · exact u.keeps_refl _
    · exact State.keeps_mono (u.setSwIn_keeps i _) (by simpa [mem_upto] using hi)

theorem State.swIn_freezeWet (s t : State) {i : Nat} (hi : i < 48) :
    (s.freezeWet t).swIn i = { t.swIn i with frozen := (t.swIn i).frozen || s.fld (F.inpSwcfgWet i) != 0 } := by
  refine forEach_entry (entry := State.swIn) (f := fun i x => { x with frozen := x.frozen || s.fld (F.inpSwcfgWet i) != 0 })
    (fun u k hk => ?_) (fun u k j hkj => ?_) t hi
  · split
    · next hw => simp [hw]
    · next hw => simp [hw, hk]
  · split
    · rfl
    · exact u.swIn_setSwIn_other k j _ hkj

/-! ### The watch outputs (R221 to R223) -/

/-- The watch comparator of an input reads closed, or open. -/
def State.compared (s : State) (i : Nat) (closed : Bool) : State := s.setSwIn i (fun x => { x with comp := closed })

/-- The watch output of an input follows its comparator. -/
def State.watched (s : State) (i : Nat) : State := s.setSwIn i (fun x => { x with watch := x.comp })

section
variable {s : State} {i : Nat}

theorem State.watchTake_of_same (h : (s.swIn i).comp = (s.swIn i).watch) : s.watchTake i = s := if_pos (beq_iff_eq.mpr h)

/-- An output that its comparator has left takes one transition, the cause of event `i` where EVSEL asks for it. -/
theorem State.watchTake_of_change (h : (s.swIn i).comp ≠ (s.swIn i).watch) :
    s.watchTake i = if (s.fld (F.inpSwcfgEvsel i)).testBit 1 then (s.watched i).raiseEvent i else s.watched i :=
  if_neg (by simp [h])

theorem State.swIn_raiseEvent (s : State) {n : Nat} (hn : n < 128) (k : Nat) : (s.raiseEvent n).swIn k = s.swIn k := by
  obtain ⟨hsw, -⟩ := ((Reacted.refl s).raiseEvent n hn).switches
  unfold State.swIn
  rw [hsw]

/-- What taking a transition leaves: the event that may follow it changes no switch input and no time. -/
theorem State.watchTake_spec (s : State) (hi : i < 48) :
    (s.watchTake i).count = s.count ∧ ∀ k, (s.watchTake i).swIn k = (s.watched i).swIn k := by
  by_cases h : (s.swIn i).comp = (s.swIn i).watch
  · rw [State.watchTake_of_same h]
    refine ⟨rfl, fun k => ?_⟩
    by_cases e : i = k
    · subst e
      rw [State.watched, State.swIn_setSwIn_same _ _ _ hi]
      exact congrArg (fun w => { s.swIn i with watch := w }) h.symm
    · exact (s.swIn_setSwIn_other i k _ e).symm
  · rw [State.watchTake_of_change h]
    split
    · exact ⟨((Reacted.refl (s.watched i)).raiseEvent i (by omega)).count, State.swIn_raiseEvent _ (by omega)⟩
    · exact ⟨rfl, fun _ => rfl⟩

end

section
variable {i : Fin 48} {closed : Bool} {s : State}

theorem execWatchTransition_of_stopped (h : s.watchRuns i = false) : execWatchTransition i closed s = .next s :=
  congrArg Host.Outcome.next (if_neg (by simp [h]))

theorem execWatchTransition_of_frozen (hr : s.watchRuns i = true) (hf : (s.swIn i).frozen = true) :
    execWatchTransition i closed s = .next (s.compared i closed) :=
  congrArg Host.Outcome.next ((if_pos hr).trans (if_pos hf))

theorem execWatchTransition_of_following (hr : s.watchRuns i = true) (hf : (s.swIn i).frozen = false) :
    execWatchTransition i closed s = .next ((s.compared i closed).watchTake i) :=
  congrArg Host.Outcome.next ((if_pos hr).trans (if_neg (by simp [hf])))

theorem State.swIn_compared (s : State) (i : Fin 48) (closed : Bool) : (s.compared i closed).swIn i = { s.swIn i with comp := closed } :=
  s.swIn_setSwIn_same i _ i.isLt

theorem State.compared_keeps (s : State) (i : Nat) (closed : Bool) : s.keeps (s.compared i closed) [.swIn i] := s.setSwIn_keeps i _

end

/-- What the end of the freeze makes of a switch input (R222). -/
def SwIn.thaw (x : SwIn) : SwIn := { x with frozen := false, watch := if x.frozen then x.comp else x.watch }

/-- The freeze of an input ends, and its output follows again. -/
def State.thaw (s : State) (i : Nat) : State :=
  if (s.swIn i).frozen then (s.setSwIn i (fun x => { x with frozen := false })).watchTake i else s

theorem State.swIn_thaw_same (s : State) {i : Nat} (hi : i < 48) : (s.thaw i).swIn i = (s.swIn i).thaw := by
  unfold State.thaw SwIn.thaw
  split
  · next hf =>
    obtain ⟨-, hsw⟩ := (s.setSwIn i (fun x => { x with frozen := false })).watchTake_spec hi
    rw [hsw, State.watched, State.swIn_setSwIn_same _ _ _ hi, State.swIn_setSwIn_same _ _ _ hi]
  · next hf => exact congrArg (fun b => { s.swIn i with frozen := b }) (Bool.eq_false_of_not_eq_true hf)

theorem State.swIn_thaw_other (s : State) {i k : Nat} (hi : i < 48) (h : i ≠ k) : (s.thaw i).swIn k = s.swIn k := by
  unfold State.thaw
  split
  · obtain ⟨-, hsw⟩ := (s.setSwIn i (fun x => { x with frozen := false })).watchTake_spec hi
    rw [hsw, State.watched, State.swIn_setSwIn_other _ _ _ _ h, State.swIn_setSwIn_other _ _ _ _ h]
  · rfl

theorem State.count_thaw (s : State) {i : Nat} (hi : i < 48) : (s.thaw i).count = s.count := by
  unfold State.thaw
  split
  · obtain ⟨hcount, -⟩ := (s.setSwIn i (fun x => { x with frozen := false })).watchTake_spec hi
    exact hcount
  · rfl

theorem execWatchFreezeEnd_eq (s : State) : execWatchFreezeEnd s = .next (forEach 48 State.thaw (s.advance (s.frm.edgeAt + 3000))) := rfl

/-- Every frozen output follows again, whatever its transition raises (R222). -/
theorem State.thawAll_spec (s : State) :
    (forEach 48 State.thaw s).count = s.count ∧ ∀ i, i < 48 → (forEach 48 State.thaw s).swIn i = (s.swIn i).thaw :=
  forEach_entry_of (entry := State.swIn) (f := fun _ => SwIn.thaw) (P := fun t => t.count = s.count)
    (fun t _ hi h => (t.count_thaw hi).trans h) (fun t _ hi _ => t.swIn_thaw_same hi) (fun t _ _ hi h => t.swIn_thaw_other hi h) rfl

/-! ### The wake inputs (R225) -/

section
variable {n : Fin 2} {mv : Int} {s : State}

theorem execWakeInputTransition_of_disabled (h : (s.fld F.inpWakecfgEn).testBit n = false) :
    execWakeInputTransition n mv s = .next (s.setPin (.wakeLand n) mv) :=
  congrArg Host.Outcome.next (if_neg (by simp [h]))

theorem execWakeInputTransition_of_enabled (h : (s.fld F.inpWakecfgEn).testBit n = true) :
    execWakeInputTransition n mv s = .next (((s.setPin (.wakeLand n) mv).wakeRead n mv).wakeEvent n (s.wakeIn n).active) :=
  congrArg Host.Outcome.next (if_pos h)

theorem State.wakeRead_keeps (s : State) (n : Nat) (mv : Int) : s.keeps (s.wakeRead n mv) [.wakeIn n] := s.setWakeIn_keeps n _

/-- An enabled wake input that has read its land: its level, and its reading inverted by POL. -/
theorem State.wakeIn_wakeRead (s : State) (n : Fin 2) (mv : Int) :
    ((s.wakeRead n mv).wakeIn n).high = (s.wakeIn n).reads mv ∧
      ((s.wakeRead n mv).wakeIn n).active = xor ((s.wakeIn n).reads mv) ((s.fld F.inpWakecfgPol).testBit n) := by
  unfold State.wakeRead
  rw [State.wakeIn_setWakeIn_same _ _ _ n.isLt]
  exact ⟨rfl, rfl⟩

end

/-- Settles O20: the pulse by `State.swIn_freezeWet`, a transition by the two cases of `State.watchTake`, the end of the freeze by
`State.thawAll_spec`, a wake land by `State.wakeIn_wakeRead`. -/
theorem switchAndWakeInputSteps : Obligations.SwitchAndWakeInputSteps := by
  refine ⟨fun s h => ?_, fun s h => execWettingPulseStart_of_not_on h, fun i b s h => execWatchTransition_of_stopped h,
    fun i b s hr hf hw => ?_, fun i b s hr hf hw => ?_, fun i b s hr hf => ?_, fun s => ?_,
    fun n mv s h => execWakeInputTransition_of_disabled h, fun n mv s h => ?_⟩
  · have hkeeps := s.freezeWet_keeps (s.advance (s.beforeEdge 7500))
    exact ⟨_, execWettingPulseStart_of_on h, hkeeps.2 .count (by simp), fun i hi => s.swIn_freezeWet _ hi,
      State.keeps_trans (s.advance_keeps _) hkeeps⟩
  · have hsame : ((s.compared i b).swIn i).comp = ((s.compared i b).swIn i).watch := by rw [s.swIn_compared, hw]
    exact ⟨_, (execWatchTransition_of_following hr hf).trans (congrArg _ (State.watchTake_of_same hsame)), s.swIn_compared i b,
      s.compared_keeps i b⟩
  · have hchange : ((s.compared i b).swIn i).comp ≠ ((s.compared i b).swIn i).watch := by rw [s.swIn_compared]; exact hw.symm
    refine ⟨(s.compared i b).watched i, (execWatchTransition_of_following hr hf).trans (congrArg _ (State.watchTake_of_change hchange)), ?_,
      State.keeps_trans (s.compared_keeps i b) (State.setSwIn_keeps _ i _)⟩
    rw [State.watched, State.swIn_setSwIn_same _ _ _ i.isLt, s.swIn_compared]
  · exact ⟨_, execWatchTransition_of_frozen hr hf, s.swIn_compared i b, s.compared_keeps i b⟩
  · obtain ⟨hcount, hsw⟩ := (s.advance (s.frm.edgeAt + 3000)).thawAll_spec
    exact ⟨_, execWatchFreezeEnd_eq s, hcount, hsw⟩
  · obtain ⟨hhigh, hactive⟩ := (s.setPin (.wakeLand n) mv).wakeIn_wakeRead n mv
    exact ⟨_, execWakeInputTransition_of_enabled h, hhigh, hactive.trans (by rw [hhigh]; rfl), s.pin_setPin_same _ mv,
      State.keeps_trans (s.setPin_keeps _ mv) (State.wakeRead_keeps _ n mv)⟩

end Sys2Proof.Machine
end
section
/-!
PROOFS. The analog inputs, their bias checks and the sensor supplies (O21).
-/

namespace Sys2Proof.Machine

/-! ### Loops over the analog inputs and the supplies -/

/-- What a change makes of an entry depends on the entry alone. -/
theorem updN_congr {α : Type} {n : Nat} {v : Vector α n} {i : Nat} {f g : α → α} {d : α} (h : f (nth v i d) = g (nth v i d)) :
    updN v i f = updN v i g := by
  unfold updN
  split
  · next hi =>
    simp only [nth, hi, dif_pos] at h
    rw [h]
  · rfl

theorem updN_id {α : Type} {n : Nat} (v : Vector α n) (i : Nat) : updN v i id = v := by
  unfold updN
  split
  · next hi => exact Vector.set_getElem_self hi
  · rfl

theorem State.setAin_congr {s : State} {a : Nat} {f g : AinIn → AinIn} (h : f (s.ainIn a) = g (s.ainIn a)) : s.setAin a f = s.setAin a g := by
  unfold State.setAin
  rw [updN_congr h]

theorem State.setAin_id (s : State) (a : Nat) : s.setAin a id = s := by
  unfold State.setAin
  rw [updN_id]

/-- The state with other records of its analog inputs. -/
def State.withAins (s : State) (l : Vector AinIn 24) : State := { s with inp := { s.inp with ain := l } }

/-- The state with other records of its sensor supplies. -/
def State.withSupplies (s : State) (l : Vector VsIn 4) : State := { s with inp := { s.inp with vs := l } }

/-- A loop over the analog inputs whose turns depend on no analog input but their own changes each input once, and nothing else. -/
theorem forEach_ains {s : State} {turn : State → Nat → State} {f : State → Nat → AinIn → AinIn}
    (hturn : ∀ t a, turn t a = t.setAin a (f t a)) (hf : ∀ l a, f (s.withAins l) a = f s a) :
    (∃ l, forEach 24 turn s = s.withAins l) ∧ ∀ a, a < 24 → (forEach 24 turn s).ainIn a = f s a (s.ainIn a) := by
  refine forEach_entry_of (entry := State.ainIn) (f := f s) (P := fun t => ∃ l, t = s.withAins l) ?_ ?_ ?_ ⟨s.inp.ain, rfl⟩
  · rintro _ a - ⟨l, rfl⟩
    rw [hturn]
    exact ⟨_, rfl⟩
  · rintro _ a ha ⟨l, rfl⟩
    rw [hturn, State.ainIn_setAin_same _ _ _ ha, hf]
  · intro t a k _ h
    rw [hturn, State.ainIn_setAin_other _ _ _ _ h]

/-! ### The analog sample (R226, R227, R238) -/

/-- The full scale of an analog input: 5 V, or its reference. -/
def State.ainFull (s : State) (a : Nat) : Int :=
  if s.fld (F.inpAincfgRatio a) = 0 then 5000 else s.pin (.vsMv (s.fld (F.inpAincfgRatio a) - 1))

/-- The reference of a ratiometric input is off, in limit, or reads no positive voltage. -/
abbrev State.ainRefFails (s : State) (a : Nat) : Prop :=
  s.fld (F.inpAincfgRatio a) ≠ 0 ∧ ((s.vsIn (s.fld (F.inpAincfgRatio a) - 1)).on = false ∨
    60 ≤ s.pin (.vsMa (s.fld (F.inpAincfgRatio a) - 1)) ∨ s.ainFull a ≤ 0)

/-- CODE of an analog input. -/
def State.ainCode (s : State) (a : Nat) : Nat :=
  (max 0 (min 65535 (roundOpen (65535 * s.pin (.ain a)) (s.ainFull a).toNat))).toNat

/-- VAL of an analog input, in mode 2. -/
def State.ainVal (s : State) (a : Nat) : Option Int :=
  if s.fld (F.inpAincfgMode a) = 2 then some (s.linearise (s.fld (F.inpAincfgTab a)) (s.ainCode a)) else none

/-- What the analog sample makes of input `a`. -/
def State.ainTaken (s : State) (a : Nat) (x : AinIn) : AinIn :=
  if s.fld (F.inpAincfgMode a) = 0 then { x with sample := none, ovr := false, rfail := false }
  else if s.ainRefFails a then { x with sample := some (s.pin (.ain a), none, none), ovr := false, rfail := true }
  else { x with
    sample := some (s.pin (.ain a), some (s.ainCode a), s.ainVal a), ovr := decide (s.ainFull a < s.pin (.ain a)), rfail := false }

theorem State.sampleAin_eq (s : State) (a : Nat) : s.sampleAin a = s.setAin a (s.ainTaken a) := by
  by_cases hm : s.fld (F.inpAincfgMode a) = 0
  · exact (if_pos hm).trans (congrArg (s.setAin a) (funext fun x => (if_pos hm).symm))
  · by_cases h : s.ainRefFails a
    · exact (if_neg hm).trans ((if_pos h).trans (congrArg (s.setAin a) (funext fun x => ((if_neg hm).trans (if_pos h)).symm)))
    · exact (if_neg hm).trans ((if_neg h).trans (congrArg (s.setAin a) (funext fun x => ((if_neg hm).trans (if_neg h)).symm)))

section
variable {s : State} {a : Nat} {x : AinIn}

theorem State.ainTaken_of_unused (h : s.fld (F.inpAincfgMode a) = 0) : (s.ainTaken a x).sample = none := by
  rw [State.ainTaken, if_pos h]

/-- The sample of an input that is in use: MV alone where its reference fails, else CODE and VAL beside it. -/
theorem State.ainTaken_of_used {y : AinIn} (hy : y = s.ainTaken a x) (hm : s.fld (F.inpAincfgMode a) ≠ 0) :
    if s.ainRefFails a then y.sample = some (s.pin (.ain a), none, none) ∧ y.rfail = true
    else y.sample = some (s.pin (.ain a), some (s.ainCode a), s.ainVal a) ∧ y.rfail = false ∧
      y.ovr = decide (s.ainFull a < s.pin (.ain a)) := by
  subst hy
  rw [State.ainTaken, if_neg hm]
  by_cases h : s.ainRefFails a
  · rw [if_pos h, if_pos h]
    exact ⟨rfl, rfl⟩
  · rw [if_neg h, if_neg h]
    exact ⟨rfl, rfl, rfl⟩

end

/-- Of the supplies' records a sample uses alone which are on. -/
theorem State.ainTaken_withSupplies {s : State} {l : Vector VsIn 4} (h : ∀ v, (nth l v {}).on = (s.vsIn v).on) (a : Nat) :
    (s.withSupplies l).ainTaken a = s.ainTaken a := by
  have hfails : (s.withSupplies l).ainRefFails a ↔ s.ainRefFails a := and_congr_right fun _ => or_congr_left (by rw [← h]; rfl)
  funext x
  unfold State.ainTaken
  simp only [hfails]
  rfl

/-- What the analog sample makes of sensor supply `v`. -/
def State.supplyRead (s : State) (v : Nat) (x : VsIn) : VsIn := { x with mv := s.pin (.vsMv v), ma := s.pin (.vsMa v) }

/-- The sensor supplies are sampled. -/
def State.readSensorSupplies (s : State) : State :=
  forEach 4 (fun t v => t.setVs v (fun x => { x with mv := t.pin (.vsMv v), ma := t.pin (.vsMa v) })) s

theorem State.readSensorSupplies_spec (s : State) : ∃ l, s.readSensorSupplies = s.withSupplies l ∧
    (∀ v, v < 4 → nth l v {} = s.supplyRead v (s.vsIn v)) ∧ ∀ v, (nth l v {}).on = (s.vsIn v).on := by
  obtain ⟨⟨l, hl⟩, hread⟩ := forEach_entry_of (n := 4) (entry := State.vsIn) (turn := fun t v => t.setVs v (t.supplyRead v))
    (f := s.supplyRead) (P := fun t => ∃ l, t = s.withSupplies l) (by rintro _ v - ⟨l, rfl⟩; exact ⟨_, rfl⟩)
    (by rintro _ v hv ⟨l, rfl⟩; exact State.vsIn_setVs_same _ _ _ hv) (fun t v k _ h => t.vsIn_setVs_other v k _ h) ⟨s.inp.vs, rfl⟩
  have hentry : ∀ v, v < 4 → nth l v {} = s.supplyRead v (s.vsIn v) := fun v hv => (congrArg (State.vsIn · v) hl).symm.trans (hread v hv)
  refine ⟨l, hl, hentry, fun v => ?_⟩
  by_cases hv : v < 4
  · rw [hentry v hv]; rfl
  · simp only [State.vsIn, nth, hv, dif_neg, not_false_eq_true]

/-- The state in which the supplies and the analog inputs have been sampled. -/
def State.ainsSampled (s : State) : State :=
  let t := forEach 24 State.sampleAin s.readSensorSupplies
  { t with inp := { t.inp with sampled := true } }

theorem State.ainsSampled_spec (s : State) : ∃ vs ain, s.ainsSampled = { s with inp := { s.inp with vs := vs, ain := ain, sampled := true } } ∧
    (∀ v, v < 4 → nth vs v {} = s.supplyRead v (s.vsIn v)) ∧ ∀ a, a < 24 → nth ain a {} = s.ainTaken a (s.ainIn a) := by
  obtain ⟨vs, hvs, hread, hon⟩ := s.readSensorSupplies_spec
  obtain ⟨⟨ain, hain⟩, htaken⟩ := forEach_ains (s := s.withSupplies vs) State.sampleAin_eq fun _ _ => rfl
  refine ⟨vs, ain, ?_, hread, fun a ha => ?_⟩
  · unfold State.ainsSampled
    rw [hvs, hain]
    rfl
  · rw [← State.ainTaken_withSupplies hon]
    exact (congrArg (State.ainIn · a) hain).symm.trans (htaken a ha)

section
variable {w : World} {s : State}

theorem execAinSample_of_on (h : s.domOn domInp = true) :
    execAinSample w s = .next ((s.observe w).advance (s.slotAt (s.seff - 2))).ainsSampled := by
  simp only [execAinSample, if_pos h, State.ainsSampled, State.readSensorSupplies]

theorem execAinSample_of_not_on (h : s.domOn domInp = false) :
    execAinSample w s = .next ((s.observe w).advance (s.slotAt (s.seff - 2))) :=
  congrArg Host.Outcome.next (if_neg (by simp [h]))

end

/-! ### The bias check (R229) -/

/-- The results of a bias check from the voltages `v` of the sample and `b` of the biased land, with the limits of the input. -/
def AinIn.biasChecked (x : AinIn) (v b : Int) (zlo zhi : Nat) : AinIn :=
  let dz := max 0 (b - v) * 20
  { x with
    chkd := true
    revs := decide (v < -300) || decide (b < -300)
    zerr := decide (dz < 100 * (zlo : Int)) || decide (1000 * (zhi : Int) < dz)
    zb := min 0xFFFF (quant dz 100).toNat }

/-- What the bias check makes of input `a`: its results where it is due and the input has a sample, else nothing. -/
def State.biasTaken (s : State) (a : Nat) (x : AinIn) : AinIn :=
  match s.biasDue a, x.sample with
  | true, some (v, _) => x.biasChecked v (s.pin (.ain a)) (s.fld (F.inpAincfgZlo a)) (s.fld (F.inpAincfgZhi a))
  | _, _ => x

theorem State.biasTaken_of_none {s : State} {a : Nat} {x : AinIn} (h : s.biasDue a = false ∨ x.sample = none) : s.biasTaken a x = x := by
  unfold State.biasTaken
  rcases h with h | h
  · rw [h]
  · rw [h]
    cases s.biasDue a <;> rfl

theorem State.biasTaken_of_due {s : State} {a : Nat} {x : AinIn} {v : Int} {q : Option Nat × Option Int} (h : s.biasDue a = true)
    (hx : x.sample = some (v, q)) : s.biasTaken a x = x.biasChecked v (s.pin (.ain a)) (s.fld (F.inpAincfgZlo a)) (s.fld (F.inpAincfgZhi a)) := by
  unfold State.biasTaken
  rw [h, hx]

theorem State.biasCheck_eq (s : State) (a : Nat) : s.biasCheck a = s.setAin a (s.biasTaken a) := by
  unfold State.biasCheck
  split
  · next v _ _ hdue hsample => exact State.setAin_congr (State.biasTaken_of_due hdue hsample).symm
  · next hnone =>
    refine (s.setAin_id a).symm.trans (State.setAin_congr (State.biasTaken_of_none ?_).symm)
    cases hdue : s.biasDue a with
    | false => exact .inl rfl
    | true =>
      cases hsample : (s.ainIn a).sample with
      | none => exact .inr hsample
      | some y => exact absurd hsample (hnone y.1 y.2.1 y.2.2 hdue)

section
variable {w : World} {s : State}

theorem execBiasCheckSample_of_sampled (h : s.domOn domInp = true) (hs : s.inp.sampled = true) :
    execBiasCheckSample w s = .next (forEach 24 State.biasCheck ((s.observe w).advance (s.slotAt (s.seff - 1)))) :=
  congrArg Host.Outcome.next (if_pos (by simp [h, hs]))

theorem execBiasCheckSample_of_none (h : s.domOn domInp = false ∨ s.inp.sampled = false) :
    execBiasCheckSample w s = .next ((s.observe w).advance (s.slotAt (s.seff - 1))) :=
  congrArg Host.Outcome.next (if_neg (by rcases h with h | h <;> simp [h]))

end

/-! ### The sensor supplies (R231) -/

section
variable {v : Fin 4} {mv : Int} {s : State}

theorem execVsensOvercurrent_of_low (hon : (s.vsIn v).on = true) (hl : 8 ≤ (s.vsIn v).low) :
    execVsensOvercurrent v s =
      .next (s.setVs v (fun x => { x with on := false, oc := true, low := 0, rose := x.rose || !x.oc })) :=
  congrArg Host.Outcome.next (if_pos (by simp [hon, hl]))

theorem execVsensOvercurrent_of_not_low (h : (s.vsIn v).on = false ∨ (s.vsIn v).low < 8) : execVsensOvercurrent v s = .next s :=
  congrArg Host.Outcome.next (if_neg (by rcases h with h | h <;> simp [h]))

theorem execVsensExternalDrive_of_beyond (h : 5600 < mv ∨ mv < -300) :
    execVsensExternalDrive v mv s = .next ((s.setPin (.vsMv v) mv).setVs v (fun x => { x with
      on := false, ext := true, low := 0, rose := x.rose || !x.ext, extF := x.extF || !x.ext })) :=
  congrArg Host.Outcome.next (if_pos h)

theorem execVsensExternalDrive_of_within (hlo : -300 ≤ mv) (hhi : mv ≤ 5600) :
    execVsensExternalDrive v mv s = .next (s.setPin (.vsMv v) mv) :=
  congrArg Host.Outcome.next (if_neg (by omega))

end

/-- Settles O21: the analog sample by `State.ainsSampled_spec`, the bias check by `State.biasCheck_eq`, a supply's faults by the `exec`
lemmas above. -/
theorem analogInputSteps : Obligations.AnalogInputSteps := by
  refine ⟨fun w s h => ?_, fun w s h => execAinSample_of_not_on h, fun w s h hs => ?_, fun w s h => execBiasCheckSample_of_none h,
    fun v s => ⟨fun hon hl => ?_, fun h => execVsensOvercurrent_of_not_low h⟩,
    fun v mv s => ⟨fun h => ?_, fun hlo hhi => execVsensExternalDrive_of_within hlo hhi⟩⟩
  · obtain ⟨pins, hobs⟩ := s.observe_eq w
    obtain ⟨vs, ain, hend, hvs, hain⟩ := ((s.observe w).advance (s.slotAt (s.seff - 2))).ainsSampled_spec
    have hexec := execAinSample_of_on (w := w) h
    rw [hend, hobs] at hexec
    rw [hobs] at hvs hain
    refine ⟨_, hexec, rfl, rfl, fun v hv => ?_, fun a ha hm => ?_, fun a ha hm => ?_⟩
    · show (nth vs v {}).mv = _ ∧ (nth vs v {}).ma = _ ∧ (nth vs v {}).on = _
      rw [hvs v hv]
      exact ⟨rfl, rfl, rfl⟩
    · exact (congrArg AinIn.sample (hain a ha)).trans (State.ainTaken_of_unused hm)
    · exact State.ainTaken_of_used (hain a ha) hm
  · obtain ⟨pins, hobs⟩ := s.observe_eq w
    obtain ⟨⟨ain, hend⟩, hain⟩ := forEach_ains (s := (s.observe w).advance (s.slotAt (s.seff - 1))) State.biasCheck_eq fun _ _ => rfl
    have hexec := execBiasCheckSample_of_sampled (w := w) h hs
    rw [hend, hobs] at hexec
    rw [hend, hobs] at hain
    refine ⟨_, hexec, rfl, fun a v c l ha hdue hsample => ?_, fun a ha hnone => ?_⟩
    · rw [(hain a ha).trans (State.biasTaken_of_due hdue hsample)]
      exact ⟨rfl, rfl, rfl, rfl⟩
    · exact (hain a ha).trans (State.biasTaken_of_none hnone)
  · exact ⟨_, execVsensOvercurrent_of_low hon hl, s.vsIn_setVs_same v _ v.isLt, s.setVs_keeps v _⟩
  · exact ⟨_, execVsensExternalDrive_of_beyond h, State.vsIn_setVs_same _ v _ v.isLt, s.pin_setPin_same _ mv,
      State.keeps_trans (s.setPin_keeps _ mv) (State.setVs_keeps _ v _)⟩

end Sys2Proof.Machine
end
section
/-!
PROOFS. The Winnow: what the safe image leaves of a source that has set, and the reaction of each class (O23).
-/

namespace Sys2Proof.Machine

/-! ### The cores stop (R248) -/

/-- A core that class F has stopped: its store buffer is empty. -/
def Core.stoppedF (k : Core) : Core := { k with halt := { k.halt with f := true }, buf := [] }

theorem State.stopCores_eq (s : State) :
    s.stopCores = { (s.setCore 0 Core.stoppedF).setCore 1 Core.stoppedF with win := { s.win with fhalt := true } } := rfl

theorem State.cr_stopCores (s : State) (c : Fin 2) : s.stopCores.cr c = (s.cr c).stoppedF := by
  rw [State.stopCores_eq]
  show ((s.setCore 0 Core.stoppedF).setCore 1 Core.stoppedF).cr c = _
  match c with
  | 0 => rw [State.cr_setCore_other _ _ _ _ (by decide), State.cr_setCore_same]
  | 1 => rw [State.cr_setCore_same, State.cr_setCore_other _ _ _ _ (by decide)]

/-! ### The safe image leaves a set source alone -/

/-- Source `n` has set its sticky bit and the safe image is driven: what every action of the safe image keeps. -/
structure Latched (n : Nat) (t : State) : Prop where
  source : n < 192
  canonical : t.canonical
  safe : t.win.safe = true
  sticky : t.sticky n = true

section
variable {n : Nat} {t u : State}

/-- A change of neither the two stores nor the safe image's flag. -/
theorem Latched.of_eq (h : Latched n t) (hregs : u.regs = t.regs := by rfl) (hmem : u.mem = t.mem := by rfl)
    (hsafe : u.win.safe = t.win.safe := by rfl) : Latched n u := by
  refine ⟨h.source, ?_, hsafe.trans h.safe, (State.sticky_of_reg ?_).trans h.sticky⟩
  · unfold State.canonical
    rw [hregs, hmem]
    exact h.canonical
  · unfold State.reg
    rw [hregs]

/-- A field outside the Winnow. -/
theorem Latched.setFld (h : Latched n t) (f : Fld) (v : Nat) (hf : f.addr < 0x40050000 ∨ 0x40060000 ≤ f.addr) : Latched n (t.setFld f v) := by
  have hn := h.source
  exact ⟨hn, canonical_lasting.reg _ _ _ h.canonical, h.safe,
    (State.sticky_of_reg (State.reg_setReg_other _ _ _ _ (by simp only [F.winStickyStk]; omega))).trans h.sticky⟩

theorem Latched.putSticky (h : Latched n t) (k : Nat) : Latched n (t.putSticky k true) :=
  ⟨h.source, State.putSticky_stable canonical_lasting.toStable _ _ h.canonical, h.safe, by simp [State.sticky_putSticky h.canonical, h.sticky]⟩

theorem Latched.ite {p : Prop} [Decidable p] (h : Latched n t) (k : Latched n u) : Latched n (if p then t else u) := st_ite h k

theorem Latched.demand (h : Latched n t) (d : Nat) : Latched n (t.demand d) := by
  unfold State.demand
  dsimp only
  refine .ite h (.ite h.of_eq (.ite ?_ (Latched.of_eq (t := State.setFld _ (F.grnBpwrState (d - 16)) 0) ?_)))
  · exact Latched.setFld h.of_eq _ _ (by simp only [F.pwrDctlReq]; omega)
  · exact Latched.setFld h.of_eq _ _ (by simp only [F.grnBpwrState]; omega)

theorem Latched.pendEvent (h : Latched n t) {k : Nat} (hk : k < 128) : Latched n (t.pendEvent k) := by
  unfold State.pendEvent
  exact .ite h (.ite (h.setFld _ _ (by simp only [F.frmEvmrgMerged]; omega)) (Latched.demand h.of_eq _))

/-! Of the switching block, the Press, the sinks and the sensor supplies the safe image moves outputs and demands domains. -/

theorem Latched.dgOn (h : Latched n t) (o : Nat) : Latched n (t.dgOn o) := st_foldl (fun _ _ k => k.of_eq) h

theorem Latched.safeCh (h : Latched n t) (c : Nat) : Latched n (t.safeCh c) := by
  unfold State.safeCh
  dsimp only
  refine .ite h ?_
  split
  · exact .ite (.ite (.ite (Latched.dgOn h.of_eq _) h) (h.demand _)) h
  · exact h
  · exact .ite h.of_eq h

theorem Latched.takeMode (h : Latched n t) (o : Nat) (m : Nat × Nat) : Latched n (t.takeMode o m) := .ite (Latched.dgOn h.of_eq _) h.of_eq

theorem Latched.safeHb (h : Latched n t) (b : Nat) : Latched n (t.safeHb b) := by
  have hnoted : Latched n ((t.members (48 + b)).foldl (fun u k => u.hbNote (k - 48)) t) := st_foldl (fun _ _ k => k.of_eq) h
  have hmode := hnoted.takeMode (48 + b) (t.effHb b)
  exact .ite h (.ite h (.ite (.ite hmode.of_eq hmode) (.ite (.ite (.ite (Latched.dgOn hmode.of_eq _) hmode) (hmode.demand _)) hmode)))

theorem Latched.safePl (h : Latched n t) (c : Nat) : Latched n (t.safePl c) := by
  unfold State.safePl
  dsimp only
  refine .ite h ?_
  split
  · exact .ite h.of_eq h
  · exact h
  · exact .ite h.of_eq h.of_eq

theorem Latched.safeLed (h : Latched n t) (k : Nat) : Latched n (t.safeLed k) := by
  unfold State.safeLed
  dsimp only
  refine .ite h ?_
  split
  · exact .ite (st_foldl (fun _ _ k => .ite k.of_eq k) h) (h.demand _)
  · exact h
  · exact st_foldl (fun _ _ k => .ite k.of_eq k) h

theorem Latched.moveVs (h : Latched n t) (v : Nat) : Latched n (t.moveVs v) :=
  .ite (.ite (.ite h h.of_eq) (Latched.of_eq (.ite (h.demand _) h))) h.of_eq

theorem Latched.stopCores (h : Latched n t) : Latched n t.stopCores := by
  rw [State.stopCores_eq]
  exact h.of_eq

theorem Latched.warnPulse (h : Latched n t) : Latched n t.warnPulse := h.of_eq

/-- Source 31, which a search that ends on a locked-off core sets, is a further source (R437). -/
theorem Latched.lockUnderSafe (h : Latched n t) : Latched n t.lockUnderSafe := by
  have hacc : Latched n (t.setBit F.pwrStatLockacc) := h.setFld _ _ (by decide)
  have hset := hacc.putSticky 31
  have hend : ∀ {u : State}, Latched n u → ∀ q : Bool, Latched n (if q then u.pendEvent 77 else u) :=
    fun k _ => .ite (k.pendEvent (by decide)) k
  unfold State.lockUnderSafe
  dsimp only
  refine .ite hacc (hend ?_ _)
  split
  · exact hset.warnPulse
  · exact hset.stopCores
  · exact hset

theorem Latched.safeAcc (h : Latched n t) : Latched n t.safeAcc := by
  have hcause : ∀ {u : State} (v : Nat), Latched n u → Latched n (u.setFld F.accEvcCause v) := fun v k => k.setFld _ v (by decide)
  unfold State.safeAcc
  dsimp only
  exact .ite h (.ite (.ite (hcause _ h.of_eq).lockUnderSafe ((hcause _ h.of_eq).pendEvent (by decide))) h.of_eq)

theorem Latched.safeAct (h : Latched n t) : Latched n t.safeAct := by
  have hsw : Latched n t.safeSw := st_forEach (fun _ b k => k.safeHb b) (st_forEach (fun _ c k => k.safeCh c) h)
  have hprs : Latched n t.safeSw.safePrs := st_forEach (fun _ _ k => k.of_eq) (st_forEach (fun _ c k => k.safePl c) hsw)
  have hleds : Latched n t.safeSw.safePrs.safeLeds := st_forEach (fun _ k h => h.safeLed k) hprs
  exact (st_forEach (fun _ v k => k.moveVs v) hleds : Latched n t.safeSw.safePrs.safeLeds.safeInp).safeAcc

/-- The safe image is driven, and a source that had set stays set. -/
theorem Latched.driveSafe (hn : n < 192) (ht : t.canonical) (hst : t.sticky n = true) : Latched n t.driveSafe := by
  unfold State.driveSafe
  split
  · next hsafe => exact ⟨hn, ht, hsafe, hst⟩
  · exact Latched.safeAct ⟨hn, ht, rfl, hst⟩

end

/-! ### The reaction of each class (R241, R245 to R248) -/

section
variable {s : State} {n : Nat}

theorem State.occur_of_absent (h : s.feat (sourceFeat n) = false) : s.occur n = s := if_pos (by simp [h])

theorem State.occur_of_sticky (h : s.sticky n = true) : s.occur n = s := if_pos (by simp [h])

theorem State.occur_of_new (hf : s.feat (sourceFeat n) = true) (hst : s.sticky n = false) :
    s.occur n = (s.putSticky n true).classReact (s.classOf n) := if_neg (by simp [hf, hst])

/-- Class S and class F drive the safe image, under which the source stays set. -/
theorem State.classReact_latched (hn : n < 192) (hs : s.canonical) (hst : s.sticky n = true) {c : Nat} (hc : 2 ≤ c) :
    Latched n (s.classReact c) := by
  have hdriven := Latched.driveSafe hn hs hst
  match c, hc with
  | 2, _ => exact hdriven
  | _ + 3, _ => exact hdriven.stopCores

/-- No reaction clears the sticky bit that it answers. -/
theorem State.sticky_classReact (hn : n < 192) (hs : s.canonical) (hst : s.sticky n = true) (c : Nat) : (s.classReact c).sticky n = true := by
  match c with
  | 0 => exact hst
  | 1 => exact hst
  | _ + 2 => exact (State.classReact_latched hn hs hst (Nat.le_add_left 2 _)).sticky

end

/-- Settles O23: a source that newly sets is `State.classReact` after its sticky bit; the safe image keeps both by `Latched`. -/
theorem sourceReactsByClass : Obligations.SourceReactsByClass := by
  intro n s hn hs
  refine ⟨State.occur_of_absent, State.occur_of_sticky, fun hf hst => ?_⟩
  have hcanonical : (s.putSticky n true).canonical := State.putSticky_stable canonical_lasting.toStable n true hs
  have hset : (s.putSticky n true).sticky n = true := by simp [State.sticky_putSticky hs]
  rw [State.occur_of_new hf hst]
  refine ⟨State.sticky_classReact hn hcanonical hset _, fun hW => ?_, fun hSF => (State.classReact_latched hn hcanonical hset hSF).safe,
    fun hF => ?_, fun hN => ?_⟩
  · rw [hW]; rfl
  · rw [hF]
    exact ⟨rfl, fun c => State.cr_stopCores _ c ▸ ⟨rfl, rfl⟩⟩
  · rw [hN]
    exact s.setFld_keeps _ _

end Sys2Proof.Machine
end
section
/-!
PROOFS. The commands of the Winnow: clearing, forcing, the software sources, the lock and the end of a warn pulse (O22).
-/

namespace Sys2Proof.Machine

/-! ### Writing the bits of one STICKY word -/

theorem State.sticky_putSticky_eq {s : State} (hs : s.canonical) (n k : Nat) (b : Bool) :
    (s.putSticky n b).sticky k = if k = n then b else s.sticky k := by
  by_cases hw : k / 32 = n / 32
  · have hold : s.fld (F.winStickyStk (n / 32)) < 2 ^ 32 := getBits_lt _ _ _
    unfold State.sticky State.putSticky
    rw [hw, show (State.setFld s (F.winStickyStk (n / 32)) _).fld (F.winStickyStk (n / 32)) = _ from State.fld_setFld_word hs (BitVec.isLt _),
      testBit_setBits _ _ _ _ _ (by omega), BitVec.toNat_ofNat, Nat.mod_eq_of_lt hold]
    by_cases hb : k = n
    · subst hb
      cases b <;> simp [b2n]
    · rw [if_neg (by omega), if_neg hb]
  · rw [if_neg (fun e => hw (by rw [e]))]
    exact State.sticky_of_reg (State.reg_setReg_other _ _ _ _ (by simp only [F.winStickyStk]; omega))

/-- Sticky bit `n` of `t` becomes `b` in `u`: it is written, or it was so already and nothing is written. -/
def State.stickyBecomes (t u : State) (n : Nat) (b : Bool) : Prop := (u = t ∧ t.sticky n = b) ∨ u = t.putSticky n b

section
variable {t u : State} {n : Nat} {b : Bool}

theorem State.canonical_of_stickyBecomes (ht : t.canonical) (h : t.stickyBecomes u n b) : u.canonical := by
  rcases h with ⟨rfl, -⟩ | rfl
  · exact ht
  · exact State.putSticky_stable canonical_lasting.toStable _ _ ht

theorem State.sticky_of_stickyBecomes (ht : t.canonical) (h : t.stickyBecomes u n b) (k : Nat) :
    u.sticky k = if k = n then b else t.sticky k := by
  rcases h with ⟨rfl, hb⟩ | rfl
  · split
    · next hk => rw [hk, hb]
    · rfl
  · exact State.sticky_putSticky_eq ht n k b

theorem State.keeps_of_stickyBecomes (h : t.stickyBecomes u n b) : t.keeps u [.reg (F.winStickyStk (n / 32)).addr] := by
  rcases h with ⟨rfl, -⟩ | rfl
  · exact State.keeps_refl _ _
  · exact State.setFld_keeps _ _ _

/-- A source of class N whose class raises no event sets its sticky bit where its feature is present, and does no more. -/
theorem State.raiseSource_stickyBecomes (q : t.quiet) (hn : n < 192) (hfixed : fixedSource n = false) :
    t.stickyBecomes (t.raiseSource n) n (t.sticky n || t.feat (sourceFeat n)) := by
  rw [State.raiseSource_of_quiet q hn hfixed]
  unfold State.stickyBecomes
  cases hst : t.sticky n <;> cases hf : t.feat (sourceFeat n) <;> simp

end

section
variable {s t : State} {m : Nat}

/-- A change of one STICKY word alone is one of no class. -/
theorem State.classOf_of_sticky (hm : m < 6) (h : s.keeps t [.reg (F.winStickyStk m).addr]) (n : Nat) : t.classOf n = s.classOf n := by
  have hreg : t.reg (F.winClassCls (n / 16)).addr = s.reg (F.winClassCls (n / 16)).addr :=
    h.2 (.reg (F.winClassCls (n / 16)).addr) (by simp only [F.winClassCls, F.winStickyStk, List.mem_singleton, Part.reg.injEq]; omega)
  unfold State.classOf State.fld
  rw [hreg]

theorem State.quiet_of_sticky (hm : m < 6) (h : s.keeps t [.reg (F.winStickyStk m).addr]) (q : s.quiet) : t.quiet := by
  obtain ⟨hclass, heven⟩ := q
  have hreg : t.reg F.winCtlEven.addr = s.reg F.winCtlEven.addr :=
    h.2 (.reg F.winCtlEven.addr) (by simp only [F.winCtlEven, F.winStickyStk, List.mem_singleton, Part.reg.injEq]; omega)
  refine ⟨fun n hn hfixed => (State.classOf_of_sticky hm h n).trans (hclass n hn hfixed), ?_⟩
  unfold State.fld
  rw [hreg]
  exact heven

theorem State.feat_of_sticky (h : s.keeps t [.reg (F.winStickyStk m).addr]) (k : Nat) : t.feat k = s.feat k := by
  have hhst : t.hst = s.hst := h.2 .hst (by simp)
  unfold State.feat
  rw [hhst]

/-- A loop each of whose turns gives the next bit of one STICKY word, from `lo` on, its value: the bits have their values after it and
nothing else changes. A turn may count on the states before it and on its own bit as it was. -/
theorem State.forEach_sticky (hs : s.canonical) {lo k : Nat} (hlo : 32 * m ≤ lo) (hhi : lo + k ≤ 32 * m + 32) (v : Nat → Bool)
    (turn : State → Nat → State)
    (hturn : ∀ b t, b < k → s.keeps t [.reg (F.winStickyStk m).addr] → t.sticky (lo + b) = s.sticky (lo + b) →
      t.stickyBecomes (turn t b) (lo + b) (v b)) :
    (∀ b, b < k → (forEach k turn s).sticky (lo + b) = v b) ∧ s.keeps (forEach k turn s) [.reg (F.winStickyStk m).addr] := by
  have hinv : (forEach k turn s).canonical ∧ s.keeps (forEach k turn s) [.reg (F.winStickyStk m).addr] ∧
      ∀ b, b < k → (forEach k turn s).sticky (lo + b) = if b < k then v b else s.sticky (lo + b) := by
    refine forEach_induct (Q := fun i t => t.canonical ∧ s.keeps t [.reg (F.winStickyStk m).addr] ∧
      ∀ b, b < k → t.sticky (lo + b) = if b < i then v b else s.sticky (lo + b)) ⟨hs, s.keeps_refl _, fun _ _ => rfl⟩ ?_
    rintro i t hi ⟨ht, hkeeps, hbits⟩
    have hset := hturn i t hi hkeeps ((hbits i hi).trans (if_neg (Nat.lt_irrefl i)))
    have hword := State.keeps_of_stickyBecomes hset
    rw [show (lo + i) / 32 = m by omega] at hword
    refine ⟨State.canonical_of_stickyBecomes ht hset, State.keeps_trans hkeeps hword, fun b hb => ?_⟩
    rw [State.sticky_of_stickyBecomes ht hset]
    by_cases hbi : b = i
    · simp [hbi]
    · rw [if_neg (by omega), hbits b hb]
      simp only [show b < i + 1 ↔ b < i by omega]
  obtain ⟨-, hkeeps, hbits⟩ := hinv
  exact ⟨fun b hb => (hbits b hb).trans (if_pos hb), hkeeps⟩

end

/-! ### The three stores to sources (R257 to R260) -/

section
variable {s : State} (hs : s.canonical)
include hs

theorem State.stickyClear_spec (m : Fin 6) (w : Word) :
    (∀ b, b < 32 → (s.stickyClear m w).sticky (32 * m + b) =
      (s.sticky (32 * m + b) && (!w.getLsbD b || s.classOf (32 * m + b) == 3))) ∧
    s.keeps (s.stickyClear m w) [.reg (F.winStickyStk m).addr] := by
  refine State.forEach_sticky hs (Nat.le_refl _) (Nat.le_refl _)
    (fun b => s.sticky (32 * m + b) && (!w.getLsbD b || s.classOf (32 * m + b) == 3)) _ fun b t _ hkeeps hbit => ?_
  rw [State.classOf_of_sticky m.isLt hkeeps]
  split
  · next hc =>
    obtain ⟨hw, hclass⟩ := hc
    exact .inr (by simp [hw, beq_eq_false_iff_ne.mpr hclass])
  · next hc =>
    have hkept : (!w.getLsbD b || s.classOf (32 * m + b) == 3) = true := by simpa [imp_iff_not_or] using hc
    exact .inl ⟨rfl, by rw [hkept, Bool.and_true, hbit]⟩

theorem State.sourceForce_spec (q : s.quiet) (m : Fin 6) (w : Word)
    (hfixed : ∀ b, b < 32 → w.getLsbD b = true → fixedSource (32 * m + b) = false) :
    (∀ b, b < 32 → (s.sourceForce m w).sticky (32 * m + b) =
      (s.sticky (32 * m + b) || (w.getLsbD b && s.feat (sourceFeat (32 * m + b))))) ∧
    s.keeps (s.sourceForce m w) [.reg (F.winStickyStk m).addr] := by
  refine State.forEach_sticky hs (Nat.le_refl _) (Nat.le_refl _)
    (fun b => s.sticky (32 * m + b) || (w.getLsbD b && s.feat (sourceFeat (32 * m + b)))) _ fun b t hb hkeeps hbit => ?_
  cases hw : w.getLsbD b with
  | false => exact .inl ⟨rfl, by simp [hbit]⟩
  | true =>
    have hn : 32 * m.val + b < 192 := by omega
    have hquiet := State.quiet_of_sticky m.isLt hkeeps q
    have hclass : t.classOf (32 * m + b) = 0 := hquiet.1 _ hn (hfixed b hb hw)
    rw [hclass, ← hbit, ← State.feat_of_sticky hkeeps]
    exact State.raiseSource_stickyBecomes hquiet hn (hfixed b hb hw)

theorem State.swset_spec (q : s.quiet) (hf : s.feat 0 = true) (w : Word) :
    (∀ b, b < 12 → (s.swset w).sticky (180 + b) = (s.sticky (180 + b) || w.getLsbD b)) ∧
    s.keeps (s.swset w) [.reg (F.winStickyStk 5).addr] := by
  refine State.forEach_sticky hs (by decide) (by decide) (fun b => s.sticky (180 + b) || w.getLsbD b) _ fun b t hb hkeeps hbit => ?_
  rw [← hbit]
  cases hw : w.getLsbD b with
  | false => exact .inl ⟨rfl, by simp⟩
  | true =>
    have hfixed : fixedSource (180 + b) = false := by simp [fixedSource]; omega
    have hfeat : t.feat (sourceFeat (180 + b)) = true := by
      have hmandatory : ∀ b, b < 12 → sourceFeat (180 + b) = 0 := by decide
      rw [hmandatory b hb, State.feat_of_sticky hkeeps, hf]
    have hset := State.raiseSource_stickyBecomes (State.quiet_of_sticky (by decide) hkeeps q) (by omega) hfixed
    rw [hfeat] at hset
    exact hset

end

/-! ### Where a store to the Winnow acts (R257, R248, R425) -/

section
variable {s : State} {i : DipAccess} {job : Bool} {f : State → State}

theorem State.load_of_dip (h : s.inDip = true) : s.load i f = s.stall i := if_pos h

theorem State.load_of_no_dip (h : s.inDip = false) : s.load i f = f s := if_neg (by simp [h])

theorem State.winStore_of_off (hd : s.inDip = false) (h : s.storesOff = true) : s.load i (·.winStore job f) = s :=
  (State.load_of_no_dip hd).trans (if_pos h)

theorem State.winStore_of_job (h : s.storesOff = false) : s.load i (·.winStore true f) = s.setBit F.winStatPrivrej :=
  (State.load_of_no_dip (State.inDip_of_stores h)).trans (if_neg (by simp [h]))

theorem State.winStore_of_sup (h : s.storesOff = false) : s.load i (·.winStore false f) = f s :=
  (State.load_of_no_dip (State.inDip_of_stores h)).trans (if_neg (by simp [h]))

end

/-! ### The end of a warn pulse (R246) -/

theorem State.win_keeps (s : State) (w : Winnow) : s.keeps { s with win := w } [.win] := by
  refine ⟨rfl, fun p hp => ?_⟩
  have h := s.same_refl p
  cases p with
  | win => exact absurd (by simp) hp
  | _ => exact h

theorem execWarnPulseEnd_of_pulse {s : State} {e : Nat} (h : s.win.warnEnd = some e) :
    execWarnPulseEnd s = .next { s.advance e with win := { s.win with warnEnd := none } } := by
  unfold execWarnPulseEnd
  rw [h]
  rfl

theorem execWarnPulseEnd_of_none {s : State} (h : s.win.warnEnd = none) : execWarnPulseEnd s = .next s := by
  unfold execWarnPulseEnd
  rw [h]

/-- Settles O22: the three stores to sources by `State.forEach_sticky`, where a store acts by the lemmas of `State.winStore`. -/
theorem winnowCommands : Obligations.WinnowCommands := by
  refine ⟨fun m w s hs h => ?_, fun m w s h => ?_, fun w s h => ?_, fun s hs h => ?_,
    fun m w job s => ⟨fun hd h => ?_, fun hd => ?_, fun h => ?_⟩, fun s => ⟨fun e he => ?_, fun hnone => execWarnPulseEnd_of_none hnone⟩⟩
  · exact ⟨_, congrArg Host.Outcome.next (State.winStore_of_sup h), State.stickyClear_spec hs m w⟩
  · have hexec : exec (.sourceForce m w false) s = .next (s.sourceForce m w) := congrArg Host.Outcome.next (State.winStore_of_sup h)
    exact ⟨hexec, fun hs q hfixed => ⟨_, hexec, State.sourceForce_spec hs q m w hfixed⟩⟩
  · have hexec : exec (.swset w) s = .next (s.swset w) := congrArg Host.Outcome.next (State.store_of_on h _ _)
    exact ⟨hexec, fun hs q hf => ⟨_, hexec, State.swset_spec hs q hf w⟩⟩
  · exact ⟨_, congrArg Host.Outcome.next (State.winStore_of_sup h), State.bit_putBit_same hs rfl (by decide) true, s.setFld_keeps _ _⟩
  · exact ⟨congrArg Host.Outcome.next (State.winStore_of_off hd h), congrArg Host.Outcome.next (State.winStore_of_off hd h),
      congrArg Host.Outcome.next (State.store_of_off hd h _ _), congrArg Host.Outcome.next (State.winStore_of_off hd h)⟩
  · exact ⟨congrArg Host.Outcome.next (State.load_of_dip hd), congrArg Host.Outcome.next (State.load_of_dip hd),
      congrArg Host.Outcome.next (State.store_of_dip hd _ _), congrArg Host.Outcome.next (State.load_of_dip hd)⟩
  · exact ⟨congrArg Host.Outcome.next (State.winStore_of_job h), congrArg Host.Outcome.next (State.winStore_of_job h),
      congrArg Host.Outcome.next (State.winStore_of_job h)⟩
  · exact ⟨_, execWarnPulseEnd_of_pulse he, rfl, rfl, State.keeps_trans (s.advance_keeps e) (State.win_keeps _ _)⟩

end Sys2Proof.Machine
end
section
/-!
PROOFS. An instruction that is issued undisturbed, by the effect that it has; the two-operand arithmetic and logical instructions (O24, O25),
the one-operand and TIME instructions (O26).
-/

namespace Sys2Proof.Machine

/-! ### What an effect makes of its command -/

section
variable {s0 s : State} {c : Fin 2} {p : Phys} {i : NIns} (h : s0.issues c p i s) (is : NIns → Bool) (hi : is i = true) (f : NIns → State → Eff)
include h hi

/-- A trap is entered with the PC of the instruction, or for SWT of the next one (R292). -/
theorem State.instr_trap {cause : Nat} {v : Word} {t : State} (hf : f i s = .trap cause v t) :
    s0.instr c p is f = .next (t.trapEnter c cause v (if cause = 10 then s.nextPc c i else (s.cr c).pc)) := by
  rw [State.instr_of_issues h is hi f, hf]
  rfl

/-- An effect that writes word registers and flags, and enters no recovery, retires with them. -/
theorem State.instr_done {t : State} {nx : Option Word} {acc : List (Nat × Option TWord)} {l : List Part} (hf : f i s = .done t nx acc)
    (ht : t.fld F.dbgWpctlEn = s.fld F.dbgWpctlEn) (w : Vector TWord 32) (flg : BitVec 5)
    (hc : t.cr c = { s.cr c with w := w, ew := w.map echoBits, flg := flg }) (hk : s.keeps t l) (hl : Part.core c ∈ l) (hs : Part.sec ∉ l) :
    ∃ u, s0.instr c p is f = .next u ∧
      s.ranTo u c i w flg (if i.pre.rep then s.nextPc c i else nx.getD (s.nextPc c i)) ∧ s.keeps u l := by
  rw [State.instr_of_issues h is hi f, hf]
  exact State.settle_done h (ht.trans h.2.1) w flg _ hc (congrArg Sec.rcvr (hk.2 _ hs)) hk hl

end

/-- The register files of an instruction that is issued undisturbed are in step. -/
theorem State.issues.inStep {s0 s : State} {c : Fin 2} {p : Phys} {i : NIns} (h : s0.issues c p i s) : s.inStep c := by
  obtain ⟨⟨_, _, _, _, _, _, _, h⟩, _⟩ := h
  exact h

/-- A core in step, spelled with its echo file as the rotated words. -/
theorem State.cr_of_inStep {s : State} {c : Fin 2} (h : s.inStep c) : s.cr c = { s.cr c with ew := (s.cr c).w.map echoBits } := by
  have h' : (s.cr c).ew = _ := h
  rw [← h']

section
variable {s0 s : State} {c : Fin 2} {p : Phys} {i : NIns} (h : s0.issues c p i s) (is : NIns → Bool) (hi : is i = true) (f : NIns → State → Eff)
include h hi

/-- A result written to the destination. -/
theorem State.instr_result {nf : Bool} {o : AluOut} (hf : f i s = .ok (s.writeOut c i.d nf o)) :
    ∃ t, s0.instr c p is f = .next t ∧ s.resultIn t c i nf o := by
  obtain ⟨w, g, ho, hc, hk, ht⟩ := State.writeOut_spec h.inStep i.d nf o
  obtain ⟨u, hu, hran, hkeeps⟩ := State.instr_done h is hi f hf ht _ _ hc hk (by simp) (by simp)
  refine ⟨u, hu, w, g, ho, ?_, hkeeps⟩
  simpa using hran

/-- The registers of the core stay, and FLG takes a value. -/
theorem State.instr_flg {flg : BitVec 5} {nx : Option Word} (hf : f i s = .done (s.setFlg c flg) nx []) :
    ∃ t, s0.instr c p is f = .next t ∧
      s.ranTo t c i (s.cr c).w flg (if i.pre.rep then s.nextPc c i else nx.getD (s.nextPc c i)) ∧ s.keeps t [.core c] := by
  have hc : (s.setFlg c flg).cr c = { s.cr c with w := (s.cr c).w, ew := (s.cr c).w.map echoBits, flg := flg } :=
    (s.cr_setCore_same c _).trans (by rw [State.cr_of_inStep h.inStep])
  exact State.instr_done h is hi f hf rfl _ _ hc (s.setCore_keeps c _) (by simp) (by simp)

/-- The flags alone. -/
theorem State.instr_flags {g : Nzcv} (hf : f i s = .ok (s.setFlg c (g.into (s.cr c).flg))) :
    ∃ t, s0.instr c p is f = .next t ∧ s.flagsIn t c i g := by
  obtain ⟨t, ht, hran, hk⟩ := State.instr_flg h is hi f hf
  refine ⟨t, ht, ?_, hk⟩
  simpa using hran

/-- One word register written, perhaps with a next PC of its own. -/
theorem State.instr_setW {d : Nat} {v : TWord} {nx : Option Word} (hf : f i s = .done (s.setW c d v) nx []) :
    ∃ t, s0.instr c p is f = .next t ∧
      s.ranTo t c i ((s.cr c).put d v) (s.cr c).flg (if i.pre.rep then s.nextPc c i else nx.getD (s.nextPc c i)) ∧ s.keeps t [.core c] :=
  State.instr_done h is hi f hf (s.fld_setW c d v _) _ _ (State.cr_setW h.inStep d v) (s.setW_keeps c d v) (by simp) (by simp)

/-- One word register and nothing else. -/
theorem State.instr_wroteReg {v : TWord} (hf : f i s = .ok (s.setW c i.d v)) :
    ∃ t, s0.instr c p is f = .next t ∧ s.wroteReg t c i v := by
  obtain ⟨t, ht, hran, hk⟩ := State.instr_setW h is hi f hf
  refine ⟨t, ht, ?_, hk⟩
  simpa using hran

end

/-! ### Operands -/

/-- An accepted operand of the arithmetic and logical instructions is no NIL. -/
theorem ne_nil_of_aluAccepts {k : Nat} {t : Tag} (h : aluAccepts k t = true) : t ≠ Tag.nil := by
  rintro rfl
  simp [aluAccepts, numTag] at h

/-- A NIL operand that raises NILUSE does so where the operands before it do not (R274, R290). -/
theorem withOperands_nilUse (tagx : Bool) (s : State) {l : List Src} {x : Src}
    (h : l.find? (fun y => y.nilUse && y.w.tag == Tag.nil) = some x) (k : Eff) :
    withOperands tagx s l k = .trap 2 (tagVal x.w.tag x.pos) s := by
  unfold withOperands operandStop
  rw [h]
  rfl

/-- An operand of a tag that is not accepted is a TYPE trap where TAGX does not read it otherwise, and no operand raises NILUSE (R273, R290). -/
theorem withOperands_type (s : State) {l : List Src} {x : Src} (h0 : l.find? (fun y => y.nilUse && y.w.tag == Tag.nil) = none)
    (h : l.find? (fun y => !y.ok y.w.tag) = some x) (k : Eff) : withOperands false s l k = .trap 1 (tagVal x.w.tag x.pos) s := by
  have h' : l.find? (fun y => !y.ok y.w.tag && !(false && y.uniq)) = some x := by simpa using h
  unfold withOperands operandStop
  rw [h0, h']
  rfl

/-! ### The two-operand instructions (R328 to R332) -/

/-- The command of a register form runs the operation that its opcode numbers. -/
theorem exec_aluForm {k : Nat} {cmd : Fin 2 → Phys → Instr} (h : (k, cmd) ∈ aluForms) (c : Fin 2) (p : Phys) (s : State) :
    exec (cmd c p) s = s.instr c p (fun i => i.op == 0x80 + k) (aluReg k c) := by
  simp only [aluForms, List.mem_cons, Prod.mk.injEq, List.not_mem_nil, or_false] at h
  rcases h with ⟨rfl, rfl⟩ | ⟨rfl, rfl⟩ | ⟨rfl, rfl⟩ | ⟨rfl, rfl⟩ | ⟨rfl, rfl⟩ | ⟨rfl, rfl⟩ | ⟨rfl, rfl⟩ | ⟨rfl, rfl⟩ | ⟨rfl, rfl⟩ | ⟨rfl, rfl⟩ |
    ⟨rfl, rfl⟩ | ⟨rfl, rfl⟩ | ⟨rfl, rfl⟩ | ⟨rfl, rfl⟩ | ⟨rfl, rfl⟩ | ⟨rfl, rfl⟩ <;> rfl

/-- The command of an immediate form runs the operation that X numbers. -/
theorem exec_aluiForm {k : Nat} {cmd : Fin 2 → Phys → Instr} (h : (k, cmd) ∈ aluiForms) (c : Fin 2) (p : Phys) (s : State) :
    exec (cmd c p) s = s.instr c p (fun i => i.op == 0xC1 && i.x == k) (aluImm k c) := by
  simp only [aluiForms, List.mem_cons, Prod.mk.injEq, List.not_mem_nil, or_false] at h
  rcases h with ⟨rfl, rfl⟩ | ⟨rfl, rfl⟩ | ⟨rfl, rfl⟩ | ⟨rfl, rfl⟩ | ⟨rfl, rfl⟩ | ⟨rfl, rfl⟩ | ⟨rfl, rfl⟩ | ⟨rfl, rfl⟩ | ⟨rfl, rfl⟩ | ⟨rfl, rfl⟩ |
    ⟨rfl, rfl⟩ | ⟨rfl, rfl⟩ | ⟨rfl, rfl⟩ | ⟨rfl, rfl⟩ | ⟨rfl, rfl⟩ | ⟨rfl, rfl⟩ <;> rfl

/-- Operation `k` on operands of accepted tags: CMP sets the flags, every other operation writes its result. -/
theorem State.alu_of_accepted {s : State} {c : Fin 2} {i : NIns} {k : Nat} {a b : TWord} (ha : aluAccepts k a.tag = true)
    (hb : b.tag = if isShift k then Tag.nat else a.tag) :
    s.alu c i k a b = if k = 13 then .ok (s.setFlg c ((cmpFlags a.tag a.val b.val).into (s.cr c).flg))
      else .ok (s.writeOut c i.d i.nf (aluResult k a.tag a.val b.val)) := by
  have hne := ne_nil_of_aluAccepts ha
  refine withOperands_ok _ _ _ (fun x hx => ?_) _
  rcases List.mem_pair.mp hx with rfl | rfl
  · exact ⟨ha, hne⟩
  · refine ⟨beq_iff_eq.mpr hb, fun e => ?_⟩
    have e' : b.tag = Tag.nil := e
    rw [hb] at e'
    split at e'
    · exact absurd e' (by decide)
    · exact hne e'

/-- So a command that runs operation `k` on such operands completes. -/
theorem State.instr_alu {s0 s : State} {c : Fin 2} {p : Phys} {i : NIns} (h : s0.issues c p i s) (is : NIns → Bool) (hi : is i = true)
    (f : NIns → State → Eff) {k : Nat} {a b : TWord} (hf : f i s = s.alu c i k a b) (ha : aluAccepts k a.tag = true)
    (hb : b.tag = if isShift k then Tag.nat else a.tag) :
    ∃ t, s0.instr c p is f = .next t ∧ (k = 13 → s.flagsIn t c i (cmpFlags a.tag a.val b.val)) ∧
      (k ≠ 13 → s.resultIn t c i i.nf (aluResult k a.tag a.val b.val)) := by
  rw [State.alu_of_accepted ha hb] at hf
  by_cases hk : k = 13
  · rw [if_pos hk] at hf
    obtain ⟨t, ht, hflags⟩ := State.instr_flags h is hi f hf
    exact ⟨t, ht, fun _ => hflags, fun hn => absurd hk hn⟩
  · rw [if_neg hk] at hf
    obtain ⟨t, ht, hres⟩ := State.instr_result h is hi f hf
    exact ⟨t, ht, fun e => absurd e hk, fun _ => hres⟩

/-- Settles O24: the register form of each opcode is `State.alu` on its two registers. -/
theorem aluRegisterFormsComplete : Obligations.AluRegisterFormsComplete := by
  intro c p s0 s i k cmd h hcmd hop ha hb
  rw [exec_aluForm hcmd]
  exact State.instr_alu h _ (by simp [hop]) _ rfl ha hb

/-- An ALUI operation on an accepted operand, a FLT one with a 32-bit immediate: the immediate takes the tag of `a`, or is a NAT count. -/
theorem aluImm_of_accepted {c : Fin 2} {i : NIns} {s : State} {k : Nat} (hlen : (s.w c i.a).tag = Tag.flt → i.immLen = 4) :
    aluImm k c i s = s.alu c i k (s.w c i.a) (if isShift k then TWord.nat i.imm else ⟨(s.w c i.a).tag, i.immFor (s.w c i.a).tag⟩) := by
  unfold aluImm isShift
  by_cases hk : 8 ≤ k ∧ k ≤ 12
  · simp [hk]
  · have hx : ¬((s.w c i.a).tag = Tag.flt ∧ aluAccepts k (s.w c i.a).tag = true ∧ i.immLen ≠ 4) := fun ⟨ht, _, hn⟩ => hn (hlen ht)
    have hk' : (decide (8 ≤ k) && decide (k ≤ 12)) = false := by simpa using hk
    simp only [hk, hx, hk', if_false, Bool.false_eq_true]

/-- Settles O25: each ALUI form is `State.alu` on a register and the immediate; a 16-bit immediate to a FLT traps before. -/
theorem aluImmediateFormsComplete : Obligations.AluImmediateFormsComplete := by
  intro c p s0 s i k cmd h hcmd hop hx ha
  rw [exec_aluiForm hcmd]
  refine ⟨fun ht hlen => ?_, fun hlen => ?_⟩
  · have hk : ¬(8 ≤ k ∧ k ≤ 12) := by
      rintro ⟨h8, h12⟩
      have hk4 : k ≠ 4 := by omega
      have hk5 : ¬(5 ≤ k ∧ k ≤ 7) := by omega
      rw [ht, aluAccepts, if_neg hk4, if_neg hk5, if_pos ⟨h8, h12⟩] at ha
      exact absurd ha (by decide)
    refine State.instr_trap h _ (by simp [hop, hx]) _ (t := s) ?_
    unfold aluImm
    rw [if_neg hk, if_pos ⟨ht, ha, hlen⟩]
  · refine State.instr_alu h _ (by simp [hop, hx]) _ (aluImm_of_accepted hlen) ha ?_
    split <;> rfl

/-! ### The one-operand and TIME instructions -/

/-- A UNARY operation on an operand of an accepted tag writes its result. -/
theorem unary_of_accepted {ok : Tag → Bool} {f : Tag → Word → AluOut} {c : Fin 2} {i : NIns} {s : State} (ha : ok (s.w c i.d).tag = true)
    (hn : ok Tag.nil = false) : unary ok f c i s = .ok (s.writeOut c i.d false (f (s.w c i.d).tag (s.w c i.d).val)) := by
  refine withOperands_ok _ _ _ (fun x hx => ?_) _
  obtain rfl := List.mem_singleton.mp hx
  refine ⟨ha, fun e => ?_⟩
  have e' : (s.w c i.d).tag = Tag.nil := e
  rw [e', hn] at ha
  cases ha

/-- Operands that each accept one tag and have it. -/
theorem withOperands_one {tagx : Bool} {s : State} {w : TWord} {t : Tag} {pos : Nat} {n : Bool} (h : w.tag = t) (hn : t ≠ Tag.nil) (k : Eff) :
    withOperands tagx s [one w t pos n] k = k := by
  refine withOperands_ok _ _ _ (fun x hx => ?_) _
  obtain rfl := List.mem_singleton.mp hx
  exact ⟨beq_iff_eq.mpr h, fun e => hn (h.symm.trans e)⟩

theorem withOperands_two {tagx : Bool} {s : State} {w w2 : TWord} {t t2 : Tag} {pos pos2 : Nat} {n n2 : Bool} (h : w.tag = t) (hn : t ≠ Tag.nil)
    (h2 : w2.tag = t2) (hn2 : t2 ≠ Tag.nil) (k : Eff) : withOperands tagx s [one w t pos n, one w2 t2 pos2 n2] k = k := by
  refine withOperands_ok _ _ _ (fun x hx => ?_) _
  rcases List.mem_pair.mp hx with rfl | rfl
  · exact ⟨beq_iff_eq.mpr h, fun e => hn (h.symm.trans e)⟩
  · exact ⟨beq_iff_eq.mpr h2, fun e => hn2 (h2.symm.trans e)⟩

/-- Settles O26: UNARY by `unary_of_accepted`, the others by the operands that they accept. -/
theorem unaryAndTimeInstructionsComplete : Obligations.UnaryAndTimeInstructionsComplete := by
  intro c p s0 s i h
  refine ⟨fun hop => ⟨fun hx ha => ?_, fun hx ha => ?_, fun hx ha => ?_, fun hx ha => ?_, fun hx ha => ?_, fun hx => ?_, fun hx ha => ?_⟩,
    fun o hop hn ho => ?_, fun hop ha hb => ?_, fun hop ha => ?_, fun hop ha => ?_, fun hop ha hb => ?_⟩
  · show ∃ t, execInc c p s0 = .next t ∧ _
    exact State.instr_result h _ (by simp [hop, hx]) _ (unary_of_accepted ha (by decide))
  · show ∃ t, execDec c p s0 = .next t ∧ _
    exact State.instr_result h _ (by simp [hop, hx]) _ (unary_of_accepted ha (by decide))
  · show ∃ t, execNeg c p s0 = .next t ∧ _
    exact State.instr_result h _ (by simp [hop, hx]) _ (unary_of_accepted ha (by decide))
  · show ∃ t, execAbs c p s0 = .next t ∧ _
    exact State.instr_result h _ (by simp [hop, hx]) _ (unary_of_accepted ha (by decide))
  · show ∃ t, execNot c p s0 = .next t ∧ _
    exact State.instr_result h _ (by simp [hop, hx]) _ (unary_of_accepted ha (by decide))
  · show ∃ t, execClrn c p s0 = .next t ∧ _
    exact State.instr_wroteReg h _ (by simp [hop, hx]) _ rfl
  · show ∃ t, execTst c p s0 = .next t ∧ _
    refine State.instr_flags h _ (by simp [hop, hx]) _ (withOperands_ok _ _ _ (fun x hx => ?_) _)
    obtain rfl := List.mem_singleton.mp hx
    refine ⟨ha, fun e => ?_⟩
    have e' : (s.w c i.d).tag = Tag.nil := e
    rw [e'] at ha
    exact absurd ha (by decide)
  · show ∃ t, execCvt c p s0 = .next t ∧ _
    refine State.instr_result h _ (by simp [hop]) _ ((withOperands_ok _ _ _ (fun x hx => ?_) _).trans ?_)
    · obtain rfl := List.mem_singleton.mp hx
      exact ⟨by dsimp only; rw [ho]; rfl, hn⟩
    · rw [ho]
  · show ∃ t, execTsub c p s0 = .next t ∧ _
    exact State.instr_result h _ (by simp [hop]) _ (withOperands_two ha (by decide) hb (by decide) _)
  · show ∃ t, execTfrm c p s0 = .next t ∧ _
    exact State.instr_wroteReg h _ (by simp [hop]) _ (withOperands_one ha (by decide) _)
  · show ∃ t, execTslot c p s0 = .next t ∧ _
    exact State.instr_wroteReg h _ (by simp [hop]) _ (withOperands_one ha (by decide) _)
  · show ∃ t, execCadd c p s0 = .next t ∧ _
    exact State.instr_wroteReg h _ (by simp [hop]) _ (withOperands_two ha (by decide) hb (by decide) _)

end Sys2Proof.Machine
end
section
/-!
PROOFS. The results of the arithmetic instructions: INT and NAT (O27), division by zero (O28), shifts and rotates (O29), FIX (O30).
-/

namespace Sys2Proof.Machine

/-! ### Exact results and their words (R309) -/

/-- An exact result lies outside the range of INT, or of NAT. -/
def outOf (t : Tag) (z : Int) : Bool :=
  if t = Tag.int then decide (z < -2 ^ 31 ∨ 2 ^ 31 ≤ z) else decide (z < 0 ∨ 2 ^ 32 ≤ z)

/-- Wrapping keeps the low 32 bits, and V says that the result did not fit. -/
theorem wrapV_eq (t : Tag) (z : Int) : wrapV t z = (BitVec.ofInt 32 z, outOf t z) := by
  unfold wrapV outOf
  rw [← Bool.decide_or, ← Bool.decide_or]
  split
  · exact Prod.ext rfl (decide_eq_decide.mpr (by omega))
  · exact Prod.ext rfl (decide_eq_decide.mpr (by omega))

/-- A word is its value modulo 2^32, read with its sign or without. -/
theorem ofInt_valOf (t : Tag) (w : Word) : BitVec.ofInt 32 (valOf t w) = w := by
  unfold valOf
  split
  · rw [BitVec.ofInt_natCast, BitVec.ofNat_toNat, BitVec.setWidth_eq]
  · exact BitVec.ofInt_toInt

theorem valOf_eq_zero_iff (t : Tag) (w : Word) : valOf t w = 0 ↔ w = 0 := by
  constructor
  · intro h
    rw [← ofInt_valOf t w, h]; rfl
  · rintro rfl
    unfold valOf
    split <;> rfl

theorem valOf_ne_zero {t : Tag} {w : Word} (h : w ≠ 0) : valOf t w ≠ 0 := fun e => h ((valOf_eq_zero_iff t w).mp e)

/-- A result in the range of its tag is the value of its word. -/
theorem valOf_ofInt {t : Tag} (ht : t = Tag.int ∨ t = Tag.nat) {z : Int} (h : outOf t z = false) : valOf t (BitVec.ofInt 32 z) = z := by
  rcases ht with rfl | rfl
  · have hz : ¬(z < -2 ^ 31 ∨ 2 ^ 31 ≤ z) := of_decide_eq_false h
    exact BitVec.toInt_ofInt_eq_self (by decide) (by omega) (by omega)
  · have hz : ¬(z < 0 ∨ 2 ^ 32 ≤ z) := of_decide_eq_false h
    show ((BitVec.ofInt 32 z).toNat : Int) = z
    rw [BitVec.toNat_ofInt]
    omega

/-- A remainder lies in the range of its operands. -/
theorem outOf_tmod {t : Tag} (ht : t = Tag.int ∨ t = Tag.nat) (a b : Word) (hb : valOf t b ≠ 0) :
    outOf t ((valOf t a).tmod (valOf t b)) = false := by
  have habs : ((valOf t a).tmod (valOf t b)).natAbs < (valOf t b).natAbs := by
    rw [Int.natAbs_tmod]
    exact Nat.mod_lt _ (Int.natAbs_pos.mpr hb)
  rcases ht with rfl | rfl
  · have h1 : b.toInt < 2 ^ 31 := BitVec.toInt_lt
    have h2 : -2 ^ 31 ≤ b.toInt := b.le_toInt
    have h3 : ((valOf Tag.int a).tmod (valOf Tag.int b)).natAbs < b.toInt.natAbs := habs
    refine decide_eq_false ?_
    omega
  · have h1 : b.toNat < 2 ^ 32 := b.isLt
    have h0 : 0 ≤ (valOf Tag.nat a).tmod (valOf Tag.nat b) := Int.tmod_nonneg _ (Int.natCast_nonneg a.toNat)
    have h3 : ((valOf Tag.nat a).tmod (valOf Tag.nat b)).natAbs < b.toNat := habs
    refine decide_eq_false ?_
    omega

/-! ### INT and NAT (R309, R310) -/

theorem wrapV_sub (t : Tag) (a b : Word) : wrapV t (valOf t a - valOf t b) = (a - b, outOf t (valOf t a - valOf t b)) := by
  rw [wrapV_eq, Int.sub_eq_add_neg, BitVec.ofInt_add, BitVec.ofInt_neg, ofInt_valOf, ofInt_valOf, BitVec.sub_eq_add_neg]

section
variable {t : Tag} (ht : t = Tag.int ∨ t = Tag.nat) (a b : Word)
include ht

theorem ne_flt_of_int_or_nat : t ≠ Tag.flt := by rcases ht with rfl | rfl <;> decide

theorem ne_fix_of_int_or_nat : t ≠ Tag.fix := by rcases ht with rfl | rfl <;> decide

theorem arith_add_int : arith 0 t a b = .val ⟨t, a + b⟩
    (flagsOf (a + b) (decide (2 ^ 32 ≤ a.toNat + b.toNat)) (outOf t (valOf t a + valOf t b))) := by
  have hw : wrapV t (valOf t a + valOf t b) = (a + b, outOf t (valOf t a + valOf t b)) := by
    rw [wrapV_eq, BitVec.ofInt_add, ofInt_valOf, ofInt_valOf]
  unfold arith
  dsimp only
  rw [if_neg (ne_flt_of_int_or_nat ht), if_neg (by simp), if_neg (ne_fix_of_int_or_nat ht), hw]
  rfl

theorem arith_sub_int : arith 1 t a b = .val ⟨t, a - b⟩
    (flagsOf (a - b) (decide (a.toNat < b.toNat)) (outOf t (valOf t a - valOf t b))) := by
  unfold arith
  dsimp only
  rw [if_neg (ne_flt_of_int_or_nat ht), if_neg (by simp), if_neg (ne_fix_of_int_or_nat ht), wrapV_sub]
  rfl

theorem arith_mul_int : arith 2 t a b = .val ⟨t, a * b⟩
    (flagsOf (a * b) (outOf t (valOf t a * valOf t b)) (outOf t (valOf t a * valOf t b))) := by
  have hw : wrapV t (valOf t a * valOf t b) = (a * b, outOf t (valOf t a * valOf t b)) := by
    rw [wrapV_eq, BitVec.ofInt_mul, ofInt_valOf, ofInt_valOf]
  unfold arith
  dsimp only
  rw [if_neg (ne_flt_of_int_or_nat ht), if_neg (by simp), if_neg (ne_fix_of_int_or_nat ht), hw]
  rfl

theorem cmpFlags_int : cmpFlags t a b = flagsOf (a - b) (decide (a.toNat < b.toNat)) (outOf t (valOf t a - valOf t b)) := by
  unfold cmpFlags
  dsimp only
  rw [if_neg (ne_flt_of_int_or_nat ht), if_neg (ne_fix_of_int_or_nat ht), wrapV_sub]

variable {b} (hb : b ≠ 0)
include hb

theorem arith_div_int : arith 3 t a b = .val ⟨t, BitVec.ofInt 32 ((valOf t a).tdiv (valOf t b))⟩
    (flagsOf (BitVec.ofInt 32 ((valOf t a).tdiv (valOf t b))) false (outOf t ((valOf t a).tdiv (valOf t b)))) := by
  unfold arith
  dsimp only
  rw [if_neg (ne_flt_of_int_or_nat ht), if_neg (fun e => valOf_ne_zero hb e.2), if_neg (ne_fix_of_int_or_nat ht),
    wrapV_eq t (Int.tdiv _ _)]
  rfl

theorem arith_rem_int : arith 4 t a b = .val ⟨t, BitVec.ofInt 32 ((valOf t a).tmod (valOf t b))⟩
    (flagsOf (BitVec.ofInt 32 ((valOf t a).tmod (valOf t b))) false false) := by
  unfold arith
  dsimp only
  rw [if_neg (ne_flt_of_int_or_nat ht), if_neg (fun e => valOf_ne_zero hb e.2), if_neg (ne_fix_of_int_or_nat ht),
    wrapV_eq t (Int.tmod _ _)]
  rfl

end

/-- The value of an INT or a NAT as the statement spells it. -/
theorem valOf_of_int_or_nat {t : Tag} (ht : t = Tag.int ∨ t = Tag.nat) (w : Word) :
    (if t = Tag.int then w.toInt else (w.toNat : Int)) = valOf t w := by
  rcases ht with rfl | rfl <;> rfl

/-- UNARY NEG of a NAT is a TYPE trap (R310). -/
theorem exec_neg_nat {s0 s : State} {c : Fin 2} {p : Phys} {i : NIns} (h : s0.issues c p i s) (hop : i.op = 0x50) (hx : i.x = 2)
    (htagx : i.pre.tagx = false) (ht : (s.w c i.d).tag = Tag.nat) :
    exec (.neg c p) s0 = .next (s.trapEnter c 1 (tagVal Tag.nat 0) (s.cr c).pc) := by
  show execNeg c p s0 = _
  refine State.instr_trap h _ (by simp [hop, hx]) _ (t := s) ?_
  unfold unary
  rw [htagx, withOperands_type s (x := ⟨s.w c i.d, negTag, 0, true, false⟩), ht]
  · simp [ht]
  · simp [ht, negTag]

/-- CMP writes no register (R333). -/
theorem exec_cmp_registers {s0 s t : State} {c : Fin 2} {p : Phys} {i : NIns} (h : s0.issues c p i s) (hop : i.op = 0x8D)
    (ha : (s.w c i.a).tag = Tag.int ∨ (s.w c i.a).tag = Tag.nat) (hb : (s.w c i.b).tag = (s.w c i.a).tag)
    (ht : exec (.cmp c p) s0 = .next t) : (t.cr c).w = (s.cr c).w := by
  have hacc : aluAccepts 13 (s.w c i.a).tag = true := by rcases ha with e | e <;> rw [e] <;> decide
  obtain ⟨u, hu, hflags, -⟩ := aluRegisterFormsComplete c p s0 s i 13 .cmp h (by simp [aluForms]) hop hacc hb
  obtain ⟨hran, -⟩ := hflags rfl
  cases hu.symm.trans ht
  rw [hran]

/-- Settles O27: each operation by its equation on INT and NAT words, the corners by evaluation. -/
theorem integerArithmetic : Obligations.IntegerArithmetic := by
  refine ⟨fun t a b ht => ?_, ⟨false, by decide⟩, ⟨false, by decide⟩, ⟨true, by decide⟩, ⟨_, rfl, by decide⟩,
    fun c p s0 s i h hop hx htagx hd => exec_neg_nat h hop hx htagx hd,
    fun c p s0 s t i h hop ha hb ht => exec_cmp_registers h hop ha hb ht⟩
  dsimp only
  simp only [valOf_of_int_or_nat ht]
  refine ⟨arith_add_int ht a b, arith_sub_int ht a b, arith_mul_int ht a b, cmpFlags_int ht a b, fun hb => ?_, fun hb => ?_⟩
  · exact ⟨_, _, arith_div_int ht a hb, valOf_ofInt ht⟩
  · exact ⟨_, _, arith_rem_int ht a hb, valOf_ofInt ht (outOf_tmod ht a b (valOf_ne_zero hb))⟩

/-! ### Division by zero, and NIL (R274, R290, R311) -/

/-- Division and remainder of integers and FIX by zero give NIL 0 with V. -/
theorem aluResult_by_zero {k : Nat} (hk : k = 3 ∨ k = 4) {t : Tag} (ht : t ≠ Tag.flt) (a : Word) :
    aluResult k t a 0 = .val TWord.nil0 ⟨false, false, false, true⟩ := by
  have h0 : valOf t 0 = 0 := (valOf_eq_zero_iff t 0).mpr rfl
  have h4 : k ≤ 4 := by omega
  unfold aluResult arith
  rw [if_pos h4]
  dsimp only
  rw [if_neg ht, if_pos ⟨hk, h0⟩]

/-- DIV and REM between registers, by a zero divisor. -/
theorem exec_divRem_by_zero {s0 s : State} {c : Fin 2} {p : Phys} {i : NIns} {k : Nat} {cmd : Fin 2 → Phys → Instr} (h : s0.issues c p i s)
    (hk : k = 3 ∨ k = 4) (hcmd : (k, cmd) ∈ aluForms) (hop : i.op = 0x80 + k)
    (ha : (s.w c i.a).tag = Tag.int ∨ (s.w c i.a).tag = Tag.nat ∨ (s.w c i.a).tag = Tag.fix) (hb : (s.w c i.b).tag = (s.w c i.a).tag)
    (hz : (s.w c i.b).val = 0) :
    ∃ t, exec (cmd c p) s0 = .next t ∧ s.resultIn t c i i.nf (.val TWord.nil0 ⟨false, false, false, true⟩) := by
  have hacc : aluAccepts k (s.w c i.a).tag = true := by
    rcases hk with rfl | rfl <;> rcases ha with e | e | e <;> rw [e] <;> decide
  have hshift : isShift k = false := by rcases hk with rfl | rfl <;> rfl
  have hflt : (s.w c i.a).tag ≠ Tag.flt := by rcases ha with e | e | e <;> rw [e] <;> decide
  obtain ⟨t, ht, -, hres⟩ := aluRegisterFormsComplete c p s0 s i k cmd h hcmd hop hacc (by simpa [hshift] using hb)
  have hres := hres (by omega)
  rw [hz, aluResult_by_zero hk hflt] at hres
  exact ⟨t, ht, hres⟩

/-- Settles O28: the zero divisor by `aluResult_by_zero`; a NIL operand by the check of the operands, which comes before their tags. -/
theorem divisionByZeroWritesNil : Obligations.DivisionByZeroWritesNil := by
  refine ⟨fun c p s0 s i h ha hb hz => ⟨fun hop => ?_, fun hop => ?_⟩, fun c p s0 s i k cmd h hcmd hop => ⟨fun ha => ?_, fun ha hb => ?_⟩⟩
  · exact exec_divRem_by_zero (cmd := .div) h (.inl rfl) (by simp [aluForms]) hop ha hb hz
  · exact exec_divRem_by_zero (cmd := .rem) h (.inr rfl) (by simp [aluForms]) hop ha hb hz
  · rw [exec_aluForm hcmd, ← ha]
    refine State.instr_trap h _ (by simp [hop]) _ (t := s) (withOperands_nilUse _ _ (x := ⟨s.w c i.a, aluAccepts k, 0, true, false⟩) ?_ _)
    exact List.find?_cons_of_pos (by simp [ha])
  · rw [exec_aluForm hcmd, ← hb]
    refine State.instr_trap h _ (by simp [hop]) _ (t := s)
      (withOperands_nilUse _ _ (x := one (s.w c i.b) (if isShift k then Tag.nat else (s.w c i.a).tag) 1 true) ?_ _)
    rw [List.find?_cons_of_neg (by simpa using ha)]
    exact List.find?_cons_of_pos (by simp [one, hb])

/-! ### Shifts and rotates (R312) -/

section
variable (t : Tag) (a : Word) (n : Nat)

theorem shift_left : shift 8 t a n =
    .val ⟨t, a <<< n⟩ (flagsOf (a <<< n) (decide (1 ≤ n ∧ n ≤ 32) && a.getLsbD (32 - n)) false) := by
  have hv : (if n < 32 then a <<< n else 0) = a <<< n := by
    split
    · rfl
    · exact (BitVec.shiftLeft_eq_zero (by omega)).symm
  have hc : (if 1 ≤ n ∧ n ≤ 32 then a.getLsbD (32 - n) else false) = (decide (1 ≤ n ∧ n ≤ 32) && a.getLsbD (32 - n)) := by
    split <;> simp [*]
  show AluOut.val ⟨t, if n < 32 then a <<< n else 0⟩ (flagsOf (if n < 32 then a <<< n else 0)
    (if 1 ≤ n ∧ n ≤ 32 then a.getLsbD (32 - n) else false) false) = _
  rw [hv, hc]

theorem shift_right : shift 9 t a n =
    .val ⟨t, a >>> n⟩ (flagsOf (a >>> n) (decide (1 ≤ n ∧ n ≤ 32) && a.getLsbD (n - 1)) false) := by
  have hv : (if n < 32 then a >>> n else 0) = a >>> n := by
    split
    · rfl
    · exact (BitVec.ushiftRight_eq_zero (by omega)).symm
  have hc : (if 1 ≤ n ∧ n ≤ 32 then a.getLsbD (n - 1) else false) = (decide (1 ≤ n ∧ n ≤ 32) && a.getLsbD (n - 1)) := by
    split <;> simp [*]
  show AluOut.val ⟨t, if n < 32 then a >>> n else 0⟩ (flagsOf (if n < 32 then a >>> n else 0)
    (if 1 ≤ n ∧ n ≤ 32 then a.getLsbD (n - 1) else false) false) = _
  rw [hv, hc]

end

/-- Bit `j` of an arithmetic right shift, whose count stops at 32. -/
theorem getLsbD_sar (a : Word) (n : Nat) {j : Nat} (hj : j < 32) :
    (a.sshiftRight (min n 32)).getLsbD j = if j + n < 32 then a.getLsbD (j + n) else a.getLsbD 31 := by
  rw [BitVec.getLsbD_sshiftRight, decide_eq_false (by omega : ¬32 ≤ j), Bool.not_false, Bool.true_and, BitVec.msb_eq_getLsbD_last]
  by_cases h : j + n < 32
  · rw [if_pos h, if_pos (by omega), Nat.min_eq_left (by omega), Nat.add_comm]
  · rw [if_neg h, if_neg (by omega)]

theorem getLsbD_rol (a : Word) (n : Nat) {j : Nat} (hj : j < 32) :
    (a.rotateLeft (n % 32)).getLsbD j = a.getLsbD ((j + 32 - n % 32) % 32) := by
  rw [BitVec.getLsbD_rotateLeft, Nat.mod_mod]
  by_cases h : j < n % 32
  · rw [decide_eq_true h, cond_true]
    congr 1
    omega
  · rw [decide_eq_false h, cond_false, decide_eq_true hj, Bool.true_and]
    congr 1
    omega

theorem getLsbD_ror (a : Word) (n : Nat) {j : Nat} (hj : j < 32) :
    (a.rotateRight (n % 32)).getLsbD j = a.getLsbD ((j + n) % 32) := by
  rw [BitVec.getLsbD_rotateRight, Nat.mod_mod]
  by_cases h : j < 32 - n % 32
  · rw [decide_eq_true h, cond_true]
    congr 1
    omega
  · rw [decide_eq_false h, cond_false, decide_eq_true hj, Bool.true_and]
    congr 1
    omega

/-- Settles O29: the bits of each result by the library's bits of shifts and rotates, C by the ranges of the count. -/
theorem shiftsAndRotates : Obligations.ShiftsAndRotates := by
  intro t a w
  refine ⟨_, _, _, _, _, _, _, _, _, _, shift_left t a w.toNat, shift_right t a w.toNat, rfl, rfl, rfl, fun j hj => ⟨?_, ?_, getLsbD_sar a _ hj,
    getLsbD_rol a _ hj, getLsbD_ror a _ hj⟩, fun h => ?_, fun h1 h2 => ?_, fun h => ?_, fun h => ?_, fun h => ?_⟩
  · rw [BitVec.getLsbD_shiftLeft, decide_eq_true hj, Bool.true_and, ← decide_not]
    exact congrArg (· && _) (decide_eq_decide.mpr not_lt)
  · rw [BitVec.getLsbD_ushiftRight, Nat.add_comm]
  · simp [h]
  · have h0 : w.toNat ≠ 0 := by omega
    simp [h1, h2, h0]
  · have h0 : w.toNat ≠ 0 := by omega
    have h32 : ¬w.toNat ≤ 32 := by omega
    simp [h0, h32]
  · simp [h]
  · simp [h]

/-! ### FIX (R313) -/

/-- A FIX result is the exact one limited to the range of INT, with V where it was limited. -/
theorem fixOut_saturates (z : Int) : ∃ w : Word, w.toInt = max (-2 ^ 31) (min (2 ^ 31 - 1) z) ∧
    fixOut z = .val ⟨Tag.fix, w⟩ ⟨decide (w = 0), w.getLsbD 31, false, decide (max (-2 ^ 31) (min (2 ^ 31 - 1) z) ≠ z)⟩ := by
  unfold fixOut fixSat
  by_cases hlo : z < -2 ^ 31
  · have hs : max (-2 ^ 31) (min (2 ^ 31 - 1) z) = -2 ^ 31 := by omega
    rw [hs, decide_eq_true (by omega : (-2 ^ 31 : Int) ≠ z), if_pos hlo]
    exact ⟨_, by decide, rfl⟩
  by_cases hhi : 2 ^ 31 - 1 < z
  · have hs : max (-2 ^ 31) (min (2 ^ 31 - 1) z) = 2 ^ 31 - 1 := by omega
    rw [hs, decide_eq_true (by omega : (2 ^ 31 - 1 : Int) ≠ z), if_neg hlo, if_pos hhi]
    exact ⟨_, by decide, rfl⟩
  · have hs : max (-2 ^ 31) (min (2 ^ 31 - 1) z) = z := by omega
    rw [hs, decide_eq_false (by simp), if_neg hlo, if_neg hhi]
    exact ⟨_, BitVec.toInt_ofInt_eq_self (by decide) (by omega) (by omega), rfl⟩

/-- A product is rounded to the nearest unit, ties to even. -/
theorem fixRound_nearest (x : Int) :
    |2 * (65536 * fixRound x - x)| ≤ 65536 ∧ (|2 * (65536 * fixRound x - x)| = 65536 → fixRound x % 2 = 0) := by
  unfold fixRound
  dsimp only
  rw [abs_le]
  refine ⟨?_, fun h => ?_⟩
  · split <;> omega
  · rcases abs_choice (2 * (65536 * (if 32768 < x % 65536 ∨ (x % 65536 = 32768 ∧ x / 65536 % 2 = 1) then x / 65536 + 1 else x / 65536) - x))
      with e | e <;> rw [e] at h <;> split at h <;> split <;> omega

/-- Settles O30: each operation is `fixOut` of its exact result, a product's of the nearest unit. -/
theorem fixArithmetic : Obligations.FixArithmetic := by
  refine ⟨fun a b => ?_, by decide⟩
  have hdiv (hb : b ≠ 0) : aluResult 3 Tag.fix a b = fixOut ((a.toInt * 65536).tdiv b.toInt) := by
    have h0 : ¬(((3 : Nat) = 3 ∨ (3 : Nat) = 4) ∧ valOf Tag.fix b = 0) := fun e => valOf_ne_zero hb e.2
    show arith 3 Tag.fix a b = _
    unfold arith
    dsimp only
    rw [if_neg (by decide), if_neg h0, if_pos rfl]
    rfl
  dsimp only
  refine ⟨fixOut_saturates _, fixOut_saturates _, ⟨_, fixOut_saturates _, fixRound_nearest _⟩, fun hb => ?_, fixOut_saturates _⟩
  rw [hdiv hb]
  exact fixOut_saturates _

end Sys2Proof.Machine
end
section
/-!
PROOFS. The instructions of tasks: FENCE, SEAL, WAITE and RETE (O33).
-/

namespace Sys2Proof.Machine

/-! ### Retirement spelled from any state of the core -/

/-- An effect retires from the state `b` of its core, which a repeated instruction leaves its PC and CNT: the word registers and FLG of that
state may change beside. -/
theorem State.settle_from {s b t : State} {c : Fin 2} {i : NIns} {nx : Option Word} {acc : List (Nat × Option TWord)} {w : Vector TWord 32}
    {flg : BitVec 5} (hrep : i.pre.rep = true → (b.cr c).pc = (s.cr c).pc ∧ (b.cr c).cnt = (s.cr c).cnt) (hw : t.fld F.dbgWpctlEn = 0)
    (hstep : (b.cr c).halt.stepping = false) (hc : t.cr c = { b.cr c with w := w, ew := w.map echoBits, flg := flg })
    (hv : t.sec.rcvr = s.sec.rcvr) (e : Bool) :
    ∃ u, s.settle c i e (.done t nx acc) = .next u ∧
      b.ranTo u c i w flg (if i.pre.rep then s.nextPc c i else nx.getD (s.nextPc c i)) ∧ t.keeps u [.core c] := by
  have two : ∀ f g : Core → Core, t.keeps ((t.setCore c f).setCore c g) [.core c] := fun f g =>
    State.keeps_trans (t.setCore_keeps c f) (State.setCore_keeps _ c g)
  unfold State.settle
  dsimp only
  rw [hv, Bool.and_not_self, if_neg Bool.false_ne_true]
  refine ⟨_, rfl, ?_⟩
  by_cases hr : i.pre.rep = true
  · obtain ⟨hpc, hcnt⟩ := hrep hr
    simp only [hr, if_true]
    rw [State.retired_plain (by simpa using hw) (by rw [State.cr_setCore_same, hc]; exact hstep)]
    refine ⟨?_, two _ _⟩
    unfold State.ranTo State.nextPc
    simp only [State.counted, State.cr_setCore_same, hc, hr, hcnt, hpc, true_and, if_true]
    by_cases h1 : (s.cr c).cnt = 1 <;> simp [h1]
  · simp only [hr, Bool.false_eq_true, if_false]
    rw [State.retired_plain (by simpa using hw) (by rw [State.cr_setCore_same, hc]; exact hstep)]
    refine ⟨?_, two _ _⟩
    unfold State.ranTo State.nextPc
    simp only [State.counted, State.cr_setCore_same, hc, hr, Bool.false_eq_true, false_and, if_false]

/-- A core spelled with the registers and flags that it has. -/
theorem Core.eq_with {k : Core} {w : Vector TWord 32} {ew : Vector (BitVec 36) 32} {flg : BitVec 5} (hw : k.w = w) (hew : k.ew = ew)
    (hflg : k.flg = flg) : k = { k with w := w, ew := ew, flg := flg } := by
  subst hw hew hflg
  rfl

section
variable {s0 s : State} {c : Fin 2} {p : Phys} {i : NIns} (h : s0.issues c p i s) (is : NIns → Bool) (hi : is i = true) (f : NIns → State → Eff)
include h hi

/-- So a command retires from the state `b`, with what that leaves. -/
theorem State.instr_from {b t : State} {nx : Option Word} {acc : List (Nat × Option TWord)} {w : Vector TWord 32} {flg : BitVec 5}
    (hf : f i s = .done t nx acc) (hrep : i.pre.rep = true → (b.cr c).pc = (s.cr c).pc ∧ (b.cr c).cnt = (s.cr c).cnt)
    (hw : t.fld F.dbgWpctlEn = 0) (hstep : (b.cr c).halt.stepping = false)
    (hc : t.cr c = { b.cr c with w := w, ew := w.map echoBits, flg := flg }) (hv : t.sec.rcvr = s.sec.rcvr) :
    ∃ u, s0.instr c p is f = .next u ∧
      b.ranTo u c i w flg (if i.pre.rep then s.nextPc c i else nx.getD (s.nextPc c i)) ∧ t.keeps u [.core c] := by
  rw [State.instr_of_issues h is hi f, hf]
  exact State.settle_from hrep hw hstep hc hv _

/-- An effect that changes other fields of its core than the registers, FLG and PC, and CNT in no repetition. -/
theorem State.instr_core {g : Core → Core} {nx : Option Word} {acc : List (Nat × Option TWord)} (hf : f i s = .done (s.setCore c g) nx acc)
    (hrep : i.pre.rep = true → (g (s.cr c)).pc = (s.cr c).pc ∧ (g (s.cr c)).cnt = (s.cr c).cnt)
    (hg : (g (s.cr c)).w = (s.cr c).w ∧ (g (s.cr c)).ew = (s.cr c).ew ∧ (g (s.cr c)).flg = (s.cr c).flg ∧ (g (s.cr c)).halt = (s.cr c).halt) :
    ∃ t, s0.instr c p is f = .next t ∧
      (s.setCore c g).ranTo t c i (s.cr c).w (s.cr c).flg (if i.pre.rep then s.nextPc c i else nx.getD (s.nextPc c i)) ∧ s.keeps t [.core c] := by
  obtain ⟨hw, hew, hflg, hhalt⟩ := hg
  have hin : (s.cr c).ew = (s.cr c).w.map echoBits := h.inStep
  obtain ⟨_, hwp, hstep, _⟩ := id h
  have hcore : (s.setCore c g).cr c = g (s.cr c) := s.cr_setCore_same c g
  obtain ⟨u, hu, hran, hk⟩ := State.instr_from h is hi f (b := s.setCore c g) (w := (s.cr c).w) (flg := (s.cr c).flg) hf (by rwa [hcore])
    hwp (by rw [hcore, hhalt]; exact hstep) (Core.eq_with (by rw [hcore, hw]) (by rw [hcore, hew, hin]) (by rw [hcore, hflg])) rfl
  exact ⟨u, hu, hran, State.keeps_trans (s.setCore_keeps c g) hk⟩

end

/-! ### The empty store buffer (R301) -/

/-- An empty buffer stays and waits for nothing. -/
theorem State.drainAll_of_empty {s : State} {c : Fin 2} (h : (s.cr c).buf = []) : (s.drainAll c).drainWaits c = none ∧ s.drainAll c = s := by
  have hd := State.drained_of_empty h
  unfold State.drained at hd
  dsimp only at hd
  obtain ⟨hnone, hall⟩ := Prod.mk.inj hd
  exact ⟨Option.isNone_iff_eq_none.mp hnone, hall⟩

theorem State.emptied_of_empty {s : State} {c : Fin 2} (h : (s.cr c).buf = []) : s.emptied c = .ok s := by
  obtain ⟨hnone, hall⟩ := State.drainAll_of_empty h
  rw [hall] at hnone
  unfold State.emptied
  rw [hall]
  dsimp only
  rw [hnone]

/-! ### The end of a task (R286) -/

/-- The job of the best ready task is one that is ready. -/
theorem State.ready_of_best {s : State} {c : Fin 2} {prio n : Nat} (h : s.bestReady c = some (prio, true, n)) :
    n < 64 ∧ ∃ k q, nth s.frm.jobs n .idle = .ready k q := by
  unfold State.bestReady at h
  dsimp only at h
  have hm := List.mem_of_find?_eq_some h
  unfold State.readyTasks at hm
  rcases List.mem_append.mp hm with hm | hm
  · obtain ⟨_, _, he⟩ := List.mem_map.mp hm
    cases he
  · obtain ⟨j, hj, he⟩ := List.mem_filterMap.mp hm
    split at he
    · next hq =>
      split at he
      · cases he
        exact ⟨(mem_upto 64 n).mp hj, _, _, hq⟩
      · cases he
    · cases he

/-- The core without a task. -/
def Core.leave (k : Core) : Core := { k with busy := false, task := 255, prio := 0, job := false, stall := none }

/-- The core as the context `e` resumes, with `r` below it on the stack (R286). -/
def Core.resume (k : Core) (e : Ctx) (r : List Ctx) : Core :=
  { k with stack := r, pc := e.pc, flg := e.flg, cnt := e.cnt, job := e.job, prio := e.prio, task := e.task, busy := true, stall := none
           stampDue := e.due }

section
variable {s : State} {c : Fin 2}

theorem State.taskEnd_of_none (hr : s.bestReady c = none) (hs : (s.cr c).stack = []) : s.taskEnd c = s.setCore c Core.leave := by
  unfold State.taskEnd
  dsimp only
  rw [hs, hr]
  rfl

theorem State.taskEnd_of_top {e : Ctx} {r : List Ctx} (hs : (s.cr c).stack = e :: r) (hr : ∀ b, s.bestReady c = some b → b.1 ≤ e.prio) :
    s.taskEnd c = s.setCore c (fun k => k.resume e r) := by
  unfold State.taskEnd
  dsimp only
  rw [hs]
  cases hb : s.bestReady c with
  | none => rfl
  | some b =>
    have hle := hr b hb
    simp only [decide_eq_false (by omega : ¬e.prio < b.1)]
    rfl

theorem State.taskEnd_of_ready {prio n : Nat} {job : Bool} (hr : s.bestReady c = some (prio, job, n))
    (hs : ∀ e r, (s.cr c).stack = e :: r → e.prio < prio) : s.taskEnd c = s.startTask c (prio, job, n) := by
  unfold State.taskEnd
  dsimp only
  rw [hr]
  cases hst : (s.cr c).stack with
  | nil => rfl
  | cons e r =>
    simp only [decide_eq_true (hs e r hst)]

/-- What follows the end of a task: nothing, the context on top, or the best ready task. -/
theorem State.taskEnd_cases (s : State) (c : Fin 2) :
    (s.bestReady c = none ∧ (s.cr c).stack = []) ∨
    (∃ e r, (s.cr c).stack = e :: r ∧ ∀ b, s.bestReady c = some b → b.1 ≤ e.prio) ∨
    ∃ prio job n, s.bestReady c = some (prio, job, n) ∧ ∀ e r, (s.cr c).stack = e :: r → e.prio < prio := by
  cases hb : s.bestReady c with
  | none =>
    cases hs : (s.cr c).stack with
    | nil => exact .inl ⟨rfl, rfl⟩
    | cons e r => exact .inr (.inl ⟨e, r, rfl, fun b hx => by cases hx⟩)
  | some b =>
    obtain ⟨prio, job, n⟩ := b
    cases hs : (s.cr c).stack with
    | nil => exact .inr (.inr ⟨prio, job, n, rfl, fun e r hx => by cases hx⟩)
    | cons e r =>
      by_cases hp : e.prio < prio
      · exact .inr (.inr ⟨prio, job, n, rfl, fun e' r' hx => by cases hx; exact hp⟩)
      · exact .inr (.inl ⟨e, r, rfl, fun b hx => by cases hx; exact Nat.le_of_not_lt hp⟩)

end

/-- What the end of a task leaves of the state `s` in which core `c` found it, with what was best ready. -/
structure State.EndedTask (s t : State) (c : Fin 2) (best : Option (Nat × Bool × Nat)) : Prop where
  words : (t.cr c).w = (s.cr c).w
  idle : best = none → (s.cr c).stack = [] → (t.cr c).busy = false ∧ (t.cr c).task = 255
  resumed : ∀ e r, (s.cr c).stack = e :: r → (∀ b, best = some b → b.1 ≤ e.prio) →
    (t.cr c).stack = r ∧ t.ctxOf c (t.cr c).pc = e ∧ (t.cr c).busy = true ∧ t.frm.pend = s.frm.pend
  started : ∀ prio job n, best = some (prio, job, n) → (∀ e r, (s.cr c).stack = e :: r → e.prio < prio) →
    (t.cr c).pc = BitVec.ofNat 32 (s.fld (if job then F.frmJobpcPc n else F.frmEvtpcPc n)) ∧ (t.cr c).job = job ∧ (t.cr c).prio = prio ∧
    (t.cr c).task = (if job then n else 64 + n) ∧ (t.cr c).busy = true ∧ (t.cr c).stampDue = true ∧ (t.cr c).stack = (s.cr c).stack ∧
    (if job then nth t.frm.jobs n .idle = .running else nth t.frm.pend c 0 = nth s.frm.pend c 0 &&& ~~~(1#128 <<< n))
  otherJobs : ∀ j, (∀ b, best = some b → b.2 ≠ (true, j)) → nth t.frm.jobs j .idle = nth s.frm.jobs j .idle
  rest : s.keeps t [.core c, .jobs, .events]

/-- The end of a task by what follows it. -/
theorem State.taskEnd_ended (s : State) (c : Fin 2) : s.EndedTask (s.taskEnd c) c (s.bestReady c) := by
  rcases s.taskEnd_cases c with ⟨hb, hs⟩ | ⟨e, r, hs, hle⟩ | ⟨prio, job, n, hb, hlt⟩
  · have hk : (s.taskEnd c).cr c = (s.cr c).leave := by rw [State.taskEnd_of_none hb hs, State.cr_setCore_same]
    refine ⟨by rw [hk]; rfl, fun _ _ => by rw [hk]; exact ⟨rfl, rfl⟩, fun e r he _ => ?_, fun _ _ _ he _ => ?_, fun _ _ => ?_, ?_⟩
    · rw [hs] at he; cases he
    · rw [hb] at he; cases he
    · rw [State.taskEnd_of_none hb hs]; rfl
    · rw [State.taskEnd_of_none hb hs]
      exact State.keeps_mono (s.setCore_keeps c _) (by simp)
  · have hk : (s.taskEnd c).cr c = (s.cr c).resume e r := by rw [State.taskEnd_of_top hs hle, State.cr_setCore_same]
    have hf : (s.taskEnd c).frm = s.frm := by rw [State.taskEnd_of_top hs hle]; rfl
    refine ⟨by rw [hk]; rfl, fun _ hn => ?_, fun e' r' he _ => ?_, fun prio job n he hlt => ?_, fun _ _ => by rw [hf], ?_⟩
    · rw [hs] at hn; cases hn
    · rw [hs] at he
      cases he
      unfold State.ctxOf
      rw [hk, hf]
      exact ⟨rfl, rfl, rfl, rfl⟩
    · exact absurd (hle _ he) (Nat.not_le_of_gt (hlt e r hs))
    · rw [State.taskEnd_of_top hs hle]
      exact State.keeps_mono (s.setCore_keeps c _) (by simp)
  · rw [State.taskEnd_of_ready hb hlt, hb]
    obtain ⟨hbusy, hprio, hmode, htask, hpc, hstack, hwords, hrun, hhandled, hrest⟩ := s.startTask_started c prio job n
    refine ⟨hwords, fun hn => (by cases hn), fun e r he hle => ?_, fun prio' job' n' he _ => ?_, fun j hj => ?_, hrest⟩
    · exact absurd (hle _ rfl) (Nat.not_le_of_gt (hlt e r he))
    · cases he
      refine ⟨hpc, hmode, hprio, htask, hbusy, ?_, hstack, ?_⟩
      · rw [State.cr_startTask]; rfl
      · cases job
        · exact (s.pend_startTask_event c prio n).1
        · exact (s.jobs_startTask_job c prio (State.ready_of_best hb).1).1
    · cases job
      · rw [(s.pend_startTask_event c prio n).2]
      · exact nth_updN_other _ _ _ _ _ (fun e => hj _ rfl (by cases e; rfl))

/-- Retirement of the instruction that ended a task leaves what the end has made. -/
theorem State.EndedTask.ranTo {s u t : State} {c : Fin 2} {best : Option (Nat × Bool × Nat)} {i : NIns} {w : Vector TWord 32} {flg : BitVec 5}
    (h : s.EndedTask u c best) (hrep : i.pre.rep = false) (hw : w = (u.cr c).w) (hflg : flg = (u.cr c).flg)
    (hran : u.ranTo t c i w flg (u.cr c).pc) (hk : u.keeps t [.core c]) : s.EndedTask t c best := by
  have hcore : t.cr c = { u.cr c with ew := (u.cr c).w.map echoBits, stall := none, ech := (t.cr c).ech } := by
    unfold State.ranTo at hran
    rw [hrep, hw, hflg] at hran
    simpa using hran
  have hjobs : t.frm.jobs = u.frm.jobs ∧ t.frm.judged = u.frm.judged := hk.2 .jobs (by simp)
  have hpend : t.frm.pend = u.frm.pend := hk.2 .events (by simp)
  refine ⟨?_, fun hb hs => ?_, fun e r hs hle => ?_, fun prio job n hb hlt => ?_, fun j hj => ?_, State.keeps_trans h.rest hk⟩
  · rw [hcore]; exact h.words
  · rw [hcore]; exact h.idle hb hs
  · obtain ⟨hstack, hctx, hbusy, hp⟩ := h.resumed e r hs hle
    unfold State.ctxOf at hctx ⊢
    rw [hcore, hpend]
    exact ⟨hstack, hctx, hbusy, hp⟩
  · rw [hcore, hpend, hjobs.1]
    exact h.started prio job n hb hlt
  · rw [hjobs.1]
    exact h.otherJobs j hj

section
variable {s0 s : State} {c : Fin 2} {p : Phys} {i : NIns} (h : s0.issues c p i s) (is : NIns → Bool) (hi : is i = true) (f : NIns → State → Eff)
include h hi

/-- An instruction that ends the task of its core, from a state `b` that differs in jobs. -/
theorem State.instr_taskEnd {b : State} (hrep : i.pre.rep = false) (hb : b.cr c = s.cr c) (hk : s.keeps b [.jobs])
    (hf : f i s = .done (b.taskEnd c) (some ((b.taskEnd c).cr c).pc) []) :
    ∃ t, s0.instr c p is f = .next t ∧ b.EndedTask t c (b.bestReady c) := by
  have hend := b.taskEnd_ended c
  have hall : s.keeps (b.taskEnd c) [.core c, .jobs, .events] := State.keeps_trans hk hend.rest
  have hreg : (b.taskEnd c).reg F.dbgWpctlEn.addr = s.reg F.dbgWpctlEn.addr := hall.2 (.reg _) (by simp)
  have hsec : (b.taskEnd c).sec = s.sec := hall.2 .sec (by simp)
  obtain ⟨_, hwp, hstep, _⟩ := id h
  obtain ⟨hew, hhalt⟩ : ((b.taskEnd c).cr c).ew = ((b.taskEnd c).cr c).w.map echoBits ∧ ((b.taskEnd c).cr c).halt = (b.cr c).halt := by
    have hin : (b.cr c).ew = (b.cr c).w.map echoBits := by rw [hb]; exact h.inStep
    rcases b.taskEnd_cases c with ⟨hr, hs⟩ | ⟨e, r, hs, hle⟩ | ⟨prio, job, n, hr, hlt⟩
    · rw [State.taskEnd_of_none hr hs, State.cr_setCore_same]; exact ⟨hin, rfl⟩
    · rw [State.taskEnd_of_top hs hle, State.cr_setCore_same]; exact ⟨hin, rfl⟩
    · rw [State.taskEnd_of_ready hr hlt, State.cr_startTask]; exact ⟨hin, rfl⟩
  have hnorep : ¬i.pre.rep = true := by simp [hrep]
  obtain ⟨u, hu, hran, hkeeps⟩ := State.instr_from h is hi f (b := b.taskEnd c) hf (fun hr => absurd hr hnorep)
    (by unfold State.fld; rw [hreg]; exact hwp) (by rw [hhalt, hb]; exact hstep) (Core.eq_with rfl hew rfl) (by rw [hsec])
  rw [if_neg hnorep, Option.getD_some] at hran
  exact ⟨u, hu, hend.ranTo hrep rfl rfl hran hkeeps⟩

end

/-! ### FENCE, SEAL, WAITE and RETE -/

theorem State.sealAt_keeps (s : State) (n : Nat) : s.keeps { s with frm := { s.frm with sealAt := n } } [.frmRest] := by
  refine ⟨rfl, fun p hp => ?_⟩
  have h := s.same_refl p
  cases p with
  | frmRest => exact absurd (by simp) hp
  | _ => exact h

/-- SEAL of a core that SEALMASK names, before the deadline: its seal bit, and the time. -/
theorem State.sealBy_named {s : State} {c : Fin 2} (hcan : s.canonical) (hs : s.sealedCores.testBit c = false) (hd : s.pastDeadline = false)
    (hm : (s.fld F.frmSealmaskMask).testBit c = true) :
    (s.sealBy c).sealedCores = s.sealedCores ||| 2 ^ c.val ∧ (s.sealBy c).frm.sealAt = s.count ∧ (s.sealBy c).cr c = s.cr c ∧
      (s.sealBy c).sec = s.sec ∧ (s.sealBy c).fld F.dbgWpctlEn = s.fld F.dbgWpctlEn ∧
      s.keeps (s.sealBy c) [.core c, .reg F.frmSealedCores.addr, .frmRest] := by
  have hlt : s.sealedCores ||| 2 ^ c.val < 2 ^ 2 :=
    Nat.or_lt_two_pow (getBits_lt _ _ _) (Nat.pow_lt_pow_right (by decide) c.isLt)
  have hv : (s.setFld F.frmSealedCores (s.sealedCores ||| 2 ^ c.val)).fld F.frmSealedCores = s.sealedCores ||| 2 ^ c.val := by
    unfold State.fld State.setFld
    rw [State.reg_setReg_same _ _ _ hcan, getBits_setBits_same _ _ _ _ (by decide)]
    exact Nat.mod_eq_of_lt hlt
  have hwp := State.fld_setFld_other s F.frmSealedCores F.dbgWpctlEn (s.sealedCores ||| 2 ^ c.val) (by decide)
  unfold State.sealBy
  rw [hs, hd, hm]
  refine ⟨hv, rfl, rfl, rfl, hwp, State.keeps_trans (s.setFld_keeps F.frmSealedCores _) (State.sealAt_keeps _ _)⟩

/-- SEAL after the deadline: LATESEAL alone. -/
theorem State.sealBy_late {s : State} {c : Fin 2} (hs : s.sealedCores.testBit c = false) (hd : s.pastDeadline = true) :
    s.sealBy c = s.setBit F.frmStatLateseal := by
  unfold State.sealBy
  rw [hs, hd]
  rfl

/-- Settles O33: each effect retires from the state that it leaves; the ends of tasks by `State.taskEnd_ended`. -/
theorem taskInstructionsComplete : Obligations.TaskInstructionsComplete := by
  intro c p s0 s i h hrep hbuf
  have hnorep : ¬i.pre.rep = true := by simp [hrep]
  have hempty := State.emptied_of_empty hbuf
  obtain ⟨_, hwp, hstep, _⟩ := id h
  have hcore : s.cr c = { s.cr c with w := (s.cr c).w, ew := (s.cr c).w.map echoBits, flg := (s.cr c).flg } := Core.eq_with rfl h.inStep rfl
  refine ⟨fun hop => ?_, fun hop hcan hs hd hm => ?_, fun hop hs hd => ?_, fun hop hjob htask => ?_, fun hop hjob => ?_, fun hop hjob => ?_,
    fun hop hjob => ?_⟩
  · show ∃ t, execFence c p s0 = .next t ∧ _
    obtain ⟨t, ht, hran, hk⟩ : ∃ t, execFence c p s0 = .next t ∧ _ :=
      State.instr_core h _ (by simp [hop]) _ (g := fun x => { x with dirty := [], dirtyCustom := false })
      (nx := none) (acc := []) (by rw [hempty]; rfl) (fun hr => absurd hr hnorep) ⟨rfl, rfl, rfl, rfl⟩
    rw [if_neg hnorep] at hran
    exact ⟨t, ht, hran, hk⟩
  · show ∃ t, execSeal c p s0 = .next t ∧ _
    obtain ⟨hv, hat, hcr, hsec, hfld, hkeeps⟩ := State.sealBy_named hcan hs hd hm
    obtain ⟨t, ht, hran, hk⟩ : ∃ t, execSeal c p s0 = .next t ∧ _ :=
      State.instr_from h _ (by simp [hop]) _ (b := s) (t := s.sealBy c) (nx := none) (acc := [])
      (by rw [hempty]; rfl) (fun hr => absurd hr hnorep) (hfld.trans hwp) hstep (hcr.trans hcore) (congrArg Sec.rcvr hsec)
    rw [if_neg hnorep] at hran
    have hreg : t.reg F.frmSealedCores.addr = (s.sealBy c).reg F.frmSealedCores.addr := hk.2 (.reg _) (by simp)
    obtain ⟨hat', _⟩ := hk.2 .frmRest (by simp)
    refine ⟨t, ht, ?_, hat'.trans hat, hran, State.keeps_trans hkeeps hk⟩
    rw [← hv]
    unfold State.sealedCores State.fld
    rw [hreg]
  · show ∃ t, execSeal c p s0 = .next t ∧ _
    have hlate := State.sealBy_late hs hd
    obtain ⟨t, ht, hran, hk⟩ : ∃ t, execSeal c p s0 = .next t ∧ _ :=
      State.instr_from h _ (by simp [hop]) _ (b := s) (t := s.setBit F.frmStatLateseal)
      (nx := none) (acc := [])
      (by rw [hempty]; exact congrArg Eff.ok hlate) (fun hr => absurd hr hnorep)
      ((State.fld_setFld_other s _ _ _ (by decide)).trans hwp) hstep hcore rfl
    rw [if_neg hnorep] at hran
    have hreg : t.reg F.frmSealedCores.addr = (s.setBit F.frmStatLateseal).reg F.frmSealedCores.addr := hk.2 (.reg _) (by simp)
    refine ⟨t, ht, ?_, hran, State.keeps_trans (s.setFld_keeps F.frmStatLateseal 1) hk⟩
    unfold State.sealedCores State.fld
    rw [hreg]
    exact State.fld_setFld_other s F.frmStatLateseal F.frmSealedCores 1 (by decide)
  · show ∃ t, execWaite c p s0 = .next t ∧ _
    have hidle : nth (s.setJob (s.cr c).task .idle).frm.jobs (s.cr c).task .idle = .idle := nth_updN_same _ _ _ _ htask
    obtain ⟨t, ht, hend⟩ : ∃ t, execWaite c p s0 = .next t ∧ _ :=
      State.instr_taskEnd h _ (by simp [hop]) _ (b := s.setJob (s.cr c).task .idle) hrep rfl (s.setJob_keeps _ _)
      (by rw [hjob, if_neg (by decide), hempty]; rfl)
    have hnot : ∀ b, (s.setJob (s.cr c).task .idle).bestReady c = some b → b.2 ≠ (true, (s.cr c).task) := by
      rintro ⟨prio, job, n⟩ hb he
      cases he
      obtain ⟨_, k, q, hr⟩ := State.ready_of_best hb
      rw [hidle] at hr
      cases hr
    refine ⟨t, ht, ⟨hend.words, hend.idle, hend.resumed, hend.started⟩, (hend.otherJobs _ hnot).trans hidle, fun j hj hb => ?_,
      State.keeps_trans (s.setJob_keeps _ _) hend.rest⟩
    exact (hend.otherJobs j hb).trans (nth_updN_other _ _ _ _ _ (fun e => hj e.symm))
  · show ∃ t, execRete c p s0 = .next t ∧ _
    obtain ⟨t, ht, hend⟩ : ∃ t, execRete c p s0 = .next t ∧ _ :=
      State.instr_taskEnd h _ (by simp [hop]) _ (b := s) hrep rfl (State.keeps_refl _ _)
      (by rw [hjob, if_neg (by decide)])
    exact ⟨t, ht, ⟨hend.words, hend.idle, hend.resumed, hend.started⟩, hend.otherJobs, hend.rest⟩
  · show execWaite c p s0 = _
    exact State.instr_trap h _ (by simp [hop]) _ (by rw [hjob]; rfl)
  · show execRete c p s0 = _
    exact State.instr_trap h _ (by simp [hop]) _ (by rw [hjob]; rfl)

end Sys2Proof.Machine
end
section
/-!
PROOFS. SWT, BRK, bytes that spell no instruction, and trap entry (O34).
-/

namespace Sys2Proof.Machine

/-! ### Instructions that trap -/

/-- Bytes that spell no instruction, reached undisturbed, trap (R319). -/
theorem exec_illegalInstruction {s0 s : State} {c : Fin 2} {p : Phys} {n : Nat} (h : s0.reaches c p (.ill n) s) :
    exec (.illegalInstruction c p) s0 = .next (s.trapEnter c 0 0 (s.cr c).pc) := by
  show execIllegalInstruction c p s0 = _
  have hat := State.issueAt_of_reaches h
    (fun t => t.course c p { op := 0xFF, len := 0, pre := { single := (s0.settledStream c).singleHere c n } } (fun t => .trap 0 0 t))
  obtain ⟨hinstr, hstall, hdec, hfetch, _, hp, _, hin⟩ := h
  have hnone := State.fetchTrap_none hfetch
  unfold execIllegalInstruction State.issueHere
  simp only [hinstr, hstall, hdec, hnone, Bool.not_true, Bool.or_self, Bool.false_eq_true, if_false]
  exact hat.trans (State.course_of_sound hp hin (fun hr => Bool.noConfusion hr) _)

/-! ### Trap entry -/

/-- Trap entry before the fetch from the vector (R292). -/
def State.trapped (s : State) (c : Fin 2) (cause : Nat) (tval pc : Word) : State := s.setCore c (fun x => { x with
  stack := s.ctxOf c pc :: x.stack, tcause := cause, tval := tval, job := false, pc := (s.cr c).tvb + BitVec.ofNat 32 (16 * cause), stall := none
  stampDue := true, ech := { x.ech with miss := false } })

section
variable (s : State) (c : Fin 2) (cause : Nat) (tval pc : Word)

/-- With room on the stack, trap entry is what the fetch from the vector makes of it. -/
theorem State.trapEnter_of_room {r : Bool × State} (h : (s.cr c).stack.length < 32)
    (hr : (s.trapped c cause tval pc).vectorFetch c ((s.cr c).tvb + BitVec.ofNat 32 (16 * cause)).toNat = r) :
    s.trapEnter c cause tval pc = if r.1 then r.2.doubleTrap c else r.2.raiseSource (10 + c) := by
  subst hr
  unfold State.trapEnter
  dsimp only
  rw [if_neg (by omega)]
  rfl

theorem State.trapEnter_of_full (h : 32 ≤ (s.cr c).stack.length) : s.trapEnter c cause tval pc = s.doubleTrap c := by
  unfold State.trapEnter
  dsimp only
  rw [if_pos h]

theorem State.trapped_keeps : s.keeps (s.trapped c cause tval pc) [.core c] := s.setCore_keeps c _

end

/-! ### The fetch from the vector -/

section
variable {s : State} {c : Fin 2} {a : Nat}

/-- Nothing stands in the way of a fetch outside the Granary. -/
theorem State.vectorFetch_outside (hm : s.mayFetch c a = true) (hg : inGranary a = false) (he : s.eccAt a = .clean) :
    s.vectorFetch c a = (false, s) := by
  unfold State.vectorFetch State.fetchCheck State.inLocked
  simp [hm, hg, he]

/-- A word with an error in the near instruction store. -/
theorem State.vectorFetch_error (hm : s.mayFetch c a = true) (hn : inStore (nearI c) a = true) (hg : inGranary a = false) (he : s.eccAt a ≠ .clean) :
    s.vectorFetch c a = (true, s.raiseSource 15) := by
  unfold State.vectorFetch State.fetchCheck State.inLocked
  simp [hm, hg, hn, he]

theorem State.vectorFetch_barred (hm : s.mayFetch c a = false) (hg : inGranary a = false) : s.vectorFetch c a = (true, s) := by
  unfold State.vectorFetch
  simp [hm, hg]

theorem State.vectorFetch_wakeFails (hm : s.mayFetch c a = true) (hg : inGranary a = true) (hw : s.wakeFails a = true) :
    s.vectorFetch c a = (true, s.wakeFailed (bankOf a)) := by
  unfold State.vectorFetch
  simp [hm, hg, hw]

theorem State.vectorFetch_sleeping (hm : s.mayFetch c a = true) (hg : inGranary a = true) (ho : s.domOn (16 + bankOf a) = false)
    (hw : s.wakeFails a = false) : s.vectorFetch c a = (false, s) := by
  unfold State.vectorFetch
  simp [hm, hg, ho, hw]

/-- A clean word read by a requester is found clean and reports nothing. -/
theorem State.readWord_clean (who : Nat) (hg : inGranary a = true) (he : s.eccAt a = .clean) :
    s.readWord who (bankOf a) (wordOf a) .clean = (.clean, s.mread (grnAddr (bankOf a) (wordOf a)), s) := by
  have ha : s.eccOf .clean (grnAddr (bankOf a) (wordOf a)) = .clean := by
    unfold State.eccOf State.eccAt
    rw [grnAddr_word hg]
    exact he
  unfold State.readWord State.resolved State.checkedFor State.checked State.delivered
  rw [ha]
  simp

/-- A turn at the lane of a bank with no access waiting only marks the lane. -/
theorem State.laneTurn_of_idle (hw : (s.gbank (bankOf a)).wait = []) (who : Nat) :
    ∃ u, s.laneTurn who a = u ∧ s.keeps u [.gbank (bankOf a)] := by
  unfold State.laneTurn
  rw [State.laneServe_of_idle hw]
  exact ⟨_, rfl, s.setGbank_keeps _ _⟩

/-- A fetch from a bank that is ON with no access waiting takes its turn at the lane alone. -/
theorem State.vectorFetch_granary (hm : s.mayFetch c a = true) (hg : inGranary a = true) (ho : s.domOn (16 + bankOf a) = true)
    (hw : (s.gbank (bankOf a)).wait = []) (he : s.eccAt a = .clean) :
    ∃ u, s.vectorFetch c a = (false, u) ∧ u.cr c = s.cr c ∧ s.keeps u [.gbank (bankOf a)] := by
  have hf : s.wakeFails a = false := by unfold State.wakeFails; rw [ho]; rfl
  by_cases hl : s.inLocked a = true
  · exact ⟨s, by unfold State.vectorFetch State.fetchCheck; simp [hm, hg, ho, hf, hl], rfl, State.keeps_refl _ _⟩
  · obtain ⟨u, hu, hk⟩ := State.laneTurn_of_idle hw c.val
    have hpin : u.pin (.ecc (a / 4 * 4)) = s.pin (.ecc (a / 4 * 4)) := hk.2 (.pin _) (by simp)
    have hread := State.readWord_clean c.val hg (show u.eccAt a = .clean by unfold State.eccAt; rw [hpin]; exact he)
    refine ⟨u, ?_, hk.2 (.core c) (by simp), hk⟩
    unfold State.vectorFetch State.fetchCheck
    simp [hm, hg, ho, hf, hl, hu, hread]

end

theorem inGranary_of_nearI {c : Fin 2} {a : Nat} (h : inStore (nearI c) a = true) : inGranary a = false := by
  have hc := c.isLt
  have hlt : a < nearI c + 0x10000 := of_decide_eq_true (Bool.and_eq_true_iff.mp h).2
  unfold nearI at hlt
  unfold inGranary
  rw [decide_eq_false (by omega : ¬0x10000000 ≤ a), Bool.false_and]

/-- Settles O34: the three commands by their effect, trap entry by the fetch from the vector. -/
theorem trapsEnter : Obligations.TrapsEnter := by
  refine ⟨fun c p s0 s i h hrep => ⟨fun hop => ?_, fun hop hb => ?_, fun hop hb => ?_⟩, fun c p s0 s n h => exec_illegalInstruction h,
    fun c cause tval pc s hroom => ?_, fun c cause tval pc s hfull => ?_⟩
  · show execSwt c p s0 = _
    exact State.instr_trap h _ (by simp [hop]) _ rfl
  · show execBrk c p s0 = _
    exact State.instr_trap h _ (by simp [hop]) _ (by rw [hb]; rfl)
  · show execBrk c p s0 = _
    refine (State.instr_of_issues h _ (by simp [hop]) _).trans ?_
    rw [hb]
    rfl
  · have henter := fun r => State.trapEnter_of_room s c cause tval pc (r := r) hroom
    have hkeeps := s.trapped_keeps c cause tval pc
    have hcore := s.cr_setCore_same c
    refine ⟨fun hm hg he => ?_, fun hm hg ho hw he => ?_, fun hm hg ho hw => ?_, fun hm hg hw => ?_, fun hm hn he => ?_, fun hm hg => ?_⟩
    · exact ⟨_, henter _ (State.vectorFetch_outside hm hg he), hcore _, hkeeps⟩
    · obtain ⟨u, hu, hcr, hk⟩ := State.vectorFetch_granary (s := s.trapped c cause tval pc) hm hg ho hw he
      exact ⟨u, henter _ hu, hcr.trans (hcore _), State.keeps_trans hkeeps hk⟩
    · exact ⟨_, henter _ (State.vectorFetch_sleeping hm hg ho hw), hcore _, hkeeps⟩
    · exact ⟨_, henter _ (State.vectorFetch_wakeFails hm hg hw), hcore _, hkeeps⟩
    · exact ⟨_, henter _ (State.vectorFetch_error hm hn (inGranary_of_nearI hn) he), hcore _, hkeeps⟩
    · refine ⟨(s.trapped c cause tval pc).setCore c (fun k => { k with halt := { k.halt with trap := true } }),
        henter _ (State.vectorFetch_barred hm hg), ?_, State.keeps_trans hkeeps (State.setCore_keeps _ c _)⟩
      rw [State.cr_setCore_same]
      unfold State.trapped
      rw [State.cr_setCore_same]
  · exact ⟨s.setCore c (fun k => { k with halt := { k.halt with trap := true } }), s.trapEnter_of_full c cause tval pc hfull,
      s.cr_setCore_same c _, s.setCore_keeps c _⟩

end Sys2Proof.Machine
end
section
/-!
PROOFS. Moves, stamps, tag tests and special registers (O35).
-/

namespace Sys2Proof.Machine

/-! ### The length of an instruction (R318) -/

/-- After at most three prefixes an opcode with what follows it ends within 15 bytes. -/
theorem decodeBody_len {get : Nat → Nat} {p : Nat} {pre : Prefixes} {i : NIns} (h : decodeBody get p pre = .ins i) (hp : p ≤ 3) : i.len ≤ 15 := by
  unfold decodeBody at h
  dsimp only at h
  split at h
  · split at h <;> cases h
    show p + 1 ≤ 15
    omega
  split at h
  · have two : p + 2 ≤ 15 := by omega
    split at h
    · cases h
      exact two
    split at h
    · split at h <;> cases h
      exact two
    split at h <;> cases h
    exact two
  split at h
  · split at h <;> cases h
    show p + 3 ≤ 15
    omega
  generalize p + 2 + _ = n at h
  split at h
  · cases h
  · next hn =>
    have hn15 : n ≤ 15 := Nat.le_of_not_lt fun hlt => hn (.inl hlt)
    split at h
    · cases h
      exact hn15
    split at h <;> cases h
    exact hn15

/-- An instruction with its prefixes. -/
theorem decodePrefixes_len {get : Nat → Nat} {cl : Nat → Option Nat} {i : NIns} (k p : Nat) (pre : Prefixes)
    (h : decodePrefixes get cl k p pre = .ins i) (hp : p + k ≤ 4) : i.len ≤ 15 := by
  induction k generalizing p pre with
  | zero => cases h
  | succ k ih =>
    have more : ∀ (twice : Bool) (q : Prefixes),
        (if twice then Decoded.ill (p + 1) else decodePrefixes get cl k (p + 1) q) = .ins i → i.len ≤ 15 := by
      intro twice q hq
      cases twice
      · exact ih (p + 1) q hq (by omega)
      · cases hq
    unfold decodePrefixes at h
    dsimp only at h
    split at h
    · exact decodeBody_len h (by omega)
    split at h
    · cases h
    split at h
    · exact more _ _ h
    · exact more _ _ h
    · exact more _ _ h
    · exact more _ _ h
    · exact more _ _ h
    · split at h
      · cases h
      · split at h
        · cases h
        · next hn =>
          split at h <;> cases h
          · exact Nat.le_of_not_lt hn
          · exact Nat.le_of_not_lt hn
    · cases h

theorem decodeAt_len {get : Nat → Nat} {cl : Nat → Option Nat} {i : NIns} (h : decodeAt get cl = .ins i) : i.len ≤ 15 := by
  unfold decodeAt at h
  split at h
  · next j hj =>
    split at h <;> cases h
    exact decodePrefixes_len 4 0 {} hj (by decide)
  · next hd => exact decodePrefixes_len 4 0 {} h (by decide)

/-! ### The fetch outside the Granary -/

/-- Words outside the Granary that are all delivered report nothing. -/
theorem State.fetchChecks_outside {s : State} {c : Fin 2} {l : List Nat} (h : ∀ a ∈ l, inGranary a = false) (hn : (s.fetchChecks c l).1 = none) :
    (s.fetchChecks c l).2 = s := by
  induction l with
  | nil => rfl
  | cons a l ih =>
    have ha := h a (by simp)
    unfold State.fetchChecks at hn ⊢
    have hcheck : s.fetchCheck c a = (true, s) ∨ (s.fetchCheck c a).1 = false := by
      unfold State.fetchCheck State.inLocked
      rw [ha]
      by_cases hb : (inStore (nearI c) a && s.eccAt a != .clean) = true <;> simp [hb]
    rcases hcheck with hc | hc
    · simp only [hc, if_true] at hn ⊢
      exact ih (fun b hb => h b (by simp [hb])) hn
    · simp [hc] at hn

/-- The bytes of a shorter instruction are among those of a longer one. -/
theorem State.mem_fetchBytes_mono {s : State} {c : Fin 2} {m n a : Nat} (hmn : m ≤ n) (h : a ∈ s.fetchBytes c m) : a ∈ s.fetchBytes c n := by
  obtain ⟨o, ho, he⟩ := List.mem_map.mp h
  exact List.mem_map.mpr ⟨o, (mem_upto n o).mpr (Nat.lt_of_lt_of_le ((mem_upto m o).mp ho) hmn), he⟩

/-- Outside the Granary an instruction runs in the state that it finds, the entry stamp apart. -/
theorem State.issues_outside {s0 s : State} {c : Fin 2} {p : Phys} {i : NIns} (h : s0.issues c p i s)
    (hout : (s0.fetchBytes c 15).any inGranary = false) : s = s0.stampCore c := by
  have hset := State.settledStream_outside hout
  obtain ⟨⟨_, _, hdec, ⟨_, _, _, hchecks, _⟩, _, _, hs, _⟩, _⟩ := h
  rw [hset] at hdec hchecks
  have hlen : i.len ≤ 15 := decodeAt_len hdec
  rw [hs]
  unfold State.fetched
  dsimp only
  rw [hset]
  congr 1
  refine State.fetchChecks_outside (fun a ha => ?_) hchecks
  have hmem : a ∈ s0.fetchBytes c i.len := (List.mem_filter.mp ha).1
  have hall := List.any_eq_false.mp hout a (State.mem_fetchBytes_mono hlen hmem)
  simpa using hall

theorem State.stampCore_of_due {s : State} {c : Fin 2} (h : (s.cr c).stampDue = true) :
    s.stampCore c = s.setCore c (fun k => { k with stampT := s.stamp, stampNs := s.nsNow, stampDue := false }) := if_pos h

theorem State.stampCore_of_notDue {s : State} {c : Fin 2} (h : (s.cr c).stampDue = false) : s.stampCore c = s := if_neg (by simp [h])

/-! ### Operands and results -/

/-- An operand of an accepted tag, which raises no NILUSE. -/
def Src.passes (x : Src) : Prop := x.ok x.w.tag = true ∧ (x.nilUse = true → x.w.tag ≠ Tag.nil)

/-- Operands that pass stop nothing. -/
theorem operandStop_pass {tagx : Bool} {s : State} {l : List Src} (h : ∀ x ∈ l, x.passes) : operandStop tagx s l = none := by
  have h1 : l.find? (fun x => x.nilUse && x.w.tag == Tag.nil) = none := by
    rw [List.find?_eq_none]
    intro x hx hn
    obtain ⟨hu, ht⟩ := Bool.and_eq_true_iff.mp hn
    exact (h x hx).2 hu (beq_iff_eq.mp ht)
  have h2 : l.find? (fun x => !x.ok x.w.tag && !(tagx && x.uniq)) = none := by
    rw [List.find?_eq_none]; intro x hx; simp [(h x hx).1]
  unfold operandStop
  rw [h1, h2]

theorem withOperands_pass {tagx : Bool} {s : State} {l : List Src} (h : ∀ x ∈ l, x.passes) (k : Eff) : withOperands tagx s l k = k := by
  unfold withOperands
  rw [operandStop_pass h]
  rfl

theorem whole_passes {w : TWord} {pos : Nat} (h : w.tag ≠ Tag.reserved) : (whole w pos).passes :=
  ⟨bne_iff_ne.mpr h, fun hn => Bool.noConfusion hn⟩

/-- A whole word passes unless its tag is 0xF. -/
theorem withOperands_whole {tagx : Bool} {s : State} {w : TWord} {pos : Nat} (h : w.tag ≠ Tag.reserved) (k : Eff) :
    withOperands tagx s [whole w pos] k = k := by
  refine withOperands_pass (fun x hx => ?_) _
  obtain rfl := List.mem_singleton.mp hx
  exact whole_passes h

section
variable {s0 s : State} {c : Fin 2} {p : Phys} {i : NIns} (h : s0.issues c p i s) (is : NIns → Bool) (hi : is i = true) (f : NIns → State → Eff)
include h hi

/-- One word register, or a pair of them, and nothing else. -/
theorem State.instr_wrotePair {v v2 : TWord} {acc : List (Nat × Option TWord)} (hf : f i s = .done (s.writePair c i v v2) none acc) :
    ∃ t, s0.instr c p is f = .next t ∧ s.wrotePair t c i v v2 := by
  have hc : (s.writePair c i v v2).cr c = { s.cr c with w := (s.cr c).putPair i v v2, ew := ((s.cr c).putPair i v v2).map echoBits } := by
    unfold State.writePair Core.putPair
    by_cases hw : i.pre.wide = true
    · simp only [hw, if_true]
      rw [State.cr_setW (State.setW_inStep h.inStep _ _), State.cr_setW h.inStep]
      rfl
    · simp only [hw, Bool.false_eq_true, if_false]
      exact State.cr_setW h.inStep _ _
  have hk : s.keeps (s.writePair c i v v2) [.core c] := by
    unfold State.writePair
    by_cases hw : i.pre.wide = true
    · simp only [hw, if_true]
      exact State.keeps_trans (s.setW_keeps c _ _) (State.setW_keeps _ c _ _)
    · simp only [hw, Bool.false_eq_true, if_false]
      exact s.setW_keeps c _ _
  have hfld : (s.writePair c i v v2).fld F.dbgWpctlEn = s.fld F.dbgWpctlEn := by
    unfold State.writePair
    dsimp only
    split <;> simp
  obtain ⟨u, hu, hran, hkeeps⟩ := State.instr_done h is hi f hf hfld _ _ hc hk (by simp) (by simp)
  exact ⟨u, hu, by simpa using hran, hkeeps⟩

/-- FLG takes a value, and nothing else changes. -/
theorem State.instr_wentTo {flg : BitVec 5} (hf : f i s = .ok (s.setFlg c flg)) :
    ∃ t, s0.instr c p is f = .next t ∧ s.wentTo t c i (s.cr c).w flg (s.nextPc c i) := by
  obtain ⟨t, ht, hran, hk⟩ := State.instr_flg h is hi f hf
  exact ⟨t, ht, by simpa using hran, hk⟩

/-- Nothing but the PC changes. -/
theorem State.instr_passed (hf : f i s = .ok s) : ∃ t, s0.instr c p is f = .next t ∧ s.wentTo t c i (s.cr c).w (s.cr c).flg (s.nextPc c i) := by
  have hself : s.setFlg c (s.cr c).flg = s := State.setCore_self rfl
  exact State.instr_wentTo h is hi f (by rw [hself]; exact hf)

/-- Other fields of the core than the registers, FLG and PC, and CNT in no repetition. -/
theorem State.instr_setCore {g : Core → Core} (hf : f i s = .ok (s.setCore c g))
    (hrep : i.pre.rep = true → (g (s.cr c)).pc = (s.cr c).pc ∧ (g (s.cr c)).cnt = (s.cr c).cnt)
    (hg : (g (s.cr c)).w = (s.cr c).w ∧ (g (s.cr c)).ew = (s.cr c).ew ∧ (g (s.cr c)).flg = (s.cr c).flg ∧ (g (s.cr c)).halt = (s.cr c).halt) :
    ∃ t, s0.instr c p is f = .next t ∧ s.keeps t [.core c] ∧ (s.setCore c g).ranTo t c i (s.cr c).w (s.cr c).flg (s.nextPc c i) := by
  obtain ⟨t, ht, hran, hk⟩ := State.instr_core h is hi f hf hrep hg
  exact ⟨t, ht, hk, by simpa using hran⟩

end

/-! ### The special registers -/

/-- A core changed by its value alone. -/
theorem State.setCore_eq {s : State} {c : Fin 2} {f g : Core → Core} (h : f (s.cr c) = g (s.cr c)) : s.setCore c f = s.setCore c g := by
  unfold State.setCore Machine.upd
  unfold State.cr at h
  rw [h]

/-- CNT written inside REP is lost: the repetition counts from what CNT was (R336). -/
theorem State.settle_cnt {s : State} {c : Fin 2} {i : NIns} (hrep : i.pre.rep = true) (e : Bool) (n : Word) :
    s.settle c i e (.ok (s.setCore c (fun k => { k with cnt := n }))) = s.settle c i e (.ok s) := by
  unfold State.settle Eff.ok
  dsimp only
  have hv : (s.setCore c (fun k => { k with cnt := n })).sec.rcvr = s.sec.rcvr := rfl
  rw [hv, Bool.and_not_self, if_neg Bool.false_ne_true, if_neg Bool.false_ne_true, if_pos hrep, if_pos hrep]
  unfold State.setCore Machine.upd
  simp

/-- The effect of MTS (R282, R284, R342). -/
def mtsEffect (c : Fin 2) (i : NIns) (s : State) : Eff :=
  let t := if i.d = 5 then Tag.ptr else if i.d = 8 then Tag.code else Tag.nat
  if (i.d = 5 ∨ i.d = 8) ∧ (s.cr c).job = true then .trap 6 0 s
  else withOperands i.pre.tagx s [one (s.w c i.a) t 0] (.ok (if i.d = 0 ∧ i.nf = true then s else s.setSpecial c i.d (s.w c i.a).val))

theorem execMts_eq (c : Fin 2) (p : Phys) (s : State) : execMts c p s = s.instr c p (fun i => i.op == 0x9F) (mtsEffect c) := rfl

/-- MTS of a word of the register's tag, in a mode that may write the register (R282, R284). -/
theorem mtsEffect_of_accepted {s : State} {c : Fin 2} {i : NIns} {n : Nat} {t : Tag} (hd : i.d = n) (ht : (s.w c i.a).tag = t)
    (hn : (if n = 5 then Tag.ptr else if n = 8 then Tag.code else Tag.nat) = t) (hm : n = 5 ∨ n = 8 → (s.cr c).job = false) :
    mtsEffect c i s = .ok (if n = 0 ∧ i.nf = true then s else s.setSpecial c n (s.w c i.a).val) := by
  subst hd
  unfold mtsEffect
  dsimp only
  have hnil : t ≠ Tag.nil := by
    rw [← hn]
    split
    · decide
    · split <;> decide
  rw [hn, withOperands_one ht hnil, if_neg]
  rintro ⟨h58, hjob⟩
  rw [hm h58] at hjob
  cases hjob

/-- Settles O35: each instruction by what it writes; the first clause by the fetch outside the Granary. -/
theorem movesAndSpecialRegistersComplete : Obligations.MovesAndSpecialRegistersComplete := by
  refine ⟨fun c p s0 s i hout h => ?_, fun c p s0 s i h => ⟨fun hop ha ha2 => ?_, fun hop => ?_, fun hop => ?_, fun hop => ?_, fun hop => ?_,
    fun hop ha => ?_, fun hop ha => ?_, fun hop => ?_, fun hop ha => ?_, fun hop => ⟨fun hd ha => ?_, fun hd ha hrep => ?_, fun hd ha hj => ?_,
      fun e r hd ha hj hs => ?_, fun hd hj => ?_⟩⟩⟩
  · obtain rfl := State.issues_outside h hout
    cases hdue : (s0.cr c).stampDue
    · rw [State.stampCore_of_notDue hdue]
      exact ⟨hdue, State.keeps_refl _ _, fun _ => rfl, fun hn => Bool.noConfusion hn⟩
    · rw [State.stampCore_of_due hdue, State.cr_setCore_same]
      exact ⟨rfl, s0.setCore_keeps c _, fun hn => Bool.noConfusion hn, fun _ => ⟨rfl, rfl⟩⟩
  · show ∃ t, execMov c p s0 = .next t ∧ _
    refine State.instr_wrotePair h _ (by simp [hop]) _ (withOperands_pass (fun x hx => ?_) _)
    rcases List.mem_cons.mp hx with rfl | hx
    · exact whole_passes ha
    · split at hx
      · next hw =>
        obtain rfl := List.mem_singleton.mp hx
        exact whole_passes (ha2 hw)
      · cases hx
  · show ∃ t, execMovi c p s0 = .next t ∧ _
    exact State.instr_wroteReg h _ (by simp [hop]) _ rfl
  · show ∃ t, execAdr c p s0 = .next t ∧ _
    exact State.instr_wroteReg h _ (by simp [hop]) _ rfl
  · show ∃ t, execTstamp c p s0 = .next t ∧ _
    exact State.instr_wrotePair h _ (by simp [hop]) _ rfl
  · show ∃ t, execNow c p s0 = .next t ∧ _
    exact State.instr_wrotePair h _ (by simp [hop]) _ rfl
  · show ∃ t, execTagof c p s0 = .next t ∧ _
    exact State.instr_wroteReg h _ (by simp [hop]) _ (withOperands_whole ha _)
  · show ∃ t, execTtest c p s0 = .next t ∧ _
    cases hnf : i.nf
    · exact State.instr_wentTo h _ (by simp [hop]) _ ((withOperands_whole ha _).trans (by rw [hnf]; rfl))
    · exact State.instr_passed h _ (by simp [hop]) _ ((withOperands_whole ha _).trans (by rw [hnf]; rfl))
  · show ∃ t, execSetcnt c p s0 = .next t ∧ _
    cases hr : i.pre.rep
    · exact State.instr_setCore h _ (by simp [hop]) _ rfl (fun hn => by rw [hr] at hn; cases hn) ⟨rfl, rfl, rfl, rfl⟩
    · obtain ⟨t, ht, hran, hk⟩ := State.instr_passed h (fun _ => true) rfl (fun _ s => .ok s) rfl
      refine ⟨t, ((State.instr_of_issues h _ (by simp [hop]) _).trans (State.settle_cnt hr _ _)).trans ?_, hk, hran⟩
      exact (State.instr_of_issues h (fun _ => true) rfl (fun _ s => .ok s)).symm.trans ht
  · show ∃ t, execMfs c p s0 = .next t ∧ _
    exact State.instr_wrotePair h _ (by simp [hop]) _ rfl
  · show ∃ t, execMts c p s0 = .next t ∧ _
    rw [execMts_eq]
    have hmts := mtsEffect_of_accepted hd ha rfl (fun hn => by omega)
    cases hnf : i.nf
    · exact State.instr_wentTo h _ (by simp [hop]) _ (hmts.trans (by rw [hnf]; rfl))
    · exact State.instr_passed h _ (by simp [hop]) _ (hmts.trans (by rw [hnf]; rfl))
  · show ∃ t, execMts c p s0 = .next t ∧ _
    rw [execMts_eq]
    have hmts := mtsEffect_of_accepted hd ha rfl (fun hn => by omega)
    exact State.instr_setCore h _ (by simp [hop]) _ hmts (fun hn => by rw [hrep] at hn; cases hn) ⟨rfl, rfl, rfl, rfl⟩
  · show ∃ t, execMts c p s0 = .next t ∧ _
    rw [execMts_eq]
    have hmts := mtsEffect_of_accepted hd ha rfl (fun _ => hj)
    exact State.instr_setCore h _ (by simp [hop]) _ hmts (fun _ => ⟨rfl, rfl⟩) ⟨rfl, rfl, rfl, rfl⟩
  · show ∃ t, execMts c p s0 = .next t ∧ _
    rw [execMts_eq]
    have hmts := mtsEffect_of_accepted hd ha rfl (fun _ => hj)
    have hset : s.setSpecial c 8 (s.w c i.a).val = s.setCore c (fun x => { x with stack := { e with pc := (s.w c i.a).val } :: r }) :=
      State.setCore_eq (by simp only [hs])
    exact State.instr_setCore h _ (by simp [hop]) _ (hmts.trans (congrArg Eff.ok hset)) (fun _ => ⟨rfl, rfl⟩) ⟨rfl, rfl, rfl, rfl⟩
  · show execMts c p s0 = _
    rw [execMts_eq]
    exact State.instr_trap h _ (by simp [hop]) _ (if_pos ⟨hd, hj⟩)

end Sys2Proof.Machine
end
section
/-!
PROOFS. Loads and stores (O36): accesses to the own near data store, accesses elsewhere, and what stops them.
-/

namespace Sys2Proof.Machine

/-! ### The own near data store (R298, R305) -/

section
variable {c : Fin 2} {a : Nat}

theorem regionOf_nearD (h : inStore (nearD c) a = true) : regionOf a = .nearD c := by
  have bounds := Bool.and_eq_true_iff.mp h
  have hge : nearD c ≤ a := of_decide_eq_true bounds.1
  have hlt : a < nearD c + 0x10000 := of_decide_eq_true bounds.2
  unfold nearD at hge hlt
  have hcase : c = 0 ∨ c = 1 := by omega
  have hI0 : ¬inStore (nearI 0) a = true := fun hn => by
    have := of_decide_eq_true (Bool.and_eq_true_iff.mp hn).2
    unfold nearI at this
    omega
  have hI1 : ¬inStore (nearI 1) a = true := fun hn => by
    have hn' := Bool.and_eq_true_iff.mp hn
    have hlo := of_decide_eq_true hn'.1
    have hhi := of_decide_eq_true hn'.2
    unfold nearI at hlo hhi
    rcases hcase with rfl | rfl
    · simp at hlt; omega
    · simp at hge; omega
  unfold regionOf
  rw [if_neg (by omega), if_neg hI0, if_neg hI1]
  rcases hcase with rfl | rfl
  · exact if_pos h
  · refine (if_neg ?_).trans (if_pos h)
    · intro hn
      have := of_decide_eq_true (Bool.and_eq_true_iff.mp hn).2
      unfold nearD at this
      simp at hge
      omega

theorem inGranary_of_nearD (h : inStore (nearD c) a = true) : inGranary a = false := by
  have hlt : a < nearD c + 0x10000 := of_decide_eq_true (Bool.and_eq_true_iff.mp h).2
  have hc := c.isLt
  unfold nearD at hlt
  unfold inGranary
  rw [decide_eq_false (by omega : ¬0x10000000 ≤ a), Bool.false_and]

/-- The two near stores of a core lie apart. -/
theorem nearI_of_nearD (h : inStore (nearD c) a = true) : inStore (nearI c) a = false := by
  have hge : nearD c ≤ a := of_decide_eq_true (Bool.and_eq_true_iff.mp h).1
  unfold nearD at hge
  unfold inStore
  rw [decide_eq_false (by unfold nearI; omega : ¬a < nearI c + 0x10000), Bool.and_false]

/-- The second word of an aligned pair lies in the store that the first lies in. -/
theorem State.nearHome_next {s : State} (h : s.nearHome c a) (h8 : a % 8 = 0) : s.nearHome c (a + 4) := by
  obtain ⟨hin, _, hlock, hon⟩ := h
  have bounds := Bool.and_eq_true_iff.mp hin
  have hge : nearD c ≤ a := of_decide_eq_true bounds.1
  have hlt : a < nearD c + 0x10000 := of_decide_eq_true bounds.2
  refine ⟨?_, by omega, hlock, hon⟩
  unfold nearD at hge hlt
  unfold inStore nearD
  rw [Bool.and_eq_true, decide_eq_true_eq, decide_eq_true_eq]
  omega

theorem supOnly_nearD (c : Fin 2) : (Region.nearD c).supOnly (.core c) = false := by
  show (c.val != c.val) = false
  simp

theorem State.barred_nearHome {s : State} (h : s.nearHome c a) : s.barred c a = false := by
  obtain ⟨hin, _⟩ := h
  unfold State.barred
  rw [regionOf_nearD hin, supOnly_nearD, Bool.false_and]

end

/-- What a load waits for before its access (R301). -/
def State.loadReady (s : State) (c : Fin 2) (a : Nat) : Except Eff State :=
  if (regionOf a).buffers || decide (a % 4 ≠ 0) then .ok s else s.emptied c

/-- With an empty store buffer it waits for nothing. -/
theorem State.loadReady_of_empty {s : State} {c : Fin 2} (h : (s.cr c).buf = []) (a : Nat) : s.loadReady c a = .ok s := by
  unfold State.loadReady
  split
  · rfl
  · exact State.emptied_of_empty h

section
variable {s : State} {c : Fin 2} {a : Nat} {tagx : Bool} (hr : s.loadReady c a = .ok s)
include hr

/-- A buffered store to the word is delivered. -/
theorem State.loadWord_of_buffered {v : TWord} (hb : s.buffered c a = some v)
    (hown : ((regionOf a).buffers && a % 4 == 0 && !((regionOf a).supOnly (.core c) && !!(s.cr c).job) &&
      (!inGranary a || s.mayUse c.val (bankOf a))) = true)
    (hn : ∀ k, regionOf a ≠ .nearI k) : s.loadWord c tagx a = .ok (v, s) := by
  unfold State.loadReady at hr
  unfold State.loadWord
  dsimp only
  rw [hr]
  dsimp only
  rw [hb]
  dsimp only
  rw [if_pos hown]
  dsimp only
  split
  · next k hk => exact absurd hk (hn k)
  · rfl

/-- Else the word is loaded. -/
theorem State.loadWord_of_ok {v : TWord} {u : State} (hb : s.buffered c a = none)
    (hl : s.loadAddr (.core c) (!(s.cr c).job) a .clean = .ok v u) (ht : v.tag ≠ Tag.reserved) : s.loadWord c tagx a = .ok (v, u) := by
  unfold State.loadReady at hr
  unfold State.loadWord
  dsimp only
  rw [hr]
  dsimp only
  rw [hb, hl]
  dsimp only
  rw [if_neg ht]

/-- A load that the address map refuses. -/
theorem State.loadWord_of_refused {r : BusRes} (hb : s.buffered c a = none)
    (hl : s.loadAddr (.core c) (!(s.cr c).job) a .clean = r) (h : r = .bus ∨ r = .align) :
    s.loadWord c tagx a = .error (s.accessStop c a TWord.nil0 r) := by
  unfold State.loadReady at hr
  unfold State.loadWord
  dsimp only
  rw [hr]
  dsimp only
  rw [hb, hl]
  rcases h with rfl | rfl <;> rfl

end

section
variable {c : Fin 2} {a : Nat}

/-- A load of the own near data store delivers the word as the core sees it. -/
theorem State.loadWord_near {s : State} {tagx : Bool} (h : s.nearHome c a) (he : s.eccAt a = .clean) (ht : (s.nearWord c a).tag ≠ Tag.reserved) :
    s.loadWord c tagx a = .ok (s.nearWord c a, s) := by
  obtain ⟨hin, h4, hlock, hon⟩ := h
  have hbar := supOnly_nearD c
  have hload : s.loadAddr (.core c) (!(s.cr c).job) a .clean = .ok (s.mread a) s := by
    unfold State.loadAddr
    dsimp only
    rw [regionOf_nearD hin, hbar, Bool.false_and, if_neg Bool.false_ne_true, if_neg (by simp), if_neg (by omega)]
    dsimp only
    unfold State.nearLoad State.inDomain State.eccOf
    simp [he, hlock, hon]
  have hready : State.loadReady s c a = .ok s := by
    unfold State.loadReady
    rw [regionOf_nearD hin]
    rfl
  unfold State.nearWord at ht ⊢
  cases hb : s.buffered c a with
  | some v =>
    refine State.loadWord_of_buffered hready hb ?_ (fun k => ?_)
    · rw [regionOf_nearD hin, hbar, inGranary_of_nearD hin, h4]
      rfl
    · rw [regionOf_nearD hin]
      exact fun hn => by cases hn
  | none =>
    rw [hb] at ht
    exact State.loadWord_of_ok hready hb hload ht

theorem State.room_of_short {s : State} (hlen : (s.cr c).buf.length < 8) : s.room c = .ok s := by
  unfold State.room
  dsimp only
  rw [if_pos hlen, if_pos hlen]

/-- A store, single or paired, of words outside the near instruction store enters a buffer with room. -/
theorem State.pushStore_near {s : State} {x : BufStore} (hlen : (s.cr c).buf.length < 8) (h : inStore (nearI c) x.a = false)
    (h2 : inStore (nearI c) (x.a + 4) = false) : s.pushStore c x = .ok (s.pushed c [x]) := by
  unfold State.pushStore
  rw [State.room_of_short hlen]
  refine congrArg Except.ok (State.setCore_eq ?_)
  cases x.v2 <;> simp [h, h2]

theorem State.storeWord_near {s : State} (h : s.nearHome c a) (hlen : (s.cr c).buf.length < 8) (v : TWord) :
    s.storeWord c a v = .ok (s.pushed c [{ a := a, v := v }]) := by
  obtain ⟨hin, h4, _⟩ := h
  have hnext : inStore (nearI c) (a + 4) = false := by
    have hge : nearD c ≤ a := of_decide_eq_true (Bool.and_eq_true_iff.mp hin).1
    unfold nearD at hge
    unfold inStore
    rw [decide_eq_false (by unfold nearI; omega : ¬a + 4 < nearI c + 0x10000), Bool.and_false]
  unfold State.storeWord
  dsimp only
  rw [regionOf_nearD hin, if_pos (show (Region.nearD c).buffers = true from rfl), supOnly_nearD, Bool.false_and, if_neg Bool.false_ne_true,
    if_neg (by omega), if_neg (by simp)]
  exact State.pushStore_near hlen (nearI_of_nearD hin) hnext

end

/-! ### What the address map refuses (R305, R306) -/

section
variable {s : State} {c : Fin 2} {a : Nat}

theorem State.loadAddr_unmapped (h : regionOf a = .unmapped) (sup : Bool) (e : Ecc) : s.loadAddr (.core c) sup a e = .bus := by
  unfold State.loadAddr
  dsimp only
  rw [h]
  rfl

theorem State.storeAddr_unmapped (h : regionOf a = .unmapped) (sup : Bool) (v : TWord) : s.storeAddr (.core c) sup a v = .bus := by
  unfold State.storeAddr
  dsimp only
  rw [h]
  rfl

theorem State.loadAddr_misaligned (hb : s.barred c a = false) (hu : regionOf a ≠ .unmapped) (hp : regionOf a ≠ .periph) (h4 : a % 4 ≠ 0)
    (e : Ecc) : s.loadAddr (.core c) (!(s.cr c).job) a e = .align := by
  unfold State.barred at hb
  unfold State.loadAddr
  dsimp only
  rw [Bool.not_not, hb, if_neg Bool.false_ne_true, if_neg hu, if_pos ⟨hp, h4⟩]

end

/-! ### The checks before an access (R284, R290) -/

section
variable {s : State} {c : Fin 2} {tagx : Bool}

/-- Accesses that are not barred, with operands that pass. -/
theorem withAccess_pass {acc : List MemAcc} {l : List Src} (ha : ∀ m ∈ acc, s.barred c m.addr = false) (hl : ∀ x ∈ l, x.passes) (k : Eff) :
    withAccess c tagx s acc l k = k := by
  have hnone : acc.find? (fun x => (operandStop tagx s x.srcs).isNone && s.barred c x.addr) = none := by
    rw [List.find?_eq_none]
    intro m hm
    simp [ha m hm]
  unfold withAccess State.privStop
  rw [hnone]
  exact withOperands_pass hl k

/-- A barred access whose address stands traps PRIV. -/
theorem withAccess_barred {l l' : List Src} {a : Nat} (hb : s.barred c a = true) (hl : ∀ x ∈ l, x.passes) (k : Eff) :
    withAccess c tagx s [⟨l, a⟩] l' k = .trap 6 (BitVec.ofNat 32 a) s := by
  unfold withAccess State.privStop
  simp [operandStop_pass hl, hb]

/-- An access without an address, where the first NIL operand that raises NILUSE does so. -/
theorem withAccess_nilUse {l l' : List Src} {a : Nat} {x : Src} (h : l.find? (fun y => y.nilUse && y.w.tag == Tag.nil) = some x)
    (h' : l'.find? (fun y => y.nilUse && y.w.tag == Tag.nil) = some x) (k : Eff) :
    withAccess c tagx s [⟨l, a⟩] l' k = .trap 2 (tagVal x.w.tag x.pos) s := by
  have hstop : (operandStop tagx s l).isNone = false := by
    unfold operandStop
    rw [h]
    rfl
  unfold withAccess State.privStop
  simp only [List.find?_cons, hstop, Bool.false_and, List.find?_nil, Option.map_none, Option.getD_none]
  exact withOperands_nilUse tagx s h' k

end

theorem base_passes {w : TWord} (h : w.tag = Tag.ptr) : (base w).passes :=
  ⟨beq_iff_eq.mpr h, fun _ hn => by
    have hn' : w.tag = Tag.nil := hn
    rw [h] at hn'
    exact absurd hn' (by decide)⟩

theorem offset_passes {w : TWord} (h : w.tag = Tag.int ∨ w.tag = Tag.nat) : (offset w).passes := by
  refine ⟨?_, fun hn => Bool.noConfusion hn⟩
  show (w.tag == Tag.int || w.tag == Tag.nat) = true
  simpa using h

theorem passes_one {x : Src} (h : x.passes) : ∀ y ∈ [x], y.passes := fun y hy => by
  obtain rfl := List.mem_singleton.mp hy
  exact h

theorem passes_append {l l' : List Src} (h : ∀ y ∈ l, y.passes) (h' : ∀ y ∈ l', y.passes) : ∀ y ∈ l ++ l', y.passes := fun y hy =>
  (List.mem_append.mp hy).elim (h y) (h' y)

theorem passes_two {x x' : Src} (h : x.passes) (h' : x'.passes) : ∀ y ∈ [x, x'], y.passes := passes_append (passes_one h) (passes_one h')

/-- The words that a store form stores pass unless their tag is 0xF. -/
theorem State.storeSrcs_pass {s : State} {c : Fin 2} {i : NIns} {b : Nat} (h : (s.w c b).tag ≠ Tag.reserved)
    (h2 : i.pre.wide = true → (s.w c (b + 1)).tag ≠ Tag.reserved) : ∀ x ∈ s.storeSrcs c i b, x.passes := by
  unfold State.storeSrcs
  intro x hx
  rcases List.mem_cons.mp hx with rfl | hx
  · exact whole_passes h
  · split at hx
    · next hw =>
      obtain rfl := List.mem_singleton.mp hx
      exact whole_passes (h2 hw)
    · cases hx

/-! ### Paired accesses (R306, R339) -/

section
variable {s : State} {c : Fin 2} {a : Nat}

theorem State.pairStop_near (h : s.nearHome c a) (h8 : a % 8 = 0) : s.pairStop c a = none := by
  obtain ⟨hin, _⟩ := h
  unfold State.pairStop
  dsimp only
  rw [regionOf_nearD hin, supOnly_nearD]
  simp [h8]

theorem State.pairStop_unmapped (h : regionOf a = .unmapped) : s.pairStop c a = some (.trap 4 (BitVec.ofNat 32 a) s) := by
  unfold State.pairStop
  dsimp only
  rw [h]
  rfl

theorem State.pairStop_misaligned (hb : s.barred c a = false) (hu : regionOf a ≠ .unmapped) (hp : regionOf a ≠ .periph) (h4 : a % 4 ≠ 0) :
    s.pairStop c a = some (.trap 3 (BitVec.ofNat 32 a) s) := by
  unfold State.barred at hb
  unfold State.pairStop
  dsimp only
  rw [hb, if_neg Bool.false_ne_true, if_neg hu, if_pos ⟨hp, fun h8 => h4 (by omega)⟩]
  rfl

theorem State.pairTurn_near (h : s.nearHome c a) : s.pairTurn c a = s := by
  unfold State.pairTurn
  rw [inGranary_of_nearD h.1]
  rfl

/-! ### Loads and stores as effects -/

variable {i : NIns} {d : Nat}

/-- A load, single or paired, of the own near data store. -/
theorem State.loadTo_near (h : s.nearHome c a) (he : s.eccAt a = .clean) (ht : (s.nearWord c a).tag ≠ Tag.reserved)
    (hw : i.pre.wide = true → a % 8 = 0 ∧ s.eccAt (a + 4) = .clean ∧ (s.nearWord c (a + 4)).tag ≠ Tag.reserved) :
    ∃ acc, s.loadTo c i i.d a = .done (s.writePair c i (s.nearWord c a) (s.nearWord c (a + 4))) none acc := by
  unfold State.loadTo State.writePair
  cases hwide : i.pre.wide
  · rw [if_neg Bool.false_ne_true, State.loadWord_near h he ht]
    exact ⟨_, rfl⟩
  · obtain ⟨h8, he2, ht2⟩ := hw hwide
    rw [if_pos rfl, State.pairStop_near h h8]
    dsimp only
    unfold State.loadAfter andThen
    rw [State.pairTurn_near h, State.loadWord_near h he ht]
    dsimp only
    rw [State.loadWord_near (State.nearHome_next h h8) he2 ht2]
    exact ⟨_, rfl⟩

theorem State.loadTo_one (hw : i.pre.wide = false) :
    s.loadTo c i d a = andThen (s.loadWord c i.pre.tagx a) (fun r => .done (r.2.setW c d r.1) none [(a, none)]) := by
  unfold State.loadTo
  rw [hw, if_neg Bool.false_ne_true]

theorem State.storeFrom_one (hw : i.pre.wide = false) :
    s.storeFrom c i d a = andThen (s.storeWord c a (s.w c d)) (fun t => .done t none [(a, some (s.w c d))]) := by
  unfold State.storeFrom
  dsimp only
  rw [hw, if_neg Bool.false_ne_true]

/-- A pair that may not be accessed is not stored. -/
theorem State.storeFrom_pairStop {e : Eff} (hw : i.pre.wide = true) (h : s.pairStop c a = some e) : s.storeFrom c i d a = e := by
  unfold State.storeFrom
  dsimp only
  rw [hw, if_pos rfl, h]

/-- A store, single or paired, to the own near data store enters the buffer. -/
theorem State.storeFrom_near (h : s.nearHome c a) (hlen : (s.cr c).buf.length < 8) (hw : i.pre.wide = true → a % 8 = 0) :
    ∃ acc, s.storeFrom c i d a =
      .done (s.pushed c [{ a := a, v := s.w c d, v2 := if i.pre.wide then some (s.w c (d + 1)) else none }]) none acc := by
  cases hwide : i.pre.wide
  · rw [State.storeFrom_one hwide, State.storeWord_near h hlen]
    exact ⟨_, rfl⟩
  · have h8 := hw hwide
    unfold State.storeFrom
    dsimp only
    rw [hwide, if_pos rfl, State.pairStop_near h h8]
    dsimp only
    rw [regionOf_nearD h.1, if_neg (by simp), if_pos (show (Region.nearD c).buffers = true from rfl),
      State.pushStore_near hlen (nearI_of_nearD h.1) (nearI_of_nearD (State.nearHome_next h h8).1)]
    exact ⟨_, rfl⟩

/-- A store elsewhere than to the buffered ranges and the custom region is the store through the address map. -/
theorem State.storeWord_elsewhere {v w : TWord} {u : State} (hbuf : (s.cr c).buf = []) (hr : (regionOf a).buffers = false)
    (hc : regionOf a ≠ .custom) (h4 : a % 4 = 0) (h : s.storeAddr (.core c) (!(s.cr c).job) a w = .ok v u) : s.storeWord c a w = .ok u := by
  unfold State.storeWord
  dsimp only
  rw [hr, if_neg Bool.false_ne_true, if_neg (by omega), State.emptied_of_empty hbuf]
  dsimp only
  rw [h]
  dsimp only
  rw [if_neg hc]

theorem State.storeWord_unmapped {w : TWord} (hbuf : (s.cr c).buf = []) (h : regionOf a = .unmapped) :
    s.storeWord c a w = .error (.trap 4 (BitVec.ofNat 32 a) s) := by
  have hready : (if a % 4 ≠ 0 then (.ok s : Except Eff State) else s.emptied c) = .ok s := by
    split
    · rfl
    · exact State.emptied_of_empty hbuf
  unfold State.storeWord
  dsimp only
  rw [h, if_neg (show ¬Region.unmapped.buffers = true by decide), hready]
  dsimp only
  rw [State.storeAddr_unmapped h]
  rfl

theorem State.storeWord_misaligned {w : TWord} (hb : s.barred c a = false) (hr : (regionOf a).buffers = true) (h4 : a % 4 ≠ 0) :
    s.storeWord c a w = .error (.trap 3 (BitVec.ofNat 32 a) s) := by
  unfold State.barred at hb
  unfold State.storeWord
  dsimp only
  rw [hr, if_pos rfl, Bool.not_not, hb, if_neg Bool.false_ne_true, if_pos h4]
  rfl

end

/-! ### Loads and stores as instructions -/

/-- What a load at `x` makes of its command. -/
structure State.LoadsAt (s : State) (c : Fin 2) (i : NIns) (x : Nat) (out : Out) : Prop where
  near : s.nearHome c x → s.eccAt x = .clean → (s.nearWord c x).tag ≠ Tag.reserved →
    (i.pre.wide = true → x % 8 = 0 ∧ s.eccAt (x + 4) = .clean ∧ (s.nearWord c (x + 4)).tag ≠ Tag.reserved) →
    ∃ t, out = .next t ∧ s.wrotePair t c i (s.nearWord c x) (s.nearWord c (x + 4))
  elsewhere : i.pre.wide = false → (s.cr c).buf = [] → ∀ v u, s.loadAddr (.core c) (!(s.cr c).job) x .clean = .ok v u → v.tag ≠ Tag.reserved →
    u.cr c = s.cr c → u.fld F.dbgWpctlEn = 0 → u.sec.rcvr = s.sec.rcvr → ∃ t, out = .next t ∧ u.wroteReg t c i v
  unmapped : i.pre.wide = false → (s.cr c).buf = [] → regionOf x = .unmapped → out = .next (s.trapEnter c 4 (BitVec.ofNat 32 x) (s.cr c).pc)
  barred : (regionOf x).supOnly (.core c) = true → (s.cr c).job = true → out = .next (s.trapEnter c 6 (BitVec.ofNat 32 x) (s.cr c).pc)
  misaligned : i.pre.wide = false → (s.cr c).buf = [] → ((regionOf x).supOnly (.core c) && (s.cr c).job) = false → regionOf x ≠ .unmapped →
    regionOf x ≠ .periph → x % 4 ≠ 0 → out = .next (s.trapEnter c 3 (BitVec.ofNat 32 x) (s.cr c).pc)

/-- What a store of register `r` at `x` makes of its command, whose words all pass. -/
structure State.StoresAt (s : State) (c : Fin 2) (i : NIns) (x r : Nat) (out : Out) : Prop where
  near : s.nearHome c x → (s.cr c).buf.length < 8 → (i.pre.wide = true → x % 8 = 0) → ∃ t, out = .next t ∧ s.keeps t [.core c] ∧
    (s.pushed c [{ a := x, v := s.w c r, v2 := if i.pre.wide then some (s.w c (r + 1)) else none }]).ranTo t c i (s.cr c).w (s.cr c).flg
      (s.nextPc c i)
  elsewhere : i.pre.wide = false → (s.cr c).buf = [] → (regionOf x).buffers = false → regionOf x ≠ .custom → x % 4 = 0 →
    ∀ v u, s.storeAddr (.core c) (!(s.cr c).job) x (s.w c r) = .ok v u → u.cr c = s.cr c → u.fld F.dbgWpctlEn = 0 →
      u.sec.rcvr = s.sec.rcvr → ∃ t, out = .next t ∧ u.wentTo t c i (s.cr c).w (s.cr c).flg (s.nextPc c i)
  unmapped : regionOf x = .unmapped → (s.cr c).buf = [] → out = .next (s.trapEnter c 4 (BitVec.ofNat 32 x) (s.cr c).pc)
  barred : (regionOf x).supOnly (.core c) = true → (s.cr c).job = true → out = .next (s.trapEnter c 6 (BitVec.ofNat 32 x) (s.cr c).pc)
  misaligned : ((regionOf x).supOnly (.core c) && (s.cr c).job) = false → (regionOf x).buffers = true → x % 4 ≠ 0 →
    out = .next (s.trapEnter c 3 (BitVec.ofNat 32 x) (s.cr c).pc)

section
variable {s0 s : State} {c : Fin 2} {p : Phys} {i : NIns} (h : s0.issues c p i s) (is : NIns → Bool) (hi : is i = true) (f : NIns → State → Eff)
include h hi

/-- An access went from `s` to `u`, which kept the core, and the instruction writes a word register. -/
theorem State.instr_wroteFrom {u : State} {v : TWord} {acc : List (Nat × Option TWord)} (hf : f i s = .done (u.setW c i.d v) none acc)
    (hcr : u.cr c = s.cr c) (hw : u.fld F.dbgWpctlEn = 0) (hv : u.sec.rcvr = s.sec.rcvr) :
    ∃ t, s0.instr c p is f = .next t ∧ u.wroteReg t c i v := by
  obtain ⟨_, _, hstep, _⟩ := id h
  have hin : u.inStep c := by
    unfold State.inStep
    rw [hcr]
    exact h.inStep
  have hpc : s.nextPc c i = u.nextPc c i := by
    unfold State.nextPc
    rw [hcr]
  have hsec : (u.setW c i.d v).sec = u.sec := (u.setW_keeps c i.d v).2 .sec (by simp)
  obtain ⟨t, ht, hran, hk⟩ := State.instr_from h is hi f (b := u) hf (fun _ => by rw [hcr]; exact ⟨rfl, rfl⟩)
    (by rw [State.fld_setW]; exact hw) (by rw [hcr]; exact hstep) (State.cr_setW hin i.d v) (by rw [hsec, hv])
  rw [Option.getD_none, ite_self, hpc] at hran
  exact ⟨t, ht, hran, State.keeps_trans (u.setW_keeps c i.d v) hk⟩

/-- An access went from `s` to `u`, which kept the core, and the instruction changes no more. -/
theorem State.instr_wentFrom {u : State} {acc : List (Nat × Option TWord)} (hf : f i s = .done u none acc) (hcr : u.cr c = s.cr c)
    (hw : u.fld F.dbgWpctlEn = 0) (hv : u.sec.rcvr = s.sec.rcvr) :
    ∃ t, s0.instr c p is f = .next t ∧ u.wentTo t c i (s.cr c).w (s.cr c).flg (s.nextPc c i) := by
  obtain ⟨_, _, hstep, _⟩ := id h
  obtain ⟨t, ht, hran, hk⟩ := State.instr_from h is hi f (b := u) (w := (s.cr c).w) (flg := (s.cr c).flg) hf
    (fun _ => by rw [hcr]; exact ⟨rfl, rfl⟩) hw (by rw [hcr]; exact hstep) (by rw [hcr]; exact Core.eq_with rfl h.inStep rfl) hv
  rw [Option.getD_none, ite_self] at hran
  exact ⟨t, ht, hran, hk⟩

/-- A store entered into the buffer. -/
theorem State.instr_pushed {l : List BufStore} {acc : List (Nat × Option TWord)} (hf : f i s = .done (s.pushed c l) none acc) :
    ∃ t, s0.instr c p is f = .next t ∧ s.keeps t [.core c] ∧ (s.pushed c l).ranTo t c i (s.cr c).w (s.cr c).flg (s.nextPc c i) := by
  obtain ⟨t, ht, hran, hk⟩ := State.instr_core h is hi f (g := fun k => { k with buf := k.buf ++ l }) hf (fun _ => ⟨rfl, rfl⟩) ⟨rfl, rfl, rfl, rfl⟩
  rw [Option.getD_none, ite_self] at hran
  exact ⟨t, ht, hk, hran⟩

/-- A load form whose operands pass. -/
theorem State.instr_loads {x : Nat} {l : List Src} (hl : ∀ y ∈ l, y.passes)
    (hf : f i s = withAccess c i.pre.tagx s [⟨l, x⟩] l (s.loadTo c i i.d x)) : s.LoadsAt c i x (s0.instr c p is f) := by
  have hgo : s.barred c x = false → f i s = s.loadTo c i i.d x := fun hb =>
    hf.trans (withAccess_pass (fun m hm => by obtain rfl := List.mem_singleton.mp hm; exact hb) hl _)
  have hnone : (s.cr c).buf = [] → s.buffered c x = none := fun hbuf => by
    unfold State.buffered
    rw [hbuf]
    rfl
  refine ⟨fun hn he ht hw => ?_, fun hw hbuf v u hload ht hcr hwp hv => ?_, fun hw hbuf hu => ?_, fun hb hj => ?_, fun hw hbuf hb hu hp h4 => ?_⟩
  · obtain ⟨acc, hto⟩ := State.loadTo_near hn he ht hw
    exact State.instr_wrotePair h is hi f ((hgo (State.barred_nearHome hn)).trans hto)
  · have hb : s.barred c x = false := by
      unfold State.barred
      by_contra hn
      have hpriv : s.loadAddr (.core c) (!(s.cr c).job) x .clean = .priv := by
        unfold State.loadAddr
        dsimp only
        rw [Bool.not_not, if_pos (Bool.of_not_eq_false hn)]
      rw [hpriv] at hload
      cases hload
    refine State.instr_wroteFrom h is hi f (acc := [(x, none)]) ((hgo hb).trans ?_) hcr hwp hv
    rw [State.loadTo_one hw, State.loadWord_of_ok (State.loadReady_of_empty hbuf x) (hnone hbuf) hload ht]
    rfl
  · have hb : s.barred c x = false := by
      unfold State.barred
      rw [hu]
      rfl
    refine State.instr_trap h is hi f (cause := 4) (t := s) ((hgo hb).trans ?_)
    rw [State.loadTo_one hw, State.loadWord_of_refused (State.loadReady_of_empty hbuf x) (hnone hbuf) (State.loadAddr_unmapped hu _ _) (.inl rfl)]
    rfl
  · exact State.instr_trap h is hi f (cause := 6) (t := s)
      (hf.trans (withAccess_barred (by unfold State.barred; rw [hb, hj]; rfl) hl _))
  · refine State.instr_trap h is hi f (cause := 3) (t := s) ((hgo hb).trans ?_)
    rw [State.loadTo_one hw,
      State.loadWord_of_refused (State.loadReady_of_empty hbuf x) (hnone hbuf) (State.loadAddr_misaligned hb hu hp h4 _) (.inr rfl)]
    rfl

/-- A store form whose operands pass. -/
theorem State.instr_stores {x r : Nat} {l l' : List Src} (hl : ∀ y ∈ l, y.passes) (hl' : ∀ y ∈ l', y.passes)
    (hf : f i s = withAccess c i.pre.tagx s [⟨l, x⟩] l' (s.storeFrom c i r x)) : s.StoresAt c i x r (s0.instr c p is f) := by
  have hgo : s.barred c x = false → f i s = s.storeFrom c i r x := fun hb =>
    hf.trans (withAccess_pass (fun m hm => by obtain rfl := List.mem_singleton.mp hm; exact hb) hl' _)
  refine ⟨fun hn hlen hw => ?_, fun hw hbuf hr hc h4 v u hstore hcr hwp hv => ?_, fun hu hbuf => ?_, fun hb hj => ?_, fun hb hr h4 => ?_⟩
  · obtain ⟨acc, hto⟩ := State.storeFrom_near (d := r) hn hlen hw
    exact State.instr_pushed h is hi f ((hgo (State.barred_nearHome hn)).trans hto)
  · have hb : s.barred c x = false := by
      unfold State.barred
      by_contra hn
      have hpriv : s.storeAddr (.core c) (!(s.cr c).job) x (s.w c r) = .priv := by
        unfold State.storeAddr
        dsimp only
        rw [Bool.not_not, if_pos (Bool.of_not_eq_false hn)]
      rw [hpriv] at hstore
      cases hstore
    refine State.instr_wentFrom h is hi f (acc := [(x, some (s.w c r))]) ((hgo hb).trans ?_) hcr hwp hv
    rw [State.storeFrom_one hw, State.storeWord_elsewhere hbuf hr hc h4 hstore]
    rfl
  · have hb : s.barred c x = false := by
      unfold State.barred
      rw [hu]
      rfl
    refine State.instr_trap h is hi f (cause := 4) (t := s) ((hgo hb).trans ?_)
    cases hw : i.pre.wide
    · rw [State.storeFrom_one hw, State.storeWord_unmapped hbuf hu]
      rfl
    · exact State.storeFrom_pairStop hw (State.pairStop_unmapped hu)
  · exact State.instr_trap h is hi f (cause := 6) (t := s)
      (hf.trans (withAccess_barred (by unfold State.barred; rw [hb, hj]; rfl) hl _))
  · have hu : regionOf x ≠ .unmapped := fun e => by rw [e] at hr; cases hr
    have hp : regionOf x ≠ .periph := fun e => by rw [e] at hr; cases hr
    refine State.instr_trap h is hi f (cause := 3) (t := s) ((hgo hb).trans ?_)
    cases hw : i.pre.wide
    · rw [State.storeFrom_one hw, State.storeWord_misaligned hb hr h4]
      rfl
    · exact State.storeFrom_pairStop hw (State.pairStop_misaligned hb hu hp h4)

/-- An access form whose address base is NIL traps NILUSE. -/
theorem State.instr_baseNil {x : Nat} {l l' : List Src} {k : Eff} (hb : (s.w c i.a).tag = Tag.nil)
    (hl : l.find? (fun y => y.nilUse && y.w.tag == Tag.nil) = some (base (s.w c i.a)))
    (hl' : l'.find? (fun y => y.nilUse && y.w.tag == Tag.nil) = some (base (s.w c i.a)))
    (hf : f i s = withAccess c i.pre.tagx s [⟨l, x⟩] l' k) : s0.instr c p is f = .next (s.trapEnter c 2 (tagVal Tag.nil 2) (s.cr c).pc) := by
  refine State.instr_trap h is hi f (cause := 2) (t := s) (hf.trans ((withAccess_nilUse hl hl' k).trans ?_))
  show Eff.trap 2 (tagVal (s.w c i.a).tag 2) s = _
  rw [hb]

end

/-- A NIL base is the first operand that raises NILUSE, alone or after an offset. -/
theorem find_base {w w2 : TWord} (h : w.tag = Tag.nil) (l : List Src) :
    (base w :: l).find? (fun y => y.nilUse && y.w.tag == Tag.nil) = some (base w) ∧
    (offset w2 :: base w :: l).find? (fun y => y.nilUse && y.w.tag == Tag.nil) = some (base w) := by
  have hb : ((base w).nilUse && (base w).w.tag == Tag.nil) = true := by
    show (true && w.tag == Tag.nil) = true
    rw [h]
    rfl
  have ho : ((offset w2).nilUse && (offset w2).w.tag == Tag.nil) = false := rfl
  exact ⟨List.find?_cons_of_pos hb, (List.find?_cons_of_neg (by rw [ho]; decide)).trans (List.find?_cons_of_pos hb)⟩

/-- Settles O36: LD and LDX as load forms, ST and STX as store forms. -/
theorem loadsAndStoresComplete : Obligations.LoadsAndStoresComplete := by
  intro c p s0 s i h
  refine ⟨fun hop ha => ?_, fun hop ha hb => ?_, fun hop ha hr => ?_, fun hop ha hb hr => ?_, fun hop ha => ?_, fun hop ha => ?_, fun hop ha => ?_,
    fun hop ha => ?_⟩
  · have hx : s.LoadsAt c i (addrOf (s.w c i.a).val i.disp) (exec (.ld c p) s0) := by
      show s.LoadsAt c i _ (execLd c p s0)
      exact State.instr_loads h _ (by simp [hop]) _ (passes_one (base_passes ha)) rfl
    exact ⟨hx.near, fun hw hbuf => ⟨hx.elsewhere hw hbuf, hx.unmapped hw hbuf, hx.barred, hx.misaligned hw hbuf⟩⟩
  · have hx : s.LoadsAt c i (addrOf (s.w c i.a).val (s.w c i.b).val.toInt) (exec (.ldx c p) s0) := by
      show s.LoadsAt c i _ (execLdx c p s0)
      exact State.instr_loads h _ (by simp [hop]) _ (passes_two (offset_passes hb) (base_passes ha)) rfl
    exact ⟨hx.near, fun hw hbuf => ⟨hx.elsewhere hw hbuf, hx.unmapped hw hbuf, hx.barred, hx.misaligned hw hbuf⟩⟩
  · have hx : (i.pre.wide = true → (s.w c (i.b + 1)).tag ≠ Tag.reserved) →
        s.StoresAt c i (addrOf (s.w c i.a).val i.disp) i.b (exec (.st c p) s0) := by
      intro hr2
      show s.StoresAt c i _ _ (execSt c p s0)
      have hl := passes_one (base_passes ha)
      exact State.instr_stores h _ (by simp [hop]) _ hl (passes_append hl (State.storeSrcs_pass hr hr2)) rfl
    exact ⟨fun hn hlen hw => (hx fun hwide => (hw hwide).2).near hn hlen fun hwide => (hw hwide).1,
      fun hw => (hx fun hwide => absurd hwide (by rw [hw]; decide)).elsewhere hw,
      fun hr2 => ⟨(hx hr2).unmapped, (hx hr2).barred, (hx hr2).misaligned⟩⟩
  · have hx : (i.pre.wide = true → (s.w c (i.d + 1)).tag ≠ Tag.reserved) →
        s.StoresAt c i (addrOf (s.w c i.a).val (s.w c i.b).val.toInt) i.d (exec (.stx c p) s0) := by
      intro hr2
      show s.StoresAt c i _ _ (execStx c p s0)
      have hl := passes_two (offset_passes hb) (base_passes ha)
      exact State.instr_stores h _ (by simp [hop]) _ hl (passes_append hl (State.storeSrcs_pass hr hr2)) rfl
    exact ⟨fun hn hlen hw => (hx fun hwide => (hw hwide).2).near hn hlen fun hwide => (hw hwide).1,
      fun hw => (hx fun hwide => absurd hwide (by rw [hw]; decide)).elsewhere hw,
      fun hr2 => ⟨(hx hr2).unmapped, (hx hr2).barred, (hx hr2).misaligned⟩⟩
  · obtain ⟨hone, _⟩ := find_base (w2 := s.w c i.b) ha []
    show execLd c p s0 = _
    exact State.instr_baseNil h _ (by simp [hop]) _ ha hone hone rfl
  · obtain ⟨hone, _⟩ := find_base (w2 := s.w c i.b) ha []
    obtain ⟨hone', _⟩ := find_base (w2 := s.w c i.b) ha (s.storeSrcs c i i.b)
    show execSt c p s0 = _
    exact State.instr_baseNil h _ (by simp [hop]) _ ha hone hone' rfl
  · obtain ⟨_, htwo⟩ := find_base (w2 := s.w c i.b) ha []
    show execLdx c p s0 = _
    exact State.instr_baseNil h _ (by simp [hop]) _ ha htwo htwo rfl
  · obtain ⟨_, htwo⟩ := find_base (w2 := s.w c i.b) ha []
    obtain ⟨_, htwo'⟩ := find_base (w2 := s.w c i.b) ha (s.storeSrcs c i i.d)
    show execStx c p s0 = _
    exact State.instr_baseNil h _ (by simp [hop]) _ ha htwo htwo' rfl

end Sys2Proof.Machine
end
section
/-!
PROOFS. Read-modify-writes and block moves (O37).
-/

namespace Sys2Proof.Machine

/-! ### What is stored -/

theorem State.mwrite_keeps (s : State) (a : Nat) (v : TWord) : s.keeps (s.mwrite a v) [.word (a / 4)] := by
  refine ⟨rfl, fun p hp => ?_⟩
  have h := s.same_refl p
  cases p with
  | word n => exact s.mread_mwrite_other _ _ _ (fun e => hp (by simp [← e]))
  | _ => exact h

/-- The state with the store of a read-modify-write, if any, performed or entered into the buffer (R303). -/
def State.stored (s : State) (c : Fin 2) (i : NIns) (x : Nat) : Option TWord → State
  | none => s
  | some v => if i.pre.atomic then s.mwrite x v else s.pushed c [{ a := x, v := v }]

section
variable {s : State} {c : Fin 2} {i : NIns} {x : Nat} {v : Option TWord}

/-- It changes no more of the core than its buffer. -/
theorem State.cr_stored : (s.stored c i x v).cr c = { s.cr c with buf := ((s.stored c i x v).cr c).buf } := by
  unfold State.stored
  cases v with
  | none => rfl
  | some v =>
    cases i.pre.atomic
    · simp only [Bool.false_eq_true, if_false]
      unfold State.pushed
      rw [State.cr_setCore_same]
    · rfl

theorem State.fld_stored (f : Fld) : (s.stored c i x v).fld f = s.fld f := by
  unfold State.stored
  cases v with
  | none => rfl
  | some v => cases i.pre.atomic <;> rfl

theorem State.sec_stored : (s.stored c i x v).sec = s.sec := by
  unfold State.stored
  cases v with
  | none => rfl
  | some v => cases i.pre.atomic <;> rfl

theorem State.stored_atomic (hat : i.pre.atomic = true) (hcan : s.canonical) :
    (s.stored c i x v).cr c = s.cr c ∧ (s.stored c i x v).mread x = v.getD (s.mread x) ∧ s.keeps (s.stored c i x v) [.core c, .word (x / 4)] := by
  unfold State.stored
  cases v with
  | none => exact ⟨rfl, rfl, State.keeps_refl _ _⟩
  | some v =>
    simp only [hat, if_true]
    exact ⟨rfl, State.mread_mwrite_same _ _ _ _ hcan rfl, State.keeps_mono (s.mwrite_keeps x v) (by simp)⟩

theorem State.stored_plain (hat : i.pre.atomic = false) :
    (s.stored c i x v).cr c = (s.pushed c (v.toList.map (fun y => { a := x, v := y }))).cr c ∧ s.keeps (s.stored c i x v) [.core c] := by
  unfold State.stored
  cases v with
  | none =>
    refine ⟨?_, State.keeps_refl _ _⟩
    show s.cr c = (s.setCore c (fun k => { k with buf := k.buf ++ [] })).cr c
    rw [State.cr_setCore_same, List.append_nil]
  | some v =>
    simp only [hat, Bool.false_eq_true, if_false]
    exact ⟨rfl, s.setCore_keeps c _⟩

/-- `ranTo` speaks of the core alone. -/
theorem State.ranTo_congr {s u t : State} {w : Vector TWord 32} {flg : BitVec 5} {pc : Word} (h : u.cr c = s.cr c)
    (hr : u.ranTo t c i w flg pc) : s.ranTo t c i w flg pc := by
  unfold State.ranTo at hr ⊢
  rw [← h]
  exact hr

end

/-! ### Read-modify-writes -/

/-- A word of the own near data store, with what a read-modify-write of it needs (R303, R340). -/
structure State.RmwAt (s : State) (c : Fin 2) (i : NIns) : Prop where
  rep : i.pre.rep = false
  base : (s.w c i.a).tag = Tag.ptr
  near : s.nearHome c (s.w c i.a).val.toNat
  clean : s.eccAt (s.w c i.a).val.toNat = .clean
  room : if i.pre.atomic = true then (s.cr c).buf = [] else (s.cr c).buf.length < 8
  old : (s.nearWord c (s.w c i.a).val.toNat).tag ≠ Tag.reserved
  operand : (s.w c i.b).tag ≠ Tag.reserved

section
variable {s : State} {c : Fin 2} {i : NIns}

theorem nearOwner_of_nearD {a : Nat} (h : inStore (nearD c) a = true) : nearOwner a = some c.val := by
  unfold nearOwner
  have hcase : c = 0 ∨ c = 1 := by omega
  rcases hcase with rfl | rfl
  · have h' : inStore (nearD 0) a = true := h
    rw [h', Bool.or_true, if_pos rfl]
    rfl
  · have h' : inStore (nearD 1) a = true := h
    have hge : nearD 1 ≤ a := of_decide_eq_true (Bool.and_eq_true_iff.mp h').1
    unfold nearD at hge
    have hI : inStore (nearI 0) a = false := by
      unfold inStore
      rw [decide_eq_false (by unfold nearI; omega : ¬a < nearI 0 + 0x10000), Bool.and_false]
    have hD : inStore (nearD 0) a = false := by
      unfold inStore
      rw [decide_eq_false (by unfold nearD; omega : ¬a < nearD 0 + 0x10000), Bool.and_false]
    rw [hI, hD, h', Bool.or_true]
    rfl

/-- The store of an ATOMIC sequence to the own near data store is performed at once. -/
theorem State.storeHeld_near {a : Nat} (h : s.nearHome c a) (he : s.eccAt a = .clean) (v : TWord) : s.storeHeld c a v = s.mwrite a v := by
  obtain ⟨hin, _, hlock, _⟩ := h
  have hheal : s.heal a = s := if_pos he
  unfold State.storeHeld State.storeMem
  rw [nearOwner_of_nearD hin]
  dsimp only
  rw [hlock, if_neg Bool.false_ne_true, hheal, nearI_of_nearD hin, if_neg Bool.false_ne_true]

/-- A read-modify-write of such a word stores what its function says, and goes on with the registers and flags. -/
theorem readModify_near {f : TWord → State → Except Eff (Option TWord × (State → State))} {extra : State → NIns → List Src} (h : s.RmwAt c i)
    (hx : ∀ y ∈ extra s i, y.passes) {v : Option TWord} {g : State → State}
    (hf : f (s.nearWord c (s.w c i.a).val.toNat) s = .ok (v, g)) :
    readModify f extra c i s = .done (g (s.stored c i (s.w c i.a).val.toNat v)) none
      (((s.w c i.a).val.toNat, none) :: v.toList.map (fun w => ((s.w c i.a).val.toNat, some w))) := by
  obtain ⟨_, hbase, hnear, hclean, hroom, hold, hop⟩ := h
  generalize ha : (s.w c i.a).val.toNat = a at *
  have hreg := regionOf_nearD hnear.1
  have htarget : s.atomicTarget c a = true := by
    unfold State.atomicTarget
    rw [hreg]
  have hready : (if i.pre.atomic then s.emptied c else if (regionOf a).buffers then s.room c else .ok s) = .ok s := by
    cases hat : i.pre.atomic
    · rw [hat] at hroom
      rw [if_neg Bool.false_ne_true, hreg, if_pos (show (Region.nearD c).buffers = true from rfl)]
      exact State.room_of_short (by simpa using hroom)
    · rw [hat] at hroom
      rw [if_pos rfl]
      exact State.emptied_of_empty (by simpa using hroom)
  have hstores : s.storesNothing c a = false := by
    unfold State.storesNothing
    rw [inGranary_of_nearD hnear.1, Bool.false_and]
  unfold readModify
  dsimp only
  rw [ha, withAccess_pass (fun m hm => by obtain rfl := List.mem_singleton.mp hm; exact State.barred_nearHome hnear)
    (passes_append (passes_two (base_passes hbase) (whole_passes hop)) hx),
    if_neg (fun hn => by rw [htarget] at hn; exact Bool.noConfusion hn.2.2), hready]
  unfold andThen
  dsimp only
  rw [State.loadWord_near hnear hclean hold]
  dsimp only
  rw [hf]
  unfold State.stored
  cases v with
  | none => rfl
  | some v =>
    dsimp only
    rw [hstores, if_neg Bool.false_ne_true]
    cases hat : i.pre.atomic
    · rw [hat] at hroom
      rw [if_neg Bool.false_ne_true, if_neg Bool.false_ne_true]
      unfold State.storeAfter
      rw [State.storeWord_near hnear (by simpa using hroom)]
      rfl
    · rw [if_pos rfl, if_pos rfl, State.storeHeld_near hnear hclean]
      rfl

end

/-- The word read in `d`, with flags unless `nf`. -/
def State.tookOld (u : State) (c : Fin 2) (d : Nat) (old : TWord) (nf : Bool) (flg : BitVec 5) : State :=
  if nf then u.setW c d old else (u.setW c d old).setFlg c flg

theorem State.tookOld_spec {s u : State} {c : Fin 2} (hin : s.inStep c) (hu : u.cr c = { s.cr c with buf := (u.cr c).buf }) (d : Nat) (old : TWord)
    (nf : Bool) (flg : BitVec 5) :
    (u.tookOld c d old nf flg).cr c = { u.cr c with
      w := (s.cr c).put d old, ew := ((s.cr c).put d old).map echoBits, flg := if nf then (s.cr c).flg else flg } ∧
    u.keeps (u.tookOld c d old nf flg) [.core c] ∧ (u.tookOld c d old nf flg).fld F.dbgWpctlEn = u.fld F.dbgWpctlEn := by
  have hin' : u.inStep c := by
    unfold State.inStep
    rw [hu]
    exact hin
  have hput : (u.cr c).put d old = (s.cr c).put d old := by rw [hu]; rfl
  have hflg : (u.cr c).flg = (s.cr c).flg := by rw [hu]
  unfold State.tookOld
  cases nf
  · refine ⟨?_, State.keeps_trans (u.setW_keeps c d old) (State.setCore_keeps _ c _), u.fld_setW c d old _⟩
    show ((u.setW c d old).setCore c _).cr c = _
    rw [State.cr_setCore_same, State.cr_setW hin', hput]
    rfl
  · refine ⟨?_, u.setW_keeps c d old, u.fld_setW c d old _⟩
    show (u.setW c d old).cr c = _
    rw [State.cr_setW hin', hput, if_pos rfl, ← hflg]

section
variable {s0 s : State} {c : Fin 2} {p : Phys} {i : NIns} (h : s0.issues c p i s) (is : NIns → Bool) (hi : is i = true) (f : NIns → State → Eff)
include h hi

/-- A read-modify-write completes. -/
theorem State.instr_exchanged {v : Option TWord} {old : TWord} {nf : Bool} {flg : BitVec 5} {acc : List (Nat × Option TWord)} (hcan : s.canonical)
    (hr : s.RmwAt c i)
    (hf : f i s = .done ((s.stored c i (s.w c i.a).val.toNat v).tookOld c i.d old nf flg) none acc) :
    ∃ t, s0.instr c p is f = .next t ∧
      s.exchanged t c i (s.w c i.a).val.toNat v ((s.cr c).put i.d old) (if nf then (s.cr c).flg else flg) := by
  generalize (s.w c i.a).val.toNat = x at hf ⊢
  have hnorep : ¬i.pre.rep = true := by simp [hr.rep]
  obtain ⟨_, hwp, hstep, _⟩ := id h
  have hu := State.cr_stored (s := s) (c := c) (i := i) (x := x) (v := v)
  obtain ⟨hcr, hkeeps, hfld⟩ := State.tookOld_spec h.inStep hu i.d old nf flg
  have hsec := hkeeps.2 .sec (by simp)
  obtain ⟨t, ht, hran, hk⟩ := State.instr_from h is hi f (b := s.stored c i x v) hf (fun hn => absurd hn hnorep)
    (hfld.trans ((State.fld_stored _).trans hwp)) (by rw [hu]; exact hstep) hcr (congrArg Sec.rcvr (hsec.trans State.sec_stored))
  rw [Option.getD_none, ite_self] at hran
  refine ⟨t, ht, ?_⟩
  have hall := State.keeps_trans hkeeps hk (n := [.core c])
  unfold State.exchanged
  cases hat : i.pre.atomic
  · obtain ⟨hcore, hst⟩ := State.stored_plain (s := s) (c := c) (x := x) (v := v) hat
    rw [if_neg Bool.false_ne_true]
    exact ⟨State.ranTo_congr hcore hran, State.keeps_trans hst hall⟩
  · obtain ⟨hcore, hmem, hst⟩ := State.stored_atomic (c := c) (x := x) (v := v) hat hcan
    rw [if_pos rfl]
    have hword : t.mread (4 * (x / 4)) = (s.stored c i x v).mread (4 * (x / 4)) := hall.2 (.word (x / 4)) (by simp)
    have hx : ∀ y : State, y.mread (4 * (x / 4)) = y.mread x := fun y => by
      unfold State.mread
      rw [Nat.mul_div_cancel_left _ (by decide)]
    rw [hx, hx] at hword
    exact ⟨State.ranTo_congr hcore hran, hword.trans hmem, State.keeps_trans hst hall⟩

end

/-! ### Block moves (R338) -/

theorem State.w_zero_of_tag {s : State} {c : Fin 2} {r : Nat} (h : (s.w c r).tag = Tag.ptr) : r ≠ 0 := by
  rintro rfl
  have h0 : TWord.nil0.tag = Tag.ptr := h
  exact absurd h0 (by decide)

theorem Core.put_of_ne {k : Core} {d : Nat} (h : d ≠ 0) (v : TWord) : k.put d v = updN k.w d (fun _ => v) := if_neg h

section
variable {s0 s : State} {c : Fin 2} {p : Phys} {i : NIns} (h : s0.issues c p i s) (is : NIns → Bool) (hi : is i = true) (f : NIns → State → Eff)
include h hi

/-- One word of a block is stored, from the state `u` in which the pointers have advanced, and CNT counts it. -/
theorem State.instr_blockNext {u : State} {l : List BufStore} {w : Vector TWord 32} {acc : List (Nat × Option TWord)} (hrep : i.pre.rep = false)
    (hf : f i s = u.blockNext c i acc) (hu : u.cr c = { (s.pushed c l).cr c with w := w, ew := w.map echoBits }) (hk : s.keeps u [.core c]) :
    ∃ t, s0.instr c p is f = .next t ∧ s.keeps t [.core c] ∧
      ((s.pushed c l).setCore c (fun q => { q with cnt := q.cnt - 1 })).ranTo t c i w (s.cr c).flg
        (if (s.cr c).cnt = 1 then s.nextPc c i else (s.cr c).pc) := by
  have hnorep : ¬i.pre.rep = true := by simp [hrep]
  obtain ⟨_, hwp, hstep, _⟩ := id h
  have hpushed : (s.pushed c l).cr c = { s.cr c with buf := (s.cr c).buf ++ l } := s.cr_setCore_same c _
  have hpc : (u.cr c).pc = (s.cr c).pc := by rw [hu, hpushed]
  have hcnt : (u.cr c).cnt = (s.cr c).cnt := by rw [hu, hpushed]
  have hnext : u.nextPc c i = s.nextPc c i := by
    unfold State.nextPc
    rw [hpc]
  have hreg : u.reg F.dbgWpctlEn.addr = s.reg F.dbgWpctlEn.addr := hk.2 (.reg _) (by simp)
  have hsec : u.sec = s.sec := hk.2 .sec (by simp)
  unfold State.blockNext at hf
  dsimp only at hf
  rw [hnext, hpc, hcnt] at hf
  obtain ⟨t, ht, hran, hkeeps⟩ := State.instr_from h is hi f (b := (s.pushed c l).setCore c (fun q => { q with cnt := q.cnt - 1 })) (w := w)
    (flg := (s.cr c).flg) hf (fun hn => absurd hn hnorep)
    (by rw [State.fld_setCore]; unfold State.fld; rw [hreg]; exact hwp)
    (by rw [State.cr_setCore_same, hpushed]; exact hstep) (by rw [State.cr_setCore_same, State.cr_setCore_same, hu, hpushed]) (congrArg Sec.rcvr hsec)
  rw [if_neg hnorep, Option.getD_some] at hran
  exact ⟨t, ht, State.keeps_trans hk (State.keeps_trans (u.setCore_keeps c _) hkeeps (n := [.core c])), hran⟩

end

/-- A pointer register advances. -/
theorem State.advancePtr_spec {u : State} {c : Fin 2} {r : Nat} {v : Word} (hin : u.inStep c) (hr : r ≠ 0) :
    (u.advancePtr c r v).inStep c ∧
    (u.advancePtr c r v).cr c = { u.cr c with w := updN (u.cr c).w r (fun _ => ⟨Tag.ptr, v + 4⟩)
                                              ew := (updN (u.cr c).w r (fun _ => ⟨Tag.ptr, v + 4⟩)).map echoBits } := by
  unfold State.advancePtr
  refine ⟨State.setW_inStep hin _ _, ?_⟩
  rw [State.cr_setW hin, Core.put_of_ne hr]

theorem State.pushed_inStep {s : State} {c : Fin 2} (h : s.inStep c) (l : List BufStore) : (s.pushed c l).inStep c := by
  unfold State.inStep State.pushed
  rw [State.cr_setCore_same]
  exact h

theorem State.w_pushed (s : State) (c : Fin 2) (l : List BufStore) : ((s.pushed c l).cr c).w = (s.cr c).w := by
  unfold State.pushed
  rw [State.cr_setCore_same]

/-- Settles O37: XCHG, CAS and XADD by `readModify_near`, one word of BMOV and BFILL by what it stores and advances. -/
theorem readModifyWritesAndBlockMovesComplete : Obligations.ReadModifyWritesAndBlockMovesComplete := by
  intro c p s0 s i h hcan
  have hin := h.inStep
  refine ⟨fun hop hr => ?_, fun hop hr hd => ?_, fun hop hr hold hb => ?_, fun hop hrep ha hb => ⟨fun h0 => ?_, fun h0 hx hy he ht hlen => ?_⟩,
    fun hop hrep ha hb => ⟨fun h0 => ?_, fun h0 hx hlen => ?_⟩⟩
  · show ∃ t, execXchg c p s0 = .next t ∧ _
    obtain ⟨hrep, hbase, hnear, hclean, hroom, hold, hb⟩ := hr
    have hrmw : s.RmwAt c i := ⟨hrep, hbase, hnear, hclean, hroom, hold, hb⟩
    exact State.instr_exchanged h _ (by simp [hop]) _ (nf := true) (flg := 0) hcan hrmw
      (readModify_near hrmw (fun y hy => by cases hy) (v := some (s.w c i.b)) (g := fun u => u.setW c i.d _) rfl)
  · show ∃ t, execCas c p s0 = .next t ∧ _
    obtain ⟨hrep, hbase, hnear, hclean, hroom, hold, hb⟩ := hr
    have hrmw : s.RmwAt c i := ⟨hrep, hbase, hnear, hclean, hroom, hold, hb⟩
    refine State.instr_exchanged h _ (by simp [hop]) _ hcan hrmw
      (readModify_near hrmw (passes_one (whole_passes hd)) (g := fun u => u.tookOld c i.d _ i.nf _) ?_)
    simp only [decide_eq_true_eq]
    rfl
  · show ∃ t f, execXadd c p s0 = .next t ∧ _
    obtain ⟨hrep, hbase, hnear, hclean, hroom, holdr, hbr⟩ := hr
    have hrmw : s.RmwAt c i := ⟨hrep, hbase, hnear, hclean, hroom, holdr, hbr⟩
    generalize hv : s.nearWord c (s.w c i.a).val.toNat = old at *
    have harith := arith_add_int hold old.val (s.w c i.b).val
    have hnil : old.tag ≠ Tag.nil := by rcases hold with e | e <;> rw [e] <;> decide
    have hpass : Src.passes { w := s.w c i.b, ok := fun t => t == Tag.int || t == Tag.nat, pos := 3, nilUse := true } := by
      refine ⟨?_, fun _ hn => hnil (hb.symm.trans hn)⟩
      show ((s.w c i.b).tag == Tag.int || (s.w c i.b).tag == Tag.nat) = true
      rw [hb]
      simpa using hold
    generalize flagsOf _ _ _ = fl at harith
    suffices hex : ∃ t, execXadd c p s0 = .next t ∧ s.exchanged t c i (s.w c i.a).val.toNat (some ⟨old.tag, old.val + (s.w c i.b).val⟩)
        ((s.cr c).put i.d old) (if i.nf then (s.cr c).flg else fl.into (s.cr c).flg) by
      obtain ⟨t, ht, hx⟩ := hex
      exact ⟨t, fl, ht, harith, hx⟩
    refine State.instr_exchanged h _ (by simp [hop]) _ hcan hrmw
      (readModify_near hrmw ?_ (g := fun u => u.tookOld c i.d old i.nf (fl.into (s.cr c).flg)) ?_)
    · exact passes_one hpass
    · rw [hv]
      dsimp only
      rw [if_neg hnil, if_neg (fun hn => hold.elim hn.1 hn.2), if_neg (fun hn => hn.1 hb), harith]
      rfl
  · show ∃ t, execBmov c p s0 = .next t ∧ _
    refine State.instr_passed h _ (by simp [hop]) _ ?_
    dsimp only
    rw [if_pos h0, if_pos h0]
    exact withAccess_pass (fun m hm => by cases hm) (passes_two (base_passes ha) (base_passes hb)) _
  · show ∃ t, execBmov c p s0 = .next t ∧ _
    generalize hl : [{ a := (s.w c i.a).val.toNat, v := s.nearWord c (s.w c i.b).val.toNat : BufStore }] = l
    obtain ⟨hin1, hcr1⟩ := State.advancePtr_spec (v := (s.w c i.a).val) (State.pushed_inStep hin l) (State.w_zero_of_tag ha)
    obtain ⟨_, hcr⟩ := State.advancePtr_spec (v := (s.w c i.b).val) hin1 (State.w_zero_of_tag hb)
    rw [hcr1, State.w_pushed] at hcr
    refine State.instr_blockNext h _ (by simp [hop]) _
      (acc := [((s.w c i.b).val.toNat, none), ((s.w c i.a).val.toNat, some (s.nearWord c (s.w c i.b).val.toNat))]) hrep ?_ hcr
      (State.keeps_trans (s.setCore_keeps c _) (State.keeps_trans (State.setW_keeps _ c _ _) (State.setW_keeps _ c _ _) (n := [.core c])))
    dsimp only
    rw [if_neg h0, if_neg h0,
      withAccess_pass (fun m hm => by rcases List.mem_pair.mp hm with rfl | rfl; exacts [State.barred_nearHome hy, State.barred_nearHome hx])
        (passes_two (base_passes ha) (base_passes hb)),
      regionOf_nearD hx.1, if_pos (show (Region.nearD c).buffers = true from rfl), State.room_of_short hlen]
    unfold andThen State.storeAfter
    dsimp only
    rw [State.loadWord_near hy he ht]
    dsimp only
    rw [State.storeWord_near hx hlen, hl]
  · show ∃ t, execBfill c p s0 = .next t ∧ _
    refine State.instr_passed h _ (by simp [hop]) _ ?_
    dsimp only
    rw [if_pos h0, if_pos h0]
    exact withAccess_pass (fun m hm => by cases hm) (passes_two (base_passes ha) (whole_passes hb)) _
  · show ∃ t, execBfill c p s0 = .next t ∧ _
    obtain ⟨_, hcr⟩ := State.advancePtr_spec (v := (s.w c i.a).val) (State.pushed_inStep hin [{ a := (s.w c i.a).val.toNat, v := s.w c i.b }])
      (State.w_zero_of_tag ha)
    rw [State.w_pushed] at hcr
    refine State.instr_blockNext h _ (by simp [hop]) _ (acc := [((s.w c i.a).val.toNat, some (s.w c i.b))]) hrep ?_ hcr
      (State.keeps_trans (s.setCore_keeps c _) (State.setW_keeps _ c _ _))
    dsimp only
    rw [if_neg h0, if_neg h0,
      withAccess_pass (fun m hm => by obtain rfl := List.mem_singleton.mp hm; exact State.barred_nearHome hx)
        (passes_two (base_passes ha) (whole_passes hb)), State.storeWord_near hx hlen]
    rfl

end Sys2Proof.Machine
end
section
/-!
PROOFS. Store drains, lane grants and ownership (O42): the clause on the access that a lane grants fails.
-/

namespace Sys2Proof.Machine

/-- A lane sees the first waiting access of each requester alone. Here requester 0 waits at lane 0 with a paired access, which lane 1 does not
grant yet (it granted requester 1 last, and requester 2 waits there), and behind it with an unpaired one. -/
def hiddenAccessBank : GBank where
  wait := [{ who := 0, word := 0, pair := true }, { who := 0, word := 0 }, { who := 1, word := 0 }, { who := 2, word := 1 }]
  last := (Vector.replicate 8 8).set 1 1

/-- Lane 0 passes over requester 0, whose unpaired access it does not see, and grants requester 1. -/
theorem hiddenAccessBank_next : hiddenAccessBank.next 0 = some { who := 1, word := 0 } := by decide

/-- The unpaired access of requester 0 waits at lane 0 and comes before the granted one in the lane's order. -/
theorem hiddenAccessBank_passedOver : ∃ q ∈ hiddenAccessBank.wait, gaccUses q 0 = true ∧ q.pair = false ∧
    (q.who + 8 - nth hiddenAccessBank.last 0 8) % 9 < (1 + 8 - nth hiddenAccessBank.last 0 8) % 9 := by decide

theorem hiddenAccessBank_who : ∀ q ∈ hiddenAccessBank.wait, q.who < 9 := by decide

theorem hiddenAccessBank_last (k : Nat) : nth hiddenAccessBank.last k 8 < 9 := by
  by_cases hk : k < 8
  · interval_cases k <;> decide
  · unfold nth
    rw [dif_neg hk]
    decide

/-- Refutes O42: where a requester's first waiting access is paired and its other lane grants another one, its next access, unpaired, is passed
over with it, and a later requester is granted before it. -/
theorem not_granaryAccesses : ¬ Obligations.GranaryAccesses := by
  intro h
  obtain ⟨_, _, _, _, _, hnext, _⟩ := h
  obtain ⟨_, _, hfirst, _⟩ := hnext hiddenAccessBank 0 _ hiddenAccessBank_who hiddenAccessBank_last hiddenAccessBank_next
  obtain ⟨q, hq, huses, hpair, hlt⟩ := hiddenAccessBank_passedOver
  rcases hfirst q hq huses with hle | hp
  · exact absurd hle (Nat.not_le_of_gt hlt)
  · rw [hpair] at hp
    cases hp

end Sys2Proof.Machine
end
section
/-!
PROOFS. MIN and MAX on FLT (O31), and the control transfers (O32).
-/

namespace Sys2Proof.Machine

/-! ### MIN and MAX on FLT (R334) -/

/-- What the order of FLT compares: an infinity lies beyond every finite number, a NaN has no place. -/
def Flt.key : Flt → Option (Int × Int)
  | .nan _ => none
  | .inf s => some (if s then -1 else 1, 0)
  | .fin s m e => some (0, (if s then -1 else 1) * (m * 2 ^ (e + 149).toNat : Nat))

theorem fltIsNaN_eq_key (a : Word) : fltIsNaN a = (Flt.ofBits a).key.isNone := by
  unfold fltIsNaN Flt.key
  cases Flt.ofBits a <;> rfl

/-- Numbers of which neither is the smaller stand at one place. -/
theorem key_eq_of_unordered {a b : Word} (ha : fltIsNaN a = false) (hb : fltIsNaN b = false) (hlt : fltCmp a b ≠ some .lt)
    (hgt : fltCmp a b ≠ some .gt) : (Flt.ofBits a).key = (Flt.ofBits b).key := by
  have hcmp : fltCmp a b = match (Flt.ofBits a).key, (Flt.ofBits b).key with
      | some x, some y =>
        if x.1 < y.1 then some .lt else if y.1 < x.1 then some .gt
        else if x.2 < y.2 then some .lt else if y.2 < x.2 then some .gt else some .eq
      | _, _ => none := rfl
  rw [fltIsNaN_eq_key, Option.isNone_eq_false_iff, Option.isSome_iff_exists] at ha hb
  obtain ⟨x, hx⟩ := ha
  obtain ⟨y, hy⟩ := hb
  rw [hx, hy] at hcmp ⊢
  rw [hcmp] at hlt hgt
  dsimp only at hlt hgt
  have h1 : ¬x.1 < y.1 := fun h => hlt (if_pos h)
  rw [if_neg h1] at hlt hgt
  have h2 : ¬y.1 < x.1 := fun h => hgt (if_pos h)
  rw [if_neg h2] at hlt hgt
  have h3 : ¬x.2 < y.2 := fun h => hlt (if_pos h)
  rw [if_neg h3] at hgt
  have h4 : ¬y.2 < x.2 := fun h => hgt (if_pos h)
  exact congrArg some (Prod.ext (by omega) (by omega))

/-- The zeros are the words at the place 0. -/
theorem fltIsZero_iff_key (a : Word) : fltIsZero a = true ↔ (Flt.ofBits a).key = some (0, 0) := by
  have hparts : getBits a 0 31 = getBits a 23 8 * 2 ^ 23 + getBits a 0 23 := by
    unfold getBits bitsN
    omega
  have hlt := getBits_lt a 0 23
  unfold fltIsZero Flt.ofBits
  dsimp only
  rw [decide_eq_true_iff, hparts]
  by_cases h255 : getBits a 23 8 = 255
  · rw [if_pos h255, h255]
    by_cases h0 : getBits a 0 23 = 0
    · rw [if_pos h0]
      cases a.getLsbD 31 <;> simp [Flt.key]
    · rw [if_neg h0]
      simp [Flt.key]
  rw [if_neg h255]
  by_cases hex : getBits a 23 8 = 0
  · rw [if_pos hex, hex]
    cases a.getLsbD 31 <;> simp [Flt.key]
  · rw [if_neg hex]
    have hpow : (2 : Int) ^ (((getBits a 23 8 : Nat) : Int) - 150 + 149).toNat ≠ 0 := by positivity
    cases a.getLsbD 31 <;> simp [Flt.key, hex] <;> omega

/-- The zeros are +0 and -0. -/
theorem mem_of_fltIsZero {a : Word} (h : fltIsZero a = true) : a ∈ [0, 0x80000000] := by
  have h0 : a.toNat % 2 ^ 31 = 0 := of_decide_eq_true h
  have hlt := a.isLt
  have hcase : a.toNat = 0 ∨ a.toNat = 0x80000000 := by omega
  exact List.mem_pair.mpr (hcase.imp (fun e => BitVec.eq_of_toNat_eq e) (fun e => BitVec.eq_of_toNat_eq e))

/-- The greater and the smaller of two zeros, by their sign bits, is one of them. -/
theorem and_or_of_zeros : ∀ m : Bool, ∀ a ∈ [(0 : Word), 0x80000000], ∀ b ∈ [(0 : Word), 0x80000000],
    (if m then a &&& b else a ||| b) = a ∨ (if m then a &&& b else a ||| b) = b := by simp

/-- MIN and MAX of two numbers give one of them, with V 0. -/
theorem fltMinMax_of_numbers (m : Bool) {a b : Word} (ha : fltIsNaN a = false) (hb : fltIsNaN b = false) :
    ((fltMinMax m a b).1 = a ∨ (fltMinMax m a b).1 = b) ∧ (fltMinMax m a b).2 = false := by
  unfold fltMinMax
  rw [ha, hb]
  simp only [Bool.false_eq_true, if_false]
  split
  · cases m <;> simp
  · cases m <;> simp
  · next hlt hgt =>
    have hkey := key_eq_of_unordered ha hb hlt hgt
    split
    · next hz =>
      have hzb : fltIsZero b = true := (fltIsZero_iff_key b).mpr (hkey ▸ (fltIsZero_iff_key a).mp hz)
      exact ⟨and_or_of_zeros m a (mem_of_fltIsZero hz) b (mem_of_fltIsZero hzb), rfl⟩
    · exact ⟨.inl rfl, rfl⟩

/-- MIN and MAX on FLT are `fltMinMax` with the flags of its word. -/
theorem aluResult_fltMinMax (m : Bool) {a b w : Word} {v : Bool} (h : fltMinMax m a b = (w, v)) :
    aluResult (if m then 15 else 14) Tag.flt a b = .val ⟨Tag.flt, w⟩ (fltFlags w v) := by
  have hm : aluResult (if m then 15 else 14) Tag.flt a b =
      .val ⟨Tag.flt, (fltMinMax m a b).1⟩ (fltFlags (fltMinMax m a b).1 (fltMinMax m a b).2) := by
    cases m <;> rfl
  rw [hm, h]

/-- Settles O31: a NaN operand by the definition, two numbers by `fltMinMax_of_numbers`, the two zeros by evaluation. -/
theorem fltMinAndMax : Obligations.FltMinMax := by
  intro m a b
  refine ⟨fun ha hb => aluResult_fltMinMax m ?_, fun ha hb => aluResult_fltMinMax m ?_, fun ha hb => aluResult_fltMinMax m ?_, fun ha hb => ?_⟩
  · unfold fltMinMax
    rw [ha, hb]
    rfl
  · unfold fltMinMax
    rw [ha, hb]
    rfl
  · unfold fltMinMax
    rw [ha, hb]
    rfl
  · obtain ⟨hw, hv⟩ := fltMinMax_of_numbers m ha hb
    refine ⟨_, hw, aluResult_fltMinMax m (Prod.ext rfl hv), ?_, ?_⟩
    · rintro rfl rfl
      cases m <;> decide
    · rintro rfl rfl
      cases m <;> decide

/-! ### Control transfers (R327, R329, R341) -/

/-- The conditions of the table by number (R327). -/
theorem condHolds_eq_table (flg : BitVec 5) {x : Nat} (hx : x < 16) :
    condHolds flg x = [true, flg.getLsbD 0, !flg.getLsbD 0, flg.getLsbD 1 != flg.getLsbD 3, flg.getLsbD 1 == flg.getLsbD 3,
      flg.getLsbD 0 || flg.getLsbD 1 != flg.getLsbD 3, !flg.getLsbD 0 && flg.getLsbD 1 == flg.getLsbD 3, flg.getLsbD 2, !flg.getLsbD 2,
      !flg.getLsbD 2 && !flg.getLsbD 0, flg.getLsbD 2 || flg.getLsbD 0, flg.getLsbD 1, !flg.getLsbD 1, flg.getLsbD 3, flg.getLsbD 4,
      !flg.getLsbD 4].getD x true := by
  interval_cases x <;> rfl

section
variable {s0 s : State} {c : Fin 2} {p : Phys} {i : NIns} (h : s0.issues c p i s) (hrep : i.pre.rep = false) (is : NIns → Bool) (hi : is i = true)
  (f : NIns → State → Eff)
include h hrep hi

/-- A transfer that writes nothing but the PC. -/
theorem State.instr_jumps {nx : Option Word} (hf : f i s = .done s nx []) :
    ∃ t, s0.instr c p is f = .next t ∧ s.wentTo t c i (s.cr c).w (s.cr c).flg (nx.getD (s.nextPc c i)) := by
  have hself : s.setFlg c (s.cr c).flg = s := State.setCore_self rfl
  obtain ⟨t, ht, hran, hk⟩ := State.instr_flg h is hi f (hf.trans (by rw [hself]))
  rw [hrep, if_neg Bool.false_ne_true] at hran
  exact ⟨t, ht, hran, hk⟩

/-- A branch from a state in which FLG has been written: the displacement counts from the next instruction. -/
theorem State.instr_branchFlg {P : Prop} [Decidable P] {flg : BitVec 5} (hf : f i s = branch (decide P) c i (s.setFlg c flg)) :
    ∃ t, s0.instr c p is f = .next t ∧
      s.wentTo t c i (s.cr c).w flg (if P then s.nextPc c i + BitVec.ofInt 32 i.disp else s.nextPc c i) := by
  have hpc : (s.setFlg c flg).nextPc c i = s.nextPc c i := by
    unfold State.nextPc State.setFlg
    rw [State.cr_setCore_same]
  unfold branch at hf
  rw [hpc] at hf
  obtain ⟨t, ht, hran, hk⟩ := State.instr_flg h is hi f hf
  rw [hrep, if_neg Bool.false_ne_true] at hran
  refine ⟨t, ht, ?_, hk⟩
  by_cases hP : P
  · simpa [hP] using hran
  · simpa [hP] using hran

theorem State.instr_branch {take : Bool} (hf : f i s = branch take c i s) :
    ∃ t, s0.instr c p is f = .next t ∧
      s.wentTo t c i (s.cr c).w (s.cr c).flg (if take then s.nextPc c i + BitVec.ofInt 32 i.disp else s.nextPc c i) := by
  have hself : s.setFlg c (s.cr c).flg = s := State.setCore_self rfl
  exact State.instr_branchFlg h hrep is hi f (hf.trans (by rw [hself, Bool.decide_eq_true]))

/-- A call: the address of the next instruction goes to `d` as CODE. -/
theorem State.instr_calls {pc : Word} (hf : f i s = .done (s.setW c i.d ⟨Tag.code, s.nextPc c i⟩) (some pc) []) :
    ∃ t, s0.instr c p is f = .next t ∧ s.wentTo t c i ((s.cr c).put i.d ⟨Tag.code, s.nextPc c i⟩) (s.cr c).flg pc := by
  obtain ⟨t, ht, hran, hk⟩ := State.instr_setW h is hi f hf
  rw [hrep, if_neg Bool.false_ne_true] at hran
  exact ⟨t, ht, hran, hk⟩

end

/-- A jump target of an accepted tag passes. -/
theorem withOperands_target {tagx : Bool} {s : State} {w : TWord} (h : w.tag = Tag.ptr ∨ w.tag = Tag.code) (k : Eff) :
    withOperands tagx s [target w] k = k := by
  refine withOperands_pass (passes_one ⟨?_, fun hn => Bool.noConfusion hn⟩) k
  show (w.tag == Tag.ptr || w.tag == Tag.code) = true
  simpa using h

/-- Settles O32: the branches by `State.instr_branch`, the jumps and calls by the PC that their effect names. -/
theorem controlTransfersComplete : Obligations.ControlTransfersComplete := by
  intro c p s0 s i h hrep
  refine ⟨fun hop => ?_, fun hop hx => ?_, fun hop hx => ?_, fun hop ha => ?_, fun hop hd => ?_, fun hop hd => ?_, fun hop => ?_, fun hop ha => ?_⟩
  · show ∃ t, execNop c p s0 = .next t ∧ _
    exact State.instr_passed h _ (by simp [hop]) _ rfl
  · show ∃ t, execBcc c p s0 = .next t ∧ _
    rw [← condHolds_eq_table _ hx]
    exact State.instr_branch h hrep _ (by simp [hop]) _ rfl
  · show ∃ t, execBr c p s0 = .next t ∧ _
    rw [← condHolds_eq_table _ hx]
    exact State.instr_branch h hrep _ (by simp [hop]) _ rfl
  · show ∃ t, execBtag c p s0 = .next t ∧ _
    exact State.instr_branchFlg h hrep _ (by simp [hop]) _ (withOperands_whole ha _)
  · show ∃ t, execRet c p s0 = .next t ∧ _
    exact State.instr_jumps (nx := some _) h hrep _ (by simp [hop]) _ (withOperands_one hd (by decide) _)
  · show ∃ t, execJmpr c p s0 = .next t ∧ _
    exact State.instr_jumps (nx := some _) h hrep _ (by simp [hop]) _ (withOperands_target hd _)
  · show ∃ t, execCall c p s0 = .next t ∧ _
    exact State.instr_calls h hrep _ (by simp [hop]) _ rfl
  · show ∃ t, execCallr c p s0 = .next t ∧ _
    exact State.instr_calls h hrep _ (by simp [hop]) _ (withOperands_target ha _)

end Sys2Proof.Machine
end
section
/-!
PROOFS. The handle instructions and CJOB (O38).
-/

namespace Sys2Proof.Machine

/-! ### Names and handles (R347 to R350) -/

/-- The channel kinds: indices, input records from an address in steps, command words from an address, 0 where a kind has none. -/
def chanKinds : List (Nat × Nat × Nat × Nat) :=
  [(48, 0x30000200, 0x40, 0x30010100), (8, 0x30000E00, 0x40, 0x300101C0), (12, 0x30001900, 0x40, 0x30010800),
   (4, 0x30001C00, 0x20, 0x30010840), (24, 0x30002020, 0x20, 0x30010C00), (48, 0x30002420, 8, 0), (2, 0x300025A0, 8, 0),
   (24, 0x30002600, 0x10, 0), (4, 0x30002780, 0x10, 0x30010E00), (3, 0x30001820, 0x20, 0)]

/-- The step from one command word to the next of a kind. -/
def cmdStep (k : Nat) : Nat := if k = 1 then 8 else 4

/-- The kind of a CHAN payload that names an object of the table. -/
def chanNamed (w : Word) : Option (Nat × Nat × Nat × Nat) :=
  (chanKinds[getBits w 24 8]?).filter (fun q => decide (getBits w 0 16 < q.1) && decide (getBits w 16 8 = 0))

/-- A kind without command words has no step in the model. -/
theorem channelKind_eq (k : Nat) :
    channelKind k = (chanKinds[k]?).map (fun q => (q.1, (q.2.1, q.2.2.1), (q.2.2.2, if q.2.2.2 = 0 then 0 else cmdStep k))) := by
  by_cases hk : k < 10
  · interval_cases k <;> rfl
  · obtain ⟨n, rfl⟩ := Nat.exists_eq_add_of_le' (Nat.le_of_not_lt hk)
    have hnone : chanKinds[n + 10]? = none := List.getElem?_eq_none (Nat.le_add_left 10 n)
    rw [hnone]
    rfl

theorem chanObject_eq (w : Word) : chanObject w = (chanNamed w).map (fun q => (q.2.1 + q.2.2.1 * getBits w 0 16,
    if q.2.2.2 = 0 then none else some (q.2.2.2 + cmdStep (getBits w 24 8) * getBits w 0 16))) := by
  unfold chanObject chanNamed
  dsimp only
  rw [channelKind_eq]
  by_cases h16 : getBits w 16 8 = 0
  · rw [if_neg (not_not.mpr h16)]
    cases chanKinds[getBits w 24 8]? with
    | none => rfl
    | some q =>
      by_cases hn : getBits w 0 16 < q.1
      · by_cases h0 : q.2.2.2 = 0 <;> simp [Option.filter_some, h16, hn, h0]
      · simp [Option.filter_some, h16, hn]
  · rw [if_pos h16]
    cases chanKinds[getBits w 24 8]? with
    | none => rfl
    | some q => simp [h16]

theorem chanObject_isSome (w : Word) (v : TWord) :
    (if (chanObject w).isSome then some v else none) = (chanNamed w).map (fun _ => v) := by
  rw [chanObject_eq, Option.isSome_map]
  cases chanNamed w <;> rfl

/-- The command word of a name, where its kind has one. -/
theorem chanObject_command (w : Word) : (chanObject w).bind (fun o => o.2.map (fun q => (⟨Tag.ptr, BitVec.ofNat 32 q⟩ : TWord))) =
    ((chanNamed w).filter (fun q => q.2.2.2 != 0)).map
      (fun q => ⟨Tag.ptr, BitVec.ofNat 32 (q.2.2.2 + cmdStep (getBits w 24 8) * getBits w 0 16)⟩) := by
  rw [chanObject_eq]
  cases chanNamed w with
  | none => rfl
  | some q => by_cases h0 : q.2.2.2 = 0 <;> simp [Option.filter_some, h0]

/-- The message objects are those of six ports. -/
theorem msgOk_eq (w : Word) : msgOk w = decide (w.toNat < 1536) := by
  unfold msgOk getBits bitsN
  rw [← Bool.decide_and]
  exact decide_eq_decide.mpr (by rw [Nat.shiftRight_eq_div_pow]; omega)

/-- The port and the number of a message object. -/
theorem msgAddress_eq {w : Word} (h : w.toNat < 1536) :
    0x40090800 + 0x2000 * getBits w 8 3 + 4 * getBits w 0 8 = 0x40090800 + 0x2000 * (w.toNat / 256) + 4 * (w.toNat % 256) := by
  unfold getBits bitsN
  rw [Nat.shiftRight_eq_div_pow, Nat.shiftRight_zero]
  omega

/-- Every handle passes where HIDX takes one. -/
theorem withOperands_anyHandle {tagx : Bool} {s : State} {w : TWord} (h : w.tag = Tag.chan ∨ w.tag = Tag.msg ∨ w.tag = Tag.key) (k : Eff) :
    withOperands tagx s [{ w := w, ok := fun t => t == Tag.chan || t == Tag.msg || t == Tag.key, pos := 0, uniq := false }] k = k := by
  refine withOperands_pass (passes_one ⟨?_, fun hn => Bool.noConfusion hn⟩) k
  show (w.tag == Tag.chan || w.tag == Tag.msg || w.tag == Tag.key) = true
  simpa [or_assoc] using h

/-- A command has written a handle or pointer to its destination, or without one is a HANDLE trap (R290). -/
def State.gives (s : State) (c : Fin 2) (i : NIns) (out : Out) (v : Option TWord) : Prop :=
  (∀ w, v = some w → ∃ t, out = .next t ∧ s.wroteReg t c i w) ∧ (v = none → out = .next (s.trapEnter c 8 0 (s.cr c).pc))

section
variable {s0 s : State} {c : Fin 2} {p : Phys} {i : NIns} (h : s0.issues c p i s) (is : NIns → Bool) (hi : is i = true) (f : NIns → State → Eff)
include h hi

theorem State.instr_handle {v : Option TWord} (hf : f i s = handleOut c i s v) : s.gives c i (s0.instr c p is f) v := by
  refine ⟨fun w hv => ?_, fun hv => ?_⟩
  · rw [hv] at hf
    exact State.instr_wroteReg h is hi f hf
  · rw [hv] at hf
    exact State.instr_trap h is hi f (t := s) hf

/-- An instruction that waits. -/
theorem State.instr_waits {t : State} (hf : f i s = .wait t) : s0.instr c p is f = .next t := by
  rw [State.instr_of_issues h is hi f, hf]
  rfl

end

/-! ### The descriptor of a job (R586) -/

/-- Six words of the own near data store that can be read (R298, R586). -/
structure State.DescriptorAt (s : State) (c : Fin 2) (a : Nat) : Prop where
  first : s.nearHome c a
  last : s.nearHome c (a + 20)
  clean : ∀ j, j < 6 → s.eccAt (a + 4 * j) = .clean
  tags : ∀ w ∈ (upto 6).map (fun j => s.nearWord c (a + 4 * j)), w.tag ≠ Tag.reserved

section
variable {s : State} {c : Fin 2} {a : Nat} (h : s.DescriptorAt c a)
include h

theorem State.DescriptorAt.nearHome {j : Nat} (hj : j < 6) : s.nearHome c ((a + 4 * j) % 2 ^ 32) := by
  obtain ⟨hin, h4, hlock, hon⟩ := h.first
  have hge : nearD c ≤ a := of_decide_eq_true (Bool.and_eq_true_iff.mp hin).1
  have hlt : a + 20 < nearD c + 0x10000 := of_decide_eq_true (Bool.and_eq_true_iff.mp h.last.1).2
  have hc := c.isLt
  refine ⟨?_, ?_, hlock, hon⟩
  · unfold nearD at hge hlt
    unfold inStore nearD
    rw [Bool.and_eq_true, decide_eq_true_eq, decide_eq_true_eq]
    omega
  · omega

theorem State.DescriptorAt.mod_eq {j : Nat} (hj : j < 6) : (a + 4 * j) % 2 ^ 32 = a + 4 * j := by
  have hlt : a + 20 < nearD c + 0x10000 := of_decide_eq_true (Bool.and_eq_true_iff.mp h.last.1).2
  have hc := c.isLt
  unfold nearD at hlt
  omega

theorem State.DescriptorAt.loadWord {j : Nat} (hj : j < 6) (tagx : Bool) :
    s.loadWord c tagx ((a + 4 * j) % 2 ^ 32) = .ok (s.nearWord c (a + 4 * j), s) := by
  have hnear := h.nearHome hj
  rw [h.mod_eq hj] at hnear ⊢
  exact State.loadWord_near hnear (h.clean j hj) (h.tags _ (List.mem_map.mpr ⟨j, (mem_upto 6 j).mpr hj, rfl⟩))

end

/-- One more word of a descriptor. -/
def State.descriptorStep (s : State) (c : Fin 2) (tagx : Bool) (a : Nat) (r : Except Eff (List TWord × State)) (j : Nat) :
    Except Eff (List TWord × State) :=
  match r with
  | .error x => .error x
  | .ok (l, t) =>
    match s.loadAfter t c tagx ((a + 4 * j) % 2 ^ 32) with
    | .error x => .error x
    | .ok (v, u) => .ok (l ++ [v], u)

theorem State.descriptor_eq (s : State) (c : Fin 2) (tagx : Bool) (a : Nat) :
    s.descriptor c tagx a = (upto 6).foldl (s.descriptorStep c tagx a) (.ok ([], s)) := rfl

/-- A descriptor in the own near data store is read as it stands. -/
theorem State.descriptor_near {s : State} {c : Fin 2} {a : Nat} (h : s.DescriptorAt c a) (tagx : Bool) :
    s.descriptor c tagx a = .ok ((upto 6).map (fun j => s.nearWord c (a + 4 * j)), s) := by
  have hstep : ∀ (l : List TWord) (j : Nat), j < 6 →
      s.descriptorStep c tagx a (.ok (l, s)) j = .ok (l ++ [s.nearWord c (a + 4 * j)], s) := by
    intro l j hj
    unfold State.descriptorStep State.loadAfter
    dsimp only
    rw [h.loadWord hj]
  have hall : ∀ (js : List Nat) (l : List TWord), (∀ j ∈ js, j < 6) →
      js.foldl (s.descriptorStep c tagx a) (.ok (l, s)) = .ok (l ++ js.map (fun j => s.nearWord c (a + 4 * j)), s) := by
    intro js
    induction js with
    | nil => intro l _; simp
    | cons j js ih =>
      intro l hjs
      rw [List.foldl_cons, hstep l j (hjs j (by simp)), ih _ (fun k hk => hjs k (by simp [hk])), List.map_cons, List.append_assoc,
        List.singleton_append]
  rw [State.descriptor_eq, hall _ _ (fun j hj => (mem_upto 6 j).mp hj), List.nil_append]

/-! ### CJOB (R350, R587) -/

/-- Submission leaves the recovery mode. -/
theorem State.submit_rcvr (s : State) (d : List TWord) (slot : Nat) : (s.submit d slot).2.sec.rcvr = s.sec.rcvr := by
  unfold State.submit
  dsimp only
  split <;> rfl

/-- The word of a job's number, or NIL 0 where the queue is full. -/
def jobWord : Option Nat → TWord
  | some j => TWord.nat j
  | none => TWord.nil0

/-- What CJOB does once its descriptor has been read: the job's number goes to `d`, or NIL 0. -/
def State.submitTo (s1 : State) (c : Fin 2) (i : NIns) (key : Word) (addr : Nat) (d : List TWord × State) : Eff :=
  if d.2.domLocked domSec then .ok (d.2.lockAccess.setW c i.d TWord.nil0)
  else if d.2.domOn domSec = false then .wait (s1.stallOn c domSec)
  else
    let r := d.2.submit d.1 (getBits key 0 5)
    .done (r.2.setW c i.d (jobWord r.1)) none ((upto 6).map (fun j => (addr + 4 * j, none)))

/-- What CJOB does once its operands and its mode have been checked. -/
def State.cjobChecked (s : State) (c : Fin 2) (i : NIns) : Eff :=
  let addr := (s.w c i.b).val.toNat
  if s.keyOk (s.w c i.a).val = false then .trap 8 0 s
  else andThen (s.emptied c) (fun s1 => andThen (s1.descriptor c i.pre.tagx addr) (s1.submitTo c i (s.w c i.a).val addr))

/-- The operation that the descriptor of a CJOB names, where it can be read. -/
def State.cjobOp (s : State) (c : Fin 2) (i : NIns) : Option Nat :=
  if (s.w c i.b).tag = Tag.ptr ∨ i.pre.tagx = true then (match s.loadWord c i.pre.tagx (s.w c i.b).val.toNat with
    | .ok r => some (getBits r.1.val 0 8)
    | .error _ => none) else none

/-- The effect of CJOB. -/
def cjobEffect (c : Fin 2) (i : NIns) (s : State) : Eff :=
  if (s.cr c).job && ((s.cjobOp c i).map opSup).getD false then .trap 6 0 s
  else withAccess c i.pre.tagx s
    ((upto 6).map (fun j => ⟨[one (s.w c i.b) Tag.ptr 1 true], ((s.w c i.b).val.toNat + 4 * j) % 2 ^ 32⟩))
    [one (s.w c i.a) Tag.key 0, one (s.w c i.b) Tag.ptr 1 true] (s.cjobChecked c i)

theorem exec_cjob (c : Fin 2) (p : Phys) (s : State) : exec (.cjob c p) s = s.instr c p (fun i => i.op == 0xA9) (cjobEffect c) := rfl

section
variable {s : State} {c : Fin 2} {i : NIns} (ha : (s.w c i.a).tag = Tag.key) (hb : (s.w c i.b).tag = Tag.ptr)
include ha hb

/-- Operands of their tags and words that the core may access pass. -/
theorem cjobEffect_of_allowed (hsup : ((s.cr c).job && ((s.cjobOp c i).map opSup).getD false) = false)
    (hbar : ∀ j, j < 6 → s.barred c (((s.w c i.b).val.toNat + 4 * j) % 2 ^ 32) = false) : cjobEffect c i s = s.cjobChecked c i := by
  have hone : ∀ {w : TWord} {t : Tag} {pos : Nat} {n : Bool}, w.tag = t → t ≠ Tag.nil → (one w t pos n).passes :=
    fun hw hn => ⟨beq_iff_eq.mpr hw, fun _ e => hn (hw.symm.trans e)⟩
  unfold cjobEffect
  rw [hsup, if_neg Bool.false_ne_true]
  refine withAccess_pass (fun m hm => ?_) (passes_two (hone ha (by decide)) (hone hb (by decide))) _
  obtain ⟨j, hj, rfl⟩ := List.mem_map.mp hm
  exact hbar j ((mem_upto 6 j).mp hj)

end

section
variable {s : State} {c : Fin 2} {i : NIns}

theorem State.cjobChecked_bad (h : s.keyOk (s.w c i.a).val = false) : s.cjobChecked c i = .trap 8 0 s := if_pos h

/-- A good key and a readable descriptor. -/
theorem State.cjobChecked_good (h : s.keyOk (s.w c i.a).val = true) (hbuf : (s.cr c).buf = [])
    (hd : s.DescriptorAt c (s.w c i.b).val.toNat) :
    s.cjobChecked c i = s.submitTo c i (s.w c i.a).val (s.w c i.b).val.toNat
      ((upto 6).map (fun j => s.nearWord c ((s.w c i.b).val.toNat + 4 * j)), s) := by
  unfold State.cjobChecked
  dsimp only
  rw [if_neg (by rw [h]; decide), State.emptied_of_empty hbuf]
  unfold andThen
  dsimp only
  rw [State.descriptor_near hd]

/-- The operation of a readable descriptor is in its first word. -/
theorem State.cjobOp_near (hb : (s.w c i.b).tag = Tag.ptr) (hd : s.DescriptorAt c (s.w c i.b).val.toNat) :
    s.cjobOp c i = some (getBits (s.nearWord c (s.w c i.b).val.toNat).val 0 8) := by
  have hload := hd.loadWord (j := 0) (by decide) i.pre.tagx
  rw [hd.mod_eq (by decide), Nat.mul_zero, Nat.add_zero] at hload
  unfold State.cjobOp
  rw [if_pos (.inl hb), hload]

end

section
variable {s0 s : State} {c : Fin 2} {p : Phys} {i : NIns} (h : s0.issues c p i s) (is : NIns → Bool) (hi : is i = true) (f : NIns → State → Eff)
include h hi

/-- SEC is ON: the job's number goes to `d`, or NIL 0 where the queue is full. -/
theorem State.instr_submitted {key : Word} {addr : Nat} {d : List TWord} (hlock : s.domLocked domSec = false) (hon : s.domOn domSec = true)
    (hf : f i s = s.submitTo c i key addr (d, s)) (hcr : (s.submit d (key.toNat % 32)).2.cr c = s.cr c)
    (hw : (s.submit d (key.toNat % 32)).2.fld F.dbgWpctlEn = 0) :
    ∃ t, s0.instr c p is f = .next t ∧ (s.submit d (key.toNat % 32)).2.wroteReg t c i
      (jobWord (s.submit d (key.toNat % 32)).1) := by
  refine State.instr_wroteFrom h is hi f (acc := (upto 6).map (fun j => (addr + 4 * j, none))) (hf.trans ?_) hcr hw (s.submit_rcvr d _)
  unfold State.submitTo
  rw [if_neg (by simp [hlock]), if_neg (by simp [hon])]
  rfl

/-- SEC is OFF: the instruction waits for its wake. -/
theorem State.instr_submitAsleep {key : Word} {addr : Nat} {d : List TWord} (hlock : s.domLocked domSec = false) (hon : s.domOn domSec = false)
    (hf : f i s = s.submitTo c i key addr (d, s)) : s0.instr c p is f = .next (s.stallOn c domSec) := by
  refine State.instr_waits h is hi f (hf.trans ?_)
  unfold State.submitTo
  rw [if_neg (by simp [hlock]), if_pos hon]

/-- SEC is locked off: NIL 0 goes to `d`, and the access is reported. -/
theorem State.instr_submitLocked {key : Word} {addr : Nat} {d : List TWord} (hlock : s.domLocked domSec = true)
    (hf : f i s = s.submitTo c i key addr (d, s)) (hcr : s.lockAccess.cr c = s.cr c) (hw : s.lockAccess.fld F.dbgWpctlEn = 0)
    (hv : s.lockAccess.sec.rcvr = s.sec.rcvr) : ∃ t, s0.instr c p is f = .next t ∧ s.lockAccess.wroteReg t c i TWord.nil0 := by
  refine State.instr_wroteFrom h is hi f (acc := []) (hf.trans ?_) hcr hw hv
  unfold State.submitTo
  rw [if_pos hlock]

end

/-- Settles O38: each handle instruction by `State.instr_handle`, CJOB by `cjobEffect_of_allowed` and the three states of SEC. -/
theorem handleInstructionsComplete : Obligations.HandleInstructionsComplete := by
  intro c p s0 s i h
  refine ⟨fun hop ha => ?_, fun hop ha => ?_, fun hop ha => ?_, fun hop ha => ?_, fun hop ha => ?_, fun hop ha => ?_, fun hop ha => ?_,
    fun hop hj ha => ?_, fun hop hj => ?_, fun hop hrep hj ha hb => ?_, fun hop hrep ha hb hin => ?_⟩
  · show s.gives c i (execHchan c p s0) _
    exact State.instr_handle h _ (by simp [hop]) _ ((withOperands_one ha (by decide) _).trans (congrArg _ (chanObject_isSome _ _)))
  · show s.gives c i (execHrec c p s0) _
    refine State.instr_handle h _ (by simp [hop]) _ ((withOperands_one ha (by decide) _).trans (congrArg _ ?_))
    rw [chanObject_eq, Option.map_map]
    rfl
  · show s.gives c i (execHcmd c p s0) _
    exact State.instr_handle h _ (by simp [hop]) _ ((withOperands_one ha (by decide) _).trans (congrArg _ (chanObject_command _)))
  · show s.gives c i (execHmsg c p s0) _
    refine State.instr_handle h _ (by simp [hop]) _ ((withOperands_one ha (by decide) _).trans (congrArg _ ?_))
    rw [msgOk_eq]
    simp only [decide_eq_true_eq]
  · show s.gives c i (execHobj c p s0) _
    refine State.instr_handle h _ (by simp [hop]) _ ((withOperands_one ha (by decide) _).trans (congrArg _ ?_))
    rw [msgOk_eq]
    simp only [decide_eq_true_eq]
    split
    · next hlt => rw [msgAddress_eq hlt]
    · rfl
  · show s.gives c i (execHidx c p s0) _
    have hkey : (s.w c i.a).tag ≠ Tag.key := by rcases ha with e | e <;> rw [e] <;> decide
    exact State.instr_handle h _ (by simp [hop]) _ ((withOperands_anyHandle (by tauto) _).trans (by rw [if_neg hkey]; rfl))
  · show s.gives c i (execHidx c p s0) _
    exact State.instr_handle h _ (by simp [hop]) _ ((withOperands_anyHandle (.inr (.inr ha)) _).trans (by rw [if_pos ha]; rfl))
  · show s.gives c i (execKeyh c p s0) _
    exact State.instr_handle h _ (by simp [hop]) _ ((if_neg (by simp [hj])).trans (withOperands_one ha (by decide) _))
  · show execKeyh c p s0 = _
    exact State.instr_trap h _ (by simp [hop]) _ (if_pos hj)
  · rw [exec_cjob]
    have heff := cjobEffect_of_allowed ha hb (by rw [hj]; rfl) (fun j _ => by unfold State.barred; rw [hj, Bool.and_false])
    refine ⟨fun hk => ?_, fun hk hbuf hlock hon hin hcr hw => ?_⟩
    · exact State.instr_trap h _ (by simp [hop]) _ (t := s) (heff.trans (State.cjobChecked_bad hk))
    · obtain ⟨hfirst, hlast, hclean, htags⟩ := hin
      have hd : s.DescriptorAt c (s.w c i.b).val.toNat := ⟨hfirst, hlast, hclean, htags⟩
      exact State.instr_submitted h _ (by simp [hop]) _ hlock hon (heff.trans (State.cjobChecked_good hk hbuf hd)) hcr hw
  · rw [exec_cjob]
    obtain ⟨hfirst, hlast, hclean, htags⟩ := hin
    have hd : s.DescriptorAt c (s.w c i.b).val.toNat := ⟨hfirst, hlast, hclean, htags⟩
    have hcjobOp := State.cjobOp_near hb hd
    refine ⟨fun hj hsup => ?_, fun hmode => ?_⟩
    · exact State.instr_trap h _ (by simp [hop]) _ (if_pos (by rw [hj, hcjobOp]; exact hsup))
    · have heff := cjobEffect_of_allowed ha hb (by rw [hcjobOp, Bool.and_eq_false_iff]; exact hmode)
        (fun j hj => State.barred_nearHome (hd.nearHome hj))
      refine ⟨fun hk => ?_, fun hk hbuf => ?_⟩
      · exact State.instr_trap h _ (by simp [hop]) _ (t := s) (heff.trans (State.cjobChecked_bad hk))
      have hsub := heff.trans (State.cjobChecked_good hk hbuf hd)
      exact ⟨fun hlock hon _ hcr hw => State.instr_submitted h _ (by simp [hop]) _ hlock hon hsub hcr hw,
        fun hlock hon => State.instr_submitAsleep h _ (by simp [hop]) _ hlock hon hsub,
        fun hlock hcr hw hv => State.instr_submitLocked h _ (by simp [hop]) _ hlock hsub hcr hw hv⟩

end Sys2Proof.Machine
end
section
/-!
PROOFS. Custom instructions, their microcode, and the close of the custom region (O39).
-/

namespace Sys2Proof.Machine

/-! ### Operands (R357) -/

/-- An operand that a mask lets through passes; one that is not read has no check. -/
theorem customSrc_passes {read : Bool} {tags : Word} {lo pos : Nat} {w : TWord}
    (h : read = true → w.tag ≠ Tag.reserved ∧ tags.getLsbD (lo + w.tag.toNat) = true) :
    ∀ x ∈ customSrc read (getBits tags lo 16) w pos, x.passes ∧ x.w.tag ≠ Tag.reserved := by
  unfold customSrc
  intro x hx
  cases read
  · rw [if_pos rfl] at hx
    cases hx
  · rw [if_neg (by decide)] at hx
    obtain rfl := List.mem_singleton.mp hx
    obtain ⟨hres, hbit⟩ := h rfl
    have hmask : (getBits tags lo 16).testBit w.tag.toNat = true := by
      rw [testBit_getBits, BitVec.testBit_toNat, hbit, decide_eq_true w.tag.isLt]
      rfl
    refine ⟨⟨?_, fun hn e => ?_⟩, hres⟩
    · show (w.tag != Tag.reserved && (getBits tags lo 16).testBit w.tag.toNat) = true
      rw [hmask, bne_iff_ne.mpr hres]
      rfl
    · have e' : w.tag = Tag.nil := e
      have hn' : (!(getBits tags lo 16).testBit 0) = true := hn
      rw [e'] at hmask
      have hmask' : (getBits tags lo 16).testBit 0 = true := hmask
      rw [hmask'] at hn'
      cases hn'

theorem customOperands_pass {tagx : Bool} {s : State} {l : List Src} (h : ∀ x ∈ l, x.passes ∧ x.w.tag ≠ Tag.reserved) (k : Eff) :
    customOperands tagx s l k = k := by
  have hnone : (if tagx then l.find? (fun x => x.w.tag == Tag.reserved) else none) = none := by
    split
    · rw [List.find?_eq_none]
      intro x hx
      simpa using (h x hx).2
    · rfl
  unfold customOperands
  rw [hnone]
  exact withOperands_pass (fun x hx => (h x hx).1) k

/-! ### CUST (R353 to R361) -/

/-- The stores that a custom execution has held, as they enter the store buffer. -/
def heldStores (r : MRun) : List BufStore := r.held.map (fun h => { a := h.1, v := ⟨Tag.raw, h.2⟩ })

/-- A word register written where the entry says so. -/
def State.setWIf (s : State) (wr : Bool) (c : Fin 2) (d : Nat) (v : TWord) : State := if wr then s.setW c d v else s

/-- FLG written where the entry says so. -/
def State.setFlgIf (s : State) (fl : Bool) (c : Fin 2) (flg : BitVec 5) : State := if fl then s.setFlg c flg else s

/-- FLG with Z, N, C and V from the low bits of a word, and T kept (R361). -/
def flgOf (flg : BitVec 5) (w : Word) : BitVec 5 := BitVec.ofNat 5 (w.toNat % 16 + 16 * b2n (flg.getLsbD 4))

section
variable {s : State} {c : Fin 2}

theorem State.setWIf_spec (hin : s.inStep c) (wr : Bool) (d : Nat) (v : TWord) :
    (s.setWIf wr c d v).cr c = { s.cr c with
      w := if wr then (s.cr c).put d v else (s.cr c).w, ew := (if wr then (s.cr c).put d v else (s.cr c).w).map echoBits } ∧
    s.keeps (s.setWIf wr c d v) [.core c] ∧ (s.setWIf wr c d v).fld F.dbgWpctlEn = s.fld F.dbgWpctlEn := by
  cases wr
  · exact ⟨State.cr_of_inStep hin, State.keeps_refl _ _, rfl⟩
  · exact ⟨State.cr_setW hin d v, s.setW_keeps c d v, s.fld_setW c d v _⟩

theorem State.setFlgIf_spec (fl : Bool) (flg : BitVec 5) :
    (s.setFlgIf fl c flg).cr c = { s.cr c with flg := if fl then flg else (s.cr c).flg } ∧
    s.keeps (s.setFlgIf fl c flg) [.core c] ∧ (s.setFlgIf fl c flg).fld F.dbgWpctlEn = s.fld F.dbgWpctlEn := by
  cases fl
  · exact ⟨rfl, State.keeps_refl _ _, rfl⟩
  · exact ⟨s.cr_setCore_same c _, s.setCore_keeps c _, rfl⟩

end

/-- The state that END leaves (R361): two free values stand for the payloads that are not read. -/
def State.customEnded (s : State) (c : Fin 2) (i : NIns) (ctl sa sb : Word) (r : MRun) : State :=
  ((s.fresh.2.fresh.2.setWIf (ctl.getLsbD 22) c i.d ⟨BitVec.ofNat 4 (getBits ctl 18 4), sa⟩).setFlgIf (ctl.getLsbD 2) c
    (flgOf (s.cr c).flg sb)).pushed c (heldStores r)

theorem State.microEnd_eq (s : State) (c : Fin 2) (i : NIns) (ctl sa sb : Word) (r : MRun) :
    s.microEnd c i ctl sa sb r =
      .done (s.customEnded c i ctl sa sb r) none (r.acc ++ r.held.map (fun h => (h.1, some ⟨Tag.raw, h.2⟩))) := rfl

/-- The word registers that an entry which writes a register, or none, leaves. -/
def Core.customRegs (k : Core) (i : NIns) (ctl sa : Word) : Vector TWord 32 :=
  if ctl.getLsbD 22 then k.put i.d ⟨BitVec.ofNat 4 (getBits ctl 18 4), sa⟩ else k.w

theorem State.customEnded_spec {s : State} {c : Fin 2} (hin : s.inStep c) (i : NIns) (ctl sa sb : Word) (r : MRun) :
    (s.customEnded c i ctl sa sb r).cr c = { (s.pushed c (heldStores r)).cr c with
      w := (s.cr c).customRegs i ctl sa, ew := ((s.cr c).customRegs i ctl sa).map echoBits
      flg := if ctl.getLsbD 2 then flgOf (s.cr c).flg sb else (s.cr c).flg } ∧
    s.keeps (s.customEnded c i ctl sa sb r) [.core c, .free] ∧
    (s.customEnded c i ctl sa sb r).fld F.dbgWpctlEn = s.fld F.dbgWpctlEn := by
  have hfree : s.keeps s.fresh.2.fresh.2 [.free] := State.keeps_trans s.fresh_keeps (State.fresh_keeps _)
  obtain ⟨hcr1, hk1, hf1⟩ := State.setWIf_spec (s := s.fresh.2.fresh.2) (c := c) hin (ctl.getLsbD 22) i.d
    ⟨BitVec.ofNat 4 (getBits ctl 18 4), sa⟩
  unfold State.customEnded State.pushed
  generalize State.setWIf _ _ _ _ _ = u at *
  obtain ⟨hcr2, hk2, hf2⟩ := State.setFlgIf_spec (s := u) (c := c) (ctl.getLsbD 2) (flgOf (s.cr c).flg sb)
  have hk12 := State.keeps_trans hk1 hk2 (n := [.core c])
  refine ⟨?_, State.keeps_trans hfree (State.keeps_trans hk12 (State.setCore_keeps _ c _) (n := [.core c])), hf2.trans hf1⟩
  rw [State.cr_setCore_same, State.cr_setCore_same, hcr2, hcr1]
  rfl

/-- The effect of a custom instruction whose entry and operands stand, once its microcode is at END. -/
theorem customEff_of_fin {s : State} {c : Fin 2} {i : NIns} {sa sb : Word} {r : MRun} {ra rb : Bool} (hdirty : (s.cr c).dirtyCustom = false)
    (hbuf : (s.cr c).buf = []) (hentry : s.entryBad i.x = none)
    (hra : ra = (decide ((s.customLen i.x).getD 0 ≠ 0) && decide (getBits (s.customWord i.x 1) 0 16 ≠ 0)))
    (hrb : rb = (decide ((s.customLen i.x).getD 0 ≠ 0) && decide (getBits (s.customWord i.x 1) 16 16 ≠ 0)))
    (ha : ra = true → (s.w c i.a).tag ≠ Tag.reserved ∧ (s.customWord i.x 1).getLsbD (s.w c i.a).tag.toNat = true)
    (hb : rb = true → (s.w c i.b).tag ≠ Tag.reserved ∧ (s.customWord i.x 1).getLsbD (16 + (s.w c i.b).tag.toNat) = true)
    (hrun : (s.microEnv c i ra rb ((s.customWord i.x 0).getLsbD 3)).run 1024 { pc := getBits (s.customWord i.x 0) 8 10 } = .fin sa sb r) :
    customEff c i s = s.microEnd c i (s.customWord i.x 0) sa sb r := by
  have hready : (if (s.customWord i.x 0).getLsbD 1 then .ok s else s.emptied c) = .ok s := by
    rw [State.emptied_of_empty hbuf, ite_self]
  have hne : ∀ n : Nat, (n != 0) = decide (n ≠ 0) := fun n => by simp [bne, beq_eq_decide]
  unfold customEff
  dsimp only
  rw [hdirty, if_neg Bool.false_ne_true, hready]
  unfold andThen
  dsimp only
  rw [hne, hne, ← hra, ← hrb, customOperands_pass, hentry]
  · dsimp only
    rw [hrun]
  · intro x hx
    rcases List.mem_append.mp hx with hx | hx
    · exact customSrc_passes (lo := 0) (by rwa [Nat.zero_add]) x hx
    · exact customSrc_passes (lo := 16) hb x hx

/-! ### Microcode (R359 to R363) -/

section
variable (e : MEnv) (n : Nat) (r : MRun)

/-- A micro-operation that goes on, and one that ends the execution. -/
theorem MEnv.run_inl {q : MRun} (h : e.step r = .inl q) : e.run (n + 1) r = e.run n q := by
  rw [MEnv.run, h]

theorem MEnv.run_inr {x : MEnd} (h : e.step r = .inr x) : e.run (n + 1) r = x := by
  rw [MEnv.run, h]

/-- ADD of the operands to T0. -/
theorem MEnv.step_addOperands (hr : r.pc < 1024) (hcode : e.code r.pc = 0x00890000#32) (hbad : e.codeBad r.pc = false) :
    e.step r = .inl { r with t := updN r.t 0 (fun _ => e.a + e.b), pc := r.pc + 1 } := by
  have hw : MWord.of 0x00890000#32 = { op := 0, dst := 0, sa := 8, sb := 9, k := 0 } := by decide
  unfold MEnv.step
  dsimp only
  rw [hcode, hw, if_neg (by omega), hbad]
  rfl

/-- END with T0 and 0. -/
theorem MEnv.step_endT0 (hr : r.pc < 1024) (hcode : e.code r.pc = 0xC00F0000#32) (hbad : e.codeBad r.pc = false) :
    e.step r = .inr (.fin (nth r.t 0 0) 0 r) := by
  have hw : MWord.of 0xC00F0000#32 = { op := 0x18, dst := 0, sa := 0, sb := 15, k := 0 } := by decide
  unfold MEnv.step
  dsimp only
  rw [hcode, hw, if_neg (by omega), hbad]
  rfl

/-- ADD and END give the sum (R361). -/
theorem MEnv.run_addEnd (hn : n < 1023) (hadd : e.code n = 0x00890000#32) (hend : e.code (n + 1) = 0xC00F0000#32) (hbad : e.codeBad n = false)
    (hbad' : e.codeBad (n + 1) = false) : ∃ r, e.run 1024 { pc := n } = .fin (e.a + e.b) 0 r ∧ r.held = [] ∧ r.acc = [] := by
  have h1 := MEnv.run_inl e 1023 _ (e.step_addOperands { pc := n } (by dsimp only; omega) hadd hbad)
  have h2 := MEnv.run_inr e 1022 _ (e.step_endT0 { t := updN (Vector.replicate 8 0) 0 (fun _ => e.a + e.b), pc := n + 1 }
    (by dsimp only; omega) hend hbad')
  exact ⟨_, h1.trans h2, rfl, rfl⟩

/-- A jump to itself. -/
theorem MEnv.step_jumpSelf (hr : r.pc < 1024) (hcode : e.code r.pc = 0xA8000000#32 + BitVec.ofNat 32 r.pc) (hbad : e.codeBad r.pc = false) :
    e.step r = .inl r := by
  have hw : MWord.of (0xA8000000#32 + BitVec.ofNat 32 r.pc) = { op := 0x15, dst := 0, sa := 0, sb := 0, k := r.pc } := by
    have hnat : (0xA8000000#32 + BitVec.ofNat 32 r.pc).toNat = 0xA8000000 + r.pc := by
      rw [BitVec.toNat_add, BitVec.toNat_ofNat, BitVec.toNat_ofNat]
      omega
    unfold MWord.of getBits bitsN
    rw [hnat]
    simp only [Nat.shiftRight_eq_div_pow, MWord.mk.injEq]
    omega
  unfold MEnv.step
  dsimp only
  rw [hcode, hw, if_neg (by omega), hbad]
  have hpc : { r with pc := r.pc % 1024 } = r := by rw [Nat.mod_eq_of_lt hr]
  exact congrArg Sum.inl hpc

/-- Microcode that stays where it is is ILL, however often it runs (R363). -/
theorem MEnv.run_stuck (h : e.step r = .inl r) : e.run n r = .trap 0 0 := by
  induction n with
  | zero => rfl
  | succ n ih => rw [MEnv.run_inl e n r h, ih]

end

/-! ### The close of the custom region (R353) -/

section
variable {s : State} {c : Fin 2}

/-- A store to the custom region from JOB mode. -/
theorem State.storeAddr_custom_job {a : Nat} (hr : regionOf a = .custom) (v : TWord) : s.storeAddr (.core c) false a v = .priv := by
  unfold State.storeAddr
  dsimp only
  rw [hr]
  rfl

/-- A store to the custom region from SUP mode: refused once the region is closed. -/
theorem State.storeAddr_custom_sup {a : Nat} (hr : regionOf a = .custom) (h4 : a % 4 = 0) (v : TWord) :
    s.storeAddr (.core c) true a v = if (s.reg 0x50100100).getLsbD 0 then .bus else .stored (s.customStore a v.val) := by
  unfold State.storeAddr
  dsimp only
  rw [hr, if_neg (by rw [Bool.not_true, Bool.and_false]; decide), if_neg (by decide), if_neg (fun hn => hn.2 h4)]

/-- What a core's store to CDCTL comes to. -/
def State.closeAnswered (s : State) (c : Fin 2) : BusRes → Out
  | .ok _ t => .next (t.setCore c (fun k => { k with dirtyCustom := true }))
  | .priv => .next (s.closeTrap (.core c) 6)
  | .bus => .next (s.closeTrap (.core c) 4)
  | _ => .next s

/-- A core whose buffer is empty stores at once. -/
theorem execCustomRegionClose_core (hoff : s.storesOff = false) (hbuf : (s.cr c).buf = []) (job : Bool) :
    execCustomRegionClose (.core c) job s = s.closeAnswered c (s.storeAddr (.core c) (!job) 0x50100100 (TWord.nat 1)) := by
  have hdip : s.inDip = false := by
    unfold State.storesOff at hoff
    simp only [Bool.or_eq_false_iff] at hoff
    exact hoff.1.1
  unfold execCustomRegionClose
  dsimp only
  rw [State.drained_of_empty hbuf, if_neg (by simp [hdip]), if_neg (by simp [hoff]), if_neg (by simp)]
  cases s.storeAddr (.core c) (!job) 0x50100100 (TWord.nat 1) <;> rfl

/-- A store that no register takes closes nothing. -/
theorem execCustomRegionClose_off {m : Master} (hdip : s.inDip = false) (h : s.storesOff = true ∨ m = .host) (job : Bool) :
    execCustomRegionClose m job s = .next s := by
  unfold execCustomRegionClose
  dsimp only
  rw [if_neg (by simp [hdip]), if_pos (h.imp_right .inl)]

/-- The state after a core in SUP mode has closed the region (R353): a custom instruction awaits a FENCE (R354). -/
def State.customClosed (s : State) (c : Fin 2) : State :=
  (s.setReg 0x50100100 (s.reg 0x50100100 ||| 1)).setCore c (fun k => { k with dirtyCustom := true })

theorem State.customClosed_reg (h : s.canonical) : ((s.customClosed c).reg 0x50100100).getLsbD 0 = true := by
  have hreg : (s.customClosed c).reg 0x50100100 = s.reg 0x50100100 ||| 1 := s.reg_setReg_same _ _ h
  rw [hreg, BitVec.getLsbD_or]
  exact Bool.or_true _

theorem State.customClosed_keeps : s.keeps (s.customClosed c) [.reg 0x50100100, .core c] :=
  State.keeps_trans (s.setReg_keeps _ _) (State.setCore_keeps _ c _)

end

/-- Settles O39: CUST by `customEff_of_fin`, its microcode by the micro-operations, CDCTL by the store that closes the region. -/
theorem customInstructionsComplete : Obligations.CustomInstructionsComplete := by
  refine ⟨fun c p s0 s i h hop hrep hdirty hbuf hentry => ?_, fun e n hn hadd hend hbad hbad' => e.run_addEnd n hn hadd hend hbad hbad',
    fun e n k hcode hn hbad => e.run_stuck k _ (e.step_jumpSelf _ hn hcode hbad), fun m job s hdip => ?_, fun m job s hdip hoff => ?_,
    fun s c hcan hoff hbuf => ⟨?_, fun hclosed => ?_, fun hopen => ?_⟩⟩
  · intro ctl tags ra rb ha hb
    refine ⟨Config.freeWord s.free, Config.freeWord (s.free + 1), fun sa sb r hrun => ?_⟩
    have hf := (customEff_of_fin hdirty hbuf hentry rfl rfl ha hb hrun).trans (s.microEnd_eq c i ctl sa sb r)
    obtain ⟨hcr, hk, hfld⟩ := State.customEnded_spec h.inStep i ctl sa sb r
    obtain ⟨_, hwp, hstep, _⟩ := id h
    have hcore : (s.pushed c (heldStores r)).cr c = { s.cr c with buf := (s.cr c).buf ++ heldStores r } := s.cr_setCore_same c _
    obtain ⟨t, ht, hran, hkeeps⟩ := State.instr_from h (fun i => i.op == 0xF7) (by simp [hop]) _ (b := s.pushed c (heldStores r)) hf
      (fun hn => by rw [hrep] at hn; cases hn) (hfld.trans hwp) (by rw [hcore]; exact hstep) hcr (congrArg Sec.rcvr (hk.2 .sec (by simp)))
    rw [hrep, if_neg Bool.false_ne_true] at hran
    exact ⟨t, ht, State.keeps_trans hk hkeeps, hran⟩
  · show execCustomRegionClose m job s = _
    exact if_pos hdip
  · exact execCustomRegionClose_off hdip hoff job
  · show execCustomRegionClose (.core c) true s = _
    rw [execCustomRegionClose_core hoff hbuf, Bool.not_true, State.storeAddr_custom_job (by decide)]
    rfl
  · show execCustomRegionClose (.core c) false s = _
    rw [execCustomRegionClose_core hoff hbuf, Bool.not_false, State.storeAddr_custom_sup (by decide) (by decide), if_pos hclosed]
    rfl
  · show ∃ t, execCustomRegionClose (.core c) false s = .next t ∧ _
    rw [execCustomRegionClose_core hoff hbuf, Bool.not_false, State.storeAddr_custom_sup (by decide) (by decide), if_neg (by rw [hopen]; decide)]
    refine ⟨s.customClosed c, rfl, State.customClosed_reg hcan, ?_, ?_, State.customClosed_keeps⟩
    · exact State.cr_setCore_same _ c _
    · rw [State.storeAddr_custom_sup (by decide) (by decide), if_pos (State.customClosed_reg hcan)]

end Sys2Proof.Machine
end
section
/-!
PROOFS. The operations of the Aedus link (O41).
-/

namespace Sys2Proof.Machine

/-! ### The course of a transaction (R387, R389, R425) -/

section
variable {s : State} {par always : Bool} {f : State → Out}

theorem State.link_refused (h : par = false ∨ s.bit F.dbgStatLocked = true ∧ always = false) : s.link par always f = .next (s.acked 4) :=
  if_pos (by rcases h with rfl | ⟨hlocked, rfl⟩ <;> simp [*])

theorem State.link_unclocked (hopen : s.bit F.dbgStatLocked = false) (hclk : s.clocksRun = false) :
    s.link true always f = .next (s.acked 2) :=
  (if_neg (by simp [hopen])).trans (if_neg (by simp [hclk]))

theorem State.link_open (hopen : s.bit F.dbgStatLocked = false) (hclk : s.clocksRun = true) : s.link true always f = f s :=
  (if_neg (by simp [hopen])).trans (if_pos hclk)

end

/-! ### Answers (R387) -/

theorem State.acked_keeps (s : State) (a : Nat) : s.keeps (s.acked a) [.ack] := by
  refine ⟨rfl, fun p hp => ?_⟩
  have h := s.same_refl p
  cases p with
  | ack => exact absurd (by simp) hp
  | _ => exact h

/-- A state that differs in some parts, with an answer. -/
theorem State.keeps_acked {s t : State} {l : List Part} (h : s.keeps t l) (a : Nat) : s.keeps (t.acked a) (l ++ [.ack]) :=
  State.keeps_trans h (t.acked_keeps a)

/-- A word is delivered to the link, and nothing else changes. -/
theorem State.delivered_spec (s : State) (v : TWord) :
    nth ((s.deliver .link v).acked 1).got 3 TWord.nil0 = v ∧ ((s.deliver .link v).acked 1).ack = 1 ∧
      s.keeps ((s.deliver .link v).acked 1) [.got 3, .ack] :=
  ⟨nth_updN_same _ _ _ _ (by decide), rfl, State.keeps_acked (s.deliver_keeps .link v) 1⟩

/-- A one-bit field set reads 1. -/
theorem State.bit_setBit_same {s : State} (hs : s.canonical) {f : Fld} (hw : f.width = 1) (hlo : f.lo < 32) : (s.setBit f).bit f = true :=
  State.bit_putBit_same hs hw hlo true

/-- A write whose data parity is bad sets LINKERR and answers OK, and nothing else changes. -/
theorem State.linkDrops_spec {s : State} (hs : s.canonical) :
    s.linkDrops.bit F.dbgStatLinkerr = true ∧ s.linkDrops.ack = 1 ∧ s.keeps s.linkDrops [.reg F.dbgStatLinkerr.addr, .ack] :=
  ⟨State.bit_setBit_same hs rfl (by decide), rfl, State.keeps_acked (s.setFld_keeps F.dbgStatLinkerr 1) 1⟩

/-! ### Words through the address map (R305, R388) -/

section
variable {s : State} {a : Nat}

/-- A word of a domain that is ON and not locked off is at hand. -/
theorem State.inDomain_on {d : Nat} (hlock : s.domLocked d = false) (hon : s.domOn d = true) (f : State → TWord × State) :
    s.inDomain d f = .ok (f s).1 (f s).2 :=
  (if_neg (by simp [hlock])).trans (if_pos hon)

theorem State.inDomain_asleep {d : Nat} (hlock : s.domLocked d = false) (hon : s.domOn d = false) (f : State → TWord × State) :
    s.inDomain d f = .wait d :=
  (if_neg (by simp [hlock])).trans (if_neg (by simp [hon]))

/-- The link reads a word of a near data store as the store holds it. -/
theorem State.linkLoad_nearD {c : Fin 2} (hin : inStore (nearD c) a = true) (h4 : a % 4 = 0) (e : Ecc) :
    s.loadAddr .link true a e = s.nearLoad c a (s.mread a) e := by
  unfold State.loadAddr
  dsimp only
  rw [regionOf_nearD hin, Bool.not_true, Bool.and_false, if_neg Bool.false_ne_true, if_neg nofun, if_neg (fun h => h.2 h4)]

theorem State.nearLoad_on {c : Nat} (hlock : s.domLocked (1 + c) = false) (hon : s.domOn (1 + c) = true) (hclean : s.eccAt a = .clean)
    (v : TWord) : s.nearLoad c a v .clean = .ok v s :=
  (if_neg (fun h => h.2.2 hclean)).trans (State.inDomain_on hlock hon _)

theorem State.nearLoad_asleep {c : Nat} (hlock : s.domLocked (1 + c) = false) (hon : s.domOn (1 + c) = false) (v : TWord) (e : Ecc) :
    s.nearLoad c a v e = .wait (1 + c) :=
  (if_neg (fun h => by simp [hon] at h)).trans (State.inDomain_asleep hlock hon _)

/-- An address that the map does not have, or a word that is not aligned, gives no word. -/
theorem State.linkRead_misplaced (h : regionOf a = .unmapped ∨ (regionOf a ≠ .periph ∧ a % 4 ≠ 0)) (e : Ecc) :
    s.linkRead (s.loadAddr .link true a e) = .next (s.acked 4) := by
  by_cases hu : regionOf a = .unmapped
  · have hload : s.loadAddr .link true a e = .bus := by
      unfold State.loadAddr
      dsimp only
      rw [hu, Bool.not_true, Bool.and_false, if_neg Bool.false_ne_true, if_pos rfl]
    rw [hload]
    rfl
  · have hload : s.loadAddr .link true a e = .align := by
      unfold State.loadAddr
      dsimp only
      rw [Bool.not_true, Bool.and_false, if_neg Bool.false_ne_true, if_neg hu, if_pos (h.resolve_left hu)]
    rw [hload]
    rfl

/-- The link stores a word of a near data store with its tag. -/
theorem State.linkStore_nearD {c : Fin 2} (hin : inStore (nearD c) a = true) (h4 : a % 4 = 0) (hlock : s.domLocked (1 + c) = false)
    (hon : s.domOn (1 + c) = true) (hclean : s.eccAt a = .clean) (v : TWord) :
    s.storeAddr .link true a v = .stored (s.mwrite a v) := by
  have hheal : s.heal a = s := if_pos hclean
  have hstore : s.storeMem (Master.who .link) a v = s.mwrite a v := by
    unfold State.storeMem
    rw [nearOwner_of_nearD hin]
    dsimp only
    rw [hlock, if_neg Bool.false_ne_true, hheal, nearI_of_nearD hin, if_neg Bool.false_ne_true]
  unfold State.storeAddr
  dsimp only
  rw [regionOf_nearD hin, Bool.not_true, Bool.and_false, if_neg Bool.false_ne_true, if_neg nofun, if_neg (fun h => h.2 h4)]
  exact (State.inDomain_on hlock hon _).trans (congrArg BusRes.stored hstore)

theorem State.echoWrite_nearD {c : Fin 2} (hin : inStore (nearD c) a = true) : s.echoWrite a = s.marked c := by
  unfold State.echoWrite
  rw [regionOf_nearD hin]

end

/-! ### Operations that proceed -/

section
variable {s : State} {v : TWord} {u : State} (hopen : s.bit F.dbgStatLocked = false) (hclk : s.clocksRun = true)
include hopen hclk

theorem execMrd_open (a : Nat) (e : Ecc) : execMrd a e true s = s.linkRead (s.loadAddr .link true a e) := State.link_open hopen hclk

/-- A word that its load gives is delivered. -/
theorem execMrd_ok {a : Nat} {e : Ecc} (h : s.loadAddr .link true a e = .ok v u) :
    ∃ t, execMrd a e true s = .next t ∧ nth t.got 3 TWord.nil0 = v ∧ t.ack = 1 ∧ u.keeps t [.got 3, .ack] :=
  ⟨_, (execMrd_open hopen hclk a e).trans (congrArg s.linkRead h), u.delivered_spec v⟩

/-- A read of a domain that sleeps wakes it. -/
theorem execMrd_wait {a d : Nat} {e : Ecc} (h : s.loadAddr .link true a e = .wait d) :
    execMrd a e true s = .next ((s.demand d).acked 2) := (execMrd_open hopen hclk a e).trans (congrArg s.linkRead h)

theorem execDrd_ok {o : BitVec 16} (h : s.loadPeriph .link (0x40130000 + o.toNat) = .ok v u) :
    ∃ t, execDrd o true s = .next t ∧ nth t.got 3 TWord.nil0 = v ∧ t.ack = 1 ∧ u.keeps t [.got 3, .ack] :=
  ⟨_, (State.link_open hopen hclk).trans (congrArg s.linkRead h), u.delivered_spec v⟩

theorem execDwr_ok {o : BitVec 16} {r : TWord} (hf : s.win.fhalt = false) (hro : readOnly (0x40130000 + o.toNat) = false)
    (h : s.storePeriph .link false (0x40130000 + o.toNat) v = .ok r u) : execDwr o v true true s = .next (u.acked 1) :=
  (State.link_open hopen hclk).trans ((if_neg (by rw [hf, hro]; decide)).trans (congrArg (s.linkWrite true) h))

end

/-! ### MWR (R388, R389, R391) -/

section
variable {s : State} {a : Nat} {v : TWord} {differs dataPar : Bool} (hopen : s.bit F.dbgStatLocked = false) (hclk : s.clocksRun = true)
include hopen hclk

theorem execMwr_readOnly (h : s.win.fhalt = true ∨ readOnly a = true) : execMwr a v differs true dataPar s = .next (s.acked 4) :=
  (State.link_open hopen hclk).trans (if_pos (by simp [h]))

theorem execMwr_differs (hf : s.win.fhalt = false) (hro : readOnly a = false) (h : (differs && dataPar && s.echoWrite a) = true) :
    execMwr a v differs true dataPar s = .next ((s.setBit F.dbgStatEchorej).acked 4) :=
  (State.link_open hopen hclk).trans ((if_neg (by simp [hf, hro])).trans (if_pos h))

theorem execMwr_writes (hf : s.win.fhalt = false) (hro : readOnly a = false) (h : (differs && dataPar && s.echoWrite a) = false) :
    execMwr a v differs true dataPar s = s.linkWrite dataPar (s.storeAddr .link true a v) :=
  (State.link_open hopen hclk).trans ((if_neg (by simp [hf, hro])).trans (if_neg (by simp [h])))

/-- A write of a near data store: it is made with good data parity, else dropped. -/
theorem execMwr_near {c : Fin 2} (hs : s.canonical) (hf : s.win.fhalt = false) (hro : readOnly a = false) (hin : inStore (nearD c) a = true)
    (h4 : a % 4 = 0) (hlock : s.domLocked (1 + c) = false) (hon : s.domOn (1 + c) = true) (hclean : s.eccAt a = .clean)
    (h : (differs && dataPar && s.marked c) = false) :
    ∃ t, execMwr a v differs true dataPar s = .next t ∧ t.ack = 1 ∧ (dataPar = true → t.mread a = v ∧ s.keeps t [.word (a / 4), .ack]) ∧
      (dataPar = false → t.bit F.dbgStatLinkerr = true ∧ s.keeps t [.reg F.dbgStatLinkerr.addr, .ack]) := by
  have hexec : execMwr a v differs true dataPar s = s.linkWrite dataPar (.stored (s.mwrite a v)) :=
    (execMwr_writes hopen hclk hf hro (by rw [State.echoWrite_nearD hin, h])).trans
      (congrArg _ (State.linkStore_nearD hin h4 hlock hon hclean v))
  cases dataPar with
  | true =>
    exact ⟨_, hexec, rfl, fun _ => ⟨s.mread_mwrite_same a a v hs rfl, State.keeps_acked (s.mwrite_keeps a v) 1⟩, nofun⟩
  | false =>
    obtain ⟨hbit, hack, hkeeps⟩ := State.linkDrops_spec hs
    exact ⟨_, hexec, hack, nofun, fun _ => ⟨hbit, hkeeps⟩⟩

/-- A difference on the echo path of a near data store rejects the write (R391). -/
theorem execMwr_nearDiffers {c : Fin 2} (hs : s.canonical) (hf : s.win.fhalt = false) (hro : readOnly a = false)
    (hin : inStore (nearD c) a = true) (h : (differs && dataPar && s.marked c) = true) :
    ∃ t, execMwr a v differs true dataPar s = .next t ∧ t.ack = 4 ∧ t.bit F.dbgStatEchorej = true ∧
      s.keeps t [.reg F.dbgStatEchorej.addr, .ack] :=
  ⟨_, execMwr_differs hopen hclk hf hro (by rw [State.echoWrite_nearD hin, h]), rfl, State.bit_setBit_same hs rfl (by decide),
    State.keeps_acked (s.setFld_keeps F.dbgStatEchorej 1) 4⟩

end

/-! ### RRD and RWR (R388 to R390) -/

section
variable {s : State} {c : Fin 2} {r : Nat} {v : TWord} (hopen : s.bit F.dbgStatLocked = false) (hclk : s.clocksRun = true)

/-- A register number that names a word register, a special register or the PC. -/
theorem State.linkReg_word (h : r < 32) : s.linkReg c r = some (s.w c r) := if_pos h

theorem State.linkReg_special (h : 32 ≤ r) (h41 : r < 41) : s.linkReg c r = some (s.special c (r - 32)).1 :=
  (if_neg (by omega)).trans (if_pos h41)

theorem State.linkReg_pc : s.linkReg c 48 = some ⟨Tag.code, (s.cr c).pc⟩ := rfl

theorem State.linkReg_none (h : 41 ≤ r) (h48 : r ≠ 48) : s.linkReg c r = none :=
  (if_neg (by omega)).trans ((if_neg (by omega)).trans (if_neg h48))

theorem State.linkPut_special (h : r = 32 ∨ r = 33 ∨ r = 37 ∨ r = 40) : s.linkPut c r v = some (s.setSpecial c (r - 32) v.val) :=
  (if_neg (by omega)).trans ((if_neg (by omega)).trans (if_pos h))

theorem State.linkPut_pc : s.linkPut c 48 v = some (s.setCore c (fun k => { k with pc := v.val })) := rfl

theorem State.linkPut_none (h : 34 ≤ r) (h37 : r ≠ 37) (h40 : r ≠ 40) (h48 : r ≠ 48) : s.linkPut c r v = none :=
  (if_neg (by omega)).trans ((if_neg (by omega)).trans ((if_neg (by omega)).trans (if_neg h48)))

/-- A word register written through the link: the first-pass register file alone, w0 not at all (R280, R390). -/
theorem State.linkPut_word (h : r < 32) : s.linkPut c r v = some (s.setCore c (fun k => { k with w := k.put r v })) := by
  by_cases h0 : r = 0
  · rw [State.setCore_self (by simp [Core.put, h0])]
    exact if_pos h0
  · refine (if_neg h0).trans ((if_pos h).trans ?_)
    simp [Core.put, h0]

/-- The word registers, the flags and the count can be written. -/
theorem State.linkPut_isSome (h : r < 34) : ∃ t, s.linkPut c r v = some t := by
  by_cases h32 : r < 32
  · exact ⟨_, State.linkPut_word h32⟩
  · exact ⟨_, State.linkPut_special (by omega)⟩

include hopen hclk

theorem execRrd_halted (hh : s.halted c = true) (h : s.linkReg c r = some v) :
    ∃ t, execRrd c r true s = .next t ∧ nth t.got 3 TWord.nil0 = v ∧ t.ack = 1 ∧ s.keeps t [.got 3, .ack] := by
  refine ⟨_, (State.link_open hopen hclk).trans ?_, s.delivered_spec v⟩
  simp [h, hh, ackOk]

theorem execRrd_none (h : s.linkReg c r = none) : execRrd c r true s = .next (s.acked 4) := by
  refine (State.link_open hopen hclk).trans ?_
  simp [h, ackFault]

theorem execRrd_running (hh : s.halted c = false) : execRrd c r true s = .next (s.acked 4) := by
  refine (State.link_open hopen hclk).trans ?_
  cases s.linkReg c r <;> simp [hh, ackFault]

theorem execRwr_none (h : s.linkPut c r v = none) (dataPar : Bool) : execRwr c r v true dataPar s = .next (s.acked 4) := by
  refine (State.link_open hopen hclk).trans ?_
  simp [h, ackFault]

theorem execRwr_running (hh : s.halted c = false) (dataPar : Bool) : execRwr c r v true dataPar s = .next (s.acked 4) := by
  refine (State.link_open hopen hclk).trans ?_
  cases s.linkPut c r v <;> simp [hh, ackFault]

theorem execRwr_halted (hh : s.halted c = true) (hf : s.win.fhalt = false) {t : State} (h : s.linkPut c r v = some t) (dataPar : Bool) :
    execRwr c r v true dataPar s = .next (if dataPar then t.acked 1 else s.linkDrops) := by
  refine (State.link_open hopen hclk).trans ?_
  cases dataPar <;> simp [h, hh, hf, ackOk, State.linkDrops]

/-- A register of a halted core takes what it is given, and nothing else of the machine changes. -/
theorem execRwr_core (hh : s.halted c = true) (hf : s.win.fhalt = false) {f : Core → Core} (h : s.linkPut c r v = some (s.setCore c f)) :
    ∃ t, execRwr c r v true true s = .next t ∧ t.cr c = f (s.cr c) ∧ t.ack = 1 ∧ s.keeps t [.core c, .ack] :=
  ⟨_, execRwr_halted hopen hclk hh hf h true, s.cr_setCore_same c f, rfl, State.keeps_acked (s.setCore_keeps c f) 1⟩

end

/-! ### The statement -/

/-- Where the clocks stand every operation waits. -/
theorem linkOperations_unclocked {s : State} {a r : Nat} {e : Ecc} {c : Fin 2} {o : BitVec 16} {v : TWord} {differs dataPar : Bool}
    (hopen : s.bit F.dbgStatLocked = false) (hclk : s.clocksRun = false) :
    execMrd a e true s = .next (s.acked 2) ∧ execMwr a v differs true dataPar s = .next (s.acked 2) ∧
    execRrd c r true s = .next (s.acked 2) ∧ execRwr c r v true dataPar s = .next (s.acked 2) ∧
    execDwr o v true dataPar s = .next (s.acked 2) ∧ execDrd o true s = .next (s.acked 2) :=
  ⟨State.link_unclocked hopen hclk, State.link_unclocked hopen hclk, State.link_unclocked hopen hclk,
    State.link_unclocked hopen hclk, State.link_unclocked hopen hclk, State.link_unclocked hopen hclk⟩

/-- Bad parity and the closed lock refuse every operation, but the lock not the reads of ID and STAT (R389). -/
theorem linkOperations_refused {s : State} {a r : Nat} {e : Ecc} {c : Fin 2} {o : BitVec 16} {v : TWord} {differs par dataPar : Bool}
    (h : par = false ∨ s.bit F.dbgStatLocked = true) :
    execMrd a e par s = .next (s.acked 4) ∧ execMwr a v differs par dataPar s = .next (s.acked 4) ∧
    execRrd c r par s = .next (s.acked 4) ∧ execRwr c r v par dataPar s = .next (s.acked 4) ∧
    execDwr o v par dataPar s = .next (s.acked 4) ∧
    (par = false ∨ o ≠ 0 ∧ o ≠ 4 → execDrd o par s = .next (s.acked 4)) := by
  have hrefused := h.imp_right (fun h => And.intro h (rfl : false = false))
  refine ⟨State.link_refused hrefused, State.link_refused hrefused, State.link_refused hrefused, State.link_refused hrefused,
    State.link_refused hrefused, fun ho => State.link_refused ?_⟩
  rcases h with hpar | hlocked
  · exact .inl hpar
  · exact ho.imp_right (fun ho => ⟨hlocked, by rw [beq_false_of_ne ho.1, beq_false_of_ne ho.2]; rfl⟩)

/-- Settles O41: each operation by the course of its transaction, what it delivers or writes by the lemmas of its registers and words. -/
theorem linkOperationsComplete : Obligations.LinkOperationsComplete := by
  refine ⟨fun s hopen hclk => ⟨fun a e v u h => ?_, fun a c hin h4 hlock hon hclean => ?_, fun a c hin h4 hlock hon => ?_, fun a e h => ?_,
    fun a v c differs dataPar hs hf hro hin h4 hlock hon hclean => ⟨execMwr_near hopen hclk hs hf hro hin h4 hlock hon hclean,
      execMwr_nearDiffers hopen hclk hs hf hro hin⟩,
    fun a v differs dataPar h => execMwr_readOnly hopen hclk h, fun c r hh => ⟨fun h => ?_, fun h h41 => ?_, ?_⟩,
    fun c r v hh hf => ⟨fun h => ?_, ?_, ?_, ?_, ?_, fun h h37 h40 h48 => ?_, fun hs h => ?_⟩, fun c r h h48 => ?_,
    fun c r v dataPar hh => ⟨execRrd_running hopen hclk hh, execRwr_running hopen hclk hh dataPar⟩, fun o v u h => ?_,
    fun o v r u hf hro h => ?_⟩, fun s a r e c o v differs dataPar hopen hclk => ?_, fun s a r e c o v differs par dataPar h => ?_⟩
  · exact execMrd_ok hopen hclk h
  · exact (State.linkLoad_nearD hin h4 _).trans (State.nearLoad_on hlock hon hclean _)
  · exact execMrd_wait hopen hclk ((State.linkLoad_nearD hin h4 _).trans (State.nearLoad_asleep hlock hon _ _))
  · exact (execMrd_open hopen hclk a e).trans (State.linkRead_misplaced h e)
  · exact execRrd_halted hopen hclk hh (State.linkReg_word h)
  · exact execRrd_halted hopen hclk hh (State.linkReg_special h h41)
  · rintro rfl
    exact execRrd_halted hopen hclk hh State.linkReg_pc
  · exact execRwr_core hopen hclk hh hf (State.linkPut_word h)
  · rintro rfl
    exact execRwr_core hopen hclk hh hf (State.linkPut_special (r := 33) (by decide))
  · rintro rfl
    exact execRwr_core hopen hclk hh hf (State.linkPut_special (r := 32) (by decide))
  · rintro rfl
    exact execRwr_core hopen hclk hh hf (State.linkPut_special (r := 37) (by decide))
  · rintro rfl
    exact execRwr_core hopen hclk hh hf State.linkPut_pc
  · exact execRwr_none hopen hclk (State.linkPut_none h h37 h40 h48) true
  · obtain ⟨t, ht⟩ := State.linkPut_isSome h
    exact ⟨_, execRwr_halted hopen hclk hh hf ht false, State.linkDrops_spec hs⟩
  · exact execRrd_none hopen hclk (State.linkReg_none h h48)
  · exact execDrd_ok hopen hclk h
  · exact execDwr_ok hopen hclk hf hro h
  · exact linkOperations_unclocked hopen hclk
  · exact linkOperations_refused h

end Sys2Proof.Machine
end
section
/-!
PROOFS. Restarts, debug halts and steps of a core, and the domains of the cores (O40).
-/

namespace Sys2Proof.Machine

/-! ### The restart of a core (R270, R380) -/

/-- A core that starts in SUP mode at an address, as a restart leaves it (R270). -/
def Core.restarted (k : Core) (e : Nat) : Core := { k with
  w := Vector.replicate 32 TWord.nil0, ew := Vector.replicate 32 (echoBits TWord.nil0), flg := 0, cnt := 0, stack := []
  pc := BitVec.ofNat 32 e, task := 255, prio := 0, job := false, busy := true, started := true, stall := none, stampDue := true
  halt := { f := k.halt.f }, ech := { k.ech with miss := false } }

/-- What a restart leaves of a core: the core at `e`, the runs of its jobs over, everything else as it was. -/
structure State.RestartedAt (s t : State) (c : Fin 2) (e : Nat) : Prop where
  core : t.cr c = (s.cr c).restarted e
  jobs : ∀ j, j ∈ (s.cr c).jobs → j < 64 → nth t.frm.jobs j .idle = .idle
  rest : s.keeps t [.core c, .jobs]

section
variable {s : State} {c : Fin 2}

theorem State.startCore_some (s : State) (c : Fin 2) (e : Nat) : s.startCore c (some e) = s.setCore c (·.restarted e) := rfl

/-- Runs that are ended, or were over, are over. -/
theorem nth_endedJobs {l : List Nat} {s : State} {j : Nat} (h : j ∈ l ∨ nth s.frm.jobs j .idle = .idle) (hj : j < 64) :
    nth (l.foldl (fun t j => t.setJob j .idle) s).frm.jobs j .idle = .idle := by
  induction l generalizing s with
  | nil => exact h.resolve_left List.not_mem_nil
  | cons i l ih =>
    refine ih ?_
    by_cases e : i = j
    · subst e
      exact .inr (nth_updN_same _ _ _ _ hj)
    · exact h.imp (fun hm => (List.mem_cons.mp hm).resolve_left (Ne.symm e)) (fun hi => (nth_updN_other _ _ _ _ _ e).trans hi)

theorem State.endJobs_keeps (s : State) (c : Fin 2) : s.keeps (s.endJobs c) [.jobs] :=
  State.foldl_keeps _ _ _ fun t j _ => t.setJob_keeps j .idle

/-- A master without a lock on any controller abandons nothing. -/
theorem State.abandonAll_of_unlocked {who : Nat} (h : ∀ n, n < 6 → nth (s.cn n).locks who none = none) : s.abandonAll who = s :=
  forEach_induct (Q := fun _ t => t = s) rfl fun n t hn ht => by
    subst ht
    unfold State.abandon
    rw [h n hn]

/-- A restart with no debug halt requested and no lock held. -/
theorem State.coreRestart_restarted (hhalt : s.bit (F.dbgCtlHalt c) = false)
    (hlocks : ∀ n, n < 6 → nth (s.cn n).locks c.val none = none) :
    s.RestartedAt (s.coreRestart c) c (s.fld (F.echRstpcPc c)) := by
  obtain ⟨-, hsame⟩ := s.endJobs_keeps c
  have hcn : ∀ n, (s.endJobs c).cn n = s.cn n := fun n => hsame (.can n) (by simp)
  have hcr : (s.endJobs c).cr c = s.cr c := hsame (.core c) (by simp)
  have heq : s.coreRestart c = (s.endJobs c).setCore c (·.restarted (s.fld (F.echRstpcPc c))) := by
    unfold State.coreRestart
    dsimp only
    rw [hhalt, if_neg Bool.false_ne_true, State.abandonAll_of_unlocked (fun n hn => by rw [hcn, hlocks n hn]), State.startCore_some]
  rw [heq]
  exact {
    core := by rw [State.cr_setCore_same, hcr]
    jobs := fun j hj h64 => nth_endedJobs (.inl hj) h64
    rest := State.keeps_trans (s.endJobs_keeps c) (State.setCore_keeps _ c _) }

end

/-! ### CRST (R380, R395) -/

section
variable {s : State} {k : Fin 2} {w : Word}

/-- One core's turn at a write of CRST by core `k`. -/
def State.crstTurn (s : State) (k : Fin 2) (w : Word) (c : Fin 2) : State :=
  if w.getLsbD c && k != c && (s.cr c).halt.echo then s.coreRestart c else s

theorem State.crstWrite_core (s : State) (k : Fin 2) (w : Word) : s.crstWrite (.core k) w = (s.crstTurn k w 0).crstTurn k w 1 := rfl

/-- A core that is not in echo halt, is not named, or writes itself, does not restart. -/
theorem State.crstTurn_of_not {c : Fin 2} (h : (s.cr c).halt.echo = false ∨ w.getLsbD c = false ∨ c = k) : s.crstTurn k w c = s := by
  refine if_neg ?_
  rcases h with h | h | rfl <;> simp [*]

theorem State.crstTurn_other {c : Fin 2} (hc : c ≠ k) (hw : w.getLsbD c = true) (he : (s.cr c).halt.echo = true) :
    s.crstTurn k w c = s.coreRestart c := if_pos (by simp [hw, he, Ne.symm hc])

theorem State.crstWrite_of_none (h : ∀ j : Fin 2, (s.cr j).halt.echo = false ∨ w.getLsbD j = false ∨ j = k) :
    s.crstWrite (.core k) w = s := by
  rw [State.crstWrite_core, State.crstTurn_of_not (h 0), State.crstTurn_of_not (h 1)]

/-- The other core, in echo halt and named, restarts. -/
theorem State.crstWrite_other {c : Fin 2} (hc : c ≠ k) (hw : w.getLsbD c = true) (he : (s.cr c).halt.echo = true) :
    s.crstWrite (.core k) w = s.coreRestart c := by
  rw [State.crstWrite_core]
  have hcases : (c = 0 ∧ k = 1) ∨ (c = 1 ∧ k = 0) := by omega
  rcases hcases with ⟨rfl, rfl⟩ | ⟨rfl, rfl⟩
  · rw [State.crstTurn_other hc hw he, State.crstTurn_of_not (.inr (.inr rfl))]
  · rw [State.crstTurn_of_not (.inr (.inr rfl)), State.crstTurn_other hc hw he]

/-- A store to CRST by a core whose buffer is empty. -/
theorem execCoreRestart_core (hoff : s.storesOff = false) (hbuf : (s.cr k).buf = []) (job : Bool) :
    execCoreRestart (.core k) job w s = .next (if job then s.setBit F.echStatPrivrej else s.crstWrite (.core k) w) := by
  refine congrArg Host.Outcome.next ((State.store_of_on hoff _ _).trans ?_)
  dsimp only
  rw [State.drained_of_empty hbuf, if_neg (by simp)]

theorem execCoreRestart_of_dip (h : s.inDip = true) (m : Master) (job : Bool) :
    execCoreRestart m job w s = .next (s.stall (.coreRestart m job w)) := congrArg Host.Outcome.next (State.store_of_dip h _ _)

theorem execCoreRestart_of_off (hd : s.inDip = false) (h : s.storesOff = true) (m : Master) (job : Bool) :
    execCoreRestart m job w s = .next s := congrArg Host.Outcome.next (State.store_of_off hd h _ _)

end

/-! ### Fields that take the value they have -/

theorem setBits_getBits_self (w : Word) (lo k : Nat) : setBits w lo k (getBits w lo k) = w := by
  have hle : bitsN w.toNat lo k * 2 ^ lo ≤ w.toNat := calc
    bitsN w.toNat lo k * 2 ^ lo ≤ (w.toNat >>> lo) * 2 ^ lo := Nat.mul_le_mul_right _ (Nat.mod_le _ _)
    _ ≤ w.toNat := by rw [Nat.shiftRight_eq_div_pow]; exact Nat.div_mul_le_self _ _
  have hlt : bitsN w.toNat lo k < 2 ^ k := Nat.mod_lt _ (Nat.two_pow_pos k)
  unfold setBits getBits
  rw [Nat.mod_eq_of_lt hlt, Nat.sub_add_cancel hle, BitVec.ofNat_toNat,
    BitVec.setWidth_eq]

theorem State.setFld_self {s : State} (hs : s.canonical) (f : Fld) : s.setFld f (s.fld f) = s := by
  unfold State.setFld State.fld
  rw [setBits_getBits_self, State.setReg_self hs]

/-- A one-bit field is its bit. -/
theorem State.fld_of_bit (s : State) {f : Fld} (hw : f.width = 1) : s.fld f = b2n (s.bit f) := by
  have hlt : s.fld f < 2 := by
    have h : s.fld f < 2 ^ f.width := getBits_lt _ _ _
    rw [hw] at h
    exact h
  unfold State.bit
  rcases (by omega : s.fld f = 0 ∨ s.fld f = 1) with h | h <;> rw [h] <;> rfl

theorem State.putBit_self {s : State} (hs : s.canonical) {f : Fld} (hw : f.width = 1) : s.putBit f (s.bit f) = s := by
  unfold State.putBit
  rw [← s.fld_of_bit hw, State.setFld_self hs]

/-- A field reads the value it was given, modulo its size. -/
theorem State.fld_setFld_same {s : State} (hs : s.canonical) {f : Fld} (hf : f.lo + f.width ≤ 32) (v : Nat) :
    (s.setFld f v).fld f = v % 2 ^ f.width := by
  unfold State.setFld State.fld
  rw [State.reg_setReg_same _ _ _ hs, getBits_setBits_same _ _ _ _ hf]

/-- A field of the same register beside the one written stays. -/
theorem State.fld_setFld_beside {s : State} (hs : s.canonical) {f g : Fld} (ha : g.addr = f.addr) (hf : f.lo + f.width ≤ 32)
    (hd : f.lo + f.width ≤ g.lo ∨ g.lo + g.width ≤ f.lo) (v : Nat) : (s.setFld f v).fld g = s.fld g := by
  unfold State.setFld State.fld
  rw [ha, State.reg_setReg_same _ _ _ hs, getBits_setBits_other _ _ _ _ _ _ hf hd]

/-! ### DBG.CTL (R390, R392, R394) -/

section
variable {s : State} {c : Fin 2}

/-- A core that halts for debug (R392). -/
def Core.halted (k : Core) : Core := { k with halt := { k.halt with dbg := true, stepping := false } }

/-- A core that resumes after the replay of its registers (R390, R392). -/
def Core.resumed (k : Core) : Core := { k with ew := k.w.map echoBits, halt := { k.halt with dbg := false, stepping := false } }

/-- A halted core with one step armed after that replay. -/
def Core.stepping (k : Core) : Core := { k with ew := k.w.map echoBits, halt := { k.halt with stepping := true } }

theorem State.setCore_setCore (s : State) (c : Fin 2) (f g : Core → Core) : (s.setCore c f).setCore c g = s.setCore c (g ∘ f) := by
  unfold State.setCore Machine.upd
  simp

/-- The state after HALT is written with a value, BRKHALT kept. -/
def State.haltWritten (s : State) (c : Fin 2) (halt : Bool) : State :=
  if halt then (if (s.cr c).halt.dbg then s else s.debugHalt c 0 0)
  else if (s.cr c).halt.dbg then (s.putBit (F.dbgCtlHalt c) false).setCore c Core.resumed else s.putBit (F.dbgCtlHalt c) false

section
variable (hs : s.canonical) {w : Word} (hbrk : w.getLsbD 2 = s.bit (F.dbgCtlBrkhalt c))
include hs hbrk

/-- A write of DBG.CTL that keeps BRKHALT and does not step. -/
theorem State.dbgCtl_eq (hstep : w.getLsbD 1 = false) : s.dbgCtl c w =
    if w.getLsbD 3 ∧ ((s.cr c).halt.echo || (s.cr c).halt.trap) = true then (s.haltWritten c (w.getLsbD 0)).coreRestart c
    else s.haltWritten c (w.getLsbD 0) := by
  unfold State.dbgCtl State.haltWritten
  dsimp only
  rw [hbrk, State.putBit_self hs rfl, hstep]
  simp only [Bool.false_eq_true, false_and, if_false, State.echoSync, State.setCore_setCore]
  rfl

theorem State.dbgCtl_halt (hstep : w.getLsbD 1 = false) (hre : w.getLsbD 3 = false) : s.dbgCtl c w = s.haltWritten c (w.getLsbD 0) :=
  (State.dbgCtl_eq hs hbrk hstep).trans (if_neg (fun h => Bool.false_ne_true (hre.symm.trans h.1)))

theorem State.dbgCtl_step (hstep : w.getLsbD 1 = true) (hhalt : w.getLsbD 0 = true) (hre : w.getLsbD 3 = false)
    (hdbg : (s.cr c).halt.dbg = true) : s.dbgCtl c w = s.setCore c Core.stepping := by
  unfold State.dbgCtl
  dsimp only
  rw [hbrk, State.putBit_self hs rfl, hstep, hhalt, hre, hdbg]
  simp only [if_true, and_self, Bool.false_eq_true, false_and, if_false, State.echoSync, State.setCore_setCore]
  rfl

end

/-- The word written keeps BRKHALT. -/
theorem State.ctlBits_eq (s : State) (c : Fin 2) (n : Nat) :
    s.ctlBits c n = BitVec.ofNat 32 (n + 4 * b2n (s.bit (F.dbgCtlBrkhalt c))) := by
  unfold State.ctlBits
  rw [s.fld_of_bit rfl]

/-- DEBUG_HALT and DEBUG_RESUME write HALT alone. -/
theorem State.dbgCtl_writeHalt (hs : s.canonical) (b : Bool) : s.dbgCtl c (s.ctlBits c (b2n b)) = s.haltWritten c b := by
  have hbits : ∀ brk : Bool, let w := BitVec.ofNat 32 (b2n b + 4 * b2n brk)
      w.getLsbD 0 = b ∧ w.getLsbD 1 = false ∧ w.getLsbD 2 = brk ∧ w.getLsbD 3 = false := by
    cases b <;> decide
  obtain ⟨h0, h1, h2, h3⟩ := hbits (s.bit (F.dbgCtlBrkhalt c))
  rw [s.ctlBits_eq, State.dbgCtl_halt hs h2 h1 h3, h0]

theorem State.dbgCtl_writeStep (hs : s.canonical) (hdbg : (s.cr c).halt.dbg = true) :
    s.dbgCtl c (s.ctlBits c 3) = s.setCore c Core.stepping := by
  have hbits : ∀ brk : Bool, let w := BitVec.ofNat 32 (3 + 4 * b2n brk)
      w.getLsbD 0 = true ∧ w.getLsbD 1 = true ∧ w.getLsbD 2 = brk ∧ w.getLsbD 3 = false := by decide
  obtain ⟨h0, h1, h2, h3⟩ := hbits (s.bit (F.dbgCtlBrkhalt c))
  rw [s.ctlBits_eq, State.dbgCtl_step hs h2 h1 h0 h3 hdbg]

/-- RESTART keeps HALT. -/
theorem State.dbgCtl_writeRestart (hs : s.canonical) :
    s.dbgCtl c (s.ctlBits c (8 + s.fld (F.dbgCtlHalt c))) =
      if ((s.cr c).halt.echo || (s.cr c).halt.trap) = true then (s.haltWritten c (s.bit (F.dbgCtlHalt c))).coreRestart c
      else s.haltWritten c (s.bit (F.dbgCtlHalt c)) := by
  have hbits : ∀ halt brk : Bool, let w := BitVec.ofNat 32 (8 + b2n halt + 4 * b2n brk)
      w.getLsbD 0 = halt ∧ w.getLsbD 1 = false ∧ w.getLsbD 2 = brk ∧ w.getLsbD 3 = true := by decide
  obtain ⟨h0, h1, h2, h3⟩ := hbits (s.bit (F.dbgCtlHalt c)) (s.bit (F.dbgCtlBrkhalt c))
  rw [s.ctlBits_eq, s.fld_of_bit (f := F.dbgCtlHalt c) rfl, State.dbgCtl_eq hs h2 h1, h0, h3]
  simp only [true_and]

/-- HALT written as the core stands changes nothing. -/
theorem State.haltWritten_self (hs : s.canonical) {b : Bool} (hb : (s.cr c).halt.dbg = b) (h : b = false → s.bit (F.dbgCtlHalt c) = false) :
    s.haltWritten c b = s := by
  unfold State.haltWritten
  cases b with
  | true => rw [if_pos rfl, if_pos hb]
  | false =>
    rw [if_neg Bool.false_ne_true, hb, if_neg Bool.false_ne_true, ← h rfl, State.putBit_self hs rfl]

/-- A core halts for debug by HALT. -/
theorem State.haltWritten_halts (hs : s.canonical) (h : (s.cr c).halt.dbg = false) :
    let t := s.haltWritten c true
    t.bit (F.dbgCtlHalt c) = true ∧ t.fld (F.dbgHstatWhy c) = 0 ∧ t.cr c = (s.cr c).halted ∧
      s.keeps t [.core c, .reg (F.dbgCtlHalt c).addr, .reg (F.dbgHstatWhy c).addr] := by
  have heq : s.haltWritten c true = (((s.setCore c Core.halted).setBit (F.dbgCtlHalt c)).setFld (F.dbgHstatWhy c) 0).setFld
      (F.dbgHstatWhich c) 0 := (if_pos rfl).trans (if_neg (by simp [h]))
  have hcore : (s.setCore c Core.halted).canonical := hs
  have hbit := State.setBit_stable canonical_lasting.toStable (F.dbgCtlHalt c) hcore
  have hwhy := State.setFld_stable canonical_lasting.toStable (F.dbgHstatWhy c) 0 hbit
  have hapart : (F.dbgCtlHalt c).addr ≠ (F.dbgHstatWhy c).addr := by simp only [F.dbgCtlHalt, F.dbgHstatWhy]; omega
  rw [heq]
  refine ⟨?_, ?_, ?_, ?_⟩
  · unfold State.bit
    rw [State.fld_setFld_other _ (F.dbgHstatWhich c) _ _ hapart, State.fld_setFld_other _ (F.dbgHstatWhy c) _ _ hapart]
    exact State.bit_setBit_same hcore rfl (by simp [F.dbgCtlHalt])
  · have hbeside := State.fld_setFld_beside hwhy (f := F.dbgHstatWhich c) (g := F.dbgHstatWhy c) rfl (by simp [F.dbgHstatWhich])
      (by simp [F.dbgHstatWhich, F.dbgHstatWhy]) 0
    rw [hbeside, State.fld_setFld_same hbit (by simp [F.dbgHstatWhy])]
    exact Nat.zero_mod _
  · exact s.cr_setCore_same c _
  · have hctl : s.keeps _ [.core c, .reg (F.dbgCtlHalt c).addr] :=
      State.keeps_trans (s.setCore_keeps c Core.halted) (State.setFld_keeps _ (F.dbgCtlHalt c) 1)
    have hstat : s.keeps _ [.core c, .reg (F.dbgCtlHalt c).addr, .reg (F.dbgHstatWhy c).addr] :=
      State.keeps_trans hctl (State.setFld_keeps _ (F.dbgHstatWhy c) 0)
    have hwhich : (F.dbgHstatWhich c).addr = (F.dbgHstatWhy c).addr := rfl
    exact State.keeps_trans hstat (State.setFld_keeps _ (F.dbgHstatWhich c) 0) (List.Subset.refl _) (by simp [hwhich])

/-- HALT written 0: a core halted for debug resumes. -/
theorem State.haltWritten_resumes (hs : s.canonical) :
    let t := s.haltWritten c false
    t.bit (F.dbgCtlHalt c) = false ∧ t.cr c = (if (s.cr c).halt.dbg then (s.cr c).resumed else s.cr c) ∧
      s.keeps t [.core c, .reg (F.dbgCtlHalt c).addr] := by
  have hbit := State.bit_putBit_same hs (f := F.dbgCtlHalt c) rfl (by simp [F.dbgCtlHalt]) false
  have hkeeps := s.setFld_keeps (F.dbgCtlHalt c) (b2n false)
  unfold State.haltWritten
  rw [if_neg Bool.false_ne_true]
  cases (s.cr c).halt.dbg with
  | true => exact ⟨hbit, State.cr_setCore_same _ c _, State.keeps_trans hkeeps (State.setCore_keeps _ c _)⟩
  | false => exact ⟨hbit, rfl, State.keeps_mono hkeeps (by simp)⟩

/-- HALT being 0, a core restarts from what RESTART leaves of its debug halt as from the state before. -/
theorem State.haltWritten_restarts (hs : s.canonical) (hlocks : ∀ n, n < 6 → nth (s.cn n).locks c.val none = none) :
    let t := (s.haltWritten c false).coreRestart c
    t.cr c = (s.cr c).restarted (s.fld (F.echRstpcPc c)) ∧ s.keeps t [.core c, .jobs, .reg (F.dbgCtlHalt c).addr] := by
  obtain ⟨hbit, hcore, hkeeps⟩ := State.haltWritten_resumes (c := c) hs
  obtain ⟨-, hsame⟩ := id hkeeps
  have hapart : (F.echRstpcPc c).addr ≠ (F.dbgCtlHalt c).addr := by simp only [F.dbgCtlHalt, F.echRstpcPc]; omega
  have hpc : (s.haltWritten c false).fld (F.echRstpcPc c) = s.fld (F.echRstpcPc c) := by
    unfold State.fld
    rw [show _ = _ from hsame (.reg (F.echRstpcPc c).addr) (by simp [hapart])]
  have hcn : ∀ n, (s.haltWritten c false).cn n = s.cn n := fun n => hsame (.can n) (by simp)
  have hre := State.coreRestart_restarted hbit (fun n hn => by rw [hcn, hlocks n hn])
  refine ⟨?_, State.keeps_trans hkeeps hre.rest⟩
  rw [hre.core, hpc, hcore]
  cases (s.cr c).halt.dbg <;> rfl

end

/-! ### The commands of the link on a core (R392, R394) -/

section
variable {s : State} {c : Fin 2}

theorem State.linkCommands_closed (h : s.linkWrites = false) :
    execDebugHalt c s = .next s ∧ execDebugResume c s = .next s ∧ execStep c s = .next s ∧ execRestart c s = .next s := by
  refine ⟨congrArg Host.Outcome.next (if_neg ?_), congrArg Host.Outcome.next (if_neg ?_), congrArg Host.Outcome.next (if_neg ?_),
    congrArg Host.Outcome.next (if_neg ?_)⟩ <;> simp [h]

theorem execStep_running (h : (s.cr c).halt.dbg = false) : execStep c s = .next s := congrArg Host.Outcome.next (if_neg (by simp [h]))

variable (hs : s.canonical) (hlink : s.linkWrites = true)
include hs hlink

theorem execDebugHalt_open : execDebugHalt c s = .next (s.haltWritten c true) :=
  congrArg Host.Outcome.next ((if_pos hlink).trans (State.dbgCtl_writeHalt hs true))

theorem execDebugResume_open : execDebugResume c s = .next (s.haltWritten c false) :=
  congrArg Host.Outcome.next ((if_pos hlink).trans (State.dbgCtl_writeHalt hs false))

theorem execStep_halted (h : (s.cr c).halt.dbg = true) : execStep c s = .next (s.setCore c Core.stepping) :=
  congrArg Host.Outcome.next ((if_pos (by simp [hlink, h])).trans (State.dbgCtl_writeStep hs h))

theorem execRestart_halted (h : ((s.cr c).halt.echo || (s.cr c).halt.trap) = true) :
    execRestart c s = .next ((s.haltWritten c (s.bit (F.dbgCtlHalt c))).coreRestart c) :=
  congrArg Host.Outcome.next ((if_pos hlink).trans ((State.dbgCtl_writeRestart hs).trans (if_pos h)))

theorem execRestart_running (he : (s.cr c).halt.echo = false) (ht : (s.cr c).halt.trap = false) :
    execRestart c s = .next (s.haltWritten c (s.bit (F.dbgCtlHalt c))) :=
  congrArg Host.Outcome.next ((if_pos hlink).trans ((State.dbgCtl_writeRestart hs).trans (if_neg (by simp [he, ht]))))

end

/-! ### A core's domain goes down (R435) -/

section
variable {s : State} {c : Fin 2}

theorem State.coreDown_of_not (h : (nth s.pwr.dom (1 + c) {}).down = none ∨ s.coreIdle c = false ∨ s.clocksRun = false ∨
    ((s.cr c).halt.dbg || (s.cr c).halt.echo || (s.cr c).halt.trap) = true) : s.coreDown c = s := by
  unfold State.coreDown
  dsimp only
  split
  · next q hq =>
    refine if_neg ?_
    rcases h with h | h | h | h
    · rw [hq] at h
      cases h
    · simp [h]
    · simp [h]
    · simp only [Bool.or_eq_true] at h
      rcases h with (h | h) | h <;> simp [h]
  · rfl

/-- No register of a core's domain holds a value while it is not ON. -/
theorem State.leaveOn_core (s : State) (c : Fin 2) (q : DomSt) :
    s.leaveOn (1 + c) q = s.setDom (1 + c) (fun x => { x with st := q, waking := false, down := none }) := by
  have hnone : frozenRegs (1 + c) = [] := by
    rcases (by omega : c = 0 ∨ c = 1) with rfl | rfl <;> decide
  have hfreeze : s.freeze (1 + c) = s := by
    unfold State.freeze
    rw [hnone]
    rfl
  unfold State.leaveOn
  simp only [domCan, domLin, domEth, domLed, domInp, domPress]
  rw [hfreeze, if_neg (by omega), if_neg (by omega), if_neg (by omega), if_neg (by omega), if_neg (by omega), if_neg (by omega),
    if_neg (by omega), if_neg (by omega)]

theorem State.coreDown_of_idle {q : DomSt} (hdown : (nth s.pwr.dom (1 + c) {}).down = some q) (hidle : s.coreIdle c = true)
    (hclk : s.clocksRun = true) (hdbg : (s.cr c).halt.dbg = false) (hecho : (s.cr c).halt.echo = false)
    (htrap : (s.cr c).halt.trap = false) (hbuf : (s.cr c).buf = []) (hon : (nth s.pwr.dom (1 + c) {}).st = .on) :
    s.coreDown c = s.setDom (1 + c) (fun x => { x with st := q, waking := false, down := none }) := by
  have hdrained := State.drained_of_empty hbuf
  unfold State.drained at hdrained
  obtain ⟨hwaits, hall⟩ := Prod.mk.inj hdrained
  rw [hall, Option.isNone_iff_eq_none] at hwaits
  have hgo : s.goTo (1 + c) q = s.leaveOn (1 + c) q := by
    unfold State.goTo
    rw [hon]
  unfold State.coreDown
  dsimp only
  rw [hdown]
  dsimp only
  rw [hidle, hdbg, hecho, htrap, hclk, hall, hwaits, hgo, State.leaveOn_core]
  rfl

end

/-! ### A domain reaches ON (R433, R436) -/

section
variable {s : State}

theorem execDomainWakeComplete_of_not {d : Fin 32} (h : (nth s.pwr.dom d {}).waking = false ∨ s.domainsWake = false) :
    execDomainWakeComplete d s = .next s := congrArg Host.Outcome.next (if_neg (by rcases h with h | h <;> simp [h]))

theorem execDomainWakeComplete_waking {d : Fin 32} (hw : (nth s.pwr.dom d {}).waking = true) (hc : s.domainsWake = true) :
    execDomainWakeComplete d s = .next (s.wakeDone d) := congrArg Host.Outcome.next (if_pos (by simp [hw, hc]))

/-- A domain that is ON. -/
def State.nowOn (s : State) (d : Nat) : State := s.setDom d (fun x => { x with st := .on, waking := false })

theorem State.dom_nowOn {d : Nat} (hd : d < 32) : nth (s.nowOn d).pwr.dom d {} = { nth s.pwr.dom d {} with st := .on, waking := false } :=
  nth_updN_same _ _ _ _ hd

/-- Controllers that integrate again after RET keep their error states, so that no cause is raised. -/
theorem State.pwr_canWake_ret (s : State) : (s.canWake false).pwr = s.pwr :=
  forEach_induct (Q := fun _ (t : State) => t.pwr = s.pwr) rfl fun n t hn ht => by
    dsimp only
    rw [State.cn_setCan_same _ _ _ hn]
    simpa using ht

theorem State.pwr_loaderStore (s : State) : s.loaderStore.pwr = s.pwr :=
  List.foldlRecOn (motive := fun (t : State) => t.pwr = s.pwr) s.prs.copy _ rfl fun _ h _ _ => h

/-- With no copy pending the loader stores nothing. -/
theorem State.loaderStore_of_empty (h : s.prs.copy = []) : s.loaderStore = s := by
  have hcopy : { s with prs := { s.prs with copy := [] } } = s := by rw [← h]
  have hwrite : s.loaderWrite = s := by
    unfold State.loaderWrite
    rw [h]
    exact hcopy
  unfold State.loaderStore
  dsimp only
  rw [hwrite, h]
  simp only [List.any_nil, List.filter_false, List.append_nil]
  exact hcopy

theorem State.jobsWake_keeps (s : State) (c : Nat) : s.keeps (s.jobsWake c) [.jobs] := by
  refine ⟨rfl, fun p hp => ?_⟩
  have h := s.same_refl p
  cases p with
  | jobs => exact absurd (by simp) hp
  | _ => exact h

@[simp] theorem State.cr_jobsWake (s : State) (c : Nat) (k : Fin 2) : (s.jobsWake c).cr k = s.cr k := rfl
@[simp] theorem State.mread_jobsWake (s : State) (c a : Nat) : (s.jobsWake c).mread a = s.mread a := rfl
@[simp] theorem State.mread_nowOn (s : State) (d a : Nat) : (s.nowOn d).mread a = s.mread a := rfl
@[simp] theorem State.cr_nowOn (s : State) (d : Nat) (k : Fin 2) : (s.nowOn d).cr k = s.cr k := rfl

/-- A job that waits for the core becomes ready. -/
theorem State.jobs_jobsWake {c : Fin 2} {j p : Nat} (hj : j < 64) (h : nth s.frm.jobs j .idle = .waking c p) :
    nth (s.jobsWake c).frm.jobs j .idle = .ready c p := by
  unfold nth at h
  rw [dif_pos hj] at h
  unfold nth State.jobsWake
  rw [dif_pos hj, Vector.getElem_map, h]
  exact if_pos rfl

/-- A domain that held its contents reaches ON with what its block then does. -/
theorem State.wakeDone_ret {d : Nat} (h : (nth s.pwr.dom d {}).st = .ret) : s.wakeDone d =
    if d = 1 ∨ d = 2 then (s.nowOn d).jobsWake (d - 1)
    else if d = domPress then (s.nowOn d).loaderStore
    else if d = domCan then (s.nowOn d).canWake false
    else if d = domLed then s.ledCountAll.nowOn d
    else s.nowOn d := by
  unfold State.wakeDone
  dsimp only
  rw [h, if_neg (show ¬(DomSt.ret = .off) by decide)]
  simp only [and_true]
  by_cases hcore : d = 1 ∨ d = 2
  · have hcan : d ≠ domCan := by unfold domCan; omega
    have hled : d ≠ domLed := by unfold domLed; omega
    rw [if_pos hcore, if_pos hcore, if_neg hcan, if_neg hled]
    rfl
  rw [if_neg hcore, if_neg hcore]
  by_cases hpress : d = domPress
  · subst hpress
    rfl
  rw [if_neg hpress, if_neg hpress]
  by_cases hcan : d = domCan
  · subst hcan
    rfl
  rw [if_neg hcan, if_neg hcan]
  by_cases hled : d = domLed
  · rw [if_pos hled, if_pos hled]
    rfl
  · rw [if_neg hled, if_neg hled]
    rfl

/-- A domain that returns from RET is ON, whatever its block then does. -/
theorem State.dom_wakeDone_ret {d : Nat} (hd : d < 32) (h : (nth s.pwr.dom d {}).st = .ret) :
    nth (s.wakeDone d).pwr.dom d {} = { nth s.pwr.dom d {} with st := .on, waking := false } := by
  rw [State.wakeDone_ret h]
  split_ifs
  · exact State.dom_nowOn hd
  · rw [State.pwr_loaderStore]
    exact State.dom_nowOn hd
  · rw [State.pwr_canWake_ret]
    exact State.dom_nowOn hd
  · have hled : nth s.ledCountAll.pwr.dom d {} = nth s.pwr.dom d {} := s.ledCountAll_keeps.2 (.dom d) (by simp)
    rw [State.dom_nowOn hd, hled]
  · exact State.dom_nowOn hd

/-- Beside LED, CAN and a pending copy of the loader, only the domain and the runs of jobs change. -/
theorem State.wakeDone_ret_keeps {d : Nat} (h : (nth s.pwr.dom d {}).st = .ret) (hled : d ≠ domLed) (hcan : d ≠ domCan)
    (hpress : d = domPress → s.prs.copy = []) : s.keeps (s.wakeDone d) [.dom d, .jobs] := by
  have hon : s.keeps (s.nowOn d) [.dom d, .jobs] := State.keeps_mono (s.setDom_keeps d _) (by simp)
  rw [State.wakeDone_ret h, if_neg hcan, if_neg hled]
  split_ifs with _ hd
  · exact State.keeps_trans hon (State.jobsWake_keeps _ _)
  · rw [State.loaderStore_of_empty (s := s.nowOn d) (hpress hd)]
    exact hon
  · exact hon

/-- The jobs that wait for the core of a domain become ready with it. -/
theorem State.jobs_wakeDone_ret {c : Fin 2} {j p : Nat} (h : (nth s.pwr.dom (1 + c) {}).st = .ret) (hj : j < 64)
    (hw : nth s.frm.jobs j .idle = .waking c p) : nth (s.wakeDone (1 + c)).frm.jobs j .idle = .ready c p := by
  rw [State.wakeDone_ret h, if_pos (by omega), Nat.add_sub_cancel_left]
  exact State.jobs_jobsWake hj hw

end

/-! ### What a core's domain loses in OFF (R381, R433) -/

section
variable {s : State}

/-- A key whose entries are dropped reads as its default. -/
theorem AMap.get_filter_dropped {α : Type} {d : Nat → α} (m : List (Nat × α)) {f : Nat × α → Bool} {k : Nat} (h : ∀ v, f (k, v) = false) :
    AMap.get d (m.filter f) k = d k := by
  induction m with
  | nil => rfl
  | cons p t ih =>
    by_cases e : f p = true
    · have hk : k ≠ p.1 := fun hk => by
        rw [hk] at h
        exact Bool.false_ne_true ((h p.2).symm.trans e)
      rw [List.filter_cons_of_pos e]
      exact (if_neg hk).trans ih
    · rw [List.filter_cons_of_neg e, ih]

/-- A store of 64 KiB cleared reads NIL 0, and what lies outside it as before. -/
theorem State.mread_mclear (s : State) {base : Nat} (hb : base % 4 = 0) (a : Nat) :
    (s.mclear base (base + 0x10000)).mread a = if inStore base a then TWord.nil0 else s.mread a := by
  unfold State.mread State.mclear
  by_cases h : inStore base a = true
  · rw [if_pos h]
    unfold inStore at h
    simp only [Bool.and_eq_true, decide_eq_true_eq] at h
    refine AMap.get_filter_dropped _ fun v => ?_
    simp only [Bool.or_eq_false_iff, decide_eq_false_iff_not]
    omega
  · rw [if_neg h]
    unfold inStore at h
    simp only [Bool.and_eq_true, decide_eq_true_eq] at h
    refine AMap.get_filter _ _ _ fun v => ?_
    simp only [Bool.or_eq_true, decide_eq_true_eq]
    omega

/-- The comparator lanes keep their readings. -/
theorem State.pin_lane_mclear (s : State) (lo hi c l : Nat) : (s.mclear lo hi).pin (.lane c l) = s.pin (.lane c l) := by
  have hfind : (s.mclear lo hi).pins.find? (fun p => p.1 = .lane c l) = s.pins.find? (fun p => p.1 = .lane c l) := by
    unfold State.mclear
    rw [List.find?_filter]
    refine congrArg (List.find? · s.pins) (funext fun p => ?_)
    by_cases e : p.1 = .lane c l <;> simp [e]
  unfold State.pin
  rw [hfind]

theorem State.laneTest_of_sound {c : Nat} (h : ∀ l, l < 5 → s.pin (.lane c l) = 0) : s.laneTest c = s := by
  refine if_neg ?_
  simp only [List.any_eq_true, not_exists, not_and, mem_upto]
  exact fun l hl => by simp [h l hl]

/-- The registers that a core loses with its domain. -/
def Core.lost (k : Core) : Core := { k with
  w := Vector.replicate 32 TWord.nil0, ew := Vector.replicate 32 (echoBits TWord.nil0), flg := 0, cnt := 0, dirty := [] }

/-- What a core with sound lanes has lost: its near stores and its registers. -/
theorem State.coreLost_of_sound {c : Fin 2} (h : ∀ l, l < 5 → s.pin (.lane c l) = 0) :
    s.coreLost c = ((s.mclear (nearI c) (nearI c + 0x10000)).mclear (nearD c) (nearD c + 0x10000)).setCore c Core.lost := by
  refine State.laneTest_of_sound fun l hl => ?_
  rw [State.pin_setCore, State.pin_lane_mclear, State.pin_lane_mclear, h l hl]

/-- A core's domain that was OFF reaches ON with what it lost at its reset values. -/
theorem State.wakeDone_off {c : Fin 2} (hoff : (nth s.pwr.dom (1 + c) {}).st = .off) (h : ∀ l, l < 5 → s.pin (.lane c l) = 0) :
    s.wakeDone (1 + c) = ((((s.nowOn (1 + c)).mclear (nearI c) (nearI c + 0x10000)).mclear (nearD c) (nearD c + 0x10000)).setCore c
      Core.lost).jobsWake c := by
  have hlost : (s.nowOn (1 + c)).lost (1 + c) = (s.nowOn (1 + c)).coreLost c := by
    rcases (by omega : c = 0 ∨ c = 1) with rfl | rfl <;> rfl
  have hled : 1 + c.val ≠ domLed := by unfold domLed; omega
  have hcore : 1 + c.val = 1 ∨ 1 + c.val = 2 := by omega
  unfold State.wakeDone
  dsimp only
  rw [hoff, if_neg hled, if_pos (rfl : DomSt.off = .off), if_pos hcore, Nat.add_sub_cancel_left]
  exact congrArg (State.jobsWake · c) (hlost.trans (State.coreLost_of_sound h))

theorem State.mread_coreLost {c : Fin 2} (hoff : (nth s.pwr.dom (1 + c) {}).st = .off) (h : ∀ l, l < 5 → s.pin (.lane c l) = 0) (a : Nat) :
    (s.wakeDone (1 + c)).mread a = if inStore (nearI c) a || inStore (nearD c) a then TWord.nil0 else s.mread a := by
  have hI : nearI c % 4 = 0 := by unfold nearI; omega
  have hD : nearD c % 4 = 0 := by unfold nearD; omega
  rw [State.wakeDone_off hoff h, State.mread_jobsWake, State.mread_setCore, State.mread_mclear _ hD, State.mread_mclear _ hI,
    State.mread_nowOn]
  cases inStore (nearI c) a <;> cases inStore (nearD c) a <;> rfl

theorem State.cr_wakeDone_off {c : Fin 2} (hoff : (nth s.pwr.dom (1 + c) {}).st = .off) (h : ∀ l, l < 5 → s.pin (.lane c l) = 0) :
    (s.wakeDone (1 + c)).cr c = (s.cr c).lost := by
  rw [State.wakeDone_off hoff h, State.cr_jobsWake, State.cr_setCore_same]
  rfl

theorem State.dom_wakeDone_off {c : Fin 2} (hoff : (nth s.pwr.dom (1 + c) {}).st = .off) (h : ∀ l, l < 5 → s.pin (.lane c l) = 0) :
    (nth (s.wakeDone (1 + c)).pwr.dom (1 + c) {}).st = .on := by
  rw [State.wakeDone_off hoff h]
  exact congrArg Dom.st (State.dom_nowOn (by omega))

end

/-! ### The statement -/

/-- A word register of a core that has lost its registers. -/
theorem State.w_of_lost {t : State} {c : Fin 2} {k : Core} (h : t.cr c = k.lost) (r : Nat) : t.w c r = TWord.nil0 := by
  unfold State.w
  rw [h]
  unfold Core.lost nth
  simp

/-- Settles O40: the restarts by `State.coreRestart_restarted`, the link's commands by what a write of HALT leaves, the domains by
`State.coreDown_of_idle` and `State.wakeDone_ret` or `State.wakeDone_off`. -/
theorem coreControlSteps : Obligations.CoreControlSteps := by
  refine ⟨fun c k w s hc hoff hbuf hw _ he hhalt hlocks => ?_, fun k w s hoff hbuf h => ?_,
    fun m job w s => ⟨fun h => execCoreRestart_of_dip h m job, fun hd h => execCoreRestart_of_off hd h m job⟩, fun c w s hs hoff hbuf => ?_,
    fun s => rfl, fun c s hs hlink => ⟨fun h => ?_, fun h _ => ?_, fun h => execStep_running h, fun he ht h => ?_, fun h hhalt => ?_, fun h => ?_,
      fun h => ?_, fun h hhalt hlocks => ?_⟩, fun c s h => State.linkCommands_closed h, fun c s h => ?_,
    fun c q s hdown hidle hclk hdbg he ht hbuf hon => ?_, fun d s h => execDomainWakeComplete_of_not h, fun d s hw hc hret => ?_,
    fun d s hw hc hret hled hcan hpress => ?_, fun c s hw hc hst hlanes => ?_⟩
  · have hre := State.coreRestart_restarted hhalt hlocks
    exact ⟨_, (execCoreRestart_core hoff hbuf false).trans (congrArg _ (State.crstWrite_other hc hw he)), hre.core, hre.jobs, hre.rest⟩
  · exact (execCoreRestart_core hoff hbuf false).trans (congrArg _ (State.crstWrite_of_none h))
  · exact ⟨_, execCoreRestart_core hoff hbuf true, State.bit_setBit_same hs rfl (by decide), s.setFld_keeps F.echStatPrivrej 1⟩
  · exact ⟨_, execDebugHalt_open hs hlink, State.haltWritten_halts hs h⟩
  · exact (execDebugHalt_open hs hlink).trans (congrArg _ (State.haltWritten_self hs h nofun))
  · exact (execRestart_running hs hlink he ht).trans (congrArg _ (State.haltWritten_self hs h id))
  · exact (execDebugResume_open hs hlink).trans (congrArg _ (State.haltWritten_self hs h (fun _ => hhalt)))
  · have hresumes := State.haltWritten_resumes (c := c) hs
    rw [h, if_pos rfl] at hresumes
    exact ⟨_, execDebugResume_open hs hlink, hresumes⟩
  · exact ⟨_, execStep_halted hs hlink h, s.cr_setCore_same c _, State.keeps_mono (s.setCore_keeps c _) (by simp)⟩
  · have hexec := execRestart_halted hs hlink h
    rw [hhalt] at hexec
    exact ⟨_, hexec, State.haltWritten_restarts hs hlocks⟩
  · exact congrArg Host.Outcome.next (State.coreDown_of_not h)
  · exact ⟨_, congrArg Host.Outcome.next (State.coreDown_of_idle hdown hidle hclk hdbg he ht hbuf hon), s.setDom_keeps _ _,
      nth_updN_same _ _ _ _ (by omega)⟩
  · exact ⟨_, execDomainWakeComplete_waking hw hc, State.dom_wakeDone_ret d.isLt hret⟩
  · refine ⟨_, execDomainWakeComplete_waking hw hc, State.dom_wakeDone_ret d.isLt hret, fun c j p hd hj hwait => ?_,
      State.wakeDone_ret_keeps hret hled hcan hpress⟩
    rw [hd] at hret ⊢
    exact State.jobs_wakeDone_ret hret hj hwait
  · have hcore := State.cr_wakeDone_off hst hlanes
    refine ⟨_, execDomainWakeComplete_waking (d := ⟨1 + c, by omega⟩) hw hc, State.dom_wakeDone_off hst hlanes, fun a ha => ?_, fun a ha => ?_,
      State.w_of_lost hcore, congrArg Core.flg hcore, congrArg Core.cnt hcore⟩
    · exact (State.mread_coreLost hst hlanes a).trans (if_pos ha)
    · exact (State.mread_coreLost hst hlanes a).trans (if_neg (by simp [ha]))

end Sys2Proof.Machine
end

section
/-!
PROOFS. The wake time-out of a bank (O43): the clause on the readers that wait at it fails for a fetch.
-/

/- One proof at a time: the check of the whole text comes near its limit of memory. -/
set_option Elab.async false

namespace Sys2Proof.Machine

/-- Bank 0 wakes while an instruction fetch of C0, its owner, waits at it; an earlier read has delivered NAT 0 to C0. -/
def fetchAtWakingBank : State := { State.reset with
  grn := {
    bank := (Vector.replicate 16 {}).set 0 { wait := [{ who := 0, word := 0, fetch := true }] }
    got := (Vector.replicate 9 TWord.nil0).set 0 TWord.nat0 }
  pwr := { State.reset.pwr with dom := Dom.afterReset.set 16 { st := .ret, waking := true } } }

theorem fetchAtWakingBank_waits : fetchAtWakingBank.canonical ∧ (nth fetchAtWakingBank.pwr.dom 16 {}).waking = true ∧
    fetchAtWakingBank.inDip = false ∧ (fetchAtWakingBank.gbank 0).wait = [{ who := 0, word := 0, fetch := true }] ∧
    fetchAtWakingBank.mayUse 0 0 = true := by
  refine ⟨⟨by decide, by decide⟩, by decide, by decide, by decide, by decide⟩

/-- The time-out delivers nothing to a fetch: C0 still holds what was delivered before. -/
theorem fetchAtWakingBank_timeout {t : State} (h : exec (.bankWakeTimeout 0) fetchAtWakingBank = .next t) :
    nth t.grn.got 0 TWord.nil0 = TWord.nat0 := by
  have hsource (u : State) : (u.raiseSource 21).grn.got = u.grn.got := ((Reacted.refl u).raiseSource 21 (by decide)).own.2.2.2.1
  change execBankWakeTimeout 0 fetchAtWakingBank = _ at h
  unfold execBankWakeTimeout at h
  rw [if_neg (by decide)] at h
  cases h
  unfold State.wakeFailed
  rw [hsource]
  decide

/-- Refutes O43: where the access that waits at a bank is a fetch, which reads no data, the time-out leaves the word last delivered to its
core. -/
theorem not_granaryBankSteps : ¬ Obligations.GranaryBankSteps := by
  intro h
  obtain ⟨hcanon, hwaking, hdip, hwait, hown⟩ := fetchAtWakingBank_waits
  obtain ⟨_, _, _, _, _, _, _, _, _, _, _, _, htimeout, _⟩ := h 0 fetchAtWakingBank hcanon
  obtain ⟨u, hexec, _, _, _, _, hread, _⟩ := htimeout hwaking hdip (by
    intro g hg
    rw [show (fetchAtWakingBank.gbank (0 : Fin 16)).wait = _ from hwait, List.mem_singleton] at hg
    rw [hg]
    exact hown)
  have hnil := hread { who := 0, word := 0, fetch := true } (by rw [show (fetchAtWakingBank.gbank (0 : Fin 16)).wait = _ from hwait]; simp) rfl (by decide)
  have hgot := fetchAtWakingBank_timeout hexec
  rw [((Reacted.refl u).raiseSource 21 (by decide)).own.2.2.2.1] at hgot
  rw [hgot] at hnil
  exact absurd hnil (by decide)

end Sys2Proof.Machine
end

section
/-!
PROOFS. Parking and waking, the PLL's lock, the AON timer and the clocks (O46).
-/

/- One proof at a time: the check of the whole text comes near its limit of memory. -/
set_option Elab.async false

namespace Sys2Proof.Machine

section
variable {s : State}

/-- The pause of the frame changed. -/
def State.withPause (s : State) (p : Pause) : State := { s with pwr := { s.pwr with pause := p } }

theorem State.withPause_keeps (s : State) (q : Pause) : s.keeps (s.withPause q) [.pause] := by
  refine ⟨rfl, fun p hp => ?_⟩
  have h := s.same_refl p
  cases p with
  | pause => exact absurd (by simp) hp
  | _ => exact h

/-- Two fields of one register set change that register alone. -/
theorem State.setFld_beside_keeps (s : State) {f g : Fld} (h : g.addr = f.addr) (v w : Nat) :
    s.keeps ((s.setFld f v).setFld g w) [.reg f.addr] := by
  have hg := (s.setFld f v).setFld_keeps g w
  rw [h] at hg
  exact State.keeps_trans (s.setFld_keeps f v) hg

/-! ### Parking (R440) -/

theorem execParkEntry_of_wait {t : Nat} (h : s.pwr.pause = .parkWait t) (us : Nat) : execParkEntry us s =
    .next ((s.advance (t + clampN 122 153 us * ticksPerUs)).withPause (.parked (max s.count (t + clampN 122 153 us * ticksPerUs)))) := by
  unfold execParkEntry
  rw [h]
  rfl

theorem execParkEntry_of_other (h : ∀ t, s.pwr.pause ≠ .parkWait t) (us : Nat) : execParkEntry us s = .next s := by
  unfold execParkEntry
  split
  · next t ht => exact absurd ht (h t)
  · rfl

/-! ### Waking (R441 to R443, R472) -/

theorem State.wakeBy_of_other (h : ∀ t, s.pwr.pause ≠ .parked t) (edges : Nat) : s.wakeBy edges = s := by
  unfold State.wakeBy
  split
  · next t ht => exact absurd ht (h t)
  · rfl

theorem State.wakeBy_of_none {t : Nat} (h : s.pwr.pause = .parked t) {edges : Nat} (h0 : s.levelWakes + edges = 0) : s.wakeBy edges = s := by
  unfold State.wakeBy
  rw [h]
  exact if_pos h0

theorem State.levelWakes_lt (s : State) : s.levelWakes < 16 := by
  have hb (b : Bool) : b2n b ≤ 1 := by cases b <;> decide
  unfold State.levelWakes
  dsimp only
  have h0 := hb ((s.fld F.inpWakecfgPwake).testBit 0 && (s.fld F.inpWakecfgEn).testBit 0 && (s.wakeIn 0).active)
  have h1 := hb ((s.fld F.inpWakecfgPwake).testBit 1 && (s.fld F.inpWakecfgEn).testBit 1 && (s.wakeIn 1).active)
  have h2 := hb ((upto 48).any s.watchWake)
  have h3 := hb ((s.fld F.pwrWsrcEn).testBit 0 && s.bit F.pwrAontDone)
  omega

/-- A wake records its sources in WCAUSE and awaits the crystal (R443). -/
theorem State.wakeBy_of_some {t : Nat} (hs : s.canonical) (h : s.pwr.pause = .parked t) {edges : Nat} (h0 : s.levelWakes + edges ≠ 0)
    (hlt : s.levelWakes + edges < 128) :
    (s.wakeBy edges).pwr.pause = .resume t true none ∧ (s.wakeBy edges).fld F.pwrWcauseSrc = s.levelWakes + edges ∧
      s.keeps (s.wakeBy edges) [.pause, .reg F.pwrWcauseSrc.addr] := by
  have heq : s.wakeBy edges = ((s.setFld F.pwrWcauseSrc (s.levelWakes + edges)).setFld F.pwrWcauseSwidx
      (((upto 48).find? s.watchWake).getD 63)).withPause (.resume t true none) := by
    unfold State.wakeBy
    rw [h]
    exact if_neg h0
  have hsrc := State.setFld_stable canonical_lasting.toStable F.pwrWcauseSrc (s.levelWakes + edges) hs
  rw [heq]
  refine ⟨rfl, ?_, ?_⟩
  · refine (State.fld_setFld_beside hsrc (f := F.pwrWcauseSwidx) (g := F.pwrWcauseSrc) rfl (by decide) (.inr (by decide)) _).trans ?_
    rw [State.fld_setFld_same hs (by decide)]
    exact Nat.mod_eq_of_lt hlt
  · exact State.keeps_trans (s.setFld_beside_keeps (f := F.pwrWcauseSrc) (g := F.pwrWcauseSwidx) rfl _ _) (State.withPause_keeps _ _)

/-- The edge sources of a wake request, as bits of WCAUSE.SRC. -/
def State.wakeEdges (s : State) (wup fec : List (Fin 2)) (hcs : Bool) : Nat :=
  let can := fun (n : Fin 2) =>
    if (decide ((s.fld F.pwrWsrcEn).testBit (2 + n) = true) && (if s.wakeMode n then fec.contains n else wup.contains n)) = true
    then 2 ^ (4 + n.val) else 0
  can 0 + can 1 + (if (hcs && (s.fld F.pwrWsrcEn).testBit 1) = true then 64 else 0)

theorem execWakeRequest_eq (wup fec : List (Fin 2)) (hcs : Bool) (s : State) :
    execWakeRequest wup fec hcs s = .next (s.wakeBy (s.wakeEdges wup fec hcs)) := by
  have hcan (n : Fin 2) : (if ((wup.contains n && !s.wakeMode n) || (fec.contains n && s.wakeMode n)) = true then s.canWakeBit n else 0) =
      if (decide ((s.fld F.pwrWsrcEn).testBit (2 + n) = true) && (if s.wakeMode n then fec.contains n else wup.contains n)) = true
      then 2 ^ (4 + n.val) else 0 := by
    unfold State.canWakeBit
    cases s.wakeMode n <;> cases (s.fld F.pwrWsrcEn).testBit (2 + n) <;> simp
  unfold execWakeRequest State.wakeEdges
  dsimp only
  rw [hcan 0, hcan 1]

theorem State.wakeEdges_le (s : State) (wup fec : List (Fin 2)) (hcs : Bool) : s.wakeEdges wup fec hcs ≤ 112 := by
  unfold State.wakeEdges
  dsimp only
  split_ifs <;> decide

theorem execSelectiveWake_of_other (h : ∀ t, s.pwr.pause ≠ .parked t) (n : Fin 2) (m : CanMsg) (rate : Fin 4) :
    execSelectiveWake n m rate s = .next s := by
  unfold execSelectiveWake
  rw [State.wakeBy_of_other h, ite_self]

theorem State.canWakeBit_ne_zero (s : State) (n : Fin 2) : s.canWakeBit n ≠ 0 ↔ (s.fld F.pwrWsrcEn).testBit (2 + n) = true := by
  unfold State.canWakeBit
  split
  · next h => simp [h]
  · next h => simp [h]

/-! ### PLL lock (R427, R443, R522) -/

/-- OFFSET is the 64-bit two's complement number of its two registers (R509). -/
theorem State.offset_setOffset (hs : s.canonical) {o : Int} (hlo : -2 ^ 63 ≤ o) (hhi : o < 2 ^ 63) : (s.setOffset o).offset = o := by
  have hw : (o % 2 ^ 64).toNat < 2 ^ 64 := by omega
  have hlow := State.setFld_stable canonical_lasting.toStable F.timOffloOff ((o % 2 ^ 64).toNat % 2 ^ 32) hs
  have hl : (s.setOffset o).fld F.timOffloOff = (o % 2 ^ 64).toNat % 2 ^ 32 := by
    refine (State.fld_setFld_other _ _ _ _ (by decide)).trans ?_
    rw [State.fld_setFld_same hs (by decide)]
    exact Nat.mod_mod _ _
  have hh : (s.setOffset o).fld F.timOffhiOff = (o % 2 ^ 64).toNat / 2 ^ 32 := by
    refine (State.fld_setFld_same hlow (by decide) _).trans (Nat.mod_eq_of_lt ?_)
    show _ < 2 ^ 32
    omega
  unfold State.offset
  rw [hl, hh]
  unfold signedN
  split <;> omega

theorem State.setOffset_keeps (s : State) (o : Int) : s.keeps (s.setOffset o) [.reg F.timOffloOff.addr, .reg F.timOffhiOff.addr] :=
  State.keeps_trans (s.setFld_keeps _ _) (State.setFld_keeps _ _ _)

/-- COUNT of the AON timer after a pause of `us` µs in which its clock ran on (R443, R448). -/
def State.aonAfter (s : State) (us : Nat) : Nat :=
  if s.fld F.pwrAontCount = 0 ∨ s.pwr.aonStop then s.fld F.pwrAontCount else max 1 (s.fld F.pwrAontCount - aonCycles us)

theorem State.aonAfter_lt (s : State) (us : Nat) : s.aonAfter us < 2 ^ 31 := by
  have h : s.fld F.pwrAontCount < 2 ^ 31 := getBits_lt _ _ _
  unfold State.aonAfter
  split <;> omega

/-- The state after PLL lock, its pause apart: COUNT at the lock, the pause added to OFFSET, what the servo then did, and the AON timer. -/
def State.pllLocked (s : State) (us lock : Nat) (go : State → State) : State :=
  (go ((s.advance (s.count + lock * ticksPerUs)).setOffset (s.offset + 1000 * us))).setFld F.pwrAontCount (s.aonAfter us)

theorem execPllLock_of_resume {t : Int} (h : s.pwr.pause = .resume t true none) (us lock : Nat) : execPllLock us lock s =
    .next ((s.pllLocked us lock (if s.tim.st = 2 then (·.timGo 3) else id)).withPause (.resume (t - us * ticksPerUs) true
      (some (s.pllLocked us lock (if s.tim.st = 2 then (·.timGo 3) else id)).count))) := by
  unfold execPllLock
  rw [h]
  by_cases h2 : s.tim.st = 2
  · rw [if_pos h2]
    dsimp only
    rw [if_pos h2]
    rfl
  · rw [if_neg h2]
    dsimp only
    rw [if_neg h2]
    rfl

theorem execPllLock_of_other (h : ∀ t, s.pwr.pause ≠ .resume t true none) (us lock : Nat) : execPllLock us lock s = .next s := by
  unfold execPllLock
  split
  · next t ht => exact absurd ht (h t)
  · rfl

/-- The clocks run once the PLL has locked, while the logic is powered. -/
theorem State.clocksRun_of_lock {u : State} {t : Int} {park : Bool} {lock : Nat} (h : u.pwr.pause = .resume t park (some lock)) :
    u.clocksRun = !u.unpowered := by
  unfold State.clocksRun
  rw [h]
  simp

/-! ### The AON timer -/

theorem execAonTimerExpire_of_none (h : s.fld F.pwrAontCount = 0 ∨ s.pwr.aonStop = true) : execAonTimerExpire s = .next s :=
  congrArg Host.Outcome.next (if_pos h)

theorem execAonTimerExpire_of_counting (h : s.fld F.pwrAontCount ≠ 0) (hstop : s.pwr.aonStop = false) :
    execAonTimerExpire s = .next ((s.setFld F.pwrAontCount 0).setBit F.pwrAontDone) :=
  congrArg Host.Outcome.next (if_neg (by simp [h, hstop]))

theorem State.aonCount_lt (s : State) : s.aonCount < 2 ^ 31 := by
  have h : s.fld F.pwrAontCount < 2 ^ 31 := getBits_lt _ _ _
  unfold State.aonCount
  dsimp only
  split <;> omega

/-- The state of the clocks that the pause holds, changed. -/
theorem State.clocks_keeps (s : State) (rc stop : Bool) : s.keeps { s with pwr := { s.pwr with onRc := rc, aonStop := stop } } [.pause] := by
  refine ⟨rfl, fun p hp => ?_⟩
  have h := s.same_refl p
  cases p with
  | pause => exact absurd (by simp) hp
  | _ => exact h

end

theorem State.timCause_blocks (s : State) (c : Nat) : (s.timCause c).tim = s.tim ∧ (s.timCause c).pwr.grp = s.pwr.grp := by
  unfold State.timCause
  split
  · have hr := (Reacted.refl (s.setFld F.timEvcCause (s.fld F.timEvcCause ||| 2 ^ c))).raiseEvent 61 (by decide)
    exact ⟨hr.clocks.2, hr.grp⟩
  · exact ⟨rfl, rfl⟩

/-- The servo in LOCK enters HOLD (R516). -/
theorem State.timGo_hold {s : State} (h : s.tim.st = 2) : (s.timGo 3).tim.st = 3 ∧ (s.timGo 3).unpowered = s.unpowered := by
  have hgo : s.timGo 3 = ((s.setTim (fun x => { x with st := 3, good := 0, bad := 0 })).timCause 0).raiseSource 162 := by
    unfold State.timGo
    rw [if_neg (by rw [h]; decide), if_pos ⟨h, rfl⟩]
  have hr := (Reacted.refl ((s.setTim (fun x => { x with st := 3, good := 0, bad := 0 })).timCause 0)).raiseSource 162 (by decide)
  rw [hgo]
  obtain ⟨htim, hgrp⟩ := State.timCause_blocks (s.setTim (fun x => { x with st := 3, good := 0, bad := 0 })) 0
  refine ⟨?_, ?_⟩
  · rw [hr.clocks.2, htim]
    rfl
  · unfold State.unpowered
    rw [hr.grp, hgrp]
    rfl

/-- Settles O46: the pause by what `execParkEntry`, `State.wakeBy` and `execPllLock` do in each of its forms, OFFSET by
`State.offset_setOffset`. -/
theorem clockAndWakeSteps : Obligations.ClockAndWakeSteps := by
  refine ⟨fun us t s h => ⟨_, execParkEntry_of_wait h us, rfl, rfl, ?_, ?_⟩, fun us s h => execParkEntry_of_other h us,
    fun wup fec hcs n m rate s h => ⟨?_, execSelectiveWake_of_other h n m rate⟩, fun us lock s h => execPllLock_of_other h us lock,
    fun wup fec hcs t s hs h => ?_, fun n m rate t s hs h => ?_, fun us lock t s hs h hpow hst hlo hhi => ?_,
    fun us lock t s h hpow hst => ?_, fun s hs => ⟨fun h hstop => ?_, execAonTimerExpire_of_none, rfl, rfl, rfl, ?_, ?_⟩⟩
  · show (!_ && false) = false
    exact Bool.and_false _
  · exact State.keeps_trans (s.advance_keeps _) (State.withPause_keeps _ _)
  · exact (execWakeRequest_eq wup fec hcs s).trans (congrArg _ (State.wakeBy_of_other h _))
  · have hsrc : s.levelWakes + s.wakeEdges wup fec hcs = _ := (Nat.add_assoc s.levelWakes _ _).symm.trans
      (congrArg (· + _) (Nat.add_assoc s.levelWakes _ _).symm)
    have hlt := s.levelWakes_lt
    have hle := s.wakeEdges_le wup fec hcs
    refine ⟨fun h0 => ?_, fun h0 => ?_⟩
    · exact (execWakeRequest_eq wup fec hcs s).trans (congrArg _ (State.wakeBy_of_none h (hsrc.trans h0)))
    · obtain ⟨hp, hf, hk⟩ := State.wakeBy_of_some hs h (fun e => h0 (hsrc.symm.trans e)) (by omega)
      exact ⟨_, execWakeRequest_eq wup fec hcs s, hp, hf.trans hsrc, hk⟩
  · refine ⟨fun ⟨hm, hr, hen, hf⟩ => ?_, fun hn => congrArg _ (if_neg fun hc => hn ?_)⟩
    · have hbit : s.canWakeBit n = 2 ^ (4 + n.val) := if_pos hen
      have hlt := s.levelWakes_lt
      have hpow : 2 ^ (4 + n.val) ≤ 32 := Nat.pow_le_pow_right (n := 2) (by decide) (show 4 + n.val ≤ 5 by omega)
      have hpos : 0 < 2 ^ (4 + n.val) := Nat.two_pow_pos _
      obtain ⟨hp, hsrc, hk⟩ := State.wakeBy_of_some hs h (edges := s.canWakeBit n) (by omega) (by omega)
      refine ⟨_, congrArg Host.Outcome.next (if_pos ⟨hm, hr, hf, (s.canWakeBit_ne_zero n).mpr hen⟩), hp, ?_, hk⟩
      rw [hsrc, hbit]
    · obtain ⟨hm, hr, hf, hen⟩ := hc
      exact ⟨hm, hr, (s.canWakeBit_ne_zero n).mp hen, hf⟩
  · have hexec := execPllLock_of_resume h us lock
    rw [if_neg hst] at hexec
    have hadv : (s.advance (s.count + lock * ticksPerUs)).canonical := hs
    have hoff := State.offset_setOffset hadv hlo hhi
    have hcanon : ((s.advance (s.count + lock * ticksPerUs)).setOffset (s.offset + 1000 * us)).canonical :=
      State.setFld_stable canonical_lasting.toStable _ _ (State.setFld_stable canonical_lasting.toStable _ _ hadv)
    refine ⟨_, hexec, ?_, ?_, ?_, rfl, ?_, ?_⟩
    · exact Nat.max_eq_right (Nat.le_add_right _ _)
    · refine Eq.trans ?_ hoff
      unfold State.offset
      refine congrArg₂ signedN (congrArg₂ (· + ·) ?_ (congrArg _ ?_)) rfl
      · exact State.fld_setFld_other _ _ _ _ (by decide)
      · exact State.fld_setFld_other _ _ _ _ (by decide)
    · rw [State.clocksRun_of_lock rfl]
      exact congrArg (! ·) hpow
    · refine (State.fld_setFld_same hcanon (by decide) _).trans (Nat.mod_eq_of_lt (s.aonAfter_lt us))
    · have h1 := State.keeps_trans (n := [.count, .reg F.timOffloOff.addr, .reg F.timOffhiOff.addr]) (s.advance_keeps (s.count + lock * ticksPerUs))
        (State.setOffset_keeps _ (s.offset + 1000 * us))
      have h2 := State.keeps_trans (n := [.count, .reg F.timOffloOff.addr, .reg F.timOffhiOff.addr, .reg F.pwrAontCount.addr]) h1
        (State.setFld_keeps _ F.pwrAontCount (s.aonAfter us))
      exact State.keeps_trans h2 (State.withPause_keeps _ _)
  · have hexec := execPllLock_of_resume h us lock
    rw [if_pos hst] at hexec
    obtain ⟨hhold, hup⟩ := State.timGo_hold (s := (s.advance (s.count + lock * ticksPerUs)).setOffset (s.offset + 1000 * us)) hst
    refine ⟨_, hexec, hhold, ?_⟩
    rw [State.clocksRun_of_lock rfl]
    exact congrArg (! ·) (hup.trans hpow)
  · have hzero := State.setFld_stable canonical_lasting.toStable F.pwrAontCount 0 hs
    refine ⟨_, execAonTimerExpire_of_counting h hstop, ?_, State.bit_setBit_same hzero rfl (by decide), ?_⟩
    · refine (State.fld_setFld_beside hzero (f := F.pwrAontDone) (g := F.pwrAontCount) rfl (by decide) (.inr (by decide)) _).trans ?_
      rw [State.fld_setFld_same hs (by decide)]
      rfl
    · exact s.setFld_beside_keeps (f := F.pwrAontCount) (g := F.pwrAontDone) rfl 0 1
  · exact ⟨_, rfl, rfl, s.clocks_keeps true s.pwr.aonStop⟩
  · refine ⟨{ (s.setFld F.pwrAontCount s.aonCount) with pwr := { s.pwr with aonStop := true } }, rfl, rfl, ?_, ?_⟩
    · exact (State.fld_setFld_same hs (by decide) _).trans (Nat.mod_eq_of_lt s.aonCount_lt)
    · exact State.keeps_trans (s.setFld_keeps _ _) (State.clocks_keeps (s.setFld F.pwrAontCount s.aonCount) s.pwr.onRc true)

end Sys2Proof.Machine
end

section
/-!
PROOFS. The pulse of PPS_OUT (O50): the clause on its end fails where the whole second lies past the end of the 64-bit COUNT.
-/

/- One proof at a time: the check of the whole text comes near its limit of memory. -/
set_option Elab.async false

namespace Sys2Proof.Machine

/-- PPS_OUT is enabled, TIME is ON, and COUNT stands at its last value before it wraps. -/
def ppsAtLastCount : State := { State.reset.setBit F.timPpsOuten with
  count := 2 ^ 64 - 1
  pwr := { State.reset.pwr with dom := Dom.afterReset.set 12 { st := .on } } }

/-- The corrected time at which the pulse of the next whole second ends (R523). -/
def State.ppsEndTime (s : State) : Int :=
  (s.timeNow + 999999999) / 1000000000 * 1000000000 + 1000000 * clampN 1 500 (s.fld F.timPpsWid)

theorem ppsAtLastCount_enabled : ppsAtLastCount.bit F.timPpsOuten = true ∧ ppsAtLastCount.domOn 12 = true := by decide

/-- The second lies past the wrap, so the pulse's end, reckoned from there, is one run of COUNT later than reckoned from here. -/
theorem ppsAtLastCount_wraps : (ppsAtLastCount.advance (ppsAtLastCount.countFor
      ((ppsAtLastCount.timeNow + 999999999) / 1000000000 * 1000000000))).countFor ppsAtLastCount.ppsEndTime ≠
    ppsAtLastCount.countFor ppsAtLastCount.ppsEndTime := by decide

/-- Refutes O50: with COUNT at 2^64 - 1 the pulse begins after the 64-bit counter has wrapped, and the moment of its end is reckoned in
the new run of COUNT, not in that of the state before. -/
theorem not_ethernetAndTimeSteps : ¬ Obligations.EthernetAndTimeSteps := by
  intro h
  obtain ⟨_, _, _, _, _, _, _, _, _, hpps⟩ := h
  obtain ⟨hen, hon⟩ := ppsAtLastCount_enabled
  obtain ⟨t, hexec, _, hend, _⟩ := (hpps ppsAtLastCount).1 hen hon
  have hrun : exec .ppsOutPulse ppsAtLastCount = .next _ := congrArg Host.Outcome.next (if_pos ⟨hen, hon⟩)
  rw [hexec] at hrun
  cases hrun
  exact ppsAtLastCount_wraps (Option.some.inj hend)

end Sys2Proof.Machine
end

section
/-!
PROOFS. The entry into recovery (O58): the clause on the stores that the cores have retired fails where the safe image halts them.
-/

/- One proof at a time: the check of the whole text comes near its limit of memory. -/
set_option Elab.async false

namespace Sys2Proof.Machine

/-- The key written to SEC.RECOVER enters recovery (R611). -/
theorem execRecoverEntry_of_key {s : State} (hstores : s.storesOff = false) (hrcvr : s.sec.rcvr = false) (hhalt : s.win.fhalt = false) :
    exec (.recoverEntry 0x5EC00D1E#32 false) s = .next (s.enterRecovery false) := by
  have hwrite : s.recoverWrite 0x5EC00D1E#32 false = s.enterRecovery false := by
    unfold State.recoverWrite
    rw [if_neg Bool.false_ne_true, if_pos ⟨rfl, hrcvr, hhalt⟩]
  exact congrArg Host.Outcome.next ((State.store_of_on hstores _ _).trans hwrite)

/-- C0 holds a retired store. A search for tokens runs, whose end would raise event 74; the event is bound to C1, whose domain is locked
off, and source 31 is of class F. -/
def searchBoundToLockedCore : State :=
  { ((((State.reset.setFld (F.winClassCls 1) (3 * 2 ^ 30)).setFld F.accEvenCause 4).setFld (F.frmEvtCore 74) 1).setFld (F.frmEvtEn 74) 1).setFld
      F.pwrLockLk 4 with
    core := State.reset.core.set 0 { busy := true, started := true, buf := [{ a := 0x40000000, v := TWord.nil0 }] }
    acc := { State.reset.acc with srch := { phase := 1 } } }

theorem searchBoundToLockedCore_runs : searchBoundToLockedCore.canonical ∧ searchBoundToLockedCore.sec.rcvr = false ∧
    searchBoundToLockedCore.storesOff = false ∧ searchBoundToLockedCore.win.fhalt = false ∧ (searchBoundToLockedCore.cr 0).buf ≠ [] := by
  refine ⟨⟨by decide, by decide⟩, by decide, by decide, by decide, by decide⟩

theorem searchBoundToLockedCore_stopped : ((searchBoundToLockedCore.enterRecovery false).cr 0).buf = [] := by
  decide +kernel

/-- Refutes O58: where entering recovery ends a search whose event 74 is bound to a locked core, source 31 halts the cores by class F,
and the stores that they have retired are dropped. -/
theorem not_bootAndRecoverySteps : ¬ Obligations.BootAndRecoverySteps := by
  intro h
  obtain ⟨hcanon, hrcvr, hstores, hhalt, hbuf⟩ := searchBoundToLockedCore_runs
  obtain ⟨_, _, _, _, _, hentry, _⟩ := h searchBoundToLockedCore hcanon
  obtain ⟨t, hexec, _, _, _, _, _, _, _, _, hkept, _⟩ := hentry hrcvr hstores
  have ht : t = searchBoundToLockedCore.enterRecovery false := Host.Outcome.next.inj (hexec.symm.trans (execRecoverEntry_of_key hstores hrcvr hhalt))
  rw [ht] at hkept
  exact hbuf ((hkept 0).symm.trans searchBoundToLockedCore_stopped)

end Sys2Proof.Machine
end

section
/-!
PROOFS. The cryptographic jobs (O56): the clause on GCM under a drawn IV fails where the slot holds no bytes of a key.
-/

/- One proof at a time: the check of the whole text comes near its limit of memory. -/
set_option Elab.async false

namespace Sys2Proof.Machine

/-! ### AES under no bytes of a key -/

theorem xorB_nil (b : Bytes) : xorB b [] = [] := List.zipWith_nil_right

theorem aesRounds_nil (n : Nat) : aesRounds (List.replicate n []) [] = [] := by
  induction n with
  | zero => rfl
  | succ n ih =>
    cases n with
    | zero => exact xorB_nil _
    | succ n => exact (congrArg (aesRounds _) (xorB_nil _)).trans ih

theorem roundKeys_nil : roundKeys [] = List.replicate 7 [] := by decide

/-- No round key has a byte, so no byte comes out. -/
theorem aes_nil (block : Bytes) : aes [] block = [] := by
  unfold aes
  rw [roundKeys_nil]
  exact (congrArg (aesRounds (List.replicate 6 [])) (xorB_nil block)).trans (aesRounds_nil 6)

theorem gcmTag_nil (iv aad ct : Bytes) : gcmTag [] iv aad ct = [] := by
  unfold gcmTag
  rw [aes_nil (iv ++ [0, 0, 0, 1])]
  exact xorB_nil _

theorem gcmText_nil (iv : Bytes) : gcmText [] iv [] = [] := rfl

/-! ### The state -/

/-- GCM_ENC of no text with a drawn IV, under slot 0. -/
def gcmOfNothing : CJob := { op := 2, flags := 1, src := 0x10000010, dst := 0x10000020, aux := 0x10000000 }

/-- SEC is ON and owns bank 0, which is ON; slot 0 says that it holds a key for encryption, and holds no bytes. -/
def keylessSlot : State := { ((State.reset.setFld (F.grnOwnOwner 0) 4).setFld (F.secKattrLoaded 0) 1).setFld (F.secKattrUse 0) 1 with
  sec := { State.reset.sec with job := State.reset.sec.job.set 0 (some gcmOfNothing) }
  pwr := { State.reset.pwr with dom := (Dom.afterReset.set 14 { st := .on }).set 16 { st := .on } } }

theorem keylessSlot_ready : keylessSlot.canonical ∧ keylessSlot.jobReady 0 2 gcmOfNothing ∧ keylessSlot.keyStatus 0 0 = 0 ∧
    keylessSlot.sec.trngf = false ∧ keylessSlot.slotKey 0 = [] := by
  refine ⟨⟨by decide, by decide⟩, ⟨by decide, rfl, rfl, by decide, by decide, by decide, rfl⟩, by decide, by decide, by decide⟩

theorem keylessSlot_free {a : Nat} (ha : a / 0x40000 = 0x400) : inGranary a = true ∧ keylessSlot.mayUse 4 (bankOf a) = true ∧
    keylessSlot.domOn (16 + bankOf a) = true ∧ keylessSlot.domLocked (16 + bankOf a) = false ∧ (keylessSlot.gbank (bankOf a)).wait = [] := by
  have hbank : bankOf a = 0 := by
    unfold bankOf
    omega
  rw [hbank]
  refine ⟨?_, by decide, by decide, by decide, by decide⟩
  simp only [inGranary, Bool.and_eq_true, decide_eq_true_eq]
  omega

theorem keylessSlot_holds {a n : Nat} (ha : a % 4 = 0) (hlo : 0x10000000 ≤ a) (hhi : a + n + 4 ≤ 0x10000100) : keylessSlot.holds 4 a n :=
  ⟨ha, fun j hj => keylessSlot_free (by omega)⟩

theorem keylessSlot_offers {a n : Nat} (ha : a % 4 = 0) (hlo : 0x10000000 ≤ a) (hhi : a + n + 4 ≤ 0x10000100) : keylessSlot.offers 4 a n :=
  ⟨keylessSlot_holds ha hlo hhi, fun _ _ => rfl⟩

theorem length_bytesAt (s : State) (a : Nat) : (s.bytesAt a 16).length = 16 := by
  unfold State.bytesAt
  simp [upto, leOf]

/-- Refutes O56: where a slot that is marked loaded for encryption holds no bytes, GCM gives neither text nor tag, and the sixteen bytes of
a tag do not stand at DST. -/
theorem not_cryptoJobsComplete : ¬ Obligations.CryptoJobsComplete := by
  intro h
  obtain ⟨hcanon, hready, hstatus, htrng, hkey⟩ := keylessSlot_ready
  obtain ⟨_, _, _, _, _, hdrawn, _⟩ := h 0 gcmOfNothing keylessSlot hcanon
  obtain ⟨t, iv, _, _, _, hbytes, _⟩ := hdrawn hready hstatus rfl htrng (keylessSlot_offers (by decide) (by decide) (by decide))
    (keylessSlot_offers (by decide) (by decide) (by decide)) (keylessSlot_holds (by decide) (by decide) (by decide))
  have hlen := congrArg List.length hbytes
  rw [show keylessSlot.slotKey gcmOfNothing.slot = [] from hkey, gcmTag_nil] at hlen
  rw [show t.bytesAt gcmOfNothing.dst (gcmOfNothing.len + 16) = t.bytesAt gcmOfNothing.dst 16 from rfl, length_bytesAt] at hlen
  rw [show keylessSlot.bytesAt gcmOfNothing.src gcmOfNothing.len = [] from rfl, gcmText_nil] at hlen
  exact absurd hlen (by decide)

end Sys2Proof.Machine
end

section
/-!
PROOFS. What no reaction disturbs: a domain's state, what a bank holds beside its wake, the access block outside a search.
-/

/- One proof at a time: the check of the whole text comes near its limit of memory. -/
set_option Elab.async false

namespace Sys2Proof.Machine

/-- A property of the domains, the banks and the access block that a reaction leaves: it does not speak of what a demand changes there,
nor of a search that the safe image ends. -/
structure Undisturbed (P : State → Prop) : Prop where
  of_eq : ∀ {s t : State}, P s → t.pwr.dom = s.pwr.dom → t.grn.bank = s.grn.bank → t.acc = s.acc → t.frm.frame = s.frm.frame →
    t.count = s.count → t.pwr.pause = s.pwr.pause → t.pwr.stalled = s.pwr.stalled → P t
  dom : ∀ {s : State} (d : Nat) (f : Dom → Dom),
    (∀ x : Dom, (f x).st = x.st ∧ (f x).before = x.before ∧ (s.inDip = true → (f x).waking = x.waking)) → P s → P (s.setDom d f)
  wake : ∀ {s : State} (b : Nat), P s → P (s.setWake b)
  search : ∀ {s : State} (b : Bool) (r : TokResult), ¬(s.acc.srch.phase = 0 ∧ s.acc.srch.retry = false) → P s →
    P (s.setAcc (fun a => { a with srch := {}, stopF := a.stopF || b, last := r }))

section
variable {P : State → Prop} (hP : Undisturbed P) {s : State}
include hP

theorem Undisturbed.same {t : State} (h : P s) (hdom : t.pwr.dom = s.pwr.dom := by rfl) (hbank : t.grn.bank = s.grn.bank := by rfl)
    (hacc : t.acc = s.acc := by rfl) (hframe : t.frm.frame = s.frm.frame := by rfl) (hcount : t.count = s.count := by rfl)
    (hpause : t.pwr.pause = s.pwr.pause := by rfl) (hstalled : t.pwr.stalled = s.pwr.stalled := by rfl) : P t :=
  hP.of_eq h hdom hbank hacc hframe hcount hpause hstalled

theorem Undisturbed.demand (d : Nat) (h : P s) : P (s.demand d) := by
  unfold State.demand
  refine st_ite h ?_
  split
  · exact hP.dom _ _ (fun _ => ⟨rfl, rfl, fun _ => rfl⟩) h
  · next hdip =>
    have hwakes := hP.dom d (fun x => { x with waking := true, down := none }) (fun _ => ⟨rfl, rfl, fun hd => absurd hd hdip⟩) h
    exact st_ite (hP.same hwakes) (hP.wake _ (hP.same hwakes))

theorem Undisturbed.pendEvent (n : Nat) (h : P s) : P (s.pendEvent n) := by
  unfold State.pendEvent
  exact st_ite h (st_ite (hP.same h) (hP.demand _ (hP.same h)))

/-! The safe image at each kind of output: it moves the output and demands its domain. -/

theorem Undisturbed.dgOn (o : Nat) (h : P s) : P (s.dgOn o) := st_foldl (fun _ _ k => hP.same k) h

theorem Undisturbed.safeCh (c : Nat) (h : P s) : P (s.safeCh c) := by
  unfold State.safeCh
  dsimp only
  refine st_ite h ?_
  split
  · exact st_ite (st_ite (st_ite (hP.dgOn _ (hP.same h)) h) (hP.demand _ h)) h
  · exact h
  · exact st_ite (hP.same h) h

theorem Undisturbed.safeHb (n : Nat) (h : P s) : P (s.safeHb n) := by
  have hnoted : P ((s.members (48 + n)).foldl (fun u k => u.hbNote (k - 48)) s) := st_foldl (fun _ _ k => hP.same k) h
  have htaken := hP.same (t := State.setOut _ (48 + n) (·.takeMode (s.effHb n))) hnoted
  have hmode : P (State.takeMode _ (48 + n) (s.effHb n)) := st_ite (hP.dgOn _ htaken) htaken
  exact st_ite h (st_ite h (st_ite (st_ite (hP.same hmode) hmode)
    (st_ite (st_ite (st_ite (hP.dgOn _ (hP.same hmode)) hmode) (hP.demand _ hmode)) hmode)))

theorem Undisturbed.safePl (c : Nat) (h : P s) : P (s.safePl c) := by
  unfold State.safePl
  dsimp only
  refine st_ite h ?_
  split
  · exact st_ite (hP.same h) h
  · exact h
  · exact st_ite (hP.same h) (hP.same h)

theorem Undisturbed.safeLed (n : Nat) (h : P s) : P (s.safeLed n) := by
  unfold State.safeLed
  dsimp only
  refine st_ite h ?_
  split
  · exact st_ite (st_foldl (fun _ _ k => st_ite (hP.same k) k) h) (hP.demand _ h)
  · exact h
  · exact st_foldl (fun _ _ k => st_ite (hP.same k) k) h

theorem Undisturbed.moveVs (v : Nat) (h : P s) : P (s.moveVs v) := by
  have hdemand : P (if s.effVs v then s.demand domInp else s) := st_ite (hP.demand _ h) h
  exact st_ite (st_ite (st_ite h (hP.same h)) (hP.same hdemand)) (hP.same h)

theorem Undisturbed.stopCores (h : P s) : P s.stopCores := hP.same h

theorem Undisturbed.lockUnderSafe (h : P s) : P s.lockUnderSafe := by
  have hset : P ((s.setBit F.pwrStatLockacc).putSticky 31 true) := hP.same h
  have hend : ∀ {u : State}, P u → ∀ q : Bool, P (if q then u.pendEvent 77 else u) := fun k _ => st_ite (hP.pendEvent _ k) k
  unfold State.lockUnderSafe
  dsimp only
  refine st_ite (hP.same h) (hend ?_ _)
  split
  · exact hP.same hset
  · exact hP.stopCores hset
  · exact hset

theorem Undisturbed.safeAcc (h : P s) : P s.safeAcc := by
  unfold State.safeAcc
  dsimp only
  split
  · exact h
  · next hrun =>
    have hended := hP.search (s.acc.srch.phase != 0) { (s.acc.srch.latest.getD {}) with res := 0 } hrun h
    exact st_ite (st_ite (hP.lockUnderSafe (hP.same hended)) (hP.pendEvent _ (hP.same hended))) hended

theorem Undisturbed.driveSafe (h : P s) : P s.driveSafe := by
  unfold State.driveSafe
  split
  · exact h
  · have hsw : P (State.safeSw { s with win := { s.win with safe := true, hold := s.frm.committed } }) :=
      st_forEach (fun _ n k => hP.safeHb n k) (st_forEach (fun _ c k => hP.safeCh c k) (hP.same h))
    have hprs : P (State.safePrs _) := st_forEach (fun _ _ k => hP.same k) (st_forEach (fun _ c k => hP.safePl c k) hsw)
    have hleds : P (State.safeLeds _) := st_forEach (fun _ n k => hP.safeLed n k) hprs
    exact hP.safeAcc (st_forEach (fun _ v k => hP.moveVs v k) hleds)

/-! Sources, events and demands. -/

theorem Undisturbed.classReact (c : Nat) (h : P s) : P (s.classReact c) := by
  unfold State.classReact
  split
  · exact h
  · exact hP.same h
  · exact hP.driveSafe h
  · exact hP.stopCores (hP.driveSafe h)

theorem Undisturbed.occur (n : Nat) (h : P s) : P (s.occur n) := by
  unfold State.occur
  exact st_ite h (hP.classReact _ (hP.same h))

theorem Undisturbed.classEvent (c : Nat) (h : P s) : P (s.classEvent c) := by
  unfold State.classEvent
  exact st_ite h (st_ite (hP.occur _ (hP.same h)) (hP.pendEvent _ h))

theorem Undisturbed.raiseSource (n : Nat) (h : P s) : P (s.raiseSource n) := by
  unfold State.raiseSource
  exact st_ite (hP.occur n h) (hP.classEvent _ (hP.occur n h))

theorem Undisturbed.lockAccess (h : P s) : P s.lockAccess := hP.raiseSource _ (hP.same h)

theorem Undisturbed.raiseEvent (n : Nat) (h : P s) : P (s.raiseEvent n) := st_ite (hP.lockAccess h) (hP.pendEvent n h)

theorem Undisturbed.demandOrLock (d : Nat) (h : P s) : P (s.demandOrLock d) := st_ite (hP.lockAccess h) (hP.demand d h)

end

/-- What a bank holds beside its wake and the power state it was asked for. -/
def State.bankRest (s : State) (b : Nat) : GBank := { s.gbank b with wakeAt := 0, down := none }

theorem bankRest_undisturbed (b : Nat) (x : GBank) : Undisturbed (fun s => s.bankRest b = x) where
  of_eq h _ hbank _ _ _ _ _ := by
    unfold State.bankRest State.gbank at h ⊢
    rw [hbank]
    exact h
  dom _ _ _ h := h
  wake c h := by
    refine Eq.trans ?_ h
    unfold State.bankRest State.gbank State.setWake
    dsimp only
    rw [nth_updN]
    split
    · rfl
    · rfl
  search _ _ _ h := h

/-- The state of a domain, and the one it held before a dip. -/
theorem domSt_undisturbed (d : Nat) (p q : DomSt) :
    Undisturbed (fun s => (nth s.pwr.dom d {}).st = p ∧ (nth s.pwr.dom d {}).before = q) where
  of_eq h hdom _ _ _ _ _ _ := by rw [hdom]; exact h
  dom e f hf h := by
    show (nth (updN _ e f) d {}).st = p ∧ (nth (updN _ e f) d {}).before = q
    rw [nth_updN]
    split
    · rw [(hf _).1, (hf _).2.1]
      exact h
    · exact h
  wake _ h := h
  search _ _ _ h := h

/-- The access block while no search runs and none is due. -/
theorem acc_undisturbed {a : AccBlk} (hphase : a.srch.phase = 0) (hretry : a.srch.retry = false) : Undisturbed (fun s => s.acc = a) where
  of_eq h _ _ hacc _ _ _ _ := hacc.trans h
  dom _ _ _ h := h
  wake _ h := h
  search _ _ hrun h := absurd ⟨h ▸ hphase, h ▸ hretry⟩ hrun

/-- The release of the door bridge, the frame and COUNT. -/
def State.releaseIs (r : Option (Nat × Nat × Nat)) (f : BitVec 48) (c : Nat) (s : State) : Prop := s.acc.rel = r ∧ s.frm.frame = f ∧ s.count = c

theorem releaseIs_undisturbed (r : Option (Nat × Nat × Nat)) (f : BitVec 48) (c : Nat) : Undisturbed (State.releaseIs r f c) where
  of_eq h _ _ hacc hframe hcount _ _ := ⟨(congrArg AccBlk.rel hacc).trans h.1, hframe.trans h.2.1, hcount.trans h.2.2⟩
  dom _ _ _ h := h
  wake _ h := h
  search _ _ _ h := h

/-! ### Fields whose place is known

The bounds of a field of the register table are closed numbers, also where its address depends on an index: `rfl` proves what is asked of
them. -/

/-- What a field reads after its own store. -/
theorem State.fld_put {s : State} (hs : s.canonical) (f : Fld) (v : Nat) (hf : Nat.ble (f.lo + f.width) 32 = true := by rfl) :
    (s.setFld f v).fld f = v % 2 ^ f.width := State.fld_setFld_same hs (Nat.le_of_ble_eq_true hf) v

/-- What a field reads after a store to another field of its register. -/
theorem State.fld_put_beside {s : State} (hs : s.canonical) (f g : Fld) (v : Nat) (ha : g.addr = f.addr := by rfl)
    (hf : Nat.ble (f.lo + f.width) 32 = true := by rfl)
    (hd : (Nat.ble (f.lo + f.width) g.lo || Nat.ble (g.lo + g.width) f.lo) = true := by rfl) : (s.setFld f v).fld g = s.fld g :=
  State.fld_setFld_beside hs ha (Nat.le_of_ble_eq_true hf)
    ((Bool.or_eq_true _ _ ▸ hd).imp Nat.le_of_ble_eq_true Nat.le_of_ble_eq_true) v

theorem State.canonical_setFld {s : State} (hs : s.canonical) (f : Fld) (v : Nat) : (s.setFld f v).canonical :=
  State.setFld_stable canonical_lasting.toStable f v hs

theorem getBits_div (w : Word) (lo k : Nat) : getBits w lo k = w.toNat / 2 ^ lo % 2 ^ k :=
  congrArg (· % 2 ^ k) (Nat.shiftRight_eq_div_pow _ _)

/-- No class reacts, as the class registers and the enables of event 77 tell it. -/
theorem State.quiet_of_reg {s t : State} (q : s.quiet) (h : ∀ a, a = 0x40050008 ∨ (0x40050060 ≤ a ∧ a < 0x40050090) → t.reg a = s.reg a) :
    t.quiet := by
  obtain ⟨hclass, heven⟩ := q
  refine ⟨fun n hn hfixed => Eq.trans ?_ (hclass n hn hfixed), ?_⟩
  · have hreg : t.reg (F.winClassCls (n / 16)).addr = s.reg (F.winClassCls (n / 16)).addr :=
      h _ (.inr (by simp only [F.winClassCls]; omega))
    unfold State.classOf State.fld
    rw [hreg]
  · have hreg : t.reg F.winCtlEven.addr = s.reg F.winCtlEven.addr := h _ (.inl rfl)
    unfold State.fld
    rw [hreg]
    exact heven

theorem State.quiet_setFld {s : State} (q : s.quiet) (f : Fld) (v : Nat) (hf : f.addr < 0x40050008 ∨ 0x40050090 ≤ f.addr) : (s.setFld f v).quiet :=
  State.quiet_of_reg q (fun a ha => State.reg_setReg_other _ _ _ _ (by omega))

theorem State.bit_iff_fld (s : State) {f : Fld} (hw : f.width = 1) : s.bit f = decide (s.fld f = 1) := by
  rw [s.fld_of_bit hw]
  cases s.bit f <;> rfl

end Sys2Proof.Machine
end

section
/-!
PROOFS. Forced wear and worn Granary lanes (O60).
-/

/- One proof at a time: the check of the whole text comes near its limit of memory. -/
set_option Elab.async false

namespace Sys2Proof.Machine

section
variable {s : State}

/-! ### Forced wear (R637) -/

theorem execFrc_of_on (h : s.storesOff = false) (w : Word) (job : Bool) : exec (.frc w job) s = .next (s.frcWrite w job) :=
  congrArg Host.Outcome.next (State.store_of_on h _ _)

theorem State.frcWrite_of_kind {w : Word} (h : w.toNat % 16 = 0 ∨ w.toNat % 16 = 1 ∨ w.toNat % 16 = 4) : s.frcWrite w false =
    s.setGln (fun g => { g with forced := g.forced ++ [(w.toNat % 16, w.toNat / 16 % 256, w.toNat / 4096 % 16)] }) := by
  have hkind : getBits w 0 4 = w.toNat % 16 := rfl
  unfold State.frcWrite
  dsimp only
  rw [if_neg Bool.false_ne_true, hkind, if_pos h, getBits_div, getBits_div]
  rfl

theorem State.frcWrite_of_other {w : Word} (h : ¬(w.toNat % 16 = 0 ∨ w.toNat % 16 = 1 ∨ w.toNat % 16 = 4)) : s.frcWrite w false = s := by
  have hkind : getBits w 0 4 = w.toNat % 16 := rfl
  unfold State.frcWrite
  dsimp only
  rw [if_neg Bool.false_ne_true, hkind, if_neg h]

/-! ### Lanes (R413, R415, R632) -/

theorem execLaneRetire_of_below {b : Fin 16} {l : Fin 9}
    (h : nth (s.gbank b).rate l 0 < s.fld F.glnLanecfgLth ∨ (s.fld F.glnCtlEn).testBit 1 = false) : exec (.laneRetire b l) s = .next s := by
  refine congrArg Host.Outcome.next (if_neg fun hc => ?_)
  obtain ⟨hen, hle⟩ := hc
  rcases h with hlt | hoff
  · omega
  · exact absurd hen (by simp [State.glnEn, hoff])

theorem execLaneRetire_of_worn {b : Fin 16} {l : Fin 9} (hle : s.fld F.glnLanecfgLth ≤ nth (s.gbank b).rate l 0)
    (hen : (s.fld F.glnCtlEn).testBit 1 = true) : exec (.laneRetire b l) s = .next (s.retireLane b l) :=
  congrArg Host.Outcome.next (if_pos ⟨hen, hle⟩)

/-- The count of a lane begins again. -/
def State.laneCounted (s : State) (b l : Nat) : State := s.setGbank b (fun x => { x with rate := updN x.rate l (fun _ => 0) })

theorem State.laneSpare_iff (s : State) (b : Nat) :
    s.laneSpare b = true ↔ s.fld (F.grnLaneSpfor b) = 15 ∧ s.bit (F.grnLaneSpfail b) = false := by
  simp [State.laneSpare]

/-- The lane's copy into the sound, unused spare starts (R413). -/
theorem State.retireLane_of_spare {b l : Nat} (hspare : s.laneSpare b = true) (hcopy : (s.gbank b).copy = none) (hl : l < 8) :
    s.retireLane b l = ((s.laneCounted b l).setGbank b (fun x => { x with copy := some (l, false) })).setFld (F.grnLaneCopy b) 1 :=
  if_pos ⟨hspare, by rw [hcopy]; rfl, hl⟩

/-- The lane is being copied already. -/
theorem State.retireLane_of_copying {b l : Nat} {q : Bool} (hcopy : (s.gbank b).copy = some (l, q)) : s.retireLane b l = s.laneCounted b l := by
  unfold State.retireLane
  rw [if_neg (by rw [hcopy]; simp), if_pos (by rw [hcopy]; cases q <;> simp)]
  rfl

/-- A lane that stays in service without a spare: WLANE names the lane served, SPFAIL a spare that has failed. -/
def State.laneMarked (s : State) (b l : Nat) : State :=
  let s1 := if l = 8 then (s.laneCounted b l).setFld (F.grnLaneSpfail b) 1 else s.laneCounted b l
  (s1.setFld (F.grnLaneWorn b) 1).setFld (F.grnLaneWlane b) (if l = 8 then s.fld (F.grnLaneSpfor b) else l)

theorem State.retireLane_of_worn {b l : Nat} (hno : ¬(s.laneSpare b = true ∧ (s.gbank b).copy.isNone = true ∧ l < 8))
    (hcopy : ∀ q, (s.gbank b).copy ≠ some (l, q)) : s.retireLane b l = ((s.laneMarked b l).raiseSource 20).needsSpare 1 := by
  unfold State.retireLane
  rw [if_neg hno, if_neg (by simp [hcopy])]
  rfl

/-- The two fields that name a worn lane, and the one beside them. -/
theorem State.fld_wornLane (hs : s.canonical) (b v : Nat) : let t := (s.setFld (F.grnLaneWorn b) 1).setFld (F.grnLaneWlane b) v
    t.canonical ∧ t.fld (F.grnLaneWorn b) = 1 ∧ t.fld (F.grnLaneWlane b) = v % 2 ^ 4 ∧
      t.fld (F.grnLaneSpfail b) = s.fld (F.grnLaneSpfail b) := by
  have h1 := State.canonical_setFld hs (F.grnLaneWorn b) 1
  refine ⟨State.canonical_setFld h1 _ _, ?_, State.fld_put h1 (F.grnLaneWlane b) v, ?_⟩
  · exact (State.fld_put_beside h1 (F.grnLaneWlane b) (F.grnLaneWorn b) v).trans (State.fld_put hs (F.grnLaneWorn b) 1)
  · exact (State.fld_put_beside h1 (F.grnLaneWlane b) (F.grnLaneSpfail b) v).trans
      (State.fld_put_beside hs (F.grnLaneWorn b) (F.grnLaneSpfail b) 1)

theorem State.laneMarked_fields (hs : s.canonical) {b l : Nat} (hl : l < 9) :
    (s.laneMarked b l).canonical ∧ (s.laneMarked b l).fld (F.grnLaneWorn b) = 1 ∧
      (s.laneMarked b l).fld (F.grnLaneWlane b) = (if l = 8 then s.fld (F.grnLaneSpfor b) else l) ∧
      (s.laneMarked b l).fld (F.grnLaneSpfail b) = if l = 8 then 1 else s.fld (F.grnLaneSpfail b) := by
  have hcounted : (s.laneCounted b l).canonical := hs
  have hspfor : s.fld (F.grnLaneSpfor b) < 2 ^ 4 := getBits_lt _ _ _
  unfold State.laneMarked
  by_cases h8 : l = 8
  · simp only [if_pos h8]
    obtain ⟨hc, hworn, hwlane, hfail⟩ := State.fld_wornLane (State.canonical_setFld hcounted (F.grnLaneSpfail b) 1) b (s.fld (F.grnLaneSpfor b))
    exact ⟨hc, hworn, hwlane.trans (Nat.mod_eq_of_lt hspfor), hfail.trans (State.fld_put hcounted (F.grnLaneSpfail b) 1)⟩
  · simp only [if_neg h8]
    obtain ⟨hc, hworn, hwlane, hfail⟩ := State.fld_wornLane hcounted b l
    exact ⟨hc, hworn, hwlane.trans (Nat.mod_eq_of_lt (by omega)), hfail⟩

/-- A lane's registers are none that a reaction writes. -/
theorem Reacted.fld_lane {t : State} (h : Reacted s t) {b : Nat} (hb : b < 16) {f : Fld} (hf : f.addr = 0x40070180 + 4 * b) : t.fld f = s.fld f := by
  unfold State.fld
  rw [h.onlyRegs]
  all_goals intros; simp only [F.winStickyStk, F.frmEvmrgMerged, F.pwrDctlReq, F.grnBpwrState, F.pwrStatLockacc, F.accEvcCause]; omega

/-- A worn element reported (R630). -/
theorem State.needsSpare_spec {t : State} (ht : t.canonical) (kind : Nat) :
    (t.needsSpare kind).bit F.glnStatWorn = true ∧ Reacted (t.setBit F.glnStatWorn) (t.needsSpare kind) ∧
      (∀ b, (t.needsSpare kind).bankRest b = t.bankRest b) ∧ (t.quiet → (t.needsSpare kind).sticky 20 = t.sticky 20) := by
  have hset := State.canonical_setFld ht F.glnStatWorn 1
  have hworn : (t.setBit F.glnStatWorn).bit F.glnStatWorn = true := State.bit_setBit_same ht rfl (by decide)
  have hsticky : (t.setBit F.glnStatWorn).sticky 20 = t.sticky 20 := State.sticky_of_reg (State.reg_setReg_other _ _ _ _ (by decide))
  unfold State.needsSpare
  dsimp only
  split
  · have hr := (Reacted.refl (t.setBit F.glnStatWorn)).raiseSource 179 (by decide)
    refine ⟨?_, hr, fun b => (bankRest_undisturbed b (t.bankRest b)).raiseSource 179 rfl, fun q => ?_⟩
    · refine Eq.trans ?_ hworn
      unfold State.bit State.fld
      rw [hr.onlyRegs]
      all_goals intros; simp only [F.glnStatWorn, F.winStickyStk, F.frmEvmrgMerged, F.pwrDctlReq, F.grnBpwrState, F.pwrStatLockacc, F.accEvcCause]; omega
    · exact (State.sticky_raiseSource_other hset (State.quiet_setFld q _ _ (.inr (by decide))) (by decide) (by decide) (by decide)).trans hsticky
  · exact ⟨hworn, Reacted.refl _, fun _ => rfl, fun _ => hsticky⟩

/-- A lane that stays in service: WORN with its lane, and source 20 (R415, R630). -/
theorem execLaneRetire_worn (hs : s.canonical) {b : Fin 16} {l : Fin 9} (hle : s.fld F.glnLanecfgLth ≤ nth (s.gbank b).rate l 0)
    (hen : (s.fld F.glnCtlEn).testBit 1 = true)
    (hno : l.val = 8 ∨ s.fld (F.grnLaneSpfor b) ≠ 15 ∨ s.bit (F.grnLaneSpfail b) = true ∨ (s.gbank b).copy ≠ none)
    (hcopy : ∀ q, (s.gbank b).copy ≠ some (l.val, q)) :
    ∃ t, exec (.laneRetire b l) s = .next t ∧ t.bit (F.grnLaneWorn b) = true ∧
      t.fld (F.grnLaneWlane b) = (if l.val = 8 then s.fld (F.grnLaneSpfor b) else l.val) ∧
      t.bit (F.grnLaneSpfail b) = (s.bit (F.grnLaneSpfail b) || decide (l.val = 8)) ∧
      t.bit F.glnStatWorn = true ∧ (t.gbank b).copy = (s.gbank b).copy ∧ (s.quiet → s.feat (sourceFeat 20) = true → t.sticky 20 = true) := by
  have hspare : ¬(s.laneSpare b = true ∧ (s.gbank b).copy.isNone = true ∧ l.val < 8) := by
    rintro ⟨h1, h2, h3⟩
    obtain ⟨hfor, hfail⟩ := (s.laneSpare_iff b).mp h1
    rcases hno with h | h | h | h
    · omega
    · exact h hfor
    · rw [hfail] at h
      exact Bool.false_ne_true h
    · exact h (Option.isNone_iff_eq_none.mp h2)
  obtain ⟨hc, hworn, hwlane, hfail⟩ := State.laneMarked_fields hs (b := b) l.isLt
  have hraised := (Reacted.refl (s.laneMarked b l)).raiseSource 20 (by decide)
  have hcr : ((s.laneMarked b l).raiseSource 20).canonical := State.raiseSource_stable canonical_lasting.toStable _ hc
  obtain ⟨hstat, hneed, hbank, hsticky⟩ := State.needsSpare_spec hcr 1
  have hlane {f : Fld} (hf : f.addr = 0x40070180 + 4 * b.val) :
      (((s.laneMarked b l).raiseSource 20).needsSpare 1).fld f = (s.laneMarked b l).fld f :=
    (hneed.fld_lane b.isLt hf).trans ((State.fld_setFld_other _ _ _ _ (by rw [hf]; simp only [F.glnStatWorn]; omega)).trans
      (hraised.fld_lane b.isLt hf))
  have hmarked : (s.laneMarked b l).bankRest b = { s.bankRest b with rate := updN (s.gbank b).rate l (fun _ => 0) } := by
    have hsame : (s.laneMarked b l).gbank b = (s.laneCounted b l).gbank b := by
      unfold State.laneMarked
      dsimp only
      split <;> rfl
    have hcounted : (s.laneCounted b l).gbank b = _ := State.gbank_setGbank_same s b _ b.isLt
    unfold State.bankRest
    rw [hsame, hcounted]
  refine ⟨_, (execLaneRetire_of_worn hle hen).trans (congrArg Host.Outcome.next (State.retireLane_of_worn hspare hcopy)), ?_, ?_, ?_, hstat, ?_, ?_⟩
  · rw [State.bit_iff_fld _ rfl, hlane rfl, hworn]
    rfl
  · rw [hlane rfl, hwlane]
  · rw [State.bit_iff_fld _ rfl, hlane rfl, hfail, State.bit_iff_fld _ rfl]
    by_cases h8 : l.val = 8 <;> simp [h8]
  · have hrest : (((s.laneMarked b l).raiseSource 20).needsSpare 1).bankRest b = (s.laneMarked b l).bankRest b :=
      (hbank b).trans ((bankRest_undisturbed b _).raiseSource 20 rfl)
    exact (congrArg GBank.copy (hrest.trans hmarked) :)
  · intro q hfeat
    have hq : (s.laneMarked b l).quiet := by
      refine State.quiet_of_reg q (fun a ha => ?_)
      unfold State.laneMarked
      dsimp only
      have h1 := fun (t : State) (f : Fld) (v : Nat) (hf : f.addr = 0x40070180 + 4 * b.val) =>
        State.reg_setReg_other t f.addr a (setBits (t.reg f.addr) f.lo f.width v) (by omega)
      refine (h1 _ (F.grnLaneWlane b) _ rfl).trans ((h1 _ (F.grnLaneWorn b) _ rfl).trans ?_)
      split
      · exact h1 _ (F.grnLaneSpfail b) _ rfl
      · rfl
    have hf : (s.laneMarked b l).feat (sourceFeat 20) = true := by
      refine Eq.trans ?_ hfeat
      unfold State.laneMarked
      dsimp only
      split <;> rfl
    rw [hsticky (hraised.quiet hq), State.sticky_raiseSource_same hc hq (by decide) (by decide), hf, Bool.or_true]

end

/-- Settles O60: FRC by its kinds, a worn lane by what `State.retireLane` finds of the spare. -/
theorem gleanerCommands : Obligations.GleanerCommands := by
  intro s hs
  refine ⟨fun w hon => ⟨?_, fun hk => ?_, fun h0 h1 h4 => ?_⟩, fun w j => ⟨fun hd => ?_, fun hd hoff => ?_⟩, fun b l => ⟨execLaneRetire_of_below,
    fun hle hen => ⟨fun hl hfor hfail hcopy => ?_, fun ⟨q, hcopy⟩ => ?_, execLaneRetire_worn hs hle hen⟩⟩⟩
  · exact ⟨_, execFrc_of_on hon w true, State.bit_setBit_same hs rfl (by decide), s.setFld_keeps F.glnStatPrivrej 1⟩
  · exact ⟨_, (execFrc_of_on hon w false).trans (congrArg _ (State.frcWrite_of_kind hk)), s.setGln_keeps _, rfl⟩
  · exact (execFrc_of_on hon w false).trans (congrArg _ (State.frcWrite_of_other (by omega)))
  · exact congrArg _ (State.store_of_dip hd _ _)
  · exact congrArg _ (State.store_of_off hd hoff _ _)
  · have hspare := (s.laneSpare_iff b).mpr ⟨hfor, hfail⟩
    have hcounted : ((s.laneCounted b l).setGbank b (fun x => { x with copy := some (l.val, false) })).canonical := hs
    refine ⟨_, (execLaneRetire_of_worn hle hen).trans (congrArg _ (State.retireLane_of_spare hspare hcopy hl)), ?_,
      State.fld_put hcounted (F.grnLaneCopy b) 1, ?_⟩
    · exact congrArg GBank.copy (State.gbank_setGbank_same (s.laneCounted b l) b (fun x => { x with copy := some (l.val, false) }) b.isLt)
    · have h1 := State.keeps_trans (n := [.gbank b.val]) (s.setGbank_keeps b _) ((s.laneCounted b l).setGbank_keeps b
        (fun x => { x with copy := some (l.val, false) }))
      exact State.keeps_trans h1 (State.setFld_keeps _ (F.grnLaneCopy b) 1)
  · exact ⟨_, (execLaneRetire_of_worn hle hen).trans (congrArg _ (State.retireLane_of_copying hcopy)),
      State.gbank_setGbank_same s b _ b.isLt, s.setGbank_keeps b _⟩

end Sys2Proof.Machine
end

section
/-!
PROOFS. The CAN controllers: their counters, their runs, their objects and the locks on them.
-/

/- One proof at a time: the check of the whole text comes near its limit of memory. -/
set_option Elab.async false

namespace Sys2Proof.Machine

/-- Field after field, only the named parts change. -/
theorem State.keeps_setFld {s t : State} {l : List Part} (h : s.keeps t l) (f : Fld) (v : Nat) (hf : Part.reg f.addr ∈ l) :
    s.keeps (t.setFld f v) l := State.keeps_trans h (t.setFld_keeps f v) (List.Subset.refl l) (by simpa using hf)

theorem State.keeps_setCan {s t : State} {l : List Part} (h : s.keeps t l) (n : Nat) (f : Can → Can) (hn : Part.can n ∈ l) :
    s.keeps (t.setCan n f) l := State.keeps_trans h (t.setCan_keeps n f) (List.Subset.refl l) (by simpa using hn)

/-- What a command keeps it keeps of a register. -/
theorem State.fld_of_keeps {s t : State} {l : List Part} (h : s.keeps t l) (f : Fld) (hf : Part.reg f.addr ∉ l) : t.fld f = s.fld f :=
  congrArg (getBits · f.lo f.width) (h.2 _ hf)

theorem State.bit_of_keeps {s t : State} {l : List Part} (h : s.keeps t l) (f : Fld) (hf : Part.reg f.addr ∉ l) : t.bit f = s.bit f := by
  unfold State.bit
  rw [State.fld_of_keeps h f hf]

section
variable {s : State} {n : Fin 6}

theorem State.cn_setCan (s : State) (n : Fin 6) (f : Can → Can) : (s.setCan n f).cn n = f (s.cn n) := State.cn_setCan_same s n f n.isLt

/-! ### Counters (R465 to R467) -/

/-- Counters that stay below 128 leave the controller error-active, and nothing is reported. -/
theorem State.canCount_active {tec rec : Nat} (he : (s.cn n).estate = 0) (ht : tec < 128) (hr : rec < 128) :
    s.canCount n tec rec = s.setCan n (fun d => { d with tec := tec, recv := rec, estate := 0 }) := by
  have h0 : (if 255 < tec then 2 else if 128 ≤ tec ∨ 128 ≤ rec then 1 else 0) = 0 := by
    rw [if_neg (by omega), if_neg (by omega)]
  unfold State.canCount
  dsimp only
  rw [h0, he, if_pos rfl, if_neg (by decide), if_neg (by decide)]

/-- An ACKERR below 64 that does not rise to it raises nothing. -/
theorem State.setAckerr_low {v : Nat} (hv : v < 64) :
    s.setAckerr n v = s.setCan n (fun d => { d with ackerr := v, lone := (s.cn n).lone && v != 0 }) := by
  have hlow : decide (64 ≤ v) = false := decide_eq_false (by omega)
  unfold State.setAckerr
  dsimp only
  rw [hlow, Bool.false_or, if_neg (by cases (s.cn n).lone <;> simp)]

/-! ### The end of a frame (R451) -/

/-- A controller that is not about to stop goes on when the frame on the bus is complete. -/
theorem State.canFrameEnd_on (h : (s.cn n).run = .on) :
    (s.canFrameEnd n).cn n = s.cn n ∧ s.keeps (s.canFrameEnd n) [.pin (.canBusy n)] := by
  have hpin : s.keeps (if s.pin (.canBusy n) = 0 then s else s.setPin (.canBusy n) 0) [.pin (.canBusy n)] := by
    split
    · exact s.keeps_refl _
    · exact s.setPin_keeps _ _
  have hcn : (if s.pin (.canBusy n) = 0 then s else s.setPin (.canBusy n) 0).cn n = s.cn n := hpin.2 (.can n) (by simp)
  unfold State.canFrameEnd
  dsimp only
  rw [if_neg (by rw [hcn, h]; simp)]
  exact ⟨hcn, hpin⟩

/-! ### Objects and locks (R453, R456, R459) -/

theorem Can.obj_put {c : Can} (h : AMap.wf (fun _ => ({} : CanObj)) c.objs = true) (o : Nat) (x : CanObj) :
    AMap.get (fun _ => {}) (AMap.put (fun _ => {}) c.objs o x) o = x := AMap.get_put_same _ _ _ h

theorem Can.obj_of_objs {c d : Can} (h : c.objs = d.objs) (o : Nat) : c.obj o = d.obj o := by
  unfold Can.obj
  rw [h]

theorem State.leaveOther_of_same {o who : Nat} (h : ∀ l, nth (s.cn n).locks who none = some l → l.obj = o) : s.leaveOther n o who = s := by
  unfold State.leaveOther
  split
  · next l hl => exact if_pos (h l hl)
  · rfl

theorem Can.lockOn_of_none {c : Can} {who : Nat} (h : nth c.locks who none = none) (o : Nat) : c.lockOn o who = none := by
  unfold Can.lockOn
  rw [h]

theorem Can.lockOn_of_some {c : Can} {who : Nat} {l : CanLock} (h : nth c.locks who none = some l) : c.lockOn l.obj who = some l := by
  unfold Can.lockOn
  rw [h]
  exact if_pos rfl

/-- A master whose core has no buffered store waits for none. -/
theorem State.drained_of_noStores {m : Master} (h : ∀ c, m = .core c → (s.cr c).buf = []) : s.drained m = (true, s) := by
  cases m with
  | core c => exact State.drained_of_empty (h c rfl)
  | host => rfl
  | link => rfl

theorem State.got_deliver (s : State) (m : Master) (v : TWord) : nth (s.deliver m v).got (masterNum m) TWord.nil0 = v :=
  nth_updN_same _ _ _ _ (masterNum_lt m)

/-- A master that is given what it had. -/
theorem State.deliver_self (s : State) (m : Master) : s.deliver m ((s.got)[masterNum m]?.getD TWord.nil0) = s := by
  have hm := masterNum_lt m
  have hgot : updN s.got (masterNum m) (fun _ => (s.got)[masterNum m]?.getD TWord.nil0) = s.got := by
    unfold updN
    rw [dif_pos hm]
    ext i hi
    by_cases e : masterNum m = i
    · subst e
      simp [hm]
    · simp [e]
  unfold State.deliver
  rw [hgot]

end

end Sys2Proof.Machine
end

section
/-!
PROOFS. CAN controllers start, stop and integrate; their objects, ports and locks; the queue (O47).
-/

/- One proof at a time: the check of the whole text comes near its limit of memory. -/
set_option Elab.async false

namespace Sys2Proof.Machine

section
variable {s : State} {n : Fin 6}

/-! ### Running (R451, R475) -/

theorem execCanRunStart_of_on (h : s.storesOff = false) (n : Fin 6) : exec (.canRunStart n) s = .next (s.canRun n true) :=
  congrArg Host.Outcome.next (State.store_of_on h _ _)

theorem execCanRunStop_of_on (h : s.storesOff = false) (n : Fin 6) (busy : Bool) :
    exec (.canRunStop n busy) s = .next ((s.setPin (.canBusy n) (b2n busy)).canRun n false) :=
  congrArg Host.Outcome.next (State.store_of_on h _ _)

/-- The registers of the fields that a start clamps. -/
def clampedRegs (n : Nat) : List Part :=
  [.reg (F.canNbtTseg2 n).addr, .reg (F.canDbtTseg2 n).addr, .reg (F.canTdcTdco n).addr, .reg (F.canSwkWdlc n).addr]

theorem State.canClamp_keeps (s : State) (n : Nat) : s.keeps (s.canClamp n) (clampedRegs n) := by
  have nbt {t : State} (h : s.keeps t (clampedRegs n)) (f : Fld) (v : Nat) (hf : f.addr = (F.canNbtTseg2 n).addr) :
      s.keeps (t.setFld f v) (clampedRegs n) := State.keeps_setFld h f v (by rw [hf]; simp [clampedRegs])
  have dbt {t : State} (h : s.keeps t (clampedRegs n)) (f : Fld) (v : Nat) (hf : f.addr = (F.canDbtTseg2 n).addr) :
      s.keeps (t.setFld f v) (clampedRegs n) := State.keeps_setFld h f v (by rw [hf]; simp [clampedRegs])
  have swk (t : State) (v : Nat) : t.keeps (if n < 2 then t.setFld (F.canSwkWdlc n) v else t) (clampedRegs n) := by
    split
    · exact State.keeps_setFld (t.keeps_refl _) (F.canSwkWdlc n) v (by simp [clampedRegs])
    · exact t.keeps_refl _
  have tdc {t : State} (h : s.keeps t (clampedRegs n)) (v : Nat) : s.keeps (t.setFld (F.canTdcTdco n) v) (clampedRegs n) :=
    State.keeps_setFld h _ v (by simp [clampedRegs])
  exact State.keeps_trans (tdc (dbt (dbt (dbt (dbt (nbt (nbt (nbt (nbt (s.keeps_refl _) (F.canNbtTseg2 n) _ rfl) (F.canNbtTseg1 n) _ rfl)
    (F.canNbtBrp n) _ rfl) (F.canNbtSjw n) _ rfl) (F.canDbtTseg2 n) _ rfl) (F.canDbtTseg1 n) _ rfl) (F.canDbtBrp n) _ rfl) (F.canDbtSjw n) _ rfl) _)
    (swk _ _) (List.Subset.refl _) (List.Subset.refl _)

/-- A start from rest: RUN stands, the fields are clamped, the wake receiver takes its fields, and the controller integrates. -/
theorem State.canRun_stopped (hs : s.canonical) (hrun : (s.cn n).run = .stopped) (he : (s.cn n).estate = 0) :
    ((s.canRun n true).cn n).run = .integrating ∧ ((s.canRun n true).cn n).tec = 0 ∧ ((s.canRun n true).cn n).recv = 0 ∧
      (s.canRun n true).bit (F.canCtlRun n) = true ∧ s.keeps (s.canRun n true) (.can n :: .reg (F.canCtlRun n).addr :: clampedRegs n) := by
  have hput : s.keeps (s.putBit (F.canCtlRun n) true) [.reg (F.canCtlRun n).addr] := s.setFld_keeps _ _
  have hclamp := State.canClamp_keeps (s.putBit (F.canCtlRun n) true) n
  have hcn : ((s.putBit (F.canCtlRun n) true).canClamp n).cn n = s.cn n := hclamp.2 (.can n) (by simp [clampedRegs])
  have hbit : ((s.putBit (F.canCtlRun n) true).canClamp n).bit (F.canCtlRun n) = true := by
    rw [State.bit_of_keeps hclamp _ (by
      simp [clampedRegs, F.canCtlRun, F.canNbtTseg2, F.canDbtTseg2, F.canTdcTdco, F.canSwkWdlc])]
    exact State.bit_putBit_same hs rfl (Nat.zero_lt_succ _) true
  have hstart (t : State) (ht : t.cn n = s.cn n) : (((t.canTakeWake n).setCan n (fun d => { d with run := .integrating })).cn n).estate = 0 := by
    unfold State.canTakeWake
    dsimp only
    rw [State.cn_setCan, State.cn_setCan, ht]
    exact he
  have heq : s.canRun n true = ((((s.putBit (F.canCtlRun n) true).canClamp n).canTakeWake n).setCan n
      (fun d => { d with run := .integrating })).setCan n (fun d => { d with tec := 0, recv := 0, estate := 0 }) := by
    unfold State.canRun
    dsimp only
    rw [if_pos rfl, if_pos hrun, if_pos ⟨.inl hrun, by omega⟩]
    exact State.canCount_active (hstart _ hcn) (by decide) (by decide)
  rw [heq]
  refine ⟨?_, ?_, ?_, hbit, ?_⟩
  · rw [State.cn_setCan, State.cn_setCan]
  · rw [State.cn_setCan]
  · rw [State.cn_setCan]
  · have hclamped : s.keeps ((s.putBit (F.canCtlRun n) true).canClamp n) (.can n :: .reg (F.canCtlRun n).addr :: clampedRegs n) :=
      State.keeps_trans hput hclamp
    exact State.keeps_setCan (State.keeps_setCan (State.keeps_setCan hclamped n _ (by simp)) n _ (by simp)) n _ (by simp)

/-- A start while the controller completes its frame: counters 0. -/
theorem State.canRun_stopping (hrun : (s.cn n).run = .stopping) (he : (s.cn n).estate = 0) :
    s.canRun n true = (s.putBit (F.canCtlRun n) true).setCan n (fun d => { d with tec := 0, recv := 0, estate := 0 }) := by
  have hstopped : ¬(s.cn n).run = .stopped := by rw [hrun]; simp
  unfold State.canRun
  dsimp only
  rw [if_pos rfl, if_neg hstopped, if_pos ⟨.inr hrun, by omega⟩]
  exact State.canCount_active he (by decide) (by decide)

/-- A start of a controller that runs, or that is bus-off as it stops. -/
theorem State.canRun_running (h : (s.cn n).run = .integrating ∨ (s.cn n).run = .on ∨ ((s.cn n).run = .stopping ∧ (s.cn n).estate = 2)) :
    s.canRun n true = s.putBit (F.canCtlRun n) true := by
  have hstopped : (s.cn n).run ≠ .stopped := by
    rcases h with h | h | ⟨h, -⟩ <;> rw [h] <;> simp
  have hcount : ¬(((s.cn n).run = .stopped ∨ (s.cn n).run = .stopping) ∧ (s.cn n).estate ≠ 2) := by
    rcases h with h | h | ⟨h, h2⟩
    · rw [h]; simp
    · rw [h]; simp
    · omega
  unfold State.canRun
  dsimp only
  rw [if_pos rfl, if_neg hstopped, if_neg hcount]

/-- RUN 0: the controller stops, at the end of the frame on the bus where it takes part in one. -/
theorem State.canRun_stop (hs : s.canonical) (busy : Bool) {t : State} (ht : t = (s.setPin (.canBusy n) (b2n busy)).canRun n false) :
    t.bit (F.canCtlRun n) = false ∧
    t.cn n = { s.cn n with run := if (s.cn n).run = .stopped then .stopped
      else if ((s.cn n).tx.isSome || busy) && s.canRunning n then .stopping else .stopped } ∧
    s.keeps t [.can n, .pin (.canBusy n), .reg (F.canCtlRun n).addr] := by
  subst ht
  have hbusy : (((s.setPin (.canBusy n) (b2n busy)).pin (.canBusy n)) != 0) = busy := by
    rw [State.pin_setPin_same]
    cases busy <;> rfl
  have hput : s.keeps ((s.setPin (.canBusy n) (b2n busy)).putBit (F.canCtlRun n) false) [.pin (.canBusy n), .reg (F.canCtlRun n).addr] :=
    State.keeps_trans (s.setPin_keeps _ _) (State.setFld_keeps _ _ _)
  have hbit : ((s.setPin (.canBusy n) (b2n busy)).putBit (F.canCtlRun n) false).bit (F.canCtlRun n) = false :=
    State.bit_putBit_same (s := s.setPin (.canBusy n) (b2n busy)) hs rfl (Nat.zero_lt_succ _) false
  unfold State.canRun
  dsimp only
  rw [if_neg Bool.false_ne_true, hbusy]
  split
  · next h =>
    have hrun : (s.cn n).run = .stopped := h
    refine ⟨hbit, ?_, State.keeps_mono hput (by simp)⟩
    rw [if_pos hrun]
    show s.cn n = { s.cn n with run := .stopped }
    rw [← hrun]
  · next h =>
    have hrun : ¬(s.cn n).run = .stopped := h
    refine ⟨hbit, ?_, State.keeps_setCan (State.keeps_mono hput (by simp)) n _ (by simp)⟩
    rw [State.cn_setCan, if_neg hrun]
    rfl

/-! ### Objects (R453) -/

theorem execObjcfgWrite_of_on (h : s.storesOff = false) (n : Fin 6) (o : Fin 256) (w : Word) :
    exec (.objcfgWrite n o w) s = .next (s.objCfg n o w) := congrArg Host.Outcome.next (State.store_of_on h _ _)

/-- No lock on an object is left where every one on it has been dropped. -/
theorem Can.locked_dropped (c : Can) (o : Nat) : Can.locked { c with locks := c.locks.map (fun l => match l with
    | some x => if x.obj = o then none else some x
    | none => none) } o = false := by
  have hdrop (k : Nat) (hk : k < 4) : ∀ x, nth (c.locks.map (fun l => match l with
      | some x => if x.obj = o then none else some x
      | none => none)) k none = some x → x.obj ≠ o := by
    intro x hx he
    unfold nth at hx
    rw [dif_pos hk, Vector.getElem_map] at hx
    split at hx
    · split at hx
      · exact absurd hx (by simp)
      · next hne => exact hne (Option.some.inj hx ▸ he)
    · exact absurd hx (by simp)
  unfold Can.locked Can.lockedBy
  rw [List.any_eq_false]
  intro k hk
  have hk4 := (mem_upto 4 k).mp hk
  dsimp only
  split
  · next l hl => simp [hdrop k hk4 l hl]
  · simp

theorem State.objCfg_spec (hs : s.canonical) (hobjs : AMap.wf (fun _ => ({} : CanObj)) (s.cn n).objs = true) (o : Fin 256) (w : Word) :
    (s.objCfg n o w).reg (F.canObjcfgEn n o).addr = w ∧ ((s.objCfg n o w).cn n).obj o = {} ∧
      (∀ k, ((s.objCfg n o w).cn n).locked o = false ∧ (k ≠ o.val → ((s.objCfg n o w).cn n).obj k = (s.cn n).obj k)) ∧
      s.keeps (s.objCfg n o w) [.can n, .reg (F.canObjcfgEn n o).addr] := by
  have hcn : (s.objCfg n o w).cn n = _ := State.cn_setCan _ n _
  refine ⟨State.reg_setReg_same _ _ _ hs, ?_, fun k => ⟨?_, fun hk => ?_⟩, ?_⟩
  · rw [hcn]
    exact Can.obj_put hobjs o {}
  · rw [hcn]
    exact Can.locked_dropped _ _
  · rw [hcn]
    exact AMap.get_put_other _ _ _ _ hk
  · exact State.keeps_setCan (State.keeps_mono (s.setReg_keeps _ w) (by simp)) n _ (by simp)

/-! ### Ports (R456 to R461) -/

theorem execCanIntegrated_of_not (h : (s.cn n).run ≠ .integrating ∨ s.domOn 9 = false) : exec (.canIntegrated n) s = .next s := by
  refine congrArg Host.Outcome.next (if_neg fun hc => ?_)
  obtain ⟨hrun, hon⟩ := hc
  rcases h with h | h
  · exact h hrun
  · exact Bool.false_ne_true (h.symm.trans hon)

theorem execCanIntegrated_of_integrating (h : (s.cn n).run = .integrating) (hon : s.domOn 9 = true) :
    exec (.canIntegrated n) s = .next (s.setCan n (fun c => { c with run := .on })) := congrArg Host.Outcome.next (if_pos ⟨h, hon⟩)

section
variable {m : Master} (o : Fin 256)

/-- A port is read by a master that has no store of its own to wait for. -/
theorem execObjectPortRead_eq (hd : s.inDip = false) (he : ∀ c, m = .core c → (s.cr c).buf = []) :
    exec (.objectPortRead m n o) s = .next (State.answer m (s.atDomain domCan (·.portRead (masterNum m) n o))) := by
  refine congrArg Host.Outcome.next ((State.load_of_no_dip hd).trans ?_)
  rw [State.drained_of_noStores he]
  rfl

theorem execObjectPortWrite_eq (hoff : s.storesOff = false) (he : ∀ c, m = .core c → (s.cr c).buf = []) (w : Word) :
    exec (.objectPortWrite m n o w) s = .next (State.answer m (s.atDomain domCan (fun t =>
      ((t.got)[masterNum m]?.getD TWord.nil0, t.portWrite (masterNum m) n o w)))) := by
  refine congrArg Host.Outcome.next ((State.store_of_on hoff _ _).trans ?_)
  rw [State.drained_of_noStores he]
  rfl

theorem State.answer_asleep (hl : s.domLocked 9 = false) (ho : s.domOn 9 = false) (f : State → TWord × State) :
    State.answer m (s.atDomain domCan f) = s.demand 9 := by
  unfold State.atDomain
  rw [if_neg (by rw [show domCan = 9 from rfl, hl]; decide), if_neg (by rw [show domCan = 9 from rfl, ho]; decide)]
  rfl

theorem State.answer_locked (hl : s.domLocked 9 = true) (f : State → TWord × State) :
    State.answer m (s.atDomain domCan f) = s.lockAccess.deliver m TWord.nil0 := by
  unfold State.atDomain
  rw [if_pos (show s.domLocked domCan = true from hl)]
  rfl

theorem State.answer_on (hl : s.domLocked 9 = false) (ho : s.domOn 9 = true) (f : State → TWord × State) :
    State.answer m (s.atDomain domCan f) = (f s).2.deliver m (f s).1 := by
  unfold State.atDomain
  rw [if_neg (by rw [show domCan = 9 from rfl, hl]; decide), if_pos (show s.domOn domCan = true from ho)]
  rfl

/-- The word read is delivered to its master. -/
theorem State.deliver_spec {u : State} {l : List Part} (h : s.keeps u l) (v : TWord) :
    nth (u.deliver m v).got (masterNum m) TWord.nil0 = v ∧ (u.deliver m v).can = u.can ∧ s.keeps (u.deliver m v) (l ++ [.got (masterNum m)]) :=
  ⟨u.got_deliver m v, rfl, State.keeps_trans h (u.deliver_keeps m v)⟩

end

section
variable {who : Nat} {o : Fin 256}

/-- The port of an object that is not read is in error. -/
theorem State.portRead_barred (hleave : s.leaveOther n o who = s)
    (h : s.bit (F.canObjcfgEn n o) = false ∨ s.fld (F.canObjcfgDir n o) ≠ 0) :
    s.portRead who n o = (TWord.nil0, s.setBit (F.canStatPorterr n)) := by
  unfold State.portRead
  rw [hleave]
  refine if_pos ?_
  rcases h with h | h
  · simp [h]
  · simp [h]

section
variable (hleave : s.leaveOther n o who = s) (hen : s.bit (F.canObjcfgEn n o) = true) (hdir : s.fld (F.canObjcfgDir n o) = 0)
include hleave hen hdir

theorem State.portRead_collides (hlock : (s.cn n).lockedBy o who = true) :
    s.portRead who n o = (TWord.nil0, s.setBit (F.canStatLockcol n)) := by
  unfold State.portRead
  rw [hleave]
  dsimp only
  rw [if_neg (by simp [hen, hdir]), if_pos hlock]

/-- The first read takes the lock and delivers word 0. -/
theorem State.portRead_first (hlock : (s.cn n).lockedBy o who = false) (hown : nth (s.cn n).locks who none = none) :
    s.portRead who n o = (TWord.nat (s.fld (F.canObjcfgId n o) + 2 ^ 29 * s.fld (F.canObjcfgXtd n o)), s.setCan n (fun c => { c with
      locks := updN c.locks who (fun _ => some ⟨o, 1, msgWords ((c.obj o).msg.getD {}), false, []⟩) })) := by
  unfold State.portRead
  rw [hleave]
  dsimp only
  rw [if_neg (by simp [hen, hdir]), if_neg (by simp [hlock]), Can.lockOn_of_none hown]
  rfl

/-- A further read delivers the lock's word. -/
theorem State.portRead_further (hlock : (s.cn n).lockedBy o who = false) {l : CanLock} (hown : nth (s.cn n).locks who none = some l)
    (hobj : l.obj = o.val) : s.portRead who n o = (s.objWord n o l.pos, if l.size ≤ l.pos + 1 then s.readDone n o who
      else s.setCan n (fun c => { c with locks := updN c.locks who (fun _ => some { l with pos := l.pos + 1 }) })) := by
  have hon : (s.cn n).lockOn o who = some l := hobj ▸ Can.lockOn_of_some hown
  unfold State.portRead
  rw [hleave]
  dsimp only
  rw [if_neg (by simp [hen, hdir]), if_neg (by simp [hlock]), hon]
  dsimp only
  split <;> rfl

end

/-- The last read drops the lock and clears NEW and LOST, where no frame waits in the shadow. -/
theorem State.readDone_spec (hobjs : AMap.wf (fun _ => ({} : CanObj)) (s.cn n).objs = true) (hwho : who < 4)
    (hshadow : ((s.cn n).obj o).shadow = none) : nth ((s.readDone n o who).cn n).locks who none = none ∧
      ((s.readDone n o who).cn n).obj o = { (s.cn n).obj o with new := false, lost := false } ∧ s.keeps (s.readDone n o who) [.can n] := by
  have hset : (((s.setCan n (fun c => { c with locks := updN c.locks who (fun _ => none) })).setObj n o
      (fun y => { y with new := false, lost := false })).cn n) = { s.cn n with
        locks := updN (s.cn n).locks who (fun _ => none)
        objs := AMap.put (fun _ => {}) (s.cn n).objs o { (s.cn n).obj o with new := false, lost := false } } := by
    unfold State.setObj
    rw [State.cn_setCan, State.cn_setCan]
    rfl
  have hobj : ((((s.setCan n (fun c => { c with locks := updN c.locks who (fun _ => none) })).setObj n o
      (fun y => { y with new := false, lost := false })).cn n).obj o) = { (s.cn n).obj o with new := false, lost := false } := by
    rw [hset]
    exact Can.obj_put hobjs o _
  have hdone : s.readDone n o who = (s.setCan n (fun c => { c with locks := updN c.locks who (fun _ => none) })).setObj n o
      (fun y => { y with new := false, lost := false }) := by
    unfold State.readDone State.takeShadow
    dsimp only
    rw [hobj]
    dsimp only
    rw [hshadow]
  rw [hdone]
  refine ⟨?_, hobj, ?_⟩
  · rw [hset]
    exact nth_updN_same _ _ _ _ hwho
  · exact State.keeps_setCan (s.setCan_keeps n _) n _ (by simp)

section
variable (hleave : s.leaveOther n o who = s) (hen : s.bit (F.canObjcfgEn n o) = true) (hdir : s.fld (F.canObjcfgDir n o) = 1)
  (hlock : (s.cn n).lockedBy o who = false)
include hleave hen hdir hlock

/-- The first write takes the lock with word 0. -/
theorem State.portWrite_first (hown : nth (s.cn n).locks who none = none) (w : Word) : s.portWrite who n o w =
    s.setCan n (fun c => { c with locks := updN c.locks who (fun _ => some ⟨o, 1, 2, true, [w]⟩) }) := by
  unfold State.portWrite
  rw [hleave]
  dsimp only
  rw [if_neg (by simp [hen, hdir]), if_neg (by simp [hlock]), Can.lockOn_of_none hown]

/-- The last write drops the lock and commits the message that its words spell. -/
theorem State.portWrite_last {l : CanLock} (hown : nth (s.cn n).locks who none = some l) (hobj : l.obj = o.val) (hpos : 1 < l.pos)
    (hsize : l.size ≤ l.pos + 1) (w : Word) : s.portWrite who n o w =
      (s.setCan n (fun c => { c with locks := updN c.locks who (fun _ => none) })).canCommit n o
        (canMsgOf (s.fld (F.canObjcfgId n o)) (s.bit (F.canObjcfgXtd n o)) (w :: l.words).reverse) := by
  have hon : (s.cn n).lockOn o who = some l := hobj ▸ Can.lockOn_of_some hown
  unfold State.portWrite
  rw [hleave]
  dsimp only
  rw [if_neg (by simp [hen, hdir]), if_neg (by simp [hlock]), hon]
  dsimp only
  have hlater : ¬l.pos = 1 := by omega
  rw [if_neg hlater, if_pos hsize]

end

/-- Whether a commit replaces a message that still waits (R460). -/
def State.canReplaced (s : State) (n o : Nat) : Bool := ((s.cn n).obj o).pend && (!(s.cn n).sending o || (s.cn n).newer)

/-- The object once a commit has given it its message. -/
def State.canTaken (s : State) (n o : Nat) (m : CanMsg) (y : CanObj) : CanObj :=
  { y with msg := some m, pend := true, lost := y.lost || s.canReplaced n o }

theorem State.canCommit_eq (s : State) (n o : Nat) (m : CanMsg) : s.canCommit n o m =
    let t := (s.setObj n o (s.canTaken n o m)).canLost n (s.canReplaced n o)
    if (s.cn n).sending o then t.setCan n (fun d => { d with newer := true }) else t := rfl

/-- A commit makes the object's message pending, and touches no lock. -/
theorem State.canCommit_spec (hobjs : AMap.wf (fun _ => ({} : CanObj)) (s.cn n).objs = true) (m : CanMsg) :
    ((s.canCommit n o m).cn n).locks = (s.cn n).locks ∧ (((s.canCommit n o m).cn n).obj o).pend = true ∧
      (((s.canCommit n o m).cn n).obj o).msg = some m ∧ s.keeps (s.canCommit n o m) [.can n] := by
  have hlost (t : State) (b : Bool) : ((t.canLost n b).cn n).locks = (t.cn n).locks ∧ ((t.canLost n b).cn n).objs = (t.cn n).objs ∧
      t.keeps (t.canLost n b) [.can n] := by
    unfold State.canLost State.setCanFr
    cases b
    · exact ⟨rfl, rfl, t.keeps_refl _⟩
    · rw [if_pos rfl, State.cn_setCan]
      exact ⟨rfl, rfl, t.setCan_keeps n _⟩
  have hlive (t : State) (p : Bool) : ((if p then t.setCan n (fun d => { d with newer := true }) else t).cn n).locks = (t.cn n).locks ∧
      ((if p then t.setCan n (fun d => { d with newer := true }) else t).cn n).objs = (t.cn n).objs ∧
      t.keeps (if p then t.setCan n (fun d => { d with newer := true }) else t) [.can n] := by
    split
    · rw [State.cn_setCan]
      exact ⟨rfl, rfl, t.setCan_keeps n _⟩
    · exact ⟨rfl, rfl, t.keeps_refl _⟩
  have hset : ((s.setObj n o (s.canTaken n o m)).cn n).locks = (s.cn n).locks ∧
      ((s.setObj n o (s.canTaken n o m)).cn n).obj o = s.canTaken n o m ((s.cn n).obj o) := by
    unfold State.setObj
    rw [State.cn_setCan]
    exact ⟨rfl, Can.obj_put hobjs o _⟩
  rw [State.canCommit_eq]
  obtain ⟨h2l, h2o, h2k⟩ := hlost (s.setObj n o (s.canTaken n o m)) (s.canReplaced n o)
  obtain ⟨h1l, h1o, h1k⟩ := hlive ((s.setObj n o (s.canTaken n o m)).canLost n (s.canReplaced n o)) ((s.cn n).sending o)
  have hobj := (Can.obj_of_objs (h1o.trans h2o) o).trans hset.2
  exact ⟨h1l.trans (h2l.trans hset.1), congrArg CanObj.pend hobj, congrArg CanObj.msg hobj,
    State.keeps_trans (n := [.can n]) (State.keeps_trans (n := [.can n]) (s.setCan_keeps n _) h2k) h1k⟩

end

theorem State.got_canCommit (s : State) (n o : Nat) (m : CanMsg) : (s.canCommit n o m).got = s.got := by
  have hlost (t : State) (b : Bool) : (t.canLost n b).got = t.got := by
    unfold State.canLost
    split <;> rfl
  unfold State.canCommit
  dsimp only
  split <;> exact hlost _ _

/-! ### LCKREL and QACK (R459, R464) -/

theorem execLckrel_eq {m : Master} (hoff : s.storesOff = false) (he : ∀ c, m = .core c → (s.cr c).buf = []) :
    exec (.lckrel m n) s = .next (s.abandon n (masterNum m)) := by
  refine congrArg Host.Outcome.next ((State.store_of_on hoff _ _).trans ?_)
  rw [State.drained_of_noStores he]
  rfl

theorem State.abandon_of_some {who : Nat} {l : CanLock} (hown : nth (s.cn n).locks who none = some l)
    (h : l.write = true ∨ ((s.cn n).obj l.obj).shadow = none) :
    s.abandon n who = s.setCan n (fun c => { c with locks := updN c.locks who (fun _ => none) }) := by
  unfold State.abandon
  rw [hown]
  exact if_pos (by rcases h with h | h <;> simp [h])

theorem State.abandon_of_none {who : Nat} (hown : nth (s.cn n).locks who none = none) : s.abandon n who = s := by
  unfold State.abandon
  rw [hown]

theorem execQack_of_on (h : s.storesOff = false) (n : Fin 6) :
    exec (.qack n) s = .next (s.setCan n (fun c => { c with queue := c.queue.drop 1 })) := congrArg Host.Outcome.next (State.store_of_on h _ _)

end

/-- Settles O47: each command by its lemma above, a port by what the object's configuration and the locks make of an access. -/
theorem canObjectSteps : Obligations.CanObjectSteps := by
  intro n s hs hobjs
  refine ⟨fun hoff hrun he => ?_, fun hoff hrun he => ?_, fun hoff hrun => ?_, fun busy hoff => ?_, execCanIntegrated_of_not, fun hrun hon => ?_,
    fun o w hoff => ?_, fun m o hd he => ?_, fun m o hd he hl ho hown => ?_, fun m l hoff he hown hfree => ?_, fun m hoff he hown => ?_,
    fun hoff => ?_, fun hd hoff => ?_, fun hd => ?_⟩
  · obtain ⟨h1, h2, h3, h4, h5⟩ := State.canRun_stopped hs hrun he
    exact ⟨_, execCanRunStart_of_on hoff n, h1, h2, h3, h4, h5⟩
  · have hbit := State.bit_putBit_same hs (f := F.canCtlRun n) rfl (Nat.zero_lt_succ _) true
    refine ⟨_, (execCanRunStart_of_on hoff n).trans (congrArg _ (State.canRun_stopping hrun he)), ?_, hbit, ?_⟩
    · refine (State.cn_setCan _ n _).trans ?_
      show { s.cn n with tec := 0, recv := 0, estate := 0 } = { s.cn n with tec := 0, recv := 0 }
      rw [← he]
    · exact State.keeps_trans (s.setFld_keeps (F.canCtlRun n) 1) (State.setCan_keeps _ n _)
  · exact ⟨_, (execCanRunStart_of_on hoff n).trans (congrArg _ (State.canRun_running hrun)), rfl,
      State.bit_putBit_same hs rfl (Nat.zero_lt_succ _) true, s.setFld_keeps (F.canCtlRun n) 1⟩
  · obtain ⟨h1, h2, h3⟩ := State.canRun_stop hs (n := n) busy rfl
    exact ⟨_, execCanRunStop_of_on hoff n busy, h1, h2, h3⟩
  · exact ⟨_, execCanIntegrated_of_integrating hrun hon, State.cn_setCan _ n _, s.setCan_keeps n _⟩
  · obtain ⟨h1, h2, h3, h4⟩ := State.objCfg_spec hs hobjs o w
    exact ⟨_, execObjcfgWrite_of_on hoff n o w, h1, h2, h3, h4⟩
  · refine ⟨fun hl ho => ⟨?_, fun w hoff => ?_⟩, fun hl => ?_⟩
    · exact (execObjectPortRead_eq o hd he).trans (congrArg _ (State.answer_asleep hl ho _))
    · exact (execObjectPortWrite_eq o hoff he w).trans (congrArg _ (State.answer_asleep hl ho _))
    · exact (execObjectPortRead_eq o hd he).trans (congrArg _ (State.answer_locked hl _))
  · have hleave : s.leaveOther n o (masterNum m) = s := State.leaveOther_of_same hown
    have hread {v : TWord} {u : State} (h : s.portRead (masterNum m) n o = (v, u)) : exec (.objectPortRead m n o) s = .next (u.deliver m v) := by
      rw [execObjectPortRead_eq o hd he, State.answer_on hl ho, h]
    have hwrite (w : Word) (hoff : s.storesOff = false) (hgot : (s.portWrite (masterNum m) n o w).got = s.got) :
        exec (.objectPortWrite m n o w) s = .next (s.portWrite (masterNum m) n o w) := by
      rw [execObjectPortWrite_eq o hoff he, State.answer_on hl ho]
      refine congrArg Host.Outcome.next (Eq.trans ?_ (State.deliver_self _ m))
      rw [hgot]
    refine ⟨fun hen hdir hlock hfree => ?_, fun l hen hdir hlock hmine => ⟨fun hmore => ?_, fun hlast hshadow => ?_⟩, fun hen hdir hlock => ?_,
      fun hbar => ?_, fun w hoff hen hdir hlock hfree => ?_, fun w l hoff hen hdir hlock hmine hpos hsize => ?_⟩
    · obtain ⟨h1, h2, h3⟩ := State.deliver_spec (m := m) (s.setCan_keeps n (fun c => { c with
        locks := updN c.locks (masterNum m) (fun _ => some ⟨o, 1, msgWords ((c.obj o).msg.getD {}), false, []⟩) })) _
      refine ⟨_, hread (State.portRead_first hleave hen hdir hlock hfree), h1, ?_, h3⟩
      show nth ((State.setCan s n _).cn n).locks _ _ = _
      rw [State.cn_setCan]
      exact nth_updN_same _ _ _ _ (masterNum_lt m)
    · have hfurther := State.portRead_further hleave hen hdir hlock hmine (hown l hmine)
      rw [if_neg (by omega)] at hfurther
      obtain ⟨h1, h2, h3⟩ := State.deliver_spec (m := m) (s.setCan_keeps n (fun c => { c with
        locks := updN c.locks (masterNum m) (fun _ => some { l with pos := l.pos + 1 }) })) (s.objWord n o l.pos)
      refine ⟨_, hread hfurther, h1, ?_, h3⟩
      show nth ((State.setCan s n _).cn n).locks _ _ = _
      rw [State.cn_setCan]
      exact nth_updN_same _ _ _ _ (masterNum_lt m)
    · have hfurther := State.portRead_further hleave hen hdir hlock hmine (hown l hmine)
      rw [if_pos hlast] at hfurther
      obtain ⟨hdrop, hobj, hkept⟩ := State.readDone_spec hobjs (masterNum_lt m) hshadow
      obtain ⟨h1, h2, h3⟩ := State.deliver_spec (m := m) hkept (s.objWord n o l.pos)
      exact ⟨_, hread hfurther, h1, hdrop, hobj, h3⟩
    · obtain ⟨h1, h2, h3⟩ := State.deliver_spec (m := m) (s.setFld_keeps (F.canStatLockcol n) 1) TWord.nil0
      exact ⟨_, hread (State.portRead_collides hleave hen hdir hlock), h1, State.bit_setBit_same hs rfl (show 6 < 32 by decide),
        State.keeps_mono h3 (by simp)⟩
    · obtain ⟨h1, h2, h3⟩ := State.deliver_spec (m := m) (s.setFld_keeps (F.canStatPorterr n) 1) TWord.nil0
      exact ⟨_, hread (State.portRead_barred hleave hbar), h1, State.bit_setBit_same hs rfl (show 7 < 32 by decide),
        State.keeps_mono h3 (by simp)⟩
    · have hfirst := State.portWrite_first hleave hen hdir hlock hfree w
      refine ⟨_, (hwrite w hoff (by rw [hfirst]; rfl)).trans (congrArg _ hfirst), ?_, ?_, s.setCan_keeps n _⟩
      · rw [State.cn_setCan]
        exact nth_updN_same _ _ _ _ (masterNum_lt m)
      · rw [State.cn_setCan]
        rfl
    · have hlast := State.portWrite_last hleave hen hdir hlock hmine (hown l hmine) hpos hsize w
      have hcn := State.cn_setCan s n (fun c => { c with locks := updN c.locks (masterNum m) (fun _ => none) })
      obtain ⟨h1, h2, h3, h4⟩ := State.canCommit_spec (s := s.setCan n (fun c => { c with locks := updN c.locks (masterNum m) (fun _ => none) }))
        (n := n) (o := o) (by rw [hcn]; exact hobjs) (canMsgOf (s.fld (F.canObjcfgId n o)) (s.bit (F.canObjcfgXtd n o)) (w :: l.words).reverse)
      refine ⟨_, (hwrite w hoff (by rw [hlast]; exact State.got_canCommit _ _ _ _)).trans (congrArg _ hlast), ?_, h2, h3, ?_⟩
      · rw [h1, hcn]
        exact nth_updN_same _ _ _ _ (masterNum_lt m)
      · exact State.keeps_trans (s.setCan_keeps n _) h4
  · refine ⟨_, (execLckrel_eq hoff he).trans (congrArg _ (State.abandon_of_some hown hfree)), ?_, ?_, s.setCan_keeps n _⟩
    · rw [State.cn_setCan]
      exact nth_updN_same _ _ _ _ (masterNum_lt m)
    · rw [State.cn_setCan]
  · exact (execLckrel_eq hoff he).trans (congrArg _ (State.abandon_of_none hown))
  · exact ⟨_, execQack_of_on hoff n, State.cn_setCan _ n _, s.setCan_keeps n _⟩
  · have hstore (i : DipAccess) (f : State → State) : (Host.Outcome.next (s.store i f) : Out) = .next s := congrArg _ (State.store_of_off hd hoff i f)
    exact ⟨hstore _ _, hstore _ _, fun busy => hstore _ _, fun m o w => ⟨hstore _ _, hstore _ _, hstore _ _⟩⟩
  · have hstore (i : DipAccess) (f : State → State) : (Host.Outcome.next (s.store i f) : Out) = .next (s.stall i) := congrArg _ (State.store_of_dip hd i f)
    exact ⟨hstore _ _, hstore _ _, fun busy => hstore _ _, fun m o w => ⟨hstore _ _, hstore _ _, hstore _ _, congrArg _ (State.load_of_dip hd)⟩⟩

end Sys2Proof.Machine
end

section
/-!
PROOFS. The Silo: how an operation starts, completes and is interrupted (O59).
-/

/- One proof at a time: the check of the whole text comes near its limit of memory. -/
set_option Elab.async false

namespace Sys2Proof.Machine

section
variable {s : State}

/-! ### Registers and pins -/

/-- The registers from the Oculus up are none that a reaction writes. -/
theorem Reacted.fld_late {t : State} (h : Reacted s t) (f : Fld) (hf : 0x400F0000 ≤ f.addr) : t.fld f = s.fld f := by
  unfold State.fld
  rw [h.onlyRegs]
  all_goals intros; simp only [F.winStickyStk, F.frmEvmrgMerged, F.pwrDctlReq, F.grnBpwrState, F.pwrStatLockacc, F.accEvcCause]; omega

theorem State.pin_setPin_other (s : State) {x y : Sensor} (h : y ≠ x) (v : Int) : (s.setPin x v).pin y = s.pin y :=
  (s.setPin_keeps x v).2 (.pin y) (by simp [h])

theorem State.vppOk_setPin (s : State) (mv : Int) : (s.setPin .vpp mv).vppOk = decide (6800 ≤ mv ∧ mv ≤ 7200) := by
  simp [State.vppOk]

/-! ### A write of PCTL (R625, R628, R629) -/

theorem State.storeOn {i : DipAccess} {o : Out} (hoff : s.storesOff = false) :
    (if s.inDip then Host.Outcome.next (s.stall i) else if s.storesOff then .next s else o) = o :=
  (if_neg (by simp [s.inDip_of_stores hoff])).trans (if_neg (by simp [hoff]))

theorem State.storeOff {i : DipAccess} {o : Out} (hd : s.inDip = false) (hstop : s.storesOff = true) :
    (if s.inDip then Host.Outcome.next (s.stall i) else if s.storesOff then .next s else o) = .next s :=
  (if_neg (by simp [hd])).trans (if_pos hstop)

/-- The three commands are writes of PCTL.OP. -/
theorem exec_siloCommand {mv : Int} {job : Bool} {cmd : Instr} (h : cmd ∈ [Instr.prog mv job, Instr.arbstep mv job, Instr.wear mv job]) :
    ∃ op, ¬(op = 0 ∨ 3 < op) ∧ (s.storesOff = false → exec cmd s = (s.setPin .vpp mv).siloWrite op job) ∧
      (s.inDip = false → s.storesOff = true → exec cmd s = .next s) := by
  simp only [List.mem_cons, List.not_mem_nil, or_false] at h
  rcases h with rfl | rfl | rfl
  · exact ⟨1, by decide, State.storeOn, State.storeOff⟩
  · exact ⟨2, by decide, State.storeOn, State.storeOff⟩
  · exact ⟨3, by decide, State.storeOn, State.storeOff⟩

theorem State.siloWrite_of_sup (h : s.pin .vpp ≤ 7500) (op : Nat) : s.siloWrite op false = .next (s.siloStart op false) :=
  if_neg (fun hc => by omega)

theorem State.siloStart_of_job (op : Nat) : s.siloStart op true = s.setBit F.silStatPrivrej := by
  unfold State.siloStart
  dsimp only
  rw [if_pos rfl]

theorem State.siloStart_busy {op : Nat} (hop : ¬(op = 0 ∨ 3 < op)) (h : s.sil.op.isSome = true) : s.siloStart op false = s.pstat 7 := by
  unfold State.siloStart
  dsimp only
  rw [if_neg Bool.false_ne_true, if_neg hop, if_pos h]

theorem State.siloStart_noVpp {op : Nat} (hop : ¬(op = 0 ∨ 3 < op)) (h : s.sil.op = none) (hv : s.vppOk = false) :
    s.siloStart op false = s.pstat 1 := by
  unfold State.siloStart
  dsimp only
  rw [if_neg Bool.false_ne_true, if_neg hop, if_neg (by simp [h]), if_pos (by simp [hv])]

/-- An operation starts. -/
def State.siloGo (s : State) (o : SilOp) : State := s.setSil (fun x => { x with op := some o })

section
variable (hop : s.sil.op = none) (hv : s.vppOk = true)
include hop hv

theorem State.siloStart_prog : s.siloStart 1 false =
    (let r := s.fld F.silPrecRec
     let d := s.fld F.silPdloData + 2 ^ 32 * s.fld F.silPdhiData
     if !progRecord r then s.pstat 2
     else if s.siloFull r then
       (if s.siloReserve = 0 then (s.setBit F.glnStatWorn).raiseSource 179 else s.setBit F.glnStatWorn).pstat 3
     else if r = 36 ∧ s.bootcfgBars d = true then s.pstat 4
     else s.siloGo (.prog r d)) := by
  unfold State.siloStart
  dsimp only
  rw [if_neg Bool.false_ne_true, if_neg (by decide), if_neg (by simp [hop]), if_neg (by simp [hv]), if_pos rfl]
  rfl

theorem State.siloStart_arbstep : s.siloStart 2 false =
    if 128 ≤ s.fld F.secArbCount ∨ s.fld F.secArbImgarb ≤ s.fld F.secArbCount then s.pstat 8 else s.siloGo .arbstep := by
  unfold State.siloStart
  dsimp only
  rw [if_neg Bool.false_ne_true, if_neg (by decide), if_neg (by simp [hop]), if_neg (by simp [hv]), if_neg (by decide), if_pos rfl]
  rfl

theorem State.siloStart_wear : s.siloStart 3 false = s.siloGo (.wear (s.wearBits.map (fun p => 64 * p.1 + p.2))) := by
  unfold State.siloStart
  dsimp only
  rw [if_neg Bool.false_ne_true, if_neg (by decide), if_neg (by simp [hop]), if_neg (by simp [hv]), if_neg (by decide), if_neg (by decide)]
  rfl

end

/-- What a write of PCTL.OP leaves when it refuses the operation. -/
theorem State.pstat_spec (hs : s.canonical) {code : Nat} (hc : code < 16) :
    (s.pstat code).fld F.silStatPstat = code ∧ s.keeps (s.pstat code) [.reg F.silStatPstat.addr] :=
  ⟨(State.fld_put hs F.silStatPstat code).trans (Nat.mod_eq_of_lt hc), s.setFld_keeps _ _⟩

theorem State.pstat_spec_vpp (hs : s.canonical) (mv : Int) {code : Nat} (hc : code < 16) :
    ((s.setPin .vpp mv).pstat code).fld F.silStatPstat = code ∧
      s.keeps ((s.setPin .vpp mv).pstat code) [.pin .vpp, .reg F.silStatPstat.addr] :=
  have h := State.pstat_spec (s := s.setPin .vpp mv) hs hc
  ⟨h.1, State.keeps_trans (s.setPin_keeps .vpp mv) h.2⟩

theorem State.siloGo_spec_vpp (s : State) (mv : Int) (o : SilOp) :
    ((s.setPin .vpp mv).siloGo o).sil = { s.sil with op := some o } ∧ s.keeps ((s.setPin .vpp mv).siloGo o) [.pin .vpp, .sil] :=
  ⟨rfl, State.keeps_trans (s.setPin_keeps .vpp mv) (State.setSil_keeps _ _)⟩

theorem progRecord_iff (r : Nat) : progRecord r = true ↔ (32 ≤ r ∧ r ≤ 36) ∨ (38 ≤ r ∧ r ≤ 51) ∨ (64 ≤ r ∧ r ≤ 127) := by
  simp [progRecord, or_assoc]

theorem rawRecord_iff (r : Nat) : rawRecord r = true ↔ 52 ≤ r ∧ r ≤ 60 := by
  simp [rawRecord]

theorem State.blankGen_some_iff {r g : Nat} :
    s.blankGen r = some g ↔ g < 4 ∧ (s.siloGen r g).blank = true ∧ ∀ h, h < g → (s.siloGen r h).blank = false := by
  unfold State.blankGen
  rw [show [0, 1, 2, 3] = List.range 4 from rfl, List.find?_range_eq_some]
  simp only [List.mem_range, Bool.not_eq_true']
  tauto

theorem State.blankGen_none_iff {r : Nat} : s.blankGen r = none ↔ ∀ g, g < 4 → (s.siloGen r g).blank = false := by
  unfold State.blankGen
  simp only [List.find?_eq_none, List.mem_cons, List.not_mem_nil, or_false, Bool.not_eq_true]
  exact ⟨fun h g hg => h g (by omega), fun h g hg => h g (by omega)⟩

theorem State.siloFull_of_records {r : Nat} (h : progRecord r = true) : s.siloFull r = true ↔ ∀ g, g < 4 → (s.siloGen r g).blank = false := by
  have hraw : rawRecord r = false := by
    rw [← Bool.not_eq_true, rawRecord_iff]
    have := (progRecord_iff r).mp h
    omega
  unfold State.siloFull
  rw [hraw, ← State.blankGen_none_iff, Bool.not_false, Bool.true_and, Option.isNone_iff_eq_none]

theorem State.siloFull_of_blank {r g : Nat} (h : progRecord r = true) (hg : g < 4) (hblank : (s.siloGen r g).blank = true) :
    s.siloFull r = false := by
  rw [← Bool.not_eq_true, State.siloFull_of_records h]
  exact fun hall => Bool.false_ne_true ((hall g hg).symm.trans hblank)

/-- BOOTCFG is refused by RULE where the debug mode would fall, a lock be taken back, or the running image's key be revoked (R625). -/
theorem State.bootcfgBars_of (s : State) {d : Nat} (h : bitsN d 0 2 < bitsN (s.shadow 36) 0 2 ∨
      (∃ k, 2 ≤ k ∧ k ≤ 4 ∧ (s.shadow 36).testBit k = true ∧ d.testBit k = false) ∨
      (s.sec.header ≠ [] ∧ d.testBit (3 + s.sec.header.getD 0x0A 0) = true)) : s.bootcfgBars d = true := by
  unfold State.bootcfgBars State.bootcfgBars.imgKeyOf
  rcases h with h | ⟨k, h2, h4, hold, hnew⟩ | ⟨hh, hk⟩
  · simp [h]
  · have hk : k = 2 ∨ k = 3 ∨ k = 4 := by omega
    rcases hk with rfl | rfl | rfl <;> simp [hold, hnew]
  · have hne : s.sec.header.isEmpty = false := by simpa using hh
    dsimp only
    rw [hk, hne]
    simp

/-! The outcomes of a PROG (R625, R634). -/

section
variable (hop : s.sil.op = none) (hv : s.vppOk = true)
include hop hv

theorem State.siloStart_prog_range (h : progRecord (s.fld F.silPrecRec) = false) : s.siloStart 1 false = s.pstat 2 := by
  rw [State.siloStart_prog hop hv]
  dsimp only
  rw [if_pos (by simp [h])]

theorem State.siloStart_prog_full (h : progRecord (s.fld F.silPrecRec) = true) (hfull : s.siloFull (s.fld F.silPrecRec) = true) :
    s.siloStart 1 false = (if s.siloReserve = 0 then (s.setBit F.glnStatWorn).raiseSource 179 else s.setBit F.glnStatWorn).pstat 3 := by
  rw [State.siloStart_prog hop hv]
  dsimp only
  rw [if_neg (by simp [h]), if_pos hfull]

theorem State.siloStart_prog_open (h : progRecord (s.fld F.silPrecRec) = true) (hfull : s.siloFull (s.fld F.silPrecRec) = false) :
    s.siloStart 1 false = (let d := s.fld F.silPdloData + 2 ^ 32 * s.fld F.silPdhiData
      if s.fld F.silPrecRec = 36 ∧ s.bootcfgBars d = true then s.pstat 4 else s.siloGo (.prog (s.fld F.silPrecRec) d)) := by
  rw [State.siloStart_prog hop hv]
  dsimp only
  rw [if_neg (by simp [h]), if_neg (by simp [hfull])]

end

/-- A full record reports WORN beside its refusal. -/
theorem State.fullRefused (hs : s.canonical) {u : State}
    (hu : u = if s.siloReserve = 0 then (s.setBit F.glnStatWorn).raiseSource 179 else s.setBit F.glnStatWorn) :
    (u.pstat 3).fld F.silStatPstat = 3 ∧ (u.pstat 3).bit F.glnStatWorn = true ∧ (u.pstat 3).sil = s.sil := by
  have hset := State.canonical_setFld hs F.glnStatWorn 1
  have hreacted : Reacted (s.setBit F.glnStatWorn) u := hu ▸ .ite ((Reacted.refl _).raiseSource 179 (by decide)) (.refl _)
  have hc : u.canonical := hu ▸ st_ite (P := State.canonical) (State.raiseSource_stable canonical_lasting.toStable _ hset) hset
  obtain ⟨hstat, hkeeps⟩ := State.pstat_spec hc (code := 3) (by decide)
  refine ⟨hstat, ?_, hreacted.services.2.2.2.1⟩
  rw [State.bit_of_keeps hkeeps _ (by decide), State.bit_iff_fld _ rfl, hreacted.fld_late _ (by decide)]
  exact decide_eq_true (State.fld_put hs F.glnStatWorn 1)

/-! ### The maps that WEAR records (R638) -/

theorem State.mem_wearBits {p : Nat × Nat} (h : p ∈ s.wearBits) :
    64 * p.1 + p.2 ∈ s.wearBits.map (fun p => 64 * p.1 + p.2) := List.mem_map_of_mem h

theorem State.wearBits_lane {b l : Nat} (hb : b < 16) (hl : l < 8) (h : s.fld (F.grnLaneSpfor b) = l) :
    (54 + (8 * b + l) / 64, (8 * b + l) % 64) ∈ s.wearBits := by
  refine List.mem_append_left _ (List.mem_append_left _ (List.mem_filterMap.mpr ⟨b, (mem_upto 16 b).mpr hb, ?_⟩))
  dsimp only
  rw [h, if_pos hl]

theorem State.wearBits_segment {c k : Nat} (hc : c < 48) (h : (s.out c).seg.out = some k) :
    let n := if c < 8 then 5 * c + k else 40 + 4 * (c - 8) + k
    (56 + n / 64, n % 64) ∈ s.wearBits := by
  refine List.mem_append_left _ (List.mem_append_right _ (List.mem_filterMap.mpr ⟨c, (mem_upto 48 c).mpr hc, ?_⟩))
  rw [h]
  rfl

theorem State.wearBits_phase {p : Nat} (hp : p < 4) (h : s.fld F.pwrRegSpfor = p) : (60, p) ∈ s.wearBits :=
  List.mem_append_right _ (List.mem_filterMap.mpr ⟨p, (mem_upto 4 p).mpr hp, if_pos h⟩)

/-! ### Cells, records and shadows (R617 to R620) -/

theorem State.siloGen_setGen_same (h : AMap.wf (fun _ => ({} : SilGen)) s.sil.gens = true) (r g : Nat) (x : SilGen) :
    (s.setGen r g x).siloGen r g = x := AMap.get_put_same _ _ _ h

theorem State.siloGen_setGen_other {r g q k : Nat} (h : 4 * q + k ≠ 4 * r + g) (x : SilGen) : (s.setGen r g x).siloGen q k = s.siloGen q k :=
  AMap.get_put_other _ _ _ _ h

theorem State.setGen_wf (h : AMap.wf (fun _ => ({} : SilGen)) s.sil.gens = true) (r g : Nat) (x : SilGen) :
    AMap.wf (fun _ => ({} : SilGen)) (s.setGen r g x).sil.gens = true := AMap.put_wf _ _ _ h

theorem State.feat_setGen (s : State) (r g : Nat) (x : SilGen) (k : Nat) : (s.setGen r g x).feat k = s.feat k := rfl

theorem State.sticky_setGen (s : State) (r g : Nat) (x : SilGen) (k : Nat) : (s.setGen r g x).sticky k = s.sticky k := rfl

theorem State.siloGen_of_gens {t : State} (h : t.sil.gens = s.sil.gens) (r g : Nat) : t.siloGen r g = s.siloGen r g := by
  unfold State.siloGen
  rw [h]

theorem State.rawBit_of_gens {t : State} (h : t.sil.gens = s.sil.gens) (r b : Nat) : t.rawBit r b = s.rawBit r b := by
  unfold State.rawBit State.siloGen
  rw [h]

theorem State.siloData_of_gens {t : State} (h : t.sil.gens = s.sil.gens) (r : Nat) : t.siloData r = s.siloData r := by
  unfold State.siloData State.rawBit State.liveGen State.siloGen
  rw [h]

/-- A record's data in its shadow. -/
def State.shadowed (s : State) (r : Nat) : State := s.setSil (fun y => { y with shadow := AMap.put (fun _ => 0) y.shadow r (s.siloData r) })

/-- A shadow taken where the check finds nothing wrong is the record's data. -/
theorem State.takeShadowOf_clean (s : State) (r : Nat) : s.takeShadowOf r .clean = s.shadowed r := by
  unfold State.takeShadowOf State.shadowSource State.storeShadow
  dsimp only
  rw [ite_self, ite_self]
  rfl

theorem State.siloReserveFell_reacted (s : State) (n : Nat) : Reacted s (s.siloReserveFell n) :=
  .ite ((Reacted.refl s).raiseSource 178 (by decide)) (.refl s)

theorem State.siloReserveFell_sil (s : State) (n : Nat) : (s.siloReserveFell n).sil = s.sil := (s.siloReserveFell_reacted n).services.2.2.2.1

theorem State.sticky_siloReserveFell (hs : s.canonical) (q : s.quiet) (n : Nat) : (s.siloReserveFell n).sticky 177 = s.sticky 177 := by
  unfold State.siloReserveFell
  split
  · exact State.sticky_raiseSource_other hs q (by decide) (by decide) (by decide)
  · rfl

/-- The end of an operation: its code in PSTAT, no operation left. -/
theorem State.siloDone_spec (hs : s.canonical) {code : Nat} (hc : code < 16) : (s.siloDone code).fld F.silStatPstat = code ∧
    (s.siloDone code).sil = { s.sil with op := none, done := true } ∧ s.keeps (s.siloDone code) [.sil, .reg F.silStatPstat.addr] ∧
    (s.siloDone code).sticky 177 = s.sticky 177 := by
  have h := State.pstat_spec (s := s.setSil (fun x => { x with op := none, done := true })) hs hc
  exact ⟨h.1, rfl, State.keeps_trans (s.setSil_keeps _) h.2, State.sticky_of_reg (State.reg_setReg_other _ _ _ _ (by decide))⟩

theorem State.gens_siloDone (s : State) (code : Nat) : (s.siloDone code).sil.gens = s.sil.gens := rfl

theorem State.shadow_siloDone (s : State) (code j : Nat) : (s.siloDone code).shadow j = s.shadow j := rfl

/-- An operation that ends with a record's shadow taken: the shadow is the record's data. -/
theorem State.shadowTaken (hs : s.canonical) (hshadow : AMap.wf (fun _ => 0) s.sil.shadow = true) (k : Nat) :
    let t := (s.takeShadowOf k .clean).siloDone 0
    t.sil.gens = s.sil.gens ∧ t.shadow k = t.siloData k ∧ (∀ j, j ≠ k → t.shadow j = s.shadow j) ∧ t.sil.op = none ∧ t.sil.done = true ∧
      t.fld F.silStatPstat = 0 ∧ t.sticky 177 = s.sticky 177 := by
  rw [State.takeShadowOf_clean]
  obtain ⟨hstat, -, -, hst⟩ := State.siloDone_spec (s := s.shadowed k) hs (code := 0) (by decide)
  refine ⟨rfl, ?_, fun j hj => AMap.get_put_other _ _ _ _ hj, rfl, rfl, hstat, hst⟩
  exact (AMap.get_put_same _ _ _ hshadow).trans (State.siloData_of_gens (s := s) rfl k).symm

/-- A PROG that succeeds, the reserve of the kind judged first. -/
theorem State.progEnded (hs : s.canonical) (hshadow : AMap.wf (fun _ => 0) s.sil.shadow = true) (n k : Nat) :
    let t := ((s.siloReserveFell n).takeShadowOf k .clean).siloDone 0
    t.sil.gens = s.sil.gens ∧ t.shadow k = t.siloData k ∧ (∀ j, j ≠ k → t.shadow j = s.shadow j) ∧ t.sil.op = none ∧ t.sil.done = true ∧
      t.fld F.silStatPstat = 0 ∧ (s.quiet → t.sticky 177 = s.sticky 177) := by
  have hsil := s.siloReserveFell_sil n
  have hfell : (s.siloReserveFell n).canonical := State.siloReserveFell_stable canonical_lasting.toStable _ hs
  obtain ⟨hgens, htaken, hothers, hop, hdone, hstat, hst⟩ := State.shadowTaken hfell (hsil ▸ hshadow) k
  refine ⟨hgens.trans (congrArg Sil.gens hsil), htaken, fun j hj => (hothers j hj).trans ?_, hop, hdone, hstat,
    fun q => hst.trans (State.sticky_siloReserveFell hs q n)⟩
  unfold State.shadow
  rw [hsil]

/-! ### Completion of a PROG (R625) -/

section
variable {k x g : Nat} (hop : s.sil.op = some (.prog k x))
include hop

theorem execSiloOpComplete_prog_full (hg : s.blankGen k = none) (a b : Bool) : exec (.siloOpComplete a b) s = .next (s.siloDone 5) := by
  refine congrArg Host.Outcome.next ?_
  rw [hop]
  dsimp only
  rw [hg]

theorem execSiloOpComplete_prog_verified (hg : s.blankGen k = some g) (b : Bool) : exec (.siloOpComplete false b) s =
    .next ((((s.setGen k g { start := true, done := true, data := x }).siloReserveFell s.siloReserve).takeShadowOf k .clean).siloDone 0) := by
  refine congrArg Host.Outcome.next ?_
  rw [hop]
  dsimp only
  rw [hg]
  rfl

/-- The state once the verify of the lowest blank generation has failed. -/
def State.progFailed (s : State) (k g x : Nat) : State :=
  (s.setGen k g { start := true, done := false, data := x, ones := true }).raiseSource 177

theorem execSiloOpComplete_prog_last (hg : s.blankGen k = some g) (hno : (s.progFailed k g x).blankGen k = none) (b : Bool) :
    exec (.siloOpComplete true b) s = .next (((s.progFailed k g x).siloReserveFell s.siloReserve).siloDone 5) := by
  refine congrArg Host.Outcome.next ?_
  rw [hop]
  dsimp only
  rw [hg]
  dsimp only
  rw [if_neg (by decide), show s.progGen k g x true = s.progFailed k g x from rfl, hno]

theorem execSiloOpComplete_prog_retried {g2 : Nat} (hg : s.blankGen k = some g) (h2 : (s.progFailed k g x).blankGen k = some g2) :
    exec (.siloOpComplete true false) s = .next (((((s.progFailed k g x).setGen k g2 { start := true, done := true, data := x }).siloReserveFell
      s.siloReserve).takeShadowOf k .clean).siloDone 0) := by
  refine congrArg Host.Outcome.next ?_
  rw [hop]
  dsimp only
  rw [hg]
  dsimp only
  rw [if_neg (by decide), show s.progGen k g x true = s.progFailed k g x from rfl, h2]
  rfl

theorem execSiloOpComplete_prog_failed {g2 : Nat} (hg : s.blankGen k = some g) (h2 : (s.progFailed k g x).blankGen k = some g2) :
    exec (.siloOpComplete true true) s = .next ((((s.progFailed k g x).progFailed k g2 x).siloReserveFell s.siloReserve).siloDone 5) := by
  refine congrArg Host.Outcome.next ?_
  rw [hop]
  dsimp only
  rw [hg]
  dsimp only
  rw [if_neg (by decide), show s.progGen k g x true = s.progFailed k g x from rfl, h2]
  rfl

end

theorem State.progFailed_sil (s : State) (k g x : Nat) :
    (s.progFailed k g x).sil = (s.setGen k g { start := true, done := false, data := x, ones := true }).sil :=
  ((Reacted.refl _).raiseSource 177 (by decide)).services.2.2.2.1

/-- A failed verify makes its generation void, and nothing else of the block. -/
theorem State.progFailed_spec (hwf : AMap.wf (fun _ => ({} : SilGen)) s.sil.gens = true) (k g x : Nat) :
    AMap.wf (fun _ => ({} : SilGen)) (s.progFailed k g x).sil.gens = true ∧ ((s.progFailed k g x).siloGen k g).void = true ∧
      ((s.progFailed k g x).siloGen k g).blank = false ∧ (∀ q h, 4 * q + h ≠ 4 * k + g → (s.progFailed k g x).siloGen q h = s.siloGen q h) ∧
      (s.progFailed k g x).sil.shadow = s.sil.shadow := by
  have hsil := s.progFailed_sil k g x
  have hgen := State.siloGen_of_gens (congrArg Sil.gens hsil)
  refine ⟨by rw [hsil]; exact State.setGen_wf hwf _ _ _, ?_, ?_, fun q h hne => (hgen q h).trans (State.siloGen_setGen_other hne _),
    by rw [hsil]; rfl⟩
  · rw [hgen, State.siloGen_setGen_same hwf]
    rfl
  · rw [hgen, State.siloGen_setGen_same hwf]
    rfl

theorem State.progFailed_canonical (hs : s.canonical) (k g x : Nat) : (s.progFailed k g x).canonical :=
  State.raiseSource_stable canonical_lasting.toStable _ (State.setGen_stable canonical_lasting.toStable k g _ hs)

/-- The next blank generation after a failed verify. -/
theorem State.blankGen_progFailed (hwf : AMap.wf (fun _ => ({} : SilGen)) s.sil.gens = true) {k x g g2 : Nat} (hg : s.blankGen k = some g)
    (hlt : g < g2) (h4 : g2 < 4) (hblank : (s.siloGen k g2).blank = true) (hbetween : ∀ h, g < h → h < g2 → (s.siloGen k h).blank = false) :
    (s.progFailed k g x).blankGen k = some g2 := by
  obtain ⟨-, -, hbelow⟩ := State.blankGen_some_iff.mp hg
  obtain ⟨-, -, hspent, hother, -⟩ := State.progFailed_spec hwf k g x
  refine State.blankGen_some_iff.mpr ⟨h4, by rw [hother _ _ (by omega)]; exact hblank, fun h hh => ?_⟩
  rcases Nat.lt_trichotomy h g with hl | rfl | hgt
  · rw [hother _ _ (by omega)]
    exact hbelow h hl
  · exact hspent
  · rw [hother _ _ (by omega)]
    exact hbetween h hgt hh

/-- A PROG whose first verify failed and whose retry did not (R625). -/
theorem State.progRetried (hs : s.canonical) (hwf : AMap.wf (fun _ => ({} : SilGen)) s.sil.gens = true)
    (hwfs : AMap.wf (fun _ => 0) s.sil.shadow = true) {k x g g2 : Nat} (hlt : g < g2) :
    let t := ((((s.progFailed k g x).setGen k g2 { start := true, done := true, data := x }).siloReserveFell s.siloReserve).takeShadowOf
      k .clean).siloDone 0
    (t.siloGen k g).void = true ∧ t.siloGen k g2 = { start := true, done := true, data := x } ∧ t.shadow k = t.siloData k ∧
      (∀ j, j ≠ k → t.shadow j = s.shadow j) ∧ t.sil.op = none ∧ t.sil.done = true ∧ t.fld F.silStatPstat = 0 ∧
      (s.quiet → s.feat (sourceFeat 177) = true → t.sticky 177 = true) := by
  obtain ⟨hwf1, hvoid, -, -, hshadow⟩ := State.progFailed_spec hwf k g x
  have hset : ((s.progFailed k g x).setGen k g2 { start := true, done := true, data := x }).canonical := State.progFailed_canonical hs k g x
  obtain ⟨hgens, hdata, hothers, hop, hdone, hstat, hst⟩ := State.progEnded hset
    (show AMap.wf (fun _ => 0) (s.progFailed k g x).sil.shadow = true by rw [hshadow]; exact hwfs) s.siloReserve k
  have hgen := State.siloGen_of_gens hgens
  refine ⟨?_, (hgen k g2).trans (State.siloGen_setGen_same hwf1 _ _ _), hdata, fun j hj => (hothers j hj).trans ?_, hop, hdone, hstat, fun q hf => ?_⟩
  · rw [hgen, State.siloGen_setGen_other (by omega)]
    exact hvoid
  · exact congrArg (fun y => AMap.get (fun _ => 0) y j) hshadow
  · have hq : (s.progFailed k g x).quiet := ((Reacted.refl _).raiseSource 177 (by decide)).quiet q
    have hset1 : (s.setGen k g { start := true, done := false, data := x, ones := true }).canonical := hs
    have hset2 : (s.setGen k g { start := true, done := false, data := x, ones := true }).quiet := q
    have hraised := State.sticky_raiseSource_same hset1 hset2 (n := 177) (by decide) (by decide)
    rw [hst hq, State.sticky_setGen, State.progFailed, hraised, State.feat_setGen, hf, Bool.or_true]

/-- A PROG whose verify fails as often as it is tried (R625). -/
theorem execSiloOpComplete_prog_void (hs : s.canonical) (hwf : AMap.wf (fun _ => ({} : SilGen)) s.sil.gens = true) {k x g : Nat}
    (hop : s.sil.op = some (.prog k x)) (hg : s.blankGen k = some g) :
    ∃ v : State, exec (.siloOpComplete true true) s = .next (v.siloDone 5) ∧ v.canonical ∧ (v.siloGen k g).void = true ∧
      v.sil.shadow = s.sil.shadow := by
  obtain ⟨hwf1, hvoid, hspent, -, hshadow⟩ := State.progFailed_spec hwf k g x
  have h1 := State.progFailed_canonical hs k g x
  have hended (u : State) (hu : u.canonical) : (u.siloReserveFell s.siloReserve).canonical ∧
      (u.siloReserveFell s.siloReserve).siloGen k g = u.siloGen k g ∧ (u.siloReserveFell s.siloReserve).sil.shadow = u.sil.shadow :=
    ⟨State.siloReserveFell_stable canonical_lasting.toStable _ hu,
      State.siloGen_of_gens (congrArg Sil.gens (u.siloReserveFell_sil _)) k g, congrArg Sil.shadow (u.siloReserveFell_sil _)⟩
  cases h2 : (s.progFailed k g x).blankGen k with
  | none =>
    obtain ⟨hc, hgen, hsh⟩ := hended _ h1
    exact ⟨_, execSiloOpComplete_prog_last hop hg h2 true, hc, by rw [hgen]; exact hvoid, hsh.trans hshadow⟩
  | some g2 =>
    obtain ⟨hc, hgen, hsh⟩ := hended _ (State.progFailed_canonical h1 k g2 x)
    obtain ⟨-, -, -, hother, hshadow2⟩ := State.progFailed_spec hwf1 k g2 x
    obtain ⟨-, hblank, -⟩ := State.blankGen_some_iff.mp h2
    have hne : g ≠ g2 := fun e => by rw [← e, hspent] at hblank; exact Bool.false_ne_true hblank
    refine ⟨_, execSiloOpComplete_prog_failed hop hg h2, hc, ?_, hsh.trans (hshadow2.trans hshadow)⟩
    rw [hgen, hother k g (by omega)]
    exact hvoid

/-! ### Raw bits (R620, R626, R638) -/

theorem State.mread_of_keeps {t : State} {l : List Part} (h : s.keeps t l) {k : Nat} (hk : Part.word (k / 4) ∉ l) : t.mread k = s.mread k := by
  have hword : t.mread (4 * (k / 4)) = s.mread (4 * (k / 4)) := h.2 _ hk
  unfold State.mread at hword ⊢
  rwa [Nat.mul_div_cancel_left _ (by decide)] at hword

/-- Cells of the Silo have been programmed and nothing else has changed: no cell that read 1 reads 0. -/
structure RawGrown (s t : State) : Prop where
  wf : AMap.wf (fun _ => ({} : SilGen)) t.sil.gens = true
  shadow : t.sil.shadow = s.sil.shadow
  keeps : s.keeps t [.sil]
  cells : ∀ r g b, (s.siloGen r g).data.testBit b = true → (t.siloGen r g).data.testBit b = true

theorem RawGrown.refl (h : AMap.wf (fun _ => ({} : SilGen)) s.sil.gens = true) : RawGrown s s := ⟨h, rfl, s.keeps_refl _, fun _ _ _ k => k⟩

theorem RawGrown.trans {t u : State} (h : RawGrown s t) (k : RawGrown t u) : RawGrown s u :=
  ⟨k.wf, k.shadow.trans h.shadow, State.keeps_trans (n := [.sil]) h.keeps k.keeps, fun r g b e => k.cells r g b (h.cells r g b e)⟩

/-- One more cell of a raw bit. -/
theorem RawGrown.cell {t : State} (h : RawGrown s t) (r g b : Nat) :
    RawGrown s (t.setGen r g { t.siloGen r g with data := (t.siloGen r g).data ||| 2 ^ b }) ∧
      ((t.setGen r g { t.siloGen r g with data := (t.siloGen r g).data ||| 2 ^ b }).siloGen r g).data.testBit b = true := by
  have hsame := State.siloGen_setGen_same h.wf r g { t.siloGen r g with data := (t.siloGen r g).data ||| 2 ^ b }
  refine ⟨h.trans ⟨State.setGen_wf h.wf _ _ _, rfl, t.setSil_keeps _, fun q k c hc => ?_⟩, ?_⟩
  · by_cases e : 4 * q + k = 4 * r + g
    · have hq : ∀ u : State, u.siloGen q k = u.siloGen r g := fun u => by unfold State.siloGen; rw [e]
      rw [hq] at hc ⊢
      rw [hsame, Nat.testBit_or, hc, Bool.true_or]
    · rw [State.siloGen_setGen_other e]
      exact hc
  · rw [hsame, Nat.testBit_or, Nat.testBit_two_pow_self, Bool.or_true]

theorem RawGrown.rawBit {t : State} (h : RawGrown s t) {r b : Nat} (hb : s.rawBit r b = true) : t.rawBit r b = true := by
  unfold State.rawBit at hb ⊢
  rw [decide_eq_true_eq, ← List.countP_eq_length_filter] at hb ⊢
  exact hb.trans (List.countP_mono_left (fun g _ hg => h.cells r g b hg))

/-- Its four cells programmed, a raw bit reads 1. -/
theorem RawGrown.setRaw {t : State} (h : RawGrown s t) (r b : Nat) : RawGrown s (t.setRaw r b) ∧ (t.setRaw r b).rawBit r b = true := by
  have hcells : ∀ n, let u := forEach n (fun t g => t.setGen r g { t.siloGen r g with data := (t.siloGen r g).data ||| 2 ^ b }) t
      RawGrown s u ∧ ∀ g, g < n → (u.siloGen r g).data.testBit b = true := by
    intro n
    induction n with
    | zero => exact ⟨h, fun g hg => absurd hg (Nat.not_lt_zero g)⟩
    | succ n ih =>
      obtain ⟨hgrown, hset⟩ := ih
      rw [forEach_succ]
      obtain ⟨hone, hbit⟩ := hgrown.cell r n b
      obtain ⟨hstep, -⟩ := (RawGrown.refl hgrown.wf).cell r n b
      refine ⟨hone, fun g hg => ?_⟩
      rcases Nat.lt_succ_iff_lt_or_eq.mp hg with hl | rfl
      · exact hstep.cells r g b (hset g hl)
      · exact hbit
  obtain ⟨hgrown, hset⟩ := hcells 4
  refine ⟨hgrown, ?_⟩
  have hall : (upto 4).filter (fun g => ((t.setRaw r b).siloGen r g).data.testBit b) = upto 4 :=
    List.filter_eq_self.mpr (fun g hg => hset g ((mem_upto 4 g).mp hg))
  unfold State.rawBit
  rw [hall]
  rfl

theorem upto_succ (n : Nat) : upto (n + 1) = upto n ++ [n] := rfl

/-- The bits of a number that is summed bit by bit. -/
theorem testBit_sum_bits (p : Nat → Bool) (n : Nat) : let x := (upto n).foldl (fun a b => if p b = true then a + 2 ^ b else a) 0
    x < 2 ^ n ∧ ∀ b, x.testBit b = (decide (b < n) && p b) := by
  induction n with
  | zero => exact ⟨Nat.one_pos, fun b => Nat.zero_testBit b⟩
  | succ n ih =>
    obtain ⟨hlt, hbits⟩ := ih
    rw [upto_succ, List.foldl_append]
    dsimp only [List.foldl_cons, List.foldl_nil]
    have hlast (b : Nat) (hb : p n = false) : (decide (b < n) && p b) = (decide (b < n + 1) && p b) := by
      rcases Nat.lt_trichotomy b n with h | rfl | h
      · rw [decide_eq_true h, decide_eq_true (Nat.lt_succ_of_lt h)]
      · rw [hb, Bool.and_false, Bool.and_false]
      · rw [decide_eq_false (by omega), decide_eq_false (by omega)]
    cases hp : p n with
    | false => exact ⟨hlt.trans (Nat.pow_lt_pow_right (by decide) (Nat.lt_succ_self n)), fun b => (hbits b).trans (hlast b hp)⟩
    | true =>
      rw [if_pos rfl]
      refine ⟨by rw [Nat.pow_succ]; omega, fun b => ?_⟩
      rw [Nat.add_comm, show 2 ^ n = 2 ^ n * 1 from (Nat.mul_one _).symm, Nat.testBit_two_pow_mul_add _ hlt]
      rcases Nat.lt_trichotomy b n with h | rfl | h
      · rw [if_pos h, hbits, decide_eq_true h, decide_eq_true (Nat.lt_succ_of_lt h)]
      · rw [if_neg (Nat.lt_irrefl b), Nat.sub_self, hp, decide_eq_true (Nat.lt_succ_self b)]
        rfl
      · rw [if_neg (by omega), decide_eq_false (by omega), Bool.false_and]
        exact Nat.testBit_lt_two_pow (Nat.one_lt_two_pow (by omega))

theorem State.rawBit_of_siloData {r b : Nat} (hr : rawRecord r = true) (h : (s.siloData r).testBit b = true) : s.rawBit r b = true := by
  unfold State.siloData at h
  rw [if_pos hr] at h
  rw [(testBit_sum_bits (s.rawBit r) 64).2 b, Bool.and_eq_true] at h
  exact h.2

/-- The wear bits of a map, programmed where their shadow does not read 1. -/
def State.wearProgrammed (s : State) (m : List Nat) : State :=
  m.foldl (fun t x => if (t.shadow (x / 64)).testBit (x % 64) then t else t.setRaw (x / 64) (x % 64)) s

theorem RawGrown.wearProgrammed {t : State} (h : RawGrown s t) (m : List Nat) : RawGrown s (t.wearProgrammed m) :=
  st_foldl (P := RawGrown s) (fun _ _ k => st_ite k (k.setRaw _ _).1) h

theorem RawGrown.wearProgrammed_rawBit (m : List Nat) {t : State} (h : RawGrown s t) :
    ∀ x ∈ m, (s.shadow (x / 64)).testBit (x % 64) = true ∨ (t.wearProgrammed m).rawBit (x / 64) (x % 64) = true := by
  induction m generalizing t with
  | nil => exact fun x hx => absurd hx List.not_mem_nil
  | cons x m ih =>
    have hshadow : t.shadow (x / 64) = s.shadow (x / 64) := by
      unfold State.shadow
      rw [h.shadow]
    obtain ⟨u, hu, hgrown, hbit⟩ : ∃ u, t.wearProgrammed (x :: m) = u.wearProgrammed m ∧ RawGrown s u ∧
        ((s.shadow (x / 64)).testBit (x % 64) = true ∨ u.rawBit (x / 64) (x % 64) = true) := by
      by_cases hx : (t.shadow (x / 64)).testBit (x % 64) = true
      · exact ⟨t, by unfold State.wearProgrammed; rw [List.foldl_cons, if_pos hx], h, .inl (hshadow ▸ hx)⟩
      · exact ⟨t.setRaw (x / 64) (x % 64), by unfold State.wearProgrammed; rw [List.foldl_cons, if_neg hx], (h.setRaw _ _).1, .inr (h.setRaw _ _).2⟩
    rw [hu]
    intro y hy
    rcases List.mem_cons.mp hy with rfl | hy
    · exact hbit.imp_right ((RawGrown.refl hgrown.wf).wearProgrammed m).rawBit
    · exact ih hgrown y hy

/-- Shadows taken one after the other leave the cells. -/
theorem State.gens_takeShadows (s : State) (l : List Nat) : (l.foldl (fun t r => t.takeShadowOf r .clean) s).sil.gens = s.sil.gens :=
  st_foldl (P := fun t => t.sil.gens = s.sil.gens) (fun t r h => by rw [State.takeShadowOf_clean]; exact h) rfl

/-- The end of ARBSTEP: COUNT takes what the thermometer reads. -/
theorem State.countTaken (hs : s.canonical) : let t := (s.setFld F.secArbCount s.thermometer).siloDone 0
    t.sil = { s.sil with op := none, done := true } ∧ t.fld F.secArbCount = t.thermometer % 2 ^ F.secArbCount.width ∧
      t.fld F.silStatPstat = 0 ∧ s.keeps t [.sil, .reg F.secArbCount.addr, .reg F.silStatPstat.addr] := by
  have hcount := State.canonical_setFld hs F.secArbCount s.thermometer
  obtain ⟨hstat, hsil, hkeeps, -⟩ := State.siloDone_spec (s := s.setFld F.secArbCount s.thermometer) hcount (code := 0) (by decide)
  refine ⟨hsil, ?_, hstat, State.keeps_trans (s.setFld_keeps F.secArbCount _) hkeeps⟩
  have hread := (State.fld_of_keeps hkeeps F.secArbCount (by decide)).trans (State.fld_put hs F.secArbCount s.thermometer)
  exact hread

/-- ARBSTEP completes: the step's cells, then COUNT from the thermometer (R626). -/
theorem execSiloOpComplete_arbstep (hs : s.canonical) (hop : s.sil.op = some .arbstep)
    (hwf : AMap.wf (fun _ => ({} : SilGen)) s.sil.gens = true) (a b : Bool) :
    ∃ t, exec (.siloOpComplete a b) s = .next t ∧
      (let n := s.fld F.secArbCount
       t.rawBit (52 + n / 64) (n % 64) = true ∧ t.fld F.secArbCount = t.thermometer % 2 ^ F.secArbCount.width) ∧
      t.sil.op = none ∧ t.fld F.silStatPstat = 0 ∧ ∀ k x, t.mread k = s.mread k ∧ t.out x = s.out x := by
  have hexec : exec (.siloOpComplete a b) s = .next
      (let u := (s.setRaw (52 + s.fld F.secArbCount / 64) (s.fld F.secArbCount % 64)).takeShadowOf (52 + s.fld F.secArbCount / 64) .clean
       (u.setFld F.secArbCount u.thermometer).siloDone 0) := by
    refine congrArg Host.Outcome.next ?_
    rw [hop]
  obtain ⟨hgrown, hbit⟩ := (RawGrown.refl hwf).setRaw (52 + s.fld F.secArbCount / 64) (s.fld F.secArbCount % 64)
  have hv : (s.setRaw (52 + s.fld F.secArbCount / 64) (s.fld F.secArbCount % 64)).canonical :=
    State.setRaw_stable canonical_lasting.toStable _ _ hs
  generalize s.setRaw (52 + s.fld F.secArbCount / 64) (s.fld F.secArbCount % 64) = v at hgrown hbit hexec hv
  rw [State.takeShadowOf_clean] at hexec
  have hw : (v.shadowed (52 + s.fld F.secArbCount / 64)).canonical := hv
  obtain ⟨hsil, hcount, hstat, hkeeps⟩ := State.countTaken hw
  have hall := State.keeps_trans (n := [.sil, .reg F.secArbCount.addr, .reg F.silStatPstat.addr])
    (State.keeps_trans (n := [.sil]) hgrown.keeps (v.setSil_keeps _)) hkeeps
  have hgens : (((v.shadowed (52 + s.fld F.secArbCount / 64)).setFld F.secArbCount
      (v.shadowed (52 + s.fld F.secArbCount / 64)).thermometer).siloDone 0).sil.gens = v.sil.gens := rfl
  exact ⟨_, hexec, ⟨(State.rawBit_of_gens hgens _ _).trans hbit, hcount⟩, congrArg Sil.op hsil, hstat,
    fun k x => ⟨State.mread_of_keeps hall (by simp), hall.2 (.out x) (by simp)⟩⟩

/-- WEAR completes: every bit of its map reads 1 (R638). -/
theorem execSiloOpComplete_wear (hs : s.canonical) {m : List Nat} (hop : s.sil.op = some (.wear m))
    (hwf : AMap.wf (fun _ => ({} : SilGen)) s.sil.gens = true) (hshadow : ∀ k, 54 ≤ k → k ≤ 60 → s.shadow k = s.siloData k) (a b : Bool) :
    ∃ t, exec (.siloOpComplete a b) s = .next t ∧ (∀ x ∈ m, 54 ≤ x / 64 → x / 64 ≤ 60 → t.rawBit (x / 64) (x % 64) = true) ∧
      t.sil.op = none ∧ t.fld F.silStatPstat = 0 := by
  have hexec : exec (.siloOpComplete a b) s = .next
      (([54, 55, 56, 57, 58, 59, 60].foldl (fun t r => t.takeShadowOf r .clean) (s.wearProgrammed m)).siloDone 0) := by
    refine congrArg Host.Outcome.next ?_
    rw [hop]
    rfl
  have hgrown := (RawGrown.refl hwf).wearProgrammed m
  have hbits := (RawGrown.refl hwf).wearProgrammed_rawBit m
  have hv : (s.wearProgrammed m).canonical :=
    st_foldl (P := State.canonical) (fun _ _ k => st_ite k (State.setRaw_stable canonical_lasting.toStable _ _ k)) hs
  generalize s.wearProgrammed m = v at hgrown hbits hexec hv
  have hu : ([54, 55, 56, 57, 58, 59, 60].foldl (fun t r => t.takeShadowOf r .clean) v).canonical :=
    st_foldl (P := State.canonical) (fun _ _ k => State.takeShadowOf_stable canonical_lasting.toStable _ _ k) hv
  have hgens := v.gens_takeShadows [54, 55, 56, 57, 58, 59, 60]
  generalize [54, 55, 56, 57, 58, 59, 60].foldl (fun t r => t.takeShadowOf r .clean) v = u at hgens hexec hu
  obtain ⟨hstat, hsil, -, -⟩ := State.siloDone_spec hu (code := 0) (by decide)
  refine ⟨_, hexec, fun x hx hlo hhi => ?_, congrArg Sil.op hsil, hstat⟩
  rw [State.rawBit_of_gens ((u.gens_siloDone 0).trans hgens)]
  rcases hbits x hx with hold | hnew
  · rw [hshadow _ hlo hhi] at hold
    exact hgrown.rawBit (State.rawBit_of_siloData ((rawRecord_iff _).mpr (by omega)) hold)
  · exact hnew

/-! ### An operation interrupted (R625, R627) -/

/-- The readings that SILO_ABORT brings. -/
def State.abortPins (s : State) (mv vbat : Int) : State := (s.setPin .vpp mv).setPin (.vbat 2) vbat

theorem State.abortPins_ok (s : State) (mv vbat : Int) : ((s.abortPins mv vbat).vppOk && (s.abortPins mv vbat).vbatcOk) =
    decide (6800 ≤ mv ∧ mv ≤ 7200 ∧ 6000 ≤ vbat ∧ vbat ≤ 58000) := by
  have hvpp : (s.abortPins mv vbat).pin .vpp = mv := (State.pin_setPin_other _ (by decide) _).trans (State.pin_setPin_same _ _ _)
  have hvbat : (s.abortPins mv vbat).pin (.vbat 2) = vbat := State.pin_setPin_same _ _ _
  unfold State.vppOk State.vbatcOk
  rw [hvpp, hvbat]
  simp [Bool.and_assoc]

theorem State.abortPins_keeps (s : State) (mv vbat : Int) : s.keeps (s.abortPins mv vbat) [.pin .vpp, .pin (.vbat 2)] :=
  State.keeps_trans (s.setPin_keeps .vpp mv) (State.setPin_keeps _ (.vbat 2) vbat)

theorem execSiloAbort_eq (mv vbat : Int) (cells : Nat) (s : State) : exec (.siloAbort mv vbat cells) s = .next
    (if ((s.abortPins mv vbat).vppOk && (s.abortPins mv vbat).vbatcOk) = true then s.abortPins mv vbat
     else (s.abortPins mv vbat).siloAbort cells) := rfl

theorem execSiloAbort_within {mv vbat : Int} (h : 6800 ≤ mv ∧ mv ≤ 7200 ∧ 6000 ≤ vbat ∧ vbat ≤ 58000) (cells : Nat) :
    exec (.siloAbort mv vbat cells) s = .next (s.abortPins mv vbat) := by
  rw [execSiloAbort_eq, State.abortPins_ok, if_pos (decide_eq_true h)]

theorem execSiloAbort_outside {mv vbat : Int} (h : mv < 6800 ∨ 7200 < mv ∨ vbat < 6000 ∨ 58000 < vbat) (cells : Nat) :
    exec (.siloAbort mv vbat cells) s = .next ((s.abortPins mv vbat).siloAbort cells) := by
  rw [execSiloAbort_eq, State.abortPins_ok, if_neg (by rw [decide_eq_true_eq]; omega)]

theorem State.siloAbort_of_none (hop : s.sil.op = none) (cells : Nat) : s.siloAbort cells = s := by
  unfold State.siloAbort
  rw [hop]

/-- A PROG interrupted leaves its generation void. -/
theorem State.siloAbort_prog (hs : s.canonical) (hwf : AMap.wf (fun _ => ({} : SilGen)) s.sil.gens = true) {k x g : Nat}
    (hop : s.sil.op = some (.prog k x)) (hg : s.blankGen k = some g) (cells : Nat) :
    ∃ u : State, s.siloAbort cells = u.raiseSource 177 ∧ (u.siloGen k g).void = true ∧ u.sil.op = none ∧ u.fld F.silStatPstat = 6 ∧
      ∀ j, u.shadow j = s.shadow j := by
  have heq : s.siloAbort cells =
      ((((s.setGen k g { start := true, done := false, data := x }).siloReserveFell s.siloReserve).siloDone 6).raiseSource 177) := by
    unfold State.siloAbort
    rw [hop]
    dsimp only
    rw [hg]
  have hset : (s.setGen k g { start := true, done := false, data := x }).canonical := hs
  have hfell : ((s.setGen k g { start := true, done := false, data := x }).siloReserveFell s.siloReserve).canonical :=
    State.siloReserveFell_stable canonical_lasting.toStable _ hset
  have hsilFell := (s.setGen k g { start := true, done := false, data := x }).siloReserveFell_sil s.siloReserve
  generalize (s.setGen k g { start := true, done := false, data := x }).siloReserveFell s.siloReserve = v at heq hfell hsilFell
  obtain ⟨hstat, hsil, -, -⟩ := State.siloDone_spec hfell (code := 6) (by decide)
  refine ⟨_, heq, ?_, congrArg Sil.op hsil, hstat, fun j => (v.shadow_siloDone 6 j).trans ?_⟩
  · rw [State.siloGen_of_gens (v.gens_siloDone _), State.siloGen_of_gens (congrArg Sil.gens hsilFell), State.siloGen_setGen_same hwf]
    rfl
  · exact (congrArg (fun y : Sil => AMap.get (fun _ => 0) y.shadow j) hsilFell :)

/-- Cells alone have changed. -/
def CellsOnly (s t : State) : Prop := t.canonical ∧ t.sil.shadow = s.sil.shadow ∧ s.keeps t [.sil]

theorem CellsOnly.setGen {t : State} (h : CellsOnly s t) (r g : Nat) (x : SilGen) : CellsOnly s (t.setGen r g x) :=
  ⟨h.1, h.2.1, State.keeps_trans (n := [.sil]) h.2.2 (t.setSil_keeps _)⟩

theorem CellsOnly.setRaw {t : State} (h : CellsOnly s t) (r b : Nat) : CellsOnly s (t.setRaw r b) :=
  st_forEach (P := CellsOnly s) (fun _ _ k => k.setGen _ _ _) h

/-- Raw bits interrupted: the shadows stay. -/
theorem State.siloAbort_raw (hs : s.canonical) (hop : s.sil.op = some .arbstep ∨ ∃ m, s.sil.op = some (.wear m)) (cells : Nat) :
    ∃ u : State, s.siloAbort cells = u.raiseSource 177 ∧ u.sil.op = none ∧ u.fld F.silStatPstat = 6 ∧ (∀ j, u.shadow j = s.shadow j) ∧
      s.keeps u [.sil, .reg F.silStatPstat.addr] := by
  obtain ⟨v, heq, hv, hshadow, hkeeps⟩ : ∃ v : State, s.siloAbort cells = (v.siloDone 6).raiseSource 177 ∧ CellsOnly s v := by
    have hself : CellsOnly s s := ⟨hs, rfl, s.keeps_refl _⟩
    rcases hop with hop | ⟨m, hop⟩
    · exact ⟨_, by unfold State.siloAbort; rw [hop], st_forEach (P := CellsOnly s) (fun t g k => st_ite (k.setGen _ _ _) k) hself⟩
    · exact ⟨_, by unfold State.siloAbort; rw [hop], st_foldl (P := CellsOnly s)
        (fun t x k => k.setRaw (x / 64) (x % 64)) hself⟩
  obtain ⟨hstat, hsil, hdone, -⟩ := State.siloDone_spec hv (code := 6) (by decide)
  refine ⟨_, heq, congrArg Sil.op hsil, hstat, fun j => ?_, State.keeps_trans hkeeps hdone⟩
  unfold State.shadow
  rw [hsil]
  exact congrArg (fun y => AMap.get (fun _ => 0) y j) hshadow

end

/-- Settles O59: a write of PCTL by the checks it meets in order, an operation's end by what it programs. -/
theorem siloOperations : Obligations.SiloOperations := by
  intro mv s hs
  have hon {cmd : Instr} (hoff : s.storesOff = false) (hmv : mv ≤ 7500) (h : cmd ∈ [Instr.prog mv false, Instr.arbstep mv false, Instr.wear mv false]) :
      ∃ op, ¬(op = 0 ∨ 3 < op) ∧ exec cmd s = .next ((s.setPin .vpp mv).siloStart op false) := by
    obtain ⟨op, hop, hexec, -⟩ := exec_siloCommand (s := s) h
    exact ⟨op, hop, (hexec hoff).trans (State.siloWrite_of_sup (by rw [State.pin_setPin_same]; exact hmv) op)⟩
  refine ⟨fun hoff cmd h => ?_, fun hoff hmv cmd h => ?_, fun hoff hmv hbusy cmd h => ?_, fun hoff hmv hsound hop cmd h => ?_,
    fun hoff hsound hop => ?_, fun b hd => ⟨if_pos hd, if_pos hd, if_pos hd⟩, fun hd hoff cmd h => ?_, fun hop a b => ?_,
    fun k x a b hop hg => ?_, fun k x g g2 hop hg hlt h4 hblank hbetween hwf hwfs => ?_, fun k x g hop hg hwf hwfs => ⟨fun b => ?_, ?_, fun v vb cells hv => ?_⟩,
    fun hop hwf => execSiloOpComplete_arbstep hs hop hwf, fun m hop hwf hshadow => execSiloOpComplete_wear hs hop hwf hshadow,
    fun v vb cells hv hop => ?_, fun v vb cells h => ?_⟩
  · obtain ⟨op, hop, hexec, -⟩ := exec_siloCommand (s := s) h
    refine ⟨_, (hexec hoff).trans ((if_neg (fun hc => by simp at hc)).trans (congrArg _ (State.siloStart_of_job op))), ?_, ?_⟩
    · exact State.bit_setBit_same (s := s.setPin .vpp mv) hs rfl (by decide)
    · exact State.keeps_trans (s.setPin_keeps .vpp mv) (State.setFld_keeps _ F.silStatPrivrej 1)
  · obtain ⟨op, hop, hexec, -⟩ := exec_siloCommand (s := s) h
    exact (hexec hoff).trans (if_pos ⟨by rw [State.pin_setPin_same]; exact hmv, rfl⟩)
  · obtain ⟨op, hop, hexec⟩ := hon hoff hmv h
    exact ⟨_, hexec.trans (congrArg _ (State.siloStart_busy hop hbusy)), State.pstat_spec_vpp hs mv (by decide)⟩
  · obtain ⟨op, hop', hexec⟩ := hon hoff hmv h
    exact ⟨_, hexec.trans (congrArg _ (State.siloStart_noVpp hop' hop (by rw [State.vppOk_setPin]; exact decide_eq_false hsound))),
      State.pstat_spec_vpp hs mv (by decide)⟩
  · have hv : (s.setPin .vpp mv).vppOk = true := (s.vppOk_setPin mv).trans (decide_eq_true hsound)
    have hexec {op : Nat} {cmd : Instr} (h : exec cmd s = (s.setPin .vpp mv).siloWrite op false) :
        exec cmd s = .next ((s.setPin .vpp mv).siloStart op false) :=
      h.trans (State.siloWrite_of_sup (by rw [State.pin_setPin_same]; omega) op)
    have hprog : exec (.prog mv false) s = .next ((s.setPin .vpp mv).siloStart 1 false) := hexec (State.storeOn hoff)
    have harb : exec (.arbstep mv false) s = .next ((s.setPin .vpp mv).siloStart 2 false) := hexec (State.storeOn hoff)
    have hwear : exec (.wear mv false) s = .next ((s.setPin .vpp mv).siloStart 3 false) := hexec (State.storeOn hoff)
    have hpin : (s.setPin .vpp mv).canonical := hs
    refine ⟨fun hr => ?_, fun hr => ⟨fun hfull => ?_, fun g hg hblank => ⟨fun h36 hbars => ?_, fun hgo => ?_⟩⟩, fun hmax => ?_, fun h128 harbs => ?_,
      ⟨_, ⟨_, hwear.trans (congrArg _ (State.siloStart_wear (s := s.setPin .vpp mv) hop hv)), s.siloGo_spec_vpp mv _⟩,
        fun b l hb hl h => State.mem_wearBits (State.wearBits_lane (s := s.setPin .vpp mv) hb hl h),
        fun c k hc h => State.mem_wearBits (State.wearBits_segment (s := s.setPin .vpp mv) hc h),
        fun p hp h => State.mem_wearBits (State.wearBits_phase (s := s.setPin .vpp mv) hp h)⟩⟩
    · have hrange : progRecord ((s.setPin .vpp mv).fld F.silPrecRec) = false := by
        rw [← Bool.not_eq_true, progRecord_iff]
        exact hr
      exact ⟨_, hprog.trans (congrArg _ (State.siloStart_prog_range hop hv hrange)), State.pstat_spec_vpp hs mv (by decide)⟩
    · have hrange : progRecord ((s.setPin .vpp mv).fld F.silPrecRec) = true := (progRecord_iff _).mpr hr
      have h := State.siloStart_prog_full (s := s.setPin .vpp mv) hop hv hrange ((State.siloFull_of_records hrange).mpr hfull)
      exact ⟨_, hprog.trans (congrArg _ h), State.fullRefused hpin rfl⟩
    · have hrange : progRecord ((s.setPin .vpp mv).fld F.silPrecRec) = true := (progRecord_iff _).mpr hr
      have h := State.siloStart_prog_open (s := s.setPin .vpp mv) hop hv hrange (State.siloFull_of_blank hrange hg hblank)
      exact ⟨_, hprog.trans (congrArg _ (h.trans (if_pos ⟨h36, State.bootcfgBars_of s hbars⟩))), State.pstat_spec_vpp hs mv (by decide)⟩
    · have hrange : progRecord ((s.setPin .vpp mv).fld F.silPrecRec) = true := (progRecord_iff _).mpr hr
      have h := State.siloStart_prog_open (s := s.setPin .vpp mv) hop hv hrange (State.siloFull_of_blank hrange hg hblank)
      have hfree : ¬((s.setPin .vpp mv).fld F.silPrecRec = 36 ∧ s.bootcfgBars (s.fld F.silPdloData + 2 ^ 32 * s.fld F.silPdhiData) = true) := by
        rintro ⟨h36, hbars⟩
        rcases hgo with hne | hfree
        · exact hne h36
        · exact Bool.false_ne_true (hfree.symm.trans hbars)
      exact ⟨_, hprog.trans (congrArg _ (h.trans (if_neg hfree))), s.siloGo_spec_vpp mv _⟩
    · exact ⟨_, harb.trans (congrArg _ ((State.siloStart_arbstep (s := s.setPin .vpp mv) hop hv).trans (if_pos hmax))),
        State.pstat_spec_vpp hs mv (by decide)⟩
    · have hlow : ¬(128 ≤ s.fld F.secArbCount ∨ s.fld F.secArbImgarb ≤ s.fld F.secArbCount) := by omega
      exact ⟨_, harb.trans (congrArg _ ((State.siloStart_arbstep (s := s.setPin .vpp mv) hop hv).trans (if_neg hlow))), s.siloGo_spec_vpp mv _⟩
  · obtain ⟨op, -, -, hexec⟩ := exec_siloCommand (s := s) h
    exact hexec hd hoff
  · refine congrArg Host.Outcome.next ?_
    rw [hop]
  · obtain ⟨hstat, hsil, hkeeps, -⟩ := State.siloDone_spec hs (code := 5) (by decide)
    exact ⟨_, execSiloOpComplete_prog_full hop hg a b, hstat, hsil, hkeeps⟩
  · have hnext := State.blankGen_progFailed (x := x) hwf hg hlt h4 hblank hbetween
    exact ⟨_, execSiloOpComplete_prog_retried hop hg hnext, State.progRetried hs hwf hwfs hlt⟩
  · have hset : (s.setGen k g { start := true, done := true, data := x }).canonical := hs
    obtain ⟨hgens, hdata, hothers, hop', hdone, hstat, -⟩ := State.progEnded hset hwfs s.siloReserve k
    have hgen := State.siloGen_of_gens hgens
    exact ⟨_, execSiloOpComplete_prog_verified hop hg b, by rw [hgen, State.siloGen_setGen_same hwf], hdata, hothers,
      fun q h hne => (hgen q h).trans (State.siloGen_setGen_other hne _), hop', hdone, hstat⟩
  · obtain ⟨v, hexec, hv, hvoid, hshadow⟩ := execSiloOpComplete_prog_void hs hwf hop hg
    obtain ⟨hstat, hsil, -, -⟩ := State.siloDone_spec hv (code := 5) (by decide)
    refine ⟨_, hexec, ?_, fun j => (v.shadow_siloDone 5 j).trans ?_, congrArg Sil.op hsil, hstat⟩
    · rw [State.siloGen_of_gens (v.gens_siloDone _)]
      exact hvoid
    · exact (congrArg (fun y => AMap.get (fun _ => 0) y j) hshadow :)
  · obtain ⟨u, heq, h⟩ := State.siloAbort_prog (s := s.abortPins v vb) hs hwf hop hg cells
    exact ⟨u, (execSiloAbort_outside hv cells).trans (congrArg _ heq), h⟩
  · obtain ⟨u, heq, hop', hstat, hshadow, hkeeps⟩ := State.siloAbort_raw (s := s.abortPins v vb) hs hop cells
    exact ⟨u, (execSiloAbort_outside hv cells).trans (congrArg _ heq), hop', hstat, hshadow, State.keeps_trans (s.abortPins_keeps v vb) hkeeps⟩
  · rcases h with hop | hin
    · by_cases hin : 6800 ≤ v ∧ v ≤ 7200 ∧ 6000 ≤ vb ∧ vb ≤ 58000
      · exact ⟨_, execSiloAbort_within hin cells, s.abortPins_keeps v vb⟩
      · exact ⟨_, (execSiloAbort_outside (by omega) cells).trans (congrArg _ (State.siloAbort_of_none (s := s.abortPins v vb) hop cells)),
          s.abortPins_keeps v vb⟩
    · exact ⟨_, execSiloAbort_within hin cells, s.abortPins_keeps v vb⟩

end Sys2Proof.Machine
end

section
/-!
PROOFS. The access block: a reaction where no class reacts, the log, the release of the door bridge.
-/

/- One proof at a time: the check of the whole text comes near its limit of memory. -/
set_option Elab.async false

namespace Sys2Proof.Machine

section
variable {s : State}

/-! ### Free choices -/

theorem State.withFree_keeps (s : State) (n : Nat) : s.keeps { s with free := n } [.free] := by
  refine ⟨rfl, fun p hp => ?_⟩
  cases p
  case free => exact absurd (List.mem_singleton.mpr rfl) hp
  all_goals (repeat' constructor)

/-! ### A source where no class reacts -/

/-- A source of class N sets its sticky bit where its feature is present, and nothing else changes. -/
theorem State.raiseSource_noted (hs : s.canonical) (q : s.quiet) {n : Nat} (hn : n < 192) (hfixed : fixedSource n = false) :
    s.keeps (s.raiseSource n) [.reg (F.winStickyStk (n / 32)).addr] ∧ (s.raiseSource n).canonical ∧ (s.raiseSource n).quiet ∧
      (s.feat (sourceFeat n) = true → (s.raiseSource n).sticky n = true) := by
  refine ⟨?_, State.raiseSource_stable canonical_lasting.toStable _ hs, ((Reacted.refl s).raiseSource n hn).quiet q, fun hf => ?_⟩
  · rw [State.raiseSource_of_quiet q hn hfixed]
    split
    · exact s.keeps_refl _
    · exact s.setFld_keeps _ _
  · rw [State.sticky_raiseSource_same hs q hn hfixed, hf, Bool.or_true]

/-! ### Changes of the access block beside the registers -/

theorem State.canonical_setAcc (hs : s.canonical) (f : AccBlk → AccBlk) : (s.setAcc f).canonical := hs

theorem State.quiet_setAcc (q : s.quiet) (f : AccBlk → AccBlk) : (s.setAcc f).quiet := q

/-! ### The log (R562) -/

/-- The place of the next entry of the log. -/
theorem State.logNext_lt (s : State) : s.fld F.accLogidxNext < 16 := getBits_lt _ _ _

/-- An entry of the log: its two words at the place that NEXT names, and NEXT moves on. -/
theorem State.accLog_spec (hs : s.canonical) (tid res slot search : Nat) :
    (s.accLog tid res slot search).canonical ∧
      (s.accLog tid res slot search).fld F.accLogidxNext = (s.fld F.accLogidxNext + 1) % 16 ∧
      (s.accLog tid res slot search).fld (F.accLogEntry (2 * s.fld F.accLogidxNext)) = tid % 2 ^ 32 ∧
      (s.accLog tid res slot search).fld (F.accLogEntry (2 * s.fld F.accLogidxNext + 1)) =
        res % 16 + 16 * (slot % 16) + 256 * (search % 8) + 4096 * (s.frm.frame.toNat % 2 ^ 20) ∧
      s.keeps (s.accLog tid res slot search) [.reg F.accLogidxNext.addr, .reg (F.accLogEntry (2 * s.fld F.accLogidxNext)).addr,
        .reg (F.accLogEntry (2 * s.fld F.accLogidxNext + 1)).addr] := by
  have hi := s.logNext_lt
  unfold State.accLog
  dsimp only
  generalize s.fld F.accLogidxNext = i at hi ⊢
  have h1 := State.canonical_setFld hs (F.accLogEntry (2 * i)) tid
  generalize hv : res % 16 + 16 * (slot % 16) + 256 * (search % 8) + 4096 * (s.frm.frame.toNat % 2 ^ 20) = v
  have hlt : v < 2 ^ 32 := by omega
  have h2 := State.canonical_setFld h1 (F.accLogEntry (2 * i + 1)) v
  have hfirst : (F.accLogEntry (2 * i)).addr ≠ (F.accLogEntry (2 * i + 1)).addr := by simp only [F.accLogEntry]; omega
  refine ⟨State.canonical_setFld h2 _ _, (State.fld_put h2 F.accLogidxNext _).trans (Nat.mod_mod _ _), ?_, ?_, ?_⟩
  · rw [State.fld_setFld_other _ _ _ _ (by simp only [F.accLogEntry, F.accLogidxNext]; omega), State.fld_setFld_other _ _ _ _ hfirst]
    exact State.fld_put hs (F.accLogEntry (2 * i)) tid
  · rw [State.fld_setFld_other _ _ _ _ (by simp only [F.accLogEntry, F.accLogidxNext]; omega)]
    exact (State.fld_put h1 (F.accLogEntry (2 * i + 1)) v).trans (Nat.mod_eq_of_lt hlt)
  · exact State.keeps_setFld (State.keeps_setFld (State.keeps_setFld (s.keeps_refl _) _ _ (by simp)) _ _ (by simp)) _ _ (by simp)

/-- The log leaves every register outside it. -/
theorem State.fld_accLog (hs : s.canonical) (tid res slot search : Nat) {f : Fld} (hf : f.addr ≠ F.accLogidxNext.addr)
    (hlog : f.addr < 0x400E0300 ∨ 0x400E0380 ≤ f.addr) : (s.accLog tid res slot search).fld f = s.fld f := by
  obtain ⟨-, -, -, -, hkeeps⟩ := State.accLog_spec hs tid res slot search
  have hi := s.logNext_lt
  refine State.fld_of_keeps hkeeps f ?_
  simp only [List.mem_cons, List.not_mem_nil, or_false, Part.reg.injEq, not_or]
  refine ⟨hf, ?_, ?_⟩ <;> simp only [F.accLogEntry] <;> omega

/-- The log is none of the class registers. -/
theorem State.quiet_accLog (hs : s.canonical) (q : s.quiet) (tid res slot search : Nat) : (s.accLog tid res slot search).quiet := by
  obtain ⟨-, -, -, -, hkeeps⟩ := State.accLog_spec hs tid res slot search
  have hi := s.logNext_lt
  refine State.quiet_of_reg q (fun a ha => hkeeps.2 (.reg a) ?_)
  simp only [List.mem_cons, List.not_mem_nil, or_false, Part.reg.injEq, F.accLogidxNext, F.accLogEntry]
  omega

/-- A cause that is not enabled raises nothing (R541). -/
theorem State.accCause_of_disabled {c : Nat} (h : (s.fld F.accEvenCause).testBit c = false) : s.accCause c = s :=
  if_neg (by simp [h])

end

end Sys2Proof.Machine
end

section
/-!
PROOFS. Releases, permits, button packets, URAW and PEPOCH (O53).
-/

/- One proof at a time: the check of the whole text comes near its limit of memory. -/
set_option Elab.async false

namespace Sys2Proof.Machine

section
variable {s t : State}

/-! ### The end of a release (R556) -/

section
variable {r : Option (Nat × Nat × Nat)} {f : BitVec 48} {c : Nat} (h : t.releaseIs r f c)
include h

theorem State.releaseIs.takeMode (o : Nat) (m : Nat × Nat) : (t.takeMode o m).releaseIs r f c :=
  st_ite (P := State.releaseIs r f c) ((releaseIs_undisturbed r f c).dgOn o h) h

theorem State.releaseIs.edgeHb (n : Nat) : (t.edgeHb n).releaseIs r f c := by
  have hP := releaseIs_undisturbed r f c
  have hmode : State.releaseIs r f c _ := h.takeMode (48 + n) (t.effHb n)
  unfold State.edgeHb
  dsimp only
  generalize t.takeMode (48 + n) (t.effHb n) = u at hmode ⊢
  refine st_ite (P := State.releaseIs r f c) hmode (st_ite (P := State.releaseIs r f c) (hP.lockAccess hmode)
    (st_ite (P := State.releaseIs r f c) (hP.demand 5 hmode) (st_ite (P := State.releaseIs r f c) hmode
      (st_ite (P := State.releaseIs r f c) (st_ite (P := State.releaseIs r f c) (hP.dgOn (48 + n) hmode) hmode) ?_))))
  split <;> exact hmode

theorem State.releaseIs.diagSource (o : Nat) : (t.diagSource o).releaseIs r f c :=
  st_ite (P := State.releaseIs r f c) ((releaseIs_undisturbed r f c).raiseSource _ h) h

theorem State.releaseIs.putIn (o : Nat) (w : TWord) : (t.putIn o w).releaseIs r f c := h

theorem State.releaseIs.outRecord (o : Nat) : (t.outRecord o).releaseIs r f c :=
  ((((((h.putIn _ _).putIn _ _).putIn _ _).putIn _ _).putIn _ _).putIn _ _).putIn _ _

theorem State.releaseIs.dieRecord (d : Nat) : (t.dieRecord d).releaseIs r f c := ((h.putIn _ _).putIn _ _).putIn _ _

theorem State.releaseIs.diagAgain (o : Nat) : (t.diagAgain o).releaseIs r f c := st_foldl (P := State.releaseIs r f c) (fun _ _ k => k) h

theorem State.releaseIs.refreshOut (o : Nat) : (t.refreshOut o).releaseIs r f c := by
  have hall : ((t.members o).foldl (fun u m => (u.diagSource m).outRecord m) t).releaseIs r f c :=
    st_foldl (P := State.releaseIs r f c) (fun _ m k => (k.diagSource m).outRecord m) h
  unfold State.refreshOut
  dsimp only
  generalize List.foldl _ _ _ = u at hall ⊢
  exact st_ite (P := State.releaseIs r f c) (st_ite (P := State.releaseIs r f c) (hall.dieRecord _) hall) h

end

theorem execReleaseEnd_of_none (h : s.acc.rel = none) : exec .releaseEnd s = .next s := by
  refine congrArg Host.Outcome.next ?_
  rw [h]

theorem execReleaseEnd_early {b h e : Nat} (hr : s.acc.rel = some (b, h, e)) (hn : s.atEdge = false ∨ s.frm.frame.toNat < e) :
    exec .releaseEnd s = .next s := by
  refine congrArg Host.Outcome.next ?_
  rw [hr]
  refine if_neg (fun hc => ?_)
  rcases hn with hn | hn
  · exact Bool.false_ne_true (hn.symm.trans hc.1)
  · omega

theorem execReleaseEnd_due {b h e : Nat} (hr : s.acc.rel = some (b, h, e)) (hedge : s.atEdge = true) (hle : e ≤ s.frm.frame.toNat) :
    ∃ t, exec .releaseEnd s = .next t ∧ t.releaseIs none s.frm.frame s.count := by
  have hover : (s.setAcc (fun a => { a with rel := none })).releaseIs none s.frm.frame s.count := ⟨rfl, rfl, rfl⟩
  have hexec : exec .releaseEnd s = .next (((((s.setAcc (fun a => { a with rel := none })).members (48 + b)).foldl (fun t o => t.hbAgain (o - 48))
      (s.setAcc (fun a => { a with rel := none }))).diagAgain (48 + b)).refreshOut (48 + b)) := by
    refine congrArg Host.Outcome.next ?_
    rw [hr]
    exact if_pos ⟨hedge, hle⟩
  have hagain := st_foldl (P := State.releaseIs none s.frm.frame s.count) (f := fun t o => t.hbAgain (o - 48))
    (l := (s.setAcc (fun a => { a with rel := none })).members (48 + b)) (fun u o k => State.releaseIs.edgeHb (t := u.hbNote (o - 48)) k (o - 48)) hover
  exact ⟨_, hexec, (hagain.diagAgain (48 + b)).refreshOut (48 + b)⟩

/-! ### Permits (R557 to R559) -/

theorem State.sticky_setAcc (s : State) (f : AccBlk → AccBlk) (n : Nat) : (s.setAcc f).sticky n = s.sticky n := rfl

theorem State.permitSend_disabled (hspent : s.acc.spent = false) (hen : s.bit F.accPmtEn = false) (p : Permit) (type : Nat) :
    s.permitSend p type = s := by
  unfold State.permitSend
  rw [if_neg (by simp [hspent]), if_pos hen]

theorem State.permitSpent_of_spent (hspent : s.acc.spent = true) :
    s.permitSpent = (s.setAcc (fun a => { a with permit := none })).raiseSource 167 := if_pos hspent

theorem State.permitSpent_of_unspent (hspent : s.acc.spent = false) : s.permitSpent = s := if_neg (by simp [hspent])

theorem State.permitSend_spent (hspent : s.acc.spent = true) (p : Permit) (type : Nat) :
    s.permitSend p type = (s.setAcc (fun a => { a with permit := none })).raiseSource 167 := by
  unfold State.permitSend
  rw [if_pos hspent, State.permitSpent_of_spent hspent]

section
variable (hspent : s.acc.spent = false) (hen : s.bit F.accPmtEn = true) {p : Permit} {type : Nat}
include hspent hen

theorem State.permitSend_noKey (hf : s.permitFrame p type = none) : s.permitSend p type = s.raiseSource 167 := by
  unfold State.permitSend
  rw [if_neg (by simp [hspent]), if_neg (by simp [hen]), hf]

/-- The sequence number once a frame has been built. -/
def AccBlk.frameBuilt (a : AccBlk) : AccBlk := { a with built := a.seq, seq := a.seq + 1, spent := decide (0xFFFFFFFF ≤ a.seq + 1) }

theorem State.permitSend_sent {m : CanMsg} (hf : s.permitFrame p type = some m) :
    s.permitSend p type = ((s.offerPermit m).setAcc AccBlk.frameBuilt).permitSpent := by
  unfold State.permitSend
  rw [if_neg (by simp [hspent]), if_neg (by simp [hen]), hf]
  rfl

end

/-- The controller of a permit's frames. -/
def State.permitPort (s : State) : Nat := min 5 (s.fld F.accPmtPort)

theorem State.permitPort_lt (s : State) : s.permitPort < 6 := by
  unfold State.permitPort
  omega

/-- A frame offered where none waits. -/
theorem State.offerPermit_free {m : CanMsg} (hnone : (s.cn s.permitPort).permit = none) :
    ((s.offerPermit m).cn s.permitPort).permit = some m ∧ (s.offerPermit m).acc = s.acc ∧ (s.offerPermit m).count = s.count ∧
      s.keeps (s.offerPermit m) [.can s.permitPort] := by
  have hfree : ¬(s.cn (min 5 (s.fld F.accPmtPort))).permit.isSome = true := fun h => by
    rw [show (s.cn (min 5 (s.fld F.accPmtPort))).permit = none from hnone] at h
    exact Bool.false_ne_true h
  unfold State.offerPermit
  dsimp only
  rw [if_neg hfree]
  exact ⟨congrArg Can.permit (State.cn_setCan_same s s.permitPort _ s.permitPort_lt), rfl, rfl, s.setCan_keeps _ _⟩

/-- A frame offered, where no class reacts: source 167 where one was still unsent. -/
theorem State.offerPermit_quiet (hs : s.canonical) (q : s.quiet) (m : CanMsg) :
    ((s.offerPermit m).cn s.permitPort).permit = some m ∧ (s.offerPermit m).acc = s.acc ∧ (s.offerPermit m).canonical ∧ (s.offerPermit m).quiet ∧
      (∀ k, (s.offerPermit m).feat k = s.feat k) ∧
      ((s.cn s.permitPort).permit.isSome = true → s.feat (sourceFeat 167) = true → (s.offerPermit m).sticky 167 = true) := by
  obtain ⟨hkeeps, hc, hq, hsticky⟩ := State.raiseSource_noted hs q (n := 167) (by decide) (by decide)
  have hacc : (s.raiseSource 167).acc = s.acc := hkeeps.2 .acc (by decide)
  have hhst : (s.raiseSource 167).hst = s.hst := hkeeps.2 .hst (by decide)
  have hcan (u : State) (f : Can → Can) (hf : ∀ c, (f c).permit = some m) : ((u.setCan s.permitPort f).cn s.permitPort).permit = some m := by
    rw [State.cn_setCan_same _ _ _ s.permitPort_lt]
    exact hf _
  unfold State.offerPermit
  dsimp only
  by_cases hp : (s.cn (min 5 (s.fld F.accPmtPort))).permit.isSome = true
  · rw [if_pos hp]
    refine ⟨hcan _ _ (fun _ => rfl), hacc, hc, hq, fun k => ?_, fun _ hf => hsticky hf⟩
    show (s.raiseSource 167).hst.eff.getLsbD k = s.hst.eff.getLsbD k
    rw [hhst]
  · rw [if_neg hp]
    exact ⟨hcan _ _ (fun _ => rfl), rfl, hs, q, fun _ => rfl, fun h => absurd h hp⟩

/-- A permit's frame is due: the next one is planned. -/
def State.permitDue (s : State) (p : Permit) : State :=
  (s.advance p.next).setAcc (fun a => { a with permit := some { p with next := p.next + 600000 * s.fld F.accPmtPer } })

theorem State.permitDue_spec (s : State) (p : Permit) :
    (s.permitDue p).acc = { s.acc with permit := some { p with next := p.next + 600000 * s.fld F.accPmtPer } } ∧
      (s.permitDue p).count = max s.count p.next ∧ s.keeps (s.permitDue p) [.acc, .count] ∧
      (s.permitDue p).permitFrame p 1 = (s.advance p.next).permitFrame p 1 ∧ ∀ k, (s.permitDue p).feat k = s.feat k :=
  ⟨rfl, rfl, State.keeps_trans (s.advance_keeps _) (State.setAcc_keeps _ _), rfl, fun _ => rfl⟩

theorem execPermitFrame_of_over {p : Permit} (h : s.acc.permit = some p) (hover : p.endAt ≤ p.next) : exec .permitFrame s = .next s := by
  refine congrArg Host.Outcome.next ?_
  rw [h]
  exact if_pos hover

theorem execPermitFrame_of_due {p : Permit} (h : s.acc.permit = some p) (hdue : p.next < p.endAt) :
    exec .permitFrame s = .next ((s.permitDue p).permitSend p 1) := by
  refine congrArg Host.Outcome.next ?_
  rw [h]
  exact if_neg (by omega)

theorem execPermit_of_none (h : s.acc.permit = none) : exec .permitFrame s = .next s ∧ exec .permitEnd s = .next s := by
  constructor
  all_goals
    refine congrArg Host.Outcome.next ?_
    rw [h]

/-- A final frame counts no seconds. -/
theorem State.permitFrame_final (s : State) (t : Nat) (p : Permit) : (s.advance t).permitFrame p 2 = s.permitFrame p 2 := by
  unfold State.permitFrame
  rw [if_pos rfl, if_pos rfl]
  rfl

/-- The moment of a permit's end. -/
def State.permitOver (s : State) (p : Permit) : State := if s.allow then s.advance p.endAt else s

theorem State.permitOver_spec (s : State) (p : Permit) : (s.permitOver p).acc = s.acc ∧ (∀ n, (s.permitOver p).cn n = s.cn n) ∧
    (∀ f, (s.permitOver p).fld f = s.fld f) ∧ (s.permitOver p).count = (if s.allow then max s.count p.endAt else s.count) ∧
    s.keeps (s.permitOver p) [.count] ∧ (s.permitOver p).permitFrame p 2 = s.permitFrame p 2 ∧ (s.canonical → (s.permitOver p).canonical) ∧
    (s.quiet → (s.permitOver p).quiet) ∧ ∀ k, (s.permitOver p).feat k = s.feat k := by
  unfold State.permitOver
  cases s.allow
  · exact ⟨rfl, fun _ => rfl, fun _ => rfl, rfl, s.keeps_refl _, rfl, id, id, fun _ => rfl⟩
  · exact ⟨rfl, fun _ => rfl, fun _ => rfl, rfl, s.advance_keeps _, s.permitFrame_final _ p, id, id, fun _ => rfl⟩

theorem execPermitEnd_eq {p : Permit} (h : s.acc.permit = some p) :
    exec .permitEnd s = .next (((s.permitOver p).permitSend p 2).setAcc (fun a => { a with permit := none })) := by
  refine congrArg Host.Outcome.next ?_
  rw [h]
  rfl

/-- A frame sent while the sequence goes on. -/
theorem State.permitSend_free (hspent : s.acc.spent = false) (hen : s.bit F.accPmtEn = true) {p : Permit} {type : Nat} {m : CanMsg}
    (hf : s.permitFrame p type = some m) (hseq : s.acc.seq + 1 < 0xFFFFFFFF) (hnone : (s.cn s.permitPort).permit = none) :
    ((s.permitSend p type).cn s.permitPort).permit = some m ∧
      (s.permitSend p type).acc = { s.acc with built := s.acc.seq, seq := s.acc.seq + 1 } ∧ (s.permitSend p type).count = s.count ∧
      s.keeps (s.permitSend p type) [.acc, .can s.permitPort] := by
  obtain ⟨hperm, hacc, hcount, hkeeps⟩ := State.offerPermit_free (m := m) hnone
  have hgoes : decide (0xFFFFFFFF ≤ s.acc.seq + 1) = false := decide_eq_false (by omega)
  have hblk : s.acc.frameBuilt = { s.acc with built := s.acc.seq, seq := s.acc.seq + 1 } := by
    unfold AccBlk.frameBuilt
    rw [hgoes, ← hspent]
  have hbuilt : ((s.offerPermit m).setAcc AccBlk.frameBuilt).acc = { s.acc with built := s.acc.seq, seq := s.acc.seq + 1 } :=
    (congrArg AccBlk.frameBuilt hacc).trans hblk
  rw [State.permitSend_sent hspent hen hf, State.permitSpent_of_unspent ((congrArg AccBlk.spent hbuilt).trans hspent)]
  exact ⟨hperm, hbuilt, hcount, State.keeps_trans hkeeps (State.setAcc_keeps _ _)⟩

/-- A frame sent that ends the sequence, or while another is unsent. -/
theorem State.permitSend_reported (hs : s.canonical) (q : s.quiet) (hspent : s.acc.spent = false) (hen : s.bit F.accPmtEn = true)
    {p : Permit} {type : Nat} {m : CanMsg} (hf : s.permitFrame p type = some m)
    (hreport : (s.cn s.permitPort).permit.isSome = true ∨ 0xFFFFFFFF ≤ s.acc.seq + 1) :
    ((s.permitSend p type).cn s.permitPort).permit = some m ∧
      (s.permitSend p type).acc = { s.acc with
        permit := if 0xFFFFFFFF ≤ s.acc.seq + 1 then none else s.acc.permit
        built := s.acc.seq, seq := s.acc.seq + 1, spent := decide (0xFFFFFFFF ≤ s.acc.seq + 1) } ∧
      (s.feat (sourceFeat 167) = true → (s.permitSend p type).sticky 167 = true) := by
  obtain ⟨hperm, hacc, hc, hq, hfeat, hsticky⟩ := State.offerPermit_quiet hs q m
  have hbuilt : ((s.offerPermit m).setAcc AccBlk.frameBuilt).acc = s.acc.frameBuilt := congrArg AccBlk.frameBuilt hacc
  rw [State.permitSend_sent hspent hen hf]
  by_cases hend : 0xFFFFFFFF ≤ s.acc.seq + 1
  · have hblk : s.acc.frameBuilt = { s.acc with built := s.acc.seq, seq := s.acc.seq + 1, spent := true } := by
      unfold AccBlk.frameBuilt
      rw [decide_eq_true hend]
    rw [hblk] at hbuilt
    have hused : ((s.offerPermit m).setAcc AccBlk.frameBuilt).acc.spent = true := congrArg AccBlk.spent hbuilt
    have hlast : (((s.offerPermit m).setAcc AccBlk.frameBuilt).setAcc (fun a => { a with permit := none })).canonical :=
      State.canonical_setAcc (State.canonical_setAcc hc _) _
    have hquiet : (((s.offerPermit m).setAcc AccBlk.frameBuilt).setAcc (fun a => { a with permit := none })).quiet :=
      State.quiet_setAcc (State.quiet_setAcc hq _) _
    obtain ⟨hkeeps, -, -, hraised⟩ := State.raiseSource_noted hlast hquiet (n := 167) (by decide) (by decide)
    rw [State.permitSpent_of_spent hused, if_pos hend, decide_eq_true hend]
    refine ⟨(congrArg Can.permit (hkeeps.2 (.can s.permitPort) (by simp))).trans hperm, ?_, fun h => hraised ?_⟩
    · exact (hkeeps.2 .acc (by decide)).trans (congrArg (fun a : AccBlk => { a with permit := none }) hbuilt)
    · rw [State.feat_setAcc, State.feat_setAcc, hfeat]
      exact h
  · have hblk : s.acc.frameBuilt = { s.acc with built := s.acc.seq, seq := s.acc.seq + 1, spent := false } := by
      unfold AccBlk.frameBuilt
      rw [decide_eq_false hend]
    rw [hblk] at hbuilt
    have hgoes : ((s.offerPermit m).setAcc AccBlk.frameBuilt).acc.spent = false := congrArg AccBlk.spent hbuilt
    rw [State.permitSpent_of_unspent hgoes, if_neg hend, decide_eq_false hend]
    exact ⟨hperm, hbuilt, fun h => (State.sticky_setAcc _ _ _).trans (hsticky (hreport.resolve_right hend) h)⟩

/-! ### Button packets (R548, R561) -/

theorem execButtonPacket_stopped (h : s.accRuns = false) (packet : List Nat) : exec (.buttonPacket packet) s = .next s :=
  congrArg Host.Outcome.next (if_pos h)

theorem State.slotTaken_closed (h : s.acc.srch.phase ≠ 2) (packet : Bytes) : s.slotTaken packet = s := if_pos (.inl h)

section
variable {packet : List Nat} (hrun : s.accRuns = true) (hphase : s.acc.srch.phase ≠ 2)
include hrun hphase

theorem execButtonPacket_discarded (hbad : packetOk packet 0x31 16 = false) : exec (.buttonPacket packet) s = .next s.uhfRead := by
  refine congrArg Host.Outcome.next ?_
  rw [if_neg (by simp [hrun]), if_pos hbad, State.slotTaken_closed (s := s.uhfRead) hphase]

variable (hgood : packetOk packet 0x31 16 = true)
include hgood

theorem execButtonPacket_unknown (h : s.tokenEntry (leAt packet 1 4) = none) :
    exec (.buttonPacket packet) s = .next (s.uhfRead.buttonReject (leAt packet 1 4) false) := by
  refine congrArg Host.Outcome.next ?_
  rw [if_neg (by simp [hrun]), if_neg (by simp [hgood]), State.slotTaken_closed (s := s.uhfRead) hphase]
  dsimp only
  rw [h]

variable {t : Nat} (hentry : s.tokenEntry (leAt packet 1 4) = some t)
include hentry

theorem execButtonPacket_badMac
    (hbad : ∀ k, s.tokenKey (leAt packet 1 4) = some k → (cmac k (sub packet 1 9)).take 4 ≠ sub packet 10 4) :
    exec (.buttonPacket packet) s = .next (s.uhfRead.buttonReject (leAt packet 1 4) true) := by
  refine congrArg Host.Outcome.next ?_
  rw [if_neg (by simp [hrun]), if_neg (by simp [hgood]), State.slotTaken_closed (s := s.uhfRead) hphase]
  dsimp only
  rw [hentry]
  cases hk : s.tokenKey (leAt packet 1 4) with
  | none => rfl
  | some k => exact if_pos (hbad k hk)

theorem execButtonPacket_sound {k : Bytes} (hkey : s.tokenKey (leAt packet 1 4) = some k)
    (hmac : (cmac k (sub packet 1 9)).take 4 = sub packet 10 4) :
    exec (.buttonPacket packet) s = .next (s.uhfRead.buttonCount t (leAt packet 1 4) (leAt packet 5 4) (packet.getD 9 0)) := by
  refine congrArg Host.Outcome.next ?_
  rw [if_neg (by simp [hrun]), if_neg (by simp [hgood]), State.slotTaken_closed (s := s.uhfRead) hphase]
  dsimp only
  rw [hentry]
  dsimp only
  rw [hkey]
  exact if_neg (by simp [hmac])

end

theorem State.tokenEntry_lt {tid t : Nat} (h : s.tokenEntry tid = some t) : t < 32 := (mem_upto 32 t).mp (List.mem_of_find?_eq_some h)

/-- An accepted press: the counter, the log and the note of the button. -/
theorem State.buttonAccept_spec (hs : s.canonical) {t : Nat} (ht : t < 32) (hcause : s.fld F.accEvenCause = 0) (tid cnt btn : Nat) :
    let u := s.buttonAccept t tid cnt btn
    u.fld (F.accTcntCnt t) = cnt % 2 ^ 32 ∧ u.fld (F.accTcfgPend t) = 0 ∧
      u.acc = { s.acc with pend := updN s.acc.pend t (fun _ => none), btnF := true, btn := btn % 256 + 256 * t } ∧
      u.fld F.accLogidxNext = (s.fld F.accLogidxNext + 1) % 16 ∧ (∀ a, u.mread a = s.mread a) ∧ u.frm.pend = s.frm.pend := by
  have h1 := State.canonical_setFld hs (F.accTcntCnt t) cnt
  obtain ⟨h2, hnext, -, -, hkeeps⟩ := State.accLog_spec h1 tid 9 0 0
  have hcnt : (s.setFld (F.accTcntCnt t) cnt).fld F.accLogidxNext = s.fld F.accLogidxNext :=
    State.fld_setFld_other _ _ _ _ (by simp only [F.accTcntCnt, F.accLogidxNext]; omega)
  have hcntLog := State.fld_accLog h1 tid 9 0 0 (f := F.accTcntCnt t) (by simp only [F.accTcntCnt, F.accLogidxNext]; omega)
    (.inl (by simp only [F.accTcntCnt]; omega))
  have hevenLog := State.fld_accLog h1 tid 9 0 0 (f := F.accEvenCause) (by decide) (.inl (by decide))
  have hrest : s.keeps ((s.setFld (F.accTcntCnt t) cnt).accLog tid 9 0 0) _ := State.keeps_trans (s.setFld_keeps _ _) hkeeps
    (List.subset_append_left _ _) (List.subset_append_right _ _)
  have hacc : ((s.setFld (F.accTcntCnt t) cnt).accLog tid 9 0 0).acc = s.acc := hrest.2 .acc (by simp)
  have hpend : ((s.setFld (F.accTcntCnt t) cnt).accLog tid 9 0 0).frm.pend = s.frm.pend := hrest.2 .events (by simp)
  have hmem (a : Nat) : ((s.setFld (F.accTcntCnt t) cnt).accLog tid 9 0 0).mread a = s.mread a := State.mread_of_keeps hrest (by simp)
  have heven : (s.setFld (F.accTcntCnt t) cnt).fld F.accEvenCause = s.fld F.accEvenCause :=
    State.fld_setFld_other _ _ _ _ (by simp only [F.accTcntCnt, F.accEvenCause]; omega)
  unfold State.buttonAccept
  generalize (s.setFld (F.accTcntCnt t) cnt).accLog tid 9 0 0 = v at *
  have hother {f : Fld} (hf : f.addr ≠ (F.accTcfgPend t).addr) : (v.setFld (F.accTcfgPend t) 0).fld f = v.fld f := State.fld_setFld_other _ _ _ _ hf
  have hoff : (((v.setFld (F.accTcfgPend t) 0).setAcc (fun a => { a with
      pend := updN a.pend t (fun _ => none), btnF := true, btn := btn % 256 + 256 * t })).fld F.accEvenCause).testBit 1 = false := by
    have hzero : (v.setFld (F.accTcfgPend t) 0).fld F.accEvenCause = 0 := by
      rw [hother (by simp only [F.accTcfgPend, F.accEvenCause]; omega), hevenLog, heven, hcause]
    exact (congrArg (Nat.testBit · 1) hzero).trans (Nat.zero_testBit 1)
  rw [State.accCause_of_disabled hoff]
  refine ⟨?_, State.fld_put h2 (F.accTcfgPend t) 0, by rw [← hacc]; rfl, ?_, fun a => hmem a, hpend⟩
  · exact (hother (by simp only [F.accTcfgPend, F.accTcntCnt]; omega)).trans (hcntLog.trans (State.fld_put hs (F.accTcntCnt t) cnt))
  · exact (hother (by simp only [F.accTcfgPend, F.accLogidxNext]; omega)).trans (hnext.trans (by rw [hcnt]))

/-- A rejected packet is logged. -/
theorem State.buttonReject_spec (hs : s.canonical) (tid : Nat) :
    let u := s.buttonReject tid false
    u.acc = s.acc ∧ u.fld F.accLogidxNext = (s.fld F.accLogidxNext + 1) % 16 ∧
      u.fld (F.accLogEntry (2 * s.fld F.accLogidxNext)) = tid % 2 ^ 32 ∧
      u.fld (F.accLogEntry (2 * s.fld F.accLogidxNext + 1)) = 10 + 4096 * (s.frm.frame.toNat % 2 ^ 20) ∧
      s.keeps u [.reg F.accLogidxNext.addr, .reg (F.accLogEntry (2 * s.fld F.accLogidxNext)).addr,
        .reg (F.accLogEntry (2 * s.fld F.accLogidxNext + 1)).addr] := by
  obtain ⟨-, hnext, hfirst, hsecond, hkeeps⟩ := State.accLog_spec hs tid 10 0 0
  exact ⟨hkeeps.2 .acc (by simp), hnext, hfirst, hsecond, hkeeps⟩

/-- One with a wrong MAC sets source 166 besides, where no class reacts. -/
theorem State.buttonReject_badMac (hs : s.canonical) (q : s.quiet) (tid : Nat) :
    let u := s.buttonReject tid true
    u.acc = s.acc ∧ u.fld F.accLogidxNext = (s.fld F.accLogidxNext + 1) % 16 ∧
      u.fld (F.accLogEntry (2 * s.fld F.accLogidxNext)) = tid % 2 ^ 32 ∧ (s.feat (sourceFeat 166) = true → u.sticky 166 = true) ∧
      ∀ t, t < 32 → u.fld (F.accTcntCnt t) = s.fld (F.accTcntCnt t) := by
  obtain ⟨hc, hnext, hfirst, -, hkeeps⟩ := State.accLog_spec hs tid 10 0 0
  have hcnt (t : Nat) (ht : t < 32) := State.fld_accLog hs tid 10 0 0 (f := F.accTcntCnt t) (by simp only [F.accTcntCnt, F.accLogidxNext]; omega)
    (.inl (by simp only [F.accTcntCnt]; omega))
  have hq := State.quiet_accLog hs q tid 10 0 0
  have hacc : (s.accLog tid 10 0 0).acc = s.acc := hkeeps.2 .acc (by simp)
  have hhst : (s.accLog tid 10 0 0).hst = s.hst := hkeeps.2 .hst (by simp)
  obtain ⟨hraised, -, -, hsticky⟩ := State.raiseSource_noted hc hq (n := 166) (by decide) (by decide)
  have hfld (f : Fld) (hf : 0x40060000 ≤ f.addr) : ((s.accLog tid 10 0 0).raiseSource 166).fld f = (s.accLog tid 10 0 0).fld f :=
    State.fld_of_keeps hraised f (by simp only [List.mem_singleton, Part.reg.injEq, F.winStickyStk]; omega)
  refine ⟨(hraised.2 .acc (by decide)).trans hacc, (hfld _ (by decide)).trans hnext,
    (hfld _ (by simp only [F.accLogEntry]; omega)).trans hfirst, fun h => hsticky ?_,
    fun t ht => (hfld _ (by simp only [F.accTcntCnt]; omega)).trans (hcnt t ht)⟩
  show (s.accLog tid 10 0 0).hst.eff.getLsbD _ = true
  rw [hhst]
  exact h

/-- The counter's distance ahead of the last one stored. -/
def State.buttonAhead (s : State) (t cnt : Nat) : Nat := (cnt + 2 ^ 32 - s.fld (F.accTcntCnt t)) % 2 ^ 32

theorem State.buttonCount_near {t tid cnt btn : Nat} (h : 1 ≤ s.buttonAhead t cnt ∧ s.buttonAhead t cnt ≤ 256) :
    s.buttonCount t tid cnt btn = s.buttonAccept t tid cnt btn := if_pos (.inr h)

theorem State.buttonCount_follows {t tid cnt btn c at_ : Nat} (hp : nth s.acc.pend t none = some (c, btn, at_)) (hc : cnt = (c + 1) % 2 ^ 32)
    (hin : s.count ≤ at_ + 1200000000) : s.buttonCount t tid cnt btn = s.buttonAccept t tid cnt btn := by
  unfold State.buttonCount
  dsimp only
  rw [hp]
  exact if_pos (.inl (by simp [hc, hin]))

section
variable {t tid cnt btn : Nat} (hp : nth s.acc.pend t none = none)
include hp

theorem State.buttonCount_far (h : 257 ≤ s.buttonAhead t cnt ∧ s.buttonAhead t cnt ≤ 65536) : s.buttonCount t tid cnt btn =
    (s.setFld (F.accTcfgPend t) 1).setAcc (fun a => { a with pend := updN a.pend t (fun _ => some (cnt, btn, s.count)) }) := by
  have hnot : ¬(false = true ∨ (1 ≤ s.buttonAhead t cnt ∧ s.buttonAhead t cnt ≤ 256)) := fun hc => by
    rcases hc with hc | hc
    · exact Bool.false_ne_true hc
    · omega
  unfold State.buttonCount
  dsimp only
  rw [hp]
  exact (if_neg hnot).trans (if_pos h)

theorem State.buttonCount_rejected (h : s.buttonAhead t cnt = 0 ∨ 65536 < s.buttonAhead t cnt) :
    s.buttonCount t tid cnt btn = s.buttonReject tid false := by
  have hnot : ¬(false = true ∨ (1 ≤ s.buttonAhead t cnt ∧ s.buttonAhead t cnt ≤ 256)) := fun hc => by
    rcases hc with hc | hc
    · exact Bool.false_ne_true hc
    · omega
  have hfar : ¬(257 ≤ s.buttonAhead t cnt ∧ s.buttonAhead t cnt ≤ 65536) := by omega
  unfold State.buttonCount
  dsimp only
  rw [hp]
  exact (if_neg hnot).trans (if_neg hfar)

end

/-! ### URAW and PEPOCH (R548, R559, R564) -/

theorem execUrawAccess_of_on (h : s.storesOff = false) (o : Option Word) (back : Nat) : exec (.urawAccess o back) s = .next (s.urawAccess o back) :=
  congrArg Host.Outcome.next (State.store_of_on h _ _)

theorem execPepochWrite_of_on (h : s.storesOff = false) (w : Word) (job : Bool) : exec (.pepochWrite w job) s = .next (s.pepochWrite w job) :=
  congrArg Host.Outcome.next (State.store_of_on h _ _)

theorem State.urawAccess_running (h : s.bit F.accCfgEn = true) (o : Option Word) (back : Nat) :
    s.urawAccess o back = s.setBit F.accStatUrawrej := if_pos h

theorem State.urawAccess_shift (hs : s.canonical) (h : s.bit F.accCfgEn = false) (v : Word) (back : Nat) :
    let t := s.urawAccess (some v) back
    t.fld F.accUrawData = back % 256 ∧ t.fld F.accUrawCs = v.toNat / 256 % 2 ∧ s.keeps t [.reg F.accUrawData.addr] := by
  have heq : s.urawAccess (some v) back = (s.setFld F.accUrawCs (getBits v 8 1)).setFld F.accUrawData (back % 256) := if_neg (by simp [h])
  have h1 := State.canonical_setFld hs F.accUrawCs (getBits v 8 1)
  have hcs : s.keeps (s.setFld F.accUrawCs (getBits v 8 1)) [.reg F.accUrawData.addr] := s.setFld_keeps F.accUrawCs _
  rw [heq]
  refine ⟨(State.fld_put h1 F.accUrawData _).trans (Nat.mod_mod _ _), ?_,
    State.keeps_trans (n := [.reg F.accUrawData.addr]) hcs (State.setFld_keeps _ F.accUrawData _)⟩
  have hread := (State.fld_put_beside h1 F.accUrawData F.accUrawCs (back % 256)).trans (State.fld_put hs F.accUrawCs (getBits v 8 1))
  exact hread.trans ((congrArg (· % 2) (getBits_div v 8 1)).trans (Nat.mod_mod _ _))

theorem State.pepochWrite_spec (hs : s.canonical) (w : Word) :
    let t := s.pepochWrite w false
    t.fld F.accPepochEpoch = w.toNat % 65536 ∧ t.bit F.accStatEpoch = true ∧ t.acc = { s.acc with seq := 0, spent := false } ∧
      s.keeps t [.acc, .reg F.accPepochEpoch.addr, .reg F.accStatEpoch.addr] := by
  have h1 := State.canonical_setFld hs F.accPepochEpoch (getBits w 0 16)
  refine ⟨?_, State.bit_setBit_same h1 rfl (by decide), rfl, State.keeps_trans (State.keeps_trans
    (n := [.reg F.accPepochEpoch.addr, .reg F.accStatEpoch.addr]) (s.setFld_keeps _ _) (State.setFld_keeps _ F.accStatEpoch 1)) (State.setAcc_keeps _ _)⟩
  refine (State.fld_setFld_other (s.setFld F.accPepochEpoch (getBits w 0 16)) F.accStatEpoch F.accPepochEpoch 1 (by decide)).trans ?_
  exact (State.fld_put hs F.accPepochEpoch _).trans (Nat.mod_mod _ _)

end

/-- Source 167 where no class reacts. -/
theorem State.permitReported {s : State} (hs : s.canonical) (q : s.quiet) : (s.raiseSource 167).acc = s.acc ∧
    (∀ n, (s.raiseSource 167).cn n = s.cn n) ∧ (s.feat (sourceFeat 167) = true → (s.raiseSource 167).sticky 167 = true) := by
  obtain ⟨hkeeps, -, -, hsticky⟩ := State.raiseSource_noted hs q (n := 167) (by decide) (by decide)
  exact ⟨hkeeps.2 .acc (by decide), fun n => hkeeps.2 (.can n) (by simp), hsticky⟩

/-- A permit's frame and its end, each by what stands in the way of its frame. -/
theorem permit_steps (p : Permit) (s : State) (h : s.acc.permit = some p) :
    let n := s.permitPort
    let p1 := { p with next := p.next + 600000 * s.fld F.accPmtPer }
    let endAt := if s.allow then max s.count p.endAt else s.count
    (s.acc.spent = false → s.bit F.accPmtEn = false →
      (p.next < p.endAt → ∃ t, exec .permitFrame s = .next t ∧ t.acc = { s.acc with permit := some p1 } ∧ t.count = max s.count p.next ∧
        s.keeps t [.acc, .count]) ∧
      (∃ t, exec .permitEnd s = .next t ∧ t.acc = { s.acc with permit := none } ∧ t.count = endAt ∧ s.keeps t [.acc, .count])) ∧
    (s.acc.spent = true → s.canonical → s.quiet →
      (p.next < p.endAt → ∃ t, exec .permitFrame s = .next t ∧ t.acc = { s.acc with permit := none } ∧
        (s.feat (sourceFeat 167) = true → t.sticky 167 = true)) ∧
      (∃ t, exec .permitEnd s = .next t ∧ t.acc = { s.acc with permit := none } ∧ (s.feat (sourceFeat 167) = true → t.sticky 167 = true))) ∧
    (∀ (m : CanMsg), s.acc.spent = false → s.bit F.accPmtEn = true → s.acc.seq + 1 < 0xFFFFFFFF → (s.cn n).permit = none →
      (p.next < p.endAt → (s.advance p.next).permitFrame p 1 = some m → ∃ t, exec .permitFrame s = .next t ∧ (t.cn n).permit = some m ∧
        t.acc = { s.acc with permit := some p1, built := s.acc.seq, seq := s.acc.seq + 1 } ∧ t.count = max s.count p.next ∧
        s.keeps t [.acc, .count, .can n]) ∧
      (s.permitFrame p 2 = some m → ∃ t, exec .permitEnd s = .next t ∧ (t.cn n).permit = some m ∧
        t.acc = { s.acc with permit := none, built := s.acc.seq, seq := s.acc.seq + 1 } ∧ t.count = endAt ∧ s.keeps t [.acc, .count, .can n])) := by
  obtain ⟨hacc, hcount, hkeeps, hframe, hfeat⟩ := s.permitDue_spec p
  obtain ⟨oacc, ocn, ofld, ocount, okeeps, oframe, ocanon, oquiet, ofeat⟩ := s.permitOver_spec p
  have obit : (s.permitOver p).bit F.accPmtEn = s.bit F.accPmtEn := by
    unfold State.bit
    rw [ofld]
  have oport : (s.permitOver p).permitPort = s.permitPort := by
    unfold State.permitPort
    rw [ofld]
  refine ⟨fun hspent hen => ⟨fun hdue => ?_, ?_⟩, fun hspent hs q => ⟨fun hdue => ?_, ?_⟩, fun m hspent hen hseq hnone => ⟨fun hdue hf => ?_, fun hf => ?_⟩⟩
  · have hoff := State.permitSend_disabled (s := s.permitDue p) hspent hen p 1
    exact ⟨_, (execPermitFrame_of_due h hdue).trans (congrArg _ hoff), hacc, hcount, hkeeps⟩
  · have hoff := State.permitSend_disabled (s := s.permitOver p) (by rw [oacc]; exact hspent) (obit.trans hen) p 2
    exact ⟨(s.permitOver p).setAcc (fun a => { a with permit := none }), by rw [execPermitEnd_eq h, hoff], congrArg (fun a : AccBlk => { a with permit := none }) oacc, ocount,
      State.keeps_trans okeeps (State.setAcc_keeps _ _)⟩
  · have hsp := State.permitSend_spent (s := s.permitDue p) hspent p 1
    obtain ⟨racc, -, rsticky⟩ := State.permitReported (s := (s.permitDue p).setAcc (fun a => { a with permit := none })) hs q
    exact ⟨_, (execPermitFrame_of_due h hdue).trans (congrArg _ hsp), racc, fun hf => rsticky (by rw [State.feat_setAcc, hfeat]; exact hf)⟩
  · have hsp := State.permitSend_spent (s := s.permitOver p) (by rw [oacc]; exact hspent) p 2
    have hc : ((s.permitOver p).setAcc (fun a => { a with permit := none })).canonical := ocanon hs
    have hq : ((s.permitOver p).setAcc (fun a => { a with permit := none })).quiet := oquiet q
    obtain ⟨racc, -, rsticky⟩ := State.permitReported hc hq
    refine ⟨(((s.permitOver p).setAcc (fun a => { a with permit := none })).raiseSource 167).setAcc (fun a => { a with permit := none }),
      by rw [execPermitEnd_eq h, hsp], ?_, fun hf => ?_⟩
    · exact congrArg (fun a : AccBlk => { a with permit := none }) (racc.trans (congrArg (fun a : AccBlk => { a with permit := none }) oacc))
    · have hraised := rsticky (by rw [State.feat_setAcc, ofeat]; exact hf)
      rw [State.sticky_setAcc]
      exact hraised
  · obtain ⟨fcn, facc, fcount, fkeeps⟩ := State.permitSend_free (s := s.permitDue p) (p := p) (type := 1) hspent hen (hframe.trans hf) hseq hnone
    rw [show (s.permitDue p).permitPort = s.permitPort from rfl] at fcn fkeeps
    exact ⟨_, execPermitFrame_of_due h hdue, fcn, facc, fcount.trans hcount, State.keeps_trans hkeeps fkeeps⟩
  · obtain ⟨fcn, facc, fcount, fkeeps⟩ := State.permitSend_free (s := s.permitOver p) (p := p) (type := 2) (m := m) (by rw [oacc]; exact hspent)
      (obit.trans hen) (oframe.trans hf) (by rw [oacc]; exact hseq) (by rw [oport, ocn]; exact hnone)
    rw [oport] at fcn fkeeps
    refine ⟨_, execPermitEnd_eq h, fcn, ?_, fcount.trans ocount, State.keeps_trans (State.keeps_trans (n := [.acc, .count, .can s.permitPort])
      okeeps fkeeps) (State.setAcc_keeps _ _)⟩
    refine (congrArg (fun a : AccBlk => { a with permit := none }) facc).trans ?_
    rw [oacc]

/-- Settles O53: the release's end, the permits by their frames, the button packets by the counter, and the two registers. -/
theorem releaseAndPermitSteps : Obligations.ReleaseAndPermitSteps := by
  refine ⟨fun s => ⟨execReleaseEnd_of_none, fun b h e hr => ⟨fun hedge hle => execReleaseEnd_due hr hedge hle, execReleaseEnd_early hr⟩⟩,
    fun s => execPermit_of_none, fun p s h => ?_, fun packet s => ⟨fun hrun => execButtonPacket_stopped hrun packet, fun hrun hphase hbad => ?_,
      fun hs hrun hphase hgood => ⟨fun t k hentry hkey hmac => ?_, fun t hentry hbad q => ?_, fun hentry => ?_⟩⟩,
    fun o v back w job s => ⟨fun hd => ⟨?_, ?_⟩, fun hd hoff => ⟨?_, ?_⟩, fun hs hoff => ⟨fun hen => ?_, fun hen => ?_, fun hen => ?_, fun hj => ?_, fun hj => ?_⟩⟩⟩
  · obtain ⟨hoff, hspent, hsent⟩ := permit_steps p s h
    refine ⟨execPermitFrame_of_over h, hoff, hspent, hsent, fun m hsp hen hs q hdue hf hrep => ?_, fun hsp hen hs q hkey hdue => ?_⟩
    · obtain ⟨hcn, hacc, hsticky⟩ := State.permitSend_reported (s := s.permitDue p) (p := p) (type := 1) hs q hsp hen
        ((s.permitDue_spec p).2.2.2.1.trans hf) hrep
      exact ⟨_, execPermitFrame_of_due h hdue, hcn, hacc, fun k => hsticky (((s.permitDue_spec p).2.2.2.2 _).trans k)⟩
    · have hnone : (s.permitDue p).permitFrame p 1 = none := by
        unfold State.permitFrame
        rw [show (s.permitDue p).key128 ((s.permitDue p).fld F.accKeysPks) = none from hkey]
        rfl
      obtain ⟨racc, rcn, rsticky⟩ := State.permitReported (s := s.permitDue p) hs q
      exact ⟨_, (execPermitFrame_of_due h hdue).trans (congrArg _ (State.permitSend_noKey (s := s.permitDue p) hsp hen hnone)), racc,
        congrArg Can.permit (rcn _), fun k => rsticky (((s.permitDue_spec p).2.2.2.2 _).trans k)⟩
  · exact ⟨_, execButtonPacket_discarded hrun hphase hbad, rfl, s.setAcc_keeps _⟩
  · have ht := State.tokenEntry_lt hentry
    have hread : s.uhfRead.canonical := hs
    have hexec := execButtonPacket_sound hrun hphase hgood hentry hkey hmac
    refine ⟨fun h1 h2 hcause => ?_, fun h1 h2 hnone => ?_, fun c at_ h1 hpend hc hin hcause => ?_, fun hd hnone => ?_⟩
    · exact ⟨_, hexec.trans (congrArg _ (State.buttonCount_near (s := s.uhfRead) ⟨h1, h2⟩)), State.buttonAccept_spec hread ht hcause _ _ _⟩
    · have hset := State.canonical_setFld hread (F.accTcfgPend t) 1
      refine ⟨_, hexec.trans (congrArg _ (State.buttonCount_far (s := s.uhfRead) hnone ⟨h1, h2⟩)), ?_, State.fld_put hread (F.accTcfgPend t) 1, rfl, ?_⟩
      · exact State.fld_setFld_other s.uhfRead (F.accTcfgPend t) (F.accTcntCnt t) 1 (by simp only [F.accTcntCnt, F.accTcfgPend]; omega)
      · exact State.keeps_trans (State.keeps_trans (n := [.acc, .reg (F.accTcfgPend t).addr]) (s.setAcc_keeps _) (State.setFld_keeps _ _ _))
          (State.setAcc_keeps _ _)
    · obtain ⟨hcnt, hpnd, hacc, -⟩ := State.buttonAccept_spec hread ht hcause (leAt packet 1 4) (leAt packet 5 4) (packet.getD 9 0)
      exact ⟨_, hexec.trans (congrArg _ (State.buttonCount_follows (s := s.uhfRead) hpend hc hin)), hcnt, hpnd, congrArg AccBlk.btnF hacc,
        congrArg AccBlk.btn hacc⟩
    · obtain ⟨hacc, hnext, hfirst, hsecond, hkeeps⟩ := State.buttonReject_spec hread (leAt packet 1 4)
      exact ⟨_, hexec.trans (congrArg _ (State.buttonCount_rejected (s := s.uhfRead) hnone hd)), hacc, hnext, hfirst, hsecond,
        State.keeps_trans (s.setAcc_keeps _) hkeeps (by simp) (List.subset_cons_self _ _)⟩
  · have hread : s.uhfRead.canonical := hs
    obtain ⟨hacc, hnext, hfirst, hsticky, hcnt⟩ := State.buttonReject_badMac hread q (leAt packet 1 4)
    exact ⟨_, execButtonPacket_badMac hrun hphase hgood hentry hbad, hacc, hnext, hfirst, hsticky, hcnt⟩
  · have hread : s.uhfRead.canonical := hs
    obtain ⟨hacc, hnext, hfirst, hsecond, hkeeps⟩ := State.buttonReject_spec hread (leAt packet 1 4)
    exact ⟨_, execButtonPacket_unknown hrun hphase hgood hentry, hfirst, hsecond, hnext, hacc, State.keeps_trans (s.setAcc_keeps _) hkeeps (by simp) (List.subset_cons_self _ _)⟩
  · exact congrArg _ (State.store_of_dip hd _ _)
  · exact congrArg _ (State.store_of_dip hd _ _)
  · exact congrArg _ (State.store_of_off hd hoff _ _)
  · exact congrArg _ (State.store_of_off hd hoff _ _)
  · exact ⟨_, execUrawAccess_of_on hoff _ _, State.urawAccess_shift hs hen v back⟩
  · exact (execUrawAccess_of_on hoff _ _).trans (congrArg _ (if_neg (by simp [hen])))
  · exact ⟨_, (execUrawAccess_of_on hoff _ _).trans (congrArg _ (State.urawAccess_running hen o back)), State.bit_setBit_same hs rfl (by decide),
      s.setFld_keeps _ _⟩
  · subst hj
    exact ⟨_, execPepochWrite_of_on hoff _ _, State.pepochWrite_spec hs w⟩
  · subst hj
    exact ⟨_, (execPepochWrite_of_on hoff _ _).trans (congrArg _ (if_pos rfl)), State.bit_setBit_same hs rfl (by decide), s.setFld_keeps F.accStatPrivrej 1⟩

end Sys2Proof.Machine
end

section
/-!
PROOFS. Searches for tokens (O52).
-/

/- One proof at a time: the check of the whole text comes near its limit of memory. -/
set_option Elab.async false

namespace Sys2Proof.Machine

section
variable {s : State}

/-! ### Reactions and the access block -/

theorem State.acc_demand (s : State) (d : Nat) : (s.demand d).acc = s.acc := by
  unfold State.demand
  dsimp only
  split_ifs <;> rfl

theorem State.acc_pendEvent (s : State) (n : Nat) : (s.pendEvent n).acc = s.acc := by
  unfold State.pendEvent
  dsimp only
  split_ifs
  · rfl
  · rfl
  · exact State.acc_demand _ _

theorem State.acc_raiseEvent (hs : s.canonical) (q : s.quiet) (n : Nat) : (s.raiseEvent n).acc = s.acc := by
  have hlockacc : Reacted s (s.setBit F.pwrStatLockacc) := (Reacted.refl s).setReg _ _ (.inr (.inr (.inr (.inr (.inl rfl)))))
  have hc := State.canonical_setFld hs F.pwrStatLockacc 1
  unfold State.raiseEvent
  split
  · exact (State.raiseSource_noted hc (hlockacc.quiet q) (n := 31) (by decide) (by decide)).1.2 .acc (by decide)
  · exact s.acc_pendEvent n

/-- A cause of event 74 where no class reacts. -/
theorem State.accCause_quiet (hs : s.canonical) (q : s.quiet) (c : Nat) : (s.accCause c).acc = s.acc ∧
    ∀ k, k < 192 → k ≠ 31 → (s.accCause c).sticky k = s.sticky k := by
  unfold State.accCause
  split
  · have hset := State.canonical_setFld hs F.accEvcCause (s.fld F.accEvcCause ||| 2 ^ c)
    have hquiet := State.quiet_setFld q F.accEvcCause (s.fld F.accEvcCause ||| 2 ^ c) (.inr (by decide))
    refine ⟨State.acc_raiseEvent hset hquiet 74, fun k hk h31 => (State.sticky_raiseEvent hset hquiet (by decide) hk h31).trans ?_⟩
    exact State.sticky_of_reg (State.reg_setReg_other _ _ _ _ (by simp only [F.winStickyStk, F.accEvcCause]; omega))
  · exact ⟨rfl, fun _ _ _ => rfl⟩

/-- A cause of event 74 while no search runs. -/
theorem State.accCause_idle (hphase : s.acc.srch.phase = 0) (hretry : s.acc.srch.retry = false) (c : Nat) : (s.accCause c).acc = s.acc ∧
    (s.accCause c).count = s.count := by
  unfold State.accCause
  split
  · exact ⟨(acc_undisturbed hphase hretry).raiseEvent 74 (by rfl), ((Reacted.refl _).raiseEvent 74 (by decide)).count⟩
  · exact ⟨rfl, rfl⟩

/-! ### The end of a sequence (R555, R563) -/

theorem State.accDone_spec (s : State) (r : TokResult) : (s.accDone r).acc = { s.acc with srch := {}, last := r } ∧ (s.accDone r).count = s.count ∧
    (s.fld F.accEvenCause = 0 → s.keeps (s.accDone r) [.acc]) ∧
    (s.canonical → s.quiet → ∀ k, k < 192 → k ≠ 31 → (s.accDone r).sticky k = s.sticky k) := by
  obtain ⟨hacc, hcount⟩ := State.accCause_idle (s := s.setAcc (fun a => { a with srch := {}, last := r })) rfl rfl 2
  refine ⟨hacc, hcount, fun h => ?_, fun hs q => (State.accCause_quiet (s := s.setAcc (fun a => { a with srch := {}, last := r })) hs q 2).2⟩
  have hoff : ((s.setAcc (fun a => { a with srch := {}, last := r })).fld F.accEvenCause).testBit 2 = false :=
    (congrArg (Nat.testBit · 2) h).trans (Nat.zero_testBit 2)
  unfold State.accDone
  rw [State.accCause_of_disabled hoff]
  exact s.setAcc_keeps _

/-- The result of a sequence that ends without a grant. -/
def AccSearch.over (x : AccSearch) : TokResult :=
  match x.latest with
  | some r => r
  | none => { res := if x.coll = 0 then 0 else 8, search := x.tries }

theorem State.searchEnd_over (h : s.acc.srch.coll = 0 ∨ 4 ≤ s.acc.srch.tries) : s.searchEnd = s.accDone s.acc.srch.over :=
  if_neg (by omega)

theorem State.searchEnd_retry (hcoll : s.acc.srch.coll ≠ 0) (ht : s.acc.srch.tries < 4) :
    s.searchEnd = s.setSrch (fun y => { y with phase := 0, retry := true, cand := [], grant := none }) := if_pos ⟨hcoll, ht⟩

/-! ### Authentication (R552, R553) -/

/-- A token logged with a result other than 5. -/
theorem State.accResult_logged (t : TokReply) {res : Nat} (h : res ≠ 5) : s.accResult t res =
    (s.accLog t.tid res t.slot s.acc.srch.tries).setSrch (fun x => { x with latest := some { tok := t, res := res, search := s.acc.srch.tries } }) :=
  if_neg h

/-- The search once a token is logged with its result. -/
def AccSearch.logged (x : AccSearch) (t : TokReply) (res : Nat) : AccSearch := { x with latest := some { tok := t, res := res, search := x.tries } }

theorem State.accResult_acc (t : TokReply) {res : Nat} (h : res ≠ 5) : (s.accResult t res).acc = { s.acc with srch := s.acc.srch.logged t res } ∧
    (s.accResult t res).count = s.count := by
  rw [State.accResult_logged t h]
  exact ⟨rfl, rfl⟩

theorem State.accResult_calm (hs : s.canonical) (q : s.quiet) (t : TokReply) {res : Nat} (h : res ≠ 5) :
    (s.accResult t res).canonical ∧ (s.accResult t res).quiet := by
  rw [State.accResult_logged t h]
  exact ⟨(State.accLog_spec hs _ _ _ _).1, State.quiet_accLog hs q _ _ _ _⟩

/-- A failed token: source 166 besides, where no class reacts. -/
theorem State.accResult_failed (hs : s.canonical) (q : s.quiet) (t : TokReply) :
    (s.accResult t 5).acc = { s.acc with srch := s.acc.srch.logged t 5 } ∧ (s.accResult t 5).count = s.count ∧ (s.accResult t 5).canonical ∧
      (s.accResult t 5).quiet ∧ (s.feat (sourceFeat 166) = true → (s.accResult t 5).sticky 166 = true) := by
  obtain ⟨hc, -, -, -, hkeeps⟩ := State.accLog_spec hs t.tid 5 t.slot s.acc.srch.tries
  have hq := State.quiet_accLog hs q t.tid 5 t.slot s.acc.srch.tries
  have hacc : (s.accLog t.tid 5 t.slot s.acc.srch.tries).acc = s.acc := hkeeps.2 .acc (by simp)
  have hcount : (s.accLog t.tid 5 t.slot s.acc.srch.tries).count = s.count := hkeeps.2 .count (by simp)
  have hhst : (s.accLog t.tid 5 t.slot s.acc.srch.tries).hst = s.hst := hkeeps.2 .hst (by simp)
  unfold State.accResult
  dsimp only
  generalize s.accLog t.tid 5 t.slot s.acc.srch.tries = u at hc hq hacc hcount hhst
  obtain ⟨rkeeps, rc, rq, rsticky⟩ := State.raiseSource_noted (s := u.setSrch (fun x => { x with
    latest := some { tok := t, res := 5, search := s.acc.srch.tries } })) hc hq (n := 166) (by decide) (by decide)
  refine ⟨(rkeeps.2 .acc (by decide)).trans ?_, (rkeeps.2 .count (by decide)).trans hcount, rc, rq, fun hf => rsticky ?_⟩
  · exact congrArg (fun a : AccBlk => { a with srch := { a.srch with latest := some { tok := t, res := 5, search := s.acc.srch.tries } } }) hacc
  · show u.hst.eff.getLsbD _ = true
    rw [hhst]
    exact hf

/-- No token is left to be authenticated. -/
theorem State.authFrom_nil (h : s.acc.srch.phase ≠ 0) : s.authFrom [] = (s.setSrch (fun x => { x with cand := [] })).searchEnd := if_neg h

/-- The engine is done with its last token, and no collision is left to retry. -/
theorem State.authFrom_over (hphase : s.acc.srch.phase ≠ 0) (hcoll : s.acc.srch.coll = 0) {r : TokResult} (hlatest : s.acc.srch.latest = some r) :
    (s.authFrom []).acc.srch = {} ∧ (s.authFrom []).acc.last = r ∧ (s.authFrom []).count = s.count ∧
      (s.canonical → s.quiet → ∀ k, k < 192 → k ≠ 31 → (s.authFrom []).sticky k = s.sticky k) := by
  rw [State.authFrom_nil hphase, State.searchEnd_over (s := s.setSrch (fun x => { x with cand := [] })) (.inl hcoll)]
  obtain ⟨hacc, hcount, -, hsticky⟩ := State.accDone_spec (s.setSrch (fun x => { x with cand := [] }))
    (s.setSrch (fun x => { x with cand := [] })).acc.srch.over
  have hover : (s.setSrch (fun x => { x with cand := [] })).acc.srch.over = r := by
    show AccSearch.over { s.acc.srch with cand := [] } = r
    unfold AccSearch.over
    dsimp only
    rw [hlatest]
  rw [hover] at hacc hcount hsticky ⊢
  exact ⟨congrArg AccBlk.srch hacc, congrArg AccBlk.last hacc, hcount, fun hs q => hsticky hs q⟩

/-- The last token fails. -/
theorem State.authFail_last {t : TokReply} (hs : s.canonical) (q : s.quiet) (hphase : s.acc.srch.phase ≠ 0) (hcoll : s.acc.srch.coll = 0) :
    let u := (s.accResult t 5).authFrom []
    u.acc.srch = {} ∧ u.acc.last = { tok := t, res := 5, search := s.acc.srch.tries } ∧ u.count = s.count ∧
      (s.feat (sourceFeat 166) = true → u.sticky 166 = true) := by
  obtain ⟨hacc, hcount, hc, hq, hsticky⟩ := State.accResult_failed hs q t
  obtain ⟨hsrch, hlast, hcnt, hst⟩ := State.authFrom_over (s := s.accResult t 5) (r := { tok := t, res := 5, search := s.acc.srch.tries })
    (by rw [hacc]; exact hphase) (by rw [hacc]; exact hcoll) (by rw [hacc]; rfl)
  exact ⟨hsrch, hlast, hcnt.trans hcount, fun hf => (hst hc hq 166 (by decide) (by decide)).trans (hsticky hf)⟩

theorem State.authFrom_unknown (hphase : s.acc.srch.phase ≠ 0) {c : TokReply} {l : List TokReply} (h : s.tokenEntry c.tid = none) :
    s.authFrom (c :: l) = (s.accResult c 3).authFrom l := by
  rw [State.authFrom.eq_def]
  dsimp only
  rw [if_neg hphase, if_pos (by rw [h]; rfl)]

section
variable (hphase : s.acc.srch.phase ≠ 0) {c : TokReply} {l : List TokReply} {e : Nat} (hentry : s.tokenEntry c.tid = some e)
include hphase hentry

theorem State.authFrom_unsound (hbad : ∀ k, s.tokenKey c.tid = some k →
      (aes k (s.acc.srch.chal ++ tidBytes c.tid ++ List.replicate 4 0)).take 8 ≠ c.rt) :
    s.authFrom (c :: l) = (s.accResult c 5).authFrom l := by
  rw [State.authFrom.eq_def]
  dsimp only
  rw [if_neg hphase, if_neg (by rw [hentry]; exact Bool.false_ne_true)]
  cases hk : s.tokenKey c.tid with
  | none => rfl
  | some k => exact if_pos (hbad k hk)

/-- AUTH of a token whose RT is sound. -/
def AccBlk.authSent (a : AccBlk) (pre : List Nat) (c : TokReply) (l : List TokReply) (k : Bytes) (now : Nat) : AccBlk :=
  { a with
    sent := pre ++ (withCrc16 (0x12 :: tidBytes c.tid ++ (aes k (c.rchal ++ a.srch.chal)).take 8)).length ::
      withCrc16 (0x12 :: tidBytes c.tid ++ (aes k (c.rchal ++ a.srch.chal)).take 8)
    srch := { a.srch with cand := c :: l, key := k, authAt := now } }

theorem State.authFrom_sound {k : Bytes} (hkey : s.tokenKey c.tid = some k)
    (hrt : (aes k (s.acc.srch.chal ++ tidBytes c.tid ++ List.replicate 4 0)).take 8 = c.rt) :
    s.authFrom (c :: l) = s.setAcc (fun a => a.authSent ((leOf 4 (s.fld F.accUtxpPfx)).take (s.fld F.accUcfgUtxn)) c l k s.count) := by
  rw [State.authFrom.eq_def]
  dsimp only
  rw [if_neg hphase, if_neg (by rw [hentry]; exact Bool.false_ne_true), hkey]
  exact if_neg (fun h => h hrt)

end

/-! ### Starts (R543, R545) -/

/-- 2 us past the edge. -/
def State.searchAt (s : State) : Nat := s.frm.edgeAt + 2 * ticksPerUs

theorem execSearchStart_of_not (h : ¬(s.accRuns = true ∧ s.scanRun = true ∧ s.frm.frame.toNat % s.scanPer = 0 ∧ s.lfen ≠ 0 ∧ s.acc.srch.phase = 0 ∧
      s.acc.srch.retry = false ∧ s.win.safe = false ∧ s.sec.trngf = false ∧ s.count ≤ s.searchAt)) : exec .searchStart s = .next s :=
  congrArg Host.Outcome.next (if_neg h)

theorem execRetrySearch_of_not (h : ¬(s.accRuns = true ∧ s.acc.srch.retry = true ∧ s.acc.srch.due = true ∧ s.scanRun = true ∧ s.lfen ≠ 0 ∧
      s.win.safe = false ∧ s.sec.trngf = false ∧ s.count ≤ s.searchAt)) : exec .retrySearch s = .next s :=
  congrArg Host.Outcome.next (if_neg h)

/-- What the start of a search does. -/
theorem State.searchBegin_spec (s : State) (tries : Nat) (h : s.count ≤ s.searchAt) :
    let t := (s.advance s.searchAt).searchBegin tries
    t.count = s.searchAt ∧ t.acc.opn = s.acc.opn &&& (63 - s.lfen) ∧ t.acc.short = s.acc.short &&& (63 - s.lfen) ∧ t.acc.srch.phase = 1 ∧
      t.acc.srch.tries = tries ∧ t.acc.srch.startAt = s.searchAt ∧ t.acc.srch.lfen = s.lfen ∧ t.acc.srch.seed < 256 ∧
      t.acc.srch.chal.length = 8 ∧ t.acc.lf = lfTelegram (s.fld F.accSite) t.acc.srch.seed t.acc.srch.chal ∧ t.acc.srch.retry = false ∧
      s.keeps t [.acc, .count, .free] := by
  have hcount : (s.advance s.searchAt).count = s.searchAt := max_eq_right h
  refine ⟨hcount, rfl, rfl, rfl, rfl, hcount, rfl, Nat.mod_lt _ (by decide), List.length_map .., rfl, rfl, ?_⟩
  exact State.keeps_trans (State.keeps_trans (n := [.count, .free]) (s.advance_keeps _) (State.withFree_keeps _ _)) (State.setAcc_keeps _ _)

/-! ### The telegram and the aerials (R545, R546) -/

theorem execLfTelegramEnd_of_other (h : s.acc.srch.phase ≠ 1) (w : World) : exec (.lfTelegramEnd w) s = .next (s.observe w) :=
  congrArg Host.Outcome.next (if_neg h)

/-- t_ref. -/
def AccSearch.telegramEnd (x : AccSearch) : Nat := x.startAt + ticksPerUs * (16384 + 640 * aerials x.lfen)

/-- The end of the telegram, the aerials judged. -/
theorem execLfTelegramEnd_of_telegram (h : s.acc.srch.phase = 1) (w : World) {u v : State}
    (hu : u = (s.observe w).advance s.acc.srch.telegramEnd) (hv : u.accWake = v) (hphase : v.acc.srch.phase = 1) :
    exec (.lfTelegramEnd w) s = .next (v.setSrch (fun y => { y with phase := 2, tref := s.acc.srch.telegramEnd })) := by
  subst hu hv
  exact congrArg Host.Outcome.next ((if_pos h).trans (if_neg (fun e => absurd (e.symm.trans hphase) (by decide))))

/-- The aerials whose current stayed too low. -/
def State.weakAerial (s : State) (i : Nat) : Bool :=
  s.acc.srch.lfen.testBit i && (s.acc.short.testBit i || decide (4 * s.pin (.lfPeak i) < 100 * s.fld F.accLfcfgIpk))

def State.weakAerials (s : State) : Nat := (upto 6).foldl (fun a i => if s.weakAerial i = true then a + 2 ^ i else a) 0

theorem State.weakAerials_testBit (s : State) {i : Nat} (hi : i < 6) : s.weakAerials.testBit i = s.weakAerial i := by
  have hbits := (testBit_sum_bits s.weakAerial 6).2 i
  rw [decide_eq_true hi, Bool.true_and] at hbits
  exact hbits

/-- The block once its aerials are judged. -/
def State.aerialsJudged (s : State) : State :=
  (s.setSrch (fun y => { y with woke := true })).setAcc (fun a => { a with opn := a.opn ||| s.weakAerials })

theorem State.accWake_due (h : s.acc.srch.phase = 1 ∧ s.acc.srch.woke = false ∧ s.acc.srch.startAt + 2048 * ticksPerUs ≤ s.count) :
    s.accWake = if s.weakAerials = 0 then s.aerialsJudged else (s.aerialsJudged.raiseSource 164).accCause 3 := by
  have hweak : (upto 6).foldl (fun a i => if s.acc.srch.lfen.testBit i ∧ (s.acc.short.testBit i ∨
      4 * s.pin (.lfPeak i) < 100 * s.fld F.accLfcfgIpk) then a + 2 ^ i else a) 0 = s.weakAerials := by
    unfold State.weakAerials State.weakAerial
    simp only [Bool.and_eq_true, Bool.or_eq_true, decide_eq_true_eq]
  unfold State.accWake
  dsimp only
  rw [if_pos h, hweak]
  rfl

theorem State.accWake_done (h : s.acc.srch.woke = true) : s.accWake = s := if_neg (fun hc => absurd (h.symm.trans hc.2.1) (by decide))

/-- The aerials judged where no class reacts. -/
theorem State.accWake_quiet (hs : s.canonical) (q : s.quiet)
    (h : s.acc.srch.phase = 1 ∧ s.acc.srch.woke = false ∧ s.acc.srch.startAt + 2048 * ticksPerUs ≤ s.count) :
    s.accWake.acc = s.aerialsJudged.acc ∧ (s.feat (sourceFeat 164) = true → s.weakAerials ≠ 0 → s.accWake.sticky 164 = true) := by
  rw [State.accWake_due h]
  by_cases hw : s.weakAerials = 0
  · rw [if_pos hw]
    exact ⟨rfl, fun _ hne => absurd hw hne⟩
  · rw [if_neg hw]
    have hjs : s.aerialsJudged.canonical := hs
    obtain ⟨hkeeps, hc, hq, hsticky⟩ := State.raiseSource_noted hjs q (n := 164) (by decide) (by decide)
    obtain ⟨hacc, hst⟩ := State.accCause_quiet hc hq 3
    exact ⟨hacc.trans (hkeeps.2 .acc (by decide)), fun hf _ => (hst 164 (by decide) (by decide)).trans (hsticky hf)⟩

theorem execAerialShort_of_not (a : Fin 6) (amps : Int) (h : ¬(s.acc.srch.phase = 1 ∧ s.acc.srch.lfen.testBit a = true ∧
      s.acc.short.testBit a = false ∧ 1800 < amps)) : exec (.aerialShort a amps) s = .next s := congrArg Host.Outcome.next (if_neg h)

/-! ### Replies (R548 to R551) -/

theorem State.slotsEnd_of_none (h : s.acc.srch.far = []) (slot : Nat) : s.slotsEnd slot = s := by
  have hsame : s.setSrch (fun y => { y with far := y.far.filter (fun t => decide (slot ≤ t.slot)) }) = s := by
    show { s with acc := { s.acc with srch := { s.acc.srch with far := s.acc.srch.far.filter (fun t => decide (slot ≤ t.slot)) } } } = s
    rw [h, List.filter_nil, ← h]
  unfold State.slotsEnd
  rw [hsame, h]
  rfl

/-- A reply as it arrives: the time, the packet read. -/
def State.replyRead (s : State) (after : Nat) : State := (s.advance (s.acc.srch.tref + after)).uhfRead

theorem execTokenReply_idle (h : s.accRuns = false ∨ s.acc.srch.phase ≠ 2) (after : Nat) (packet : List Nat) :
    exec (.tokenReply after packet) s = .next s := congrArg Host.Outcome.next (if_pos h)

theorem State.replyRead_spec (s : State) (after : Nat) :
    (s.replyRead after).acc = { s.acc with sent := (leOf 4 (s.fld F.accUrxpPfx)).take (s.fld F.accUcfgUrxn) } ∧
      (s.replyRead after).count = max s.count (s.acc.srch.tref + after) ∧ s.keeps (s.replyRead after) [.acc, .count] :=
  ⟨rfl, rfl, State.keeps_trans (s.advance_keeps _) (State.setAcc_keeps _ _)⟩

section
variable (hrun : s.accRuns = true) (hphase : s.acc.srch.phase = 2) {after : Nat}
include hrun hphase

theorem execTokenReply_late (h : s.replyWindow ≤ after) (packet : List Nat) : exec (.tokenReply after packet) s = .next (s.replyRead after) :=
  congrArg Host.Outcome.next ((if_neg (by simp [hrun, hphase])).trans (if_pos h))

/-- A reply inside the window, none waiting for the end of its slot. -/
theorem execTokenReply_inside (h : after < s.replyWindow) (hfar : s.acc.srch.far = []) (packet : List Nat) :
    exec (.tokenReply after packet) s = .next (
      let slot := s.irqSlot after
      let u := s.replyRead after
      if s.acc.srch.seen.testBit slot then u.slotIrq slot
      else if packetKnown packet = false then (u.slotIrq slot).slotCollides slot
      else if packetOk packet 0x21 30 = false then u.slotIrq slot
      else if s.slotOf (leAt packet 1 4) ≠ slot then (u.slotIrq slot).slotCollides slot
      else (u.slotIrq slot).replyTaken after slot packet) := by
  have hnone : (s.replyRead after).slotsEnd (s.irqSlot after) = s.replyRead after := State.slotsEnd_of_none (s := s.replyRead after) hfar _
  have hopen : ¬s.replyWindow ≤ after := by omega
  have hgoes : ¬(s.replyRead after).acc.srch.phase = 0 := fun e => absurd (e.symm.trans hphase) (by decide)
  refine congrArg Host.Outcome.next ((if_neg (by simp [hrun, hphase])).trans ((if_neg hopen).trans ?_))
  dsimp only
  rw [show (s.advance (s.acc.srch.tref + after)).uhfRead.slotsEnd (s.irqSlot after) = s.replyRead after from hnone, if_neg hgoes]

end

theorem State.slotIrq_seen {slot : Nat} (h : s.acc.srch.seen.testBit slot = true) : s.slotIrq slot = s.slotCollides slot := if_pos h

theorem State.slotIrq_first {slot : Nat} (h : s.acc.srch.seen.testBit slot = false) :
    s.slotIrq slot = s.setSrch (fun y => { y with seen := y.seen ||| 2 ^ slot }) := if_neg (by simp [h])

/-- A collision: the slot's replies are no candidates, and it is logged once. -/
theorem State.slotCollides_spec (hfar : s.acc.srch.far = []) (slot : Nat) :
    (s.slotCollides slot).acc = { s.acc with srch := { s.acc.srch with
      coll := s.acc.srch.coll ||| 2 ^ slot, cand := s.acc.srch.cand.filter (fun t => t.slot ≠ slot) } } ∧
    (s.slotCollides slot).count = s.count ∧ (s.acc.srch.coll.testBit slot = true → s.keeps (s.slotCollides slot) [.acc]) ∧
    (s.acc.srch.coll.testBit slot = false →
      s.keeps (s.slotCollides slot) [.acc, .reg F.accLogidxNext.addr, .reg (F.accLogEntry (2 * s.fld F.accLogidxNext)).addr,
        .reg (F.accLogEntry (2 * s.fld F.accLogidxNext + 1)).addr] ∧
      (s.canonical → (s.slotCollides slot).fld F.accLogidxNext = (s.fld F.accLogidxNext + 1) % 16 ∧
        (s.slotCollides slot).fld (F.accLogEntry (2 * s.fld F.accLogidxNext)) = 0 ∧
        (s.slotCollides slot).fld (F.accLogEntry (2 * s.fld F.accLogidxNext + 1)) =
          8 + 16 * (slot % 16) + 256 * (s.acc.srch.tries % 8) + 4096 * (s.frm.frame.toNat % 2 ^ 20))) := by
  have hblk : (s.setSrch (fun y => { y with
      coll := y.coll ||| 2 ^ slot, cand := y.cand.filter (fun t => t.slot ≠ slot), far := y.far.filter (fun t => t.slot ≠ slot) })).acc =
      { s.acc with srch := { s.acc.srch with
        coll := s.acc.srch.coll ||| 2 ^ slot, cand := s.acc.srch.cand.filter (fun t => t.slot ≠ slot) } } := by
    show { s.acc with srch := { s.acc.srch with
      coll := s.acc.srch.coll ||| 2 ^ slot, cand := s.acc.srch.cand.filter (fun t => t.slot ≠ slot),
      far := s.acc.srch.far.filter (fun t => t.slot ≠ slot) } } = _
    rw [hfar, List.filter_nil, ← hfar]
  unfold State.slotCollides
  dsimp only
  generalize hu : s.setSrch (fun y => { y with
    coll := y.coll ||| 2 ^ slot, cand := y.cand.filter (fun t => t.slot ≠ slot), far := y.far.filter (fun t => t.slot ≠ slot) }) = u at hblk ⊢
  have hkeeps : s.keeps u [.acc] := hu ▸ s.setAcc_keeps _
  have hnext : u.fld F.accLogidxNext = s.fld F.accLogidxNext := State.fld_of_keeps hkeeps _ (by simp)
  have hframe : u.frm.frame = s.frm.frame := (hkeeps.2 .frame (by simp)).1
  have hcount : u.count = s.count := hkeeps.2 .count (by simp)
  cases hc : s.acc.srch.coll.testBit slot with
  | true => exact ⟨hblk, hcount, fun _ => hkeeps, fun h => absurd h (by decide)⟩
  | false =>
    have hcanon : s.canonical → u.canonical := fun h => hu ▸ h
    rw [if_neg Bool.false_ne_true]
    refine ⟨hblk, hcount, fun h => absurd h (by decide), fun _ => ⟨?_, fun h => ?_⟩⟩
    · unfold State.accLog
      dsimp only
      rw [hnext]
      exact State.keeps_setFld (State.keeps_setFld (State.keeps_setFld (State.keeps_mono hkeeps (by simp)) _ _ (by simp)) _ _ (by simp)) _ _ (by simp)
    · obtain ⟨-, h1, h2, h3, -⟩ := State.accLog_spec (hcanon h) 0 8 slot s.acc.srch.tries
      rw [hnext] at h1 h2 h3
      exact ⟨h1, h2, h3.trans (by rw [hframe])⟩

/-- The token that a REPLY packet names. -/
def State.replyToken (s : State) (after slot : Nat) (packet : Bytes) : TokReply :=
  { tid := leAt packet 1 4, slot := slot, rssi := sub packet 6 6, delay := quant (s.replyDelay after slot) (2 ^ 40), rt := sub packet 12 8,
    rchal := sub packet 20 8 }

theorem State.replyTaken_near {after slot : Nat} (h : |s.replyDelay after slot| ≤ (s.fld F.accRlyRwin * 250 : Nat) * 2 ^ 40) (packet : Bytes) :
    s.replyTaken after slot packet = s.setSrch (fun y => { y with
      cand := y.cand.filter (fun c => decide (c.slot < slot)) ++ [s.replyToken after slot packet] ++ y.cand.filter (fun c => decide (slot < c.slot)) }) :=
  if_pos h

theorem State.replyTaken_far {after slot : Nat} (h : ¬|s.replyDelay after slot| ≤ (s.fld F.accRlyRwin * 250 : Nat) * 2 ^ 40) (packet : Bytes) :
    s.replyTaken after slot packet = s.setSrch (fun y => { y with far := y.far ++ [s.replyToken after slot packet] }) := if_neg h

/-- A packet of the table is known. -/
theorem packetKnown_of_reply {packet : Bytes} (h : packetOk packet 0x21 30 = true) : packetKnown packet = true := by
  simp [packetKnown, h]

/-! ### The close of the window (R550, R553) -/

theorem execReplyWindowClose_of_other (h : s.acc.srch.phase ≠ 2) : exec .replyWindowClose s = .next s := congrArg Host.Outcome.next (if_neg h)

/-- The window closed: authentication begins. -/
def State.windowClosed (s : State) : State := (s.advance (s.acc.srch.tref + s.replyWindow)).setSrch (fun y => { y with phase := 3 })

theorem State.windowClosed_spec (s : State) : s.windowClosed.acc = { s.acc with srch := { s.acc.srch with phase := 3 } } ∧
    s.windowClosed.count = max s.count (s.acc.srch.tref + s.replyWindow) ∧ s.keeps s.windowClosed [.acc, .count] :=
  ⟨rfl, rfl, State.keeps_trans (s.advance_keeps _) (State.setAcc_keeps _ _)⟩

theorem State.windowClosed_phase (s : State) : s.windowClosed.acc.srch.phase ≠ 0 := by
  show 3 ≠ 0
  decide

section
variable (hphase : s.acc.srch.phase = 2)
include hphase

theorem execReplyWindowClose_of_none (hfar : s.acc.srch.far = []) :
    exec .replyWindowClose s = .next (s.windowClosed.authFrom s.acc.srch.cand) := by
  have hnone : (s.advance (s.acc.srch.tref + s.replyWindow)).slotsEnd s.nslot = s.advance (s.acc.srch.tref + s.replyWindow) :=
    State.slotsEnd_of_none (s := s.advance (s.acc.srch.tref + s.replyWindow)) hfar _
  have hgoes : ¬(s.advance (s.acc.srch.tref + s.replyWindow)).acc.srch.phase = 0 := fun e => absurd (e.symm.trans hphase) (by decide)
  refine congrArg Host.Outcome.next ((if_pos hphase).trans ?_)
  dsimp only
  rw [hnone, if_neg hgoes]
  rfl

/-- No candidate, and no collision to retry (R555). -/
theorem execReplyWindowClose_empty (hfar : s.acc.srch.far = []) (hcand : s.acc.srch.cand = []) (hcoll : s.acc.srch.coll = 0 ∨ 4 ≤ s.acc.srch.tries) :
    ∃ t, exec .replyWindowClose s = .next t ∧ t.acc.srch = {} ∧ t.count = max s.count (s.acc.srch.tref + s.replyWindow) ∧
      t.acc.last = s.acc.srch.over ∧ (s.fld F.accEvenCause = 0 → s.keeps t [.acc, .count]) := by
  have hexec := execReplyWindowClose_of_none hphase hfar
  have hend := State.searchEnd_over (s := s.windowClosed.setSrch (fun x => { x with cand := [] })) hcoll
  rw [hcand, State.authFrom_nil s.windowClosed_phase, hend] at hexec
  obtain ⟨hacc, hcount, hkeeps, -⟩ := State.accDone_spec (s.windowClosed.setSrch (fun x => { x with cand := [] })) s.acc.srch.over
  exact ⟨_, hexec, congrArg AccBlk.srch hacc, hcount, congrArg AccBlk.last hacc, fun h => State.keeps_trans (State.keeps_trans (n := [.acc, .count])
    s.windowClosed_spec.2.2 (State.setAcc_keeps _ _)) (hkeeps h)⟩

theorem execReplyWindowClose_retry (hfar : s.acc.srch.far = []) (hcand : s.acc.srch.cand = []) (hcoll : s.acc.srch.coll ≠ 0)
    (ht : s.acc.srch.tries < 4) :
    ∃ t, exec .replyWindowClose s = .next t ∧ t.count = max s.count (s.acc.srch.tref + s.replyWindow) ∧
      t.acc = { s.acc with srch := { s.acc.srch with phase := 0, retry := true, grant := none } } ∧ s.keeps t [.acc, .count] := by
  have hexec := execReplyWindowClose_of_none hphase hfar
  have hend := State.searchEnd_retry (s := s.windowClosed.setSrch (fun x => { x with cand := [] })) hcoll ht
  rw [hcand, State.authFrom_nil s.windowClosed_phase, hend] at hexec
  refine ⟨_, hexec, rfl, ?_, State.keeps_trans (State.keeps_trans (n := [.acc, .count]) s.windowClosed_spec.2.2 (State.setAcc_keeps _ _))
    (State.setAcc_keeps _ _)⟩
  show { s.acc with srch := { s.acc.srch with phase := 0, retry := true, cand := [], grant := none } } = _
  rw [← hcand]

/-- The reply that stayed alone outside RWIN is logged at the end of its slot. -/
theorem execReplyWindowClose_far (hs : s.canonical) (q : s.quiet) {c : TokReply} (hfar : s.acc.srch.far = [c]) (hslot : c.slot < s.nslot)
    (hcand : s.acc.srch.cand = []) (hcoll : s.acc.srch.coll = 0) :
    ∃ t, exec .replyWindowClose s = .next t ∧ t.acc.srch = {} ∧ t.acc.last = { tok := c, res := 4, search := s.acc.srch.tries } ∧
      (s.feat (sourceFeat 165) = true → t.sticky 165 = true) := by
  obtain ⟨u, hu, hcu, hqu, haccu, hfeatu⟩ : ∃ u : State, u = (s.advance (s.acc.srch.tref + s.replyWindow)).setSrch (fun y => { y with
      far := y.far.filter (fun t => decide (s.nslot ≤ t.slot)) }) ∧ u.canonical ∧ u.quiet ∧
      u.acc = { s.acc with srch := { s.acc.srch with far := s.acc.srch.far.filter (fun t => decide (s.nslot ≤ t.slot)) } } ∧
      ∀ k, u.feat k = s.feat k := ⟨_, rfl, hs, q, rfl, fun _ => rfl⟩
  have hphaseu : ¬u.acc.srch.phase = 0 := fun e => absurd ((congrArg (fun a : AccBlk => a.srch.phase) haccu).symm.trans e)
    (fun e => absurd (e.symm.trans hphase) (by decide))
  have hends : (s.advance (s.acc.srch.tref + s.replyWindow)).slotsEnd s.nslot = (u.accResult c 4).raiseSource 165 := by
    unfold State.slotsEnd
    rw [← hu, show (s.advance (s.acc.srch.tref + s.replyWindow)).acc.srch.far = [c] from hfar,
      List.filter_cons_of_pos (by simpa using hslot), List.filter_nil]
    exact if_neg hphaseu
  obtain ⟨racc, -⟩ := State.accResult_acc (s := u) c (res := 4) (by decide)
  obtain ⟨rc, rq⟩ := State.accResult_calm hcu hqu c (res := 4) (by decide)
  obtain ⟨vkeeps, vc, vq, vsticky⟩ := State.raiseSource_noted rc rq (n := 165) (by decide) (by decide)
  have hfeat : (u.accResult c 4).feat (sourceFeat 165) = s.feat (sourceFeat 165) := by
    rw [State.accResult_logged c (by decide)]
    exact hfeatu _
  generalize (u.accResult c 4).raiseSource 165 = v at hends vkeeps vc vq vsticky
  have hacc : v.acc = { u.acc with srch := u.acc.srch.logged c 4 } := (vkeeps.2 .acc (by decide)).trans racc
  have hgoes : ¬v.acc.srch.phase = 0 := by
    rw [hacc]
    exact hphaseu
  have hexec : exec .replyWindowClose s = .next ((v.setSrch (fun y => { y with phase := 3 })).authFrom []) := by
    refine congrArg Host.Outcome.next ((if_pos hphase).trans ?_)
    dsimp only
    rw [hends, if_neg hgoes, hcand]
  obtain ⟨hsrch, hlast, -, hsticky⟩ := State.authFrom_over (s := v.setSrch (fun y => { y with phase := 3 }))
    (r := { tok := c, res := 4, search := s.acc.srch.tries }) (by show 3 ≠ 0; decide)
    (by show v.acc.srch.coll = 0; rw [hacc, haccu]; exact hcoll) (by show v.acc.srch.latest = _; rw [hacc, haccu]; rfl)
  exact ⟨_, hexec, hsrch, hlast, fun hf => (hsticky vc vq 165 (by decide) (by decide)).trans (vsticky (hfeat.trans hf))⟩

end

/-! ### MEM (R553) -/

theorem execMemReceived_stopped (h : s.accRuns = false) (packet : List Nat) : exec (.memReceived packet) s = .next s := by
  refine congrArg Host.Outcome.next ?_
  dsimp only
  cases s.acc.srch.cand with
  | nil => exact if_neg (by simp [h])
  | cons t l => exact if_pos h

theorem execMemReceived_discarded (hrun : s.accRuns = true) {packet : List Nat} (h : s.acc.srch.phase ≠ 3 ∨ s.acc.srch.grant.isSome = true ∨
      s.acc.srch.cand = [] ∨ packetOk packet 0x23 31 = false ∧ s.count ≤ s.acc.srch.authAt + 20000 * ticksPerUs) :
    exec (.memReceived packet) s = .next s.uhfRead := by
  refine congrArg Host.Outcome.next ?_
  dsimp only
  cases hcand : s.acc.srch.cand with
  | nil => exact if_pos hrun
  | cons t l =>
    refine (if_neg (by simp [hrun])).trans ?_
    by_cases hbusy : s.acc.srch.phase ≠ 3 ∨ s.acc.srch.grant.isSome = true
    · exact if_pos hbusy
    · have hnone := h.resolve_left (fun e => hbusy (.inl e)) |>.resolve_left (fun e => hbusy (.inr e)) |>.resolve_left (by rw [hcand]; exact List.cons_ne_nil _ _)
      exact (if_neg hbusy).trans ((if_neg (by omega)).trans (if_pos hnone.1))

section
variable (hrun : s.accRuns = true) (hphase : s.acc.srch.phase = 3) (hgrant : s.acc.srch.grant = none) {c : TokReply} {l : List TokReply}
  (hcand : s.acc.srch.cand = c :: l) {packet : List Nat}
include hrun hphase hgrant hcand

theorem execMemReceived_late (h : s.acc.srch.authAt + 20000 * ticksPerUs < s.count) :
    exec (.memReceived packet) s = .next s.uhfRead.authFail := by
  refine congrArg Host.Outcome.next ?_
  dsimp only
  rw [hcand]
  exact (if_neg (by simp [hrun])).trans ((if_neg (by simp [hphase, hgrant])).trans (if_pos h))

variable (htime : s.count ≤ s.acc.srch.authAt + 20000 * ticksPerUs) (hgood : packetOk packet 0x23 31 = true)
include htime hgood

/-- What a whole MEM packet in time leads to. -/
theorem execMemReceived_whole : exec (.memReceived packet) s = .next (
    let ks := aes s.acc.srch.key (s.acc.srch.chal ++ c.rchal)
    let pt := aesCtr ks (List.replicate 16 0) 128 (sub packet 5 16)
    if leAt packet 1 4 ≠ c.tid ∨ (cmac ks (tidBytes c.tid ++ sub packet 5 16)).take 8 ≠ sub packet 21 8 ∨ leAt pt 0 4 ≠ c.tid then s.uhfRead.authFail
    else if pt.getD 4 0 &&& s.fld F.accPolicyMask = 0 then (s.uhfRead.accResult c 6).searchEnd
    else s.uhfRead.setSrch (fun y => { y with grant := some (c, pt.getD 4 0) })) := by
  refine congrArg Host.Outcome.next ?_
  dsimp only
  rw [hcand]
  exact (if_neg (by simp [hrun])).trans ((if_neg (by simp [hphase, hgrant])).trans ((if_neg (by omega)).trans (if_neg (by simp [hgood]))))

end

theorem State.authFail_cons {c : TokReply} {l : List TokReply} (h : s.acc.srch.cand = c :: l) :
    s.authFail = (s.accResult c 5).authFrom l := by
  unfold State.authFail
  rw [h]

theorem execMemTimeout_of_not (h : s.acc.srch.phase ≠ 3 ∨ s.acc.srch.grant.isSome = true ∨ s.acc.srch.cand = []) :
    exec .memTimeout s = .next s := by
  refine congrArg Host.Outcome.next (if_neg (fun hc => ?_))
  obtain ⟨hphase, hgrant, hcand⟩ := hc
  rcases h with h | h | h
  · exact h hphase
  · rw [Option.isNone_iff_eq_none.mp hgrant] at h
    exact Bool.false_ne_true h
  · rw [h] at hcand
    exact Bool.false_ne_true hcand.symm

theorem execMemTimeout_due (hphase : s.acc.srch.phase = 3) (hgrant : s.acc.srch.grant = none) {c : TokReply} {l : List TokReply}
    (hcand : s.acc.srch.cand = c :: l) :
    exec .memTimeout s = .next (((s.advance (s.acc.srch.authAt + 20000 * ticksPerUs)).accResult c 5).authFrom l) := by
  refine congrArg Host.Outcome.next ((if_pos ⟨hphase, by rw [hgrant]; rfl, by rw [hcand]; rfl⟩).trans ?_)
  exact State.authFail_cons (s := s.advance (s.acc.srch.authAt + 20000 * ticksPerUs)) hcand

end

theorem or_two_pow_of_testBit {x i : Nat} (h : x.testBit i = true) : x ||| 2 ^ i = x := by
  refine Nat.eq_of_testBit_eq (fun j => ?_)
  rw [Nat.testBit_or]
  by_cases e : i = j
  · subst e
    rw [h, Bool.true_or]
  · rw [Nat.testBit_two_pow_of_ne e, Bool.or_false]

/-- A reply in a slot that already had one, or one that R549 or the slot discards: a collision (R551). -/
theorem execTokenReply_collision {s : State} (hrun : s.accRuns = true) (hphase : s.acc.srch.phase = 2) {after : Nat} (hin : after < s.replyWindow)
    (hfar : s.acc.srch.far = []) {packet : List Nat} (h : s.acc.srch.seen.testBit (s.irqSlot after) = true ∨ packetKnown packet = false ∨
      packetOk packet 0x21 30 = true ∧ s.slotOf (leAt packet 1 4) ≠ s.irqSlot after) :
    exec (.tokenReply after packet) s = .next (((s.replyRead after).setSrch (fun y => { y with
      seen := y.seen ||| 2 ^ s.irqSlot after })).slotCollides (s.irqSlot after)) := by
  rw [execTokenReply_inside hrun hphase hin hfar]
  refine congrArg Host.Outcome.next ?_
  dsimp only
  cases hseen : s.acc.srch.seen.testBit (s.irqSlot after) with
  | true =>
    have hsame : (s.replyRead after).setSrch (fun y => { y with seen := y.seen ||| 2 ^ s.irqSlot after }) = s.replyRead after := by
      show { s.replyRead after with acc := { (s.replyRead after).acc with srch := { s.acc.srch with
        seen := s.acc.srch.seen ||| 2 ^ s.irqSlot after } } } = s.replyRead after
      rw [or_two_pow_of_testBit hseen]
      rfl
    rw [if_pos rfl, hsame]
    exact State.slotIrq_seen (s := s.replyRead after) hseen
  | false =>
    rw [if_neg Bool.false_ne_true, State.slotIrq_first (s := s.replyRead after) hseen]
    rcases h with h | h | ⟨hok, hslot⟩
    · exact absurd (hseen.symm.trans h) Bool.false_ne_true
    · rw [if_pos h]
    · rw [if_neg (by rw [packetKnown_of_reply hok]; exact Bool.noConfusion), if_neg (by rw [hok]; exact Bool.noConfusion), if_pos hslot]

/-- A reply alone in its slot so far. -/
theorem execTokenReply_taken {s : State} (hrun : s.accRuns = true) (hphase : s.acc.srch.phase = 2) {after : Nat} (hin : after < s.replyWindow)
    (hfar : s.acc.srch.far = []) {packet : List Nat} (hseen : s.acc.srch.seen.testBit (s.irqSlot after) = false)
    (hok : packetOk packet 0x21 30 = true) (hslot : s.slotOf (leAt packet 1 4) = s.irqSlot after) :
    exec (.tokenReply after packet) s = .next (((s.replyRead after).setSrch (fun y => { y with
      seen := y.seen ||| 2 ^ s.irqSlot after })).replyTaken after (s.irqSlot after) packet) := by
  rw [execTokenReply_inside hrun hphase hin hfar]
  refine congrArg Host.Outcome.next ?_
  dsimp only
  rw [hseen, if_neg Bool.false_ne_true, State.slotIrq_first (s := s.replyRead after) hseen,
    if_neg (by rw [packetKnown_of_reply hok]; exact Bool.noConfusion), if_neg (by rw [hok]; exact Bool.noConfusion), if_neg (fun h => h hslot)]

/-- The replies of the window. -/
theorem tokenReply_steps (s : State) (after : Nat) (packet : List Nat) (hrun : s.accRuns = true) (hphase : s.acc.srch.phase = 2)
    (hin : after < s.replyWindow) (hfar : s.acc.srch.far = []) :
    let x := s.acc.srch
    let slot := s.irqSlot after
    let pre := (leOf 4 (s.fld F.accUrxpPfx)).take (s.fld F.accUcfgUrxn)
    let k := s.replyToken after slot packet
    let near := |s.replyDelay after slot| ≤ (s.fld F.accRlyRwin * 250 : Nat) * 2 ^ 40
    let now := max s.count (x.tref + after)
    (x.seen.testBit slot = false → packetKnown packet = true → packetOk packet 0x21 30 = false →
      ∃ t, exec (.tokenReply after packet) s = .next t ∧
        t.acc = { s.acc with sent := pre, srch := { x with seen := x.seen ||| 2 ^ slot } } ∧ t.count = now ∧ s.keeps t [.acc, .count]) ∧
    (x.seen.testBit slot = false → packetOk packet 0x21 30 = true → s.slotOf (leAt packet 1 4) = slot → near →
      ∃ t, exec (.tokenReply after packet) s = .next t ∧ t.count = now ∧ s.keeps t [.acc, .count] ∧
        t.acc = { s.acc with sent := pre, srch := { x with
          seen := x.seen ||| 2 ^ slot
          cand := x.cand.filter (fun c => decide (c.slot < slot)) ++ [k] ++ x.cand.filter (fun c => decide (slot < c.slot)) } }) ∧
    (x.seen.testBit slot = false → packetOk packet 0x21 30 = true → s.slotOf (leAt packet 1 4) = slot → ¬ near →
      ∃ t, exec (.tokenReply after packet) s = .next t ∧ t.count = now ∧ s.keeps t [.acc, .count] ∧
        t.acc = { s.acc with sent := pre, srch := { x with seen := x.seen ||| 2 ^ slot, far := [k] } }) := by
  have hread := s.replyRead_spec after
  have hkeeps (f : AccSearch → AccSearch) : s.keeps ((s.replyRead after).setSrch f) [.acc, .count] :=
    State.keeps_trans hread.2.2 (State.setAcc_keeps _ _)
  refine ⟨fun hseen hknown hother => ?_, fun hseen hok hslot hnear => ?_, fun hseen hok hslot hfarOff => ?_⟩
  · have hexec := execTokenReply_inside hrun hphase hin hfar packet
    dsimp only at hexec
    rw [hseen, if_neg Bool.false_ne_true, if_neg (by rw [hknown]; exact Bool.noConfusion), if_pos hother,
      State.slotIrq_first (s := s.replyRead after) hseen] at hexec
    exact ⟨_, hexec, rfl, rfl, hkeeps _⟩
  · have hexec := execTokenReply_taken hrun hphase hin hfar hseen hok hslot
    rw [State.replyTaken_near (s := (s.replyRead after).setSrch _) hnear] at hexec
    exact ⟨_, hexec, rfl, State.keeps_trans (n := [.acc, .count]) (hkeeps _) (State.setAcc_keeps _ _), rfl⟩
  · have hexec := execTokenReply_taken hrun hphase hin hfar hseen hok hslot
    rw [State.replyTaken_far (s := (s.replyRead after).setSrch _) hfarOff] at hexec
    have hone : s.acc.srch.far ++ [s.replyToken after (s.irqSlot after) packet] = [s.replyToken after (s.irqSlot after) packet] := by
      rw [hfar, List.nil_append]
    exact ⟨_, hexec, rfl, State.keeps_trans (n := [.acc, .count]) (hkeeps _) (State.setAcc_keeps _ _), congrArg (fun l => { s.acc with
      sent := (leOf 4 (s.fld F.accUrxpPfx)).take (s.fld F.accUcfgUrxn)
      srch := { s.acc.srch with seen := s.acc.srch.seen ||| 2 ^ s.irqSlot after, far := l } }) hone⟩

/-- The telegram's end where the aerials are still to be judged and no class reacts. -/
theorem execLfTelegramEnd_judged {s : State} (hs : s.canonical) (q : s.quiet) (h : s.acc.srch.phase = 1) (hwoke : s.acc.srch.woke = false) (w : World) :
    let u := s.observe w
    let weak := fun i => s.acc.srch.lfen.testBit i && (s.acc.short.testBit i || decide (4 * u.pin (.lfPeak i) < 100 * s.fld F.accLfcfgIpk))
    ∃ t, exec (.lfTelegramEnd w) s = .next t ∧
      t.acc.srch = { s.acc.srch with phase := 2, woke := true, tref := s.acc.srch.telegramEnd } ∧
      (∀ i, i < 6 → t.acc.opn.testBit i = (s.acc.opn.testBit i || weak i)) ∧
      (s.feat (sourceFeat 164) = true → (∃ i, i < 6 ∧ weak i = true) → t.sticky 164 = true) := by
  obtain ⟨pins, hu⟩ := s.observe_eq w
  obtain ⟨v, hv, hacc, hregs, hcv, hqv, hfeat⟩ : ∃ v : State, v = (s.observe w).advance s.acc.srch.telegramEnd ∧ v.acc = s.acc ∧
      (∀ i, v.weakAerial i = (s.acc.srch.lfen.testBit i && (s.acc.short.testBit i ||
        decide (4 * (s.observe w).pin (.lfPeak i) < 100 * s.fld F.accLfcfgIpk)))) ∧ v.canonical ∧ v.quiet ∧ ∀ k, v.feat k = s.feat k := by
    refine ⟨_, rfl, ?_, ?_, ?_, ?_, ?_⟩
    all_goals rw [hu]
    · rfl
    · exact fun _ => rfl
    · exact hs
    · exact q
    · exact fun _ => rfl
  have hdue : v.acc.srch.phase = 1 ∧ v.acc.srch.woke = false ∧ v.acc.srch.startAt + 2048 * ticksPerUs ≤ v.count := by
    have hcount : s.acc.srch.telegramEnd ≤ v.count := hv ▸ le_max_right _ _
    rw [hacc]
    refine ⟨h, hwoke, le_trans ?_ hcount⟩
    unfold AccSearch.telegramEnd
    nlinarith [Nat.zero_le (ticksPerUs * aerials s.acc.srch.lfen), Nat.zero_le ticksPerUs]
  obtain ⟨hwake, hsticky⟩ := State.accWake_quiet hcv hqv hdue
  have hphase : v.accWake.acc.srch.phase = 1 := by
    rw [hwake]
    exact hdue.1
  refine ⟨_, execLfTelegramEnd_of_telegram h w hv rfl hphase, ?_, fun i hi => ?_, fun hf hex => ?_⟩
  · have hsrch : v.accWake.acc.srch = { s.acc.srch with woke := true } := by
      rw [hwake, ← hacc]
      rfl
    exact congrArg (fun x : AccSearch => { x with phase := 2, tref := s.acc.srch.telegramEnd }) hsrch
  · have hopn : v.accWake.acc.opn = s.acc.opn ||| v.weakAerials := by
      rw [hwake, ← hacc]
      rfl
    refine (congrArg (Nat.testBit · i) hopn).trans ?_
    rw [Nat.testBit_or, v.weakAerials_testBit hi, hregs]
  · obtain ⟨i, hi, hweak⟩ := hex
    refine hsticky ((hfeat _).trans hf) (fun hz => ?_)
    have hbit := v.weakAerials_testBit hi
    rw [hz, Nat.zero_testBit, hregs] at hbit
    exact Bool.false_ne_true (hbit.trans hweak)

/-- A whole MEM packet in time, by what it holds. -/
theorem memReceived_steps (s : State) (packet : List Nat) (c : TokReply) (l : List TokReply) (hrun : s.accRuns = true) (hphase : s.acc.srch.phase = 3)
    (hgrant : s.acc.srch.grant = none) (hcand : s.acc.srch.cand = c :: l) :
    let x := s.acc.srch
    let pre := (leOf 4 (s.fld F.accUrxpPfx)).take (s.fld F.accUcfgUrxn)
    let ks := aes x.key (x.chal ++ c.rchal)
    let pt := aesCtr ks (List.replicate 16 0) 128 (sub packet 5 16)
    let level := pt.getD 4 0
    let sound := leAt packet 1 4 = c.tid ∧ (cmac ks (tidBytes c.tid ++ sub packet 5 16)).take 8 = sub packet 21 8 ∧ leAt pt 0 4 = c.tid
    (s.count ≤ x.authAt + 20000 * ticksPerUs → packetOk packet 0x23 31 = true → sound → level &&& s.fld F.accPolicyMask ≠ 0 →
      ∃ t, exec (.memReceived packet) s = .next t ∧ t.acc = { s.acc with sent := pre, srch := { x with grant := some (c, level) } } ∧
        s.keeps t [.acc]) ∧
    (s.count ≤ x.authAt + 20000 * ticksPerUs → packetOk packet 0x23 31 = true → sound → level &&& s.fld F.accPolicyMask = 0 → x.coll = 0 →
      ∃ t, exec (.memReceived packet) s = .next t ∧ t.acc.srch = {} ∧ t.acc.last = { tok := c, res := 6, search := x.tries }) ∧
    (x.authAt + 20000 * ticksPerUs < s.count ∨ packetOk packet 0x23 31 = true ∧ ¬ sound → l = [] → x.coll = 0 → s.canonical → s.quiet →
      ∃ t, exec (.memReceived packet) s = .next t ∧ t.acc.srch = {} ∧ t.acc.last = { tok := c, res := 5, search := x.tries } ∧
        (s.feat (sourceFeat 166) = true → t.sticky 166 = true)) := by
  dsimp only
  have hsound {a b d : Prop} [Decidable a] [Decidable b] [Decidable d] (h : a ∧ b ∧ d) : ¬(¬a ∨ ¬b ∨ ¬d) := by tauto
  refine ⟨fun htime hgood hs hlevel => ?_, fun htime hgood hs hlevel hcoll => ?_, fun hbad hl hcoll hcan q => ?_⟩
  · have hexec := execMemReceived_whole hrun hphase hgrant hcand htime hgood
    dsimp only at hexec
    rw [if_neg (hsound hs), if_neg hlevel] at hexec
    exact ⟨_, hexec, rfl, State.keeps_trans (n := [.acc]) (s.setAcc_keeps _) (State.setAcc_keeps _ _)⟩
  · have hexec := execMemReceived_whole hrun hphase hgrant hcand htime hgood
    dsimp only at hexec
    rw [if_neg (hsound hs), if_pos hlevel] at hexec
    obtain ⟨racc, -⟩ := State.accResult_acc (s := s.uhfRead) c (res := 6) (by decide)
    have hover : (s.uhfRead.accResult c 6).acc.srch.coll = 0 := by
      rw [racc]
      exact hcoll
    have hresult : (s.uhfRead.accResult c 6).acc.srch.over = { tok := c, res := 6, search := s.acc.srch.tries } := by
      rw [racc]
      rfl
    rw [State.searchEnd_over (.inl hover), hresult] at hexec
    obtain ⟨hacc, -, -, -⟩ := State.accDone_spec (s.uhfRead.accResult c 6) { tok := c, res := 6, search := s.acc.srch.tries }
    exact ⟨_, hexec, congrArg AccBlk.srch hacc, congrArg AccBlk.last hacc⟩
  · have hexec : exec (.memReceived packet) s = .next s.uhfRead.authFail := by
      by_cases hlate : s.acc.srch.authAt + 20000 * ticksPerUs < s.count
      · exact execMemReceived_late hrun hphase hgrant hcand hlate
      · obtain ⟨hgood, hunsound⟩ := hbad.resolve_left hlate
        refine (execMemReceived_whole hrun hphase hgrant hcand (by omega) hgood).trans (congrArg _ (if_pos ?_))
        tauto
    subst hl
    rw [State.authFail_cons (s := s.uhfRead) hcand] at hexec
    obtain ⟨hsrch, hlast, -, hsticky⟩ := State.authFail_last (s := s.uhfRead) (t := c) hcan q (by show s.acc.srch.phase ≠ 0; omega) hcoll
    exact ⟨_, hexec, hsrch, hlast, hsticky⟩

/-- Settles O52: the starts, the telegram, the replies, the close of the window and MEM, each command by its lemmas above. -/
theorem tokenSearchSteps : Obligations.TokenSearchSteps := by
  intro s
  refine ⟨fun hrun hscan hlf hsafe htrng hat => ⟨fun hper hphase hretry => ?_, fun hretry hdue => ?_⟩, fun hnot => ?_, fun hnot => ?_, fun hnot => ?_,
    fun w => ⟨fun h => execLfTelegramEnd_of_other h w, fun h hwoke => ?_, fun h hwoke hs q => execLfTelegramEnd_judged hs q h hwoke w⟩,
    fun a amps => ⟨fun h1 h2 h3 h4 => ⟨_, congrArg Host.Outcome.next (if_pos ⟨h1, h2, h3, h4⟩), rfl, s.setAcc_keeps _⟩, fun hnot => ?_⟩,
    fun after packet => ⟨fun h => execTokenReply_idle h after packet, fun hrun hphase hlate => ?_, fun hrun hphase hin hfar => ?_⟩,
    execReplyWindowClose_of_other, fun hphase => ⟨fun hfar hcand hcoll => execReplyWindowClose_empty hphase hfar hcand hcoll,
      fun hfar hcand hcoll ht => execReplyWindowClose_retry hphase hfar hcand hcoll ht, fun c l e k hfar hcand hentry hkey hrt => ?_,
      fun c hfar hcand hcoll hentry => ?_, fun c e hfar hcand hcoll hentry hs q hbad => ?_,
      fun c hfar hslot hcand hcoll hs q => execReplyWindowClose_far hphase hs q hfar hslot hcand hcoll⟩,
    fun packet => ⟨fun h => execMemReceived_stopped h packet, fun hrun h => ?_, fun c l hrun hphase hgrant hcand =>
      memReceived_steps s packet c l hrun hphase hgrant hcand⟩,
    execMemTimeout_of_not, fun c hphase hgrant hcand hcoll hs q => ?_⟩
  · obtain ⟨hcount, hopn, hshort, hph, htries, hstart, hlfen, hseed, hchal, hlfb, -, hkeeps⟩ := s.searchBegin_spec 0 hat
    exact ⟨_, congrArg Host.Outcome.next (if_pos ⟨hrun, hscan, hper, hlf, hphase, hretry, hsafe, htrng, hat⟩), hcount, hopn, hshort, hph, htries,
      hstart, hlfen, hseed, hchal, hlfb, hkeeps⟩
  · obtain ⟨hcount, -, -, hph, htries, hstart, -, -, -, hlfb, hret, hkeeps⟩ := s.searchBegin_spec (s.acc.srch.tries + 1) hat
    exact ⟨_, congrArg Host.Outcome.next (if_pos ⟨hrun, hretry, hdue, hscan, hlf, hsafe, htrng, hat⟩), hcount, hph, htries, hstart, hret, hlfb, hkeeps⟩
  · constructor
    · refine execSearchStart_of_not (fun ⟨h1, h2, _, h4, _, _, h7, h8, h9⟩ => ?_)
      rcases hnot with h | h | h | h | h | h
      · exact Bool.false_ne_true (h.symm.trans h1)
      · exact Bool.false_ne_true (h.symm.trans h2)
      · exact h4 h
      · exact Bool.false_ne_true (h7.symm.trans h)
      · exact Bool.false_ne_true (h8.symm.trans h)
      · exact absurd h9 (Nat.not_le.mpr h)
    · refine execRetrySearch_of_not (fun ⟨h1, _, _, h2, h4, h7, h8, h9⟩ => ?_)
      rcases hnot with h | h | h | h | h | h
      · exact Bool.false_ne_true (h.symm.trans h1)
      · exact Bool.false_ne_true (h.symm.trans h2)
      · exact h4 h
      · exact Bool.false_ne_true (h7.symm.trans h)
      · exact Bool.false_ne_true (h8.symm.trans h)
      · exact absurd h9 (Nat.not_le.mpr h)
  · refine execSearchStart_of_not (fun ⟨_, _, h3, _, h5, h6, _, _, _⟩ => ?_)
    rcases hnot with h | h | h
    · exact h h3
    · exact h h5
    · exact Bool.false_ne_true (h6.symm.trans h)
  · refine execRetrySearch_of_not (fun ⟨_, h2, h3, _, _, _, _, _⟩ => ?_)
    rcases hnot with h | h
    · exact Bool.false_ne_true (h.symm.trans h2)
    · exact Bool.false_ne_true (h.symm.trans h3)
  · obtain ⟨pins, hu⟩ := s.observe_eq w
    have hacc : ((s.observe w).advance s.acc.srch.telegramEnd).acc = s.acc := by
      rw [hu]
      rfl
    have hcount : ((s.observe w).advance s.acc.srch.telegramEnd).count = max s.count s.acc.srch.telegramEnd := by
      rw [hu]
      rfl
    have hdone := State.accWake_done (s := (s.observe w).advance s.acc.srch.telegramEnd) (by rw [hacc]; exact hwoke)
    refine ⟨_, execLfTelegramEnd_of_telegram h w rfl hdone (by rw [hacc]; exact h), ?_, hcount, ?_⟩
    · exact congrArg (fun a : AccBlk => { a.srch with phase := 2, tref := s.acc.srch.telegramEnd }) hacc
    · exact State.keeps_trans (State.advance_keeps _ _) (State.setAcc_keeps _ _)
  · refine execAerialShort_of_not a amps (fun ⟨h1, h2, h3, h4⟩ => ?_)
    rcases hnot with h | h | h | h
    · exact h h1
    · exact Bool.false_ne_true (h.symm.trans h2)
    · exact Bool.false_ne_true (h3.symm.trans h)
    · omega
  · exact ⟨_, execTokenReply_late hrun hphase hlate packet, s.replyRead_spec after⟩
  · obtain ⟨hother, hnear, hoff⟩ := tokenReply_steps s after packet hrun hphase hin hfar
    refine ⟨hother, hnear, hoff, fun hcoll => ?_⟩
    have hread := s.replyRead_spec after
    have hseen : s.keeps ((s.replyRead after).setSrch (fun y => { y with seen := y.seen ||| 2 ^ s.irqSlot after })) [.acc, .count] :=
      State.keeps_trans hread.2.2 (State.setAcc_keeps _ _)
    obtain ⟨hacc, hcount, hagain, hfirst⟩ := State.slotCollides_spec (s := (s.replyRead after).setSrch (fun y => { y with
      seen := y.seen ||| 2 ^ s.irqSlot after })) hfar (s.irqSlot after)
    rw [show ((s.replyRead after).setSrch (fun y => { y with seen := y.seen ||| 2 ^ s.irqSlot after })).fld F.accLogidxNext =
      s.fld F.accLogidxNext from rfl] at hfirst
    refine ⟨_, execTokenReply_collision hrun hphase hin hfar hcoll, hcount, hacc, fun h => State.keeps_trans (n := [.acc, .count]) hseen (hagain h),
      fun h => ⟨?_, fun hs => (hfirst h).2 hs⟩⟩
    exact State.keeps_trans hseen (hfirst h).1 (by simp) (by simp)
  · have hexec := execReplyWindowClose_of_none hphase hfar
    rw [hcand, State.authFrom_sound (s := s.windowClosed) s.windowClosed_phase hentry hkey hrt] at hexec
    refine ⟨_, hexec, rfl, State.keeps_trans (n := [.acc, .count]) s.windowClosed_spec.2.2 (State.setAcc_keeps _ _), ?_⟩
    dsimp only
    rw [hcand]
    rfl
  · have hexec := execReplyWindowClose_of_none hphase hfar
    rw [hcand, State.authFrom_unknown (s := s.windowClosed) s.windowClosed_phase hentry] at hexec
    obtain ⟨racc, -⟩ := State.accResult_acc (s := s.windowClosed) c (res := 3) (by decide)
    obtain ⟨hsrch, hlast, -, -⟩ := State.authFrom_over (s := s.windowClosed.accResult c 3) (r := { tok := c, res := 3, search := s.acc.srch.tries })
      (by rw [racc]; exact s.windowClosed_phase) (by rw [racc]; exact hcoll) (by rw [racc]; rfl)
    exact ⟨_, hexec, hsrch, hlast⟩
  · have hexec := execReplyWindowClose_of_none hphase hfar
    rw [hcand, State.authFrom_unsound (s := s.windowClosed) s.windowClosed_phase hentry hbad] at hexec
    obtain ⟨hsrch, hlast, -, hsticky⟩ := State.authFail_last (s := s.windowClosed) (t := c) hs q s.windowClosed_phase hcoll
    exact ⟨_, hexec, hsrch, hlast, hsticky⟩
  · exact ⟨_, execMemReceived_discarded hrun h, rfl, s.setAcc_keeps _⟩
  · have hexec := execMemTimeout_due hphase hgrant hcand
    obtain ⟨hsrch, hlast, hcount, hsticky⟩ := State.authFail_last (s := s.advance (s.acc.srch.authAt + 20000 * ticksPerUs)) (t := c) hs q
      (by show s.acc.srch.phase ≠ 0; omega) hcoll
    exact ⟨_, hexec, hsrch, hlast, hcount, hsticky⟩

end Sys2Proof.Machine
end

section
/-!
PROOFS. CAN transmission, reception and error confinement (O48).
-/

/- One proof at a time: the check of the whole text comes near its limit of memory. -/
set_option Elab.async false

namespace Sys2Proof.Machine

/-! ### Arbitration (R463) -/

/-- The better of two pending frames. -/
def betterFrame (best : Option (TxSrc × CanMsg)) (p : TxSrc × CanMsg) : Option (TxSrc × CanMsg) :=
  match best with
  | none => some p
  | some b => if msgRank p.2 < msgRank b.2 then some p else some b

/-- The best of a list is one of its frames, and none has a lower rank. -/
theorem foldl_betterFrame (l : List (TxSrc × CanMsg)) (b : TxSrc × CanMsg) : ∃ w, l.foldl betterFrame (some b) = some w ∧ w ∈ b :: l ∧
    ∀ q ∈ b :: l, msgRank w.2 ≤ msgRank q.2 := by
  induction l generalizing b with
  | nil => exact ⟨b, rfl, List.mem_singleton.mpr rfl, fun q hq => by rw [List.mem_singleton.mp hq]⟩
  | cons p l ih =>
    rw [List.foldl_cons]
    by_cases h : msgRank p.2 < msgRank b.2
    · obtain ⟨w, hw, hmem, hmin⟩ := ih p
      refine ⟨w, by rw [← hw]; exact congrArg (List.foldl betterFrame · l) (if_pos h), List.mem_cons_of_mem _ hmem, fun q hq => ?_⟩
      rcases List.mem_cons.mp hq with rfl | hq
      · exact (hmin p List.mem_cons_self).trans h.le
      · exact hmin q hq
    · obtain ⟨w, hw, hmem, hmin⟩ := ih b
      refine ⟨w, by rw [← hw]; exact congrArg (List.foldl betterFrame · l) (if_neg h), ?_, fun q hq => ?_⟩
      · rcases List.mem_cons.mp hmem with rfl | hm
        · exact List.mem_cons_self
        · exact List.mem_cons_of_mem _ (List.mem_cons_of_mem _ hm)
      · rcases List.mem_cons.mp hq with rfl | hq
        · exact hmin _ List.mem_cons_self
        · rcases List.mem_cons.mp hq with rfl | hq
          · exact (hmin b List.mem_cons_self).trans (not_lt.mp h)
          · exact hmin q (List.mem_cons_of_mem _ hq)

theorem Can.winner_least {c : Can} {w : TxSrc × CanMsg} (h : c.winner = some w) : w ∈ c.pending ∧ ∀ q ∈ c.pending, msgRank w.2 ≤ msgRank q.2 := by
  have hfold : c.winner = c.pending.foldl betterFrame none := rfl
  rw [hfold] at h
  cases hp : c.pending with
  | nil =>
    rw [hp] at h
    exact absurd h (by simp)
  | cons b l =>
    rw [hp] at h
    obtain ⟨v, hv, hmem, hmin⟩ := foldl_betterFrame l b
    have : v = w := Option.some.inj (hv.symm.trans h)
    exact this ▸ ⟨hmem, hmin⟩

section
variable {s : State} {n : Fin 6}

/-! ### Transmission starts (R462, R463, R492) -/

theorem execCanTxStart_of_not (h : ¬(s.canRunning n = true ∧ (s.cn n).run = .on ∧ (s.cn n).tx = none ∧
      (s.fld (F.canCtlMode n) = 0 ∨ s.fld (F.canCtlMode n) = 3))) : exec (.canTxStart n) s = .next s :=
  congrArg Host.Outcome.next (if_neg h)

section
variable (h : s.canRunning n = true ∧ (s.cn n).run = .on ∧ (s.cn n).tx = none ∧ (s.fld (F.canCtlMode n) = 0 ∨ s.fld (F.canCtlMode n) = 3))
include h

theorem execCanTxStart_idle (hw : (s.cn n).winner = none) : exec (.canTxStart n) s = .next s := by
  refine congrArg Host.Outcome.next ((if_pos h).trans ?_)
  rw [hw]

/-- The message of a frame as it starts: a GTS frame takes its countdown (R492). -/
def State.startedMsg (s : State) (src : TxSrc) (m : CanMsg) : CanMsg :=
  if src = .nm ∧ (m.data.getD 1 0).testBit 2 then { m with data := (m.data.take 3) ++ [s.nmCd % 256, s.nmCd / 256] ++ m.data.drop 5 } else m

theorem execCanTxStart_winner {src : TxSrc} {m : CanMsg} (hw : (s.cn n).winner = some (src, m)) :
    exec (.canTxStart n) s = .next (s.setCan n (fun c => { c with
      tx := some (src, { s.startedMsg src m with esi := (s.startedMsg src m).fdf && decide ((s.cn n).estate = 1) }), newer := false })) := by
  refine congrArg Host.Outcome.next ((if_pos h).trans ?_)
  rw [hw]
  rfl

end

theorem State.startedMsg_other {src : TxSrc} (h : src ≠ .nm) (m : CanMsg) : s.startedMsg src m = m := if_neg (fun hc => h hc.1)

theorem State.startedMsg_id (src : TxSrc) (m : CanMsg) : (s.startedMsg src m).id = m.id := by
  unfold State.startedMsg
  split <;> rfl

/-! ### A controller step by step -/

theorem State.canCounts_normal (h : s.fld (F.canCtlMode n) = 0) : s.canCounts n = true := by
  unfold State.canCounts
  rw [h]
  rfl

end

/-- The controller becomes `c`, and nothing beside the named parts changes. -/
structure CanBecomes (s t : State) (n : Fin 6) (c : Can) (l : List Part) : Prop where
  cn : t.cn n = c
  keeps : s.keeps t l

section
variable {s t : State} {n : Fin 6} {c : Can} {l : List Part}

theorem CanBecomes.refl (s : State) (n : Fin 6) (l : List Part) : CanBecomes s s n (s.cn n) l := ⟨rfl, s.keeps_refl l⟩

theorem CanBecomes.beside {u : State} (h : CanBecomes s t n c l) (hcn : u.cn n = t.cn n) (hk : t.keeps u l) : CanBecomes s u n c l :=
  ⟨hcn.trans h.cn, State.keeps_trans h.keeps hk (List.Subset.refl l) (List.Subset.refl l)⟩

theorem CanBecomes.setCan (h : CanBecomes s t n c l) (f : Can → Can) (hn : Part.can n ∈ l := by simp) : CanBecomes s (t.setCan n f) n (f c) l :=
  ⟨by rw [State.cn_setCan, h.cn], State.keeps_setCan h.keeps n f hn⟩

theorem CanBecomes.lost (h : CanBecomes s t n c l) (b : Bool) (hn : Part.can n ∈ l := by simp) :
    CanBecomes s (t.canLost n b) n { c with fr := { c.fr with lost := c.fr.lost + b2n b } } l := by
  cases b with
  | false => exact h
  | true => exact h.setCan (fun d => { d with fr := { d.fr with lost := d.fr.lost + 1 } }) hn

/-- Counters that stay low (R465). -/
theorem CanBecomes.count (h : CanBecomes s t n c l) (he : c.estate = 0) {tec rec : Nat} (ht : tec < 128) (hr : rec < 128)
    (hn : Part.can n ∈ l := by simp) : CanBecomes s (t.canCount n tec rec) n { c with tec := tec, recv := rec, estate := 0 } l := by
  rw [State.canCount_active (by rw [h.cn]; exact he) ht hr]
  exact h.setCan (fun d => { d with tec := tec, recv := rec, estate := 0 }) hn

/-- ACKERR below 64 (R466). -/
theorem CanBecomes.ackerr (h : CanBecomes s t n c l) {v : Nat} (hv : v < 64) (hn : Part.can n ∈ l := by simp) :
    CanBecomes s (t.setAckerr n v) n { c with ackerr := v, lone := c.lone && v != 0 } l := by
  rw [State.setAckerr_low hv, h.cn]
  exact h.setCan (fun d => { d with ackerr := v, lone := c.lone && v != 0 }) hn

/-- The end of a frame on a controller that goes on (R451). -/
theorem CanBecomes.frameEnd (h : CanBecomes s t n c l) (hrun : c.run = .on) (hp : Part.pin (.canBusy n) ∈ l := by simp) :
    CanBecomes s (t.canFrameEnd n) n c l := by
  obtain ⟨hcn, hkeeps⟩ := State.canFrameEnd_on (s := t) (n := n) (by rw [h.cn]; exact hrun)
  exact h.beside hcn (State.keeps_mono hkeeps (by simpa using hp))

end

section
variable {s : State} {n : Fin 6}

/-! ### A transmission succeeds (R462, R465, R466) -/

theorem execCanTxSuccess_of_none (h : (s.cn n).tx = none) : exec (.canTxSuccess n) s = .next s := by
  refine congrArg Host.Outcome.next ?_
  rw [h]

/-- The frame counted as sent. -/
def State.txNoted (s : State) (n : Nat) (src : TxSrc) : State :=
  ((s.txDone n src).setCan n (fun c => { c with tx := none, newer := false })).setCanFr n (fun f => { f with tx := f.tx + 1 })

theorem execCanTxSuccess_normal {src : TxSrc} {m : CanMsg} (h : (s.cn n).tx = some (src, m)) (hmode : s.fld (F.canCtlMode n) = 0) :
    exec (.canTxSuccess n) s = .next ((((s.txNoted n src).canCount n (((s.txNoted n src).cn n).tec - 1) ((s.txNoted n src).cn n).recv).setAckerr
      n 0).canFrameEnd n) := by
  refine congrArg Host.Outcome.next ?_
  rw [h]
  dsimp only
  rw [State.canCounts_normal hmode, hmode]
  rfl

/-- A controller after a frame sent in the normal mode, its source done. -/
def Can.sent (c : Can) : Can :=
  { c with tx := none, newer := false, fr := { c.fr with tx := c.fr.tx + 1 }, tec := c.tec - 1, estate := 0, ackerr := 0, lone := false }

theorem execCanTxSuccess_sent {src : TxSrc} {m : CanMsg} (h : (s.cn n).tx = some (src, m)) (hmode : s.fld (F.canCtlMode n) = 0) {u : State}
    (hu : s.txDone n src = u) (hcalm : (u.cn n).estate = 0 ∧ (u.cn n).tec < 128 ∧ (u.cn n).recv < 128) (hrun : (u.cn n).run = .on) :
    ∃ t, exec (.canTxSuccess n) s = .next t ∧ CanBecomes u t n (u.cn n).sent [.can n, .pin (.canBusy n)] := by
  obtain ⟨he, ht, hr⟩ := hcalm
  have hnoted := ((CanBecomes.refl u n [.can n, .pin (.canBusy n)]).setCan (fun c => { c with tx := none, newer := false })).setCan
    (fun c => { c with fr := { c.fr with tx := c.fr.tx + 1 } })
  have hexec := execCanTxSuccess_normal h hmode
  have hend : s.txNoted n src = (u.setCan n (fun c => { c with tx := none, newer := false })).setCan n
      (fun c => { c with fr := { c.fr with tx := c.fr.tx + 1 } }) := hu ▸ rfl
  rw [hend, hnoted.cn] at hexec
  have hcounted := hnoted.count he (tec := (u.cn n).tec - 1) (rec := (u.cn n).recv) (by omega) hr
  have hended := (hcounted.ackerr (by decide : 0 < 64)).frameEnd hrun
  exact ⟨_, hexec, hended.cn.trans (by simp [Can.sent]), hended.keeps⟩

/-! ### A transmission fails (R462, R465 to R467) -/

theorem execCanTxError_of_none (h : (s.cn n).tx = none) (e : CanErr) (more : Nat) : exec (.canTxError n e more) s = .next s :=
  congrArg Host.Outcome.next (if_pos h)

/-- What a cause does beside the controllers. -/
theorem State.canCause_can (s : State) (n : Fin 6) (cause : Nat) : (s.canCause n cause).can = s.can := by
  unfold State.canCause
  split
  · exact ((Reacted.refl _).raiseEvent (50 + n.val) (by omega)).links.1
  · rfl

theorem State.cn_of_can {t : State} (h : t.can = s.can) (n : Nat) : t.cn n = s.cn n := by
  unfold State.cn
  rw [h]

/-- A TEC above 255 is bus-off: nothing is sent any more (R467). -/
theorem State.canCount_busOff {tec rec : Nat} (h : 255 < tec) : ∃ v, s.canCount n tec rec = v ∧ (v.cn n).run = (s.cn n).run ∧
    (v.cn n).estate = 2 ∧ ((s.cn n).tx = none → (v.cn n).tx = none) ∧
      ((v.cn n).recovering = s.bit (F.canCtlAutorec n) ∨ (s.cn n).estate = 2) := by
  have h2 : (if 255 < tec then 2 else if 128 ≤ tec ∨ 128 ≤ rec then 1 else 0) = 2 := if_pos h
  refine ⟨_, rfl, ?_⟩
  unfold State.canCount
  dsimp only
  have hpassive : ¬(2 = 1 ∧ (s.cn n).estate = 0) := fun hc => absurd hc.1 (by decide)
  rw [h2, if_neg hpassive]
  by_cases he : (s.cn n).estate = 2
  · have hsame : ¬(2 = 2 ∧ (s.cn n).estate ≠ 2) := fun hc => hc.2 he
    rw [if_neg hsame, if_pos he.symm, State.cn_setCan]
    exact ⟨rfl, rfl, id, .inr he⟩
  · have hfalls : 2 = 2 ∧ (s.cn n).estate ≠ 2 := ⟨rfl, he⟩
    rw [if_pos hfalls, if_neg (Ne.symm he)]
    have hcn (u : State) : ((u.raiseSource (153 + n.val)).canCause n 3).cn n = u.cn n :=
      (State.cn_of_can (State.canCause_can _ n 3) n).trans
        (State.cn_of_can ((Reacted.refl u).raiseSource (153 + n.val) (by omega)).links.1 n)
    unfold State.setCanFr
    rw [hcn, State.cn_setCan, State.cn_setCan, State.cn_setCan]
    exact ⟨rfl, rfl, fun _ => rfl, .inl rfl⟩

section
variable (h : (s.cn n).tx ≠ none) (hmode : s.fld (F.canCtlMode n) = 0)
include h hmode

theorem execCanTxError_arbitration : exec (.canTxError n .arbitration 0) s = .next (((s.setCan n (fun c => { c with
    tx := none, newer := false })).canCount n (min 511 ((s.cn n).tec + 0)) (s.cn n).recv).canFrameEnd n) := by
  refine congrArg Host.Outcome.next ((if_neg h).trans ?_)
  dsimp only
  rw [State.canCounts_normal hmode, if_pos rfl]

theorem execCanTxError_other (more : Nat) : exec (.canTxError n .other more) s = .next (((s.setCan n (fun c => { c with
    tx := none, newer := false })).canCount n (min 511 ((s.cn n).tec + (8 + 8 * more))) (s.cn n).recv).canFrameEnd n) := by
  refine congrArg Host.Outcome.next ((if_neg h).trans ?_)
  dsimp only
  rw [State.canCounts_normal hmode, if_pos rfl]

theorem execCanTxError_ackActive (he : (s.cn n).estate = 0) (dom : Bool) (more : Nat) : exec (.canTxError n (.ack dom) more) s = .next ((((s.setCan n
    (fun c => { c with tx := none, newer := false })).setAckerr n (incTo 255 (s.cn n).ackerr)).canCount n
      (min 511 ((s.cn n).tec + (8 + 8 * more))) (s.cn n).recv).canFrameEnd n) := by
  refine congrArg Host.Outcome.next ((if_neg h).trans ?_)
  dsimp only
  rw [State.canCounts_normal hmode, if_pos rfl, if_pos (.inl he)]

section
variable (hcalm : (s.cn n).estate = 0 ∧ (s.cn n).tec < 128 ∧ (s.cn n).recv < 128) (hrun : (s.cn n).run = .on)
include hcalm hrun

omit h hmode in
/-- A transmission that ends without an ACK error, TEC raised by `add`. -/
theorem execCanTxError_raised {e : CanErr} {more add : Nat} (hlow : (s.cn n).tec + add < 128)
    (hexec : exec (.canTxError n e more) s = .next (((s.setCan n (fun c => { c with tx := none, newer := false })).canCount n
      (min 511 ((s.cn n).tec + add)) (s.cn n).recv).canFrameEnd n)) :
    ∃ t, exec (.canTxError n e more) s = .next t ∧
      CanBecomes s t n { s.cn n with tx := none, newer := false, tec := (s.cn n).tec + add, estate := 0 } [.can n, .pin (.canBusy n)] := by
  obtain ⟨he, ht, hr⟩ := hcalm
  have hmin : min 511 ((s.cn n).tec + add) = (s.cn n).tec + add := min_eq_right (by omega)
  rw [hmin] at hexec
  exact ⟨_, hexec, (((CanBecomes.refl s n _).setCan (fun c => { c with tx := none, newer := false })).count he hlow hr).frameEnd hrun⟩

/-- One without an acknowledgement. -/
theorem execCanTxError_ack (dom : Bool) {more : Nat} (hlow : (s.cn n).tec + 8 + 8 * more < 128) (hack : (s.cn n).ackerr < 63) :
    ∃ t, exec (.canTxError n (.ack dom) more) s = .next t ∧ CanBecomes s t n { s.cn n with
      tx := none, newer := false, ackerr := (s.cn n).ackerr + 1, lone := (s.cn n).lone, tec := (s.cn n).tec + 8 + 8 * more, estate := 0 }
      [.can n, .pin (.canBusy n)] := by
  obtain ⟨he, ht, hr⟩ := hcalm
  have hmin : min 511 ((s.cn n).tec + (8 + 8 * more)) = (s.cn n).tec + 8 + 8 * more := by omega
  have hinc : incTo 255 (s.cn n).ackerr = (s.cn n).ackerr + 1 := by
    unfold incTo
    omega
  have hexec := execCanTxError_ackActive h hmode he dom more
  rw [hmin, hinc] at hexec
  have hacked := ((CanBecomes.refl s n [.can n, .pin (.canBusy n)]).setCan (fun c => { c with tx := none, newer := false })).ackerr
    (v := (s.cn n).ackerr + 1) (by omega)
  have hended := (hacked.count he hlow hr).frameEnd hrun
  exact ⟨_, hexec, hended.cn.trans (by simp), hended.keeps⟩

end

/-- TEC above 255: bus-off (R467). -/
theorem execCanTxError_busOff (hrun : (s.cn n).run = .on) (hle : (s.cn n).tec ≤ 255) (hgt : 255 < (s.cn n).tec + 8) :
    ∃ t, exec (.canTxError n .other 0) s = .next t ∧ (t.cn n).estate = 2 ∧ (t.cn n).tx = none ∧
      ((t.cn n).recovering = s.bit (F.canCtlAutorec n) ∨ (s.cn n).estate = 2) := by
  have hexec := execCanTxError_other h hmode 0
  have hmin : min 511 ((s.cn n).tec + (8 + 8 * 0)) = (s.cn n).tec + 8 := by omega
  rw [hmin] at hexec
  obtain ⟨v, hv, hcn⟩ := State.canCount_busOff (s := s.setCan n (fun c => { c with tx := none, newer := false })) (n := n)
    (rec := (s.cn n).recv) hgt
  rw [State.cn_setCan] at hcn
  obtain ⟨hend, -⟩ := State.canFrameEnd_on (s := v) (n := n) (hcn.1.trans hrun)
  rw [hv] at hexec
  exact ⟨_, hexec, by rw [hend]; exact hcn.2.1, by rw [hend]; exact hcn.2.2.1 rfl, by rw [hend]; exact hcn.2.2.2⟩

end

/-! ### Recovery (R467) -/

theorem execRecover_of_on (h : s.storesOff = false) : exec (.recover n) s = .next (s.canRecover n) :=
  congrArg Host.Outcome.next (State.store_of_on h _ _)

theorem State.canRecover_of_other (h : (s.cn n).estate ≠ 2) : s.canRecover n = s := if_neg h

theorem State.canRecover_of_busOff (h : (s.cn n).estate = 2) : s.canRecover n = s.setCan n (fun c => { c with recovering := true }) := if_pos h

theorem execBusOffRecovery_of_not (h : ¬((s.cn n).estate = 2 ∧ (s.cn n).recovering = true ∧ (s.cn n).run ≠ .stopped ∧ s.domOn 9 = true)) :
    exec (.busOffRecovery n) s = .next s := congrArg Host.Outcome.next (if_neg h)

/-- The counters of a controller that recovers are 0. -/
theorem State.canCount_recovers (h : (s.cn n).estate = 2) : (s.canCount n 0 0).cn n = { s.cn n with tec := 0, recv := 0, estate := 0 } := by
  have h0 : (if 255 < 0 then 2 else if 128 ≤ 0 ∨ 128 ≤ 0 then 1 else 0) = 0 := rfl
  unfold State.canCount
  dsimp only
  rw [h0, h, if_neg (by decide), if_neg (by decide), if_neg (by decide)]
  exact (State.cn_of_can (State.canCause_can _ n 3) n).trans (State.cn_setCan s n _)

theorem execBusOffRecovery_due (h : (s.cn n).estate = 2 ∧ (s.cn n).recovering = true ∧ (s.cn n).run ≠ .stopped ∧ s.domOn 9 = true) :
    ∃ t, exec (.busOffRecovery n) s = .next t ∧ t.cn n = { s.cn n with tec := 0, recv := 0, estate := 0, recovering := false } := by
  refine ⟨_, congrArg Host.Outcome.next (if_pos h), ?_⟩
  rw [State.cn_setCan, State.canCount_recovers h.1]

/-! ### Reception (R454, R457, R464, R465, R469) -/

theorem execCanFrameReceived_of_not {m : CanMsg} (h : s.canRunning n = false ∨ msgValid m = false ∨ s.fld (F.canCtlMode n) = 3) (res : Bool) :
    exec (.canFrameReceived n m res) s = .next s := congrArg Host.Outcome.next (if_pos h)

theorem execCanBusError_of_not (h : s.canRunning n = false ∨ (s.cn n).tx ≠ none) (heavy : Nat) : exec (.canBusError n heavy) s = .next s := by
  refine congrArg Host.Outcome.next (if_neg (fun hc => ?_))
  rcases h with h | h
  · exact Bool.false_ne_true (h.symm.trans hc.1)
  · exact h hc.2

theorem execCanBusError_low (hrunning : s.canRunning n = true) (htx : (s.cn n).tx = none) (hmode : s.fld (F.canCtlMode n) = 0)
    (hcalm : (s.cn n).estate = 0 ∧ (s.cn n).tec < 128 ∧ (s.cn n).recv < 128) (hrun : (s.cn n).run = .on) {heavy : Nat}
    (hlow : (s.cn n).recv + 1 + 8 * heavy < 128) : ∃ t, exec (.canBusError n heavy) s = .next t ∧
      CanBecomes s t n { s.cn n with tec := (s.cn n).tec, recv := (s.cn n).recv + 1 + 8 * heavy, estate := 0 } [.can n, .pin (.canBusy n)] := by
  obtain ⟨he, ht, hr⟩ := hcalm
  have hmin : min 511 ((s.cn n).recv + 1 + 8 * heavy) = (s.cn n).recv + 1 + 8 * heavy := min_eq_right (by omega)
  have hexec : exec (.canBusError n heavy) s = .next ((s.canCount n (s.cn n).tec (min 511 ((s.cn n).recv + 1 + 8 * heavy))).canFrameEnd n) := by
    refine congrArg Host.Outcome.next ((if_pos ⟨hrunning, htx⟩).trans ?_)
    exact congrArg (State.canFrameEnd · n) (if_pos (State.canCounts_normal hmode))
  rw [hmin] at hexec
  exact ⟨_, hexec, ((CanBecomes.refl s n _).count he ht hlow).frameEnd hrun⟩

theorem canFrame_good {m : CanMsg} (hrunning : s.canRunning n = true) (hvalid : msgValid m = true) (hlisten : s.fld (F.canCtlMode n) ≠ 3) :
    ¬(s.canRunning n = false ∨ msgValid m = false ∨ s.fld (F.canCtlMode n) = 3) := by simp [hrunning, hvalid, hlisten]

/-- A protocol exception (R469). -/
theorem execCanFrameReceived_exception {m : CanMsg} (hgood : ¬(s.canRunning n = false ∨ msgValid m = false ∨ s.fld (F.canCtlMode n) = 3))
    (hfd : m.fdf = true) (hpex : s.bit (F.canCtlPex n) = true) (hrun : (s.cn n).run = .on) :
    exec (.canFrameReceived n m true) s = .next ((s.setBit (F.canStatPexc n)).setCan n (fun c => { c with
      run := if c.run = .stopping ∧ s.bit (F.canCtlRun n) = false then .stopped else .integrating })) ∧
    ((s.setBit (F.canStatPexc n)).setCan n (fun c => { c with
      run := if c.run = .stopping ∧ s.bit (F.canCtlRun n) = false then .stopped else .integrating })).cn n = { s.cn n with run := .integrating } := by
  constructor
  · exact congrArg Host.Outcome.next ((if_neg hgood).trans ((if_pos (by simp [hfd])).trans (if_pos hpex)))
  · rw [State.cn_setCan]
    show { s.cn n with run := if (s.cn n).run = CanRun.stopping ∧ s.bit (F.canCtlRun n) = false then CanRun.stopped else .integrating } = _
    rw [if_neg (by rw [hrun]; exact fun hc => absurd hc.1 (by decide))]

/-- A valid frame in the normal mode: the counters move, the frame is accepted, NM hears it. -/
def State.rxCounted (s : State) (n : Fin 6) : State :=
  ((({ s with free := s.free + 1 } : State).canCount n (s.cn n).tec ((s.cn n).recv - 1)).setAckerr n 0).setCanFr n (fun f => { f with valid := true })

section
variable {m : CanMsg} (hgood : ¬(s.canRunning n = false ∨ msgValid m = false ∨ s.fld (F.canCtlMode n) = 3)) (hmode : s.fld (F.canCtlMode n) = 0)
  (hcalm : (s.cn n).estate = 0 ∧ (s.cn n).tec < 128 ∧ (s.cn n).recv < 128)
include hgood hmode hcalm

theorem execCanFrameReceived_normal :
    exec (.canFrameReceived n m false) s = .next ((((s.rxCounted n).canAccept n m).nmHear n m false).canFrameEnd n) := by
  have hlow : ¬127 < (s.cn n).recv := by omega
  refine congrArg Host.Outcome.next ((if_neg hgood).trans ((if_neg (by simp)).trans ?_))
  dsimp only
  rw [State.canCounts_normal hmode, if_pos rfl, if_neg hlow]
  rfl

omit hgood hmode in
theorem State.rxCounted_spec : CanBecomes s (s.rxCounted n) n { s.cn n with
      recv := (s.cn n).recv - 1, estate := 0, ackerr := 0, lone := false, fr := { (s.cn n).fr with valid := true } } [.can n, .free] ∧
    (s.rxCounted n).regs = s.regs ∧ (s.rxCounted n).nm = s.nm ∧ (s.canonical → (s.rxCounted n).canonical) := by
  obtain ⟨he, ht, hr⟩ := hcalm
  have hfree : CanBecomes s ({ s with free := s.free + 1 } : State) n (s.cn n) [.can n, .free] :=
    ⟨rfl, State.keeps_mono (s.withFree_keeps _) (by simp)⟩
  have hcounted := (hfree.count he (tec := (s.cn n).tec) (rec := (s.cn n).recv - 1) ht (by omega)).ackerr (by decide : 0 < 64)
  have hnoted := hcounted.setCan (fun c => { c with fr := { c.fr with valid := true } })
  refine ⟨⟨hnoted.cn.trans (by simp), hnoted.keeps⟩, ?_⟩
  unfold State.rxCounted
  rw [State.canCount_active (s := { s with free := s.free + 1 }) he ht (by omega), State.setAckerr_low (by decide : 0 < 64)]
  exact ⟨rfl, rfl, id⟩

end

/-- What a register bit is depends on the registers alone. -/
theorem State.bit_of_regs {t : State} (h : t.regs = s.regs) (f : Fld) : t.bit f = s.bit f := by
  unfold State.bit State.fld State.reg
  rw [h]

/-- Where a frame goes depends on the registers alone. -/
theorem State.canObjectFor_of_regs {t : State} (h : t.regs = s.regs) (m : CanMsg) : t.canObjectFor n m = s.canObjectFor n m := by
  unfold State.canObjectFor State.bit State.fld State.reg
  rw [h]

theorem State.canFilter_of_regs {t : State} (h : t.regs = s.regs) (m : CanMsg) : t.canFilter n m = s.canFilter n m := by
  unfold State.canFilter State.bit State.fld State.reg
  rw [h]

theorem State.canEvo_of_regs {t : State} (h : t.regs = s.regs) (o : Nat) : t.canEvo n o = s.canEvo n o := by
  unfold State.canEvo State.fld State.reg
  rw [h]

section
variable {m : CanMsg}

theorem State.canAccept_object {o : Nat} (h : s.canObjectFor n m = some o) :
    s.canAccept n m = (s.objArrival n o m).setCanFr n (fun f => { f with rx := f.rx + 1 }) := by
  unfold State.canAccept
  rw [h]

theorem State.canAccept_none (h : s.canObjectFor n m = none) (hf : s.canFilter n m = false) : s.canAccept n m = s := by
  unfold State.canAccept
  rw [h]
  exact if_neg (by simp [hf])

theorem State.canAccept_queue (h : s.canObjectFor n m = none) (hf : s.canFilter n m = true) : s.canAccept n m =
    if 64 ≤ (s.cn n).queue.length then s.queueArrival n m else (s.queueArrival n m).setCanFr n (fun f => { f with rx := f.rx + 1 }) := by
  unfold State.canAccept
  rw [h]
  exact if_pos hf

theorem State.objArrival_unlocked {o : Nat} (hlock : (s.cn n).locked o = false) (hevo : s.canEvo n o = false) : s.objArrival n o m =
    (s.setObj n o (fun y => { y with msg := some m, lost := y.lost || y.new, new := true })).canLost n ((s.cn n).obj o).new := by
  unfold State.objArrival
  dsimp only
  rw [if_pos (by simp [hlock]), if_neg (by simp [hevo])]

theorem State.queueArrival_room (hroom : (s.cn n).queue.length < 64) (hne : (s.cn n).queue ≠ []) :
    s.queueArrival n m = s.setCan n (fun c => { c with queue := c.queue ++ [m] }) := by
  unfold State.queueArrival
  dsimp only
  rw [if_neg (by omega), if_neg (by simpa using hne)]

theorem State.queueArrival_full (hfull : 64 ≤ (s.cn n).queue.length) : s.queueArrival n m =
    ((s.setBit (F.canStatQovf n)).satInc (F.canQstatDrop n)).setCanFr n (fun f => { f with qovf := true, qdrop := f.qdrop + 1 }) := if_pos hfull

theorem State.nmHear_other (h : n.val ≠ s.nmPort) (own : Bool) : s.nmHear n m own = s := if_neg h

/-! ### NM (R485, R487) -/

/-- NM has heard a frame of its controller. -/
def State.nmTraffic (s : State) : State := s.setNm (fun x => { x with traffic := true })

/-- The identifier is of the range of NM. -/
def State.nmNamed (s : State) (m : CanMsg) : Prop := m.xtd = false ∧ s.nmCfg F.nmCfgBase ≤ m.id ∧ m.id ≤ s.nmCfg F.nmCfgBase + 63

/-- The frame passes the checks of NM. -/
def State.nmRight (s : State) (m : CanMsg) : Prop := m.rtr = false ∧ m.fdf = false ∧ m.len = 8 ∧ m.data.getD 1 0 / 16 % 16 = 1 ∧
  m.data.getD 0 0 % 64 = m.id - s.nmCfg F.nmCfgBase ∧ m.data.getD 0 0 % 64 ≠ s.nmCfg F.nmCfgNode

/-- What NM notes of a frame. -/
def State.nmNoted (s : State) (m : CanMsg) : NmRx :=
  ⟨m.data.getD 0 0 % 64, (m.data.getD 1 0).testBit 0, (m.data.getD 1 0).testBit 1, (m.data.getD 1 0).testBit 2, bitsN (m.data.getD 2 0) 0 4,
    m.data.getD 3 0 + 256 * m.data.getD 4 0, s.count⟩

section
variable (hport : n.val = s.nmPort) (hen : s.bit F.nmCfgEn = true)
include hport hen

/-- What NM does with a frame, by the two checks. -/
theorem State.nmHear_eq : (¬s.nmNamed m → s.nmHear n m false = s.nmTraffic) ∧
    (s.nmNamed m → ¬s.nmRight m → s.nmHear n m false = s.nmTraffic.setBit F.nmStatBadfrm) ∧
    (s.nmNamed m → s.nmRight m → s.nmHear n m false = s.nmTraffic.setNm (fun x => { x with rx := x.rx ++ [s.nmNoted m] })) := by
  have htraffic : s.setNm (fun x => { x with traffic := x.traffic || !false }) = s.nmTraffic := by
    show s.setNm (fun x => { x with traffic := x.traffic || true }) = _
    simp only [Bool.or_true]
    rfl
  have hbits : bitsN (m.data.getD 1 0) 4 4 = m.data.getD 1 0 / 16 % 16 := congrArg (· % 16) (Nat.shiftRight_eq_div_pow _ _)
  have hhear : s.nmHear n m false = s.nmReceive m false := if_pos hport
  have hrange : (m.xtd = true ∨ m.id < s.nmCfg F.nmCfgBase ∨ s.nmCfg F.nmCfgBase + 63 < m.id) ↔ ¬s.nmNamed m := by
    simp only [State.nmNamed, not_and_or, Bool.not_eq_false, not_le]
  have hchecks : (m.rtr = true ∨ m.fdf = true ∨ m.len ≠ 8 ∨ bitsN (m.data.getD 1 0) 4 4 ≠ 1 ∨
      m.data.getD 0 0 % 64 ≠ m.id - s.nmCfg F.nmCfgBase ∨ m.data.getD 0 0 % 64 = s.nmCfg F.nmCfgNode) ↔ ¬s.nmRight m := by
    simp only [State.nmRight, not_and_or, Bool.not_eq_false, ne_eq, not_not, hbits]
  rw [hhear]
  unfold State.nmReceive
  dsimp only
  rw [if_neg (by simp [hen]), htraffic]
  refine ⟨fun h => if_pos (hrange.mpr h), fun hn hr => ?_, fun hn hr => ?_⟩
  · rw [if_neg (fun h => hrange.mp h hn)]
    exact if_pos (hchecks.mpr hr)
  · rw [if_neg (fun h => hrange.mp h hn)]
    exact if_neg (fun h => hchecks.mp h hr)

end

end

end

section
variable {s : State} {n : Fin 6}

/-! ### What a frame's source becomes when the frame has been sent (R462, R486) -/

/-- A permit or an NM frame is offered no more, unless newer content is. -/
theorem State.txDone_permit : s.keeps (s.txDone n .permit) [.can n] ∧ (s.txDone n .permit).cn n =
    { s.cn n with permit := if (s.cn n).newer = false then none else (s.cn n).permit } := by
  have heq : s.txDone n .permit = if (s.cn n).newer then s else s.setCan n (fun c => { c with permit := none }) := rfl
  rw [heq]
  cases hnew : (s.cn n).newer with
  | true => exact ⟨s.keeps_refl _, by rw [if_pos rfl]; simp⟩
  | false => exact ⟨s.setCan_keeps n _, State.cn_setCan s n _⟩

theorem State.txDone_nm : s.keeps (s.txDone n .nm) [.can n, .nm] ∧ (s.txDone n .nm).nm = { s.nm with
      seq := (s.nm.seq + 1) % 256, sent := s.nm.sent + 1 } ∧
    (s.txDone n .nm).cn n = { s.cn n with nm := if (s.cn n).newer = false then none else (s.cn n).nm } := by
  have hkeeps := State.keeps_mono (s.setNm_keeps (fun x => { x with seq := (x.seq + 1) % 256, sent := x.sent + 1 }))
    (show [Part.nm] ⊆ [.can n, .nm] by simp)
  have heq : s.txDone n .nm = if (s.cn n).newer then s.setNm (fun x => { x with seq := (x.seq + 1) % 256, sent := x.sent + 1 }) else
    (s.setNm (fun x => { x with seq := (x.seq + 1) % 256, sent := x.sent + 1 })).setCan n (fun c => { c with nm := none }) := rfl
  rw [heq]
  cases hnew : (s.cn n).newer with
  | true => exact ⟨hkeeps, rfl, by rw [if_pos rfl]; simp⟩
  | false => exact ⟨State.keeps_setCan hkeeps n _ (by simp), rfl, State.cn_setCan _ n _⟩

/-- An object's frame sent: it is pending no more, unless newer content is. -/
theorem State.txDone_object (hobjs : AMap.wf (fun _ => ({} : CanObj)) (s.cn n).objs = true) {o : Nat} (hevo : s.canEvo n o = false) :
    ∃ objs, CanBecomes s (s.txDone n (.obj o)) n { s.cn n with objs := objs } [.can n, .pin (.canBusy n)] ∧
      (AMap.get (fun _ => ({} : CanObj)) objs o).pend = (if (s.cn n).newer then ((s.cn n).obj o).pend else false) ∧
      (AMap.get (fun _ => ({} : CanObj)) objs o).msg = ((s.cn n).obj o).msg := by
  have heq : s.txDone n (.obj o) = if (s.cn n).newer then s else s.setObj n o (fun x => { x with pend := false }) := if_neg (by simp [hevo])
  rw [heq]
  cases (s.cn n).newer with
  | true => exact ⟨(s.cn n).objs, CanBecomes.refl s n _, rfl, rfl⟩
  | false =>
    have hget := Can.obj_put hobjs o { (s.cn n).obj o with pend := false }
    refine ⟨_, (CanBecomes.refl s n _).setCan (fun c => { c with objs := AMap.put (fun _ => {}) c.objs o { c.obj o with pend := false } }), ?_, ?_⟩
    · exact (congrArg CanObj.pend hget :)
    · exact (congrArg CanObj.msg hget :)

/-! ### Where a received frame goes (R454, R457, R464) -/

section
variable {m : CanMsg} (hgood : ¬(s.canRunning n = false ∨ msgValid m = false ∨ s.fld (F.canCtlMode n) = 3)) (hmode : s.fld (F.canCtlMode n) = 0)
  (hcalm : (s.cn n).estate = 0 ∧ (s.cn n).tec < 128 ∧ (s.cn n).recv < 128) (hrun : (s.cn n).run = .on) (hport : n.val ≠ s.nmPort)
include hgood hmode hcalm hrun hport

omit hrun in
/-- A frame that NM does not hear: it is accepted, and the controller becomes what it then is. -/
theorem execCanFrameReceived_accepted {v : State} {c : Can} {l : List Part} (hv : (s.rxCounted n).canAccept n m = v)
    (hbecomes : CanBecomes s v n c l) (hon : c.run = .on) (hnm : Part.nm ∉ l) (hpin : Part.pin (.canBusy n) ∈ l) :
    ∃ t, exec (.canFrameReceived n m false) s = .next t ∧ CanBecomes s t n c l ∧ v.keeps t [.pin (.canBusy n)] := by
  have hexec := execCanFrameReceived_normal hgood hmode hcalm
  have hheard : v.nmHear n m false = v := State.nmHear_other (by
    unfold State.nmPort State.nmCfg
    rw [hbecomes.keeps.2 .nm hnm]
    exact hport) false
  rw [hv, hheard] at hexec
  exact ⟨_, hexec, hbecomes.frameEnd hon hpin, (State.canFrameEnd_on (by rw [hbecomes.cn]; exact hon)).2⟩

/-- Into its object. -/
theorem execCanFrameReceived_object (hobjs : AMap.wf (fun _ => ({} : CanObj)) (s.cn n).objs = true) {o : Nat} (hobj : s.canObjectFor n m = some o)
    (hlock : (s.cn n).locked o = false) (hevo : s.canEvo n o = false) : ∃ t, exec (.canFrameReceived n m false) s = .next t ∧
      (t.cn n).obj o = { (s.cn n).obj o with msg := some m, lost := ((s.cn n).obj o).lost || ((s.cn n).obj o).new, new := true } ∧
      (t.cn n).recv = (s.cn n).recv - 1 ∧ (t.cn n).ackerr = 0 ∧ (t.cn n).fr.rx = (s.cn n).fr.rx + 1 ∧
      (t.cn n).fr.lost = (s.cn n).fr.lost + b2n ((s.cn n).obj o).new ∧ s.keeps t [.can n, .pin (.canBusy n), .free] := by
  obtain ⟨hcount, hregs, -⟩ := State.rxCounted_spec (n := n) hcalm
  have hcounted : CanBecomes s (s.rxCounted n) n _ [.can n, .pin (.canBusy n), .free] := ⟨hcount.cn, State.keeps_mono hcount.keeps (by simp)⟩
  have hlocked : ((s.rxCounted n).cn n).locked o = false := by rw [hcount.cn]; exact hlock
  have hat : ((s.rxCounted n).cn n).obj o = (s.cn n).obj o := by rw [hcount.cn]; rfl
  have hv := (State.canAccept_object ((State.canObjectFor_of_regs hregs m).trans hobj)).trans
    (congrArg (State.setCanFr · n _) (State.objArrival_unlocked (m := m) hlocked ((State.canEvo_of_regs hregs o).trans hevo)))
  rw [hat] at hv
  have hbecomes := ((hcounted.setCan (fun c => { c with objs := AMap.put (fun _ => {}) c.objs o ((fun y : CanObj =>
    { y with msg := some m, lost := y.lost || y.new, new := true }) (c.obj o)) })).lost ((s.cn n).obj o).new).setCan
    (fun c => { c with fr := { c.fr with rx := c.fr.rx + 1 } })
  obtain ⟨t, hexec, ht, -⟩ := execCanFrameReceived_accepted hgood hmode hcalm hport hv hbecomes hrun (by simp) (by simp)
  exact ⟨t, hexec, by rw [ht.cn]; exact Can.obj_put hobjs o _, by rw [ht.cn], by rw [ht.cn], by rw [ht.cn], by rw [ht.cn], ht.keeps⟩

/-- To the end of the queue. -/
theorem execCanFrameReceived_queued (hobj : s.canObjectFor n m = none) (hfilter : s.canFilter n m = true) (hne : (s.cn n).queue ≠ [])
    (hroom : (s.cn n).queue.length < 64) : ∃ t, exec (.canFrameReceived n m false) s = .next t ∧ (t.cn n).queue = (s.cn n).queue ++ [m] ∧
      (t.cn n).objs = (s.cn n).objs ∧ (t.cn n).fr.rx = (s.cn n).fr.rx + 1 ∧ s.keeps t [.can n, .pin (.canBusy n), .free] := by
  obtain ⟨hcount, hregs, -⟩ := State.rxCounted_spec (n := n) hcalm
  have hcounted : CanBecomes s (s.rxCounted n) n _ [.can n, .pin (.canBusy n), .free] := ⟨hcount.cn, State.keeps_mono hcount.keeps (by simp)⟩
  have hqueue : ((s.rxCounted n).cn n).queue = (s.cn n).queue := by rw [hcount.cn]
  have hv := State.canAccept_queue ((State.canObjectFor_of_regs hregs m).trans hobj) ((State.canFilter_of_regs hregs m).trans hfilter)
  rw [if_neg (by rw [hqueue]; omega), State.queueArrival_room (by rw [hqueue]; exact hroom) (by rw [hqueue]; exact hne)] at hv
  have hbecomes := (hcounted.setCan (fun c => { c with queue := c.queue ++ [m] })).setCan (fun c => { c with fr := { c.fr with rx := c.fr.rx + 1 } })
  obtain ⟨t, hexec, ht, -⟩ := execCanFrameReceived_accepted hgood hmode hcalm hport hv hbecomes hrun (by simp) (by simp)
  exact ⟨t, hexec, by rw [ht.cn], by rw [ht.cn], by rw [ht.cn], ht.keeps⟩

/-- Dropped, the queue being full. -/
theorem execCanFrameReceived_dropped (hs : s.canonical) (hobj : s.canObjectFor n m = none) (hfilter : s.canFilter n m = true)
    (hfull : 64 ≤ (s.cn n).queue.length) : ∃ t, exec (.canFrameReceived n m false) s = .next t ∧ (t.cn n).queue = (s.cn n).queue ∧
      (t.cn n).fr.qdrop = (s.cn n).fr.qdrop + 1 ∧ t.bit (F.canStatQovf n) = true := by
  obtain ⟨hcount, hregs, -, hcanon⟩ := State.rxCounted_spec (n := n) hcalm
  have hqueue : ((s.rxCounted n).cn n).queue = (s.cn n).queue := by rw [hcount.cn]
  have hv := State.canAccept_queue ((State.canObjectFor_of_regs hregs m).trans hobj) ((State.canFilter_of_regs hregs m).trans hfilter)
  rw [if_pos (by rw [hqueue]; exact hfull), State.queueArrival_full (by rw [hqueue]; exact hfull)] at hv
  have hcounted : CanBecomes s (s.rxCounted n) n _ [.can n, .pin (.canBusy n), .free, .reg (F.canStatQovf n).addr, .reg (F.canQstatDrop n).addr] :=
    ⟨hcount.cn, State.keeps_mono hcount.keeps (by simp)⟩
  have hset : CanBecomes s ((s.rxCounted n).setBit (F.canStatQovf n)) n _ _ :=
    hcounted.beside rfl (State.keeps_mono (State.setFld_keeps _ _ _) (by simp))
  have hinc : CanBecomes s (((s.rxCounted n).setBit (F.canStatQovf n)).satInc (F.canQstatDrop n)) n _ _ :=
    hset.beside rfl (State.keeps_mono (State.setFld_keeps _ _ _) (by simp))
  have hbecomes := hinc.setCan (fun c => { c with fr := { c.fr with qovf := true, qdrop := c.fr.qdrop + 1 } })
  obtain ⟨t, hexec, ht, hkept⟩ := execCanFrameReceived_accepted hgood hmode hcalm hport hv hbecomes hrun (by simp) (by simp)
  have hbit : ((s.rxCounted n).setBit (F.canStatQovf n)).bit (F.canStatQovf n) = true := State.bit_setBit_same (hcanon hs) rfl (Nat.lt_of_sub_eq_succ rfl)
  have hother : (F.canStatQovf n).addr ≠ (F.canQstatDrop n).addr := by
    show 0x40090008 + 0x2000 * n.val ≠ 0x40090028 + 0x2000 * n.val
    omega
  refine ⟨t, hexec, by rw [ht.cn], by rw [ht.cn], (State.bit_of_keeps hkept _ (by simp)).trans (Eq.trans ?_ hbit)⟩
  exact congrArg (fun v : Nat => v != 0) (State.fld_setFld_other _ _ _ _ hother)

/-- Nowhere. -/
theorem execCanFrameReceived_nowhere (hobj : s.canObjectFor n m = none) (hfilter : s.canFilter n m = false) :
    ∃ t, exec (.canFrameReceived n m false) s = .next t ∧ (t.cn n).queue = (s.cn n).queue ∧ (t.cn n).objs = (s.cn n).objs ∧
      s.keeps t [.can n, .pin (.canBusy n), .free] := by
  obtain ⟨hcount, hregs, -⟩ := State.rxCounted_spec (n := n) hcalm
  have hcounted : CanBecomes s (s.rxCounted n) n _ [.can n, .pin (.canBusy n), .free] := ⟨hcount.cn, State.keeps_mono hcount.keeps (by simp)⟩
  have hv := State.canAccept_none ((State.canObjectFor_of_regs hregs m).trans hobj) ((State.canFilter_of_regs hregs m).trans hfilter)
  obtain ⟨t, hexec, ht, -⟩ := execCanFrameReceived_accepted hgood hmode hcalm hport hv hcounted hrun (by simp) (by simp)
  exact ⟨t, hexec, by rw [ht.cn], by rw [ht.cn], ht.keeps⟩

end

/-! ### What NM makes of a frame of its controller (R485, R487) -/

section
variable {m : CanMsg} (hgood : ¬(s.canRunning n = false ∨ msgValid m = false ∨ s.fld (F.canCtlMode n) = 3)) (hmode : s.fld (F.canCtlMode n) = 0)
  (hcalm : (s.cn n).estate = 0 ∧ (s.cn n).tec < 128 ∧ (s.cn n).recv < 128) (hrun : (s.cn n).run = .on) (hport : n.val = s.nmPort)
  (hen : s.bit F.nmCfgEn = true) (hobj : s.canObjectFor n m = none) (hfilter : s.canFilter n m = false)
include hgood hmode hcalm hrun hport hen hobj hfilter

omit hport hen in
/-- What NM hears is the frame alone, for a frame that goes nowhere else. -/
theorem execCanFrameReceived_heard {l : List Part} {v : State} (hv : (s.rxCounted n).nmHear n m false = v) (hkeeps : (s.rxCounted n).keeps v l)
    (hcan : Part.can n ∉ l) : ∃ t, exec (.canFrameReceived n m false) s = .next t ∧ t.nm = v.nm ∧
      v.keeps t [.pin (.canBusy n)] ∧ s.keeps t ([.can n, .pin (.canBusy n), .free] ++ l) := by
  obtain ⟨hcount, hregs, -⟩ := State.rxCounted_spec (n := n) hcalm
  have hexec := execCanFrameReceived_normal hgood hmode hcalm
  rw [State.canAccept_none ((State.canObjectFor_of_regs hregs m).trans hobj) ((State.canFilter_of_regs hregs m).trans hfilter), hv] at hexec
  obtain ⟨-, hend⟩ := State.canFrameEnd_on (s := v) (n := n) (by rw [hkeeps.2 (.can n) hcan, hcount.cn]; exact hrun)
  refine ⟨_, hexec, hend.2 .nm (by simp), hend, ?_⟩
  exact State.keeps_trans (State.keeps_trans hcount.keeps hkeeps (by simp) (fun p hp => by simp [hp])) hend (List.Subset.refl _) (by simp)

/-- By the checks of NM. -/
theorem execCanFrameReceived_nm (hs : s.canonical) :
    (s.nmNamed m → s.nmRight m → ∃ t, exec (.canFrameReceived n m false) s = .next t ∧
      t.nm = { s.nm with traffic := true, rx := s.nm.rx ++ [(s.rxCounted n).nmNoted m] } ∧ s.keeps t [.can n, .nm, .pin (.canBusy n), .free]) ∧
    (s.nmNamed m → ¬s.nmRight m → ∃ t, exec (.canFrameReceived n m false) s = .next t ∧ t.nm = { s.nm with traffic := true } ∧
      t.bit F.nmStatBadfrm = true ∧ s.keeps t [.can n, .nm, .reg F.nmStatBadfrm.addr, .pin (.canBusy n), .free]) ∧
    (¬s.nmNamed m → ∃ t, exec (.canFrameReceived n m false) s = .next t ∧ t.nm = { s.nm with traffic := true } ∧
      s.keeps t [.can n, .nm, .pin (.canBusy n), .free]) := by
  obtain ⟨-, hregs, hnm, hcanon⟩ := State.rxCounted_spec (n := n) hcalm
  have hcfg (f : Fld) : (s.rxCounted n).nmCfg f = s.nmCfg f := congrArg (fun x : Nm => getBits x.cfg f.lo f.width) hnm
  have hnamed : (s.rxCounted n).nmNamed m ↔ s.nmNamed m := by
    unfold State.nmNamed
    rw [hcfg]
  have hright : (s.rxCounted n).nmRight m ↔ s.nmRight m := by
    unfold State.nmRight
    rw [hcfg, hcfg]
  have htraffic : (s.rxCounted n).nmTraffic.nm = { s.nm with traffic := true } := hnm ▸ rfl
  have hkept : (s.rxCounted n).keeps (s.rxCounted n).nmTraffic [.nm] := State.setNm_keeps _ _
  obtain ⟨hother, hbad, hgood'⟩ := State.nmHear_eq (s := s.rxCounted n) (m := m)
    (hport.trans (congrArg (min 5) (hcfg F.nmCfgPort)).symm) ((State.bit_of_regs hregs F.nmCfgEn).trans hen)
  rw [hnamed] at hother hbad hgood'
  rw [hright] at hbad hgood'
  refine ⟨fun h h' => ?_, fun h h' => ?_, fun h => ?_⟩
  · obtain ⟨t, hexec, ht, -, hkeeps⟩ := execCanFrameReceived_heard hgood hmode hcalm hrun hobj hfilter (hgood' h h')
      (l := [.nm]) (State.keeps_trans hkept (State.setNm_keeps _ _) (List.Subset.refl _) (List.Subset.refl _)) (by simp)
    refine ⟨t, hexec, ht.trans ?_, State.keeps_mono hkeeps (by simp)⟩
    exact (congrArg (fun x : Nm => { x with rx := x.rx ++ [(s.rxCounted n).nmNoted m] }) htraffic :)
  · obtain ⟨t, hexec, ht, hend, hkeeps⟩ := execCanFrameReceived_heard hgood hmode hcalm hrun hobj hfilter (hbad h h')
      (l := [.nm, .reg F.nmStatBadfrm.addr]) (State.keeps_trans hkept (State.setFld_keeps _ _ _) (by simp) (by simp)) (by simp)
    refine ⟨t, hexec, ht.trans htraffic, (State.bit_of_keeps hend _ (by simp)).trans ?_, State.keeps_mono hkeeps (by simp)⟩
    exact State.bit_setBit_same (s := (s.rxCounted n).nmTraffic) (hcanon hs) rfl (by decide)
  · obtain ⟨t, hexec, ht, -, hkeeps⟩ := execCanFrameReceived_heard hgood hmode hcalm hrun hobj hfilter (hother h)
      (l := [.nm]) hkept (by simp)
    exact ⟨t, hexec, ht.trans htraffic, State.keeps_mono hkeeps (by simp)⟩

end

end

/-- Settles O48, by what each step makes of its controller. -/
theorem canTrafficSteps : Obligations.CanTrafficSteps := by
  intro n s hs hobjs c mode calm
  refine ⟨?_, ?_, ?_, fun src m hw => Can.winner_least hw, ?_, ?_, ?_, ?_, ?_, ?_, ?_, ?_, ?_, ?_, ?_, ?_, ?_, ?_, ?_⟩
  · intro hrunning hrun htx hmode src m hw hsrc
    refine ⟨_, execCanTxStart_winner ⟨hrunning, hrun, htx, hmode⟩ hw, s.setCan_keeps n _, ?_⟩
    rw [State.cn_setCan, State.startedMsg_other hsrc]
  · intro hrunning hrun htx hmode m hw
    exact ⟨_, _, execCanTxStart_winner ⟨hrunning, hrun, htx, hmode⟩ hw, State.cn_setCan s n _, State.startedMsg_id _ m, s.setCan_keeps n _⟩
  · intro h
    by_cases hgo : s.canRunning n = true ∧ (s.cn n).run = .on ∧ (s.cn n).tx = none ∧ (s.fld (F.canCtlMode n) = 0 ∨ s.fld (F.canCtlMode n) = 3)
    · refine execCanTxStart_idle hgo ?_
      obtain ⟨hrunning, hrun, htx, hmode⟩ := hgo
      rcases h with h | h | h | h | h
      · exact absurd (h.symm.trans hrunning) Bool.false_ne_true
      · exact absurd hrun h
      · exact absurd htx h
      · exact absurd hmode (not_or.mpr h)
      · exact h
    · exact execCanTxStart_of_not hgo
  · exact fun h => ⟨execCanTxSuccess_of_none h, fun e more => execCanTxError_of_none h e more⟩
  · intro src m htx hsrc hmode hcalm hrun
    rcases hsrc with rfl | rfl
    · obtain ⟨hkeeps, hcn⟩ := State.txDone_permit (s := s) (n := n)
      obtain ⟨t, hexec, ht⟩ := execCanTxSuccess_sent htx hmode rfl (by rw [hcn]; exact hcalm) (by rw [hcn]; exact hrun)
      rw [hcn] at ht
      refine ⟨t, hexec, by rw [ht.cn]; rfl, by rw [ht.cn]; rfl, by rw [ht.cn]; rfl, by rw [ht.cn]; rfl, ?_, ?_, fun h => absurd h (by decide),
        fun _ => (ht.keeps.2 .nm (by simp)).trans (hkeeps.2 .nm (by simp)), State.keeps_trans hkeeps ht.keeps (by simp) (by simp)⟩
      · rw [ht.cn]
        simp [Can.sent, c]
      · rw [ht.cn]
        simp [Can.sent, c]
    · obtain ⟨hkeeps, hnm, hcn⟩ := State.txDone_nm (s := s) (n := n)
      obtain ⟨t, hexec, ht⟩ := execCanTxSuccess_sent htx hmode rfl (by rw [hcn]; exact hcalm) (by rw [hcn]; exact hrun)
      rw [hcn] at ht
      have hnoted : t.nm = _ := (ht.keeps.2 .nm (by simp)).trans hnm
      refine ⟨t, hexec, by rw [ht.cn]; rfl, by rw [ht.cn]; rfl, by rw [ht.cn]; rfl, by rw [ht.cn]; rfl, ?_, ?_, fun _ => ?_,
        fun h => absurd h (by decide), State.keeps_trans hkeeps ht.keeps (by simp) (by simp)⟩
      · rw [ht.cn]
        simp [Can.sent, c]
      · rw [ht.cn]
        simp [Can.sent, c]
      · rw [hnoted]
        exact ⟨rfl, rfl⟩
  · intro o m htx hevo hmode hcalm hrun
    obtain ⟨objs, hdone, hpend, hmsg⟩ := State.txDone_object hobjs hevo
    obtain ⟨t, hexec, ht⟩ := execCanTxSuccess_sent htx hmode rfl (by rw [hdone.cn]; exact hcalm) (by rw [hdone.cn]; exact hrun)
    rw [hdone.cn] at ht
    refine ⟨t, hexec, ?_⟩
    rw [ht.cn]
    exact ⟨rfl, hpend, hmsg, rfl, rfl, rfl, rfl, rfl, State.keeps_trans hdone.keeps ht.keeps (by simp) (by simp)⟩
  · intro src m htx hmode hrun
    have hne : (s.cn n).tx ≠ none := by rw [htx]; exact Option.some_ne_none _
    refine ⟨fun hcalm => ?_, fun hcalm more hlow => ?_, fun hcalm dom more hlow hack => ?_, execCanTxError_busOff hne hmode hrun⟩
    · obtain ⟨t, hexec, ht⟩ := execCanTxError_raised hcalm hrun (add := 0) hcalm.2.1 (execCanTxError_arbitration hne hmode)
      exact ⟨t, hexec, by rw [ht.cn], by rw [ht.cn], by rw [ht.cn]; rfl, ht.keeps⟩
    · obtain ⟨t, hexec, ht⟩ := execCanTxError_raised hcalm hrun (by rw [← Nat.add_assoc]; exact hlow) (execCanTxError_other hne hmode more)
      exact ⟨t, hexec, by rw [ht.cn], by rw [ht.cn], by rw [ht.cn, Nat.add_assoc], by rw [ht.cn], ht.keeps⟩
    · obtain ⟨t, hexec, ht⟩ := execCanTxError_ack hne hmode hcalm hrun dom hlow hack
      exact ⟨t, hexec, by rw [ht.cn], by rw [ht.cn], by rw [ht.cn], by rw [ht.cn], ht.keeps⟩
  · intro hon he
    refine ⟨_, execRecover_of_on hon, ?_⟩
    rw [State.canRecover_of_busOff he]
    exact ⟨State.cn_setCan s n _, s.setCan_keeps n _⟩
  · intro hdip h
    rcases h with h | h
    · exact congrArg Host.Outcome.next (State.store_of_off hdip h _ _)
    · cases hoff : s.storesOff with
      | true => exact congrArg Host.Outcome.next (State.store_of_off hdip hoff _ _)
      | false => exact (execRecover_of_on hoff).trans (congrArg Host.Outcome.next (State.canRecover_of_other h))
  · exact fun hdip => congrArg Host.Outcome.next (State.store_of_dip hdip _ _)
  · intro h
    refine execBusOffRecovery_of_not (fun hc => ?_)
    obtain ⟨he, hrec, hrun, hon⟩ := hc
    rcases h with h | h | h | h
    · exact h he
    · exact Bool.false_ne_true (h.symm.trans hrec)
    · exact hrun h
    · exact Bool.false_ne_true (h.symm.trans hon)
  · exact fun m res h => execCanFrameReceived_of_not h res
  · exact fun heavy h => execCanBusError_of_not h heavy
  · intro he hrec hrun hon
    obtain ⟨t, hexec, ht⟩ := execBusOffRecovery_due ⟨he, hrec, hrun, hon⟩
    refine ⟨t, hexec, ?_⟩
    rw [ht]
    exact ⟨rfl, rfl, rfl, rfl, rfl⟩
  · intro m hrunning hvalid hlisten hport hmode hcalm hrun
    have hgood := canFrame_good hrunning hvalid hlisten
    exact ⟨fun o => execCanFrameReceived_object hgood hmode hcalm hrun hport hobjs, execCanFrameReceived_queued hgood hmode hcalm hrun hport,
      execCanFrameReceived_dropped hgood hmode hcalm hrun hport hs, execCanFrameReceived_nowhere hgood hmode hcalm hrun hport⟩
  · intro m hrunning hvalid hlisten hfd hpex hrun
    have hgood := canFrame_good hrunning hvalid hlisten
    obtain ⟨hexec, ht⟩ := execCanFrameReceived_exception (s := s) (n := n) hgood hfd hpex hrun
    refine ⟨_, hexec, ht, State.bit_setBit_same hs rfl (Nat.lt_of_sub_eq_succ rfl), ?_⟩
    exact State.keeps_setCan (State.keeps_mono (s.setFld_keeps _ _) (by simp)) n _ (by simp)
  · intro m hrunning hvalid hport hmode hcalm hrun hen hobj hfilter base node ctl named right
    have hgood := canFrame_good hrunning hvalid (hmode.trans_ne (by decide))
    obtain ⟨hright, hbad, hother⟩ := execCanFrameReceived_nm hgood hmode hcalm hrun hport hen hobj hfilter hs
    refine ⟨fun hn hr => ?_, hbad, hother⟩
    obtain ⟨t, hexec, ht, hkeeps⟩ := hright hn hr
    exact ⟨t, _, hexec, ht, rfl, rfl, rfl, rfl, hkeeps⟩
  · intro heavy hrunning htx hmode hcalm hrun hlow
    obtain ⟨t, hexec, ht⟩ := execCanBusError_low hrunning htx hmode hcalm hrun hlow
    exact ⟨t, hexec, by rw [ht.cn], by rw [ht.cn], ht.keeps⟩

end Sys2Proof.Machine
end

section
/-!
PROOFS. The LIN channels and the frames of network management (O49).
-/

/- One proof at a time: the check of the whole text comes near its limit of memory. -/
set_option Elab.async false

namespace Sys2Proof.Machine

theorem State.keeps_setLin {s t : State} {l : List Part} (h : s.keeps t l) (m : Nat) (f : Lin → Lin) (hm : Part.lin m ∈ l) :
    s.keeps (t.setLin m f) l := State.keeps_trans h (t.setLin_keeps m f) (List.Subset.refl l) (by simpa using hm)

section
variable {s : State} {m : Fin 4}

/-- The channel becomes `x`, and nothing beside the named parts changes. -/
structure LinBecomes (s t : State) (m : Fin 4) (x : Lin) (l : List Part) : Prop where
  ln : t.ln m = x
  keeps : s.keeps t l

theorem State.setLin_becomes (s : State) (m : Fin 4) (f : Lin → Lin) : LinBecomes s (s.setLin m f) m (f (s.ln m)) [.lin m] :=
  ⟨State.ln_setLin_same s m f m.isLt, s.setLin_keeps m f⟩

theorem LinBecomes.setLin {t : State} {x : Lin} {l : List Part} (h : LinBecomes s t m x l) (f : Lin → Lin) (hm : Part.lin m ∈ l := by simp) :
    LinBecomes s (t.setLin m f) m (f x) l := ⟨by rw [State.ln_setLin_same _ _ _ m.isLt, h.ln], State.keeps_setLin h.keeps m f hm⟩

theorem LinBecomes.mono {t : State} {x : Lin} {l k : List Part} (h : LinBecomes s t m x l) (hlk : l ⊆ k) : LinBecomes s t m x k :=
  ⟨h.ln, State.keeps_mono h.keeps hlk⟩

/-! ### Causes and errors (R478, R479, R482) -/

/-- A channel whose events are off raises none. -/
theorem State.linCause_still (h : s.fld (F.linEvenCause m) = 0) (t : State) (cause : Nat) (ht : t.fld (F.linEvenCause m) = s.fld (F.linEvenCause m)) :
    t.linCause m cause = t := if_neg (by rw [ht, h]; simp)

/-- A frame that ends with an error. -/
def State.linFailed (s : State) (m : Fin 4) (id : Nat) (f : Fld) : State :=
  ((s.setBit f).setFld (F.linLerrLid m) id).setLin m (fun x => { x with cur := none, err := x.err + 1 })

theorem State.linError_still (heven : s.fld (F.linEvenCause m) = 0) (hwcfg : s.fld (F.linWcfgEn m) = 0) (id en : Nat) {f : Fld}
    (hf : f.addr = (F.linLerrLid m).addr) : s.linError m id en f = s.linFailed m id f := by
  have hother : (F.linEvenCause m).addr ≠ (F.linLerrLid m).addr := by
    show 0x40140014 + 0x1000 * m.val ≠ 0x40140020 + 0x1000 * m.val
    omega
  unfold State.linError
  dsimp only
  rw [hwcfg, if_neg (by simp)]
  refine State.linCause_still heven _ 2 ?_
  exact (State.fld_setFld_other _ _ _ _ hother).trans (State.fld_setFld_other _ _ _ _ (hf ▸ hother))

theorem State.linFailed_becomes (s : State) (m : Fin 4) (id : Nat) {f : Fld} (hf : f.addr = (F.linLerrLid m).addr) :
    LinBecomes s (s.linFailed m id f) m { s.ln m with cur := none, err := (s.ln m).err + 1 } [.lin m, .reg f.addr] :=
  ⟨State.ln_setLin_same _ m _ m.isLt, State.keeps_setLin (State.keeps_setFld (State.keeps_setFld (s.keeps_refl _) f 1 (by simp)) _ _ (by simp [hf]))
    m _ (by simp)⟩

/-- The bits of LERR of an error. -/
inductive LinErr (m : Fin 4) : Fld → Prop
  | checksum : LinErr m (F.linLerrCkerr m)
  | framing : LinErr m (F.linLerrFrerr m)
  | missing : LinErr m (F.linLerrNoresp m)

theorem LinErr.addr {f : Fld} (h : LinErr m f) : f.addr = (F.linLerrLid m).addr := by cases h <;> rfl

theorem State.linFailed_noted (hs : s.canonical) (id : Nat) {f : Fld} (hf : LinErr m f) :
    (s.linFailed m id f).bit f = true ∧ (s.linFailed m id f).fld (F.linLerrLid m) = id % 2 ^ (F.linLerrLid m).width := by
  have hset := State.canonical_setFld hs f 1
  refine ⟨?_, State.fld_put hset (F.linLerrLid m) id⟩
  cases hf with
  | checksum =>
    have hbeside := State.fld_put_beside hset (F.linLerrLid m) (F.linLerrCkerr m) id
    exact (congrArg (· != 0) hbeside).trans (State.bit_setBit_same hs rfl (Nat.lt_of_sub_eq_succ rfl))
  | framing =>
    have hbeside := State.fld_put_beside hset (F.linLerrLid m) (F.linLerrFrerr m) id
    exact (congrArg (· != 0) hbeside).trans (State.bit_setBit_same hs rfl (Nat.lt_of_sub_eq_succ rfl))
  | missing =>
    have hbeside := State.fld_put_beside hset (F.linLerrLid m) (F.linLerrNoresp m) id
    exact (congrArg (· != 0) hbeside).trans (State.bit_setBit_same hs rfl (Nat.lt_of_sub_eq_succ rfl))

/-! ### Headers (R477, R478) -/

section
variable (hactive : s.linActive m = true)

theorem execLinHeaderSend_inactive (h : s.linActive m = false) (hdip : s.inDip = false) (id : Fin 64) : exec (.linHeaderSend m id) s = .next s := by
  refine congrArg Host.Outcome.next ?_
  cases hoff : s.storesOff with
  | true => exact State.store_of_off hdip hoff _ _
  | false => exact (State.store_of_on hoff _ _).trans (if_pos (.inl h))

include hactive

theorem execLinHeaderSend_eq (hoff : s.storesOff = false) (hrole : s.fld (F.linCfgRole m) = 1) (id : Fin 64) : exec (.linHeaderSend m id) s = .next
    (if s.linBusy m then s.setBit (F.linStatHdrrej m) else if (s.ln m).busDom then s else (s.linFollow m id).setLin m (fun x => { x with
      hdrEnd := s.count + s.linBits m (s.fld (F.linCfgBrk m) + 21), hdrId := id })) := by
  refine congrArg Host.Outcome.next ((State.store_of_on hoff _ _).trans (if_neg ?_))
  rw [hactive, hrole]
  exact fun h => h.elim (fun h => absurd h (by decide)) (fun h => h rfl)

theorem execLinHeaderReceived_eq (hrole : s.fld (F.linCfgRole m) = 0) (id : Fin 64) (rate : Nat) (good : Bool) :
    exec (.linHeaderReceived m id rate good) s = .next
      (if (good && (decide (100 * rate ≤ 114 * s.fld (F.linCfgRate m)) && decide (86 * s.fld (F.linCfgRate m) ≤ 100 * rate))) = true
        then s.linFollow m id else (s.linError m id 1 (F.linLerrFrerr m)).setLin m (fun x => { x with idle := false })) := by
  refine congrArg Host.Outcome.next (if_neg ?_)
  rw [hactive, hrole]
  exact fun h => h.elim (fun h => absurd h (by decide)) (fun h => h rfl)

/-! ### Responses (R478 to R480) -/

theorem execLinHeaderReceived_bad (hs : s.canonical) (hrole : s.fld (F.linCfgRole m) = 0) (heven : s.fld (F.linEvenCause m) = 0)
    (hwcfg : s.fld (F.linWcfgEn m) = 0) {id : Fin 64} {rate : Nat} {good : Bool}
    (hbad : ¬(86 * s.fld (F.linCfgRate m) ≤ 100 * rate ∧ 100 * rate ≤ 114 * s.fld (F.linCfgRate m)) ∨ good = false) :
    ∃ t, exec (.linHeaderReceived m id rate good) s = .next t ∧ t.bit (F.linLerrFrerr m) = true ∧ t.fld (F.linLerrLid m) = id.val ∧
      LinBecomes s t m { s.ln m with cur := none, err := (s.ln m).err + 1, idle := false } [.lin m, .reg (F.linLerrFrerr m).addr] := by
  obtain ⟨hbit, hid⟩ := State.linFailed_noted hs id.val (m := m) .framing
  refine ⟨_, (execLinHeaderReceived_eq hactive hrole id rate good).trans (congrArg Host.Outcome.next ((if_neg ?_).trans
    (congrArg (State.setLin · m _) (State.linError_still heven hwcfg id 1 (LinErr.framing (m := m)).addr)))), hbit, hid.trans (Nat.mod_eq_of_lt id.isLt),
    (s.linFailed_becomes m id.val (LinErr.framing (m := m)).addr).setLin (fun x => { x with idle := false })⟩
  intro hgood
  simp only [Bool.and_eq_true, decide_eq_true_eq] at hgood
  obtain ⟨hg, hhi, hlo⟩ := hgood
  exact hbad.elim (fun h => h ⟨hlo, hhi⟩) (fun h => Bool.false_ne_true (h.symm.trans hg))

/-! ### Responses (R478 to R480) -/

end

/-- A word of a response. -/
def linWord (d : List Nat) (j : Nat) : Word := BitVec.ofNat 32 ((upto 4).foldl (fun a i => a + d.getD (4 * j + i) 0 * 2 ^ (8 * i)) 0)

theorem foldl_upto_four (f g : Nat → Nat) :
    (upto 4).foldl (fun a i => a + f i * g i) 0 = 0 + f 0 * g 0 + f 1 * g 1 + f 2 * g 2 + f 3 * g 3 := rfl

theorem linWord_toNat {d : List Nat} (hd : ∀ i, d.getD i 0 < 256) (j : Nat) : (linWord d j).toNat =
    d.getD (4 * j) 0 + d.getD (4 * j + 1) 0 * 256 + d.getD (4 * j + 2) 0 * 65536 + d.getD (4 * j + 3) 0 * 16777216 := by
  have hsum : (upto 4).foldl (fun a i => a + d.getD (4 * j + i) 0 * 2 ^ (8 * i)) 0 =
      d.getD (4 * j) 0 + d.getD (4 * j + 1) 0 * 256 + d.getD (4 * j + 2) 0 * 65536 + d.getD (4 * j + 3) 0 * 16777216 := by
    have h3 : 2 ^ (8 * 3) = 16777216 := by norm_num
    have h2 : 2 ^ (8 * 2) = 65536 := by norm_num
    have h1 : 2 ^ (8 * 1) = 256 := by norm_num
    have h0 : 2 ^ (8 * 0) = 1 := by norm_num
    rw [foldl_upto_four (fun i => d.getD (4 * j + i) 0) (fun i => 2 ^ (8 * i)), h0, h1, h2, h3, Nat.zero_add, Nat.mul_one]
    rfl
  have h0 := hd (4 * j)
  have h1 := hd (4 * j + 1)
  have h2 := hd (4 * j + 2)
  have h3 := hd (4 * j + 3)
  unfold linWord
  rw [hsum, BitVec.toNat_ofNat]
  exact Nat.mod_eq_of_lt (by omega)

/-- A byte of a word of four. -/
theorem byte_of_four {b0 b1 b2 b3 : Nat} (h0 : b0 < 256) (h1 : b1 < 256) (h2 : b2 < 256) (h3 : b3 < 256) :
    (b0 + b1 * 256 + b2 * 65536 + b3 * 16777216) % 256 = b0 ∧ (b0 + b1 * 256 + b2 * 65536 + b3 * 16777216) / 256 % 256 = b1 ∧
    (b0 + b1 * 256 + b2 * 65536 + b3 * 16777216) / 65536 % 256 = b2 ∧ (b0 + b1 * 256 + b2 * 65536 + b3 * 16777216) / 16777216 % 256 = b3 := by
  refine ⟨?_, ?_, ?_, ?_⟩ <;> omega

theorem getBits_linWord {d : List Nat} (hd : ∀ i, d.getD i 0 < 256) (j : Nat) {k : Nat} (hk : k < 4) :
    getBits (linWord d j) (8 * k) 8 = d.getD (4 * j + k) 0 := by
  obtain ⟨hb0, hb1, hb2, hb3⟩ := byte_of_four (hd (4 * j)) (hd (4 * j + 1)) (hd (4 * j + 2)) (hd (4 * j + 3))
  rw [getBits_div, linWord_toNat hd]
  obtain rfl | rfl | rfl | rfl : k = 0 ∨ k = 1 ∨ k = 2 ∨ k = 3 := by omega
  · rw [Nat.mul_zero, Nat.pow_zero, Nat.div_one]
    exact hb0
  · exact hb1
  · exact hb2
  · exact hb3

theorem getD_lt_of_forall {d : List Nat} {n : Nat} (hn : 0 < n) (hd : ∀ b ∈ d, b < n) (i : Nat) : d.getD i 0 < n := by
  rw [List.getD_eq_getElem?_getD]
  cases h : d[i]? with
  | none => exact hn
  | some b => exact hd b (List.mem_of_getElem? h)

/-- A response in its buffer. -/
def State.linStored (s : State) (m : Fin 4) (id : Nat) (d : List Nat) : State :=
  let b := 0x40140400 + 0x1000 * m.val + 16 * id
  let s1 := (s.setReg b (linWord d 0)).setReg (b + 4) (linWord d 1)
  let s2 := (s1.setFld (F.linBstatLen m id) d.length).setFld (F.linBstatSeq m id) (s.fld (F.linBstatSeq m id) + 1)
  s2.setLin m (fun x => { x with cur := none, rx := x.rx + 1, stored := x.stored ||| (1#64 <<< id), idle := false })

section
variable (hactive : s.linActive m = true)

include hactive in
theorem execLinResponseReceived_eq {id : Nat} (hcur : (s.ln m).cur = some id) (hdir : s.linDir m id = 1) {data : List Nat}
    (hlen : data.length = s.linLen m id) (hdata : ∀ b ∈ data, b < 256) (cks : Nat) (framing : Bool) : exec (.linResponseReceived m data cks framing) s =
      .next (if framing then s.linError m id 1 (F.linLerrFrerr m) else if cks ≠ s.linCks m id data then s.linError m id 0 (F.linLerrCkerr m)
      else if s.bit (F.linBcfgEv m id) then (s.linStored m id data).linCause m 0 else s.linStored m id data) := by
  have hbytes : data.map (· % 256) = data := (List.map_congr_left (fun b hb => Nat.mod_eq_of_lt (hdata b hb))).trans (List.map_id' data)
  refine congrArg Host.Outcome.next ?_
  rw [hcur]
  dsimp only
  rw [hbytes, if_neg]
  · rfl
  · rw [hactive, hdir, hlen]
    simp

end

/-- Two words stored one after the other. -/
theorem State.reg_setTwo (hs : s.canonical) (b : Nat) (w : Nat → Word) {j : Nat} (hj : j < 2) :
    ((s.setReg b (w 0)).setReg (b + 4) (w 1)).reg (b + 4 * j) = w j := by
  obtain rfl | rfl : j = 0 ∨ j = 1 := by omega
  · rw [Nat.mul_zero, Nat.add_zero]
    exact (State.reg_setReg_other _ _ _ _ (by omega)).trans (State.reg_setReg_same _ _ _ hs)
  · rw [Nat.mul_one]
    exact State.reg_setReg_same _ _ _ (canonical_lasting.toStable.reg _ _ _ hs)

theorem State.linData_getD (s : State) (m : Fin 4) (id : Nat) {i : Nat} (hi : i < 8) :
    (s.linData m id).getD i 0 = getBits (s.reg (0x40140400 + 0x1000 * m.val + 16 * id + 4 * (i / 4))) (8 * (i % 4)) 8 := by
  unfold State.linData
  rw [upto_eq_range, List.getD_eq_getElem?_getD, List.getElem?_map, List.getElem?_range hi]
  rfl

theorem State.linStored_reg (hs : s.canonical) {id : Nat} (d : List Nat) {j : Nat} (hj : j < 2) :
    (s.linStored m id d).reg (0x40140400 + 0x1000 * m.val + 16 * id + 4 * j) = linWord d j := by
  have hlen : 0x40140400 + 0x1000 * m.val + 16 * id + 4 * j ≠ (F.linBstatLen m id).addr := by
    show _ ≠ 0x40140408 + 0x1000 * m.val + 16 * id
    omega
  have hseq : 0x40140400 + 0x1000 * m.val + 16 * id + 4 * j ≠ (F.linBstatSeq m id).addr := hlen
  unfold State.linStored
  dsimp only
  rw [State.reg_setLin]
  unfold State.setFld
  rw [State.reg_setReg_other _ _ _ _ hseq, State.reg_setReg_other _ _ _ _ hlen]
  exact State.reg_setTwo hs _ (linWord d) hj

/-- What a buffer holds after a response was stored in it. -/
theorem State.linStored_data (hs : s.canonical) {id : Nat} {d : List Nat} (hd : ∀ b ∈ d, b < 256) (hlen : d.length ≤ 8) :
    (∀ i, i < d.length → ((s.linStored m id d).linData m id).getD i 0 = d.getD i 0) ∧ (s.linStored m id d).fld (F.linBstatLen m id) = d.length := by
  have hbyte := getD_lt_of_forall (by decide) hd
  constructor
  · intro i hi
    rw [State.linData_getD _ m id (by omega), State.linStored_reg hs d (by omega), getBits_linWord hbyte _ (by omega), Nat.div_add_mod]
  · have hfirst : (s.setReg (0x40140400 + 0x1000 * m.val + 16 * id) (linWord d 0)).canonical := canonical_lasting.toStable.reg _ _ _ hs
    have hsecond := canonical_lasting.toStable.reg _ (0x40140400 + 0x1000 * m.val + 16 * id + 4) (linWord d 1) hfirst
    have hl := State.fld_put hsecond (F.linBstatLen m id) d.length
    have hbeside := State.fld_put_beside (State.canonical_setFld hsecond (F.linBstatLen m id) d.length) (F.linBstatSeq m id) (F.linBstatLen m id)
      (s.fld (F.linBstatSeq m id) + 1)
    unfold State.linStored
    dsimp only
    rw [State.fld_setLin, hbeside, hl]
    exact Nat.mod_eq_of_lt (by omega : d.length < 16)

theorem State.linStored_becomes (s : State) (m : Fin 4) (id : Nat) (d : List Nat) : LinBecomes s (s.linStored m id d) m
    { s.ln m with cur := none, rx := (s.ln m).rx + 1, stored := (s.ln m).stored ||| (1#64 <<< id), idle := false }
    [.lin m, .reg (0x40140400 + 0x1000 * m.val + 16 * id), .reg (0x40140400 + 0x1000 * m.val + 16 * id + 4), .reg (F.linBstatLen m id).addr] := by
  have hstat : Part.reg (F.linBstatSeq m id).addr ∈ [Part.lin m, .reg (0x40140400 + 0x1000 * m.val + 16 * id),
    .reg (0x40140400 + 0x1000 * m.val + 16 * id + 4), .reg (F.linBstatLen m id).addr] := by
    show Part.reg (F.linBstatLen m id).addr ∈ _
    simp
  refine ⟨State.ln_setLin_same _ m _ m.isLt, State.keeps_setLin (State.keeps_setFld (State.keeps_setFld ?_ (F.linBstatLen m id) _ (by simp))
    (F.linBstatSeq m id) _ hstat) m _ (by simp)⟩
  exact State.keeps_trans (State.keeps_mono (s.setReg_keeps _ _) (by simp)) (State.setReg_keeps _ _ _) (List.Subset.refl _) (by simp)

theorem State.linStored_even (s : State) (m : Fin 4) (id : Nat) (d : List Nat) :
    (s.linStored m id d).fld (F.linEvenCause m) = s.fld (F.linEvenCause m) := by
  refine State.fld_of_keeps (s.linStored_becomes m id d).keeps _ ?_
  have hfirst : (F.linEvenCause m).addr ≠ 0x40140400 + 0x1000 * m.val + 16 * id := by
    show 0x40140014 + 0x1000 * m.val ≠ _
    omega
  have hsecond : (F.linEvenCause m).addr ≠ 0x40140400 + 0x1000 * m.val + 16 * id + 4 := by
    show 0x40140014 + 0x1000 * m.val ≠ _
    omega
  have hstat : (F.linEvenCause m).addr ≠ (F.linBstatLen m id).addr := by
    show 0x40140014 + 0x1000 * m.val ≠ 0x40140408 + 0x1000 * m.val + 16 * id
    omega
  simp [hfirst, hsecond, hstat]

/-- A published response that has been sent. -/
theorem execLinResponseSent_eq (hactive : s.linActive m = true) (hdom : (s.ln m).busDom = false) {id : Nat} (hcur : (s.ln m).cur = some id)
    (hdir : s.linDir m id = 2) {e : Bool} (he : e = true → s.linHeading m = false) {d : List Nat}
    (hd : ((s.ln m).first.getD (s.linData m id)).take (s.linLen m id) = d) {t : State}
    (ht : s.setLin m (fun x => { x with cur := none, tx := x.tx + 1, sent := d ++ [s.linCks m id d], idle := false }) = t) :
    exec (.linResponseSent m e) s = .next (if e then s.linError m id 1 (F.linLerrFrerr m) else
      if s.bit (F.linBcfgEv m id) then t.linCause m 1 else t) := by
  subst hd ht
  have hgoes : ¬(e = true ∧ s.linActive m = true ∧ (s.ln m).busDom = false ∧ s.linHeading m = true) :=
    fun h => Bool.false_ne_true ((he h.1).symm.trans h.2.2.2)
  refine congrArg Host.Outcome.next ((if_neg hgoes).trans ?_)
  rw [hcur]
  dsimp only
  rw [if_neg (by rw [hactive, hdir, hdom]; simp)]

/-- A bit error in a header that the channel sends. -/
theorem execLinResponseSent_header (hactive : s.linActive m = true) (hdom : (s.ln m).busDom = false) (hhead : s.linHeading m = true) :
    exec (.linResponseSent m true) s = .next ((s.linError m (s.ln m).hdrId 1 (F.linLerrFrerr m)).setLin m (fun x => { x with hdrEnd := 0 })) :=
  congrArg Host.Outcome.next (if_pos ⟨rfl, hactive, hdom, hhead⟩)

/-- No response is being sent. -/
theorem execLinResponseSent_none {e : Bool} (hhead : ¬(e = true ∧ s.linActive m = true ∧ (s.ln m).busDom = false ∧ s.linHeading m = true))
    (h : s.linActive m = false ∨ (∀ id, (s.ln m).cur = some id → s.linDir m id ≠ 2) ∨ (s.ln m).busDom = true) : exec (.linResponseSent m e) s = .next s := by
  refine congrArg Host.Outcome.next ((if_neg hhead).trans ?_)
  cases hcur : (s.ln m).cur with
  | none => rfl
  | some id => exact if_pos (h.imp_right (Or.imp_left (fun h => h id hcur)))

theorem execLinResponseReceived_none {data : List Nat} {cks : Nat} {framing : Bool} (h : s.linActive m = false ∨
      ∀ id, (s.ln m).cur = some id → s.linDir m id ≠ 1 ∨ data.length ≠ s.linLen m id) : exec (.linResponseReceived m data cks framing) s = .next s := by
  refine congrArg Host.Outcome.next ?_
  cases hcur : (s.ln m).cur with
  | none => rfl
  | some id => exact if_pos (h.imp_right (fun h => (h id hcur).imp_right (fun h => by rwa [List.length_map])))

theorem execLinNoResponse_none (h : s.linActive m = false ∨ ∀ id, (s.ln m).cur = some id → s.linDir m id ≠ 1) : exec (.linNoResponse m) s = .next s := by
  refine congrArg Host.Outcome.next ?_
  cases hcur : (s.ln m).cur with
  | none => rfl
  | some id => exact if_neg (fun hc => h.elim (fun h => Bool.false_ne_true (h.symm.trans hc.1)) (fun h => h id hcur hc.2))

theorem execLinNoResponse_some (hactive : s.linActive m = true) {id : Nat} (hcur : (s.ln m).cur = some id) (hdir : s.linDir m id = 1) :
    exec (.linNoResponse m) s = .next (s.linError m id 2 (F.linLerrNoresp m)) := by
  refine congrArg Host.Outcome.next ?_
  rw [hcur]
  exact if_pos ⟨hactive, hdir⟩

/-! ### The bus: dominance, wakes and silence (R481) -/

theorem execLinWakeReceived_pulse (hactive : s.linActive m = true) (heven : s.fld (F.linEvenCause m) = 0) (hbusy : s.linBusy m = false) {us : Nat}
    (hlo : 150 ≤ us) (hhi : us ≤ 5000) : exec (.linWakeReceived m us) s = .next (((s.setLin m (fun x => { x with idle := false })).setBit
      (F.linStatWakerx m)).setLin m (fun x => { x with wakerx := true })) := by
  have hother : (F.linEvenCause m).addr ≠ (F.linStatWakerx m).addr := by
    show 0x40140014 + 0x1000 * m.val ≠ 0x40140008 + 0x1000 * m.val
    omega
  refine congrArg Host.Outcome.next ((if_pos ⟨hactive, by omega⟩).trans ((if_pos ⟨hlo, hhi, hbusy⟩).trans ?_))
  exact State.linCause_still heven _ 3 (State.fld_setFld_other _ _ _ _ hother)

end

/-! ### Network management (R488, R498) -/

theorem State.nmPort_lt (s : State) : s.nmPort < 6 := Nat.lt_of_le_of_lt (Nat.min_le_left 5 _) (by decide)

theorem nodeOf_map (x : Nm) (i : Nat) : ({ x with node := x.node.map (fun d => { d with keep := 0, wakes := 0 }) } : Nm).nodeOf i =
    { x.nodeOf i with keep := 0, wakes := 0 } := by
  unfold Nm.nodeOf nth
  by_cases hi : i < 64
  · rw [dif_pos hi, dif_pos hi]
    exact Vector.getElem_map _ _
  · rw [dif_neg hi, dif_neg hi]

/-- Settles O49, by what each step makes of its channel. -/
theorem linAndNmSteps : Obligations.LinAndNmSteps := by
  refine ⟨?_, ?_, ?_, ?_, ?_, ?_⟩
  · intro m s hs hactive x still
    refine ⟨?_, ?_, ?_, ?_, ?_, ?_, ?_, ?_, ?_, ?_, ?_, ?_, ?_, ?_, ?_, ?_⟩
    · intro id hoff hrole
      have hexec := execLinHeaderSend_eq hactive hoff hrole id
      refine ⟨fun hbusy => ?_, fun hbusy hdom => ?_, fun hbusy hdom => ?_⟩
      · rw [hbusy] at hexec
        exact ⟨_, hexec, State.bit_setBit_same hs rfl (Nat.lt_of_sub_eq_succ rfl), s.setFld_keeps _ _⟩
      · rw [hbusy, show (s.ln m).busDom = true from hdom] at hexec
        exact hexec
      · rw [hbusy, show (s.ln m).busDom = false from hdom] at hexec
        have hset := (s.setLin_becomes m (fun x => { x with cur := if s.linDir m id = 0 then none else some id.val, first := none, idle := false })).setLin
          (fun x => { x with hdrEnd := s.count + s.linBits m (s.fld (F.linCfgBrk m) + 21), hdrId := id })
        exact ⟨_, hexec, hset.keeps, hset.ln⟩
    · intro id rate hrole near
      refine ⟨fun hnear => ?_, fun good hbad hstill => ?_⟩
      · have hset := s.setLin_becomes m (fun x => { x with cur := if s.linDir m id = 0 then none else some id.val, first := none, idle := false })
        refine ⟨_, (execLinHeaderReceived_eq hactive hrole id rate true).trans (congrArg Host.Outcome.next (if_pos ?_)), hset.keeps, hset.ln⟩
        rw [decide_eq_true hnear.1, decide_eq_true hnear.2]
        rfl
      · obtain ⟨t, hexec, hbit, hid, ht⟩ := execLinHeaderReceived_bad hactive hs hrole hstill.1 hstill.2 (id := id) hbad
        exact ⟨t, hexec, hbit, hid, ht.ln, ht.keeps⟩
    · intro id data cks hcur hid hdir hlen hdata hstill
      have hexec := execLinResponseReceived_eq hactive hcur hdir hlen hdata cks
      have hlow : data.length ≤ 8 := hlen ▸ max_le (by decide) (min_le_left _ _)
      have hfail (en : Nat) {f : Fld} (hf : LinErr m f) := (s.linError_still hstill.1 hstill.2 id en hf.addr)
      have hnoted {f : Fld} (hf : LinErr m f) := State.linFailed_noted hs id hf
      have hbecomes {f : Fld} (hf : LinErr m f) := s.linFailed_becomes m id hf.addr
      refine ⟨fun hsum => ?_, fun hsum => ?_, ?_, ?_⟩
      · have hbecomes := s.linStored_becomes m id data
        obtain ⟨hread, hblen⟩ := s.linStored_data (m := m) hs (id := id) hdata hlow
        refine ⟨_, (hexec false).trans (congrArg Host.Outcome.next ?_), hread, hblen, hbecomes.ln, hbecomes.keeps⟩
        rw [if_neg (by decide), if_neg (not_not.mpr hsum), State.linCause_still hstill.1 (s.linStored m id data) 0 (s.linStored_even m id data), ite_self]
      · refine ⟨_, (hexec false).trans (congrArg Host.Outcome.next ((if_neg (by decide)).trans ((if_pos hsum).trans (hfail 0 .checksum)))),
          (hnoted .checksum).1, (hnoted .checksum).2.trans (Nat.mod_eq_of_lt hid), (hbecomes .checksum).ln, (hbecomes .checksum).keeps⟩
      · exact ⟨_, (hexec true).trans (congrArg Host.Outcome.next ((if_pos rfl).trans (hfail 1 .framing))), (hnoted .framing).1,
          (hbecomes .framing).ln, (hbecomes .framing).keeps⟩
      · exact ⟨_, (execLinNoResponse_some hactive hcur hdir).trans (congrArg Host.Outcome.next (hfail 2 .missing)), (hnoted .missing).1,
          (hbecomes .missing).ln, (hbecomes .missing).keeps⟩
    · exact fun data cks framing h => execLinResponseReceived_none (.inr h)
    · intro id hcur hdir hdom hstill d
      refine ⟨?_, fun hhead => ?_⟩
      · have hset := s.setLin_becomes m (fun x => { x with cur := none, tx := x.tx + 1, sent := d ++ [s.linCks m id d], idle := false })
        refine ⟨_, (execLinResponseSent_eq hactive hdom hcur hdir (e := false) (fun h => absurd h (by decide)) rfl rfl).trans
          (congrArg Host.Outcome.next ((if_neg (by decide)).trans ?_)), hset.keeps, hset.ln⟩
        rw [State.linCause_still hstill.1 (s.setLin m _) 1 rfl, ite_self]
      · have hbecomes := s.linFailed_becomes m id (LinErr.framing (m := m)).addr
        exact ⟨_, (execLinResponseSent_eq hactive hdom hcur hdir (e := true) (fun _ => hhead) rfl rfl).trans (congrArg Host.Outcome.next
          ((if_pos rfl).trans (s.linError_still hstill.1 hstill.2 id 1 LinErr.framing.addr))), (State.linFailed_noted hs id .framing).1,
          hbecomes.ln, hbecomes.keeps⟩
    · intro hdom hhead hstill
      have hbecomes := (s.linFailed_becomes m x.hdrId (LinErr.framing (m := m)).addr).setLin (fun x => { x with hdrEnd := 0 })
      obtain ⟨hbit, hid⟩ := State.linFailed_noted hs x.hdrId (m := m) .framing
      exact ⟨_, (execLinResponseSent_header hactive hdom hhead).trans (congrArg (fun t : State => Host.Outcome.next (t.setLin m
        (fun x => { x with hdrEnd := 0 }))) (s.linError_still hstill.1 hstill.2 x.hdrId 1 LinErr.framing.addr)), hbit, hid, hbecomes.ln, hbecomes.keeps⟩
    · exact fun e hhead h => execLinResponseSent_none (fun hc => Bool.false_ne_true (hhead.symm.trans hc.2.2.2)) (.inr h)
    · exact fun h => execLinNoResponse_none (.inr h)
    · exact fun hdom => congrArg Host.Outcome.next (if_neg (fun hc => Bool.false_ne_true (hc.2.symm.trans hdom)))
    · exact fun hbusy => congrArg Host.Outcome.next (if_neg (fun hc => Bool.false_ne_true (hc.2.symm.trans hbusy)))
    · intro hdom
      have hset := s.setLin_becomes m (fun x => { x with busDom := true, idle := false, pulse := none })
      exact ⟨_, congrArg Host.Outcome.next (if_pos ⟨hactive, hdom⟩), hset.keeps, hset.ln⟩
    · have hset := s.setLin_becomes m (fun x => { x with busDom := false })
      have hon : s.domOn domLin = true := (Bool.and_eq_true _ _ ▸ hactive).2
      exact ⟨_, congrArg Host.Outcome.next (if_pos hon), hset.ln, hset.keeps⟩
    · intro hoff hdom
      have hset := s.setLin_becomes m (fun x => { x with pulse := some (s.count + 1000 * ticksPerUs), idle := false })
      exact ⟨_, congrArg Host.Outcome.next ((State.store_of_on hoff _ _).trans (if_pos ⟨hactive, hdom⟩)), hset.keeps, hset.ln⟩
    · intro us hbusy hlo hhi hstill
      have hidle := s.setLin_becomes m (fun x => { x with idle := false })
      refine ⟨_, execLinWakeReceived_pulse hactive hstill.1 hbusy hlo hhi, State.bit_setBit_same (s := s.setLin m _) hs rfl (Nat.lt_of_sub_eq_succ rfl), ?_, ?_⟩
      · exact (State.ln_setLin_same _ m _ m.isLt).trans (congrArg (fun x : Lin => { x with wakerx := true }) hidle.ln)
      · exact State.keeps_setLin (State.keeps_setFld (State.keeps_mono hidle.keeps (by simp)) _ _ (by simp)) m _ (by simp)
    · intro us hpos h
      have hidle := s.setLin_becomes m (fun x => { x with idle := false })
      refine ⟨_, congrArg Host.Outcome.next ((if_pos ⟨hactive, hpos⟩).trans (if_neg ?_)), hidle.ln, hidle.keeps⟩
      rintro ⟨hlo, hhi, hbusy⟩
      rcases h with h | h | h
      · omega
      · omega
      · exact Bool.false_ne_true (hbusy.symm.trans h)
    · intro hbusy
      have hset := s.setLin_becomes m (fun x => { x with idle := true, pulse := none })
      exact ⟨_, congrArg Host.Outcome.next (if_pos ⟨hactive, hbusy⟩), hset.ln, hset.keeps⟩
  · intro m id rate us good e framing data cks s h
    have hnot {p : Prop} : ¬(s.linActive m = true ∧ p) := fun hc => Bool.false_ne_true (h.symm.trans hc.1)
    refine ⟨congrArg Host.Outcome.next (if_pos (.inl h)), execLinResponseReceived_none (.inl h),
      execLinResponseSent_none (fun hc => hnot hc.2) (.inl h), execLinNoResponse_none (.inl h), congrArg Host.Outcome.next (if_neg hnot),
      congrArg Host.Outcome.next (if_neg hnot), congrArg Host.Outcome.next (if_neg hnot), fun hdip => ⟨execLinHeaderSend_inactive h hdip id, ?_⟩⟩
    refine congrArg Host.Outcome.next ?_
    cases hoff : s.storesOff with
    | true => exact State.store_of_off hdip hoff _ _
    | false => exact (State.store_of_on hoff _ _).trans (if_neg hnot)
  · intro m id s
    refine ⟨fun hdip => ⟨?_, ?_, ?_⟩, fun hdip hoff => ⟨?_, ?_, ?_⟩⟩
    · exact congrArg Host.Outcome.next (State.store_of_dip hdip _ _)
    · exact congrArg Host.Outcome.next (State.store_of_dip hdip _ _)
    · exact congrArg Host.Outcome.next (State.store_of_dip hdip _ _)
    · exact congrArg Host.Outcome.next (State.store_of_off hdip hoff _ _)
    · exact congrArg Host.Outcome.next (State.store_of_off hdip hoff _ _)
    · exact congrArg Host.Outcome.next (State.store_of_off hdip hoff _ _)
  · intro s hcall hen at_ c
    have hadv := s.advance_keeps (s.frm.edgeAt + 2 * ticksPerUs)
    refine ⟨_, congrArg Host.Outcome.next (if_pos ⟨hcall, hen⟩), rfl, rfl, State.cn_setCan_same at_ s.nmPort _ s.nmPort_lt, ?_⟩
    have hoffered := State.keeps_setCan (State.keeps_mono hadv (by simp : [Part.count] ⊆ [.nm, .count, .can s.nmPort])) s.nmPort
      (fun c => { c with nm := some (at_.nmFrame s.nm.callGts), newer := c.newer || (match c.tx with | some (.nm, _) => true | _ => false) }) (by simp)
    exact State.keeps_trans hoffered (State.setNm_keeps _ _) (List.Subset.refl _) (by simp)
  · exact fun s h => congrArg Host.Outcome.next (if_neg (fun hc => h.elim (fun h => Bool.false_ne_true (h.symm.trans hc.1))
      (fun h => Bool.false_ne_true (h.symm.trans hc.2))))
  · intro s hoff
    exact ⟨_, congrArg Host.Outcome.next (State.store_of_on hoff _ _), s.setNm_keeps _, fun i _ => nodeOf_map s.nm i⟩

end Sys2Proof.Machine
end

section
/-!
PROOFS. What the internal switch does with a frame, and the frames of the Host SPI that are no request (O55).
-/

/- One proof at a time: the check of the whole text comes near its limit of memory. -/
set_option Elab.async false

namespace Sys2Proof.Machine

section
variable {s : State}

/-! ### Learning (R502, R504) -/

theorem State.learn_macs {m : Nat} (p : Nat) (hgroup : macGroup m = false) (hroom : s.eth.macs.length < 1024) :
    s.learn m p = s.setEth (fun e => { e with macs := (m, p, s.count) :: e.macs.filter (fun x => x.1 != m) }) := by
  have htake : ((m, p, s.count) :: s.eth.macs.filter (fun x => x.1 != m)).take 1024 = (m, p, s.count) :: s.eth.macs.filter (fun x => x.1 != m) := by
    refine List.take_of_length_le ?_
    have hle := List.length_filter_le (fun x : Nat × Nat × Nat => x.1 != m) s.eth.macs
    rw [List.length_cons]
    omega
  have hgoes : s.learn m p = s.setEth (fun e => { e with macs := ((m, p, s.count) :: e.macs.filter (fun x => x.1 != m)).take 1024 }) :=
    if_neg (by simp [hgroup])
  exact hgoes.trans (congrArg (fun l => ({ s with eth := { s.eth with macs := l } } : State)) htake)

/-- A learned address is at its port; the others stay where they were. -/
theorem State.learned_learn {m : Nat} (p : Nat) (hgroup : macGroup m = false) (hroom : s.eth.macs.length < 1024) (x : Nat) :
    (s.learn m p).learned x = if x = m then some p else s.learned x := by
  rw [State.learn_macs p hgroup hroom]
  unfold State.learned State.setEth
  dsimp only
  rw [List.find?_cons]
  by_cases h : x = m
  · subst h
    simp
  · have hne : (m == x) = false := by simpa using Ne.symm h
    rw [if_neg h, hne, Bool.false_and]
    dsimp only
    rw [List.find?_filter]
    congr 2
    funext e
    by_cases he : e.1 = x
    · simp [he, h]
    · simp [he]

theorem State.learn_keeps (m p : Nat) : s.keeps (s.learn m p) [.eth] := by
  unfold State.learn
  split
  · exact s.keeps_refl _
  · exact s.setEth_keeps _

theorem State.learn_port (m p : Nat) : (s.learn m p).eth.port = s.eth.port := by
  unfold State.learn
  split <;> rfl

/-! ### Forwarding (R504, R505) -/

/-- A unicast frame leaves by the other linked port where its destination is learned there or unknown, by none where it is learned at the
port it came from. -/
theorem State.egressOf_other {p q : Fin 2} (hpq : p ≠ q) {dst : Nat} (hgroup : macGroup dst = false) (hmac : dst ≠ s.mac) (hlive : s.ethLive q = true)
    (hlearned : s.learned dst = some q.val ∨ s.learned dst = none) : s.egressOf p dst = [q.val] := by
  have hports : [0, 1].filter (fun k => k != p.val && s.ethLive k) = [q.val] := by
    obtain ⟨rfl, rfl⟩ | ⟨rfl, rfl⟩ : p = 0 ∧ q = 1 ∨ p = 1 ∧ q = 0 := by omega
    · have hone : s.ethLive 1 = true := hlive
      simp [hone]
    · have hzero : s.ethLive 0 = true := hlive
      simp [hzero]
  unfold State.egressOf
  rw [if_neg (by simp [hgroup]), if_neg hmac]
  rcases hlearned with h | h
  · rw [h]
    exact if_neg (fun hc => hpq (Fin.ext hc.symm))
  · rw [h]
    exact hports

theorem State.egressOf_back {p : Fin 2} {dst : Nat} (hgroup : macGroup dst = false) (hmac : dst ≠ s.mac) (hlearned : s.learned dst = some p.val) :
    s.egressOf p dst = [] := by
  unfold State.egressOf
  rw [if_neg (by simp [hgroup]), if_neg hmac, hlearned]
  exact if_pos rfl

theorem State.frQueue_lt (s : State) (f : Bytes) : s.frQueue f < 4 := by
  have hpcp : bitsN (f.getD 14 0) 5 3 < 8 := Nat.mod_lt _ (by decide)
  unfold State.frQueue
  dsimp only
  split
  · omega
  · split
    · decide
    · split
      · split
        · decide
        · split <;> decide
      · decide

theorem State.learned_setEport (s : State) (p : Nat) (f : EthPort → EthPort) (x : Nat) : (s.setEport p f).learned x = s.learned x := rfl

theorem State.eport_setEport (s : State) (p : Fin 2) (f : EthPort → EthPort) : (s.setEport p f).eport p = f (s.eport p) :=
  nth_updN_same _ _ _ _ p.isLt

theorem State.eport_setEport_other (s : State) {p q : Nat} (h : p ≠ q) (f : EthPort → EthPort) : (s.setEport p f).eport q = s.eport q :=
  nth_updN_other _ _ _ _ _ h

theorem State.enqueue_room {q : Nat} {f : EthQ} (hlive : s.ethLive q = true) (hroom : s.qRoom q f.bytes = true) :
    s.enqueue q f = s.setEport q (fun x => { x with q := updN x.q (s.frQueue f.bytes) (fun l => l ++ [f]) }) :=
  if_neg (by simp [hlive, hroom])

/-! ### What a frame for the device leaves (R504, R532) -/

/-- The frames that each port has received, the access block and the host block stay. -/
structure PassedOn (s t : State) : Prop where
  rx : ∀ p, (t.eport p).rx = (s.eport p).rx
  acc : t.acc = s.acc
  hst : t.hst = s.hst

theorem PassedOn.refl (s : State) : PassedOn s s := ⟨fun _ => rfl, rfl, rfl⟩

theorem PassedOn.trans {t u : State} (h : PassedOn s t) (h' : PassedOn t u) : PassedOn s u :=
  ⟨fun p => (h'.rx p).trans (h.rx p), h'.acc.trans h.acc, h'.hst.trans h.hst⟩

theorem State.rx_setEport (s : State) (q : Nat) {f : EthPort → EthPort} (hf : ∀ x, (f x).rx = x.rx) (p : Nat) :
    ((s.setEport q f).eport p).rx = (s.eport p).rx := by
  refine (congrArg EthPort.rx (nth_updN s.eth.port q p f {})).trans ?_
  split
  · exact hf _
  · rfl

theorem State.q_setEport (s : State) (p : Nat) {f : EthPort → EthPort} (hf : ∀ x, (f x).q = x.q) (k c : Nat) :
    nth ((s.setEport p f).eport k).q c [] = nth (s.eport k).q c [] := by
  refine (congrArg (fun x : EthPort => nth x.q c []) (nth_updN s.eth.port p k f {})).trans ?_
  split
  · exact congrArg (nth · c []) (hf _)
  · rfl

theorem State.enqueue_passed (s : State) (q : Nat) (f : EthQ) : PassedOn s (s.enqueue q f) := by
  unfold State.enqueue
  split
  · exact ⟨fun _ => rfl, rfl, rfl⟩
  · exact ⟨State.rx_setEport s q (fun _ => rfl), rfl, rfl⟩

theorem State.enqueueAll_passed (f : EthQ) (l : List Nat) (s : State) : PassedOn s (l.foldl (fun t q => t.enqueue q f) s) := by
  induction l generalizing s with
  | nil => exact PassedOn.refl s
  | cons q l ih => exact (s.enqueue_passed q _).trans (ih _)

theorem State.handOver_passed {f : Bytes} {t : State} (h : s.handOver f = some t) : PassedOn s t := by
  unfold State.handOver at h
  split at h
  · exact absurd h (by simp)
  · dsimp only at h
    split at h
    · exact absurd h (by simp)
    · split at h
      · cases h
        exact ⟨fun _ => rfl, rfl, rfl⟩
      · split at h
        · cases h
          exact PassedOn.trans (t := { s with free := s.free + 1 }) ⟨fun _ => rfl, rfl, rfl⟩ (State.enqueueAll_passed _ _ _)
        · exact absurd h (by simp)

theorem State.balHandFrom_passed (l : List Bytes) (s : State) : PassedOn s (s.balHandFrom l) := by
  induction l generalizing s with
  | nil => exact ⟨fun _ => rfl, rfl, rfl⟩
  | cons f l ih =>
    unfold State.balHandFrom
    cases h : s.handOver f with
    | none => exact ⟨fun _ => rfl, rfl, rfl⟩
    | some t => exact (State.handOver_passed h).trans (ih t)

theorem State.balHand_passed (s : State) : PassedOn s s.balHand := by
  unfold State.balHand
  split
  · exact PassedOn.refl s
  · exact State.balHandFrom_passed _ s

/-! ### Frames received (R502, R504) -/

section
variable {p : Fin 2} {bytes : List Nat}

theorem execEthFrameReceived_bad {fcs : Bool} (h : s.ethLive p = false ∨ fcs = false ∨ bytes.length < 14 ∨ 1518 < bytes.length) :
    exec (.ethFrameReceived p bytes fcs) s = .next s := by
  refine if_pos ?_
  rcases h with h | h | h | h
  · simp [h]
  · simp [h]
  · simp [h]
  · have hlong : 1522 < bytes.length + 4 := by omega
    simp [hlong]

/-- A frame that a port has received: counted, its source learned, forwarded. -/
def State.switched (s : State) (p : Fin 2) (bytes : List Nat) : State :=
  ((s.setEport p (fun x => { x with rx := x.rx + 1 })).learn (beAt bytes 6 6) p).forward { bytes := bytes, inPort := p, inAt := s.count }

variable (hlive : s.ethLive p = true) (hlo : 14 ≤ bytes.length) (hhi : bytes.length ≤ 1518)
include hlive hlo hhi

theorem execEthFrameReceived_good : exec (.ethFrameReceived p bytes true) s = (if s.internal (beAt bytes 0 6) then
      (match (s.switched p bytes).internalTake p bytes with | .next t => .next t.balHand | o => o) else .next (s.switched p bytes)) :=
  (if_neg (by simp only [hlive]; simp; omega)).trans rfl

theorem execEthFrameReceived_forwarded (hint : s.internal (beAt bytes 0 6) = false) :
    exec (.ethFrameReceived p bytes true) s = .next (s.switched p bytes) :=
  (execEthFrameReceived_good hlive hlo hhi).trans (if_neg (by simp [hint]))

theorem execEthFrameReceived_dropped (hint : s.internal (beAt bytes 0 6) = true) (h1 : frType bytes ≠ 0x88F7) (h2 : frType bytes ≠ 0x0800)
    (h3 : frType bytes ≠ 0x0806) : exec (.ethFrameReceived p bytes true) s = .next (s.switched p bytes).balHand := by
  have htake : (s.switched p bytes).internalTake p bytes = .next (s.switched p bytes) := (if_neg h1).trans ((if_neg h3).trans (if_neg h2))
  rw [execEthFrameReceived_good hlive hlo hhi, if_pos hint, htake]

omit hlive hlo hhi in
theorem State.switched_passed (s : State) (p : Fin 2) (bytes : List Nat) :
    ((s.switched p bytes).eport p).rx = (s.eport p).rx + 1 ∧ (s.switched p bytes).acc = s.acc ∧ (s.switched p bytes).hst = s.hst := by
  have hlearned := (s.setEport p (fun x => { x with rx := x.rx + 1 })).learn_keeps (beAt bytes 6 6) p
  have hport := (s.setEport p (fun x => { x with rx := x.rx + 1 })).learn_port (beAt bytes 6 6) p
  have hpassed := State.enqueueAll_passed { bytes := bytes, inPort := p, inAt := s.count } (((s.setEport p (fun x => { x with rx := x.rx + 1 })).learn
    (beAt bytes 6 6) p).egressOf p (beAt bytes 0 6)) ((s.setEport p (fun x => { x with rx := x.rx + 1 })).learn (beAt bytes 6 6) p)
  refine ⟨(hpassed.rx p).trans ?_, hpassed.acc.trans (hlearned.2 .acc (by simp)), hpassed.hst.trans (hlearned.2 .hst (by simp))⟩
  have hsame := congrArg (fun v : Vector EthPort 2 => (nth v p.val {}).rx) hport
  exact hsame.trans (congrArg EthPort.rx (State.eport_setEport s p _))

end

/-! ### To another station (R504, R505) -/

/-- A port has counted a frame and learned its source. -/
structure Learned (s u : State) (p : Fin 2) (src : Nat) : Prop where
  learned : ∀ x, u.learned x = if x = src then some p.val else s.learned x
  port : u.eth.port = (s.setEport p (fun x => { x with rx := x.rx + 1 })).eth.port
  regs : u.regs = s.regs
  bal : u.bal = s.bal
  cfg : u.eth.cfg = s.eth.cfg
  domOn : ∀ d, u.domOn d = s.domOn d
  keeps : s.keeps u [.eth]

section
variable {p q : Fin 2} {bytes : List Nat} (hgroup : macGroup (beAt bytes 0 6) = false) (hsrc : macGroup (beAt bytes 6 6) = false)
  (hint : s.internal (beAt bytes 0 6) = false) (hne : beAt bytes 0 6 ≠ beAt bytes 6 6) (hroom : s.eth.macs.length < 1024)
include hgroup hsrc hint hne hroom

omit hgroup hint hne in
theorem State.learned_becomes : Learned s ((s.setEport p (fun x => { x with rx := x.rx + 1 })).learn (beAt bytes 6 6) p) p (beAt bytes 6 6) := by
  have hlearned := State.learned_learn (s := s.setEport p (fun x => { x with rx := x.rx + 1 })) p hsrc hroom
  rw [State.learn_macs (s := s.setEport p (fun x => { x with rx := x.rx + 1 })) p hsrc hroom] at hlearned ⊢
  exact ⟨hlearned, rfl, rfl, rfl, rfl, fun _ => rfl, State.keeps_trans (s.setEth_keeps _) (State.setEth_keeps _ _) (List.Subset.refl _) (List.Subset.refl _)⟩

omit hroom hsrc hne hgroup in
theorem State.mac_of_internal {u : State} (hregs : u.regs = s.regs) : beAt bytes 0 6 ≠ u.mac := by
  have hmac : u.mac = s.mac := by
    unfold State.mac State.fld State.reg
    rw [hregs]
  rw [hmac]
  unfold State.internal at hint
  simp only [Bool.or_eq_false_iff, beq_eq_false_iff_ne] at hint
  exact hint.1.1.1

omit hroom hsrc in
/-- To the other port. -/
theorem State.forward_other {u : State} (h : Learned s u p (beAt bytes 6 6)) (hpq : p ≠ q) (hlive : s.ethLive q = true) (hq : s.qRoom q bytes = true)
    (hdst : s.learned (beAt bytes 0 6) = some q.val ∨ s.learned (beAt bytes 0 6) = none) {v : State}
    (hv : u.forward { bytes := bytes, inPort := p, inAt := s.count } = v) : v.learned (beAt bytes 6 6) = some p.val ∧
      nth (v.eport q).q (s.frQueue bytes) [] = nth (s.eport q).q (s.frQueue bytes) [] ++ [{ bytes := bytes, inPort := p, inAt := s.count }] ∧
      (∀ c, nth (v.eport p).q c [] = nth (s.eport p).q c []) ∧ s.keeps v [.eth] := by
  have hother : u.eport q = s.eport q := (congrArg (fun v : Vector EthPort 2 => nth v q.val {}) h.port).trans
    (State.eport_setEport_other s (fun he => hpq (Fin.ext he)) _)
  have hqueue : u.frQueue bytes = s.frQueue bytes := by
    unfold State.frQueue State.ethCfg
    rw [h.cfg, h.bal]
  have hulive : u.ethLive q = true := by
    unfold State.ethLive
    rw [hother, h.domOn]
    exact hlive
  have huroom : u.qRoom q bytes = true := by
    unfold State.qRoom State.qBytes
    rw [hother, hqueue]
    exact hq
  have hout := State.egressOf_other hpq hgroup (State.mac_of_internal hint h.regs) hulive
    (hdst.imp ((h.learned _).trans (if_neg hne)).trans ((h.learned _).trans (if_neg hne)).trans)
  have heq : u.forward { bytes := bytes, inPort := p, inAt := s.count } = u.enqueue q { bytes := bytes, inPort := p, inAt := s.count } := by
    unfold State.forward
    dsimp only
    rw [hout]
    rfl
  rw [heq, State.enqueue_room (f := { bytes := bytes, inPort := p, inAt := s.count }) hulive huroom, hqueue] at hv
  subst hv
  refine ⟨?_, ?_, fun c => ?_, State.keeps_trans h.keeps (State.setEth_keeps _ _) (List.Subset.refl _) (List.Subset.refl _)⟩
  · rw [State.learned_setEport, h.learned, if_pos rfl]
  · rw [State.eport_setEport, hother]
    exact nth_updN_same _ _ _ _ (s.frQueue_lt bytes)
  · rw [State.eport_setEport_other _ (fun he => hpq (Fin.ext he.symm))]
    exact (congrArg (fun v : Vector EthPort 2 => nth (nth v p.val {}).q c []) h.port).trans
      (State.q_setEport s p (f := fun x => { x with rx := x.rx + 1 }) (fun _ => rfl) p c)

/-- Back to its own port. -/
theorem State.switched_back (hdst : s.learned (beAt bytes 0 6) = some p.val) :
    (s.switched p bytes).learned (beAt bytes 6 6) = some p.val ∧
      (∀ k c, nth ((s.switched p bytes).eport k).q c [] = nth (s.eport k).q c []) ∧ s.keeps (s.switched p bytes) [.eth] := by
  obtain ⟨hlearned, hport, hregs, -, -, -, hkeeps⟩ := State.learned_becomes (p := p) hsrc hroom
  have hback := State.egressOf_back hgroup (State.mac_of_internal hint hregs) ((hlearned _).trans ((if_neg hne).trans hdst))
  have heq : s.switched p bytes = (s.setEport p (fun x => { x with rx := x.rx + 1 })).learn (beAt bytes 6 6) p := by
    unfold State.switched State.forward
    dsimp only
    rw [hback]
    rfl
  rw [heq]
  refine ⟨(hlearned _).trans (if_pos rfl), fun k c => ?_, hkeeps⟩
  have hsame := congrArg (fun v : Vector EthPort 2 => nth (nth v k {}).q c []) hport
  exact hsame.trans (State.q_setEport s p (f := fun x => { x with rx := x.rx + 1 }) (fun _ => rfl) k c)

end

/-! ### The Host SPI (R575, R576, R578) -/

theorem State.no_dip_of_spiLive (h : s.spiLive = true) : s.inDip = false := by
  unfold State.spiLive at h
  unfold State.inDip
  cases hp : s.pwr.pause with
  | dip d => simp [hp] at h
  | _ => rfl

theorem execSpiShortFrame_eq (hdip : s.inDip = false) (b : List Nat) : exec (.spiShortFrame b) s =
    .next (if s.spiLive && spiShort b && !spiIdle b then ((s.spiOut b.length).setBit F.hstStatShort).countReq false false else s) :=
  congrArg Host.Outcome.next (State.load_of_no_dip hdip)

theorem execSpiIdleFrame_eq (hdip : s.inDip = false) (n : Nat) : exec (.spiIdleFrame n) s = .next (if s.spiLive then s.spiOut n else s) :=
  congrArg Host.Outcome.next (State.load_of_no_dip hdip)

theorem execCommit_eq (hdip : s.inDip = false) :
    exec .commit s = .next (if s.spiLive && !s.win.fhalt && !s.bit F.hstStatNegd then s.hostCommit else s) :=
  congrArg Host.Outcome.next (State.load_of_no_dip hdip)

theorem State.spiOut_spec (s : State) (n : Nat) :
    s.keeps (s.spiOut n) [.hst] ∧ (s.spiOut n).hst.rej = s.hst.rej ∧ (s.canonical → (s.spiOut n).canonical) := by
  unfold State.spiOut
  split
  · split
    · exact ⟨s.setHst_keeps _, rfl, id⟩
    · exact ⟨s.keeps_refl _, rfl, id⟩
  · exact ⟨s.keeps_refl _, rfl, id⟩

theorem State.spiOut_whole {r : Bytes} (hr : s.hst.resp = some r) {n : Nat} (hn : r.length ≤ n) :
    s.spiOut n = s.setHst (fun x => { x with resp := none, said := r }) := by
  unfold State.spiOut
  rw [hr]
  exact if_pos hn

theorem State.spiOut_part {r : Bytes} (hr : s.hst.resp = some r) {n : Nat} (hn : n < r.length) : s.spiOut n = s := by
  unfold State.spiOut
  rw [hr]
  exact if_neg (by omega)

theorem State.spiOut_none (hr : s.hst.resp = none) (n : Nat) : s.spiOut n = s := by
  unfold State.spiOut
  rw [hr]

theorem State.countReq_refused (s : State) : s.countReq false false = s.setHst (fun x => { x with rej := x.rej + 1 }) := rfl

theorem spiShort_iff (b : Bytes) : spiShort b = true ↔ b.length < 16 ∨ b.length < msgLen b := by simp [spiShort]

/-- COMMIT, with HOSTROLL where the next edge is too near. -/
theorem State.hostCommit_spec (hs : s.canonical) : s.hostCommit.hst = { s.hst with commit := some (s.frm.frame.toNat + (if s.past 20 then 2 else 1)) } ∧
    s.hostCommit.bit F.frmStatHostroll = (s.bit F.frmStatHostroll || s.past 20) ∧ s.keeps s.hostCommit [.hst, .reg F.frmStatHostroll.addr] := by
  have hhst : s.keeps { s with hst := { s.hst with commit := some (s.frm.frame.toNat + (if s.past 20 then 2 else 1)) } } [.hst] :=
    s.setHst_keeps (fun x => { x with commit := some (s.frm.frame.toNat + (if s.past 20 then 2 else 1)) })
  unfold State.hostCommit
  dsimp only
  cases hpast : s.past 20 with
  | false =>
    rw [hpast] at hhst
    exact ⟨rfl, (Bool.or_false _).symm, State.keeps_mono hhst (by simp)⟩
  | true =>
    rw [hpast] at hhst
    refine ⟨rfl, ?_, State.keeps_setFld (State.keeps_mono hhst (by simp)) _ _ (by simp)⟩
    rw [Bool.or_true]
    exact State.bit_setBit_same (s := { s with hst := { s.hst with commit := some (s.frm.frame.toNat + 2) } }) hs rfl (by decide)

end

/-- Settles O55, by what the switch and the Host SPI do with each frame. -/
theorem switchAndHostPortSteps : Obligations.SwitchAndHostPortSteps := by
  refine ⟨?_, ?_, ?_, ?_, ?_, ?_, ?_, ?_, ?_⟩
  · intro p q bytes s hpq hlive hlo hhi dst src hint hgroup hsrc hne hq hroom hmacs
    have hexec := execEthFrameReceived_forwarded hlive hlo hhi hint
    obtain ⟨hrx, -⟩ := s.switched_passed p bytes
    refine ⟨fun hdst => ?_, fun hdst => ?_⟩
    · obtain ⟨hlearned, hqueued, hown, hkeeps⟩ := State.forward_other hgroup hint hne (State.learned_becomes hsrc hmacs) hpq hq hroom hdst rfl
      exact ⟨_, hexec, hlearned, hrx, hqueued, hown, hkeeps⟩
    · obtain ⟨hlearned, hqueues, hkeeps⟩ := State.switched_back hgroup hsrc hint hne hmacs hdst
      exact ⟨_, hexec, hlearned, hrx, hqueues, hkeeps⟩
  · exact fun p bytes fcs s h => execEthFrameReceived_bad h
  · intro p bytes s hlive hlo hhi hint h1 h2 h3
    obtain ⟨hrx, hacc, hhst⟩ := s.switched_passed p bytes
    have hpassed := (s.switched p bytes).balHand_passed
    exact ⟨_, execEthFrameReceived_dropped hlive hlo hhi hint h1 h2 h3, (hpassed.rx p).trans hrx, hpassed.acc.trans hacc, hpassed.hst.trans hhst⟩
  · exact fun b n s hdip => ⟨congrArg Host.Outcome.next (State.load_of_dip hdip), congrArg Host.Outcome.next (State.load_of_dip hdip),
      congrArg Host.Outcome.next (State.load_of_dip hdip)⟩
  · intro b n s hdip hlive
    refine ⟨(execSpiShortFrame_eq hdip b).trans (congrArg _ (if_neg ?_)), (execSpiIdleFrame_eq hdip n).trans (congrArg _ (if_neg ?_)),
      (execCommit_eq hdip).trans (congrArg _ (if_neg ?_))⟩
    · simp [hlive]
    · simp [hlive]
    · simp [hlive]
  · intro b s hs hlive hshort hidle
    obtain ⟨hkeeps, hrej, hcanon⟩ := s.spiOut_spec b.length
    refine ⟨_, (execSpiShortFrame_eq (State.no_dip_of_spiLive hlive) b).trans (congrArg _ (if_pos ?_)), ?_, ?_, ?_⟩
    · simp [hlive, (spiShort_iff b).mpr hshort, hidle]
    · exact State.bit_setBit_same (hcanon hs) rfl (by decide)
    · rw [State.countReq_refused]
      exact congrArg (fun n : Nat => { (s.spiOut b.length).hst with rej := n + 1 }) hrej
    · rw [State.countReq_refused]
      exact State.keeps_trans (State.keeps_setFld (State.keeps_mono hkeeps (by simp)) _ _ (by simp)) (State.setHst_keeps _ _) (List.Subset.refl _) (by simp)
  · intro b s hlive h
    refine (execSpiShortFrame_eq (State.no_dip_of_spiLive hlive) b).trans (congrArg _ (if_neg ?_))
    rcases h with ⟨hlo, hlen⟩ | h
    · have hlong : spiShort b = false := Bool.eq_false_iff.mpr (fun hc => by have := (spiShort_iff b).mp hc; omega)
      simp [hlong]
    · simp [h]
  · intro n s hlive
    have hexec := (execSpiIdleFrame_eq (State.no_dip_of_spiLive hlive) n).trans (congrArg Host.Outcome.next (if_pos hlive))
    refine ⟨fun r hr hn => ?_, fun r hr hn => ?_, fun hr => ?_⟩
    · rw [State.spiOut_whole hr hn] at hexec
      exact ⟨_, hexec, rfl, s.setHst_keeps _⟩
    · rwa [State.spiOut_part hr hn] at hexec
    · rwa [State.spiOut_none hr] at hexec
  · intro s hlive
    have hexec := execCommit_eq (State.no_dip_of_spiLive hlive)
    refine ⟨fun h => hexec.trans (congrArg _ (if_neg ?_)), fun hhalt hneg hs => ?_⟩
    · rcases h with h | h
      · simp [h]
      · simp [h]
    · obtain ⟨hhst, hroll, hkeeps⟩ := State.hostCommit_spec hs
      exact ⟨_, hexec.trans (congrArg _ (if_pos (by simp [hlive, hhalt, hneg]))), hhst, hroll, hkeeps⟩

end Sys2Proof.Machine
end

section
/-!
PROOFS. Words of the Granary that a requester holds: what it reads and writes there byte by byte.
-/

/- One proof at a time: the check of the whole text comes near its limit of memory. -/
set_option Elab.async false

namespace Sys2Proof.Machine

/-! ### Numbers and their bytes -/

theorem leOf_leNat_mod (l : Bytes) (n : Nat) (hn : l.length ≤ n) : leOf l.length (leNat l % 256 ^ n) = l.map (· % 256) := by
  induction l generalizing n with
  | nil => rfl
  | cons b l ih =>
    obtain ⟨n, rfl⟩ : ∃ k, n = k + 1 := ⟨n - 1, by rw [List.length_cons] at hn; omega⟩
    have hlow : (b % 256 + 256 * leNat l) % 256 ^ (n + 1) % 256 = b % 256 := by
      rw [Nat.mod_mod_of_dvd _ ⟨256 ^ n, by rw [Nat.pow_succ, Nat.mul_comm]⟩]
      omega
    have hhigh : (b % 256 + 256 * leNat l) % 256 ^ (n + 1) / 256 = leNat l % 256 ^ n := by
      rw [Nat.pow_succ', Nat.mod_mul_right_div_self]
      congr 1
      omega
    rw [List.length_cons, List.map_cons]
    show (leNat (b :: l) % 256 ^ (n + 1)) % 256 :: leOf l.length (leNat (b :: l) % 256 ^ (n + 1) / 256) = _
    rw [leNat, hlow, hhigh, ih n (by rw [List.length_cons] at hn; omega)]

/-- The bytes of the word that four bytes spell. -/
theorem leOf_word {l : Bytes} (hl : l.length = 4) : leOf 4 (BitVec.ofNat 32 (leNat l)).toNat = l.map (· % 256) := by
  have h := leOf_leNat_mod l 4 (by omega)
  rw [hl] at h
  rw [BitVec.toNat_ofNat]
  exact h

/-- Four bytes of a string, the ones past its end from `pad`. -/
def fourOf (b pad : Bytes) (j : Nat) : Bytes := (b.drop (4 * j)).take 4 ++ pad.drop ((b.drop (4 * j)).take 4).length

theorem length_fourOf {b pad : Bytes} (hpad : pad.length = 4) (j : Nat) : (fourOf b pad j).length = 4 := by
  unfold fourOf
  rw [List.length_append, List.length_drop, hpad, List.length_take]
  omega

/-- The whole words of a string. -/
theorem flatMap_fourOf_whole {b pad : Bytes} (hpad : pad.length = 4) (k : Nat) (hk : 4 * k ≤ b.length) :
    (upto k).flatMap (fourOf b pad) = b.take (4 * k) := by
  induction k with
  | zero => simp [upto]
  | succ k ih =>
    have hfull : ((b.drop (4 * k)).take 4).length = 4 := by
      rw [List.length_take, List.length_drop]
      omega
    have hfour : fourOf b pad k = (b.drop (4 * k)).take 4 := by
      unfold fourOf
      rw [hfull, List.drop_of_length_le (le_of_eq hpad), List.append_nil]
    rw [upto_succ, List.flatMap_append, ih (by omega), List.flatMap_singleton, hfour, Nat.mul_succ, List.take_add]

/-- A string is the start of its words. -/
theorem take_flatMap_fourOf {b pad : Bytes} (hpad : pad.length = 4) :
    ((upto ((b.length + 3) / 4)).flatMap (fourOf b pad)).take b.length = b := by
  by_cases hdiv : b.length % 4 = 0
  · have hk : (b.length + 3) / 4 = b.length / 4 := by omega
    rw [hk, flatMap_fourOf_whole hpad _ (by omega), List.take_take]
    exact List.take_of_length_le (by omega)
  · have hk : (b.length + 3) / 4 = b.length / 4 + 1 := by omega
    have hown : (b.drop (4 * (b.length / 4))).take 4 = b.drop (4 * (b.length / 4)) :=
      List.take_of_length_le (by rw [List.length_drop]; omega)
    have hlen : (b.take (4 * (b.length / 4))).length = 4 * (b.length / 4) := by
      rw [List.length_take]
      omega
    rw [hk, upto_succ, List.flatMap_append, flatMap_fourOf_whole hpad _ (by omega), List.flatMap_singleton]
    unfold fourOf
    rw [hown, ← List.append_assoc, List.take_append_drop]
    exact List.take_left' rfl

/-! ### Words that a requester may use at once (R401, R403, R409, R437) -/

/-- A word in a bank of the requester's, ON and not locked off, at which no other access waits. -/
structure State.Free (s : State) (who a : Nat) : Prop where
  home : inGranary a = true
  own : s.mayUse who (bankOf a) = true
  on : s.domOn (16 + bankOf a) = true
  unlocked : s.domLocked (16 + bankOf a) = false
  idle : (s.gbank (bankOf a)).wait = []

theorem State.holds_free {s : State} {who a n : Nat} (h : s.holds who a n) {w : Nat} (hw : w ∈ secWords a n) : s.Free who w := by
  obtain ⟨j, hj, rfl⟩ := List.mem_map.mp hw
  obtain ⟨hhome, hown, hon, hlock, hidle⟩ := h.2 j ((mem_upto _ _).mp hj)
  exact ⟨hhome, hown, hon, hlock, hidle⟩

/-- Banks whose lanes have moved on; nothing else has changed, and no access waits that did not wait before. -/
structure State.Turned (s t : State) : Prop where
  rest : ∃ g, t = { s with grn := g }
  wait : ∀ b, (t.gbank b).wait = (s.gbank b).wait
  keeps : s.keeps t bankParts

theorem State.Turned.refl (s : State) : s.Turned s := ⟨⟨s.grn, rfl⟩, fun _ => rfl, s.keeps_refl _⟩

theorem State.Turned.trans {s t u : State} (h : s.Turned t) (h' : t.Turned u) : s.Turned u := by
  obtain ⟨⟨g, rfl⟩, hwait, hkeeps⟩ := h
  obtain ⟨⟨g', rfl⟩, hwait', hkeeps'⟩ := h'
  exact ⟨⟨g', rfl⟩, fun b => (hwait' b).trans (hwait b), State.keeps_trans hkeeps hkeeps' (List.Subset.refl _) (List.Subset.refl _)⟩

theorem State.Turned.free {s t : State} (h : s.Turned t) {who a : Nat} (hf : s.Free who a) : t.Free who a := by
  obtain ⟨⟨g, rfl⟩, hwait, -⟩ := h
  exact ⟨hf.home, hf.own, hf.on, hf.unlocked, (hwait _).trans hf.idle⟩

theorem State.wait_setGbank (s : State) (b : Nat) {f : GBank → GBank} (hf : ∀ x : GBank, (f x).wait = x.wait) (k : Nat) :
    ((s.setGbank b f).gbank k).wait = (s.gbank k).wait := by
  refine (congrArg GBank.wait (nth_updN s.grn.bank b k f {})).trans ?_
  split
  · exact hf _
  · rfl

/-- A bank of the Granary is among the banks. -/
theorem gbank_mem_bankParts {a : Nat} (h : inGranary a = true) : Part.gbank (bankOf a) ∈ bankParts :=
  List.mem_map_of_mem ((mem_upto _ _).mpr (bankOf_lt h))

/-- A turn at the lane of a free word. -/
theorem State.Free.turned {s : State} {who a : Nat} (h : s.Free who a) : s.Turned (s.laneTurn who a) := by
  unfold State.laneTurn
  rw [State.laneServe_of_idle h.idle]
  exact ⟨⟨_, rfl⟩, s.wait_setGbank _ (fun _ => rfl), State.keeps_mono (s.setGbank_keeps _ _) (by simpa using gbank_mem_bankParts h.home)⟩

theorem State.Free.wakes {s : State} {who a : Nat} (h : s.Free who a) : s.wakeFails a = false := by
  unfold State.wakeFails
  rw [h.on]
  rfl

/-- A word read that has no error. -/
theorem State.Free.grnRead {s : State} {who a : Nat} (h : s.Free who a) (he : s.eccAt a = .clean) :
    ∃ t, s.grnRead who a .clean = (s.mread a, t) ∧ s.Turned t := by
  obtain ⟨g, hg⟩ := h.turned.rest
  refine ⟨s.laneTurn who a, ?_, h.turned⟩
  have hread := State.readWord_clean who h.home (s := s.laneTurn who a) (by rw [hg]; exact he)
  have hat : (s.laneTurn who a).mread (grnAddr (bankOf a) (wordOf a)) = s.mread a := by
    rw [hg]
    unfold State.mread
    rw [grnAddr_word h.home]
  unfold State.grnRead
  dsimp only
  rw [if_neg (by simp [h.own]), if_neg (by simp [h.unlocked]), if_neg (by simp [h.wakes]), if_pos h.on, hread, hat]

/-! ### Bytes read (R588) -/

theorem State.Free.secOwns {s : State} {a : Nat} (h : s.Free 4 a) : s.secOwns a = true := by
  unfold State.secOwns
  rw [h.home, h.own]
  rfl

theorem State.secReadWords_free (l : List Nat) (s : State) (h : ∀ w ∈ l, s.Free 4 w ∧ s.eccAt w = .clean) :
    ∃ t, s.secReadWords .clean l = (some (l.flatMap (fun w => leOf 4 (s.mread w).val.toNat)), t) ∧ s.Turned t := by
  induction l generalizing s with
  | nil => exact ⟨s, rfl, .refl s⟩
  | cons w l ih =>
    obtain ⟨hfree, hclean⟩ := h w List.mem_cons_self
    obtain ⟨t, hread, hturned⟩ := hfree.grnRead hclean
    obtain ⟨g, hg⟩ := hturned.rest
    have hsame (v : Nat) : t.mread v = s.mread v := by rw [hg]; rfl
    have hecc (v : Nat) : t.eccAt v = s.eccAt v := by rw [hg]; rfl
    obtain ⟨u, hrest, hu⟩ := ih t (fun v hv => by
      obtain ⟨hf, hc⟩ := h v (List.mem_cons_of_mem _ hv)
      exact ⟨hturned.free hf, (hecc v).trans hc⟩)
    refine ⟨u, ?_, hturned.trans hu⟩
    simp only [hsame] at hrest
    unfold State.secReadWords
    rw [if_pos hfree.secOwns]
    dsimp only
    rw [hread, hrest]
    rfl

/-- The bytes of a range that SEC may read at once. -/
theorem State.offers_secRead {s : State} {a n : Nat} (h : s.offers 4 a n) : ∃ t, s.secRead a n .clean = (some (s.bytesAt a n), t) ∧ s.Turned t := by
  obtain ⟨t, hread, hturned⟩ := s.secReadWords_free (secWords a n) (fun w hw => by
    refine ⟨State.holds_free h.1 hw, ?_⟩
    obtain ⟨j, hj, rfl⟩ := List.mem_map.mp hw
    exact h.2 j ((mem_upto _ _).mp hj))
  refine ⟨t, ?_, hturned⟩
  unfold State.secRead
  rw [hread]
  unfold State.bytesAt secWords
  rw [List.flatMap_map]
  rfl

theorem State.Turned.holds {s t : State} (h : s.Turned t) {who a n : Nat} (hh : s.holds who a n) : t.holds who a n := by
  obtain ⟨⟨g, rfl⟩, hwait, -⟩ := h
  refine ⟨hh.1, fun j hj => ?_⟩
  obtain ⟨hhome, hown, hon, hlock, hidle⟩ := hh.2 j hj
  exact ⟨hhome, hown, hon, hlock, (hwait _).trans hidle⟩

theorem State.Turned.offers {s t : State} (h : s.Turned t) {who a n : Nat} (hh : s.offers who a n) : t.offers who a n := by
  have hholds := h.holds hh.1
  obtain ⟨⟨g, rfl⟩, -, -⟩ := h
  exact ⟨hholds, hh.2⟩

theorem State.Turned.bytesAt {s t : State} (h : s.Turned t) (a n : Nat) : t.bytesAt a n = s.bytesAt a n := by
  obtain ⟨⟨g, rfl⟩, -, -⟩ := h
  rfl

/-! ### Bytes written (R400, R588) -/

/-- Words of memory written, with what the check bits say of them; the lanes have moved on, and free values may have been drawn. -/
structure State.Wrote (s t : State) : Prop where
  rest : ∃ g m p n, t = { s with grn := g, mem := m, pins := p, free := n }
  wait : ∀ b, (t.gbank b).wait = (s.gbank b).wait
  wf : s.canonical → t.canonical

theorem State.Wrote.refl (s : State) : s.Wrote s := ⟨⟨s.grn, s.mem, s.pins, s.free, rfl⟩, fun _ => rfl, id⟩

theorem State.Wrote.trans {s t u : State} (h : s.Wrote t) (h' : t.Wrote u) : s.Wrote u := by
  obtain ⟨⟨g, m, p, n, rfl⟩, hwait, hwf⟩ := h
  obtain ⟨⟨g', m', p', n', rfl⟩, hwait', hwf'⟩ := h'
  exact ⟨⟨g', m', p', n', rfl⟩, fun b => (hwait' b).trans (hwait b), fun h => hwf' (hwf h)⟩

theorem State.Turned.wrote {s t : State} (h : s.Turned t) : s.Wrote t := by
  obtain ⟨⟨g, rfl⟩, hwait, -⟩ := h
  exact ⟨⟨g, s.mem, s.pins, s.free, rfl⟩, hwait, id⟩

theorem State.Wrote.free {s t : State} (h : s.Wrote t) {who a : Nat} (hf : s.Free who a) : t.Free who a := by
  obtain ⟨⟨g, m, p, n, rfl⟩, hwait, -⟩ := h
  exact ⟨hf.home, hf.own, hf.on, hf.unlocked, (hwait _).trans hf.idle⟩

theorem State.Wrote.holds {s t : State} (h : s.Wrote t) {who a n : Nat} (hh : s.holds who a n) : t.holds who a n := by
  refine ⟨hh.1, fun j hj => ?_⟩
  obtain ⟨hhome, hown, hon, hlock, hidle⟩ := hh.2 j hj
  have hfree := h.free (who := who) ⟨hhome, hown, hon, hlock, hidle⟩
  exact ⟨hfree.home, hfree.own, hfree.on, hfree.unlocked, hfree.idle⟩

theorem State.heal_wrote (s : State) (a : Nat) : s.Wrote (s.heal a) := by
  unfold State.heal
  split
  · exact .refl s
  · exact ⟨⟨s.grn, s.mem, _, s.free, rfl⟩, fun _ => rfl, id⟩

theorem State.grnStore_wrote (s : State) (b w : Nat) (v : TWord) : s.Wrote (s.grnStore b w v) := by
  refine (s.heal_wrote (grnAddr b w)).trans ⟨⟨_, _, _, _, rfl⟩, State.wait_setGbank _ _ (fun _ => rfl), fun h => ?_⟩
  exact State.setGbank_stable canonical_lasting.toStable _ _ (canonical_lasting.toStable.mem _ _ _ h)

/-- A word written by a requester that may use it at once. -/
theorem State.Free.grnWrite {s : State} {who a : Nat} (h : s.Free who a) (hs : s.canonical) (v : TWord) :
    s.Wrote (s.grnWrite who a v) ∧ ∀ x, (s.grnWrite who a v).mread x = if x / 4 = a / 4 then v else s.mread x := by
  have hwrite : s.grnWrite who a v = (s.laneTurn who a).grnStore (bankOf a) (wordOf a) v := by
    unfold State.grnWrite
    dsimp only
    rw [if_neg (by simp [h.own]), if_neg (by simp [h.unlocked]), if_neg (by simp [h.wakes]), if_pos h.on]
  have hwrote := h.turned.wrote
  obtain ⟨g, hg⟩ := h.turned.rest
  rw [hwrite]
  refine ⟨hwrote.trans (State.grnStore_wrote _ _ _ _), fun x => ?_⟩
  rw [State.mread_grnStore (hwrote.wf hs), grnAddr_word h.home, hg]
  rfl

/-- Words written one after the other, each in a place of its own. -/
theorem State.secWriteWords_free (l : List (Nat × Word)) (s : State) (hs : s.canonical) (h : ∀ p ∈ l, s.Free 4 p.1)
    (hapart : l.Pairwise (fun p q => p.1 / 4 ≠ q.1 / 4)) : ∃ t, s.secWriteWords l = (true, t) ∧ s.Wrote t ∧
      (∀ p ∈ l, t.mread p.1 = ⟨Tag.raw, p.2⟩) ∧ ∀ x, (∀ p ∈ l, p.1 / 4 ≠ x / 4) → t.mread x = s.mread x := by
  induction l generalizing s with
  | nil => exact ⟨s, rfl, .refl s, fun _ hp => absurd hp List.not_mem_nil, fun _ _ => rfl⟩
  | cons p l ih =>
    obtain ⟨hfirst, hrest⟩ := List.pairwise_cons.mp hapart
    obtain ⟨hwrote, hread⟩ := (h p List.mem_cons_self).grnWrite hs ⟨Tag.raw, p.2⟩
    obtain ⟨t, hwrite, ht, hnew, hold⟩ := ih _ (hwrote.wf hs) (fun q hq => hwrote.free (h q (List.mem_cons_of_mem _ hq))) hrest
    refine ⟨t, ?_, hwrote.trans ht, fun q hq => ?_, fun x hx => ?_⟩
    · unfold State.secWriteWords
      rw [if_pos (h p List.mem_cons_self).secOwns, hwrite]
    · rcases List.mem_cons.mp hq with rfl | hq
      · rw [hold q.1 (fun r hr => (hfirst r hr).symm), hread, if_pos rfl]
      · exact hnew q hq
    · rw [hold x (fun q hq => hx q (List.mem_cons_of_mem _ hq)), hread, if_neg (hx p List.mem_cons_self).symm]

/-- The words that a string is written as. -/
theorem secWrite_words (a : Nat) (b pad : Bytes) : (secWords a b.length).zipIdx.map (fun (p : Nat × Nat) =>
      (p.1, (BitVec.ofNat 32 (leNat ((b.drop (4 * p.2)).take 4 ++ pad.drop ((b.drop (4 * p.2)).take 4).length)) : Word))) =
    (upto ((b.length + 3) / 4)).map (fun j => (a + 4 * j, (BitVec.ofNat 32 (leNat (fourOf b pad j)) : Word))) := by
  unfold secWords
  rw [upto_eq_range]
  refine List.ext_getElem? (fun i => ?_)
  rw [List.getElem?_map, List.getElem?_zipIdx, List.getElem?_map, List.getElem?_map]
  by_cases hi : i < (b.length + 3) / 4
  · rw [List.getElem?_range hi]
    simp [fourOf]
  · rw [List.getElem?_eq_none (by simpa using hi)]
    rfl

theorem secWrite_apart (a k : Nat) (f : Nat → Word) :
    ((upto k).map (fun j => (a + 4 * j, f j))).Pairwise (fun p q => p.1 / 4 ≠ q.1 / 4) := by
  rw [upto_eq_range, List.pairwise_map]
  refine List.nodup_range.imp (fun {i j} hij => ?_)
  show (a + 4 * i) / 4 ≠ (a + 4 * j) / 4
  omega

/-- The bytes of the words that a string is written as. -/
theorem State.bytesAt_fourOf {t : State} {a : Nat} {b pad : Bytes} (hpad : pad.length = 4)
    (h : ∀ j, j < (b.length + 3) / 4 → t.mread (a + 4 * j) = ⟨Tag.raw, BitVec.ofNat 32 (leNat (fourOf b pad j))⟩) :
    t.bytesAt a b.length = b.map (· % 256) := by
  have hwords : (upto ((b.length + 3) / 4)).flatMap (fun j => leOf 4 (t.mread (a + 4 * j)).val.toNat) =
      ((upto ((b.length + 3) / 4)).flatMap (fourOf b pad)).map (· % 256) := by
    rw [List.map_flatMap]
    refine List.flatMap_congr (fun j hj => ?_)
    rw [h j ((mem_upto _ _).mp hj)]
    exact leOf_word (length_fourOf hpad j)
  unfold State.bytesAt
  rw [hwords, ← List.map_take, take_flatMap_fourOf hpad]

/-- A string written where SEC may write at once. -/
theorem State.holds_secWrite {s : State} (hs : s.canonical) {a : Nat} {b : Bytes} (h : s.holds 4 a b.length) :
    ∃ t, s.secWrite a b = (true, t) ∧ s.Wrote t ∧ s.wroteBytes t a b := by
  have hpad : (leOf 4 (Config.freeWord s.free).toNat).length = 4 := length_leOf _ _
  have hdrawn : s.Wrote { s with free := s.free + 1 } := ⟨⟨s.grn, s.mem, s.pins, _, rfl⟩, fun _ => rfl, id⟩
  have hword {p : Nat × Word} {f : Nat → Word} (hp : p ∈ (upto ((b.length + 3) / 4)).map (fun j => (a + 4 * j, f j))) :
      ∃ j, j < (b.length + 3) / 4 ∧ p = (a + 4 * j, f j) := by
    obtain ⟨j, hj, rfl⟩ := List.mem_map.mp hp
    exact ⟨j, (mem_upto _ _).mp hj, rfl⟩
  obtain ⟨t, hwrite, ht, hnew, hold⟩ := State.secWriteWords_free _ { s with free := s.free + 1 } hs (fun p hp => by
    obtain ⟨j, hj, rfl⟩ := hword hp
    exact hdrawn.free (State.holds_free h (List.mem_map_of_mem ((mem_upto _ _).mpr hj))))
    (secWrite_apart a ((b.length + 3) / 4) (fun j => BitVec.ofNat 32 (leNat (fourOf b (leOf 4 (Config.freeWord s.free).toNat) j))))
  have hread (j : Nat) (hj : j < (b.length + 3) / 4) := hnew _ (List.mem_map_of_mem ((mem_upto _ j).mpr hj))
  refine ⟨t, ?_, hdrawn.trans ht, State.bytesAt_fourOf hpad hread, fun j hj => congrArg TWord.tag (hread j hj),
    fun x hx => (hold x (fun p hp => ?_)).trans rfl⟩
  · unfold State.secWrite
    dsimp only
    rw [secWrite_words]
    exact hwrite
  · obtain ⟨j, hj, rfl⟩ := hword hp
    have ha := h.1
    show (a + 4 * j) / 4 ≠ x / 4
    omega

end Sys2Proof.Machine
end

section
/-!
PROOFS. The jobs of the security block: when one runs, and what it leaves of its queue.
-/

/- One proof at a time: the check of the whole text comes near its limit of memory. -/
set_option Elab.async false

namespace Sys2Proof.Machine

section
variable {s t : State} {j op : Nat} {x : CJob} {f : CJob → State → Nat × State}

/-! ### When a job runs (R587) -/

theorem State.runJob_none (h : s.cjob j = none) : s.runJob j op f = .next s := by
  unfold State.runJob
  rw [h]

theorem State.runJob_other (h : s.cjob j = some x) (hnot : x.op ≠ op ∨ x.ran.isSome = true ∨ s.mayStart x = false) : s.runJob j op f = .next s := by
  unfold State.runJob
  rw [h]
  exact congrArg Host.Outcome.next (if_pos hnot)

section
variable (h : s.cjob j = some x) (hop : x.op = op) (hran : x.ran = none) (hstart : s.mayStart x = true)
include h hop hran hstart

theorem State.runJob_starts : s.runJob j op f = .next (if s.domOn domSec = false then s.demand domSec
    else if engineOf op = 4 ∧ s.domOn domXspi = false then s.demandOrLock domXspi
    else if x.fits = false then s.jobRan j 1 else (f x s).2.jobRan j (f x s).1) := by
  unfold State.runJob
  rw [h]
  refine congrArg Host.Outcome.next (if_neg ?_)
  simp [hop, hran, hstart]

theorem State.runJob_asleep (hsec : s.domOn domSec = false) : s.runJob j op f = .next (s.demand domSec) := by
  rw [State.runJob_starts h hop hran hstart, if_pos hsec]

variable (hsec : s.domOn domSec = true)
include hsec

theorem State.runJob_flashAsleep (hop : engineOf op = 4) (hxspi : s.domOn domXspi = false) : s.runJob j op f = .next (s.demandOrLock domXspi) := by
  rw [State.runJob_starts h ‹_› hran hstart, if_neg (by simp [hsec]), if_pos ⟨hop, hxspi⟩]

theorem State.runJob_unfit (hxspi : engineOf op = 4 → s.domOn domXspi = true) (hfits : x.fits = false) :
    s.runJob j op f = .next (s.jobRan j 1) := by
  have hon : ¬(engineOf op = 4 ∧ s.domOn domXspi = false) := fun hc => Bool.false_ne_true (hc.2.symm.trans (hxspi hc.1))
  rw [State.runJob_starts h hop hran hstart, if_neg (by simp [hsec]), if_neg hon, if_pos hfits]

end

theorem State.runJob_ready (h : s.jobReady j op x) : s.runJob j op f = .next ((f x s).2.jobRan j (f x s).1) := by
  obtain ⟨hjob, hop, hran, hstart, hsec, hxspi, hfits⟩ := h
  have hon : ¬(engineOf op = 4 ∧ s.domOn domXspi = false) := fun hc => Bool.false_ne_true (hc.2.symm.trans (hxspi hc.1))
  rw [State.runJob_starts hjob hop hran hstart, if_neg (by simp [hsec]), if_neg hon, if_neg (by simp [hfits])]

/-! ### A job that has run -/

theorem State.jobRan_ranWith (j : Fin 16) (h : t.cjob j = some x) (status : Nat) : (t.jobRan j status).ranWith j status x := by
  unfold State.ranWith State.cjob State.jobRan State.setSec
  exact (nth_updN_same _ _ _ _ j.isLt).trans (congrArg (Option.map _) h)

theorem State.jobRan_keeps (t : State) (j status : Nat) : t.keeps (t.jobRan j status) [.sec] := t.setSec_keeps _

theorem State.Turned.cjob (h : s.Turned t) (j : Nat) : t.cjob j = s.cjob j := by
  obtain ⟨⟨g, rfl⟩, -, -⟩ := h
  rfl

theorem State.Wrote.cjob (h : s.Wrote t) (j : Nat) : t.cjob j = s.cjob j := by
  obtain ⟨⟨g, m, p, n, rfl⟩, -, -⟩ := h
  rfl

end

/-! ### What a job reads and writes -/

section
variable {s : State} {a n : Nat}

theorem State.offers_withBytes (h : s.offers 4 a n) (f : Bytes → State → Nat × State) :
    ∃ t, s.withBytes a n .clean f = f (s.bytesAt a n) t ∧ s.Turned t := by
  obtain ⟨t, hread, hturned⟩ := State.offers_secRead h
  refine ⟨t, ?_, hturned⟩
  unfold State.withBytes
  rw [hread]

theorem State.holds_putBytes (hs : s.canonical) {b : Bytes} (h : s.holds 4 a b.length) :
    ∃ t, s.putBytes a b = (0, t) ∧ s.Wrote t ∧ s.wroteBytes t a b := by
  obtain ⟨t, hwrite, hwrote, hbytes⟩ := State.holds_secWrite hs h
  refine ⟨t, ?_, hwrote, hbytes⟩
  unfold State.putBytes
  rw [hwrite]
  rfl

end

end Sys2Proof.Machine
end

section
/-!
PROOFS. Key, flash and image jobs, job completion and the TRNG tests (O57).
-/

/- One proof at a time: the check of the whole text comes near its limit of memory. -/
set_option Elab.async false

namespace Sys2Proof.Machine

section
variable {s t : State} {j : Fin 16} {op st : Nat} {x : CJob} {f : CJob → State → Nat × State}

/-! ### How a job ends -/

theorem State.jobReady.cjob (h : s.jobReady j op x) : s.cjob j = some x := h.1

theorem State.jobReady.runs (h : s.jobReady j op x) (hf : f x s = (st, t)) : s.runJob j op f = .next (t.jobRan j st) := by
  rw [State.runJob_ready h, hf]

theorem State.jobReady.ends (h : s.jobReady j op x) (hf : f x s = (st, s)) :
    ∃ t, s.runJob j op f = .next t ∧ t.ranWith j st x ∧ s.keeps t [.sec] :=
  ⟨_, h.runs hf, State.jobRan_ranWith j h.cjob st, s.jobRan_keeps j st⟩

theorem State.jobReady.judges (h : s.jobReady j op x) (hf : f x s = (st, t)) (ht : s.Turned t) :
    ∃ u, s.runJob j op f = .next u ∧ u.ranWith j st x ∧ s.keeps u (.sec :: bankParts) :=
  ⟨_, h.runs hf, State.jobRan_ranWith j ((ht.cjob j).trans h.cjob) st,
    State.keeps_trans ht.keeps (t.jobRan_keeps j st) (List.subset_cons_self _ _) (by simp)⟩

theorem State.jobReady.puts (h : s.jobReady j op x) {a : Nat} {b : Bytes} (hf : f x s = (0, t)) (ht : s.Wrote t) (hb : s.wroteBytes t a b) :
    ∃ u, s.runJob j op f = .next u ∧ u.ranWith j 0 x ∧ s.wroteBytes u a b :=
  ⟨_, h.runs hf, State.jobRan_ranWith j ((ht.cjob j).trans h.cjob) 0, hb⟩

/-! ### Key slots (R584, R585) -/

/-- The parts that a key slot's attributes and its key stand in. -/
def attrParts (k : Nat) : List Part := [.sec, .reg (F.secKattrGen k).addr]

theorem State.setKey_keeps {s t : State} {k : Nat} (h : s.keeps t (attrParts k)) (key : Bytes) :
    s.keeps (t.setSec (fun x => { x with keys := updN x.keys k (fun _ => key) })) (attrParts k) :=
  State.keeps_trans h (t.setSec_keeps _) (List.Subset.refl _) (by simp [attrParts])

/-- The attributes of a slot set one after the other. -/
def State.attrSet (s : State) (k loaded type use : Nat) : State :=
  (((s.nextGen k).setFld (F.secKattrLoaded k) loaded).setFld (F.secKattrType k) type).setFld (F.secKattrUse k) use

theorem State.attrSet_keeps (s : State) (k loaded type use : Nat) : s.keeps (s.attrSet k loaded type use) (attrParts k) := by
  have hgen : s.keeps (s.nextGen k) (attrParts k) := State.keeps_mono (s.setFld_keeps _ _) (by simp [attrParts])
  exact State.keeps_setFld (State.keeps_setFld (State.keeps_setFld hgen _ _ (by simp [attrParts, F.secKattrGen, F.secKattrLoaded]))
    _ _ (by simp [attrParts, F.secKattrGen, F.secKattrType])) _ _ (by simp [attrParts, F.secKattrGen, F.secKattrUse])

theorem State.attrSet_spec (hs : s.canonical) {k loaded type use : Nat} (hl : loaded < 2) (htype : type < 4) (huse : use < 16) :
    (s.attrSet k loaded type use).fld (F.secKattrLoaded k) = loaded ∧ (s.attrSet k loaded type use).fld (F.secKattrType k) = type ∧
      (s.attrSet k loaded type use).fld (F.secKattrUse k) = use ∧
      (s.attrSet k loaded type use).fld (F.secKattrGen k) = (s.fld (F.secKattrGen k) + 1) % 2 ^ 16 := by
  have h1 : (s.nextGen k).canonical := State.canonical_setFld hs _ _
  have h2 := State.canonical_setFld h1 (F.secKattrLoaded k) loaded
  have h3 := State.canonical_setFld h2 (F.secKattrType k) type
  unfold State.attrSet
  refine ⟨?_, ?_, ?_, ?_⟩
  · rw [State.fld_put_beside h3 _ (F.secKattrLoaded k), State.fld_put_beside h2 _ (F.secKattrLoaded k), State.fld_put h1 (F.secKattrLoaded k)]
    exact Nat.mod_eq_of_lt hl
  · rw [State.fld_put_beside h3 _ (F.secKattrType k), State.fld_put h2 (F.secKattrType k)]
    exact Nat.mod_eq_of_lt htype
  · rw [State.fld_put h3 (F.secKattrUse k)]
    exact Nat.mod_eq_of_lt huse
  · rw [State.fld_put_beside h3 _ (F.secKattrGen k), State.fld_put_beside h2 _ (F.secKattrGen k), State.fld_put_beside h1 _ (F.secKattrGen k)]
    exact State.fld_put hs _ _

theorem State.slotKey_setKey (s : State) {k : Nat} (hk : k < 32) (key : Bytes) :
    (s.setSec (fun x => { x with keys := updN x.keys k (fun _ => key) })).slotKey k = key := nth_updN_same _ _ _ _ hk

theorem State.loadKey_keeps (s : State) (k type use : Nat) (key : Bytes) : s.keeps (s.loadKey k type use key) (attrParts k) :=
  State.setKey_keeps (s.attrSet_keeps k 1 type use) key

theorem State.loadKey_keyLoaded (hs : s.canonical) {k type use : Nat} (hk : k < 32) (htype : type < 4) (huse : use < 16) (key : Bytes) :
    s.keyLoaded (s.loadKey k type use key) k type use key := by
  obtain ⟨hl, ht, hu, hg⟩ := s.attrSet_spec hs (k := k) (loaded := 1) (by decide) htype huse
  exact ⟨State.slotKey_setKey _ hk key, ht, hu, (State.bit_iff_fld _ rfl).trans (decide_eq_true hl), hg⟩

theorem State.eraseKey_keeps (s : State) (k : Nat) : s.keeps (s.eraseKey k) (attrParts k) :=
  State.setKey_keeps (s.attrSet_keeps k 0 0 0) []

theorem State.eraseKey_spec (hs : s.canonical) {k : Nat} (hk : k < 32) : (s.eraseKey k).slotKey k = [] ∧
    (s.eraseKey k).bit (F.secKattrLoaded k) = false ∧ (s.eraseKey k).fld (F.secKattrGen k) = (s.fld (F.secKattrGen k) + 1) % 2 ^ 16 := by
  obtain ⟨hl, -, -, hg⟩ := s.attrSet_spec hs (k := k) (loaded := 0) (type := 0) (use := 0) (by decide) (by decide) (by decide)
  exact ⟨State.slotKey_setKey _ hk [], (State.bit_iff_fld _ rfl).trans 
    (decide_eq_false (fun hc => absurd ((show (s.eraseKey k).fld (F.secKattrLoaded k) = 0 from hl).symm.trans hc) (by decide))), hg⟩

/-! ### The flash (R594 to R596, R603) -/

/-- Bytes programmed one after the other into a map whose default is 0xFF. -/
theorem cleared_spec (b : Bytes) (o n : Nat) (m : List (Nat × Nat)) (hm : AMap.wf (fun _ => 0xFF) m = true) (a : Nat) :
    AMap.get (fun _ => 0xFF) ((b.zipIdx n).foldl (fun m p =>
        AMap.put (fun _ => 0xFF) m (o + p.2) (AMap.get (fun _ => 0xFF) m (o + p.2) &&& p.1 % 256)) m) a =
      if o + n ≤ a ∧ a < o + n + b.length then AMap.get (fun _ => 0xFF) m a &&& b.getD (a - (o + n)) 0 % 256
      else AMap.get (fun _ => 0xFF) m a := by
  induction b generalizing n m with
  | nil => exact (if_neg (by simp)).symm
  | cons c b ih =>
    have hwf := AMap.put_wf m (o + n) (AMap.get (fun _ => 0xFF) m (o + n) &&& c % 256) hm
    rw [List.zipIdx_cons, List.foldl_cons, ih (n + 1) _ hwf, List.length_cons]
    rcases Nat.lt_trichotomy a (o + n) with h | h | h
    · rw [if_neg (by omega), if_neg (by omega), AMap.get_put_other _ _ _ _ (by omega)]
    · subst h
      rw [if_neg (by omega), if_pos (by omega), AMap.get_put_same _ _ _ hm, Nat.sub_self, List.getD_cons_zero]
    · have hget : b.getD (a - (o + (n + 1))) 0 = (c :: b).getD (a - (o + n)) 0 := by
        rw [show a - (o + n) = a - (o + (n + 1)) + 1 by omega, List.getD_cons_succ]
      rw [AMap.get_put_other _ _ _ _ (by omega), hget]
      exact if_congr (by omega) rfl rfl

theorem State.flashByte_flashProgram (hwf : AMap.wf (fun _ => 0xFF) s.sec.flash = true) (o : Nat) (b : Bytes) (a : Nat) :
    (s.flashProgram o b).flashByte a =
      if o ≤ a ∧ a < o + b.length then s.flashByte a &&& b.getD (a - o) 0 % 256 else s.flashByte a := cleared_spec b o 0 _ hwf a

theorem State.flashByte_flashErase (s : State) (o a : Nat) :
    (s.flashErase o).flashByte a = if a / 65536 = o / 65536 then 0xFF else s.flashByte a := by
  have hflash : (s.flashErase o).flashByte a = AMap.get (fun _ => 0xFF) (s.sec.flash.filter (fun p =>
      decide (p.1 < o / 65536 * 65536) || decide (o / 65536 * 65536 + 65536 ≤ p.1))) a := by
    unfold State.flashErase
    dsimp only
    split <;> rfl
  rw [hflash]
  split
  · exact AMap.get_filter_dropped _ (fun _ => by simp; omega)
  · exact AMap.get_filter _ _ _ (fun _ => by simp; omega)

theorem State.flashErase_keeps (s : State) (o : Nat) : s.keeps (s.flashErase o) [.sec, .reg (F.secXercCount (o / 0x1000000)).addr] := by
  have hslot : o / 65536 * 65536 / 0x1000000 = o / 0x1000000 := by omega
  unfold State.flashErase
  dsimp only
  rw [hslot]
  split
  · exact State.keeps_setFld (State.keeps_mono (s.setSec_keeps _) (by simp)) _ _ (by simp)
  · exact State.keeps_mono (s.setSec_keeps _) (by simp)

theorem State.flashErase_counts (hs : s.canonical) {o : Nat} (ho : o < 0x2000000) : (s.flashErase o).fld (F.secXercCount (o / 0x1000000)) =
    min (2 ^ (F.secXercCount (o / 0x1000000)).width - 1) (s.fld (F.secXercCount (o / 0x1000000)) + 1) := by
  have hslot : o / 65536 * 65536 / 0x1000000 = o / 0x1000000 := by omega
  unfold State.flashErase
  dsimp only
  rw [if_pos (show o / 65536 * 65536 < 0x2000000 by omega), hslot]
  refine (State.fld_put (s := s.setSec _) hs (F.secXercCount (o / 0x1000000)) _).trans (Nat.mod_eq_of_lt ?_)
  exact Nat.lt_of_le_of_lt (Nat.min_le_left _ _) (Nat.sub_one_lt (Nat.two_pow_pos _).ne')

theorem State.bytesAt_length (s : State) (a n : Nat) : (s.bytesAt a n).length = n := by
  unfold State.bytesAt
  rw [List.length_take, List.length_flatMap, List.map_congr_left (g := fun _ => 4) (fun _ _ => length_leOf _ _), List.map_const',
    List.sum_replicate, upto_eq_range, List.length_range, smul_eq_mul]
  omega

theorem State.bytesAt_lt {s : State} {a n b : Nat} (h : b ∈ s.bytesAt a n) : b < 256 := by
  obtain ⟨_, _, hb⟩ := List.mem_flatMap.mp (List.mem_of_mem_take h)
  exact leOf_lt hb

theorem State.getD_bytesAt_mod (s : State) (a n i : Nat) : (s.bytesAt a n).getD i 0 % 256 = (s.bytesAt a n).getD i 0 := by
  refine Nat.mod_eq_of_lt ?_
  rw [List.getD_eq_getElem?_getD]
  cases h : (s.bytesAt a n)[i]? with
  | none => decide
  | some b => exact State.bytesAt_lt (List.mem_of_getElem? h)

end

/-! ### Key jobs -/

section
variable {s : State} {j : Fin 16} {x : CJob}

theorem State.Turned.keyLoaded {s t u : State} (h : s.Turned t) {k type use : Nat} {key : Bytes} (hk : t.keyLoaded u k type use key) :
    s.keyLoaded u k type use key := by
  obtain ⟨⟨g, rfl⟩, -, -⟩ := h
  exact hk

theorem State.Turned.canonical {s t : State} (h : s.Turned t) (hs : s.canonical) : t.canonical := by
  obtain ⟨⟨g, rfl⟩, -, -⟩ := h
  exact hs

/-- A job that loads a key which it has read. -/
theorem State.loadsKey {t : State} (hs : s.canonical) (hjob : s.cjob j = some x) (ht : s.Turned t) {k type use : Nat} (hk : k < 32)
    (htype : type < 4) (huse : use < 16) (key : Bytes) :
    ((t.loadKey k type use key).jobRan j 0).ranWith j 0 x ∧ s.keeps ((t.loadKey k type use key).jobRan j 0) (attrParts k ++ bankParts) ∧
      s.keyLoaded ((t.loadKey k type use key).jobRan j 0) k type use key := by
  have hkeeps : s.keeps (t.loadKey k type use key) (attrParts k ++ bankParts) :=
    State.keeps_trans ht.keeps (t.loadKey_keeps k type use key) (List.subset_append_right _ _) (List.subset_append_left _ _)
  exact ⟨State.jobRan_ranWith j ((ht.cjob j).trans hjob) 0,
    State.keeps_trans hkeeps (State.jobRan_keeps _ _ _) (List.Subset.refl _) (by simp [attrParts]),
    ht.keyLoaded (t.loadKey_keyLoaded (ht.canonical hs) hk htype huse key)⟩

theorem execKload_ready (hs : s.canonical) (h : s.jobReady j 0x10 x) (hk : x.slot < 32)
    (hb : s.offers 4 x.src (if x.arg % 4 = 1 then 16 else 32)) :
    ∃ t, execKload j .clean s = .next t ∧ t.ranWith j 0 x ∧ s.keeps t (attrParts x.slot ++ bankParts) ∧
      s.keyLoaded t x.slot (x.arg % 4) (x.arg / 4 % 16) (s.bytesAt x.src (if x.arg % 4 = 1 then 16 else 32)) := by
  obtain ⟨t, hread, ht⟩ := State.offers_withBytes hb (fun b t => (0, t.loadKey x.slot (x.arg % 4) (x.arg / 4 % 16) b))
  exact ⟨_, h.runs hread, State.loadsKey hs h.cjob ht hk (Nat.mod_lt _ (by decide)) (Nat.mod_lt _ (by decide)) _⟩

theorem execKerase_ready (hs : s.canonical) (h : s.jobReady j 0x11 x) (hk : x.slot < 32) : ∃ t, execKerase j s = .next t ∧ t.ranWith j 0 x ∧
    t.slotKey x.slot = [] ∧ t.bit (F.secKattrLoaded x.slot) = false ∧
    t.fld (F.secKattrGen x.slot) = (s.fld (F.secKattrGen x.slot) + 1) % 2 ^ 16 ∧ s.keeps t (attrParts x.slot) := by
  obtain ⟨hkey, hloaded, hgen⟩ := State.eraseKey_spec hs hk
  exact ⟨_, h.runs rfl, State.jobRan_ranWith j h.cjob 0, hkey, hloaded, hgen,
    State.keeps_trans (s.eraseKey_keeps _) (State.jobRan_keeps _ _ _) (List.Subset.refl _) (by simp [attrParts])⟩

theorem execKwrap_ready (hs : s.canonical) (h : s.jobReady j 0x12 x) (hkey : s.bit (F.secKattrLoaded x.slot) = true)
    (hkek : s.bit (F.secKattrLoaded 31) = true) (htrng : s.sec.trngf = false) :
    let iv := (s.drawBytes 12).1
    let ct := gcmText (s.slotKey 31) iv (sub (s.slotKey x.slot) 0 32)
    let blob := iv ++ ct ++ gcmTag (s.slotKey 31) iv [s.keyAttr x.slot] ct
    s.holds 4 x.dst blob.length → ∃ t, execKwrap j s = .next t ∧ t.ranWith j 0 x ∧ s.wroteBytes t x.dst blob := by
  intro iv ct blob hholds
  have hdrawn : s.Wrote { s with free := s.free + 12 } := ⟨⟨s.grn, s.mem, s.pins, _, rfl⟩, fun _ => rfl, id⟩
  obtain ⟨t, hput, ht, hbytes⟩ := State.holds_putBytes (hdrawn.wf hs) (hdrawn.holds hholds)
  refine h.puts (t := t) ?_ (hdrawn.trans ht) hbytes
  dsimp only
  rw [hkey, hkek, htrng]
  exact hput

theorem execKwrap_empty (h : s.jobReady j 0x12 x) (hno : s.bit (F.secKattrLoaded x.slot) = false ∨ s.bit (F.secKattrLoaded 31) = false) :
    ∃ t, execKwrap j s = .next t ∧ t.ranWith j 2 x ∧ s.keeps t [.sec] :=
  h.ends (if_pos (by rcases hno with hno | hno <;> simp [hno]))

theorem execKwrap_noEntropy (h : s.jobReady j 0x12 x) (hkey : s.bit (F.secKattrLoaded x.slot) = true)
    (hkek : s.bit (F.secKattrLoaded 31) = true) (htrng : s.sec.trngf = true) :
    ∃ t, execKwrap j s = .next t ∧ t.ranWith j 10 x ∧ s.keeps t [.sec] :=
  h.ends ((if_neg (by simp [hkey, hkek])).trans (if_pos htrng))

theorem execKunwrap_empty (h : s.jobReady j 0x13 x) (hkek : s.bit (F.secKattrLoaded 31) = false) :
    ∃ t, execKunwrap j .clean s = .next t ∧ t.ranWith j 2 x ∧ s.keeps t [.sec] := h.ends (if_pos (by simp [hkek]))

/-- The type and use byte `a` gives the tag of a blob. -/
def State.blobGood (s : State) (b : Bytes) (a : Nat) : Bool :=
  gcmTag (s.slotKey 31) (b.take 12) [a] (sub b 12 32) == b.drop 44

/-- What the search for the attributes of a blob finds. -/
def State.blobAttr (s : State) (b : Bytes) : Option Nat :=
  ((upto 64).filter (fun a => a % 4 == 1 || a % 4 == 2)).find? (s.blobGood b)

section
variable (h : s.jobReady j 0x13 x) (hkek : s.bit (F.secKattrLoaded 31) = true) (hb : s.offers 4 x.src 60)
include h hkek hb

theorem execKunwrap_found {a : Nat} (ha : s.blobAttr (s.bytesAt x.src 60) = some a) :
    ∃ t, s.Turned t ∧ execKunwrap j .clean s = .next ((t.loadKey x.slot (a % 4) (a / 4)
      (sub (gcmText (s.slotKey 31) ((s.bytesAt x.src 60).take 12) (sub (s.bytesAt x.src 60) 12 32)) 0 
        (if a % 4 = 1 then 16 else 32))).jobRan j 0) := by
  obtain ⟨t, hread, ht⟩ := State.offers_withBytes hb _
  refine ⟨t, ht, h.runs ((if_neg (by simp [hkek])).trans (hread.trans ?_))⟩
  obtain ⟨g, rfl⟩ := ht.rest
  unfold State.blobAttr State.blobGood at ha
  dsimp only
  rw [show State.slotKey { s with grn := g } 31 = s.slotKey 31 from rfl, ha]

theorem execKunwrap_wrong (ha : s.blobAttr (s.bytesAt x.src 60) = none) :
    ∃ t, execKunwrap j .clean s = .next t ∧ t.ranWith j 5 x ∧ s.keeps t (.sec :: bankParts) := by
  obtain ⟨t, hread, ht⟩ := State.offers_withBytes hb _
  refine h.judges ((if_neg (by simp [hkek])).trans (hread.trans ?_)) ht
  obtain ⟨g, rfl⟩ := ht.rest
  unfold State.blobAttr State.blobGood at ha
  dsimp only
  rw [show State.slotKey { s with grn := g } 31 = s.slotKey 31 from rfl, ha]

end

end

/-- Bytes whose tag fails for every type and use. -/
theorem State.blobAttr_none {s : State} {b : Bytes} (h : ∀ a, a < 64 → s.blobGood b a = false) : s.blobAttr b = none := by
  refine List.find?_eq_none.mpr (fun a ha => ?_)
  rw [h a ((mem_upto _ _).mp (List.mem_filter.mp ha).1)]
  exact Bool.false_ne_true

/-- The only type and use for which the tag of a blob is right. -/
theorem State.blobAttr_some {s : State} {b : Bytes} {a : Nat} (ha : a < 64) (htype : a % 4 = 1 ∨ a % 4 = 2) (hgood : s.blobGood b a = true)
    (honly : ∀ k, k < 64 → s.blobGood b k = true → k = a) : s.blobAttr b = some a := by
  have hmem : a ∈ (upto 64).filter (fun a => a % 4 == 1 || a % 4 == 2) := List.mem_filter.mpr ⟨(mem_upto _ _).mpr ha, by simpa using htype⟩
  obtain ⟨k, hk⟩ : ∃ k, s.blobAttr b = some k := Option.isSome_iff_exists.mp (List.find?_isSome.mpr ⟨a, hmem, hgood⟩)
  have hin := List.mem_of_find?_eq_some hk
  rw [hk, honly k ((mem_upto _ _).mp (List.mem_filter.mp hin).1) (List.find?_some hk)]

/-! ### Flash jobs (R594 to R596, R599, R603) -/

section
variable {s : State} {j : Fin 16} {x : CJob}

theorem State.flashByte_jobRan (s : State) (j st o : Nat) : (s.jobRan j st).flashByte o = s.flashByte o := rfl

theorem State.cjob_flashProgram (s : State) (o : Nat) (b : Bytes) (j : Nat) : (s.flashProgram o b).cjob j = s.cjob j := rfl

theorem execXread_ready (hs : s.canonical) (h : s.jobReady j 0x20 x) (hb : s.holds 4 x.dst x.len) :
    ∃ t, execXread j s = .next t ∧ t.ranWith j 0 x ∧ s.wroteBytes t x.dst (s.flashBytes x.arg x.len) := by
  have hlen : (s.flashBytes x.arg x.len).length = x.len := by
    unfold State.flashBytes
    rw [List.length_map, upto_eq_range, List.length_range]
  obtain ⟨t, hput, ht, hbytes⟩ := State.holds_putBytes hs (hlen.symm ▸ hb)
  exact h.puts hput ht hbytes

theorem execXprog_ready (h : s.jobReady j 0x21 x) (hlen : x.len = 256) (hb : s.offers 4 x.src 256)
    (hwf : AMap.wf (fun _ => 0xFF) s.sec.flash = true) : ∃ t, execXprog j .clean s = .next t ∧ t.ranWith j 0 x ∧
      s.keeps t (.sec :: bankParts) ∧
      (∀ i, i < 256 → t.flashByte (x.arg + i) = s.flashByte (x.arg + i) &&& (s.bytesAt x.src 256).getD i 0) ∧
      (∀ o, o < x.arg ∨ x.arg + 256 ≤ o → t.flashByte o = s.flashByte o) := by
  obtain ⟨t, hread, ht⟩ := State.offers_withBytes hb (fun b t => (0, t.flashProgram x.arg b))
  have hkeeps : s.keeps (t.flashProgram x.arg (s.bytesAt x.src 256)) (.sec :: bankParts) :=
    State.keeps_trans ht.keeps (t.setSec_keeps _) (List.subset_cons_self _ _) (by simp)
  have hbyte (o : Nat) : (t.flashProgram x.arg (s.bytesAt x.src 256)).flashByte o = if x.arg ≤ o ∧ o < x.arg + 256
      then s.flashByte o &&& (s.bytesAt x.src 256).getD (o - x.arg) 0 else s.flashByte o := by
    obtain ⟨g, rfl⟩ := ht.rest
    have hprog := State.flashByte_flashProgram (s := { s with grn := g }) hwf x.arg (s.bytesAt x.src 256) o
    rw [State.bytesAt_length, State.getD_bytesAt_mod] at hprog
    exact hprog
  have hrun : (if x.len ≠ 256 then (14, s) else s.withBytes x.src 256 .clean (fun b t => (0, t.flashProgram x.arg b))) =
      (0, t.flashProgram x.arg (s.bytesAt x.src 256)) := by
    rw [if_neg (not_not_intro hlen), hread]
  have hjob : (t.flashProgram x.arg (s.bytesAt x.src 256)).cjob j = some x :=
    (State.cjob_flashProgram t x.arg _ j).trans ((ht.cjob j).trans h.cjob)
  refine ⟨_, h.runs hrun, State.jobRan_ranWith j hjob 0,
    State.keeps_trans hkeeps (State.jobRan_keeps _ _ _) (List.Subset.refl _) (by simp), fun i hi => ?_, fun o ho => ?_⟩
  · rw [State.flashByte_jobRan, hbyte, if_pos ⟨Nat.le_add_right _ _, Nat.add_lt_add_left hi _⟩, Nat.add_sub_cancel_left]
  · rw [State.flashByte_jobRan, hbyte, if_neg (by omega)]

theorem execXprog_short (h : s.jobReady j 0x21 x) (hlen : x.len ≠ 256) :
    ∃ t, execXprog j .clean s = .next t ∧ t.ranWith j 14 x ∧ s.keeps t [.sec] := h.ends (if_pos hlen)

theorem execXerase_ready (hs : s.canonical) (h : s.jobReady j 0x22 x) : ∃ t, execXerase j s = .next t ∧ t.ranWith j 0 x ∧
    (∀ o, t.flashByte o = if o / 65536 = x.arg / 65536 then 0xFF else s.flashByte o) ∧
    (x.arg < 0x2000000 → t.fld (F.secXercCount (x.arg / 0x1000000)) = min (2 ^ (F.secXercCount (x.arg / 0x1000000)).width - 1)
      (s.fld (F.secXercCount (x.arg / 0x1000000)) + 1)) ∧ s.keeps t [.sec, .reg (F.secXercCount (x.arg / 0x1000000)).addr] := by
  have hjob : (s.flashErase x.arg).cjob j = s.cjob j := by
    unfold State.flashErase
    dsimp only
    split <;> rfl
  exact ⟨_, h.runs rfl, State.jobRan_ranWith j (hjob.trans h.cjob) 0, State.flashByte_flashErase s x.arg, State.flashErase_counts hs,
    State.keeps_trans (s.flashErase_keeps x.arg) (State.jobRan_keeps _ _ _) (List.Subset.refl _) (by simp)⟩

theorem execIverify_sound (h : s.jobReady j 0x30 x) (hgood : s.imageCheck x.arg = 0) :
    ∃ t, execIverify j s = .next t ∧ t.ranWith j 0 x ∧ s.keeps t [.sec] := by
  refine h.ends ?_
  unfold State.imageRefused
  rw [hgood, if_pos rfl]

theorem execIverify_refused (h : s.jobReady j 0x30 x) (hbad : s.imageCheck x.arg ≠ 0) :
    execIverify j s = .next ((s.raiseSource 169).jobRan j (s.imageCheck x.arg)) := by
  refine h.runs ?_
  unfold State.imageRefused
  rw [if_neg hbad]

/-- Four bytes of which the second clears one bit. -/
theorem State.flashByte_confirmed (hwf : AMap.wf (fun _ => 0xFF) s.sec.flash = true) (o : Nat) :
    (s.flashProgram o [0xFF, 0xFE, 0xFF, 0xFF]).flashByte (o + 1) = s.flashByte (o + 1) &&& 0xFE ∧
      ∀ a, a < o ∨ o + 4 ≤ a → (s.flashProgram o [0xFF, 0xFE, 0xFF, 0xFF]).flashByte a = s.flashByte a := by
  have hbyte := State.flashByte_flashProgram hwf o [0xFF, 0xFE, 0xFF, 0xFF]
  refine ⟨(hbyte _).trans ?_, fun a ha => (hbyte a).trans (if_neg (fun hc => ?_))⟩
  · rw [if_pos ⟨Nat.le_add_right _ _, Nat.add_lt_add_left (by decide) _⟩, Nat.add_sub_cancel_left]
    rfl
  · have hlen : a < o + 4 := hc.2
    omega

theorem execConfirm_ready (h : s.jobReady j 0x32 x) (hwf : AMap.wf (fun _ => 0xFF) s.sec.flash = true) :
    ∃ t, execConfirm j s = .next t ∧ t.ranWith j 0 x ∧
      t.flashByte (slotBase x.arg + 0xFF0001) = s.flashByte (slotBase x.arg + 0xFF0001) &&& 0xFE ∧
      (∀ o, o < slotBase x.arg + 0xFF0000 ∨ slotBase x.arg + 0xFF0004 ≤ o → t.flashByte o = s.flashByte o) ∧ s.keeps t [.sec] := by
  obtain ⟨hconf, hrest⟩ := State.flashByte_confirmed hwf (slotBase x.arg + 0xFF0000)
  rw [Nat.add_assoc] at hconf
  exact ⟨_, h.runs rfl, State.jobRan_ranWith j h.cjob 0, hconf, fun o ho => hrest o (ho.imp id (fun hle => by rw [Nat.add_assoc]; exact hle)),
    State.keeps_trans (s.setSec_keeps _) (State.jobRan_keeps _ _ _)⟩

end

/-! ### Segments loaded (R437, R598) -/

section
variable {s t : State}

theorem Reacted.domLocked (h : Reacted s t) (d : Nat) : t.domLocked d = s.domLocked d := by
  have hreg : t.reg F.pwrLockLk.addr = s.reg F.pwrLockLk.addr := by
    refine h.onlyRegs _ ?_ ?_ ?_ ?_ ?_ ?_
    all_goals
      intros
      simp only [F.pwrLockLk, F.winStickyStk, F.frmEvmrgMerged, F.pwrDctlReq, F.grnBpwrState, F.pwrStatLockacc, F.accEvcCause]
      omega
  unfold State.domLocked State.fld
  rw [hreg]

theorem State.lockAccess_reacted (s : State) : Reacted s s.lockAccess := (Reacted.refl s).lockAccess

/-- Two states whose memory and whose locks on the domains are the same. -/
structure LoadsSame (s t : State) : Prop where
  mem : t.mem = s.mem
  locked : ∀ d, t.domLocked d = s.domLocked d

theorem State.mem_heal (s : State) (a : Nat) : (s.heal a).mem = s.mem := by
  unfold State.heal
  split <;> rfl

theorem State.domLocked_heal (s : State) (a d : Nat) : (s.heal a).domLocked d = s.domLocked d := by
  unfold State.heal
  split <;> rfl

theorem State.sec_heal (s : State) (a : Nat) : (s.heal a).sec = s.sec := by
  unfold State.heal
  split <;> rfl

theorem LoadsSame.lockAccess (h : LoadsSame s t) : LoadsSame s.lockAccess t.lockAccess :=
  ⟨t.lockAccess_reacted.mem.trans (h.mem.trans s.lockAccess_reacted.mem.symm),
    fun d => (t.lockAccess_reacted.domLocked d).trans ((h.locked d).trans (s.lockAccess_reacted.domLocked d).symm)⟩

theorem LoadsSame.healWrite (h : LoadsSame s t) (a : Nat) (w : TWord) : LoadsSame ((s.heal a).mwrite a w) ((t.heal a).mwrite a w) := by
  refine ⟨?_, fun d => (t.domLocked_heal a d).trans ((h.locked d).trans (s.domLocked_heal a d).symm)⟩
  unfold State.mwrite
  rw [s.mem_heal, t.mem_heal, h.mem]

theorem LoadsSame.loadSegWord (h : LoadsSame s t) (kind a : Nat) (w : TWord) : LoadsSame (s.loadSegWord kind a w) (t.loadSegWord kind a w) := by
  unfold State.loadSegWord
  cases kindDomain kind with
  | none => exact h.healWrite a w
  | some d =>
    simp only [h.locked]
    split
    · exact h.lockAccess
    · exact h.healWrite a w

theorem LoadsSame.foldl {α : Type} {f : State → α → State} (hf : ∀ {s t : State}, LoadsSame s t → ∀ x, LoadsSame (f s x) (f t x))
    (l : List α) (h : LoadsSame s t) : LoadsSame (l.foldl f s) (l.foldl f t) := by
  induction l generalizing s t with
  | nil => exact h
  | cons x l ih => exact ih (hf h x)

theorem LoadsSame.loadSegments (h : LoadsSame s t) (segs : List Segment) (p : Bytes) (good : Bool) :
    LoadsSame (s.loadSegments segs p good) (t.loadSegments segs p good) := by
  unfold State.loadSegments
  refine LoadsSame.foldl (fun hst g => ?_) segs h
  refine LoadsSame.foldl (f := fun u (q : Nat × TWord) => u.loadSegWord g.kind q.1 (if good then q.2 else TWord.nil0)) (fun hst' q => ?_) _ hst
  exact hst'.loadSegWord _ _ _

theorem State.sec_loadSegWord (s : State) (kind a : Nat) (w : TWord) : (s.loadSegWord kind a w).sec = s.sec := by
  have hwrite : ((s.heal a).mwrite a w).sec = s.sec := s.sec_heal a
  unfold State.loadSegWord
  cases kindDomain kind with
  | none => exact hwrite
  | some d =>
    dsimp only
    split
    · exact s.lockAccess_reacted.services.2.2.1
    · exact hwrite

theorem State.sec_foldl {α : Type} {f : State → α → State} (hf : ∀ (s : State) x, (f s x).sec = s.sec) (l : List α) (s : State) :
    (l.foldl f s).sec = s.sec := by
  induction l generalizing s with
  | nil => rfl
  | cons x l ih => exact (ih _).trans (hf s x)

theorem State.sec_loadSegments (s : State) (segs : List Segment) (p : Bytes) (good : Bool) : (s.loadSegments segs p good).sec = s.sec := by
  unfold State.loadSegments
  refine State.sec_foldl (fun s g => ?_) segs s
  exact State.sec_foldl (f := fun u (q : Nat × TWord) => u.loadSegWord g.kind q.1 (if good then q.2 else TWord.nil0))
    (fun s q => s.sec_loadSegWord _ _ _) _ s

end

/-! ### HLOAD (R608) -/

section
variable {s : State} {c : Fin 2} {i mask : Nat}

theorem State.hold_holdCore (s : State) (c : Fin 2) : (s.holdCore c).sec.hold[c] = some (s.sec.hold[c].getD {}) := by
  show (Machine.upd s.sec.hold c _)[c] = _
  simp [Machine.upd]

theorem State.hload_refused (h : s.coreHasWork c = true ∨ imgHitless (s.slotHeader i) = false) : s.hload c i mask = (12, s) := by
  unfold State.hload
  exact if_pos (by rcases h with h | h <;> simp [h])

/-- Where no segment goes to the Granary, none goes to a bank that SEC may not use. -/
theorem hload_noneAway {segs : List Segment} (hno4 : ∀ g ∈ segs, g.kind ≠ 4) : ¬(segs.any (fun g => g.kind == 4 &&
    (upto (g.len / 5)).any (fun k => !s.mayUse 4 (bankOf (g.dst + 4 * k)))) = true) := by
  rw [List.any_eq_true]
  rintro ⟨g, hg, hc⟩
  exact hno4 g hg (beq_iff_eq.mp (Bool.and_eq_true_iff.mp hc).1)

section
variable (hidle : s.coreHasWork c = false) (hless : imgHitless (s.slotHeader i) = true)
include hidle hless

/-- What an HLOAD does once it holds its core. -/
theorem State.hload_held : s.hload c i mask =
    (let segs := hloadSegments (s.slotHeader i) c mask
     if s.imageCheck i ≠ 0 then (s.imageCheck i, (s.holdCore c).raiseSource 169)
     else if segs.any (fun g => g.kind == 4 && (upto (g.len / 5)).any (fun k => !s.mayUse 4 (bankOf (g.dst + 4 * k)))) then (4, s.holdCore c)
     else if segs.any (fun g => g.kind == 6 && (g.words (s.payload i)).any (fun w => s.mread w.1 != w.2)) then (13, s.holdCore c)
     else if s.digestOk i then (0, ((s.holdCore c).loadSegments (segs.filter (fun g => g.kind != 6)) (s.payload i) true).setSec (fun x => { x with
       hold := Machine.upd x.hold c (fun _ => some { done := true, slot := i, entry := imgEntry (s.slotHeader i) c, header := s.slotHeader i }) }))
     else (8, ((s.holdCore c).loadSegments (segs.filter (fun g => g.kind != 6)) (s.payload i) false).raiseSource 169)) := by
  have hcheck : (s.holdCore c).imageCheck i = s.imageCheck i := rfl
  have hdigest : (s.holdCore c).digestOk i = s.digestOk i := rfl
  have hpay : (s.holdCore c).payload i = s.payload i := rfl
  unfold State.hload State.imageRefused
  dsimp only
  rw [if_neg (by simp [hidle, hless]), hcheck, hdigest, hpay]
  refine if_ctx_congr Iff.rfl (fun hbad => by rw [if_neg hbad]) (fun _ => if_congr Iff.rfl rfl (if_congr Iff.rfl rfl ?_))
  cases s.digestOk i with
  | true => rw [if_pos rfl, if_pos rfl]
  | false => rw [if_neg Bool.false_ne_true, if_neg Bool.false_ne_true, if_neg (by decide)]

theorem State.hload_badImage (hbad : s.imageCheck i ≠ 0) : s.hload c i mask = (s.imageCheck i, (s.holdCore c).raiseSource 169) :=
  (State.hload_held hidle hless).trans (if_pos hbad)

section
variable (hgood : s.imageCheck i = 0)
include hgood

theorem State.hload_away {g : Segment} (hg : g ∈ hloadSegments (s.slotHeader i) c mask) (hkind : g.kind = 4) {k : Nat} (hk : k < g.len / 5)
    (haway : s.mayUse 4 (bankOf (g.dst + 4 * k)) = false) : s.hload c i mask = (4, s.holdCore c) := by
  have hany : (hloadSegments (s.slotHeader i) c mask).any (fun g => g.kind == 4 &&
      (upto (g.len / 5)).any (fun k => !s.mayUse 4 (bankOf (g.dst + 4 * k)))) = true :=
    List.any_eq_true.mpr ⟨g, hg, by simpa [hkind] using ⟨k, (mem_upto _ _).mpr hk, haway⟩⟩
  rw [State.hload_held hidle hless, if_neg (not_not_intro hgood), if_pos hany]

section
variable (hno4 : ∀ g ∈ hloadSegments (s.slotHeader i) c mask, g.kind ≠ 4)
include hno4

theorem State.hload_differs {g : Segment} (hg : g ∈ hloadSegments (s.slotHeader i) c mask) (hkind : g.kind = 6) {w : Nat × TWord}
    (hw : w ∈ g.words (s.payload i)) (hne : s.mread w.1 ≠ w.2) : s.hload c i mask = (13, s.holdCore c) := by
  have hany : (hloadSegments (s.slotHeader i) c mask).any (fun g => g.kind == 6 &&
      (g.words (s.payload i)).any (fun w => s.mread w.1 != w.2)) = true :=
    List.any_eq_true.mpr ⟨g, hg, by
      rw [hkind]
      exact List.any_eq_true.mpr ⟨w, hw, bne_iff_ne.mpr hne⟩⟩
  rw [State.hload_held hidle hless, if_neg (not_not_intro hgood), if_neg (hload_noneAway hno4), if_pos hany]

variable (hno6 : ∀ g ∈ hloadSegments (s.slotHeader i) c mask, g.kind ≠ 6)
include hno6

theorem State.hload_loads : s.hload c i mask =
    (let segs := hloadSegments (s.slotHeader i) c mask
     if s.digestOk i then (0, ((s.holdCore c).loadSegments segs (s.payload i) true).setSec (fun x => { x with
       hold := Machine.upd x.hold c (fun _ => some { done := true, slot := i, entry := imgEntry (s.slotHeader i) c, header := s.slotHeader i }) }))
     else (8, ((s.holdCore c).loadSegments segs (s.payload i) false).raiseSource 169)) := by
  have hnone : ¬((hloadSegments (s.slotHeader i) c mask).any (fun g => g.kind == 6 &&
      (g.words (s.payload i)).any (fun w => s.mread w.1 != w.2)) = true) := by
    rw [List.any_eq_true]
    rintro ⟨g, hg, hc⟩
    exact hno6 g hg (beq_iff_eq.mp (Bool.and_eq_true_iff.mp hc).1)
  have hall : (hloadSegments (s.slotHeader i) c mask).filter (fun g => g.kind != 6) = hloadSegments (s.slotHeader i) c mask :=
    List.filter_eq_self.mpr (fun g hg => bne_iff_ne.mpr (hno6 g hg))
  rw [State.hload_held hidle hless, if_neg (not_not_intro hgood), if_neg (hload_noneAway hno4), if_neg hnone, hall]

end
end
end
end

section
variable {s : State} {j : Fin 16} {x : CJob}

theorem execHload_waits (h : s.jobReady j 0x31 x) {d : Nat} (hd : s.hloadWaits x.core (x.arg % 2) (x.arg / 4) = some d) :
    execHload j s = .next (s.demand d) := by
  obtain ⟨hjob, hop, hran, -, -, hxspi, -⟩ := h
  unfold execHload
  rw [hjob]
  dsimp only
  rw [if_pos ⟨hop, by rw [hran]; rfl, hxspi rfl⟩, hd]

theorem execHload_runs (h : s.jobReady j 0x31 x) (hd : s.hloadWaits x.core (x.arg % 2) (x.arg / 4) = none) :
    execHload j s = s.runJob j 0x31 (fun x t => t.hload x.core (x.arg % 2) (x.arg / 4)) := by
  unfold execHload
  rw [h.cjob]
  dsimp only
  rw [hd, ite_self]

theorem State.ranWith_of_sec {t : State} (h : s.cjob j = some x) (ht : t.sec.job = s.sec.job) (st : Nat) : (t.jobRan j st).ranWith j st x :=
  State.jobRan_ranWith j ((congrArg (nth · j.val none) ht).trans h) st

theorem State.holdCore_keeps (s : State) (c : Fin 2) : s.keeps (s.holdCore c) [.sec] := s.setSec_keeps _

/-- The words that an HLOAD loads, its core held, are those of the segments. -/
theorem State.mread_held (s : State) (c : Fin 2) (segs : List Segment) (p : Bytes) (good : Bool) (a : Nat) :
    ((s.holdCore c).loadSegments segs p good).mread a = (s.loadSegments segs p good).mread a := by
  have hsame : LoadsSame s (s.holdCore c) := ⟨rfl, fun _ => rfl⟩
  unfold State.mread
  rw [(hsame.loadSegments segs p good).mem]

/-- The core's hold after a job that has changed nothing else of the block. -/
theorem State.heldRan {u : State} {c : Fin 2} (h : s.cjob j = some x) (hsec : u.sec = (s.holdCore c).sec) (st : Nat) :
    (u.jobRan j st).ranWith j st x ∧ (u.jobRan j st).sec.hold[c] = some (s.sec.hold[c].getD {}) := by
  refine ⟨State.ranWith_of_sec h (by rw [hsec]; rfl) st, ?_⟩
  show u.sec.hold[c] = _
  rw [hsec]
  exact s.hold_holdCore c

/-- The core's hold after a job that has set it. -/
theorem State.holdSetRan {u : State} {c : Fin 2} (h : s.cjob j = some x) (hsec : u.sec = (s.holdCore c).sec) (y : CoreHold) (st : Nat) :
    ((u.setSec (fun x => { x with hold := Machine.upd x.hold c (fun _ => some y) })).jobRan j st).ranWith j st x ∧
      ((u.setSec (fun x => { x with hold := Machine.upd x.hold c (fun _ => some y) })).jobRan j st).sec.hold[c] = some y ∧
      ∀ a, ((u.setSec (fun x => { x with hold := Machine.upd x.hold c (fun _ => some y) })).jobRan j st).mread a = u.mread a := by
  refine ⟨State.ranWith_of_sec h ?_ st, ?_, fun _ => rfl⟩
  · show u.sec.job = _
    rw [hsec]
    rfl
  · show (Machine.upd u.sec.hold c _)[c] = _
    simp [Machine.upd]

section
variable (h : s.jobReady j 0x31 x) (hd : s.hloadWaits x.core (x.arg % 2) (x.arg / 4) = none)
include h hd

theorem execHload_refused (hno : s.coreHasWork x.core = true ∨ imgHitless (s.slotHeader (x.arg % 2)) = false) :
    ∃ t, execHload j s = .next t ∧ t.ranWith j 12 x ∧ s.keeps t [.sec] := by
  rw [execHload_runs h hd]
  exact h.ends (State.hload_refused hno)

/-- An HLOAD that ends once it holds its core, with nothing loaded. -/
theorem execHload_ends {st : Nat} (hr : s.hload x.core (x.arg % 2) (x.arg / 4) = (st, s.holdCore x.core)) :
    ∃ t, execHload j s = .next t ∧ t.ranWith j st x ∧ s.keeps t [.sec] := by
  rw [execHload_runs h hd]
  exact ⟨_, h.runs hr, State.ranWith_of_sec h.cjob rfl st, State.keeps_trans (s.holdCore_keeps _) (State.jobRan_keeps _ _ _)⟩

section
variable (hidle : s.coreHasWork x.core = false) (hless : imgHitless (s.slotHeader (x.arg % 2)) = true)
include hidle hless

theorem execHload_badImage (hbad : s.imageCheck (x.arg % 2) ≠ 0) :
    ∃ u, execHload j s = .next ((u.raiseSource 169).jobRan j (s.imageCheck (x.arg % 2))) ∧
      u.sec.hold[x.core] = some (s.sec.hold[x.core].getD {}) ∧ s.keeps u [.sec] := by
  rw [execHload_runs h hd]
  exact ⟨_, h.runs (State.hload_badImage hidle hless hbad), s.hold_holdCore _, s.holdCore_keeps _⟩

variable (hgood : s.imageCheck (x.arg % 2) = 0)
  (hno4 : ∀ g ∈ hloadSegments (s.slotHeader (x.arg % 2)) x.core (x.arg / 4), g.kind ≠ 4)
  (hno6 : ∀ g ∈ hloadSegments (s.slotHeader (x.arg % 2)) x.core (x.arg / 4), g.kind ≠ 6)
include hgood hno4 hno6

theorem execHload_badDigest (hbad : s.digestOk (x.arg % 2) = false) :
    ∃ t, execHload j s = .next t ∧ t.ranWith j 8 x ∧ t.sec.hold[x.core] = some (s.sec.hold[x.core].getD {}) ∧
      ∀ a, t.mread a = (s.loadSegments (hloadSegments (s.slotHeader (x.arg % 2)) x.core (x.arg / 4)) (s.payload (x.arg % 2)) false).mread a := by
  have hr := State.hload_loads hidle hless hgood hno4 hno6 (mask := x.arg / 4)
  simp only [hbad, Bool.false_eq_true, if_false] at hr
  have hreact := (Reacted.refl ((s.holdCore x.core).loadSegments (hloadSegments (s.slotHeader (x.arg % 2)) x.core (x.arg / 4))
    (s.payload (x.arg % 2)) false)).raiseSource 169 (by decide)
  have hsec := hreact.services.2.2.1.trans (State.sec_loadSegments _ _ _ _)
  obtain ⟨hran, hhold⟩ := State.heldRan h.cjob hsec 8
  rw [execHload_runs h hd]
  refine ⟨_, h.runs hr, hran, hhold, fun a => Eq.trans ?_ (s.mread_held x.core _ _ false a)⟩
  exact congrArg (fun m => AMap.get _ m (a / 4)) hreact.mem

theorem execHload_loads (hok : s.digestOk (x.arg % 2) = true) :
    ∃ t, execHload j s = .next t ∧ t.ranWith j 0 x ∧
      t.sec.hold[x.core] = some {
        done := true, slot := x.arg % 2, entry := imgEntry (s.slotHeader (x.arg % 2)) x.core, header := s.slotHeader (x.arg % 2) } ∧
      ∀ a, t.mread a = (s.loadSegments (hloadSegments (s.slotHeader (x.arg % 2)) x.core (x.arg / 4)) (s.payload (x.arg % 2)) true).mread a := by
  have hr := State.hload_loads hidle hless hgood hno4 hno6 (mask := x.arg / 4)
  simp only [hok, if_true] at hr
  have hsec := State.sec_loadSegments (s.holdCore x.core) (hloadSegments (s.slotHeader (x.arg % 2)) x.core (x.arg / 4))
    (s.payload (x.arg % 2)) true
  obtain ⟨hran, hhold, hmem⟩ := State.holdSetRan h.cjob hsec {
        done := true, slot := x.arg % 2, entry := imgEntry (s.slotHeader (x.arg % 2)) x.core, header := s.slotHeader (x.arg % 2) } 0
  rw [execHload_runs h hd]
  exact ⟨_, h.runs hr, hran, hhold, fun a => (hmem a).trans (s.mread_held x.core _ _ true a)⟩

end
end
end
/-! ### Completion (R587) -/

section
variable {s : State} {j : Fin 16} {x : CJob}

/-- The registers that show a completed job. -/
def State.completed (s : State) (j r : Nat) : State :=
  ((s.setFld (F.secJstStatus j) r).setFld (F.secJstDone j) 1).setFld F.secJdoneDone (s.fld F.secJdoneDone ||| 2 ^ j)

theorem State.completed_spec (hs : s.canonical) (j : Fin 16) (r : Nat) :
    (s.completed j r).fld (F.secJstStatus j) = r % 2 ^ (F.secJstStatus j).width ∧
    (s.completed j r).bit (F.secJstDone j) = true ∧ ((s.completed j r).fld F.secJdoneDone).testBit j = true ∧
    s.keeps (s.completed j r) [.reg (F.secJstDone j).addr, .reg F.secJdoneDone.addr] := by
  have hj := j.isLt
  have h1 := State.canonical_setFld hs (F.secJstStatus j) r
  have h2 := State.canonical_setFld h1 (F.secJstDone j) 1
  have hstatus : s.keeps (s.setFld (F.secJstStatus j) r) [.reg (F.secJstDone j).addr, .reg F.secJdoneDone.addr] :=
    State.keeps_mono (s.setFld_keeps _ _) (by simp [F.secJstStatus, F.secJstDone])
  have hdone := State.keeps_setFld hstatus (F.secJstDone j) 1 (by simp)
  unfold State.completed
  refine ⟨?_, ?_, ?_, State.keeps_setFld hdone _ _ (by simp)⟩
  · rw [State.fld_setFld_other _ _ _ _ (by simp only [F.secJstStatus, F.secJdoneDone]; omega), State.fld_put_beside h1 _ (F.secJstStatus j),
      State.fld_put hs (F.secJstStatus j)]
  · rw [State.bit_iff_fld _ rfl, State.fld_setFld_other _ _ _ _ (by simp only [F.secJstDone, F.secJdoneDone]; omega),
      State.fld_put h1 (F.secJstDone j)]
    rfl
  · rw [State.fld_put h2 F.secJdoneDone, Nat.testBit_mod_two_pow, Nat.testBit_or, Nat.testBit_two_pow_self, Bool.or_true, Bool.and_true]
    exact decide_eq_true hj

theorem execCryptoJobComplete_ran {r : Nat} (h : s.cjob j = some x) (hr : x.ran = some r) (hopen : s.bit (F.secJstDone j) = false) :
    execCryptoJobComplete j s = .next ((s.completed j r).raiseEvent 76) := by
  unfold execCryptoJobComplete
  rw [h]
  dsimp only
  rw [hr]
  exact congrArg Host.Outcome.next (if_neg (by simp [hopen]))

theorem execCryptoJobComplete_unfit (h : s.cjob j = some x) (hr : x.ran = none) (hfits : x.fits = false) (hon : s.domOn domSec = true)
    (hopen : s.bit (F.secJstDone j) = false) : execCryptoJobComplete j s = .next ((s.completed j 1).raiseEvent 76) := by
  unfold execCryptoJobComplete
  rw [h]
  dsimp only
  rw [hr, hfits, hon]
  exact congrArg Host.Outcome.next (if_neg (by simp [hopen]))

theorem execCryptoJobComplete_none (h : s.cjob j = none) : execCryptoJobComplete j s = .next s := by
  unfold execCryptoJobComplete
  rw [h]

theorem execCryptoJobComplete_shown (h : s.cjob j = some x) (hdone : s.bit (F.secJstDone j) = true) : execCryptoJobComplete j s = .next s := by
  unfold execCryptoJobComplete
  rw [h]
  dsimp only
  split
  · rfl
  · rw [if_pos hdone]

theorem execCryptoJobComplete_waits (h : s.cjob j = some x) (hr : x.ran = none) (hw : x.fits = true ∨ s.domOn domSec = false) :
    execCryptoJobComplete j s = .next s := by
  unfold execCryptoJobComplete
  rw [h]
  dsimp only
  rw [hr]
  dsimp only
  rw [if_pos (by rcases hw with hw | hw <;> simp [hw])]

/-! ### Time-outs of the flash (R595) -/

section
variable (h : s.cjob j = some x)
include h

theorem execFlashTimeout_idle (hno : usesFlash x.op = false ∨ x.ran.isSome = true ∨ x.fits = false ∨ s.mayStart x = false) :
    execFlashTimeout j s = .next s := by
  have hnone : x.ran.isNone = !x.ran.isSome := by cases x.ran <;> rfl
  have hcond : (usesFlash x.op && x.ran.isNone && x.fits && s.mayStart x) = false := by
    rcases hno with hno | hno | hno | hno <;> simp only [hno, hnone, Bool.not_true, Bool.false_and, Bool.and_false]
  unfold execFlashTimeout
  rw [h]
  dsimp only
  rw [hcond, if_neg Bool.false_ne_true]

section
variable (huse : usesFlash x.op = true) (hran : x.ran = none) (hfits : x.fits = true) (hstart : s.mayStart x = true)
include huse hran hfits hstart

theorem execFlashTimeout_runs : execFlashTimeout j s = .next (if x.op = 0x31 then
    (if s.coreHasWork x.core || !imgHitless (s.slotHeader (x.arg % 2)) then s.jobRan j 12 else (s.holdCore x.core).jobRan j 11)
    else s.jobRan j 11) := by
  unfold execFlashTimeout
  rw [h]
  dsimp only
  rw [if_pos (by simp [huse, hran, hfits, hstart])]

theorem execFlashTimeout_plain (hop : x.op ≠ 0x31) : ∃ t, execFlashTimeout j s = .next t ∧ t.ranWith j 11 x ∧ s.keeps t [.sec] := by
  rw [execFlashTimeout_runs h huse hran hfits hstart, if_neg hop]
  exact ⟨_, rfl, State.jobRan_ranWith j h 11, s.jobRan_keeps _ _⟩

theorem execFlashTimeout_refused (hop : x.op = 0x31) (hno : s.coreHasWork x.core = true ∨ imgHitless (s.slotHeader (x.arg % 2)) = false) :
    ∃ t, execFlashTimeout j s = .next t ∧ t.ranWith j 12 x ∧ s.keeps t [.sec] := by
  rw [execFlashTimeout_runs h huse hran hfits hstart, if_pos hop, if_pos (by rcases hno with hno | hno <;> simp [hno])]
  exact ⟨_, rfl, State.jobRan_ranWith j h 12, s.jobRan_keeps _ _⟩

theorem execFlashTimeout_holds (hop : x.op = 0x31) (hidle : s.coreHasWork x.core = false) (hless : imgHitless (s.slotHeader (x.arg % 2)) = true) :
    ∃ t, execFlashTimeout j s = .next t ∧ t.ranWith j 11 x ∧ t.sec.hold[x.core] = some (s.sec.hold[x.core].getD {}) ∧ s.keeps t [.sec] := by
  obtain ⟨hran', hhold⟩ := State.heldRan h (u := s.holdCore x.core) rfl 11
  rw [execFlashTimeout_runs h huse hran hfits hstart, if_pos hop, if_neg (by simp [hidle, hless])]
  exact ⟨_, rfl, hran', hhold, State.keeps_trans (s.holdCore_keeps _) (State.jobRan_keeps _ _ _)⟩

end
end

theorem execFlashTimeout_none (h : s.cjob j = none) (hr : s.sec.rcvr = false) : execFlashTimeout j s = .next s := by
  unfold execFlashTimeout
  rw [h]
  dsimp only
  rw [if_neg (by simp [hr])]

theorem execFlashTimeout_recovery (hs : s.canonical) (h : s.cjob j = none) (hr : s.sec.rcvr = true) : ∃ t, execFlashTimeout j s = .next t ∧
    t.fld F.secRstatStatus = 11 ∧ t.sec = { s.sec with verified := none } ∧ s.keeps t [.sec, .reg F.secRstatStatus.addr] := by
  unfold execFlashTimeout
  rw [h]
  dsimp only
  rw [if_pos hr]
  exact ⟨_, rfl, State.fld_put (s := s.setSec _) hs F.secRstatStatus 11, rfl,
    State.keeps_setFld (State.keeps_mono (s.setSec_keeps _) (by simp)) _ _ (by simp)⟩

/-! ### JDONE (R587) -/

/-- A bit that is set, taken out. -/
theorem testBit_sub_two_pow {v j : Nat} (h : v.testBit j = true) (k : Nat) : (v - 2 ^ j).testBit k = (v.testBit k && decide (k ≠ j)) := by
  have hpos := Nat.two_pow_pos j
  have hbit : v / 2 ^ j % 2 = 1 := by simpa [Nat.testBit_eq_decide_div_mod_eq] using h
  have hle : 2 ^ j ≤ v := Nat.ge_two_pow_of_testBit h
  have hquot : (v - 2 ^ j) / 2 ^ j = v / 2 ^ j - 1 := by
    have := Nat.sub_mul_div v (2 ^ j) 1
    simpa using this
  rcases Nat.lt_trichotomy k j with hk | hk | hk
  · have hmod : (v - 2 ^ j) % 2 ^ j = v % 2 ^ j := by
      conv_rhs => rw [← Nat.sub_add_cancel hle, Nat.add_mod_right]
    have h1 := Nat.testBit_mod_two_pow (v - 2 ^ j) j k
    have h2 := Nat.testBit_mod_two_pow v j k
    rw [hmod, h2] at h1
    simp only [hk, decide_true, Bool.true_and] at h1
    rw [← h1]
    simp [Nat.ne_of_lt hk]
  · subst hk
    rw [Nat.testBit_eq_decide_div_mod_eq, hquot]
    simp
    omega
  · obtain ⟨d, rfl⟩ : ∃ d, k = d + (j + 1) := ⟨k - (j + 1), by omega⟩
    have hdiv (x : Nat) : x.testBit (d + (j + 1)) = (x / 2 ^ j / 2).testBit d := by
      rw [Nat.div_div_eq_div_mul, ← Nat.pow_succ, Nat.testBit_div_two_pow]
    have hhigh : ∀ q, q % 2 = 1 → (q - 1) / 2 = q / 2 := by omega
    rw [hdiv, hdiv, hquot, hhigh _ hbit, decide_eq_true (by omega), Bool.and_true]

/-- One bit of a write of JDONE. -/
def State.jdoneStep (w : Word) (t : State) (j : Nat) : State :=
  if w.getLsbD j ∧ (t.fld F.secJdoneDone).testBit j then
    (t.setFld F.secJdoneDone (t.fld F.secJdoneDone - 2 ^ j)).setSec (fun x => { x with job := updN x.job j (fun _ => none) })
  else t

/-- What the first `n` bits of a write of JDONE have freed. -/
structure JdoneCleared (w : Word) (s : State) (n : Nat) (t : State) : Prop where
  canonical : t.canonical
  keeps : s.keeps t [.sec, .reg F.secJdoneDone.addr]
  done : ∀ k, k < 16 → (t.fld F.secJdoneDone).testBit k = ((s.fld F.secJdoneDone).testBit k && !(decide (k < n) && w.getLsbD k))
  jobs : ∀ k, k < 16 → t.cjob k = if (decide (k < n) && w.getLsbD k && (s.fld F.secJdoneDone).testBit k) = true then none else s.cjob k

theorem JdoneCleared.step {w : Word} {t : State} {n : Nat} (h : JdoneCleared w s n t) (hn : n < 16) : JdoneCleared w s (n + 1) (t.jdoneStep w n) := by
  obtain ⟨hcanon, hkeeps, hdone, hjobs⟩ := h
  have hsame : (t.fld F.secJdoneDone).testBit n = (s.fld F.secJdoneDone).testBit n := by simpa using hdone n hn
  have hlt (k : Nat) : decide (k < n + 1) = (decide (k < n) || decide (k = n)) := by
    rw [← Bool.decide_or]
    exact decide_eq_decide.mpr (by omega)
  unfold State.jdoneStep
  split
  · next hc =>
    obtain ⟨hw, hbit⟩ := hc
    have hsbit : (s.fld F.secJdoneDone).testBit n = true := hsame ▸ hbit
    refine ⟨State.canonical_setFld hcanon _ _,
      State.keeps_trans (State.keeps_setFld hkeeps _ _ (by simp)) (State.setSec_keeps _ _) (List.Subset.refl _) (by simp),
      fun k hk => ?_, fun k hk => ?_⟩
    · show ((t.setFld F.secJdoneDone _).fld F.secJdoneDone).testBit k = _
      rw [State.fld_put hcanon F.secJdoneDone, Nat.testBit_mod_two_pow, decide_eq_true (show k < F.secJdoneDone.width from hk),
        Bool.true_and, testBit_sub_two_pow hbit, hdone k hk, hlt]
      by_cases hkn : k = n
      · subst hkn
        simp [hw]
      · simp [hkn]
    · show nth (updN t.sec.job n _) k none = _
      by_cases hkn : k = n
      · subst hkn
        rw [nth_updN_same _ _ _ _ hk, if_pos (by simp [hw, hsbit])]
      · rw [nth_updN_other _ _ _ _ _ (Ne.symm hkn), hlt, decide_eq_false hkn, Bool.or_false]
        exact hjobs k hk
  · next hc =>
    refine ⟨hcanon, hkeeps, fun k hk => ?_, fun k hk => ?_⟩
    · rw [hdone k hk, hlt]
      by_cases hkn : k = n
      · subst hkn
        rw [hsame] at hc
        cases hw : w.getLsbD k <;> cases hb : (s.fld F.secJdoneDone).testBit k <;> simp_all
      · simp [hkn]
    · rw [hjobs k hk, hlt]
      by_cases hkn : k = n
      · subst hkn
        rw [hsame] at hc
        cases hw : w.getLsbD k <;> cases hb : (s.fld F.secJdoneDone).testBit k <;> simp_all
      · simp [hkn]

theorem State.jdoneClear_cleared (hs : s.canonical) (w : Word) : JdoneCleared w s 16 (s.jdoneClear w false) :=
  forEach_induct (Q := JdoneCleared w s) ⟨hs, s.keeps_refl _, fun k _ => by simp, fun k _ => by simp⟩ (fun n t hn h => h.step hn)

end

/-! ### The commands of the block -/

section
variable {s : State} {j : Fin 16} {x : CJob}

/-- The nine jobs that run by `runJob` alone; those of the flash have a code from 0x20 on. -/
theorem exec_runJobCommand {op : Nat} {e : Ecc} {cmd : Instr} (h : (op, cmd) ∈ ([(0x10, .kload j e), (0x11, .kerase j), (0x12, .kwrap j),
      (0x13, .kunwrap j e), (0x20, .xread j), (0x21, .xprog j e), (0x22, .xerase j), (0x30, .iverify j), (0x32, .confirm j)] : List (Nat × Instr)))
    (s : State) : (∃ f, exec cmd s = s.runJob j op f) ∧ (engineOf op = 4 ↔ 0x20 ≤ op) := by
  simp only [List.mem_cons, Prod.mk.injEq, List.not_mem_nil, or_false] at h
  rcases h with ⟨rfl, rfl⟩ | ⟨rfl, rfl⟩ | ⟨rfl, rfl⟩ | ⟨rfl, rfl⟩ | ⟨rfl, rfl⟩ | ⟨rfl, rfl⟩ | ⟨rfl, rfl⟩ |
    ⟨rfl, rfl⟩ | ⟨rfl, rfl⟩
  · exact ⟨⟨_, (rfl : execKload j e s = s.runJob j 0x10 _)⟩, by decide⟩
  · exact ⟨⟨_, (rfl : execKerase j s = s.runJob j 0x11 _)⟩, by decide⟩
  · exact ⟨⟨_, (rfl : execKwrap j s = s.runJob j 0x12 _)⟩, by decide⟩
  · exact ⟨⟨_, (rfl : execKunwrap j e s = s.runJob j 0x13 _)⟩, by decide⟩
  · exact ⟨⟨_, (rfl : execXread j s = s.runJob j 0x20 _)⟩, by decide⟩
  · exact ⟨⟨_, (rfl : execXprog j e s = s.runJob j 0x21 _)⟩, by decide⟩
  · exact ⟨⟨_, (rfl : execXerase j s = s.runJob j 0x22 _)⟩, by decide⟩
  · exact ⟨⟨_, (rfl : execIverify j s = s.runJob j 0x30 _)⟩, by decide⟩
  · exact ⟨⟨_, (rfl : execConfirm j s = s.runJob j 0x32 _)⟩, by decide⟩

theorem exec_runJob_waits {op : Nat} {cmd : Instr} (hrun : (∃ f, exec cmd s = s.runJob j op f) ∧ (engineOf op = 4 ↔ 0x20 ≤ op)) :
    (s.cjob j = none → exec cmd s = .next s) ∧
    (s.cjob j = some x → x.op ≠ op ∨ x.ran.isSome = true ∨ s.mayStart x = false → exec cmd s = .next s) ∧
    (s.cjob j = some x → x.op = op → x.ran = none → s.mayStart x = true →
      (s.domOn domSec = false → exec cmd s = .next (s.demand domSec)) ∧
      (s.domOn domSec = true → 0x20 ≤ op → s.domOn domXspi = false → exec cmd s = .next (s.demandOrLock domXspi)) ∧
      (s.domOn domSec = true → op < 0x20 ∨ s.domOn domXspi = true → x.fits = false →
        ∃ t, exec cmd s = .next t ∧ t.ranWith j 1 x ∧ s.keeps t [.sec])) := by
  obtain ⟨⟨f, hexec⟩, hengine⟩ := hrun
  rw [hexec]
  refine ⟨State.runJob_none, State.runJob_other, fun hjob hop hran hstart => ⟨fun hsec => State.runJob_asleep hjob hop hran hstart hsec,
    fun hsec hflash hxspi => State.runJob_flashAsleep hjob hop hran hstart hsec (hengine.mpr hflash) hxspi, fun hsec hready hfits => ?_⟩⟩
  refine ⟨_, State.runJob_unfit hjob hop hran hstart hsec (fun h4 => ?_) hfits, State.jobRan_ranWith j hjob 1, s.jobRan_keeps _ _⟩
  exact hready.resolve_left (Nat.not_lt.mpr (hengine.mp h4))

theorem execTrngHealthFail_on (hs : s.canonical) (hon : s.domOn domSec = true) : ∃ u, execTrngHealthFail s = .next (u.raiseSource 170) ∧
    u.sec.trngf = true ∧ u.fld F.secStatTrngf = 1 ∧ s.keeps u [.sec, .reg F.secStatTrngf.addr] := by
  unfold execTrngHealthFail
  rw [if_pos hon]
  exact ⟨_, rfl, rfl, State.fld_put (s := s.setSec _) hs F.secStatTrngf 1,
    State.keeps_setFld (State.keeps_mono (s.setSec_keeps _) (by simp)) _ _ (by simp)⟩

theorem execTrngHealthPass_on (hs : s.canonical) (hon : s.domOn domSec = true) : ∃ t, execTrngHealthPass s = .next t ∧
    t.sec.trngf = false ∧ t.fld F.secStatTrngf = 0 ∧ s.keeps t [.sec, .reg F.secStatTrngf.addr] := by
  unfold execTrngHealthPass
  rw [if_pos hon]
  exact ⟨_, rfl, rfl, State.fld_put (s := s.setSec _) hs F.secStatTrngf 0,
    State.keeps_setFld (State.keeps_mono (s.setSec_keeps _) (by simp)) _ _ (by simp)⟩

end

/-- Settles O57: each command by the lemma on its job; an HLOAD holds its core first, and what it loads does not depend on that. -/
theorem keyFlashAndQueueSteps : Obligations.KeyFlashAndQueueSteps := by
  unfold Obligations.KeyFlashAndQueueSteps
  intro j x s hs ends judges attr
  refine ⟨fun op e cmd hmem => exec_runJob_waits (exec_runJobCommand hmem s), fun h hk _ hb => execKload_ready hs h hk hb,
    fun h hk => execKerase_ready hs h hk,
    fun h hkey hkek htrng => ⟨(s.drawBytes 12).1, rfl, execKwrap_ready hs h hkey hkek htrng⟩, fun h hno => execKwrap_empty h hno,
    fun h hkey hkek htrng => execKwrap_noEntropy h hkey hkek htrng, fun h hkek => execKunwrap_empty h hkek, ?_,
    fun h hb => execXread_ready hs h hb, fun h hlen hb hwf => execXprog_ready h hlen hb hwf, fun h hlen => execXprog_short h hlen,
    fun h => execXerase_ready hs h, fun h => ⟨fun hgood => execIverify_sound h hgood, fun hbad => execIverify_refused h hbad⟩, ?_,
    fun h hwf => execConfirm_ready h hwf, ?_, ?_, ?_, ?_, ?_, ?_, ?_, ?_, ?_⟩
  · intro h hkek hb hk b good
    have hblob (a : Nat) : s.blobGood b a = good a := beq_eq_decide _ _
    refine ⟨fun hwrong => execKunwrap_wrong h hkek hb (State.blobAttr_none (fun a ha => (hblob a).trans (hwrong a ha))),
      fun a ha htype hgood honly => ?_⟩
    obtain ⟨t, ht, hrun⟩ := execKunwrap_found h hkek hb (State.blobAttr_some ha htype ((hblob a).trans hgood)
      (fun k hk hg => honly k hk ((hblob k).symm.trans hg)))
    exact ⟨_, hrun, State.loadsKey hs h.cjob ht hk (Nat.mod_lt _ (by decide)) (by omega) _⟩
  · intro h
    refine ⟨fun d hd => execHload_waits h hd, fun hd => ⟨fun hno => execHload_refused h hd hno, fun hidle hless =>
      ⟨fun hbad => execHload_badImage h hd hidle hless hbad, fun hgood => ⟨?_, ?_, ?_, ?_⟩⟩⟩⟩
    · intro g k hg hkind hk haway
      exact execHload_ends h hd (State.hload_away hidle hless hgood hg hkind hk haway)
    · rintro hno4 ⟨g, hg, hkind, w, hw, hne⟩
      exact execHload_ends h hd (State.hload_differs hidle hless hgood hno4 hg hkind hw hne)
    · intro hno hbad
      exact execHload_badDigest h hd hidle hless hgood (fun g hg => (hno g hg).1) (fun g hg => (hno g hg).2) hbad
    · intro hno hok
      exact execHload_loads h hd hidle hless hgood (fun g hg => (hno g hg).1) (fun g hg => (hno g hg).2) hok
  · intro r hjob hran hopen
    exact ⟨s.completed j r, execCryptoJobComplete_ran hjob hran hopen, State.completed_spec hs j r⟩
  · intro hjob hran hfits hon hopen
    exact ⟨s.completed j 1, execCryptoJobComplete_unfit hjob hran hfits hon hopen, State.completed_spec hs j 1⟩
  · rintro (hnone | ⟨hjob, hdone | ⟨hran, hw⟩⟩)
    · exact execCryptoJobComplete_none hnone
    · exact execCryptoJobComplete_shown hjob hdone
    · exact execCryptoJobComplete_waits hjob hran hw
  · intro hjob
    exact ⟨fun huse hran hfits hstart => ⟨fun hop => execFlashTimeout_plain hjob huse hran hfits hstart hop,
      fun hop hno => execFlashTimeout_refused hjob huse hran hfits hstart hop hno,
      fun hop hidle hless => execFlashTimeout_holds hjob huse hran hfits hstart hop hidle hless⟩, fun hno => execFlashTimeout_idle hjob hno⟩
  · exact fun hnone => ⟨fun hr => execFlashTimeout_none hnone hr, fun hr => execFlashTimeout_recovery hs hnone hr⟩
  · exact fun w b => ⟨fun hd => congrArg Host.Outcome.next (State.store_of_dip hd _ _),
      fun hd hoff => congrArg Host.Outcome.next (State.store_of_off hd hoff _ _)⟩
  · intro w hon
    obtain ⟨-, hkeeps, hdone, hjobs⟩ := State.jdoneClear_cleared hs w
    refine ⟨⟨_, congrArg Host.Outcome.next (State.store_of_on hon _ _), State.bit_setBit_same hs rfl (by decide), s.setFld_keeps _ _⟩,
      ⟨_, congrArg Host.Outcome.next (State.store_of_on hon _ _), hkeeps, fun k hk => ⟨?_, ?_⟩⟩⟩
    · rw [hdone k hk, decide_eq_true hk, Bool.true_and]
    · rw [hjobs k hk, decide_eq_true hk, Bool.true_and]
  · exact fun hoff => ⟨congrArg Host.Outcome.next (if_neg (by simp [hoff])), congrArg Host.Outcome.next (if_neg (by simp [hoff]))⟩
  · exact fun hon => ⟨execTrngHealthFail_on hs hon, execTrngHealthPass_on hs hon⟩

end Sys2Proof.Machine
end

section
/-!
PROOFS. The Baler builds its record, keeps it in the ring, and serves record requests (O51).
-/

/- One proof at a time: the check of the whole text comes near its limit of memory. -/
set_option Elab.async false

namespace Sys2Proof.Machine

/-! ### Numbers in a string of bytes -/

theorem leNat_leOf (n x : Nat) : leNat (leOf n x) = x % 256 ^ n := by
  induction n generalizing x with
  | zero => rw [Nat.pow_zero, Nat.mod_one]; rfl
  | succ n ih =>
    show x % 256 % 256 + 256 * leNat (leOf n (x / 256)) = _
    rw [ih, Nat.mod_mod, Nat.pow_succ', Nat.mod_mul]

/-- The number at the start of a string. -/
theorem leAt_leOf (n x : Nat) (l : Bytes) : leAt (leOf n x ++ l) 0 n = x % 256 ^ n := by
  have htake : sub (leOf n x ++ l) 0 n = leOf n x := by
    unfold sub
    rw [List.drop_zero, List.append_assoc, List.take_left' (length_leOf n x)]
  unfold leAt
  rw [htake, leNat_leOf]

/-- The number that follows leading bytes. -/
theorem leAt_skip {k : Nat} {pre : Bytes} (hk : pre.length = k) (l : Bytes) (o n : Nat) : leAt (pre ++ l) (k + o) n = leAt l o n := by
  unfold leAt sub
  rw [← hk, ← List.drop_drop, List.drop_left']
  rfl

theorem sub_of_length {l : Bytes} {o n : Nat} (h : o + n ≤ l.length) : sub l o n = (l.take (o + n)).drop o := by
  unfold sub
  rw [List.take_append_of_le_length (by rw [List.length_drop]; omega), List.drop_take, Nat.add_sub_cancel_left]

/-! ### The record (R528, R529) -/

theorem length_withCrc {r : Bytes} (hr : 32 ≤ r.length) : (withCrc r).length = r.length := by
  unfold withCrc
  rw [List.length_append, List.length_append, length_leOf, List.length_take, List.length_drop]
  omega

/-- The CRC stands behind the fields of the header. -/
theorem leAt_withCrc {r : Bytes} (hr : 32 ≤ r.length) {o n : Nat} (h : o + n ≤ 28) : leAt (withCrc r) o n = leAt r o n := by
  have htake : (withCrc r).take (o + n) = r.take (o + n) := by
    unfold withCrc
    rw [List.append_assoc, List.take_append_of_le_length (by rw [List.length_take]; omega), List.take_take, Nat.min_eq_left h]
  unfold leAt
  rw [sub_of_length (by rw [length_withCrc hr]; omega), sub_of_length (by omega), htake]

/-- The sections of a record leave room for its header. -/
theorem State.balSections_length (s : State) : s.balSections.1.length ≤ 4064 := by
  unfold State.balSections
  generalize (upto 16).filter s.balUsed = l
  have hstep : ∀ (l : List Nat) (a : Bytes × Nat × Bool), a.1.length ≤ 4064 → (l.foldl (fun (a : Bytes × Nat × Bool) j =>
      let b := s.balSection j
      if a.2.2 || decide (4096 < 32 + a.1.length + b.length) then (a.1, a.2.1, true)
      else (a.1 ++ b, a.2.1 + 2 ^ j, false)) a).1.length ≤ 4064 := by
    intro l
    induction l with
    | nil => exact fun _ h => h
    | cons j l ih =>
      refine fun a h => ih _ ?_
      dsimp only
      split
      · exact h
      · next hroom =>
        simp only [Bool.or_eq_true, decide_eq_true_eq, not_or, Nat.not_lt] at hroom
        rw [List.length_append]
        omega
  exact hstep l _ (Nat.zero_le _)

/-- A record's header before its CRC. -/
def State.balHeader (s : State) (flags n sect : Nat) : Bytes :=
  leOf 2 0xBA1E ++ ([1, flags] ++ (leOf 2 (s.fld F.balNode) ++ (leOf 2 n ++ (leOf 6 s.frm.frame.toNat ++
    (leOf 2 s.bal.next ++ (leOf 4 (s.inWord 0x10).val.toNat ++ (leOf 4 (s.inWord 0x14).val.toNat ++ (leOf 4 sect ++ [0, 0, 0, 0]))))))))

theorem State.balHeader_length (s : State) (flags n sect : Nat) : (s.balHeader flags n sect).length = 32 := by
  simp [State.balHeader, length_leOf]

/-- A record's FLAGS. -/
def State.balFlags (s : State) : Nat :=
  b2n s.win.safe + 2 * b2n (!s.frm.committing) + 4 * b2n s.frm.synced + 8 * b2n s.pwr.resumed.isSome + 16 * b2n s.balSections.2.2

theorem State.balRecord_header (s : State) : s.balRecord.1 =
    withCrc (s.balHeader s.balFlags (32 + s.balSections.1.length) s.balSections.2.1 ++ s.balSections.1) := by
  unfold State.balRecord State.balHeader State.balFlags
  simp only [List.append_assoc]

theorem State.balRecord_fields (s : State) : leAt s.balRecord.1 0 2 = 0xBA1E ∧ leAt s.balRecord.1 6 2 = s.balRecord.1.length ∧
    leAt s.balRecord.1 8 6 = s.frm.frame.toNat ∧ s.balRecord.1.length ≤ 4096 := by
  have hrec := s.balRecord_header
  have hroom := s.balSections_length
  generalize s.balFlags = flags at hrec
  have hlen : (s.balHeader flags (32 + s.balSections.1.length) s.balSections.2.1 ++ s.balSections.1).length = 32 + s.balSections.1.length := by
    rw [List.length_append, s.balHeader_length]
  have h32 : 32 ≤ (s.balHeader flags (32 + s.balSections.1.length) s.balSections.2.1 ++ s.balSections.1).length := by omega
  rw [hrec, length_withCrc h32, leAt_withCrc h32 (by decide), leAt_withCrc h32 (by decide), leAt_withCrc h32 (by decide), hlen]
  unfold State.balHeader
  simp only [List.append_assoc]
  refine ⟨leAt_leOf 2 _ _, ?_, ?_, by omega⟩
  · show leAt _ (2 + (2 + (2 + 0))) 2 = _
    rw [leAt_skip (length_leOf 2 _), leAt_skip (k := 2) (pre := [1, _]) rfl, leAt_skip (length_leOf 2 _), leAt_leOf, Nat.mod_eq_of_lt]
    exact Nat.lt_of_le_of_lt (Nat.add_le_add_left hroom 32) (by decide)
  · show leAt _ (2 + (2 + (2 + (2 + 0)))) 6 = _
    rw [leAt_skip (length_leOf 2 _), leAt_skip (k := 2) (pre := [1, _]) rfl, leAt_skip (length_leOf 2 _), leAt_skip (length_leOf 2 _),
      leAt_leOf, Nat.mod_eq_of_lt]
    exact s.frm.frame.isLt

/-! ### What a frame that the device sends leaves (R504, R505, R526) -/

/-- The switch, the values drawn and the note of a dropped frame alone have changed. -/
structure Sent (s t : State) : Prop where
  rest : ∃ r e n, t = { s with regs := r, eth := e, free := n }
  reg : ∀ a, a ≠ F.ethStatDrop.addr → t.reg a = s.reg a

section
variable {s t : State}

theorem Sent.refl (s : State) : Sent s s := ⟨⟨s.regs, s.eth, s.free, rfl⟩, fun _ _ => rfl⟩

theorem Sent.trans {u : State} (h : Sent s t) (h' : Sent t u) : Sent s u := by
  obtain ⟨⟨r, e, n, rfl⟩, hreg⟩ := h
  obtain ⟨⟨r', e', n', rfl⟩, hreg'⟩ := h'
  exact ⟨⟨r', e', n', rfl⟩, fun a ha => (hreg' a ha).trans (hreg a ha)⟩

theorem Sent.bal (h : Sent s t) : t.bal = s.bal := by
  obtain ⟨⟨r, e, n, rfl⟩, -⟩ := h
  rfl

theorem Sent.mread (h : Sent s t) (a : Nat) : t.mread a = s.mread a := by
  obtain ⟨⟨r, e, n, rfl⟩, -⟩ := h
  rfl

theorem Sent.bit (h : Sent s t) (f : Fld) (hf : f.addr ≠ F.ethStatDrop.addr := by decide) : t.bit f = s.bit f := by
  unfold State.bit State.fld
  rw [h.reg _ hf]

theorem State.setEth_sent (s : State) (f : Eth → Eth) : Sent s (s.setEth f) := ⟨⟨s.regs, _, s.free, rfl⟩, fun _ _ => rfl⟩

theorem State.drawn_sent (s : State) : Sent s { s with free := s.free + 1 } := ⟨⟨s.regs, s.eth, _, rfl⟩, fun _ _ => rfl⟩

theorem State.ethDrop_sent (s : State) : Sent s s.ethDrop := ⟨⟨_, _, s.free, rfl⟩, fun _ ha => State.reg_setReg_other _ _ _ _ ha⟩

theorem State.enqueue_sent (s : State) (p : Nat) (f : EthQ) : Sent s (s.enqueue p f) := by
  unfold State.enqueue
  split
  · exact s.ethDrop_sent
  · exact s.setEth_sent _

theorem State.enqueueAll_sent (f : EthQ) (l : List Nat) (s : State) : Sent s (l.foldl (fun t p => t.enqueue p f) s) := by
  induction l generalizing s with
  | nil => exact Sent.refl s
  | cons p l ih => exact (s.enqueue_sent p f).trans (ih _)

theorem State.sendOwn_sent (s : State) (dst type pcp : Nat) (payload : Bytes) (delayReq : Bool) : Sent s (s.sendOwn dst type pcp payload delayReq) :=
  State.enqueueAll_sent _ _ s

theorem State.arpAsk_sent (s : State) (ip : Nat) : Sent s (s.arpAsk ip) := by
  unfold State.arpAsk
  split
  · exact s.sendOwn_sent _ _ _ _ _
  · exact Sent.refl s

theorem State.ipSend_sent (s : State) (dst pcp : Nat) (packet : Bytes) : Sent s (s.ipSend dst pcp packet) := by
  unfold State.ipSend
  split
  · exact Sent.refl s
  split
  · exact s.sendOwn_sent _ _ _ _ _
  split
  · exact Sent.refl s
  · exact (s.setEth_sent _).trans (State.arpAsk_sent _ _)

theorem State.udpSend_sent (s : State) (dst sport dport pcp : Nat) (data : Bytes) : Sent s (s.udpSend dst sport dport pcp data) :=
  s.drawn_sent.trans (State.ipSend_sent _ _ _ _)

theorem State.handOver_sent {f : Bytes} (h : s.handOver f = some t) : Sent s t := by
  unfold State.handOver at h
  split at h
  · exact absurd h (by simp)
  dsimp only at h
  split at h
  · exact absurd h (by simp)
  split at h
  · cases h
    exact s.drawn_sent.trans (State.ethDrop_sent _)
  split at h
  · cases h
    exact s.drawn_sent.trans (State.enqueueAll_sent _ _ _)
  · exact absurd h (by simp)

end

/-! ### What the ring and the network leave of the Baler's notes -/

/-- The number of the next record, the notes on this frame's and the time stay. -/
structure BalNoted (s t : State) : Prop where
  next : t.bal.next = s.bal.next
  built : t.bal.built = s.bal.built
  len : t.bal.len = s.bal.len
  count : t.count = s.count

section
variable {s t : State}

theorem BalNoted.refl (s : State) : BalNoted s s := ⟨rfl, rfl, rfl, rfl⟩

theorem BalNoted.trans {u : State} (h : BalNoted s t) (h' : BalNoted t u) : BalNoted s u :=
  ⟨h'.next.trans h.next, h'.built.trans h.built, h'.len.trans h.len, h'.count.trans h.count⟩

theorem BalNoted.of_eq {u : State} (h : BalNoted s t) (hbal : u.bal = t.bal := by rfl) (hcount : u.count = t.count := by rfl) : BalNoted s u :=
  h.trans ⟨by rw [hbal], by rw [hbal], by rw [hbal], hcount⟩

theorem BalNoted.reacted {u : State} (h : BalNoted s t) (k : Reacted t u) : BalNoted s u := h.of_eq k.services.1 k.count

theorem BalNoted.sent {u : State} (h : BalNoted s t) (k : Sent t u) : BalNoted s u := by
  obtain ⟨⟨r, e, n, rfl⟩, -⟩ := k
  exact h.of_eq

theorem BalNoted.raiseSource (h : BalNoted s t) (n : Nat) (hn : n < 192 := by decide) : BalNoted s (t.raiseSource n) :=
  h.reacted ((Reacted.refl t).raiseSource n hn)

theorem BalNoted.nonOwner (h : BalNoted s t) (a who : Nat) (write fetch : Bool) : BalNoted s (t.nonOwner a who write fetch) :=
  BalNoted.raiseSource (t := State.setGbank _ _ _) h.of_eq 18

theorem BalNoted.heal (h : BalNoted s t) (a : Nat) : BalNoted s (t.heal a) := st_ite h h.of_eq

theorem BalNoted.grnStore (h : BalNoted s t) (b w : Nat) (v : TWord) : BalNoted s (t.grnStore b w v) := (h.heal (grnAddr b w)).of_eq

theorem BalNoted.resolved (h : BalNoted s t) (a : Nat) (e : Ecc) : BalNoted s (t.resolved a e).2 := by
  unfold State.resolved
  dsimp only
  split
  · exact h.of_eq
  · exact h.of_eq
  · exact h

theorem BalNoted.setFld (h : BalNoted s t) (f : Fld) (v : Nat) : BalNoted s (t.setFld f v) := h.of_eq

theorem BalNoted.setGbank (h : BalNoted s t) (b : Nat) (f : GBank → GBank) : BalNoted s (t.setGbank b f) := h.of_eq

theorem BalNoted.correctedCount (h : BalNoted s t) (b w : Nat) : BalNoted s (t.correctedCount b w) := (h.setFld _ _).setGbank _ _

theorem BalNoted.uncorrectableCount (h : BalNoted s t) (b : Nat) : BalNoted s (t.uncorrectableCount b) :=
  ((h.setFld _ _).setFld _ _).setGbank _ _

theorem BalNoted.corrected (h : BalNoted s t) (b w : Nat) : BalNoted s (t.corrected b w) :=
  have k := (h.correctedCount b w).raiseSource 16
  st_ite (k.raiseSource 22) k

theorem BalNoted.checked (h : BalNoted s t) (b w : Nat) (e : Ecc) : BalNoted s (t.checked b w e) := by
  cases e
  case single => exact h.corrected b w
  case double => exact (h.uncorrectableCount b).raiseSource 17
  all_goals exact h

theorem BalNoted.checkedFor (h : BalNoted s t) (who b w : Nat) (e : Ecc) : BalNoted s (t.checkedFor who b w e) := by
  refine st_ite ?_ (h.checked b w e)
  cases e
  case single => exact h.correctedCount b w
  case double => exact h.uncorrectableCount b
  all_goals exact h

theorem BalNoted.readWord (h : BalNoted s t) (who b w : Nat) (e : Ecc) : BalNoted s (t.readWord who b w e).2.2 :=
  (h.resolved _ e).checkedFor who b w _

theorem BalNoted.performed (h : BalNoted s t) (b : Nat) (g : GAcc) (e : Ecc) : BalNoted s (t.performed b g e).2.2 := by
  unfold State.performed
  split
  · exact h.grnStore b g.word _
  · exact h.readWord g.who b g.word e

theorem BalNoted.granted (h : BalNoted s t) (b : Nat) (g : GAcc) (e : Ecc) : BalNoted s (t.granted b g e) := by
  unfold State.granted
  extract_lets r s1 n r' q
  have hr : BalNoted s s1 := (h.resolved _ e).checked b g.word _
  have hn : BalNoted s n := h.nonOwner _ _ _ _
  have hq : BalNoted s q.2.2 := st_pite2 (P := BalNoted s) ((h.performed b g e).performed b (gaccSecond g) .clean) (h.performed b g e)
  exact st_ite (st_ite (hr.heal _).of_eq hr) (st_ite (st_ite hn hn.of_eq) (st_ite hq (st_ite hq hq.of_eq)))

theorem BalNoted.laneTurn (h : BalNoted s t) (who a : Nat) : BalNoted s (t.laneTurn who a) := by
  refine BalNoted.setGbank (t := t.laneServe who a) ?_ _ _
  refine st_foldl (P := BalNoted s) (fun u _ k => ?_) h
  split
  · exact st_ite (BalNoted.granted (k.setGbank _ _) _ _ _) k
  · exact k

theorem BalNoted.grnWrite (h : BalNoted s t) {a : Nat} (ha : inGranary a = true) (v : TWord) : BalNoted s (t.grnWrite 2 a v) := by
  have hb := bankOf_lt ha
  have hserved := h.laneTurn 2 a
  refine st_ite ?_ (st_ite ?_ (st_ite ?_ ?_))
  · exact BalNoted.nonOwner (st_ite hserved h) _ _ _ _
  · exact h.reacted (Reacted.refl t).lockAccess
  · exact ((h.setGbank _ _).setFld F.grnStatWakef 1).raiseSource 21
  · exact BalNoted.grnStore (st_ite hserved (h.reacted ((Reacted.refl t).demand _ (by omega)))) _ _ _

theorem BalNoted.frags (h : BalNoted s t) (l : List Bytes) : BalNoted s (t.setBal (fun b => { b with frags := l })) :=
  h.trans ⟨rfl, rfl, rfl, rfl⟩

theorem BalNoted.balHandFrom (h : BalNoted s t) (l : List Bytes) : BalNoted s (t.balHandFrom l) := by
  induction l generalizing t with
  | nil => exact h.frags []
  | cons f l ih =>
    unfold State.balHandFrom
    cases hover : t.handOver f with
    | none => exact h.frags _
    | some u => exact ih (h.sent (State.handOver_sent hover))

theorem BalNoted.balHand (h : BalNoted s t) : BalNoted s t.balHand := st_ite h (h.balHandFrom _)

end

/-! ### The ring (R533) -/

section
variable {s : State}

theorem ringSlot_aligned (s : State) (frame : Nat) : s.ringSlot frame % 4096 = 0 := by
  unfold State.ringSlot
  omega

theorem inGranary_iff {a : Nat} : inGranary a = true ↔ 0x10000000 ≤ a ∧ a < 0x10400000 := by
  simp [inGranary]

/-- The words of a slot of the ring lie in one bank of the Granary. -/
theorem State.ringSlot_words (h : s.ringOk = true) (frame : Nat) {j : Nat} (hj : j < 1024) :
    inGranary (s.ringSlot frame + 4 * j) = true ∧ bankOf (s.ringSlot frame + 4 * j) = bankOf (s.ringSlot frame) := by
  unfold State.ringOk at h
  rw [Bool.and_eq_true, inGranary_iff, inGranary_iff] at h
  have haligned := ringSlot_aligned s frame
  have hfirst : s.ringSlot 0 = s.fld F.balRingAddr / 4096 * 4096 + 4096 * (0 % 256) := rfl
  have hlast : s.ringSlot 255 = s.fld F.balRingAddr / 4096 * 4096 + 4096 * (255 % 256) := rfl
  have hslot : s.ringSlot frame = s.fld F.balRingAddr / 4096 * 4096 + 4096 * (frame % 256) := rfl
  rw [inGranary_iff]
  unfold bankOf
  omega

/-- The words of a slot that the Baler may use take its stores. -/
theorem State.ringSlot_serves (h : s.ringOk = true) {frame : Nat} (hown : s.mayUse 2 (bankOf (s.ringSlot frame)) = true)
    (hlock : s.domLocked (16 + bankOf (s.ringSlot frame)) = false) (hwake : s.wakeFails (s.ringSlot frame) = false)
    (hidle : (s.gbank (bankOf (s.ringSlot frame))).wait = []) {j : Nat} (hj : j < 1024) : s.Serves (s.ringSlot frame + 4 * j) := by
  obtain ⟨hhome, hbank⟩ := State.ringSlot_words h frame hj
  refine ⟨hhome, ?_, ?_, ?_, ?_⟩
  · rw [hbank]; exact hown
  · rw [hbank]; exact hlock
  · unfold State.wakeFails at hwake ⊢
    rw [hbank]; exact hwake
  · rw [hbank]; exact hidle

/-- Words stored one after the other where the Baler's stores go through. -/
theorem State.grnWriteAll_spec (a : Nat) (ha : a % 4 = 0) (l : List Word) (k : Nat) (s : State) (hs : s.canonical)
    (h : ∀ j, j < l.length → s.Serves (a + 4 * (k + j))) :
    let t := (l.zipIdx k).foldl (fun t x => t.grnWrite 2 (a + 4 * x.2) ⟨Tag.raw, x.1⟩) s
    (∀ j, j < l.length → t.mread (a + 4 * (k + j)) = ⟨Tag.raw, l.getD j 0⟩) ∧
      ∀ x, x / 4 < a / 4 + k ∨ a / 4 + k + l.length ≤ x / 4 → t.mread x = s.mread x := by
  induction l generalizing k s with
  | nil => exact ⟨fun j hj => absurd hj (Nat.not_lt_zero j), fun _ _ => rfl⟩
  | cons w l ih =>
    have hfirst := h 0 (Nat.zero_lt_succ _)
    rw [Nat.add_zero] at hfirst
    have hquiet := State.grnWrite_quiet hfirst ⟨Tag.raw, w⟩
    obtain ⟨hnew, hold⟩ := ih (k + 1) _ (State.grnWrite_stable canonical_lasting.toStable _ _ _ hs) (fun j hj => by
      have hnext := hquiet.serves _ (h (j + 1) (Nat.succ_lt_succ hj))
      rwa [show k + (j + 1) = k + 1 + j by omega] at hnext)
    rw [List.zipIdx_cons, List.foldl_cons]
    refine ⟨fun j hj => ?_, fun x hx => ?_⟩
    · cases j with
      | zero => rw [hold _ (.inl (by omega)), State.mread_grnWrite hs hfirst, if_pos (by rw [Nat.add_zero]), List.getD_cons_zero]
      | succ j =>
        rw [show k + (j + 1) = k + 1 + j by omega, List.getD_cons_succ]
        exact hnew j (Nat.lt_of_succ_lt_succ hj)
    · rw [List.length_cons] at hx
      rw [hold x (by omega), State.mread_grnWrite hs hfirst, if_neg (by omega)]

theorem length_wordsOf (r : Bytes) : (wordsOf r).length = (r.length + 3) / 4 := by
  unfold wordsOf
  rw [List.length_map, upto_eq_range, List.length_range]

theorem BalNoted.ringWrite {t : State} (h : BalNoted s t) (hring : t.ringOk = true) {r : Bytes} (hr : r.length ≤ 4096) :
    BalNoted s (t.ringWrite r) := by
  unfold State.ringWrite
  dsimp only
  refine st_ite ?_ ?_
  · have hwords := length_wordsOf r
    refine List.foldlRecOn _ _ h (fun u hu x hx => hu.grnWrite ?_ _)
    obtain ⟨-, hlt, -⟩ := List.mem_zipIdx hx
    exact (State.ringSlot_words hring _ (by omega)).1
  · have hnoted := (h.nonOwner (t.ringSlot t.frm.frame.toNat) 2 true false).setFld F.balStatRingerr 1
    have herror : BalNoted s (State.setBal _ (fun b => { b with ringErr := true })) := hnoted.trans ⟨rfl, rfl, rfl, rfl⟩
    exact herror.raiseSource 163

/-! ### BALER_RECORD_BUILD (R528 to R533) -/

/-- The record noted, before it is kept and sent. -/
def State.recordNoted (s : State) : State :=
  let s1 := s.advance (s.frm.edgeAt + 2 * ticksPerUs)
  let r := s1.balRecord
  let s2 := (s1.setFld F.balSeq s.bal.next).setBal (fun b => { b with
    next := (b.next + 1) % 65536, built := true, len := r.1.length, trunc := b.trunc || r.2 })
  if r.2 then s2.setBit F.balStatTrunc else s2

/-- The bytes of the frame's record. -/
def State.recordBytes (s : State) : Bytes := (s.advance (s.frm.edgeAt + 2 * ticksPerUs)).balRecord.1

/-- The record kept in the ring. -/
def State.recordKept (s : State) : State := if s.bit F.balCfgRingen then s.recordNoted.ringWrite s.recordBytes else s.recordNoted

theorem State.recordNoted_spec (hs : s.canonical) : s.recordNoted.fld F.balSeq = s.bal.next % 65536 ∧
    s.recordNoted.bal.next = (s.bal.next + 1) % 65536 ∧ s.recordNoted.bal.built = true ∧ s.recordNoted.bal.len = s.recordBytes.length ∧
    s.recordNoted.count = (s.advance (s.frm.edgeAt + 2 * ticksPerUs)).count ∧
    s.keeps s.recordNoted [.bal, .count, .reg F.balSeq.addr, .reg F.balStatTrunc.addr] ∧ s.recordNoted.canonical := by
  have hcount : s.keeps (s.advance (s.frm.edgeAt + 2 * ticksPerUs)) [.bal, .count, .reg F.balSeq.addr, .reg F.balStatTrunc.addr] :=
    State.keeps_mono (s.advance_keeps _) (by simp)
  have hseq := State.canonical_setFld (s := s.advance (s.frm.edgeAt + 2 * ticksPerUs)) hs F.balSeq s.bal.next
  have hkeeps := State.keeps_setFld hcount F.balSeq s.bal.next (by simp)
  have hfld := State.fld_put (s := s.advance (s.frm.edgeAt + 2 * ticksPerUs)) hs F.balSeq s.bal.next
  unfold State.recordNoted State.recordBytes
  dsimp only
  have hnoted := State.keeps_trans hkeeps (State.setBal_keeps _ (fun b => { b with
    next := (b.next + 1) % 65536, built := true, len := (s.advance (s.frm.edgeAt + 2 * ticksPerUs)).balRecord.1.length,
    trunc := b.trunc || (s.advance (s.frm.edgeAt + 2 * ticksPerUs)).balRecord.2 })) (List.Subset.refl _) (by simp)
  split
  · refine ⟨Eq.trans ?_ hfld, rfl, rfl, rfl, rfl, State.keeps_setFld hnoted _ _ (by simp), State.canonical_setFld hseq _ _⟩
    exact State.fld_setFld_other _ _ _ _ (by decide)
  · exact ⟨hfld, rfl, rfl, rfl, rfl, hnoted, hseq⟩

theorem State.recordNoted_quiet (s : State) : Quiet s s.recordNoted := by
  have hcount : Quiet s (s.advance (s.frm.edgeAt + 2 * ticksPerUs)) := ⟨fun _ => rfl, fun _ h => ⟨h.home, h.own, h.unlocked, h.wakes, h.idle⟩⟩
  have hbal (t : State) (f : Bal → Bal) : Quiet t (t.setBal f) := ⟨fun _ => rfl, fun _ h => ⟨h.home, h.own, h.unlocked, h.wakes, h.idle⟩⟩
  have hseq (f : Bal → Bal) : Quiet s (((s.advance (s.frm.edgeAt + 2 * ticksPerUs)).setFld F.balSeq s.bal.next).setBal f) :=
    (hcount.trans (Quiet.setReg _ F.balSeq.addr _ (.inr (by decide)) (by decide))).trans (hbal _ _)
  unfold State.recordNoted
  dsimp only
  split
  · exact Quiet.trans (hseq _) (Quiet.setReg _ F.balStatTrunc.addr _ (.inr (by decide)) (by decide))
  · exact hseq _

theorem State.ringSlot_recordNoted (hs : s.canonical) (frame : Nat) : s.recordNoted.ringSlot frame = s.ringSlot frame := by
  obtain ⟨-, -, -, -, -, hkeeps, -⟩ := State.recordNoted_spec hs
  unfold State.ringSlot
  rw [State.fld_of_keeps hkeeps F.balRingAddr (by decide)]

section
variable (hruns : s.balRuns = true) (hnew : s.bal.built = false)
include hruns hnew

theorem execBalerRecordBuild_unchecked (hring : s.bit F.balCfgRingen = true) (hno : s.ringOk = false) :
    execBalerRecordBuild s = .fault (.uncheckedUse 533) := by
  unfold execBalerRecordBuild
  rw [if_neg (by simp [hruns, hnew]), if_pos ⟨hring, hno⟩]

theorem execBalerRecordBuild_quietTx (hring : s.bit F.balCfgRingen = false ∨ s.ringOk = true) (htx : s.bit F.balCfgTx = false) :
    execBalerRecordBuild s = .next s.recordKept := by
  unfold execBalerRecordBuild
  rw [if_neg (by simp [hruns, hnew]), if_neg (by rcases hring with h | h <;> simp [h])]
  exact congrArg Host.Outcome.next (if_neg (by simp [htx]))

theorem execBalerRecordBuild_noted (hring : s.bit F.balCfgRingen = false ∨ s.ringOk = true) :
    ∃ t, execBalerRecordBuild s = .next t ∧ BalNoted s.recordKept t := by
  unfold execBalerRecordBuild
  rw [if_neg (by simp [hruns, hnew]), if_neg (by rcases hring with h | h <;> simp [h])]
  refine ⟨_, rfl, ?_⟩
  have hkept := BalNoted.refl s.recordKept
  refine st_ite (BalNoted.balHand (st_ite ?_ (hkept.frags _))) hkept
  exact (hkept.frags _).sent (State.arpAsk_sent _ _)

end
end

/-! ### Reads of the ring (R409, R534) -/

/-- The Baler's block, memory, the readings and the accesses that wait at the banks stay. -/
structure RingRead (s t : State) : Prop where
  bal : t.bal = s.bal
  mem : t.mem = s.mem
  pins : t.pins = s.pins
  wait : ∀ b, (t.gbank b).wait = (s.gbank b).wait
  wf : s.canonical → t.canonical

section
variable {s t : State}

theorem RingRead.refl (s : State) : RingRead s s := ⟨rfl, rfl, rfl, fun _ => rfl, id⟩

theorem RingRead.trans {u : State} (h : RingRead s t) (h' : RingRead t u) : RingRead s u :=
  ⟨h'.bal.trans h.bal, h'.mem.trans h.mem, h'.pins.trans h.pins, fun b => (h'.wait b).trans (h.wait b), h'.wf ∘ h.wf⟩

theorem RingRead.mread (h : RingRead s t) (a : Nat) : t.mread a = s.mread a := by
  unfold State.mread
  rw [h.mem]

theorem RingRead.eccAt (h : RingRead s t) (a : Nat) : t.eccAt a = s.eccAt a := by
  unfold State.eccAt State.pin
  rw [h.pins]

/-- The accesses that wait at a bank are no matter of a reaction. -/
theorem wait_undisturbed (s : State) : Undisturbed (fun t => ∀ b, (t.gbank b).wait = (s.gbank b).wait) where
  of_eq h _ hbank _ _ _ _ _ b := by
    rw [← h b]
    unfold State.gbank
    rw [hbank]
  dom _ _ _ h := h
  wake {u} c h b := (State.wait_setGbank u c (f := fun x => { x with wakeAt := u.count, down := none }) (fun _ => rfl) b).trans (h b)
  search _ _ _ h := h

theorem RingRead.setFld (h : RingRead s t) (f : Fld) (v : Nat) : RingRead s (t.setFld f v) :=
  h.trans ⟨rfl, rfl, rfl, fun _ => rfl, fun hs => State.canonical_setFld hs f v⟩

theorem RingRead.setGbank (h : RingRead s t) (b : Nat) {f : GBank → GBank} (hf : ∀ x : GBank, (f x).wait = x.wait) :
    RingRead s (t.setGbank b f) := h.trans ⟨rfl, rfl, rfl, t.wait_setGbank b hf, id⟩

theorem RingRead.raiseSource (h : RingRead s t) (n : Nat) (hn : n < 192 := by decide) : RingRead s (t.raiseSource n) := by
  have hreact := (Reacted.refl t).raiseSource n hn
  exact h.trans ⟨hreact.services.1, hreact.mem, hreact.pins, (wait_undisturbed t).raiseSource n (fun _ => rfl),
    State.raiseSource_stable canonical_lasting.toStable n⟩

theorem RingRead.demand (h : RingRead s t) (d : Nat) (hd : d < 32) : RingRead s (t.demand d) := by
  have hreact := (Reacted.refl t).demand d hd
  exact h.trans ⟨hreact.services.1, hreact.mem, hreact.pins, (wait_undisturbed t).demand d (fun _ => rfl),
    State.demand_stable canonical_lasting.toStable d⟩

theorem RingRead.laneTurn {a : Nat} (hidle : (s.gbank (bankOf a)).wait = []) (who : Nat) : RingRead s (s.laneTurn who a) := by
  unfold State.laneTurn
  rw [State.laneServe_of_idle hidle]
  exact (RingRead.refl s).setGbank _ (fun _ => rfl)

theorem RingRead.nonOwner (h : RingRead s t) (a who : Nat) (write fetch : Bool) : RingRead s (t.nonOwner a who write fetch) := by
  have haddr := (h.setFld F.grnStatNown 1).setFld F.grnNownaAddr a
  have hinfo := ((haddr.setFld F.grnNowniWr (b2n write)).setFld F.grnNowniFetch (b2n fetch)).setFld F.grnNowniMaster who
  exact (hinfo.setGbank (bankOf a) (f := fun x => { x with nown := true }) (fun _ => rfl)).raiseSource 18

/-- A word that has no error is read as it stands. -/
theorem State.readWord_of_clean {a : Nat} (he : s.eccAt a = .clean) (hhome : inGranary a = true) (who : Nat) :
    (s.readWord who (bankOf a) (wordOf a) .clean).2 = (s.mread a, s) := by
  have hread := State.readWord_clean who hhome he
  rw [hread]
  unfold State.mread
  rw [grnAddr_word hhome]

section
variable {a : Nat} (hhome : inGranary a = true) (hidle : (s.gbank (bankOf a)).wait = [])
include hhome hidle

/-- The Baler's turn at a bank, or its demand on it. -/
theorem RingRead.turn : RingRead s (if s.domOn (16 + bankOf a) then s.laneTurn 2 a else s.demand (16 + bankOf a)) :=
  have hb := bankOf_lt hhome
  st_ite (.laneTurn hidle 2) ((RingRead.refl s).demand _ (by omega))

variable (he : s.eccAt a = .clean)
include he

theorem RingRead.grnRead : RingRead s (s.grnRead 2 a .clean).2 := by
  have hturn := RingRead.turn hhome hidle
  unfold State.grnRead
  dsimp only
  split
  · exact RingRead.nonOwner (st_ite (.laneTurn hidle 2) (RingRead.refl s)) _ _ _ _
  split
  · exact ((RingRead.refl s).setFld F.pwrStatLockacc 1).raiseSource 31
  split
  · exact (((RingRead.refl s).setGbank _ (f := fun y => { y with wakef := true }) (fun _ => rfl)).setFld F.grnStatWakef 1).raiseSource 21
  · rw [State.readWord_of_clean ((hturn.eccAt a).trans he) hhome]
    exact hturn

theorem State.grnRead_serves (h : s.Serves a) : (s.grnRead 2 a .clean).1 = s.mread a := by
  have hturn := RingRead.turn hhome hidle
  unfold State.grnRead
  dsimp only
  rw [if_neg (by simp [h.own]), if_neg (by simp [h.unlocked]), if_neg (by simp [h.wakes]),
    State.readWord_of_clean ((hturn.eccAt a).trans he) hhome]
  exact hturn.mread a

end

/-- What reads of the ring leave, where the words have no error and no other access waits; the first word read comes first. -/
theorem State.ringRead_spec {a n : Nat} (hword : ∀ j, j < n → inGranary (a + 4 * j) = true ∧ (s.gbank (bankOf (a + 4 * j))).wait = [] ∧
      s.eccAt (a + 4 * j) = .clean) :
    RingRead s (s.ringRead a n).2 ∧ (0 < n → ∃ l, (s.ringRead a n).1 = leOf 4 (s.grnRead 2 a .clean).1.val.toNat ++ l) := by
  induction n with
  | zero => exact ⟨RingRead.refl s, fun h => absurd h (Nat.lt_irrefl 0)⟩
  | succ n ih =>
    obtain ⟨hkept, hfirst⟩ := ih (fun j hj => hword j (Nat.lt_succ_of_lt hj))
    obtain ⟨hhome, hidle, hclean⟩ := hword n (Nat.lt_succ_self n)
    have hstep : s.ringRead a (n + 1) = ((s.ringRead a n).1 ++ leOf 4 ((s.ringRead a n).2.grnRead 2 (a + 4 * n) .clean).1.val.toNat,
        ((s.ringRead a n).2.grnRead 2 (a + 4 * n) .clean).2) := by
      unfold State.ringRead
      rw [upto_succ, List.foldl_append]
      rfl
    rw [hstep]
    refine ⟨hkept.trans (RingRead.grnRead hhome ((hkept.wait _).trans hidle) ((hkept.eccAt _).trans hclean)), fun _ => ?_⟩
    cases n with
    | zero => exact ⟨[], (List.nil_append _).trans (List.append_nil _).symm⟩
    | succ n =>
      obtain ⟨l, hl⟩ := hfirst (Nat.zero_lt_succ n)
      exact ⟨_, (congrArg (· ++ _) hl).trans (List.append_assoc _ _ _)⟩

end

/-! ### RECORD_REQUEST_SERVE (R534) -/

section
variable {s : State}

theorem Sent.udpSends (ip sport port pcp : Nat) (l : List Bytes) (s : State) :
    Sent s (l.foldl (fun t f => t.udpSend ip sport port pcp f) s) := by
  induction l generalizing s with
  | nil => exact Sent.refl s
  | cons f l ih => exact (s.udpSend_sent _ _ _ _ _).trans (ih _)

theorem leAt_word (x : Nat) (l : Bytes) : leAt (leOf 4 x ++ l) 0 2 = x % 65536 := by
  have hsplit : leOf 4 x = leOf 2 x ++ leOf 2 (x / 256 / 256) := rfl
  rw [hsplit, List.append_assoc]
  exact leAt_leOf 2 x _

/-- The request at the head of the queue is taken. -/
def State.requestTaken (s : State) (l : List (Nat × Nat × Nat)) : State := s.setBal (fun b => { b with reqs := l, served := b.served + 1 })

variable (hs : s.canonical) (hruns : s.balRuns = true) {ip port frame : Nat} {l : List (Nat × Nat × Nat)}
  (hreqs : s.bal.reqs = (ip, port, frame) :: l) (hserved : s.bal.served < 16)
include hruns hreqs hserved

theorem execRecordRequestServe_unchecked (hno : s.ringOk = false) : execRecordRequestServe s = .fault (.uncheckedUse 533) := by
  unfold execRecordRequestServe
  rw [hreqs]
  dsimp only
  rw [if_neg (by simp [hruns, hserved]), if_pos hno]

include hs

theorem execRecordRequestServe_serves (hring : s.ringOk = true) (hidle : (s.gbank (bankOf (s.ringSlot frame))).wait = [])
    (hclean : ∀ j, j < 1024 → s.eccAt (s.ringSlot frame + 4 * j) = .clean) :
    ∃ t, execRecordRequestServe s = .next t ∧ t.bal = { s.bal with reqs := l, served := s.bal.served + 1 } ∧ (∀ a, t.mread a = s.mread a) ∧
      (s.mayUse 2 (bankOf (s.ringSlot frame)) = true → s.domLocked (16 + bankOf (s.ringSlot frame)) = false →
        s.wakeFails (s.ringSlot frame) = false → (s.mread (s.ringSlot frame)).val.toNat % 65536 ≠ 0xBA1E →
        t.bit F.balStatReqrej = true ∧
          ∃ u : State, t = u.udpSend ip (s.fld F.balPortsSport) port (s.ethCfg F.ethVlanPcpb) (List.replicate 16 0)) := by
  have hword (j : Nat) (hj : j < 1024) : inGranary (s.ringSlot frame + 4 * j) = true ∧
      ((s.requestTaken l).gbank (bankOf (s.ringSlot frame + 4 * j))).wait = [] ∧ (s.requestTaken l).eccAt (s.ringSlot frame + 4 * j) = .clean := by
    obtain ⟨hhome, hbank⟩ := State.ringSlot_words hring frame hj
    refine ⟨hhome, ?_, hclean j hj⟩
    rw [hbank]
    exact hidle
  obtain ⟨hhead, hfirst⟩ := State.ringRead_spec (s := s.requestTaken l) (a := s.ringSlot frame) (n := 8) (fun j hj => hword j (by omega))
  unfold execRecordRequestServe
  rw [hreqs]
  dsimp only
  rw [if_neg (by simp [hruns, hserved]), if_neg (by simp [hring])]
  split
  · next hfound =>
    obtain ⟨hmark, -, -, hlen⟩ := hfound
    obtain ⟨hagain, -⟩ := State.ringRead_spec (s := ((s.requestTaken l).ringRead (s.ringSlot frame) 8).2) (a := s.ringSlot frame)
      (n := (leAt ((s.requestTaken l).ringRead (s.ringSlot frame) 8).1 6 2 + 3) / 4) (fun j hj => by
        have hroom : leAt ((s.requestTaken l).ringRead (s.ringSlot frame) 8).1 6 2 ≤ 4096 := hlen
        obtain ⟨hhome, hwait, hecc⟩ := hword j (by omega)
        exact ⟨hhome, (hhead.wait _).trans hwait, (hhead.eccAt _).trans hecc⟩)
    have hread := hhead.trans hagain
    refine ⟨_, rfl, (Sent.udpSends _ _ _ _ _ _).bal.trans hread.bal, fun a => ((Sent.udpSends _ _ _ _ _ _).mread a).trans (hread.mread a),
      fun hown hlock hwake hother => absurd ?_ hother⟩
    obtain ⟨rest, hrest⟩ := hfirst (by decide)
    obtain ⟨hhome, hwait, hecc⟩ := hword 0 (by decide)
    have hserves := State.ringSlot_serves hring hown hlock hwake hidle (show 0 < 1024 by decide)
    rw [Nat.mul_zero, Nat.add_zero] at hhome hwait hecc hserves
    have hword0 : leAt ((s.requestTaken l).ringRead (s.ringSlot frame) 8).1 0 2 = 0xBA1E := hmark
    rw [hrest, leAt_word, State.grnRead_serves (s := s.requestTaken l) hhome hwait hecc
      ⟨hserves.home, hserves.own, hserves.unlocked, hserves.wakes, hserves.idle⟩] at hword0
    exact hword0
  · have hrej := hhead.setFld F.balStatReqrej 1
    refine ⟨_, rfl, (State.udpSend_sent _ _ _ _ _ _).bal.trans hrej.bal, fun a => ((State.udpSend_sent _ _ _ _ _ _).mread a).trans (hrej.mread a),
      fun _ _ _ _ => ⟨((State.udpSend_sent _ _ _ _ _ _).bit F.balStatReqrej).trans ?_, _, rfl⟩⟩
    exact State.bit_setBit_same (hhead.wf hs) rfl (by decide)

end

section
variable {s : State}

theorem State.recordNoted_same (s : State) : s.recordNoted.frm = s.frm ∧ s.recordNoted.mem = s.mem := by
  unfold State.recordNoted
  dsimp only
  split <;> exact ⟨rfl, rfl⟩

theorem State.ringOk_recordNoted (hs : s.canonical) : s.recordNoted.ringOk = s.ringOk := by
  unfold State.ringOk
  rw [State.ringSlot_recordNoted hs, State.ringSlot_recordNoted hs]

theorem State.recordBytes_length (s : State) : s.recordBytes.length ≤ 4096 := (State.balRecord_fields _).2.2.2

/-- What keeping the record leaves. -/
theorem State.recordKept_noted (hs : s.canonical) (hring : s.bit F.balCfgRingen = false ∨ s.ringOk = true) :
    BalNoted s.recordNoted s.recordKept := by
  unfold State.recordKept
  split
  · next hon =>
    have hok : s.ringOk = true := hring.resolve_left (by simp [hon])
    exact BalNoted.ringWrite (.refl _) ((State.ringOk_recordNoted hs).trans hok) s.recordBytes_length
  · exact .refl _

/-- The record in its slot of the ring. -/
theorem State.recordKept_ring (hs : s.canonical) (hring : s.bit F.balCfgRingen = true)
    (hserves : ∀ j, j < 1024 → s.Serves (s.ringSlot s.frm.frame.toNat + 4 * j)) :
    (∀ j, j < (wordsOf s.recordBytes).length →
      s.recordKept.mread (s.ringSlot s.frm.frame.toNat + 4 * j) = ⟨Tag.raw, (wordsOf s.recordBytes).getD j 0⟩) ∧
    ∀ a, a / 4 < s.ringSlot s.frm.frame.toNat / 4 ∨ s.ringSlot s.frm.frame.toNat / 4 + (wordsOf s.recordBytes).length ≤ a / 4 →
      s.recordKept.mread a = s.mread a := by
  obtain ⟨-, -, -, -, -, -, hcanon⟩ := State.recordNoted_spec hs
  obtain ⟨hfrm, hmem⟩ := s.recordNoted_same
  have hwords := length_wordsOf s.recordBytes
  have hroom := s.recordBytes_length
  have haligned := ringSlot_aligned s s.frm.frame.toNat
  have hown := (s.recordNoted_quiet.serves _ (hserves 0 (by decide))).own
  obtain ⟨hnew, hold⟩ := State.grnWriteAll_spec (s.ringSlot s.frm.frame.toNat) (by omega) (wordsOf s.recordBytes) 0 s.recordNoted hcanon
    (fun j hj => by
      rw [Nat.zero_add]
      exact s.recordNoted_quiet.serves _ (hserves j (by omega)))
  rw [Nat.mul_zero, Nat.add_zero] at hown
  unfold State.recordKept State.ringWrite
  dsimp only
  rw [if_pos hring, hfrm, State.ringSlot_recordNoted hs, if_pos hown]
  refine ⟨fun j hj => ?_, fun a ha => (hold a ha).trans ?_⟩
  · have hj' := hnew j hj
    rwa [Nat.zero_add] at hj'
  · unfold State.mread
    rw [hmem]

end

/-- Settles O51: the build by `State.recordNoted`, the ring by the Baler's stores that go through, the service by reads of the ring. -/
theorem balerSteps : Obligations.BalerSteps := by
  refine ⟨fun s hno => ⟨if_pos (.inl hno), ?_⟩, fun s hs hruns => ?_⟩
  · show execRecordRequestServe s = _
    unfold execRecordRequestServe
    split
    · rfl
    · exact if_pos (.inl hno)
  · intro s1 r slot
    obtain ⟨hseq, hnext, hbuilt, hlen, hcount, hkeeps, hcanon⟩ := State.recordNoted_spec hs
    refine ⟨fun hdone => if_pos (.inr hdone), s1.balRecord_fields, fun hnew hring htx => ?_, fun hnew hring hok htx hown hlock hwake hidle => ?_,
      fun hnew hring => ?_, fun hnew hring hno => execBalerRecordBuild_unchecked hruns hnew hring hno, fun hnone => ?_,
      fun ip port frame l hreqs hserved => ⟨fun hno => execRecordRequestServe_unchecked hruns hreqs hserved hno,
        fun hok hidle hclean => execRecordRequestServe_serves hs hruns hreqs hserved hok hidle hclean⟩⟩
    · refine ⟨_, execBalerRecordBuild_quietTx hruns hnew (.inl hring) htx, ?_⟩
      rw [State.recordKept, if_neg (by simp [hring])]
      exact ⟨hseq, hnext, hbuilt, hlen, hcount, hkeeps⟩
    · have hnoted := State.recordKept_noted hs (.inr hok)
      obtain ⟨hnew', hold⟩ := State.recordKept_ring hs hring (fun j hj => State.ringSlot_serves hok hown hlock hwake hidle hj)
      exact ⟨_, execBalerRecordBuild_quietTx hruns hnew (.inr hok) htx, hnoted.built.trans hbuilt, hnoted.len.trans hlen, hnew', hold⟩
    · obtain ⟨t, hexec, hsent⟩ := execBalerRecordBuild_noted hruns hnew hring
      have hnoted := (State.recordKept_noted hs hring).trans hsent
      exact ⟨t, hexec, hnoted.next.trans hnext, hnoted.built.trans hbuilt, hnoted.len.trans hlen, hnoted.count.trans hcount⟩
    · show execRecordRequestServe s = _
      unfold execRecordRequestServe
      split
      · rfl
      · next hreqs => exact if_pos (.inr (hnone.resolve_left (by rw [hreqs]; exact List.cons_ne_nil _ _)))

end Sys2Proof.Machine
end

section
/-!
PROOFS. The supply groups, reversals and logic dips (O44).
-/

/- One proof at a time: the check of the whole text comes near its limit of memory. -/
set_option Elab.async false

namespace Sys2Proof.Machine

/-! ### What neither a reaction nor the loss of a domain's contents changes -/

/-- The time, the frame's pause, the groups, the held accesses and the state of every domain stay. -/
structure DipKept (s t : State) : Prop where
  count : t.count = s.count
  frame : t.frm.frame = s.frm.frame
  slot : t.frm.slot = s.frm.slot
  pending : t.pending = s.pending
  grp : t.pwr.grp = s.pwr.grp
  pause : t.pwr.pause = s.pwr.pause
  stalled : t.pwr.stalled = s.pwr.stalled
  dom : ∀ d, (nth t.pwr.dom d {}).st = (nth s.pwr.dom d {}).st ∧ (nth t.pwr.dom d {}).before = (nth s.pwr.dom d {}).before ∧
    (s.inDip = true → (nth t.pwr.dom d {}).waking = (nth s.pwr.dom d {}).waking)

theorem State.inDip_of_pause {s t : State} (h : t.pwr.pause = s.pwr.pause) : t.inDip = s.inDip := by
  unfold State.inDip
  rw [h]

/-- A domain's state and its waking in a dip, and the held accesses, are no matter of a reaction. -/
theorem dom_undisturbed (s : State) : Undisturbed (fun t => t.pwr.pause = s.pwr.pause ∧ t.pwr.stalled = s.pwr.stalled ∧
    ∀ d, (nth t.pwr.dom d {}).st = (nth s.pwr.dom d {}).st ∧ (nth t.pwr.dom d {}).before = (nth s.pwr.dom d {}).before ∧
      (s.inDip = true → (nth t.pwr.dom d {}).waking = (nth s.pwr.dom d {}).waking)) where
  of_eq h hdom _ _ _ _ hpause hstalled := ⟨hpause.trans h.1, hstalled.trans h.2.1, by rw [hdom]; exact h.2.2⟩
  dom {t} e f hf h := by
    obtain ⟨hpause, hstalled, hdom⟩ := h
    refine ⟨hpause, hstalled, fun d => ?_⟩
    show (nth (updN t.pwr.dom e f) d {}).st = _ ∧ (nth (updN t.pwr.dom e f) d {}).before = _ ∧
      (_ → (nth (updN t.pwr.dom e f) d {}).waking = _)
    obtain ⟨hst, hbefore, hwaking⟩ := hdom d
    rw [nth_updN]
    split
    · obtain ⟨hst', hbefore', hwaking'⟩ := hf (nth t.pwr.dom d {})
      exact ⟨hst'.trans hst, hbefore'.trans hbefore,
        fun hd => (hwaking' ((State.inDip_of_pause hpause).trans hd)).trans (hwaking hd)⟩
    · exact ⟨hst, hbefore, hwaking⟩
  wake _ h := h
  search _ _ _ h := h

section
variable {s t : State}

theorem DipKept.refl (s : State) : DipKept s s := ⟨rfl, rfl, rfl, rfl, rfl, rfl, rfl, fun _ => ⟨rfl, rfl, fun _ => rfl⟩⟩

theorem DipKept.trans {u : State} (h : DipKept s t) (h' : DipKept t u) : DipKept s u :=
  ⟨h'.count.trans h.count, h'.frame.trans h.frame, h'.slot.trans h.slot, h'.pending.trans h.pending, h'.grp.trans h.grp,
    h'.pause.trans h.pause, h'.stalled.trans h.stalled, fun d => ⟨(h'.dom d).1.trans (h.dom d).1, (h'.dom d).2.1.trans (h.dom d).2.1,
      fun hd => ((h'.dom d).2.2 ((State.inDip_of_pause h.pause).trans hd)).trans ((h.dom d).2.2 hd)⟩⟩

/-- A change of none of these. -/
theorem DipKept.same {u : State} (h : DipKept s t) (hcount : u.count = t.count := by rfl) (hfrm : u.frm.frame = t.frm.frame := by rfl)
    (hslot : u.frm.slot = t.frm.slot := by rfl) (hpend : u.pending = t.pending := by rfl) (hpwr : u.pwr = t.pwr := by rfl) : DipKept s u :=
  h.trans ⟨hcount, hfrm, hslot, hpend, by rw [hpwr], by rw [hpwr], by rw [hpwr], fun d => by rw [hpwr]; exact ⟨rfl, rfl, fun _ => rfl⟩⟩

theorem DipKept.reacted {u : State} (h : DipKept s t) (k : Reacted t u) (hdom : u.pwr.pause = t.pwr.pause ∧ u.pwr.stalled = t.pwr.stalled ∧
    ∀ d, (nth u.pwr.dom d {}).st = (nth t.pwr.dom d {}).st ∧ (nth u.pwr.dom d {}).before = (nth t.pwr.dom d {}).before ∧
      (t.inDip = true → (nth u.pwr.dom d {}).waking = (nth t.pwr.dom d {}).waking)) : DipKept s u :=
  h.trans ⟨k.count, k.frame, k.slot, k.pending, k.grp, hdom.1, hdom.2.1, hdom.2.2⟩

theorem DipKept.raiseSource (h : DipKept s t) (n : Nat) (hn : n < 192 := by decide) : DipKept s (t.raiseSource n) :=
  h.reacted ((Reacted.refl t).raiseSource n hn)
    ((dom_undisturbed t).raiseSource n ⟨rfl, rfl, fun _ => ⟨rfl, rfl, fun _ => rfl⟩⟩)

theorem DipKept.raiseEvent (h : DipKept s t) (n : Nat) (hn : n < 128 := by decide) : DipKept s (t.raiseEvent n) :=
  h.reacted ((Reacted.refl t).raiseEvent n hn)
    ((dom_undisturbed t).raiseEvent n ⟨rfl, rfl, fun _ => ⟨rfl, rfl, fun _ => rfl⟩⟩)

theorem DipKept.demand (h : DipKept s t) (d : Nat) (hd : d < 32) : DipKept s (t.demand d) :=
  h.reacted ((Reacted.refl t).demand d hd) ((dom_undisturbed t).demand d ⟨rfl, rfl, fun _ => ⟨rfl, rfl, fun _ => rfl⟩⟩)

/-! #### What a domain loses (R433) and leaves behind (R434, R459, R503) -/

theorem DipKept.freeze (h : DipKept s t) (d : Nat) : DipKept s (t.freeze d) := st_foldl (P := DipKept s) (fun _ _ k => k.same) h

theorem DipKept.ledCountAll (h : DipKept s t) : DipKept s t.ledCountAll := st_forEach (P := DipKept s) (fun _ _ k => k.same) h

theorem DipKept.setFld (h : DipKept s t) (f : Fld) (v : Nat) : DipKept s (t.setFld f v) := h.same

theorem DipKept.setCan (h : DipKept s t) (n : Nat) (f : Can → Can) : DipKept s (t.setCan n f) := h.same

theorem DipKept.setSec (h : DipKept s t) (f : Sec → Sec) : DipKept s (t.setSec f) := h.same

theorem DipKept.canCause (h : DipKept s t) {n : Nat} (hn : n < 6) (c : Nat) : DipKept s (t.canCause n c) :=
  st_ite ((h.setFld _ _).raiseEvent (50 + n) (by omega)) h

theorem DipKept.accCause (h : DipKept s t) (c : Nat) : DipKept s (t.accCause c) := st_ite ((h.setFld _ _).raiseEvent 74) h

theorem DipKept.linkEvent (h : DipKept s t) (p : Nat) : DipKept s (t.linkEvent p) := st_ite ((h.setFld _ _).raiseEvent 60) h

theorem DipKept.linkDown (h : DipKept s t) {p : Nat} (hp : p < 2) : DipKept s (t.linkDown p) := by
  unfold State.linkDown
  refine st_ite h ?_
  extract_lets n s1 s2 s3
  have hdrop : DipKept s s1 := DipKept.same (t := t) h
  have hdown : DipKept s s3 := st_ite ((hdrop.setFld _ _).setFld _ _) (hdrop.setFld _ _)
  exact st_ite ((hdown.raiseSource (160 + p) (by omega)).linkEvent p) hdown

theorem DipKept.ethLeaves (h : DipKept s t) : DipKept s t.ethLeaves := (h.linkDown (by decide)).linkDown (by decide)

theorem DipKept.canLost (h : DipKept s t) (n : Nat) (b : Bool) : DipKept s (t.canLost n b) := st_ite h.same h

theorem DipKept.takeShadow (h : DipKept s t) {n : Nat} (hn : n < 6) (o : Nat) (b : Bool) : DipKept s (t.takeShadow n o b) := by
  unfold State.takeShadow
  dsimp only
  split
  · exact h
  · exact st_ite ((DipKept.same (t := t) h).canCause hn 0) h.same

theorem DipKept.abandon (h : DipKept s t) {n : Nat} (hn : n < 6) (who : Nat) : DipKept s (t.abandon n who) := by
  unfold State.abandon
  split
  · exact h
  · exact st_ite (h.setCan _ _) (((h.setCan _ _).canLost _ _).takeShadow hn _ _)

theorem DipKept.canLeaves (h : DipKept s t) : DipKept s t.canLeaves := by
  have hlocks : DipKept s (forEach 4 State.abandonAll t) :=
    st_forEach (P := DipKept s) (fun _ _ k => st_forEach_lt (P := DipKept s) (fun _ _ hn k => k.abandon hn _) k) h
  exact st_forEach (P := DipKept s) (fun _ _ k => k.setCan _ _) hlocks

theorem DipKept.vsOff (h : DipKept s t) : DipKept s t.vsOff := st_forEach (P := DipKept s) (fun _ _ k => k.same) h

theorem DipKept.ledOff (h : DipKept s t) : DipKept s t.ledOff := st_forEach (P := DipKept s) (fun _ _ k => k.same) h.ledCountAll

theorem DipKept.plOff (h : DipKept s t) : DipKept s t.plOff := st_forEach (P := DipKept s) (fun _ _ k => k.same) h

theorem DipKept.setInp (h : DipKept s t) (i : Inp) : DipKept s { t with inp := i } := h.same

theorem DipKept.dropSamples (h : DipKept s t) : DipKept s t.dropSamples := by
  unfold State.dropSamples
  extract_lets s1
  have hdropped : DipKept s s1 := st_forEach (P := DipKept s) (fun _ _ k => k.same) h
  exact hdropped.setInp _

/-- What a domain leaves behind, before it takes its state. -/
theorem State.leaveOn_kept (s : State) (d : Nat) (q : DomSt) : ∃ u, DipKept s u ∧ s.leaveOn d q =
    if 16 ≤ d then u.setBankState (d - 16) q else u.setDom d (fun x => { x with st := q, waking := false, down := none }) := by
  unfold State.leaveOn
  extract_lets s1 s2
  refine ⟨s2, ?_, rfl⟩
  have h : DipKept s s1 := (DipKept.refl s).freeze d
  refine st_ite h.canLeaves (st_ite (st_forEach (P := DipKept s) (fun _ _ k => k.same) h) (st_ite h.ethLeaves (st_ite h.ledOff
    (st_ite h.vsOff.dropSamples (st_ite h.plOff (st_ite ?_ h))))))
  exact st_forEach (P := DipKept s) (fun _ _ k => st_ite k.same k) h

theorem DipKept.laneTest (h : DipKept s t) (c : Nat) : DipKept s (t.laneTest c) := st_ite (h.raiseSource 4) h

theorem DipKept.mclear (h : DipKept s t) (lo hi : Nat) : DipKept s (t.mclear lo hi) := h.same

theorem DipKept.setCore (h : DipKept s t) (c : Fin 2) (f : Core → Core) : DipKept s (t.setCore c f) := h.same

theorem DipKept.coreLost (h : DipKept s t) (c : Fin 2) : DipKept s (t.coreLost c) := (((h.mclear _ _).mclear _ _).setCore c _).laneTest c

theorem DipKept.attr (h : DipKept s t) (k loaded type use : Nat) (f : Sec → Sec) : DipKept s
    (((((t.nextGen k).setFld (F.secKattrLoaded k) loaded).setFld (F.secKattrType k) type).setFld (F.secKattrUse k) use).setSec f) :=
  ((((h.setFld _ _).setFld _ _).setFld _ _).setFld _ _).setSec _

theorem DipKept.loadKey (h : DipKept s t) (k type use : Nat) (key : Bytes) : DipKept s (t.loadKey k type use key) := h.attr _ _ _ _ _

theorem DipKept.loadDeviceKeys (h : DipKept s t) : DipKept s t.loadDeviceKeys := by
  unfold State.loadDeviceKeys
  extract_lets put s1 s2 s3
  have hput {t : State} (h : DipKept s t) (k r n type use : Nat) (key : Bytes) : DipKept s (put t k r n type use key) :=
    st_ite (h.loadKey _ _ _ _) h
  exact hput (hput (hput (hput h _ _ _ _ _ _) _ _ _ _ _ _) _ _ _ _ _ _) _ _ _ _ _ _

theorem DipKept.secLost (h : DipKept s t) : DipKept s t.secLost :=
  (DipKept.loadDeviceKeys (st_forEach (P := DipKept s) (fun _ _ k => k.attr _ _ _ _ _) h)).setSec _

theorem DipKept.prsLost (h : DipKept s t) : DipKept s t.prsLost :=
  st_forEach (P := DipKept s) (fun _ _ k => k.same) (st_forEach (P := DipKept s) (fun _ _ k => k.setFld _ _) h)

theorem DipKept.canWake (h : DipKept s t) (off : Bool) : DipKept s (t.canWake off) := by
  refine st_forEach_lt (P := DipKept s) (fun u n hn k => ?_) h
  exact st_ite (k.setCan _ _) ((k.setCan _ _).canCause hn 3)

theorem DipKept.accLost (h : DipKept s t) : DipKept s t.accLost :=
  have hcut : DipKept s (t.setAcc (fun a => { a with srch := {} })) := h.same
  st_ite hcut (hcut.accCause 2)

theorem DipKept.lost (h : DipKept s t) (d : Nat) : DipKept s (t.lost d) := by
  have hsw (d : Nat) : DipKept s (t.swWake d) := st_forEach (P := DipKept s) (fun _ _ k => st_ite k.same k) h
  unfold State.lost
  split
  · exact h.coreLost 0
  · exact h.coreLost 1
  · exact hsw 3
  · exact hsw 4
  · exact hsw 5
  · exact h.prsLost.mclear _ _
  · exact st_forEach (P := DipKept s) (fun _ _ k => k.same) h
  · exact st_forEach (P := DipKept s) (fun _ _ k => k.same) h
  · exact h.canWake true
  · exact h.same
  · exact h.same
  · exact h.accLost
  · exact h.secLost
  · exact h

theorem DipKept.loaderStore (h : DipKept s t) : DipKept s t.loaderStore := by
  have hstored : DipKept s (t.prs.copy.foldl (fun t p => t.setUcode p.1 p.2.1 p.2.2) t) := st_foldl (P := DipKept s) (fun _ _ k => k.same) h
  exact DipKept.same (t := State.loaderWrite t) (DipKept.same (t := List.foldl _ t _) hstored)

theorem DipKept.movePx (h : DipKept s t) (x : Nat) : DipKept s (t.movePx x) := h.same

theorem DipKept.prsThaw (h : DipKept s t) (n : Nat) : DipKept s (t.prsThaw n) := st_forEach (P := DipKept s) (fun _ _ k => k.same) h

end

/-! ### One domain at a time -/

/-- Domain `d` alone, of what `DipKept` speaks of, has changed. -/
structure DomMoved (d : Nat) (s t : State) : Prop where
  count : t.count = s.count
  frame : t.frm.frame = s.frm.frame
  slot : t.frm.slot = s.frm.slot
  pending : t.pending = s.pending
  grp : t.pwr.grp = s.pwr.grp
  pause : t.pwr.pause = s.pwr.pause
  stalled : t.pwr.stalled = s.pwr.stalled
  dom : ∀ e, e ≠ d → (nth t.pwr.dom e {}).st = (nth s.pwr.dom e {}).st ∧ (nth t.pwr.dom e {}).before = (nth s.pwr.dom e {}).before ∧
    (s.inDip = true → (nth t.pwr.dom e {}).waking = (nth s.pwr.dom e {}).waking)

section
variable {s t : State} {d : Nat}

theorem DipKept.moved (h : DipKept s t) (d : Nat) : DomMoved d s t :=
  ⟨h.count, h.frame, h.slot, h.pending, h.grp, h.pause, h.stalled, fun e _ => h.dom e⟩

theorem DomMoved.trans {u : State} (h : DomMoved d s t) (h' : DomMoved d t u) : DomMoved d s u :=
  ⟨h'.count.trans h.count, h'.frame.trans h.frame, h'.slot.trans h.slot, h'.pending.trans h.pending, h'.grp.trans h.grp,
    h'.pause.trans h.pause, h'.stalled.trans h.stalled, fun e he => ⟨(h'.dom e he).1.trans (h.dom e he).1, (h'.dom e he).2.1.trans (h.dom e he).2.1,
      fun hd => ((h'.dom e he).2.2 ((State.inDip_of_pause h.pause).trans hd)).trans ((h.dom e he).2.2 hd)⟩⟩

theorem State.setDom_moved (s : State) (d : Nat) (f : Dom → Dom) : DomMoved d s (s.setDom d f) := by
  refine ⟨rfl, rfl, rfl, rfl, rfl, rfl, rfl, fun e he => ?_⟩
  show (nth (updN s.pwr.dom d f) e {}).st = _ ∧ (nth (updN s.pwr.dom d f) e {}).before = _ ∧
    (_ → (nth (updN s.pwr.dom d f) e {}).waking = _)
  rw [nth_updN_other _ _ _ _ _ (Ne.symm he)]
  exact ⟨rfl, rfl, fun _ => rfl⟩

theorem State.dom_setDom (s : State) (hd : d < 32) (f : Dom → Dom) : nth (s.setDom d f).pwr.dom d {} = f (nth s.pwr.dom d {}) :=
  nth_updN_same _ _ _ _ hd

theorem State.setBankState_moved (s : State) (b : Nat) (q : DomSt) : DomMoved (16 + b) s (s.setBankState b q) := by
  have hset := s.setDom_moved (16 + b) (fun x => { x with st := q, waking := false })
  unfold State.setBankState
  dsimp only
  split
  · exact hset.trans ((DipKept.same (DipKept.refl _)).moved _)
  · exact hset

theorem State.st_setBankState (s : State) {b : Nat} (hb : 16 + b < 32) (q : DomSt) : (nth (s.setBankState b q).pwr.dom (16 + b) {}).st = q := by
  have hset := congrArg Dom.st (s.dom_setDom hb (fun x => { x with st := q, waking := false }))
  unfold State.setBankState
  dsimp only
  split <;> exact hset

/-- A domain leaves ON. -/
theorem State.leaveOn_spec (s : State) (hd : d < 32) (q : DomSt) : DomMoved d s (s.leaveOn d q) ∧ (nth (s.leaveOn d q).pwr.dom d {}).st = q := by
  obtain ⟨u, hu, hleave⟩ := s.leaveOn_kept d q
  rw [hleave]
  split
  · next hbank =>
    obtain ⟨b, rfl⟩ : ∃ b, d = 16 + b := ⟨d - 16, by omega⟩
    rw [Nat.add_sub_cancel_left]
    exact ⟨(hu.moved _).trans (u.setBankState_moved b q), u.st_setBankState hd q⟩
  · exact ⟨(hu.moved _).trans (u.setDom_moved d _), congrArg Dom.st (u.dom_setDom hd _)⟩

/-- A domain reaches ON. -/
theorem State.wakeDone_spec (s : State) (hd : d < 32) : DomMoved d s (s.wakeDone d) ∧ (nth (s.wakeDone d).pwr.dom d {}).st = .on := by
  unfold State.wakeDone
  extract_lets was s0 s1 s2
  have h0 : DipKept s s0 := st_ite (DipKept.refl s).ledCountAll (DipKept.refl s)
  have h1 : DomMoved d s s1 := (h0.moved d).trans (s0.setDom_moved d _)
  have hon : (nth s1.pwr.dom d {}).st = .on := congrArg Dom.st (s0.dom_setDom hd _)
  have h2 : DipKept s1 s2 := st_ite ((DipKept.refl s1).lost d) (st_ite ((DipKept.refl s1).canWake false) (DipKept.refl s1))
  have h3 : DipKept s1 (if d = 1 ∨ d = 2 then s2.jobsWake (d - 1) else if d = domPress then s2.loaderStore else s2) :=
    st_ite h2.same (st_ite h2.loaderStore h2)
  exact ⟨h1.trans (h3.moved d), (h3.dom d).1.trans hon⟩

/-! ### The beginning of a dip (R425) -/

theorem State.dipDomain_awake (s : State) (hd : d < 32) (hw : (nth s.pwr.dom d {}).waking = false) : d ≠ 0 →
    (nth (s.dipDomain d).pwr.dom d {}).st = if (nth s.pwr.dom d {}).st = .on then .ret else (nth s.pwr.dom d {}).st := by
  intro h0
  unfold State.dipDomain
  dsimp only
  rw [if_neg h0, if_neg (by simp [hw])]
  split
  · obtain ⟨-, hst⟩ := s.leaveOn_spec hd .ret
    exact (congrArg Dom.st ((s.leaveOn d .ret).dom_setDom hd
      (fun y => { y with before := .on, held := false, down := (nth s.pwr.dom d {}).down }))).trans hst
  · have hset := s.dom_setDom hd (fun y => { y with before := (nth s.pwr.dom d {}).st, held := false })
    exact (congrArg Dom.st hset :)

theorem State.goTo_ret_moved (s : State) (hd : d < 32) : DomMoved d s (s.goTo d .ret) := by
  unfold State.goTo
  split
  · exact (s.leaveOn_spec hd .ret).1
  · exact (((DipKept.refl s).lost d).moved d).trans (State.setDom_moved _ d _)
  · exact s.setDom_moved d _

theorem State.dipDomain_moved (s : State) (hd : d < 32) : DomMoved d s (s.dipDomain d) := by
  unfold State.dipDomain
  dsimp only
  refine st_ite ((DipKept.refl s).moved d) (st_ite ?_ (st_ite ?_ (s.setDom_moved d _)))
  · exact (s.goTo_ret_moved hd).trans (State.setDom_moved _ d _)
  · exact (s.leaveOn_spec hd .ret).1.trans (State.setDom_moved _ d _)

end

section
variable {s t : State} {d : Nat}

/-! ### All domains in turn -/

/-- The first `n` domains alone have changed. -/
structure DomsMoved (n : Nat) (s t : State) : Prop where
  count : t.count = s.count
  frame : t.frm.frame = s.frm.frame
  slot : t.frm.slot = s.frm.slot
  pending : t.pending = s.pending
  grp : t.pwr.grp = s.pwr.grp
  pause : t.pwr.pause = s.pwr.pause
  stalled : t.pwr.stalled = s.pwr.stalled
  dom : ∀ e, n ≤ e → (nth t.pwr.dom e {}).st = (nth s.pwr.dom e {}).st ∧ (nth t.pwr.dom e {}).before = (nth s.pwr.dom e {}).before ∧
    (s.inDip = true → (nth t.pwr.dom e {}).waking = (nth s.pwr.dom e {}).waking)

theorem DipKept.movedAll (h : DipKept s t) (n : Nat) : DomsMoved n s t :=
  ⟨h.count, h.frame, h.slot, h.pending, h.grp, h.pause, h.stalled, fun e _ => h.dom e⟩

theorem DomsMoved.step {u : State} {n : Nat} (h : DomsMoved n s t) (h' : DomMoved n t u) : DomsMoved (n + 1) s u := by
  refine ⟨h'.count.trans h.count, h'.frame.trans h.frame, h'.slot.trans h.slot, h'.pending.trans h.pending, h'.grp.trans h.grp,
    h'.pause.trans h.pause, h'.stalled.trans h.stalled, fun e he => ?_⟩
  obtain ⟨hst, hbefore, hwaking⟩ := h.dom e (by omega)
  obtain ⟨hst', hbefore', hwaking'⟩ := h'.dom e (by omega)
  exact ⟨hst'.trans hst, hbefore'.trans hbefore, fun hd => (hwaking' ((State.inDip_of_pause h.pause).trans hd)).trans (hwaking hd)⟩

theorem DomsMoved.kept {u : State} {n : Nat} (h : DomsMoved n s t) (h' : DipKept t u) : DomsMoved n s u := by
  refine ⟨h'.count.trans h.count, h'.frame.trans h.frame, h'.slot.trans h.slot, h'.pending.trans h.pending, h'.grp.trans h.grp,
    h'.pause.trans h.pause, h'.stalled.trans h.stalled, fun e he => ?_⟩
  obtain ⟨hst, hbefore, hwaking⟩ := h.dom e he
  obtain ⟨hst', hbefore', hwaking'⟩ := h'.dom e
  exact ⟨hst'.trans hst, hbefore'.trans hbefore, fun hd => (hwaking' ((State.inDip_of_pause h.pause).trans hd)).trans (hwaking hd)⟩

/-- The state that a domain has in a dip, when none was waking. -/
def dippedSt (q : DomSt) : DomSt := if q = .on then .ret else q

/-- A dip begins: every domain that is ON enters RET (R425). -/
theorem State.dipDomains_spec (s : State) (hdip : s.inDip = true) : DomsMoved 32 s (forEach 32 State.dipDomain s) ∧
    ((∀ d, d < 32 → (nth s.pwr.dom d {}).waking = false) → ∀ d, d ≠ 0 → d < 32 →
      (nth (forEach 32 State.dipDomain s).pwr.dom d {}).st = dippedSt (nth s.pwr.dom d {}).st) := by
  refine forEach_induct (Q := fun n t => DomsMoved n s t ∧ ((∀ d, d < 32 → (nth s.pwr.dom d {}).waking = false) → ∀ d, d ≠ 0 → d < n →
    (nth t.pwr.dom d {}).st = dippedSt (nth s.pwr.dom d {}).st)) ⟨(DipKept.refl s).movedAll 0, fun _ d _ hd => absurd hd (by omega)⟩
    fun n t hn ⟨hmoved, hst⟩ => ?_
  have hstep := t.dipDomain_moved hn
  refine ⟨hmoved.step hstep, fun hawake d h0 hd => ?_⟩
  obtain ⟨hstn, -, hwn⟩ := hmoved.dom n le_rfl
  rcases Nat.lt_succ_iff_lt_or_eq.mp hd with hlt | rfl
  · exact (hstep.dom d (by omega)).1.trans (hst hawake d h0 hlt)
  · rw [t.dipDomain_awake hn ((hwn hdip).trans (hawake d hn)) h0, hstn, dippedSt]

/-! ### The end of a dip (R426) -/

theorem State.undipDomain_moved (s : State) (hd : d < 32) : DomMoved d s (s.undipDomain d) := by
  unfold State.undipDomain
  dsimp only
  have hset (u : State) (h : DomMoved d s u) (hold : Bool) : DomMoved d s (if hold then (u.setDom d (fun y => { y with held := false })).demand d
      else u.setDom d (fun y => { y with held := false })) := by
    have hu := h.trans (u.setDom_moved d (fun y => { y with held := false }))
    exact st_ite (hu.trans (((DipKept.refl _).demand d hd).moved d)) hu
  split
  · exact (DipKept.refl s).moved d
  · exact hset _ (st_ite (s.wakeDone_spec hd).1 ((DipKept.refl s).moved d)) _

/-- A domain that was ON is ON again. -/
theorem State.undipDomain_on (s : State) (hd : d < 32) (h0 : d ≠ 0) (hon : (nth s.pwr.dom d {}).before = .on) :
    (nth (s.undipDomain d).pwr.dom d {}).st = .on := by
  unfold State.undipDomain
  dsimp only
  rw [if_neg h0, if_pos hon]
  have hset : (nth ((s.wakeDone d).setDom d (fun y => { y with held := false })).pwr.dom d {}).st = .on :=
    (congrArg Dom.st ((s.wakeDone d).dom_setDom hd (fun y => { y with held := false }))).trans (s.wakeDone_spec hd).2
  split
  · exact (((DipKept.refl _).demand d hd).dom d).1.trans hset
  · exact hset

theorem State.undipDomains_spec (s : State) : DomsMoved 32 s (forEach 32 State.undipDomain s) ∧
    ∀ d, d ≠ 0 → d < 32 → (nth s.pwr.dom d {}).before = .on → (nth (forEach 32 State.undipDomain s).pwr.dom d {}).st = .on := by
  refine forEach_induct (Q := fun n t => DomsMoved n s t ∧ ∀ d, d ≠ 0 → d < n → (nth s.pwr.dom d {}).before = .on →
    (nth t.pwr.dom d {}).st = .on) ⟨(DipKept.refl s).movedAll 0, fun d _ hd => absurd hd (by omega)⟩ fun n t hn ⟨hmoved, hst⟩ => ?_
  have hstep := t.undipDomain_moved hn
  refine ⟨hmoved.step hstep, fun d h0 hd hon => ?_⟩
  rcases Nat.lt_succ_iff_lt_or_eq.mp hd with hlt | rfl
  · exact (hstep.dom d (by omega)).1.trans (hst d h0 hlt hon)
  · exact t.undipDomain_on hn h0 ((hmoved.dom d le_rfl).2.1.trans hon)

theorem State.clocksRun_of_resume {a : Int} {b : Bool} {n : Nat} (h : s.pwr.pause = .resume a b (some n)) : s.clocksRun = !s.unpowered := by
  unfold State.clocksRun
  rw [h]
  exact Bool.and_true _

theorem State.clocksRun_of_dip {n : Nat} (h : s.pwr.pause = .dip n) : s.clocksRun = false := by
  unfold State.clocksRun
  rw [h]
  exact Bool.and_false _

end

/-! ### A group's outputs held off (R421, R423) -/

section
variable (s : State) (g : Fin 3) (mv : Int)

/-- A group's reading is taken, and its outputs are held off for the cause `f` notes. -/
theorem State.heldOff_spec (f : Grp → Grp) : ((s.setPin (.vbat g) mv).holdOff g f).pin (.vbat g) = mv ∧
    ((s.setPin (.vbat g) mv).holdOff g f).grp g = f (s.grp g) ∧
    s.keeps ((s.setPin (.vbat g) mv).holdOff g f) (.pin (.vbat g) :: heldOffParts g) := by
  have hheld := (s.setPin (.vbat g) mv).holdOff_keeps g f
  refine ⟨?_, (s.setPin (.vbat g) mv).grp_holdOff f g.isLt, ?_⟩
  · have hpin := hheld.2 (.pin (.vbat g)) (by unfold heldOffParts; split <;> simp)
    exact hpin.trans (s.pin_setPin_same _ _)
  · exact State.keeps_trans (s.setPin_keeps (.vbat g) mv) hheld (by simp) (List.subset_cons_self _ _)

end

/-! ### The moments (R421 to R427) -/

section
variable (g : Fin 3) (mv : Int) (s : State)

/-- What holding a group's outputs off leaves, with the parts listed. -/
theorem State.heldOff_leaves (f : Grp → Grp) : s.keeps ((s.setPin (.vbat g) mv).holdOff g f)
    (.pin (.vbat g) :: .grp g :: (upto 24).map .led ++ (if g = 2 then (upto 4).map .vsIn else [])) := by
  refine State.keeps_mono (s.heldOff_spec g mv f).2.2 ?_
  unfold heldOffParts
  simp [Fin.ext_iff]

theorem execGroupOvervoltageOff_over (hlo : 62000 < mv) (hhi : mv ≤ 80000) : ∃ u, exec (.groupOvervoltageOff g mv) s = .next u ∧
    u.pin (.vbat g) = mv ∧ u.grp g = { s.grp g with ovOff := true, ovF := true } ∧ u.groupOff g = true ∧
    s.keeps u (.pin (.vbat g) :: .grp g :: (upto 24).map .led ++ (if g = 2 then (upto 4).map .vsIn else [])) := by
  have hexec : exec (.groupOvervoltageOff g mv) s = execGroupOvervoltageOff g mv s := rfl
  rw [hexec]
  unfold execGroupOvervoltageOff
  dsimp only
  rw [if_neg (by omega), if_pos hlo]
  obtain ⟨hpin, hgrp, -⟩ := s.heldOff_spec g mv (fun x => { x with ovOff := true, ovF := true })
  refine ⟨_, rfl, hpin, hgrp, ?_, s.heldOff_leaves g mv _⟩
  unfold State.groupOff
  rw [hgrp]
  simp

theorem execDipOff_under (hlo : mv < 4500) : ∃ u, exec (.dipOff g mv) s = .next u ∧ u.pin (.vbat g) = mv ∧
    u.grp g = { s.grp g with dipOff := true, dipF := true } ∧ u.groupOff g = true ∧
    s.keeps u (.pin (.vbat g) :: .grp g :: (upto 24).map .led ++ (if g = 2 then (upto 4).map .vsIn else [])) := by
  have hexec : exec (.dipOff g mv) s = execDipOff g mv s := rfl
  rw [hexec]
  unfold execDipOff
  dsimp only
  rw [if_pos hlo]
  obtain ⟨hpin, hgrp, -⟩ := s.heldOff_spec g mv (fun x => { x with dipOff := true, dipF := true })
  refine ⟨_, rfl, hpin, hgrp, ?_, s.heldOff_leaves g mv _⟩
  unfold State.groupOff
  rw [hgrp]
  simp

theorem groupMoments : (62000 < mv → mv ≤ 80000 → ∃ u, exec (.groupOvervoltageOff g mv) s = .next u ∧ u.pin (.vbat g) = mv ∧
      u.grp g = { s.grp g with ovOff := true, ovF := true } ∧ u.groupOff g = true ∧
      s.keeps u (.pin (.vbat g) :: .grp g :: (upto 24).map .led ++ (if g = 2 then (upto 4).map .vsIn else []))) ∧
    (80000 < mv → exec (.groupOvervoltageOff g mv) s = .fault (.uncheckedUse 423)) ∧
    (mv ≤ 62000 → exec (.groupOvervoltageOff g mv) s = .next (s.setPin (.vbat g) mv)) ∧
    (mv < 4500 → ∃ u, exec (.dipOff g mv) s = .next u ∧ u.pin (.vbat g) = mv ∧
      u.grp g = { s.grp g with dipOff := true, dipF := true } ∧ u.groupOff g = true ∧
      s.keeps u (.pin (.vbat g) :: .grp g :: (upto 24).map .led ++ (if g = 2 then (upto 4).map .vsIn else []))) ∧
    (4500 ≤ mv → exec (.dipOff g mv) s = .next (s.setPin (.vbat g) mv)) := by
  refine ⟨execGroupOvervoltageOff_over g mv s, fun h => if_pos h, fun h => ?_, execDipOff_under g mv s, fun h => ?_⟩
  · exact (if_neg (by omega)).trans (congrArg Host.Outcome.next (if_neg (by omega)))
  · exact congrArg Host.Outcome.next (if_neg (by omega))

end

/-- The reverse latch of a group, and its report (R424). -/
theorem execReverseLatch_set (g : Fin 3) (us : Nat) (powered : Bool) (s : State) (hlo : 1000 ≤ us) (hhi : us ≤ 60000000) :
    exec (.reverseLatch g us powered) s = .next (if powered then (s.setGrp g (fun x => { x with latch := true })).reverseReport g
      else s.setGrp g (fun x => { x with latch := true })) :=
  (if_neg (by omega)).trans (congrArg Host.Outcome.next (if_pos hlo))

theorem State.grp_latched (s : State) (g : Fin 3) : (s.setGrp g (fun x => { x with latch := true })).grp g = { s.grp g with latch := true } :=
  s.grp_setGrp_same g _ g.isLt

/-- The report's bit of the group is set. -/
theorem State.revGrp_report {s : State} (hs : s.canonical) (g : Fin 3) :
    ((s.setFld F.pwrRevGrp (s.fld F.pwrRevGrp ||| 2 ^ g.val)).fld F.pwrRevGrp).testBit g = true := by
  rw [State.fld_put hs F.pwrRevGrp _]
  have hg : g.val < F.pwrRevGrp.width := g.isLt
  rw [Nat.testBit_mod_two_pow, Nat.testBit_or, Nat.testBit_two_pow_self, Bool.or_true, decide_eq_true hg]
  rfl

theorem reverseMoments (g : Fin 3) (us : Nat) (powered : Bool) (s : State) :
    (us < 1000 → exec (.reverseLatch g us powered) s = .next s) ∧
    (60000000 < us → exec (.reverseLatch g us powered) s = .fault (.uncheckedUse 424)) ∧
    (1000 ≤ us → us ≤ 60000000 → s.canonical → powered = true → ∃ u, exec (.reverseLatch g us true) s = .next (u.raiseSource 27) ∧
      u.grp g = { s.grp g with latch := true } ∧ (u.fld F.pwrRevGrp).testBit g = true ∧ s.keeps u [.grp g, .reg F.pwrRevGrp.addr]) ∧
    (1000 ≤ us → us ≤ 60000000 → powered = false → ∃ u, exec (.reverseLatch g us false) s = .next u ∧
      u.grp g = { s.grp g with latch := true } ∧ s.keeps u [.grp g]) := by
  refine ⟨fun h => ?_, fun h => if_pos h, fun hlo hhi hs _ => ?_, fun hlo hhi _ => ?_⟩
  · exact (if_neg (by omega)).trans (congrArg Host.Outcome.next (if_neg (by omega)))
  · have hs1 : (s.setGrp g (fun x => { x with latch := true })).canonical := State.setGrp_stable canonical_lasting.toStable g _ hs
    rw [execReverseLatch_set g us true s hlo hhi, if_pos rfl]
    unfold State.reverseReport
    rw [if_pos (congrArg Grp.latch (s.grp_latched g))]
    exact ⟨_, rfl, s.grp_latched g, State.revGrp_report hs1 g,
      State.keeps_trans (s.setGrp_keeps g _) (State.setFld_keeps _ _ _) (by simp) (by simp)⟩
  · rw [execReverseLatch_set g us false s hlo hhi]
    exact ⟨_, rfl, s.grp_latched g, s.setGrp_keeps g _⟩

/-! ### The logic dip -/

theorem State.movePxAll_kept (s : State) : DipKept s (forEach 4 State.movePx s) :=
  st_forEach (P := DipKept s) (fun _ x k => k.movePx x) (DipKept.refl s)

/-- The state in which a dip's domains leave ON: the outputs of VBAT_C are off, the pause has begun. -/
def State.dipBegun (s : State) (mv : Int) : State :=
  ((s.setPin (.vbat 2) mv).holdOff 2 (fun x => { x with dipOff := true, dipF := true })).withPause (.dip s.count)

theorem State.grp_withPause (s : State) (p : Pause) (g : Nat) : (s.withPause p).grp g = s.grp g := rfl

theorem State.inDip_withPause (s : State) (t : Nat) : (s.withPause (.dip t)).inDip = true := rfl

theorem State.dipBegun_grp (s : State) (mv : Int) : (s.dipBegun mv).grp 2 = { s.grp 2 with dipOff := true, dipF := true } := by
  unfold State.dipBegun
  rw [State.grp_withPause]
  exact (s.heldOff_spec 2 mv (fun x => { x with dipOff := true, dipF := true })).2.1

theorem State.dipBegun_keeps (s : State) (mv : Int) : s.keeps (s.dipBegun mv) (.pin (.vbat 2) :: heldOffParts 2 ++ [.pause]) :=
  State.keeps_trans (s.heldOff_spec 2 mv (fun x => { x with dipOff := true, dipF := true })).2.2 (State.withPause_keeps _ _)
    (List.subset_append_left _ _) (List.subset_append_right _ _)

theorem execLogicDip_begins {mv : Int} {s : State} (hmv : mv < 4500) (hdip : s.inDip = false) :
    exec (.logicDip mv) s = .next (forEach 4 State.movePx (forEach 32 State.dipDomain (s.dipBegun mv))) :=
  congrArg Host.Outcome.next (if_pos ⟨hmv, hdip⟩)

theorem logicDipMoments (mv : Int) (s : State) :
    (mv < 4500 → s.inDip = false → ∃ u, exec (.logicDip mv) s = .next u ∧ u.pwr.pause = .dip s.count ∧ u.clocksRun = false ∧
      (u.grp 2).dipOff = true ∧ u.frm.frame = s.frm.frame ∧ u.frm.slot = s.frm.slot ∧ u.pending = s.pending ∧
      ((∀ d, d < 32 → (nth s.pwr.dom d {}).waking = false) → ∀ d, d ≠ 0 → d < 32 → (nth u.pwr.dom d {}).st =
        (if (nth s.pwr.dom d {}).st = .on then .ret else (nth s.pwr.dom d {}).st))) ∧
    (4500 ≤ mv ∨ s.inDip = true → exec (.logicDip mv) s = .next (s.setPin (.vbat 2) mv)) := by
  refine ⟨fun hmv hdip => ?_, fun h => congrArg Host.Outcome.next (if_neg ?_)⟩
  · obtain ⟨hpending, hkept⟩ := s.dipBegun_keeps mv
    obtain ⟨hframe, -, -, hslot⟩ := hkept .frame (by simp [heldOffParts])
    have hdom (d : Nat) : nth (s.dipBegun mv).pwr.dom d {} = nth s.pwr.dom d {} := hkept (.dom d) (by simp [heldOffParts])
    obtain ⟨hmoved, hst⟩ := (s.dipBegun mv).dipDomains_spec (State.inDip_withPause _ _)
    have hpx := (forEach 32 State.dipDomain (s.dipBegun mv)).movePxAll_kept
    have hpause : (forEach 4 State.movePx (forEach 32 State.dipDomain (s.dipBegun mv))).pwr.pause = .dip s.count :=
      hpx.pause.trans hmoved.pause
    have hgrps : (forEach 4 State.movePx (forEach 32 State.dipDomain (s.dipBegun mv))).grp 2 = (s.dipBegun mv).grp 2 := by
      unfold State.grp
      rw [hpx.grp, hmoved.grp]
    refine ⟨_, execLogicDip_begins hmv hdip, hpause, State.clocksRun_of_dip hpause, ?_, (hpx.frame.trans hmoved.frame).trans hframe,
      (hpx.slot.trans hmoved.slot).trans hslot, (hpx.pending.trans hmoved.pending).trans hpending, fun hawake d h0 hd => ?_⟩
    · exact congrArg Grp.dipOff (hgrps.trans (s.dipBegun_grp mv))
    · have hst' := hst (fun e he => (congrArg Dom.waking (hdom e)).trans (hawake e he)) d h0 hd
      rw [(hpx.dom d).1, hst', hdom d, dippedSt]
  · rintro ⟨hlo, hdip⟩
    rcases h with h | h
    · omega
    · rw [hdip] at h
      exact absurd h (by decide)

/-- The moment at which a dip ends, the PLL locked. -/
def State.dipLocked (s : State) (mv : Int) (us lock t : Nat) : State :=
  (s.setPin (.vbat 2) mv).advance (t + (us + lock) * ticksPerUs)

/-- The state in which a dip's domains return. -/
def State.dipOver (s : State) (mv : Int) (us lock t : Nat) : State :=
  (s.dipLocked mv us lock t).withPause (.resume t false (some (s.dipLocked mv us lock t).count))

/-- The state in which the held accesses are made. -/
def State.dipReturned (s : State) (mv : Int) (us lock t : Nat) : State :=
  (forEach 32 State.undipDomain (s.dipOver mv us lock t)).prsThaw ((s.dipOver mv us lock t).count - t)

theorem State.dipReturned_spec (s : State) (mv : Int) (us lock t : Nat) :
    DomsMoved 32 (s.dipOver mv us lock t) (s.dipReturned mv us lock t) ∧
    ∀ d, d ≠ 0 → d < 32 → (nth s.pwr.dom d {}).before = .on → (nth (s.dipReturned mv us lock t).pwr.dom d {}).st = .on := by
  obtain ⟨hmoved, hon⟩ := (s.dipOver mv us lock t).undipDomains_spec
  have hthaw := (DipKept.refl (forEach 32 State.undipDomain (s.dipOver mv us lock t))).prsThaw ((s.dipOver mv us lock t).count - t)
  exact ⟨hmoved.kept hthaw, fun d h0 hd hbefore => (hthaw.dom d).1.trans (hon d h0 hd hbefore)⟩

/-- No access is held any more. -/
def State.noneHeld (s : State) : State := { s with pwr := { s.pwr with stalled := [] } }

theorem State.noneHeld_kept (s : State) : s.noneHeld.count = s.count ∧ s.noneHeld.frm = s.frm ∧ s.noneHeld.pwr.grp = s.pwr.grp ∧
    s.noneHeld.pwr.pause = s.pwr.pause ∧ s.noneHeld.pwr.dom = s.pwr.dom := ⟨rfl, rfl, rfl, rfl, rfl⟩

theorem execLogicDipEnd_ends {mv : Int} {us lock t : Nat} {s : State} (hp : s.pwr.pause = .dip t) (hmv : 5000 < mv) (hus : us < 500000) :
    execLogicDipEnd mv us lock s = State.replayAll (s.dipReturned mv us lock t).pwr.stalled (s.dipReturned mv us lock t).noneHeld := by
  unfold execLogicDipEnd State.dipReturned State.dipOver State.dipLocked State.withPause State.noneHeld
  extract_lets s1
  rw [hp]
  dsimp only
  rw [if_pos (And.intro hmv hus)]

/-- A dip that is not over, or none, takes the reading alone. -/
theorem execLogicDipEnd_reading {mv : Int} {us : Nat} (lock : Nat) {s : State} (h : s.inDip = false ∨ mv ≤ 5000 ∨ 500000 ≤ us) :
    exec (.logicDipEnd mv us lock) s = .next (s.setPin (.vbat 2) mv) := by
  have hexec : exec (.logicDipEnd mv us lock) s = execLogicDipEnd mv us lock s := rfl
  rw [hexec]
  unfold execLogicDipEnd
  extract_lets s1
  split
  · next t hp =>
    refine if_neg fun ⟨hmv, hus⟩ => ?_
    unfold State.inDip at h
    rw [hp] at h
    rcases h with h | h
    · exact Bool.noConfusion h
    · omega
  · rfl

theorem logicDipEndMoments (mv : Int) (us lock t : Nat) (s : State) (hp : s.pwr.pause = .dip t) :
    (5000 < mv → us < 500000 → ∃ u, exec (.logicDipEnd mv us lock) s = State.replayAll s.pwr.stalled u ∧ u.pwr.stalled = [] ∧
      u.pwr.pause = .resume t false (some u.count) ∧ u.count = max s.count (t + (us + lock) * ticksPerUs) ∧
      u.clocksRun = !s.unpowered ∧ u.frm.frame = s.frm.frame ∧
      (∀ d, d ≠ 0 → d < 32 → (nth s.pwr.dom d {}).before = .on → (nth u.pwr.dom d {}).st = .on)) ∧
    (5000 < mv → us < 500000 → s.pwr.stalled = [] → ∃ u, exec (.logicDipEnd mv us lock) s = .next u ∧
      u.pwr.pause = .resume t false (some u.count)) ∧
    (mv ≤ 5000 ∨ 500000 ≤ us → exec (.logicDipEnd mv us lock) s = .next (s.setPin (.vbat 2) mv)) := by
  obtain ⟨hmoved, hon⟩ := s.dipReturned_spec mv us lock t
  obtain ⟨hcount, hfrm, hgrp, hpauses, hdom⟩ := (s.dipReturned mv us lock t).noneHeld_kept
  have hstalled : (s.dipReturned mv us lock t).pwr.stalled = s.pwr.stalled := hmoved.stalled
  have hpause : (s.dipReturned mv us lock t).noneHeld.pwr.pause = .resume t false (some (s.dipReturned mv us lock t).noneHeld.count) := by
    rw [hpauses, hcount, hmoved.pause, hmoved.count]
    rfl
  have hunpowered : (s.dipReturned mv us lock t).noneHeld.unpowered = s.unpowered := by
    unfold State.unpowered
    rw [hgrp, hmoved.grp]
    rfl
  have hends (hmv : 5000 < mv) (hus : us < 500000) : exec (.logicDipEnd mv us lock) s =
      State.replayAll s.pwr.stalled (s.dipReturned mv us lock t).noneHeld :=
    hstalled ▸ execLogicDipEnd_ends hp hmv hus
  refine ⟨fun hmv hus => ⟨_, hends hmv hus, rfl, hpause, hcount.trans hmoved.count, ?_, ?_, fun d h0 hd hbefore => ?_⟩,
    fun hmv hus hnone => ⟨_, ?_, hpause⟩, fun h => execLogicDipEnd_reading lock (.inr h)⟩
  · rw [State.clocksRun_of_resume hpause, hunpowered]
  · rw [hfrm, hmoved.frame]
    rfl
  · rw [hdom]
    exact hon d h0 hd hbefore
  · rw [hends hmv hus, hnone]
    rfl

/-- Settles O44: a group's outputs are held off with its reading; a dip moves the domains one by one, each changing nothing that
another one rests on, and its end returns them in the same way before the held accesses are made. -/
theorem supplyAndDipSteps : Obligations.SupplyAndDipSteps :=
  ⟨groupMoments, reverseMoments, logicDipMoments, logicDipEndMoments,
    fun _ _ lock _ h => execLogicDipEnd_reading lock (.inl h)⟩

end Sys2Proof.Machine
end

section
/-!
PROOFS. The requests of the host: what they are judged by, what they do and what answers them, on both transports (O54).
-/

/- One proof at a time: the check of the whole text comes near its limit of memory. -/
set_option Elab.async false

namespace Sys2Proof.Machine

/-! ### What neither a response nor a note of the host block changes -/

/-- Of the host block all but the effective features may have changed, with HST.STAT and HST.ACTR; nothing else has. -/
structure HostNoted (s t : State) : Prop where
  rest : ∃ (r : _) (x : Hst), t = { s with regs := r, hst := { x with eff := s.hst.eff } }
  reg : ∀ a, a ≠ F.hstStatOvf.addr → a ≠ F.hstActrCtr.addr → t.reg a = s.reg a

section
variable {s t : State}

theorem HostNoted.refl (s : State) : HostNoted s s := ⟨⟨s.regs, s.hst, rfl⟩, fun _ _ _ => rfl⟩

theorem HostNoted.trans {u : State} (h : HostNoted s t) (k : HostNoted t u) : HostNoted s u := by
  obtain ⟨⟨r, x, rfl⟩, hreg⟩ := h
  obtain ⟨⟨r', x', rfl⟩, hreg'⟩ := k
  exact ⟨⟨r', x', rfl⟩, fun a ha hb => (hreg' a ha hb).trans (hreg a ha hb)⟩

theorem State.setFld_hostNoted (s : State) (f : Fld) (v : Nat) (hf : f.addr = F.hstStatOvf.addr ∨ f.addr = F.hstActrCtr.addr) :
    HostNoted s (s.setFld f v) := by
  refine ⟨⟨_, s.hst, rfl⟩, fun a ha hb => State.reg_setReg_other _ _ _ _ fun e => ?_⟩
  rcases hf with hf | hf
  · exact ha (e.trans hf)
  · exact hb (e.trans hf)

theorem State.setBit_hostNoted (s : State) (f : Fld) (hf : f.addr = F.hstStatOvf.addr := by rfl) : HostNoted s (s.setBit f) :=
  s.setFld_hostNoted f 1 (.inl hf)

theorem State.spiOut_hostNoted (s : State) (n : Nat) : HostNoted s (s.spiOut n) := by
  unfold State.spiOut
  split
  · next r _ =>
    split
    · exact ⟨⟨s.regs, { s.hst with resp := none, said := r }, rfl⟩, fun _ _ _ => rfl⟩
    · exact HostNoted.refl s
  · exact HostNoted.refl s

theorem HostNoted.fld (h : HostNoted s t) (f : Fld) (ha : f.addr ≠ F.hstStatOvf.addr := by decide)
    (hb : f.addr ≠ F.hstActrCtr.addr := by decide) : t.fld f = s.fld f := congrArg (getBits · f.lo f.width) (h.reg _ ha hb)

theorem HostNoted.bit (h : HostNoted s t) (f : Fld) (ha : f.addr ≠ F.hstStatOvf.addr := by decide)
    (hb : f.addr ≠ F.hstActrCtr.addr := by decide) : t.bit f = s.bit f := by
  unfold State.bit
  rw [h.fld f ha hb]

theorem HostNoted.feat (h : HostNoted s t) (k : Nat) : t.feat k = s.feat k := by
  obtain ⟨⟨r, x, rfl⟩, -⟩ := h
  rfl

theorem HostNoted.frm (h : HostNoted s t) : t.frm = s.frm := by
  obtain ⟨⟨r, x, rfl⟩, -⟩ := h
  rfl

theorem HostNoted.win (h : HostNoted s t) : t.win = s.win := by
  obtain ⟨⟨r, x, rfl⟩, -⟩ := h
  rfl

theorem HostNoted.key (h : HostNoted s t) (k : Nat) : t.key128 k = s.key128 k := by
  have haddr : (F.secKattrType k).addr ≠ F.hstStatOvf.addr ∧ (F.secKattrType k).addr ≠ F.hstActrCtr.addr := by
    have haddr : (F.secKattrType k).addr = 0x40100080 + 4 * k := rfl
    have hstat : F.hstStatOvf.addr = 0x400F0004 := rfl
    have hactr : F.hstActrCtr.addr = 0x400F0010 := rfl
    omega
  have hkeys : t.sec = s.sec := by
    obtain ⟨⟨r, x, rfl⟩, -⟩ := h
    rfl
  unfold State.key128
  rw [h.fld (F.secKattrType k) haddr.1 haddr.2, h.bit (F.secKattrLoaded k) haddr.1 haddr.2, hkeys]

theorem HostNoted.mac (h : HostNoted s t) (b : Bytes) : t.hostMac b = s.hostMac b := by
  unfold State.hostMac
  rw [h.fld F.hstCfgAkey, h.key]

theorem HostNoted.response (h : HostNoted s t) (r : HostReq) (sealed : Bool) (e : Nat) (body : Bytes) :
    t.response r sealed e body = s.response r sealed e body := by
  unfold State.response
  dsimp only
  rw [h.mac]

theorem ite_right_of_ne {α : Type} {p : Prop} [Decidable p] {x y z : α} (h : (if p then x else y) = z) (hx : x ≠ z) : y = z := by
  by_cases hp : p
  · exact absurd ((if_pos hp).symm.trans h) hx
  · exact (if_neg hp).symm.trans h

theorem inGranary_of_regionOf {a : Nat} (h : regionOf a = .granary) : inGranary a = true := by
  by_contra hg
  unfold regionOf at h
  have hlow := ite_right_of_ne (ite_right_of_ne (ite_right_of_ne (ite_right_of_ne (ite_right_of_ne h nofun) nofun) nofun) nofun) nofun
  rw [if_neg hg] at hlow
  have himage := ite_right_of_ne (ite_right_of_ne (ite_right_of_ne (ite_right_of_ne hlow nofun) nofun) nofun) nofun
  exact Region.noConfusion (ite_right_of_ne (ite_right_of_ne (ite_right_of_ne himage nofun) nofun) nofun)

theorem owner_ne_host {a : Nat} (h : regionOf a = .granary) :
    (F.grnOwnOwner (bankOf a)).addr ≠ F.hstStatOvf.addr ∧ (F.grnOwnOwner (bankOf a)).addr ≠ F.hstActrCtr.addr := by
  have haddr : (F.grnOwnOwner (bankOf a)).addr = 0x40070100 + 4 * ((a - 0x10000000) / 0x40000) := rfl
  have hstat : F.hstStatOvf.addr = 0x400F0004 := rfl
  have hactr : F.hstActrCtr.addr = 0x400F0010 := rfl
  have hin := inGranary_of_regionOf h
  simp only [inGranary, Bool.and_eq_true, decide_eq_true_eq] at hin
  omega

theorem HostNoted.reach (h : HostNoted s t) (a : Nat) : t.hostReach a = s.hostReach a := by
  unfold State.hostReach
  cases hreg : regionOf a with
  | granary =>
    obtain ⟨hstat, hactr⟩ := owner_ne_host hreg
    exact congrArg (fun n => a % 4 == 0 && n == 3) (h.fld (F.grnOwnOwner (bankOf a)) hstat hactr)
  | _ => rfl

theorem HostNoted.entryStatus (h : HostNoted s t) (rule : Nat → Bool) (a : Nat) : t.entryStatus rule a = s.entryStatus rule a := by
  unfold State.entryStatus
  rw [h.reach, h.fld F.hstWmaskBlk]

theorem HostNoted.past (h : HostNoted s t) (n : Nat) : t.past n = s.past n := by
  have hcount : t.count = s.count := by
    obtain ⟨⟨r, x, rfl⟩, -⟩ := h
    rfl
  have hpwr : t.pwr = s.pwr := by
    obtain ⟨⟨r, x, rfl⟩, -⟩ := h
    rfl
  unfold State.past State.beforeEdge State.resumeAt State.netTime State.countFor State.timeAt State.edgeTarget State.tfUs State.offset State.rate
  rw [h.fld F.frmCfgTfUs, h.fld F.frmCfgSrc, h.fld F.timOffloOff, h.fld F.timOffhiOff, h.fld F.timRateloRate, h.fld F.timRatehiRate,
    h.frm, hcount, hpwr]

theorem HostNoted.schedule (h : HostNoted s t) : t.schedule = s.schedule := by
  unfold State.schedule
  rw [h.frm, h.past]

theorem HostNoted.txnHeld (h : HostNoted s t) : t.txnHeld = s.txnHeld := by
  unfold State.txnHeld
  rw [h.frm]

end

/-! ### The two transports (R527, R575, R576) -/

/-- The message that the bytes of a frame or a datagram carry. -/
def msgOf (src : Option (Nat × Nat)) (b : List Nat) : List Nat := if src.isSome then b else b.take (msgLen b)

/-- The state in which a message is taken: a response that waited has left in the frame. -/
def State.atPort (s : State) (src : Option (Nat × Nat)) (b : List Nat) : State := if src.isSome then s else s.spiOut b.length

/-- A message arrives. -/
def State.Hears (s : State) (src : Option (Nat × Nat)) (b : List Nat) : Prop :=
  s.spiLive = true ∧ (if src.isSome then s.endpoint = true ∧ b.length ≤ 1472 else
    16 ≤ b.length ∧ msgLen b ≤ b.length ∧ spiIdle b = false)

/-- A message that arrives is taken: no response waits on the Host SPI. -/
structure State.Takes (s : State) (src : Option (Nat × Nat)) (b : List Nat) : Prop where
  canonical : s.canonical
  heard : s.Hears src b
  free : src = none → (s.spiOut b.length).hst.resp = none

/-- `u` is `t` with a request counted and answered. -/
def Answered (r : HostReq) (udp : Bool) (t u : State) (sealed : Bool) (status : Nat) (body : List Nat) (ok : Bool) : Prop :=
  let q := t.response r sealed status body
  let x := if !ok then { t.hst with rej := t.hst.rej + 1 }
    else if udp then { t.hst with rxUdp := t.hst.rxUdp + 1 } else { t.hst with rxSpi := t.hst.rxSpi + 1 }
  u.hst = (if udp then { x with said := q } else { x with resp := some q }) ∧
  t.keeps u (if udp then [.hst, .eth, .free, .reg F.ethStatDrop.addr] else [.hst])

section
variable {s t : State} {src : Option (Nat × Nat)} {b : List Nat}

theorem State.atPort_hostNoted (s : State) (src : Option (Nat × Nat)) (b : List Nat) : HostNoted s (s.atPort src b) := by
  unfold State.atPort
  split
  · exact HostNoted.refl s
  · exact s.spiOut_hostNoted _

theorem State.canonical_atPort (hs : s.canonical) : (s.atPort src b).canonical := by
  unfold State.atPort
  split
  · exact hs
  · exact (s.spiOut_spec _).2.2 hs

theorem State.countReq_hst (t : State) (udp ok : Bool) : (t.countReq udp ok).hst = (if !ok then { t.hst with rej := t.hst.rej + 1 }
    else if udp then { t.hst with rxUdp := t.hst.rxUdp + 1 } else { t.hst with rxSpi := t.hst.rxSpi + 1 }) := rfl

theorem Sent.hst (h : Sent s t) : t.hst = s.hst := by
  obtain ⟨⟨r, e, n, rfl⟩, -⟩ := h
  rfl

theorem Sent.keeps (h : Sent s t) : s.keeps t [.eth, .free, .reg F.ethStatDrop.addr] := by
  obtain ⟨⟨r, e, n, rfl⟩, hreg⟩ := h
  have hrest : s.keeps { s with eth := e, free := n } [.eth, .free] :=
    State.keeps_trans (s.setEth_keeps fun _ => e) (State.withFree_keeps _ n)
  refine ⟨rfl, fun p hp => ?_⟩
  have hsame := hrest.2 p fun hmem => hp (List.mem_append_left (as := [Part.eth, .free]) [.reg F.ethStatDrop.addr] hmem)
  cases p with
  | reg a => exact hreg a fun ha => hp (by simp [ha])
  | _ => exact hsame

/-- A port hears a message: the guards of its transport hold. -/
theorem State.request_unheard {k : Nat} (h : ¬ s.Hears src b ∨ messageKind (msgOf src b) ≠ k) : s.request k src b = .next s := by
  unfold State.request
  cases src with
  | none =>
    refine if_pos ?_
    rcases h with h | h
    · simp only [State.Hears, Option.isSome_none, Bool.false_eq_true, if_false] at h
      by_contra hc
      simp [spiShort] at hc
      obtain ⟨⟨⟨hlive, hlen⟩, hidle⟩, -⟩ := hc
      exact h ⟨hlive, hlen.1, hlen.2, hidle⟩
    · have hkind : messageKind (b.take (msgLen b)) ≠ k := h
      simp [hkind]
  | some p =>
    refine if_pos ?_
    rcases h with h | h
    · simp only [State.Hears, Option.isSome_some, if_true] at h
      by_contra hc
      simp [State.udpLive] at hc
      obtain ⟨⟨⟨hend, hlive⟩, hlen⟩, -⟩ := hc
      exact h ⟨hlive, hend, hlen⟩
    · have hkind : messageKind b ≠ k := h
      simp [hkind]

/-- A datagram is answered at once; the port alone has changed beside the block. -/
theorem State.udpRequest_answers {status : Nat} {sealed ok : Bool} {body : Bytes} {d : Dgram}
    (hm : s.hostMessage true d.data = .ok (t.response (requestOf d.data) sealed status body, t.countReq true ok)) :
    ∃ u, s.udpRequest d = .next u ∧ Answered (requestOf d.data) true t u sealed status body ok := by
  have hgoes : s.udpRequest d = .next ((((t.countReq true ok).setEth (fun e => { e with hrx := e.hrx + 1, htx := e.htx + 1 })).setHst (fun x =>
      { x with said := t.response (requestOf d.data) sealed status body })).udpSend d.ip (s.ethCfg F.ethUdpHport) d.sport
        (s.ethCfg F.ethVlanPcph) (t.response (requestOf d.data) sealed status body)) := by
    unfold State.udpRequest
    rw [hm]
  refine ⟨_, hgoes, (State.udpSend_sent _ _ _ _ _ _).hst, ?_⟩
  · have hcount : t.keeps (t.countReq true ok) [.hst] := t.setHst_keeps _
    have hnoted := State.keeps_trans hcount (State.keeps_trans (n := [.eth, .hst])
      (State.setEth_keeps (t.countReq true ok) (fun e => { e with hrx := e.hrx + 1, htx := e.htx + 1 }))
      (State.setHst_keeps _ (fun x => { x with said := t.response (requestOf d.data) sealed status body })))
      (n := [.hst, .eth, .free, .reg F.ethStatDrop.addr])
    exact State.keeps_trans hnoted (State.udpSend_sent _ _ _ _ _ _).keeps (List.Subset.refl _)

/-- A message taken is answered on its transport. -/
theorem State.request_answers {k status : Nat} {sealed ok : Bool} {body : Bytes} (h : s.Takes src b) (hkind : messageKind (msgOf src b) = k)
    (hm : (s.atPort src b).hostMessage src.isSome (msgOf src b) =
      .ok (t.response (requestOf (msgOf src b)) sealed status body, t.countReq src.isSome ok)) :
    ∃ u, s.request k src b = .next u ∧ Answered (requestOf (msgOf src b)) src.isSome t u sealed status body ok := by
  obtain ⟨-, ⟨hlive, hheard⟩, hfree⟩ := h
  cases src with
  | none =>
    unfold State.request
    obtain ⟨hhead, hlen, hidle⟩ := hheard
    have hkind' : messageKind (b.take (msgLen b)) = k := hkind
    have hm' : (s.spiOut b.length).hostMessage false (b.take (msgLen b)) = _ := hm
    refine ⟨_, (if_neg ?_).trans ((if_neg ?_).trans (by rw [hm'])), rfl, ?_⟩
    · simp only [hlive, hidle, hkind', spiShort]
      simp
      omega
    · rw [hfree rfl]
      exact Bool.noConfusion
    · exact State.keeps_trans (t.setHst_keeps _) (State.setHst_keeps _ _)
  | some p =>
    obtain ⟨hend, hlen⟩ := hheard
    have hkind' : messageKind b = k := hkind
    have hm' : s.hostMessage true b = _ := hm
    have hgoes : s.request k (some p) b = s.udpRequest { ip := p.1, sport := p.2, dport := s.ethCfg F.ethUdpHport, data := b } := by
      refine if_neg ?_
      simp [State.udpLive, hlive, hend, hlen, hkind']
    rw [hgoes]
    exact State.udpRequest_answers hm

end

/-! ### What a message is judged by (R569, R574) -/

/-- The authentication of a request holds, as the words of the statement have it. -/
def State.Passes (s : State) (udp : Bool) (m : Bytes) : Prop :=
  if (requestOf m).auth then s.feat 46 = true ∧ s.hostMac (m.take (m.length - 8)) = some (m.drop (m.length - 8)) ∧
    s.fld F.hstActrCtr < (requestOf m).ctr
  else s.feat 46 = false ∨ s.bit F.hstCfgAuthreq = false ∨ udp = false ∧ s.bit F.hstCfgSpiauth = false ∨ (requestOf m).exempt = true

/-- ACTR has moved on to a sound MAC's counter. -/
def State.movedOn (s : State) (r : HostReq) : State := if r.auth then s.setFld F.hstActrCtr r.ctr else s

section
variable {s v t : State} {udp : Bool} {m : Bytes}

theorem State.movedOn_hostNoted (s : State) (r : HostReq) : HostNoted s (s.movedOn r) := by
  unfold State.movedOn
  split
  · exact s.setFld_hostNoted _ _ (.inr rfl)
  · exact HostNoted.refl s

theorem State.canonical_movedOn (hs : s.canonical) (r : HostReq) : (s.movedOn r).canonical := by
  unfold State.movedOn
  split
  · exact State.canonical_setFld hs _ _
  · exact hs

/-- The check on a message in a state that agrees with `s` on ACTR and all else that it rests on. -/
theorem State.authCheck_passes (h : HostNoted s v) (hctr : v.fld F.hstActrCtr = s.fld F.hstActrCtr) (hpass : s.Passes udp m) :
    v.authCheck udp m (requestOf m) = (true, v.movedOn (requestOf m)) := by
  unfold State.Passes at hpass
  unfold State.authCheck State.movedOn
  dsimp only
  rw [h.feat, h.mac, h.bit F.hstCfgAuthreq, h.bit F.hstCfgSpiauth, hctr]
  split
  · next hauth =>
    rw [if_pos hauth] at hpass
    exact if_pos hpass
  · next hauth =>
    rw [if_neg hauth] at hpass
    refine congrArg (·, v) ?_
    rcases hpass with h | h | ⟨hu, h⟩ | h <;> simp [h]
    simp [hu]

theorem State.authCheck_fails (h : HostNoted s v) (hctr : v.fld F.hstActrCtr = s.fld F.hstActrCtr) (hfail : ¬ s.Passes udp m) :
    v.authCheck udp m (requestOf m) = (false, v) := by
  unfold State.Passes at hfail
  unfold State.authCheck
  dsimp only
  rw [h.feat, h.mac, h.bit F.hstCfgAuthreq, h.bit F.hstCfgSpiauth, hctr]
  split
  · next hauth =>
    rw [if_pos hauth] at hfail
    exact if_neg hfail
  · next hauth =>
    rw [if_neg hauth] at hfail
    refine congrArg (·, v) ?_
    simp only [not_or, not_and, Bool.not_eq_true, Bool.not_eq_false] at hfail
    obtain ⟨hfeat, hreq, hspi, hexempt⟩ := hfail
    cases udp <;> simp_all

/-! ### The state after a message that is not performed -/

theorem State.fld_spiOut (s : State) (n : Nat) (f : Fld) : (s.spiOut n).fld f = s.fld f := by
  unfold State.spiOut
  split
  · split <;> rfl
  · rfl

theorem State.hstCause_of_none {c : Nat} (h : s.fld F.hstEvenCause = 0) : s.hstCause c = s := by
  unfold State.hstCause
  rw [h, Nat.zero_testBit]
  exact if_neg Bool.false_ne_true

theorem State.txnRej_of_none (h : s.fld F.hstEvenCause = 0) : s.txnRej = s.setBit F.hstStatTxrej :=
  State.hstCause_of_none (((s.setBit_hostNoted F.hstStatTxrej).fld F.hstEvenCause).trans h)

/-- A refused TXN, with no cause of event 75 enabled. -/
theorem State.txnRej_spec (hs : s.canonical) (h : s.fld F.hstEvenCause = 0) : HostNoted s s.txnRej ∧ s.txnRej.bit F.hstStatTxrej = true ∧
    s.keeps s.txnRej [.reg F.hstStatTxrej.addr] := by
  rw [State.txnRej_of_none h]
  exact ⟨s.setBit_hostNoted _, State.bit_setBit_same hs rfl (by decide), s.setFld_keeps _ _⟩

theorem hostMessage_bad (h : badHeader m = true) :
    v.hostMessage udp m = .ok (v.response (requestOf m) false 1 [], v.countReq udp false) := if_pos h

/-- A failed authentication is noted; a TXN's refusal too. -/
theorem hostMessage_unauthentic (hs : v.canonical) (hev : v.fld F.hstEvenCause = 0) (hb : badHeader m = false)
    (ha : v.authCheck udp m (requestOf m) = (false, v)) :
    ∃ t, v.hostMessage udp m = .ok (t.response (requestOf m) false 5 [], t.countReq udp false) ∧
      t.bit F.hstStatAuthf = true ∧ ((requestOf m).type = 3 → t.bit F.hstStatTxrej = true) ∧ v.keeps t [.reg F.hstStatAuthf.addr] := by
  have hnoted := v.setBit_hostNoted F.hstStatAuthf
  have hev' : (v.setBit F.hstStatAuthf).fld F.hstEvenCause = 0 := (hnoted.fld F.hstEvenCause).trans hev
  have hs' : (v.setBit F.hstStatAuthf).canonical := State.canonical_setFld hs _ _
  have hbit : (v.setBit F.hstStatAuthf).bit F.hstStatAuthf = true := State.bit_setBit_same hs rfl (by decide)
  obtain ⟨hrej, hrejBit, hrejKeeps⟩ := State.txnRej_spec hs' hev'
  have hmsg : v.hostMessage udp m = .ok (v.response (requestOf m) false 5 [],
      (if (requestOf m).type = 3 then (v.setBit F.hstStatAuthf).txnRej else v.setBit F.hstStatAuthf).countReq udp false) := by
    unfold State.hostMessage
    dsimp only
    rw [ha, hb, State.hstCause_of_none hev']
    rfl
  rw [hmsg]
  split
  · next ht =>
    refine ⟨_, ?_, ?_, fun _ => hrejBit, State.keeps_trans (v.setFld_keeps F.hstStatAuthf 1) hrejKeeps
      (List.Subset.refl _) (List.Subset.refl [Part.reg F.hstStatAuthf.addr])⟩
    · rw [(hnoted.trans hrej).response]
    · rw [State.txnRej_of_none hev']
      exact (congrArg (· != 0) (State.fld_put_beside hs' F.hstStatTxrej F.hstStatAuthf 1)).trans hbit
  · next ht => exact ⟨_, by rw [hnoted.response], hbit, fun h => absurd h ht, v.setFld_keeps _ _⟩

/-- A message that is authentic but spells no request. -/
theorem hostMessage_unfit (hb : badHeader m = false) (ha : v.authCheck udp m (requestOf m) = (true, t)) (hf : (requestOf m).fits = false) :
    v.hostMessage udp m = .ok (t.response (requestOf m) (requestOf m).auth 2 [],
      (if (requestOf m).type = 3 then t.txnRej else t).countReq udp false) := by
  unfold State.hostMessage
  dsimp only
  rw [ha, hb, hf]
  rfl

/-- A message that is performed. -/
theorem hostMessage_performs {e : Nat} {body : Bytes} {u : State} (hb : badHeader m = false)
    (ha : v.authCheck udp m (requestOf m) = (true, t)) (hf : (requestOf m).fits = true) (hp : t.perform (requestOf m) = .ok ((e, body), u)) :
    v.hostMessage udp m = .ok (u.response (requestOf m) (requestOf m).auth e body,
      u.countReq udp (e == 0 || ((requestOf m).type == 2 && leAt body 0 2 != 0))) := by
  unfold State.hostMessage
  dsimp only
  rw [ha, hb, hf]
  simp only [Bool.not_true, Bool.false_eq_true, if_false]
  rw [hp]

/-! ### The kind of a message -/

theorem messageKind_bad (h : badHeader m = true) : messageKind m = 0 := if_pos (by rw [h]; rfl)

theorem messageKind_unfit (h : (requestOf m).fits = false) : messageKind m = 0 := if_pos (by rw [h, Bool.not_false, Bool.or_true])

theorem messageKind_fits (hb : badHeader m = false) (h : (requestOf m).fits = true) : messageKind m = (requestOf m).type :=
  if_neg (by rw [hb, h]; exact Bool.false_ne_true)

end

/-! ### The six kinds on both transports -/

/-- A kind of message and the command in which it arrives. -/
def HostKind (k : Nat) (cmd : Option (Nat × Nat) → List Nat → Instr) : Prop :=
  (k, cmd) ∈ [(1, .read), (2, .write), (3, .txn), (4, .hreset), (5, .hostNop), (0, .hostBadRequest)]

section
variable {s t : State} {src : Option (Nat × Nat)} {b : List Nat} {k : Nat} {cmd : Option (Nat × Nat) → List Nat → Instr}

theorem State.onPort_runs (h : src.isSome = true ∨ s.inDip = false) (i : DipAccess) (f : State → Out) :
    s.onPort src i f = f s := by
  refine if_neg ?_
  rcases h with h | h
  · rw [← Option.not_isSome, h]
    exact Bool.false_ne_true
  · rw [h, Bool.and_false]
    exact Bool.false_ne_true

theorem exec_hostKind (hk : HostKind k cmd) (h : src.isSome = true ∨ s.inDip = false) : exec (cmd src b) s = s.request k src b := by
  simp only [HostKind, List.mem_cons, List.not_mem_nil, or_false, Prod.mk.injEq] at hk
  rcases hk with ⟨rfl, rfl⟩ | ⟨rfl, rfl⟩ | ⟨rfl, rfl⟩ | ⟨rfl, rfl⟩ | ⟨rfl, rfl⟩ | ⟨rfl, rfl⟩
  · exact State.onPort_runs h (.read src b) (State.request · 1 src b)
  · exact State.onPort_runs h (.write src b) (State.request · 2 src b)
  · exact State.onPort_runs h (.txn src b) (State.request · 3 src b)
  · exact State.onPort_runs h (.hreset src b) (State.request · 4 src b)
  · exact State.onPort_runs h (.hostNop src b) (State.request · 5 src b)
  · exact State.onPort_runs h (.hostBadRequest src b) (State.request · 0 src b)

/-- A response still waits when a second request comes. -/
theorem exec_overflow {q : Bytes} (hk : HostKind k cmd) (hs : s.canonical) (hheard : s.Hears none b)
    (hkind : messageKind (msgOf none b) = k) (hresp : s.hst.resp = some q) (hlen : b.length < q.length) :
    ∃ u, exec (cmd none b) s = .next u ∧ u.bit F.hstStatOvf = true ∧ u.hst = { s.hst with rej := s.hst.rej + 1 } ∧
      s.keeps u [.hst, .reg F.hstStatOvf.addr] := by
  obtain ⟨hlive, hhead, hmsg, hidle⟩ := hheard
  have hkind' : messageKind (b.take (msgLen b)) = k := hkind
  have hgoes : s.request k none b = s.spiRequest b := by
    refine if_neg ?_
    simp only [hlive, hidle, hkind', spiShort]
    simp
    omega
  have hovf : s.spiRequest b = .next ((s.setBit F.hstStatOvf).countReq false false) := by
    unfold State.spiRequest
    dsimp only
    rw [State.spiOut_part hresp hlen]
    exact if_pos (by rw [hresp]; rfl)
  refine ⟨_, (exec_hostKind hk (.inr (State.no_dip_of_spiLive hlive))).trans (hgoes.trans hovf), State.bit_setBit_same hs rfl (by decide), rfl,
    State.keeps_trans (s.setFld_keeps F.hstStatOvf 1) (State.setHst_keeps _ _)⟩

/-- A message taken is answered. -/
theorem exec_answers {status : Nat} {sealed ok : Bool} {body : Bytes} (hk : HostKind k cmd) (h : s.Takes src b)
    (hkind : messageKind (msgOf src b) = k)
    (hm : (s.atPort src b).hostMessage src.isSome (msgOf src b) =
      .ok (t.response (requestOf (msgOf src b)) sealed status body, t.countReq src.isSome ok)) :
    ∃ u, exec (cmd src b) s = .next u ∧ Answered (requestOf (msgOf src b)) src.isSome t u sealed status body ok := by
  rw [exec_hostKind hk (.inr (State.no_dip_of_spiLive h.heard.1))]
  exact State.request_answers h hkind hm

/-! ### What is not performed (R569, R574) -/

theorem exec_badHeader (h : s.Takes src b) (hb : badHeader (msgOf src b) = true) : ∃ u, exec (.hostBadRequest src b) s = .next u ∧
    Answered (requestOf (msgOf src b)) src.isSome (s.atPort src b) u false 1 [] false :=
  exec_answers (k := 0) (cmd := .hostBadRequest) (by simp [HostKind]) h (messageKind_bad hb) (hostMessage_bad hb)

theorem State.fld_atPort (f : Fld) : (s.atPort src b).fld f = s.fld f := by
  unfold State.atPort
  split
  · rfl
  · exact s.fld_spiOut _ f

theorem State.atPort_passes (hp : s.Passes src.isSome (msgOf src b)) :
    (s.atPort src b).authCheck src.isSome (msgOf src b) (requestOf (msgOf src b)) =
      (true, (s.atPort src b).movedOn (requestOf (msgOf src b))) :=
  State.authCheck_passes (s.atPort_hostNoted src b) (State.fld_atPort _) hp

theorem exec_unauthentic (hk : HostKind k cmd) (h : s.Takes src b) (hkind : messageKind (msgOf src b) = k)
    (hb : badHeader (msgOf src b) = false) (hp : ¬ s.Passes src.isSome (msgOf src b)) (hev : s.fld F.hstEvenCause = 0) :
    ∃ t u, exec (cmd src b) s = .next u ∧ Answered (requestOf (msgOf src b)) src.isSome t u false 5 [] false ∧
      t.bit F.hstStatAuthf = true ∧ ((requestOf (msgOf src b)).type = 3 → t.bit F.hstStatTxrej = true) ∧
      (s.atPort src b).keeps t [.reg F.hstStatAuthf.addr] := by
  obtain ⟨t, hm, hauth, hrej, hkeeps⟩ := hostMessage_unauthentic (State.canonical_atPort h.canonical) ((State.fld_atPort _).trans hev) hb
    (State.authCheck_fails (s.atPort_hostNoted src b) (State.fld_atPort _) hp)
  obtain ⟨u, hu, hans⟩ := exec_answers hk h hkind hm
  exact ⟨t, u, hu, hans, hauth, hrej, hkeeps⟩

/-- The state in which a request is performed. -/
def State.performsIn (s : State) (src : Option (Nat × Nat)) (b : List Nat) : State := (s.atPort src b).movedOn (requestOf (msgOf src b))

theorem State.performsIn_hostNoted (s : State) (src : Option (Nat × Nat)) (b : List Nat) : HostNoted s (s.performsIn src b) :=
  (s.atPort_hostNoted src b).trans (State.movedOn_hostNoted _ _)

theorem State.canonical_performsIn (hs : s.canonical) : (s.performsIn src b).canonical := State.canonical_movedOn (State.canonical_atPort hs) _

/-- A request that is not performed, a TXN, sets TXREJ. -/
def TxnRefused (s : State) (src : Option (Nat × Nat)) (b : List Nat) (i : Instr) (e : Nat) : Prop :=
  s.fld F.hstEvenCause = 0 → ∃ t u, exec i s = .next u ∧
    Answered (requestOf (msgOf src b)) src.isSome t u (requestOf (msgOf src b)).auth e [] false ∧
    t.bit F.hstStatTxrej = true ∧ (s.performsIn src b).keeps t [.reg F.hstStatTxrej.addr]

theorem exec_unfit (h : s.Takes src b) (hb : badHeader (msgOf src b) = false) (hp : s.Passes src.isSome (msgOf src b))
    (hf : (requestOf (msgOf src b)).fits = false) (ht : (requestOf (msgOf src b)).type ≠ 3) : ∃ u, exec (.hostBadRequest src b) s = .next u ∧
    Answered (requestOf (msgOf src b)) src.isSome (s.performsIn src b) u (requestOf (msgOf src b)).auth 2 [] false := by
  refine exec_answers (k := 0) (cmd := .hostBadRequest) (by simp [HostKind]) h (messageKind_unfit hf) ?_
  rw [hostMessage_unfit hb (State.atPort_passes hp) hf, if_neg ht]
  rfl

theorem exec_unfit_txn (h : s.Takes src b) (hb : badHeader (msgOf src b) = false) (hp : s.Passes src.isSome (msgOf src b))
    (hf : (requestOf (msgOf src b)).fits = false) (ht : (requestOf (msgOf src b)).type = 3) :
    TxnRefused s src b (.hostBadRequest src b) 2 := by
  intro hev
  obtain ⟨hnoted, hrej, hkeeps⟩ := State.txnRej_spec (State.canonical_performsIn h.canonical)
    (((s.performsIn_hostNoted src b).fld F.hstEvenCause).trans hev)
  have hm := (hostMessage_unfit hb (State.atPort_passes hp) hf).trans (congrArg (fun x => Except.ok (x, _)) (hnoted.response _ _ _ _).symm)
  rw [if_pos ht] at hm
  obtain ⟨u, hu, hans⟩ := exec_answers (k := 0) (cmd := .hostBadRequest) (by simp [HostKind]) h (messageKind_unfit hf) hm
  exact ⟨_, u, hu, hans, hrej, hkeeps⟩

/-! ### What is performed (R568, R570 to R572, R580) -/

/-- A request that is sound and authentic, of a kind. -/
structure State.Performs (s : State) (src : Option (Nat × Nat)) (b : List Nat) (k : Nat) : Prop where
  takes : s.Takes src b
  header : badHeader (msgOf src b) = false
  passes : s.Passes src.isSome (msgOf src b)
  fits : (requestOf (msgOf src b)).fits = true
  type : (requestOf (msgOf src b)).type = k

theorem exec_performed {e : Nat} {body : Bytes} (hk : HostKind k cmd) (h : s.Performs src b k)
    (hp : (s.performsIn src b).perform (requestOf (msgOf src b)) = .ok ((e, body), t)) : ∃ u, exec (cmd src b) s = .next u ∧
    Answered (requestOf (msgOf src b)) src.isSome t u (requestOf (msgOf src b)).auth e body (e == 0 || (k == 2 && leAt body 0 2 != 0)) := by
  obtain ⟨htakes, hb, hpass, hf, htype⟩ := h
  refine exec_answers hk htakes ((messageKind_fits hb hf).trans htype) ?_
  rw [hostMessage_performs hb (State.atPort_passes hpass) hf hp, htype]

/-- A request that is refused answers a status other than 0 and no body, and counts as refused. -/
theorem exec_refused {e : Nat} (hk : HostKind k cmd) (h : s.Performs src b k) (he : e ≠ 0)
    (hp : (s.performsIn src b).perform (requestOf (msgOf src b)) = .ok ((e, []), t)) : ∃ u, exec (cmd src b) s = .next u ∧
    Answered (requestOf (msgOf src b)) src.isSome t u (requestOf (msgOf src b)).auth e [] false := by
  have hok : (e == 0 || (k == 2 && leAt [] 0 2 != 0)) = false := by
    have hnone : leAt [] 0 2 = 0 := rfl
    simp [he, hnone]
  exact hok ▸ exec_performed hk h hp

theorem exec_nop (h : s.Performs src b 5) : ∃ u, exec (.hostNop src b) s = .next u ∧
    Answered (requestOf (msgOf src b)) src.isSome (s.performsIn src b) u (requestOf (msgOf src b)).auth 0 [] true := by
  refine exec_performed (k := 5) (cmd := .hostNop) (by simp [HostKind]) h ?_
  unfold State.perform
  rw [h.type]
  rfl

theorem State.perform_hreset {v : State} {r : HostReq} (h : r.type = 4) :
    v.perform r = if v.win.fhalt then .ok ((4, []), v) else .ok ((0, []), v.hostReset) := by
  unfold State.perform
  rw [h]
  rfl

theorem State.fhalt_performsIn (s : State) (src : Option (Nat × Nat)) (b : List Nat) : (s.performsIn src b).win.fhalt = s.win.fhalt :=
  congrArg (·.fhalt) (s.performsIn_hostNoted src b).win

theorem exec_hreset_halted (h : s.Performs src b 4) (hfh : s.win.fhalt = true) : ∃ u, exec (.hreset src b) s = .next u ∧
    Answered (requestOf (msgOf src b)) src.isSome (s.performsIn src b) u (requestOf (msgOf src b)).auth 4 [] false :=
  exec_refused (k := 4) (cmd := .hreset) (by simp [HostKind]) h (by decide)
    ((State.perform_hreset h.type).trans (if_pos ((s.fhalt_performsIn src b).trans hfh)))

theorem State.held_hostReset (s : State) : (∀ w h e g, Held.txn w h e g ∉ s.hostReset.frm.held) ∧
    (∀ a w l, Held.fw a w l ∈ s.hostReset.frm.held ↔ Held.fw a w l ∈ s.frm.held) := by
  unfold State.hostReset
  dsimp only
  refine ⟨fun w h e g hmem => ?_, fun a w l => ?_⟩
  · exact Bool.false_ne_true (List.mem_filter.mp hmem).2
  · exact List.mem_filter.trans (and_iff_left rfl)

theorem State.hostReset_keeps (s : State) : s.keeps s.hostReset [.hst, .held] := by
  refine ⟨rfl, fun p hp => ?_⟩
  have hsame := (s.setHst_keeps (fun x => { x with resp := none, commit := none, reset := true })).2 p (fun h => hp (by simp_all))
  cases p with
  | held => exact absurd (by simp) hp
  | _ => exact hsame

theorem exec_hreset (h : s.Performs src b 4) (hfh : s.win.fhalt = false) : ∃ t u, exec (.hreset src b) s = .next u ∧
    Answered (requestOf (msgOf src b)) src.isSome t u (requestOf (msgOf src b)).auth 0 [] true ∧
    t.hst = { (s.performsIn src b).hst with resp := none, commit := none, reset := true } ∧ (∀ w h e g, Held.txn w h e g ∉ t.frm.held) ∧
    (∀ a w l, Held.fw a w l ∈ t.frm.held ↔ Held.fw a w l ∈ s.frm.held) ∧ (s.performsIn src b).keeps t [.hst, .held] := by
  have hfh' : ¬ (s.performsIn src b).win.fhalt = true := by
    rw [s.fhalt_performsIn src b, hfh]
    exact Bool.false_ne_true
  obtain ⟨u, hu, hans⟩ := exec_performed (k := 4) (cmd := .hreset) (by simp [HostKind]) h ((State.perform_hreset h.type).trans (if_neg hfh'))
  obtain ⟨htxn, hfw⟩ := (s.performsIn src b).held_hostReset
  exact ⟨_, u, hu, hans, rfl, htxn, fun a w l => (hfw a w l).trans (by rw [(s.performsIn_hostNoted src b).frm]),
    State.hostReset_keeps _⟩

/-! #### READ and WRITE -/

/-- The addresses that a READ names. -/
def readAddresses (body : Bytes) : List Nat := (upto (leAt body 4 2)).map (fun i => leAt body 0 4 + 4 * i)

/-- What a READ that reaches its words answers. -/
def readAnswer (ws : List TWord) : Bytes :=
  ws.flatMap (fun w => leOf 4 w.val.toNat) ++ tagBytes ws ++ List.replicate ((4 - (tagBytes ws).length % 4) % 4) 0

theorem State.perform_read {v : State} {r : HostReq} (h : r.type = 1) : v.perform r = v.hostRead r.body := by
  unfold State.perform
  rw [h]
  rfl

theorem exec_read_unreached {as : List Nat} (has : as = readAddresses (requestOf (msgOf src b)).body) (h : s.Performs src b 1)
    (hbad : ∃ a, a ∈ as ∧ s.hostReach a = false) : ∃ u, exec (.read src b) s = .next u ∧
    Answered (requestOf (msgOf src b)) src.isSome (s.performsIn src b) u (requestOf (msgOf src b)).auth 3 [] false := by
  subst has
  obtain ⟨a, ha, hreach⟩ := hbad
  refine exec_refused (k := 1) (cmd := .read) (by simp [HostKind]) h (by decide) ((State.perform_read h.type).trans (if_pos ?_))
  refine List.any_eq_true.mpr ⟨a, ha, ?_⟩
  rw [(s.performsIn_hostNoted src b).reach, hreach]
  rfl

theorem exec_read {as : List Nat} {ws : List TWord} (has : as = readAddresses (requestOf (msgOf src b)).body) (h : s.Performs src b 1)
    (hreach : ∀ a, a ∈ as → s.hostReach a = true) (hl : (s.performsIn src b).hostLoads as = .ok (ws, t)) :
    ∃ u, exec (.read src b) s = .next u ∧
    Answered (requestOf (msgOf src b)) src.isSome t u (requestOf (msgOf src b)).auth 0 (readAnswer ws) true := by
  subst has
  refine exec_performed (k := 1) (cmd := .read) (by simp [HostKind]) h ((State.perform_read h.type).trans ((if_neg ?_).trans ?_))
  · intro hany
    obtain ⟨a, ha, hbad⟩ := List.any_eq_true.mp hany
    rw [(s.performsIn_hostNoted src b).reach, hreach a ha] at hbad
    exact Bool.noConfusion hbad
  · unfold readAddresses at hl
    rw [hl]
    rfl

theorem State.perform_write {v : State} {r : HostReq} (h : r.type = 2) : v.perform r = v.hostWrite r.body := by
  unfold State.perform
  rw [h]
  rfl

theorem exec_write_halted (h : s.Performs src b 2) (hfh : s.win.fhalt = true) : ∃ u, exec (.write src b) s = .next u ∧
    Answered (requestOf (msgOf src b)) src.isSome (s.performsIn src b) u (requestOf (msgOf src b)).auth 4 [] false :=
  exec_refused (k := 2) (cmd := .write) (by simp [HostKind]) h (by decide)
    ((State.perform_write h.type).trans (if_pos ((s.fhalt_performsIn src b).trans hfh)))

theorem exec_write {e n : Nat} (h : s.Performs src b 2) (hfh : s.win.fhalt = false)
    (hw : (s.performsIn src b).hostWrites (entriesOf ((requestOf (msgOf src b)).body.length / 8) (requestOf (msgOf src b)).body) 0 = .ok (e, n, t))
    (hn : n < 65536) : ∃ u, exec (.write src b) s = .next u ∧
    Answered (requestOf (msgOf src b)) src.isSome t u (requestOf (msgOf src b)).auth e (leOf 2 n) (e == 0 || n != 0) := by
  have hfh' : ¬ (s.performsIn src b).win.fhalt = true := by
    rw [s.fhalt_performsIn src b, hfh]
    exact Bool.false_ne_true
  have hperform : (s.performsIn src b).perform (requestOf (msgOf src b)) = .ok ((e, leOf 2 n), t) := by
    rw [State.perform_write h.type]
    refine (if_neg hfh').trans ?_
    rw [hw]
  have hcount : leAt (leOf 2 n) 0 2 = n := by
    have hle := leAt_leOf 2 n []
    rw [List.append_nil, Nat.mod_eq_of_lt (by omega)] at hle
    exact hle
  obtain ⟨u, hu, hans⟩ := exec_performed (k := 2) (cmd := .write) (by simp [HostKind]) h hperform
  rw [hcount] at hans
  exact ⟨u, hu, hans⟩

/-- The entries of a WRITE, one by one (R571). -/
theorem State.hostWrites_entry (a n : Nat) (w : Word) (l : List (Nat × Word)) (s : State) :
    (s.hostReach a = false ∨ writable a = false → s.hostWrites ((a, w) :: l) n = .ok (3, n, s)) ∧
    (s.hostReach a = true → writable a = true → (s.fld F.hstWmaskBlk).testBit (wmaskBit a) = false →
      s.hostWrites ((a, w) :: l) n = .ok (4, n, s)) ∧
    (s.hostReach a = true → writable a = true → (s.fld F.hstWmaskBlk).testBit (wmaskBit a) = true →
      ((decide (0x400F0030 ≤ a ∧ a ≤ 0x400F0040) && s.bit F.hstStatNegd) = true → s.hostWrites ((a, w) :: l) n = .ok (9, n, s)) ∧
      (∀ t, (decide (0x400F0030 ≤ a ∧ a ≤ 0x400F0040) && s.bit F.hstStatNegd) = false → s.hostStore a w = .ok t →
        s.hostWrites ((a, w) :: l) n = t.hostWrites l (n + 1))) := by
  have hrefused {e : Nat} (he : s.entryStatus writable a = e) (hne : e ≠ 0) : s.hostWrites ((a, w) :: l) n = .ok (e, n, s) := by
    rw [State.hostWrites, he]
    exact if_pos hne
  have hunreached (h : s.hostReach a = false ∨ writable a = false) : s.entryStatus writable a = 3 := if_pos (by rcases h with h | h <;> simp [h])
  have hreached (hr : s.hostReach a = true) (hw : writable a = true) :
      s.entryStatus writable a = if (s.fld F.hstWmaskBlk).testBit (wmaskBit a) then 0 else 4 := if_neg (by simp [hr, hw])
  refine ⟨fun h => hrefused (hunreached h) (by decide), fun hr hw hm => hrefused ((hreached hr hw).trans (if_neg (by simp [hm]))) (by decide),
    fun hr hw hm => ?_⟩
  have hsound : s.entryStatus writable a = 0 := (hreached hr hw).trans (if_pos hm)
  refine ⟨fun hown => ?_, fun t hown hstore => ?_⟩
  · rw [State.hostWrites, hsound]
    exact (if_neg (by decide)).trans (if_pos (by simpa using hown))
  · rw [State.hostWrites, hsound, hstore]
    exact (if_neg (by decide)).trans (if_neg (by simpa using hown))

end

/-! #### TXN (R39, R41, R572) -/

/-- The writes of a transaction that are held: without HOSTOUT none of the output image (R41). -/
def State.keptMoves (s : State) (l : List (Nat × Word)) : List (Nat × Word) :=
  if s.bit F.frmCfgHostout then l else l.filter (fun p => regionOf p.1 != .staging)

/-- The writes that a TXN spells. -/
def movesOf (body : Bytes) : List (Nat × Word) := entriesOf ((body.length - 8) / 8) (body.drop 8)

section
variable {s v : State}

theorem State.noteHigh_tim (s : State) (l : List (Nat × Word)) : ∃ x, s.noteHigh l = s.setTim (fun _ => x) := by
  unfold State.noteHigh
  dsimp only
  refine st_foldl (P := fun t => ∃ x, t = s.setTim (fun _ => x)) (fun t e ht => ?_) ⟨s.tim, rfl⟩
  obtain ⟨x, rfl⟩ := ht
  split
  · exact ⟨_, rfl⟩
  · split
    · exact ⟨_, rfl⟩
    · exact ⟨x, rfl⟩

/-- HOSTREJ is set where writes are dropped. -/
def State.hostRejected (s : State) (l : List (Nat × Word)) : State :=
  if !s.bit F.frmCfgHostout && l.any (fun p => regionOf p.1 == .staging) then s.setBit F.frmStatHostrej else s

theorem State.keptMoves_lt (s : State) (l : List (Nat × Word)) :
    decide ((s.keptMoves l).length < l.length) = (!s.bit F.frmCfgHostout && l.any (fun p => regionOf p.1 == .staging)) := by
  unfold State.keptMoves
  cases s.bit F.frmCfgHostout with
  | true => simp
  | false =>
    rw [Bool.eq_iff_iff]
    simp [List.length_filter_lt_length_iff_exists]

theorem State.hostRejected_keeps (s : State) (l : List (Nat × Word)) : s.keeps (s.hostRejected l) [.reg F.frmStatHostrej.addr] := by
  unfold State.hostRejected
  split
  · exact s.setFld_keeps _ _
  · exact s.keeps_refl _

theorem State.hostRejected_held (s : State) (l : List (Nat × Word)) : (s.hostRejected l).frm.held = s.frm.held := by
  unfold State.hostRejected
  split <;> rfl

theorem State.hostRejected_bits (hs : s.canonical) (l : List (Nat × Word)) :
    (s.hostRejected l).bit F.frmStatHostrej = (s.bit F.frmStatHostrej || decide ((s.keptMoves l).length < l.length)) ∧
    (s.hostRejected l).bit F.frmStatHostroll = s.bit F.frmStatHostroll := by
  rw [s.keptMoves_lt l]
  unfold State.hostRejected
  split
  · next h =>
    rw [h, Bool.or_true]
    exact ⟨State.bit_setBit_same hs rfl (by decide),
      congrArg (· != 0) (State.fld_put_beside hs F.frmStatHostrej F.frmStatHostroll 1)⟩
  · next h =>
    rw [Bool.not_eq_true] at h
    rw [h, Bool.or_false]
    exact ⟨rfl, rfl⟩

/-- A transaction held: its item ends the list. -/
theorem State.holdTxn_eq (s : State) (l : List (Nat × Word)) (edge tag : Nat) : ∃ x, s.holdTxn l edge tag =
    { (s.hostRejected l).setTim (fun _ => x) with
      frm := { ((s.hostRejected l).setTim (fun _ => x)).frm with
        held := s.frm.held ++ [.txn (s.keptMoves l) ((s.keptMoves l).any (fun p => regionOf p.1 == .staging)) edge tag] } } := by
  obtain ⟨x, hx⟩ := (s.hostRejected l).noteHigh_tim (s.keptMoves l)
  refine ⟨x, ?_⟩
  have hholds : s.holdTxn l edge tag = { (s.hostRejected l).noteHigh (s.keptMoves l) with
      frm := { ((s.hostRejected l).noteHigh (s.keptMoves l)).frm with held := ((s.hostRejected l).noteHigh (s.keptMoves l)).frm.held ++
        [.txn (s.keptMoves l) ((s.keptMoves l).any (fun p => regionOf p.1 == .staging)) edge tag] } } := rfl
  have hheld : ((s.hostRejected l).setTim (fun _ => x)).frm.held = s.frm.held := s.hostRejected_held l
  rw [hholds, hx, hheld]

/-- What a held transaction leaves behind. -/
theorem State.holdTxn_spec (hs : s.canonical) (l : List (Nat × Word)) (edge tag : Nat) :
    (s.holdTxn l edge tag).frm.held =
      s.frm.held ++ [.txn (s.keptMoves l) ((s.keptMoves l).any (fun p => regionOf p.1 == .staging)) edge tag] ∧
    (s.holdTxn l edge tag).bit F.frmStatHostrej = (s.bit F.frmStatHostrej || decide ((s.keptMoves l).length < l.length)) ∧
    (s.holdTxn l edge tag).bit F.frmStatHostroll = s.bit F.frmStatHostroll ∧
    s.keeps (s.holdTxn l edge tag) [.held, .tim, .reg F.frmStatHostroll.addr] := by
  obtain ⟨x, hx⟩ := s.holdTxn_eq l edge tag
  obtain ⟨hrej, hroll⟩ := s.hostRejected_bits hs l
  rw [hx]
  refine ⟨rfl, hrej, hroll, ?_⟩
  have hnoted : s.keeps ((s.hostRejected l).setTim (fun _ => x)) [.reg F.frmStatHostrej.addr, .tim] :=
    State.keeps_trans (s.hostRejected_keeps l) (State.setTim_keeps _ _)
  refine State.keeps_trans hnoted (State.held_keeps _ _) (fun p hp => ?_) (by simp)
  simp only [List.mem_cons, List.not_mem_nil, or_false] at hp
  rcases hp with rfl | rfl
  · exact List.mem_cons_of_mem _ (List.mem_cons_of_mem _ (List.mem_cons_self (a := Part.reg F.frmStatHostroll.addr)))
  · simp

/-! ##### What a TXN is judged by -/

theorem State.hostTxn_halted {body : Bytes} {tag : Nat} (h : s.win.fhalt = true) : s.hostTxn body tag = s.txnRefused 4 := if_pos h

/-- The first entry decides where it is not sound. -/
theorem State.hostTxn_head {body : Bytes} {tag : Nat} {p : Nat × Word} (h : s.win.fhalt = false) (hp : p ∈ (movesOf body).head?)
    (he : s.entryStatus stageable p.1 ≠ 0) : s.hostTxn body tag = s.txnRefused (s.entryStatus stageable p.1) := by
  have hbad : ((movesOf body).map (fun p => s.entryStatus stageable p.1)).find? (· != 0) = some (s.entryStatus stageable p.1) := by
    cases hl : movesOf body with
    | nil =>
      rw [hl] at hp
      exact absurd hp (by simp)
    | cons q l =>
      rw [hl] at hp
      obtain rfl : q = p := by simpa using hp
      rw [List.map_cons]
      exact List.find?_cons_of_pos (by simpa using he)
  unfold movesOf at hbad
  unfold State.hostTxn
  dsimp only
  rw [hbad]
  exact if_neg (by rw [h]; exact Bool.false_ne_true)

/-- Entries that are all sound leave the edge to decide. -/
theorem State.hostTxn_sound {body : Bytes} {tag : Nat} (h : s.win.fhalt = false)
    (hall : ∀ p, p ∈ movesOf body → s.entryStatus stageable p.1 = 0) :
    s.hostTxn body tag = if 8 ≤ s.txnHeld then s.txnRefused 7
      else if s.frm.frame.toNat + 1 + 65535 < leAt body 0 6 then s.txnRefused 8
      else if leAt body 0 6 ≠ 0 ∧ s.schedule ≤ leAt body 0 6 then
        .ok ((0, leOf 6 (leAt body 0 6)), s.holdTxn (movesOf body) (leAt body 0 6) tag)
      else if leAt body 0 6 ≠ 0 ∧ (body.getD 6 0) % 2 == 1 then s.txnRefused 6
      else .ok ((0, leOf 6 s.schedule), (if leAt body 0 6 ≠ 0 ∨ s.schedule ≠ s.frm.frame.toNat + 1 then s.setBit F.frmStatHostroll
        else s).holdTxn (movesOf body) s.schedule tag) := by
  have hbad : ((movesOf body).map (fun p => s.entryStatus stageable p.1)).find? (· != 0) = none := by
    refine List.find?_eq_none.mpr fun e he => ?_
    obtain ⟨p, hp, rfl⟩ := List.mem_map.mp he
    rw [hall p hp]
    exact Bool.false_ne_true
  unfold movesOf at hbad ⊢
  unfold State.hostTxn
  dsimp only
  rw [hbad]
  exact if_neg (by rw [h]; exact Bool.false_ne_true)

theorem State.frame_lt_schedule (s : State) : s.frm.frame.toNat + 1 ≤ s.schedule ∧ s.schedule ≤ s.frm.frame.toNat + 2 := by
  unfold State.schedule
  split <;> omega

/-- HOSTROLL is set where the edge named is too near (R39). -/
def State.rolled (s : State) (edge : Nat) : State :=
  if edge < s.schedule ∧ (edge ≠ 0 ∨ s.schedule ≠ s.frm.frame.toNat + 1) then s.setBit F.frmStatHostroll else s

/-- The edge for which a transaction is held. -/
def State.heldFor (s : State) (edge : Nat) : Nat := if s.schedule ≤ edge then edge else s.schedule

theorem State.hostTxn_held {body : Bytes} {tag : Nat} (h : s.win.fhalt = false) (hall : ∀ p, p ∈ movesOf body → s.entryStatus stageable p.1 = 0)
    (hfew : s.txnHeld < 8) (hnear : leAt body 0 6 ≤ s.frm.frame.toNat + 65536)
    (hedge : leAt body 0 6 = 0 ∨ s.schedule ≤ leAt body 0 6 ∨ body.getD 6 0 % 2 ≠ 1) :
    s.hostTxn body tag = .ok ((0, leOf 6 (s.heldFor (leAt body 0 6))),
      (s.rolled (leAt body 0 6)).holdTxn (movesOf body) (s.heldFor (leAt body 0 6)) tag) := by
  obtain ⟨hlo, -⟩ := s.frame_lt_schedule
  rw [State.hostTxn_sound h hall, if_neg (by omega), if_neg (by omega)]
  unfold State.rolled State.heldFor
  by_cases hat : s.schedule ≤ leAt body 0 6
  · rw [if_pos ⟨by omega, hat⟩, if_pos hat, if_neg (by omega)]
  · have hstrict : ¬ (leAt body 0 6 ≠ 0 ∧ (body.getD 6 0 % 2 == 1) = true) := by
      rintro ⟨hne, hodd⟩
      have hodd' := eq_of_beq hodd
      omega
    rw [if_neg (fun hc => hat hc.2), if_neg hstrict, if_neg hat]
    have hroll : (leAt body 0 6 < s.schedule ∧ (leAt body 0 6 ≠ 0 ∨ s.schedule ≠ s.frm.frame.toNat + 1)) ↔
        (leAt body 0 6 ≠ 0 ∨ s.schedule ≠ s.frm.frame.toNat + 1) := and_iff_right (by omega)
    simp only [hroll]

theorem State.rolled_keeps (s : State) (edge : Nat) : s.keeps (s.rolled edge) [.reg F.frmStatHostroll.addr] := by
  unfold State.rolled
  split
  · exact s.setFld_keeps _ _
  · exact s.keeps_refl _

theorem State.rolled_held (s : State) (edge : Nat) : (s.rolled edge).frm.held = s.frm.held := by
  unfold State.rolled
  split <;> rfl

theorem State.rolled_bits (hs : s.canonical) (edge : Nat) : (s.rolled edge).canonical ∧
    (s.rolled edge).bit F.frmStatHostroll = (s.bit F.frmStatHostroll ||
      decide (edge < s.schedule ∧ (edge ≠ 0 ∨ s.schedule ≠ s.frm.frame.toNat + 1))) ∧
    (s.rolled edge).bit F.frmStatHostrej = s.bit F.frmStatHostrej := by
  unfold State.rolled
  split
  · next h =>
    rw [decide_eq_true h, Bool.or_true]
    exact ⟨State.canonical_setFld hs _ _, State.bit_setBit_same hs rfl (by decide),
      congrArg (· != 0) (State.fld_put_beside hs F.frmStatHostroll F.frmStatHostrej 1)⟩
  · next h =>
    rw [decide_eq_false h, Bool.or_false]
    exact ⟨hs, rfl, rfl⟩

theorem State.keptMoves_rolled (s : State) (edge : Nat) (l : List (Nat × Word)) : (s.rolled edge).keptMoves l = s.keptMoves l := by
  have hout : (s.rolled edge).bit F.frmCfgHostout = s.bit F.frmCfgHostout :=
    State.bit_of_keeps (s.rolled_keeps edge) F.frmCfgHostout (by decide)
  unfold State.keptMoves
  rw [hout]

/-- A transaction held for an edge, in all. -/
theorem State.holdRolled_spec (hs : s.canonical) (edge : Nat) (l : List (Nat × Word)) (at_ tag : Nat) :
    ((s.rolled edge).holdTxn l at_ tag).frm.held =
      s.frm.held ++ [.txn (s.keptMoves l) ((s.keptMoves l).any (fun p => regionOf p.1 == .staging)) at_ tag] ∧
    ((s.rolled edge).holdTxn l at_ tag).bit F.frmStatHostroll = (s.bit F.frmStatHostroll ||
      decide (edge < s.schedule ∧ (edge ≠ 0 ∨ s.schedule ≠ s.frm.frame.toNat + 1))) ∧
    ((s.rolled edge).holdTxn l at_ tag).bit F.frmStatHostrej = (s.bit F.frmStatHostrej || decide ((s.keptMoves l).length < l.length)) ∧
    s.keeps ((s.rolled edge).holdTxn l at_ tag) [.held, .tim, .reg F.frmStatHostroll.addr] := by
  obtain ⟨hcan, hroll, hrej⟩ := s.rolled_bits hs edge
  obtain ⟨hheld, hrej', hroll', hkeeps⟩ := State.holdTxn_spec hcan l at_ tag
  rw [s.rolled_held edge, s.keptMoves_rolled edge l] at hheld
  rw [s.keptMoves_rolled edge l, hrej] at hrej'
  exact ⟨hheld, hroll'.trans hroll, hrej', State.keeps_trans (s.rolled_keeps edge) hkeeps (by simp) (List.Subset.refl _)⟩

end

section
variable {s : State} {src : Option (Nat × Nat)} {b : List Nat}

theorem State.perform_txn {v : State} {r : HostReq} (h : r.type = 3) : v.perform r = v.hostTxn r.body r.tag := by
  unfold State.perform
  rw [h]
  rfl

/-- A TXN that is refused where it is performed. -/
theorem exec_txn_refused {e : Nat} (h : s.Performs src b 3) (he : e ≠ 0)
    (hp : (s.performsIn src b).hostTxn (requestOf (msgOf src b)).body (requestOf (msgOf src b)).tag =
      (s.performsIn src b).txnRefused e) :
    TxnRefused s src b (.txn src b) e := by
  intro hev
  obtain ⟨-, hrej, hkeeps⟩ := State.txnRej_spec (State.canonical_performsIn h.takes.canonical)
    (((s.performsIn_hostNoted src b).fld F.hstEvenCause).trans hev)
  obtain ⟨u, hu, hans⟩ := exec_refused (k := 3) (cmd := .txn) (by simp [HostKind]) h he ((State.perform_txn h.type).trans hp)
  exact ⟨_, u, hu, hans, hrej, hkeeps⟩

theorem exec_txn_halted (h : s.Performs src b 3) (hfh : s.win.fhalt = true) : TxnRefused s src b (.txn src b) 4 :=
  exec_txn_refused h (by decide) (State.hostTxn_halted ((s.fhalt_performsIn src b).trans hfh))

theorem exec_txn_head (h : s.Performs src b 3) (hfh : s.win.fhalt = false) {p : Nat × Word}
    (hp : p ∈ (movesOf (requestOf (msgOf src b)).body).head?) (he : s.entryStatus stageable p.1 ≠ 0) :
    TxnRefused s src b (.txn src b) (s.entryStatus stageable p.1) := by
  have hstatus := (s.performsIn_hostNoted src b).entryStatus stageable p.1
  have hgoes := State.hostTxn_head (tag := (requestOf (msgOf src b)).tag) ((s.fhalt_performsIn src b).trans hfh) hp (by rwa [hstatus])
  rw [hstatus] at hgoes
  exact exec_txn_refused h he hgoes

/-- A transaction all of whose entries are sound: the number held and the edge decide. -/
theorem State.hostTxn_late {v : State} {body : Bytes} {tag : Nat} (h : v.win.fhalt = false)
    (hall : ∀ p, p ∈ movesOf body → v.entryStatus stageable p.1 = 0) :
    (8 ≤ v.txnHeld → v.hostTxn body tag = v.txnRefused 7) ∧
    (v.txnHeld < 8 → v.frm.frame.toNat + 65536 < leAt body 0 6 → v.hostTxn body tag = v.txnRefused 8) ∧
    (v.txnHeld < 8 → leAt body 0 6 ≠ 0 → leAt body 0 6 < v.schedule → body.getD 6 0 % 2 = 1 → v.hostTxn body tag = v.txnRefused 6) := by
  obtain ⟨-, hsoon⟩ := v.frame_lt_schedule
  rw [State.hostTxn_sound h hall]
  refine ⟨fun hmany => ?_, fun hfew hfar => ?_, fun hfew h0 hnear hstrict => ?_⟩
  · rw [if_pos hmany]
  · have hfar' : v.frm.frame.toNat + 1 + 65535 < leAt body 0 6 := Nat.lt_of_le_of_lt (Nat.add_assoc v.frm.frame.toNat 1 65535).le hfar
    rw [if_neg (by omega), if_pos hfar']
  · rw [if_neg (by omega), if_neg (by omega), if_neg (by omega), if_pos ⟨h0, beq_iff_eq.mpr hstrict⟩]

theorem exec_txn_sound (h : s.Performs src b 3) (hfh : s.win.fhalt = false)
    (hall : ∀ p, p ∈ movesOf (requestOf (msgOf src b)).body → s.entryStatus stageable p.1 = 0) :
    (8 ≤ s.txnHeld → TxnRefused s src b (.txn src b) 7) ∧
    (s.txnHeld < 8 → s.frm.frame.toNat + 65536 < leAt (requestOf (msgOf src b)).body 0 6 → TxnRefused s src b (.txn src b) 8) ∧
    (s.txnHeld < 8 → leAt (requestOf (msgOf src b)).body 0 6 ≠ 0 → leAt (requestOf (msgOf src b)).body 0 6 < s.schedule →
      (requestOf (msgOf src b)).body.getD 6 0 % 2 = 1 → TxnRefused s src b (.txn src b) 6) := by
  have hnoted := s.performsIn_hostNoted src b
  obtain ⟨hmany, hfar, hstrict⟩ := State.hostTxn_late (tag := (requestOf (msgOf src b)).tag) ((s.fhalt_performsIn src b).trans hfh)
    (fun p hp => (hnoted.entryStatus stageable p.1).trans (hall p hp))
  rw [hnoted.txnHeld] at hmany hfar hstrict
  rw [hnoted.frm] at hfar
  rw [hnoted.schedule] at hstrict
  exact ⟨fun h8 => exec_txn_refused h (by decide) (hmany h8), fun h8 he => exec_txn_refused h (by decide) (hfar h8 he),
    fun h8 h0 hnear hodd => exec_txn_refused h (by decide) (hstrict h8 h0 hnear hodd)⟩

/-- A transaction is held (R39, R572). -/
theorem exec_txn_held (h : s.Performs src b 3) (hfh : s.win.fhalt = false)
    (hall : ∀ p, p ∈ movesOf (requestOf (msgOf src b)).body → s.entryStatus stageable p.1 = 0) (hfew : s.txnHeld < 8)
    (hnear : leAt (requestOf (msgOf src b)).body 0 6 ≤ s.frm.frame.toNat + 65536)
    (hedge : leAt (requestOf (msgOf src b)).body 0 6 = 0 ∨ s.schedule ≤ leAt (requestOf (msgOf src b)).body 0 6 ∨
      (requestOf (msgOf src b)).body.getD 6 0 % 2 ≠ 1) :
    ∃ t u, exec (.txn src b) s = .next u ∧ Answered (requestOf (msgOf src b)) src.isSome t u (requestOf (msgOf src b)).auth 0
        (leOf 6 (s.heldFor (leAt (requestOf (msgOf src b)).body 0 6))) true ∧
      t.frm.held = s.frm.held ++ [.txn (s.keptMoves (movesOf (requestOf (msgOf src b)).body))
        ((s.keptMoves (movesOf (requestOf (msgOf src b)).body)).any (fun p => regionOf p.1 == .staging))
        (s.heldFor (leAt (requestOf (msgOf src b)).body 0 6)) (requestOf (msgOf src b)).tag] ∧
      (t.bit F.frmStatHostroll = (s.bit F.frmStatHostroll || decide (leAt (requestOf (msgOf src b)).body 0 6 < s.schedule ∧
        (leAt (requestOf (msgOf src b)).body 0 6 ≠ 0 ∨ s.schedule ≠ s.frm.frame.toNat + 1)))) ∧
      (t.bit F.frmStatHostrej = (s.bit F.frmStatHostrej ||
        decide ((s.keptMoves (movesOf (requestOf (msgOf src b)).body)).length < (movesOf (requestOf (msgOf src b)).body).length))) ∧
      (s.performsIn src b).keeps t [.hst, .held, .tim, .reg F.frmStatHostroll.addr] := by
  have hnoted := s.performsIn_hostNoted src b
  have hkept (l : List (Nat × Word)) : (s.performsIn src b).keptMoves l = s.keptMoves l := by
    unfold State.keptMoves
    rw [hnoted.bit F.frmCfgHostout]
  have hat (e : Nat) : (s.performsIn src b).heldFor e = s.heldFor e := by
    unfold State.heldFor
    rw [hnoted.schedule]
  have hgoes := State.hostTxn_held (tag := (requestOf (msgOf src b)).tag) ((s.fhalt_performsIn src b).trans hfh)
    (fun p hp => (hnoted.entryStatus stageable p.1).trans (hall p hp)) (by rwa [hnoted.txnHeld]) (by rwa [hnoted.frm])
    (by rwa [hnoted.schedule])
  rw [hat] at hgoes
  obtain ⟨u, hu, hans⟩ := exec_performed (k := 3) (cmd := .txn) (by simp [HostKind]) h ((State.perform_txn h.type).trans hgoes)
  obtain ⟨hheld, hroll, hrej, hkeeps⟩ := State.holdRolled_spec (State.canonical_performsIn (src := src) (b := b) h.takes.canonical)
    (leAt (requestOf (msgOf src b)).body 0 6) (movesOf (requestOf (msgOf src b)).body)
    (s.heldFor (leAt (requestOf (msgOf src b)).body 0 6)) (requestOf (msgOf src b)).tag
  rw [hkept, hnoted.frm] at hheld
  rw [hnoted.bit F.frmStatHostroll, hnoted.schedule, hnoted.frm] at hroll
  rw [hkept, hnoted.bit F.frmStatHostrej] at hrej
  exact ⟨_, u, hu, hans, hheld, hroll, hrej, State.keeps_mono hkeeps (List.subset_cons_self _ _)⟩

/-- What arrives at the Host SPI in a logic dip stalls. -/
theorem exec_host_stalls (s : State) (b : List Nat) (hdip : s.inDip = true) : exec (.read none b) s = .next (s.stall (.read none b)) ∧
    exec (.write none b) s = .next (s.stall (.write none b)) ∧ exec (.txn none b) s = .next (s.stall (.txn none b)) ∧
    exec (.hreset none b) s = .next (s.stall (.hreset none b)) ∧ exec (.hostNop none b) s = .next (s.stall (.hostNop none b)) ∧
    exec (.hostBadRequest none b) s = .next (s.stall (.hostBadRequest none b)) :=
  have hguard : ((none : Option (Nat × Nat)).isNone && s.inDip) = true := hdip
  ⟨if_pos hguard, if_pos hguard, if_pos hguard, if_pos hguard, if_pos hguard, if_pos hguard⟩

end

/-- Settles O54: a message is taken on its transport, judged in a state that differs from the one it came in by notes of the host block
alone, and what it does is answered and counted beside it. -/
theorem hostRequestsComplete : Obligations.HostRequestsComplete := by
  unfold Obligations.HostRequestsComplete
  intro kinds s b src udp m r s0 heard taken answers macOk plainOk may s1 as entries moves edge refused
  have hrefused : refused = TxnRefused s src b := rfl
  have hanswers : answers = Answered (requestOf (msgOf src b)) src.isSome := rfl
  have hs1 : s1 = s.performsIn src b := rfl
  clear_value refused s1 answers
  subst hrefused hs1 hanswers
  have htakes (h : taken) : s.Takes src b := by
    rcases h with ⟨hs, hh, hfree⟩ | ⟨hs, hh, hu⟩
    · refine ⟨hs, hh, fun hn => ?_⟩
      subst hn
      exact hfree
    · refine ⟨hs, hh, fun hn => ?_⟩
      subst hn
      exact Bool.noConfusion hu
  have has : as = readAddresses r.body := rfl
  refine ⟨fun hn hdip => exec_host_stalls s b hdip, fun k cmd hk hport hnot => (exec_hostKind hk hport).trans (State.request_unheard hnot),
    fun k cmd q hk hu hh hkind hresp hlen hs => ?_, fun htaken => ⟨exec_badHeader (htakes htaken),
      fun k cmd hk hkind hb hfail hev => exec_unauthentic hk (htakes htaken) hkind hb hfail hev,
      fun hmay hf ht => exec_unfit (htakes htaken) hmay.1 hmay.2 hf ht,
      fun hmay hf ht => exec_unfit_txn (htakes htaken) hmay.1 hmay.2 hf ht, fun hmay hf => ?_⟩,
    fun a n w l => State.hostWrites_entry a n w l s⟩
  · cases src with
    | none => exact exec_overflow hk hs hh hkind hresp hlen
    | some p => exact Bool.noConfusion hu
  · have hperforms {k : Nat} (ht : r.type = k) : s.Performs src b k := ⟨htakes htaken, hmay.1, hmay.2, hf, ht⟩
    exact ⟨fun ht => exec_nop (hperforms ht), fun ht hfh => exec_hreset (hperforms ht) hfh,
      fun ht hfh => exec_hreset_halted (hperforms ht) hfh,
      fun ht hbad => exec_read_unreached has (hperforms ht) hbad,
      fun ws t ht hreach hl => exec_read has (hperforms ht) hreach hl,
      fun ht hfh => exec_write_halted (hperforms ht) hfh,
      fun e n t ht hfh hw hn => exec_write (hperforms ht) hfh hw hn,
      fun ht => ⟨fun hfh => exec_txn_halted (hperforms ht) hfh, fun hfh =>
        ⟨fun p hp he => exec_txn_head (hperforms ht) hfh hp he, fun hall =>
          have ⟨hmany, hfar, hstrict⟩ := exec_txn_sound (hperforms ht) hfh hall
          ⟨hmany, hfar, hstrict, fun hfew hnear hedge =>
            exec_txn_held (hperforms ht) hfh hall hfew hnear hedge⟩⟩⟩⟩

end Sys2Proof.Machine
end
